-- ==== Sys2Proof/Word.lean ====
section
/-! DEFINITION. The word types of the device. -/

namespace Sys2Proof

/-- A byte of memory or of a frame. -/
abbrev Byte := BitVec 8

/-- A register's word. -/
abbrev W32 := BitVec 32

/-- A 64-bit word. -/
abbrev W64 := BitVec 64

end Sys2Proof
end

