-- ==== Sys2Proof/Syntax.lean ====
section
/-! DEFINITION. The commands of the block: one constructor per row of spec/opcode_table.json, with the operands the
rules of the row give it. Where a row is an event that the device meets (a comparator trips, a frame arrives), its operands
are what the rules say is seen at that moment: a unit's number, a measured code, the bytes of a frame. -/

namespace Sys2Proof

/-- What the SECDED check of a 64-bit word finds on a read (R21). -/
inductive Ecc where
  | clean
  | single
  | double
  deriving DecidableEq, Repr

/-- An initiator of the fabric: its port (R13) and the unit behind the port (a host core 0 to 7, a Calfin engine; on port 14
0 CAN, 1 10BASE-T1S, 2 Feeder link, 3 JTAG debug). Shadows (R33) and marks (R153) are held for each initiator. -/
structure Initiator where
  port : Nat
  sub  : Nat
  deriving DecidableEq, Repr

/-- What a read of a 64-bit register asks for (R33). -/
inductive Half where
  | whole
  | lo
  | hi
  deriving DecidableEq, Repr

/-- A quantity of the region limits (R36). -/
inductive Quantity where
  | freq
  | supply
  | temp
  | skew
  deriving DecidableEq, Repr

/-- What the monitor of two adjacent islands measured in a row (R36), in thousandths: the differences of the clocks of islands 1 to 8 from
island 0's in ppm, at the end of their last gates; the voltages of the two domains in mV, every 100 ns; the two temperatures in K. -/
inductive Measured where
  | freq (dev : List Int)
  | supply (volts : List (Nat × Nat))
  | temp (kelvin : List (Int × Int))
  deriving DecidableEq, Repr

/-- A piece of stroke-bound work, or a task on the same rule (R28, R49, R231). -/
inductive Work where
  | sequence (n : Nat)
  | program (e : Nat)
  | forge
  | truss
  | bellows
  | battery
  | mortise
  | assay
  deriving DecidableEq, Repr

/-- The numbered work exists: a sequence (R75) or a program's engine (R124). -/
def Work.ok : Work → Bool
  | .sequence n => decide (n < 128)
  | .program e => decide (e < 48)
  | _ => true

/-- Who asks Coffer (R410, R418): a channel, whose frame lies in memory, or the dedicated path of an island with its frame. -/
inductive KeyReq where
  | channel (c : Nat)
  | path (island : Nat) (frame : List Byte)
  deriving DecidableEq, Repr

/-- The channel and the island exist. -/
def KeyReq.ok : KeyReq → Bool
  | .channel c => decide (c < 13)
  | .path n _ => decide (n < 9)

/-- An input point of Truss (R162). -/
inductive Input where
  | budget
  | curtail
  | aux
  deriving DecidableEq, Repr

/-- One sample of the Assay (R212, R213, R220, R248): the outputs of its 64 decimators, the inputs it finds stuck (R93), the
codes of converters A and B on the 16 AC channels, the code of converter C, and whether PFW_N reads low. -/
structure MeterSample where
  mods  : List Int
  stuck : List Nat
  a     : List Int
  b     : List Int
  c     : Int
  pfw   : Bool
  deriving DecidableEq, Repr

/-- The lists have their lengths and every code has 22 bits. -/
def MeterSample.ok (x : MeterSample) : Bool :=
  let fits (v : Int) : Bool := decide (-(2 ^ 21) ≤ v ∧ v < 2 ^ 21)
  decide (x.mods.length = 64 ∧ x.a.length = 16 ∧ x.b.length = 16) && (x.c :: x.mods ++ x.a ++ x.b).all fits
    && x.stuck.all fun m => decide (m < 64)

namespace Machine

/-- Numbered cells of one kind: the value an unlisted number holds, and the listed ones. -/
structure Arr (α : Type) where
  dflt  : α
  cells : List (Nat × α)
  deriving DecidableEq, Repr

/-- What a plan entry gives an output. Currents are in 0.1 A, voltages in 0.1 V. -/
structure OutPlan where
  grant : Nat
  /-- The allocation before the ramp of R167. -/
  want  : Nat
  /-- TRS.OUT_STATE and the binding limit (TRS_OUT_STAT.LIMIT). -/
  state : Nat
  limit : Nat
  /-- The demand and the cable limit that the entry assumed (R174). -/
  ask   : Nat
  volts : Nat
  cable : Nat
  /-- V_REQ as the entry assumed it (R175). -/
  vreq  : Nat
  /-- Heats in a row in which one bay fewer would have carried the grant (R165). -/
  fewer : Nat
  deriving DecidableEq, Repr

/-- What a plan entry gives a bay: mode (0 OFF, 1 PRECHARGE, 2 CONDUCT), output, crosspoint, set-points, the heat at which
the mode began, the heat at which the contactor command of that mode is due (0 none), and the AVAIL it assumed. -/
structure BayPlan where
  mode  : Nat
  out   : Option Nat
  xp    : Nat
  isp   : Nat
  vsp   : Nat
  since : Nat
  act   : Nat
  avail : Nat
  deriving DecidableEq, Repr

/-- A plan entry (R174): battery set-point and import in 10 W, contactor commands due (crosspoint, close). -/
structure Entry where
  heat : Nat
  outs : Arr OutPlan
  bays : Arr BayPlan
  bat  : Int
  imp  : Nat
  cmds : List (Nat × Bool)
  /-- The heat in whose work it was built (R180). -/
  built : Nat
  deriving DecidableEq, Repr

end Machine

/-- What the device meets at a stroke marker: the skew of the markers of islands 1 to 8 in ns, by their echoes (R36), the gPTP time in ns (R317), on a standby the
lock error in steps of 78.125 ps (R300), and the guard-filter level of each Feeder-link band in dBµV (FDL_BAND_STAT.NOISE). -/
structure MarkerInput where
  echo  : List Nat
  ptp   : Nat
  lock  : Int
  noise : List Nat
  deriving DecidableEq, Repr

/-- A point as the holder's update carries it (R302). -/
structure PointUpdate where
  id    : Nat
  value : W64
  qual  : Nat
  seq   : Nat
  cls   : Nat
  ident : Nat
  time  : Nat
  ofs   : Nat
  deriving DecidableEq, Repr

/-- The Forge state of a mirror frame (R302): bays with RUN, phases shed, trims in 0.01 %, dither accumulators, drops with their
CAUSE, bay faults with their CAUSE. -/
structure ForgeMirror where
  run    : List Nat
  shed   : List Nat
  trims  : List (Nat × Int)
  dither : List (Nat × Nat)
  drops  : List (Nat × Nat)
  faults : List (Nat × Nat)
  deriving DecidableEq, Repr

/-- A partner of the holder's catalogue (R335): slot, SENDER, address, the session's nonces, its state, and the least COUNTER that is
still accepted from it. -/
structure PartnerUpdate where
  slot   : Nat
  state  : Nat
  sender : Nat
  addr   : Nat
  nonceD : List Byte
  nonceP : List Byte
  inCtr  : Nat
  deriving DecidableEq, Repr

/-- The Feeder-link state of the holder (R381): its COUNTER, state and last accepted COUNTER of each node, and of curtailment whether a
limit is in force, the limit, the heats it lasts (none: until a release) and the last COUNTER. -/
structure FeederMirror where
  counter : Nat
  nodes   : List (Nat × Nat × Option Nat)
  active  : Bool
  limit   : Nat
  left    : Option Nat
  curtCtr : Nat
  deriving DecidableEq, Repr

/-- The Joinery row of a mirror frame (R302): the sender's STATE, the IMAGE_ID it has staged and checked, its JNY_APPLY_HEAT, and
whether its test stroke found every condition met, so that it commits at the coming marker (R61, R64). -/
structure JnyMirror where
  state   : Nat
  staged  : Option Nat
  apply   : Nat
  commits : Bool
  deriving DecidableEq, Repr

/-- The Mortise row of a mirror frame (R301, R302): the channels whose two switches the holder commands, its function states in P0 and in P1, the
supply whose pulse comes next; and what a standby loads in CATCHUP: the host's requests of outputs and brakes, the inputs whose
start-up test pends, the brakes with a valid test, and the consumed connections that are bound with their last SEQ. -/
structure MrtMirror where
  cmds    : List Nat
  fns     : List (Nat × Nat × Nat)
  slot    : Nat
  outReq  : Nat
  brkReq  : Nat
  startup : List Nat
  tested  : List Nat
  bound   : List (Nat × Nat)
  deriving DecidableEq, Repr

/-- What a receive input of the Feeder link measures over one symbol (R371): the energies of the four tones and of the guard filters below and
above them, all referred to the input, so that the gain is taken out, and whether its converter clipped. -/
structure ToneInput where
  tone0  : Nat
  tone1  : Nat
  tone2  : Nat
  tone3  : Nat
  below  : Nat
  above  : Nat
  clip   : Bool
  deriving DecidableEq, Repr

/-- One symbol at the three receive inputs L1 to L3 (R371, R376). -/
structure FdlSymbol where
  l1 : ToneInput
  l2 : ToneInput
  l3 : ToneInput
  deriving DecidableEq, Repr

/-- What a frame from the other device of a pair carries (R302, R303), after its CRC-32C was judged: whether its hot state came
after the marker that starts the next instance, the sender's state and IMAGE_ID, once a heat its Joinery row, the
state-window words by engine, hot and cold, the result registers, the Forge state, a PDO word just decided, point updates and their
backlog in strokes, ring 62 entries, the committed entry and the window, the Mortise row of a safety cycle, the last SEQ of
each produced connection, the catalogue and the station's COUNTER, and the Feeder-link state. -/
structure Mirror where
  crcOk    : Bool
  late     : Bool
  sync     : Bool
  image    : Nat
  joinery  : Option JnyMirror
  hot      : List (Nat × Nat × W32)
  cold     : List (Nat × Nat × W32)
  results  : List (Nat × Nat × W32)
  forge    : Option ForgeMirror
  pdo      : Option Nat
  points   : List PointUpdate
  backlog  : Nat
  ring62   : List (List Byte)
  truss    : Option (Machine.Entry × List Machine.Entry)
  mortise  : Option MrtMirror
  seqs     : List (Nat × Nat)
  partners : List PartnerUpdate
  counter  : Option Nat
  feeder   : Option FeederMirror
  deriving DecidableEq, Repr

/-- A CAN frame (R344, R348). -/
structure CanFrame where
  ident : Nat
  xtd   : Bool
  fdf   : Bool
  brs   : Bool
  esi   : Bool
  rtr   : Bool
  data  : List Byte
  deriving DecidableEq, Repr

/-- How a frame attempt ends (R354): sent, arbitration lost, or an error, with its kind (CAN_ERR.LEC) and whether the standard
raises TEC for it. -/
inductive CanEnd where
  | sent
  | lostArb
  | error (lec : Nat) (counts : Bool)
  deriving DecidableEq, Repr

/-- What an access moves: bytes to read, or the bytes written, the lowest address first. -/
inductive Transfer where
  | read (n : Nat)
  | write (bytes : List Byte)
  deriving DecidableEq, Repr

/-- An access on the fabric (R13, R16): its initiator, address and transfer, the instant in the stroke in 10 ns, what the SECDED check
finds on the read (R21), and whether a CAN controller that the access disables receives a frame at that moment (R346). -/
structure Access where
  who  : Initiator
  addr : Nat
  xfer : Transfer
  ofs  : Nat
  ecc  : Ecc
  busy : Bool
  deriving DecidableEq, Repr

/-- The initiator exists (R13). -/
def Initiator.ok (w : Initiator) : Bool := decide (w.port < 16 ∧ w.sub < 48)

/-- A transfer of 1 to 128 bytes by an initiator that exists. -/
def Access.ok (x : Access) : Bool :=
  x.who.ok && decide (x.ofs < 65536) &&
    match x.xfer with | .read n => decide (0 < n ∧ n ≤ 128) | .write b => decide (0 < b.length ∧ b.length ≤ 128)

/-- The commands: one constructor per row of the opcode table. Each docstring names the row, its rule and its summary. -/
inductive Instr where
  /-- STROKE_MARKER (R24). The stroke generator issues the stroke marker at the end of each stroke period and distributes it to every island. -/
  | strokeMarker (x : MarkerInput)
  /-- OVERRUN (R31). Stroke-bound work still unfinished at its deadline is stopped, its partial results are discarded, and the overrun is counted and reported with 0083h. -/
  | overrun (w : Work)
  /-- OVERRUN_LIMIT (R32). The consecutive overrun count of a piece of work reaches its limit and the work's fault action is taken. -/
  | overrunLimit (w : Work)
  /-- FABRIC_ACCESS (R16). An initiator's read or write crosses the fabric and is served, or ends in a bus error, by address map, firewall, width and ECC rules. -/
  | fabricAccess (x : Access)
  /-- SPLIT_READ_LO (R33). A read of the LO half of a 64-bit register copies the HI half into the initiator's shadow and counts its RC fields as read. -/
  | splitReadLo (who : Initiator) (win : Nat) (off : Nat)
  /-- SPLIT_READ_HI (R33). A read of the HI half returns and consumes the initiator's shadow, or the live HI half when no shadow is held. -/
  | splitReadHi (who : Initiator) (win : Nat) (off : Nat)
  /-- SPLIT_WRITE_LO (R34). A write of the LO half of a writable 64-bit register is held for the initiator. -/
  | splitWriteLo (who : Initiator) (win : Nat) (off : Nat) (v : W32)
  /-- SPLIT_WRITE_HI (R34). A write of the HI half writes both halves together with a held LO write, or the HI half alone. -/
  | splitWriteHi (who : Initiator) (win : Nat) (off : Nat) (ofs : Nat) (v : W32)
  /-- REGISTER_WRITE (R10). A write to a register that has no row of its own updates its fields according to their access codes. -/
  | registerWrite (who : Initiator) (win : Nat) (off : Nat) (v : W32)
  /-- REGION_WARN (R36). A region quantity passes its warning threshold, setting the island's WARN bit and reporting 0082h once per excursion. -/
  | regionWarn (island : Nat) (peer : Nat) (quantity : Quantity) (v : Nat)
  /-- REGION_MISMATCH (R38). A region quantity stays over its trip threshold for its detection time, and the chosen island is put into the failed state. -/
  | regionMismatch (a : Nat) (b : Nat) (m : Measured)
  /-- STAGE (R58). JNY_CMD STAGE starts checking the image at JNY_STAGE_ADDR, or is refused with 0109h outside IDLE. -/
  | stage (who : Initiator)
  /-- CANCEL (R65). JNY_CMD CANCEL abandons the pending image, releasing its claims at the next heat boundary. -/
  | cancel (who : Initiator)
  /-- RAISE_FLOOR (R46). JNY_CMD RAISE_FLOOR sets JNY_FLOOR to JNY_ACTIVE_SERIAL, or is refused with 0109h outside IDLE. -/
  | raiseFloor (who : Initiator)
  /-- IMAGE_CHECK_DONE (R46). The loader completes the ordered checks of a staged image and either rejects it or writes the inactive bank and enters PENDING. -/
  | imageCheckDone
  /-- RESOURCE_CLAIM (R60). From the first heat after PENDING the resources named by structural differences are claimed. -/
  | resourceClaim
  /-- JOINERY_COMMIT (R62). When every structural condition held at the test stroke and the apply heat is reached, the new image commits in every island at one marker. -/
  | joineryCommit (x : MarkerInput)
  /-- BUSY_TIMEOUT (R65). JNY_TIMEOUT heats pass in PENDING without a commit, and the image is abandoned with 0106h. -/
  | busyTimeout
  /-- ACQ_TRIGGER (R76). A stroke, PWM or timer trigger fires for a sequence and queues a run to start after DELAY. -/
  | acqTrigger (n : Nat) (t : Nat)
  /-- ACQ_SOFT_TRIG (R76). A write of a sequence number to ACQ_SOFT_TRIG fires that sequence's SOFT trigger. -/
  | acqSoftTrig (who : Initiator) (n : Nat) (t : Nat)
  /-- RUN_START (R79). A queued run reaches its start instant and begins its first slot on the converter in scheduling order. -/
  | runStart (n : Nat) (t : Nat)
  /-- SLOT_RESTART (R81). When the urgent run finishes, the aborted slot restarts from its beginning, with QUAL = RESTARTED. -/
  | slotRestart (n : Nat) (t : Nat)
  /-- SLOT_RESULT (R83). A slot's last conversion becomes valid and its result word is formed and delivered within 30 ns. -/
  | slotResult (n : Nat) (codes : List Int) (t : Nat)
  /-- ACQ_SEQ_RESTART (R85). A write of a STOPPED sequence number to ACQ_SEQ_RESTART restarts it at the next marker. -/
  | acqSeqRestart (who : Initiator) (n : Nat)
  /-- LP_WRITE (R73). A write of ACQ_CNV_CFG.LP takes effect at the next marker, or is refused with 0204h when a bound sequence lacks LP_OK. -/
  | lpWrite (who : Initiator) (n : Nat) (lp : Bool)
  /-- PAIR_CHECK (R86). A converter pair runs its check slot once both converters are free after half the stroke. -/
  | pairCheck (k : Nat) (t : Nat) (a : List Int) (b : List Int)
  /-- ACQ_CHECK_FAULT (R88). CONSEC reaches FAIL_LIMIT: FAULT is set, the named converters' results are marked SUSPECT, and with ACTION = 1 the consuming bays are faulted. -/
  | acqCheckFault (k : Nat)
  /-- ACQ_CHECK_FAULT_CLEAR (R88). A write of 1 to ACQ_CHK_STAT.FAULT ends the fault and the SUSPECT marking at the next marker. -/
  | acqCheckFaultClear (who : Initiator) (k : Nat)
  /-- DECIMATION_OUTPUT (R90). A modulator input's sinc3 decimator produces an output. -/
  | decimationOutput (m : Nat) (bits : List Bool)
  /-- MOD_STUCK (R93). A modulator input shows no transition for 64 clocks and is marked stuck. -/
  | modStuck (m : Nat) (bits : List Bool)
  /-- MOD_STUCK_END (R93). After 16 consecutive decimation outputs with transitions the stuck condition ends. -/
  | modStuckEnd (m : Nat)
  /-- PWM_PERIOD (R103). A phase's PERIOD instant drops PWML_p and starts the period. -/
  | pwmPeriod (p : Nat) (t : Nat)
  /-- ON_EDGE (R103). DT_RISE after the PERIOD instant PWMH_p rises and the compensation ramp starts. -/
  | onEdge (p : Nat)
  /-- VALLEY (R103). The VALLEY instant of a phase occurs half a period after its PERIOD instant. -/
  | valley (p : Nat) (t : Nat)
  /-- PEAK_TRIP (R105). The peak comparator trips after blanking and PWMH_p falls within 18 ns. -/
  | peakTrip (p : Nat) (cs : Int) (t : Nat)
  /-- MAX_ON_TIME (R103). The maximum on-time expires and PWMH_p falls, counted in MAXD_CNT. -/
  | maxOnTime (p : Nat) (steps : Nat)
  /-- LOW_SIDE_ON (R103). DT_FALL after the OFF edge PWML_p rises. -/
  | lowSideOn (p : Nat)
  /-- BAY_SATURATED (R119). Every running phase ends 64 consecutive periods at maximum on-time or the clamp, and the bay is faulted with CAUSE 2. -/
  | baySaturated (b : Nat)
  /-- TRIM_LIMIT (R108). A trim that stays at TRIM_MAX for 100 heats is reported with 0382h. -/
  | trimLimit (p : Nat)
  /-- SHED_STEP_END (R110). After SHED_RAMP strokes the victim is off, SHED becomes REDUCED and the offsets are re-spread. -/
  | shedStepEnd (b : Nat)
  /-- SHED_HOLD_END (R111). After HOLD × 10 heats the shedding hold ends and SHED becomes FULL. -/
  | shedHoldEnd (b : Nat)
  /-- OVERSHOOT (R113). OVS_b reaches its threshold and Forge ends every running pulse of the bay within 20 ns and skips periods. -/
  | overshoot (b : Nat) (level : Int)
  /-- OVERSHOOT_END (R113). OVS_b falls below its threshold less the hysteresis and pulses resume. -/
  | overshootEnd (b : Nat) (level : Int)
  /-- OVERSHOOT_LIMIT (R113). OVS_b stays at or above its threshold for OVS_LIMIT markers and the bay is faulted with CAUSE 1. -/
  | overshootLimit (b : Nat)
  /-- FAST_LIMIT (R114). A fast limit detector output leaves LO–HI and acts on its bay as an overshoot or a fault. -/
  | fastLimit (m : Nat) (bits : List Bool)
  /-- DRIVER_FAULT (R115). GDF_N_p low for 40 ns drives both gates low and drops the phase with CAUSE 3. -/
  | driverFault (p : Nat) (low : Bool)
  /-- SENSE_LOSS (R116). CS_p outside its window for 1 µs drops the phase with CAUSE 1. -/
  | senseLoss (p : Nat) (cs : Int)
  /-- RELEASE (R120). A write of 1 to FRG_BAY_CTL.RELEASE clears a bay fault at the next marker, or is refused with 0307h. -/
  | release (who : Initiator) (b : Nat)
  /-- DROP_CLEAR (R118). A write of 1 to FRG_PH_STAT.DROP clears the drop only while RUN = 0, and is otherwise refused with 0307h. -/
  | dropClear (who : Initiator) (p : Nat)
  /-- MACZ (R138). Sets an accumulator to the product of two registers. -/
  | macz (e : Nat) (b : Option Nat) (a : Bool) (ka : Nat) (kb : Nat)
  /-- MAC (R138). Adds an aligned product to an accumulator. -/
  | mac (e : Nat) (b : Option Nat) (a : Bool) (ka : Nat) (kb : Nat)
  /-- MSU (R138). Subtracts an aligned product from an accumulator. -/
  | msu (e : Nat) (b : Option Nat) (a : Bool) (ka : Nat) (kb : Nat)
  /-- MOVA (R133). Writes an accumulator into a register, rounded and saturated. -/
  | mova (e : Nat) (b : Option Nat) (a : Bool) (ka : Nat)
  /-- ASH (R138). Adds a signed constant to an accumulator exponent. -/
  | ash (e : Nat) (b : Option Nat) (a : Bool) (imm : Int)
  /-- AADD (R138). Adds the other accumulator, aligned, to an accumulator. -/
  | aadd (e : Nat) (b : Option Nat) (a : Bool)
  /-- ADD (R139). Register add. -/
  | add (e : Nat) (b : Option Nat) (kd : Nat) (k1 : Nat) (k2 : Nat)
  /-- SUB (R139). Register subtract. -/
  | sub (e : Nat) (b : Option Nat) (kd : Nat) (k1 : Nat) (k2 : Nat)
  /-- MIN (R139). Lesser of two registers. -/
  | min (e : Nat) (b : Option Nat) (kd : Nat) (k1 : Nat) (k2 : Nat)
  /-- MAX (R139). Greater of two registers. -/
  | max (e : Nat) (b : Option Nat) (kd : Nat) (k1 : Nat) (k2 : Nat)
  /-- ABS (R139). Absolute value. -/
  | abs (e : Nat) (b : Option Nat) (kd : Nat) (k1 : Nat)
  /-- NEG (R139). Negation. -/
  | neg (e : Nat) (b : Option Nat) (kd : Nat) (k1 : Nat)
  /-- CLMP (R139). Clamps a register between two limits, upper limit prevailing. -/
  | clmp (e : Nat) (b : Option Nat) (kd : Nat) (k1 : Nat) (k2 : Nat)
  /-- SELN (R139). Selects a register when another is negative. -/
  | seln (e : Nat) (b : Option Nat) (kd : Nat) (k1 : Nat) (k2 : Nat)
  /-- SCL (R139). Scales a register by a power of two with saturation. -/
  | scl (e : Nat) (b : Option Nat) (kd : Nat) (n : Int)
  /-- NRM (R134). Normalises a stage to a given headroom. -/
  | nrm (e : Nat) (b : Option Nat) (stg : Nat) (h : Nat)
  /-- SETE (R134). Sets a stage exponent. -/
  | sete (e : Nat) (b : Option Nat) (stg : Nat) (v : Int)
  /-- LDI (R139). Loads a sign-extended integer immediate. -/
  | ldi (e : Nat) (b : Option Nat) (kd : Nat) (imm : Int)
  /-- ADDI (R139). Adds a sign-extended integer immediate. -/
  | addi (e : Nat) (b : Option Nat) (kd : Nat) (imm : Int)
  /-- MOVK (R139). Copies a register aligned to the destination's stage. -/
  | movk (e : Nat) (b : Option Nat) (kd : Nat) (k1 : Nat)
  /-- FEC (R150). Records a following-error sample for a monitor. -/
  | fec (e : Nat) (b : Option Nat) (k1 : Nat) (m : Nat)
  /-- BEQZ (R139). Branches if a register is zero. -/
  | beqz (e : Nat) (b : Option Nat) (k1 : Nat) (ofs : Int)
  /-- BNEZ (R139). Branches if a register is not zero. -/
  | bnez (e : Nat) (b : Option Nat) (k1 : Nat) (ofs : Int)
  /-- BLTZ (R139). Branches if a register is negative. -/
  | bltz (e : Nat) (b : Option Nat) (k1 : Nat) (ofs : Int)
  /-- BGEZ (R139). Branches if a register is not negative. -/
  | bgez (e : Nat) (b : Option Nat) (k1 : Nat) (ofs : Int)
  /-- BQS (R139). Branches if QF is set. -/
  | bqs (e : Nat) (b : Option Nat) (ofs : Int)
  /-- BRUN (R139). Branches if the program's bay had RUN = 1 at instance start. -/
  | brun (e : Nat) (b : Option Nat) (ofs : Int)
  /-- JMP (R139). Jumps to an absolute bundle index. -/
  | jmp (e : Nat) (b : Option Nat) (target : Nat)
  /-- WAIT (R129). Stalls until an arrival bit is set. -/
  | wait (e : Nat) (b : Option Nat) (bit : Nat)
  /-- PUB (R152). Marks a register for publication into a result register at END. -/
  | pub (e : Nat) (b : Option Nat) (k1 : Nat) (r : Nat)
  /-- END (R142). Completes the instance, committing state stores, results and monitor effects. -/
  | endInst (e : Nat) (b : Option Nat) (cycles : Nat)
  /-- LD (R140). Loads a BF32 word aligned to the register's stage. -/
  | ld (e : Nat) (b : Option Nat) (kd : Nat) (addr : Nat)
  /-- ST (R140). Stores a register as BF32, held for state-window words. -/
  | st (e : Nat) (b : Option Nat) (kd : Nat) (addr : Nat)
  /-- LDX (R140). Indexed load. -/
  | ldx (e : Nat) (b : Option Nat) (kd : Nat) (kb : Nat) (ofs : Int)
  /-- STX (R140). Indexed store. -/
  | stx (e : Nat) (b : Option Nat) (kd : Nat) (kb : Nat) (ofs : Int)
  /-- LDC (R140). Loads a word of the active constants bank. -/
  | ldc (e : Nat) (b : Option Nat) (kd : Nat) (addr : Nat)
  /-- LDQ (R135). Loads an acquisition word and converts it, setting QF as needed. -/
  | ldq (e : Nat) (b : Option Nat) (kd : Nat) (addr : Nat)
  /-- LDW (R140). Loads a 32-bit word unchanged. -/
  | ldw (e : Nat) (b : Option Nat) (kd : Nat) (addr : Nat)
  /-- STW (R140). Stores a 32-bit word unchanged. -/
  | stw (e : Nat) (b : Option Nat) (kd : Nat) (addr : Nat)
  /-- LDP (R140). Loads a point value converted to BF32, setting QF unless the quality is good. -/
  | ldp (e : Nat) (b : Option Nat) (kd : Nat) (kb : Nat)
  /-- FOLLOW_TRIP (R150). A monitor's COUNT reaches TIMER, latches TRIP, and reports or faults the bay. -/
  | followTrip (e : Nat) (m : Nat)
  /-- CALFIN_RESTART (R156). A write of 1 to CLF_ENG_CTL.RESTART restarts a STOPPED program at its next start marker. -/
  | calfinRestart (who : Initiator) (e : Nat)
  /-- HALT (R156). A write of 1 to CLF_ENG_CTL.HALT stops the program at the end of its period, or is refused with 0404h. -/
  | halt (who : Initiator) (e : Nat)
  /-- TRIP_CLEAR (R150). A write of 1 to a monitor's TRIP clears it and sets COUNT to 0. -/
  | tripClear (who : Initiator) (e : Nat) (m : Nat)
  /-- RESULT_READ (R153). A read of a Calfin result register returns VALUE with STALE and READ_BEFORE and sets the initiator's mark. -/
  | resultRead (who : Initiator) (e : Nat) (r : Nat) (half : Half)
  /-- DEMAND_WRITE (R161). Session firmware completes a TRS_OUT_DEM write with its HI half and Truss takes the demand. -/
  | demandWrite (who : Initiator) (o : Nat) (lo : W32) (hi : W32)
  /-- ENTRY_REBUILT (R176). A rebuilt plan entry is completed, at most 5 strokes per entry. -/
  | entryRebuilt
  /-- TRS_ROLLBACK (R175). A write of 1 to TRS_CTL.ROLLBACK is an invalidating event. -/
  | trsRollback (who : Initiator)
  /-- TRS_RESTART (R180). A write of TRS_CTL.RESTART leaves SAFE_HOLD when every grant is 0, or is refused with 0508h. -/
  | trsRestart (who : Initiator)
  /-- GRID_FW_WRITE (R175). A write of TRS_GRID_FW sets the firmware import limit, and a fall is an invalidating event. -/
  | gridFwWrite (who : Initiator) (limit : W32)
  /-- BUDGET_INVALID (R162). A budget, curtailment or auxiliary point stays without good quality for 10 heats and P_SAFE or AUX_MAX replaces it. -/
  | budgetInvalid (which : Input)
  /-- PRECHARGE_TIMEOUT (R171). A bay not matched within PRECHARGE_MAX heats returns to OFF and its crosspoint becomes unusable for 100 heats. -/
  | prechargeTimeout (b : Nat)
  /-- CONTACTOR_FEEDBACK (R173). A crosspoint's feedback point changes and is judged against the command. -/
  | contactorFeedback (x : Nat)
  /-- FAIL_CLOSE (R173). Feedback is not closed after T_CLOSE heats; the command is reset and the bay goes OFF with 0502h. -/
  | failClose (x : Nat)
  /-- WELDED (R173). Feedback is not open after T_OPEN heats; the bay is kept OFF and bound, with 0503h. -/
  | welded (x : Nat)
  /-- XP_FAULT_CLEAR (R173). A write of 1 to TRS_XP_STAT.FAULT clears it while the feedback agrees with the command. -/
  | xpFaultClear (who : Initiator) (x : Nat)
  /-- BAY_RELEASE (R165). An output that needed fewer bays for BAY_HOLD consecutive heats releases its highest-numbered bay. -/
  | bayRelease (o : Nat)
  /-- EXCHANGE_RECORD (R183). A peer's exchange record is received, authenticated and used for the agreed share, or ignored and counted BAD. -/
  | exchangeRecord (bytes : List Byte)
  /-- PEER_FALLBACK (R184). The agreed heat falls more than MISS_LIM heats behind, and the device enters fallback with 0506h. -/
  | peerFallback
  /-- FALLBACK_END (R184). Fallback ends after 10 consecutive heats with a current agreed heat. -/
  | fallbackEnd
  /-- CABLE_SAMPLE (R190). Bellows samples a cable's temperature and flow points at its 100 ms or 5 ms rate and tests them. -/
  | cableSample (c : Nat)
  /-- SENSOR_RECOVERED (R191). After 10 consecutive plausible samples of every sensor the broken condition ends. -/
  | sensorRecovered (c : Nat)
  /-- FAST_SAMPLING_END (R190). After both fast-rate conditions are absent for 1 s the cable returns to 100 ms sampling. -/
  | fastSamplingEnd (c : Nat)
  /-- HEAT_BALANCE (R193). Every 10 s the modelled dissipation is compared with the heat carried away, marking or clearing SUSPECT. -/
  | heatBalance (c : Nat)
  /-- COOLING_UPDATE (R198). Every 10 heats Bellows writes each loop's pump and fan set-points. -/
  | coolingUpdate
  /-- BELLOWS_RESTART (R200). A write of BLW_CTL.RESTART restarts a stopped Bellows at the next heat. -/
  | bellowsRestart (who : Initiator)
  /-- DIE_SAMPLE (R201). The die sensors are sampled at 1 ms or 50 µs and tested. -/
  | dieSample (t : List Int)
  /-- DIE_CRITICAL_END (R205). After the hottest reading stays below T_THROT for 1 s the cable limits follow the model again. -/
  | dieCriticalEnd
  /-- THROTTLE_UP (R203). Every 10 ms at or above T_THROT the throttle level rises by one. -/
  | throttleUp
  /-- THROTTLE_DOWN (R203). After each 100 ms below T_THROT − 5 K the throttle level falls by one. -/
  | throttleDown
  /-- OVERTEMP_TRIP (R206). A die comparator at 128 °C trips after its 10 µs filter and causes an over-temperature reset. -/
  | overtempTrip
  /-- ASSAY_SAMPLE (R220). At each 62.5 µs sample Assay scales, integrates, computes power, books energy, drives test pulses and detects power-quality events. -/
  | assaySample (x : MeterSample)
  /-- ASSAY_CHECK_FAULT_END (R221). After 100 consecutive agreeing cycles CHECK_FAULT ends and the gap is closed. -/
  | assayCheckFaultEnd
  /-- DC_PLAUSIBILITY (R222). Each second a DC point's mean is compared with its non-legal points, setting or clearing PLAUS. -/
  | dcPlausibility (n : Nat)
  /-- METER_FAULT_END (R223). After 16 consecutive good outputs of both inputs METER_FAULT ends. -/
  | meterFaultEnd (n : Nat)
  /-- ENERGY_SAVE (R450). At every ASY_LMC multiple of 100 ms Assay writes an energy save slot. -/
  | energySave
  /-- DRIFT (R225). Every 2^20 counter steps ASY_LMC is compared with the stroke counter, setting or clearing DRIFT. -/
  | drift
  /-- TEST_PULSE_END (R226). A test pulse's width expires and the output falls. -/
  | testPulseEnd (t : Nat)
  /-- PENDING_PULSE_START (R226). A pending pulse starts 5 µs after the previous fall. -/
  | pendingPulseStart (t : Nat)
  /-- RWS_WRITE (R209). A write of a sealed RWS field is held while the seal is open, or refused with 0B05h. -/
  | rwsWrite (who : Initiator) (ofs : Nat) (v : W32)
  /-- SEALED_CHANGE (R229). RWS writes take effect together at the next whole second of ASY_LMC, writing PARAM_CHANGE records. -/
  | sealedChange
  /-- PQ_CONFIG (R210). A signed mailbox frame loads the power-quality configuration. -/
  | pqConfig
  /-- NONLEGAL_STAGE (R210). A signed mailbox frame stages non-legal firmware installed at the next reset. -/
  | nonlegalStage
  /-- TXN_START (R242). A transaction opens on a point, closing the disconnect contactor and writing TXN_START, or is refused. -/
  | txnStart
  /-- TXN_STOP (R241). A transaction stops, opening the contactor and writing TXN_STOP. -/
  | txnStop
  /-- CREDIT_ADD (R253). Credit is added to a prepaid transaction and a CREDIT record is written. -/
  | creditAdd
  /-- TARIFF_SCHEDULE (R244). A tariff switch is scheduled at a whole second, or refused. -/
  | tariffSchedule
  /-- TARIFF_CANCEL (R244). Pending tariff switches of the masked points at AT are removed. -/
  | tariffCancel
  /-- INTERVAL_SET (R245). A new interval length and anchor are set to take effect at ANCHOR. -/
  | intervalSet
  /-- WALL_SET (R246). The wall-clock label is set and a WALL_SET record is written. -/
  | wallSet
  /-- CONFIG (R241). The Hallmark ring and per-output disconnect settings are configured. -/
  | config
  /-- SEAL_BREAK (R255). The seal opens, closing transactions, advancing the count and writing a SEAL record, or is refused. -/
  | sealBreak (sw : Bool)
  /-- SEAL_CLOSE (R256). The seal closes with a SEAL record, and a staged legal image is installed. -/
  | sealClose
  /-- LEGAL_STAGE (R256). A signed legal firmware image is fetched while the seal is open, or refused with 0B27h. -/
  | legalStage
  /-- HALLMARK_SIGNED (R238). Coffer completes the ML-DSA-65 signature of a record. -/
  | hallmarkSigned
  /-- TARIFF_SWITCH (R244). At its AT the switch changes the active tariff register and writes TARIFF_SWITCH. -/
  | tariffSwitch
  /-- INTERVAL_CLOSE (R245). At an interval boundary an INTERVAL_CLOSE record is written for all enabled points. -/
  | intervalClose
  /-- ASSAY_START (R251). At an Assay start, provisional records are signed and recovery, stop, power-up and gap records are written. -/
  | assayStart
  /-- ASSAY_RESTART (R256). Assay installs a staged legal image and restarts within 50 ms. -/
  | assayRestart
  /-- DISCONNECT_OPEN (R254). After the output current stays at most 5 A for 10 ms, Assay opens the disconnect contactor. -/
  | disconnectOpen (o : Nat)
  /-- DISC_WAIT_EXPIRY (R254). DISC_WAIT expires and the contactor is forced open with 0BA6h. -/
  | discWaitExpiry (o : Nat)
  /-- DISCONNECT_FEEDBACK_TIMEOUT (R254). FB_PT does not show the commanded state within T_DISC, writing EVENT 3 and 0B26h. -/
  | disconnectFeedbackTimeout (o : Nat)
  /-- DISCONNECT_DROPOUT (R254). FB_PT changes without a command, writing EVENT 4 and setting EXHAUSTED. -/
  | disconnectDropout (o : Nat)
  /-- SAFETY_CYCLE (R259). Every 100 strokes both Mortise pairs take inputs, evaluate functions, exchange views and apply commands. -/
  | safetyCycle (fault : Bool) (p0 : List Nat) (p1 : List Nat)
  /-- INPUT_CHANNEL_CHANGE (R267). A safe input channel's new level lasts FILT and its filtered state changes. -/
  | inputChannelChange (n : Nat) (chB : Bool) (level : Bool)
  /-- SUPPLY_PULSE (R268). A sensor supply is pulsed low for 300 µs in its slot of the 20 ms frame. -/
  | supplyPulse (j : Nat) (before : List Nat) (low : List Nat) (after : List Nat)
  /-- DISCREPANCY (R270). The channels of an input disagree for DISC, a discrepancy fault. -/
  | discrepancy (n : Nat)
  /-- READBACK_CHECK (R272). T_RB after a command change the readback must match, or the output faults with 0C02h. -/
  | readbackCheck (k : Nat) (rb : Bool)
  /-- ENERGISE_CHECK_STEP (R273). Each T_RB step of the single-switch check before energising ends and is judged. -/
  | energiseCheckStep (k : Nat) (rb : Bool)
  /-- DARK_TEST_START (R274). One switch of an energised output is turned off alone in its slot of DARK_PERIOD. -/
  | darkTestStart (k : Nat)
  /-- DARK_TEST_END (R274). After DARK_LEN the switch is turned on again and the test is judged. -/
  | darkTestEnd (k : Nat) (rb : Bool)
  /-- BRAKE_TEST (R277). A write of MRT_CMD.BRAKE_TEST starts the test of a brake, or is refused with 0C08h. -/
  | brakeTest (who : Initiator) (k : Nat)
  /-- BRAKE_TEST_STEP (R277). A brake-test step ends and is judged, failing, passing or moving on. -/
  | brakeTestStep (k : Nat) (frames : Bool) (rb : Bool)
  /-- TEST_INTERVAL_EXPIRY (R276). TEST_INTERVAL expires, the brake test falls due. -/
  | testIntervalExpiry (k : Nat)
  /-- BRAKE_APPLY_AFTER_EXPIRY (R276). 10 min after TEST_INTERVAL expiry during an ACD cycle the brake is applied with 0C08h. -/
  | brakeApplyAfterExpiry (k : Nat)
  /-- TENON_RECEIVE (R282). A consumer receives a Tenon frame and accepts, discards as repeat, or counts a check failure. -/
  | tenonReceive (c : Nat) (frame : List Byte)
  /-- TENON_LOST (R283). WD cycles pass without an accepted frame and the connection becomes LOST. -/
  | tenonLost (c : Nat)
  /-- PEG_ROLE_WRITE (R290). A write of PEG_ROLE.PREFERRED advances the fuse counter, or is refused with 0D06h. -/
  | pegRoleWrite (who : Initiator) (b : Bool)
  /-- START_CLAIM (R295). An unbound device whose partner net stayed high for 100 ms or 2 s claims the peg. -/
  | startClaim
  /-- TAKEOVER (R306). A standby in SYNC sees the partner net high and takes the peg within 150 ns. -/
  | takeover
  /-- CONTENTION (R294). Both nets are driven low; unit B releases within 100 ns. -/
  | contention (low : Bool)
  /-- PEG_FAULT (R294). The own net is stuck low or the own driver failed, and the device enters PEG_FAULT. -/
  | pegFault (stuckLow : Bool)
  /-- KEEPALIVE_LOSS (R296). Two missing island-0 keep-alives close the gate and release the net. -/
  | keepaliveLoss
  /-- WDOG_RELEASE (R296). The peg watchdog expires without KICK and the peg is released with 0D09h. -/
  | wdogRelease
  /-- KICK (R296). A write of PEG_CMD.KICK restarts the peg watchdog. -/
  | kick (who : Initiator)
  /-- HANDOVER (R311). A write of PEG_CMD.HANDOVER hands the peg over at the next eligible marker, or is refused with 0D07h. -/
  | handover (who : Initiator)
  /-- BIND_HANDSHAKE (R299). The trained Solley link exchanges the authenticated bind handshake and the non-holder enters ALIGN, or binding is refused. -/
  | bindHandshake (feat0 : W32) (feat1 : W32) (unitB : Bool) (pref : Bool) (image : Nat) (authentic : Bool) (holds : Bool) (latency : Nat)
  /-- BIND_RETRY (R299). A refused bind is retried every 10 s. -/
  | bindRetry
  /-- ALIGN_MARKER (R300). The standby receives the holder marker with the matching count and issues its stretched marker on it. -/
  | alignMarker (holder : Nat) (x : MarkerInput)
  /-- LOCK_ACHIEVED (R300). The lock error stays within 5 ns for 100 strokes and the standby enters CATCHUP. -/
  | lockAchieved
  /-- CATCHUP_COMPLETE (R301). The full state transfer completes and the standby enters SYNC with 0D83h. -/
  | catchupComplete
  /-- MIRROR_FRAME (R303). A mirror frame from the holder arrives and is checked and applied. -/
  | mirrorFrame (m : Mirror)
  /-- KEEPER_TIMEOUT (R305). Keepers turn off 1 µs after the partner net goes high without the gate opening. -/
  | keeperTimeout
  /-- REVERT_REQUEST (R310). The preferred unit after 60 s in SYNC with all conditions met requests the peg back. -/
  | revertRequest (partnerOk : Bool)
  /-- RETURNED (R310). The holder releases the peg 300 ns before the chosen marker and the preferred unit takes it. -/
  | returned
  /-- PDO_WRITE (R309). A write of PEG_PDO.REQ decides a new PDO word, or is refused with 0D07h. -/
  | pdoWrite (who : Initiator) (word : Nat)
  /-- PDO_EFFECTIVE (R309). Two strokes after the deciding stroke the PDO word becomes effective on both devices. -/
  | pdoEffective
  /-- PEER_IN_RESET (R312). The partner's reset beacon is seen for 10 ms and PEER_RESET is set with 0D08h. -/
  | peerInReset (seen : Bool)
  /-- PART_NET_STUCK (R313). The partner net reads low for 1 ms while the partner states it does not hold. -/
  | partNetStuck
  /-- LINK_DOWN (R315). An Ethernet or 10BASE-T1S port loses its link and reports 0701h. -/
  | linkDown (port : Nat)
  /-- PTP_GM_CHANGE (R317). The gPTP grandmaster changes and 0784h is reported. -/
  | ptpGmChange (master : Bool) (synced : Bool) (offset : Int)
  /-- ANNOUNCE (R331). A partner's ANNOUNCE arrives and the station chooses a slot. -/
  | announce (port : Nat) (addr : Nat) (frame : List Byte)
  /-- RESPONSE (R331). A partner's RESPONSE arrives and its certificates and signature are checked. -/
  | response (port : Nat) (addr : Nat) (frame : List Byte)
  /-- RESPONSE_TIMEOUT (R331). No RESPONSE arrives within 1 s of CHALLENGE. -/
  | responseTimeout (slot : Nat)
  /-- PX (R333). A sealed PX frame from a partner is received and its input entries are written to points. -/
  | px (port : Nat) (ofs : Nat) (frame : List Byte)
  /-- LEAVE (R334). A LEAVE frees the slot and its inputs take COMM_LOST. -/
  | leave (port : Nat) (frame : List Byte)
  /-- PARTNER_LOST (R334). A slot without an authenticated PX for LIVE_TO becomes LOST. -/
  | partnerLost (slot : Nat)
  /-- STATION_ANNOUNCE (R335). The station sends ANNOUNCE every 10 s. -/
  | stationAnnounce
  /-- ATTACH_CLEARED (R340). An attach point reading 0 or not good for 2 strokes clears VALID with 0785h. -/
  | attachCleared (out : Nat)
  /-- EXI_JOB (R338). An EXI engine takes a job from the submission ring. -/
  | exiJob
  /-- EXI_RESULT (R338). An EXI job completes and its result entry is delivered in job order. -/
  | exiResult
  /-- HOST_POINT_WRITE (R321). A write of PNT_HOST_WR_HI commits a host point write, or is refused or discarded. -/
  | hostPointWrite (who : Initiator) (ofs : Nat) (lo : W32) (hi : W32)
  /-- RING_CONS_WRITE (R325). Software acknowledges delivery-ring entries by writing PNT_RING_CONS, or the write is refused with 0803h. -/
  | ringConsWrite (who : Initiator) (ring : Nat) (index : Nat)
  /-- RING_PROD_WRITE (R325). Software submits entries by writing PNT_RING_PROD, or the write is refused with 0803h. -/
  | ringProdWrite (who : Initiator) (ring : Nat) (index : Nat)
  /-- CAN_FRAME_RECEIVED (R347). A valid CAN frame is routed to a Tenon connection, an object, the receive ring, or dropped. -/
  | canFrameReceived (n : Nat) (ofs : Nat) (frame : CanFrame)
  /-- OBJECT_READ (R349). A read including object offset 00h copies the object into a shadow and clears NEW and LOST. -/
  | objectRead (who : Initiator) (n : Nat) (obj : Nat) (ofs : Nat) (len : Nat)
  /-- CAN_TX_ATTEMPT (R353). At a frame attempt's start the controller chooses the highest-priority candidate in the window. -/
  | canTxAttempt (n : Nat) (ofs : Nat)
  /-- CAN_TX_COMPLETE (R354). A frame attempt ends and the entry completes or waits for retransmission. -/
  | canTxComplete (n : Nat) (r : CanEnd) (ofs : Nat)
  /-- CAN_TX_CANCEL (R356). A write of CAN_TX_CANCEL cancels a device-owned entry, or is refused with 0904h. -/
  | canTxCancel (who : Initiator) (n : Nat) (index : Nat) (ofs : Nat)
  /-- CAN_DISABLE (R346). A write of CAN_CTL.DISABLE makes the controller leave or rejoin the bus. -/
  | canDisable (who : Initiator) (n : Nat) (on : Bool) (receiving : Bool)
  /-- CAN_REJOIN (R346). After 11 consecutive recessive bits a re-enabled controller rejoins the bus. -/
  | canRejoin (n : Nat)
  /-- RECOVER (R357). A write of CAN_CTL.RECOVER starts bus-off recovery, or is refused with 0904h. -/
  | recover (who : Initiator) (n : Nat)
  /-- RECOVERED (R357). After 128 runs of 11 recessive bits the controller is error active with 0983h. -/
  | recovered (n : Nat)
  /-- TT_TRIGGER (R359). A time trigger reaches its MARK after Ref_Mark and acts. -/
  | ttTrigger (n : Nat) (k : Nat) (busy : Bool) (ofs : Nat)
  /-- TT_REF_LOST (R359). A follower with no valid reference for 2 × CYCLE_STROKES suspends its triggers with 0903h. -/
  | ttRefLost (n : Nat)
  /-- FDL_FRAME_RECEIVED (R368). A Feeder link frame is decoded and checked, and accepted or discarded. -/
  | fdlFrameReceived (band : Nat) (ofs : Nat) (sym : List FdlSymbol)
  /-- FDL_TX_START (R374). After channel access and the random delay a frame starts on air. -/
  | fdlTxStart (band : Nat)
  /-- FDL_TX_END (R376). The last body symbol ends and FDL_TXEN_N rises 1 ms later. -/
  | fdlTxEnd
  /-- ACCESS_TIMEOUT (R374). A frame finds no channel access within 5 s and is dropped. -/
  | accessTimeout (band : Nat)
  /-- BAND_A_SILENT (R380). No accepted band A frame for 2 × BEACON makes the CURTAIL point BAD. -/
  | bandASilent
  /-- CURTAIL_EXPIRY (R380). A curtailment limit's DURATION runs out. -/
  | curtailExpiry
  /-- CURTAIL_SAVE (R380). Every minute the curtailment state is saved in MRAM. -/
  | curtailSave
  /-- NODE_LOST (R378). A node without an accepted frame for LIVE_TO becomes LOST. -/
  | nodeLost (a : Nat)
  /-- NODE_REFRESH (R377). A node's outputs are sent when REFRESH expires. -/
  | nodeRefresh (a : Nat)
  /-- BATTERY_PASS (R383). Every 100 heats the estimator runs its cell filters, rest points, conflict test and capacity learning. -/
  | batteryPass
  /-- HIBERNATE (R400). A write of EMB_CTL.HIBERNATE starts Ember-only idle entry, or is refused with 1002h. -/
  | hibernate (who : Initiator)
  /-- HIBERNATE_REQUEST (R400). A standby receives the holder's hibernate request and saves and answers ready, or refuses. -/
  | hibernateRequest
  /-- HIBERNATE_READY (R400). The holder receives the standby's ready message and continues its own entry. -/
  | hibernateReady (ready : Bool)
  /-- HIBERNATE_TIMEOUT (R400). No answer within 100 ms ends the holder's entry with 1002h. -/
  | hibernateTimeout
  /-- EMBER_IDLE_ENTRY (R448). Once every island has saved, Ember drives CORE_EN low. -/
  | emberIdleEntry
  /-- EMBER_SAMPLE (R401). In hibernation Ember converts a string channel and adds its charge to EMB_Q. -/
  | emberSample (ch : Nat) (code : Int)
  /-- WAKE (R402). A current, bus or EMB_WAKE_N event wakes the device and Ember drives CORE_EN high. -/
  | wake (src : Nat)
  /-- ESTIMATOR_RESTART (R404). A write of EMB_CTL.RESTART restarts the stopped estimator at the next multiple of 100 heats. -/
  | estimatorRestart (who : Initiator)
  /-- GENERATE (R419). Coffer generates a key into a slot. -/
  | generateKey (q : KeyReq)
  /-- DERIVE (R412). Coffer derives a child key from a parent. -/
  | deriveKey (q : KeyReq)
  /-- IMPORT (R419). Coffer imports a wrapped, clear or public key into a slot. -/
  | importKey (q : KeyReq)
  /-- EXPORT (R419). Coffer exports an exportable key wrapped under a WRAP key. -/
  | exportKey (q : KeyReq)
  /-- DESTROY (R413). Coffer zeroises a slot, advances its GEN and orphans its descendants. -/
  | destroyKey (q : KeyReq)
  /-- GET_PUBLIC (R410). Coffer returns a slot's public key. -/
  | getPublic (q : KeyReq)
  /-- ATTEST (R421). Coffer returns a signed statement about a slot. -/
  | attest (q : KeyReq)
  /-- GET_CERT (R421). Coffer returns the maker certificate of an identity key. -/
  | getCert (q : KeyReq)
  /-- SIGN (R419). Coffer signs a message or digest. -/
  | signMsg (q : KeyReq)
  /-- VERIFY (R419). Coffer verifies a signature. -/
  | verifySig (q : KeyReq)
  /-- SEAL (R419). Coffer encrypts and authenticates with AES-256-GCM. -/
  | sealAead (q : KeyReq)
  /-- OPEN (R416). Coffer decrypts and authenticates, trying active, previous and staged keys. -/
  | openAead (q : KeyReq)
  /-- HASH (R419). Coffer computes SHA-256 or SHA-384. -/
  | hashData (q : KeyReq)
  /-- KEY_STAGE (R415). Coffer writes and verifies a new key on the second side of a slot. -/
  | keyStage (q : KeyReq)
  /-- KEY_COMMIT (R416). Coffer schedules the swap of a verified staged key at AT_HEAT. -/
  | keyCommit (q : KeyReq)
  /-- ABORT (R415). Coffer zeroises the staged side of a slot. -/
  | abort (q : KeyReq)
  /-- LC_STEP (R422). Coffer takes a life-cycle step, blowing fuses and erasing, or refuses it. -/
  | lcStep (q : KeyReq)
  /-- ROT_ROTATE (R419). Coffer stages a new root of trust into slot 8 for commit at the next heat marker. -/
  | rotRotate (q : KeyReq)
  /-- DEBUG_UNLOCK (R424). Coffer opens a JTAG debug session at the signed level, or refuses with 0E11h. -/
  | debugUnlock (q : KeyReq)
  /-- KEY_SWAP (R416). At the heat marker the slot's sides swap and the former key becomes PREVIOUS. -/
  | keySwap (n : Nat)
  /-- GRACE_END (R416). GRACE heats after a commit the previous key is zeroised. -/
  | graceEnd (n : Nat)
  /-- ORPHAN_SWEEP (R413). The sweep zeroises and frees the orphaned descendants of a destroyed key. -/
  | orphanSweep
  /-- ERASE_DONE (R423). The life-cycle erasure completes, ERASE_PEND clears and a warm reset is asserted. -/
  | eraseDone
  /-- DEBUG_EXPIRY (R425). A debug session ends at EXPIRY heats. -/
  | debugExpiry
  /-- DEBUG_CLOSE (R425). A write of CFR_DBG_CTL.CLOSE ends the debug session. -/
  | debugClose (who : Initiator)
  /-- SNAPSHOT (R428). At a marker multiple of PERIOD every counter is latched and written to ring 63, or the snapshot is skipped whole. -/
  | snapshot
  /-- CLEAR (R431). A write of SCB_CTL.CLEAR zeroes every counter at the next marker. -/
  | clear (who : Initiator)
  /-- SCB_CFG_WRITE (R431). A write of SCB_CFG takes effect at the next due snapshot marker, or is refused with 0F01h. -/
  | scbCfgWrite (who : Initiator) (v : W32)
  /-- TAG_CFG_WRITE (R432). A write of SCB_TAG_CFG sets tagging, or is refused with 0F01h. -/
  | tagCfgWrite (who : Initiator) (v : W32)
  /-- TAG_COMPLETE (R433). A tagged instruction completes and its record is written to the tag ring. -/
  | tagComplete (source : Nat) (stroke : Nat) (pc : Nat) (flags : Nat) (fetch : Nat) (exec : Nat) (retire : Nat) (mem : Nat) (stall : Nat)
  /-- PFW_FALL (R439). PFW_N falls, closing the output gate, raising the power-fail interrupt and starting Assay's final save. -/
  | pfwFall
  /-- HOST_DONE (R439). A write of PWR_CTL.HOST_DONE marks the host save slot complete. -/
  | hostDone (who : Initiator)
  /-- HOST_SAVE_LATE (R439). HOST_DONE not written by t0 + 5 ms sets HOST_LATE. -/
  | hostSaveLate
  /-- POWER_FAIL_RESET (R440). At t0 + 6 ms the power-fail reset is asserted, sparing Assay when PFW_N is back high. -/
  | powerFailReset (pfwHigh : Bool) (railsGood : Bool)
  /-- SUPPLY_WARN (R437). A rail falls below its warning threshold, setting WARN with 1181h. -/
  | supplyWarn (rail : Nat) (mv : Nat)
  /-- SUPPLY_RESET (R437). A rail crosses a reset threshold and a device reset is asserted. -/
  | supplyReset (rail : Nat) (mv : Nat) (since : Nat)
  /-- COLD_START (R442). VDD_EMB out of range resets every island and zeroes the stroke counter. -/
  | coldStart (unitB : Bool)
  /-- CORE_POWER_UP (R444). VDD_CORE or VDD_IO rises with VDD_EMB good and the stroke counter resumes. -/
  | corePowerUp (elapsed : Nat)
  /-- RESET_N (R442). RESET_N low for 1 µs asserts a device reset. -/
  | resetN
  /-- SW_RESET (R442). A write of PWR_CTL.SW_RESET asserts a software reset. -/
  | swReset (who : Initiator)
  /-- TRST_N (R442). TRST_N low resets the test access port only. -/
  | trstN (low : Bool)
  /-- RESET_RELEASE (R447). Every reset source has met its release condition and the device boots in order. -/
  | resetRelease (root : Nat) (corrupt : List Nat) (selfTest : Bool)
  /-- REGION_WARN_END (R36). A region quantity falls 10 % of its threshold below its warning threshold and the island's WARN bit clears, ending the excursion. -/
  | regionWarnEnd (island : Nat) (peer : Nat) (quantity : Quantity) (v : Nat)
  /-- SUPPLY_WARN_END (R437). A rail returns above its warning threshold plus hysteresis and its WARN bit in PWR_STAT clears, ending the excursion. -/
  | supplyWarnEnd (rail : Nat) (mv : Nat)
  /-- FAST_LIMIT_END (R114). A fast limit detector output with ACTION = 0 returns inside LO–HI and the overshoot-style truncation of its bay ends. -/
  | fastLimitEnd (m : Nat) (bits : List Bool)
  /-- ASY_MBX_GO (R210). A write of ASY_MBX_CMD.GO is refused with 0B09h while BUSY, or fetches a frame that fails its format, signature, SEQ or opcode check with no effect. -/
  | asyMbxGo (who : Initiator)
  /-- CFR_CH_GO (R418). A write of GO to a Coffer channel is refused with 0E10h while BUSY, or fetches a malformed frame that is refused with 0E01h. -/
  | cfrChGo (who : Initiator) (c : Nat)
  /-- WALL_UNSYNC (R246). The last WALL_SET falls more than 86,400 s of ASY_LMC back, WALL_UNSYNC becomes set and 0BA4h is reported. -/
  | wallUnsync
  /-- COUNTER_INPUT_EDGE (R271). A quadrature edge on a TYPE 3 counter input's A or B channel changes the count that both Mortise pairs keep. -/
  | counterInputEdge (n : Nat) (a : Bool) (b : Bool)
  /-- SOLLEY_LINK_LOST (R304). The Solley link loses its lanes or its mirror frames for 3 consecutive strokes, and the standby leaves SYNC for BINDING with 0D05h without claiming the peg. -/
  | solleyLinkLost (lanes : Bool)
  /-- PORT_LINK_UP (R315). An Ethernet or 10BASE-T1S port gains its link and NET_PORT_STAT.LINK and SPEED are set. -/
  | portLinkUp (port : Nat) (speed : Nat) (plca : Bool)
  /-- CAN_RX_ERROR (R357). An error detected on a frame that the controller receives raises REC, which can reach WARN or error passive. -/
  | canRxError (n : Nat) (lec : Nat) (eight : Bool)
  /-- PROTOCOL_EXCEPTION (R362). A recessive res bit in an FD frame causes bus integration with counters unchanged, or a form error with PXHD = 1, counted in PXE with a violation record. -/
  | protocolException (n : Nat) (idw : W32)
  /-- EXPECTED_FRAME_MISSING (R373). No frame arrives from a sender within twice its expected period, and the receiver requests the next more robust mode toward it. -/
  | expectedFrameMissing (a : Nat)
  /-- DEBUG_HALT (R425). A JTAG request halts or steps a host core, and in FIELD it is refused with 0E11h while PEG_STAT.HOLD = 1. -/
  | debugHalt (core : Nat)
  deriving DecidableEq, Repr

end Sys2Proof
end

