-- ==== Sys2Proof/Config.lean ====
section
/-! DEFINITION. What the spec leaves to a published standard, to an implementation or open: constants with no body, so that
nothing can be proved of a value of theirs. -/

namespace Sys2Proof.Config

/-- A value that the spec leaves undefined or does not state: the n-th one a run meets. -/
opaque freeValue (w : Nat) : Nat → BitVec w

/-- Whether the LFSR of a tagging source, from a seed, selects its n-th issue with probability 2^-K (R432): the spec gives
neither the polynomial nor the bits compared. -/
opaque tagPick (source seed k n : Nat) : Bool

/-- Where in its allowed range the trip threshold of a monitor lies, in thousandths over the stated limit (R36): 0 frequency, 1 supply,
2 temperature. -/
opaque tripAbove (what : Nat) : Nat

/-! ### Cryptography by published standards (R44, R406 to R421): log entry 5 -/

/-- A key of an algorithm (CFR_SLOT_ATTR.ALG) from random bits, and the public part of a key. -/
opaque makeKey (alg : Nat) (random : BitVec 256) : List Byte
opaque publicOf (alg : Nat) (key : List Byte) : List Byte

/-- HKDF-SHA-384 of a secret with an INFO, to a key of an algorithm; and of a session (R331). -/
opaque hkdf (alg : Nat) (secret info : List Byte) : List Byte

/-- HKDF-SHA-256 of a site key with a salt and an info (R331). Of X.509 certificates (R330, R331): whether they chain to a key, the
algorithm and the public key of the leaf, and the KIND and the SENDER that the leaf names. -/
opaque sessionKey (key salt info : List Byte) : List Byte
opaque certChains (certs ca : List Byte) : Bool
opaque leafAlg (certs : List Byte) : Nat
opaque leafKey (certs : List Byte) : List Byte
opaque leafKind (certs : List Byte) : Nat
opaque leafSender (certs : List Byte) : Nat

/-- An EXI engine's work on a message under a grammar (R338): whether it passes, its output, and the bit position of its first
error. -/
opaque exi (op grammar : Nat) (input : List Byte) : Bool × List Byte × Nat

/-- A signature over a message (or a digest) with random bits, and its verification under a public key or a private key. -/
opaque sign (alg : Nat) (key msg : List Byte) (digest : Bool) (random : BitVec 256) : List Byte
opaque sigVerify (alg : Nat) (key msg sig : List Byte) (digest : Bool) : Bool

/-- The pairwise sign-and-verify test of a key (R415). -/
opaque pairTest (alg : Nat) (key : List Byte) : Bool

/-- AES-256-GCM: the key stream of a key and a nonce, byte by byte, and the tag over the additional data and the ciphertext. -/
opaque gcmStream (key nonce : List Byte) : Nat → Byte
opaque gcmTag (key nonce aad cipher : List Byte) : BitVec 128

/-- SHA-256 and SHA-384. -/
opaque sha256 (data : List Byte) : BitVec 256
opaque sha384 (data : List Byte) : BitVec 384

/-- What the maker put into the device: keys of the fixed slots with their attribute words, serial number, certificates (R408, R421). -/
opaque makerKey (slot : Nat) : List Byte
opaque makerAttr (slot : Nat) : BitVec 32 × BitVec 32
opaque serial : List Byte
opaque makerCert (ident : Nat) : List Byte

/-- Which of the binary32 values within 1 ulp of the exact result the device's one fixed method of R192 gives for an exponential and a power,
and a quotient by 0, for which the spec states no result (log entry 6). -/
opaque expPick (x : Rat) : Nat
opaque powPick (x y : Rat) : Nat
opaque byZero (x : Rat) : Rat

/-- The writer identity that SOURCE of a point shows after its n-th write by a class that has no WRITER_ID (R318, R321: not stated). -/
opaque writerIdent (cls point n : Nat) : BitVec 12

/-- The sign of the zero that MIN (lower) or MAX gives of a zero and a zero of the other sign in binary32: neither is the lesser, and the
spec states no choice (log entry 30). -/
opaque equalZeroSign (lower : Bool) (a c : BitVec 32) : Bool

/-- A number for which the spec states no value: 0 the current of a string before its first one of good quality, 1 the temperature of
a cell before its first one (unit 2048 × string + cell), 2 the SoC of a voltage in an OCV table that does not rise (R384 to R388), 3, 4 and 5 the coolant inlet and outlet
temperature and the flow of a cable that no sample has read yet (R192). -/
opaque unstated (what unit : Nat) (x : Rat) : Rat

/-- AVAIL of a bay of a peer (R185): the exchange record does not carry it. -/
opaque remoteAvail (dev bay : Nat) : Nat

/-! ### Assay and Hallmark (files 08 and 09) -/

/-- A word that is no number where a sealed scale is read; a sample after the fractional delay of a channel, from the present
and the last one (R214). -/
opaque numberOf (w : BitVec 32) : Rat
opaque fracDelay (ns : Int) (x last : Rat) : Rat

/-- Whether the sealed DIV of a group of modulator inputs is 5 and not 10 (R213), and the voltage rating of an output (R222): no register
holds them. -/
opaque sealedFast (g : Nat) : Bool
opaque voltRating (out : Nat) : Rat

/-- Which of two paths with equal metrics the decoder of a Feeder-link frame keeps at a symbol and a state (R371: not stated). -/
opaque equalPaths (symbol state : Nat) : Bool

/-- What the legal firmware names: the slot of the Hallmark key, and of the OCMF key, which is another one since its algorithm is (R238, R240). -/
opaque hallmarkSlot : Fin 512
opaque ocmfNext : Fin 511
def ocmfSlot : Nat := (hallmarkSlot.val + 1 + ocmfNext.val) % 512

/-- Whether an ID_TAG states ISO15118 and not ISO14443 (R240: not stated how), the version of a legal image, and ASY_LEGAL_CRC over an image
and the sealed parameters. -/
opaque tagIs15118 (idTag : List Byte) : Bool
opaque legalVersion (image : List Byte) : BitVec 32
opaque legalCrc (image sealedParams : List Byte) : BitVec 32

end Sys2Proof.Config
end

