-- ==== Sys2Proof/Machine/Regs.lean ====
section
/-! DEFINITION. The register map: every 32-bit register the register tables of the spec describe, its window, offset,
array strides, what resets it, its reset value and its access masks, and every field of every register.
Written from the register tables of the chapters (files 00 to 18; access codes R10, windows R22). A reset column that
names no number (stored, fused, image, sealed, strap, random, firmware, selector, variant) reads 0 here: log entry 3. -/

namespace Sys2Proof.Machine

/-- Every register name of the register tables. A 64-bit pair is its LO and its HI half. -/
inductive Reg where
  | SYS_FEAT0
  | SYS_FEAT1
  | SYS_CTL
  | SYS_STAT
  | SYS_STROKE_CFG
  | SYS_STROKE_STAT
  | SYS_STROKE_CNT_LO
  | SYS_STROKE_CNT_HI
  | SYS_OVR_SUM
  | SYS_REGION_STAT
  | SYS_REGION_FAULT
  | SYS_BUSERR_ADDR_LO
  | SYS_BUSERR_ADDR_HI
  | SYS_BUSERR_INFO
  | JNY_CMD
  | JNY_STAGE_ADDR_LO
  | JNY_STAGE_ADDR_HI
  | JNY_STAGE_LEN
  | JNY_APPLY_HEAT_LO
  | JNY_APPLY_HEAT_HI
  | JNY_TIMEOUT
  | JNY_STAT
  | JNY_BANK
  | JNY_ERR
  | JNY_ACTIVE_SERIAL
  | JNY_FLOOR
  | JNY_ACTIVE_ID_LO
  | JNY_ACTIVE_ID_HI
  | ACQ_STAT
  | ACQ_SOFT_TRIG
  | ACQ_SEQ_RESTART
  | ACQ_CNV_CFG
  | ACQ_CNV_STAT
  | ACQ_CHK_CFG
  | ACQ_CHK_STAT
  | ACQ_MOD_CFG
  | ACQ_MOD_DATA
  | ACQ_SEQ_STAT
  | FRG_CTL
  | FRG_STAT
  | FRG_PH_DROP0
  | FRG_PH_DROP1
  | FRG_PH_DROP2
  | FRG_BAL_CFG
  | FRG_BAY_CFG
  | FRG_BAY_SHED
  | FRG_BAY_REF
  | FRG_BAY_CTL
  | FRG_BAY_STAT
  | FRG_BAY_AUX
  | FRG_PH_CFG
  | FRG_PH_TIM
  | FRG_PH_TRIM
  | FRG_PH_STAT
  | FRG_PH_DAC
  | FRG_PH_TEMP
  | FRG_FLD
  | CLF_STOP0
  | CLF_STOP1
  | CLF_ENG_CTL
  | CLF_ENG_STAT
  | CLF_ENG_FLAGS
  | CLF_ENG_CYC
  | CLF_ENG_PEAK
  | CLF_ENG_PC
  | CLF_FE_STAT
  | CLF_RES_LO
  | CLF_RES_HI
  | TRS_CTL
  | TRS_STAT
  | TRS_CFG
  | TRS_GRID_CFG
  | TRS_GRID_FW
  | TRS_GRID_STAT
  | TRS_BAT_SP
  | TRS_COMMIT_HEAT_LO
  | TRS_COMMIT_HEAT_HI
  | TRS_RB_CNT
  | TRS_LAST_EVENT
  | TRS_OUT_DEM_LO
  | TRS_OUT_DEM_HI
  | TRS_OUT_STAT
  | TRS_BAY_STAT
  | TRS_XP_STAT
  | TRS_PEER_STAT
  | BLW_CTL
  | BLW_STAT
  | BLW_DIE_CFG
  | BLW_DIE_STAT
  | BLW_DIE_TEMP
  | BLW_CBL_STAT
  | BLW_OUT_LIM
  | BLW_FCST
  | ASY_STAT
  | ASY_LMC_LO
  | ASY_LMC_HI
  | ASY_DRIFT
  | ASY_SEAL_CNT
  | ASY_LEGAL_VER
  | ASY_LEGAL_CRC
  | ASY_CHK
  | ASY_MBX_ADDR_LO
  | ASY_MBX_ADDR_HI
  | ASY_MBX_LEN
  | ASY_MBX_CMD
  | ASY_MBX_STAT
  | ASY_PT_CFG
  | ASY_PT_RCBL
  | ASY_PT_START
  | ASY_CH_GAIN
  | ASY_CH_OFS
  | ASY_CH_PHC
  | ASY_PT_STAT
  | ASY_TPO_CFG
  | ASY_TPO_STAT
  | ASY_PQ_CFG_LO
  | ASY_PQ_CFG_HI
  | ASY_PQ_STAT
  | ASY_CH_RMS
  | ASY_ACC_LO
  | ASY_ACC_HI
  | ASY_HMK_STAT
  | ASY_RSEQ_LO
  | ASY_RSEQ_HI
  | ASY_INT_CFG
  | ASY_INT_ANCHOR_LO
  | ASY_INT_ANCHOR_HI
  | ASY_WALL_LO
  | ASY_WALL_HI
  | ASY_TARIFF
  | ASY_CREDIT_LO
  | ASY_CREDIT_HI
  | ASY_PREPAY_STAT
  | ASY_PT_PFS
  | ASY_TREG_LO
  | ASY_TREG_HI
  | MRT_STAT
  | MRT_TABLE_CNT
  | MRT_OUT_REQ
  | MRT_BRK_REQ
  | MRT_UNLOCK_REQ
  | MRT_CMD
  | MRT_SF_STAT
  | MRT_IN_STAT
  | MRT_OUT_STAT
  | MRT_BRK_STAT
  | MRT_CONN_STAT
  | MRT_CONN_ERR
  | PEG_CTL
  | PEG_CMD
  | PEG_ROLE
  | PEG_ROLE_CNT
  | PEG_STAT
  | PEG_LOCK
  | PEG_HEAT_OFS_LO
  | PEG_HEAT_OFS_HI
  | PEG_MIRROR
  | PEG_SYNC_TIME
  | PEG_WDOG
  | PEG_EVENT
  | PEG_PDO
  | NET_PTP_STAT
  | NET_PTP_AT_MARKER_LO
  | NET_PTP_AT_MARKER_HI
  | NET_EXI_STAT
  | NET_VIOL_CNT
  | NET_PORT_STAT
  | NET_SESS_CFG
  | NET_SESS_STAT
  | NET_SLOT_STAT
  | PNT_STAT
  | PNT_HOST_WR_ID
  | PNT_HOST_WR_LO
  | PNT_HOST_WR_HI
  | PNT_RING_CFG
  | PNT_RING_PROD
  | PNT_RING_CONS
  | PNT_RING_STAT
  | PNT_RING_BASE_LO
  | PNT_RING_BASE_HI
  | CAN_STAT
  | CAN_CFG
  | CAN_NBT
  | CAN_DBT
  | CAN_TT_CFG
  | CAN_TT_CYC
  | CAN_CTL
  | CAN_TX_CANCEL
  | CAN_ERR
  | CAN_CNT
  | CAN_TT_STAT
  | CAN_TX_STAT
  | FDL_CTL
  | FDL_STAT
  | FDL_CFG
  | FDL_BAND_CFG
  | FDL_BAND_STAT
  | FDL_CURT
  | FDL_CURT_LIMIT
  | FDL_CURT_CTR
  | FDL_NODE_STAT
  | EMB_CTL
  | EMB_STAT
  | EMB_HEAD_DIS
  | EMB_HEAD_CHG
  | EMB_STR_STAT
  | EMB_STR_SOC
  | EMB_STR_CAP
  | EMB_STR_LEARN
  | EMB_Q_LO
  | EMB_Q_HI
  | CFR_STAT
  | CFR_LC_STATE
  | CFR_ROT_CNT
  | CFR_NONCE
  | CFR_DBG_STAT
  | CFR_DBG_CTL
  | CFR_CH_ADDR_LO
  | CFR_CH_ADDR_HI
  | CFR_CH_LEN
  | CFR_CH_CMD
  | CFR_CH_STAT
  | CFR_SLOT_ATTR_LO
  | CFR_SLOT_ATTR_HI
  | CFR_SLOT_GEN
  | CFR_SLOT_STAT
  | CFR_SLOT_PGEN
  | SCB_CTL
  | SCB_CFG
  | SCB_STAT
  | SCB_TAG_CFG
  | SCB_BW_LO
  | SCB_BW_HI
  | SCB_CNT_LO
  | SCB_CNT_HI
  | PWR_STAT
  | PWR_RST_CAUSE
  | PWR_RST_CNT
  | PWR_CTL
  | PWR_PF_STAT
  | PWR_VMON
  deriving DecidableEq, Repr

/-- What resets a register (the line before each register table). -/
inductive Dom where
  | device    -- every device reset
  | coldStart -- cold start only
  | notStored -- a command register: nothing is stored
  | image     -- loaded from the active Joinery image
  | assay     -- every device reset and every Assay start
  | sealed    -- the sealed parameters of the Assay
  | mram      -- held in MRAM through every reset
  | fuse      -- fuses and one-way counters
  | ember     -- held in the Ember island
  | nonce     -- the Coffer's nonce
  deriving DecidableEq, Repr

/-- One row of the register map: window index, offset in the window, (stride, count) of each array dimension, reset
domain, reset value, and the masks of its RW (with RWS and RWL), W1C, RC and write-only bits. -/
structure RegRow where
  win   : Nat
  off   : Nat
  dims  : List (Nat × Nat)
  dom   : Dom
  reset : BitVec 32
  rw    : BitVec 32
  w1c   : BitVec 32
  rc    : BitVec 32
  wo    : BitVec 32
  deriving DecidableEq, Repr

/-- The row of each register. -/
def Reg.row : Reg → RegRow
  | .SYS_FEAT0 => ⟨0, 0x10, [], .fuse, 0x7c00000, 0x0, 0x0, 0x0, 0x0⟩
  | .SYS_FEAT1 => ⟨0, 0x14, [], .fuse, 0x1948810, 0x0, 0x0, 0x0, 0x0⟩
  | .SYS_CTL => ⟨0, 0x20, [], .device, 0x0, 0x3, 0x0, 0x0, 0x0⟩
  | .SYS_STAT => ⟨0, 0x24, [], .device, 0x0, 0x0, 0x0, 0x0, 0x0⟩
  | .SYS_STROKE_CFG => ⟨0, 0x30, [], .coldStart, 0x6403e8, 0x0, 0x0, 0x0, 0x0⟩
  | .SYS_STROKE_STAT => ⟨0, 0x34, [], .device, 0x0, 0x0, 0x0, 0xff00, 0x0⟩
  | .SYS_STROKE_CNT_LO => ⟨0, 0x38, [], .coldStart, 0x0, 0x0, 0x0, 0x0, 0x0⟩
  | .SYS_STROKE_CNT_HI => ⟨0, 0x3c, [], .coldStart, 0x0, 0x0, 0x0, 0x0, 0x0⟩
  | .SYS_OVR_SUM => ⟨0, 0x40, [], .device, 0x0, 0x0, 0x1187c, 0x0, 0x0⟩
  | .SYS_REGION_STAT => ⟨0, 0x48, [], .device, 0x0, 0x0, 0x0, 0x0, 0x0⟩
  | .SYS_REGION_FAULT => ⟨0, 0x4c, [], .device, 0x0, 0x0, 0x0, 0x0, 0x0⟩
  | .SYS_BUSERR_ADDR_LO => ⟨0, 0x50, [], .device, 0x0, 0x0, 0x0, 0x0, 0x0⟩
  | .SYS_BUSERR_ADDR_HI => ⟨0, 0x54, [], .device, 0x0, 0x0, 0x0, 0x0, 0x0⟩
  | .SYS_BUSERR_INFO => ⟨0, 0x58, [], .device, 0x0, 0x0, 0x80000000, 0x0, 0x0⟩
  | .JNY_CMD => ⟨1, 0x0, [], .notStored, 0x0, 0x0, 0x0, 0x0, 0xf⟩
  | .JNY_STAGE_ADDR_LO => ⟨1, 0x8, [], .device, 0x0, 0xffffffff, 0x0, 0x0, 0x0⟩
  | .JNY_STAGE_ADDR_HI => ⟨1, 0xc, [], .device, 0x0, 0xffffffff, 0x0, 0x0, 0x0⟩
  | .JNY_STAGE_LEN => ⟨1, 0x10, [], .device, 0x0, 0x7fffff, 0x0, 0x0, 0x0⟩
  | .JNY_APPLY_HEAT_LO => ⟨1, 0x18, [], .device, 0x0, 0xffffffff, 0x0, 0x0, 0x0⟩
  | .JNY_APPLY_HEAT_HI => ⟨1, 0x1c, [], .device, 0x0, 0x3ff, 0x0, 0x0, 0x0⟩
  | .JNY_TIMEOUT => ⟨1, 0x20, [], .device, 0xea60, 0xffffffff, 0x0, 0x0, 0x0⟩
  | .JNY_STAT => ⟨1, 0x24, [], .device, 0x0, 0x0, 0x0, 0x0, 0x0⟩
  | .JNY_BANK => ⟨1, 0x28, [], .image, 0x0, 0x0, 0x0, 0x0, 0x0⟩
  | .JNY_ERR => ⟨1, 0x2c, [], .device, 0x0, 0x0, 0x0, 0x0, 0x0⟩
  | .JNY_ACTIVE_SERIAL => ⟨1, 0x30, [], .image, 0x0, 0x0, 0x0, 0x0, 0x0⟩
  | .JNY_FLOOR => ⟨1, 0x34, [], .mram, 0x0, 0x0, 0x0, 0x0, 0x0⟩
  | .JNY_ACTIVE_ID_LO => ⟨1, 0x38, [], .image, 0x0, 0x0, 0x0, 0x0, 0x0⟩
  | .JNY_ACTIVE_ID_HI => ⟨1, 0x3c, [], .image, 0x0, 0x0, 0x0, 0x0, 0x0⟩
  | .ACQ_STAT => ⟨2, 0x4, [], .device, 0x0, 0x0, 0x0, 0x0, 0x0⟩
  | .ACQ_SOFT_TRIG => ⟨2, 0x8, [], .notStored, 0x0, 0x0, 0x0, 0x0, 0x7f⟩
  | .ACQ_SEQ_RESTART => ⟨2, 0xc, [], .notStored, 0x0, 0x0, 0x0, 0x0, 0x7f⟩
  | .ACQ_CNV_CFG => ⟨2, 0x100, [(0x4, 16)], .device, 0x0, 0x1, 0x0, 0x0, 0x0⟩
  | .ACQ_CNV_STAT => ⟨2, 0x140, [(0x4, 16)], .device, 0x0, 0x0, 0x0, 0xfffffff, 0x0⟩
  | .ACQ_CHK_CFG => ⟨2, 0x200, [(0x4, 8)], .image, 0x0, 0x0, 0x0, 0x0, 0x0⟩
  | .ACQ_CHK_STAT => ⟨2, 0x220, [(0x4, 8)], .device, 0x0, 0x0, 0x80000000, 0xff0000, 0x0⟩
  | .ACQ_MOD_CFG => ⟨2, 0x400, [(0x4, 64)], .image, 0x0, 0x0, 0x0, 0x0, 0x0⟩
  | .ACQ_MOD_DATA => ⟨2, 0x500, [(0x4, 64)], .device, 0x0, 0x0, 0x0, 0x40000000, 0x0⟩
  | .ACQ_SEQ_STAT => ⟨2, 0x1000, [(0x4, 128)], .device, 0x0, 0x0, 0x0, 0xffffff, 0x0⟩
  | .FRG_CTL => ⟨3, 0x0, [], .device, 0x1, 0x3, 0x0, 0x0, 0x0⟩
  | .FRG_STAT => ⟨3, 0x4, [], .device, 0x0, 0x0, 0x0, 0x0, 0x0⟩
  | .FRG_PH_DROP0 => ⟨3, 0x10, [], .device, 0x0, 0x0, 0x0, 0x0, 0x0⟩
  | .FRG_PH_DROP1 => ⟨3, 0x14, [], .device, 0x0, 0x0, 0x0, 0x0, 0x0⟩
  | .FRG_PH_DROP2 => ⟨3, 0x18, [], .device, 0x0, 0x0, 0x0, 0x0, 0x0⟩
  | .FRG_BAL_CFG => ⟨3, 0x20, [], .image, 0x0, 0x0, 0x0, 0x0, 0x0⟩
  | .FRG_BAY_CFG => ⟨3, 0x100, [(0x4, 24)], .image, 0x0, 0x0, 0x0, 0x0, 0x0⟩
  | .FRG_BAY_SHED => ⟨3, 0x180, [(0x4, 24)], .image, 0x0, 0x0, 0x0, 0x0, 0x0⟩
  | .FRG_BAY_REF => ⟨3, 0x200, [(0x4, 24)], .device, 0x0, 0xffff, 0x0, 0x0, 0x0⟩
  | .FRG_BAY_CTL => ⟨3, 0x280, [(0x4, 24)], .device, 0x0, 0x0, 0x0, 0x0, 0x2⟩
  | .FRG_BAY_STAT => ⟨3, 0x300, [(0x4, 24)], .device, 0x0, 0x0, 0x0, 0xff00, 0x0⟩
  | .FRG_BAY_AUX => ⟨3, 0x380, [(0x4, 24)], .image, 0x0, 0x0, 0x0, 0x0, 0x0⟩
  | .FRG_PH_CFG => ⟨3, 0x400, [(0x4, 96)], .image, 0x0, 0x0, 0x0, 0x0, 0x0⟩
  | .FRG_PH_TIM => ⟨3, 0x600, [(0x4, 96)], .image, 0x0, 0x0, 0x0, 0x0, 0x0⟩
  | .FRG_PH_TRIM => ⟨3, 0x800, [(0x4, 96)], .device, 0x0, 0x0, 0x0, 0x0, 0x0⟩
  | .FRG_PH_STAT => ⟨3, 0xa00, [(0x4, 96)], .device, 0x0, 0x0, 0x80000000, 0xffff00, 0x0⟩
  | .FRG_PH_DAC => ⟨3, 0xc00, [(0x4, 96)], .device, 0x0, 0x0, 0x0, 0x0, 0x0⟩
  | .FRG_PH_TEMP => ⟨3, 0xe00, [(0x4, 96)], .device, 0x0, 0xffff, 0x0, 0x0, 0x0⟩
  | .FRG_FLD => ⟨3, 0x1000, [(0x4, 64)], .image, 0x0, 0x0, 0x0, 0x0, 0x0⟩
  | .CLF_STOP0 => ⟨4, 0x0, [], .device, 0x0, 0x0, 0x0, 0x0, 0x0⟩
  | .CLF_STOP1 => ⟨4, 0x4, [], .device, 0x0, 0x0, 0x0, 0x0, 0x0⟩
  | .CLF_ENG_CTL => ⟨4, 0x1000, [(0x200, 48)], .notStored, 0x0, 0x0, 0x0, 0x0, 0x3⟩
  | .CLF_ENG_STAT => ⟨4, 0x1004, [(0x200, 48)], .device, 0x0, 0x0, 0x0, 0xffff, 0x0⟩
  | .CLF_ENG_FLAGS => ⟨4, 0x1008, [(0x200, 48)], .device, 0x0, 0x0, 0x0, 0xf0, 0x0⟩
  | .CLF_ENG_CYC => ⟨4, 0x100c, [(0x200, 48)], .device, 0x0, 0x0, 0x0, 0x0, 0x0⟩
  | .CLF_ENG_PEAK => ⟨4, 0x1010, [(0x200, 48)], .device, 0x0, 0x0, 0x0, 0x3fffff, 0x0⟩
  | .CLF_ENG_PC => ⟨4, 0x1014, [(0x200, 48)], .device, 0x0, 0x0, 0x0, 0x0, 0x0⟩
  | .CLF_FE_STAT => ⟨4, 0x1020, [(0x200, 48), (0x4, 4)], .device, 0x0, 0x0, 0x80000000, 0x0, 0x0⟩
  | .CLF_RES_LO => ⟨4, 0x1100, [(0x200, 48), (0x8, 16)], .device, 0x0, 0x0, 0x0, 0x0, 0x0⟩
  | .CLF_RES_HI => ⟨4, 0x1104, [(0x200, 48), (0x8, 16)], .device, 0x0, 0x0, 0x0, 0x0, 0x0⟩
  | .TRS_CTL => ⟨5, 0x0, [], .device, 0x0, 0x4, 0x0, 0x0, 0x3⟩
  | .TRS_STAT => ⟨5, 0x4, [], .device, 0x0, 0x0, 0x0, 0xffff, 0x0⟩
  | .TRS_CFG => ⟨5, 0x8, [], .image, 0x0, 0x0, 0x0, 0x0, 0x0⟩
  | .TRS_GRID_CFG => ⟨5, 0xc, [], .image, 0x0, 0x0, 0x0, 0x0, 0x0⟩
  | .TRS_GRID_FW => ⟨5, 0x10, [], .device, 0xffffffff, 0xffffffff, 0x0, 0x0, 0x0⟩
  | .TRS_GRID_STAT => ⟨5, 0x14, [], .device, 0x0, 0x0, 0x0, 0x0, 0x0⟩
  | .TRS_BAT_SP => ⟨5, 0x18, [], .device, 0x0, 0x0, 0x0, 0x0, 0x0⟩
  | .TRS_COMMIT_HEAT_LO => ⟨5, 0x20, [], .device, 0x0, 0x0, 0x0, 0x0, 0x0⟩
  | .TRS_COMMIT_HEAT_HI => ⟨5, 0x24, [], .device, 0x0, 0x0, 0x0, 0x0, 0x0⟩
  | .TRS_RB_CNT => ⟨5, 0x28, [], .device, 0x0, 0x0, 0x0, 0xffffffff, 0x0⟩
  | .TRS_LAST_EVENT => ⟨5, 0x2c, [], .device, 0x0, 0x0, 0x0, 0x0, 0x0⟩
  | .TRS_OUT_DEM_LO => ⟨5, 0x100, [(0x8, 32)], .device, 0x0, 0xffffffff, 0x0, 0x0, 0x0⟩
  | .TRS_OUT_DEM_HI => ⟨5, 0x104, [(0x8, 32)], .device, 0x0, 0x8cffffff, 0x0, 0x0, 0x0⟩
  | .TRS_OUT_STAT => ⟨5, 0x280, [(0x4, 32)], .device, 0x0, 0x0, 0x0, 0x0, 0x0⟩
  | .TRS_BAY_STAT => ⟨5, 0x300, [(0x4, 24)], .device, 0xfc00000, 0x0, 0x0, 0x0, 0x0⟩
  | .TRS_XP_STAT => ⟨5, 0x400, [(0x4, 768)], .device, 0x0, 0x0, 0x80000000, 0x0, 0x0⟩
  | .TRS_PEER_STAT => ⟨5, 0x1000, [(0x4, 8)], .device, 0x0, 0x0, 0x0, 0xff0000, 0x0⟩
  | .BLW_CTL => ⟨6, 0x0, [], .notStored, 0x0, 0x0, 0x0, 0x0, 0x1⟩
  | .BLW_STAT => ⟨6, 0x4, [], .device, 0x0, 0x0, 0x0, 0xffff, 0x0⟩
  | .BLW_DIE_CFG => ⟨6, 0x10, [], .image, 0x0, 0x0, 0x0, 0x0, 0x0⟩
  | .BLW_DIE_STAT => ⟨6, 0x14, [], .device, 0x0, 0x0, 0x0, 0x0, 0x0⟩
  | .BLW_DIE_TEMP => ⟨6, 0x40, [(0x4, 16)], .device, 0x0, 0x0, 0x0, 0x0, 0x0⟩
  | .BLW_CBL_STAT => ⟨6, 0x100, [(0x4, 32)], .device, 0x0, 0x0, 0x0, 0x0, 0x0⟩
  | .BLW_OUT_LIM => ⟨6, 0x200, [(0x4, 32)], .device, 0x0, 0x0, 0x0, 0x0, 0x0⟩
  | .BLW_FCST => ⟨6, 0x1000, [(0x40, 32), (0x4, 16)], .device, 0x0, 0x0, 0x0, 0x0, 0x0⟩
  | .ASY_STAT => ⟨11, 0x0, [], .assay, 0x0, 0x0, 0x0, 0x0, 0x0⟩
  | .ASY_LMC_LO => ⟨11, 0x8, [], .mram, 0x0, 0x0, 0x0, 0x0, 0x0⟩
  | .ASY_LMC_HI => ⟨11, 0xc, [], .mram, 0x0, 0x0, 0x0, 0x0, 0x0⟩
  | .ASY_DRIFT => ⟨11, 0x10, [], .assay, 0x0, 0x0, 0x0, 0x0, 0x0⟩
  | .ASY_SEAL_CNT => ⟨11, 0x18, [], .fuse, 0x0, 0x0, 0x0, 0x0, 0x0⟩
  | .ASY_LEGAL_VER => ⟨11, 0x20, [], .mram, 0x0, 0x0, 0x0, 0x0, 0x0⟩
  | .ASY_LEGAL_CRC => ⟨11, 0x24, [], .mram, 0x0, 0x0, 0x0, 0x0, 0x0⟩
  | .ASY_CHK => ⟨11, 0x40, [], .assay, 0x0, 0xff, 0x0, 0xff00, 0x0⟩
  | .ASY_MBX_ADDR_LO => ⟨11, 0x100, [], .device, 0x0, 0xffffffff, 0x0, 0x0, 0x0⟩
  | .ASY_MBX_ADDR_HI => ⟨11, 0x104, [], .device, 0x0, 0xffffffff, 0x0, 0x0, 0x0⟩
  | .ASY_MBX_LEN => ⟨11, 0x108, [], .device, 0x0, 0x3fff, 0x0, 0x0, 0x0⟩
  | .ASY_MBX_CMD => ⟨11, 0x10c, [], .notStored, 0x0, 0x0, 0x0, 0x0, 0x1⟩
  | .ASY_MBX_STAT => ⟨11, 0x110, [], .device, 0x0, 0x0, 0x0, 0x0, 0x0⟩
  | .ASY_PT_CFG => ⟨11, 0x200, [(0x4, 34)], .sealed, 0x0, 0xffffffff, 0x0, 0x0, 0x0⟩
  | .ASY_PT_RCBL => ⟨11, 0x300, [(0x4, 34)], .sealed, 0x0, 0xffffffff, 0x0, 0x0, 0x0⟩
  | .ASY_PT_START => ⟨11, 0xc00, [(0x4, 34)], .sealed, 0x0, 0xffff, 0x0, 0x0, 0x0⟩
  | .ASY_CH_GAIN => ⟨11, 0x400, [(0x4, 80)], .sealed, 0x0, 0xffffffff, 0x0, 0x0, 0x0⟩
  | .ASY_CH_OFS => ⟨11, 0x540, [(0x4, 80)], .sealed, 0x0, 0x3fffff, 0x0, 0x0, 0x0⟩
  | .ASY_CH_PHC => ⟨11, 0x680, [(0x4, 80)], .sealed, 0x0, 0xffff, 0x0, 0x0, 0x0⟩
  | .ASY_PT_STAT => ⟨11, 0x800, [(0x4, 34)], .assay, 0x0, 0x0, 0x0, 0x0, 0x0⟩
  | .ASY_TPO_CFG => ⟨11, 0x900, [(0x4, 4)], .sealed, 0x0, 0xffffffff, 0x0, 0x0, 0x0⟩
  | .ASY_TPO_STAT => ⟨11, 0x910, [(0x4, 4)], .assay, 0x0, 0x0, 0x0, 0x80000000, 0x0⟩
  | .ASY_PQ_CFG_LO => ⟨11, 0xa00, [(0x8, 2)], .mram, 0x5a6e, 0x0, 0x0, 0x0, 0x0⟩
  | .ASY_PQ_CFG_HI => ⟨11, 0xa04, [(0x8, 2)], .mram, 0x5000000, 0x0, 0x0, 0x0, 0x0⟩
  | .ASY_PQ_STAT => ⟨11, 0xa20, [(0x4, 2)], .assay, 0x0, 0x0, 0x0, 0x0, 0x0⟩
  | .ASY_CH_RMS => ⟨11, 0xb00, [(0x4, 16)], .assay, 0x0, 0x0, 0x0, 0x0, 0x0⟩
  | .ASY_ACC_LO => ⟨11, 0x1000, [(0x20, 34), (0x8, 3)], .mram, 0x0, 0x0, 0x0, 0x0, 0x0⟩
  | .ASY_ACC_HI => ⟨11, 0x1004, [(0x20, 34), (0x8, 3)], .mram, 0x0, 0x0, 0x0, 0x0, 0x0⟩
  | .ASY_HMK_STAT => ⟨11, 0x2000, [], .assay, 0x1000000, 0x0, 0x0, 0x0, 0x0⟩
  | .ASY_RSEQ_LO => ⟨11, 0x2008, [], .mram, 0x0, 0x0, 0x0, 0x0, 0x0⟩
  | .ASY_RSEQ_HI => ⟨11, 0x200c, [], .mram, 0x0, 0x0, 0x0, 0x0, 0x0⟩
  | .ASY_INT_CFG => ⟨11, 0x2010, [], .mram, 0x0, 0x0, 0x0, 0x0, 0x0⟩
  | .ASY_INT_ANCHOR_LO => ⟨11, 0x2018, [], .mram, 0x0, 0x0, 0x0, 0x0, 0x0⟩
  | .ASY_INT_ANCHOR_HI => ⟨11, 0x201c, [], .mram, 0x0, 0x0, 0x0, 0x0, 0x0⟩
  | .ASY_WALL_LO => ⟨11, 0x2020, [], .assay, 0x0, 0x0, 0x0, 0x0, 0x0⟩
  | .ASY_WALL_HI => ⟨11, 0x2024, [], .assay, 0x0, 0x0, 0x0, 0x0, 0x0⟩
  | .ASY_TARIFF => ⟨11, 0x2100, [(0x4, 34)], .mram, 0x0, 0x0, 0x0, 0x0, 0x0⟩
  | .ASY_CREDIT_LO => ⟨11, 0x2200, [(0x8, 32)], .mram, 0x0, 0x0, 0x0, 0x0, 0x0⟩
  | .ASY_CREDIT_HI => ⟨11, 0x2204, [(0x8, 32)], .mram, 0x0, 0x0, 0x0, 0x0, 0x0⟩
  | .ASY_PREPAY_STAT => ⟨11, 0x2400, [(0x4, 32)], .mram, 0x0, 0x0, 0x0, 0x0, 0x0⟩
  | .ASY_PT_PFS => ⟨11, 0x2500, [(0x4, 34)], .assay, 0x0, 0x0, 0x0, 0x0, 0x0⟩
  | .ASY_TREG_LO => ⟨11, 0x4000, [(0x100, 34), (0x10, 16), (0x8, 2)], .mram, 0x0, 0x0, 0x0, 0x0, 0x0⟩
  | .ASY_TREG_HI => ⟨11, 0x4004, [(0x100, 34), (0x10, 16), (0x8, 2)], .mram, 0x0, 0x0, 0x0, 0x0, 0x0⟩
  | .MRT_STAT => ⟨12, 0x0, [], .device, 0x40000000, 0x0, 0x0, 0x0, 0x0⟩
  | .MRT_TABLE_CNT => ⟨12, 0x4, [], .fuse, 0x0, 0x0, 0x0, 0x0, 0x0⟩
  | .MRT_OUT_REQ => ⟨12, 0x8, [], .device, 0x0, 0xffff, 0x0, 0x0, 0x0⟩
  | .MRT_BRK_REQ => ⟨12, 0xc, [], .device, 0x0, 0xf, 0x0, 0x0, 0x0⟩
  | .MRT_UNLOCK_REQ => ⟨12, 0x10, [], .device, 0x0, 0xffffffff, 0x0, 0x0, 0x0⟩
  | .MRT_CMD => ⟨12, 0x14, [], .notStored, 0x0, 0x0, 0x0, 0x0, 0xf⟩
  | .MRT_SF_STAT => ⟨12, 0x100, [(0x4, 32)], .device, 0x40000000, 0x0, 0x0, 0xffff, 0x0⟩
  | .MRT_IN_STAT => ⟨12, 0x200, [(0x4, 32)], .device, 0x0, 0x0, 0x0, 0x0, 0x0⟩
  | .MRT_OUT_STAT => ⟨12, 0x300, [(0x4, 16)], .device, 0x0, 0x0, 0x0, 0xff00, 0x0⟩
  | .MRT_BRK_STAT => ⟨12, 0x380, [(0x4, 4)], .device, 0x10000ff, 0x0, 0x0, 0xff00, 0x0⟩
  | .MRT_CONN_STAT => ⟨12, 0x400, [(0x4, 32)], .device, 0x0, 0x0, 0x0, 0x0, 0x0⟩
  | .MRT_CONN_ERR => ⟨12, 0x480, [(0x4, 32)], .device, 0x0, 0x0, 0x0, 0xffffffff, 0x0⟩
  | .PEG_CTL => ⟨13, 0x0, [], .device, 0x1, 0x3, 0x0, 0x0, 0x0⟩
  | .PEG_CMD => ⟨13, 0x4, [], .notStored, 0x0, 0x0, 0x0, 0x0, 0x3⟩
  | .PEG_ROLE => ⟨13, 0x8, [], .mram, 0x0, 0x1, 0x0, 0x0, 0x0⟩
  | .PEG_ROLE_CNT => ⟨13, 0xc, [], .fuse, 0x0, 0x0, 0x0, 0x0, 0x0⟩
  | .PEG_STAT => ⟨13, 0x10, [], .device, 0x6000000, 0x0, 0x0, 0x0, 0x0⟩
  | .PEG_LOCK => ⟨13, 0x14, [], .device, 0x0, 0x0, 0x0, 0xffff0000, 0x0⟩
  | .PEG_HEAT_OFS_LO => ⟨13, 0x18, [], .coldStart, 0x0, 0x0, 0x0, 0x0, 0x0⟩
  | .PEG_HEAT_OFS_HI => ⟨13, 0x1c, [], .coldStart, 0x0, 0x0, 0x0, 0x0, 0x0⟩
  | .PEG_MIRROR => ⟨13, 0x20, [], .device, 0x0, 0x0, 0x0, 0xffff, 0x0⟩
  | .PEG_SYNC_TIME => ⟨13, 0x24, [], .device, 0x0, 0x0, 0x0, 0x0, 0x0⟩
  | .PEG_WDOG => ⟨13, 0x28, [], .device, 0x3e8, 0xffff, 0x0, 0x0, 0x0⟩
  | .PEG_EVENT => ⟨13, 0x2c, [], .device, 0x0, 0x0, 0x0, 0x0, 0x0⟩
  | .PEG_PDO => ⟨13, 0x30, [], .device, 0x0, 0xffff, 0x0, 0x0, 0x0⟩
  | .NET_PTP_STAT => ⟨7, 0x10, [], .device, 0x0, 0x0, 0x0, 0x0, 0x0⟩
  | .NET_PTP_AT_MARKER_LO => ⟨7, 0x18, [], .device, 0x0, 0x0, 0x0, 0x0, 0x0⟩
  | .NET_PTP_AT_MARKER_HI => ⟨7, 0x1c, [], .device, 0x0, 0x0, 0x0, 0x0, 0x0⟩
  | .NET_EXI_STAT => ⟨7, 0x20, [], .device, 0x0, 0x0, 0x0, 0xffffffff, 0x0⟩
  | .NET_VIOL_CNT => ⟨7, 0x24, [], .device, 0x0, 0x0, 0x0, 0xffffffff, 0x0⟩
  | .NET_PORT_STAT => ⟨7, 0x100, [(0x4, 10)], .device, 0x0, 0x0, 0x0, 0xffff, 0x0⟩
  | .NET_SESS_CFG => ⟨7, 0x400, [(0x4, 32)], .image, 0x0, 0x0, 0x0, 0x0, 0x0⟩
  | .NET_SESS_STAT => ⟨7, 0x480, [(0x4, 32)], .device, 0x0, 0x0, 0x0, 0xff, 0x0⟩
  | .NET_SLOT_STAT => ⟨7, 0x1000, [(0x4, 256)], .device, 0x0, 0x0, 0x0, 0xff0000, 0x0⟩
  | .PNT_STAT => ⟨8, 0x0, [], .device, 0x0, 0x0, 0x0, 0xffffffff, 0x0⟩
  | .PNT_HOST_WR_ID => ⟨8, 0x10, [], .device, 0x0, 0x703ffff, 0x0, 0x0, 0x0⟩
  | .PNT_HOST_WR_LO => ⟨8, 0x18, [], .device, 0x0, 0xffffffff, 0x0, 0x0, 0x0⟩
  | .PNT_HOST_WR_HI => ⟨8, 0x1c, [], .device, 0x0, 0xffffffff, 0x0, 0x0, 0x0⟩
  | .PNT_RING_CFG => ⟨8, 0x100, [(0x4, 64)], .image, 0x0, 0x0, 0x0, 0x0, 0x0⟩
  | .PNT_RING_PROD => ⟨8, 0x200, [(0x4, 64)], .device, 0x0, 0x1ffff, 0x0, 0x0, 0x0⟩
  | .PNT_RING_CONS => ⟨8, 0x300, [(0x4, 64)], .device, 0x0, 0x1ffff, 0x0, 0x0, 0x0⟩
  | .PNT_RING_STAT => ⟨8, 0x400, [(0x4, 64)], .device, 0x0, 0x0, 0x0, 0x7ffe0000, 0x0⟩
  | .PNT_RING_BASE_LO => ⟨8, 0x800, [(0x8, 64)], .image, 0x0, 0x0, 0x0, 0x0, 0x0⟩
  | .PNT_RING_BASE_HI => ⟨8, 0x804, [(0x8, 64)], .image, 0x0, 0x0, 0x0, 0x0, 0x0⟩
  | .CAN_STAT => ⟨9, 0x0, [], .device, 0xff, 0x0, 0x0, 0x0, 0x0⟩
  | .CAN_CFG => ⟨9, 0x1000, [(0x100, 8)], .image, 0x0, 0x0, 0x0, 0x0, 0x0⟩
  | .CAN_NBT => ⟨9, 0x1004, [(0x100, 8)], .image, 0x0, 0x0, 0x0, 0x0, 0x0⟩
  | .CAN_DBT => ⟨9, 0x1008, [(0x100, 8)], .image, 0x0, 0x0, 0x0, 0x0, 0x0⟩
  | .CAN_TT_CFG => ⟨9, 0x100c, [(0x100, 8)], .image, 0x0, 0x0, 0x0, 0x0, 0x0⟩
  | .CAN_TT_CYC => ⟨9, 0x1010, [(0x100, 8)], .image, 0x0, 0x0, 0x0, 0x0, 0x0⟩
  | .CAN_CTL => ⟨9, 0x1020, [(0x100, 8)], .device, 0x0, 0x3, 0x0, 0x0, 0x4⟩
  | .CAN_TX_CANCEL => ⟨9, 0x1024, [(0x100, 8)], .notStored, 0x0, 0x0, 0x0, 0x0, 0x1ffff⟩
  | .CAN_ERR => ⟨9, 0x1028, [(0x100, 8)], .device, 0x0, 0x0, 0x0, 0xff, 0x0⟩
  | .CAN_CNT => ⟨9, 0x102c, [(0x100, 8)], .device, 0x0, 0x0, 0x0, 0xffffffff, 0x0⟩
  | .CAN_TT_STAT => ⟨9, 0x1030, [(0x100, 8)], .device, 0x0, 0x0, 0x0, 0xffff00, 0x0⟩
  | .CAN_TX_STAT => ⟨9, 0x1034, [(0x100, 8)], .device, 0x0, 0x0, 0x0, 0x0, 0x0⟩
  | .FDL_CTL => ⟨10, 0x0, [], .device, 0x0, 0x1, 0x0, 0x0, 0x0⟩
  | .FDL_STAT => ⟨10, 0x4, [], .device, 0x0, 0x0, 0x0, 0x0, 0x0⟩
  | .FDL_CFG => ⟨10, 0x8, [], .image, 0x0, 0x0, 0x0, 0x0, 0x0⟩
  | .FDL_BAND_CFG => ⟨10, 0x10, [(0x4, 4)], .image, 0x0, 0x0, 0x0, 0x0, 0x0⟩
  | .FDL_BAND_STAT => ⟨10, 0x20, [(0x4, 4)], .device, 0x0, 0x0, 0x0, 0xffffff, 0x0⟩
  | .FDL_CURT => ⟨10, 0x30, [], .mram, 0x0, 0x0, 0x0, 0x0, 0x0⟩
  | .FDL_CURT_LIMIT => ⟨10, 0x34, [], .mram, 0x0, 0x0, 0x0, 0x0, 0x0⟩
  | .FDL_CURT_CTR => ⟨10, 0x38, [], .mram, 0x0, 0x0, 0x0, 0x0, 0x0⟩
  | .FDL_NODE_STAT => ⟨10, 0x100, [(0x4, 64)], .device, 0x0, 0x0, 0x0, 0x0, 0x0⟩
  | .EMB_CTL => ⟨16, 0x0, [], .notStored, 0x0, 0x0, 0x0, 0x0, 0x3⟩
  | .EMB_STAT => ⟨16, 0x4, [], .coldStart, 0x0, 0x0, 0x0, 0x0, 0x0⟩
  | .EMB_HEAD_DIS => ⟨16, 0x10, [], .device, 0x0, 0x0, 0x0, 0x0, 0x0⟩
  | .EMB_HEAD_CHG => ⟨16, 0x14, [], .device, 0x0, 0x0, 0x0, 0x0, 0x0⟩
  | .EMB_STR_STAT => ⟨16, 0x100, [(0x4, 16)], .device, 0x0, 0x0, 0x0, 0x0, 0x0⟩
  | .EMB_STR_SOC => ⟨16, 0x140, [(0x4, 16)], .device, 0x0, 0x0, 0x0, 0x0, 0x0⟩
  | .EMB_STR_CAP => ⟨16, 0x180, [(0x4, 16)], .mram, 0x0, 0x0, 0x0, 0x0, 0x0⟩
  | .EMB_STR_LEARN => ⟨16, 0x1c0, [(0x4, 16)], .mram, 0x0, 0x0, 0x0, 0xff000000, 0x0⟩
  | .EMB_Q_LO => ⟨16, 0x200, [(0x8, 16)], .ember, 0x0, 0x0, 0x0, 0x0, 0x0⟩
  | .EMB_Q_HI => ⟨16, 0x204, [(0x8, 16)], .ember, 0x0, 0x0, 0x0, 0x0, 0x0⟩
  | .CFR_STAT => ⟨14, 0x0, [], .device, 0x0, 0x0, 0x0, 0x0, 0x0⟩
  | .CFR_LC_STATE => ⟨14, 0x4, [], .fuse, 0x0, 0x0, 0x0, 0x0, 0x0⟩
  | .CFR_ROT_CNT => ⟨14, 0x8, [], .fuse, 0x0, 0x0, 0x0, 0x0, 0x0⟩
  | .CFR_NONCE => ⟨14, 0x20, [(0x4, 8)], .nonce, 0x0, 0x0, 0x0, 0x0, 0x0⟩
  | .CFR_DBG_STAT => ⟨14, 0x40, [], .device, 0x0, 0x0, 0x0, 0x0, 0x0⟩
  | .CFR_DBG_CTL => ⟨14, 0x44, [], .notStored, 0x0, 0x0, 0x0, 0x0, 0x1⟩
  | .CFR_CH_ADDR_LO => ⟨14, 0x100, [(0x20, 13)], .device, 0x0, 0xffffffff, 0x0, 0x0, 0x0⟩
  | .CFR_CH_ADDR_HI => ⟨14, 0x104, [(0x20, 13)], .device, 0x0, 0xffffffff, 0x0, 0x0, 0x0⟩
  | .CFR_CH_LEN => ⟨14, 0x108, [(0x20, 13)], .device, 0x0, 0x7fff, 0x0, 0x0, 0x0⟩
  | .CFR_CH_CMD => ⟨14, 0x10c, [(0x20, 13)], .notStored, 0x0, 0x0, 0x0, 0x0, 0x1⟩
  | .CFR_CH_STAT => ⟨14, 0x110, [(0x20, 13)], .device, 0x0, 0x0, 0x0, 0x0, 0x0⟩
  | .CFR_SLOT_ATTR_LO => ⟨14, 0x1000, [(0x8, 512)], .mram, 0x0, 0x0, 0x0, 0x0, 0x0⟩
  | .CFR_SLOT_ATTR_HI => ⟨14, 0x1004, [(0x8, 512)], .mram, 0x0, 0x0, 0x0, 0x0, 0x0⟩
  | .CFR_SLOT_GEN => ⟨14, 0x2000, [(0x4, 512)], .mram, 0x0, 0x0, 0x0, 0x0, 0x0⟩
  | .CFR_SLOT_STAT => ⟨14, 0x2800, [(0x4, 512)], .mram, 0x0, 0x0, 0x0, 0x0, 0x0⟩
  | .CFR_SLOT_PGEN => ⟨14, 0x3000, [(0x4, 512)], .mram, 0x0, 0x0, 0x0, 0x0, 0x0⟩
  | .SCB_CTL => ⟨15, 0x0, [], .notStored, 0x0, 0x0, 0x0, 0x0, 0x1⟩
  | .SCB_CFG => ⟨15, 0x4, [], .device, 0xffff0000, 0xffffffff, 0x0, 0x0, 0x0⟩
  | .SCB_STAT => ⟨15, 0x8, [], .device, 0x0, 0x0, 0x0, 0xffff0000, 0x0⟩
  | .SCB_TAG_CFG => ⟨15, 0x10, [], .device, 0x10000001, 0xff3fffff, 0x0, 0x0, 0x0⟩
  | .SCB_BW_LO => ⟨15, 0x100, [(0x8, 28)], .device, 0x0, 0x0, 0x0, 0x0, 0x0⟩
  | .SCB_BW_HI => ⟨15, 0x104, [(0x8, 28)], .device, 0x0, 0x0, 0x0, 0x0, 0x0⟩
  | .SCB_CNT_LO => ⟨15, 0x8000, [(0x8, 2048)], .device, 0x0, 0x0, 0x0, 0x0, 0x0⟩
  | .SCB_CNT_HI => ⟨15, 0x8004, [(0x8, 2048)], .device, 0x0, 0x0, 0x0, 0x0, 0x0⟩
  | .PWR_STAT => ⟨17, 0x0, [], .device, 0x0, 0x0, 0x0, 0x0, 0x0⟩
  | .PWR_RST_CAUSE => ⟨17, 0x4, [], .coldStart, 0x10000000, 0x0, 0x7fe, 0x0, 0x0⟩
  | .PWR_RST_CNT => ⟨17, 0x8, [], .coldStart, 0x0, 0x0, 0x0, 0x0, 0x0⟩
  | .PWR_CTL => ⟨17, 0x10, [], .device, 0x2, 0x2, 0x0, 0x0, 0x5⟩
  | .PWR_PF_STAT => ⟨17, 0x14, [], .coldStart, 0x0, 0x0, 0x0, 0x0, 0x0⟩
  | .PWR_VMON => ⟨17, 0x20, [(0x4, 4)], .device, 0xffff0000, 0x0, 0x0, 0xffff0000, 0x0⟩

/-- Part 0 of the list of registers. -/
def Reg.part0 : List Reg :=
  [.SYS_FEAT0, .SYS_FEAT1, .SYS_CTL, .SYS_STAT, .SYS_STROKE_CFG, .SYS_STROKE_STAT, .SYS_STROKE_CNT_LO, .SYS_STROKE_CNT_HI, .SYS_OVR_SUM, .SYS_REGION_STAT, .SYS_REGION_FAULT, .SYS_BUSERR_ADDR_LO, .SYS_BUSERR_ADDR_HI, .SYS_BUSERR_INFO, .JNY_CMD, .JNY_STAGE_ADDR_LO, .JNY_STAGE_ADDR_HI, .JNY_STAGE_LEN, .JNY_APPLY_HEAT_LO, .JNY_APPLY_HEAT_HI, .JNY_TIMEOUT, .JNY_STAT, .JNY_BANK, .JNY_ERR, .JNY_ACTIVE_SERIAL, .JNY_FLOOR, .JNY_ACTIVE_ID_LO, .JNY_ACTIVE_ID_HI, .ACQ_STAT, .ACQ_SOFT_TRIG, .ACQ_SEQ_RESTART, .ACQ_CNV_CFG, .ACQ_CNV_STAT, .ACQ_CHK_CFG, .ACQ_CHK_STAT, .ACQ_MOD_CFG, .ACQ_MOD_DATA, .ACQ_SEQ_STAT, .FRG_CTL, .FRG_STAT]

/-- Part 1 of the list of registers. -/
def Reg.part1 : List Reg :=
  [.FRG_PH_DROP0, .FRG_PH_DROP1, .FRG_PH_DROP2, .FRG_BAL_CFG, .FRG_BAY_CFG, .FRG_BAY_SHED, .FRG_BAY_REF, .FRG_BAY_CTL, .FRG_BAY_STAT, .FRG_BAY_AUX, .FRG_PH_CFG, .FRG_PH_TIM, .FRG_PH_TRIM, .FRG_PH_STAT, .FRG_PH_DAC, .FRG_PH_TEMP, .FRG_FLD, .CLF_STOP0, .CLF_STOP1, .CLF_ENG_CTL, .CLF_ENG_STAT, .CLF_ENG_FLAGS, .CLF_ENG_CYC, .CLF_ENG_PEAK, .CLF_ENG_PC, .CLF_FE_STAT, .CLF_RES_LO, .CLF_RES_HI, .TRS_CTL, .TRS_STAT, .TRS_CFG, .TRS_GRID_CFG, .TRS_GRID_FW, .TRS_GRID_STAT, .TRS_BAT_SP, .TRS_COMMIT_HEAT_LO, .TRS_COMMIT_HEAT_HI, .TRS_RB_CNT, .TRS_LAST_EVENT, .TRS_OUT_DEM_LO]

/-- Part 2 of the list of registers. -/
def Reg.part2 : List Reg :=
  [.TRS_OUT_DEM_HI, .TRS_OUT_STAT, .TRS_BAY_STAT, .TRS_XP_STAT, .TRS_PEER_STAT, .BLW_CTL, .BLW_STAT, .BLW_DIE_CFG, .BLW_DIE_STAT, .BLW_DIE_TEMP, .BLW_CBL_STAT, .BLW_OUT_LIM, .BLW_FCST, .ASY_STAT, .ASY_LMC_LO, .ASY_LMC_HI, .ASY_DRIFT, .ASY_SEAL_CNT, .ASY_LEGAL_VER, .ASY_LEGAL_CRC, .ASY_CHK, .ASY_MBX_ADDR_LO, .ASY_MBX_ADDR_HI, .ASY_MBX_LEN, .ASY_MBX_CMD, .ASY_MBX_STAT, .ASY_PT_CFG, .ASY_PT_RCBL, .ASY_PT_START, .ASY_CH_GAIN, .ASY_CH_OFS, .ASY_CH_PHC, .ASY_PT_STAT, .ASY_TPO_CFG, .ASY_TPO_STAT, .ASY_PQ_CFG_LO, .ASY_PQ_CFG_HI, .ASY_PQ_STAT, .ASY_CH_RMS, .ASY_ACC_LO]

/-- Part 3 of the list of registers. -/
def Reg.part3 : List Reg :=
  [.ASY_ACC_HI, .ASY_HMK_STAT, .ASY_RSEQ_LO, .ASY_RSEQ_HI, .ASY_INT_CFG, .ASY_INT_ANCHOR_LO, .ASY_INT_ANCHOR_HI, .ASY_WALL_LO, .ASY_WALL_HI, .ASY_TARIFF, .ASY_CREDIT_LO, .ASY_CREDIT_HI, .ASY_PREPAY_STAT, .ASY_PT_PFS, .ASY_TREG_LO, .ASY_TREG_HI, .MRT_STAT, .MRT_TABLE_CNT, .MRT_OUT_REQ, .MRT_BRK_REQ, .MRT_UNLOCK_REQ, .MRT_CMD, .MRT_SF_STAT, .MRT_IN_STAT, .MRT_OUT_STAT, .MRT_BRK_STAT, .MRT_CONN_STAT, .MRT_CONN_ERR, .PEG_CTL, .PEG_CMD, .PEG_ROLE, .PEG_ROLE_CNT, .PEG_STAT, .PEG_LOCK, .PEG_HEAT_OFS_LO, .PEG_HEAT_OFS_HI, .PEG_MIRROR, .PEG_SYNC_TIME, .PEG_WDOG, .PEG_EVENT]

/-- Part 4 of the list of registers. -/
def Reg.part4 : List Reg :=
  [.PEG_PDO, .NET_PTP_STAT, .NET_PTP_AT_MARKER_LO, .NET_PTP_AT_MARKER_HI, .NET_EXI_STAT, .NET_VIOL_CNT, .NET_PORT_STAT, .NET_SESS_CFG, .NET_SESS_STAT, .NET_SLOT_STAT, .PNT_STAT, .PNT_HOST_WR_ID, .PNT_HOST_WR_LO, .PNT_HOST_WR_HI, .PNT_RING_CFG, .PNT_RING_PROD, .PNT_RING_CONS, .PNT_RING_STAT, .PNT_RING_BASE_LO, .PNT_RING_BASE_HI, .CAN_STAT, .CAN_CFG, .CAN_NBT, .CAN_DBT, .CAN_TT_CFG, .CAN_TT_CYC, .CAN_CTL, .CAN_TX_CANCEL, .CAN_ERR, .CAN_CNT, .CAN_TT_STAT, .CAN_TX_STAT, .FDL_CTL, .FDL_STAT, .FDL_CFG, .FDL_BAND_CFG, .FDL_BAND_STAT, .FDL_CURT, .FDL_CURT_LIMIT, .FDL_CURT_CTR]

/-- Part 5 of the list of registers. -/
def Reg.part5 : List Reg :=
  [.FDL_NODE_STAT, .EMB_CTL, .EMB_STAT, .EMB_HEAD_DIS, .EMB_HEAD_CHG, .EMB_STR_STAT, .EMB_STR_SOC, .EMB_STR_CAP, .EMB_STR_LEARN, .EMB_Q_LO, .EMB_Q_HI, .CFR_STAT, .CFR_LC_STATE, .CFR_ROT_CNT, .CFR_NONCE, .CFR_DBG_STAT, .CFR_DBG_CTL, .CFR_CH_ADDR_LO, .CFR_CH_ADDR_HI, .CFR_CH_LEN, .CFR_CH_CMD, .CFR_CH_STAT, .CFR_SLOT_ATTR_LO, .CFR_SLOT_ATTR_HI, .CFR_SLOT_GEN, .CFR_SLOT_STAT, .CFR_SLOT_PGEN, .SCB_CTL, .SCB_CFG, .SCB_STAT, .SCB_TAG_CFG, .SCB_BW_LO, .SCB_BW_HI, .SCB_CNT_LO, .SCB_CNT_HI, .PWR_STAT, .PWR_RST_CAUSE, .PWR_RST_CNT, .PWR_CTL, .PWR_PF_STAT]

/-- Part 6 of the list of registers. -/
def Reg.part6 : List Reg :=
  [.PWR_VMON]

/-- All registers, in the order of the chapters. -/
def Reg.all : List Reg := Reg.part0 ++ Reg.part1 ++ Reg.part2 ++ Reg.part3 ++ Reg.part4 ++ Reg.part5 ++ Reg.part6

/-- The reset value of a register (R10 and the register tables). -/
def Reg.resetVal (r : Reg) : BitVec 32 := r.row.reset

/-- What resets a register. -/
def Reg.dom (r : Reg) : Dom := r.row.dom

/-- The index an offset spells in an array of the given strides and counts, counted in row order. -/
def dimIndex : List (Nat × Nat) → Nat → Nat → Option Nat
  | [], rem, acc => if rem = 0 then some acc else none
  | (stride, count) :: rest, rem, acc =>
    if rem / stride < count then dimIndex rest (rem % stride) (acc * count + rem / stride) else none

/-- The array index at which a register stands at offset `off` of its window, if it stands there. -/
def Reg.indexAt (r : Reg) (off : Nat) : Option Nat :=
  if r.row.off ≤ off then dimIndex r.row.dims (off - r.row.off) 0 else none

/-- The register at a window and offset (R22 windows, the offsets of the register tables). -/
def regAt (win off : Nat) : Option (Reg × Nat) :=
  Reg.all.findSome? fun r =>
    if r.row.win = win then (r.indexAt off).map fun i => (r, i) else none

/-- A field of a register: the register and its highest and lowest bit. -/
structure Fld where
  reg : Reg
  hi  : Nat
  lo  : Nat
  deriving DecidableEq, Repr

/-- The number of bits of a field. -/
def Fld.width (f : Fld) : Nat := f.hi - f.lo + 1

/-- The value of a field in a register's word. -/
def Fld.of (f : Fld) (v : BitVec 32) : Nat := (v.toNat >>> f.lo) % 2 ^ f.width

/-- The bits of a field as a mask. -/
def Fld.mask (f : Fld) : BitVec 32 := BitVec.ofNat 32 ((2 ^ f.width - 1) <<< f.lo)

/-- A register's word with one field replaced (the value is cut to the field's width). -/
def Fld.put (f : Fld) (v : BitVec 32) (n : Nat) : BitVec 32 :=
  (v &&& ~~~f.mask) ||| (BitVec.ofNat 32 (n % 2 ^ f.width) <<< f.lo)

namespace F

abbrev SYS_FEAT0_PAIR : Fld := ⟨.SYS_FEAT0, 26, 26⟩
abbrev SYS_FEAT0_TRUSS : Fld := ⟨.SYS_FEAT0, 25, 25⟩
abbrev SYS_FEAT0_COFFER : Fld := ⟨.SYS_FEAT0, 24, 24⟩
abbrev SYS_FEAT0_MORTISE : Fld := ⟨.SYS_FEAT0, 23, 23⟩
abbrev SYS_FEAT0_ASSAY : Fld := ⟨.SYS_FEAT0, 22, 22⟩
abbrev SYS_FEAT0_FEEDER : Fld := ⟨.SYS_FEAT0, 21, 21⟩
abbrev SYS_FEAT0_PCMP : Fld := ⟨.SYS_FEAT0, 20, 20⟩
abbrev SYS_FEAT0_FORGE : Fld := ⟨.SYS_FEAT0, 19, 19⟩
abbrev SYS_FEAT0_BAT_STRINGS : Fld := ⟨.SYS_FEAT0, 18, 14⟩
abbrev SYS_FEAT0_CALFIN : Fld := ⟨.SYS_FEAT0, 13, 8⟩
abbrev SYS_FEAT0_PHASES : Fld := ⟨.SYS_FEAT0, 7, 0⟩
abbrev SYS_FEAT1_STEP : Fld := ⟨.SYS_FEAT1, 31, 24⟩
abbrev SYS_FEAT1_ETH2G5 : Fld := ⟨.SYS_FEAT1, 23, 21⟩
abbrev SYS_FEAT1_ETH10G : Fld := ⟨.SYS_FEAT1, 20, 19⟩
abbrev SYS_FEAT1_T1S : Fld := ⟨.SYS_FEAT1, 18, 16⟩
abbrev SYS_FEAT1_CAN : Fld := ⟨.SYS_FEAT1, 15, 12⟩
abbrev SYS_FEAT1_MOD : Fld := ⟨.SYS_FEAT1, 11, 5⟩
abbrev SYS_FEAT1_ADC : Fld := ⟨.SYS_FEAT1, 4, 0⟩
abbrev SYS_CTL_CE_REPORT : Fld := ⟨.SYS_CTL, 1, 1⟩
abbrev SYS_CTL_ABSENT_TRAP : Fld := ⟨.SYS_CTL, 0, 0⟩
abbrev SYS_STAT_OVERRUN : Fld := ⟨.SYS_STAT, 3, 3⟩
abbrev SYS_STAT_REGION_WARN : Fld := ⟨.SYS_STAT, 2, 2⟩
abbrev SYS_STAT_ISLAND_FAIL : Fld := ⟨.SYS_STAT, 1, 1⟩
abbrev SYS_STAT_GREEN_TIMBER : Fld := ⟨.SYS_STAT, 0, 0⟩
abbrev SYS_STROKE_CFG_HEAT_LEN : Fld := ⟨.SYS_STROKE_CFG, 23, 16⟩
abbrev SYS_STROKE_CFG_STROKE_PERIOD : Fld := ⟨.SYS_STROKE_CFG, 12, 0⟩
abbrev SYS_STROKE_STAT_STROKE_IN_HEAT : Fld := ⟨.SYS_STROKE_STAT, 22, 16⟩
abbrev SYS_STROKE_STAT_SKEW_PEAK : Fld := ⟨.SYS_STROKE_STAT, 15, 8⟩
abbrev SYS_STROKE_STAT_SKEW_MAX : Fld := ⟨.SYS_STROKE_STAT, 7, 0⟩
abbrev SYS_STROKE_CNT_LO_COUNT_LO : Fld := ⟨.SYS_STROKE_CNT_LO, 31, 0⟩
abbrev SYS_STROKE_CNT_HI_COUNT_HI : Fld := ⟨.SYS_STROKE_CNT_HI, 15, 0⟩
abbrev SYS_OVR_SUM_EMB : Fld := ⟨.SYS_OVR_SUM, 16, 16⟩
abbrev SYS_OVR_SUM_MRT : Fld := ⟨.SYS_OVR_SUM, 12, 12⟩
abbrev SYS_OVR_SUM_ASY : Fld := ⟨.SYS_OVR_SUM, 11, 11⟩
abbrev SYS_OVR_SUM_BLW : Fld := ⟨.SYS_OVR_SUM, 6, 6⟩
abbrev SYS_OVR_SUM_TRS : Fld := ⟨.SYS_OVR_SUM, 5, 5⟩
abbrev SYS_OVR_SUM_CLF : Fld := ⟨.SYS_OVR_SUM, 4, 4⟩
abbrev SYS_OVR_SUM_FRG : Fld := ⟨.SYS_OVR_SUM, 3, 3⟩
abbrev SYS_OVR_SUM_ACQ : Fld := ⟨.SYS_OVR_SUM, 2, 2⟩
abbrev SYS_REGION_STAT_WARN : Fld := ⟨.SYS_REGION_STAT, 24, 16⟩
abbrev SYS_REGION_STAT_FAILED : Fld := ⟨.SYS_REGION_STAT, 8, 0⟩
abbrev SYS_REGION_FAULT_PEER : Fld := ⟨.SYS_REGION_FAULT, 23, 20⟩
abbrev SYS_REGION_FAULT_ISLAND : Fld := ⟨.SYS_REGION_FAULT, 19, 16⟩
abbrev SYS_REGION_FAULT_CODE : Fld := ⟨.SYS_REGION_FAULT, 15, 0⟩
abbrev SYS_BUSERR_ADDR_LO_ADDR_LO : Fld := ⟨.SYS_BUSERR_ADDR_LO, 31, 0⟩
abbrev SYS_BUSERR_ADDR_HI_ADDR_HI : Fld := ⟨.SYS_BUSERR_ADDR_HI, 31, 0⟩
abbrev SYS_BUSERR_INFO_VALID : Fld := ⟨.SYS_BUSERR_INFO, 31, 31⟩
abbrev SYS_BUSERR_INFO_LOST : Fld := ⟨.SYS_BUSERR_INFO, 30, 25⟩
abbrev SYS_BUSERR_INFO_WRITE : Fld := ⟨.SYS_BUSERR_INFO, 24, 24⟩
abbrev SYS_BUSERR_INFO_PORT : Fld := ⟨.SYS_BUSERR_INFO, 23, 16⟩
abbrev SYS_BUSERR_INFO_CODE : Fld := ⟨.SYS_BUSERR_INFO, 15, 0⟩
abbrev JNY_CMD_CMD : Fld := ⟨.JNY_CMD, 3, 0⟩
abbrev JNY_STAGE_ADDR_LO_ADDR_LO : Fld := ⟨.JNY_STAGE_ADDR_LO, 31, 0⟩
abbrev JNY_STAGE_ADDR_HI_ADDR_HI : Fld := ⟨.JNY_STAGE_ADDR_HI, 31, 0⟩
abbrev JNY_STAGE_LEN_LEN : Fld := ⟨.JNY_STAGE_LEN, 22, 0⟩
abbrev JNY_APPLY_HEAT_LO_HEAT_LO : Fld := ⟨.JNY_APPLY_HEAT_LO, 31, 0⟩
abbrev JNY_APPLY_HEAT_HI_HEAT_HI : Fld := ⟨.JNY_APPLY_HEAT_HI, 9, 0⟩
abbrev JNY_TIMEOUT_HEATS : Fld := ⟨.JNY_TIMEOUT, 31, 0⟩
abbrev JNY_STAT_SOURCE : Fld := ⟨.JNY_STAT, 5, 4⟩
abbrev JNY_STAT_STATE : Fld := ⟨.JNY_STAT, 1, 0⟩
abbrev JNY_BANK_ACTIVE : Fld := ⟨.JNY_BANK, 8, 0⟩
abbrev JNY_ERR_UNIT : Fld := ⟨.JNY_ERR, 31, 21⟩
abbrev JNY_ERR_SECTION : Fld := ⟨.JNY_ERR, 20, 16⟩
abbrev JNY_ERR_CODE : Fld := ⟨.JNY_ERR, 15, 0⟩
abbrev JNY_ACTIVE_SERIAL_SERIAL : Fld := ⟨.JNY_ACTIVE_SERIAL, 31, 0⟩
abbrev JNY_FLOOR_FLOOR : Fld := ⟨.JNY_FLOOR, 31, 0⟩
abbrev JNY_ACTIVE_ID_LO_ID_LO : Fld := ⟨.JNY_ACTIVE_ID_LO, 31, 0⟩
abbrev JNY_ACTIVE_ID_HI_ID_HI : Fld := ⟨.JNY_ACTIVE_ID_HI, 31, 0⟩
abbrev ACQ_STAT_CHK_FAULT : Fld := ⟨.ACQ_STAT, 23, 16⟩
abbrev ACQ_STAT_LP_ACTIVE : Fld := ⟨.ACQ_STAT, 15, 0⟩
abbrev ACQ_SOFT_TRIG_SEQ : Fld := ⟨.ACQ_SOFT_TRIG, 6, 0⟩
abbrev ACQ_SEQ_RESTART_SEQ : Fld := ⟨.ACQ_SEQ_RESTART, 6, 0⟩
abbrev ACQ_CNV_CFG_LP : Fld := ⟨.ACQ_CNV_CFG, 0, 0⟩
abbrev ACQ_CNV_STAT_QUEUE_PEAK : Fld := ⟨.ACQ_CNV_STAT, 27, 24⟩
abbrev ACQ_CNV_STAT_DROPPED : Fld := ⟨.ACQ_CNV_STAT, 23, 16⟩
abbrev ACQ_CNV_STAT_ABORTS : Fld := ⟨.ACQ_CNV_STAT, 15, 8⟩
abbrev ACQ_CNV_STAT_OVERRANGE : Fld := ⟨.ACQ_CNV_STAT, 7, 0⟩
abbrev ACQ_CHK_CFG_EN : Fld := ⟨.ACQ_CHK_CFG, 31, 31⟩
abbrev ACQ_CHK_CFG_ACTION : Fld := ⟨.ACQ_CHK_CFG, 30, 30⟩
abbrev ACQ_CHK_CFG_FAIL_LIMIT : Fld := ⟨.ACQ_CHK_CFG, 29, 26⟩
abbrev ACQ_CHK_CFG_REF_EN : Fld := ⟨.ACQ_CHK_CFG, 25, 25⟩
abbrev ACQ_CHK_CFG_INPUT : Fld := ⟨.ACQ_CHK_CFG, 23, 20⟩
abbrev ACQ_CHK_CFG_TOL : Fld := ⟨.ACQ_CHK_CFG, 19, 12⟩
abbrev ACQ_CHK_CFG_PERIOD : Fld := ⟨.ACQ_CHK_CFG, 6, 0⟩
abbrev ACQ_CHK_STAT_FAULT : Fld := ⟨.ACQ_CHK_STAT, 31, 31⟩
abbrev ACQ_CHK_STAT_SUSPECT_A : Fld := ⟨.ACQ_CHK_STAT, 30, 30⟩
abbrev ACQ_CHK_STAT_SUSPECT_B : Fld := ⟨.ACQ_CHK_STAT, 29, 29⟩
abbrev ACQ_CHK_STAT_DEGRADED : Fld := ⟨.ACQ_CHK_STAT, 28, 28⟩
abbrev ACQ_CHK_STAT_CONSEC : Fld := ⟨.ACQ_CHK_STAT, 27, 24⟩
abbrev ACQ_CHK_STAT_MISSES : Fld := ⟨.ACQ_CHK_STAT, 23, 16⟩
abbrev ACQ_CHK_STAT_LAST_DIFF : Fld := ⟨.ACQ_CHK_STAT, 15, 0⟩
abbrev ACQ_MOD_CFG_OWNER : Fld := ⟨.ACQ_MOD_CFG, 31, 30⟩
abbrev ACQ_MOD_CFG_OSR_EXP : Fld := ⟨.ACQ_MOD_CFG, 11, 8⟩
abbrev ACQ_MOD_CFG_DIV : Fld := ⟨.ACQ_MOD_CFG, 4, 0⟩
abbrev ACQ_MOD_DATA_STUCK : Fld := ⟨.ACQ_MOD_DATA, 31, 31⟩
abbrev ACQ_MOD_DATA_NEW : Fld := ⟨.ACQ_MOD_DATA, 30, 30⟩
abbrev ACQ_MOD_DATA_VALUE : Fld := ⟨.ACQ_MOD_DATA, 23, 0⟩
abbrev ACQ_SEQ_STAT_STOPPED : Fld := ⟨.ACQ_SEQ_STAT, 31, 31⟩
abbrev ACQ_SEQ_STAT_URGENT : Fld := ⟨.ACQ_SEQ_STAT, 30, 30⟩
abbrev ACQ_SEQ_STAT_OVR_CONSEC : Fld := ⟨.ACQ_SEQ_STAT, 27, 24⟩
abbrev ACQ_SEQ_STAT_COLLISIONS : Fld := ⟨.ACQ_SEQ_STAT, 23, 16⟩
abbrev ACQ_SEQ_STAT_OVERRUNS : Fld := ⟨.ACQ_SEQ_STAT, 15, 0⟩
abbrev FRG_CTL_TRUNC_REPORT : Fld := ⟨.FRG_CTL, 1, 1⟩
abbrev FRG_CTL_DITHER : Fld := ⟨.FRG_CTL, 0, 0⟩
abbrev FRG_STAT_ROLE : Fld := ⟨.FRG_STAT, 31, 31⟩
abbrev FRG_STAT_UPD_CONSEC : Fld := ⟨.FRG_STAT, 27, 24⟩
abbrev FRG_STAT_BAY_FAULT : Fld := ⟨.FRG_STAT, 23, 0⟩
abbrev FRG_PH_DROP0_DROP : Fld := ⟨.FRG_PH_DROP0, 31, 0⟩
abbrev FRG_PH_DROP1_DROP : Fld := ⟨.FRG_PH_DROP1, 31, 0⟩
abbrev FRG_PH_DROP2_DROP : Fld := ⟨.FRG_PH_DROP2, 31, 0⟩
abbrev FRG_BAL_CFG_TRIM_SLEW : Fld := ⟨.FRG_BAL_CFG, 23, 16⟩
abbrev FRG_BAL_CFG_TRIM_MAX : Fld := ⟨.FRG_BAL_CFG, 15, 8⟩
abbrev FRG_BAL_CFG_BAL_GAIN : Fld := ⟨.FRG_BAL_CFG, 7, 0⟩
abbrev FRG_BAY_CFG_MODE : Fld := ⟨.FRG_BAY_CFG, 30, 30⟩
abbrev FRG_BAY_CFG_MK : Fld := ⟨.FRG_BAY_CFG, 29, 25⟩
abbrev FRG_BAY_CFG_SKIP_LS : Fld := ⟨.FRG_BAY_CFG, 24, 24⟩
abbrev FRG_BAY_CFG_MAXD : Fld := ⟨.FRG_BAY_CFG, 23, 16⟩
abbrev FRG_BAY_CFG_N : Fld := ⟨.FRG_BAY_CFG, 15, 12⟩
abbrev FRG_BAY_CFG_IMAX : Fld := ⟨.FRG_BAY_CFG, 11, 0⟩
abbrev FRG_BAY_SHED_SHED_EN : Fld := ⟨.FRG_BAY_SHED, 31, 31⟩
abbrev FRG_BAY_SHED_MIN_PH : Fld := ⟨.FRG_BAY_SHED, 30, 28⟩
abbrev FRG_BAY_SHED_SHED_RAMP : Fld := ⟨.FRG_BAY_SHED, 27, 20⟩
abbrev FRG_BAY_SHED_HOLD : Fld := ⟨.FRG_BAY_SHED, 19, 16⟩
abbrev FRG_BAY_SHED_SHED_LO : Fld := ⟨.FRG_BAY_SHED, 15, 8⟩
abbrev FRG_BAY_SHED_ADD_HI : Fld := ⟨.FRG_BAY_SHED, 7, 0⟩
abbrev FRG_BAY_REF_REF : Fld := ⟨.FRG_BAY_REF, 15, 0⟩
abbrev FRG_BAY_CTL_RELEASE : Fld := ⟨.FRG_BAY_CTL, 1, 1⟩
abbrev FRG_BAY_CTL_RUN : Fld := ⟨.FRG_BAY_CTL, 0, 0⟩
abbrev FRG_BAY_STAT_FAULT : Fld := ⟨.FRG_BAY_STAT, 31, 31⟩
abbrev FRG_BAY_STAT_CAUSE : Fld := ⟨.FRG_BAY_STAT, 30, 27⟩
abbrev FRG_BAY_STAT_SHED : Fld := ⟨.FRG_BAY_STAT, 26, 25⟩
abbrev FRG_BAY_STAT_RUNNING : Fld := ⟨.FRG_BAY_STAT, 24, 21⟩
abbrev FRG_BAY_STAT_AVAIL : Fld := ⟨.FRG_BAY_STAT, 20, 17⟩
abbrev FRG_BAY_STAT_TRUNC : Fld := ⟨.FRG_BAY_STAT, 15, 8⟩
abbrev FRG_BAY_AUX_OFS : Fld := ⟨.FRG_BAY_AUX, 31, 24⟩
abbrev FRG_BAY_AUX_STEP_DET : Fld := ⟨.FRG_BAY_AUX, 23, 16⟩
abbrev FRG_BAY_AUX_OVS_LIMIT : Fld := ⟨.FRG_BAY_AUX, 15, 10⟩
abbrev FRG_BAY_AUX_OVS_THR : Fld := ⟨.FRG_BAY_AUX, 9, 0⟩
abbrev FRG_PH_CFG_IN_BAY : Fld := ⟨.FRG_PH_CFG, 31, 31⟩
abbrev FRG_PH_CFG_BAY : Fld := ⟨.FRG_PH_CFG, 30, 26⟩
abbrev FRG_PH_CFG_SLOT : Fld := ⟨.FRG_PH_CFG, 25, 23⟩
abbrev FRG_PH_CFG_TSRC : Fld := ⟨.FRG_PH_CFG, 22, 21⟩
abbrev FRG_PH_CFG_RAMP_SLOPE : Fld := ⟨.FRG_PH_CFG, 9, 0⟩
abbrev FRG_PH_TIM_BLANK : Fld := ⟨.FRG_PH_TIM, 31, 24⟩
abbrev FRG_PH_TIM_DT_FALL : Fld := ⟨.FRG_PH_TIM, 15, 8⟩
abbrev FRG_PH_TIM_DT_RISE : Fld := ⟨.FRG_PH_TIM, 7, 0⟩
abbrev FRG_PH_TRIM_TEMP : Fld := ⟨.FRG_PH_TRIM, 31, 16⟩
abbrev FRG_PH_TRIM_TRIM : Fld := ⟨.FRG_PH_TRIM, 10, 0⟩
abbrev FRG_PH_STAT_DROP : Fld := ⟨.FRG_PH_STAT, 31, 31⟩
abbrev FRG_PH_STAT_CAUSE : Fld := ⟨.FRG_PH_STAT, 30, 28⟩
abbrev FRG_PH_STAT_GDF : Fld := ⟨.FRG_PH_STAT, 27, 27⟩
abbrev FRG_PH_STAT_SHED : Fld := ⟨.FRG_PH_STAT, 26, 26⟩
abbrev FRG_PH_STAT_WIN : Fld := ⟨.FRG_PH_STAT, 25, 25⟩
abbrev FRG_PH_STAT_TSTALE : Fld := ⟨.FRG_PH_STAT, 24, 24⟩
abbrev FRG_PH_STAT_MAXD_CNT : Fld := ⟨.FRG_PH_STAT, 23, 16⟩
abbrev FRG_PH_STAT_LIMIT_CNT : Fld := ⟨.FRG_PH_STAT, 15, 8⟩
abbrev FRG_PH_DAC_CODE : Fld := ⟨.FRG_PH_DAC, 11, 0⟩
abbrev FRG_PH_TEMP_TEMP : Fld := ⟨.FRG_PH_TEMP, 15, 0⟩
abbrev FRG_FLD_EN : Fld := ⟨.FRG_FLD, 31, 31⟩
abbrev FRG_FLD_ACTION : Fld := ⟨.FRG_FLD, 29, 29⟩
abbrev FRG_FLD_BAY : Fld := ⟨.FRG_FLD, 28, 24⟩
abbrev FRG_FLD_HI : Fld := ⟨.FRG_FLD, 23, 12⟩
abbrev FRG_FLD_LO : Fld := ⟨.FRG_FLD, 11, 0⟩
abbrev CLF_STOP0_STOPPED : Fld := ⟨.CLF_STOP0, 31, 0⟩
abbrev CLF_STOP1_STOPPED : Fld := ⟨.CLF_STOP1, 15, 0⟩
abbrev CLF_ENG_CTL_HALT : Fld := ⟨.CLF_ENG_CTL, 1, 1⟩
abbrev CLF_ENG_CTL_RESTART : Fld := ⟨.CLF_ENG_CTL, 0, 0⟩
abbrev CLF_ENG_STAT_STATE : Fld := ⟨.CLF_ENG_STAT, 31, 30⟩
abbrev CLF_ENG_STAT_BANK : Fld := ⟨.CLF_ENG_STAT, 29, 29⟩
abbrev CLF_ENG_STAT_FMT : Fld := ⟨.CLF_ENG_STAT, 28, 28⟩
abbrev CLF_ENG_STAT_OVR_CONSEC : Fld := ⟨.CLF_ENG_STAT, 27, 24⟩
abbrev CLF_ENG_STAT_STOP_CAUSE : Fld := ⟨.CLF_ENG_STAT, 23, 21⟩
abbrev CLF_ENG_STAT_OVERRUNS : Fld := ⟨.CLF_ENG_STAT, 15, 0⟩
abbrev CLF_ENG_FLAGS_ANY : Fld := ⟨.CLF_ENG_FLAGS, 7, 4⟩
abbrev CLF_ENG_FLAGS_LAST : Fld := ⟨.CLF_ENG_FLAGS, 3, 0⟩
abbrev CLF_ENG_CYC_LAST : Fld := ⟨.CLF_ENG_CYC, 21, 0⟩
abbrev CLF_ENG_PEAK_PEAK : Fld := ⟨.CLF_ENG_PEAK, 21, 0⟩
abbrev CLF_ENG_PC_PC : Fld := ⟨.CLF_ENG_PC, 12, 0⟩
abbrev CLF_FE_STAT_TRIP : Fld := ⟨.CLF_FE_STAT, 31, 31⟩
abbrev CLF_FE_STAT_ACTIVE : Fld := ⟨.CLF_FE_STAT, 30, 30⟩
abbrev CLF_FE_STAT_FAULT : Fld := ⟨.CLF_FE_STAT, 29, 29⟩
abbrev CLF_FE_STAT_COUNT : Fld := ⟨.CLF_FE_STAT, 15, 0⟩
abbrev CLF_RES_LO_VALUE : Fld := ⟨.CLF_RES_LO, 31, 0⟩
abbrev CLF_RES_HI_READY : Fld := ⟨.CLF_RES_HI, 31, 31⟩
abbrev CLF_RES_HI_STALE : Fld := ⟨.CLF_RES_HI, 30, 30⟩
abbrev CLF_RES_HI_READ_BEFORE : Fld := ⟨.CLF_RES_HI, 29, 29⟩
abbrev CLF_RES_HI_HELD : Fld := ⟨.CLF_RES_HI, 28, 28⟩
abbrev CLF_RES_HI_FMT : Fld := ⟨.CLF_RES_HI, 27, 27⟩
abbrev CLF_RES_HI_SEQ : Fld := ⟨.CLF_RES_HI, 15, 0⟩
abbrev TRS_CTL_BAT_CHG : Fld := ⟨.TRS_CTL, 2, 2⟩
abbrev TRS_CTL_RESTART : Fld := ⟨.TRS_CTL, 1, 1⟩
abbrev TRS_CTL_ROLLBACK : Fld := ⟨.TRS_CTL, 0, 0⟩
abbrev TRS_STAT_STATE : Fld := ⟨.TRS_STAT, 31, 30⟩
abbrev TRS_STAT_FALLBACK : Fld := ⟨.TRS_STAT, 29, 29⟩
abbrev TRS_STAT_WINDOW : Fld := ⟨.TRS_STAT, 28, 24⟩
abbrev TRS_STAT_OVR_CONSEC : Fld := ⟨.TRS_STAT, 23, 20⟩
abbrev TRS_STAT_OVERRUNS : Fld := ⟨.TRS_STAT, 15, 0⟩
abbrev TRS_CFG_DEPTH : Fld := ⟨.TRS_CFG, 31, 27⟩
abbrev TRS_CFG_CUTOFF : Fld := ⟨.TRS_CFG, 26, 20⟩
abbrev TRS_CFG_RAMP_STD : Fld := ⟨.TRS_CFG, 19, 10⟩
abbrev TRS_CFG_DEM_TOL : Fld := ⟨.TRS_CFG, 9, 0⟩
abbrev TRS_GRID_CFG_ETA : Fld := ⟨.TRS_GRID_CFG, 31, 22⟩
abbrev TRS_GRID_CFG_GRACE : Fld := ⟨.TRS_GRID_CFG, 21, 14⟩
abbrev TRS_GRID_CFG_FALLBACK : Fld := ⟨.TRS_GRID_CFG, 13, 4⟩
abbrev TRS_GRID_CFG_MISS_LIM : Fld := ⟨.TRS_GRID_CFG, 3, 0⟩
abbrev TRS_GRID_FW_LIMIT : Fld := ⟨.TRS_GRID_FW, 31, 0⟩
abbrev TRS_GRID_STAT_SOURCE : Fld := ⟨.TRS_GRID_STAT, 31, 29⟩
abbrev TRS_GRID_STAT_LIMIT : Fld := ⟨.TRS_GRID_STAT, 28, 0⟩
abbrev TRS_BAT_SP_SP : Fld := ⟨.TRS_BAT_SP, 31, 0⟩
abbrev TRS_COMMIT_HEAT_LO_HEAT_LO : Fld := ⟨.TRS_COMMIT_HEAT_LO, 31, 0⟩
abbrev TRS_COMMIT_HEAT_HI_HEAT_HI : Fld := ⟨.TRS_COMMIT_HEAT_HI, 9, 0⟩
abbrev TRS_RB_CNT_FILTERED : Fld := ⟨.TRS_RB_CNT, 31, 24⟩
abbrev TRS_RB_CNT_LATE : Fld := ⟨.TRS_RB_CNT, 23, 16⟩
abbrev TRS_RB_CNT_ROLLBACKS : Fld := ⟨.TRS_RB_CNT, 15, 0⟩
abbrev TRS_LAST_EVENT_CAUSE : Fld := ⟨.TRS_LAST_EVENT, 31, 28⟩
abbrev TRS_LAST_EVENT_UNIT : Fld := ⟨.TRS_LAST_EVENT, 27, 17⟩
abbrev TRS_LAST_EVENT_STROKE : Fld := ⟨.TRS_LAST_EVENT, 6, 0⟩
abbrev TRS_OUT_DEM_LO_V_REQ : Fld := ⟨.TRS_OUT_DEM_LO, 31, 16⟩
abbrev TRS_OUT_DEM_LO_I_REQ : Fld := ⟨.TRS_OUT_DEM_LO, 15, 0⟩
abbrev TRS_OUT_DEM_HI_VALID : Fld := ⟨.TRS_OUT_DEM_HI, 31, 31⟩
abbrev TRS_OUT_DEM_HI_PRIO : Fld := ⟨.TRS_OUT_DEM_HI, 27, 26⟩
abbrev TRS_OUT_DEM_HI_SEQ : Fld := ⟨.TRS_OUT_DEM_HI, 23, 16⟩
abbrev TRS_OUT_DEM_HI_SLOPE : Fld := ⟨.TRS_OUT_DEM_HI, 15, 0⟩
abbrev TRS_OUT_STAT_STATE : Fld := ⟨.TRS_OUT_STAT, 31, 29⟩
abbrev TRS_OUT_STAT_CREDIT_EX : Fld := ⟨.TRS_OUT_STAT, 28, 28⟩
abbrev TRS_OUT_STAT_LIMIT : Fld := ⟨.TRS_OUT_STAT, 27, 25⟩
abbrev TRS_OUT_STAT_BAYS : Fld := ⟨.TRS_OUT_STAT, 24, 20⟩
abbrev TRS_OUT_STAT_GRANT : Fld := ⟨.TRS_OUT_STAT, 15, 0⟩
abbrev TRS_BAY_STAT_MODE : Fld := ⟨.TRS_BAY_STAT, 31, 30⟩
abbrev TRS_BAY_STAT_LENT : Fld := ⟨.TRS_BAY_STAT, 29, 29⟩
abbrev TRS_BAY_STAT_USABLE : Fld := ⟨.TRS_BAY_STAT, 28, 28⟩
abbrev TRS_BAY_STAT_OUTPUT : Fld := ⟨.TRS_BAY_STAT, 27, 22⟩
abbrev TRS_BAY_STAT_ISP : Fld := ⟨.TRS_BAY_STAT, 15, 0⟩
abbrev TRS_XP_STAT_FAULT : Fld := ⟨.TRS_XP_STAT, 31, 31⟩
abbrev TRS_XP_STAT_STATE : Fld := ⟨.TRS_XP_STAT, 30, 28⟩
abbrev TRS_XP_STAT_WITHHELD : Fld := ⟨.TRS_XP_STAT, 27, 27⟩
abbrev TRS_XP_STAT_TIMER : Fld := ⟨.TRS_XP_STAT, 15, 8⟩
abbrev TRS_XP_STAT_OPS : Fld := ⟨.TRS_XP_STAT, 7, 0⟩
abbrev TRS_PEER_STAT_LISTED : Fld := ⟨.TRS_PEER_STAT, 31, 31⟩
abbrev TRS_PEER_STAT_CURRENT : Fld := ⟨.TRS_PEER_STAT, 30, 30⟩
abbrev TRS_PEER_STAT_BAD : Fld := ⟨.TRS_PEER_STAT, 23, 16⟩
abbrev TRS_PEER_STAT_AGE : Fld := ⟨.TRS_PEER_STAT, 15, 0⟩
abbrev BLW_CTL_RESTART : Fld := ⟨.BLW_CTL, 0, 0⟩
abbrev BLW_STAT_STOPPED : Fld := ⟨.BLW_STAT, 31, 31⟩
abbrev BLW_STAT_OVR_CONSEC : Fld := ⟨.BLW_STAT, 27, 24⟩
abbrev BLW_STAT_OVERRUNS : Fld := ⟨.BLW_STAT, 15, 0⟩
abbrev BLW_DIE_CFG_T_CRIT : Fld := ⟨.BLW_DIE_CFG, 31, 24⟩
abbrev BLW_DIE_CFG_T_THROT : Fld := ⟨.BLW_DIE_CFG, 23, 16⟩
abbrev BLW_DIE_CFG_T_WARN : Fld := ⟨.BLW_DIE_CFG, 15, 8⟩
abbrev BLW_DIE_CFG_BG_MASK : Fld := ⟨.BLW_DIE_CFG, 7, 0⟩
abbrev BLW_DIE_STAT_CRIT : Fld := ⟨.BLW_DIE_STAT, 31, 31⟩
abbrev BLW_DIE_STAT_FAST : Fld := ⟨.BLW_DIE_STAT, 30, 30⟩
abbrev BLW_DIE_STAT_LEVEL : Fld := ⟨.BLW_DIE_STAT, 29, 27⟩
abbrev BLW_DIE_STAT_HOTTEST : Fld := ⟨.BLW_DIE_STAT, 26, 16⟩
abbrev BLW_DIE_STAT_BROKEN : Fld := ⟨.BLW_DIE_STAT, 15, 0⟩
abbrev BLW_DIE_TEMP_TEMP : Fld := ⟨.BLW_DIE_TEMP, 10, 0⟩
abbrev BLW_CBL_STAT_SENSOR : Fld := ⟨.BLW_CBL_STAT, 31, 31⟩
abbrev BLW_CBL_STAT_SUSPECT : Fld := ⟨.BLW_CBL_STAT, 30, 30⟩
abbrev BLW_CBL_STAT_FAST : Fld := ⟨.BLW_CBL_STAT, 29, 29⟩
abbrev BLW_CBL_STAT_CUR_SUBST : Fld := ⟨.BLW_CBL_STAT, 28, 28⟩
abbrev BLW_CBL_STAT_FLOW_LOW : Fld := ⟨.BLW_CBL_STAT, 27, 27⟩
abbrev BLW_CBL_STAT_BROKEN : Fld := ⟨.BLW_CBL_STAT, 26, 24⟩
abbrev BLW_CBL_STAT_TC : Fld := ⟨.BLW_CBL_STAT, 15, 0⟩
abbrev BLW_OUT_LIM_LIMIT : Fld := ⟨.BLW_OUT_LIM, 15, 0⟩
abbrev BLW_FCST_LIMIT : Fld := ⟨.BLW_FCST, 15, 0⟩
abbrev ASY_STAT_CHECK_FAULT : Fld := ⟨.ASY_STAT, 3, 3⟩
abbrev ASY_STAT_METER_FAULT : Fld := ⟨.ASY_STAT, 2, 2⟩
abbrev ASY_STAT_DRIFT : Fld := ⟨.ASY_STAT, 1, 1⟩
abbrev ASY_STAT_RUN : Fld := ⟨.ASY_STAT, 0, 0⟩
abbrev ASY_LMC_LO_LMC_LO : Fld := ⟨.ASY_LMC_LO, 31, 0⟩
abbrev ASY_LMC_HI_LMC_HI : Fld := ⟨.ASY_LMC_HI, 31, 0⟩
abbrev ASY_DRIFT_PPM : Fld := ⟨.ASY_DRIFT, 15, 0⟩
abbrev ASY_SEAL_CNT_OPEN : Fld := ⟨.ASY_SEAL_CNT, 31, 31⟩
abbrev ASY_SEAL_CNT_COUNT : Fld := ⟨.ASY_SEAL_CNT, 3, 0⟩
abbrev ASY_LEGAL_VER_VERSION : Fld := ⟨.ASY_LEGAL_VER, 31, 0⟩
abbrev ASY_LEGAL_CRC_CRC : Fld := ⟨.ASY_LEGAL_CRC, 31, 0⟩
abbrev ASY_CHK_OUT : Fld := ⟨.ASY_CHK, 31, 29⟩
abbrev ASY_CHK_SOURCE : Fld := ⟨.ASY_CHK, 28, 28⟩
abbrev ASY_CHK_DISPUTES : Fld := ⟨.ASY_CHK, 15, 8⟩
abbrev ASY_CHK_CHK_TOL : Fld := ⟨.ASY_CHK, 7, 0⟩
abbrev ASY_MBX_ADDR_LO_ADDR_LO : Fld := ⟨.ASY_MBX_ADDR_LO, 31, 0⟩
abbrev ASY_MBX_ADDR_HI_ADDR_HI : Fld := ⟨.ASY_MBX_ADDR_HI, 31, 0⟩
abbrev ASY_MBX_LEN_LEN : Fld := ⟨.ASY_MBX_LEN, 13, 0⟩
abbrev ASY_MBX_CMD_GO : Fld := ⟨.ASY_MBX_CMD, 0, 0⟩
abbrev ASY_MBX_STAT_BUSY : Fld := ⟨.ASY_MBX_STAT, 31, 31⟩
abbrev ASY_MBX_STAT_CODE : Fld := ⟨.ASY_MBX_STAT, 15, 0⟩
abbrev ASY_PT_CFG_EN : Fld := ⟨.ASY_PT_CFG, 31, 31⟩
abbrev ASY_PT_CFG_MODE : Fld := ⟨.ASY_PT_CFG, 30, 30⟩
abbrev ASY_PT_CFG_CLC : Fld := ⟨.ASY_PT_CFG, 29, 29⟩
abbrev ASY_PT_CFG_DIR : Fld := ⟨.ASY_PT_CFG, 28, 28⟩
abbrev ASY_PT_CFG_SENSOR : Fld := ⟨.ASY_PT_CFG, 27, 26⟩
abbrev ASY_PT_CFG_I_MOD : Fld := ⟨.ASY_PT_CFG, 25, 20⟩
abbrev ASY_PT_CFG_U_MOD : Fld := ⟨.ASY_PT_CFG, 19, 14⟩
abbrev ASY_PT_CFG_OUTPUT : Fld := ⟨.ASY_PT_CFG, 13, 8⟩
abbrev ASY_PT_CFG_DC_TOL : Fld := ⟨.ASY_PT_CFG, 7, 0⟩
abbrev ASY_PT_RCBL_R_CBL : Fld := ⟨.ASY_PT_RCBL, 31, 0⟩
abbrev ASY_PT_START_START : Fld := ⟨.ASY_PT_START, 15, 0⟩
abbrev ASY_CH_GAIN_GAIN : Fld := ⟨.ASY_CH_GAIN, 31, 0⟩
abbrev ASY_CH_OFS_OFS : Fld := ⟨.ASY_CH_OFS, 21, 0⟩
abbrev ASY_CH_PHC_PHC : Fld := ⟨.ASY_CH_PHC, 15, 0⟩
abbrev ASY_PT_STAT_METER_FAULT : Fld := ⟨.ASY_PT_STAT, 31, 31⟩
abbrev ASY_PT_STAT_OVERRANGE : Fld := ⟨.ASY_PT_STAT, 30, 30⟩
abbrev ASY_PT_STAT_BELOW_START : Fld := ⟨.ASY_PT_STAT, 29, 29⟩
abbrev ASY_PT_STAT_PLAUS : Fld := ⟨.ASY_PT_STAT, 28, 28⟩
abbrev ASY_PT_STAT_EXHAUSTED : Fld := ⟨.ASY_PT_STAT, 27, 27⟩
abbrev ASY_PT_STAT_POWER : Fld := ⟨.ASY_PT_STAT, 26, 0⟩
abbrev ASY_TPO_CFG_EN : Fld := ⟨.ASY_TPO_CFG, 31, 31⟩
abbrev ASY_TPO_CFG_QTY : Fld := ⟨.ASY_TPO_CFG, 30, 29⟩
abbrev ASY_TPO_CFG_POINT : Fld := ⟨.ASY_TPO_CFG, 28, 23⟩
abbrev ASY_TPO_CFG_WIDTH : Fld := ⟨.ASY_TPO_CFG, 22, 16⟩
abbrev ASY_TPO_CFG_CONST : Fld := ⟨.ASY_TPO_CFG, 15, 0⟩
abbrev ASY_TPO_STAT_OVF : Fld := ⟨.ASY_TPO_STAT, 31, 31⟩
abbrev ASY_TPO_STAT_PENDING : Fld := ⟨.ASY_TPO_STAT, 15, 0⟩
abbrev ASY_PQ_CFG_LO_U_DECL : Fld := ⟨.ASY_PQ_CFG_LO, 31, 16⟩
abbrev ASY_PQ_CFG_LO_SAG_THR : Fld := ⟨.ASY_PQ_CFG_LO, 15, 8⟩
abbrev ASY_PQ_CFG_LO_SWELL_THR : Fld := ⟨.ASY_PQ_CFG_LO, 7, 0⟩
abbrev ASY_PQ_CFG_HI_INT_THR : Fld := ⟨.ASY_PQ_CFG_HI, 31, 24⟩
abbrev ASY_PQ_CFG_HI_FREQ : Fld := ⟨.ASY_PQ_CFG_HI, 23, 22⟩
abbrev ASY_PQ_CFG_HI_RING : Fld := ⟨.ASY_PQ_CFG_HI, 5, 0⟩
abbrev ASY_PQ_STAT_SAG : Fld := ⟨.ASY_PQ_STAT, 31, 31⟩
abbrev ASY_PQ_STAT_SWELL : Fld := ⟨.ASY_PQ_STAT, 30, 30⟩
abbrev ASY_PQ_STAT_INT : Fld := ⟨.ASY_PQ_STAT, 29, 29⟩
abbrev ASY_PQ_STAT_REF : Fld := ⟨.ASY_PQ_STAT, 28, 27⟩
abbrev ASY_PQ_STAT_FREQ : Fld := ⟨.ASY_PQ_STAT, 15, 0⟩
abbrev ASY_CH_RMS_RMS : Fld := ⟨.ASY_CH_RMS, 31, 0⟩
abbrev ASY_ACC_LO_ACC_LO : Fld := ⟨.ASY_ACC_LO, 31, 0⟩
abbrev ASY_ACC_HI_ACC_HI : Fld := ⟨.ASY_ACC_HI, 31, 0⟩
abbrev ASY_HMK_STAT_LOG_FULL : Fld := ⟨.ASY_HMK_STAT, 25, 25⟩
abbrev ASY_HMK_STAT_WALL_UNSYNC : Fld := ⟨.ASY_HMK_STAT, 24, 24⟩
abbrev ASY_HMK_STAT_UNSIGNED : Fld := ⟨.ASY_HMK_STAT, 23, 16⟩
abbrev ASY_HMK_STAT_LOG_FREE : Fld := ⟨.ASY_HMK_STAT, 8, 0⟩
abbrev ASY_RSEQ_LO_RSEQ_LO : Fld := ⟨.ASY_RSEQ_LO, 31, 0⟩
abbrev ASY_RSEQ_HI_RSEQ_HI : Fld := ⟨.ASY_RSEQ_HI, 31, 0⟩
abbrev ASY_INT_CFG_LEN : Fld := ⟨.ASY_INT_CFG, 11, 0⟩
abbrev ASY_INT_ANCHOR_LO_ANCHOR : Fld := ⟨.ASY_INT_ANCHOR_LO, 31, 0⟩
abbrev ASY_INT_ANCHOR_HI_ANCHOR : Fld := ⟨.ASY_INT_ANCHOR_HI, 31, 0⟩
abbrev ASY_WALL_LO_WALL : Fld := ⟨.ASY_WALL_LO, 31, 0⟩
abbrev ASY_WALL_HI_WALL : Fld := ⟨.ASY_WALL_HI, 31, 0⟩
abbrev ASY_TARIFF_PENDING : Fld := ⟨.ASY_TARIFF, 13, 8⟩
abbrev ASY_TARIFF_ACTIVE : Fld := ⟨.ASY_TARIFF, 3, 0⟩
abbrev ASY_CREDIT_LO_CREDIT_LO : Fld := ⟨.ASY_CREDIT_LO, 31, 0⟩
abbrev ASY_CREDIT_HI_CREDIT_HI : Fld := ⟨.ASY_CREDIT_HI, 31, 0⟩
abbrev ASY_PREPAY_STAT_TXN : Fld := ⟨.ASY_PREPAY_STAT, 31, 31⟩
abbrev ASY_PREPAY_STAT_PREPAY : Fld := ⟨.ASY_PREPAY_STAT, 30, 30⟩
abbrev ASY_PREPAY_STAT_LOW : Fld := ⟨.ASY_PREPAY_STAT, 29, 29⟩
abbrev ASY_PREPAY_STAT_EXHAUSTED : Fld := ⟨.ASY_PREPAY_STAT, 28, 28⟩
abbrev ASY_PREPAY_STAT_FAULT : Fld := ⟨.ASY_PREPAY_STAT, 27, 27⟩
abbrev ASY_PREPAY_STAT_DISC : Fld := ⟨.ASY_PREPAY_STAT, 26, 25⟩
abbrev ASY_PT_PFS_PFS : Fld := ⟨.ASY_PT_PFS, 31, 0⟩
abbrev ASY_TREG_LO_REG_LO : Fld := ⟨.ASY_TREG_LO, 31, 0⟩
abbrev ASY_TREG_HI_REG_HI : Fld := ⟨.ASY_TREG_HI, 31, 0⟩
abbrev MRT_STAT_RUN : Fld := ⟨.MRT_STAT, 31, 31⟩
abbrev MRT_STAT_FACTORY : Fld := ⟨.MRT_STAT, 30, 30⟩
abbrev MRT_STAT_DRIVE : Fld := ⟨.MRT_STAT, 29, 29⟩
abbrev MRT_STAT_CODE : Fld := ⟨.MRT_STAT, 15, 0⟩
abbrev MRT_TABLE_CNT_COUNT : Fld := ⟨.MRT_TABLE_CNT, 7, 0⟩
abbrev MRT_OUT_REQ_REQ : Fld := ⟨.MRT_OUT_REQ, 15, 0⟩
abbrev MRT_BRK_REQ_REQ : Fld := ⟨.MRT_BRK_REQ, 3, 0⟩
abbrev MRT_UNLOCK_REQ_REQ : Fld := ⟨.MRT_UNLOCK_REQ, 31, 0⟩
abbrev MRT_CMD_BRAKE_TEST : Fld := ⟨.MRT_CMD, 3, 0⟩
abbrev MRT_SF_STAT_DEFINED : Fld := ⟨.MRT_SF_STAT, 31, 31⟩
abbrev MRT_SF_STAT_DEMAND : Fld := ⟨.MRT_SF_STAT, 30, 30⟩
abbrev MRT_SF_STAT_RESET_WAIT : Fld := ⟨.MRT_SF_STAT, 29, 29⟩
abbrev MRT_SF_STAT_SF : Fld := ⟨.MRT_SF_STAT, 28, 26⟩
abbrev MRT_SF_STAT_DEMANDS : Fld := ⟨.MRT_SF_STAT, 15, 0⟩
abbrev MRT_IN_STAT_RUN : Fld := ⟨.MRT_IN_STAT, 31, 31⟩
abbrev MRT_IN_STAT_CH_A : Fld := ⟨.MRT_IN_STAT, 30, 30⟩
abbrev MRT_IN_STAT_CH_B : Fld := ⟨.MRT_IN_STAT, 29, 29⟩
abbrev MRT_IN_STAT_FAULT : Fld := ⟨.MRT_IN_STAT, 28, 28⟩
abbrev MRT_IN_STAT_CAUSE : Fld := ⟨.MRT_IN_STAT, 27, 25⟩
abbrev MRT_IN_STAT_STARTUP_PEND : Fld := ⟨.MRT_IN_STAT, 24, 24⟩
abbrev MRT_IN_STAT_SUPPLY : Fld := ⟨.MRT_IN_STAT, 23, 20⟩
abbrev MRT_IN_STAT_COUNT : Fld := ⟨.MRT_IN_STAT, 15, 0⟩
abbrev MRT_OUT_STAT_ON : Fld := ⟨.MRT_OUT_STAT, 31, 31⟩
abbrev MRT_OUT_STAT_SW_A : Fld := ⟨.MRT_OUT_STAT, 30, 30⟩
abbrev MRT_OUT_STAT_SW_B : Fld := ⟨.MRT_OUT_STAT, 29, 29⟩
abbrev MRT_OUT_STAT_RB : Fld := ⟨.MRT_OUT_STAT, 28, 28⟩
abbrev MRT_OUT_STAT_FAULT : Fld := ⟨.MRT_OUT_STAT, 27, 27⟩
abbrev MRT_OUT_STAT_TEST : Fld := ⟨.MRT_OUT_STAT, 26, 26⟩
abbrev MRT_OUT_STAT_TEST_FAIL : Fld := ⟨.MRT_OUT_STAT, 25, 25⟩
abbrev MRT_OUT_STAT_TEST_DUE : Fld := ⟨.MRT_OUT_STAT, 24, 24⟩
abbrev MRT_OUT_STAT_STEP : Fld := ⟨.MRT_OUT_STAT, 19, 16⟩
abbrev MRT_OUT_STAT_DISCARDED : Fld := ⟨.MRT_OUT_STAT, 15, 8⟩
abbrev MRT_OUT_STAT_AGE : Fld := ⟨.MRT_OUT_STAT, 7, 0⟩
abbrev MRT_BRK_STAT_ON : Fld := ⟨.MRT_BRK_STAT, 31, 31⟩
abbrev MRT_BRK_STAT_SW_A : Fld := ⟨.MRT_BRK_STAT, 30, 30⟩
abbrev MRT_BRK_STAT_SW_B : Fld := ⟨.MRT_BRK_STAT, 29, 29⟩
abbrev MRT_BRK_STAT_RB : Fld := ⟨.MRT_BRK_STAT, 28, 28⟩
abbrev MRT_BRK_STAT_FAULT : Fld := ⟨.MRT_BRK_STAT, 27, 27⟩
abbrev MRT_BRK_STAT_TEST : Fld := ⟨.MRT_BRK_STAT, 26, 26⟩
abbrev MRT_BRK_STAT_TEST_FAIL : Fld := ⟨.MRT_BRK_STAT, 25, 25⟩
abbrev MRT_BRK_STAT_TEST_DUE : Fld := ⟨.MRT_BRK_STAT, 24, 24⟩
abbrev MRT_BRK_STAT_STEP : Fld := ⟨.MRT_BRK_STAT, 19, 16⟩
abbrev MRT_BRK_STAT_DISCARDED : Fld := ⟨.MRT_BRK_STAT, 15, 8⟩
abbrev MRT_BRK_STAT_AGE : Fld := ⟨.MRT_BRK_STAT, 7, 0⟩
abbrev MRT_CONN_STAT_VALID : Fld := ⟨.MRT_CONN_STAT, 31, 31⟩
abbrev MRT_CONN_STAT_LOST : Fld := ⟨.MRT_CONN_STAT, 30, 30⟩
abbrev MRT_CONN_STAT_CRC_FAULT : Fld := ⟨.MRT_CONN_STAT, 29, 29⟩
abbrev MRT_CONN_STAT_DIR : Fld := ⟨.MRT_CONN_STAT, 28, 28⟩
abbrev MRT_CONN_STAT_SEQ : Fld := ⟨.MRT_CONN_STAT, 15, 0⟩
abbrev MRT_CONN_ERR_CHECK : Fld := ⟨.MRT_CONN_ERR, 31, 16⟩
abbrev MRT_CONN_ERR_REPEAT : Fld := ⟨.MRT_CONN_ERR, 15, 0⟩
abbrev PEG_CTL_WDOG_EN : Fld := ⟨.PEG_CTL, 1, 1⟩
abbrev PEG_CTL_REVERT_EN : Fld := ⟨.PEG_CTL, 0, 0⟩
abbrev PEG_CMD_HANDOVER : Fld := ⟨.PEG_CMD, 1, 1⟩
abbrev PEG_CMD_KICK : Fld := ⟨.PEG_CMD, 0, 0⟩
abbrev PEG_ROLE_PREFERRED : Fld := ⟨.PEG_ROLE, 0, 0⟩
abbrev PEG_ROLE_CNT_COUNT : Fld := ⟨.PEG_ROLE_CNT, 4, 0⟩
abbrev PEG_STAT_UNIT : Fld := ⟨.PEG_STAT, 31, 31⟩
abbrev PEG_STAT_STATE : Fld := ⟨.PEG_STAT, 30, 28⟩
abbrev PEG_STAT_HOLD : Fld := ⟨.PEG_STAT, 27, 27⟩
abbrev PEG_STAT_OWN_NET : Fld := ⟨.PEG_STAT, 26, 26⟩
abbrev PEG_STAT_PART_NET : Fld := ⟨.PEG_STAT, 25, 25⟩
abbrev PEG_STAT_LINK : Fld := ⟨.PEG_STAT, 24, 24⟩
abbrev PEG_STAT_PARTNER_SYNC : Fld := ⟨.PEG_STAT, 23, 23⟩
abbrev PEG_STAT_PEER_RESET : Fld := ⟨.PEG_STAT, 22, 22⟩
abbrev PEG_STAT_ROLE_MISMATCH : Fld := ⟨.PEG_STAT, 21, 21⟩
abbrev PEG_STAT_PART_NET_STUCK : Fld := ⟨.PEG_STAT, 20, 20⟩
abbrev PEG_STAT_CODE : Fld := ⟨.PEG_STAT, 15, 0⟩
abbrev PEG_LOCK_PEAK : Fld := ⟨.PEG_LOCK, 31, 16⟩
abbrev PEG_LOCK_ERR : Fld := ⟨.PEG_LOCK, 15, 0⟩
abbrev PEG_HEAT_OFS_LO_OFS_LO : Fld := ⟨.PEG_HEAT_OFS_LO, 31, 0⟩
abbrev PEG_HEAT_OFS_HI_OFS_HI : Fld := ⟨.PEG_HEAT_OFS_HI, 9, 0⟩
abbrev PEG_MIRROR_LOAD : Fld := ⟨.PEG_MIRROR, 31, 24⟩
abbrev PEG_MIRROR_BACKLOG : Fld := ⟨.PEG_MIRROR, 23, 16⟩
abbrev PEG_MIRROR_LATE : Fld := ⟨.PEG_MIRROR, 15, 0⟩
abbrev PEG_SYNC_TIME_HEATS : Fld := ⟨.PEG_SYNC_TIME, 31, 0⟩
abbrev PEG_WDOG_HEATS : Fld := ⟨.PEG_WDOG, 15, 0⟩
abbrev PEG_EVENT_CAUSE : Fld := ⟨.PEG_EVENT, 31, 28⟩
abbrev PEG_EVENT_TOOK : Fld := ⟨.PEG_EVENT, 27, 27⟩
abbrev PEG_EVENT_STROKE : Fld := ⟨.PEG_EVENT, 6, 0⟩
abbrev PEG_PDO_EFF : Fld := ⟨.PEG_PDO, 31, 16⟩
abbrev PEG_PDO_REQ : Fld := ⟨.PEG_PDO, 15, 0⟩
abbrev NET_PTP_STAT_GM : Fld := ⟨.NET_PTP_STAT, 31, 31⟩
abbrev NET_PTP_STAT_SYNCED : Fld := ⟨.NET_PTP_STAT, 30, 30⟩
abbrev NET_PTP_STAT_OFFSET : Fld := ⟨.NET_PTP_STAT, 15, 0⟩
abbrev NET_PTP_AT_MARKER_LO_NS_LO : Fld := ⟨.NET_PTP_AT_MARKER_LO, 31, 0⟩
abbrev NET_PTP_AT_MARKER_HI_NS_HI : Fld := ⟨.NET_PTP_AT_MARKER_HI, 31, 0⟩
abbrev NET_EXI_STAT_ERRORS : Fld := ⟨.NET_EXI_STAT, 31, 16⟩
abbrev NET_EXI_STAT_JOBS : Fld := ⟨.NET_EXI_STAT, 15, 0⟩
abbrev NET_VIOL_CNT_COUNT : Fld := ⟨.NET_VIOL_CNT, 31, 0⟩
abbrev NET_PORT_STAT_LINK : Fld := ⟨.NET_PORT_STAT, 31, 31⟩
abbrev NET_PORT_STAT_SPEED : Fld := ⟨.NET_PORT_STAT, 30, 28⟩
abbrev NET_PORT_STAT_PLCA : Fld := ⟨.NET_PORT_STAT, 27, 27⟩
abbrev NET_PORT_STAT_DROPS : Fld := ⟨.NET_PORT_STAT, 15, 0⟩
abbrev NET_SESS_CFG_EN : Fld := ⟨.NET_SESS_CFG, 31, 31⟩
abbrev NET_SESS_CFG_ATTACH : Fld := ⟨.NET_SESS_CFG, 17, 0⟩
abbrev NET_SESS_STAT_ATTACHED : Fld := ⟨.NET_SESS_STAT, 31, 31⟩
abbrev NET_SESS_STAT_CLEARS : Fld := ⟨.NET_SESS_STAT, 7, 0⟩
abbrev NET_SLOT_STAT_STATE : Fld := ⟨.NET_SLOT_STAT, 31, 29⟩
abbrev NET_SLOT_STAT_DEFINED : Fld := ⟨.NET_SLOT_STAT, 28, 28⟩
abbrev NET_SLOT_STAT_KIND : Fld := ⟨.NET_SLOT_STAT, 27, 24⟩
abbrev NET_SLOT_STAT_BAD : Fld := ⟨.NET_SLOT_STAT, 23, 16⟩
abbrev NET_SLOT_STAT_AGE : Fld := ⟨.NET_SLOT_STAT, 15, 0⟩
abbrev PNT_STAT_STALE : Fld := ⟨.PNT_STAT, 31, 16⟩
abbrev PNT_STAT_WRITER_ERR : Fld := ⟨.PNT_STAT, 15, 0⟩
abbrev PNT_HOST_WR_ID_QUAL : Fld := ⟨.PNT_HOST_WR_ID, 26, 24⟩
abbrev PNT_HOST_WR_ID_POINT : Fld := ⟨.PNT_HOST_WR_ID, 17, 0⟩
abbrev PNT_HOST_WR_LO_VALUE_LO : Fld := ⟨.PNT_HOST_WR_LO, 31, 0⟩
abbrev PNT_HOST_WR_HI_VALUE_HI : Fld := ⟨.PNT_HOST_WR_HI, 31, 0⟩
abbrev PNT_RING_CFG_DEFINED : Fld := ⟨.PNT_RING_CFG, 31, 31⟩
abbrev PNT_RING_CFG_DIR : Fld := ⟨.PNT_RING_CFG, 30, 30⟩
abbrev PNT_RING_CFG_FULL : Fld := ⟨.PNT_RING_CFG, 29, 29⟩
abbrev PNT_RING_CFG_ESIZE_EXP : Fld := ⟨.PNT_RING_CFG, 28, 25⟩
abbrev PNT_RING_CFG_ENTRIES_EXP : Fld := ⟨.PNT_RING_CFG, 24, 20⟩
abbrev PNT_RING_CFG_IRQ_THR : Fld := ⟨.PNT_RING_CFG, 15, 0⟩
abbrev PNT_RING_PROD_INDEX : Fld := ⟨.PNT_RING_PROD, 16, 0⟩
abbrev PNT_RING_CONS_INDEX : Fld := ⟨.PNT_RING_CONS, 16, 0⟩
abbrev PNT_RING_STAT_IRQ : Fld := ⟨.PNT_RING_STAT, 31, 31⟩
abbrev PNT_RING_STAT_LOST : Fld := ⟨.PNT_RING_STAT, 30, 17⟩
abbrev PNT_RING_STAT_PEER_IDX : Fld := ⟨.PNT_RING_STAT, 16, 0⟩
abbrev PNT_RING_BASE_LO_BASE_LO : Fld := ⟨.PNT_RING_BASE_LO, 31, 0⟩
abbrev PNT_RING_BASE_HI_BASE_HI : Fld := ⟨.PNT_RING_BASE_HI, 31, 0⟩
abbrev CAN_STAT_BUS_OFF : Fld := ⟨.CAN_STAT, 31, 24⟩
abbrev CAN_STAT_PASSIVE : Fld := ⟨.CAN_STAT, 23, 16⟩
abbrev CAN_STAT_LISTEN : Fld := ⟨.CAN_STAT, 15, 8⟩
abbrev CAN_STAT_DISABLED : Fld := ⟨.CAN_STAT, 7, 0⟩
abbrev CAN_CFG_EN : Fld := ⟨.CAN_CFG, 31, 31⟩
abbrev CAN_CFG_FD : Fld := ⟨.CAN_CFG, 30, 30⟩
abbrev CAN_CFG_LISTEN : Fld := ⟨.CAN_CFG, 29, 29⟩
abbrev CAN_CFG_ONESHOT : Fld := ⟨.CAN_CFG, 28, 28⟩
abbrev CAN_CFG_AUTO_REC : Fld := ⟨.CAN_CFG, 27, 27⟩
abbrev CAN_CFG_PXHD : Fld := ⟨.CAN_CFG, 26, 26⟩
abbrev CAN_CFG_TT : Fld := ⟨.CAN_CFG, 25, 24⟩
abbrev CAN_CFG_TX_RING : Fld := ⟨.CAN_CFG, 23, 18⟩
abbrev CAN_CFG_TXC_RING : Fld := ⟨.CAN_CFG, 17, 12⟩
abbrev CAN_CFG_RX_RING : Fld := ⟨.CAN_CFG, 11, 6⟩
abbrev CAN_NBT_NBRP : Fld := ⟨.CAN_NBT, 31, 27⟩
abbrev CAN_NBT_NTSEG1 : Fld := ⟨.CAN_NBT, 26, 19⟩
abbrev CAN_NBT_NTSEG2 : Fld := ⟨.CAN_NBT, 18, 12⟩
abbrev CAN_NBT_NSJW : Fld := ⟨.CAN_NBT, 11, 5⟩
abbrev CAN_DBT_DBRP : Fld := ⟨.CAN_DBT, 31, 27⟩
abbrev CAN_DBT_DTSEG1 : Fld := ⟨.CAN_DBT, 26, 22⟩
abbrev CAN_DBT_DTSEG2 : Fld := ⟨.CAN_DBT, 21, 18⟩
abbrev CAN_DBT_DSJW : Fld := ⟨.CAN_DBT, 17, 14⟩
abbrev CAN_DBT_TDCO : Fld := ⟨.CAN_DBT, 13, 7⟩
abbrev CAN_DBT_TDC_EN : Fld := ⟨.CAN_DBT, 6, 6⟩
abbrev CAN_TT_CFG_XTD : Fld := ⟨.CAN_TT_CFG, 31, 31⟩
abbrev CAN_TT_CFG_REF_ID : Fld := ⟨.CAN_TT_CFG, 28, 0⟩
abbrev CAN_TT_CYC_CYCLE_STROKES : Fld := ⟨.CAN_TT_CYC, 31, 25⟩
abbrev CAN_TT_CYC_CYC_EXP : Fld := ⟨.CAN_TT_CYC, 24, 22⟩
abbrev CAN_CTL_RECOVER : Fld := ⟨.CAN_CTL, 2, 2⟩
abbrev CAN_CTL_LISTEN : Fld := ⟨.CAN_CTL, 1, 1⟩
abbrev CAN_CTL_DISABLE : Fld := ⟨.CAN_CTL, 0, 0⟩
abbrev CAN_TX_CANCEL_INDEX : Fld := ⟨.CAN_TX_CANCEL, 16, 0⟩
abbrev CAN_ERR_STATE : Fld := ⟨.CAN_ERR, 31, 30⟩
abbrev CAN_ERR_WARN : Fld := ⟨.CAN_ERR, 29, 29⟩
abbrev CAN_ERR_RECOVERING : Fld := ⟨.CAN_ERR, 28, 28⟩
abbrev CAN_ERR_LEC : Fld := ⟨.CAN_ERR, 27, 24⟩
abbrev CAN_ERR_REC : Fld := ⟨.CAN_ERR, 23, 16⟩
abbrev CAN_ERR_TEC : Fld := ⟨.CAN_ERR, 15, 8⟩
abbrev CAN_ERR_BUSOFFS : Fld := ⟨.CAN_ERR, 7, 0⟩
abbrev CAN_CNT_OBJ_LOST : Fld := ⟨.CAN_CNT, 31, 24⟩
abbrev CAN_CNT_RX_DROP : Fld := ⟨.CAN_CNT, 23, 16⟩
abbrev CAN_CNT_LATE_CANCEL : Fld := ⟨.CAN_CNT, 15, 8⟩
abbrev CAN_CNT_PXE : Fld := ⟨.CAN_CNT, 7, 0⟩
abbrev CAN_TT_STAT_SYNC : Fld := ⟨.CAN_TT_STAT, 31, 31⟩
abbrev CAN_TT_STAT_MASTER : Fld := ⟨.CAN_TT_STAT, 30, 30⟩
abbrev CAN_TT_STAT_CYCLE : Fld := ⟨.CAN_TT_STAT, 29, 24⟩
abbrev CAN_TT_STAT_MISSED : Fld := ⟨.CAN_TT_STAT, 23, 16⟩
abbrev CAN_TT_STAT_TX_FAIL : Fld := ⟨.CAN_TT_STAT, 15, 8⟩
abbrev CAN_TX_STAT_PENDING : Fld := ⟨.CAN_TX_STAT, 31, 27⟩
abbrev CAN_TX_STAT_ACTIVE : Fld := ⟨.CAN_TX_STAT, 26, 26⟩
abbrev CAN_TX_STAT_CAND : Fld := ⟨.CAN_TX_STAT, 16, 0⟩
abbrev FDL_CTL_DISABLE : Fld := ⟨.FDL_CTL, 0, 0⟩
abbrev FDL_STAT_TX : Fld := ⟨.FDL_STAT, 31, 31⟩
abbrev FDL_STAT_TX_BAND : Fld := ⟨.FDL_STAT, 30, 29⟩
abbrev FDL_STAT_HOLD : Fld := ⟨.FDL_STAT, 28, 28⟩
abbrev FDL_STAT_CODE : Fld := ⟨.FDL_STAT, 15, 0⟩
abbrev FDL_CFG_EN : Fld := ⟨.FDL_CFG, 31, 31⟩
abbrev FDL_CFG_COUPLING : Fld := ⟨.FDL_CFG, 30, 30⟩
abbrev FDL_CFG_PHASE : Fld := ⟨.FDL_CFG, 29, 28⟩
abbrev FDL_CFG_ADDR : Fld := ⟨.FDL_CFG, 27, 20⟩
abbrev FDL_CFG_TX_LEVEL : Fld := ⟨.FDL_CFG, 19, 12⟩
abbrev FDL_CFG_ERASE_THR : Fld := ⟨.FDL_CFG, 11, 8⟩
abbrev FDL_CFG_BEACON : Fld := ⟨.FDL_CFG, 7, 0⟩
abbrev FDL_BAND_CFG_EN : Fld := ⟨.FDL_BAND_CFG, 31, 31⟩
abbrev FDL_BAND_CFG_MODE_MIN : Fld := ⟨.FDL_BAND_CFG, 30, 29⟩
abbrev FDL_BAND_CFG_MODE_MAX : Fld := ⟨.FDL_BAND_CFG, 28, 27⟩
abbrev FDL_BAND_CFG_MAX_LEN : Fld := ⟨.FDL_BAND_CFG, 26, 19⟩
abbrev FDL_BAND_CFG_F0 : Fld := ⟨.FDL_BAND_CFG, 10, 0⟩
abbrev FDL_BAND_STAT_NOISE : Fld := ⟨.FDL_BAND_STAT, 31, 24⟩
abbrev FDL_BAND_STAT_FRAMES_BAD : Fld := ⟨.FDL_BAND_STAT, 23, 16⟩
abbrev FDL_BAND_STAT_FRAMES_OK : Fld := ⟨.FDL_BAND_STAT, 15, 0⟩
abbrev FDL_CURT_ACTIVE : Fld := ⟨.FDL_CURT, 31, 31⟩
abbrev FDL_CURT_SILENT : Fld := ⟨.FDL_CURT, 30, 30⟩
abbrev FDL_CURT_GROUP : Fld := ⟨.FDL_CURT, 29, 22⟩
abbrev FDL_CURT_REMAIN : Fld := ⟨.FDL_CURT, 21, 8⟩
abbrev FDL_CURT_LIMIT_LIMIT : Fld := ⟨.FDL_CURT_LIMIT, 31, 0⟩
abbrev FDL_CURT_CTR_COUNTER : Fld := ⟨.FDL_CURT_CTR, 31, 0⟩
abbrev FDL_NODE_STAT_STATE : Fld := ⟨.FDL_NODE_STAT, 31, 30⟩
abbrev FDL_NODE_STAT_TX_MODE : Fld := ⟨.FDL_NODE_STAT, 29, 28⟩
abbrev FDL_NODE_STAT_RX_MODE : Fld := ⟨.FDL_NODE_STAT, 27, 26⟩
abbrev FDL_NODE_STAT_ERASED : Fld := ⟨.FDL_NODE_STAT, 23, 16⟩
abbrev FDL_NODE_STAT_AGE : Fld := ⟨.FDL_NODE_STAT, 15, 0⟩
abbrev EMB_CTL_RESTART : Fld := ⟨.EMB_CTL, 1, 1⟩
abbrev EMB_CTL_HIBERNATE : Fld := ⟨.EMB_CTL, 0, 0⟩
abbrev EMB_STAT_STOPPED : Fld := ⟨.EMB_STAT, 31, 31⟩
abbrev EMB_STAT_VALID : Fld := ⟨.EMB_STAT, 30, 30⟩
abbrev EMB_STAT_WAKE_SRC : Fld := ⟨.EMB_STAT, 29, 27⟩
abbrev EMB_STAT_OVR_CONSEC : Fld := ⟨.EMB_STAT, 26, 24⟩
abbrev EMB_STAT_CODE : Fld := ⟨.EMB_STAT, 15, 0⟩
abbrev EMB_HEAD_DIS_HEAD : Fld := ⟨.EMB_HEAD_DIS, 31, 0⟩
abbrev EMB_HEAD_CHG_HEAD : Fld := ⟨.EMB_HEAD_CHG, 31, 0⟩
abbrev EMB_STR_STAT_EN : Fld := ⟨.EMB_STR_STAT, 31, 31⟩
abbrev EMB_STR_STAT_UNUSABLE : Fld := ⟨.EMB_STR_STAT, 30, 30⟩
abbrev EMB_STR_STAT_SUSPECT : Fld := ⟨.EMB_STR_STAT, 29, 29⟩
abbrev EMB_STR_STAT_REST : Fld := ⟨.EMB_STR_STAT, 28, 28⟩
abbrev EMB_STR_STAT_CELL_LIMIT : Fld := ⟨.EMB_STR_STAT, 27, 27⟩
abbrev EMB_STR_STAT_PEND_WR : Fld := ⟨.EMB_STR_STAT, 26, 26⟩
abbrev EMB_STR_STAT_NO_CAP : Fld := ⟨.EMB_STR_STAT, 25, 25⟩
abbrev EMB_STR_STAT_MIN_CELL : Fld := ⟨.EMB_STR_STAT, 15, 0⟩
abbrev EMB_STR_SOC_ZMIN : Fld := ⟨.EMB_STR_SOC, 31, 20⟩
abbrev EMB_STR_SOC_ZMAX : Fld := ⟨.EMB_STR_SOC, 19, 10⟩
abbrev EMB_STR_SOC_ZCNT : Fld := ⟨.EMB_STR_SOC, 9, 0⟩
abbrev EMB_STR_CAP_Q : Fld := ⟨.EMB_STR_CAP, 31, 0⟩
abbrev EMB_STR_LEARN_REJECTS : Fld := ⟨.EMB_STR_LEARN, 31, 24⟩
abbrev EMB_STR_LEARN_LEARNS : Fld := ⟨.EMB_STR_LEARN, 23, 0⟩
abbrev EMB_Q_LO_Q_LO : Fld := ⟨.EMB_Q_LO, 31, 0⟩
abbrev EMB_Q_HI_Q_HI : Fld := ⟨.EMB_Q_HI, 31, 0⟩
abbrev CFR_STAT_RUN : Fld := ⟨.CFR_STAT, 31, 31⟩
abbrev CFR_STAT_ROOT_FAIL : Fld := ⟨.CFR_STAT, 30, 30⟩
abbrev CFR_STAT_ROOT_BANK : Fld := ⟨.CFR_STAT, 29, 29⟩
abbrev CFR_STAT_PUBKEYS : Fld := ⟨.CFR_STAT, 22, 16⟩
abbrev CFR_STAT_CODE : Fld := ⟨.CFR_STAT, 15, 0⟩
abbrev CFR_LC_STATE_ERASE_PEND : Fld := ⟨.CFR_LC_STATE, 31, 31⟩
abbrev CFR_LC_STATE_STEPS : Fld := ⟨.CFR_LC_STATE, 6, 4⟩
abbrev CFR_LC_STATE_STATE : Fld := ⟨.CFR_LC_STATE, 2, 0⟩
abbrev CFR_ROT_CNT_COUNT : Fld := ⟨.CFR_ROT_CNT, 2, 0⟩
abbrev CFR_NONCE_NONCE : Fld := ⟨.CFR_NONCE, 31, 0⟩
abbrev CFR_DBG_STAT_OPEN : Fld := ⟨.CFR_DBG_STAT, 31, 31⟩
abbrev CFR_DBG_STAT_LEVEL : Fld := ⟨.CFR_DBG_STAT, 30, 29⟩
abbrev CFR_DBG_STAT_REMAIN : Fld := ⟨.CFR_DBG_STAT, 15, 0⟩
abbrev CFR_DBG_CTL_CLOSE : Fld := ⟨.CFR_DBG_CTL, 0, 0⟩
abbrev CFR_CH_ADDR_LO_ADDR_LO : Fld := ⟨.CFR_CH_ADDR_LO, 31, 0⟩
abbrev CFR_CH_ADDR_HI_ADDR_HI : Fld := ⟨.CFR_CH_ADDR_HI, 31, 0⟩
abbrev CFR_CH_LEN_LEN : Fld := ⟨.CFR_CH_LEN, 14, 0⟩
abbrev CFR_CH_CMD_GO : Fld := ⟨.CFR_CH_CMD, 0, 0⟩
abbrev CFR_CH_STAT_BUSY : Fld := ⟨.CFR_CH_STAT, 31, 31⟩
abbrev CFR_CH_STAT_OUT_LEN : Fld := ⟨.CFR_CH_STAT, 30, 16⟩
abbrev CFR_CH_STAT_CODE : Fld := ⟨.CFR_CH_STAT, 15, 0⟩
abbrev CFR_SLOT_ATTR_LO_ALG : Fld := ⟨.CFR_SLOT_ATTR_LO, 31, 28⟩
abbrev CFR_SLOT_ATTR_LO_PUB : Fld := ⟨.CFR_SLOT_ATTR_LO, 27, 27⟩
abbrev CFR_SLOT_ATTR_LO_EXPORT : Fld := ⟨.CFR_SLOT_ATTR_LO, 26, 26⟩
abbrev CFR_SLOT_ATTR_LO_ORIGIN : Fld := ⟨.CFR_SLOT_ATTR_LO, 25, 24⟩
abbrev CFR_SLOT_ATTR_LO_OWNER : Fld := ⟨.CFR_SLOT_ATTR_LO, 23, 20⟩
abbrev CFR_SLOT_ATTR_LO_LIFE : Fld := ⟨.CFR_SLOT_ATTR_LO, 19, 18⟩
abbrev CFR_SLOT_ATTR_LO_DEPTH : Fld := ⟨.CFR_SLOT_ATTR_LO, 17, 15⟩
abbrev CFR_SLOT_ATTR_LO_PARENT : Fld := ⟨.CFR_SLOT_ATTR_LO, 9, 0⟩
abbrev CFR_SLOT_ATTR_HI_USAGE : Fld := ⟨.CFR_SLOT_ATTR_HI, 16, 0⟩
abbrev CFR_SLOT_GEN_GEN : Fld := ⟨.CFR_SLOT_GEN, 31, 0⟩
abbrev CFR_SLOT_STAT_STATE : Fld := ⟨.CFR_SLOT_STAT, 31, 29⟩
abbrev CFR_SLOT_STAT_STAGED : Fld := ⟨.CFR_SLOT_STAT, 28, 28⟩
abbrev CFR_SLOT_STAT_VERIFIED : Fld := ⟨.CFR_SLOT_STAT, 27, 27⟩
abbrev CFR_SLOT_STAT_PREV : Fld := ⟨.CFR_SLOT_STAT, 26, 26⟩
abbrev CFR_SLOT_STAT_GRACE : Fld := ⟨.CFR_SLOT_STAT, 15, 0⟩
abbrev CFR_SLOT_PGEN_PGEN : Fld := ⟨.CFR_SLOT_PGEN, 31, 0⟩
abbrev SCB_CTL_CLEAR : Fld := ⟨.SCB_CTL, 0, 0⟩
abbrev SCB_CFG_BANKS : Fld := ⟨.SCB_CFG, 31, 16⟩
abbrev SCB_CFG_PERIOD : Fld := ⟨.SCB_CFG, 15, 0⟩
abbrev SCB_STAT_SKIPPED : Fld := ⟨.SCB_STAT, 31, 16⟩
abbrev SCB_STAT_SNAP : Fld := ⟨.SCB_STAT, 15, 0⟩
abbrev SCB_TAG_CFG_EN : Fld := ⟨.SCB_TAG_CFG, 31, 31⟩
abbrev SCB_TAG_CFG_SRC : Fld := ⟨.SCB_TAG_CFG, 30, 29⟩
abbrev SCB_TAG_CFG_K : Fld := ⟨.SCB_TAG_CFG, 28, 24⟩
abbrev SCB_TAG_CFG_RING : Fld := ⟨.SCB_TAG_CFG, 21, 16⟩
abbrev SCB_TAG_CFG_SEED : Fld := ⟨.SCB_TAG_CFG, 15, 0⟩
abbrev SCB_BW_LO_READ : Fld := ⟨.SCB_BW_LO, 31, 0⟩
abbrev SCB_BW_HI_WRITE : Fld := ⟨.SCB_BW_HI, 31, 0⟩
abbrev SCB_CNT_LO_CNT_LO : Fld := ⟨.SCB_CNT_LO, 31, 0⟩
abbrev SCB_CNT_HI_CNT_HI : Fld := ⟨.SCB_CNT_HI, 15, 0⟩
abbrev PWR_STAT_PFW : Fld := ⟨.PWR_STAT, 31, 31⟩
abbrev PWR_STAT_PF_ACTIVE : Fld := ⟨.PWR_STAT, 30, 30⟩
abbrev PWR_STAT_WARN : Fld := ⟨.PWR_STAT, 7, 4⟩
abbrev PWR_STAT_GOOD : Fld := ⟨.PWR_STAT, 3, 0⟩
abbrev PWR_RST_CAUSE_LAST : Fld := ⟨.PWR_RST_CAUSE, 31, 28⟩
abbrev PWR_RST_CAUSE_SEEN : Fld := ⟨.PWR_RST_CAUSE, 10, 1⟩
abbrev PWR_RST_CNT_RESETS : Fld := ⟨.PWR_RST_CNT, 31, 0⟩
abbrev PWR_CTL_HOST_DONE : Fld := ⟨.PWR_CTL, 2, 2⟩
abbrev PWR_CTL_PF_IRQ_EN : Fld := ⟨.PWR_CTL, 1, 1⟩
abbrev PWR_CTL_SW_RESET : Fld := ⟨.PWR_CTL, 0, 0⟩
abbrev PWR_PF_STAT_HOST_LATE : Fld := ⟨.PWR_PF_STAT, 31, 31⟩
abbrev PWR_PF_STAT_HOLDUP_SHORT : Fld := ⟨.PWR_PF_STAT, 30, 30⟩
abbrev PWR_PF_STAT_HOLDUP : Fld := ⟨.PWR_PF_STAT, 15, 0⟩
abbrev PWR_VMON_MIN : Fld := ⟨.PWR_VMON, 31, 16⟩
abbrev PWR_VMON_LAST : Fld := ⟨.PWR_VMON, 15, 0⟩

end F

end Sys2Proof.Machine
end

