-- ==== Sys2Proof/Machine/State.lean ====
section
/-! DEFINITION. The state of the block as plain data, everything the spec gives it, and the state right after a cold start.
A register of the register tables stands in the register file `regs`; what a chapter gives the device beside its registers
stands in one structure for each block. Each field names the rule that gives it. -/

namespace Sys2Proof.Machine

open Sys2Proof

/-- A fault a command can end in. The spec gives every command of the table an effect in every state, so a command of the
table never ends in one; it would be safe. -/
inductive Fault where
  /-- Raised by nothing: a state no command can leave. Safe. -/
  | stuck
  deriving DecidableEq, Repr

/-- Why a command is refused by the model. -/
inductive Refusal where
  /-- The command of this mnemonic has no meaning yet. Raised by exec's arm of that command. Safe. -/
  | notModelled (mnemonic : String)
  deriving DecidableEq, Repr

/-- A register of an array: its name and its index (0 for a register that stands alone). -/
abbrev RegKey := Reg × Nat

/-- A status code that the device reported, and the number of the unit it concerns (R22). -/
structure Report where
  code : Nat
  subject : Nat
  deriving DecidableEq, Repr

/-- What the fabric answered to the last access (R16, R40): nothing yet, the bytes read, a write done, or a bus error. -/
inductive Resp where
  | none
  | data (bytes : List Byte)
  | done
  | busError (code : Nat)
  deriving DecidableEq, Repr

/-! ### System island (file 01) -/

/-- A HI half held for an initiator (R33), or a LO half held by one (R34). -/
structure Held where
  who : Initiator
  reg : Reg
  idx : Nat
  val : W32
  deriving DecidableEq, Repr

/-- The three parts (R1). -/
inductive Variant where
  | gzM9600
  | gzM9480
  | gzM9300
  deriving DecidableEq, Repr

structure Sys where
  /-- The part, as the fuses say (R1, R2). Log entry 4. -/
  variant : Variant
  /-- Bytes of LPDDR5 fitted (R16). Log entry 4. -/
  lpddrSize : Nat
  /-- The stroke counter (R25); 0 at a cold start. -/
  stroke : BitVec 48
  /-- Shadows of HI halves (R33); none at reset. -/
  shadows : List Held
  /-- LO halves written and held (R34); none at reset. -/
  heldLo : List Held
  /-- Consecutive overruns of each piece of work (R32); none at reset. -/
  overruns : List (Work × Nat)
  /-- Forge, estimator and Assay work that overran since its last start (R32); none at reset. -/
  late : List Work
  /-- Quantities over their warning threshold, by island and peer (R36); none at reset. -/
  warned : List (Nat × Nat × Quantity)
  /-- Strokes in a row in which the skew of an island stood over its trip threshold (R36); 0 at reset. -/
  skewRun : Arr Nat
  /-- The largest skew of the running heat in ns (SYS_STROKE_STAT.SKEW_MAX); 0 at reset. -/
  heatSkew : Nat
  /-- Strokes since island 2 or island 3 failed, while their delayed actions run (R39); none at reset. -/
  clfFail : Option Nat
  trsFail : Option Nat
  /-- The bay references when island 3 failed (R39); none at reset. -/
  heldRefs : List (Nat × Nat)
  /-- The device runs: reset is released and its structure is loaded (R55, R447); not right after a cold start. -/
  booted : Bool
  /-- Host cores that a debug session halts (R425); none at reset. -/
  halted : List Nat
  deriving DecidableEq, Repr

/-- Sys right after a cold start. -/
def Sys.init : Sys :=
  { variant := .gzM9600, lpddrSize := 0x200000000, stroke := 0, shadows := [], heldLo := [],
    overruns := [], late := [], warned := [], skewRun := ⟨0, []⟩, heatSkew := 0, clfFail := none, trsFail := none, heldRefs := [], booted := false,
    halted := [] }

/-! ### Joinery (file 02) -/

/-- A section of an image (R42). -/
structure Section where
  typ   : Nat
  flags : Nat
  body  : List Byte
  deriving DecidableEq, Repr

/-- A Joinery image as loaded (R41, R42): its serial number, its identifier, its bytes and its sections in directory
order. Green timber has serial 0, identifier 0 and no section. -/
structure Image where
  serial   : Nat
  ident    : Nat
  bytes    : List Byte
  sections : List Section
  deriving DecidableEq, Repr

/-- A structural difference: the resource it names, which must be idle (R59) and is claimed (R60). -/
inductive Claim where
  | wholeStroke
  | bay (b : Nat)
  | crosspoint (bay out : Nat)
  | output (o : Nat)
  | session (o : Nat)
  | sequence (n : Nat)
  | points (first count : Nat)
  | ring (r : Nat)
  | port (n : Nat)
  | can (n : Nat)
  | feeder
  | batString (n : Nat)
  | safety
  deriving DecidableEq, Repr

/-- A checked image that waits for idle resources (R59). -/
structure PendingImage where
  image : Image
  /-- The structural differences, each with the directory index of its section. -/
  claims : List (Nat × Claim)
  /-- The MRT section differs in structure from the last committed safety table (R62 step 1). -/
  newTable : Bool
  /-- Heats spent in PENDING (R65). -/
  heats : Nat
  deriving DecidableEq, Repr

structure Jny where
  /-- The active structure (R55, R62); green timber before the first boot. -/
  active : Image
  /-- The structure of the safety table last committed, in Mortise's MRAM partition (R68); none before the first. -/
  lastTable : List Byte
  /-- The address and length a STAGE command gave, while its image is checked (R58). -/
  checking : Option (Nat × Nat)
  /-- The image in PENDING (R59). -/
  waiting : Option PendingImage
  /-- The resources now claimed (R60). -/
  claimed : List Claim
  /-- The claims of an abandoned image end at the next heat boundary (R65). -/
  dropClaims : Bool
  /-- The test stroke found every condition met: the image commits at the next marker (R61). -/
  scheduled : Bool
  /-- The IMAGE_ID that a standby reported as staged and checked, and the heat of the report (R64). -/
  peerStaged : Option (Nat × Nat)
  /-- JNY_STAT.STATE of the other device of the pair, as its last Joinery row stated it (R310). -/
  peerState : Nat
  deriving DecidableEq, Repr

/-- Green timber: no section, so every section reads as its green-timber content (R43, R56). -/
def Image.green : Image := { serial := 0, ident := 0, bytes := [], sections := [] }

/-- Jny right after a cold start. -/
def Jny.init : Jny :=
  { active := Image.green, lastTable := [], checking := none, waiting := none, claimed := [], dropClaims := false,
    scheduled := false, peerStaged := none, peerState := 0 }

/-! ### Acquisition (file 03) -/

/-- A run of a sequence (R78, R79). -/
structure Run where
  seq    : Nat
  /-- Stroke and instant, in 10 ns after that stroke's marker, at which it starts. -/
  stroke : Nat
  at_    : Nat
  /-- Its trigger was substituted (R77). -/
  subst  : Bool
  /-- The slot in progress, whether it was restarted (R81), and the instant of its first kept sample. -/
  slot   : Nat
  again  : Bool
  sample : Nat
  /-- Stroke and instant at which the slot in progress began (R81). -/
  began  : Nat × Nat
  deriving DecidableEq, Repr

/-- A pipeline converter (R79, R71). -/
structure Conv where
  /-- Runs that wait to start, at most 8. -/
  queue : List Run
  /-- The run that converts, and a run suspended by an urgent abort (R81). -/
  cur   : Option Run
  susp  : Option Run
  /-- A run between two slots, held back for the check of the pair (R86). -/
  wait  : Option Run
  /-- The multiplexer input of the previous conversion; none after a device reset (R71). -/
  input : Option Nat
  /-- The clock in use: 20 MSa/s when set (R72, R73). -/
  slow  : Bool
  /-- 0284h reported in this stroke (R95). -/
  overSaid : Bool
  deriving DecidableEq, Repr

/-- A sinc3 decimator (R90): three integrators, three differentiators, the last bit seen, and the count of consecutive
outputs with transitions (R93). -/
structure Sinc3 where
  i1 : Int
  i2 : Int
  i3 : Int
  d1 : Int
  d2 : Int
  d3 : Int
  bit : Bool
  moving : Nat
  /-- Clocks since the last transition (R93). -/
  still : Nat
  deriving DecidableEq, Repr

/-- The check of a converter pair (R86): its time has come, it is in progress, it restarts after an urgent request. -/
structure PairChk where
  due   : Bool
  began : Bool
  again : Bool
  deriving DecidableEq, Repr

structure Acq where
  convs : Arr Conv
  /-- Sequences that fired a PWM trigger since the marker (R76). -/
  fired : List Nat
  /-- Sequences to restart at the next marker (R85). -/
  restart : List Nat
  /-- Position of each pair in its cycle of checks, 0 to 5 (R87). -/
  turn : Arr Nat
  checks : Arr PairChk
  /-- Pairs whose fault ends at the next marker (R88). -/
  clear : List Nat
  /-- The decimators of the modulator inputs (R90). -/
  sincs : Arr Sinc3
  /-- Modulator inputs whose next output spans a gap of MOD_CLK, and those whose last output was replaced for it (R308). -/
  gap  : List Nat
  held : List Nat
  deriving DecidableEq, Repr

/-- Acq at reset. -/
def Acq.init : Acq :=
  { convs := ⟨{ queue := [], cur := none, susp := none, wait := none, input := none, slow := false, overSaid := false }, []⟩
    fired := [], restart := [], turn := ⟨0, []⟩, checks := ⟨⟨false, false, false⟩, []⟩, clear := []
    sincs := ⟨{ i1 := 0, i2 := 0, i3 := 0, d1 := 0, d2 := 0, d3 := 0, bit := false, moving := 0, still := 0 }, []⟩
    gap := [], held := [] }

/-! ### Forge (file 04) -/

/-- A phase (R96, R103). -/
structure Phase where
  /-- The gate commands PWMH_p and PWML_p (R103); low at reset. -/
  high : Bool
  low  : Bool
  /-- The phase switches: it has had a PERIOD instant since RUN rose (R104). -/
  going : Bool
  /-- The running period is skipped (R113), and its ON edge occurred (R77). -/
  skipped : Bool
  edged : Bool
  /-- The ON edge of the running period is still to come, for its ON triggers, and the stroke and instant of its PERIOD (R77). -/
  want : Bool
  perAt : Nat × Nat
  /-- Shadow code and its clamp mark, and the clamp mark of the code in use (R106). -/
  shadow : Nat
  shadowMark : Bool
  mark : Bool
  /-- The 4-bit dither accumulator (R106). -/
  dither : Nat
  /-- Shadow, clamp mark and dither before the last update, kept for an update that overruns (R107). -/
  was : Nat
  wasMark : Bool
  wasDither : Nat
  /-- Trim, its counts, offset, stretch and shed mark before the last update, for the same (R31, R107). -/
  wasTrim : Rat
  wasStale : Nat
  wasAtMax : Nat
  wasOffset : Nat
  wasStretch : Nat
  wasShed : Bool
  /-- Periods in a row that ended at the maximum on-time beside a tripping phase, and a trip seen in this on-time (R117). -/
  opens : Nat
  peer : Bool
  /-- Periods in a row that ended at the maximum on-time or at the clamp (R119). -/
  full : Nat
  /-- The phase is shed (R109). -/
  shed : Bool
  /-- Offset of the PERIOD instant in fine steps, and the stretch of the next period (R101, R102). -/
  offset : Nat
  stretch : Nat
  /-- Last converted temperature in 0.125 K and its validity; a model value written in this heat (R108). -/
  temp : Int
  tempOk : Bool
  fresh : Bool
  /-- Heats with an invalid temperature, the applied trim in 0.01 %, heats at TRIM_MAX (R108). -/
  stale : Nat
  trim : Rat
  atMax : Nat
  deriving DecidableEq, Repr

/-- What an update that overruns leaves of a bay (R31, R107): REF, the shed step, the heat of a hold, SHED, and a re-spread still to do,
as they were before it. -/
structure BayPrior where
  ref : Nat
  step : Option (Nat × Nat × Nat)
  holdFrom : Nat
  shed : Nat
  spread : Bool
  deriving DecidableEq, Repr

/-- The sinc2 filter of a fast limit detector (R114): two integrators, two differentiators, the bits since its last output, and that
output. -/
structure Sinc2 where
  i1 : Int
  i2 : Int
  d1 : Int
  d2 : Int
  n : Nat
  out : Int
  deriving DecidableEq, Repr

/-- A bay (R96, R109 to R113). -/
structure Bay where
  /-- REF of the last update (R111). -/
  ref : Nat
  /-- The shed step: victim, markers done, phases running before it (R110). -/
  step : Option (Nat × Nat × Nat)
  /-- Heat at which a hold began (R111). -/
  holdFrom : Nat
  /-- OVS_b over its threshold, markers for which it stayed, and fast limit detectors outside their limits (R113, R114). -/
  ovs : Bool
  /-- OVS_b at or above its threshold, without the hysteresis (R113). -/
  ovsNow : Bool
  ovsFor : Nat
  fast : List Nat
  /-- Truncation occurred in this heat (R113). -/
  cut : Bool
  /-- A CAUSE 5 fault ordered for the next marker (R120). -/
  ordered : Bool
  /-- A release accepted for the next marker, and phases that stay off until RUN next rises (R120). -/
  release : Bool
  blocked : Bool
  /-- The set of running phases changed: offsets are re-spread (R102). -/
  spread : Bool
  prior : BayPrior
  deriving DecidableEq, Repr

structure Frg where
  phases : Arr Phase
  bays   : Arr Bay
  /-- The filters of the fast limit detectors (R114). -/
  fld    : Arr Sinc2
  deriving DecidableEq, Repr

/-- A phase at reset: off. -/
def Phase.init : Phase :=
  { high := false, low := false, going := false, skipped := false, edged := false, want := false, perAt := (0, 0), shadow := 0, shadowMark := false,
    mark := false, dither := 0, was := 0, wasMark := false, wasDither := 0, wasTrim := 0, wasStale := 0, wasAtMax := 0,
    wasOffset := 0, wasStretch := 0, wasShed := false, opens := 0, peer := false, full := 0, shed := false, offset := 0, stretch := 0, temp := 0,
    tempOk := false, fresh := false, stale := 0, trim := 0, atMax := 0 }

/-- A bay at reset. -/
def Bay.init : Bay :=
  { ref := 0, step := none, holdFrom := 0, ovs := false, ovsNow := false, ovsFor := 0, fast := [], cut := false, ordered := false,
    release := false, blocked := false, spread := false, prior := ⟨0, none, 0, 0, false⟩ }

/-- Frg at reset. -/
def Frg.init : Frg := { phases := ⟨Phase.init, []⟩, bays := ⟨Bay.init, []⟩, fld := ⟨⟨0, 0, 0, 0, 0, 0⟩, []⟩ }

/-! ### Calfin (file 05) -/

/-- What the slots of a bundle read and write (R124). -/
structure EngRegs where
  /-- k0 to k31; k0 reads as 0. -/
  k : Arr W32
  /-- E0 to E7. -/
  ex : Arr Int
  /-- a0 and a1 with EA0 and EA1, of a block-floating program. -/
  a0 : Int
  a1 : Int
  ea0 : Int
  ea1 : Int
  /-- The accumulators of a binary32 program (R136). -/
  f0 : W32
  f1 : W32
  deriving DecidableEq, Repr

/-- One loop engine (R124). Every field is 0 or empty at reset. -/
structure Engine where
  now : EngRegs
  /-- The values at the issue of the present bundle, which its slots read (R125). -/
  seen : EngRegs
  ovf : Bool
  exp : Bool
  inv : Bool
  qf  : Bool
  /-- The 256-bit arrival mask (R129). -/
  arrival : Nat
  /-- The bundle that issues and the bundle that issues next (R124). -/
  bundle : Nat
  after : Nat
  /-- Stroke count at the start of the running instance, and RUN of the program's bay then (R139, R150). -/
  start : Nat
  runAtStart : Bool
  /-- State-window words stored and not yet committed (R128). -/
  held : List (Nat × W32)
  /-- Result registers marked for publication, with their values (R139, R152). -/
  pubs : List (Nat × W32)
  /-- The last FEC sample of each monitor (R150). -/
  fecs : List (Nat × W32)
  /-- Result registers that the completed instance published, until its bindings are applied (R147). -/
  ready : List Nat
  /-- A FAULT_BAY monitor tripped at the END of the completed instance (R150, R156). -/
  tripped : Bool
  /-- OVF and INV that a binding sets for the next instance (R145). -/
  nextOvf : Bool
  nextInv : Bool
  /-- RESTART and HALT accepted and not yet taken (R156). -/
  restart : Bool
  halt : Bool
  /-- 0482h and 0483h reported in this heat (R160). -/
  satSaid : Bool
  qualSaid : Bool
  /-- Read marks of the result registers (R153). -/
  marks : List (Initiator × Nat)
  /-- Words of the mirror buffer of a standby (R128). -/
  mirror : List (Nat × W32)
  deriving DecidableEq, Repr

/-- Registers of an engine, all zero. -/
def EngRegs.zero : EngRegs :=
  { k := ⟨0, []⟩, ex := ⟨0, []⟩, a0 := 0, a1 := 0, ea0 := 0, ea1 := 0, f0 := 0, f1 := 0 }

/-- An engine at reset. -/
def Engine.init : Engine :=
  { now := EngRegs.zero, seen := EngRegs.zero, ovf := false, exp := false, inv := false, qf := false, arrival := 0,
    bundle := 0, after := 0, start := 0, runAtStart := false, held := [], pubs := [], fecs := [], ready := [],
    tripped := false, nextOvf := false, nextInv := false, restart := false, halt := false, satSaid := false,
    qualSaid := false, marks := [], mirror := [] }

/-! ### Truss (file 06) -/

/-- A crosspoint beside its register: the command last issued, the heat until which it is unusable (R171). -/
structure Xp where
  closed : Bool
  until_ : Nat
  deriving DecidableEq, Repr

/-- An input of R162: its last good value in 10 W, the stroke since which it is not good, and its substitute in force. -/
structure GoodValue where
  last : Option Nat
  since : Option Nat
  gone : Bool
  deriving DecidableEq, Repr

/-- An order for a lent bay (R182): the device that sent it, its heat, the bay's lender and number, the mode and the
set-points in 0.1 A and 0.1 V. -/
structure Order where
  by_    : Nat
  heat   : Nat
  lender : Nat
  bay    : Nat
  mode   : Nat
  isp    : Nat
  vsp    : Nat
  deriving DecidableEq, Repr

/-- A valid exchange record (R182). -/
structure PeerRecord where
  dev    : Nat
  heat   : Nat
  flags  : Nat
  demand : List Nat
  used   : Nat
  dis    : Nat
  aux    : Nat
  orders : List Order
  deriving DecidableEq, Repr

/-- What Truss reads at a stroke to detect the events of R175 as changes: the faulted bays, AVAIL by bay, the present cable limit by output, the
outputs whose credit is exhausted, the claims, and P_GRID_LIM. -/
structure TrussSeen where
  fault  : List Nat
  avail  : List Nat
  cable  : List Nat
  spent  : List Nat
  claims : List Claim
  limit  : Nat
  deriving DecidableEq, Repr

structure Trs where
  /-- The entry in force and the held entries, the nearest first (R174). -/
  committed : Entry
  window : List Entry
  /-- The heat of the entry that the rebuild builds next (R176). -/
  rebuild : Option Nat
  /-- The inputs as the last stroke read them (R175), and the heat of the last rollback (R176). -/
  seen : TrussSeen
  rolled : Option Nat
  /-- The heat and import from which a curtailment is met (R181). -/
  grace : Option (Nat × Nat)
  /-- SITE_BUDGET, CURTAIL and AUX_LOAD (R162). -/
  budget  : GoodValue
  curtail : GoodValue
  aux     : GoodValue
  xps : Arr Xp
  /-- Commands that were withheld or ordered and are due at the next commit (R170 to R173). -/
  due : List (Nat × Bool)
  /-- Strokes in a row in which a bay matched its output within 10 V, and carried at most 5.0 A (R171, R172). -/
  match_ : Arr Nat
  low    : Arr Nat
  /-- Bays that an output releases (R165). -/
  leaving : List Nat
  /-- The heat in which SAFE_HOLD began (R180). -/
  holdFrom : Nat
  /-- Valid records, own and received, of the last heats (R183). -/
  records : List PeerRecord
  /-- Consecutive heats with a current agreed heat (R184). -/
  current : Nat
  /-- Bays lent to a peer and the order last applied (R185). -/
  loans : List Order
  /-- Takeover: STANDBY_TOOK_OVER is set in the next exchange record (R182). -/
  tookOver : Bool
  /-- An entry has been committed since the structure went live. -/
  started : Bool
  deriving DecidableEq, Repr

/-- An empty entry. -/
def Entry.empty (h : Nat) : Entry :=
  { heat := h, outs := ⟨⟨0, 0, 0, 0, 0, 0, 0, 0, 0⟩, []⟩, bays := ⟨⟨0, none, 0, 0, 0, 0, 0, 0⟩, []⟩, bat := 0, imp := 0, cmds := []
    built := h }

/-- Trs at reset. -/
def Trs.init : Trs :=
  { committed := Entry.empty 0, window := [], rebuild := none, seen := ⟨[], [], [], [], [], 0⟩, rolled := none, grace := none,
    budget := ⟨none, none, false⟩, curtail := ⟨none, none, false⟩, aux := ⟨none, none, false⟩, xps := ⟨⟨false, 0⟩, []⟩,
    due := [], match_ := ⟨0, []⟩, low := ⟨0, []⟩, leaving := [], holdFrom := 0, records := [], current := 0, loans := [],
    tookOver := false, started := false }

/-! ### Bellows (file 07) -/

/-- A cable (R189 to R195). Temperatures in °C, flow in L/min, T_c a value of binary32. -/
structure Cable where
  tc : Rat
  /-- The latest samples of inlet, outlet, flow and cable sensor (R190). -/
  tin  : Option Rat
  tout : Option Rat
  flow : Option Rat
  tcbl : Option Rat
  /-- Plausible samples in a row while a sensor is broken (R191). -/
  good : Nat
  /-- Sum and number of the current readings of the heat in A, and a reading substituted (R190, R191). -/
  isum : Rat
  icnt : Nat
  subst : Bool
  /-- Sums over the heat-balance window: dissipation, heat carried, heats (R193). -/
  diss  : Rat
  carry : Rat
  heats : Nat
  /-- Windows in a row out of tolerance, and within it. -/
  bad : Nat
  ok  : Nat
  /-- Stroke since which both fast-rate conditions are absent (R190). -/
  calm : Option Nat
  /-- The mean current of the ended heat while its model step is still to come, and T_c with the sums of the window as they stood before the step of
  this heat (R199, R31). -/
  mean  : Option Rat
  prior : Option (Rat × Rat × Rat × Nat)
  /-- 0683h was reported for the present lack of flow. -/
  lowSaid : Bool
  deriving DecidableEq, Repr

/-- Bellows beside its registers. -/
structure Blw where
  cables : Arr Cable
  /-- The cable work of the running heat is in progress: its limits and set-points are published at the next heat marker (R188). -/
  busy : Bool
  /-- Cooling set-points computed in the running heat: loop, pump and fan in % (R198). -/
  cool : List (Nat × Rat × Rat)
  /-- The heat in which the overrun limit was reached; a restart is accepted (R200). -/
  stopping : Option Nat
  restart : Bool
  /-- The integrator of each cooling loop's fan, in % (R198). -/
  fans : Arr Rat
  /-- Consecutive samples of each die sensor off its die's mean, and of each at T_CRIT (R202, R205). -/
  off : Arr Nat
  critSeen : Arr Nat
  /-- The hottest reading of the last sample as the thresholds see it, in 0.25 K (R202). -/
  worst : Int
  /-- Stroke since which the hottest reading is below T_THROT, below T_THROT − 5 K and below T_THROT − 12 K, and at or above
  T_THROT (R201, R203, R205). -/
  belowThrot : Option Nat
  below5 : Option Nat
  below12 : Option Nat
  atThrot : Option Nat
  /-- Cable limits ramped down for want of a partner: output and cap in 0.1 A (R205). -/
  ramp : Option (List (Nat × Nat))
  deriving DecidableEq, Repr

/-- A cable at reset. -/
def Cable.init : Cable :=
  { tc := 0, tin := none, tout := none, flow := none, tcbl := none, good := 0, isum := 0, icnt := 0, subst := false, diss := 0,
    carry := 0, heats := 0, bad := 0, ok := 0, calm := none, mean := none, prior := none, lowSaid := false }

/-- Blw at reset. -/
def Blw.init : Blw :=
  { cables := ⟨Cable.init, []⟩, busy := false, cool := [], stopping := none, restart := false, fans := ⟨0, []⟩, off := ⟨0, []⟩, critSeen := ⟨0, []⟩, worst := 0,
    belowThrot := none, below5 := none, below12 := none, atThrot := none, ramp := none }

/-! ### Assay and Hallmark (files 08 and 09). Instants are in half microseconds of the legal counter, energies in µWh. -/

/-- A metering point beside its registers (R215 to R223). -/
structure Meter where
  /-- Current and voltage of the last sample. -/
  i : Rat
  u : Rat
  /-- Consecutive samples at a range end of the two inputs, and good samples of both in METER_FAULT (R223). -/
  endI : Nat
  endU : Nat
  good : Nat
  /-- Sums of power, current and voltage over the running second, their number, and the means of the last one (R222, R231). -/
  pSum : Rat
  iSum : Rat
  uSum : Rat
  num  : Nat
  mean : Rat
  /-- Sums of the non-legal current and voltage of the running second and their number (R222). -/
  plI  : Rat
  plU  : Rat
  plN  : Nat
  own  : Option (Rat × Rat)
  other : Option (Rat × Rat)
  /-- Seconds in a row out of tolerance, and within it (R222). -/
  bad : Nat
  ok  : Nat
  /-- Instant of the last 0B86h (R220). -/
  overAt : Option Nat
  /-- Start of an open energy gap (R221, R223), and a gap fell during the running interval (R245). -/
  gap : Option Nat
  gapped : Bool
  deriving DecidableEq, Repr

/-- A completed AC cycle that waits for its booking (R218): its start and end, the energies of A and B, whether each is below START and
had a sample of a booked channel at a range end, the source, and the tariff register. -/
structure AcCycle where
  start : Nat
  end_  : Nat
  eA : Rat
  eB : Rat
  lowA : Bool
  lowB : Bool
  ovrA : Bool
  ovrB : Bool
  useB : Bool
  tariff : Nat
  deriving DecidableEq, Repr

/-- A power-quality event in progress (R227, R228). -/
structure PqEvent where
  start : Nat
  halves : Nat
  phases : Nat
  extreme : Rat
  ref : Nat
  moved : Bool
  deriving DecidableEq, Repr

/-- An AC point (R216, R221, R227). -/
structure AcPoint where
  /-- The last 16 samples of the reference phase, newest first, and the last moving mean. -/
  recent : List Rat
  avg : Option Rat
  /-- Samples of the running cycle, its start, and the progress of a nominal cycle. -/
  len : Nat
  start : Nat
  turn : Nat
  /-- Energies of the running cycle by A and B, squares by channel in units and in codes, and a sample of a
  booked channel at a range end, by A and by B (R220). -/
  eA : Rat
  eB : Rat
  sqA : List Rat
  sqB : List Rat
  cdA : List Int
  cdB : List Int
  ovrA : Bool
  ovrB : Bool
  /-- Squares of the running and the previous half-cycle by phase, with their samples; U_rms(1/2) squared. -/
  half : List Rat
  halfN : Nat
  prev : List Rat
  prevN : Nat
  urms : List Rat
  waiting : List AcCycle
  sag : Option PqEvent
  swell : Option PqEvent
  int : Option PqEvent
  deriving DecidableEq, Repr

/-- The cross-check of the converters (R221): place of C in its rotation, the disputed channel with the start of its cycle and
whether the next cycle of its point has begun, sums of C, and cycles in a row that agree under CHECK_FAULT. -/
structure Cross where
  turn : Nat
  dispute : Option (Nat × Nat)
  sum : Int
  sq  : Int
  num : Nat
  agree : Nat
  deriving DecidableEq, Repr

/-- A test pulse output (R226). -/
structure Tpo where
  acc  : Rat
  high : Bool
  /-- Start and fall of the last pulse. -/
  start : Option Nat
  fall  : Nat
  deriving DecidableEq, Repr

/-- The disconnect contactor of an output (R241, R254): its CONFIG record, when its opening was asked for, when it was last
commanded, consecutive samples at 5.0 A or less, credit exhaustion reported in the running transaction (R253), and a feedback of no good
quality judged. -/
structure Disc where
  cmdPt : Option Nat
  fbPt  : Option Nat
  low   : Nat
  wait  : Nat
  tDisc : Nat
  asked : Option Nat
  cmdAt : Nat
  still : Nat
  spent : Bool
  blind : Bool
  deriving DecidableEq, Repr

/-- An open transaction (R241, R253). -/
structure Txn where
  number : Nat
  prepay : Bool
  idTag  : List Byte
  imp    : Nat
  exp_   : Nat
  bound  : Nat
  deriving DecidableEq, Repr

/-- A Hallmark record (R235 to R239): header and body, its trailer (empty before it is signed), whether it stands in a reserved
slot, its state (0 unsigned, 1 signed, 2 in the ring, 3 discarded by the ring), and the ID_TAG of its transaction (R240). -/
structure HmkRec where
  rseq : Nat
  bytes : List Byte
  trailer : List Byte
  reserved : Bool
  stage : Nat
  idTag : List Byte
  deriving DecidableEq, Repr

/-- A point at a boundary (R236, R245): tariff before and after, the accumulators at the start of the interval and at the
boundary, the old tariff register, and its flags. -/
structure HeldPt where
  pt : Nat
  old : Nat
  new : Nat
  from_ : Rat × Rat
  imp : Rat
  exp_ : Rat
  net : Rat
  reg : Rat × Rat
  flags : Nat
  deriving DecidableEq, Repr

/-- A pending tariff switch (R244). -/
structure Switch where
  at_ : Nat
  mask : Nat
  tariff : Nat
  deriving DecidableEq, Repr

/-- The interval state before a boundary: start of the running interval, intervals not written, an ordered grid, LEN and ANCHOR. -/
structure Grid where
  from_ : Nat
  merged : Option Nat
  newGrid : Option (Nat × Nat)
  len : Nat
  anchor : Nat
  deriving DecidableEq, Repr

/-- A boundary or a switch that was taken and whose record is not yet written (R252): its instant in µs, the start of the
interval that closes, whether a switch was due, header flags, the points, the switches taken, and the interval state before it. -/
structure Held_ where
  at_ : Nat
  closes : Option Nat
  switches : Bool
  flags : Nat
  pts : List HeldPt
  taken : List Switch
  was : Grid
  deriving DecidableEq, Repr

structure Asy where
  /-- The instant of the next sample on the legal counter (R224). -/
  now : Nat
  /-- Metered time runs (R248); the instant at which it ended. -/
  metered : Bool
  endAt : Nat
  /-- The 32-bit residues of the accumulators, tariff registers and credits, in 2^-32 µWh, by number (R218, R243). -/
  frac : Arr Nat
  /-- PREV tariff numbers (R450). -/
  prevT : Arr Nat
  meters : Arr Meter
  ac : Arr AcPoint
  /-- Rogowski integrators and delayed samples, by converter and channel (R214). -/
  integ : Arr (Rat × Rat)
  last : Arr Rat
  cross : Cross
  tpos : Arr Tpo
  /-- Start of the running interval in µs, the accumulators then, intervals not written (R239), a grid ordered (R245). -/
  from_ : Nat
  fromAcc : Arr (Rat × Rat)
  merged : Option Nat
  newGrid : Option (Nat × Nat)
  switches : List Switch
  held : List Held_
  /-- RWS writes accepted, with the second at which each takes effect (R229). -/
  rws : List (Nat × RegKey × W32)
  /-- The last WALL_SET: value, instant in µs, SYNC (R246). -/
  wall : Option (Nat × Nat × Bool)
  disc : Arr Disc
  txns : Arr (Option Txn)
  /-- The Hallmark log, records that wait for a slot, the hash of the last signed record, the ring of CONFIG (R238, R239). -/
  log : List HmkRec
  queue : List HmkRec
  lastHash : List Byte
  ring : Option Nat
  /-- The legal event log, the newest last, and the OCMF strings made (R228, R240). -/
  events : List (List Byte)
  ocmf : List (List Byte)
  /-- The mailbox frame in progress and the last accepted SEQ (R210). -/
  frame : List Byte
  seq : Nat
  /-- The legal firmware in force, the staged legal image, staged and installed non-legal images (R210, R256). -/
  firm : List Byte
  legal : Option (List Byte)
  staged : Option (List Byte)
  nonlegal : List Byte
  /-- SEQ of the next energy save slot, and the LMC multiple last saved (R450). -/
  saveSeq : Nat
  savedAt : Nat
  /-- The drift window (R225): its start on the counter, stroke count and stroke period then; the stroke count at the last sample; the
  period changed in the window; strokes of a finished window that is not yet judged; windows in a row within 400 ppm. -/
  driftAt : Nat
  driftStroke : Nat
  driftPeriod : Nat
  driftSeen : Nat
  driftMixed : Bool
  driftDone : Option Nat
  driftOk : Nat
  /-- The heat task reached its overrun limit (R231). -/
  stopped : Bool
  /-- The last reset of the island had no power failure before it (R251). -/
  restart : Bool
  deriving DecidableEq, Repr

/-- A metering point at reset. -/
def Meter.init : Meter :=
  { i := 0, u := 0, endI := 0, endU := 0, good := 0, pSum := 0, iSum := 0, uSum := 0, num := 0, mean := 0, plI := 0, plU := 0,
    plN := 0, own := none, other := none, bad := 0, ok := 0, overAt := none, gap := none, gapped := false }

/-- An AC point at reset. -/
def AcPoint.init : AcPoint :=
  { recent := [], avg := none, len := 0, start := 0, turn := 0, eA := 0, eB := 0, sqA := List.replicate 8 0,
    sqB := List.replicate 8 0, cdA := List.replicate 8 0, cdB := List.replicate 8 0, ovrA := false, ovrB := false, half := [0, 0, 0], halfN := 0,
    prev := [0, 0, 0], prevN := 0, urms := [0, 0, 0], waiting := [], sag := none, swell := none, int := none }

/-- Asy right after a cold start. -/
def Asy.init : Asy :=
  { now := 0, metered := false, endAt := 0, frac := ⟨0, []⟩, prevT := ⟨0, []⟩, meters := ⟨Meter.init, []⟩,
    ac := ⟨AcPoint.init, []⟩, integ := ⟨(0, 0), []⟩, last := ⟨0, []⟩, cross := ⟨0, none, 0, 0, 0, 0⟩,
    tpos := ⟨⟨0, false, none, 0⟩, []⟩, from_ := 0, fromAcc := ⟨(0, 0), []⟩, merged := none, newGrid := none, switches := [],
    held := [], rws := [], wall := none, disc := ⟨⟨none, none, 0, 0, 0, none, 0, 0, false, false⟩, []⟩, txns := ⟨none, []⟩, log := [],
    queue := [], lastHash := List.replicate 32 0, ring := none, events := [], ocmf := [], frame := [], seq := 0, firm := [], legal := none,
    staged := none, nonlegal := [], saveSeq := 0, savedAt := 0, driftAt := 0, driftStroke := 0, driftPeriod := 0, driftSeen := 0, driftMixed := false, driftDone := none, driftOk := 0,
    stopped := false, restart := false }

/-! ### Mortise (file 10) -/

/-- A safe input beside its register (R267 to R271): the stroke of the last change of each filtered channel, since when the
channels disagree, the pulses without a fault on each channel's supply, the resets seen since the cause went, and the start-up
test's demand seen. -/
structure SafeIn where
  sinceA : Nat
  sinceB : Nat
  differ : Option Nat
  fineA  : Nat
  fineB  : Nat
  resets : List Nat
  opened : Bool
  /-- Levels of a counter input (R271). -/
  a : Bool
  b : Bool
  deriving DecidableEq, Repr

/-- A safety function (R262, R263): its state as pair P0 and as pair P1 evaluated it (0 RUN, 1 DEMAND, 2 RESET_WAIT), its state as each
pair applies it, a reset given to each, an SF6 that waits to cool, and since when an SF3 shows below 60 V. -/
structure SafeFn where
  st      : Nat
  st1     : Nat
  on0     : Nat
  on1     : Nat
  pressed : Bool
  pressed1 : Bool
  hot     : Bool
  below   : Option Nat
  deriving DecidableEq, Repr

/-- A safe output (0 to 15) or brake (16 to 19) beside its register (R272 to R275): the step of the check before energising, the
switch of the next dark test (B when set), and since when it is off with its readback off. -/
structure SafeChan where
  step : Nat
  nextB : Bool
  offAt : Option Nat
  deriving DecidableEq, Repr

/-- A brake beside its register (R276, R277): a valid test, an ACD cycle runs, the stroke of the last pass, of an expiry within the
cycle, a refusal reported, the counts of the running test, and the stroke from which its step's time counts. -/
structure Brake where
  valid : Bool
  acd : Bool
  passAt : Option Nat
  expired : Option Nat
  said : Bool
  base : Nat
  began : Option Nat
  deriving DecidableEq, Repr

/-- A Tenon connection (R281 to R283): the session's NONCE_D bytes, a consumer's data, bound, frames since the bind, cycles since
the last accepted frame, cycles of the last check failures, the stroke of CRC_FAULT; a producer's next SEQ, and its BIND due. -/
structure Conn where
  nonce : Option (List Byte)
  data  : List Byte
  bound : Bool
  good  : Nat
  idle  : Nat
  fails : List Nat
  crcAt : Option Nat
  next  : Nat
  bind  : Bool
  deriving DecidableEq, Repr

structure Mrt where
  /-- Safety cycles since Mortise started (R259). -/
  cycle : Nat
  ins   : Arr SafeIn
  fns   : Arr SafeFn
  chans : Arr SafeChan
  brakes : Arr Brake
  conns : Arr Conn
  /-- Since when each reset source is pressed: inputs 0 to 31, 64 + connection (R263). -/
  press : Arr (Option Nat)
  /-- The function states that the last cycle evaluated and the next applies: function, P0, P1 (R258, R259). -/
  eval  : List (Nat × Nat × Nat)
  /-- The supply that was pulsed last and the stroke of its pulse (R268). -/
  pulse : Option (Nat × Nat)
  /-- The supply whose pulse comes next in the frame (R268). -/
  slot  : Nat
  /-- Cycles in a row in which the pairs disagreed (R260). -/
  apart : Nat
  deriving DecidableEq, Repr

/-- A safety function at reset: in demand. -/
def SafeFn.init : SafeFn := ⟨1, 1, 1, 1, false, false, false, none⟩

/-- Mrt at reset. -/
def Mrt.init : Mrt :=
  { cycle := 0, ins := ⟨⟨0, 0, none, 0, 0, [], false, false, false⟩, []⟩, fns := ⟨SafeFn.init, []⟩,
    chans := ⟨⟨0, false, none⟩, []⟩, brakes := ⟨⟨false, false, none, none, false, 0, none⟩, []⟩,
    conns := ⟨⟨none, [], false, 0, 0, [], none, 1, false⟩, []⟩, press := ⟨none, []⟩, eval := [], pulse := none, slot := 0, apart := 0 }

/-! ### Pair (file 11) -/

structure Peg where
  /-- The device drives its own net low (R294). -/
  driven : Bool
  /-- The device released the peg: no claim until SYNC or a reset (R296). -/
  released : Bool
  /-- Keepers on the balls of R293 (R305). -/
  keepers : Bool
  /-- Heats since the last KICK (R296). -/
  kick : Nat
  /-- PDO words decided and the stroke at which each becomes effective, oldest first (R309). -/
  pdo : List (Nat × Nat)
  /-- A bind was refused and waits for its retry; a mismatch of PREFERRED was reported (R290, R299). -/
  refused : Bool
  roleSaid : Bool
  /-- PREFERRED as it stood at the last bind (R290). -/
  pref : Bool
  /-- ALIGN: the stretched marker was issued; strokes in a row within 5 ns, and outside (R300, R304). -/
  aligned : Bool
  lockGood : Nat
  lockBad : Nat
  /-- Strokes in a row with mirror frames in time, without any, and with a late one (R301, R303, R304). -/
  frames : Nat
  missing : Nat
  lateRun : Nat
  /-- A valid frame and a late one since the last marker; 0D85h reported in this heat (R303). -/
  got : Bool
  late : Bool
  lateSaid : Bool
  /-- The UNIT_SEL strap sampled at the cold start: unit B (R289). -/
  unit : Bool
  /-- The measured marker latency in 78 ps (R299). -/
  latency : Nat
  /-- The holder's result registers for the bindings of the next marker, and its Forge state for the next marker (R302). -/
  results : List (Nat × Nat × W32)
  forge : Option ForgeMirror
  /-- IMAGE_ID of the partner, and safety cycles in a row with another channel command (R301, R304). -/
  partImage : Nat
  mismatch : Nat
  /-- A handover (4) or return (5) is due at the marker that the holder chooses (R310, R311). -/
  due : Option Nat
  deriving DecidableEq, Repr

/-- Peg at reset. -/
def Peg.init : Peg :=
  { driven := false, released := false, keepers := false, kick := 0, pdo := [], refused := false, roleSaid := false, pref := false,
    aligned := false, lockGood := 0, lockBad := 0, frames := 0, missing := 0, lateRun := 0, got := false, late := false,
    lateSaid := false, unit := false, latency := 0,
    results := [], forge := none, partImage := 0, mismatch := 0, due := none }

/-! ### Points, rings and the site network (file 12) -/

/-- A point's stored fields (R318); its TYPE, writer and AGE_LIMIT are its schema's. -/
structure Point where
  value : W64
  qual  : Nat
  seq   : Nat
  cls   : Nat
  ident : Nat
  time  : Nat
  ofs   : Nat
  deriving DecidableEq, Repr

structure Pnt where
  /-- The point table (R318); a point not written is 0 with QUAL = NOT_SET. -/
  table : Arr Point
  /-- Part of the table that the next heat sweeps, 0 to 9 (R322). -/
  sweep : Nat
  /-- 0801h was reported in this heat (R321). -/
  writerSaid : Bool
  /-- Rings for which 0882h was reported in this heat (R326). -/
  lostSaid : List Nat
  /-- Consumer index of the delivery half of ring 62 (R327). -/
  peerCons : Nat
  deriving DecidableEq, Repr

/-- A partner slot that roll call filled (R331). The slot's STATE stands in NET_SLOT_STAT. -/
structure Slot where
  sender  : Nat
  /-- The address the partner last used (R341). -/
  addr    : Nat
  nonceD  : List Byte
  nonceP  : List Byte
  /-- The session key derived at ACCEPT; the key of the running session. -/
  key     : List Byte
  /-- GEN of the slot of the site key when the session key was derived (R417). -/
  gen     : Nat
  /-- The least COUNTER of the partner that is still accepted in the session (R329). -/
  inCtr   : Nat
  /-- Strokes of the last CHALLENGE and of the last authenticated PX (R331, R334). -/
  asked   : Nat
  last    : Nat
  /-- A rebind is under way: CHALLENGE sent to a BOUND slot (R331). -/
  rebind  : Bool
  /-- PX frames of this heat (R341) and heats of the last tag failures. -/
  frames  : Nat
  badAt   : List Nat
  deriving DecidableEq, Repr

/-- A SENDER whose announcements are ignored (R341): until which stroke, and the last waiting time in seconds. -/
structure Ignored where
  sender : Nat
  until_ : Nat
  wait   : Nat
  deriving DecidableEq, Repr

/-- A violation seen in the running second (R342). -/
structure Violated where
  sender : Nat
  group  : Nat
  code   : Nat
  /-- Stroke of the record written, and occurrences since. -/
  at_    : Nat
  more   : Nat
  deriving DecidableEq, Repr

/-- A job of the EXI engines (R338). -/
structure ExiJob where
  op      : Nat
  grammar : Nat
  tag     : Nat
  src     : Nat
  srcLen  : Nat
  outMax  : Nat
  out     : Nat
  deriving DecidableEq, Repr

structure Net where
  slots    : Arr Slot
  ignored  : List Ignored
  violated : List Violated
  /-- EXI jobs taken, oldest first (R338). -/
  jobs     : List ExiJob
  /-- Stroke at which each port's gate control cycle last started (R317). -/
  gateFrom : Arr Nat
  /-- The COUNTER of the last message the station sent (R329). -/
  counter  : Nat
  /-- Consecutive strokes for which an output's attach point failed (R340). -/
  attach   : Arr Nat
  /-- The stroke of the station's last ANNOUNCE (R335). -/
  announced : Option Nat
  deriving DecidableEq, Repr

/-- Ways by which the device sends something. -/
inductive Channel where
  | rollCall
  | neighbour
  | arp
  | truss
  | tenon
  | can
  | feeder
  | solley
  | jtag
  deriving DecidableEq, Repr

/-- Something the device sent: by which way, to whom, and its bytes. -/
structure Sent where
  via   : Channel
  dest  : Nat
  bytes : List Byte
  deriving DecidableEq, Repr

/-- Pnt at reset. -/
def Pnt.init : Pnt :=
  { table := ⟨⟨0, 5, 0, 0, 0, 0, 0⟩, []⟩, sweep := 0, writerSaid := false, lostSaid := [], peerCons := 0 }

/-- A slot with no partner. -/
def Slot.free : Slot :=
  { sender := 0, addr := 0, nonceD := [], nonceP := [], key := [], gen := 0, inCtr := 0, asked := 0, last := 0, rebind := false, frames := 0,
    badAt := [] }

/-- Net at reset. -/
def Net.init : Net :=
  { slots := ⟨Slot.free, []⟩, ignored := [], violated := [], jobs := [], gateFrom := ⟨0, []⟩, counter := 0,
    attach := ⟨0, []⟩, announced := none }

/-! ### CAN (file 13) -/

/-- What a controller attempts: an entry by its ring index and whether a trigger started it, the frame of a producing Tenon
connection, or the reference message with its cycle count (R353, R359, R360). -/
inductive CanSrc where
  | entry (index : Nat) (excl : Bool)
  | tenon (conn : Nat) (data : List Byte)
  | ref (count : Nat)
  deriving DecidableEq, Repr

/-- A message object (R348). -/
structure CanObj where
  idw   : Nat
  esi   : Bool
  new   : Bool
  lost  : Bool
  count : Nat
  time  : Nat
  ofs   : Nat
  data  : List Byte
  deriving DecidableEq, Repr

/-- Failed attempts of an entry that is still to be sent, and the end of the last one (R354, R355). -/
structure CanTry where
  index : Nat
  fails : Nat
  at_   : Nat
  ofs   : Nat
  deriving DecidableEq, Repr

/-- A controller beside its registers. -/
structure CanCtl where
  /-- The attempt in progress (R353). -/
  attempt : Option CanSrc
  /-- Entries to be retransmitted; completed entries that CONS has not passed; entries cancelled during their attempt
  (R354 to R356). -/
  retries : List CanTry
  done    : List Nat
  cancel  : List Nat
  /-- The Tenon buffers, and how many frames were replaced unsent (R360). -/
  buffers  : List (Nat × List Byte)
  replaced : Nat
  /-- A due reference message (R359). -/
  ref : Option Nat
  /-- Stroke of the last valid reference message. -/
  refAt : Nat
  /-- An arbitrating window is open; reception checks whose object stored a frame since they last acted. -/
  window : Bool
  seen : List Nat
  /-- 0984h reported in this heat (R348). -/
  lostSaid : Bool
  deriving DecidableEq, Repr

structure Can where
  ctls : Arr CanCtl
  /-- Object j of controller n at number 256 n + j. -/
  objs : Arr CanObj
  /-- Shadows of objects by initiator (R349). -/
  shadows : List (Initiator × Nat × List Byte)
  deriving DecidableEq, Repr

/-- Can at reset. -/
def Can.init : Can :=
  { ctls := ⟨⟨none, [], [], [], [], 0, none, 0, false, [], false⟩, []⟩, objs := ⟨⟨0, false, false, false, 0, 0, 0, []⟩, []⟩, shadows := [] }

/-! ### Feeder link (file 14) -/

/-- A frame that waits for its band (R375): TYPE, DST, its Tenon connection, its Tenon payload or the POINTS entries, and the stroke
since which it waits. -/
structure FdlFrame where
  typ   : Nat
  dst   : Nat
  conn  : Nat
  data  : List Byte
  since : Nat
  deriving DecidableEq, Repr

/-- A site node beside its register (R373, R377, R378): the last accepted COUNTER, strokes of the last accepted frame and of the last
frame sent, frames in a row with less than 5 % erased, and the entries last sent. -/
structure FdlNode where
  inCtr : Option Nat
  last  : Nat
  sent  : Nat
  clean : Nat
  shown : List Byte
  deriving DecidableEq, Repr

structure Fdl where
  queues : Arr (List FdlFrame)
  /-- The band and the frame on air, and the stroke in which FDL_TXEN_N may rise (R374, R376); the stroke in which the last frame of each band
  ended. -/
  air : Option (Nat × FdlFrame)
  airEnd : Nat
  ended : Arr (Option Nat)
  /-- Tenon frames replaced while queued (R375). -/
  replaced : Nat
  nodes : Arr FdlNode
  /-- The COUNTER last sent, and the value saved in MRAM (R377). -/
  counter : Nat
  saved   : Nat
  /-- Heats that the limit still lasts (none: until a release), the value saved in MRAM, and the heat of the last command (R380). -/
  left    : Option Nat
  leftSaved : Option Nat
  cmdHeat : Nat
  /-- Stroke of the last accepted band A frame, and one was accepted since the last heat marker. -/
  beaconAt : Nat
  heard    : Bool
  /-- Bands for which 0A83h was reported in this heat. -/
  badSaid : List Nat
  deriving DecidableEq, Repr

/-- Fdl at reset. -/
def Fdl.init : Fdl :=
  { queues := ⟨[], []⟩, air := none, airEnd := 0, ended := ⟨none, []⟩, replaced := 0, nodes := ⟨⟨none, 0, 0, 0, []⟩, []⟩, counter := 0, saved := 0, left := none,
    leftSaved := none, cmdHeat := 0, beaconAt := 0, heard := false, badSaid := [] }

/-! ### Battery estimator and Ember (file 15) -/

/-- A cell (R386): SoC as a fraction, the voltages of its two RC branches in mV, the six terms of its covariance, and its last
temperature of good quality in 0.1 °C. -/
structure Cell where
  z   : Rat
  v1  : Rat
  v2  : Rat
  p00 : Rat
  p01 : Rat
  p02 : Rat
  p11 : Rat
  p12 : Rat
  p22 : Rat
  temp : Option Int
  deriving DecidableEq, Repr

/-- A cycle or span in progress (R394, R395): z_cnt at its first rest point, the charge since in coulombs, an interruption, a breach
of the conditions of a cycle, and SUSPECT seen. -/
structure Learning where
  from_ : Rat
  charge : Rat
  cut   : Bool
  rough : Bool
  doubt : Bool
  deriving DecidableEq, Repr

/-- A string (R384 to R396). -/
structure BatString where
  cells : Arr Cell
  /-- z_cnt as a fraction. -/
  zcnt  : Rat
  /-- Last current of good quality in 0.1 A, heats without one, the sum of the heats' currents since the last pass and their
  number. -/
  last  : Option Int
  blind : Nat
  sum   : Rat
  heats : Nat
  /-- Q in force, in 0.01 Ah (R396). -/
  q     : Nat
  /-- Passes in a row with a point lost, and with every point good (R387). -/
  lost  : Nat
  good  : Nat
  /-- Time for which the string's current was below the rest threshold, in 10 ns (R388). -/
  rest  : Nat
  /-- Passes in a row in which count and filter differ under load (R389). -/
  apart : Nat
  learn : Option Learning
  deriving DecidableEq, Repr

structure Est where
  strings : Arr BatString
  /-- A pass has started and is not complete (R383). -/
  due     : Bool
  /-- Headrooms computed in this heat, in 10 W, published at the next heat marker (R383). -/
  nextDis : Nat
  nextChg : Nat
  /-- The headrooms of each string in W, as computed in this heat and as published: a claimed string is not counted by Truss (R60). -/
  nextStr : List (Nat × Rat × Rat)
  strHead : List (Nat × Rat × Rat)
  /-- RESTART was written and waits for the next multiple of 100 heats (R404). -/
  restart : Bool
  /-- The hibernation entry: the holder waits for its partner's answer, or every island saves (R400). -/
  asking  : Bool
  /-- The stroke of the request (R400). -/
  askedAt : Nat
  saving  : Bool
  deriving DecidableEq, Repr

/-- What MRAM and Ember keep (R398, R400 to R403). -/
structure Emb where
  /-- The capacity and LEARNS whose write-back waits for the supply margin (R398). -/
  defer : Arr (Option (Nat × Nat))
  /-- The strings as saved at hibernation, and the stroke of the save. -/
  saved : Option (Arr BatString × Nat)
  /-- VDD_CORE is off and Ember counts. -/
  asleep : Bool
  /-- Counted charge in mC, rest times in 10 ns, samples in a row at or above WAKE_I, of each string. -/
  charge : Arr Rat
  rest   : Arr Nat
  above  : Arr Nat
  /-- A wake event that arrived before the save was complete (R400). -/
  wake   : Option Nat
  /-- Ember woke the device: the next core power-up has this cause (R448). -/
  woken  : Bool
  deriving DecidableEq, Repr

/-- A cell and a string at reset: the spec gives no start values of the filter; they are 0 (log entry 14). -/
def Cell.init : Cell := { z := 0, v1 := 0, v2 := 0, p00 := 0, p01 := 0, p02 := 0, p11 := 0, p12 := 0, p22 := 0, temp := none }
def BatString.init : BatString :=
  { cells := ⟨Cell.init, []⟩, zcnt := 0, last := none, blind := 0, sum := 0, heats := 0, q := 0, lost := 0, good := 0, rest := 0,
    apart := 0, learn := none }

/-- Est and Emb at reset. -/
def Est.init : Est :=
  { strings := ⟨BatString.init, []⟩, due := false, nextDis := 0, nextChg := 0, nextStr := [], strHead := [], restart := false, asking := false, askedAt := 0, saving := false }
def Emb.init : Emb :=
  { defer := ⟨none, []⟩, saved := none, asleep := false, charge := ⟨0, []⟩, rest := ⟨0, []⟩, above := ⟨0, []⟩, wake := none, woken := false }

/-! ### Coffer (file 16) -/

/-- A key side: its attribute words and its bytes. -/
structure KeySide where
  lo  : W32
  hi  : W32
  key : List Byte
  deriving DecidableEq, Repr

/-- A slot beside its registers (R407, R415, R416): the key in use, the staged key and whether it is verified, the previous
key, and the commit that is scheduled (heat, GRACE, and whether it is a rotation). -/
structure KeySlot where
  active : Option (List Byte)
  staged : Option KeySide
  prev   : Option (List Byte)
  commit : Option (Nat × Nat × Bool)
  deriving DecidableEq, Repr

structure Cof where
  slots : Arr KeySlot
  /-- DEBUG_UNLOCK accepts no request before this stroke (R425). -/
  lockUntil : Nat
  /-- The answer to the last request on a dedicated path: code and output. -/
  answer : Nat × List Byte
  deriving DecidableEq, Repr

/-- Cof at reset: no slot holds a general key. -/
def Cof.init : Cof :=
  { slots := ⟨⟨none, none, none, none⟩, []⟩, lockUntil := 0, answer := (0, []) }

/-! ### Scribe (file 17) -/

/-- A tag in flight (R432): its source (00h to 07h a host core, 10h to 3Fh a Calfin engine), the stroke of issue and the
bundle index. -/
structure Tag where
  source : Nat
  stroke : Nat
  pc     : Nat
  deriving DecidableEq, Repr

/-- A snapshot as it was latched at its marker, waiting for its delivery. -/
structure Snap where
  /-- The stroke, the PERIOD and the banks in force, the counters, and the READ and WRITE figures of the period (R428 to R430). -/
  stroke : Nat
  period : Nat
  banks  : List Nat
  counts : Arr (BitVec 48)
  reads  : Arr Nat
  writes : Arr Nat
  deriving DecidableEq, Repr

/-- Scribe's own state. -/
structure Scb where
  /-- The 2,048 counters, 128 to a bank (R427); 0 at reset. SCB_CNT shows them. -/
  counts : Arr (BitVec 48)
  /-- Bytes in 64-byte units per port since the last snapshot, READ and WRITE (R430). -/
  reads  : Arr Nat
  writes : Arr Nat
  /-- CLEAR takes effect at the next marker (R431). -/
  clear  : Bool
  /-- PERIOD and BANKS in force; SCB_CFG shows the last accepted write (R431). -/
  period : Nat
  banks  : Nat
  /-- SCB_CFG was written and waits for its snapshot marker (R431). -/
  newCfg : Bool
  /-- Tags in flight and the number of issues each source's LFSR has seen (R432). -/
  tags   : List Tag
  issues : Arr Nat
  /-- The snapshot that fell due at the last marker and is not yet delivered (R428); snapshots skipped since reset (R429). -/
  due : Option Snap
  skipped : Nat
  /-- 0F81h and 0F82h reported in this heat. -/
  skipSaid : Bool
  lostSaid : Bool
  deriving DecidableEq, Repr

/-- Scb at reset. -/
def Scb.init : Scb :=
  { counts := ⟨0, []⟩, reads := ⟨0, []⟩, writes := ⟨0, []⟩, clear := false, period := 0, banks := 0xFFFF, newCfg := false, due := none, skipped := 0,
    tags := [], issues := ⟨0, []⟩, skipSaid := false, lostSaid := false }

/-! ### Power and reset (file 18) -/

structure Pwr where
  /-- A device reset is asserted: its sources (the numbers of PWR_RST_CAUSE.LAST), oldest first; empty while the device runs. Right
  after a cold start the cold start itself (R442, R446). -/
  sources : List Nat
  /-- The core rails are off (R444, R448). -/
  coreOff : Bool
  /-- Island 5 goes on through the asserted reset (R440). -/
  spared  : Bool
  /-- The interrupt of the power-fail warning stands at the host cores (R439). -/
  irq     : Bool
  /-- HOST_DONE was written in the running power-fail sequence (R439). -/
  hostDone : Bool
  /-- A power-fail sequence runs, or ran before the asserted reset (R439, R440). -/
  failing : Bool
  /-- The stroke in which PFW_N fell (R439). -/
  failAt : Nat
  /-- Stroke since which VDD_CORE is at or above its warning threshold (R398). -/
  coreFrom : Nat
  /-- The test access port is held in reset (R442). -/
  tapReset : Bool
  deriving DecidableEq, Repr

/-- Pwr right after a cold start. -/
def Pwr.init : Pwr :=
  { sources := [1], coreOff := false, spared := false, irq := false, hostDone := false, failing := false, failAt := 0, coreFrom := 0, tapReset := false }

/-! ### The whole state -/

structure State where
  /-- The commands that wait, first in, first out; empty at reset. -/
  pending : List Instr
  /-- Every 32-bit register that differs from its reset value, in register order. -/
  regs : List (RegKey × W32)
  /-- The bytes of memory that are not 0, by rising address (R16, R17, R20). Log entry 2. -/
  mem : List Host.Cell
  /-- 64-bit words of SRAM or MRAM with an uncorrected double-bit error (R21), by word address; none at reset. -/
  ecc : List Nat
  /-- The status codes reported, oldest first; the model's own record. -/
  reports : List Report
  /-- The fabric's answer to the last access; the model's own record. -/
  resp : Resp
  /-- What the device sent, oldest first; the model's own record. -/
  sent : List Sent
  /-- How many free values the run has taken; the model's own field (DESIGN CHOICE 0 at reset, log entry 7). -/
  freeCtr : Nat
  sys : Sys
  jny : Jny
  acq : Acq
  frg : Frg
  /-- The 48 loop engines. -/
  clf : Arr Engine
  trs : Trs
  blw : Blw
  asy : Asy
  mrt : Mrt
  peg : Peg
  pnt : Pnt
  net : Net
  can : Can
  fdl : Fdl
  est : Est
  emb : Emb
  cof : Cof
  scb : Scb
  pwr : Pwr
  deriving DecidableEq, Repr

/-- The state right after a cold start: every register at its reset value, memory with nothing listed, nothing waiting. -/
def State.reset : State :=
  { pending := []
    regs := []
    mem := []
    ecc := []
    reports := []
    resp := .none
    sent := []
    freeCtr := 0
    sys := Sys.init
    jny := Jny.init
    acq := Acq.init
    frg := Frg.init
    clf := ⟨Engine.init, []⟩
    trs := Trs.init
    blw := Blw.init
    asy := Asy.init
    mrt := Mrt.init
    peg := Peg.init
    pnt := Pnt.init
    net := Net.init
    can := Can.init
    fdl := Fdl.init
    est := Est.init
    emb := Emb.init
    cof := Cof.init
    scb := Scb.init
    pwr := Pwr.init }

end Sys2Proof.Machine
end

