-- ==== Sys2Proof/Machine/Ops.lean ====
section
/-! DEFINITION. The named operations over registers, memory, numbered cells and the device's records. Every meaning is
written over these; nothing else reads or writes the register file or memory. -/

namespace Sys2Proof.Machine

open Sys2Proof

/-! ### Lists with a key, in one canonical form -/

/-- The value listed under a key. -/
def cellGet? {κ α : Type} [DecidableEq κ] (k : κ) : List (κ × α) → Option α
  | [] => none
  | c :: t => if c.1 = k then some c.2 else cellGet? k t

/-- The list without a key. -/
def cellDel {κ α : Type} [DecidableEq κ] (k : κ) : List (κ × α) → List (κ × α)
  | [] => []
  | c :: t => if c.1 = k then cellDel k t else c :: cellDel k t

/-- A cell put at its place by the order `lt` of the keys. -/
def cellInsert {κ α : Type} (lt : κ → κ → Bool) (k : κ) (v : α) : List (κ × α) → List (κ × α)
  | [] => [(k, v)]
  | c :: t => if lt k c.1 then (k, v) :: c :: t else c :: cellInsert lt k v t

/-- Write one cell: a value equal to what an unlisted key reads as removes the cell. -/
def cellPut {κ α : Type} [DecidableEq κ] [DecidableEq α] (lt : κ → κ → Bool) (dflt : α) (k : κ) (v : α)
    (l : List (κ × α)) : List (κ × α) :=
  if v = dflt then cellDel k l else cellInsert lt k v (cellDel k l)

/-- The order of the numbered cells. -/
def natLt (a b : Nat) : Bool := decide (a < b)

/-- The order of the registers: by name, then by index. -/
def regLt (a b : RegKey) : Bool :=
  decide (a.1.ctorIdx < b.1.ctorIdx) || (decide (a.1 = b.1) && decide (a.2 < b.2))

/-- The value of a numbered cell. -/
def Arr.get {α : Type} (a : Arr α) (k : Nat) : α := (cellGet? k a.cells).getD a.dflt

/-- The cells with one of them set. -/
def Arr.set {α : Type} [DecidableEq α] (a : Arr α) (k : Nat) (v : α) : Arr α :=
  { a with cells := cellPut natLt a.dflt k v a.cells }

/-- The cells with one of them changed. -/
def Arr.upd {α : Type} [DecidableEq α] (a : Arr α) (k : Nat) (f : α → α) : Arr α := a.set k (f (a.get k))

/-! ### Registers -/

/-- The word a register holds. -/
def State.reg (s : State) (r : Reg) (i : Nat := 0) : W32 := (cellGet? (r, i) s.regs).getD r.resetVal

/-- The state with a register's word set. -/
def State.setReg (s : State) (r : Reg) (i : Nat) (v : W32) : State :=
  { s with regs := cellPut regLt r.resetVal (r, i) v s.regs }

/-- The value of a field. -/
def State.fld (s : State) (f : Fld) (i : Nat := 0) : Nat := f.of (s.reg f.reg i)

/-- The state with a field set; the value is cut to the field's width. -/
def State.setFld (s : State) (f : Fld) (i : Nat) (n : Nat) : State :=
  s.setReg f.reg i (f.put (s.reg f.reg i) n)

/-- A one-bit field is 1. -/
def State.flag (s : State) (f : Fld) (i : Nat := 0) : Bool := decide (s.fld f i ≠ 0)

/-- Set a one-bit field. -/
def State.setFlag (s : State) (f : Fld) (i : Nat) (b : Bool) : State := s.setFld f i (if b then 1 else 0)

/-- Add one to a counting field, which stops at its largest value. -/
def State.bumpSat (s : State) (f : Fld) (i : Nat) : State := s.setFld f i (min (s.fld f i + 1) (2 ^ f.width - 1))

/-- Add one to a counting field, which wraps. -/
def State.bumpWrap (s : State) (f : Fld) (i : Nat) : State := s.setFld f i (s.fld f i + 1)

/-- A 64-bit pair as one number. -/
def State.pair (s : State) (lo hi : Reg) (i : Nat := 0) : Nat := (s.reg lo i).toNat + (s.reg hi i).toNat * 2 ^ 32

/-- Set a 64-bit pair from one number, cut to 64 bits. -/
def State.setPair (s : State) (lo hi : Reg) (i : Nat) (n : Nat) : State :=
  (s.setReg lo i (BitVec.ofNat 32 n)).setReg hi i (BitVec.ofNat 32 (n / 2 ^ 32))

/-- Put every register of the given reset domains back to its reset value. -/
def State.dropRegs (s : State) (ds : List Dom) : State :=
  { s with regs := s.regs.filter fun c => !ds.contains c.1.1.dom }

/-- A change after which the sealed CHK_TOL of ASY_CHK, whose other fields an Assay reset clears, is what it was (R208). -/
def State.keepingSeal (s : State) (t : State) : State := t.setFld F.ASY_CHK_CHK_TOL 0 (s.fld F.ASY_CHK_CHK_TOL)

/-! ### Memory -/

/-- The byte at an address; a byte that nothing has written reads 00h (log entry 2). -/
def State.byte (s : State) (a : Nat) : Byte := (cellGet? a s.mem).getD 0

/-- The state with one byte written; the 64-bit word that holds it has no uncorrected error any more (R21). -/
def State.setByte (s : State) (a : Nat) (v : Byte) : State :=
  { s with mem := cellPut natLt 0 a v s.mem, ecc := s.ecc.filter fun k => decide (k ≠ a / 8 * 8) }

/-- The `n` bytes from an address on. -/
def State.bytes (s : State) (a : Nat) : Nat → List Byte
  | 0 => []
  | n + 1 => s.byte a :: s.bytes (a + 1) n

/-- The state with bytes written from an address on. -/
def State.setBytes (s : State) (a : Nat) : List Byte → State
  | [] => s
  | b :: t => (s.setByte a b).setBytes (a + 1) t

/-- A little-endian number. -/
def leNat : List Byte → Nat
  | [] => 0
  | b :: t => b.toNat + 256 * leNat t

/-- The `n` little-endian bytes of a number. -/
def leBytes : Nat → Nat → List Byte
  | 0, _ => []
  | n + 1, v => BitVec.ofNat 8 v :: leBytes n (v / 256)

/-- The little-endian number of `n` bytes at an address. -/
def State.le (s : State) (a n : Nat) : Nat := leNat (s.bytes a n)

/-- Write a number as `n` little-endian bytes. -/
def State.setLe (s : State) (a n v : Nat) : State := s.setBytes a (leBytes n v)

/-- The 64-bit words that the bytes from an address on touch, by word address. -/
def wordsOf (a n : Nat) : List Nat := (List.range ((a + n + 7) / 8 - a / 8)).map fun k => (a / 8 + k) * 8

/-- One of `n` bytes lies in a word with an uncorrected error (R21). -/
def State.eccIn (s : State) (a n : Nat) : Bool := (wordsOf a n).any fun k => s.ecc.contains k

/-- The canonical form of the register file: by rising key, no cell at its reset value. -/
def regsWf (l : List (RegKey × W32)) : Bool :=
  decide (l.Pairwise fun a b => regLt a.1 b.1 = true) && l.all fun c => decide (c.2 ≠ c.1.1.resetVal)

/-- The canonical form of memory: addresses rise strictly and no listed byte is 00h. -/
def Memory.wf (m : List Host.Cell) : Bool :=
  decide (m.Pairwise fun a b => a.1 < b.1) && m.all fun c => decide (c.2 ≠ 0)

/-! ### Records -/

/-- Report a status code about a unit (R22). -/
def State.report (s : State) (code : Nat) (subject : Nat := 0) : State :=
  { s with reports := s.reports ++ [⟨code, subject⟩] }

/-- A fresh free value of `w` bits (log entry 7). -/
def State.fresh (s : State) (w : Nat) : BitVec w := Config.freeValue w s.freeCtr

/-- The state after a free value was taken. -/
def State.tick (s : State) : State := { s with freeCtr := s.freeCtr + 1 }

/-- Repeat a change for each number of a list, in order. -/
def State.each (s : State) (l : List Nat) (f : Nat → State → State) : State := l.foldl (fun t k => f k t) s

/-- A change made only under a condition. -/
def State.when (s : State) (c : Bool) (f : State → State) : State := if c then f s else s

/-! ### Scribe counters (R427) -/

/-- Advance counter `k` of a bank by `n`; it wraps at 2^48. -/
def State.count (s : State) (bank k : Nat) (n : Nat := 1) : State :=
  { s with scb := { s.scb with counts := s.scb.counts.upd (bank * 128 + k) fun c => c + BitVec.ofNat 48 n } }

/-- A selection or a tag is lost: 0F82h once per heat (R432). -/
def State.tagLost (s : State) (source : Nat) : State :=
  let t := s.count 15 (if source < 16 then 2 else 5)
  if t.scb.lostSaid then t else ({ t with scb := { t.scb with lostSaid := true } }).report 0x0F82 source

/-- An issue of a source may be selected for tagging (R432): one tag in flight for each source. -/
def State.tagIssue (s : State) (source stroke pc : Nat) : State :=
  let src := s.fld F.SCB_TAG_CFG_SRC
  let on := s.flag F.SCB_TAG_CFG_EN && (if source < 16 then decide (src = 0 ∨ src = 2) else decide (src = 1 ∨ src = 2))
  if !on then s
  else
    let n := s.scb.issues.get source
    let t := { s with scb := { s.scb with issues := s.scb.issues.set source (n + 1) } }
    let seed := max (t.fld F.SCB_TAG_CFG_SEED) 1
    if Config.tagPick source seed (t.fld F.SCB_TAG_CFG_K) n then
      if t.scb.tags.any fun x => decide (x.source = source) then t.tagLost source
      else ({ t with scb := { t.scb with tags := t.scb.tags ++ [(⟨source, stroke, pc⟩ : Tag)] } }).count 15 (if source < 16 then 0 else 3)
    else t

/-- A tag in flight is discarded and counts as lost (R433). -/
def State.tagDiscard (s : State) (source : Nat) : State :=
  if s.scb.tags.any fun x => decide (x.source = source) then
    ({ s with scb := { s.scb with tags := s.scb.tags.filter fun x => decide (x.source ≠ source) } }).tagLost source
  else s

/-- Bit `k` of a number. -/
def bitOf (n k : Nat) : Bool := n.testBit k

/-- A number with bit `k` set or cleared. -/
def withBit (n k : Nat) (b : Bool) : Nat := if n.testBit k = b then n else if b then n + 2 ^ k else n - 2 ^ k

/-! ### Islands (R38) and bus errors (R40) -/

/-- An island is not in the failed state. -/
def State.up (s : State) (k : Nat) : Bool := !bitOf (s.fld F.SYS_REGION_STAT_FAILED) k

/-- An island runs: it is neither failed nor held in reset. Ember runs through every reset (R443), and a power-fail reset may spare
island 5 (R440). -/
def State.runs (s : State) (k : Nat) : Bool := s.up k && (s.sys.booted || decide (k = 8) || (decide (k = 5) && s.pwr.spared))

/-- What an island does while it runs; an island that is held in reset does nothing. -/
def State.live (s : State) (k : Nat) (t : State) : State := if s.runs k then t else s

/-- BUS_ERROR (R40): the initiator receives it; it is latched while VALID = 0, else counted in LOST. -/
def State.busError (s : State) (w : Initiator) (a : Nat) (write : Bool) (code : Nat) : State :=
  let s := ({ s with resp := .busError code }).count 0 (99 + code)
  if s.flag F.SYS_BUSERR_INFO_VALID then s.bumpSat F.SYS_BUSERR_INFO_LOST 0
  else
    let s := s.setPair .SYS_BUSERR_ADDR_LO .SYS_BUSERR_ADDR_HI 0 a
    let s := (s.setFld F.SYS_BUSERR_INFO_VALID 0 1).setFld F.SYS_BUSERR_INFO_CODE 0 code
    (s.setFld F.SYS_BUSERR_INFO_PORT 0 w.port).setFld F.SYS_BUSERR_INFO_WRITE 0 (if write then 1 else 0)

/-! ### Numbers -/

/-- A value read as a two's complement number of `w` bits. -/
def signed (w n : Nat) : Int := if n % 2 ^ w < 2 ^ (w - 1) then (n % 2 ^ w : Nat) else ((n % 2 ^ w : Nat) : Int) - 2 ^ w

/-- The two's complement bits of a number in `w` bits. -/
def unsignedOf (w : Nat) (z : Int) : Nat := (z % 2 ^ w).toNat

/-- A number kept between two bounds. -/
def clampInt (lo hi z : Int) : Int := if z < lo then lo else if hi < z then hi else z

/-- A quotient rounded to the nearest integer, ties to even. -/
def roundDiv (n : Int) (d : Nat) : Int :=
  let q := n / (d : Int)
  let r := n % (d : Int)
  if 2 * r < d then q else if (d : Int) < 2 * r then q + 1 else if q % 2 = 0 then q else q + 1

end Sys2Proof.Machine
end

