-- ==== Sys2Proof/Machine/Numeric.lean ====
section
/-! DEFINITION. The number formats: BF32 (R130 to R135) and IEEE 754 binary32 (R136), over exact integers. A number is
computed exactly and narrowed once. -/

namespace Sys2Proof.Machine

open Sys2Proof

/-- An exact number m × 2^e. -/
structure Dy where
  m : Int
  e : Int
  deriving DecidableEq, Repr

/-- m × 2^k rounded to the nearest integer, ties to even; exact for k at or above 0. -/
def scaleRound (m k : Int) : Int := if 0 ≤ k then m * 2 ^ k.toNat else roundDiv m (2 ^ (-k).toNat)

/-- An exact number rounded to the nearest integer, ties to even. -/
def Dy.round (x : Dy) : Int := scaleRound x.m x.e

/-- An exact number as a fraction. -/
def Dy.toRat (x : Dy) : Rat := if 0 ≤ x.e then (x.m * 2 ^ x.e.toNat : Int) else (x.m : Rat) / ((2 ^ (-x.e).toNat : Nat) : Rat)

/-! ### BF32 -/

/-- The mantissa limits of R130. -/
def bfMax : Int := 2 ^ 23 - 1
def bfMin : Int := -(2 ^ 23)

/-- The mantissa of a BF32 word (R130). -/
def bfM (w : W32) : Int := signed 24 (w.toNat / 2 ^ 8)

/-- The exponent of a BF32 word (R130). -/
def bfE (w : W32) : Int := signed 8 w.toNat

/-- The BF32 word of a mantissa and an exponent. -/
def bfWord (m e : Int) : W32 := BitVec.ofNat 32 (unsignedOf 24 m * 2 ^ 8 + unsignedOf 8 e)

/-- The exact value of a BF32 word. -/
def bfVal (w : W32) : Dy := ⟨bfM w, bfE w - 23⟩

/-- A mantissa saturated to 24 bits, and whether that changed it (R132). -/
def sat24 (m : Int) : Int × Bool := (clampInt bfMin bfMax m, decide (m < bfMin ∨ bfMax < m))

/-- A mantissa brought from one exponent to another (R132): a left shift saturates, a right shift rounds to nearest with
ties to even, a right shift of more than `cut` bits yields 0. -/
def alignBy (cut : Nat) (m eSrc eDst : Int) : Int :=
  if eSrc - eDst < -(cut : Int) then 0 else scaleRound m (eSrc - eDst)

/-- Alignment of a register mantissa (R132), with the saturation mark. -/
def align24 (m eSrc eDst : Int) : Int × Bool := sat24 (alignBy 24 m eSrc eDst)

/-- The accumulator limits (R133). -/
def accMax : Int := 2 ^ 55 - 1
def accMin : Int := -(2 ^ 55)

/-- An accumulator value saturated to 56 bits, and whether that changed it (R133). -/
def sat56 (m : Int) : Int × Bool := (clampInt accMin accMax m, decide (m < accMin ∨ accMax < m))

/-- The smallest number k at or above 0 with n < 2^k. -/
def bitLen (n : Nat) : Nat := if n = 0 then 0 else Nat.log2 n + 1

/-- The smallest exponent at which a number's mantissa fits after rounding, between `e` and `e` plus the fuel. -/
def bfFit (x : Dy) : Nat → Int → Int
  | 0, e => e
  | n + 1, e =>
    let m := scaleRound x.m (x.e + 23 - e)
    if bfMin ≤ m ∧ m ≤ bfMax then e else bfFit x n (e + 1)

/-- An exact number as BF32 with the smallest exponent that holds it (R319), and whether it saturated. -/
def toBf (x : Dy) : W32 × Bool :=
  if x.m = 0 then (bfWord 0 (-128), false)
  else
    let top : Int := (bitLen x.m.natAbs : Int) + x.e
    let e := bfFit x 3 (max (-128) (top - 1))
    if 127 < e then (bfWord (if x.m < 0 then bfMin else bfMax) 127, true)
    else (bfWord (scaleRound x.m (x.e + 23 - e)) e, false)

/-! ### binary32 -/

/-- A decoded binary32 number; a finite one is m × 2^e with m above 0. -/
inductive Fp where
  | nan
  | inf (neg : Bool)
  | zero (neg : Bool)
  | fin (neg : Bool) (m : Nat) (e : Int)
  deriving DecidableEq, Repr

/-- Decode a word; with `daz` a subnormal is a zero of its sign (R136). -/
def fpOf (daz : Bool) (w : W32) : Fp :=
  let n : Nat := w.toNat
  let neg := n.testBit 31
  let ex : Nat := n / 2 ^ 23 % 256
  let fr : Nat := n % 2 ^ 23
  if ex = 255 then (if fr = 0 then .inf neg else .nan)
  else if ex = 0 then (if fr = 0 ∨ daz = true then .zero neg else .fin neg fr (-149))
  else .fin neg (2 ^ 23 + fr) ((ex : Int) - 150)

/-- The invalid-operation result (R136). -/
def qnan : W32 := 0x7FC00000

/-- Infinity of a sign. -/
def fpInf (neg : Bool) : W32 := if neg then 0xFF800000 else 0x7F800000

/-- Zero of a sign. -/
def fpZero (neg : Bool) : W32 := if neg then 0x80000000 else 0

/-- The floor of the binary logarithm of n ÷ d, both above 0. -/
def log2Ratio (n d : Nat) : Int :=
  let k : Int := (Nat.log2 n : Int) - (Nat.log2 d : Int)
  let below : Bool := if 0 ≤ k then decide (n < d * 2 ^ k.toNat) else decide (n * 2 ^ (-k).toNat < d)
  if below then k - 1 else k

/-- n × 2^k ÷ d rounded to the nearest integer, ties to even. -/
def ratioRound (n d : Nat) (k : Int) : Nat :=
  (if 0 ≤ k then roundDiv ((n * 2 ^ k.toNat : Nat) : Int) d else roundDiv (n : Int) (d * 2 ^ (-k).toNat)).toNat

/-- The magnitude n ÷ d rounded to binary32 (nearest, ties to even), with `ftz` a result below 2^-126 is a zero of its sign.
Answers the word and whether it overflowed. -/
def fpRound (ftz neg : Bool) (n d : Nat) : W32 × Bool :=
  if n = 0 then (fpZero neg, false)
  else
    let k0 := log2Ratio n d
    let k := if ftz then k0 else max k0 (-126)
    let m0 := ratioRound n d (23 - k)
    let m := if m0 = 2 ^ 24 then 2 ^ 23 else m0
    let k1 := if m0 = 2 ^ 24 then k + 1 else k
    let sgn : Nat := if neg then 2 ^ 31 else 0
    if 127 < k1 then (fpInf neg, true)
    else if m < 2 ^ 23 then (BitVec.ofNat 32 (sgn + m), false)
    else if k1 < -126 then (fpZero neg, false)
    else (BitVec.ofNat 32 (sgn + (k1 + 127).toNat * 2 ^ 23 + (m - 2 ^ 23)), false)

/-- An exact number rounded to binary32; zero takes the given sign. -/
def fpOfDy (ftz zneg : Bool) (x : Dy) : W32 × Bool :=
  if x.m = 0 then (fpZero zneg, false)
  else if 0 ≤ x.e then fpRound ftz (decide (x.m < 0)) (x.m.natAbs * 2 ^ x.e.toNat) 1
  else fpRound ftz (decide (x.m < 0)) x.m.natAbs (2 ^ (-x.e).toNat)

/-- A fraction rounded to binary32, subnormals kept. -/
def fpOfRat (q : Rat) : W32 := (fpRound false (decide (q < 0)) q.num.natAbs q.den).1

/-- The exact value of a finite decoded number. -/
def Fp.dy : Fp → Dy
  | .fin neg m e => ⟨if neg then -(m : Int) else m, e⟩
  | _ => ⟨0, 0⟩

/-- The exact value of a word that is no infinity and no NaN. -/
def fpRat? (w : W32) : Option Rat :=
  match fpOf false w with
  | .nan => none
  | .inf _ => none
  | x => some x.dy.toRat

/-- The sum of two exact numbers. -/
def Dy.add (a b : Dy) : Dy :=
  if a.e ≤ b.e then ⟨a.m + b.m * 2 ^ (b.e - a.e).toNat, a.e⟩ else ⟨a.m * 2 ^ (a.e - b.e).toNat + b.m, b.e⟩

/-- The product of two exact numbers. -/
def Dy.mul (a b : Dy) : Dy := ⟨a.m * b.m, a.e + b.e⟩

/-- Whether an exact number is below another. -/
def Dy.lt (a b : Dy) : Bool := decide ((a.add ⟨-b.m, b.e⟩).m < 0)

/-- The sign of a decoded number. -/
def Fp.neg : Fp → Bool
  | .nan => false
  | .inf n => n
  | .zero n => n
  | .fin n _ _ => n

/-- A decoded number with its sign turned. -/
def Fp.flip : Fp → Fp
  | .nan => .nan
  | .inf n => .inf (!n)
  | .zero n => .zero (!n)
  | .fin n m e => .fin (!n) m e

/-- A result word with the overflow and the invalid mark (R136). -/
structure FpRes where
  w   : W32
  ovf : Bool
  inv : Bool
  deriving DecidableEq, Repr

/-- The invalid result (R136). -/
def FpRes.bad : FpRes := ⟨qnan, false, true⟩

/-- A rounded exact sum: an exact zero takes the sign `zneg`. -/
def fpExact (zneg : Bool) (x : Dy) : FpRes :=
  let r := fpOfDy true zneg x
  ⟨r.1, r.2, false⟩

/-- a + b of decoded numbers under R136. -/
def fpAddD (a b : Fp) : FpRes :=
  match a, b with
  | .nan, _ => .bad
  | _, .nan => .bad
  | .inf x, .inf y => if x = y then ⟨fpInf x, false, false⟩ else .bad
  | .inf x, _ => ⟨fpInf x, false, false⟩
  | _, .inf y => ⟨fpInf y, false, false⟩
  | x, y => fpExact (x.neg && y.neg) (x.dy.add y.dy)

/-- a × b as a decoded exact number; `none` where the product is invalid. -/
def fpProd (a b : Fp) : Option Fp :=
  match a, b with
  | .nan, _ => none
  | _, .nan => none
  | .inf _, .zero _ => none
  | .zero _, .inf _ => none
  | .inf x, y => some (.inf (x != y.neg))
  | x, .inf y => some (.inf (x.neg != y))
  | .zero x, y => some (.zero (x != y.neg))
  | x, .zero y => some (.zero (x.neg != y))
  | .fin x m e, .fin y n f => some (.fin (x != y) (m * n) (e + f))

/-- a × b under R136. -/
def fpMul (a b : W32) : FpRes :=
  match fpProd (fpOf true a) (fpOf true b) with
  | none => .bad
  | some p => fpAddD p (.zero p.neg)

/-- c + a × b with one rounding (R136); `sub` turns the product's sign. -/
def fpFma (sub : Bool) (c a b : W32) : FpRes :=
  match fpProd (fpOf true a) (fpOf true b) with
  | none => .bad
  | some p => fpAddD (fpOf true c) (if sub then p.flip else p)

/-- a + b under R136. -/
def fpAdd (a b : W32) : FpRes := fpAddD (fpOf true a) (fpOf true b)

/-- a − b under R136. -/
def fpSub (a b : W32) : FpRes := fpAddD (fpOf true a) (fpOf true b).flip

/-- Whether a is below b; neither is a NaN. -/
def fpLt (a b : Fp) : Bool :=
  match a, b with
  | .nan, _ => false
  | _, .nan => false
  | .inf x, .inf y => x && !y
  | .inf x, _ => x
  | _, .inf y => !y
  | x, y => x.dy.lt y.dy

/-- The word of an operand as R136 takes it: a subnormal is a zero of its sign. -/
def fpFlush (w : W32) : W32 :=
  match fpOf true w with
  | .zero n => fpZero n
  | _ => w

/-- a × 2^n under R136. -/
def fpScale (a : W32) (n : Int) : FpRes :=
  match fpOf true a with
  | .nan => .bad
  | .inf x => ⟨fpInf x, false, false⟩
  | .zero x => ⟨fpZero x, false, false⟩
  | .fin x m e => fpExact x (Fp.fin x m (e + n)).dy

end Sys2Proof.Machine
end

