-- ==== Sys2Proof/Machine/Elementary.lean ====
section
/-! DEFINITION. The exponential and the power of R192: the exact result is enclosed by 128-bit fixed-point series, and the device's one fixed
method gives a binary32 value within 1 ulp of it (log entry 6). -/

namespace Sys2Proof.Machine

open Sys2Proof

/-- The unit of the fixed-point numbers, and the natural logarithm of 2 in it. -/
def fixOne : Int := 2 ^ 128
def fixLn2 : Int := 235865763225513294137944142764154484399

/-- A number in fixed point, rounded down. -/
def toFix (q : Rat) : Int := (q.num * fixOne) / (q.den : Int)

/-- The terms r^n ÷ n! of the exponential's series from a term on, summed. -/
def expTerms (r : Int) : Nat → Nat → Int → Int
  | 0, _, t => t
  | k + 1, n, t => t + expTerms r k (n + 1) (t * r / fixOne / ((n : Int) + 1))

/-- e^x for a fixed-point x: a mantissa from 1 up to 2 in fixed point, and a binary exponent. -/
def expFix (x : Int) : Int × Int :=
  let k := x / fixLn2
  (expTerms (x - k * fixLn2) 40 0 fixOne, k)

/-- The terms z^(2i+1) ÷ (2i+1) of the logarithm's series, summed; `z2` is z squared. -/
def lnTerms (z2 : Int) : Nat → Nat → Int → Int
  | 0, _, _ => 0
  | k + 1, n, t => t / ((2 * n + 1 : Nat) : Int) + lnTerms z2 k (n + 1) (t * z2 / fixOne)

/-- The natural logarithm of a number above 0, in fixed point. -/
def lnFix (q : Rat) : Int :=
  let k := log2Ratio q.num.natAbs q.den
  let y := toFix (if 0 ≤ k then q / ((2 ^ k.toNat : Nat) : Rat) else q * ((2 ^ (-k).toNat : Nat) : Rat))
  let z := (y - fixOne) * fixOne / (y + fixOne)
  2 * lnTerms (z * z / fixOne) 45 0 z + k * fixLn2

/-- A binary32 value within 1 ulp of mantissa × 2^exponent: the value below it or the one above it, or, of a result that is itself a binary32
value, that value or one beside it. `pick` is the device's choice. -/
def nearFix (m k : Int) (pick : Nat) : Rat :=
  let e := max (k - 23) (-149)
  let sh := 128 + e - k
  if 256 < sh then (if pick % 2 = 0 then 0 else 1 / (2 ^ 149 : Nat))
  else
    let u : Int := 2 ^ sh.toNat
    let n := m / u
    let f := m % u
    let n : Int := if f * 2 ^ 100 < u then n - 1 + (pick % 3 : Nat) else if (u - f) * 2 ^ 100 < u then n + (pick % 3 : Nat) else n + (pick % 2 : Nat)
    (Dy.mk (max n 0) e).toRat

/-- e^x as the device computes it; a result beyond the format has no stated value. -/
def exp32 (x : Rat) : Rat :=
  if 89 < x then Config.byZero x
  else if x < -200 then nearFix fixOne (-400) (Config.expPick x)
  else let y := expFix (toFix x); nearFix y.1 y.2 (Config.expPick x)

/-- x^y as the device computes it; a result beyond the format, and a power of 0 or of a negative number, have no stated value. -/
def pow32 (x y : Rat) : Rat :=
  if x ≤ 0 then Config.byZero x
  else
    let l := lnFix x * y.num / (y.den : Int)
    if 89 * fixOne < l then Config.byZero x
    else if l < -200 * fixOne then nearFix fixOne (-400) (Config.powPick x y)
    else let z := expFix l; nearFix z.1 z.2 (Config.powPick x y)

end Sys2Proof.Machine
end

