-- ==== Sys2Proof/Machine/Image.lean ====
section
/-! DEFINITION. Reading a Joinery image: its sections, and the green-timber content of a section an image lacks (R41 to R43,
R49 to R56). A block reads its structure through these from the active image. -/

namespace Sys2Proof.Machine

open Sys2Proof

/-- `n` bytes of a body from an offset on. -/
def slice (b : List Byte) (o n : Nat) : List Byte := (b.drop o).take n

/-- A little-endian field of `n` bytes at an offset; a byte past the end reads 0. -/
def uN (b : List Byte) (o n : Nat) : Nat := leNat (slice b o n)

/-- Fields of one, two and four bytes. -/
def u8 (b : List Byte) (o : Nat) : Nat := (b.getD o 0).toNat
def u16 (b : List Byte) (o : Nat) : Nat := uN b o 2
def u32 (b : List Byte) (o : Nat) : Nat := uN b o 4

/-- Section types (R43). -/
def tySYS : Nat := 1
def tyTOPO : Nat := 2
def tyFRG : Nat := 3
def tyLOOP : Nat := 4
def tyACQ : Nat := 5
def tyPNT : Nat := 6
def tyNET : Nat := 7
def tyCAN : Nat := 8
def tyFDL : Nat := 9
def tyBAT : Nat := 10
def tyTHRM : Nat := 11
def tyMRT : Nat := 12

/-- The green-timber content of a section (R43, R56): the stroke is 10 µs and the overrun limit 3, no phase has a bay, no
contactor, Truss with the default settings of R50, the Ethernet ports at their speeds of R315, the die thresholds of R201; every
other section is empty. -/
def greenBody (t : Nat) : List Byte :=
  if t = tySYS then leBytes 2 1000 ++ [3] ++ leBytes 13 0
  else if t = tyTOPO then
    [0, 0, 0, 0, 0, 0, 1, 16, 90, 50] ++ leBytes 2 100 ++ leBytes 2 50 ++ leBytes 2 200 ++ leBytes 2 1000 ++ [0, 5]
      ++ leBytes 4 0 ++ leBytes 4 0xFFFFFFFF ++ leBytes 4 0xFFFFFFFF ++ leBytes 4 0 ++ leBytes 4 0 ++ leBytes 2 0
      ++ leBytes 2 500 ++ leBytes 2 0 ++ leBytes 2 0 ++ [0xFF] ++ leBytes 15 0 ++ List.replicate 96 0xFF
  else if t = tyNET then
    leBytes 64 0 ++ ((List.range 10).map fun p => [BitVec.ofNat 8 p, if p < 6 then 1 else 0, 0, 0, 0, 0, 0, 0]).flatten
  else if t = tyTHRM then leBytes 4 0 ++ [0, 105, 110, 120] ++ leBytes 8 0
  else []

/-- The section of a type, if the image holds one. -/
def Image.section? (m : Image) (t : Nat) : Option Section := m.sections.find? fun x => decide (x.typ = t)

/-- The body that governs a block: the image's section, or its green-timber content. -/
def Image.body (m : Image) (t : Nat) : List Byte :=
  match m.section? t with
  | some x => x.body
  | none => greenBody t

/-- The body of a section of the active structure. -/
def State.body (s : State) (t : Nat) : List Byte := s.jny.active.body t

/-! ### SYS (R49) -/

/-- The stroke period in 10 ns. -/
def Image.strokePeriod (m : Image) : Nat := u16 (m.body tySYS) 0

/-- KIND and INDEX of an overrun-limit entry (R49). -/
def workKind : Work → Nat × Nat
  | .sequence n => (1, n)
  | .program e => (2, e)
  | .forge => (3, 0)
  | .truss => (4, 0)
  | .bellows => (5, 0)
  | .battery => (6, 0)
  | .mortise => (7, 0)
  | .assay => (0, 0)

/-- The overrun limit of a piece of work (R32, R49): its own entry, else OVR_DEF; Mortise work has limit 1, and
Assay's heat task 3 (R231). -/
def Image.overrunLimit (m : Image) (w : Work) : Nat :=
  let b := m.body tySYS
  match w with
  | .mortise => 1
  | .assay => 3
  | _ =>
    match (List.range (u16 b 4)).find? fun k => decide ((u8 b (16 + 4 * k), u8 b (17 + 4 * k)) = workKind w) with
    | some k => u8 b (18 + 4 * k)
    | none => u8 b 2

/-! ### TOPO (R50) -/

/-- Offsets of the parts of the TOPO body. -/
def topoBays (b : List Byte) : Nat := u8 b 0
def topoOuts (b : List Byte) : Nat := u8 b 1
def topoXps (b : List Byte) : Nat := u16 b 2
def topoBayOfs (_b : List Byte) : Nat := 64 + 96
def topoOutOfs (b : List Byte) : Nat := topoBayOfs b + 16 * topoBays b
def topoClassOfs (b : List Byte) : Nat := topoOutOfs b + 16 * topoOuts b
def topoXpOfs (b : List Byte) : Nat := topoClassOfs b + 4 * u8 b 4
def topoDevOfs (b : List Byte) : Nat := topoXpOfs b + 16 * topoXps b

/-- The bay of a phase in the phase map; `none` for FFh. -/
def topoPhaseBay (b : List Byte) (p : Nat) : Option Nat :=
  let v := u8 b (64 + p)
  if v = 255 ∨ 96 ≤ p then none else some v

/-- The phases of a bay by the phase map. -/
def topoPhases (b : List Byte) (bay : Nat) : List Nat :=
  (List.range 96).filter fun p => decide (topoPhaseBay b p = some bay)

/-- The bay record of a bay: its offset. -/
def topoBayRec? (b : List Byte) (bay : Nat) : Option Nat :=
  ((List.range (topoBays b)).find? fun k => decide (u8 b (topoBayOfs b + 16 * k) = bay)).map fun k => topoBayOfs b + 16 * k

/-- The output record of an output: its offset. -/
def topoOutRec? (b : List Byte) (o : Nat) : Option Nat :=
  ((List.range (topoOuts b)).find? fun k => decide (u8 b (topoOutOfs b + 16 * k) = o)).map fun k => topoOutOfs b + 16 * k

/-- A crosspoint record (R50). -/
structure XpRec where
  bay    : Nat
  out    : Nat
  cls    : Nat
  lender : Nat
  cmd    : Nat
  fb     : Nat
  deriving DecidableEq, Repr

/-- Crosspoint record `k`. -/
def topoXp (b : List Byte) (k : Nat) : XpRec :=
  let o := topoXpOfs b + 16 * k
  { bay := u8 b o, out := u8 b (o + 1), cls := u8 b (o + 2), lender := u8 b (o + 3), cmd := u32 b (o + 4), fb := u32 b (o + 8) }

/-- All crosspoint records. -/
def topoXpList (b : List Byte) : List XpRec := (List.range (topoXps b)).map (topoXp b)

/-- T_CLOSE and T_OPEN of a contactor class. -/
def topoClass (b : List Byte) (c : Nat) : Nat × Nat := (u8 b (topoClassOfs b + 4 * c), u8 b (topoClassOfs b + 4 * c + 1))

/-! ### PNT (R52, R318, R324) -/

/-- A schema record's content for a point (R318). -/
structure Schema where
  typ    : Nat
  writer : Nat
  ident  : Nat
  age    : Nat
  deriving DecidableEq, Repr

/-- The schema record that covers a point. -/
def Image.schema (m : Image) (p : Nat) : Option Schema :=
  let b := m.body tyPNT
  (List.range (u32 b 0)).findSome? fun k =>
    let o := 16 + 16 * k
    if u32 b o ≤ p ∧ p < u32 b o + u32 b (o + 4) then
      some { typ := u8 b (o + 8), writer := u8 b (o + 9), ident := u16 b (o + 10), age := u16 b (o + 12) }
    else none

/-- A ring map record (R324). -/
structure RingRec where
  ring : Nat
  dir  : Nat
  esz  : Nat
  full : Nat
  cnt  : Nat
  thr  : Nat
  base : Nat
  deriving DecidableEq, Repr

/-- All ring map records. -/
def Image.ringRecs (m : Image) : List RingRec :=
  let b := m.body tyPNT
  (List.range (u8 b 4)).map fun k =>
    let o := 16 + 16 * u32 b 0 + 16 * k
    { ring := u8 b o, dir := u8 b (o + 1), esz := u8 b (o + 2), full := u8 b (o + 3), cnt := u8 b (o + 4), thr := u16 b (o + 6),
      base := uN b (o + 8) 8 }

/-- A fixed ring (R327) with the base address it has when no record gives one. -/
def fixedRing (n : Nat) : Option RingRec :=
  match n with
  | 60 => some { ring := 60, dir := 0, esz := 5, full := 0, cnt := 10, thr := 0, base := 0x13140000 }
  | 61 => some { ring := 61, dir := 0, esz := 5, full := 0, cnt := 10, thr := 0, base := 0x13148000 }
  | 62 => some { ring := 62, dir := 1, esz := 6, full := 1, cnt := 11, thr := 0, base := 0x13100000 }
  | 63 => some { ring := 63, dir := 0, esz := 10, full := 0, cnt := 10, thr := 0, base := 0x13000000 }
  | _ => none

/-- The layout of a ring under an image (R324, R327): a fixed ring takes only BASE from its record. -/
def Image.ring (m : Image) (n : Nat) : Option RingRec :=
  let r := m.ringRecs.find? fun x => decide (x.ring = n)
  match fixedRing n with
  | some f => some { f with base := match r with | some x => x.base | none => f.base }
  | none => if n < 60 then r else none

end Sys2Proof.Machine
end

