-- ==== Sys2Proof/Machine/Points.lean ====
section
/-! DEFINITION. Time, points and rings: the operations by which every block reads and writes points and delivers ring
entries (R26, R318 to R327, R342). -/

namespace Sys2Proof.Machine

open Sys2Proof

/-! ### Time -/

/-- The stroke counter (R25). -/
def State.now (s : State) : Nat := s.sys.stroke.toNat

/-- The heat number (R26). -/
def State.heat (s : State) : Nat := s.now / 100

/-- The present stroke begins a heat (R26). -/
def State.heatBegins (s : State) : Bool := decide (s.now % 100 = 0)

/-- The configured stroke period in 10 ns (R24). -/
def State.period (s : State) : Nat := s.fld F.SYS_STROKE_CFG_STROKE_PERIOD

/-- The whole strokes in a time given in 10 ns (R9: a time is counted in strokes of the configured period). -/
def State.strokesIn (s : State) (t : Nat) : Nat := t / max s.period 1

/-! ### Points -/

/-- The system points that file 06 gives (R167): TYPE and writer class 4. -/
def systemSchema (p : Nat) : Option Schema :=
  let dev (t : Nat) : Option Schema := some { typ := t, writer := 4, ident := 0, age := 0 }
  if 0x100 ≤ p ∧ p < 0x160 then (if p % 4 = 0 then dev 2 else if p % 4 = 3 then none else dev 5)
  else if 0x180 ≤ p ∧ p < 0x1C0 then (if p % 2 = 0 then dev 5 else dev 2)
  else if p = 0x1C0 then dev 5
  else none

/-- The schema of a point under an image; `none` for TYPE 0. -/
def Image.pointSchema (m : Image) (p : Nat) : Option Schema :=
  let c := if p < 0x1000 then systemSchema p else if p < 0x40000 then m.schema p else none
  match c with
  | some x => if x.typ = 0 then none else some x
  | none => none

/-- The schema of a point of the active structure. -/
def State.schema (s : State) (p : Nat) : Option Schema := s.jny.active.pointSchema p

/-- TYPE of a point, 0 where it is not defined. -/
def State.pointType (s : State) (p : Nat) : Nat := match s.schema p with | some x => x.typ | none => 0

/-- The stored fields of a point. -/
def State.point (s : State) (p : Nat) : Point := s.pnt.table.get p

/-- Good quality (R320): only GOOD. -/
def State.pointGood (s : State) (p : Nat) : Bool := decide ((s.schema p).isSome ∧ (s.point p).qual = 0)

/-- A value of a point type as an exact number (R319, R469); `none` for a non-finite FP32 value and for the types that
hold no number. -/
def typedDy (typ : Nat) (v : W64) : Option Dy :=
  let n := v.toNat
  match typ with
  | 1 => some ⟨(n % 2 : Nat), 0⟩
  | 2 => some ⟨signed 32 n, 0⟩
  | 3 => some ⟨(n % 2 ^ 32 : Nat), 0⟩
  | 4 => some ⟨signed 64 n, 0⟩
  | 5 => match fpOf false (BitVec.ofNat 32 n) with
    | .nan => none
    | .inf _ => none
    | x => some x.dy
  | 6 => some (bfVal (BitVec.ofNat 32 n))
  | _ => none

/-- The number a point holds. -/
def State.pointDy (s : State) (p : Nat) : Option Dy := typedDy (s.pointType p) (s.point p).value

/-- The number a point holds, when its quality is good. -/
def State.goodRat (s : State) (p : Nat) : Option Rat :=
  if s.pointGood p then (s.pointDy p).map Dy.toRat else none

/-- A number as a value of a point type, rounded to nearest with ties to even and saturated (R319, R469), and whether it
saturated. -/
def typedOf (typ : Nat) (x : Dy) : W64 × Bool :=
  let i := x.round
  let lim (lo hi : Int) (w : Nat) : W64 × Bool := (BitVec.ofNat 64 (unsignedOf w (clampInt lo hi i)), decide (i < lo ∨ hi < i))
  match typ with
  | 1 => (if x.m ≠ 0 then 1 else 0, false)
  | 2 => lim (-(2 ^ 31)) (2 ^ 31 - 1) 32
  | 3 => lim 0 (2 ^ 32 - 1) 32
  | 4 => lim (-(2 ^ 63)) (2 ^ 63 - 1) 64
  | 5 => ((fpOfDy true false x).1.setWidth 64, false)
  | 6 => let r := toBf x; (r.1.setWidth 64, r.2)
  | _ => (0, false)

/-- A write of a whole point, as a source asks for it (R321). -/
structure PointWrite where
  id    : Nat
  cls   : Nat
  ident : Nat
  value : W64
  qual  : Nat
  time  : Nat
  ofs   : Nat
  deriving DecidableEq, Repr

/-- The source is the point's one writer (R321): by class, and for classes 5 and 6 by identity too. -/
def writerOk (c : Schema) (cls ident : Nat) : Bool :=
  decide (c.writer = cls) && (decide (cls ≠ 5 ∧ cls ≠ 6) || decide (c.ident = ident))

/-- A discarded write is counted, and 0801h is reported once per heat (R321). -/
def State.writerErr (s : State) (p : Nat) : State :=
  let t := s.bumpSat F.PNT_STAT_WRITER_ERR 0
  if t.pnt.writerSaid then t else { t with pnt := { t.pnt with writerSaid := true } }.report 0x0801 p

/-- Store the fields of a write and advance SEQ; the identity of a writer that has no WRITER_ID is free. -/
def State.storePoint (s : State) (w : PointWrite) : State :=
  let s := s.count 12 (w.cls - 1)
  { s with pnt := { s.pnt with table := s.pnt.table.upd w.id fun p =>
      { value := w.value, qual := w.qual, seq := (p.seq + 1) % 65536, cls := w.cls,
        ident := if w.cls = 5 ∨ w.cls = 6 then w.ident else (Config.writerIdent w.cls w.id (p.seq + 1)).toNat, time := w.time, ofs := w.ofs } } }

/-- A write through the ring engine (R321): stored where the source is the point's writer, else discarded and counted. -/
def State.writePoint (s : State) (w : PointWrite) : State :=
  match s.schema w.id with
  | some c => if writerOk c w.cls w.ident then s.storePoint w else s.writerErr w.id
  | none => s.writerErr w.id

/-- A device block writes a number to a point at the present stroke (R469), with a quality. -/
def State.writeNum (s : State) (cls p : Nat) (x : Dy) (qual : Nat := 0) : State :=
  s.writePoint { id := p, cls := cls, ident := 0, value := (typedOf (s.pointType p) x).1, qual := qual, time := s.now, ofs := 0 }

/-- A point takes a quality and keeps everything else (R322, R334). -/
def State.markPoint (s : State) (p q : Nat) : State :=
  { s with pnt := { s.pnt with table := s.pnt.table.upd p fun x => { x with qual := q } } }

/-- The 32 bytes of a point as a reader sees it (R318). -/
def State.pointBytes (s : State) (p : Nat) : List Byte :=
  let x := s.point p
  let c := (s.schema p).getD { typ := 0, writer := 0, ident := 0, age := 0 }
  leBytes 8 x.value.toNat ++ [BitVec.ofNat 8 c.typ, BitVec.ofNat 8 x.qual] ++ leBytes 2 x.seq
    ++ leBytes 4 (x.cls * 2 ^ 28 + x.ident % 4096 * 2 ^ 16) ++ leBytes 6 x.time ++ leBytes 2 x.ofs ++ leBytes 2 c.age ++ leBytes 6 0

/-! ### Rings -/

/-- Figures of a ring from its registers (R325). -/
def State.ringEntries (s : State) (n : Nat) : Nat := 2 ^ s.fld F.PNT_RING_CFG_ENTRIES_EXP n
def State.ringEsize (s : State) (n : Nat) : Nat := 2 ^ s.fld F.PNT_RING_CFG_ESIZE_EXP n
def State.ringBase (s : State) (n : Nat) : Nat := s.pair .PNT_RING_BASE_LO .PNT_RING_BASE_HI n
def State.ringProd (s : State) (n : Nat) : Nat := s.fld F.PNT_RING_PROD_INDEX n
def State.ringCons (s : State) (n : Nat) : Nat := s.fld F.PNT_RING_CONS_INDEX n

/-- Entries waiting: PROD − CONS modulo 2 × entries (R325). -/
def State.ringCount (s : State) (n : Nat) : Nat :=
  (s.ringProd n + 2 * s.ringEntries n - s.ringCons n) % (2 * s.ringEntries n)

/-- The ring exists with the given direction and entry size (R468). -/
def State.ringFits (s : State) (n dir esize : Nat) : Bool :=
  decide (n < 64 ∧ s.fld F.PNT_RING_CFG_DEFINED n = 1 ∧ s.fld F.PNT_RING_CFG_DIR n = dir ∧ s.ringEsize n = esize)

/-- The ring has room for `k` more entries. -/
def State.ringRoom (s : State) (n k : Nat) : Bool := decide (s.ringCount n + k ≤ s.ringEntries n)

/-- The interrupt of a delivery ring: raised while entries wait and number at least IRQ_THR (R326). -/
def State.ringIrq (s : State) (n : Nat) : State :=
  s.setFlag F.PNT_RING_STAT_IRQ n
    (decide (0 < s.ringCount n ∧ s.fld F.PNT_RING_CFG_IRQ_THR n ≤ s.ringCount n ∧ s.fld F.PNT_RING_CFG_DIR n = 0))

/-- A drop: counted in LOST, and 0882h reported once per heat for the ring (R326, R468). -/
def State.ringLost (s : State) (n : Nat) : State :=
  let t := (s.bumpSat F.PNT_RING_STAT_LOST n).count 12 (8 + 2 * (n / 8))
  if t.pnt.lostSaid.contains n then t
  else { t with pnt := { t.pnt with lostSaid := n :: t.pnt.lostSaid } }.report 0x0882 n

/-- Write an entry at PROD and advance PROD past it (R325). -/
def State.ringPush (s : State) (n : Nat) (entry : List Byte) : State :=
  let t := s.setBytes (s.ringBase n + s.ringProd n % s.ringEntries n * s.ringEsize n) entry
  ((t.setFld F.PNT_RING_PROD_INDEX n ((s.ringProd n + 1) % (2 * s.ringEntries n))).ringIrq n).count 12 (7 + 2 * (n / 8))

/-- A producer without a queue of its own delivers an entry (R326, R468): a full ring, or a ring of another size or none,
drops it. -/
def State.ringDeliver (s : State) (n : Nat) (entry : List Byte) : State :=
  if s.ringFits n 0 entry.length && s.ringRoom n 1 then s.ringPush n entry else s.ringLost n

/-- The device advances CONS of a submission ring past one entry (R325). -/
def State.ringPop (s : State) (n : Nat) : State :=
  s.setFld F.PNT_RING_CONS_INDEX n ((s.ringCons n + 1) % (2 * s.ringEntries n))

/-- Load the ring registers from an image (R324, R327); a ring whose record changes restarts its indices. -/
def State.loadRings (s : State) (m : Image) (all : Bool) : State :=
  s.each (List.range 64) fun n t =>
    let same := decide (m.ring n = t.jny.active.ring n) && !all
    let t := match m.ring n with
      | some r =>
        (((((((t.setFld F.PNT_RING_CFG_DEFINED n 1).setFld F.PNT_RING_CFG_DIR n r.dir).setFld F.PNT_RING_CFG_FULL n r.full
          ).setFld F.PNT_RING_CFG_ESIZE_EXP n r.esz).setFld F.PNT_RING_CFG_ENTRIES_EXP n r.cnt
          ).setFld F.PNT_RING_CFG_IRQ_THR n r.thr).setPair .PNT_RING_BASE_LO .PNT_RING_BASE_HI n r.base)
      | none => (t.setReg .PNT_RING_CFG n 0).setPair .PNT_RING_BASE_LO .PNT_RING_BASE_HI n 0
    if same then t else (t.setReg .PNT_RING_PROD n 0).setReg .PNT_RING_CONS n 0

/-! ### Records of partners and violations -/

/-- Record something the device sends; the model's own record. -/
def State.send (s : State) (via : Channel) (dest : Nat) (bytes : List Byte) : State :=
  { s with sent := s.sent ++ [⟨via, dest, bytes⟩] }

/-- A violation (R341, R342): counted, and once a second per sender and violation a record in ring 61 with 0783h; further
occurrences in that second count in the REPEAT of the next record. A PORT, SENDER or DETAIL that the spec does not state (`none`)
is a free value; a slot of FFh is an unknown one.
`key` tells apart the senders that have no SENDER: a CAN controller (R362), a Tenon connection, a Truss device. -/
def State.violation (s : State) (group code : Nat) (port : Option Nat) (slot : Nat) (sender : Option Nat) (msg : List Byte)
    (detail : Option Nat := none) (key : Nat := 0) : State :=
  let s := (s.bumpSat F.NET_VIOL_CNT_COUNT 0).count 11 38
  let who := sender.getD 0 + 2 ^ 64 * key
  let hit (v : Violated) : Bool := decide (v.sender = who ∧ v.group = group ∧ v.code = code)
  let write (more : Nat) (s : State) : State :=
    let rest := s.net.violated.filter fun v => !hit v
    let t := { s with net := { s.net with violated := rest ++ [(⟨who, group, code, s.now, 0⟩ : Violated)] } }
    let entry := leBytes 6 s.now ++ [BitVec.ofNat 8 group, BitVec.ofNat 8 code, BitVec.ofNat 8 (port.getD (s.fresh 8).toNat),
      BitVec.ofNat 8 slot] ++ leBytes 2 more ++ leBytes 8 (sender.getD (s.fresh 64).toNat)
      ++ leBytes 4 (detail.getD (s.fresh 32).toNat) ++ (msg ++ leBytes 8 0).take 8
    (t.tick.ringDeliver 61 entry).report 0x0783 slot
  match s.net.violated.find? hit with
  | none => write 0 s
  | some v =>
    if s.now < v.at_ + s.strokesIn 100000000 then
      { s with net := { s.net with violated := s.net.violated.map fun x => if hit x then { x with more := x.more + 1 } else x } }
    else write v.more s

end Sys2Proof.Machine
end

