-- ==== Sys2Proof/Machine/Structure.lean ====
section
/-! DEFINITION. What the LOOP, ACQ and FRG sections of the active image say of programs, monitors, bindings, sequences, slots
and temperature tables (R51, R52, R74, R75, R143 to R149), and which bays consume what. -/

namespace Sys2Proof.Machine

open Sys2Proof

/-! ### Variant (R1, R2) -/

/-- Direct phases, Calfin engines and battery strings of the part. -/
def State.phaseCount (s : State) : Nat :=
  match s.sys.variant with | .gzM9600 => 96 | .gzM9480 => 48 | .gzM9300 => 0
def State.engineCount (s : State) : Nat :=
  match s.sys.variant with | .gzM9600 => 48 | .gzM9480 => 24 | .gzM9300 => 12
def State.stringCount (s : State) : Nat :=
  match s.sys.variant with | .gzM9600 => 16 | .gzM9480 => 8 | .gzM9300 => 0
/-- The part has the Forge block, and the Feeder link. -/
def State.hasForge (s : State) : Bool := s.sys.variant != .gzM9300
def State.hasFeeder (s : State) : Bool := s.sys.variant == .gzM9600

/-- SYS_FEAT0 and SYS_FEAT1 of the part (R2, R3). -/
def State.feat0 (s : State) : W32 :=
  match s.sys.variant with | .gzM9600 => 0x07FC3060 | .gzM9480 => 0x07DA1830 | .gzM9300 => 0x07C00C00
def State.feat1 (s : State) : W32 := s.reg .SYS_FEAT1

/-! ### Pair (R291, R303) -/

/-- The standby of a pair: a bound device that does not hold the peg. -/
def State.standby (s : State) : Bool := decide (2 ≤ s.fld F.PEG_STAT_STATE ∧ s.fld F.PEG_STAT_STATE ≤ 4)

/-! ### LOOP (R143 to R149) -/

/-- A program record (R144). -/
structure Program where
  engine : Nat
  fmt : Nat
  rate : Nat
  bay : Option Nat
  qthr : Nat
  eInit : List Int
  codeOfs : Nat
  codeLen : Nat
  constLen : Nat
  constOfs : Nat
  stateOfs : Nat
  stateLen : Nat
  wcet : Nat
  deriving DecidableEq, Repr

/-- Program record `k` of a LOOP body. -/
def loopProgram (b : List Byte) (k : Nat) : Program :=
  let o := 16 + 48 * k
  { engine := u8 b o, fmt := u8 b (o + 1) % 2, rate := u8 b (o + 2), bay := if u8 b (o + 3) = 255 then none else some (u8 b (o + 3)),
    qthr := u8 b (o + 4), eInit := (List.range 8).map fun i => signed 8 (u8 b (o + 8 + i)), codeOfs := u32 b (o + 16),
    codeLen := u16 b (o + 20), constLen := u16 b (o + 22), constOfs := u32 b (o + 24), stateOfs := u32 b (o + 28),
    stateLen := u16 b (o + 32), wcet := u32 b (o + 36) }

/-- All program records. -/
def loopPrograms (b : List Byte) : List Program := (List.range (u8 b 0)).map (loopProgram b)

/-- A binding record (R145). -/
structure Binding where
  engine : Nat
  result : Nat
  typ : Nat
  scale : Int
  dest : Nat
  deriving DecidableEq, Repr

/-- All binding records, in section order. -/
def loopBindings (b : List Byte) : List Binding :=
  (List.range (u16 b 2)).map fun k =>
    let o := 16 + 48 * u8 b 0 + 8 * k
    { engine := u8 b o, result := u8 b (o + 1), typ := u8 b (o + 2), scale := signed 8 (u8 b (o + 3)), dest := u32 b (o + 4) }

/-- A monitor record (R149). -/
structure Monitor where
  engine : Nat
  mon : Nat
  action : Nat
  band : W32
  timer : Nat
  deriving DecidableEq, Repr

/-- All monitor records. -/
def loopMonitors (b : List Byte) : List Monitor :=
  (List.range (u8 b 1)).map fun k =>
    let o := 16 + 48 * u8 b 0 + 8 * u16 b 2 + 16 * k
    { engine := u8 b o, mon := u8 b (o + 1), action := u8 b (o + 2), band := BitVec.ofNat 32 (u32 b (o + 4)), timer := u16 b (o + 8) }

/-- The program of an engine under an image. -/
def Image.program (m : Image) (e : Nat) : Option Program := (loopPrograms (m.body tyLOOP)).find? fun p => decide (p.engine = e)

/-- The program of an engine in the active structure. -/
def State.program (s : State) (e : Nat) : Option Program := s.jny.active.program e

/-- The monitor of an engine in the active structure. -/
def State.monitor (s : State) (e m : Nat) : Option Monitor :=
  (loopMonitors (s.body tyLOOP)).find? fun x => decide (x.engine = e ∧ x.mon = m)

/-- The bay of an engine's program. -/
def State.engineBay (s : State) (e : Nat) : Option Nat := (s.program e).bind fun p => p.bay

/-! ### ACQ (R52, R74, R75) -/

/-- A sequence entry (R74). -/
structure Seq where
  cnv : Nat
  urgent : Bool
  lpOk : Bool
  every : Bool
  src : Nat
  sel : Nat
  arg : Nat
  delay : Nat
  first : Nat
  slots : Nat
  deriving DecidableEq, Repr

/-- Sequence entry `k` of an ACQ body. -/
def acqSeq (b : List Byte) (k : Nat) : Seq :=
  let o := 304 + 16 * k
  let f := u8 b (o + 1)
  { cnv := u8 b o, urgent := f.testBit 0, lpOk := f.testBit 1, every := f.testBit 2, src := u8 b (o + 2), sel := u8 b (o + 3),
    arg := u16 b (o + 4), delay := u16 b (o + 6) % 4096, first := u16 b (o + 8), slots := u8 b (o + 10) }

/-- The number of sequences of an ACQ body. -/
def acqSeqs (b : List Byte) : Nat := u8 b 0

/-- A slot entry (R75). -/
structure SlotRec where
  input : Nat
  burst : Nat
  typ : Nat
  dest : Nat
  deriving DecidableEq, Repr

/-- Slot entry `k` of an ACQ body. -/
def acqSlot (b : List Byte) (k : Nat) : SlotRec :=
  let o := 304 + 16 * acqSeqs b + 8 * k
  { input := u8 b o, burst := u8 b (o + 1) % 8, typ := u8 b (o + 2), dest := u32 b (o + 4) }

/-- The slots of a sequence, in order. -/
def acqSlotsOf (b : List Byte) (q : Seq) : List SlotRec := (List.range q.slots).map fun j => acqSlot b (q.first + j)

/-- A sequence of the active structure. -/
def State.sequence (s : State) (n : Nat) : Option Seq :=
  let b := s.body tyACQ
  if n < acqSeqs b then some (acqSeq b n) else none

/-- The bays whose loop program reads a Calfin destination of a sequence (R85). -/
def State.consumers (s : State) (n : Nat) : List Nat :=
  match s.sequence n with
  | none => []
  | some q =>
    ((acqSlotsOf (s.body tyACQ) q).filterMap fun x =>
      if x.typ = 0 then s.engineBay (x.dest / 2 ^ 24 % 64) else none).eraseDups

/-- The bays whose loop program reads a Calfin destination of a converter (R88). -/
def State.cnvConsumers (s : State) (n : Nat) : List Nat :=
  ((List.range (acqSeqs (s.body tyACQ))).flatMap fun k =>
    if (acqSeq (s.body tyACQ) k).cnv = n then s.consumers k else []).eraseDups

/-! ### FRG (R51) -/

/-- Offsets of the parts of the FRG body. -/
def frgPhaseOfs (b : List Byte) : Nat := 16 + 16 * u8 b 1
def frgNtcOfs (b : List Byte) : Nat := frgPhaseOfs b + 12 * u8 b 0
def frgFldOfs (b : List Byte) : Nat := frgNtcOfs b + 64 * u8 b 2

/-- The NTC table a phase names; `none` for FFh. -/
def frgNtc (b : List Byte) (p : Nat) : Option Nat :=
  let v := u8 b (frgPhaseOfs b + 12 * p + 8)
  if v = 255 then none else some v

/-- The pairs of an NTC table (R51). -/
def frgTable (b : List Byte) (k : Nat) : List (Int × Int) :=
  (List.range 16).map fun i =>
    let o := frgNtcOfs b + 64 * k + 4 * i
    (signed 16 (u16 b o), signed 16 (u16 b (o + 2)))

/-- Linear interpolation between the pairs of a table in ascending order, clamped to its ends (R51), rounded to nearest. -/
def interpolate : List (Int × Int) → Rat → Int
  | [], _ => 0
  | [p], _ => p.2
  | p :: q :: t, x =>
    if x ≤ p.1 then p.2
    else if x < q.1 then
      let y : Rat := p.2 + (q.2 - p.2) * (x - p.1) / (q.1 - p.1)
      roundDiv y.num y.den
    else interpolate (q :: t) x

/-! ### NET (R53, R332) -/

/-- Offsets of the parts of the NET body. -/
def netStreams (b : List Byte) : Nat := u16 b 0x10
def netGclOfs (b : List Byte) : Nat := 64 + 80 + 16 * netStreams b

/-- The gate control lists: port and cycle time in strokes; and the offset behind them. -/
def netGcls (b : List Byte) : List (Nat × Nat) × Nat :=
  (List.range (u8 b 0x14)).foldl (fun x _ => (x.1 ++ [(u8 b x.2, u8 b (x.2 + 1))], x.2 + 8 + 4 * u16 b (x.2 + 2))) ([], netGclOfs b)

/-- MODE of a port. -/
def netPortMode (b : List Byte) (p : Nat) : Nat := u8 b (64 + 8 * p + 1)

/-- The session record of an output: the image of NET_SESS_CFG. -/
def netSession (b : List Byte) (o : Nat) : Nat := u32 b ((netGcls b).2 + 12 * o + 8)

/-- A partner slot record (R332). -/
structure SlotDef where
  slot : Nat
  kind : Nat
  any  : Bool
  ca   : Nat
  key  : Nat
  eui  : Nat
  stream : Nat
  objs : Nat
  base : Nat
  live : Nat
  conns : Nat
  deriving DecidableEq, Repr

/-- All partner slot records of a NET body. -/
def netSlots (b : List Byte) : List SlotDef :=
  let o0 := (netGcls b).2 + 384
  (List.range (u16 b 0x12)).map fun k =>
    let o := o0 + 32 * k
    { slot := u8 b o, kind := u8 b (o + 1), any := (u8 b (o + 2)).testBit 0, ca := u16 b (o + 4), key := u16 b (o + 6), eui := uN b (o + 8) 8,
      stream := u16 b (o + 16), objs := u16 b (o + 18), base := u32 b (o + 20), live := u16 b (o + 24), conns := u32 b (o + 28) }

/-- The partner slots of the active structure, the record of one of them, and the slot that a Tenon connection belongs to. -/
def State.slotDefs (s : State) : List SlotDef := netSlots (s.body tyNET)
def State.slotDef (s : State) (n : Nat) : Option SlotDef := s.slotDefs.find? fun d => decide (d.slot = n)
def State.connSlot (s : State) (c : Nat) : Option Nat := (s.slotDefs.find? fun d => d.conns.testBit c).map fun d => d.slot

/-- A violation on a Tenon connection (R341): of the partner whose slot the connection belongs to. -/
def State.tenonViolation (s : State) (c code : Nat) (msg : List Byte) : State :=
  match s.connSlot c with
  | some n => s.violation 3 code none n (some (s.net.slots.get n).sender) msg
  | none => s.violation 3 code none 255 none msg (key := c)

end Sys2Proof.Machine
end

