-- ==== Sys2Proof/Machine/Forge.lean ====
section
/-! DEFINITION. Forge: the PWM sequence of a phase, the update at each marker, balancing, shedding and the protections
(file 04, R96 to R123). -/

namespace Sys2Proof.Machine

open Sys2Proof

/-! ### Phases and bays -/

/-- Change a phase, and a bay. -/
def State.onPhase (s : State) (p : Nat) (f : Phase → Phase) : State := { s with frg := { s.frg with phases := s.frg.phases.upd p f } }
def State.onBay (s : State) (b : Nat) (f : Bay → Bay) : State := { s with frg := { s.frg with bays := s.frg.bays.upd b f } }
def State.phase (s : State) (p : Nat) : Phase := s.frg.phases.get p
def State.bay (s : State) (b : Nat) : Bay := s.frg.bays.get b

/-- The bay of a phase; none for a phase that is absent or in no bay (R97, R98). -/
def State.phaseBay (s : State) (p : Nat) : Option Nat :=
  if p < s.phaseCount ∧ s.fld F.FRG_PH_CFG_IN_BAY p = 1 then some (s.fld F.FRG_PH_CFG_BAY p) else none

/-- The phases of a bay in slot order, which is ascending phase number (R97). -/
def State.bayPhases (s : State) (b : Nat) : List Nat := (List.range s.phaseCount).filter fun p => decide (s.phaseBay p = some b)

/-- A phase is dropped (R118). -/
def State.dropped (s : State) (p : Nat) : Bool := s.flag F.FRG_PH_STAT_DROP p

/-- The bay runs: RUN is set, no fault stands, and it is not released and waiting for RUN to rise (R104, R120). -/
def State.bayLive (s : State) (b : Nat) : Bool :=
  s.flag F.FRG_BAY_CTL_RUN b && !s.flag F.FRG_BAY_STAT_FAULT b && !(s.bay b).blocked

/-- The running phases of a bay: neither shed nor dropped (R101). -/
def State.running (s : State) (b : Nat) : List Nat :=
  if s.bayLive b then (s.bayPhases b).filter fun p => !s.dropped p && !(s.phase p).shed else []

/-- The phase is a running phase of its bay. -/
def State.isRunning (s : State) (p : Nat) : Bool :=
  match s.phaseBay p with
  | some b => s.bayLive b && !s.dropped p && !(s.phase p).shed
  | none => false

/-- The phases of a bay that belong to its period grid: neither shed nor dropped, whether RUN still stands or not (R101, R104). -/
def State.members (s : State) (b : Nat) : List Nat := (s.bayPhases b).filter fun p => !s.dropped p && !(s.phase p).shed

/-- Nothing keeps the gates of a phase low but a RUN that fell: no fault of its bay, no drop, not shed (R104, R122). -/
def State.mayPulse (s : State) (p : Nat) : Bool :=
  match s.phaseBay p with
  | some b => !s.flag F.FRG_BAY_STAT_FAULT b && !(s.bay b).blocked && !s.dropped p && !(s.phase p).shed
  | none => false

/-- RUNNING and AVAIL follow the phases: AVAIL counts those neither dropped nor faulted (R118; log entry 10). -/
def State.countBay (s : State) (b : Nat) : State :=
  let avail := if s.flag F.FRG_BAY_STAT_FAULT b then 0 else ((s.bayPhases b).filter fun p => !s.dropped p).length
  (s.setFld F.FRG_BAY_STAT_RUNNING b (s.running b).length).setFld F.FRG_BAY_STAT_AVAIL b avail

/-- Both gates of a phase off. -/
def State.gatesOff (s : State) (p : Nat) : State := s.onPhase p fun x => { x with high := false, low := false, going := false }

/-- A bay fault (R120): every phase off, FAULT and CAUSE recorded, 0301h reported. A faulted bay keeps its first cause. -/
def State.faultBay (s : State) (b cause : Nat) : State :=
  if s.flag F.FRG_BAY_STAT_FAULT b || !s.hasForge then s
  else
    let t := s.each (s.bayPhases b) fun p t => t.gatesOff p
    let t := (t.setFld F.FRG_BAY_STAT_FAULT b 1).setFld F.FRG_BAY_STAT_CAUSE b cause
    let t := t.setFld F.FRG_STAT_BAY_FAULT 0 (withBit (t.fld F.FRG_STAT_BAY_FAULT) b true)
    ((t.onBay b fun x => { x with ordered := false, step := none }).countBay b).report 0x0301 b

/-- A fault ordered by another block for the next marker (R120, CAUSE 5). -/
def State.orderFault (s : State) (b : Nat) : State := s.onBay b fun x => { x with ordered := true }

/-- Mark a phase in the drop registers. -/
def State.setDrop (s : State) (p : Nat) (d : Bool) : State :=
  let s := s.setFlag F.FRG_PH_STAT_DROP p d
  if p < 32 then s.setFld F.FRG_PH_DROP0_DROP 0 (withBit (s.fld F.FRG_PH_DROP0_DROP) p d)
  else if p < 64 then s.setFld F.FRG_PH_DROP1_DROP 0 (withBit (s.fld F.FRG_PH_DROP1_DROP) (p - 32) d)
  else s.setFld F.FRG_PH_DROP2_DROP 0 (withBit (s.fld F.FRG_PH_DROP2_DROP) (p - 64) d)

/-- Drop a phase (R118): it stays off, AVAIL falls, its shed step ends or the step of another phase is re-based where the dropped one
counted in A, the offsets are re-spread at the next marker, and a bay with no phase left is faulted with CAUSE 4. DESIGN CHOICE (log
entry 29): SHED stays REDUCED when the only shed phase is dropped outside a step. -/
def State.dropPhase (s : State) (p cause code : Nat) : State :=
  match s.phaseBay p with
  | none => s
  | some b =>
    if s.dropped p then s
    else
      let t := ((s.setDrop p true).setFld F.FRG_PH_STAT_CAUSE p cause).gatesOff p
      let anyShed := (t.bayPhases b).any fun q => (t.phase q).shed && !t.dropped q
      let t := match (t.bay b).step with
        | some (v, k, a) =>
          if v = p then
            (t.onBay b fun x => { x with step := none, spread := true }).setFld F.FRG_BAY_STAT_SHED b (if anyShed then 2 else 0)
          else t.onBay b fun x => { x with step := some (v, k, if (t.phase p).shed then a else a - 1), spread := true }
        | none => t.onBay b fun x => { x with spread := true }
      let t := (t.countBay b).report code p
      if (t.bayPhases b).all fun q => t.dropped q then t.faultBay b 4 else t

/-! ### Periods and offsets -/

/-- Fine steps of a stroke (R99). -/
def State.strokeSteps (s : State) : Nat := 128 * s.period

/-- The period P of a bay in fine steps (R100). -/
def State.bayPeriod (s : State) (b : Nat) : Nat :=
  let mk := s.fld F.FRG_BAY_CFG_MK b
  if s.fld F.FRG_BAY_CFG_MODE b = 0 then mk * s.strokeSteps else s.strokeSteps / max mk 1

/-- The offset of rank j among A running phases (R101), rounded down. -/
def State.offsetOf (s : State) (b j a : Nat) : Nat :=
  let p := s.bayPeriod b
  (s.fld F.FRG_BAY_AUX_OFS b * p * a + 256 * j * p) / (256 * max a 1)

/-- The reference instants of a bay in fine steps after a marker of count n (R100). -/
def State.refInstants (s : State) (b n : Nat) : List Nat :=
  let mk := s.fld F.FRG_BAY_CFG_MK b
  if s.fld F.FRG_BAY_CFG_MODE b = 0 then (if n % max mk 1 = 0 then [0] else [])
  else (List.range mk).map fun i => i * (s.strokeSteps / max mk 1)

/-- Re-spread the offsets of a bay (R102): a going phase's next period is stretched by (new − old) mod P, beside a stretch that it has
not yet taken. -/
def State.respread (s : State) (b : Nat) : State :=
  let run := s.running b
  let p := max (s.bayPeriod b) 1
  let t := (run.zipIdx).foldl (fun t (q, j) =>
    let n := t.offsetOf b j run.length
    t.onPhase q fun x => { x with stretch := if x.going then x.stretch + (n % p + p - x.offset % p) % p else 0, offset := n }) s
  (t.onBay b fun x => { x with spread := false }).countBay b

/-! ### RUN (R104) -/

/-- Truss sets or clears RUN of a bay. -/
def State.setRun (s : State) (b : Nat) (on : Bool) : State :=
  let was := s.flag F.FRG_BAY_CTL_RUN b
  let t := s.setFlag F.FRG_BAY_CTL_RUN b on
  if on && !was then
    let t := t.each (t.bayPhases b) fun p t => t.onPhase p fun x => { x with shed := false, going := false, full := 0, opens := 0 }
    let t := t.each (t.bayPhases b) fun p t => t.setFlag F.FRG_PH_STAT_SHED p false
    ((t.setFld F.FRG_BAY_STAT_SHED b 0).onBay b fun x => { x with step := none, blocked := false, spread := true }).countBay b
  else if !on && was then (t.onBay b fun x => { x with step := none }).countBay b
  else t

/-! ### The update at a marker (R106, R108 to R111, R121) -/

/-- The share of a phase from a shed step in progress (R110); 1 otherwise (log entry 11). -/
def State.shedShare (s : State) (b p : Nat) : Rat :=
  match (s.bay b).step with
  | some (v, k, a) =>
    let f : Rat := 1 - (k : Rat) / (max (s.fld F.FRG_BAY_SHED_SHED_RAMP b) 1 : Nat)
    if p = v then f else if a ≤ 1 then 1 else ((a : Rat) - f) / ((a : Rat) - 1)
  | none => 1

/-- The code of one phase (R106): REF × share with 4 fraction bits, dithered or cut, clamped to IMAX. -/
def State.updateCode (s : State) (b p : Nat) : State :=
  let x := s.phase p
  let trim : Rat := if s.fld F.FRG_PH_CFG_TSRC p = 0 then 0 else x.trim
  let v := (s.fld F.FRG_BAY_REF_REF b : Rat) * (s.shedShare b p * (1 + trim / 10000))
  let n := v.floor.toNat
  let imax := s.fld F.FRG_BAY_CFG_IMAX b
  let dith := s.flag F.FRG_CTL_DITHER
  let acc := if dith then x.dither + n % 16 else 0
  let code := n / 16 + acc / 16
  s.onPhase p fun y => { y with
    was := y.shadow
    wasMark := y.shadowMark
    wasDither := y.dither
    dither := if dith then acc % 16 else y.dither
    shadow := min code imax
    shadowMark := decide (imax < code) }

/-- The temperature of a phase and whether it is valid (R108). -/
def State.phaseTemp (s : State) (p : Nat) : Int × Bool :=
  match s.fld F.FRG_PH_CFG_TSRC p with
  | 1 => ((s.phase p).temp, (s.phase p).tempOk)
  | 2 => (signed 16 (s.fld F.FRG_PH_TEMP_TEMP p), (s.phase p).fresh)
  | _ => (0, false)

/-- A fraction kept within ± a bound. -/
def clampRat (lim x : Rat) : Rat := if x < -lim then -lim else if lim < x then lim else x

/-- The mean of a list of fractions, 0 for an empty one. -/
def meanRat (l : List Rat) : Rat := if l = [] then 0 else l.sum / (l.length : Rat)

/-- TRIM_MAX in 0.01 %, at most 20 % (R108). -/
def State.trimMax (s : State) : Rat := ((min (s.fld F.FRG_BAL_CFG_TRIM_MAX) 200 * 10 : Nat) : Rat)

/-- One phase's trim moved toward its target by at most TRIM_SLEW, with the registers that show it. -/
def State.moveTrim (s : State) (p : Nat) (target : Option Rat) : State :=
  let x := s.phase p
  let slew : Rat := (s.fld F.FRG_BAL_CFG_TRIM_SLEW : Nat)
  let new := match target with | some t => x.trim + clampRat slew (t - x.trim) | none => x.trim
  let at_ := decide (s.trimMax ≤ new ∨ new ≤ -s.trimMax)
  let t := s.onPhase p fun y => { y with trim := new, atMax := if at_ && decide (new ≠ 0) then y.atMax + 1 else 0 }
  t.setFld F.FRG_PH_TRIM_TRIM p (unsignedOf 11 (roundDiv (new / 10).num (new / 10).den))

/-- Thermal balancing of a bay at a heat boundary, in the five steps of R108. -/
def State.trimBay (s : State) (b : Nat) : State :=
  let run := (s.running b).filter fun p => decide (s.fld F.FRG_PH_CFG_TSRC p ≠ 0)
  let valid := run.filter fun p => (s.phaseTemp p).2
  let temps := valid.map fun p => ((s.phaseTemp p).1 : Rat) / 8
  let mean := meanRat temps
  let gain : Rat := (s.fld F.FRG_BAL_CFG_BAL_GAIN : Nat)
  let first := temps.map fun t => clampRat s.trimMax (-gain * (t - mean))
  let m := meanRat first
  let targets := (valid.zip first).map fun c => (c.1, clampRat s.trimMax (c.2 - m))
  s.each run fun p t =>
    match targets.find? fun c => decide (c.1 = p) with
    | some c =>
      let t := (t.onPhase p fun y => { y with stale := 0 }).moveTrim p (some c.2)
      (t.setFld F.FRG_PH_TRIM_TEMP p (unsignedOf 16 (s.phaseTemp p).1)).setFlag F.FRG_PH_STAT_TSTALE p false
    | none =>
      let t := t.onPhase p fun y => { y with stale := y.stale + 1 }
      (t.moveTrim p (if 100 ≤ (t.phase p).stale then some 0 else none)).setFlag F.FRG_PH_STAT_TSTALE p true

/-- A phase ranks above another for shedding: a valid temperature before none, then the hotter, then the higher number. -/
def State.hotter (s : State) (p q : Nat) : Bool :=
  let a := s.phaseTemp p
  let c := s.phaseTemp q
  if a.2 != c.2 then a.2 else if a.2 && decide (a.1 ≠ c.1) then decide (c.1 < a.1) else decide (q < p)

/-- A phase ranks above another for re-entry: a valid temperature before none, then the cooler, then the lower number. -/
def State.cooler (s : State) (p q : Nat) : Bool :=
  let a := s.phaseTemp p
  let c := s.phaseTemp q
  if a.2 != c.2 then a.2 else if a.2 && decide (a.1 ≠ c.1) then decide (a.1 < c.1) else decide (p < q)

/-- The first of a list by a ranking. -/
def bestBy (better : Nat → Nat → Bool) : List Nat → Option Nat
  | [] => none
  | p :: t => match bestBy better t with
    | none => some p
    | some q => if better p q then some p else some q

/-- A shed phase re-enters (R109, R111): it starts at the first instant of its new offset. -/
def State.reenter (s : State) (b p : Nat) : State :=
  ((s.onPhase p fun x => { x with shed := false, going := false, full := 0, opens := 0 }).setFlag F.FRG_PH_STAT_SHED p false).onBay b
    fun x => { x with spread := true }

/-- The load step of R111: a step in progress is reversed, every shed phase re-enters, shares return to 1, SHED becomes
HOLD and 0381h is reported. -/
def State.loadStep (s : State) (b : Nat) : State :=
  let t := s.onBay b fun x => { x with step := none, holdFrom := s.heat }
  let t := t.each ((t.bayPhases b).filter fun p => (t.phase p).shed && !t.dropped p) fun p t => t.reenter b p
  (t.setFld F.FRG_BAY_STAT_SHED b 3).report 0x0381 b

/-- Shedding at a heat boundary (R109): start to shed the hottest phase, or let the coolest shed phase re-enter. -/
def State.shedChoice (s : State) (b : Nat) : State :=
  let hi := s.fld F.FRG_BAY_REF_REF b / 256
  let run := s.running b
  let shed := (s.bayPhases b).filter fun p => (s.phase p).shed && !s.dropped p
  if hi ≤ s.fld F.FRG_BAY_SHED_SHED_LO b ∧ s.fld F.FRG_BAY_SHED_MIN_PH b < run.length then
    match bestBy s.hotter run with
    | some v => ((s.onBay b fun x => { x with step := some (v, 0, run.length) }).setFld F.FRG_BAY_STAT_SHED b 1).count 9 (56 + b)
    | none => s
  else if s.fld F.FRG_BAY_SHED_ADD_HI b ≤ hi then
    match bestBy s.cooler shed with
    | some p => (s.reenter b p).setFld F.FRG_BAY_STAT_SHED b (if shed.length ≤ 1 then 0 else 2)
    | none => s
  else s

/-- The bay takes part in shedding: SHED_EN = 1 and STEP_DET ≠ 0 (R111). DESIGN CHOICE (log entry 29): a commit that ends this while SHED
is not FULL leaves SHED, a step in progress and the shed phases as they are. -/
def State.sheds (s : State) (b : Nat) : Bool :=
  decide (s.fld F.FRG_BAY_SHED_SHED_EN b = 1 ∧ s.fld F.FRG_BAY_AUX_STEP_DET b ≠ 0)

/-- A release accepted in the stroke before, and a fault ordered for this marker (R120, R121). DESIGN CHOICE (log entry 29): a release
sets CAUSE to 0 with FAULT. -/
def State.forgeFaultBay (s : State) (b : Nat) : State :=
  let s := if (s.bay b).release then
      let t := (s.setFld F.FRG_BAY_STAT_FAULT b 0).setFld F.FRG_BAY_STAT_CAUSE b 0
      let t := t.setFld F.FRG_STAT_BAY_FAULT 0 (withBit (t.fld F.FRG_STAT_BAY_FAULT) b false)
      (t.onBay b fun x => { x with release := false, blocked := true }).countBay b
    else s
  if (s.bay b).ordered then (s.onBay b fun x => { x with ordered := false }).faultBay b 5 else s

/-- What the update of a bay would have to be taken back for, should it overrun (R107). -/
def State.keepPrior (s : State) (b : Nat) : State :=
  let s := s.each (s.bayPhases b) fun p t => t.onPhase p fun y => { y with
    wasTrim := y.trim, wasStale := y.stale, wasAtMax := y.atMax, wasOffset := y.offset, wasStretch := y.stretch, wasShed := y.shed }
  s.onBay b fun x => { x with prior := ⟨x.ref, x.step, x.holdFrom, s.fld F.FRG_BAY_STAT_SHED b, x.spread⟩ }

/-- The marker's update of one bay, in the order of R121 after its faults. -/
def State.forgeBay (s : State) (b : Nat) : State :=
  let s := s.keepPrior b
  let s := s.onBay b fun x => { x with ovsFor := if x.ovsNow || decide (x.fast ≠ []) then x.ovsFor + 1 else 0 }
  let s := if s.heatBegins then s.onBay b fun x => { x with cut := false } else s
  let ref := s.fld F.FRG_BAY_REF_REF b
  let s :=
    if s.bayLive b then
      let rise := decide ((s.bay b).ref + s.fld F.FRG_BAY_AUX_STEP_DET b * 64 ≤ ref)
      let shed := s.fld F.FRG_BAY_STAT_SHED b
      let s :=
        if s.sheds b && rise then s.loadStep b
        else match (s.bay b).step with
          | some (v, k, a) => s.onBay b fun x => { x with step := some (v, min (k + 1) (s.fld F.FRG_BAY_SHED_SHED_RAMP b), a) }
          | none => if s.heatBegins && s.sheds b && decide (shed = 0 ∨ shed = 2) then s.shedChoice b else s
      let s := if s.heatBegins then s.trimBay b else s
      let s := if (s.bay b).spread then s.respread b else s
      s.each (s.running b) fun p t => t.updateCode b p
    else s
  let s := if s.heatBegins then s.each (s.bayPhases b) fun p t => t.onPhase p fun x => { x with fresh := false } else s
  s.onBay b fun x => { x with ref := ref }

/-- The bays that the active image defines. -/
def State.bays (s : State) : List Nat := (List.range 24).filter fun b => decide (s.fld F.FRG_BAY_CFG_N b ≠ 0)

/-- The faults and releases of a marker, which precede a commit (R179). -/
def State.forgeFaults (s : State) : State := if s.hasForge then s.each s.bays fun b t => t.forgeFaultBay b else s

/-- A heat with truncation ends: 0380h is reported once (R113). -/
def State.cutReport (s : State) : State :=
  if s.heatBegins && s.flag F.FRG_CTL_TRUNC_REPORT && s.bays.any (fun b => (s.bay b).cut) then s.report 0x0380 else s

/-- The Forge update at a stroke marker (R106). -/
def State.forgeMarker (s : State) : State := if s.hasForge then s.cutReport.each s.bays fun b t => t.forgeBay b else s

/-! ### Truncation -/

/-- Truncation of a bay is in force: OVS_b, or a fast limit detector with ACTION = 0 (R113, R114). -/
def State.cutting (s : State) (b : Nat) : Bool := (s.bay b).ovs || decide ((s.bay b).fast ≠ [])

/-- Count a truncated or skipped period (R113). -/
def State.countCut (s : State) (b : Nat) : State :=
  ((s.bumpSat F.FRG_BAY_STAT_TRUNC b).count 9 (32 + b)).onBay b fun x => { x with cut := true }

/-- The level of the low side in a skipped period (R113). -/
def State.skipLow (s : State) (b : Nat) : Bool := decide (s.fld F.FRG_BAY_CFG_SKIP_LS b = 0)

/-- A rising crossing (R113): the pulse of every running phase ends, a last pulse after RUN fell too; a phase between its PERIOD instant
and its ON edge has that period skipped. -/
def State.truncate (s : State) (b : Nat) : State :=
  s.each (s.members b) fun p t =>
    let x := t.phase p
    if x.high then (t.onPhase p fun y => { y with high := false, full := 0, opens := 0 }).countCut b
    else if x.going && !x.edged && !x.skipped then
      (t.onPhase p fun y => { y with skipped := true, low := t.skipLow b, full := 0, opens := 0 }).countCut b
    else t

/-! ### Events of a phase (R103) -/

/-- The PERIOD instant: PWML_p falls, or the period is skipped; the DAC takes the shadow (R103, R106, R113). -/
def State.periodInstant (s : State) (p : Nat) : State :=
  match s.phaseBay p with
  | none => s
  | some b =>
    if s.isRunning p then
      let x := s.phase p
      let s := s.setFld F.FRG_PH_DAC_CODE p x.shadow
      let skip := s.cutting b
      let s := s.onPhase p fun y => { y with
        full := if skip then 0 else y.full, opens := if skip then 0 else y.opens
        going := true, stretch := 0, mark := x.shadowMark, high := false, edged := false, peer := false, skipped := skip,
        low := skip && s.skipLow b }
      if skip then s.countCut b else s
    else s.onPhase p fun y => { y with high := false, low := false, going := false, edged := false, stretch := 0 }

/-- A phase ended a pulse by its comparator: the other phases of the bay that are on see it (R117). -/
def State.seenTrip (s : State) (b p : Nat) : State :=
  s.each ((s.members b).filter fun q => decide (q ≠ p) && (s.phase q).high) fun q t => t.onPhase q fun y => { y with peer := true }

/-- V_DAC − V_RAMP, not below 0, in units of 1 µV ÷ 40960, at a time in ns after the ON edge (R105). -/
def State.tripLevel (s : State) (p t : Nat) : Int :=
  max 0 ((s.fld F.FRG_PH_DAC_CODE p * 12000000 : Nat) - (s.fld F.FRG_PH_CFG_RAMP_SLOPE p * t * 4096 : Nat))

/-- A period of a phase that ended at the maximum on-time drops it or not (R117). -/
def State.openTest (s : State) (b p : Nat) : State :=
  let alone := decide ((s.members b).length ≤ 1)
  let seen := if alone then decide (s.fld F.FRG_BAY_SHED_SHED_LO b < s.fld F.FRG_BAY_REF_REF b / 256) else (s.phase p).peer
  let s := s.onPhase p fun y => { y with opens := if seen then y.opens + 1 else 0 }
  if 2 ≤ (s.phase p).opens then s.dropPhase p 2 0x0303 else s

/-! ### The meanings -/

/-- PEAK_TRIP (R105): after blanking, a CS_p level (µV) at or above V_DAC − V_RAMP ends the pulse. A period on a clamped code
counts in LIMIT_CNT and not as a comparator trip (R112). -/
def execPeakTrip (p : Nat) (cs : Int) (t : Nat) (s : State) : Host.Outcome State Fault Refusal :=
  .next (s.live 4 (match s.phaseBay p with
    | none => s
    | some b =>
      if (s.phase p).high && decide (s.fld F.FRG_PH_TIM_BLANK p * 5 ≤ t) && decide (s.tripLevel p t ≤ cs * 40960) then
        if (s.phase p).mark then
          (s.onPhase p fun y => { y with high := false, full := y.full + 1, opens := 0 }).bumpSat F.FRG_PH_STAT_LIMIT_CNT p
        else
          let s := if p < 48 then s.count 9 (80 + p) else s.count 14 (5 + (p - 48))
          (s.onPhase p fun y => { y with high := false, full := 0, opens := 0 }).seenTrip b p
      else s))

/-- MAX_ON_TIME (R103, R117): at MAXD × P ÷ 256 (fine steps) after the ON edge PWMH_p falls, MAXD_CNT counts, and a second such period
beside a tripping phase drops it. -/
def execMaxOnTime (p steps : Nat) (s : State) : Host.Outcome State Fault Refusal :=
  .next (s.live 4 (match s.phaseBay p with
    | none => s
    | some b =>
      if (s.phase p).high && decide (s.fld F.FRG_BAY_CFG_MAXD b * s.bayPeriod b ≤ 256 * steps) then
        ((s.onPhase p fun y => { y with high := false, full := y.full + 1 }).bumpSat F.FRG_PH_STAT_MAXD_CNT p).openTest b p
      else s))

/-- LOW_SIDE_ON (R103): DT_FALL after the OFF edge PWML_p rises. -/
def execLowSideOn (p : Nat) (s : State) : Host.Outcome State Fault Refusal :=
  .next (s.live 4 (let x := s.phase p
    if x.going && x.edged && !x.high && (s.phaseBay p).isSome then s.onPhase p fun y => { y with low := true } else s))

/-- BAY_SATURATED (R119): every running phase ended 64 periods in a row at the maximum on-time or the clamp. -/
def execBaySaturated (b : Nat) (s : State) : Host.Outcome State Fault Refusal :=
  .next (s.live 4 (if s.running b ≠ [] ∧ (s.running b).all (fun p => decide (64 ≤ (s.phase p).full)) then
      (s.faultBay b 2).report 0x0305 b
    else s))

/-- TRIM_LIMIT (R108): a trim at TRIM_MAX for 100 heats is reported. -/
def execTrimLimit (p : Nat) (s : State) : Host.Outcome State Fault Refusal :=
  .next (s.live 4 (if 100 ≤ (s.phase p).atMax then (s.onPhase p fun y => { y with atMax := 0 }).report 0x0382 p else s))

/-- SHED_STEP_END (R110): after SHED_RAMP strokes the victim is off, SHED becomes REDUCED and the offsets are re-spread. -/
def execShedStepEnd (b : Nat) (s : State) : Host.Outcome State Fault Refusal :=
  .next (s.live 4 (match (s.bay b).step with
    | some (v, k, _) =>
      if s.fld F.FRG_BAY_SHED_SHED_RAMP b ≤ k then
        let t := (s.onPhase v fun y => { y with shed := true, high := false, low := false, going := false }).setFlag
          F.FRG_PH_STAT_SHED v true
        ((t.onBay b fun x => { x with step := none }).setFld F.FRG_BAY_STAT_SHED b 2).respread b
      else s
    | none => s))

/-- SHED_HOLD_END (R111): HOLD × 10 heats after the load step SHED becomes FULL. -/
def execShedHoldEnd (b : Nat) (s : State) : Host.Outcome State Fault Refusal :=
  .next (s.live 4 (if s.fld F.FRG_BAY_STAT_SHED b = 3 ∧ (s.bay b).holdFrom + s.fld F.FRG_BAY_SHED_HOLD b * 10 ≤ s.heat then
      s.setFld F.FRG_BAY_STAT_SHED b 0
    else s))

/-- A level of OVS_b in µV lies at or above the threshold less a margin (R113). -/
def State.overThr (s : State) (b : Nat) (level margin : Int) : Bool :=
  decide (((s.fld F.FRG_BAY_AUX_OVS_THR b * 1200000 : Nat) : Int) ≤ (level + margin) * 1024)

/-- OVERSHOOT (R113): OVS_b rises to a level (µV); where it reaches the threshold, and no overshoot stands, its bay is truncated. -/
def execOvershoot (b : Nat) (level : Int) (s : State) : Host.Outcome State Fault Refusal :=
  .next (s.live 4 (if s.hasForge && s.overThr b level 0 then
      let t := s.onBay b fun x => { x with ovs := true, ovsNow := true }
      if (s.bay b).ovs then t else t.truncate b
    else s))

/-- OVERSHOOT_END (R113): OVS_b falls to a level (µV); below the threshold the markers no longer count, and below the threshold less
10 mV the overshoot has ended. -/
def execOvershootEnd (b : Nat) (level : Int) (s : State) : Host.Outcome State Fault Refusal :=
  .next (s.live 4 (s.onBay b fun x => { x with
    ovsNow := x.ovsNow && s.overThr b level 0, ovs := x.ovs && s.overThr b level 10000 }))

/-- OVERSHOOT_LIMIT (R113): OVS_LIMIT markers in a row at or above the threshold fault the bay with CAUSE 1. -/
def execOvershootLimit (b : Nat) (s : State) : Host.Outcome State Fault Refusal :=
  .next (s.live 4 (if s.cutting b ∧ s.fld F.FRG_BAY_AUX_OVS_LIMIT b ≤ (s.bay b).ovsFor then s.faultBay b 1 else s))

/-- The sinc2 filter over one bit (R114): at OSR 16 every sixteenth bit gives an output, scaled so that full scale is 2^23 − 1. -/
def Sinc2.push (x : Sinc2) (bit : Bool) : Sinc2 :=
  let i1 := x.i1 + if bit then 1 else -1
  let i2 := x.i2 + i1
  if x.n = 15 then
    let c := i2 - x.d1
    { i1 := i1, i2 := i2, d1 := i2, d2 := c, n := 0, out := clampInt (-(2 ^ 23 - 1)) (2 ^ 23 - 1) (roundDiv ((c - x.d2) * (2 ^ 23 - 1)) 256) }
  else { x with i1 := i1, i2 := i2, n := x.n + 1 }

/-- The bits of a modulator input since the last look at its detector run through its filter. -/
def State.fastBits (s : State) (m : Nat) (bits : List Bool) : State :=
  { s with frg := { s.frg with fld := s.frg.fld.upd m fun x => bits.foldl Sinc2.push x } }

/-- The last output of a detector, bits [23:12], lies outside its limits (R114). -/
def State.fastOut (s : State) (m : Nat) : Bool :=
  let v := (s.frg.fld.get m).out / 2 ^ 12
  decide (v < signed 12 (s.fld F.FRG_FLD_LO m) ∨ signed 12 (s.fld F.FRG_FLD_HI m) < v)

/-- A detector is fed: Forge is present and owns the modulator input (R91, R114). -/
def State.fastFed (s : State) (m : Nat) : Bool := s.hasForge && decide (s.fld F.ACQ_MOD_CFG_OWNER m = 2)

/-- FAST_LIMIT (R114): the bits give an output outside the limits of an enabled detector, which acts on its bay as an overshoot or as
a fault. -/
def execFastLimit (m : Nat) (bits : List Bool) (s : State) : Host.Outcome State Fault Refusal :=
  .next (s.live 4 (if s.fastFed m then
      let s := s.fastBits m bits
      let b := s.fld F.FRG_FLD_BAY m
      if s.flag F.FRG_FLD_EN m && s.fastOut m then
        let t := s.onBay b fun x => { x with fast := m :: x.fast.filter fun k => decide (k ≠ m) }
        if s.fld F.FRG_FLD_ACTION m = 0 then (if (s.bay b).fast.contains m then t else t.truncate b) else t.faultBay b 3
      else s
    else s))

/-- FAST_LIMIT_END (R114): the bits give an output inside the limits again. -/
def execFastLimitEnd (m : Nat) (bits : List Bool) (s : State) : Host.Outcome State Fault Refusal :=
  .next (s.live 4 (if s.fastFed m then
      let s := s.fastBits m bits
      if s.fastOut m then s
      else s.onBay (s.fld F.FRG_FLD_BAY m) fun x => { x with fast := x.fast.filter fun k => decide (k ≠ m) }
    else s))

/-- DRIVER_FAULT (R115): GDF shows the level of GDF_N_p; low for 40 ns, it drives both gates low and drops the phase with CAUSE 3. -/
def execDriverFault (p : Nat) (low : Bool) (s : State) : Host.Outcome State Fault Refusal :=
  .next (s.live 4 (if p < s.phaseCount then
      let t := s.setFlag F.FRG_PH_STAT_GDF p low
      if low && (s.phaseBay p).isSome then (t.gatesOff p).dropPhase p 3 0x0304 else t
    else s))

/-- SENSE_LOSS (R97, R116): WIN shows whether CS_p (mV) lies outside −150 to 1350; outside for 1 µs, it drops the phase with CAUSE 1. A
phase in no bay has no window check, and a standby takes its sense losses from the mirrored drops (R306). -/
def execSenseLoss (p : Nat) (cs : Int) (s : State) : Host.Outcome State Fault Refusal :=
  .next (s.live 4 (if (s.phaseBay p).isSome && !s.standby then
      let out := decide (cs < -150 ∨ 1350 < cs)
      let t := s.setFlag F.FRG_PH_STAT_WIN p out
      if out then t.dropPhase p 1 0x0302 else t
    else s))

/-- The cause of a bay fault has ended (R120, R156, R85, R88). -/
def State.causeEnded (s : State) (b : Nat) : Bool :=
  match s.fld F.FRG_BAY_STAT_CAUSE b with
  | 1 => !s.cutting b
  | 3 => decide ((s.bay b).fast = [])
  | 4 => (s.bayPhases b).any fun p => !s.dropped p
  | 5 =>
    (((loopPrograms (s.body tyLOOP)).filter fun g => decide (g.bay = some b)).all fun g =>
      decide (s.fld F.CLF_ENG_STAT_STATE g.engine ≠ 3)
        && (List.range 4).all fun m => !s.flag F.CLF_FE_STAT_TRIP (g.engine * 4 + m))
    && ((List.range (acqSeqs (s.body tyACQ))).all fun k =>
      !(s.flag F.ACQ_SEQ_STAT_STOPPED k && (s.consumers k).contains b))
    && ((List.range 8).all fun k =>
      !(s.flag F.ACQ_CHK_STAT_FAULT k && s.flag F.ACQ_CHK_CFG_ACTION k
        && ((s.flag F.ACQ_CHK_STAT_SUSPECT_A k && (s.cnvConsumers (2 * k)).contains b)
          || (s.flag F.ACQ_CHK_STAT_SUSPECT_B k && (s.cnvConsumers (2 * k + 1)).contains b))))
    && !bitOf (s.fld F.SYS_REGION_STAT_FAILED) 2
  | 6 => decide (s.fld F.FRG_STAT_UPD_CONSEC = 0)
  | _ => true

/-- RELEASE (R120): clears the fault at the next marker where its cause has ended; otherwise, and on a bay that is not
faulted, refused with 0307h. -/
def State.releaseBay (s : State) (b : Nat) : State :=
  if s.flag F.FRG_BAY_STAT_FAULT b && s.causeEnded b then s.onBay b fun x => { x with release := true }
  else s.report 0x0307 b

/-- A write of 1 to DROP (R118): clears the drop only while RUN = 0. DESIGN CHOICE (log entry 29): CAUSE is cleared with it, and a write
for a phase in no bay, which has no RUN, is refused with 0307h. -/
def State.clearDrop (s : State) (p : Nat) : State :=
  match s.phaseBay p with
  | none => s.report 0x0307 p
  | some b =>
    if s.fld F.FRG_BAY_CTL_RUN b = 0 then
      if s.dropped p then (((s.setDrop p false).setFld F.FRG_PH_STAT_CAUSE p 0).onBay b fun x => { x with spread := true }).countBay b
      else s
    else s.report 0x0307 p

/-! ### Overrun of the update (R107) -/

/-- What the update did to one phase is taken back (R31, R107): the shadow with its mark and dither, the trim, the shed mark; an offset
and a stretch that no PERIOD instant has taken yet. -/
def Phase.takeBack (y : Phase) : Phase :=
  let kept := decide (y.stretch = 0 ∧ y.offset ≠ y.wasOffset)
  { y with
    shadow := y.was, shadowMark := y.wasMark, dither := y.wasDither, trim := y.wasTrim, stale := y.wasStale, atMax := y.wasAtMax
    shed := y.wasShed, offset := if kept then y.offset else y.wasOffset, stretch := if kept then 0 else y.wasStretch }

/-- What the update did to one bay is taken back: REF, the shed step, the hold and SHED; the offsets are spread again. A victim dropped
since keeps no step. -/
def State.bayBack (s : State) (b : Nat) : State :=
  let o := (s.bay b).prior
  let step := match o.step with | some x => if s.dropped x.1 || s.flag F.FRG_BAY_STAT_FAULT b then none else some x | none => none
  let s := s.each (s.bayPhases b) fun p t =>
    let t := (t.onPhase p Phase.takeBack).setFlag F.FRG_PH_STAT_SHED p (t.phase p).wasShed
    t.setFld F.FRG_PH_TRIM_TRIM p (unsignedOf 11 (roundDiv ((t.phase p).trim / 10).num ((t.phase p).trim / 10).den))
  ((s.onBay b fun x => { x with ref := o.ref, step := step, holdFrom := o.holdFrom, spread := true }).setFld F.FRG_BAY_STAT_SHED b
    o.shed).countBay b

/-- An overrun of the update keeps every shadow as it was; its other results are discarded too (R31, R107). -/
def State.forgeKeep (s : State) : State := s.each s.bays fun b t => t.bayBack b

/-- At the overrun limit every running bay is faulted with CAUSE 6. -/
def State.forgeLimit (s : State) : State :=
  s.each (s.bays.filter fun b => s.bayLive b) fun b t => t.faultBay b 6

end Sys2Proof.Machine
end

