-- ==== Sys2Proof/Machine/Acquisition.lean ====
section
/-! DEFINITION. Acquisition: triggers, the queues of the converters, result words and their delivery, pair checks and modulator
inputs (file 03, R70 to R95), with the PERIOD and VALLEY instants of Forge that substitute triggers (R77, R103). -/

namespace Sys2Proof.Machine

open Sys2Proof

/-- A converter, and a change of it. -/
def State.conv (s : State) (n : Nat) : Conv := s.acq.convs.get n
def State.onConv (s : State) (n : Nat) (f : Conv → Conv) : State := { s with acq := { s.acq with convs := s.acq.convs.upd n f } }

/-! ### Overruns of a sequence (R31, R32, R78) -/

/-- Count an overrun of a piece of work (R31): the consecutive count rises and the block's bit of SYS_OVR_SUM is set. -/
def State.countOverrun (s : State) (w : Work) (bit : Fld) : State :=
  let n := ((s.sys.overruns.find? fun c => decide (c.1 = w)).map fun c => c.2).getD 0
  ({ s with sys := { s.sys with overruns := (s.sys.overruns.filter fun (c : Work × Nat) => decide (c.1 ≠ w)) ++ [(w, n + 1)] } }).setFlag bit 0 true

/-- The consecutive overruns of a piece of work. -/
def State.overruns (s : State) (w : Work) : Nat := ((s.sys.overruns.find? fun c => decide (c.1 = w)).map fun c => c.2).getD 0

/-- A completed piece of work sets its count to zero (R32). -/
def State.completed (s : State) (w : Work) : State :=
  { s with sys := { s.sys with overruns := s.sys.overruns.filter fun c => decide (c.1 ≠ w) } }

/-- The overrun limit of a piece of work under the active image. -/
def State.limitOf (s : State) (w : Work) : Nat := s.jny.active.overrunLimit w

/-- A sequence's overrun is counted in its registers and reported. -/
def State.seqOverrun (s : State) (n code : Nat) : State :=
  let t := ((s.countOverrun (.sequence n) F.SYS_OVR_SUM_ACQ).bumpSat F.ACQ_SEQ_STAT_OVERRUNS n).count 0 107
  let t := t.setFld F.ACQ_SEQ_STAT_OVR_CONSEC n (min (t.overruns (.sequence n)) 15)
  (t.report 0x0083 n).report code n

/-- A run missed its deadline (R78): it is stopped with its partial results, counted, and reported with 0205h. -/
def State.runLate (s : State) (n : Nat) : State :=
  match s.sequence n with
  | none => s
  | some q =>
    let keep (r : Option Run) : Option Run := match r with | some x => if x.seq = n then none else some x | none => none
    (s.onConv q.cnv fun c => { c with
      queue := c.queue.filter (fun x => decide (x.seq ≠ n)), cur := keep c.cur, susp := keep c.susp, wait := keep c.wait }).seqOverrun n 0x0205

/-- The points a sequence writes, and the state with each of them at QUAL = INVALID (R85). DESIGN CHOICE (log entry 28): beside its quality
such a write keeps the point's VALUE (an ACQ point its old result word with the QUAL bits of that word), and gives it the present stroke
and OFS 0. -/
def State.seqPoints (s : State) (n : Nat) : List Nat :=
  match s.sequence n with
  | none => []
  | some q => (acqSlotsOf (s.body tyACQ) q).filterMap fun x => if x.typ = 1 then some (x.dest % 2 ^ 18) else none

def State.invalidPoints (s : State) (n : Nat) : State :=
  s.each (s.seqPoints n) fun p t =>
    t.writePoint { id := p, cls := 2, ident := 0, value := (t.point p).value, qual := 4, time := t.now, ofs := 0 }

/-- The fault action of a sequence at its overrun limit (R85). -/
def State.seqStop (s : State) (n : Nat) : State :=
  if s.flag F.ACQ_SEQ_STAT_STOPPED n then s
  else
    let t := s.setFlag F.ACQ_SEQ_STAT_STOPPED n true
    let t := t.each (t.consumers n) fun b t => t.orderFault b
    (t.invalidPoints n).report 0x0206 n

/-! ### Triggers and queues (R76 to R80) -/

/-- Every run that a converter holds: those that wait to start, the one that converts, a suspended one, one between two slots. -/
def Conv.runs (c : Conv) : List Run := c.queue ++ c.cur.toList ++ c.susp.toList ++ c.wait.toList

/-- A sequence has a run that is pending or running. -/
def State.busySeq (s : State) (q : Seq) (n : Nat) : Bool := (s.conv q.cnv).runs.any fun x => decide (x.seq = n)

/-- The next grid point at or after an instant of a stroke: 10 ns, or 50 ns at 20 MSa/s (R70, R72). -/
def gridUp (slow : Bool) (t : Nat) : Nat := if slow then (t + 4) / 5 * 5 else t

/-- The stroke, counted from the present one, and the instant in it, of the next grid point at or after a time: the grid is aligned to
every marker (R72). -/
def gridAt (slow : Bool) (per t : Nat) : Nat × Nat :=
  let o := gridUp slow (t % per)
  if per ≤ o then (t / per + 1, 0) else (t / per, o)

/-- A trigger fires at an instant (10 ns units after the marker): a collision (R80), a full queue (R79), or a run queued to
start DELAY later. -/
def State.fireSeq (s : State) (n at_ : Nat) (subst : Bool) : State :=
  match s.sequence n with
  | none => s
  | some q =>
    if s.flag F.ACQ_SEQ_STAT_STOPPED n then s
    else if s.busySeq q n then (s.bumpSat F.ACQ_SEQ_STAT_COLLISIONS n).report 0x0282 n
    else if 8 ≤ (s.conv q.cnv).queue.length then
      (s.bumpSat F.ACQ_CNV_STAT_DROPPED q.cnv).seqOverrun n 0x0203
    else
      let t := gridAt (s.conv q.cnv).slow (max s.period 1) (at_ + q.delay)
      let r : Run := { seq := n, stroke := s.now + t.1, at_ := t.2, subst := subst, slot := 0, again := false, sample := 0, began := (0, 0) }
      let s := s.onConv q.cnv fun c => { c with queue := c.queue ++ [r] }
      s.setFld F.ACQ_CNV_STAT_QUEUE_PEAK q.cnv (max (s.fld F.ACQ_CNV_STAT_QUEUE_PEAK q.cnv) (s.conv q.cnv).queue.length)

/-- A PWM trigger: without EVERY only the first occurrence after each marker fires (R76). -/
def State.firePwm (s : State) (n at_ : Nat) (subst : Bool) : State :=
  match s.sequence n with
  | none => s
  | some q =>
    if s.acq.fired.contains n && !q.every then s
    else ({ s with acq := { s.acq with fired := n :: s.acq.fired } }).fireSeq n at_ subst

/-- ACQ_TRIGGER (R76): the STROKE, PWM or TIMER trigger of a sequence fires at an instant of the stroke. A STROKE trigger
fires at the markers whose count is a multiple of TRIG_ARG; a TIMER never fires at the marker itself. -/
def execAcqTrigger (n at_ : Nat) (s : State) : Host.Outcome State Fault Refusal :=
  .next (s.live 4 (match s.sequence n with
    | none => s
    | some q =>
      match q.src with
      | 0 => if s.now % max q.arg 1 = 0 then s.fireSeq n 0 false else s
      | 1 => s.firePwm n at_ false
      | 2 => if at_ ≠ 0 ∧ at_ % max q.arg 1 = 0 then s.fireSeq n at_ false else s
      | _ => s))

/-- A write of ACQ_SOFT_TRIG (R76): ignored unless TRIG_SRC = SOFT. -/
def State.softTrig (s : State) (n at_ : Nat) : State :=
  match s.sequence n with
  | some q => if q.src = 3 then s.fireSeq n at_ false else s
  | none => s

/-- Substituted triggers (R77): every sequence with the PWM event `sel` of a phase fires with QUAL = SUBST. -/
def State.substitute (s : State) (p sel at_ : Nat) : State :=
  s.each ((List.range (acqSeqs (s.body tyACQ))).filter fun k =>
    let q := acqSeq (s.body tyACQ) k
    decide (q.src = 1 ∧ q.sel = sel ∧ q.arg = p)) fun k t => t.firePwm k at_ true

/-- The ON edge of the running period will not come: its ON triggers fire substituted at the PERIOD instant (R77); where that lies in an
earlier stroke, at the marker of the present one (log entry 28). -/
def State.missedOn (s : State) (p : Nat) : State :=
  let x := s.phase p
  if x.want then
    (s.onPhase p fun y => { y with want := false }).substitute p 2 (if x.perAt.1 = s.now then x.perAt.2 else 0)
  else s

/-- PWM_PERIOD (R103, R77): the PERIOD instant; a phase whose ON edge will not come in this period fires its ON triggers
substituted. -/
def execPwmPeriod (p at_ : Nat) (s : State) : Host.Outcome State Fault Refusal :=
  .next (s.live 4 (let t := (s.missedOn p).periodInstant p
    if (t.phase p).going && !(t.phase p).skipped then t.onPhase p fun y => { y with want := true, perAt := (t.now, at_) }
    else t.substitute p 2 at_))

/-- ON_EDGE (R103): PWMH_p rises and the ramp starts, unless the period is skipped or pulses are held back. A pulse whose period began
before RUN fell is completed (R104, R122). An edge that does not come fires the ON triggers of the phase substituted (R77). -/
def execOnEdge (p : Nat) (s : State) : Host.Outcome State Fault Refusal :=
  .next (s.live 4 (match s.phaseBay p with
    | none => s
    | some b =>
      let x := s.phase p
      if x.edged then s
      else if x.going && !x.skipped && s.mayPulse p && !s.cutting b then
        s.onPhase p fun y => { y with high := true, edged := true, want := false, low := false, peer := false }
      else s.missedOn p))

/-- VALLEY (R103, R77): half a period after the PERIOD instant; a phase with no ON edge in this period fires its OFF
triggers substituted, and its ON triggers where they have not fired. -/
def execValley (p at_ : Nat) (s : State) : Host.Outcome State Fault Refusal :=
  .next (s.live 4 (if (s.phase p).edged then s else (s.missedOn p).substitute p 3 at_))

/-! ### Runs and slots (R79, R81, R82) -/

/-- The slot that a run is at. -/
def State.slotRec (s : State) (r : Run) : Option SlotRec :=
  (s.sequence r.seq).map fun q => acqSlot (s.body tyACQ) (q.first + r.slot)

/-- Urgent runs first, then by start instant, then by lower sequence number (R79). -/
def State.runBefore (s : State) (a b : Run) : Bool :=
  let ua := s.flag F.ACQ_SEQ_STAT_URGENT a.seq
  let ub := s.flag F.ACQ_SEQ_STAT_URGENT b.seq
  if ua != ub then ua
  else if a.stroke ≠ b.stroke then decide (a.stroke < b.stroke)
  else if a.at_ ≠ b.at_ then decide (a.at_ < b.at_)
  else decide (a.seq < b.seq)

/-- The first run of a list in scheduling order. -/
def State.firstRun (s : State) : List Run → Option Run
  | [] => none
  | r :: t => match s.firstRun t with
    | none => some r
    | some x => if s.runBefore r x then some r else some x

/-- Begin a slot of a run at an instant, moved to the converter's grid (R72): a new multiplexer input takes one settling conversion, and
the first kept sample comes one clock later (R71). -/
def State.beginSlot (s : State) (n : Nat) (r : Run) (at_ : Nat) : State :=
  match s.slotRec r with
  | none => s.onConv n fun c => { c with cur := none }
  | some x =>
    let slow := (s.conv n).slow
    let t := gridUp slow at_
    let clk := if slow then 5 else 1
    let settle := decide (x.input < 8) && decide ((s.conv n).input ≠ some x.input)
    s.onConv n fun c => { c with
      cur := some { r with sample := t + (if settle then clk else 0), began := (s.now, t) }
      input := if x.input < 8 then some x.input else c.input }

/-! ### The check of a pair takes its place between slots (R86) -/

/-- The check of a pair, and a change of it. -/
def State.check (s : State) (k : Nat) : PairChk := s.acq.checks.get k
def State.onCheck (s : State) (k : Nat) (f : PairChk → PairChk) : State := { s with acq := { s.acq with checks := s.acq.checks.upd k f } }

/-- At or after half the stroke period a check whose time has come holds its converters back; so does one in progress. -/
def State.checkHolds (s : State) (n at_ : Nat) : Bool :=
  let c := s.check (n / 2)
  c.began || (c.due && decide (s.period ≤ 2 * at_))

/-- A check begins at the first instant, at or after half the stroke period, at which both converters are between slots. -/
def State.checkTry (s : State) (k at_ : Nat) : State :=
  let c := s.check k
  if c.due && !c.began && decide (s.period ≤ 2 * at_ ∧ (s.conv (2 * k)).cur = none ∧ (s.conv (2 * k + 1)).cur = none) then
    s.onCheck k fun x => { x with began := true }
  else s

/-- An urgent request on either converter aborts a check in progress on both; it restarts when both are free again. -/
def State.checkAbort (s : State) (k : Nat) : State :=
  if (s.check k).began then
    ((s.onCheck k fun x => { x with began := false, again := true }).bumpSat F.ACQ_CNV_STAT_ABORTS (2 * k)).bumpSat F.ACQ_CNV_STAT_ABORTS (2 * k + 1)
  else s

/-- A run starts: it leaves the queue. -/
def State.takeRun (s : State) (n : Nat) (r : Run) (at_ : Nat) : State :=
  (s.onConv n fun c => { c with queue := c.queue.filter fun x => decide (x ≠ r) }).beginSlot n r at_

/-- An instant of a stroke does not lie before another one. -/
def notBefore (a b : Nat × Nat) : Bool := decide (b.1 < a.1 ∨ (b.1 = a.1 ∧ b.2 ≤ a.2))

/-- The slot of run `x` in progress is aborted for the urgent run `r` (R81). -/
def State.abortFor (s : State) (n : Nat) (x r : Run) (at_ : Nat) : State :=
  (((s.onConv n fun c => { c with susp := some x }).bumpSat F.ACQ_CNV_STAT_ABORTS n).count 9 (16 + n)).takeRun n r at_

/-- RUN_START (R79, R81, R82): at an instant the first due run in scheduling order starts. A busy converter starts only an
urgent run over a non-urgent one whose slot is in progress when its start instant arrives; an aborted slot restarts before any queued
run; a check of the pair holds back every run but an urgent one, which aborts it (R86). -/
def execRunStart (n at_ : Nat) (s : State) : Host.Outcome State Fault Refusal :=
  .next (s.live 4 (let s := s.checkTry (n / 2) at_
    let c := s.conv n
    let due := c.queue.filter fun r => notBefore (s.now, at_) (r.stroke, r.at_)
    match s.firstRun due with
    | none => s
    | some r =>
      let urgent := s.flag F.ACQ_SEQ_STAT_URGENT r.seq
      match c.cur with
      | none =>
        if c.susp.isSome then s
        else if urgent then (s.checkAbort (n / 2)).takeRun n r at_
        else if s.checkHolds n at_ || c.wait.isSome then s
        else s.takeRun n r at_
      | some x =>
        if urgent && !s.flag F.ACQ_SEQ_STAT_URGENT x.seq && notBefore (r.stroke, r.at_) x.began then s.abortFor n x r at_
        else s))

/-- SLOT_RESTART (R81): the aborted slot restarts from its beginning, before any other queued run, with QUAL = RESTARTED. -/
def execSlotRestart (n at_ : Nat) (s : State) : Host.Outcome State Fault Refusal :=
  .next (s.live 4 (match (s.conv n).cur, (s.conv n).susp with
    | none, some r =>
      if s.checkHolds n at_ then s else (s.onConv n fun c => { c with susp := none }).beginSlot n { r with again := true } at_
    | _, _ => s))

/-! ### Results (R83, R84) -/

/-- The quality of a point from the QUAL of a result word (R320). -/
def qualOfAcq (q : Nat) : Nat := match q with | 0 => 0 | 1 => 0 | 2 => 1 | 3 => 2 | 4 => 2 | _ => 4

/-- A result word (R83). -/
def resultWord (qual stroke : Nat) (value : Int) : W32 :=
  BitVec.ofNat 32 (qual * 2 ^ 29 + stroke % 256 * 2 ^ 20 + unsignedOf 18 value)

/-- The host address of a byte of an engine's local memory (R126). -/
def engineBase (e : Nat) : Nat := 0x10800000 + e * 0x40000

/-- Write an input word of an engine and set its arrival bit (R129). -/
def State.inputWord (s : State) (e ofs : Nat) (w : W32) : State :=
  let t := s.setLe (engineBase e + ofs) 4 w.toNat
  { t with clf := t.clf.upd e fun g => { g with arrival := withBit g.arrival (ofs / 4) true } }

/-- Deliver to a point (R84): the value by the point's TYPE, the quality mapped under R320. -/
def State.resultPoint (s : State) (p stroke ofs qual : Nat) (value : Int) (w : W32) : State :=
  let typ := s.pointType p
  let neg := decide (typ = 3 ∧ value < 0)
  let v : W64 := if typ = 7 then w.setWidth 64
    else if typ = 1 then (if value ≠ 0 then 1 else 0)
    else (typedOf typ ⟨value, -4⟩).1
  let q := qualOfAcq qual
  s.writePoint { id := p, cls := 2, ident := 0, value := v, qual := if neg && decide (q ≠ 4) then 2 else q, time := stroke, ofs := ofs }

/-- Deliver a result to the destination of its slot (R84). -/
def State.deliver (s : State) (x : SlotRec) (r : Run) (qual : Nat) (value : Int) : State :=
  let w := resultWord qual r.stroke value
  match x.typ with
  | 0 => s.inputWord (x.dest / 2 ^ 24 % 64) (x.dest % 2 ^ 18) w
  | 1 => s.resultPoint (x.dest % 2 ^ 18) r.stroke r.sample qual value w
  | 2 => s.ringDeliver (x.dest % 64) (leBytes 6 r.stroke ++ leBytes 2 r.sample ++ leBytes 4 w.toNat
      ++ [BitVec.ofNat 8 r.seq, BitVec.ofNat 8 r.slot, 0, 0])
  | 3 =>
    let p := x.dest % 128
    match frgNtc (s.body tyFRG) p with
    | some k => s.onPhase p fun y => { y with
        temp := interpolate (frgTable (s.body tyFRG) k) ((value : Rat) / 16), tempOk := decide (qual < 3) }
    | none => s
  | _ => s

/-- A converter is named by a pair check whose fault stands (R88). -/
def State.suspect (s : State) (n : Nat) : Bool :=
  s.flag F.ACQ_CHK_STAT_FAULT (n / 2)
    && (if n % 2 = 0 then s.flag F.ACQ_CHK_STAT_SUSPECT_A (n / 2) else s.flag F.ACQ_CHK_STAT_SUSPECT_B (n / 2))

/-- QUAL of a conversion slot: the highest condition that holds (R83). -/
def State.convQual (s : State) (n : Nat) (r : Run) (codes : List Int) : Nat :=
  if codes.any fun c => decide (c = -8192 ∨ c = 8191) then 4
  else if s.suspect n then 3
  else if r.subst then 2
  else if r.again then 1
  else 0

/-- QUAL of a modulator slot (R91 to R93). -/
def State.modQual (s : State) (m : Nat) (r : Run) : Nat :=
  let own := s.fld F.ACQ_MOD_CFG_OWNER m
  if own = 0 ∨ own = 3 ∨ s.flag F.ACQ_MOD_DATA_STUCK m = true then 5 else if r.subst || s.acq.held.contains m then 2 else if r.again then 1 else 0

/-- VALUE of a slot: the mean × 16 of the kept conversions, or bits [23:6] of a modulator output. -/
def State.slotValue (s : State) (x : SlotRec) (codes : List Int) : Int :=
  if x.input < 8 then roundDiv (codes.sum * 16) (2 ^ x.burst)
  else signed 24 (s.fld F.ACQ_MOD_DATA_VALUE (x.input % 64)) / 64

/-- The run moves to its next slot, or completes (R32). Between two slots a check of the pair may hold a run that is not urgent. -/
def State.nextSlot (s : State) (n : Nat) (r : Run) (at_ : Nat) : State :=
  match s.sequence r.seq with
  | none => s.onConv n fun c => { c with cur := none }
  | some q =>
    if r.slot + 1 < q.slots then
      let r := { r with slot := r.slot + 1, again := false }
      if s.checkHolds n at_ && !q.urgent then (s.onConv n fun c => { c with cur := none, wait := some r }).checkTry (n / 2) at_
      else s.beginSlot n r at_
    else
      (((s.onConv n fun c => { c with cur := none }).completed (.sequence r.seq)).setFld F.ACQ_SEQ_STAT_OVR_CONSEC r.seq 0).checkTry
        (n / 2) at_

/-- SLOT_RESULT (R83, R84): the kept conversion codes of the slot in progress become a result word, which is delivered; the
next slot begins at the instant given. -/
def execSlotResult (n : Nat) (codes : List Int) (at_ : Nat) (s : State) : Host.Outcome State Fault Refusal :=
  .next (s.live 4 (match (s.conv n).cur with
    | none => s
    | some r =>
      match s.slotRec r with
      | none => s.onConv n fun c => { c with cur := none }
      | some x =>
        let qual := if x.input < 8 then s.convQual n r codes else s.modQual (x.input % 64) r
        let t := if qual = 4 then
            let u := s.bumpSat F.ACQ_CNV_STAT_OVERRANGE n
            if (u.conv n).overSaid then u else (u.onConv n fun c => { c with overSaid := true }).report 0x0284 n
          else s
        ((if x.input < 8 then t.count 9 n codes.length else t).deliver x r qual (s.slotValue x codes)).nextSlot n r at_))

/-- A write of ACQ_SEQ_RESTART (R85): a STOPPED sequence restarts at the next marker. -/
def State.seqRestart (s : State) (n : Nat) : State :=
  if s.flag F.ACQ_SEQ_STAT_STOPPED n then { s with acq := { s.acq with restart := n :: s.acq.restart } } else s

/-- A write of ACQ_CNV_CFG.LP (R73): taken at the next marker; LP = 1 is refused with 0204h when a bound sequence lacks
LP_OK, and the field then stays 0. -/
def State.lpWrite (s : State) (n : Nat) (lp : Bool) : State :=
  let lacks := (List.range (acqSeqs (s.body tyACQ))).any fun k =>
    let q := acqSeq (s.body tyACQ) k
    decide (q.cnv = n) && !q.lpOk
  if lp && lacks then (s.setFlag F.ACQ_CNV_CFG_LP n false).report 0x0204 n else s.setFlag F.ACQ_CNV_CFG_LP n lp

/-! ### Pair checks (R86 to R89) -/

/-- The code that a check of a pair expects: none for a check on INPUT (R87). -/
def checkRef (refEn : Bool) (turn : Nat) : Option Int :=
  if refEn then (match turn % 6 with | 1 => some 0 | 3 => some 4096 | 5 => some (-4096) | _ => none) else none

/-- A mean of four codes lies more than TOL LSB from an expected code (R87), in quarter LSB. -/
def meanOff (tol : Nat) (l : List Int) (e : Int) : Bool := decide (4 * tol < (l.sum - 4 * e).natAbs)

/-- Whether each converter of a pair fails a check (R87): a failed check on INPUT names both. -/
def State.checkFails (s : State) (k : Nat) (a b : List Int) : Bool × Bool :=
  let tol := s.fld F.ACQ_CHK_CFG_TOL k
  match checkRef (s.flag F.ACQ_CHK_CFG_REF_EN k) (s.acq.turn.get k) with
  | some e => (meanOff tol a e, meanOff tol b e)
  | none => let d := decide (4 * tol < (a.sum - b.sum).natAbs); (d, d)

/-- What every check leaves: its place in the cycle, the difference, the rate mark (R89), and both converters on the check
channel (R71). -/
def State.checkDone (s : State) (k : Nat) (diff : Int) : State :=
  let t := { s with acq := { s.acq with turn := s.acq.turn.upd k fun n => (n + 1) % 6 } }
  let t := t.setFld F.ACQ_CHK_STAT_LAST_DIFF k (unsignedOf 16 diff)
  let t := t.setFlag F.ACQ_CHK_STAT_DEGRADED k ((s.conv (2 * k)).slow || (s.conv (2 * k + 1)).slow)
  (t.onConv (2 * k) fun c => { c with input := none }).onConv (2 * k + 1) fun c => { c with input := none }

/-- A failed check: the converters are named, the miss is counted and 0283h reported (R88). -/
def State.checkMiss (s : State) (k : Nat) (badA badB : Bool) : State :=
  let t := s.when badA fun t => t.setFlag F.ACQ_CHK_STAT_SUSPECT_A k true
  let t := t.when badB fun t => t.setFlag F.ACQ_CHK_STAT_SUSPECT_B k true
  ((t.bumpSat F.ACQ_CHK_STAT_MISSES k).bumpSat F.ACQ_CHK_STAT_CONSEC k).report 0x0283 k

/-- A passed check resets CONSEC; the names stay until firmware writes 1 to FAULT (R88). -/
def State.checkPass (s : State) (k : Nat) : State := s.setFld F.ACQ_CHK_STAT_CONSEC k 0

/-- The runs that a check held back between their slots go on once it is done, one settling and four kept conversions after it began. -/
def State.checkResume (s : State) (k at_ : Nat) : State :=
  let clk := if (s.conv (2 * k)).slow || (s.conv (2 * k + 1)).slow then 5 else 1
  s.each [2 * k, 2 * k + 1] fun n t =>
    match (t.conv n).wait with
    | some r => if (t.conv n).cur.isSome then t else (t.onConv n fun c => { c with wait := none }).beginSlot n r (at_ + 5 * clk)
    | none => t

/-- The four codes of each converter are judged; a miss is counted and reported, a pass resets CONSEC (R87, R88). DESIGN CHOICE (log entry
28): LAST_DIFF is the mean of A less the mean of B, rounded to nearest, for a check on a reference too. -/
def State.checkJudge (s : State) (k : Nat) (a b : List Int) : State :=
  let bad := s.checkFails k a b
  let t := s.checkDone k (roundDiv (a.sum - b.sum) 4)
  if bad.1 || bad.2 then t.checkMiss k bad.1 bad.2 else t.checkPass k

/-- PAIR_CHECK (R86 to R89): the check of a pair that begins at an instant, where its time has come and both converters are between
slots, or that began before, is judged by the four codes of each converter. -/
def execPairCheck (k at_ : Nat) (a b : List Int) (s : State) : Host.Outcome State Fault Refusal :=
  .next (s.live 4 (let t := s.checkTry k at_
    if s.fld F.ACQ_CHK_CFG_EN k = 0 || !(t.check k).began then s
    else ((t.onCheck k fun _ => ⟨false, false, false⟩).checkJudge k a b).checkResume k at_))

/-- ACQ_CHECK_FAULT (R88): CONSEC at FAIL_LIMIT sets FAULT, reports 0201h, and with ACTION = 1 orders the fault of the
consuming bays for the next marker. -/
def execAcqCheckFault (k : Nat) (s : State) : Host.Outcome State Fault Refusal :=
  .next (s.live 4 (if s.fld F.ACQ_CHK_CFG_EN k = 1 ∧ s.fld F.ACQ_CHK_STAT_FAULT k = 0
        ∧ s.fld F.ACQ_CHK_CFG_FAIL_LIMIT k ≤ s.fld F.ACQ_CHK_STAT_CONSEC k then
      let t := (s.setFlag F.ACQ_CHK_STAT_FAULT k true).report 0x0201 k
      let t := t.setFld F.ACQ_STAT_CHK_FAULT 0 (withBit (t.fld F.ACQ_STAT_CHK_FAULT) k true)
      if t.flag F.ACQ_CHK_CFG_ACTION k then
        let bs := (if t.flag F.ACQ_CHK_STAT_SUSPECT_A k then t.cnvConsumers (2 * k) else [])
          ++ (if t.flag F.ACQ_CHK_STAT_SUSPECT_B k then t.cnvConsumers (2 * k + 1) else [])
        t.each bs fun b t => t.orderFault b
      else t
    else s))

/-- A write of 1 to ACQ_CHK_STAT.FAULT (R88): the fault ends at the next marker. -/
def State.checkClear (s : State) (k : Nat) : State := { s with acq := { s.acq with clear := k :: s.acq.clear } }

/-! ### Modulator inputs (R90 to R93) -/

/-- One bit of a bitstream through the three integrators. -/
def Sinc3.push (x : Sinc3) (bit : Bool) : Sinc3 :=
  let i1 := x.i1 + if bit then 1 else -1
  let i2 := x.i2 + i1
  { x with i1 := i1, i2 := i2, i3 := x.i3 + i2 }

/-- The three differences at a decimation instant; the output lies within ± OSR^3. -/
def Sinc3.take (x : Sinc3) : Int × Sinc3 :=
  let a := x.i3 - x.d1
  let b := a - x.d2
  (b - x.d3, { x with d1 := x.i3, d2 := a, d3 := b })

/-- The clocks since the last transition, and the last bit, after some bits (R93). -/
def Sinc3.quiet (x : Sinc3) (bits : List Bool) : Nat × Bool :=
  bits.foldl (fun c b => if b = c.2 then (c.1 + 1, b) else (0, b)) (x.still, x.bit)

/-- A bitstream shows a transition after a last bit. -/
def hasTransition (last : Bool) (bits : List Bool) : Bool := bits.any fun b => b != last

/-- A new output of a modulator input: one that spans the gap of a takeover is replaced by the previous one (R308). -/
def State.modOutput (s : State) (m : Nat) (v : Int) : State :=
  if s.acq.gap.contains m then
    ({ s with acq := { s.acq with gap := s.acq.gap.filter (· ≠ m), held := m :: s.acq.held.filter (· ≠ m) } }).setFlag F.ACQ_MOD_DATA_NEW m true
  else
    (({ s with acq := { s.acq with held := s.acq.held.filter (· ≠ m) } }).setFld F.ACQ_MOD_DATA_VALUE m (unsignedOf 24 v)).setFlag
      F.ACQ_MOD_DATA_NEW m true

/-- The MOD_CLK gap of a takeover (R308). -/
def State.modGap (s : State) : State := { s with acq := { s.acq with gap := List.range 64 } }

/-- DECIMATION_OUTPUT (R90): the bits since the last output give a signed 24-bit value whose full scale is 2^23 − 1. -/
def execDecimationOutput (m : Nat) (bits : List Bool) (s : State) : Host.Outcome State Fault Refusal :=
  .next (s.live 4 (let own := s.fld F.ACQ_MOD_CFG_OWNER m
    if own = 0 ∨ own = 3 then s
    else
      let x := s.acq.sincs.get m
      let r := (bits.foldl Sinc3.push x).take
      let osr := 2 ^ s.fld F.ACQ_MOD_CFG_OSR_EXP m
      let v := clampInt (-(2 ^ 23 - 1)) (2 ^ 23 - 1) (roundDiv (r.1 * (2 ^ 23 - 1)) (osr ^ 3))
      let y := { r.2 with
        bit := bits.getLast?.getD x.bit
        moving := if hasTransition x.bit bits then x.moving + 1 else 0
        still := (x.quiet bits).1 }
      let t := { s with acq := { s.acq with sincs := s.acq.sincs.set m y } }
      t.modOutput m v))

/-- MOD_STUCK (R93): the bits since the last output leave 64 clocks without a transition; reported once per occurrence. An input that
Assay owns shows nothing here (R91). -/
def execModStuck (m : Nat) (bits : List Bool) (s : State) : Host.Outcome State Fault Refusal :=
  .next (s.live 4 (if s.flag F.ACQ_MOD_DATA_STUCK m || decide (s.fld F.ACQ_MOD_CFG_OWNER m = 3 ∨ ((s.acq.sincs.get m).quiet bits).1 < 64) then s
    else
      let t := { s with acq := { s.acq with sincs := s.acq.sincs.upd m fun x => { x with moving := 0 } } }
      (t.setFlag F.ACQ_MOD_DATA_STUCK m true).report 0x0202 m))

/-- Inputs that the acquisition does not own any more show no output (R91): VALUE and NEW are 0 for OWNER 0, every field for OWNER 3. -/
def State.modOwners (s : State) : State :=
  s.each (List.range 64) fun m t =>
    match t.fld F.ACQ_MOD_CFG_OWNER m with
    | 0 => (t.setFld F.ACQ_MOD_DATA_VALUE m 0).setFlag F.ACQ_MOD_DATA_NEW m false
    | 3 => t.setReg .ACQ_MOD_DATA m 0
    | _ => t

/-- MOD_STUCK_END (R93): after 16 consecutive outputs with transitions. -/
def execModStuckEnd (m : Nat) (s : State) : Host.Outcome State Fault Refusal :=
  .next (s.live 4 (if 16 ≤ (s.acq.sincs.get m).moving then s.setFlag F.ACQ_MOD_DATA_STUCK m false else s))

/-! ### The marker's work (R73, R78, R85, R88) -/

/-- The marker count that ends a run's time (R78): the next marker after its stroke, or with a STROKE trigger of divider n
the marker that ends its n strokes. -/
def runDeadline (q : Seq) (r : Run) : Nat := r.stroke + if q.src = 0 then max q.arg 1 else 1

/-- Sequences with a run past its deadline at this marker. -/
def State.lateRuns (s : State) : List Nat :=
  ((List.range 16).flatMap fun n =>
    (s.conv n).runs.filterMap fun r =>
      match s.sequence r.seq with
      | some q => if runDeadline q r ≤ s.now then some r.seq else none
      | none => none).eraseDups

/-- Sequence restarts, ended check faults and LP take effect; PWM triggers are armed again; a pair's check comes due every PERIOD strokes
(R86; log entry 28: at the strokes whose count is a multiple of PERIOD); stopped sequences keep their points INVALID. -/
def State.acqMarker (s : State) : State :=
  let s := s.each s.acq.restart fun n t =>
    ((t.setFlag F.ACQ_SEQ_STAT_STOPPED n false).setFld F.ACQ_SEQ_STAT_OVR_CONSEC n 0).completed (.sequence n)
  let s := s.each s.acq.clear fun k t =>
    let t := ((t.setFlag F.ACQ_CHK_STAT_FAULT k false).setFlag F.ACQ_CHK_STAT_SUSPECT_A k false).setFlag F.ACQ_CHK_STAT_SUSPECT_B k false
    (t.setFld F.ACQ_CHK_STAT_CONSEC k 0).setFld F.ACQ_STAT_CHK_FAULT 0 (withBit (t.fld F.ACQ_STAT_CHK_FAULT) k false)
  let s := s.each (List.range 16) fun n t =>
    let lp := t.flag F.ACQ_CNV_CFG_LP n
    (t.onConv n fun c => { c with slow := lp, overSaid := false }).setFld F.ACQ_STAT_LP_ACTIVE 0
      (withBit (t.fld F.ACQ_STAT_LP_ACTIVE) n lp)
  let s := { s with acq := { s.acq with restart := [], clear := [], fired := [] } }
  let s := s.each (List.range 8) fun k t =>
    if t.flag F.ACQ_CHK_CFG_EN k && decide (t.now % max (t.fld F.ACQ_CHK_CFG_PERIOD k) 1 = 0) then t.onCheck k fun x => { x with due := true }
    else t
  s.each ((List.range (acqSeqs (s.body tyACQ))).filter fun n => s.flag F.ACQ_SEQ_STAT_STOPPED n) fun n t => t.invalidPoints n

end Sys2Proof.Machine
end

