-- ==== Sys2Proof/Machine/Bundle.lean ====
section
/-! DEFINITION. How a 64-bit bundle of the code bank spells its slot operations (R137 to R140): the fields of each slot, its opcodes, and
the reserved ones. -/

namespace Sys2Proof.Machine

open Sys2Proof

/-- `n` bits of a word from bit `lo` on, as a number and as a signed one. -/
def bitsAt (w lo n : Nat) : Nat := w / 2 ^ lo % 2 ^ n
def signedAt (w lo n : Nat) : Int := signed n (bitsAt w lo n)

/-- How a slot's operation is issued: `none` for another slot of the bundle that issued last, `some k` for the first slot of a
new bundle that issues after `k` all-zero bundles (R137). -/
abbrev Issue := Option Nat

/-- What a slot spells: `none` for a reserved opcode, no operation for a no-op, else its operation, still to be issued. -/
abbrev SlotOps := Option (List (Issue → Instr))

/-- The MAC slot (R138): OP, A, KA, KB, IMM5. -/
def macSlot (e w : Nat) : SlotOps :=
  let a := w.testBit 15
  let ka := bitsAt w 10 5
  let kb := bitsAt w 5 5
  match bitsAt w 16 4 with
  | 0 => some []
  | 1 => some [fun b => .macz e b a ka kb]
  | 2 => some [fun b => .mac e b a ka kb]
  | 3 => some [fun b => .msu e b a ka kb]
  | 4 => some [fun b => .mova e b a ka]
  | 5 => some [fun b => .ash e b a (signedAt w 0 5)]
  | 6 => some [fun b => .aadd e b a]
  | _ => none

/-- The ALU slot (R139): OP and one of the forms T, I, B, J. END takes the cycles it completes after. -/
def aluSlot (e cycles w : Nat) : SlotOps :=
  let kd := bitsAt w 10 5
  let k1 := bitsAt w 5 5
  let k2 := bitsAt w 0 5
  let imm := signedAt w 0 10
  match bitsAt w 15 5 with
  | 0x00 => some []
  | 0x01 => some [fun b => .add e b kd k1 k2]
  | 0x02 => some [fun b => .sub e b kd k1 k2]
  | 0x03 => some [fun b => .min e b kd k1 k2]
  | 0x04 => some [fun b => .max e b kd k1 k2]
  | 0x05 => some [fun b => .abs e b kd k1]
  | 0x06 => some [fun b => .neg e b kd k1]
  | 0x07 => some [fun b => .clmp e b kd k1 k2]
  | 0x08 => some [fun b => .seln e b kd k1 k2]
  | 0x09 => some [fun b => .scl e b kd (signedAt w 0 5)]
  | 0x0A => some [fun b => .nrm e b (kd % 8) (bitsAt w 0 3)]
  | 0x0B => some [fun b => .sete e b (kd % 8) (signedAt w 0 8)]
  | 0x0C => some [fun b => .ldi e b kd imm]
  | 0x0D => some [fun b => .addi e b kd imm]
  | 0x0E => some [fun b => .movk e b kd k1]
  | 0x0F => some [fun b => .fec e b k1 (k2 % 4)]
  | 0x10 => some [fun b => .beqz e b kd imm]
  | 0x11 => some [fun b => .bnez e b kd imm]
  | 0x12 => some [fun b => .bltz e b kd imm]
  | 0x13 => some [fun b => .bgez e b kd imm]
  | 0x14 => some [fun b => .bqs e b imm]
  | 0x15 => some [fun b => .brun e b imm]
  | 0x16 => some [fun b => .jmp e b (bitsAt w 0 15)]
  | 0x17 => some [fun b => .wait e b (bitsAt w 0 8)]
  | 0x18 => some [fun b => .pub e b k1 (k2 % 16)]
  | 0x19 => some [fun b => .endInst e b cycles]
  | _ => none

/-- The load/store slot (R140): OP, KD, and ADDR or KB with OFS. -/
def memSlot (e w : Nat) : SlotOps :=
  let kd := bitsAt w 15 5
  let addr := bitsAt w 0 15
  let kb := bitsAt w 10 5
  let ofs := signedAt w 0 10
  match bitsAt w 20 4 with
  | 0x0 => some []
  | 0x1 => some [fun b => .ld e b kd addr]
  | 0x2 => some [fun b => .st e b kd addr]
  | 0x3 => some [fun b => .ldx e b kd kb ofs]
  | 0x4 => some [fun b => .stx e b kd kb ofs]
  | 0x5 => some [fun b => .ldc e b kd (bitsAt w 0 12)]
  | 0x6 => some [fun b => .ldq e b kd addr]
  | 0x7 => some [fun b => .ldw e b kd addr]
  | 0x8 => some [fun b => .stw e b kd addr]
  | 0x9 => some [fun b => .ldp e b kd kb]
  | _ => none

/-- The slots of a bundle (R137): MAC in bits 63 to 44, ALU in bits 43 to 24, load/store in bits 23 to 0. -/
def macBits (w : Nat) : Nat := bitsAt w 44 20
def aluBits (w : Nat) : Nat := bitsAt w 24 20
def memBits (w : Nat) : Nat := bitsAt w 0 24

/-- The commands that a bundle of engine `e` stands for, after `k` all-zero ones: MAC, ALU, load/store, with END last (log entry 13). The
first of them issues the bundle. None where a slot has a reserved opcode. -/
def bundleOps (e k cycles w : Nat) : Option (List Instr) :=
  match macSlot e (macBits w), aluSlot e cycles (aluBits w), memSlot e (memBits w) with
  | some m, some a, some l =>
    let order := if bitsAt (aluBits w) 15 5 = 0x19 then m ++ l ++ a else m ++ a ++ l
    some (order.zipIdx.map fun x => x.1 (if x.2 = 0 then some k else none))
  | _, _, _ => none

/-- A bundle has a reserved opcode (R142). -/
def reservedBundle (w : Nat) : Bool := (bundleOps 0 0 0 w).isNone

end Sys2Proof.Machine
end

