-- ==== Sys2Proof/Machine/Calfin.lean ====
section
/-! DEFINITION. The Calfin loop engines: the slot operations, instances, bindings, monitors and result registers
(file 05, R124 to R160). Each operation of a slot is one command; the sender gives the slots of a bundle in the order MAC,
ALU, load/store, with END last (log entry 13). -/

namespace Sys2Proof.Machine

open Sys2Proof

/-- An engine, and a change of it. -/
def State.eng (s : State) (e : Nat) : Engine := s.clf.get e
def State.onEng (s : State) (e : Nat) (f : Engine → Engine) : State := { s with clf := s.clf.upd e f }

/-- A change of the registers that the next bundle reads. -/
def State.onRegs (s : State) (e : Nat) (f : EngRegs → EngRegs) : State := s.onEng e fun g => { g with now := f g.now }

/-! ### Addresses (R126) -/

/-- The host address of a word of an engine's memory. -/
def engineWord (e w : Nat) : Nat := engineBase e + 4 * w

/-- The word at an index. -/
def State.engLoad (s : State) (e w : Nat) : W32 := BitVec.ofNat 32 (s.le (engineWord e w) 4)

/-- A word index lies in the input table or the mailbox, or in the state window. -/
def wordFixed (w : Nat) : Bool := decide (w < 512)
def wordState (w : Nat) : Bool := decide (512 ≤ w ∧ w < 4608)

/-- The base of the code and of the constants bank that an engine runs from. -/
def State.codeBase (s : State) (e : Nat) : Nat := engineBase e + if s.flag F.CLF_ENG_STAT_BANK e then 0x30000 else 0x20000
def State.constBase (s : State) (e : Nat) : Nat := engineBase e + if s.flag F.CLF_ENG_STAT_BANK e then 0x3C000 else 0x2C000

/-! ### Stopping (R142, R155) -/

/-- Mark an engine STOPPED or not. -/
def State.setStopped (s : State) (e : Nat) (on : Bool) : State :=
  if e < 32 then s.setFld F.CLF_STOP0_STOPPED 0 (withBit (s.fld F.CLF_STOP0_STOPPED) e on)
  else s.setFld F.CLF_STOP1_STOPPED 0 (withBit (s.fld F.CLF_STOP1_STOPPED) (e - 32) on)

/-- A program enters STOPPED with a cause. -/
def State.stopProgram (s : State) (e cause : Nat) : State :=
  ((s.setFld F.CLF_ENG_STAT_STATE e 3).setFld F.CLF_ENG_STAT_STOP_CAUSE e cause).setStopped e true

/-- The flags of an instance, as CLF_ENG_FLAGS places them: QF, INV, EXP, OVF. -/
def Engine.flags (g : Engine) : Nat := (if g.qf then 8 else 0) + (if g.inv then 4 else 0) + (if g.exp then 2 else 0) + (if g.ovf then 1 else 0)

/-- The flags that an instance set, completed or not, are kept in ANY, counted, and reported once per heat (R160). -/
def State.flagsSeen (s : State) (e : Nat) : State :=
  let g := s.eng e
  let t := s.setFld F.CLF_ENG_FLAGS_ANY e (s.fld F.CLF_ENG_FLAGS_ANY e ||| g.flags)
  let t := if (g.ovf || g.exp || g.inv) && !g.satSaid then (t.onEng e fun x => { x with satSaid := true }).report 0x0482 e else t
  let t := if g.qf && !g.qualSaid then (t.onEng e fun x => { x with qualSaid := true }).report 0x0483 e else t
  let t := if g.ovf then t.count (3 + e / 8) (e % 8 * 16 + 12) else t
  let t := if g.exp then t.count (3 + e / 8) (e % 8 * 16 + 13) else t
  if g.qf then t.count (3 + e / 8) (e % 8 * 16 + 14) else t

/-- The effects of an unfinished instance are discarded, HELD becomes 1 in every result register (R142, R152, R155); the flags it set are
seen (R160). -/
def State.discard (s : State) (e : Nat) : State :=
  let s := s.flagsSeen e
  let t := s.onEng e fun g => { g with held := [], pubs := [], fecs := [], ready := [], tripped := false }
  let t := t.each (List.range 16) fun r t => t.setFld F.CLF_RES_HI_HELD (e * 16 + r) 1
  t.tagDiscard (16 + e)

/-- An illegal operation or a memory fault stops the instance (R142): the bundle index is recorded, 0402h is reported, and with
cause 3 the program's bay is faulted at the next marker. -/
def State.programStop (s : State) (e cause : Nat) : State :=
  let t := ((s.discard e).stopProgram e cause).setFld F.CLF_ENG_PC_PC e (s.eng e).bundle
  let t := t.report 0x0402 e
  if cause = 3 then (match t.engineBay e with | some b => t.orderFault b | none => t) else t

/-- A double-bit ECC error stands in the 64-bit word of an address (R21). -/
def State.eccAt (s : State) (a : Nat) : Bool := s.ecc.contains (a / 8 * 8)

/-! ### Issue (R125) -/

/-- A new bundle issues: its slots read the registers as they are now (R125). -/
def State.newBundle (s : State) (e k : Nat) : State :=
  let t := s.onEng e fun g => { g with seen := g.now, bundle := g.after + k, after := g.after + k + 1 }
  ((t.count (3 + e / 8) (e % 8 * 16 + 1) (k + 1)).tagIssue (16 + e) t.now (t.eng e).bundle)

/-- The bundle that an engine issues, as its code bank holds it (R126, R137). -/
def State.fetched (s : State) (e : Nat) : Nat := s.le (s.codeBase e + 8 * (s.eng e).bundle) 8

/-- Run one slot of engine `e`: only while its instance runs; a fetch beyond CODE_LEN, or of a word with a double-bit error, or a bundle
with a reserved opcode stops the program (R142). -/
def State.slot (s : State) (e : Nat) (b : Issue) (f : Program → State → State) : State :=
  match s.program e with
  | none => s
  | some g =>
    if s.fld F.CLF_ENG_STAT_STATE e ≠ 1 then s
    else
      let t := match b with | some k => s.newBundle e k | none => s
      if g.codeLen ≤ (t.eng e).bundle || t.eccAt (t.codeBase e + 8 * (t.eng e).bundle) then t.programStop e 3
      else if reservedBundle (t.fetched e) then t.programStop e 2
      else f g t

/-- The word of a register as the bundle sees it; k0 reads as 0 (R124). -/
def State.k (s : State) (e r : Nat) : W32 := if r = 0 then 0 else (s.eng e).seen.k.get r

/-- The mantissa of a register and the exponent of its stage (R131). -/
def State.km (s : State) (e r : Nat) : Int := bfM (s.k e r)
def State.ke (s : State) (e r : Nat) : Int := (s.eng e).seen.ex.get (r / 4)

/-- The exact value of a register in a block-floating program. -/
def State.kval (s : State) (e r : Nat) : Dy := ⟨s.km e r, s.ke e r - 23⟩

/-- Write a register; writes to k0 are ignored (R124). -/
def State.setK (s : State) (e r : Nat) (w : W32) : State :=
  if r = 0 then s else s.onRegs e fun x => { x with k := x.k.set r w }

/-- Set flags of the instance. -/
def State.setOvf (s : State) (e : Nat) (c : Bool) : State := s.onEng e fun g => { g with ovf := g.ovf || c }
def State.setExp (s : State) (e : Nat) (c : Bool) : State := s.onEng e fun g => { g with exp := g.exp || c }
def State.setInv (s : State) (e : Nat) (c : Bool) : State := s.onEng e fun g => { g with inv := g.inv || c }
def State.setQf (s : State) (e : Nat) (c : Bool) : State := s.onEng e fun g => { g with qf := g.qf || c }

/-- A mantissa into a register, with bits [7:0] as 0, saturated with OVF (R131, R132). -/
def State.putM (s : State) (e kd : Nat) (m : Int) : State :=
  let r := sat24 m
  (s.setK e kd (bfWord r.1 0)).setOvf e r.2

/-- A register's mantissa brought to the stage of `kd` (R132), with OVF when that saturates. -/
def State.aligned (s : State) (e r kd : Nat) : Int × Bool := align24 (s.km e r) (s.ke e r) (s.ke e kd)

/-- The result of a binary32 operation into a register, with OVF and INV (R136). -/
def State.putF (s : State) (e kd : Nat) (r : FpRes) : State := ((s.setK e kd r.w).setOvf e r.ovf).setInv e r.inv

/-- Count a MAC operation, an ALU operation, a load, a store and a taken branch (R427). -/
def State.countMac (s : State) (e : Nat) : State := s.count (3 + e / 8) (e % 8 * 16 + 5)
def State.countAlu (s : State) (e : Nat) : State := s.count (3 + e / 8) (e % 8 * 16 + 6)
def State.countLoad (s : State) (e : Nat) : State := s.count (3 + e / 8) (e % 8 * 16 + 7)
def State.countStore (s : State) (e : Nat) : State := s.count (3 + e / 8) (e % 8 * 16 + 8)
def State.countTaken (s : State) (e : Nat) : State := s.count (3 + e / 8) (e % 8 * 16 + 9)

/-! ### MAC slot (R133, R138) -/

/-- An accumulator with its exponent as the bundle sees it; `a` false is a0. -/
def State.acc (s : State) (e : Nat) (a : Bool) : Int := if a then (s.eng e).seen.a1 else (s.eng e).seen.a0
def State.accE (s : State) (e : Nat) (a : Bool) : Int := if a then (s.eng e).seen.ea1 else (s.eng e).seen.ea0
def State.accF (s : State) (e : Nat) (a : Bool) : W32 := if a then (s.eng e).seen.f1 else (s.eng e).seen.f0

/-- Write an accumulator, saturated with OVF, and its exponent, clamped with EXP (R133). -/
def State.putAcc (s : State) (e : Nat) (a : Bool) (v ea : Int) : State :=
  let r := sat56 v
  let x := clampInt (-512) 511 ea
  let t := s.onRegs e fun y => if a then { y with a1 := r.1, ea1 := x } else { y with a0 := r.1, ea0 := x }
  (t.setOvf e r.2).setExp e (decide (x ≠ ea))

/-- Write a binary32 accumulator. -/
def State.putAccF (s : State) (e : Nat) (a : Bool) (r : FpRes) : State :=
  ((s.onRegs e fun y => if a then { y with f1 := r.w } else { y with f0 := r.w }).setOvf e r.ovf).setInv e r.inv

/-- A value aligned from one accumulator exponent to another (R133): a left shift saturates with OVF. -/
def accAlign (v eSrc eDst : Int) : Int × Bool := sat56 (alignBy 56 v eSrc eDst)

/-- Add an aligned value to an accumulator. -/
def State.accAdd (s : State) (e : Nat) (a : Bool) (v ev : Int) : State :=
  let r := accAlign v ev (s.accE e a)
  (s.putAcc e a (s.acc e a + r.1) (s.accE e a)).setOvf e r.2

/-- Subtract an aligned value from an accumulator: the value is aligned first (R133), so a saturated alignment keeps its own limit. -/
def State.accSub (s : State) (e : Nat) (a : Bool) (v ev : Int) : State :=
  let r := accAlign v ev (s.accE e a)
  (s.putAcc e a (s.acc e a - r.1) (s.accE e a)).setOvf e r.2

/-- MACZ: aA ← kKA × kKB. -/
def execMacz (e : Nat) (b : Option Nat) (a : Bool) (ka kb : Nat) (s : State) : Host.Outcome State Fault Refusal :=
  .next (s.live 2 (s.slot e b fun g t => (
    if g.fmt = 0 then t.putAcc e a (t.km e ka * t.km e kb) (t.ke e ka + t.ke e kb)
    else t.putAccF e a (fpMul (t.k e ka) (t.k e kb))).countMac e))

/-- MAC: aA ← aA + kKA × kKB. -/
def execMac (e : Nat) (b : Option Nat) (a : Bool) (ka kb : Nat) (s : State) : Host.Outcome State Fault Refusal :=
  .next (s.live 2 (s.slot e b fun g t => (
    if g.fmt = 0 then t.accAdd e a (t.km e ka * t.km e kb) (t.ke e ka + t.ke e kb)
    else t.putAccF e a (fpFma false (t.accF e a) (t.k e ka) (t.k e kb))).countMac e))

/-- MSU: aA ← aA − kKA × kKB. -/
def execMsu (e : Nat) (b : Option Nat) (a : Bool) (ka kb : Nat) (s : State) : Host.Outcome State Fault Refusal :=
  .next (s.live 2 (s.slot e b fun g t => (
    if g.fmt = 0 then t.accSub e a (t.km e ka * t.km e kb) (t.ke e ka + t.ke e kb)
    else t.putAccF e a (fpFma true (t.accF e a) (t.k e ka) (t.k e kb))).countMac e))

/-- MOVA: kKA ← aA, as M = ACC × 2^(EA − 46 − E_d + 23). -/
def execMova (e : Nat) (b : Option Nat) (a : Bool) (ka : Nat) (s : State) : Host.Outcome State Fault Refusal :=
  .next (s.live 2 (s.slot e b fun g t => (
    if g.fmt = 0 then t.putM e ka (scaleRound (t.acc e a) (t.accE e a - 23 - t.ke e ka))
    else t.setK e ka (t.accF e a)).countMac e))

/-- ASH: EA of aA ← EA + IMM5, signed; with FMT = 1 the accumulator times 2^IMM5. -/
def execAsh (e : Nat) (b : Option Nat) (a : Bool) (imm : Int) (s : State) : Host.Outcome State Fault Refusal :=
  .next (s.live 2 (s.slot e b fun g t => (
    if g.fmt = 0 then t.putAcc e a (t.acc e a) (t.accE e a + imm)
    else t.putAccF e a (fpScale (t.accF e a) imm)).countMac e))

/-- AADD: aA ← aA + the other accumulator, aligned. -/
def execAadd (e : Nat) (b : Option Nat) (a : Bool) (s : State) : Host.Outcome State Fault Refusal :=
  .next (s.live 2 (s.slot e b fun g t => (
    if g.fmt = 0 then t.accAdd e a (t.acc e (!a)) (t.accE e (!a))
    else t.putAccF e a (fpAdd (t.accF e a) (t.accF e (!a)))).countMac e))

/-! ### ALU slot (R132, R134, R139) -/

/-- A block-floating operation of two registers brought to the stage of `kd`. -/
def State.bf2 (s : State) (e kd r1 r2 : Nat) (f : Int → Int → Int) : State :=
  let x := s.aligned e r1 kd
  let y := s.aligned e r2 kd
  ((s.putM e kd (f x.1 y.1)).setOvf e (x.2 || y.2)).countAlu e

/-- One register brought to the stage of `kd` and changed. -/
def State.bf1 (s : State) (e kd r : Nat) (f : Int → Int) : State :=
  let x := s.aligned e r kd
  ((s.putM e kd (f x.1)).setOvf e x.2).countAlu e

/-- ADD: kd ← ks1 + ks2. -/
def execAdd (e : Nat) (b : Option Nat) (kd k1 k2 : Nat) (s : State) : Host.Outcome State Fault Refusal :=
  .next (s.live 2 (s.slot e b fun g t =>
    if g.fmt = 0 then t.bf2 e kd k1 k2 (fun x y => x + y) else (t.putF e kd (fpAdd (t.k e k1) (t.k e k2))).countAlu e))

/-- SUB: kd ← ks1 − ks2. -/
def execSub (e : Nat) (b : Option Nat) (kd k1 k2 : Nat) (s : State) : Host.Outcome State Fault Refusal :=
  .next (s.live 2 (s.slot e b fun g t =>
    if g.fmt = 0 then t.bf2 e kd k1 k2 (fun x y => x - y) else (t.putF e kd (fpSub (t.k e k1) (t.k e k2))).countAlu e))

/-- One of two binary32 words by a comparison; a NaN operand is invalid (R136). Of two zeros of different signs the sign is free. -/
def fpPick (lower : Bool) (a c : W32) : FpRes :=
  match fpOf true a, fpOf true c with
  | .nan, _ => .bad
  | _, .nan => .bad
  | .zero m, .zero n => ⟨if m = n then fpFlush a else if Config.equalZeroSign lower a c then 0x80000000#32 else 0#32, false, false⟩
  | x, y => if (if lower then fpLt y x else fpLt x y) then ⟨fpFlush c, false, false⟩ else ⟨fpFlush a, false, false⟩

/-- The lesser or the greater of two registers by exact value (R132). -/
def State.pickK (s : State) (lower : Bool) (e r1 r2 : Nat) : Nat :=
  if lower then (if (s.kval e r2).lt (s.kval e r1) then r2 else r1) else (if (s.kval e r1).lt (s.kval e r2) then r2 else r1)

/-- MIN: kd ← the lesser of ks1 and ks2. -/
def execMin (e : Nat) (b : Option Nat) (kd k1 k2 : Nat) (s : State) : Host.Outcome State Fault Refusal :=
  .next (s.live 2 (s.slot e b fun g t =>
    if g.fmt = 0 then t.bf1 e kd (t.pickK true e k1 k2) (fun x => x) else (t.putF e kd (fpPick true (t.k e k1) (t.k e k2))).countAlu e))

/-- MAX: kd ← the greater of ks1 and ks2. -/
def execMax (e : Nat) (b : Option Nat) (kd k1 k2 : Nat) (s : State) : Host.Outcome State Fault Refusal :=
  .next (s.live 2 (s.slot e b fun g t =>
    if g.fmt = 0 then t.bf1 e kd (t.pickK false e k1 k2) (fun x => x) else (t.putF e kd (fpPick false (t.k e k1) (t.k e k2))).countAlu e))

/-- A binary32 word with its sign bit set as given; a NaN is invalid. -/
def fpSign (w : W32) (neg : Bool → Bool) : FpRes :=
  match fpOf true w with
  | .nan => .bad
  | x => ⟨if neg x.neg then fpFlush w ||| 0x80000000 else fpFlush w &&& 0x7FFFFFFF, false, false⟩

/-- ABS: kd ← |ks1|. -/
def execAbs (e : Nat) (b : Option Nat) (kd k1 : Nat) (s : State) : Host.Outcome State Fault Refusal :=
  .next (s.live 2 (s.slot e b fun g t =>
    if g.fmt = 0 then t.bf1 e kd k1 (fun x => (x.natAbs : Int)) else (t.putF e kd (fpSign (t.k e k1) fun _ => false)).countAlu e))

/-- NEG: kd ← −ks1. -/
def execNeg (e : Nat) (b : Option Nat) (kd k1 : Nat) (s : State) : Host.Outcome State Fault Refusal :=
  .next (s.live 2 (s.slot e b fun g t =>
    if g.fmt = 0 then t.bf1 e kd k1 (fun x => -x) else (t.putF e kd (fpSign (t.k e k1) fun n => !n)).countAlu e))

/-- min(max(kd, ks1), ks2) of binary32 words. -/
def fpClamp (d lo hi : W32) : FpRes :=
  let r := fpPick false d lo
  if r.inv then r else fpPick true r.w hi

/-- CLMP: kd ← min(max(kd, ks1), ks2); the upper limit prevails. -/
def execClmp (e : Nat) (b : Option Nat) (kd k1 k2 : Nat) (s : State) : Host.Outcome State Fault Refusal :=
  .next (s.live 2 (s.slot e b fun g t =>
    if g.fmt = 0 then t.bf1 e kd (t.pickK true e (t.pickK false e kd k1) k2) (fun x => x)
    else (t.putF e kd (fpClamp (t.k e kd) (t.k e k1) (t.k e k2))).countAlu e))

/-- SELN: kd ← ks1 if ks2 is negative; a NaN in ks2 leaves kd unchanged and sets INV (R136). -/
def execSeln (e : Nat) (b : Option Nat) (kd k1 k2 : Nat) (s : State) : Host.Outcome State Fault Refusal :=
  .next (s.live 2 (s.slot e b fun g t =>
    if g.fmt = 0 then (if t.km e k2 < 0 then t.bf1 e kd k1 (fun x => x) else t.countAlu e)
    else match fpOf true (t.k e k2) with
      | .nan => (t.setInv e true).countAlu e
      | y => if fpLt y (.zero false) then
          (t.putF e kd (match fpOf true (t.k e k1) with | .nan => .bad | _ => ⟨fpFlush (t.k e k1), false, false⟩)).countAlu e
        else t.countAlu e))

/-- SCL: kd ← kd × 2^n, saturating. -/
def execScl (e : Nat) (b : Option Nat) (kd : Nat) (n : Int) (s : State) : Host.Outcome State Fault Refusal :=
  .next (s.live 2 (s.slot e b fun g t =>
    if g.fmt = 0 then (t.putM e kd (scaleRound (t.km e kd) n)).countAlu e else (t.putF e kd (fpScale (t.k e kd) n)).countAlu e))

/-- Redundant sign bits of a 24-bit mantissa. -/
def signBits (m : Int) : Int := 23 - (bitLen (if m < 0 then (-m - 1).toNat else m.toNat) : Nat)

/-- NRM on the four registers of a stage (R134). -/
def State.normalise (s : State) (e i h : Nat) : State :=
  let rs := (List.range 4).map fun j => 4 * i + j
  let ms := (rs.filter fun r => decide (r ≠ 0)).map fun r => s.km e r
  let nz := ms.filter fun m => decide (m ≠ 0)
  let ei := (s.eng e).seen.ex.get i
  if nz = [] then s
  else
    let z := nz.foldl (fun x m => min x (signBits m)) 23
    let sh := z - (h : Int)
    -- the shift stops where Ei would leave −128 to +127; a cut-short right shift sets EXP
    let k := if 0 < sh then min sh (ei + 128) else max sh (ei - 127)
    let t := rs.foldl (fun t r => t.setK e r (bfWord (scaleRound (s.km e r) k) 0)) s
    (t.onRegs e fun x => { x with ex := x.ex.set i (ei - k) }).setExp e (decide (sh < 0 ∧ k ≠ sh))

/-- NRM: stage i to a headroom of h bits; illegal with FMT = 1. -/
def execNrm (e : Nat) (b : Option Nat) (st h : Nat) (s : State) : Host.Outcome State Fault Refusal :=
  .next (s.live 2 (s.slot e b fun g t => if g.fmt = 0 then (t.normalise e st h).countAlu e else t.programStop e 2))

/-- SETE: E of a stage ← the value; illegal with FMT = 1. -/
def execSete (e : Nat) (b : Option Nat) (st : Nat) (v : Int) (s : State) : Host.Outcome State Fault Refusal :=
  .next (s.live 2 (s.slot e b fun g t =>
    if g.fmt = 0 then (t.onRegs e fun x => { x with ex := x.ex.set st (signed 8 (unsignedOf 8 v)) }).countAlu e else t.programStop e 2))

/-- LDI: kd ← the sign-extended immediate, an integer. -/
def execLdi (e : Nat) (b : Option Nat) (kd : Nat) (imm : Int) (s : State) : Host.Outcome State Fault Refusal :=
  .next (s.live 2 (s.slot e b fun _ t => (t.setK e kd (BitVec.ofInt 32 imm)).countAlu e))

/-- ADDI: kd ← kd + the sign-extended immediate, two's-complement integers of 32 bits (log entry 13). -/
def execAddi (e : Nat) (b : Option Nat) (kd : Nat) (imm : Int) (s : State) : Host.Outcome State Fault Refusal :=
  .next (s.live 2 (s.slot e b fun _ t => (t.setK e kd (t.k e kd + BitVec.ofInt 32 imm)).countAlu e))

/-- MOVK: kd ← ks1, aligned to kd's stage; unchanged with FMT = 1. -/
def execMovk (e : Nat) (b : Option Nat) (kd k1 : Nat) (s : State) : Host.Outcome State Fault Refusal :=
  .next (s.live 2 (s.slot e b fun g t => if g.fmt = 0 then t.bf1 e kd k1 (fun x => x) else (t.setK e kd (t.k e k1)).countAlu e))

/-- A register as a word of the program's format: BF32 with its stage exponent, or binary32. -/
def State.word (s : State) (g : Program) (e r : Nat) : W32 := if g.fmt = 0 then bfWord (s.km e r) (s.ke e r) else s.k e r

/-- An entry of a small table, replacing an older one. -/
def putNew (k : Nat) (v : W32) (l : List (Nat × W32)) : List (Nat × W32) := l.filter (fun c => decide (c.1 ≠ k)) ++ [(k, v)]

/-- FEC: the following-error sample of a monitor; the one executed last stands (R150). -/
def execFec (e : Nat) (b : Option Nat) (k1 m : Nat) (s : State) : Host.Outcome State Fault Refusal :=
  .next (s.live 2 (s.slot e b fun g t => (t.onEng e fun x => { x with fecs := putNew (m % 4) (t.word g e k1) x.fecs }).countAlu e))

/-- The next bundle is `target`; a target below 0 lies beyond the code (R142). DESIGN CHOICE (log entry 13): a target below 0 counts as
bundle 65,536, and CLF_ENG_PC, which has 13 bits, shows the index of a stop cut to them. -/
def State.jump (s : State) (e : Nat) (target : Int) : State :=
  (s.onEng e fun x => { x with after := if target < 0 then 2 ^ 16 else target.toNat }).countTaken e

/-- A branch by its offset from the branch's own bundle. -/
def State.branch (s : State) (e : Nat) (c : Bool) (ofs : Int) : State :=
  (if c then s.jump e ((s.eng e).bundle + ofs) else s).countAlu e

/-- BEQZ: branch if ks1 = 0. -/
def execBeqz (e : Nat) (b : Option Nat) (k1 : Nat) (ofs : Int) (s : State) : Host.Outcome State Fault Refusal :=
  .next (s.live 2 (s.slot e b fun _ t => t.branch e (decide (t.k e k1 = 0)) ofs))

/-- BNEZ: branch if ks1 ≠ 0. -/
def execBnez (e : Nat) (b : Option Nat) (k1 : Nat) (ofs : Int) (s : State) : Host.Outcome State Fault Refusal :=
  .next (s.live 2 (s.slot e b fun _ t => t.branch e (decide (t.k e k1 ≠ 0)) ofs))

/-- BLTZ: branch if bit 31 of ks1 is set. -/
def execBltz (e : Nat) (b : Option Nat) (k1 : Nat) (ofs : Int) (s : State) : Host.Outcome State Fault Refusal :=
  .next (s.live 2 (s.slot e b fun _ t => t.branch e (t.k e k1).msb ofs))

/-- BGEZ: branch if bit 31 of ks1 is clear. -/
def execBgez (e : Nat) (b : Option Nat) (k1 : Nat) (ofs : Int) (s : State) : Host.Outcome State Fault Refusal :=
  .next (s.live 2 (s.slot e b fun _ t => t.branch e (!(t.k e k1).msb) ofs))

/-- BQS: branch if QF is set. -/
def execBqs (e : Nat) (b : Option Nat) (ofs : Int) (s : State) : Host.Outcome State Fault Refusal :=
  .next (s.live 2 (s.slot e b fun _ t => t.branch e (t.eng e).qf ofs))

/-- BRUN: branch if the program's bay had RUN = 1 at the start of the instance. -/
def execBrun (e : Nat) (b : Option Nat) (ofs : Int) (s : State) : Host.Outcome State Fault Refusal :=
  .next (s.live 2 (s.slot e b fun _ t => t.branch e (t.eng e).runAtStart ofs))

/-- JMP: to an absolute bundle index. -/
def execJmp (e : Nat) (b : Option Nat) (target : Nat) (s : State) : Host.Outcome State Fault Refusal :=
  .next (s.live 2 (s.slot e b fun _ t => (t.jump e target).countAlu e))

/-- WAIT: completes once the arrival bit is set; until then the engine stalls and nothing changes (R129). -/
def execWait (e : Nat) (b : Option Nat) (bit : Nat) (s : State) : Host.Outcome State Fault Refusal :=
  .next (s.live 2 (if bitOf (s.eng e).arrival (bit % 256) then s.slot e b fun _ t => t.countAlu e else s))

/-- PUB: a result register takes ks1 at END. -/
def execPub (e : Nat) (b : Option Nat) (k1 r : Nat) (s : State) : Host.Outcome State Fault Refusal :=
  .next (s.live 2 (s.slot e b fun g t => (t.onEng e fun x => { x with pubs := putNew (r % 16) (t.word g e k1) x.pubs }).countAlu e))

/-! ### END (R142, R150, R152) -/

/-- The held stores of the instance become visible together. -/
def State.commitStores (s : State) (e : Nat) : State :=
  (((s.eng e).held).foldl (fun t c => t.setLe (engineWord e c.1) 4 c.2.toNat) s).onEng e fun x => { x with held := [] }

/-- A published result: VALUE, SEQ, READY = 1, HELD = 0, and every read mark of it cleared (R152). -/
def State.publish (s : State) (g : Program) (e r : Nat) (v : W32) : State :=
  let j := e * 16 + r
  let t := (((s.setReg .CLF_RES_LO j v).setFld F.CLF_RES_HI_READY j 1).setFld F.CLF_RES_HI_HELD j 0).setFld F.CLF_RES_HI_FMT j g.fmt
  (t.setFld F.CLF_RES_HI_SEQ j (s.eng e).start).onEng e fun x => { x with
    marks := x.marks.filter fun c => decide (c.2 ≠ r), ready := x.ready ++ [r] }

/-- A following error lies outside a band (R150): in binary32 an infinity or a NaN always does. -/
def outsideBand (fmt : Nat) (err band : W32) : Bool :=
  if fmt = 0 then
    let x := bfVal err
    (bfVal band).lt ⟨(x.m.natAbs : Int), x.e⟩
  else match fpOf true err, fpOf true band with
    | .nan, _ => true
    | .inf _, _ => true
    | _, .inf _ => false
    | x, y => let d := x.dy; y.dy.lt ⟨(d.m.natAbs : Int), d.e⟩

/-- The effect of the last FEC sample of a monitor at END (R150). -/
def State.monitorEnd (s : State) (g : Program) (e m : Nat) (err : W32) : State :=
  match s.monitor e m with
  | none => s
  | some x =>
    let j := e * 4 + m
    if s.flag F.CLF_FE_STAT_TRIP j || (g.bay.isSome && !(s.eng e).runAtStart) then s
    else if outsideBand g.fmt err x.band then
      s.setFld F.CLF_FE_STAT_COUNT j (min (s.fld F.CLF_FE_STAT_COUNT j + g.rate) 65535)
    else s.setFld F.CLF_FE_STAT_COUNT j 0

/-- The flags of a completed instance are shown in LAST (R160). -/
def State.flagsEnd (s : State) (e : Nat) : State := (s.setFld F.CLF_ENG_FLAGS_LAST e (s.eng e).flags).flagsSeen e

/-- END: the instance completes after the given number of cycles. -/
def execEndInst (e : Nat) (b : Option Nat) (cycles : Nat) (s : State) : Host.Outcome State Fault Refusal :=
  .next (s.live 2 (s.slot e b fun g t =>
    let t := t.commitStores e
    let t := ((t.eng e).pubs).foldl (fun t c => t.publish g e c.1 c.2) t
    let t := ((t.eng e).fecs).foldl (fun t c => t.monitorEnd g e c.1 c.2) t
    let t := t.flagsEnd e
    let t := (t.setFld F.CLF_ENG_CYC_LAST e cycles).setFld F.CLF_ENG_PEAK_PEAK e (max (t.fld F.CLF_ENG_PEAK_PEAK e) cycles)
    let t := ((t.setFld F.CLF_ENG_STAT_STATE e 2).setFld F.CLF_ENG_STAT_OVR_CONSEC e 0).completed (.program e)
    (t.onEng e fun x => { x with pubs := [], fecs := [] }).countAlu e))

/-! ### Load/store slot (R128, R135, R140) -/

/-- A BF32 word into a register, aligned to its stage; 32 bits unchanged with FMT = 1. -/
def State.putWord (s : State) (g : Program) (e kd : Nat) (w : W32) : State :=
  if g.fmt = 0 then
    let r := align24 (bfM w) (bfE w) (s.ke e kd)
    (s.setK e kd (bfWord r.1 0)).setOvf e r.2
  else s.setK e kd w

/-- A load of a word of the engine's memory; a double-bit error stops the instance (R142). -/
def State.loadAt (s : State) (e a : Nat) (f : State → W32 → State) : State :=
  if s.eccAt a then s.programStop e 3 else (f s (BitVec.ofNat 32 (s.le a 4))).countLoad e

/-- A store: a state-window word is held, a word of the input table or the mailbox stops the instance (R128, R142). -/
def State.storeAt (s : State) (e w : Nat) (v : W32) : State :=
  if wordFixed w then s.programStop e 3
  else if wordState w then (s.onEng e fun x => { x with held := putNew w v x.held }).countStore e
  else (s.setLe (engineWord e w) 4 v.toNat).countStore e

/-- An indexed word index kKB + OFS; `none` outside 0 to 32,767 (R142). -/
def State.index (s : State) (e kb : Nat) (ofs : Int) : Option Nat :=
  let x := (s.k e kb).toInt + ofs
  if 0 ≤ x ∧ x < 32768 then some x.toNat else none

/-- LD: kd ← the BF32 word at ADDR. -/
def execLd (e : Nat) (b : Option Nat) (kd addr : Nat) (s : State) : Host.Outcome State Fault Refusal :=
  .next (s.live 2 (s.slot e b fun g t => t.loadAt e (engineWord e addr) fun t w => t.putWord g e kd w))

/-- ST: the word at ADDR ← kd as BF32 with its stage exponent. -/
def execSt (e : Nat) (b : Option Nat) (kd addr : Nat) (s : State) : Host.Outcome State Fault Refusal :=
  .next (s.live 2 (s.slot e b fun g t => t.storeAt e addr (t.word g e kd)))

/-- LDX: as LD, indexed. -/
def execLdx (e : Nat) (b : Option Nat) (kd kb : Nat) (ofs : Int) (s : State) : Host.Outcome State Fault Refusal :=
  .next (s.live 2 (s.slot e b fun g t => match t.index e kb ofs with
    | some w => t.loadAt e (engineWord e w) fun t v => t.putWord g e kd v
    | none => t.programStop e 3))

/-- STX: as ST, indexed. -/
def execStx (e : Nat) (b : Option Nat) (kd kb : Nat) (ofs : Int) (s : State) : Host.Outcome State Fault Refusal :=
  .next (s.live 2 (s.slot e b fun g t => match t.index e kb ofs with
    | some w => t.storeAt e w (t.word g e kd)
    | none => t.programStop e 3))

/-- LDC: kd ← a word of the active constants bank, as LD. -/
def execLdc (e : Nat) (b : Option Nat) (kd addr : Nat) (s : State) : Host.Outcome State Fault Refusal :=
  .next (s.live 2 (s.slot e b fun g t => t.loadAt e (t.constBase e + 4 * (addr % 4096)) fun t w => t.putWord g e kd w))

/-- LDQ: kd ← an acquisition word, M = VALUE × 2^(19 − E_d); QF when QUAL ≥ QTHR or its arrival bit is clear (R135). -/
def State.loadQ (s : State) (g : Program) (e kd addr : Nat) (w : W32) : State :=
  let v := signed 18 w.toNat
  let q := decide (g.qthr ≤ w.toNat / 2 ^ 29) || (decide (addr < 256) && !bitOf (s.eng e).arrival addr)
  let t := if g.fmt = 0 then s.putM e kd (scaleRound v (19 - s.ke e kd)) else s.setK e kd (fpOfDy true false ⟨v, -4⟩).1
  t.setQf e q

def execLdq (e : Nat) (b : Option Nat) (kd addr : Nat) (s : State) : Host.Outcome State Fault Refusal :=
  .next (s.live 2 (s.slot e b fun g t => t.loadAt e (engineWord e addr) fun t w => t.loadQ g e kd addr w))

/-- LDW: kd ← the 32-bit word at ADDR, unchanged. -/
def execLdw (e : Nat) (b : Option Nat) (kd addr : Nat) (s : State) : Host.Outcome State Fault Refusal :=
  .next (s.live 2 (s.slot e b fun _ t => t.loadAt e (engineWord e addr) fun t w => t.setK e kd w))

/-- STW: the 32-bit word at ADDR ← kd, unchanged. -/
def execStw (e : Nat) (b : Option Nat) (kd addr : Nat) (s : State) : Host.Outcome State Fault Refusal :=
  .next (s.live 2 (s.slot e b fun _ t => t.storeAt e addr (t.k e kd)))

/-- What LDP finds in a point (R319): an exact number, an infinity of a sign, or a NaN. -/
inductive PointNum where
  | num (x : Dy)
  | inf (neg : Bool)
  | nan
  deriving DecidableEq, Repr

/-- The content of a point for LDP: subnormals as 0, ACQ as VALUE ÷ 16, nothing for UNDEF and RAW64. -/
def pointNum (typ : Nat) (v : W64) : Option PointNum :=
  match typ with
  | 0 => none
  | 5 => match fpOf true (v.setWidth 32) with
    | .nan => some .nan
    | .inf n => some (.inf n)
    | x => some (.num x.dy)
  | 7 => some (.num ⟨signed 18 v.toNat, -4⟩)
  | _ => (typedDy typ v).map PointNum.num

/-- Whether LDP sets QF (R135, R140, R319): the point's quality is not good, or its ACQ word has QUAL at or above QTHR. -/
def State.pointDoubt (s : State) (g : Program) (p : Nat) : Bool :=
  !s.pointGood p || (decide (s.pointType p = 7) && decide (g.qthr ≤ (s.point p).value.toNat / 2 ^ 29 % 8))

/-- LDP: kd ← the value of a point (R140, R319). An infinity saturates at the limit of its sign, a NaN at a limit that is free (log
entry 30), and both set QF. -/
def State.loadP (s : State) (g : Program) (e kd p : Nat) : State :=
  let put (s : State) (x : Dy) : State :=
    if g.fmt = 0 then (let r := toBf x; (s.putWord g e kd r.1).setOvf e r.2)
    else let r := fpOfDy true false x; (s.setK e kd r.1).setOvf e r.2
  let top (s : State) (neg : Bool) : State :=
    if g.fmt = 0 then (s.putWord g e kd (bfWord (if neg then bfMin else bfMax) 127)).setOvf e true
    else s.setK e kd (if neg then 0xFF7FFFFF#32 else 0x7F7FFFFF#32)
  (match pointNum (s.pointType p) (s.point p).value with
  | none => (put s ⟨0, 0⟩).setQf e true
  | some (.num x) => put s x
  | some (.inf n) => (top s n).setQf e true
  | some .nan => ((top s (decide (s.fresh 1 = 1))).tick).setQf e true).setQf e (s.pointDoubt g p)

def execLdp (e : Nat) (b : Option Nat) (kd kb : Nat) (s : State) : Host.Outcome State Fault Refusal :=
  .next (s.live 2 (s.slot e b fun g t => (t.loadP g e kd ((t.k e kb).toNat % 2 ^ 18)).countLoad e))

/-! ### Bindings (R145, R147, R319) -/

/-- A result word as an exact number, an infinity or a NaN. -/
def resultNum (fmt : Nat) (w : W32) : PointNum :=
  if fmt = 0 then .num (bfVal w)
  else match fpOf true w with
    | .nan => .nan
    | .inf n => .inf n
    | x => .num x.dy

/-- A result as an integer of a register: round(value × 2^SCALE) kept between limits, and the OVF and INV it leaves. -/
def bindInt (lo hi scale : Int) : PointNum → Int × Bool × Bool
  | .num x => let i := scaleRound x.m (x.e + scale); (clampInt lo hi i, decide (i < lo ∨ hi < i), false)
  | .inf n => (if n then lo else hi, true, false)
  | .nan => (0, false, true)

/-- The value and quality a binding writes to a point of a TYPE (R319): BF32 unchanged from a block-floating program, binary32 as it is
but for a subnormal, which is 0 with its sign. -/
def bindPoint (fmt typ : Nat) (w : W32) : PointNum → W64 × Nat
  | .num x =>
    if typ = 5 ∧ fmt ≠ 0 then ((fpFlush w).setWidth 64, 0)
    else if typ = 6 ∧ fmt = 0 then (w.setWidth 64, 0)
    else let r := typedOf typ x; (r.1, if r.2 then 2 else 0)
  | .inf n =>
    if typ = 1 then (1, 0)
    else if typ = 5 then (w.setWidth 64, 2)
    else if typ = 6 then ((bfWord (if n then bfMin else bfMax) 127).setWidth 64, 2)
    else ((typedOf typ ⟨if n then -1 else 1, 100⟩).1, 2)
  | .nan => if typ = 5 then (w.setWidth 64, 4) else (0, 4)

/-- Write one published result to one destination. -/
def State.bind (s : State) (g : Program) (b : Binding) (w : W32) : State :=
  let x := resultNum g.fmt w
  let mark (s : State) (o i : Bool) : State := s.onEng b.engine fun y => { y with nextOvf := y.nextOvf || o, nextInv := y.nextInv || i }
  match b.typ with
  | 0 =>
    let r := bindInt 0 0xFFFF b.scale x
    mark (s.setFld F.FRG_BAY_REF_REF (b.dest % 32) r.1.toNat) r.2.1 r.2.2
  | 1 =>
    let r := bindInt (-0x8000) 0x7FFF b.scale x
    mark ((s.setFld F.FRG_PH_TEMP_TEMP (b.dest % 128) (unsignedOf 16 r.1)).onPhase (b.dest % 128) fun y => { y with fresh := true })
      r.2.1 r.2.2
  | 2 => s.setLe (engineWord (b.dest / 2 ^ 24 % 64) (256 + b.dest % 256)) 4 w.toNat
  | 3 =>
    let p := b.dest % 2 ^ 18
    let r := bindPoint g.fmt (s.pointType p) w x
    s.writePoint { id := p, cls := 3, ident := 0, value := r.1, qual := r.2, time := s.now, ofs := 0 }
  | 4 => s.ringDeliver (b.dest % 64) (leBytes 6 (s.eng b.engine).start ++ [BitVec.ofNat 8 b.engine, BitVec.ofNat 8 b.result]
      ++ leBytes 4 w.toNat ++ leBytes 4 0)
  | _ => s

/-- The word that a binding of a result takes: what the instance published, or on a standby the holder's (R302, R303). -/
def State.bound (s : State) (e r : Nat) (published : List Nat) : Option W32 :=
  if s.standby then (s.peg.results.find? fun c => decide (c.1 = e ∧ c.2.1 = r)).map fun c => c.2.2
  else if published.contains r then some (s.reg .CLF_RES_LO (e * 16 + r))
  else none

/-- The period of an engine's program ends at this marker (R146). -/
def State.periodEnds (s : State) (e : Nat) : Bool :=
  match s.program e with | some g => decide (e < s.engineCount ∧ s.now % max g.rate 1 = 0) | none => false

/-- One binding at the marker that ends its source's period (R147). -/
def State.bindOne (s : State) (b : Binding) : State :=
  match s.program b.engine, s.bound b.engine b.result (s.eng b.engine).ready with
  | some g, some w => if s.periodEnds b.engine then s.bind g b w else s
  | _, _ => s

/-- The bindings of the instances that completed, each published result to each of its destinations, in the order of the section, so that
of two records for one destination the later prevails (R145). -/
def State.bindAll (s : State) : State :=
  let t := (loopBindings (s.body tyLOOP)).foldl State.bindOne s
  t.each ((List.range t.engineCount).filter t.periodEnds) fun e t => t.onEng e fun x => { x with ready := [] }

/-! ### Instances (R124, R146, R156) -/

/-- The start of an instance: registers and accumulators 0, E_INIT, no flag but those a binding left, no arrival, READY
cleared in every result register, and a standby's mirror buffer taken into the state window (R124, R128, R152). DESIGN CHOICE (log entry
13): BRUN of a program without a bay finds RUN = 1 (R139). -/
def State.startInstance (s : State) (g : Program) (e : Nat) : State :=
  let t := ((s.eng e).mirror).foldl (fun t c => t.setLe (engineWord e c.1) 4 c.2.toNat) s
  let r : EngRegs := { EngRegs.zero with ex := (g.eInit.zipIdx).foldl (fun a (v, j) => a.set j v) ⟨0, []⟩ }
  let run := match g.bay with | some b => t.flag F.FRG_BAY_CTL_RUN b | none => true
  let t := t.onEng e fun x => { x with
    now := r, seen := r, ovf := x.nextOvf, exp := false, inv := x.nextInv, qf := false, arrival := 0, bundle := 0, after := 0,
    start := t.now, runAtStart := run, held := [], pubs := [], fecs := [], ready := [], tripped := false, nextOvf := false,
    nextInv := false, mirror := [] }
  let t := t.each (List.range 16) fun k t => t.setFld F.CLF_RES_HI_READY (e * 16 + k) 0
  (t.setFld F.CLF_ENG_STAT_STATE e 1).count (3 + e / 8) (e % 8 * 16 + 10)

/-- An overrun of a program (R155): discarded, counted, and reported with 0484h and 0083h. -/
def State.engineLate (s : State) (e : Nat) : State :=
  let t := ((s.discard e).countOverrun (.program e) F.SYS_OVR_SUM_CLF).bumpSat F.CLF_ENG_STAT_OVERRUNS e
  let t := t.setFld F.CLF_ENG_STAT_OVR_CONSEC e (min (t.overruns (.program e)) 15)
  let t := ((t.setFld F.CLF_ENG_STAT_STATE e 2).count (3 + e / 8) (e % 8 * 16 + 11)).count 0 109
  (t.report 0x0083 e).report 0x0484 e

/-- The fault action of a program at its overrun limit (R155). -/
def State.engineLimit (s : State) (e : Nat) : State :=
  let t := (s.stopProgram e 1).report 0x0401 e
  match t.engineBay e with
  | some b => t.faultBay b 5
  | none => t

/-- The end of an engine's period at its marker, items 1 and 2 of R156: the overrun of the ending instance with its limit action, and a
trip committed at its END. -/
def State.engineEnd (s : State) (e : Nat) : State :=
  if !s.periodEnds e then s
  else
    let s := if s.fld F.CLF_ENG_STAT_STATE e = 1 then
        let t := s.engineLate e
        if s.limitOf (.program e) ≤ t.overruns (.program e) then t.engineLimit e else t
      else s
    if (s.eng e).tripped then
      (match s.engineBay e with | some b => s.faultBay b 5 | none => s).onEng e fun x => { x with tripped := false }
    else s

/-- A HALT that was accepted stops its program at the end of the period (R156). DESIGN CHOICE (log entry 13): it does so too, with
STOP_CAUSE 4, where the overrun limit or R142 stopped the program in the same period. -/
def State.engineHalt (s : State) (e : Nat) : State :=
  if s.periodEnds e && (s.eng e).halt then (s.stopProgram e 4).onEng e fun x => { x with halt := false } else s

/-- The start of an engine's next instance, item 5 of R156, after a RESTART that was accepted. -/
def State.engineStart (s : State) (e : Nat) : State :=
  match s.program e with
  | none => s
  | some g =>
    if s.now % max g.rate 1 ≠ 0 then s
    else
      let s := if (s.eng e).restart then
          ((((s.setStopped e false).setFld F.CLF_ENG_STAT_STATE e 0).setFld F.CLF_ENG_STAT_STOP_CAUSE e 0).setFld
            F.CLF_ENG_STAT_OVR_CONSEC e 0 |>.completed (.program e)).onEng e fun x => { x with restart := false }
        else s
      if s.fld F.CLF_ENG_STAT_STATE e = 3 then s else s.startInstance g e

/-- The marker's work on the array: the ends before a commit, in the order of R156, and the starts after it. -/
def State.calfinEnd (s : State) : State :=
  let t := (s.each (List.range s.engineCount) fun e t => t.engineEnd e).bindAll
  t.each (List.range t.engineCount) fun e t => t.engineHalt e
def State.calfinStart (s : State) : State := s.each (List.range s.engineCount) fun e t => t.engineStart e

/-! ### Monitors, restart and halt -/

/-- FOLLOW_TRIP (R150): COUNT reaches TIMER and latches TRIP; REPORT reports 0481h, FAULT_BAY reports 0403h and faults the bay
at the marker that ends the instance's period. -/
def execFollowTrip (e m : Nat) (s : State) : Host.Outcome State Fault Refusal :=
  .next (s.live 2 (match s.monitor e m with
    | none => s
    | some x =>
      let j := e * 4 + m
      if s.flag F.CLF_FE_STAT_TRIP j || decide (s.fld F.CLF_FE_STAT_COUNT j < x.timer) then s
      else
        let t := s.setFlag F.CLF_FE_STAT_TRIP j true
        if x.action = 0 then t.report 0x0481 j else (t.onEng e fun y => { y with tripped := true }).report 0x0403 j))

/-- A write of 1 to a monitor's TRIP clears it and sets COUNT to 0 (R150). -/
def State.tripClear (s : State) (e m : Nat) : State :=
  (s.setFlag F.CLF_FE_STAT_TRIP (e * 4 + m) false).setFld F.CLF_FE_STAT_COUNT (e * 4 + m) 0

/-- RESTART (R156): accepted only while the program is STOPPED. -/
def State.engRestart (s : State) (e : Nat) : State :=
  if (s.program e).isSome && decide (s.fld F.CLF_ENG_STAT_STATE e = 3) then s.onEng e fun x => { x with restart := true }
  else s.report 0x0404 e

/-- HALT (R156): accepted only on a program that is not STOPPED and whose bay does not run. -/
def State.engHalt (s : State) (e : Nat) : State :=
  let idle := match s.engineBay e with | some b => !s.flag F.FRG_BAY_CTL_RUN b | none => true
  if (s.program e).isSome && decide (s.fld F.CLF_ENG_STAT_STATE e ≠ 3) && idle then s.onEng e fun x => { x with halt := true }
  else s.report 0x0404 e

/-! ### Reading a result register (R153, R154) -/

/-- The initiator as the read marks know it: each host core, otherwise the fabric port (R153). -/
def readerOf (w : Initiator) : Initiator := if w.port ≤ 1 then w else { w with sub := 0 }

/-- The HI half as a reader sees it now: STALE when READY is 0, READ_BEFORE when its mark is set. -/
def State.resultHi (s : State) (w : Initiator) (e r : Nat) : W32 :=
  let v := s.reg .CLF_RES_HI (e * 16 + r)
  let v := F.CLF_RES_HI_STALE.put v (if F.CLF_RES_HI_READY.of v = 0 then 1 else 0)
  F.CLF_RES_HI_READ_BEFORE.put v (if (s.eng e).marks.contains (readerOf w, r) then 1 else 0)

/-- Set the reader's mark. -/
def State.markRead (s : State) (w : Initiator) (e r : Nat) : State :=
  s.onEng e fun x => { x with marks := if x.marks.contains (readerOf w, r) then x.marks else x.marks ++ [(readerOf w, r)] }

/-- The shadow of a HI half that an initiator holds (R33). -/
def State.setShadow (s : State) (w : Initiator) (r : Reg) (j : Nat) (v : W32) : State :=
  { s with sys := { s.sys with
    shadows := (s.sys.shadows.filter fun h => !(decide (h.who = w) && decide (h.reg = r) && decide (h.idx = j)))
      ++ [(⟨w, r, j, v⟩ : Held)] } }

/-- The parts of a 64-bit register that a read asks for. -/
def State.resultRead (s : State) (w : Initiator) (e r : Nat) (half : Half) : State :=
  let j := e * 16 + r
  let lo := leBytes 4 (s.reg .CLF_RES_LO j).toNat
  let hi := s.resultHi w e r
  match half with
  | .whole => { s.markRead w e r with resp := .data (lo ++ leBytes 4 hi.toNat) }
  | .lo => { (s.setShadow w .CLF_RES_HI j hi).markRead w e r with resp := .data lo }
  | .hi =>
    match s.sys.shadows.find? fun h => decide (h.who = w) && decide (h.reg = .CLF_RES_HI) && decide (h.idx = j) with
    | some h => { s with
        resp := .data (leBytes 4 h.val.toNat)
        sys := { s.sys with shadows := s.sys.shadows.filter fun x => decide (x ≠ h) } }
    | none => { s with resp := .data (leBytes 4 hi.toNat) }

/-! ### Code replacement (R157) -/

/-- Write an engine's code and constants from an image into bank A or B. -/
def State.loadCode (s : State) (m : Image) (e : Nat) (bankB : Bool) : State :=
  match m.program e with
  | none => s
  | some g =>
    let body := m.body tyLOOP
    let o := engineBase e + if bankB then 0x30000 else 0x20000
    (s.setBytes o (slice body g.codeOfs (8 * g.codeLen))).setBytes (o + 0xC000) (slice body g.constOfs (4 * g.constLen))

/-- Load the state window from STATE_OFS; the rest of it starts at zero (R144, R157). -/
def State.loadWindow (s : State) (m : Image) (e : Nat) : State :=
  match m.program e with
  | none => s
  | some g =>
    let b := slice (m.body tyLOOP) g.stateOfs (4 * g.stateLen)
    s.setBytes (engineWord e 512) (b ++ List.replicate (4 * (4096 - g.stateLen)) 0)

/-- A structural replacement clears the result registers with their marks, the monitors and OVR_CONSEC, and installs the
program in the state it starts from (R157). -/
def State.freshEngine (s : State) (m : Image) (e : Nat) : State :=
  let t := s.each (List.range 16) fun r t => (t.setReg .CLF_RES_LO (e * 16 + r) 0).setReg .CLF_RES_HI (e * 16 + r) 0
  let t := t.each (List.range 4) fun k t =>
    let mon := (loopMonitors (m.body tyLOOP)).find? fun x => decide (x.engine = e ∧ x.mon = k)
    let t := t.setReg .CLF_FE_STAT (e * 4 + k) 0
    match mon with
    | some x => (t.setFld F.CLF_FE_STAT_ACTIVE (e * 4 + k) 1).setFld F.CLF_FE_STAT_FAULT (e * 4 + k) x.action
    | none => t
  let t := ((((t.setStopped e false).setFld F.CLF_ENG_STAT_STATE e 0).setFld F.CLF_ENG_STAT_STOP_CAUSE e 0).setFld
    F.CLF_ENG_STAT_OVR_CONSEC e 0).completed (.program e)
  let t := t.setFld F.CLF_ENG_STAT_FMT e (match m.program e with | some g => g.fmt | none => 0)
  (t.onEng e fun x => { x with
    marks := [], restart := false, halt := false, tripped := false, ready := [], held := [], pubs := [], fecs := [] }).loadWindow m e

/-- What an image says of an engine that is structural (R157): everything but the words of the constants bank and a monitor's BAND,
TIMER and ACTION. -/
structure EngShape where
  present  : Bool
  fmt      : Nat
  rate     : Nat
  bay      : Option Nat
  qthr     : Nat
  eInit    : List Int
  code     : List Byte
  window   : List Byte
  consts   : Nat
  wcet     : Nat
  bindings : List Binding
  monitors : List Nat
  deriving DecidableEq, Repr

def engineShape (m : Image) (e : Nat) : EngShape :=
  let b := m.body tyLOOP
  let bs := (loopBindings b).filter fun x => decide (x.engine = e)
  let ms := ((loopMonitors b).filter fun x => decide (x.engine = e)).map fun x => x.mon
  match m.program e with
  | none => ⟨false, 0, 0, none, 0, [], [], [], 0, 0, bs, ms⟩
  | some g => ⟨true, g.fmt, g.rate, g.bay, g.qthr, g.eInit, slice b g.codeOfs (8 * g.codeLen), slice b g.stateOfs (4 * g.stateLen),
      g.constLen, g.wcet, bs, ms⟩

/-- The constants of an engine and the settings of its monitors. -/
def engineParams (m : Image) (e : Nat) : List Byte × List Monitor :=
  let b := m.body tyLOOP
  (match m.program e with | some g => slice b g.constOfs (4 * g.constLen) | none => [],
    (loopMonitors b).filter fun x => decide (x.engine = e))

end Sys2Proof.Machine
end

