-- ==== Sys2Proof/Machine/Memory.lean ====
section
/-! DEFINITION. The address map, the ownership of its parts, and the reads and writes that units of the device make through their fabric
ports (R11, R13, R16 to R21, R126, R467). -/

namespace Sys2Proof.Machine

open Sys2Proof

/-! ### Initiators (R13, R467) -/

/-- The island on whose behalf a request is made (R11, R410, R467): the CAN controllers, the 10BASE-T1S MACs and the Feeder link carry the
rights of island 0 and JTAG debug those of island 1. -/
def Initiator.island (w : Initiator) : Nat :=
  if w.port ≤ 1 then 1
  else if w.port ≤ 5 then 2
  else if w.port ≤ 11 then w.port - 3
  else if w.port = 14 ∧ w.sub = 3 then 1
  else 0

/-- The request comes from JTAG debug. -/
def Initiator.jtag (w : Initiator) : Bool := decide (w.port = 14 ∧ w.sub = 3)

/-! ### Address map (R16, R17, R20) -/

/-- An address range of the map. -/
inductive Region where
  | bootRom
  | sram
  | mram
  | ospi
  | window (win : Nat)
  | lpddr
  deriving DecidableEq, Repr

/-- Bytes of a range: base, and end. -/
def within (a n lo hi : Nat) : Bool := decide (lo ≤ a ∧ a + n ≤ hi)

/-- The range that holds a whole access; none where a byte of it lies outside every range (R16). -/
def State.regionOf (s : State) (a n : Nat) : Option Region :=
  if within a n 0 0x10000 then some .bootRom
  else if within a n 0x10000000 0x14000000 then some .sram
  else if within a n 0x20000000 0x22000000 then some .mram
  else if within a n 0x30000000 0x40000000 then some .ospi
  else if within a n 0x40000000 0x41200000 then some (.window ((a - 0x40000000) / 0x100000))
  else if within a n 0x100000000 (0x100000000 + s.sys.lpddrSize) then some .lpddr
  else none

/-- The target port of a range (R13). DESIGN CHOICE (log entry 19): the table names no port for the boot ROM; the model counts it at port 27. -/
def Region.port (r : Region) (a : Nat) : Nat :=
  match r with
  | .sram => 16 + (a - 0x10000000) / 0x800000
  | .lpddr => 24
  | .mram => 25
  | .ospi => 26
  | .bootRom => 27
  | .window _ => 27

/-- An access touches a range. -/
def touches (a n lo hi : Nat) : Bool := decide (a < hi ∧ lo < a + n)

/-- The partitions of the MRAM (R20): start, end, owner, readable by others. -/
def mramParts : List (Nat × Nat × Nat × Bool) :=
  [(0x20000000, 0x20800000, 1, true), (0x20800000, 0x21000000, 0, true), (0x21000000, 0x21400000, 5, false),
   (0x21400000, 0x21600000, 6, false), (0x21600000, 0x21800000, 7, false), (0x21800000, 0x21C00000, 3, true),
   (0x21C00000, 0x21D00000, 8, true), (0x21D00000, 0x21E00000, 0, true), (0x21E00000, 0x22000000, 0, true)]

/-- The private regions of the SRAM (R17): start, end, owner. -/
def sramParts : List (Nat × Nat × Nat) :=
  [(0x11400000, 0x11600000, 5), (0x11600000, 0x11800000, 6), (0x11800000, 0x11880000, 7)]

/-- The local memory of an absent engine (R19). -/
def State.absentEngineAt (s : State) (a n : Nat) : Bool := touches a n (0x10800000 + s.engineCount * 0x40000) 0x11400000

/-! ### Who may reach what (R16, R18, R20, R126, R127, R467) -/

/-- A write to a byte of a Calfin local memory is allowed (R126): scratch always, the state window while the engine is IDLE or STOPPED. -/
def State.localWritable (s : State) (a : Nat) : Bool :=
  let e := (a - 0x10800000) / 0x40000
  let o := (a - 0x10800000) % 0x40000
  if o < 0x800 then false
  else if o < 0x4800 then decide (s.fld F.CLF_ENG_STAT_STATE e = 0 ∨ s.fld F.CLF_ENG_STAT_STATE e = 3)
  else decide (o < 0x20000)

/-- Ownership and write protection refuse the access (0005h). -/
def State.fenced (s : State) (w : Initiator) (r : Region) (a n : Nat) (write : Bool) : Bool :=
  let me := Initiator.island w
  match r with
  | .bootRom => write
  | .ospi => write
  | .mram => mramParts.any fun p => touches a n p.1 p.2.1 && decide (p.2.2.1 ≠ me) && (write || !p.2.2.2)
  | .sram => (sramParts.any fun p => touches a n p.1 p.2.1 && decide (p.2.2 ≠ me))
      || (write && (touches a n 0x10000000 0x10800000
        || (List.range n).any fun k => within (a + k) 1 0x10800000 0x11400000 && !s.localWritable (a + k)))
  | _ => false

/-! ### Units of the device on the fabric (R11, R21, R40) -/

/-- An access to SRAM or LPDDR5, where the units of the device read their frames and write their results. -/
def State.inRam (s : State) (a n : Nat) : Bool := decide (s.regionOf a n = some .sram ∨ s.regionOf a n = some .lpddr)

/-- The bus error that ends a unit's access to SRAM or LPDDR5, or to an address outside the map; 0 for none. -/
def State.unitFault (s : State) (w : Initiator) (a n : Nat) (write : Bool) : Nat :=
  match s.regionOf a n with
  | none => 2
  | some r =>
    if r = .sram ∧ s.absentEngineAt a n then (if s.flag F.SYS_CTL_ABSENT_TRAP then 1 else 0)
    else if s.fenced w r a n write then 5
    else if !write && decide (r = .sram) && s.eccIn a n then 4
    else 0

/-- A unit reads `n` bytes of its data: the bytes, or none. A bus error is latched (R40); a range that is mapped and no RAM is not
read (log entry 60). -/
def State.fetch (s : State) (w : Initiator) (a n : Nat) : Option (List Byte) × State :=
  match s.unitFault w a n false with
  | 0 => (if s.inRam a n then some (s.bytes a n) else none, s)
  | c => (none, s.busError w a false c)

/-- A unit writes its result: whether it was taken, and the state after. The memory of an absent engine ignores it (R5, R19). -/
def State.unitWrite (s : State) (w : Initiator) (a : Nat) (b : List Byte) : Bool × State :=
  if b = [] then (true, s)
  else match s.unitFault w a b.length true with
    | 0 => (s.inRam a b.length, if s.inRam a b.length && !s.absentEngineAt a b.length then s.setBytes a b else s)
    | c => (false, s.busError w a true c)

/-! ### Submission rings (R325) -/

/-- The ring engine takes the oldest entry of a submission ring: its bytes, or none where the ring is empty or the entry cannot be read (R21,
R40); CONS passes it either way. -/
def State.ringTake (s : State) (n : Nat) : Option (List Byte) × State :=
  if s.ringCount n = 0 then (none, s)
  else
    let r := s.fetch ⟨12, 0⟩ (s.ringBase n + s.ringCons n % s.ringEntries n * s.ringEsize n) (s.ringEsize n)
    (r.1, r.2.ringPop n)

end Sys2Proof.Machine
end

