-- ==== Sys2Proof/Machine/Coffer.lean ====
section
/-! DEFINITION. Coffer: key slots, key commands, attestation, the life cycle and debug access (file 16, R406 to R426). -/

namespace Sys2Proof.Machine

open Sys2Proof

/-! ### Ciphers and digests by published standards (R407, R419): log entry 5 -/

/-- A text under the key stream of AES-256-GCM: the same change encrypts and decrypts. -/
def gcmText (key nonce text : List Byte) : List Byte := text.zipIdx.map fun x => x.1 ^^^ Config.gcmStream key nonce x.2

/-- The ciphertext with its 16-byte tag. -/
def gcmSeal (key nonce aad plain : List Byte) : List Byte :=
  let c := gcmText key nonce plain
  c ++ leBytes 16 (Config.gcmTag key nonce aad c).toNat

/-- The plaintext, where the tag passes. -/
def gcmOpen (key nonce aad sealed : List Byte) : Option (List Byte) :=
  let n := sealed.length - 16
  let c := sealed.take n
  if 16 ≤ sealed.length ∧ sealed.drop n = leBytes 16 (Config.gcmTag key nonce aad c).toNat then some (gcmText key nonce c) else none

/-- The bytes of a SHA-256 and a SHA-384 digest. -/
def sha256 (data : List Byte) : List Byte := leBytes 32 (Config.sha256 data).toNat
def sha384 (data : List Byte) : List Byte := leBytes 48 (Config.sha384 data).toNat

/-! ### Slots and their use -/

/-- A slot, and a change of it. -/
def State.keySlot (s : State) (n : Nat) : KeySlot := s.cof.slots.get n
def State.onSlot (s : State) (n : Nat) (f : KeySlot → KeySlot) : State :=
  { s with cof := { s.cof with slots := s.cof.slots.upd n f } }

/-- CFR_SLOT_STAT.STATE: 0 EMPTY, 1 ACTIVE, 2 ORPHAN, 3 CORRUPT, 4 FIXED. -/
def State.slotState (s : State) (n : Nat) : Nat := s.fld F.CFR_SLOT_STAT_STATE n

/-- A slot holds a key that may be used: ACTIVE, or one of the fixed slots. -/
def State.slotLive (s : State) (n : Nat) : Bool :=
  decide (n < 512 ∧ (s.slotState n = 1 ∨ (s.slotState n = 4 ∧ n < 10))) && (s.keySlot n).active.isSome

/-- The chain of a slot to the top is intact (R413): each parent is live, and PGEN equals its GEN; at most 5 links. -/
def State.chainOk (s : State) : Nat → Nat → Bool
  | 0, n => decide (s.fld F.CFR_SLOT_ATTR_LO_PARENT n = 0x3FF)
  | k + 1, n =>
    let p := s.fld F.CFR_SLOT_ATTR_LO_PARENT n
    decide (p = 0x3FF) || (s.slotLive p && decide (s.fld F.CFR_SLOT_PGEN_PGEN n = s.fld F.CFR_SLOT_GEN_GEN p) && s.chainOk k p)

/-- The code that an island's use of a slot under a usage bit ends in; 0 where it is allowed (R409, R410, R413). -/
def State.useCode (s : State) (n island usage : Nat) : Nat :=
  if s.flag F.CFR_STAT_ROOT_FAIL then 0x0E0F
  else if !s.slotLive n then 0x0E06
  else if s.fld F.CFR_SLOT_ATTR_LO_OWNER n ≠ 15 ∧ s.fld F.CFR_SLOT_ATTR_LO_OWNER n ≠ island then 0x0E04
  else if !bitOf (s.fld F.CFR_SLOT_ATTR_HI_USAGE n) usage then 0x0E05
  else if !s.chainOk 5 n then 0x0E06
  else 0

/-- The key in use of a slot, for an island and a usage. -/
def State.slotKey (s : State) (n island usage : Nat) : Option (List Byte) :=
  if s.useCode n island usage = 0 then (s.keySlot n).active else none

/-- The verified staged key of a slot. -/
def State.stagedKey (s : State) (n : Nat) : Option (List Byte) :=
  if s.flag F.CFR_SLOT_STAT_VERIFIED n then (s.keySlot n).staged.map fun k => k.key else none

/-- The keys that OPEN and VERIFY try, in order: active, previous, verified staged (R416). -/
def State.slotKeys (s : State) (n island usage : Nat) : List (List Byte) :=
  if s.useCode n island usage = 0 then
    (s.keySlot n).active.toList ++ (s.keySlot n).prev.toList ++ (s.stagedKey n).toList
  else []

/-- The algorithm of a slot's key. -/
def State.slotAlg (s : State) (n : Nat) : Nat := s.fld F.CFR_SLOT_ATTR_LO_ALG n

/-- A side that takes an entry of the public-key area (R407). -/
def pubEntry (lo : W32) : Bool :=
  decide (F.CFR_SLOT_ATTR_LO_ALG.of lo = 1 ∧ F.CFR_SLOT_ATTR_LO_PUB.of lo = 1)

/-- Entries of the public-key area in use: counted from the slots (R407). -/
def State.pubKeys (s : State) : Nat :=
  ((s.cof.slots.cells.map fun c =>
    (if pubEntry (s.reg .CFR_SLOT_ATTR_LO c.1) then c.2.active.toList.length + c.2.prev.toList.length else 0)
      + (match c.2.staged with | some k => if pubEntry k.lo then 1 else 0 | none => 0)).sum)

/-- CFR_STAT.PUBKEYS follows the slots. -/
def State.showPubKeys (s : State) : State := s.setFld F.CFR_STAT_PUBKEYS 0 s.pubKeys

/-- A slot made empty: both sides and the previous key are zeroised and GEN advances; at FFFF_FFFFh it is retired (R413,
R414). -/
def State.emptySlot (s : State) (n : Nat) : State :=
  let g := s.fld F.CFR_SLOT_GEN_GEN n
  let t := s.onSlot n fun _ => ⟨none, none, none, none⟩
  let t := (t.setReg .CFR_SLOT_ATTR_LO n 0).setReg .CFR_SLOT_ATTR_HI n 0
  let t := (t.setReg .CFR_SLOT_PGEN n 0).setFld F.CFR_SLOT_GEN_GEN n (min (g + 1) (2 ^ 32 - 1))
  (t.setReg .CFR_SLOT_STAT n 0).setFld F.CFR_SLOT_STAT_STATE n (if 2 ^ 32 - 1 ≤ g + 1 then 4 else 0)

/-- The slots that hold a key beside `n` and name it as their parent. -/
def State.children (s : State) (n : Nat) : List Nat :=
  (s.cof.slots.cells.map fun c => c.1).filter fun k =>
    decide (s.fld F.CFR_SLOT_ATTR_LO_PARENT k = n ∧ s.slotState k = 1) && (s.keySlot k).active.isSome

/-- The descendants of a slot, level by level. -/
def State.descendants (s : State) : Nat → List Nat → List Nat
  | 0, _ => []
  | d + 1, l => let c := l.flatMap s.children; c ++ s.descendants d c

/-! ### Frames (R418) -/

/-- A frame read from its bytes. -/
structure Frame where
  bytes  : List Byte
  opcode : Nat
  slot   : Nat
  arg    : Nat
  outMax : Nat
  out    : Nat
  body   : List Byte
  rest   : List Byte
  deriving DecidableEq, Repr

/-- The opcodes whose frame may carry a trailer (R411, R419): those that create, stage or import a key, LC_STEP, ROT_ROTATE and
DEBUG_UNLOCK. -/
def takesTrailer (opcode : Nat) : Bool := [1, 2, 3, 0x20, 0x30, 0x31, 0x40].contains opcode

/-- The frame of some bytes; `none` for a malformed one (R418): bytes after the body belong only to an opcode that takes a trailer. -/
def readFrame (b : List Byte) : Option Frame :=
  let n := u32 b 8
  if 32 ≤ b.length ∧ b.length ≤ 0x4000 ∧ 32 + n ≤ b.length ∧ uN b 24 8 = 0 ∧ (b.length = 32 + n ∨ takesTrailer (u16 b 0) = true) then
    some { bytes := b, opcode := u16 b 0, slot := u16 b 2, arg := u32 b 4, outMax := u32 b 12, out := uN b 16 8,
           body := slice b 32 n, rest := b.drop (32 + n) }
  else none

/-- The answer to a frame: code, output, and the state after. -/
structure KeyAns where
  code : Nat
  out  : List Byte
  st   : State

/-- A refusal has no effect; an acceptance gives 0E00h. -/
def refuse (s : State) (code : Nat) : KeyAns := ⟨code, [], s⟩
def accept (s : State) (out : List Byte := []) : KeyAns := ⟨0x0E00, out, s⟩

/-- The nonce as it is now, and a new one (R411). -/
def State.nonce (s : State) : List Byte := (List.range 8).flatMap fun w => leBytes 4 (s.reg .CFR_NONCE w).toNat
def State.newNonce (s : State) : State :=
  s.each (List.range 8) fun w t => (t.setReg .CFR_NONCE w (t.fresh 32)).tick

/-- The trailer of a frame in the layout of R44: algorithm, slot, signature. -/
def trailer (b : List Byte) : Option (Nat × Nat × List Byte) :=
  if 8 ≤ b.length ∧ u8 b 1 = 0 ∧ u16 b 6 = 0 ∧ b.length = 8 + u16 b 4 then some (u8 b 0, u16 b 2, b.drop 8) else none

/-- A frame is signed by a key in one of the slots allowed. -/
def State.signedBy (s : State) (f : Frame) (ok : Nat → Bool) : Bool :=
  match trailer f.rest with
  | some (alg, n, sig) =>
    ok n && s.slotLive n && decide (s.slotAlg n = alg ∧ (alg = 1 ∨ alg = 2)) && s.chainOk 5 n
      && Config.sigVerify alg ((s.keySlot n).active.getD []) (f.bytes.take (32 + f.body.length)) sig false
  | none => false

/-- The code of a signed command's nonce and trailer; 0 where both pass. -/
def State.signedCode (s : State) (f : Frame) (ok : Nat → Bool) : Nat :=
  if !s.signedBy f ok then 0x0E02 else if f.body.take 32 ≠ s.nonce then 0x0E03 else 0

/-! ### Attributes of a new key -/

/-- Bits 6 to 12, 14 and 15 of USAGE, or an OWNER other than 1 or Fh: the command must be signed (R411). -/
def privileged (lo hi : W32) : Bool :=
  decide (F.CFR_SLOT_ATTR_HI_USAGE.of hi &&& 0xDFC0 ≠ 0)
    || decide (F.CFR_SLOT_ATTR_LO_OWNER.of lo ≠ 1 ∧ F.CFR_SLOT_ATTR_LO_OWNER.of lo ≠ 15)

/-- A creating command needs a trailer, but for Assay's own HALLMARK and ASSAY_CMD keys (R411). -/
def needsTrailer (island : Nat) (lo hi : W32) : Bool :=
  privileged lo hi && !(decide (island = 5) && decide (F.CFR_SLOT_ATTR_HI_USAGE.of hi &&& 0xDE40 = 0)
    && decide (F.CFR_SLOT_ATTR_LO_OWNER.of lo = 1 ∨ F.CFR_SLOT_ATTR_LO_OWNER.of lo = 5 ∨ F.CFR_SLOT_ATTR_LO_OWNER.of lo = 15))

/-- The attributes a frame asks for, with ORIGIN, DEPTH and PARENT as the device sets them; reserved bits read 0. -/
def attrOf (b : List Byte) (origin depth parent : Nat) : W32 × W32 :=
  let lo := BitVec.ofNat 32 (u32 b 0) &&& 0xFFFC0000
  let lo := F.CFR_SLOT_ATTR_LO_ORIGIN.put lo origin
  (F.CFR_SLOT_ATTR_LO_PARENT.put (F.CFR_SLOT_ATTR_LO_DEPTH.put lo depth) parent, BitVec.ofNat 32 (u32 b 4 % 2 ^ 17))

/-- A key ready to be put into a slot. -/
structure NewKey where
  lo   : W32
  hi   : W32
  pgen : Nat
  key  : List Byte
  deriving DecidableEq, Repr

/-- The body of a creating command, after the nonce that a privileged one begins with (R411), and the code of its trailer:
Assay creates its own keys without one, and so does the command that installs slot 8 in MAKER and INTEGRATOR. -/
def State.creation (s : State) (island : Nat) (f : Frame) (target : Nat) (at_ : Nat) : Nat × List Byte :=
  let free := f.rest = [] ∧ target = 8 ∧ s.fld F.CFR_LC_STATE_STATE ≤ 1 ∧ (s.keySlot 8).active.isNone
  let attr (b : List Byte) := needsTrailer island (BitVec.ofNat 32 (u32 b at_)) (BitVec.ofNat 32 (u32 b (at_ + 4)))
  if free then (0, f.body)
  else if f.rest = [] then (if attr f.body then 0x0E02 else 0, f.body)
  else (s.signedCode f (fun n => decide (n = 8)), f.body.drop 32)

/-- A new key for GENERATE: an 8-byte ATTR. -/
def State.newGenerated (s : State) (b : List Byte) : Nat × NewKey :=
  let a := attrOf b 0 1 0x3FF
  let alg := F.CFR_SLOT_ATTR_LO_ALG.of a.1
  if b.length ≠ 8 ∨ alg = 0 ∨ 6 < alg ∨ F.CFR_SLOT_ATTR_LO_PUB.of a.1 = 1 then (0x0E01, ⟨0, 0, 0, []⟩)
  else (0, ⟨a.1, a.2, 0, Config.makeKey alg (s.fresh 256)⟩)

/-- A new key for DERIVE (R412): target, ATTR and INFO after it, from the parent slot. -/
def State.newDerived (s : State) (island parent : Nat) (b : List Byte) : Nat × NewKey :=
  let d := s.fld F.CFR_SLOT_ATTR_LO_DEPTH parent + 1
  let a := attrOf (b.drop 8) 1 d parent
  let alg := F.CFR_SLOT_ATTR_LO_ALG.of a.1
  if b.length < 17 ∨ 272 < b.length ∨ uN b 2 6 ≠ 0 ∨ alg = 0 ∨ 6 < alg ∨ F.CFR_SLOT_ATTR_LO_PUB.of a.1 = 1 then (0x0E01, ⟨0, 0, 0, []⟩)
  else
    match s.slotKey parent island 3 with
    | none => (s.useCode parent island 3, ⟨0, 0, 0, []⟩)
    | some k =>
      if 7 ≤ d then (0x0E07, ⟨0, 0, 0, []⟩)
      else (0, ⟨a.1, a.2, s.fld F.CFR_SLOT_GEN_GEN parent, Config.hkdf alg k (b.drop 16)⟩)

/-- A new key for IMPORT (R412, R419): target, then the blob; wrapped under a key, or clear. -/
def State.newImported (s : State) (island wrap : Nat) (b : List Byte) : Nat × NewKey :=
  let blob := b.drop 8
  let n := u16 blob 8
  let alg := u32 blob 0 / 2 ^ 28
  let none_ : NewKey := ⟨0, 0, 0, []⟩
  if blob.length < 32 ∨ uN b 2 6 ≠ 0 ∨ uN blob 10 6 ≠ 0 ∨ u32 blob 28 ≠ 0 ∨ alg = 0 ∨ 6 < alg then (0x0E01, none_)
  else if wrap = 0xFFFF then
    let a := attrOf blob 3 1 0x3FF
    let pub := F.CFR_SLOT_ATTR_LO_PUB.of a.1
    if blob.length < 32 + n then (0x0E01, none_)
    else if pub = 0 ∧ 1 < s.fld F.CFR_LC_STATE_STATE then (0x0E08, none_)
    else (0, ⟨a.1, a.2, 0, slice blob 32 n⟩)
  else
    let d := s.fld F.CFR_SLOT_ATTR_LO_DEPTH wrap + 1
    let a := attrOf blob 2 d wrap
    match s.slotKey wrap island 5 with
    | none => (s.useCode wrap island 5, none_)
    | some k =>
      if 7 ≤ d then (0x0E07, none_)
      else match gcmOpen k (slice blob 16 12) (blob.take 16) (blob.drop 32) with
        | some key => if key.length = n then (0, ⟨a.1, a.2, s.fld F.CFR_SLOT_GEN_GEN wrap, key⟩) else (0x0E01, none_)
        | none => (0x0E02, none_)

/-- What slot 8 may hold (R408): a public ML-DSA-65 or ECDSA P-384 key. -/
def rootKey (lo : W32) : Bool :=
  decide (F.CFR_SLOT_ATTR_LO_PUB.of lo = 1 ∧ (F.CFR_SLOT_ATTR_LO_ALG.of lo = 1 ∨ F.CFR_SLOT_ATTR_LO_ALG.of lo = 2))

/-- Put a new key into an EMPTY slot 10 to 511, or slot 8 where it may be installed (R408, R411). -/
def State.install (s : State) (target : Nat) (k : NewKey) (signed : Bool) : KeyAns :=
  let slot8 := target = 8 ∧ s.fld F.CFR_LC_STATE_STATE ≤ 1 ∧ (s.keySlot 8).active.isNone = true ∧ rootKey k.lo = true
  if s.flag F.CFR_STAT_ROOT_FAIL then refuse s 0x0E0F
  else if ¬ slot8 ∧ (target < 10 ∨ 512 ≤ target ∨ (s.slotState target ≠ 0 ∧ s.slotState target ≠ 3)) then refuse s 0x0E06
  else if pubEntry k.lo ∧ 64 ≤ s.pubKeys then refuse s 0x0E0B
  else
    let t := s.onSlot target fun _ => ⟨some k.key, none, none, none⟩
    let t := (t.setReg .CFR_SLOT_ATTR_LO target k.lo).setReg .CFR_SLOT_ATTR_HI target k.hi
    let t := (t.setReg .CFR_SLOT_PGEN target (BitVec.ofNat 32 k.pgen)).setReg .CFR_SLOT_STAT target 0
    let t := (t.setFld F.CFR_SLOT_STAT_STATE target 1).showPubKeys.tick
    accept (if signed then t.newNonce else t)

/-- GENERATE, DERIVE and IMPORT as one: the target slot, where ATTR stands in the body, and the new key. -/
def State.create (s : State) (island : Nat) (f : Frame) (inBody : Bool) (at_ : Nat)
    (make : List Byte → Nat × NewKey) : KeyAns :=
  let target0 := if inBody then u16 (if f.rest = [] then f.body else f.body.drop 32) 0 else f.slot
  let c := s.creation island f target0 at_
  if c.1 ≠ 0 then refuse s c.1
  else
    let k := make c.2
    if k.1 ≠ 0 then refuse s k.1 else s.install target0 k.2 (decide (f.rest ≠ []))

/-! ### Commands on keys -/

/-- DESTROY (R413). -/
def State.destroy (s : State) (island : Nat) (f : Frame) : KeyAns :=
  let n := f.slot
  if f.body ≠ [] then refuse s 0x0E01
  else if n < 10 ∨ 512 ≤ n ∨ s.slotState n = 0 ∨ s.slotState n = 4 then refuse s 0x0E06
  else if s.fld F.CFR_SLOT_ATTR_LO_OWNER n ≠ 15 ∧ s.fld F.CFR_SLOT_ATTR_LO_OWNER n ≠ island then refuse s 0x0E04
  else
    let direct := (s.children n).length
    let t := (s.descendants 6 [n]).foldl (fun t k => t.setFld F.CFR_SLOT_STAT_STATE k 2) s
    accept (((t.emptySlot n).showPubKeys).report 0x0E81 direct)

/-- EXPORT (R419): the blob under a key with WRAP. -/
def State.exportBlob (s : State) (island : Nat) (f : Frame) : KeyAns :=
  let w := u16 f.body 0
  if f.body.length ≠ 8 ∨ uN f.body 2 6 ≠ 0 then refuse s 0x0E01
  else if !s.slotLive f.slot || !s.chainOk 5 f.slot then refuse s 0x0E06
  else if s.fld F.CFR_SLOT_ATTR_LO_OWNER f.slot ≠ 15 ∧ s.fld F.CFR_SLOT_ATTR_LO_OWNER f.slot ≠ island then refuse s 0x0E04
  else if s.fld F.CFR_SLOT_ATTR_LO_EXPORT f.slot = 0 then refuse s 0x0E05
  else match s.slotKey w island 4 with
    | none => refuse s (s.useCode w island 4)
    | some k =>
      let key := (s.keySlot f.slot).active.getD []
      let head := leBytes 4 (s.reg .CFR_SLOT_ATTR_LO f.slot).toNat ++ leBytes 4 (s.reg .CFR_SLOT_ATTR_HI f.slot).toNat
        ++ leBytes 2 key.length ++ leBytes 6 0
      let nonce := leBytes 12 (s.fresh 96).toNat
      accept s.tick (head ++ nonce ++ leBytes 4 0 ++ gcmSeal k nonce head key)

/-- GET_PUBLIC (R409, R410): to every requester, where USAGE has VERIFY. -/
def State.getPublic (s : State) (f : Frame) : KeyAns :=
  if f.body ≠ [] then refuse s 0x0E01
  else if s.flag F.CFR_STAT_ROOT_FAIL then refuse s 0x0E0F
  else if !s.slotLive f.slot || !s.chainOk 5 f.slot then refuse s 0x0E06
  else if !bitOf (s.fld F.CFR_SLOT_ATTR_HI_USAGE f.slot) 1 then refuse s 0x0E05
  else
    let key := (s.keySlot f.slot).active.getD []
    accept s (if s.flag F.CFR_SLOT_ATTR_LO_PUB f.slot then key else Config.publicOf (s.slotAlg f.slot) key)

/-- A key was made inside the device, along its parents (R421). -/
def State.inside (s : State) : Nat → Nat → Bool
  | 0, n => decide (s.fld F.CFR_SLOT_ATTR_LO_ORIGIN n = 0)
  | k + 1, n =>
    let o := s.fld F.CFR_SLOT_ATTR_LO_ORIGIN n
    decide (o = 0) || (decide (o = 1) && s.inside k (s.fld F.CFR_SLOT_ATTR_LO_PARENT n))

/-- Neither the key nor any key above it is exportable (R421). -/
def State.nonExportable (s : State) : Nat → Nat → Bool
  | 0, n => decide (s.fld F.CFR_SLOT_ATTR_LO_EXPORT n = 0)
  | k + 1, n =>
    let p := s.fld F.CFR_SLOT_ATTR_LO_PARENT n
    decide (s.fld F.CFR_SLOT_ATTR_LO_EXPORT n = 0) && (decide (p = 0x3FF) || s.nonExportable k p)

/-- The name of a key in a statement (R421). -/
def keyId (lo : W32) (key : List Byte) : List Byte :=
  let alg := F.CFR_SLOT_ATTR_LO_ALG.of lo
  if 5 ≤ alg then (Config.hkdf 0 key ("Coffer key id".toList.map fun c => BitVec.ofNat 8 c.toNat)).take 48
  else sha384 (if F.CFR_SLOT_ATTR_LO_PUB.of lo = 1 then key else Config.publicOf alg key)

/-- Bytes 00h to 8Fh of an attestation statement (R421). -/
def State.statement (s : State) (n ident : Nat) (staged : Bool) (nonce : List Byte) : List Byte :=
  let side : KeySide := match staged, (s.keySlot n).staged with
    | true, some k => k
    | _, _ => ⟨s.reg .CFR_SLOT_ATTR_LO n, s.reg .CFR_SLOT_ATTR_HI n, (s.keySlot n).active.getD []⟩
  let origin := F.CFR_SLOT_ATTR_LO_ORIGIN.of side.lo
  let parent := F.CFR_SLOT_ATTR_LO_PARENT.of side.lo
  let inside := decide (origin = 0) || (decide (origin = 1) && s.inside 5 parent)
  let bound := decide (F.CFR_SLOT_ATTR_LO_EXPORT.of side.lo = 0) && (decide (parent = 0x3FF) || s.nonExportable 5 parent)
  let flags := (if inside then 1 else 0) + (if bound then 2 else 0) + (if staged then 4 else 0)
  [0x43, 0x41, 0x54, 0x31] ++ leBytes 2 1 ++ [BitVec.ofNat 8 (ident + 1), BitVec.ofNat 8 (s.fld F.CFR_LC_STATE_STATE)]
    ++ (Config.serial ++ leBytes 16 0).take 16 ++ leBytes 4 s.feat0.toNat ++ leBytes 4 s.feat1.toNat
    ++ leBytes 6 s.now ++ leBytes 2 n ++ leBytes 4 side.lo.toNat ++ leBytes 4 side.hi.toNat
    ++ leBytes 4 (s.fld F.CFR_SLOT_GEN_GEN n) ++ leBytes 4 (s.fld F.CFR_SLOT_PGEN_PGEN n) ++ leBytes 1 flags ++ leBytes 7 0
    ++ (keyId side.lo side.key ++ leBytes 48 0).take 48 ++ nonce

/-- ATTEST (R421). -/
def State.attest (s : State) (island : Nat) (f : Frame) : KeyAns :=
  let ident := u8 f.body 32
  let staged := decide (u8 f.body 33 = 1)
  if f.body.length ≠ 34 ∨ 1 < ident ∨ 1 < u8 f.body 33 then refuse s 0x0E01
  else if !s.slotLive f.slot || (staged && (s.keySlot f.slot).staged.isNone) then refuse s 0x0E06
  else match s.slotKey ident island 16 with
    | none => refuse s (s.useCode ident island 16)
    | some k =>
      let m := s.statement f.slot ident staged (f.body.take 32)
      accept s.tick (m ++ Config.sign (ident + 1) k m false (s.fresh 256))

/-- GET_CERT (R419). -/
def State.getCert (s : State) (f : Frame) : KeyAns :=
  if f.body.length ≠ 1 ∨ 1 < u8 f.body 0 then refuse s 0x0E01 else accept s (Config.makerCert (u8 f.body 0))

/-- SIGN and VERIFY (R416, R419). -/
def State.signFrame (s : State) (island : Nat) (f : Frame) : KeyAns :=
  match s.slotKey f.slot island 0 with
  | none => refuse s (s.useCode f.slot island 0)
  | some k => accept s.tick (Config.sign (s.slotAlg f.slot) k f.body (f.arg.testBit 0) (s.fresh 256))

def State.verifyFrame (s : State) (island : Nat) (f : Frame) : KeyAns :=
  let n := u16 f.body 0
  if f.body.length < 8 + n ∨ uN f.body 2 6 ≠ 0 then refuse s 0x0E01
  else if s.useCode f.slot island 1 ≠ 0 then refuse s (s.useCode f.slot island 1)
  else if (s.slotKeys f.slot island 1).any fun k =>
      Config.sigVerify (s.slotAlg f.slot) k (f.body.drop (8 + n)) (slice f.body 8 n) (f.arg.testBit 0) then accept s
  else refuse s 0x0E02

/-- SEAL and OPEN (R416, R419). -/
def State.sealFrame (s : State) (island : Nat) (f : Frame) : KeyAns :=
  let n := u32 f.body 12
  if f.body.length < 16 + n then refuse s 0x0E01
  else match s.slotKey f.slot island 2 with
    | none => refuse s (s.useCode f.slot island 2)
    | some k => accept s (gcmSeal k (f.body.take 12) (slice f.body 16 n) (f.body.drop (16 + n)))

def State.openFrame (s : State) (island : Nat) (f : Frame) : KeyAns :=
  let n := u32 f.body 12
  if f.body.length < 16 + n then refuse s 0x0E01
  else if s.useCode f.slot island 2 ≠ 0 then refuse s (s.useCode f.slot island 2)
  else match (s.slotKeys f.slot island 2).findSome? fun k =>
      gcmOpen k (f.body.take 12) (slice f.body 16 n) (f.body.drop (16 + n)) with
    | some p => accept s p
    | none => refuse s 0x0E02

/-- HASH (R419). -/
def State.hashFrame (s : State) (f : Frame) : KeyAns :=
  if f.arg = 0 then accept s (sha256 f.body) else if f.arg = 1 then accept s (sha384 f.body) else refuse s 0x0E01

/-! ### Replacement (R415, R416) -/

/-- A staged key carries the attributes of the active one; EXPORT may be cleared and never set. -/
def State.stageable (s : State) (n : Nat) (k : NewKey) : Bool :=
  let lo := s.reg .CFR_SLOT_ATTR_LO n
  let same (g : Fld) := decide (g.of lo = g.of k.lo)
  same F.CFR_SLOT_ATTR_LO_ALG && same F.CFR_SLOT_ATTR_LO_OWNER && same F.CFR_SLOT_ATTR_LO_LIFE
    && same F.CFR_SLOT_ATTR_LO_PARENT && decide (s.reg .CFR_SLOT_ATTR_HI n = k.hi)
    && decide (F.CFR_SLOT_ATTR_LO_EXPORT.of k.lo ≤ F.CFR_SLOT_ATTR_LO_EXPORT.of lo)

/-- Put a staged key on the second side: it is verified, or zeroised with 0E0Dh. -/
def State.stageKey (s : State) (n : Nat) (k : NewKey) (rotate : Bool) : KeyAns :=
  let alg := F.CFR_SLOT_ATTR_LO_ALG.of k.lo
  if !(s.slotLive n) || (!rotate && !(decide (10 ≤ n))) then refuse s 0x0E06
  else if pubEntry k.lo ∧ 64 ≤ s.pubKeys then refuse s 0x0E0B
  else
    let pass := (rotate || s.stageable n k) && (decide (5 ≤ alg) || decide (F.CFR_SLOT_ATTR_LO_PUB.of k.lo = 1) || Config.pairTest alg k.key)
    if pass then
      let t := (s.onSlot n fun x => { x with staged := some ⟨k.lo, k.hi, k.key⟩, commit := none }).tick
      accept (((t.setFld F.CFR_SLOT_STAT_STAGED n 1).setFld F.CFR_SLOT_STAT_VERIFIED n 1).showPubKeys)
    else
      let t := (s.onSlot n fun x => { x with staged := none, commit := none }).tick
      ⟨0x0E0D, [], ((t.setFld F.CFR_SLOT_STAT_STAGED n 0).setFld F.CFR_SLOT_STAT_VERIFIED n 0).showPubKeys⟩

/-- STAGE (R415): SOURCE, then the body of GENERATE, IMPORT or DERIVE. -/
def State.stageFrame (s : State) (island : Nat) (f : Frame) : KeyAns :=
  let b0 := if f.rest = [] then f.body else f.body.drop 32
  let src := u8 b0 0
  let target := if src = 1 then f.slot else u16 b0 8
  let c := s.creation island f target (if src = 1 then 8 else 16)
  let b := c.2.drop 8
  let k : Nat × NewKey :=
    match src with
    | 1 => s.newGenerated b
    | 2 => s.newImported island f.slot b
    | 3 => s.newDerived island f.slot b
    | _ => (0x0E01, ⟨0, 0, 0, []⟩)
  if s.flag F.CFR_STAT_ROOT_FAIL then refuse s 0x0E0F
  else if c.1 ≠ 0 then refuse s c.1
  else if uN b0 1 7 ≠ 0 then refuse s 0x0E01
  else if k.1 ≠ 0 then refuse s k.1
  else
    let r := s.stageKey target k.2 false
    if f.rest ≠ [] ∧ r.code = 0x0E00 then { r with st := r.st.newNonce } else r

/-- COMMIT (R416): the swap is due at the first heat marker at or after AT_HEAT. -/
def State.commitFrame (s : State) (f : Frame) : KeyAns :=
  let n := f.slot
  if f.body.length ≠ 16 ∨ uN f.body 10 6 ≠ 0 then refuse s 0x0E01
  else if !s.slotLive n then refuse s 0x0E06
  else if !s.flag F.CFR_SLOT_STAT_VERIFIED n then refuse s 0x0E0D
  else accept (s.onSlot n fun x => { x with commit := some (max (uN f.body 0 8) (s.heat + 1), u16 f.body 8, false) })

/-- ABORT (R415). -/
def State.abortFrame (s : State) (f : Frame) : KeyAns :=
  let n := f.slot
  if f.body ≠ [] then refuse s 0x0E01
  else if (s.keySlot n).staged.isNone then refuse s 0x0E06
  else
    let t := s.onSlot n fun x => { x with staged := none, commit := none }
    accept (((t.setFld F.CFR_SLOT_STAT_STAGED n 0).setFld F.CFR_SLOT_STAT_VERIFIED n 0).showPubKeys)

/-- The swap of a slot's sides (R416, R419): the former key becomes PREVIOUS for GRACE heats; a rotation to another key
advances CFR_ROT_CNT. -/
def State.swapKey (s : State) (n : Nat) : State :=
  let x := s.keySlot n
  match x.staged, x.commit with
  | some k, some (at_, grace, rot) =>
    if at_ ≤ s.heat then
      let differs := decide (x.active ≠ some k.key)
      let t := s.onSlot n fun _ => ⟨some k.key, none, if grace = 0 then none else x.active, none⟩
      let t := (t.setReg .CFR_SLOT_ATTR_LO n k.lo).setReg .CFR_SLOT_ATTR_HI n k.hi
      let t := (t.setFld F.CFR_SLOT_STAT_STAGED n 0).setFld F.CFR_SLOT_STAT_VERIFIED n 0
      let t := (t.setFlag F.CFR_SLOT_STAT_PREV n (decide (grace ≠ 0))).setFld F.CFR_SLOT_STAT_GRACE n grace
      let t := if rot && differs then t.bumpSat F.CFR_ROT_CNT_COUNT 0 else t
      t.showPubKeys.report 0x0E82 n
    else s
  | _, _ => s

/-- The previous key is zeroised (R416). -/
def State.endGrace (s : State) (n : Nat) : State :=
  (((s.onSlot n fun x => { x with prev := none }).setFld F.CFR_SLOT_STAT_PREV n 0).setFld F.CFR_SLOT_STAT_GRACE n 0).showPubKeys

/-! ### Life cycle and debug (R422 to R425) -/

/-- End a debug session; MAKER stays open. -/
def State.endDebug (s : State) : State :=
  if s.fld F.CFR_LC_STATE_STATE = 0 then ((s.setFld F.CFR_DBG_STAT_OPEN 0 1).setFld F.CFR_DBG_STAT_LEVEL 0 2).setFld F.CFR_DBG_STAT_REMAIN 0 0xFFFF
  else s.setReg .CFR_DBG_STAT 0 0

/-- No output is active (R423). -/
def State.allIdle (s : State) : Bool :=
  (List.range 24).all (fun b => s.fld F.FRG_BAY_CTL_RUN b == 0) && (List.range 32).all (fun o => s.fld F.TRS_OUT_STAT_GRANT o == 0)
    && (List.range 16).all fun k => s.fld F.MRT_OUT_STAT_ON k == 0

/-- The slots that may sign a step from one state to another; none for a transition that does not exist (R422). -/
def lcSigner (src dst n : Nat) : Bool :=
  match src, dst with
  | 0, 1 => n == 2
  | 1, 2 => n == 8
  | 1, 3 => n == 8 || n == 2
  | 2, 3 => n == 8 || n == 2
  | _, 4 => n == 8 || n == 2
  | _, _ => false

/-- LC_STEP (R422, R423): the fuses are blown and ERASE_PEND is set; erasing follows. -/
def State.lcStep (s : State) (f : Frame) : KeyAns :=
  let src := s.fld F.CFR_LC_STATE_STATE
  let dst := u8 f.body 32
  if f.body.length ≠ 64 ∨ uN f.body 33 15 ≠ 0 then refuse s 0x0E01
  else if !(lcSigner src dst 8 || lcSigner src dst 2) || decide (4 ≤ s.fld F.CFR_LC_STATE_STEPS) || decide (src = 4) then refuse s 0x0E09
  else if s.signedCode f (lcSigner src dst) ≠ 0 then refuse s (s.signedCode f (lcSigner src dst))
  else if slice f.body 48 16 ≠ (Config.serial ++ leBytes 16 0).take 16 then refuse s 0x0E02
  else if dst = 2 ∧ s.slotState 8 ≠ 1 then refuse s 0x0E06
  else if 3 ≤ dst ∧ s.allIdle = false then refuse s 0x0E0E
  else
    let t := (s.setFld F.CFR_LC_STATE_STATE 0 dst).setFld F.CFR_LC_STATE_STEPS 0 (s.fld F.CFR_LC_STATE_STEPS + 1)
    accept ((t.setFld F.CFR_LC_STATE_ERASE_PEND 0 1).endDebug.newNonce)

/-- The slots that the step into the present state erases (R422). -/
def State.erased (s : State) : List Nat :=
  match s.fld F.CFR_LC_STATE_STATE with
  | 1 => 8 :: (List.range 502).map (· + 10)
  | 2 => (List.range 512).filter fun n => decide (s.fld F.CFR_SLOT_ATTR_LO_LIFE n = 2)
  | 3 => (List.range 504).map (· + 8)
  | _ => List.range 512

/-- The erasure is done: ERASE_PEND clears and 0E84h is reported (R423); a scrapped part has no root secret (R422). -/
def State.eraseKeys (s : State) : State :=
  let t := s.each (s.erased.filter fun n => s.slotState n ≠ 0 || (s.keySlot n).active.isSome) fun n t => t.emptySlot n
  let t := if s.fld F.CFR_LC_STATE_STATE = 4 then t.setFld F.CFR_STAT_ROOT_FAIL 0 1 else t
  ((t.showPubKeys).setFld F.CFR_LC_STATE_ERASE_PEND 0 0).report 0x0E84

/-- ROT_ROTATE (R419): stage into slot 8, committed at the next heat marker with GRACE 0. -/
def State.rotate (s : State) (f : Frame) : KeyAns :=
  let a := attrOf (f.body.drop 32) 3 1 0x3FF
  let key := f.body.drop 40
  if f.body.length < 41 ∨ rootKey a.1 = false then refuse s 0x0E01
  else if s.signedCode f (fun n => decide (n = 8)) ≠ 0 then refuse s (s.signedCode f fun n => decide (n = 8))
  else if (s.keySlot 8).active = some key then accept s.newNonce
  else if s.fld F.CFR_ROT_CNT_COUNT = 7 then refuse s 0x0E0A
  else
    let r := s.stageKey 8 ⟨a.1, a.2, 0, key⟩ true
    if r.code = 0x0E00 then
      { r with st := (r.st.onSlot 8 fun x => { x with commit := some (s.heat + 1, 0, true) }).newNonce }
    else r

/-- The level that a state allows, and who may sign for it (R424). -/
def State.debugAllowed (s : State) (level n : Nat) : Bool :=
  let dbg := bitOf (s.fld F.CFR_SLOT_ATTR_HI_USAGE n) 14
  match s.fld F.CFR_LC_STATE_STATE with
  | 1 => dbg && decide (level = 1 ∨ level = 2)
  | 2 => dbg && decide (level = 1)
  | 3 => decide (n = 3 ∧ level = 2) && !s.flag F.CFR_LC_STATE_ERASE_PEND
  | _ => false

/-- DEBUG_UNLOCK (R424, R425): a failure reports 0E11h, and for 10 s nothing more is accepted. -/
def State.debugUnlock (s : State) (f : Frame) : KeyAns :=
  let level := u8 f.body 32
  let fail : KeyAns := ⟨0x0E11, [], { s with cof := { s.cof with lockUntil := s.now + s.strokesIn 1000000000 } }.report 0x0E11⟩
  if f.body.length ≠ 36 ∨ u8 f.body 33 ≠ 0 then refuse s 0x0E01
  else if s.now < s.cof.lockUntil then refuse s 0x0E11
  else if s.signedCode f (s.debugAllowed level) ≠ 0 then fail
  else
    let t := ((s.setFld F.CFR_DBG_STAT_OPEN 0 1).setFld F.CFR_DBG_STAT_LEVEL 0 level).setFld F.CFR_DBG_STAT_REMAIN 0 (u16 f.body 34)
    accept (t.newNonce.report 0x0E83)

/-! ### Serving a frame -/

/-- Coffer on the fabric. -/
def cofferPort : Initiator := ⟨10, 0⟩

/-- The bytes of the frame that a channel names, read through port 10: none outside SRAM and LPDDR5, at an address that is not 8-byte
aligned, or where the read ends in a bus error, which is latched (R418). -/
def State.channelFrame (s : State) (c : Nat) : Option (List Byte) × State :=
  let a := s.pair .CFR_CH_ADDR_LO .CFR_CH_ADDR_HI c
  if a % 8 = 0 then s.fetch cofferPort a (s.fld F.CFR_CH_LEN_LEN c) else (none, s)

/-- The opcodes of R419. -/
def opcodes : List Nat :=
  [1, 2, 3, 4, 5, 6, 7, 8, 0x10, 0x11, 0x12, 0x13, 0x14, 0x20, 0x21, 0x22, 0x30, 0x31, 0x40]

/-- A channel may ask for an opcode (R418, R419): channel 12 only DEBUG_UNLOCK and GET_CERT, which alone unlocks. -/
def channelMay (c opcode : Nat) : Bool :=
  if c = 12 then decide (opcode = 0x40 ∨ opcode = 8) else decide (opcode ≠ 0x40)

/-- The result of a channel's frame: the output in memory where it fits, CODE and OUT_LEN, and BUSY ends. -/
def State.channelAnswer (s : State) (c : Nat) (f : Frame) (r : KeyAns) : State :=
  let w := r.st.unitWrite cofferPort f.out r.out
  let fits := decide (r.out.length ≤ f.outMax) && w.1
  let s := if fits then w.2 else if r.out.length ≤ f.outMax then (s.unitWrite cofferPort f.out r.out).2 else s
  let code := if fits then r.code else 0x0E01
  let s := (s.setFld F.CFR_CH_STAT_BUSY c 0).setFld F.CFR_CH_STAT_OUT_LEN c (if fits then (r.out.length + 3) / 4 else 0)
  (s.setFld F.CFR_CH_STAT_CODE c code).setFld F.CFR_STAT_CODE 0 code

/-- Scribe counts an operation at its engine: 0 ML-DSA, 1 the elliptic curves, 2 symmetric (R420, R427). -/
def KeyAns.counted (r : KeyAns) (alg : Nat) : KeyAns :=
  if r.code = 0x0E00 then { r with st := r.st.count 13 (if alg = 1 then 6 else if 2 ≤ alg ∧ alg ≤ 4 then 7 else 8) } else r

/-- The commands that use or make keys; without a root secret each is refused with 0E0Fh (R406). -/
def keyCommand (opcode : Nat) : Bool := decide (opcode ≠ 0x14 ∧ opcode ≠ 8)

/-- The operation of a frame, where there is a root secret. -/
def State.rooted (s : State) (opcode : Nat) (r : KeyAns) : KeyAns :=
  if s.flag F.CFR_STAT_ROOT_FAIL && keyCommand opcode then refuse s 0x0E0F else r

/-- Serve the frame at a channel, and a frame on a private path, where it is readable and holds the opcode. -/
def State.serveChannel (s : State) (c opcode : Nat) (op : Nat → Frame → KeyAns) : Option Frame → State
  | some f =>
    if f.opcode ≠ opcode then s
    else s.channelAnswer c f (if channelMay c opcode then (s.rooted opcode (op 1 f)).counted (s.slotAlg f.slot) else refuse s 0x0E01)
  | none => if s.flag F.CFR_CH_STAT_BUSY c then
      ((s.setFld F.CFR_CH_STAT_BUSY c 0).setFld F.CFR_CH_STAT_CODE c 0x0E01).setFld F.CFR_STAT_CODE 0 0x0E01
    else s
def State.servePath (s : State) (island opcode : Nat) (op : Nat → Frame → KeyAns) : Option Frame → State
  | some f =>
    if f.opcode ≠ opcode then s
    else
      let r := (s.rooted opcode (op island f)).counted (s.slotAlg f.slot)
      ({ r.st with cof := { r.st.cof with answer := (r.code, r.out) } }).setFld F.CFR_STAT_CODE 0 r.code
  | none => s

/-- Coffer answers a command: its island runs, or it failed for want of a root secret and refuses the key commands (R38, R406). -/
def State.cofferAnswers (s : State) (opcode : Nat) : Bool :=
  s.runs 7 || (s.sys.booted && s.flag F.CFR_STAT_ROOT_FAIL && keyCommand opcode)

/-- Serve a request for one opcode. Nothing is served while an erasure is pending (R423); a request that holds another
opcode is not this command's. -/
def State.serve (s : State) (q : KeyReq) (opcode : Nat) (op : Nat → Frame → KeyAns) : State :=
  if s.flag F.CFR_LC_STATE_ERASE_PEND || !s.cofferAnswers opcode then s
  else match q with
    | .channel c =>
      let r := s.channelFrame c
      r.2.serveChannel c opcode op (r.1.bind readFrame)
    | .path island b => s.live island (s.servePath island opcode op (readFrame b))

/-! ### The meanings -/

/-- GENERATE (R419). -/
def execGenerateKey (q : KeyReq) (s : State) : Host.Outcome State Fault Refusal :=
  .next (s.serve q 1 fun i f => s.create i f false 0 s.newGenerated)

/-- DERIVE (R412). -/
def execDeriveKey (q : KeyReq) (s : State) : Host.Outcome State Fault Refusal :=
  .next (s.serve q 2 fun i f => s.create i f true 8 (s.newDerived i f.slot))

/-- IMPORT (R412, R419). -/
def execImportKey (q : KeyReq) (s : State) : Host.Outcome State Fault Refusal :=
  .next (s.serve q 3 fun i f => s.create i f true 8 (s.newImported i f.slot))

/-- EXPORT (R419). -/
def execExportKey (q : KeyReq) (s : State) : Host.Outcome State Fault Refusal := .next (s.serve q 4 fun i f => s.exportBlob i f)

/-- DESTROY (R413). -/
def execDestroyKey (q : KeyReq) (s : State) : Host.Outcome State Fault Refusal := .next (s.serve q 5 fun i f => s.destroy i f)

/-- GET_PUBLIC (R410). -/
def execGetPublic (q : KeyReq) (s : State) : Host.Outcome State Fault Refusal := .next (s.serve q 6 fun _ f => s.getPublic f)

/-- ATTEST (R421). -/
def execAttest (q : KeyReq) (s : State) : Host.Outcome State Fault Refusal := .next (s.serve q 7 fun i f => s.attest i f)

/-- GET_CERT (R419). -/
def execGetCert (q : KeyReq) (s : State) : Host.Outcome State Fault Refusal := .next (s.serve q 8 fun _ f => s.getCert f)

/-- SIGN (R419). -/
def execSignMsg (q : KeyReq) (s : State) : Host.Outcome State Fault Refusal := .next (s.serve q 0x10 fun i f => s.signFrame i f)

/-- VERIFY (R416, R419). -/
def execVerifySig (q : KeyReq) (s : State) : Host.Outcome State Fault Refusal := .next (s.serve q 0x11 fun i f => s.verifyFrame i f)

/-- SEAL (R419). -/
def execSealAead (q : KeyReq) (s : State) : Host.Outcome State Fault Refusal := .next (s.serve q 0x12 fun i f => s.sealFrame i f)

/-- OPEN (R416). -/
def execOpenAead (q : KeyReq) (s : State) : Host.Outcome State Fault Refusal := .next (s.serve q 0x13 fun i f => s.openFrame i f)

/-- HASH (R419). -/
def execHashData (q : KeyReq) (s : State) : Host.Outcome State Fault Refusal := .next (s.serve q 0x14 fun _ f => s.hashFrame f)

/-- STAGE of a key (R415). -/
def execKeyStage (q : KeyReq) (s : State) : Host.Outcome State Fault Refusal := .next (s.serve q 0x20 fun i f => s.stageFrame i f)

/-- COMMIT of a key (R416). -/
def execKeyCommit (q : KeyReq) (s : State) : Host.Outcome State Fault Refusal := .next (s.serve q 0x21 fun _ f => s.commitFrame f)

/-- ABORT (R415). -/
def execAbort (q : KeyReq) (s : State) : Host.Outcome State Fault Refusal := .next (s.serve q 0x22 fun _ f => s.abortFrame f)

/-- LC_STEP (R422). -/
def execLcStep (q : KeyReq) (s : State) : Host.Outcome State Fault Refusal := .next (s.serve q 0x30 fun _ f => s.lcStep f)

/-- ROT_ROTATE (R419). -/
def execRotRotate (q : KeyReq) (s : State) : Host.Outcome State Fault Refusal := .next (s.serve q 0x31 fun _ f => s.rotate f)

/-- DEBUG_UNLOCK (R424). -/
def execDebugUnlock (q : KeyReq) (s : State) : Host.Outcome State Fault Refusal := .next (s.serve q 0x40 fun _ f => s.debugUnlock f)

/-- KEY_SWAP (R416). -/
def execKeySwap (n : Nat) (s : State) : Host.Outcome State Fault Refusal := .next (s.live 7 (s.swapKey n))

/-- GRACE_END (R416): the heats of grace have run out. -/
def execGraceEnd (n : Nat) (s : State) : Host.Outcome State Fault Refusal :=
  .next (s.live 7 (if s.flag F.CFR_SLOT_STAT_PREV n ∧ s.fld F.CFR_SLOT_STAT_GRACE n = 0 then s.endGrace n else s))

/-- ORPHAN_SWEEP (R413): every orphan is zeroised and freed, and its GEN advances. -/
def execOrphanSweep (s : State) : Host.Outcome State Fault Refusal :=
  .next (s.live 7 ((s.each ((List.range 512).filter fun n => decide (s.slotState n = 2)) fun n t => t.emptySlot n).showPubKeys))

/-- DEBUG_EXPIRY (R425): no heat is left. -/
def execDebugExpiry (s : State) : Host.Outcome State Fault Refusal :=
  .next (s.live 7 (if s.flag F.CFR_DBG_STAT_OPEN ∧ s.fld F.CFR_DBG_STAT_REMAIN = 0 then s.endDebug else s))

/-- GO (R418): refused with 0E10h while BUSY; a malformed frame is refused with 0E01h; any other waits for its engine. -/
def State.channelGo (s : State) (c : Nat) : State :=
  if s.flag F.CFR_CH_STAT_BUSY c then s.report 0x0E10 c
  else
    let r := s.channelFrame c
    let bad := (r.2.setFld F.CFR_CH_STAT_CODE c 0x0E01).setFld F.CFR_STAT_CODE 0 0x0E01
    match r.1.bind readFrame with
    | some f => if opcodes.contains f.opcode && channelMay c f.opcode then s.setFld F.CFR_CH_STAT_BUSY c 1 else bad
    | none => bad

/-- Each heat the heats of grace and of a debug session left fall by one (R416, R425). -/
def State.cofferHeat (s : State) : State :=
  let t := s.each ((s.cof.slots.cells.map fun c => c.1).filter fun n => s.flag F.CFR_SLOT_STAT_PREV n) fun n t =>
    t.setFld F.CFR_SLOT_STAT_GRACE n (t.fld F.CFR_SLOT_STAT_GRACE n - 1)
  if t.flag F.CFR_DBG_STAT_OPEN ∧ t.fld F.CFR_LC_STATE_STATE ≠ 0 then
    t.setFld F.CFR_DBG_STAT_REMAIN 0 (t.fld F.CFR_DBG_STAT_REMAIN - 1)
  else t

end Sys2Proof.Machine
end

