-- ==== Sys2Proof/Machine/TrussPlan.lean ====
section
/-! DEFINITION. Truss: its inputs, the allocation model and the building of one plan entry (file 06, R161 to R171, R174, R181,
R183). Powers are in 10 W, currents in 0.1 A, voltages in 0.1 V. -/

namespace Sys2Proof.Machine

open Sys2Proof

/-! ### The TOPO section -/

/-- The TOPO body of the active structure (R50). -/
def State.topo (s : State) : List Byte := s.body tyTOPO

/-- A bay of a crosspoint: its own number for a local bay, and 32 × (device + 1) + bay for a remote one (R50). -/
def XpRec.key (r : XpRec) : Nat := if r.lender = 255 then r.bay else 32 * (r.lender + 1) + r.bay

/-- Local outputs, and the bays that a crosspoint names. -/
def State.outs (s : State) : List Nat :=
  ((List.range (topoOuts s.topo)).map fun k => u8 s.topo (topoOutOfs s.topo + 16 * k)).insertionSort (· ≤ ·)
def State.xpKeys (s : State) : List Nat :=
  (((topoXpList s.topo).map XpRec.key).eraseDups).insertionSort (· ≤ ·)

/-- A point number of a TOPO field; FFFF_FFFFh is none. -/
def ptOf (v : Nat) : Option Nat := if v = 0xFFFFFFFF then none else some v

/-- The good number of a point in tenths of its unit, rounded down. -/
def State.tenths (s : State) (p : Nat) : Option Int := (s.goodRat p).map fun x => (x * 10).floor

/-- Output voltage and current points, and bay voltage and current points. -/
def State.outVoltPt (s : State) (o : Nat) : Option Nat := (topoOutRec? s.topo o).map fun k => u32 s.topo (k + 4)
def State.outCurPt (s : State) (o : Nat) : Option Nat := (topoOutRec? s.topo o).map fun k => u32 s.topo (k + 8)
def State.bayCurPt (s : State) (b : Nat) : Option Nat := (topoBayRec? s.topo b).map fun k => u32 s.topo (k + 4)
def State.bayVoltPt (s : State) (b : Nat) : Option Nat := (topoBayRec? s.topo b).map fun k => u32 s.topo (k + 8)

/-- I_OUT_MAX of an output in 0.1 A. -/
def State.outMax (s : State) (o : Nat) : Nat := match topoOutRec? s.topo o with | some k => 10 * u16 s.topo (k + 2) | none => 0

/-! ### Inputs (R161, R162, R182 to R184) -/

/-- The value of an input point in 10 W from a point in kW. -/
def State.power (s : State) (p : Option Nat) : Option Nat := p.bind fun p => (s.goodRat p).map fun x => (x * 100).floor.toNat

/-- Refresh an input: a good value is kept; one that is not good is counted from its first stroke (R162). -/
def GoodValue.refresh (g : GoodValue) (v : Option Nat) (now : Nat) : GoodValue :=
  match v with
  | some x => ⟨some x, none, false⟩
  | none => { g with since := some (g.since.getD now) }

/-- The value in force: the last good one, else the substitute. -/
def GoodValue.use (g : GoodValue) (sub : Nat) : Nat := if g.gone then sub else g.last.getD sub

/-- Site devices, this device's index, and a device's FALLBACK in 0.1 % (R50). -/
def State.siteDevs (s : State) : List (Nat × Nat) :=
  (List.range (u8 s.topo 6)).map fun k => (u8 s.topo (topoDevOfs s.topo + 8 * k), u16 s.topo (topoDevOfs s.topo + 8 * k + 2))
def State.ownDev (s : State) : Nat := u8 s.topo 5

/-- The record of a device for a heat. -/
def State.record (s : State) (dev heat : Nat) : Option PeerRecord :=
  s.trs.records.find? fun r => decide (r.dev = dev ∧ r.heat = heat)

/-- The agreed heat (R183): the most recent heat with a valid record from every device listed. -/
def State.agreed (s : State) : Option Nat :=
  let hs := (s.trs.records.map fun r => r.heat).filter fun h => s.siteDevs.all fun d => (s.record d.1 h).isSome
  hs.foldl (fun m h => match m with | some x => some (max x h) | none => some h) none

/-- The level of a max-min fair share (R164 step 3) over ascending demands. -/
def fairLevel : List Rat → Rat → Rat → Rat
  | [], _, top => top
  | d :: t, left, _ =>
    let n : Rat := ((t.length + 1 : Nat) : Rat)
    if d * n ≤ left then fairLevel t (left - d) d else left / n

/-- Max-min fair shares: each member gets min(D, L). -/
def fairShares (ds : List Rat) (budget : Rat) : List Rat :=
  let l := fairLevel (ds.insertionSort (fun a b => decide (a ≤ b))) (max budget 0) 0
  ds.map fun d => min d l

/-- A device's share of the agreed heat (R183): the budget less every AUX, shared by class from 3 down to 0. -/
def shareOf (dev : Nat) (rs : List PeerRecord) (budget : Rat) : Rat :=
  let rest := budget - ((rs.map fun r => r.aux).sum : Nat)
  (([3, 2, 1, 0] : List Nat).foldl (fun (acc : Rat × Rat) k =>
    let sh := fairShares (rs.map fun r => ((r.demand.getD k 0 : Nat) : Rat)) acc.1
    let own := ((rs.zip sh).map fun c => if c.1.dev = dev then c.2 else 0).sum
    (acc.1 - sh.sum, acc.2 + own)) (rest, 0)).2

/-- The device's share of the site budget, and its SOURCE: 0 share, 3 P_SAFE, 4 fallback. A lone device takes the budget. -/
def State.share (s : State) : Nat × Nat :=
  let budget := s.trs.budget.use (u32 s.topo 0x20)
  let src := if s.trs.budget.gone || s.trs.budget.last.isNone then 3 else 0
  let fall := (s.fld F.TRS_GRID_CFG_FALLBACK * budget / 1000, 4)
  if (s.siteDevs.length) ≤ 1 then (budget, src)
  else if s.flag F.TRS_STAT_FALLBACK then fall
  else match s.agreed with
    | some h => ((shareOf s.ownDev (s.siteDevs.filterMap fun d => s.record d.1 h) (budget : Rat)).floor.toNat, src)
    | none => fall

/-- P_GRID_LIM and the value that limits (R163, R162). -/
def State.gridLimit (s : State) : Nat × Nat :=
  let a := s.share
  let a := match ptOf (u32 s.topo 0x18) with
    | some _ =>
      let c := s.trs.curtail.use (u32 s.topo 0x20)
      if c < a.1 then (c, if s.trs.curtail.gone || s.trs.curtail.last.isNone then 3 else 1) else a
    | none => a
  let f := s.fld F.TRS_GRID_FW_LIMIT
  if f < a.1 then (f, 2) else a

/-- The limit for a heat while a curtailment is met over GRACE heats (R181): the import falls linearly. -/
def State.limitAt (s : State) (h : Nat) : Nat :=
  let l := s.gridLimit.1
  let n := s.fld F.TRS_GRID_CFG_GRACE
  match s.trs.grace with
  | some (h0, imp) =>
    if n = 0 ∨ h0 + 1 + n ≤ h ∨ imp ≤ l then l else imp - (imp - l) * (h - h0) / (n + 1)
  | none => l

/-- Auxiliary load: its last good value, AUX_MAX once it is lost, 0 where no point is bound (R162). -/
def State.auxLoad (s : State) : Nat :=
  match ptOf (u32 s.topo 0x1C) with
  | some _ => s.trs.aux.use (u32 s.topo 0x24)
  | none => 0


/-- An island whose failure ends every session: 1, 5 and 7 (R39). -/
def State.sessionsEnd (s : State) : Bool :=
  let f := s.fld F.SYS_REGION_STAT_FAILED
  bitOf f 1 || bitOf f 5 || bitOf f 7

/-- A resource is claimed (R60). -/
def State.claimed (s : State) (c : Claim) : Bool := s.jny.claimed.contains c

/-- A sum of headrooms in W as the registers show it, in 10 W (R391). -/
def inHeadUnits (x : Rat) : Nat := min (2 ^ 32 - 1) (x / 10).floor.toNat

/-- The published headroom that Truss may use (R163, R60): without that of claimed strings. -/
def State.headOf (s : State) (pub : Nat) (part : Rat × Rat → Rat) : Nat :=
  let l := s.est.strHead.filter fun c => s.claimed (.batString c.1)
  if l.isEmpty then pub else min pub (inHeadUnits ((s.est.strHead.filter fun c => !s.claimed (.batString c.1)).map fun c => part c.2).sum)

/-- Battery headroom (R163): none on a part without strings. -/
def State.headDis (s : State) : Nat := if s.stringCount = 0 then 0 else s.headOf (s.fld F.EMB_HEAD_DIS_HEAD) Prod.fst
def State.headChg (s : State) : Nat := if s.stringCount = 0 then 0 else s.headOf (s.fld F.EMB_HEAD_CHG_HEAD) Prod.snd

/-- An output has a session that may be served: VALID, credit OK, not claimed (R161, R164). -/
def State.served (s : State) (o : Nat) : Bool :=
  s.flag F.TRS_OUT_DEM_HI_VALID o && !s.flag F.TRS_OUT_STAT_CREDIT_EX o && !s.sessionsEnd && !s.claimed (.output o)
    && !s.claimed (.session o)

/-- I_REQ at a heat, with the predicted slope (R174). -/
def State.askAt (s : State) (o h : Nat) : Nat :=
  ((s.fld F.TRS_OUT_DEM_LO_I_REQ o : Int) + signed 16 (s.fld F.TRS_OUT_DEM_HI_SLOPE o) * ((h : Int) - s.heat)).toNat

/-- I_CABLE for a heat: the present limit, or its forecast (R195). -/
def State.cableAt (s : State) (o h : Nat) : Nat :=
  if h ≤ s.heat then s.fld F.BLW_OUT_LIM_LIMIT o else s.fld F.BLW_FCST_LIMIT (o * 16 + min (h - s.heat - 1) 15)

/-! ### Bays and crosspoints -/

/-- AVAIL of a bay, local or remote. -/
def State.availOf (s : State) (b : Nat) : Nat :=
  if b < 24 then s.fld F.FRG_BAY_STAT_AVAIL b else Config.remoteAvail (b / 32 - 1) (b % 32)

/-- Per-phase current capability at a voltage. -/
def State.phaseCap (s : State) (v : Nat) : Nat :=
  let i := u16 s.topo 0x28
  if v = 0 then i else min i (10000 * u16 s.topo 0x2A / v)

/-- I_CAP of a bay. -/
def State.bayCap (s : State) (b v : Nat) : Nat := s.availOf b * s.phaseCap v

/-- A bay is usable (R165): present, not faulted, not claimed, AVAIL above 0, not lent; a remote one while no fallback is in
force. -/
def State.usable (s : State) (b : Nat) : Bool :=
  if b < 24 then
    s.hasForge && (topoBayRec? s.topo b).isSome && !s.flag F.FRG_BAY_STAT_FAULT b && !s.claimed (.bay b)
      && decide (0 < s.availOf b) && !s.flag F.TRS_BAY_STAT_LENT b
  else !s.flag F.TRS_STAT_FALLBACK && decide (0 < s.availOf b)

/-- The state of a crosspoint (TRS_XP_STAT.STATE). -/
def State.xpState (s : State) (x : Nat) : Nat := s.fld F.TRS_XP_STAT_STATE x

/-- A crosspoint is welded to its output: its bay may serve no other (R173). -/
def State.weldedAt (s : State) (b : Nat) : Option Nat :=
  ((topoXpList s.topo).zipIdx.find? fun c => decide (c.1.key = b ∧ s.xpState c.2 = 5)).map fun c => c.2

/-- A crosspoint is claimed (R60). -/
def State.xpClaimed (s : State) (x : Nat) : Bool :=
  let r := topoXp s.topo x
  s.claimed (.crosspoint r.key r.out)

/-- A plan's bay is claimed, itself or through the crosspoint that it serves its output by (R60, R175). -/
def State.planClaimed (s : State) (b : Nat) (p : BayPlan) : Bool := s.claimed (.bay b) || s.xpClaimed p.xp

/-- A crosspoint may be used: not claimed, without a latched fault but a weld, past its 100 heats of R171. -/
def State.xpUsable (s : State) (x h : Nat) : Bool :=
  let r := topoXp s.topo x
  let st := s.xpState x
  !s.xpClaimed x
    && (decide (st = 5) || (!s.flag F.TRS_XP_STAT_FAULT x && decide (st ≠ 4 ∧ st ≠ 6)))
    && decide ((s.trs.xps.get x).until_ ≤ h)
    && (match s.weldedAt r.key with | some y => decide (y = x) | none => true)

/-- The crosspoint from a bay to an output, if one is usable. -/
def State.xpFor (s : State) (b o h : Nat) : Option Nat :=
  ((topoXpList s.topo).zipIdx.find? fun c => decide (c.1.key = b ∧ c.1.out = o) && s.xpUsable c.2 h).map fun c => c.2

/-- An output asks for power (R164 step 1): its session may be served, and a crosspoint to it is usable. -/
def State.asks (s : State) (o h : Nat) : Bool :=
  s.served o && (topoXpList s.topo).zipIdx.any fun c => decide (c.1.out = o) && s.xpUsable c.2 h

/-- Feedback of a crosspoint: closed or open, or not of good quality (R173, R469). A value that is no number is not zero. -/
def State.feedback (s : State) (x : Nat) : Option Bool :=
  let p := (topoXp s.topo x).fb
  if s.pointGood p then some (match s.pointDy p with | some v => decide (v.m ≠ 0) | none => true) else none

/-- A bay is engaged through a crosspoint: it is closed, closing, opening or welded, or its feedback shows closed (R166). -/
def State.engaged (s : State) (x : Nat) : Bool :=
  let st := s.xpState x
  decide (st = 1 ∨ st = 2 ∨ st = 3 ∨ st = 5) || decide (s.feedback x = some true)

/-- Another crosspoint of the same bay is engaged. -/
def State.otherEngaged (s : State) (x : Nat) : Bool :=
  (topoXpList s.topo).zipIdx.any fun c => decide (c.2 ≠ x ∧ c.1.key = (topoXp s.topo x).key) && s.engaged c.2

/-! ### Building an entry (R164 to R167) -/

/-- The bays that an entry gives an output, in ascending order, with their plans. -/
def Entry.baysOf (e : Entry) (o : Nat) : List (Nat × BayPlan) :=
  (e.bays.cells.filter fun c => decide (c.2.out = some o))

/-- An output conducts in an entry. -/
def Entry.conducts (e : Entry) (o : Nat) : Bool := (e.baysOf o).any fun c => decide (c.2.mode = 2)

/-- V_o: measured while the output conducts, V_REQ otherwise. -/
def State.voltsOf (s : State) (prev : Entry) (o : Nat) : Nat :=
  let req := s.fld F.TRS_OUT_DEM_LO_V_REQ o
  if prev.conducts o then
    match (s.outVoltPt o).bind s.tenths with
    | some v => v.toNat
    | none => req
  else req

/-- The current cap C_o and the limit that binds it: 0 demand, 1 cable, 2 rating. -/
def State.capOf (s : State) (o h : Nat) : Nat × Nat :=
  let a := (s.askAt o h, 0)
  let a := if s.cableAt o h < a.1 then (s.cableAt o h, 1) else a
  if s.outMax o < a.1 then (s.outMax o, 2) else a

/-- Set an output's plan and a bay's plan. -/
def Entry.setOut (e : Entry) (o : Nat) (p : OutPlan) : Entry := { e with outs := e.outs.set o p }
def Entry.setBay (e : Entry) (b : Nat) (p : BayPlan) : Entry := { e with bays := e.bays.set b p }

/-- The figures of one output while an entry is built. -/
structure Draft where
  out   : Nat
  volts : Nat
  cap   : Nat
  limit : Nat
  want  : Nat
  bays  : List (Nat × Nat)
  deriving DecidableEq, Repr

/-- An output's power in 10 W at a voltage and a current. -/
def powerOf (v i : Nat) : Rat := ((v * i : Nat) : Rat) / 1000

/-- Total capability of some bays for an output. -/
def State.capSum (s : State) (l : List (Nat × Nat)) (v : Nat) : Nat := (l.map fun c => s.bayCap c.1 v).sum

/-- The bays that an output keeps (R165 step 1), with their crosspoints. -/
def State.kept (s : State) (prev : Entry) (o : Nat) : List (Nat × Nat) :=
  ((prev.baysOf o).filter fun c => s.usable c.1 && !s.planClaimed c.1 c.2 && !s.trs.leaving.contains c.1 && decide (c.2.mode ≠ 0)).map
    fun c => (c.1, c.2.xp)

/-- Another crosspoint of a bay dropped out, and its feedback shows closed: the bay is not free (R166). -/
def State.shorted (s : State) (b : Nat) : Bool :=
  (topoXpList s.topo).zipIdx.any fun c => decide (c.1.key = b ∧ s.xpState c.2 = 6 ∧ s.feedback c.2 = some true)

/-- Free bays for an output (R165 step 2): usable, bound to no output, or welded to this one. -/
def State.freeFor (s : State) (prev : Entry) (o h : Nat) (taken : List Nat) : List (Nat × Nat) :=
  s.xpKeys.filterMap fun b =>
    let p := prev.bays.get b
    let bound := decide (p.out.isSome) && !(decide (p.out = some o ∧ p.mode = 0) && (s.weldedAt b).isSome)
    if s.usable b && !bound && !taken.contains b && !s.shorted b then (s.xpFor b o h).map fun x => (b, x) else none

/-- Bays added, lowest number first, until the capability suffices. -/
def State.addBays (s : State) (v need : Nat) : List (Nat × Nat) → List (Nat × Nat) → List (Nat × Nat)
  | held, [] => held
  | held, c :: t => if need ≤ s.capSum held v then held else s.addBays v need (held ++ [c]) t

/-- One class served (R164 steps 3 and 4, R165): the shares, the bays, and what a lack of bays leaves for the next class. -/
def State.serveClass (s : State) (prev : Entry) (h : Nat) (acc : Rat × List Draft) (k : Nat) : Rat × List Draft :=
  let members := s.outs.filter fun o => s.asks o h && decide (s.fld F.TRS_OUT_DEM_HI_PRIO o = k)
  let caps := members.map fun o => ((o, s.voltsOf prev o, s.capOf o h) : Nat × Nat × Nat × Nat)
  let shares := fairShares (caps.map fun c => powerOf c.2.1 c.2.2.1) acc.1
  (caps.zip shares).foldl (fun (a : Rat × List Draft) c =>
    let o := c.1.1
    let v : Nat := c.1.2.1
    let cap := c.1.2.2
    let i := if v = 0 then cap.1 else min cap.1 (c.2 * 1000 / (v : Rat)).floor.toNat
    let taken := a.2.flatMap fun d => d.bays.map fun b => b.1
    let bays := s.addBays v i (s.kept prev o) (s.freeFor prev o h taken)
    let able := s.capSum bays v
    let want := min i able
    let limit := if able < i then 4 else if i < cap.1 then 3 else cap.2
    (a.1 - powerOf v want, a.2 ++ [⟨o, v, cap.1, limit, want, bays⟩])) acc

/-- P_OUT (R164 step 2). -/
def State.powerOut (s : State) (h : Nat) : Rat :=
  ((((s.limitAt h + s.headDis : Nat) : Int) - s.auxLoad : Int) : Rat) * s.fld F.TRS_GRID_CFG_ETA / 1000

/-- The drafts of every output, by class from 3 down to 0. -/
def State.drafts (s : State) (prev : Entry) (h : Nat) : List Draft :=
  (([3, 2, 1, 0] : List Nat).foldl (s.serveClass prev h) (s.powerOut h, [])).2

/-- The crosspoint of a bay in PRECHARGE is closed: by its feedback, or assumed T_CLOSE heats after its command. -/
def State.closedFor (s : State) (p : BayPlan) (h : Nat) : Bool :=
  let st := s.xpState p.xp
  decide (st = 2 ∨ st = 5)
    || decide ((st = 0 ∨ st = 1) ∧ p.act ≠ 0 ∧ p.act + (topoClass s.topo (topoXp s.topo p.xp).cls).1 < h)

/-- The plan of a bay that an output uses (R166, R169, R171): its voltage set-point is V_REQ; CONDUCT goes on; PRECHARGE becomes CONDUCT once
its crosspoint is closed; a new bay starts in PRECHARGE with its close due 3 heats on. -/
def State.bayOn (s : State) (prev : Entry) (o b x h : Nat) : BayPlan :=
  let p := prev.bays.get b
  let vsp := s.fld F.TRS_OUT_DEM_LO_V_REQ o
  if p.out = some o ∧ p.mode = 2 then { p with vsp := vsp, avail := s.availOf b }
  else if p.out = some o ∧ p.mode = 1 then
    if s.closedFor p h then { p with mode := 2, vsp := vsp, since := h, act := 0, avail := s.availOf b }
    else { p with vsp := vsp, avail := s.availOf b }
  else { mode := 1, out := some o, xp := x, isp := 0, vsp := vsp, since := h, act := h + 3, avail := s.availOf b }

/-- A crosspoint stands open for the plan of its bay: OPEN, or failed with its command at 0 (R173). -/
def State.xpOpen (s : State) (x : Nat) : Bool :=
  let st := s.xpState x
  decide (st = 0 ∨ ((st = 4 ∨ st = 6) ∧ (s.trs.xps.get x).closed = false))

/-- The plan of a bay that no output uses: OFF, bound to its output until its crosspoint is open, the open due one heat on
(R172, R173). -/
def State.bayOff (s : State) (prev : Entry) (b h : Nat) : BayPlan :=
  let p := prev.bays.get b
  let st := s.xpState p.xp
  let opened := s.xpOpen p.xp
    || decide (p.mode = 0 ∧ p.act ≠ 0 ∧ p.act + (topoClass s.topo (topoXp s.topo p.xp).cls).2 < h ∧ st ≠ 5)
  if p.mode = 0 then (if opened then ⟨0, none, 0, 0, 0, 0, 0, 0⟩ else p)
  else if opened then ⟨0, none, 0, 0, 0, 0, 0, 0⟩
  else { p with mode := 0, isp := 0, vsp := 0, since := h, act := h + 1 }

/-- A grant moved from the last one under R167: a step lowers the last grant to its ceiling in full (R175), and from there the grant moves
toward its allocation by at most RAMP_STD. -/
def State.rampedTo (s : State) (last want ceiling : Nat) : Nat :=
  let r := 10 * s.fld F.TRS_CFG_RAMP_STD
  let from_ := min last ceiling
  if from_ ≤ want then min want (from_ + r) else max want (from_ - r)

/-- Claimed bays take their ramped set-points, in ascending order, while the grant lasts; what is left is returned with the entry. -/
def fillClaimed : List (Nat × BayPlan) → Nat → Entry → Entry × Nat
  | [], g, e => (e, g)
  | c :: t, g, e => fillClaimed t (g - min c.2.isp g) { e with bays := e.bays.upd c.1 fun p => { p with isp := min c.2.isp g } }

/-- Shares of a grant over the conducting bays of an output (R166): a claimed bay keeps its ramped set-point. -/
def State.splitGrant (s : State) (o : Nat) (e : Entry) : Entry :=
  let on := (e.baysOf o).filter fun c => decide (c.2.mode = 2)
  let rest := on.filter fun c => !s.planClaimed c.1 c.2
  let x := fillClaimed (on.filter fun c => s.planClaimed c.1 c.2) (e.outs.get o).grant e
  let total := (rest.map fun c => s.availOf c.1).sum
  rest.foldl (fun e c => { e with bays := e.bays.upd c.1 fun p => { p with isp := x.2 * s.availOf c.1 / max total 1 } }) x.1

/-- The state of an output in an entry (R470). -/
def Entry.outState (e : Entry) (o : Nat) : Nat :=
  let l := e.baysOf o
  if l.any fun c => decide (c.2.mode = 2) then (if (e.outs.get o).want = 0 then 3 else 2)
  else if l.any fun c => decide (c.2.mode = 1) then 1
  else if l.isEmpty then 0 else 4

/-- Power that the grants of an entry draw from the bays' input, in 10 W (R163). -/
def State.drawn (s : State) (e : Entry) : Rat :=
  ((s.outs.map fun o => powerOf (e.outs.get o).volts (e.outs.get o).grant).sum) * 1000
    / (max (s.fld F.TRS_GRID_CFG_ETA) 1 : Nat)

/-- Battery set-point and import of an entry (R164 step 5): the least discharge, or the surplus as charge. -/
def State.balance (s : State) (lim : Nat) (e : Entry) : Entry :=
  let need := (s.drawn e + (s.auxLoad : Rat)).ceil
  let bat : Int :=
    if (lim : Int) < need then min (s.headDis : Int) (need - lim)
    else if s.flag F.TRS_CTL_BAT_CHG then -(min (s.headChg : Int) (lim - need)) else 0
  { e with bat := bat, imp := (need - bat).toNat }

/-- Grants that reductions under R167 hold above their allocation give way toward it, output by output, by no more than R163 asks. -/
def State.giveWay (s : State) (h : Nat) (e : Entry) : Entry :=
  s.outs.foldl (fun e o =>
    let excess := s.drawn e * (s.fld F.TRS_GRID_CFG_ETA : Nat) / 1000 - s.powerOut h
    if excess ≤ 0 then e
    else { e with outs := e.outs.upd o fun p =>
      { p with grant := p.grant - min (p.grant - p.want) (excess * 1000 / ((max p.volts 1 : Nat) : Rat)).ceil.toNat } }) e

/-- The claimed bays of an output that conduct, with their set-points; and those of them that stay, their set-points falling together by
RAMP_STD (R167, R175). -/
def State.claimedOn (s : State) (prev : Entry) (o : Nat) : List (Nat × BayPlan) :=
  (prev.baysOf o).filter fun c => decide (c.2.mode = 2) && s.planClaimed c.1 c.2
def State.claimedStay (s : State) (prev : Entry) (o : Nat) : List (Nat × BayPlan) :=
  let r := 10 * s.fld F.TRS_CFG_RAMP_STD
  let l := (s.claimedOn prev o).filter fun c => decide (r < c.2.isp)
  l.map fun c => (c.1, { c.2 with isp := c.2.isp - r / max l.length 1, avail := s.availOf c.1 })

/-- The highest-numbered bay taken out of some bays (R165 step 3). -/
def lessTop (l : List (Nat × Nat)) : List (Nat × Nat) :=
  l.filter fun c => decide (c.1 ≠ (l.map Prod.fst).foldl max 0)

/-- The bays that an output releases and that stay for now: while the last grant, less RAMP_STD, is more than its other bays carry (R165,
R167). -/
def State.leavingStay (s : State) (prev : Entry) (o v : Nat) : List (Nat × BayPlan) :=
  let l := (prev.baysOf o).filter fun c =>
    decide (c.2.mode = 2) && s.usable c.1 && !s.planClaimed c.1 c.2 && s.trs.leaving.contains c.1
  let rest := (prev.baysOf o).filter fun c => decide (c.2.mode = 2) && s.usable c.1 && !s.trs.leaving.contains c.1
  if (rest.map fun c => s.bayCap c.1 v).sum + 10 * s.fld F.TRS_CFG_RAMP_STD < (prev.outs.get o).grant then
    l.map fun c => (c.1, { c.2 with avail := s.availOf c.1 })
  else []

/-- The grant of an output whose plan holds the bays of entry e, moved to its allocation under R167 below a cap: no more than the
conducting bays carry, and nothing before one conducts. A claim is no step, so its bays count with the set-points they had. -/
def State.grantOf (s : State) (prev e : Entry) (o volts want cap : Nat) : Nat :=
  let able := ((e.baysOf o).map fun c =>
    if c.2.mode = 2 then (if s.planClaimed c.1 c.2 then c.2.isp else s.bayCap c.1 volts) else 0).sum
  let fell := ((s.claimedOn prev o).map fun c => c.2.isp).sum - ((s.claimedStay prev o).map fun c => c.2.isp).sum
  if e.conducts o then min able (s.rampedTo (prev.outs.get o).grant want (min cap (able + fell))) else 0

/-- The plan of one output in a new entry. -/
def State.planOut (s : State) (prev : Entry) (h : Nat) (ds : List Draft) (e : Entry) (o : Nat) : Entry :=
  let p := prev.outs.get o
  let stay (v : Nat) (e : Entry) : Entry := (s.claimedStay prev o ++ s.leavingStay prev o v).foldl (fun e c => e.setBay c.1 c.2) e
  let vreq := s.fld F.TRS_OUT_DEM_LO_V_REQ o
  match ds.find? fun d => decide (d.out = o) with
  | some d =>
    let e := stay d.volts (d.bays.foldl (fun e c => e.setBay c.1 (s.bayOn prev o c.1 c.2 h)) e)
    let g := s.grantOf prev e o d.volts d.want d.cap
    let few := d.bays ≠ [] ∧ d.want ≤ s.capSum (lessTop d.bays) d.volts
    e.setOut o
        { grant := g, want := d.want, state := 0, limit := if g < d.want then 5 else d.limit, ask := s.askAt o h,
          volts := d.volts, cable := s.cableAt o h, vreq := vreq, fewer := if few then p.fewer + 1 else 0 }
  | none =>
    -- no session that may be served: a step to 0 where VALID is 0, else a ramp to 0 over the bays that stay usable or are claimed
    let v := s.voltsOf prev o
    let on := (prev.baysOf o).filter fun c => decide (c.2.mode = 2) && s.usable c.1 && !s.planClaimed c.1 c.2
    let kept := stay v (on.foldl (fun e c => e.setBay c.1 { c.2 with avail := s.availOf c.1 }) e)
    let g := if s.flag F.TRS_OUT_DEM_HI_VALID o then s.grantOf prev kept o v 0 (s.capOf o h).1 else 0
    (if g = 0 then e else kept).setOut o
        { grant := g, want := 0, state := 0, limit := 0, ask := s.askAt o h, volts := v, cable := s.cableAt o h, vreq := vreq, fewer := 0 }

/-- Contactor commands due in an entry: closes and opens whose heat has come (R170). -/
def Entry.withCmds (e : Entry) : Entry :=
  { e with cmds := e.bays.cells.filterMap fun c =>
      if c.2.act = e.heat ∧ c.2.act ≠ 0 ∧ c.2.out.isSome then some (c.2.xp, decide (c.2.mode = 1)) else none }

/-- The entry of heat h after `prev` (R174). -/
def State.planEntry (s : State) (prev : Entry) (h : Nat) : Entry :=
  let ds := s.drafts prev h
  let e := s.outs.foldl (s.planOut prev h ds) (Entry.empty h)
  let e := (prev.bays.cells.filter fun c => decide (c.2.out.isSome) && (e.bays.get c.1).out.isNone).foldl
    (fun e c => e.setBay c.1 (s.bayOff prev c.1 h)) e
  let e := s.giveWay h e
  let e := s.outs.foldl (fun e o => s.splitGrant o e) e
  let e := s.outs.foldl (fun e o => { e with outs := e.outs.upd o fun p => { p with state := e.outState o } }) e
  { (s.balance (s.limitAt h) e).withCmds with built := s.heat }

/-! ### The re-check of held entries (R174) -/

/-- A value leaves the tolerance of what an entry assumed. -/
def State.leaves (s : State) (new old : Nat) : Bool :=
  decide (s.fld F.TRS_CFG_DEM_TOL * old < 1000 * (if new ≤ old then old - new else new - old))

/-- A bay's plan may follow that of the entry before (R166, R169): a bay serves an output only from PRECHARGE or CONDUCT for it, from a free
bay, or again over its welded crosspoint. -/
def Entry.follows (prev e : Entry) (b : Nat) (welded : Bool) : Bool :=
  let p := prev.bays.get b
  let q := e.bays.get b
  decide (q.mode = 0 ∨ (q.out = p.out ∧ p.mode ≠ 0) ∨ (q.mode = 1 ∧ (p.out = none ∨ (q.out = p.out ∧ welded = true))))

/-- The bays and the grants of a held entry still satisfy R165 to R169 after the entry before it. -/
def State.bayGood (s : State) (prev e : Entry) (b : Nat) : Bool :=
  let q := e.bays.get b
  decide (q.mode = 0) || (prev.follows e b (s.weldedAt b).isSome && (s.usable b || s.planClaimed b q) && decide (q.avail ≤ s.availOf b))
def State.outGood (s : State) (prev e : Entry) (o : Nat) : Bool :=
  let p := e.outs.get o
  decide (p.grant ≤ (prev.outs.get o).grant + 10 * s.fld F.TRS_CFG_RAMP_STD)
    && (!s.served o || (!s.leaves (s.askAt o e.heat) p.ask && !s.leaves (s.fld F.TRS_OUT_DEM_LO_V_REQ o) p.vreq))
    && !s.leaves (s.cableAt o e.heat) p.cable

/-- A held entry still satisfies R163 to R169, and its demand and cable figures lie within DEM_TOL of what it assumed (R174). -/
def State.stillGood (s : State) (prev e : Entry) : Bool :=
  decide ((s.drawn e + (s.auxLoad : Rat)).ceil - e.bat ≤ s.limitAt e.heat ∧ -(s.headChg : Int) ≤ e.bat ∧ e.bat ≤ s.headDis)
    && s.xpKeys.all (s.bayGood prev e) && s.outs.all (s.outGood prev e)

end Sys2Proof.Machine
end

