-- ==== Sys2Proof/Machine/Truss.lean ====
section
/-! DEFINITION. Truss: events and rollback, contactors, the commit filter and the commit, the peer exchange, and the commands
(file 06, R161 to R187). -/

namespace Sys2Proof.Machine

open Sys2Proof

/-! ### Small operations -/

/-- A change of Truss's own state. -/
def State.onTrs (s : State) (f : Trs → Trs) : State := { s with trs := f s.trs }

/-- A write by Truss of a quantity to an FP32 system point (R470). -/
def State.writeFp (s : State) (p : Nat) (q : Rat) : State :=
  s.writePoint { id := p, cls := 4, ident := 0, value := (fpOfRat q).setWidth 64, qual := 0, time := s.now, ofs := 0 }

/-- A write of a whole number to a point of Truss. -/
def State.writeInt (s : State) (p : Nat) (n : Int) : State := s.writeNum 4 p ⟨n, 0⟩

/-- A Truss ring record (32 bytes). -/
def State.trussRecord (s : State) (typ flags cause unit : Nat) : State :=
  let e := s.trs.committed
  let sum := (s.outs.map fun o => (e.outs.get o).grant).sum
  s.ringDeliver (u8 s.topo 0x30) (leBytes 6 s.heat ++ leBytes 1 typ ++ leBytes 1 flags ++ leBytes 2 cause ++ leBytes 2 unit
    ++ leBytes 2 (s.now % 100) ++ leBytes 2 0 ++ leBytes 4 e.imp ++ leBytes 4 (unsignedOf 32 e.bat) ++ leBytes 4 sum ++ leBytes 4 0)

/-- TRS_STAT.WINDOW follows the window. -/
def State.showWindow (s : State) : State := s.setFld F.TRS_STAT_WINDOW 0 s.trs.window.length

/-- Truss runs: STATE = RUN. -/
def State.trussRuns (s : State) : Bool := decide (s.fld F.TRS_STAT_STATE = 1)

/-! ### Rollback (R175 to R177) -/

/-- The running stroke lies after CUTOFF (R177). -/
def State.pastCutoff (s : State) : Bool := decide (s.fld F.TRS_CFG_CUTOFF < s.now % 100)

/-- An invalidating event (R176, R177): every uncommitted entry is discarded, but the entry of the next heat stays for an
event after CUTOFF; the rollback is counted and reported once a heat, and the rebuild starts, again where one is in progress. -/
def State.invalidate (s : State) (cause unit : Nat) : State :=
  if !s.trussRuns then s
  else
    let late := s.pastCutoff
    let held := s.trs.window.filter fun e => late && decide (e.heat = s.heat + 1)
    let once := decide (s.trs.rolled ≠ some s.heat)
    let imp := s.trs.committed.imp
    let s := s.onTrs fun t => { t with
      window := held
      rebuild := some (if held.isEmpty then s.heat + 1 else s.heat + 2)
      rolled := some s.heat
      grace := if cause = 6 ∨ cause = 9 then some (s.heat, imp) else t.grace }
    let s := ((s.setFld F.TRS_LAST_EVENT_CAUSE 0 cause).setFld F.TRS_LAST_EVENT_UNIT 0 unit).setFld F.TRS_LAST_EVENT_STROKE 0 (s.now % 100)
    let s := if late then s.bumpSat F.TRS_RB_CNT_LATE 0 else s
    let s := s.showWindow
    if once then (((s.bumpSat F.TRS_RB_CNT_ROLLBACKS 0).count 10 1).trussRecord 2 (if late then 4 else 0) cause unit).report 0x0581 cause else s

/-- The last entry that is held or in force. -/
def State.lastEntry (s : State) : Entry := s.trs.window.getLast?.getD s.trs.committed

/-- Build the entry of a heat and hold it. -/
def State.buildEntry (s : State) (h : Nat) : State :=
  (s.onTrs fun t => { t with window := t.window ++ [s.planEntry s.lastEntry h] }).showWindow

/-- A rebuilt entry is completed (R176); the rebuild ends with the entry of heat h + DEPTH. -/
def State.rebuildStep (s : State) : State :=
  match s.trs.rebuild with
  | some k =>
    let k := max k (s.heat + 1)
    let t := s.buildEntry k
    t.onTrs fun x => { x with rebuild := if k + 1 ≤ s.heat + s.fld F.TRS_CFG_DEPTH then some (k + 1) else none }
  | none => s

/-- The held entries planned again, without a rollback: a contactor's feedback completed a step, or a command moved on. After CUTOFF the entry
of the next heat stays. -/
def State.replan (s : State) : State :=
  let stays (e : Entry) : Bool := s.pastCutoff && decide (e.heat = s.heat + 1)
  let hs := (s.trs.window.filter fun e => !stays e).map fun e => e.heat
  (hs.foldl (fun (t : State) h => t.buildEntry h) (s.onTrs fun t => { t with window := t.window.filter stays })).showWindow

/-- The re-check of the held entries (R174): one that is still good stays unchanged; the first that is not, and those after it, are planned
again from the latest inputs, without a rollback. -/
def State.recheck (s : State) : State :=
  (s.trs.window.foldl (fun (a : State × Bool) e =>
    if a.2 && a.1.stillGood a.1.lastEntry e then (a.1.onTrs fun t => { t with window := t.window ++ [e] }, true)
    else (a.1.buildEntry e.heat, false)) (s.onTrs fun t => { t with window := [] }, true)).1.showWindow

/-! ### Detection of events (R174, R175) -/

/-- The inputs whose changes are events of R175, as they stand now. -/
def State.seeing (s : State) : TrussSeen :=
  { fault := (List.range 24).filter fun b => s.flag F.FRG_BAY_STAT_FAULT b
    avail := (List.range 24).map s.availOf
    cable := (List.range 32).map fun o => s.fld F.BLW_OUT_LIM_LIMIT o
    spent := (List.range 32).filter fun o => s.flag F.TRS_OUT_STAT_CREDIT_EX o
    claims := s.jny.claimed
    limit := s.gridLimit.1 }

/-- The unit of a claim that invalidates the window: on a bay (a phase claims its bay), a crosspoint, an output or a string (R60, R175). -/
def State.claimEvent (s : State) : Claim → Option Nat
  | .bay b => some b
  | .crosspoint b o => (topoXpList s.topo).findIdx? fun r => decide (r.key = b ∧ r.out = o)
  | .output o => some o
  | .session o => some o
  | .batString k => some k
  | _ => none

/-- The events of R175 that a stroke detects as changes of its inputs since the stroke before: bay faults and falls of AVAIL, claims, exhausted
credit, a cable limit that falls below a grant of a held entry, P_GRID_LIM below the import of one. -/
def State.changes (s : State) : List (Nat × Nat) :=
  let old := s.trs.seen
  let new := s.seeing
  let es := s.trs.window
  (((List.range 24).filter fun b => (topoBayRec? s.topo b).isSome
      && (new.fault.contains b && !old.fault.contains b || decide (new.avail.getD b 0 < old.avail.getD b 0))).map fun b => (3, b))
  ++ ((new.claims.filter fun c => !old.claims.contains c).filterMap s.claimEvent).eraseDups.map (fun k => (4, k))
  ++ ((new.spent.filter fun o => !old.spent.contains o).map fun o => (8, o))
  ++ ((s.outs.filter fun o => es.any fun e =>
      decide (s.cableAt o e.heat < (e.outs.get o).grant ∧ s.cableAt o e.heat < (e.outs.get o).cable ∧ s.now % 100 = 0)
        || decide (new.cable.getD o 0 < old.cable.getD o 0 ∧ new.cable.getD o 0 < (e.outs.get o).grant)).map fun o => (7, o))
  ++ (if new.limit < old.limit ∧ es.any (fun e => decide (new.limit < e.imp)) = true then
      [(if s.gridLimit.2 = 0 ∨ s.gridLimit.2 = 4 then (9, s.ownDev) else (6, 0))] else [])

/-- The inputs are taken as seen. -/
def State.see (s : State) : State :=
  let x := s.seeing
  s.onTrs fun t => { t with seen := x }

/-- Count consecutive strokes of a condition, up to 3. -/
def runOf (n : Nat) (c : Bool) : Nat := if c then min (n + 1) 3 else 0

/-- Voltage of a bay and of an output within 10 V, both good (R171). A remote bay is seen by its lender's latest record. -/
def State.voltMatch (s : State) (b o : Nat) : Bool :=
  match (s.outVoltPt o).bind s.goodRat with
  | none => false
  | some v =>
    if b < 24 then
      match (s.bayVoltPt b).bind s.goodRat with
      | some u => decide (u - v ≤ 10 ∧ v - u ≤ 10)
      | none => false
    else
      match (s.trs.records.filter fun r => decide (r.dev = b / 32 - 1)).getLast? with
      | some r => r.orders.any fun d =>
        decide (d.lender = r.dev ∧ d.bay = b % 32 ∧ d.mode = 1 ∧ (d.vsp : Rat) / 10 - v ≤ 10 ∧ v - (d.vsp : Rat) / 10 ≤ 10)
      | none => false

/-- Current of a bay at most 5.0 A with good quality (R172); of a remote bay, of the output it serves. -/
def State.lowCurrent (s : State) (b o : Nat) : Bool :=
  match (if b < 24 then s.bayCurPt b else s.outCurPt o).bind s.goodRat with
  | some i => decide (i ≤ 5 ∧ -5 ≤ i)
  | none => false

/-- Truss reads the budget, the curtailment and the auxiliary load: at every stroke, and again at the commit filter (R162). -/
def State.readGrid (s : State) : State :=
  let b := s.topo
  s.onTrs fun t => { t with
    budget := t.budget.refresh (s.power (some (u32 b 0x14))) s.now
    curtail := t.curtail.refresh (s.power (ptOf (u32 b 0x18))) s.now
    aux := t.aux.refresh (s.power (ptOf (u32 b 0x1C))) s.now }

/-- Truss at every stroke: it reads its inputs, follows voltages and currents of the bays, and takes the events that their changes are. -/
def State.trussStroke (s : State) : State :=
  let s := s.readGrid
  let l := s.gridLimit
  let s := (s.setFld F.TRS_GRID_STAT_SOURCE 0 l.2).setFld F.TRS_GRID_STAT_LIMIT 0 (min (l.1 / 10) (2 ^ 29 - 1))
  let s := s.each (List.range 24) fun b t => t.setFlag F.TRS_BAY_STAT_USABLE b (t.usable b)
  let s := s.each s.xpKeys fun b t =>
    match (t.trs.committed.bays.get b).out with
    | some o => t.onTrs fun x => { x with
        match_ := x.match_.upd b fun n => runOf n (t.voltMatch b o)
        low := x.low.upd b fun n => runOf n (t.lowCurrent b o) }
    | none => t
  let l := s.changes
  let s := s.see
  if s.trussRuns then l.foldl (fun t c => t.invalidate c.1 c.2) s else s

/-! ### The commit filter (R178) -/

/-- A bay of an entry set OFF: its crosspoint opens under R172. -/
def offPlan (p : BayPlan) (h : Nat) : BayPlan := { p with mode := 0, isp := 0, vsp := 0, since := h, act := h + 1 }

/-- Step 1 for one bay. A claimed bay that conducts keeps its ramp (R167, R175, and the bench of R66); a bay that cannot follow from the entry in
force, or of which another crosspoint is engaged, is OFF (R166, R169, R173); a bay whose crosspoint is not confirmed closed does not enter CONDUCT
(R169, R173). -/
def State.filterBay (s : State) (e : Entry) (b : Nat) : Entry :=
  let p := e.bays.get b
  let q := s.trs.committed.bays.get b
  if p.mode = 0 then e
  else
    let st := s.xpState p.xp
    let dead := if b < 24 then s.flag F.FRG_BAY_STAT_FAULT b || decide (s.availOf b = 0) || (s.planClaimed b p && decide (p.mode = 1))
      || s.flag F.TRS_BAY_STAT_LENT b else !s.usable b
    if dead || decide (st = 4 ∨ st = 6) || s.otherEngaged p.xp || !s.trs.committed.follows e b (s.weldedAt b).isSome then
      e.setBay b (if q.out.isSome then { offPlan q e.heat with act := if q.mode = 0 then q.act else e.heat + 1 } else offPlan p e.heat)
    else if p.mode = 2 ∧ st ≠ 2 ∧ st ≠ 5 then e.setBay b { p with mode := 1, isp := 0, since := q.since, act := q.act }
    else
      let v := (e.outs.get (p.out.getD 0)).volts
      e.setBay b { p with isp := if s.availOf b < p.avail then min p.isp (s.bayCap b v) else p.isp }

/-- Sum of the set-points of an output's conducting bays. -/
def Entry.ispSum (e : Entry) (o : Nat) : Nat := ((e.baysOf o).map fun c => if c.2.mode = 2 then c.2.isp else 0).sum

/-- Steps 1 to 3 for one output, given the entry before step 1. -/
def State.filterOut (s : State) (old : Entry) (e : Entry) (o : Nat) : Entry :=
  let p := e.outs.get o
  let lost := old.ispSum o - e.ispSum o
  let g := if !s.flag F.TRS_OUT_DEM_HI_VALID o || !e.conducts o then 0
    else min (p.grant - lost) (s.fld F.BLW_OUT_LIM_LIMIT o)
  if g = p.grant then e else s.splitGrant o (e.setOut o { p with grant := g })

/-- The import that step 4 holds an entry to: P_GRID_LIM, and while a curtailment is met over GRACE heats no less than the import it began with
(R181). -/
def State.filterLimit (s : State) (h : Nat) : Nat :=
  let l := s.gridLimit.1
  match s.trs.grace with
  | some (h0, imp) => if h < h0 + 1 + s.fld F.TRS_GRID_CFG_GRACE then max l imp else l
  | none => l

/-- Step 4: the battery, kept within its headroom (R163), first, then every grant by one factor. -/
def State.filterPower (s : State) (e : Entry) : Entry :=
  let e := { e with bat := clampInt (-(s.headChg : Int)) s.headDis e.bat }
  let lim : Int := s.filterLimit e.heat
  let need := (s.drawn e + (s.auxLoad : Rat)).ceil
  if need - e.bat ≤ lim then { e with imp := (need - e.bat).toNat }
  else
    let bat := max e.bat (min (s.headDis : Int) (need - lim))
    if need - bat ≤ lim then { e with bat := bat, imp := (need - bat).toNat }
    else
      let room : Rat := ((max 0 (lim + bat - s.auxLoad) : Int) : Rat)
      let f := if s.drawn e = 0 then 1 else room / s.drawn e
      let e := s.outs.foldl (fun e o =>
        let p := e.outs.get o
        s.splitGrant o (e.setOut o { p with grant := ((p.grant : Rat) * f).floor.toNat })) e
      { e with bat := bat, imp := ((s.drawn e + (s.auxLoad : Rat)).ceil - bat).toNat }

/-- The commit filter: the entry reduced, and whether anything changed. -/
def State.commitFilter (s : State) (e : Entry) : Entry × Bool :=
  let f := s.xpKeys.foldl s.filterBay e
  let f := s.outs.foldl (s.filterOut e) f
  let f := s.filterPower f
  let f := s.outs.foldl (fun f o => f.setOut o { f.outs.get o with state := f.outState o }) f
  let same := decide (f.bat = e.bat) && s.xpKeys.all (fun b => decide ((f.bays.get b).mode = (e.bays.get b).mode ∧ (f.bays.get b).isp = (e.bays.get b).isp))
    && s.outs.all fun o => decide ((f.outs.get o).grant = (e.outs.get o).grant)
  (f, !same)

/-! ### Contactor commands (R170 to R173) -/

/-- Issue a command: the command point, STATE, TIMER and OPS. -/
def State.contactor (s : State) (x : Nat) (close : Bool) : State :=
  let r := topoXp s.topo x
  let s := s.writeInt r.cmd (if close then 1 else 0)
  let s := s.onTrs fun t => { t with xps := t.xps.upd x fun p => { p with closed := close } }
  let s := (((s.setFld F.TRS_XP_STAT_TIMER x 0).bumpSat F.TRS_XP_STAT_OPS x).setFld F.TRS_XP_STAT_WITHHELD x 0).count 10 3
  if s.xpState x = 4 ∨ s.xpState x = 6 then s else s.setFld F.TRS_XP_STAT_STATE x (if close then 1 else 3)

/-- A close or an open is withheld and moves on by one heat. -/
def State.withhold (s : State) (x : Nat) (close : Bool) : State :=
  ((if close then s else s.count 10 4).onTrs fun t => { t with due := t.due ++ [(x, close)] }).setFld F.TRS_XP_STAT_WITHHELD x 1

/-- A close that is due (R171, R166). -/
def State.closeDue (s : State) (prev e : Entry) (x : Nat) : State :=
  let b := (topoXp s.topo x).key
  let p := e.bays.get b
  let q := prev.bays.get b
  if s.fld F.TRS_STAT_STATE ≠ 1 ∨ p.mode ≠ 1 ∨ p.xp ≠ x ∨ s.xpState x ≠ 0 then s
  else if q.mode = 1 ∧ q.out = p.out ∧ 3 ≤ s.trs.match_.get b ∧ 0 < (e.outs.get (p.out.getD 0)).want ∧ s.otherEngaged x = false
      ∧ s.xpUsable x s.heat = true then s.contactor x true
  else s.withhold x true

/-- An open that is due (R172), of a closed crosspoint or of a failed one whose command still stands at 1 (R173). While the close is in progress it
waits for its feedback or its time limit (R170). -/
def State.openDue (s : State) (e : Entry) (x : Nat) : State :=
  let b := (topoXp s.topo x).key
  let st := s.xpState x
  let failed := decide (st = 4 ∨ st = 6) && (s.trs.xps.get x).closed
  if (e.bays.get b).mode ≠ 0 ∧ (e.bays.get b).xp = x then s
  else if st = 1 then s.onTrs fun t => { t with due := t.due ++ [(x, false)] }
  else if st ≠ 2 ∧ failed = false then s
  else if 3 ≤ s.trs.low.get b then s.contactor x false
  else
    let said := s.flag F.TRS_XP_STAT_WITHHELD x
    let s := s.withhold x false
    if said then s else (s.report 0x0583 x).trussRecord 3 0 0x0583 x

/-- The plan of the entry in force once a command was withheld: it is due one heat on (R171, R172). -/
def State.moveOn (s : State) (e : Entry) : Entry :=
  s.trs.due.foldl (fun e c =>
    let b := (topoXp s.topo c.1).key
    let p := e.bays.get b
    if p.xp = c.1 ∧ p.act ≠ 0 ∧ p.act ≤ s.heat ∧ decide (p.mode = 1) = c.2 then e.setBay b { p with act := s.heat + 1 } else e) e

/-- The commands due at a commit (R170). -/
def State.contactors (s : State) (prev e : Entry) : State :=
  let l := (s.trs.due ++ e.cmds).eraseDups
  l.foldl (fun t c => if c.2 then t.closeDue prev e c.1 else t.openDue e c.1) (s.onTrs fun t => { t with due := [] })

/-! ### Loans (R185) -/

/-- The order that applies to a lendable bay: the newest that is 2 heats old, held one heat longer. -/
def State.orderFor (s : State) (b : Nat) : Option Order :=
  let l := (s.trs.records.flatMap fun r => if r.dev = s.ownDev then [] else r.orders).filter fun d =>
    decide (d.lender = s.ownDev ∧ d.bay = b ∧ d.heat + 2 ≤ s.heat ∧ s.heat ≤ d.heat + 3)
      && (match topoBayRec? s.topo b with | some k => bitOf (u8 s.topo (k + 1)) d.by_ | none => false)
  l.foldl (fun m d => match m with | some x => if x.heat < d.heat then some d else some x | none => some d) none

/-- A bay lent to a peer follows its order, under this device's filter; a loan begins on a free bay, and ends once the bay has
been OFF for one heat. -/
def State.lendBay (s : State) (b : Nat) : State :=
  let lent := s.flag F.TRS_BAY_STAT_LENT b
  let mode := s.fld F.TRS_BAY_STAT_MODE b
  let set (s : State) (m isp vsp : Nat) : State :=
    let s := (s.setFld F.TRS_BAY_STAT_MODE b m).setFld F.TRS_BAY_STAT_ISP b isp
    ((s.writeInt (0x100 + 4 * b) m).writeFp (0x101 + 4 * b) ((isp : Rat) / 10)).writeFp (0x102 + 4 * b) ((vsp : Rat) / 10)
  let free := s.usable b && (s.trs.committed.bays.get b).out.isNone
  match s.orderFor b with
  | some d =>
    if d.mode ≠ 0 ∧ (lent = true ∨ free = true) ∧ s.flag F.FRG_BAY_STAT_FAULT b = false ∧ s.claimed (.bay b) = false ∧ 0 < s.availOf b then
      let s := (s.setFlag F.TRS_BAY_STAT_LENT b true).onTrs fun t => { t with
        loans := t.loans.filter (fun x => decide (x.bay ≠ b)) ++ [d] }
      (set s d.mode (min d.isp (s.bayCap b d.vsp)) d.vsp).setRun b true
    else if lent then (set s 0 0 0).setRun b false else s
  | none =>
    if !lent then s
    else if mode = 0 then
      (s.setFlag F.TRS_BAY_STAT_LENT b false).onTrs fun t => { t with loans := t.loans.filter fun x => decide (x.bay ≠ b) }
    else (set s 0 0 0).setRun b false

/-! ### The exchange record (R182) -/

/-- An order as the record carries it. -/
def Order.bytes (d : Order) : List Byte :=
  leBytes 1 d.lender ++ leBytes 1 d.bay ++ leBytes 1 d.mode ++ leBytes 1 0 ++ leBytes 2 d.isp ++ leBytes 2 d.vsp

/-- Orders for borrowed bays, and the present orders of the bays lent, at most 8. -/
def State.ordersNow (s : State) : List Order :=
  let off := s.flag F.TRS_STAT_FALLBACK || decide (s.fld F.TRS_STAT_STATE = 2)
  ((s.xpKeys.filter fun b => decide (32 ≤ b)).filterMap fun b =>
    let p := s.trs.committed.bays.get b
    if p.out.isSome then
      some (⟨s.ownDev, s.heat, b / 32 - 1, b % 32, if off then 0 else p.mode, if off then 0 else p.isp, p.vsp⟩ : Order)
    else none)
  ++ s.trs.loans.map fun d => { d with by_ := s.ownDev, heat := s.heat, mode := s.fld F.TRS_BAY_STAT_MODE d.bay }

/-- The record of the committed entry, before its tag. -/
def State.ownRecord (s : State) : PeerRecord :=
  let e := s.trs.committed
  let eta := max (s.fld F.TRS_GRID_CFG_ETA) 1
  let dem (k : Nat) : Nat :=
    (((s.outs.filter fun o => s.asks o s.heat && decide (s.fld F.TRS_OUT_DEM_HI_PRIO o = k)).map fun o =>
      powerOf (s.voltsOf e o) (s.capOf o s.heat).1).sum * 1000 / (eta : Nat)).floor.toNat
  { dev := s.ownDev, heat := s.heat
    flags := (if s.flag F.TRS_STAT_FALLBACK then 1 else 0) + (if s.fld F.TRS_STAT_STATE = 2 then 2 else 0) + (if s.trs.tookOver then 4 else 0)
    demand := (List.range 4).map dem, used := e.imp, dis := s.headDis, aux := s.auxLoad, orders := s.ordersNow.take 8 }

/-- The 112 bytes of a record before its tag. -/
def recordBytes (r : PeerRecord) (fallback : Nat) : List Byte :=
  let orders := (r.orders.map Order.bytes ++ List.replicate (8 - r.orders.length) (0xFF :: leBytes 7 0)).flatten
  leBytes 1 r.dev ++ leBytes 1 r.flags ++ leBytes 2 1 ++ leBytes 6 r.heat ++ leBytes 2 fallback
    ++ r.demand.flatMap (fun d => leBytes 4 d) ++ leBytes 4 r.used ++ leBytes 4 r.dis ++ leBytes 4 r.aux ++ leBytes 8 0 ++ orders

/-- Keep a valid record; records older than 32 heats are dropped. -/
def State.keepRecord (s : State) (r : PeerRecord) : State :=
  s.onTrs fun t => { t with records := (t.records.filter fun x => decide (s.heat ≤ x.heat + 32 ∧ (x.dev ≠ r.dev ∨ x.heat ≠ r.heat))) ++ [r] }

/-- The device sends its record at the commit marker: the tag is the AES-256-GCM of the record under the exchange key. -/
def State.sendRecord (s : State) : State :=
  if s.siteDevs.length ≤ 1 then s
  else
    let r := s.ownRecord
    let b := recordBytes r (s.fld F.TRS_GRID_CFG_FALLBACK)
    let s := (s.keepRecord r).onTrs fun t => { t with tookOver := false }
    match s.slotKey (u16 s.topo 0x2C) 3 12 with
    | some k => s.send .truss (u16 s.topo 0x2E) (b ++ (gcmSeal k [] b []).take 16)
    | none => s

/-! ### The commit (R167 to R170, R178 to R180) -/

/-- The entry that SAFE_HOLD commits: the last one for one heat, then every grant falls under R167 and the battery to 0. -/
def State.safeEntry (s : State) : Entry :=
  let e := { s.trs.committed with heat := s.heat }
  if s.heat ≤ s.trs.holdFrom + 1 then e.withCmds
  else
    let e := s.outs.foldl (fun e o =>
      let p := e.outs.get o
      s.splitGrant o (e.setOut o { p with grant := p.grant - 10 * s.fld F.TRS_CFG_RAMP_STD, want := 0 })) { e with bat := 0 }
    let e := s.xpKeys.foldl (fun e b =>
      let p := e.bays.get b
      if p.mode ≠ 0 ∧ (e.outs.get (p.out.getD 0)).grant = 0 then e.setBay b (offPlan p s.heat) else e) e
    e.withCmds

/-- Registers and points of a bay and of an output of the committed entry (R168, R169). -/
def State.applyBay (s : State) (e : Entry) (b : Nat) : State :=
  if s.flag F.TRS_BAY_STAT_LENT b then s
  else
    let p := e.bays.get b
    let s := (s.setFld F.TRS_BAY_STAT_MODE b p.mode).setFld F.TRS_BAY_STAT_OUTPUT b (p.out.getD 0x3F)
    let s := s.setFld F.TRS_BAY_STAT_ISP b p.isp
    let s := (s.writeInt (0x100 + 4 * b) p.mode).writeFp (0x101 + 4 * b) ((p.isp : Rat) / 10)
    (s.writeFp (0x102 + 4 * b) ((p.vsp : Rat) / 10)).setRun b (decide (p.mode ≠ 0))

def State.applyOut (s : State) (e : Entry) (o : Nat) : State :=
  let p := e.outs.get o
  let s := (s.setFld F.TRS_OUT_STAT_STATE o p.state).setFld F.TRS_OUT_STAT_LIMIT o p.limit
  let s := (s.setFld F.TRS_OUT_STAT_BAYS o (e.baysOf o).length).setFld F.TRS_OUT_STAT_GRANT o p.grant
  (s.writeFp (0x180 + 2 * o) ((p.grant : Rat) / 10)).writeInt (0x181 + 2 * o) p.state

/-- Bays that opened are bound to no output any more, and a release is done. -/
def State.unbind (s : State) (e : Entry) : Entry :=
  s.xpKeys.foldl (fun e b =>
    let p := e.bays.get b
    if p.mode = 0 ∧ p.out.isSome ∧ s.xpOpen p.xp = true then e.setBay b ⟨0, none, 0, 0, 0, 0, 0, 0⟩ else e) e

/-- Apply an entry at the commit marker, in the order of R179. -/
def State.applyEntry (s : State) (raw : Entry) (flags : Nat) : State :=
  let prev := s.trs.committed
  let f := s.commitFilter (s.unbind raw)
  let e := f.1
  let s := if f.2 then ((s.bumpSat F.TRS_RB_CNT_FILTERED 0).report 0x0582).count 10 2 else s
  let s := s.each (List.range 24) fun b t => if t.hasForge then t.applyBay e b else t
  let s := s.each s.outs fun o t => t.applyOut e o
  let s := (s.setFld F.TRS_BAT_SP_SP 0 (unsignedOf 32 e.bat)).writeFp 0x1C0 ((e.bat : Rat) / 100)
  let s := s.contactors prev e
  let kept := s.moveOn e
  let s := s.onTrs fun t => { t with
    committed := kept
    started := true
    leaving := t.leaving.filter fun b => decide ((e.bays.get b).out.isSome ∧ (e.bays.get b).mode ≠ 0) }
  let s := s.setPair .TRS_COMMIT_HEAT_LO .TRS_COMMIT_HEAT_HI 0 s.heat
  let s := s.each ((List.range 24).filter fun b => (topoBayRec? s.topo b).isSome && s.hasForge) fun b t => t.lendBay b
  let s := (s.trussRecord 1 ((if f.2 then 1 else 0) + flags) 0 0).count 10 0
  if kept = e then s else s.replan

/-- SAFE_HOLD (R180). -/
def State.safeHold (s : State) : State :=
  if s.fld F.TRS_STAT_STATE = 2 then s
  else
    let s := s.onTrs fun t => { t with window := [], rebuild := none, holdFrom := s.heat }
    ((s.setFld F.TRS_STAT_STATE 0 2).showWindow.report 0x0501).trussRecord 5 0 0x0501 0

/-- An overrun of the Truss work, counted and reported (R180, R31). -/
def State.trussMissed (s : State) : State :=
  let t := ((s.countOverrun .truss F.SYS_OVR_SUM_TRS).bumpSat F.TRS_STAT_OVERRUNS 0).count 0 110
  ((t.setFld F.TRS_STAT_OVR_CONSEC 0 (min (t.overruns .truss) 15)).report 0x0083).report 0x0585

/-- The Truss work of a heat is unfinished at its deadline (R31, R180): the entries built in this heat are discarded, the rebuild goes on in later
heats, and the next marker applies the entry in force again. -/
def State.trussOverrun (s : State) : State :=
  if s.sys.late.contains Work.truss then s
  else
    let t := s.onTrs fun t => { t with window := t.window.filter fun e => decide (e.built ≠ s.heat) }
    let t := (t.onTrs fun x => { x with rebuild := some ((match x.window.getLast? with | some e => e.heat | none => s.heat) + 1) }).showWindow
    let t := t.trussMissed
    { t with sys := { t.sys with late := t.sys.late ++ [Work.truss] } }

/-- Heats that pass: the timers of the crosspoints and the ages of the peers' records, and the heats with an agreed heat. -/
def State.trussHeat (s : State) : State :=
  let s := s.each (List.range (topoXps s.topo)) fun x t => t.bumpSat F.TRS_XP_STAT_TIMER x
  let s := s.each (s.siteDevs.map fun d => d.1) fun d t =>
    (t.bumpSat F.TRS_PEER_STAT_AGE d).setFlag F.TRS_PEER_STAT_CURRENT d
      (match t.agreed with | some h => (t.record d h).isSome | none => false)
  let near := match s.agreed with | some h => decide (s.heat ≤ h + s.fld F.TRS_GRID_CFG_MISS_LIM) | none => false
  s.onTrs fun t => { t with current := if near then t.current + 1 else 0 }

/-- The entry in force is applied again after an overrun (R180), and the limit leads to SAFE_HOLD. -/
def State.reapply (s : State) : State :=
  let s := s.applyEntry { s.trs.committed with heat := s.heat }.withCmds 2
  if s.limitOf .truss ≤ s.overruns .truss then s.safeHold else s

/-- The Truss commit at a heat marker (R178, R180). -/
def State.trussCommit (s : State) : State :=
  if s.standby || decide (s.fld F.TRS_STAT_STATE = 0 ∨ s.fld F.TRS_STAT_STATE = 3) || bitOf (s.fld F.SYS_REGION_STAT_FAILED) 3 then s
  else
    let s := s.trussHeat.readGrid
    let late := s.sys.late.contains Work.truss
    let s := { s with sys := { s.sys with late := s.sys.late.filter fun w => decide (w ≠ Work.truss) } }
    let next := s.trs.window.find? fun (e : Entry) => decide (e.heat = s.heat)
    let s := s.onTrs fun t => { t with window := t.window.filter fun x => decide (s.heat < x.heat) }
    let s :=
      if s.fld F.TRS_STAT_STATE = 2 then s.applyEntry s.safeEntry 0
      else match next with
        | some e =>
          if late then (if s.trs.started then s.reapply else s)
          else ((s.applyEntry e 0).completed .truss).setFld F.TRS_STAT_OVR_CONSEC 0 0
        | none =>
          if !s.trs.started then s
          else if late then s.reapply
          else s.trussMissed.reapply
    s.sendRecord.showWindow

/-- The tail entry of the new heat, while no rebuild is in progress (R174). -/
def State.buildTail (s : State) : State :=
  let h := max (s.lastEntry.heat + 1) (s.heat + 1)
  if s.trs.rebuild = none ∧ h ≤ s.heat + s.fld F.TRS_CFG_DEPTH then s.buildEntry h else s

/-- The Truss work of the new heat (R174): the tail entry, and the re-check of every held entry. -/
def State.trussTail (s : State) : State := if s.trussRuns then s.buildTail.recheck else s

/-- The structure goes live (R62, R169): Truss runs from an empty window, or idles where the image has neither bay nor
output. -/
def State.trussStart (s : State) : State :=
  let idle := decide (topoBays s.topo = 0 ∧ topoOuts s.topo = 0)
  let s := s.setFld F.TRS_STAT_STATE 0 (if idle then 0 else if s.standby then 3 else 1)
  (s.onTrs fun t => { t with window := [], rebuild := if idle then none else some (s.heat + 1) }).see.showWindow

/-! ### Commands -/

/-- The attach point of an output reads 0 (R340). -/
def State.detached (s : State) (o : Nat) : Bool :=
  let p := s.fld F.NET_SESS_CFG_ATTACH o
  s.flag F.NET_SESS_CFG_EN o && (match s.pointDy p with | some x => decide (x.m = 0) | none => decide ((s.point p).value = 0))

/-- Truss takes a demand (R161, R175): an unplug, a re-negotiation, or a change within DEM_TOL of every held entry. While the
output's attach point reads 0, VALID = 1 is taken as VALID = 0 (R340). -/
def State.takeDemand (s : State) (o : Nat) (lo hi : W32) : State :=
  let hi := if s.detached o then F.TRS_OUT_DEM_HI_VALID.put hi 0 else hi
  let was := s.flag F.TRS_OUT_DEM_HI_VALID o
  let seq := s.fld F.TRS_OUT_DEM_HI_SEQ o
  let s := (s.setReg .TRS_OUT_DEM_LO o lo).setReg .TRS_OUT_DEM_HI o (hi &&& Reg.TRS_OUT_DEM_HI.row.rw)
  let valid := s.flag F.TRS_OUT_DEM_HI_VALID o
  let away := s.trs.window.any fun e =>
    s.leaves (s.askAt o e.heat) (e.outs.get o).ask || s.leaves (s.fld F.TRS_OUT_DEM_LO_V_REQ o) (e.outs.get o).vreq
  if was && !valid then s.invalidate 1 o
  else if valid && (decide (s.fld F.TRS_OUT_DEM_HI_SEQ o ≠ seq) || !was || away) then s.invalidate 2 o
  else s

/-- ENTRY_REBUILT (R176). -/
def execEntryRebuilt (s : State) : Host.Outcome State Fault Refusal := .next (s.live 3 (if s.trussRuns then s.rebuildStep else s))

/-- TRS_RESTART (R180): the window is rebuilt from an empty state; refused with 0508h unless every grant is 0. -/
def State.trussRestart (s : State) : State :=
  if (List.range 32).any fun o => decide (s.fld F.TRS_OUT_STAT_GRANT o ≠ 0) then s.report 0x0508
  else if s.fld F.TRS_STAT_STATE = 2 then
    (((s.setFld F.TRS_STAT_STATE 0 1).setFld F.TRS_STAT_OVR_CONSEC 0 0).completed .truss).onTrs fun t => { t with
      window := [], rebuild := some (s.heat + 1) }
  else s

/-- GRID_FW_WRITE (R175): a fall is an invalidating event. -/
def State.gridFw (s : State) (v : W32) : State :=
  let old := s.fld F.TRS_GRID_FW_LIMIT
  let t := s.setReg .TRS_GRID_FW 0 v
  if v.toNat < old then (t.onTrs fun x => { x with seen := { x.seen with limit := t.gridLimit.1 } }).invalidate 6 0 else t

/-- An input not good for 10 heats takes its substitute (R162). -/
def GoodValue.lose (g : GoodValue) (now : Nat) : GoodValue :=
  match g.since with
  | some t => if t + 1000 ≤ now then { g with gone := true } else g
  | none => g

/-- TOPO binds the point of an input: the budget always, the curtailment and the auxiliary load where they name one. -/
def State.inputBound (s : State) : Input → Bool
  | .budget => true
  | .curtail => (ptOf (u32 s.topo 0x18)).isSome
  | .aux => (ptOf (u32 s.topo 0x1C)).isSome

/-- BUDGET_INVALID (R162): 0507h once for each loss of a point that TOPO binds. -/
def execBudgetInvalid (which : Input) (s : State) : Host.Outcome State Fault Refusal :=
  .next (s.live 3 (let t := s.onTrs fun x =>
      match which with
      | .budget => { x with budget := x.budget.lose s.now }
      | .curtail => { x with curtail := x.curtail.lose s.now }
      | .aux => { x with aux := x.aux.lose s.now }
    if t.trs = s.trs ∨ s.inputBound which = false then s else t.report 0x0507 (match which with | .budget => 0 | .curtail => 1 | .aux => 2)))

/-- PRECHARGE_TIMEOUT (R171): the bay returns to OFF, and its crosspoint is unusable for 100 heats. -/
def execPrechargeTimeout (b : Nat) (s : State) : Host.Outcome State Fault Refusal :=
  .next (s.live 3 (let p := s.trs.committed.bays.get b
    if p.mode = 1 ∧ p.since + u8 s.topo 9 ≤ s.heat ∧ s.xpState p.xp = 0 ∧ s.trs.match_.get b < 3 then
      let t := s.onTrs fun x => { x with
        xps := x.xps.upd p.xp fun y => { y with until_ := s.heat + 100 }
        committed := x.committed.setBay b (offPlan p s.heat) }
      ((t.report 0x0505 p.xp).trussRecord 3 0 0x0505 p.xp).replan
    else s))

/-- A contactor fault (R173): FAULT and STATE, the command reset at the next commit under R172, the bay OFF (after a dropout of any of its
crosspoints, R169), and the window invalidated. -/
def State.contactorFault (s : State) (x st code : Nat) : State :=
  let b := (topoXp s.topo x).key
  let s := (s.setFld F.TRS_XP_STAT_FAULT x 1).setFld F.TRS_XP_STAT_STATE x st
  let s := s.onTrs fun t => { t with
    due := if st = 5 then t.due else t.due ++ [(x, false)]
    committed := if ((t.committed.bays.get b).xp = x ∨ st = 6) ∧ (t.committed.bays.get b).mode ≠ 0 then
        t.committed.setBay b (offPlan (t.committed.bays.get b) s.heat) else t.committed }
  ((s.report code x).trussRecord 3 0 code x).invalidate 5 x

/-- CONTACTOR_FEEDBACK (R173): the feedback point changed. -/
def execContactorFeedback (x : Nat) (s : State) : Host.Outcome State Fault Refusal :=
  .next (s.live 3 (let st := s.xpState x
    match s.feedback x with
    | some true =>
      if st = 1 then (s.setFld F.TRS_XP_STAT_STATE x 2).replan
      else if st = 0 then s.contactorFault x 6 0x0504 else s
    | some false =>
      if st = 3 ∨ st = 5 then (s.setFld F.TRS_XP_STAT_STATE x 0).replan
      else if st = 2 then s.contactorFault x 6 0x0504 else s
    | none => s))

/-- FAIL_CLOSE (R173). -/
def execFailClose (x : Nat) (s : State) : Host.Outcome State Fault Refusal :=
  .next (s.live 3 (if s.xpState x = 1 ∧ (topoClass s.topo (topoXp s.topo x).cls).1 ≤ s.fld F.TRS_XP_STAT_TIMER x ∧ s.feedback x ≠ some true then
      s.contactorFault x 4 0x0502 else s))

/-- WELDED (R173). -/
def execWelded (x : Nat) (s : State) : Host.Outcome State Fault Refusal :=
  .next (s.live 3 (if s.xpState x = 3 ∧ (topoClass s.topo (topoXp s.topo x).cls).2 ≤ s.fld F.TRS_XP_STAT_TIMER x ∧ s.feedback x ≠ some false then
      s.contactorFault x 5 0x0503 else s))

/-- XP_FAULT_CLEAR (R173): accepted only while the feedback agrees with the command; otherwise 0508h. -/
def State.clearXp (s : State) (x : Nat) : State :=
  if s.feedback x = some (s.trs.xps.get x).closed then
    if s.flag F.TRS_XP_STAT_FAULT x then
      (s.setFld F.TRS_XP_STAT_FAULT x 0).setFld F.TRS_XP_STAT_STATE x (if (s.trs.xps.get x).closed then 2 else 0)
    else s
  else s.report 0x0508 x

/-- BAY_RELEASE (R165 step 3): after BAY_HOLD heats the highest-numbered bay is released. -/
def execBayRelease (o : Nat) (s : State) : Host.Outcome State Fault Refusal :=
  .next (s.live 3 (if u16 s.topo 0x0E ≤ (s.trs.committed.outs.get o).fewer then
      match ((s.trs.committed.baysOf o).filter fun c => decide (c.2.mode ≠ 0) && !s.trs.leaving.contains c.1).getLast? with
      | some c => (s.onTrs fun t => { t with
          leaving := t.leaving ++ [c.1]
          committed := t.committed.setOut o { t.committed.outs.get o with fewer := 0 } }).replan
      | none => s
    else s))

/-- Read a record from its first 112 bytes. -/
def readRecord (b : List Byte) : PeerRecord :=
  let dev := u8 b 0
  let heat := uN b 4 6
  { dev := dev, heat := heat, flags := u8 b 1, demand := (List.range 4).map fun k => u32 b (12 + 4 * k), used := u32 b 0x1C,
    dis := u32 b 0x20, aux := u32 b 0x24
    orders := (List.range 8).filterMap fun k =>
      let o := 0x30 + 8 * k
      if u8 b o = 0xFF then none else some ⟨dev, heat, u8 b o, u8 b (o + 1), u8 b (o + 2), u16 b (o + 4), u16 b (o + 6)⟩ }

/-- The tag of a record passes under the exchange key (R182, R416). -/
def State.recordOk (s : State) (b : List Byte) : Bool :=
  (s.slotKeys (u16 s.topo 0x2C) 3 12).any fun k => decide ((gcmSeal k [] (b.take 112) []).take 16 = b.drop 112)

/-- A borrower sees the end of a loan (R185). -/
def State.loanCheck (s : State) (r : PeerRecord) : State :=
  s.each (s.xpKeys.filter fun b => decide (32 * (r.dev + 1) ≤ b ∧ b < 32 * (r.dev + 2))) fun b t =>
    let p := t.trs.committed.bays.get b
    let shown := r.orders.any fun d => decide (d.lender = r.dev ∧ d.bay = b % 32 ∧ d.mode ≠ 0)
    if p.mode ≠ 0 ∧ p.since + 4 ≤ r.heat ∧ shown = false then
      let t := t.onTrs fun x => { x with committed := x.committed.setBay b (offPlan p t.heat) }
      ((t.report 0x0584 b).trussRecord 4 0 0x0584 (b % 32)).invalidate 3 b
    else t

/-- What is wrong with a record (R183, R184, R341): 1 authentication, 2 FORMAT, 3 late, 4 a FALLBACK that differs from the site device table;
0 for nothing. A device that TOPO does not list has no FALLBACK to differ from. -/
def State.recordFault (s : State) (b : List Byte) (fallback : Option Nat) : Nat :=
  if b.length ≠ 128 ∨ s.recordOk b = false then 1
  else if u16 b 2 ≠ 1 then 2
  else if (readRecord b).heat + 4 < s.heat then 3
  else if fallback.isSome ∧ fallback ≠ some (u16 b 10) then 4
  else 0

/-- EXCHANGE_RECORD (R183 to R185): used for the agreed share, or ignored, counted BAD under its device index and answered as a violation. A
record of a device that TOPO does not list, or with this device's own index, is used for nothing. -/
def execExchangeRecord (bytes : List Byte) (s : State) : Host.Outcome State Fault Refusal :=
  .next (s.live 3 (let r := readRecord bytes
    let listed := s.siteDevs.find? fun d => decide (d.1 = r.dev ∧ r.dev ≠ s.ownDev)
    let f := s.recordFault bytes (listed.map Prod.snd)
    if f ≠ 0 then (if r.dev < 8 then s.bumpSat F.TRS_PEER_STAT_BAD r.dev else s).violation 4 f none 255 none bytes (key := r.dev)
    else if listed.isSome then ((s.keepRecord r).setFld F.TRS_PEER_STAT_AGE r.dev 0).loanCheck r
    else s))

/-- PEER_FALLBACK (R184). -/
def execPeerFallback (s : State) : Host.Outcome State Fault Refusal :=
  .next (s.live 3 (let behind := match s.agreed with | some h => decide (h + s.fld F.TRS_GRID_CFG_MISS_LIM < s.heat) | none => true
    if 1 < s.siteDevs.length ∧ behind = true ∧ s.flag F.TRS_STAT_FALLBACK = false then
      let t := (((s.setFld F.TRS_STAT_FALLBACK 0 1).report 0x0506).trussRecord 4 0 0x0506 s.ownDev).onTrs fun x => { x with current := 0 }
      (t.onTrs fun x => { x with seen := { x.seen with limit := t.gridLimit.1 } }).invalidate 9 s.ownDev
    else s))

/-- FALLBACK_END (R184): 10 consecutive heats with a current agreed heat. -/
def execFallbackEnd (s : State) : Host.Outcome State Fault Refusal :=
  .next (s.live 3 (if s.flag F.TRS_STAT_FALLBACK ∧ 10 ≤ s.trs.current then s.setFld F.TRS_STAT_FALLBACK 0 0 else s))

end Sys2Proof.Machine
end

