-- ==== Sys2Proof/Machine/Bellows.lean ====
section
/-! DEFINITION. Bellows: cable samples, the conductor model, cable limits and cooling (file 07, R188 to R200). -/

namespace Sys2Proof.Machine

open Sys2Proof

/-! ### Arithmetic in binary32 (R192) -/

/-- A number rounded to binary32, to nearest with ties to even; a result beyond the format has no stated value. -/
def r32 (q : Rat) : Rat := (fpRat? (fpOfRat q)).getD (Config.byZero q)

/-- Sum, difference, product and quotient, each rounded. -/
def add32 (a b : Rat) : Rat := r32 (a + b)
def sub32 (a b : Rat) : Rat := r32 (a - b)
def mul32 (a b : Rat) : Rat := r32 (a * b)
def div32 (a b : Rat) : Rat := if b = 0 then Config.byZero a else r32 (a / b)

/-- The square root, correctly rounded: 200 further bits decide the rounding. -/
def sqrt32 (q : Rat) : Rat :=
  let n := (q * 2 ^ 400).floor.toNat
  let r := Nat.sqrt n
  let x : Rat := (r : Rat) / 2 ^ 200
  r32 (if x * x = q then x else x + 1 / 2 ^ 201)

/-! ### The THRM section (R54, R189, R197) -/

/-- A cable record. -/
structure CableRec where
  model : Bool
  sensor : Bool
  loop : Nat
  r20 : Rat
  cth : Rat
  rth0 : Rat
  f0 : Rat
  fmin : Rat
  nexp : Rat
  margin : Rat
  limit : Rat
  alpha : Rat
  hor : Rat
  cp : Rat
  init : Rat
  tol : Rat
  pI : Option Nat
  pIn : Option Nat
  pOut : Option Nat
  pFlow : Option Nat
  pCbl : Option Nat
  deriving DecidableEq, Repr

/-- A point field of a record: bits [17:0], or none. -/
def ptField (v : Nat) : Option Nat := if v = 0xFFFFFFFF then none else some (v % 2 ^ 18)

/-- The cable record at an offset; its figures in V, A, K and s units, as binary32. -/
def cableAtOfs (b : List Byte) (o : Nat) : CableRec :=
  let q (n : Nat) (d : Nat) : Rat := r32 ((n : Rat) / (d : Rat))
  { model := (u8 b (o + 1)).testBit 0, sensor := (u8 b (o + 1)).testBit 1, loop := u8 b (o + 2)
    r20 := q (u32 b (o + 4)) 1000000, cth := q (u32 b (o + 8)) 1, rth0 := q (u32 b (o + 12)) 1000000
    f0 := q (u16 b (o + 16)) 100, fmin := q (u16 b (o + 18)) 100, nexp := q (u8 b (o + 20)) 100, margin := q (u8 b (o + 21)) 1
    limit := q (u16 b (o + 22)) 10, alpha := q (u16 b (o + 24)) 100000, hor := q (u16 b (o + 26)) 1, cp := q (u16 b (o + 28)) 1
    init := q (u8 b (o + 30)) 1, tol := q (u8 b (o + 31)) 1
    pI := ptField (u32 b (o + 32)), pIn := ptField (u32 b (o + 36)), pOut := ptField (u32 b (o + 40))
    pFlow := ptField (u32 b (o + 44)), pCbl := ptField (u32 b (o + 48)) }

/-- The cable record of an output under an image. -/
def Image.cable (m : Image) (c : Nat) : Option CableRec :=
  let b := m.body tyTHRM
  ((List.range (u8 b 0)).find? fun k => decide (u8 b (16 + 64 * k) = c)).map fun k => cableAtOfs b (16 + 64 * k)

/-- The cable record of an output; the outputs with one. -/
def State.cable (s : State) (c : Nat) : Option CableRec := s.jny.active.cable c
def State.cables (s : State) : List Nat := (List.range 32).filter fun c => (s.cable c).isSome

/-- A cooling-loop record (R197). -/
structure LoopRec where
  loop : Nat
  pumpMin : Nat
  pumpPre : Nat
  kp : Nat
  pump : Option Nat
  fan : Option Nat
  target : Rat
  ki : Nat
  deriving DecidableEq, Repr

/-- The cooling loops of the active structure. -/
def State.coolLoops (s : State) : List LoopRec :=
  let b := s.body tyTHRM
  (List.range (u8 b 1)).map fun k =>
    let o := 16 + 64 * u8 b 0 + 16 * k
    { loop := u8 b o, pumpMin := u8 b (o + 1), pumpPre := u8 b (o + 2), kp := u8 b (o + 3), pump := ptField (u32 b (o + 4)), fan := ptField (u32 b (o + 8)),
      target := (u16 b (o + 12) : Rat) / 10, ki := u8 b (o + 14) }

/-- A cable's state, a change of it, and a change of Bellows's own state. -/
def State.cbl (s : State) (c : Nat) : Cable := s.blw.cables.get c
def State.onBlw (s : State) (f : Blw → Blw) : State := { s with blw := f s.blw }
def State.onCable (s : State) (c : Nat) (f : Cable → Cable) : State := s.onBlw fun b => { b with cables := b.cables.upd c f }

/-! ### Samples (R190, R191) -/

/-- The sampling period in force, in strokes: 100 ms, or 5 ms. -/
def State.samplePeriod (s : State) (c : Nat) : Nat :=
  s.strokesIn (if s.flag F.BLW_CBL_STAT_FAST c then 500000 else 10000000)

/-- A point read as a sample: its number, if any, and whether it is plausible (R191). -/
def State.sampleOf (s : State) (c : Nat) (p : Option Nat) (last : Option Rat) (lo hi : Rat) (step : Bool) : Option Rat × Bool :=
  match p with
  | none => (none, false)
  | some p =>
    match s.goodRat p with
    | none => (none, false)
    | some x =>
      let fresh := decide (s.now - (s.point p).time ≤ 2 * s.samplePeriod c)
      let near := match last with | some y => !step || decide (x - y ≤ 5 ∧ y - x ≤ 5) | none => true
      (some x, fresh && near && decide (lo ≤ x ∧ x ≤ hi))

/-- The first broken sensor of a cable: 1 inlet, 2 outlet, 3 flow, 4 cable; 5 and 6 for the cross checks; 0 for none. -/
def brokenOf (r : CableRec) (a b f t : Option Rat × Bool) : Nat :=
  if !a.2 then 1 else if !b.2 then 2 else if !f.2 then 3 else if r.sensor && !t.2 then 4
  else
    let tin := a.1.getD 0
    if r.fmin ≤ f.1.getD 0 ∧ b.1.getD 0 + 2 < tin then 5
    else if r.sensor ∧ t.1.getD 0 + 5 < tin then 6 else 0

/-- CABLE_SAMPLE (R190, R191): the points are read and tested; a broken sensor holds the limit at 0 A. -/
def execCableSample (c : Nat) (s : State) : Host.Outcome State Fault Refusal :=
  .next (s.live 3 (match s.cable c with
    | none => s
    | some r =>
      let x := s.cbl c
      let a := s.sampleOf c r.pIn x.tin (-40) 150 true
      let b := s.sampleOf c r.pOut x.tout (-40) 150 true
      let f := s.sampleOf c r.pFlow x.flow 0 200 false
      let t := s.sampleOf c r.pCbl x.tcbl (-40) 150 true
      let n := brokenOf r a b f t
      let pick (new old : Option Rat) : Option Rat := match new with | some v => some (r32 v) | none => old
      let was := s.flag F.BLW_CBL_STAT_SENSOR c
      let s := s.onCable c fun y => { y with
        tin := pick a.1 y.tin, tout := pick b.1 y.tout, flow := pick f.1 y.flow, tcbl := pick t.1 y.tcbl
        good := if n = 0 then y.good + 1 else 0 }
      let s := s.setFlag F.BLW_CBL_STAT_FLOW_LOW c (decide ((s.cbl c).flow.getD 0 < r.fmin))
      if n = 0 then s
      else
        let s := if was then s else (s.setFld F.BLW_CBL_STAT_BROKEN c n).report 0x0601 c
        s.setFlag F.BLW_CBL_STAT_SENSOR c true))

/-- SENSOR_RECOVERED (R191): 10 plausible samples in a row at the 5 ms rate. -/
def execSensorRecovered (c : Nat) (s : State) : Host.Outcome State Fault Refusal :=
  .next (s.live 3 (if s.flag F.BLW_CBL_STAT_SENSOR c ∧ 10 ≤ (s.cbl c).good ∧ s.flag F.BLW_CBL_STAT_FAST c then
      (s.setFlag F.BLW_CBL_STAT_SENSOR c false).setFld F.BLW_CBL_STAT_BROKEN c 0
    else s))

/-- FAST_SAMPLING_END (R190): both conditions absent for 1 s. -/
def execFastSamplingEnd (c : Nat) (s : State) : Host.Outcome State Fault Refusal :=
  .next (s.live 3 (match (s.cbl c).calm with
    | some t => if t + s.strokesIn 100000000 ≤ s.now ∧ s.flag F.BLW_CBL_STAT_SENSOR c = false then s.setFlag F.BLW_CBL_STAT_FAST c false else s
    | none => s))

/-! ### The model (R192) -/

/-- R(T). -/
def resistance (r : CableRec) (t : Rat) : Rat := mul32 r.r20 (add32 1 (mul32 r.alpha (sub32 t 20)))

/-- R_th at a flow. -/
def thermalRes (r : CableRec) (f : Rat) : Rat := mul32 r.rth0 (pow32 (div32 r.f0 (max f r.fmin)) r.nexp)

/-- One heat in seconds. -/
def State.heatTime (s : State) : Rat := r32 ((s.period : Rat) / 1000000)

/-- The coolant temperature and the flow of a cable by its latest samples; free before the first one. -/
def Cable.cool (x : Cable) : Rat := div32 (add32 (x.tin.getD (Config.unstated 3 0 x.tc)) (x.tout.getD (Config.unstated 4 0 x.tc))) 2
def Cable.rate (x : Cable) : Rat := x.flow.getD (Config.unstated 5 0 x.tc)

/-- T_c one heat on, at a current. -/
def State.modelStep (s : State) (r : CableRec) (x : Cable) (i tc : Rat) : Rat :=
  let heat := sub32 (mul32 (mul32 i i) (resistance r tc)) (div32 (sub32 tc x.cool) (thermalRes r x.rate))
  add32 tc (mul32 (div32 s.heatTime r.cth) heat)

/-- T_c at its start: the highest valid reading of outlet and cable sensor plus INIT_OFS, or T_LIMIT. -/
def State.startTemp (s : State) (c : Nat) (r : CableRec) : Rat :=
  let read (p : Option Nat) : Option Rat := let a := s.sampleOf c p none (-40) 150 false; if a.2 then a.1 else none
  match read r.pOut, (if r.sensor then read r.pCbl else none) with
  | some a, some b => add32 (r32 (max a b)) r.init
  | some a, none => add32 (r32 a) r.init
  | none, some b => add32 (r32 b) r.init
  | none, none => r.limit

/-- A cable model starts (R192). -/
def State.cableStart (s : State) (c : Nat) : State :=
  match s.cable c with
  | some r => s.onCable c fun x => { x with tc := s.startTemp c r, diss := 0, carry := 0, heats := 0, bad := 0, ok := 0 }
  | none => s

/-! ### Limits (R194, R195) -/

/-- I_OUT_MAX of an output in A. -/
def State.rating (s : State) (c : Nat) : Rat := (s.outMax c : Rat) / 10

/-- A limit in A as published: between 0 and I_OUT_MAX, rounded down to 0.1 A. -/
def State.asLimit (s : State) (c : Nat) (i : Rat) : Nat := min (i * 10).floor.toNat (s.outMax c)

/-- I_lim from a start temperature. -/
def currentLimit (r : CableRec) (x : Cable) (t0 : Rat) : Rat :=
  let tmax := sub32 r.limit r.margin
  let rth := thermalRes r x.rate
  let e := exp32 (div32 (-r.hor) (mul32 r.cth rth))
  let tss := div32 (sub32 tmax (mul32 t0 e)) (sub32 1 e)
  if tss ≤ x.cool then 0 else sqrt32 (div32 (sub32 tss x.cool) (mul32 rth (resistance r tmax)))

/-- A sensor of a cable has not been read yet: its limit is held at 0 A until it is (R192). -/
def Cable.unread (x : Cable) (r : CableRec) : Bool := x.tin.isNone || x.tout.isNone || x.flow.isNone || (r.sensor && x.tcbl.isNone)

/-- The limit of a cable from a start temperature, with the cases in which it is 0 A. -/
def State.cableLimit (s : State) (c : Nat) (r : CableRec) (t0 : Rat) : Nat :=
  let x := s.cbl c
  let hot := match x.tcbl with | some t => r.sensor && decide (r.limit ≤ t) | none => false
  if s.flag F.BLW_CBL_STAT_SENSOR c || x.unread r || hot || decide (x.flow.getD 0 < r.fmin) then 0
  else if r.model && !s.flag F.BLW_CBL_STAT_SUSPECT c then s.asLimit c (currentLimit r x t0)
  else
    match (if r.sensor then x.tcbl else none) with
    | some t => s.asLimit c (max 0 (div32 (mul32 (r32 (s.rating c)) (sub32 r.limit t)) 30))
    | none => 0

/-- Forecasts for 16 heats: the model stepped on with the committed grant and the present coolant. -/
def State.forecasts (s : State) (c : Nat) (r : CableRec) (i : Rat) : Nat → Rat → List Nat
  | 0, _ => []
  | n + 1, t => let u := s.modelStep r (s.cbl c) i t; s.cableLimit c r u :: s.forecasts c r i n u

/-! ### The heat's work (R199) -/

/-- The current of a cable at this stroke: I_OUT_MAX where the reading is not good (R191). -/
def State.cableStroke (s : State) (c : Nat) : State :=
  match s.cable c with
  | none => s
  | some r =>
    match r.pI.bind s.goodRat with
    | some i => s.onCable c fun x => { x with isum := x.isum + i, icnt := x.icnt + 1 }
    | none => s.onCable c fun x => { x with isum := x.isum + s.rating c, icnt := x.icnt + 1, subst := true }

/-- Bellows reads the output current points at every stroke (R190). -/
def State.bellowsStroke (s : State) : State := s.each s.cables fun c t => t.cableStroke c

/-- The output conducts (TRS.OUT_STATE = 2). -/
def State.conducting (s : State) (o : Nat) : Bool := decide (s.fld F.TRS_OUT_STAT_STATE o = 2)

/-- The ended heat's mean current is taken, and the model step of the new heat is to come (R190, R199). -/
def State.cableBegin (s : State) (c : Nat) : State :=
  let x := s.cbl c
  let i := r32 (if x.icnt = 0 then 0 else x.isum / (x.icnt : Rat))
  (s.onCable c fun y => { y with isum := 0, icnt := 0, subst := false, mean := some i, prior := none }).setFlag F.BLW_CBL_STAT_CUR_SUBST c x.subst

/-- TC shows the modelled temperature. -/
def State.showTc (s : State) (c : Nat) : State :=
  s.setFld F.BLW_CBL_STAT_TC c (unsignedOf 16 (clampInt (-0x8000) 0x7FFF (((s.cbl c).tc + 100) * 100).floor))

/-- The model step of a heat for one cable with the sampling rate, the sums of the heat balance and the flow (R190, R192, R199): once in a
heat, after its samples and before the heat balance and the limits. -/
def State.cableHeat (s : State) (c : Nat) : State :=
  match s.cable c, (s.cbl c).mean with
  | some r, some i =>
    let x := s.cbl c
    let tc := if r.model then s.modelStep r x i x.tc else x.tc
    let f := x.flow.getD 0
    let near := (r.model && decide (r.limit - 10 ≤ tc)) || (match x.tcbl with | some t => r.sensor && decide (r.limit - 10 ≤ t) | none => false)
    let fast := near || s.flag F.BLW_CBL_STAT_SENSOR c
    let was := s.flag F.BLW_CBL_STAT_FAST c
    let low := decide (f < r.fmin) && s.conducting c
    let diss := mul32 (mul32 i i) (resistance r x.tc)
    let carry := mul32 (mul32 (div32 f 60000) (sub32 (x.tout.getD 0) (x.tin.getD 0))) (mul32 r.cp 1000)
    let s := s.onCable c fun y => { y with
      tc := tc, mean := none, prior := some (y.tc, y.diss, y.carry, y.heats)
      diss := add32 y.diss diss, carry := add32 y.carry carry, heats := y.heats + 1
      calm := if fast then none else some (y.calm.getD s.now), lowSaid := low }
    let s := s.setFlag F.BLW_CBL_STAT_FLOW_LOW c (decide (f < r.fmin))
    let s := if low && !x.lowSaid then s.report 0x0683 c else s
    let s := if fast && !was then (s.setFlag F.BLW_CBL_STAT_FAST c true).report 0x0681 c else s
    s.showTc c
  | _, _ => s

/-- The figures of a heat, after the model step of every cable (R194, R195). -/
def State.figures (s : State) : List (Nat × Nat × List Nat) :=
  s.outs.map fun o =>
    match s.cable o with
    | some r => (o, s.cableLimit o r (s.cbl o).tc, s.forecasts o r (r32 ((s.fld F.TRS_OUT_STAT_GRANT o : Rat) / 10)) 16 (s.cbl o).tc)
    | none => (o, 0, List.replicate 16 0)

/-- The cable work of a heat begins (R188, R199), unless Bellows stopped: while it is stopped the currents of each heat are read and dropped. A
restart accepted takes effect here (R200). -/
def State.bellowsHeat (s : State) : State :=
  let s := if s.blw.restart then
      ((s.setFlag F.BLW_STAT_STOPPED 0 false).setFld F.BLW_STAT_OVR_CONSEC 0 0).completed .bellows else s
  let s := if s.blw.restart then s.onBlw fun b => { b with restart := false, stopping := none } else s
  if s.flag F.BLW_STAT_STOPPED then s.each s.cables fun c t => t.onCable c fun x => { x with isum := 0, icnt := 0, subst := false }
  else
    let s := s.each s.cables fun c t => t.cableBegin c
    let s := if s.cables.any fun c => s.flag F.BLW_CBL_STAT_FAST c then s.count 10 5 else s
    s.onBlw fun b => { b with busy := true }

/-- The model steps that are still to come in this heat. -/
def State.stepCables (s : State) : State := s.each s.cables fun c t => t.cableHeat c

/-- Publish one output's limits. -/
def State.publishLimit (s : State) (x : Nat × Nat × List Nat) : State :=
  let cap := match s.blw.ramp with
    | some l => ((l.find? fun c => decide (c.1 = x.1)).map fun c => c.2)
    | none => none
  let lim (n : Nat) : Nat := match cap with | some k => min n k | none => n
  let s := s.setFld F.BLW_OUT_LIM_LIMIT x.1 (lim x.2.1)
  (x.2.2.zipIdx).foldl (fun t c => t.setFld F.BLW_FCST_LIMIT (x.1 * 16 + c.2) (lim c.1)) s

/-- Both set-points of a loop, written in 0.1 % to the points that the record names (R197, R198); not by a standby. -/
def State.setCooling (s : State) (r : LoopRec) (pump fan : Rat) : State :=
  if s.standby then s
  else
    let put (t : State) (p : Option Nat) (q : Rat) : State :=
      match p with
      | some p => t.writeNum 4 p ⟨roundDiv (q * 10).num (q * 10).den, 0⟩
      | none => t
    put (put s r.pump pump) r.fan fan

/-- The set-points computed in the heat are published (R188). -/
def State.coolPublish (s : State) : State :=
  let s := s.coolLoops.foldl (fun t l =>
    match s.blw.cool.find? fun c => decide (c.1 = l.loop) with
    | some c => t.setCooling l c.2.1 c.2.2
    | none => t) s
  s.onBlw fun b => { b with cool := [] }

/-- LIMIT_PUBLISH (R188, R195, R196, R200, R205): the limits of the ended heat's work, before the commit filter reads them. -/
def State.limitPublish (s : State) : State :=
  let r := 10 * s.fld F.TRS_CFG_RAMP_STD
  let s := s.onBlw fun b => { b with ramp := b.ramp.map fun l => l.map fun c => (c.1, c.2 - r) }
  match s.blw.stopping with
  | some h =>
    if h < s.heat ∧ s.flag F.BLW_STAT_STOPPED = false then
      let s := s.each s.outs fun o t => t.publishLimit (o, 0, List.replicate 16 0)
      let s := s.coolLoops.foldl (fun t l => t.setCooling l 100 100) s
      (s.setFlag F.BLW_STAT_STOPPED 0 true).report 0x0605
    else s
  | none =>
    if s.blw.busy then
      let s := s.stepCables
      let s := (s.figures.foldl (fun t x => t.publishLimit x) s).coolPublish
      ((s.onBlw fun b => { b with busy := false }).completed .bellows).setFld F.BLW_STAT_OVR_CONSEC 0 0
    else s

/-- The results of the heat's work so far are discarded (R31): the model step and the sums of the heat balance. -/
def State.cableUndo (s : State) (c : Nat) : State :=
  match (s.cbl c).prior with
  | some p => (s.onCable c fun x => { x with tc := p.1, diss := p.2.1, carry := p.2.2.1, heats := p.2.2.2, mean := none, prior := none }).showTc c
  | none => s.onCable c fun x => { x with mean := none }

/-- The heat's work ends without a result. -/
def State.bellowsDrop (s : State) : State :=
  (s.each s.cables fun c t => t.cableUndo c).onBlw fun b => { b with busy := false, cool := [] }

/-- An overrun (R200): the work's results are discarded, and the limits last published stay. -/
def State.bellowsOverrun (s : State) : State :=
  let t := (((s.countOverrun .bellows F.SYS_OVR_SUM_BLW).bumpSat F.BLW_STAT_OVERRUNS 0).count 0 111).bellowsDrop
  ((t.setFld F.BLW_STAT_OVR_CONSEC 0 (min (t.overruns .bellows) 15)).report 0x0083).report 0x0685

/-- The overrun limit (R200): every limit is held for one heat, then Bellows stops. -/
def State.bellowsLimit (s : State) : State :=
  s.bellowsDrop.onBlw fun b => { b with stopping := some (b.stopping.getD s.heat) }

/-! ### The other commands -/

/-- HEAT_BALANCE (R193): the end of a 10 s window, after the model step of its last heat (R199). -/
def execHeatBalance (c : Nat) (s : State) : Host.Outcome State Fault Refusal :=
  .next (s.live 3 (match s.cable c with
    | none => s
    | some r =>
      let s := s.cableHeat c
      let x := s.cbl c
      let n : Rat := (x.heats : Rat)
      let diss := if x.heats = 0 then 0 else div32 x.diss n
      let carry := if x.heats = 0 then 0 else div32 x.carry n
      let s := s.onCable c fun y => { y with diss := 0, carry := 0, heats := 0, prior := y.prior.map fun p => (p.1, 0, 0, 0) }
      if ¬ (r.model = true ∧ r.fmin ≤ x.flow.getD 0 ∧ 500 < diss) then s
      else
        let d := sub32 diss carry
        let out := decide (mul32 (div32 r.tol 100) diss < (if d < 0 then -d else d))
        let s := s.onCable c fun y => { y with bad := if out then y.bad + 1 else 0, ok := if out then 0 else y.ok + 1 }
        if out ∧ 3 ≤ (s.cbl c).bad ∧ s.flag F.BLW_CBL_STAT_SUSPECT c = false then
          ((s.setFlag F.BLW_CBL_STAT_SUSPECT c true).cableStart c).report 0x0602 c
        else if s.flag F.BLW_CBL_STAT_SUSPECT c ∧ 6 ≤ (s.cbl c).ok then s.setFlag F.BLW_CBL_STAT_SUSPECT c false
        else s))

/-- The largest of a list of numbers, if any. -/
def maxRat (l : List Rat) : Option Rat := l.foldl (fun m x => match m with | some y => some (max x y) | none => some x) none

/-- The cable of the hottest modelled conductor of some cables, with its T_c; the lowest-numbered of equal ones. -/
def State.hottestCable (s : State) (cs : List Nat) : Option (CableRec × Rat) :=
  (cs.filterMap fun c => (s.cable c).bind fun r => if r.model then some (r, (s.cbl c).tc) else none).foldl
    (fun m x => match m with | some y => if y.2 < x.2 then some x else some y | none => some x) none

/-- The cooling of one loop (R198). -/
def State.coolLoop (s : State) (l : LoopRec) : State :=
  let cs := s.cables.filter fun c => match s.cable c with | some r => decide (r.loop = l.loop) | none => false
  let full := cs.any fun c => s.flag F.BLW_CBL_STAT_SENSOR c || s.flag F.BLW_CBL_STAT_SUSPECT c
    || (s.flag F.BLW_CBL_STAT_FLOW_LOW c && s.conducting c)
  let lo : Rat := (l.pumpMin : Rat)
  let ramp := match s.hottestCable cs with
    | some (r, tc) => lo + (100 - lo) * max 0 (min 20 (tc - (r.limit - r.margin - 30))) / 20
    | none => 0
  let pre : Rat := if cs.any fun c => decide (s.fld F.TRS_OUT_STAT_STATE c = 1 ∨ s.fld F.TRS_OUT_STAT_STATE c = 2) then (l.pumpPre : Rat) else 0
  let pump := min 100 (max lo (max pre ramp))
  let err := ((maxRat (cs.filterMap fun c => (s.cbl c).tout)).getD l.target) - l.target
  let i0 := s.blw.fans.get l.loop
  let out := (l.kp : Rat) * err + i0
  let i1 := if 0 < out ∧ out < 100 then i0 + (l.ki : Rat) / 10 * err * (10 * (s.period : Rat) / 1000000) else i0
  let fan := max 0 (min 100 ((l.kp : Rat) * err + i1))
  let s := s.onBlw fun b => { b with fans := b.fans.set l.loop i1 }
  s.onBlw fun b => { b with
    cool := (b.cool.filter fun c => decide (c.1 ≠ l.loop)) ++ [if full then (l.loop, 100, 100) else (l.loop, pump, fan)] }

/-- COOLING_UPDATE (R198, R199): every 10 heats, after the model step; published at the next heat marker (R188). -/
def execCoolingUpdate (s : State) : Host.Outcome State Fault Refusal :=
  .next (s.live 3 (if s.flag F.BLW_STAT_STOPPED || !s.blw.busy then s else
    let s := s.stepCables
    s.coolLoops.foldl (fun t l => t.coolLoop l) s))

/-- BELLOWS_RESTART (R200): at the next heat. -/
def State.bellowsRestart (s : State) : State :=
  if s.flag F.BLW_STAT_STOPPED then s.onBlw fun b => { b with restart := true } else s

/-- Outputs without a cable record at a commit (R196): 0 A and 0607h. -/
def State.noCable (s : State) : State :=
  (s.outs.filter fun o => (s.cable o).isNone).foldl (fun t o => (t.publishLimit (o, 0, List.replicate 16 0)).report 0x0607 o) s

end Sys2Proof.Machine
end

