-- ==== Sys2Proof/Machine/Crc.lean ====
section
/-! DEFINITION. The check codes: CRC-32C (R41, R42, R450), the CRC-32 of Tenon (R280) and the CRC-16 with polynomial 1021h (R68,
R370). -/

namespace Sys2Proof.Machine

open Sys2Proof

/-- One bit of a reflected CRC: a step with the reversed polynomial. -/
def crcBit (poly c : Nat) : Nat := if c % 2 = 1 then (c / 2) ^^^ poly else c / 2

/-- One byte of a reflected CRC. -/
def crcByte (poly c : Nat) (b : Byte) : Nat :=
  let x := c ^^^ b.toNat
  crcBit poly (crcBit poly (crcBit poly (crcBit poly (crcBit poly (crcBit poly (crcBit poly (crcBit poly x)))))))

/-- A reflected CRC-32 with initial value and final XOR FFFF_FFFFh. -/
def crc32 (poly : Nat) (data : List Byte) : Nat := data.foldl (crcByte poly) 0xFFFFFFFF ^^^ 0xFFFFFFFF

/-- CRC-32C, whose reversed polynomial is 82F6_3B78h. -/
def crc32c (data : List Byte) : Nat := crc32 0x82F63B78 data

/-- The CRC-32 of R280: 741B_8CD7h, reversed EB31_D82Eh. -/
def crcTenon (data : List Byte) : Nat := crc32 0xEB31D82E data

/-- One bit of the CRC-16 with polynomial 1021h, highest bit first. -/
def crc16Bit (c : Nat) : Nat := if 2 ^ 15 ≤ c then (2 * c % 2 ^ 16) ^^^ 0x1021 else 2 * c

/-- One byte of the CRC-16. -/
def crc16Byte (c : Nat) (b : Byte) : Nat :=
  let x := c ^^^ (b.toNat * 256)
  crc16Bit (crc16Bit (crc16Bit (crc16Bit (crc16Bit (crc16Bit (crc16Bit (crc16Bit x)))))))

/-- CRC-16 with initial value FFFFh and no final XOR. -/
def crc16 (data : List Byte) : Nat := data.foldl crc16Byte 0xFFFF

end Sys2Proof.Machine
end

