-- ==== Sys2Proof/Machine/MortiseCore.lean ====
section
/-! DEFINITION. The records of the safety table and the parts of Mortise that other blocks act on: its channels, and the end of a
brake test or a dark test (file 10, R265 to R284). -/

namespace Sys2Proof.Machine

open Sys2Proof

/-! ### The table (R265) -/

/-- The MRT body of the active structure; under green timber it is empty, which is the factory table (R56, R286). -/
def State.mrtBody (s : State) : List Byte := s.body tyMRT

/-- An input record. -/
structure InRec where
  typ : Nat
  supA : Nat
  supB : Nat
  filt : Nat
  disc : Nat
  startup : Bool
  deriving DecidableEq, Repr

def inRecOf (b : List Byte) (n : Nat) : InRec :=
  match (List.range 32).find? fun k => decide (u8 b (16 + 8 * k) = n ∧ 16 + 8 * k < b.length) with
  | some k =>
    let o := 16 + 8 * k
    ⟨u8 b (o + 1), u8 b (o + 2), u8 b (o + 3), u8 b (o + 4), u8 b (o + 5), (u8 b (o + 6)).testBit 0⟩
  | none => ⟨0, 255, 255, 0, 0, false⟩
def State.inRec (s : State) (n : Nat) : InRec := inRecOf s.mrtBody n

/-- What an output (0 to 15) and a brake (16 to 19) have in common: DARK_EN and T_RB. -/
def chanOfs (b : List Byte) (k : Nat) : Option Nat :=
  if k < 16 then ((List.range 16).find? fun j => decide (u8 b (272 + 8 * j) = k ∧ 272 + 8 * j < b.length)).map fun j => 272 + 8 * j
  else ((List.range 4).find? fun j => decide (u8 b (400 + 16 * j) = k - 16 ∧ 400 + 16 * j < b.length)).map fun j => 400 + 16 * j
def State.darkEn (s : State) (k : Nat) : Bool := match chanOfs s.mrtBody k with | some o => (u8 s.mrtBody (o + 1)).testBit 0 | none => false

/-- A brake record. -/
structure BrakeRec where
  cnt : Nat
  sto : Nat
  conn : Nat
  torque : Nat
  tol : Nat
  time : Nat
  interval : Nat
  deriving DecidableEq, Repr

def State.brakeRec (s : State) (k : Nat) : Option BrakeRec :=
  (chanOfs s.mrtBody (16 + k)).map fun o =>
    let b := s.mrtBody
    ⟨u8 b (o + 2), u8 b (o + 3), u8 b (o + 4), u8 b (o + 5), u8 b (o + 6), u16 b (o + 8), u16 b (o + 10)⟩

/-- T_RB of an output or a brake, in strokes (R265). -/
def State.tRb (s : State) (k : Nat) : Nat :=
  s.strokesIn (1000 * match chanOfs s.mrtBody k with | some o => u8 s.mrtBody (if k < 16 then o + 2 else o + 7) | none => 20)

/-- A function record. -/
structure FnRec where
  sf : Nat
  manualBit : Bool
  reset : Nat
  ins : Nat
  sig : List (Nat × Nat)
  outs : Nat
  brakes : Nat
  param : Nat
  deriving DecidableEq, Repr

def fnRecOf (b : List Byte) (f : Nat) : FnRec :=
  let o := 464 + 32 * f
  { sf := u8 b o, manualBit := (u8 b (o + 1)).testBit 0, reset := u8 b (o + 2), ins := u32 b (o + 4),
    sig := [(u8 b (o + 8), u8 b (o + 9)), (u8 b (o + 10), u8 b (o + 11))], outs := u16 b (o + 12), brakes := u8 b (o + 14) % 16,
    param := u32 b (o + 16) }
def State.fnCount (s : State) : Nat := u8 s.mrtBody 0
def State.fnRec (s : State) (f : Nat) : FnRec := fnRecOf s.mrtBody f
def State.fnList (s : State) : List Nat := List.range s.fnCount

/-- Manual restart (R262): fixed but for SF5. -/
def FnRec.manual (r : FnRec) : Bool := match r.sf with | 3 => false | 6 => false | 5 => r.manualBit | _ => true

/-- A connection record (R284). -/
structure ConnRec where
  transport : Nat
  produces : Bool
  len : Nat
  ident : Nat
  wd : Nat
  period : Nat
  port : Nat
  deriving DecidableEq, Repr

def State.connRec (s : State) (c : Nat) : Option ConnRec :=
  let b := s.mrtBody
  let o0 := 464 + 32 * u8 b 0
  ((List.range (u8 b 1)).find? fun k => decide (u8 b (o0 + 16 * k) = c)).map fun k =>
    let o := o0 + 16 * k
    ⟨u8 b (o + 1), decide (u8 b (o + 2) = 1), u8 b (o + 3), u32 b (o + 4), u16 b (o + 8), u16 b (o + 10), u32 b (o + 12)⟩

/-! ### State -/

/-- A change of Mortise's own state and of its numbered parts. -/
def State.onMrt (s : State) (f : Mrt → Mrt) : State := { s with mrt := f s.mrt }
def State.onIn (s : State) (n : Nat) (f : SafeIn → SafeIn) : State := s.onMrt fun m => { m with ins := m.ins.upd n f }
def State.onFn (s : State) (n : Nat) (f : SafeFn → SafeFn) : State := s.onMrt fun m => { m with fns := m.fns.upd n f }
def State.onChan (s : State) (k : Nat) (f : SafeChan → SafeChan) : State := s.onMrt fun m => { m with chans := m.chans.upd k f }
def State.onBrake (s : State) (k : Nat) (f : Brake → Brake) : State := s.onMrt fun m => { m with brakes := m.brakes.upd k f }
def State.onConn (s : State) (c : Nat) (f : Conn → Conn) : State := s.onMrt fun m => { m with conns := m.conns.upd c f }

/-- The last Mortise status code, reported. -/
def State.mrtCode (s : State) (code : Nat) (subject : Nat := 0) : State := (s.setFld F.MRT_STAT_CODE 0 code).report code subject

/-- A bit of the status of an output (0 to 15) or a brake (16 to 19). -/
def chanFld (k hi lo : Nat) : Fld := if k < 16 then ⟨.MRT_OUT_STAT, hi, lo⟩ else ⟨.MRT_BRK_STAT, hi, lo⟩
def chanIdx (k : Nat) : Nat := if k < 16 then k else k - 16
def State.chanBit (s : State) (k bit : Nat) : Bool := s.flag (chanFld k bit bit) (chanIdx k)
def State.setChanBit (s : State) (k bit : Nat) (v : Bool) : State := s.setFlag (chanFld k bit bit) (chanIdx k) v

/-- Whole strokes in a time of n ms. -/
def State.ms (s : State) (n : Nat) : Nat := s.strokesIn (100000 * n)

/-- Island 6 runs (R259, R260). -/
def State.mrtRuns (s : State) : Bool := s.flag F.MRT_STAT_RUN && !bitOf (s.fld F.SYS_REGION_STAT_FAILED) 6

/-- Both switches off; a dark test in progress is discarded (R275). -/
def State.chanOff (s : State) (k : Nat) : State :=
  let test := s.chanBit k 26
  let t := (((s.setChanBit k 31 false).setChanBit k 30 false).setChanBit k 29 false).setChanBit k 26 false
  let t := t.onChan k fun x => { x with step := 0, offAt := if s.chanBit k 31 || decide (x.step ≠ 0) then none else x.offAt }
  if test then (t.bumpSat (chanFld k 15 8) (chanIdx k)).mrtCode 0x0C83 k else t

/-- STEP of a brake's test. -/
def State.testStep (s : State) (k : Nat) : Nat := s.fld F.MRT_BRK_STAT_STEP k

/-- End a brake test: the torque command goes to 0 and STO_OUT off. -/
def State.endTest (s : State) (k : Nat) : State :=
  let t := (s.setFld F.MRT_BRK_STAT_STEP k 0).onBrake k fun b => { b with began := none }
  match s.brakeRec k with | some r => if r.sto < 16 then t.chanOff r.sto else t | none => t

/-- BRAKE_TEST_ABORT (R278): the result is discarded. -/
def State.testAbort (s : State) (k : Nat) : State := (s.endTest k).mrtCode 0x0C85 k

/-- Tests of the brakes whose torque command a connection carries are aborted where that is lost (R278). -/
def State.torqueLost (s : State) (c : Nat) : State :=
  s.each (List.range 4) fun k t =>
    match t.brakeRec k with
    | some b => t.when (decide (b.conn = c ∧ t.testStep k ≠ 0)) fun u => u.testAbort k
    | none => t

/-! ### The transports of Tenon frames (R285, R360, R375) -/

/-- A frame padded with 00h to the next valid CAN FD data length. -/
def canPad (b : List Byte) : List Byte :=
  let n := ([8, 12, 16, 20, 24, 32, 48, 64].find? fun k => decide (b.length ≤ k)).getD 64
  b ++ List.replicate (n - b.length) 0

/-- Mortise places a frame in the buffer of its connection; a frame not yet sent is replaced and counted. -/
def CanCtl.place (x : CanCtl) (c : Nat) (b : List Byte) : CanCtl :=
  { x with
    buffers := (x.buffers.filter fun y => decide (y.1 ≠ c)) ++ [(c, b)]
    replaced := if x.buffers.any fun y => decide (y.1 = c) then x.replaced + 1 else x.replaced }

/-- A Tenon frame enters its band's queue of 16; it replaces a queued frame of its connection, and the replacement is counted. -/
def Fdl.place (x : Fdl) (band c now : Nat) (b : List Byte) : Fdl :=
  let q := x.queues.get band
  let hit (f : FdlFrame) : Bool := decide (f.typ = 1 ∧ f.conn = c)
  if q.any hit then
    { x with queues := x.queues.set band (q.map fun f => if hit f then { f with data := b } else f), replaced := x.replaced + 1 }
  else if q.length < 16 then { x with queues := x.queues.set band (q ++ [⟨1, 255, c, b, now⟩]) }
  else x

/-- A produced frame goes to the transport of its connection; on the Feeder link never to band A (R285). -/
def State.tenonOut (s : State) (c : Nat) (r : ConnRec) (b : List Byte) : State :=
  if r.transport = 1 then { s with can := { s.can with ctls := s.can.ctls.upd (r.port / 2 ^ 29) fun x => x.place c (canPad b) } }
  else if r.transport = 2 then (if 1 ≤ r.port ∧ r.port ≤ 3 then { s with fdl := s.fdl.place r.port c s.now b } else s)
  else s.send .tenon c b

/-- Every test ends at a release or a takeover of the peg: a dark test's result is discarded and its switch is on again, a brake
test is aborted (R308). -/
def State.endTests (s : State) : State :=
  let s := s.each (List.range 20) fun k t =>
    if t.chanBit k 26 then
      let t := ((t.setChanBit k 30 true).setChanBit k 29 true).setChanBit k 26 false
      (t.bumpSat (chanFld k 15 8) (chanIdx k)).mrtCode 0x0C83 k
    else t
  s.each (List.range 4) fun k t => if t.testStep k ≠ 0 then t.testAbort k else t

end Sys2Proof.Machine
end

