-- ==== Sys2Proof/Machine/PegCore.lean ====
section
/-! DEFINITION. Releasing the peg (R293 to R296), a failed island (R38, R39), and the die protection that acts through them
(file 07, R201 to R205). -/

namespace Sys2Proof.Machine

open Sys2Proof

/-- A change of the pair's own state. -/
def State.onPeg (s : State) (f : Peg → Peg) : State := { s with peg := f s.peg }

/-- The last pair status code, reported. -/
def State.pegCode (s : State) (code : Nat) : State := (s.setFld F.PEG_STAT_CODE 0 code).report code

/-- PEG_EVENT records a change of the peg. -/
def State.pegEvent (s : State) (cause : Nat) (took : Bool) : State :=
  ((s.setFld F.PEG_EVENT_CAUSE 0 cause).setFlag F.PEG_EVENT_TOOK 0 took).setFld F.PEG_EVENT_STROKE 0 (s.now % 100)

/-- The device holds the peg: its output gate is open (R293). -/
def State.holds (s : State) : Bool := s.flag F.PEG_STAT_HOLD

/-- A bound partner stands in SYNC. -/
def State.partnerSync (s : State) : Bool := s.flag F.PEG_STAT_LINK && s.flag F.PEG_STAT_PARTNER_SYNC

/-- A device that neither holds the peg, nor is in SYNC, nor is unbound drives no paired discrete output (R309). -/
def State.pdoDrives (s : State) : Bool :=
  s.holds || decide (s.fld F.PEG_STAT_STATE ≤ 1 ∨ s.fld F.PEG_STAT_STATE = 4)
def State.pdoGate (s : State) : State :=
  if s.pdoDrives then s else (s.setFld F.PEG_PDO_EFF 0 0).onPeg fun p => { p with pdo := [] }

/-- PEG_RELEASE (R296): the gate closes and the net is released; the device does not claim again until SYNC or a reset. With
its link up it becomes the standby and aligns (R299); a Feeder-link frame on air is cut off (R381). -/
def State.pegRelease (s : State) (cause : Nat) : State :=
  if s.peg.driven || s.holds then
    let s := (s.setFld F.PEG_STAT_HOLD 0 0).setFld F.PEG_STAT_OWN_NET 0 1
    let s := s.setFld F.PEG_STAT_STATE 0 (if s.flag F.PEG_STAT_LINK then 2 else 0)
    let s := s.onPeg fun p => { p with driven := false, released := true, keepers := false, due := none, aligned := false, lockGood := 0 }
    let s := if s.fld F.TRS_STAT_STATE = 1 ∧ s.standby then s.setFld F.TRS_STAT_STATE 0 3 else s
    let s := { s.setFld F.FDL_STAT_TX 0 0 with fdl := { s.fdl with air := none } }
    (s.pdoGate.endTests.modGap.pegEvent cause false).pegCode 0x0D82
  else s.onPeg fun p => { p with released := true }

/-- SYNC_LOST (R304, R305): a standby leaves SYNC for another state, and its keepers turn off. -/
def State.syncLost (s : State) (next : Nat) : State :=
  if s.fld F.PEG_STAT_STATE = 4 then
    ((((s.setFld F.PEG_STAT_STATE 0 next).setFld F.PEG_SYNC_TIME_HEATS 0 0).onPeg fun p => { p with
      keepers := false, frames := 0, lateRun := 0, lockGood := 0, lockBad := 0, mismatch := 0, aligned := p.aligned && decide (next = 3) })).pdoGate.pegCode 0x0D04
  else s

/-- Every safe output and brake command off (R39, R262): the outputs are de-energised. -/
def State.safeOff (s : State) : State :=
  let off (r : Reg) (k : Nat) (t : State) : State := [31, 30, 29, 26].foldl (fun t b => t.setFld ⟨r, b, b⟩ k 0) t
  s.each (List.range 20) fun k t => (if k < 16 then off .MRT_OUT_STAT k t else off .MRT_BRK_STAT (k - 16) t).onChan k fun x => { x with step := 0 }

/-- Every gate output off at once (R39, row 4). -/
def State.gatesAllOff (s : State) : State := s.each (List.range s.phaseCount) fun p t => t.gatesOff p

/-- An island fails (R38, R39): FAILED is set, islands 0 to 7 release the peg, a standby leaves SYNC (R304), and the device's
own outputs take their actions. The state ends only with a device reset. -/
def State.failIsland (s : State) (k : Nat) : State :=
  if bitOf (s.fld F.SYS_REGION_STAT_FAILED) k then s
  else
    let s := s.setFld F.SYS_REGION_STAT_FAILED 0 (withBit (s.fld F.SYS_REGION_STAT_FAILED) k true)
    let s := if k < 8 then s.pegRelease 1 else s
    let s := if k < 8 then s.syncLost 3 else s
    match k with
    | 0 => s.gatesAllOff.safeOff
    | 2 => { s with sys := { s.sys with clfFail := some 0 } }
    | 3 => { s with sys := { s.sys with trsFail := some 0, heldRefs := s.bays.map fun b => (b, s.fld F.FRG_BAY_REF_REF b) } }
    | 4 => s.gatesAllOff.safeOff
    | 5 => s.setFld F.ASY_STAT_RUN 0 0
    | 6 => s.safeOff
    | _ => s

/-! ### Die temperature (R201 to R205) -/

/-- A threshold in 0.25 K: the image may lower the default, and never raises it. -/
def dieLimit (v dflt : Nat) : Int := 4 * ((if v = 0 then dflt else min v dflt : Nat) : Int)
def State.tWarn (s : State) : Int := dieLimit (s.fld F.BLW_DIE_CFG_T_WARN) 105
def State.tThrot (s : State) : Int := dieLimit (s.fld F.BLW_DIE_CFG_T_THROT) 110
def State.tCrit (s : State) : Int := dieLimit (s.fld F.BLW_DIE_CFG_T_CRIT) 120

/-- The die of a sensor: 1 the mixed-signal die, 2 the MRAM die, 0 the other. -/
def dieOf (k : Nat) : Nat := if k = 9 ∨ k = 10 then 1 else if k = 15 then 2 else 0

/-- Mean of the other valid sensors on the same die. -/
def State.dieMean (s : State) (t : List Int) (k : Nat) : Option Rat :=
  let l := (List.range 16).filter fun j => decide (j ≠ k ∧ dieOf j = dieOf k) && !bitOf (s.fld F.BLW_DIE_STAT_BROKEN) j
  if l = [] then none else some (meanRat (l.map fun j => ((t.getD j 0 : Int) : Rat)))

/-- A sensor's reading differs from its die by more than 25 K. -/
def State.dieOff (s : State) (t : List Int) (k : Nat) : Bool :=
  match s.dieMean t k with
  | some m => decide (((t.getD k 0 : Int) : Rat) - m > 100 ∨ m - ((t.getD k 0 : Int) : Rat) > 100)
  | none => false

/-- DIE_SENSOR (R202): a sensor out of range, or off its die in 3 samples, is excluded and reported. `off` says whether it differs from the
other sensors of its die, all judged on the sensors valid before the sample. -/
def State.dieTest (s : State) (t : List Int) (k : Nat) (off : Bool) : State :=
  let n := if off then s.blw.off.get k + 1 else 0
  let v := t.getD k 0
  let bad := decide (v < -220 ∨ 640 < v) || decide (3 ≤ n)
  let was := bitOf (s.fld F.BLW_DIE_STAT_BROKEN) k
  let s := s.onBlw fun b => { b with off := b.off.set k n }
  let s := (s.setFld F.BLW_DIE_TEMP_TEMP k (unsignedOf 11 v)).setFld F.BLW_DIE_STAT_BROKEN 0
    (withBit (s.fld F.BLW_DIE_STAT_BROKEN) k bad)
  if bad && !was then s.report 0x0606 k else s

/-- The hottest valid reading, and the reading that the thresholds see: 5 K more for a broken sensor, T_CRIT with fewer than 8
valid ones (R202). -/
def State.hottest (s : State) (t : List Int) : Int × Int :=
  let l := ((List.range 16).filter fun k => !bitOf (s.fld F.BLW_DIE_STAT_BROKEN) k).map fun k => t.getD k 0
  let h := l.foldl max (l.headD (-220))
  (h, if l.length < 8 then max h s.tCrit else if l.length < 16 then h + 20 else h)

/-- A sensor's reading as the thresholds see it stands at or above T_CRIT (R202, R205). -/
def State.critAt (s : State) (t : List Int) (k : Nat) : Bool :=
  let h := s.hottest t
  let broken := bitOf (s.fld F.BLW_DIE_STAT_BROKEN) k
  let few := decide (((List.range 16).filter fun j => !bitOf (s.fld F.BLW_DIE_STAT_BROKEN) j).length < 8)
  few || decide (s.tCrit ≤ if broken then h.1 + 20 else t.getD k 0)

/-- Set the throttle level (R203). -/
def State.throttle (s : State) (n : Nat) : State :=
  if s.fld F.BLW_DIE_STAT_LEVEL = n then s else (s.setFld F.BLW_DIE_STAT_LEVEL 0 n).report 0x0682 n

/-- DIE_CRITICAL (R205): level 4; the peg goes to a partner in SYNC, else the cable limits ramp down. -/
def State.dieCritical (s : State) : State :=
  let s := (s.setFld F.BLW_DIE_STAT_CRIT 0 1).throttle 4
  if s.holds && s.partnerSync then (s.pegRelease 2).report 0x0603
  else
    (s.onBlw fun b => { b with ramp := some (s.outs.map fun o => (o, s.fld F.TRS_OUT_STAT_GRANT o)) }).report 0x0604

/-- Since when a condition holds. -/
def since (old : Option Nat) (c : Bool) (now : Nat) : Option Nat := if c then some (old.getD now) else none

/-- DIE_SAMPLE (R201, R202, R205): 16 readings in 0.25 K. -/
def State.dieSample (s : State) (t : List Int) : State :=
  let off := s.dieOff t
  let s := s.each (List.range 16) fun k u => u.dieTest t k (off k)
  let h := s.hottest t
  let now := s.now
  let s := s.setFld F.BLW_DIE_STAT_HOTTEST 0 (unsignedOf 11 h.1)
  let s := s.onBlw fun b => { b with
    belowThrot := since b.belowThrot (decide (h.2 < s.tThrot)) now
    below5 := since b.below5 (decide (h.2 < s.tThrot - 20)) now
    below12 := since b.below12 (decide (h.2 < s.tThrot - 48)) now
    atThrot := since b.atThrot (decide (s.tThrot ≤ h.2)) now
    critSeen := (List.range 16).foldl (fun a k => a.set k (if s.critAt t k then a.get k + 1 else 0)) b.critSeen
    worst := h.2 }
  let s := if s.tThrot - 40 ≤ h.2 then s.setFld F.BLW_DIE_STAT_FAST 0 1
    else match s.blw.below12 with
      | some x => if x + s.strokesIn 10000000 ≤ now then s.setFld F.BLW_DIE_STAT_FAST 0 0 else s
      | none => s
  if (List.range 16).any (fun k => decide (2 ≤ s.blw.critSeen.get k)) ∧ s.flag F.BLW_DIE_STAT_CRIT = false then s.dieCritical else s

def execDieSample (t : List Int) (s : State) : Host.Outcome State Fault Refusal := .next (s.live 3 (s.dieSample t))

/-- DIE_CRITICAL_END (R205): 1 s below T_THROT. -/
def execDieCriticalEnd (s : State) : Host.Outcome State Fault Refusal :=
  .next (s.live 3 (match s.blw.belowThrot with
    | some x =>
      if s.flag F.BLW_DIE_STAT_CRIT ∧ x + s.strokesIn 100000000 ≤ s.now then
        (s.setFld F.BLW_DIE_STAT_CRIT 0 0).onBlw fun b => { b with ramp := none, critSeen := ⟨0, []⟩ }
      else s
    | none => s))

/-- THROTTLE_UP (R203): 10 ms at or above T_THROT. -/
def execThrottleUp (s : State) : Host.Outcome State Fault Refusal :=
  .next (s.live 3 (match s.blw.atThrot with
    | some x =>
      if x + s.strokesIn 1000000 ≤ s.now ∧ s.fld F.BLW_DIE_STAT_LEVEL < 4 then
        (s.throttle (s.fld F.BLW_DIE_STAT_LEVEL + 1)).onBlw fun b => { b with atThrot := some s.now }
      else s
    | none => s))

/-- THROTTLE_DOWN (R203): 100 ms below T_THROT − 5 K. -/
def execThrottleDown (s : State) : Host.Outcome State Fault Refusal :=
  .next (s.live 3 (match s.blw.below5 with
    | some x =>
      if x + s.strokesIn 10000000 ≤ s.now ∧ 0 < s.fld F.BLW_DIE_STAT_LEVEL then
        (s.throttle (s.fld F.BLW_DIE_STAT_LEVEL - 1)).onBlw fun b => { b with below5 := some s.now }
      else s
    | none => s))

end Sys2Proof.Machine
end

