-- ==== Sys2Proof/Machine/Hallmark.lean ====
section
/-! DEFINITION. Hallmark: the accumulators a booking moves, records, their signing and delivery, intervals and tariffs,
transactions, the disconnect contactor and the energy save (files 08 and 09, R218, R219, R235 to R254; R450). Instants are in half
microseconds of the legal counter, energies are multiples of 2^-32 µWh. -/

namespace Sys2Proof.Machine

open Sys2Proof

/-! ### Figures -/

/-- A change of the Assay's own state, of a metering point, of a disconnect contactor. -/
def State.onAsy (s : State) (f : Asy → Asy) : State := { s with asy := f s.asy }
def State.onMeter (s : State) (n : Nat) (f : Meter → Meter) : State :=
  s.onAsy fun a => { a with meters := a.meters.upd n f }
def State.onDisc (s : State) (o : Nat) (f : Disc → Disc) : State := s.onAsy fun a => { a with disc := a.disc.upd o f }

/-- ASY_LMC at an instant, in µs. -/
def State.lmc (s : State) : Nat := s.asy.now / 2

/-- A point is in use, and the list of the points in use, in ascending order (R236). -/
def State.ptOn (s : State) (n : Nat) : Bool := s.flag F.ASY_PT_CFG_EN n
def State.ptsOn (s : State) : List Nat := (List.range 34).filter s.ptOn

/-- The output that a DC point meters, and the DC point of an output. -/
def State.ptOut (s : State) (n : Nat) : Nat := s.fld F.ASY_PT_CFG_OUTPUT n
def State.outPt (s : State) (o : Nat) : Option Nat := (List.range 32).find? fun n => s.ptOn n && decide (s.ptOut n = o)

/-- An energy in units of 2^-32 µWh, rounded up: an amount between two units is not lost (log entry 35). -/
def quantum (e : Rat) : Rat := ((e * 4294967296).ceil : Rat) / 4294967296

/-- The residue of an amount, in 2^-32 µWh. -/
def residue (q : Rat) : Nat := ((q - q.floor) * 4294967296).floor.toNat

/-- An amount held in a 64-bit pair and its residue. -/
def State.amount (s : State) (lo hi : Reg) (i key : Nat) : Rat := (s.pair lo hi i : Rat) + (s.asy.frac.get key : Rat) / 4294967296

/-- Set an amount: the whole µWh in the pair (two's complement), the rest in the residue. -/
def State.setAmount (s : State) (lo hi : Reg) (i key : Nat) (q : Rat) : State :=
  (s.setPair lo hi i (unsignedOf 64 q.floor)).onAsy fun a => { a with frac := a.frac.set key (residue q) }

/-- The accumulators of a point (R218): 0 import, 1 export, 2 net. -/
def State.meterAcc (s : State) (n q : Nat) : Rat := s.amount .ASY_ACC_LO .ASY_ACC_HI (3 * n + q) (3 * n + q)
def State.addAcc (s : State) (n q : Nat) (e : Rat) : State :=
  s.setAmount .ASY_ACC_LO .ASY_ACC_HI (3 * n + q) (3 * n + q) (s.meterAcc n q + e)

/-- The tariff registers of a point (R243): 0 import, 1 export. -/
def State.treg (s : State) (n t q : Nat) : Rat :=
  s.amount .ASY_TREG_LO .ASY_TREG_HI (2 * (16 * n + t) + q) (1000 + 2 * (16 * n + t) + q)
def State.setTreg (s : State) (n t q : Nat) (e : Rat) : State :=
  s.setAmount .ASY_TREG_LO .ASY_TREG_HI (2 * (16 * n + t) + q) (1000 + 2 * (16 * n + t) + q) e

/-- The credit of an output (R253): its whole µWh as a signed number, and with its fraction. -/
def State.creditInt (s : State) (o : Nat) : Int := signed 64 (s.pair .ASY_CREDIT_LO .ASY_CREDIT_HI o)
def State.credit (s : State) (o : Nat) : Rat := (s.creditInt o : Rat) + (s.asy.frac.get (3000 + o) : Rat) / 4294967296
def State.setCredit (s : State) (o : Nat) (q : Rat) : State := s.setAmount .ASY_CREDIT_LO .ASY_CREDIT_HI o (3000 + o) q

/-- The active tariff of a point. -/
def State.tariff (s : State) (n : Nat) : Nat := s.fld F.ASY_TARIFF_ACTIVE n

/-! ### The label of the wall clock (R246) -/

/-- The label at a counter value in µs; 0 if never set. -/
def State.wallAt (s : State) (us : Nat) : Nat :=
  match s.asy.wall with
  | some (v, at_, _) => v + (us - at_) / 1000
  | none => 0

/-- WALL_UNSYNC holds. -/
def State.unsync (s : State) : Bool :=
  s.flag F.ASY_STAT_DRIFT || match s.asy.wall with
    | some (_, at_, sync) => !sync || decide (at_ + 86400000000 < s.lmc)
    | none => true

/-- Show WALL_UNSYNC; 0BA4h when it became set. -/
def State.showSync (s : State) : State :=
  let was := s.flag F.ASY_HMK_STAT_WALL_UNSYNC
  let now := s.unsync
  let t := s.setFlag F.ASY_HMK_STAT_WALL_UNSYNC 0 now
  if now && !was then t.report 0x0BA4 else t

/-! ### The log (R239) -/

/-- Records in unreserved slots. -/
def State.logUsed (s : State) : Nat := (s.asy.log.filter fun r => !r.reserved).length

/-- LOG_FREE, LOG_FULL and UNSIGNED follow the log. -/
def State.showLog (s : State) : State :=
  let free := 254 - s.logUsed
  let open_ := ((s.asy.log ++ s.asy.queue).filter fun r => decide (r.stage = 0)).length
  ((s.setFld F.ASY_HMK_STAT_LOG_FREE 0 free).setFlag F.ASY_HMK_STAT_LOG_FULL 0 (decide (free < 40))).setFld
    F.ASY_HMK_STAT_UNSIGNED 0 (min open_ 255)

/-- A record in the log, which stands in RSEQ order. -/
def insertRec (r : HmkRec) : List HmkRec → List HmkRec
  | [] => [r]
  | x :: l => if r.rseq < x.rseq then r :: x :: l else x :: insertRec r l

/-- Waiting records take slots that are free, in RSEQ order. -/
def State.fillLog (s : State) : State :=
  let room := 254 - s.logUsed
  (s.onAsy fun a => { a with log := (a.queue.take room).foldl (fun l r => insertRec r l) a.log, queue := a.queue.drop room }).showLog

/-- Put a record into the log: into a reserved slot where it may and one is free, else in RSEQ order. -/
def State.logRec (s : State) (r : HmkRec) : State :=
  if r.reserved && decide ((s.asy.log.filter fun x => x.reserved).length < 2) then
    (s.onAsy fun a => { a with log := insertRec r a.log }).showLog
  else (s.onAsy fun a => { a with queue := a.queue ++ [{ r with reserved := false }] }).fillLog

/-! ### Records (R235 to R237) -/

/-- The header bits of a point: FAULT, PLAUS and OVERRANGE. -/
def State.ptBits (s : State) (n : Nat) : Nat :=
  (if s.flag F.ASY_PT_STAT_METER_FAULT n then 32 else 0) + (if s.flag F.ASY_PT_STAT_PLAUS n then 64 else 0)
    + (if s.flag F.ASY_PT_STAT_OVERRANGE n then 128 else 0)

/-- The header bits that hold for the device at this instant: WALL_UNSYNC, DRIFT, SEAL_OPEN. -/
def State.devBits (s : State) : Nat :=
  (if s.unsync then 1 else 0) + (if s.flag F.ASY_STAT_DRIFT then 2 else 0) + (if s.flag F.ASY_SEAL_CNT_OPEN then 4 else 0)

/-- A record's kind and place: type, flags beside those of the device and the point, point, transaction, instant in µs. -/
structure RecHead where
  typ   : Nat
  flags : Nat
  point : Nat
  txn   : Nat
  us    : Nat
  deriving DecidableEq, Repr

/-- Whether a record may take a reserved slot (R239), and whether it carries the provisional trailer (R238). -/
structure RecKind where
  reserved : Bool
  provisional : Bool
  deriving DecidableEq, Repr

/-- The header of a record (R235). PREV_HASH is filled when the record is signed (R238). -/
def State.recHeader (s : State) (h : RecHead) (len : Nat) : List Byte :=
  let pts := if h.point < 34 then [h.point] else s.ptsOn
  let flags := h.flags ||| s.devBits ||| pts.foldl (fun x n => x ||| s.ptBits n) 0
  [0x48, 0x4D, 0x4B, 0x31] ++ leBytes 2 h.typ ++ leBytes 2 len ++ leBytes 8 (s.pair .ASY_RSEQ_LO .ASY_RSEQ_HI)
    ++ leBytes 8 h.us ++ leBytes 8 (s.wallAt h.us) ++ leBytes 2 flags ++ leBytes 2 h.point ++ leBytes 4 h.txn ++ leBytes 32 0

/-- The provisional trailer (R238). -/
def provisional (b : List Byte) : List Byte := [0, 0] ++ leBytes 2 0 ++ leBytes 2 4 ++ leBytes 2 0 ++ leBytes 4 (crc32c b)

/-- Write a record: it takes the next RSEQ and a place in the log. -/
def State.writeRec (s : State) (h : RecHead) (body : List Byte) (k : RecKind := ⟨false, false⟩) : State :=
  let r := s.pair .ASY_RSEQ_LO .ASY_RSEQ_HI
  let b := s.recHeader h body.length ++ body
  let t := (s.setPair .ASY_RSEQ_LO .ASY_RSEQ_HI 0 (r + 1)).count 13 0
  t.logRec {
            rseq := r, bytes := b, trailer := if k.provisional then provisional b else [], reserved := k.reserved, stage := 0
            idTag := match s.asy.txns.get h.point with | some x => x.idTag | none => [] }

/-- A reading block (R236). -/
def State.reading (s : State) (n : Nat) : List Byte :=
  leBytes 8 (s.meterAcc n 0).floor.toNat ++ leBytes 8 (s.meterAcc n 1).floor.toNat ++ leBytes 8 (unsignedOf 64 (s.meterAcc n 2).floor)
    ++ leBytes 1 (s.tariff n) ++ leBytes 7 0

/-- The body of POWER_FAIL and POWER_UP: an E_PT for each point in use. -/
def State.ptBody (s : State) : List Byte :=
  leBytes 1 s.ptsOn.length ++ leBytes 7 0 ++ s.ptsOn.flatMap fun n => leBytes 1 n ++ leBytes 7 0 ++ s.reading n

/-! ### Energy gaps (R249) -/

/-- Full-scale code of a converter. -/
def fullScale : Rat := 2 ^ 21

/-- GAIN of a channel. -/
def State.gain (s : State) (c : Nat) : Rat :=
  let w := s.reg .ASY_CH_GAIN c
  (fpRat? w).getD (Config.numberOf w)

/-- The largest current or voltage of a channel; a Rogowski channel's integral is bounded by its leak (R214). -/
def State.peak (s : State) (c : Nat) (rogowski : Bool) : Rat :=
  let ofs := signed 22 (s.fld F.ASY_CH_OFS_OFS c)
  let x := (fullScale + |(ofs : Rat)|) * |s.gain c|
  if rogowski then x * 2 ^ 18 / 16000 else x

/-- R_CBL of a point in Ω. -/
def State.rCbl (s : State) (n : Nat) : Rat := (s.fld F.ASY_PT_RCBL_R_CBL n : Rat) / 10000000

/-- P_FS of a point in W (R249). -/
def State.pFs (s : State) (n : Nat) : Rat :=
  if n < 32 then
    let i := s.peak (s.fld F.ASY_PT_CFG_I_MOD n) false
    let u := s.peak (s.fld F.ASY_PT_CFG_U_MOD n) false
    u * i + (if s.flag F.ASY_PT_CFG_CLC n then i * i * s.rCbl n else 0)
  else
    let c := 64 + 8 * (n - 32)
    let rog := decide (s.fld F.ASY_PT_CFG_SENSOR n = 2)
    ((List.range 3).map fun k => s.peak (c + k) false * s.peak (c + 3 + k) rog).sum

/-- ASY_PT_PFS of every point, as the legal firmware computes it at a start and at a sealed change. -/
def State.showPfs (s : State) : State :=
  s.each (List.range 34) fun n t => t.setReg .ASY_PT_PFS n (if s.ptOn n then fpOfRat (s.pFs n) else 0)

/-- A gap bound: P_FS × span, rounded up to 1 µWh; the span in half µs. -/
def State.gapBound (s : State) (n span : Nat) : Nat := ((s.pFs n) * span / 7200).ceil.toNat

/-- An ENERGY_GAP record over some points from an instant to now; the bounds count in open transactions (R249) and 0BA3h is
reported. -/
def State.gapRecord (s : State) (pts : List Nat) (start span cause flags : Nat) (k : RecKind) : State :=
  let bound (n : Nat) : Nat := if pts.contains n then s.gapBound n span else 0
  let body := leBytes 8 (start / 2) ++ leBytes 1 cause ++ leBytes 1 s.ptsOn.length ++ leBytes 6 0
    ++ s.ptsOn.flatMap fun n => leBytes 1 n ++ leBytes 7 0 ++ leBytes 8 (bound n)
  let t := s.writeRec ⟨6, flags, 0xFFFF, 0, s.lmc⟩ body k
  (pts.foldl (fun (t : State) n =>
    (t.onMeter n fun m => { m with gapped := true }).onAsy fun a =>
      { a with txns := a.txns.upd n (Option.map fun y => { y with bound := y.bound + bound n }) }) t).report 0x0BA3

/-- Open a gap at a point. -/
def State.openGap (s : State) (n start : Nat) : State :=
  s.onMeter n fun m => { m with gap := some (m.gap.getD start), gapped := true }

/-- Close an open gap at a point at an instant: its record, CAUSE 4 for a DC point and 3 for an AC point (R251). In a power failure
the record is provisional (R238). -/
def State.closeGapAt (s : State) (n end_ : Nat) (k : RecKind) : State :=
  match (s.asy.meters.get n).gap with
  | some st =>
    (s.onMeter n fun m => { m with gap := none }).gapRecord [n] st (end_ - st) (if n < 32 then 4 else 3) 16 k
  | none => s
def State.closeGap (s : State) (n : Nat) : State := s.closeGapAt n s.asy.now ⟨false, false⟩

/-- Close the open gaps of the AC points in one record (R221). -/
def State.closeAcGapsAt (s : State) (end_ : Nat) (k : RecKind) : State :=
  let pts := [32, 33].filter fun n => (s.asy.meters.get n).gap.isSome
  match pts with
  | [] => s
  | p :: _ =>
    let st := ((s.asy.meters.get p).gap).getD end_
    (s.each pts fun n t => t.onMeter n fun m => { m with gap := none }).gapRecord pts st (end_ - st) 3 16 k
def State.closeAcGaps (s : State) : State := s.closeAcGapsAt s.asy.now ⟨false, false⟩

/-- Every open gap is closed at an instant (R251). -/
def State.closeGaps (s : State) (end_ : Nat) (k : RecKind) : State :=
  (s.each (List.range 32) fun n t => t.closeGapAt n end_ k).closeAcGapsAt end_ k

/-- While a DC point is in METER_FAULT a gap is open (R223). -/
def State.reopenGap (s : State) (n : Nat) : State :=
  s.when (s.flag F.ASY_PT_STAT_METER_FAULT n) fun t => t.openGap n t.asy.now

/-! ### Signing and delivery (R238 to R240) -/

/-- Deliver signed records to the ring that CONFIG names, in RSEQ order. A full ring with HOLD keeps the record in the log; with
DROP, or with another size, the ring discards it. -/
def State.deliverFrom (s : State) : List HmkRec → State
  | [] => s
  | r :: rest =>
    if 2 ≤ r.stage then s.deliverFrom rest
    else if r.stage = 0 then s
    else match s.asy.ring with
      | none => s
      | some n =>
        let mark (k : Nat) (s : State) : State :=
          s.onAsy fun a => { a with log := a.log.map fun x => if x.rseq = r.rseq then { x with stage := k } else x }
        if s.ringFits n 0 8192 && s.ringRoom n 1 then
          ((mark 2 (s.ringPush n ((r.bytes ++ r.trailer ++ leBytes 8192 0).take 8192))).report 0x0BA0).deliverFrom rest
        else if s.ringFits n 0 8192 && decide (s.fld F.PNT_RING_CFG_FULL n = 1) then s
        else (mark 3 (s.ringLost n)).deliverFrom rest

/-- RECORD_DELIVERY (R239). -/
def State.deliverLog (s : State) : State := s.deliverFrom s.asy.log

/-- Software acknowledged `k` entries of the Hallmark ring: their slots are free (R239). -/
def dropDelivered : Nat → List HmkRec → List HmkRec
  | 0, l => l
  | _, [] => []
  | k + 1, r :: t => if r.stage = 2 then dropDelivered k t else r :: dropDelivered (k + 1) t
def State.hallmarkAck (s : State) (n k : Nat) : State :=
  if s.asy.ring = some n then
    ((s.onAsy fun a => { a with log := dropDelivered k a.log }).fillLog).deliverLog
  else s

/-- Characters as bytes, digits of a number, and bytes in hex. -/
def ascii (t : String) : List Byte := t.toList.map fun c => BitVec.ofNat 8 c.toNat
def decimal : Nat → Nat → List Byte
  | 0, _ => []
  | w + 1, n => decimal w (n / 10) ++ [BitVec.ofNat 8 (48 + n % 10)]
def wholeText (n : Nat) : List Byte := ascii (toString n)
def hexText (b : List Byte) : List Byte :=
  let d (n : Nat) : Byte := BitVec.ofNat 8 (if n < 10 then 48 + n else 55 + n)
  b.flatMap fun x => [d (x.toNat / 16), d (x.toNat % 16)]

/-- Year, month and day of a number of days since 1970-01-01 in the Gregorian calendar. -/
def civilDate (days : Nat) : Nat × Nat × Nat :=
  let z := days + 719468
  let doe := z % 146097
  let yoe := (doe - doe / 1460 + doe / 36524 - doe / 146096) / 365
  let doy := doe - (365 * yoe + yoe / 4 - yoe / 100)
  let mp := (5 * doy + 2) / 153
  let m := if mp < 10 then mp + 3 else mp - 9
  (yoe + z / 146097 * 400 + (if m ≤ 2 then 1 else 0), m, doy - (153 * mp + 2) / 5 + 1)

/-- A label in ms as ISO 8601 with milliseconds, in UTC (R240). -/
def isoTime (ms : Nat) : List Byte :=
  let d := civilDate (ms / 86400000)
  let s := ms / 1000 % 86400
  decimal 4 d.1 ++ ascii "-" ++ decimal 2 d.2.1 ++ ascii "-" ++ decimal 2 d.2.2 ++ ascii "T" ++ decimal 2 (s / 3600) ++ ascii ":"
    ++ decimal 2 (s / 60 % 60) ++ ascii ":" ++ decimal 2 (s % 60) ++ ascii "," ++ decimal 3 (ms % 1000) ++ ascii "+0000"

/-- An energy in µWh as kWh with 6 decimals (R240). -/
def kWhText (e : Nat) : List Byte := wholeText (e / 1000000000) ++ ascii "." ++ decimal 6 (e / 1000 % 1000000)

/-- A text in quotation marks, a named member, members in braces. -/
def quoted (t : List Byte) : List Byte := [0x22] ++ t ++ [0x22]
def member (name : String) (value : List Byte) : List Byte := quoted (ascii name) ++ ascii ":" ++ value
def braced (l : List (List Byte)) : List Byte := [0x7B] ++ (l.intersperse (ascii ",")).flatten ++ [0x7D]

/-- The part's name (R1). -/
def partName : Variant → String
  | .gzM9600 => "GZ-M9600"
  | .gzM9480 => "GZ-M9480"
  | .gzM9300 => "GZ-M9300"

/-- The data of the OCMF string of a TXN_START or TXN_STOP record (R240); the order of the members and the form of the string are those of
the OCMF standard (log entry 61). -/
def ocmfData (v : Variant) (ver : Nat) (r : HmkRec) : List Byte :=
  let b := r.bytes
  let bad := (u16 b 0x20).testBit 5
  let reading (e : Nat) (id : String) : List Byte :=
    braced [member "TM" (quoted (isoTime (uN b 0x18 8) ++ ascii (if (u16 b 0x20).testBit 0 then " U" else " S"))),
      member "TX" (quoted (ascii (if u16 b 4 = 1 then "B" else "E"))), member "RV" (kWhText e), member "RI" (quoted (ascii id)),
      member "RU" (quoted (ascii "kWh")), member "ST" (quoted (ascii (if bad then "E" else "G")))]
  braced [member "FV" (quoted (ascii "1.0")), member "GI" (quoted (ascii (partName v))), member "GS" (quoted (hexText Config.serial)),
    member "GV" (quoted (wholeText ver)), member "PG" (quoted (ascii "T" ++ wholeText (uN b 8 8))), member "IS" (ascii "true"),
    member "IT" (quoted (ascii (if Config.tagIs15118 r.idTag then "ISO15118" else "ISO14443"))), member "ID" (quoted (hexText r.idTag)),
    member "RD" (ascii "[" ++ reading (uN b 0x48 8) "01-00:01.08.00" ++ ascii "," ++ reading (uN b 0x50 8) "01-00:02.08.00" ++ ascii "]")]

/-- An OCMF string: its data and its signature with SA and SE (R240). -/
def ocmfString (data sig : List Byte) : List Byte :=
  ascii "OCMF|" ++ data ++ ascii "|"
    ++ braced [member "SA" (quoted (ascii "ECDSA-secp256r1-SHA256")), member "SE" (quoted (ascii "hex")), member "SD" (quoted (hexText sig))]

/-- A key that Assay may sign records with (R238, R240): of the algorithm, its own, generated in Coffer, not exportable, with usage HALLMARK. -/
def State.recordKey (s : State) (slot alg : Nat) : Option (List Byte) :=
  if s.slotAlg slot = alg ∧ s.fld F.CFR_SLOT_ATTR_LO_OWNER slot = 5 ∧ s.fld F.CFR_SLOT_ATTR_LO_ORIGIN slot = 0
      ∧ s.fld F.CFR_SLOT_ATTR_LO_EXPORT slot = 0 then s.slotKey slot 5 8
  else none

/-- The OCMF string of a TXN_START or TXN_STOP record, signed with ECDSA P-256 over its data (R240). -/
def State.encodeOcmf (s : State) (r : HmkRec) : State :=
  if u16 r.bytes 4 = 1 ∨ u16 r.bytes 4 = 2 then
    match s.recordKey Config.ocmfSlot 3 with
    | some k =>
      let data := ocmfData s.sys.variant (s.reg .ASY_LEGAL_VER).toNat r
      (s.onAsy fun a => { a with ocmf := a.ocmf ++ [ocmfString data (Config.sign 3 k data false (s.fresh 256))] }).tick
    | none => s
  else s

/-- The oldest unsigned record is signed (R238): PREV_HASH, the signature of ML-DSA-65 with the Hallmark key, and its delivery. While an older
one waits for a slot, none is (R235). -/
def State.signFront (s : State) : State :=
  match s.asy.log.find? fun r => decide (r.stage = 0) && s.asy.queue.all fun q => decide (r.rseq < q.rseq) with
  | none => s
  | some r =>
    match s.recordKey Config.hallmarkSlot 1 with
    | none => s
    | some k =>
      let b := r.bytes.take 0x28 ++ s.asy.lastHash ++ r.bytes.drop 0x48
      let sig := Config.sign 1 k b false (s.fresh 256)
      let tr := [1, 0] ++ leBytes 2 Config.hallmarkSlot ++ leBytes 2 sig.length ++ leBytes 2 0 ++ sig
      let t := (s.onAsy fun a => { a with
        lastHash := sha256 (b ++ tr)
        log := a.log.map fun x => if x.rseq = r.rseq then { x with bytes := b, trailer := tr, stage := 1 } else x }).tick
      ((t.encodeOcmf { r with bytes := b }).showLog).deliverLog

/-- The Hallmark ring restarts: records that it delivered and that software has not acknowledged are delivered again (R239). -/
def State.redeliver (s : State) : State :=
  s.onAsy fun a => { a with log := a.log.map fun r => if r.stage = 2 then { r with stage := 1 } else r }

/-! ### Intervals and tariff switches (R243 to R245, R252) -/

/-- The first grid instant after an instant, in µs (R245). -/
def nextGrid (anchor len after : Nat) : Nat :=
  let l := max len 1 * 1000000
  if after < anchor then anchor - (anchor - after - 1) / l * l else anchor + ((after - anchor) / l + 1) * l

/-- The next interval boundary, in µs: of the running grid, or the anchor of a new one. -/
def State.boundary (s : State) : Nat :=
  let g := nextGrid (s.pair .ASY_INT_ANCHOR_LO .ASY_INT_ANCHOR_HI) (s.fld F.ASY_INT_CFG_LEN) s.asy.from_
  match s.asy.newGrid with
  | some (_, a) => min g a
  | none => g

/-- The next switch instant. -/
def State.nextSwitch (s : State) : Option Nat := (s.asy.switches.map fun w => w.at_).min?

/-- ASY_TARIFF.PENDING of every point. -/
def State.showSwitches (s : State) : State :=
  s.each (List.range 34) fun n t =>
    t.setFld F.ASY_TARIFF_PENDING n (s.asy.switches.filter fun w => w.mask.testBit n).length

/-- The tariff of a point after the switches due at an instant. -/
def State.tariffAt (s : State) (d n : Nat) : Nat :=
  match (s.asy.switches.filter fun w => decide (w.at_ = d) && w.mask.testBit n).getLast? with
  | some w => w.tariff
  | none => s.tariff n

/-- A point's part in a boundary at instant `d`. -/
def State.heldPt (s : State) (d flags n : Nat) : HeldPt :=
  let m := s.asy.meters.get n
  { pt := n, old := s.tariff n, new := s.tariffAt d n, from_ := s.asy.fromAcc.get n, imp := s.meterAcc n 0, exp_ := s.meterAcc n 1, net := s.meterAcc n 2,
    reg := (s.treg n (s.tariff n) 0, s.treg n (s.tariff n) 1),
    flags := flags ||| s.ptBits n ||| (if m.gapped || m.gap.isSome || !s.asy.metered then 16 else 0) }

/-- The interval state, which a boundary changes. -/
def State.grid (s : State) : Grid :=
  ⟨s.asy.from_, s.asy.merged, s.asy.newGrid, s.fld F.ASY_INT_CFG_LEN, s.pair .ASY_INT_ANCHOR_LO .ASY_INT_ANCHOR_HI⟩
def State.setGrid (s : State) (g : Grid) : State :=
  ((s.setFld F.ASY_INT_CFG_LEN 0 g.len).setPair .ASY_INT_ANCHOR_LO .ASY_INT_ANCHOR_HI 0 g.anchor).onAsy fun a =>
    { a with from_ := g.from_, merged := g.merged, newGrid := g.newGrid }

/-- The interval state after a boundary at `d`: while the queue of 64 is full the interval joins the next one (R239); an ordered grid
takes effect at its anchor (R245). -/
def Grid.close (g : Grid) (d : Nat) (full : Bool) : Grid :=
  let g := { g with from_ := d, merged := if full then some (g.merged.getD g.from_) else none }
  match g.newGrid with
  | some (len, a) => if a = d then { g with newGrid := none, len := len, anchor := a } else g
  | none => g

/-- Take the boundary or the switch due at instant `d` (in µs): what comes after belongs to the next interval and to the new
tariff. While the queue of 64 is full a boundary writes no record, and the next one covers it (R239). -/
def State.takeAt (s : State) (d extra : Nat) : State :=
  let g := s.grid
  let closes := decide (s.boundary = d)
  let full := decide (64 ≤ s.asy.queue.length)
  let short := closes && decide (nextGrid g.anchor g.len g.from_ ≠ d)
  let due := (s.asy.switches.filter fun w => decide (w.at_ = d))
  let flags := extra + (if short then 0x200 else 0) + (if closes && g.merged.isSome && !full then 0x100 else 0)
  let h : Held_ := ⟨d, if closes && !full then some (g.merged.getD g.from_) else none, decide (due ≠ []), flags, s.ptsOn.map (s.heldPt d extra), due, g⟩
  let t := s.onAsy fun a => { a with
    held := if h.closes.isSome || h.switches then a.held ++ [h] else a.held
    switches := a.switches.filter fun w => decide (w.at_ ≠ d) }
  let t := (t.each (List.range 34) fun n t =>
    let new := s.tariffAt d n
    if new = s.tariff n then t
    else (t.setFld F.ASY_TARIFF_ACTIVE n new).onAsy fun a => { a with prevT := a.prevT.set n (s.tariff n) }).showSwitches
  if !closes then t
  else
    let t := t.setGrid (g.close d full)
    if full then t
    else t.each s.ptsOn fun n t =>
      (t.onMeter n fun m => { m with gapped := m.gap.isSome }).onAsy fun a => { a with fromAcc := a.fromAcc.set n (s.meterAcc n 0, s.meterAcc n 1) }

/-- The body of an INTERVAL_CLOSE (R237). -/
def Held_.intervalBody (h : Held_) (start : Nat) : List Byte :=
  leBytes 8 start ++ leBytes 1 h.pts.length ++ leBytes 7 0 ++ h.pts.flatMap fun p =>
    leBytes 1 p.pt ++ leBytes 1 p.old ++ leBytes 2 p.flags ++ leBytes 4 0
      ++ leBytes 8 (p.imp.floor - p.from_.1.floor).toNat ++ leBytes 8 (p.exp_.floor - p.from_.2.floor).toNat
      ++ leBytes 8 p.imp.floor.toNat ++ leBytes 8 p.exp_.floor.toNat ++ leBytes 8 (unsignedOf 64 p.net.floor)

/-- The body of a TARIFF_SWITCH (R237). -/
def Held_.switchBody (h : Held_) : List Byte :=
  leBytes 1 h.pts.length ++ leBytes 7 0 ++ h.pts.flatMap fun p =>
    leBytes 1 p.pt ++ leBytes 1 p.old ++ leBytes 1 p.new ++ leBytes 5 0 ++ leBytes 8 p.reg.1.floor.toNat ++ leBytes 8 p.reg.2.floor.toNat

/-- The sub-records of a boundary, in the order of R252. -/
def Held_.parts (h : Held_) : List (Nat × List Byte) :=
  (match h.closes with | some st => [(3, h.intervalBody st)] | none => []) ++ (if h.switches then [(4, h.switchBody)] else [])

/-- The body of a COMPOUND record (R237). -/
def compound (l : List (Nat × List Byte)) : List Byte :=
  l.flatMap fun p => leBytes 2 p.1 ++ leBytes 2 p.2.length ++ leBytes 4 0 ++ p.2

/-- Write the record of the oldest boundary that was taken: one record, or a COMPOUND of coinciding events (R252). -/
def State.commitHeld (s : State) : State :=
  match s.asy.held with
  | [] => s
  | h :: rest =>
    let t := s.onAsy fun a => { a with held := rest }
    match h.parts with
    | [] => t
    | [p] => t.writeRec ⟨p.1, h.flags, 0xFFFF, 0, h.at_⟩ p.2
    | l => t.writeRec ⟨8, h.flags, 0xFFFF, 0, h.at_⟩ (compound l)

/-- Take what is due first at an instant (in half µs). -/
def State.takeDue (s : State) (t extra : Nat) : State :=
  let d := match s.nextSwitch with | some w => min w s.boundary | none => s.boundary
  if 2 * d ≤ t ∧ 0 < s.fld F.ASY_INT_CFG_LEN then s.takeAt d extra else s

/-- Take everything due at an instant, in its order: each switch that waits, and the boundaries, at most two of which can fall due between two
samples or in the 100 ms that a start adds. -/
def State.takeAll (s : State) (t extra : Nat) : State :=
  s.each (List.range (s.asy.switches.length + 3)) fun _ u => u.takeDue t extra

/-! ### Booking (R218, R226, R243, R253) -/

/-- A pulse starts at an instant (R226): its width is WIDTH, or half the time since the start of the previous one. -/
def State.startPulse (s : State) (t at_ : Nat) : State :=
  let x := s.asy.tpos.get t
  let width := 2000 * s.fld F.ASY_TPO_CFG_WIDTH t
  let w := match x.start with | some st => min width ((at_ - st) / 4 * 2) | none => width
  s.onAsy fun a => { a with tpos := a.tpos.set t { x with high := true, start := some at_, fall := at_ + w } }

/-- A pulse falls due (R226): it starts, or waits in PENDING. -/
def State.pulseDue (s : State) (t : Nat) : State :=
  let x := s.asy.tpos.get t
  let pend := s.fld F.ASY_TPO_STAT_PENDING t
  if x.high = false ∧ pend = 0 ∧ (x.start = none ∨ x.fall + 10 ≤ s.asy.now) then s.startPulse t s.asy.now
  else if pend = 65535 then s.setFld F.ASY_TPO_STAT_OVF t 1
  else s.setFld F.ASY_TPO_STAT_PENDING t (pend + 1)

/-- TEST_PULSE (R226): a test accumulator takes an energy. -/
def State.feedTpo (s : State) (t : Nat) (imp exp_ : Rat) : State :=
  let q := s.fld F.ASY_TPO_CFG_QTY t
  let step : Rat := 1000000000 / (s.fld F.ASY_TPO_CFG_CONST t : Rat)
  let sum := (s.asy.tpos.get t).acc + (if q = 1 then 0 else imp) + (if q = 0 then 0 else exp_)
  if s.fld F.ASY_TPO_CFG_CONST t = 0 then s
  else
    let k := (sum / step).floor.toNat
    let u := s.onAsy fun a => { a with tpos := a.tpos.upd t fun x => { x with acc := sum - k * step } }
    u.each (List.range k) fun _ u => u.pulseDue t

/-- An output is reported EXHAUSTED until its transaction stops (R223, R253, R254). -/
def State.exhaust (s : State) (o : Nat) : State := s.setFld F.ASY_PREPAY_STAT_EXHAUSTED o 1

/-- CREDIT_EXHAUSTED (R253): LOW and EXHAUSTED follow the credit; at exhaustion, once in a transaction, 0BA2h is reported and the contactor
is to open (R254), whether or not the output was EXHAUSTED for another reason. -/
def State.judgeCredit (s : State) (o : Nat) : State :=
  let low := decide (s.credit o ≤ ((s.asy.disc.get o).low : Rat))
  let t := if low && !s.flag F.ASY_PREPAY_STAT_LOW o then (s.setFld F.ASY_PREPAY_STAT_LOW o 1).report 0x0BA1 o else s
  if s.credit o ≤ 0 ∧ (s.asy.disc.get o).spent = false then
    ((t.exhaust o).report 0x0BA2 o).onDisc o fun d => { d with
      spent := true, asked := if d.cmdPt.isSome then some (d.asked.getD s.asy.now) else none }
  else t

/-- An AC cycle's energy, booked after a boundary that its end precedes, goes to the records of that boundary that wait, and to the
interval before the running one (R243). -/
def State.bookLate (s : State) (n : Nat) (imp exp_ net : Rat) (tariff end_ : Nat) : State :=
  let grow (p : HeldPt) : HeldPt :=
    { p with imp := p.imp + imp, exp_ := p.exp_ + exp_, net := p.net + net, reg := if p.old = tariff then (p.reg.1 + imp, p.reg.2 + exp_) else p.reg }
  s.onAsy fun a => { a with
    fromAcc := if end_ < 2 * a.merged.getD a.from_ then a.fromAcc.upd n fun p => (p.1 + imp, p.2 + exp_) else a.fromAcc
    held := a.held.map fun h => if end_ < 2 * h.at_ then { h with pts := h.pts.map fun p => if p.pt = n then grow p else p } else h }

/-- BOOKING (R218): an energy goes to the accumulators, to the tariff register, to the credit and to the test outputs. A DC sample belongs
to the interval in force, an AC cycle to that of its end (R243). -/
def State.book (s : State) (n : Nat) (e : Rat) (tariff : Nat) (end_ : Option Nat) : State :=
  let abs_ := s.flag F.ASY_PT_CFG_MODE n
  let q := quantum |e|
  let imp := if abs_ || decide (0 ≤ e) then q else 0
  let exp_ := if abs_ || decide (0 ≤ e) then 0 else q
  let net := imp - exp_
  let t := ((s.addAcc n 0 imp).addAcc n 1 exp_).addAcc n 2 net
  let t := (t.setTreg n tariff 0 (s.treg n tariff 0 + imp)).setTreg n tariff 1 (s.treg n tariff 1 + exp_)
  let t := match end_ with | some x => t.bookLate n imp exp_ net tariff x | none => t
  let o := s.ptOut n
  let t := if n < 32 ∧ s.flag F.ASY_PREPAY_STAT_PREPAY o ∧ (s.asy.txns.get n).isSome then
      (t.setCredit o (s.credit o - imp)).judgeCredit o
    else t
  t.each ((List.range 4).filter fun k => s.flag F.ASY_TPO_CFG_EN k && decide (s.fld F.ASY_TPO_CFG_POINT k = n)) fun k u =>
    u.feedTpo k imp exp_

/-! ### Transactions and the disconnect contactor (R241, R242, R253, R254) -/

/-- Write a CMD_PT: only the device that holds the peg, or that has no partner, writes it (R254). -/
def State.discWrite (s : State) (o : Nat) (v : Nat) : State :=
  match (s.asy.disc.get o).cmdPt with
  | some p => if s.holds || !s.flag F.PEG_STAT_LINK then s.writeNum 4 p ⟨v, 0⟩ else s
  | none => s

/-- The state that FB_PT shows, where its quality is good. -/
def State.discShows (s : State) (o : Nat) : Option Bool :=
  match (s.asy.disc.get o).fbPt with
  | some p => (s.goodRat p).map fun x => decide (x ≠ 0)
  | none => none

/-- A DISCONNECT record (R237). -/
def State.discRecord (s : State) (o event : Nat) : State :=
  match s.outPt o with
  | some n =>
    let i := (s.asy.meters.get n).i * 10
    s.writeRec ⟨12, 0, n, match s.asy.txns.get n with | some x => x.number | none => 0, s.lmc⟩
      (leBytes 1 event ++ leBytes 3 0 ++ leBytes 4 (unsignedOf 32 (roundDiv i.num i.den)))
  | none => s.writeRec ⟨12, 0, 0xFFFF, 0, s.lmc⟩ (leBytes 1 event ++ leBytes 7 0)

/-- The contactor reached the commanded state: DISC follows, and a closing is recorded (R254). Without FB_PT the commanded
state is taken at once. -/
def State.discPoll (s : State) (o : Nat) : State :=
  let d := s.fld F.ASY_PREPAY_STAT_DISC o
  let sees (v : Bool) : Bool := decide (s.discShows o = some v) || (s.asy.disc.get o).fbPt.isNone
  if d = 1 ∧ sees true then (s.setFld F.ASY_PREPAY_STAT_DISC o 2).discRecord o 5
  else if d = 3 ∧ sees false then s.setFld F.ASY_PREPAY_STAT_DISC o 0
  else s

/-- Close the contactor at an accepted TXN_START; an output without CMD_PT has none. -/
def State.discClose (s : State) (o : Nat) : State :=
  if (s.asy.disc.get o).cmdPt.isNone then s
  else ((s.discWrite o 1).setFld F.ASY_PREPAY_STAT_DISC o 1).onDisc o fun d => { d with asked := none, cmdAt := s.asy.now }

/-- Write 0 to CMD_PT, with the record of its event. -/
def State.discOpen (s : State) (o event : Nat) : State :=
  (((s.discWrite o 0).setFld F.ASY_PREPAY_STAT_DISC o 3).onDisc o fun d => { d with asked := none, cmdAt := s.asy.now }).discRecord o event

/-- Ask for the opening of a contactor that is not open. -/
def State.discAsk (s : State) (o : Nat) : State :=
  if (s.asy.disc.get o).cmdPt.isSome ∧ (s.fld F.ASY_PREPAY_STAT_DISC o = 1 ∨ s.fld F.ASY_PREPAY_STAT_DISC o = 2) then
    s.onDisc o fun d => { d with asked := some (d.asked.getD s.asy.now) }
  else s

/-- A disconnect fault (R254): FAULT and EXHAUSTED until the transaction stops. -/
def State.discFault (s : State) (o event : Nat) : State :=
  (((s.discRecord o event).setFld F.ASY_PREPAY_STAT_FAULT o 1).exhaust o).report 0x0B26 o

/-- End a transaction (R237, R251, R254): an open gap of its point is closed first, and a new one opens while METER_FAULT goes on; TXN_STOP
is written, the contactor is to open, and EXHAUSTED is lifted. -/
def State.stopTxn (s : State) (n reason : Nat) : State :=
  match (s.closeGap n).asy.txns.get n with
  | none => s
  | some x =>
    let s := s.closeGap n
    let o := s.ptOut n
    let di := (s.meterAcc n 0).floor - x.imp
    let de := (s.meterAcc n 1).floor - x.exp_
    let body := s.reading n ++ leBytes 1 reason ++ leBytes 7 0 ++ leBytes 8 di.toNat ++ leBytes 8 de.toNat ++ leBytes 8 x.bound
      ++ leBytes 8 (unsignedOf 64 (s.creditInt o))
    let t := s.writeRec ⟨2, if 0 < x.bound then 16 else 0, n, x.number, s.lmc⟩ body
    let t := ((t.onAsy fun a => { a with txns := a.txns.set n none }).onDisc o fun d => { d with spent := false }).reopenGap n
    let disc := t.fld F.ASY_PREPAY_STAT_DISC o
    ((t.setReg .ASY_PREPAY_STAT o 0).setFld F.ASY_PREPAY_STAT_DISC o disc).discAsk o

/-! ### The energy save (R450) -/

/-- Base of save slot `k`. -/
def saveAddr (k : Nat) : Nat := 0x21380000 + 4096 * (k % 64)

/-- ENTRY[n] of a save slot. -/
def State.saveEntry (s : State) (n : Nat) : List Byte :=
  let whole (q : Rat) : List Byte := leBytes 8 (unsignedOf 64 q.floor)
  let rest (q : Rat) : List Byte := leBytes 4 (residue q)
  let act := s.tariff n
  let prev := s.asy.prevT.get n
  whole (s.meterAcc n 0) ++ whole (s.meterAcc n 1) ++ whole (s.meterAcc n 2) ++ rest (s.meterAcc n 0) ++ rest (s.meterAcc n 1) ++ rest (s.meterAcc n 2)
    ++ leBytes 1 act ++ leBytes 1 prev ++ leBytes 2 0
    ++ whole (s.treg n act 0) ++ whole (s.treg n act 1) ++ rest (s.treg n act 0) ++ rest (s.treg n act 1)
    ++ whole (s.treg n prev 0) ++ whole (s.treg n prev 1) ++ rest (s.treg n prev 0) ++ rest (s.treg n prev 1)
    ++ leBytes 8 (if n < 32 then unsignedOf 64 (s.creditInt (s.ptOut n)) else 0)

/-- Write a save slot (R450), its check word last. -/
def State.saveEnergy (s : State) (us : Nat) (final : Bool) : State :=
  let k := s.asy.saveSeq
  let b := [0x53, 0x56, 0x52, 0x47] ++ leBytes 4 k ++ leBytes 8 us ++ leBytes 8 (s.pair .ASY_RSEQ_LO .ASY_RSEQ_HI)
    ++ leBytes 2 ((if final then 1 else 0) + (if s.flag F.ASY_SEAL_CNT_OPEN then 2 else 0)) ++ leBytes 2 34 ++ leBytes 4 0
    ++ (List.range 34).flatMap s.saveEntry
  (s.setBytes (saveAddr k) (b ++ leBytes 4 (crc32c b) ++ leBytes 796 0)).onAsy fun a => { a with saveSeq := k + 1, savedAt := us }

/-- A save slot of memory is valid; a word of it that cannot be read (R21) leaves it out. -/
def State.saveValid (s : State) (k : Nat) : Bool :=
  !s.eccIn (saveAddr k) 0xCE4 && decide (s.bytes (saveAddr k) 4 = [0x53, 0x56, 0x52, 0x47]) && decide (s.le (saveAddr k + 0xCE0) 4 = crc32c (s.bytes (saveAddr k) 0xCE0))

/-- The valid slot with the highest SEQ: its address. -/
def State.bestSave (s : State) : Option Nat :=
  ((List.range 64).filter s.saveValid).foldl (fun m k =>
    match m with
    | some a => if s.le (a + 4) 4 < s.le (saveAddr k + 4) 4 then some (saveAddr k) else m
    | none => some (saveAddr k)) none

/-- Take the accumulators, tariff numbers and registers, and the credit of a point from a slot. -/
def State.loadEntry (s : State) (a n : Nat) : State :=
  let o := a + 0x20 + 96 * n
  let amt (w r : Nat) : Rat := (s.le (o + w) 8 : Rat) + (s.le (o + r) 4 : Rat) / 2 ^ 32
  let act := s.le (o + 36) 1
  let prev := s.le (o + 37) 1
  let put (t : State) (q w r : Nat) : State := t.setAmount .ASY_ACC_LO .ASY_ACC_HI (3 * n + q) (3 * n + q) (amt w r)
  let t := put (put (put s 0 0 24) 1 8 28) 2 16 32
  let t := (t.setTreg n prev 0 (amt 64 80)).setTreg n prev 1 (amt 72 84)
  let t := (t.setTreg n act 0 (amt 40 56)).setTreg n act 1 (amt 48 60)
  let t := (t.setFld F.ASY_TARIFF_ACTIVE n act).onAsy fun x => { x with prevT := x.prevT.set n prev }
  if n < 32 ∧ s.ptOn n then t.setCredit (s.ptOut n) (signed 64 (s.le (o + 88) 8) : Int) else t

end Sys2Proof.Machine
end

