-- ==== Sys2Proof/Machine/Assay.lean ====
section
/-! DEFINITION. The Assay's sample chain: scaling, power, booking, cross-checks, meter faults, test pulses, power quality, legal
time and the heat task (file 08, R212 to R231; R248, R250). -/

namespace Sys2Proof.Machine

open Sys2Proof

/-! ### Channels (R214) -/

/-- (code − OFS) × GAIN of a channel. -/
def State.scaled (s : State) (c : Nat) (code : Int) : Rat := ((code - signed 22 (s.fld F.ASY_CH_OFS_OFS c) : Int) : Rat) * s.gain c

/-- A value of an AC channel of converter `conv`: a Rogowski channel is integrated, then the channel's delay applies. A delay of
0 leaves the value. -/
def State.acValue (s : State) (conv c : Nat) (rogowski : Bool) (code : Int) : Rat × State :=
  let key := 100 * conv + c
  let x := s.scaled c code
  let p := s.asy.integ.get key
  let v := if rogowski then (1 - 1 / 2 ^ 18) * p.2 + (x + p.1) / 32000 else x
  let phc := signed 16 (s.fld F.ASY_CH_PHC_PHC c)
  let y := if phc = 0 then v else Config.fracDelay phc v (s.asy.last.get key)
  (y, s.onAsy fun a => { a with
    integ := if rogowski then a.integ.set key (x, v) else a.integ
    last := if phc = 0 then a.last else a.last.set key v })

/-- The eight values of AC point `a` from one converter. -/
def State.acValues (s : State) (conv a : Nat) (codes : List Int) : List Rat × State :=
  let rog := decide (s.fld F.ASY_PT_CFG_SENSOR (32 + a) = 2)
  (List.range 8).foldl (fun r k =>
    let v := r.2.acValue conv (64 + 8 * a + k) (rog && decide (3 ≤ k ∧ k ≤ 6)) (codes.getD (8 * a + k) 0)
    (r.1 ++ [v.1], v.2)) ([], s)

/-- A code at either end of the 22-bit range (R220). -/
def atEnd (v : Int) : Bool := decide (v = -(2 ^ 21) ∨ v = 2 ^ 21 - 1)

/-- OVERRANGE of a booking; 0B86h once per second per point (R220). -/
def State.overrange (s : State) (n : Nat) (v : Bool) : State :=
  let s := s.setFlag F.ASY_PT_STAT_OVERRANGE n v
  let said := match (s.asy.meters.get n).overAt with | some t => decide (s.asy.now < t + 2000000) | none => false
  if v && !said then (s.onMeter n fun m => { m with overAt := some s.asy.now }).report 0x0B86 n else s

/-- ASY_STAT.METER_FAULT follows the DC points. -/
def State.showMeter (s : State) : State :=
  s.setFlag F.ASY_STAT_METER_FAULT 0 ((List.range 32).any fun n => s.flag F.ASY_PT_STAT_METER_FAULT n)

/-! ### DC points (R213, R215, R217, R223) -/

/-- METER_FAULT (R223): the point books nothing, a gap opens, and its output is EXHAUSTED, until its session ends. -/
def State.meterFault (s : State) (n : Nat) : State :=
  let t := ((s.setFld F.ASY_PT_STAT_METER_FAULT n 1).openGap n s.asy.now).onMeter n fun m => { m with good := 0 }
  let t := if (s.asy.txns.get n).isSome then t.exhaust (s.ptOut n) else t
  t.showMeter.report 0x0B08 n

/-- Sums for the 1 s means of a point (R222, R231); after 16,000 samples the means stand. -/
def Meter.feed (m : Meter) (i u p : Rat) : Meter :=
  let m := { m with i := i, u := u, pSum := m.pSum + p, iSum := m.iSum + i, uSum := m.uSum + u, num := m.num + 1 }
  if m.num < 16000 then m
  else { m with
    mean := m.pSum / 16000
    own := some (m.iSum / 16000, m.uSum / 16000)
    other := if m.plN = 0 then none else some (m.plI / m.plN, m.plU / m.plN)
    pSum := 0, iSum := 0, uSum := 0, num := 0, plI := 0, plU := 0, plN := 0 }

/-- A sample of DC point `n`. -/
def State.dcSample (s : State) (x : MeterSample) (n : Nat) : State :=
  let ci := s.fld F.ASY_PT_CFG_I_MOD n
  let cu := s.fld F.ASY_PT_CFG_U_MOD n
  let vi := x.mods.getD ci 0
  let vu := x.mods.getD cu 0
  let stuck := x.stuck.contains ci || x.stuck.contains cu
  let i := s.scaled ci vi
  let u := s.scaled cu vu
  let p0 := u * i - (if s.flag F.ASY_PT_CFG_CLC n then i * i * s.rCbl n else 0)
  let p := if s.flag F.ASY_PT_CFG_DIR n then -p0 else p0
  let t := s.onMeter n fun m => { (m.feed i u p) with
    endI := if atEnd vi then m.endI + 1 else 0
    endU := if atEnd vu then m.endU + 1 else 0
    good := if stuck || atEnd vi || atEnd vu then 0 else m.good + 1 }
  let t := t.onDisc (s.ptOut n) fun d => { d with still := if |i| ≤ 5 then d.still + 1 else 0 }
  let m := t.asy.meters.get n
  let bad := stuck || decide (16000 ≤ m.endI ∨ 16000 ≤ m.endU)
  let t := if bad && !s.flag F.ASY_PT_STAT_METER_FAULT n then t.meterFault n else t
  if t.flag F.ASY_PT_STAT_METER_FAULT n || !s.asy.metered then t
  else
    let low := decide (|i| < (s.fld F.ASY_PT_START_START n : Rat) / 100)
    let t := t.setFlag F.ASY_PT_STAT_BELOW_START n low
    if low then t else (t.overrange n (atEnd vi || atEnd vu)).book n (p * 5 / 288) (s.tariff n) none

/-! ### AC points (R216, R221, R227, R228) -/

/-- A change of an AC point. -/
def State.onAc (s : State) (a : Nat) (f : AcPoint → AcPoint) : State := s.onAsy fun y => { y with ac := y.ac.upd a f }

/-- Two lists added place by place. -/
def addRat (a b : List Rat) : List Rat := List.zipWith (· + ·) a b
def addInt (a b : List Int) : List Int := List.zipWith (· + ·) a b

/-- |√a − √b| > t, for numbers at or above 0, decided without roots. -/
def rootsDiffer (a b t : Rat) : Bool :=
  let d := a + b - t * t
  decide (0 < d ∧ 4 * a * b < d * d)

/-- CHK_TOL of the full-scale RMS, in codes: the RMS of a sine wave over the full range, squared under the root. -/
def State.checkTol (s : State) : Rat := (s.fld F.ASY_CHK_CHK_TOL : Rat) * fullScale / 100000

/-- Two sums of squared codes of one cycle disagree (R221). A full-scale sine has half the square of the full scale. -/
def State.disagree (s : State) (sqA sqB : Int) (nA nB : Nat) : Bool :=
  rootsDiffer (2 * (sqA : Rat) / max nA 1) (2 * (sqB : Rat) / max nB 1) s.checkTol

/-- Converter A, B or C is voted out (bit 0, 1, 2). -/
def State.out (s : State) (k : Nat) : Bool := bitOf (s.fld F.ASY_CHK_OUT) k

/-- Vote a converter out until the next Assay reset; with A out, B is the source (R221). -/
def State.voteOut (s : State) (k : Nat) : State :=
  let t := s.setFld F.ASY_CHK_OUT 0 (withBit (s.fld F.ASY_CHK_OUT) k true)
  (if k = 0 then t.setFld F.ASY_CHK_SOURCE 0 1 else t).report 0x0B06 k

/-- CHECK_FAULT (R221): the AC points book nothing from the cycle on that began at `from_`, and gaps open. -/
def State.checkFault (s : State) (from_ : Nat) : State :=
  let t := ((s.setFld F.ASY_STAT_CHECK_FAULT 0 1).setFld F.ASY_PT_STAT_METER_FAULT 32 1).setFld F.ASY_PT_STAT_METER_FAULT 33 1
  let t := t.each [0, 1] fun a t =>
    (t.onAc a fun p => { p with waiting := p.waiting.filter fun c => decide (c.end_ ≤ from_) })
  let t := t.each ([32, 33].filter s.ptOn) fun n t => t.openGap n from_
  (t.onAsy fun y => { y with cross := { y.cross with dispute := none, agree := 0 } }).report 0x0B07

/-- Converter C starts a new measurement, `turn` places further in its rotation. -/
def State.restartC (s : State) (step : Nat) (dispute : Option (Nat × Nat)) : State :=
  s.onAsy fun y => { y with cross := { y.cross with turn := (y.cross.turn + step) % 19, dispute := dispute, sum := 0, sq := 0, num := 0 } }

/-- The channel that C measures; 16 to 18 are the references. -/
def State.channelC (s : State) : Nat := match s.asy.cross.dispute with | some d => d.1 | none => s.asy.cross.turn

/-- The reference check of C at the end of its measurement (R221): a converter that misses the expected code is voted out. -/
def State.checkReference (s : State) (mine : Bool) : State :=
  let c := s.asy.cross
  let own := s.channelC
  let ref : Rat := if own = 17 then fullScale / 2 else if own = 18 then -(fullScale / 2) else 0
  if mine && decide (16 ≤ own ∧ 0 < c.num ∧ s.out 2 = false) && decide (s.checkTol < |(c.sum : Rat) / c.num - ref|) then s.voteOut 2 else s

/-- The verdict on a disputed channel at the end of the cycle after (R221). -/
def State.verdict (s : State) (a : Nat) (p : AcPoint) (ch from_ : Nat) : State :=
  let k := ch % 8
  let sa := p.cdA.getD k 0
  let sb := p.cdB.getD k 0
  let c := s.asy.cross
  let withA := !s.disagree sa c.sq p.len c.num
  let withB := !s.disagree sb c.sq p.len c.num
  let resume (s : State) : State := s.restartC 0 none
  if !s.disagree sa sb p.len p.len then (resume s).report 0x0B87 ch
  else if s.out 2 then (resume s).checkFault from_
  else if withA && withB then (resume s).report 0x0B87 ch
  else if withA then (resume s).voteOut 1
  else if withB then
    ((resume s).voteOut 0).each [0, 1] fun b t => t.onAc b fun p => { p with
      waiting := p.waiting.map fun c => if from_ < c.end_ then { c with useB := true } else c }
  else (resume s).checkFault from_

/-- CONVERTER_VOTE (R221): at the end of a cycle of point `a`, A and B are compared on its channels; C settles a dispute, checks
the converter that remains, and is checked against its references, under CHECK_FAULT too. -/
def State.converterVote (s : State) (a : Nat) (p : AcPoint) : State :=
  let both := !s.out 0 && !s.out 1
  let diff := (List.range 8).filter fun k => both && s.disagree (p.cdA.getD k 0) (p.cdB.getD k 0) p.len p.len
  let c := s.asy.cross
  let own := s.channelC
  let mine := decide (own / 8 = a) || (decide (16 ≤ own) && decide (a = 0))
  let left := if s.out 0 then p.cdB.getD (own % 8) 0 else p.cdA.getD (own % 8) 0
  let leftBad := !both && mine && decide (own < 16 ∧ 0 < c.num ∧ s.out 2 = false) && s.disagree left c.sq p.len c.num
  let t := (s.setFld F.ASY_CHK_DISPUTES 0 (min (s.fld F.ASY_CHK_DISPUTES + diff.length) 255)).checkReference mine
  if s.flag F.ASY_STAT_CHECK_FAULT then
    let fine := diff = [] ∧ leftBad = false
    let t := t.onAsy fun y => { y with cross := { y.cross with agree := if fine then (if a = 0 then y.cross.agree + 1 else y.cross.agree) else 0 } }
    if mine then t.restartC 1 none else t
  else
    match c.dispute with
    | some (ch, from_) => if ch / 8 = a then t.verdict a p ch from_ else t
    | none =>
      if leftBad then t.checkFault p.start
      else
        match diff with
        | k :: _ => t.restartC 0 (some (8 * a + k, p.start))
        | [] => if mine then t.restartC 1 none else t

/-- Book an AC cycle (R216 to R218) from its converter. -/
def State.bookCycle (s : State) (a : Nat) (c : AcCycle) : State :=
  let n := 32 + a
  if !s.ptOn n then s
  else
    let low := if c.useB then c.lowB else c.lowA
    let t := s.setFlag F.ASY_PT_STAT_BELOW_START n low
    if low then t else (t.overrange n (if c.useB then c.ovrB else c.ovrA)).book n (if c.useB then c.eB else c.eA) c.tariff (some c.end_)

/-- The cycles that wait are booked at once: at the end of metered time. -/
def State.flushAc (s : State) : State :=
  s.each [0, 1] fun a t =>
    let w := (t.asy.ac.get a).waiting
    w.foldl (fun t c => t.bookCycle a c) (t.onAc a fun p => { p with waiting := [] })

/-- The square root of a fraction as binary32, rounded to nearest. -/
def root32 (q : Rat) : W32 :=
  let n := (q * 2 ^ 320).floor.toNat
  let r := Nat.sqrt n
  (fpRound false false (2 * r + (if r * r = n then 0 else 1)) (2 ^ 161)).1

/-- AC_CYCLE_END (R216): the verdicts, the RMS values, the cycle joins those that wait, and the second before it is booked. -/
def State.cycleEnd (s : State) (a : Nat) : State :=
  let n := 32 + a
  let p := s.asy.ac.get a
  let src := s.flag F.ASY_CHK_SOURCE
  let sq := if src then p.sqB else p.sqA
  let s := s.each (List.range 8) fun k t => t.setReg .ASY_CH_RMS (8 * a + k) (root32 (sq.getD k 0 / max p.len 1))
  let f := roundDiv 16000000 (max p.len 1)
  let s := if f < 65536 then s.setFld F.ASY_PQ_STAT_FREQ a f.toNat else (s.setFld F.ASY_PQ_STAT_FREQ a (s.fresh 16).toNat).tick
  let start : Rat := (s.fld F.ASY_PT_START_START n : Rat) / 100
  let below (l : List Rat) : Bool := [3, 4, 5].all fun k => decide (l.getD k 0 / max p.len 1 < start * start)
  let cyc : AcCycle := { start := p.start, end_ := s.asy.now, eA := p.eA, eB := p.eB, lowA := below p.sqA, lowB := below p.sqB, ovrA := p.ovrA,
                         ovrB := p.ovrB, useB := src, tariff := s.tariff n }
  let z := List.replicate 8 (0 : Rat)
  let s := s.onAc a fun p => { p with
    len := 0, start := s.asy.now, eA := 0, eB := 0, sqA := z, sqB := z, cdA := List.replicate 8 0, cdB := List.replicate 8 0
    ovrA := false, ovrB := false
    waiting := if s.flag F.ASY_STAT_CHECK_FAULT || !s.asy.metered then p.waiting else p.waiting ++ [cyc] }
  let s := s.converterVote a p
  match (s.asy.ac.get a).waiting with
  | c :: c2 :: c3 :: rest =>
    (s.onAc a fun p => { p with waiting := c2 :: c3 :: rest }).bookCycle a c
  | _ => s

/-- U_DECL in V. -/
def State.uDecl (s : State) (a : Nat) : Rat := (s.fld F.ASY_PQ_CFG_LO_U_DECL a : Rat) / 10

/-- √x as a multiple of 0.01 % of U_DECL, to nearest, in 16 bits (R228). -/
def State.ofDecl (s : State) (a : Nat) (sq : Rat) : Nat :=
  let u := s.uDecl a
  let q := if u = 0 then Config.byZero sq else sq / (u * u)
  min ((Nat.sqrt (q * 400000000).floor.toNat + 1) / 2) 65535

/-- PQ_EVENT_RECORD (R228): in the legal event log, which holds 1,024, and in the ring that PQ_CONFIG named. -/
def State.pqRecord (s : State) (a typ : Nat) (e : PqEvent) : State :=
  let b := leBytes 8 (e.start / 2) ++ leBytes 4 (min e.halves 0xFFFFFFFF) ++ leBytes 1 typ ++ leBytes 1 (32 + a) ++ leBytes 1 e.phases
    ++ leBytes 1 ((if s.flag F.ASY_STAT_DRIFT then 1 else 0) + (if e.moved then 2 else 0)) ++ leBytes 2 (s.ofDecl a e.extreme) ++ leBytes 14 0
  (s.onAsy fun y => { y with events := (y.events ++ [b]).drop (y.events.length - 1023) }).ringDeliver (s.fld F.ASY_PQ_CFG_HI_RING a) b

/-- One kind of event on a refresh: whether it starts, whether it ends, the phases past the threshold and the extreme value. -/
def State.pqStep (s : State) (a typ : Nat) (flag : Fld) (code : Nat) (now : Option PqEvent) (starts ends : Bool) (phases : Nat)
    (worst : Rat) (worse : Rat → Rat → Rat) : State × Option PqEvent :=
  let ref := s.fld F.ASY_PQ_STAT_REF a
  match now with
  | some e =>
    let e := { e with halves := e.halves + 1, phases := e.phases ||| phases, extreme := worse e.extreme worst, moved := e.moved || decide (e.ref ≠ ref) }
    if ends then ((s.pqRecord a typ e).setFlag flag a false, none) else (s, some e)
  | none =>
    if starts then
      ((s.setFlag flag a true).report code (32 + a),
       some ⟨s.asy.now, 0, phases, worst, ref, false⟩)
    else (s, none)

/-- SAG (R227): the events on a half-cycle refresh of U_rms(1/2). -/
def State.pqRefresh (s : State) (a : Nat) : State :=
  let p := s.asy.ac.get a
  let n : Rat := ((max (p.halfN + p.prevN) 1 : Nat) : Rat)
  let sq := (addRat p.half p.prev).map fun x => x / n
  let u := s.uDecl a
  let lim (pct : Int) : Rat := let v := u * pct / 100; if v < 0 then 0 else v * v
  let sagT : Int := s.fld F.ASY_PQ_CFG_LO_SAG_THR a
  let swellT : Int := s.fld F.ASY_PQ_CFG_LO_SWELL_THR a
  let intT : Int := s.fld F.ASY_PQ_CFG_HI_INT_THR a
  let mask (f : Rat → Bool) : Nat := (List.range 3).foldl (fun m k => if f (sq.getD k 0) then m + 2 ^ k else m) 0
  let low := sq.foldl min (sq.headD 0)
  let high := sq.foldl max (sq.headD 0)
  let s := s.onAc a fun p => { p with urms := sq, prev := p.half, prevN := p.halfN, half := [0, 0, 0], halfN := 0 }
  let r1 := s.pqStep a 1 F.ASY_PQ_STAT_SAG 0x0B82 p.sag (sq.any fun x => decide (x < lim sagT)) (sq.all fun x => decide (lim (sagT + 2) ≤ x))
    (mask fun x => decide (x < lim sagT)) low min
  let r2 := r1.1.pqStep a 2 F.ASY_PQ_STAT_SWELL 0x0B83 p.swell (sq.any fun x => decide (lim swellT < x)) (sq.all fun x => decide (x ≤ lim (swellT - 2)))
    (mask fun x => decide (lim swellT < x)) high max
  let r3 := r2.1.pqStep a 3 F.ASY_PQ_STAT_INT 0x0B84 p.int (sq.all fun x => decide (x < lim intT)) (sq.all fun x => decide (lim (intT + 2) ≤ x))
    (mask fun x => decide (x < lim intT)) low min
  let t := r3.1.onAc a fun p => { p with sag := r1.2, swell := r2.2, int := r3.2 }
  let ref := if lim intT ≤ sq.getD 0 0 then 0 else if lim intT ≤ sq.getD 1 0 then 1 else if lim intT ≤ sq.getD 2 0 then 2 else 3
  if ref = t.fld F.ASY_PQ_STAT_REF a then t
  else (t.setFld F.ASY_PQ_STAT_REF a ref).onAc a fun p => { p with recent := [], avg := none, turn := 0 }

/-- Mean of a list; 0 for none. -/
def meanOf (l : List Rat) : Rat := if l = [] then 0 else l.sum / l.length

/-- A sample of AC point `a` (R214, R216): the sums of the running cycle, and its end where the reference phase crosses zero
upwards between 40 Hz and 70 Hz, or after a nominal period. -/
def State.acSample (s : State) (x : MeterSample) (a : Nat) : State :=
  let n := 32 + a
  let va := s.acValues 0 a x.a
  let vb := va.2.acValues 1 a x.b
  let s := vb.2
  let sign : Rat := if s.flag F.ASY_PT_CFG_DIR n then -1 else 1
  let power (v : List Rat) : Rat := sign * ((List.range 3).map fun k => v.getD k 0 * v.getD (k + 3) 0).sum
  let src := s.flag F.ASY_CHK_SOURCE
  let v := if src then vb.1 else va.1
  let codes (l : List Int) : List Int := (List.range 8).map fun k =>
    let d := l.getD (8 * a + k) 0 - signed 22 (s.fld F.ASY_CH_OFS_OFS (64 + 8 * a + k)); d * d
  let ends (l : List Int) : Bool := (List.range 6).any fun k => atEnd (l.getD (8 * a + k) 0)
  let sqr (l : List Rat) : List Rat := l.map fun y => y * y
  let ref := s.fld F.ASY_PQ_STAT_REF a
  let p := s.asy.ac.get a
  let recent := (v.getD ref 0 :: p.recent).take 16
  let avg := meanOf recent
  let up := match p.avg with | some o => decide (o < 0 ∧ 0 ≤ avg) | none => false
  let down := match p.avg with | some o => decide (0 ≤ o ∧ avg < 0) | none => false
  let hz := if s.fld F.ASY_PQ_CFG_HI_FREQ a = 1 then 60 else 50
  let turn := if ref = 3 then p.turn + hz else 0
  let len := p.len + 1
  let ended := if ref = 3 then decide (16000 ≤ turn) else (up && decide (229 ≤ len)) || decide (400 ≤ len)
  let halved := ended || (if ref = 3 then decide (8000 ≤ turn ∧ p.turn < 8000) else down && decide (115 ≤ p.halfN + 1))
  let s := s.onAc a fun p => { p with
    recent := recent, avg := some avg, len := len, turn := if 16000 ≤ turn then turn - 16000 else turn
    eA := p.eA + power va.1 * 5 / 288, eB := p.eB + power vb.1 * 5 / 288
    sqA := addRat p.sqA (sqr va.1), sqB := addRat p.sqB (sqr vb.1), cdA := addInt p.cdA (codes x.a), cdB := addInt p.cdB (codes x.b)
    ovrA := p.ovrA || ends x.a, ovrB := p.ovrB || ends x.b, half := addRat p.half (sqr (v.take 3)), halfN := p.halfN + 1 }
  let s := s.onMeter n fun m => m.feed 0 0 (power v)
  let s := if ended then s.cycleEnd a else s
  if halved then s.pqRefresh a else s

/-- The code of converter C joins its measurement. -/
def State.sampleC (s : State) (code : Int) : State :=
  let ch := s.channelC
  let d := if ch < 16 then code - signed 22 (s.fld F.ASY_CH_OFS_OFS (64 + ch)) else code
  s.onAsy fun y => { y with cross := { y.cross with sum := y.cross.sum + d, sq := y.cross.sq + d * d, num := y.cross.num + 1 } }

/-! ### Power failure (R248, R250, R252) -/

/-- POWER_FAIL (R248): metered time ends after this sample; open gaps are closed, the record and the final save are committed, every record
with its provisional trailer (R238). Boundaries whose records are not yet written coincide with it (R252). -/
def State.powerFail (s : State) : State :=
  let s := s.flushAc
  let s := s.closeGaps s.asy.now ⟨false, true⟩
  let parts := s.asy.held.flatMap Held_.parts
  let flags := s.asy.held.foldl (fun f h => f ||| h.flags) 0
  let s := if parts = [] then s.writeRec ⟨5, 0, 0xFFFF, 0, s.lmc⟩ s.ptBody ⟨true, true⟩
    else (s.onAsy fun a => { a with held := [] }).writeRec ⟨8, flags, 0xFFFF, 0, s.lmc⟩ (compound (parts ++ [(5, s.ptBody)])) ⟨true, true⟩
  (s.saveEnergy s.lmc true).onAsy fun a => { a with metered := false, endAt := a.now }

/-- A gap is open at every point in METER_FAULT or under CHECK_FAULT. -/
def State.openFaultGaps (s : State) : State := s.each (List.range 34) fun n t => t.when (t.ptOn n) fun u => u.reopenGap n

/-- POWER_UP (R250): metered time resumes at the next sample, with a gap over the unmetered span. -/
def State.powerUp (s : State) : State :=
  let t := s.writeRec ⟨7, 0, 0xFFFF, 0, s.lmc⟩ s.ptBody
  let t := t.gapRecord t.ptsOn s.asy.endAt (s.asy.now - s.asy.endAt) 2 16 ⟨true, false⟩
  (t.onAsy fun a => { a with metered := true }).openFaultGaps

/-! ### The sample (R220) -/

/-- What falls due on the counter by the present sample is taken before it: a sample at or after a boundary or a switch belongs to what
follows (R243, R244). -/
def State.boundaryPassed (s : State) (extra : Nat) : State := s.takeAll s.asy.now extra

/-- The drift window at a sample (R225): the first sample at or after its end, 2^20 steps on, ends it. DESIGN CHOICE (log entry 37): the
stroke count at the end is interpolated between the samples beside it. A period seen to change discards the window. -/
def State.driftStep (s : State) : State :=
  let a := s.asy
  let mixed := a.driftMixed || decide (a.driftPeriod ≠ s.period)
  let b := a.driftAt + 2 ^ 20
  let t := s.onAsy fun a => { a with driftSeen := s.now, driftMixed := mixed }
  if a.now < 2 * b then t
  else
    let c := a.driftSeen + (s.now - a.driftSeen) * (2 * b + 125 - a.now) / 125
    t.onAsy fun a => { a with
      driftAt := b, driftStroke := c, driftPeriod := s.period, driftMixed := false, driftDone := if mixed then none else some (c - a.driftStroke) }

/-- ASSAY_SAMPLE (R220): in its order; then the counter moves on by 62.5 µs. -/
def State.assaySample (s : State) (x : MeterSample) : State :=
  let s := s.driftStep.boundaryPassed 0
  let ended := !s.asy.metered && !x.pfw
  let s := s.sampleC x.c
  let s := s.each ((List.range 32).filter s.ptOn) fun n t => t.dcSample x n
  let s := s.each [0, 1] fun a t => t.acSample x a
  let s := s.each (List.range 32) fun o t => if t.fld F.ASY_PREPAY_STAT_DISC o = 1 ∨ t.fld F.ASY_PREPAY_STAT_DISC o = 3 then t.discPoll o else t
  let s := if s.asy.metered && x.pfw then s.powerFail else if ended then s.powerUp else s
  s.onAsy fun a => { a with now := a.now + 125 }

def execAssaySample (x : MeterSample) (s : State) : Host.Outcome State Fault Refusal :=
  .next (s.live 5 (if s.flag F.ASY_STAT_RUN then s.assaySample x else s))

/-- ASSAY_CHECK_FAULT_END (R221): 100 agreeing cycles; booking resumes and the gap is closed. -/
def execAssayCheckFaultEnd (s : State) : Host.Outcome State Fault Refusal :=
  .next (s.live 5 (if s.flag F.ASY_STAT_CHECK_FAULT ∧ 100 ≤ s.asy.cross.agree then
      (((s.setFld F.ASY_STAT_CHECK_FAULT 0 0).setFld F.ASY_PT_STAT_METER_FAULT 32 0).setFld F.ASY_PT_STAT_METER_FAULT 33 0).closeAcGaps
    else s))

/-- METER_FAULT_END (R223): 16 good outputs of both inputs; the gap is closed. -/
def execMeterFaultEnd (n : Nat) (s : State) : Host.Outcome State Fault Refusal :=
  .next (s.live 5 (if s.flag F.ASY_PT_STAT_METER_FAULT n ∧ 16 ≤ (s.asy.meters.get n).good then
      ((s.setFld F.ASY_PT_STAT_METER_FAULT n 0).closeGap n).showMeter
    else s))

/-- DC_PLAUSIBILITY (R222): the means of a second are compared; PLAUS is set after 10 bad seconds and clears after 10 good ones. -/
def State.plausible (s : State) (n : Nat) : State :=
  let m := s.asy.meters.get n
  match m.own, m.other with
  | some (i, u), some (pi, pu) =>
    let o := s.ptOut n
    let tol : Rat := (s.fld F.ASY_PT_CFG_DC_TOL n : Rat) / 1000
    let off := decide (tol * ((s.outMax o : Rat) / 10) < |i - pi| ∨ tol * Config.voltRating o < |u - pu|)
    let bad := if off then m.bad + 1 else 0
    let ok := if off then 0 else m.ok + 1
    let t := s.onMeter n fun m => { m with bad := bad, ok := ok, own := none, other := none }
    if 10 ≤ bad ∧ s.flag F.ASY_PT_STAT_PLAUS n = false then (t.setFld F.ASY_PT_STAT_PLAUS n 1).report 0x0B85 n
    else if 10 ≤ ok then t.setFld F.ASY_PT_STAT_PLAUS n 0
    else t
  | _, _ => s

def execDcPlausibility (n : Nat) (s : State) : Host.Outcome State Fault Refusal := .next (s.live 5 (s.plausible n))

/-- ENERGY_SAVE (R450): at a multiple of 100,000 µs, a save slot. -/
def execEnergySave (s : State) : Host.Outcome State Fault Refusal :=
  .next (s.live 5 (if s.flag F.ASY_STAT_RUN ∧ s.asy.metered = true ∧ s.asy.savedAt / 100000 < s.lmc / 100000 then
      s.saveEnergy (s.lmc / 100000 * 100000) false
    else s))

/-- The difference between 2^20 steps and `n` strokes, in ppm of the span (R225). -/
def State.driftPpm (s : State) (n : Nat) : Rat := ((2 ^ 20 : Rat) - (n : Rat) * s.asy.driftPeriod / 100) / 2 ^ 20 * 1000000

/-- DRIFT (R225): a finished window of 2^20 steps is judged against its strokes. -/
def State.driftWindow (s : State) : State :=
  match s.asy.driftDone with
  | none => s
  | some n =>
    let ppm := s.driftPpm n
    let t := s.setFld F.ASY_DRIFT_PPM 0 (unsignedOf 16 (clampInt (-32768) 32767 (roundDiv ppm.num ppm.den)))
    let ok := if |ppm| ≤ 400 then s.asy.driftOk + 1 else 0
    let t := t.onAsy fun a => { a with driftOk := ok, driftDone := none }
    if 500 < |ppm| ∧ s.flag F.ASY_STAT_DRIFT = false then ((t.setFld F.ASY_STAT_DRIFT 0 1).report 0x0B81).showSync
    else if 10 ≤ ok then (t.setFld F.ASY_STAT_DRIFT 0 0).showSync
    else t

def execDrift (s : State) : Host.Outcome State Fault Refusal := .next (s.live 5 s.driftWindow)

/-- TEST_PULSE_END (R226): the width expired and the output falls. -/
def execTestPulseEnd (t : Nat) (s : State) : Host.Outcome State Fault Refusal :=
  .next (s.live 5 (s.onAsy fun a => { a with tpos := a.tpos.upd t fun x => { x with high := false } }))

/-- PENDING_PULSE_START (R226): 5 µs after the fall the next pulse that waits starts. -/
def execPendingPulseStart (t : Nat) (s : State) : Host.Outcome State Fault Refusal :=
  .next (s.live 5 (let x := s.asy.tpos.get t
    let n := s.fld F.ASY_TPO_STAT_PENDING t
    if x.high = false ∧ 0 < n then (s.setFld F.ASY_TPO_STAT_PENDING t (n - 1)).startPulse t (x.fall + 10) else s))

/-! ### The heat task (R231) -/

/-- An output is EXHAUSTED: until its transaction stops, while its meter fails, while the log is full, or while the task is
stopped. -/
def State.exhausted (s : State) (o : Nat) : Bool :=
  s.flag F.ASY_PREPAY_STAT_EXHAUSTED o || s.flag F.ASY_HMK_STAT_LOG_FULL || s.asy.stopped
    || match s.outPt o with | some n => s.flag F.ASY_PT_STAT_METER_FAULT n | none => false

/-- The states of the outputs as Truss and ASY_PT_STAT see them. -/
def State.publishOutputs (s : State) : State :=
  s.each (List.range 32) fun o t =>
    let t := t.setFlag F.TRS_OUT_STAT_CREDIT_EX o (s.exhausted o)
    match s.outPt o with | some n => t.setFlag F.ASY_PT_STAT_EXHAUSTED n (s.exhausted o) | none => t

/-- The heat task: states, mean powers in 100 W, and the non-legal readings for the means of R222. -/
def State.assayHeat (s : State) : State :=
  if !s.flag F.ASY_STAT_RUN then s
  else
    let s := (s.onAsy fun a => { a with stopped := false }).publishOutputs
    s.each s.ptsOn fun n t =>
      let m := t.asy.meters.get n
      let p := m.mean / 100
      let t := t.setFld F.ASY_PT_STAT_POWER n (unsignedOf 27 (roundDiv p.num p.den))
      let o := t.ptOut n
      if 32 ≤ n then t
      else match (t.outCurPt o).bind t.goodRat, (t.outVoltPt o).bind t.goodRat with
        | some i, some u => t.onMeter n fun m => { m with plI := m.plI + i, plU := m.plU + u, plN := m.plN + 1 }
        | _, _ => t

/-- TASK_LIMIT (R231): every output is EXHAUSTED until its transaction stops. -/
def State.assayLimit (s : State) : State :=
  let t := s.each ((List.range 32).filter fun o => s.flag F.ASY_PREPAY_STAT_TXN o) fun o t => t.exhaust o
  ((t.onAsy fun a => { a with stopped := true }).publishOutputs).report 0x0B0A

end Sys2Proof.Machine
end

