-- ==== Sys2Proof/Machine/AssayCmd.lean ====
section
/-! DEFINITION. The Assay's commands: the mailbox, the billing and seal commands, the sealed changes, the disconnect events, and
the start of the island (files 08 and 09, R209, R210, R229, R241 to R256). -/

namespace Sys2Proof.Machine

open Sys2Proof

/-! ### The mailbox (R210) -/

/-- The opcodes of R210 and R241. -/
def assayOpcodes : List Nat := [1, 2, 0x20, 0x21, 0x22, 0x23, 0x24, 0x25, 0x26, 0x27, 0x28, 0x29, 0x2A]

/-- Body of a mailbox frame. -/
def mailBody (b : List Byte) : List Byte := slice b 16 (u32 b 8)

/-- A key of an Assay-owned slot with a usage bit signed `msg` (R210, R256). -/
def State.assaySigned (s : State) (usage : Nat) (msg tr : List Byte) : Bool :=
  match trailer tr with
  | some (alg, n, sig) =>
    decide (s.fld F.CFR_SLOT_ATTR_LO_OWNER n = 5) && decide (s.slotAlg n = alg) && decide (alg = 1 ∨ alg = 2)
      && match s.slotKey n 5 usage with
        | some k => Config.sigVerify alg k msg sig false
        | none => false
  | none => false

/-- The code of a frame's checks, in order: format, signature, SEQ, OPCODE; 0 where all pass. -/
def State.mailCheck (s : State) (b : List Byte) : Nat :=
  let n := 16 + u32 b 8
  if b.length < 16 ∨ 0x2000 < b.length ∨ u16 b 2 ≠ 0 ∨ u32 b 12 ≠ 0 ∨ b.length < n ∨ trailer (b.drop n) = none then 0x0B01
  else if !s.assaySigned 7 (b.take n) (b.drop n) then 0x0B02
  else if u32 b 4 ≤ s.asy.seq then 0x0B03
  else if !assayOpcodes.contains (u16 b 0) then 0x0B04
  else 0

/-- The result of a frame. -/
def State.mailDone (s : State) (code : Nat) : State :=
  let t := (((s.setFld F.ASY_MBX_STAT_BUSY 0 0).setFld F.ASY_MBX_STAT_CODE 0 code).onAsy fun a => { a with frame := [] })
  if code = 0x0B00 then t.count 13 1 else t.report code

/-- The Assay bridge on the fabric. -/
def assayPort : Initiator := ⟨8, 0⟩

/-- The bytes of the frame that the mailbox names, read through port 8: none outside SRAM and LPDDR5, at an address that is not 8-byte
aligned, or where the read ends in a bus error (log entry 60). -/
def State.mailFrame (s : State) : Option (List Byte) × State :=
  let a := s.pair .ASY_MBX_ADDR_LO .ASY_MBX_ADDR_HI
  if a % 8 = 0 then s.fetch assayPort a (s.fld F.ASY_MBX_LEN_LEN) else (none, s)

/-- ASY_MBX_GO (R210): the frame is fetched and checked; it is in progress where every check passes. -/
def State.mailGo (s : State) : State :=
  if s.flag F.ASY_MBX_STAT_BUSY then s.report 0x0B09
  else
    let r := s.mailFrame
    match r.1 with
    | none => r.2.mailDone 0x0B01
    | some b =>
      let c := s.mailCheck b
      if c ≠ 0 then r.2.mailDone c
      else (r.2.setFld F.ASY_MBX_STAT_BUSY 0 1).onAsy fun a => { a with frame := b, seq := u32 b 4 }

/-- Serve the frame in progress where it holds this opcode: the answer's code, and the state after. A refusal has no effect but
a bus error of a read that it made. -/
def State.mail (s : State) (opcode : Nat) (f : List Byte → Nat × State) : State :=
  if s.flag F.ASY_MBX_STAT_BUSY && decide (u16 s.asy.frame 0 = opcode) then
    let r := f (mailBody s.asy.frame)
    r.2.mailDone r.1
  else s

/-- A command accepted, and refused. -/
def okMail (s : State) : Nat × State := (0x0B00, s)
def noMail (s : State) (code : Nat) : Nat × State := (code, s)

/-- PQ_CONFIG (R210, R468): one or two images of ASY_PQ_CFG. -/
def execPqConfig (s : State) : Host.Outcome State Fault Refusal :=
  .next (s.live 5 (s.mail 1 fun b =>
    let n := b.length / 8
    if (b.length ≠ 8 ∧ b.length ≠ 16) ∨ (List.range n).any (fun a => !s.ringFits (u32 b (8 * a + 4) % 64) 0 32) then noMail s 0x0B28
    else okMail (s.each (List.range n) fun a t =>
      (t.setReg .ASY_PQ_CFG_LO a (BitVec.ofNat 32 (u32 b (8 * a)))).setReg .ASY_PQ_CFG_HI a
        (BitVec.ofNat 32 (u32 b (8 * a + 4)) &&& 0xFFC0003F))))

/-- The part of an image that a trailer after it, of an Assay-owned slot with a usage bit, signs. -/
def State.signedPart (s : State) (usage : Nat) (im : List Byte) : Option (List Byte) :=
  ((List.range im.length).find? fun k => s.assaySigned usage (im.take k) (im.drop k)).map fun k => im.take k

/-- NONLEGAL_STAGE (R210): a signed image is installed at the next reset of the Assay. DESIGN CHOICE (log entry 61): its trailer names a slot
that permits Assay commands, and an image whose signature fails is refused with 0B02h. -/
def execNonlegalStage (s : State) : Host.Outcome State Fault Refusal :=
  .next (s.live 5 (s.mail 2 fun b => match s.signedPart 7 b with
    | some im => okMail (s.onAsy fun a => { a with staged := some im })
    | none => noMail s 0x0B02))

/-! ### Transactions (R242, R253) -/

/-- The open transaction of a point with a number. -/
def State.txnIs (s : State) (n num : Nat) : Bool := match s.asy.txns.get n with | some x => decide (x.number = num) | none => false

/-- TXN_START (R242). -/
def execTxnStart (s : State) : Host.Outcome State Fault Refusal :=
  .next (s.live 5 (s.mail 0x20 fun b =>
    let n := u8 b 0
    let num := u32 b 4
    let o := s.ptOut n
    if b.length ≠ 48 ∨ 31 < n ∨ 1 < u8 b 1 ∨ u16 b 2 ≠ 0 ∨ num = 0 then noMail s 0x0B28
    else if (s.asy.txns.get n).isSome then noMail s 0x0B20
    else if s.flag F.ASY_PT_STAT_METER_FAULT n then noMail s 0x0B29
    else if s.flag F.ASY_SEAL_CNT_OPEN then noMail s 0x0B21
    else if s.fld F.ASY_HMK_STAT_LOG_FREE < 48 then noMail s 0x0B24
    else
      let x : Txn := ⟨num, decide (u8 b 1 = 1), slice b 16 32, (s.meterAcc n 0).floor.toNat, (s.meterAcc n 1).floor.toNat, 0⟩
      let t := s.discClose o
      let t := ((t.onAsy fun a => { a with txns := a.txns.set n (some x) }).onDisc o fun d => { d with spent := false }).setCredit o
        (signed 64 (uN b 8 8) : Int)
      let t := (t.setFld F.ASY_PREPAY_STAT_TXN o 1).setFlag F.ASY_PREPAY_STAT_PREPAY o x.prepay
      let t := t.writeRec ⟨1, 0, n, num, s.lmc⟩ (s.reading n ++ slice b 16 32 ++ slice b 8 8)
      okMail (if x.prepay then t.judgeCredit o else t)))

/-- TXN_STOP (R241). -/
def execTxnStop (s : State) : Host.Outcome State Fault Refusal :=
  .next (s.live 5 (s.mail 0x21 fun b =>
    if b.length ≠ 8 ∨ 31 < u8 b 0 ∨ uN b 1 3 ≠ 0 then noMail s 0x0B28
    else if !s.txnIs (u8 b 0) (u32 b 4) then noMail s 0x0B20
    else okMail (s.stopTxn (u8 b 0) 1)))

/-- CREDIT_ADD (R253): a credit added after exhaustion does not lift EXHAUSTED. -/
def execCreditAdd (s : State) : Host.Outcome State Fault Refusal :=
  .next (s.live 5 (s.mail 0x22 fun b =>
    let n := u8 b 0
    let o := s.ptOut n
    let amount := signed 64 (uN b 8 8)
    if b.length ≠ 16 ∨ 31 < n ∨ uN b 1 3 ≠ 0 ∨ amount ≤ 0 then noMail s 0x0B28
    else if !s.txnIs n (u32 b 4) then noMail s 0x0B20
    else
      let t := s.setCredit o (s.credit o + amount)
      let t := if ((s.asy.disc.get o).low : Rat) < t.credit o then t.setFld F.ASY_PREPAY_STAT_LOW o 0 else t
      okMail (t.writeRec ⟨13, 0, n, u32 b 4, s.lmc⟩ (leBytes 8 (uN b 8 8) ++ leBytes 8 (unsignedOf 64 (t.creditInt o))))))

/-! ### Tariffs, intervals, the label (R244 to R246) -/

/-- Pending switches without those of some points at an instant. -/
def dropSwitches (l : List Switch) (mask at_ : Nat) : List Switch :=
  (l.map fun w => if w.at_ = at_ then { w with mask := w.mask &&& (2 ^ 34 - 1 - mask % 2 ^ 34) } else w).filter fun w => decide (w.mask ≠ 0)

/-- TARIFF_SCHEDULE (R244). -/
def execTariffSchedule (s : State) : Host.Outcome State Fault Refusal :=
  .next (s.live 5 (s.mail 0x23 fun b =>
    let mask := uN b 0 8
    let at0 := uN b 16 8
    let at_ := if at0 = 0 then (s.lmc / 1000000 + 1) * 1000000 else at0
    let rest := dropSwitches s.asy.switches mask at_
    if b.length ≠ 24 ∨ 2 ^ 34 ≤ mask ∨ 15 < u8 b 8 ∨ uN b 9 7 ≠ 0 ∨ at_ % 1000000 ≠ 0 ∨ (at0 ≠ 0 ∧ at0 < s.lmc + 1000000) then noMail s 0x0B28
    else if 32 ≤ rest.length then noMail s 0x0B25
    else okMail ((s.onAsy fun a => { a with switches := if mask = 0 then rest else rest ++ [⟨at_, mask, u8 b 8⟩] }).showSwitches)))

/-- TARIFF_CANCEL (R244). -/
def execTariffCancel (s : State) : Host.Outcome State Fault Refusal :=
  .next (s.live 5 (s.mail 0x24 fun b =>
    if b.length ≠ 16 ∨ 2 ^ 34 ≤ uN b 0 8 then noMail s 0x0B28
    else okMail ((s.onAsy fun a => { a with switches := dropSwitches a.switches (uN b 0 8) (uN b 8 8) }).showSwitches)))

/-- INTERVAL_SET (R245). -/
def execIntervalSet (s : State) : Host.Outcome State Fault Refusal :=
  .next (s.live 5 (s.mail 0x25 fun b =>
    let len := u32 b 0
    if b.length ≠ 16 ∨ len < 60 ∨ 3600 < len ∨ u32 b 4 ≠ 0 ∨ uN b 8 8 < s.lmc + 1000000 then noMail s 0x0B28
    else okMail (s.onAsy fun a => { a with newGrid := some (len, uN b 8 8) })))

/-- WALL_SET (R246). -/
def execWallSet (s : State) : Host.Outcome State Fault Refusal :=
  .next (s.live 5 (s.mail 0x26 fun b =>
    if b.length ≠ 16 ∨ 1 < u8 b 8 ∨ uN b 9 7 ≠ 0 then noMail s 0x0B28
    else
      let old := s.wallAt s.lmc
      let t := (s.onAsy fun a => { a with wall := some (uN b 0 8, s.lmc, decide (u8 b 8 = 1)) }).showSync
      okMail (t.writeRec ⟨11, 0, 0xFFFF, 0, s.lmc⟩ (leBytes 8 old ++ slice b 0 8 ++ slice b 8 1 ++ leBytes 7 0))))

/-- At a boundary or a switch that is wanted, the record of the oldest one taken is written, once the AC cycles that ended before it are
booked. -/
def State.boundaryRecord (s : State) (want : Held_ → Bool) : State :=
  let t := s.boundaryPassed 0
  match t.asy.held with
  | h :: _ =>
    let waits := [0, 1].any fun a => (t.asy.ac.get a).waiting.any fun c => decide (c.end_ < 2 * h.at_)
    if want h && !waits then t.commitHeld else t
  | [] => t

/-- TARIFF_SWITCH (R244): at its AT the switch is made and its record written. -/
def execTariffSwitch (s : State) : Host.Outcome State Fault Refusal :=
  .next (s.live 5 (if s.flag F.ASY_STAT_RUN then s.boundaryRecord fun h => h.switches else s))

/-- INTERVAL_CLOSE (R245): at a boundary the interval's record is written, once the cycles that ended before it are booked. -/
def execIntervalClose (s : State) : Host.Outcome State Fault Refusal :=
  .next (s.live 5 (if s.flag F.ASY_STAT_RUN then s.boundaryRecord fun h => h.closes.isSome else s))

/-- WALL_UNSYNC (R246): the label is older than 86,400 s. -/
def execWallUnsync (s : State) : Host.Outcome State Fault Refusal := .next (s.live 5 s.showSync)

/-- A point ID of 18 bits, or FFFF_FFFFh for none (R241, R316). -/
def isPtId (w : Nat) : Bool := decide (w < 0x40000 ∨ w = 0xFFFFFFFF)

/-- CONFIG (R241, R468): the Hallmark ring and the disconnect contactor of each output. -/
def execConfig (s : State) : Host.Outcome State Fault Refusal :=
  .next (s.live 5 (s.mail 0x27 fun b =>
    if b.length ≠ 776 ∨ uN b 1 7 ≠ 0 ∨ s.ringFits (u8 b 0) 0 8192 = false ∨ (List.range 32).any (fun o =>
        decide (u32 b (28 + 24 * o) ≠ 0) || !isPtId (u32 b (8 + 24 * o)) || !isPtId (u32 b (12 + 24 * o))) then
      noMail s 0x0B28
    else okMail ((s.onAsy fun a => { a with ring := some (u8 b 0) }).each (List.range 32) fun o t =>
      let k := 8 + 24 * o
      t.onDisc o fun d => { d with
        cmdPt := ptOf (u32 b k), fbPt := ptOf (u32 b (k + 4)), low := uN b (k + 8) 8, wait := u16 b (k + 16), tDisc := u16 b (k + 18) })))

/-! ### Seal (R209, R229, R255, R256) -/

/-- A SEAL record (R237). -/
def State.sealRecord (s : State) (event : Nat) (ver crc : W32) : State :=
  s.writeRec ⟨9, 0, 0xFFFF, 0, s.lmc⟩ (leBytes 1 event ++ leBytes 1 (s.fld F.ASY_SEAL_CNT_COUNT) ++ leBytes 6 0
    ++ leBytes 4 (s.reg .ASY_LEGAL_VER).toNat ++ leBytes 4 (s.reg .ASY_LEGAL_CRC).toNat ++ leBytes 4 ver.toNat ++ leBytes 4 crc.toNat)

/-- SEAL_BREAK (R255); `sw` is the level of SEAL_SW_N. -/
def execSealBreak (sw : Bool) (s : State) : Host.Outcome State Fault Refusal :=
  .next (s.live 5 (s.mail 0x28 fun b =>
    if b ≠ [] then noMail s 0x0B28
    else if sw then noMail s 0x0B23
    else if 15 ≤ s.fld F.ASY_SEAL_CNT_COUNT then noMail s 0x0B22
    else
      let t := s.each (List.range 32) fun n t => t.stopTxn n 3
      let t := (t.setFld F.ASY_SEAL_CNT_COUNT 0 (s.fld F.ASY_SEAL_CNT_COUNT + 1)).setFld F.ASY_SEAL_CNT_OPEN 0 1
      okMail (t.sealRecord 1 (t.reg .ASY_LEGAL_VER) (t.reg .ASY_LEGAL_CRC))))

/-- A register with its sealed fields changed. -/
def State.sealedPut (s : State) (r : Reg) (k : Nat) (v : W32) : State := s.setReg r k ((s.reg r k &&& ~~~r.row.rw) ||| (v &&& r.row.rw))

/-- The sealed parameters (R208), in the order of their offsets, with the RWS writes that wait for their second made. -/
def State.sealedBytes (s : State) : List Byte :=
  let t := s.asy.rws.foldl (fun t w => t.sealedPut w.2.1.1 w.2.1.2 w.2.2) s
  [(Reg.ASY_CHK, 1), (.ASY_PT_CFG, 34), (.ASY_PT_RCBL, 34), (.ASY_CH_GAIN, 80), (.ASY_CH_OFS, 80), (.ASY_CH_PHC, 80), (.ASY_TPO_CFG, 4),
   (.ASY_PT_START, 34)].flatMap fun p => (List.range p.2).flatMap fun k => leBytes 4 (t.reg p.1 k &&& p.1.row.rw).toNat

/-- ASY_LEGAL_VER and ASY_LEGAL_CRC as they are with an image in force: the CRC covers the firmware and the sealed parameters. -/
def State.legalShown (s : State) (staged : Option (List Byte)) : W32 × W32 :=
  match staged with
  | some im => (Config.legalVersion im, Config.legalCrc im s.sealedBytes)
  | none => (s.reg .ASY_LEGAL_VER, Config.legalCrc s.asy.firm s.sealedBytes)

/-- SEAL_CLOSE (R256). DESIGN CHOICE (log entry 61): without a staged image ASY_LEGAL_CRC takes its new value at once. -/
def execSealClose (s : State) : Host.Outcome State Fault Refusal :=
  .next (s.live 5 (s.mail 0x29 fun b =>
    if b ≠ [] then noMail s 0x0B28
    else
      let t := s.setFld F.ASY_SEAL_CNT_OPEN 0 0
      let n := s.legalShown s.asy.legal
      let t := t.sealRecord 2 n.1 n.2
      okMail (if s.asy.legal.isSome then t else t.setReg .ASY_LEGAL_CRC 0 n.2)))

/-- LEGAL_STAGE (R256): the image is fetched and ends in its trailer. -/
def execLegalStage (s : State) : Host.Outcome State Fault Refusal :=
  .next (s.live 5 (s.mail 0x2A fun b =>
    if b.length ≠ 16 ∨ 0xC0000 < u32 b 8 ∨ u32 b 12 ≠ 0 then noMail s 0x0B28
    else if s.flag F.ASY_SEAL_CNT_OPEN = false then noMail s 0x0B27
    else match (s.fetch assayPort (uN b 0 8) (u32 b 8)).1.bind fun im => s.signedPart 9 im with
      | some im => okMail (s.onAsy fun a => { a with legal := some im })
      | none => noMail (s.fetch assayPort (uN b 0 8) (u32 b 8)).2 0x0B27))

/-- RWS_WRITE (R209, R229): held for the next whole second while the seal is open, else refused. -/
def State.rwsWrite (s : State) (ofs : Nat) (v : W32) : State :=
  match regAt 11 ofs with
  | some (r, k) =>
    if r.row.rw = 0 ∨ r.dom = .device then s
    else if s.flag F.ASY_SEAL_CNT_OPEN = false then s.report 0x0B05 ofs
    else s.onAsy fun a => { a with rws := a.rws ++ [((s.lmc / 1000000 + 1) * 1000000, (r, k), v)] }
  | none => s

/-- Offset of a sealed register in the ASY window. -/
def sealedOfs (r : Reg) (k : Nat) : Nat := r.row.off + k * match r.row.dims with | d :: _ => d.1 | [] => 0

/-- One RWS write takes effect: its PARAM_CHANGE record, and a test output starts afresh (R226). -/
def State.applyRws (s : State) (r : Reg) (k : Nat) (v : W32) : State :=
  let old := s.reg r k
  let new := (s.sealedPut r k v).reg r k
  let t := (s.sealedPut r k v).writeRec ⟨10, 0, 0xFFFF, 0, s.lmc⟩
    (leBytes 4 (sealedOfs r k) ++ leBytes 4 old.toNat ++ leBytes 4 new.toNat ++ leBytes 4 0)
  if r = .ASY_TPO_CFG ∧ old ≠ new then
    (t.setFld F.ASY_TPO_STAT_PENDING k 0).onAsy fun a => { a with tpos := a.tpos.upd k fun x => { x with acc := 0, start := none } }
  else t

/-- SEALED_CHANGE (R229): at its whole second every write takes effect together. -/
def execSealedChange (s : State) : Host.Outcome State Fault Refusal :=
  .next (s.live 5 (let due := s.asy.rws.filter fun w => decide (w.1 ≤ s.lmc)
    if due = [] then s
    else (due.foldl (fun t w => t.applyRws w.2.1.1 w.2.1.2 w.2.2)
      (s.onAsy fun a => { a with rws := a.rws.filter fun w => decide (s.lmc < w.1) })).showPfs))

/-! ### Records and the contactor -/

/-- HALLMARK_SIGNED (R238). -/
def execHallmarkSigned (s : State) : Host.Outcome State Fault Refusal := .next (s.live 5 s.signFront)

/-- DISCONNECT_OPEN (R254): 10 ms at 5.0 A or less. -/
def execDisconnectOpen (o : Nat) (s : State) : Host.Outcome State Fault Refusal :=
  .next (s.live 5 (let d := s.asy.disc.get o
    if d.asked.isSome ∧ 160 ≤ d.still then s.discOpen o 1 else s))

/-- DISC_WAIT_EXPIRY (R254). -/
def execDiscWaitExpiry (o : Nat) (s : State) : Host.Outcome State Fault Refusal :=
  .next (s.live 5 (let d := s.asy.disc.get o
    match d.asked with
    | some t => if t + 20000 * d.wait ≤ s.asy.now then (s.discOpen o 2).report 0x0BA6 o else s
    | none => s))

/-- The state of the contactor as its feedback shows it; unchanged where it shows none. -/
def State.discTake (s : State) (o : Nat) : State :=
  match s.discShows o with
  | some v => s.setFld F.ASY_PREPAY_STAT_DISC o (if v then 2 else 0)
  | none => s

/-- FB_PT of an output with a contactor has no good quality. -/
def State.discBlind (s : State) (o : Nat) : Bool := (s.asy.disc.get o).fbPt.isSome && (s.discShows o).isNone

/-- DISCONNECT_FEEDBACK_TIMEOUT (R254): within T_DISC FB_PT did not show the commanded state, or its quality is not good, at a commanded
contactor after T_DISC and at any other at once. An excursion of the quality is judged once. -/
def execDisconnectFeedbackTimeout (o : Nat) (s : State) : Host.Outcome State Fault Refusal :=
  .next (s.live 5 (let d := s.asy.disc.get o
    let st := s.fld F.ASY_PREPAY_STAT_DISC o
    let blind := s.discBlind o
    let moving := decide (st = 1 ∨ st = 3)
    let late := decide (d.cmdAt + 2000 * d.tDisc ≤ s.asy.now) && decide (s.discShows o ≠ some (decide (st = 1)))
    let bad := d.fbPt.isSome && (if moving then late else blind)
    let t := s.onDisc o fun d => { d with blind := blind && (d.blind || bad) }
    if bad && !(blind && d.blind) then (t.discFault o 3).discTake o else t))

/-- DISCONNECT_DROPOUT (R254): the feedback changed without a command. -/
def execDisconnectDropout (o : Nat) (s : State) : Host.Outcome State Fault Refusal :=
  .next (s.live 5 (let st := s.fld F.ASY_PREPAY_STAT_DISC o
    if (st = 2 ∧ s.discShows o = some false) ∨ (st = 0 ∧ s.discShows o = some true) then (s.discFault o 4).discTake o else s))

/-! ### Reset and start of the island (R224, R251, R256) -/

/-- A boundary or a switch that was taken and whose record was not written is due again at the next start (R252): the switches wait, and the
interval state is what it was. -/
def Held_.undo (h : Held_) (s : State) : State :=
  let t := (s.onAsy fun a => { a with switches := a.switches ++ h.taken }).setGrid h.was
  h.pts.foldl (fun t p => (t.setFld F.ASY_TARIFF_ACTIVE p.pt p.old).onAsy fun a => { a with fromAcc := a.fromAcc.set p.pt p.from_ }) t
def State.undoHeld (s : State) : State :=
  (s.asy.held.foldr Held_.undo (s.onAsy fun a => { a with held := [] })).showSwitches

/-- What a reset of the island leaves of a metering point: that a gap fell in the interval (R245), and an open gap, which is recorded at
the next start (R251). -/
def Meter.afterReset (m : Meter) : Meter := { Meter.init with gap := m.gap, gapped := m.gapped }

/-- A reset of island 5: what the legal part holds in MRAM stays; a staged non-legal image is installed. -/
def State.assayReset (s : State) (restart : Bool) : State :=
  (s.keepingSeal (s.undoHeld.dropRegs [.assay])).onAsy fun a => { a with
    metered := false, meters := (List.range 34).foldl (fun m n => m.set n (Meter.afterReset (s.asy.meters.get n))) ⟨Meter.init, []⟩
    ac := ⟨AcPoint.init, []⟩, integ := ⟨(0, 0), []⟩, last := ⟨0, []⟩
    cross := ⟨0, none, 0, 0, 0, 0⟩, tpos := ⟨⟨0, false, none, 0⟩, []⟩, wall := none, driftOk := 0, driftDone := none
    stopped := false, restart := restart
    nonlegal := match a.staged with | some x => x | none => a.nonlegal
    staged := none }

/-- ASSAY_RESTART (R256): the staged legal image is installed after the seal is closed. -/
def execAssayRestart (s : State) : Host.Outcome State Fault Refusal :=
  .next (s.live 5 (match s.asy.legal with
    | some im =>
      if s.flag F.ASY_SEAL_CNT_OPEN then s
      else
        let n := s.legalShown (some im)
        let t := (s.setReg .ASY_LEGAL_VER 0 n.1).setReg .ASY_LEGAL_CRC 0 n.2
        (t.onAsy fun a => { a with legal := none, firm := im }).assayReset true
    | none => s))

/-- The sealed divider of a group of eight modulator inputs (R213): 5 or 10. -/
def sealedDiv (g : Nat) : Nat := if Config.sealedFast g then 5 else 10

/-- ASSAY_CLAIM (R91, R92, R213): the modulator inputs of the sealed parameters; every other field of theirs reads 0, but DIV, which reads
the claimed value at every input of the group. -/
def State.assayClaim (s : State) : State :=
  let mine := ((List.range 32).filter s.ptOn).flatMap fun n => [s.fld F.ASY_PT_CFG_I_MOD n, s.fld F.ASY_PT_CFG_U_MOD n]
  let t := mine.foldl (fun t m => t.setReg .ACQ_MOD_CFG m (F.ACQ_MOD_CFG_OWNER.put 0 3)) s
  (t.each ((List.range 64).filter fun m => mine.any fun k => decide (k / 8 = m / 8)) fun m t =>
    t.setFld F.ACQ_MOD_CFG_DIV m (sealedDiv (m / 8))).modOwners

/-- Sign the records up to the last provisional one (R251 step 1). -/
def State.signProvisional (s : State) : State :=
  match (s.asy.log.filter fun r => decide (r.stage = 0 ∧ r.trailer ≠ [])).getLast? with
  | some p => s.each (List.range (s.asy.log.filter fun r => decide (r.stage = 0 ∧ r.rseq ≤ p.rseq)).length) fun _ t => t.signFront
  | none => s

/-- Resume from the newest valid save (R224, R450); answers whether there was one, whether it is final, and its instant. -/
def State.resumeSave (s : State) : State × Bool × Bool × Nat :=
  match s.bestSave with
  | none => (s.onAsy fun a => { a with now := 200000, savedAt := 0 }, false, false, 0)
  | some a =>
    let us := s.le (a + 8) 8
    let t := (List.range 34).foldl (fun t n => t.loadEntry a n) s
    let t := t.onAsy fun y => { y with now := 2 * (us + 100000), saveSeq := s.le (a + 4) 4 + 1, savedAt := us }
    let t := if us < t.asy.from_ then
        t.each t.ptsOn fun n t => t.onAsy fun y => { y with fromAcc := y.fromAcc.set n (t.meterAcc n 0, t.meterAcc n 1) }
      else t
    (t, true, bitOf (s.le (a + 0x18) 2) 0, us)

/-- A recovered power failure (R251 step 2, R252): the record the cut left out, and the gap. -/
def State.recovered (s : State) (us : Nat) : State :=
  let t := s.boundaryPassed 24
  let parts := t.asy.held.flatMap Held_.parts
  let t := if parts = [] then t.writeRec ⟨5, 8, 0xFFFF, 0, us⟩ t.ptBody ⟨true, false⟩
    else (t.onAsy fun a => { a with held := [] }).writeRec ⟨8, 24, 0xFFFF, 0, us⟩ (compound (parts ++ [(5, t.ptBody)])) ⟨true, false⟩
  (t.gapRecord t.ptsOn (2 * us) 200000 1 24 ⟨true, false⟩).report 0x0BA5

/-- The unmetered span before a start (R251): after a restart CAUSE 5; after a cut without a final save the records of step 2. -/
def State.spanBefore (s : State) (found final : Bool) (us : Nat) : State :=
  if !found then s
  else if s.asy.restart then s.gapRecord s.ptsOn (2 * us) 200000 5 16 ⟨true, false⟩
  else if final then s else s.recovered us

/-- ASSAY_START (R224, R251): inputs claimed, the counter resumed, and the records of a start in their order. A gap that a reset left open
closes at the last save. -/
def State.assayStart (s : State) : State :=
  let s := s.assayClaim.signProvisional
  let r := s.resumeSave
  let s := r.1
  let first := decide (s.fld F.ASY_INT_CFG_LEN = 0)
  let s := if first then (s.setFld F.ASY_INT_CFG_LEN 0 900).onAsy fun a => { a with from_ := s.lmc } else s
  let s := ((s.setFld F.ASY_STAT_RUN 0 1).showPfs).onAsy fun a => { a with
    metered := true, driftAt := s.lmc, driftStroke := s.now, driftPeriod := s.period, driftSeen := s.now, driftMixed := false, driftDone := none }
  let s := (s.spanBefore r.2.1 r.2.2.1 r.2.2.2).closeGaps (2 * r.2.2.2) ⟨false, false⟩
  let s := s.each (List.range 32) fun n t => t.stopTxn n 2
  let s := s.writeRec ⟨7, 0, 0xFFFF, 0, s.lmc⟩ s.ptBody
  let s := s.boundaryPassed 16
  let s := s.each (List.range s.asy.held.length) fun _ t => t.commitHeld
  (s.onAsy fun a => { a with restart := false }).showSync.fillLog

def execAssayStart (s : State) : Host.Outcome State Fault Refusal :=
  .next (s.live 5 (if s.flag F.ASY_STAT_RUN then s else s.assayStart))

end Sys2Proof.Machine
end

