-- ==== Sys2Proof/Machine/Mortise.lean ====
section
/-! DEFINITION. Mortise: the safety table, safe inputs, safety functions, safe outputs, brakes and the Tenon layer (file 10, R258 to
R288). Each pair evaluates every function and drives its own switch of every channel; what makes their views differ comes with the
command. -/

namespace Sys2Proof.Machine

open Sys2Proof

/-! ### Safe inputs (R267 to R271) -/

/-- Channels of an input in run, as filtered: high for an NC channel, low for an NO channel. -/
def State.inA (s : State) (n : Nat) : Bool := s.flag F.MRT_IN_STAT_CH_A n
def State.inB (s : State) (n : Nat) : Bool := s.flag F.MRT_IN_STAT_CH_B n

/-- An input is in demand: a channel in demand, a fault, or the start-up test pending (R267, R269 to R271). -/
def State.inDemand (s : State) (n : Nat) : Bool :=
  let t := (s.inRec n).typ
  !(decide (t = 1 ∨ t = 2) && s.inA n && s.inB n && !s.flag F.MRT_IN_STAT_FAULT n && !s.flag F.MRT_IN_STAT_STARTUP_PEND n)

/-- STARTUP_DONE (R271): seen open on both channels for FILT, then closed on both for FILT, each change within DISC of its pair. -/
def State.startupStep (s : State) (n : Nat) : State :=
  let r := s.inRec n
  let x := s.mrt.ins.get n
  let gap := max x.sinceA x.sinceB - min x.sinceA x.sinceB
  let steady := decide (max x.sinceA x.sinceB + s.strokesIn (10000 * r.filt) ≤ s.now ∧ gap ≤ s.ms (10 * r.disc))
  if !s.flag F.MRT_IN_STAT_STARTUP_PEND n || !steady then s
  else if !s.inA n && !s.inB n then s.onIn n fun x => { x with opened := true }
  else if s.inA n && s.inB n && x.opened then
    ((s.setFld F.MRT_IN_STAT_STARTUP_PEND n 0).onIn n fun x => { x with opened := false }).mrtCode 0x0C87 n
  else s

/-- INPUT_FAULT (R269, R270); the first cause stands. -/
def State.inFault (s : State) (n cause supply : Nat) : State :=
  if s.flag F.MRT_IN_STAT_FAULT n then s.onIn n fun x => { x with resets := [], fineA := 0, fineB := 0 }
  else
    let t := ((s.setFld F.MRT_IN_STAT_FAULT n 1).setFld F.MRT_IN_STAT_CAUSE n cause).setFld F.MRT_IN_STAT_SUPPLY n (if cause = 3 then supply else 0)
    (t.onIn n fun x => { x with resets := [], fineA := 0, fineB := 0 }).mrtCode 0x0C01 n

/-- The cause of an input's fault has been absent for 2 pulses of each of its supplies (R269). -/
def State.causeGone (s : State) (n : Nat) : Bool :=
  let r := s.inRec n
  let x := s.mrt.ins.get n
  decide ((r.supA = 255 ∨ 2 ≤ x.fineA) ∧ (r.supB = 255 ∨ 2 ≤ x.fineB) ∧ x.differ = none)

/-- Functions with manual restart that name an input. -/
def State.manualFor (s : State) (n : Nat) : List Nat := s.fnList.filter fun f => (s.fnRec f).manual && (s.fnRec f).ins.testBit n

/-- A fault clears when its cause is gone and every manual-restart function that names the input was reset; a start-up test is
then pending again (R269, R271). -/
def State.tryClearIn (s : State) (n : Nat) : State :=
  let x := s.mrt.ins.get n
  if s.flag F.MRT_IN_STAT_FAULT n && s.causeGone n && (s.manualFor n).all fun f => x.resets.contains f then
    let t := ((s.setFld F.MRT_IN_STAT_FAULT n 0).setFld F.MRT_IN_STAT_CAUSE n 0).setFld F.MRT_IN_STAT_SUPPLY n 0
    (t.setFlag F.MRT_IN_STAT_STARTUP_PEND n (s.inRec n).startup).onIn n fun x => { x with resets := [], opened := false }
  else s

/-- FUNCTION_RESET (R263): a reset source gives a reset. It releases functions in RESET_WAIT, and counts for the faults of the
inputs and outputs that the function names (R269, R272). -/
def State.functionReset (s : State) (src : Nat) : State :=
  (s.fnList.filter fun f => decide ((s.fnRec f).reset = src) && (s.fnRec f).manual).foldl (fun t f =>
    let r := t.fnRec f
    let t := t.onFn f fun x => { x with pressed := decide (x.st = 2), pressed1 := decide (x.st1 = 2) }
    let t := ((List.range 32).filter r.ins.testBit).foldl (fun t n =>
      if t.flag F.MRT_IN_STAT_FAULT n && t.causeGone n then (t.onIn n fun x => { x with resets := f :: x.resets }).tryClearIn n else t) t
    ((List.range 20).filter fun k => if k < 16 then r.outs.testBit k else r.brakes.testBit (k - 16)).foldl (fun t k =>
      match (t.mrt.chans.get k).offAt with
      | some o => if t.chanBit k 27 && decide (o + t.ms 1000 ≤ t.now) then t.setChanBit k 27 false else t
      | none => t) t) s

/-- A reset source is pressed or released: a press of 0.1 s to 2.0 s followed by its release is a reset (R263). -/
def State.resetLevel (s : State) (src key : Nat) (down : Bool) : State :=
  match s.mrt.press.get key, down with
  | none, true => s.onMrt fun m => { m with press := m.press.set key (some s.now) }
  | some t, false =>
    let u := s.onMrt fun m => { m with press := m.press.set key none }
    if t + s.ms 100 ≤ s.now ∧ s.now ≤ t + s.ms 2000 then u.functionReset src else u
  | _, _ => s

/-- INPUT_CHANNEL_CHANGE (R267): a channel's new level has lasted FILT. -/
def State.channelChange (s : State) (n : Nat) (chB level : Bool) : State :=
  let r := s.inRec n
  if r.typ = 0 ∨ r.typ = 3 then s
  else
    let run := if r.typ = 2 ∧ chB = true then !level else level
    let t := if chB then s.setFlag F.MRT_IN_STAT_CH_B n run else s.setFlag F.MRT_IN_STAT_CH_A n run
    let t := t.onIn n fun x => if chB then { x with sinceB := s.now } else { x with sinceA := s.now }
    let t := t.onIn n fun x => { x with differ := if t.inA n != t.inB n then some (x.differ.getD s.now) else none }
    let t := t.setFlag F.MRT_IN_STAT_RUN n (t.inA n && t.inB n)
    if r.typ = 4 then t.resetLevel n n (t.inA n && t.inB n) else t.startupStep n

def execInputChannelChange (n : Nat) (chB level : Bool) (s : State) : Host.Outcome State Fault Refusal :=
  .next (s.live 6 (s.channelChange n chB level))

/-- DISCREPANCY (R270): a disagreement that lasted DISC. -/
def execDiscrepancy (n : Nat) (s : State) : Host.Outcome State Fault Refusal :=
  .next (s.live 6 (match (s.mrt.ins.get n).differ with
    | some t => if t + s.ms (10 * (s.inRec n).disc) ≤ s.now then s.inFault n 1 0 else s
    | none => s))

/-- An input whose channels are filtered and pulsed: every one in use but a counter (R268, R271). -/
def InRec.pulsed (r : InRec) : Bool := decide (r.typ = 1 ∨ r.typ = 2 ∨ r.typ = 4)

/-- The channel number 2 × input (+ 1 for B) is fed by a supply. -/
def State.fed (s : State) (j c : Nat) : Bool :=
  let r := s.inRec (c / 2)
  r.pulsed && decide ((if c % 2 = 0 then r.supA else r.supB) = j)

/-- A pulse of supply `j` without a finding (R269) counts for each channel that it feeds and tests: one that was high before it, or, while a
discrepancy stands, one whose input agrees again. -/
def State.finePulse (s : State) (j n : Nat) (before : List Nat) : State :=
  let gone (c : Nat) : Bool := s.fed j c &&
    (if s.fld F.MRT_IN_STAT_CAUSE n = 1 then decide ((s.mrt.ins.get n).differ = none) else before.contains c)
  s.onIn n fun x => { x with
    fineA := if gone (2 * n) then x.fineA + 1 else x.fineA
    fineB := if gone (2 * n + 1) then x.fineB + 1 else x.fineB }

/-- SUPPLY_PULSE (R268, R269): the channels seen high before the pulse of supply `j`, low from 150 µs after its start to its end,
and high again within 150 µs after it. -/
def State.supplyPulse (s : State) (j : Nat) (before low after : List Nat) : State :=
  let live := (List.range 64).filter fun c => s.fed j c && before.contains c
  let supply := decide (live ≠ []) && live.all fun c => !after.contains c
  let cause (c : Nat) : Nat :=
    if s.fed j c then (if supply then 4 else if before.contains c && !low.contains c then 2 else 0)
    else if before.contains c && low.contains c && after.contains c then 3 else 0
  ((List.range 32).filter fun n => (s.inRec n).pulsed).foldl (fun t n =>
    let found := if cause (2 * n) ≠ 0 then cause (2 * n) else cause (2 * n + 1)
    if found ≠ 0 then t.inFault n found j
    else
      let t := t.finePulse j n before
      if s.manualFor n = [] then t.tryClearIn n else t) s

/-- The device evaluates the table beside its holder: a standby in PREPARE or STANDBY of its pair (R286). -/
def State.beside (s : State) : Bool := decide (s.fld F.PEG_STAT_STATE = 3 ∨ s.fld F.PEG_STAT_STATE = 4)

/-- A pulse of supply `j` comes in its slot (R268): it is the next of the frame, 1.25 ms after the one before it, as far as strokes tell. -/
def State.pulseTurn (s : State) (j : Nat) : Bool :=
  decide (j = s.mrt.slot) && match s.mrt.pulse with | some (_, t) => decide (t + s.strokesIn 125000 ≤ s.now + 1) | none => true

/-- The holder's supply is driven low for 300 µs; a standby checks its inputs against the active's pulses and drives none (R286). -/
def execSupplyPulse (j : Nat) (before low after : List Nat) (s : State) : Host.Outcome State Fault Refusal :=
  .next (s.live 6 (if s.mrtRuns && (s.holds || s.beside) && s.pulseTurn j then
      (s.supplyPulse j before low after).onMrt fun m => { m with pulse := some (j, s.now), slot := (j + 1) % 16 }
    else s))

/-! ### Safe outputs and brakes (R272 to R275) -/

/-- A readback fault (R272): both switches off, FAULT latched. -/
def State.chanFault (s : State) (k : Nat) : State := ((s.chanOff k).setChanBit k 27 true).mrtCode 0x0C02 k

/-- The readback level, and since when the channel is off with it off. -/
def State.seeReadback (s : State) (k : Nat) (rb : Bool) : State :=
  (s.setChanBit k 28 rb).onChan k fun x =>
    { x with offAt := if rb || s.chanBit k 30 || s.chanBit k 29 then none else some (x.offAt.getD s.now) }

/-- READBACK_CHECK (R272): the readback shows the load on when both switches are on. -/
def execReadbackCheck (k : Nat) (rb : Bool) (s : State) : Host.Outcome State Fault Refusal :=
  .next (s.live 6 (let t := s.seeReadback k rb
    if rb = (s.chanBit k 30 && s.chanBit k 29) then t else t.chanFault k))

/-- TEST_TIME of a brake test counts from the instant at which its STO_OUT is on (R277). -/
def State.torqueOn (s : State) (k : Nat) : State :=
  s.each (List.range 4) fun j t =>
    match t.brakeRec j with
    | some r => t.when (decide (r.sto = k ∧ t.testStep j = 2)) fun u => u.onBrake j fun b => { b with began := some u.now }
    | none => t

/-- ENERGISE_CHECK_STEP (R273): switch A alone, then switch B alone, then both. -/
def execEnergiseCheckStep (k : Nat) (rb : Bool) (s : State) : Host.Outcome State Fault Refusal :=
  .next (s.live 6 (let n := (s.mrt.chans.get k).step
    if n = 0 then s
    else if rb then (s.seeReadback k rb).chanFault k
    else if n = 1 then (((s.setChanBit k 30 false).setChanBit k 29 true).setChanBit k 28 false).onChan k fun x => { x with step := 2 }
    else ((((s.setChanBit k 30 true).setChanBit k 29 true).setChanBit k 31 true).onChan k fun x => { x with step := 0, offAt := none }).torqueOn k))

/-- DARK_TEST_START (R274): of an energised channel with DARK_EN. -/
def execDarkTestStart (k : Nat) (s : State) : Host.Outcome State Fault Refusal :=
  .next (s.live 6 (if s.holds && s.darkEn k && s.chanBit k 31 && !s.chanBit k 26 then
      ((s.setChanBit k (if (s.mrt.chans.get k).nextB then 29 else 30) false).setChanBit k 26 true).count 13 4
    else s))

/-- DARK_TEST_END (R274): the readback showed off, or the test failed. -/
def execDarkTestEnd (k : Nat) (rb : Bool) (s : State) : Host.Outcome State Fault Refusal :=
  .next (s.live 6 (if s.chanBit k 26 then
      if rb then ((s.setChanBit k 26 false).seeReadback k rb).chanFault k
      else ((s.setChanBit k (if (s.mrt.chans.get k).nextB then 29 else 30) true).setChanBit k 26 false).onChan k fun x => { x with nextB := !x.nextB }
    else s))

/-- One pair withdraws its command of a channel and the other keeps its own (R258): that pair's switch goes off, the channel is not
energised, and a dark test in progress is discarded (R275). -/
def State.chanHalf (s : State) (k bit : Nat) : State :=
  let test := s.chanBit k 26
  let t := ((s.setChanBit k 31 false).setChanBit k bit false).setChanBit k 26 false
  if test then (t.bumpSat (chanFld k 15 8) (chanIdx k)).mrtCode 0x0C83 k else t

/-- Turn a channel to the commands of P0 (switch A) and P1 (switch B): energising needs both and starts with the check of R273. -/
def State.chanTo (s : State) (k : Nat) (a b : Bool) : State :=
  if a && b then
    if s.chanBit k 31 || decide ((s.mrt.chans.get k).step ≠ 0) || s.chanBit k 27 then s
    else ((s.setChanBit k 30 true).setChanBit k 29 false).onChan k fun x => { x with step := 1, offAt := none }
  else if !(s.chanBit k 31 || s.chanBit k 30 || s.chanBit k 29) then s
  else if decide ((s.mrt.chans.get k).step ≠ 0) || !(a || b) then s.chanOff k
  else s.chanHalf k (if a then 29 else 30)

/-! ### Brakes (R276 to R278) -/

/-- Functions that name a brake, or a brake or its STO output. -/
def State.fnForBrake (s : State) (k : Nat) (sto : Option Nat) : List Nat :=
  s.fnList.filter fun f => (s.fnRec f).brakes.testBit k || match sto with | some o => (s.fnRec f).outs.testBit o | none => false

/-- A function shows a demand. -/
def State.fnDemand (s : State) (f : Nat) : Bool := s.flag F.MRT_SF_STAT_DEMAND f

/-- Count of a brake's counter input; counts moved, as a signed number of 16 bits. -/
def State.brakeCount (s : State) (r : BrakeRec) : Nat := s.fld F.MRT_IN_STAT_COUNT r.cnt
def moved (a b : Nat) : Nat := (signed 16 (a + 65536 - b)).natAbs

/-- A test fails (R277). -/
def State.testFail (s : State) (k : Nat) : State :=
  ((s.endTest k).setFld F.MRT_BRK_STAT_TEST_FAIL k 1).mrtCode 0x0C04 k

/-- BRAKE_TEST (R277). -/
def State.brakeTest (s : State) (k : Nat) : State :=
  match s.brakeRec k with
  | none => s.mrtCode 0x0C08 k
  | some r =>
    if s.chanBit (16 + k) 31 || (s.fnForBrake k none).any s.fnDemand || !s.flag F.MRT_CONN_STAT_VALID r.conn then s.mrtCode 0x0C08 k
    else if s.testStep k ≠ 0 then s
    else (s.setFld F.MRT_BRK_STAT_STEP k 1).onBrake k fun b => { b with base := s.brakeCount r, began := some s.now }

/-- A test passes (R277): the brake's age starts afresh. -/
def State.testPass (s : State) (k : Nat) : State :=
  let t := ((s.setFld F.MRT_BRK_STAT_STEP k 0).setFld F.MRT_BRK_STAT_TEST_FAIL k 0).setFld F.MRT_BRK_STAT_TEST_DUE k 0
  ((t.setFld F.MRT_BRK_STAT_AGE k 0).onBrake k fun b =>
    { b with valid := true, passAt := some s.now, said := false, began := none }).mrtCode 0x0C84 k

/-- The time of the step of a brake's test has passed: 500 ms, TEST_TIME with STO_OUT on, T_RB of STO_OUT, 500 ms (R277). -/
def State.stepOver (s : State) (k : Nat) (r : BrakeRec) : Bool :=
  let t := match s.testStep k with | 2 => s.ms (100 * r.time) | 3 => s.tRb r.sto | _ => s.ms 500
  match (s.mrt.brakes.get k).began with | some b => decide (b + t ≤ s.now) | none => false

/-- A test goes on to a step. -/
def State.toStep (s : State) (k n : Nat) : State :=
  (s.setFld F.MRT_BRK_STAT_STEP k n).onBrake k fun b => { b with began := if n = 2 then none else some s.now }

/-- A step whose time has passed is judged; `frames`: the drive's frames arrive, `rb`: readback of STO_OUT. -/
def State.judgeStep (s : State) (k : Nat) (r : BrakeRec) (frames rb : Bool) : State :=
  match s.testStep k with
  | 1 => ((s.toStep k 2).onBrake k fun b => { b with base := s.brakeCount r }).chanTo r.sto true true
  | 2 => if frames then (s.toStep k 3).chanOff r.sto else s.testFail k
  | 3 => if rb then s.testFail k else s.toStep k 4
  | _ => s.testPass k

/-- BRAKE_TEST_STEP (R277): a count beyond POS_TOL ends the test at once; else the step ends when its time has passed. -/
def execBrakeTestStep (k : Nat) (frames rb : Bool) (s : State) : Host.Outcome State Fault Refusal :=
  .next (s.live 6 (match s.brakeRec k with
    | none => s
    | some r =>
      if s.testStep k = 0 then s
      else if r.tol < moved (s.brakeCount r) (s.mrt.brakes.get k).base then s.testFail k
      else if s.stepOver k r then s.judgeStep k r frames rb
      else s))

/-- TEST_INTERVAL_EXPIRY (R276): the brake test falls due; an ACD cycle continues. -/
def execTestIntervalExpiry (k : Nat) (s : State) : Host.Outcome State Fault Refusal :=
  .next (s.live 6 (match s.brakeRec k, (s.mrt.brakes.get k).passAt with
    | some r, some t =>
      if (s.mrt.brakes.get k).valid ∧ t + s.ms (60000 * r.interval) ≤ s.now then
        (s.setFld F.MRT_BRK_STAT_TEST_DUE k 1).onBrake k fun b => { b with valid := false, expired := if b.acd then some s.now else none }
      else s
    | _, _ => s))

/-- BRAKE_APPLY_AFTER_EXPIRY (R276): 10 min after an expiry during an ACD cycle. -/
def execBrakeApplyAfterExpiry (k : Nat) (s : State) : Host.Outcome State Fault Refusal :=
  .next (s.live 6 (match (s.mrt.brakes.get k).expired with
    | some t =>
      if t + s.ms 600000 ≤ s.now ∧ (s.mrt.brakes.get k).acd then
        ((s.chanOff (16 + k)).onBrake k fun b => { b with acd := false, expired := none, said := true }).mrtCode 0x0C08 k
      else s
    | none => s))

/-- COUNTER_INPUT_EDGE (R271): quadrature; a test ends at once where the count leaves POS_TOL (R277). -/
def State.counterEdge (s : State) (n : Nat) (a b : Bool) : State :=
  let x := s.mrt.ins.get n
  let place (p q : Bool) : Nat := if p then (if q then 2 else 1) else (if q then 3 else 0)
  let d := (place a b + 4 - place x.a x.b) % 4
  let c := s.fld F.MRT_IN_STAT_COUNT n
  let t := (s.onIn n fun y => { y with a := a, b := b }).setFld F.MRT_IN_STAT_COUNT n (if d = 1 then c + 1 else if d = 3 then c + 65535 else c)
  (List.range 4).foldl (fun t k =>
    match t.brakeRec k with
    | some r =>
      if r.cnt = n ∧ t.testStep k ≠ 0 ∧ r.tol < moved (t.brakeCount r) (t.mrt.brakes.get k).base then t.testFail k else t
    | none => t) t

def execCounterInputEdge (n : Nat) (a b : Bool) (s : State) : Host.Outcome State Fault Refusal :=
  .next (s.live 6 (if (s.inRec n).typ = 3 then s.counterEdge n a b else s))

/-! ### Tenon (R279 to R283) -/

/-- A consumer's data; all zero while the connection is not VALID (R283). -/
def State.connData (s : State) (c : Nat) : List Byte := if s.flag F.MRT_CONN_STAT_VALID c then (s.mrt.conns.get c).data else []

/-- A bit of a connection's data. -/
def State.connBit (s : State) (c bit : Nat) : Bool := (u8 (s.connData c) (bit / 8)).testBit (bit % 8)

/-- The bytes of a frame of a connection (R279, R280). -/
def tenonBytes (r : ConnRec) (typ seq : Nat) (data : List Byte) : List Byte :=
  let b := leBytes 1 (16 + typ) ++ leBytes 1 data.length ++ leBytes 2 seq ++ leBytes 2 r.wd ++ data
  b ++ leBytes 4 (crcTenon (leBytes 4 r.ident ++ b))

/-- A check failure (R282): counted and reported; three within 100 cycles lose the connection until it is bound again. -/
def State.tenonFail (s : State) (c : Nat) (msg : List Byte) : State :=
  let t := ((s.bumpSat F.MRT_CONN_ERR_CHECK c).mrtCode 0x0C86 c).tenonViolation c 1 msg
  let l := s.mrt.cycle :: (s.mrt.conns.get c).fails.filter fun x => decide (s.mrt.cycle < x + 100)
  let t := t.onConn c fun x => { x with fails := l, good := 0 }
  if 3 ≤ l.length ∧ s.flag F.MRT_CONN_STAT_CRC_FAULT c = false then
    let u := ((t.setFld F.MRT_CONN_STAT_CRC_FAULT c 1).setFld F.MRT_CONN_STAT_VALID c 0).onConn c fun x =>
      { x with bound := false, good := 0, data := [], crcAt := some s.now }
    (u.onMrt fun m => { m with press := m.press.set (64 + c) none }).mrtCode 0x0C06 c
  else t

/-- How far a SEQ lies ahead of the last one, in the order that wraps from 65,535 to 1. -/
def seqAhead (last seq : Nat) : Nat := if last = 0 then seq else (seq + 65535 - last) % 65535

/-- An accepted DATA frame (R282, R283). -/
def State.tenonAccept (s : State) (c seq : Nat) (data : List Byte) : State :=
  let t := ((s.setFld F.MRT_CONN_STAT_SEQ c seq).count 13 5).onConn c fun x => { x with data := data, good := x.good + 1, idle := 0 }
  let t := if 2 ≤ (t.mrt.conns.get c).good then t.setFld F.MRT_CONN_STAT_VALID c 1 else t
  t.resetLevel (0x40 + c) (64 + c) (t.connBit c 0)

/-- TENON_RECEIVE (R282): of a consuming connection. A sound DATA frame of a connection that is not bound has no effect (log entry 41); any
other rejected frame is a check failure. -/
def State.tenonReceive (s : State) (c : Nat) (b : List Byte) : State :=
  match s.connRec c with
  | none => s
  | some r =>
    if r.produces then s
    else
      let x := s.mrt.conns.get c
      let n := u8 b 1
      let whole := decide (b.length = 10 + n ∧ 1 ≤ n ∧ n ≤ 32) && decide (u32 b (6 + n) = crcTenon (leBytes 4 r.ident ++ b.take (6 + n)))
        && decide (u8 b 0 / 16 = 1 ∧ u16 b 4 = r.wd)
      let typ := u8 b 0 % 16
      let seq := u16 b 2
      let fresh := match x.crcAt with | some t => decide (t + s.ms 1000 ≤ s.now) | none => true
      if whole && decide (typ = 2 ∧ seq = 0) then
        if fresh && decide (n = 4 ∧ x.nonce = some (slice b 6 4)) then
          let t := (((s.setFld F.MRT_CONN_STAT_SEQ c 0).setFld F.MRT_CONN_STAT_CRC_FAULT c 0).setFld F.MRT_CONN_STAT_VALID c 0).setFld
            F.MRT_CONN_STAT_LOST c 0
          t.onConn c fun y => { y with bound := true, good := 0, idle := 0, fails := [], crcAt := none, data := [] }
        else s.tenonFail c b
      else if whole && decide (typ = 1 ∧ n = r.len) && !x.bound then s
      else if whole && decide (typ = 1 ∧ n = r.len) then
        let d := seqAhead (s.fld F.MRT_CONN_STAT_SEQ c) seq
        if seq = 0 then s.tenonFail c b
        else if 1 ≤ d ∧ d ≤ 16 then s.tenonAccept c seq (slice b 6 n)
        else if d = 0 ∨ 32767 < d then (s.bumpSat F.MRT_CONN_ERR_REPEAT c).tenonViolation c 2 b
        else s.tenonFail c b
      else s.tenonFail c b

def execTenonReceive (c : Nat) (frame : List Byte) (s : State) : Host.Outcome State Fault Refusal :=
  .next (s.live 6 (if s.mrtRuns then s.tenonReceive c frame else s))

/-- TENON_LOST (R283): WD cycles without an accepted frame; the connection must be bound again. A brake test that needs the connection is aborted (R278). -/
def State.tenonLost (s : State) (c : Nat) : State :=
  match s.connRec c with
  | some r =>
    if (s.mrt.conns.get c).bound && decide (r.wd ≤ (s.mrt.conns.get c).idle) && !r.produces then
      let t := ((s.setFld F.MRT_CONN_STAT_VALID c 0).setFld F.MRT_CONN_STAT_LOST c 1).onConn c fun x => { x with bound := false, good := 0, data := [] }
      let t := ((t.onMrt fun m => { m with press := m.press.set (64 + c) none }).mrtCode 0x0C05 c).tenonViolation c 3 []
      t.torqueLost c
    else s
  | none => s

def execTenonLost (c : Nat) (s : State) : Host.Outcome State Fault Refusal :=
  .next (s.live 6 (if s.mrtRuns then s.tenonLost c else s))

/-- The produced data (R281): safe output commands, RUN bits, released brakes, torque command. -/
def State.tenonData (s : State) (c len : Nat) : List Byte :=
  let bits (l : List Nat) (f : Nat → Bool) : Nat := l.foldl (fun m k => if f k then m + 2 ^ k else m) 0
  let torque := ((List.range 4).filterMap fun k =>
    match s.brakeRec k with | some b => if b.conn = c ∧ s.testStep k = 2 then some b.torque else none | none => none).headD 0
  (leBytes 2 (bits (List.range 16) fun k => s.chanBit k 30 && s.chanBit k 29)
    ++ leBytes 4 (bits s.fnList fun f => !s.flag F.MRT_SF_STAT_DEMAND f && !s.flag F.MRT_SF_STAT_RESET_WAIT f)
    ++ leBytes 1 (bits (List.range 4) fun k => s.chanBit (16 + k) 31) ++ leBytes 1 torque ++ leBytes 32 0).take len

/-- TENON_SEND (R281): the producers whose PERIOD has come. -/
def State.tenonSend (s : State) : State :=
  s.each (List.range 32) fun c t =>
    match t.connRec c with
    | some r =>
      let x := t.mrt.conns.get c
      if !r.produces || !t.holds || x.nonce.isNone || decide (t.mrt.cycle % max r.period 1 ≠ 0) then t
      else if x.bind then (t.tenonOut c r (tenonBytes r 2 0 (x.nonce.getD []))).onConn c fun y => { y with bind := false, next := 1 }
      else
        ((t.tenonOut c r (tenonBytes r 1 x.next (t.tenonData c r.len))).setFld F.MRT_CONN_STAT_SEQ c x.next).onConn c fun y =>
          { y with next := if y.next = 65535 then 1 else y.next + 1 }
    | none => t

/-! ### The safety cycle (R259 to R263) -/

/-- The demand of a Tenon signal: 0 is demand; an entry with connection FFh is none. -/
def State.sigDemand (s : State) (e : Nat × Nat) : Bool := decide (e.1 ≠ 255) && !s.connBit e.1 e.2

/-- A temperature source of SF6 in 0.1 °C; a connection that is not VALID counts as too hot. -/
def State.sigTemp (s : State) (e : Nat × Nat) : Option Int :=
  if s.flag F.MRT_CONN_STAT_VALID e.1 then some (signed 16 (u16 (s.connData e.1) e.2)) else none

/-- Inputs that a function names, and one of them in demand. -/
def FnRec.inList (r : FnRec) : List Nat := (List.range 32).filter r.ins.testBit

/-- The demand of a function (R262). -/
def State.fnDemands (s : State) (f : Nat) : Bool :=
  let r := s.fnRec f
  let x := s.mrt.fns.get f
  let any := r.inList.any s.inDemand || r.sig.any s.sigDemand
  match r.sf with
  | 3 =>
    let unlocked := match r.inList with | n :: _ => s.inDemand n | [] => true
    let above := (r.inList.drop 1).any s.inDemand || r.sig.any s.sigDemand
    let settled := match x.below with | some t => decide (t + s.ms r.param ≤ s.now) | none => false
    unlocked && (above || !settled)
  | 4 =>
    any || (List.range 4).any fun k => r.brakes.testBit k &&
      (s.flag F.MRT_BRK_STAT_TEST_FAIL k || (s.chanBit (16 + k) 31 && !(s.mrt.brakes.get k).valid && !(s.mrt.brakes.get k).acd))
  | 6 =>
    (r.sig.filter fun e => decide (e.1 ≠ 255)).any fun e =>
      match s.sigTemp e with
      | some t => if x.hot then decide ((r.param : Int) - 50 < t) else decide ((r.param : Int) < t)
      | none => true
  | _ => any

/-- What an evaluation makes of a function: 0 RUN, 1 DEMAND, 2 RESET_WAIT (R263), from a pair's last state of it, a reset given to the pair, and
whether the pair finds it in demand. -/
def State.fnNext (s : State) (f st : Nat) (pressed demand : Bool) : Nat :=
  if demand then 1
  else match st with
    | 0 => 0
    | 1 => if (s.fnRec f).manual then 2 else 0
    | _ => if pressed then 0 else 2

/-- Each pair evaluates every function on the inputs as they stand (R258, R259); `p0` and `p1` name the functions that one pair alone finds in
demand. -/
def State.evaluate (s : State) (p0 p1 : List Nat) : State :=
  let l := s.fnList.map fun f =>
    let x := s.mrt.fns.get f
    (f, s.fnNext f x.st x.pressed (s.fnDemands f || p0.contains f), s.fnNext f x.st1 x.pressed1 (s.fnDemands f || p1.contains f))
  let t := l.foldl (fun t c =>
    let r := s.fnRec c.1
    let above := (r.inList.drop 1).any s.inDemand || r.sig.any s.sigDemand
    t.onFn c.1 fun x => { x with
      st := c.2.1, st1 := c.2.2, pressed := false, pressed1 := false, hot := decide (r.sf = 6) && s.fnDemands c.1
      below := if above then none else some (x.below.getD s.now) }) s
  t.onMrt fun m => { m with eval := l }

/-- The pairs disagree on an input view or a function state (R260); their channel commands follow from these. -/
def State.pairsDiffer (s : State) (p0 p1 : List Nat) : Bool :=
  s.mrt.eval.any fun c => decide (c.2.1 ≠ c.2.2) || (p0.contains c.1 != p1.contains c.1)

/-- DEMAND (R262): the states of a function as the pairs apply them; the register shows a demand of either pair, and RESET_WAIT where one
waits and none demands. -/
def State.showFn (s : State) (f st0 st1 : Nat) : State :=
  let was := s.fnDemand f
  let demand := decide (st0 = 1 ∨ st1 = 1)
  let t := (s.setFlag F.MRT_SF_STAT_DEMAND f demand).setFlag F.MRT_SF_STAT_RESET_WAIT f (!demand && decide (st0 = 2 ∨ st1 = 2))
  let t := t.onFn f fun x => { x with on0 := st0, on1 := st1 }
  if demand && !was then ((t.bumpSat F.MRT_SF_STAT_DEMANDS f).count 13 3).mrtCode 0x0C81 f else t

/-- A function holds a channel off while it is not in RUN: an output of its OUT_MASK, a brake of its BRK_MASK, and for SF4 the STO output of
each of its brakes (R262). -/
def State.fnNames (s : State) (f k : Nat) : Bool :=
  let r := s.fnRec f
  if k < 16 then r.outs.testBit k || (decide (r.sf = 4) && (List.range 4).any fun j =>
    r.brakes.testBit j && match s.brakeRec j with | some b => decide (b.sto = k) | none => false)
  else r.brakes.testBit (k - 16)

/-- Every function that names a channel is in RUN for a pair (`p1`: for P1). -/
def State.chanFree (s : State) (k : Nat) (p1 : Bool) : Bool :=
  (s.fnList.filter fun f => s.fnNames f k).all fun f => decide ((if p1 then (s.mrt.fns.get f).on1 else (s.mrt.fns.get f).on0) = 0)

/-- The brake whose STO output an output is, while its test runs. -/
def State.testOf (s : State) (k : Nat) : Option Nat :=
  (List.range 4).find? fun j => match s.brakeRec j with | some r => decide (r.sto = k ∧ s.testStep j ≠ 0) | none => false

/-- A pair's command of a safe output (R263): during a brake test the test's; else the request, for an output that a function names. -/
def State.outCmd (s : State) (k : Nat) (p1 : Bool) : Bool :=
  s.chanFree k p1 && !s.chanBit k 27 && match s.testOf k with
    | some j => decide (s.testStep j = 2)
    | none => bitOf (s.fld F.MRT_OUT_REQ_REQ) k && s.fnList.any fun f => s.fnNames f k

/-- The commands of a brake (R276), with the ACD cycle and the refusals that go with it: a release that a condition refuses reports 0C08h
once and sets TEST_DUE. -/
def State.brakeTo (s : State) (k : Nat) : State :=
  let b := s.mrt.brakes.get k
  let req := bitOf (s.fld F.MRT_BRK_REQ_REQ) k
  let passed := match b.passAt, s.brakeRec k with | some t, some _ => (s.now - t) / max (s.ms 60000) 1 | _, _ => 255
  let s := s.setFld F.MRT_BRK_STAT_AGE k (min passed 255)
  if !req then
    let s := if b.acd then (s.setFld F.MRT_BRK_STAT_TEST_DUE k 1).onBrake k fun b => { b with valid := false } else s
    (s.onBrake k fun b => { b with acd := false, expired := none, said := false }).chanTo (16 + k) false false
  else
    let s := if s.testStep k ≠ 0 then s.testAbort k else s
    let mine (p1 : Bool) : Bool := (b.valid || b.acd) && s.chanFree (16 + k) p1 && !s.chanBit (16 + k) 27
      && s.fnList.any fun f => s.fnNames f (16 + k)
    if mine false && mine true then (s.onBrake k fun b => { b with acd := true }).chanTo (16 + k) true true
    else
      let s := if b.said || b.acd then s else ((s.setFld F.MRT_BRK_STAT_TEST_DUE k 1).onBrake k fun b => { b with said := true }).mrtCode 0x0C08 k
      s.chanTo (16 + k) (mine false) (mine true)

/-- Apply what the last cycle evaluated, with the requests as they stand (R259). A standby that evaluates the table beside its holder
commands its channels too; its gate is closed (R286, R293). -/
def State.applyCycle (s : State) : State :=
  let s := s.mrt.eval.foldl (fun t c => t.showFn c.1 c.2.1 c.2.2) s
  let s := s.each (List.range 4) fun k t =>
    match t.brakeRec k with
    | some r => t.when (decide (t.testStep k ≠ 0) && ((t.fnForBrake k (some r.sto)).any t.fnDemand || !t.flag F.MRT_CONN_STAT_VALID r.conn))
        fun u => u.testAbort k
    | none => t
  if !s.holds && !s.beside then s
  else
    let s := s.each (List.range 16) fun k t => t.chanTo k (t.outCmd k false) (t.outCmd k true)
    s.each (List.range 4) fun k t => t.brakeTo k

/-- MORTISE_FAULT (R260). -/
def State.mortiseFault (s : State) : State := (s.mrtCode 0x0C07).failIsland 6

/-- What the pairs exchange in a cycle (R259, R260): a disagreement in 2 consecutive cycles is a fault; else the producers send. -/
def State.exchange (s : State) (p0 p1 : List Nat) : State :=
  let n := if s.pairsDiffer p0 p1 then s.mrt.apart + 1 else 0
  let s := s.onMrt fun m => { m with apart := n }
  if 2 ≤ n then s.mortiseFault else s.tenonSend

/-- SAFETY_CYCLE (R259): `fault`: a lockstep mismatch or a failed self-test; `p0`, `p1`: functions that one pair alone finds in demand in this
cycle. -/
def State.safetyCycle (s : State) (fault : Bool) (p0 p1 : List Nat) : State :=
  let s := (s.onMrt fun m => { m with cycle := m.cycle + 1 }).count 13 2
  if fault then s.mortiseFault
  else
    let s := s.setFlag F.MRT_STAT_DRIVE 0 s.holds
    let s := s.applyCycle
    let s := s.each (List.range 32) fun c t => (t.onConn c fun x => { x with idle := x.idle + 1 }).tenonLost c
    let s := s.each (List.range 32) fun n t => t.startupStep n
    (s.evaluate p0 p1).exchange p0 p1

def execSafetyCycle (fault : Bool) (p0 p1 : List Nat) (s : State) : Host.Outcome State Fault Refusal :=
  .next (s.live 6 (if s.mrtRuns then s.safetyCycle fault p0 p1 else s))

/-! ### Start and commit -/

/-- The table that is now in force shows in the registers (R56, R265); an input that is new or whose record changed starts with its start-up
test, if it has one (R271), and its filter gives no state before FILT (R267). -/
def State.mortiseTable (s : State) (fresh : Nat → Bool) : State :=
  let s := s.setFlag F.MRT_STAT_FACTORY 0 (s.mrtBody = [])
  let s := s.each (List.range 32) fun f t =>
    if f < t.fnCount then
      (((t.setFld F.MRT_SF_STAT_DEFINED f 1).setFld F.MRT_SF_STAT_SF f (t.fnRec f).sf).setFld F.MRT_SF_STAT_DEMAND f 1).setFld F.MRT_SF_STAT_RESET_WAIT f 0
    else t.setReg .MRT_SF_STAT f 0x40000000
  let s := s.each (List.range 32) fun n t =>
    if fresh n then
      let first := t.now + t.strokesIn (10000 * (t.inRec n).filt)
      (t.setFlag F.MRT_IN_STAT_STARTUP_PEND n (t.inRec n).startup).onIn n fun x => { x with opened := false, sinceA := first, sinceB := first }
    else t
  s.each (List.range 32) fun c t =>
    match t.connRec c with
    | some r => t.setFlag F.MRT_CONN_STAT_DIR c r.produces
    | none => t.setReg .MRT_CONN_STAT c 0

/-- Mortise runs after its self-test (R260); every function is in demand. -/
def State.mortiseStart (s : State) : State :=
  (({ s with mrt := Mrt.init }).setFld F.MRT_STAT_RUN 0 1).mortiseTable fun _ => true

/-- A structural change of the table at a commit (R45, R271): every output and brake is off, and every function starts in demand;
an input that is new or whose record changed starts with its start-up test. -/
def State.mortiseCommit (s : State) (old : List Byte) : State :=
  let s := s.each (List.range 20) fun k t => t.chanOff k
  let s := s.onMrt fun m => { m with fns := ⟨SafeFn.init, []⟩, eval := [], conns := ⟨⟨none, [], false, 0, 0, [], none, 1, false⟩, []⟩ }
  (s.each (List.range 32) fun c t => t.setReg .MRT_CONN_STAT c 0).mortiseTable fun n => decide (inRecOf old n ≠ s.inRec n)

end Sys2Proof.Machine
end

