-- ==== Sys2Proof/Machine/Network.lean ====
section
/-! DEFINITION. The site network, partners, points and rings: ports, roll call, point exchange, sessions, EXI jobs, host point
writes, ring indices, and what they do at a marker (file 12, R315 to R343). A roll-call message is its bytes; certificates, keys
and the EXI codec are opaque (log entry 5). -/

namespace Sys2Proof.Machine

open Sys2Proof

/-- A change of the network's own state and of a partner slot. -/
def State.onNet (s : State) (f : Net → Net) : State := { s with net := f s.net }
def State.onPartner (s : State) (n : Nat) (f : Slot → Slot) : State := s.onNet fun x => { x with slots := x.slots.upd n f }
def State.partner (s : State) (n : Nat) : Slot := s.net.slots.get n

/-- NET_SLOT_STAT.STATE: 0 FREE, 1 CHALLENGED, 2 BOUND, 3 LOST. -/
def State.partnerState (s : State) (n : Nat) : Nat := s.fld F.NET_SLOT_STAT_STATE n

/-- Load the network's registers from an image (R332, R340). -/
def State.netLoad (s : State) (m : Image) : State :=
  let b := m.body tyNET
  let s := s.each (List.range 32) fun o t => t.setReg .NET_SESS_CFG o (BitVec.ofNat 32 (netSession b o))
  s.each (List.range 256) fun n t =>
    match (netSlots b).find? fun d => decide (d.slot = n) with
    | some d => (t.setFld F.NET_SLOT_STAT_DEFINED n 1).setFld F.NET_SLOT_STAT_KIND n d.kind
    | none => (t.setReg .NET_SLOT_STAT n 0).onPartner n fun _ => Slot.free

/-! ### Ports and gPTP (R315 to R317) -/

/-- The SPEED of a port that is up: by its MODE, or what SGMII auto-negotiated. -/
def portSpeed (port mode speed : Nat) : Nat :=
  if port < 2 then 5 else if 6 ≤ port then 1
  else match mode with | 1 => 4 | 2 => speed | 3 => 1 | 4 => 2 | _ => 3

/-- PORT_LINK_UP (R315): a port that is off has no link. PLCA is active on ports 6 to 9 in a PLCA mode. -/
def execPortLinkUp (port speed : Nat) (plca : Bool) (s : State) : Host.Outcome State Fault Refusal :=
  .next (s.live 0 (let mode := netPortMode (s.body tyNET) port
    if mode = 0 then s
    else ((s.setFld F.NET_PORT_STAT_LINK port 1).setFld F.NET_PORT_STAT_SPEED port (portSpeed port mode speed)).setFlag
      F.NET_PORT_STAT_PLCA port (plca && decide (6 ≤ port ∧ 2 ≤ mode))))

/-- LINK_DOWN (R343). -/
def execLinkDown (port : Nat) (s : State) : Host.Outcome State Fault Refusal :=
  .next (s.live 0 (if s.flag F.NET_PORT_STAT_LINK port then
      (((s.setFld F.NET_PORT_STAT_LINK port 0).setFld F.NET_PORT_STAT_SPEED port 0).setFld F.NET_PORT_STAT_PLCA port 0).report 0x0701 port
    else s))

/-- PTP_GM_CHANGE (R317): neither counter changes. The best master clock algorithm decides the grandmaster. -/
def execPtpGmChange (master synced : Bool) (offset : Int) (s : State) : Host.Outcome State Fault Refusal :=
  .next (s.live 0 ((((s.setFlag F.NET_PTP_STAT_GM 0 master).setFlag F.NET_PTP_STAT_SYNCED 0 synced).setFld F.NET_PTP_STAT_OFFSET 0
    (unsignedOf 16 (clampInt (-32768) 32767 offset))).report 0x0784))

/-- At a stroke marker: the gPTP time is latched, and gate control cycles start (R317). -/
def State.netMarker (s : State) (ptp : Nat) : State :=
  let s := s.setPair .NET_PTP_AT_MARKER_LO .NET_PTP_AT_MARKER_HI 0 ptp
  (netGcls (s.body tyNET)).1.foldl (fun t g =>
    if t.now % max g.2 1 = 0 then t.onNet fun x => { x with gateFrom := x.gateFrom.set g.1 t.now } else t) s

/-! ### Roll-call messages (R328 to R330) -/

/-- A message read from its bytes: the header, the body, and what follows it. -/
structure RollMsg where
  typ : Nat
  sender : Nat
  counter : Nat
  head : List Byte
  body : List Byte
  tail : List Byte
  deriving DecidableEq, Repr

/-- The message of some bytes; `none` for a bad MAGIC, VER or LEN. -/
def readRoll (b : List Byte) : Option RollMsg :=
  let n := u16 b 4
  if 24 ≤ b.length ∧ u8 b 0 = 0x52 ∧ u8 b 1 = 0x43 ∧ u8 b 2 = 1 ∧ 24 + n ≤ b.length then
    some { typ := u8 b 3, sender := uN b 8 8, counter := uN b 16 8, head := b.take 24, body := slice b 24 n, tail := b.drop (24 + n) }
  else none

/-- The header of a message of the station (R329). -/
def State.rollHead (s : State) (typ len counter : Nat) : List Byte :=
  [0x52, 0x43, 1, BitVec.ofNat 8 typ] ++ leBytes 2 len ++ leBytes 2 0 ++ (s.body tyNET).take 8 ++ leBytes 8 counter

/-- The next COUNTER of the station. -/
def State.nextCounter (s : State) : Nat := (s.net.counter + 1) % 2 ^ 64
def State.counted (s : State) (typ : Nat) : State :=
  (s.onNet fun x => { x with counter := (x.counter + 1) % 2 ^ 64 }).count 11 (30 + typ)

/-- The session context of a slot is valid (R413, R417): its site key is usable, and is of the GEN under which it was derived. -/
def State.sessionLive (s : State) (n : Nat) : Bool :=
  match s.slotDef n with
  | some d => decide (s.useCode d.key 0 12 = 0 ∧ s.fld F.CFR_SLOT_GEN_GEN d.key = (s.partner n).gen)
  | none => false

/-- Send a message with no protection, and a sealed one under the session key of a slot (R330). -/
def State.sendPlain (s : State) (typ addr : Nat) (body : List Byte) : State :=
  (s.counted typ).send .rollCall addr (s.rollHead typ body.length s.nextCounter ++ body)
def State.sendSealed (s : State) (typ n : Nat) (body : List Byte) : State :=
  if !s.sessionLive n then s
  else
    let h := s.rollHead typ body.length s.nextCounter
    let x := s.partner n
    (s.counted typ).send .rollCall x.addr (h ++ gcmSeal x.key (leBytes 4 0 ++ leBytes 8 s.nextCounter) h body)

/-- The station is the peg holder (R328, R335). -/
def State.station (s : State) : Bool := s.holds

/-- A record of a slot's change of state in ring 60 (R332). -/
def State.slotEvent (s : State) (n event reason : Nat) : State :=
  s.ringDeliver 60 (leBytes 6 s.now ++ [BitVec.ofNat 8 n, BitVec.ofNat 8 event, BitVec.ofNat 8 (s.fld F.NET_SLOT_STAT_KIND n),
    BitVec.ofNat 8 reason] ++ leBytes 6 0 ++ leBytes 8 (s.partner n).sender ++ leBytes 8 0)

/-- REJECT (R330): sent with its reason, 0702h. -/
def State.reject (s : State) (addr reason : Nat) : State :=
  (s.sendPlain 5 addr (leBytes 1 reason ++ leBytes 7 0)).report 0x0702 reason

/-- Points of a slot: its inputs are those that it writes, the others are outputs (R332). -/
def State.isInput (s : State) (d : SlotDef) (p : Nat) : Bool :=
  match s.schema p with | some c => decide (c.writer = 5 ∧ c.ident = d.slot) | none => false
def State.slotInputs (s : State) (d : SlotDef) : List Nat :=
  ((List.range d.objs).map fun k => d.base + k).filter (s.isInput d)
def State.slotOutputs (s : State) (d : SlotDef) : List Nat :=
  (List.range d.objs).filter fun k => !s.isInput d (d.base + k)

/-- Every input point of a slot takes COMM_LOST (R331, R334). -/
def State.inputsLost (s : State) (n : Nat) : State :=
  match s.slotDef n with
  | some d => s.each (s.slotInputs d) fun p t => t.markPoint p 6
  | none => s

/-! ### Admission (R331, R341) -/

/-- A SENDER's announcements are ignored now. -/
def State.ignoring (s : State) (sender : Nat) : Bool :=
  s.net.ignored.any fun g => decide (g.sender = sender ∧ s.now < g.until_)

/-- A failed RESPONSE: 10 s, doubling at each repeat up to 5 min. -/
def State.ignoreSender (s : State) (sender : Nat) : State :=
  let w := match s.net.ignored.find? fun g => decide (g.sender = sender) with
    | some g => min (2 * g.wait) 300
    | none => 10
  s.onNet fun x => { x with ignored := (x.ignored.filter fun g => decide (g.sender ≠ sender)) ++
    [(⟨sender, s.now + s.strokesIn (w * 100000000), w⟩ : Ignored)] }

/-- The slot a partner takes: its own, or the lowest free one of its KIND that admits any identity. -/
def State.chooseSlot (s : State) (sender kind : Nat) : Option SlotDef :=
  let own (d : SlotDef) : Bool := decide (d.kind = kind) &&
    ((!d.any && decide (d.eui = sender)) || (decide (s.partnerState d.slot ≠ 0) && decide ((s.partner d.slot).sender = sender)))
  match s.slotDefs.find? own with
  | some d => some d
  | none =>
    let free := (s.slotDefs.filter fun d => decide (d.kind = kind ∧ s.partnerState d.slot = 0) && d.any).map fun d => d.slot
    match free.min? with
    | some n => s.slotDef n
    | none => none

/-- The slot in which a SENDER stands with a challenge or a session. -/
def State.slotOfSender (s : State) (sender : Nat) : Option Nat :=
  (s.slotDefs.find? fun d => decide (s.partnerState d.slot ≠ 0 ∧ (s.partner d.slot).sender = sender)).map fun d => d.slot

/-- 32 random bytes. -/
def State.random32 (s : State) : List Byte := leBytes 32 (s.fresh 256).toNat

/-- CHALLENGE (R331): a BOUND slot stays bound until ACCEPT. -/
def State.challenge (s : State) (n sender addr : Nat) : State :=
  let nonce := s.random32
  let bound := decide (s.partnerState n = 2)
  let s := s.tick.setFld F.NET_SLOT_STAT_STATE n (if bound then 2 else 1)
  let s := s.onPartner n fun x => if bound then { x with nonceD := nonce, asked := s.now, rebind := true }
    else { Slot.free with sender := sender, addr := addr, nonceD := nonce, asked := s.now }
  s.sendPlain 2 addr nonce

/-- ANNOUNCE (R331): the station chooses a slot and sends CHALLENGE, or REJECT with reason 1. -/
def State.announce (s : State) (port addr : Nat) (b : List Byte) : State :=
  if !s.station then s
  else
    match readRoll b with
    | none => s.violation 1 1 (some port) 255 none b
    | some m =>
      let s := s.count 11 31
      if m.typ ≠ 1 ∨ m.body.length ≠ 8 ∨ m.tail ≠ [] then s.violation 1 1 (some port) 255 (some m.sender) b
      else if s.ignoring m.sender then s
      else
        match s.slotOfSender m.sender with
        | some n =>
          if s.partnerState n = 2 ∧ (s.partner n).addr ≠ addr then s.violation 1 3 (some port) n (some m.sender) b
          else
            match s.chooseSlot m.sender (u8 m.body 0) with
            | some d => s.challenge d.slot m.sender addr
            | none => s.reject addr 1
        | none =>
          match s.chooseSlot m.sender (u8 m.body 0) with
          | some d => s.challenge d.slot m.sender addr
          | none => s.reject addr 1

def execAnnounce (port addr : Nat) (frame : List Byte) (s : State) : Host.Outcome State Fault Refusal :=
  .next (s.live 0 (s.announce port addr frame))

/-- The reason for which a RESPONSE is rejected: 2 certificate, 3 signature, 4 kind, 5 timeout; 0 for none. -/
def State.responseFault (s : State) (d : SlotDef) (m : RollMsg) : Nat :=
  let x := s.partner d.slot
  let certs := slice m.body 72 (u32 m.body 68)
  let ca := match s.slotKey d.ca 0 1 with | some k => Config.certChains certs k | none => false
  if x.asked + s.strokesIn 100000000 < s.now then 5
  else if m.body.length ≠ 72 + u32 m.body 68 ∨ 2048 < u32 m.body 68 ∨ ca = false ∨ Config.leafSender certs ≠ m.sender then 2
  else if Config.leafKind certs ≠ d.kind ∨ u8 m.body 64 ≠ d.kind then 4
  else
    match trailer m.tail with
    | some (alg, _, sig) =>
      if 2 ≤ alg ∧ alg ≤ 4 ∧ Config.leafAlg certs = alg ∧ m.body.take 32 = x.nonceD ∧
        Config.sigVerify alg (Config.leafKey certs) (m.head ++ m.body) sig false = true then 0 else 3
    | none => 3

/-- A rejected partner: a CHALLENGED slot becomes FREE with event 4; a BOUND slot's session goes on. -/
def State.refusePartner (s : State) (n reason : Nat) : State :=
  let s := s.reject (s.partner n).addr reason
  if s.partnerState n = 1 then
    ((s.setFld F.NET_SLOT_STAT_STATE n 0).slotEvent n 4 reason).onPartner n fun _ => Slot.free
  else s.onPartner n fun x => { x with rebind := false }

/-- The body of ACCEPT (R330). -/
def State.acceptBody (s : State) (d : SlotDef) : List Byte :=
  let conns := (List.range 32).filter fun c => d.conns.testBit c
  leBytes 1 d.slot ++ leBytes 3 0 ++ leBytes 4 s.period ++ leBytes 2 d.live ++ leBytes 1 conns.length ++ leBytes 1 0
    ++ conns.flatMap fun c => leBytes 1 c ++ leBytes 3 0 ++ leBytes 4 (match s.connRec c with | some r => r.ident | none => 0)

/-- The Tenon connections of a slot take a new session: a producer sends BIND, a consumer waits for it (R331). -/
def State.bindConns (s : State) (d : SlotDef) : State :=
  s.each ((List.range 32).filter fun c => d.conns.testBit c) fun c t =>
    let nonce := (t.partner d.slot).nonceD.take 4
    match t.connRec c with
    | some r =>
      (((t.torqueLost c).setFlag F.MRT_CONN_STAT_VALID c r.produces).onConn c fun x =>
        { x with nonce := some nonce, bind := r.produces, next := 1, bound := false, good := 0, data := [] }).onMrt fun m =>
          { m with press := m.press.set (64 + c) none }
    | none => t

/-- ACCEPT (R331): the session key, the signed ACCEPT, the slot BOUND; a rebind ends the old session. -/
def State.acceptPartner (s : State) (d : SlotDef) (site signing : List Byte) (m : RollMsg) : State :=
  let n := d.slot
  let x := s.partner n
  let nonceP := slice m.body 32 32
  let info := [0x72, 0x6F, 0x6C, 0x6C, 0x20, 0x63, 0x61, 0x6C, 0x6C] ++ leBytes 8 m.sender ++ (s.body tyNET).take 8
  let key := Config.sessionKey site (x.nonceD ++ nonceP) info
  let again := decide (s.partnerState n = 2)
  let body := s.acceptBody d
  let h := s.rollHead 4 body.length s.nextCounter
  let st := u16 (s.body tyNET) 8
  let sig := Config.sign (s.slotAlg st) signing (h ++ body) false (s.fresh 256)
  let s := s.tick.send .rollCall x.addr (h ++ body ++ leBytes 1 (s.slotAlg st) ++ leBytes 1 0 ++ leBytes 2 st ++ leBytes 2 sig.length
    ++ leBytes 2 0 ++ sig)
  let s := if again then s.inputsLost n else s
  let s := (s.counted 4).onPartner n fun y => { y with
    nonceP := nonceP, key := key, gen := s.fld F.CFR_SLOT_GEN_GEN d.key, inCtr := 0, rebind := false, frames := 0, badAt := [], last := s.now }
  let s := ((s.setFld F.NET_SLOT_STAT_STATE n 2).setFld F.NET_SLOT_STAT_AGE n 0).bindConns d
  (s.slotEvent n (if again then 5 else 1) 0).report 0x0781 n

/-- RESPONSE (R331): checked, and answered by ACCEPT or REJECT. A station without its site key or its signing key admits nobody
(reason 1). -/
def State.response (s : State) (port addr : Nat) (b : List Byte) : State :=
  if !s.station then s
  else
    match readRoll b with
    | none => s.violation 1 1 (some port) 255 none b
    | some m =>
      let s := s.count 11 33
      if m.typ ≠ 3 ∨ m.body.length < 72 then s.violation 1 1 (some port) 255 (some m.sender) b
      else
        match s.slotOfSender m.sender with
        | none => s
        | some n =>
          match s.slotDef n with
          | none => s
          | some d =>
            if s.partnerState n = 3 then s
            else if s.partnerState n = 2 ∧ (s.partner n).addr ≠ addr then s.violation 1 3 (some port) n (some m.sender) b
            else
              let r := s.responseFault d m
              if r = 5 then s.refusePartner n 5
              else if r ≠ 0 then ((s.refusePartner n r).ignoreSender m.sender).violation 1 2 (some port) n (some m.sender) b
              else
                match s.slotKey d.key 0 12, s.slotKey (u16 (s.body tyNET) 8) 0 0 with
                | some k, some g => s.acceptPartner d k g m
                | _, _ => s.refusePartner n 1

def execResponse (port addr : Nat) (frame : List Byte) (s : State) : Host.Outcome State Fault Refusal :=
  .next (s.live 0 (s.response port addr frame))

/-- RESPONSE_TIMEOUT (R331): 1 s after CHALLENGE. -/
def execResponseTimeout (slot : Nat) (s : State) : Host.Outcome State Fault Refusal :=
  .next (s.live 0 (if (s.partnerState slot = 1 ∨ (s.partner slot).rebind = true) ∧ (s.partner slot).asked + s.strokesIn 100000000 ≤ s.now then
      s.refusePartner slot 5
    else s))

/-! ### Point exchange (R333, R334) -/

/-- A connection that the device produces for a slot is no longer VALID when the slot's session ends; a brake test that needs it is
aborted in the cycle that sees it (R278). A consuming connection follows its own watchdog (R334). -/
def State.producersLost (s : State) (n : Nat) : State :=
  match s.slotDef n with
  | some d => s.each ((List.range 32).filter fun c => d.conns.testBit c) fun c t =>
      t.when (match t.connRec c with | some r => r.produces | none => false) fun u => u.setFld F.MRT_CONN_STAT_VALID c 0
  | none => s

/-- A partner is lost (R334). -/
def State.partnerLost (s : State) (n : Nat) : State :=
  ((((s.producersLost n).setFld F.NET_SLOT_STAT_STATE n 3).inputsLost n).slotEvent n 2 0).report 0x0703 n

/-- A sealed message whose tag fails or whose COUNTER is not above the last accepted: dropped; 3 within 100 heats lose the
slot (R341). -/
def State.sealFail (s : State) (port n sender : Nat) (b : List Byte) : State :=
  let s := (s.bumpSat F.NET_SLOT_STAT_BAD n).violation 2 1 (some port) n (some sender) b
  let l := s.heat :: (s.partner n).badAt.filter fun h => decide (s.heat < h + 100)
  if 3 ≤ l.length ∧ s.partnerState n = 2 then (s.onPartner n fun x => { x with badAt := [] }).partnerLost n
  else s.onPartner n fun x => { x with badAt := l }

/-- The plain body of a sealed message of a partner: its tag passes under the session key. -/
def State.unseal (s : State) (n : Nat) (m : RollMsg) : Option (List Byte) :=
  if m.counter < (s.partner n).inCtr ∨ s.sessionLive n = false then none
  else gcmOpen (s.partner n).key (leBytes 4 1 ++ leBytes 8 m.counter) m.head (m.body ++ m.tail)

/-- One entry of a PX frame (R333). -/
def State.pxEntry (s : State) (d : SlotDef) (port ofs sender : Nat) (b e : List Byte) : State :=
  let obj := u16 e 0
  let p := d.base + obj
  let bad := decide (d.objs ≤ obj) || decide (u8 e 2 ≠ s.pointType p ∨ 4 < u8 e 3)
  let s := if bad || !s.isInput d p then s.violation 2 3 (some port) d.slot (some sender) b else s
  if d.objs ≤ obj then s
  else s.writePoint { id := p, cls := 5, ident := d.slot, value := BitVec.ofNat 64 (uN e 4 8), qual := if bad then 4 else u8 e 3,
                      time := s.now, ofs := ofs }

/-- PX (R333): authenticated, at most 4 frames a heat, its entries written. -/
def State.pxReceive (s : State) (port ofs : Nat) (b : List Byte) : State :=
  if !s.station then s
  else
    match readRoll b with
    | none => s.violation 1 1 (some port) 255 none b
    | some m =>
      let s := s.count 11 36
      if m.typ ≠ 6 ∨ m.tail.length ≠ 16 then s.violation 1 1 (some port) 255 (some m.sender) b
      else
        match s.slotOfSender m.sender with
        | none => s.violation 2 1 (some port) 255 (some m.sender) b
        | some n =>
          match s.slotDef n with
          | none => s.violation 2 1 (some port) 255 (some m.sender) b
          | some d =>
            if s.partnerState n ≠ 2 then s.sealFail port n m.sender b
            else
              match s.unseal n m with
              | none => s.sealFail port n m.sender b
              | some body =>
                let s := s.onPartner n fun x => { x with inCtr := m.counter + 1 }
                if 4 ≤ (s.partner n).frames then (s.bumpSat F.NET_SLOT_STAT_BAD n).violation 2 2 (some port) n (some m.sender) b
                else if body.length ≠ 16 + 12 * u16 body 2 ∨ u16 body 2 = 0 ∨ 116 < u16 body 2 ∨ u8 body 0 ≠ n then
                  (s.bumpSat F.NET_SLOT_STAT_BAD n).violation 1 1 (some port) n (some m.sender) b
                else
                  let s := (s.onPartner n fun x => { x with frames := x.frames + 1, last := s.now }).setFld F.NET_SLOT_STAT_AGE n 0
                  s.each (List.range (u16 body 2)) fun k t => t.pxEntry d port ofs m.sender b (slice body (16 + 12 * k) 12)

def execPx (port ofs : Nat) (frame : List Byte) (s : State) : Host.Outcome State Fault Refusal := .next (s.live 0 (s.pxReceive port ofs frame))

/-- LEAVE (R334). -/
def State.leave (s : State) (port : Nat) (b : List Byte) : State :=
  if !s.station then s
  else
    match readRoll b with
    | none => s.violation 1 1 (some port) 255 none b
    | some m =>
      let s := s.count 11 37
      if m.typ ≠ 7 ∨ m.tail.length ≠ 16 ∨ m.body.length ≠ 8 then s.violation 1 1 (some port) 255 (some m.sender) b
      else
        match s.slotOfSender m.sender with
        | none => s.violation 2 1 (some port) 255 (some m.sender) b
        | some n =>
          if s.partnerState n ≠ 2 then s.sealFail port n m.sender b
          else
            match s.unseal n m with
            | none => s.sealFail port n m.sender b
            | some body =>
              let s := ((s.producersLost n).setFld F.NET_SLOT_STAT_STATE n 0).inputsLost n
              ((s.slotEvent n 3 (u8 body 0)).report 0x0782 n).onPartner n fun _ => Slot.free

def execLeave (port : Nat) (frame : List Byte) (s : State) : Host.Outcome State Fault Refusal := .next (s.live 0 (s.leave port frame))

/-- PARTNER_LOST (R334): no authenticated PX for LIVE_TO. -/
def execPartnerLost (slot : Nat) (s : State) : Host.Outcome State Fault Refusal :=
  .next (s.live 0 (match s.slotDef slot with
    | some d =>
      if s.partnerState slot = 2 ∧ (s.partner slot).last + s.strokesIn (10000000 * d.live) ≤ s.now then s.partnerLost slot else s
    | none => s))

/-- One entry of the station's PX (R333). -/
def State.pxOut (s : State) (d : SlotDef) (k : Nat) : List Byte :=
  let p := s.point (d.base + k)
  leBytes 2 k ++ [BitVec.ofNat 8 (s.pointType (d.base + k)), BitVec.ofNat 8 p.qual] ++ leBytes 8 p.value.toNat

/-- PX_SEND (R333): every output object of each BOUND slot, at most 116 to a frame. -/
def State.pxSend (s : State) : State :=
  if !s.station then s
  else
    s.slotDefs.foldl (fun t d =>
      if t.partnerState d.slot ≠ 2 then t
      else
        let outs := t.slotOutputs d
        (List.range 4).foldl (fun t q =>
          let part := slice116 outs q
          if part = [] then t
          else t.sendSealed 6 d.slot (leBytes 1 d.slot ++ leBytes 1 1 ++ leBytes 2 part.length ++ leBytes 4 0 ++ leBytes 8 t.heat
            ++ part.flatMap (t.pxOut d))) t) s
where
  /-- The q-th part of at most 116 objects. -/
  slice116 (l : List Nat) (q : Nat) : List Nat := (l.drop (116 * q)).take 116

/-- The network's counts at a heat marker: the age of each bound slot and its frames of the heat. -/
def State.netHeat (s : State) : State :=
  s.slotDefs.foldl (fun t d =>
    let t := t.onPartner d.slot fun x => { x with frames := 0 }
    if t.partnerState d.slot = 2 then t.setFld F.NET_SLOT_STAT_AGE d.slot (min 65535 ((t.now - (t.partner d.slot).last) / 100)) else t) s

/-- The station's ANNOUNCE (R335): ROLE 1 active, 3 under green timber, 4 at a takeover; the station's KIND is not stated. -/
def State.stationAnnounce (s : State) (role : Nat) : State :=
  ((s.sendPlain 1 0 ([s.fresh 8, BitVec.ofNat 8 role] ++ leBytes 6 0)).tick).onNet fun x => { x with announced := some s.now }

/-- STATION_ANNOUNCE (R335): 10 s after the last one. -/
def execStationAnnounce (s : State) : Host.Outcome State Fault Refusal :=
  .next (s.live 0 (if s.station && (match s.net.announced with | some t => decide (t + s.strokesIn 1000000000 ≤ s.now) | none => true) then
      s.stationAnnounce (if s.jny.active.serial = 0 then 3 else 1)
    else s))

/-! ### Sessions (R338, R340) -/

/-- The attach rule at a stroke marker: strokes in a row in which the point reads 0 or is not of good quality. -/
def State.attachStroke (s : State) : State :=
  s.each (List.range 32) fun o t =>
    if !t.flag F.NET_SESS_CFG_EN o then t
    else
      let good := t.pointGood (t.fld F.NET_SESS_CFG_ATTACH o)
      let out := t.detached o || !good
      let t := t.setFlag F.NET_SESS_STAT_ATTACHED o (good && decide ((t.point (t.fld F.NET_SESS_CFG_ATTACH o)).value.toNat % 2 = 1))
      t.onNet fun x => { x with attach := x.attach.set o (if out then min 2 (x.attach.get o + 1) else 0) }

/-- ATTACH_CLEARED (R340): 2 consecutive strokes; the device clears VALID itself. -/
def execAttachCleared (out : Nat) (s : State) : Host.Outcome State Fault Refusal :=
  .next (s.live 0 (if s.flag F.NET_SESS_CFG_EN out ∧ 2 ≤ s.net.attach.get out ∧ s.flag F.TRS_OUT_DEM_HI_VALID out then
      (((s.takeDemand out (s.reg .TRS_OUT_DEM_LO out) (F.TRS_OUT_DEM_HI_VALID.put (s.reg .TRS_OUT_DEM_HI out) 0)).bumpSat
        F.NET_SESS_STAT_CLEARS out)).report 0x0785 out
    else s))

/-- EXI_JOB (R338): one of the two engines takes the next job of the submission ring. -/
def execExiJob (s : State) : Host.Outcome State Fault Refusal :=
  .next (s.live 0 (let r := u8 (s.body tyNET) 0x15
    if s.ringFits r 1 32 = false ∨ 2 ≤ s.net.jobs.length then s
    else
      match s.ringTake r with
      | (none, t) => t
      | (some e, t) =>
        t.onNet fun x => { x with jobs := x.jobs ++ [(⟨u8 e 0, u8 e 1, u32 e 4, uN e 8 8, u32 e 16, u32 e 20, uN e 24 8⟩ : ExiJob)] }))

/-- What a job of the EXI engines comes to: its output and the bit position of the first error. A job with an OP or GRAMMAR out of the table, or
whose output passes OUT_MAX, fails. -/
def ExiJob.run (j : ExiJob) (msg : List Byte) : Option (List Byte) × Nat :=
  let r := Config.exi j.op j.grammar msg
  (if r.1 && decide (1 ≤ j.op ∧ j.op ≤ 2 ∧ j.grammar ≤ 3 ∧ r.2.1.length ≤ j.outMax) then some r.2.1 else none, r.2.2)

/-- A job has ended: its result is delivered in job order. -/
def State.exiDone (s : State) (j : ExiJob) (len : Option Nat) (pos : Nat) : State :=
  s.ringDeliver (u8 (s.body tyNET) 0x16) (leBytes 4 j.tag ++ leBytes 2 (if len.isSome then 0x0700 else 0x0704) ++ leBytes 2 0
    ++ leBytes 4 (len.getD 0) ++ leBytes 4 pos)

/-- A failed job (R338, R341): 0704h; an undecodable message is a violation too. -/
def State.exiFail (s : State) (j : ExiJob) (msg : List Byte) (pos : Nat) : State :=
  let t := (s.bumpSat F.NET_EXI_STAT_ERRORS 0).report 0x0704 j.tag
  (if j.op = 1 then t.violation 7 1 none 255 none msg else t).exiDone j none pos

/-- A job: the engine reads its message, and writes its output; a message that cannot be read or an output that cannot be written fails it
(R21, R40, log entry 60). -/
def State.exiRun (s : State) (j : ExiJob) : State :=
  match s.fetch ⟨12, 0⟩ j.src j.srcLen with
  | (none, t) => t.exiFail j [] 0
  | (some msg, t) =>
    match j.run msg with
    | (none, pos) => t.exiFail j msg pos
    | (some out, pos) =>
      match t.unitWrite ⟨12, 0⟩ j.out out with
      | (true, u) => u.exiDone j (some out.length) pos
      | (false, u) => u.exiFail j [] 0

/-- EXI_RESULT (R338): the oldest job ends. -/
def execExiResult (s : State) : Host.Outcome State Fault Refusal :=
  .next (s.live 0 (match s.net.jobs with
    | [] => s
    | j :: rest => (((s.onNet fun x => { x with jobs := rest }).bumpSat F.NET_EXI_STAT_JOBS 0).count 11 30).exiRun j))

/-! ### Points and rings (R321, R322, R325) -/

/-- HOST_POINT_WRITE (R321): the point named by PNT_HOST_WR_ID, with the instant of the write. -/
def State.hostPoint (s : State) (ofs : Nat) (lo hi : W32) : State :=
  let s := (s.setReg .PNT_HOST_WR_LO 0 lo).setReg .PNT_HOST_WR_HI 0 hi
  let p := s.fld F.PNT_HOST_WR_ID_POINT
  if s.pointType p = 0 then s.report 0x0802 p
  else if 5 ≤ s.fld F.PNT_HOST_WR_ID_QUAL then s.report 0x0804 p
  else s.writePoint { id := p, cls := 1, ident := 0, value := BitVec.ofNat 64 (lo.toNat + hi.toNat * 2 ^ 32),
                      qual := s.fld F.PNT_HOST_WR_ID_QUAL, time := s.now, ofs := ofs }

/-- Entries from an index to another, modulo twice the ring's entries (R325). -/
def ringDist (a b entries : Nat) : Nat := (b + 2 * entries - a) % (2 * entries)

/-- RING_CONS_WRITE (R325): software acknowledges entries of a delivery ring. A write of PNT_RING_CONS[62] acknowledges the
delivery half of ring 62, whose producer index is PEER_IDX. -/
def State.ringCons_ (s : State) (n index : Nat) : State :=
  if n = 62 then
    let d := ringDist s.pnt.peerCons index 2048
    if 4096 ≤ index ∨ ringDist s.pnt.peerCons (s.fld F.PNT_RING_STAT_PEER_IDX 62) 2048 < d then s.report 0x0803 n
    else ({ s with pnt := { s.pnt with peerCons := index } }).setFlag F.PNT_RING_STAT_IRQ 62
      (decide (index ≠ s.fld F.PNT_RING_STAT_PEER_IDX 62))
  else if s.fld F.PNT_RING_CFG_DEFINED n = 0 ∨ s.fld F.PNT_RING_CFG_DIR n = 1 then s
  else
    let d := ringDist (s.ringCons n) index (s.ringEntries n)
    if 2 * s.ringEntries n ≤ index ∨ s.ringCount n < d then s.report 0x0803 n
    else ((s.setFld F.PNT_RING_CONS_INDEX n index).ringIrq n).hallmarkAck n d

/-- RING_PROD_WRITE (R325): software submits entries to a submission ring. -/
def State.ringProd_ (s : State) (n index : Nat) : State :=
  if s.fld F.PNT_RING_CFG_DEFINED n = 0 ∨ s.fld F.PNT_RING_CFG_DIR n = 0 then s
  else if 2 * s.ringEntries n ≤ index ∨ s.ringEntries n < s.ringCount n + ringDist (s.ringProd n) index (s.ringEntries n) then
    s.report 0x0803 n
  else s.setFld F.PNT_RING_PROD_INDEX n index

/-- A point is overdue (R322): AGE_LIMIT is not 0 and its TIME lies more than AGE_LIMIT heats back; GOOD, SUBST and UNCERTAIN
are judged. -/
def State.overdue (s : State) (p : Nat) : Bool :=
  match s.schema p with
  | some c => decide (c.age ≠ 0 ∧ (s.point p).qual ≤ 2 ∧ (s.point p).time + 100 * c.age < s.now)
  | none => false

/-- STALE_SWEEP (R322): a tenth of the table each heat; a point not listed was never written. -/
def State.staleSweep (s : State) : State :=
  let old := (s.pnt.table.cells.map fun c => c.1).filter fun p => decide (p * 10 / 2 ^ 18 = s.pnt.sweep) && s.overdue p
  let s := { s with pnt := { s.pnt with sweep := (s.pnt.sweep + 1) % 10 } }
  if old = [] then s
  else (s.each old fun p t => (t.markPoint p 3).bumpSat F.PNT_STAT_STALE 0).report 0x0881

end Sys2Proof.Machine
end

