-- ==== Sys2Proof/Machine/Pair.lean ====
section
/-! DEFINITION. The pair: claims, takeover, releases, binding, alignment, the mirror, paired discrete outputs, return and handover
(file 11, R289 to R314). The nets' levels and the partner's messages come with the commands. -/

namespace Sys2Proof.Machine

open Sys2Proof

/-- UNIT of the device: true for unit B (R289). -/
def State.unitB (s : State) : Bool := s.flag F.PEG_STAT_UNIT

/-- PEG_MIRROR.LOAD (R302): 52,644 B of the 60.6 KB that the link carries in 10 µs, in % at the configured stroke period. -/
def State.showLoad (s : State) : State := s.setFld F.PEG_MIRROR_LOAD 0 (roundDiv (5264400 * 1000) (60600 * max s.period 1)).toNat

/-- A change of the Feeder link's own state and of a node's. -/
def State.onFdl (s : State) (f : Fdl → Fdl) : State := { s with fdl := f s.fdl }
def State.onNode (s : State) (a : Nat) (f : FdlNode → FdlNode) : State := s.onFdl fun x => { x with nodes := x.nodes.upd a f }

/-! ### Role and claims (R290, R295) -/

/-- PEG_ROLE_WRITE (R290, R67): a change advances the fuse counter, to 31 at most. -/
def State.roleWrite (s : State) (b : Bool) : State :=
  if s.flag F.PEG_ROLE_PREFERRED = b then s
  else if s.fld F.PEG_ROLE_CNT_COUNT = 31 then s.pegCode 0x0D06
  else (s.bumpSat F.PEG_ROLE_CNT_COUNT 0).setFlag F.PEG_ROLE_PREFERRED 0 b

/-- The device takes the peg: it drives its net, its gate opens, its keepers turn off, and in FIELD a halted core runs on
(R293, R305, R425). -/
def State.takePeg (s : State) (cause : Nat) : State :=
  let s := (((s.setFld F.PEG_STAT_HOLD 0 1).setFld F.PEG_STAT_OWN_NET 0 0).setFld F.PEG_STAT_PART_NET 0 1).setFld F.PEG_STAT_STATE 0 5
  let s := (s.onPeg fun p => { p with
    driven := true, released := false, keepers := false, kick := 0, due := none, results := [], forge := none }).modGap
  let s := (s.setFld F.PEG_SYNC_TIME_HEATS 0 0).when (decide (s.fld F.CFR_LC_STATE_STATE = 2)) fun t => { t with sys := { t.sys with halted := [] } }
  (s.pegEvent cause true).pegCode 0x0D81

/-- START_CLAIM (R295): the partner's net stayed high for 100 ms (unit A) or 2 s (unit B); the device starts as a lone one. -/
def State.startClaim (s : State) : State :=
  let st := s.fld F.PEG_STAT_STATE
  if !s.sys.booted || s.peg.driven || s.peg.released || !(decide (st = 0) || (decide (st = 1) && !s.unitB)) then s
  else
    let s := s.each s.bays fun b t => t.setRun b false
    let s := (s.onTrs fun t => { t with committed := Entry.empty s.heat }).safeOff
    let s := (s.setFld F.PEG_PDO_EFF 0 0).onPeg fun p => { p with pdo := [] }
    (s.takePeg 9).trussStart

def execStartClaim (s : State) : Host.Outcome State Fault Refusal := .next (s.live 0 s.startClaim)

/-! ### Takeover (R306 to R308, R335) -/

/-- The new holder's partners: each session's key is derived from the mirrored nonces, and its COUNTER starts 2^32 above the
mirrored value. -/
def State.adoptPartners (s : State) : State :=
  let s := s.onNet fun x => { x with counter := (x.counter + 2 ^ 32) % 2 ^ 64 }
  s.slotDefs.foldl (fun t d =>
    if t.partnerState d.slot ≠ 2 then t
    else
      let x := t.partner d.slot
      let info := [0x72, 0x6F, 0x6C, 0x6C, 0x20, 0x63, 0x61, 0x6C, 0x6C] ++ leBytes 8 x.sender ++ (t.body tyNET).take 8
      let key := match t.slotKey d.key 0 12 with | some k => Config.sessionKey k (x.nonceD ++ x.nonceP) info | none => x.key
      t.onPartner d.slot fun y => { y with key := key, gen := t.fld F.CFR_SLOT_GEN_GEN d.key, last := t.now }) s

/-- The station announces itself after a takeover (R335): ANNOUNCE with ROLE 4, a neighbour advertisement, with IPv4 an ARP. -/
def State.announceTakeover (s : State) : State :=
  let b := s.body tyNET
  let s := (s.stationAnnounce 4).send .neighbour 0 (slice b 0x18 16)
  if (u8 b 0x0C).testBit 0 then s.send .arp 0 (slice b 0x28 4) else s

/-- A standby takes over (R306, R307): Truss goes on with the mirrored entries and sets STANDBY_TOOK_OVER. -/
def State.takeOver (s : State) (cause : Nat) : State :=
  let s := (s.endTests.takePeg cause).adoptPartners.announceTakeover
  let s := if s.fld F.TRS_STAT_STATE = 3 then s.setFld F.TRS_STAT_STATE 0 1 else s
  let s := (s.onTrs fun t => { t with tookOver := true }).onFdl fun x => { x with queues := ⟨[], []⟩, air := none, counter := x.counter + 2 ^ 32 }
  s.each (List.range 64) fun a t => if t.fld F.FDL_NODE_STAT_STATE a = 1 then t.onNode a fun x => { x with last := t.now } else t

/-- TAKEOVER (R295, R306): a standby in SYNC sees the partner's net high. -/
def execTakeover (s : State) : Host.Outcome State Fault Refusal :=
  .next (s.live 0 (if s.fld F.PEG_STAT_STATE = 4 then s.takeOver 8 else s))

/-- KEEPER_TIMEOUT (R305): 1 µs after the partner's net went high. -/
def execKeeperTimeout (s : State) : Host.Outcome State Fault Refusal :=
  .next (s.live 0 (if s.holds then s else s.onPeg fun p => { p with keepers := false }))

/-! ### Nets and releases (R294, R296) -/

/-- CONTENTION (R294): both nets are driven low; unit B releases, unit A's gate opens again when the partner's net goes high. -/
def State.contention (s : State) (low : Bool) : State :=
  if !s.peg.driven then s
  else if low then
    let s := ((s.setFld F.PEG_STAT_PART_NET 0 0).setFld F.PEG_STAT_HOLD 0 0).pegCode 0x0D02
    if s.unitB then s.pegRelease 6 else s
  else (s.setFld F.PEG_STAT_PART_NET 0 1).setFld F.PEG_STAT_HOLD 0 1

def execContention (low : Bool) (s : State) : Host.Outcome State Fault Refusal := .next (s.live 0 (s.contention low))

/-- PEG_FAULT (R294): the own net is low though not driven, or high though driven. -/
def State.pegFault (s : State) (stuckLow : Bool) : State :=
  if stuckLow == s.peg.driven then s
  else
    let s := if stuckLow then s.syncLost 3 else s.pegRelease 7
    (((s.setFlag F.PEG_STAT_OWN_NET 0 (!stuckLow)).setFld F.PEG_STAT_STATE 0 6).onPeg fun p => { p with keepers := false }).pdoGate.pegCode 0x0D03

def execPegFault (stuckLow : Bool) (s : State) : Host.Outcome State Fault Refusal := .next (s.live 0 (s.pegFault stuckLow))

/-- KEEPALIVE_LOSS (R296): two refreshes of island 0 are missing. -/
def execKeepaliveLoss (s : State) : Host.Outcome State Fault Refusal := .next (s.live 0 (if s.peg.driven then s.pegRelease 1 else s))

/-- WDOG_RELEASE (R296): no KICK within PEG_WDOG.HEATS heats. -/
def execWdogRelease (s : State) : Host.Outcome State Fault Refusal :=
  .next (s.live 0 (if s.peg.driven ∧ s.flag F.PEG_CTL_WDOG_EN = true ∧ s.fld F.PEG_WDOG_HEATS ≤ s.peg.kick then (s.pegRelease 3).pegCode 0x0D09 else s))

/-- PART_NET_STUCK (R313): the partner's net is low for 1 ms while the partner states that it does not hold. -/
def execPartNetStuck (s : State) : Host.Outcome State Fault Refusal :=
  .next (s.live 0 (((s.setFld F.PEG_STAT_PART_NET 0 0).setFld F.PEG_STAT_PART_NET_STUCK 0 1).pegCode 0x0D03))

/-- PEER_IN_RESET (R312): the reset beacon is seen for 10 ms, reported once for each occurrence; or it has ended. -/
def execPeerInReset (seen : Bool) (s : State) : Host.Outcome State Fault Refusal :=
  .next (s.live 0 (if seen && !s.flag F.PEG_STAT_PEER_RESET then (s.setFld F.PEG_STAT_PEER_RESET 0 1).pegCode 0x0D08
    else if seen then s
    else s.setFld F.PEG_STAT_PEER_RESET 0 0))

/-! ### Binding and alignment (R299 to R301) -/

/-- A pair key stands in a slot whose usage permits pair binding. -/
def State.hasPairKey (s : State) : Bool := (List.range 512).any fun n => decide (s.useCode n 0 10 = 0)

/-- BIND_HANDSHAKE (R8, R289, R290, R299): refused with 0D01h, or bound; a device that does not hold the peg becomes the standby of
a partner that does. -/
def State.bindHandshake (s : State) (feat0 feat1 : W32) (unitB pref : Bool) (image : Nat) (authentic holds : Bool) (latency : Nat) : State :=
  let st := s.fld F.PEG_STAT_STATE
  if !(decide (st = 0 ∨ st = 1 ∨ st = 5)) || s.peg.refused then s
  else if feat0 ≠ s.feat0 ∨ feat1.toNat % 2 ^ 24 ≠ s.feat1.toNat % 2 ^ 24 ∨ unitB = s.unitB ∨ authentic = false ∨ s.hasPairKey = false then
    (s.onPeg fun p => { p with refused := true }).pegCode 0x0D01
  else
    let off := decide (pref ≠ s.flag F.PEG_ROLE_PREFERRED)
    let s := ((s.setFld F.PEG_STAT_LINK 0 1).setFlag F.PEG_STAT_ROLE_MISMATCH 0 off).showLoad
    let s := if off && !s.peg.roleSaid then (s.onPeg fun p => { p with roleSaid := true }).pegCode 0x0D01 else s
    let s := s.onPeg fun p => { p with pref := s.flag F.PEG_ROLE_PREFERRED, partImage := image, latency := latency, missing := 0, frames := 0, aligned := false, lockGood := 0 }
    if s.holds then s
    else if holds then
      let s := (s.setFld F.PEG_STAT_PART_NET 0 0).setFld F.PEG_STAT_STATE 0 2
      (if s.fld F.TRS_STAT_STATE = 1 then s.setFld F.TRS_STAT_STATE 0 3 else s).pdoGate
    else s.setFld F.PEG_STAT_STATE 0 1

def execBindHandshake (feat0 feat1 : W32) (unitB pref : Bool) (image : Nat) (authentic holds : Bool) (latency : Nat) (s : State) :
    Host.Outcome State Fault Refusal := .next (s.live 0 (s.bindHandshake feat0 feat1 unitB pref image authentic holds latency))

/-- BIND_RETRY (R299): every 10 s after a refusal. -/
def execBindRetry (s : State) : Host.Outcome State Fault Refusal :=
  .next (s.live 0 (if s.peg.refused then
      (if s.fld F.PEG_STAT_STATE = 0 then s.setFld F.PEG_STAT_STATE 0 1 else s).onPeg fun p => { p with refused := false }
    else s))

/-- The first marker of ALIGN stands on the holder's (R300): PEG_HEAT_OFS is the holder's heat less the own one. -/
def State.alignTo (s : State) (holder : Nat) : State :=
  (s.setPair .PEG_HEAT_OFS_LO .PEG_HEAT_OFS_HI 0 (unsignedOf 42 (((holder / 100 : Nat) : Int) - (s.heat : Int)))).onPeg fun p => { p with
    aligned := true, lockGood := 0, lockBad := 0 }

/-- LOCK_ACHIEVED (R300): 100 strokes within 5 ns. -/
def execLockAchieved (s : State) : Host.Outcome State Fault Refusal :=
  .next (s.live 0 (if s.fld F.PEG_STAT_STATE = 2 ∧ s.peg.aligned = true ∧ 100 ≤ s.peg.lockGood then
      (s.setFld F.PEG_STAT_STATE 0 3).onPeg fun p => { p with frames := 0, missing := 0, lateRun := 0 }
    else s))

/-- CATCHUP_COMPLETE (R301): equal IMAGE_IDs and a full heat of frames in time; the holder sees its partner in SYNC. -/
def State.catchupComplete (s : State) : State :=
  if s.holds && s.flag F.PEG_STAT_LINK then s.setFld F.PEG_STAT_PARTNER_SYNC 0 1
  else if s.fld F.PEG_STAT_STATE = 3 ∧ s.peg.partImage = s.jny.active.ident ∧ 100 ≤ s.peg.frames then
    (((s.setFld F.PEG_STAT_STATE 0 4).setFld F.PEG_SYNC_TIME_HEATS 0 0).onPeg fun p => { p with
      keepers := true, released := false, mismatch := 0, lateRun := 0, lockBad := 0 }).pegCode 0x0D83
  else s

def execCatchupComplete (s : State) : Host.Outcome State Fault Refusal := .next (s.live 0 s.catchupComplete)

/-- SOLLEY_LINK_LOST (R297, R304): the lanes are lost, or frames are missing or fail in 3 strokes in a row. A standby goes back to
BINDING and never claims the peg for it. -/
def State.solleyLost (s : State) (lanes : Bool) : State :=
  if s.flag F.PEG_STAT_LINK = false ∨ (lanes = false ∧ s.peg.missing < 3) then s
  else
    let st := s.fld F.PEG_STAT_STATE
    let s := (s.syncLost 1).setFld F.PEG_STAT_LINK 0 0
    let s := (s.setFld F.PEG_STAT_PARTNER_SYNC 0 0).setFld F.PEG_STAT_STATE 0 (if 2 ≤ st ∧ st ≤ 4 then 1 else st)
    (s.onPeg fun p => { p with due := none, aligned := false, frames := 0, missing := 0, results := [], forge := none }).pegCode 0x0D05

def execSolleyLinkLost (lanes : Bool) (s : State) : Host.Outcome State Fault Refusal := .next (s.live 0 (s.solleyLost lanes))

/-! ### The mirror (R128, R302 to R304) -/

/-- A heat of the holder as a heat of the standby (R300). -/
def State.ownHeat (s : State) (h : Nat) : Nat :=
  ((h : Int) - signed 42 (s.pair .PEG_HEAT_OFS_LO .PEG_HEAT_OFS_HI 0)).toNat

/-- An entry of the holder in the standby's heats. -/
def State.ownEntry (s : State) (e : Entry) : Entry :=
  { e with heat := s.ownHeat e.heat, bays := { e.bays with cells := e.bays.cells.map fun c =>
      (c.1, { c.2 with since := s.ownHeat c.2.since, act := if c.2.act = 0 then 0 else s.ownHeat c.2.act }) } }

/-- State-window words go to the mirror buffer of their engine (R128). -/
def State.mirrorWords (s : State) (l : List (Nat × Nat × W32)) : State :=
  l.foldl (fun t c => if c.1 < 48 ∧ wordState c.2.1 = true then t.onEng c.1 fun g => { g with
    mirror := (g.mirror.filter fun x => decide (x.1 ≠ c.2.1)) ++ [(c.2.1, c.2.2)] } else t) s

/-- The Truss entries of the holder, held for a takeover: the contactor commands it issued are not issued again (R307). -/
def State.mirrorTruss (s : State) (x : Entry × List Entry) : State :=
  let e := s.ownEntry x.1
  let s := (s.onTrs fun t => { t with committed := e, window := x.2.map s.ownEntry, started := true }).showWindow
  e.cmds.foldl (fun t c => t.onTrs fun y => { y with xps := y.xps.upd c.1 fun z => { z with closed := c.2 } }) s

/-- The function states of the holder, in force at the standby's next cycle start. -/
def State.loadFns (s : State) (l : List (Nat × Nat × Nat)) : State :=
  let l := l.filter fun c => decide (c.1 < s.fnCount)
  (l.foldl (fun t c => t.onFn c.1 fun x => { x with st := c.2.1, st1 := c.2.2 }) s).onMrt fun m => { m with eval := l }

/-- A consumed connection that is bound at the holder: the standby accepts its frames after the last SEQ. -/
def State.loadBound (s : State) (c : Nat × Nat) : State :=
  match s.connRec c.1 with
  | some r => if r.produces then s
    else (s.setFld F.MRT_CONN_STAT_SEQ c.1 c.2).onConn c.1 fun x => { x with bound := true, good := 0, idle := 0 }
  | none => s

/-- CATCHUP (R301): the Mortise state of the holder in full. -/
def State.loadMortise (s : State) (m : MrtMirror) : State :=
  let s := s.each (List.range 20) fun k t =>
    let on := m.cmds.contains k
    ((t.setChanBit k 30 on).setChanBit k 29 on).setChanBit k 31 on
  let s := ((s.setFld F.MRT_OUT_REQ_REQ 0 m.outReq).setFld F.MRT_BRK_REQ_REQ 0 m.brkReq).loadFns m.fns
  let s := s.each (List.range 32) fun n t => t.setFlag F.MRT_IN_STAT_STARTUP_PEND n (m.startup.contains n)
  let s := s.each (List.range 4) fun k t =>
    let tested := m.tested.contains k
    (t.setFlag F.MRT_BRK_STAT_TEST_DUE k (!tested)).onBrake k fun b => { b with valid := tested, acd := m.cmds.contains (16 + k) }
  m.bound.foldl State.loadBound s

/-- The Mortise row of the holder's safety cycle: the pulse schedule is followed; the state is loaded in CATCHUP and the channel commands are
compared in SYNC; two cycles in a row with another command end SYNC (R301, R302, R304). -/
def State.mirrorMortise (s : State) (m : MrtMirror) : State :=
  let s := s.onMrt fun x => { x with slot := m.slot % 16 }
  let mine := (List.range 20).filter fun k => s.chanBit k 30 || s.chanBit k 29
  if s.fld F.PEG_STAT_STATE = 3 then s.loadMortise m
  else
    let off := decide (mine ≠ (List.range 20).filter m.cmds.contains)
    let s := s.onPeg fun p => { p with mismatch := if off then p.mismatch + 1 else 0 }
    if 2 ≤ s.peg.mismatch then s.syncLost 3 else s

/-- The catalogue of partners of the holder (R335). The Tenon connections of a slot take a session that is new to the standby, and end with
it (R286, R331). -/
def State.mirrorPartner (s : State) (x : PartnerUpdate) : State :=
  let old := s.partner x.slot
  let was := s.partnerState x.slot
  let t := (s.setFld F.NET_SLOT_STAT_STATE x.slot x.state).onPartner x.slot fun y => { y with
    sender := x.sender, addr := x.addr, nonceD := x.nonceD, nonceP := x.nonceP, inCtr := x.inCtr }
  match t.slotDef x.slot with
  | some d =>
    if x.state = 2 then (if was = 2 ∧ old.nonceD = x.nonceD then t else t.bindConns d)
    else if was = 2 then t.producersLost x.slot else t
  | none => t

/-- An entry of ring 62 for the firmware: the delivery half of 2,048 entries behind the submission half (R327). -/
def State.deliver62 (s : State) (e : List Byte) : State :=
  let p := s.fld F.PNT_RING_STAT_PEER_IDX 62
  if ringDist s.pnt.peerCons p 2048 < 2048 ∧ e.length = 64 then
    (((s.setBytes (s.ringBase 62 + (2048 + p % 2048) * 64) e).setFld F.PNT_RING_STAT_PEER_IDX 62 ((p + 1) % 4096)).setFld F.PNT_RING_STAT_IRQ 62 1)
  else s.ringLost 62

/-- A point of the holder, written to the standby's table as it is. -/
def State.mirrorPoint (s : State) (x : PointUpdate) : State :=
  { s with pnt := { s.pnt with table := s.pnt.table.set x.id ⟨x.value, x.qual, x.seq, x.cls, x.ident, x.time, x.ofs⟩ } }

/-- A late hot-state frame is not applied to the instance that runs, and counts; 0D85h once per heat (R303). Its words wait in the mirror
buffer for the following instance (R128). -/
def State.mirrorLate (s : State) : State :=
  let s := ((s.bumpSat F.PEG_MIRROR_LATE 0).count 14 2).onPeg fun p => { p with late := true }
  if s.peg.lateSaid then s else (s.onPeg fun p => { p with lateSaid := true }).pegCode 0x0D85

/-- The Feeder-link state of the holder (R381). -/
def State.mirrorFeeder (s : State) (x : FeederMirror) : State :=
  let s := (s.onFdl fun y => { y with counter := x.counter, left := x.left }).setFld F.FDL_CURT_CTR_COUNTER 0 x.curtCtr
  let s := (s.setFlag F.FDL_CURT_ACTIVE 0 x.active).setFld F.FDL_CURT_LIMIT_LIMIT 0 x.limit
  x.nodes.foldl (fun t c => (t.setFld F.FDL_NODE_STAT_STATE c.1 c.2.1).onNode c.1 fun y => { y with inCtr := c.2.2 }) s

/-- MIRROR_FRAME on a standby in CATCHUP or SYNC. -/
def State.mirrorApply (s : State) (m : Mirror) : State :=
  let s := (s.onPeg fun p => { p with got := true, partImage := m.image, results := m.results, forge := m.forge }).count 14 1
  let s := s.setFld F.PEG_MIRROR_BACKLOG 0 (min 255 m.backlog)
  let s := ((if m.late then s.mirrorLate else s).mirrorWords m.hot).mirrorWords m.cold
  let s := match m.pdo with
    | some w => s.onPeg fun p => { p with pdo := p.pdo ++ [(w, s.now + 1)] }
    | none => s
  let s := m.points.foldl State.mirrorPoint s
  let s := m.ring62.foldl State.deliver62 s
  let s := match m.truss with | some x => s.mirrorTruss x | none => s
  let s := m.partners.foldl State.mirrorPartner s
  let s := match m.mortise with | some c => s.mirrorMortise c | none => s
  let s := m.seqs.foldl (fun t c => (t.setFld F.MRT_CONN_STAT_SEQ c.1 c.2).onConn c.1 fun x => { x with
    next := if c.2 = 65535 then 1 else c.2 + 1, bind := false }) s
  let s := match m.counter with | some c => s.onNet fun x => { x with counter := c } | none => s
  let s := match m.feeder with | some f => s.mirrorFeeder f | none => s
  if 100 < m.backlog then s.syncLost 3 else s

/-- The other device states which image it has staged and checked (R64). -/
def State.peerReport (s : State) (j : JnyMirror) : State :=
  { s with jny := { s.jny with peerStaged := j.staged.map fun i => (i, s.heat), peerState := j.state } }

/-- The standby takes the holder's JNY_APPLY_HEAT, in its own heats, and commits its copy of the image at the marker at which the holder
commits (R64, R302, R308). -/
def State.followCommit (s : State) (j : JnyMirror) : State :=
  let s := s.setPair .JNY_APPLY_HEAT_LO .JNY_APPLY_HEAT_HI 0 (if j.apply = 0 then 0 else s.ownHeat j.apply)
  let same : Bool := match s.jny.waiting with | some p => decide (j.staged = some p.image.ident) | none => false
  { s with jny := { s.jny with scheduled := j.commits && same } }

/-- The Joinery row of a frame, on either side of the pair. -/
def State.mirrorJoinery (s : State) (j : Option JnyMirror) : State :=
  match j with
  | some x => if s.standby then (s.peerReport x).followCommit x else s.peerReport x
  | none => s

/-- MIRROR_FRAME (R303): a frame that fails its CRC-32C counts as missing. On the holder a frame of the standby states whether it is
in SYNC and which image it has staged and checked (R64). -/
def State.mirrorFrame (s : State) (m : Mirror) : State :=
  let st := s.fld F.PEG_STAT_STATE
  if !m.crcOk || !s.flag F.PEG_STAT_LINK then s
  else if s.holds then
    ((s.setFlag F.PEG_STAT_PARTNER_SYNC 0 m.sync).onPeg fun p => { p with got := true, partImage := m.image }).mirrorJoinery m.joinery
  else if st = 3 ∨ st = 4 then (s.mirrorApply m).mirrorJoinery m.joinery
  else s

def execMirrorFrame (m : Mirror) (s : State) : Host.Outcome State Fault Refusal := .next (s.live 0 (s.mirrorFrame m))

/-- What the holder's Forge state says of one phase. -/
def Phase.mirror (x : Phase) (f : ForgeMirror) (p : Nat) : Phase :=
  let trim : Rat := match f.trims.find? fun c => decide (c.1 = p) with | some c => (c.2 : Rat) | none => x.trim
  let dither : Nat := match f.dither.find? fun c => decide (c.1 = p) with | some c => c.2 | none => x.dither
  { x with shed := f.shed.contains p, trim := trim, dither := dither }

/-- The CAUSE that a list gives a unit. -/
def causeIn (l : List (Nat × Nat)) (n : Nat) : Option Nat := (l.find? fun c => decide (c.1 = n)).map fun c => c.2

/-- One phase of the holder's Forge state. -/
def State.loadPhase (f : ForgeMirror) (s : State) (p : Nat) : State :=
  let cause := causeIn f.drops p
  let t := (s.setFlag F.FRG_PH_STAT_SHED p (f.shed.contains p)).setDrop p cause.isSome
  (t.setFld F.FRG_PH_STAT_CAUSE p (cause.getD (t.fld F.FRG_PH_STAT_CAUSE p))).onPhase p fun x => x.mirror f p

/-- One bay of the holder's Forge state. -/
def State.loadBay (f : ForgeMirror) (s : State) (b : Nat) : State :=
  let fault := causeIn f.faults b
  let t := (s.setFlag F.FRG_BAY_STAT_FAULT b fault.isSome).setFld F.FRG_BAY_STAT_CAUSE b (fault.getD 0)
  let t := t.setFld F.FRG_STAT_BAY_FAULT 0 (withBit (t.fld F.FRG_STAT_BAY_FAULT) b fault.isSome)
  let n := ((t.bayPhases b).filter f.shed.contains).length
  (t.setFld F.FRG_BAY_STAT_SHED b (if n = 0 then 0 else 2)).countBay b

/-- The holder's Forge state, loaded at the next marker (R302). -/
def State.loadForge (s : State) (f : ForgeMirror) : State :=
  let s := s.each s.bays fun b t => t.setRun b (f.run.contains b)
  let s := (List.range s.phaseCount).foldl (State.loadPhase f) s
  s.bays.foldl (State.loadBay f) s

/-- The lock error of a marker (R300, R304). -/
def State.lockStroke (s : State) (e : Int) : State :=
  let bad := decide (64 < e.natAbs)
  let s := (s.setFld F.PEG_LOCK_ERR 0 (unsignedOf 16 (clampInt (-32768) 32767 e))).setFld F.PEG_LOCK_PEAK 0
    (max (s.fld F.PEG_LOCK_PEAK) (min e.natAbs 65535))
  let s := if 32 < e.natAbs then s.count 14 3 else s
  let s := s.onPeg fun p => { p with lockGood := if bad then 0 else p.lockGood + 1, lockBad := if bad then p.lockBad + 1 else 0 }
  if 3 ≤ s.peg.lockBad then s.syncLost 2 else s

/-- The ring engine hands up to 128 entries of ring 62 to the partner in a stroke (R302). -/
def State.submit62 (s : State) : State :=
  (List.range 128).foldl (fun t _ => let r := t.ringTake 62
    match r.1 with | some e => r.2.send .solley 62 e | none => r.2) s

/-- The counts of frames over a stroke (R303, R304). -/
def Peg.stroke (p : Peg) : Peg :=
  let missing : Nat := if p.got then 0 else p.missing + 1
  let frames : Nat := if p.got && !p.late then p.frames + 1 else 0
  let lateRun : Nat := if p.late then p.lateRun + 1 else 0
  { p with missing := missing, frames := frames, lateRun := lateRun, got := false, late := false, forge := none }

/-- A standby in CATCHUP or SYNC at a stroke marker: the Forge state of the mirror and the counts of frames. -/
def State.standbyStroke (s : State) : State :=
  let t := match s.peg.forge with | some f => s.loadForge f | none => s
  let u := t.onPeg Peg.stroke
  if 100 ≤ u.peg.lateRun then u.syncLost 3 else u

/-- The pair's work at a stroke marker: ring 62, the lock, and the mirror. -/
def State.pegMarker (s : State) (lock : Int) : State :=
  let t := if s.flag F.PEG_STAT_LINK then s.submit62 else s
  if !t.standby then t.onPeg fun p => { p with got := false }
  else
    let u := if t.peg.aligned then t.lockStroke lock else t
    if s.fld F.PEG_STAT_STATE = 2 then u else u.standbyStroke

/-- The pair's work at a heat marker: the watchdog's count, PEG_SYNC_TIME, and equal IMAGE_IDs (R296, R304, R310). -/
def State.pegHeat (s : State) : State :=
  let s := s.onPeg fun p => { p with kick := if s.flag F.PEG_CTL_WDOG_EN then p.kick + 1 else 0, lateSaid := false }
  if s.fld F.PEG_STAT_STATE = 4 then
    if s.peg.partImage ≠ s.jny.active.ident then s.syncLost 3 else s.bumpSat F.PEG_SYNC_TIME_HEATS 0
  else s

/-! ### Paired discrete outputs (R309) -/

/-- PDO_WRITE (R309): on the holder or an unbound device; effective at the marker two strokes after this stroke. -/
def State.pdoWrite (s : State) (w : Nat) : State :=
  if s.holds ∨ s.fld F.PEG_STAT_STATE ≤ 1 then
    (s.setFld F.PEG_PDO_REQ 0 w).onPeg fun p => { p with pdo := p.pdo ++ [(w, s.now + 2)] }
  else s.pegCode 0x0D07

/-- PDO_EFFECTIVE (R309). -/
def execPdoEffective (s : State) : Host.Outcome State Fault Refusal :=
  .next (s.live 0 (match s.peg.pdo with
    | [] => s
    | c :: rest =>
      if c.2 ≤ s.now then (if s.pdoDrives then s.setFld F.PEG_PDO_EFF 0 c.1 else s).onPeg fun p => { p with pdo := rest } else s))

/-! ### Return and handover (R310, R311) -/

/-- The conditions of a return that a device sees by itself: no island warned or failed, REVERT_EN, its loader and its partner's idle, no mismatch
of the role. -/
def State.revertOk (s : State) : Bool :=
  decide (s.reg .SYS_REGION_STAT = 0 ∧ s.fld F.JNY_STAT_STATE = 0 ∧ s.jny.peerState = 0) && s.flag F.PEG_CTL_REVERT_EN && !s.flag F.PEG_STAT_ROLE_MISMATCH

/-- REVERT_REQUEST (R310): by the preferred unit after 60 s in SYNC; on the holder the request arrives. -/
def State.revertRequest (s : State) (partnerOk : Bool) : State :=
  if !s.revertOk || !partnerOk then s
  else if s.holds && s.partnerSync then s.onPeg fun p => { p with due := some 5 }
  else if s.fld F.PEG_STAT_STATE = 4 ∧ s.unitB = s.peg.pref ∧ 6000000000 ≤ s.fld F.PEG_SYNC_TIME_HEATS * (100 * s.period) ∧
      s.blw.worst < s.tWarn then
    (s.onPeg fun p => { p with due := some 5 }).send .solley 0 []
  else s

def execRevertRequest (partnerOk : Bool) (s : State) : Host.Outcome State Fault Refusal := .next (s.live 0 (s.revertRequest partnerOk))

/-- HANDOVER (R311): refused with 0D07h unless this device holds and the partner is in SYNC. -/
def State.handover (s : State) : State :=
  if s.holds && s.partnerSync then s.onPeg fun p => { p with due := some 4 } else s.pegCode 0x0D07

/-- The next marker begins a heat, and every running bay has its reference instant there (R310). -/
def State.returnMarker (s : State) : Bool :=
  decide ((s.now + 1) % 100 = 0) && s.bays.all fun b => !s.flag F.FRG_BAY_CTL_RUN b || decide (s.refInstants b (s.now + 1) ≠ [])

/-- RETURNED (R310, R311): 300 ns before the chosen marker the holder releases the peg, and the other unit takes it. -/
def State.returned (s : State) : State :=
  if s.holds then
    match s.peg.due with
    | some c =>
      if s.returnMarker && s.partnerSync then
        let t := (s.pegRelease c).setFld F.PEG_STAT_PART_NET 0 0
        if c = 5 then t.pegCode 0x0D84 else t
      else s
    | none => s
  else if s.fld F.PEG_STAT_STATE = 4 ∧ (s.now + 1) % 100 = 0 then
    let c := s.peg.due.getD 4
    let t := s.takeOver c
    if c = 5 then t.pegCode 0x0D84 else t
  else s

def execReturned (s : State) : Host.Outcome State Fault Refusal := .next (s.live 0 s.returned)

end Sys2Proof.Machine
end

