-- ==== Sys2Proof/Machine/Can.lean ====
section
/-! DEFINITION. The CAN FD controllers: reception, message objects, the transmit window, error states, listen-only and time-triggered
operation (file 13, R344 to R363). A frame is its identifier, format and data; the bits of ISO 11898-1 are below the commands. -/

namespace Sys2Proof.Machine

open Sys2Proof

/-! ### Structure (R54, R347, R359) -/

/-- A change of a controller's own state. -/
def State.canCtl (s : State) (n : Nat) : CanCtl := s.can.ctls.get n
def State.onCan (s : State) (n : Nat) (f : CanCtl → CanCtl) : State := { s with can := { s.can with ctls := s.can.ctls.upd n f } }

/-- An object record (R347). -/
structure CanObjRec where
  ctrl : Nat
  obj  : Nat
  xtd  : Bool
  min  : Nat
  ident : Nat
  point : Nat
  ptOfs : Nat
  deriving DecidableEq, Repr

/-- The parts of a CAN body: object, filter and trigger records. -/
def canObjs (b : List Byte) : List CanObjRec :=
  (List.range (u16 b 0)).map fun k =>
    let o := 168 + 16 * k
    ⟨u8 b o, u8 b (o + 1), (u8 b (o + 2)).testBit 0, u8 b (o + 3), u32 b (o + 4), u32 b (o + 8), u8 b (o + 12)⟩
def canFilterOfs (b : List Byte) : Nat := 168 + 16 * u16 b 0
def canTrigOfs (b : List Byte) : Nat := canFilterOfs b + 12 * u8 b 2

/-- Filter record `k` passes a frame of a controller. -/
def canPasses (b : List Byte) (n : Nat) (x : CanFrame) : Bool :=
  (List.range (u8 b 2)).any fun k =>
    let o := canFilterOfs b + 12 * k
    decide (u8 b o = n ∧ (u8 b (o + 1)).testBit 0 = x.xtd ∧ x.ident &&& u32 b (o + 8) = u32 b (o + 4) &&& u32 b (o + 8))

/-- A trigger record (R359). -/
structure CanTrig where
  ctrl : Nat
  typ  : Nat
  ref  : Nat
  base : Nat
  rep  : Nat
  mark : Nat
  deriving DecidableEq, Repr

def canTrigs (b : List Byte) : List CanTrig :=
  (List.range (u8 b 3)).map fun k =>
    let o := canTrigOfs b + 12 * k
    ⟨u8 b o, u8 b (o + 4), u8 b (o + 5), u8 b (o + 6), u8 b (o + 7), u32 b (o + 8)⟩

/-- Load the controllers' registers from an image (R54); time-triggered operation that the image defines anew starts afresh. -/
def State.canLoad (s : State) (m : Image) : State :=
  let b := m.body tyCAN
  s.each (List.range 8) fun n t =>
    let w (k : Nat) : W32 := BitVec.ofNat 32 (u32 b (8 + 20 * n + 4 * k))
    let was := t.fld F.CAN_CFG_TX_RING n
    let same := decide (t.fld F.CAN_CFG_TT n = (w 0).toNat / 2 ^ 24 % 4 ∧ t.reg .CAN_TT_CFG n = w 3 ∧ t.reg .CAN_TT_CYC n = w 4)
    let t := if same then t else ((t.setFld F.CAN_TT_STAT_SYNC n 0).setFld F.CAN_TT_STAT_MASTER n 0).onCan n fun x => { x with ref := none, window := false }
    let t := ((((t.setReg .CAN_CFG n (w 0)).setReg .CAN_NBT n (w 1)).setReg .CAN_DBT n (w 2)).setReg .CAN_TT_CFG n (w 3)).setReg .CAN_TT_CYC n (w 4)
    let t := if t.fld F.CAN_CFG_TX_RING n = was then t else t.onCan n fun x => { x with done := [], retries := [], cancel := [] }
    if t.flag F.CAN_CFG_EN n then t else t.setFld F.CAN_STAT_DISABLED 0 (withBit (t.fld F.CAN_STAT_DISABLED) n true)

/-! ### What a controller may do (R346, R357, R358, R361) -/

/-- The controller is off the bus: disabled. -/
def State.canOff (s : State) (n : Nat) : Bool := !s.flag F.CAN_CFG_EN n || bitOf (s.fld F.CAN_STAT_DISABLED) n
def State.canBusOff (s : State) (n : Nat) : Bool := decide (s.fld F.CAN_ERR_STATE n = 2)

/-- Listen-only: by the section, by firmware, or because the device does not hold the peg. -/
def State.canListens (s : State) (n : Nat) : Bool :=
  s.flag F.CAN_CFG_LISTEN n || s.flag F.CAN_CTL_LISTEN n || (!s.holds && !s.canOff n)

/-- The controller may send. -/
def State.canSends (s : State) (n : Nat) : Bool := !s.canOff n && !s.canBusOff n && !s.canListens n

/-- DISABLE = 1 with no frame running: the controller leaves the bus. -/
def State.canLeave (s : State) (n : Nat) : State :=
  if s.flag F.CAN_CTL_DISABLE n ∧ (s.canCtl n).attempt = none then
    s.setFld F.CAN_STAT_DISABLED 0 (withBit (s.fld F.CAN_STAT_DISABLED) n true)
  else s

/-! ### Error states (R357) -/

/-- Entering bus-off: 0901h, every entry kept, recovery at once with AUTO_REC. -/
def State.canToBusOff (s : State) (n : Nat) : State :=
  let s := ((s.setFld F.CAN_ERR_STATE n 2).bumpSat F.CAN_ERR_BUSOFFS n).setFlag F.CAN_ERR_RECOVERING n (s.flag F.CAN_CFG_AUTO_REC n)
  let s := s.setFld F.CAN_STAT_BUS_OFF 0 (withBit (s.fld F.CAN_STAT_BUS_OFF) n true)
  let s := s.setFld F.CAN_STAT_PASSIVE 0 (withBit (s.fld F.CAN_STAT_PASSIVE) n false)
  ((s.setFld F.CAN_TT_STAT_MASTER n 0).onCan n fun x => { x with ref := none }).report 0x0901 n

/-- The counters take new values: WARN at 96, error passive at 128, bus-off above 255. -/
def State.canCounters (s : State) (n tec rec_ : Nat) : State :=
  let warn := decide (96 ≤ tec ∨ 96 ≤ rec_)
  let passive := decide (128 ≤ tec ∨ 128 ≤ rec_)
  let wasWarn := s.flag F.CAN_ERR_WARN n
  let wasPassive := decide (s.fld F.CAN_ERR_STATE n = 1)
  let s := ((s.setFld F.CAN_ERR_TEC n (min tec 255)).setFld F.CAN_ERR_REC n (min rec_ 255)).setFlag F.CAN_ERR_WARN n warn
  let s := if warn && !wasWarn then s.report 0x0982 n else s
  if 255 < tec then s.canToBusOff n
  else
    let s := (s.setFld F.CAN_ERR_STATE n (if passive then 1 else 0)).setFld F.CAN_STAT_PASSIVE 0
      (withBit (s.fld F.CAN_STAT_PASSIVE) n passive)
    if passive && !wasPassive then s.report 0x0981 n else s

/-- A receiver's error: REC rises by 1 or 8; in listen-only the counters do not change (R358). -/
def State.canRxError (s : State) (n lec : Nat) (eight : Bool) : State :=
  if s.canOff n || s.canBusOff n then s
  else
    let s := s.setFld F.CAN_ERR_LEC n lec
    let s := if s.canListens n then s else s.canCounters n (s.fld F.CAN_ERR_TEC n) (s.fld F.CAN_ERR_REC n + if eight then 8 else 1)
    s.canLeave n

def execCanRxError (n lec : Nat) (eight : Bool) (s : State) : Host.Outcome State Fault Refusal := .next (s.live 0 (s.canRxError n lec eight))

/-- A frame received without error lowers REC; above 127 it takes a value from 119 to 127 that the standard leaves open. -/
def State.canRxGood (s : State) (n : Nat) : State :=
  let r := s.fld F.CAN_ERR_REC n
  if s.canListens n then s
  else if 127 < r then (s.canCounters n (s.fld F.CAN_ERR_TEC n) (119 + (s.fresh 8).toNat % 9)).tick
  else s.canCounters n (s.fld F.CAN_ERR_TEC n) (r - 1)

/-! ### Message objects (R348 to R350) -/

/-- An object, and its 128 bytes. -/
def State.canObj (s : State) (n j : Nat) : CanObj := s.can.objs.get (256 * n + j)
def canIdw (x : CanFrame) : Nat :=
  x.ident % 2 ^ 29 + (if x.xtd then 2 ^ 29 else 0) + (if x.fdf then 2 ^ 30 else 0) + (if x.brs then 2 ^ 31 else 0)
def canEntry (idw flags count time ofs : Nat) (data : List Byte) : List Byte :=
  leBytes 4 idw ++ leBytes 1 data.length ++ leBytes 1 flags ++ leBytes 2 count ++ leBytes 6 time ++ leBytes 2 ofs
    ++ (data ++ leBytes 64 0).take 64 ++ leBytes 48 0
def CanObj.bytes (x : CanObj) : List Byte :=
  canEntry x.idw ((if x.esi then 1 else 0) + (if x.new then 2 else 0) + (if x.lost then 4 else 0)) x.count x.time x.ofs x.data

/-- The record that defines an object. -/
def State.canObjRec (s : State) (n j : Nat) : Option CanObjRec :=
  (canObjs (s.body tyCAN)).find? fun r => decide (r.ctrl = n ∧ r.obj = j)

/-- A frame is stored in its object: an unread one is lost (R348), and the object's point is written while the device holds the
peg (R350, R361). -/
def State.canStore (s : State) (n ofs : Nat) (r : CanObjRec) (x : CanFrame) : State :=
  let o := s.canObj n r.obj
  let new : CanObj := ⟨canIdw x, x.esi, true, o.new || o.lost, (o.count + 1) % 65536, s.now, ofs, x.data⟩
  let s := { s with can := { s.can with objs := s.can.objs.set (256 * n + r.obj) new } }
  let s := if o.new then
      let t := s.bumpSat F.CAN_CNT_OBJ_LOST n
      if (t.canCtl n).lostSaid then t else (t.onCan n fun y => { y with lostSaid := true }).report 0x0984 n
    else s
  let mine := (List.range 32).filter fun k =>
    match (canTrigs (s.body tyCAN))[k]? with | some g => decide (g.ctrl = n ∧ g.typ = 2 ∧ g.ref = r.obj) | none => false
  let s := s.onCan n fun y => { y with seen := mine ++ y.seen.filter fun k => !mine.contains k }
  if r.point = 0xFFFFFFFF ∨ s.holds = false then s
  else s.writePoint { id := r.point % 2 ^ 18, cls := 6, ident := 256 * n + r.obj, value := BitVec.ofNat 64 (leNat ((x.data.drop r.ptOfs).take 8)),
                      qual := 0, time := s.now, ofs := ofs }

/-- OBJECT_READ (R349): a read that includes offset 00h takes a shadow and clears NEW and LOST; later ones return it. -/
def State.objectRead (s : State) (who : Initiator) (n j ofs len : Nat) : State :=
  let key := 256 * n + j
  let live := if (s.canObjRec n j).isSome then (s.canObj n j).bytes else leBytes 128 0
  if ofs = 0 ∧ 0 < len then
    let held : List (Initiator × Nat × List Byte) :=
      (s.can.shadows.filter fun c => decide (c.1 ≠ who ∨ c.2.1 ≠ key)) ++ [(who, key, live)]
    let objs := s.can.objs.upd key fun o => { o with new := false, lost := false }
    { s with can := { s.can with shadows := held, objs := objs }, resp := .data (live.take len) }
  else
    let b := match s.can.shadows.find? fun c => decide (c.1 = who ∧ c.2.1 = key) with | some c => c.2.2 | none => live
    { s with resp := .data (slice b ofs len) }

/-! ### Time-triggered operation (R359) -/

/-- The frame is the controller's reference message. -/
def State.isReference (s : State) (n : Nat) (x : CanFrame) : Bool :=
  decide (x.ident = s.fld F.CAN_TT_CFG_REF_ID n ∧ x.xtd = s.flag F.CAN_TT_CFG_XTD n ∧ x.fdf = false ∧ x.rtr = false ∧ x.data ≠ [])

/-- A received reference message: a follower, or the master of a device that does not hold the peg, takes its cycle count; one out of
sequence is a violation. -/
def State.takeReference (s : State) (n : Nat) (x : CanFrame) : State :=
  let tt := s.fld F.CAN_CFG_TT n
  if !s.isReference n x || !(decide (tt = 1) || (decide (tt = 2) && !s.holds)) then s
  else
    let c := u8 x.data 0 % 64
    let cycles := 2 ^ s.fld F.CAN_TT_CYC_CYC_EXP n
    let off := s.flag F.CAN_TT_STAT_SYNC n && decide (c ≠ (s.fld F.CAN_TT_STAT_CYCLE n + 1) % cycles)
    let s := ((s.setFld F.CAN_TT_STAT_CYCLE n c).setFld F.CAN_TT_STAT_SYNC n 1).onCan n fun y => { y with refAt := s.now }
    if off then s.violation 8 4 (some n) 255 (some 0) x.data (some (canIdw x)) n else s

/-- TT_REF_LOST (R359, R361): a controller that follows had no valid reference message for 2 × CYCLE_STROKES. -/
def execTtRefLost (n : Nat) (s : State) : Host.Outcome State Fault Refusal :=
  .next (s.live 0 (if (s.fld F.CAN_CFG_TT n = 1 ∨ (s.fld F.CAN_CFG_TT n = 2 ∧ s.holds = false)) ∧ s.flag F.CAN_TT_STAT_SYNC n = true ∧
      (s.canCtl n).refAt + 2 * s.fld F.CAN_TT_CYC_CYCLE_STROKES n ≤ s.now then
      (s.setFld F.CAN_TT_STAT_SYNC n 0).report 0x0903 n
    else s))

/-- A controller that sends no reference messages: none is due, and MASTER is 0. -/
def State.canMute (s : State) (n : Nat) : State := (s.setFld F.CAN_TT_STAT_MASTER n 0).onCan n fun x => { x with ref := none }

/-- A basic cycle starts at the time master: the next cycle count, and its message is due; an unsent one is replaced. In bus-off and
listen-only it sends none (R357, R358). -/
def State.canCycle (s : State) (n : Nat) : State :=
  let c := if s.flag F.CAN_TT_STAT_SYNC n then (s.fld F.CAN_TT_STAT_CYCLE n + 1) % 2 ^ s.fld F.CAN_TT_CYC_CYC_EXP n else 0
  let t := (s.setFld F.CAN_TT_STAT_CYCLE n c).setFld F.CAN_TT_STAT_SYNC n 1
  if t.canBusOff n || t.canListens n then t.canMute n else (t.setFld F.CAN_TT_STAT_MASTER n 1).onCan n fun x => { x with ref := some c }

/-- REFERENCE_MESSAGE (R359): at each basic cycle, on the device that holds the peg (R361). -/
def State.canMarker (s : State) : State :=
  s.each (List.range 8) fun n t =>
    if t.fld F.CAN_CFG_TT n ≠ 2 then t
    else if t.canOff n || !t.holds then t.canMute n
    else if t.now % max (t.fld F.CAN_TT_CYC_CYCLE_STROKES n) 1 ≠ 0 then t
    else t.canCycle n

/-- What a heat ends for the controllers: 0984h once per heat. -/
def State.canHeat (s : State) : State := s.each (List.range 8) fun n t => t.onCan n fun x => { x with lostSaid := false }

/-! ### Receiving (R347, R351, R360, R362) -/

/-- A dropped frame is counted. -/
def State.canDrop (s : State) (n : Nat) : State := s.bumpSat F.CAN_CNT_RX_DROP n

/-- The consuming Tenon connection on a controller with an identifier: 0 to 7FFh is a base identifier. -/
def State.canTenon (s : State) (n : Nat) (x : CanFrame) : Option Nat :=
  (List.range 32).find? fun c =>
    match s.connRec c with
    | some r => decide (r.transport = 1 ∧ r.produces = false ∧ r.port / 2 ^ 29 = n ∧ r.port % 2 ^ 29 = x.ident ∧
        x.xtd = decide (0x7FF < r.port % 2 ^ 29))
    | none => false

/-- The receive ring's entry of a frame; COUNT of such an entry is not stated. -/
def State.canToRing (s : State) (n ofs : Nat) (x : CanFrame) : State :=
  let r := s.fld F.CAN_CFG_RX_RING n
  if r = 63 ∨ canPasses (s.body tyCAN) n x = false then s.canDrop n
  else
    let e := canEntry (canIdw x) ((if x.esi then 1 else 0) + (if x.rtr then 8 else 0)) (s.fresh 16).toNat s.now ofs x.data
    let room := s.ringFits r 0 128 && s.ringRoom r 1
    let t := s.tick.ringDeliver r e
    if room then t else t.canDrop n

/-- The route of a valid frame: Tenon, object, ring, or none. A remote frame goes to the ring only. -/
def State.canRoute (s : State) (n ofs : Nat) (x : CanFrame) : State :=
  match s.canTenon n x with
  | some c =>
    if !x.fdf then (s.canDrop n).violation 8 2 (some n) 255 (some 0) x.data (some (canIdw x)) n
    else if s.mrtRuns then s.tenonReceive c (x.data.take (10 + u8 x.data 1))
    else s
  | none =>
    match (canObjs (s.body tyCAN)).find? fun r => decide (r.ctrl = n ∧ r.ident = x.ident ∧ r.xtd = x.xtd ∧ x.rtr = false) with
    | some r =>
      if x.data.length < r.min then (s.canDrop n).violation 8 1 (some n) 255 (some 0) x.data (some (canIdw x)) n
      else s.canStore n ofs r x
    | none => s.canToRing n ofs x

/-- CAN_FRAME_RECEIVED (R347). -/
def State.canReceive (s : State) (n ofs : Nat) (x : CanFrame) : State :=
  if s.canOff n || s.canBusOff n then s
  else
    let s := (s.canRxGood n).count 12 (23 + 2 * n)
    ((s.takeReference n x).canRoute n ofs x).canLeave n

def execCanFrameReceived (n ofs : Nat) (frame : CanFrame) (s : State) : Host.Outcome State Fault Refusal :=
  .next (s.live 0 (s.canReceive n ofs frame))

/-- PROTOCOL_EXCEPTION (R362): bus integration with the counters unchanged, or with PXHD = 1 a form error. -/
def State.canException (s : State) (n : Nat) (idw : W32) : State :=
  if s.canOff n || s.canBusOff n then s
  else
    let s := (s.bumpSat F.CAN_CNT_PXE n).violation 8 3 (some n) 255 (some 0) [] (some idw.toNat) n
    if s.flag F.CAN_CFG_PXHD n then s.canRxError n 2 false else s

def execProtocolException (n : Nat) (idw : W32) (s : State) : Host.Outcome State Fault Refusal := .next (s.live 0 (s.canException n idw))

/-! ### The transmit window (R352 to R356) -/

/-- A transmit entry (R352). -/
structure CanTx where
  idw : Nat
  len : Nat
  oneshot : Bool
  tt : Bool
  slot : Nat
  tag : Nat
  data : List Byte
  deriving DecidableEq, Repr

/-- The entry at a ring index. -/
def State.canTx (s : State) (n index : Nat) : CanTx :=
  let r := s.fld F.CAN_CFG_TX_RING n
  let b := s.bytes (s.ringBase r + index % s.ringEntries r * 128) 128
  let f := u8 b 5
  ⟨u32 b 0, u8 b 4, f.testBit 0, f.testBit 1, f / 16, u16 b 6, slice b 16 64⟩

/-- The entry's identifier and format. -/
def CanTx.ident (e : CanTx) : Nat := e.idw % 2 ^ 29
def CanTx.xtd (e : CanTx) : Bool := e.idw.testBit 29
def CanTx.fdf (e : CanTx) : Bool := e.idw.testBit 30
def CanTx.brs (e : CanTx) : Bool := e.idw.testBit 31

/-- The entries of the window: device-owned, at most 16 from CONS, not completed. -/
def State.canWindow (s : State) (n : Nat) : List Nat :=
  let r := s.fld F.CAN_CFG_TX_RING n
  if s.ringFits r 1 128 then
    ((List.range (min 16 (s.ringCount r))).map fun i => (s.ringCons r + i) % (2 * s.ringEntries r)).filter fun i => !(s.canCtl n).done.contains i
  else []

/-- An entry of the transmit ring is device-owned: it lies between CONS and PROD. -/
def State.canOwned (s : State) (n index : Nat) : Bool :=
  let r := s.fld F.CAN_CFG_TX_RING n
  decide (ringDist (s.ringCons r) index (s.ringEntries r) < s.ringCount r)

/-- Where a transmit ring holds no entry, as after a commit that redefined it, nothing is recorded of its entries. -/
def State.canRings (s : State) : State :=
  s.each (List.range 8) fun n t =>
    if t.canWindow n = [] ∧ t.ringCount (t.fld F.CAN_CFG_TX_RING n) = 0 then
      t.onCan n fun x => { x with done := [], retries := [], cancel := [] }
    else t

/-- CONS advances over the completed entries at the head of the ring. -/
def State.canAdvance (s : State) (n : Nat) : Nat → State
  | 0 => s
  | k + 1 =>
    let r := s.fld F.CAN_CFG_TX_RING n
    if (s.canCtl n).done.contains (s.ringCons r) ∧ s.ringCount r ≠ 0 then
      ((s.onCan n fun x => { x with done := x.done.filter (· ≠ s.ringCons r) }).ringPop r).canAdvance n k
    else s

/-- An entry completes (R354): its record, and CONS. `tried` says that an attempt of it ends here; without one the record names the end
of its last attempt, if it had any, and its retransmissions are one fewer than its attempts. -/
def State.canComplete (s : State) (n index status ofs : Nat) (tried : Bool) : State :=
  let e := s.canTx n index
  let last := (s.canCtl n).retries.find? fun c => decide (c.index = index)
  let retries := match last with | some c => min (if tried then c.fails else c.fails - 1) 255 | none => 0
  let end_ := match (if tried then none else last) with | some c => (c.at_, c.ofs) | none => (s.now, ofs)
  let owned := s.canOwned n index
  let s := s.onCan n fun x => { x with
    done := if owned then x.done ++ [index] else x.done
    cancel := x.cancel.filter (· ≠ index), retries := x.retries.filter fun c => decide (c.index ≠ index) }
  let r := s.fld F.CAN_CFG_TXC_RING n
  let s := if r = 63 then s
    else s.ringDeliver r (leBytes 2 e.tag ++ leBytes 1 status ++ leBytes 1 retries ++ leBytes 2 index ++ leBytes 2 0 ++ leBytes 6 end_.1 ++ leBytes 2 end_.2)
  s.canAdvance n 32

/-- An entry is invalid (R352). -/
def State.canInvalid (s : State) (n : Nat) (e : CanTx) : Bool :=
  (if e.fdf then !([12, 16, 20, 24, 32, 48, 64].contains e.len || decide (e.len ≤ 8)) else decide (8 < e.len))
    || (e.brs && !e.fdf) || (e.fdf && !s.flag F.CAN_CFG_FD n) || (!e.xtd && decide (0x7FF < e.ident))
    || (e.tt && decide (s.fld F.CAN_CFG_TT n = 0))

/-- The bus error of an entry that cannot be read (R21, R40), 0 for none. -/
def State.canUnread (s : State) (n index : Nat) : Nat :=
  let r := s.fld F.CAN_CFG_TX_RING n
  s.unitFault ⟨14, 0⟩ (s.ringBase r + index % s.ringEntries r * 128) 128 false

/-- ENTRY_REJECTED (R352): every invalid entry of the window completes REJECTED with 0902h; so does one that cannot be read, whose bus error is
latched (log entry 60). -/
def State.canReject (s : State) (n ofs : Nat) : State :=
  ((s.canWindow n).filter fun i => s.canInvalid n (s.canTx n i) || decide (s.canUnread n i ≠ 0)).foldl (fun t i =>
    let r := t.fld F.CAN_CFG_TX_RING n
    let c := t.canUnread n i
    let t := if c = 0 then t else t.busError ⟨14, 0⟩ (t.ringBase r + i % t.ringEntries r * 128) false c
    (t.canComplete n i 6 ofs false).report 0x0902 n) s

/-- The rank of an identifier in arbitration: a base frame goes ahead of an extended frame of the same base identifier. -/
def canRank (ident : Nat) (xtd : Bool) : Nat := if xtd then ident / 2 ^ 18 * 2 ^ 19 + 2 ^ 18 + ident % 2 ^ 18 else ident * 2 ^ 19

/-- The section defines arbitrating windows for a controller. -/
def State.canArb (s : State) (n : Nat) : Bool := (canTrigs (s.body tyCAN)).any fun g => decide (g.ctrl = n ∧ g.typ = 3)

/-- The candidates of an attempt, each with its rank; on a tie the earlier stands: the reference message, entries in ring order,
Tenon buffers. Arbitrating windows bind the entries (R359). -/
def State.canCandidates (s : State) (n : Nat) : List (Nat × CanSrc) :=
  let x := s.canCtl n
  let open_ := !s.canArb n || x.window
  (match x.ref with
    | some c => [(canRank (s.fld F.CAN_TT_CFG_REF_ID n) (s.flag F.CAN_TT_CFG_XTD n), .ref c)]
    | none => [])
    ++ (if open_ then
        ((s.canWindow n).filter fun i => !(s.canTx n i).tt).map (fun i =>
          let e := s.canTx n i
          (canRank e.ident e.xtd, CanSrc.entry i false))
      else [])
    ++ x.buffers.map fun c =>
      let p := match s.connRec c.1 with | some r => r.port % 2 ^ 29 | none => 0
      (canRank p (decide (0x7FF < p)), CanSrc.tenon c.1 c.2)

/-- The candidate with the lowest rank, the first of equals. -/
def bestRank : List (Nat × CanSrc) → Option (Nat × CanSrc)
  | [] => none
  | c :: t =>
    match bestRank t with
    | some d => if d.1 < c.1 then some d else some c
    | none => some c

/-- An attempt starts. -/
def State.canStart (s : State) (n : Nat) (x : CanSrc) : State :=
  let s := (s.onCan n fun y => { y with attempt := some x }).setFld F.CAN_TX_STAT_ACTIVE n 1
  match x with
  | .entry i _ => s.setFld F.CAN_TX_STAT_CAND n i
  | _ => s

/-- CAN_TX_ATTEMPT (R353): the bus is idle, and the controller chooses its candidate. -/
def State.canAttempt (s : State) (n ofs : Nat) : State :=
  if !s.canSends n || decide ((s.canCtl n).attempt ≠ none) then s
  else
    let s := s.canReject n ofs
    match bestRank (s.canCandidates n) with
    | some c => s.canStart n c.2
    | none => s

def execCanTxAttempt (n ofs : Nat) (s : State) : Host.Outcome State Fault Refusal := .next (s.live 0 (s.canAttempt n ofs))

/-- The frame of an attempt as it goes out: IDW and data. -/
def State.canFrameOut (s : State) (n : Nat) : CanSrc → List Byte
  | .entry i _ => let e := s.canTx n i; leBytes 4 e.idw ++ e.data.take e.len
  | .tenon c b =>
    let p := match s.connRec c with | some r => r.port % 2 ^ 29 | none => 0
    leBytes 4 (p + (if 0x7FF < p then 2 ^ 29 else 0) + 2 ^ 30) ++ b
  | .ref c => leBytes 4 (s.fld F.CAN_TT_CFG_REF_ID n + if s.flag F.CAN_TT_CFG_XTD n then 2 ^ 29 else 0) ++ leBytes 1 c

/-- An attempt ended sent. -/
def State.canSent (s : State) (n ofs : Nat) (x : CanSrc) : State :=
  let s := ((s.send .can n (s.canFrameOut n x)).count 12 (24 + 2 * n)).canCounters n (s.fld F.CAN_ERR_TEC n - 1) (s.fld F.CAN_ERR_REC n)
  match x with
  | .entry i _ =>
    if (s.canCtl n).cancel.contains i then ((s.canComplete n i 2 ofs true).bumpSat F.CAN_CNT_LATE_CANCEL n).report 0x0985 n
    else s.canComplete n i 1 ofs true
  | .tenon c b => s.onCan n fun y => { y with buffers := y.buffers.filter fun z => decide (z ≠ (c, b)) }
  | .ref c => s.onCan n fun y => { y with ref := if y.ref = some c then none else y.ref, refAt := s.now }

/-- An attempt of an entry failed with a status: cancelled, attempted once, or to be retransmitted. -/
def State.canFailed (s : State) (n ofs status : Nat) (x : CanSrc) : State :=
  match x with
  | .entry i excl =>
    let once := excl || (s.canTx n i).oneshot || s.flag F.CAN_CFG_ONESHOT n
    let s := if excl then s.bumpSat F.CAN_TT_STAT_TX_FAIL n else s
    if (s.canCtl n).cancel.contains i then s.canComplete n i 3 ofs true
    else if once then s.canComplete n i status ofs true
    else
      let k := match (s.canCtl n).retries.find? fun c => decide (c.index = i) with | some c => c.fails | none => 0
      s.onCan n fun y => { y with retries := (y.retries.filter fun c => decide (c.index ≠ i)) ++ [⟨i, k + 1, s.now, ofs⟩] }
  | _ => s

/-- An attempt that listen-only cut off (R358, R361): the counters do not change, and the entry stays pending unless it was cancelled. -/
def State.canCut (s : State) (n ofs : Nat) (x : CanSrc) : State :=
  match x with
  | .entry i _ => if (s.canCtl n).cancel.contains i then s.canComplete n i 3 ofs true else s
  | _ => s

/-- CAN_TX_COMPLETE (R354, R355, R357). -/
def State.canEnd (s : State) (n : Nat) (r : CanEnd) (ofs : Nat) : State :=
  match (s.canCtl n).attempt with
  | none => s
  | some x =>
    let cut := s.canListens n
    let s := (s.onCan n fun y => { y with attempt := none }).setFld F.CAN_TX_STAT_ACTIVE n 0
    let s := if cut then s.canCut n ofs x else match r with
      | .sent => s.canSent n ofs x
      | .lostArb => s.canFailed n ofs 4 x
      | .error lec counts =>
        let t := s.setFld F.CAN_ERR_LEC n lec
        let t := t.canCounters n (t.fld F.CAN_ERR_TEC n + if counts then 8 else 0) (t.fld F.CAN_ERR_REC n)
        t.canFailed n ofs 5 x
    s.canLeave n

def execCanTxComplete (n : Nat) (r : CanEnd) (ofs : Nat) (s : State) : Host.Outcome State Fault Refusal := .next (s.live 0 (s.canEnd n r ofs))

/-- CAN_TX_CANCEL (R356): of a device-owned entry; during its attempt the entry is only marked. -/
def State.canCancel (s : State) (n index ofs : Nat) : State :=
  let r := s.fld F.CAN_CFG_TX_RING n
  if s.ringFits r 1 128 = false ∨ 2 * s.ringEntries r ≤ index ∨ s.canOwned n index = false ∨ (s.canCtl n).done.contains index = true then s.report 0x0904 n
  else
    match (s.canCtl n).attempt with
    | some (.entry i _) =>
      if i = index ∧ s.canListens n = false then s.onCan n fun x => { x with cancel := index :: x.cancel.filter (· ≠ index) }
      else s.canComplete n index 3 ofs false
    | _ => s.canComplete n index 3 ofs false

/-! ### Leaving and rejoining the bus (R346, R357) -/

/-- CAN_DISABLE (R346): a frame that the controller sends or receives runs to its end first. -/
def State.canDisable (s : State) (n : Nat) (on receiving : Bool) : State :=
  let t := s.setFlag F.CAN_CTL_DISABLE n on
  if on && !receiving then t.canLeave n else t

/-- CAN_REJOIN (R346): 11 consecutive recessive bits. -/
def execCanRejoin (n : Nat) (s : State) : Host.Outcome State Fault Refusal :=
  .next (s.live 0 (if s.flag F.CAN_CFG_EN n ∧ s.flag F.CAN_CTL_DISABLE n = false then
      s.setFld F.CAN_STAT_DISABLED 0 (withBit (s.fld F.CAN_STAT_DISABLED) n false)
    else s))

/-- RECOVER (R357): refused with 0904h outside bus-off. -/
def State.canRecover (s : State) (n : Nat) : State :=
  if s.canBusOff n then s.setFld F.CAN_ERR_RECOVERING n 1 else s.report 0x0904 n

/-- RECOVERED (R357): after 128 runs of 11 recessive bits. -/
def execRecovered (n : Nat) (s : State) : Host.Outcome State Fault Refusal :=
  .next (s.live 0 (if s.canBusOff n && s.flag F.CAN_ERR_RECOVERING n then
      let t := (((s.setFld F.CAN_ERR_STATE n 0).setFld F.CAN_ERR_RECOVERING n 0).setFld F.CAN_ERR_TEC n 0).setFld F.CAN_ERR_REC n 0
      let t := (t.setFld F.CAN_ERR_WARN n 0).setFld F.CAN_STAT_BUS_OFF 0 (withBit (t.fld F.CAN_STAT_BUS_OFF) n false)
      t.report 0x0983 n
    else s))

/-! ### Triggers (R359) -/

/-- TX_EXCL: the earliest pending TT entry of the slot is attempted once; on a busy bus it completes ERROR. -/
def State.canExclusive (s : State) (n slot ofs : Nat) (busy : Bool) : State :=
  if !s.canSends n then s
  else
    let s := s.canReject n ofs
    match (s.canWindow n).find? fun i => (s.canTx n i).tt && decide ((s.canTx n i).slot = slot) with
    | none => s
    | some i =>
      if busy || decide ((s.canCtl n).attempt ≠ none) then (s.bumpSat F.CAN_TT_STAT_TX_FAIL n).canComplete n i 5 ofs false
      else s.canStart n (.entry i true)

/-- TT_TRIGGER (R359): acts in the cycles with c mod REP = BASE. -/
def State.canTrigger (s : State) (n k : Nat) (busy : Bool) (ofs : Nat) : State :=
  match (canTrigs (s.body tyCAN))[k]? with
  | none => s
  | some g =>
    if g.ctrl ≠ n ∨ s.fld F.CAN_CFG_TT n = 0 ∨ s.flag F.CAN_TT_STAT_SYNC n = false ∨ s.canOff n = true ∨
        s.fld F.CAN_TT_STAT_CYCLE n % max g.rep 1 ≠ g.base then s
    else
      match g.typ with
      | 1 => s.canExclusive n g.ref ofs busy
      | 2 =>
        if (s.canCtl n).seen.contains k then s.onCan n fun x => { x with seen := x.seen.filter (· ≠ k) }
        else s.bumpSat F.CAN_TT_STAT_MISSED n
      | 3 => s.onCan n fun x => { x with window := true }
      | 4 => s.onCan n fun x => { x with window := false }
      | _ => s

def execTtTrigger (n k : Nat) (busy : Bool) (ofs : Nat) (s : State) : Host.Outcome State Fault Refusal := .next (s.live 0 (s.canTrigger n k busy ofs))

end Sys2Proof.Machine
end

