-- ==== Sys2Proof/Machine/Receiver.lean ====
section
/-! DEFINITION. The receiver of the Feeder link (file 14, R366 to R372): the code and the interleaver, the erasure of symbol copies, the soft
sums, and the Viterbi decoder that delivers the body. -/

namespace Sys2Proof.Machine

open Sys2Proof

/-! ### Code and frame (R366, R367, R369) -/

/-- The tone of a dibit in Gray order. -/
def toneOf (d : Nat) : Nat := match d with | 0 => 0 | 1 => 1 | 3 => 2 | _ => 3

/-- Parity of a number's bits, for numbers below 2^7. -/
def parity7 (n : Nat) : Nat := ((List.range 7).filter n.testBit).length % 2

/-- The pair of coded bits (g171, g133) of a register that holds the present bit in its highest place. -/
def dibit (q : Nat) : Nat := 2 * parity7 (q &&& 0o171) + parity7 (q &&& 0o133)

/-- The dibits of the rate-½ code with constraint length 7 and generators 171 and 133 octal. -/
def convolve : Nat → List Bool → List Nat
  | _, [] => []
  | r, b :: t =>
    let q := r / 2 + if b then 64 else 0
    dibit q :: convolve q t

/-- Bits of bytes, most significant first; and back. -/
def bitsOf (b : List Byte) : List Bool := b.flatMap fun x => (List.range 8).map fun k => x.toNat.testBit (7 - k)
def bytesOf (l : List Bool) (n : Nat) : List Byte :=
  (List.range n).map fun k => BitVec.ofNat 8 (((l.drop (8 * k)).take 8).foldl (fun a b => 2 * a + if b then 1 else 0) 0)

/-- M padded to M′. -/
def padded16 (n : Nat) : Nat := (n + 15) / 16 * 16

/-- The symbol that position `p` of a block of `w` columns of 16 carries. -/
def symbolAt (w p : Nat) : Nat := p % max w 1 * 16 + p / max w 1

/-- The interleaved block of a body. -/
def interleave (l : List Nat) : List Nat :=
  let m := padded16 l.length
  (List.range m).map fun p => l.getD (symbolAt (m / 16) p) 0

/-- The position of a symbol in a block of `w` columns. -/
def positionOf (w i : Nat) : Nat := i % 16 * w + i / 16

/-- Copies of the body by mode, and the sync pattern: NORMAL, REP4, REP6. -/
def fdlCopies (mode : Nat) : Nat := match mode with | 0 => 1 | 1 => 4 | _ => 6
def fdlSync (mode : Nat) : Nat := match mode with | 0 => 0x8D2BE471 | 1 => 0x4E712BD8 | _ => 0xB1D4782E
def syncTones (mode : Nat) : List Nat := (List.range 16).map fun k => toneOf (fdlSync mode / 4 ^ (15 - k) % 4)

/-- The tones of a frame: preamble, sync, body. -/
def fdlTones (mode : Nat) (body : List Byte) : List Nat :=
  let pre := (List.range 32).map fun k => if k % 2 = 0 then 0 else 3
  let block := interleave (convolve 0 (bitsOf body ++ List.replicate 6 false))
  pre ++ syncTones mode ++ ((List.replicate (fdlCopies mode) block).flatten.map toneOf)

/-- The body of a frame with its CHECK (R368). -/
def fdlFrame (dst src ctl : Nat) (payload : List Byte) : List Byte :=
  let b := leBytes 1 dst ++ leBytes 1 src ++ leBytes 1 ctl ++ leBytes 1 payload.length ++ payload
  b ++ [BitVec.ofNat 8 (crc16 b / 256), BitVec.ofNat 8 (crc16 b)]

/-! ### Erasure (R371) -/

/-- The energy of a tone, the largest one, and the larger guard energy. -/
def inTone (x : ToneInput) (k : Nat) : Nat := match k with | 0 => x.tone0 | 1 => x.tone1 | 2 => x.tone2 | _ => x.tone3
def inPeak (x : ToneInput) : Nat := max (max x.tone0 x.tone1) (max x.tone2 x.tone3)
def inGuard (x : ToneInput) : Nat := max x.below x.above

/-- The level of an input over a symbol: all that its filters pass. -/
def inLevel (x : ToneInput) : Nat := x.tone0 + x.tone1 + x.tone2 + x.tone3 + x.below + x.above

/-- An energy stands more than `db` dB above another. -/
def aboveBy (db a b : Nat) : Bool := decide (b ^ 10 * 10 ^ db < a ^ 10)

/-- The larger guard energy lies within `thr` dB of the largest tone energy. -/
def inNoisy (x : ToneInput) (thr : Nat) : Bool := !aboveBy thr (inPeak x) (inGuard x)

/-- The erased symbols of one input, from the level for which its gain stands and the symbols that a gain change still takes: a step of
more than 6 dB starts a change of 5 symbols, the first the one with the step. -/
def erasures (thr : Nat) : Nat → Nat → List ToneInput → List Bool
  | _, _, [] => []
  | level, left, x :: t =>
    let step := aboveBy 6 (inLevel x) level || aboveBy 6 level (inLevel x)
    let n := if step then 5 else left
    let erased := decide (0 < n) || x.clip || inNoisy x thr
    erased :: erasures thr (if step then inLevel x else level) (n - 1) t

/-- A symbol copy at one input: whether it is erased, and its energies. -/
structure Copy where
  erased : Bool
  x : ToneInput
  deriving DecidableEq, Repr

/-- The copies of an input's symbols; its gain stands for the level of the first. -/
def copies (thr : Nat) (l : List ToneInput) : List Copy :=
  (erasures thr (match l with | x :: _ => inLevel x | [] => 0) 0 l).zipWith (fun e x => ⟨e, x⟩) l

/-- The inputs in use (R376): the phase that PHASE names, or all three. -/
def inputOf (x : FdlSymbol) (k : Nat) : ToneInput := match k with | 0 => x.l1 | 1 => x.l2 | _ => x.l3
def State.fdlInputs (s : State) : List Nat := if s.flag F.FDL_CFG_COUPLING then [0, 1, 2] else [s.fld F.FDL_CFG_PHASE]

/-! ### Soft sums and decoding (R371, R372) -/

/-- The sum of a tone's energies over unerased copies. -/
def softSum (l : List Copy) (tone : Nat) : Nat := ((l.filter fun c => !c.erased).map fun c => inTone c.x tone).foldl (· + ·) 0

/-- The four sums of a symbol; all 0, an erasure, with no unerased copy. -/
def softSums (l : List Copy) : List Nat := (List.range 4).map (softSum l)

/-- A path into a state of the decoder: its metric and its bits, the last one first. -/
structure Path where
  metric : Nat
  bits   : List Bool
  deriving DecidableEq, Repr

/-- A path goes on by one bit: the register after it is `q`. -/
def Path.extend (sums : List Nat) (q : Nat) (p : Path) : Path := ⟨p.metric + sums.getD (toneOf (dibit q)) 0, decide (64 ≤ q) :: p.bits⟩

/-- The better of two paths into state `n` at symbol `i`. -/
def better (i n : Nat) (a b : Option Path) : Option Path :=
  match a, b with
  | some x, some y => if x.metric < y.metric || (decide (x.metric = y.metric) && Config.equalPaths i n) then some y else some x
  | some x, none => some x
  | none, y => y

/-- One symbol of the decoder over its 64 states, a state the last 6 bits with the latest in its highest place. -/
def viterbiStep (l : List (Option Path)) (i : Nat) (sums : List Nat) : List (Option Path) :=
  (List.range 64).map fun n =>
    let q := n * 2
    better i n ((l.getD (q % 64) none).map (Path.extend sums q)) ((l.getD (q % 64 + 1) none).map (Path.extend sums (q + 1)))

/-- All symbols, from the all-zero state; the path that ends in the all-zero state, its bits in order. -/
def viterbi (l : List (List Nat)) : List Bool :=
  let start := some ⟨0, []⟩ :: List.replicate 63 none
  match (l.zipIdx.foldl (fun a x => viterbiStep a x.2 x.1) start).head? with
  | some (some p) => p.bits.reverse
  | _ => []

/-- The mode whose sync pattern agrees with the received symbols in the most places. -/
def modeOf (sync : List Nat) : Nat :=
  let hits (m : Nat) : Nat := ((sync.zip (syncTones m)).filter fun c => decide (c.1 = c.2)).length
  if hits 1 ≤ hits 0 ∧ hits 2 ≤ hits 0 then 0 else if hits 2 ≤ hits 1 then 1 else 2

/-- The tone with the largest sum. -/
def loudest (sums : List Nat) : Nat :=
  (List.range 4).foldl (fun b k => if sums.getD b 0 < sums.getD k 0 then k else b) 0

/-- The symbols of a body of `n` bytes, from the copies of each position. -/
def bodySums (w q n : Nat) (at_ : Nat → List Copy) : List (List Nat) :=
  (List.range (8 * n + 6)).map fun i => softSums ((List.range q).flatMap fun r => at_ (r * (16 * w) + positionOf w i))

/-- A received frame, decoded: its body and how many of its body symbols were erased at every input in use. -/
structure Decoded where
  body   : List Byte
  erased : Nat
  total  : Nat
  deriving DecidableEq, Repr

/-- The body of a frame from its sync and body symbols. M′ leaves two lengths; the one that the decoded LEN names stands. -/
def fdlDecode (thr : Nat) (inputs : List Nat) (sym : List FdlSymbol) : Decoded :=
  let seen := inputs.map fun k => copies thr (sym.map fun x => inputOf x k)
  let all (p : Nat) : List Copy := seen.filterMap fun l => l[p]?
  let mode := modeOf ((List.range 16).map fun p => loudest ((List.range 4).map fun k => ((all p).map fun c => inTone c.x k).foldl (· + ·) 0))
  let total := sym.length - 16
  let q := fdlCopies mode
  let w := total / q / 16
  let bytes (n : Nat) : List Byte := bytesOf (viterbi (bodySums w q n fun p => all (16 + p))) n
  let long := bytes (2 * w - 1)
  let body := if u8 long 3 + 6 = 2 * w - 1 then long else bytes (2 * w - 2)
  ⟨body, ((List.range total).filter fun p => (all (16 + p)).all fun c => c.erased).length, total⟩

end Sys2Proof.Machine
end

