-- ==== Sys2Proof/Machine/Feeder.lean ====
section
/-! DEFINITION. The Feeder link: frames, modes, queues, site nodes and curtailment (file 14, R364 to R382). A received frame is given by the energies
of its symbols; a sent frame is the tones it puts on air. -/

namespace Sys2Proof.Machine

open Sys2Proof

/-! ### Structure (R54, R377) -/

/-- The FDL section, its node count, and whether the part and the section give a link that is enabled. -/
def State.fdlBody (s : State) : List Byte := s.body tyFDL
def State.fdlOn (s : State) : Bool := s.hasFeeder && s.flag F.FDL_CFG_EN && !s.flag F.FDL_CTL_DISABLE

/-- A node record (R377). -/
structure NodeRec where
  addr : Nat
  band : Nat
  objs : Nat
  base : Nat
  key  : Nat
  live : Nat
  refresh : Nat
  deriving DecidableEq, Repr

def nodeRec (b : List Byte) (a : Nat) : Option NodeRec :=
  let o := 32 + 16 * a
  if a < u8 b 0 then some ⟨u8 b o, u8 b (o + 1), u8 b (o + 2), u32 b (o + 4), u16 b (o + 8), u16 b (o + 10), u16 b (o + 12)⟩ else none
def State.node (s : State) (a : Nat) : Option NodeRec := nodeRec s.fdlBody a

/-- The node of an address in a band. -/
def State.nodeOf (s : State) (band addr : Nat) : Option Nat :=
  (List.range 64).find? fun a => match s.node a with | some r => decide (r.band = band ∧ r.addr = addr) | none => false

/-- Load the link's registers from an image: the nodes it defines are LIVE, their loss time starts afresh. -/
def State.fdlLoad (s : State) (m : Image) : State :=
  let b := m.body tyFDL
  let s := s.setReg .FDL_CFG 0 (BitVec.ofNat 32 (u32 b 4))
  let s := s.each (List.range 4) fun k t => t.setReg .FDL_BAND_CFG k (BitVec.ofNat 32 (u32 b (16 + 4 * k)))
  let s := s.setFld F.FDL_CURT_GROUP 0 (u8 b 1)
  s.each (List.range 64) fun a t =>
    if (nodeRec b a).isSome then
      if t.fld F.FDL_NODE_STAT_STATE a = 0 then
        ((t.setFld F.FDL_NODE_STAT_STATE a 1).setFld F.FDL_NODE_STAT_TX_MODE a (match nodeRec b a with
          | some r => t.fld F.FDL_BAND_CFG_MODE_MAX r.band | none => 0)).onNode a fun x => { x with last := t.now, sent := t.now }
      else t
    else (t.setReg .FDL_NODE_STAT a 0).onNode a fun _ => ⟨none, 0, 0, 0, []⟩

/-- The last Feeder-link status code, reported. -/
def State.fdlCode (s : State) (code : Nat) (subject : Nat := 0) : State := (s.setFld F.FDL_STAT_CODE 0 code).report code subject

/-! ### Modes (R373) -/

/-- A mode kept within a band's bounds. -/
def State.boundMode (s : State) (band m : Nat) : Nat :=
  max (s.fld F.FDL_BAND_CFG_MODE_MIN band) (min m (s.fld F.FDL_BAND_CFG_MODE_MAX band))

/-- MODE_CHANGE: the receiver requests the next more robust mode of a sender, or the next less robust one. -/
def State.askRobust (s : State) (a : Nat) : State :=
  (s.setFld F.FDL_NODE_STAT_RX_MODE a (min 2 (s.fld F.FDL_NODE_STAT_RX_MODE a + 1))).onNode a fun x => { x with clean := 0 }
def State.askLess (s : State) (a : Nat) : State :=
  (s.setFld F.FDL_NODE_STAT_RX_MODE a (s.fld F.FDL_NODE_STAT_RX_MODE a - 1)).onNode a fun x => { x with clean := 0 }

/-- The share of erased symbols of a frame: above 20 % the more robust mode is requested, after 16 frames in a row below 5 % the less
robust one. -/
def State.judgeErased (s : State) (a : Nat) (d : Decoded) : State :=
  let s := s.setFld F.FDL_NODE_STAT_ERASED a (100 * d.erased / max d.total 1)
  if d.total < 5 * d.erased then s.askRobust a
  else if 20 * d.erased < d.total then
    let t := s.onNode a fun x => { x with clean := x.clean + 1 }
    if 16 ≤ (t.fdl.nodes.get a).clean then t.askLess a else t
  else s.onNode a fun x => { x with clean := 0 }

/-- A sender requests a mode of the device: used from the next frame on, a change reports 0A82h. -/
def State.takeMode (s : State) (a band m : Nat) : State :=
  let m := s.boundMode band m
  if s.fld F.FDL_NODE_STAT_TX_MODE a = m then s else (s.setFld F.FDL_NODE_STAT_TX_MODE a m).fdlCode 0x0A82 a

/-- EXPECTED_FRAME_MISSING (R373). -/
def execExpectedFrameMissing (a : Nat) (s : State) : Host.Outcome State Fault Refusal :=
  .next (s.live 0 (if s.fdlOn && (s.node a).isSome then s.askRobust a else s))

/-! ### Receiving (R368, R377, R379) -/

/-- The nonce of a POINTS frame. -/
def pointsNonce (dir addr counter : Nat) : List Byte := leBytes 1 dir ++ leBytes 1 addr ++ leBytes 2 0 ++ leBytes 4 counter ++ leBytes 4 0

/-- An entry of a node's POINTS frame, under the entry rule of R333. -/
def State.nodeEntry (s : State) (r : NodeRec) (ofs : Nat) (e : List Byte) : State :=
  let p := r.base + u16 e 0
  if r.objs ≤ u16 e 0 then s
  else
    let bad := decide (u8 e 2 ≠ s.pointType p ∨ 4 < u8 e 3)
    s.writePoint { id := p, cls := 7, ident := 0, value := BitVec.ofNat 64 (uN e 4 8), qual := if bad then 4 else u8 e 3, time := s.now, ofs := ofs }

/-- A POINTS frame is accepted when its tag verifies and its COUNTER lies above the last accepted one; a LOST node is LIVE again.
The node states of a standby come from the mirror (R381). -/
def State.fdlPoints (s : State) (a : Nat) (r : NodeRec) (ofs : Nat) (head payload : List Byte) : State :=
  let n := payload.length - 8
  let ctr := u32 payload 0
  let tagOk := (s.slotKeys r.key 0 12).any fun k =>
    decide ((gcmSeal k (pointsNonce 1 r.addr ctr) (head ++ payload.take n) []).take 8 = payload.drop n)
  let newer := match (s.fdl.nodes.get a).inCtr with | some c => decide (c < ctr) | none => true
  if !(s.holds && tagOk && newer && decide (16 ≤ payload.length ∧ n = 8 + 12 * u8 payload 4)) then s
  else
    let lost := decide (s.fld F.FDL_NODE_STAT_STATE a = 2)
    let s := (s.onNode a fun x => { x with inCtr := some ctr, last := s.now }).setFld F.FDL_NODE_STAT_AGE a 0
    let s := if lost then (s.setFld F.FDL_NODE_STAT_STATE a 1).fdlCode 0x0A84 a else s
    s.each (List.range (u8 payload 4)) fun k t => t.nodeEntry r ofs (slice payload (8 + 12 * k) 12)

/-- Whole heats in a time of n minutes. -/
def State.heatsOfMin (s : State) (n : Nat) : Nat := s.strokesIn (6000000000 * n) / 100

/-- The remaining minutes of a limit, rounded up, and what MRAM keeps (R380). -/
def State.saveCurtail (s : State) : State :=
  let m := match s.fdl.left with | some h => (h + s.heatsOfMin 1 - 1) / max (s.heatsOfMin 1) 1 | none => 0
  (s.setFld F.FDL_CURT_REMAIN 0 (min m 0x3FFF)).onFdl fun x => { x with leftSaved := x.left }

/-- A limit begins or ends. -/
def State.setCurtail (s : State) (limit : Option Nat) (left : Option Nat) : State :=
  let s := (s.setFlag F.FDL_CURT_ACTIVE 0 limit.isSome).setFld F.FDL_CURT_LIMIT_LIMIT 0 (limit.getD 0x7FFFFFFF)
  (s.onFdl fun x => { x with left := left, cmdHeat := s.heat }).saveCurtail

/-- A band A command (R379): ignored for another group, discarded with 0A01h, or CURTAIL_ACCEPTED with 0A81h. A
standby's curtailment comes from the mirror (R381): of an authentic frame it takes only that band A is not silent. -/
def State.curtailCommand (s : State) (head payload : List Byte) : State :=
  let own := u8 s.fdlBody 1
  let ctr := u32 payload 4
  let nonce := leBytes 4 0 ++ leBytes 4 ctr ++ leBytes 4 0
  let tagOk := (s.slotKeys (u16 s.fdlBody 2) 0 11).any fun k =>
    decide ((gcmSeal k nonce (head ++ payload.take 16) []).take 16 = payload.drop 16)
  if payload.length ≠ 32 ∨ (u8 payload 1 ≠ 0 ∧ u8 payload 1 ≠ own) then s
  else if !s.holds then (if tagOk then s.onFdl fun x => { x with beaconAt := s.now, heard := true } else s)
  else if !tagOk || decide (ctr ≤ s.fld F.FDL_CURT_CTR_COUNTER) then s.fdlCode 0x0A01
  else
    let s := (s.setFld F.FDL_CURT_CTR_COUNTER 0 ctr).onFdl fun x => { x with beaconAt := s.now, heard := true }
    let s := match u8 payload 0 with
      | 1 => s.setCurtail (some (u32 payload 8)) (if u16 payload 12 = 0 then none else some (s.heatsOfMin (u16 payload 12)))
      | 2 => s.setCurtail none none
      | _ => s
    s.fdlCode 0x0A81

/-- A TENON frame goes to the consuming connection of the band whose CONN_ID its CRC carries. -/
def State.fdlTenon (s : State) (band : Nat) (b : List Byte) : State :=
  let mine := (List.range 32).filter fun c =>
    match s.connRec c with | some r => decide (r.transport = 2 ∧ r.produces = false ∧ r.port = band) | none => false
  let n := 6 + u8 b 1
  let hit (c : Nat) : Bool := match s.connRec c with | some r => decide (u32 b n = crcTenon (leBytes 4 r.ident ++ b.take n)) | none => false
  match (mine.find? hit).or mine.head? with
  | some c => if s.mrtRuns then s.tenonReceive c b else s
  | none => s

/-- A CHECK failure (R368, R373): counted, 0A83h once per heat for the band. -/
def State.fdlBad (s : State) (band : Nat) (b : List Byte) : State :=
  let s := s.bumpSat F.FDL_BAND_STAT_FRAMES_BAD band
  let s := if s.fdl.badSaid.contains band then s else (s.onFdl fun x => { x with badSaid := band :: x.badSaid }).fdlCode 0x0A83 band
  match s.nodeOf band (u8 b 1) with
  | some a => s.askRobust a
  | none => s

/-- The receiver of a band takes a frame: while the device transmits in a band, it does not receive there (R366). -/
def State.fdlHears (s : State) (band : Nat) : Bool :=
  s.fdlOn && s.flag F.FDL_BAND_CFG_EN band && !(s.holds && match s.fdl.air with | some x => decide (x.1 = band) | none => false)

/-- FDL_FRAME_RECEIVED (R368): what the decoder delivers of a frame (R371). -/
def State.fdlReceive (s : State) (band ofs : Nat) (d : Decoded) : State :=
  let b := d.body
  if !s.fdlHears band then s
  else
    let n := b.length - 2
    if b.length < 6 ∨ u8 b 3 + 6 ≠ b.length ∨ u8 b n * 256 + u8 b (n + 1) ≠ crc16 (b.take n) then s.fdlBad band b
    else
      let s := (s.bumpSat F.FDL_BAND_STAT_FRAMES_OK band).count 12 (39 + band)
      let node := s.nodeOf band (u8 b 1)
      let s := match node with | some a => s.judgeErased a d | none => s
      if u8 b 0 ≠ s.fld F.FDL_CFG_ADDR ∧ u8 b 0 ≠ 255 then s
      else
        let head := b.take 4
        let payload := slice b 4 (u8 b 3)
        let typ := u8 b 2 % 8
        if band = 0 then (if typ = 3 then s.curtailCommand head payload else s)
        else
          let s := match node with | some a => if u8 b 0 = 255 then s else s.takeMode a band (u8 b 2 / 8 % 4) | none => s
          if typ = 1 then s.fdlTenon band payload
          else if typ = 2 then
            match node with
            | some a => match s.node a with | some r => s.fdlPoints a r ofs head payload | none => s
            | none => s
          else s

def execFdlFrameReceived (band ofs : Nat) (sym : List FdlSymbol) (s : State) : Host.Outcome State Fault Refusal :=
  .next (s.live 0 (s.fdlReceive band ofs (fdlDecode (s.fld F.FDL_CFG_ERASE_THR) s.fdlInputs sym)))

/-! ### Transmitting (R374 to R377) -/

/-- The frame of a band that goes next: TENON ahead of POINTS, each in order. -/
def nextFrame (q : List FdlFrame) : Option FdlFrame := (q.find? fun f => decide (f.typ = 1)).or q.head?

/-- Take a frame from its queue. -/
def State.dropFrame (s : State) (band : Nat) (f : FdlFrame) : State :=
  s.onFdl fun x => { x with queues := x.queues.set band ((x.queues.get band).erase f) }

/-- The device's next COUNTER; MRAM keeps it at every 65,536th frame (R377). -/
def State.fdlCounted (s : State) : State :=
  s.onFdl fun x => { x with counter := x.counter + 1, saved := if (x.counter + 1) % 65536 = 0 then x.counter + 1 else x.saved }

/-- The payload of a POINTS frame toward a node: COUNTER, COUNT, entries, tag. -/
def State.pointsOut (s : State) (r : NodeRec) (dst ctl : Nat) (entries : List Byte) : List Byte :=
  let ctr := s.fdl.counter % 2 ^ 32
  let p := leBytes 4 ctr ++ leBytes 1 (entries.length / 12) ++ leBytes 3 0 ++ entries
  let head := leBytes 1 dst ++ leBytes 1 (s.fld F.FDL_CFG_ADDR) ++ leBytes 1 ctl ++ leBytes 1 (p.length + 8)
  match s.slotKey r.key 0 12 with
  | some k => p ++ (gcmSeal k (pointsNonce 0 r.addr ctr) (head ++ p) []).take 8
  | none => []

/-- The band is idle of the device's own frames: for 20 ms in bands B and D, 125 ms in band C. -/
def State.pausedSince (s : State) (band : Nat) : Bool :=
  match s.fdl.ended.get band with | some t => decide (t + s.ms (if band = 2 then 125 else 20) ≤ s.now) | none => true

/-- Strokes from the fall of FDL_TXEN_N to its rise for a frame of `n` symbols at 1,200 a second: 1 ms before it and 1 ms after (R370, R376). -/
def State.airTime (s : State) (n : Nat) : Nat := s.strokesIn (n * 250000 / 3 + 200000)

/-- FDL_TX_START (R374): after channel access; only the holder of the peg transmits, and never in band A (R365, R381). -/
def State.fdlStart (s : State) (band : Nat) : State :=
  if !s.fdlOn || !s.holds || !s.flag F.FDL_BAND_CFG_EN band || s.fdl.air.isSome || decide (band = 0) || !s.pausedSince band then s
  else
    match nextFrame (s.fdl.queues.get band) with
    | none => s
    | some f =>
      let node := s.nodeOf band f.dst
      let mode := match node with | some a => s.boundMode band (s.fld F.FDL_NODE_STAT_TX_MODE a) | none => s.fld F.FDL_BAND_CFG_MODE_MAX band
      let ask := match node with | some a => s.fld F.FDL_NODE_STAT_RX_MODE a | none => 0
      let ctl := f.typ + 8 * ask
      let s := s.dropFrame band f
      let s := if f.typ = 2 then s.fdlCounted else s
      let payload := if f.typ = 2 then
          match node.bind s.node with | some r => s.pointsOut r f.dst ctl f.data | none => []
        else f.data
      if payload = [] then s
      else
        let tones := fdlTones mode (fdlFrame f.dst (s.fld F.FDL_CFG_ADDR) ctl payload)
        let s := ((s.setFld F.FDL_STAT_TX 0 1).setFld F.FDL_STAT_TX_BAND 0 band).onFdl fun x => { x with
          air := some (band, f), airEnd := s.now + s.airTime tones.length }
        s.send .feeder band (tones.map fun t => BitVec.ofNat 8 t)

def execFdlTxStart (band : Nat) (s : State) : Host.Outcome State Fault Refusal := .next (s.live 0 (s.fdlStart band))

/-- FDL_TX_END (R376): FDL_TXEN_N rises 1 ms after the last body symbol. -/
def execFdlTxEnd (s : State) : Host.Outcome State Fault Refusal :=
  .next (s.live 0 (match s.fdl.air with
    | some (band, _) =>
      if s.fdl.airEnd ≤ s.now then
        (s.setFld F.FDL_STAT_TX 0 0).onFdl fun x => { x with air := none, ended := x.ended.set band (some s.now) }
      else s
    | none => s))

/-- ACCESS_TIMEOUT (R374): no access within 5 s. -/
def execAccessTimeout (band : Nat) (s : State) : Host.Outcome State Fault Refusal :=
  .next (s.live 0 (match nextFrame (s.fdl.queues.get band) with
    | some f => if f.since + s.strokesIn 500000000 ≤ s.now then (s.dropFrame band f).fdlCode 0x0A03 band else s
    | none => s))

/-- The output entries of a node as they stand. -/
def State.nodeOutputs (s : State) (r : NodeRec) : List Byte :=
  ((List.range r.objs).filter fun k => match s.schema (r.base + k) with | some c => decide (c.writer ≠ 7) | none => true).flatMap fun k =>
    let p := s.point (r.base + k)
    leBytes 2 k ++ [BitVec.ofNat 8 (s.pointType (r.base + k)), BitVec.ofNat 8 p.qual] ++ leBytes 8 p.value.toNat

/-- A node's outputs enter the queue of its band, in frames within MAX_LEN. -/
def State.queueOutputs (s : State) (a : Nat) : State :=
  match s.node a with
  | none => s
  | some r =>
    let all := s.nodeOutputs r
    let per := max ((s.fld F.FDL_BAND_CFG_MAX_LEN r.band - 16) / 12) 1 * 12
    let parts := (List.range ((all.length + per - 1) / per)).map fun k => slice all (k * per) per
    let s := parts.foldl (fun t e => t.onFdl fun x =>
      if (x.queues.get r.band).length < 16 then { x with queues := x.queues.set r.band ((x.queues.get r.band) ++ [⟨2, r.addr, 0, e, s.now⟩]) } else x) s
    s.onNode a fun x => { x with sent := s.now, shown := all }

/-- NODE_REFRESH (R377): REFRESH seconds after the last frame. -/
def execNodeRefresh (a : Nat) (s : State) : Host.Outcome State Fault Refusal :=
  .next (s.live 0 (match s.node a with
    | some r =>
      if s.fdlOn ∧ s.holds = true ∧ (s.fdl.nodes.get a).sent + s.strokesIn (100000000 * r.refresh) ≤ s.now then s.queueOutputs a else s
    | none => s))

/-- NODE_LOST (R378): no accepted frame for LIVE_TO; a standby takes the node states of the mirror (R381). -/
def execNodeLost (a : Nat) (s : State) : Host.Outcome State Fault Refusal :=
  .next (s.live 0 (match s.node a with
    | some r =>
      if s.holds = true ∧ s.fld F.FDL_NODE_STAT_STATE a = 1 ∧ (s.fdl.nodes.get a).last + s.strokesIn (100000000 * r.live) ≤ s.now then
        let t := (s.setFld F.FDL_NODE_STAT_STATE a 2).fdlCode 0x0A04 a
        t.each ((List.range r.objs).filter fun k => match s.schema (r.base + k) with | some c => decide (c.writer = 7) | none => false)
          fun k u => u.markPoint (r.base + k) 6
      else s
    | none => s))

/-! ### Curtailment (R380) -/

/-- BAND_A_SILENT: 2 × BEACON minutes without an accepted band A frame. -/
def execBandASilent (s : State) : Host.Outcome State Fault Refusal :=
  .next (s.live 0 (if s.fdlOn ∧ s.flag F.FDL_CURT_SILENT = false ∧
      s.fdl.beaconAt + s.strokesIn (6000000000 * (2 * s.fld F.FDL_CFG_BEACON)) ≤ s.now then
      (s.setFld F.FDL_CURT_SILENT 0 1).fdlCode 0x0A02
    else s))

/-- CURTAIL_EXPIRY: the DURATION has run out; a command of the same heat prevails. -/
def execCurtailExpiry (s : State) : Host.Outcome State Fault Refusal :=
  .next (s.live 0 (if s.holds = true ∧ s.flag F.FDL_CURT_ACTIVE ∧ s.fdl.left = some 0 ∧ s.fdl.cmdHeat ≠ s.heat then
      let c := s.fdl.cmdHeat
      (s.setCurtail none none).onFdl fun x => { x with cmdHeat := c }
    else s))

/-- CURTAIL_SAVE: every minute. -/
def execCurtailSave (s : State) : Host.Outcome State Fault Refusal := .next (s.live 0 (if s.hasFeeder then s.saveCurtail else s))

/-- The link at a heat marker: the CURTAIL point (CURTAIL_POINT_WRITE), the remaining heats, ages, changed outputs, noise levels. -/
def State.fdlHeat (s : State) (noise : List Nat) : State :=
  if !s.fdlOn then s
  else
    let s := s.each (List.range 4) fun b t => t.setFld F.FDL_BAND_STAT_NOISE b (noise.getD b 0)
    let s := if s.fdl.heard then s.setFld F.FDL_CURT_SILENT 0 0 else s
    let s := s.onFdl fun x => { x with heard := false, badSaid := [], left := x.left.map fun h => h - 1 }
    let p := u32 s.topo 0x18
    let limit := if s.flag F.FDL_CURT_ACTIVE then s.fld F.FDL_CURT_LIMIT_LIMIT else 0x7FFFFFFF
    let s := if p = 0xFFFFFFFF ∨ s.holds = false then s
      else s.writePoint { id := p, cls := 7, ident := 0, value := BitVec.ofNat 64 limit, qual := if s.flag F.FDL_CURT_SILENT then 4 else 0,
                          time := s.now, ofs := 0 }
    s.each (List.range 64) fun a t =>
      match t.node a with
      | some r =>
        let t := t.setFld F.FDL_NODE_STAT_AGE a (min 65535 ((t.now - (t.fdl.nodes.get a).last) / max (t.strokesIn 100000000) 1))
        if t.holds ∧ t.nodeOutputs r ≠ (t.fdl.nodes.get a).shown then t.queueOutputs a else t
      | none => t

end Sys2Proof.Machine
end

