-- ==== Sys2Proof/Machine/Ember.lean ====
section
/-! DEFINITION. The battery estimator and the Ember island (file 15, R383 to R405). The filter's steps are computed exactly and each
value it keeps is rounded to binary32. -/

namespace Sys2Proof.Machine

open Sys2Proof

/-- A change of the estimator's own state, of Ember's, and of a string's. -/
def State.onEst (s : State) (f : Est → Est) : State := { s with est := f s.est }
def State.onEmb (s : State) (f : Emb → Emb) : State := { s with emb := f s.emb }
def State.onString (s : State) (k : Nat) (f : BatString → BatString) : State := s.onEst fun e => { e with strings := e.strings.upd k f }
def State.batString (s : State) (k : Nat) : BatString := s.est.strings.get k

/-- The last Ember status code, reported. -/
def State.embCode (s : State) (code : Nat) (subject : Nat := 0) : State := (s.setFld F.EMB_STAT_CODE 0 code).report code subject

/-! ### The BAT section (R384) -/

/-- A string record; `ofs` is its place in the body. -/
structure BatRec where
  ofs    : Nat
  cells  : Nat
  rated  : Nat
  vMin   : Nat
  vMax   : Nat
  socMin : Nat
  socMax : Nat
  tgrp   : Nat
  table  : Nat
  iDis   : Nat
  iChg   : Nat
  ptI    : Nat
  ptV    : Nat
  ptT    : Nat
  wakeI  : Nat
  ch     : Nat
  gain   : W32
  deriving DecidableEq, Repr

/-- The record of a string in a BAT body, where it is enabled. -/
def batRecord (b : List Byte) (k : Nat) : Option BatRec :=
  ((List.range (u8 b 0)).map fun i => 16 + 64 * i).find? (fun o => decide (u8 b o = k) && (u8 b (o + 1)).testBit 0) |>.map fun o =>
    { ofs := o, cells := u16 b (o + 2), rated := u32 b (o + 4), vMin := u16 b (o + 8), vMax := u16 b (o + 10), socMin := u8 b (o + 12),
      socMax := u8 b (o + 13), tgrp := u8 b (o + 14), table := u8 b (o + 15), iDis := u16 b (o + 16), iChg := u16 b (o + 18),
      ptI := u32 b (o + 20), ptV := u32 b (o + 24), ptT := u32 b (o + 28), wakeI := u16 b (o + 32), ch := u8 b (o + 34),
      gain := BitVec.ofNat 32 (u32 b (o + 36)) }

/-- The record of a string of the active structure; an absent string has none (R404). -/
def State.batRec (s : State) (k : Nat) : Option BatRec := if k < s.stringCount then batRecord (s.body tyBAT) k else none

/-- The enabled strings. -/
def State.strings (s : State) : List Nat := (List.range 16).filter fun k => (s.batRec k).isSome

/-- The confidence tolerance and the learning gain, as fractions. -/
def State.confTol (s : State) : Rat := (u8 (s.body tyBAT) 3 : Rat) / 100
def State.kQ (s : State) : Rat := (u8 (s.body tyBAT) 4 : Rat) / 100

/-- A model table of the active structure. -/
def State.batTable (s : State) (t : Nat) : List Byte := (s.body tyBAT).drop (16 + 64 * u8 (s.body tyBAT) 0 + 256 * t)

/-- Between which of the temperatures 0, 15, 25 and 45 °C a temperature in 0.1 °C lies, and how far; clamped to the edges. -/
def tempSpan (t : Rat) : Nat × Rat :=
  if t ≤ 0 then (0, 0) else if t ≤ 150 then (0, t / 150) else if t ≤ 250 then (1, (t - 150) / 100)
  else if t ≤ 450 then (2, (t - 250) / 200) else (2, 1)

/-- Between which of the 21 SoC points a SoC lies, and how far. -/
def socSpan (z : Rat) : Nat × Rat :=
  if z ≤ 0 then (0, 0) else if 1 ≤ z then (19, 1) else let i := min 19 (20 * z).floor.toNat; (i, 20 * z - (i : Nat))

/-- Linear interpolation. -/
def lerp (a b x : Rat) : Rat := a + (b - a) * x

/-- OCV in mV at SoC point `k` for a temperature. -/
def ocvPoint (b : List Byte) (k : Nat) (t : Rat) : Rat :=
  let p := tempSpan t
  lerp (u16 b (42 * p.1 + 2 * k) : Rat) (u16 b (42 * (p.1 + 1) + 2 * k) : Rat) p.2 / 10

/-- OCV in mV, and its slope in mV for a change of the SoC by 1. -/
def ocv (b : List Byte) (z t : Rat) : Rat := let p := socSpan z; lerp (ocvPoint b p.1 t) (ocvPoint b (p.1 + 1) t) p.2
def ocvSlope (b : List Byte) (z t : Rat) : Rat := let p := socSpan z; 20 * (ocvPoint b (p.1 + 1) t - ocvPoint b p.1 t)

/-- The SoC of a voltage through the inverse of the OCV table, clamped to its edges. -/
def ocvInverse (b : List Byte) (v t : Rat) : Rat :=
  let g := (List.range 21).map fun k => ocvPoint b k t
  if (List.range 20).any fun k => decide (g.getD (k + 1) 0 ≤ g.getD k 0) then Config.unstated 2 0 v
  else
    match (List.range 20).find? fun k => decide (v ≤ g.getD (k + 1) 0) with
    | some k => if v ≤ g.getD k 0 then 0 else ((k : Rat) + (v - g.getD k 0) / (g.getD (k + 1) 0 - g.getD k 0)) / 20
    | none => 1

/-- A model value at a temperature: RS, RA, RB (4 bytes) and TA, TB (2 bytes). -/
def modelAt (b : List Byte) (o n : Nat) (t : Rat) : Rat :=
  let p := tempSpan t
  lerp (uN b (168 + 16 * p.1 + o) n : Rat) (uN b (168 + 16 * (p.1 + 1) + o) n : Rat) p.2

/-- SIGMA_V in mV and SIGMA_Z as a fraction. -/
def sigmaV (b : List Byte) : Rat := (u16 b 232 : Rat) / 1000
def sigmaZ (b : List Byte) : Rat := (u16 b 234 : Rat) / 100000

/-! ### The cell filter (R386, R387) -/

/-- The voltage of a cell's model under a current in A, in mV. -/
def Cell.volts (c : Cell) (b : List Byte) (t i : Rat) : Rat := ocv b c.z t - c.v1 - c.v2 - modelAt b 0 4 t * i / 1000

/-- Each value that the filter keeps is a binary32 number, and z lies within 0 to 1. -/
def Cell.kept (c : Cell) : Cell :=
  { c with z := max 0 (min 1 (r32 c.z)), v1 := r32 c.v1, v2 := r32 c.v2, p00 := r32 c.p00, p01 := r32 c.p01, p02 := r32 c.p02,
           p11 := r32 c.p11, p12 := r32 c.p12, p22 := r32 c.p22 }

/-- The prediction over Δt seconds under a current in A; `q` is the capacity in coulombs, `noise` the factor of R389. -/
def Cell.predict (c : Cell) (b : List Byte) (t i dt q noise : Rat) : Cell :=
  let ea := exp32 (div32 (-10 * dt) (modelAt b 12 2 t))
  let eb := exp32 (div32 (-10 * dt) (modelAt b 14 2 t))
  { c with z := c.z - div32 (i * dt) q, v1 := c.v1 * ea + modelAt b 4 4 t * (1 - ea) * i / 1000,
           v2 := c.v2 * eb + modelAt b 8 4 t * (1 - eb) * i / 1000,
           p00 := c.p00 + sigmaZ b ^ 2 * noise, p01 := c.p01 * ea, p02 := c.p02 * eb, p11 := c.p11 * ea * ea, p12 := c.p12 * ea * eb,
           p22 := c.p22 * eb * eb }

/-- The correction by a measured voltage in mV, with the OCV slope at z as the Jacobian. -/
def Cell.correct (c : Cell) (b : List Byte) (t i v : Rat) : Cell :=
  let h := ocvSlope b c.z t
  let g0 := c.p00 * h - c.p01 - c.p02
  let g1 := c.p01 * h - c.p11 - c.p12
  let g2 := c.p02 * h - c.p12 - c.p22
  let d := h * g0 - g1 - g2 + sigmaV b ^ 2
  let e := v - c.volts b t i
  let k0 := if d = 0 then Config.byZero g0 else g0 / d
  let k1 := if d = 0 then Config.byZero g1 else g1 / d
  let k2 := if d = 0 then Config.byZero g2 else g2 / d
  { c with z := c.z + k0 * e, v1 := c.v1 + k1 * e, v2 := c.v2 + k2 * e, p00 := c.p00 - k0 * g0, p01 := c.p01 - k0 * g1,
           p02 := c.p02 - k0 * g2, p11 := c.p11 - k1 * g1, p12 := c.p12 - k1 * g2, p22 := c.p22 - k2 * g2 }

/-- A cell's measured voltage in mV and temperature in 0.1 °C, where the point is good. -/
def State.cellVolts (s : State) (r : BatRec) (c : Nat) : Option Rat := s.goodRat (r.ptV + c)
def State.cellTemp (s : State) (r : BatRec) (c : Nat) : Option Rat := s.goodRat (r.ptT + c / max r.tgrp 1)

/-- The temperature a cell is modelled at: the measured one, else its last good one. -/
def State.tempOf (s : State) (k : Nat) (r : BatRec) (c : Nat) : Rat :=
  match s.cellTemp r c with
  | some t => t
  | none => match ((s.batString k).cells.get c).temp with | some t => (t : Rat) | none => Config.unstated 1 (2048 * k + c) 0

/-- Length of a heat in seconds. -/
def State.heatSec (s : State) : Rat := ((100 * s.period : Nat) : Rat) / 100000000

/-- The filter step of one cell in a pass. -/
def State.filterCell (k : Nat) (r : BatRec) (i : Rat) (s : State) (c : Nat) : State :=
  let b := s.batTable r.table
  let t := s.tempOf k r c
  let noise : Rat := if s.flag F.EMB_STR_STAT_SUSPECT k then 100 else 1
  let x := ((s.batString k).cells.get c).predict b t i (100 * s.heatSec) (36 * (s.batString k).q) noise
  let x := match s.cellVolts r c, s.cellTemp r c with
    | some v, some _ => x.correct b t i v
    | _, _ => x
  let x := { x.kept with temp := match s.cellTemp r c with | some u => some u.floor | none => x.temp }
  s.onString k fun y => { y with cells := y.cells.set c x }

/-! ### Strings (R387 to R392) -/

/-- The mean of the cells' z. -/
def BatString.meanZ (x : BatString) (n : Nat) : Rat :=
  if n = 0 then x.zcnt else ((List.range n).map fun c => (x.cells.get c).z).sum / n

/-- SUSPECT is set (R389). -/
def State.suspectString (s : State) (k : Nat) : State :=
  let s := s.onString k fun x => { x with learn := x.learn.map fun l => { l with doubt := true } }
  if s.flag F.EMB_STR_STAT_SUSPECT k then s else (s.setFld F.EMB_STR_STAT_SUSPECT k 1).embCode 0x1081 k

/-- A share as a register shows it, in 0.1 %. -/
def inPermille (z : Rat) : Nat := (clampInt 0 1000 (roundDiv (z * 1000 * 65536).floor 65536)).toNat

/-- EMB_STR_SOC of a string. -/
def State.showSoc (s : State) (k : Nat) (r : BatRec) : State :=
  let x := s.batString k
  let zs := (List.range r.cells).map fun c => (x.cells.get c).z
  let s := (s.setFld F.EMB_STR_SOC_ZMIN k (inPermille (zs.foldl min (zs.headD 0)))).setFld F.EMB_STR_SOC_ZMAX k
    (inPermille (zs.foldl max (zs.headD 0)))
  s.setFld F.EMB_STR_SOC_ZCNT k (inPermille x.zcnt)

/-- Step 1 of a pass (R387): ten passes in a row with a point lost make the string UNUSABLE, ten with every point good end it. -/
def State.passValid (s : State) (k : Nat) (r : BatRec) : State :=
  let good := s.pointGood r.ptI && (List.range r.cells).all fun c => (s.cellVolts r c).isSome && (s.cellTemp r c).isSome
  let s := s.onString k fun x => { x with lost := if good then 0 else x.lost + 1, good := if good then x.good + 1 else 0 }
  let x := s.batString k
  if s.flag F.EMB_STR_STAT_UNUSABLE k then (if 10 ≤ x.good then s.setFld F.EMB_STR_STAT_UNUSABLE k 0 else s)
  else if 10 ≤ x.lost then (s.setFld F.EMB_STR_STAT_UNUSABLE k 1).embCode 0x1005 k
  else s

/-- The mean current of a pass in A. -/
def BatString.mean (x : BatString) : Rat := if x.heats = 0 then ((x.last.getD 0 : Int) : Rat) / 10 else x.sum / x.heats / 10

/-- Time of a rest after which a rest point is taken: 30 min in 10 ns. -/
def restTime : Nat := 180000000000

/-- Step 3, part 1 (R388): a cell at rest. -/
def State.restCell (k : Nat) (r : BatRec) (s : State) (c : Nat) : State :=
  let b := s.batTable r.table
  let z : Rat := match s.cellVolts r c with
    | some v => ocvInverse b v (s.tempOf k r c)
    | none => ((s.batString k).cells.get c).z
  s.onString k fun x => { x with cells := x.cells.upd c fun y => { y with
    z := max 0 (min 1 (r32 z)), v1 := 0, v2 := 0, p00 := r32 (sigmaZ b ^ 2 * 100) } }

/-- Step 3: the rest point. -/
def State.restPoint (s : State) (k : Nat) (r : BatRec) : State :=
  let s := (List.range r.cells).foldl (State.restCell k r) s
  let s := s.onString k fun x => { x with zcnt := x.meanZ r.cells }
  if s.flag F.EMB_STR_STAT_REST k then s else (s.setFld F.EMB_STR_STAT_REST k 1).embCode 0x1082 k

/-- The distance of two numbers. -/
def apartBy (a b : Rat) : Rat := if a ≤ b then b - a else a - b

/-- Step 4 (R389): the conflict test; `old` is z_cnt before a rest point taken in this pass. -/
def State.conflict (s : State) (k : Nat) (r : BatRec) (old : Option Rat) : State :=
  let x := s.batString k
  match old with
  | some z =>
    let s := s.onString k fun x => { x with apart := 0 }
    if s.confTol < apartBy z x.zcnt then s.suspectString k else s.setFld F.EMB_STR_STAT_SUSPECT k 0
  | none =>
    let off := decide (s.confTol < apartBy (x.meanZ r.cells) x.zcnt)
    let s := s.onString k fun y => { y with apart := if off then y.apart + 1 else 0 }
    if 10 ≤ (s.batString k).apart then s.suspectString k else s

/-- Fewer than five enabled strings learn from qualified cycles (R393). -/
def State.byCycles (s : State) : Bool := decide (s.strings.length ≤ 4)

/-- The learned capacity changes, or a value is rejected (R396). -/
def State.learnQ (s : State) (k : Nat) (r : BatRec) (fresh : Rat) : State × Option (Nat × Nat) :=
  if fresh < (r.rated : Rat) / 2 ∨ (r.rated : Rat) * 11 / 10 < fresh then
    ((s.bumpSat F.EMB_STR_LEARN_REJECTS k).embCode 0x1084 k, none)
  else
    let old : Rat := (s.fld F.EMB_STR_CAP_Q k : Nat)
    let x := old + s.kQ * (fresh - old)
    let q := (roundDiv x.num x.den).toNat
    let n := min (s.fld F.EMB_STR_LEARN_LEARNS k + 1) (2 ^ 24 - 1)
    (((s.setFld F.EMB_STR_CAP_Q k q).setFld F.EMB_STR_LEARN_LEARNS k n).embCode 0x1083 k, some (q, n))

/-- Step 5 (R394 to R396): a cycle or a span ends at a rest point whose z_cnt differs by at least 40 %; one that does not count is
discarded and the rest point starts a new one. -/
def State.learnStep (s : State) (k : Nat) (r : BatRec) (rested : Bool) : State × Option (Nat × Nat) :=
  let x := s.batString k
  let fresh (t : State) : State :=
    t.onString k fun y => { y with learn := some { from_ := y.zcnt, charge := 0, cut := false, rough := false, doubt := t.flag F.EMB_STR_STAT_SUSPECT k } }
  if !rested then (s, none)
  else
    match x.learn with
    | none => (fresh s, none)
    | some l =>
      let dz := apartBy x.zcnt l.from_
      if l.cut || (if s.byCycles then l.rough else l.doubt) then (fresh s, none)
      else if dz < 2 / 5 then (s, none)
      else
        let a := s.learnQ k r (apartBy l.charge 0 / 36 / dz)
        (fresh a.1, a.2)

/-! ### Capacity copies (R397 to R399) -/

/-- Where copy `j` of a string stands (R397, R449). -/
def copyAt (k j : Nat) : Nat := 0x21800000 + 32 * k + 16 * j

/-- A copy whose CHECK passes: Q, LEARNS, SEQ. -/
def State.capCopy (s : State) (k j : Nat) : Option (Nat × Nat × Nat) :=
  let a := copyAt k j
  if s.le (a + 12) 4 = crc32c (s.bytes a 12) then some (s.le a 4, s.le (a + 4) 4, s.le (a + 8) 4) else none

/-- The newest valid copy. -/
def State.bestCopy (s : State) (k : Nat) : Option (Nat × Nat × Nat) :=
  match s.capCopy k 0, s.capCopy k 1 with
  | some a, some b => if a.2.2 < b.2.2 then some b else some a
  | some a, none => some a
  | none, b => b

/-- Write the copy that is invalid or has the lower SEQ; its CHECK stands last. -/
def State.writeCopy (s : State) (k q learns : Nat) : State :=
  let seq := match s.bestCopy k with | some c => c.2.2 + 1 | none => 1
  let j : Nat := match s.capCopy k 0, s.capCopy k 1 with
    | none, _ => 0
    | some _, none => 1
    | some a, some b => if a.2.2 ≤ b.2.2 then 0 else 1
  let body := leBytes 4 q ++ leBytes 4 learns ++ leBytes 4 seq
  s.setBytes (copyAt k j) (body ++ leBytes 4 (crc32c body))

/-- The supply margin of R398: PFW_N is high and VDD_CORE has stayed above its warning threshold for 10 ms. -/
def State.supplyMargin (s : State) : Bool :=
  !s.flag F.PWR_STAT_PFW && !bitOf (s.fld F.PWR_STAT_WARN) 0 && decide (s.pwr.coreFrom + s.strokesIn 1000000 ≤ s.now)

/-- Step 6: the write-back of a new capacity, or of a deferred one. -/
def State.writeBack (s : State) (k : Nat) (new : Option (Nat × Nat)) : State :=
  match new.or (s.emb.defer.get k) with
  | none => s
  | some c =>
    if s.supplyMargin then ((s.writeCopy k c.1 c.2).onEmb fun e => { e with defer := e.defer.set k none }).setFld F.EMB_STR_STAT_PEND_WR k 0
    else
      let t := s.onEmb fun e => { e with defer := e.defer.set k (some c) }
      if t.flag F.EMB_STR_STAT_PEND_WR k then t else (t.setFld F.EMB_STR_STAT_PEND_WR k 1).embCode 0x1085 k

/-- A string's capacity at a device reset (R399). -/
def State.loadCap (s : State) (k : Nat) (r : BatRec) : State :=
  let s := (s.onEmb fun e => { e with defer := e.defer.set k none }).setFld F.EMB_STR_STAT_EN k 1
  let s := match s.bestCopy k with
    | some c => (s.setFld F.EMB_STR_CAP_Q k c.1).setFld F.EMB_STR_LEARN_LEARNS k c.2.1
    | none => (((s.setFld F.EMB_STR_CAP_Q k r.rated).setFld F.EMB_STR_LEARN_LEARNS k 0).setFld F.EMB_STR_STAT_NO_CAP k 1).embCode 0x1001 k
  s.onString k fun x => { x with q := s.fld F.EMB_STR_CAP_Q k }

/-- A commit's change of the strings: one added starts at Q_RATED with both copies written (R399). -/
def State.batCommit (s : State) (old : List Nat) : State :=
  s.each (List.range 16) fun k t =>
    match t.batRec k with
    | none => if old.contains k then ((t.setReg .EMB_STR_STAT k 0).setReg .EMB_STR_SOC k 0).onString k fun _ => BatString.init else t
    | some r =>
      if old.contains k then t
      else
        let u := ((t.setFld F.EMB_STR_STAT_EN k 1).setFld F.EMB_STR_CAP_Q k r.rated).setFld F.EMB_STR_LEARN_LEARNS k 0
        (((u.writeCopy k r.rated 0).writeCopy k r.rated 0).onString k fun _ => { BatString.init with q := r.rated })

/-! ### Headroom (R390, R391) -/

/-- The discharge and the charge margin of a cell in A. -/
def State.cellMargin (s : State) (k : Nat) (r : BatRec) (c : Nat) : Rat × Rat :=
  let b := s.batTable r.table
  let t := s.tempOf k r c
  let x := (s.batString k).cells.get c
  let u := ocv b x.z t - x.v1 - x.v2
  let res := modelAt b 0 4 t + modelAt b 4 4 t + modelAt b 8 4 t
  let q (n : Rat) : Rat := if res = 0 then Config.byZero n else max 0 (n * 1000 / res)
  (q (u - r.vMin), q (r.vMax - u))

/-- The voltage of a cell: measured, else the model's. -/
def State.cellVoltsOf (s : State) (k : Nat) (r : BatRec) (c : Nat) : Rat :=
  match s.cellVolts r c with
  | some v => v
  | none => ((s.batString k).cells.get c).volts (s.batTable r.table) (s.tempOf k r c) (s.batString k).mean

/-- A measured voltage at its limit, of any cell: at V_MIN, at V_MAX. -/
def State.cellAt (s : State) (r : BatRec) (low : Bool) (c : Nat) : Bool :=
  match s.cellVolts r c with
  | some v => if low then decide (v ≤ r.vMin) else decide ((r.vMax : Rat) ≤ v)
  | none => false

/-- CELL_LIMIT (R390): reported where it begins; a cell whose z stands far from the limit makes the count SUSPECT. -/
def State.cellLimit (s : State) (k : Nat) (r : BatRec) : State :=
  let z (c : Nat) : Rat := ((s.batString k).cells.get c).z
  let low := (List.range r.cells).filter (s.cellAt r true)
  let high := (List.range r.cells).filter (s.cellAt r false)
  let odd := low.any (fun c => decide ((r.socMin : Rat) / 100 + s.confTol < z c)) ||
    high.any (fun c => decide (z c < (r.socMax : Rat) / 100 - s.confTol))
  let hit := decide (low ≠ [] ∨ high ≠ [])
  let s := if hit && !s.flag F.EMB_STR_STAT_CELL_LIMIT k then s.embCode 0x1088 k else s
  let s := s.setFlag F.EMB_STR_STAT_CELL_LIMIT k hit
  if odd then s.suspectString k else s

/-- The headrooms of a string in W (R387, R390, R391). -/
def State.stringHead (s : State) (k : Nat) (r : BatRec) : Rat × Rat :=
  if s.flag F.EMB_STR_STAT_UNUSABLE k then (0, 0)
  else
    let cs := List.range r.cells
    let m := cs.map (s.cellMargin k r)
    let z (c : Nat) : Rat := ((s.batString k).cells.get c).z
    let t (c : Nat) : Rat := s.tempOf k r c
    let volts : Rat := (cs.map (s.cellVoltsOf k r)).sum / 1000
    let d : Rat := if cs.any fun c => decide (z c ≤ (r.socMin : Rat) / 100) || s.cellAt r true c then 0
      else (m.map Prod.fst).foldl min (r.iDis : Rat)
    let g : Rat := if cs.any fun c => decide ((r.socMax : Rat) / 100 ≤ z c) || decide (t c < 0 ∨ 450 < t c) || s.cellAt r false c then 0
      else (m.map Prod.snd).foldl min (r.iChg : Rat)
    (d * volts, g * volts)

/-- The headrooms of this heat, for the next heat marker; both are 0 until the first pass. -/
def State.headroom (s : State) : State :=
  let ok := s.flag F.EMB_STAT_VALID && !s.flag F.EMB_STAT_STOPPED
  let h := if ok then s.strings.filterMap fun k => (s.batRec k).map fun r => (k, s.stringHead k r) else []
  s.onEst fun e => { e with
    nextDis := inHeadUnits (h.map fun c => c.2.1).sum
    nextChg := inHeadUnits (h.map fun c => c.2.2).sum
    nextStr := h }

/-- MIN_CELL: the first cell with the least discharge margin. -/
def State.showMinCell (s : State) (k : Nat) (r : BatRec) : State :=
  let m := (List.range r.cells).map fun c => (s.cellMargin k r c).1
  let low := m.foldl min (m.headD 0)
  s.setFld F.EMB_STR_STAT_MIN_CELL k (m.findIdx fun x => decide (x = low))

/-! ### The pass and the heat (R383, R388, R392) -/

/-- The six steps of a pass for one string, in the order of R392. -/
def State.passString (s : State) (k : Nat) (r : BatRec) : State :=
  let i := (s.batString k).mean
  let s := s.onString k fun x => { x with q := s.fld F.EMB_STR_CAP_Q k, sum := 0, heats := 0 }
  let s := s.passValid k r
  let s := (List.range r.cells).foldl (State.filterCell k r i) s
  let rested := decide (restTime ≤ (s.batString k).rest)
  let old := (s.batString k).zcnt
  let s := if rested then s.restPoint k r else s
  let s := s.conflict k r (if rested then some old else none)
  let warm := (List.range r.cells).any fun c => match s.cellTemp r c with | some t => decide (t < 150 ∨ 350 < t) | none => false
  let s := if warm then s.onString k fun x => { x with learn := x.learn.map fun l => { l with rough := true } } else s
  let a := s.learnStep k r rested
  ((a.1.writeBack k a.2).showSoc k r).showMinCell k r

/-- A pass of every enabled string; then the hard limits and the headroom of the same heat. -/
def State.batteryPass (s : State) : State :=
  if !s.est.due || s.flag F.EMB_STAT_STOPPED then s
  else
    let s := s.each s.strings fun k t => match t.batRec k with | some r => t.passString k r | none => t
    let s := ((s.completed .battery).setFld F.EMB_STAT_OVR_CONSEC 0 0).onEst fun e => { e with due := false }
    let s := (s.setFld F.EMB_STAT_VALID 0 1).count 10 6
    (s.each s.strings fun k t => match t.batRec k with | some r => t.cellLimit k r | none => t).headroom

def execBatteryPass (s : State) : Host.Outcome State Fault Refusal := .next (s.live 3 s.batteryPass)

/-- A string at a heat: its current is counted, its rest timed, its learning checked (R388, R394). -/
def State.stringHeat (s : State) (k : Nat) (r : BatRec) : State :=
  let good := s.goodRat r.ptI
  let x := s.batString k
  let i : Rat := match good with | some v => v | none => match x.last with | some v => (v : Rat) | none => Config.unstated 0 k 0
  let small := decide (1000 * i < r.rated ∧ -(r.rated : Rat) < 1000 * i)
  let fast := decide ((r.rated : Rat) < 20 * i ∨ 20 * i < -(r.rated : Rat))
  let heat := 100 * s.period
  let blind : Nat := match good with | some _ => 0 | none => x.blind + 1
  let late := decide (60000000000 < blind * heat)
  let last : Option Int := match good with | some v => some v.floor | none => x.last
  let s := s.onString k fun y => { y with
    last := last, blind := blind, sum := y.sum + i, heats := y.heats + 1,
    zcnt := y.zcnt - div32 (i * s.heatSec / 10) (36 * y.q), rest := if small then y.rest + heat else 0,
    learn := y.learn.map fun l => { l with
      charge := l.charge + i * s.heatSec / 10, cut := l.cut || late, rough := l.rough || fast } }
  let s := if small then s else s.setFld F.EMB_STR_STAT_REST k 0
  (s.cellLimit k r).setFld F.EMB_STR_SOC_ZCNT k (inPermille (s.batString k).zcnt)

/-- HEADROOM_PUBLISH and the estimator's work at a heat marker (R383, R391, R404): a pass starts at each multiple of 100 heats. -/
def State.embHeat (s : State) : State :=
  if s.strings = [] then s
  else
    let s := ((s.setFld F.EMB_HEAD_DIS_HEAD 0 s.est.nextDis).setFld F.EMB_HEAD_CHG_HEAD 0 s.est.nextChg).onEst fun e =>
      { e with strHead := e.nextStr }
    let begins := decide (s.heat % 100 = 0)
    let s := if begins && s.est.restart then
        ((s.setFld F.EMB_STAT_STOPPED 0 0).setFld F.EMB_STAT_OVR_CONSEC 0 0).onEst fun e => { e with restart := false }
      else s
    if s.flag F.EMB_STAT_STOPPED then s
    else
      let s := s.each s.strings fun k t => match t.batRec k with | some r => t.stringHeat k r | none => t
      (s.onEst fun e => { e with due := e.due || begins }).headroom

/-! ### Overruns (R404) -/

/-- The estimator overran: 1087h, and the last published headroom is kept. -/
def State.batOverrun (s : State) : State :=
  let s := s.onEst fun e => { e with
    due := false, nextDis := s.fld F.EMB_HEAD_DIS_HEAD, nextChg := s.fld F.EMB_HEAD_CHG_HEAD, nextStr := e.strHead }
  (s.setFld F.EMB_STAT_OVR_CONSEC 0 (min (s.overruns .battery) 7)).embCode 0x1087

/-- The overrun limit: both headrooms are published as 0, and the estimator stops. -/
def State.batStop (s : State) : State :=
  (((s.setFld F.EMB_HEAD_DIS_HEAD 0 0).setFld F.EMB_HEAD_CHG_HEAD 0 0).setFld F.EMB_STAT_STOPPED 0 1).onEst
    (fun e => { e with due := false, nextDis := 0, nextChg := 0, nextStr := [], strHead := [] }) |>.embCode 0x1004

/-- ESTIMATOR_RESTART. -/
def State.estRestart (s : State) : State := if s.flag F.EMB_STAT_STOPPED then s.onEst fun e => { e with restart := true } else s

/-! ### Hibernation (R400 to R403) -/

/-- What both devices check: Ember has not failed (R39), no battery set-point, no grant, the loader idle. -/
def State.mayIdle (s : State) : Bool := s.up 8 &&
  decide (s.fld F.TRS_BAT_SP_SP = 0 ∧ s.fld F.JNY_STAT_STATE = 0) && (List.range 32).all fun o => decide (s.fld F.TRS_OUT_STAT_GRANT o = 0)

/-- What a string keeps through hibernation: z and its variance of each cell, z_cnt, the rest timer and the learning state. -/
def BatString.saved (x : BatString) : BatString :=
  { BatString.init with
    cells := { dflt := Cell.init, cells := x.cells.cells.map fun c => (c.1, { Cell.init with z := c.2.z, p00 := c.2.p00 }) },
    zcnt := x.zcnt, rest := x.rest, learn := x.learn, q := x.q }

/-- The entry goes on: the pass in progress completes, the estimator saves, Ember zeroes its counts and takes over. -/
def State.hibernateSave (s : State) : State :=
  let s := s.batteryPass
  let strings : Arr BatString := { dflt := BatString.init, cells := s.est.strings.cells.map fun c => (c.1, c.2.saved) }
  let s := s.onEmb fun e => { e with
    saved := some (strings, s.now), charge := ⟨0, []⟩, above := ⟨0, []⟩
    rest := { dflt := 0, cells := strings.cells.filterMap fun c => if c.2.rest = 0 then none else some (c.1, c.2.rest) } }
  let s := s.each (List.range s.stringCount) fun k t => (t.setReg .EMB_Q_LO k 0).setReg .EMB_Q_HI k 0
  s.onEst fun e => { e with asking := false, saving := true }

/-- HIBERNATE: refused with 1002h, or an unbound device goes on and a holder asks its partner. -/
def State.hibernate (s : State) : State :=
  let bound := s.flag F.PEG_STAT_LINK
  if !s.mayIdle || (bound && !(s.holds && s.partnerSync)) then s.embCode 0x1002
  else if bound then (s.onEst fun e => { e with asking := true, askedAt := s.now }).send .solley 1 []
  else s.hibernateSave

/-- HIBERNATE_REQUEST: a standby saves and answers ready, or refuses and stays awake. -/
def execHibernateRequest (s : State) : Host.Outcome State Fault Refusal :=
  .next (s.live 3 (if !s.standby then s
    else if s.mayIdle then s.hibernateSave.send .solley 2 [1]
    else s.send .solley 2 [0]))

/-- HIBERNATE_READY: the answer of the standby. -/
def execHibernateReady (ready : Bool) (s : State) : Host.Outcome State Fault Refusal :=
  .next (s.live 3 (if !s.est.asking then s
    else if ready then s.hibernateSave
    else (s.onEst fun e => { e with asking := false }).embCode 0x1002))

/-- HIBERNATE_TIMEOUT: no answer within 100 ms. -/
def execHibernateTimeout (s : State) : Host.Outcome State Fault Refusal :=
  .next (s.live 3 (if s.est.asking && decide (s.est.askedAt + s.ms 100 ≤ s.now) then (s.onEst fun e => { e with asking := false }).embCode 0x1002 else s))

/-- One string at a sample of Ember: 16 ms of its current in A. -/
def State.embCount (s : State) (k : Nat) (r : BatRec) (i : Rat) : State :=
  let small := decide (1000 * 10 * i < r.rated ∧ -(r.rated : Rat) < 1000 * 10 * i)
  let high := decide ((r.wakeI : Rat) ≤ 10 * i ∨ 10 * i ≤ -(r.wakeI : Rat))
  let s := s.onEmb fun e => { e with
    charge := e.charge.upd k fun q => q + 16 * i
    rest := e.rest.upd k fun t => if small then t + 1600000 else 0
    above := e.above.upd k fun n => if high then n + 1 else 0 }
  s.setPair .EMB_Q_LO .EMB_Q_HI k (unsignedOf 64 (s.emb.charge.get k).floor)

/-- EMBER_SAMPLE (R401). -/
def State.emberSample (s : State) (ch : Nat) (code : Int) : State :=
  if !s.emb.asleep then s
  else
    s.each (List.range 16) fun k t =>
      match t.batRec k with
      | some r => if r.ch = ch then t.embCount k r (code * ((fpRat? r.gain).getD (Config.numberOf r.gain))) else t
      | none => t

def execEmberSample (ch : Nat) (code : Int) (s : State) : Host.Outcome State Fault Refusal := .next (s.live 8 (s.emberSample ch code))

/-- A wake source that R402 admits in the present state: 1 a current, 2 the bus of WAKE_CAN, 3 EMB_WAKE_N. -/
def State.mayWake (s : State) (src : Nat) : Bool :=
  match src with
  | 1 => (List.range 16).any fun k => (s.batRec k).isSome && decide (2 ≤ s.emb.above.get k)
  | 2 => decide (u8 (s.body tyBAT) 2 < 8)
  | _ => true

/-- Ember wakes the device: the source is recorded, and CORE_EN goes high. -/
def State.wakeUp (s : State) (src : Nat) : State :=
  (((s.setFld F.EMB_STAT_WAKE_SRC 0 src).onEmb fun e => { e with asleep := false, wake := none, woken := true }).embCode 0x1086).count 14 4

/-- WAKE (R400, R402): held while the save is incomplete. -/
def execWake (src : Nat) (s : State) : Host.Outcome State Fault Refusal :=
  .next (s.live 8 (if s.emb.asleep then (if s.mayWake src then s.wakeUp src else s)
    else if s.est.saving ∧ s.emb.wake = none ∧ 2 ≤ src ∧ s.mayWake src = true then s.onEmb fun e => { e with wake := some src }
    else s))

/-- HIBERNATION_RESTORE (R403) of a string: Ember's count in coulombs, where it counted; `hours` of hibernation. -/
def BatString.restore (x : BatString) (cells : Nat) (counted : Bool) (q c hours : Rat) (rest : Nat) : BatString :=
  let dz := if counted then div32 c (36 * q) else 0
  let grow : Rat := (1 / 500) ^ 2 * hours + (1 / 50 * dz) ^ 2
  let cell (n : Nat) : Cell := let y := x.cells.get n; { Cell.init with z := max 0 (min 1 (r32 (y.z - dz))), p00 := r32 (y.p00 + grow) }
  { x with
    cells := (List.range cells).foldl (fun (a : Arr Cell) n => a.set n (cell n)) ⟨Cell.init, []⟩
    zcnt := x.zcnt - dz, rest := if counted then rest else 0
    learn := x.learn.map fun l => { l with charge := l.charge + if counted then c else 0, cut := l.cut || !counted } }

/-- The estimator at a boot: no pass is complete (R391), the capacities are loaded, and after a wake the saved state (R399, R403). -/
def State.embBoot (s : State) (woken : Bool) : State :=
  let s := s.setFld F.EMB_STAT_VALID 0 0
  let s := s.each s.strings fun k t => match t.batRec k with | some r => t.loadCap k r | none => t
  match s.emb.saved with
  | some x =>
    if !woken then s
    else
      let hours : Rat := (((s.now - x.2) * s.period : Nat) : Rat) / 360000000000
      let s := s.each s.strings fun k t =>
        match t.batRec k with
        | some r =>
          let q := t.fld F.EMB_STR_CAP_Q k
          t.onString k fun _ => { (x.1.get k).restore r.cells (decide (r.ch < 16)) q (t.emb.charge.get k / 1000) hours (t.emb.rest.get k) with q := q }
        | none => t
      s.onEmb fun e => { e with saved := none }
  | none => s

end Sys2Proof.Machine
end

