-- ==== Sys2Proof/Machine/Check.lean ====
section
/-! DEFINITION. The ordered checks of a Joinery image (R41 to R54, R68): each gives the code of its failure with the directory index of
the section and the unit concerned. -/

namespace Sys2Proof.Machine

open Sys2Proof

/-- A failure: status code, directory index of the section, unit (JNY_ERR). -/
abbrev JnyErr := Nat × Nat × Nat

/-- A condition with the failure it stands for. -/
def must (c : Bool) (code sec : Nat) (unit : Nat := 0) : Option JnyErr := if c then none else some (code, sec, unit)

/-- The first failure of a list of checks. -/
def firstErr (l : List (Option JnyErr)) : Option JnyErr := l.findSome? id

/-! ### Step 1: header and directory (R41, R42) -/

/-- A directory entry (R42). -/
structure DirEntry where
  typ    : Nat
  flags  : Nat
  island : Nat
  zero   : Nat
  offset : Nat
  size   : Nat
  crc    : Nat
  deriving DecidableEq, Repr

/-- The directory of an image. -/
def dirOf (b : List Byte) : List DirEntry :=
  (List.range (u16 b 6)).map fun k =>
    let o := 32 + 16 * k
    { typ := u8 b o, flags := u8 b (o + 1), island := u8 b (o + 2), zero := u8 b (o + 3), offset := u32 b (o + 4), size := u32 b (o + 8),
      crc := u32 b (o + 12) }

/-- The island of a section type (R43); `none` for no type of R43. -/
def tyIsland (t : Nat) : Option Nat := if t = 0 then none else [0, 3, 4, 2, 4, 0, 0, 0, 0, 3, 3, 6][t - 1]?

/-- The end of the last section body, where the trailer stands (R44). -/
def bodiesEnd (b : List Byte) : Nat := (dirOf b).foldl (fun m e => max m (e.offset + e.size)) (32 + 16 * u16 b 6)

/-- Directory entry `k`: its body lies on a 64-byte boundary behind the directory and inside the image, apart from the earlier
bodies, and its type is new. -/
def dirBounds (b : List Byte) (d : List DirEntry) (k : Nat) (e : DirEntry) : Bool :=
  decide (e.offset % 64 = 0 ∧ 32 + 16 * u16 b 6 ≤ e.offset ∧ e.offset + e.size ≤ b.length)
    && (d.take k).all fun x => decide ((x.offset + x.size ≤ e.offset ∨ e.offset + e.size ≤ x.offset) ∧ x.typ ≠ e.typ)

/-- The fields of a directory entry (R42, R43, R46). -/
def dirFields (e : DirEntry) : Bool :=
  decide (tyIsland e.typ = some e.island ∧ e.zero = 0 ∧ e.flags < 4 ∧ (e.flags.testBit 1 = true ↔ e.typ = tyMRT))

/-- Step 1: 0101h. LENGTH is the length of the whole image, its trailer included. -/
def formatErr (b : List Byte) : Option JnyErr :=
  let d := dirOf b
  firstErr [
    must (decide (32 ≤ b.length ∧ slice b 0 4 = [0x4A, 0x4E, 0x59, 0x31] ∧ u16 b 4 = 1 ∧ u32 b 8 = b.length ∧ b.length ≤ 0x400000))
      0x0101 0,
    must (decide (crc32c (slice b 0 24) = u32 b 24)) 0x0101 0,
    must (decide (1 ≤ d.length ∧ d.length ≤ 32 ∧ 32 + 16 * d.length ≤ b.length)) 0x0101 0,
    firstErr (d.zipIdx.map fun x => must (dirBounds b d x.2 x.1) 0x0101 x.2),
    must (d.any (fun e => decide (e.typ = tySYS)) && d.any fun e => decide (e.typ = tyPNT)) 0x0101 0,
    firstErr (d.zipIdx.map fun x => must (dirFields x.1) 0x0101 x.2),
    must (decide (bodiesEnd b + 8 + u16 b (bodiesEnd b + 4) = b.length)) 0x0101 0]

/-- An image as its bytes give it (R41 to R43). -/
def readImage (b : List Byte) : Image :=
  { serial := u32 b 12, ident := uN b 16 8, bytes := b,
    sections := (dirOf b).map fun e => { typ := e.typ, flags := e.flags, body := slice b e.offset e.size } }

/-- The directory index of a section type; 0 where the image does not hold it. -/
def Image.index (m : Image) (t : Nat) : Nat := (m.sections.findIdx? fun x => decide (x.typ = t)).getD 0

/-- The image holds a section of a type. -/
def Image.has (m : Image) (t : Nat) : Bool := (m.section? t).isSome

/-! ### Steps 2 to 5: CRCs, signatures, rollback floor -/

/-- Step 2: 0102h. -/
def crcErr (b : List Byte) : Option JnyErr :=
  firstErr ((dirOf b).zipIdx.map fun x => must (decide (crc32c (slice b x.1.offset x.1.size) = x.1.crc)) 0x0102 x.2)

/-- Step 3: the integrator's signature over all that stands before the trailer (R44), under a slot that the loader, island 0, may use
for images. -/
def State.imageSigned (s : State) (b : List Byte) : Bool :=
  match trailer (b.drop (bodiesEnd b)) with
  | some (alg, n, sig) =>
    decide (s.slotAlg n = alg ∧ (alg = 1 ∨ alg = 2))
      && (s.slotKeys n 0 6).any fun k => Config.sigVerify alg k (b.take (bodiesEnd b)) sig false
  | none => false

/-- Length of an MRT body before its trailer (R265). -/
def mrtLen (b : List Byte) : Nat := 16 + 256 + 128 + 64 + 32 * u8 b 0 + 16 * u8 b 1

/-- Step 4: the trailer of the MRT body (R45), under a slot whose OWNER is 6 and whose usage permits images. -/
def State.mrtSigned (s : State) (b : List Byte) : Bool :=
  match trailer (b.drop (mrtLen b)) with
  | some (alg, n, sig) =>
    decide (s.fld F.CFR_SLOT_ATTR_LO_OWNER n = 6 ∧ s.slotAlg n = alg ∧ (alg = 1 ∨ alg = 2))
      && match s.slotKey n 6 6 with
        | some k => Config.sigVerify alg k (b.take (mrtLen b)) sig false
        | none => false
  | none => false

/-- JNY_FLOOR, in the loader's control block (R55). -/
def State.floor (s : State) : Nat := s.le 0x21D00008 4

/-! ### Lengths of bodies (R48) -/

/-- The blobs of a LOOP body: offset and length (R144). A bundle has 8 bytes. -/
def loopBlobs (b : List Byte) : List (Nat × Nat) :=
  (loopPrograms b).flatMap fun g => [(g.codeOfs, 8 * g.codeLen), (g.constOfs, 4 * g.constLen), (g.stateOfs, 4 * g.stateLen)]

/-- How far blobs cover a body without a gap, from a position on. -/
def covered (blobs : List (Nat × Nat)) : Nat → Nat → Nat
  | 0, pos => pos
  | n + 1, pos => covered blobs n (blobs.foldl (fun p x => if x.1 ≤ pos then max p (x.1 + x.2) else p) pos)

/-- The length that a body's header and records require (R48 to R54, R143, R265, R384). -/
def bodyLen (t : Nat) (b : List Byte) : Nat :=
  if t = tySYS then 16 + 4 * u16 b 4
  else if t = tyTOPO then topoDevOfs b + 8 * u8 b 6
  else if t = tyFRG then frgFldOfs b + 8 * u8 b 3
  else if t = tyLOOP then
    let o := 16 + 48 * u8 b 0 + 8 * u16 b 2 + 16 * u8 b 1
    covered (loopBlobs b) (3 * u8 b 0) o
  else if t = tyACQ then 304 + 16 * u8 b 0 + 8 * u16 b 2
  else if t = tyPNT then 16 + 16 * u32 b 0 + 16 * u8 b 4
  else if t = tyNET then (netGcls b).2 + 384 + 32 * u16 b 0x12
  else if t = tyCAN then 168 + 16 * u16 b 0 + 12 * u8 b 2 + 12 * u8 b 3
  else if t = tyFDL then 32 + 16 * u8 b 0
  else if t = tyBAT then 16 + 64 * u8 b 0 + 256 * u8 b 1
  else if t = tyTHRM then 16 + 64 * u8 b 0 + 16 * u8 b 1
  else mrtLen b + 8 + u16 b (mrtLen b + 4)

/-! ### Step 6: absent units (R47, R94, R159, R186, R364, R392) -/

/-- A phase and an engine are present. -/
def State.hasPhase (s : State) (p : Nat) : Bool := decide (p < s.phaseCount)
def State.hasEngine (s : State) (e : Nat) : Bool := decide (e < s.engineCount)

/-- The records of a body that lie inside it, by their offsets: `n` records of `size` bytes from an offset on. A body that is too short
for its counts names only the units of these, and fails in step 7. -/
def records (b : List Byte) (o size n : Nat) : List Nat := (List.range (min n ((b.length - o) / size))).map fun k => o + size * k

/-- Units that SYS and TOPO name. -/
def State.absentTopo (s : State) (m : Image) : List (Option JnyErr) :=
  let need (c : Bool) (t unit : Nat) := must c 0x0104 (m.index t) unit
  let y := m.body tySYS
  let b := m.body tyTOPO
  ((records y 16 4 (u16 y 4)).map fun o => need (decide (u8 y o ≠ 2) || s.hasEngine (u8 y (o + 1))) tySYS (u8 y (o + 1)))
    ++ ((records b 64 1 96).map fun o => need (decide (u8 b o = 255) || s.hasPhase (o - 64)) tyTOPO (o - 64))
    ++ ((records b (topoBayOfs b) 16 (topoBays b)).map fun o => need s.hasForge tyTOPO (u8 b o))
    ++ (records b (topoXpOfs b) 16 (topoXps b)).map fun o =>
      need (s.hasForge || decide (u8 b (o + 3) ≠ 255)) tyTOPO ((o - topoXpOfs b) / 16)

/-- Units that FRG, LOOP and ACQ name. -/
def State.absentWork (s : State) (m : Image) : List (Option JnyErr) :=
  let need (c : Bool) (t unit : Nat) := must c 0x0104 (m.index t) unit
  let f := m.body tyFRG
  let l := m.body tyLOOP
  let a := m.body tyACQ
  let within (o size : Nat) (k : Nat) : Bool := decide (o + size * (k + 1) ≤ l.length)
  let bindOfs := 16 + 48 * u8 l 0
  let monOfs := bindOfs + 8 * u16 l 2
  ((records f (frgPhaseOfs f) 12 (u8 f 0)).zipIdx.map fun x => need (!(u32 f x.1).testBit 31 || s.hasPhase x.2) tyFRG x.2)
    ++ ((loopPrograms l).zipIdx.map fun x =>
      need (!within 16 48 x.2 || (s.hasEngine x.1.engine && (s.hasForge || decide (x.1.bay = none)))) tyLOOP x.1.engine)
    ++ ((loopBindings l).zipIdx.map fun y => let x := y.1
      need (!within bindOfs 8 y.2 || (s.hasEngine x.engine && (decide (x.typ ≠ 0) || s.hasForge)
        && (decide (x.typ ≠ 1) || s.hasPhase (x.dest % 128)) && (decide (x.typ ≠ 2) || s.hasEngine (x.dest / 2 ^ 24 % 64)))) tyLOOP x.engine)
    ++ ((loopMonitors l).zipIdx.map fun x => need (!within monOfs 16 x.2 || s.hasEngine x.1.engine) tyLOOP x.1.engine)
    ++ ((records a 304 16 (acqSeqs a)).zipIdx.map fun x =>
      need (decide ((acqSeq a x.2).src ≠ 1) || s.hasPhase (acqSeq a x.2).arg) tyACQ (acqSeq a x.2).arg)
    ++ ((records a (304 + 16 * acqSeqs a) 8 (u16 a 2)).zipIdx.map fun y =>
      let x := acqSlot a y.2
      need ((decide (x.typ ≠ 3) || s.hasPhase (x.dest % 128)) && (decide (x.typ ≠ 0) || s.hasEngine (x.dest / 2 ^ 24 % 64))) tyACQ y.2)
    ++ (records a 48 4 64).zipIdx.map fun x => need (s.hasForge || decide (u32 a x.1 / 2 ^ 30 ≠ 2)) tyACQ x.2

/-- Units that PNT, FDL, BAT and MRT name. -/
def State.absentSite (s : State) (m : Image) : List (Option JnyErr) :=
  let need (c : Bool) (t unit : Nat) := must c 0x0104 (m.index t) unit
  let p := m.body tyPNT
  let t := m.body tyBAT
  let r := m.body tyMRT
  ((records p 16 16 (u32 p 0)).map fun o => need (s.hasFeeder || decide (u8 p (o + 9) ≠ 7)) tyPNT (u32 p o % 2048))
    ++ ((records t 16 64 (u8 t 0)).map fun o => need (decide (u8 t o < s.stringCount)) tyBAT (u8 t o))
    ++ (records r (464 + 32 * u8 r 0) 16 (u8 r 1)).map fun o => need (s.hasFeeder || decide (u8 r (o + 1) ≠ 2)) tyMRT (u8 r o)

/-- Sections for blocks that the part lacks. -/
def State.absentBlocks (s : State) (m : Image) : List (Option JnyErr) :=
  let need (c : Bool) (t : Nat) := must c 0x0104 (m.index t)
  [need (!m.has tyFRG || s.hasForge) tyFRG, need (!m.has tyFDL || s.hasFeeder) tyFDL, need (!m.has tyBAT || decide (0 < s.stringCount)) tyBAT]

/-- Step 6: 0104h, before the lengths of the bodies are judged. -/
def State.absentErr (s : State) (m : Image) : Option JnyErr :=
  firstErr (s.absentBlocks m ++ s.absentTopo m ++ s.absentWork m ++ s.absentSite m)

/-! ### Step 7: the consistency rules of R48 -/

/-- A ring of an image has an entry size (R468); a ring that the image does not give has none. -/
def Image.ringSize (m : Image) (n size : Nat) : Bool := match m.ring n with | some r => decide (2 ^ r.esz = size) | none => false

/-- TYPE of a point under an image; 0 where it is not defined. -/
def Image.pointType (m : Image) (p : Nat) : Nat := match m.pointSchema p with | some x => x.typ | none => 0

/-- TYPEs that R469 allows for a quantity; and for feedback, command and set-point points. -/
def quantityType (t : Nat) : Bool := decide (2 ≤ t ∧ t ≤ 6)
def commandType (t : Nat) : Bool := decide (1 ≤ t ∧ t ≤ 6)

/-- Rules for SYS (R49). -/
def sysRules (m : Image) : List (Option JnyErr) :=
  let b := m.body tySYS
  let need (c : Bool) (unit : Nat := 0) := must c 0x010A (m.index tySYS) unit
  let key (k : Nat) := (u8 b (16 + 4 * k), u8 b (17 + 4 * k))
  [need (decide (0x1F4 ≤ u16 b 0 ∧ u16 b 0 ≤ 0x1388)), need (decide (1 ≤ u8 b 2 ∧ u8 b 2 ≤ 15))]
    ++ (List.range (u16 b 4)).map fun k =>
      need (decide (1 ≤ (key k).1 ∧ (key k).1 ≤ 7 ∧ 1 ≤ u8 b (18 + 4 * k) ∧ u8 b (18 + 4 * k) ≤ 15)
        && (List.range k).all fun j => decide (key j ≠ key k)) (key k).2

/-- Least and greatest value of the fields of the TOPO header (R50): offset, size, least, greatest. -/
def topoRanges : List (Nat × Nat × Nat × Nat) :=
  [(0, 1, 0, 24), (1, 1, 0, 32), (2, 2, 0, 768), (4, 1, 1, 16), (5, 1, 0, 7), (6, 1, 1, 8), (7, 1, 1, 16), (8, 1, 0, 94), (9, 1, 1, 255),
    (0xA, 2, 1, 1000), (0xC, 2, 1, 1000), (0xE, 2, 1, 65535), (0x10, 2, 500, 1000), (0x12, 1, 0, 255), (0x13, 1, 1, 15)]

/-- Rules for the bays and crosspoints of TOPO. -/
def topoRules (m : Image) : List (Option JnyErr) :=
  let b := m.body tyTOPO
  let need (c : Bool) (unit : Nat := 0) := must c 0x010A (m.index tyTOPO) unit
  (topoRanges.map fun r => need (decide (r.2.2.1 ≤ uN b r.1 r.2.1 ∧ uN b r.1 r.2.1 ≤ r.2.2.2)))
    ++ ((List.range 96).map fun p =>
      need (match topoPhaseBay b p with | some y => decide (y < 24) && (topoBayRec? b y).isSome | none => true) p)
    ++ ((List.range (topoBays b)).map fun k =>
      let y := u8 b (topoBayOfs b + 16 * k)
      need (decide (y < 24 ∧ 1 ≤ (topoPhases b y).length ∧ (topoPhases b y).length ≤ 8)) y)
    ++ ((topoXpList b).zipIdx.map fun x =>
      need (decide (x.1.out < 32) && (if x.1.lender = 255 then (topoBayRec? b x.1.bay).isSome else decide (x.1.bay < 24))) x.2)
    ++ [need (decide (u8 b 0x30 = 255) || m.ringSize (u8 b 0x30) 32)]

/-- Types of the points that TOPO names (R469). -/
def topoPoints (m : Image) : List (Option JnyErr) :=
  let b := m.body tyTOPO
  let need (c : Bool) (unit : Nat := 0) := must c 0x010A (m.index tyTOPO) unit
  let q (o unit : Nat) := need (quantityType (m.pointType (u32 b o))) unit
  let opt (o : Nat) := need (decide (u32 b o = 0xFFFFFFFF) || quantityType (m.pointType (u32 b o)))
  [q 0x14 0, opt 0x18, opt 0x1C]
    ++ ((List.range (topoBays b)).flatMap fun k => let o := topoBayOfs b + 16 * k; [q (o + 4) (u8 b o), q (o + 8) (u8 b o)])
    ++ ((List.range (topoOuts b)).flatMap fun k => let o := topoOutOfs b + 16 * k; [q (o + 4) (u8 b o), q (o + 8) (u8 b o)])
    ++ (topoXpList b).zipIdx.map fun x => need (commandType (m.pointType x.1.cmd) && commandType (m.pointType x.1.fb)) x.2

/-- Rules for FRG (R51, R97): its records agree with the phase map; a phase without a record is in no bay. -/
def frgRules (m : Image) : List (Option JnyErr) :=
  let f := m.body tyFRG
  let b := m.body tyTOPO
  let need (c : Bool) (unit : Nat := 0) := must c 0x010A (m.index tyFRG) unit
  [need (decide (u8 f 1 = topoBays b))]
    ++ ((List.range (u8 f 1)).map fun k =>
      let y := u8 f (16 + 16 * k)
      need ((topoBayRec? b y).isSome && decide (F.FRG_BAY_CFG_N.of (BitVec.ofNat 32 (u32 f (20 + 16 * k))) = (topoPhases b y).length)) y)
    ++ ((List.range (max 96 (u8 f 0))).map fun p =>
      let o := frgPhaseOfs f + 12 * p
      let c := BitVec.ofNat 32 (if p < u8 f 0 then u32 f o else 0)
      need ((match topoPhaseBay b p with
        | none => decide (F.FRG_PH_CFG_IN_BAY.of c = 0)
        | some y => decide (F.FRG_PH_CFG_IN_BAY.of c = 1 ∧ F.FRG_PH_CFG_BAY.of c = y
            ∧ (topoPhases b y)[F.FRG_PH_CFG_SLOT.of c]? = some p))
        && decide (F.FRG_PH_CFG_TSRC.of c ≠ 1 ∨ u8 f (o + 8) < u8 f 2)) p)

/-- The band of a monitor is neither negative nor NaN in its program's format (R150). -/
def bandOk (fmt : Nat) (w : W32) : Bool :=
  if fmt = 0 then decide (0 ≤ bfM w) else match fpOf false w with | .nan => false | x => !x.neg || decide (x.dy.m = 0 ∧ w.toNat % 2 ^ 31 = 0)

/-- Rules for LOOP and ACQ. -/
def workRules (m : Image) : List (Option JnyErr) :=
  let l := m.body tyLOOP
  let a := m.body tyACQ
  let need (c : Bool) (t : Nat) (unit : Nat := 0) := must c 0x010A (m.index t) unit
  ((loopBindings l).map fun x =>
      need (decide (x.typ ≤ 4) && (decide (x.typ ≠ 3) || (m.schema (x.dest % 2 ^ 18)).isSome)
        && (decide (x.typ ≠ 4) || m.ringSize (x.dest % 64) 16)) tyLOOP x.engine)
    ++ ((loopMonitors l).map fun x => need (bandOk (match m.program x.engine with | some g => g.fmt | none => 0) x.band) tyLOOP x.engine)
    ++ (List.range (u16 a 2)).map fun k =>
      let x := acqSlot a k
      let d := x.dest % 2 ^ 18
      need (decide ((x.input < 8 ∨ (0x40 ≤ x.input ∧ x.input < 0x80)) ∧ x.burst ≤ 6)
        && (decide (x.typ ≠ 0) || decide (d ≤ 0x3FC ∧ d % 4 = 0))
        && (decide (x.typ ≠ 1) || ((m.schema d).isSome && decide (1 ≤ m.pointType d ∧ m.pointType d ≤ 7)))
        && (decide (x.typ ≠ 2) || m.ringSize (x.dest % 64) 16)) tyACQ k

/-- A CAN ring is none (3Fh), or has the entry size of its producer (R48, R468). -/
def Image.canRing (m : Image) (n size : Nat) : Bool := decide (n = 0x3F) || m.ringSize n size

/-- Rules for the rings that NET and CAN name, and for the schema records (R318, R468). An EXI ring that the image does not give is one
that it does not use. The rings of a controller are named whether it is enabled or not. -/
def siteRules (m : Image) : List (Option JnyErr) :=
  let p := m.body tyPNT
  let c := m.body tyCAN
  let n := m.body tyNET
  let need (x : Bool) (t : Nat) (unit : Nat := 0) := must x 0x010A (m.index t) unit
  ((List.range (u32 p 0)).map fun k =>
      need (decide (u32 p (20 + 16 * k) = 0 ∨ 0x1000 ≤ u32 p (16 + 16 * k))) tyPNT (u32 p (16 + 16 * k) % 2048))
    ++ (if m.has tyNET then
      [need (decide (m.ring (u8 n 0x15) = none) || m.ringSize (u8 n 0x15) 32) tyNET,
        need (decide (m.ring (u8 n 0x16) = none) || m.ringSize (u8 n 0x16) 16) tyNET] else [])
    ++ (List.range 8).map fun k =>
      let w := BitVec.ofNat 32 (u32 c (8 + 20 * k))
      need (!m.has tyCAN || (m.canRing (F.CAN_CFG_RX_RING.of w) 128 && m.canRing (F.CAN_CFG_TX_RING.of w) 128
        && m.canRing (F.CAN_CFG_TXC_RING.of w) 16)) tyCAN k

/-- Types of the points that THRM names (R469). -/
def thermPoints (m : Image) : List (Option JnyErr) :=
  let b := m.body tyTHRM
  let need (c : Bool) (unit : Nat) := must c 0x010A (m.index tyTHRM) unit
  let ok (f : Nat → Bool) (o : Nat) : Bool := decide (u32 b o = 0xFFFFFFFF) || f (m.pointType (u32 b o))
  ((List.range (u8 b 0)).map fun k =>
      let o := 16 + 64 * k
      need ([0x20, 0x24, 0x28, 0x2C, 0x30].all fun d => ok quantityType (o + d)) (u8 b o))
    ++ (List.range (u8 b 1)).map fun k =>
      let o := 16 + 64 * u8 b 0 + 16 * k
      need (ok commandType (o + 4) && ok commandType (o + 8)) (u8 b o)

/-- Step 7: 010Ah. A section that the image lacks keeps its green-timber content and is not judged. -/
def consistErr (m : Image) : Option JnyErr :=
  firstErr ((m.sections.zipIdx.map fun x => must (decide (bodyLen x.1.typ x.1.body = x.1.body.length)) 0x010A x.2)
    ++ sysRules m
    ++ (if m.has tyTOPO then topoRules m ++ topoPoints m else [])
    ++ (if m.has tyFRG then frgRules m else [])
    ++ workRules m ++ siteRules m
    ++ (if m.has tyTHRM then thermPoints m else []))

/-! ### Step 8: the safety-table limit (R68, R266) -/

/-- The structure of an MRT body: all before its trailer, with the PARAM of each function left out where it lies in its declared
range (R266). -/
def mrtShape (b : List Byte) : List Byte :=
  (List.range (u8 b 0)).foldl (fun l f =>
    let o := 464 + 32 * f
    if u32 b (o + 0x14) ≤ u32 b (o + 0x10) ∧ u32 b (o + 0x10) ≤ u32 b (o + 0x18) then
      l.take (o + 0x10) ++ leBytes 4 0 ++ l.drop (o + 0x14)
    else l) (b.take (mrtLen b))

/-- The image's safety table differs in structure from the last one committed; an image without one replaces none. -/
def State.newTable (s : State) (m : Image) : Bool :=
  match m.section? tyMRT with
  | some x => decide (mrtShape x.body ≠ s.jny.lastTable)
  | none => false

/-! ### The whole check (R46) -/

/-- The checks in their order; the first failure, or none. Step 8 is left out for a bank, which was checked when it was written. -/
def State.imageErr (s : State) (b : List Byte) (limit : Bool) : Option JnyErr :=
  let m := readImage b
  match formatErr b with
  | some e => some e
  | none => match crcErr b with
    | some e => some e
    | none =>
      if !s.imageSigned b then some (0x0103, 0, 0)
      else if m.has tyMRT && !s.mrtSigned (m.body tyMRT) then some (0x0108, m.index tyMRT, 0)
      else if m.serial < s.floor then some (0x0105, 0, 0)
      else match s.absentErr m with
        | some e => some e
        | none => match consistErr m with
          | some e => some e
          | none =>
            if limit && s.newTable m && decide (s.fld F.MRT_TABLE_CNT_COUNT = 255) then some (0x0107, m.index tyMRT, 0) else none

end Sys2Proof.Machine
end

