-- ==== Sys2Proof/Machine/Differ.lean ====
section
/-! DEFINITION. How a new image differs from the active one (R59): the resources that its structural differences name, and when each of
them is idle. -/

namespace Sys2Proof.Machine

open Sys2Proof

/-! ### The structural differences (R59) -/

/-- The engines whose program an image replaces structurally; and those whose code or constants it changes (R157). -/
def engReplaced (a b : Image) (e : Nat) : Bool := decide (engineShape a e ≠ engineShape b e)
def engChanged (a b : Image) (e : Nat) : Bool := engReplaced a b e || decide ((engineParams a e).1 ≠ (engineParams b e).1)

/-- The bays that an engine serves under an image: its program's bay and the bays of its references. -/
def engBays (m : Image) (e : Nat) : List Nat :=
  (match m.program e with | some g => g.bay.toList | none => [])
    ++ ((loopBindings (m.body tyLOOP)).filter fun x => decide (x.engine = e ∧ x.typ = 0)).map fun x => x.dest % 32

/-- Differences of SYS and TOPO: the stroke period; a phase that moves, a crosspoint added or removed, an output remapped. -/
def topoDiff (a b : Image) : List Claim :=
  let x := a.body tyTOPO
  let y := b.body tyTOPO
  let bays := (List.range 24).filter fun k => (topoBayRec? x k).isSome
  let xp (r : XpRec) : Nat × Nat := (r.key, r.out)
  let xs := (topoXpList x).map xp
  let ys := (topoXpList y).map xp
  (if a.strokePeriod = b.strokePeriod then [] else .wholeStroke :: bays.map Claim.bay)
    ++ ((List.range 96).flatMap fun p =>
      if topoPhaseBay x p = topoPhaseBay y p then [] else ((topoPhaseBay x p).toList ++ (topoPhaseBay y p).toList).map Claim.bay)
    ++ ((xs.filter fun r => !ys.contains r) ++ ys.filter fun r => !xs.contains r).map (fun r => Claim.crosspoint r.1 r.2)
    ++ ((List.range 32).filter fun o =>
      decide ((topoOutRec? x o).map (fun q => slice x q 16) ≠ (topoOutRec? y o).map fun q => slice y q 16)).map Claim.output

/-- What FRG says of a bay's period and interleave: MODE, MK, N and OFS (R51). -/
def bayTiming (b : List Byte) (k : Nat) : Option (Nat × Nat) :=
  ((List.range (u8 b 1)).find? fun i => decide (u8 b (16 + 16 * i) = k)).map fun i =>
    let c := BitVec.ofNat 32 (u32 b (20 + 16 * i))
    (F.FRG_BAY_CFG_MODE.of c * 4096 + F.FRG_BAY_CFG_MK.of c * 64 + F.FRG_BAY_CFG_N.of c,
      F.FRG_BAY_AUX_OFS.of (BitVec.ofNat 32 (u32 b (28 + 16 * i))))

/-- Differences of FRG, LOOP and ACQ: a bay's period or interleave; the bays of a replaced program; a sequence replaced or removed. -/
def workDiff (a b : Image) : List Claim × List Claim × List Claim :=
  let seqOf (m : Image) (n : Nat) : Option (Seq × List SlotRec) :=
    let y := m.body tyACQ
    if n < acqSeqs y then some ({ acqSeq y n with delay := 0, first := 0 }, acqSlotsOf y (acqSeq y n)) else none
  (((List.range 24).filter fun k => decide (bayTiming (a.body tyFRG) k ≠ bayTiming (b.body tyFRG) k)).map Claim.bay,
    ((List.range 48).flatMap fun e => if engReplaced a b e then engBays a e ++ engBays b e else []).eraseDups.map Claim.bay,
    ((List.range 128).filter fun n => (seqOf a n).isSome && decide (seqOf a n ≠ seqOf b n)).map Claim.sequence)

/-- Differences of PNT: points retyped or removed, by the record that covered them; rings changed or removed. -/
def pntDiff (a b : Image) : List Claim :=
  let x := a.body tyPNT
  ((List.range (u32 x 0)).filterMap fun k =>
      let o := 16 + 16 * k
      let first := u32 x o
      if (List.range (u32 x (o + 4))).any fun i => decide (a.pointType (first + i) ≠ b.pointType (first + i)) then
        some (Claim.points first (u32 x (o + 4)))
      else none)
    ++ ((List.range 64).filter fun n => (a.ring n).isSome && decide (a.ring n ≠ b.ring n)).map Claim.ring

/-- Link-level differences of NET, CAN and FDL: mode and PLCA of a port; bit timing, EN, FD, LISTEN and TT of a controller; EN,
COUPLING and PHASE of the Feeder link, and EN and carrier of a band. -/
def linkDiff (a b : Image) : List Claim × List Claim × List Claim :=
  let port (m : Image) (n : Nat) := slice (m.body tyNET) (64 + 8 * n + 1) 3
  let can (m : Image) (n : Nat) :=
    let c := BitVec.ofNat 32 (u32 (m.body tyCAN) (8 + 20 * n))
    (slice (m.body tyCAN) (12 + 20 * n) 8, F.CAN_CFG_EN.of c, F.CAN_CFG_FD.of c, F.CAN_CFG_LISTEN.of c, F.CAN_CFG_TT.of c)
  let fdl (m : Image) : Nat × List (Nat × Nat) :=
    let y := m.body tyFDL
    (u32 y 4 / 2 ^ 28, (List.range 4).map fun k =>
      let c := BitVec.ofNat 32 (u32 y (16 + 4 * k))
      (F.FDL_BAND_CFG_EN.of c, F.FDL_BAND_CFG_F0.of c))
  (((List.range 10).filter fun n => decide (port a n ≠ port b n)).map Claim.port,
    ((List.range 8).filter fun n => decide (can a n ≠ can b n)).map Claim.can,
    if fdl a = fdl b then [] else [Claim.feeder])

/-- Differences of BAT, THRM and MRT: a string added or removed; a cable model added or removed; the structure of the safety table. -/
def plantDiff (a b : Image) : List Claim × List Claim × List Claim :=
  let bat (m : Image) (k : Nat) : Bool := (batRecord (m.body tyBAT) k).isSome
  let cable (m : Image) (c : Nat) : Bool := match m.cable c with | some r => r.model | none => false
  (((List.range 16).filter fun k => bat a k != bat b k).map Claim.batString,
    ((List.range 32).filter fun c => cable a c != cable b c).map Claim.session,
    if mrtShape (a.body tyMRT) = mrtShape (b.body tyMRT) then [] else [Claim.safety])

/-- Every structural difference, with the directory index of its section in the new image. -/
def imageDiff (a b : Image) : List (Nat × Claim) :=
  let w := workDiff a b
  let l := linkDiff a b
  let p := plantDiff a b
  [(tyTOPO, topoDiff a b), (tyFRG, w.1), (tyLOOP, w.2.1), (tyACQ, w.2.2), (tyPNT, pntDiff a b), (tyNET, l.1), (tyCAN, l.2.1),
    (tyFDL, l.2.2), (tyBAT, p.1), (tyTHRM, p.2.1), (tyMRT, p.2.2)].flatMap fun x =>
      x.2.map fun c => (b.index (match c with | .wholeStroke => tySYS | _ => x.1), c)

/-! ### When a resource is idle (R59, R66) -/

/-- A section of the image refers to a point. -/
def Image.refers (m : Image) (p : Nat) : Bool :=
  let t := m.body tyTOPO
  let h := m.body tyTHRM
  let a := m.body tyACQ
  let words (b : List Byte) (l : List Nat) : Bool := l.any fun o => decide (u32 b o = p)
  (m.has tyTOPO && (words t [0x14, 0x18, 0x1C]
      || (List.range (topoBays t)).any (fun k => words t [topoBayOfs t + 16 * k + 4, topoBayOfs t + 16 * k + 8])
      || (List.range (topoOuts t)).any (fun k => words t [topoOutOfs t + 16 * k + 4, topoOutOfs t + 16 * k + 8])
      || (topoXpList t).any fun r => decide (r.cmd = p ∨ r.fb = p)))
    || (List.range (u16 a 2)).any (fun k => decide ((acqSlot a k).typ = 1 ∧ (acqSlot a k).dest % 2 ^ 18 = p))
    || (loopBindings (m.body tyLOOP)).any (fun x => decide (x.typ = 3 ∧ x.dest % 2 ^ 18 = p))
    || (List.range (u8 h 0)).any (fun k => words h ([0x20, 0x24, 0x28, 0x2C, 0x30].map fun d => 16 + 64 * k + d))
    || (List.range (u8 h 1)).any (fun k => words h [16 + 64 * u8 h 0 + 16 * k + 4, 16 + 64 * u8 h 0 + 16 * k + 8])
    || (netSlots (m.body tyNET)).any (fun d => decide (d.base ≤ p ∧ p < d.base + d.objs))
    || (m.has tyNET && (List.range 32).any fun o => decide (netSession (m.body tyNET) o % 2 ^ 18 = p))
    || (canObjs (m.body tyCAN)).any (fun r => decide (r.point = p))
    || (List.range 64).any (fun k => match nodeRec (m.body tyFDL) k with | some r => decide (r.base ≤ p ∧ p < r.base + r.objs) | none => false)
    || (List.range 16).any fun k => match batRecord (m.body tyBAT) k with
      | some r => decide (r.ptI = p ∨ (r.ptV ≤ p ∧ p < r.ptV + r.cells) ∨ (r.ptT ≤ p ∧ p ≤ r.ptT + (r.cells - 1) / max r.tgrp 1))
      | none => false

/-- A section of the image refers to a ring. -/
def Image.refersRing (m : Image) (n : Nat) : Bool :=
  let a := m.body tyACQ
  let c := m.body tyCAN
  (m.has tyTOPO && decide (u8 (m.body tyTOPO) 0x30 = n))
    || (List.range (u16 a 2)).any (fun k => decide ((acqSlot a k).typ = 2 ∧ (acqSlot a k).dest % 64 = n))
    || (loopBindings (m.body tyLOOP)).any (fun x => decide (x.typ = 4 ∧ x.dest % 64 = n))
    || (m.has tyNET && decide (u8 (m.body tyNET) 0x15 = n ∨ u8 (m.body tyNET) 0x16 = n))
    || (List.range 8).any fun k =>
      let w := BitVec.ofNat 32 (u32 c (8 + 20 * k))
      m.has tyCAN && decide (n ≠ 0x3F ∧ (F.CAN_CFG_RX_RING.of w = n ∨ F.CAN_CFG_TX_RING.of w = n ∨ F.CAN_CFG_TXC_RING.of w = n))

/-- A local bay is off: no phase of it runs or still switches. -/
def State.bayIdle (s : State) (b : Nat) : Bool := decide (s.running b = []) && (s.bayPhases b).all fun p => !(s.phase p).going

/-- A Calfin program does not run: none, not started, or STOPPED. -/
def State.engineIdle (s : State) (e : Nat) : Bool :=
  (s.program e).isNone || decide (s.fld F.CLF_ENG_STAT_STATE e = 0 ∨ s.fld F.CLF_ENG_STAT_STATE e = 3)

/-- The bay of a crosspoint, local or remote, is off. -/
def State.xpBayIdle (s : State) (r : XpRec) : Bool :=
  if r.lender = 255 then s.bayIdle r.bay else decide ((s.trs.committed.bays.get r.key).mode = 0)

/-- No contactor of an output is engaged. -/
def State.outOpen (s : State) (o : Nat) : Bool := (topoXpList s.topo).zipIdx.all fun x => decide (x.1.out ≠ o) || !s.engaged x.2

/-- The contactors of a string are open: the spec gives them no feedback, so the model takes them as open while a string of the active
structure measures no current (DESIGN CHOICE, log entry 26). -/
def State.stringOpen (s : State) (k : Nat) : Bool :=
  match s.batRec k with
  | some r => decide (s.goodRat r.ptI = some 0)
  | none => true

/-- The resource of a claim is idle, for a pending image. -/
def State.isIdle (s : State) (m : Image) : Claim → Bool
  | .wholeStroke => ((List.range 24).all s.bayIdle) && (List.range 48).all s.engineIdle
  | .bay b => s.bayIdle b
  | .crosspoint b o =>
    (topoXpList s.topo).zipIdx.all (fun x => decide (x.1.key ≠ b ∨ x.1.out ≠ o) || (!s.engaged x.2 && s.xpBayIdle x.1))
      && (topoXpList (m.body tyTOPO)).all fun r => decide (r.key ≠ b ∨ r.out ≠ o) || s.xpBayIdle r
  | .output o => !s.flag F.TRS_OUT_DEM_HI_VALID o && s.outOpen o
  | .session o => !s.flag F.TRS_OUT_DEM_HI_VALID o
  | .sequence n =>
    match s.sequence n with
    | some q => (acqSlotsOf (s.body tyACQ) q).all fun x => decide (x.typ ≠ 0) || s.engineIdle (x.dest / 2 ^ 24 % 64)
    | none => true
  | .points f c => (List.range c).all fun i =>
      decide (s.jny.active.pointType (f + i) = m.pointType (f + i)) || !s.jny.active.refers (f + i)
  | .ring n => !s.jny.active.refersRing n && decide (s.ringCount n = 0)
  | .port n => !s.flag F.NET_PORT_STAT_LINK n
  | .can n => s.canOff n
  | .feeder => s.flag F.FDL_CTL_DISABLE || !s.fdlOn
  | .batString k => decide (s.fld F.TRS_BAT_SP_SP = 0) && s.stringOpen k
  | .safety => (List.range 20).all fun k => !s.chanBit k 31 && !s.chanBit k 30 && !s.chanBit k 29

/-- UNIT of a claim in JNY_ERR. -/
def State.claimUnit (s : State) : Claim → Nat
  | .bay b => b
  | .crosspoint b o => ((topoXpList s.topo).findIdx? fun r => decide (r.key = b ∧ r.out = o)).getD (32 * b + o)
  | .output o => o
  | .session o => o
  | .sequence n => n
  | .points f _ => f
  | .ring r => r
  | .port n => n
  | .can n => n
  | .batString n => n
  | .wholeStroke => 0
  | .feeder => 0
  | .safety => 0

/-- The first condition that does not hold (R65). -/
def State.unmet (s : State) (p : PendingImage) : Option (Nat × Claim) := p.claims.find? fun c => !s.isIdle p.image c.2

end Sys2Proof.Machine
end

