-- ==== Sys2Proof/Machine/Loader.lean ====
section
/-! DEFINITION. The Joinery loader: staging, the pending image with its claims, the commit, and the choice of a structure at a reset
(R55 to R68). -/

namespace Sys2Proof.Machine

open Sys2Proof

/-- Change the loader's own record. -/
def State.onJny (s : State) (f : Jny → Jny) : State := { s with jny := f s.jny }

/-- The last Joinery status code with its section and unit (JNY_ERR), reported. -/
def State.jnyCode (s : State) (code : Nat) (sec unit : Nat := 0) : State :=
  (((s.setFld F.JNY_ERR_CODE 0 code).setFld F.JNY_ERR_SECTION 0 sec).setFld F.JNY_ERR_UNIT 0 unit).report code unit

/-- STATE of the loader: 0 IDLE, 1 CHECKING, 2 PENDING. -/
def State.jnyState (s : State) : Nat := s.fld F.JNY_STAT_STATE

/-! ### Banks and the selector word (R55, R62) -/

/-- The address of bank A or B. -/
def bankBase (b : Bool) : Nat := if b then 0x20C00000 else 0x20800000

/-- The selector word's 48 bits, where it can be read (R21), its CRC-16 fits and bits 15 to 9 are 0. -/
def State.selector (s : State) : Option Nat :=
  let w := s.le 0x21D00000 8
  if s.eccIn 0x21D00000 8 then none
  else if crc16 (leBytes 6 w) = w / 2 ^ 48 ∧ w / 2 ^ 9 % 2 ^ 7 = 0 then some (w % 2 ^ 48) else none

/-- The bank that the selector word names for every island; none where the word is invalid or names both. -/
def State.selected (s : State) : Option Bool :=
  match s.selector with
  | some w => if w % 512 = 0 then some false else if w % 512 = 511 then some true else none
  | none => none

/-- The selector word written with every island bit naming a bank, and its count advanced. -/
def State.writeSelector (s : State) (b : Bool) : State :=
  let n := match s.selector with | some w => w / 2 ^ 16 + 1 | none => 1
  let low := leBytes 6 ((if b then 511 else 0) + n % 2 ^ 32 * 2 ^ 16)
  (s.setBytes 0x21D00000 (low ++ leBytes 2 (crc16 low))).setFld F.JNY_BANK_ACTIVE 0 (if b then 511 else 0)

/-- The bank in use. -/
def State.bankB (s : State) : Bool := bitOf (s.fld F.JNY_BANK_ACTIVE) 0

/-! ### The registers and records that an image sets -/

/-- Registers of the system island, Truss and Bellows (R24, R50, R54). -/
def State.loadSite (s : State) (m : Image) : State :=
  let b := m.body tyTOPO
  let devs := (List.range (u8 b 6)).map fun k => (u8 b (topoDevOfs b + 8 * k), u16 b (topoDevOfs b + 8 * k + 2))
  let own := match devs.find? fun d => decide (d.1 = u8 b 5) with | some d => d.2 | none => 0
  let s := s.setFld F.SYS_STROKE_CFG_STROKE_PERIOD 0 m.strokePeriod
  let s := (((s.setFld F.TRS_CFG_DEPTH 0 (u8 b 7)).setFld F.TRS_CFG_CUTOFF 0 (u8 b 8)).setFld F.TRS_CFG_RAMP_STD 0 (u16 b 10)).setFld
    F.TRS_CFG_DEM_TOL 0 (u16 b 12)
  let s := (((s.setFld F.TRS_GRID_CFG_ETA 0 (u16 b 0x10)).setFld F.TRS_GRID_CFG_GRACE 0 (u8 b 0x12)).setFld F.TRS_GRID_CFG_FALLBACK 0 own
    ).setFld F.TRS_GRID_CFG_MISS_LIM 0 (u8 b 0x13)
  let s := s.each (List.range 8) fun d t => t.setFlag F.TRS_PEER_STAT_LISTED d (devs.any fun x => decide (x.1 = d))
  s.setReg .BLW_DIE_CFG 0 (BitVec.ofNat 32 (u32 (m.body tyTHRM) 4))

/-- Registers of the acquisition (R52, R92): an OWNER of 3 in the image is taken as 0. A sequence that the image replaces leaves STOPPED
and starts afresh (R85). -/
def State.loadAcq (s : State) (old m : Image) (all : Bool) : State :=
  let b := m.body tyACQ
  let x := old.body tyACQ
  let s := s.each (List.range 8) fun k t => t.setReg .ACQ_CHK_CFG k (BitVec.ofNat 32 (u32 b (16 + 4 * k)))
  let s := s.each (List.range 64) fun k t =>
    let w := BitVec.ofNat 32 (u32 b (48 + 4 * k))
    t.setReg .ACQ_MOD_CFG k (if F.ACQ_MOD_CFG_OWNER.of w = 3 then F.ACQ_MOD_CFG_OWNER.put w 0 else w)
  s.each (List.range 128) fun n t =>
    let t := t.setFlag F.ACQ_SEQ_STAT_URGENT n (decide (n < acqSeqs b) && (acqSeq b n).urgent)
    let same := decide ((n < acqSeqs x ↔ n < acqSeqs b) ∧ acqSeq x n = acqSeq b n ∧ acqSlotsOf x (acqSeq x n) = acqSlotsOf b (acqSeq b n))
    if same && !all then t
    else ((t.setFld F.ACQ_SEQ_STAT_STOPPED n 0).setFld F.ACQ_SEQ_STAT_OVR_CONSEC n 0).completed (.sequence n)

/-- Assay's claim of its inputs prevails over the section (R92): 0281h once where the section uses one of them. -/
def State.claimInputs (s : State) : State :=
  let b := s.body tyACQ
  let mine : List Nat := ((List.range 32).filter s.ptOn).flatMap fun n => [s.fld F.ASY_PT_CFG_I_MOD n, s.fld F.ASY_PT_CFG_U_MOD n]
  let used := (List.range (u16 b 2)).any (fun k => decide (64 ≤ (acqSlot b k).input) && mine.contains ((acqSlot b k).input - 64))
    || mine.any fun m => decide (s.fld F.ACQ_MOD_CFG_OWNER m ≠ 0)
  let t := if used then s.report 0x0281 else s
  t.assayClaim

/-- Registers of Forge (R51, R97), from a section that the image holds; a phase that belongs to no bay, or to another one than before,
is off. -/
def State.loadForgeRegs (s : State) (old m : Image) : State :=
  let f := m.body tyFRG
  let w (o : Nat) : W32 := BitVec.ofNat 32 (u32 f o)
  let bay (k : Nat) : Option Nat := ((List.range (u8 f 1)).find? fun i => decide (u8 f (16 + 16 * i) = k)).map fun i => 16 + 16 * i
  let s := s.setReg .FRG_BAL_CFG 0 (w 4)
  let s := s.each (List.range 24) fun k t =>
    match bay k with
    | some o => (((t.setReg .FRG_BAY_CFG k (w (o + 4))).setReg .FRG_BAY_SHED k (w (o + 8))).setReg .FRG_BAY_AUX k (w (o + 12))).onBay k
        fun x => { x with spread := true }
    | none => ((t.setReg .FRG_BAY_CFG k 0).setReg .FRG_BAY_SHED k 0).setReg .FRG_BAY_AUX k 0
  let s := s.each (List.range s.phaseCount) fun p t =>
    let o := frgPhaseOfs f + 12 * p
    let t := (t.setReg .FRG_PH_CFG p (if p < u8 f 0 then w o else 0)).setReg .FRG_PH_TIM p (if p < u8 f 0 then w (o + 4) else 0)
    let t := if topoPhaseBay (old.body tyTOPO) p = topoPhaseBay (m.body tyTOPO) p then t else t.onPhase p fun _ => Phase.init
    if t.fld F.FRG_PH_CFG_TSRC p = 0 then
      ((t.onPhase p fun y => { y with trim := 0, stale := 0, atMax := 0 }).setFld F.FRG_PH_TRIM_TRIM p 0).setFlag F.FRG_PH_STAT_TSTALE p false
    else t
  let s := s.each (List.range 64) fun k t =>
    match (List.range (u8 f 3)).find? fun i => decide (u8 f (frgFldOfs f + 8 * i) = k) with
    | some i => t.setReg .FRG_FLD k (w (frgFldOfs f + 8 * i + 4))
    | none => t.setReg .FRG_FLD k 0
  if s.hasForge then s.each (List.range 24) fun k t => t.countBay k else s

/-- The status of the monitors follows their records; a change of ACTION keeps COUNT and TRIP (R157). -/
def State.showMonitors (s : State) (m : Image) (e : Nat) : State :=
  s.each (List.range 4) fun k t =>
    match (loopMonitors (m.body tyLOOP)).find? fun x => decide (x.engine = e ∧ x.mon = k) with
    | some x => (t.setFld F.CLF_FE_STAT_ACTIVE (e * 4 + k) 1).setFld F.CLF_FE_STAT_FAULT (e * 4 + k) x.action
    | none => t

/-- CODE_BANK_SWITCH (R157): changed engines switch their banks, structural replacements start anew; with a new stroke period every
STOPPED program starts (R156). -/
def State.loadEngines (s : State) (old m : Image) : State :=
  s.each (List.range s.engineCount) fun e t =>
    let t := if engChanged old m e then t.setFld F.CLF_ENG_STAT_BANK e (1 - t.fld F.CLF_ENG_STAT_BANK e) else t
    if engReplaced old m e then t.freshEngine m e
    else
      let t := t.showMonitors m e
      if old.strokePeriod ≠ m.strokePeriod ∧ t.fld F.CLF_ENG_STAT_STATE e = 3 then
        (((t.setStopped e false).setFld F.CLF_ENG_STAT_STATE e 0).setFld F.CLF_ENG_STAT_STOP_CAUSE e 0).completed (.program e)
      else t

/-- The programs of an image in bank A of every engine, after a reset (R157). -/
def State.loadAllEngines (s : State) (m : Image) : State :=
  s.each (List.range s.engineCount) fun e t =>
    if (m.program e).isSome then ((t.setFld F.CLF_ENG_STAT_BANK e 0).loadCode m e false).freshEngine m e else t

/-- Points that no record covers, or that are retyped, lose their value (R318). -/
def State.loadPoints (s : State) (old m : Image) : State :=
  let kept (c : Nat × Point) : Bool := decide (m.pointType c.1 ≠ 0 ∧ m.pointType c.1 = old.pointType c.1)
  { s with pnt := { s.pnt with table := ⟨s.pnt.table.dflt, s.pnt.table.cells.filter kept⟩ } }

/-- Crosspoints keep their state under their new numbers (R50); a plan's crosspoints too. -/
def State.renumberXps (s : State) (old m : Image) : State :=
  let key (r : XpRec) : Nat × Nat × Nat := (r.bay, r.out, r.lender)
  let was := (topoXpList (old.body tyTOPO)).map key
  let now := (topoXpList (m.body tyTOPO)).map key
  if was = now then s
  else
    let ren (x : Nat) : Nat := match was[x]? with | some k => (now.idxOf? k).getD 0 | none => 0
    let kept (c : Nat × Bool) : Bool := match was[c.1]? with | some k => now.contains k | none => false
    let bay (p : BayPlan) : BayPlan := { p with xp := ren p.xp }
    let plan (e : Entry) : Entry :=
      { e with bays := ⟨e.bays.dflt, e.bays.cells.map fun c => (c.1, bay c.2)⟩, cmds := (e.cmds.filter kept).map fun c => (ren c.1, c.2) }
    let t := s.each (List.range (max was.length now.length)) fun x t =>
      match (now[x]?).bind fun k => was.idxOf? k with
      | some y => (t.setReg .TRS_XP_STAT x (s.reg .TRS_XP_STAT y)).onTrs fun r => { r with xps := r.xps.set x (s.trs.xps.get y) }
      | none => (t.setReg .TRS_XP_STAT x 0).onTrs fun r => { r with xps := r.xps.set x ⟨false, 0⟩ }
    t.onTrs fun r => { r with committed := plan r.committed, window := r.window.map plan, due := r.due.map fun c => (ren c.1, c.2) }

/-- Truss at a commit (R179): the entry of the heat that begins stays, and the window is rebuilt from the next heat on. -/
def State.trussReload (s : State) : State :=
  let idle := decide (topoBays s.topo = 0 ∧ topoOuts s.topo = 0)
  let st := s.fld F.TRS_STAT_STATE
  let s := if idle then s.setFld F.TRS_STAT_STATE 0 0 else if st = 0 then s.setFld F.TRS_STAT_STATE 0 (if s.standby then 3 else 1) else s
  (s.onTrs fun t => { t with
    window := if idle then [] else t.window.filter fun e => decide (e.heat = s.heat)
    rebuild := if idle then none else some (s.heat + 1) }).showWindow

/-- Ports that the image switches off lose their link (R53). -/
def State.portsOff (s : State) (m : Image) : State :=
  s.each (List.range 10) fun n t =>
    if netPortMode (m.body tyNET) n = 0 then
      ((t.setFld F.NET_PORT_STAT_LINK n 0).setFld F.NET_PORT_STAT_SPEED n 0).setFld F.NET_PORT_STAT_PLCA n 0
    else t

/-- The structure of an image becomes the active one: serial, identifier and the content of every section (R55, R61). -/
def State.activate (s : State) (m : Image) : State :=
  let s := s.onJny fun j => { j with active := m }
  let s := s.setReg .JNY_ACTIVE_SERIAL 0 (BitVec.ofNat 32 m.serial)
  let s := s.setPair .JNY_ACTIVE_ID_LO .JNY_ACTIVE_ID_HI 0 m.ident
  let s := (((s.loadSite m).netLoad m).canLoad m).canRings
  (s.portsOff m).fdlLoad m

/-- The structure of the safety table that an image commits (R68). -/
def State.commitTable (s : State) (m : Image) : State :=
  if s.newTable m then
    (s.bumpSat F.MRT_TABLE_CNT_COUNT 0).onJny fun j => { j with lastTable := mrtShape (m.body tyMRT) }
  else s

/-- Everything that the commit changes in the islands (R61, R63, R157): structural and parametric at once. -/
def State.loadStructure (s : State) (m : Image) : State :=
  let old := s.jny.active
  let strings := s.strings
  let moved := match s.asy.ring with | some n => decide (m.ring n ≠ old.ring n) | none => false
  let s := ((((s.loadRings m false).when moved State.redeliver).loadPoints old m).renumberXps old m).activate m
  let s := ((s.loadAcq old m false).claimInputs.loadForgeRegs old m).loadEngines old m
  let s := if mrtShape (old.body tyMRT) ≠ mrtShape (m.body tyMRT) then s.mortiseCommit (old.body tyMRT) else s
  let s := s.batCommit strings
  let s := s.each s.cables fun c t =>
    let was := match old.cable c with | some r => r.model | none => false
    if was then t else t.cableStart c
  let s := s.noCable.trussReload
  if s.flag F.PEG_STAT_LINK then s.showLoad else s

/-! ### Staging (R58, R59) -/

/-- A range of addresses from which the loader takes an image: SRAM that is not private, fitted LPDDR5, the OSPI window (R16, R18, R58). -/
def State.stageable_ (s : State) (a n : Nat) : Bool :=
  decide (a % 64 = 0 ∧ 0 < n ∧ n ≤ 0x400000)
    && ([(0x10000000, 0x11400000), (0x11880000, 0x14000000), (0x100000000, 0x100000000 + s.sys.lpddrSize), (0x30000000, 0x40000000)].any
      fun r : Nat × Nat => decide (r.1 ≤ a ∧ a + n ≤ r.2))

/-- JNY_CMD STAGE (R58): accepted only in IDLE. -/
def State.stage (s : State) : State :=
  if s.jnyState ≠ 0 then s.jnyCode 0x0109
  else
    let t := (s.setFld F.JNY_STAT_STATE 0 1).onJny fun j => { j with
      checking := some (s.pair .JNY_STAGE_ADDR_LO .JNY_STAGE_ADDR_HI, s.fld F.JNY_STAGE_LEN_LEN) }
    t.jnyCode 0x0100

/-- JNY_CMD CANCEL (R65): abandons the pending image; its claims are released at the next heat boundary. Outside PENDING it is not
allowed. DESIGN CHOICE (log entry 27): the spec gives a CANCEL no code, and JNY_ERR stays as it is. -/
def State.cancel (s : State) : State :=
  if s.jnyState = 2 then
    (s.setFld F.JNY_STAT_STATE 0 0).onJny fun j => { j with waiting := none, scheduled := false, dropClaims := true }
  else s.jnyCode 0x0109

/-- JNY_CMD RAISE_FLOOR: the floor takes JNY_ACTIVE_SERIAL, and is only ever raised; outside IDLE it is refused. -/
def State.raiseFloor (s : State) : State :=
  if s.jnyState = 0 then s.setLe 0x21D00008 4 (max s.floor (s.reg .JNY_ACTIVE_SERIAL).toNat) else s.jnyCode 0x0109

/-- PENDING (R59, R157): the image stands whole in the inactive bank, and the changed programs in the inactive banks of their engines. -/
def State.enterPending (s : State) (m : Image) : State :=
  let old := s.jny.active
  let t := s.setBytes (bankBase !s.bankB) m.bytes
  let t := t.each (List.range s.engineCount) fun e t =>
    if engChanged old m e then t.loadCode m e (!t.flag F.CLF_ENG_STAT_BANK e) else t
  let t := (t.setFld F.JNY_STAT_STATE 0 2).onJny fun j => { j with
    checking := none, dropClaims := false, scheduled := false
    waiting := some { image := m, claims := imageDiff old m, newTable := s.newTable m, heats := 0 } }
  t.jnyCode 0x0181

/-- IMAGE_REJECTED (R58): the running structure stays. -/
def State.rejectImage (s : State) (e : JnyErr) : State :=
  ((s.setFld F.JNY_STAT_STATE 0 0).onJny fun j => { j with checking := none }).jnyCode e.1 e.2.1 e.2.2

/-- The check of the staged image is complete (R46, R58): no byte beyond JNY_STAGE_LEN is read. An image with a word that cannot be read
(R21) fails step 1 (log entry 20). -/
def State.imageCheckDone (s : State) : State :=
  match s.jny.checking with
  | none => s
  | some (a, n) =>
    if !s.stageable_ a n || s.eccIn a n then s.rejectImage (0x0101, 0, 0)
    else
      let b := s.bytes a n
      match s.imageErr b true with
      | some e => s.rejectImage e
      | none => s.enterPending (readImage b)

/-- IMAGE_CHECK_DONE (R46). -/
def execImageCheckDone (s : State) : Host.Outcome State Fault Refusal := .next (s.live 0 s.imageCheckDone)

/-! ### Claims and the test stroke (R60, R61, R64, R65) -/

/-- The resources of the pending image are claimed (R60), from the first heat after PENDING was entered. -/
def State.claimAll (s : State) : State :=
  match s.jny.waiting with
  | some p => if 0 < p.heats then s.onJny fun j => { j with claimed := p.claims.map fun c => c.2 } else s
  | none => s

/-- RESOURCE_CLAIM (R60). -/
def execResourceClaim (s : State) : Host.Outcome State Fault Refusal := .next (s.live 0 s.claimAll)

/-- The loader at a heat marker (R60, R65): claims of an abandoned image end, and a heat in PENDING is counted. -/
def State.jnyHeat (s : State) : State :=
  let t := s.onJny fun j => { j with
    claimed := (if j.dropClaims then [] else j.claimed), dropClaims := false,
    waiting := j.waiting.map fun p => { p with heats := p.heats + 1 } }
  t.claimAll

/-- In a bound pair the other device has reported the same image as staged and checked in this heat (R64). -/
def State.peerReady (s : State) (m : Image) : Bool :=
  !s.flag F.PEG_STAT_LINK || decide (s.jny.peerStaged = some (m.ident, s.heat))

/-- COMMIT_TEST (R61): at the last stroke of a heat every condition must hold, and the next heat must have reached JNY_APPLY_HEAT. The
standby of a pair tests nothing: it commits when the holder says that it does (R64). -/
def State.commitTest (s : State) : State :=
  match s.jny.waiting with
  | some p =>
    let ready := decide (s.unmet p = none ∧ s.pair .JNY_APPLY_HEAT_LO .JNY_APPLY_HEAT_HI ≤ s.heat + 1) && s.peerReady p.image
    s.onJny fun j => { j with scheduled := !s.standby && ready }
  | none => s

/-- BUSY_TIMEOUT (R65): JNY_TIMEOUT heats in PENDING; JNY_ERR names the first condition that is unmet. -/
def State.busyTimeout (s : State) : State :=
  match s.jny.waiting with
  | some p =>
    if p.heats < max 1 (s.fld F.JNY_TIMEOUT_HEATS) then s
    else
      let t := (s.setFld F.JNY_STAT_STATE 0 0).onJny fun j => { j with waiting := none, scheduled := false, dropClaims := true }
      match s.unmet p with
      | some c => t.jnyCode 0x0106 c.1 (s.claimUnit c.2)
      | none => t.jnyCode 0x0106
  | none => s

/-- BUSY_TIMEOUT (R65). -/
def execBusyTimeout (s : State) : Host.Outcome State Fault Refusal := .next (s.live 0 s.busyTimeout)

/-! ### The commit (R62) -/

/-- The commit of the scheduled image, in its order: the table counter, the selector word, JNY_BANK and JNY_ACTIVE_ID with the structure
of every island, the release of the claims. -/
def State.commitImage (s : State) : State :=
  match s.jny.waiting with
  | some p =>
    let t := ((s.commitTable p.image).writeSelector !s.bankB).loadStructure p.image
    let t := (t.setFld F.JNY_STAT_STATE 0 0).setFld F.JNY_STAT_SOURCE 0 0
    (t.onJny fun j => { j with waiting := none, scheduled := false, claimed := [], dropClaims := false }).jnyCode 0x0100
  | none => s

/-- At a heat marker: the commit, where the test stroke scheduled it. -/
def State.commitIfDue (s : State) : State := if s.jny.scheduled then s.commitImage else s

/-! ### The structure at a reset (R55, R56) -/

/-- An image of a source, by the LENGTH in its own header; none where that leaves the source, or where a word cannot be read (R21). -/
def State.sourceBytes (s : State) (a limit : Nat) : Option (List Byte) :=
  let n := s.le (a + 8) 4
  if n ≤ 0x400000 ∧ a + n ≤ limit ∧ s.eccIn a (max n 12) = false then some (s.bytes a n) else none

/-- The check of a source: its bytes, or the failure. -/
def State.trySource (s : State) (a limit : Nat) (flash : Bool) : JnyErr ⊕ List Byte :=
  match s.sourceBytes a limit with
  | none => .inl (0x0101, 0, 0)
  | some b => match s.imageErr b flash with | some e => .inl e | none => .inr b

/-- A source from flash is copied into a bank, which the selector word then names (R55). -/
def State.copyFlash (s : State) (b : List Byte) : State :=
  let bank := s.selected.getD false
  ((s.setBytes (bankBase bank) b).writeSelector bank).commitTable (readImage b)

/-- STRUCTURE_SELECT (R55): the first source that passes, and its number; a source that fails leaves its code in JNY_ERR. -/
def State.selectStructure (s : State) : State × Image :=
  let s := s.setFld F.JNY_BANK_ACTIVE 0 (match s.selector with | some w => w % 512 | none => 0)
  let fromFlash (s : State) (src : Nat) (b : List Byte) : State × Image :=
    (((s.copyFlash b).setFld F.JNY_STAT_SOURCE 0 src).jnyCode 0x0183, readImage b)
  let green (s : State) : State × Image := ((s.setFld F.JNY_STAT_SOURCE 0 3).jnyCode 0x0182, Image.green)
  let second (s : State) : State × Image :=
    match s.trySource 0x30500000 0x40000000 true with
    | .inr b => fromFlash s 2 b
    | .inl e => green (s.jnyCode e.1 e.2.1 e.2.2)
  let first (s : State) : State × Image :=
    match s.trySource 0x30100000 0x40000000 true with
    | .inr b => fromFlash s 1 b
    | .inl e => second (s.jnyCode e.1 e.2.1 e.2.2)
  match s.selected with
  | none => first s
  | some b =>
    match s.trySource (bankBase b) (bankBase b + 0x400000) false with
    | .inr d => (s.setFld F.JNY_STAT_SOURCE 0 0, readImage d)
    | .inl e => first (s.jnyCode e.1 e.2.1 e.2.2)

/-- The structure goes live after a reset (R55, R157, R447), over the reset state of every island. -/
def State.bootStructure (s : State) : State :=
  let x := s.selectStructure
  let m := x.2
  let s := (x.1.loadRings m true).activate m
  let s := ((s.loadAcq Image.green m true).claimInputs.loadForgeRegs Image.green m).loadAllEngines m
  let s := s.each s.cables fun c t => t.cableStart c
  s.noCable.trussStart

end Sys2Proof.Machine
end

