-- ==== Sys2Proof/Machine/Scribe.lean ====
section
/-! DEFINITION. Scribe: clearing its counters, snapshots into ring 63, and tagging (R427 to R433). -/

namespace Sys2Proof.Machine

open Sys2Proof

/-- Change Scribe's own record. -/
def State.onScb (s : State) (f : Scb → Scb) : State := { s with scb := f s.scb }

/-- Every counter to zero (R431). -/
def State.zeroCounts (s : State) : State := s.onScb fun x => { x with counts := ⟨0, []⟩, clear := false }

/-- The flags of a heat begin anew (R429, R432). -/
def State.scribeHeat (s : State) : State := s.onScb fun x => { x with skipSaid := false, lostSaid := false }

/-- The banks of a snapshot, in ascending order (R429). -/
def State.snapBanks (s : State) : List Nat := (List.range 16).filter fun b => s.scb.banks.testBit b

/-- The figures of the period that closes go to SCB_BW, and counting starts afresh (R430). -/
def State.closePeriod (s : State) : State :=
  (s.each (List.range 28) fun p t =>
    (t.setReg .SCB_BW_LO p (BitVec.ofNat 32 (s.scb.reads.get p))).setReg .SCB_BW_HI p (BitVec.ofNat 32 (s.scb.writes.get p))
  ).onScb fun x => { x with reads := ⟨0, []⟩, writes := ⟨0, []⟩ }

/-- PERIOD and BANKS of SCB_CFG come into force (R431). -/
def State.takeScbCfg (s : State) : State :=
  s.onScb fun x => { x with period := s.fld F.SCB_CFG_PERIOD, banks := s.fld F.SCB_CFG_BANKS, newCfg := false }

/-- A snapshot falls due (R428, R430, R431): every counter and the figures of the period are latched, the period closes, and a written
SCB_CFG comes into force. -/
def State.latchSnap (s : State) : State :=
  let t := s.closePeriod.onScb fun x => { x with due := some ⟨s.now, s.scb.period, s.snapBanks, s.scb.counts, s.scb.reads, s.scb.writes⟩ }
  if t.scb.newCfg then t.takeScbCfg else t

/-- Scribe at a stroke marker (R427, R428, R431): the marker counts, a snapshot falls due at a multiple of PERIOD, and a CLEAR takes
effect, after the values of a snapshot due are latched. -/
def State.scribeMarker (s : State) : State :=
  let t := s.count 0 106
  let t := if t.scb.period ≠ 0 ∧ t.now % t.scb.period = 0 then t.latchSnap else t
  if t.scb.clear then t.zeroCounts else t

/-- The 128 counters of a bank, 6 bytes each (R429). -/
def Snap.bankBytes (x : Snap) (b : Nat) : List Byte :=
  ((List.range 128).map fun k => leBytes 6 (x.counts.get (b * 128 + k)).toNat).flatten

/-- The bandwidth block of R429: READ and WRITE of the 28 ports. -/
def Snap.bandBytes (x : Snap) : List Byte :=
  ((List.range 28).map fun p => leBytes 4 (x.reads.get p) ++ leBytes 4 (x.writes.get p)).flatten

/-- One entry of a snapshot (R429), with the bandwidth block in the first. -/
def State.snapEntry (s : State) (x : Snap) (b : Nat) : List Byte :=
  leBytes 6 x.stroke ++ leBytes 1 b ++ leBytes 1 x.banks.length ++ leBytes 2 (s.fld F.SCB_STAT_SNAP + 1) ++ leBytes 2 x.period
    ++ leBytes 4 (min s.scb.skipped (2 ^ 32 - 1)) ++ leBytes 16 0 ++ x.bankBytes b
    ++ (if x.banks.head? = some b then x.bandBytes else List.replicate 224 0)

/-- The whole snapshot in ring 63 (R429). -/
def State.writeSnap (s : State) (x : Snap) : State :=
  (s.each x.banks fun b t => t.ringPush 63 (s.snapEntry x b)).bumpWrap F.SCB_STAT_SNAP 0

/-- A skipped snapshot (R429): counted, and 0F81h once per heat. -/
def State.skipSnap (s : State) : State :=
  let t := (s.bumpSat F.SCB_STAT_SKIPPED 0).onScb fun x => { x with skipped := x.skipped + 1 }
  if t.scb.skipSaid then t else (t.report 0x0F81).onScb fun x => { x with skipSaid := true }

/-- The snapshot that is due is delivered whole or skipped whole (R429). -/
def State.snapshot (s : State) : State :=
  match s.scb.due with
  | none => s
  | some x => (if s.ringRoom 63 x.banks.length then s.writeSnap x else s.skipSnap).onScb fun y => { y with due := none }

/-- SNAPSHOT (R428). -/
def execSnapshot (s : State) : Host.Outcome State Fault Refusal := .next (s.live 0 s.snapshot)

/-- A write of SCB_CTL.CLEAR (R431). -/
def State.scbClear (s : State) : State := s.onScb fun x => { x with clear := true }

/-- A write of SCB_CFG (R428, R431): refused whole with 0F01h for a PERIOD of 1 to 9; in force at once where PERIOD was 0, else after
the next due snapshot. -/
def State.scbCfg (s : State) (v : W32) : State :=
  let n := F.SCB_CFG_PERIOD.of v
  if 0 < n ∧ n < 10 then s.report 0x0F01
  else
    let t := (s.setReg .SCB_CFG 0 v).onScb fun x => { x with newCfg := true }
    if s.scb.period = 0 then t.takeScbCfg.onScb fun x => { x with reads := ⟨0, []⟩, writes := ⟨0, []⟩ } else t

/-- A write of SCB_TAG_CFG (R432, R434, R468): refused with 0F01h for K outside 4 to 20, and for EN with a ring that is no delivery ring
of 32-byte entries. The LFSRs start from SEED. -/
def State.tagCfg (s : State) (v : W32) : State :=
  let k := F.SCB_TAG_CFG_K.of v
  if k < 4 ∨ 20 < k ∨ (F.SCB_TAG_CFG_EN.of v = 1 ∧ s.ringFits (F.SCB_TAG_CFG_RING.of v) 0 32 = false) then s.report 0x0F01
  else (s.setReg .SCB_TAG_CFG 0 (v &&& 0xFF3FFFFF#32)).onScb fun x => { x with issues := ⟨0, []⟩ }

/-- The record of a completed tag (R433). -/
def tagRecord (t : Tag) (flags fetch exec retire mem stall : Nat) : List Byte :=
  leBytes 6 t.stroke ++ leBytes 1 t.source ++ leBytes 1 flags ++ leBytes 8 t.pc ++ leBytes 2 fetch ++ leBytes 2 exec
    ++ leBytes 2 retire ++ leBytes 2 mem ++ leBytes 1 stall ++ leBytes 7 0

/-- The tag that completes: of a Calfin engine the tag in flight; of a host core, whose instructions are no commands, the one that the
command names, selected under the same setting. -/
def State.tagInFlight (s : State) (x : Tag) : Option Tag :=
  if x.source < 16 then
    if s.flag F.SCB_TAG_CFG_EN && decide (s.fld F.SCB_TAG_CFG_SRC ≠ 1) then some x else none
  else s.scb.tags.find? fun t => decide (t.source = x.source)

/-- A tag completes: its record goes to the ring of SCB_TAG_CFG (R433). -/
def State.tagDone (s : State) (x : Tag) (flags fetch exec retire mem stall : Nat) : State :=
  match s.tagInFlight x with
  | none => s
  | some t =>
    let u := if x.source < 16 then (s.count 15 0).count 15 1 else s.count 15 4
    (u.onScb fun y => { y with tags := y.tags.filter fun z => decide (z.source ≠ x.source) }).ringDeliver
      (s.fld F.SCB_TAG_CFG_RING) (tagRecord t flags fetch exec retire mem stall)

/-- TAG_COMPLETE (R433). -/
def execTagComplete (source stroke pc flags fetch exec retire mem stall : Nat) (s : State) : Host.Outcome State Fault Refusal :=
  .next (s.live 0 (s.tagDone ⟨source, stroke, pc⟩ flags fetch exec retire mem stall))

end Sys2Proof.Machine
end

