-- ==== Sys2Proof/Machine/Power.lean ====
section
/-! DEFINITION. Supplies, power failure, reset and the boot order (file 18, R435 to R448). -/

namespace Sys2Proof.Machine

open Sys2Proof

/-- A change of the power block's own state. -/
def State.onPwr (s : State) (f : Pwr → Pwr) : State := { s with pwr := f s.pwr }

/-! ### What a reset does to the islands (R442, R443) -/

/-- The system island and the loader at a reset: shadows, counts and pending work go; the stroke counter and what memory holds stay. -/
def State.systemReset (s : State) : State :=
  let sys := { s.sys with
    shadows := [], heldLo := [], overruns := [], late := [], warned := [], heatSkew := 0, clfFail := none, trsFail := none, heldRefs := [], booted := false, halted := [] }
  let jny := { s.jny with
    checking := none, waiting := none, claimed := [], dropClaims := false, scheduled := false, peerStaged := none, peerState := 0 }
  { s with sys := sys, jny := jny }

/-- The blocks that keep nothing through a device reset, and what the others keep: the unit strap, the COUNTERs and the
curtailment that MRAM holds, the key slots. -/
def State.blocksReset (s : State) : State :=
  let peg := { Peg.init with unit := s.peg.unit }
  let net := { Net.init with counter := s.net.counter }
  let fdl := { Fdl.init with saved := s.fdl.saved, leftSaved := s.fdl.leftSaved }
  let cof := { s.cof with answer := (0, []) }
  { s with
    acq := Acq.init, frg := Frg.init, clf := ⟨Engine.init, []⟩, trs := Trs.init, blw := Blw.init, mrt := Mrt.init, peg := peg
    pnt := Pnt.init, net := net, can := Can.init, fdl := fdl, est := Est.init, cof := cof, scb := Scb.init }

/-- Island 8 is reset: what MRAM keeps of the estimator stays. -/
def State.emberReset (s : State) : State :=
  { s.dropRegs [.ember] with emb := { Emb.init with defer := s.emb.defer, saved := s.emb.saved } }

/-- Keys with LIFE = 1 are lost at every device reset. -/
def State.dropVolatile (s : State) : State :=
  s.each ((List.range 512).filter fun n => decide (10 ≤ n ∧ s.slotState n ≠ 0 ∧ s.fld F.CFR_SLOT_ATTR_LO_LIFE n = 1)) fun n t => t.emptySlot n

/-- A device reset (R443): islands 0 to 7, with island 5 spared where R440 says so, and island 8 only where it failed. The
registers that every device reset resets take their reset values. `restart`: the start of island 5 is none after a power failure. -/
def State.deviceReset (s : State) (spare restart : Bool) : State :=
  let failed8 := bitOf (s.fld F.SYS_REGION_STAT_FAILED) 8
  let t := if spare then s else s.assayReset restart
  let t := (if failed8 then t.emberReset else t).redeliver
  (t.dropVolatile.dropRegs [.device, .image, .nonce]).systemReset.blocksReset.onPwr fun p => { p with irq := false, hostDone := false }

/-- A reset source (R442): PWR_RST_CAUSE records it; a reset that is not yet asserted resets the device, and is counted once. A
source that does not spare island 5 resets it also in a reset that spared it. -/
def State.assertReset (s : State) (src : Nat) (spare restart : Bool) : State :=
  let again := decide (s.pwr.sources ≠ [])
  let s := (s.setFld F.PWR_RST_CAUSE_LAST 0 src).setFld F.PWR_RST_CAUSE_SEEN 0 (withBit (s.fld F.PWR_RST_CAUSE_SEEN) (src - 1) true)
  let s := if again then (if s.pwr.spared && !spare then s.assayReset restart else s)
    else (s.bumpSat F.PWR_RST_CNT_RESETS 0).deviceReset spare restart
  s.onPwr fun p => { p with
    sources := if p.sources.contains src then p.sources else p.sources ++ [src]
    spared := if again then p.spared && spare else spare }

/-- What SRAM and LPDDR5 held is gone after their supply was off: they read as never written (log entry 2). -/
def State.powerLost (s : State) : State :=
  let kept (a : Nat) : Bool := decide (a < 0x10000000 ∨ (0x20000000 ≤ a ∧ a < 0x100000000))
  { s with mem := s.mem.filter fun c => kept c.1, ecc := s.ecc.filter kept }

/-! ### Supplies (R437) -/

/-- The warning threshold of a rail, its lower and its upper reset threshold, in mV. -/
def railLimits (rail : Nat) : Nat × Nat × Nat :=
  match rail with
  | 0 => (870, 840, 960)
  | 3 => (870, 800, 960)
  | _ => (1740, 1680, 1920)

/-- A reading of a rail (PWR_VMON). -/
def State.readRail (s : State) (rail mv : Nat) : State :=
  (s.setFld F.PWR_VMON_LAST rail mv).setFld F.PWR_VMON_MIN rail (min mv (s.fld F.PWR_VMON_MIN rail))

/-- SUPPLY_WARN: WARN of the rail, and 1181h once per excursion. -/
def State.supplyWarn (s : State) (rail mv : Nat) : State :=
  let s := s.readRail rail mv
  if (railLimits rail).1 ≤ mv then s
  else
    let w := s.fld F.PWR_STAT_WARN
    if bitOf w rail then s else (s.setFld F.PWR_STAT_WARN 0 (withBit w rail true)).report 0x1181 rail

/-- SUPPLY_WARN (R437). -/
def execSupplyWarn (rail mv : Nat) (s : State) : Host.Outcome State Fault Refusal := .next (s.supplyWarn rail mv)

/-- SUPPLY_WARN_END: 10 mV above the threshold the excursion ends; the margin of R398 counts VDD_CORE from here. -/
def State.supplyWarnEnd (s : State) (rail mv : Nat) : State :=
  let s := s.readRail rail mv
  let w := s.fld F.PWR_STAT_WARN
  if mv < (railLimits rail).1 + 10 ∨ bitOf w rail = false then s
  else (s.setFld F.PWR_STAT_WARN 0 (withBit w rail false)).onPwr fun p => { p with coreFrom := if rail = 0 then s.now else p.coreFrom }

/-- SUPPLY_WARN_END (R437). -/
def execSupplyWarnEnd (rail mv : Nat) (s : State) : Host.Outcome State Fault Refusal := .next (s.supplyWarnEnd rail mv)

/-- The hold-up of a power-fail sequence, measured at the first rail that leaves its range, `since` 10 µs after PFW_N fell. -/
def State.holdUp (s : State) (since : Nat) : State :=
  if s.pwr.failing && decide (s.fld F.PWR_PF_STAT_HOLDUP = 0) then
    (s.setFld F.PWR_PF_STAT_HOLDUP 0 (min since 0xFFFF)).setFlag F.PWR_PF_STAT_HOLDUP_SHORT 0 (decide (since < 800))
  else s

/-- SUPPLY_RESET: undervoltage with 1101h or overvoltage with 1102h of a rail other than VDD_EMB. -/
def State.supplyReset (s : State) (rail mv since : Nat) : State :=
  let lim := (railLimits rail).2
  let s := s.readRail rail mv
  if s.pwr.coreOff ∨ rail = 3 ∨ (lim.1 ≤ mv ∧ mv ≤ lim.2) then s
  else
    let s := s.holdUp since
    let t := if mv < lim.1 then (s.assertReset 4 false false).report 0x1101 rail else (s.assertReset 5 false false).report 0x1102 rail
    t.setFld F.PWR_STAT_GOOD 0 (withBit (t.fld F.PWR_STAT_GOOD) rail false)

/-- SUPPLY_RESET (R437, R442). -/
def execSupplyReset (rail mv since : Nat) (s : State) : Host.Outcome State Fault Refusal := .next (s.supplyReset rail mv since)

/-! ### Cold start and core power-up (R442, R444) -/

/-- COLD_START: every island is reset, Ember included; the stroke counter is zero and UNIT_SEL is sampled (R25, R289). -/
def State.coldStart (s : State) (unitB : Bool) : State :=
  let s := ((s.deviceReset false false).emberReset.dropRegs [.coldStart]).powerLost
  let s := { s with sys := { s.sys with stroke := 0 }, pwr := Pwr.init }
  s.onPeg fun p => { p with unit := unitB }

/-- COLD_START (R442). -/
def execColdStart (unitB : Bool) (s : State) : Host.Outcome State Fault Refusal := .next (s.coldStart unitB)

/-- CORE_POWER_UP: the counter resumes from its held value plus the elapsed time divided by the stroke period, rounded up. -/
def State.corePowerUp (s : State) (elapsed : Nat) : State :=
  if s.sys.booted then s
  else
    let p := s.period
    let s := { s with sys := { s.sys with stroke := s.sys.stroke + BitVec.ofNat 48 ((elapsed + p - 1) / p) } }
    let s := (s.assertReset (if s.emb.woken then 10 else 2) false false).powerLost
    ({ s with emb := { s.emb with woken := false, asleep := false } }).onPwr fun p => { p with coreOff := false }

/-- CORE_POWER_UP (R444). -/
def execCorePowerUp (elapsed : Nat) (s : State) : Host.Outcome State Fault Refusal := .next (s.corePowerUp elapsed)

/-- EMBER_IDLE_ENTRY: the saves of an accepted hibernation are complete, and the core rails go off; a wake event that waited takes
effect (R400, R448). -/
def State.emberIdle (s : State) : State :=
  if s.est.saving then
    let wake := s.emb.wake
    let s := (s.deviceReset false false).onPwr fun p => { p with coreOff := true }
    let s := s.setReg .PWR_STAT 0 8
    let s := { s with emb := { s.emb with asleep := true } }
    match wake with | some src => s.wakeUp src | none => s
  else s

/-- EMBER_IDLE_ENTRY (R448). -/
def execEmberIdleEntry (s : State) : Host.Outcome State Fault Refusal := .next s.emberIdle

/-! ### Power-fail sequence (R439, R440) -/

/-- PFW_FALL: the gate closes first and the peg is released (R296); the cause that PEG_EVENT gives has no value for it and is
free. PF_ACTIVE, 1103h and the interrupt follow; Assay sees PFW_N at its next sample. -/
def State.pfwFall (s : State) : State :=
  if s.pwr.coreOff then s
  else
    let s := s.setFld F.PWR_STAT_PFW 0 1
    if !s.sys.booted || s.flag F.PWR_STAT_PF_ACTIVE then s
    else
      let cause := (s.fresh 4).toNat
      let s := s.tick.pegRelease cause
      let s := ((s.setFld F.PWR_STAT_PF_ACTIVE 0 1).setReg .PWR_PF_STAT 0 0).report 0x1103
      s.onPwr fun p => { p with failing := true, failAt := s.now, hostDone := false, irq := s.flag F.PWR_CTL_PF_IRQ_EN }

/-- PFW_FALL (R439). -/
def execPfwFall (s : State) : Host.Outcome State Fault Refusal := .next s.pfwFall

/-- A write of 1 to PWR_CTL.HOST_DONE: the host save slot is complete. -/
def State.hostSaved (s : State) : State :=
  if s.flag F.PWR_STAT_PF_ACTIVE then s.onPwr fun p => { p with hostDone := true } else s

/-- A time in 10 ns steps since PFW_N fell may have passed, as far as whole strokes tell: one stroke less has. -/
def State.sincePfw (s : State) (t : Nat) : Bool := decide (s.pwr.failAt + s.strokesIn t ≤ s.now + 1)

/-- HOST_SAVE_LATE (R439): 5 ms after PFW_N fell. -/
def execHostSaveLate (s : State) : Host.Outcome State Fault Refusal :=
  .next (if s.flag F.PWR_STAT_PF_ACTIVE && !s.pwr.hostDone && s.sincePfw 500000 then s.setFld F.PWR_PF_STAT_HOST_LATE 0 1 else s)

/-- POWER_FAIL_RESET (R440): 6 ms after PFW_N fell, whether or not it is still low; with PFW_N high and every rail in range island 5 is
spared. -/
def State.powerFailReset (s : State) (pfwHigh railsGood : Bool) : State :=
  if s.flag F.PWR_STAT_PF_ACTIVE && s.sincePfw 600000 then
    let spare := pfwHigh && railsGood
    let t := (s.assertReset 7 spare false).setFlag F.PWR_STAT_PFW 0 (!pfwHigh)
    if spare then t.report 0x1182 else t
  else s

/-- POWER_FAIL_RESET (R440). -/
def execPowerFailReset (pfwHigh railsGood : Bool) (s : State) : Host.Outcome State Fault Refusal := .next (s.powerFailReset pfwHigh railsGood)

/-! ### The other sources (R442) -/

/-- RESET_N: the ball was low for 1 µs. -/
def execResetN (s : State) : Host.Outcome State Fault Refusal := .next (if s.pwr.coreOff then s else s.assertReset 3 false true)

/-- A write of 1 to PWR_CTL.SW_RESET. -/
def State.softReset (s : State) : State := if s.sys.booted then s.assertReset 8 false true else s

/-- OVERTEMP_TRIP (R206): regardless of the image and of R202. -/
def execOvertempTrip (s : State) : Host.Outcome State Fault Refusal :=
  .next (if s.pwr.coreOff then s else (s.assertReset 6 false true).report 0x1105)

/-- ERASE_DONE (R423): the erasure completes, and a warm reset is asserted. -/
def execEraseDone (s : State) : Host.Outcome State Fault Refusal :=
  .next (if s.flag F.CFR_LC_STATE_ERASE_PEND && s.sys.booted then s.eraseKeys.assertReset 9 false true else s)

/-- TRST_N (R442): the test access port only. -/
def execTrstN (low : Bool) (s : State) : Host.Outcome State Fault Refusal := .next (s.onPwr fun p => { p with tapReset := low })

/-! ### Boot (R447) -/

/-- The fixed slots 0 to 7 (R408): the identity keys, derived at every start, and what the maker put in. -/
def State.fixedSlots (s : State) : State :=
  s.each (List.range 8) fun n t =>
    let a := Config.makerAttr n
    let lo := if n = 0 then F.CFR_SLOT_ATTR_LO_ALG.put a.1 1 else if n = 1 then F.CFR_SLOT_ATTR_LO_ALG.put a.1 2 else a.1
    let hi := if n < 2 then F.CFR_SLOT_ATTR_HI_USAGE.put 0 0x10000 else a.2
    let t := ((t.setReg .CFR_SLOT_ATTR_LO n lo).setReg .CFR_SLOT_ATTR_HI n hi).setFld F.CFR_SLOT_STAT_STATE n 4
    t.onSlot n fun _ => ⟨some (Config.makerKey n), none, none, none⟩

/-- Coffer starts (R406, R407, R422, R423, R447): a pending erasure first; then the root secret (`root`: 0 bank 0 serves, 1 bank 1
serves, 2 both fail), the slots, whose failing records read CORRUPT with 0E0Ch, and a new nonce. -/
def State.cofferStart (s : State) (root : Nat) (corrupt : List Nat) : State :=
  let s := if s.flag F.CFR_LC_STATE_ERASE_PEND then s.eraseKeys else s
  let s := ((s.setFld F.CFR_STAT_RUN 0 1).setFld F.CFR_STAT_ROOT_BANK 0 (min root 1)).newNonce.endDebug
  if root = 2 ∨ s.fld F.CFR_LC_STATE_STATE = 4 then (s.setFld F.CFR_STAT_ROOT_FAIL 0 1).failIsland 7
  else
    (s.fixedSlots.each corrupt fun n t =>
      if 8 ≤ n ∧ t.slotState n ≠ 0 ∧ t.slotState n ≠ 3 then (t.setFld F.CFR_SLOT_STAT_STATE n 3).report 0x0E0C n else t).showPubKeys

/-- What a power-fail sequence left to report (R439, R454), and the cause of the restart (R443). -/
def State.reportRestart (s : State) : State :=
  let t := if s.pwr.failing && s.flag F.PWR_PF_STAT_HOLDUP_SHORT then s.report 0x1104 else s
  let t := if s.pwr.failing && s.flag F.PWR_PF_STAT_HOST_LATE then t.report 0x1106 else t
  t.report 0x1183 (t.fld F.PWR_RST_CAUSE_LAST)

/-- RESET_RELEASE: every source has met its release condition, and the device boots in the order of R447. Island 5 starts by
ASSAY_START, unless it was spared. `selfTest`: Mortise passes its self-test (R260). -/
def State.release (s : State) (root : Nat) (corrupt : List Nat) (selfTest : Bool) : State :=
  if s.pwr.sources = [] ∨ s.pwr.coreOff = true then s
  else
    let s := (s.setReg .PWR_STAT 0 0xF).setFlag F.PEG_STAT_UNIT 0 s.peg.unit
    let s := (s.cofferStart root corrupt).bootStructure.mortiseStart
    let s := if selfTest then s else s.mortiseFault
    let s := s.embBoot (decide (s.fld F.PWR_RST_CAUSE_LAST = 10))
    let s := s.onFdl fun f => { f with left := f.leftSaved, counter := f.saved + 65536, beaconAt := s.now }
    let s := s.reportRestart
    let s := { s with sys := { s.sys with booted := true } }
    s.onPwr fun p => { p with sources := [], spared := false, failing := false, coreFrom := s.now }

/-- RESET_RELEASE (R446, R447). -/
def execResetRelease (root : Nat) (corrupt : List Nat) (selfTest : Bool) (s : State) : Host.Outcome State Fault Refusal :=
  .next (s.release root corrupt selfTest)

end Sys2Proof.Machine
end

