-- ==== Sys2Proof/Machine/Stroke.lean ====
section
/-! DEFINITION. The stroke marker with everything that it begins, overruns, the region limits, and debug halts (file 01; the order at a
marker by R121, R156, R179 and R199). -/

namespace Sys2Proof.Machine

open Sys2Proof

/-- A change of the system island's own state. -/
def State.onSys (s : State) (f : Sys → Sys) : State := { s with sys := f s.sys }

/-! ### Region limits (R36 to R39) -/

/-- The pairs of islands that have limits (R12). -/
def adjacent (a b : Nat) : Bool :=
  decide ((a = 0 ∧ 0 < b ∧ b < 9) ∨ (b = 0 ∧ 0 < a ∧ a < 9) ∨ (a = 2 ∧ b = 4) ∨ (a = 4 ∧ b = 2) ∨ (a = 5 ∧ b = 4) ∨ (a = 4 ∧ b = 5))

/-- The warning threshold of a quantity, in thousandths of ppm, mV, K and ns. -/
def regionLevel : Quantity → Nat
  | .freq => 150000
  | .supply => 70000
  | .temp => 12000
  | .skew => 30000

/-- The trip threshold of a quantity: at or above the stated limit and below the upper bound of its range (R36), where the device's own
threshold is not given (Config.tripAbove). -/
def regionTrip : Quantity → Nat
  | .freq => 200000 + Config.tripAbove 0 % 20000
  | .supply => 90000 + Config.tripAbove 1 % 15000
  | .temp => 15000 + Config.tripAbove 2 % 2000
  | .skew => 40000

/-- WARN shows the islands of which a quantity stands over its threshold. -/
def State.showWarned (s : State) (k : Nat) : State :=
  s.setFld F.SYS_REGION_STAT_WARN 0 (withBit (s.fld F.SYS_REGION_STAT_WARN) k (s.sys.warned.any fun c => decide (c.1 = k)))

/-- A quantity of an island and its peer passed its warning threshold: WARN of the island, and 0082h once per excursion. -/
def State.regionWarn (s : State) (island peer : Nat) (q : Quantity) (v : Nat) : State :=
  if adjacent island peer = false ∨ v ≤ regionLevel q ∨ (island, peer, q) ∈ s.sys.warned then s
  else (((s.onSys fun y => { y with warned := y.warned ++ [(island, peer, q)] }).showWarned island).report 0x0082 island).count 0 115

/-- The quantity fell 10 % of its threshold below it: the excursion ends. -/
def State.regionWarnEnd (s : State) (island peer : Nat) (q : Quantity) (v : Nat) : State :=
  if 9 * regionLevel q < 10 * v ∨ (island, peer, q) ∉ s.sys.warned then s
  else (s.onSys fun y => { y with warned := y.warned.filter fun c => decide (c ≠ (island, peer, q)) }).showWarned island

/-- REGION_WARN (R36); the skew is measured at every marker. -/
def execRegionWarn (island peer : Nat) (quantity : Quantity) (v : Nat) (s : State) : Host.Outcome State Fault Refusal :=
  .next (s.live 0 (if quantity = .skew then s else s.regionWarn island peer quantity v))

/-- REGION_WARN_END (R36). -/
def execRegionWarnEnd (island peer : Nat) (quantity : Quantity) (v : Nat) (s : State) : Host.Outcome State Fault Refusal :=
  .next (s.live 0 (if quantity = .skew then s else s.regionWarnEnd island peer quantity v))

/-- The code of a region mismatch (R23). -/
def codeOf : Quantity → Nat
  | .freq => 0x0010
  | .supply => 0x0011
  | .temp => 0x0012
  | .skew => 0x0013

/-- A region-mismatch fault on an island against a peer (R38): the island fails; SYS_REGION_FAULT holds the first fault. -/
def State.regionFault (s : State) (island peer : Nat) (q : Quantity) : State :=
  if s.up island = false then s
  else
    let t := if s.fld F.SYS_REGION_FAULT_CODE = 0 then
        ((s.setFld F.SYS_REGION_FAULT_CODE 0 (codeOf q)).setFld F.SYS_REGION_FAULT_ISLAND 0 island).setFld F.SYS_REGION_FAULT_PEER 0 peer
      else s
    (t.report (codeOf q) island).failIsland island

/-- The difference of an island's clock from island 0's. -/
def clockOf (dev : List Int) (k : Nat) : Int := if k = 0 then 0 else dev.getD (k - 1) 0

/-- The islands of a frequency fault (R37): island 0 where its reference differs from at least two of the Assay, Mortise and Ember
oscillators beyond the threshold; else of two islands the one whose clock lies further from the reference that the others share. -/
def freqFault (a b : Nat) (dev : List Int) : Option (Nat × Nat) :=
  let far (k : Nat) : Bool := decide (regionTrip .freq < (clockOf dev k).natAbs)
  if (clockOf dev a - clockOf dev b).natAbs ≤ regionTrip .freq then none
  else if a = 0 ∨ b = 0 then
    let o := if a = 0 then b else a
    some (if 2 ≤ ([5, 6, 8].filter far).length then (0, o) else (o, 0))
  else some (if (clockOf dev b).natAbs ≤ (clockOf dev a).natAbs then (a, b) else (b, a))

/-- The islands of a supply fault: every sample of 1 µs over the threshold; the domain further from 0.9 V is chosen. -/
def supplyFault (a b : Nat) (volts : List (Nat × Nat)) : Option (Nat × Nat) :=
  let off (v : Nat) : Nat := ((v : Int) - 900000).natAbs
  match volts.getLast? with
  | some v =>
    if 10 ≤ volts.length ∧ (volts.all fun c => decide (regionTrip .supply < ((c.1 : Int) - c.2).natAbs)) = true then
      some (if off v.2 ≤ off v.1 then (a, b) else (b, a))
    else none
  | none => none

/-- The islands of a temperature fault: two samples in a row over the threshold; the hotter island is chosen. -/
def tempFault (a b : Nat) (kelvin : List (Int × Int)) : Option (Nat × Nat) :=
  match kelvin.getLast? with
  | some v =>
    if 2 ≤ kelvin.length ∧ (kelvin.all fun c => decide (regionTrip .temp < (c.1 - c.2).natAbs)) = true then
      some (if v.2 ≤ v.1 then (a, b) else (b, a))
    else none
  | none => none

/-- What a monitor found: the quantity, the island chosen and its peer (R36, R37). -/
def Measured.fault (a b : Nat) : Measured → Option (Quantity × Nat × Nat)
  | .freq dev => (freqFault a b dev).map fun c => (.freq, c)
  | .supply volts => (supplyFault a b volts).map fun c => (.supply, c)
  | .temp kelvin => (tempFault a b kelvin).map fun c => (.temp, c)

/-- REGION_MISMATCH: what the monitor of two adjacent islands measured. -/
def State.regionMismatch (s : State) (a b : Nat) (m : Measured) : State :=
  match Measured.fault a b m with
  | some (q, island, peer) => if adjacent a b then s.regionFault island peer q else s
  | none => s

/-- REGION_MISMATCH (R37, R38). -/
def execRegionMismatch (a b : Nat) (m : Measured) (s : State) : Host.Outcome State Fault Refusal :=
  .next (s.live 0 (s.regionMismatch a b m))

/-- The skew of an island at a marker (R36): its warning, and the fault after three strokes in a row over the trip threshold. The island whose
echo is late is the one chosen (R37). -/
def State.skewOf (s : State) (k v : Nat) : State :=
  let s := (s.regionWarn k 0 .skew (1000 * v)).regionWarnEnd k 0 .skew (1000 * v)
  let n := if regionTrip .skew < 1000 * v then s.sys.skewRun.get k + 1 else 0
  let s := s.onSys fun y => { y with skewRun := y.skewRun.set k n }
  if n = 3 then s.regionFault k 0 .skew else s

/-- The echoes of islands 1 to 8. -/
def State.skewWatch (s : State) (echo : List Nat) : State :=
  s.each (List.range (min echo.length 8)) fun k t => t.skewOf (k + 1) (echo.getD k 0)

/-! ### Steps of a marker -/

/-- STROKE_COUNTER_ADVANCE (R25), the position in the heat, and the skew as SYS_STROKE_STAT shows it. -/
def State.countStroke (s : State) (echo : List Nat) : State :=
  let s := s.onSys fun y => { y with stroke := y.stroke + 1 }
  let k := min (echo.foldl max 0) 255
  let s := (s.setFld F.SYS_STROKE_STAT_STROKE_IN_HEAT 0 (s.now % 100)).setFld F.SYS_STROKE_STAT_SKEW_PEAK 0
    (max k (s.fld F.SYS_STROKE_STAT_SKEW_PEAK))
  if s.heatBegins then (s.setFld F.SYS_STROKE_STAT_SKEW_MAX 0 s.sys.heatSkew).onSys fun y => { y with heatSkew := k }
  else s.onSys fun y => { y with heatSkew := max k y.heatSkew }

/-- Runs past their deadline are overruns (R78), with the fault action at the limit (R85). -/
def State.acqDeadlines (s : State) : State :=
  s.each s.lateRuns fun n t =>
    let t := t.runLate n
    if t.limitOf (.sequence n) ≤ t.overruns (.sequence n) then t.seqStop n else t

/-- The delayed actions of a failed island 2 or 3 (R39): phases off at the second marker; references held for one heat, then ramped to
zero over one heat. -/
def State.islandActions (s : State) : State :=
  let s := match s.sys.clfFail with
    | some n =>
      let t := s.onSys fun y => { y with clfFail := some (min (n + 1) 3) }
      if n + 1 = 2 then t.each t.bays fun b t => t.faultBay b 5 else t
    | none => s
  match s.sys.trsFail with
  | some n =>
    let k := min (n + 1) 200
    let t := s.onSys fun y => { y with trsFail := some k }
    t.sys.heldRefs.foldl (fun t c => t.setFld F.FRG_BAY_REF_REF c.1 (if k ≤ 100 then c.2 else c.2 * (200 - k) / 100)) t
  | none => s

/-- Item 1 of R179: overruns, trips and bindings of the ending work, and bay faults, under R121 and R156. -/
def State.strokeFaults (s : State) : State :=
  let s := if s.up 4 then s.acqDeadlines else s
  let s := if s.up 2 then s.calfinEnd else s
  let s := s.islandActions
  if s.up 4 then s.forgeFaults else s

/-- Work that completes once a marker or a heat sets its count to zero (R32), unless it overran since its last start. -/
def State.restartWork (s : State) (w : Work) : State :=
  if s.sys.late.contains w then s.onSys fun y => { y with late := y.late.filter fun v => decide (v ≠ w) } else s.completed w

/-- The figures in place before the commit filter reads them (R188, R231, R380, R391). -/
def State.publishInputs (s : State) (noise : List Nat) : State :=
  let s := if s.up 3 then s.limitPublish.embHeat else s
  let s := if s.up 5 && !s.sys.late.contains .assay then s.assayHeat else s
  (s.restartWork .assay).fdlHeat noise

/-- Items 2 and 3 of R179 at a heat marker: the Joinery commit, and the Truss commit over the figures published before it. -/
def State.heatCommit (s : State) (noise : List Nat) : State :=
  (((s.pegHeat.commitIfDue.jnyHeat.cofferHeat).publishInputs noise).trussCommit)

/-- The stroke-bound work of the new stroke: the Forge update, the Calfin instances, the acquisition. -/
def State.strokeUpdate (s : State) : State :=
  let s := if s.up 4 && !s.sys.late.contains .forge then s.setFld F.FRG_STAT_UPD_CONSEC 0 0 else s
  let s := if s.up 4 then (s.restartWork .forge).forgeMarker else s
  let s := if s.up 2 then s.calfinStart else s
  if s.up 4 then s.acqMarker else s

/-- What counts by strokes beside the stroke-bound work: currents and matches, attach points, gate cycles, reference messages. -/
def State.strokeCounts (s : State) (ptp : Nat) : State :=
  let s := if s.up 3 then s.bellowsStroke.trussStroke else s
  ((s.netMarker ptp).attachStroke).canMarker

/-- Reports given once in a heat may be given again. -/
def State.heatFlags (s : State) : State :=
  let s := { s with pnt := { s.pnt with writerSaid := false, lostSaid := [] } }
  let s := s.each (List.range s.engineCount) fun e t => t.onEng e fun x => { x with satSaid := false, qualSaid := false }
  s.scribeHeat.netHeat.canHeat

/-- Item 4 of R179 and the other work that a heat marker starts. -/
def State.heatWork (s : State) : State :=
  let s := if s.up 3 then s.trussTail.bellowsHeat else s
  s.heatFlags.pxSend.staleSweep

/-- The standby holds back its marker in ALIGN until it stands on the holder's (R300). -/
def State.waitsForHolder (s : State) : Bool := decide (s.fld F.PEG_STAT_STATE = 2) && !s.peg.aligned

/-- STROKE_MARKER (R24 to R29): in the order of R179. In ALIGN the stroke-bound work is suspended (R300). At the last stroke of a heat
the loader tests its conditions (R61). -/
def State.marker (s : State) (x : MarkerInput) : State :=
  let s := ((s.countStroke x.echo).skewWatch x.echo).scribeMarker
  let run := decide (s.fld F.PEG_STAT_STATE ≠ 2)
  let s := if run then s.strokeFaults else s
  let s := if s.heatBegins then s.heatCommit x.noise else s
  let s := s.pegMarker x.lock
  let s := if run then s.strokeUpdate else s
  let s := s.strokeCounts x.ptp
  let s := if s.heatBegins then s.heatWork else s
  if s.now % 100 = 99 then s.commitTest else s

/-- The stroke generator runs: the device is out of reset, and island 0 has not failed. -/
def State.ticks (s : State) : Bool := s.sys.booted && s.up 0

/-- STROKE_MARKER (R24). -/
def execStrokeMarker (x : MarkerInput) (s : State) : Host.Outcome State Fault Refusal :=
  .next (if s.ticks && !s.waitsForHolder then s.marker x else s)

/-- JOINERY_COMMIT (R62): the marker of a heat for which the test stroke scheduled the pending image. -/
def execJoineryCommit (x : MarkerInput) (s : State) : Host.Outcome State Fault Refusal :=
  .next (if s.ticks && !s.waitsForHolder && s.jny.scheduled && decide ((s.now + 1) % 100 = 0) then s.marker x else s)

/-- ALIGN_MARKER (R300): the holder's marker of stroke `holder` arrives; where the counts agree modulo 100 the stretched marker is issued
on it. -/
def execAlignMarker (holder : Nat) (x : MarkerInput) (s : State) : Host.Outcome State Fault Refusal :=
  .next (if s.ticks && s.waitsForHolder && decide (holder % 100 = (s.now + 1) % 100) then (s.marker x).alignTo holder else s)

/-! ### Overruns (R31, R32) -/

/-- Work that has no count in its own block is marked and counted: SYS_OVR_SUM, 0083h with the block's code, and Scribe. -/
def State.workLate (s : State) (w : Work) (bit : Fld) (code k : Nat) : State :=
  let t := (s.countOverrun w bit).onSys fun y => { y with late := if y.late.contains w then y.late else y.late ++ [w] }
  let t := (t.report 0x0083).count 0 k
  if code = 0 then t else t.report code

/-- The work is unfinished at its deadline: its partial results are discarded and the overrun is counted (R31). A Mortise overrun is a
Mortise fault (R260). -/
def State.overrun (s : State) : Work → State
  | .sequence n => if (s.lateRuns ++ (List.range 128).filter fun k => match s.sequence k with
      | some q => s.busySeq q k
      | none => false).contains n then s.runLate n else s
  | .program e => if s.fld F.CLF_ENG_STAT_STATE e = 1 then s.engineLate e else s
  | .forge => if s.hasForge then
      let t := s.forgeKeep.workLate .forge F.SYS_OVR_SUM_FRG 0x0306 108
      t.setFld F.FRG_STAT_UPD_CONSEC 0 (min (t.overruns .forge) 15)
    else s
  | .truss => if s.trussRuns then s.trussOverrun else s
  | .bellows => if s.flag F.BLW_STAT_STOPPED then s else s.bellowsOverrun
  | .battery => if s.flag F.EMB_STAT_STOPPED || decide (s.strings = []) then s
      else ((s.countOverrun .battery F.SYS_OVR_SUM_EMB).report 0x0083 |>.count 0 114).batOverrun
  | .mortise => if s.mrtRuns then (s.workLate .mortise F.SYS_OVR_SUM_MRT 0 113).mortiseFault else s
  | .assay => if s.flag F.ASY_STAT_RUN then s.workLate .assay F.SYS_OVR_SUM_ASY 0x0B88 112 else s

/-- The island that does a piece of work. -/
def Work.island : Work → Nat
  | .sequence _ | .forge => 4
  | .program _ => 2
  | .truss | .bellows | .battery => 3
  | .mortise => 6
  | .assay => 5

/-- OVERRUN (R31). -/
def execOverrun (w : Work) (s : State) : Host.Outcome State Fault Refusal := .next (s.live (Work.island w) (s.overrun w))

/-- The fault action of a piece of work (R32). -/
def State.faultAction (s : State) : Work → State
  | .sequence n => s.seqStop n
  | .program e => if s.fld F.CLF_ENG_STAT_STATE e = 3 then s else s.engineLimit e
  | .forge => s.forgeLimit
  | .truss => s.safeHold
  | .bellows => s.bellowsLimit
  | .battery => if s.flag F.EMB_STAT_STOPPED then s else s.batStop
  | .mortise => s.mortiseFault
  | .assay => s.assayLimit

/-- OVERRUN_LIMIT (R32): the consecutive count stands at the limit. -/
def execOverrunLimit (w : Work) (s : State) : Host.Outcome State Fault Refusal :=
  .next (s.live (Work.island w) (if s.limitOf w ≤ s.overruns w then s.faultAction w else s))

/-! ### Debug of a host core (R424, R425) -/

/-- A debug session of level 1 or 2 is open, and the test access port is out of reset. -/
def State.debugOpen (s : State) : Bool :=
  s.flag F.CFR_DBG_STAT_OPEN && decide (1 ≤ s.fld F.CFR_DBG_STAT_LEVEL) && !s.pwr.tapReset && !s.flag F.CFR_LC_STATE_ERASE_PEND

/-- DEBUG_HALT (R425): a host core halts or, halted, steps; in FIELD refused with 0E11h while the device holds the peg. -/
def State.debugHalt (s : State) (core : Nat) : State :=
  if !s.debugOpen then s
  else if s.fld F.CFR_LC_STATE_STATE = 2 ∧ s.holds = true then (s.setFld F.CFR_STAT_CODE 0 0x0E11).report 0x0E11 core
  else s.onSys fun y => { y with halted := if y.halted.contains core then y.halted else y.halted ++ [core] }

/-- DEBUG_HALT (R425). -/
def execDebugHalt (core : Nat) (s : State) : Host.Outcome State Fault Refusal := .next (s.live 1 (s.debugHalt core))

end Sys2Proof.Machine
end

