-- ==== Sys2Proof/Machine/Fabric.lean ====
section
/-! DEFINITION. Accesses on the fabric: the address map, ownership, width and ECC rules, bus errors, register reads and writes by the
access codes, and the halves of 64-bit registers (R5, R6, R10, R13 to R21, R33, R34, R40, R126, R467). -/

namespace Sys2Proof.Machine

open Sys2Proof

/-! ### Ports (R13, R467) -/

/-- The port is of the timed class (R13). -/
def Initiator.timed (w : Initiator) : Bool := decide (2 ≤ w.port ∧ w.port ≤ 9) || decide (w.port = 12 ∨ w.port = 15)

/-- The island whose reset state, failed state and supply govern a peripheral window. DESIGN CHOICE (log entry 19): the EMB window holds
registers of the estimator, which island 3 runs, and of Ember; the model judges all of it by island 8. -/
def windowIsland (win : Nat) : Nat :=
  match win with
  | 2 => 4 | 3 => 4 | 4 => 2 | 5 => 3 | 6 => 3 | 11 => 5 | 12 => 6 | 14 => 7 | 16 => 8
  | _ => 0

/-! ### Absent units (R5, R6, R19, R98) -/

/-- A register of an absent block, or of an absent phase, engine or battery string; or an access to the local memory of an
absent engine. -/
def State.absentAt (s : State) (r : Region) (a n : Nat) : Bool :=
  match r with
  | .window win =>
    let off := (a - 0x40000000) % 0x100000
    let index : Option (Reg × Nat) := regAt win (off / 4 * 4)
    if win = 3 then !s.hasForge || (match index with
      | some (g, k) => [Reg.FRG_PH_CFG, .FRG_PH_TIM, .FRG_PH_TRIM, .FRG_PH_STAT, .FRG_PH_DAC, .FRG_PH_TEMP].contains g && decide (s.phaseCount ≤ k)
      | none => false)
    else if win = 4 then decide (0x1000 + 0x200 * s.engineCount ≤ off ∧ off < 0x1000 + 0x200 * 48)
    else if win = 10 then !s.hasFeeder
    else if win = 16 then (match index with
      | some (g, k) => [Reg.EMB_STR_STAT, .EMB_STR_SOC, .EMB_STR_CAP, .EMB_STR_LEARN, .EMB_Q_LO, .EMB_Q_HI].contains g && decide (s.stringCount ≤ k)
      | none => false)
    else false
  | .sram => s.absentEngineAt a n
  | _ => false

/-! ### Who may reach what (R16, R18, R20, R126, R127, R467) -/

/-- What the debug level in force lets JTAG reach (R424). -/
def State.jtagReaches (s : State) (r : Region) : Bool :=
  let level := if s.debugOpen then s.fld F.CFR_DBG_STAT_LEVEL else 0
  match r with
  | .sram | .lpddr | .window _ => decide (1 ≤ level)
  | .bootRom => decide (2 ≤ level)
  | _ => false

/-- The firewall refuses the access (0005h). -/
def State.firewall (s : State) (w : Initiator) (r : Region) (a n : Nat) (write : Bool) : Bool :=
  (Initiator.jtag w && !s.jtagReaches r) || s.fenced w r a n write

/-- A register access is 32 or 64 bits wide and naturally aligned (R15). -/
def widthOk (a n : Nat) : Bool := decide ((n = 4 ∨ n = 8) ∧ a % n = 0)

/-! ### Memory (R21) -/

/-- The byte that a reader on the fabric sees: in the point table the bytes of the point (R318). -/
def State.shownByte (s : State) (a : Nat) : Byte :=
  if within a 1 0x10000000 0x10800000 then (s.pointBytes ((a - 0x10000000) / 32)).getD (a % 32) 0 else s.byte a

/-- The bytes a reader sees from an address on. -/
def State.shownBytes (s : State) (a n : Nat) : List Byte := (List.range n).map fun k => s.shownByte (a + k)

/-- The SRAM bank (0 to 7) or 8 for MRAM, of the counters of corrected errors (R427). -/
def eccBank (r : Region) (a : Nat) : Nat := match r with | .sram => (a - 0x10000000) / 0x800000 | _ => 8

/-- A read of memory. In SRAM and MRAM a word with an uncorrected error, or a double-bit error found now, ends it with 0004h; a
single-bit error is corrected, counted and reported with CE_REPORT (R21). -/
def State.memoryRead (s : State) (w : Initiator) (r : Region) (a n : Nat) (ecc : Ecc) : State :=
  let protected_ := decide (r = .sram ∨ r = .mram)
  if protected_ && s.eccIn a n then s.busError w a false 4
  else if protected_ && decide (ecc = .double) then
    ({ s with ecc := s.ecc ++ [a / 8 * 8] }).busError w a false 4
  else
    let s := if protected_ && decide (ecc = .single) then
        (s.count 0 (84 + eccBank r a)).when (s.flag F.SYS_CTL_CE_REPORT) fun t => t.report 0x0081 (a / 8 * 8)
      else s
    { s with resp := .data (s.shownBytes a n) }

/-- A write of memory; a word with an uncorrected error is written and is good again (R21). -/
def State.memoryWrite (s : State) (a : Nat) (b : List Byte) : State :=
  { s.setBytes a b with resp := .done }

/-! ### Register reads (R10, R33) -/

/-- The 64-bit registers: their LO and HI halves. -/
def pairs : List (Reg × Reg) :=
  [(.SYS_STROKE_CNT_LO, .SYS_STROKE_CNT_HI), (.SYS_BUSERR_ADDR_LO, .SYS_BUSERR_ADDR_HI), (.JNY_STAGE_ADDR_LO, .JNY_STAGE_ADDR_HI),
   (.JNY_APPLY_HEAT_LO, .JNY_APPLY_HEAT_HI), (.JNY_ACTIVE_ID_LO, .JNY_ACTIVE_ID_HI), (.CLF_RES_LO, .CLF_RES_HI),
   (.TRS_COMMIT_HEAT_LO, .TRS_COMMIT_HEAT_HI), (.TRS_OUT_DEM_LO, .TRS_OUT_DEM_HI), (.ASY_LMC_LO, .ASY_LMC_HI),
   (.ASY_MBX_ADDR_LO, .ASY_MBX_ADDR_HI), (.ASY_PQ_CFG_LO, .ASY_PQ_CFG_HI), (.ASY_ACC_LO, .ASY_ACC_HI), (.ASY_RSEQ_LO, .ASY_RSEQ_HI),
   (.ASY_INT_ANCHOR_LO, .ASY_INT_ANCHOR_HI), (.ASY_WALL_LO, .ASY_WALL_HI), (.ASY_CREDIT_LO, .ASY_CREDIT_HI), (.ASY_TREG_LO, .ASY_TREG_HI),
   (.PEG_HEAT_OFS_LO, .PEG_HEAT_OFS_HI), (.NET_PTP_AT_MARKER_LO, .NET_PTP_AT_MARKER_HI), (.PNT_HOST_WR_LO, .PNT_HOST_WR_HI),
   (.PNT_RING_BASE_LO, .PNT_RING_BASE_HI), (.EMB_Q_LO, .EMB_Q_HI), (.CFR_CH_ADDR_LO, .CFR_CH_ADDR_HI),
   (.CFR_SLOT_ATTR_LO, .CFR_SLOT_ATTR_HI), (.SCB_BW_LO, .SCB_BW_HI), (.SCB_CNT_LO, .SCB_CNT_HI)]

/-- The HI half of a LO half, and the LO half of a HI half. -/
def Reg.hiOf (r : Reg) : Option Reg := (pairs.find? fun p => decide (p.1 = r)).map fun p => p.2
def Reg.loOf (r : Reg) : Option Reg := (pairs.find? fun p => decide (p.2 = r)).map fun p => p.1

/-- A half of a number. -/
def lowHalf (n : Nat) : W32 := BitVec.ofNat 32 n
def highHalf (n : Nat) : W32 := BitVec.ofNat 32 (n / 2 ^ 32)

/-- SYS_STAT gathers what other registers show. -/
def State.sysStat (s : State) : W32 :=
  BitVec.ofNat 32 ((if s.fld F.JNY_STAT_SOURCE = 3 then 1 else 0) + (if s.fld F.SYS_REGION_STAT_FAILED ≠ 0 then 2 else 0)
    + (if s.fld F.SYS_REGION_STAT_WARN ≠ 0 then 4 else 0) + (if s.reg .SYS_OVR_SUM ≠ 0 then 8 else 0))

/-- The word a register holds as a reader sees it, its write-only bits at 0 (R10): a register that shows a value held elsewhere in the
state takes it from there. -/
def State.shown (s : State) (r : Reg) (i : Nat) : W32 :=
  match r with
  | .SYS_FEAT0 => s.feat0
  | .SYS_FEAT1 => s.feat1
  | .SYS_STAT => s.sysStat
  | .SYS_STROKE_CNT_LO => lowHalf s.now
  | .SYS_STROKE_CNT_HI => highHalf s.now
  | .FRG_STAT => F.FRG_STAT_ROLE.put (s.reg .FRG_STAT) (if s.standby then 1 else 0)
  | .FRG_FLD => if s.fld F.ACQ_MOD_CFG_OWNER i = 2 then s.reg .FRG_FLD i else 0
  | .JNY_FLOOR => lowHalf s.floor
  | .ASY_LMC_LO => lowHalf s.lmc
  | .ASY_LMC_HI => highHalf s.lmc
  | .ASY_WALL_LO => lowHalf (s.wallAt s.lmc)
  | .ASY_WALL_HI => highHalf (s.wallAt s.lmc)
  | .SCB_CNT_LO => lowHalf (s.scb.counts.get i).toNat
  | .SCB_CNT_HI => highHalf (s.scb.counts.get i).toNat
  | .CAN_STAT => F.CAN_STAT_LISTEN.put (s.reg .CAN_STAT) ((List.range 8).foldl (fun n k => n + if s.canListens k then 2 ^ k else 0) 0)
  | .CAN_TT_STAT => if s.canSends i then s.reg r i else F.CAN_TT_STAT_MASTER.put (s.reg r i) 0
  | .CAN_TX_STAT =>
    let w := F.CAN_TX_STAT_PENDING.put (s.reg r i) (s.canWindow i).length
    if s.canListens i then F.CAN_TX_STAT_ACTIVE.put w 0 else w
  | .FDL_STAT => if s.holds then F.FDL_STAT_HOLD.put (s.reg .FDL_STAT) 1
    else F.FDL_STAT_TX.put (F.FDL_STAT_HOLD.put (s.reg .FDL_STAT) 0) 0
  | _ => s.reg r i &&& ~~~r.row.wo

/-- A read clears the RC fields: they take their reset values. -/
def State.afterRead (s : State) (r : Reg) (i : Nat) : State :=
  if r.row.rc = 0 then s else s.setReg r i ((s.reg r i &&& ~~~r.row.rc) ||| (r.resetVal &&& r.row.rc))

/-- A held HI or LO half of an initiator. -/
def heldFor (l : List Held) (w : Initiator) (r : Reg) (i : Nat) : Option W32 :=
  (l.find? fun h => decide (h.who = w ∧ h.reg = r ∧ h.idx = i)).map fun h => h.val
def dropHeld (l : List Held) (w : Initiator) (r : Reg) (i : Nat) : List Held :=
  l.filter fun h => !decide (h.who = w ∧ h.reg = r ∧ h.idx = i)

/-- A 32-bit word in the answer. -/
def State.answer (s : State) (v : W32) : State := { s with resp := .data (leBytes 4 v.toNat) }

/-- A read of a LO half (R33): the HI half goes into the shadow of the initiator, and its RC fields count as read. -/
def State.readLo (s : State) (w : Initiator) (lo hi : Reg) (i : Nat) : State :=
  (((s.setShadow w hi i (s.shown hi i)).afterRead lo i).afterRead hi i).answer (s.shown lo i)

/-- A read of a HI half (R33): the shadow, which it consumes, or the live half. -/
def State.readHi (s : State) (w : Initiator) (hi : Reg) (i : Nat) : State :=
  match heldFor s.sys.shadows w hi i with
  | some v => (s.onSys fun y => { y with shadows := dropHeld y.shadows w hi i }).answer v
  | none => (s.afterRead hi i).answer (s.shown hi i)

/-- A 32-bit read of a register. -/
def State.readReg (s : State) (w : Initiator) (r : Reg) (i : Nat) : State :=
  if r = .CLF_RES_LO then s.resultRead w (i / 16) (i % 16) .lo
  else if r = .CLF_RES_HI then s.resultRead w (i / 16) (i % 16) .hi
  else match Reg.hiOf r with
    | some hi => s.readLo w r hi i
    | none => if (Reg.loOf r).isSome then s.readHi w r i else (s.afterRead r i).answer (s.shown r i)

/-- The CAN object at an offset of the CAN window (R348): controller, object, offset in the object. -/
def objectAt (win off : Nat) : Option (Nat × Nat × Nat) :=
  if win = 9 ∧ 0x10000 ≤ off ∧ off < 0x50000 then some ((off - 0x10000) / 0x8000, (off - 0x10000) % 0x8000 / 0x80, off % 0x80) else none

/-- A 32-bit read at an offset of a window; where no register is defined it reads 0 (R16). -/
def State.readWord (s : State) (w : Initiator) (win off : Nat) : State :=
  match objectAt win off with
  | some (n, j, o) => s.objectRead w n j o 4
  | none =>
    match regAt win off with
    | some (r, i) => s.readReg w r i
    | none => s.answer 0

/-- The bytes of an answer. -/
def Resp.bytes : Resp → List Byte
  | .data b => b
  | _ => []

/-- Two 32-bit reads, the lower first, answered together. -/
def State.readTwo (s : State) (w : Initiator) (win off : Nat) : State :=
  let t := s.readWord w win off
  let u := t.readWord w win (off + 4)
  { u with resp := .data (Resp.bytes t.resp ++ Resp.bytes u.resp) }

/-- A 64-bit read: both halves of a 64-bit register at once, else two 32-bit reads. -/
def State.readDouble (s : State) (w : Initiator) (win off : Nat) : State :=
  match objectAt win off with
  | some (n, j, o) => s.objectRead w n j o 8
  | none =>
    match regAt win off with
    | some (r, i) =>
      if r = .CLF_RES_LO then s.resultRead w (i / 16) (i % 16) .whole
      else match Reg.hiOf r with
        | some hi => { (s.afterRead r i).afterRead hi i with
            resp := .data (leBytes 4 (s.shown r i).toNat ++ leBytes 4 (s.shown hi i).toNat) }
        | none => s.readTwo w win off
    | none => s.readTwo w win off

/-! ### Register writes (R10, R34) -/

/-- A write by the access codes: RW bits take the value, W1C bits are cleared by a 1, every other bit keeps its value (R10). -/
def State.plainWrite (s : State) (r : Reg) (i : Nat) (v : W32) : State :=
  s.setReg r i ((((s.reg r i) &&& ~~~r.row.rw) ||| (v &&& r.row.rw)) &&& ~~~(v &&& r.row.w1c))

/-- Bit `k` of a written word. -/
def wrote (v : W32) (k : Nat) : Bool := v.getLsbD k

/-- A write of CAN_CTL (R346, R357): DISABLE, LISTEN and RECOVER. -/
def State.canCtlWrite (s : State) (n : Nat) (v : W32) (busy : Bool) : State :=
  let s := if s.flag F.CAN_CTL_DISABLE n = wrote v 0 then s else s.canDisable n (wrote v 0) busy
  (s.setFlag F.CAN_CTL_LISTEN n (wrote v 1)).when (wrote v 2) fun t => t.canRecover n

/-- A write of TRS_CTL: BAT_CHG, ROLLBACK (R175) and RESTART (R180). -/
def State.trsCtlWrite (s : State) (v : W32) : State :=
  ((s.setFlag F.TRS_CTL_BAT_CHG 0 (wrote v 2)).when (wrote v 0) fun t => t.invalidate 10 0).when (wrote v 1) fun t => t.trussRestart

/-- A write of PWR_CTL: PF_IRQ_EN, HOST_DONE (R439) and SW_RESET (R442). -/
def State.pwrCtlWrite (s : State) (v : W32) : State :=
  ((s.setFlag F.PWR_CTL_PF_IRQ_EN 0 (wrote v 1)).when (wrote v 2) fun t => t.hostSaved).when (wrote v 0) fun t => t.softReset

/-- A write of PEG_CMD: KICK (R296) and HANDOVER (R311). -/
def State.pegCmdWrite (s : State) (v : W32) : State :=
  (s.when (wrote v 0) fun t => t.onPeg fun p => { p with kick := 0 }).when (wrote v 1) fun t => t.handover

/-- A write of JNY_CMD: STAGE, CANCEL or RAISE_FLOOR; other values are ignored. -/
def State.jnyCmdWrite (s : State) (v : W32) : State :=
  match F.JNY_CMD_CMD.of v with
  | 1 => s.stage
  | 2 => s.cancel
  | 3 => s.raiseFloor
  | _ => s

/-- A write of FRG_PH_TEMP: a model value for the trim (R108). -/
def State.phTempWrite (s : State) (p : Nat) (v : W32) : State :=
  (s.plainWrite .FRG_PH_TEMP p v).onPhase p fun x => { x with fresh := true }

/-- A write of SYS_BUSERR_INFO: clearing VALID clears LOST. -/
def State.busErrWrite (s : State) (v : W32) : State :=
  if wrote v 31 then (s.setFld F.SYS_BUSERR_INFO_VALID 0 0).setFld F.SYS_BUSERR_INFO_LOST 0 0 else s

/-- A 32-bit write of a register that is no half of a writable 64-bit register: a register whose write is a command of the block acts as
that command, any other is written by its access codes. The registers of Coffer channel 12 are written only from port 14 (R418). -/
def State.writeReg (s : State) (w : Initiator) (r : Reg) (i : Nat) (v : W32) (ofs : Nat) (busy : Bool) : State :=
  match r with
  | .SYS_BUSERR_INFO => s.busErrWrite v
  | .JNY_CMD => s.jnyCmdWrite v
  | .ACQ_SOFT_TRIG => s.softTrig (F.ACQ_SOFT_TRIG_SEQ.of v) ofs
  | .ACQ_SEQ_RESTART => s.seqRestart (F.ACQ_SEQ_RESTART_SEQ.of v)
  | .ACQ_CNV_CFG => s.lpWrite i (wrote v 0)
  | .ACQ_CHK_STAT => s.when (wrote v 31) fun t => t.checkClear i
  | .FRG_BAY_CTL => s.when (wrote v 1) fun t => t.releaseBay i
  | .FRG_PH_STAT => s.when (wrote v 31) fun t => t.clearDrop i
  | .FRG_PH_TEMP => s.phTempWrite i v
  | .CLF_ENG_CTL => (s.when (wrote v 0) fun t => t.engRestart i).when (wrote v 1) fun t => t.engHalt i
  | .CLF_FE_STAT => s.when (wrote v 31) fun t => t.tripClear (i / 4) (i % 4)
  | .TRS_CTL => s.trsCtlWrite v
  | .TRS_GRID_FW => s.gridFw v
  | .TRS_XP_STAT => s.when (wrote v 31) fun t => t.clearXp i
  | .BLW_CTL => s.when (wrote v 0) fun t => t.bellowsRestart
  | .ASY_MBX_CMD => s.when (wrote v 0) fun t => t.mailGo
  | .MRT_CMD => s.when s.mrtRuns fun t => t.each [0, 1, 2, 3] fun k u => u.when (wrote v k) fun x => x.brakeTest k
  | .PEG_CMD => s.pegCmdWrite v
  | .PEG_ROLE => s.roleWrite (wrote v 0)
  | .PEG_PDO => s.pdoWrite (F.PEG_PDO_REQ.of v)
  | .PNT_RING_CONS => s.ringCons_ i (F.PNT_RING_CONS_INDEX.of v)
  | .PNT_RING_PROD => s.ringProd_ i (F.PNT_RING_PROD_INDEX.of v)
  | .CAN_CTL => s.canCtlWrite i v busy
  | .CAN_TX_CANCEL => s.canCancel i (F.CAN_TX_CANCEL_INDEX.of v) ofs
  | .EMB_CTL => (s.when (wrote v 0) fun t => t.hibernate).when (wrote v 1) fun t => t.estRestart
  | .CFR_DBG_CTL => s.when (wrote v 0) fun t => t.endDebug
  | .CFR_CH_CMD => s.when (wrote v 0 && decide (i ≠ 12 ∨ w.port = 14)) fun t => t.channelGo i
  | .CFR_CH_LEN => s.when (decide (i ≠ 12 ∨ w.port = 14)) fun t => t.plainWrite .CFR_CH_LEN i v
  | .SCB_CTL => s.when (wrote v 0) fun t => t.scbClear
  | .SCB_CFG => s.scbCfg v
  | .SCB_TAG_CFG => s.tagCfg v
  | .PWR_CTL => s.pwrCtlWrite v
  | _ =>
    if r.row.win = 11 ∧ r.dom ≠ .device then s.rwsWrite (r.row.off + i * (match r.row.dims with | d :: _ => d.1 | [] => 0)) v
    else s.plainWrite r i v

/-- A write of both halves of a 64-bit register together. -/
def State.writePair (s : State) (w : Initiator) (lo hi : Reg) (i : Nat) (vl vh : W32) (ofs : Nat) : State :=
  if hi = .TRS_OUT_DEM_HI then s.takeDemand i vl vh
  else if hi = .PNT_HOST_WR_HI then s.hostPoint ofs vl vh
  else if hi = .CFR_CH_ADDR_HI ∧ i = 12 ∧ w.port ≠ 14 then s
  else (s.plainWrite lo i vl).plainWrite hi i vh

/-- A 64-bit register is writable. -/
def pairWritable (lo hi : Reg) : Bool := decide (lo.row.rw ≠ 0 ∨ hi.row.rw ≠ 0)

/-- A write of a LO half (R34): held for the initiator. -/
def State.holdLo (s : State) (w : Initiator) (lo : Reg) (i : Nat) (v : W32) : State :=
  s.onSys fun y => { y with heldLo := dropHeld y.heldLo w lo i ++ [⟨w, lo, i, v⟩] }

/-- A write of a HI half (R34): both halves together with a held LO half, else the HI half alone. -/
def State.writeHi (s : State) (w : Initiator) (lo hi : Reg) (i : Nat) (v : W32) (ofs : Nat) : State :=
  match heldFor s.sys.heldLo w lo i with
  | some vl => (s.onSys fun y => { y with heldLo := dropHeld y.heldLo w lo i }).writePair w lo hi i vl v ofs
  | none => s.writePair w lo hi i (s.reg lo i) v ofs

/-- A 32-bit write at an offset of a window; where no register is defined it is ignored (R16). -/
def State.writeWord (s : State) (w : Initiator) (win off : Nat) (v : W32) (ofs : Nat) (busy : Bool) : State :=
  match regAt win off with
  | none => s
  | some (r, i) =>
    match Reg.hiOf r, Reg.loOf r with
    | some hi, _ => if pairWritable r hi then s.holdLo w r i v else s
    | none, some lo => if pairWritable lo r then s.writeHi w lo r i v ofs else s
    | none, none => s.writeReg w r i v ofs busy

/-- A 64-bit write: both halves of a 64-bit register together, else two 32-bit writes, the lower first. -/
def State.writeDouble (s : State) (w : Initiator) (win off : Nat) (vl vh : W32) (ofs : Nat) (busy : Bool) : State :=
  let two : State := (s.writeWord w win off vl ofs busy).writeWord w win (off + 4) vh ofs busy
  match regAt win off with
  | some (r, i) =>
    match Reg.hiOf r with
    | some hi => if pairWritable r hi then s.writePair w r hi i vl vh ofs else s
    | none => two
  | none => two

/-! ### The access -/

/-- An access that passed the map, the firewall and the width rule is served. -/
def State.serveAccess (s : State) (x : Access) (r : Region) : State :=
  match r, x.xfer with
  | .window win, .read n =>
    let off := (x.addr - 0x40000000) % 0x100000
    if n = 8 then s.readDouble x.who win off else s.readWord x.who win off
  | .window win, .write b =>
    let off := (x.addr - 0x40000000) % 0x100000
    let lo := BitVec.ofNat 32 (leNat (b.take 4))
    let t := if b.length = 8 then s.writeDouble x.who win off lo (BitVec.ofNat 32 (leNat (b.drop 4))) x.ofs x.busy
      else s.writeWord x.who win off lo x.ofs x.busy
    { t with resp := .done }
  | _, .read n => s.memoryRead x.who r x.addr n x.ecc
  | _, .write b => s.memoryWrite x.addr b

/-- The length of a transfer, and whether it writes. -/
def xferLen : Transfer → Nat
  | .read n => n
  | .write b => b.length
def xferWrites : Transfer → Bool
  | .read _ => false
  | .write _ => true

/-- An absent unit reads 0 and ignores writes, or answers 0001h while ABSENT_TRAP = 1 (R5, R6). -/
def State.absentAnswer (s : State) (x : Access) : State :=
  if s.flag F.SYS_CTL_ABSENT_TRAP then s.busError x.who x.addr (xferWrites x.xfer) 1
  else { s with resp := match x.xfer with | .read n => .data (List.replicate n 0) | .write _ => .done }

/-- The data that passes in 64-byte units, at the initiator's and the target's port (R430). -/
def State.countData (s : State) (x : Access) (target : Nat) : State :=
  let u := (xferLen x.xfer + 63) / 64
  if xferWrites x.xfer then
    s.onScb fun y => { y with writes := (y.writes.upd x.who.port fun n => n + u).upd target fun n => n + u }
  else s.onScb fun y => { y with reads := (y.reads.upd x.who.port fun n => n + u).upd target fun n => n + u }

/-- A request is granted at both ports (R14, R427). -/
def State.granted (s : State) (w : Initiator) (target : Nat) : State :=
  ((s.count 0 w.port).count 0 target).when (Initiator.timed w) fun t => t.count 0 (56 + target)

/-- The island that an access goes to. -/
def regionIsland (r : Region) (a : Nat) : Nat :=
  match r with
  | .window win => windowIsland win
  | .sram => if within a 1 0x10800000 0x11400000 then 2 else 0
  | .lpddr => 1
  | _ => 0

/-- An access to a peripheral window, granted at both ports, and judged in this order: failed island (R38), absent unit (R5, R6), firewall,
width (R15); `f` serves it. -/
def State.viaWindow (s : State) (x : Access) (win : Nat) (f : State → State) : State :=
  let n := xferLen x.xfer
  let wr := xferWrites x.xfer
  let s := s.granted x.who 27
  if !s.up (windowIsland win) then s.busError x.who x.addr wr 6
  else if s.absentAt (.window win) x.addr n then s.absentAnswer x
  else if s.firewall x.who (.window win) x.addr n wr then s.busError x.who x.addr wr 5
  else if widthOk x.addr n then f (s.countData x 27)
  else s.busError x.who x.addr wr 3

/-- An access to memory, judged in the same order; ECC (0004h) comes last. -/
def State.viaMemory (s : State) (x : Access) (r : Region) : State :=
  let n := xferLen x.xfer
  let wr := xferWrites x.xfer
  let s := s.granted x.who (Region.port r x.addr)
  if !s.up (regionIsland r x.addr) then s.busError x.who x.addr wr 6
  else if s.absentAt r x.addr n then s.absentAnswer x
  else if s.firewall x.who r x.addr n wr then s.busError x.who x.addr wr 5
  else
    let t := s.serveAccess x r
    match t.resp with
    | .busError _ => t
    | _ => t.countData x (Region.port r x.addr)

/-- The initiator sends requests: the device is not held in reset, and its island has not failed. -/
def State.sends (s : State) (who : Initiator) : Bool := s.sys.booted && s.up (Initiator.island who)

/-- An access of the fabric; the address map is judged first. -/
def State.access (s : State) (x : Access) : State :=
  if !s.sends x.who then s
  else match s.regionOf x.addr (xferLen x.xfer) with
    | none => s.busError x.who x.addr (xferWrites x.xfer) 2
    | some (.window win) => s.viaWindow x win fun t => t.serveAccess x (.window win)
    | some r => s.viaMemory x r

/-- FABRIC_ACCESS (R16). -/
def execFabricAccess (x : Access) (s : State) : Host.Outcome State Fault Refusal := .next (s.access x)

/-- A 32-bit access at an offset of a window. -/
def wordAccess (w : Initiator) (win off ofs : Nat) (t : Transfer) : Access :=
  { who := w, addr := 0x40000000 + win * 0x100000 + off, xfer := t, ofs := ofs, ecc := .clean, busy := false }

/-- The offset of a register of an array in its window. -/
def Reg.at (r : Reg) (i : Nat) : Nat :=
  match r.row.dims with
  | [] => r.row.off
  | [d] => r.row.off + i * d.1
  | d :: e :: _ => r.row.off + i / e.2 * d.1 + i % e.2 * e.1

/-- A register write that is a row of its own: an access of an initiator to a register, whose effect is `f` (log entry 21). -/
def State.rowWrite (s : State) (who : Initiator) (win off : Nat) (f : State → State) (n : Nat := 4) : State :=
  if !s.sends who then s
  else s.viaWindow (wordAccess who win off 0 (.write (List.replicate n 0))) win
    fun t => { f t with resp := .done }

/-- A read that is a row of its own, of `n` bytes. -/
def State.rowRead (s : State) (who : Initiator) (win off n : Nat) (f : State → State) : State :=
  if !s.sends who then s else s.viaWindow (wordAccess who win off 0 (.read n)) win f

/-- SPLIT_READ_LO (R33). -/
def execSplitReadLo (who : Initiator) (win off : Nat) (s : State) : Host.Outcome State Fault Refusal :=
  .next (s.access (wordAccess who win off 0 (.read 4)))

/-- SPLIT_READ_HI (R33). -/
def execSplitReadHi (who : Initiator) (win off : Nat) (s : State) : Host.Outcome State Fault Refusal :=
  .next (s.access (wordAccess who win off 0 (.read 4)))

/-- SPLIT_WRITE_LO (R34). -/
def execSplitWriteLo (who : Initiator) (win off : Nat) (v : W32) (s : State) : Host.Outcome State Fault Refusal :=
  .next (s.access (wordAccess who win off 0 (.write (leBytes 4 v.toNat))))

/-- SPLIT_WRITE_HI (R34): in the stroke at the instant `ofs`. -/
def execSplitWriteHi (who : Initiator) (win off ofs : Nat) (v : W32) (s : State) : Host.Outcome State Fault Refusal :=
  .next (s.access (wordAccess who win off ofs (.write (leBytes 4 v.toNat))))

/-- REGISTER_WRITE (R10). -/
def execRegisterWrite (who : Initiator) (win off : Nat) (v : W32) (s : State) : Host.Outcome State Fault Refusal :=
  .next (s.access (wordAccess who win off 0 (.write (leBytes 4 v.toNat))))

end Sys2Proof.Machine
end

