-- ==== Sys2Proof/Machine/Balls.lean ====
section
/-! DEFINITION. What the balls of the package show: the level of each digital output ball as the state gives it (R122, R226, R293, R305,
R309, R346, R361, R376, R381, R400, R445), and where each ball of the regions of R456 to R458 lies. -/

namespace Sys2Proof.Machine

open Sys2Proof

/-- A level of a ball: released, held by a keeper at its last level, driven low or high, or driven with a waveform whose instants the
state does not hold (a clock, frame bits, tones), biased through the resistors of a sense input (R116), or held at mid-scale (R376). -/
inductive Level where
  | hiZ
  | kept
  | low
  | high
  | wave
  | bias
  | mid
  deriving DecidableEq, Repr

/-- The output balls of R460 and R461. -/
inductive Ball where
  | pwmh (p : Nat)
  | pwml (p : Nat)
  | modClk (g : Nat)
  | cs (p : Nat)
  | ssupEn (j : Nat)
  | soutA (k : Nat)
  | soutB (k : Nat)
  | sbrkA (k : Nat)
  | sbrkB (k : Nat)
  | peg (n : Nat)
  | pdo (k : Nat)
  | tpo (t : Nat)
  | canTx (n : Nat)
  | fdlTxen
  | fdlTx (l : Nat)
  | coreEn
  deriving DecidableEq, Repr

/-- Drive a level. -/
def drive (b : Bool) : Level := if b then .high else .low

/-- A device reset is asserted (R442). -/
def State.resetHeld (s : State) : Bool := !s.pwr.sources.isEmpty

/-- A gated ball is not driven: in reset, with island 4 failed, or with the gate closed, where a keeper may hold it (R293, R305, R445). -/
def State.gatedOff (s : State) : Option Level :=
  if s.resetHeld || !s.up 4 then some .hiZ else if s.holds then none else some (if s.peg.keepers then .kept else .hiZ)

/-- A ball that follows its command only while the gate is open. -/
def State.gated (s : State) (l : Level) : Level := (s.gatedOff).getD l

/-- A phase's balls are low whatever its pulse: in no bay, in a faulted bay, dropped or shed (R122). -/
def State.phaseLow (s : State) (p : Nat) : Bool :=
  match s.phaseBay p with
  | none => true
  | some b => s.flag F.FRG_BAY_STAT_FAULT b || s.flag F.FRG_PH_STAT_DROP p || (s.phase p).shed

/-- A supply stands in the 300 µs of its pulse (R268). -/
def State.supplyLow (s : State) (j : Nat) : Bool :=
  match s.mrt.pulse with | some (k, t) => decide (k = j ∧ s.now < t + s.strokesIn 30000) | none => false

/-- The level of an output ball. -/
def State.level (s : State) : Ball → Level
  | .pwmh p => if s.phaseCount ≤ p then .hiZ else s.gated (if s.phaseLow p then .low else drive (s.phase p).high)
  | .pwml p => if s.phaseCount ≤ p then .hiZ else s.gated (if s.phaseLow p then .low else drive (s.phase p).low)
  | .modClk _ => s.gated .wave
  | .cs p => if s.phaseCount ≤ p then .hiZ else s.gated .bias
  | .ssupEn j => s.gated (drive (!s.supplyLow j))
  | .soutA k => s.gated (drive (s.flag F.MRT_OUT_STAT_SW_A k))
  | .soutB k => s.gated (drive (s.flag F.MRT_OUT_STAT_SW_B k))
  | .sbrkA k => s.gated (drive (s.flag F.MRT_BRK_STAT_SW_A k))
  | .sbrkB k => s.gated (drive (s.flag F.MRT_BRK_STAT_SW_B k))
  | .peg n => if s.peg.driven && !s.resetHeld && decide (n = if s.unitB then 1 else 0) then .low else .hiZ
  | .pdo k =>
    let may := s.holds || decide (s.fld F.PEG_STAT_STATE = 4 ∨ s.fld F.PEG_STAT_STATE ≤ 1)
    if may && !s.resetHeld && s.up 0 && bitOf (s.fld F.PEG_PDO_EFF) k then .low else .hiZ
  | .tpo t => if (s.resetHeld && !s.pwr.spared) || !s.up 0 || !s.up 5 then .low else drive (s.asy.tpos.get t).high
  | .canTx n => if s.resetHeld || !s.up 0 || s.canListens n || (s.canCtl n).attempt = none then .high else .wave
  | .fdlTxen => if s.hasFeeder = false then .hiZ else if s.resetHeld || !s.up 0 then .high else drive (!(s.holds && s.flag F.FDL_STAT_TX))
  | .fdlTx l =>
    if s.hasFeeder = false || s.resetHeld || !s.up 0 then .hiZ
    else if s.holds && s.flag F.FDL_STAT_TX && (s.flag F.FDL_CFG_COUPLING || decide (s.fld F.FDL_CFG_PHASE = l)) then .wave else .mid
  | .coreEn => drive (!s.emb.asleep)

/-! ### Where the balls lie (R456 to R458). A place is a row, 1 to 49, and a column. -/

/-- The Forge region (R457): PWMH, PWML, GDF_N and CS of a phase, and OVS of a bay. -/
def pwmhPlace (p : Nat) : Nat × Nat := (if p < 48 then 1 else 9, p % 48 + 1)
def pwmlPlace (p : Nat) : Nat × Nat := (if p < 48 then 2 else 8, p % 48 + 1)
def gdfPlace (p : Nat) : Nat × Nat := (if p < 48 then 3 else 7, p % 48 + 1)
def csPlace (p : Nat) : Nat × Nat := (if p < 48 then 4 else 6, p % 48 + 1)
def ovsPlace (b : Nat) : Nat × Nat := (5, 2 * b + 1)

/-- A position of the left strip, of the right strip and of the analog region (R456). -/
def leftPlace (n : Nat) : Nat × Nat := (11 + n / 8, 1 + n % 8)
def rightPlace (n : Nat) : Nat × Nat := (11 + n / 8, 42 + n % 8)
def analogPlace (n : Nat) : Nat × Nat := (39 + n / 25, 2 * (n % 25) + 1)

/-- Positions in the orders of R458. -/
def ainPosition (n m : Nat) : Nat := 8 * n + m
def soutAPosition (k : Nat) : Nat := 80 + 3 * k
def soutBPosition (k : Nat) : Nat := 81 + 3 * k
def sorbPosition (k : Nat) : Nat := 82 + 3 * k
def sbrkAPosition (k : Nat) : Nat := 128 + 3 * k
def sinAPosition (i : Nat) : Nat := 2 * i
def sinBPosition (i : Nat) : Nat := 2 * i + 1
def ssupEnPosition (j : Nat) : Nat := 64 + j
def canTxPosition (n : Nat) : Nat := 139 + 2 * n
def pegPosition (n : Nat) : Nat := 156 + n
def pdoPosition (k : Nat) : Nat := 159 + k
def tpoPosition (t : Nat) : Nat := 175 + t

end Sys2Proof.Machine
end

