-- ==== Sys2Proof/Machine/RegisterRows.lean ====
section
/-! DEFINITION. The commands that are register writes with a row of their own, and the reads of result registers and CAN objects: each is
an access of an initiator on the fabric, judged as every access is (R5, R6, R15, R38), whose effect is the operation of its block. -/

namespace Sys2Proof.Machine

open Sys2Proof

/-- STAGE (R58). -/
def execStage (who : Initiator) (s : State) : Host.Outcome State Fault Refusal :=
  .next (s.rowWrite who (Reg.row .JNY_CMD).win (Reg.at .JNY_CMD 0) (fun t => t.stage))

/-- CANCEL (R65). -/
def execCancel (who : Initiator) (s : State) : Host.Outcome State Fault Refusal :=
  .next (s.rowWrite who (Reg.row .JNY_CMD).win (Reg.at .JNY_CMD 0) (fun t => t.cancel))

/-- RAISE_FLOOR (R46). -/
def execRaiseFloor (who : Initiator) (s : State) : Host.Outcome State Fault Refusal :=
  .next (s.rowWrite who (Reg.row .JNY_CMD).win (Reg.at .JNY_CMD 0) (fun t => t.raiseFloor))

/-- ACQ_SOFT_TRIG (R76). -/
def execAcqSoftTrig (who : Initiator) (n : Nat) (at_ : Nat) (s : State) : Host.Outcome State Fault Refusal :=
  .next (s.rowWrite who (Reg.row .ACQ_SOFT_TRIG).win (Reg.at .ACQ_SOFT_TRIG 0) (fun t => t.softTrig n at_))

/-- ACQ_SEQ_RESTART (R85). -/
def execAcqSeqRestart (who : Initiator) (n : Nat) (s : State) : Host.Outcome State Fault Refusal :=
  .next (s.rowWrite who (Reg.row .ACQ_SEQ_RESTART).win (Reg.at .ACQ_SEQ_RESTART 0) (fun t => t.seqRestart n))

/-- LP_WRITE (R73). -/
def execLpWrite (who : Initiator) (n : Nat) (lp : Bool) (s : State) : Host.Outcome State Fault Refusal :=
  .next (s.rowWrite who (Reg.row .ACQ_CNV_CFG).win (Reg.at .ACQ_CNV_CFG n) (fun t => t.lpWrite n lp))

/-- ACQ_CHECK_FAULT_CLEAR (R88). -/
def execAcqCheckFaultClear (who : Initiator) (k : Nat) (s : State) : Host.Outcome State Fault Refusal :=
  .next (s.rowWrite who (Reg.row .ACQ_CHK_STAT).win (Reg.at .ACQ_CHK_STAT k) (fun t => t.checkClear k))

/-- RELEASE (R120). -/
def execRelease (who : Initiator) (b : Nat) (s : State) : Host.Outcome State Fault Refusal :=
  .next (s.rowWrite who (Reg.row .FRG_BAY_CTL).win (Reg.at .FRG_BAY_CTL b) (fun t => t.releaseBay b))

/-- DROP_CLEAR (R118). -/
def execDropClear (who : Initiator) (p : Nat) (s : State) : Host.Outcome State Fault Refusal :=
  .next (s.rowWrite who (Reg.row .FRG_PH_STAT).win (Reg.at .FRG_PH_STAT p) (fun t => t.clearDrop p))

/-- TRIP_CLEAR (R150). -/
def execTripClear (who : Initiator) (e : Nat) (m : Nat) (s : State) : Host.Outcome State Fault Refusal :=
  .next (s.rowWrite who (Reg.row .CLF_FE_STAT).win (Reg.at .CLF_FE_STAT (e * 4 + m)) (fun t => t.tripClear e m))

/-- CALFIN_RESTART (R156). -/
def execCalfinRestart (who : Initiator) (e : Nat) (s : State) : Host.Outcome State Fault Refusal :=
  .next (s.rowWrite who (Reg.row .CLF_ENG_CTL).win (Reg.at .CLF_ENG_CTL e) (fun t => t.engRestart e))

/-- HALT (R156). -/
def execHalt (who : Initiator) (e : Nat) (s : State) : Host.Outcome State Fault Refusal :=
  .next (s.rowWrite who (Reg.row .CLF_ENG_CTL).win (Reg.at .CLF_ENG_CTL e) (fun t => t.engHalt e))

/-- DEMAND_WRITE (R161). -/
def execDemandWrite (who : Initiator) (o : Nat) (lo : W32) (hi : W32) (s : State) : Host.Outcome State Fault Refusal :=
  .next (s.rowWrite who (Reg.row .TRS_OUT_DEM_LO).win (Reg.at .TRS_OUT_DEM_LO o) (fun t => t.takeDemand o lo hi) 8)

/-- TRS_ROLLBACK (R175). -/
def execTrsRollback (who : Initiator) (s : State) : Host.Outcome State Fault Refusal :=
  .next (s.rowWrite who (Reg.row .TRS_CTL).win (Reg.at .TRS_CTL 0) (fun t => t.invalidate 10 0))

/-- TRS_RESTART (R180). -/
def execTrsRestart (who : Initiator) (s : State) : Host.Outcome State Fault Refusal :=
  .next (s.rowWrite who (Reg.row .TRS_CTL).win (Reg.at .TRS_CTL 0) (fun t => t.trussRestart))

/-- GRID_FW_WRITE (R175). -/
def execGridFwWrite (who : Initiator) (limit : W32) (s : State) : Host.Outcome State Fault Refusal :=
  .next (s.rowWrite who (Reg.row .TRS_GRID_FW).win (Reg.at .TRS_GRID_FW 0) (fun t => t.gridFw limit))

/-- XP_FAULT_CLEAR (R173). -/
def execXpFaultClear (who : Initiator) (x : Nat) (s : State) : Host.Outcome State Fault Refusal :=
  .next (s.rowWrite who (Reg.row .TRS_XP_STAT).win (Reg.at .TRS_XP_STAT x) (fun t => t.clearXp x))

/-- BELLOWS_RESTART (R200). -/
def execBellowsRestart (who : Initiator) (s : State) : Host.Outcome State Fault Refusal :=
  .next (s.rowWrite who (Reg.row .BLW_CTL).win (Reg.at .BLW_CTL 0) (fun t => t.bellowsRestart))

/-- RWS_WRITE (R208). -/
def execRwsWrite (who : Initiator) (ofs : Nat) (v : W32) (s : State) : Host.Outcome State Fault Refusal :=
  .next (s.rowWrite who 11 ofs (fun t => t.rwsWrite ofs v))

/-- ASY_MBX_GO (R210). -/
def execAsyMbxGo (who : Initiator) (s : State) : Host.Outcome State Fault Refusal :=
  .next (s.rowWrite who (Reg.row .ASY_MBX_CMD).win (Reg.at .ASY_MBX_CMD 0) (fun t => t.mailGo))

/-- BRAKE_TEST (R277). -/
def execBrakeTest (who : Initiator) (k : Nat) (s : State) : Host.Outcome State Fault Refusal :=
  .next (s.rowWrite who (Reg.row .MRT_CMD).win (Reg.at .MRT_CMD 0) (fun t => t.when t.mrtRuns fun u => u.brakeTest k))

/-- PEG_ROLE_WRITE (R290). -/
def execPegRoleWrite (who : Initiator) (b : Bool) (s : State) : Host.Outcome State Fault Refusal :=
  .next (s.rowWrite who (Reg.row .PEG_ROLE).win (Reg.at .PEG_ROLE 0) (fun t => t.roleWrite b))

/-- KICK (R296). -/
def execKick (who : Initiator) (s : State) : Host.Outcome State Fault Refusal :=
  .next (s.rowWrite who (Reg.row .PEG_CMD).win (Reg.at .PEG_CMD 0) (fun t => t.onPeg fun p => { p with kick := 0 }))

/-- HANDOVER (R311). -/
def execHandover (who : Initiator) (s : State) : Host.Outcome State Fault Refusal :=
  .next (s.rowWrite who (Reg.row .PEG_CMD).win (Reg.at .PEG_CMD 0) (fun t => t.handover))

/-- PDO_WRITE (R309). -/
def execPdoWrite (who : Initiator) (word : Nat) (s : State) : Host.Outcome State Fault Refusal :=
  .next (s.rowWrite who (Reg.row .PEG_PDO).win (Reg.at .PEG_PDO 0) (fun t => t.pdoWrite word))

/-- HOST_POINT_WRITE (R321). -/
def execHostPointWrite (who : Initiator) (ofs : Nat) (lo : W32) (hi : W32) (s : State) : Host.Outcome State Fault Refusal :=
  .next (s.rowWrite who (Reg.row .PNT_HOST_WR_LO).win (Reg.at .PNT_HOST_WR_LO 0) (fun t => t.hostPoint ofs lo hi) 8)

/-- RING_CONS_WRITE (R325). -/
def execRingConsWrite (who : Initiator) (ring : Nat) (index : Nat) (s : State) : Host.Outcome State Fault Refusal :=
  .next (s.rowWrite who (Reg.row .PNT_RING_CONS).win (Reg.at .PNT_RING_CONS ring) (fun t => t.ringCons_ ring index))

/-- RING_PROD_WRITE (R325). -/
def execRingProdWrite (who : Initiator) (ring : Nat) (index : Nat) (s : State) : Host.Outcome State Fault Refusal :=
  .next (s.rowWrite who (Reg.row .PNT_RING_PROD).win (Reg.at .PNT_RING_PROD ring) (fun t => t.ringProd_ ring index))

/-- CAN_TX_CANCEL (R356). -/
def execCanTxCancel (who : Initiator) (n : Nat) (index : Nat) (ofs : Nat) (s : State) : Host.Outcome State Fault Refusal :=
  .next (s.rowWrite who (Reg.row .CAN_TX_CANCEL).win (Reg.at .CAN_TX_CANCEL n) (fun t => t.canCancel n index ofs))

/-- CAN_DISABLE (R346). -/
def execCanDisable (who : Initiator) (n : Nat) (on : Bool) (receiving : Bool) (s : State) : Host.Outcome State Fault Refusal :=
  .next (s.rowWrite who (Reg.row .CAN_CTL).win (Reg.at .CAN_CTL n) (fun t => t.canDisable n on receiving))

/-- RECOVER (R357). -/
def execRecover (who : Initiator) (n : Nat) (s : State) : Host.Outcome State Fault Refusal :=
  .next (s.rowWrite who (Reg.row .CAN_CTL).win (Reg.at .CAN_CTL n) (fun t => t.canRecover n))

/-- HIBERNATE (R400). -/
def execHibernate (who : Initiator) (s : State) : Host.Outcome State Fault Refusal :=
  .next (s.rowWrite who (Reg.row .EMB_CTL).win (Reg.at .EMB_CTL 0) (fun t => t.hibernate))

/-- ESTIMATOR_RESTART (R392). -/
def execEstimatorRestart (who : Initiator) (s : State) : Host.Outcome State Fault Refusal :=
  .next (s.rowWrite who (Reg.row .EMB_CTL).win (Reg.at .EMB_CTL 0) (fun t => t.estRestart))

/-- DEBUG_CLOSE (R425). -/
def execDebugClose (who : Initiator) (s : State) : Host.Outcome State Fault Refusal :=
  .next (s.rowWrite who (Reg.row .CFR_DBG_CTL).win (Reg.at .CFR_DBG_CTL 0) (fun t => t.endDebug))

/-- CFR_CH_GO (R418). -/
def execCfrChGo (who : Initiator) (c : Nat) (s : State) : Host.Outcome State Fault Refusal :=
  .next (s.rowWrite who (Reg.row .CFR_CH_CMD).win (Reg.at .CFR_CH_CMD c) (fun t => t.when (decide (c ≠ 12 ∨ who.port = 14)) fun u => u.channelGo c))

/-- CLEAR (R431). -/
def execClear (who : Initiator) (s : State) : Host.Outcome State Fault Refusal :=
  .next (s.rowWrite who (Reg.row .SCB_CTL).win (Reg.at .SCB_CTL 0) (fun t => t.scbClear))

/-- SCB_CFG_WRITE (R431). -/
def execScbCfgWrite (who : Initiator) (v : W32) (s : State) : Host.Outcome State Fault Refusal :=
  .next (s.rowWrite who (Reg.row .SCB_CFG).win (Reg.at .SCB_CFG 0) (fun t => t.scbCfg v))

/-- TAG_CFG_WRITE (R432). -/
def execTagCfgWrite (who : Initiator) (v : W32) (s : State) : Host.Outcome State Fault Refusal :=
  .next (s.rowWrite who (Reg.row .SCB_TAG_CFG).win (Reg.at .SCB_TAG_CFG 0) (fun t => t.tagCfg v))

/-- HOST_DONE (R439). -/
def execHostDone (who : Initiator) (s : State) : Host.Outcome State Fault Refusal :=
  .next (s.rowWrite who (Reg.row .PWR_CTL).win (Reg.at .PWR_CTL 0) (fun t => t.hostSaved))

/-- SW_RESET (R442). -/
def execSwReset (who : Initiator) (s : State) : Host.Outcome State Fault Refusal :=
  .next (s.rowWrite who (Reg.row .PWR_CTL).win (Reg.at .PWR_CTL 0) (fun t => t.softReset))

/-- RESULT_READ (R153): a read of a result register, whole or by halves. -/
def execResultRead (who : Initiator) (e r : Nat) (half : Half) (s : State) : Host.Outcome State Fault Refusal :=
  let off := Reg.at .CLF_RES_LO (e * 16 + r)
  .next (match half with
    | .whole => s.rowRead who 4 off 8 fun t => t.resultRead who e r .whole
    | .lo => s.rowRead who 4 off 4 fun t => t.resultRead who e r .lo
    | .hi => s.rowRead who 4 (off + 4) 4 fun t => t.resultRead who e r .hi)

/-- OBJECT_READ (R349): a read of `len` bytes of a CAN object. -/
def execObjectRead (who : Initiator) (n obj ofs len : Nat) (s : State) : Host.Outcome State Fault Refusal :=
  .next (s.rowRead who 9 (0x10000 + 0x8000 * n + 0x80 * obj + ofs) len fun t => t.objectRead who n obj ofs len)

end Sys2Proof.Machine
end

