-- ==== Sys2Proof/WellFormed.lean ====
section
/-! DEFINITION. Which commands are well formed: every operand that numbers a unit of the device lies in the range the
spec gives that unit. -/

namespace Sys2Proof

/-- The operand ranges of each command. -/
def Instr.wf : Instr → Bool
  | .strokeMarker _ => true
  | .overrun w => decide (w.ok = true)
  | .overrunLimit w => decide (w.ok = true)
  | .fabricAccess x => decide (x.ok = true)
  | .splitReadLo who win off => decide (who.ok = true ∧ win < 18 ∧ off < 1048576 ∧ off % 8 = 0)
  | .splitReadHi who win off => decide (who.ok = true ∧ win < 18 ∧ off < 1048576 ∧ off % 8 = 4)
  | .splitWriteLo who win off _ => decide (who.ok = true ∧ win < 18 ∧ off < 1048576 ∧ off % 8 = 0)
  | .splitWriteHi who win off ofs _ => decide (who.ok = true ∧ win < 18 ∧ off < 1048576 ∧ off % 8 = 4 ∧ ofs < 65536)
  | .registerWrite who win off _ => decide (who.ok = true ∧ win < 18 ∧ off < 1048576 ∧ off % 4 = 0)
  | .regionWarn island peer _ _ => decide (island < 9 ∧ peer < 9 ∧ island ≠ peer)
  | .regionMismatch a b _ => decide (a < 9 ∧ b < 9 ∧ a ≠ b)
  | .stage who => decide (who.ok = true)
  | .cancel who => decide (who.ok = true)
  | .raiseFloor who => decide (who.ok = true)
  | .imageCheckDone => true
  | .resourceClaim => true
  | .joineryCommit _ => true
  | .busyTimeout => true
  | .acqTrigger n _ => decide (n < 128)
  | .acqSoftTrig who n _ => decide (who.ok = true ∧ n < 128)
  | .runStart n _ => decide (n < 16)
  | .slotRestart n _ => decide (n < 16)
  | .slotResult n _ _ => decide (n < 16)
  | .acqSeqRestart who n => decide (who.ok = true ∧ n < 128)
  | .lpWrite who n _ => decide (who.ok = true ∧ n < 16)
  | .pairCheck k _ a b => decide (k < 8 ∧ a.length = 4 ∧ b.length = 4)
  | .acqCheckFault k => decide (k < 8)
  | .acqCheckFaultClear who k => decide (who.ok = true ∧ k < 8)
  | .decimationOutput m _ => decide (m < 64)
  | .modStuck m _ => decide (m < 64)
  | .modStuckEnd m => decide (m < 64)
  | .pwmPeriod p _ => decide (p < 96)
  | .onEdge p => decide (p < 96)
  | .valley p _ => decide (p < 96)
  | .peakTrip p _ _ => decide (p < 96)
  | .maxOnTime p _ => decide (p < 96)
  | .lowSideOn p => decide (p < 96)
  | .baySaturated b => decide (b < 24)
  | .trimLimit p => decide (p < 96)
  | .shedStepEnd b => decide (b < 24)
  | .shedHoldEnd b => decide (b < 24)
  | .overshoot b _ => decide (b < 24)
  | .overshootEnd b _ => decide (b < 24)
  | .overshootLimit b => decide (b < 24)
  | .fastLimit m _ => decide (m < 64)
  | .driverFault p _ => decide (p < 96)
  | .senseLoss p _ => decide (p < 96)
  | .release who b => decide (who.ok = true ∧ b < 24)
  | .dropClear who p => decide (who.ok = true ∧ p < 96)
  | .macz e _ _ ka kb => decide (e < 48 ∧ ka < 32 ∧ kb < 32)
  | .mac e _ _ ka kb => decide (e < 48 ∧ ka < 32 ∧ kb < 32)
  | .msu e _ _ ka kb => decide (e < 48 ∧ ka < 32 ∧ kb < 32)
  | .mova e _ _ ka => decide (e < 48 ∧ ka < 32)
  | .ash e _ _ imm => decide (e < 48 ∧ -16 ≤ imm ∧ imm < 16)
  | .aadd e _ _ => decide (e < 48)
  | .add e _ kd k1 k2 => decide (e < 48 ∧ kd < 32 ∧ k1 < 32 ∧ k2 < 32)
  | .sub e _ kd k1 k2 => decide (e < 48 ∧ kd < 32 ∧ k1 < 32 ∧ k2 < 32)
  | .min e _ kd k1 k2 => decide (e < 48 ∧ kd < 32 ∧ k1 < 32 ∧ k2 < 32)
  | .max e _ kd k1 k2 => decide (e < 48 ∧ kd < 32 ∧ k1 < 32 ∧ k2 < 32)
  | .abs e _ kd k1 => decide (e < 48 ∧ kd < 32 ∧ k1 < 32)
  | .neg e _ kd k1 => decide (e < 48 ∧ kd < 32 ∧ k1 < 32)
  | .clmp e _ kd k1 k2 => decide (e < 48 ∧ kd < 32 ∧ k1 < 32 ∧ k2 < 32)
  | .seln e _ kd k1 k2 => decide (e < 48 ∧ kd < 32 ∧ k1 < 32 ∧ k2 < 32)
  | .scl e _ kd n => decide (e < 48 ∧ kd < 32 ∧ -16 ≤ n ∧ n < 16)
  | .nrm e _ stg h => decide (e < 48 ∧ stg < 8 ∧ h < 8)
  | .sete e _ stg v => decide (e < 48 ∧ stg < 8 ∧ -128 ≤ v ∧ v < 128)
  | .ldi e _ kd imm => decide (e < 48 ∧ kd < 32 ∧ -512 ≤ imm ∧ imm < 512)
  | .addi e _ kd imm => decide (e < 48 ∧ kd < 32 ∧ -512 ≤ imm ∧ imm < 512)
  | .movk e _ kd k1 => decide (e < 48 ∧ kd < 32 ∧ k1 < 32)
  | .fec e _ k1 m => decide (e < 48 ∧ k1 < 32 ∧ m < 4)
  | .beqz e _ k1 ofs => decide (e < 48 ∧ k1 < 32 ∧ -512 ≤ ofs ∧ ofs < 512)
  | .bnez e _ k1 ofs => decide (e < 48 ∧ k1 < 32 ∧ -512 ≤ ofs ∧ ofs < 512)
  | .bltz e _ k1 ofs => decide (e < 48 ∧ k1 < 32 ∧ -512 ≤ ofs ∧ ofs < 512)
  | .bgez e _ k1 ofs => decide (e < 48 ∧ k1 < 32 ∧ -512 ≤ ofs ∧ ofs < 512)
  | .bqs e _ ofs => decide (e < 48 ∧ -512 ≤ ofs ∧ ofs < 512)
  | .brun e _ ofs => decide (e < 48 ∧ -512 ≤ ofs ∧ ofs < 512)
  | .jmp e _ target => decide (e < 48 ∧ target < 32768)
  | .wait e _ bit => decide (e < 48 ∧ bit < 256)
  | .pub e _ k1 r => decide (e < 48 ∧ k1 < 32 ∧ r < 16)
  | .endInst e _ cycles => decide (e < 48 ∧ cycles < 4194304)
  | .ld e _ kd addr => decide (e < 48 ∧ kd < 32 ∧ addr < 32768)
  | .st e _ kd addr => decide (e < 48 ∧ kd < 32 ∧ addr < 32768)
  | .ldx e _ kd kb ofs => decide (e < 48 ∧ kd < 32 ∧ kb < 32 ∧ -512 ≤ ofs ∧ ofs < 512)
  | .stx e _ kd kb ofs => decide (e < 48 ∧ kd < 32 ∧ kb < 32 ∧ -512 ≤ ofs ∧ ofs < 512)
  | .ldc e _ kd addr => decide (e < 48 ∧ kd < 32 ∧ addr < 4096)
  | .ldq e _ kd addr => decide (e < 48 ∧ kd < 32 ∧ addr < 32768)
  | .ldw e _ kd addr => decide (e < 48 ∧ kd < 32 ∧ addr < 32768)
  | .stw e _ kd addr => decide (e < 48 ∧ kd < 32 ∧ addr < 32768)
  | .ldp e _ kd kb => decide (e < 48 ∧ kd < 32 ∧ kb < 32)
  | .followTrip e m => decide (e < 48 ∧ m < 4)
  | .calfinRestart who e => decide (who.ok = true ∧ e < 48)
  | .halt who e => decide (who.ok = true ∧ e < 48)
  | .tripClear who e m => decide (who.ok = true ∧ e < 48 ∧ m < 4)
  | .resultRead who e r _ => decide (who.ok = true ∧ e < 48 ∧ r < 16)
  | .demandWrite who o _ _ => decide (who.ok = true ∧ o < 32)
  | .entryRebuilt => true
  | .trsRollback who => decide (who.ok = true)
  | .trsRestart who => decide (who.ok = true)
  | .gridFwWrite who _ => decide (who.ok = true)
  | .budgetInvalid _ => true
  | .prechargeTimeout b => decide (b < 288)
  | .contactorFeedback x => decide (x < 768)
  | .failClose x => decide (x < 768)
  | .welded x => decide (x < 768)
  | .xpFaultClear who x => decide (who.ok = true ∧ x < 768)
  | .bayRelease o => decide (o < 32)
  | .exchangeRecord bytes => decide (bytes.length = 128)
  | .peerFallback => true
  | .fallbackEnd => true
  | .cableSample c => decide (c < 32)
  | .sensorRecovered c => decide (c < 32)
  | .fastSamplingEnd c => decide (c < 32)
  | .heatBalance c => decide (c < 32)
  | .coolingUpdate => true
  | .bellowsRestart who => decide (who.ok = true)
  | .dieSample t => decide (t.length = 16)
  | .dieCriticalEnd => true
  | .throttleUp => true
  | .throttleDown => true
  | .overtempTrip => true
  | .assaySample x => decide (x.ok = true)
  | .assayCheckFaultEnd => true
  | .dcPlausibility n => decide (n < 32)
  | .meterFaultEnd n => decide (n < 32)
  | .energySave => true
  | .drift => true
  | .testPulseEnd t => decide (t < 4)
  | .pendingPulseStart t => decide (t < 4)
  | .rwsWrite who ofs _ => decide (who.ok = true ∧ ofs < 65536)
  | .sealedChange => true
  | .pqConfig => true
  | .nonlegalStage => true
  | .txnStart => true
  | .txnStop => true
  | .creditAdd => true
  | .tariffSchedule => true
  | .tariffCancel => true
  | .intervalSet => true
  | .wallSet => true
  | .config => true
  | .sealBreak _ => true
  | .sealClose => true
  | .legalStage => true
  | .hallmarkSigned => true
  | .tariffSwitch => true
  | .intervalClose => true
  | .assayStart => true
  | .assayRestart => true
  | .disconnectOpen o => decide (o < 32)
  | .discWaitExpiry o => decide (o < 32)
  | .disconnectFeedbackTimeout o => decide (o < 32)
  | .disconnectDropout o => decide (o < 32)
  | .safetyCycle _ p0 p1 => decide (p0.all (· < 32) ∧ p1.all (· < 32))
  | .inputChannelChange n _ _ => decide (n < 32)
  | .supplyPulse j _ _ _ => decide (j < 16)
  | .discrepancy n => decide (n < 32)
  | .readbackCheck k _ => decide (k < 20)
  | .energiseCheckStep k _ => decide (k < 20)
  | .darkTestStart k => decide (k < 20)
  | .darkTestEnd k _ => decide (k < 20)
  | .brakeTest who k => decide (who.ok = true ∧ k < 4)
  | .brakeTestStep k _ _ => decide (k < 4)
  | .testIntervalExpiry k => decide (k < 4)
  | .brakeApplyAfterExpiry k => decide (k < 4)
  | .tenonReceive c _ => decide (c < 32)
  | .tenonLost c => decide (c < 32)
  | .pegRoleWrite who _ => decide (who.ok = true)
  | .startClaim => true
  | .takeover => true
  | .contention _ => true
  | .pegFault _ => true
  | .keepaliveLoss => true
  | .wdogRelease => true
  | .kick who => decide (who.ok = true)
  | .handover who => decide (who.ok = true)
  | .bindHandshake _ _ _ _ _ _ _ _ => true
  | .bindRetry => true
  | .alignMarker _ _ => true
  | .lockAchieved => true
  | .catchupComplete => true
  | .mirrorFrame _ => true
  | .keeperTimeout => true
  | .revertRequest _ => true
  | .returned => true
  | .pdoWrite who word => decide (who.ok = true ∧ word < 65536)
  | .pdoEffective => true
  | .peerInReset _ => true
  | .partNetStuck => true
  | .linkDown port => decide (port < 10)
  | .ptpGmChange _ _ _ => true
  | .announce port _ _ => decide (port < 6)
  | .response port _ _ => decide (port < 6)
  | .responseTimeout slot => decide (slot < 256)
  | .px port ofs _ => decide (port < 6 ∧ ofs < 65536)
  | .leave port _ => decide (port < 6)
  | .partnerLost slot => decide (slot < 256)
  | .stationAnnounce => true
  | .attachCleared out => decide (out < 32)
  | .exiJob => true
  | .exiResult => true
  | .hostPointWrite who ofs _ _ => decide (who.ok = true ∧ ofs < 65536)
  | .ringConsWrite who ring index => decide (who.ok = true ∧ ring < 64 ∧ index < 131072)
  | .ringProdWrite who ring index => decide (who.ok = true ∧ ring < 64 ∧ index < 131072)
  | .canFrameReceived n ofs _ => decide (n < 8 ∧ ofs < 65536)
  | .objectRead who n obj ofs len => decide (who.ok = true ∧ n < 8 ∧ obj < 256 ∧ ofs + len ≤ 128)
  | .canTxAttempt n ofs => decide (n < 8 ∧ ofs < 65536)
  | .canTxComplete n _ ofs => decide (n < 8 ∧ ofs < 65536)
  | .canTxCancel who n index ofs => decide (who.ok = true ∧ n < 8 ∧ index < 131072 ∧ ofs < 65536)
  | .canDisable who n _ _ => decide (who.ok = true ∧ n < 8)
  | .canRejoin n => decide (n < 8)
  | .recover who n => decide (who.ok = true ∧ n < 8)
  | .recovered n => decide (n < 8)
  | .ttTrigger n k _ ofs => decide (n < 8 ∧ k < 32 ∧ ofs < 65536)
  | .ttRefLost n => decide (n < 8)
  | .fdlFrameReceived band ofs _ => decide (band < 4 ∧ ofs < 65536)
  | .fdlTxStart band => decide (1 ≤ band ∧ band < 4)
  | .fdlTxEnd => true
  | .accessTimeout band => decide (1 ≤ band ∧ band < 4)
  | .bandASilent => true
  | .curtailExpiry => true
  | .curtailSave => true
  | .nodeLost a => decide (a < 64)
  | .nodeRefresh a => decide (a < 64)
  | .batteryPass => true
  | .hibernate who => decide (who.ok = true)
  | .hibernateRequest => true
  | .hibernateReady _ => true
  | .hibernateTimeout => true
  | .emberIdleEntry => true
  | .emberSample ch code => decide (ch < 16 ∧ -32768 ≤ code ∧ code ≤ 32767)
  | .wake src => decide (1 ≤ src ∧ src ≤ 3)
  | .estimatorRestart who => decide (who.ok = true)
  | .generateKey q => decide (q.ok = true)
  | .deriveKey q => decide (q.ok = true)
  | .importKey q => decide (q.ok = true)
  | .exportKey q => decide (q.ok = true)
  | .destroyKey q => decide (q.ok = true)
  | .getPublic q => decide (q.ok = true)
  | .attest q => decide (q.ok = true)
  | .getCert q => decide (q.ok = true)
  | .signMsg q => decide (q.ok = true)
  | .verifySig q => decide (q.ok = true)
  | .sealAead q => decide (q.ok = true)
  | .openAead q => decide (q.ok = true)
  | .hashData q => decide (q.ok = true)
  | .keyStage q => decide (q.ok = true)
  | .keyCommit q => decide (q.ok = true)
  | .abort q => decide (q.ok = true)
  | .lcStep q => decide (q.ok = true)
  | .rotRotate q => decide (q.ok = true)
  | .debugUnlock q => decide (q.ok = true)
  | .keySwap n => decide (n < 512)
  | .graceEnd n => decide (n < 512)
  | .orphanSweep => true
  | .eraseDone => true
  | .debugExpiry => true
  | .debugClose who => decide (who.ok = true)
  | .snapshot => true
  | .clear who => decide (who.ok = true)
  | .scbCfgWrite who _ => decide (who.ok = true)
  | .tagCfgWrite who _ => decide (who.ok = true)
  | .tagComplete source stroke _ flags fetch exec retire mem stall => decide ((source < 8 ∨ 16 ≤ source ∧ source < 64) ∧ stroke < 2 ^ 48 ∧ flags < 16 ∧ fetch < 2 ^ 16 ∧ exec < 2 ^ 16 ∧ retire < 2 ^ 16 ∧ mem < 2 ^ 16 ∧ stall < 6)
  | .pfwFall => true
  | .hostDone who => decide (who.ok = true)
  | .hostSaveLate => true
  | .powerFailReset _ _ => true
  | .supplyWarn rail _ => decide (rail < 4)
  | .supplyReset rail _ _ => decide (rail < 3)
  | .coldStart _ => true
  | .corePowerUp _ => true
  | .resetN => true
  | .swReset who => decide (who.ok = true)
  | .trstN _ => true
  | .resetRelease root _ _ => decide (root < 3)
  | .regionWarnEnd island peer _ _ => decide (island < 9 ∧ peer < 9 ∧ island ≠ peer)
  | .supplyWarnEnd rail _ => decide (rail < 4)
  | .fastLimitEnd m _ => decide (m < 64)
  | .asyMbxGo who => decide (who.ok = true)
  | .cfrChGo who c => decide (who.ok = true ∧ c < 13)
  | .wallUnsync => true
  | .counterInputEdge n _ _ => decide (n < 32)
  | .solleyLinkLost _ => true
  | .portLinkUp port speed _ => decide (port < 10 ∧ 1 ≤ speed ∧ speed ≤ 3)
  | .canRxError n lec _ => decide (n < 8 ∧ lec < 8)
  | .protocolException n _ => decide (n < 8)
  | .expectedFrameMissing a => decide (a < 64)
  | .debugHalt core => decide (core < 8)

end Sys2Proof
end

