-- ==== Sys2Proof/Machine/Dispatch.lean ====
section
/-! DEFINITION. One arm per command: each calls the command's own meaning. -/

namespace Sys2Proof.Machine

open Sys2Proof

def exec (i : Instr) (s : State) : Host.Outcome State Fault Refusal :=
  match i with
  | .strokeMarker x => Sys2Proof.Machine.execStrokeMarker x s
  | .overrun w => Sys2Proof.Machine.execOverrun w s
  | .overrunLimit w => Sys2Proof.Machine.execOverrunLimit w s
  | .fabricAccess x => Sys2Proof.Machine.execFabricAccess x s
  | .splitReadLo who win off => Sys2Proof.Machine.execSplitReadLo who win off s
  | .splitReadHi who win off => Sys2Proof.Machine.execSplitReadHi who win off s
  | .splitWriteLo who win off v => Sys2Proof.Machine.execSplitWriteLo who win off v s
  | .splitWriteHi who win off ofs v => Sys2Proof.Machine.execSplitWriteHi who win off ofs v s
  | .registerWrite who win off v => Sys2Proof.Machine.execRegisterWrite who win off v s
  | .regionWarn island peer quantity v => Sys2Proof.Machine.execRegionWarn island peer quantity v s
  | .regionMismatch a b m => Sys2Proof.Machine.execRegionMismatch a b m s
  | .stage who => Sys2Proof.Machine.execStage who s
  | .cancel who => Sys2Proof.Machine.execCancel who s
  | .raiseFloor who => Sys2Proof.Machine.execRaiseFloor who s
  | .imageCheckDone => Sys2Proof.Machine.execImageCheckDone s
  | .resourceClaim => Sys2Proof.Machine.execResourceClaim s
  | .joineryCommit x => Sys2Proof.Machine.execJoineryCommit x s
  | .busyTimeout => Sys2Proof.Machine.execBusyTimeout s
  | .acqTrigger n t => Sys2Proof.Machine.execAcqTrigger n t s
  | .acqSoftTrig who n t => Sys2Proof.Machine.execAcqSoftTrig who n t s
  | .runStart n t => Sys2Proof.Machine.execRunStart n t s
  | .slotRestart n t => Sys2Proof.Machine.execSlotRestart n t s
  | .slotResult n codes t => Sys2Proof.Machine.execSlotResult n codes t s
  | .acqSeqRestart who n => Sys2Proof.Machine.execAcqSeqRestart who n s
  | .lpWrite who n lp => Sys2Proof.Machine.execLpWrite who n lp s
  | .pairCheck k t a b => Sys2Proof.Machine.execPairCheck k t a b s
  | .acqCheckFault k => Sys2Proof.Machine.execAcqCheckFault k s
  | .acqCheckFaultClear who k => Sys2Proof.Machine.execAcqCheckFaultClear who k s
  | .decimationOutput m bits => Sys2Proof.Machine.execDecimationOutput m bits s
  | .modStuck m bits => Sys2Proof.Machine.execModStuck m bits s
  | .modStuckEnd m => Sys2Proof.Machine.execModStuckEnd m s
  | .pwmPeriod p t => Sys2Proof.Machine.execPwmPeriod p t s
  | .onEdge p => Sys2Proof.Machine.execOnEdge p s
  | .valley p t => Sys2Proof.Machine.execValley p t s
  | .peakTrip p cs t => Sys2Proof.Machine.execPeakTrip p cs t s
  | .maxOnTime p steps => Sys2Proof.Machine.execMaxOnTime p steps s
  | .lowSideOn p => Sys2Proof.Machine.execLowSideOn p s
  | .baySaturated b => Sys2Proof.Machine.execBaySaturated b s
  | .trimLimit p => Sys2Proof.Machine.execTrimLimit p s
  | .shedStepEnd b => Sys2Proof.Machine.execShedStepEnd b s
  | .shedHoldEnd b => Sys2Proof.Machine.execShedHoldEnd b s
  | .overshoot b level => Sys2Proof.Machine.execOvershoot b level s
  | .overshootEnd b level => Sys2Proof.Machine.execOvershootEnd b level s
  | .overshootLimit b => Sys2Proof.Machine.execOvershootLimit b s
  | .fastLimit m bits => Sys2Proof.Machine.execFastLimit m bits s
  | .driverFault p low => Sys2Proof.Machine.execDriverFault p low s
  | .senseLoss p cs => Sys2Proof.Machine.execSenseLoss p cs s
  | .release who b => Sys2Proof.Machine.execRelease who b s
  | .dropClear who p => Sys2Proof.Machine.execDropClear who p s
  | .macz e b a ka kb => Sys2Proof.Machine.execMacz e b a ka kb s
  | .mac e b a ka kb => Sys2Proof.Machine.execMac e b a ka kb s
  | .msu e b a ka kb => Sys2Proof.Machine.execMsu e b a ka kb s
  | .mova e b a ka => Sys2Proof.Machine.execMova e b a ka s
  | .ash e b a imm => Sys2Proof.Machine.execAsh e b a imm s
  | .aadd e b a => Sys2Proof.Machine.execAadd e b a s
  | .add e b kd k1 k2 => Sys2Proof.Machine.execAdd e b kd k1 k2 s
  | .sub e b kd k1 k2 => Sys2Proof.Machine.execSub e b kd k1 k2 s
  | .min e b kd k1 k2 => Sys2Proof.Machine.execMin e b kd k1 k2 s
  | .max e b kd k1 k2 => Sys2Proof.Machine.execMax e b kd k1 k2 s
  | .abs e b kd k1 => Sys2Proof.Machine.execAbs e b kd k1 s
  | .neg e b kd k1 => Sys2Proof.Machine.execNeg e b kd k1 s
  | .clmp e b kd k1 k2 => Sys2Proof.Machine.execClmp e b kd k1 k2 s
  | .seln e b kd k1 k2 => Sys2Proof.Machine.execSeln e b kd k1 k2 s
  | .scl e b kd n => Sys2Proof.Machine.execScl e b kd n s
  | .nrm e b stg h => Sys2Proof.Machine.execNrm e b stg h s
  | .sete e b stg v => Sys2Proof.Machine.execSete e b stg v s
  | .ldi e b kd imm => Sys2Proof.Machine.execLdi e b kd imm s
  | .addi e b kd imm => Sys2Proof.Machine.execAddi e b kd imm s
  | .movk e b kd k1 => Sys2Proof.Machine.execMovk e b kd k1 s
  | .fec e b k1 m => Sys2Proof.Machine.execFec e b k1 m s
  | .beqz e b k1 ofs => Sys2Proof.Machine.execBeqz e b k1 ofs s
  | .bnez e b k1 ofs => Sys2Proof.Machine.execBnez e b k1 ofs s
  | .bltz e b k1 ofs => Sys2Proof.Machine.execBltz e b k1 ofs s
  | .bgez e b k1 ofs => Sys2Proof.Machine.execBgez e b k1 ofs s
  | .bqs e b ofs => Sys2Proof.Machine.execBqs e b ofs s
  | .brun e b ofs => Sys2Proof.Machine.execBrun e b ofs s
  | .jmp e b target => Sys2Proof.Machine.execJmp e b target s
  | .wait e b bit => Sys2Proof.Machine.execWait e b bit s
  | .pub e b k1 r => Sys2Proof.Machine.execPub e b k1 r s
  | .endInst e b cycles => Sys2Proof.Machine.execEndInst e b cycles s
  | .ld e b kd addr => Sys2Proof.Machine.execLd e b kd addr s
  | .st e b kd addr => Sys2Proof.Machine.execSt e b kd addr s
  | .ldx e b kd kb ofs => Sys2Proof.Machine.execLdx e b kd kb ofs s
  | .stx e b kd kb ofs => Sys2Proof.Machine.execStx e b kd kb ofs s
  | .ldc e b kd addr => Sys2Proof.Machine.execLdc e b kd addr s
  | .ldq e b kd addr => Sys2Proof.Machine.execLdq e b kd addr s
  | .ldw e b kd addr => Sys2Proof.Machine.execLdw e b kd addr s
  | .stw e b kd addr => Sys2Proof.Machine.execStw e b kd addr s
  | .ldp e b kd kb => Sys2Proof.Machine.execLdp e b kd kb s
  | .followTrip e m => Sys2Proof.Machine.execFollowTrip e m s
  | .calfinRestart who e => Sys2Proof.Machine.execCalfinRestart who e s
  | .halt who e => Sys2Proof.Machine.execHalt who e s
  | .tripClear who e m => Sys2Proof.Machine.execTripClear who e m s
  | .resultRead who e r half => Sys2Proof.Machine.execResultRead who e r half s
  | .demandWrite who o lo hi => Sys2Proof.Machine.execDemandWrite who o lo hi s
  | .entryRebuilt => Sys2Proof.Machine.execEntryRebuilt s
  | .trsRollback who => Sys2Proof.Machine.execTrsRollback who s
  | .trsRestart who => Sys2Proof.Machine.execTrsRestart who s
  | .gridFwWrite who limit => Sys2Proof.Machine.execGridFwWrite who limit s
  | .budgetInvalid which => Sys2Proof.Machine.execBudgetInvalid which s
  | .prechargeTimeout b => Sys2Proof.Machine.execPrechargeTimeout b s
  | .contactorFeedback x => Sys2Proof.Machine.execContactorFeedback x s
  | .failClose x => Sys2Proof.Machine.execFailClose x s
  | .welded x => Sys2Proof.Machine.execWelded x s
  | .xpFaultClear who x => Sys2Proof.Machine.execXpFaultClear who x s
  | .bayRelease o => Sys2Proof.Machine.execBayRelease o s
  | .exchangeRecord bytes => Sys2Proof.Machine.execExchangeRecord bytes s
  | .peerFallback => Sys2Proof.Machine.execPeerFallback s
  | .fallbackEnd => Sys2Proof.Machine.execFallbackEnd s
  | .cableSample c => Sys2Proof.Machine.execCableSample c s
  | .sensorRecovered c => Sys2Proof.Machine.execSensorRecovered c s
  | .fastSamplingEnd c => Sys2Proof.Machine.execFastSamplingEnd c s
  | .heatBalance c => Sys2Proof.Machine.execHeatBalance c s
  | .coolingUpdate => Sys2Proof.Machine.execCoolingUpdate s
  | .bellowsRestart who => Sys2Proof.Machine.execBellowsRestart who s
  | .dieSample t => Sys2Proof.Machine.execDieSample t s
  | .dieCriticalEnd => Sys2Proof.Machine.execDieCriticalEnd s
  | .throttleUp => Sys2Proof.Machine.execThrottleUp s
  | .throttleDown => Sys2Proof.Machine.execThrottleDown s
  | .overtempTrip => Sys2Proof.Machine.execOvertempTrip s
  | .assaySample x => Sys2Proof.Machine.execAssaySample x s
  | .assayCheckFaultEnd => Sys2Proof.Machine.execAssayCheckFaultEnd s
  | .dcPlausibility n => Sys2Proof.Machine.execDcPlausibility n s
  | .meterFaultEnd n => Sys2Proof.Machine.execMeterFaultEnd n s
  | .energySave => Sys2Proof.Machine.execEnergySave s
  | .drift => Sys2Proof.Machine.execDrift s
  | .testPulseEnd t => Sys2Proof.Machine.execTestPulseEnd t s
  | .pendingPulseStart t => Sys2Proof.Machine.execPendingPulseStart t s
  | .rwsWrite who ofs v => Sys2Proof.Machine.execRwsWrite who ofs v s
  | .sealedChange => Sys2Proof.Machine.execSealedChange s
  | .pqConfig => Sys2Proof.Machine.execPqConfig s
  | .nonlegalStage => Sys2Proof.Machine.execNonlegalStage s
  | .txnStart => Sys2Proof.Machine.execTxnStart s
  | .txnStop => Sys2Proof.Machine.execTxnStop s
  | .creditAdd => Sys2Proof.Machine.execCreditAdd s
  | .tariffSchedule => Sys2Proof.Machine.execTariffSchedule s
  | .tariffCancel => Sys2Proof.Machine.execTariffCancel s
  | .intervalSet => Sys2Proof.Machine.execIntervalSet s
  | .wallSet => Sys2Proof.Machine.execWallSet s
  | .config => Sys2Proof.Machine.execConfig s
  | .sealBreak sw => Sys2Proof.Machine.execSealBreak sw s
  | .sealClose => Sys2Proof.Machine.execSealClose s
  | .legalStage => Sys2Proof.Machine.execLegalStage s
  | .hallmarkSigned => Sys2Proof.Machine.execHallmarkSigned s
  | .tariffSwitch => Sys2Proof.Machine.execTariffSwitch s
  | .intervalClose => Sys2Proof.Machine.execIntervalClose s
  | .assayStart => Sys2Proof.Machine.execAssayStart s
  | .assayRestart => Sys2Proof.Machine.execAssayRestart s
  | .disconnectOpen o => Sys2Proof.Machine.execDisconnectOpen o s
  | .discWaitExpiry o => Sys2Proof.Machine.execDiscWaitExpiry o s
  | .disconnectFeedbackTimeout o => Sys2Proof.Machine.execDisconnectFeedbackTimeout o s
  | .disconnectDropout o => Sys2Proof.Machine.execDisconnectDropout o s
  | .safetyCycle fault p0 p1 => Sys2Proof.Machine.execSafetyCycle fault p0 p1 s
  | .inputChannelChange n chB level => Sys2Proof.Machine.execInputChannelChange n chB level s
  | .supplyPulse j before low after => Sys2Proof.Machine.execSupplyPulse j before low after s
  | .discrepancy n => Sys2Proof.Machine.execDiscrepancy n s
  | .readbackCheck k rb => Sys2Proof.Machine.execReadbackCheck k rb s
  | .energiseCheckStep k rb => Sys2Proof.Machine.execEnergiseCheckStep k rb s
  | .darkTestStart k => Sys2Proof.Machine.execDarkTestStart k s
  | .darkTestEnd k rb => Sys2Proof.Machine.execDarkTestEnd k rb s
  | .brakeTest who k => Sys2Proof.Machine.execBrakeTest who k s
  | .brakeTestStep k frames rb => Sys2Proof.Machine.execBrakeTestStep k frames rb s
  | .testIntervalExpiry k => Sys2Proof.Machine.execTestIntervalExpiry k s
  | .brakeApplyAfterExpiry k => Sys2Proof.Machine.execBrakeApplyAfterExpiry k s
  | .tenonReceive c frame => Sys2Proof.Machine.execTenonReceive c frame s
  | .tenonLost c => Sys2Proof.Machine.execTenonLost c s
  | .pegRoleWrite who b => Sys2Proof.Machine.execPegRoleWrite who b s
  | .startClaim => Sys2Proof.Machine.execStartClaim s
  | .takeover => Sys2Proof.Machine.execTakeover s
  | .contention low => Sys2Proof.Machine.execContention low s
  | .pegFault stuckLow => Sys2Proof.Machine.execPegFault stuckLow s
  | .keepaliveLoss => Sys2Proof.Machine.execKeepaliveLoss s
  | .wdogRelease => Sys2Proof.Machine.execWdogRelease s
  | .kick who => Sys2Proof.Machine.execKick who s
  | .handover who => Sys2Proof.Machine.execHandover who s
  | .bindHandshake feat0 feat1 unitB pref image authentic holds latency => Sys2Proof.Machine.execBindHandshake feat0 feat1 unitB pref image authentic holds latency s
  | .bindRetry => Sys2Proof.Machine.execBindRetry s
  | .alignMarker holder x => Sys2Proof.Machine.execAlignMarker holder x s
  | .lockAchieved => Sys2Proof.Machine.execLockAchieved s
  | .catchupComplete => Sys2Proof.Machine.execCatchupComplete s
  | .mirrorFrame m => Sys2Proof.Machine.execMirrorFrame m s
  | .keeperTimeout => Sys2Proof.Machine.execKeeperTimeout s
  | .revertRequest partnerOk => Sys2Proof.Machine.execRevertRequest partnerOk s
  | .returned => Sys2Proof.Machine.execReturned s
  | .pdoWrite who word => Sys2Proof.Machine.execPdoWrite who word s
  | .pdoEffective => Sys2Proof.Machine.execPdoEffective s
  | .peerInReset seen => Sys2Proof.Machine.execPeerInReset seen s
  | .partNetStuck => Sys2Proof.Machine.execPartNetStuck s
  | .linkDown port => Sys2Proof.Machine.execLinkDown port s
  | .ptpGmChange master synced offset => Sys2Proof.Machine.execPtpGmChange master synced offset s
  | .announce port addr frame => Sys2Proof.Machine.execAnnounce port addr frame s
  | .response port addr frame => Sys2Proof.Machine.execResponse port addr frame s
  | .responseTimeout slot => Sys2Proof.Machine.execResponseTimeout slot s
  | .px port ofs frame => Sys2Proof.Machine.execPx port ofs frame s
  | .leave port frame => Sys2Proof.Machine.execLeave port frame s
  | .partnerLost slot => Sys2Proof.Machine.execPartnerLost slot s
  | .stationAnnounce => Sys2Proof.Machine.execStationAnnounce s
  | .attachCleared out => Sys2Proof.Machine.execAttachCleared out s
  | .exiJob => Sys2Proof.Machine.execExiJob s
  | .exiResult => Sys2Proof.Machine.execExiResult s
  | .hostPointWrite who ofs lo hi => Sys2Proof.Machine.execHostPointWrite who ofs lo hi s
  | .ringConsWrite who ring index => Sys2Proof.Machine.execRingConsWrite who ring index s
  | .ringProdWrite who ring index => Sys2Proof.Machine.execRingProdWrite who ring index s
  | .canFrameReceived n ofs frame => Sys2Proof.Machine.execCanFrameReceived n ofs frame s
  | .objectRead who n obj ofs len => Sys2Proof.Machine.execObjectRead who n obj ofs len s
  | .canTxAttempt n ofs => Sys2Proof.Machine.execCanTxAttempt n ofs s
  | .canTxComplete n r ofs => Sys2Proof.Machine.execCanTxComplete n r ofs s
  | .canTxCancel who n index ofs => Sys2Proof.Machine.execCanTxCancel who n index ofs s
  | .canDisable who n on receiving => Sys2Proof.Machine.execCanDisable who n on receiving s
  | .canRejoin n => Sys2Proof.Machine.execCanRejoin n s
  | .recover who n => Sys2Proof.Machine.execRecover who n s
  | .recovered n => Sys2Proof.Machine.execRecovered n s
  | .ttTrigger n k busy ofs => Sys2Proof.Machine.execTtTrigger n k busy ofs s
  | .ttRefLost n => Sys2Proof.Machine.execTtRefLost n s
  | .fdlFrameReceived band ofs sym => Sys2Proof.Machine.execFdlFrameReceived band ofs sym s
  | .fdlTxStart band => Sys2Proof.Machine.execFdlTxStart band s
  | .fdlTxEnd => Sys2Proof.Machine.execFdlTxEnd s
  | .accessTimeout band => Sys2Proof.Machine.execAccessTimeout band s
  | .bandASilent => Sys2Proof.Machine.execBandASilent s
  | .curtailExpiry => Sys2Proof.Machine.execCurtailExpiry s
  | .curtailSave => Sys2Proof.Machine.execCurtailSave s
  | .nodeLost a => Sys2Proof.Machine.execNodeLost a s
  | .nodeRefresh a => Sys2Proof.Machine.execNodeRefresh a s
  | .batteryPass => Sys2Proof.Machine.execBatteryPass s
  | .hibernate who => Sys2Proof.Machine.execHibernate who s
  | .hibernateRequest => Sys2Proof.Machine.execHibernateRequest s
  | .hibernateReady ready => Sys2Proof.Machine.execHibernateReady ready s
  | .hibernateTimeout => Sys2Proof.Machine.execHibernateTimeout s
  | .emberIdleEntry => Sys2Proof.Machine.execEmberIdleEntry s
  | .emberSample ch code => Sys2Proof.Machine.execEmberSample ch code s
  | .wake src => Sys2Proof.Machine.execWake src s
  | .estimatorRestart who => Sys2Proof.Machine.execEstimatorRestart who s
  | .generateKey q => Sys2Proof.Machine.execGenerateKey q s
  | .deriveKey q => Sys2Proof.Machine.execDeriveKey q s
  | .importKey q => Sys2Proof.Machine.execImportKey q s
  | .exportKey q => Sys2Proof.Machine.execExportKey q s
  | .destroyKey q => Sys2Proof.Machine.execDestroyKey q s
  | .getPublic q => Sys2Proof.Machine.execGetPublic q s
  | .attest q => Sys2Proof.Machine.execAttest q s
  | .getCert q => Sys2Proof.Machine.execGetCert q s
  | .signMsg q => Sys2Proof.Machine.execSignMsg q s
  | .verifySig q => Sys2Proof.Machine.execVerifySig q s
  | .sealAead q => Sys2Proof.Machine.execSealAead q s
  | .openAead q => Sys2Proof.Machine.execOpenAead q s
  | .hashData q => Sys2Proof.Machine.execHashData q s
  | .keyStage q => Sys2Proof.Machine.execKeyStage q s
  | .keyCommit q => Sys2Proof.Machine.execKeyCommit q s
  | .abort q => Sys2Proof.Machine.execAbort q s
  | .lcStep q => Sys2Proof.Machine.execLcStep q s
  | .rotRotate q => Sys2Proof.Machine.execRotRotate q s
  | .debugUnlock q => Sys2Proof.Machine.execDebugUnlock q s
  | .keySwap n => Sys2Proof.Machine.execKeySwap n s
  | .graceEnd n => Sys2Proof.Machine.execGraceEnd n s
  | .orphanSweep => Sys2Proof.Machine.execOrphanSweep s
  | .eraseDone => Sys2Proof.Machine.execEraseDone s
  | .debugExpiry => Sys2Proof.Machine.execDebugExpiry s
  | .debugClose who => Sys2Proof.Machine.execDebugClose who s
  | .snapshot => Sys2Proof.Machine.execSnapshot s
  | .clear who => Sys2Proof.Machine.execClear who s
  | .scbCfgWrite who v => Sys2Proof.Machine.execScbCfgWrite who v s
  | .tagCfgWrite who v => Sys2Proof.Machine.execTagCfgWrite who v s
  | .tagComplete source stroke pc flags fetch exec retire mem stall => Sys2Proof.Machine.execTagComplete source stroke pc flags fetch exec retire mem stall s
  | .pfwFall => Sys2Proof.Machine.execPfwFall s
  | .hostDone who => Sys2Proof.Machine.execHostDone who s
  | .hostSaveLate => Sys2Proof.Machine.execHostSaveLate s
  | .powerFailReset pfwHigh railsGood => Sys2Proof.Machine.execPowerFailReset pfwHigh railsGood s
  | .supplyWarn rail mv => Sys2Proof.Machine.execSupplyWarn rail mv s
  | .supplyReset rail mv since => Sys2Proof.Machine.execSupplyReset rail mv since s
  | .coldStart unitB => Sys2Proof.Machine.execColdStart unitB s
  | .corePowerUp elapsed => Sys2Proof.Machine.execCorePowerUp elapsed s
  | .resetN => Sys2Proof.Machine.execResetN s
  | .swReset who => Sys2Proof.Machine.execSwReset who s
  | .trstN low => Sys2Proof.Machine.execTrstN low s
  | .resetRelease root corrupt selfTest => Sys2Proof.Machine.execResetRelease root corrupt selfTest s
  | .regionWarnEnd island peer quantity v => Sys2Proof.Machine.execRegionWarnEnd island peer quantity v s
  | .supplyWarnEnd rail mv => Sys2Proof.Machine.execSupplyWarnEnd rail mv s
  | .fastLimitEnd m bits => Sys2Proof.Machine.execFastLimitEnd m bits s
  | .asyMbxGo who => Sys2Proof.Machine.execAsyMbxGo who s
  | .cfrChGo who c => Sys2Proof.Machine.execCfrChGo who c s
  | .wallUnsync => Sys2Proof.Machine.execWallUnsync s
  | .counterInputEdge n a b => Sys2Proof.Machine.execCounterInputEdge n a b s
  | .solleyLinkLost lanes => Sys2Proof.Machine.execSolleyLinkLost lanes s
  | .portLinkUp port speed plca => Sys2Proof.Machine.execPortLinkUp port speed plca s
  | .canRxError n lec eight => Sys2Proof.Machine.execCanRxError n lec eight s
  | .protocolException n idw => Sys2Proof.Machine.execProtocolException n idw s
  | .expectedFrameMissing a => Sys2Proof.Machine.execExpectedFrameMissing a s
  | .debugHalt core => Sys2Proof.Machine.execDebugHalt core s

end Sys2Proof.Machine
end

