-- ==== Sys2Proof/Safety.lean ====
section
/-! DEFINITION. What counts as a safe outcome of a step, the canonical forms of the state, and what every change of the state keeps, in
the terms claims use. -/

namespace Sys2Proof

/-- An outcome that is a next state: the block goes on. -/
def Goes (o : Host.Outcome Machine.State Machine.Fault Machine.Refusal) : Prop := ∃ t, o = .next t

/-- The canonical forms of the state: the register file and memory (log entry 2). -/
def StateWf (s : Machine.State) : Prop :=
  Machine.regsWf s.regs = true ∧ Machine.Memory.wf s.mem = true

/-- What every command keeps of the state before it: the queue, the canonical forms, the fused part and the fitted memory; the records of
codes reported and of frames sent only grow, and free values are never taken twice. -/
structure KeepsForms (s t : Machine.State) : Prop where
  pending : t.pending = s.pending
  regs    : Machine.regsWf s.regs = true → Machine.regsWf t.regs = true
  mem     : Machine.Memory.wf s.mem = true → Machine.Memory.wf t.mem = true
  reports : s.reports <+: t.reports
  sent    : s.sent <+: t.sent
  free    : s.freeCtr ≤ t.freeCtr
  part    : t.sys.variant = s.sys.variant
  fitted  : t.sys.lpddrSize = s.sys.lpddrSize

/-- What a command keeps that is no stroke marker and no start of the core: the stroke counter too (R25). -/
structure Keeps (s t : Machine.State) : Prop extends KeepsForms s t where
  clock : t.sys.stroke = s.sys.stroke

/-- The state with the stroke counter at a count. -/
def Machine.State.atStroke (s : Machine.State) (n : BitVec 48) : Machine.State := { s with sys := { s.sys with stroke := n } }

/-! ### The terms of the claims -/

namespace Machine

/-- Every register whose name is not listed keeps its word, at every index. -/
def RegsKept (rs : List Reg) (s t : State) : Prop := ∀ (r : Reg) (i : Nat), r ∉ rs → t.reg r i = s.reg r i

/-- Every register but the listed ones keeps its word. -/
def CellsKept (ks : List RegKey) (s t : State) : Prop := ∀ (r : Reg) (i : Nat), (r, i) ∉ ks → t.reg r i = s.reg r i

/-- Every byte of memory reads as before. -/
def MemKept (s t : State) : Prop := ∀ a, t.byte a = s.byte a

/-- A 32-bit access of an initiator at an offset of a peripheral window passes the map, the island states, the absent units and the
firewall (R5, R16, R38). -/
def Reaches (s : State) (who : Initiator) (win off : Nat) : Prop :=
  s.sys.booted = true ∧ s.up (Initiator.island who) = true ∧ win < 18 ∧ off < 0x100000 ∧ off % 4 = 0 ∧ s.up (windowIsland win) = true
    ∧ s.absentAt (.window win) (0x40000000 + win * 0x100000 + off) 4 = false
    ∧ s.firewall who (.window win) (0x40000000 + win * 0x100000 + off) 4 true = false

/-- The same for the register that a command of its own row writes. -/
def ReachesReg (s : State) (who : Initiator) (r : Reg) (i : Nat) : Prop := Reaches s who (Reg.row r).win (Reg.at r i)

/-- The state in which a write of `n` bytes that reaches its window is served: its grants and its data are counted (R427, R430). -/
def served (s : State) (who : Initiator) (n : Nat := 4) : State :=
  (s.granted who 27).countData (wordAccess who 0 0 0 (.write (List.replicate n 0))) 27

/-- The same for a read of `n` bytes. -/
def servedRead (s : State) (who : Initiator) (n : Nat) : State :=
  (s.granted who 27).countData (wordAccess who 0 0 0 (.read n)) 27

/-- A register's word after a write by its access codes (R10). -/
def accessWord (r : Reg) (old new : W32) : W32 := ((old &&& ~~~r.row.rw) ||| (new &&& r.row.rw)) &&& ~~~(new &&& r.row.w1c)

/-- The registers whose write is a command of its own row, or a group of such commands. -/
def ownRows : List Reg :=
  [.SYS_BUSERR_INFO, .JNY_CMD, .ACQ_SOFT_TRIG, .ACQ_SEQ_RESTART, .ACQ_CNV_CFG, .ACQ_CHK_STAT, .FRG_BAY_CTL, .FRG_PH_STAT, .FRG_PH_TEMP,
    .CLF_ENG_CTL, .CLF_FE_STAT, .TRS_CTL, .TRS_GRID_FW, .TRS_XP_STAT, .BLW_CTL, .ASY_MBX_CMD, .MRT_CMD, .PEG_CMD, .PEG_ROLE, .PEG_PDO,
    .PNT_RING_CONS, .PNT_RING_PROD, .CAN_CTL, .CAN_TX_CANCEL, .EMB_CTL, .CFR_DBG_CTL, .CFR_CH_CMD, .CFR_CH_LEN, .SCB_CTL, .SCB_CFG,
    .SCB_TAG_CFG, .PWR_CTL]

/-- A bus error is taken (R40): the initiator receives it; while VALID = 0 it is latched, else LOST counts it and stops at 63. -/
def BusErrorTaken (who : Initiator) (a : Nat) (write : Bool) (code : Nat) (s t : State) : Prop :=
  t.resp = .busError code ∧ RegsKept [.SYS_BUSERR_ADDR_LO, .SYS_BUSERR_ADDR_HI, .SYS_BUSERR_INFO] s t ∧ MemKept s t
    ∧ (s.flag F.SYS_BUSERR_INFO_VALID = false →
      t.flag F.SYS_BUSERR_INFO_VALID = true ∧ t.fld F.SYS_BUSERR_INFO_CODE = code % 2 ^ 16 ∧ t.fld F.SYS_BUSERR_INFO_PORT = who.port % 2 ^ 8
        ∧ t.flag F.SYS_BUSERR_INFO_WRITE = write ∧ t.pair .SYS_BUSERR_ADDR_LO .SYS_BUSERR_ADDR_HI = a % 2 ^ 64
        ∧ t.fld F.SYS_BUSERR_INFO_LOST = s.fld F.SYS_BUSERR_INFO_LOST)
    ∧ (s.flag F.SYS_BUSERR_INFO_VALID = true →
      t.reg .SYS_BUSERR_ADDR_LO = s.reg .SYS_BUSERR_ADDR_LO ∧ t.reg .SYS_BUSERR_ADDR_HI = s.reg .SYS_BUSERR_ADDR_HI
        ∧ t.reg .SYS_BUSERR_INFO = F.SYS_BUSERR_INFO_LOST.put (s.reg .SYS_BUSERR_INFO) (min (s.fld F.SYS_BUSERR_INFO_LOST + 1) 63))

/-- A bay is newly faulted (R120): FAULT and CAUSE are set, both gates of its phases are off, none runs or is available, 0301h is reported;
outside Forge nothing changes. -/
def BayFaulted (b cause : Nat) (s t : State) : Prop :=
  t.flag F.FRG_BAY_STAT_FAULT b = true ∧ t.fld F.FRG_BAY_STAT_CAUSE b = cause ∧ t.fld F.FRG_BAY_STAT_RUNNING b = 0
    ∧ t.fld F.FRG_BAY_STAT_AVAIL b = 0 ∧ (∀ p ∈ s.bayPhases b, (t.phase p).high = false ∧ (t.phase p).low = false)
    ∧ (⟨0x0301, b⟩ : Report) ∈ t.reports.drop s.reports.length ∧ RegsKept [.FRG_BAY_STAT, .FRG_STAT] s t
    ∧ t = { s with regs := t.regs, frg := t.frg, reports := t.reports }

/-- The state in which a slot's operation runs: after the issue of its bundle, where its slot is the first of one (R125, R137). -/
def issued (s : State) (e : Nat) : Option Nat → State
  | some k => s.newBundle e k
  | none => s

/-- A bundle of engine `e` is fetched: its island runs, its instance runs a program record, and the bundle lies in the code in a word
without an ECC error (R142). -/
def Fetches (s : State) (e : Nat) (b : Option Nat) (g : Program) : Prop :=
  s.runs 2 = true ∧ s.program e = some g ∧ s.fld F.CLF_ENG_STAT_STATE e = 1 ∧ ((issued s e b).eng e).bundle < g.codeLen
    ∧ (issued s e b).eccAt ((issued s e b).codeBase e + 8 * ((issued s e b).eng e).bundle) = false

/-- A slot of engine `e` runs: its bundle is fetched and has no reserved opcode (R142). -/
def SlotRuns (s : State) (e : Nat) (b : Option Nat) (g : Program) : Prop :=
  Fetches s e b g ∧ reservedBundle ((issued s e b).fetched e) = false

/-- The left shift that NRM gives a stage for a headroom of `h` bits (R134): the least number of redundant sign bits of its non-zero
mantissas less `h`, stopped where the exponent would leave −128 to 127. -/
def normShift (s : State) (e st h : Nat) : Int :=
  let ms := (((List.range 4).map fun j => 4 * st + j).filter fun r => decide (r ≠ 0)).map fun r => s.km e r
  let sh := (ms.filter fun m => decide (m ≠ 0)).foldl (fun x m => min x (signBits m)) 23 - (h : Int)
  if 0 < sh then min sh ((s.eng e).seen.ex.get st + 128) else max sh ((s.eng e).seen.ex.get st - 127)

/-- Engine `e` changes as given, and nothing else does but Scribe's counters. -/
def EngineBecomes (u t : State) (e : Nat) (f : Engine → Engine) : Prop :=
  t.eng e = f (u.eng e) ∧ (∀ i, i ≠ e → t.eng i = u.eng i) ∧ t = { u with clf := t.clf, scb := t.scb }

/-- A register takes a word; a write to k0 is ignored (R124). -/
def putReg (x : EngRegs) (r : Nat) (w : W32) : EngRegs := if r = 0 then x else { x with k := x.k.set r w }

/-- A register takes a mantissa with bits [7:0] as 0, saturated with OVF (R131, R132); `o`: its operands' alignment set OVF. -/
def mantissaTo (kd : Nat) (m : Int) (o : Bool) (g : Engine) : Engine :=
  { g with now := putReg g.now kd (bfWord (clampInt (-(2 ^ 23)) (2 ^ 23 - 1) m) 0), ovf := g.ovf || decide (m < -(2 ^ 23) ∨ 2 ^ 23 - 1 < m) || o }

/-- An accumulator takes a value, saturated at 56 bits with OVF, and an exponent, clamped with EXP (R133). -/
def accTo (a : Bool) (v ea : Int) (o : Bool) (g : Engine) : Engine :=
  let w := clampInt (-(2 ^ 55)) (2 ^ 55 - 1) v
  let x := clampInt (-512) 511 ea
  { g with now := if a then { g.now with a1 := w, ea1 := x } else { g.now with a0 := w, ea0 := x }
           ovf := g.ovf || decide (v < -(2 ^ 55) ∨ 2 ^ 55 - 1 < v) || o
           exp := g.exp || decide (x ≠ ea) }

/-- A register takes a binary32 result with its OVF and INV (R136). -/
def floatTo (kd : Nat) (r : FpRes) (g : Engine) : Engine :=
  { g with now := putReg g.now kd r.w, ovf := g.ovf || r.ovf, inv := g.inv || r.inv }

/-- A binary32 accumulator takes a result. -/
def floatAccTo (a : Bool) (r : FpRes) (g : Engine) : Engine :=
  { g with now := if a then { g.now with f1 := r.w } else { g.now with f0 := r.w }, ovf := g.ovf || r.ovf, inv := g.inv || r.inv }

/-- A register takes a word as it is. -/
def wordTo (kd : Nat) (w : W32) (g : Engine) : Engine := { g with now := putReg g.now kd w }

/-- The next bundle of a taken branch; a target below 0 lies beyond the code (R142). -/
def jumpTo (c : Bool) (target : Int) (g : Engine) : Engine := if c then { g with after := if target < 0 then 2 ^ 16 else target.toNat } else g

/-- A program stopped with a cause (R142): STATE is STOPPED, and the stores and results of the instance are discarded. -/
def ProgramStopped (e cause : Nat) (t : State) : Prop :=
  t.fld F.CLF_ENG_STAT_STATE e = 3 ∧ t.fld F.CLF_ENG_STAT_STOP_CAUSE e = cause ∧ (t.eng e).held = [] ∧ (t.eng e).pubs = []
    ∧ (⟨0x0402, e⟩ : Report) ∈ t.reports

/-- The work runs on an island that runs, so that it can be unfinished at its deadline. -/
def workRuns (s : State) (w : Work) : Prop := s.runs (Work.island w) = true ∧ match w with
  | .sequence n => n ∈ s.lateRuns ∨ ∃ q, s.sequence n = some q ∧ n < 128 ∧ s.busySeq q n = true
  | .program e => s.fld F.CLF_ENG_STAT_STATE e = 1
  | .forge => s.hasForge = true
  | .truss => s.trussRuns = true ∧ Work.truss ∉ s.sys.late
  | .bellows => s.flag F.BLW_STAT_STOPPED = false
  | .battery => s.flag F.EMB_STAT_STOPPED = false ∧ s.strings ≠ []
  | .mortise => s.mrtRuns = true
  | .assay => s.flag F.ASY_STAT_RUN = true

/-- The flag of a piece of work in SYS_OVR_SUM. -/
def sumBitOf : Work → Fld
  | .sequence _ => F.SYS_OVR_SUM_ACQ
  | .program _ => F.SYS_OVR_SUM_CLF
  | .forge => F.SYS_OVR_SUM_FRG
  | .truss => F.SYS_OVR_SUM_TRS
  | .bellows => F.SYS_OVR_SUM_BLW
  | .battery => F.SYS_OVR_SUM_EMB
  | .mortise => F.SYS_OVR_SUM_MRT
  | .assay => F.SYS_OVR_SUM_ASY

/-- A rollback from `u` (R176): the uncommitted entries are gone, but the entry of the next heat stays for an event after CUTOFF; the rebuild
starts at the first heat without an entry, the event stands in TRS_LAST_EVENT, and one rollback is counted in a heat. -/
def RolledBack (cause unit : Nat) (u t : State) : Prop :=
  let late := decide (u.fld F.TRS_CFG_CUTOFF < u.now % 100)
  let held := u.trs.window.filter fun e => late && decide (e.heat = u.heat + 1)
  t.trs.window = held ∧ t.trs.rebuild = some (if held = [] then u.heat + 1 else u.heat + 2) ∧ t.trs.committed = u.trs.committed
    ∧ t.fld F.TRS_LAST_EVENT_CAUSE = cause % 16 ∧ t.fld F.TRS_LAST_EVENT_UNIT = unit % 2 ^ 11 ∧ t.fld F.TRS_LAST_EVENT_STROKE = u.now % 100
    ∧ t.fld F.TRS_RB_CNT_ROLLBACKS = (if u.trs.rolled = some u.heat then u.fld F.TRS_RB_CNT_ROLLBACKS
      else min (u.fld F.TRS_RB_CNT_ROLLBACKS + 1) (2 ^ 16 - 1))
    ∧ t.fld F.TRS_RB_CNT_LATE = (if late then min (u.fld F.TRS_RB_CNT_LATE + 1) 255 else u.fld F.TRS_RB_CNT_LATE)
    ∧ RegsKept [.TRS_LAST_EVENT, .TRS_RB_CNT, .TRS_STAT, .PNT_RING_PROD, .PNT_RING_STAT] u t

/-- A crosspoint faulted (R173): FAULT is latched, its bay of the entry in force is OFF, and the code is reported. -/
def CrosspointFaulted (x st code : Nat) (s t : State) : Prop :=
  let b := (topoXp s.topo x).key
  t.flag F.TRS_XP_STAT_FAULT x = true ∧ t.xpState x = st ∧ (⟨code, x⟩ : Report) ∈ t.reports.drop s.reports.length
    ∧ ((s.trs.committed.bays.get b).xp = x ∨ st = 6 → (t.trs.committed.bays.get b).mode = 0) ∧ ∀ y, y ≠ x → t.reg .TRS_XP_STAT y = s.reg .TRS_XP_STAT y

/-- Island 5 runs, and the mailbox frame in progress holds an opcode and a body (R210). -/
def Mailed (s : State) (opcode : Nat) (b : List Byte) : Prop :=
  s.runs 5 = true ∧ s.flag F.ASY_MBX_STAT_BUSY = true ∧ u16 s.asy.frame 0 = opcode ∧ mailBody s.asy.frame = b

/-- The mailbox answered with a code and is free. -/
def Answered (code : Nat) (t : State) : Prop :=
  t.flag F.ASY_MBX_STAT_BUSY = false ∧ t.fld F.ASY_MBX_STAT_CODE = code ∧ t.asy.frame = []

/-- A Hallmark record was written: it took the next RSEQ (R235). -/
def RecordWritten (s t : State) : Prop := t.pair .ASY_RSEQ_LO .ASY_RSEQ_HI = (s.pair .ASY_RSEQ_LO .ASY_RSEQ_HI + 1) % 2 ^ 64

/-- A safe output (0 to 15) or brake (16 to 19) has both switches off. -/
def ChannelOff (k : Nat) (t : State) : Prop := t.chanBit k 31 = false ∧ t.chanBit k 30 = false ∧ t.chanBit k 29 = false

/-- A readback fault of a channel (R272): both switches off, FAULT latched, 0C02h. -/
def ChannelFaulted (k : Nat) (s t : State) : Prop :=
  ChannelOff k t ∧ t.chanBit k 27 = true ∧ (⟨0x0C02, k⟩ : Report) ∈ t.reports.drop s.reports.length
    ∧ RegsKept [.MRT_OUT_STAT, .MRT_BRK_STAT, .MRT_STAT] s t ∧ MemKept s t

/-- The device took the peg (R293, R306): it drives its net, its gate is open, its state is HOLD, and PEG_EVENT tells the cause. -/
def PegTaken (cause : Nat) (s t : State) : Prop :=
  t.holds = true ∧ t.fld F.PEG_STAT_STATE = 5 ∧ t.peg.driven = true ∧ t.peg.released = false ∧ t.peg.keepers = false
    ∧ t.fld F.PEG_EVENT_CAUSE = cause ∧ t.flag F.PEG_EVENT_TOOK = true ∧ t.fld F.PEG_EVENT_STROKE = s.now % 100
    ∧ (⟨0x0D81, 0⟩ : Report) ∈ t.reports.drop s.reports.length

/-- The device released the peg (R296): its gate is closed, its net released, and PEG_EVENT tells the cause; with its link up it aligns. -/
def PegReleased (cause : Nat) (s t : State) : Prop :=
  t.holds = false ∧ t.peg.driven = false ∧ t.peg.released = true ∧ t.fld F.PEG_STAT_STATE = (if s.flag F.PEG_STAT_LINK then 2 else 0)
    ∧ t.fld F.PEG_EVENT_CAUSE = cause ∧ t.flag F.PEG_EVENT_TOOK = false ∧ t.fld F.PEG_EVENT_STROKE = s.now % 100
    ∧ (⟨0x0D82, 0⟩ : Report) ∈ t.reports.drop s.reports.length

/-- Island 0 runs, and the station receives a roll-call message of a type (R328, R329). -/
def RollCall (s : State) (b : List Byte) (typ : Nat) (m : RollMsg) : Prop := s.runs 0 = true ∧ s.station = true ∧ readRoll b = some m ∧ m.typ = typ

/-- A message of a partner in slot `n`, whose record is `d`. -/
def FromSlot (s : State) (m : RollMsg) (n : Nat) (d : SlotDef) : Prop := s.slotOfSender m.sender = some n ∧ s.slotDef n = some d

/-- A request on the path of an island that runs, read as a frame of an opcode, while Coffer runs, no erasure is pending and the root secret
stands (R406, R418, R423). -/
def Asks (s : State) (island : Nat) (b : List Byte) (opcode : Nat) (f : Frame) : Prop :=
  s.runs 7 = true ∧ s.runs island = true ∧ s.flag F.CFR_LC_STATE_ERASE_PEND = false ∧ s.flag F.CFR_STAT_ROOT_FAIL = false ∧ readFrame b = some f ∧ f.opcode = opcode

/-- The request is answered with a code and an output. -/
def Replied (code : Nat) (out : List Byte) (t : State) : Prop := t.cof.answer = (code, out) ∧ t.fld F.CFR_STAT_CODE = code

/-- The request is refused with a code, and no slot changes. -/
def KeyRefused (code : Nat) (s t : State) : Prop := Replied code [] t ∧ t.cof.slots = s.cof.slots ∧ CellsKept [(.CFR_STAT, 0)] s t

/-- A general slot may take a key (R408). -/
def FreeSlot (s : State) (n : Nat) : Prop :=
  10 ≤ n ∧ n < 512 ∧ (s.slotState n = 0 ∨ s.slotState n = 3) ∧ s.flag F.CFR_STAT_ROOT_FAIL = false

/-- A creating command that needs no trailer (R411): one without a privileged attribute, or Assay's own; `at_`: where ATTR stands. -/
def NeedsNoTrailer (island : Nat) (f : Frame) (at_ : Nat) : Prop :=
  f.rest = [] ∧ needsTrailer island (BitVec.ofNat 32 (u32 f.body at_)) (BitVec.ofNat 32 (u32 f.body (at_ + 4))) = false

/-- A key stands in slot `n` as new; no other slot changed, and GEN is kept. -/
def KeyStands (n : Nat) (k : NewKey) (s t : State) : Prop :=
  t.slotState n = 1 ∧ t.keySlot n = ⟨some k.key, none, none, none⟩ ∧ t.reg .CFR_SLOT_ATTR_LO n = k.lo ∧ t.reg .CFR_SLOT_ATTR_HI n = k.hi
    ∧ t.fld F.CFR_SLOT_PGEN_PGEN n = k.pgen % 2 ^ 32 ∧ (∀ j, j ≠ n → t.keySlot j = s.keySlot j)
    ∧ CellsKept [(.CFR_SLOT_ATTR_LO, n), (.CFR_SLOT_ATTR_HI, n), (.CFR_SLOT_PGEN, n), (.CFR_SLOT_STAT, n), (.CFR_STAT, 0)] s t

/-- A slot is EMPTY: every side is gone, and GEN advanced by one (R413). -/
def SlotEmptied (n : Nat) (s t : State) : Prop :=
  t.keySlot n = ⟨none, none, none, none⟩ ∧ t.fld F.CFR_SLOT_GEN_GEN n = min (s.fld F.CFR_SLOT_GEN_GEN n + 1) (2 ^ 32 - 1)
    ∧ t.slotState n = (if 2 ^ 32 - 1 ≤ s.fld F.CFR_SLOT_GEN_GEN n + 1 then 4 else 0)

/-- The estimator and Ember saved for a hibernation (R400): Ember's counts start from 0. -/
def HibernationSaved (s t : State) : Prop :=
  t.est.saving = true ∧ t.est.asking = false ∧ (∃ x, t.emb.saved = some (x, s.now)) ∧ (∀ k, t.emb.charge.get k = 0 ∧ t.emb.above.get k = 0)
    ∧ ∀ k < s.stringCount, t.pair .EMB_Q_LO .EMB_Q_HI k = 0

/-- A reset source acts (R442, R443): PWR_RST_CAUSE records it; the first source of a reset counts it and puts every register that a device
reset resets to its reset value. -/
def ResetAsserted (src : Nat) (s t : State) : Prop :=
  t.fld F.PWR_RST_CAUSE_LAST = src ∧ bitOf (t.fld F.PWR_RST_CAUSE_SEEN) (src - 1) = true ∧ src ∈ t.pwr.sources
    ∧ (s.pwr.sources = [] → t.sys.booted = false ∧ t.fld F.PWR_RST_CNT_RESETS = min (s.fld F.PWR_RST_CNT_RESETS + 1) (2 ^ 32 - 1)
      ∧ ∀ r i, r.dom = .device → r ≠ .PWR_STAT → t.reg r i = r.resetVal)

end Machine

end Sys2Proof
end

