-- ==== Sys2Proof/Certificates/Slice0/Obligations.lean ====
section
/-! DEFINITION. The statements for the provers: 60 obligations over the numbered rules of the spec, each a definition of type Prop. -/

open Sys2Proof

open Sys2Proof.Machine

/-! ### The queue, the canonical forms and the stroke counter -/

/-- A step takes the command at the front of the queue and runs it with the queue's rest; with an empty queue the block idles
(log entry 1). -/
def Obligations.StepRunsTheFrontCommand : Prop :=
  (∀ (c : Instr) (rest : List Instr) (s : State), step { s with pending := c :: rest } = exec c { s with pending := rest })
  ∧ ∀ s : State, s.pending = [] → step s = .next s

/-- The state right after reset has an empty queue, its register file and its memory have their canonical forms, every register reads
its reset value, no byte of memory is listed, and the stroke counter stands at 0. -/
def Obligations.ResetStateIsCanonical : Prop :=
  StateWf State.reset ∧ State.reset.pending = [] ∧ State.reset.sys.stroke = 0 ∧ State.reset.mem = []
  ∧ ∀ (r : Reg) (i : Nat), State.reset.reg r i = r.resetVal

/-- Every step keeps the canonical forms of the register file and of memory, from any state that has them. -/
def Obligations.EveryStepKeepsCanonicalForms : Prop :=
  ∀ s t : State, StateWf s → step s = .next t → StateWf t

/-- Every command answers a next state in every state; it leaves the queue's rest, the fused part and the fitted memory, and the records
of reported codes and of sent frames only grow. -/
def Obligations.EveryCommandCompletesAndKeepsForms : Prop :=
  ∀ (c : Instr) (s : State), ∃ t, exec c s = .next t ∧ KeepsForms s t

/-- R25: the 48-bit stroke counter advances by one at every stroke marker, by the elapsed strokes (rounded up) at a core power-up, is zero
after a cold start, and no other command writes it. A marker is issued while the device runs and does not wait for its holder's.
Completes: STROKE_MARKER, ALIGN_MARKER, CORE_POWER_UP, COLD_START. -/
def Obligations.OnlyMarkersAndStartsMoveTheStrokeCounter : Prop :=
  (∀ (s : State) (x : MarkerInput), s.ticks = true → s.waitsForHolder = false →
    ∃ t, exec (.strokeMarker x) s = .next t ∧ t.sys.stroke = s.sys.stroke + 1)
  ∧ (∀ (s : State) (x : MarkerInput), s.ticks = true → s.waitsForHolder = false → s.jny.scheduled = true → (s.now + 1) % 100 = 0 →
    ∃ t, exec (.joineryCommit x) s = .next t ∧ t.sys.stroke = s.sys.stroke + 1)
  ∧ (∀ (s : State) (h : Nat) (x : MarkerInput), s.ticks = true → s.waitsForHolder = true → h % 100 = (s.now + 1) % 100 →
    ∃ t, exec (.alignMarker h x) s = .next t ∧ t.sys.stroke = s.sys.stroke + 1)
  ∧ (∀ (s : State) (n : Nat), s.sys.booted = false →
    ∃ t, exec (.corePowerUp n) s = .next t ∧ t.sys.stroke = s.sys.stroke + BitVec.ofNat 48 ((n + s.period - 1) / s.period))
  ∧ (∀ (s : State) (b : Bool), ∃ t, exec (.coldStart b) s = .next t ∧ t.sys.stroke = 0)
  ∧ (∀ (c : Instr) (s t : State), exec c s = .next t → t.sys.stroke ≠ s.sys.stroke →
    (∃ x, c = .strokeMarker x) ∨ (∃ x, c = .joineryCommit x) ∨ (∃ h x, c = .alignMarker h x) ∨ (∃ n, c = .corePowerUp n) ∨ ∃ b, c = .coldStart b)

/-! ### The fabric and the registers -/

/-- R33: a read of the LO half of a 64-bit register returns it and copies the HI half into the initiator's shadow, and the RC fields of
both halves count as read; a following HI read returns the shadow and consumes it and clears nothing; without a shadow it returns the live
half and clears its RC fields. Nothing else of the registers or of memory changes. The grant at the two ports is counted first. The Calfin
result registers have their own rule (R153). Completes: SPLIT_READ_LO, SPLIT_READ_HI. -/
def Obligations.SplitReadsUseTheShadow : Prop :=
  ∀ (s : State) (who : Initiator) (win off i : Nat) (lo hi : Reg), (lo, hi) ∈ pairs → lo ≠ .CLF_RES_LO →
    regAt win off = some (lo, i) → regAt win (off + 4) = some (hi, i) →
    (Reaches s who win off → ∃ t, exec (.splitReadLo who win off) s = .next t
      ∧ t.resp = .data (leBytes 4 ((s.granted who 27).shown lo i).toNat)
      ∧ heldFor t.sys.shadows who hi i = some ((s.granted who 27).shown hi i)
      ∧ t.reg lo i = ((s.reg lo i &&& ~~~lo.row.rc) ||| (lo.resetVal &&& lo.row.rc))
      ∧ t.reg hi i = ((s.reg hi i &&& ~~~hi.row.rc) ||| (hi.resetVal &&& hi.row.rc))
      ∧ CellsKept [(lo, i), (hi, i)] s t ∧ MemKept s t)
    ∧ (Reaches s who win (off + 4) →
      (∀ v, heldFor s.sys.shadows who hi i = some v → ∃ t, exec (.splitReadHi who win (off + 4)) s = .next t
        ∧ t.resp = .data (leBytes 4 v.toNat) ∧ heldFor t.sys.shadows who hi i = none ∧ CellsKept [] s t ∧ MemKept s t)
      ∧ (heldFor s.sys.shadows who hi i = none → ∃ t, exec (.splitReadHi who win (off + 4)) s = .next t
        ∧ t.resp = .data (leBytes 4 ((s.granted who 27).shown hi i).toNat)
        ∧ t.reg hi i = ((s.reg hi i &&& ~~~hi.row.rc) ||| (hi.resetVal &&& hi.row.rc))
        ∧ CellsKept [(hi, i)] s t ∧ MemKept s t))

/-- R34: a write of the LO half of a writable 64-bit register is held for the initiator; a following write of the HI half writes both
halves together by their access codes; without a held LO write it writes the HI half alone. The two registers whose HI half is a command of
its own (a demand, a host point write), and those of Coffer's channel 12 from another port than 14, have their own rules.
Completes: SPLIT_WRITE_LO, SPLIT_WRITE_HI. -/
def Obligations.SplitWritesJoinBothHalves : Prop :=
  ∀ (s : State) (who : Initiator) (win off i ofs : Nat) (lo hi : Reg) (v : W32), (lo, hi) ∈ pairs → pairWritable lo hi = true →
    hi ≠ .TRS_OUT_DEM_HI → hi ≠ .PNT_HOST_WR_HI → (hi = .CFR_CH_ADDR_HI → i = 12 → who.port = 14) →
    regAt win off = some (lo, i) → regAt win (off + 4) = some (hi, i) →
    (Reaches s who win off → ∃ t, exec (.splitWriteLo who win off v) s = .next t ∧ t.resp = .done
      ∧ heldFor t.sys.heldLo who lo i = some v ∧ CellsKept [] s t ∧ MemKept s t)
    ∧ (Reaches s who win (off + 4) →
      (∀ vl, heldFor s.sys.heldLo who lo i = some vl → ∃ t, exec (.splitWriteHi who win (off + 4) ofs v) s = .next t
        ∧ t.resp = .done ∧ t.reg lo i = accessWord lo (s.reg lo i) vl ∧ t.reg hi i = accessWord hi (s.reg hi i) v
        ∧ heldFor t.sys.heldLo who lo i = none ∧ CellsKept [(lo, i), (hi, i)] s t ∧ MemKept s t)
      ∧ (heldFor s.sys.heldLo who lo i = none → ∃ t, exec (.splitWriteHi who win (off + 4) ofs v) s = .next t
        ∧ t.resp = .done ∧ t.reg hi i = accessWord hi (s.reg hi i) v ∧ CellsKept [(hi, i)] s t ∧ MemKept s t))

/-- R10: a write to a register that has no row of its own writes its RW bits, clears its W1C bits where the written bit is 1, and leaves
its other bits, every other register and memory. Completes: REGISTER_WRITE. -/
def Obligations.RegisterWritesFollowTheAccessCodes : Prop :=
  ∀ (s : State) (who : Initiator) (win off i : Nat) (r : Reg) (v : W32), regAt win off = some (r, i) → Reg.hiOf r = none → Reg.loOf r = none →
    r ∉ ownRows → (r.row.win = 11 → r.dom = .device) → Reaches s who win off →
    ∃ t, exec (.registerWrite who win off v) s = .next t ∧ t.resp = .done ∧ t.reg r i = accessWord r (s.reg r i) v
      ∧ CellsKept [(r, i)] s t ∧ MemKept s t

/-- R16, R21: an access to memory that the firewall lets pass. A write stores its bytes at its address and leaves every other byte and
every register; a read in a word without an error returns the bytes as the reader sees them and changes nothing of either. Completes:
FABRIC_ACCESS. -/
def Obligations.MemoryAccessesReadAndWriteTheirBytes : Prop :=
  ∀ (s : State) (x : Access) (r : Region), s.sys.booted = true → s.up (Initiator.island x.who) = true →
    s.regionOf x.addr (xferLen x.xfer) = some r → (∀ w, r ≠ .window w) → s.up (regionIsland r x.addr) = true →
    s.absentAt r x.addr (xferLen x.xfer) = false → s.firewall x.who r x.addr (xferLen x.xfer) (xferWrites x.xfer) = false →
    (∀ b, x.xfer = .write b → ∃ t, exec (.fabricAccess x) s = .next t ∧ t.resp = .done
      ∧ (∀ k (h : k < b.length), t.byte (x.addr + k) = b[k]) ∧ (∀ a, a < x.addr ∨ x.addr + b.length ≤ a → t.byte a = s.byte a)
      ∧ CellsKept [] s t)
    ∧ (∀ n, x.xfer = .read n → x.ecc = .clean → ((r = .sram ∨ r = .mram) → s.eccIn x.addr n = false) →
      ∃ t, exec (.fabricAccess x) s = .next t ∧ t.resp = .data (s.shownBytes x.addr n) ∧ CellsKept [] s t ∧ MemKept s t)

/-- R15, R16, R40: an access outside every range ends with 0002h, and a register access that is not 32 or 64 bits wide and aligned with
0003h, and neither has another effect. The initiator receives the error; it is latched while VALID = 0, else counted in LOST. -/
def Obligations.RefusedAccessesEndInABusError : Prop :=
  ∀ (s : State) (x : Access), s.sys.booted = true → s.up (Initiator.island x.who) = true →
    (s.regionOf x.addr (xferLen x.xfer) = none → ∃ t, exec (.fabricAccess x) s = .next t ∧ BusErrorTaken x.who x.addr (xferWrites x.xfer) 2 s t)
    ∧ (∀ w, s.regionOf x.addr (xferLen x.xfer) = some (.window w) → s.up (windowIsland w) = true →
      s.absentAt (.window w) x.addr (xferLen x.xfer) = false →
      s.firewall x.who (.window w) x.addr (xferLen x.xfer) (xferWrites x.xfer) = false → widthOk x.addr (xferLen x.xfer) = false →
      ∃ t, exec (.fabricAccess x) s = .next t ∧ BusErrorTaken x.who x.addr (xferWrites x.xfer) 3 s t)

/-! ### Region limits and overruns -/

/-- R36 to R38: a quantity of two adjacent islands over its warning threshold sets the WARN bit of its island and reports 0082h once per
excursion, which ends 10 % of the threshold below it; the bit clears when no quantity of the island is over its threshold any more. A
mismatch fails the island that the measured values choose, and the first fault is held. The skew is measured at the markers: the third
stroke in a row over 40 ns fails the late island. Completes: REGION_WARN, REGION_WARN_END, REGION_MISMATCH. -/
def Obligations.RegionLimitsWarnAndFailIslands : Prop :=
  (∀ (s : State) (k p : Nat) (q : Quantity) (v : Nat), s.runs 0 = true → adjacent k p = true → q ≠ .skew → regionLevel q < v →
    (k, p, q) ∉ s.sys.warned → ∃ t, exec (.regionWarn k p q v) s = .next t
    ∧ bitOf (t.fld F.SYS_REGION_STAT_WARN) k = true ∧ (k, p, q) ∈ t.sys.warned ∧ t.reports = s.reports ++ [⟨0x0082, k⟩]
    ∧ RegsKept [.SYS_REGION_STAT] s t ∧ MemKept s t)
  ∧ (∀ (s : State) (k p : Nat) (q : Quantity) (v : Nat), (k, p, q) ∈ s.sys.warned ∨ v ≤ regionLevel q →
    exec (.regionWarn k p q v) s = .next s)
  ∧ (∀ (s : State) (k p : Nat) (q : Quantity) (v : Nat), s.runs 0 = true → k < 9 → q ≠ .skew → 10 * v ≤ 9 * regionLevel q →
    (k, p, q) ∈ s.sys.warned → ∃ t, exec (.regionWarnEnd k p q v) s = .next t
    ∧ (bitOf (t.fld F.SYS_REGION_STAT_WARN) k = true ↔ ∃ c ∈ s.sys.warned, c ≠ (k, p, q) ∧ c.1 = k)
    ∧ (k, p, q) ∉ t.sys.warned ∧ t.reports = s.reports ∧ RegsKept [.SYS_REGION_STAT] s t ∧ MemKept s t)
  ∧ (∀ (s : State) (k p : Nat) (q : Quantity) (v : Nat), 9 * regionLevel q < 10 * v → exec (.regionWarnEnd k p q v) s = .next s)
  ∧ (∀ (s : State) (a b k p : Nat) (m : Measured) (q : Quantity), s.runs 0 = true → adjacent a b = true →
    Measured.fault a b m = some (q, k, p) → s.up k = true → ∃ t, exec (.regionMismatch a b m) s = .next t
    ∧ t.up k = false ∧ (s.fld F.SYS_REGION_FAULT_CODE = 0 →
      t.fld F.SYS_REGION_FAULT_CODE = codeOf q ∧ t.fld F.SYS_REGION_FAULT_ISLAND = k ∧ t.fld F.SYS_REGION_FAULT_PEER = p)
    ∧ (s.fld F.SYS_REGION_FAULT_CODE ≠ 0 → t.reg .SYS_REGION_FAULT = s.reg .SYS_REGION_FAULT))
  ∧ (∀ (s : State) (k v : Nat), 0 < k → k < 9 → s.up k = true →
    (s.sys.skewRun.get k = 2 → 40 < v → (s.skewOf k v).up k = false)
    ∧ (v ≤ 40 → (s.skewOf k v).up k = true ∧ (s.skewOf k v).sys.skewRun.get k = 0))

/-- R31: running work that is unfinished at its deadline is counted once more in its run of overruns, the flag of its block is set in
SYS_OVR_SUM, and 0083h is reported. Completes: OVERRUN. -/
def Obligations.OverrunsAreCountedAndReported : Prop :=
  ∀ (s : State) (w : Work), workRuns s w → ∃ t, exec (.overrun w) s = .next t
    ∧ t.overruns w = s.overruns w + 1 ∧ t.flag (sumBitOf w) = true ∧ (∃ u, (⟨0x0083, u⟩ : Report) ∈ t.reports.drop s.reports.length)

/-- R32: at its limit of consecutive overruns the work's fault action is taken (a sequence, a program and the estimator stop, Truss holds
its outputs safe, a bay that still runs under Forge is faulted, island 6 fails); below the limit nothing happens. The island of the work
runs. Completes: OVERRUN_LIMIT. -/
def Obligations.OverrunLimitsTakeTheFaultAction : Prop :=
  (∀ (s : State) (w : Work), s.overruns w < s.limitOf w → exec (.overrunLimit w) s = .next s)
  ∧ ∀ (s : State) (w : Work), s.runs (Work.island w) = true → s.limitOf w ≤ s.overruns w → ∃ t, exec (.overrunLimit w) s = .next t
    ∧ (∀ n, w = .sequence n → t.flag F.ACQ_SEQ_STAT_STOPPED n = true)
    ∧ (∀ e, w = .program e → t.fld F.CLF_ENG_STAT_STATE e = 3
      ∧ (s.fld F.CLF_ENG_STAT_STATE e ≠ 3 → t.fld F.CLF_ENG_STAT_STOP_CAUSE e = 1
        ∧ ∀ b, s.hasForge = true → s.engineBay e = some b → t.flag F.FRG_BAY_STAT_FAULT b = true))
    ∧ (w = .forge → s.hasForge = true → ∀ b ∈ s.bays, s.bayLive b = true → t.flag F.FRG_BAY_STAT_FAULT b = true)
    ∧ (w = .truss → t.fld F.TRS_STAT_STATE = 2)
    ∧ (w = .bellows → t.blw.stopping.isSome = true ∧ t.blw.busy = false)
    ∧ (w = .battery → t.flag F.EMB_STAT_STOPPED = true)
    ∧ (w = .mortise → t.up 6 = false)
    ∧ (w = .assay → t.asy.stopped = true)

/-! ### The Joinery loader -/

/-- R46, R58, R65: STAGE is accepted only in IDLE and takes the staged address and length; CANCEL abandons a pending image, whose claims
end at the next heat; RAISE_FLOOR raises the floor to the active serial number, and a completed check rejects the image or enters PENDING;
a command outside its state is refused with 0109h. The active structure stays. Completes: STAGE, CANCEL, RAISE_FLOOR (writes of JNY_CMD
that reach it), IMAGE_CHECK_DONE. -/
def Obligations.LoaderCommandsFollowTheLoaderState : Prop :=
  (∀ (s : State) (who : Initiator), ReachesReg s who .JNY_CMD 0 → s.jnyState = 0 → ∃ t, exec (.stage who) s = .next t ∧ t.jnyState = 1
    ∧ t.resp = .done ∧ t.jny = { s.jny with checking := some (s.pair .JNY_STAGE_ADDR_LO .JNY_STAGE_ADDR_HI, s.fld F.JNY_STAGE_LEN_LEN) }
    ∧ RegsKept [.JNY_STAT, .JNY_ERR] s t ∧ MemKept s t)
  ∧ (∀ (s : State) (who : Initiator), ReachesReg s who .JNY_CMD 0 → s.jnyState = 2 → ∃ t, exec (.cancel who) s = .next t ∧ t.jnyState = 0
    ∧ t.resp = .done ∧ t.jny = { s.jny with waiting := none, scheduled := false, dropClaims := true } ∧ RegsKept [.JNY_STAT] s t ∧ MemKept s t)
  ∧ (∀ (s : State) (who : Initiator), ReachesReg s who .JNY_CMD 0 → s.jnyState = 0 → ∃ t, exec (.raiseFloor who) s = .next t
    ∧ t.floor = max s.floor (s.reg .JNY_ACTIVE_SERIAL).toNat
    ∧ (∀ a, a < 0x21D00008 ∨ 0x21D0000C ≤ a → t.byte a = s.byte a) ∧ t = { served s who with mem := t.mem, ecc := t.ecc, resp := .done })
  ∧ (∀ (c : Instr) (s : State) (who : Initiator), ReachesReg s who .JNY_CMD 0 →
    (c = .stage who ∧ s.jnyState ≠ 0) ∨ (c = .cancel who ∧ s.jnyState ≠ 2) ∨ (c = .raiseFloor who ∧ s.jnyState ≠ 0) →
    ∃ t, exec c s = .next t ∧ t.fld F.JNY_ERR_CODE = 0x0109 ∧ t = { served s who with regs := t.regs, reports := t.reports, resp := .done }
      ∧ RegsKept [.JNY_ERR] s t)
  ∧ (∀ (s : State) (a n : Nat), s.runs 0 = true → s.jny.checking = some (a, n) → ∃ t, exec .imageCheckDone s = .next t
    ∧ t.jny.checking = none ∧ t.jny.active = s.jny.active
    ∧ (s.stageable_ a n = false ∨ s.eccIn a n = true → t.jnyState = 0 ∧ t.fld F.JNY_ERR_CODE = 0x0101 ∧ t.jny.waiting = s.jny.waiting)
    ∧ (s.stageable_ a n = true → s.eccIn a n = false →
      (∀ e, s.imageErr (s.bytes a n) true = some e → t.jnyState = 0 ∧ t.fld F.JNY_ERR_CODE = e.1 % 2 ^ 16)
      ∧ (s.imageErr (s.bytes a n) true = none → t.jnyState = 2 ∧ t.fld F.JNY_ERR_CODE = 0x0181
        ∧ t.jny.waiting = some ⟨readImage (s.bytes a n), imageDiff s.jny.active (readImage (s.bytes a n)), s.newTable (readImage (s.bytes a n)), 0⟩)))

/-- R60, R62, R65: the resources of a pending image are claimed from the first heat after PENDING was entered; an image that stays in
PENDING for JNY_TIMEOUT heats is abandoned with 0106h, and its claims end at the next heat; the commit is the marker of the heat for which
the test stroke scheduled it, and there the image becomes the active structure, the loader is idle, the claims are released and JNY_BANK
names the other bank. Completes: RESOURCE_CLAIM, BUSY_TIMEOUT, JOINERY_COMMIT. -/
def Obligations.PendingImagesAreClaimedCommittedOrAbandoned : Prop :=
  (∀ (s : State) (p : PendingImage), s.runs 0 = true → s.jny.waiting = some p → 0 < p.heats →
    exec .resourceClaim s = .next { s with jny := { s.jny with claimed := p.claims.map fun c => c.2 } })
  ∧ (∀ (s : State) (p : PendingImage), s.jny.waiting = some p → p.heats = 0 → exec .resourceClaim s = .next s)
  ∧ (∀ (s : State) (p : PendingImage), s.runs 0 = true → s.jny.waiting = some p → max 1 (s.fld F.JNY_TIMEOUT_HEATS) ≤ p.heats →
    ∃ t, exec .busyTimeout s = .next t ∧ t.jnyState = 0 ∧ t.fld F.JNY_ERR_CODE = 0x0106
      ∧ t.jny = { s.jny with waiting := none, scheduled := false, dropClaims := true } ∧ RegsKept [.JNY_STAT, .JNY_ERR] s t ∧ MemKept s t)
  ∧ (∀ (s : State) (p : PendingImage), s.jny.waiting = some p → p.heats < max 1 (s.fld F.JNY_TIMEOUT_HEATS) → exec .busyTimeout s = .next s)
  ∧ (∀ (s : State) (x : MarkerInput), s.ticks = true → s.waitsForHolder = false → s.jny.scheduled = true → (s.now + 1) % 100 = 0 →
    exec (.joineryCommit x) s = .next (s.marker x))
  ∧ (∀ (s : State) (p : PendingImage), s.jny.waiting = some p → s.jny.scheduled = true →
    s.commitIfDue.jny.active = p.image ∧ s.commitIfDue.jny.waiting = none ∧ s.commitIfDue.jny.claimed = [] ∧ s.commitIfDue.jnyState = 0
      ∧ s.commitIfDue.fld F.JNY_STAT_SOURCE = 0 ∧ s.commitIfDue.bankB = !s.bankB)

/-! ### Acquisition -/

/-- R76, R79, R80: a trigger of a sequence that is not stopped queues a run on its converter, to start DELAY later on the sampling grid;
while a run of the sequence is pending or running it counts as a collision, and with 8 waiting runs it is dropped with 0203h as an overrun.
Completes: ACQ_TRIGGER, ACQ_SOFT_TRIG (a write of the register that reaches it). -/
def Obligations.TriggersQueueRunsOrAreCounted : Prop :=
  ∀ (s : State) (who : Initiator) (n t₀ t : Nat) (q : Seq) (c : Instr), s.sequence n = some q → s.flag F.ACQ_SEQ_STAT_STOPPED n = false →
    ((c = .acqTrigger n t₀ ∧ s.runs 4 = true ∧ ((q.src = 0 ∧ s.now % max q.arg 1 = 0 ∧ t = 0)
        ∨ (q.src = 1 ∧ (n ∉ s.acq.fired ∨ q.every = true) ∧ t = t₀) ∨ (q.src = 2 ∧ t₀ ≠ 0 ∧ t₀ % max q.arg 1 = 0 ∧ t = t₀)))
      ∨ (c = .acqSoftTrig who n t₀ ∧ ReachesReg s who .ACQ_SOFT_TRIG 0 ∧ q.src = 3 ∧ t = t₀)) →
    (s.busySeq q n = true → ∃ u, exec c s = .next u
      ∧ u.fld F.ACQ_SEQ_STAT_COLLISIONS n = min (s.fld F.ACQ_SEQ_STAT_COLLISIONS n + 1) (2 ^ F.ACQ_SEQ_STAT_COLLISIONS.width - 1)
      ∧ u.acq.convs = s.acq.convs ∧ u.reports = s.reports ++ [⟨0x0282, n⟩] ∧ RegsKept [.ACQ_SEQ_STAT] s u ∧ MemKept s u)
    ∧ (s.busySeq q n = false → 8 ≤ (s.conv q.cnv).queue.length → ∃ u, exec c s = .next u ∧ u.acq.convs = s.acq.convs
      ∧ u.overruns (.sequence n) = s.overruns (.sequence n) + 1
      ∧ u.fld F.ACQ_CNV_STAT_DROPPED q.cnv = min (s.fld F.ACQ_CNV_STAT_DROPPED q.cnv + 1) (2 ^ F.ACQ_CNV_STAT_DROPPED.width - 1)
      ∧ u.reports = s.reports ++ [⟨0x0083, n⟩, ⟨0x0203, n⟩] ∧ MemKept s u)
    ∧ (s.busySeq q n = false → (s.conv q.cnv).queue.length < 8 → ∃ u, exec c s = .next u
      ∧ (u.conv q.cnv).queue = (s.conv q.cnv).queue ++ [⟨n, s.now + (gridAt (s.conv q.cnv).slow (max s.period 1) (t + q.delay)).1,
          (gridAt (s.conv q.cnv).slow (max s.period 1) (t + q.delay)).2, false, 0, false, 0, (0, 0)⟩]
      ∧ (∀ k, k ≠ q.cnv → u.conv k = s.conv k) ∧ u.reports = s.reports ∧ RegsKept [.ACQ_CNV_STAT] s u ∧ MemKept s u)

/-- R72, R79, R81, R83, R84: while no check of its pair is due, the first due run starts on a free converter, at the next point of its
grid and after a settling conversion where the input changes; an urgent run aborts a slot of a run that is not urgent, and the aborted slot
restarts from its beginning marked RESTARTED; a result of the slot in progress forms its result word: for a Calfin destination that word
stands in the engine's input table with its arrival bit set, and no other byte of memory changes. Completes: RUN_START, SLOT_RESTART,
SLOT_RESULT. -/
def Obligations.RunsStartRestartAndDeliverResults : Prop :=
  ∀ (s : State) (n t₀ : Nat) (r : Run) (x : SlotRec), s.runs 4 = true → (s.check (n / 2)).due = false → (s.check (n / 2)).began = false →
    s.slotRec r = some x →
    let g := gridUp (s.conv n).slow t₀
    let first := g + if x.input < 8 ∧ (s.conv n).input ≠ some x.input then (if (s.conv n).slow then 5 else 1) else 0
    let due := (s.conv n).queue.filter fun y => decide (y.stroke < s.now ∨ (y.stroke = s.now ∧ y.at_ ≤ t₀))
    ((s.conv n).cur = none → (s.conv n).susp = none → (s.conv n).wait = none → s.firstRun due = some r →
      ∃ u, exec (.runStart n t₀) s = .next u ∧ (u.conv n).queue = (s.conv n).queue.filter (fun y => decide (y ≠ r))
        ∧ (u.conv n).cur = some { r with sample := first, began := (s.now, g) } ∧ u = { s with acq := u.acq } ∧ ∀ k, k ≠ n → u.conv k = s.conv k)
    ∧ (∀ y, (s.conv n).cur = some y → s.firstRun due = some r → s.flag F.ACQ_SEQ_STAT_URGENT r.seq = true →
      s.flag F.ACQ_SEQ_STAT_URGENT y.seq = false → notBefore (r.stroke, r.at_) y.began = true →
      ∃ u, exec (.runStart n t₀) s = .next u ∧ (u.conv n).susp = some y
        ∧ (u.conv n).cur = some { r with sample := first, began := (s.now, g) }
        ∧ u.fld F.ACQ_CNV_STAT_ABORTS n = min (s.fld F.ACQ_CNV_STAT_ABORTS n + 1) (2 ^ F.ACQ_CNV_STAT_ABORTS.width - 1)
        ∧ CellsKept [(.ACQ_CNV_STAT, n)] s u ∧ MemKept s u)
    ∧ ((s.conv n).cur = none → (s.conv n).susp = some r →
      ∃ u, exec (.slotRestart n t₀) s = .next u ∧ (u.conv n).susp = none
        ∧ (u.conv n).cur = some { r with again := true, sample := first, began := (s.now, g) }
        ∧ u = { s with acq := u.acq } ∧ ∀ k, k ≠ n → u.conv k = s.conv k)
    ∧ (∀ (codes : List Int) (q : Seq), (s.conv n).cur = some r → s.sequence r.seq = some q → ∃ u, exec (.slotResult n codes t₀) s = .next u
      ∧ (r.slot + 1 < q.slots → ∃ y, (u.conv n).cur = some y ∧ y.seq = r.seq ∧ y.slot = r.slot + 1 ∧ y.again = false)
      ∧ (q.slots ≤ r.slot + 1 → (u.conv n).cur = none ∧ u.overruns (.sequence r.seq) = 0)
      ∧ (x.typ = 0 → (∃ w, u.le (engineBase (x.dest / 2 ^ 24 % 64) + x.dest % 2 ^ 18) 4 = w
          ∧ w = (resultWord (if x.input < 8 then s.convQual n r codes else s.modQual (x.input % 64) r) r.stroke (s.slotValue x codes)).toNat)
        ∧ bitOf (u.eng (x.dest / 2 ^ 24 % 64)).arrival (x.dest % 2 ^ 18 / 4) = true
        ∧ ∀ a, a < engineBase (x.dest / 2 ^ 24 % 64) + x.dest % 2 ^ 18 ∨ engineBase (x.dest / 2 ^ 24 % 64) + x.dest % 2 ^ 18 + 4 ≤ a → u.byte a = s.byte a))

/-- R73, R85 to R88: a stopped sequence is marked for its restart; LP takes the written value or is refused with 0204h; a pair check that
has begun, or that is due and finds both converters between slots in the second half of a stroke, counts a miss with 0283h or resets CONSEC;
CONSEC at FAIL_LIMIT sets FAULT with 0201h; a write of FAULT ends it at the next marker. Completes: ACQ_SEQ_RESTART, LP_WRITE,
ACQ_CHECK_FAULT_CLEAR (writes that reach their register), PAIR_CHECK, ACQ_CHECK_FAULT. -/
def Obligations.SequenceControlAndPairChecks : Prop :=
  (∀ (s : State) (who : Initiator) (n : Nat), ReachesReg s who .ACQ_SEQ_RESTART 0 → s.flag F.ACQ_SEQ_STAT_STOPPED n = true →
    exec (.acqSeqRestart who n) s = .next { served s who with acq := { s.acq with restart := n :: s.acq.restart }, resp := .done })
  ∧ (∀ (s : State) (who : Initiator) (n : Nat), ReachesReg s who .ACQ_SEQ_RESTART 0 → s.flag F.ACQ_SEQ_STAT_STOPPED n = false →
    exec (.acqSeqRestart who n) s = .next { served s who with resp := .done })
  ∧ (∀ (s : State) (who : Initiator) (n : Nat) (lp : Bool), ReachesReg s who .ACQ_CNV_CFG n → ∃ t, exec (.lpWrite who n lp) s = .next t
    ∧ t = { served s who with regs := t.regs, reports := t.reports, resp := .done }
    ∧ CellsKept [(.ACQ_CNV_CFG, n)] s t
    ∧ (lp = true → (∃ k < acqSeqs (s.body tyACQ), (acqSeq (s.body tyACQ) k).cnv = n ∧ (acqSeq (s.body tyACQ) k).lpOk = false) →
      t.flag F.ACQ_CNV_CFG_LP n = false ∧ t.reports = s.reports ++ [⟨0x0204, n⟩])
    ∧ (lp = false ∨ (∀ k < acqSeqs (s.body tyACQ), (acqSeq (s.body tyACQ) k).cnv = n → (acqSeq (s.body tyACQ) k).lpOk = true) →
      t.flag F.ACQ_CNV_CFG_LP n = lp ∧ t.reports = s.reports))
  ∧ (∀ (s : State) (k t₀ : Nat) (a b : List Int), s.runs 4 = true → s.fld F.ACQ_CHK_CFG_EN k ≠ 0 →
    ((s.check k).began = true ∨ ((s.check k).due = true ∧ s.period ≤ 2 * t₀ ∧ (s.conv (2 * k)).cur = none ∧ (s.conv (2 * k + 1)).cur = none)) →
    ∃ t, exec (.pairCheck k t₀ a b) s = .next t ∧ t.check k = ⟨false, false, false⟩
    ∧ t.acq.turn.get k = (s.acq.turn.get k + 1) % 6 ∧ CellsKept [(.ACQ_CHK_STAT, k)] s t ∧ MemKept s t
    ∧ (((s.checkFails k a b).1 || (s.checkFails k a b).2) = true →
      t.fld F.ACQ_CHK_STAT_CONSEC k = min (s.fld F.ACQ_CHK_STAT_CONSEC k + 1) (2 ^ F.ACQ_CHK_STAT_CONSEC.width - 1)
        ∧ t.fld F.ACQ_CHK_STAT_MISSES k = min (s.fld F.ACQ_CHK_STAT_MISSES k + 1) (2 ^ F.ACQ_CHK_STAT_MISSES.width - 1)
        ∧ t.reports = s.reports ++ [⟨0x0283, k⟩])
    ∧ (((s.checkFails k a b).1 || (s.checkFails k a b).2) = false → t.fld F.ACQ_CHK_STAT_CONSEC k = 0 ∧ t.reports = s.reports))
  ∧ (∀ (s : State) (k t₀ : Nat) (a b : List Int), (s.check k).began = false → (s.check k).due = false ∨ 2 * t₀ < s.period →
    exec (.pairCheck k t₀ a b) s = .next s)
  ∧ (∀ (s : State) (k : Nat), s.runs 4 = true → k < 8 → s.fld F.ACQ_CHK_CFG_EN k = 1 → s.fld F.ACQ_CHK_STAT_FAULT k = 0 →
    s.fld F.ACQ_CHK_CFG_FAIL_LIMIT k ≤ s.fld F.ACQ_CHK_STAT_CONSEC k → ∃ t, exec (.acqCheckFault k) s = .next t
      ∧ t.flag F.ACQ_CHK_STAT_FAULT k = true ∧ bitOf (t.fld F.ACQ_STAT_CHK_FAULT) k = true ∧ t.reports = s.reports ++ [⟨0x0201, k⟩]
      ∧ t = { s with regs := t.regs, reports := t.reports, frg := t.frg } ∧ RegsKept [.ACQ_CHK_STAT, .ACQ_STAT] s t)
  ∧ (∀ (s : State) (who : Initiator) (k : Nat), ReachesReg s who .ACQ_CHK_STAT k →
    exec (.acqCheckFaultClear who k) s = .next { served s who with acq := { s.acq with clear := k :: s.acq.clear }, resp := .done })

/-- R90, R91, R93: an owned modulator input without a gap of MOD_CLK shows its sinc3 output, a signed 24-bit value within ± (2²³ − 1), and
sets NEW; an input that shows no transition for 64 clocks is marked stuck once with 0202h, unless Assay owns it, and 16 outputs with
transitions in a row end it. Completes: DECIMATION_OUTPUT, MOD_STUCK, MOD_STUCK_END. -/
def Obligations.ModulatorInputsDecimateAndShowStuck : Prop :=
  (∀ (s : State) (m : Nat) (bits : List Bool), s.runs 4 = true → s.fld F.ACQ_MOD_CFG_OWNER m ≠ 0 → s.fld F.ACQ_MOD_CFG_OWNER m ≠ 3 →
    m ∉ s.acq.gap → ∃ t, exec (.decimationOutput m bits) s = .next t ∧ t.flag F.ACQ_MOD_DATA_NEW m = true
      ∧ t.fld F.ACQ_MOD_DATA_VALUE m = unsignedOf 24 (clampInt (-(2 ^ 23 - 1)) (2 ^ 23 - 1)
        (roundDiv (((bits.foldl Sinc3.push (s.acq.sincs.get m)).take).1 * (2 ^ 23 - 1)) ((2 ^ s.fld F.ACQ_MOD_CFG_OSR_EXP m) ^ 3)))
      ∧ t = { s with regs := t.regs, acq := t.acq } ∧ CellsKept [(.ACQ_MOD_DATA, m)] s t)
  ∧ (∀ (s : State) (m : Nat) (bits : List Bool), s.runs 4 = true → s.flag F.ACQ_MOD_DATA_STUCK m = false → s.fld F.ACQ_MOD_CFG_OWNER m ≠ 3 →
    64 ≤ ((s.acq.sincs.get m).quiet bits).1 → ∃ t, exec (.modStuck m bits) s = .next t
    ∧ t.flag F.ACQ_MOD_DATA_STUCK m = true ∧ (t.acq.sincs.get m).moving = 0 ∧ t.reports = s.reports ++ [⟨0x0202, m⟩]
    ∧ CellsKept [(.ACQ_MOD_DATA, m)] s t ∧ MemKept s t)
  ∧ (∀ (s : State) (m : Nat) (bits : List Bool), s.flag F.ACQ_MOD_DATA_STUCK m = true ∨ s.fld F.ACQ_MOD_CFG_OWNER m = 3
    ∨ ((s.acq.sincs.get m).quiet bits).1 < 64 → exec (.modStuck m bits) s = .next s)
  ∧ (∀ (s : State) (m : Nat), s.runs 4 = true → 16 ≤ (s.acq.sincs.get m).moving →
    exec (.modStuckEnd m) s = .next (s.setFlag F.ACQ_MOD_DATA_STUCK m false))
  ∧ (∀ (s : State) (m : Nat), (s.acq.sincs.get m).moving < 16 → exec (.modStuckEnd m) s = .next s)

/-! ### Forge -/

/-- R103, R104, R105, R106, R117: the PERIOD instant of a running phase drops PWML and moves the shadow to the DAC, and of another phase
turns both gates off; the ON edge of a period raises PWMH, whether RUN still stands or not; the comparator trip after blanking, and the
maximum on-time at MAXD × P ÷ 256, which is counted, drop PWMH; then PWML rises. The VALLEY instant changes no gate. Completes: PWM_PERIOD,
ON_EDGE, PEAK_TRIP, MAX_ON_TIME, LOW_SIDE_ON, VALLEY. -/
def Obligations.PhaseEdgesFollowThePwmSequence : Prop :=
  (∀ (s : State) (p t₀ b : Nat), s.runs 4 = true → s.phaseBay p = some b → ∃ t, exec (.pwmPeriod p t₀) s = .next t ∧ (t.phase p).high = false
    ∧ (∀ q, q ≠ p → t.phase q = s.phase q) ∧ MemKept s t
    ∧ (s.isRunning p = true → (t.phase p).going = true ∧ (t.phase p).skipped = s.cutting b ∧ (t.phase p).low = (s.cutting b && s.skipLow b)
      ∧ t.fld F.FRG_PH_DAC_CODE p = (s.phase p).shadow % 2 ^ F.FRG_PH_DAC_CODE.width)
    ∧ (s.isRunning p = false → (t.phase p).low = false ∧ (t.phase p).going = false ∧ t.reg .FRG_PH_DAC p = s.reg .FRG_PH_DAC p))
  ∧ (∀ (s : State) (p b : Nat), s.runs 4 = true → s.phaseBay p = some b → (s.phase p).going = true → (s.phase p).skipped = false →
    (s.phase p).edged = false → s.mayPulse p = true → s.cutting b = false →
    exec (.onEdge p) s = .next (s.onPhase p fun y => { y with high := true, edged := true, want := false, low := false, peer := false }))
  ∧ (∀ (s : State) (p t₀ b : Nat) (cs : Int), s.runs 4 = true → s.phaseBay p = some b → (s.phase p).high = true →
    s.fld F.FRG_PH_TIM_BLANK p * 5 ≤ t₀ → s.tripLevel p t₀ ≤ cs * 40960 → ∃ t, exec (.peakTrip p cs t₀) s = .next t ∧ (t.phase p).high = false
      ∧ ((s.phase p).mark = true → t.fld F.FRG_PH_STAT_LIMIT_CNT p = min (s.fld F.FRG_PH_STAT_LIMIT_CNT p + 1) (2 ^ F.FRG_PH_STAT_LIMIT_CNT.width - 1))
      ∧ ((s.phase p).mark = false → RegsKept [] s t) ∧ CellsKept [(.FRG_PH_STAT, p)] s t ∧ MemKept s t)
  ∧ (∀ (s : State) (p b steps : Nat), s.runs 4 = true → s.phaseBay p = some b → (s.phase p).high = true →
    s.fld F.FRG_BAY_CFG_MAXD b * s.bayPeriod b ≤ 256 * steps → ∃ t, exec (.maxOnTime p steps) s = .next t ∧ (t.phase p).high = false
    ∧ t.fld F.FRG_PH_STAT_MAXD_CNT p = min (s.fld F.FRG_PH_STAT_MAXD_CNT p + 1) (2 ^ F.FRG_PH_STAT_MAXD_CNT.width - 1) ∧ MemKept s t)
  ∧ (∀ (s : State) (p : Nat), s.runs 4 = true → (s.phase p).going = true → (s.phase p).edged = true → (s.phase p).high = false →
    (s.phaseBay p).isSome = true → exec (.lowSideOn p) s = .next (s.onPhase p fun y => { y with low := true }))
  ∧ (∀ (s : State) (p t₀ : Nat), s.runs 4 = true → ∃ t, exec (.valley p t₀) s = .next t ∧ t.frg.bays = s.frg.bays
    ∧ (∀ q, (t.phase q).high = (s.phase q).high ∧ (t.phase q).low = (s.phase q).low) ∧ ((s.phase p).edged = true → t = s)
    ∧ RegsKept [.ACQ_SEQ_STAT, .ACQ_CNV_STAT, .SYS_OVR_SUM] s t ∧ MemKept s t)

/-- R113, R114, R119, R120: 64 saturated periods of every running phase (CAUSE 2), an overshoot that lasts OVS_LIMIT markers (CAUSE 1) and a
fast limit with ACTION = 1 (CAUSE 3) fault a bay that is not faulted: its phases' gates are off, FAULT and CAUSE are set, none of its
phases runs or is available, and 0301h is reported. Completes: BAY_SATURATED, OVERSHOOT_LIMIT, FAST_LIMIT with ACTION = 1. -/
def Obligations.BayProtectionsFaultTheBay : Prop :=
  (∀ (s : State) (b : Nat), s.runs 4 = true → s.hasForge = true → s.flag F.FRG_BAY_STAT_FAULT b = false → s.running b ≠ [] →
    (∀ p ∈ s.running b, 64 ≤ (s.phase p).full) → ∃ t, exec (.baySaturated b) s = .next t ∧ BayFaulted b 2 s t)
  ∧ (∀ (s : State) (b : Nat), s.runs 4 = true → s.hasForge = true → s.flag F.FRG_BAY_STAT_FAULT b = false → s.cutting b = true →
    s.fld F.FRG_BAY_AUX_OVS_LIMIT b ≤ (s.bay b).ovsFor → ∃ t, exec (.overshootLimit b) s = .next t ∧ BayFaulted b 1 s t)
  ∧ (∀ (s : State) (m : Nat) (bits : List Bool), s.runs 4 = true → s.fastFed m = true → s.flag F.FRG_FLD_EN m = true →
    (s.fastBits m bits).fastOut m = true → s.fld F.FRG_FLD_ACTION m ≠ 0 → s.flag F.FRG_BAY_STAT_FAULT (s.fld F.FRG_FLD_BAY m) = false →
    ∃ t, exec (.fastLimit m bits) s = .next t ∧ BayFaulted (s.fld F.FRG_FLD_BAY m) 3 s t ∧ m ∈ (t.bay (s.fld F.FRG_FLD_BAY m)).fast)

/-- R108, R110, R111, R113, R114: an overshoot at the threshold, or a fast limit with ACTION = 0, ends every pulse of the bay and holds its
pulses back until the level is inside again, an overshoot 10 mV below its threshold; the shed victim goes off when its ramp ends; the hold
after a load step ends; a trim that stays at its limit is reported. Completes: OVERSHOOT, OVERSHOOT_END, FAST_LIMIT with ACTION = 0,
FAST_LIMIT_END, SHED_STEP_END, SHED_HOLD_END, TRIM_LIMIT. -/
def Obligations.TruncationSheddingAndTrim : Prop :=
  (∀ (s : State) (b : Nat) (v : Int), s.runs 4 = true → s.hasForge = true → s.overThr b v 0 = true → (s.bay b).ovs = false →
    ∃ t, exec (.overshoot b v) s = .next t ∧ t.cutting b = true ∧ (t.bay b).ovs = true
    ∧ (∀ p ∈ s.members b, (t.phase p).high = false) ∧ CellsKept [(.FRG_BAY_STAT, b)] s t ∧ MemKept s t)
  ∧ (∀ (s : State) (b : Nat) (v : Int), s.overThr b v 0 = false → exec (.overshoot b v) s = .next s)
  ∧ (∀ (s : State) (b : Nat) (v : Int), s.runs 4 = true → ∃ t, exec (.overshootEnd b v) s = .next t
    ∧ (t.bay b).ovs = ((s.bay b).ovs && s.overThr b v 10000) ∧ t = { s with frg := t.frg } ∧ t.frg.phases = s.frg.phases)
  ∧ (∀ (s : State) (m : Nat) (bits : List Bool), s.runs 4 = true → s.fastFed m = true → s.flag F.FRG_FLD_EN m = true →
    (s.fastBits m bits).fastOut m = true → s.fld F.FRG_FLD_ACTION m = 0 → m ∉ (s.bay (s.fld F.FRG_FLD_BAY m)).fast →
    ∃ t, exec (.fastLimit m bits) s = .next t ∧ t.cutting (s.fld F.FRG_FLD_BAY m) = true
      ∧ (∀ p ∈ s.members (s.fld F.FRG_FLD_BAY m), (t.phase p).high = false) ∧ CellsKept [(.FRG_BAY_STAT, s.fld F.FRG_FLD_BAY m)] s t ∧ MemKept s t)
  ∧ (∀ (s : State) (m : Nat) (bits : List Bool), s.runs 4 = true → s.fastFed m = true → (s.fastBits m bits).fastOut m = false →
    ∃ t, exec (.fastLimitEnd m bits) s = .next t
      ∧ m ∉ (t.bay (s.fld F.FRG_FLD_BAY m)).fast ∧ t = { s with frg := t.frg } ∧ t.frg.phases = s.frg.phases)
  ∧ (∀ (s : State) (b v k a : Nat), s.runs 4 = true → (s.bay b).step = some (v, k, a) → s.fld F.FRG_BAY_SHED_SHED_RAMP b ≤ k →
    ∃ t, exec (.shedStepEnd b) s = .next t ∧ (t.phase v).shed = true ∧ (t.phase v).high = false ∧ (t.phase v).low = false
      ∧ (t.bay b).step = none ∧ t.fld F.FRG_BAY_STAT_SHED b = 2 ∧ t.flag F.FRG_PH_STAT_SHED v = true ∧ MemKept s t)
  ∧ (∀ (s : State) (b : Nat), s.runs 4 = true → s.fld F.FRG_BAY_STAT_SHED b = 3 →
    (s.bay b).holdFrom + s.fld F.FRG_BAY_SHED_HOLD b * 10 ≤ s.heat → exec (.shedHoldEnd b) s = .next (s.setFld F.FRG_BAY_STAT_SHED b 0))
  ∧ (∀ (s : State) (p : Nat), s.runs 4 = true → 100 ≤ (s.phase p).atMax →
    exec (.trimLimit p) s = .next ((s.onPhase p fun y => { y with atMax := 0 }).report 0x0382 p))

/-- R115, R116, R118, R120: a driver fault (CAUSE 3) and a sense loss (CAUSE 1) drop their phase, whose gates go off, and GDF and WIN show
the inputs; a drop clears only while RUN = 0 and is otherwise refused with 0307h; a fault whose cause has ended is released at the next
marker, and a release is otherwise refused with 0307h. Completes: DRIVER_FAULT, SENSE_LOSS, DROP_CLEAR, RELEASE (the last two as writes that
reach their register). -/
def Obligations.DropsAndReleasesFollowTheirConditions : Prop :=
  (∀ (s : State) (p b : Nat), s.runs 4 = true → s.phaseBay p = some b → s.dropped p = false → ∃ t, exec (.driverFault p true) s = .next t
    ∧ t.dropped p = true ∧ t.fld F.FRG_PH_STAT_CAUSE p = 3 ∧ t.flag F.FRG_PH_STAT_GDF p = true ∧ (t.phase p).high = false ∧ (t.phase p).low = false
    ∧ (⟨0x0304, p⟩ : Report) ∈ t.reports.drop s.reports.length ∧ MemKept s t)
  ∧ (∀ (s : State) (p : Nat), s.runs 4 = true → p < s.phaseCount →
    exec (.driverFault p false) s = .next (s.setFlag F.FRG_PH_STAT_GDF p false))
  ∧ (∀ (s : State) (p b : Nat) (cs : Int), s.runs 4 = true → s.standby = false → s.phaseBay p = some b → s.dropped p = false →
    cs < -150 ∨ 1350 < cs → ∃ t, exec (.senseLoss p cs) s = .next t
    ∧ t.dropped p = true ∧ t.fld F.FRG_PH_STAT_CAUSE p = 1 ∧ t.flag F.FRG_PH_STAT_WIN p = true ∧ (t.phase p).high = false ∧ (t.phase p).low = false
    ∧ (⟨0x0302, p⟩ : Report) ∈ t.reports.drop s.reports.length ∧ MemKept s t)
  ∧ (∀ (s : State) (p b : Nat) (cs : Int), s.runs 4 = true → s.standby = false → s.phaseBay p = some b → -150 ≤ cs → cs ≤ 1350 →
    exec (.senseLoss p cs) s = .next (s.setFlag F.FRG_PH_STAT_WIN p false))
  ∧ (∀ (s : State) (who : Initiator) (p b : Nat), ReachesReg s who .FRG_PH_STAT p → s.phaseBay p = some b → s.fld F.FRG_BAY_CTL_RUN b = 0 →
    ∃ t, exec (.dropClear who p) s = .next t ∧ t.dropped p = false ∧ t.flag F.FRG_PH_STAT_GDF p = s.flag F.FRG_PH_STAT_GDF p
      ∧ t.flag F.FRG_PH_STAT_WIN p = s.flag F.FRG_PH_STAT_WIN p ∧ t.reports = s.reports ∧ MemKept s t)
  ∧ (∀ (s : State) (who : Initiator) (p b : Nat), ReachesReg s who .FRG_PH_STAT p → s.phaseBay p = some b → s.fld F.FRG_BAY_CTL_RUN b ≠ 0 →
    ∃ t, exec (.dropClear who p) s = .next t ∧ t.dropped p = s.dropped p ∧ t.reports = s.reports ++ [⟨0x0307, p⟩] ∧ t.frg = s.frg)
  ∧ (∀ (s : State) (who : Initiator) (b : Nat), ReachesReg s who .FRG_BAY_CTL b → s.flag F.FRG_BAY_STAT_FAULT b = true → s.causeEnded b = true →
    exec (.release who b) s = .next { (served s who).onBay b (fun x => { x with release := true }) with resp := .done })
  ∧ (∀ (s : State) (who : Initiator) (b : Nat), ReachesReg s who .FRG_BAY_CTL b → s.flag F.FRG_BAY_STAT_FAULT b = false ∨ s.causeEnded b = false →
    exec (.release who b) s = .next { (served s who).report 0x0307 b with resp := .done })

/-! ### Calfin -/

/-- R133, R138 (FMT = 0): MACZ sets an accumulator to the exact product and its exponent to the sum; MAC and MSU align the product to the
accumulator's exponent and add or subtract it, AADD the other accumulator; ASH adds to the exponent; MOVA writes the accumulator into a
register. Accumulators saturate at 56 bits with OVF and exponents clamp with EXP; nothing else of the device changes. Completes: MACZ, MAC,
MSU, MOVA, ASH, AADD with FMT = 0. -/
def Obligations.BlockFloatingMacSlot : Prop :=
  ∀ (s : State) (e : Nat) (b : Option Nat) (g : Program) (a : Bool) (ka kb : Nat) (imm : Int), SlotRuns s e b g → g.fmt = 0 →
    let u := issued s e b
    let p := u.km e ka * u.km e kb
    let x := u.ke e ka + u.ke e kb
    (∃ t, exec (.macz e b a ka kb) s = .next t ∧ EngineBecomes u t e (accTo a p x false))
    ∧ (∃ t, exec (.mac e b a ka kb) s = .next t
      ∧ EngineBecomes u t e (accTo a (u.acc e a + (accAlign p x (u.accE e a)).1) (u.accE e a) (accAlign p x (u.accE e a)).2))
    ∧ (∃ t, exec (.msu e b a ka kb) s = .next t
      ∧ EngineBecomes u t e (accTo a (u.acc e a - (accAlign p x (u.accE e a)).1) (u.accE e a) (accAlign p x (u.accE e a)).2))
    ∧ (∃ t, exec (.aadd e b a) s = .next t ∧ EngineBecomes u t e (accTo a (u.acc e a + (accAlign (u.acc e (!a)) (u.accE e (!a)) (u.accE e a)).1)
      (u.accE e a) (accAlign (u.acc e (!a)) (u.accE e (!a)) (u.accE e a)).2))
    ∧ (∃ t, exec (.ash e b a imm) s = .next t ∧ EngineBecomes u t e (accTo a (u.acc e a) (u.accE e a + imm) false))
    ∧ (∃ t, exec (.mova e b a ka) s = .next t
      ∧ EngineBecomes u t e (mantissaTo ka (scaleRound (u.acc e a) (u.accE e a - 46 - u.ke e ka + 23)) false))

/-- R132, R134, R139 (FMT = 0): ADD, SUB, ABS, NEG and MOVK bring their operands to the destination's stage and are exact and saturated;
MIN, MAX, CLMP and SELN choose by exact value before the alignment; SCL scales; NRM shifts the mantissas of a stage against its exponent, and
SETE sets it; LDI and ADDI are 32-bit integers. Only the destination, the stage and the flags of the engine change. Completes: ADD, SUB, MIN,
MAX, ABS, NEG, CLMP, SELN, SCL, NRM, SETE, LDI, ADDI, MOVK with FMT = 0. -/
def Obligations.BlockFloatingAluSlot : Prop :=
  ∀ (s : State) (e : Nat) (b : Option Nat) (g : Program) (kd k1 k2 st h : Nat) (n : Int), SlotRuns s e b g → g.fmt = 0 →
    let u := issued s e b
    let x := u.aligned e k1 kd
    let y := u.aligned e k2 kd
    let pick (r : Nat) : Engine → Engine := mantissaTo kd (u.aligned e r kd).1 (u.aligned e r kd).2
    let lesser (p q : Nat) : Nat := if (u.kval e q).lt (u.kval e p) then q else p
    let greater (p q : Nat) : Nat := if (u.kval e p).lt (u.kval e q) then q else p
    (∃ t, exec (.add e b kd k1 k2) s = .next t ∧ EngineBecomes u t e (mantissaTo kd (x.1 + y.1) (x.2 || y.2)))
    ∧ (∃ t, exec (.sub e b kd k1 k2) s = .next t ∧ EngineBecomes u t e (mantissaTo kd (x.1 - y.1) (x.2 || y.2)))
    ∧ (∃ t, exec (.min e b kd k1 k2) s = .next t ∧ EngineBecomes u t e (pick (lesser k1 k2)))
    ∧ (∃ t, exec (.max e b kd k1 k2) s = .next t ∧ EngineBecomes u t e (pick (greater k1 k2)))
    ∧ (∃ t, exec (.clmp e b kd k1 k2) s = .next t ∧ EngineBecomes u t e (pick (lesser (greater kd k1) k2)))
    ∧ (∃ t, exec (.seln e b kd k1 k2) s = .next t ∧ EngineBecomes u t e (if u.km e k2 < 0 then pick k1 else id))
    ∧ (∃ t, exec (.abs e b kd k1) s = .next t ∧ EngineBecomes u t e (mantissaTo kd x.1.natAbs x.2))
    ∧ (∃ t, exec (.neg e b kd k1) s = .next t ∧ EngineBecomes u t e (mantissaTo kd (-x.1) x.2))
    ∧ (∃ t, exec (.movk e b kd k1) s = .next t ∧ EngineBecomes u t e (mantissaTo kd x.1 x.2))
    ∧ (∃ t, exec (.scl e b kd n) s = .next t ∧ EngineBecomes u t e (mantissaTo kd (scaleRound (u.km e kd) n) false))
    ∧ (∃ t, exec (.sete e b st n) s = .next t
      ∧ EngineBecomes u t e fun y => { y with now := { y.now with ex := y.now.ex.set st (signed 8 (unsignedOf 8 n)) } })
    ∧ (∃ t, exec (.nrm e b st h) s = .next t ∧ t = { u with clf := t.clf, scb := t.scb } ∧ (∀ i, i ≠ e → t.eng i = u.eng i)
      ∧ ((∀ r, 4 * st ≤ r → r < 4 * st + 4 → u.km e r = 0) → t.eng e = u.eng e)
      ∧ ((∃ r, 4 * st ≤ r ∧ r < 4 * st + 4 ∧ u.km e r ≠ 0) →
        (∀ r, r ≠ 0 → (t.eng e).now.k.get r = if 4 * st ≤ r ∧ r < 4 * st + 4 then bfWord (scaleRound (u.km e r) (normShift u e st h)) 0
          else (u.eng e).now.k.get r)
        ∧ (t.eng e).now.ex.get st = (u.eng e).seen.ex.get st - normShift u e st h))
    ∧ (∃ t, exec (.ldi e b kd n) s = .next t ∧ EngineBecomes u t e (wordTo kd (BitVec.ofInt 32 n)))
    ∧ (∃ t, exec (.addi e b kd n) s = .next t ∧ EngineBecomes u t e (wordTo kd (u.k e kd + BitVec.ofInt 32 n)))

/-- R136 (FMT = 1): the MAC and ALU slots compute in binary32 with their OVF and INV, a NaN operand of SELN's test leaves the register and
sets INV, MOVA and MOVK copy, LDI and ADDI are 32-bit integers, and NRM and SETE stop the program with cause 2. Completes with FMT = 1: MACZ,
MAC, MSU, MOVA, ASH, AADD, ADD, SUB, MIN, MAX, ABS, NEG, CLMP, SELN, SCL, LDI, ADDI, MOVK. -/
def Obligations.Binary32Slots : Prop :=
  ∀ (s : State) (e : Nat) (b : Option Nat) (g : Program) (a : Bool) (ka kb kd k1 k2 st h : Nat) (n : Int), SlotRuns s e b g → g.fmt ≠ 0 →
    let u := issued s e b
    (∃ t, exec (.macz e b a ka kb) s = .next t ∧ EngineBecomes u t e (floatAccTo a (fpMul (u.k e ka) (u.k e kb))))
    ∧ (∃ t, exec (.mac e b a ka kb) s = .next t ∧ EngineBecomes u t e (floatAccTo a (fpFma false (u.accF e a) (u.k e ka) (u.k e kb))))
    ∧ (∃ t, exec (.msu e b a ka kb) s = .next t ∧ EngineBecomes u t e (floatAccTo a (fpFma true (u.accF e a) (u.k e ka) (u.k e kb))))
    ∧ (∃ t, exec (.aadd e b a) s = .next t ∧ EngineBecomes u t e (floatAccTo a (fpAdd (u.accF e a) (u.accF e (!a)))))
    ∧ (∃ t, exec (.ash e b a n) s = .next t ∧ EngineBecomes u t e (floatAccTo a (fpScale (u.accF e a) n)))
    ∧ (∃ t, exec (.mova e b a ka) s = .next t ∧ EngineBecomes u t e (wordTo ka (u.accF e a)))
    ∧ (∃ t, exec (.add e b kd k1 k2) s = .next t ∧ EngineBecomes u t e (floatTo kd (fpAdd (u.k e k1) (u.k e k2))))
    ∧ (∃ t, exec (.sub e b kd k1 k2) s = .next t ∧ EngineBecomes u t e (floatTo kd (fpSub (u.k e k1) (u.k e k2))))
    ∧ (∃ t, exec (.min e b kd k1 k2) s = .next t ∧ EngineBecomes u t e (floatTo kd (fpPick true (u.k e k1) (u.k e k2))))
    ∧ (∃ t, exec (.max e b kd k1 k2) s = .next t ∧ EngineBecomes u t e (floatTo kd (fpPick false (u.k e k1) (u.k e k2))))
    ∧ (∃ t, exec (.abs e b kd k1) s = .next t ∧ EngineBecomes u t e (floatTo kd (fpSign (u.k e k1) fun _ => false)))
    ∧ (∃ t, exec (.neg e b kd k1) s = .next t ∧ EngineBecomes u t e (floatTo kd (fpSign (u.k e k1) fun x => !x)))
    ∧ (∃ t, exec (.clmp e b kd k1 k2) s = .next t ∧ EngineBecomes u t e (floatTo kd (fpClamp (u.k e kd) (u.k e k1) (u.k e k2))))
    ∧ (fpOf true (u.k e k2) = .nan → ∃ t, exec (.seln e b kd k1 k2) s = .next t ∧ EngineBecomes u t e fun y => { y with inv := true })
    ∧ (fpOf true (u.k e k2) ≠ .nan → ∃ t, exec (.seln e b kd k1 k2) s = .next t
      ∧ EngineBecomes u t e (if fpLt (fpOf true (u.k e k2)) (.zero false) = true then
          floatTo kd (if fpOf true (u.k e k1) = .nan then .bad else ⟨fpFlush (u.k e k1), false, false⟩) else id))
    ∧ (∃ t, exec (.ldi e b kd n) s = .next t ∧ EngineBecomes u t e (wordTo kd (BitVec.ofInt 32 n)))
    ∧ (∃ t, exec (.addi e b kd n) s = .next t ∧ EngineBecomes u t e (wordTo kd (u.k e kd + BitVec.ofInt 32 n)))
    ∧ (∃ t, exec (.scl e b kd n) s = .next t ∧ EngineBecomes u t e (floatTo kd (fpScale (u.k e kd) n)))
    ∧ (∃ t, exec (.movk e b kd k1) s = .next t ∧ EngineBecomes u t e (wordTo kd (u.k e k1)))
    ∧ (∃ t, exec (.nrm e b st h) s = .next t ∧ ProgramStopped e 2 t) ∧ (∃ t, exec (.sete e b st n) s = .next t ∧ ProgramStopped e 2 t)

/-- R125, R129, R137, R139, R142, R150, R152: a first slot issues its bundle, whose slots read the registers as they then are; a branch tests the whole
word, QF or RUN at the instance's start, and its target counts from its own bundle; JMP names its bundle; WAIT stalls until its arrival
bit is set; PUB and FEC mark a register for END, the later mark of a result or monitor replacing the earlier. A bundle spells its slots'
commands by their fields, and one with a reserved opcode stops its program with cause 2. Completes: BEQZ, BNEZ, BLTZ, BGEZ, BQS, BRUN, JMP,
WAIT, PUB, FEC. -/
def Obligations.BranchesWaitAndMarks : Prop :=
  (∀ (s : State) (e k : Nat), ((issued s e (some k)).eng e).seen = (s.eng e).now ∧ ((issued s e (some k)).eng e).now = (s.eng e).now
    ∧ ((issued s e (some k)).eng e).bundle = (s.eng e).after + k ∧ ((issued s e (some k)).eng e).after = (s.eng e).after + k + 1
    ∧ RegsKept [] s (issued s e (some k)) ∧ MemKept s (issued s e (some k)))
  ∧ bundleOps 0 0 0 0x225A00A94E1A0240 = some [.mac 0 (some 0) false 9 13, .add 0 none 10 10 14, .ld 0 none 20 0x240]
  ∧ reservedBundle 0x7000000000000000 = true
  ∧ (∀ (s : State) (e : Nat) (b : Option Nat) (g : Program) (c : Instr) (kd k1 k2 : Nat), Fetches s e b g →
    reservedBundle ((issued s e b).fetched e) = true → c = .macz e b false k1 k2 ∨ c = .add e b kd k1 k2 ∨ c = .ld e b kd k1 →
    ∃ t, exec c s = .next t ∧ ProgramStopped e 2 t)
  ∧ (∀ (s : State) (e : Nat) (b : Option Nat) (bit : Nat), bitOf (s.eng e).arrival (bit % 256) = false → exec (.wait e b bit) s = .next s)
  ∧ ∀ (s : State) (e : Nat) (b : Option Nat) (g : Program) (k1 r bit target : Nat) (ofs : Int), SlotRuns s e b g →
    let u := issued s e b
    let i : Int := (u.eng e).bundle + ofs
    (∃ t, exec (.beqz e b k1 ofs) s = .next t ∧ EngineBecomes u t e (jumpTo (decide (u.k e k1 = 0)) i))
    ∧ (∃ t, exec (.bnez e b k1 ofs) s = .next t ∧ EngineBecomes u t e (jumpTo (decide (u.k e k1 ≠ 0)) i))
    ∧ (∃ t, exec (.bltz e b k1 ofs) s = .next t ∧ EngineBecomes u t e (jumpTo (u.k e k1).msb i))
    ∧ (∃ t, exec (.bgez e b k1 ofs) s = .next t ∧ EngineBecomes u t e (jumpTo (!(u.k e k1).msb) i))
    ∧ (∃ t, exec (.bqs e b ofs) s = .next t ∧ EngineBecomes u t e (jumpTo (u.eng e).qf i))
    ∧ (∃ t, exec (.brun e b ofs) s = .next t ∧ EngineBecomes u t e (jumpTo (u.eng e).runAtStart i))
    ∧ (∃ t, exec (.jmp e b target) s = .next t ∧ EngineBecomes u t e (jumpTo true target))
    ∧ (bitOf (s.eng e).arrival (bit % 256) = true → ∃ t, exec (.wait e b bit) s = .next t ∧ EngineBecomes u t e id)
    ∧ (∃ t, exec (.pub e b k1 r) s = .next t
      ∧ EngineBecomes u t e fun x => { x with pubs := x.pubs.filter (fun c => decide (c.1 ≠ r % 16)) ++ [(r % 16, u.word g e k1)] })
    ∧ (∃ t, exec (.fec e b k1 r) s = .next t
      ∧ EngineBecomes u t e fun x => { x with fecs := x.fecs.filter (fun c => decide (c.1 ≠ r % 4)) ++ [(r % 4, u.word g e k1)] })

/-- R135, R140, R142: LD, LDX and LDC bring a BF32 word to the destination's stage (32 bits unchanged with FMT = 1), LDW moves it unchanged,
LDQ converts VALUE ÷ 16 and sets QF by QUAL and arrival, LDP converts a point that holds a number and sets QF unless it is good (for an ACQ
point also by QUAL), and of a point without a number it gives 0 or a limit with QF; an index outside the local memory and a word with a
double-bit error stop the program with cause 3. Which limit a NaN gives is free (log entry 30). Completes: LD, LDX, LDC, LDQ, LDW,
LDP. -/
def Obligations.LoadsReadTheEngineMemory : Prop :=
  ∀ (s : State) (e : Nat) (b : Option Nat) (g : Program) (kd kb addr : Nat) (ofs : Int), SlotRuns s e b g →
    let u := issued s e b
    let at_ (a : Nat) : W32 := BitVec.ofNat 32 (u.le a 4)
    let bf (w : W32) : Engine → Engine := if g.fmt = 0 then mantissaTo kd (align24 (bfM w) (bfE w) (u.ke e kd)).1 (align24 (bfM w) (bfE w) (u.ke e kd)).2
      else wordTo kd w
    let i : Int := (u.k e kb).toInt + ofs
    let q (c : Bool) (f : Engine → Engine) : Engine → Engine := fun x => { f x with qf := (f x).qf || c }
    (u.eccAt (engineWord e addr) = false →
      (∃ t, exec (.ld e b kd addr) s = .next t ∧ EngineBecomes u t e (bf (at_ (engineWord e addr))))
      ∧ (∃ t, exec (.ldw e b kd addr) s = .next t ∧ EngineBecomes u t e (wordTo kd (at_ (engineWord e addr))))
      ∧ (∃ t, exec (.ldq e b kd addr) s = .next t ∧ EngineBecomes u t e
        (q (decide (g.qthr ≤ (at_ (engineWord e addr)).toNat / 2 ^ 29) || (decide (addr < 256) && !bitOf (u.eng e).arrival addr))
          (if g.fmt = 0 then mantissaTo kd (scaleRound (signed 18 (at_ (engineWord e addr)).toNat) (19 - u.ke e kd)) false
            else wordTo kd (fpOfDy true false ⟨signed 18 (at_ (engineWord e addr)).toNat, -4⟩).1))))
    ∧ (u.eccAt (engineWord e addr) = true → (∃ t, exec (.ld e b kd addr) s = .next t ∧ ProgramStopped e 3 t)
      ∧ (∃ t, exec (.ldw e b kd addr) s = .next t ∧ ProgramStopped e 3 t) ∧ (∃ t, exec (.ldq e b kd addr) s = .next t ∧ ProgramStopped e 3 t))
    ∧ (u.eccAt (u.constBase e + 4 * (addr % 4096)) = false →
      ∃ t, exec (.ldc e b kd addr) s = .next t ∧ EngineBecomes u t e (bf (at_ (u.constBase e + 4 * (addr % 4096)))))
    ∧ (0 ≤ i → i < 32768 → u.eccAt (engineWord e i.toNat) = false →
      ∃ t, exec (.ldx e b kd kb ofs) s = .next t ∧ EngineBecomes u t e (bf (at_ (engineWord e i.toNat))))
    ∧ (i < 0 ∨ 32768 ≤ i → ∃ t, exec (.ldx e b kd kb ofs) s = .next t ∧ ProgramStopped e 3 t)
    ∧ (∀ x, pointNum (u.pointType ((u.k e kb).toNat % 2 ^ 18)) (u.point ((u.k e kb).toNat % 2 ^ 18)).value = some (.num x) →
      ∃ t, exec (.ldp e b kd kb) s = .next t ∧ EngineBecomes u t e (q (u.pointDoubt g ((u.k e kb).toNat % 2 ^ 18))
        (if g.fmt = 0 then fun y => mantissaTo kd (align24 (bfM (toBf x).1) (bfE (toBf x).1) (u.ke e kd)).1
            ((align24 (bfM (toBf x).1) (bfE (toBf x).1) (u.ke e kd)).2 || (toBf x).2) y
          else fun y => { wordTo kd (fpOfDy true false x).1 y with ovf := y.ovf || (fpOfDy true false x).2 })))
    ∧ (pointNum (u.pointType ((u.k e kb).toNat % 2 ^ 18)) (u.point ((u.k e kb).toNat % 2 ^ 18)).value = none →
      ∃ t, exec (.ldp e b kd kb) s = .next t ∧ EngineBecomes u t e (q true (if g.fmt = 0 then
        mantissaTo kd (align24 (bfM (toBf ⟨0, 0⟩).1) (bfE (toBf ⟨0, 0⟩).1) (u.ke e kd)).1 false else wordTo kd 0)))
    ∧ (∀ y, pointNum (u.pointType ((u.k e kb).toNat % 2 ^ 18)) (u.point ((u.k e kb).toNat % 2 ^ 18)).value = some y → (∀ x, y ≠ .num x) →
      ∃ t neg, exec (.ldp e b kd kb) s = .next t ∧ (∀ n, y = .inf n → neg = n) ∧ (∀ i, i ≠ e → t.eng i = u.eng i)
        ∧ t.eng e = q true (if g.fmt = 0 then fun z => { bf (bfWord (if neg then bfMin else bfMax) 127) z with ovf := true }
          else wordTo kd (if neg then 0xFF7FFFFF#32 else 0x7F7FFFFF#32)) (u.eng e)
        ∧ t = { u with clf := t.clf, scb := t.scb, freeCtr := t.freeCtr })

/-- R128, R140, R142: a store to a word of the state window is held until END, one to the scratch memory is written at once and changes no
other byte, and one to the input table or the mailbox, or by an index outside the local memory, stops the program with cause 3. Completes: ST,
STX, STW. -/
def Obligations.StoresAreHeldWrittenOrStop : Prop :=
  ∀ (s : State) (e : Nat) (b : Option Nat) (g : Program) (kd kb addr : Nat) (ofs : Int), SlotRuns s e b g →
    let u := issued s e b
    let i : Int := (u.k e kb).toInt + ofs
    ∀ (c : Instr) (w : Nat) (v : W32), (c = .st e b kd addr ∧ w = addr ∧ v = u.word g e kd) ∨ (c = .stw e b kd addr ∧ w = addr ∧ v = u.k e kd)
        ∨ (c = .stx e b kd kb ofs ∧ 0 ≤ i ∧ i < 32768 ∧ w = i.toNat ∧ v = u.word g e kd) →
      (w < 512 → ∃ t, exec c s = .next t ∧ ProgramStopped e 3 t ∧ MemKept u t)
      ∧ (512 ≤ w → w < 4608 → ∃ t, exec c s = .next t
        ∧ EngineBecomes u t e fun x => { x with held := x.held.filter (fun c => decide (c.1 ≠ w)) ++ [(w, v)] })
      ∧ (4608 ≤ w → ∃ t, exec c s = .next t ∧ t = { u with mem := t.mem, ecc := t.ecc, scb := t.scb } ∧ t.le (engineWord e w) 4 = v.toNat
        ∧ ∀ a, a < engineWord e w ∨ engineWord e w + 4 ≤ a → t.byte a = u.byte a)
      ∧ (i < 0 ∨ 32768 ≤ i → ∃ t, exec (.stx e b kd kb ofs) s = .next t ∧ ProgramStopped e 3 t)

/-- R142, R150, R152: END leaves the instance DONE with its overrun count at 0, writes the held stores, and publishes each marked result with
READY = 1 and HELD = 0. Completes: END. -/
def Obligations.EndCommitsTheInstance : Prop :=
  ∀ (s : State) (e : Nat) (b : Option Nat) (g : Program) (n : Nat), SlotRuns s e b g → ∃ t, exec (.endInst e b n) s = .next t
    ∧ t.fld F.CLF_ENG_STAT_STATE e = 2 ∧ t.fld F.CLF_ENG_STAT_OVR_CONSEC e = 0 ∧ t.overruns (.program e) = 0
    ∧ (t.eng e).held = [] ∧ (t.eng e).pubs = [] ∧ (t.eng e).fecs = []
    ∧ t.mem = (((issued s e b).eng e).held.foldl (fun x c => x.setLe (engineWord e c.1) 4 c.2.toNat) (issued s e b)).mem
    ∧ (∀ r v, (((issued s e b).eng e).pubs.map Prod.fst).Nodup → (r, v) ∈ ((issued s e b).eng e).pubs →
      t.reg .CLF_RES_LO (e * 16 + r) = v ∧ t.fld F.CLF_RES_HI_READY (e * 16 + r) = 1 ∧ t.fld F.CLF_RES_HI_HELD (e * 16 + r) = 0)
    ∧ (∀ j, (∀ r v, (r, v) ∈ ((issued s e b).eng e).pubs → j ≠ e * 16 + r) →
      t.reg .CLF_RES_LO j = s.reg .CLF_RES_LO j ∧ t.reg .CLF_RES_HI j = s.reg .CLF_RES_HI j)

/-- R33, R150, R153, R156: a monitor whose COUNT reaches TIMER trips once; a write of TRIP clears it and its COUNT; RESTART is accepted only
on a stopped program and HALT only on one that is not stopped and whose bay is off, and both are otherwise refused with 0404h; a read of a
result register, whole or of its LO half, answers it with STALE where READY is 0 and READ_BEFORE where the reader's mark stands, and sets the
mark; a read of the HI half answers the shadow, or the live half, and marks nothing. Completes: FOLLOW_TRIP, TRIP_CLEAR, CALFIN_RESTART,
HALT, RESULT_READ (the last four as accesses that reach their register). -/
def Obligations.MonitorsProgramControlAndResultReads : Prop :=
  (∀ (s : State) (e m : Nat) (x : Monitor), s.runs 2 = true → s.monitor e m = some x → s.flag F.CLF_FE_STAT_TRIP (e * 4 + m) = false →
    x.timer ≤ s.fld F.CLF_FE_STAT_COUNT (e * 4 + m) → ∃ t, exec (.followTrip e m) s = .next t ∧ t.flag F.CLF_FE_STAT_TRIP (e * 4 + m) = true
      ∧ (x.action = 0 → t.reports = s.reports ++ [⟨0x0481, e * 4 + m⟩] ∧ t.clf = s.clf)
      ∧ (x.action ≠ 0 → t.reports = s.reports ++ [⟨0x0403, e * 4 + m⟩] ∧ (t.eng e).tripped = true)
      ∧ CellsKept [(.CLF_FE_STAT, e * 4 + m)] s t ∧ MemKept s t)
  ∧ (∀ (s : State) (e m : Nat) (x : Monitor), s.monitor e m = some x → s.flag F.CLF_FE_STAT_TRIP (e * 4 + m) = true
    ∨ s.fld F.CLF_FE_STAT_COUNT (e * 4 + m) < x.timer → exec (.followTrip e m) s = .next s)
  ∧ (∀ (s : State) (who : Initiator) (e m : Nat), ReachesReg s who .CLF_FE_STAT (e * 4 + m) → ∃ t, exec (.tripClear who e m) s = .next t
    ∧ t.flag F.CLF_FE_STAT_TRIP (e * 4 + m) = false ∧ t.fld F.CLF_FE_STAT_COUNT (e * 4 + m) = 0
    ∧ CellsKept [(.CLF_FE_STAT, e * 4 + m)] s t ∧ t = { served s who with regs := t.regs, resp := .done })
  ∧ (∀ (s : State) (who : Initiator) (e : Nat), ReachesReg s who .CLF_ENG_CTL e →
    ((s.program e).isSome = true → s.fld F.CLF_ENG_STAT_STATE e = 3 →
      exec (.calfinRestart who e) s = .next { (served s who).onEng e (fun x => { x with restart := true }) with resp := .done })
    ∧ (s.program e = none ∨ s.fld F.CLF_ENG_STAT_STATE e ≠ 3 →
      exec (.calfinRestart who e) s = .next { (served s who).report 0x0404 e with resp := .done })
    ∧ ((s.program e).isSome = true → s.fld F.CLF_ENG_STAT_STATE e ≠ 3 → (∀ b, s.engineBay e = some b → s.flag F.FRG_BAY_CTL_RUN b = false) →
      exec (.halt who e) s = .next { (served s who).onEng e (fun x => { x with halt := true }) with resp := .done })
    ∧ (s.program e = none ∨ s.fld F.CLF_ENG_STAT_STATE e = 3 ∨ (∃ b, s.engineBay e = some b ∧ s.flag F.FRG_BAY_CTL_RUN b = true) →
      exec (.halt who e) s = .next { (served s who).report 0x0404 e with resp := .done }))
  ∧ (∀ (s : State) (w : Initiator) (e r : Nat), ReachesReg s w .CLF_RES_LO (e * 16 + r) →
    F.CLF_RES_HI_STALE.of (s.resultHi w e r) = (if s.fld F.CLF_RES_HI_READY (e * 16 + r) = 0 then 1 else 0)
    ∧ F.CLF_RES_HI_READ_BEFORE.of (s.resultHi w e r) = (if (readerOf w, r) ∈ (s.eng e).marks then 1 else 0)
    ∧ (∃ t, exec (.resultRead w e r .whole) s = .next t
      ∧ t.resp = .data (leBytes 4 (s.reg .CLF_RES_LO (e * 16 + r)).toNat ++ leBytes 4 (s.resultHi w e r).toNat)
      ∧ (readerOf w, r) ∈ (t.eng e).marks ∧ t = { servedRead s w 8 with clf := t.clf, resp := t.resp })
    ∧ (∃ t, exec (.resultRead w e r .lo) s = .next t ∧ t.resp = .data (leBytes 4 (s.reg .CLF_RES_LO (e * 16 + r)).toNat)
      ∧ heldFor t.sys.shadows w .CLF_RES_HI (e * 16 + r) = some (s.resultHi w e r)
      ∧ (readerOf w, r) ∈ (t.eng e).marks ∧ t = { servedRead s w 4 with clf := t.clf, sys := t.sys, resp := t.resp }))
  ∧ (∀ (s : State) (w : Initiator) (e r : Nat), ReachesReg s w .CLF_RES_HI (e * 16 + r) → ∃ t, exec (.resultRead w e r .hi) s = .next t
    ∧ t.resp = .data (leBytes 4 ((heldFor s.sys.shadows w .CLF_RES_HI (e * 16 + r)).getD (s.resultHi w e r)).toNat)
    ∧ t = { servedRead s w 4 with sys := t.sys, resp := t.resp })

/-! ### Truss -/

/-- R161, R175, R176, R180: a demand write stores the demand, one that withdraws it rolls the window back (event 1), and one that renews it does
(event 2); a completed rebuild step appends its entry; TRS_CTL.ROLLBACK rolls back with cause 10 and a fall of the firmware's grid limit with
cause 6; a restart is refused with 0508h unless every grant is 0, and else rebuilds the window from an empty state; an input that was not good
for 10 heats is lost with 0507h. Completes: DEMAND_WRITE, ENTRY_REBUILT, TRS_ROLLBACK, TRS_RESTART, GRID_FW_WRITE, BUDGET_INVALID. -/
def Obligations.DemandsAndLimitsRollTheWindowBack : Prop :=
  (∀ (s : State) (who : Initiator) (o : Nat) (lo hi : W32), ReachesReg s who .TRS_OUT_DEM_LO o → ∃ t, exec (.demandWrite who o lo hi) s = .next t
    ∧ t.resp = .done ∧ t.reg .TRS_OUT_DEM_LO o = lo
    ∧ (s.detached o = false → t.reg .TRS_OUT_DEM_HI o = hi &&& Reg.TRS_OUT_DEM_HI.row.rw)
    ∧ (s.detached o = true → t.flag F.TRS_OUT_DEM_HI_VALID o = false)
    ∧ (∀ p, p ≠ o → t.reg .TRS_OUT_DEM_LO p = s.reg .TRS_OUT_DEM_LO p ∧ t.reg .TRS_OUT_DEM_HI p = s.reg .TRS_OUT_DEM_HI p)
    ∧ RegsKept [.TRS_OUT_DEM_LO, .TRS_OUT_DEM_HI, .TRS_LAST_EVENT, .TRS_RB_CNT, .TRS_STAT, .PNT_RING_PROD, .PNT_RING_STAT] s t
    ∧ (s.trussRuns = true → s.flag F.TRS_OUT_DEM_HI_VALID o = true → t.flag F.TRS_OUT_DEM_HI_VALID o = false →
      RolledBack 1 o ((s.setReg .TRS_OUT_DEM_LO o lo).setReg .TRS_OUT_DEM_HI o (t.reg .TRS_OUT_DEM_HI o)) t)
    ∧ (s.trussRuns = true → t.flag F.TRS_OUT_DEM_HI_VALID o = true →
      s.flag F.TRS_OUT_DEM_HI_VALID o = false ∨ s.fld F.TRS_OUT_DEM_HI_SEQ o ≠ t.fld F.TRS_OUT_DEM_HI_SEQ o →
      RolledBack 2 o ((s.setReg .TRS_OUT_DEM_LO o lo).setReg .TRS_OUT_DEM_HI o (t.reg .TRS_OUT_DEM_HI o)) t)
    ∧ (s.flag F.TRS_OUT_DEM_HI_VALID o = false → t.flag F.TRS_OUT_DEM_HI_VALID o = false → t.trs = s.trs ∧ t.reports = s.reports))
  ∧ (∀ (s : State) (k : Nat), s.runs 3 = true → s.trussRuns = true → s.trs.rebuild = some k → ∃ t, exec .entryRebuilt s = .next t
    ∧ t.trs.window = s.trs.window ++ [s.planEntry s.lastEntry (max k (s.heat + 1))] ∧ t.trs.committed = s.trs.committed
    ∧ t.trs.rebuild = (if max k (s.heat + 1) + 1 ≤ s.heat + s.fld F.TRS_CFG_DEPTH then some (max k (s.heat + 1) + 1) else none)
    ∧ t = { s with trs := t.trs, regs := t.regs } ∧ RegsKept [.TRS_STAT] s t)
  ∧ (∀ (s : State) (who : Initiator), ReachesReg s who .TRS_CTL 0 →
    (s.trussRuns = true → ∃ t, exec (.trsRollback who) s = .next t ∧ t.resp = .done ∧ RolledBack 10 0 s t)
    ∧ (s.trussRuns = false → exec (.trsRollback who) s = .next { served s who with resp := .done })
    ∧ ((∃ o < 32, s.fld F.TRS_OUT_STAT_GRANT o ≠ 0) → exec (.trsRestart who) s = .next { (served s who).report 0x0508 with resp := .done })
    ∧ ((∀ o < 32, s.fld F.TRS_OUT_STAT_GRANT o = 0) → s.fld F.TRS_STAT_STATE ≠ 2 →
      exec (.trsRestart who) s = .next { served s who with resp := .done })
    ∧ ((∀ o < 32, s.fld F.TRS_OUT_STAT_GRANT o = 0) → s.fld F.TRS_STAT_STATE = 2 → ∃ t, exec (.trsRestart who) s = .next t ∧ t.resp = .done
      ∧ t.fld F.TRS_STAT_STATE = 1 ∧ t.fld F.TRS_STAT_OVR_CONSEC = 0 ∧ t.trs = { s.trs with window := [], rebuild := some (s.heat + 1) }
      ∧ t.overruns .truss = 0 ∧ RegsKept [.TRS_STAT] s t ∧ MemKept s t ∧ t.reports = s.reports))
  ∧ (∀ (s : State) (who : Initiator) (v : W32), ReachesReg s who .TRS_GRID_FW 0 →
    (s.fld F.TRS_GRID_FW_LIMIT ≤ v.toNat → exec (.gridFwWrite who v) s = .next { (served s who).setReg .TRS_GRID_FW 0 v with resp := .done })
    ∧ (v.toNat < s.fld F.TRS_GRID_FW_LIMIT → ∃ t, exec (.gridFwWrite who v) s = .next t ∧ t.resp = .done ∧ t.reg .TRS_GRID_FW = v
      ∧ (s.trussRuns = true → RolledBack 6 0 (s.setReg .TRS_GRID_FW 0 v) t)
      ∧ (s.trussRuns = false → t.trs.window = s.trs.window ∧ RegsKept [.TRS_GRID_FW] s t)))
  ∧ (∀ (s : State) (h : Nat), s.runs 3 = true → h + 1000 ≤ s.now →
    (s.trs.budget.since = some h → s.trs.budget.gone = false →
      exec (.budgetInvalid .budget) s = .next (State.report { s with trs := { s.trs with budget := { s.trs.budget with gone := true } } } 0x0507 0))
    ∧ (s.trs.curtail.since = some h → s.trs.curtail.gone = false → s.inputBound .curtail = true →
      exec (.budgetInvalid .curtail) s = .next (State.report { s with trs := { s.trs with curtail := { s.trs.curtail with gone := true } } } 0x0507 1))
    ∧ (s.trs.aux.since = some h → s.trs.aux.gone = false → s.inputBound .aux = true →
      exec (.budgetInvalid .aux) s = .next (State.report { s with trs := { s.trs with aux := { s.trs.aux with gone := true } } } 0x0507 2)))
  ∧ ∀ (s : State) (which : Input), s.inputBound which = false → exec (.budgetInvalid which) s = .next s

/-- R165, R171, R173: a bay whose voltage did not match in its pre-charge time returns to OFF and its crosspoint is unusable for 100 heats
(0505h); feedback completes a close or an open, or is an unexpected fault (state 6, 0504h); a close and an open that the feedback does not
confirm fail with 0502h (state 4) and 0503h (state 5); a fault is cleared only while the feedback agrees with the command, otherwise 0508h;
after BAY_HOLD heats the highest-numbered bay of an output is released. Completes: PRECHARGE_TIMEOUT, CONTACTOR_FEEDBACK, FAIL_CLOSE, WELDED,
XP_FAULT_CLEAR, BAY_RELEASE. -/
def Obligations.CrosspointsFollowCommandAndFeedback : Prop :=
  (∀ (s : State) (b : Nat), s.runs 3 = true → (s.trs.committed.bays.get b).mode = 1 → (s.trs.committed.bays.get b).since + u8 s.topo 9 ≤ s.heat →
    s.xpState (s.trs.committed.bays.get b).xp = 0 → s.trs.match_.get b < 3 → ∃ t, exec (.prechargeTimeout b) s = .next t
      ∧ (t.trs.committed.bays.get b).mode = 0 ∧ (∀ c, c ≠ b → t.trs.committed.bays.get c = s.trs.committed.bays.get c)
      ∧ (t.trs.xps.get (s.trs.committed.bays.get b).xp).until_ = s.heat + 100
      ∧ (⟨0x0505, (s.trs.committed.bays.get b).xp⟩ : Report) ∈ t.reports.drop s.reports.length
      ∧ RegsKept [.TRS_STAT, .PNT_RING_PROD, .PNT_RING_STAT] s t)
  ∧ (∀ (s : State) (x n : Nat) (c : Bool), s.runs 3 = true → s.feedback x = some c → (c = true ∧ s.xpState x = 1 ∧ n = 2)
      ∨ (c = false ∧ s.xpState x = 3 ∧ n = 0) ∨ (c = false ∧ s.xpState x = 5 ∧ n = 0) → ∃ t, exec (.contactorFeedback x) s = .next t
    ∧ t.xpState x = n ∧ t.trs.committed = s.trs.committed ∧ t = { s with regs := t.regs, trs := t.trs } ∧ RegsKept [.TRS_XP_STAT, .TRS_STAT] s t
    ∧ ∀ y, y ≠ x → t.reg .TRS_XP_STAT y = s.reg .TRS_XP_STAT y)
  ∧ (∀ (s : State) (x : Nat) (c : Bool), s.runs 3 = true → s.feedback x = some c → (c = true ∧ s.xpState x = 0) ∨ (c = false ∧ s.xpState x = 2) →
    ∃ t, exec (.contactorFeedback x) s = .next t ∧ CrosspointFaulted x 6 0x0504 s t)
  ∧ (∀ (s : State) (x : Nat), s.feedback x = none ∨ (s.feedback x = some true ∧ s.xpState x ≠ 0 ∧ s.xpState x ≠ 1)
      ∨ (s.feedback x = some false ∧ s.xpState x ≠ 2 ∧ s.xpState x ≠ 3 ∧ s.xpState x ≠ 5) → exec (.contactorFeedback x) s = .next s)
  ∧ (∀ (s : State) (x : Nat), s.runs 3 = true → s.xpState x = 1 → (topoClass s.topo (topoXp s.topo x).cls).1 ≤ s.fld F.TRS_XP_STAT_TIMER x →
    s.feedback x ≠ some true → ∃ t, exec (.failClose x) s = .next t ∧ CrosspointFaulted x 4 0x0502 s t)
  ∧ (∀ (s : State) (x : Nat), s.runs 3 = true → s.xpState x = 3 → (topoClass s.topo (topoXp s.topo x).cls).2 ≤ s.fld F.TRS_XP_STAT_TIMER x →
    s.feedback x ≠ some false → ∃ t, exec (.welded x) s = .next t ∧ CrosspointFaulted x 5 0x0503 s t)
  ∧ (∀ (s : State) (who : Initiator) (x : Nat), ReachesReg s who .TRS_XP_STAT x →
    (s.feedback x ≠ some (s.trs.xps.get x).closed → exec (.xpFaultClear who x) s = .next { (served s who).report 0x0508 x with resp := .done })
    ∧ (s.feedback x = some (s.trs.xps.get x).closed → s.flag F.TRS_XP_STAT_FAULT x = false →
      exec (.xpFaultClear who x) s = .next { served s who with resp := .done })
    ∧ (s.feedback x = some (s.trs.xps.get x).closed → s.flag F.TRS_XP_STAT_FAULT x = true →
      exec (.xpFaultClear who x) s = .next { ((served s who).setFld F.TRS_XP_STAT_FAULT x 0).setFld F.TRS_XP_STAT_STATE x (if (s.trs.xps.get x).closed then 2 else 0) with resp := .done }))
  ∧ (∀ (s : State) (o : Nat) (c : Nat × BayPlan), s.runs 3 = true → u16 s.topo 0x0E ≤ (s.trs.committed.outs.get o).fewer →
    ((s.trs.committed.baysOf o).filter fun c => decide (c.2.mode ≠ 0) && !s.trs.leaving.contains c.1).getLast? = some c →
    ∃ t, exec (.bayRelease o) s = .next t
      ∧ t.trs.leaving = s.trs.leaving ++ [c.1] ∧ (t.trs.committed.outs.get o).fewer = 0 ∧ t.trs.committed.bays = s.trs.committed.bays
      ∧ t = { s with regs := t.regs, trs := t.trs } ∧ RegsKept [.TRS_STAT] s t)

/-- R183, R184: a valid record of a listed peer is kept and its age starts again; one of no listed peer is ignored; one that fails counts in
BAD of its device index (0 to 7) as a violation and is not kept; with no agreed heat within MISS_LIM heats the device enters FALLBACK with 0506h
and event 9, and leaves it after 10 consecutive heats with a current agreed heat. Completes: EXCHANGE_RECORD, PEER_FALLBACK, FALLBACK_END. -/
def Obligations.PeerRecordsAndFallback : Prop :=
  (∀ (s : State) (bytes : List Byte), s.runs 3 = true →
    let r := readRecord bytes
    let listed := s.siteDevs.find? fun d => decide (d.1 = r.dev ∧ r.dev ≠ s.ownDev)
    (listed.isSome = true → s.recordFault bytes (listed.map Prod.snd) = 0 → ∃ t, exec (.exchangeRecord bytes) s = .next t ∧ r ∈ t.trs.records
      ∧ t.fld F.TRS_PEER_STAT_AGE r.dev = 0)
    ∧ (listed = none → s.recordFault bytes none = 0 → exec (.exchangeRecord bytes) s = .next s)
    ∧ (s.recordFault bytes (listed.map Prod.snd) ≠ 0 → ∃ t, exec (.exchangeRecord bytes) s = .next t ∧ t.trs = s.trs
      ∧ (r.dev < 8 → t.fld F.TRS_PEER_STAT_BAD r.dev = min (s.fld F.TRS_PEER_STAT_BAD r.dev + 1) 255)
      ∧ t.fld F.NET_VIOL_CNT_COUNT = min (s.fld F.NET_VIOL_CNT_COUNT + 1) (2 ^ F.NET_VIOL_CNT_COUNT.width - 1)
      ∧ RegsKept [.TRS_PEER_STAT, .NET_VIOL_CNT, .PNT_RING_PROD, .PNT_RING_STAT] s t))
  ∧ (∀ s : State, s.runs 3 = true → 1 < s.siteDevs.length → (∀ h, s.agreed = some h → h + s.fld F.TRS_GRID_CFG_MISS_LIM < s.heat) →
    s.flag F.TRS_STAT_FALLBACK = false → ∃ t, exec .peerFallback s = .next t ∧ t.flag F.TRS_STAT_FALLBACK = true ∧ t.trs.current = 0
      ∧ (⟨0x0506, 0⟩ : Report) ∈ t.reports.drop s.reports.length
      ∧ (s.trussRuns = true → t.fld F.TRS_LAST_EVENT_CAUSE = 9 ∧ t.trs.rebuild.isSome = true)
      ∧ RegsKept [.TRS_STAT, .TRS_LAST_EVENT, .TRS_RB_CNT, .PNT_RING_PROD, .PNT_RING_STAT] s t)
  ∧ (∀ s : State, s.runs 3 = true → s.flag F.TRS_STAT_FALLBACK = true → 10 ≤ s.trs.current →
    exec .fallbackEnd s = .next (s.setFld F.TRS_STAT_FALLBACK 0 0))
  ∧ (∀ s : State, s.trs.current < 10 → exec .fallbackEnd s = .next s)

/-! ### Bellows and the die -/

/-- R190, R191, R193, R198, R200: a sample names the first broken sensor with SENSOR = 1 and 0601h and else counts as plausible; 10 plausible
samples at the fast rate end it, and the fast rate ends after 1 s without its conditions; a window whose heat balance, its last heat's model step
included, is off by more than TOL for the third time makes the cable SUSPECT with 0602h, and the sixth good window ends it; a loop with a broken
sensor or a suspect cable is cooled at 100 %, and every pump stays between PUMP_MIN and 100 %; a stopped Bellows is marked for its restart.
Completes: CABLE_SAMPLE, SENSOR_RECOVERED, FAST_SAMPLING_END, HEAT_BALANCE, COOLING_UPDATE, BELLOWS_RESTART. -/
def Obligations.CableSensorsBalanceAndCooling : Prop :=
  (∀ (s : State) (c : Nat) (r : CableRec), s.runs 3 = true → s.cable c = some r →
    let x := s.cbl c
    let n := brokenOf r (s.sampleOf c r.pIn x.tin (-40) 150 true) (s.sampleOf c r.pOut x.tout (-40) 150 true)
      (s.sampleOf c r.pFlow x.flow 0 200 false) (s.sampleOf c r.pCbl x.tcbl (-40) 150 true)
    ∃ t, exec (.cableSample c) s = .next t ∧ CellsKept [(.BLW_CBL_STAT, c)] s t ∧ MemKept s t ∧ (∀ d, d ≠ c → t.cbl d = s.cbl d)
      ∧ t.flag F.BLW_CBL_STAT_FLOW_LOW c = decide ((t.cbl c).flow.getD 0 < r.fmin)
      ∧ (n = 0 → (t.cbl c).good = x.good + 1 ∧ t.flag F.BLW_CBL_STAT_SENSOR c = s.flag F.BLW_CBL_STAT_SENSOR c ∧ t.reports = s.reports)
      ∧ (n ≠ 0 → (t.cbl c).good = 0 ∧ t.flag F.BLW_CBL_STAT_SENSOR c = true
        ∧ (s.flag F.BLW_CBL_STAT_SENSOR c = true → t.reports = s.reports ∧ t.fld F.BLW_CBL_STAT_BROKEN c = s.fld F.BLW_CBL_STAT_BROKEN c)
        ∧ (s.flag F.BLW_CBL_STAT_SENSOR c = false → t.reports = s.reports ++ [⟨0x0601, c⟩] ∧ t.fld F.BLW_CBL_STAT_BROKEN c = n)))
  ∧ (∀ (s : State) (c : Nat), s.cable c = none → exec (.cableSample c) s = .next s ∧ exec (.heatBalance c) s = .next s)
  ∧ (∀ (s : State) (c : Nat), s.runs 3 = true → s.flag F.BLW_CBL_STAT_SENSOR c = true → 10 ≤ (s.cbl c).good → s.flag F.BLW_CBL_STAT_FAST c = true →
    exec (.sensorRecovered c) s = .next ((s.setFlag F.BLW_CBL_STAT_SENSOR c false).setFld F.BLW_CBL_STAT_BROKEN c 0))
  ∧ (∀ (s : State) (c h : Nat), s.runs 3 = true → (s.cbl c).calm = some h → h + s.strokesIn 100000000 ≤ s.now →
    s.flag F.BLW_CBL_STAT_SENSOR c = false → exec (.fastSamplingEnd c) s = .next (s.setFlag F.BLW_CBL_STAT_FAST c false))
  ∧ (∀ (s : State) (c : Nat) (r : CableRec), s.runs 3 = true → s.cable c = some r →
    let u := s.cableHeat c
    let x := u.cbl c
    let n : Rat := x.heats
    let d := sub32 (div32 x.diss n) (div32 x.carry n)
    let tests := r.model = true ∧ r.fmin ≤ x.flow.getD 0 ∧ 500 < div32 x.diss n ∧ x.heats ≠ 0
    let off := mul32 (div32 r.tol 100) (div32 x.diss n) < (if d < 0 then -d else d)
    ∃ t, exec (.heatBalance c) s = .next t ∧ (t.cbl c).heats = 0 ∧ (t.cbl c).diss = 0 ∧ (t.cbl c).carry = 0 ∧ (t.cbl c).mean = none
      ∧ CellsKept [(.BLW_CBL_STAT, c)] s t ∧ (∀ d, d ≠ c → t.cbl d = s.cbl d)
      ∧ (tests → off → 2 ≤ x.bad → s.flag F.BLW_CBL_STAT_SUSPECT c = false →
        t.flag F.BLW_CBL_STAT_SUSPECT c = true ∧ t.reports = u.reports ++ [⟨0x0602, c⟩])
      ∧ (tests → off → x.bad < 2 → t.flag F.BLW_CBL_STAT_SUSPECT c = s.flag F.BLW_CBL_STAT_SUSPECT c ∧ (t.cbl c).bad = x.bad + 1)
      ∧ (tests → ¬ off → 5 ≤ x.ok → t.flag F.BLW_CBL_STAT_SUSPECT c = false)
      ∧ (tests → ¬ off → x.ok < 5 → t.flag F.BLW_CBL_STAT_SUSPECT c = s.flag F.BLW_CBL_STAT_SUSPECT c ∧ (t.cbl c).ok = x.ok + 1))
  ∧ (∀ (s : State) (l : LoopRec), s.runs 3 = true → s.flag F.BLW_STAT_STOPPED = false → s.blw.busy = true → s.coolLoops = [l] → l.pumpMin ≤ 100 →
    let u := s.stepCables
    ∃ i p f : Rat, exec .coolingUpdate s = .next (u.onBlw fun b => { b with fans := b.fans.set l.loop i, cool := (b.cool.filter fun c => decide (c.1 ≠ l.loop)) ++ [(l.loop, p, f)] })
      ∧ (l.pumpMin : Rat) ≤ p ∧ p ≤ 100 ∧ 0 ≤ f ∧ f ≤ 100
      ∧ ((∃ c < 32, ∃ r, s.cable c = some r ∧ r.loop = l.loop
        ∧ (s.flag F.BLW_CBL_STAT_SENSOR c = true ∨ s.flag F.BLW_CBL_STAT_SUSPECT c = true)) → p = 100 ∧ f = 100))
  ∧ (∀ s : State, s.flag F.BLW_STAT_STOPPED = true ∨ s.blw.busy = false → exec .coolingUpdate s = .next s)
  ∧ (∀ (s : State) (who : Initiator), ReachesReg s who .BLW_CTL 0 →
    (s.flag F.BLW_STAT_STOPPED = true →
      exec (.bellowsRestart who) s = .next { (served s who).onBlw (fun b => { b with restart := true }) with resp := .done })
    ∧ (s.flag F.BLW_STAT_STOPPED = false → exec (.bellowsRestart who) s = .next { served s who with resp := .done }))

/-- R201 to R206: a sample shows every sensor and excludes one outside −55 to 160 °C with 0606h; when all agree, none is excluded and HOTTEST
is the highest, sampling is fast from T_THROT − 10 K on, and the second sample in a row of one sensor at T_CRIT sets CRIT and level 4; CRIT ends
after 1 s below T_THROT; the level rises after 10 ms at T_THROT and falls after 100 ms below T_THROT − 5 K; the trip asserts a reset with 1105h.
Completes: DIE_SAMPLE, DIE_CRITICAL_END, THROTTLE_UP, THROTTLE_DOWN, OVERTEMP_TRIP. -/
def Obligations.DieTemperatureThrottlesAndTrips : Prop :=
  (∀ (s : State) (t : List Int), s.runs 3 = true → ∃ u, exec (.dieSample t) s = .next u
    ∧ (∀ k < 16, u.fld F.BLW_DIE_TEMP_TEMP k = unsignedOf 11 (t.getD k 0))
    ∧ (∀ k < 16, t.getD k 0 < -220 ∨ 640 < t.getD k 0 → bitOf (u.fld F.BLW_DIE_STAT_BROKEN) k = true
      ∧ (bitOf (s.fld F.BLW_DIE_STAT_BROKEN) k = false → (⟨0x0606, k⟩ : Report) ∈ u.reports.drop s.reports.length)))
  ∧ (∀ (s : State) (t : List Int) (m : Int), s.runs 3 = true → (∀ k < 16, -220 ≤ t.getD k 0 ∧ t.getD k 0 ≤ m ∧ m ≤ t.getD k 0 + 100) → m ≤ 640 →
    (∃ k < 16, t.getD k 0 = m) → ∃ u, exec (.dieSample t) s = .next u ∧ u.fld F.BLW_DIE_STAT_BROKEN = 0
      ∧ u.fld F.BLW_DIE_STAT_HOTTEST = unsignedOf 11 m ∧ (s.tThrot - 40 ≤ m → u.flag F.BLW_DIE_STAT_FAST = true)
      ∧ (∀ k < 16, u.blw.critSeen.get k = if s.tCrit ≤ t.getD k 0 then s.blw.critSeen.get k + 1 else 0)
      ∧ ((∀ k < 16, s.tCrit ≤ t.getD k 0 → s.blw.critSeen.get k = 0) → u.flag F.BLW_DIE_STAT_CRIT = s.flag F.BLW_DIE_STAT_CRIT
        ∧ u.fld F.BLW_DIE_STAT_LEVEL = s.fld F.BLW_DIE_STAT_LEVEL ∧ u.reports = s.reports ∧ RegsKept [.BLW_DIE_STAT, .BLW_DIE_TEMP] s u)
      ∧ ((∃ k < 16, s.tCrit ≤ t.getD k 0 ∧ 1 ≤ s.blw.critSeen.get k) → s.flag F.BLW_DIE_STAT_CRIT = false →
        u.flag F.BLW_DIE_STAT_CRIT = true ∧ u.fld F.BLW_DIE_STAT_LEVEL = 4
          ∧ ((s.holds && s.partnerSync) = true → u.holds = false ∧ (⟨0x0603, 0⟩ : Report) ∈ u.reports.drop s.reports.length)
          ∧ ((s.holds && s.partnerSync) = false → u.holds = s.holds ∧ u.blw.ramp = some (s.outs.map fun o => (o, s.fld F.TRS_OUT_STAT_GRANT o))
            ∧ (⟨0x0604, 0⟩ : Report) ∈ u.reports.drop s.reports.length)))
  ∧ (∀ (s : State) (x : Nat), s.runs 3 = true → s.blw.belowThrot = some x → x + s.strokesIn 100000000 ≤ s.now →
    s.flag F.BLW_DIE_STAT_CRIT = true →
    exec .dieCriticalEnd s = .next ((s.setFld F.BLW_DIE_STAT_CRIT 0 0).onBlw fun b => { b with ramp := none, critSeen := ⟨0, []⟩ }))
  ∧ (∀ (s : State) (x : Nat), s.runs 3 = true → s.blw.atThrot = some x → x + s.strokesIn 1000000 ≤ s.now → s.fld F.BLW_DIE_STAT_LEVEL < 4 →
    ∃ t, exec .throttleUp s = .next t ∧ t.fld F.BLW_DIE_STAT_LEVEL = s.fld F.BLW_DIE_STAT_LEVEL + 1 ∧ t.blw.atThrot = some s.now
      ∧ RegsKept [.BLW_DIE_STAT] s t ∧ MemKept s t)
  ∧ (∀ (s : State) (x : Nat), s.runs 3 = true → s.blw.below5 = some x → x + s.strokesIn 10000000 ≤ s.now → 0 < s.fld F.BLW_DIE_STAT_LEVEL →
    ∃ t, exec .throttleDown s = .next t ∧ t.fld F.BLW_DIE_STAT_LEVEL = s.fld F.BLW_DIE_STAT_LEVEL - 1 ∧ t.blw.below5 = some s.now
      ∧ RegsKept [.BLW_DIE_STAT] s t ∧ MemKept s t)
  ∧ (∀ s : State, s.pwr.coreOff = false → exec .overtempTrip s = .next ((s.assertReset 6 false true).report 0x1105))

/-! ### The Assay and Hallmark -/

/-- R217, R218, R220, R225, R243: a sample of a running Assay moves its counter on by 62.5 µs and ends a drift window of 2^20 steps; with one
metering point in use and no boundary due, the energy of a sample below START is not booked, and else the accumulator of its direction and the
active tariff's register grow by u × i × 62.5 µs in µWh. (An energy is held to a multiple of 2^-32 µWh: log entry 35.) Completes:
ASSAY_SAMPLE. -/
def Obligations.SamplesAreBooked : Prop :=
  (∀ (s : State) (x : MeterSample), s.runs 5 = true → s.flag F.ASY_STAT_RUN = true → ∃ t, exec (.assaySample x) s = .next t
    ∧ t.asy.now = s.asy.now + 125
    ∧ t.asy.driftAt = (if s.asy.now < 2 * (s.asy.driftAt + 2 ^ 20) then s.asy.driftAt else s.asy.driftAt + 2 ^ 20))
  ∧ (∀ (s : State) (x : MeterSample), s.flag F.ASY_STAT_RUN = false → exec (.assaySample x) s = .next s)
  ∧ ∀ (s : State) (x : MeterSample) (n : Nat), s.runs 5 = true → s.flag F.ASY_STAT_RUN = true → s.asy.metered = true → x.pfw = false →
    (∀ w ∈ s.asy.switches, s.asy.now < 2 * w.at_) → s.asy.now < 2 * s.boundary → n < 32 → (∀ k < 34, s.ptOn k = decide (k = n)) →
    s.flag F.ASY_PT_STAT_METER_FAULT n = false → s.flag F.ASY_PT_CFG_MODE n = false → s.flag F.ASY_PT_CFG_DIR n = false →
    s.flag F.ASY_PT_CFG_CLC n = false →
    let ci := s.fld F.ASY_PT_CFG_I_MOD n
    let cu := s.fld F.ASY_PT_CFG_U_MOD n
    let i := s.scaled ci (x.mods.getD ci 0)
    let e := s.scaled cu (x.mods.getD cu 0) * i * 5 / 288
    let imp := if 0 ≤ e then quantum e else 0
    let exp_ := if 0 ≤ e then 0 else quantum (-e)
    let fits (q : Rat) : Prop := 0 ≤ q ∧ q < 2 ^ 64
    ci ∉ x.stuck → cu ∉ x.stuck → atEnd (x.mods.getD ci 0) = false → atEnd (x.mods.getD cu 0) = false →
    ∃ t, exec (.assaySample x) s = .next t
      ∧ (|i| < (s.fld F.ASY_PT_START_START n : Rat) / 100 → t.flag F.ASY_PT_STAT_BELOW_START n = true
        ∧ t.meterAcc n 0 = s.meterAcc n 0 ∧ t.meterAcc n 1 = s.meterAcc n 1)
      ∧ ((s.fld F.ASY_PT_START_START n : Rat) / 100 ≤ |i| → fits (s.meterAcc n 0 + imp) → fits (s.meterAcc n 1 + exp_) →
        fits (s.treg n (s.tariff n) 0 + imp) → fits (s.treg n (s.tariff n) 1 + exp_) →
          t.flag F.ASY_PT_STAT_BELOW_START n = false ∧ t.meterAcc n 0 = s.meterAcc n 0 + imp ∧ t.meterAcc n 1 = s.meterAcc n 1 + exp_
            ∧ t.treg n (s.tariff n) 0 = s.treg n (s.tariff n) 0 + imp ∧ t.treg n (s.tariff n) 1 = s.treg n (s.tariff n) 1 + exp_)

/-- R221 to R223, R225, R226, R450: 100 agreeing cycles end CHECK_FAULT and 16 good outputs a meter fault, and the gaps close; ten bad seconds
set PLAUS with 0B85h and ten good ones clear it; a finished drift window shows its PPM, sets DRIFT beyond 500 ppm and clears it in the tenth
window within 400; a save writes a valid slot that names its instant and nothing else; a test pulse ends, and one that waits starts 5 µs later.
Completes: ASSAY_CHECK_FAULT_END, METER_FAULT_END, DC_PLAUSIBILITY, DRIFT, ENERGY_SAVE, TEST_PULSE_END, PENDING_PULSE_START. -/
def Obligations.MeterSupervisionAndSaves : Prop :=
  (∀ s : State, s.runs 5 = true → s.flag F.ASY_STAT_CHECK_FAULT = true → 100 ≤ s.asy.cross.agree → ∃ t, exec .assayCheckFaultEnd s = .next t
    ∧ t.flag F.ASY_STAT_CHECK_FAULT = false ∧ t.flag F.ASY_PT_STAT_METER_FAULT 32 = false ∧ t.flag F.ASY_PT_STAT_METER_FAULT 33 = false
    ∧ (t.asy.meters.get 32).gap = none ∧ (t.asy.meters.get 33).gap = none
    ∧ RegsKept [.ASY_STAT, .ASY_PT_STAT, .ASY_RSEQ_LO, .ASY_RSEQ_HI, .ASY_HMK_STAT] s t)
  ∧ (∀ (s : State) (n : Nat), s.runs 5 = true → s.flag F.ASY_PT_STAT_METER_FAULT n = true → 16 ≤ (s.asy.meters.get n).good →
    ∃ t, exec (.meterFaultEnd n) s = .next t
    ∧ t.flag F.ASY_PT_STAT_METER_FAULT n = false ∧ (t.asy.meters.get n).gap = none
    ∧ ((s.asy.meters.get n).gap.isSome = true → RecordWritten s t ∧ (⟨0x0BA3, 0⟩ : Report) ∈ t.reports.drop s.reports.length)
    ∧ (t.flag F.ASY_STAT_METER_FAULT = true ↔ ∃ k < 32, t.flag F.ASY_PT_STAT_METER_FAULT k = true))
  ∧ (∀ (s : State) (n : Nat) (i u pi pu : Rat), s.runs 5 = true → (s.asy.meters.get n).own = some (i, u) →
    (s.asy.meters.get n).other = some (pi, pu) →
    let m := s.asy.meters.get n
    let tol : Rat := (s.fld F.ASY_PT_CFG_DC_TOL n : Rat) / 1000
    let off := tol * ((s.outMax (s.ptOut n) : Rat) / 10) < |i - pi| ∨ tol * Config.voltRating (s.ptOut n) < |u - pu|
    ∃ t, exec (.dcPlausibility n) s = .next t ∧ CellsKept [(.ASY_PT_STAT, n)] s t ∧ MemKept s t
      ∧ (off → 9 ≤ m.bad → s.flag F.ASY_PT_STAT_PLAUS n = false → t.flag F.ASY_PT_STAT_PLAUS n = true ∧ t.reports = s.reports ++ [⟨0x0B85, n⟩])
      ∧ (off → m.bad < 9 → t.flag F.ASY_PT_STAT_PLAUS n = s.flag F.ASY_PT_STAT_PLAUS n ∧ (t.asy.meters.get n).bad = m.bad + 1)
      ∧ (¬ off → 9 ≤ m.ok → t.flag F.ASY_PT_STAT_PLAUS n = false)
      ∧ (¬ off → m.ok < 9 → t.flag F.ASY_PT_STAT_PLAUS n = s.flag F.ASY_PT_STAT_PLAUS n ∧ (t.asy.meters.get n).ok = m.ok + 1))
  ∧ (∀ s : State, s.asy.driftDone = none → exec .drift s = .next s)
  ∧ (∀ (s : State) (n : Nat), s.runs 5 = true → s.asy.driftDone = some n →
    let ppm : Rat := ((2 ^ 20 : Rat) - (n : Rat) * s.asy.driftPeriod / 100) / 2 ^ 20 * 1000000
    ∃ t, exec .drift s = .next t ∧ RegsKept [.ASY_DRIFT, .ASY_STAT, .ASY_HMK_STAT] s t ∧ t.asy.driftDone = none
      ∧ t.fld F.ASY_DRIFT_PPM = unsignedOf 16 (clampInt (-32768) 32767 (roundDiv ppm.num ppm.den))
      ∧ (500 < |ppm| → t.flag F.ASY_STAT_DRIFT = true
        ∧ (s.flag F.ASY_STAT_DRIFT = false → (⟨0x0B81, 0⟩ : Report) ∈ t.reports.drop s.reports.length))
      ∧ (|ppm| ≤ 400 → 9 ≤ s.asy.driftOk → t.flag F.ASY_STAT_DRIFT = false)
      ∧ (|ppm| ≤ 500 → s.asy.driftOk < 9 ∨ 400 < |ppm| → t.flag F.ASY_STAT_DRIFT = s.flag F.ASY_STAT_DRIFT))
  ∧ (∀ s : State, s.runs 5 = true → s.flag F.ASY_STAT_RUN = true → s.asy.metered = true → s.asy.savedAt / 100000 < s.lmc / 100000 →
    ∃ t, exec .energySave s = .next t ∧ t = { s with mem := t.mem, ecc := t.ecc, asy := t.asy } ∧ t.saveValid s.asy.saveSeq = true
      ∧ t.le (saveAddr s.asy.saveSeq + 4) 4 = s.asy.saveSeq % 2 ^ 32 ∧ t.le (saveAddr s.asy.saveSeq + 8) 8 = s.lmc / 100000 * 100000 % 2 ^ 64
      ∧ t.asy = { s.asy with saveSeq := s.asy.saveSeq + 1, savedAt := s.lmc / 100000 * 100000 }
      ∧ ∀ a, a < saveAddr s.asy.saveSeq ∨ saveAddr s.asy.saveSeq + 4096 ≤ a → t.byte a = s.byte a)
  ∧ (∀ (s : State) (k : Nat), s.runs 5 = true → exec (.testPulseEnd k) s
    = .next (s.onAsy fun a => { a with tpos := a.tpos.upd k fun x => { x with high := false } }))
  ∧ (∀ (s : State) (k : Nat), s.runs 5 = true → (s.asy.tpos.get k).high = false → 0 < s.fld F.ASY_TPO_STAT_PENDING k →
    ∃ t, exec (.pendingPulseStart k) s = .next t
    ∧ t.fld F.ASY_TPO_STAT_PENDING k = s.fld F.ASY_TPO_STAT_PENDING k - 1 ∧ (t.asy.tpos.get k).high = true
    ∧ (t.asy.tpos.get k).start = some ((s.asy.tpos.get k).fall + 10) ∧ CellsKept [(.ASY_TPO_STAT, k)] s t ∧ MemKept s t)

/-- R209, R210, R229, R238, R240, R255, R256: GO is refused with 0B09h while BUSY and else checks the frame that it reads; a sealed register takes
a write only while the seal is open (0B05h), at the next whole second, with a PARAM_CHANGE record; SEAL_BREAK needs the switch (0B23h) and a
count below 15 (0B22h), ends every transaction, opens the seal and counts; SEAL_CLOSE closes it; LEGAL_STAGE needs an open seal and a signed
image (0B27h); PQ_CONFIG, NONLEGAL_STAGE and CONFIG take their body; signing links a record to the hash of the one before it, and a transaction's
record has its OCMF string. (0B02h of NONLEGAL_STAGE, and ASY_LEGAL_CRC at a SEAL_CLOSE without an image: log entry 61.) Completes:
ASY_MBX_GO, RWS_WRITE, SEALED_CHANGE, SEAL_BREAK, SEAL_CLOSE, LEGAL_STAGE, PQ_CONFIG, NONLEGAL_STAGE, CONFIG, HALLMARK_SIGNED. -/
def Obligations.SealedChangesAndTheMailbox : Prop :=
  (∀ (s : State) (code : Nat), Answered (code % 2 ^ 16) (s.mailDone code) ∧ CellsKept [(.ASY_MBX_STAT, 0)] s (s.mailDone code) ∧ MemKept s (s.mailDone code))
  ∧ (∀ (s : State) (who : Initiator), ReachesReg s who .ASY_MBX_CMD 0 →
    (s.flag F.ASY_MBX_STAT_BUSY = true → exec (.asyMbxGo who) s = .next { (served s who).report 0x0B09 with resp := .done })
    ∧ (s.flag F.ASY_MBX_STAT_BUSY = false →
      let r := (served s who).mailFrame
      ∃ t, exec (.asyMbxGo who) s = .next t ∧ t.resp = .done ∧ (r.1 = none → t = { r.2.mailDone 0x0B01 with resp := .done })
      ∧ ∀ b, r.1 = some b → (s.mailCheck b ≠ 0 → t = { (served s who).mailDone (s.mailCheck b) with resp := .done })
        ∧ (s.mailCheck b = 0 → t.flag F.ASY_MBX_STAT_BUSY = true ∧ t.asy = { s.asy with frame := b, seq := u32 b 4 }
          ∧ CellsKept [(.ASY_MBX_STAT, 0)] s t ∧ MemKept s t)))
  ∧ (∀ (s : State) (who : Initiator) (ofs k : Nat) (r : Reg) (v : W32), Reaches s who 11 ofs → regAt 11 ofs = some (r, k) →
    (r.row.rw = 0 ∨ r.dom = .device → exec (.rwsWrite who ofs v) s = .next { served s who with resp := .done })
    ∧ (r.row.rw ≠ 0 → r.dom ≠ .device → s.flag F.ASY_SEAL_CNT_OPEN = false →
      exec (.rwsWrite who ofs v) s = .next { (served s who).report 0x0B05 ofs with resp := .done })
    ∧ (r.row.rw ≠ 0 → r.dom ≠ .device → s.flag F.ASY_SEAL_CNT_OPEN = true → exec (.rwsWrite who ofs v) s
      = .next { served s who with asy := { s.asy with rws := s.asy.rws ++ [((s.lmc / 1000000 + 1) * 1000000, (r, k), v)] }, resp := .done }))
  ∧ (∀ (s : State) (at_ k : Nat) (r : Reg) (v : W32), s.runs 5 = true → s.asy.rws = [(at_, (r, k), v)] → r.row.rw ≠ 0 →
    (s.lmc < at_ → exec .sealedChange s = .next s)
    ∧ (at_ ≤ s.lmc → ∃ t, exec .sealedChange s = .next t ∧ t.reg r k = (s.reg r k &&& ~~~r.row.rw) ||| (v &&& r.row.rw) ∧ t.asy.rws = []
      ∧ RecordWritten s t ∧ (∀ q i, (q, i) ≠ (r, k) → q ∉ [.ASY_PT_PFS, .ASY_RSEQ_LO, .ASY_RSEQ_HI, .ASY_HMK_STAT, .ASY_TPO_STAT] → t.reg q i = s.reg q i)))
  ∧ (∀ (s : State) (sw : Bool) (b : List Byte), Mailed s 0x28 b →
    (b ≠ [] → exec (.sealBreak sw) s = .next (s.mailDone 0x0B28))
    ∧ (b = [] → sw = true → exec (.sealBreak sw) s = .next (s.mailDone 0x0B23))
    ∧ (b = [] → sw = false → s.fld F.ASY_SEAL_CNT_COUNT = 15 → exec (.sealBreak sw) s = .next (s.mailDone 0x0B22))
    ∧ (b = [] → sw = false → s.fld F.ASY_SEAL_CNT_COUNT < 15 → ∃ t, exec (.sealBreak sw) s = .next t ∧ Answered 0x0B00 t
      ∧ t.flag F.ASY_SEAL_CNT_OPEN = true ∧ t.fld F.ASY_SEAL_CNT_COUNT = s.fld F.ASY_SEAL_CNT_COUNT + 1 ∧ ∀ n < 32, t.asy.txns.get n = none))
  ∧ (∀ (s : State) (b : List Byte), Mailed s 0x29 b →
    (b ≠ [] → exec .sealClose s = .next (s.mailDone 0x0B28))
    ∧ (b = [] → ∃ t, exec .sealClose s = .next t ∧ Answered 0x0B00 t ∧ t.flag F.ASY_SEAL_CNT_OPEN = false
      ∧ t.fld F.ASY_SEAL_CNT_COUNT = s.fld F.ASY_SEAL_CNT_COUNT ∧ RecordWritten s t
      ∧ t.reg .ASY_LEGAL_CRC = (if s.asy.legal.isSome then s.reg .ASY_LEGAL_CRC else Config.legalCrc s.asy.firm s.sealedBytes)
      ∧ RegsKept [.ASY_SEAL_CNT, .ASY_LEGAL_CRC, .ASY_MBX_STAT, .ASY_RSEQ_LO, .ASY_RSEQ_HI, .ASY_HMK_STAT] s t))
  ∧ (∀ (s : State) (b : List Byte), Mailed s 0x2A b →
    let good := b.length = 16 ∧ u32 b 8 ≤ 0xC0000 ∧ u32 b 12 = 0
    let f := s.fetch assayPort (uN b 0 8) (u32 b 8)
    (¬ good → exec .legalStage s = .next (s.mailDone 0x0B28))
    ∧ (good → s.flag F.ASY_SEAL_CNT_OPEN = false → exec .legalStage s = .next (s.mailDone 0x0B27))
    ∧ (good → s.flag F.ASY_SEAL_CNT_OPEN = true → (f.1.bind fun im => s.signedPart 9 im) = none →
      exec .legalStage s = .next (f.2.mailDone 0x0B27))
    ∧ (∀ im, good → s.flag F.ASY_SEAL_CNT_OPEN = true → (f.1.bind fun im => s.signedPart 9 im) = some im → ∃ t, exec .legalStage s = .next t
      ∧ Answered 0x0B00 t ∧ t.asy = { s.asy with frame := [], legal := some im } ∧ CellsKept [(.ASY_MBX_STAT, 0)] s t))
  ∧ (∀ (s : State) (b : List Byte), Mailed s 1 b →
    let fit := ∀ a < b.length / 8, s.ringFits (u32 b (8 * a + 4) % 64) 0 32 = true
    (b.length = 8 ∨ b.length = 16 → fit → ∃ t, exec .pqConfig s = .next t
      ∧ Answered 0x0B00 t ∧ (∀ a < b.length / 8, t.reg .ASY_PQ_CFG_LO a = BitVec.ofNat 32 (u32 b (8 * a))
        ∧ t.reg .ASY_PQ_CFG_HI a = BitVec.ofNat 32 (u32 b (8 * a + 4)) &&& 0xFFC0003F)
      ∧ RegsKept [.ASY_PQ_CFG_LO, .ASY_PQ_CFG_HI, .ASY_MBX_STAT] s t)
    ∧ ((b.length ≠ 8 ∧ b.length ≠ 16) ∨ ¬ fit → exec .pqConfig s = .next (s.mailDone 0x0B28)))
  ∧ (∀ (s : State) (b : List Byte), Mailed s 2 b →
    (s.signedPart 7 b = none → exec .nonlegalStage s = .next (s.mailDone 0x0B02))
    ∧ ∀ im, s.signedPart 7 b = some im → ∃ t, exec .nonlegalStage s = .next t ∧ Answered 0x0B00 t
      ∧ t.asy = { s.asy with frame := [], staged := some im } ∧ CellsKept [(.ASY_MBX_STAT, 0)] s t)
  ∧ (∀ (s : State) (b : List Byte), Mailed s 0x27 b →
    let good := b.length = 776 ∧ uN b 1 7 = 0 ∧ s.ringFits (u8 b 0) 0 8192 = true
      ∧ ∀ o < 32, u32 b (28 + 24 * o) = 0 ∧ isPtId (u32 b (8 + 24 * o)) = true ∧ isPtId (u32 b (12 + 24 * o)) = true
    (¬ good → exec .config s = .next (s.mailDone 0x0B28))
    ∧ (good → ∃ t, exec .config s = .next t ∧ Answered 0x0B00 t ∧ t.asy.ring = some (u8 b 0)
      ∧ (∀ o < 32, (t.asy.disc.get o).cmdPt = ptOf (u32 b (8 + 24 * o)) ∧ (t.asy.disc.get o).fbPt = ptOf (u32 b (12 + 24 * o))
        ∧ (t.asy.disc.get o).low = uN b (16 + 24 * o) 8 ∧ (t.asy.disc.get o).wait = u16 b (24 + 24 * o) ∧ (t.asy.disc.get o).tDisc = u16 b (26 + 24 * o))
      ∧ CellsKept [(.ASY_MBX_STAT, 0)] s t))
  ∧ (∀ (s : State) (r : HmkRec), s.runs 5 = true →
    (s.asy.log.find? fun r => decide (r.stage = 0) && s.asy.queue.all fun q => decide (r.rseq < q.rseq)) = some r →
    (s.recordKey Config.hallmarkSlot 1 = none → exec .hallmarkSigned s = .next s)
    ∧ ∀ key, s.recordKey Config.hallmarkSlot 1 = some key →
    let b := r.bytes.take 0x28 ++ s.asy.lastHash ++ r.bytes.drop 0x48
    let sig := Config.sign 1 key b false (s.fresh 256)
    let tr := [1, 0] ++ leBytes 2 Config.hallmarkSlot ++ leBytes 2 sig.length ++ leBytes 2 0 ++ sig
    let legal := u16 b 4 = 1 ∨ u16 b 4 = 2
    ∃ t, exec .hallmarkSigned s = .next t ∧ t.asy.lastHash = sha256 (b ++ tr)
      ∧ (∀ x ∈ t.asy.log, x.rseq = r.rseq → x.bytes = b ∧ x.trailer = tr ∧ x.stage ≠ 0)
      ∧ (¬ legal → t.asy.ocmf = s.asy.ocmf)
      ∧ (∀ k, legal → s.recordKey Config.ocmfSlot 3 = some k → ∃ nonce : BitVec 256,
        let data := ocmfData s.sys.variant (s.reg .ASY_LEGAL_VER).toNat { r with bytes := b }
        t.asy.ocmf = s.asy.ocmf ++ [ocmfString data (Config.sign 3 k data false nonce)]))

/-- R241 to R246, R253: TXN_START is refused with 0B28h, 0B20h, 0B29h, 0B21h or 0B24h in that order and else opens the transaction, sets its
credit and closes the contactor, if CONFIG gave the output one; TXN_STOP and CREDIT_ADD act on the open transaction alone, and a credit added does
not lift EXHAUSTED; a tariff switch is scheduled or cancelled, a new interval grid ordered and the label of the wall clock set, each by its
checked body, and a body that fails its check is refused with 0B28h. Completes: TXN_START, TXN_STOP, CREDIT_ADD, TARIFF_SCHEDULE, TARIFF_CANCEL,
INTERVAL_SET, WALL_SET. -/
def Obligations.BillingCommandsFollowTheirChecks : Prop :=
  (∀ (s : State) (b : List Byte), Mailed s 0x20 b →
    let n := u8 b 0
    let good := b.length = 48 ∧ n ≤ 31 ∧ u8 b 1 ≤ 1 ∧ u16 b 2 = 0 ∧ u32 b 4 ≠ 0
    (¬ good → exec .txnStart s = .next (s.mailDone 0x0B28))
    ∧ (good → (s.asy.txns.get n).isSome = true → exec .txnStart s = .next (s.mailDone 0x0B20))
    ∧ (good → s.asy.txns.get n = none → s.flag F.ASY_PT_STAT_METER_FAULT n = true → exec .txnStart s = .next (s.mailDone 0x0B29))
    ∧ (good → s.asy.txns.get n = none → s.flag F.ASY_PT_STAT_METER_FAULT n = false → s.flag F.ASY_SEAL_CNT_OPEN = true →
      exec .txnStart s = .next (s.mailDone 0x0B21))
    ∧ (good → s.asy.txns.get n = none → s.flag F.ASY_PT_STAT_METER_FAULT n = false → s.flag F.ASY_SEAL_CNT_OPEN = false →
      s.fld F.ASY_HMK_STAT_LOG_FREE < 48 → exec .txnStart s = .next (s.mailDone 0x0B24))
    ∧ (good → s.asy.txns.get n = none → s.flag F.ASY_PT_STAT_METER_FAULT n = false → s.flag F.ASY_SEAL_CNT_OPEN = false →
      48 ≤ s.fld F.ASY_HMK_STAT_LOG_FREE → ∃ t, exec .txnStart s = .next t ∧ Answered 0x0B00 t ∧ RecordWritten s t
        ∧ (∃ x, t.asy.txns.get n = some x ∧ x.number = u32 b 4 ∧ x.prepay = decide (u8 b 1 = 1) ∧ x.idTag = slice b 16 32 ∧ x.bound = 0)
        ∧ (∀ k, k ≠ n → t.asy.txns.get k = s.asy.txns.get k) ∧ t.creditInt (s.ptOut n) = signed 64 (uN b 8 8)
        ∧ t.flag F.ASY_PREPAY_STAT_TXN (s.ptOut n) = true ∧ t.flag F.ASY_PREPAY_STAT_PREPAY (s.ptOut n) = decide (u8 b 1 = 1)
        ∧ ((s.asy.disc.get (s.ptOut n)).cmdPt.isSome = true → t.fld F.ASY_PREPAY_STAT_DISC (s.ptOut n) = 1)))
  ∧ (∀ (s : State) (b : List Byte), Mailed s 0x21 b →
    let good := b.length = 8 ∧ u8 b 0 ≤ 31 ∧ uN b 1 3 = 0
    (¬ good → exec .txnStop s = .next (s.mailDone 0x0B28))
    ∧ (good → s.txnIs (u8 b 0) (u32 b 4) = false → exec .txnStop s = .next (s.mailDone 0x0B20))
    ∧ (good → s.txnIs (u8 b 0) (u32 b 4) = true → ∃ t, exec .txnStop s = .next t ∧ Answered 0x0B00 t ∧ t.asy.txns.get (u8 b 0) = none
      ∧ t.flag F.ASY_PREPAY_STAT_TXN (s.ptOut (u8 b 0)) = false ∧ t.flag F.ASY_PREPAY_STAT_EXHAUSTED (s.ptOut (u8 b 0)) = false))
  ∧ (∀ (s : State) (b : List Byte), Mailed s 0x22 b →
    let o := s.ptOut (u8 b 0)
    let amount := signed 64 (uN b 8 8)
    let good := b.length = 16 ∧ u8 b 0 ≤ 31 ∧ uN b 1 3 = 0 ∧ 0 < amount
    (¬ good → exec .creditAdd s = .next (s.mailDone 0x0B28))
    ∧ (good → s.txnIs (u8 b 0) (u32 b 4) = false → exec .creditAdd s = .next (s.mailDone 0x0B20))
    ∧ (good → s.txnIs (u8 b 0) (u32 b 4) = true → ∃ t, exec .creditAdd s = .next t
      ∧ Answered 0x0B00 t ∧ RecordWritten s t ∧ t.flag F.ASY_PREPAY_STAT_EXHAUSTED o = s.flag F.ASY_PREPAY_STAT_EXHAUSTED o
      ∧ (-(2 ^ 63) ≤ s.credit o + amount → s.credit o + amount < 2 ^ 63 → t.credit o = s.credit o + amount)))
  ∧ (∀ (s : State) (b : List Byte), Mailed s 0x23 b →
    let mask := uN b 0 8
    let at_ := if uN b 16 8 = 0 then (s.lmc / 1000000 + 1) * 1000000 else uN b 16 8
    let rest := dropSwitches s.asy.switches mask at_
    let good := b.length = 24 ∧ mask < 2 ^ 34 ∧ u8 b 8 ≤ 15 ∧ uN b 9 7 = 0 ∧ at_ % 1000000 = 0 ∧ (uN b 16 8 ≠ 0 → s.lmc + 1000000 ≤ uN b 16 8)
    (¬ good → exec .tariffSchedule s = .next (s.mailDone 0x0B28))
    ∧ (good → 32 ≤ rest.length → exec .tariffSchedule s = .next (s.mailDone 0x0B25))
    ∧ (good → rest.length < 32 → ∃ t, exec .tariffSchedule s = .next t ∧ Answered 0x0B00 t
      ∧ t.asy = { s.asy with frame := [], switches := if mask = 0 then rest else rest ++ [⟨at_, mask, u8 b 8⟩] }
      ∧ RegsKept [.ASY_TARIFF, .ASY_MBX_STAT] s t ∧ ∀ n, t.tariff n = s.tariff n))
  ∧ (∀ (s : State) (b : List Byte), Mailed s 0x24 b →
    (b.length ≠ 16 ∨ 2 ^ 34 ≤ uN b 0 8 → exec .tariffCancel s = .next (s.mailDone 0x0B28))
    ∧ (b.length = 16 → uN b 0 8 < 2 ^ 34 → ∃ t, exec .tariffCancel s = .next t ∧ Answered 0x0B00 t
      ∧ t.asy = { s.asy with frame := [], switches := dropSwitches s.asy.switches (uN b 0 8) (uN b 8 8) }
      ∧ RegsKept [.ASY_TARIFF, .ASY_MBX_STAT] s t ∧ ∀ n, t.tariff n = s.tariff n))
  ∧ (∀ (s : State) (b : List Byte), Mailed s 0x25 b →
    let good := b.length = 16 ∧ 60 ≤ u32 b 0 ∧ u32 b 0 ≤ 3600 ∧ u32 b 4 = 0 ∧ s.lmc + 1000000 ≤ uN b 8 8
    (good → ∃ t, exec .intervalSet s = .next t ∧ Answered 0x0B00 t
      ∧ t.asy = { s.asy with frame := [], newGrid := some (u32 b 0, uN b 8 8) } ∧ CellsKept [(.ASY_MBX_STAT, 0)] s t)
    ∧ (¬ good → exec .intervalSet s = .next (s.mailDone 0x0B28)))
  ∧ (∀ (s : State) (b : List Byte), Mailed s 0x26 b →
    let good := b.length = 16 ∧ u8 b 8 ≤ 1 ∧ uN b 9 7 = 0
    (good → ∃ t, exec .wallSet s = .next t ∧ Answered 0x0B00 t
      ∧ t.asy.wall = some (uN b 0 8, s.lmc, decide (u8 b 8 = 1)) ∧ t.wallAt t.lmc = uN b 0 8 ∧ RecordWritten s t
      ∧ RegsKept [.ASY_MBX_STAT, .ASY_RSEQ_LO, .ASY_RSEQ_HI, .ASY_HMK_STAT] s t)
    ∧ (¬ good → exec .wallSet s = .next (s.mailDone 0x0B28)))

/-- R224, R244 to R246, R251, R254, R256: a due switch makes every point's new tariff active and a due boundary starts the next interval, each
with its record; the unsynchronised label shows; a start of the island claims its inputs, ends open transactions, and resumes metering, a
restart installs the staged legal image while the seal is closed; the disconnect contactor opens after 10 ms at 5.0 A or less, or after its
wait with 0BA6h, and a missing or unexpected feedback is a fault with 0B26h. Completes: TARIFF_SWITCH, INTERVAL_CLOSE, WALL_UNSYNC, ASSAY_START,
ASSAY_RESTART, DISCONNECT_OPEN, DISC_WAIT_EXPIRY, DISCONNECT_FEEDBACK_TIMEOUT, DISCONNECT_DROPOUT. -/
def Obligations.BoundariesStartsAndDisconnects : Prop :=
  (∀ (s : State) (d : Nat), s.runs 5 = true → s.flag F.ASY_STAT_RUN = true → 0 < s.fld F.ASY_INT_CFG_LEN → s.asy.held = [] →
    (s.asy.ac.get 0).waiting = [] → (s.asy.ac.get 1).waiting = [] → 2 * d ≤ s.asy.now →
    (s.nextSwitch = some d → s.asy.now < 2 * s.boundary → (∀ w ∈ s.asy.switches, w.at_ ≠ d → s.asy.now < 2 * w.at_) →
      ∃ t, exec .tariffSwitch s = .next t ∧ t.asy.held = [] ∧ RecordWritten s t
      ∧ (∀ n < 34, t.tariff n = s.tariffAt d n % 16) ∧ (∀ n, 34 ≤ n → t.tariff n = s.tariff n)
      ∧ t.asy.switches = s.asy.switches.filter fun w => decide (w.at_ ≠ d))
    ∧ (s.boundary = d → s.asy.newGrid = none → s.asy.now < 2 * d + 2000000 → (∀ w ∈ s.asy.switches, s.asy.now < 2 * w.at_) →
      s.asy.queue.length < 64 → ∃ t, exec .intervalClose s = .next t ∧ t.asy.held = []
      ∧ RecordWritten s t ∧ t.asy.from_ = d ∧ (∀ n ∈ s.ptsOn, t.asy.fromAcc.get n = (s.meterAcc n 0, s.meterAcc n 1)) ∧ ∀ n, t.tariff n = s.tariff n))
  ∧ (∀ s : State, s.runs 5 = true → ∃ t, exec .wallUnsync s = .next t ∧ t.flag F.ASY_HMK_STAT_WALL_UNSYNC = s.unsync
    ∧ CellsKept [(.ASY_HMK_STAT, 0)] s t
    ∧ (s.unsync = true → s.flag F.ASY_HMK_STAT_WALL_UNSYNC = false → t.reports = s.reports ++ [⟨0x0BA4, 0⟩]))
  ∧ (∀ s : State, s.runs 5 = true → s.flag F.ASY_STAT_RUN = false → ∃ t, exec .assayStart s = .next t ∧ t.flag F.ASY_STAT_RUN = true
    ∧ t.asy.metered = true ∧ (∀ n < 32, t.asy.txns.get n = none)
    ∧ (∀ n < 32, s.ptOn n = true → t.fld F.ACQ_MOD_CFG_OWNER (s.fld F.ASY_PT_CFG_I_MOD n) = 3 ∧ t.fld F.ACQ_MOD_CFG_OWNER (s.fld F.ASY_PT_CFG_U_MOD n) = 3))
  ∧ (∀ s : State, s.flag F.ASY_STAT_RUN = true → exec .assayStart s = .next s)
  ∧ (∀ (s : State) (im : List Byte), s.runs 5 = true → s.asy.legal = some im → s.flag F.ASY_SEAL_CNT_OPEN = false →
    ∃ t, exec .assayRestart s = .next t
    ∧ t.reg .ASY_LEGAL_VER = Config.legalVersion im ∧ t.reg .ASY_LEGAL_CRC = Config.legalCrc im s.sealedBytes ∧ t.asy.legal = none
    ∧ t.asy.firm = im ∧ t.flag F.ASY_STAT_RUN = false ∧ t.asy.metered = false
    ∧ ∀ r i, r ∉ [.ASY_LEGAL_VER, .ASY_LEGAL_CRC, .ASY_INT_CFG, .ASY_INT_ANCHOR_LO, .ASY_INT_ANCHOR_HI, .ASY_TARIFF] → r.dom ≠ .assay → t.reg r i = s.reg r i)
  ∧ (∀ s : State, s.asy.legal = none ∨ s.flag F.ASY_SEAL_CNT_OPEN = true → exec .assayRestart s = .next s)
  ∧ (∀ (s : State) (o : Nat) (c : Instr), s.runs 5 = true →
    (c = .disconnectOpen o ∧ (s.asy.disc.get o).asked.isSome = true ∧ 160 ≤ (s.asy.disc.get o).still)
      ∨ (c = .discWaitExpiry o ∧ ∃ h, (s.asy.disc.get o).asked = some h ∧ h + 20000 * (s.asy.disc.get o).wait ≤ s.asy.now) →
    ∃ t, exec c s = .next t ∧ t.fld F.ASY_PREPAY_STAT_DISC o = 3 ∧ (t.asy.disc.get o).asked = none ∧ (t.asy.disc.get o).cmdAt = s.asy.now
      ∧ RecordWritten s t ∧ (c = .discWaitExpiry o → (⟨0x0BA6, o⟩ : Report) ∈ t.reports.drop s.reports.length))
  ∧ ∀ (s : State) (o : Nat) (c : Instr), s.runs 5 = true →
    (c = .disconnectFeedbackTimeout o ∧ (s.asy.disc.get o).fbPt.isSome = true ∧ (s.asy.disc.get o).blind = false
      ∧ ((s.asy.disc.get o).cmdAt + 2000 * (s.asy.disc.get o).tDisc ≤ s.asy.now
          ∧ ((s.fld F.ASY_PREPAY_STAT_DISC o = 1 ∧ s.discShows o ≠ some true) ∨ (s.fld F.ASY_PREPAY_STAT_DISC o = 3 ∧ s.discShows o ≠ some false))
        ∨ (s.fld F.ASY_PREPAY_STAT_DISC o = 0 ∨ s.fld F.ASY_PREPAY_STAT_DISC o = 2) ∧ s.discShows o = none))
      ∨ (c = .disconnectDropout o ∧ ((s.fld F.ASY_PREPAY_STAT_DISC o = 2 ∧ s.discShows o = some false)
        ∨ (s.fld F.ASY_PREPAY_STAT_DISC o = 0 ∧ s.discShows o = some true))) →
    ∃ t, exec c s = .next t ∧ t.flag F.ASY_PREPAY_STAT_FAULT o = true ∧ t.flag F.ASY_PREPAY_STAT_EXHAUSTED o = true ∧ RecordWritten s t
      ∧ (⟨0x0B26, o⟩ : Report) ∈ t.reports.drop s.reports.length
      ∧ t.fld F.ASY_PREPAY_STAT_DISC o = (match s.discShows o with | some true => 2 | some false => 0 | none => s.fld F.ASY_PREPAY_STAT_DISC o)

/-! ### Mortise -/

/-- R267 to R271, R286: a filtered channel takes its level, inverted for channel B of an antivalent input, and RUN is set while both channels are
high; a pulse in its slot finds a channel stuck at its supply's pulse, one shorted to another supply and every input of a failed supply, which
fault with 0C01h, and a pulse without such a finding faults none; a disagreement that lasted DISC is a fault with CAUSE 1; a counter input counts
its quadrature edges and wraps. Completes: INPUT_CHANNEL_CHANGE, SUPPLY_PULSE, DISCREPANCY, COUNTER_INPUT_EDGE. -/
def Obligations.SafeInputsTakeLevelsAndFaults : Prop :=
  (∀ (s : State) (n : Nat) (chB level : Bool), s.runs 6 = true → (s.inRec n).typ ≠ 0 → (s.inRec n).typ ≠ 3 →
    ∃ t, exec (.inputChannelChange n chB level) s = .next t
    ∧ t.inA n = (if chB then s.inA n else level)
    ∧ t.inB n = (if chB then (if (s.inRec n).typ = 2 then !level else level) else s.inB n)
    ∧ t.flag F.MRT_IN_STAT_RUN n = (t.inA n && t.inB n)
    ∧ (t.mrt.ins.get n).differ = (if t.inA n = t.inB n then none else some ((s.mrt.ins.get n).differ.getD s.now))
    ∧ RegsKept [.MRT_IN_STAT, .MRT_OUT_STAT, .MRT_BRK_STAT, .MRT_STAT] s t ∧ MemKept s t)
  ∧ (∀ (s : State) (n : Nat) (chB level : Bool), (s.inRec n).typ = 0 ∨ (s.inRec n).typ = 3 → exec (.inputChannelChange n chB level) s = .next s)
  ∧ (∀ (s : State) (j : Nat) (before low after : List Nat), s.runs 6 = true → s.mrtRuns = true → (s.holds || s.beside) = true →
    s.pulseTurn j = true → ∃ t, exec (.supplyPulse j before low after) s = .next t ∧ t.mrt.pulse = some (j, s.now) ∧ t.mrt.slot = (j + 1) % 16
    ∧ (∀ c < 64, (s.inRec (c / 2)).pulsed = true →
      (s.fed j c = true ∧ c ∈ before ∧ c ∉ low ∧ c ∈ after) ∨ (s.fed j c = false ∧ c ∈ before ∧ c ∈ low ∧ c ∈ after)
        ∨ (s.fed j c = true ∧ (∃ d < 64, s.fed j d = true ∧ d ∈ before) ∧ ∀ d < 64, s.fed j d = true → d ∈ before → d ∉ after) →
      t.flag F.MRT_IN_STAT_FAULT (c / 2) = true ∧ t.inDemand (c / 2) = true
        ∧ (s.flag F.MRT_IN_STAT_FAULT (c / 2) = false → (⟨0x0C01, c / 2⟩ : Report) ∈ t.reports.drop s.reports.length))
    ∧ ((∀ c < 64, c ∈ before → (s.fed j c = true → c ∈ low ∧ c ∈ after) ∧ (s.fed j c = false → c ∉ low)) →
      ∀ n, t.flag F.MRT_IN_STAT_FAULT n = true → s.flag F.MRT_IN_STAT_FAULT n = true)
    ∧ RegsKept [.MRT_IN_STAT, .MRT_STAT] s t ∧ MemKept s t)
  ∧ (∀ (s : State) (j : Nat) (before low after : List Nat), (s.holds || s.beside) = false ∨ s.pulseTurn j = false →
    exec (.supplyPulse j before low after) s = .next s)
  ∧ (∀ (s : State) (n h : Nat), s.runs 6 = true → (s.mrt.ins.get n).differ = some h → h + s.ms (10 * (s.inRec n).disc) ≤ s.now →
    s.flag F.MRT_IN_STAT_FAULT n = false → ∃ t, exec (.discrepancy n) s = .next t ∧ t.flag F.MRT_IN_STAT_FAULT n = true
      ∧ t.fld F.MRT_IN_STAT_CAUSE n = 1 ∧ t.reports = s.reports ++ [⟨0x0C01, n⟩] ∧ CellsKept [(.MRT_IN_STAT, n), (.MRT_STAT, 0)] s t ∧ MemKept s t)
  ∧ (∀ (s : State) (n : Nat), (s.mrt.ins.get n).differ = none → exec (.discrepancy n) s = .next s)
  ∧ (∀ (s : State) (n : Nat) (a b : Bool), s.runs 6 = true → (s.inRec n).typ = 3 →
    let place (p q : Bool) : Nat := if p then (if q then 2 else 1) else (if q then 3 else 0)
    let d := (place a b + 4 - place (s.mrt.ins.get n).a (s.mrt.ins.get n).b) % 4
    ∃ t, exec (.counterInputEdge n a b) s = .next t
      ∧ t.fld F.MRT_IN_STAT_COUNT n = (s.fld F.MRT_IN_STAT_COUNT n + (if d = 1 then 1 else if d = 3 then 65535 else 0)) % 65536
      ∧ (t.mrt.ins.get n).a = a ∧ (t.mrt.ins.get n).b = b ∧ (∀ m, m ≠ n → t.reg .MRT_IN_STAT m = s.reg .MRT_IN_STAT m)
      ∧ RegsKept [.MRT_IN_STAT, .MRT_OUT_STAT, .MRT_BRK_STAT, .MRT_STAT] s t)

/-- R272 to R278: a readback that agrees with the switches shows, and one that disagrees de-energises the channel and latches FAULT with 0C02h;
energising checks switch A, then B, then turns both on; a dark test turns one switch off and on again, alternating; a brake test passes its four
steps, each after its time, restarting the age, or ends at once with TEST_FAIL and 0C04h, and is refused with 0C08h while it may not start; an
expired test makes the brake due, and the brake is applied 10 min after an expiry in its cycle. Completes: READBACK_CHECK, ENERGISE_CHECK_STEP,
DARK_TEST_START, DARK_TEST_END, BRAKE_TEST, BRAKE_TEST_STEP, TEST_INTERVAL_EXPIRY, BRAKE_APPLY_AFTER_EXPIRY. -/
def Obligations.SafeOutputsAndBrakesAreTested : Prop :=
  (∀ (s : State) (k : Nat) (rb : Bool), s.runs 6 = true → rb = (s.chanBit k 30 && s.chanBit k 29) → ∃ t, exec (.readbackCheck k rb) s = .next t
    ∧ t.chanBit k 28 = rb ∧ (∀ b, b ≠ 28 → b < 32 → t.chanBit k b = s.chanBit k b) ∧ t.reports = s.reports
    ∧ CellsKept [(if k < 16 then (.MRT_OUT_STAT, k) else (.MRT_BRK_STAT, k - 16))] s t ∧ MemKept s t)
  ∧ (∀ (s : State) (k : Nat) (rb : Bool), s.runs 6 = true → rb ≠ (s.chanBit k 30 && s.chanBit k 29) → ∃ t, exec (.readbackCheck k rb) s = .next t
    ∧ ChannelFaulted k s t ∧ t.chanBit k 28 = rb)
  ∧ (∀ (s : State) (k : Nat), s.runs 6 = true → (s.mrt.chans.get k).step ≠ 0 →
    ∃ t, exec (.energiseCheckStep k true) s = .next t ∧ ChannelFaulted k s t)
  ∧ (∀ (s : State) (k : Nat), s.runs 6 = true → (s.mrt.chans.get k).step = 1 → ∃ t, exec (.energiseCheckStep k false) s = .next t
    ∧ t.chanBit k 30 = false ∧ t.chanBit k 29 = true ∧ t.chanBit k 31 = s.chanBit k 31 ∧ (t.mrt.chans.get k).step = 2 ∧ t.reports = s.reports)
  ∧ (∀ (s : State) (k : Nat), s.runs 6 = true → 2 ≤ (s.mrt.chans.get k).step → ∃ t, exec (.energiseCheckStep k false) s = .next t
    ∧ t.chanBit k 30 = true ∧ t.chanBit k 29 = true ∧ t.chanBit k 31 = true ∧ (t.mrt.chans.get k).step = 0 ∧ t.reports = s.reports)
  ∧ (∀ (s : State) (k : Nat) (rb : Bool), (s.mrt.chans.get k).step = 0 → exec (.energiseCheckStep k rb) s = .next s)
  ∧ (∀ (s : State) (k : Nat), s.runs 6 = true → s.holds = true → s.darkEn k = true → s.chanBit k 31 = true → s.chanBit k 26 = false →
    ∃ t, exec (.darkTestStart k) s = .next t ∧ t.chanBit k 26 = true ∧ t.chanBit k (if (s.mrt.chans.get k).nextB then 29 else 30) = false
      ∧ t.chanBit k (if (s.mrt.chans.get k).nextB then 30 else 29) = s.chanBit k (if (s.mrt.chans.get k).nextB then 30 else 29)
      ∧ t.chanBit k 31 = true ∧ t.mrt = s.mrt)
  ∧ (∀ (s : State) (k : Nat), s.runs 6 = true → s.chanBit k 26 = true →
    (∃ t, exec (.darkTestEnd k false) s = .next t ∧ t.chanBit k 26 = false ∧ t.chanBit k (if (s.mrt.chans.get k).nextB then 29 else 30) = true
      ∧ (t.mrt.chans.get k).nextB = !(s.mrt.chans.get k).nextB ∧ t.reports = s.reports)
    ∧ (∃ t, exec (.darkTestEnd k true) s = .next t ∧ ChannelFaulted k s t ∧ t.chanBit k 26 = false))
  ∧ (∀ (s : State) (who : Initiator) (k : Nat) (r : BrakeRec), ReachesReg s who .MRT_CMD 0 → s.mrtRuns = true → s.brakeRec k = some r →
    (s.chanBit (16 + k) 31 = true ∨ (s.fnForBrake k none).any s.fnDemand = true ∨ s.flag F.MRT_CONN_STAT_VALID r.conn = false →
      exec (.brakeTest who k) s = .next { (served s who).mrtCode 0x0C08 k with resp := .done })
    ∧ (s.chanBit (16 + k) 31 = false → (s.fnForBrake k none).any s.fnDemand = false → s.flag F.MRT_CONN_STAT_VALID r.conn = true →
      (s.testStep k ≠ 0 → exec (.brakeTest who k) s = .next { served s who with resp := .done })
      ∧ (s.testStep k = 0 → ∃ t, exec (.brakeTest who k) s = .next t ∧ t.testStep k = 1 ∧ (t.mrt.brakes.get k).base = s.brakeCount r
        ∧ (t.mrt.brakes.get k).began = some s.now ∧ CellsKept [(.MRT_BRK_STAT, k)] s t ∧ t.reports = s.reports)))
  ∧ (∀ (s : State) (who : Initiator) (k : Nat), ReachesReg s who .MRT_CMD 0 → s.mrtRuns = true → s.brakeRec k = none →
    exec (.brakeTest who k) s = .next { (served s who).mrtCode 0x0C08 k with resp := .done })
  ∧ (∀ (s : State) (k : Nat) (r : BrakeRec) (frames rb : Bool), s.runs 6 = true → s.brakeRec k = some r → s.testStep k ≠ 0 →
    let far := r.tol < moved (s.brakeCount r) (s.mrt.brakes.get k).base
    (¬ far → s.stepOver k r = false → exec (.brakeTestStep k frames rb) s = .next s)
    ∧ (far ∨ s.stepOver k r = true ∧ (s.testStep k = 2 ∧ frames = false ∨ s.testStep k = 3 ∧ rb = true) →
      ∃ t, exec (.brakeTestStep k frames rb) s = .next t
      ∧ t.testStep k = 0 ∧ t.flag F.MRT_BRK_STAT_TEST_FAIL k = true ∧ (r.sto < 16 → ChannelOff r.sto t)
      ∧ (⟨0x0C04, k⟩ : Report) ∈ t.reports.drop s.reports.length)
    ∧ (¬ far → s.stepOver k r = true → s.testStep k = 1 → ∃ t, exec (.brakeTestStep k frames rb) s = .next t ∧ t.testStep k = 2
      ∧ (t.mrt.brakes.get k).base = s.brakeCount r ∧ t.reports = s.reports)
    ∧ (¬ far → s.stepOver k r = true → s.testStep k = 2 → frames = true → ∃ t, exec (.brakeTestStep k frames rb) s = .next t
      ∧ t.testStep k = 3 ∧ ChannelOff r.sto t)
    ∧ (¬ far → s.stepOver k r = true → s.testStep k = 3 → rb = false → exec (.brakeTestStep k frames rb) s = .next (s.toStep k 4))
    ∧ (¬ far → s.stepOver k r = true → s.testStep k = 4 → ∃ t, exec (.brakeTestStep k frames rb) s = .next t ∧ t.testStep k = 0
      ∧ t.flag F.MRT_BRK_STAT_TEST_FAIL k = false ∧ t.flag F.MRT_BRK_STAT_TEST_DUE k = false ∧ t.fld F.MRT_BRK_STAT_AGE k = 0
      ∧ (t.mrt.brakes.get k).valid = true ∧ (t.mrt.brakes.get k).passAt = some s.now ∧ t.reports = s.reports ++ [⟨0x0C84, k⟩]))
  ∧ (∀ (s : State) (k h : Nat) (r : BrakeRec), s.runs 6 = true → s.brakeRec k = some r → (s.mrt.brakes.get k).passAt = some h →
    (s.mrt.brakes.get k).valid = true → h + s.ms (60000 * r.interval) ≤ s.now →
    exec (.testIntervalExpiry k) s = .next ((s.setFld F.MRT_BRK_STAT_TEST_DUE k 1).onBrake k fun b =>
      { b with valid := false, expired := if b.acd then some s.now else none }))
  ∧ (∀ (s : State) (k h : Nat), s.runs 6 = true → (s.mrt.brakes.get k).expired = some h → h + s.ms 600000 ≤ s.now →
    (s.mrt.brakes.get k).acd = true → ∃ t, exec (.brakeApplyAfterExpiry k) s = .next t ∧ ChannelOff (16 + k) t ∧ (t.mrt.brakes.get k).acd = false
      ∧ (t.mrt.brakes.get k).expired = none ∧ (⟨0x0C08, k⟩ : Report) ∈ t.reports.drop s.reports.length)

/-- R258 to R263, R279 to R283: a lockstep fault, or the second cycle in which the pairs disagree, de-energises every channel and fails island 6
with 0C07h; another cycle applies what the pairs evaluated in the last one, a function that one pair finds out of RUN turning off that pair's
switch of every channel that it names, and evaluates every function again; a bound consumer accepts a frame whose check, length, WD and SEQ fit
and is VALID from the second one on, counts a repeat and a failed check, and is lost after WD cycles without an accepted frame; a BIND frame of
its session binds it. (The evaluation is applied at the next cycle, log entry 39.) Completes: SAFETY_CYCLE, TENON_RECEIVE, TENON_LOST. -/
def Obligations.SafetyCycleAndTenonFrames : Prop :=
  (∀ (s : State) (fault : Bool) (p0 p1 : List Nat), s.runs 6 = true → s.mrtRuns = true →
    fault = true ∨ (1 ≤ s.mrt.apart ∧ ∃ f < s.fnCount, p0.contains f ≠ p1.contains f) →
    ∃ t, exec (.safetyCycle fault p0 p1) s = .next t ∧ bitOf (t.fld F.SYS_REGION_STAT_FAILED) 6 = true ∧ t.holds = false
      ∧ (∀ k < 20, ChannelOff k t) ∧ (⟨0x0C07, 0⟩ : Report) ∈ t.reports.drop s.reports.length)
  ∧ (∀ (s : State) (p0 p1 : List Nat), s.runs 6 = true → s.mrtRuns = true →
    let alike := ∀ f < s.fnCount, p0.contains f = p1.contains f ∧ (s.mrt.fns.get f).st = (s.mrt.fns.get f).st1
      ∧ (s.mrt.fns.get f).pressed = (s.mrt.fns.get f).pressed1
    s.mrt.apart = 0 ∨ alike → ∃ t, exec (.safetyCycle false p0 p1) s = .next t
    ∧ t.mrt.cycle = s.mrt.cycle + 1 ∧ (alike → t.mrt.apart = 0) ∧ ((∃ f < s.fnCount, p0.contains f ≠ p1.contains f) → t.mrt.apart = 1)
    ∧ t.flag F.MRT_STAT_DRIVE = s.holds ∧ t.mrt.eval.map Prod.fst = s.fnList
    ∧ ((s.mrt.eval.map Prod.fst).Nodup → ∀ f st0 st1, (f, st0, st1) ∈ s.mrt.eval →
      t.flag F.MRT_SF_STAT_DEMAND f = decide (st0 = 1 ∨ st1 = 1)
      ∧ t.flag F.MRT_SF_STAT_RESET_WAIT f = (!decide (st0 = 1 ∨ st1 = 1) && decide (st0 = 2 ∨ st1 = 2))
      ∧ ((s.holds || s.beside) = true → f < s.fnCount → ∀ k < 20, s.fnNames f k = true →
        (st0 ≠ 0 → t.chanBit k 30 = false) ∧ (st1 ≠ 0 → t.chanBit k 29 = false) ∧ (st0 ≠ 0 → st1 ≠ 0 → ChannelOff k t))))
  ∧ (∀ (s : State) (c : Nat) (r : ConnRec), s.runs 6 = true → s.mrtRuns = true → s.connRec c = some r → r.produces = false → r.wd < 65536 →
    (∀ (seq : Nat) (data : List Byte), (s.mrt.conns.get c).bound = true → data.length = r.len → 1 ≤ r.len → r.len ≤ 32 → 1 ≤ seq → seq < 65536 →
      let d := seqAhead (s.fld F.MRT_CONN_STAT_SEQ c) seq
      let x := s.mrt.conns.get c
      (1 ≤ d → d ≤ 16 → ∃ t, exec (.tenonReceive c (tenonBytes r 1 seq data)) s = .next t ∧ t.fld F.MRT_CONN_STAT_SEQ c = seq
        ∧ (t.mrt.conns.get c).data = data ∧ (t.mrt.conns.get c).good = x.good + 1 ∧ (t.mrt.conns.get c).idle = 0
        ∧ (1 ≤ x.good → t.flag F.MRT_CONN_STAT_VALID c = true ∧ t.connData c = data) ∧ ∀ e, e ≠ c → t.mrt.conns.get e = s.mrt.conns.get e)
      ∧ (d = 0 ∨ 32767 < d → ∃ t, exec (.tenonReceive c (tenonBytes r 1 seq data)) s = .next t ∧ t.mrt = s.mrt
        ∧ t.fld F.MRT_CONN_ERR_REPEAT c = min (s.fld F.MRT_CONN_ERR_REPEAT c + 1) 65535 ∧ t.reg .MRT_CONN_STAT c = s.reg .MRT_CONN_STAT c)
      ∧ (16 < d → d ≤ 32767 → ∃ t, exec (.tenonReceive c (tenonBytes r 1 seq data)) s = .next t
        ∧ t.fld F.MRT_CONN_ERR_CHECK c = min (s.fld F.MRT_CONN_ERR_CHECK c + 1) 65535
        ∧ t.fld F.MRT_CONN_STAT_SEQ c = s.fld F.MRT_CONN_STAT_SEQ c))
    ∧ (∀ b : List Byte, u32 b (6 + u8 b 1) ≠ crcTenon (leBytes 4 r.ident ++ b.take (6 + u8 b 1)) →
      ∃ t, exec (.tenonReceive c b) s = .next t ∧ t.fld F.MRT_CONN_ERR_CHECK c = min (s.fld F.MRT_CONN_ERR_CHECK c + 1) 65535
        ∧ t.fld F.MRT_CONN_STAT_SEQ c = s.fld F.MRT_CONN_STAT_SEQ c ∧ (⟨0x0C86, c⟩ : Report) ∈ t.reports.drop s.reports.length)
    ∧ (∀ n : List Byte, n.length = 4 → (s.mrt.conns.get c).nonce = some n → (s.mrt.conns.get c).crcAt = none →
      ∃ t, exec (.tenonReceive c (tenonBytes r 2 0 n)) s = .next t ∧ (t.mrt.conns.get c).bound = true ∧ (t.mrt.conns.get c).good = 0
        ∧ t.flag F.MRT_CONN_STAT_VALID c = false ∧ t.fld F.MRT_CONN_STAT_SEQ c = 0 ∧ CellsKept [(.MRT_CONN_STAT, c)] s t))
  ∧ (∀ (s : State) (c : Nat) (r : ConnRec), s.runs 6 = true → s.mrtRuns = true → s.connRec c = some r → r.produces = false →
    (s.mrt.conns.get c).bound = true → r.wd ≤ (s.mrt.conns.get c).idle → ∃ t, exec (.tenonLost c) s = .next t
      ∧ t.flag F.MRT_CONN_STAT_VALID c = false ∧ t.flag F.MRT_CONN_STAT_LOST c = true ∧ t.connData c = [] ∧ (t.mrt.conns.get c).bound = false
      ∧ (⟨0x0C05, c⟩ : Report) ∈ t.reports.drop s.reports.length)
  ∧ (∀ (s : State) (c : Nat), (s.mrt.conns.get c).bound = false → exec (.tenonLost c) s = .next s)

/-! ### The pair -/

/-- R293 to R296, R306, R307, R310, R311: a start claim and a takeover from SYNC take the peg (causes 9 and 8), the takeover with the counters
2^32 on; contention closes the gate with 0D02h, and unit B releases; a driven net that is low, and a low net that is not driven, are a fault;
a lost keepalive, an expired watchdog (0D09h) and a due return release the peg, whose partner in SYNC takes it; KICK restarts the watchdog; a
handover and a return are refused, or become due. (The causes of a claim and a takeover: log entry 45.) Completes: START_CLAIM,
TAKEOVER, CONTENTION, PEG_FAULT, KEEPALIVE_LOSS, WDOG_RELEASE, KICK, HANDOVER, REVERT_REQUEST, RETURNED. -/
def Obligations.PegIsTakenAndReleased : Prop :=
  (∀ s : State, s.runs 0 = true → s.peg.driven = false → s.peg.released = false →
    s.fld F.PEG_STAT_STATE = 0 ∨ (s.fld F.PEG_STAT_STATE = 1 ∧ s.unitB = false) → ∃ t, exec .startClaim s = .next t ∧ PegTaken 9 s t
      ∧ (∀ b ∈ s.bays, t.flag F.FRG_BAY_CTL_RUN b = false) ∧ (∀ k < 20, ChannelOff k t) ∧ t.fld F.PEG_PDO_EFF = 0
      ∧ t.trs.committed = Entry.empty s.heat)
  ∧ (∀ s : State, s.peg.driven = true ∨ s.peg.released = true → exec .startClaim s = .next s)
  ∧ (∀ s : State, s.runs 0 = true → s.fld F.PEG_STAT_STATE = 4 → ∃ t, exec .takeover s = .next t ∧ PegTaken 8 s t ∧ t.trs.tookOver = true
    ∧ t.fdl.counter = s.fdl.counter + 2 ^ 32 ∧ t.trs.committed = s.trs.committed ∧ t.trs.window = s.trs.window)
  ∧ (∀ s : State, s.fld F.PEG_STAT_STATE ≠ 4 → exec .takeover s = .next s)
  ∧ (∀ s : State, s.runs 0 = true → s.peg.driven = true → (∃ t, exec (.contention true) s = .next t ∧ t.holds = false
      ∧ (⟨0x0D02, 0⟩ : Report) ∈ t.reports.drop s.reports.length ∧ (s.unitB = true → PegReleased 6 s t) ∧ (s.unitB = false → t.peg = s.peg))
    ∧ ∃ t, exec (.contention false) s = .next t ∧ t.holds = true ∧ t.flag F.PEG_STAT_PART_NET = true ∧ CellsKept [(.PEG_STAT, 0)] s t)
  ∧ (∀ (s : State) (low : Bool), s.runs 0 = true → s.peg.driven = !low → ∃ t, exec (.pegFault low) s = .next t ∧ t.fld F.PEG_STAT_STATE = 6
    ∧ t.flag F.PEG_STAT_OWN_NET = !low ∧ t.peg.driven = false ∧ t.peg.keepers = false ∧ (⟨0x0D03, 0⟩ : Report) ∈ t.reports.drop s.reports.length
    ∧ (low = false → t.holds = false ∧ t.fld F.PEG_EVENT_CAUSE = 7))
  ∧ (∀ s : State, exec (.pegFault s.peg.driven) s = .next s)
  ∧ (∀ s : State, s.runs 0 = true → s.peg.driven = true → ∃ t, exec .keepaliveLoss s = .next t ∧ PegReleased 1 s t)
  ∧ (∀ s : State, s.runs 0 = true → s.peg.driven = true → s.flag F.PEG_CTL_WDOG_EN = true → s.fld F.PEG_WDOG_HEATS ≤ s.peg.kick →
    ∃ t, exec .wdogRelease s = .next t ∧ PegReleased 3 s t ∧ (⟨0x0D09, 0⟩ : Report) ∈ t.reports.drop s.reports.length)
  ∧ (∀ (s : State) (who : Initiator), ReachesReg s who .PEG_CMD 0 →
    exec (.kick who) s = .next { served s who with peg := { s.peg with kick := 0 }, resp := .done }
    ∧ ((s.holds && s.partnerSync) = true → exec (.handover who) s = .next { served s who with peg := { s.peg with due := some 4 }, resp := .done })
    ∧ ((s.holds && s.partnerSync) = false → exec (.handover who) s = .next { (served s who).pegCode 0x0D07 with resp := .done }))
  ∧ (∀ s : State, s.runs 0 = true → s.revertOk = true →
    ((s.holds && s.partnerSync) = true → exec (.revertRequest true) s = .next { s with peg := { s.peg with due := some 5 } })
    ∧ (s.holds = false → s.fld F.PEG_STAT_STATE = 4 → s.unitB = s.peg.pref →
      6000000000 ≤ s.fld F.PEG_SYNC_TIME_HEATS * (100 * s.period) → s.blw.worst < s.tWarn →
      ∃ t, exec (.revertRequest true) s = .next t ∧ t.peg = { s.peg with due := some 5 } ∧ t = { s with peg := t.peg, sent := t.sent }
        ∧ t.sent.length = s.sent.length + 1))
  ∧ (∀ (s : State) (ok : Bool), (s.revertOk && ok) = false → exec (.revertRequest ok) s = .next s)
  ∧ (∀ (s : State) (c : Nat), s.runs 0 = true → s.peg.due = some c → c = 4 ∨ c = 5 →
    (s.holds = true → s.returnMarker = true → s.partnerSync = true → ∃ t, exec .returned s = .next t ∧ PegReleased c s t
      ∧ t.flag F.PEG_STAT_PART_NET = false ∧ (c = 5 → (⟨0x0D84, 0⟩ : Report) ∈ t.reports.drop s.reports.length))
    ∧ (s.holds = false → s.fld F.PEG_STAT_STATE = 4 → (s.now + 1) % 100 = 0 → ∃ t, exec .returned s = .next t ∧ PegTaken c s t
      ∧ (c = 5 → (⟨0x0D84, 0⟩ : Report) ∈ t.reports.drop s.reports.length)))
  ∧ (∀ s : State, (s.now + 1) % 100 ≠ 0 → exec .returned s = .next s)

/-- R289, R290, R297, R299 to R301, R304, R305, R312, R313: a change of the preferred role advances the fuse counter and is refused with 0D06h
at 31; a handshake with another feature word, the same unit, a failed authentication or no pair key is refused with 0D01h and waits for its
retry, and another binds; 100 strokes in lock lead to CATCHUP, equal images and a full heat of frames to SYNC; a lost link ends SYNC and the
bond with 0D05h; the keepers turn off, and a partner in reset or with a stuck net is reported. Completes: PEG_ROLE_WRITE, BIND_HANDSHAKE,
BIND_RETRY, LOCK_ACHIEVED, CATCHUP_COMPLETE, SOLLEY_LINK_LOST, KEEPER_TIMEOUT, PEER_IN_RESET, PART_NET_STUCK. -/
def Obligations.PairBindsAlignsAndLosesItsLink : Prop :=
  (∀ (s : State) (who : Initiator) (b : Bool), ReachesReg s who .PEG_ROLE 0 →
    (s.flag F.PEG_ROLE_PREFERRED = b → exec (.pegRoleWrite who b) s = .next { served s who with resp := .done })
    ∧ (s.flag F.PEG_ROLE_PREFERRED ≠ b → s.fld F.PEG_ROLE_CNT_COUNT = 31 →
      exec (.pegRoleWrite who b) s = .next { (served s who).pegCode 0x0D06 with resp := .done })
    ∧ (s.flag F.PEG_ROLE_PREFERRED ≠ b → s.fld F.PEG_ROLE_CNT_COUNT < 31 → ∃ t, exec (.pegRoleWrite who b) s = .next t ∧ t.resp = .done
      ∧ t.flag F.PEG_ROLE_PREFERRED = b ∧ t.fld F.PEG_ROLE_CNT_COUNT = s.fld F.PEG_ROLE_CNT_COUNT + 1
      ∧ CellsKept [(.PEG_ROLE, 0), (.PEG_ROLE_CNT, 0)] s t ∧ t.reports = s.reports))
  ∧ (∀ (s : State) (f0 f1 : W32) (ub pref : Bool) (image : Nat) (auth holds : Bool) (lat : Nat), s.runs 0 = true →
    s.fld F.PEG_STAT_STATE = 0 ∨ s.fld F.PEG_STAT_STATE = 1 ∨ s.fld F.PEG_STAT_STATE = 5 → s.peg.refused = false →
    (f0 ≠ s.feat0 ∨ f1.toNat % 2 ^ 24 ≠ s.feat1.toNat % 2 ^ 24 ∨ ub = s.unitB ∨ auth = false ∨ s.hasPairKey = false →
      ∃ t, exec (.bindHandshake f0 f1 ub pref image auth holds lat) s = .next t ∧ t.peg = { s.peg with refused := true }
        ∧ t.fld F.PEG_STAT_CODE = 0x0D01 ∧ t.reports = s.reports ++ [⟨0x0D01, 0⟩] ∧ t.flag F.PEG_STAT_LINK = s.flag F.PEG_STAT_LINK)
    ∧ (f0 = s.feat0 → f1.toNat % 2 ^ 24 = s.feat1.toNat % 2 ^ 24 → ub ≠ s.unitB → auth = true → s.hasPairKey = true →
      ∃ t, exec (.bindHandshake f0 f1 ub pref image auth holds lat) s = .next t ∧ t.flag F.PEG_STAT_LINK = true
        ∧ t.flag F.PEG_STAT_ROLE_MISMATCH = decide (pref ≠ s.flag F.PEG_ROLE_PREFERRED) ∧ t.peg.partImage = image ∧ t.peg.latency = lat
        ∧ t.fld F.PEG_STAT_STATE = (if s.holds then s.fld F.PEG_STAT_STATE else if holds then 2 else 1) ∧ t.holds = s.holds
        ∧ RegsKept [.PEG_STAT, .PEG_MIRROR, .PEG_PDO, .TRS_STAT] s t))
  ∧ (∀ s : State, s.runs 0 = true → s.peg.refused = true → ∃ t, exec .bindRetry s = .next t ∧ t.peg = { s.peg with refused := false }
    ∧ t.fld F.PEG_STAT_STATE = (if s.fld F.PEG_STAT_STATE = 0 then 1 else s.fld F.PEG_STAT_STATE) ∧ CellsKept [(.PEG_STAT, 0)] s t)
  ∧ (∀ s : State, s.peg.refused = false → exec .bindRetry s = .next s)
  ∧ (∀ s : State, s.runs 0 = true → s.fld F.PEG_STAT_STATE = 2 → s.peg.aligned = true → 100 ≤ s.peg.lockGood →
    ∃ t, exec .lockAchieved s = .next t
    ∧ t.fld F.PEG_STAT_STATE = 3 ∧ t.peg = { s.peg with frames := 0, missing := 0, lateRun := 0 } ∧ CellsKept [(.PEG_STAT, 0)] s t)
  ∧ (∀ s : State, s.peg.lockGood < 100 → exec .lockAchieved s = .next s)
  ∧ (∀ s : State, s.runs 0 = true → s.holds = true → s.flag F.PEG_STAT_LINK = true →
    exec .catchupComplete s = .next (s.setFld F.PEG_STAT_PARTNER_SYNC 0 1))
  ∧ (∀ s : State, s.runs 0 = true → s.holds = false → s.fld F.PEG_STAT_STATE = 3 → s.peg.partImage = s.jny.active.ident → 100 ≤ s.peg.frames →
    ∃ t, exec .catchupComplete s = .next t ∧ t.fld F.PEG_STAT_STATE = 4 ∧ t.fld F.PEG_SYNC_TIME_HEATS = 0 ∧ t.peg.keepers = true
      ∧ t.peg.released = false ∧ t.reports = s.reports ++ [⟨0x0D83, 0⟩] ∧ RegsKept [.PEG_STAT, .PEG_SYNC_TIME] s t ∧ MemKept s t)
  ∧ (∀ (s : State) (lanes : Bool), s.runs 0 = true → s.flag F.PEG_STAT_LINK = true → lanes = true ∨ 3 ≤ s.peg.missing →
    ∃ t, exec (.solleyLinkLost lanes) s = .next t
    ∧ t.flag F.PEG_STAT_LINK = false ∧ t.flag F.PEG_STAT_PARTNER_SYNC = false ∧ t.holds = s.holds ∧ t.peg.driven = s.peg.driven
    ∧ t.fld F.PEG_STAT_STATE = (if 2 ≤ s.fld F.PEG_STAT_STATE ∧ s.fld F.PEG_STAT_STATE ≤ 4 then 1 else s.fld F.PEG_STAT_STATE)
    ∧ (⟨0x0D05, 0⟩ : Report) ∈ t.reports.drop s.reports.length ∧ RegsKept [.PEG_STAT, .PEG_SYNC_TIME] s t)
  ∧ (∀ (s : State) (lanes : Bool), s.flag F.PEG_STAT_LINK = false ∨ (lanes = false ∧ s.peg.missing < 3) → exec (.solleyLinkLost lanes) s = .next s)
  ∧ (∀ s : State, s.runs 0 = true → s.holds = false → exec .keeperTimeout s = .next { s with peg := { s.peg with keepers := false } })
  ∧ (∀ s : State, s.holds = true → exec .keeperTimeout s = .next s)
  ∧ (∀ s : State, s.runs 0 = true →
    (s.flag F.PEG_STAT_PEER_RESET = false → exec (.peerInReset true) s = .next ((s.setFld F.PEG_STAT_PEER_RESET 0 1).pegCode 0x0D08))
    ∧ (s.flag F.PEG_STAT_PEER_RESET = true → exec (.peerInReset true) s = .next s)
    ∧ exec (.peerInReset false) s = .next (s.setFld F.PEG_STAT_PEER_RESET 0 0))
  ∧ (∀ s : State, s.runs 0 = true → ∃ t, exec .partNetStuck s = .next t ∧ t.flag F.PEG_STAT_PART_NET_STUCK = true
    ∧ t.flag F.PEG_STAT_PART_NET = false
    ∧ t.fld F.PEG_STAT_CODE = 0x0D03 ∧ t.reports = s.reports ++ [⟨0x0D03, 0⟩] ∧ CellsKept [(.PEG_STAT, 0)] s t ∧ MemKept s t)

/-- R128, R303, R304, R309: a mirror frame that fails its check or comes without a link is ignored; on the holder it tells whether the partner is
in SYNC; a standby takes its points, its PDO word for the next marker, its backlog and its hot words, which wait for the next instance to start,
counts a late frame, and leaves SYNC on a backlog above 100; a PDO write becomes effective two strokes on and is refused with 0D07h on a bound
standby. Completes: MIRROR_FRAME, PDO_WRITE, PDO_EFFECTIVE. -/
def Obligations.MirrorFramesAndPairedOutputs : Prop :=
  (∀ (s : State) (m : Mirror), m.crcOk = false ∨ s.flag F.PEG_STAT_LINK = false → exec (.mirrorFrame m) s = .next s)
  ∧ (∀ (s : State) (m : Mirror), s.runs 0 = true → m.crcOk = true → s.flag F.PEG_STAT_LINK = true → s.holds = true →
    ∃ t, exec (.mirrorFrame m) s = .next t
    ∧ t.flag F.PEG_STAT_PARTNER_SYNC = m.sync ∧ t.peg = { s.peg with got := true, partImage := m.image } ∧ CellsKept [(.PEG_STAT, 0)] s t
    ∧ MemKept s t)
  ∧ (∀ (s : State) (m : Mirror), s.runs 0 = true → m.crcOk = true → s.flag F.PEG_STAT_LINK = true → s.holds = false →
    s.fld F.PEG_STAT_STATE = 3 ∨ s.fld F.PEG_STAT_STATE = 4 → ∃ t, exec (.mirrorFrame m) s = .next t
      ∧ t.peg.got = true ∧ t.peg.partImage = m.image ∧ t.fld F.PEG_MIRROR_BACKLOG = min 255 m.backlog
      ∧ t.fld F.PEG_MIRROR_LATE = (if m.late then min (s.fld F.PEG_MIRROR_LATE + 1) 65535 else s.fld F.PEG_MIRROR_LATE)
      ∧ (m.backlog ≤ 100 → m.mortise = none → t.peg.pdo = s.peg.pdo ++ (match m.pdo with | some w => [(w, s.now + 1)] | none => []))
      ∧ ((m.points.map fun x => x.id).Nodup → ∀ x ∈ m.points, t.point x.id = ⟨x.value, x.qual, x.seq, x.cls, x.ident, x.time, x.ofs⟩)
      ∧ (∀ e w v, m.hot = [(e, w, v)] → m.cold = [] → e < 48 → wordState w = true → (w, v) ∈ (t.eng e).mirror ∧ (t.eng e).now = (s.eng e).now)
      ∧ (100 < m.backlog → t.fld F.PEG_STAT_STATE = 3) ∧ t.holds = false)
  ∧ (∀ (s : State) (who : Initiator) (w : Nat), ReachesReg s who .PEG_PDO 0 →
    (s.holds = true ∨ s.fld F.PEG_STAT_STATE ≤ 1 → ∃ t, exec (.pdoWrite who w) s = .next t ∧ t.resp = .done
      ∧ t.fld F.PEG_PDO_REQ = w % 65536 ∧ t.fld F.PEG_PDO_EFF = s.fld F.PEG_PDO_EFF ∧ t.peg = { s.peg with pdo := s.peg.pdo ++ [(w, s.now + 2)] }
      ∧ CellsKept [(.PEG_PDO, 0)] s t ∧ t.reports = s.reports)
    ∧ (s.holds = false → 2 ≤ s.fld F.PEG_STAT_STATE → exec (.pdoWrite who w) s = .next { (served s who).pegCode 0x0D07 with resp := .done }))
  ∧ (∀ s : State, s.peg.pdo = [] → exec .pdoEffective s = .next s)
  ∧ (∀ (s : State) (w h : Nat) (rest : List (Nat × Nat)), s.peg.pdo = (w, h) :: rest →
    (s.runs 0 = true → h ≤ s.now → (s.holds = true ∨ s.fld F.PEG_STAT_STATE ≤ 1 ∨ s.fld F.PEG_STAT_STATE = 4) → ∃ t, exec .pdoEffective s = .next t
      ∧ t.fld F.PEG_PDO_EFF = w % 65536 ∧ t.fld F.PEG_PDO_REQ = s.fld F.PEG_PDO_REQ
      ∧ t.peg = { s.peg with pdo := rest } ∧ CellsKept [(.PEG_PDO, 0)] s t)
    ∧ (s.now < h → exec .pdoEffective s = .next s))

/-! ### The site network, points and rings -/

/-- R315, R317, R338, R340, R343: a port that is not off shows its link and speed, and a lost link clears them with 0701h; a change of the
grandmaster shows with 0784h; a cleared attach point clears VALID with 0785h; a free EXI engine takes the next job, and the oldest job ends,
counted, with its output or as an error with 0704h. (The codec: log entry 5; what a unit reads: log entry 60.) Completes:
PORT_LINK_UP, LINK_DOWN, PTP_GM_CHANGE, ATTACH_CLEARED, EXI_JOB, EXI_RESULT. -/
def Obligations.PortsSessionsAndExiJobs : Prop :=
  (∀ (s : State) (p sp : Nat) (plca : Bool), (netPortMode (s.body tyNET) p = 0 → exec (.portLinkUp p sp plca) s = .next s)
    ∧ (s.runs 0 = true → netPortMode (s.body tyNET) p ≠ 0 → ∃ t, exec (.portLinkUp p sp plca) s = .next t ∧ t.flag F.NET_PORT_STAT_LINK p = true
      ∧ t.fld F.NET_PORT_STAT_SPEED p = portSpeed p (netPortMode (s.body tyNET) p) sp % 8
      ∧ t.flag F.NET_PORT_STAT_PLCA p = (plca && decide (6 ≤ p ∧ 2 ≤ netPortMode (s.body tyNET) p))
      ∧ t = { s with regs := t.regs } ∧ CellsKept [(.NET_PORT_STAT, p)] s t))
  ∧ (∀ (s : State) (p : Nat), (s.flag F.NET_PORT_STAT_LINK p = false → exec (.linkDown p) s = .next s)
    ∧ (s.runs 0 = true → s.flag F.NET_PORT_STAT_LINK p = true → ∃ t, exec (.linkDown p) s = .next t ∧ t.flag F.NET_PORT_STAT_LINK p = false
      ∧ t.fld F.NET_PORT_STAT_SPEED p = 0 ∧ t.flag F.NET_PORT_STAT_PLCA p = false ∧ t.reports = s.reports ++ [⟨0x0701, p⟩]
      ∧ CellsKept [(.NET_PORT_STAT, p)] s t))
  ∧ (∀ (s : State) (master synced : Bool) (ofs : Int), s.runs 0 = true → ∃ t, exec (.ptpGmChange master synced ofs) s = .next t
    ∧ t.flag F.NET_PTP_STAT_GM = master ∧ t.flag F.NET_PTP_STAT_SYNCED = synced
    ∧ t.fld F.NET_PTP_STAT_OFFSET = unsignedOf 16 (clampInt (-32768) 32767 ofs) ∧ t.reports = s.reports ++ [⟨0x0784, 0⟩]
    ∧ t = { s with regs := t.regs, reports := t.reports } ∧ CellsKept [(.NET_PTP_STAT, 0)] s t)
  ∧ (∀ (s : State) (o : Nat), s.runs 0 = true → s.flag F.NET_SESS_CFG_EN o = true → 2 ≤ s.net.attach.get o →
    s.flag F.TRS_OUT_DEM_HI_VALID o = true → ∃ t, exec (.attachCleared o) s = .next t ∧ t.flag F.TRS_OUT_DEM_HI_VALID o = false
      ∧ t.reg .TRS_OUT_DEM_LO o = s.reg .TRS_OUT_DEM_LO o ∧ t.fld F.NET_SESS_STAT_CLEARS o = min (s.fld F.NET_SESS_STAT_CLEARS o + 1) 255
      ∧ (⟨0x0785, o⟩ : Report) ∈ t.reports.drop s.reports.length)
  ∧ (∀ (s : State) (o : Nat), s.net.attach.get o < 2 → exec (.attachCleared o) s = .next s)
  ∧ (∀ (s : State) (e : List Byte), let r := u8 (s.body tyNET) 0x15
    s.runs 0 = true → s.ringFits r 1 32 = true → s.net.jobs.length < 2 → (s.ringTake r).1 = some e → ∃ t, exec .exiJob s = .next t
      ∧ t.net.jobs = s.net.jobs ++ [⟨u8 e 0, u8 e 1, u32 e 4, uN e 8 8, u32 e 16, u32 e 20, uN e 24 8⟩]
      ∧ t.ringCons r = (s.ringCons r + 1) % (2 * s.ringEntries r) % 2 ^ 17 ∧ t = { s with regs := t.regs, net := t.net }
      ∧ CellsKept [(.PNT_RING_CONS, r)] s t)
  ∧ (∀ s : State, 2 ≤ s.net.jobs.length → exec .exiJob s = .next s)
  ∧ (∀ (s : State) (j : ExiJob) (rest : List ExiJob), s.runs 0 = true → s.net.jobs = j :: rest →
    let got := (s.fetch ⟨12, 0⟩ j.src j.srcLen).1.bind fun m => (j.run m).1
    let ok := got.any fun out => (s.unitWrite ⟨12, 0⟩ j.out out).1
    ∃ t, exec .exiResult s = .next t ∧ t.net.jobs = rest ∧ t.fld F.NET_EXI_STAT_JOBS = min (s.fld F.NET_EXI_STAT_JOBS + 1) 65535
      ∧ (ok = true → t.fld F.NET_EXI_STAT_ERRORS = s.fld F.NET_EXI_STAT_ERRORS)
      ∧ (ok = false → t.fld F.NET_EXI_STAT_ERRORS = min (s.fld F.NET_EXI_STAT_ERRORS + 1) 65535
        ∧ (⟨0x0704, j.tag⟩ : Report) ∈ t.reports.drop s.reports.length)
      ∧ (∀ out, got = some out → ok = true → s.ringFits (u8 (s.body tyNET) 0x16) 0 16 = false →
        t.mem = (s.unitWrite ⟨12, 0⟩ j.out out).2.mem))
  ∧ (∀ s : State, s.net.jobs = [] → exec .exiResult s = .next s)

/-- R328, R330, R331, R334, R335: the station answers a well-formed ANNOUNCE by CHALLENGE in the slot it chooses, or with REJECT; a RESPONSE that
passes every check binds its slot under the derived key with 0781h, and one that fails frees a challenged slot, as does 1 s without one; the
station announces itself every 10 s; a partner without PX for LIVE_TO is lost with 0703h and its inputs are COMM_LOST; a LEAVE frees its slot. A
device that is not the station ignores them all. Completes: ANNOUNCE, RESPONSE, RESPONSE_TIMEOUT, STATION_ANNOUNCE, PARTNER_LOST, LEAVE. -/
def Obligations.RollCallBindsPartners : Prop :=
  (∀ (s : State) (port addr : Nat) (b : List Byte) (m : RollMsg), RollCall s b 1 m → m.body.length = 8 → m.tail = [] → s.ignoring m.sender = false →
    s.slotOfSender m.sender = none →
    (∀ d, s.chooseSlot m.sender (u8 m.body 0) = some d → s.partnerState d.slot ≠ 2 → ∃ t, exec (.announce port addr b) s = .next t
      ∧ t.partnerState d.slot = 1 ∧ (t.partner d.slot).sender = m.sender ∧ (t.partner d.slot).addr = addr
      ∧ (t.partner d.slot).nonceD = leBytes 32 (s.fresh 256).toNat ∧ (t.partner d.slot).asked = s.now ∧ t.sent.length = s.sent.length + 1
      ∧ t.reports = s.reports ∧ CellsKept [(.NET_SLOT_STAT, d.slot)] s t)
    ∧ (s.chooseSlot m.sender (u8 m.body 0) = none → ∃ t, exec (.announce port addr b) s = .next t ∧ t.net.slots = s.net.slots
      ∧ t.sent.length = s.sent.length + 1 ∧ t.reports = s.reports ++ [⟨0x0702, 1⟩] ∧ RegsKept [] s t))
  ∧ (∀ (s : State) (port addr n : Nat) (b : List Byte) (m : RollMsg) (d : SlotDef), RollCall s b 3 m → 72 ≤ m.body.length → FromSlot s m n d →
    s.partnerState n = 1 →
    ∀ k g, s.slotKey d.key 0 12 = some k → s.slotKey (u16 (s.body tyNET) 8) 0 0 = some g → ∃ t, exec (.response port addr b) s = .next t
      ∧ (s.responseFault d m = 0 → t.partnerState n = 2 ∧ t.fld F.NET_SLOT_STAT_AGE n = 0 ∧ (t.partner n).sender = (s.partner n).sender
        ∧ (t.partner n).key = Config.sessionKey k ((s.partner n).nonceD ++ slice m.body 32 32)
            ([0x72, 0x6F, 0x6C, 0x6C, 0x20, 0x63, 0x61, 0x6C, 0x6C] ++ leBytes 8 m.sender ++ (s.body tyNET).take 8)
        ∧ (t.partner n).inCtr = 0 ∧ t.sent.length = s.sent.length + 1 ∧ (⟨0x0781, n⟩ : Report) ∈ t.reports.drop s.reports.length)
      ∧ (s.responseFault d m ≠ 0 → t.partnerState n = 0 ∧ t.partner n = Slot.free
        ∧ (⟨0x0702, s.responseFault d m⟩ : Report) ∈ t.reports.drop s.reports.length
        ∧ (s.responseFault d m ≠ 5 → ∃ g ∈ t.net.ignored, g.sender = m.sender)))
  ∧ (∀ (s : State) (n : Nat), s.runs 0 = true → (s.partner n).asked + s.strokesIn 100000000 ≤ s.now →
    (s.partnerState n = 1 → ∃ t, exec (.responseTimeout n) s = .next t ∧ t.partnerState n = 0 ∧ t.partner n = Slot.free
      ∧ (⟨0x0702, 5⟩ : Report) ∈ t.reports.drop s.reports.length)
    ∧ (s.partnerState n = 2 → (s.partner n).rebind = true → ∃ t, exec (.responseTimeout n) s = .next t ∧ t.partnerState n = 2
      ∧ t.partner n = { s.partner n with rebind := false }))
  ∧ (∀ (s : State) (n : Nat), s.now < (s.partner n).asked + s.strokesIn 100000000 → exec (.responseTimeout n) s = .next s)
  ∧ (∀ s : State, s.runs 0 = true → s.station = true → (s.net.announced.all fun a => decide (a + s.strokesIn 1000000000 ≤ s.now)) = true →
    ∃ t, exec .stationAnnounce s = .next t ∧ t.net = { s.net with counter := (s.net.counter + 1) % 2 ^ 64, announced := some s.now }
      ∧ t.sent.length = s.sent.length + 1 ∧ RegsKept [] s t ∧ MemKept s t ∧ t.reports = s.reports)
  ∧ (∀ (s : State) (a : Nat), s.net.announced = some a → s.now < a + s.strokesIn 1000000000 → exec .stationAnnounce s = .next s)
  ∧ (∀ (s : State) (n : Nat) (d : SlotDef), s.runs 0 = true → s.slotDef n = some d → s.partnerState n = 2 →
    ((s.partner n).last + s.strokesIn (10000000 * d.live) ≤ s.now → ∃ t, exec (.partnerLost n) s = .next t ∧ t.partnerState n = 3
      ∧ (⟨0x0703, n⟩ : Report) ∈ t.reports.drop s.reports.length
      ∧ (∀ p, t.point p = if p ∈ s.slotInputs d then { s.point p with qual := 6 } else s.point p)
      ∧ RegsKept [.NET_SLOT_STAT, .MRT_CONN_STAT, .PNT_RING_PROD, .PNT_RING_STAT] s t)
    ∧ (s.now < (s.partner n).last + s.strokesIn (10000000 * d.live) → exec (.partnerLost n) s = .next s))
  ∧ (∀ (s : State) (port n : Nat) (b body : List Byte) (m : RollMsg), RollCall s b 7 m → m.tail.length = 16 → m.body.length = 8 →
    s.slotOfSender m.sender = some n → s.partnerState n = 2 → s.unseal n m = some body → ∃ t, exec (.leave port b) s = .next t
      ∧ t.partnerState n = 0 ∧ t.partner n = Slot.free ∧ (⟨0x0782, n⟩ : Report) ∈ t.reports.drop s.reports.length)
  ∧ (∀ (c : Instr) (s : State) (port addr ofs : Nat) (b : List Byte), s.station = false →
    c = .announce port addr b ∨ c = .response port addr b ∨ c = .px port ofs b ∨ c = .leave port b ∨ c = .stationAnnounce → exec c s = .next s)

/-- R320, R321, R325, R333, R341: an authenticated PX frame writes its entry to the slot's point as writer class 5 at the present stroke, the
fifth frame of a heat and one that fails its tag count in BAD; the host writes a point only as its writer, with QUAL up to 4 (0802h, 0804h);
software's ring indices are taken within what waits and what is free, and are otherwise refused with 0803h; an index of a ring that is not
defined or of the other direction changes nothing. Completes: PX, HOST_POINT_WRITE, RING_CONS_WRITE, RING_PROD_WRITE. -/
def Obligations.PointsAndRingIndices : Prop :=
  (∀ (s : State) (port ofs n : Nat) (b : List Byte) (m : RollMsg) (d : SlotDef), RollCall s b 6 m → m.tail.length = 16 → FromSlot s m n d → s.partnerState n = 2 →
    (s.unseal n m = none → ∃ t, exec (.px port ofs b) s = .next t ∧ t.fld F.NET_SLOT_STAT_BAD n = min (s.fld F.NET_SLOT_STAT_BAD n + 1) 255
      ∧ t.fld F.NET_VIOL_CNT_COUNT = min (s.fld F.NET_VIOL_CNT_COUNT + 1) (2 ^ 32 - 1) ∧ (t.partner n).inCtr = (s.partner n).inCtr)
    ∧ (∀ body, s.unseal n m = some body → 4 ≤ (s.partner n).frames → ∃ t, exec (.px port ofs b) s = .next t ∧ t.pnt.table = s.pnt.table
      ∧ t.fld F.NET_SLOT_STAT_BAD n = min (s.fld F.NET_SLOT_STAT_BAD n + 1) 255 ∧ (t.partner n).inCtr = m.counter + 1)
    ∧ (∀ body, s.unseal n m = some body → (s.partner n).frames < 4 → body.length = 28 → u16 body 2 = 1 → u8 body 0 = n →
      let e := slice body 16 12
      let p := d.base + u16 e 0
      u16 e 0 < d.objs → u8 e 2 = s.pointType p → u8 e 3 ≤ 4 → s.isInput d p = true → ∃ t, exec (.px port ofs b) s = .next t
        ∧ t.point p = ⟨BitVec.ofNat 64 (uN e 4 8), u8 e 3, ((s.point p).seq + 1) % 65536, 5, d.slot, s.now, ofs⟩
        ∧ (∀ q, q ≠ p → t.point q = s.point q) ∧ (t.partner n).inCtr = m.counter + 1 ∧ (t.partner n).frames = (s.partner n).frames + 1
        ∧ t.fld F.NET_SLOT_STAT_AGE n = 0 ∧ t.reports = s.reports ∧ CellsKept [(.NET_SLOT_STAT, n)] s t ∧ MemKept s t))
  ∧ (∀ (s : State) (who : Initiator) (ofs : Nat) (lo hi : W32), ReachesReg s who .PNT_HOST_WR_LO 0 →
    let p := s.fld F.PNT_HOST_WR_ID_POINT
    let u := (((served s who 8).setReg .PNT_HOST_WR_LO 0 lo).setReg .PNT_HOST_WR_HI 0 hi)
    (s.pointType p = 0 → exec (.hostPointWrite who ofs lo hi) s = .next { u.report 0x0802 p with resp := .done })
    ∧ (s.pointType p ≠ 0 → 5 ≤ s.fld F.PNT_HOST_WR_ID_QUAL → exec (.hostPointWrite who ofs lo hi) s = .next { u.report 0x0804 p with resp := .done })
    ∧ (∀ c, s.schema p = some c → s.fld F.PNT_HOST_WR_ID_QUAL ≤ 4 → ∃ t, exec (.hostPointWrite who ofs lo hi) s = .next t ∧ t.resp = .done
      ∧ (c.writer = 1 → t.point p = ⟨BitVec.ofNat 64 (lo.toNat + hi.toNat * 2 ^ 32), s.fld F.PNT_HOST_WR_ID_QUAL, ((s.point p).seq + 1) % 65536, 1,
          (Config.writerIdent 1 p ((s.point p).seq + 1)).toNat, s.now, ofs⟩
        ∧ (∀ q, q ≠ p → t.point q = s.point q) ∧ RegsKept [.PNT_HOST_WR_LO, .PNT_HOST_WR_HI] s t)
      ∧ (c.writer ≠ 1 → t.pnt.table = s.pnt.table ∧ t.fld F.PNT_STAT_WRITER_ERR = min (s.fld F.PNT_STAT_WRITER_ERR + 1) 65535)))
  ∧ (∀ (s : State) (who : Initiator) (n i : Nat), ReachesReg s who .PNT_RING_CONS n → n ≠ 62 →
    (s.fld F.PNT_RING_CFG_DEFINED n = 0 ∨ s.fld F.PNT_RING_CFG_DIR n = 1 → exec (.ringConsWrite who n i) s = .next { served s who with resp := .done })
    ∧ (s.fld F.PNT_RING_CFG_DEFINED n = 1 → s.fld F.PNT_RING_CFG_DIR n = 0 →
      (2 * s.ringEntries n ≤ i ∨ s.ringCount n < ringDist (s.ringCons n) i (s.ringEntries n) →
        exec (.ringConsWrite who n i) s = .next { (served s who).report 0x0803 n with resp := .done })
      ∧ (i < 2 * s.ringEntries n → ringDist (s.ringCons n) i (s.ringEntries n) ≤ s.ringCount n → ∃ t, exec (.ringConsWrite who n i) s = .next t
        ∧ t.resp = .done ∧ t.ringCons n = i % 2 ^ 17
        ∧ (s.asy.ring ≠ some n → RegsKept [.PNT_RING_CONS, .PNT_RING_STAT] s t ∧ MemKept s t))))
  ∧ (∀ (s : State) (who : Initiator) (i : Nat), ReachesReg s who .PNT_RING_CONS 62 →
    let d := ringDist s.pnt.peerCons i 2048
    let w := ringDist s.pnt.peerCons (s.fld F.PNT_RING_STAT_PEER_IDX 62) 2048
    (4096 ≤ i ∨ w < d → exec (.ringConsWrite who 62 i) s = .next { (served s who).report 0x0803 62 with resp := .done })
    ∧ (i < 4096 → d ≤ w → ∃ t, exec (.ringConsWrite who 62 i) s = .next t ∧ t.pnt = { s.pnt with peerCons := i } ∧ t.resp = .done
      ∧ t.flag F.PNT_RING_STAT_IRQ 62 = decide (i ≠ s.fld F.PNT_RING_STAT_PEER_IDX 62) ∧ CellsKept [(.PNT_RING_STAT, 62)] s t))
  ∧ (∀ (s : State) (who : Initiator) (n i : Nat), ReachesReg s who .PNT_RING_PROD n →
    let d := ringDist (s.ringProd n) i (s.ringEntries n)
    (s.fld F.PNT_RING_CFG_DEFINED n = 0 ∨ s.fld F.PNT_RING_CFG_DIR n = 0 → exec (.ringProdWrite who n i) s = .next { served s who with resp := .done })
    ∧ (s.fld F.PNT_RING_CFG_DEFINED n = 1 → s.fld F.PNT_RING_CFG_DIR n = 1 →
      (2 * s.ringEntries n ≤ i ∨ s.ringEntries n < s.ringCount n + d →
        exec (.ringProdWrite who n i) s = .next { (served s who).report 0x0803 n with resp := .done })
      ∧ (i < 2 * s.ringEntries n → s.ringCount n + d ≤ s.ringEntries n →
        exec (.ringProdWrite who n i) s = .next { (served s who).setFld F.PNT_RING_PROD_INDEX n i with resp := .done })))

/-! ### The CAN controllers and the Feeder link -/

/-- R347 to R350, R357 to R359, R362: a controller off its bus or in bus-off takes nothing; a frame that a message object names replaces the
object, with LOST where it was unread, and one shorter than its minimum, or that no route takes, is dropped and counted; a reference message
sets the cycle; a read of an object from its first byte takes a shadow and clears NEW and LOST; a receiver's error raises REC, but not in
listen-only; a protocol exception is counted and changes no error counter while PXHD = 0. Completes: CAN_FRAME_RECEIVED, CAN_RX_ERROR,
PROTOCOL_EXCEPTION, OBJECT_READ. -/
def Obligations.CanFramesAreStoredAndErrorsCounted : Prop :=
  (∀ (s : State) (n ofs lec : Nat) (x : CanFrame) (eight : Bool) (idw : W32), s.canOff n = true ∨ s.canBusOff n = true →
    exec (.canFrameReceived n ofs x) s = .next s ∧ exec (.canRxError n lec eight) s = .next s ∧ exec (.protocolException n idw) s = .next s)
  ∧ (∀ (s : State) (n ofs : Nat) (x : CanFrame) (r : CanObjRec), s.runs 0 = true → s.canOff n = false → s.canBusOff n = false → s.canTenon n x = none →
    ((canObjs (s.body tyCAN)).find? fun r => decide (r.ctrl = n ∧ r.ident = x.ident ∧ r.xtd = x.xtd ∧ x.rtr = false)) = some r →
    (r.min ≤ x.data.length → ∃ t, exec (.canFrameReceived n ofs x) s = .next t ∧ t.canObj n r.obj = ⟨canIdw x, x.esi, true,
        (s.canObj n r.obj).new || (s.canObj n r.obj).lost, ((s.canObj n r.obj).count + 1) % 65536, s.now, ofs, x.data⟩
      ∧ (∀ k, k ≠ 256 * n + r.obj → t.can.objs.get k = s.can.objs.get k) ∧ t.fld F.CAN_CNT_RX_DROP n = s.fld F.CAN_CNT_RX_DROP n
      ∧ t.fld F.CAN_CNT_OBJ_LOST n = (if (s.canObj n r.obj).new then min (s.fld F.CAN_CNT_OBJ_LOST n + 1) 255 else s.fld F.CAN_CNT_OBJ_LOST n)
      ∧ (r.point = 0xFFFFFFFF ∨ s.holds = false → t.pnt.table = s.pnt.table)
      ∧ (∀ c, r.point < 2 ^ 18 → s.holds = true → s.schema r.point = some c → c.writer = 6 → c.ident = 256 * n + r.obj →
        (t.point r.point).value = BitVec.ofNat 64 (leNat ((x.data.drop r.ptOfs).take 8)) ∧ (t.point r.point).qual = 0
          ∧ ∀ p, p ≠ r.point → t.point p = s.point p))
    ∧ (x.data.length < r.min → ∃ t, exec (.canFrameReceived n ofs x) s = .next t ∧ t.can.objs = s.can.objs
      ∧ t.fld F.CAN_CNT_RX_DROP n = min (s.fld F.CAN_CNT_RX_DROP n + 1) 255))
  ∧ (∀ (s : State) (n ofs : Nat) (x : CanFrame), s.runs 0 = true → s.canOff n = false → s.canBusOff n = false → s.canTenon n x = none →
    ((canObjs (s.body tyCAN)).find? fun r => decide (r.ctrl = n ∧ r.ident = x.ident ∧ r.xtd = x.xtd ∧ x.rtr = false)) = none →
    s.fld F.CAN_CFG_RX_RING n = 63 ∨ canPasses (s.body tyCAN) n x = false → ∃ t, exec (.canFrameReceived n ofs x) s = .next t
      ∧ t.can.objs = s.can.objs ∧ t.fld F.CAN_CNT_RX_DROP n = min (s.fld F.CAN_CNT_RX_DROP n + 1) 255)
  ∧ (∀ (s : State) (n ofs : Nat) (x : CanFrame), s.runs 0 = true → s.canOff n = false → s.canBusOff n = false → s.fld F.CAN_CFG_TT n = 1 →
    s.isReference n x = true → ∃ t, exec (.canFrameReceived n ofs x) s = .next t ∧ t.fld F.CAN_TT_STAT_CYCLE n = u8 x.data 0 % 64 ∧ t.flag F.CAN_TT_STAT_SYNC n = true)
  ∧ (∀ (s : State) (who : Initiator) (n j len : Nat), Reaches s who 9 (0x10000 + 0x8000 * n + 0x80 * j) → s.canObjRec n j ≠ none →
    len = 4 ∨ len = 8 → ∃ t, exec (.objectRead who n j 0 len) s = .next t
    ∧ t.resp = .data ((s.canObj n j).bytes.take len) ∧ t.canObj n j = { s.canObj n j with new := false, lost := false }
    ∧ (∀ k, k ≠ 256 * n + j → t.can.objs.get k = s.can.objs.get k) ∧ t = { servedRead s who len with can := t.can, resp := t.resp }
    ∧ ∀ ofs more, 0 < ofs → more = 4 ∨ more = 8 → ofs % more = 0 → Reaches t who 9 (0x10000 + 0x8000 * n + 0x80 * j + ofs) →
      ∃ u, exec (.objectRead who n j ofs more) t = .next u ∧ u.resp = .data (slice (s.canObj n j).bytes ofs more)
        ∧ u = { servedRead t who more with resp := u.resp })
  ∧ (∀ (s : State) (n lec : Nat) (eight : Bool), s.runs 0 = true → s.canOff n = false → s.canBusOff n = false → ∃ t, exec (.canRxError n lec eight) s = .next t
    ∧ t.fld F.CAN_ERR_LEC n = lec % 16 ∧ t.fld F.CAN_ERR_TEC n = s.fld F.CAN_ERR_TEC n ∧ CellsKept [(.CAN_ERR, n), (.CAN_STAT, 0)] s t
    ∧ (s.canListens n = true → t.fld F.CAN_ERR_REC n = s.fld F.CAN_ERR_REC n ∧ t.reports = s.reports)
    ∧ (s.canListens n = false → t.fld F.CAN_ERR_REC n = min (s.fld F.CAN_ERR_REC n + if eight then 8 else 1) 255
      ∧ t.flag F.CAN_ERR_WARN n = decide (96 ≤ t.fld F.CAN_ERR_TEC n ∨ 96 ≤ t.fld F.CAN_ERR_REC n)
      ∧ t.fld F.CAN_ERR_STATE n = (if 128 ≤ t.fld F.CAN_ERR_TEC n ∨ 128 ≤ t.fld F.CAN_ERR_REC n then 1 else 0)))
  ∧ (∀ (s : State) (n : Nat) (idw : W32), s.runs 0 = true → s.canOff n = false → s.canBusOff n = false → ∃ t, exec (.protocolException n idw) s = .next t
    ∧ t.fld F.CAN_CNT_PXE n = min (s.fld F.CAN_CNT_PXE n + 1) 255
    ∧ t.fld F.NET_VIOL_CNT_COUNT = min (s.fld F.NET_VIOL_CNT_COUNT + 1) (2 ^ 32 - 1)
    ∧ (s.flag F.CAN_CFG_PXHD n = false → t.reg .CAN_ERR n = s.reg .CAN_ERR n) ∧ (s.flag F.CAN_CFG_PXHD n = true → t.fld F.CAN_ERR_LEC n = 2))

/-- R346, R352 to R357, R359: an attempt takes the candidate that wins arbitration, the earlier one of equals; a sent entry completes and CONS
passes it, one that lost arbitration stays; an error raises TEC by 8, above 255 into bus-off with 0901h; a cancel completes a waiting entry,
marks one during its attempt, and is otherwise refused with 0904h; a controller leaves the bus after its frame and rejoins it; recovery
clears bus-off with 0983h; a trigger acts in its cycles; a lost reference is 0903h. (What a unit reads: log entry 60.) Completes:
CAN_TX_ATTEMPT, CAN_TX_COMPLETE, CAN_TX_CANCEL, CAN_DISABLE, CAN_REJOIN, RECOVER, RECOVERED, TT_TRIGGER, TT_REF_LOST. -/
def Obligations.CanAttemptsFollowArbitrationAndErrors : Prop :=
  (∀ (s : State) (n ofs : Nat), (s.canSends n = false ∨ (s.canCtl n).attempt ≠ none → exec (.canTxAttempt n ofs) s = .next s)
    ∧ (s.runs 0 = true → s.canSends n = true → (s.canCtl n).attempt = none →
      (∀ i ∈ s.canWindow n, s.canInvalid n (s.canTx n i) = false ∧ s.canUnread n i = 0) →
      ∃ t, exec (.canTxAttempt n ofs) s = .next t ∧ CellsKept [(.CAN_TX_STAT, n)] s t
        ∧ (t.canCtl n).attempt = ((s.canCandidates n).find? fun c => (s.canCandidates n).all fun d => decide (c.1 ≤ d.1)).map Prod.snd
        ∧ t.flag F.CAN_TX_STAT_ACTIVE n = (decide (s.canCandidates n ≠ []) || s.flag F.CAN_TX_STAT_ACTIVE n)
        ∧ (∀ i e, (t.canCtl n).attempt = some (.entry i e) → t.fld F.CAN_TX_STAT_CAND n = i % 2 ^ 17)))
  ∧ (∀ (s : State) (n ofs : Nat) (r : CanEnd), (s.canCtl n).attempt = none → exec (.canTxComplete n r ofs) s = .next s)
  ∧ (∀ (s : State) (n i ofs : Nat) (excl : Bool), s.runs 0 = true → (s.canCtl n).attempt = some (.entry i excl) →
    (s.canCtl n).cancel = [] → s.canListens n = false →
    let q := s.fld F.CAN_CFG_TX_RING n
    ((s.canCtl n).done = [] → s.ringCons q = i → s.ringCount q ≠ 0 → s.ringFits q 1 128 = true → ∃ t, exec (.canTxComplete n .sent ofs) s = .next t
      ∧ (t.canCtl n).attempt = none ∧ t.flag F.CAN_TX_STAT_ACTIVE n = false ∧ t.sent = s.sent ++ [⟨.can, n, s.canFrameOut n (.entry i excl)⟩]
      ∧ t.ringCons q = (i + 1) % (2 * s.ringEntries q) % 2 ^ 17 ∧ t.fld F.CAN_ERR_TEC n = s.fld F.CAN_ERR_TEC n - 1)
    ∧ (excl = false → (s.canTx n i).oneshot = false → s.flag F.CAN_CFG_ONESHOT n = false → (s.canCtl n).retries = [] →
      ∃ t, exec (.canTxComplete n .lostArb ofs) s = .next t ∧ t.canCtl n = { s.canCtl n with attempt := none, retries := [⟨i, 1, s.now, ofs⟩] }
        ∧ CellsKept [(.CAN_TX_STAT, n), (.CAN_STAT, 0)] s t ∧ t.sent = s.sent))
  ∧ (∀ (s : State) (n lec ofs : Nat) (x : CanSrc), s.runs 0 = true → n < 8 → s.canListens n = false → (s.canCtl n).attempt = some x →
    ∃ t, exec (.canTxComplete n (.error lec true) ofs) s = .next t
    ∧ (t.canCtl n).attempt = none ∧ t.fld F.CAN_ERR_LEC n = lec % 16 ∧ t.fld F.CAN_ERR_TEC n = min (s.fld F.CAN_ERR_TEC n + 8) 255 ∧ t.sent = s.sent
    ∧ (255 < s.fld F.CAN_ERR_TEC n + 8 → t.fld F.CAN_ERR_STATE n = 2 ∧ bitOf (t.fld F.CAN_STAT_BUS_OFF) n = true
      ∧ (⟨0x0901, n⟩ : Report) ∈ t.reports.drop s.reports.length))
  ∧ (∀ (s : State) (who : Initiator) (n i ofs : Nat), ReachesReg s who .CAN_TX_CANCEL n →
    let q := s.fld F.CAN_CFG_TX_RING n
    (s.ringFits q 1 128 = false ∨ 2 * s.ringEntries q ≤ i ∨ s.ringCount q ≤ ringDist (s.ringCons q) i (s.ringEntries q) ∨ i ∈ (s.canCtl n).done →
      exec (.canTxCancel who n i ofs) s = .next { (served s who).report 0x0904 n with resp := .done })
    ∧ (s.ringFits q 1 128 = true → i < 2 * s.ringEntries q → ringDist (s.ringCons q) i (s.ringEntries q) < s.ringCount q → i ∉ (s.canCtl n).done →
      (∀ e, (s.canCtl n).attempt = some (.entry i e) → s.canListens n = false → exec (.canTxCancel who n i ofs) s
        = .next { (served s who).onCan n (fun x => { x with cancel := i :: x.cancel.filter (· ≠ i) }) with resp := .done })
      ∧ ((s.canCtl n).attempt = none → (s.canCtl n).done = [] → i ≠ s.ringCons q → ∃ t, exec (.canTxCancel who n i ofs) s = .next t
        ∧ t.resp = .done ∧ (t.canCtl n).done = [i] ∧ i ∉ t.canWindow n ∧ t.ringCons q = s.ringCons q)))
  ∧ (∀ (s : State) (who : Initiator) (n : Nat) (on receiving : Bool), ReachesReg s who .CAN_CTL n → n < 8 →
    ∃ t, exec (.canDisable who n on receiving) s = .next t ∧ t.flag F.CAN_CTL_DISABLE n = on
    ∧ (on = true → receiving = false → (s.canCtl n).attempt = none → bitOf (t.fld F.CAN_STAT_DISABLED) n = true)
    ∧ (on = false ∨ receiving = true ∨ (s.canCtl n).attempt ≠ none → t.reg .CAN_STAT 0 = s.reg .CAN_STAT 0)
    ∧ t = { served s who with regs := t.regs, resp := .done } ∧ CellsKept [(.CAN_CTL, n), (.CAN_STAT, 0)] s t)
  ∧ (∀ (s : State) (n : Nat), s.runs 0 = true → n < 8 → s.flag F.CAN_CFG_EN n = true → s.flag F.CAN_CTL_DISABLE n = false → ∃ t, exec (.canRejoin n) s = .next t
    ∧ bitOf (t.fld F.CAN_STAT_DISABLED) n = false ∧ CellsKept [(.CAN_STAT, 0)] s t)
  ∧ (∀ (s : State) (who : Initiator) (n : Nat), ReachesReg s who .CAN_CTL n →
    (s.canBusOff n = false → exec (.recover who n) s = .next { (served s who).report 0x0904 n with resp := .done })
    ∧ (s.canBusOff n = true → ∃ t, exec (.recover who n) s = .next t ∧ t.flag F.CAN_ERR_RECOVERING n = true ∧ t.resp = .done
      ∧ CellsKept [(.CAN_ERR, n)] s t))
  ∧ (∀ (s : State) (n : Nat), s.runs 0 = true → n < 8 → s.canBusOff n = true → s.flag F.CAN_ERR_RECOVERING n = true →
    ∃ t, exec (.recovered n) s = .next t ∧ t.fld F.CAN_ERR_STATE n = 0
      ∧ t.fld F.CAN_ERR_TEC n = 0 ∧ t.fld F.CAN_ERR_REC n = 0 ∧ bitOf (t.fld F.CAN_STAT_BUS_OFF) n = false ∧ t.reports = s.reports ++ [⟨0x0983, n⟩]
      ∧ CellsKept [(.CAN_ERR, n), (.CAN_STAT, 0)] s t)
  ∧ (∀ (s : State) (n k ofs : Nat) (busy : Bool) (g : CanTrig), s.runs 0 = true → (canTrigs (s.body tyCAN))[k]? = some g → g.ctrl = n → s.fld F.CAN_CFG_TT n ≠ 0 →
    s.flag F.CAN_TT_STAT_SYNC n = true → s.canOff n = false →
    (s.fld F.CAN_TT_STAT_CYCLE n % max g.rep 1 ≠ g.base → exec (.ttTrigger n k busy ofs) s = .next s)
    ∧ (s.fld F.CAN_TT_STAT_CYCLE n % max g.rep 1 = g.base →
      (g.typ = 2 → ∃ t, exec (.ttTrigger n k busy ofs) s = .next t ∧ k ∉ (t.canCtl n).seen
        ∧ t.fld F.CAN_TT_STAT_MISSED n = (if k ∈ (s.canCtl n).seen then s.fld F.CAN_TT_STAT_MISSED n else min (s.fld F.CAN_TT_STAT_MISSED n + 1) 255))
      ∧ (g.typ = 3 ∨ g.typ = 4 → exec (.ttTrigger n k busy ofs) s = .next (s.onCan n fun x => { x with window := decide (g.typ = 3) }))
      ∧ (∀ i, g.typ = 1 → s.canSends n = true → (∀ j ∈ s.canWindow n, s.canInvalid n (s.canTx n j) = false ∧ s.canUnread n j = 0) →
        ((s.canWindow n).find? fun i => (s.canTx n i).tt && decide ((s.canTx n i).slot = g.ref)) = some i →
        (busy = false → (s.canCtl n).attempt = none → ∃ t, exec (.ttTrigger n k busy ofs) s = .next t
          ∧ (t.canCtl n).attempt = some (.entry i true) ∧ t.fld F.CAN_TX_STAT_CAND n = i % 2 ^ 17 ∧ CellsKept [(.CAN_TX_STAT, n)] s t)
        ∧ (busy = true → ∃ t, exec (.ttTrigger n k busy ofs) s = .next t
          ∧ t.fld F.CAN_TT_STAT_TX_FAIL n = min (s.fld F.CAN_TT_STAT_TX_FAIL n + 1) 255))))
  ∧ (∀ (s : State) (n : Nat), s.runs 0 = true → s.fld F.CAN_CFG_TT n = 1 → s.flag F.CAN_TT_STAT_SYNC n = true →
    (s.canCtl n).refAt + 2 * s.fld F.CAN_TT_CYC_CYCLE_STROKES n ≤ s.now → ∃ t, exec (.ttRefLost n) s = .next t
      ∧ t.flag F.CAN_TT_STAT_SYNC n = false ∧ t.reports = s.reports ++ [⟨0x0903, n⟩] ∧ CellsKept [(.CAN_TT_STAT, n)] s t)

/-- R366, R368, R371, R373, R377 to R380: the frame that the symbols of a band decode to is received in an enabled band in which the device is not
sending; a failed check is counted, with 0A83h once per heat; a POINTS frame whose tag passes and whose COUNTER is new writes its point and makes
a LOST node LIVE; a band A command with a valid tag and a higher COUNTER sets or releases the limit with 0A81h and is else discarded with 0A01h; a
silent node is LOST with 0A04h, a silent band A 0A02h; a limit ends with its DURATION. (The decoder's open points: log entry 49.) Completes:
FDL_FRAME_RECEIVED, EXPECTED_FRAME_MISSING, NODE_LOST, BAND_A_SILENT, CURTAIL_EXPIRY, CURTAIL_SAVE. -/
def Obligations.FeederFramesNodesAndCurtailment : Prop :=
  (∀ (s : State) (band ofs : Nat) (sym : List FdlSymbol),
    s.fdlOn = false ∨ s.flag F.FDL_BAND_CFG_EN band = false ∨ (s.holds = true ∧ ∃ f, s.fdl.air = some (band, f)) →
      exec (.fdlFrameReceived band ofs sym) s = .next s)
  ∧ (∀ (s : State) (band ofs : Nat) (sym : List FdlSymbol), s.runs 0 = true → s.fdlOn = true → s.flag F.FDL_BAND_CFG_EN band = true →
    (∀ f, s.fdl.air ≠ some (band, f)) →
    let b := (fdlDecode (s.fld F.FDL_CFG_ERASE_THR) s.fdlInputs sym).body
    b.length < 6 ∨ u8 b 3 + 6 ≠ b.length ∨ u8 b (b.length - 2) * 256 + u8 b (b.length - 1) ≠ crc16 (b.take (b.length - 2)) →
    ∃ t, exec (.fdlFrameReceived band ofs sym) s = .next t
      ∧ t.fld F.FDL_BAND_STAT_FRAMES_BAD band = min (s.fld F.FDL_BAND_STAT_FRAMES_BAD band + 1) 255
      ∧ t.reports = (if band ∈ s.fdl.badSaid then s.reports else s.reports ++ [⟨0x0A83, band⟩])
      ∧ (∀ a, s.nodeOf band (u8 b 1) = some a → t.fld F.FDL_NODE_STAT_RX_MODE a = min 2 (s.fld F.FDL_NODE_STAT_RX_MODE a + 1))
      ∧ RegsKept [.FDL_BAND_STAT, .FDL_STAT, .FDL_NODE_STAT] s t)
  ∧ (∀ (s : State) (band ofs a : Nat) (sym : List FdlSymbol) (r : NodeRec), s.runs 0 = true → s.fdlOn = true → s.holds = true →
    s.flag F.FDL_BAND_CFG_EN band = true → (∀ f, s.fdl.air ≠ some (band, f)) → 1 ≤ band →
    let d := fdlDecode (s.fld F.FDL_CFG_ERASE_THR) s.fdlInputs sym
    let b := d.body
    6 ≤ b.length → u8 b 3 + 6 = b.length → u8 b (b.length - 2) * 256 + u8 b (b.length - 1) = crc16 (b.take (b.length - 2)) →
    s.nodeOf band (u8 b 1) = some a → s.node a = some r → u8 b 0 = s.fld F.FDL_CFG_ADDR → u8 b 0 ≠ 255 → u8 b 2 % 8 = 2 →
    let p := slice b 4 (u8 b 3)
    let e := slice p 8 12
    let c := r.base + u16 e 0
    ∃ t, exec (.fdlFrameReceived band ofs sym) s = .next t ∧ t.fld F.FDL_BAND_STAT_FRAMES_OK band = min (s.fld F.FDL_BAND_STAT_FRAMES_OK band + 1) 65535
      ∧ t.fld F.FDL_NODE_STAT_ERASED a = 100 * d.erased / max d.total 1 % 256 ∧ t.fld F.FDL_NODE_STAT_TX_MODE a = s.boundMode band (u8 b 2 / 8 % 4) % 4
      ∧ (if p.length = 8 + 8 + 12 * u8 p 4 ∧ 16 ≤ p.length ∧ (∀ old, (s.fdl.nodes.get a).inCtr = some old → old < u32 p 0)
            ∧ ∃ k ∈ s.slotKeys r.key 0 12, (gcmSeal k (pointsNonce 1 r.addr (u32 p 0)) (b.take 4 ++ p.take (p.length - 8)) []).take 8 = p.drop (p.length - 8) then
          (t.fdl.nodes.get a).inCtr = some (u32 p 0) ∧ (t.fdl.nodes.get a).last = s.now ∧ t.fld F.FDL_NODE_STAT_AGE a = 0
            ∧ (s.fld F.FDL_NODE_STAT_STATE a = 2 → t.fld F.FDL_NODE_STAT_STATE a = 1 ∧ (⟨0x0A84, a⟩ : Report) ∈ t.reports.drop s.reports.length)
            ∧ (∀ w, u8 p 4 = 1 → u16 e 0 < r.objs → s.schema c = some w → w.writer = 7 → u8 e 2 = w.typ → u8 e 3 ≤ 4 →
              (t.point c).value = BitVec.ofNat 64 (uN e 4 8) ∧ (t.point c).qual = u8 e 3 ∧ (t.point c).time = s.now ∧ (t.point c).ofs = ofs)
        else (t.fdl.nodes.get a).inCtr = (s.fdl.nodes.get a).inCtr ∧ t.pnt = s.pnt ∧ t.fld F.FDL_NODE_STAT_STATE a = s.fld F.FDL_NODE_STAT_STATE a))
  ∧ (∀ (s : State) (ofs : Nat) (sym : List FdlSymbol), s.runs 0 = true → s.fdlOn = true → s.holds = true → s.flag F.FDL_BAND_CFG_EN 0 = true →
    (∀ f, s.fdl.air ≠ some (0, f)) →
    let b := (fdlDecode (s.fld F.FDL_CFG_ERASE_THR) s.fdlInputs sym).body
    6 ≤ b.length → u8 b 3 + 6 = b.length → u8 b (b.length - 2) * 256 + u8 b (b.length - 1) = crc16 (b.take (b.length - 2)) →
    u8 b 0 = s.fld F.FDL_CFG_ADDR ∨ u8 b 0 = 255 → u8 b 2 % 8 = 3 →
    let c := slice b 4 (u8 b 3)
    ∃ t, exec (.fdlFrameReceived 0 ofs sym) s = .next t
      ∧ (if c.length ≠ 32 ∨ (u8 c 1 ≠ 0 ∧ u8 c 1 ≠ u8 s.fdlBody 1) then
          t.reports = s.reports ∧ RegsKept [.FDL_BAND_STAT, .FDL_NODE_STAT] s t
        else if u32 c 4 ≤ s.fld F.FDL_CURT_CTR_COUNTER ∨ ¬ ∃ k ∈ s.slotKeys (u16 s.fdlBody 2) 0 11,
            (gcmSeal k (leBytes 4 0 ++ leBytes 4 (u32 c 4) ++ leBytes 4 0) (b.take 4 ++ c.take 16) []).take 16 = c.drop 16 then
          t.reports = s.reports ++ [⟨0x0A01, 0⟩] ∧ t.fld F.FDL_STAT_CODE = 0x0A01 ∧ RegsKept [.FDL_BAND_STAT, .FDL_STAT, .FDL_NODE_STAT] s t
        else t.reports = s.reports ++ [⟨0x0A81, 0⟩] ∧ t.fld F.FDL_CURT_CTR_COUNTER = u32 c 4 ∧ t.fdl.beaconAt = s.now ∧ t.fdl.heard = true
          ∧ (u8 c 0 = 1 → t.flag F.FDL_CURT_ACTIVE = true ∧ t.fld F.FDL_CURT_LIMIT_LIMIT = u32 c 8
            ∧ t.fdl.left = (if u16 c 12 = 0 then none else some (s.heatsOfMin (u16 c 12))))
          ∧ (u8 c 0 = 2 → t.flag F.FDL_CURT_ACTIVE = false ∧ t.fld F.FDL_CURT_LIMIT_LIMIT = 0x7FFFFFFF ∧ t.fdl.left = none)))
  ∧ (∀ (s : State) (a : Nat), (s.runs 0 = true → s.fdlOn = true → s.node a ≠ none → ∃ t, exec (.expectedFrameMissing a) s = .next t
      ∧ t.fld F.FDL_NODE_STAT_RX_MODE a = min 2 (s.fld F.FDL_NODE_STAT_RX_MODE a + 1) ∧ CellsKept [(.FDL_NODE_STAT, a)] s t)
    ∧ (s.fdlOn = false ∨ s.node a = none → exec (.expectedFrameMissing a) s = .next s))
  ∧ (∀ (s : State) (a : Nat) (r : NodeRec), s.runs 0 = true → s.node a = some r → s.holds = true → s.fld F.FDL_NODE_STAT_STATE a = 1 →
    ((s.fdl.nodes.get a).last + s.strokesIn (100000000 * r.live) ≤ s.now → ∃ t, exec (.nodeLost a) s = .next t ∧ t.fld F.FDL_NODE_STAT_STATE a = 2
      ∧ t.reports = s.reports ++ [⟨0x0A04, a⟩] ∧ CellsKept [(.FDL_NODE_STAT, a), (.FDL_STAT, 0)] s t
      ∧ ∀ k c, k < r.objs → s.schema (r.base + k) = some c → c.writer = 7 → t.point (r.base + k) = { s.point (r.base + k) with qual := 6 })
    ∧ (s.now < (s.fdl.nodes.get a).last + s.strokesIn (100000000 * r.live) → exec (.nodeLost a) s = .next s))
  ∧ (∀ s : State, s.runs 0 = true → s.fdlOn = true → s.flag F.FDL_CURT_SILENT = false →
    (s.fdl.beaconAt + s.strokesIn (6000000000 * (2 * s.fld F.FDL_CFG_BEACON)) ≤ s.now → ∃ t, exec .bandASilent s = .next t
      ∧ t.flag F.FDL_CURT_SILENT = true ∧ t.flag F.FDL_CURT_ACTIVE = s.flag F.FDL_CURT_ACTIVE ∧ t.reports = s.reports ++ [⟨0x0A02, 0⟩]
      ∧ CellsKept [(.FDL_CURT, 0), (.FDL_STAT, 0)] s t)
    ∧ (s.now < s.fdl.beaconAt + s.strokesIn (6000000000 * (2 * s.fld F.FDL_CFG_BEACON)) → exec .bandASilent s = .next s))
  ∧ (∀ s : State, s.runs 0 = true → s.holds = true → s.flag F.FDL_CURT_ACTIVE = true →
    (s.fdl.left = some 0 → s.fdl.cmdHeat ≠ s.heat → ∃ t, exec .curtailExpiry s = .next t
      ∧ t.flag F.FDL_CURT_ACTIVE = false ∧ t.fld F.FDL_CURT_LIMIT_LIMIT = 0x7FFFFFFF ∧ t.fdl.left = none ∧ CellsKept [(.FDL_CURT, 0), (.FDL_CURT_LIMIT, 0)] s t)
    ∧ (s.fdl.left ≠ some 0 ∨ s.fdl.cmdHeat = s.heat → exec .curtailExpiry s = .next s))
  ∧ (∀ s : State, (s.runs 0 = true → s.hasFeeder = true → ∃ t, exec .curtailSave s = .next t ∧ t.fdl.leftSaved = s.fdl.left ∧ CellsKept [(.FDL_CURT, 0)] s t
      ∧ ∀ h, s.fdl.left = some h → 0 < s.heatsOfMin 1 → h ≤ t.fld F.FDL_CURT_REMAIN * s.heatsOfMin 1 ∨ t.fld F.FDL_CURT_REMAIN = 0x3FFF)
    ∧ (s.hasFeeder = false → exec .curtailSave s = .next s))

/-- R365, R366, R370 to R377: the holder starts the next frame of an enabled band other than A that its own frames left idle for the pause, TENON
ahead of POINTS, with the tones of its mode; a POINTS frame takes the next COUNTER; the end of the frame clears TX, and the pause begins; a frame
that found no access within 5 s is dropped with 0A03h; a node due for a refresh gets its outputs queued. Completes: FDL_TX_START, FDL_TX_END,
ACCESS_TIMEOUT, NODE_REFRESH. -/
def Obligations.FeederFramesAreSentInOrder : Prop :=
  (∀ (s : State) (band : Nat), s.fdlOn = false ∨ s.holds = false ∨ s.flag F.FDL_BAND_CFG_EN band = false ∨ s.fdl.air ≠ none
    ∨ s.fdl.queues.get band = [] ∨ band = 0 ∨ s.pausedSince band = false → exec (.fdlTxStart band) s = .next s)
  ∧ (∀ (s : State) (band : Nat) (f : FdlFrame), s.runs 0 = true → s.fdlOn = true → s.holds = true → s.flag F.FDL_BAND_CFG_EN band = true →
    s.fdl.air = none → band ≠ 0 → s.pausedSince band = true → (s.fdl.queues.get band).find? (fun f => decide (f.typ = 1)) = some f → f.data ≠ [] →
    let node := s.nodeOf band f.dst
    let tones := fdlTones (match node with | some a => s.boundMode band (s.fld F.FDL_NODE_STAT_TX_MODE a) | none => s.fld F.FDL_BAND_CFG_MODE_MAX band)
      (fdlFrame f.dst (s.fld F.FDL_CFG_ADDR) (1 + 8 * match node with | some a => s.fld F.FDL_NODE_STAT_RX_MODE a | none => 0) f.data)
    ∃ t, exec (.fdlTxStart band) s = .next t
      ∧ t.fdl = { s.fdl with queues := s.fdl.queues.set band ((s.fdl.queues.get band).erase f), air := some (band, f), airEnd := s.now + s.airTime tones.length }
      ∧ t.flag F.FDL_STAT_TX = true ∧ t.fld F.FDL_STAT_TX_BAND = band % 4
      ∧ t.sent = s.sent ++ [⟨.feeder, band, tones.map fun x => BitVec.ofNat 8 x⟩] ∧ CellsKept [(.FDL_STAT, 0)] s t)
  ∧ (∀ (s : State) (band a : Nat) (f : FdlFrame) (rest : List FdlFrame) (r : NodeRec) (k : List Byte), s.runs 0 = true → s.fdlOn = true → s.holds = true →
    s.flag F.FDL_BAND_CFG_EN band = true → s.fdl.air = none → band ≠ 0 → s.pausedSince band = true →
    s.fdl.queues.get band = f :: rest → (∀ g ∈ f :: rest, g.typ = 2) →
    s.nodeOf band f.dst = some a → s.node a = some r → s.slotKey r.key 0 12 = some k → ∃ t, exec (.fdlTxStart band) s = .next t
      ∧ t.fdl.counter = s.fdl.counter + 1 ∧ t.fdl.queues.get band = rest ∧ t.fdl.air = some (band, f) ∧ t.flag F.FDL_STAT_TX = true
      ∧ t.sent.length = s.sent.length + 1 ∧ t.fdl.saved = (if (s.fdl.counter + 1) % 65536 = 0 then s.fdl.counter + 1 else s.fdl.saved))
  ∧ (∀ (s : State) (band : Nat) (f : FdlFrame), s.runs 0 = true → s.fdl.air = some (band, f) →
    (s.fdl.airEnd ≤ s.now → ∃ t, exec .fdlTxEnd s = .next t ∧ t.flag F.FDL_STAT_TX = false
      ∧ t.fdl = { s.fdl with air := none, ended := s.fdl.ended.set band (some s.now) } ∧ CellsKept [(.FDL_STAT, 0)] s t)
    ∧ (s.now < s.fdl.airEnd → exec .fdlTxEnd s = .next s))
  ∧ (∀ s : State, s.fdl.air = none → exec .fdlTxEnd s = .next s)
  ∧ (∀ (s : State) (band : Nat) (f : FdlFrame), s.runs 0 = true → nextFrame (s.fdl.queues.get band) = some f →
    (s.now < f.since + s.strokesIn 500000000 → exec (.accessTimeout band) s = .next s)
    ∧ (f.since + s.strokesIn 500000000 ≤ s.now → ∃ t, exec (.accessTimeout band) s = .next t
      ∧ t.fdl = { s.fdl with queues := s.fdl.queues.set band ((s.fdl.queues.get band).erase f) } ∧ t.reports = s.reports ++ [⟨0x0A03, band⟩]
      ∧ CellsKept [(.FDL_STAT, 0)] s t))
  ∧ (∀ (s : State) (a : Nat) (r : NodeRec), s.runs 0 = true → s.fdlOn = true → s.holds = true → s.node a = some r →
    ((s.fdl.nodes.get a).sent + s.strokesIn (100000000 * r.refresh) ≤ s.now → ∃ t, exec (.nodeRefresh a) s = .next t
      ∧ (t.fdl.nodes.get a).sent = s.now ∧ (t.fdl.nodes.get a).shown = s.nodeOutputs r ∧ RegsKept [] s t
      ∧ (s.nodeOutputs r ≠ [] → 28 ≤ s.fld F.FDL_BAND_CFG_MAX_LEN r.band → (s.nodeOutputs r).length + 16 ≤ s.fld F.FDL_BAND_CFG_MAX_LEN r.band →
        (s.fdl.queues.get r.band).length < 16 → t.fdl.queues.get r.band = s.fdl.queues.get r.band ++ [⟨2, r.addr, 0, s.nodeOutputs r, s.now⟩]))
    ∧ (s.now < (s.fdl.nodes.get a).sent + s.strokesIn (100000000 * r.refresh) → exec (.nodeRefresh a) s = .next s))

/-! ### Battery, key storage, counters, supplies -/

/-- R383, R387, R392, R400 to R404: a due pass runs all strings, makes the headroom valid and computes the next one, and writes memory only in the
capacity copies; HIBERNATE is refused with 1002h or saves, at a bound holder after its standby's answer, which it awaits for 100 ms; the core rails
go off when the saves are done; asleep, a sample counts 16 ms of its string's current; a wake source that R402 admits wakes the device, or waits
for the save; a stopped estimator restarts at its next boundary. Completes: BATTERY_PASS, HIBERNATE, HIBERNATE_REQUEST, HIBERNATE_READY,
HIBERNATE_TIMEOUT, EMBER_IDLE_ENTRY, EMBER_SAMPLE, WAKE, ESTIMATOR_RESTART. -/
def Obligations.PassesHibernationAndWake : Prop :=
  (∀ s : State, (s.est.due = false ∨ s.flag F.EMB_STAT_STOPPED = true → exec .batteryPass s = .next s)
    ∧ (s.runs 3 = true → s.est.due = true → s.flag F.EMB_STAT_STOPPED = false → ∃ t, exec .batteryPass s = .next t ∧ t.est.due = false
      ∧ t.flag F.EMB_STAT_VALID = true ∧ t.fld F.EMB_STAT_OVR_CONSEC = 0
      ∧ t.est.nextDis = inHeadUnits ((t.strings.filterMap fun k => (t.batRec k).map (t.stringHead k)).map Prod.fst).sum
      ∧ t.est.nextChg = inHeadUnits ((t.strings.filterMap fun k => (t.batRec k).map (t.stringHead k)).map Prod.snd).sum
      ∧ RegsKept [.EMB_STAT, .EMB_STR_STAT, .EMB_STR_SOC, .EMB_STR_CAP, .EMB_STR_LEARN] s t
      ∧ ∀ a, a < 0x21800000 ∨ 0x21800200 ≤ a → t.byte a = s.byte a))
  ∧ (∀ (s : State) (who : Initiator), ReachesReg s who .EMB_CTL 0 →
    let bound := s.flag F.PEG_STAT_LINK
    (s.mayIdle = false ∨ bitOf (s.fld F.SYS_REGION_STAT_FAILED) 8 = true ∨ (bound = true ∧ (s.holds && s.partnerSync) = false) →
      exec (.hibernate who) s = .next { (served s who).embCode 0x1002 with resp := .done })
    ∧ (s.mayIdle = true →
      (bound = false → ∃ t, exec (.hibernate who) s = .next t ∧ HibernationSaved s t ∧ t.resp = .done)
      ∧ (bound = true → s.holds = true → s.partnerSync = true → ∃ t, exec (.hibernate who) s = .next t ∧ t.resp = .done
        ∧ t.est = { s.est with asking := true, askedAt := s.now } ∧ t.sent = s.sent ++ [⟨.solley, 1, []⟩] ∧ RegsKept [] s t ∧ MemKept s t)))
  ∧ (∀ s : State, (s.standby = false → exec .hibernateRequest s = .next s)
    ∧ (s.runs 3 = true → s.standby = true → s.mayIdle = false → exec .hibernateRequest s = .next (s.send .solley 2 [0]))
    ∧ (s.runs 3 = true → s.standby = true → s.mayIdle = true → ∃ t, exec .hibernateRequest s = .next t ∧ HibernationSaved s t
      ∧ t.sent = s.sent ++ [⟨.solley, 2, [1]⟩]))
  ∧ (∀ s : State, s.runs 3 = true → s.est.asking = true → (∃ t, exec (.hibernateReady true) s = .next t ∧ HibernationSaved s t)
    ∧ exec (.hibernateReady false) s = .next ((s.onEst fun e => { e with asking := false }).embCode 0x1002)
    ∧ (s.est.askedAt + s.ms 100 ≤ s.now → exec .hibernateTimeout s = .next ((s.onEst fun e => { e with asking := false }).embCode 0x1002))
    ∧ (s.now < s.est.askedAt + s.ms 100 → exec .hibernateTimeout s = .next s))
  ∧ (∀ (s : State) (ready : Bool), s.est.asking = false → exec (.hibernateReady ready) s = .next s ∧ exec .hibernateTimeout s = .next s)
  ∧ (∀ s : State, (s.est.saving = false → exec .emberIdleEntry s = .next s)
    ∧ (s.est.saving = true → ∃ t, exec .emberIdleEntry s = .next t ∧ t.pwr.coreOff = true ∧ t.sys.booted = false ∧ t.reg .PWR_STAT = 8
      ∧ t.emb.saved = s.emb.saved ∧ (s.emb.wake = none → t.emb.asleep = true)
      ∧ ∀ src, s.emb.wake = some src → t.emb.asleep = false ∧ t.emb.woken = true ∧ t.fld F.EMB_STAT_WAKE_SRC = src % 8))
  ∧ (∀ (s : State) (ch k : Nat) (code : Int) (r : BatRec) (g : Rat), (s.emb.asleep = false → exec (.emberSample ch code) s = .next s)
    ∧ (s.runs 8 = true → s.emb.asleep = true → k < 16 → s.batRec k = some r → r.ch = ch → fpRat? r.gain = some g →
      ∃ t, exec (.emberSample ch code) s = .next t
      ∧ t.emb.charge.get k = s.emb.charge.get k + 16 * (code * g) ∧ t.pair .EMB_Q_LO .EMB_Q_HI k = unsignedOf 64 (t.emb.charge.get k).floor
      ∧ (∀ j q, s.batRec j = some q → q.ch ≠ ch → t.emb.charge.get j = s.emb.charge.get j) ∧ RegsKept [.EMB_Q_LO, .EMB_Q_HI] s t))
  ∧ (∀ (s : State) (src : Nat), s.runs 8 = true → s.mayWake src = true → (s.emb.asleep = true → ∃ t, exec (.wake src) s = .next t
      ∧ t.emb.asleep = false ∧ t.emb.woken = true ∧ t.fld F.EMB_STAT_WAKE_SRC = src % 8 ∧ t.reports = s.reports ++ [⟨0x1086, 0⟩]
      ∧ CellsKept [(.EMB_STAT, 0)] s t)
    ∧ (s.emb.asleep = false → s.est.saving = true → s.emb.wake = none → 2 ≤ src →
      exec (.wake src) s = .next { s with emb := { s.emb with wake := some src } }))
  ∧ (∀ (s : State) (src : Nat), s.mayWake src = false → exec (.wake src) s = .next s)
  ∧ (∀ (s : State) (who : Initiator), ReachesReg s who .EMB_CTL 0 →
    (s.flag F.EMB_STAT_STOPPED = false → exec (.estimatorRestart who) s = .next { served s who with resp := .done })
    ∧ (s.flag F.EMB_STAT_STOPPED = true →
      exec (.estimatorRestart who) s = .next { served s who with est := { s.est with restart := true }, resp := .done }))

/-- R406, R408 to R413, R419, R423: nothing is served while an erasure is pending, and without a root secret a key command is refused with 0E0Fh;
GENERATE, DERIVE and IMPORT put a new key with its attributes into a
free slot, a privileged one not without a trailer (0E02h), a child below depth 6 only (0E07h) and with its parent's GEN; EXPORT returns the
blob; DESTROY empties the slot, advances GEN, makes its children orphans and reports 0E81h; the sweep empties every orphan. (Keys:
log entry 5.) Completes: GENERATE, DERIVE, IMPORT, EXPORT, DESTROY, ORPHAN_SWEEP. -/
def Obligations.KeysAreCreatedMovedAndDestroyed : Prop :=
  (∀ (s : State) (q : KeyReq) (c : Instr), s.flag F.CFR_LC_STATE_ERASE_PEND = true →
    c ∈ ([.generateKey q, .deriveKey q, .importKey q, .exportKey q, .destroyKey q, .getPublic q, .attest q, .getCert q, .signMsg q, .verifySig q,
      .sealAead q, .openAead q, .hashData q, .keyStage q, .keyCommit q, .abort q, .lcStep q, .rotRotate q, .debugUnlock q] : List Instr) →
    exec c s = .next s)
  ∧ (∀ (s : State) (island : Nat) (b : List Byte) (f : Frame) (c : Nat × Instr), s.runs island = true → s.flag F.CFR_LC_STATE_ERASE_PEND = false →
    s.flag F.CFR_STAT_ROOT_FAIL = true → readFrame b = some f → f.opcode = c.1 →
    c ∈ ([(1, .generateKey (.path island b)), (2, .deriveKey (.path island b)), (3, .importKey (.path island b)), (4, .exportKey (.path island b)),
      (5, .destroyKey (.path island b)), (6, .getPublic (.path island b)), (7, .attest (.path island b)), (0x10, .signMsg (.path island b)),
      (0x20, .keyStage (.path island b)), (0x21, .keyCommit (.path island b))] : List (Nat × Instr)) →
    ∃ t, exec c.2 s = .next t ∧ KeyRefused 0x0E0F s t)
  ∧ (∀ (s : State) (island : Nat) (b : List Byte) (f : Frame), Asks s island b 1 f → FreeSlot s f.slot → f.body.length = 8 →
    let a := attrOf f.body 0 1 0x3FF
    let alg := F.CFR_SLOT_ATTR_LO_ALG.of a.1
    1 ≤ alg → alg ≤ 6 → F.CFR_SLOT_ATTR_LO_PUB.of a.1 = 0 →
    (NeedsNoTrailer island f 0 → ∃ t, exec (.generateKey (.path island b)) s = .next t ∧ Replied 0x0E00 [] t
      ∧ KeyStands f.slot ⟨a.1, a.2, 0, Config.makeKey alg (s.fresh 256)⟩ s t)
    ∧ (f.rest = [] → ¬ NeedsNoTrailer island f 0 → ∃ t, exec (.generateKey (.path island b)) s = .next t ∧ KeyRefused 0x0E02 s t))
  ∧ (∀ (s : State) (island n : Nat) (b k : List Byte) (f : Frame), Asks s island b 2 f → NeedsNoTrailer island f 8 → u16 f.body 0 = n → FreeSlot s n →
    17 ≤ f.body.length → f.body.length ≤ 272 → uN f.body 2 6 = 0 → s.slotKey f.slot island 3 = some k →
    let d := s.fld F.CFR_SLOT_ATTR_LO_DEPTH f.slot + 1
    let a := attrOf (f.body.drop 8) 1 d f.slot
    let alg := F.CFR_SLOT_ATTR_LO_ALG.of a.1
    1 ≤ alg → alg ≤ 6 → F.CFR_SLOT_ATTR_LO_PUB.of a.1 = 0 →
    (d ≤ 6 → ∃ t, exec (.deriveKey (.path island b)) s = .next t ∧ Replied 0x0E00 [] t
      ∧ KeyStands n ⟨a.1, a.2, s.fld F.CFR_SLOT_GEN_GEN f.slot, Config.hkdf alg k (f.body.drop 16)⟩ s t)
    ∧ (7 ≤ d → ∃ t, exec (.deriveKey (.path island b)) s = .next t ∧ KeyRefused 0x0E07 s t))
  ∧ (∀ (s : State) (island n : Nat) (b head nonce key k : List Byte) (f : Frame), Asks s island b 3 f → NeedsNoTrailer island f 8 → n < 2 ^ 16 → FreeSlot s n →
    head.length = 16 → nonce.length = 12 → u16 head 8 = key.length → uN head 10 6 = 0 → s.pubKeys < 64 → f.slot ≠ 0xFFFF →
    f.body = leBytes 2 n ++ leBytes 6 0 ++ head ++ nonce ++ leBytes 4 0 ++ gcmSeal k nonce head key → 1 ≤ u32 head 0 / 2 ^ 28 → u32 head 0 / 2 ^ 28 ≤ 6 →
    s.slotKey f.slot island 5 = some k → s.fld F.CFR_SLOT_ATTR_LO_DEPTH f.slot < 6 →
    let a := attrOf head 2 (s.fld F.CFR_SLOT_ATTR_LO_DEPTH f.slot + 1) f.slot
    ∃ t, exec (.importKey (.path island b)) s = .next t ∧ Replied 0x0E00 [] t ∧ KeyStands n ⟨a.1, a.2, s.fld F.CFR_SLOT_GEN_GEN f.slot, key⟩ s t)
  ∧ (∀ (s : State) (island : Nat) (b k key : List Byte) (f : Frame), Asks s island b 4 f → f.body.length = 8 → uN f.body 2 6 = 0 → s.slotLive f.slot = true →
    s.chainOk 5 f.slot = true → s.fld F.CFR_SLOT_ATTR_LO_OWNER f.slot = 15 ∨ s.fld F.CFR_SLOT_ATTR_LO_OWNER f.slot = island →
    s.slotKey (u16 f.body 0) island 4 = some k → (s.keySlot f.slot).active = some key →
    (s.fld F.CFR_SLOT_ATTR_LO_EXPORT f.slot = 0 → ∃ t, exec (.exportKey (.path island b)) s = .next t ∧ KeyRefused 0x0E05 s t)
    ∧ (s.fld F.CFR_SLOT_ATTR_LO_EXPORT f.slot = 1 →
      let head := leBytes 4 (s.reg .CFR_SLOT_ATTR_LO f.slot).toNat ++ leBytes 4 (s.reg .CFR_SLOT_ATTR_HI f.slot).toNat ++ leBytes 2 key.length ++ leBytes 6 0
      let nonce := leBytes 12 (s.fresh 96).toNat
      ∃ t, exec (.exportKey (.path island b)) s = .next t ∧ Replied 0x0E00 (head ++ nonce ++ leBytes 4 0 ++ gcmSeal k nonce head key) t
        ∧ t.cof.slots = s.cof.slots ∧ CellsKept [(.CFR_STAT, 0)] s t))
  ∧ (∀ (s : State) (island : Nat) (b : List Byte) (f : Frame), Asks s island b 5 f → f.body = [] → 10 ≤ f.slot → f.slot < 512 → s.slotState f.slot ≠ 0 →
    s.slotState f.slot ≠ 4 →
    (s.fld F.CFR_SLOT_ATTR_LO_OWNER f.slot = 15 ∨ s.fld F.CFR_SLOT_ATTR_LO_OWNER f.slot = island →
      ∃ t, exec (.destroyKey (.path island b)) s = .next t ∧ Replied 0x0E00 [] t ∧ SlotEmptied f.slot s t
        ∧ (∀ c ∈ s.children f.slot, c ≠ f.slot → t.slotState c = 2) ∧ (∀ j, j ≠ f.slot → t.keySlot j = s.keySlot j)
        ∧ t.reports = s.reports ++ [⟨0x0E81, (s.children f.slot).length⟩])
    ∧ (s.fld F.CFR_SLOT_ATTR_LO_OWNER f.slot ≠ 15 → s.fld F.CFR_SLOT_ATTR_LO_OWNER f.slot ≠ island →
      ∃ t, exec (.destroyKey (.path island b)) s = .next t ∧ KeyRefused 0x0E04 s t))
  ∧ (∀ s : State, s.runs 7 = true → ∃ t, exec .orphanSweep s = .next t ∧ (∀ n < 512, s.slotState n = 2 → SlotEmptied n s t)
    ∧ (∀ n, s.slotState n ≠ 2 → t.keySlot n = s.keySlot n ∧ t.reg .CFR_SLOT_STAT n = s.reg .CFR_SLOT_STAT n ∧ t.reg .CFR_SLOT_GEN n = s.reg .CFR_SLOT_GEN n))

/-- R409, R410, R416, R418, R419, R421: an operation runs under a key that its attributes allow, and is refused with the code of the attribute
that does not; GET_PUBLIC, ATTEST, GET_CERT, SIGN, VERIFY, SEAL, OPEN and HASH answer what their names say, OPEN giving back what SEAL took under
the active key, VERIFY trying every key of the slot; a channel writes its output to memory where it fits. (What the published algorithms
compute: log entry 5; what a unit reads: log entry 60.) Completes: GET_PUBLIC, ATTEST, GET_CERT, SIGN, VERIFY, SEAL, OPEN, HASH,
CFR_CH_GO. -/
def Obligations.KeysAreUsedByTheirAttributes : Prop :=
  (∀ (s : State) (island : Nat) (b : List Byte) (f : Frame), s.useCode f.slot island 0 ≠ 0 → Asks s island b 0x10 f →
    ∃ t, exec (.signMsg (.path island b)) s = .next t ∧ KeyRefused (s.useCode f.slot island 0) s t)
  ∧ (∀ (s : State) (n island usage : Nat), s.flag F.CFR_STAT_ROOT_FAIL = false → s.slotLive n = true →
    (s.fld F.CFR_SLOT_ATTR_LO_OWNER n ≠ 15 → s.fld F.CFR_SLOT_ATTR_LO_OWNER n ≠ island → s.useCode n island usage = 0x0E04)
    ∧ (s.fld F.CFR_SLOT_ATTR_LO_OWNER n = 15 ∨ s.fld F.CFR_SLOT_ATTR_LO_OWNER n = island → bitOf (s.fld F.CFR_SLOT_ATTR_HI_USAGE n) usage = false →
      s.useCode n island usage = 0x0E05))
  ∧ (∀ (s : State) (island : Nat) (b k : List Byte) (f : Frame), s.slotKey f.slot island 0 = some k → Asks s island b 0x10 f →
    ∃ t, exec (.signMsg (.path island b)) s = .next t ∧ t.cof.slots = s.cof.slots
      ∧ Replied 0x0E00 (Config.sign (s.slotAlg f.slot) k f.body (f.arg.testBit 0) (s.fresh 256)) t)
  ∧ (∀ (s : State) (island : Nat) (b : List Byte) (f : Frame), s.useCode f.slot island 1 = 0 → Asks s island b 0x11 f → 8 + u16 f.body 0 ≤ f.body.length →
    uN f.body 2 6 = 0 → ∃ t, exec (.verifySig (.path island b)) s = .next t ∧ t.cof.slots = s.cof.slots
      ∧ Replied (if ∃ k ∈ s.slotKeys f.slot island 1, Config.sigVerify (s.slotAlg f.slot) k (f.body.drop (8 + u16 f.body 0))
          (slice f.body 8 (u16 f.body 0)) (f.arg.testBit 0) = true then 0x0E00 else 0x0E02) [] t)
  ∧ (∀ (s : State) (island : Nat) (b k nonce aad text : List Byte) (f : Frame), s.slotKey f.slot island 2 = some k → nonce.length = 12 →
    aad.length < 2 ^ 32 →
    (Asks s island b 0x12 f → f.body = nonce ++ leBytes 4 aad.length ++ aad ++ text → ∃ t, exec (.sealAead (.path island b)) s = .next t
      ∧ t.cof.slots = s.cof.slots ∧ Replied 0x0E00 (gcmSeal k nonce aad text) t)
    ∧ (Asks s island b 0x13 f → f.body = nonce ++ leBytes 4 aad.length ++ aad ++ gcmSeal k nonce aad text →
      ∃ t, exec (.openAead (.path island b)) s = .next t ∧ t.cof.slots = s.cof.slots ∧ Replied 0x0E00 text t))
  ∧ (∀ (s : State) (island : Nat) (b : List Byte) (f : Frame), Asks s island b 0x14 f → f.arg ≤ 1 → ∃ t, exec (.hashData (.path island b)) s = .next t
    ∧ Replied 0x0E00 (if f.arg = 0 then sha256 f.body else sha384 f.body) t ∧ t.cof.slots = s.cof.slots ∧ CellsKept [(.CFR_STAT, 0)] s t)
  ∧ (∀ (s : State) (c : Nat) (f : Frame), s.runs 7 = true → s.flag F.CFR_LC_STATE_ERASE_PEND = false →
    (s.channelFrame c).1.bind readFrame = some f → f.opcode = 0x14 → c ≠ 12 → f.arg = 0 →
    let w := s.unitWrite cofferPort f.out (sha256 f.body)
    ∃ t, exec (.hashData (.channel c)) s = .next t ∧ t.flag F.CFR_CH_STAT_BUSY c = false
      ∧ (32 ≤ f.outMax → w.1 = true → t.mem = w.2.mem ∧ t.fld F.CFR_CH_STAT_CODE c = 0x0E00 ∧ t.fld F.CFR_CH_STAT_OUT_LEN c = 8
        ∧ (s.absentEngineAt f.out 32 = false → t.bytes f.out 32 = sha256 f.body ∧ ∀ a, a < f.out ∨ f.out + 32 ≤ a → t.byte a = s.byte a))
      ∧ (f.outMax < 32 ∨ w.1 = false → t.fld F.CFR_CH_STAT_CODE c = 0x0E01 ∧ MemKept s t)
      ∧ (f.outMax < 32 ∨ w.1 = true → CellsKept [(.CFR_CH_STAT, c), (.CFR_STAT, 0)] s t))
  ∧ (∀ (s : State) (island : Nat) (b key : List Byte) (f : Frame), Asks s island b 6 f → f.body = [] → s.flag F.CFR_STAT_ROOT_FAIL = false →
    s.slotLive f.slot = true → s.chainOk 5 f.slot = true → (s.keySlot f.slot).active = some key →
    (bitOf (s.fld F.CFR_SLOT_ATTR_HI_USAGE f.slot) 1 = false → ∃ t, exec (.getPublic (.path island b)) s = .next t ∧ KeyRefused 0x0E05 s t)
    ∧ (bitOf (s.fld F.CFR_SLOT_ATTR_HI_USAGE f.slot) 1 = true → ∃ t, exec (.getPublic (.path island b)) s = .next t ∧ t.cof.slots = s.cof.slots
      ∧ Replied 0x0E00 (if s.flag F.CFR_SLOT_ATTR_LO_PUB f.slot then key else Config.publicOf (s.slotAlg f.slot) key) t))
  ∧ (∀ (s : State) (island : Nat) (b k : List Byte) (f : Frame), Asks s island b 7 f → f.body.length = 34 → u8 f.body 32 ≤ 1 → u8 f.body 33 = 0 →
    s.slotLive f.slot = true → s.slotKey (u8 f.body 32) island 16 = some k →
    let m := s.statement f.slot (u8 f.body 32) false (f.body.take 32)
    ∃ t, exec (.attest (.path island b)) s = .next t ∧ Replied 0x0E00 (m ++ Config.sign (u8 f.body 32 + 1) k m false (s.fresh 256)) t
      ∧ t.cof.slots = s.cof.slots ∧ CellsKept [(.CFR_STAT, 0)] s t)
  ∧ (∀ (s : State) (island : Nat) (b : List Byte) (f : Frame), Asks s island b 8 f → f.body.length = 1 → u8 f.body 0 ≤ 1 →
    ∃ t, exec (.getCert (.path island b)) s = .next t ∧ Replied 0x0E00 (Config.makerCert (u8 f.body 0)) t ∧ CellsKept [(.CFR_STAT, 0)] s t)
  ∧ (∀ (s : State) (who : Initiator) (c : Nat), ReachesReg s who .CFR_CH_CMD c →
    (c = 12 ∧ who.port ≠ 14 → exec (.cfrChGo who c) s = .next { served s who with resp := .done })
    ∧ (c ≠ 12 ∨ who.port = 14 →
      (s.flag F.CFR_CH_STAT_BUSY c = true → exec (.cfrChGo who c) s = .next { (served s who).report 0x0E10 c with resp := .done })
      ∧ (s.flag F.CFR_CH_STAT_BUSY c = false →
        (∀ f, (s.channelFrame c).1.bind readFrame = some f → f.opcode ∈ opcodes → channelMay c f.opcode = true →
          exec (.cfrChGo who c) s = .next { (served s who).setFld F.CFR_CH_STAT_BUSY c 1 with resp := .done })
        ∧ ((s.channelFrame c).1.bind readFrame = none → ∃ t, exec (.cfrChGo who c) s = .next t ∧ t.fld F.CFR_CH_STAT_CODE c = 0x0E01
          ∧ t.flag F.CFR_CH_STAT_BUSY c = false ∧ MemKept s t ∧ t.resp = .done
          ∧ RegsKept [.CFR_CH_STAT, .CFR_STAT, .SYS_BUSERR_ADDR_LO, .SYS_BUSERR_ADDR_HI, .SYS_BUSERR_INFO] s t))))

/-- R413, R415, R416, R419, R422 to R425: a staged key carries the attributes of the active one and is VERIFIED, or is zeroised with 0E0Dh; a
commit waits for its heat marker, at which the sides swap and the former key stays for GRACE heats; ABORT drops the staged key; a rotation is
staged for the next heat, with 0E0Ah after seven; a life-cycle step is signed, sets ERASE_PEND and closes debug, and erasing ends in a reset; a
signed unlock opens debug, a failed one locks for 10 s with 0E11h; a session ends by expiry or CLOSE; a core halts in an open session, in
FIELD not while the device holds the peg. Completes: KEY_STAGE, KEY_COMMIT, ABORT, KEY_SWAP, GRACE_END, ROT_ROTATE, LC_STEP, ERASE_DONE,
DEBUG_UNLOCK, DEBUG_CLOSE, DEBUG_EXPIRY, DEBUG_HALT. -/
def Obligations.ReplacementsLifeCycleAndDebug : Prop :=
  (∀ (s : State) (island : Nat) (b : List Byte) (f : Frame), Asks s island b 0x20 f → f.body.length = 16 → u8 f.body 0 = 1 → uN f.body 1 7 = 0 →
    NeedsNoTrailer island f 8 → s.flag F.CFR_STAT_ROOT_FAIL = false → 10 ≤ f.slot → s.slotLive f.slot = true →
    let a := attrOf (f.body.drop 8) 0 1 0x3FF
    let alg := F.CFR_SLOT_ATTR_LO_ALG.of a.1
    let k : NewKey := ⟨a.1, a.2, 0, Config.makeKey alg (s.fresh 256)⟩
    5 ≤ alg → alg ≤ 6 → F.CFR_SLOT_ATTR_LO_PUB.of a.1 = 0 →
    (s.stageable f.slot k = true → ∃ t, exec (.keyStage (.path island b)) s = .next t ∧ Replied 0x0E00 [] t
      ∧ t.keySlot f.slot = { s.keySlot f.slot with staged := some ⟨k.lo, k.hi, k.key⟩, commit := none }
      ∧ t.flag F.CFR_SLOT_STAT_STAGED f.slot = true ∧ t.flag F.CFR_SLOT_STAT_VERIFIED f.slot = true
      ∧ CellsKept [(.CFR_SLOT_STAT, f.slot), (.CFR_STAT, 0)] s t)
    ∧ (s.stageable f.slot k = false → ∃ t, exec (.keyStage (.path island b)) s = .next t ∧ Replied 0x0E0D [] t
      ∧ (t.keySlot f.slot).staged = none ∧ (t.keySlot f.slot).active = (s.keySlot f.slot).active))
  ∧ (∀ (s : State) (island : Nat) (b : List Byte) (f : Frame), Asks s island b 0x21 f → f.body.length = 16 → uN f.body 10 6 = 0 → s.slotLive f.slot = true →
    (s.flag F.CFR_SLOT_STAT_VERIFIED f.slot = false → ∃ t, exec (.keyCommit (.path island b)) s = .next t ∧ KeyRefused 0x0E0D s t)
    ∧ (s.flag F.CFR_SLOT_STAT_VERIFIED f.slot = true → ∃ t, exec (.keyCommit (.path island b)) s = .next t ∧ Replied 0x0E00 [] t
      ∧ t.keySlot f.slot = { s.keySlot f.slot with commit := some (max (uN f.body 0 8) (s.heat + 1), u16 f.body 8, false) }
      ∧ CellsKept [(.CFR_STAT, 0)] s t))
  ∧ (∀ (s : State) (island : Nat) (b : List Byte) (f : Frame) (k : KeySide), Asks s island b 0x22 f → f.body = [] → (s.keySlot f.slot).staged = some k →
    ∃ t, exec (.abort (.path island b)) s = .next t ∧ Replied 0x0E00 [] t ∧ t.keySlot f.slot = { s.keySlot f.slot with staged := none, commit := none }
      ∧ t.flag F.CFR_SLOT_STAT_STAGED f.slot = false ∧ t.flag F.CFR_SLOT_STAT_VERIFIED f.slot = false
      ∧ CellsKept [(.CFR_SLOT_STAT, f.slot), (.CFR_STAT, 0)] s t)
  ∧ (∀ (s : State) (n at_ grace : Nat) (rot : Bool) (k : KeySide), s.runs 7 = true → (s.keySlot n).staged = some k → (s.keySlot n).commit = some (at_, grace, rot) →
    grace < 2 ^ 16 → (s.heat < at_ → exec (.keySwap n) s = .next s)
    ∧ (at_ ≤ s.heat → ∃ t, exec (.keySwap n) s = .next t
      ∧ t.keySlot n = ⟨some k.key, none, if grace = 0 then none else (s.keySlot n).active, none⟩
      ∧ t.reg .CFR_SLOT_ATTR_LO n = k.lo ∧ t.reg .CFR_SLOT_ATTR_HI n = k.hi ∧ t.fld F.CFR_SLOT_STAT_GRACE n = grace
      ∧ t.flag F.CFR_SLOT_STAT_PREV n = decide (grace ≠ 0) ∧ t.flag F.CFR_SLOT_STAT_VERIFIED n = false ∧ t.reports = s.reports ++ [⟨0x0E82, n⟩]
      ∧ t.fld F.CFR_ROT_CNT_COUNT = (if rot = true ∧ (s.keySlot n).active ≠ some k.key then min (s.fld F.CFR_ROT_CNT_COUNT + 1) 7 else s.fld F.CFR_ROT_CNT_COUNT)
      ∧ t.reg .CFR_SLOT_GEN n = s.reg .CFR_SLOT_GEN n))
  ∧ (∀ (s : State) (n : Nat), s.runs 7 = true → s.flag F.CFR_SLOT_STAT_PREV n = true → (s.fld F.CFR_SLOT_STAT_GRACE n ≠ 0 → exec (.graceEnd n) s = .next s)
    ∧ (s.fld F.CFR_SLOT_STAT_GRACE n = 0 → ∃ t, exec (.graceEnd n) s = .next t ∧ t.keySlot n = { s.keySlot n with prev := none }
      ∧ t.flag F.CFR_SLOT_STAT_PREV n = false ∧ CellsKept [(.CFR_SLOT_STAT, n), (.CFR_STAT, 0)] s t))
  ∧ (∀ (s : State) (island : Nat) (b : List Byte) (f : Frame), Asks s island b 0x31 f → 41 ≤ f.body.length → s.slotLive 8 = true → s.pubKeys < 64 →
    let a := attrOf (f.body.drop 32) 3 1 0x3FF
    let key := f.body.drop 40
    let c := s.signedCode f fun n => decide (n = 8)
    rootKey a.1 = true → ∃ t, exec (.rotRotate (.path island b)) s = .next t
      ∧ (c ≠ 0 → KeyRefused c s t)
      ∧ (c = 0 → (s.keySlot 8).active = some key → t.cof.answer = (0x0E00, []) ∧ t.cof.slots = s.cof.slots)
      ∧ (c = 0 → (s.keySlot 8).active ≠ some key → s.fld F.CFR_ROT_CNT_COUNT = 7 → KeyRefused 0x0E0A s t)
      ∧ (c = 0 → (s.keySlot 8).active ≠ some key → s.fld F.CFR_ROT_CNT_COUNT < 7 → t.cof.answer = (0x0E00, [])
        ∧ t.keySlot 8 = { s.keySlot 8 with staged := some ⟨a.1, a.2, key⟩, commit := some (s.heat + 1, 0, true) }
        ∧ t.fld F.CFR_ROT_CNT_COUNT = s.fld F.CFR_ROT_CNT_COUNT))
  ∧ (∀ (s : State) (island dst : Nat) (b : List Byte) (f : Frame), Asks s island b 0x30 f → f.body.length = 64 → uN f.body 33 15 = 0 → u8 f.body 32 = dst →
    slice f.body 48 16 = (Config.serial ++ leBytes 16 0).take 16 →
    let src := s.fld F.CFR_LC_STATE_STATE
    let c := s.signedCode f (lcSigner src dst)
    ((lcSigner src dst 8 || lcSigner src dst 2) = false ∨ 4 ≤ s.fld F.CFR_LC_STATE_STEPS ∨ src = 4 →
      ∃ t, exec (.lcStep (.path island b)) s = .next t ∧ KeyRefused 0x0E09 s t)
    ∧ ((lcSigner src dst 8 || lcSigner src dst 2) = true → s.fld F.CFR_LC_STATE_STEPS < 4 → src ≠ 4 → dst ≠ 2 ∨ s.slotState 8 = 1 →
      dst < 3 ∨ s.allIdle = true → ∃ t, exec (.lcStep (.path island b)) s = .next t ∧ (c ≠ 0 → KeyRefused c s t)
      ∧ (c = 0 → t.cof.answer = (0x0E00, []) ∧ t.fld F.CFR_LC_STATE_STATE = dst % 8 ∧ t.fld F.CFR_LC_STATE_STEPS = s.fld F.CFR_LC_STATE_STEPS + 1
        ∧ t.flag F.CFR_LC_STATE_ERASE_PEND = true ∧ t.cof.slots = s.cof.slots ∧ (dst ≠ 0 → t.flag F.CFR_DBG_STAT_OPEN = false))))
  ∧ (∀ s : State, s.flag F.CFR_LC_STATE_ERASE_PEND = true → s.sys.booted = true → ∃ t, exec .eraseDone s = .next t
    ∧ t.flag F.CFR_LC_STATE_ERASE_PEND = false ∧ (⟨0x0E84, 0⟩ : Report) ∈ t.reports.drop s.reports.length ∧ t.fld F.PWR_RST_CAUSE_LAST = 9
    ∧ ∀ n ∈ s.erased, s.slotState n ≠ 0 → t.keySlot n = ⟨none, none, none, none⟩)
  ∧ (∀ (s : State) (island : Nat) (b : List Byte) (f : Frame), Asks s island b 0x40 f → f.body.length = 36 → u8 f.body 33 = 0 →
    let c := s.signedCode f (s.debugAllowed (u8 f.body 32))
    (s.now < s.cof.lockUntil → ∃ t, exec (.debugUnlock (.path island b)) s = .next t ∧ KeyRefused 0x0E11 s t)
    ∧ (s.cof.lockUntil ≤ s.now → ∃ t, exec (.debugUnlock (.path island b)) s = .next t
      ∧ (c ≠ 0 → Replied 0x0E11 [] t ∧ t.cof.lockUntil = s.now + s.strokesIn 1000000000 ∧ t.reports = s.reports ++ [⟨0x0E11, 0⟩]
        ∧ t.reg .CFR_DBG_STAT = s.reg .CFR_DBG_STAT)
      ∧ (c = 0 → Replied 0x0E00 [] t ∧ t.flag F.CFR_DBG_STAT_OPEN = true ∧ t.fld F.CFR_DBG_STAT_LEVEL = u8 f.body 32 % 4
        ∧ t.fld F.CFR_DBG_STAT_REMAIN = u16 f.body 34 ∧ t.reports = s.reports ++ [⟨0x0E83, 0⟩])))
  ∧ (∀ (s : State) (who : Initiator), ReachesReg s who .CFR_DBG_CTL 0 → ∃ t, exec (.debugClose who) s = .next t ∧ t.resp = .done
    ∧ t.flag F.CFR_DBG_STAT_OPEN = decide (s.fld F.CFR_LC_STATE_STATE = 0) ∧ CellsKept [(.CFR_DBG_STAT, 0)] s t)
  ∧ (∀ s : State, (s.runs 7 = true → s.flag F.CFR_DBG_STAT_OPEN = true → s.fld F.CFR_DBG_STAT_REMAIN = 0 → ∃ t, exec .debugExpiry s = .next t
      ∧ t.flag F.CFR_DBG_STAT_OPEN = decide (s.fld F.CFR_LC_STATE_STATE = 0) ∧ CellsKept [(.CFR_DBG_STAT, 0)] s t)
    ∧ (s.fld F.CFR_DBG_STAT_REMAIN ≠ 0 → exec .debugExpiry s = .next s))
  ∧ (∀ (s : State) (core : Nat), (s.debugOpen = false → exec (.debugHalt core) s = .next s)
    ∧ (s.runs 1 = true → s.debugOpen = true → s.fld F.CFR_LC_STATE_STATE = 2 → s.holds = true → ∃ t, exec (.debugHalt core) s = .next t
      ∧ t.sys.halted = s.sys.halted ∧ t.reports = s.reports ++ [⟨0x0E11, core⟩])
    ∧ (s.runs 1 = true → s.debugOpen = true → s.fld F.CFR_LC_STATE_STATE ≠ 2 ∨ s.holds = false → ∃ t, exec (.debugHalt core) s = .next t
      ∧ core ∈ t.sys.halted ∧ RegsKept [] s t ∧ MemKept s t ∧ t.reports = s.reports))

/-- R428 to R434: the values that a snapshot's marker latched go to ring 63 whole or are skipped and counted with 0F81h; CLEAR waits for its marker; a
written SCB_CFG comes into force at once where no snapshots ran; PERIOD 1 to 9 and a bad K or ring are refused with 0F01h; a completed tag goes to
its ring with its record. (When the period closes: log entry 53.) Completes: SNAPSHOT, CLEAR, SCB_CFG_WRITE, TAG_CFG_WRITE, TAG_COMPLETE. -/
def Obligations.SnapshotsAndTagsGoToTheirRings : Prop :=
  (∀ s : State, (s.scb.due = none → exec .snapshot s = .next s)
    ∧ (∀ x, s.runs 0 = true → s.scb.due = some x → ∃ t, exec .snapshot s = .next t ∧ t.scb.due = none
      ∧ (s.ringRoom 63 x.banks.length = false → t.fld F.SCB_STAT_SKIPPED = min (s.fld F.SCB_STAT_SKIPPED + 1) (2 ^ 16 - 1) ∧ MemKept s t
        ∧ t.scb.skipped = s.scb.skipped + 1 ∧ t.ringProd 63 = s.ringProd 63
        ∧ t.reports = (if s.scb.skipSaid then s.reports else s.reports ++ [⟨0x0F81, 0⟩]))
      ∧ (s.ringRoom 63 x.banks.length = true → t.fld F.SCB_STAT_SNAP = (s.fld F.SCB_STAT_SNAP + 1) % 2 ^ 16
        ∧ t.fld F.SCB_STAT_SKIPPED = s.fld F.SCB_STAT_SKIPPED ∧ t.reports = s.reports
        ∧ ∀ b, x.banks = [b] → t.ringProd 63 = (s.ringProd 63 + 1) % (2 * s.ringEntries 63) % 2 ^ 17
          ∧ t.bytes (s.ringBase 63 + s.ringProd 63 % s.ringEntries 63 * s.ringEsize 63) 1024 = s.snapEntry x b)))
  ∧ (∀ s : State, let t := s.latchSnap
    t.scb.due = some ⟨s.now, s.scb.period, s.snapBanks, s.scb.counts, s.scb.reads, s.scb.writes⟩
    ∧ (∀ p < 28, t.reg .SCB_BW_LO p = BitVec.ofNat 32 (s.scb.reads.get p) ∧ t.reg .SCB_BW_HI p = BitVec.ofNat 32 (s.scb.writes.get p)
      ∧ t.scb.reads.get p = 0 ∧ t.scb.writes.get p = 0)
    ∧ (s.scb.newCfg = true → t.scb.period = s.fld F.SCB_CFG_PERIOD ∧ t.scb.banks = s.fld F.SCB_CFG_BANKS ∧ t.scb.newCfg = false)
    ∧ RegsKept [.SCB_BW_LO, .SCB_BW_HI] s t)
  ∧ (∀ (s : State) (who : Initiator), ReachesReg s who .SCB_CTL 0 →
    exec (.clear who) s = .next { (served s who).onScb (fun x => { x with clear := true }) with resp := .done })
  ∧ (∀ (s : State) (who : Initiator) (v : W32), ReachesReg s who .SCB_CFG 0 → let n := F.SCB_CFG_PERIOD.of v
    (1 ≤ n → n ≤ 9 → exec (.scbCfgWrite who v) s = .next { (served s who).report 0x0F01 with resp := .done })
    ∧ (n = 0 ∨ 10 ≤ n → ∃ t, exec (.scbCfgWrite who v) s = .next t ∧ t.resp = .done ∧ t.reg .SCB_CFG = v ∧ CellsKept [(.SCB_CFG, 0)] s t
      ∧ t.reports = s.reports ∧ (s.scb.period = 0 → t.scb.period = n ∧ t.scb.banks = F.SCB_CFG_BANKS.of v ∧ t.scb.due = s.scb.due)
      ∧ (s.scb.period ≠ 0 → t.scb = { (served s who).scb with newCfg := true })))
  ∧ (∀ (s : State) (who : Initiator) (v : W32), ReachesReg s who .SCB_TAG_CFG 0 → let k := F.SCB_TAG_CFG_K.of v
    let bad := k < 4 ∨ 20 < k ∨ (F.SCB_TAG_CFG_EN.of v = 1 ∧ s.ringFits (F.SCB_TAG_CFG_RING.of v) 0 32 = false)
    (bad → exec (.tagCfgWrite who v) s = .next { (served s who).report 0x0F01 with resp := .done })
    ∧ (¬ bad → ∃ t, exec (.tagCfgWrite who v) s = .next t ∧ t.resp = .done ∧ t.fld F.SCB_TAG_CFG_K = k
      ∧ t.fld F.SCB_TAG_CFG_EN = F.SCB_TAG_CFG_EN.of v ∧ t.fld F.SCB_TAG_CFG_RING = F.SCB_TAG_CFG_RING.of v
      ∧ t.fld F.SCB_TAG_CFG_SRC = F.SCB_TAG_CFG_SRC.of v ∧ (∀ x, t.scb.issues.get x = 0)
      ∧ CellsKept [(.SCB_TAG_CFG, 0)] s t))
  ∧ (∀ (s : State) (source stroke pc flags fetch exec' retire mem stall : Nat),
    let r := s.fld F.SCB_TAG_CFG_RING
    (s.tagInFlight ⟨source, stroke, pc⟩ = none → exec (.tagComplete source stroke pc flags fetch exec' retire mem stall) s = .next s)
    ∧ (∀ x, s.runs 0 = true → s.tagInFlight ⟨source, stroke, pc⟩ = some x → s.ringFits r 0 32 = true → s.ringRoom r 1 = true →
      ∃ t, exec (.tagComplete source stroke pc flags fetch exec' retire mem stall) s = .next t
        ∧ t.bytes (s.ringBase r + s.ringProd r % s.ringEntries r * 32) 32 = tagRecord x flags fetch exec' retire mem stall
        ∧ t.ringProd r = (s.ringProd r + 1) % (2 * s.ringEntries r) % 2 ^ 17 ∧ (∀ y ∈ t.scb.tags, y.source ≠ source)
        ∧ CellsKept [(.PNT_RING_PROD, r), (.PNT_RING_STAT, r)] s t ∧ t.reports = s.reports))

/-- R437, R439, R440, R442, R443, R447: a supply below its warning threshold is reported once with 1181h until it is back; one out of its range
resets the device with 1101h or 1102h; PFW_N falling releases the peg and starts the power-fail sequence with 1103h, which ends in a reset that
spares island 5 only with PFW_N high and good rails; RESET_N and SW_RESET reset the device; TRST_N the test port alone; release boots it. (How
strokes tell the time since PFW_N fell: log entry 54.) Completes: SUPPLY_WARN, SUPPLY_WARN_END, SUPPLY_RESET, PFW_FALL, HOST_DONE,
HOST_SAVE_LATE, POWER_FAIL_RESET, RESET_N, SW_RESET, TRST_N, RESET_RELEASE. -/
def Obligations.SuppliesResetsAndRelease : Prop :=
  (∀ (s : State) (rail mv : Nat), rail < 4 → mv < 2 ^ 16 →
    (∃ t, exec (.supplyWarn rail mv) s = .next t ∧ t.fld F.PWR_VMON_LAST rail = mv ∧ t.fld F.PWR_VMON_MIN rail = min mv (s.fld F.PWR_VMON_MIN rail)
      ∧ bitOf (t.fld F.PWR_STAT_WARN) rail = (bitOf (s.fld F.PWR_STAT_WARN) rail || decide (mv < (railLimits rail).1))
      ∧ t.reports = (if mv < (railLimits rail).1 ∧ bitOf (s.fld F.PWR_STAT_WARN) rail = false then s.reports ++ [⟨0x1181, rail⟩] else s.reports)
      ∧ CellsKept [(.PWR_VMON, rail), (.PWR_STAT, 0)] s t)
    ∧ (∃ t, exec (.supplyWarnEnd rail mv) s = .next t ∧ t.fld F.PWR_VMON_LAST rail = mv
      ∧ bitOf (t.fld F.PWR_STAT_WARN) rail = (bitOf (s.fld F.PWR_STAT_WARN) rail && decide (mv < (railLimits rail).1 + 10))
      ∧ t.reports = s.reports ∧ CellsKept [(.PWR_VMON, rail), (.PWR_STAT, 0)] s t)
    ∧ ∀ since, let lim := (railLimits rail).2
      (s.pwr.coreOff = true ∨ rail = 3 ∨ (lim.1 ≤ mv ∧ mv ≤ lim.2) → exec (.supplyReset rail mv since) s = .next (s.readRail rail mv))
      ∧ (s.pwr.coreOff = false → rail ≠ 3 → mv < lim.1 → ∃ t, exec (.supplyReset rail mv since) s = .next t ∧ ResetAsserted 4 s t
        ∧ (⟨0x1101, rail⟩ : Report) ∈ t.reports.drop s.reports.length ∧ bitOf (t.fld F.PWR_STAT_GOOD) rail = false)
      ∧ (s.pwr.coreOff = false → rail ≠ 3 → lim.2 < mv → ∃ t, exec (.supplyReset rail mv since) s = .next t ∧ ResetAsserted 5 s t
        ∧ (⟨0x1102, rail⟩ : Report) ∈ t.reports.drop s.reports.length))
  ∧ (∀ s : State, (s.pwr.coreOff = true → exec .pfwFall s = .next s)
    ∧ (s.pwr.coreOff = false → s.sys.booted = false ∨ s.flag F.PWR_STAT_PF_ACTIVE = true → exec .pfwFall s = .next (s.setFld F.PWR_STAT_PFW 0 1))
    ∧ (s.pwr.coreOff = false → s.sys.booted = true → s.flag F.PWR_STAT_PF_ACTIVE = false → ∃ t, exec .pfwFall s = .next t ∧ t.holds = false
      ∧ t.peg.driven = false ∧ t.flag F.PWR_STAT_PFW = true ∧ t.flag F.PWR_STAT_PF_ACTIVE = true ∧ t.reg .PWR_PF_STAT = 0
      ∧ (⟨0x1103, 0⟩ : Report) ∈ t.reports.drop s.reports.length ∧ t.pwr.failing = true ∧ t.pwr.hostDone = false
      ∧ t.pwr.irq = s.flag F.PWR_CTL_PF_IRQ_EN))
  ∧ (∀ (s : State) (who : Initiator), ReachesReg s who .PWR_CTL 0 →
    (s.flag F.PWR_STAT_PF_ACTIVE = true →
      exec (.hostDone who) s = .next { served s who with pwr := { s.pwr with hostDone := true }, resp := .done })
    ∧ (s.flag F.PWR_STAT_PF_ACTIVE = false → exec (.hostDone who) s = .next { served s who with resp := .done })
    ∧ ∃ t, exec (.swReset who) s = .next t ∧ ResetAsserted 8 s t ∧ t.resp = .done)
  ∧ (∀ s : State, s.flag F.PWR_STAT_PF_ACTIVE = true →
    (s.pwr.hostDone = false → s.pwr.failAt + s.strokesIn 500000 ≤ s.now + 1 → exec .hostSaveLate s = .next (s.setFld F.PWR_PF_STAT_HOST_LATE 0 1))
    ∧ (s.pwr.hostDone = true ∨ s.now + 1 < s.pwr.failAt + s.strokesIn 500000 → exec .hostSaveLate s = .next s)
    ∧ ∀ pfwHigh railsGood, (s.pwr.failAt + s.strokesIn 600000 ≤ s.now + 1 → ∃ t, exec (.powerFailReset pfwHigh railsGood) s = .next t
        ∧ ResetAsserted 7 s t
        ∧ ((pfwHigh && railsGood) = true → s.pwr.sources = [] → t.asy = s.asy ∧ (⟨0x1182, 0⟩ : Report) ∈ t.reports.drop s.reports.length)
        ∧ t.flag F.PWR_STAT_PFW = !pfwHigh)
      ∧ (s.now + 1 < s.pwr.failAt + s.strokesIn 600000 → exec (.powerFailReset pfwHigh railsGood) s = .next s))
  ∧ (∀ s : State, s.flag F.PWR_STAT_PF_ACTIVE = false → ∀ c, c = .hostSaveLate ∨ c = .powerFailReset true true → exec c s = .next s)
  ∧ (∀ s : State, (s.pwr.coreOff = true → exec .resetN s = .next s)
    ∧ (s.pwr.coreOff = false → ∃ t, exec .resetN s = .next t ∧ ResetAsserted 3 s t)
    ∧ ∀ low, exec (.trstN low) s = .next { s with pwr := { s.pwr with tapReset := low } })
  ∧ (∀ (s : State) (root : Nat) (corrupt : List Nat) (selfTest : Bool),
    (s.pwr.sources = [] ∨ s.pwr.coreOff = true → exec (.resetRelease root corrupt selfTest) s = .next s)
    ∧ (s.pwr.sources ≠ [] → s.pwr.coreOff = false → ∃ t, exec (.resetRelease root corrupt selfTest) s = .next t ∧ t.sys.booted = true
      ∧ t.pwr.sources = [] ∧ t.pwr.spared = false ∧ t.pwr.failing = false ∧ t.fdl.counter = t.fdl.saved + 65536 ∧ t.fdl.left = t.fdl.leftSaved
      ∧ (∃ c, (⟨0x1183, c⟩ : Report) ∈ t.reports.drop s.reports.length)
      ∧ (selfTest = false → bitOf (t.fld F.SYS_REGION_STAT_FAILED) 6 = true)))
end

