-- ==== Sys2Proof/Laws/Cells.lean ====
section
/-! SUPPORT. What the keyed lists, the numbered cells and the fields of a word do: a read after a write, and the canonical form that
every write keeps. -/

namespace Sys2Proof.Machine

open Sys2Proof

/-! ### Keyed lists -/

section Cells

variable {κ α : Type} [DecidableEq κ]

theorem cellGet?_del_same (k : κ) (l : List (κ × α)) : cellGet? k (cellDel k l) = none := by
  induction l with
  | nil => rfl
  | cons c t ih =>
    by_cases h : c.1 = k
    · simp [cellDel, h, ih]
    · simp [cellDel, cellGet?, h, ih]

theorem cellGet?_del_ne {k k' : κ} (h : k' ≠ k) (l : List (κ × α)) : cellGet? k' (cellDel k l) = cellGet? k' l := by
  induction l with
  | nil => rfl
  | cons c t ih =>
    by_cases hc : c.1 = k
    · simp [cellDel, cellGet?, hc, ih, h.symm]
    · simp [cellDel, cellGet?, hc, ih]

theorem cellGet?_insert_same (lt : κ → κ → Bool) (k : κ) (v : α) {l : List (κ × α)} (h : cellGet? k l = none) :
    cellGet? k (cellInsert lt k v l) = some v := by
  induction l with
  | nil => simp [cellInsert, cellGet?]
  | cons c t ih =>
    by_cases hc : c.1 = k
    · simp [cellGet?, hc] at h
    · have ht : cellGet? k t = none := by simpa [cellGet?, hc] using h
      unfold cellInsert
      split
      · simp [cellGet?]
      · simp [cellGet?, hc, ih ht]

theorem cellGet?_insert_ne (lt : κ → κ → Bool) {k k' : κ} (h : k' ≠ k) (v : α) (l : List (κ × α)) :
    cellGet? k' (cellInsert lt k v l) = cellGet? k' l := by
  induction l with
  | nil => simp [cellInsert, cellGet?, h.symm]
  | cons c t ih =>
    unfold cellInsert
    split
    · simp [cellGet?, h.symm]
    · simp [cellGet?, ih]

variable [DecidableEq α]

/-- A read of the key that was written: the value, where an unlisted key reads as `d`. -/
theorem cellGet?_put_same (lt : κ → κ → Bool) (d : α) (k : κ) (v : α) (l : List (κ × α)) :
    (cellGet? k (cellPut lt d k v l)).getD d = v := by
  unfold cellPut
  split
  · rename_i h; simp [cellGet?_del_same, h]
  · simp [cellGet?_insert_same lt k v (cellGet?_del_same k l)]

/-- A read of another key: as before. -/
theorem cellGet?_put_ne (lt : κ → κ → Bool) (d : α) {k k' : κ} (h : k' ≠ k) (v : α) (l : List (κ × α)) :
    cellGet? k' (cellPut lt d k v l) = cellGet? k' l := by
  unfold cellPut
  split
  · exact cellGet?_del_ne h l
  · rw [cellGet?_insert_ne lt h, cellGet?_del_ne h]

omit [DecidableEq α] in
theorem mem_cellDel {k : κ} {c : κ × α} {l : List (κ × α)} (h : c ∈ cellDel k l) : c ∈ l ∧ c.1 ≠ k := by
  induction l with
  | nil => simp [cellDel] at h
  | cons b t ih =>
    unfold cellDel at h
    split at h
    · exact ⟨List.mem_cons_of_mem _ (ih h).1, (ih h).2⟩
    · rename_i hb
      rcases List.mem_cons.1 h with e | h'
      · subst e; exact ⟨List.mem_cons_self, hb⟩
      · exact ⟨List.mem_cons_of_mem _ (ih h').1, (ih h').2⟩

omit [DecidableEq κ] [DecidableEq α] in
theorem mem_cellInsert {lt : κ → κ → Bool} {k : κ} {v : α} {c : κ × α} {l : List (κ × α)} (h : c ∈ cellInsert lt k v l) :
    c = (k, v) ∨ c ∈ l := by
  induction l with
  | nil => simpa [cellInsert] using h
  | cons b t ih =>
    unfold cellInsert at h
    split at h
    · exact (List.mem_cons.1 h).imp id id
    · rcases List.mem_cons.1 h with e | h'
      · exact .inr (e ▸ List.mem_cons_self)
      · exact (ih h').imp id (List.mem_cons_of_mem _)

omit [DecidableEq α] in
theorem cellDel_sublist (k : κ) (l : List (κ × α)) : (cellDel k l).Sublist l := by
  induction l with
  | nil => exact List.Sublist.refl _
  | cons b t ih =>
    unfold cellDel
    split
    · exact ih.cons _
    · exact ih.cons_cons _

/-- Keys that rise strictly still do after a write. -/
theorem cellPut_pairwise {lt : κ → κ → Bool} (trans : ∀ a b c, lt a b = true → lt b c = true → lt a c = true)
    (total : ∀ a b, a ≠ b → lt a b = false → lt b a = true) (d : α) (k : κ) (v : α) {l : List (κ × α)}
    (h : l.Pairwise fun a b => lt a.1 b.1 = true) : (cellPut lt d k v l).Pairwise fun a b => lt a.1 b.1 = true := by
  have hd := h.sublist (cellDel_sublist k l)
  unfold cellPut
  split
  · exact hd
  · have hk : ∀ c ∈ cellDel k l, c.1 ≠ k := fun c hc => (mem_cellDel hc).2
    revert hd hk
    generalize cellDel k l = m
    intro hd hk
    induction m with
    | nil => simp [cellInsert]
    | cons b t ih =>
      obtain ⟨hb, ht⟩ := List.pairwise_cons.1 hd
      unfold cellInsert
      split
      · rename_i hlt
        refine List.pairwise_cons.2 ⟨fun c hc => ?_, hd⟩
        rcases List.mem_cons.1 hc with e | hc'
        · exact e ▸ hlt
        · exact trans _ _ _ hlt (hb c hc')
      · rename_i hlt
        refine List.pairwise_cons.2 ⟨fun c hc => ?_, ih ht fun c hc => hk c (List.mem_cons_of_mem _ hc)⟩
        rcases mem_cellInsert hc with e | hc'
        · subst e
          exact total _ _ (fun e => hk b List.mem_cons_self e.symm) (by simpa using hlt)
        · exact hb c hc'

/-- Every listed value still differs from what an unlisted key reads as. -/
theorem cellPut_all {lt : κ → κ → Bool} {d : α} {k : κ} {v : α} {l : List (κ × α)} {P : κ × α → Prop} (hv : v ≠ d → P (k, v))
    (h : ∀ c ∈ l, P c) : ∀ c ∈ cellPut lt d k v l, P c := by
  intro c hc
  unfold cellPut at hc
  split at hc
  · exact h c (mem_cellDel hc).1
  · rename_i hne
    rcases mem_cellInsert hc with e | hc'
    · exact e ▸ hv hne
    · exact h c (mem_cellDel hc').1

end Cells

/-! ### Numbered cells -/

@[simp] theorem Arr.get_set_same {α : Type} [DecidableEq α] (a : Arr α) (k : Nat) (v : α) : (a.set k v).get k = v :=
  cellGet?_put_same natLt a.dflt k v a.cells

theorem Arr.get_set_ne {α : Type} [DecidableEq α] (a : Arr α) {k j : Nat} (h : j ≠ k) (v : α) : (a.set k v).get j = a.get j := by
  unfold Arr.get Arr.set
  rw [cellGet?_put_ne natLt a.dflt h]

@[simp] theorem Arr.get_upd_same {α : Type} [DecidableEq α] (a : Arr α) (k : Nat) (f : α → α) : (a.upd k f).get k = f (a.get k) :=
  Arr.get_set_same a k _

theorem Arr.get_upd_ne {α : Type} [DecidableEq α] (a : Arr α) {k j : Nat} (h : j ≠ k) (f : α → α) : (a.upd k f).get j = a.get j :=
  Arr.get_set_ne a h _

/-! ### Orders of the keys -/

theorem natLt_trans (a b c : Nat) (h : natLt a b = true) (h' : natLt b c = true) : natLt a c = true := by
  simp only [natLt, decide_eq_true_eq] at *; omega

theorem natLt_total (a b : Nat) (h : a ≠ b) (h' : natLt a b = false) : natLt b a = true := by
  simp only [natLt, decide_eq_true_eq, decide_eq_false_iff_not] at *; omega

theorem Reg.ctorIdx_inj {a b : Reg} (h : a.ctorIdx = b.ctorIdx) : a = b := by
  rw [← Reg.ofNat_ctorIdx a, ← Reg.ofNat_ctorIdx b, h]

theorem regLt_iff (a b : RegKey) : regLt a b = true ↔ a.1.ctorIdx < b.1.ctorIdx ∨ (a.1 = b.1 ∧ a.2 < b.2) := by
  simp [regLt]

theorem regLt_trans (a b c : RegKey) (h : regLt a b = true) (h' : regLt b c = true) : regLt a c = true := by
  rw [regLt_iff] at *
  rcases h with h | ⟨h, k⟩ <;> rcases h' with h' | ⟨h', k'⟩
  · exact .inl (by omega)
  · exact .inl (h' ▸ h)
  · exact .inl (h ▸ h')
  · exact .inr ⟨h.trans h', by omega⟩

theorem regLt_total (a b : RegKey) (h : a ≠ b) (h' : regLt a b = false) : regLt b a = true := by
  have h'' : ¬ regLt a b = true := by simp [h']
  rw [regLt_iff] at h'' ⊢
  have ⟨h1, h2⟩ := not_or.1 h''
  rcases Nat.lt_trichotomy a.1.ctorIdx b.1.ctorIdx with c | c | c
  · exact absurd c h1
  · have e := Reg.ctorIdx_inj c
    have : a.2 ≠ b.2 := fun e2 => h (Prod.ext e e2)
    have : ¬ a.2 < b.2 := fun l => h2 ⟨e, l⟩
    exact .inr ⟨e.symm, by omega⟩
  · exact .inl c

/-! ### Fields of a word -/

theorem Fld.of_testBit (f : Fld) (v : W32) (i : Nat) : (f.of v).testBit i = (decide (i < f.width) && v.getLsbD (f.lo + i)) := by
  simp [Fld.of, Nat.testBit_mod_two_pow, Nat.testBit_shiftRight, BitVec.getLsbD]

theorem Fld.put_getLsbD (f : Fld) (v : W32) (n j : Nat) (h : f.hi < 32) (hl : f.lo ≤ f.hi) :
    (f.put v n).getLsbD j = if f.lo ≤ j ∧ j ≤ f.hi then n.testBit (j - f.lo) else v.getLsbD j := by
  have hw : f.width = f.hi - f.lo + 1 := rfl
  by_cases hj : j < 32
  · simp only [Fld.put, Fld.mask, BitVec.getLsbD_or, BitVec.getLsbD_and, BitVec.getLsbD_not, BitVec.getLsbD_shiftLeft,
      BitVec.getLsbD_ofNat, Nat.testBit_shiftLeft, Nat.testBit_two_pow_sub_one, Nat.testBit_mod_two_pow, hj, decide_true, Bool.true_and]
    by_cases h1 : f.lo ≤ j
    · by_cases h2 : j ≤ f.hi
      · have a : j - f.lo < f.width := by omega
        have b : ¬ j < f.lo := by omega
        have c : j - f.lo < 32 := by omega
        simp [h1, h2, a, b, c]
      · have a : ¬ j - f.lo < f.width := by omega
        simp [h1, h2, a]
    · have b : j < f.lo := by omega
      simp [h1, b]
  · have a : ¬ (f.lo ≤ j ∧ j ≤ f.hi) := by omega
    rw [if_neg a, BitVec.getLsbD_of_ge _ _ (by omega), BitVec.getLsbD_of_ge _ _ (by omega)]

/-- A field read after it is written: the value cut to the field's width. -/
theorem Fld.of_put (f : Fld) (v : W32) (n : Nat) (h : f.hi < 32) (hl : f.lo ≤ f.hi) : f.of (f.put v n) = n % 2 ^ f.width := by
  have hw : f.width = f.hi - f.lo + 1 := rfl
  apply Nat.eq_of_testBit_eq
  intro i
  rw [Fld.of_testBit, Fld.put_getLsbD f v n _ h hl, Nat.testBit_mod_two_pow]
  by_cases hi : i < f.width
  · have : f.lo ≤ f.lo + i ∧ f.lo + i ≤ f.hi := by omega
    simp [hi, this]
  · simp [hi]

/-- A field is not touched by writing another one of the same word. -/
theorem Fld.of_put_ne (f g : Fld) (v : W32) (n : Nat) (h : f.hi < 32) (hl : f.lo ≤ f.hi) (d : g.hi < f.lo ∨ f.hi < g.lo)
    (hg : g.lo ≤ g.hi) : g.of (f.put v n) = g.of v := by
  have hw : g.width = g.hi - g.lo + 1 := rfl
  apply Nat.eq_of_testBit_eq
  intro i
  rw [Fld.of_testBit, Fld.of_testBit, Fld.put_getLsbD f v n _ h hl]
  by_cases hi : i < g.width
  · have : ¬ (f.lo ≤ g.lo + i ∧ g.lo + i ≤ f.hi) := by omega
    simp [this]
  · simp [hi]

end Sys2Proof.Machine
end

