-- ==== Sys2Proof/Laws/State.lean ====
section
/-! SUPPORT. One lemma for each field of State and each elementary update: the update leaves every field but its own. And what a register,
a field, a flag and a byte read after each update that leaves them. -/

namespace Sys2Proof.Machine

open Sys2Proof

/-! ### setReg changes regs -/

@[simp] theorem State.setReg_pending (s : State) (r : Reg) (i : Nat) (v : W32) : (s.setReg r i v).pending = s.pending := rfl
@[simp] theorem State.setReg_mem (s : State) (r : Reg) (i : Nat) (v : W32) : (s.setReg r i v).mem = s.mem := rfl
@[simp] theorem State.setReg_ecc (s : State) (r : Reg) (i : Nat) (v : W32) : (s.setReg r i v).ecc = s.ecc := rfl
@[simp] theorem State.setReg_reports (s : State) (r : Reg) (i : Nat) (v : W32) : (s.setReg r i v).reports = s.reports := rfl
@[simp] theorem State.setReg_resp (s : State) (r : Reg) (i : Nat) (v : W32) : (s.setReg r i v).resp = s.resp := rfl
@[simp] theorem State.setReg_sent (s : State) (r : Reg) (i : Nat) (v : W32) : (s.setReg r i v).sent = s.sent := rfl
@[simp] theorem State.setReg_freeCtr (s : State) (r : Reg) (i : Nat) (v : W32) : (s.setReg r i v).freeCtr = s.freeCtr := rfl
@[simp] theorem State.setReg_sys (s : State) (r : Reg) (i : Nat) (v : W32) : (s.setReg r i v).sys = s.sys := rfl
@[simp] theorem State.setReg_jny (s : State) (r : Reg) (i : Nat) (v : W32) : (s.setReg r i v).jny = s.jny := rfl
@[simp] theorem State.setReg_acq (s : State) (r : Reg) (i : Nat) (v : W32) : (s.setReg r i v).acq = s.acq := rfl
@[simp] theorem State.setReg_frg (s : State) (r : Reg) (i : Nat) (v : W32) : (s.setReg r i v).frg = s.frg := rfl
@[simp] theorem State.setReg_clf (s : State) (r : Reg) (i : Nat) (v : W32) : (s.setReg r i v).clf = s.clf := rfl
@[simp] theorem State.setReg_trs (s : State) (r : Reg) (i : Nat) (v : W32) : (s.setReg r i v).trs = s.trs := rfl
@[simp] theorem State.setReg_blw (s : State) (r : Reg) (i : Nat) (v : W32) : (s.setReg r i v).blw = s.blw := rfl
@[simp] theorem State.setReg_asy (s : State) (r : Reg) (i : Nat) (v : W32) : (s.setReg r i v).asy = s.asy := rfl
@[simp] theorem State.setReg_mrt (s : State) (r : Reg) (i : Nat) (v : W32) : (s.setReg r i v).mrt = s.mrt := rfl
@[simp] theorem State.setReg_peg (s : State) (r : Reg) (i : Nat) (v : W32) : (s.setReg r i v).peg = s.peg := rfl
@[simp] theorem State.setReg_pnt (s : State) (r : Reg) (i : Nat) (v : W32) : (s.setReg r i v).pnt = s.pnt := rfl
@[simp] theorem State.setReg_net (s : State) (r : Reg) (i : Nat) (v : W32) : (s.setReg r i v).net = s.net := rfl
@[simp] theorem State.setReg_can (s : State) (r : Reg) (i : Nat) (v : W32) : (s.setReg r i v).can = s.can := rfl
@[simp] theorem State.setReg_fdl (s : State) (r : Reg) (i : Nat) (v : W32) : (s.setReg r i v).fdl = s.fdl := rfl
@[simp] theorem State.setReg_est (s : State) (r : Reg) (i : Nat) (v : W32) : (s.setReg r i v).est = s.est := rfl
@[simp] theorem State.setReg_emb (s : State) (r : Reg) (i : Nat) (v : W32) : (s.setReg r i v).emb = s.emb := rfl
@[simp] theorem State.setReg_cof (s : State) (r : Reg) (i : Nat) (v : W32) : (s.setReg r i v).cof = s.cof := rfl
@[simp] theorem State.setReg_scb (s : State) (r : Reg) (i : Nat) (v : W32) : (s.setReg r i v).scb = s.scb := rfl
@[simp] theorem State.setReg_pwr (s : State) (r : Reg) (i : Nat) (v : W32) : (s.setReg r i v).pwr = s.pwr := rfl
@[simp] theorem State.setReg_byte (s : State) (r : Reg) (i : Nat) (v : W32) (x : Nat) : (s.setReg r i v).byte x = s.byte x := rfl

/-! ### setFld changes regs -/

@[simp] theorem State.setFld_pending (s : State) (f : Fld) (i n : Nat) : (s.setFld f i n).pending = s.pending := rfl
@[simp] theorem State.setFld_mem (s : State) (f : Fld) (i n : Nat) : (s.setFld f i n).mem = s.mem := rfl
@[simp] theorem State.setFld_ecc (s : State) (f : Fld) (i n : Nat) : (s.setFld f i n).ecc = s.ecc := rfl
@[simp] theorem State.setFld_reports (s : State) (f : Fld) (i n : Nat) : (s.setFld f i n).reports = s.reports := rfl
@[simp] theorem State.setFld_resp (s : State) (f : Fld) (i n : Nat) : (s.setFld f i n).resp = s.resp := rfl
@[simp] theorem State.setFld_sent (s : State) (f : Fld) (i n : Nat) : (s.setFld f i n).sent = s.sent := rfl
@[simp] theorem State.setFld_freeCtr (s : State) (f : Fld) (i n : Nat) : (s.setFld f i n).freeCtr = s.freeCtr := rfl
@[simp] theorem State.setFld_sys (s : State) (f : Fld) (i n : Nat) : (s.setFld f i n).sys = s.sys := rfl
@[simp] theorem State.setFld_jny (s : State) (f : Fld) (i n : Nat) : (s.setFld f i n).jny = s.jny := rfl
@[simp] theorem State.setFld_acq (s : State) (f : Fld) (i n : Nat) : (s.setFld f i n).acq = s.acq := rfl
@[simp] theorem State.setFld_frg (s : State) (f : Fld) (i n : Nat) : (s.setFld f i n).frg = s.frg := rfl
@[simp] theorem State.setFld_clf (s : State) (f : Fld) (i n : Nat) : (s.setFld f i n).clf = s.clf := rfl
@[simp] theorem State.setFld_trs (s : State) (f : Fld) (i n : Nat) : (s.setFld f i n).trs = s.trs := rfl
@[simp] theorem State.setFld_blw (s : State) (f : Fld) (i n : Nat) : (s.setFld f i n).blw = s.blw := rfl
@[simp] theorem State.setFld_asy (s : State) (f : Fld) (i n : Nat) : (s.setFld f i n).asy = s.asy := rfl
@[simp] theorem State.setFld_mrt (s : State) (f : Fld) (i n : Nat) : (s.setFld f i n).mrt = s.mrt := rfl
@[simp] theorem State.setFld_peg (s : State) (f : Fld) (i n : Nat) : (s.setFld f i n).peg = s.peg := rfl
@[simp] theorem State.setFld_pnt (s : State) (f : Fld) (i n : Nat) : (s.setFld f i n).pnt = s.pnt := rfl
@[simp] theorem State.setFld_net (s : State) (f : Fld) (i n : Nat) : (s.setFld f i n).net = s.net := rfl
@[simp] theorem State.setFld_can (s : State) (f : Fld) (i n : Nat) : (s.setFld f i n).can = s.can := rfl
@[simp] theorem State.setFld_fdl (s : State) (f : Fld) (i n : Nat) : (s.setFld f i n).fdl = s.fdl := rfl
@[simp] theorem State.setFld_est (s : State) (f : Fld) (i n : Nat) : (s.setFld f i n).est = s.est := rfl
@[simp] theorem State.setFld_emb (s : State) (f : Fld) (i n : Nat) : (s.setFld f i n).emb = s.emb := rfl
@[simp] theorem State.setFld_cof (s : State) (f : Fld) (i n : Nat) : (s.setFld f i n).cof = s.cof := rfl
@[simp] theorem State.setFld_scb (s : State) (f : Fld) (i n : Nat) : (s.setFld f i n).scb = s.scb := rfl
@[simp] theorem State.setFld_pwr (s : State) (f : Fld) (i n : Nat) : (s.setFld f i n).pwr = s.pwr := rfl
@[simp] theorem State.setFld_byte (s : State) (f : Fld) (i n : Nat) (x : Nat) : (s.setFld f i n).byte x = s.byte x := rfl

/-! ### setFlag changes regs -/

@[simp] theorem State.setFlag_pending (s : State) (f : Fld) (i : Nat) (b : Bool) : (s.setFlag f i b).pending = s.pending := rfl
@[simp] theorem State.setFlag_mem (s : State) (f : Fld) (i : Nat) (b : Bool) : (s.setFlag f i b).mem = s.mem := rfl
@[simp] theorem State.setFlag_ecc (s : State) (f : Fld) (i : Nat) (b : Bool) : (s.setFlag f i b).ecc = s.ecc := rfl
@[simp] theorem State.setFlag_reports (s : State) (f : Fld) (i : Nat) (b : Bool) : (s.setFlag f i b).reports = s.reports := rfl
@[simp] theorem State.setFlag_resp (s : State) (f : Fld) (i : Nat) (b : Bool) : (s.setFlag f i b).resp = s.resp := rfl
@[simp] theorem State.setFlag_sent (s : State) (f : Fld) (i : Nat) (b : Bool) : (s.setFlag f i b).sent = s.sent := rfl
@[simp] theorem State.setFlag_freeCtr (s : State) (f : Fld) (i : Nat) (b : Bool) : (s.setFlag f i b).freeCtr = s.freeCtr := rfl
@[simp] theorem State.setFlag_sys (s : State) (f : Fld) (i : Nat) (b : Bool) : (s.setFlag f i b).sys = s.sys := rfl
@[simp] theorem State.setFlag_jny (s : State) (f : Fld) (i : Nat) (b : Bool) : (s.setFlag f i b).jny = s.jny := rfl
@[simp] theorem State.setFlag_acq (s : State) (f : Fld) (i : Nat) (b : Bool) : (s.setFlag f i b).acq = s.acq := rfl
@[simp] theorem State.setFlag_frg (s : State) (f : Fld) (i : Nat) (b : Bool) : (s.setFlag f i b).frg = s.frg := rfl
@[simp] theorem State.setFlag_clf (s : State) (f : Fld) (i : Nat) (b : Bool) : (s.setFlag f i b).clf = s.clf := rfl
@[simp] theorem State.setFlag_trs (s : State) (f : Fld) (i : Nat) (b : Bool) : (s.setFlag f i b).trs = s.trs := rfl
@[simp] theorem State.setFlag_blw (s : State) (f : Fld) (i : Nat) (b : Bool) : (s.setFlag f i b).blw = s.blw := rfl
@[simp] theorem State.setFlag_asy (s : State) (f : Fld) (i : Nat) (b : Bool) : (s.setFlag f i b).asy = s.asy := rfl
@[simp] theorem State.setFlag_mrt (s : State) (f : Fld) (i : Nat) (b : Bool) : (s.setFlag f i b).mrt = s.mrt := rfl
@[simp] theorem State.setFlag_peg (s : State) (f : Fld) (i : Nat) (b : Bool) : (s.setFlag f i b).peg = s.peg := rfl
@[simp] theorem State.setFlag_pnt (s : State) (f : Fld) (i : Nat) (b : Bool) : (s.setFlag f i b).pnt = s.pnt := rfl
@[simp] theorem State.setFlag_net (s : State) (f : Fld) (i : Nat) (b : Bool) : (s.setFlag f i b).net = s.net := rfl
@[simp] theorem State.setFlag_can (s : State) (f : Fld) (i : Nat) (b : Bool) : (s.setFlag f i b).can = s.can := rfl
@[simp] theorem State.setFlag_fdl (s : State) (f : Fld) (i : Nat) (b : Bool) : (s.setFlag f i b).fdl = s.fdl := rfl
@[simp] theorem State.setFlag_est (s : State) (f : Fld) (i : Nat) (b : Bool) : (s.setFlag f i b).est = s.est := rfl
@[simp] theorem State.setFlag_emb (s : State) (f : Fld) (i : Nat) (b : Bool) : (s.setFlag f i b).emb = s.emb := rfl
@[simp] theorem State.setFlag_cof (s : State) (f : Fld) (i : Nat) (b : Bool) : (s.setFlag f i b).cof = s.cof := rfl
@[simp] theorem State.setFlag_scb (s : State) (f : Fld) (i : Nat) (b : Bool) : (s.setFlag f i b).scb = s.scb := rfl
@[simp] theorem State.setFlag_pwr (s : State) (f : Fld) (i : Nat) (b : Bool) : (s.setFlag f i b).pwr = s.pwr := rfl
@[simp] theorem State.setFlag_byte (s : State) (f : Fld) (i : Nat) (b : Bool) (x : Nat) : (s.setFlag f i b).byte x = s.byte x := rfl

/-! ### bumpSat changes regs -/

@[simp] theorem State.bumpSat_pending (s : State) (f : Fld) (i : Nat) : (s.bumpSat f i).pending = s.pending := rfl
@[simp] theorem State.bumpSat_mem (s : State) (f : Fld) (i : Nat) : (s.bumpSat f i).mem = s.mem := rfl
@[simp] theorem State.bumpSat_ecc (s : State) (f : Fld) (i : Nat) : (s.bumpSat f i).ecc = s.ecc := rfl
@[simp] theorem State.bumpSat_reports (s : State) (f : Fld) (i : Nat) : (s.bumpSat f i).reports = s.reports := rfl
@[simp] theorem State.bumpSat_resp (s : State) (f : Fld) (i : Nat) : (s.bumpSat f i).resp = s.resp := rfl
@[simp] theorem State.bumpSat_sent (s : State) (f : Fld) (i : Nat) : (s.bumpSat f i).sent = s.sent := rfl
@[simp] theorem State.bumpSat_freeCtr (s : State) (f : Fld) (i : Nat) : (s.bumpSat f i).freeCtr = s.freeCtr := rfl
@[simp] theorem State.bumpSat_sys (s : State) (f : Fld) (i : Nat) : (s.bumpSat f i).sys = s.sys := rfl
@[simp] theorem State.bumpSat_jny (s : State) (f : Fld) (i : Nat) : (s.bumpSat f i).jny = s.jny := rfl
@[simp] theorem State.bumpSat_acq (s : State) (f : Fld) (i : Nat) : (s.bumpSat f i).acq = s.acq := rfl
@[simp] theorem State.bumpSat_frg (s : State) (f : Fld) (i : Nat) : (s.bumpSat f i).frg = s.frg := rfl
@[simp] theorem State.bumpSat_clf (s : State) (f : Fld) (i : Nat) : (s.bumpSat f i).clf = s.clf := rfl
@[simp] theorem State.bumpSat_trs (s : State) (f : Fld) (i : Nat) : (s.bumpSat f i).trs = s.trs := rfl
@[simp] theorem State.bumpSat_blw (s : State) (f : Fld) (i : Nat) : (s.bumpSat f i).blw = s.blw := rfl
@[simp] theorem State.bumpSat_asy (s : State) (f : Fld) (i : Nat) : (s.bumpSat f i).asy = s.asy := rfl
@[simp] theorem State.bumpSat_mrt (s : State) (f : Fld) (i : Nat) : (s.bumpSat f i).mrt = s.mrt := rfl
@[simp] theorem State.bumpSat_peg (s : State) (f : Fld) (i : Nat) : (s.bumpSat f i).peg = s.peg := rfl
@[simp] theorem State.bumpSat_pnt (s : State) (f : Fld) (i : Nat) : (s.bumpSat f i).pnt = s.pnt := rfl
@[simp] theorem State.bumpSat_net (s : State) (f : Fld) (i : Nat) : (s.bumpSat f i).net = s.net := rfl
@[simp] theorem State.bumpSat_can (s : State) (f : Fld) (i : Nat) : (s.bumpSat f i).can = s.can := rfl
@[simp] theorem State.bumpSat_fdl (s : State) (f : Fld) (i : Nat) : (s.bumpSat f i).fdl = s.fdl := rfl
@[simp] theorem State.bumpSat_est (s : State) (f : Fld) (i : Nat) : (s.bumpSat f i).est = s.est := rfl
@[simp] theorem State.bumpSat_emb (s : State) (f : Fld) (i : Nat) : (s.bumpSat f i).emb = s.emb := rfl
@[simp] theorem State.bumpSat_cof (s : State) (f : Fld) (i : Nat) : (s.bumpSat f i).cof = s.cof := rfl
@[simp] theorem State.bumpSat_scb (s : State) (f : Fld) (i : Nat) : (s.bumpSat f i).scb = s.scb := rfl
@[simp] theorem State.bumpSat_pwr (s : State) (f : Fld) (i : Nat) : (s.bumpSat f i).pwr = s.pwr := rfl
@[simp] theorem State.bumpSat_byte (s : State) (f : Fld) (i : Nat) (x : Nat) : (s.bumpSat f i).byte x = s.byte x := rfl

/-! ### bumpWrap changes regs -/

@[simp] theorem State.bumpWrap_pending (s : State) (f : Fld) (i : Nat) : (s.bumpWrap f i).pending = s.pending := rfl
@[simp] theorem State.bumpWrap_mem (s : State) (f : Fld) (i : Nat) : (s.bumpWrap f i).mem = s.mem := rfl
@[simp] theorem State.bumpWrap_ecc (s : State) (f : Fld) (i : Nat) : (s.bumpWrap f i).ecc = s.ecc := rfl
@[simp] theorem State.bumpWrap_reports (s : State) (f : Fld) (i : Nat) : (s.bumpWrap f i).reports = s.reports := rfl
@[simp] theorem State.bumpWrap_resp (s : State) (f : Fld) (i : Nat) : (s.bumpWrap f i).resp = s.resp := rfl
@[simp] theorem State.bumpWrap_sent (s : State) (f : Fld) (i : Nat) : (s.bumpWrap f i).sent = s.sent := rfl
@[simp] theorem State.bumpWrap_freeCtr (s : State) (f : Fld) (i : Nat) : (s.bumpWrap f i).freeCtr = s.freeCtr := rfl
@[simp] theorem State.bumpWrap_sys (s : State) (f : Fld) (i : Nat) : (s.bumpWrap f i).sys = s.sys := rfl
@[simp] theorem State.bumpWrap_jny (s : State) (f : Fld) (i : Nat) : (s.bumpWrap f i).jny = s.jny := rfl
@[simp] theorem State.bumpWrap_acq (s : State) (f : Fld) (i : Nat) : (s.bumpWrap f i).acq = s.acq := rfl
@[simp] theorem State.bumpWrap_frg (s : State) (f : Fld) (i : Nat) : (s.bumpWrap f i).frg = s.frg := rfl
@[simp] theorem State.bumpWrap_clf (s : State) (f : Fld) (i : Nat) : (s.bumpWrap f i).clf = s.clf := rfl
@[simp] theorem State.bumpWrap_trs (s : State) (f : Fld) (i : Nat) : (s.bumpWrap f i).trs = s.trs := rfl
@[simp] theorem State.bumpWrap_blw (s : State) (f : Fld) (i : Nat) : (s.bumpWrap f i).blw = s.blw := rfl
@[simp] theorem State.bumpWrap_asy (s : State) (f : Fld) (i : Nat) : (s.bumpWrap f i).asy = s.asy := rfl
@[simp] theorem State.bumpWrap_mrt (s : State) (f : Fld) (i : Nat) : (s.bumpWrap f i).mrt = s.mrt := rfl
@[simp] theorem State.bumpWrap_peg (s : State) (f : Fld) (i : Nat) : (s.bumpWrap f i).peg = s.peg := rfl
@[simp] theorem State.bumpWrap_pnt (s : State) (f : Fld) (i : Nat) : (s.bumpWrap f i).pnt = s.pnt := rfl
@[simp] theorem State.bumpWrap_net (s : State) (f : Fld) (i : Nat) : (s.bumpWrap f i).net = s.net := rfl
@[simp] theorem State.bumpWrap_can (s : State) (f : Fld) (i : Nat) : (s.bumpWrap f i).can = s.can := rfl
@[simp] theorem State.bumpWrap_fdl (s : State) (f : Fld) (i : Nat) : (s.bumpWrap f i).fdl = s.fdl := rfl
@[simp] theorem State.bumpWrap_est (s : State) (f : Fld) (i : Nat) : (s.bumpWrap f i).est = s.est := rfl
@[simp] theorem State.bumpWrap_emb (s : State) (f : Fld) (i : Nat) : (s.bumpWrap f i).emb = s.emb := rfl
@[simp] theorem State.bumpWrap_cof (s : State) (f : Fld) (i : Nat) : (s.bumpWrap f i).cof = s.cof := rfl
@[simp] theorem State.bumpWrap_scb (s : State) (f : Fld) (i : Nat) : (s.bumpWrap f i).scb = s.scb := rfl
@[simp] theorem State.bumpWrap_pwr (s : State) (f : Fld) (i : Nat) : (s.bumpWrap f i).pwr = s.pwr := rfl
@[simp] theorem State.bumpWrap_byte (s : State) (f : Fld) (i : Nat) (x : Nat) : (s.bumpWrap f i).byte x = s.byte x := rfl

/-! ### setPair changes regs -/

@[simp] theorem State.setPair_pending (s : State) (a b : Reg) (i n : Nat) : (s.setPair a b i n).pending = s.pending := rfl
@[simp] theorem State.setPair_mem (s : State) (a b : Reg) (i n : Nat) : (s.setPair a b i n).mem = s.mem := rfl
@[simp] theorem State.setPair_ecc (s : State) (a b : Reg) (i n : Nat) : (s.setPair a b i n).ecc = s.ecc := rfl
@[simp] theorem State.setPair_reports (s : State) (a b : Reg) (i n : Nat) : (s.setPair a b i n).reports = s.reports := rfl
@[simp] theorem State.setPair_resp (s : State) (a b : Reg) (i n : Nat) : (s.setPair a b i n).resp = s.resp := rfl
@[simp] theorem State.setPair_sent (s : State) (a b : Reg) (i n : Nat) : (s.setPair a b i n).sent = s.sent := rfl
@[simp] theorem State.setPair_freeCtr (s : State) (a b : Reg) (i n : Nat) : (s.setPair a b i n).freeCtr = s.freeCtr := rfl
@[simp] theorem State.setPair_sys (s : State) (a b : Reg) (i n : Nat) : (s.setPair a b i n).sys = s.sys := rfl
@[simp] theorem State.setPair_jny (s : State) (a b : Reg) (i n : Nat) : (s.setPair a b i n).jny = s.jny := rfl
@[simp] theorem State.setPair_acq (s : State) (a b : Reg) (i n : Nat) : (s.setPair a b i n).acq = s.acq := rfl
@[simp] theorem State.setPair_frg (s : State) (a b : Reg) (i n : Nat) : (s.setPair a b i n).frg = s.frg := rfl
@[simp] theorem State.setPair_clf (s : State) (a b : Reg) (i n : Nat) : (s.setPair a b i n).clf = s.clf := rfl
@[simp] theorem State.setPair_trs (s : State) (a b : Reg) (i n : Nat) : (s.setPair a b i n).trs = s.trs := rfl
@[simp] theorem State.setPair_blw (s : State) (a b : Reg) (i n : Nat) : (s.setPair a b i n).blw = s.blw := rfl
@[simp] theorem State.setPair_asy (s : State) (a b : Reg) (i n : Nat) : (s.setPair a b i n).asy = s.asy := rfl
@[simp] theorem State.setPair_mrt (s : State) (a b : Reg) (i n : Nat) : (s.setPair a b i n).mrt = s.mrt := rfl
@[simp] theorem State.setPair_peg (s : State) (a b : Reg) (i n : Nat) : (s.setPair a b i n).peg = s.peg := rfl
@[simp] theorem State.setPair_pnt (s : State) (a b : Reg) (i n : Nat) : (s.setPair a b i n).pnt = s.pnt := rfl
@[simp] theorem State.setPair_net (s : State) (a b : Reg) (i n : Nat) : (s.setPair a b i n).net = s.net := rfl
@[simp] theorem State.setPair_can (s : State) (a b : Reg) (i n : Nat) : (s.setPair a b i n).can = s.can := rfl
@[simp] theorem State.setPair_fdl (s : State) (a b : Reg) (i n : Nat) : (s.setPair a b i n).fdl = s.fdl := rfl
@[simp] theorem State.setPair_est (s : State) (a b : Reg) (i n : Nat) : (s.setPair a b i n).est = s.est := rfl
@[simp] theorem State.setPair_emb (s : State) (a b : Reg) (i n : Nat) : (s.setPair a b i n).emb = s.emb := rfl
@[simp] theorem State.setPair_cof (s : State) (a b : Reg) (i n : Nat) : (s.setPair a b i n).cof = s.cof := rfl
@[simp] theorem State.setPair_scb (s : State) (a b : Reg) (i n : Nat) : (s.setPair a b i n).scb = s.scb := rfl
@[simp] theorem State.setPair_pwr (s : State) (a b : Reg) (i n : Nat) : (s.setPair a b i n).pwr = s.pwr := rfl
@[simp] theorem State.setPair_byte (s : State) (a b : Reg) (i n : Nat) (x : Nat) : (s.setPair a b i n).byte x = s.byte x := rfl

/-! ### dropRegs changes regs -/

@[simp] theorem State.dropRegs_pending (s : State) (ds : List Dom) : (s.dropRegs ds).pending = s.pending := rfl
@[simp] theorem State.dropRegs_mem (s : State) (ds : List Dom) : (s.dropRegs ds).mem = s.mem := rfl
@[simp] theorem State.dropRegs_ecc (s : State) (ds : List Dom) : (s.dropRegs ds).ecc = s.ecc := rfl
@[simp] theorem State.dropRegs_reports (s : State) (ds : List Dom) : (s.dropRegs ds).reports = s.reports := rfl
@[simp] theorem State.dropRegs_resp (s : State) (ds : List Dom) : (s.dropRegs ds).resp = s.resp := rfl
@[simp] theorem State.dropRegs_sent (s : State) (ds : List Dom) : (s.dropRegs ds).sent = s.sent := rfl
@[simp] theorem State.dropRegs_freeCtr (s : State) (ds : List Dom) : (s.dropRegs ds).freeCtr = s.freeCtr := rfl
@[simp] theorem State.dropRegs_sys (s : State) (ds : List Dom) : (s.dropRegs ds).sys = s.sys := rfl
@[simp] theorem State.dropRegs_jny (s : State) (ds : List Dom) : (s.dropRegs ds).jny = s.jny := rfl
@[simp] theorem State.dropRegs_acq (s : State) (ds : List Dom) : (s.dropRegs ds).acq = s.acq := rfl
@[simp] theorem State.dropRegs_frg (s : State) (ds : List Dom) : (s.dropRegs ds).frg = s.frg := rfl
@[simp] theorem State.dropRegs_clf (s : State) (ds : List Dom) : (s.dropRegs ds).clf = s.clf := rfl
@[simp] theorem State.dropRegs_trs (s : State) (ds : List Dom) : (s.dropRegs ds).trs = s.trs := rfl
@[simp] theorem State.dropRegs_blw (s : State) (ds : List Dom) : (s.dropRegs ds).blw = s.blw := rfl
@[simp] theorem State.dropRegs_asy (s : State) (ds : List Dom) : (s.dropRegs ds).asy = s.asy := rfl
@[simp] theorem State.dropRegs_mrt (s : State) (ds : List Dom) : (s.dropRegs ds).mrt = s.mrt := rfl
@[simp] theorem State.dropRegs_peg (s : State) (ds : List Dom) : (s.dropRegs ds).peg = s.peg := rfl
@[simp] theorem State.dropRegs_pnt (s : State) (ds : List Dom) : (s.dropRegs ds).pnt = s.pnt := rfl
@[simp] theorem State.dropRegs_net (s : State) (ds : List Dom) : (s.dropRegs ds).net = s.net := rfl
@[simp] theorem State.dropRegs_can (s : State) (ds : List Dom) : (s.dropRegs ds).can = s.can := rfl
@[simp] theorem State.dropRegs_fdl (s : State) (ds : List Dom) : (s.dropRegs ds).fdl = s.fdl := rfl
@[simp] theorem State.dropRegs_est (s : State) (ds : List Dom) : (s.dropRegs ds).est = s.est := rfl
@[simp] theorem State.dropRegs_emb (s : State) (ds : List Dom) : (s.dropRegs ds).emb = s.emb := rfl
@[simp] theorem State.dropRegs_cof (s : State) (ds : List Dom) : (s.dropRegs ds).cof = s.cof := rfl
@[simp] theorem State.dropRegs_scb (s : State) (ds : List Dom) : (s.dropRegs ds).scb = s.scb := rfl
@[simp] theorem State.dropRegs_pwr (s : State) (ds : List Dom) : (s.dropRegs ds).pwr = s.pwr := rfl
@[simp] theorem State.dropRegs_byte (s : State) (ds : List Dom) (x : Nat) : (s.dropRegs ds).byte x = s.byte x := rfl

/-! ### setByte changes mem ecc -/

@[simp] theorem State.setByte_pending (s : State) (a : Nat) (v : Byte) : (s.setByte a v).pending = s.pending := rfl
@[simp] theorem State.setByte_regs (s : State) (a : Nat) (v : Byte) : (s.setByte a v).regs = s.regs := rfl
@[simp] theorem State.setByte_reports (s : State) (a : Nat) (v : Byte) : (s.setByte a v).reports = s.reports := rfl
@[simp] theorem State.setByte_resp (s : State) (a : Nat) (v : Byte) : (s.setByte a v).resp = s.resp := rfl
@[simp] theorem State.setByte_sent (s : State) (a : Nat) (v : Byte) : (s.setByte a v).sent = s.sent := rfl
@[simp] theorem State.setByte_freeCtr (s : State) (a : Nat) (v : Byte) : (s.setByte a v).freeCtr = s.freeCtr := rfl
@[simp] theorem State.setByte_sys (s : State) (a : Nat) (v : Byte) : (s.setByte a v).sys = s.sys := rfl
@[simp] theorem State.setByte_jny (s : State) (a : Nat) (v : Byte) : (s.setByte a v).jny = s.jny := rfl
@[simp] theorem State.setByte_acq (s : State) (a : Nat) (v : Byte) : (s.setByte a v).acq = s.acq := rfl
@[simp] theorem State.setByte_frg (s : State) (a : Nat) (v : Byte) : (s.setByte a v).frg = s.frg := rfl
@[simp] theorem State.setByte_clf (s : State) (a : Nat) (v : Byte) : (s.setByte a v).clf = s.clf := rfl
@[simp] theorem State.setByte_trs (s : State) (a : Nat) (v : Byte) : (s.setByte a v).trs = s.trs := rfl
@[simp] theorem State.setByte_blw (s : State) (a : Nat) (v : Byte) : (s.setByte a v).blw = s.blw := rfl
@[simp] theorem State.setByte_asy (s : State) (a : Nat) (v : Byte) : (s.setByte a v).asy = s.asy := rfl
@[simp] theorem State.setByte_mrt (s : State) (a : Nat) (v : Byte) : (s.setByte a v).mrt = s.mrt := rfl
@[simp] theorem State.setByte_peg (s : State) (a : Nat) (v : Byte) : (s.setByte a v).peg = s.peg := rfl
@[simp] theorem State.setByte_pnt (s : State) (a : Nat) (v : Byte) : (s.setByte a v).pnt = s.pnt := rfl
@[simp] theorem State.setByte_net (s : State) (a : Nat) (v : Byte) : (s.setByte a v).net = s.net := rfl
@[simp] theorem State.setByte_can (s : State) (a : Nat) (v : Byte) : (s.setByte a v).can = s.can := rfl
@[simp] theorem State.setByte_fdl (s : State) (a : Nat) (v : Byte) : (s.setByte a v).fdl = s.fdl := rfl
@[simp] theorem State.setByte_est (s : State) (a : Nat) (v : Byte) : (s.setByte a v).est = s.est := rfl
@[simp] theorem State.setByte_emb (s : State) (a : Nat) (v : Byte) : (s.setByte a v).emb = s.emb := rfl
@[simp] theorem State.setByte_cof (s : State) (a : Nat) (v : Byte) : (s.setByte a v).cof = s.cof := rfl
@[simp] theorem State.setByte_scb (s : State) (a : Nat) (v : Byte) : (s.setByte a v).scb = s.scb := rfl
@[simp] theorem State.setByte_pwr (s : State) (a : Nat) (v : Byte) : (s.setByte a v).pwr = s.pwr := rfl
@[simp] theorem State.setByte_reg (s : State) (a : Nat) (v : Byte) (r' : Reg) (j : Nat) : (s.setByte a v).reg r' j = s.reg r' j := rfl
@[simp] theorem State.setByte_fld (s : State) (a : Nat) (v : Byte) (g : Fld) (j : Nat) : (s.setByte a v).fld g j = s.fld g j := rfl
@[simp] theorem State.setByte_flag (s : State) (a : Nat) (v : Byte) (g : Fld) (j : Nat) : (s.setByte a v).flag g j = s.flag g j := rfl

/-! ### report changes reports -/

@[simp] theorem State.report_pending (s : State) (c n : Nat) : (s.report c n).pending = s.pending := rfl
@[simp] theorem State.report_regs (s : State) (c n : Nat) : (s.report c n).regs = s.regs := rfl
@[simp] theorem State.report_mem (s : State) (c n : Nat) : (s.report c n).mem = s.mem := rfl
@[simp] theorem State.report_ecc (s : State) (c n : Nat) : (s.report c n).ecc = s.ecc := rfl
@[simp] theorem State.report_resp (s : State) (c n : Nat) : (s.report c n).resp = s.resp := rfl
@[simp] theorem State.report_sent (s : State) (c n : Nat) : (s.report c n).sent = s.sent := rfl
@[simp] theorem State.report_freeCtr (s : State) (c n : Nat) : (s.report c n).freeCtr = s.freeCtr := rfl
@[simp] theorem State.report_sys (s : State) (c n : Nat) : (s.report c n).sys = s.sys := rfl
@[simp] theorem State.report_jny (s : State) (c n : Nat) : (s.report c n).jny = s.jny := rfl
@[simp] theorem State.report_acq (s : State) (c n : Nat) : (s.report c n).acq = s.acq := rfl
@[simp] theorem State.report_frg (s : State) (c n : Nat) : (s.report c n).frg = s.frg := rfl
@[simp] theorem State.report_clf (s : State) (c n : Nat) : (s.report c n).clf = s.clf := rfl
@[simp] theorem State.report_trs (s : State) (c n : Nat) : (s.report c n).trs = s.trs := rfl
@[simp] theorem State.report_blw (s : State) (c n : Nat) : (s.report c n).blw = s.blw := rfl
@[simp] theorem State.report_asy (s : State) (c n : Nat) : (s.report c n).asy = s.asy := rfl
@[simp] theorem State.report_mrt (s : State) (c n : Nat) : (s.report c n).mrt = s.mrt := rfl
@[simp] theorem State.report_peg (s : State) (c n : Nat) : (s.report c n).peg = s.peg := rfl
@[simp] theorem State.report_pnt (s : State) (c n : Nat) : (s.report c n).pnt = s.pnt := rfl
@[simp] theorem State.report_net (s : State) (c n : Nat) : (s.report c n).net = s.net := rfl
@[simp] theorem State.report_can (s : State) (c n : Nat) : (s.report c n).can = s.can := rfl
@[simp] theorem State.report_fdl (s : State) (c n : Nat) : (s.report c n).fdl = s.fdl := rfl
@[simp] theorem State.report_est (s : State) (c n : Nat) : (s.report c n).est = s.est := rfl
@[simp] theorem State.report_emb (s : State) (c n : Nat) : (s.report c n).emb = s.emb := rfl
@[simp] theorem State.report_cof (s : State) (c n : Nat) : (s.report c n).cof = s.cof := rfl
@[simp] theorem State.report_scb (s : State) (c n : Nat) : (s.report c n).scb = s.scb := rfl
@[simp] theorem State.report_pwr (s : State) (c n : Nat) : (s.report c n).pwr = s.pwr := rfl
@[simp] theorem State.report_reg (s : State) (c n : Nat) (r' : Reg) (j : Nat) : (s.report c n).reg r' j = s.reg r' j := rfl
@[simp] theorem State.report_fld (s : State) (c n : Nat) (g : Fld) (j : Nat) : (s.report c n).fld g j = s.fld g j := rfl
@[simp] theorem State.report_flag (s : State) (c n : Nat) (g : Fld) (j : Nat) : (s.report c n).flag g j = s.flag g j := rfl
@[simp] theorem State.report_byte (s : State) (c n : Nat) (x : Nat) : (s.report c n).byte x = s.byte x := rfl

/-! ### send changes sent -/

@[simp] theorem State.send_pending (s : State) (v : Channel) (d : Nat) (b : List Byte) : (s.send v d b).pending = s.pending := rfl
@[simp] theorem State.send_regs (s : State) (v : Channel) (d : Nat) (b : List Byte) : (s.send v d b).regs = s.regs := rfl
@[simp] theorem State.send_mem (s : State) (v : Channel) (d : Nat) (b : List Byte) : (s.send v d b).mem = s.mem := rfl
@[simp] theorem State.send_ecc (s : State) (v : Channel) (d : Nat) (b : List Byte) : (s.send v d b).ecc = s.ecc := rfl
@[simp] theorem State.send_reports (s : State) (v : Channel) (d : Nat) (b : List Byte) : (s.send v d b).reports = s.reports := rfl
@[simp] theorem State.send_resp (s : State) (v : Channel) (d : Nat) (b : List Byte) : (s.send v d b).resp = s.resp := rfl
@[simp] theorem State.send_freeCtr (s : State) (v : Channel) (d : Nat) (b : List Byte) : (s.send v d b).freeCtr = s.freeCtr := rfl
@[simp] theorem State.send_sys (s : State) (v : Channel) (d : Nat) (b : List Byte) : (s.send v d b).sys = s.sys := rfl
@[simp] theorem State.send_jny (s : State) (v : Channel) (d : Nat) (b : List Byte) : (s.send v d b).jny = s.jny := rfl
@[simp] theorem State.send_acq (s : State) (v : Channel) (d : Nat) (b : List Byte) : (s.send v d b).acq = s.acq := rfl
@[simp] theorem State.send_frg (s : State) (v : Channel) (d : Nat) (b : List Byte) : (s.send v d b).frg = s.frg := rfl
@[simp] theorem State.send_clf (s : State) (v : Channel) (d : Nat) (b : List Byte) : (s.send v d b).clf = s.clf := rfl
@[simp] theorem State.send_trs (s : State) (v : Channel) (d : Nat) (b : List Byte) : (s.send v d b).trs = s.trs := rfl
@[simp] theorem State.send_blw (s : State) (v : Channel) (d : Nat) (b : List Byte) : (s.send v d b).blw = s.blw := rfl
@[simp] theorem State.send_asy (s : State) (v : Channel) (d : Nat) (b : List Byte) : (s.send v d b).asy = s.asy := rfl
@[simp] theorem State.send_mrt (s : State) (v : Channel) (d : Nat) (b : List Byte) : (s.send v d b).mrt = s.mrt := rfl
@[simp] theorem State.send_peg (s : State) (v : Channel) (d : Nat) (b : List Byte) : (s.send v d b).peg = s.peg := rfl
@[simp] theorem State.send_pnt (s : State) (v : Channel) (d : Nat) (b : List Byte) : (s.send v d b).pnt = s.pnt := rfl
@[simp] theorem State.send_net (s : State) (v : Channel) (d : Nat) (b : List Byte) : (s.send v d b).net = s.net := rfl
@[simp] theorem State.send_can (s : State) (v : Channel) (d : Nat) (b : List Byte) : (s.send v d b).can = s.can := rfl
@[simp] theorem State.send_fdl (s : State) (v : Channel) (d : Nat) (b : List Byte) : (s.send v d b).fdl = s.fdl := rfl
@[simp] theorem State.send_est (s : State) (v : Channel) (d : Nat) (b : List Byte) : (s.send v d b).est = s.est := rfl
@[simp] theorem State.send_emb (s : State) (v : Channel) (d : Nat) (b : List Byte) : (s.send v d b).emb = s.emb := rfl
@[simp] theorem State.send_cof (s : State) (v : Channel) (d : Nat) (b : List Byte) : (s.send v d b).cof = s.cof := rfl
@[simp] theorem State.send_scb (s : State) (v : Channel) (d : Nat) (b : List Byte) : (s.send v d b).scb = s.scb := rfl
@[simp] theorem State.send_pwr (s : State) (v : Channel) (d : Nat) (b : List Byte) : (s.send v d b).pwr = s.pwr := rfl
@[simp] theorem State.send_reg (s : State) (v : Channel) (d : Nat) (b : List Byte) (r' : Reg) (j : Nat) : (s.send v d b).reg r' j = s.reg r' j := rfl
@[simp] theorem State.send_fld (s : State) (v : Channel) (d : Nat) (b : List Byte) (g : Fld) (j : Nat) : (s.send v d b).fld g j = s.fld g j := rfl
@[simp] theorem State.send_flag (s : State) (v : Channel) (d : Nat) (b : List Byte) (g : Fld) (j : Nat) : (s.send v d b).flag g j = s.flag g j := rfl
@[simp] theorem State.send_byte (s : State) (v : Channel) (d : Nat) (b : List Byte) (x : Nat) : (s.send v d b).byte x = s.byte x := rfl

/-! ### tick changes freeCtr -/

@[simp] theorem State.tick_pending (s : State) : (s.tick).pending = s.pending := rfl
@[simp] theorem State.tick_regs (s : State) : (s.tick).regs = s.regs := rfl
@[simp] theorem State.tick_mem (s : State) : (s.tick).mem = s.mem := rfl
@[simp] theorem State.tick_ecc (s : State) : (s.tick).ecc = s.ecc := rfl
@[simp] theorem State.tick_reports (s : State) : (s.tick).reports = s.reports := rfl
@[simp] theorem State.tick_resp (s : State) : (s.tick).resp = s.resp := rfl
@[simp] theorem State.tick_sent (s : State) : (s.tick).sent = s.sent := rfl
@[simp] theorem State.tick_sys (s : State) : (s.tick).sys = s.sys := rfl
@[simp] theorem State.tick_jny (s : State) : (s.tick).jny = s.jny := rfl
@[simp] theorem State.tick_acq (s : State) : (s.tick).acq = s.acq := rfl
@[simp] theorem State.tick_frg (s : State) : (s.tick).frg = s.frg := rfl
@[simp] theorem State.tick_clf (s : State) : (s.tick).clf = s.clf := rfl
@[simp] theorem State.tick_trs (s : State) : (s.tick).trs = s.trs := rfl
@[simp] theorem State.tick_blw (s : State) : (s.tick).blw = s.blw := rfl
@[simp] theorem State.tick_asy (s : State) : (s.tick).asy = s.asy := rfl
@[simp] theorem State.tick_mrt (s : State) : (s.tick).mrt = s.mrt := rfl
@[simp] theorem State.tick_peg (s : State) : (s.tick).peg = s.peg := rfl
@[simp] theorem State.tick_pnt (s : State) : (s.tick).pnt = s.pnt := rfl
@[simp] theorem State.tick_net (s : State) : (s.tick).net = s.net := rfl
@[simp] theorem State.tick_can (s : State) : (s.tick).can = s.can := rfl
@[simp] theorem State.tick_fdl (s : State) : (s.tick).fdl = s.fdl := rfl
@[simp] theorem State.tick_est (s : State) : (s.tick).est = s.est := rfl
@[simp] theorem State.tick_emb (s : State) : (s.tick).emb = s.emb := rfl
@[simp] theorem State.tick_cof (s : State) : (s.tick).cof = s.cof := rfl
@[simp] theorem State.tick_scb (s : State) : (s.tick).scb = s.scb := rfl
@[simp] theorem State.tick_pwr (s : State) : (s.tick).pwr = s.pwr := rfl
@[simp] theorem State.tick_reg (s : State) (r' : Reg) (j : Nat) : (s.tick).reg r' j = s.reg r' j := rfl
@[simp] theorem State.tick_fld (s : State) (g : Fld) (j : Nat) : (s.tick).fld g j = s.fld g j := rfl
@[simp] theorem State.tick_flag (s : State) (g : Fld) (j : Nat) : (s.tick).flag g j = s.flag g j := rfl
@[simp] theorem State.tick_byte (s : State) (x : Nat) : (s.tick).byte x = s.byte x := rfl

/-! ### count changes scb -/

@[simp] theorem State.count_pending (s : State) (b k n : Nat) : (s.count b k n).pending = s.pending := rfl
@[simp] theorem State.count_regs (s : State) (b k n : Nat) : (s.count b k n).regs = s.regs := rfl
@[simp] theorem State.count_mem (s : State) (b k n : Nat) : (s.count b k n).mem = s.mem := rfl
@[simp] theorem State.count_ecc (s : State) (b k n : Nat) : (s.count b k n).ecc = s.ecc := rfl
@[simp] theorem State.count_reports (s : State) (b k n : Nat) : (s.count b k n).reports = s.reports := rfl
@[simp] theorem State.count_resp (s : State) (b k n : Nat) : (s.count b k n).resp = s.resp := rfl
@[simp] theorem State.count_sent (s : State) (b k n : Nat) : (s.count b k n).sent = s.sent := rfl
@[simp] theorem State.count_freeCtr (s : State) (b k n : Nat) : (s.count b k n).freeCtr = s.freeCtr := rfl
@[simp] theorem State.count_sys (s : State) (b k n : Nat) : (s.count b k n).sys = s.sys := rfl
@[simp] theorem State.count_jny (s : State) (b k n : Nat) : (s.count b k n).jny = s.jny := rfl
@[simp] theorem State.count_acq (s : State) (b k n : Nat) : (s.count b k n).acq = s.acq := rfl
@[simp] theorem State.count_frg (s : State) (b k n : Nat) : (s.count b k n).frg = s.frg := rfl
@[simp] theorem State.count_clf (s : State) (b k n : Nat) : (s.count b k n).clf = s.clf := rfl
@[simp] theorem State.count_trs (s : State) (b k n : Nat) : (s.count b k n).trs = s.trs := rfl
@[simp] theorem State.count_blw (s : State) (b k n : Nat) : (s.count b k n).blw = s.blw := rfl
@[simp] theorem State.count_asy (s : State) (b k n : Nat) : (s.count b k n).asy = s.asy := rfl
@[simp] theorem State.count_mrt (s : State) (b k n : Nat) : (s.count b k n).mrt = s.mrt := rfl
@[simp] theorem State.count_peg (s : State) (b k n : Nat) : (s.count b k n).peg = s.peg := rfl
@[simp] theorem State.count_pnt (s : State) (b k n : Nat) : (s.count b k n).pnt = s.pnt := rfl
@[simp] theorem State.count_net (s : State) (b k n : Nat) : (s.count b k n).net = s.net := rfl
@[simp] theorem State.count_can (s : State) (b k n : Nat) : (s.count b k n).can = s.can := rfl
@[simp] theorem State.count_fdl (s : State) (b k n : Nat) : (s.count b k n).fdl = s.fdl := rfl
@[simp] theorem State.count_est (s : State) (b k n : Nat) : (s.count b k n).est = s.est := rfl
@[simp] theorem State.count_emb (s : State) (b k n : Nat) : (s.count b k n).emb = s.emb := rfl
@[simp] theorem State.count_cof (s : State) (b k n : Nat) : (s.count b k n).cof = s.cof := rfl
@[simp] theorem State.count_pwr (s : State) (b k n : Nat) : (s.count b k n).pwr = s.pwr := rfl
@[simp] theorem State.count_reg (s : State) (b k n : Nat) (r' : Reg) (j : Nat) : (s.count b k n).reg r' j = s.reg r' j := rfl
@[simp] theorem State.count_fld (s : State) (b k n : Nat) (g : Fld) (j : Nat) : (s.count b k n).fld g j = s.fld g j := rfl
@[simp] theorem State.count_flag (s : State) (b k n : Nat) (g : Fld) (j : Nat) : (s.count b k n).flag g j = s.flag g j := rfl
@[simp] theorem State.count_byte (s : State) (b k n : Nat) (x : Nat) : (s.count b k n).byte x = s.byte x := rfl

/-! ### onSys changes sys -/

@[simp] theorem State.onSys_pending (s : State) (f : Sys → Sys) : (s.onSys f).pending = s.pending := rfl
@[simp] theorem State.onSys_regs (s : State) (f : Sys → Sys) : (s.onSys f).regs = s.regs := rfl
@[simp] theorem State.onSys_mem (s : State) (f : Sys → Sys) : (s.onSys f).mem = s.mem := rfl
@[simp] theorem State.onSys_ecc (s : State) (f : Sys → Sys) : (s.onSys f).ecc = s.ecc := rfl
@[simp] theorem State.onSys_reports (s : State) (f : Sys → Sys) : (s.onSys f).reports = s.reports := rfl
@[simp] theorem State.onSys_resp (s : State) (f : Sys → Sys) : (s.onSys f).resp = s.resp := rfl
@[simp] theorem State.onSys_sent (s : State) (f : Sys → Sys) : (s.onSys f).sent = s.sent := rfl
@[simp] theorem State.onSys_freeCtr (s : State) (f : Sys → Sys) : (s.onSys f).freeCtr = s.freeCtr := rfl
@[simp] theorem State.onSys_jny (s : State) (f : Sys → Sys) : (s.onSys f).jny = s.jny := rfl
@[simp] theorem State.onSys_acq (s : State) (f : Sys → Sys) : (s.onSys f).acq = s.acq := rfl
@[simp] theorem State.onSys_frg (s : State) (f : Sys → Sys) : (s.onSys f).frg = s.frg := rfl
@[simp] theorem State.onSys_clf (s : State) (f : Sys → Sys) : (s.onSys f).clf = s.clf := rfl
@[simp] theorem State.onSys_trs (s : State) (f : Sys → Sys) : (s.onSys f).trs = s.trs := rfl
@[simp] theorem State.onSys_blw (s : State) (f : Sys → Sys) : (s.onSys f).blw = s.blw := rfl
@[simp] theorem State.onSys_asy (s : State) (f : Sys → Sys) : (s.onSys f).asy = s.asy := rfl
@[simp] theorem State.onSys_mrt (s : State) (f : Sys → Sys) : (s.onSys f).mrt = s.mrt := rfl
@[simp] theorem State.onSys_peg (s : State) (f : Sys → Sys) : (s.onSys f).peg = s.peg := rfl
@[simp] theorem State.onSys_pnt (s : State) (f : Sys → Sys) : (s.onSys f).pnt = s.pnt := rfl
@[simp] theorem State.onSys_net (s : State) (f : Sys → Sys) : (s.onSys f).net = s.net := rfl
@[simp] theorem State.onSys_can (s : State) (f : Sys → Sys) : (s.onSys f).can = s.can := rfl
@[simp] theorem State.onSys_fdl (s : State) (f : Sys → Sys) : (s.onSys f).fdl = s.fdl := rfl
@[simp] theorem State.onSys_est (s : State) (f : Sys → Sys) : (s.onSys f).est = s.est := rfl
@[simp] theorem State.onSys_emb (s : State) (f : Sys → Sys) : (s.onSys f).emb = s.emb := rfl
@[simp] theorem State.onSys_cof (s : State) (f : Sys → Sys) : (s.onSys f).cof = s.cof := rfl
@[simp] theorem State.onSys_scb (s : State) (f : Sys → Sys) : (s.onSys f).scb = s.scb := rfl
@[simp] theorem State.onSys_pwr (s : State) (f : Sys → Sys) : (s.onSys f).pwr = s.pwr := rfl
@[simp] theorem State.onSys_reg (s : State) (f : Sys → Sys) (r' : Reg) (j : Nat) : (s.onSys f).reg r' j = s.reg r' j := rfl
@[simp] theorem State.onSys_fld (s : State) (f : Sys → Sys) (g : Fld) (j : Nat) : (s.onSys f).fld g j = s.fld g j := rfl
@[simp] theorem State.onSys_flag (s : State) (f : Sys → Sys) (g : Fld) (j : Nat) : (s.onSys f).flag g j = s.flag g j := rfl
@[simp] theorem State.onSys_byte (s : State) (f : Sys → Sys) (x : Nat) : (s.onSys f).byte x = s.byte x := rfl

/-! ### onJny changes jny -/

@[simp] theorem State.onJny_pending (s : State) (f : Jny → Jny) : (s.onJny f).pending = s.pending := rfl
@[simp] theorem State.onJny_regs (s : State) (f : Jny → Jny) : (s.onJny f).regs = s.regs := rfl
@[simp] theorem State.onJny_mem (s : State) (f : Jny → Jny) : (s.onJny f).mem = s.mem := rfl
@[simp] theorem State.onJny_ecc (s : State) (f : Jny → Jny) : (s.onJny f).ecc = s.ecc := rfl
@[simp] theorem State.onJny_reports (s : State) (f : Jny → Jny) : (s.onJny f).reports = s.reports := rfl
@[simp] theorem State.onJny_resp (s : State) (f : Jny → Jny) : (s.onJny f).resp = s.resp := rfl
@[simp] theorem State.onJny_sent (s : State) (f : Jny → Jny) : (s.onJny f).sent = s.sent := rfl
@[simp] theorem State.onJny_freeCtr (s : State) (f : Jny → Jny) : (s.onJny f).freeCtr = s.freeCtr := rfl
@[simp] theorem State.onJny_sys (s : State) (f : Jny → Jny) : (s.onJny f).sys = s.sys := rfl
@[simp] theorem State.onJny_acq (s : State) (f : Jny → Jny) : (s.onJny f).acq = s.acq := rfl
@[simp] theorem State.onJny_frg (s : State) (f : Jny → Jny) : (s.onJny f).frg = s.frg := rfl
@[simp] theorem State.onJny_clf (s : State) (f : Jny → Jny) : (s.onJny f).clf = s.clf := rfl
@[simp] theorem State.onJny_trs (s : State) (f : Jny → Jny) : (s.onJny f).trs = s.trs := rfl
@[simp] theorem State.onJny_blw (s : State) (f : Jny → Jny) : (s.onJny f).blw = s.blw := rfl
@[simp] theorem State.onJny_asy (s : State) (f : Jny → Jny) : (s.onJny f).asy = s.asy := rfl
@[simp] theorem State.onJny_mrt (s : State) (f : Jny → Jny) : (s.onJny f).mrt = s.mrt := rfl
@[simp] theorem State.onJny_peg (s : State) (f : Jny → Jny) : (s.onJny f).peg = s.peg := rfl
@[simp] theorem State.onJny_pnt (s : State) (f : Jny → Jny) : (s.onJny f).pnt = s.pnt := rfl
@[simp] theorem State.onJny_net (s : State) (f : Jny → Jny) : (s.onJny f).net = s.net := rfl
@[simp] theorem State.onJny_can (s : State) (f : Jny → Jny) : (s.onJny f).can = s.can := rfl
@[simp] theorem State.onJny_fdl (s : State) (f : Jny → Jny) : (s.onJny f).fdl = s.fdl := rfl
@[simp] theorem State.onJny_est (s : State) (f : Jny → Jny) : (s.onJny f).est = s.est := rfl
@[simp] theorem State.onJny_emb (s : State) (f : Jny → Jny) : (s.onJny f).emb = s.emb := rfl
@[simp] theorem State.onJny_cof (s : State) (f : Jny → Jny) : (s.onJny f).cof = s.cof := rfl
@[simp] theorem State.onJny_scb (s : State) (f : Jny → Jny) : (s.onJny f).scb = s.scb := rfl
@[simp] theorem State.onJny_pwr (s : State) (f : Jny → Jny) : (s.onJny f).pwr = s.pwr := rfl
@[simp] theorem State.onJny_reg (s : State) (f : Jny → Jny) (r' : Reg) (j : Nat) : (s.onJny f).reg r' j = s.reg r' j := rfl
@[simp] theorem State.onJny_fld (s : State) (f : Jny → Jny) (g : Fld) (j : Nat) : (s.onJny f).fld g j = s.fld g j := rfl
@[simp] theorem State.onJny_flag (s : State) (f : Jny → Jny) (g : Fld) (j : Nat) : (s.onJny f).flag g j = s.flag g j := rfl
@[simp] theorem State.onJny_byte (s : State) (f : Jny → Jny) (x : Nat) : (s.onJny f).byte x = s.byte x := rfl

/-! ### onConv changes acq -/

@[simp] theorem State.onConv_pending (s : State) (n : Nat) (f : Conv → Conv) : (s.onConv n f).pending = s.pending := rfl
@[simp] theorem State.onConv_regs (s : State) (n : Nat) (f : Conv → Conv) : (s.onConv n f).regs = s.regs := rfl
@[simp] theorem State.onConv_mem (s : State) (n : Nat) (f : Conv → Conv) : (s.onConv n f).mem = s.mem := rfl
@[simp] theorem State.onConv_ecc (s : State) (n : Nat) (f : Conv → Conv) : (s.onConv n f).ecc = s.ecc := rfl
@[simp] theorem State.onConv_reports (s : State) (n : Nat) (f : Conv → Conv) : (s.onConv n f).reports = s.reports := rfl
@[simp] theorem State.onConv_resp (s : State) (n : Nat) (f : Conv → Conv) : (s.onConv n f).resp = s.resp := rfl
@[simp] theorem State.onConv_sent (s : State) (n : Nat) (f : Conv → Conv) : (s.onConv n f).sent = s.sent := rfl
@[simp] theorem State.onConv_freeCtr (s : State) (n : Nat) (f : Conv → Conv) : (s.onConv n f).freeCtr = s.freeCtr := rfl
@[simp] theorem State.onConv_sys (s : State) (n : Nat) (f : Conv → Conv) : (s.onConv n f).sys = s.sys := rfl
@[simp] theorem State.onConv_jny (s : State) (n : Nat) (f : Conv → Conv) : (s.onConv n f).jny = s.jny := rfl
@[simp] theorem State.onConv_frg (s : State) (n : Nat) (f : Conv → Conv) : (s.onConv n f).frg = s.frg := rfl
@[simp] theorem State.onConv_clf (s : State) (n : Nat) (f : Conv → Conv) : (s.onConv n f).clf = s.clf := rfl
@[simp] theorem State.onConv_trs (s : State) (n : Nat) (f : Conv → Conv) : (s.onConv n f).trs = s.trs := rfl
@[simp] theorem State.onConv_blw (s : State) (n : Nat) (f : Conv → Conv) : (s.onConv n f).blw = s.blw := rfl
@[simp] theorem State.onConv_asy (s : State) (n : Nat) (f : Conv → Conv) : (s.onConv n f).asy = s.asy := rfl
@[simp] theorem State.onConv_mrt (s : State) (n : Nat) (f : Conv → Conv) : (s.onConv n f).mrt = s.mrt := rfl
@[simp] theorem State.onConv_peg (s : State) (n : Nat) (f : Conv → Conv) : (s.onConv n f).peg = s.peg := rfl
@[simp] theorem State.onConv_pnt (s : State) (n : Nat) (f : Conv → Conv) : (s.onConv n f).pnt = s.pnt := rfl
@[simp] theorem State.onConv_net (s : State) (n : Nat) (f : Conv → Conv) : (s.onConv n f).net = s.net := rfl
@[simp] theorem State.onConv_can (s : State) (n : Nat) (f : Conv → Conv) : (s.onConv n f).can = s.can := rfl
@[simp] theorem State.onConv_fdl (s : State) (n : Nat) (f : Conv → Conv) : (s.onConv n f).fdl = s.fdl := rfl
@[simp] theorem State.onConv_est (s : State) (n : Nat) (f : Conv → Conv) : (s.onConv n f).est = s.est := rfl
@[simp] theorem State.onConv_emb (s : State) (n : Nat) (f : Conv → Conv) : (s.onConv n f).emb = s.emb := rfl
@[simp] theorem State.onConv_cof (s : State) (n : Nat) (f : Conv → Conv) : (s.onConv n f).cof = s.cof := rfl
@[simp] theorem State.onConv_scb (s : State) (n : Nat) (f : Conv → Conv) : (s.onConv n f).scb = s.scb := rfl
@[simp] theorem State.onConv_pwr (s : State) (n : Nat) (f : Conv → Conv) : (s.onConv n f).pwr = s.pwr := rfl
@[simp] theorem State.onConv_reg (s : State) (n : Nat) (f : Conv → Conv) (r' : Reg) (j : Nat) : (s.onConv n f).reg r' j = s.reg r' j := rfl
@[simp] theorem State.onConv_fld (s : State) (n : Nat) (f : Conv → Conv) (g : Fld) (j : Nat) : (s.onConv n f).fld g j = s.fld g j := rfl
@[simp] theorem State.onConv_flag (s : State) (n : Nat) (f : Conv → Conv) (g : Fld) (j : Nat) : (s.onConv n f).flag g j = s.flag g j := rfl
@[simp] theorem State.onConv_byte (s : State) (n : Nat) (f : Conv → Conv) (x : Nat) : (s.onConv n f).byte x = s.byte x := rfl

/-! ### onPhase changes frg -/

@[simp] theorem State.onPhase_pending (s : State) (p : Nat) (f : Phase → Phase) : (s.onPhase p f).pending = s.pending := rfl
@[simp] theorem State.onPhase_regs (s : State) (p : Nat) (f : Phase → Phase) : (s.onPhase p f).regs = s.regs := rfl
@[simp] theorem State.onPhase_mem (s : State) (p : Nat) (f : Phase → Phase) : (s.onPhase p f).mem = s.mem := rfl
@[simp] theorem State.onPhase_ecc (s : State) (p : Nat) (f : Phase → Phase) : (s.onPhase p f).ecc = s.ecc := rfl
@[simp] theorem State.onPhase_reports (s : State) (p : Nat) (f : Phase → Phase) : (s.onPhase p f).reports = s.reports := rfl
@[simp] theorem State.onPhase_resp (s : State) (p : Nat) (f : Phase → Phase) : (s.onPhase p f).resp = s.resp := rfl
@[simp] theorem State.onPhase_sent (s : State) (p : Nat) (f : Phase → Phase) : (s.onPhase p f).sent = s.sent := rfl
@[simp] theorem State.onPhase_freeCtr (s : State) (p : Nat) (f : Phase → Phase) : (s.onPhase p f).freeCtr = s.freeCtr := rfl
@[simp] theorem State.onPhase_sys (s : State) (p : Nat) (f : Phase → Phase) : (s.onPhase p f).sys = s.sys := rfl
@[simp] theorem State.onPhase_jny (s : State) (p : Nat) (f : Phase → Phase) : (s.onPhase p f).jny = s.jny := rfl
@[simp] theorem State.onPhase_acq (s : State) (p : Nat) (f : Phase → Phase) : (s.onPhase p f).acq = s.acq := rfl
@[simp] theorem State.onPhase_clf (s : State) (p : Nat) (f : Phase → Phase) : (s.onPhase p f).clf = s.clf := rfl
@[simp] theorem State.onPhase_trs (s : State) (p : Nat) (f : Phase → Phase) : (s.onPhase p f).trs = s.trs := rfl
@[simp] theorem State.onPhase_blw (s : State) (p : Nat) (f : Phase → Phase) : (s.onPhase p f).blw = s.blw := rfl
@[simp] theorem State.onPhase_asy (s : State) (p : Nat) (f : Phase → Phase) : (s.onPhase p f).asy = s.asy := rfl
@[simp] theorem State.onPhase_mrt (s : State) (p : Nat) (f : Phase → Phase) : (s.onPhase p f).mrt = s.mrt := rfl
@[simp] theorem State.onPhase_peg (s : State) (p : Nat) (f : Phase → Phase) : (s.onPhase p f).peg = s.peg := rfl
@[simp] theorem State.onPhase_pnt (s : State) (p : Nat) (f : Phase → Phase) : (s.onPhase p f).pnt = s.pnt := rfl
@[simp] theorem State.onPhase_net (s : State) (p : Nat) (f : Phase → Phase) : (s.onPhase p f).net = s.net := rfl
@[simp] theorem State.onPhase_can (s : State) (p : Nat) (f : Phase → Phase) : (s.onPhase p f).can = s.can := rfl
@[simp] theorem State.onPhase_fdl (s : State) (p : Nat) (f : Phase → Phase) : (s.onPhase p f).fdl = s.fdl := rfl
@[simp] theorem State.onPhase_est (s : State) (p : Nat) (f : Phase → Phase) : (s.onPhase p f).est = s.est := rfl
@[simp] theorem State.onPhase_emb (s : State) (p : Nat) (f : Phase → Phase) : (s.onPhase p f).emb = s.emb := rfl
@[simp] theorem State.onPhase_cof (s : State) (p : Nat) (f : Phase → Phase) : (s.onPhase p f).cof = s.cof := rfl
@[simp] theorem State.onPhase_scb (s : State) (p : Nat) (f : Phase → Phase) : (s.onPhase p f).scb = s.scb := rfl
@[simp] theorem State.onPhase_pwr (s : State) (p : Nat) (f : Phase → Phase) : (s.onPhase p f).pwr = s.pwr := rfl
@[simp] theorem State.onPhase_reg (s : State) (p : Nat) (f : Phase → Phase) (r' : Reg) (j : Nat) : (s.onPhase p f).reg r' j = s.reg r' j := rfl
@[simp] theorem State.onPhase_fld (s : State) (p : Nat) (f : Phase → Phase) (g : Fld) (j : Nat) : (s.onPhase p f).fld g j = s.fld g j := rfl
@[simp] theorem State.onPhase_flag (s : State) (p : Nat) (f : Phase → Phase) (g : Fld) (j : Nat) : (s.onPhase p f).flag g j = s.flag g j := rfl
@[simp] theorem State.onPhase_byte (s : State) (p : Nat) (f : Phase → Phase) (x : Nat) : (s.onPhase p f).byte x = s.byte x := rfl

/-! ### onBay changes frg -/

@[simp] theorem State.onBay_pending (s : State) (b : Nat) (f : Bay → Bay) : (s.onBay b f).pending = s.pending := rfl
@[simp] theorem State.onBay_regs (s : State) (b : Nat) (f : Bay → Bay) : (s.onBay b f).regs = s.regs := rfl
@[simp] theorem State.onBay_mem (s : State) (b : Nat) (f : Bay → Bay) : (s.onBay b f).mem = s.mem := rfl
@[simp] theorem State.onBay_ecc (s : State) (b : Nat) (f : Bay → Bay) : (s.onBay b f).ecc = s.ecc := rfl
@[simp] theorem State.onBay_reports (s : State) (b : Nat) (f : Bay → Bay) : (s.onBay b f).reports = s.reports := rfl
@[simp] theorem State.onBay_resp (s : State) (b : Nat) (f : Bay → Bay) : (s.onBay b f).resp = s.resp := rfl
@[simp] theorem State.onBay_sent (s : State) (b : Nat) (f : Bay → Bay) : (s.onBay b f).sent = s.sent := rfl
@[simp] theorem State.onBay_freeCtr (s : State) (b : Nat) (f : Bay → Bay) : (s.onBay b f).freeCtr = s.freeCtr := rfl
@[simp] theorem State.onBay_sys (s : State) (b : Nat) (f : Bay → Bay) : (s.onBay b f).sys = s.sys := rfl
@[simp] theorem State.onBay_jny (s : State) (b : Nat) (f : Bay → Bay) : (s.onBay b f).jny = s.jny := rfl
@[simp] theorem State.onBay_acq (s : State) (b : Nat) (f : Bay → Bay) : (s.onBay b f).acq = s.acq := rfl
@[simp] theorem State.onBay_clf (s : State) (b : Nat) (f : Bay → Bay) : (s.onBay b f).clf = s.clf := rfl
@[simp] theorem State.onBay_trs (s : State) (b : Nat) (f : Bay → Bay) : (s.onBay b f).trs = s.trs := rfl
@[simp] theorem State.onBay_blw (s : State) (b : Nat) (f : Bay → Bay) : (s.onBay b f).blw = s.blw := rfl
@[simp] theorem State.onBay_asy (s : State) (b : Nat) (f : Bay → Bay) : (s.onBay b f).asy = s.asy := rfl
@[simp] theorem State.onBay_mrt (s : State) (b : Nat) (f : Bay → Bay) : (s.onBay b f).mrt = s.mrt := rfl
@[simp] theorem State.onBay_peg (s : State) (b : Nat) (f : Bay → Bay) : (s.onBay b f).peg = s.peg := rfl
@[simp] theorem State.onBay_pnt (s : State) (b : Nat) (f : Bay → Bay) : (s.onBay b f).pnt = s.pnt := rfl
@[simp] theorem State.onBay_net (s : State) (b : Nat) (f : Bay → Bay) : (s.onBay b f).net = s.net := rfl
@[simp] theorem State.onBay_can (s : State) (b : Nat) (f : Bay → Bay) : (s.onBay b f).can = s.can := rfl
@[simp] theorem State.onBay_fdl (s : State) (b : Nat) (f : Bay → Bay) : (s.onBay b f).fdl = s.fdl := rfl
@[simp] theorem State.onBay_est (s : State) (b : Nat) (f : Bay → Bay) : (s.onBay b f).est = s.est := rfl
@[simp] theorem State.onBay_emb (s : State) (b : Nat) (f : Bay → Bay) : (s.onBay b f).emb = s.emb := rfl
@[simp] theorem State.onBay_cof (s : State) (b : Nat) (f : Bay → Bay) : (s.onBay b f).cof = s.cof := rfl
@[simp] theorem State.onBay_scb (s : State) (b : Nat) (f : Bay → Bay) : (s.onBay b f).scb = s.scb := rfl
@[simp] theorem State.onBay_pwr (s : State) (b : Nat) (f : Bay → Bay) : (s.onBay b f).pwr = s.pwr := rfl
@[simp] theorem State.onBay_reg (s : State) (b : Nat) (f : Bay → Bay) (r' : Reg) (j : Nat) : (s.onBay b f).reg r' j = s.reg r' j := rfl
@[simp] theorem State.onBay_fld (s : State) (b : Nat) (f : Bay → Bay) (g : Fld) (j : Nat) : (s.onBay b f).fld g j = s.fld g j := rfl
@[simp] theorem State.onBay_flag (s : State) (b : Nat) (f : Bay → Bay) (g : Fld) (j : Nat) : (s.onBay b f).flag g j = s.flag g j := rfl
@[simp] theorem State.onBay_byte (s : State) (b : Nat) (f : Bay → Bay) (x : Nat) : (s.onBay b f).byte x = s.byte x := rfl

/-! ### onEng changes clf -/

@[simp] theorem State.onEng_pending (s : State) (e : Nat) (f : Engine → Engine) : (s.onEng e f).pending = s.pending := rfl
@[simp] theorem State.onEng_regs (s : State) (e : Nat) (f : Engine → Engine) : (s.onEng e f).regs = s.regs := rfl
@[simp] theorem State.onEng_mem (s : State) (e : Nat) (f : Engine → Engine) : (s.onEng e f).mem = s.mem := rfl
@[simp] theorem State.onEng_ecc (s : State) (e : Nat) (f : Engine → Engine) : (s.onEng e f).ecc = s.ecc := rfl
@[simp] theorem State.onEng_reports (s : State) (e : Nat) (f : Engine → Engine) : (s.onEng e f).reports = s.reports := rfl
@[simp] theorem State.onEng_resp (s : State) (e : Nat) (f : Engine → Engine) : (s.onEng e f).resp = s.resp := rfl
@[simp] theorem State.onEng_sent (s : State) (e : Nat) (f : Engine → Engine) : (s.onEng e f).sent = s.sent := rfl
@[simp] theorem State.onEng_freeCtr (s : State) (e : Nat) (f : Engine → Engine) : (s.onEng e f).freeCtr = s.freeCtr := rfl
@[simp] theorem State.onEng_sys (s : State) (e : Nat) (f : Engine → Engine) : (s.onEng e f).sys = s.sys := rfl
@[simp] theorem State.onEng_jny (s : State) (e : Nat) (f : Engine → Engine) : (s.onEng e f).jny = s.jny := rfl
@[simp] theorem State.onEng_acq (s : State) (e : Nat) (f : Engine → Engine) : (s.onEng e f).acq = s.acq := rfl
@[simp] theorem State.onEng_frg (s : State) (e : Nat) (f : Engine → Engine) : (s.onEng e f).frg = s.frg := rfl
@[simp] theorem State.onEng_trs (s : State) (e : Nat) (f : Engine → Engine) : (s.onEng e f).trs = s.trs := rfl
@[simp] theorem State.onEng_blw (s : State) (e : Nat) (f : Engine → Engine) : (s.onEng e f).blw = s.blw := rfl
@[simp] theorem State.onEng_asy (s : State) (e : Nat) (f : Engine → Engine) : (s.onEng e f).asy = s.asy := rfl
@[simp] theorem State.onEng_mrt (s : State) (e : Nat) (f : Engine → Engine) : (s.onEng e f).mrt = s.mrt := rfl
@[simp] theorem State.onEng_peg (s : State) (e : Nat) (f : Engine → Engine) : (s.onEng e f).peg = s.peg := rfl
@[simp] theorem State.onEng_pnt (s : State) (e : Nat) (f : Engine → Engine) : (s.onEng e f).pnt = s.pnt := rfl
@[simp] theorem State.onEng_net (s : State) (e : Nat) (f : Engine → Engine) : (s.onEng e f).net = s.net := rfl
@[simp] theorem State.onEng_can (s : State) (e : Nat) (f : Engine → Engine) : (s.onEng e f).can = s.can := rfl
@[simp] theorem State.onEng_fdl (s : State) (e : Nat) (f : Engine → Engine) : (s.onEng e f).fdl = s.fdl := rfl
@[simp] theorem State.onEng_est (s : State) (e : Nat) (f : Engine → Engine) : (s.onEng e f).est = s.est := rfl
@[simp] theorem State.onEng_emb (s : State) (e : Nat) (f : Engine → Engine) : (s.onEng e f).emb = s.emb := rfl
@[simp] theorem State.onEng_cof (s : State) (e : Nat) (f : Engine → Engine) : (s.onEng e f).cof = s.cof := rfl
@[simp] theorem State.onEng_scb (s : State) (e : Nat) (f : Engine → Engine) : (s.onEng e f).scb = s.scb := rfl
@[simp] theorem State.onEng_pwr (s : State) (e : Nat) (f : Engine → Engine) : (s.onEng e f).pwr = s.pwr := rfl
@[simp] theorem State.onEng_reg (s : State) (e : Nat) (f : Engine → Engine) (r' : Reg) (j : Nat) : (s.onEng e f).reg r' j = s.reg r' j := rfl
@[simp] theorem State.onEng_fld (s : State) (e : Nat) (f : Engine → Engine) (g : Fld) (j : Nat) : (s.onEng e f).fld g j = s.fld g j := rfl
@[simp] theorem State.onEng_flag (s : State) (e : Nat) (f : Engine → Engine) (g : Fld) (j : Nat) : (s.onEng e f).flag g j = s.flag g j := rfl
@[simp] theorem State.onEng_byte (s : State) (e : Nat) (f : Engine → Engine) (x : Nat) : (s.onEng e f).byte x = s.byte x := rfl

/-! ### onTrs changes trs -/

@[simp] theorem State.onTrs_pending (s : State) (f : Trs → Trs) : (s.onTrs f).pending = s.pending := rfl
@[simp] theorem State.onTrs_regs (s : State) (f : Trs → Trs) : (s.onTrs f).regs = s.regs := rfl
@[simp] theorem State.onTrs_mem (s : State) (f : Trs → Trs) : (s.onTrs f).mem = s.mem := rfl
@[simp] theorem State.onTrs_ecc (s : State) (f : Trs → Trs) : (s.onTrs f).ecc = s.ecc := rfl
@[simp] theorem State.onTrs_reports (s : State) (f : Trs → Trs) : (s.onTrs f).reports = s.reports := rfl
@[simp] theorem State.onTrs_resp (s : State) (f : Trs → Trs) : (s.onTrs f).resp = s.resp := rfl
@[simp] theorem State.onTrs_sent (s : State) (f : Trs → Trs) : (s.onTrs f).sent = s.sent := rfl
@[simp] theorem State.onTrs_freeCtr (s : State) (f : Trs → Trs) : (s.onTrs f).freeCtr = s.freeCtr := rfl
@[simp] theorem State.onTrs_sys (s : State) (f : Trs → Trs) : (s.onTrs f).sys = s.sys := rfl
@[simp] theorem State.onTrs_jny (s : State) (f : Trs → Trs) : (s.onTrs f).jny = s.jny := rfl
@[simp] theorem State.onTrs_acq (s : State) (f : Trs → Trs) : (s.onTrs f).acq = s.acq := rfl
@[simp] theorem State.onTrs_frg (s : State) (f : Trs → Trs) : (s.onTrs f).frg = s.frg := rfl
@[simp] theorem State.onTrs_clf (s : State) (f : Trs → Trs) : (s.onTrs f).clf = s.clf := rfl
@[simp] theorem State.onTrs_blw (s : State) (f : Trs → Trs) : (s.onTrs f).blw = s.blw := rfl
@[simp] theorem State.onTrs_asy (s : State) (f : Trs → Trs) : (s.onTrs f).asy = s.asy := rfl
@[simp] theorem State.onTrs_mrt (s : State) (f : Trs → Trs) : (s.onTrs f).mrt = s.mrt := rfl
@[simp] theorem State.onTrs_peg (s : State) (f : Trs → Trs) : (s.onTrs f).peg = s.peg := rfl
@[simp] theorem State.onTrs_pnt (s : State) (f : Trs → Trs) : (s.onTrs f).pnt = s.pnt := rfl
@[simp] theorem State.onTrs_net (s : State) (f : Trs → Trs) : (s.onTrs f).net = s.net := rfl
@[simp] theorem State.onTrs_can (s : State) (f : Trs → Trs) : (s.onTrs f).can = s.can := rfl
@[simp] theorem State.onTrs_fdl (s : State) (f : Trs → Trs) : (s.onTrs f).fdl = s.fdl := rfl
@[simp] theorem State.onTrs_est (s : State) (f : Trs → Trs) : (s.onTrs f).est = s.est := rfl
@[simp] theorem State.onTrs_emb (s : State) (f : Trs → Trs) : (s.onTrs f).emb = s.emb := rfl
@[simp] theorem State.onTrs_cof (s : State) (f : Trs → Trs) : (s.onTrs f).cof = s.cof := rfl
@[simp] theorem State.onTrs_scb (s : State) (f : Trs → Trs) : (s.onTrs f).scb = s.scb := rfl
@[simp] theorem State.onTrs_pwr (s : State) (f : Trs → Trs) : (s.onTrs f).pwr = s.pwr := rfl
@[simp] theorem State.onTrs_reg (s : State) (f : Trs → Trs) (r' : Reg) (j : Nat) : (s.onTrs f).reg r' j = s.reg r' j := rfl
@[simp] theorem State.onTrs_fld (s : State) (f : Trs → Trs) (g : Fld) (j : Nat) : (s.onTrs f).fld g j = s.fld g j := rfl
@[simp] theorem State.onTrs_flag (s : State) (f : Trs → Trs) (g : Fld) (j : Nat) : (s.onTrs f).flag g j = s.flag g j := rfl
@[simp] theorem State.onTrs_byte (s : State) (f : Trs → Trs) (x : Nat) : (s.onTrs f).byte x = s.byte x := rfl

/-! ### onBlw changes blw -/

@[simp] theorem State.onBlw_pending (s : State) (f : Blw → Blw) : (s.onBlw f).pending = s.pending := rfl
@[simp] theorem State.onBlw_regs (s : State) (f : Blw → Blw) : (s.onBlw f).regs = s.regs := rfl
@[simp] theorem State.onBlw_mem (s : State) (f : Blw → Blw) : (s.onBlw f).mem = s.mem := rfl
@[simp] theorem State.onBlw_ecc (s : State) (f : Blw → Blw) : (s.onBlw f).ecc = s.ecc := rfl
@[simp] theorem State.onBlw_reports (s : State) (f : Blw → Blw) : (s.onBlw f).reports = s.reports := rfl
@[simp] theorem State.onBlw_resp (s : State) (f : Blw → Blw) : (s.onBlw f).resp = s.resp := rfl
@[simp] theorem State.onBlw_sent (s : State) (f : Blw → Blw) : (s.onBlw f).sent = s.sent := rfl
@[simp] theorem State.onBlw_freeCtr (s : State) (f : Blw → Blw) : (s.onBlw f).freeCtr = s.freeCtr := rfl
@[simp] theorem State.onBlw_sys (s : State) (f : Blw → Blw) : (s.onBlw f).sys = s.sys := rfl
@[simp] theorem State.onBlw_jny (s : State) (f : Blw → Blw) : (s.onBlw f).jny = s.jny := rfl
@[simp] theorem State.onBlw_acq (s : State) (f : Blw → Blw) : (s.onBlw f).acq = s.acq := rfl
@[simp] theorem State.onBlw_frg (s : State) (f : Blw → Blw) : (s.onBlw f).frg = s.frg := rfl
@[simp] theorem State.onBlw_clf (s : State) (f : Blw → Blw) : (s.onBlw f).clf = s.clf := rfl
@[simp] theorem State.onBlw_trs (s : State) (f : Blw → Blw) : (s.onBlw f).trs = s.trs := rfl
@[simp] theorem State.onBlw_asy (s : State) (f : Blw → Blw) : (s.onBlw f).asy = s.asy := rfl
@[simp] theorem State.onBlw_mrt (s : State) (f : Blw → Blw) : (s.onBlw f).mrt = s.mrt := rfl
@[simp] theorem State.onBlw_peg (s : State) (f : Blw → Blw) : (s.onBlw f).peg = s.peg := rfl
@[simp] theorem State.onBlw_pnt (s : State) (f : Blw → Blw) : (s.onBlw f).pnt = s.pnt := rfl
@[simp] theorem State.onBlw_net (s : State) (f : Blw → Blw) : (s.onBlw f).net = s.net := rfl
@[simp] theorem State.onBlw_can (s : State) (f : Blw → Blw) : (s.onBlw f).can = s.can := rfl
@[simp] theorem State.onBlw_fdl (s : State) (f : Blw → Blw) : (s.onBlw f).fdl = s.fdl := rfl
@[simp] theorem State.onBlw_est (s : State) (f : Blw → Blw) : (s.onBlw f).est = s.est := rfl
@[simp] theorem State.onBlw_emb (s : State) (f : Blw → Blw) : (s.onBlw f).emb = s.emb := rfl
@[simp] theorem State.onBlw_cof (s : State) (f : Blw → Blw) : (s.onBlw f).cof = s.cof := rfl
@[simp] theorem State.onBlw_scb (s : State) (f : Blw → Blw) : (s.onBlw f).scb = s.scb := rfl
@[simp] theorem State.onBlw_pwr (s : State) (f : Blw → Blw) : (s.onBlw f).pwr = s.pwr := rfl
@[simp] theorem State.onBlw_reg (s : State) (f : Blw → Blw) (r' : Reg) (j : Nat) : (s.onBlw f).reg r' j = s.reg r' j := rfl
@[simp] theorem State.onBlw_fld (s : State) (f : Blw → Blw) (g : Fld) (j : Nat) : (s.onBlw f).fld g j = s.fld g j := rfl
@[simp] theorem State.onBlw_flag (s : State) (f : Blw → Blw) (g : Fld) (j : Nat) : (s.onBlw f).flag g j = s.flag g j := rfl
@[simp] theorem State.onBlw_byte (s : State) (f : Blw → Blw) (x : Nat) : (s.onBlw f).byte x = s.byte x := rfl

/-! ### onAsy changes asy -/

@[simp] theorem State.onAsy_pending (s : State) (f : Asy → Asy) : (s.onAsy f).pending = s.pending := rfl
@[simp] theorem State.onAsy_regs (s : State) (f : Asy → Asy) : (s.onAsy f).regs = s.regs := rfl
@[simp] theorem State.onAsy_mem (s : State) (f : Asy → Asy) : (s.onAsy f).mem = s.mem := rfl
@[simp] theorem State.onAsy_ecc (s : State) (f : Asy → Asy) : (s.onAsy f).ecc = s.ecc := rfl
@[simp] theorem State.onAsy_reports (s : State) (f : Asy → Asy) : (s.onAsy f).reports = s.reports := rfl
@[simp] theorem State.onAsy_resp (s : State) (f : Asy → Asy) : (s.onAsy f).resp = s.resp := rfl
@[simp] theorem State.onAsy_sent (s : State) (f : Asy → Asy) : (s.onAsy f).sent = s.sent := rfl
@[simp] theorem State.onAsy_freeCtr (s : State) (f : Asy → Asy) : (s.onAsy f).freeCtr = s.freeCtr := rfl
@[simp] theorem State.onAsy_sys (s : State) (f : Asy → Asy) : (s.onAsy f).sys = s.sys := rfl
@[simp] theorem State.onAsy_jny (s : State) (f : Asy → Asy) : (s.onAsy f).jny = s.jny := rfl
@[simp] theorem State.onAsy_acq (s : State) (f : Asy → Asy) : (s.onAsy f).acq = s.acq := rfl
@[simp] theorem State.onAsy_frg (s : State) (f : Asy → Asy) : (s.onAsy f).frg = s.frg := rfl
@[simp] theorem State.onAsy_clf (s : State) (f : Asy → Asy) : (s.onAsy f).clf = s.clf := rfl
@[simp] theorem State.onAsy_trs (s : State) (f : Asy → Asy) : (s.onAsy f).trs = s.trs := rfl
@[simp] theorem State.onAsy_blw (s : State) (f : Asy → Asy) : (s.onAsy f).blw = s.blw := rfl
@[simp] theorem State.onAsy_mrt (s : State) (f : Asy → Asy) : (s.onAsy f).mrt = s.mrt := rfl
@[simp] theorem State.onAsy_peg (s : State) (f : Asy → Asy) : (s.onAsy f).peg = s.peg := rfl
@[simp] theorem State.onAsy_pnt (s : State) (f : Asy → Asy) : (s.onAsy f).pnt = s.pnt := rfl
@[simp] theorem State.onAsy_net (s : State) (f : Asy → Asy) : (s.onAsy f).net = s.net := rfl
@[simp] theorem State.onAsy_can (s : State) (f : Asy → Asy) : (s.onAsy f).can = s.can := rfl
@[simp] theorem State.onAsy_fdl (s : State) (f : Asy → Asy) : (s.onAsy f).fdl = s.fdl := rfl
@[simp] theorem State.onAsy_est (s : State) (f : Asy → Asy) : (s.onAsy f).est = s.est := rfl
@[simp] theorem State.onAsy_emb (s : State) (f : Asy → Asy) : (s.onAsy f).emb = s.emb := rfl
@[simp] theorem State.onAsy_cof (s : State) (f : Asy → Asy) : (s.onAsy f).cof = s.cof := rfl
@[simp] theorem State.onAsy_scb (s : State) (f : Asy → Asy) : (s.onAsy f).scb = s.scb := rfl
@[simp] theorem State.onAsy_pwr (s : State) (f : Asy → Asy) : (s.onAsy f).pwr = s.pwr := rfl
@[simp] theorem State.onAsy_reg (s : State) (f : Asy → Asy) (r' : Reg) (j : Nat) : (s.onAsy f).reg r' j = s.reg r' j := rfl
@[simp] theorem State.onAsy_fld (s : State) (f : Asy → Asy) (g : Fld) (j : Nat) : (s.onAsy f).fld g j = s.fld g j := rfl
@[simp] theorem State.onAsy_flag (s : State) (f : Asy → Asy) (g : Fld) (j : Nat) : (s.onAsy f).flag g j = s.flag g j := rfl
@[simp] theorem State.onAsy_byte (s : State) (f : Asy → Asy) (x : Nat) : (s.onAsy f).byte x = s.byte x := rfl

/-! ### onMrt changes mrt -/

@[simp] theorem State.onMrt_pending (s : State) (f : Mrt → Mrt) : (s.onMrt f).pending = s.pending := rfl
@[simp] theorem State.onMrt_regs (s : State) (f : Mrt → Mrt) : (s.onMrt f).regs = s.regs := rfl
@[simp] theorem State.onMrt_mem (s : State) (f : Mrt → Mrt) : (s.onMrt f).mem = s.mem := rfl
@[simp] theorem State.onMrt_ecc (s : State) (f : Mrt → Mrt) : (s.onMrt f).ecc = s.ecc := rfl
@[simp] theorem State.onMrt_reports (s : State) (f : Mrt → Mrt) : (s.onMrt f).reports = s.reports := rfl
@[simp] theorem State.onMrt_resp (s : State) (f : Mrt → Mrt) : (s.onMrt f).resp = s.resp := rfl
@[simp] theorem State.onMrt_sent (s : State) (f : Mrt → Mrt) : (s.onMrt f).sent = s.sent := rfl
@[simp] theorem State.onMrt_freeCtr (s : State) (f : Mrt → Mrt) : (s.onMrt f).freeCtr = s.freeCtr := rfl
@[simp] theorem State.onMrt_sys (s : State) (f : Mrt → Mrt) : (s.onMrt f).sys = s.sys := rfl
@[simp] theorem State.onMrt_jny (s : State) (f : Mrt → Mrt) : (s.onMrt f).jny = s.jny := rfl
@[simp] theorem State.onMrt_acq (s : State) (f : Mrt → Mrt) : (s.onMrt f).acq = s.acq := rfl
@[simp] theorem State.onMrt_frg (s : State) (f : Mrt → Mrt) : (s.onMrt f).frg = s.frg := rfl
@[simp] theorem State.onMrt_clf (s : State) (f : Mrt → Mrt) : (s.onMrt f).clf = s.clf := rfl
@[simp] theorem State.onMrt_trs (s : State) (f : Mrt → Mrt) : (s.onMrt f).trs = s.trs := rfl
@[simp] theorem State.onMrt_blw (s : State) (f : Mrt → Mrt) : (s.onMrt f).blw = s.blw := rfl
@[simp] theorem State.onMrt_asy (s : State) (f : Mrt → Mrt) : (s.onMrt f).asy = s.asy := rfl
@[simp] theorem State.onMrt_peg (s : State) (f : Mrt → Mrt) : (s.onMrt f).peg = s.peg := rfl
@[simp] theorem State.onMrt_pnt (s : State) (f : Mrt → Mrt) : (s.onMrt f).pnt = s.pnt := rfl
@[simp] theorem State.onMrt_net (s : State) (f : Mrt → Mrt) : (s.onMrt f).net = s.net := rfl
@[simp] theorem State.onMrt_can (s : State) (f : Mrt → Mrt) : (s.onMrt f).can = s.can := rfl
@[simp] theorem State.onMrt_fdl (s : State) (f : Mrt → Mrt) : (s.onMrt f).fdl = s.fdl := rfl
@[simp] theorem State.onMrt_est (s : State) (f : Mrt → Mrt) : (s.onMrt f).est = s.est := rfl
@[simp] theorem State.onMrt_emb (s : State) (f : Mrt → Mrt) : (s.onMrt f).emb = s.emb := rfl
@[simp] theorem State.onMrt_cof (s : State) (f : Mrt → Mrt) : (s.onMrt f).cof = s.cof := rfl
@[simp] theorem State.onMrt_scb (s : State) (f : Mrt → Mrt) : (s.onMrt f).scb = s.scb := rfl
@[simp] theorem State.onMrt_pwr (s : State) (f : Mrt → Mrt) : (s.onMrt f).pwr = s.pwr := rfl
@[simp] theorem State.onMrt_reg (s : State) (f : Mrt → Mrt) (r' : Reg) (j : Nat) : (s.onMrt f).reg r' j = s.reg r' j := rfl
@[simp] theorem State.onMrt_fld (s : State) (f : Mrt → Mrt) (g : Fld) (j : Nat) : (s.onMrt f).fld g j = s.fld g j := rfl
@[simp] theorem State.onMrt_flag (s : State) (f : Mrt → Mrt) (g : Fld) (j : Nat) : (s.onMrt f).flag g j = s.flag g j := rfl
@[simp] theorem State.onMrt_byte (s : State) (f : Mrt → Mrt) (x : Nat) : (s.onMrt f).byte x = s.byte x := rfl

/-! ### onPeg changes peg -/

@[simp] theorem State.onPeg_pending (s : State) (f : Peg → Peg) : (s.onPeg f).pending = s.pending := rfl
@[simp] theorem State.onPeg_regs (s : State) (f : Peg → Peg) : (s.onPeg f).regs = s.regs := rfl
@[simp] theorem State.onPeg_mem (s : State) (f : Peg → Peg) : (s.onPeg f).mem = s.mem := rfl
@[simp] theorem State.onPeg_ecc (s : State) (f : Peg → Peg) : (s.onPeg f).ecc = s.ecc := rfl
@[simp] theorem State.onPeg_reports (s : State) (f : Peg → Peg) : (s.onPeg f).reports = s.reports := rfl
@[simp] theorem State.onPeg_resp (s : State) (f : Peg → Peg) : (s.onPeg f).resp = s.resp := rfl
@[simp] theorem State.onPeg_sent (s : State) (f : Peg → Peg) : (s.onPeg f).sent = s.sent := rfl
@[simp] theorem State.onPeg_freeCtr (s : State) (f : Peg → Peg) : (s.onPeg f).freeCtr = s.freeCtr := rfl
@[simp] theorem State.onPeg_sys (s : State) (f : Peg → Peg) : (s.onPeg f).sys = s.sys := rfl
@[simp] theorem State.onPeg_jny (s : State) (f : Peg → Peg) : (s.onPeg f).jny = s.jny := rfl
@[simp] theorem State.onPeg_acq (s : State) (f : Peg → Peg) : (s.onPeg f).acq = s.acq := rfl
@[simp] theorem State.onPeg_frg (s : State) (f : Peg → Peg) : (s.onPeg f).frg = s.frg := rfl
@[simp] theorem State.onPeg_clf (s : State) (f : Peg → Peg) : (s.onPeg f).clf = s.clf := rfl
@[simp] theorem State.onPeg_trs (s : State) (f : Peg → Peg) : (s.onPeg f).trs = s.trs := rfl
@[simp] theorem State.onPeg_blw (s : State) (f : Peg → Peg) : (s.onPeg f).blw = s.blw := rfl
@[simp] theorem State.onPeg_asy (s : State) (f : Peg → Peg) : (s.onPeg f).asy = s.asy := rfl
@[simp] theorem State.onPeg_mrt (s : State) (f : Peg → Peg) : (s.onPeg f).mrt = s.mrt := rfl
@[simp] theorem State.onPeg_pnt (s : State) (f : Peg → Peg) : (s.onPeg f).pnt = s.pnt := rfl
@[simp] theorem State.onPeg_net (s : State) (f : Peg → Peg) : (s.onPeg f).net = s.net := rfl
@[simp] theorem State.onPeg_can (s : State) (f : Peg → Peg) : (s.onPeg f).can = s.can := rfl
@[simp] theorem State.onPeg_fdl (s : State) (f : Peg → Peg) : (s.onPeg f).fdl = s.fdl := rfl
@[simp] theorem State.onPeg_est (s : State) (f : Peg → Peg) : (s.onPeg f).est = s.est := rfl
@[simp] theorem State.onPeg_emb (s : State) (f : Peg → Peg) : (s.onPeg f).emb = s.emb := rfl
@[simp] theorem State.onPeg_cof (s : State) (f : Peg → Peg) : (s.onPeg f).cof = s.cof := rfl
@[simp] theorem State.onPeg_scb (s : State) (f : Peg → Peg) : (s.onPeg f).scb = s.scb := rfl
@[simp] theorem State.onPeg_pwr (s : State) (f : Peg → Peg) : (s.onPeg f).pwr = s.pwr := rfl
@[simp] theorem State.onPeg_reg (s : State) (f : Peg → Peg) (r' : Reg) (j : Nat) : (s.onPeg f).reg r' j = s.reg r' j := rfl
@[simp] theorem State.onPeg_fld (s : State) (f : Peg → Peg) (g : Fld) (j : Nat) : (s.onPeg f).fld g j = s.fld g j := rfl
@[simp] theorem State.onPeg_flag (s : State) (f : Peg → Peg) (g : Fld) (j : Nat) : (s.onPeg f).flag g j = s.flag g j := rfl
@[simp] theorem State.onPeg_byte (s : State) (f : Peg → Peg) (x : Nat) : (s.onPeg f).byte x = s.byte x := rfl

/-! ### onNet changes net -/

@[simp] theorem State.onNet_pending (s : State) (f : Net → Net) : (s.onNet f).pending = s.pending := rfl
@[simp] theorem State.onNet_regs (s : State) (f : Net → Net) : (s.onNet f).regs = s.regs := rfl
@[simp] theorem State.onNet_mem (s : State) (f : Net → Net) : (s.onNet f).mem = s.mem := rfl
@[simp] theorem State.onNet_ecc (s : State) (f : Net → Net) : (s.onNet f).ecc = s.ecc := rfl
@[simp] theorem State.onNet_reports (s : State) (f : Net → Net) : (s.onNet f).reports = s.reports := rfl
@[simp] theorem State.onNet_resp (s : State) (f : Net → Net) : (s.onNet f).resp = s.resp := rfl
@[simp] theorem State.onNet_sent (s : State) (f : Net → Net) : (s.onNet f).sent = s.sent := rfl
@[simp] theorem State.onNet_freeCtr (s : State) (f : Net → Net) : (s.onNet f).freeCtr = s.freeCtr := rfl
@[simp] theorem State.onNet_sys (s : State) (f : Net → Net) : (s.onNet f).sys = s.sys := rfl
@[simp] theorem State.onNet_jny (s : State) (f : Net → Net) : (s.onNet f).jny = s.jny := rfl
@[simp] theorem State.onNet_acq (s : State) (f : Net → Net) : (s.onNet f).acq = s.acq := rfl
@[simp] theorem State.onNet_frg (s : State) (f : Net → Net) : (s.onNet f).frg = s.frg := rfl
@[simp] theorem State.onNet_clf (s : State) (f : Net → Net) : (s.onNet f).clf = s.clf := rfl
@[simp] theorem State.onNet_trs (s : State) (f : Net → Net) : (s.onNet f).trs = s.trs := rfl
@[simp] theorem State.onNet_blw (s : State) (f : Net → Net) : (s.onNet f).blw = s.blw := rfl
@[simp] theorem State.onNet_asy (s : State) (f : Net → Net) : (s.onNet f).asy = s.asy := rfl
@[simp] theorem State.onNet_mrt (s : State) (f : Net → Net) : (s.onNet f).mrt = s.mrt := rfl
@[simp] theorem State.onNet_peg (s : State) (f : Net → Net) : (s.onNet f).peg = s.peg := rfl
@[simp] theorem State.onNet_pnt (s : State) (f : Net → Net) : (s.onNet f).pnt = s.pnt := rfl
@[simp] theorem State.onNet_can (s : State) (f : Net → Net) : (s.onNet f).can = s.can := rfl
@[simp] theorem State.onNet_fdl (s : State) (f : Net → Net) : (s.onNet f).fdl = s.fdl := rfl
@[simp] theorem State.onNet_est (s : State) (f : Net → Net) : (s.onNet f).est = s.est := rfl
@[simp] theorem State.onNet_emb (s : State) (f : Net → Net) : (s.onNet f).emb = s.emb := rfl
@[simp] theorem State.onNet_cof (s : State) (f : Net → Net) : (s.onNet f).cof = s.cof := rfl
@[simp] theorem State.onNet_scb (s : State) (f : Net → Net) : (s.onNet f).scb = s.scb := rfl
@[simp] theorem State.onNet_pwr (s : State) (f : Net → Net) : (s.onNet f).pwr = s.pwr := rfl
@[simp] theorem State.onNet_reg (s : State) (f : Net → Net) (r' : Reg) (j : Nat) : (s.onNet f).reg r' j = s.reg r' j := rfl
@[simp] theorem State.onNet_fld (s : State) (f : Net → Net) (g : Fld) (j : Nat) : (s.onNet f).fld g j = s.fld g j := rfl
@[simp] theorem State.onNet_flag (s : State) (f : Net → Net) (g : Fld) (j : Nat) : (s.onNet f).flag g j = s.flag g j := rfl
@[simp] theorem State.onNet_byte (s : State) (f : Net → Net) (x : Nat) : (s.onNet f).byte x = s.byte x := rfl

/-! ### onCan changes can -/

@[simp] theorem State.onCan_pending (s : State) (n : Nat) (f : CanCtl → CanCtl) : (s.onCan n f).pending = s.pending := rfl
@[simp] theorem State.onCan_regs (s : State) (n : Nat) (f : CanCtl → CanCtl) : (s.onCan n f).regs = s.regs := rfl
@[simp] theorem State.onCan_mem (s : State) (n : Nat) (f : CanCtl → CanCtl) : (s.onCan n f).mem = s.mem := rfl
@[simp] theorem State.onCan_ecc (s : State) (n : Nat) (f : CanCtl → CanCtl) : (s.onCan n f).ecc = s.ecc := rfl
@[simp] theorem State.onCan_reports (s : State) (n : Nat) (f : CanCtl → CanCtl) : (s.onCan n f).reports = s.reports := rfl
@[simp] theorem State.onCan_resp (s : State) (n : Nat) (f : CanCtl → CanCtl) : (s.onCan n f).resp = s.resp := rfl
@[simp] theorem State.onCan_sent (s : State) (n : Nat) (f : CanCtl → CanCtl) : (s.onCan n f).sent = s.sent := rfl
@[simp] theorem State.onCan_freeCtr (s : State) (n : Nat) (f : CanCtl → CanCtl) : (s.onCan n f).freeCtr = s.freeCtr := rfl
@[simp] theorem State.onCan_sys (s : State) (n : Nat) (f : CanCtl → CanCtl) : (s.onCan n f).sys = s.sys := rfl
@[simp] theorem State.onCan_jny (s : State) (n : Nat) (f : CanCtl → CanCtl) : (s.onCan n f).jny = s.jny := rfl
@[simp] theorem State.onCan_acq (s : State) (n : Nat) (f : CanCtl → CanCtl) : (s.onCan n f).acq = s.acq := rfl
@[simp] theorem State.onCan_frg (s : State) (n : Nat) (f : CanCtl → CanCtl) : (s.onCan n f).frg = s.frg := rfl
@[simp] theorem State.onCan_clf (s : State) (n : Nat) (f : CanCtl → CanCtl) : (s.onCan n f).clf = s.clf := rfl
@[simp] theorem State.onCan_trs (s : State) (n : Nat) (f : CanCtl → CanCtl) : (s.onCan n f).trs = s.trs := rfl
@[simp] theorem State.onCan_blw (s : State) (n : Nat) (f : CanCtl → CanCtl) : (s.onCan n f).blw = s.blw := rfl
@[simp] theorem State.onCan_asy (s : State) (n : Nat) (f : CanCtl → CanCtl) : (s.onCan n f).asy = s.asy := rfl
@[simp] theorem State.onCan_mrt (s : State) (n : Nat) (f : CanCtl → CanCtl) : (s.onCan n f).mrt = s.mrt := rfl
@[simp] theorem State.onCan_peg (s : State) (n : Nat) (f : CanCtl → CanCtl) : (s.onCan n f).peg = s.peg := rfl
@[simp] theorem State.onCan_pnt (s : State) (n : Nat) (f : CanCtl → CanCtl) : (s.onCan n f).pnt = s.pnt := rfl
@[simp] theorem State.onCan_net (s : State) (n : Nat) (f : CanCtl → CanCtl) : (s.onCan n f).net = s.net := rfl
@[simp] theorem State.onCan_fdl (s : State) (n : Nat) (f : CanCtl → CanCtl) : (s.onCan n f).fdl = s.fdl := rfl
@[simp] theorem State.onCan_est (s : State) (n : Nat) (f : CanCtl → CanCtl) : (s.onCan n f).est = s.est := rfl
@[simp] theorem State.onCan_emb (s : State) (n : Nat) (f : CanCtl → CanCtl) : (s.onCan n f).emb = s.emb := rfl
@[simp] theorem State.onCan_cof (s : State) (n : Nat) (f : CanCtl → CanCtl) : (s.onCan n f).cof = s.cof := rfl
@[simp] theorem State.onCan_scb (s : State) (n : Nat) (f : CanCtl → CanCtl) : (s.onCan n f).scb = s.scb := rfl
@[simp] theorem State.onCan_pwr (s : State) (n : Nat) (f : CanCtl → CanCtl) : (s.onCan n f).pwr = s.pwr := rfl
@[simp] theorem State.onCan_reg (s : State) (n : Nat) (f : CanCtl → CanCtl) (r' : Reg) (j : Nat) : (s.onCan n f).reg r' j = s.reg r' j := rfl
@[simp] theorem State.onCan_fld (s : State) (n : Nat) (f : CanCtl → CanCtl) (g : Fld) (j : Nat) : (s.onCan n f).fld g j = s.fld g j := rfl
@[simp] theorem State.onCan_flag (s : State) (n : Nat) (f : CanCtl → CanCtl) (g : Fld) (j : Nat) : (s.onCan n f).flag g j = s.flag g j := rfl
@[simp] theorem State.onCan_byte (s : State) (n : Nat) (f : CanCtl → CanCtl) (x : Nat) : (s.onCan n f).byte x = s.byte x := rfl

/-! ### onFdl changes fdl -/

@[simp] theorem State.onFdl_pending (s : State) (f : Fdl → Fdl) : (s.onFdl f).pending = s.pending := rfl
@[simp] theorem State.onFdl_regs (s : State) (f : Fdl → Fdl) : (s.onFdl f).regs = s.regs := rfl
@[simp] theorem State.onFdl_mem (s : State) (f : Fdl → Fdl) : (s.onFdl f).mem = s.mem := rfl
@[simp] theorem State.onFdl_ecc (s : State) (f : Fdl → Fdl) : (s.onFdl f).ecc = s.ecc := rfl
@[simp] theorem State.onFdl_reports (s : State) (f : Fdl → Fdl) : (s.onFdl f).reports = s.reports := rfl
@[simp] theorem State.onFdl_resp (s : State) (f : Fdl → Fdl) : (s.onFdl f).resp = s.resp := rfl
@[simp] theorem State.onFdl_sent (s : State) (f : Fdl → Fdl) : (s.onFdl f).sent = s.sent := rfl
@[simp] theorem State.onFdl_freeCtr (s : State) (f : Fdl → Fdl) : (s.onFdl f).freeCtr = s.freeCtr := rfl
@[simp] theorem State.onFdl_sys (s : State) (f : Fdl → Fdl) : (s.onFdl f).sys = s.sys := rfl
@[simp] theorem State.onFdl_jny (s : State) (f : Fdl → Fdl) : (s.onFdl f).jny = s.jny := rfl
@[simp] theorem State.onFdl_acq (s : State) (f : Fdl → Fdl) : (s.onFdl f).acq = s.acq := rfl
@[simp] theorem State.onFdl_frg (s : State) (f : Fdl → Fdl) : (s.onFdl f).frg = s.frg := rfl
@[simp] theorem State.onFdl_clf (s : State) (f : Fdl → Fdl) : (s.onFdl f).clf = s.clf := rfl
@[simp] theorem State.onFdl_trs (s : State) (f : Fdl → Fdl) : (s.onFdl f).trs = s.trs := rfl
@[simp] theorem State.onFdl_blw (s : State) (f : Fdl → Fdl) : (s.onFdl f).blw = s.blw := rfl
@[simp] theorem State.onFdl_asy (s : State) (f : Fdl → Fdl) : (s.onFdl f).asy = s.asy := rfl
@[simp] theorem State.onFdl_mrt (s : State) (f : Fdl → Fdl) : (s.onFdl f).mrt = s.mrt := rfl
@[simp] theorem State.onFdl_peg (s : State) (f : Fdl → Fdl) : (s.onFdl f).peg = s.peg := rfl
@[simp] theorem State.onFdl_pnt (s : State) (f : Fdl → Fdl) : (s.onFdl f).pnt = s.pnt := rfl
@[simp] theorem State.onFdl_net (s : State) (f : Fdl → Fdl) : (s.onFdl f).net = s.net := rfl
@[simp] theorem State.onFdl_can (s : State) (f : Fdl → Fdl) : (s.onFdl f).can = s.can := rfl
@[simp] theorem State.onFdl_est (s : State) (f : Fdl → Fdl) : (s.onFdl f).est = s.est := rfl
@[simp] theorem State.onFdl_emb (s : State) (f : Fdl → Fdl) : (s.onFdl f).emb = s.emb := rfl
@[simp] theorem State.onFdl_cof (s : State) (f : Fdl → Fdl) : (s.onFdl f).cof = s.cof := rfl
@[simp] theorem State.onFdl_scb (s : State) (f : Fdl → Fdl) : (s.onFdl f).scb = s.scb := rfl
@[simp] theorem State.onFdl_pwr (s : State) (f : Fdl → Fdl) : (s.onFdl f).pwr = s.pwr := rfl
@[simp] theorem State.onFdl_reg (s : State) (f : Fdl → Fdl) (r' : Reg) (j : Nat) : (s.onFdl f).reg r' j = s.reg r' j := rfl
@[simp] theorem State.onFdl_fld (s : State) (f : Fdl → Fdl) (g : Fld) (j : Nat) : (s.onFdl f).fld g j = s.fld g j := rfl
@[simp] theorem State.onFdl_flag (s : State) (f : Fdl → Fdl) (g : Fld) (j : Nat) : (s.onFdl f).flag g j = s.flag g j := rfl
@[simp] theorem State.onFdl_byte (s : State) (f : Fdl → Fdl) (x : Nat) : (s.onFdl f).byte x = s.byte x := rfl

/-! ### onEst changes est -/

@[simp] theorem State.onEst_pending (s : State) (f : Est → Est) : (s.onEst f).pending = s.pending := rfl
@[simp] theorem State.onEst_regs (s : State) (f : Est → Est) : (s.onEst f).regs = s.regs := rfl
@[simp] theorem State.onEst_mem (s : State) (f : Est → Est) : (s.onEst f).mem = s.mem := rfl
@[simp] theorem State.onEst_ecc (s : State) (f : Est → Est) : (s.onEst f).ecc = s.ecc := rfl
@[simp] theorem State.onEst_reports (s : State) (f : Est → Est) : (s.onEst f).reports = s.reports := rfl
@[simp] theorem State.onEst_resp (s : State) (f : Est → Est) : (s.onEst f).resp = s.resp := rfl
@[simp] theorem State.onEst_sent (s : State) (f : Est → Est) : (s.onEst f).sent = s.sent := rfl
@[simp] theorem State.onEst_freeCtr (s : State) (f : Est → Est) : (s.onEst f).freeCtr = s.freeCtr := rfl
@[simp] theorem State.onEst_sys (s : State) (f : Est → Est) : (s.onEst f).sys = s.sys := rfl
@[simp] theorem State.onEst_jny (s : State) (f : Est → Est) : (s.onEst f).jny = s.jny := rfl
@[simp] theorem State.onEst_acq (s : State) (f : Est → Est) : (s.onEst f).acq = s.acq := rfl
@[simp] theorem State.onEst_frg (s : State) (f : Est → Est) : (s.onEst f).frg = s.frg := rfl
@[simp] theorem State.onEst_clf (s : State) (f : Est → Est) : (s.onEst f).clf = s.clf := rfl
@[simp] theorem State.onEst_trs (s : State) (f : Est → Est) : (s.onEst f).trs = s.trs := rfl
@[simp] theorem State.onEst_blw (s : State) (f : Est → Est) : (s.onEst f).blw = s.blw := rfl
@[simp] theorem State.onEst_asy (s : State) (f : Est → Est) : (s.onEst f).asy = s.asy := rfl
@[simp] theorem State.onEst_mrt (s : State) (f : Est → Est) : (s.onEst f).mrt = s.mrt := rfl
@[simp] theorem State.onEst_peg (s : State) (f : Est → Est) : (s.onEst f).peg = s.peg := rfl
@[simp] theorem State.onEst_pnt (s : State) (f : Est → Est) : (s.onEst f).pnt = s.pnt := rfl
@[simp] theorem State.onEst_net (s : State) (f : Est → Est) : (s.onEst f).net = s.net := rfl
@[simp] theorem State.onEst_can (s : State) (f : Est → Est) : (s.onEst f).can = s.can := rfl
@[simp] theorem State.onEst_fdl (s : State) (f : Est → Est) : (s.onEst f).fdl = s.fdl := rfl
@[simp] theorem State.onEst_emb (s : State) (f : Est → Est) : (s.onEst f).emb = s.emb := rfl
@[simp] theorem State.onEst_cof (s : State) (f : Est → Est) : (s.onEst f).cof = s.cof := rfl
@[simp] theorem State.onEst_scb (s : State) (f : Est → Est) : (s.onEst f).scb = s.scb := rfl
@[simp] theorem State.onEst_pwr (s : State) (f : Est → Est) : (s.onEst f).pwr = s.pwr := rfl
@[simp] theorem State.onEst_reg (s : State) (f : Est → Est) (r' : Reg) (j : Nat) : (s.onEst f).reg r' j = s.reg r' j := rfl
@[simp] theorem State.onEst_fld (s : State) (f : Est → Est) (g : Fld) (j : Nat) : (s.onEst f).fld g j = s.fld g j := rfl
@[simp] theorem State.onEst_flag (s : State) (f : Est → Est) (g : Fld) (j : Nat) : (s.onEst f).flag g j = s.flag g j := rfl
@[simp] theorem State.onEst_byte (s : State) (f : Est → Est) (x : Nat) : (s.onEst f).byte x = s.byte x := rfl

/-! ### onEmb changes emb -/

@[simp] theorem State.onEmb_pending (s : State) (f : Emb → Emb) : (s.onEmb f).pending = s.pending := rfl
@[simp] theorem State.onEmb_regs (s : State) (f : Emb → Emb) : (s.onEmb f).regs = s.regs := rfl
@[simp] theorem State.onEmb_mem (s : State) (f : Emb → Emb) : (s.onEmb f).mem = s.mem := rfl
@[simp] theorem State.onEmb_ecc (s : State) (f : Emb → Emb) : (s.onEmb f).ecc = s.ecc := rfl
@[simp] theorem State.onEmb_reports (s : State) (f : Emb → Emb) : (s.onEmb f).reports = s.reports := rfl
@[simp] theorem State.onEmb_resp (s : State) (f : Emb → Emb) : (s.onEmb f).resp = s.resp := rfl
@[simp] theorem State.onEmb_sent (s : State) (f : Emb → Emb) : (s.onEmb f).sent = s.sent := rfl
@[simp] theorem State.onEmb_freeCtr (s : State) (f : Emb → Emb) : (s.onEmb f).freeCtr = s.freeCtr := rfl
@[simp] theorem State.onEmb_sys (s : State) (f : Emb → Emb) : (s.onEmb f).sys = s.sys := rfl
@[simp] theorem State.onEmb_jny (s : State) (f : Emb → Emb) : (s.onEmb f).jny = s.jny := rfl
@[simp] theorem State.onEmb_acq (s : State) (f : Emb → Emb) : (s.onEmb f).acq = s.acq := rfl
@[simp] theorem State.onEmb_frg (s : State) (f : Emb → Emb) : (s.onEmb f).frg = s.frg := rfl
@[simp] theorem State.onEmb_clf (s : State) (f : Emb → Emb) : (s.onEmb f).clf = s.clf := rfl
@[simp] theorem State.onEmb_trs (s : State) (f : Emb → Emb) : (s.onEmb f).trs = s.trs := rfl
@[simp] theorem State.onEmb_blw (s : State) (f : Emb → Emb) : (s.onEmb f).blw = s.blw := rfl
@[simp] theorem State.onEmb_asy (s : State) (f : Emb → Emb) : (s.onEmb f).asy = s.asy := rfl
@[simp] theorem State.onEmb_mrt (s : State) (f : Emb → Emb) : (s.onEmb f).mrt = s.mrt := rfl
@[simp] theorem State.onEmb_peg (s : State) (f : Emb → Emb) : (s.onEmb f).peg = s.peg := rfl
@[simp] theorem State.onEmb_pnt (s : State) (f : Emb → Emb) : (s.onEmb f).pnt = s.pnt := rfl
@[simp] theorem State.onEmb_net (s : State) (f : Emb → Emb) : (s.onEmb f).net = s.net := rfl
@[simp] theorem State.onEmb_can (s : State) (f : Emb → Emb) : (s.onEmb f).can = s.can := rfl
@[simp] theorem State.onEmb_fdl (s : State) (f : Emb → Emb) : (s.onEmb f).fdl = s.fdl := rfl
@[simp] theorem State.onEmb_est (s : State) (f : Emb → Emb) : (s.onEmb f).est = s.est := rfl
@[simp] theorem State.onEmb_cof (s : State) (f : Emb → Emb) : (s.onEmb f).cof = s.cof := rfl
@[simp] theorem State.onEmb_scb (s : State) (f : Emb → Emb) : (s.onEmb f).scb = s.scb := rfl
@[simp] theorem State.onEmb_pwr (s : State) (f : Emb → Emb) : (s.onEmb f).pwr = s.pwr := rfl
@[simp] theorem State.onEmb_reg (s : State) (f : Emb → Emb) (r' : Reg) (j : Nat) : (s.onEmb f).reg r' j = s.reg r' j := rfl
@[simp] theorem State.onEmb_fld (s : State) (f : Emb → Emb) (g : Fld) (j : Nat) : (s.onEmb f).fld g j = s.fld g j := rfl
@[simp] theorem State.onEmb_flag (s : State) (f : Emb → Emb) (g : Fld) (j : Nat) : (s.onEmb f).flag g j = s.flag g j := rfl
@[simp] theorem State.onEmb_byte (s : State) (f : Emb → Emb) (x : Nat) : (s.onEmb f).byte x = s.byte x := rfl

/-! ### onSlot changes cof -/

@[simp] theorem State.onSlot_pending (s : State) (n : Nat) (f : KeySlot → KeySlot) : (s.onSlot n f).pending = s.pending := rfl
@[simp] theorem State.onSlot_regs (s : State) (n : Nat) (f : KeySlot → KeySlot) : (s.onSlot n f).regs = s.regs := rfl
@[simp] theorem State.onSlot_mem (s : State) (n : Nat) (f : KeySlot → KeySlot) : (s.onSlot n f).mem = s.mem := rfl
@[simp] theorem State.onSlot_ecc (s : State) (n : Nat) (f : KeySlot → KeySlot) : (s.onSlot n f).ecc = s.ecc := rfl
@[simp] theorem State.onSlot_reports (s : State) (n : Nat) (f : KeySlot → KeySlot) : (s.onSlot n f).reports = s.reports := rfl
@[simp] theorem State.onSlot_resp (s : State) (n : Nat) (f : KeySlot → KeySlot) : (s.onSlot n f).resp = s.resp := rfl
@[simp] theorem State.onSlot_sent (s : State) (n : Nat) (f : KeySlot → KeySlot) : (s.onSlot n f).sent = s.sent := rfl
@[simp] theorem State.onSlot_freeCtr (s : State) (n : Nat) (f : KeySlot → KeySlot) : (s.onSlot n f).freeCtr = s.freeCtr := rfl
@[simp] theorem State.onSlot_sys (s : State) (n : Nat) (f : KeySlot → KeySlot) : (s.onSlot n f).sys = s.sys := rfl
@[simp] theorem State.onSlot_jny (s : State) (n : Nat) (f : KeySlot → KeySlot) : (s.onSlot n f).jny = s.jny := rfl
@[simp] theorem State.onSlot_acq (s : State) (n : Nat) (f : KeySlot → KeySlot) : (s.onSlot n f).acq = s.acq := rfl
@[simp] theorem State.onSlot_frg (s : State) (n : Nat) (f : KeySlot → KeySlot) : (s.onSlot n f).frg = s.frg := rfl
@[simp] theorem State.onSlot_clf (s : State) (n : Nat) (f : KeySlot → KeySlot) : (s.onSlot n f).clf = s.clf := rfl
@[simp] theorem State.onSlot_trs (s : State) (n : Nat) (f : KeySlot → KeySlot) : (s.onSlot n f).trs = s.trs := rfl
@[simp] theorem State.onSlot_blw (s : State) (n : Nat) (f : KeySlot → KeySlot) : (s.onSlot n f).blw = s.blw := rfl
@[simp] theorem State.onSlot_asy (s : State) (n : Nat) (f : KeySlot → KeySlot) : (s.onSlot n f).asy = s.asy := rfl
@[simp] theorem State.onSlot_mrt (s : State) (n : Nat) (f : KeySlot → KeySlot) : (s.onSlot n f).mrt = s.mrt := rfl
@[simp] theorem State.onSlot_peg (s : State) (n : Nat) (f : KeySlot → KeySlot) : (s.onSlot n f).peg = s.peg := rfl
@[simp] theorem State.onSlot_pnt (s : State) (n : Nat) (f : KeySlot → KeySlot) : (s.onSlot n f).pnt = s.pnt := rfl
@[simp] theorem State.onSlot_net (s : State) (n : Nat) (f : KeySlot → KeySlot) : (s.onSlot n f).net = s.net := rfl
@[simp] theorem State.onSlot_can (s : State) (n : Nat) (f : KeySlot → KeySlot) : (s.onSlot n f).can = s.can := rfl
@[simp] theorem State.onSlot_fdl (s : State) (n : Nat) (f : KeySlot → KeySlot) : (s.onSlot n f).fdl = s.fdl := rfl
@[simp] theorem State.onSlot_est (s : State) (n : Nat) (f : KeySlot → KeySlot) : (s.onSlot n f).est = s.est := rfl
@[simp] theorem State.onSlot_emb (s : State) (n : Nat) (f : KeySlot → KeySlot) : (s.onSlot n f).emb = s.emb := rfl
@[simp] theorem State.onSlot_scb (s : State) (n : Nat) (f : KeySlot → KeySlot) : (s.onSlot n f).scb = s.scb := rfl
@[simp] theorem State.onSlot_pwr (s : State) (n : Nat) (f : KeySlot → KeySlot) : (s.onSlot n f).pwr = s.pwr := rfl
@[simp] theorem State.onSlot_reg (s : State) (n : Nat) (f : KeySlot → KeySlot) (r' : Reg) (j : Nat) : (s.onSlot n f).reg r' j = s.reg r' j := rfl
@[simp] theorem State.onSlot_fld (s : State) (n : Nat) (f : KeySlot → KeySlot) (g : Fld) (j : Nat) : (s.onSlot n f).fld g j = s.fld g j := rfl
@[simp] theorem State.onSlot_flag (s : State) (n : Nat) (f : KeySlot → KeySlot) (g : Fld) (j : Nat) : (s.onSlot n f).flag g j = s.flag g j := rfl
@[simp] theorem State.onSlot_byte (s : State) (n : Nat) (f : KeySlot → KeySlot) (x : Nat) : (s.onSlot n f).byte x = s.byte x := rfl

/-! ### onScb changes scb -/

@[simp] theorem State.onScb_pending (s : State) (f : Scb → Scb) : (s.onScb f).pending = s.pending := rfl
@[simp] theorem State.onScb_regs (s : State) (f : Scb → Scb) : (s.onScb f).regs = s.regs := rfl
@[simp] theorem State.onScb_mem (s : State) (f : Scb → Scb) : (s.onScb f).mem = s.mem := rfl
@[simp] theorem State.onScb_ecc (s : State) (f : Scb → Scb) : (s.onScb f).ecc = s.ecc := rfl
@[simp] theorem State.onScb_reports (s : State) (f : Scb → Scb) : (s.onScb f).reports = s.reports := rfl
@[simp] theorem State.onScb_resp (s : State) (f : Scb → Scb) : (s.onScb f).resp = s.resp := rfl
@[simp] theorem State.onScb_sent (s : State) (f : Scb → Scb) : (s.onScb f).sent = s.sent := rfl
@[simp] theorem State.onScb_freeCtr (s : State) (f : Scb → Scb) : (s.onScb f).freeCtr = s.freeCtr := rfl
@[simp] theorem State.onScb_sys (s : State) (f : Scb → Scb) : (s.onScb f).sys = s.sys := rfl
@[simp] theorem State.onScb_jny (s : State) (f : Scb → Scb) : (s.onScb f).jny = s.jny := rfl
@[simp] theorem State.onScb_acq (s : State) (f : Scb → Scb) : (s.onScb f).acq = s.acq := rfl
@[simp] theorem State.onScb_frg (s : State) (f : Scb → Scb) : (s.onScb f).frg = s.frg := rfl
@[simp] theorem State.onScb_clf (s : State) (f : Scb → Scb) : (s.onScb f).clf = s.clf := rfl
@[simp] theorem State.onScb_trs (s : State) (f : Scb → Scb) : (s.onScb f).trs = s.trs := rfl
@[simp] theorem State.onScb_blw (s : State) (f : Scb → Scb) : (s.onScb f).blw = s.blw := rfl
@[simp] theorem State.onScb_asy (s : State) (f : Scb → Scb) : (s.onScb f).asy = s.asy := rfl
@[simp] theorem State.onScb_mrt (s : State) (f : Scb → Scb) : (s.onScb f).mrt = s.mrt := rfl
@[simp] theorem State.onScb_peg (s : State) (f : Scb → Scb) : (s.onScb f).peg = s.peg := rfl
@[simp] theorem State.onScb_pnt (s : State) (f : Scb → Scb) : (s.onScb f).pnt = s.pnt := rfl
@[simp] theorem State.onScb_net (s : State) (f : Scb → Scb) : (s.onScb f).net = s.net := rfl
@[simp] theorem State.onScb_can (s : State) (f : Scb → Scb) : (s.onScb f).can = s.can := rfl
@[simp] theorem State.onScb_fdl (s : State) (f : Scb → Scb) : (s.onScb f).fdl = s.fdl := rfl
@[simp] theorem State.onScb_est (s : State) (f : Scb → Scb) : (s.onScb f).est = s.est := rfl
@[simp] theorem State.onScb_emb (s : State) (f : Scb → Scb) : (s.onScb f).emb = s.emb := rfl
@[simp] theorem State.onScb_cof (s : State) (f : Scb → Scb) : (s.onScb f).cof = s.cof := rfl
@[simp] theorem State.onScb_pwr (s : State) (f : Scb → Scb) : (s.onScb f).pwr = s.pwr := rfl
@[simp] theorem State.onScb_reg (s : State) (f : Scb → Scb) (r' : Reg) (j : Nat) : (s.onScb f).reg r' j = s.reg r' j := rfl
@[simp] theorem State.onScb_fld (s : State) (f : Scb → Scb) (g : Fld) (j : Nat) : (s.onScb f).fld g j = s.fld g j := rfl
@[simp] theorem State.onScb_flag (s : State) (f : Scb → Scb) (g : Fld) (j : Nat) : (s.onScb f).flag g j = s.flag g j := rfl
@[simp] theorem State.onScb_byte (s : State) (f : Scb → Scb) (x : Nat) : (s.onScb f).byte x = s.byte x := rfl

/-! ### onPwr changes pwr -/

@[simp] theorem State.onPwr_pending (s : State) (f : Pwr → Pwr) : (s.onPwr f).pending = s.pending := rfl
@[simp] theorem State.onPwr_regs (s : State) (f : Pwr → Pwr) : (s.onPwr f).regs = s.regs := rfl
@[simp] theorem State.onPwr_mem (s : State) (f : Pwr → Pwr) : (s.onPwr f).mem = s.mem := rfl
@[simp] theorem State.onPwr_ecc (s : State) (f : Pwr → Pwr) : (s.onPwr f).ecc = s.ecc := rfl
@[simp] theorem State.onPwr_reports (s : State) (f : Pwr → Pwr) : (s.onPwr f).reports = s.reports := rfl
@[simp] theorem State.onPwr_resp (s : State) (f : Pwr → Pwr) : (s.onPwr f).resp = s.resp := rfl
@[simp] theorem State.onPwr_sent (s : State) (f : Pwr → Pwr) : (s.onPwr f).sent = s.sent := rfl
@[simp] theorem State.onPwr_freeCtr (s : State) (f : Pwr → Pwr) : (s.onPwr f).freeCtr = s.freeCtr := rfl
@[simp] theorem State.onPwr_sys (s : State) (f : Pwr → Pwr) : (s.onPwr f).sys = s.sys := rfl
@[simp] theorem State.onPwr_jny (s : State) (f : Pwr → Pwr) : (s.onPwr f).jny = s.jny := rfl
@[simp] theorem State.onPwr_acq (s : State) (f : Pwr → Pwr) : (s.onPwr f).acq = s.acq := rfl
@[simp] theorem State.onPwr_frg (s : State) (f : Pwr → Pwr) : (s.onPwr f).frg = s.frg := rfl
@[simp] theorem State.onPwr_clf (s : State) (f : Pwr → Pwr) : (s.onPwr f).clf = s.clf := rfl
@[simp] theorem State.onPwr_trs (s : State) (f : Pwr → Pwr) : (s.onPwr f).trs = s.trs := rfl
@[simp] theorem State.onPwr_blw (s : State) (f : Pwr → Pwr) : (s.onPwr f).blw = s.blw := rfl
@[simp] theorem State.onPwr_asy (s : State) (f : Pwr → Pwr) : (s.onPwr f).asy = s.asy := rfl
@[simp] theorem State.onPwr_mrt (s : State) (f : Pwr → Pwr) : (s.onPwr f).mrt = s.mrt := rfl
@[simp] theorem State.onPwr_peg (s : State) (f : Pwr → Pwr) : (s.onPwr f).peg = s.peg := rfl
@[simp] theorem State.onPwr_pnt (s : State) (f : Pwr → Pwr) : (s.onPwr f).pnt = s.pnt := rfl
@[simp] theorem State.onPwr_net (s : State) (f : Pwr → Pwr) : (s.onPwr f).net = s.net := rfl
@[simp] theorem State.onPwr_can (s : State) (f : Pwr → Pwr) : (s.onPwr f).can = s.can := rfl
@[simp] theorem State.onPwr_fdl (s : State) (f : Pwr → Pwr) : (s.onPwr f).fdl = s.fdl := rfl
@[simp] theorem State.onPwr_est (s : State) (f : Pwr → Pwr) : (s.onPwr f).est = s.est := rfl
@[simp] theorem State.onPwr_emb (s : State) (f : Pwr → Pwr) : (s.onPwr f).emb = s.emb := rfl
@[simp] theorem State.onPwr_cof (s : State) (f : Pwr → Pwr) : (s.onPwr f).cof = s.cof := rfl
@[simp] theorem State.onPwr_scb (s : State) (f : Pwr → Pwr) : (s.onPwr f).scb = s.scb := rfl
@[simp] theorem State.onPwr_reg (s : State) (f : Pwr → Pwr) (r' : Reg) (j : Nat) : (s.onPwr f).reg r' j = s.reg r' j := rfl
@[simp] theorem State.onPwr_fld (s : State) (f : Pwr → Pwr) (g : Fld) (j : Nat) : (s.onPwr f).fld g j = s.fld g j := rfl
@[simp] theorem State.onPwr_flag (s : State) (f : Pwr → Pwr) (g : Fld) (j : Nat) : (s.onPwr f).flag g j = s.flag g j := rfl
@[simp] theorem State.onPwr_byte (s : State) (f : Pwr → Pwr) (x : Nat) : (s.onPwr f).byte x = s.byte x := rfl

/-! ### An island's work -/

/-- A command of an island that runs has its effect. -/
theorem State.live_runs {s t : State} {k : Nat} (h : s.runs k = true) : s.live k t = t := if_pos h

/-- A command of an island that is failed or held in reset has none. -/
theorem State.live_stopped {s t : State} {k : Nat} (h : s.runs k = false) : s.live k t = s := if_neg (by simp [h])

@[simp] theorem State.live_self (s : State) (k : Nat) : s.live k s = s := by
  unfold State.live
  split <;> rfl

end Sys2Proof.Machine
end

