-- ==== Sys2Proof/Laws/Memory.lean ====
section
/-! SUPPORT. Memory: a read after a write, and the canonical form that every write keeps. -/

namespace Sys2Proof.Machine

open Sys2Proof

@[simp] theorem State.byte_setByte_same (s : State) (a : Nat) (v : Byte) : (s.setByte a v).byte a = v :=
  cellGet?_put_same natLt 0 a v s.mem

theorem State.byte_setByte_ne (s : State) {a x : Nat} (h : x ≠ a) (v : Byte) : (s.setByte a v).byte x = s.byte x := by
  unfold State.byte State.setByte
  rw [cellGet?_put_ne natLt 0 h]

/-- A byte outside the bytes written. -/
theorem State.byte_setBytes_outside (s : State) (a : Nat) (l : List Byte) (x : Nat) (h : x < a ∨ a + l.length ≤ x) :
    (s.setBytes a l).byte x = s.byte x := by
  induction l generalizing s a with
  | nil => rfl
  | cons b t ih =>
    rw [State.setBytes, ih (s.setByte a b) (a + 1) (by simp at h; omega), State.byte_setByte_ne s (by simp at h; omega)]

/-- A byte among the bytes written. -/
theorem State.byte_setBytes_inside (s : State) (a : Nat) (l : List Byte) (k : Nat) (h : k < l.length) :
    (s.setBytes a l).byte (a + k) = l[k] := by
  induction l generalizing s a k with
  | nil => simp at h
  | cons b t ih =>
    rw [State.setBytes]
    cases k with
    | zero => rw [State.byte_setBytes_outside _ _ _ _ (by omega)]; simp
    | succ k =>
      have := ih (s.setByte a b) (a + 1) k (by simpa using h)
      rw [show a + (k + 1) = a + 1 + k by omega, this]; simp

theorem Memory.wf_iff (m : List Host.Cell) : Memory.wf m = true ↔ (m.Pairwise fun a b => natLt a.1 b.1 = true) ∧ ∀ c ∈ m, c.2 ≠ 0 := by
  simp [Memory.wf, natLt]

/-- Writing a byte keeps the canonical form. -/
theorem State.setByte_memWf (s : State) (a : Nat) (v : Byte) (h : Memory.wf s.mem = true) : Memory.wf (s.setByte a v).mem = true := by
  rw [Memory.wf_iff] at *
  exact ⟨cellPut_pairwise natLt_trans natLt_total 0 a v h.1, cellPut_all (fun hv => hv) h.2⟩

/-- Writing bytes keeps the canonical form. -/
theorem State.setBytes_memWf (s : State) (a : Nat) (l : List Byte) (h : Memory.wf s.mem = true) : Memory.wf (s.setBytes a l).mem = true := by
  induction l generalizing s a with
  | nil => exact h
  | cons b t ih => exact ih _ _ (s.setByte_memWf a b h)

/-- A part of memory is still in canonical form. -/
theorem Memory.wf_filter (m : List Host.Cell) (p : Host.Cell → Bool) (h : Memory.wf m = true) : Memory.wf (m.filter p) = true := by
  rw [Memory.wf_iff] at *
  exact ⟨h.1.sublist List.filter_sublist, fun c hc => h.2 c (List.mem_filter.1 hc).1⟩

end Sys2Proof.Machine
end

