-- ==== Sys2Proof/Laws/Registers.lean ====
section
/-! SUPPORT. Registers and fields: a read after a write, and the canonical form of the register file. -/

namespace Sys2Proof.Machine

open Sys2Proof

/-! ### A read after a write -/

@[simp] theorem State.reg_setReg_same (s : State) (r : Reg) (i : Nat) (v : W32) : (s.setReg r i v).reg r i = v :=
  cellGet?_put_same regLt r.resetVal (r, i) v s.regs

theorem State.reg_setReg_ne (s : State) {r q : Reg} {i j : Nat} (h : (q, j) ≠ (r, i)) (v : W32) :
    (s.setReg r i v).reg q j = s.reg q j := by
  unfold State.reg State.setReg
  rw [cellGet?_put_ne regLt r.resetVal h]

/-- A register of another name. -/
theorem State.reg_setReg_name (s : State) {r q : Reg} (i j : Nat) (h : q ≠ r) (v : W32) : (s.setReg r i v).reg q j = s.reg q j :=
  s.reg_setReg_ne (fun e => h (Prod.ext_iff.1 e).1) v

/-- The same name at another index. -/
theorem State.reg_setReg_index (s : State) (r q : Reg) {i j : Nat} (h : j ≠ i) (v : W32) : (s.setReg r i v).reg q j = s.reg q j :=
  s.reg_setReg_ne (fun e => h (Prod.ext_iff.1 e).2) v

theorem State.reg_setFld_name (s : State) (f : Fld) {q : Reg} (i j n : Nat) (h : q ≠ f.reg) : (s.setFld f i n).reg q j = s.reg q j :=
  s.reg_setReg_name i j h _

/-- A field read after it is written holds the value cut to its width. -/
theorem State.fld_setFld_same (s : State) (f : Fld) (i n : Nat) (h : f.hi < 32 := by decide) (hl : f.lo ≤ f.hi := by decide) :
    (s.setFld f i n).fld f i = n % 2 ^ f.width := by
  unfold State.fld State.setFld
  rw [State.reg_setReg_same, Fld.of_put f _ n h hl]

/-- A field of another register. -/
theorem State.fld_setFld_name (s : State) (f g : Fld) (i j n : Nat) (h : g.reg ≠ f.reg) : (s.setFld f i n).fld g j = s.fld g j := by
  unfold State.fld
  rw [State.reg_setFld_name s f i j n h]

/-- A field of another index. -/
theorem State.fld_setFld_index (s : State) (f g : Fld) {i j : Nat} (n : Nat) (h : j ≠ i) : (s.setFld f i n).fld g j = s.fld g j := by
  unfold State.fld State.setFld
  rw [State.reg_setReg_index s f.reg g.reg h]

/-- Another field of the same word. -/
theorem State.fld_setFld_bits (s : State) (f g : Fld) (i n : Nat) (e : g.reg = f.reg) (d : g.hi < f.lo ∨ f.hi < g.lo)
    (h : f.hi < 32 := by decide) (hl : f.lo ≤ f.hi := by decide) (hg : g.lo ≤ g.hi := by decide) :
    (s.setFld f i n).fld g i = s.fld g i := by
  unfold State.fld State.setFld
  rw [e, State.reg_setReg_same, Fld.of_put_ne f g _ n h hl d hg]

theorem State.fld_setReg_name (s : State) (g : Fld) (r : Reg) (i j : Nat) (v : W32) (h : g.reg ≠ r) : (s.setReg r i v).fld g j = s.fld g j := by
  unfold State.fld
  rw [State.reg_setReg_name s i j h]

@[simp] theorem State.fld_setReg_same (s : State) (g : Fld) (i : Nat) (v : W32) : (s.setReg g.reg i v).fld g i = g.of v := by
  unfold State.fld
  rw [State.reg_setReg_same]

/-! ### The canonical form -/

theorem regsWf_iff (l : List (RegKey × W32)) :
    regsWf l = true ↔ (l.Pairwise fun a b => regLt a.1 b.1 = true) ∧ ∀ c ∈ l, c.2 ≠ c.1.1.resetVal := by
  simp [regsWf]

theorem State.setReg_regsWf (s : State) (r : Reg) (i : Nat) (v : W32) (h : regsWf s.regs = true) : regsWf (s.setReg r i v).regs = true := by
  rw [regsWf_iff] at *
  exact ⟨cellPut_pairwise regLt_trans regLt_total r.resetVal (r, i) v h.1, cellPut_all (fun hv => hv) h.2⟩

theorem State.dropRegs_regsWf (s : State) (ds : List Dom) (h : regsWf s.regs = true) : regsWf (s.dropRegs ds).regs = true := by
  rw [regsWf_iff] at *
  exact ⟨h.1.sublist List.filter_sublist, fun c hc => h.2 c (List.mem_filter.1 hc).1⟩

end Sys2Proof.Machine
end

