-- ==== Sys2Proof/Laws/Access.lean ====
section
/-! SUPPORT. What an access that reaches a peripheral window comes to, and where the registers of a window lie. -/

namespace Sys2Proof.Machine

open Sys2Proof

/-- A grant changes Scribe's counters alone. -/
theorem State.granted_scb (s : State) (w : Initiator) (p : Nat) : ∃ c, s.granted w p = { s with scb := c } := by
  unfold State.granted State.when State.count
  split
  · exact ⟨_, rfl⟩
  · exact ⟨_, rfl⟩

/-- Counting the data changes Scribe's counters alone. -/
theorem State.countData_scb (s : State) (x : Access) (p : Nat) : ∃ c, s.countData x p = { s with scb := c } := by
  unfold State.countData
  dsimp only
  split
  · exact ⟨_, rfl⟩
  · exact ⟨_, rfl⟩

theorem State.absentAt_scb (s : State) (c : Scb) (r : Region) (a n : Nat) : State.absentAt { s with scb := c } r a n = s.absentAt r a n := by
  cases r with
  | window win =>
    unfold State.absentAt State.hasForge State.hasFeeder State.phaseCount State.engineCount State.stringCount
    simp only []
  | sram => rfl
  | _ => rfl

theorem State.firewall_scb (s : State) (c : Scb) (w : Initiator) (r : Region) (a n : Nat) (b : Bool) :
    State.firewall { s with scb := c } w r a n b = s.firewall w r a n b := by
  unfold State.firewall
  rfl

/-- A write is refused by the firewall wherever a read is; in a window both are refused alike. -/
theorem State.firewall_window (s : State) (w : Initiator) (win a n m : Nat) (b c : Bool) :
    s.firewall w (.window win) a n b = s.firewall w (.window win) a m c := rfl

/-- A 32-bit word of a window lies in that window. -/
theorem State.regionOf_window (s : State) (win off : Nat) (h : win < 18) (k : off < 0x100000) (m : off % 4 = 0) :
    s.regionOf (0x40000000 + win * 0x100000 + off) 4 = some (.window win) := by
  unfold State.regionOf within
  rw [if_neg (by simp; omega), if_neg (by simp; omega), if_neg (by simp; omega), if_neg (by simp; omega), if_pos (by simp; omega)]
  have e : (0x40000000 + win * 0x100000 + off - 0x40000000) / 0x100000 = win := by omega
  rw [e]

/-- A 32-bit access, or an aligned 64-bit one, that reaches its window is granted, counted and served. -/
theorem State.viaWindow_reaches (s : State) (who : Initiator) (win off ofs : Nat) (t : Transfer) (f : State → State) (h : Reaches s who win off)
    (n : xferLen t = 4 ∨ (xferLen t = 8 ∧ off % 8 = 0)) :
    s.viaWindow (wordAccess who win off ofs t) win f = f ((s.granted who 27).countData (wordAccess who win off ofs t) 27) := by
  obtain ⟨-, -, -, -, h5, h6, h7, h8⟩ := h
  obtain ⟨c, hc⟩ := s.granted_scb who 27
  have w : widthOk (0x40000000 + win * 0x100000 + off) (xferLen t) = true := by rcases n with n | ⟨n, m⟩ <;> simp [widthOk, n] <;> omega
  have g1 : State.up { s with scb := c } (windowIsland win) = true := h6
  have g2 : State.absentAt { s with scb := c } (.window win) (0x40000000 + win * 0x100000 + off) (xferLen t) = false :=
    (State.absentAt_scb s c _ _ _).trans h7
  have g3 : State.firewall { s with scb := c } who (.window win) (0x40000000 + win * 0x100000 + off) (xferLen t) (xferWrites t) = false :=
    ((State.firewall_scb s c who _ _ _ _).trans (s.firewall_window who win _ _ 4 _ true)).trans h8
  unfold State.viaWindow
  simp only [wordAccess, hc, g1, g2, g3, w, Bool.not_true, Bool.false_eq_true, if_false, if_true]

/-- A 32-bit access that reaches its window is granted, counted and served. -/
theorem State.access_word (s : State) (who : Initiator) (win off ofs : Nat) (t : Transfer) (n : xferLen t = 4) (h : Reaches s who win off) :
    s.access (wordAccess who win off ofs t)
      = ((s.granted who 27).countData (wordAccess who win off ofs t) 27).serveAccess (wordAccess who win off ofs t) (.window win) := by
  have e := s.viaWindow_reaches who win off ofs t (fun u => u.serveAccess (wordAccess who win off ofs t) (.window win)) h (.inl n)
  obtain ⟨h1, h2, h3, h4, h5, -, -, -⟩ := h
  unfold State.access State.sends
  rw [if_neg (by simp [wordAccess, h1, h2])]
  have hr : s.regionOf (wordAccess who win off ofs t).addr (xferLen (wordAccess who win off ofs t).xfer) = some (.window win) := by
    simp only [wordAccess, n]
    exact s.regionOf_window win off h3 h4 h5
  rw [hr]
  exact e

/-- The data counted are those of the initiator and the transfer. -/
theorem State.countData_eq (s : State) (x y : Access) (p : Nat) (h : x.who = y.who) (k : x.xfer = y.xfer) : s.countData x p = s.countData y p := by
  unfold State.countData
  rw [h, k]

/-- A write of a command's own row that reaches its register: the operation of its block in the state in which it is served. -/
theorem rowWrite_reaches (s : State) (who : Initiator) (win off : Nat) (f : State → State) (h : Reaches s who win off) :
    s.rowWrite who win off f = { f (served s who) with resp := .done } := by
  unfold State.rowWrite State.sends
  rw [if_neg (by simp [h.1, h.2.1])]
  rw [s.viaWindow_reaches who win off 0 (.write (List.replicate 4 0)) _ h (.inl rfl),
    (s.granted who 27).countData_eq (wordAccess who win off 0 (.write (List.replicate 4 0))) (wordAccess who 0 0 0 (.write (List.replicate 4 0))) 27 rfl rfl]
  rfl

/-- The same for a 64-bit register. -/
theorem rowWrite_reaches8 (s : State) (who : Initiator) (win off : Nat) (f : State → State) (h : Reaches s who win off) (m : off % 8 = 0) :
    s.rowWrite who win off f 8 = { f (served s who 8) with resp := .done } := by
  unfold State.rowWrite State.sends
  rw [if_neg (by simp [h.1, h.2.1])]
  rw [s.viaWindow_reaches who win off 0 (.write (List.replicate 8 0)) _ h (.inr ⟨rfl, m⟩),
    (s.granted who 27).countData_eq (wordAccess who win off 0 (.write (List.replicate 8 0))) (wordAccess who 0 0 0 (.write (List.replicate 8 0))) 27 rfl rfl]
  rfl

/-- A read of a command's own row that reaches its register. -/
theorem rowRead_reaches (s : State) (who : Initiator) (win off n : Nat) (f : State → State) (h : Reaches s who win off)
    (m : n = 4 ∨ (n = 8 ∧ off % 8 = 0)) : s.rowRead who win off n f = f (servedRead s who n) := by
  unfold State.rowRead State.sends
  rw [if_neg (by simp [h.1, h.2.1])]
  rw [s.viaWindow_reaches who win off 0 (.read n) f h m,
    (s.granted who 27).countData_eq (wordAccess who win off 0 (.read n)) (wordAccess who 0 0 0 (.read n)) 27 rfl rfl]
  rfl

/-- The register found at an offset belongs to the window. -/
theorem regAt_win {win off i : Nat} {r : Reg} (h : regAt win off = some (r, i)) : r.row.win = win := by
  unfold regAt at h
  obtain ⟨q, -, hq⟩ := List.exists_of_findSome?_eq_some h
  split at hq
  · rename_i e
    cases k : q.indexAt off with
    | none => simp [k] at hq
    | some j =>
      simp [k] at hq
      rw [← hq.1]
      exact e
  · cases hq

/-- No 64-bit register lies in the CAN window. -/
theorem pairs_not_can : ∀ p ∈ pairs, p.1.row.win ≠ 9 ∧ p.2.row.win ≠ 9 := by decide

/-- The halves of a 64-bit register know each other. -/
theorem pairs_hiOf : ∀ p ∈ pairs, Reg.hiOf p.1 = some p.2 ∧ Reg.hiOf p.2 = none ∧ Reg.loOf p.2 = some p.1 ∧ p.1 ≠ p.2 := by decide

/-- No half has a W1C bit. -/
theorem pairs_w1c : ∀ p ∈ pairs, p.1.row.w1c = 0 ∧ p.2.row.w1c = 0 := by decide

/-- A window that is not CAN's holds no CAN object. -/
theorem objectAt_none {win : Nat} (off : Nat) (h : win ≠ 9) : objectAt win off = none := by
  unfold objectAt
  rw [if_neg (by omega)]

end Sys2Proof.Machine
end

