-- ==== Sys2Proof/Laws/Keeps.lean ====
section
/-! SUPPORT. Every elementary change of the state keeps the queue, the canonical forms, the part, and what was recorded. -/

namespace Sys2Proof

theorem Keeps.refl (s : Machine.State) : Keeps s s :=
  ⟨⟨rfl, id, id, List.prefix_refl _, List.prefix_refl _, Nat.le_refl _, rfl, rfl⟩, rfl⟩

theorem Keeps.trans {r s t : Machine.State} (h : Keeps r s) (k : Keeps s t) : Keeps r t :=
  ⟨⟨k.pending.trans h.pending, k.regs ∘ h.regs, k.mem ∘ h.mem, h.reports.trans k.reports, h.sent.trans k.sent,
    Nat.le_trans h.free k.free, k.part.trans h.part, k.fitted.trans h.fitted⟩, k.clock.trans h.clock⟩

theorem Keeps.after {s t : Machine.State} (k : Keeps s t) {r : Machine.State} (h : Keeps r s) : Keeps r t := h.trans k

/-- The same count of strokes on both sides. -/
theorem Keeps.atStroke {s t : Machine.State} (h : Keeps s t) (n : BitVec 48) : Keeps (s.atStroke n) (t.atStroke n) :=
  ⟨⟨h.pending, h.regs, h.mem, h.reports, h.sent, h.free, h.part, h.fitted⟩, rfl⟩

/-- A kept count of strokes is the count that the state shows. -/
theorem Keeps.own {s t : Machine.State} {n : BitVec 48} (h : Keeps (s.atStroke n) t) : Keeps (s.atStroke t.sys.stroke) t := by
  have e : t.sys.stroke = n := h.clock
  rw [e]
  exact h

/-- A change of the stroke counter alone keeps the rest. -/
theorem Keeps.forms_atStroke {s t : Machine.State} {n : BitVec 48} (h : Keeps (s.atStroke n) t) : KeepsForms s t :=
  ⟨h.pending, h.regs, h.mem, h.reports, h.sent, h.free, h.part, h.fitted⟩

namespace Machine

/-- A change of fields that the claim does not name. -/
theorem keeps_other (r s : State) (ecc : List Nat) (resp : Resp) (jny : Jny) (acq : Acq) (frg : Frg) (clf : Arr Engine) (trs : Trs) (blw : Blw) (asy : Asy)
    (mrt : Mrt) (peg : Peg) (pnt : Pnt) (net : Net) (can : Can) (fdl : Fdl) (est : Est) (emb : Emb) (cof : Cof) (scb : Scb) (pwr : Pwr) :
    Keeps r (State.mk s.pending s.regs s.mem ecc s.reports resp s.sent s.freeCtr s.sys jny acq frg clf trs blw asy mrt peg pnt net can fdl est emb cof scb pwr) ↔ Keeps r s :=
  ⟨fun h => ⟨⟨h.pending, h.regs, h.mem, h.reports, h.sent, h.free, h.part, h.fitted⟩, h.clock⟩,
    fun h => ⟨⟨h.pending, h.regs, h.mem, h.reports, h.sent, h.free, h.part, h.fitted⟩, h.clock⟩⟩

/-- A change of the system island's fields but the part, the fitted memory and the stroke counter. -/
theorem keeps_sys (r s : State) (ecc : List Nat) (resp : Resp) (shadows heldLo : List Held) (overruns : List (Work × Nat)) (late : List Work)
    (warned : List (Nat × Nat × Quantity)) (skewRun : Arr Nat) (heatSkew : Nat) (clfFail trsFail : Option Nat) (heldRefs : List (Nat × Nat))
    (booted : Bool) (halted : List Nat) (jny : Jny) (acq : Acq) (frg : Frg) (clf : Arr Engine) (trs : Trs) (blw : Blw) (asy : Asy)
    (mrt : Mrt) (peg : Peg) (pnt : Pnt) (net : Net) (can : Can) (fdl : Fdl) (est : Est) (emb : Emb) (cof : Cof) (scb : Scb) (pwr : Pwr) :
    Keeps r (State.mk s.pending s.regs s.mem ecc s.reports resp s.sent s.freeCtr ⟨s.sys.variant, s.sys.lpddrSize, s.sys.stroke, shadows, heldLo,
      overruns, late, warned, skewRun, heatSkew, clfFail, trsFail, heldRefs, booted, halted⟩ jny acq frg clf trs blw asy mrt peg pnt net can fdl est emb cof scb pwr) ↔ Keeps r s :=
  ⟨fun h => ⟨⟨h.pending, h.regs, h.mem, h.reports, h.sent, h.free, h.part, h.fitted⟩, h.clock⟩,
    fun h => ⟨⟨h.pending, h.regs, h.mem, h.reports, h.sent, h.free, h.part, h.fitted⟩, h.clock⟩⟩

theorem keeps_regs (s : State) (l : List (RegKey × W32)) (h : regsWf s.regs = true → regsWf l = true) : Keeps s { s with regs := l } :=
  ⟨⟨rfl, h, id, List.prefix_refl _, List.prefix_refl _, Nat.le_refl _, rfl, rfl⟩, rfl⟩

theorem keeps_mem (s : State) (m : List Host.Cell) (h : Memory.wf s.mem = true → Memory.wf m = true) : Keeps s { s with mem := m } :=
  ⟨⟨rfl, id, h, List.prefix_refl _, List.prefix_refl _, Nat.le_refl _, rfl, rfl⟩, rfl⟩

theorem keeps_ite {r a b : State} {c : Prop} {_ : Decidable c} (h : Keeps r a) (k : Keeps r b) : Keeps r (if c then a else b) := by
  split
  · exact h
  · exact k

theorem keeps_ite_fst {α : Type} {r : State} {a b : State × α} {c : Prop} {_ : Decidable c} (h : Keeps r a.1) (k : Keeps r b.1) :
    Keeps r (if c then a else b).1 := by
  split
  · exact h
  · exact k

theorem keeps_ite_snd {α : Type} {r : State} {a b : α × State} {c : Prop} {_ : Decidable c} (h : Keeps r a.2) (k : Keeps r b.2) :
    Keeps r (if c then a else b).2 := by
  split
  · exact h
  · exact k

theorem keeps_of_snd {α : Type} {r t : State} {p : α × State} {a : α} (e : p = (a, t)) (h : Keeps r p.2) : Keeps r t := by
  rw [e] at h
  exact h

theorem keeps_foldl {α : Type} (l : List α) (f : State → α → State) (h : ∀ t k, Keeps t (f t k)) (s : State) : Keeps s (l.foldl f s) := by
  induction l generalizing s with
  | nil => exact Keeps.refl s
  | cons a t ih => exact (h s a).trans (ih (f s a))

theorem keeps_foldr {α : Type} (l : List α) (f : α → State → State) (h : ∀ k t, Keeps t (f k t)) (s : State) : Keeps s (l.foldr f s) := by
  induction l with
  | nil => exact Keeps.refl s
  | cons a t ih => exact ih.trans (h a _)

theorem keeps_foldl_fst {α β : Type} (l : List α) (f : State × β → α → State × β) (h : ∀ p k, Keeps p.1 (f p k).1) (p : State × β) :
    Keeps p.1 (l.foldl f p).1 := by
  induction l generalizing p with
  | nil => exact Keeps.refl _
  | cons a t ih => exact (h p a).trans (ih (f p a))

theorem keeps_foldl_snd {α β : Type} (l : List α) (f : β × State → α → β × State) (h : ∀ p k, Keeps p.2 (f p k).2) (p : β × State) :
    Keeps p.2 (l.foldl f p).2 := by
  induction l generalizing p with
  | nil => exact Keeps.refl _
  | cons a t ih => exact (h p a).trans (ih (f p a))

theorem State.each_keeps (s : State) (l : List Nat) (f : Nat → State → State) (h : ∀ k t, Keeps t (f k t)) : Keeps s (s.each l f) :=
  keeps_foldl l (fun t k => f k t) (fun t k => h k t) s

theorem State.when_keeps (s : State) (c : Bool) (f : State → State) (h : c = true → Keeps s (f s)) : Keeps s (s.when c f) := by
  unfold State.when
  split
  · rename_i e; exact h e
  · exact Keeps.refl s

theorem State.live_keeps {r s t : State} (k : Nat) (h : Keeps r s) (i : Keeps r t) : Keeps r (s.live k t) := by
  unfold State.live
  exact keeps_ite i h

theorem State.setReg_keeps (s : State) (r : Reg) (i : Nat) (v : W32) : Keeps s (s.setReg r i v) :=
  keeps_regs s _ (s.setReg_regsWf r i v)

theorem State.setFld_keeps (s : State) (f : Fld) (i n : Nat) : Keeps s (s.setFld f i n) := s.setReg_keeps _ _ _

theorem State.setFlag_keeps (s : State) (f : Fld) (i : Nat) (b : Bool) : Keeps s (s.setFlag f i b) := s.setFld_keeps _ _ _

theorem State.bumpSat_keeps (s : State) (f : Fld) (i : Nat) : Keeps s (s.bumpSat f i) := s.setFld_keeps _ _ _

theorem State.bumpWrap_keeps (s : State) (f : Fld) (i : Nat) : Keeps s (s.bumpWrap f i) := s.setFld_keeps _ _ _

theorem State.setPair_keeps (s : State) (lo hi : Reg) (i n : Nat) : Keeps s (s.setPair lo hi i n) :=
  (s.setReg_keeps lo i _).trans (State.setReg_keeps _ hi i _)

theorem State.dropRegs_keeps (s : State) (ds : List Dom) : Keeps s (s.dropRegs ds) := keeps_regs s _ (s.dropRegs_regsWf ds)

theorem State.setByte_keeps (s : State) (a : Nat) (v : Byte) : Keeps s (s.setByte a v) :=
  ⟨⟨rfl, id, s.setByte_memWf a v, List.prefix_refl _, List.prefix_refl _, Nat.le_refl _, rfl, rfl⟩, rfl⟩

theorem State.setBytes_keeps (s : State) (a : Nat) (l : List Byte) : Keeps s (s.setBytes a l) := by
  induction l generalizing s a with
  | nil => exact Keeps.refl s
  | cons b t ih => exact (s.setByte_keeps a b).trans (ih _ _)

theorem State.setLe_keeps (s : State) (a n v : Nat) : Keeps s (s.setLe a n v) := s.setBytes_keeps a _

theorem State.report_keeps (s : State) (c n : Nat) : Keeps s (s.report c n) :=
  ⟨⟨rfl, id, id, List.prefix_append _ _, List.prefix_refl _, Nat.le_refl _, rfl, rfl⟩, rfl⟩

theorem State.send_keeps (s : State) (v : Channel) (d : Nat) (b : List Byte) : Keeps s (s.send v d b) :=
  ⟨⟨rfl, id, id, List.prefix_refl _, List.prefix_append _ _, Nat.le_refl _, rfl, rfl⟩, rfl⟩

theorem State.tick_keeps (s : State) : Keeps s s.tick :=
  ⟨⟨rfl, id, id, List.prefix_refl _, List.prefix_refl _, Nat.le_succ _, rfl, rfl⟩, rfl⟩

theorem State.count_keeps (s : State) (b k n : Nat) : Keeps s (s.count b k n) := (keeps_other s s ..).2 (Keeps.refl s)

end Machine

end Sys2Proof
end

