-- ==== Sys2Proof/Laws/KeepsOps.lean ====
section
/-! SUPPORT. What each remaining operation of Machine/Ops.lean keeps of the state. -/

namespace Sys2Proof.Machine

open Sys2Proof

theorem State.keepingSeal_keeps {r : State} (s t : State) (h : Keeps r t) : Keeps r (s.keepingSeal t) := by
  unfold State.keepingSeal
  exact h.trans (State.setFld_keeps _ _ _ _)

theorem State.tagLost_keeps (s : State) (source : Nat) : Keeps s (s.tagLost source) := by
  unfold State.tagLost
  try dsimp only
  with_reducible repeat' (first
    | simp only [keeps_other, keeps_sys]
    | apply Keeps.refl
    | apply (State.report_keeps _ _ _).after
    | apply (State.count_keeps _ _ _ _).after
    | apply keeps_ite
    | split
    | intro _)

theorem State.tagIssue_keeps (s : State) (source stroke pc : Nat) : Keeps s (s.tagIssue source stroke pc) := by
  unfold State.tagIssue
  try dsimp only
  with_reducible repeat' (first
    | simp only [keeps_other, keeps_sys]
    | apply Keeps.refl
    | apply (State.count_keeps _ _ _ _).after
    | apply (State.tagLost_keeps _ _).after
    | apply keeps_ite
    | split
    | intro _)

theorem State.tagDiscard_keeps (s : State) (source : Nat) : Keeps s (s.tagDiscard source) := by
  unfold State.tagDiscard
  try dsimp only
  with_reducible repeat' (first
    | simp only [keeps_other, keeps_sys]
    | apply Keeps.refl
    | apply (State.tagLost_keeps _ _).after
    | apply keeps_ite
    | split
    | intro _)

theorem State.busError_keeps (s : State) (w : Initiator) (a : Nat) (write : Bool) (code : Nat) : Keeps s (s.busError w a write code) := by
  unfold State.busError
  try dsimp only
  with_reducible repeat' (first
    | simp only [keeps_other, keeps_sys]
    | apply Keeps.refl
    | apply (State.setFld_keeps _ _ _ _).after
    | apply (State.bumpSat_keeps _ _ _).after
    | apply (State.setPair_keeps _ _ _ _ _).after
    | apply (State.count_keeps _ _ _ _).after
    | apply keeps_ite
    | split
    | intro _)

end Sys2Proof.Machine
end

