-- ==== Sys2Proof/Laws/KeepsPoints.lean ====
section
/-! SUPPORT. What each operation of Machine/Points.lean keeps of the state. -/

namespace Sys2Proof.Machine

open Sys2Proof

theorem State.writerErr_keeps (s : State) (p : Nat) : Keeps s (s.writerErr p) := by
  unfold State.writerErr
  try dsimp only
  with_reducible repeat' (first
    | simp only [keeps_other, keeps_sys]
    | apply Keeps.refl
    | apply (State.bumpSat_keeps _ _ _).after
    | apply (State.report_keeps _ _ _).after
    | apply keeps_ite
    | split
    | intro _)

theorem State.storePoint_keeps (s : State) (w : PointWrite) : Keeps s (s.storePoint w) := by
  unfold State.storePoint
  try dsimp only
  with_reducible repeat' (first
    | simp only [keeps_other, keeps_sys]
    | apply Keeps.refl
    | apply (State.count_keeps _ _ _ _).after
    | apply keeps_ite
    | split
    | intro _)

theorem State.writePoint_keeps (s : State) (w : PointWrite) : Keeps s (s.writePoint w) := by
  unfold State.writePoint
  try dsimp only
  with_reducible repeat' (first
    | simp only [keeps_other, keeps_sys]
    | apply Keeps.refl
    | apply (State.writerErr_keeps _ _).after
    | apply (State.storePoint_keeps _ _).after
    | apply keeps_ite
    | split
    | intro _)

theorem State.writeNum_keeps (s : State) (cls p : Nat) (x : Dy) (qual : Nat) : Keeps s (s.writeNum cls p x qual) := by
  unfold State.writeNum
  try dsimp only
  with_reducible repeat' (first
    | apply Keeps.refl
    | apply (State.writePoint_keeps _ _).after
    | split
    | intro _)

theorem State.markPoint_keeps (s : State) (p q : Nat) : Keeps s (s.markPoint p q) := by
  unfold State.markPoint
  try dsimp only
  with_reducible repeat' (first
    | simp only [keeps_other, keeps_sys]
    | apply Keeps.refl
    | split
    | intro _)

theorem State.ringIrq_keeps (s : State) (n : Nat) : Keeps s (s.ringIrq n) := by
  unfold State.ringIrq
  try dsimp only
  with_reducible repeat' (first
    | apply Keeps.refl
    | apply (State.setFlag_keeps _ _ _ _).after
    | split
    | intro _)

theorem State.ringLost_keeps (s : State) (n : Nat) : Keeps s (s.ringLost n) := by
  unfold State.ringLost
  try dsimp only
  with_reducible repeat' (first
    | simp only [keeps_other, keeps_sys]
    | apply Keeps.refl
    | apply (State.bumpSat_keeps _ _ _).after
    | apply (State.report_keeps _ _ _).after
    | apply (State.count_keeps _ _ _ _).after
    | apply keeps_ite
    | split
    | intro _)

theorem State.ringPush_keeps (s : State) (n : Nat) (entry : List Byte) : Keeps s (s.ringPush n entry) := by
  unfold State.ringPush
  try dsimp only
  with_reducible repeat' (first
    | apply Keeps.refl
    | apply (State.setFld_keeps _ _ _ _).after
    | apply (State.setBytes_keeps _ _ _).after
    | apply (State.count_keeps _ _ _ _).after
    | apply (State.ringIrq_keeps _ _).after
    | split
    | intro _)

theorem State.ringDeliver_keeps (s : State) (n : Nat) (entry : List Byte) : Keeps s (s.ringDeliver n entry) := by
  unfold State.ringDeliver
  try dsimp only
  with_reducible repeat' (first
    | apply Keeps.refl
    | apply (State.ringLost_keeps _ _).after
    | apply (State.ringPush_keeps _ _ _).after
    | apply keeps_ite
    | split
    | intro _)

theorem State.ringPop_keeps (s : State) (n : Nat) : Keeps s (s.ringPop n) := by
  unfold State.ringPop
  try dsimp only
  with_reducible repeat' (first
    | apply Keeps.refl
    | apply (State.setFld_keeps _ _ _ _).after
    | split
    | intro _)

theorem State.loadRings_keeps (s : State) (m : Image) (all : Bool) : Keeps s (s.loadRings m all) := by
  unfold State.loadRings
  try dsimp only
  with_reducible repeat' (first
    | simp only [keeps_other, keeps_sys]
    | apply Keeps.refl
    | apply (State.setReg_keeps _ _ _ _).after
    | apply (State.setFld_keeps _ _ _ _).after
    | apply (State.setPair_keeps _ _ _ _ _).after
    | apply keeps_ite
    | apply (State.each_keeps _ _ _ ?_).after
    | split
    | intro _)

theorem State.violation_keeps (s : State) (group code : Nat) (port : Option Nat) (slot : Nat) (sender : Option Nat) (msg : List Byte) (detail : Option Nat) (key : Nat) : Keeps s (s.violation group code port slot sender msg detail key) := by
  unfold State.violation
  try dsimp only
  with_reducible repeat' (first
    | simp only [keeps_other, keeps_sys]
    | apply Keeps.refl
    | apply (State.bumpSat_keeps _ _ _).after
    | apply (State.report_keeps _ _ _).after
    | apply (State.tick_keeps _).after
    | apply (State.count_keeps _ _ _ _).after
    | apply (State.ringDeliver_keeps _ _ _).after
    | apply keeps_ite
    | split
    | intro _)

end Sys2Proof.Machine
end

