-- ==== Sys2Proof/Laws/KeepsStructure.lean ====
section
/-! SUPPORT. What each operation of Machine/Structure.lean keeps of the state. -/

namespace Sys2Proof.Machine

open Sys2Proof

theorem State.tenonViolation_keeps (s : State) (c code : Nat) (msg : List Byte) : Keeps s (s.tenonViolation c code msg) := by
  unfold State.tenonViolation
  try dsimp only
  with_reducible repeat' (first
    | simp only [keeps_other, keeps_sys]
    | apply Keeps.refl
    | apply (State.violation_keeps _ _ _ _ _ _ _ _ _).after
    | split
    | intro _)

end Sys2Proof.Machine
end

