-- ==== Sys2Proof/Laws/KeepsMemory.lean ====
section
/-! SUPPORT. What each operation of Machine/Memory.lean keeps of the state. -/

namespace Sys2Proof.Machine

open Sys2Proof

theorem State.fetch_keeps (s : State) (w : Initiator) (a n : Nat) : Keeps s ((s.fetch w a n).2) := by
  unfold State.fetch
  try dsimp only
  with_reducible repeat' (first
    | simp only [keeps_other, keeps_sys]
    | apply Keeps.refl
    | apply (State.busError_keeps _ _ _ _ _).after
    | apply keeps_ite_snd
    | refine keeps_of_snd (by assumption) ?_
    | split
    | intro _)

theorem State.unitWrite_keeps (s : State) (w : Initiator) (a : Nat) (b : List Byte) : Keeps s ((s.unitWrite w a b).2) := by
  unfold State.unitWrite
  try dsimp only
  with_reducible repeat' (first
    | simp only [keeps_other, keeps_sys]
    | apply Keeps.refl
    | apply (State.setBytes_keeps _ _ _).after
    | apply (State.busError_keeps _ _ _ _ _).after
    | apply keeps_ite_snd
    | refine keeps_of_snd (by assumption) ?_
    | split
    | intro _)

theorem State.ringTake_keeps (s : State) (n : Nat) : Keeps s ((s.ringTake n).2) := by
  unfold State.ringTake
  try dsimp only
  with_reducible repeat' (first
    | apply Keeps.refl
    | apply (State.ringPop_keeps _ _).after
    | apply (State.fetch_keeps _ _ _ _).after
    | apply keeps_ite_snd
    | split
    | intro _)

end Sys2Proof.Machine
end

