-- ==== Sys2Proof/Laws/KeepsCoffer.lean ====
section
/-! SUPPORT. What each operation of Machine/Coffer.lean keeps of the state. -/

namespace Sys2Proof.Machine

open Sys2Proof

theorem keeps_ite_st {r : State} {a b : KeyAns} {c : Prop} {_ : Decidable c} (h : Keeps r a.st) (k : Keeps r b.st) :
    Keeps r (if c then a else b).st := by
  split
  · exact h
  · exact k

theorem KeyAns.counted_keeps {s : State} (r : KeyAns) (alg : Nat) (h : Keeps s r.st) : Keeps s (r.counted alg).st := by
  unfold KeyAns.counted
  split
  · exact h.trans (State.count_keeps _ _ _ _)
  · exact h

theorem State.onSlot_keeps (s : State) (n : Nat) (f : KeySlot → KeySlot) : Keeps s (s.onSlot n f) := by
  unfold State.onSlot
  try dsimp only
  with_reducible repeat' (first
    | simp only [keeps_other, keeps_sys]
    | apply Keeps.refl
    | split
    | intro _)

theorem State.showPubKeys_keeps (s : State) : Keeps s (s.showPubKeys) := by
  unfold State.showPubKeys
  try dsimp only
  with_reducible repeat' (first
    | apply Keeps.refl
    | apply (State.setFld_keeps _ _ _ _).after
    | split
    | intro _)

theorem State.emptySlot_keeps (s : State) (n : Nat) : Keeps s (s.emptySlot n) := by
  unfold State.emptySlot
  try dsimp only
  with_reducible repeat' (first
    | apply Keeps.refl
    | apply (State.setReg_keeps _ _ _ _).after
    | apply (State.setFld_keeps _ _ _ _).after
    | apply (State.onSlot_keeps _ _ _).after
    | apply keeps_ite
    | split
    | intro _)

theorem refuse_keeps (s : State) (code : Nat) : Keeps s ((refuse s code).st) := by
  unfold refuse
  try dsimp only
  with_reducible repeat' (first
    | apply Keeps.refl
    | split
    | intro _)

theorem accept_keeps (s : State) (out : List Byte) : Keeps s ((accept s out).st) := by
  unfold accept
  try dsimp only
  with_reducible repeat' (first
    | apply Keeps.refl
    | split
    | intro _)

theorem State.newNonce_keeps (s : State) : Keeps s (s.newNonce) := by
  unfold State.newNonce
  try dsimp only
  with_reducible repeat' (first
    | apply Keeps.refl
    | apply (State.setReg_keeps _ _ _ _).after
    | apply (State.tick_keeps _).after
    | apply (State.each_keeps _ _ _ ?_).after
    | split
    | intro _)

theorem State.install_keeps (s : State) (target : Nat) (k : NewKey) (signed : Bool) : Keeps s ((s.install target k signed).st) := by
  unfold State.install
  try dsimp only
  with_reducible repeat' (first
    | apply Keeps.refl
    | apply (State.setReg_keeps _ _ _ _).after
    | apply (State.setFld_keeps _ _ _ _).after
    | apply (State.tick_keeps _).after
    | apply (State.onSlot_keeps _ _ _).after
    | apply (State.showPubKeys_keeps _).after
    | apply (refuse_keeps _ _).after
    | apply (accept_keeps _ _).after
    | apply (State.newNonce_keeps _).after
    | apply keeps_ite_st
    | split
    | intro _)

theorem State.create_keeps (s : State) (island : Nat) (f : Frame) (inBody : Bool) (at_ : Nat) (make : List Byte → Nat × NewKey) : Keeps s ((s.create island f inBody at_ make).st) := by
  unfold State.create
  try dsimp only
  with_reducible repeat' (first
    | apply Keeps.refl
    | apply (refuse_keeps _ _).after
    | apply (State.install_keeps _ _ _ _).after
    | apply keeps_ite_st
    | split
    | intro _)

theorem State.destroy_keeps (s : State) (island : Nat) (f : Frame) : Keeps s ((s.destroy island f).st) := by
  unfold State.destroy
  try dsimp only
  with_reducible repeat' (first
    | apply Keeps.refl
    | apply (State.setFld_keeps _ _ _ _).after
    | apply (State.report_keeps _ _ _).after
    | apply (State.showPubKeys_keeps _).after
    | apply (State.emptySlot_keeps _ _).after
    | apply (refuse_keeps _ _).after
    | apply (accept_keeps _ _).after
    | apply keeps_ite_st
    | apply (keeps_foldl_fst _ _ ?_ _).after
    | apply (keeps_foldl_snd _ _ ?_ _).after
    | apply (keeps_foldl _ _ ?_ _).after
    | split
    | intro _)

theorem State.exportBlob_keeps (s : State) (island : Nat) (f : Frame) : Keeps s ((s.exportBlob island f).st) := by
  unfold State.exportBlob
  try dsimp only
  with_reducible repeat' (first
    | simp only [keeps_other, keeps_sys]
    | apply Keeps.refl
    | apply (State.tick_keeps _).after
    | apply (refuse_keeps _ _).after
    | apply (accept_keeps _ _).after
    | apply keeps_ite_st
    | refine keeps_of_snd (by assumption) ?_
    | split
    | intro _)

theorem State.getPublic_keeps (s : State) (f : Frame) : Keeps s ((s.getPublic f).st) := by
  unfold State.getPublic
  try dsimp only
  with_reducible repeat' (first
    | apply Keeps.refl
    | apply (refuse_keeps _ _).after
    | apply (accept_keeps _ _).after
    | apply keeps_ite_st
    | split
    | intro _)

theorem State.attest_keeps (s : State) (island : Nat) (f : Frame) : Keeps s ((s.attest island f).st) := by
  unfold State.attest
  try dsimp only
  with_reducible repeat' (first
    | simp only [keeps_other, keeps_sys]
    | apply Keeps.refl
    | apply (State.tick_keeps _).after
    | apply (refuse_keeps _ _).after
    | apply (accept_keeps _ _).after
    | apply keeps_ite_st
    | refine keeps_of_snd (by assumption) ?_
    | split
    | intro _)

theorem State.getCert_keeps (s : State) (f : Frame) : Keeps s ((s.getCert f).st) := by
  unfold State.getCert
  try dsimp only
  with_reducible repeat' (first
    | apply Keeps.refl
    | apply (refuse_keeps _ _).after
    | apply (accept_keeps _ _).after
    | apply keeps_ite_st
    | split
    | intro _)

theorem State.signFrame_keeps (s : State) (island : Nat) (f : Frame) : Keeps s ((s.signFrame island f).st) := by
  unfold State.signFrame
  try dsimp only
  with_reducible repeat' (first
    | simp only [keeps_other, keeps_sys]
    | apply Keeps.refl
    | apply (State.tick_keeps _).after
    | apply (refuse_keeps _ _).after
    | apply (accept_keeps _ _).after
    | refine keeps_of_snd (by assumption) ?_
    | split
    | intro _)

theorem State.verifyFrame_keeps (s : State) (island : Nat) (f : Frame) : Keeps s ((s.verifyFrame island f).st) := by
  unfold State.verifyFrame
  try dsimp only
  with_reducible repeat' (first
    | apply Keeps.refl
    | apply (refuse_keeps _ _).after
    | apply (accept_keeps _ _).after
    | apply keeps_ite_st
    | split
    | intro _)

theorem State.sealFrame_keeps (s : State) (island : Nat) (f : Frame) : Keeps s ((s.sealFrame island f).st) := by
  unfold State.sealFrame
  try dsimp only
  with_reducible repeat' (first
    | simp only [keeps_other, keeps_sys]
    | apply Keeps.refl
    | apply (refuse_keeps _ _).after
    | apply (accept_keeps _ _).after
    | apply keeps_ite_st
    | refine keeps_of_snd (by assumption) ?_
    | split
    | intro _)

theorem State.openFrame_keeps (s : State) (island : Nat) (f : Frame) : Keeps s ((s.openFrame island f).st) := by
  unfold State.openFrame
  try dsimp only
  with_reducible repeat' (first
    | simp only [keeps_other, keeps_sys]
    | apply Keeps.refl
    | apply (refuse_keeps _ _).after
    | apply (accept_keeps _ _).after
    | apply keeps_ite_st
    | refine keeps_of_snd (by assumption) ?_
    | split
    | intro _)

theorem State.hashFrame_keeps (s : State) (f : Frame) : Keeps s ((s.hashFrame f).st) := by
  unfold State.hashFrame
  try dsimp only
  with_reducible repeat' (first
    | apply Keeps.refl
    | apply (refuse_keeps _ _).after
    | apply (accept_keeps _ _).after
    | apply keeps_ite_st
    | split
    | intro _)

theorem State.stageKey_keeps (s : State) (n : Nat) (k : NewKey) (rotate : Bool) : Keeps s ((s.stageKey n k rotate).st) := by
  unfold State.stageKey
  try dsimp only
  with_reducible repeat' (first
    | simp only [keeps_other, keeps_sys]
    | apply Keeps.refl
    | apply (State.setFld_keeps _ _ _ _).after
    | apply (State.tick_keeps _).after
    | apply (State.onSlot_keeps _ _ _).after
    | apply (State.showPubKeys_keeps _).after
    | apply (refuse_keeps _ _).after
    | apply (accept_keeps _ _).after
    | apply keeps_ite_st
    | split
    | intro _)

theorem State.stageFrame_keeps (s : State) (island : Nat) (f : Frame) : Keeps s ((s.stageFrame island f).st) := by
  unfold State.stageFrame
  try dsimp only
  with_reducible repeat' (first
    | simp only [keeps_other, keeps_sys]
    | apply Keeps.refl
    | apply (refuse_keeps _ _).after
    | apply (State.newNonce_keeps _).after
    | apply (State.stageKey_keeps _ _ _ _).after
    | apply keeps_ite_st
    | refine keeps_of_snd (by assumption) ?_
    | split
    | intro _)

theorem State.commitFrame_keeps (s : State) (f : Frame) : Keeps s ((s.commitFrame f).st) := by
  unfold State.commitFrame
  try dsimp only
  with_reducible repeat' (first
    | simp only [keeps_other, keeps_sys]
    | apply Keeps.refl
    | apply (State.onSlot_keeps _ _ _).after
    | apply (refuse_keeps _ _).after
    | apply (accept_keeps _ _).after
    | apply keeps_ite_st
    | split
    | intro _)

theorem State.abortFrame_keeps (s : State) (f : Frame) : Keeps s ((s.abortFrame f).st) := by
  unfold State.abortFrame
  try dsimp only
  with_reducible repeat' (first
    | simp only [keeps_other, keeps_sys]
    | apply Keeps.refl
    | apply (State.setFld_keeps _ _ _ _).after
    | apply (State.onSlot_keeps _ _ _).after
    | apply (State.showPubKeys_keeps _).after
    | apply (refuse_keeps _ _).after
    | apply (accept_keeps _ _).after
    | apply keeps_ite_st
    | split
    | intro _)

theorem State.swapKey_keeps (s : State) (n : Nat) : Keeps s (s.swapKey n) := by
  unfold State.swapKey
  try dsimp only
  with_reducible repeat' (first
    | simp only [keeps_other, keeps_sys]
    | apply Keeps.refl
    | apply (State.setReg_keeps _ _ _ _).after
    | apply (State.setFld_keeps _ _ _ _).after
    | apply (State.setFlag_keeps _ _ _ _).after
    | apply (State.bumpSat_keeps _ _ _).after
    | apply (State.report_keeps _ _ _).after
    | apply (State.onSlot_keeps _ _ _).after
    | apply (State.showPubKeys_keeps _).after
    | apply keeps_ite
    | refine keeps_of_snd (by assumption) ?_
    | split
    | intro _)

theorem State.endGrace_keeps (s : State) (n : Nat) : Keeps s (s.endGrace n) := by
  unfold State.endGrace
  try dsimp only
  with_reducible repeat' (first
    | simp only [keeps_other, keeps_sys]
    | apply Keeps.refl
    | apply (State.setFld_keeps _ _ _ _).after
    | apply (State.onSlot_keeps _ _ _).after
    | apply (State.showPubKeys_keeps _).after
    | split
    | intro _)

theorem State.endDebug_keeps (s : State) : Keeps s (s.endDebug) := by
  unfold State.endDebug
  try dsimp only
  with_reducible repeat' (first
    | apply Keeps.refl
    | apply (State.setReg_keeps _ _ _ _).after
    | apply (State.setFld_keeps _ _ _ _).after
    | apply keeps_ite
    | split
    | intro _)

theorem State.lcStep_keeps (s : State) (f : Frame) : Keeps s ((s.lcStep f).st) := by
  unfold State.lcStep
  try dsimp only
  with_reducible repeat' (first
    | apply Keeps.refl
    | apply (State.setFld_keeps _ _ _ _).after
    | apply (refuse_keeps _ _).after
    | apply (accept_keeps _ _).after
    | apply (State.newNonce_keeps _).after
    | apply (State.endDebug_keeps _).after
    | apply keeps_ite_st
    | split
    | intro _)

theorem State.eraseKeys_keeps (s : State) : Keeps s (s.eraseKeys) := by
  unfold State.eraseKeys
  try dsimp only
  with_reducible repeat' (first
    | apply Keeps.refl
    | apply (State.setFld_keeps _ _ _ _).after
    | apply (State.report_keeps _ _ _).after
    | apply (State.showPubKeys_keeps _).after
    | apply (State.emptySlot_keeps _ _).after
    | apply keeps_ite
    | apply (State.each_keeps _ _ _ ?_).after
    | split
    | intro _)

theorem State.rotate_keeps (s : State) (f : Frame) : Keeps s ((s.rotate f).st) := by
  unfold State.rotate
  try dsimp only
  with_reducible repeat' (first
    | simp only [keeps_other, keeps_sys]
    | apply Keeps.refl
    | apply (State.onSlot_keeps _ _ _).after
    | apply (refuse_keeps _ _).after
    | apply (accept_keeps _ _).after
    | apply (State.newNonce_keeps _).after
    | apply (State.stageKey_keeps _ _ _ _).after
    | apply keeps_ite_st
    | split
    | intro _)

theorem State.debugUnlock_keeps (s : State) (f : Frame) : Keeps s ((s.debugUnlock f).st) := by
  unfold State.debugUnlock
  try dsimp only
  with_reducible repeat' (first
    | simp only [keeps_other, keeps_sys]
    | apply Keeps.refl
    | apply (State.setFld_keeps _ _ _ _).after
    | apply (State.report_keeps _ _ _).after
    | apply (refuse_keeps _ _).after
    | apply (accept_keeps _ _).after
    | apply (State.newNonce_keeps _).after
    | apply keeps_ite_st
    | split
    | intro _)

theorem State.channelFrame_keeps (s : State) (c : Nat) : Keeps s (s.channelFrame c).2 := by
  unfold State.channelFrame
  exact keeps_ite_snd (State.fetch_keeps _ _ _ _) (Keeps.refl s)

theorem State.channelAnswer_keeps {s' : State} (s : State) (c : Nat) (f : Frame) (r : KeyAns) (h : Keeps s' s) (k : Keeps s' r.st) :
    Keeps s' (s.channelAnswer c f r) := by
  unfold State.channelAnswer
  dsimp only
  with_reducible repeat' (first
    | exact h
    | exact k
    | apply (State.setFld_keeps _ _ _ _).after
    | apply (State.unitWrite_keeps _ _ _ _).after
    | apply keeps_ite)

theorem State.rooted_keeps {r : State} (s : State) (opcode : Nat) (a : KeyAns) (g : Keeps r s) (h : Keeps r a.st) :
    Keeps r (s.rooted opcode a).st := by
  unfold State.rooted
  split
  · exact g
  · exact h -- args 3

theorem State.serveChannel_keeps {r : State} (s : State) (c opcode : Nat) (op : Nat → Frame → KeyAns) (x : Option Frame)
    (g : Keeps r s) (h : ∀ i f, Keeps r (op i f).st) : Keeps r (s.serveChannel c opcode op x) := by
  cases x <;> dsimp only [State.serveChannel] <;> with_reducible repeat' (first
    | exact g
    | apply h
    | apply (refuse_keeps _ _).after
    | apply KeyAns.counted_keeps
    | apply State.rooted_keeps
    | apply (State.setFld_keeps _ _ _ _).after
    | apply State.channelAnswer_keeps
    | apply keeps_ite
    | apply keeps_ite_st)

theorem State.servePath_keeps (s : State) (island opcode : Nat) (op : Nat → Frame → KeyAns) (x : Option Frame)
    (h : ∀ i f, Keeps s (op i f).st) : Keeps s (s.servePath island opcode op x) := by
  cases x <;> dsimp only [State.servePath] <;> with_reducible repeat' (first
    | exact Keeps.refl _
    | simp only [keeps_other]
    | apply h
    | apply KeyAns.counted_keeps
    | apply State.rooted_keeps
    | apply (State.setFld_keeps _ _ _ _).after
    | apply keeps_ite)

theorem State.serve_keeps (s : State) (q : KeyReq) (opcode : Nat) (op : Nat → Frame → KeyAns)
    (h : ∀ i f, Keeps s (op i f).st) : Keeps s (s.serve q opcode op) := by
  unfold State.serve
  split
  · exact Keeps.refl s
  · cases q with
    | channel c => exact State.serveChannel_keeps _ _ _ _ _ (State.channelFrame_keeps s c) h
    | path island b => exact State.live_keeps _ (Keeps.refl s) (State.servePath_keeps _ _ _ _ _ h)

theorem State.channelGo_keeps (s : State) (c : Nat) : Keeps s (s.channelGo c) := by
  unfold State.channelGo
  try dsimp only
  with_reducible repeat' (first
    | simp only [keeps_other, keeps_sys]
    | apply Keeps.refl
    | apply (State.setFld_keeps _ _ _ _).after
    | apply (State.report_keeps _ _ _).after
    | apply (State.channelFrame_keeps _ _).after
    | apply keeps_ite
    | refine keeps_of_snd (by assumption) ?_
    | split
    | intro _)

theorem State.cofferHeat_keeps (s : State) : Keeps s (s.cofferHeat) := by
  unfold State.cofferHeat
  try dsimp only
  with_reducible repeat' (first
    | apply Keeps.refl
    | apply (State.setFld_keeps _ _ _ _).after
    | apply keeps_ite
    | apply (State.each_keeps _ _ _ ?_).after
    | split
    | intro _)

end Sys2Proof.Machine
end

