-- ==== Sys2Proof/Laws/KeepsForge.lean ====
section
/-! SUPPORT. What each operation of Machine/Forge.lean keeps of the state. -/

namespace Sys2Proof.Machine

open Sys2Proof

theorem State.onPhase_keeps (s : State) (p : Nat) (f : Phase → Phase) : Keeps s (s.onPhase p f) := by
  unfold State.onPhase
  try dsimp only
  with_reducible repeat' (first
    | simp only [keeps_other, keeps_sys]
    | apply Keeps.refl
    | split
    | intro _)

theorem State.onBay_keeps (s : State) (b : Nat) (f : Bay → Bay) : Keeps s (s.onBay b f) := by
  unfold State.onBay
  try dsimp only
  with_reducible repeat' (first
    | simp only [keeps_other, keeps_sys]
    | apply Keeps.refl
    | split
    | intro _)

theorem State.countBay_keeps (s : State) (b : Nat) : Keeps s (s.countBay b) := by
  unfold State.countBay
  try dsimp only
  with_reducible repeat' (first
    | apply Keeps.refl
    | apply (State.setFld_keeps _ _ _ _).after
    | apply keeps_ite
    | split
    | intro _)

theorem State.gatesOff_keeps (s : State) (p : Nat) : Keeps s (s.gatesOff p) := by
  unfold State.gatesOff
  try dsimp only
  with_reducible repeat' (first
    | simp only [keeps_other, keeps_sys]
    | apply Keeps.refl
    | apply (State.onPhase_keeps _ _ _).after
    | split
    | intro _)

theorem State.faultBay_keeps (s : State) (b cause : Nat) : Keeps s (s.faultBay b cause) := by
  unfold State.faultBay
  try dsimp only
  with_reducible repeat' (first
    | simp only [keeps_other, keeps_sys]
    | apply Keeps.refl
    | apply (State.setFld_keeps _ _ _ _).after
    | apply (State.report_keeps _ _ _).after
    | apply (State.onBay_keeps _ _ _).after
    | apply (State.countBay_keeps _ _).after
    | apply (State.gatesOff_keeps _ _).after
    | apply keeps_ite
    | apply (State.each_keeps _ _ _ ?_).after
    | split
    | intro _)

theorem State.orderFault_keeps (s : State) (b : Nat) : Keeps s (s.orderFault b) := by
  unfold State.orderFault
  try dsimp only
  with_reducible repeat' (first
    | simp only [keeps_other, keeps_sys]
    | apply Keeps.refl
    | apply (State.onBay_keeps _ _ _).after
    | split
    | intro _)

theorem State.setDrop_keeps (s : State) (p : Nat) (d : Bool) : Keeps s (s.setDrop p d) := by
  unfold State.setDrop
  try dsimp only
  with_reducible repeat' (first
    | apply Keeps.refl
    | apply (State.setFld_keeps _ _ _ _).after
    | apply (State.setFlag_keeps _ _ _ _).after
    | apply keeps_ite
    | split
    | intro _)

theorem State.dropPhase_keeps (s : State) (p cause code : Nat) : Keeps s (s.dropPhase p cause code) := by
  unfold State.dropPhase
  try dsimp only
  with_reducible repeat' (first
    | simp only [keeps_other, keeps_sys]
    | apply Keeps.refl
    | apply (State.setFld_keeps _ _ _ _).after
    | apply (State.report_keeps _ _ _).after
    | apply (State.onBay_keeps _ _ _).after
    | apply (State.countBay_keeps _ _).after
    | apply (State.gatesOff_keeps _ _).after
    | apply (State.faultBay_keeps _ _ _).after
    | apply (State.setDrop_keeps _ _ _).after
    | apply keeps_ite
    | split
    | intro _)

theorem State.respread_keeps (s : State) (b : Nat) : Keeps s (s.respread b) := by
  unfold State.respread
  try dsimp only
  with_reducible repeat' (first
    | simp only [keeps_other, keeps_sys]
    | apply Keeps.refl
    | apply (State.onPhase_keeps _ _ _).after
    | apply (State.onBay_keeps _ _ _).after
    | apply (State.countBay_keeps _ _).after
    | apply keeps_ite
    | apply (keeps_foldl_fst _ _ ?_ _).after
    | apply (keeps_foldl_snd _ _ ?_ _).after
    | apply (keeps_foldl _ _ ?_ _).after
    | split
    | intro _)

theorem State.setRun_keeps (s : State) (b : Nat) (on : Bool) : Keeps s (s.setRun b on) := by
  unfold State.setRun
  try dsimp only
  with_reducible repeat' (first
    | simp only [keeps_other, keeps_sys]
    | apply Keeps.refl
    | apply (State.setFld_keeps _ _ _ _).after
    | apply (State.setFlag_keeps _ _ _ _).after
    | apply (State.onPhase_keeps _ _ _).after
    | apply (State.onBay_keeps _ _ _).after
    | apply (State.countBay_keeps _ _).after
    | apply keeps_ite
    | apply (State.each_keeps _ _ _ ?_).after
    | split
    | intro _)

theorem State.updateCode_keeps (s : State) (b p : Nat) : Keeps s (s.updateCode b p) := by
  unfold State.updateCode
  try dsimp only
  with_reducible repeat' (first
    | simp only [keeps_other, keeps_sys]
    | apply Keeps.refl
    | apply (State.onPhase_keeps _ _ _).after
    | apply keeps_ite
    | split
    | intro _)

theorem State.moveTrim_keeps (s : State) (p : Nat) (target : Option Rat) : Keeps s (s.moveTrim p target) := by
  unfold State.moveTrim
  try dsimp only
  with_reducible repeat' (first
    | simp only [keeps_other, keeps_sys]
    | apply Keeps.refl
    | apply (State.setFld_keeps _ _ _ _).after
    | apply (State.onPhase_keeps _ _ _).after
    | apply keeps_ite
    | split
    | intro _)

theorem State.trimBay_keeps (s : State) (b : Nat) : Keeps s (s.trimBay b) := by
  unfold State.trimBay
  try dsimp only
  with_reducible repeat' (first
    | simp only [keeps_other, keeps_sys]
    | apply Keeps.refl
    | apply (State.setFld_keeps _ _ _ _).after
    | apply (State.setFlag_keeps _ _ _ _).after
    | apply (State.onPhase_keeps _ _ _).after
    | apply (State.moveTrim_keeps _ _ _).after
    | apply keeps_ite
    | apply (State.each_keeps _ _ _ ?_).after
    | split
    | intro _)

theorem State.reenter_keeps (s : State) (b p : Nat) : Keeps s (s.reenter b p) := by
  unfold State.reenter
  try dsimp only
  with_reducible repeat' (first
    | simp only [keeps_other, keeps_sys]
    | apply Keeps.refl
    | apply (State.setFlag_keeps _ _ _ _).after
    | apply (State.onPhase_keeps _ _ _).after
    | apply (State.onBay_keeps _ _ _).after
    | split
    | intro _)

theorem State.loadStep_keeps (s : State) (b : Nat) : Keeps s (s.loadStep b) := by
  unfold State.loadStep
  try dsimp only
  with_reducible repeat' (first
    | simp only [keeps_other, keeps_sys]
    | apply Keeps.refl
    | apply (State.setFld_keeps _ _ _ _).after
    | apply (State.report_keeps _ _ _).after
    | apply (State.onBay_keeps _ _ _).after
    | apply (State.reenter_keeps _ _ _).after
    | apply (State.each_keeps _ _ _ ?_).after
    | split
    | intro _)

theorem State.shedChoice_keeps (s : State) (b : Nat) : Keeps s (s.shedChoice b) := by
  unfold State.shedChoice
  try dsimp only
  with_reducible repeat' (first
    | simp only [keeps_other, keeps_sys]
    | apply Keeps.refl
    | apply (State.setFld_keeps _ _ _ _).after
    | apply (State.count_keeps _ _ _ _).after
    | apply (State.onBay_keeps _ _ _).after
    | apply (State.reenter_keeps _ _ _).after
    | apply keeps_ite
    | split
    | intro _)

theorem State.forgeFaultBay_keeps (s : State) (b : Nat) : Keeps s (s.forgeFaultBay b) := by
  unfold State.forgeFaultBay
  try dsimp only
  with_reducible repeat' (first
    | simp only [keeps_other, keeps_sys]
    | apply Keeps.refl
    | apply (State.setFld_keeps _ _ _ _).after
    | apply (State.onBay_keeps _ _ _).after
    | apply (State.countBay_keeps _ _).after
    | apply (State.faultBay_keeps _ _ _).after
    | apply keeps_ite
    | split
    | intro _)

theorem State.keepPrior_keeps (s : State) (b : Nat) : Keeps s (s.keepPrior b) := by
  unfold State.keepPrior
  try dsimp only
  with_reducible repeat' (first
    | simp only [keeps_other, keeps_sys]
    | apply Keeps.refl
    | apply (State.onPhase_keeps _ _ _).after
    | apply (State.onBay_keeps _ _ _).after
    | apply (State.each_keeps _ _ _ ?_).after
    | split
    | intro _)

theorem State.forgeBay_keeps (s : State) (b : Nat) : Keeps s (s.forgeBay b) := by
  unfold State.forgeBay
  try dsimp only
  with_reducible repeat' (first
    | simp only [keeps_other, keeps_sys]
    | apply Keeps.refl
    | apply (State.onPhase_keeps _ _ _).after
    | apply (State.onBay_keeps _ _ _).after
    | apply (State.respread_keeps _ _).after
    | apply (State.updateCode_keeps _ _ _).after
    | apply (State.trimBay_keeps _ _).after
    | apply (State.loadStep_keeps _ _).after
    | apply (State.shedChoice_keeps _ _).after
    | apply (State.keepPrior_keeps _ _).after
    | apply keeps_ite
    | apply (State.each_keeps _ _ _ ?_).after
    | split
    | intro _)

theorem State.forgeFaults_keeps (s : State) : Keeps s (s.forgeFaults) := by
  unfold State.forgeFaults
  try dsimp only
  with_reducible repeat' (first
    | apply Keeps.refl
    | apply (State.forgeFaultBay_keeps _ _).after
    | apply keeps_ite
    | apply (State.each_keeps _ _ _ ?_).after
    | split
    | intro _)

theorem State.cutReport_keeps (s : State) : Keeps s (s.cutReport) := by
  unfold State.cutReport
  try dsimp only
  with_reducible repeat' (first
    | apply Keeps.refl
    | apply (State.report_keeps _ _ _).after
    | apply keeps_ite
    | split
    | intro _)

theorem State.forgeMarker_keeps (s : State) : Keeps s (s.forgeMarker) := by
  unfold State.forgeMarker
  try dsimp only
  with_reducible repeat' (first
    | apply Keeps.refl
    | apply (State.forgeBay_keeps _ _).after
    | apply (State.cutReport_keeps _).after
    | apply keeps_ite
    | apply (State.each_keeps _ _ _ ?_).after
    | split
    | intro _)

theorem State.countCut_keeps (s : State) (b : Nat) : Keeps s (s.countCut b) := by
  unfold State.countCut
  try dsimp only
  with_reducible repeat' (first
    | simp only [keeps_other, keeps_sys]
    | apply Keeps.refl
    | apply (State.bumpSat_keeps _ _ _).after
    | apply (State.count_keeps _ _ _ _).after
    | apply (State.onBay_keeps _ _ _).after
    | split
    | intro _)

theorem State.truncate_keeps (s : State) (b : Nat) : Keeps s (s.truncate b) := by
  unfold State.truncate
  try dsimp only
  with_reducible repeat' (first
    | simp only [keeps_other, keeps_sys]
    | apply Keeps.refl
    | apply (State.onPhase_keeps _ _ _).after
    | apply (State.countCut_keeps _ _).after
    | apply keeps_ite
    | apply (State.each_keeps _ _ _ ?_).after
    | split
    | intro _)

theorem State.periodInstant_keeps (s : State) (p : Nat) : Keeps s (s.periodInstant p) := by
  unfold State.periodInstant
  try dsimp only
  with_reducible repeat' (first
    | simp only [keeps_other, keeps_sys]
    | apply Keeps.refl
    | apply (State.setFld_keeps _ _ _ _).after
    | apply (State.onPhase_keeps _ _ _).after
    | apply (State.countCut_keeps _ _).after
    | apply keeps_ite
    | split
    | intro _)

theorem State.seenTrip_keeps (s : State) (b p : Nat) : Keeps s (s.seenTrip b p) := by
  unfold State.seenTrip
  try dsimp only
  with_reducible repeat' (first
    | simp only [keeps_other, keeps_sys]
    | apply Keeps.refl
    | apply (State.onPhase_keeps _ _ _).after
    | apply (State.each_keeps _ _ _ ?_).after
    | split
    | intro _)

theorem State.openTest_keeps (s : State) (b p : Nat) : Keeps s (s.openTest b p) := by
  unfold State.openTest
  try dsimp only
  with_reducible repeat' (first
    | simp only [keeps_other, keeps_sys]
    | apply Keeps.refl
    | apply (State.onPhase_keeps _ _ _).after
    | apply (State.dropPhase_keeps _ _ _ _).after
    | apply keeps_ite
    | split
    | intro _)

theorem State.fastBits_keeps (s : State) (m : Nat) (bits : List Bool) : Keeps s (s.fastBits m bits) := by
  unfold State.fastBits
  try dsimp only
  with_reducible repeat' (first
    | simp only [keeps_other, keeps_sys]
    | apply Keeps.refl
    | apply (keeps_foldl_fst _ _ ?_ _).after
    | apply (keeps_foldl_snd _ _ ?_ _).after
    | apply (keeps_foldl _ _ ?_ _).after
    | split
    | intro _)

theorem State.releaseBay_keeps (s : State) (b : Nat) : Keeps s (s.releaseBay b) := by
  unfold State.releaseBay
  try dsimp only
  with_reducible repeat' (first
    | simp only [keeps_other, keeps_sys]
    | apply Keeps.refl
    | apply (State.report_keeps _ _ _).after
    | apply (State.onBay_keeps _ _ _).after
    | apply keeps_ite
    | split
    | intro _)

theorem State.clearDrop_keeps (s : State) (p : Nat) : Keeps s (s.clearDrop p) := by
  unfold State.clearDrop
  try dsimp only
  with_reducible repeat' (first
    | simp only [keeps_other, keeps_sys]
    | apply Keeps.refl
    | apply (State.setFld_keeps _ _ _ _).after
    | apply (State.report_keeps _ _ _).after
    | apply (State.onBay_keeps _ _ _).after
    | apply (State.countBay_keeps _ _).after
    | apply (State.setDrop_keeps _ _ _).after
    | apply keeps_ite
    | split
    | intro _)

theorem State.bayBack_keeps (s : State) (b : Nat) : Keeps s (s.bayBack b) := by
  unfold State.bayBack
  try dsimp only
  with_reducible repeat' (first
    | simp only [keeps_other, keeps_sys]
    | apply Keeps.refl
    | apply (State.setFld_keeps _ _ _ _).after
    | apply (State.setFlag_keeps _ _ _ _).after
    | apply (State.onPhase_keeps _ _ _).after
    | apply (State.onBay_keeps _ _ _).after
    | apply (State.countBay_keeps _ _).after
    | apply keeps_ite
    | apply (State.each_keeps _ _ _ ?_).after
    | split
    | intro _)

theorem State.forgeKeep_keeps (s : State) : Keeps s (s.forgeKeep) := by
  unfold State.forgeKeep
  try dsimp only
  with_reducible repeat' (first
    | apply Keeps.refl
    | apply (State.bayBack_keeps _ _).after
    | apply (State.each_keeps _ _ _ ?_).after
    | split
    | intro _)

theorem State.forgeLimit_keeps (s : State) : Keeps s (s.forgeLimit) := by
  unfold State.forgeLimit
  try dsimp only
  with_reducible repeat' (first
    | apply Keeps.refl
    | apply (State.faultBay_keeps _ _ _).after
    | apply (State.each_keeps _ _ _ ?_).after
    | split
    | intro _)

end Sys2Proof.Machine
end

