-- ==== Sys2Proof/Laws/KeepsAcquisition.lean ====
section
/-! SUPPORT. What each operation of Machine/Acquisition.lean keeps of the state. -/

namespace Sys2Proof.Machine

open Sys2Proof

theorem State.onConv_keeps (s : State) (n : Nat) (f : Conv → Conv) : Keeps s (s.onConv n f) := by
  unfold State.onConv
  try dsimp only
  with_reducible repeat' (first
    | simp only [keeps_other, keeps_sys]
    | apply Keeps.refl
    | split
    | intro _)

theorem State.countOverrun_keeps (s : State) (w : Work) (bit : Fld) : Keeps s (s.countOverrun w bit) := by
  unfold State.countOverrun
  try dsimp only
  with_reducible repeat' (first
    | simp only [keeps_other, keeps_sys]
    | apply Keeps.refl
    | apply (State.setFlag_keeps _ _ _ _).after
    | split
    | intro _)

theorem State.completed_keeps (s : State) (w : Work) : Keeps s (s.completed w) := by
  unfold State.completed
  try dsimp only
  with_reducible repeat' (first
    | simp only [keeps_other, keeps_sys]
    | apply Keeps.refl
    | split
    | intro _)

theorem State.seqOverrun_keeps (s : State) (n code : Nat) : Keeps s (s.seqOverrun n code) := by
  unfold State.seqOverrun
  try dsimp only
  with_reducible repeat' (first
    | apply Keeps.refl
    | apply (State.setFld_keeps _ _ _ _).after
    | apply (State.bumpSat_keeps _ _ _).after
    | apply (State.report_keeps _ _ _).after
    | apply (State.count_keeps _ _ _ _).after
    | apply (State.countOverrun_keeps _ _ _).after
    | split
    | intro _)

theorem State.runLate_keeps (s : State) (n : Nat) : Keeps s (s.runLate n) := by
  unfold State.runLate
  try dsimp only
  with_reducible repeat' (first
    | simp only [keeps_other, keeps_sys]
    | apply Keeps.refl
    | apply (State.onConv_keeps _ _ _).after
    | apply (State.seqOverrun_keeps _ _ _).after
    | apply keeps_ite
    | split
    | intro _)

theorem State.invalidPoints_keeps (s : State) (n : Nat) : Keeps s (s.invalidPoints n) := by
  unfold State.invalidPoints
  try dsimp only
  with_reducible repeat' (first
    | apply Keeps.refl
    | apply (State.writePoint_keeps _ _).after
    | apply (State.each_keeps _ _ _ ?_).after
    | split
    | intro _)

theorem State.seqStop_keeps (s : State) (n : Nat) : Keeps s (s.seqStop n) := by
  unfold State.seqStop
  try dsimp only
  with_reducible repeat' (first
    | apply Keeps.refl
    | apply (State.setFlag_keeps _ _ _ _).after
    | apply (State.report_keeps _ _ _).after
    | apply (State.orderFault_keeps _ _).after
    | apply (State.invalidPoints_keeps _ _).after
    | apply keeps_ite
    | apply (State.each_keeps _ _ _ ?_).after
    | split
    | intro _)

theorem State.fireSeq_keeps (s : State) (n at_ : Nat) (subst : Bool) : Keeps s (s.fireSeq n at_ subst) := by
  unfold State.fireSeq
  try dsimp only
  with_reducible repeat' (first
    | simp only [keeps_other, keeps_sys]
    | apply Keeps.refl
    | apply (State.setFld_keeps _ _ _ _).after
    | apply (State.bumpSat_keeps _ _ _).after
    | apply (State.report_keeps _ _ _).after
    | apply (State.onConv_keeps _ _ _).after
    | apply (State.seqOverrun_keeps _ _ _).after
    | apply keeps_ite
    | split
    | intro _)

theorem State.firePwm_keeps (s : State) (n at_ : Nat) (subst : Bool) : Keeps s (s.firePwm n at_ subst) := by
  unfold State.firePwm
  try dsimp only
  with_reducible repeat' (first
    | simp only [keeps_other, keeps_sys]
    | apply Keeps.refl
    | apply (State.fireSeq_keeps _ _ _ _).after
    | apply keeps_ite
    | split
    | intro _)

theorem State.softTrig_keeps (s : State) (n at_ : Nat) : Keeps s (s.softTrig n at_) := by
  unfold State.softTrig
  try dsimp only
  with_reducible repeat' (first
    | simp only [keeps_other, keeps_sys]
    | apply Keeps.refl
    | apply (State.fireSeq_keeps _ _ _ _).after
    | apply keeps_ite
    | split
    | intro _)

theorem State.substitute_keeps (s : State) (p sel at_ : Nat) : Keeps s (s.substitute p sel at_) := by
  unfold State.substitute
  try dsimp only
  with_reducible repeat' (first
    | apply Keeps.refl
    | apply (State.firePwm_keeps _ _ _ _).after
    | apply (State.each_keeps _ _ _ ?_).after
    | split
    | intro _)

theorem State.missedOn_keeps (s : State) (p : Nat) : Keeps s (s.missedOn p) := by
  unfold State.missedOn
  try dsimp only
  with_reducible repeat' (first
    | simp only [keeps_other, keeps_sys]
    | apply Keeps.refl
    | apply (State.onPhase_keeps _ _ _).after
    | apply (State.substitute_keeps _ _ _ _).after
    | apply keeps_ite
    | split
    | intro _)

theorem State.beginSlot_keeps (s : State) (n : Nat) (r : Run) (at_ : Nat) : Keeps s (s.beginSlot n r at_) := by
  unfold State.beginSlot
  try dsimp only
  with_reducible repeat' (first
    | simp only [keeps_other, keeps_sys]
    | apply Keeps.refl
    | apply (State.onConv_keeps _ _ _).after
    | apply keeps_ite
    | split
    | intro _)

theorem State.onCheck_keeps (s : State) (k : Nat) (f : PairChk → PairChk) : Keeps s (s.onCheck k f) := by
  unfold State.onCheck
  try dsimp only
  with_reducible repeat' (first
    | simp only [keeps_other, keeps_sys]
    | apply Keeps.refl
    | split
    | intro _)

theorem State.checkTry_keeps (s : State) (k at_ : Nat) : Keeps s (s.checkTry k at_) := by
  unfold State.checkTry
  try dsimp only
  with_reducible repeat' (first
    | simp only [keeps_other, keeps_sys]
    | apply Keeps.refl
    | apply (State.onCheck_keeps _ _ _).after
    | apply keeps_ite
    | split
    | intro _)

theorem State.checkAbort_keeps (s : State) (k : Nat) : Keeps s (s.checkAbort k) := by
  unfold State.checkAbort
  try dsimp only
  with_reducible repeat' (first
    | simp only [keeps_other, keeps_sys]
    | apply Keeps.refl
    | apply (State.bumpSat_keeps _ _ _).after
    | apply (State.onCheck_keeps _ _ _).after
    | apply keeps_ite
    | split
    | intro _)

theorem State.takeRun_keeps (s : State) (n : Nat) (r : Run) (at_ : Nat) : Keeps s (s.takeRun n r at_) := by
  unfold State.takeRun
  try dsimp only
  with_reducible repeat' (first
    | simp only [keeps_other, keeps_sys]
    | apply Keeps.refl
    | apply (State.onConv_keeps _ _ _).after
    | apply (State.beginSlot_keeps _ _ _ _).after
    | split
    | intro _)

theorem State.abortFor_keeps (s : State) (n : Nat) (x r : Run) (at_ : Nat) : Keeps s (s.abortFor n x r at_) := by
  unfold State.abortFor
  try dsimp only
  with_reducible repeat' (first
    | simp only [keeps_other, keeps_sys]
    | apply Keeps.refl
    | apply (State.bumpSat_keeps _ _ _).after
    | apply (State.count_keeps _ _ _ _).after
    | apply (State.onConv_keeps _ _ _).after
    | apply (State.takeRun_keeps _ _ _ _).after
    | split
    | intro _)

theorem State.inputWord_keeps (s : State) (e ofs : Nat) (w : W32) : Keeps s (s.inputWord e ofs w) := by
  unfold State.inputWord
  try dsimp only
  with_reducible repeat' (first
    | simp only [keeps_other, keeps_sys]
    | apply Keeps.refl
    | apply (State.setLe_keeps _ _ _ _).after
    | split
    | intro _)

theorem State.resultPoint_keeps (s : State) (p stroke ofs qual : Nat) (value : Int) (w : W32) : Keeps s (s.resultPoint p stroke ofs qual value w) := by
  unfold State.resultPoint
  try dsimp only
  with_reducible repeat' (first
    | apply Keeps.refl
    | apply (State.writePoint_keeps _ _).after
    | apply keeps_ite
    | split
    | intro _)

theorem State.deliver_keeps (s : State) (x : SlotRec) (r : Run) (qual : Nat) (value : Int) : Keeps s (s.deliver x r qual value) := by
  unfold State.deliver
  try dsimp only
  with_reducible repeat' (first
    | simp only [keeps_other, keeps_sys]
    | apply Keeps.refl
    | apply (State.ringDeliver_keeps _ _ _).after
    | apply (State.onPhase_keeps _ _ _).after
    | apply (State.inputWord_keeps _ _ _ _).after
    | apply (State.resultPoint_keeps _ _ _ _ _ _ _).after
    | split
    | intro _)

theorem State.nextSlot_keeps (s : State) (n : Nat) (r : Run) (at_ : Nat) : Keeps s (s.nextSlot n r at_) := by
  unfold State.nextSlot
  try dsimp only
  with_reducible repeat' (first
    | simp only [keeps_other, keeps_sys]
    | apply Keeps.refl
    | apply (State.setFld_keeps _ _ _ _).after
    | apply (State.onConv_keeps _ _ _).after
    | apply (State.completed_keeps _ _).after
    | apply (State.beginSlot_keeps _ _ _ _).after
    | apply (State.checkTry_keeps _ _ _).after
    | apply keeps_ite
    | split
    | intro _)

theorem State.seqRestart_keeps (s : State) (n : Nat) : Keeps s (s.seqRestart n) := by
  unfold State.seqRestart
  try dsimp only
  with_reducible repeat' (first
    | simp only [keeps_other, keeps_sys]
    | apply Keeps.refl
    | apply keeps_ite
    | split
    | intro _)

theorem State.lpWrite_keeps (s : State) (n : Nat) (lp : Bool) : Keeps s (s.lpWrite n lp) := by
  unfold State.lpWrite
  try dsimp only
  with_reducible repeat' (first
    | apply Keeps.refl
    | apply (State.setFlag_keeps _ _ _ _).after
    | apply (State.report_keeps _ _ _).after
    | apply keeps_ite
    | split
    | intro _)

theorem State.checkDone_keeps (s : State) (k : Nat) (diff : Int) : Keeps s (s.checkDone k diff) := by
  unfold State.checkDone
  try dsimp only
  with_reducible repeat' (first
    | simp only [keeps_other, keeps_sys]
    | apply Keeps.refl
    | apply (State.setFld_keeps _ _ _ _).after
    | apply (State.setFlag_keeps _ _ _ _).after
    | apply (State.onConv_keeps _ _ _).after
    | split
    | intro _)

theorem State.checkMiss_keeps (s : State) (k : Nat) (badA badB : Bool) : Keeps s (s.checkMiss k badA badB) := by
  unfold State.checkMiss
  try dsimp only
  with_reducible repeat' (first
    | apply Keeps.refl
    | apply (State.setFlag_keeps _ _ _ _).after
    | apply (State.bumpSat_keeps _ _ _).after
    | apply (State.report_keeps _ _ _).after
    | apply (State.when_keeps _ _ _ ?_).after
    | split
    | intro _)

theorem State.checkPass_keeps (s : State) (k : Nat) : Keeps s (s.checkPass k) := by
  unfold State.checkPass
  try dsimp only
  with_reducible repeat' (first
    | apply Keeps.refl
    | apply (State.setFld_keeps _ _ _ _).after
    | split
    | intro _)

theorem State.checkResume_keeps (s : State) (k at_ : Nat) : Keeps s (s.checkResume k at_) := by
  unfold State.checkResume
  try dsimp only
  with_reducible repeat' (first
    | simp only [keeps_other, keeps_sys]
    | apply Keeps.refl
    | apply (State.onConv_keeps _ _ _).after
    | apply (State.beginSlot_keeps _ _ _ _).after
    | apply keeps_ite
    | apply (State.each_keeps _ _ _ ?_).after
    | split
    | intro _)

theorem State.checkJudge_keeps (s : State) (k : Nat) (a b : List Int) : Keeps s (s.checkJudge k a b) := by
  unfold State.checkJudge
  try dsimp only
  with_reducible repeat' (first
    | apply Keeps.refl
    | apply (State.checkDone_keeps _ _ _).after
    | apply (State.checkMiss_keeps _ _ _ _).after
    | apply (State.checkPass_keeps _ _).after
    | apply keeps_ite
    | split
    | intro _)

theorem State.checkClear_keeps (s : State) (k : Nat) : Keeps s (s.checkClear k) := by
  unfold State.checkClear
  try dsimp only
  with_reducible repeat' (first
    | simp only [keeps_other, keeps_sys]
    | apply Keeps.refl
    | split
    | intro _)

theorem State.modOutput_keeps (s : State) (m : Nat) (v : Int) : Keeps s (s.modOutput m v) := by
  unfold State.modOutput
  try dsimp only
  with_reducible repeat' (first
    | simp only [keeps_other, keeps_sys]
    | apply Keeps.refl
    | apply (State.setFld_keeps _ _ _ _).after
    | apply (State.setFlag_keeps _ _ _ _).after
    | apply keeps_ite
    | split
    | intro _)

theorem State.modGap_keeps (s : State) : Keeps s (s.modGap) := by
  unfold State.modGap
  try dsimp only
  with_reducible repeat' (first
    | simp only [keeps_other, keeps_sys]
    | apply Keeps.refl
    | split
    | intro _)

theorem State.modOwners_keeps (s : State) : Keeps s (s.modOwners) := by
  unfold State.modOwners
  try dsimp only
  with_reducible repeat' (first
    | simp only [keeps_other, keeps_sys]
    | apply Keeps.refl
    | apply (State.setReg_keeps _ _ _ _).after
    | apply (State.setFld_keeps _ _ _ _).after
    | apply (State.setFlag_keeps _ _ _ _).after
    | apply (State.each_keeps _ _ _ ?_).after
    | split
    | intro _)

theorem State.acqMarker_keeps (s : State) : Keeps s (s.acqMarker) := by
  unfold State.acqMarker
  try dsimp only
  with_reducible repeat' (first
    | simp only [keeps_other, keeps_sys]
    | apply Keeps.refl
    | apply (State.setFld_keeps _ _ _ _).after
    | apply (State.setFlag_keeps _ _ _ _).after
    | apply (State.onConv_keeps _ _ _).after
    | apply (State.completed_keeps _ _).after
    | apply (State.invalidPoints_keeps _ _).after
    | apply (State.onCheck_keeps _ _ _).after
    | apply keeps_ite
    | apply (State.each_keeps _ _ _ ?_).after
    | split
    | intro _)

end Sys2Proof.Machine
end

