-- ==== Sys2Proof/Laws/KeepsCalfin.lean ====
section
/-! SUPPORT. What each operation of Machine/Calfin.lean keeps of the state. -/

namespace Sys2Proof.Machine

open Sys2Proof

theorem State.onEng_keeps (s : State) (e : Nat) (f : Engine → Engine) : Keeps s (s.onEng e f) := by
  unfold State.onEng
  try dsimp only
  with_reducible repeat' (first
    | simp only [keeps_other, keeps_sys]
    | apply Keeps.refl
    | split
    | intro _)

theorem State.onRegs_keeps (s : State) (e : Nat) (f : EngRegs → EngRegs) : Keeps s (s.onRegs e f) := by
  unfold State.onRegs
  try dsimp only
  with_reducible repeat' (first
    | simp only [keeps_other, keeps_sys]
    | apply Keeps.refl
    | apply (State.onEng_keeps _ _ _).after
    | split
    | intro _)

theorem State.setStopped_keeps (s : State) (e : Nat) (on : Bool) : Keeps s (s.setStopped e on) := by
  unfold State.setStopped
  try dsimp only
  with_reducible repeat' (first
    | apply Keeps.refl
    | apply (State.setFld_keeps _ _ _ _).after
    | apply keeps_ite
    | split
    | intro _)

theorem State.stopProgram_keeps (s : State) (e cause : Nat) : Keeps s (s.stopProgram e cause) := by
  unfold State.stopProgram
  try dsimp only
  with_reducible repeat' (first
    | apply Keeps.refl
    | apply (State.setFld_keeps _ _ _ _).after
    | apply (State.setStopped_keeps _ _ _).after
    | split
    | intro _)

theorem State.flagsSeen_keeps (s : State) (e : Nat) : Keeps s (s.flagsSeen e) := by
  unfold State.flagsSeen
  try dsimp only
  with_reducible repeat' (first
    | simp only [keeps_other, keeps_sys]
    | apply Keeps.refl
    | apply (State.setFld_keeps _ _ _ _).after
    | apply (State.report_keeps _ _ _).after
    | apply (State.count_keeps _ _ _ _).after
    | apply (State.onEng_keeps _ _ _).after
    | apply keeps_ite
    | split
    | intro _)

theorem State.discard_keeps (s : State) (e : Nat) : Keeps s (s.discard e) := by
  unfold State.discard
  try dsimp only
  with_reducible repeat' (first
    | simp only [keeps_other, keeps_sys]
    | apply Keeps.refl
    | apply (State.setFld_keeps _ _ _ _).after
    | apply (State.tagDiscard_keeps _ _).after
    | apply (State.onEng_keeps _ _ _).after
    | apply (State.flagsSeen_keeps _ _).after
    | apply (State.each_keeps _ _ _ ?_).after
    | split
    | intro _)

theorem State.programStop_keeps (s : State) (e cause : Nat) : Keeps s (s.programStop e cause) := by
  unfold State.programStop
  try dsimp only
  with_reducible repeat' (first
    | simp only [keeps_other, keeps_sys]
    | apply Keeps.refl
    | apply (State.setFld_keeps _ _ _ _).after
    | apply (State.report_keeps _ _ _).after
    | apply (State.orderFault_keeps _ _).after
    | apply (State.stopProgram_keeps _ _ _).after
    | apply (State.discard_keeps _ _).after
    | apply keeps_ite
    | split
    | intro _)

theorem State.newBundle_keeps (s : State) (e k : Nat) : Keeps s (s.newBundle e k) := by
  unfold State.newBundle
  try dsimp only
  with_reducible repeat' (first
    | simp only [keeps_other, keeps_sys]
    | apply Keeps.refl
    | apply (State.count_keeps _ _ _ _).after
    | apply (State.tagIssue_keeps _ _ _ _).after
    | apply (State.onEng_keeps _ _ _).after
    | split
    | intro _)

theorem State.slot_keeps (s : State) (e : Nat) (b : Issue) (f : Program → State → State) (h : ∀ g t, Keeps t (f g t)) :
    Keeps s (s.slot e b f) := by
  unfold State.slot
  try dsimp only
  with_reducible repeat' (first
    | exact Keeps.refl _
    | apply (h _ _).after
    | apply (State.newBundle_keeps _ _ _).after
    | apply (State.programStop_keeps _ _ _).after
    | apply keeps_ite
    | split)

theorem State.setK_keeps (s : State) (e r : Nat) (w : W32) : Keeps s (s.setK e r w) := by
  unfold State.setK
  try dsimp only
  with_reducible repeat' (first
    | simp only [keeps_other, keeps_sys]
    | apply Keeps.refl
    | apply (State.onRegs_keeps _ _ _).after
    | apply keeps_ite
    | split
    | intro _)

theorem State.setOvf_keeps (s : State) (e : Nat) (c : Bool) : Keeps s (s.setOvf e c) := by
  unfold State.setOvf
  try dsimp only
  with_reducible repeat' (first
    | simp only [keeps_other, keeps_sys]
    | apply Keeps.refl
    | apply (State.onEng_keeps _ _ _).after
    | split
    | intro _)

theorem State.setExp_keeps (s : State) (e : Nat) (c : Bool) : Keeps s (s.setExp e c) := by
  unfold State.setExp
  try dsimp only
  with_reducible repeat' (first
    | simp only [keeps_other, keeps_sys]
    | apply Keeps.refl
    | apply (State.onEng_keeps _ _ _).after
    | split
    | intro _)

theorem State.setInv_keeps (s : State) (e : Nat) (c : Bool) : Keeps s (s.setInv e c) := by
  unfold State.setInv
  try dsimp only
  with_reducible repeat' (first
    | simp only [keeps_other, keeps_sys]
    | apply Keeps.refl
    | apply (State.onEng_keeps _ _ _).after
    | split
    | intro _)

theorem State.setQf_keeps (s : State) (e : Nat) (c : Bool) : Keeps s (s.setQf e c) := by
  unfold State.setQf
  try dsimp only
  with_reducible repeat' (first
    | simp only [keeps_other, keeps_sys]
    | apply Keeps.refl
    | apply (State.onEng_keeps _ _ _).after
    | split
    | intro _)

theorem State.putM_keeps (s : State) (e kd : Nat) (m : Int) : Keeps s (s.putM e kd m) := by
  unfold State.putM
  try dsimp only
  with_reducible repeat' (first
    | apply Keeps.refl
    | apply (State.setK_keeps _ _ _ _).after
    | apply (State.setOvf_keeps _ _ _).after
    | split
    | intro _)

theorem State.putF_keeps (s : State) (e kd : Nat) (r : FpRes) : Keeps s (s.putF e kd r) := by
  unfold State.putF
  try dsimp only
  with_reducible repeat' (first
    | apply Keeps.refl
    | apply (State.setK_keeps _ _ _ _).after
    | apply (State.setOvf_keeps _ _ _).after
    | apply (State.setInv_keeps _ _ _).after
    | split
    | intro _)

theorem State.countMac_keeps (s : State) (e : Nat) : Keeps s (s.countMac e) := by
  unfold State.countMac
  try dsimp only
  with_reducible repeat' (first
    | apply Keeps.refl
    | apply (State.count_keeps _ _ _ _).after
    | split
    | intro _)

theorem State.countAlu_keeps (s : State) (e : Nat) : Keeps s (s.countAlu e) := by
  unfold State.countAlu
  try dsimp only
  with_reducible repeat' (first
    | apply Keeps.refl
    | apply (State.count_keeps _ _ _ _).after
    | split
    | intro _)

theorem State.countLoad_keeps (s : State) (e : Nat) : Keeps s (s.countLoad e) := by
  unfold State.countLoad
  try dsimp only
  with_reducible repeat' (first
    | apply Keeps.refl
    | apply (State.count_keeps _ _ _ _).after
    | split
    | intro _)

theorem State.countStore_keeps (s : State) (e : Nat) : Keeps s (s.countStore e) := by
  unfold State.countStore
  try dsimp only
  with_reducible repeat' (first
    | apply Keeps.refl
    | apply (State.count_keeps _ _ _ _).after
    | split
    | intro _)

theorem State.countTaken_keeps (s : State) (e : Nat) : Keeps s (s.countTaken e) := by
  unfold State.countTaken
  try dsimp only
  with_reducible repeat' (first
    | apply Keeps.refl
    | apply (State.count_keeps _ _ _ _).after
    | split
    | intro _)

theorem State.putAcc_keeps (s : State) (e : Nat) (a : Bool) (v ea : Int) : Keeps s (s.putAcc e a v ea) := by
  unfold State.putAcc
  try dsimp only
  with_reducible repeat' (first
    | simp only [keeps_other, keeps_sys]
    | apply Keeps.refl
    | apply (State.onRegs_keeps _ _ _).after
    | apply (State.setOvf_keeps _ _ _).after
    | apply (State.setExp_keeps _ _ _).after
    | apply keeps_ite
    | split
    | intro _)

theorem State.putAccF_keeps (s : State) (e : Nat) (a : Bool) (r : FpRes) : Keeps s (s.putAccF e a r) := by
  unfold State.putAccF
  try dsimp only
  with_reducible repeat' (first
    | simp only [keeps_other, keeps_sys]
    | apply Keeps.refl
    | apply (State.onRegs_keeps _ _ _).after
    | apply (State.setOvf_keeps _ _ _).after
    | apply (State.setInv_keeps _ _ _).after
    | apply keeps_ite
    | split
    | intro _)

theorem State.accAdd_keeps (s : State) (e : Nat) (a : Bool) (v ev : Int) : Keeps s (s.accAdd e a v ev) := by
  unfold State.accAdd
  try dsimp only
  with_reducible repeat' (first
    | apply Keeps.refl
    | apply (State.setOvf_keeps _ _ _).after
    | apply (State.putAcc_keeps _ _ _ _ _).after
    | split
    | intro _)

theorem State.accSub_keeps (s : State) (e : Nat) (a : Bool) (v ev : Int) : Keeps s (s.accSub e a v ev) := by
  unfold State.accSub
  try dsimp only
  with_reducible repeat' (first
    | apply Keeps.refl
    | apply (State.setOvf_keeps _ _ _).after
    | apply (State.putAcc_keeps _ _ _ _ _).after
    | split
    | intro _)

theorem State.bf2_keeps (s : State) (e kd r1 r2 : Nat) (f : Int → Int → Int) : Keeps s (s.bf2 e kd r1 r2 f) := by
  unfold State.bf2
  try dsimp only
  with_reducible repeat' (first
    | apply Keeps.refl
    | apply (State.setOvf_keeps _ _ _).after
    | apply (State.putM_keeps _ _ _ _).after
    | apply (State.countAlu_keeps _ _).after
    | split
    | intro _)

theorem State.bf1_keeps (s : State) (e kd r : Nat) (f : Int → Int) : Keeps s (s.bf1 e kd r f) := by
  unfold State.bf1
  try dsimp only
  with_reducible repeat' (first
    | apply Keeps.refl
    | apply (State.setOvf_keeps _ _ _).after
    | apply (State.putM_keeps _ _ _ _).after
    | apply (State.countAlu_keeps _ _).after
    | split
    | intro _)

theorem State.normalise_keeps (s : State) (e i h : Nat) : Keeps s (s.normalise e i h) := by
  unfold State.normalise
  try dsimp only
  with_reducible repeat' (first
    | simp only [keeps_other, keeps_sys]
    | apply Keeps.refl
    | apply (State.onRegs_keeps _ _ _).after
    | apply (State.setK_keeps _ _ _ _).after
    | apply (State.setExp_keeps _ _ _).after
    | apply keeps_ite
    | apply (keeps_foldl_fst _ _ ?_ _).after
    | apply (keeps_foldl_snd _ _ ?_ _).after
    | apply (keeps_foldl _ _ ?_ _).after
    | split
    | intro _)

theorem State.jump_keeps (s : State) (e : Nat) (target : Int) : Keeps s (s.jump e target) := by
  unfold State.jump
  try dsimp only
  with_reducible repeat' (first
    | simp only [keeps_other, keeps_sys]
    | apply Keeps.refl
    | apply (State.onEng_keeps _ _ _).after
    | apply (State.countTaken_keeps _ _).after
    | apply keeps_ite
    | split
    | intro _)

theorem State.branch_keeps (s : State) (e : Nat) (c : Bool) (ofs : Int) : Keeps s (s.branch e c ofs) := by
  unfold State.branch
  try dsimp only
  with_reducible repeat' (first
    | apply Keeps.refl
    | apply (State.countAlu_keeps _ _).after
    | apply (State.jump_keeps _ _ _).after
    | apply keeps_ite
    | split
    | intro _)

theorem State.commitStores_keeps (s : State) (e : Nat) : Keeps s (s.commitStores e) := by
  unfold State.commitStores
  try dsimp only
  with_reducible repeat' (first
    | simp only [keeps_other, keeps_sys]
    | apply Keeps.refl
    | apply (State.setLe_keeps _ _ _ _).after
    | apply (State.onEng_keeps _ _ _).after
    | apply (keeps_foldl_fst _ _ ?_ _).after
    | apply (keeps_foldl_snd _ _ ?_ _).after
    | apply (keeps_foldl _ _ ?_ _).after
    | split
    | intro _)

theorem State.publish_keeps (s : State) (g : Program) (e r : Nat) (v : W32) : Keeps s (s.publish g e r v) := by
  unfold State.publish
  try dsimp only
  with_reducible repeat' (first
    | simp only [keeps_other, keeps_sys]
    | apply Keeps.refl
    | apply (State.setReg_keeps _ _ _ _).after
    | apply (State.setFld_keeps _ _ _ _).after
    | apply (State.onEng_keeps _ _ _).after
    | split
    | intro _)

theorem State.monitorEnd_keeps (s : State) (g : Program) (e m : Nat) (err : W32) : Keeps s (s.monitorEnd g e m err) := by
  unfold State.monitorEnd
  try dsimp only
  with_reducible repeat' (first
    | simp only [keeps_other, keeps_sys]
    | apply Keeps.refl
    | apply (State.setFld_keeps _ _ _ _).after
    | apply keeps_ite
    | split
    | intro _)

theorem State.flagsEnd_keeps (s : State) (e : Nat) : Keeps s (s.flagsEnd e) := by
  unfold State.flagsEnd
  try dsimp only
  with_reducible repeat' (first
    | apply Keeps.refl
    | apply (State.setFld_keeps _ _ _ _).after
    | apply (State.flagsSeen_keeps _ _).after
    | split
    | intro _)

theorem State.putWord_keeps (s : State) (g : Program) (e kd : Nat) (w : W32) : Keeps s (s.putWord g e kd w) := by
  unfold State.putWord
  try dsimp only
  with_reducible repeat' (first
    | apply Keeps.refl
    | apply (State.setK_keeps _ _ _ _).after
    | apply (State.setOvf_keeps _ _ _).after
    | apply keeps_ite
    | split
    | intro _)

theorem State.loadAt_keeps (s : State) (e a : Nat) (f : State → W32 → State) (h : ∀ t w, Keeps t (f t w)) : Keeps s (s.loadAt e a f) := by
  unfold State.loadAt
  try dsimp only
  with_reducible repeat' (first
    | exact Keeps.refl _
    | apply (h _ _).after
    | apply (State.programStop_keeps _ _ _).after
    | apply (State.countLoad_keeps _ _).after
    | apply keeps_ite
    | split)

theorem State.storeAt_keeps (s : State) (e w : Nat) (v : W32) : Keeps s (s.storeAt e w v) := by
  unfold State.storeAt
  try dsimp only
  with_reducible repeat' (first
    | simp only [keeps_other, keeps_sys]
    | apply Keeps.refl
    | apply (State.setLe_keeps _ _ _ _).after
    | apply (State.onEng_keeps _ _ _).after
    | apply (State.programStop_keeps _ _ _).after
    | apply (State.countStore_keeps _ _).after
    | apply keeps_ite
    | split
    | intro _)

theorem State.loadQ_keeps (s : State) (g : Program) (e kd addr : Nat) (w : W32) : Keeps s (s.loadQ g e kd addr w) := by
  unfold State.loadQ
  try dsimp only
  with_reducible repeat' (first
    | apply Keeps.refl
    | apply (State.setK_keeps _ _ _ _).after
    | apply (State.setQf_keeps _ _ _).after
    | apply (State.putM_keeps _ _ _ _).after
    | apply keeps_ite
    | split
    | intro _)

theorem State.loadP_keeps (s : State) (g : Program) (e kd p : Nat) : Keeps s (s.loadP g e kd p) := by
  unfold State.loadP
  try dsimp only
  with_reducible repeat' (first
    | simp only [keeps_other, keeps_sys]
    | apply Keeps.refl
    | apply (State.tick_keeps _).after
    | apply (State.setK_keeps _ _ _ _).after
    | apply (State.setOvf_keeps _ _ _).after
    | apply (State.setQf_keeps _ _ _).after
    | apply (State.putWord_keeps _ _ _ _ _).after
    | apply keeps_ite
    | split
    | intro _)

theorem State.bind_keeps (s : State) (g : Program) (b : Binding) (w : W32) : Keeps s (s.bind g b w) := by
  unfold State.bind
  try dsimp only
  with_reducible repeat' (first
    | simp only [keeps_other, keeps_sys]
    | apply Keeps.refl
    | apply (State.setFld_keeps _ _ _ _).after
    | apply (State.setLe_keeps _ _ _ _).after
    | apply (State.writePoint_keeps _ _).after
    | apply (State.ringDeliver_keeps _ _ _).after
    | apply (State.onPhase_keeps _ _ _).after
    | apply (State.onEng_keeps _ _ _).after
    | split
    | intro _)

theorem State.bindOne_keeps (s : State) (b : Binding) : Keeps s (s.bindOne b) := by
  unfold State.bindOne
  try dsimp only
  with_reducible repeat' (first
    | simp only [keeps_other, keeps_sys]
    | apply Keeps.refl
    | apply (State.bind_keeps _ _ _ _).after
    | apply keeps_ite
    | split
    | intro _)

theorem State.bindAll_keeps (s : State) : Keeps s (s.bindAll) := by
  unfold State.bindAll
  try dsimp only
  with_reducible repeat' (first
    | simp only [keeps_other, keeps_sys]
    | apply Keeps.refl
    | apply (State.onEng_keeps _ _ _).after
    | apply (State.bindOne_keeps _ _).after
    | apply (State.each_keeps _ _ _ ?_).after
    | apply (keeps_foldl_fst _ _ ?_ _).after
    | apply (keeps_foldl_snd _ _ ?_ _).after
    | apply (keeps_foldl _ _ ?_ _).after
    | split
    | intro _)

theorem State.startInstance_keeps (s : State) (g : Program) (e : Nat) : Keeps s (s.startInstance g e) := by
  unfold State.startInstance
  try dsimp only
  with_reducible repeat' (first
    | simp only [keeps_other, keeps_sys]
    | apply Keeps.refl
    | apply (State.setFld_keeps _ _ _ _).after
    | apply (State.setLe_keeps _ _ _ _).after
    | apply (State.count_keeps _ _ _ _).after
    | apply (State.onEng_keeps _ _ _).after
    | apply (State.each_keeps _ _ _ ?_).after
    | apply (keeps_foldl_fst _ _ ?_ _).after
    | apply (keeps_foldl_snd _ _ ?_ _).after
    | apply (keeps_foldl _ _ ?_ _).after
    | split
    | intro _)

theorem State.engineLate_keeps (s : State) (e : Nat) : Keeps s (s.engineLate e) := by
  unfold State.engineLate
  try dsimp only
  with_reducible repeat' (first
    | apply Keeps.refl
    | apply (State.setFld_keeps _ _ _ _).after
    | apply (State.bumpSat_keeps _ _ _).after
    | apply (State.report_keeps _ _ _).after
    | apply (State.count_keeps _ _ _ _).after
    | apply (State.countOverrun_keeps _ _ _).after
    | apply (State.discard_keeps _ _).after
    | split
    | intro _)

theorem State.engineLimit_keeps (s : State) (e : Nat) : Keeps s (s.engineLimit e) := by
  unfold State.engineLimit
  try dsimp only
  with_reducible repeat' (first
    | simp only [keeps_other, keeps_sys]
    | apply Keeps.refl
    | apply (State.report_keeps _ _ _).after
    | apply (State.faultBay_keeps _ _ _).after
    | apply (State.stopProgram_keeps _ _ _).after
    | split
    | intro _)

theorem State.engineEnd_keeps (s : State) (e : Nat) : Keeps s (s.engineEnd e) := by
  unfold State.engineEnd
  try dsimp only
  with_reducible repeat' (first
    | simp only [keeps_other, keeps_sys]
    | apply Keeps.refl
    | apply (State.faultBay_keeps _ _ _).after
    | apply (State.onEng_keeps _ _ _).after
    | apply (State.engineLate_keeps _ _).after
    | apply (State.engineLimit_keeps _ _).after
    | apply keeps_ite
    | split
    | intro _)

theorem State.engineHalt_keeps (s : State) (e : Nat) : Keeps s (s.engineHalt e) := by
  unfold State.engineHalt
  try dsimp only
  with_reducible repeat' (first
    | simp only [keeps_other, keeps_sys]
    | apply Keeps.refl
    | apply (State.onEng_keeps _ _ _).after
    | apply (State.stopProgram_keeps _ _ _).after
    | apply keeps_ite
    | split
    | intro _)

theorem State.engineStart_keeps (s : State) (e : Nat) : Keeps s (s.engineStart e) := by
  unfold State.engineStart
  try dsimp only
  with_reducible repeat' (first
    | simp only [keeps_other, keeps_sys]
    | apply Keeps.refl
    | apply (State.setFld_keeps _ _ _ _).after
    | apply (State.completed_keeps _ _).after
    | apply (State.onEng_keeps _ _ _).after
    | apply (State.setStopped_keeps _ _ _).after
    | apply (State.startInstance_keeps _ _ _).after
    | apply keeps_ite
    | split
    | intro _)

theorem State.calfinEnd_keeps (s : State) : Keeps s (s.calfinEnd) := by
  unfold State.calfinEnd
  try dsimp only
  with_reducible repeat' (first
    | apply Keeps.refl
    | apply (State.bindAll_keeps _).after
    | apply (State.engineEnd_keeps _ _).after
    | apply (State.engineHalt_keeps _ _).after
    | apply (State.each_keeps _ _ _ ?_).after
    | split
    | intro _)

theorem State.calfinStart_keeps (s : State) : Keeps s (s.calfinStart) := by
  unfold State.calfinStart
  try dsimp only
  with_reducible repeat' (first
    | apply Keeps.refl
    | apply (State.engineStart_keeps _ _).after
    | apply (State.each_keeps _ _ _ ?_).after
    | split
    | intro _)

theorem State.tripClear_keeps (s : State) (e m : Nat) : Keeps s (s.tripClear e m) := by
  unfold State.tripClear
  try dsimp only
  with_reducible repeat' (first
    | apply Keeps.refl
    | apply (State.setFld_keeps _ _ _ _).after
    | apply (State.setFlag_keeps _ _ _ _).after
    | split
    | intro _)

theorem State.engRestart_keeps (s : State) (e : Nat) : Keeps s (s.engRestart e) := by
  unfold State.engRestart
  try dsimp only
  with_reducible repeat' (first
    | simp only [keeps_other, keeps_sys]
    | apply Keeps.refl
    | apply (State.report_keeps _ _ _).after
    | apply (State.onEng_keeps _ _ _).after
    | apply keeps_ite
    | split
    | intro _)

theorem State.engHalt_keeps (s : State) (e : Nat) : Keeps s (s.engHalt e) := by
  unfold State.engHalt
  try dsimp only
  with_reducible repeat' (first
    | simp only [keeps_other, keeps_sys]
    | apply Keeps.refl
    | apply (State.report_keeps _ _ _).after
    | apply (State.onEng_keeps _ _ _).after
    | apply keeps_ite
    | split
    | intro _)

theorem State.markRead_keeps (s : State) (w : Initiator) (e r : Nat) : Keeps s (s.markRead w e r) := by
  unfold State.markRead
  try dsimp only
  with_reducible repeat' (first
    | simp only [keeps_other, keeps_sys]
    | apply Keeps.refl
    | apply (State.onEng_keeps _ _ _).after
    | apply keeps_ite
    | split
    | intro _)

theorem State.setShadow_keeps (s : State) (w : Initiator) (r : Reg) (j : Nat) (v : W32) : Keeps s (s.setShadow w r j v) := by
  unfold State.setShadow
  try dsimp only
  with_reducible repeat' (first
    | simp only [keeps_other, keeps_sys]
    | apply Keeps.refl
    | split
    | intro _)

theorem State.resultRead_keeps (s : State) (w : Initiator) (e r : Nat) (half : Half) : Keeps s (s.resultRead w e r half) := by
  unfold State.resultRead
  try dsimp only
  with_reducible repeat' (first
    | simp only [keeps_other, keeps_sys]
    | apply Keeps.refl
    | apply (State.markRead_keeps _ _ _ _).after
    | apply (State.setShadow_keeps _ _ _ _ _).after
    | split
    | intro _)

theorem State.loadCode_keeps (s : State) (m : Image) (e : Nat) (bankB : Bool) : Keeps s (s.loadCode m e bankB) := by
  unfold State.loadCode
  try dsimp only
  with_reducible repeat' (first
    | simp only [keeps_other, keeps_sys]
    | apply Keeps.refl
    | apply (State.setBytes_keeps _ _ _).after
    | apply keeps_ite
    | split
    | intro _)

theorem State.loadWindow_keeps (s : State) (m : Image) (e : Nat) : Keeps s (s.loadWindow m e) := by
  unfold State.loadWindow
  try dsimp only
  with_reducible repeat' (first
    | simp only [keeps_other, keeps_sys]
    | apply Keeps.refl
    | apply (State.setBytes_keeps _ _ _).after
    | split
    | intro _)

theorem State.freshEngine_keeps (s : State) (m : Image) (e : Nat) : Keeps s (s.freshEngine m e) := by
  unfold State.freshEngine
  try dsimp only
  with_reducible repeat' (first
    | simp only [keeps_other, keeps_sys]
    | apply Keeps.refl
    | apply (State.setReg_keeps _ _ _ _).after
    | apply (State.setFld_keeps _ _ _ _).after
    | apply (State.completed_keeps _ _).after
    | apply (State.onEng_keeps _ _ _).after
    | apply (State.setStopped_keeps _ _ _).after
    | apply (State.loadWindow_keeps _ _ _).after
    | apply (State.each_keeps _ _ _ ?_).after
    | split
    | intro _)

end Sys2Proof.Machine
end

