-- ==== Sys2Proof/Laws/KeepsTruss.lean ====
section
/-! SUPPORT. What each operation of Machine/Truss.lean keeps of the state. -/

namespace Sys2Proof.Machine

open Sys2Proof

theorem State.onTrs_keeps (s : State) (f : Trs → Trs) : Keeps s (s.onTrs f) := by
  unfold State.onTrs
  try dsimp only
  with_reducible repeat' (first
    | simp only [keeps_other, keeps_sys]
    | apply Keeps.refl
    | split
    | intro _)

theorem State.writeFp_keeps (s : State) (p : Nat) (q : Rat) : Keeps s (s.writeFp p q) := by
  unfold State.writeFp
  try dsimp only
  with_reducible repeat' (first
    | apply Keeps.refl
    | apply (State.writePoint_keeps _ _).after
    | split
    | intro _)

theorem State.writeInt_keeps (s : State) (p : Nat) (n : Int) : Keeps s (s.writeInt p n) := by
  unfold State.writeInt
  try dsimp only
  with_reducible repeat' (first
    | apply Keeps.refl
    | apply (State.writeNum_keeps _ _ _ _ _).after
    | split
    | intro _)

theorem State.trussRecord_keeps (s : State) (typ flags cause unit : Nat) : Keeps s (s.trussRecord typ flags cause unit) := by
  unfold State.trussRecord
  try dsimp only
  with_reducible repeat' (first
    | apply Keeps.refl
    | apply (State.ringDeliver_keeps _ _ _).after
    | split
    | intro _)

theorem State.showWindow_keeps (s : State) : Keeps s (s.showWindow) := by
  unfold State.showWindow
  try dsimp only
  with_reducible repeat' (first
    | apply Keeps.refl
    | apply (State.setFld_keeps _ _ _ _).after
    | split
    | intro _)

theorem State.invalidate_keeps (s : State) (cause unit : Nat) : Keeps s (s.invalidate cause unit) := by
  unfold State.invalidate
  try dsimp only
  with_reducible repeat' (first
    | simp only [keeps_other, keeps_sys]
    | apply Keeps.refl
    | apply (State.setFld_keeps _ _ _ _).after
    | apply (State.bumpSat_keeps _ _ _).after
    | apply (State.report_keeps _ _ _).after
    | apply (State.count_keeps _ _ _ _).after
    | apply (State.onTrs_keeps _ _).after
    | apply (State.trussRecord_keeps _ _ _ _ _).after
    | apply (State.showWindow_keeps _).after
    | apply keeps_ite
    | split
    | intro _)

theorem State.buildEntry_keeps (s : State) (h : Nat) : Keeps s (s.buildEntry h) := by
  unfold State.buildEntry
  try dsimp only
  with_reducible repeat' (first
    | simp only [keeps_other, keeps_sys]
    | apply Keeps.refl
    | apply (State.onTrs_keeps _ _).after
    | apply (State.showWindow_keeps _).after
    | split
    | intro _)

theorem State.rebuildStep_keeps (s : State) : Keeps s (s.rebuildStep) := by
  unfold State.rebuildStep
  try dsimp only
  with_reducible repeat' (first
    | simp only [keeps_other, keeps_sys]
    | apply Keeps.refl
    | apply (State.onTrs_keeps _ _).after
    | apply (State.buildEntry_keeps _ _).after
    | apply keeps_ite
    | split
    | intro _)

theorem State.replan_keeps (s : State) : Keeps s (s.replan) := by
  unfold State.replan
  try dsimp only
  with_reducible repeat' (first
    | simp only [keeps_other, keeps_sys]
    | apply Keeps.refl
    | apply (State.onTrs_keeps _ _).after
    | apply (State.showWindow_keeps _).after
    | apply (State.buildEntry_keeps _ _).after
    | apply (keeps_foldl_fst _ _ ?_ _).after
    | apply (keeps_foldl_snd _ _ ?_ _).after
    | apply (keeps_foldl _ _ ?_ _).after
    | split
    | intro _)

theorem State.recheck_keeps (s : State) : Keeps s (s.recheck) := by
  unfold State.recheck
  try dsimp only
  with_reducible repeat' (first
    | simp only [keeps_other, keeps_sys]
    | apply Keeps.refl
    | apply (State.onTrs_keeps _ _).after
    | apply (State.showWindow_keeps _).after
    | apply (State.buildEntry_keeps _ _).after
    | apply keeps_ite
    | apply (keeps_foldl_fst _ _ ?_ _).after
    | apply (keeps_foldl_snd _ _ ?_ _).after
    | apply (keeps_foldl _ _ ?_ _).after
    | split
    | intro _)

theorem State.see_keeps (s : State) : Keeps s (s.see) := by
  unfold State.see
  try dsimp only
  with_reducible repeat' (first
    | simp only [keeps_other, keeps_sys]
    | apply Keeps.refl
    | apply (State.onTrs_keeps _ _).after
    | split
    | intro _)

theorem State.readGrid_keeps (s : State) : Keeps s (s.readGrid) := by
  unfold State.readGrid
  try dsimp only
  with_reducible repeat' (first
    | simp only [keeps_other, keeps_sys]
    | apply Keeps.refl
    | apply (State.onTrs_keeps _ _).after
    | split
    | intro _)

theorem State.trussStroke_keeps (s : State) : Keeps s (s.trussStroke) := by
  unfold State.trussStroke
  try dsimp only
  with_reducible repeat' (first
    | simp only [keeps_other, keeps_sys]
    | apply Keeps.refl
    | apply (State.setFld_keeps _ _ _ _).after
    | apply (State.setFlag_keeps _ _ _ _).after
    | apply (State.onTrs_keeps _ _).after
    | apply (State.invalidate_keeps _ _ _).after
    | apply (State.see_keeps _).after
    | apply (State.readGrid_keeps _).after
    | apply keeps_ite
    | apply (State.each_keeps _ _ _ ?_).after
    | apply (keeps_foldl_fst _ _ ?_ _).after
    | apply (keeps_foldl_snd _ _ ?_ _).after
    | apply (keeps_foldl _ _ ?_ _).after
    | split
    | intro _)

theorem State.contactor_keeps (s : State) (x : Nat) (close : Bool) : Keeps s (s.contactor x close) := by
  unfold State.contactor
  try dsimp only
  with_reducible repeat' (first
    | simp only [keeps_other, keeps_sys]
    | apply Keeps.refl
    | apply (State.setFld_keeps _ _ _ _).after
    | apply (State.bumpSat_keeps _ _ _).after
    | apply (State.count_keeps _ _ _ _).after
    | apply (State.onTrs_keeps _ _).after
    | apply (State.writeInt_keeps _ _ _).after
    | apply keeps_ite
    | split
    | intro _)

theorem State.withhold_keeps (s : State) (x : Nat) (close : Bool) : Keeps s (s.withhold x close) := by
  unfold State.withhold
  try dsimp only
  with_reducible repeat' (first
    | simp only [keeps_other, keeps_sys]
    | apply Keeps.refl
    | apply (State.setFld_keeps _ _ _ _).after
    | apply (State.count_keeps _ _ _ _).after
    | apply (State.onTrs_keeps _ _).after
    | apply keeps_ite
    | split
    | intro _)

theorem State.closeDue_keeps (s : State) (prev e : Entry) (x : Nat) : Keeps s (s.closeDue prev e x) := by
  unfold State.closeDue
  try dsimp only
  with_reducible repeat' (first
    | apply Keeps.refl
    | apply (State.contactor_keeps _ _ _).after
    | apply (State.withhold_keeps _ _ _).after
    | apply keeps_ite
    | split
    | intro _)

theorem State.openDue_keeps (s : State) (e : Entry) (x : Nat) : Keeps s (s.openDue e x) := by
  unfold State.openDue
  try dsimp only
  with_reducible repeat' (first
    | simp only [keeps_other, keeps_sys]
    | apply Keeps.refl
    | apply (State.report_keeps _ _ _).after
    | apply (State.onTrs_keeps _ _).after
    | apply (State.trussRecord_keeps _ _ _ _ _).after
    | apply (State.contactor_keeps _ _ _).after
    | apply (State.withhold_keeps _ _ _).after
    | apply keeps_ite
    | split
    | intro _)

theorem State.contactors_keeps (s : State) (prev e : Entry) : Keeps s (s.contactors prev e) := by
  unfold State.contactors
  try dsimp only
  with_reducible repeat' (first
    | simp only [keeps_other, keeps_sys]
    | apply Keeps.refl
    | apply (State.onTrs_keeps _ _).after
    | apply (State.closeDue_keeps _ _ _ _).after
    | apply (State.openDue_keeps _ _ _).after
    | apply keeps_ite
    | apply (keeps_foldl_fst _ _ ?_ _).after
    | apply (keeps_foldl_snd _ _ ?_ _).after
    | apply (keeps_foldl _ _ ?_ _).after
    | split
    | intro _)

theorem State.lendBay_keeps (s : State) (b : Nat) : Keeps s (s.lendBay b) := by
  unfold State.lendBay
  try dsimp only
  with_reducible repeat' (first
    | simp only [keeps_other, keeps_sys]
    | apply Keeps.refl
    | apply (State.setFld_keeps _ _ _ _).after
    | apply (State.setFlag_keeps _ _ _ _).after
    | apply (State.setRun_keeps _ _ _).after
    | apply (State.onTrs_keeps _ _).after
    | apply (State.writeFp_keeps _ _ _).after
    | apply (State.writeInt_keeps _ _ _).after
    | apply keeps_ite
    | split
    | intro _)

theorem State.keepRecord_keeps (s : State) (r : PeerRecord) : Keeps s (s.keepRecord r) := by
  unfold State.keepRecord
  try dsimp only
  with_reducible repeat' (first
    | simp only [keeps_other, keeps_sys]
    | apply Keeps.refl
    | apply (State.onTrs_keeps _ _).after
    | split
    | intro _)

theorem State.sendRecord_keeps (s : State) : Keeps s (s.sendRecord) := by
  unfold State.sendRecord
  try dsimp only
  with_reducible repeat' (first
    | simp only [keeps_other, keeps_sys]
    | apply Keeps.refl
    | apply (State.send_keeps _ _ _ _).after
    | apply (State.onTrs_keeps _ _).after
    | apply (State.keepRecord_keeps _ _).after
    | apply keeps_ite
    | split
    | intro _)

theorem State.applyBay_keeps (s : State) (e : Entry) (b : Nat) : Keeps s (s.applyBay e b) := by
  unfold State.applyBay
  try dsimp only
  with_reducible repeat' (first
    | apply Keeps.refl
    | apply (State.setFld_keeps _ _ _ _).after
    | apply (State.setRun_keeps _ _ _).after
    | apply (State.writeFp_keeps _ _ _).after
    | apply (State.writeInt_keeps _ _ _).after
    | apply keeps_ite
    | split
    | intro _)

theorem State.applyOut_keeps (s : State) (e : Entry) (o : Nat) : Keeps s (s.applyOut e o) := by
  unfold State.applyOut
  try dsimp only
  with_reducible repeat' (first
    | apply Keeps.refl
    | apply (State.setFld_keeps _ _ _ _).after
    | apply (State.writeFp_keeps _ _ _).after
    | apply (State.writeInt_keeps _ _ _).after
    | split
    | intro _)

theorem State.applyEntry_keeps (s : State) (raw : Entry) (flags : Nat) : Keeps s (s.applyEntry raw flags) := by
  unfold State.applyEntry
  try dsimp only
  with_reducible repeat' (first
    | simp only [keeps_other, keeps_sys]
    | apply Keeps.refl
    | apply (State.setFld_keeps _ _ _ _).after
    | apply (State.bumpSat_keeps _ _ _).after
    | apply (State.setPair_keeps _ _ _ _ _).after
    | apply (State.report_keeps _ _ _).after
    | apply (State.count_keeps _ _ _ _).after
    | apply (State.onTrs_keeps _ _).after
    | apply (State.writeFp_keeps _ _ _).after
    | apply (State.trussRecord_keeps _ _ _ _ _).after
    | apply (State.replan_keeps _).after
    | apply (State.contactors_keeps _ _ _).after
    | apply (State.lendBay_keeps _ _).after
    | apply (State.applyBay_keeps _ _ _).after
    | apply (State.applyOut_keeps _ _ _).after
    | apply keeps_ite
    | apply (State.each_keeps _ _ _ ?_).after
    | split
    | intro _)

theorem State.safeHold_keeps (s : State) : Keeps s (s.safeHold) := by
  unfold State.safeHold
  try dsimp only
  with_reducible repeat' (first
    | simp only [keeps_other, keeps_sys]
    | apply Keeps.refl
    | apply (State.setFld_keeps _ _ _ _).after
    | apply (State.report_keeps _ _ _).after
    | apply (State.onTrs_keeps _ _).after
    | apply (State.trussRecord_keeps _ _ _ _ _).after
    | apply (State.showWindow_keeps _).after
    | apply keeps_ite
    | split
    | intro _)

theorem State.trussMissed_keeps (s : State) : Keeps s (s.trussMissed) := by
  unfold State.trussMissed
  try dsimp only
  with_reducible repeat' (first
    | apply Keeps.refl
    | apply (State.setFld_keeps _ _ _ _).after
    | apply (State.bumpSat_keeps _ _ _).after
    | apply (State.report_keeps _ _ _).after
    | apply (State.count_keeps _ _ _ _).after
    | apply (State.countOverrun_keeps _ _ _).after
    | split
    | intro _)

theorem State.trussOverrun_keeps (s : State) : Keeps s (s.trussOverrun) := by
  unfold State.trussOverrun
  try dsimp only
  with_reducible repeat' (first
    | simp only [keeps_other, keeps_sys]
    | apply Keeps.refl
    | apply (State.onTrs_keeps _ _).after
    | apply (State.showWindow_keeps _).after
    | apply (State.trussMissed_keeps _).after
    | apply keeps_ite
    | split
    | intro _)

theorem State.trussHeat_keeps (s : State) : Keeps s (s.trussHeat) := by
  unfold State.trussHeat
  try dsimp only
  with_reducible repeat' (first
    | simp only [keeps_other, keeps_sys]
    | apply Keeps.refl
    | apply (State.setFlag_keeps _ _ _ _).after
    | apply (State.bumpSat_keeps _ _ _).after
    | apply (State.onTrs_keeps _ _).after
    | apply keeps_ite
    | apply (State.each_keeps _ _ _ ?_).after
    | split
    | intro _)

theorem State.reapply_keeps (s : State) : Keeps s (s.reapply) := by
  unfold State.reapply
  try dsimp only
  with_reducible repeat' (first
    | simp only [keeps_other, keeps_sys]
    | apply Keeps.refl
    | apply (State.applyEntry_keeps _ _ _).after
    | apply (State.safeHold_keeps _).after
    | apply keeps_ite
    | split
    | intro _)

theorem State.trussCommit_keeps (s : State) : Keeps s (s.trussCommit) := by
  unfold State.trussCommit
  try dsimp only
  with_reducible repeat' (first
    | simp only [keeps_other, keeps_sys]
    | apply Keeps.refl
    | apply (State.setFld_keeps _ _ _ _).after
    | apply (State.completed_keeps _ _).after
    | apply (State.onTrs_keeps _ _).after
    | apply (State.showWindow_keeps _).after
    | apply (State.readGrid_keeps _).after
    | apply (State.sendRecord_keeps _).after
    | apply (State.applyEntry_keeps _ _ _).after
    | apply (State.trussMissed_keeps _).after
    | apply (State.trussHeat_keeps _).after
    | apply (State.reapply_keeps _).after
    | apply keeps_ite
    | split
    | intro _)

theorem State.buildTail_keeps (s : State) : Keeps s (s.buildTail) := by
  unfold State.buildTail
  try dsimp only
  with_reducible repeat' (first
    | apply Keeps.refl
    | apply (State.buildEntry_keeps _ _).after
    | apply keeps_ite
    | split
    | intro _)

theorem State.trussTail_keeps (s : State) : Keeps s (s.trussTail) := by
  unfold State.trussTail
  try dsimp only
  with_reducible repeat' (first
    | apply Keeps.refl
    | apply (State.recheck_keeps _).after
    | apply (State.buildTail_keeps _).after
    | apply keeps_ite
    | split
    | intro _)

theorem State.trussStart_keeps (s : State) : Keeps s (s.trussStart) := by
  unfold State.trussStart
  try dsimp only
  with_reducible repeat' (first
    | simp only [keeps_other, keeps_sys]
    | apply Keeps.refl
    | apply (State.setFld_keeps _ _ _ _).after
    | apply (State.onTrs_keeps _ _).after
    | apply (State.showWindow_keeps _).after
    | apply (State.see_keeps _).after
    | apply keeps_ite
    | split
    | intro _)

theorem State.takeDemand_keeps (s : State) (o : Nat) (lo hi : W32) : Keeps s (s.takeDemand o lo hi) := by
  unfold State.takeDemand
  try dsimp only
  with_reducible repeat' (first
    | apply Keeps.refl
    | apply (State.setReg_keeps _ _ _ _).after
    | apply (State.invalidate_keeps _ _ _).after
    | apply keeps_ite
    | split
    | intro _)

theorem State.trussRestart_keeps (s : State) : Keeps s (s.trussRestart) := by
  unfold State.trussRestart
  try dsimp only
  with_reducible repeat' (first
    | simp only [keeps_other, keeps_sys]
    | apply Keeps.refl
    | apply (State.setFld_keeps _ _ _ _).after
    | apply (State.report_keeps _ _ _).after
    | apply (State.completed_keeps _ _).after
    | apply (State.onTrs_keeps _ _).after
    | apply keeps_ite
    | split
    | intro _)

theorem State.gridFw_keeps (s : State) (v : W32) : Keeps s (s.gridFw v) := by
  unfold State.gridFw
  try dsimp only
  with_reducible repeat' (first
    | simp only [keeps_other, keeps_sys]
    | apply Keeps.refl
    | apply (State.setReg_keeps _ _ _ _).after
    | apply (State.onTrs_keeps _ _).after
    | apply (State.invalidate_keeps _ _ _).after
    | apply keeps_ite
    | split
    | intro _)

theorem State.contactorFault_keeps (s : State) (x st code : Nat) : Keeps s (s.contactorFault x st code) := by
  unfold State.contactorFault
  try dsimp only
  with_reducible repeat' (first
    | simp only [keeps_other, keeps_sys]
    | apply Keeps.refl
    | apply (State.setFld_keeps _ _ _ _).after
    | apply (State.report_keeps _ _ _).after
    | apply (State.onTrs_keeps _ _).after
    | apply (State.trussRecord_keeps _ _ _ _ _).after
    | apply (State.invalidate_keeps _ _ _).after
    | apply keeps_ite
    | split
    | intro _)

theorem State.clearXp_keeps (s : State) (x : Nat) : Keeps s (s.clearXp x) := by
  unfold State.clearXp
  try dsimp only
  with_reducible repeat' (first
    | apply Keeps.refl
    | apply (State.setFld_keeps _ _ _ _).after
    | apply (State.report_keeps _ _ _).after
    | apply keeps_ite
    | split
    | intro _)

theorem State.loanCheck_keeps (s : State) (r : PeerRecord) : Keeps s (s.loanCheck r) := by
  unfold State.loanCheck
  try dsimp only
  with_reducible repeat' (first
    | simp only [keeps_other, keeps_sys]
    | apply Keeps.refl
    | apply (State.report_keeps _ _ _).after
    | apply (State.onTrs_keeps _ _).after
    | apply (State.trussRecord_keeps _ _ _ _ _).after
    | apply (State.invalidate_keeps _ _ _).after
    | apply keeps_ite
    | apply (State.each_keeps _ _ _ ?_).after
    | split
    | intro _)

end Sys2Proof.Machine
end

