-- ==== Sys2Proof/Laws/KeepsBellows.lean ====
section
/-! SUPPORT. What each operation of Machine/Bellows.lean keeps of the state. -/

namespace Sys2Proof.Machine

open Sys2Proof

theorem State.onBlw_keeps (s : State) (f : Blw → Blw) : Keeps s (s.onBlw f) := by
  unfold State.onBlw
  try dsimp only
  with_reducible repeat' (first
    | simp only [keeps_other, keeps_sys]
    | apply Keeps.refl
    | split
    | intro _)

theorem State.onCable_keeps (s : State) (c : Nat) (f : Cable → Cable) : Keeps s (s.onCable c f) := by
  unfold State.onCable
  try dsimp only
  with_reducible repeat' (first
    | simp only [keeps_other, keeps_sys]
    | apply Keeps.refl
    | apply (State.onBlw_keeps _ _).after
    | split
    | intro _)

theorem State.cableStart_keeps (s : State) (c : Nat) : Keeps s (s.cableStart c) := by
  unfold State.cableStart
  try dsimp only
  with_reducible repeat' (first
    | simp only [keeps_other, keeps_sys]
    | apply Keeps.refl
    | apply (State.onCable_keeps _ _ _).after
    | split
    | intro _)

theorem State.cableStroke_keeps (s : State) (c : Nat) : Keeps s (s.cableStroke c) := by
  unfold State.cableStroke
  try dsimp only
  with_reducible repeat' (first
    | simp only [keeps_other, keeps_sys]
    | apply Keeps.refl
    | apply (State.bind_keeps _ _ _ _).after
    | apply (State.onCable_keeps _ _ _).after
    | split
    | intro _)

theorem State.bellowsStroke_keeps (s : State) : Keeps s (s.bellowsStroke) := by
  unfold State.bellowsStroke
  try dsimp only
  with_reducible repeat' (first
    | apply Keeps.refl
    | apply (State.cableStroke_keeps _ _).after
    | apply (State.each_keeps _ _ _ ?_).after
    | split
    | intro _)

theorem State.cableBegin_keeps (s : State) (c : Nat) : Keeps s (s.cableBegin c) := by
  unfold State.cableBegin
  try dsimp only
  with_reducible repeat' (first
    | simp only [keeps_other, keeps_sys]
    | apply Keeps.refl
    | apply (State.setFlag_keeps _ _ _ _).after
    | apply (State.onCable_keeps _ _ _).after
    | apply keeps_ite
    | split
    | intro _)

theorem State.showTc_keeps (s : State) (c : Nat) : Keeps s (s.showTc c) := by
  unfold State.showTc
  try dsimp only
  with_reducible repeat' (first
    | apply Keeps.refl
    | apply (State.setFld_keeps _ _ _ _).after
    | split
    | intro _)

theorem State.cableHeat_keeps (s : State) (c : Nat) : Keeps s (s.cableHeat c) := by
  unfold State.cableHeat
  try dsimp only
  with_reducible repeat' (first
    | simp only [keeps_other, keeps_sys]
    | apply Keeps.refl
    | apply (State.setFlag_keeps _ _ _ _).after
    | apply (State.report_keeps _ _ _).after
    | apply (State.onCable_keeps _ _ _).after
    | apply (State.showTc_keeps _ _).after
    | apply keeps_ite
    | split
    | intro _)

theorem State.bellowsHeat_keeps (s : State) : Keeps s (s.bellowsHeat) := by
  unfold State.bellowsHeat
  try dsimp only
  with_reducible repeat' (first
    | simp only [keeps_other, keeps_sys]
    | apply Keeps.refl
    | apply (State.setFld_keeps _ _ _ _).after
    | apply (State.setFlag_keeps _ _ _ _).after
    | apply (State.count_keeps _ _ _ _).after
    | apply (State.completed_keeps _ _).after
    | apply (State.onBlw_keeps _ _).after
    | apply (State.onCable_keeps _ _ _).after
    | apply (State.cableBegin_keeps _ _).after
    | apply keeps_ite
    | apply (State.each_keeps _ _ _ ?_).after
    | split
    | intro _)

theorem State.stepCables_keeps (s : State) : Keeps s (s.stepCables) := by
  unfold State.stepCables
  try dsimp only
  with_reducible repeat' (first
    | apply Keeps.refl
    | apply (State.cableHeat_keeps _ _).after
    | apply (State.each_keeps _ _ _ ?_).after
    | split
    | intro _)

theorem State.publishLimit_keeps (s : State) (x : Nat × Nat × List Nat) : Keeps s (s.publishLimit x) := by
  unfold State.publishLimit
  try dsimp only
  with_reducible repeat' (first
    | simp only [keeps_other, keeps_sys]
    | apply Keeps.refl
    | apply (State.setFld_keeps _ _ _ _).after
    | apply (keeps_foldl_fst _ _ ?_ _).after
    | apply (keeps_foldl_snd _ _ ?_ _).after
    | apply (keeps_foldl _ _ ?_ _).after
    | split
    | intro _)

theorem State.setCooling_keeps (s : State) (r : LoopRec) (pump fan : Rat) : Keeps s (s.setCooling r pump fan) := by
  unfold State.setCooling
  try dsimp only
  with_reducible repeat' (first
    | simp only [keeps_other, keeps_sys]
    | apply Keeps.refl
    | apply (State.writeNum_keeps _ _ _ _ _).after
    | apply keeps_ite
    | split
    | intro _)

theorem State.coolPublish_keeps (s : State) : Keeps s (s.coolPublish) := by
  unfold State.coolPublish
  try dsimp only
  with_reducible repeat' (first
    | simp only [keeps_other, keeps_sys]
    | apply Keeps.refl
    | apply (State.onBlw_keeps _ _).after
    | apply (State.setCooling_keeps _ _ _ _).after
    | apply (keeps_foldl_fst _ _ ?_ _).after
    | apply (keeps_foldl_snd _ _ ?_ _).after
    | apply (keeps_foldl _ _ ?_ _).after
    | split
    | intro _)

theorem State.limitPublish_keeps (s : State) : Keeps s (s.limitPublish) := by
  unfold State.limitPublish
  try dsimp only
  with_reducible repeat' (first
    | simp only [keeps_other, keeps_sys]
    | apply Keeps.refl
    | apply (State.setFld_keeps _ _ _ _).after
    | apply (State.setFlag_keeps _ _ _ _).after
    | apply (State.report_keeps _ _ _).after
    | apply (State.completed_keeps _ _).after
    | apply (State.onBlw_keeps _ _).after
    | apply (State.stepCables_keeps _).after
    | apply (State.publishLimit_keeps _ _).after
    | apply (State.setCooling_keeps _ _ _ _).after
    | apply (State.coolPublish_keeps _).after
    | apply keeps_ite
    | apply (State.each_keeps _ _ _ ?_).after
    | apply (keeps_foldl_fst _ _ ?_ _).after
    | apply (keeps_foldl_snd _ _ ?_ _).after
    | apply (keeps_foldl _ _ ?_ _).after
    | split
    | intro _)

theorem State.cableUndo_keeps (s : State) (c : Nat) : Keeps s (s.cableUndo c) := by
  unfold State.cableUndo
  try dsimp only
  with_reducible repeat' (first
    | simp only [keeps_other, keeps_sys]
    | apply Keeps.refl
    | apply (State.onCable_keeps _ _ _).after
    | apply (State.showTc_keeps _ _).after
    | split
    | intro _)

theorem State.bellowsDrop_keeps (s : State) : Keeps s (s.bellowsDrop) := by
  unfold State.bellowsDrop
  try dsimp only
  with_reducible repeat' (first
    | simp only [keeps_other, keeps_sys]
    | apply Keeps.refl
    | apply (State.onBlw_keeps _ _).after
    | apply (State.cableUndo_keeps _ _).after
    | apply (State.each_keeps _ _ _ ?_).after
    | split
    | intro _)

theorem State.bellowsOverrun_keeps (s : State) : Keeps s (s.bellowsOverrun) := by
  unfold State.bellowsOverrun
  try dsimp only
  with_reducible repeat' (first
    | apply Keeps.refl
    | apply (State.setFld_keeps _ _ _ _).after
    | apply (State.bumpSat_keeps _ _ _).after
    | apply (State.report_keeps _ _ _).after
    | apply (State.count_keeps _ _ _ _).after
    | apply (State.countOverrun_keeps _ _ _).after
    | apply (State.bellowsDrop_keeps _).after
    | split
    | intro _)

theorem State.bellowsLimit_keeps (s : State) : Keeps s (s.bellowsLimit) := by
  unfold State.bellowsLimit
  try dsimp only
  with_reducible repeat' (first
    | simp only [keeps_other, keeps_sys]
    | apply Keeps.refl
    | apply (State.onBlw_keeps _ _).after
    | apply (State.bellowsDrop_keeps _).after
    | split
    | intro _)

theorem State.coolLoop_keeps (s : State) (l : LoopRec) : Keeps s (s.coolLoop l) := by
  unfold State.coolLoop
  try dsimp only
  with_reducible repeat' (first
    | simp only [keeps_other, keeps_sys]
    | apply Keeps.refl
    | apply (State.onBlw_keeps _ _).after
    | apply keeps_ite
    | split
    | intro _)

theorem State.bellowsRestart_keeps (s : State) : Keeps s (s.bellowsRestart) := by
  unfold State.bellowsRestart
  try dsimp only
  with_reducible repeat' (first
    | simp only [keeps_other, keeps_sys]
    | apply Keeps.refl
    | apply (State.onBlw_keeps _ _).after
    | apply keeps_ite
    | split
    | intro _)

theorem State.noCable_keeps (s : State) : Keeps s (s.noCable) := by
  unfold State.noCable
  try dsimp only
  with_reducible repeat' (first
    | apply Keeps.refl
    | apply (State.report_keeps _ _ _).after
    | apply (State.publishLimit_keeps _ _).after
    | apply (keeps_foldl_fst _ _ ?_ _).after
    | apply (keeps_foldl_snd _ _ ?_ _).after
    | apply (keeps_foldl _ _ ?_ _).after
    | split
    | intro _)

end Sys2Proof.Machine
end

