-- ==== Sys2Proof/Laws/KeepsMortiseCore.lean ====
section
/-! SUPPORT. What each operation of Machine/MortiseCore.lean keeps of the state. -/

namespace Sys2Proof.Machine

open Sys2Proof

theorem State.onMrt_keeps (s : State) (f : Mrt → Mrt) : Keeps s (s.onMrt f) := by
  unfold State.onMrt
  try dsimp only
  with_reducible repeat' (first
    | simp only [keeps_other, keeps_sys]
    | apply Keeps.refl
    | split
    | intro _)

theorem State.onIn_keeps (s : State) (n : Nat) (f : SafeIn → SafeIn) : Keeps s (s.onIn n f) := by
  unfold State.onIn
  try dsimp only
  with_reducible repeat' (first
    | simp only [keeps_other, keeps_sys]
    | apply Keeps.refl
    | apply (State.onMrt_keeps _ _).after
    | split
    | intro _)

theorem State.onFn_keeps (s : State) (n : Nat) (f : SafeFn → SafeFn) : Keeps s (s.onFn n f) := by
  unfold State.onFn
  try dsimp only
  with_reducible repeat' (first
    | simp only [keeps_other, keeps_sys]
    | apply Keeps.refl
    | apply (State.onMrt_keeps _ _).after
    | split
    | intro _)

theorem State.onChan_keeps (s : State) (k : Nat) (f : SafeChan → SafeChan) : Keeps s (s.onChan k f) := by
  unfold State.onChan
  try dsimp only
  with_reducible repeat' (first
    | simp only [keeps_other, keeps_sys]
    | apply Keeps.refl
    | apply (State.onMrt_keeps _ _).after
    | split
    | intro _)

theorem State.onBrake_keeps (s : State) (k : Nat) (f : Brake → Brake) : Keeps s (s.onBrake k f) := by
  unfold State.onBrake
  try dsimp only
  with_reducible repeat' (first
    | simp only [keeps_other, keeps_sys]
    | apply Keeps.refl
    | apply (State.onMrt_keeps _ _).after
    | split
    | intro _)

theorem State.onConn_keeps (s : State) (c : Nat) (f : Conn → Conn) : Keeps s (s.onConn c f) := by
  unfold State.onConn
  try dsimp only
  with_reducible repeat' (first
    | simp only [keeps_other, keeps_sys]
    | apply Keeps.refl
    | apply (State.onMrt_keeps _ _).after
    | split
    | intro _)

theorem State.mrtCode_keeps (s : State) (code : Nat) (subject : Nat) : Keeps s (s.mrtCode code subject) := by
  unfold State.mrtCode
  try dsimp only
  with_reducible repeat' (first
    | apply Keeps.refl
    | apply (State.setFld_keeps _ _ _ _).after
    | apply (State.report_keeps _ _ _).after
    | split
    | intro _)

theorem State.setChanBit_keeps (s : State) (k bit : Nat) (v : Bool) : Keeps s (s.setChanBit k bit v) := by
  unfold State.setChanBit
  try dsimp only
  with_reducible repeat' (first
    | apply Keeps.refl
    | apply (State.setFlag_keeps _ _ _ _).after
    | split
    | intro _)

theorem State.chanOff_keeps (s : State) (k : Nat) : Keeps s (s.chanOff k) := by
  unfold State.chanOff
  try dsimp only
  with_reducible repeat' (first
    | simp only [keeps_other, keeps_sys]
    | apply Keeps.refl
    | apply (State.bumpSat_keeps _ _ _).after
    | apply (State.onChan_keeps _ _ _).after
    | apply (State.mrtCode_keeps _ _ _).after
    | apply (State.setChanBit_keeps _ _ _ _).after
    | apply keeps_ite
    | split
    | intro _)

theorem State.endTest_keeps (s : State) (k : Nat) : Keeps s (s.endTest k) := by
  unfold State.endTest
  try dsimp only
  with_reducible repeat' (first
    | simp only [keeps_other, keeps_sys]
    | apply Keeps.refl
    | apply (State.setFld_keeps _ _ _ _).after
    | apply (State.onBrake_keeps _ _ _).after
    | apply (State.chanOff_keeps _ _).after
    | apply keeps_ite
    | split
    | intro _)

theorem State.testAbort_keeps (s : State) (k : Nat) : Keeps s (s.testAbort k) := by
  unfold State.testAbort
  try dsimp only
  with_reducible repeat' (first
    | apply Keeps.refl
    | apply (State.mrtCode_keeps _ _ _).after
    | apply (State.endTest_keeps _ _).after
    | split
    | intro _)

theorem State.torqueLost_keeps (s : State) (c : Nat) : Keeps s (s.torqueLost c) := by
  unfold State.torqueLost
  try dsimp only
  with_reducible repeat' (first
    | simp only [keeps_other, keeps_sys]
    | apply Keeps.refl
    | apply (State.testAbort_keeps _ _).after
    | apply (State.each_keeps _ _ _ ?_).after
    | apply (State.when_keeps _ _ _ ?_).after
    | split
    | intro _)

theorem State.tenonOut_keeps (s : State) (c : Nat) (r : ConnRec) (b : List Byte) : Keeps s (s.tenonOut c r b) := by
  unfold State.tenonOut
  try dsimp only
  with_reducible repeat' (first
    | simp only [keeps_other, keeps_sys]
    | apply Keeps.refl
    | apply (State.send_keeps _ _ _ _).after
    | apply keeps_ite
    | split
    | intro _)

theorem State.endTests_keeps (s : State) : Keeps s (s.endTests) := by
  unfold State.endTests
  try dsimp only
  with_reducible repeat' (first
    | apply Keeps.refl
    | apply (State.bumpSat_keeps _ _ _).after
    | apply (State.mrtCode_keeps _ _ _).after
    | apply (State.setChanBit_keeps _ _ _ _).after
    | apply (State.testAbort_keeps _ _).after
    | apply keeps_ite
    | apply (State.each_keeps _ _ _ ?_).after
    | split
    | intro _)

end Sys2Proof.Machine
end

