-- ==== Sys2Proof/Laws/KeepsPegCore.lean ====
section
/-! SUPPORT. What each operation of Machine/PegCore.lean keeps of the state. -/

namespace Sys2Proof.Machine

open Sys2Proof

theorem State.onPeg_keeps (s : State) (f : Peg → Peg) : Keeps s (s.onPeg f) := by
  unfold State.onPeg
  try dsimp only
  with_reducible repeat' (first
    | simp only [keeps_other, keeps_sys]
    | apply Keeps.refl
    | split
    | intro _)

theorem State.pegCode_keeps (s : State) (code : Nat) : Keeps s (s.pegCode code) := by
  unfold State.pegCode
  try dsimp only
  with_reducible repeat' (first
    | apply Keeps.refl
    | apply (State.setFld_keeps _ _ _ _).after
    | apply (State.report_keeps _ _ _).after
    | split
    | intro _)

theorem State.pegEvent_keeps (s : State) (cause : Nat) (took : Bool) : Keeps s (s.pegEvent cause took) := by
  unfold State.pegEvent
  try dsimp only
  with_reducible repeat' (first
    | apply Keeps.refl
    | apply (State.setFld_keeps _ _ _ _).after
    | apply (State.setFlag_keeps _ _ _ _).after
    | split
    | intro _)

theorem State.pdoGate_keeps (s : State) : Keeps s (s.pdoGate) := by
  unfold State.pdoGate
  try dsimp only
  with_reducible repeat' (first
    | simp only [keeps_other, keeps_sys]
    | apply Keeps.refl
    | apply (State.setFld_keeps _ _ _ _).after
    | apply (State.onPeg_keeps _ _).after
    | apply keeps_ite
    | split
    | intro _)

theorem State.pegRelease_keeps (s : State) (cause : Nat) : Keeps s (s.pegRelease cause) := by
  unfold State.pegRelease
  try dsimp only
  with_reducible repeat' (first
    | simp only [keeps_other, keeps_sys]
    | apply Keeps.refl
    | apply (State.setFld_keeps _ _ _ _).after
    | apply (State.modGap_keeps _).after
    | apply (State.endTests_keeps _).after
    | apply (State.onPeg_keeps _ _).after
    | apply (State.pegCode_keeps _ _).after
    | apply (State.pegEvent_keeps _ _ _).after
    | apply (State.pdoGate_keeps _).after
    | apply keeps_ite
    | split
    | intro _)

theorem State.syncLost_keeps (s : State) (next : Nat) : Keeps s (s.syncLost next) := by
  unfold State.syncLost
  try dsimp only
  with_reducible repeat' (first
    | simp only [keeps_other, keeps_sys]
    | apply Keeps.refl
    | apply (State.setFld_keeps _ _ _ _).after
    | apply (State.onPeg_keeps _ _).after
    | apply (State.pegCode_keeps _ _).after
    | apply (State.pdoGate_keeps _).after
    | apply keeps_ite
    | split
    | intro _)

theorem State.safeOff_keeps (s : State) : Keeps s (s.safeOff) := by
  unfold State.safeOff
  try dsimp only
  with_reducible repeat' (first
    | simp only [keeps_other, keeps_sys]
    | apply Keeps.refl
    | apply (State.setFld_keeps _ _ _ _).after
    | apply (State.onChan_keeps _ _ _).after
    | apply keeps_ite
    | apply (State.each_keeps _ _ _ ?_).after
    | apply (keeps_foldl_fst _ _ ?_ _).after
    | apply (keeps_foldl_snd _ _ ?_ _).after
    | apply (keeps_foldl _ _ ?_ _).after
    | split
    | intro _)

theorem State.gatesAllOff_keeps (s : State) : Keeps s (s.gatesAllOff) := by
  unfold State.gatesAllOff
  try dsimp only
  with_reducible repeat' (first
    | apply Keeps.refl
    | apply (State.gatesOff_keeps _ _).after
    | apply (State.each_keeps _ _ _ ?_).after
    | split
    | intro _)

theorem State.failIsland_keeps (s : State) (k : Nat) : Keeps s (s.failIsland k) := by
  unfold State.failIsland
  try dsimp only
  with_reducible repeat' (first
    | simp only [keeps_other, keeps_sys]
    | apply Keeps.refl
    | apply (State.setFld_keeps _ _ _ _).after
    | apply (State.pegRelease_keeps _ _).after
    | apply (State.syncLost_keeps _ _).after
    | apply (State.safeOff_keeps _).after
    | apply (State.gatesAllOff_keeps _).after
    | apply keeps_ite
    | split
    | intro _)

theorem State.dieTest_keeps (s : State) (t : List Int) (k : Nat) (off : Bool) : Keeps s (s.dieTest t k off) := by
  unfold State.dieTest
  try dsimp only
  with_reducible repeat' (first
    | simp only [keeps_other, keeps_sys]
    | apply Keeps.refl
    | apply (State.setFld_keeps _ _ _ _).after
    | apply (State.report_keeps _ _ _).after
    | apply (State.onBlw_keeps _ _).after
    | apply keeps_ite
    | split
    | intro _)

theorem State.throttle_keeps (s : State) (n : Nat) : Keeps s (s.throttle n) := by
  unfold State.throttle
  try dsimp only
  with_reducible repeat' (first
    | apply Keeps.refl
    | apply (State.setFld_keeps _ _ _ _).after
    | apply (State.report_keeps _ _ _).after
    | apply keeps_ite
    | split
    | intro _)

theorem State.dieCritical_keeps (s : State) : Keeps s (s.dieCritical) := by
  unfold State.dieCritical
  try dsimp only
  with_reducible repeat' (first
    | simp only [keeps_other, keeps_sys]
    | apply Keeps.refl
    | apply (State.setFld_keeps _ _ _ _).after
    | apply (State.report_keeps _ _ _).after
    | apply (State.onBlw_keeps _ _).after
    | apply (State.pegRelease_keeps _ _).after
    | apply (State.throttle_keeps _ _).after
    | apply keeps_ite
    | split
    | intro _)

theorem State.dieSample_keeps (s : State) (t : List Int) : Keeps s (s.dieSample t) := by
  unfold State.dieSample
  try dsimp only
  with_reducible repeat' (first
    | simp only [keeps_other, keeps_sys]
    | apply Keeps.refl
    | apply (State.setFld_keeps _ _ _ _).after
    | apply (State.onBlw_keeps _ _).after
    | apply (State.dieTest_keeps _ _ _ _).after
    | apply (State.dieCritical_keeps _).after
    | apply keeps_ite
    | apply (State.each_keeps _ _ _ ?_).after
    | apply (keeps_foldl_fst _ _ ?_ _).after
    | apply (keeps_foldl_snd _ _ ?_ _).after
    | apply (keeps_foldl _ _ ?_ _).after
    | split
    | intro _)

end Sys2Proof.Machine
end

