-- ==== Sys2Proof/Laws/KeepsHallmark.lean ====
section
/-! SUPPORT. What each operation of Machine/Hallmark.lean keeps of the state. -/

namespace Sys2Proof.Machine

open Sys2Proof

theorem State.onAsy_keeps (s : State) (f : Asy → Asy) : Keeps s (s.onAsy f) := by
  unfold State.onAsy
  try dsimp only
  with_reducible repeat' (first
    | simp only [keeps_other, keeps_sys]
    | apply Keeps.refl
    | split
    | intro _)

theorem State.onMeter_keeps (s : State) (n : Nat) (f : Meter → Meter) : Keeps s (s.onMeter n f) := by
  unfold State.onMeter
  try dsimp only
  with_reducible repeat' (first
    | simp only [keeps_other, keeps_sys]
    | apply Keeps.refl
    | apply (State.onAsy_keeps _ _).after
    | split
    | intro _)

theorem State.onDisc_keeps (s : State) (o : Nat) (f : Disc → Disc) : Keeps s (s.onDisc o f) := by
  unfold State.onDisc
  try dsimp only
  with_reducible repeat' (first
    | simp only [keeps_other, keeps_sys]
    | apply Keeps.refl
    | apply (State.onAsy_keeps _ _).after
    | split
    | intro _)

theorem State.setAmount_keeps (s : State) (lo hi : Reg) (i key : Nat) (q : Rat) : Keeps s (s.setAmount lo hi i key q) := by
  unfold State.setAmount
  try dsimp only
  with_reducible repeat' (first
    | simp only [keeps_other, keeps_sys]
    | apply Keeps.refl
    | apply (State.setPair_keeps _ _ _ _ _).after
    | apply (State.onAsy_keeps _ _).after
    | split
    | intro _)

theorem State.addAcc_keeps (s : State) (n q : Nat) (e : Rat) : Keeps s (s.addAcc n q e) := by
  unfold State.addAcc
  try dsimp only
  with_reducible repeat' (first
    | apply Keeps.refl
    | apply (State.setAmount_keeps _ _ _ _ _ _).after
    | split
    | intro _)

theorem State.setTreg_keeps (s : State) (n t q : Nat) (e : Rat) : Keeps s (s.setTreg n t q e) := by
  unfold State.setTreg
  try dsimp only
  with_reducible repeat' (first
    | apply Keeps.refl
    | apply (State.setAmount_keeps _ _ _ _ _ _).after
    | split
    | intro _)

theorem State.setCredit_keeps (s : State) (o : Nat) (q : Rat) : Keeps s (s.setCredit o q) := by
  unfold State.setCredit
  try dsimp only
  with_reducible repeat' (first
    | apply Keeps.refl
    | apply (State.setAmount_keeps _ _ _ _ _ _).after
    | split
    | intro _)

theorem State.showSync_keeps (s : State) : Keeps s (s.showSync) := by
  unfold State.showSync
  try dsimp only
  with_reducible repeat' (first
    | apply Keeps.refl
    | apply (State.setFlag_keeps _ _ _ _).after
    | apply (State.report_keeps _ _ _).after
    | apply keeps_ite
    | split
    | intro _)

theorem State.showLog_keeps (s : State) : Keeps s (s.showLog) := by
  unfold State.showLog
  try dsimp only
  with_reducible repeat' (first
    | apply Keeps.refl
    | apply (State.setFld_keeps _ _ _ _).after
    | apply (State.setFlag_keeps _ _ _ _).after
    | split
    | intro _)

theorem State.fillLog_keeps (s : State) : Keeps s (s.fillLog) := by
  unfold State.fillLog
  try dsimp only
  with_reducible repeat' (first
    | simp only [keeps_other, keeps_sys]
    | apply Keeps.refl
    | apply (State.onAsy_keeps _ _).after
    | apply (State.showLog_keeps _).after
    | apply (keeps_foldl_fst _ _ ?_ _).after
    | apply (keeps_foldl_snd _ _ ?_ _).after
    | apply (keeps_foldl _ _ ?_ _).after
    | split
    | intro _)

theorem State.logRec_keeps (s : State) (r : HmkRec) : Keeps s (s.logRec r) := by
  unfold State.logRec
  try dsimp only
  with_reducible repeat' (first
    | simp only [keeps_other, keeps_sys]
    | apply Keeps.refl
    | apply (State.onAsy_keeps _ _).after
    | apply (State.showLog_keeps _).after
    | apply (State.fillLog_keeps _).after
    | apply keeps_ite
    | split
    | intro _)

theorem State.writeRec_keeps (s : State) (h : RecHead) (body : List Byte) (k : RecKind) : Keeps s (s.writeRec h body k) := by
  unfold State.writeRec
  try dsimp only
  with_reducible repeat' (first
    | simp only [keeps_other, keeps_sys]
    | apply Keeps.refl
    | apply (State.setPair_keeps _ _ _ _ _).after
    | apply (State.count_keeps _ _ _ _).after
    | apply (State.logRec_keeps _ _).after
    | apply keeps_ite
    | split
    | intro _)

theorem State.showPfs_keeps (s : State) : Keeps s (s.showPfs) := by
  unfold State.showPfs
  try dsimp only
  with_reducible repeat' (first
    | apply Keeps.refl
    | apply (State.setReg_keeps _ _ _ _).after
    | apply keeps_ite
    | apply (State.each_keeps _ _ _ ?_).after
    | split
    | intro _)

theorem State.gapRecord_keeps (s : State) (pts : List Nat) (start span cause flags : Nat) (k : RecKind) : Keeps s (s.gapRecord pts start span cause flags k) := by
  unfold State.gapRecord
  try dsimp only
  with_reducible repeat' (first
    | simp only [keeps_other, keeps_sys]
    | apply Keeps.refl
    | apply (State.report_keeps _ _ _).after
    | apply (State.onAsy_keeps _ _).after
    | apply (State.onMeter_keeps _ _ _).after
    | apply (State.writeRec_keeps _ _ _ _).after
    | apply keeps_ite
    | apply (keeps_foldl_fst _ _ ?_ _).after
    | apply (keeps_foldl_snd _ _ ?_ _).after
    | apply (keeps_foldl _ _ ?_ _).after
    | split
    | intro _)

theorem State.openGap_keeps (s : State) (n start : Nat) : Keeps s (s.openGap n start) := by
  unfold State.openGap
  try dsimp only
  with_reducible repeat' (first
    | simp only [keeps_other, keeps_sys]
    | apply Keeps.refl
    | apply (State.onMeter_keeps _ _ _).after
    | split
    | intro _)

theorem State.closeGapAt_keeps (s : State) (n end_ : Nat) (k : RecKind) : Keeps s (s.closeGapAt n end_ k) := by
  unfold State.closeGapAt
  try dsimp only
  with_reducible repeat' (first
    | simp only [keeps_other, keeps_sys]
    | apply Keeps.refl
    | apply (State.onMeter_keeps _ _ _).after
    | apply (State.gapRecord_keeps _ _ _ _ _ _ _).after
    | apply keeps_ite
    | split
    | intro _)

theorem State.closeGap_keeps (s : State) (n : Nat) : Keeps s (s.closeGap n) := by
  unfold State.closeGap
  try dsimp only
  with_reducible repeat' (first
    | apply Keeps.refl
    | apply (State.closeGapAt_keeps _ _ _ _).after
    | split
    | intro _)

theorem State.closeAcGapsAt_keeps (s : State) (end_ : Nat) (k : RecKind) : Keeps s (s.closeAcGapsAt end_ k) := by
  unfold State.closeAcGapsAt
  try dsimp only
  with_reducible repeat' (first
    | simp only [keeps_other, keeps_sys]
    | apply Keeps.refl
    | apply (State.onMeter_keeps _ _ _).after
    | apply (State.gapRecord_keeps _ _ _ _ _ _ _).after
    | apply (State.each_keeps _ _ _ ?_).after
    | split
    | intro _)

theorem State.closeAcGaps_keeps (s : State) : Keeps s (s.closeAcGaps) := by
  unfold State.closeAcGaps
  try dsimp only
  with_reducible repeat' (first
    | apply Keeps.refl
    | apply (State.closeAcGapsAt_keeps _ _ _).after
    | split
    | intro _)

theorem State.closeGaps_keeps (s : State) (end_ : Nat) (k : RecKind) : Keeps s (s.closeGaps end_ k) := by
  unfold State.closeGaps
  try dsimp only
  with_reducible repeat' (first
    | apply Keeps.refl
    | apply (State.closeGapAt_keeps _ _ _ _).after
    | apply (State.closeAcGapsAt_keeps _ _ _).after
    | apply (State.each_keeps _ _ _ ?_).after
    | split
    | intro _)

theorem State.reopenGap_keeps (s : State) (n : Nat) : Keeps s (s.reopenGap n) := by
  unfold State.reopenGap
  try dsimp only
  with_reducible repeat' (first
    | apply Keeps.refl
    | apply (State.openGap_keeps _ _ _).after
    | apply (State.when_keeps _ _ _ ?_).after
    | split
    | intro _)

theorem State.deliverFrom_keeps (s : State) (l : List HmkRec) : Keeps s (s.deliverFrom l) := by
  induction l generalizing s with
  | nil => exact Keeps.refl s
  | cons r t ih =>
    unfold State.deliverFrom
    dsimp only
    with_reducible repeat' (first
      | exact Keeps.refl _
      | apply (ih _).after
      | apply (State.report_keeps _ _ _).after
      | apply (State.ringPush_keeps _ _ _).after
      | apply (State.ringLost_keeps _ _).after
      | apply (State.onAsy_keeps _ _).after
      | apply keeps_ite
      | split)

theorem State.deliverLog_keeps (s : State) : Keeps s (s.deliverLog) := by
  unfold State.deliverLog
  try dsimp only
  with_reducible repeat' (first
    | apply Keeps.refl
    | apply (State.deliverFrom_keeps _ _).after
    | split
    | intro _)

theorem State.hallmarkAck_keeps (s : State) (n k : Nat) : Keeps s (s.hallmarkAck n k) := by
  unfold State.hallmarkAck
  try dsimp only
  with_reducible repeat' (first
    | simp only [keeps_other, keeps_sys]
    | apply Keeps.refl
    | apply (State.onAsy_keeps _ _).after
    | apply (State.fillLog_keeps _).after
    | apply (State.deliverLog_keeps _).after
    | apply keeps_ite
    | split
    | intro _)

theorem State.encodeOcmf_keeps (s : State) (r : HmkRec) : Keeps s (s.encodeOcmf r) := by
  unfold State.encodeOcmf
  try dsimp only
  with_reducible repeat' (first
    | simp only [keeps_other, keeps_sys]
    | apply Keeps.refl
    | apply (State.tick_keeps _).after
    | apply (State.onAsy_keeps _ _).after
    | apply keeps_ite
    | split
    | intro _)

theorem State.signFront_keeps (s : State) : Keeps s (s.signFront) := by
  unfold State.signFront
  try dsimp only
  with_reducible repeat' (first
    | simp only [keeps_other, keeps_sys]
    | apply Keeps.refl
    | apply (State.tick_keeps _).after
    | apply (State.onAsy_keeps _ _).after
    | apply (State.showLog_keeps _).after
    | apply (State.deliverLog_keeps _).after
    | apply (State.encodeOcmf_keeps _ _).after
    | apply keeps_ite
    | split
    | intro _)

theorem State.redeliver_keeps (s : State) : Keeps s (s.redeliver) := by
  unfold State.redeliver
  try dsimp only
  with_reducible repeat' (first
    | simp only [keeps_other, keeps_sys]
    | apply Keeps.refl
    | apply (State.onAsy_keeps _ _).after
    | apply keeps_ite
    | split
    | intro _)

theorem State.showSwitches_keeps (s : State) : Keeps s (s.showSwitches) := by
  unfold State.showSwitches
  try dsimp only
  with_reducible repeat' (first
    | apply Keeps.refl
    | apply (State.setFld_keeps _ _ _ _).after
    | apply (State.each_keeps _ _ _ ?_).after
    | split
    | intro _)

theorem State.setGrid_keeps (s : State) (g : Grid) : Keeps s (s.setGrid g) := by
  unfold State.setGrid
  try dsimp only
  with_reducible repeat' (first
    | simp only [keeps_other, keeps_sys]
    | apply Keeps.refl
    | apply (State.setFld_keeps _ _ _ _).after
    | apply (State.setPair_keeps _ _ _ _ _).after
    | apply (State.onAsy_keeps _ _).after
    | split
    | intro _)

theorem State.takeAt_keeps (s : State) (d extra : Nat) : Keeps s (s.takeAt d extra) := by
  unfold State.takeAt
  try dsimp only
  with_reducible repeat' (first
    | simp only [keeps_other, keeps_sys]
    | apply Keeps.refl
    | apply (State.setFld_keeps _ _ _ _).after
    | apply (State.onAsy_keeps _ _).after
    | apply (State.onMeter_keeps _ _ _).after
    | apply (State.showSwitches_keeps _).after
    | apply (State.setGrid_keeps _ _).after
    | apply keeps_ite
    | apply (State.each_keeps _ _ _ ?_).after
    | split
    | intro _)

theorem State.commitHeld_keeps (s : State) : Keeps s (s.commitHeld) := by
  unfold State.commitHeld
  try dsimp only
  with_reducible repeat' (first
    | simp only [keeps_other, keeps_sys]
    | apply Keeps.refl
    | apply (State.onAsy_keeps _ _).after
    | apply (State.writeRec_keeps _ _ _ _).after
    | split
    | intro _)

theorem State.takeDue_keeps (s : State) (t extra : Nat) : Keeps s (s.takeDue t extra) := by
  unfold State.takeDue
  try dsimp only
  with_reducible repeat' (first
    | simp only [keeps_other, keeps_sys]
    | apply Keeps.refl
    | apply (State.takeAt_keeps _ _ _).after
    | apply keeps_ite
    | split
    | intro _)

theorem State.takeAll_keeps (s : State) (t extra : Nat) : Keeps s (s.takeAll t extra) := by
  unfold State.takeAll
  try dsimp only
  with_reducible repeat' (first
    | apply Keeps.refl
    | apply (State.takeDue_keeps _ _ _).after
    | apply (State.each_keeps _ _ _ ?_).after
    | split
    | intro _)

theorem State.startPulse_keeps (s : State) (t at_ : Nat) : Keeps s (s.startPulse t at_) := by
  unfold State.startPulse
  try dsimp only
  with_reducible repeat' (first
    | simp only [keeps_other, keeps_sys]
    | apply Keeps.refl
    | apply (State.onAsy_keeps _ _).after
    | split
    | intro _)

theorem State.pulseDue_keeps (s : State) (t : Nat) : Keeps s (s.pulseDue t) := by
  unfold State.pulseDue
  try dsimp only
  with_reducible repeat' (first
    | apply Keeps.refl
    | apply (State.setFld_keeps _ _ _ _).after
    | apply (State.startPulse_keeps _ _ _).after
    | apply keeps_ite
    | split
    | intro _)

theorem State.feedTpo_keeps (s : State) (t : Nat) (imp exp_ : Rat) : Keeps s (s.feedTpo t imp exp_) := by
  unfold State.feedTpo
  try dsimp only
  with_reducible repeat' (first
    | simp only [keeps_other, keeps_sys]
    | apply Keeps.refl
    | apply (State.onAsy_keeps _ _).after
    | apply (State.pulseDue_keeps _ _).after
    | apply keeps_ite
    | apply (State.each_keeps _ _ _ ?_).after
    | split
    | intro _)

theorem State.exhaust_keeps (s : State) (o : Nat) : Keeps s (s.exhaust o) := by
  unfold State.exhaust
  try dsimp only
  with_reducible repeat' (first
    | apply Keeps.refl
    | apply (State.setFld_keeps _ _ _ _).after
    | split
    | intro _)

theorem State.judgeCredit_keeps (s : State) (o : Nat) : Keeps s (s.judgeCredit o) := by
  unfold State.judgeCredit
  try dsimp only
  with_reducible repeat' (first
    | simp only [keeps_other, keeps_sys]
    | apply Keeps.refl
    | apply (State.setFld_keeps _ _ _ _).after
    | apply (State.report_keeps _ _ _).after
    | apply (State.onDisc_keeps _ _ _).after
    | apply (State.exhaust_keeps _ _).after
    | apply keeps_ite
    | split
    | intro _)

theorem State.bookLate_keeps (s : State) (n : Nat) (imp exp_ net : Rat) (tariff end_ : Nat) : Keeps s (s.bookLate n imp exp_ net tariff end_) := by
  unfold State.bookLate
  try dsimp only
  with_reducible repeat' (first
    | simp only [keeps_other, keeps_sys]
    | apply Keeps.refl
    | apply (State.onAsy_keeps _ _).after
    | apply keeps_ite
    | split
    | intro _)

theorem State.book_keeps (s : State) (n : Nat) (e : Rat) (tariff : Nat) (end_ : Option Nat) : Keeps s (s.book n e tariff end_) := by
  unfold State.book
  try dsimp only
  with_reducible repeat' (first
    | simp only [keeps_other, keeps_sys]
    | apply Keeps.refl
    | apply (State.addAcc_keeps _ _ _ _).after
    | apply (State.setTreg_keeps _ _ _ _ _).after
    | apply (State.setCredit_keeps _ _ _).after
    | apply (State.feedTpo_keeps _ _ _ _).after
    | apply (State.judgeCredit_keeps _ _).after
    | apply (State.bookLate_keeps _ _ _ _ _ _ _).after
    | apply keeps_ite
    | apply (State.each_keeps _ _ _ ?_).after
    | split
    | intro _)

theorem State.discWrite_keeps (s : State) (o : Nat) (v : Nat) : Keeps s (s.discWrite o v) := by
  unfold State.discWrite
  try dsimp only
  with_reducible repeat' (first
    | simp only [keeps_other, keeps_sys]
    | apply Keeps.refl
    | apply (State.writeNum_keeps _ _ _ _ _).after
    | apply keeps_ite
    | split
    | intro _)

theorem State.discRecord_keeps (s : State) (o event : Nat) : Keeps s (s.discRecord o event) := by
  unfold State.discRecord
  try dsimp only
  with_reducible repeat' (first
    | simp only [keeps_other, keeps_sys]
    | apply Keeps.refl
    | apply (State.writeRec_keeps _ _ _ _).after
    | split
    | intro _)

theorem State.discPoll_keeps (s : State) (o : Nat) : Keeps s (s.discPoll o) := by
  unfold State.discPoll
  try dsimp only
  with_reducible repeat' (first
    | apply Keeps.refl
    | apply (State.setFld_keeps _ _ _ _).after
    | apply (State.discRecord_keeps _ _ _).after
    | apply keeps_ite
    | split
    | intro _)

theorem State.discClose_keeps (s : State) (o : Nat) : Keeps s (s.discClose o) := by
  unfold State.discClose
  try dsimp only
  with_reducible repeat' (first
    | simp only [keeps_other, keeps_sys]
    | apply Keeps.refl
    | apply (State.setFld_keeps _ _ _ _).after
    | apply (State.onDisc_keeps _ _ _).after
    | apply (State.discWrite_keeps _ _ _).after
    | apply keeps_ite
    | split
    | intro _)

theorem State.discOpen_keeps (s : State) (o event : Nat) : Keeps s (s.discOpen o event) := by
  unfold State.discOpen
  try dsimp only
  with_reducible repeat' (first
    | simp only [keeps_other, keeps_sys]
    | apply Keeps.refl
    | apply (State.setFld_keeps _ _ _ _).after
    | apply (State.onDisc_keeps _ _ _).after
    | apply (State.discWrite_keeps _ _ _).after
    | apply (State.discRecord_keeps _ _ _).after
    | split
    | intro _)

theorem State.discAsk_keeps (s : State) (o : Nat) : Keeps s (s.discAsk o) := by
  unfold State.discAsk
  try dsimp only
  with_reducible repeat' (first
    | simp only [keeps_other, keeps_sys]
    | apply Keeps.refl
    | apply (State.onDisc_keeps _ _ _).after
    | apply keeps_ite
    | split
    | intro _)

theorem State.discFault_keeps (s : State) (o event : Nat) : Keeps s (s.discFault o event) := by
  unfold State.discFault
  try dsimp only
  with_reducible repeat' (first
    | apply Keeps.refl
    | apply (State.setFld_keeps _ _ _ _).after
    | apply (State.report_keeps _ _ _).after
    | apply (State.exhaust_keeps _ _).after
    | apply (State.discRecord_keeps _ _ _).after
    | split
    | intro _)

theorem State.stopTxn_keeps (s : State) (n reason : Nat) : Keeps s (s.stopTxn n reason) := by
  unfold State.stopTxn
  try dsimp only
  with_reducible repeat' (first
    | simp only [keeps_other, keeps_sys]
    | apply Keeps.refl
    | apply (State.setReg_keeps _ _ _ _).after
    | apply (State.setFld_keeps _ _ _ _).after
    | apply (State.onAsy_keeps _ _).after
    | apply (State.onDisc_keeps _ _ _).after
    | apply (State.writeRec_keeps _ _ _ _).after
    | apply (State.closeGap_keeps _ _).after
    | apply (State.reopenGap_keeps _ _).after
    | apply (State.discAsk_keeps _ _).after
    | apply keeps_ite
    | split
    | intro _)

theorem State.saveEnergy_keeps (s : State) (us : Nat) (final : Bool) : Keeps s (s.saveEnergy us final) := by
  unfold State.saveEnergy
  try dsimp only
  with_reducible repeat' (first
    | simp only [keeps_other, keeps_sys]
    | apply Keeps.refl
    | apply (State.setBytes_keeps _ _ _).after
    | apply (State.onAsy_keeps _ _).after
    | apply keeps_ite
    | split
    | intro _)

theorem State.loadEntry_keeps (s : State) (a n : Nat) : Keeps s (s.loadEntry a n) := by
  unfold State.loadEntry
  try dsimp only
  with_reducible repeat' (first
    | simp only [keeps_other, keeps_sys]
    | apply Keeps.refl
    | apply (State.setFld_keeps _ _ _ _).after
    | apply (State.onAsy_keeps _ _).after
    | apply (State.setAmount_keeps _ _ _ _ _ _).after
    | apply (State.setTreg_keeps _ _ _ _ _).after
    | apply (State.setCredit_keeps _ _ _).after
    | apply keeps_ite
    | split
    | intro _)

end Sys2Proof.Machine
end

