-- ==== Sys2Proof/Laws/KeepsAssay.lean ====
section
/-! SUPPORT. What each operation of Machine/Assay.lean keeps of the state. -/

namespace Sys2Proof.Machine

open Sys2Proof

theorem State.acValue_keeps (s : State) (conv c : Nat) (rogowski : Bool) (code : Int) : Keeps s ((s.acValue conv c rogowski code).2) := by
  unfold State.acValue
  try dsimp only
  with_reducible repeat' (first
    | simp only [keeps_other, keeps_sys]
    | apply Keeps.refl
    | apply (State.onAsy_keeps _ _).after
    | apply keeps_ite_snd
    | split
    | intro _)

theorem State.acValues_keeps (s : State) (conv a : Nat) (codes : List Int) : Keeps s ((s.acValues conv a codes).2) := by
  unfold State.acValues
  try dsimp only
  with_reducible repeat' (first
    | apply Keeps.refl
    | apply (State.acValue_keeps _ _ _ _ _).after
    | apply (keeps_foldl_fst _ _ ?_ _).after
    | apply (keeps_foldl_snd _ _ ?_ _).after
    | apply (keeps_foldl _ _ ?_ _).after
    | split
    | intro _)

theorem State.overrange_keeps (s : State) (n : Nat) (v : Bool) : Keeps s (s.overrange n v) := by
  unfold State.overrange
  try dsimp only
  with_reducible repeat' (first
    | simp only [keeps_other, keeps_sys]
    | apply Keeps.refl
    | apply (State.setFlag_keeps _ _ _ _).after
    | apply (State.report_keeps _ _ _).after
    | apply (State.onMeter_keeps _ _ _).after
    | apply keeps_ite
    | refine keeps_of_snd (by assumption) ?_
    | split
    | intro _)

theorem State.showMeter_keeps (s : State) : Keeps s (s.showMeter) := by
  unfold State.showMeter
  try dsimp only
  with_reducible repeat' (first
    | apply Keeps.refl
    | apply (State.setFlag_keeps _ _ _ _).after
    | split
    | intro _)

theorem State.meterFault_keeps (s : State) (n : Nat) : Keeps s (s.meterFault n) := by
  unfold State.meterFault
  try dsimp only
  with_reducible repeat' (first
    | simp only [keeps_other, keeps_sys]
    | apply Keeps.refl
    | apply (State.setFld_keeps _ _ _ _).after
    | apply (State.report_keeps _ _ _).after
    | apply (State.onMeter_keeps _ _ _).after
    | apply (State.openGap_keeps _ _ _).after
    | apply (State.exhaust_keeps _ _).after
    | apply (State.showMeter_keeps _).after
    | apply keeps_ite
    | split
    | intro _)

theorem State.dcSample_keeps (s : State) (x : MeterSample) (n : Nat) : Keeps s (s.dcSample x n) := by
  unfold State.dcSample
  try dsimp only
  with_reducible repeat' (first
    | simp only [keeps_other, keeps_sys]
    | apply Keeps.refl
    | apply (State.setFlag_keeps _ _ _ _).after
    | apply (State.onMeter_keeps _ _ _).after
    | apply (State.onDisc_keeps _ _ _).after
    | apply (State.book_keeps _ _ _ _ _).after
    | apply (State.overrange_keeps _ _ _).after
    | apply (State.meterFault_keeps _ _).after
    | apply keeps_ite
    | split
    | intro _)

theorem State.onAc_keeps (s : State) (a : Nat) (f : AcPoint → AcPoint) : Keeps s (s.onAc a f) := by
  unfold State.onAc
  try dsimp only
  with_reducible repeat' (first
    | simp only [keeps_other, keeps_sys]
    | apply Keeps.refl
    | apply (State.onAsy_keeps _ _).after
    | split
    | intro _)

theorem State.voteOut_keeps (s : State) (k : Nat) : Keeps s (s.voteOut k) := by
  unfold State.voteOut
  try dsimp only
  with_reducible repeat' (first
    | apply Keeps.refl
    | apply (State.setFld_keeps _ _ _ _).after
    | apply (State.report_keeps _ _ _).after
    | apply keeps_ite
    | split
    | intro _)

theorem State.checkFault_keeps (s : State) (from_ : Nat) : Keeps s (s.checkFault from_) := by
  unfold State.checkFault
  try dsimp only
  with_reducible repeat' (first
    | simp only [keeps_other, keeps_sys]
    | apply Keeps.refl
    | apply (State.setFld_keeps _ _ _ _).after
    | apply (State.report_keeps _ _ _).after
    | apply (State.onAsy_keeps _ _).after
    | apply (State.openGap_keeps _ _ _).after
    | apply (State.onAc_keeps _ _ _).after
    | apply (State.each_keeps _ _ _ ?_).after
    | split
    | intro _)

theorem State.restartC_keeps (s : State) (step : Nat) (dispute : Option (Nat × Nat)) : Keeps s (s.restartC step dispute) := by
  unfold State.restartC
  try dsimp only
  with_reducible repeat' (first
    | simp only [keeps_other, keeps_sys]
    | apply Keeps.refl
    | apply (State.onAsy_keeps _ _).after
    | split
    | intro _)

theorem State.checkReference_keeps (s : State) (mine : Bool) : Keeps s (s.checkReference mine) := by
  unfold State.checkReference
  try dsimp only
  with_reducible repeat' (first
    | apply Keeps.refl
    | apply (State.voteOut_keeps _ _).after
    | apply keeps_ite
    | split
    | intro _)

theorem State.verdict_keeps (s : State) (a : Nat) (p : AcPoint) (ch from_ : Nat) : Keeps s (s.verdict a p ch from_) := by
  unfold State.verdict
  try dsimp only
  with_reducible repeat' (first
    | simp only [keeps_other, keeps_sys]
    | apply Keeps.refl
    | apply (State.report_keeps _ _ _).after
    | apply (State.onAc_keeps _ _ _).after
    | apply (State.voteOut_keeps _ _).after
    | apply (State.checkFault_keeps _ _).after
    | apply (State.restartC_keeps _ _ _).after
    | apply keeps_ite
    | apply (State.each_keeps _ _ _ ?_).after
    | split
    | intro _)

theorem State.converterVote_keeps (s : State) (a : Nat) (p : AcPoint) : Keeps s (s.converterVote a p) := by
  unfold State.converterVote
  try dsimp only
  with_reducible repeat' (first
    | simp only [keeps_other, keeps_sys]
    | apply Keeps.refl
    | apply (State.setFld_keeps _ _ _ _).after
    | apply (State.onAsy_keeps _ _).after
    | apply (State.checkFault_keeps _ _).after
    | apply (State.restartC_keeps _ _ _).after
    | apply (State.checkReference_keeps _ _).after
    | apply (State.verdict_keeps _ _ _ _ _).after
    | apply keeps_ite
    | refine keeps_of_snd (by assumption) ?_
    | split
    | intro _)

theorem State.bookCycle_keeps (s : State) (a : Nat) (c : AcCycle) : Keeps s (s.bookCycle a c) := by
  unfold State.bookCycle
  try dsimp only
  with_reducible repeat' (first
    | apply Keeps.refl
    | apply (State.setFlag_keeps _ _ _ _).after
    | apply (State.book_keeps _ _ _ _ _).after
    | apply (State.overrange_keeps _ _ _).after
    | apply keeps_ite
    | split
    | intro _)

theorem State.flushAc_keeps (s : State) : Keeps s (s.flushAc) := by
  unfold State.flushAc
  try dsimp only
  with_reducible repeat' (first
    | simp only [keeps_other, keeps_sys]
    | apply Keeps.refl
    | apply (State.onAc_keeps _ _ _).after
    | apply (State.bookCycle_keeps _ _ _).after
    | apply (State.each_keeps _ _ _ ?_).after
    | apply (keeps_foldl_fst _ _ ?_ _).after
    | apply (keeps_foldl_snd _ _ ?_ _).after
    | apply (keeps_foldl _ _ ?_ _).after
    | split
    | intro _)

theorem State.cycleEnd_keeps (s : State) (a : Nat) : Keeps s (s.cycleEnd a) := by
  unfold State.cycleEnd
  try dsimp only
  with_reducible repeat' (first
    | simp only [keeps_other, keeps_sys]
    | apply Keeps.refl
    | apply (State.setReg_keeps _ _ _ _).after
    | apply (State.setFld_keeps _ _ _ _).after
    | apply (State.tick_keeps _).after
    | apply (State.onAc_keeps _ _ _).after
    | apply (State.converterVote_keeps _ _ _).after
    | apply (State.bookCycle_keeps _ _ _).after
    | apply keeps_ite
    | apply (State.each_keeps _ _ _ ?_).after
    | refine keeps_of_snd (by assumption) ?_
    | split
    | intro _)

theorem State.pqRecord_keeps (s : State) (a typ : Nat) (e : PqEvent) : Keeps s (s.pqRecord a typ e) := by
  unfold State.pqRecord
  try dsimp only
  with_reducible repeat' (first
    | simp only [keeps_other, keeps_sys]
    | apply Keeps.refl
    | apply (State.ringDeliver_keeps _ _ _).after
    | apply (State.onAsy_keeps _ _).after
    | apply keeps_ite
    | split
    | intro _)

theorem State.pqStep_keeps (s : State) (a typ : Nat) (flag : Fld) (code : Nat) (now : Option PqEvent) (starts ends : Bool) (phases : Nat) (worst : Rat) (worse : Rat → Rat → Rat) : Keeps s ((s.pqStep a typ flag code now starts ends phases worst worse).1) := by
  unfold State.pqStep
  try dsimp only
  with_reducible repeat' (first
    | simp only [keeps_other, keeps_sys]
    | apply Keeps.refl
    | apply (State.setFlag_keeps _ _ _ _).after
    | apply (State.report_keeps _ _ _).after
    | apply (State.pqRecord_keeps _ _ _ _).after
    | apply keeps_ite_fst
    | refine keeps_of_snd (by assumption) ?_
    | split
    | intro _)

theorem State.pqRefresh_keeps (s : State) (a : Nat) : Keeps s (s.pqRefresh a) := by
  unfold State.pqRefresh
  try dsimp only
  with_reducible repeat' (first
    | simp only [keeps_other, keeps_sys]
    | apply Keeps.refl
    | apply (State.setFld_keeps _ _ _ _).after
    | apply (State.onAc_keeps _ _ _).after
    | apply (State.pqStep_keeps _ _ _ _ _ _ _ _ _ _ _).after
    | apply keeps_ite
    | apply (keeps_foldl_fst _ _ ?_ _).after
    | apply (keeps_foldl_snd _ _ ?_ _).after
    | apply (keeps_foldl _ _ ?_ _).after
    | split
    | intro _)

theorem State.acSample_keeps (s : State) (x : MeterSample) (a : Nat) : Keeps s (s.acSample x a) := by
  unfold State.acSample
  try dsimp only
  with_reducible repeat' (first
    | simp only [keeps_other, keeps_sys]
    | apply Keeps.refl
    | apply (State.onMeter_keeps _ _ _).after
    | apply (State.acValues_keeps _ _ _ _).after
    | apply (State.onAc_keeps _ _ _).after
    | apply (State.cycleEnd_keeps _ _).after
    | apply (State.pqRefresh_keeps _ _).after
    | apply keeps_ite
    | refine keeps_of_snd (by assumption) ?_
    | split
    | intro _)

theorem State.sampleC_keeps (s : State) (code : Int) : Keeps s (s.sampleC code) := by
  unfold State.sampleC
  try dsimp only
  with_reducible repeat' (first
    | simp only [keeps_other, keeps_sys]
    | apply Keeps.refl
    | apply (State.onAsy_keeps _ _).after
    | apply keeps_ite
    | split
    | intro _)

theorem State.powerFail_keeps (s : State) : Keeps s (s.powerFail) := by
  unfold State.powerFail
  try dsimp only
  with_reducible repeat' (first
    | simp only [keeps_other, keeps_sys]
    | apply Keeps.refl
    | apply (State.onAsy_keeps _ _).after
    | apply (State.writeRec_keeps _ _ _ _).after
    | apply (State.closeGaps_keeps _ _ _).after
    | apply (State.saveEnergy_keeps _ _ _).after
    | apply (State.flushAc_keeps _).after
    | apply keeps_ite
    | apply (keeps_foldl_fst _ _ ?_ _).after
    | apply (keeps_foldl_snd _ _ ?_ _).after
    | apply (keeps_foldl _ _ ?_ _).after
    | split
    | intro _)

theorem State.openFaultGaps_keeps (s : State) : Keeps s (s.openFaultGaps) := by
  unfold State.openFaultGaps
  try dsimp only
  with_reducible repeat' (first
    | apply Keeps.refl
    | apply (State.reopenGap_keeps _ _).after
    | apply (State.each_keeps _ _ _ ?_).after
    | apply (State.when_keeps _ _ _ ?_).after
    | split
    | intro _)

theorem State.powerUp_keeps (s : State) : Keeps s (s.powerUp) := by
  unfold State.powerUp
  try dsimp only
  with_reducible repeat' (first
    | simp only [keeps_other, keeps_sys]
    | apply Keeps.refl
    | apply (State.onAsy_keeps _ _).after
    | apply (State.writeRec_keeps _ _ _ _).after
    | apply (State.gapRecord_keeps _ _ _ _ _ _ _).after
    | apply (State.openFaultGaps_keeps _).after
    | split
    | intro _)

theorem State.boundaryPassed_keeps (s : State) (extra : Nat) : Keeps s (s.boundaryPassed extra) := by
  unfold State.boundaryPassed
  try dsimp only
  with_reducible repeat' (first
    | apply Keeps.refl
    | apply (State.takeAll_keeps _ _ _).after
    | split
    | intro _)

theorem State.driftStep_keeps (s : State) : Keeps s (s.driftStep) := by
  unfold State.driftStep
  try dsimp only
  with_reducible repeat' (first
    | simp only [keeps_other, keeps_sys]
    | apply Keeps.refl
    | apply (State.onAsy_keeps _ _).after
    | apply keeps_ite
    | split
    | intro _)

theorem State.assaySample_keeps (s : State) (x : MeterSample) : Keeps s (s.assaySample x) := by
  unfold State.assaySample
  try dsimp only
  with_reducible repeat' (first
    | simp only [keeps_other, keeps_sys]
    | apply Keeps.refl
    | apply (State.onAsy_keeps _ _).after
    | apply (State.discPoll_keeps _ _).after
    | apply (State.dcSample_keeps _ _ _).after
    | apply (State.acSample_keeps _ _ _).after
    | apply (State.sampleC_keeps _ _).after
    | apply (State.powerFail_keeps _).after
    | apply (State.powerUp_keeps _).after
    | apply (State.boundaryPassed_keeps _ _).after
    | apply (State.driftStep_keeps _).after
    | apply keeps_ite
    | apply (State.each_keeps _ _ _ ?_).after
    | split
    | intro _)

theorem State.plausible_keeps (s : State) (n : Nat) : Keeps s (s.plausible n) := by
  unfold State.plausible
  try dsimp only
  with_reducible repeat' (first
    | simp only [keeps_other, keeps_sys]
    | apply Keeps.refl
    | apply (State.setFld_keeps _ _ _ _).after
    | apply (State.report_keeps _ _ _).after
    | apply (State.onMeter_keeps _ _ _).after
    | apply keeps_ite
    | refine keeps_of_snd (by assumption) ?_
    | split
    | intro _)

theorem State.driftWindow_keeps (s : State) : Keeps s (s.driftWindow) := by
  unfold State.driftWindow
  try dsimp only
  with_reducible repeat' (first
    | simp only [keeps_other, keeps_sys]
    | apply Keeps.refl
    | apply (State.setFld_keeps _ _ _ _).after
    | apply (State.report_keeps _ _ _).after
    | apply (State.onAsy_keeps _ _).after
    | apply (State.showSync_keeps _).after
    | apply keeps_ite
    | refine keeps_of_snd (by assumption) ?_
    | split
    | intro _)

theorem State.publishOutputs_keeps (s : State) : Keeps s (s.publishOutputs) := by
  unfold State.publishOutputs
  try dsimp only
  with_reducible repeat' (first
    | simp only [keeps_other, keeps_sys]
    | apply Keeps.refl
    | apply (State.setFlag_keeps _ _ _ _).after
    | apply (State.each_keeps _ _ _ ?_).after
    | refine keeps_of_snd (by assumption) ?_
    | split
    | intro _)

theorem State.assayHeat_keeps (s : State) : Keeps s (s.assayHeat) := by
  unfold State.assayHeat
  try dsimp only
  with_reducible repeat' (first
    | simp only [keeps_other, keeps_sys]
    | apply Keeps.refl
    | apply (State.setFld_keeps _ _ _ _).after
    | apply (State.bind_keeps _ _ _ _).after
    | apply (State.onAsy_keeps _ _).after
    | apply (State.onMeter_keeps _ _ _).after
    | apply (State.publishOutputs_keeps _).after
    | apply keeps_ite
    | apply (State.each_keeps _ _ _ ?_).after
    | refine keeps_of_snd (by assumption) ?_
    | split
    | intro _)

theorem State.assayLimit_keeps (s : State) : Keeps s (s.assayLimit) := by
  unfold State.assayLimit
  try dsimp only
  with_reducible repeat' (first
    | simp only [keeps_other, keeps_sys]
    | apply Keeps.refl
    | apply (State.report_keeps _ _ _).after
    | apply (State.onAsy_keeps _ _).after
    | apply (State.exhaust_keeps _ _).after
    | apply (State.publishOutputs_keeps _).after
    | apply (State.each_keeps _ _ _ ?_).after
    | split
    | intro _)

end Sys2Proof.Machine
end

