-- ==== Sys2Proof/Laws/KeepsAssayCmd.lean ====
section
/-! SUPPORT. What each operation of Machine/AssayCmd.lean keeps of the state. -/

namespace Sys2Proof.Machine

open Sys2Proof

theorem State.mailDone_keeps (s : State) (code : Nat) : Keeps s (s.mailDone code) := by
  unfold State.mailDone
  try dsimp only
  with_reducible repeat' (first
    | simp only [keeps_other, keeps_sys]
    | apply Keeps.refl
    | apply (State.setFld_keeps _ _ _ _).after
    | apply (State.report_keeps _ _ _).after
    | apply (State.count_keeps _ _ _ _).after
    | apply (State.onAsy_keeps _ _).after
    | apply keeps_ite
    | split
    | intro _)

theorem State.mailFrame_keeps (s : State) : Keeps s s.mailFrame.2 := by
  unfold State.mailFrame
  exact keeps_ite_snd (State.fetch_keeps _ _ _ _) (Keeps.refl s)

theorem State.mailGo_keeps (s : State) : Keeps s s.mailGo := by
  have f := s.mailFrame_keeps
  unfold State.mailGo
  generalize s.mailFrame = r at f ⊢
  obtain ⟨b, t⟩ := r
  dsimp only at f ⊢
  cases b with
  | none => exact keeps_ite (s.report_keeps _ _) (f.trans (t.mailDone_keeps _))
  | some b =>
    exact keeps_ite (s.report_keeps _ _) (keeps_ite (f.trans (t.mailDone_keeps _)) (f.trans ((t.setFld_keeps _ _ _).trans (State.onAsy_keeps _ _))))

theorem State.mail_keeps (s : State) (opcode : Nat) (f : List Byte → Nat × State) (h : ∀ b, Keeps s (f b).2) : Keeps s (s.mail opcode f) := by
  unfold State.mail
  dsimp only
  with_reducible repeat' (first
    | exact Keeps.refl _
    | exact h _
    | apply (State.mailDone_keeps _ _).after
    | apply keeps_ite)

theorem okMail_keeps (s : State) : Keeps s ((okMail s).2) := by
  unfold okMail
  try dsimp only
  with_reducible repeat' (first
    | apply Keeps.refl
    | split
    | intro _)

theorem noMail_keeps (s : State) (code : Nat) : Keeps s ((noMail s code).2) := by
  unfold noMail
  try dsimp only
  with_reducible repeat' (first
    | apply Keeps.refl
    | split
    | intro _)

theorem State.boundaryRecord_keeps (s : State) (want : Held_ → Bool) : Keeps s (s.boundaryRecord want) := by
  unfold State.boundaryRecord
  try dsimp only
  with_reducible repeat' (first
    | simp only [keeps_other, keeps_sys]
    | apply Keeps.refl
    | apply (State.commitHeld_keeps _).after
    | apply (State.boundaryPassed_keeps _ _).after
    | apply keeps_ite
    | refine keeps_of_snd (by assumption) ?_
    | split
    | intro _)

theorem State.sealRecord_keeps (s : State) (event : Nat) (ver crc : W32) : Keeps s (s.sealRecord event ver crc) := by
  unfold State.sealRecord
  try dsimp only
  with_reducible repeat' (first
    | apply Keeps.refl
    | apply (State.writeRec_keeps _ _ _ _).after
    | split
    | intro _)

theorem State.sealedPut_keeps (s : State) (r : Reg) (k : Nat) (v : W32) : Keeps s (s.sealedPut r k v) := by
  unfold State.sealedPut
  try dsimp only
  with_reducible repeat' (first
    | apply Keeps.refl
    | apply (State.setReg_keeps _ _ _ _).after
    | split
    | intro _)

theorem State.rwsWrite_keeps (s : State) (ofs : Nat) (v : W32) : Keeps s (s.rwsWrite ofs v) := by
  unfold State.rwsWrite
  try dsimp only
  with_reducible repeat' (first
    | simp only [keeps_other, keeps_sys]
    | apply Keeps.refl
    | apply (State.report_keeps _ _ _).after
    | apply (State.onAsy_keeps _ _).after
    | apply keeps_ite
    | refine keeps_of_snd (by assumption) ?_
    | split
    | intro _)

theorem State.applyRws_keeps (s : State) (r : Reg) (k : Nat) (v : W32) : Keeps s (s.applyRws r k v) := by
  unfold State.applyRws
  try dsimp only
  with_reducible repeat' (first
    | simp only [keeps_other, keeps_sys]
    | apply Keeps.refl
    | apply (State.setFld_keeps _ _ _ _).after
    | apply (State.onAsy_keeps _ _).after
    | apply (State.writeRec_keeps _ _ _ _).after
    | apply (State.sealedPut_keeps _ _ _ _).after
    | apply keeps_ite
    | split
    | intro _)

theorem State.discTake_keeps (s : State) (o : Nat) : Keeps s (s.discTake o) := by
  unfold State.discTake
  try dsimp only
  with_reducible repeat' (first
    | simp only [keeps_other, keeps_sys]
    | apply Keeps.refl
    | apply (State.setFld_keeps _ _ _ _).after
    | apply keeps_ite
    | refine keeps_of_snd (by assumption) ?_
    | split
    | intro _)

theorem Held_.undo_keeps (h : Held_) (s : State) : Keeps s (Held_.undo h s) := by
  unfold Held_.undo
  try dsimp only
  with_reducible repeat' (first
    | simp only [keeps_other, keeps_sys]
    | apply Keeps.refl
    | apply (State.setFld_keeps _ _ _ _).after
    | apply (State.onAsy_keeps _ _).after
    | apply (State.setGrid_keeps _ _).after
    | apply (keeps_foldl_fst _ _ ?_ _).after
    | apply (keeps_foldl_snd _ _ ?_ _).after
    | apply (keeps_foldl _ _ ?_ _).after
    | split
    | intro _)

theorem State.undoHeld_keeps (s : State) : Keeps s (s.undoHeld) := by
  unfold State.undoHeld
  try dsimp only
  with_reducible repeat' (first
    | simp only [keeps_other, keeps_sys]
    | apply Keeps.refl
    | apply (State.onAsy_keeps _ _).after
    | apply (State.showSwitches_keeps _).after
    | apply (Held_.undo_keeps _ _).after
    | apply (keeps_foldr _ _ ?_ _).after
    | split
    | intro _)

theorem State.assayReset_keeps (s : State) (restart : Bool) : Keeps s (s.assayReset restart) := by
  unfold State.assayReset
  try dsimp only
  with_reducible repeat' (first
    | simp only [keeps_other, keeps_sys]
    | apply Keeps.refl
    | apply (State.dropRegs_keeps _ _).after
    | apply State.keepingSeal_keeps
    | apply (State.onAsy_keeps _ _).after
    | apply (State.undoHeld_keeps _).after
    | apply (keeps_foldl_fst _ _ ?_ _).after
    | apply (keeps_foldl_snd _ _ ?_ _).after
    | apply (keeps_foldl _ _ ?_ _).after
    | refine keeps_of_snd (by assumption) ?_
    | split
    | intro _)

theorem State.assayClaim_keeps (s : State) : Keeps s (s.assayClaim) := by
  unfold State.assayClaim
  try dsimp only
  with_reducible repeat' (first
    | apply Keeps.refl
    | apply (State.setReg_keeps _ _ _ _).after
    | apply (State.setFld_keeps _ _ _ _).after
    | apply (State.modOwners_keeps _).after
    | apply (State.each_keeps _ _ _ ?_).after
    | apply (keeps_foldl_fst _ _ ?_ _).after
    | apply (keeps_foldl_snd _ _ ?_ _).after
    | apply (keeps_foldl _ _ ?_ _).after
    | split
    | intro _)

theorem State.signProvisional_keeps (s : State) : Keeps s (s.signProvisional) := by
  unfold State.signProvisional
  try dsimp only
  with_reducible repeat' (first
    | simp only [keeps_other, keeps_sys]
    | apply Keeps.refl
    | apply (State.signFront_keeps _).after
    | apply (State.each_keeps _ _ _ ?_).after
    | refine keeps_of_snd (by assumption) ?_
    | split
    | intro _)

theorem State.resumeSave_keeps (s : State) : Keeps s ((s.resumeSave).1) := by
  unfold State.resumeSave
  try dsimp only
  with_reducible repeat' (first
    | simp only [keeps_other, keeps_sys]
    | apply Keeps.refl
    | apply (State.onAsy_keeps _ _).after
    | apply (State.loadEntry_keeps _ _ _).after
    | apply keeps_ite_fst
    | apply (State.each_keeps _ _ _ ?_).after
    | apply (keeps_foldl_fst _ _ ?_ _).after
    | apply (keeps_foldl_snd _ _ ?_ _).after
    | apply (keeps_foldl _ _ ?_ _).after
    | refine keeps_of_snd (by assumption) ?_
    | split
    | intro _)

theorem State.recovered_keeps (s : State) (us : Nat) : Keeps s (s.recovered us) := by
  unfold State.recovered
  try dsimp only
  with_reducible repeat' (first
    | simp only [keeps_other, keeps_sys]
    | apply Keeps.refl
    | apply (State.report_keeps _ _ _).after
    | apply (State.onAsy_keeps _ _).after
    | apply (State.writeRec_keeps _ _ _ _).after
    | apply (State.gapRecord_keeps _ _ _ _ _ _ _).after
    | apply (State.boundaryPassed_keeps _ _).after
    | apply keeps_ite
    | split
    | intro _)

theorem State.spanBefore_keeps (s : State) (found final : Bool) (us : Nat) : Keeps s (s.spanBefore found final us) := by
  unfold State.spanBefore
  try dsimp only
  with_reducible repeat' (first
    | apply Keeps.refl
    | apply (State.gapRecord_keeps _ _ _ _ _ _ _).after
    | apply (State.recovered_keeps _ _).after
    | apply keeps_ite
    | split
    | intro _)

theorem State.assayStart_keeps (s : State) : Keeps s (s.assayStart) := by
  unfold State.assayStart
  try dsimp only
  with_reducible repeat' (first
    | simp only [keeps_other, keeps_sys]
    | apply Keeps.refl
    | apply (State.setFld_keeps _ _ _ _).after
    | apply (State.onAsy_keeps _ _).after
    | apply (State.showSync_keeps _).after
    | apply (State.fillLog_keeps _).after
    | apply (State.writeRec_keeps _ _ _ _).after
    | apply (State.showPfs_keeps _).after
    | apply (State.closeGaps_keeps _ _ _).after
    | apply (State.commitHeld_keeps _).after
    | apply (State.stopTxn_keeps _ _ _).after
    | apply (State.boundaryPassed_keeps _ _).after
    | apply (State.assayClaim_keeps _).after
    | apply (State.signProvisional_keeps _).after
    | apply (State.resumeSave_keeps _).after
    | apply (State.spanBefore_keeps _ _ _ _).after
    | apply keeps_ite
    | apply (State.each_keeps _ _ _ ?_).after
    | split
    | intro _)

end Sys2Proof.Machine
end

