-- ==== Sys2Proof/Laws/KeepsMortise.lean ====
section
/-! SUPPORT. What each operation of Machine/Mortise.lean keeps of the state. -/

namespace Sys2Proof.Machine

open Sys2Proof

theorem State.startupStep_keeps (s : State) (n : Nat) : Keeps s (s.startupStep n) := by
  unfold State.startupStep
  try dsimp only
  with_reducible repeat' (first
    | simp only [keeps_other, keeps_sys]
    | apply Keeps.refl
    | apply (State.setFld_keeps _ _ _ _).after
    | apply (State.onIn_keeps _ _ _).after
    | apply (State.mrtCode_keeps _ _ _).after
    | apply keeps_ite
    | split
    | intro _)

theorem State.inFault_keeps (s : State) (n cause supply : Nat) : Keeps s (s.inFault n cause supply) := by
  unfold State.inFault
  try dsimp only
  with_reducible repeat' (first
    | simp only [keeps_other, keeps_sys]
    | apply Keeps.refl
    | apply (State.setFld_keeps _ _ _ _).after
    | apply (State.onIn_keeps _ _ _).after
    | apply (State.mrtCode_keeps _ _ _).after
    | apply keeps_ite
    | split
    | intro _)

theorem State.tryClearIn_keeps (s : State) (n : Nat) : Keeps s (s.tryClearIn n) := by
  unfold State.tryClearIn
  try dsimp only
  with_reducible repeat' (first
    | simp only [keeps_other, keeps_sys]
    | apply Keeps.refl
    | apply (State.setFld_keeps _ _ _ _).after
    | apply (State.setFlag_keeps _ _ _ _).after
    | apply (State.onIn_keeps _ _ _).after
    | apply keeps_ite
    | split
    | intro _)

theorem State.functionReset_keeps (s : State) (src : Nat) : Keeps s (s.functionReset src) := by
  unfold State.functionReset
  try dsimp only
  with_reducible repeat' (first
    | simp only [keeps_other, keeps_sys]
    | apply Keeps.refl
    | apply (State.onIn_keeps _ _ _).after
    | apply (State.onFn_keeps _ _ _).after
    | apply (State.setChanBit_keeps _ _ _ _).after
    | apply (State.tryClearIn_keeps _ _).after
    | apply keeps_ite
    | apply (keeps_foldl_fst _ _ ?_ _).after
    | apply (keeps_foldl_snd _ _ ?_ _).after
    | apply (keeps_foldl _ _ ?_ _).after
    | split
    | intro _)

theorem State.resetLevel_keeps (s : State) (src key : Nat) (down : Bool) : Keeps s (s.resetLevel src key down) := by
  unfold State.resetLevel
  try dsimp only
  with_reducible repeat' (first
    | simp only [keeps_other, keeps_sys]
    | apply Keeps.refl
    | apply (State.onMrt_keeps _ _).after
    | apply (State.functionReset_keeps _ _).after
    | apply keeps_ite
    | split
    | intro _)

theorem State.channelChange_keeps (s : State) (n : Nat) (chB level : Bool) : Keeps s (s.channelChange n chB level) := by
  unfold State.channelChange
  try dsimp only
  with_reducible repeat' (first
    | simp only [keeps_other, keeps_sys]
    | apply Keeps.refl
    | apply (State.setFlag_keeps _ _ _ _).after
    | apply (State.onIn_keeps _ _ _).after
    | apply (State.startupStep_keeps _ _).after
    | apply (State.resetLevel_keeps _ _ _ _).after
    | apply keeps_ite
    | split
    | intro _)

theorem State.finePulse_keeps (s : State) (j n : Nat) (before : List Nat) : Keeps s (s.finePulse j n before) := by
  unfold State.finePulse
  try dsimp only
  with_reducible repeat' (first
    | simp only [keeps_other, keeps_sys]
    | apply Keeps.refl
    | apply (State.onIn_keeps _ _ _).after
    | apply keeps_ite
    | split
    | intro _)

theorem State.supplyPulse_keeps (s : State) (j : Nat) (before low after : List Nat) : Keeps s (s.supplyPulse j before low after) := by
  unfold State.supplyPulse
  try dsimp only
  with_reducible repeat' (first
    | apply Keeps.refl
    | apply State.live_keeps _ (Keeps.refl _)
    | apply (State.inFault_keeps _ _ _ _).after
    | apply (State.tryClearIn_keeps _ _).after
    | apply (State.finePulse_keeps _ _ _ _).after
    | apply keeps_ite
    | apply (keeps_foldl_fst _ _ ?_ _).after
    | apply (keeps_foldl_snd _ _ ?_ _).after
    | apply (keeps_foldl _ _ ?_ _).after
    | split
    | intro _)

theorem State.chanFault_keeps (s : State) (k : Nat) : Keeps s (s.chanFault k) := by
  unfold State.chanFault
  try dsimp only
  with_reducible repeat' (first
    | apply Keeps.refl
    | apply (State.mrtCode_keeps _ _ _).after
    | apply (State.setChanBit_keeps _ _ _ _).after
    | apply (State.chanOff_keeps _ _).after
    | split
    | intro _)

theorem State.seeReadback_keeps (s : State) (k : Nat) (rb : Bool) : Keeps s (s.seeReadback k rb) := by
  unfold State.seeReadback
  try dsimp only
  with_reducible repeat' (first
    | simp only [keeps_other, keeps_sys]
    | apply Keeps.refl
    | apply (State.onChan_keeps _ _ _).after
    | apply (State.setChanBit_keeps _ _ _ _).after
    | apply keeps_ite
    | split
    | intro _)

theorem State.torqueOn_keeps (s : State) (k : Nat) : Keeps s (s.torqueOn k) := by
  unfold State.torqueOn
  try dsimp only
  with_reducible repeat' (first
    | simp only [keeps_other, keeps_sys]
    | apply Keeps.refl
    | apply (State.onBrake_keeps _ _ _).after
    | apply (State.each_keeps _ _ _ ?_).after
    | apply (State.when_keeps _ _ _ ?_).after
    | split
    | intro _)

theorem State.chanHalf_keeps (s : State) (k bit : Nat) : Keeps s (s.chanHalf k bit) := by
  unfold State.chanHalf
  try dsimp only
  with_reducible repeat' (first
    | apply Keeps.refl
    | apply (State.bumpSat_keeps _ _ _).after
    | apply (State.mrtCode_keeps _ _ _).after
    | apply (State.setChanBit_keeps _ _ _ _).after
    | apply keeps_ite
    | split
    | intro _)

theorem State.chanTo_keeps (s : State) (k : Nat) (a b : Bool) : Keeps s (s.chanTo k a b) := by
  unfold State.chanTo
  try dsimp only
  with_reducible repeat' (first
    | simp only [keeps_other, keeps_sys]
    | apply Keeps.refl
    | apply (State.onChan_keeps _ _ _).after
    | apply (State.setChanBit_keeps _ _ _ _).after
    | apply (State.chanOff_keeps _ _).after
    | apply (State.chanHalf_keeps _ _ _).after
    | apply keeps_ite
    | split
    | intro _)

theorem State.testFail_keeps (s : State) (k : Nat) : Keeps s (s.testFail k) := by
  unfold State.testFail
  try dsimp only
  with_reducible repeat' (first
    | apply Keeps.refl
    | apply (State.setFld_keeps _ _ _ _).after
    | apply (State.mrtCode_keeps _ _ _).after
    | apply (State.endTest_keeps _ _).after
    | split
    | intro _)

theorem State.brakeTest_keeps (s : State) (k : Nat) : Keeps s (s.brakeTest k) := by
  unfold State.brakeTest
  try dsimp only
  with_reducible repeat' (first
    | simp only [keeps_other, keeps_sys]
    | apply Keeps.refl
    | apply (State.setFld_keeps _ _ _ _).after
    | apply (State.onBrake_keeps _ _ _).after
    | apply (State.mrtCode_keeps _ _ _).after
    | apply keeps_ite
    | split
    | intro _)

theorem State.testPass_keeps (s : State) (k : Nat) : Keeps s (s.testPass k) := by
  unfold State.testPass
  try dsimp only
  with_reducible repeat' (first
    | simp only [keeps_other, keeps_sys]
    | apply Keeps.refl
    | apply (State.setFld_keeps _ _ _ _).after
    | apply (State.onBrake_keeps _ _ _).after
    | apply (State.mrtCode_keeps _ _ _).after
    | split
    | intro _)

theorem State.toStep_keeps (s : State) (k n : Nat) : Keeps s (s.toStep k n) := by
  unfold State.toStep
  try dsimp only
  with_reducible repeat' (first
    | simp only [keeps_other, keeps_sys]
    | apply Keeps.refl
    | apply (State.setFld_keeps _ _ _ _).after
    | apply (State.onBrake_keeps _ _ _).after
    | apply keeps_ite
    | split
    | intro _)

theorem State.judgeStep_keeps (s : State) (k : Nat) (r : BrakeRec) (frames rb : Bool) : Keeps s (s.judgeStep k r frames rb) := by
  unfold State.judgeStep
  try dsimp only
  with_reducible repeat' (first
    | simp only [keeps_other, keeps_sys]
    | apply Keeps.refl
    | apply (State.onBrake_keeps _ _ _).after
    | apply (State.chanOff_keeps _ _).after
    | apply (State.chanTo_keeps _ _ _ _).after
    | apply (State.testFail_keeps _ _).after
    | apply (State.testPass_keeps _ _).after
    | apply (State.toStep_keeps _ _ _).after
    | apply keeps_ite
    | split
    | intro _)

theorem State.counterEdge_keeps (s : State) (n : Nat) (a b : Bool) : Keeps s (s.counterEdge n a b) := by
  unfold State.counterEdge
  try dsimp only
  with_reducible repeat' (first
    | simp only [keeps_other, keeps_sys]
    | apply Keeps.refl
    | apply (State.setFld_keeps _ _ _ _).after
    | apply (State.onIn_keeps _ _ _).after
    | apply (State.testFail_keeps _ _).after
    | apply keeps_ite
    | apply (keeps_foldl_fst _ _ ?_ _).after
    | apply (keeps_foldl_snd _ _ ?_ _).after
    | apply (keeps_foldl _ _ ?_ _).after
    | split
    | intro _)

theorem State.tenonFail_keeps (s : State) (c : Nat) (msg : List Byte) : Keeps s (s.tenonFail c msg) := by
  unfold State.tenonFail
  try dsimp only
  with_reducible repeat' (first
    | simp only [keeps_other, keeps_sys]
    | apply Keeps.refl
    | apply (State.setFld_keeps _ _ _ _).after
    | apply (State.bumpSat_keeps _ _ _).after
    | apply (State.tenonViolation_keeps _ _ _ _).after
    | apply (State.onMrt_keeps _ _).after
    | apply (State.onConn_keeps _ _ _).after
    | apply (State.mrtCode_keeps _ _ _).after
    | apply keeps_ite
    | split
    | intro _)

theorem State.tenonAccept_keeps (s : State) (c seq : Nat) (data : List Byte) : Keeps s (s.tenonAccept c seq data) := by
  unfold State.tenonAccept
  try dsimp only
  with_reducible repeat' (first
    | simp only [keeps_other, keeps_sys]
    | apply Keeps.refl
    | apply (State.setFld_keeps _ _ _ _).after
    | apply (State.count_keeps _ _ _ _).after
    | apply (State.onConn_keeps _ _ _).after
    | apply (State.resetLevel_keeps _ _ _ _).after
    | apply keeps_ite
    | split
    | intro _)

theorem State.tenonReceive_keeps (s : State) (c : Nat) (b : List Byte) : Keeps s (s.tenonReceive c b) := by
  unfold State.tenonReceive
  try dsimp only
  with_reducible repeat' (first
    | simp only [keeps_other, keeps_sys]
    | apply Keeps.refl
    | apply (State.setFld_keeps _ _ _ _).after
    | apply (State.bumpSat_keeps _ _ _).after
    | apply (State.tenonViolation_keeps _ _ _ _).after
    | apply (State.onConn_keeps _ _ _).after
    | apply (State.tenonFail_keeps _ _ _).after
    | apply (State.tenonAccept_keeps _ _ _ _).after
    | apply keeps_ite
    | split
    | intro _)

theorem State.tenonLost_keeps (s : State) (c : Nat) : Keeps s (s.tenonLost c) := by
  unfold State.tenonLost
  try dsimp only
  with_reducible repeat' (first
    | simp only [keeps_other, keeps_sys]
    | apply Keeps.refl
    | apply (State.setFld_keeps _ _ _ _).after
    | apply (State.tenonViolation_keeps _ _ _ _).after
    | apply (State.onMrt_keeps _ _).after
    | apply (State.onConn_keeps _ _ _).after
    | apply (State.mrtCode_keeps _ _ _).after
    | apply (State.torqueLost_keeps _ _).after
    | apply keeps_ite
    | split
    | intro _)

theorem State.tenonSend_keeps (s : State) : Keeps s (s.tenonSend) := by
  unfold State.tenonSend
  try dsimp only
  with_reducible repeat' (first
    | simp only [keeps_other, keeps_sys]
    | apply Keeps.refl
    | apply (State.setFld_keeps _ _ _ _).after
    | apply (State.bind_keeps _ _ _ _).after
    | apply (State.onConn_keeps _ _ _).after
    | apply (State.tenonOut_keeps _ _ _ _).after
    | apply keeps_ite
    | apply (State.each_keeps _ _ _ ?_).after
    | split
    | intro _)

theorem State.evaluate_keeps (s : State) (p0 p1 : List Nat) : Keeps s (s.evaluate p0 p1) := by
  unfold State.evaluate
  try dsimp only
  with_reducible repeat' (first
    | simp only [keeps_other, keeps_sys]
    | apply Keeps.refl
    | apply (State.onMrt_keeps _ _).after
    | apply (State.onFn_keeps _ _ _).after
    | apply keeps_ite
    | apply (keeps_foldl_fst _ _ ?_ _).after
    | apply (keeps_foldl_snd _ _ ?_ _).after
    | apply (keeps_foldl _ _ ?_ _).after
    | split
    | intro _)

theorem State.showFn_keeps (s : State) (f st0 st1 : Nat) : Keeps s (s.showFn f st0 st1) := by
  unfold State.showFn
  try dsimp only
  with_reducible repeat' (first
    | simp only [keeps_other, keeps_sys]
    | apply Keeps.refl
    | apply (State.setFlag_keeps _ _ _ _).after
    | apply (State.bumpSat_keeps _ _ _).after
    | apply (State.count_keeps _ _ _ _).after
    | apply (State.onFn_keeps _ _ _).after
    | apply (State.mrtCode_keeps _ _ _).after
    | apply keeps_ite
    | split
    | intro _)

theorem State.brakeTo_keeps (s : State) (k : Nat) : Keeps s (s.brakeTo k) := by
  unfold State.brakeTo
  try dsimp only
  with_reducible repeat' (first
    | simp only [keeps_other, keeps_sys]
    | apply Keeps.refl
    | apply (State.setFld_keeps _ _ _ _).after
    | apply (State.onBrake_keeps _ _ _).after
    | apply (State.mrtCode_keeps _ _ _).after
    | apply (State.testAbort_keeps _ _).after
    | apply (State.chanTo_keeps _ _ _ _).after
    | apply keeps_ite
    | split
    | intro _)

theorem State.applyCycle_keeps (s : State) : Keeps s (s.applyCycle) := by
  unfold State.applyCycle
  try dsimp only
  with_reducible repeat' (first
    | simp only [keeps_other, keeps_sys]
    | apply Keeps.refl
    | apply (State.testAbort_keeps _ _).after
    | apply (State.chanTo_keeps _ _ _ _).after
    | apply (State.showFn_keeps _ _ _ _).after
    | apply (State.brakeTo_keeps _ _).after
    | apply keeps_ite
    | apply (State.each_keeps _ _ _ ?_).after
    | apply (State.when_keeps _ _ _ ?_).after
    | apply (keeps_foldl_fst _ _ ?_ _).after
    | apply (keeps_foldl_snd _ _ ?_ _).after
    | apply (keeps_foldl _ _ ?_ _).after
    | split
    | intro _)

theorem State.mortiseFault_keeps (s : State) : Keeps s (s.mortiseFault) := by
  unfold State.mortiseFault
  try dsimp only
  with_reducible repeat' (first
    | apply Keeps.refl
    | apply (State.mrtCode_keeps _ _ _).after
    | apply (State.failIsland_keeps _ _).after
    | split
    | intro _)

theorem State.exchange_keeps (s : State) (p0 p1 : List Nat) : Keeps s (s.exchange p0 p1) := by
  unfold State.exchange
  try dsimp only
  with_reducible repeat' (first
    | simp only [keeps_other, keeps_sys]
    | apply Keeps.refl
    | apply (State.onMrt_keeps _ _).after
    | apply (State.tenonSend_keeps _).after
    | apply (State.mortiseFault_keeps _).after
    | apply keeps_ite
    | split
    | intro _)

theorem State.safetyCycle_keeps (s : State) (fault : Bool) (p0 p1 : List Nat) : Keeps s (s.safetyCycle fault p0 p1) := by
  unfold State.safetyCycle
  try dsimp only
  with_reducible repeat' (first
    | simp only [keeps_other, keeps_sys]
    | apply Keeps.refl
    | apply (State.setFlag_keeps _ _ _ _).after
    | apply (State.count_keeps _ _ _ _).after
    | apply (State.onMrt_keeps _ _).after
    | apply (State.onConn_keeps _ _ _).after
    | apply (State.startupStep_keeps _ _).after
    | apply (State.tenonLost_keeps _ _).after
    | apply (State.evaluate_keeps _ _ _).after
    | apply (State.applyCycle_keeps _).after
    | apply (State.mortiseFault_keeps _).after
    | apply (State.exchange_keeps _ _ _).after
    | apply keeps_ite
    | apply (State.each_keeps _ _ _ ?_).after
    | split
    | intro _)

theorem State.mortiseTable_keeps (s : State) (fresh : Nat → Bool) : Keeps s (s.mortiseTable fresh) := by
  unfold State.mortiseTable
  try dsimp only
  with_reducible repeat' (first
    | simp only [keeps_other, keeps_sys]
    | apply Keeps.refl
    | apply (State.setReg_keeps _ _ _ _).after
    | apply (State.setFld_keeps _ _ _ _).after
    | apply (State.setFlag_keeps _ _ _ _).after
    | apply (State.onIn_keeps _ _ _).after
    | apply keeps_ite
    | apply (State.each_keeps _ _ _ ?_).after
    | split
    | intro _)

theorem State.mortiseStart_keeps (s : State) : Keeps s (s.mortiseStart) := by
  unfold State.mortiseStart
  try dsimp only
  with_reducible repeat' (first
    | simp only [keeps_other, keeps_sys]
    | apply Keeps.refl
    | apply (State.setFld_keeps _ _ _ _).after
    | apply (State.mortiseTable_keeps _ _).after
    | split
    | intro _)

theorem State.mortiseCommit_keeps (s : State) (old : List Byte) : Keeps s (s.mortiseCommit old) := by
  unfold State.mortiseCommit
  try dsimp only
  with_reducible repeat' (first
    | simp only [keeps_other, keeps_sys]
    | apply Keeps.refl
    | apply (State.setReg_keeps _ _ _ _).after
    | apply (State.onMrt_keeps _ _).after
    | apply (State.chanOff_keeps _ _).after
    | apply (State.mortiseTable_keeps _ _).after
    | apply (State.each_keeps _ _ _ ?_).after
    | split
    | intro _)

end Sys2Proof.Machine
end

