-- ==== Sys2Proof/Laws/KeepsNetwork.lean ====
section
/-! SUPPORT. What each operation of Machine/Network.lean keeps of the state. -/

namespace Sys2Proof.Machine

open Sys2Proof

theorem State.onNet_keeps (s : State) (f : Net → Net) : Keeps s (s.onNet f) := by
  unfold State.onNet
  try dsimp only
  with_reducible repeat' (first
    | simp only [keeps_other, keeps_sys]
    | apply Keeps.refl
    | split
    | intro _)

theorem State.onPartner_keeps (s : State) (n : Nat) (f : Slot → Slot) : Keeps s (s.onPartner n f) := by
  unfold State.onPartner
  try dsimp only
  with_reducible repeat' (first
    | simp only [keeps_other, keeps_sys]
    | apply Keeps.refl
    | apply (State.onNet_keeps _ _).after
    | split
    | intro _)

theorem State.netLoad_keeps (s : State) (m : Image) : Keeps s (s.netLoad m) := by
  unfold State.netLoad
  try dsimp only
  with_reducible repeat' (first
    | simp only [keeps_other, keeps_sys]
    | apply Keeps.refl
    | apply (State.setReg_keeps _ _ _ _).after
    | apply (State.setFld_keeps _ _ _ _).after
    | apply (State.slot_keeps _ _ _ _ ?_).after
    | apply (State.onPartner_keeps _ _ _).after
    | apply (State.each_keeps _ _ _ ?_).after
    | split
    | intro _)

theorem State.netMarker_keeps (s : State) (ptp : Nat) : Keeps s (s.netMarker ptp) := by
  unfold State.netMarker
  try dsimp only
  with_reducible repeat' (first
    | simp only [keeps_other, keeps_sys]
    | apply Keeps.refl
    | apply (State.setPair_keeps _ _ _ _ _).after
    | apply (State.onNet_keeps _ _).after
    | apply keeps_ite
    | apply (keeps_foldl_fst _ _ ?_ _).after
    | apply (keeps_foldl_snd _ _ ?_ _).after
    | apply (keeps_foldl _ _ ?_ _).after
    | split
    | intro _)

theorem State.counted_keeps (s : State) (typ : Nat) : Keeps s (s.counted typ) := by
  unfold State.counted
  try dsimp only
  with_reducible repeat' (first
    | simp only [keeps_other, keeps_sys]
    | apply Keeps.refl
    | apply (State.count_keeps _ _ _ _).after
    | apply (State.onNet_keeps _ _).after
    | split
    | intro _)

theorem State.sendPlain_keeps (s : State) (typ addr : Nat) (body : List Byte) : Keeps s (s.sendPlain typ addr body) := by
  unfold State.sendPlain
  try dsimp only
  with_reducible repeat' (first
    | apply Keeps.refl
    | apply (State.send_keeps _ _ _ _).after
    | apply (State.counted_keeps _ _).after
    | split
    | intro _)

theorem State.sendSealed_keeps (s : State) (typ n : Nat) (body : List Byte) : Keeps s (s.sendSealed typ n body) := by
  unfold State.sendSealed
  try dsimp only
  with_reducible repeat' (first
    | apply Keeps.refl
    | apply (State.send_keeps _ _ _ _).after
    | apply (State.counted_keeps _ _).after
    | apply keeps_ite
    | split
    | intro _)

theorem State.slotEvent_keeps (s : State) (n event reason : Nat) : Keeps s (s.slotEvent n event reason) := by
  unfold State.slotEvent
  try dsimp only
  with_reducible repeat' (first
    | apply Keeps.refl
    | apply (State.ringDeliver_keeps _ _ _).after
    | split
    | intro _)

theorem State.reject_keeps (s : State) (addr reason : Nat) : Keeps s (s.reject addr reason) := by
  unfold State.reject
  try dsimp only
  with_reducible repeat' (first
    | apply Keeps.refl
    | apply (State.report_keeps _ _ _).after
    | apply (State.sendPlain_keeps _ _ _ _).after
    | split
    | intro _)

theorem State.inputsLost_keeps (s : State) (n : Nat) : Keeps s (s.inputsLost n) := by
  unfold State.inputsLost
  try dsimp only
  with_reducible repeat' (first
    | simp only [keeps_other, keeps_sys]
    | apply Keeps.refl
    | apply (State.markPoint_keeps _ _ _).after
    | apply (State.each_keeps _ _ _ ?_).after
    | split
    | intro _)

theorem State.ignoreSender_keeps (s : State) (sender : Nat) : Keeps s (s.ignoreSender sender) := by
  unfold State.ignoreSender
  try dsimp only
  with_reducible repeat' (first
    | simp only [keeps_other, keeps_sys]
    | apply Keeps.refl
    | apply (State.onNet_keeps _ _).after
    | split
    | intro _)

theorem State.challenge_keeps (s : State) (n sender addr : Nat) : Keeps s (s.challenge n sender addr) := by
  unfold State.challenge
  try dsimp only
  with_reducible repeat' (first
    | simp only [keeps_other, keeps_sys]
    | apply Keeps.refl
    | apply (State.setFld_keeps _ _ _ _).after
    | apply (State.tick_keeps _).after
    | apply (State.onPartner_keeps _ _ _).after
    | apply (State.sendPlain_keeps _ _ _ _).after
    | apply keeps_ite
    | split
    | intro _)

theorem State.announce_keeps (s : State) (port addr : Nat) (b : List Byte) : Keeps s (s.announce port addr b) := by
  unfold State.announce
  try dsimp only
  with_reducible repeat' (first
    | simp only [keeps_other, keeps_sys]
    | apply Keeps.refl
    | apply (State.count_keeps _ _ _ _).after
    | apply (State.violation_keeps _ _ _ _ _ _ _ _ _).after
    | apply (State.slot_keeps _ _ _ _ ?_).after
    | apply (State.reject_keeps _ _ _).after
    | apply (State.challenge_keeps _ _ _ _).after
    | apply keeps_ite
    | split
    | intro _)

theorem State.refusePartner_keeps (s : State) (n reason : Nat) : Keeps s (s.refusePartner n reason) := by
  unfold State.refusePartner
  try dsimp only
  with_reducible repeat' (first
    | simp only [keeps_other, keeps_sys]
    | apply Keeps.refl
    | apply (State.setFld_keeps _ _ _ _).after
    | apply (State.onPartner_keeps _ _ _).after
    | apply (State.slotEvent_keeps _ _ _ _).after
    | apply (State.reject_keeps _ _ _).after
    | apply keeps_ite
    | split
    | intro _)

theorem State.bindConns_keeps (s : State) (d : SlotDef) : Keeps s (s.bindConns d) := by
  unfold State.bindConns
  try dsimp only
  with_reducible repeat' (first
    | simp only [keeps_other, keeps_sys]
    | apply Keeps.refl
    | apply (State.setFlag_keeps _ _ _ _).after
    | apply (State.slot_keeps _ _ _ _ ?_).after
    | apply (State.bind_keeps _ _ _ _).after
    | apply (State.onMrt_keeps _ _).after
    | apply (State.onConn_keeps _ _ _).after
    | apply (State.torqueLost_keeps _ _).after
    | apply (State.each_keeps _ _ _ ?_).after
    | split
    | intro _)

theorem State.acceptPartner_keeps (s : State) (d : SlotDef) (site signing : List Byte) (m : RollMsg) : Keeps s (s.acceptPartner d site signing m) := by
  unfold State.acceptPartner
  try dsimp only
  with_reducible repeat' (first
    | simp only [keeps_other, keeps_sys]
    | apply Keeps.refl
    | apply (State.setFld_keeps _ _ _ _).after
    | apply (State.report_keeps _ _ _).after
    | apply (State.send_keeps _ _ _ _).after
    | apply (State.tick_keeps _).after
    | apply (State.slot_keeps _ _ _ _ ?_).after
    | apply (State.onPartner_keeps _ _ _).after
    | apply (State.counted_keeps _ _).after
    | apply (State.slotEvent_keeps _ _ _ _).after
    | apply (State.inputsLost_keeps _ _).after
    | apply (State.bindConns_keeps _ _).after
    | apply keeps_ite
    | split
    | intro _)

theorem State.response_keeps (s : State) (port addr : Nat) (b : List Byte) : Keeps s (s.response port addr b) := by
  unfold State.response
  try dsimp only
  with_reducible repeat' (first
    | simp only [keeps_other, keeps_sys]
    | apply Keeps.refl
    | apply (State.count_keeps _ _ _ _).after
    | apply (State.violation_keeps _ _ _ _ _ _ _ _ _).after
    | apply (State.ignoreSender_keeps _ _).after
    | apply (State.refusePartner_keeps _ _ _).after
    | apply (State.acceptPartner_keeps _ _ _ _ _).after
    | apply keeps_ite
    | split
    | intro _)

theorem State.producersLost_keeps (s : State) (n : Nat) : Keeps s (s.producersLost n) := by
  unfold State.producersLost
  try dsimp only
  with_reducible repeat' (first
    | simp only [keeps_other, keeps_sys]
    | apply Keeps.refl
    | apply (State.setFld_keeps _ _ _ _).after
    | apply (State.each_keeps _ _ _ ?_).after
    | apply (State.when_keeps _ _ _ ?_).after
    | split
    | intro _)

theorem State.partnerLost_keeps (s : State) (n : Nat) : Keeps s (s.partnerLost n) := by
  unfold State.partnerLost
  try dsimp only
  with_reducible repeat' (first
    | apply Keeps.refl
    | apply (State.setFld_keeps _ _ _ _).after
    | apply (State.report_keeps _ _ _).after
    | apply (State.slotEvent_keeps _ _ _ _).after
    | apply (State.inputsLost_keeps _ _).after
    | apply (State.producersLost_keeps _ _).after
    | split
    | intro _)

theorem State.sealFail_keeps (s : State) (port n sender : Nat) (b : List Byte) : Keeps s (s.sealFail port n sender b) := by
  unfold State.sealFail
  try dsimp only
  with_reducible repeat' (first
    | simp only [keeps_other, keeps_sys]
    | apply Keeps.refl
    | apply (State.bumpSat_keeps _ _ _).after
    | apply (State.violation_keeps _ _ _ _ _ _ _ _ _).after
    | apply (State.onPartner_keeps _ _ _).after
    | apply (State.partnerLost_keeps _ _).after
    | apply keeps_ite
    | split
    | intro _)

theorem State.pxEntry_keeps (s : State) (d : SlotDef) (port ofs sender : Nat) (b e : List Byte) : Keeps s (s.pxEntry d port ofs sender b e) := by
  unfold State.pxEntry
  try dsimp only
  with_reducible repeat' (first
    | apply Keeps.refl
    | apply (State.writePoint_keeps _ _).after
    | apply (State.violation_keeps _ _ _ _ _ _ _ _ _).after
    | apply (State.slot_keeps _ _ _ _ ?_).after
    | apply keeps_ite
    | split
    | intro _)

theorem State.pxReceive_keeps (s : State) (port ofs : Nat) (b : List Byte) : Keeps s (s.pxReceive port ofs b) := by
  unfold State.pxReceive
  try dsimp only
  with_reducible repeat' (first
    | simp only [keeps_other, keeps_sys]
    | apply Keeps.refl
    | apply (State.setFld_keeps _ _ _ _).after
    | apply (State.bumpSat_keeps _ _ _).after
    | apply (State.count_keeps _ _ _ _).after
    | apply (State.violation_keeps _ _ _ _ _ _ _ _ _).after
    | apply (State.onPartner_keeps _ _ _).after
    | apply (State.sealFail_keeps _ _ _ _ _).after
    | apply (State.pxEntry_keeps _ _ _ _ _ _ _).after
    | apply keeps_ite
    | apply (State.each_keeps _ _ _ ?_).after
    | split
    | intro _)

theorem State.leave_keeps (s : State) (port : Nat) (b : List Byte) : Keeps s (s.leave port b) := by
  unfold State.leave
  try dsimp only
  with_reducible repeat' (first
    | simp only [keeps_other, keeps_sys]
    | apply Keeps.refl
    | apply (State.setFld_keeps _ _ _ _).after
    | apply (State.report_keeps _ _ _).after
    | apply (State.count_keeps _ _ _ _).after
    | apply (State.violation_keeps _ _ _ _ _ _ _ _ _).after
    | apply (State.onPartner_keeps _ _ _).after
    | apply (State.slotEvent_keeps _ _ _ _).after
    | apply (State.inputsLost_keeps _ _).after
    | apply (State.producersLost_keeps _ _).after
    | apply (State.sealFail_keeps _ _ _ _ _).after
    | apply keeps_ite
    | split
    | intro _)

theorem State.pxSend_keeps (s : State) : Keeps s (s.pxSend) := by
  unfold State.pxSend
  try dsimp only
  with_reducible repeat' (first
    | apply Keeps.refl
    | apply (State.slot_keeps _ _ _ _ ?_).after
    | apply (State.sendSealed_keeps _ _ _ _).after
    | apply keeps_ite
    | apply (keeps_foldl_fst _ _ ?_ _).after
    | apply (keeps_foldl_snd _ _ ?_ _).after
    | apply (keeps_foldl _ _ ?_ _).after
    | split
    | intro _)

theorem State.netHeat_keeps (s : State) : Keeps s (s.netHeat) := by
  unfold State.netHeat
  try dsimp only
  with_reducible repeat' (first
    | simp only [keeps_other, keeps_sys]
    | apply Keeps.refl
    | apply (State.setFld_keeps _ _ _ _).after
    | apply (State.slot_keeps _ _ _ _ ?_).after
    | apply (State.onPartner_keeps _ _ _).after
    | apply keeps_ite
    | apply (keeps_foldl_fst _ _ ?_ _).after
    | apply (keeps_foldl_snd _ _ ?_ _).after
    | apply (keeps_foldl _ _ ?_ _).after
    | split
    | intro _)

theorem State.stationAnnounce_keeps (s : State) (role : Nat) : Keeps s (s.stationAnnounce role) := by
  unfold State.stationAnnounce
  try dsimp only
  with_reducible repeat' (first
    | simp only [keeps_other, keeps_sys]
    | apply Keeps.refl
    | apply (State.tick_keeps _).after
    | apply (State.onNet_keeps _ _).after
    | apply (State.sendPlain_keeps _ _ _ _).after
    | split
    | intro _)

theorem State.attachStroke_keeps (s : State) : Keeps s (s.attachStroke) := by
  unfold State.attachStroke
  try dsimp only
  with_reducible repeat' (first
    | simp only [keeps_other, keeps_sys]
    | apply Keeps.refl
    | apply (State.setFlag_keeps _ _ _ _).after
    | apply (State.onNet_keeps _ _).after
    | apply keeps_ite
    | apply (State.each_keeps _ _ _ ?_).after
    | split
    | intro _)

theorem State.exiDone_keeps (s : State) (j : ExiJob) (len : Option Nat) (pos : Nat) : Keeps s (s.exiDone j len pos) := by
  unfold State.exiDone
  try dsimp only
  with_reducible repeat' (first
    | apply Keeps.refl
    | apply (State.ringDeliver_keeps _ _ _).after
    | apply keeps_ite
    | split
    | intro _)

theorem State.exiFail_keeps (s : State) (j : ExiJob) (msg : List Byte) (pos : Nat) : Keeps s (s.exiFail j msg pos) := by
  unfold State.exiFail
  try dsimp only
  with_reducible repeat' (first
    | apply Keeps.refl
    | apply (State.bumpSat_keeps _ _ _).after
    | apply (State.report_keeps _ _ _).after
    | apply (State.violation_keeps _ _ _ _ _ _ _ _ _).after
    | apply (State.exiDone_keeps _ _ _ _).after
    | apply keeps_ite
    | split
    | intro _)

theorem State.exiRun_keeps (s : State) (j : ExiJob) : Keeps s (s.exiRun j) := by
  unfold State.exiRun
  try dsimp only
  with_reducible repeat' (first
    | simp only [keeps_other, keeps_sys]
    | apply Keeps.refl
    | apply (State.fetch_keeps _ _ _ _).after
    | apply (State.unitWrite_keeps _ _ _ _).after
    | apply (State.exiDone_keeps _ _ _ _).after
    | apply (State.exiFail_keeps _ _ _ _).after
    | refine keeps_of_snd (by assumption) ?_
    | split
    | intro _)

theorem State.hostPoint_keeps (s : State) (ofs : Nat) (lo hi : W32) : Keeps s (s.hostPoint ofs lo hi) := by
  unfold State.hostPoint
  try dsimp only
  with_reducible repeat' (first
    | apply Keeps.refl
    | apply (State.setReg_keeps _ _ _ _).after
    | apply (State.report_keeps _ _ _).after
    | apply (State.writePoint_keeps _ _).after
    | apply keeps_ite
    | split
    | intro _)

theorem State.ringCons__keeps (s : State) (n index : Nat) : Keeps s (s.ringCons_ n index) := by
  unfold State.ringCons_
  try dsimp only
  with_reducible repeat' (first
    | simp only [keeps_other, keeps_sys]
    | apply Keeps.refl
    | apply (State.setFld_keeps _ _ _ _).after
    | apply (State.setFlag_keeps _ _ _ _).after
    | apply (State.report_keeps _ _ _).after
    | apply (State.ringIrq_keeps _ _).after
    | apply (State.hallmarkAck_keeps _ _ _).after
    | apply keeps_ite
    | split
    | intro _)

theorem State.ringProd__keeps (s : State) (n index : Nat) : Keeps s (s.ringProd_ n index) := by
  unfold State.ringProd_
  try dsimp only
  with_reducible repeat' (first
    | apply Keeps.refl
    | apply (State.setFld_keeps _ _ _ _).after
    | apply (State.report_keeps _ _ _).after
    | apply keeps_ite
    | split
    | intro _)

theorem State.staleSweep_keeps (s : State) : Keeps s (s.staleSweep) := by
  unfold State.staleSweep
  try dsimp only
  with_reducible repeat' (first
    | simp only [keeps_other, keeps_sys]
    | apply Keeps.refl
    | apply (State.bumpSat_keeps _ _ _).after
    | apply (State.report_keeps _ _ _).after
    | apply (State.markPoint_keeps _ _ _).after
    | apply keeps_ite
    | apply (State.each_keeps _ _ _ ?_).after
    | split
    | intro _)

end Sys2Proof.Machine
end

