-- ==== Sys2Proof/Laws/KeepsPair.lean ====
section
/-! SUPPORT. What each operation of Machine/Pair.lean keeps of the state. -/

namespace Sys2Proof.Machine

open Sys2Proof

theorem State.showLoad_keeps (s : State) : Keeps s (s.showLoad) := by
  unfold State.showLoad
  try dsimp only
  with_reducible repeat' (first
    | apply Keeps.refl
    | apply (State.setFld_keeps _ _ _ _).after
    | split
    | intro _)

theorem State.onFdl_keeps (s : State) (f : Fdl → Fdl) : Keeps s (s.onFdl f) := by
  unfold State.onFdl
  try dsimp only
  with_reducible repeat' (first
    | simp only [keeps_other, keeps_sys]
    | apply Keeps.refl
    | split
    | intro _)

theorem State.onNode_keeps (s : State) (a : Nat) (f : FdlNode → FdlNode) : Keeps s (s.onNode a f) := by
  unfold State.onNode
  try dsimp only
  with_reducible repeat' (first
    | simp only [keeps_other, keeps_sys]
    | apply Keeps.refl
    | apply (State.onFdl_keeps _ _).after
    | split
    | intro _)

theorem State.roleWrite_keeps (s : State) (b : Bool) : Keeps s (s.roleWrite b) := by
  unfold State.roleWrite
  try dsimp only
  with_reducible repeat' (first
    | apply Keeps.refl
    | apply (State.setFlag_keeps _ _ _ _).after
    | apply (State.bumpSat_keeps _ _ _).after
    | apply (State.pegCode_keeps _ _).after
    | apply keeps_ite
    | split
    | intro _)

theorem State.takePeg_keeps (s : State) (cause : Nat) : Keeps s (s.takePeg cause) := by
  unfold State.takePeg
  try dsimp only
  with_reducible repeat' (first
    | simp only [keeps_other, keeps_sys]
    | apply Keeps.refl
    | apply (State.setFld_keeps _ _ _ _).after
    | apply (State.modGap_keeps _).after
    | apply (State.onPeg_keeps _ _).after
    | apply (State.pegCode_keeps _ _).after
    | apply (State.pegEvent_keeps _ _ _).after
    | apply (State.when_keeps _ _ _ ?_).after
    | split
    | intro _)

theorem State.startClaim_keeps (s : State) : Keeps s (s.startClaim) := by
  unfold State.startClaim
  try dsimp only
  with_reducible repeat' (first
    | simp only [keeps_other, keeps_sys]
    | apply Keeps.refl
    | apply (State.setFld_keeps _ _ _ _).after
    | apply (State.setRun_keeps _ _ _).after
    | apply (State.onTrs_keeps _ _).after
    | apply (State.trussStart_keeps _).after
    | apply (State.onPeg_keeps _ _).after
    | apply (State.safeOff_keeps _).after
    | apply (State.takePeg_keeps _ _).after
    | apply keeps_ite
    | apply (State.each_keeps _ _ _ ?_).after
    | split
    | intro _)

theorem State.adoptPartners_keeps (s : State) : Keeps s (s.adoptPartners) := by
  unfold State.adoptPartners
  try dsimp only
  with_reducible repeat' (first
    | simp only [keeps_other, keeps_sys]
    | apply Keeps.refl
    | apply (State.slot_keeps _ _ _ _ ?_).after
    | apply (State.onNet_keeps _ _).after
    | apply (State.onPartner_keeps _ _ _).after
    | apply keeps_ite
    | apply (keeps_foldl_fst _ _ ?_ _).after
    | apply (keeps_foldl_snd _ _ ?_ _).after
    | apply (keeps_foldl _ _ ?_ _).after
    | split
    | intro _)

theorem State.announceTakeover_keeps (s : State) : Keeps s (s.announceTakeover) := by
  unfold State.announceTakeover
  try dsimp only
  with_reducible repeat' (first
    | apply Keeps.refl
    | apply (State.send_keeps _ _ _ _).after
    | apply (State.stationAnnounce_keeps _ _).after
    | apply keeps_ite
    | split
    | intro _)

theorem State.takeOver_keeps (s : State) (cause : Nat) : Keeps s (s.takeOver cause) := by
  unfold State.takeOver
  try dsimp only
  with_reducible repeat' (first
    | simp only [keeps_other, keeps_sys]
    | apply Keeps.refl
    | apply (State.setFld_keeps _ _ _ _).after
    | apply (State.onTrs_keeps _ _).after
    | apply (State.endTests_keeps _).after
    | apply (State.onFdl_keeps _ _).after
    | apply (State.onNode_keeps _ _ _).after
    | apply (State.takePeg_keeps _ _).after
    | apply (State.adoptPartners_keeps _).after
    | apply (State.announceTakeover_keeps _).after
    | apply keeps_ite
    | apply (State.each_keeps _ _ _ ?_).after
    | split
    | intro _)

theorem State.contention_keeps (s : State) (low : Bool) : Keeps s (s.contention low) := by
  unfold State.contention
  try dsimp only
  with_reducible repeat' (first
    | apply Keeps.refl
    | apply (State.setFld_keeps _ _ _ _).after
    | apply (State.pegCode_keeps _ _).after
    | apply (State.pegRelease_keeps _ _).after
    | apply keeps_ite
    | split
    | intro _)

theorem State.pegFault_keeps (s : State) (stuckLow : Bool) : Keeps s (s.pegFault stuckLow) := by
  unfold State.pegFault
  try dsimp only
  with_reducible repeat' (first
    | simp only [keeps_other, keeps_sys]
    | apply Keeps.refl
    | apply (State.setFld_keeps _ _ _ _).after
    | apply (State.setFlag_keeps _ _ _ _).after
    | apply (State.onPeg_keeps _ _).after
    | apply (State.pegCode_keeps _ _).after
    | apply (State.pdoGate_keeps _).after
    | apply (State.pegRelease_keeps _ _).after
    | apply (State.syncLost_keeps _ _).after
    | apply keeps_ite
    | split
    | intro _)

theorem State.bindHandshake_keeps (s : State) (feat0 feat1 : W32) (unitB pref : Bool) (image : Nat) (authentic holds : Bool) (latency : Nat) : Keeps s (s.bindHandshake feat0 feat1 unitB pref image authentic holds latency) := by
  unfold State.bindHandshake
  try dsimp only
  with_reducible repeat' (first
    | simp only [keeps_other, keeps_sys]
    | apply Keeps.refl
    | apply (State.setFld_keeps _ _ _ _).after
    | apply (State.setFlag_keeps _ _ _ _).after
    | apply (State.onPeg_keeps _ _).after
    | apply (State.pegCode_keeps _ _).after
    | apply (State.pdoGate_keeps _).after
    | apply (State.showLoad_keeps _).after
    | apply keeps_ite
    | split
    | intro _)

theorem State.alignTo_keeps (s : State) (holder : Nat) : Keeps s (s.alignTo holder) := by
  unfold State.alignTo
  try dsimp only
  with_reducible repeat' (first
    | simp only [keeps_other, keeps_sys]
    | apply Keeps.refl
    | apply (State.setPair_keeps _ _ _ _ _).after
    | apply (State.onPeg_keeps _ _).after
    | split
    | intro _)

theorem State.catchupComplete_keeps (s : State) : Keeps s (s.catchupComplete) := by
  unfold State.catchupComplete
  try dsimp only
  with_reducible repeat' (first
    | simp only [keeps_other, keeps_sys]
    | apply Keeps.refl
    | apply (State.setFld_keeps _ _ _ _).after
    | apply (State.onPeg_keeps _ _).after
    | apply (State.pegCode_keeps _ _).after
    | apply keeps_ite
    | split
    | intro _)

theorem State.solleyLost_keeps (s : State) (lanes : Bool) : Keeps s (s.solleyLost lanes) := by
  unfold State.solleyLost
  try dsimp only
  with_reducible repeat' (first
    | simp only [keeps_other, keeps_sys]
    | apply Keeps.refl
    | apply (State.setFld_keeps _ _ _ _).after
    | apply (State.onPeg_keeps _ _).after
    | apply (State.pegCode_keeps _ _).after
    | apply (State.syncLost_keeps _ _).after
    | apply keeps_ite
    | split
    | intro _)

theorem State.mirrorWords_keeps (s : State) (l : List (Nat × Nat × W32)) : Keeps s (s.mirrorWords l) := by
  unfold State.mirrorWords
  try dsimp only
  with_reducible repeat' (first
    | simp only [keeps_other, keeps_sys]
    | apply Keeps.refl
    | apply (State.onEng_keeps _ _ _).after
    | apply keeps_ite
    | apply (keeps_foldl_fst _ _ ?_ _).after
    | apply (keeps_foldl_snd _ _ ?_ _).after
    | apply (keeps_foldl _ _ ?_ _).after
    | split
    | intro _)

theorem State.mirrorTruss_keeps (s : State) (x : Entry × List Entry) : Keeps s (s.mirrorTruss x) := by
  unfold State.mirrorTruss
  try dsimp only
  with_reducible repeat' (first
    | simp only [keeps_other, keeps_sys]
    | apply Keeps.refl
    | apply (State.onTrs_keeps _ _).after
    | apply (State.showWindow_keeps _).after
    | apply (keeps_foldl_fst _ _ ?_ _).after
    | apply (keeps_foldl_snd _ _ ?_ _).after
    | apply (keeps_foldl _ _ ?_ _).after
    | split
    | intro _)

theorem State.loadFns_keeps (s : State) (l : List (Nat × Nat × Nat)) : Keeps s (s.loadFns l) := by
  unfold State.loadFns
  try dsimp only
  with_reducible repeat' (first
    | simp only [keeps_other, keeps_sys]
    | apply Keeps.refl
    | apply (State.onMrt_keeps _ _).after
    | apply (State.onFn_keeps _ _ _).after
    | apply (keeps_foldl_fst _ _ ?_ _).after
    | apply (keeps_foldl_snd _ _ ?_ _).after
    | apply (keeps_foldl _ _ ?_ _).after
    | split
    | intro _)

theorem State.loadBound_keeps (s : State) (c : Nat × Nat) : Keeps s (s.loadBound c) := by
  unfold State.loadBound
  try dsimp only
  with_reducible repeat' (first
    | simp only [keeps_other, keeps_sys]
    | apply Keeps.refl
    | apply (State.setFld_keeps _ _ _ _).after
    | apply (State.onConn_keeps _ _ _).after
    | apply keeps_ite
    | split
    | intro _)

theorem State.loadMortise_keeps (s : State) (m : MrtMirror) : Keeps s (s.loadMortise m) := by
  unfold State.loadMortise
  try dsimp only
  with_reducible repeat' (first
    | simp only [keeps_other, keeps_sys]
    | apply Keeps.refl
    | apply (State.setFld_keeps _ _ _ _).after
    | apply (State.setFlag_keeps _ _ _ _).after
    | apply (State.onBrake_keeps _ _ _).after
    | apply (State.setChanBit_keeps _ _ _ _).after
    | apply (State.loadFns_keeps _ _).after
    | apply (State.loadBound_keeps _ _).after
    | apply (State.each_keeps _ _ _ ?_).after
    | apply (keeps_foldl_fst _ _ ?_ _).after
    | apply (keeps_foldl_snd _ _ ?_ _).after
    | apply (keeps_foldl _ _ ?_ _).after
    | split
    | intro _)

theorem State.mirrorMortise_keeps (s : State) (m : MrtMirror) : Keeps s (s.mirrorMortise m) := by
  unfold State.mirrorMortise
  try dsimp only
  with_reducible repeat' (first
    | simp only [keeps_other, keeps_sys]
    | apply Keeps.refl
    | apply (State.slot_keeps _ _ _ _ ?_).after
    | apply (State.onMrt_keeps _ _).after
    | apply (State.onPeg_keeps _ _).after
    | apply (State.syncLost_keeps _ _).after
    | apply (State.loadMortise_keeps _ _).after
    | apply keeps_ite
    | split
    | intro _)

theorem State.mirrorPartner_keeps (s : State) (x : PartnerUpdate) : Keeps s (s.mirrorPartner x) := by
  unfold State.mirrorPartner
  try dsimp only
  with_reducible repeat' (first
    | simp only [keeps_other, keeps_sys]
    | apply Keeps.refl
    | apply (State.setFld_keeps _ _ _ _).after
    | apply (State.slot_keeps _ _ _ _ ?_).after
    | apply (State.onPartner_keeps _ _ _).after
    | apply (State.bindConns_keeps _ _).after
    | apply (State.producersLost_keeps _ _).after
    | apply keeps_ite
    | split
    | intro _)

theorem State.deliver62_keeps (s : State) (e : List Byte) : Keeps s (s.deliver62 e) := by
  unfold State.deliver62
  try dsimp only
  with_reducible repeat' (first
    | apply Keeps.refl
    | apply (State.setFld_keeps _ _ _ _).after
    | apply (State.setBytes_keeps _ _ _).after
    | apply (State.ringLost_keeps _ _).after
    | apply keeps_ite
    | split
    | intro _)

theorem State.mirrorPoint_keeps (s : State) (x : PointUpdate) : Keeps s (s.mirrorPoint x) := by
  unfold State.mirrorPoint
  try dsimp only
  with_reducible repeat' (first
    | simp only [keeps_other, keeps_sys]
    | apply Keeps.refl
    | split
    | intro _)

theorem State.mirrorLate_keeps (s : State) : Keeps s (s.mirrorLate) := by
  unfold State.mirrorLate
  try dsimp only
  with_reducible repeat' (first
    | simp only [keeps_other, keeps_sys]
    | apply Keeps.refl
    | apply (State.bumpSat_keeps _ _ _).after
    | apply (State.count_keeps _ _ _ _).after
    | apply (State.onPeg_keeps _ _).after
    | apply (State.pegCode_keeps _ _).after
    | apply keeps_ite
    | split
    | intro _)

theorem State.mirrorFeeder_keeps (s : State) (x : FeederMirror) : Keeps s (s.mirrorFeeder x) := by
  unfold State.mirrorFeeder
  try dsimp only
  with_reducible repeat' (first
    | simp only [keeps_other, keeps_sys]
    | apply Keeps.refl
    | apply (State.setFld_keeps _ _ _ _).after
    | apply (State.setFlag_keeps _ _ _ _).after
    | apply (State.onFdl_keeps _ _).after
    | apply (State.onNode_keeps _ _ _).after
    | apply (keeps_foldl_fst _ _ ?_ _).after
    | apply (keeps_foldl_snd _ _ ?_ _).after
    | apply (keeps_foldl _ _ ?_ _).after
    | split
    | intro _)

theorem State.mirrorApply_keeps (s : State) (m : Mirror) : Keeps s (s.mirrorApply m) := by
  unfold State.mirrorApply
  try dsimp only
  with_reducible repeat' (first
    | simp only [keeps_other, keeps_sys]
    | apply Keeps.refl
    | apply (State.setFld_keeps _ _ _ _).after
    | apply (State.count_keeps _ _ _ _).after
    | apply (State.bind_keeps _ _ _ _).after
    | apply (State.onConn_keeps _ _ _).after
    | apply (State.onPeg_keeps _ _).after
    | apply (State.syncLost_keeps _ _).after
    | apply (State.onNet_keeps _ _).after
    | apply (State.mirrorWords_keeps _ _).after
    | apply (State.mirrorTruss_keeps _ _).after
    | apply (State.mirrorMortise_keeps _ _).after
    | apply (State.mirrorPartner_keeps _ _).after
    | apply (State.deliver62_keeps _ _).after
    | apply (State.mirrorPoint_keeps _ _).after
    | apply (State.mirrorLate_keeps _).after
    | apply (State.mirrorFeeder_keeps _ _).after
    | apply keeps_ite
    | apply (keeps_foldl_fst _ _ ?_ _).after
    | apply (keeps_foldl_snd _ _ ?_ _).after
    | apply (keeps_foldl _ _ ?_ _).after
    | split
    | intro _)

theorem State.peerReport_keeps (s : State) (j : JnyMirror) : Keeps s (s.peerReport j) := by
  unfold State.peerReport
  try dsimp only
  with_reducible repeat' (first
    | simp only [keeps_other, keeps_sys]
    | apply Keeps.refl
    | split
    | intro _)

theorem State.followCommit_keeps (s : State) (j : JnyMirror) : Keeps s (s.followCommit j) := by
  unfold State.followCommit
  try dsimp only
  with_reducible repeat' (first
    | simp only [keeps_other, keeps_sys]
    | apply Keeps.refl
    | apply (State.setPair_keeps _ _ _ _ _).after
    | apply keeps_ite
    | split
    | intro _)

theorem State.mirrorJoinery_keeps (s : State) (j : Option JnyMirror) : Keeps s (s.mirrorJoinery j) := by
  unfold State.mirrorJoinery
  try dsimp only
  with_reducible repeat' (first
    | simp only [keeps_other, keeps_sys]
    | apply Keeps.refl
    | apply (State.peerReport_keeps _ _).after
    | apply (State.followCommit_keeps _ _).after
    | apply keeps_ite
    | split
    | intro _)

theorem State.mirrorFrame_keeps (s : State) (m : Mirror) : Keeps s (s.mirrorFrame m) := by
  unfold State.mirrorFrame
  try dsimp only
  with_reducible repeat' (first
    | simp only [keeps_other, keeps_sys]
    | apply Keeps.refl
    | apply (State.setFlag_keeps _ _ _ _).after
    | apply (State.onPeg_keeps _ _).after
    | apply (State.mirrorApply_keeps _ _).after
    | apply (State.mirrorJoinery_keeps _ _).after
    | apply keeps_ite
    | split
    | intro _)

theorem State.loadPhase_keeps (f : ForgeMirror) (s : State) (p : Nat) : Keeps s (State.loadPhase f s p) := by
  unfold State.loadPhase
  try dsimp only
  with_reducible repeat' (first
    | apply Keeps.refl
    | apply (State.setFld_keeps _ _ _ _).after
    | apply (State.setFlag_keeps _ _ _ _).after
    | apply (State.onPhase_keeps _ _ _).after
    | apply (State.setDrop_keeps _ _ _).after
    | split
    | intro _)

theorem State.loadBay_keeps (f : ForgeMirror) (s : State) (b : Nat) : Keeps s (State.loadBay f s b) := by
  unfold State.loadBay
  try dsimp only
  with_reducible repeat' (first
    | apply Keeps.refl
    | apply (State.setFld_keeps _ _ _ _).after
    | apply (State.setFlag_keeps _ _ _ _).after
    | apply (State.countBay_keeps _ _).after
    | apply keeps_ite
    | split
    | intro _)

theorem State.loadForge_keeps (s : State) (f : ForgeMirror) : Keeps s (s.loadForge f) := by
  unfold State.loadForge
  try dsimp only
  with_reducible repeat' (first
    | apply Keeps.refl
    | apply (State.setRun_keeps _ _ _).after
    | apply (State.loadPhase_keeps _ _ _).after
    | apply (State.loadBay_keeps _ _ _).after
    | apply (State.each_keeps _ _ _ ?_).after
    | apply (keeps_foldl_fst _ _ ?_ _).after
    | apply (keeps_foldl_snd _ _ ?_ _).after
    | apply (keeps_foldl _ _ ?_ _).after
    | split
    | intro _)

theorem State.lockStroke_keeps (s : State) (e : Int) : Keeps s (s.lockStroke e) := by
  unfold State.lockStroke
  try dsimp only
  with_reducible repeat' (first
    | simp only [keeps_other, keeps_sys]
    | apply Keeps.refl
    | apply (State.setFld_keeps _ _ _ _).after
    | apply (State.count_keeps _ _ _ _).after
    | apply (State.onPeg_keeps _ _).after
    | apply (State.syncLost_keeps _ _).after
    | apply keeps_ite
    | split
    | intro _)

theorem State.submit62_keeps (s : State) : Keeps s (s.submit62) := by
  unfold State.submit62
  try dsimp only
  with_reducible repeat' (first
    | simp only [keeps_other, keeps_sys]
    | apply Keeps.refl
    | apply (State.send_keeps _ _ _ _).after
    | apply (State.ringTake_keeps _ _).after
    | apply (keeps_foldl_fst _ _ ?_ _).after
    | apply (keeps_foldl_snd _ _ ?_ _).after
    | apply (keeps_foldl _ _ ?_ _).after
    | refine keeps_of_snd (by assumption) ?_
    | split
    | intro _)

theorem State.standbyStroke_keeps (s : State) : Keeps s (s.standbyStroke) := by
  unfold State.standbyStroke
  try dsimp only
  with_reducible repeat' (first
    | simp only [keeps_other, keeps_sys]
    | apply Keeps.refl
    | apply (State.onPeg_keeps _ _).after
    | apply (State.syncLost_keeps _ _).after
    | apply (State.loadForge_keeps _ _).after
    | apply keeps_ite
    | split
    | intro _)

theorem State.pegMarker_keeps (s : State) (lock : Int) : Keeps s (s.pegMarker lock) := by
  unfold State.pegMarker
  try dsimp only
  with_reducible repeat' (first
    | simp only [keeps_other, keeps_sys]
    | apply Keeps.refl
    | apply (State.onPeg_keeps _ _).after
    | apply (State.lockStroke_keeps _ _).after
    | apply (State.submit62_keeps _).after
    | apply (State.standbyStroke_keeps _).after
    | apply keeps_ite
    | split
    | intro _)

theorem State.pegHeat_keeps (s : State) : Keeps s (s.pegHeat) := by
  unfold State.pegHeat
  try dsimp only
  with_reducible repeat' (first
    | simp only [keeps_other, keeps_sys]
    | apply Keeps.refl
    | apply (State.bumpSat_keeps _ _ _).after
    | apply (State.onPeg_keeps _ _).after
    | apply (State.syncLost_keeps _ _).after
    | apply keeps_ite
    | split
    | intro _)

theorem State.pdoWrite_keeps (s : State) (w : Nat) : Keeps s (s.pdoWrite w) := by
  unfold State.pdoWrite
  try dsimp only
  with_reducible repeat' (first
    | simp only [keeps_other, keeps_sys]
    | apply Keeps.refl
    | apply (State.setFld_keeps _ _ _ _).after
    | apply (State.onPeg_keeps _ _).after
    | apply (State.pegCode_keeps _ _).after
    | apply keeps_ite
    | split
    | intro _)

theorem State.revertRequest_keeps (s : State) (partnerOk : Bool) : Keeps s (s.revertRequest partnerOk) := by
  unfold State.revertRequest
  try dsimp only
  with_reducible repeat' (first
    | simp only [keeps_other, keeps_sys]
    | apply Keeps.refl
    | apply (State.send_keeps _ _ _ _).after
    | apply (State.onPeg_keeps _ _).after
    | apply keeps_ite
    | split
    | intro _)

theorem State.handover_keeps (s : State) : Keeps s (s.handover) := by
  unfold State.handover
  try dsimp only
  with_reducible repeat' (first
    | simp only [keeps_other, keeps_sys]
    | apply Keeps.refl
    | apply (State.onPeg_keeps _ _).after
    | apply (State.pegCode_keeps _ _).after
    | apply keeps_ite
    | split
    | intro _)

theorem State.returned_keeps (s : State) : Keeps s (s.returned) := by
  unfold State.returned
  try dsimp only
  with_reducible repeat' (first
    | simp only [keeps_other, keeps_sys]
    | apply Keeps.refl
    | apply (State.setFld_keeps _ _ _ _).after
    | apply (State.pegCode_keeps _ _).after
    | apply (State.pegRelease_keeps _ _).after
    | apply (State.takeOver_keeps _ _).after
    | apply keeps_ite
    | split
    | intro _)

end Sys2Proof.Machine
end

