-- ==== Sys2Proof/Laws/KeepsCan.lean ====
section
/-! SUPPORT. What each operation of Machine/Can.lean keeps of the state. -/

namespace Sys2Proof.Machine

open Sys2Proof

theorem State.onCan_keeps (s : State) (n : Nat) (f : CanCtl → CanCtl) : Keeps s (s.onCan n f) := by
  unfold State.onCan
  try dsimp only
  with_reducible repeat' (first
    | simp only [keeps_other, keeps_sys]
    | apply Keeps.refl
    | split
    | intro _)

theorem State.canLoad_keeps (s : State) (m : Image) : Keeps s (s.canLoad m) := by
  unfold State.canLoad
  try dsimp only
  with_reducible repeat' (first
    | simp only [keeps_other, keeps_sys]
    | apply Keeps.refl
    | apply (State.setReg_keeps _ _ _ _).after
    | apply (State.setFld_keeps _ _ _ _).after
    | apply (State.onCan_keeps _ _ _).after
    | apply keeps_ite
    | apply (State.each_keeps _ _ _ ?_).after
    | split
    | intro _)

theorem State.canLeave_keeps (s : State) (n : Nat) : Keeps s (s.canLeave n) := by
  unfold State.canLeave
  try dsimp only
  with_reducible repeat' (first
    | apply Keeps.refl
    | apply (State.setFld_keeps _ _ _ _).after
    | apply keeps_ite
    | split
    | intro _)

theorem State.canToBusOff_keeps (s : State) (n : Nat) : Keeps s (s.canToBusOff n) := by
  unfold State.canToBusOff
  try dsimp only
  with_reducible repeat' (first
    | simp only [keeps_other, keeps_sys]
    | apply Keeps.refl
    | apply (State.setFld_keeps _ _ _ _).after
    | apply (State.setFlag_keeps _ _ _ _).after
    | apply (State.bumpSat_keeps _ _ _).after
    | apply (State.report_keeps _ _ _).after
    | apply (State.onCan_keeps _ _ _).after
    | split
    | intro _)

theorem State.canCounters_keeps (s : State) (n tec rec_ : Nat) : Keeps s (s.canCounters n tec rec_) := by
  unfold State.canCounters
  try dsimp only
  with_reducible repeat' (first
    | apply Keeps.refl
    | apply (State.setFld_keeps _ _ _ _).after
    | apply (State.setFlag_keeps _ _ _ _).after
    | apply (State.report_keeps _ _ _).after
    | apply (State.canToBusOff_keeps _ _).after
    | apply keeps_ite
    | split
    | intro _)

theorem State.canRxError_keeps (s : State) (n lec : Nat) (eight : Bool) : Keeps s (s.canRxError n lec eight) := by
  unfold State.canRxError
  try dsimp only
  with_reducible repeat' (first
    | apply Keeps.refl
    | apply (State.setFld_keeps _ _ _ _).after
    | apply (State.canLeave_keeps _ _).after
    | apply (State.canCounters_keeps _ _ _ _).after
    | apply keeps_ite
    | split
    | intro _)

theorem State.canRxGood_keeps (s : State) (n : Nat) : Keeps s (s.canRxGood n) := by
  unfold State.canRxGood
  try dsimp only
  with_reducible repeat' (first
    | apply Keeps.refl
    | apply (State.tick_keeps _).after
    | apply (State.canCounters_keeps _ _ _ _).after
    | apply keeps_ite
    | split
    | intro _)

theorem State.canStore_keeps (s : State) (n ofs : Nat) (r : CanObjRec) (x : CanFrame) : Keeps s (s.canStore n ofs r x) := by
  unfold State.canStore
  try dsimp only
  with_reducible repeat' (first
    | simp only [keeps_other, keeps_sys]
    | apply Keeps.refl
    | apply (State.bumpSat_keeps _ _ _).after
    | apply (State.report_keeps _ _ _).after
    | apply (State.count_keeps _ _ _ _).after
    | apply (State.writePoint_keeps _ _).after
    | apply (State.onCan_keeps _ _ _).after
    | apply keeps_ite
    | split
    | intro _)

theorem State.objectRead_keeps (s : State) (who : Initiator) (n j ofs len : Nat) : Keeps s (s.objectRead who n j ofs len) := by
  unfold State.objectRead
  try dsimp only
  with_reducible repeat' (first
    | simp only [keeps_other, keeps_sys]
    | apply Keeps.refl
    | apply State.live_keeps _ (Keeps.refl _)
    | apply keeps_ite
    | split
    | intro _)

theorem State.takeReference_keeps (s : State) (n : Nat) (x : CanFrame) : Keeps s (s.takeReference n x) := by
  unfold State.takeReference
  try dsimp only
  with_reducible repeat' (first
    | simp only [keeps_other, keeps_sys]
    | apply Keeps.refl
    | apply (State.setFld_keeps _ _ _ _).after
    | apply (State.violation_keeps _ _ _ _ _ _ _ _ _).after
    | apply (State.onCan_keeps _ _ _).after
    | apply keeps_ite
    | split
    | intro _)

theorem State.canMute_keeps (s : State) (n : Nat) : Keeps s (s.canMute n) := by
  unfold State.canMute
  try dsimp only
  with_reducible repeat' (first
    | simp only [keeps_other, keeps_sys]
    | apply Keeps.refl
    | apply (State.setFld_keeps _ _ _ _).after
    | apply (State.onCan_keeps _ _ _).after
    | split
    | intro _)

theorem State.canCycle_keeps (s : State) (n : Nat) : Keeps s (s.canCycle n) := by
  unfold State.canCycle
  try dsimp only
  with_reducible repeat' (first
    | simp only [keeps_other, keeps_sys]
    | apply Keeps.refl
    | apply (State.setFld_keeps _ _ _ _).after
    | apply (State.onCan_keeps _ _ _).after
    | apply (State.canMute_keeps _ _).after
    | apply keeps_ite
    | split
    | intro _)

theorem State.canMarker_keeps (s : State) : Keeps s (s.canMarker) := by
  unfold State.canMarker
  try dsimp only
  with_reducible repeat' (first
    | apply Keeps.refl
    | apply (State.canMute_keeps _ _).after
    | apply (State.canCycle_keeps _ _).after
    | apply keeps_ite
    | apply (State.each_keeps _ _ _ ?_).after
    | split
    | intro _)

theorem State.canHeat_keeps (s : State) : Keeps s (s.canHeat) := by
  unfold State.canHeat
  try dsimp only
  with_reducible repeat' (first
    | simp only [keeps_other, keeps_sys]
    | apply Keeps.refl
    | apply (State.onCan_keeps _ _ _).after
    | apply (State.each_keeps _ _ _ ?_).after
    | split
    | intro _)

theorem State.canDrop_keeps (s : State) (n : Nat) : Keeps s (s.canDrop n) := by
  unfold State.canDrop
  try dsimp only
  with_reducible repeat' (first
    | apply Keeps.refl
    | apply (State.bumpSat_keeps _ _ _).after
    | split
    | intro _)

theorem State.canToRing_keeps (s : State) (n ofs : Nat) (x : CanFrame) : Keeps s (s.canToRing n ofs x) := by
  unfold State.canToRing
  try dsimp only
  with_reducible repeat' (first
    | apply Keeps.refl
    | apply (State.tick_keeps _).after
    | apply (State.ringDeliver_keeps _ _ _).after
    | apply (State.canDrop_keeps _ _).after
    | apply keeps_ite
    | split
    | intro _)

theorem State.canRoute_keeps (s : State) (n ofs : Nat) (x : CanFrame) : Keeps s (s.canRoute n ofs x) := by
  unfold State.canRoute
  try dsimp only
  with_reducible repeat' (first
    | simp only [keeps_other, keeps_sys]
    | apply Keeps.refl
    | apply (State.violation_keeps _ _ _ _ _ _ _ _ _).after
    | apply (State.tenonReceive_keeps _ _ _).after
    | apply (State.canStore_keeps _ _ _ _ _).after
    | apply (State.canDrop_keeps _ _).after
    | apply (State.canToRing_keeps _ _ _ _).after
    | apply keeps_ite
    | split
    | intro _)

theorem State.canReceive_keeps (s : State) (n ofs : Nat) (x : CanFrame) : Keeps s (s.canReceive n ofs x) := by
  unfold State.canReceive
  try dsimp only
  with_reducible repeat' (first
    | apply Keeps.refl
    | apply (State.count_keeps _ _ _ _).after
    | apply (State.canLeave_keeps _ _).after
    | apply (State.canRxGood_keeps _ _).after
    | apply (State.takeReference_keeps _ _ _).after
    | apply (State.canRoute_keeps _ _ _ _).after
    | apply keeps_ite
    | split
    | intro _)

theorem State.canException_keeps (s : State) (n : Nat) (idw : W32) : Keeps s (s.canException n idw) := by
  unfold State.canException
  try dsimp only
  with_reducible repeat' (first
    | apply Keeps.refl
    | apply (State.bumpSat_keeps _ _ _).after
    | apply (State.violation_keeps _ _ _ _ _ _ _ _ _).after
    | apply (State.canRxError_keeps _ _ _ _).after
    | apply keeps_ite
    | split
    | intro _)

theorem State.canRings_keeps (s : State) : Keeps s (s.canRings) := by
  unfold State.canRings
  try dsimp only
  with_reducible repeat' (first
    | simp only [keeps_other, keeps_sys]
    | apply Keeps.refl
    | apply (State.onCan_keeps _ _ _).after
    | apply keeps_ite
    | apply (State.each_keeps _ _ _ ?_).after
    | split
    | intro _)

theorem State.canAdvance_keeps (s : State) (n k : Nat) : Keeps s (s.canAdvance n k) := by
  induction k generalizing s with
  | zero => exact Keeps.refl s
  | succ k ih =>
    unfold State.canAdvance
    dsimp only
    with_reducible repeat' (first
      | exact Keeps.refl _
      | apply (ih _).after
      | apply (State.ringPop_keeps _ _).after
      | apply (State.onCan_keeps _ _ _).after
      | apply keeps_ite
      | split)

theorem State.canComplete_keeps (s : State) (n index status ofs : Nat) (tried : Bool) : Keeps s (s.canComplete n index status ofs tried) := by
  unfold State.canComplete
  try dsimp only
  with_reducible repeat' (first
    | simp only [keeps_other, keeps_sys]
    | apply Keeps.refl
    | apply (State.ringDeliver_keeps _ _ _).after
    | apply (State.canAdvance_keeps _ _ _).after
    | apply (State.onCan_keeps _ _ _).after
    | apply keeps_ite
    | split
    | intro _)

theorem State.canReject_keeps (s : State) (n ofs : Nat) : Keeps s (s.canReject n ofs) := by
  unfold State.canReject
  try dsimp only
  with_reducible repeat' (first
    | apply Keeps.refl
    | apply (State.report_keeps _ _ _).after
    | apply (State.busError_keeps _ _ _ _ _).after
    | apply (State.canComplete_keeps _ _ _ _ _ _).after
    | apply keeps_ite
    | apply (keeps_foldl_fst _ _ ?_ _).after
    | apply (keeps_foldl_snd _ _ ?_ _).after
    | apply (keeps_foldl _ _ ?_ _).after
    | split
    | intro _)

theorem State.canStart_keeps (s : State) (n : Nat) (x : CanSrc) : Keeps s (s.canStart n x) := by
  unfold State.canStart
  try dsimp only
  with_reducible repeat' (first
    | simp only [keeps_other, keeps_sys]
    | apply Keeps.refl
    | apply (State.setFld_keeps _ _ _ _).after
    | apply (State.onCan_keeps _ _ _).after
    | split
    | intro _)

theorem State.canAttempt_keeps (s : State) (n ofs : Nat) : Keeps s (s.canAttempt n ofs) := by
  unfold State.canAttempt
  try dsimp only
  with_reducible repeat' (first
    | simp only [keeps_other, keeps_sys]
    | apply Keeps.refl
    | apply (State.canReject_keeps _ _ _).after
    | apply (State.canStart_keeps _ _ _).after
    | apply keeps_ite
    | split
    | intro _)

theorem State.canSent_keeps (s : State) (n ofs : Nat) (x : CanSrc) : Keeps s (s.canSent n ofs x) := by
  unfold State.canSent
  try dsimp only
  with_reducible repeat' (first
    | simp only [keeps_other, keeps_sys]
    | apply Keeps.refl
    | apply (State.bumpSat_keeps _ _ _).after
    | apply (State.report_keeps _ _ _).after
    | apply (State.send_keeps _ _ _ _).after
    | apply (State.count_keeps _ _ _ _).after
    | apply (State.onCan_keeps _ _ _).after
    | apply (State.canCounters_keeps _ _ _ _).after
    | apply (State.canComplete_keeps _ _ _ _ _ _).after
    | apply keeps_ite
    | split
    | intro _)

theorem State.canFailed_keeps (s : State) (n ofs status : Nat) (x : CanSrc) : Keeps s (s.canFailed n ofs status x) := by
  unfold State.canFailed
  try dsimp only
  with_reducible repeat' (first
    | simp only [keeps_other, keeps_sys]
    | apply Keeps.refl
    | apply (State.bumpSat_keeps _ _ _).after
    | apply (State.onCan_keeps _ _ _).after
    | apply (State.canComplete_keeps _ _ _ _ _ _).after
    | apply keeps_ite
    | split
    | intro _)

theorem State.canCut_keeps (s : State) (n ofs : Nat) (x : CanSrc) : Keeps s (s.canCut n ofs x) := by
  unfold State.canCut
  try dsimp only
  with_reducible repeat' (first
    | simp only [keeps_other, keeps_sys]
    | apply Keeps.refl
    | apply (State.canComplete_keeps _ _ _ _ _ _).after
    | apply keeps_ite
    | split
    | intro _)

theorem State.canEnd_keeps (s : State) (n : Nat) (r : CanEnd) (ofs : Nat) : Keeps s (s.canEnd n r ofs) := by
  unfold State.canEnd
  try dsimp only
  with_reducible repeat' (first
    | simp only [keeps_other, keeps_sys]
    | apply Keeps.refl
    | apply (State.setFld_keeps _ _ _ _).after
    | apply (State.onCan_keeps _ _ _).after
    | apply (State.canLeave_keeps _ _).after
    | apply (State.canCounters_keeps _ _ _ _).after
    | apply (State.canSent_keeps _ _ _ _).after
    | apply (State.canFailed_keeps _ _ _ _ _).after
    | apply (State.canCut_keeps _ _ _ _).after
    | apply keeps_ite
    | split
    | intro _)

theorem State.canCancel_keeps (s : State) (n index ofs : Nat) : Keeps s (s.canCancel n index ofs) := by
  unfold State.canCancel
  try dsimp only
  with_reducible repeat' (first
    | simp only [keeps_other, keeps_sys]
    | apply Keeps.refl
    | apply (State.report_keeps _ _ _).after
    | apply (State.onCan_keeps _ _ _).after
    | apply (State.canComplete_keeps _ _ _ _ _ _).after
    | apply keeps_ite
    | split
    | intro _)

theorem State.canDisable_keeps (s : State) (n : Nat) (on receiving : Bool) : Keeps s (s.canDisable n on receiving) := by
  unfold State.canDisable
  try dsimp only
  with_reducible repeat' (first
    | apply Keeps.refl
    | apply (State.setFlag_keeps _ _ _ _).after
    | apply (State.canLeave_keeps _ _).after
    | apply keeps_ite
    | split
    | intro _)

theorem State.canRecover_keeps (s : State) (n : Nat) : Keeps s (s.canRecover n) := by
  unfold State.canRecover
  try dsimp only
  with_reducible repeat' (first
    | apply Keeps.refl
    | apply (State.setFld_keeps _ _ _ _).after
    | apply (State.report_keeps _ _ _).after
    | apply keeps_ite
    | split
    | intro _)

theorem State.canExclusive_keeps (s : State) (n slot ofs : Nat) (busy : Bool) : Keeps s (s.canExclusive n slot ofs busy) := by
  unfold State.canExclusive
  try dsimp only
  with_reducible repeat' (first
    | simp only [keeps_other, keeps_sys]
    | apply Keeps.refl
    | apply (State.bumpSat_keeps _ _ _).after
    | apply (State.slot_keeps _ _ _ _ ?_).after
    | apply (State.canComplete_keeps _ _ _ _ _ _).after
    | apply (State.canReject_keeps _ _ _).after
    | apply (State.canStart_keeps _ _ _).after
    | apply keeps_ite
    | split
    | intro _)

theorem State.canTrigger_keeps (s : State) (n k : Nat) (busy : Bool) (ofs : Nat) : Keeps s (s.canTrigger n k busy ofs) := by
  unfold State.canTrigger
  try dsimp only
  with_reducible repeat' (first
    | simp only [keeps_other, keeps_sys]
    | apply Keeps.refl
    | apply (State.bumpSat_keeps _ _ _).after
    | apply (State.onCan_keeps _ _ _).after
    | apply (State.canExclusive_keeps _ _ _ _ _).after
    | apply keeps_ite
    | split
    | intro _)

end Sys2Proof.Machine
end

