-- ==== Sys2Proof/Laws/KeepsFeeder.lean ====
section
/-! SUPPORT. What each operation of Machine/Feeder.lean keeps of the state. -/

namespace Sys2Proof.Machine

open Sys2Proof

theorem State.fdlLoad_keeps (s : State) (m : Image) : Keeps s (s.fdlLoad m) := by
  unfold State.fdlLoad
  try dsimp only
  with_reducible repeat' (first
    | simp only [keeps_other, keeps_sys]
    | apply Keeps.refl
    | apply (State.setReg_keeps _ _ _ _).after
    | apply (State.setFld_keeps _ _ _ _).after
    | apply (State.onNode_keeps _ _ _).after
    | apply keeps_ite
    | apply (State.each_keeps _ _ _ ?_).after
    | split
    | intro _)

theorem State.fdlCode_keeps (s : State) (code : Nat) (subject : Nat) : Keeps s (s.fdlCode code subject) := by
  unfold State.fdlCode
  try dsimp only
  with_reducible repeat' (first
    | apply Keeps.refl
    | apply (State.setFld_keeps _ _ _ _).after
    | apply (State.report_keeps _ _ _).after
    | split
    | intro _)

theorem State.askRobust_keeps (s : State) (a : Nat) : Keeps s (s.askRobust a) := by
  unfold State.askRobust
  try dsimp only
  with_reducible repeat' (first
    | simp only [keeps_other, keeps_sys]
    | apply Keeps.refl
    | apply (State.setFld_keeps _ _ _ _).after
    | apply (State.onNode_keeps _ _ _).after
    | split
    | intro _)

theorem State.askLess_keeps (s : State) (a : Nat) : Keeps s (s.askLess a) := by
  unfold State.askLess
  try dsimp only
  with_reducible repeat' (first
    | simp only [keeps_other, keeps_sys]
    | apply Keeps.refl
    | apply (State.setFld_keeps _ _ _ _).after
    | apply (State.onNode_keeps _ _ _).after
    | split
    | intro _)

theorem State.judgeErased_keeps (s : State) (a : Nat) (d : Decoded) : Keeps s (s.judgeErased a d) := by
  unfold State.judgeErased
  try dsimp only
  with_reducible repeat' (first
    | simp only [keeps_other, keeps_sys]
    | apply Keeps.refl
    | apply (State.setFld_keeps _ _ _ _).after
    | apply (State.onNode_keeps _ _ _).after
    | apply (State.askRobust_keeps _ _).after
    | apply (State.askLess_keeps _ _).after
    | apply keeps_ite
    | split
    | intro _)

theorem State.takeMode_keeps (s : State) (a band m : Nat) : Keeps s (s.takeMode a band m) := by
  unfold State.takeMode
  try dsimp only
  with_reducible repeat' (first
    | apply Keeps.refl
    | apply (State.setFld_keeps _ _ _ _).after
    | apply (State.fdlCode_keeps _ _ _).after
    | apply keeps_ite
    | split
    | intro _)

theorem State.nodeEntry_keeps (s : State) (r : NodeRec) (ofs : Nat) (e : List Byte) : Keeps s (s.nodeEntry r ofs e) := by
  unfold State.nodeEntry
  try dsimp only
  with_reducible repeat' (first
    | apply Keeps.refl
    | apply (State.writePoint_keeps _ _).after
    | apply keeps_ite
    | split
    | intro _)

theorem State.fdlPoints_keeps (s : State) (a : Nat) (r : NodeRec) (ofs : Nat) (head payload : List Byte) : Keeps s (s.fdlPoints a r ofs head payload) := by
  unfold State.fdlPoints
  try dsimp only
  with_reducible repeat' (first
    | simp only [keeps_other, keeps_sys]
    | apply Keeps.refl
    | apply (State.setFld_keeps _ _ _ _).after
    | apply (State.onNode_keeps _ _ _).after
    | apply (State.fdlCode_keeps _ _ _).after
    | apply (State.nodeEntry_keeps _ _ _ _).after
    | apply keeps_ite
    | apply (State.each_keeps _ _ _ ?_).after
    | split
    | intro _)

theorem State.saveCurtail_keeps (s : State) : Keeps s (s.saveCurtail) := by
  unfold State.saveCurtail
  try dsimp only
  with_reducible repeat' (first
    | simp only [keeps_other, keeps_sys]
    | apply Keeps.refl
    | apply (State.setFld_keeps _ _ _ _).after
    | apply (State.onFdl_keeps _ _).after
    | split
    | intro _)

theorem State.setCurtail_keeps (s : State) (limit : Option Nat) (left : Option Nat) : Keeps s (s.setCurtail limit left) := by
  unfold State.setCurtail
  try dsimp only
  with_reducible repeat' (first
    | simp only [keeps_other, keeps_sys]
    | apply Keeps.refl
    | apply (State.setFld_keeps _ _ _ _).after
    | apply (State.setFlag_keeps _ _ _ _).after
    | apply (State.onFdl_keeps _ _).after
    | apply (State.saveCurtail_keeps _).after
    | split
    | intro _)

theorem State.curtailCommand_keeps (s : State) (head payload : List Byte) : Keeps s (s.curtailCommand head payload) := by
  unfold State.curtailCommand
  try dsimp only
  with_reducible repeat' (first
    | simp only [keeps_other, keeps_sys]
    | apply Keeps.refl
    | apply (State.setFld_keeps _ _ _ _).after
    | apply (State.onFdl_keeps _ _).after
    | apply (State.fdlCode_keeps _ _ _).after
    | apply (State.setCurtail_keeps _ _ _).after
    | apply keeps_ite
    | split
    | intro _)

theorem State.fdlTenon_keeps (s : State) (band : Nat) (b : List Byte) : Keeps s (s.fdlTenon band b) := by
  unfold State.fdlTenon
  try dsimp only
  with_reducible repeat' (first
    | simp only [keeps_other, keeps_sys]
    | apply Keeps.refl
    | apply (State.tenonReceive_keeps _ _ _).after
    | apply keeps_ite
    | split
    | intro _)

theorem State.fdlBad_keeps (s : State) (band : Nat) (b : List Byte) : Keeps s (s.fdlBad band b) := by
  unfold State.fdlBad
  try dsimp only
  with_reducible repeat' (first
    | simp only [keeps_other, keeps_sys]
    | apply Keeps.refl
    | apply (State.bumpSat_keeps _ _ _).after
    | apply (State.onFdl_keeps _ _).after
    | apply (State.fdlCode_keeps _ _ _).after
    | apply (State.askRobust_keeps _ _).after
    | apply keeps_ite
    | split
    | intro _)

theorem State.fdlReceive_keeps (s : State) (band ofs : Nat) (d : Decoded) : Keeps s (s.fdlReceive band ofs d) := by
  unfold State.fdlReceive
  try dsimp only
  with_reducible repeat' (first
    | simp only [keeps_other, keeps_sys]
    | apply Keeps.refl
    | apply (State.bumpSat_keeps _ _ _).after
    | apply (State.count_keeps _ _ _ _).after
    | apply (State.judgeErased_keeps _ _ _).after
    | apply (State.takeMode_keeps _ _ _ _).after
    | apply (State.fdlPoints_keeps _ _ _ _ _ _).after
    | apply (State.curtailCommand_keeps _ _ _).after
    | apply (State.fdlTenon_keeps _ _ _).after
    | apply (State.fdlBad_keeps _ _ _).after
    | apply keeps_ite
    | split
    | intro _)

theorem State.dropFrame_keeps (s : State) (band : Nat) (f : FdlFrame) : Keeps s (s.dropFrame band f) := by
  unfold State.dropFrame
  try dsimp only
  with_reducible repeat' (first
    | simp only [keeps_other, keeps_sys]
    | apply Keeps.refl
    | apply (State.onFdl_keeps _ _).after
    | split
    | intro _)

theorem State.fdlCounted_keeps (s : State) : Keeps s (s.fdlCounted) := by
  unfold State.fdlCounted
  try dsimp only
  with_reducible repeat' (first
    | simp only [keeps_other, keeps_sys]
    | apply Keeps.refl
    | apply (State.onFdl_keeps _ _).after
    | apply keeps_ite
    | split
    | intro _)

theorem State.fdlStart_keeps (s : State) (band : Nat) : Keeps s (s.fdlStart band) := by
  unfold State.fdlStart
  try dsimp only
  with_reducible repeat' (first
    | simp only [keeps_other, keeps_sys]
    | apply Keeps.refl
    | apply (State.setFld_keeps _ _ _ _).after
    | apply (State.send_keeps _ _ _ _).after
    | apply (State.bind_keeps _ _ _ _).after
    | apply (State.onFdl_keeps _ _).after
    | apply (State.dropFrame_keeps _ _ _).after
    | apply (State.fdlCounted_keeps _).after
    | apply keeps_ite
    | split
    | intro _)

theorem State.queueOutputs_keeps (s : State) (a : Nat) : Keeps s (s.queueOutputs a) := by
  unfold State.queueOutputs
  try dsimp only
  with_reducible repeat' (first
    | simp only [keeps_other, keeps_sys]
    | apply Keeps.refl
    | apply (State.onFdl_keeps _ _).after
    | apply (State.onNode_keeps _ _ _).after
    | apply keeps_ite
    | apply (keeps_foldl_fst _ _ ?_ _).after
    | apply (keeps_foldl_snd _ _ ?_ _).after
    | apply (keeps_foldl _ _ ?_ _).after
    | split
    | intro _)

theorem State.fdlHeat_keeps (s : State) (noise : List Nat) : Keeps s (s.fdlHeat noise) := by
  unfold State.fdlHeat
  try dsimp only
  with_reducible repeat' (first
    | simp only [keeps_other, keeps_sys]
    | apply Keeps.refl
    | apply (State.setFld_keeps _ _ _ _).after
    | apply (State.writePoint_keeps _ _).after
    | apply (State.onFdl_keeps _ _).after
    | apply (State.queueOutputs_keeps _ _).after
    | apply keeps_ite
    | apply (State.each_keeps _ _ _ ?_).after
    | split
    | intro _)

end Sys2Proof.Machine
end

