-- ==== Sys2Proof/Laws/KeepsEmber.lean ====
section
/-! SUPPORT. What each operation of Machine/Ember.lean keeps of the state. -/

namespace Sys2Proof.Machine

open Sys2Proof

theorem State.onEst_keeps (s : State) (f : Est → Est) : Keeps s (s.onEst f) := by
  unfold State.onEst
  try dsimp only
  with_reducible repeat' (first
    | simp only [keeps_other, keeps_sys]
    | apply Keeps.refl
    | split
    | intro _)

theorem State.onEmb_keeps (s : State) (f : Emb → Emb) : Keeps s (s.onEmb f) := by
  unfold State.onEmb
  try dsimp only
  with_reducible repeat' (first
    | simp only [keeps_other, keeps_sys]
    | apply Keeps.refl
    | split
    | intro _)

theorem State.onString_keeps (s : State) (k : Nat) (f : BatString → BatString) : Keeps s (s.onString k f) := by
  unfold State.onString
  try dsimp only
  with_reducible repeat' (first
    | simp only [keeps_other, keeps_sys]
    | apply Keeps.refl
    | apply (State.onEst_keeps _ _).after
    | split
    | intro _)

theorem State.embCode_keeps (s : State) (code : Nat) (subject : Nat) : Keeps s (s.embCode code subject) := by
  unfold State.embCode
  try dsimp only
  with_reducible repeat' (first
    | apply Keeps.refl
    | apply (State.setFld_keeps _ _ _ _).after
    | apply (State.report_keeps _ _ _).after
    | split
    | intro _)

theorem State.filterCell_keeps (k : Nat) (r : BatRec) (i : Rat) (s : State) (c : Nat) : Keeps s (State.filterCell k r i s c) := by
  unfold State.filterCell
  try dsimp only
  with_reducible repeat' (first
    | simp only [keeps_other, keeps_sys]
    | apply Keeps.refl
    | apply (State.onString_keeps _ _ _).after
    | apply keeps_ite
    | split
    | intro _)

theorem State.suspectString_keeps (s : State) (k : Nat) : Keeps s (s.suspectString k) := by
  unfold State.suspectString
  try dsimp only
  with_reducible repeat' (first
    | simp only [keeps_other, keeps_sys]
    | apply Keeps.refl
    | apply (State.setFld_keeps _ _ _ _).after
    | apply (State.onString_keeps _ _ _).after
    | apply (State.embCode_keeps _ _ _).after
    | apply keeps_ite
    | split
    | intro _)

theorem State.showSoc_keeps (s : State) (k : Nat) (r : BatRec) : Keeps s (s.showSoc k r) := by
  unfold State.showSoc
  try dsimp only
  with_reducible repeat' (first
    | apply Keeps.refl
    | apply (State.setFld_keeps _ _ _ _).after
    | apply (keeps_foldl_fst _ _ ?_ _).after
    | apply (keeps_foldl_snd _ _ ?_ _).after
    | apply (keeps_foldl _ _ ?_ _).after
    | split
    | intro _)

theorem State.passValid_keeps (s : State) (k : Nat) (r : BatRec) : Keeps s (s.passValid k r) := by
  unfold State.passValid
  try dsimp only
  with_reducible repeat' (first
    | simp only [keeps_other, keeps_sys]
    | apply Keeps.refl
    | apply (State.setFld_keeps _ _ _ _).after
    | apply (State.onString_keeps _ _ _).after
    | apply (State.embCode_keeps _ _ _).after
    | apply keeps_ite
    | split
    | intro _)

theorem State.restCell_keeps (k : Nat) (r : BatRec) (s : State) (c : Nat) : Keeps s (State.restCell k r s c) := by
  unfold State.restCell
  try dsimp only
  with_reducible repeat' (first
    | simp only [keeps_other, keeps_sys]
    | apply Keeps.refl
    | apply (State.onString_keeps _ _ _).after
    | split
    | intro _)

theorem State.restPoint_keeps (s : State) (k : Nat) (r : BatRec) : Keeps s (s.restPoint k r) := by
  unfold State.restPoint
  try dsimp only
  with_reducible repeat' (first
    | simp only [keeps_other, keeps_sys]
    | apply Keeps.refl
    | apply (State.setFld_keeps _ _ _ _).after
    | apply (State.onString_keeps _ _ _).after
    | apply (State.embCode_keeps _ _ _).after
    | apply (State.restCell_keeps _ _ _ _).after
    | apply keeps_ite
    | apply (keeps_foldl_fst _ _ ?_ _).after
    | apply (keeps_foldl_snd _ _ ?_ _).after
    | apply (keeps_foldl _ _ ?_ _).after
    | split
    | intro _)

theorem State.conflict_keeps (s : State) (k : Nat) (r : BatRec) (old : Option Rat) : Keeps s (s.conflict k r old) := by
  unfold State.conflict
  try dsimp only
  with_reducible repeat' (first
    | simp only [keeps_other, keeps_sys]
    | apply Keeps.refl
    | apply (State.setFld_keeps _ _ _ _).after
    | apply (State.onString_keeps _ _ _).after
    | apply (State.suspectString_keeps _ _).after
    | apply keeps_ite
    | split
    | intro _)

theorem State.learnQ_keeps (s : State) (k : Nat) (r : BatRec) (fresh : Rat) : Keeps s ((s.learnQ k r fresh).1) := by
  unfold State.learnQ
  try dsimp only
  with_reducible repeat' (first
    | apply Keeps.refl
    | apply (State.setFld_keeps _ _ _ _).after
    | apply (State.bumpSat_keeps _ _ _).after
    | apply (State.embCode_keeps _ _ _).after
    | apply keeps_ite_fst
    | split
    | intro _)

theorem State.learnStep_keeps (s : State) (k : Nat) (r : BatRec) (rested : Bool) : Keeps s ((s.learnStep k r rested).1) := by
  unfold State.learnStep
  try dsimp only
  with_reducible repeat' (first
    | simp only [keeps_other, keeps_sys]
    | apply Keeps.refl
    | apply (State.onString_keeps _ _ _).after
    | apply (State.learnQ_keeps _ _ _ _).after
    | apply keeps_ite_fst
    | split
    | intro _)

theorem State.writeCopy_keeps (s : State) (k q learns : Nat) : Keeps s (s.writeCopy k q learns) := by
  unfold State.writeCopy
  try dsimp only
  with_reducible repeat' (first
    | simp only [keeps_other, keeps_sys]
    | apply Keeps.refl
    | apply (State.setBytes_keeps _ _ _).after
    | apply keeps_ite
    | split
    | intro _)

theorem State.writeBack_keeps (s : State) (k : Nat) (new : Option (Nat × Nat)) : Keeps s (s.writeBack k new) := by
  unfold State.writeBack
  try dsimp only
  with_reducible repeat' (first
    | simp only [keeps_other, keeps_sys]
    | apply Keeps.refl
    | apply (State.setFld_keeps _ _ _ _).after
    | apply (State.onEmb_keeps _ _).after
    | apply (State.embCode_keeps _ _ _).after
    | apply (State.writeCopy_keeps _ _ _ _).after
    | apply keeps_ite
    | split
    | intro _)

theorem State.loadCap_keeps (s : State) (k : Nat) (r : BatRec) : Keeps s (s.loadCap k r) := by
  unfold State.loadCap
  try dsimp only
  with_reducible repeat' (first
    | simp only [keeps_other, keeps_sys]
    | apply Keeps.refl
    | apply (State.setFld_keeps _ _ _ _).after
    | apply (State.onEmb_keeps _ _).after
    | apply (State.onString_keeps _ _ _).after
    | apply (State.embCode_keeps _ _ _).after
    | split
    | intro _)

theorem State.batCommit_keeps (s : State) (old : List Nat) : Keeps s (s.batCommit old) := by
  unfold State.batCommit
  try dsimp only
  with_reducible repeat' (first
    | simp only [keeps_other, keeps_sys]
    | apply Keeps.refl
    | apply (State.setReg_keeps _ _ _ _).after
    | apply (State.setFld_keeps _ _ _ _).after
    | apply (State.onString_keeps _ _ _).after
    | apply (State.writeCopy_keeps _ _ _ _).after
    | apply keeps_ite
    | apply (State.each_keeps _ _ _ ?_).after
    | split
    | intro _)

theorem State.cellLimit_keeps (s : State) (k : Nat) (r : BatRec) : Keeps s (s.cellLimit k r) := by
  unfold State.cellLimit
  try dsimp only
  with_reducible repeat' (first
    | apply Keeps.refl
    | apply (State.setFlag_keeps _ _ _ _).after
    | apply (State.embCode_keeps _ _ _).after
    | apply (State.suspectString_keeps _ _).after
    | apply keeps_ite
    | split
    | intro _)

theorem State.headroom_keeps (s : State) : Keeps s (s.headroom) := by
  unfold State.headroom
  try dsimp only
  with_reducible repeat' (first
    | simp only [keeps_other, keeps_sys]
    | apply Keeps.refl
    | apply (State.onEst_keeps _ _).after
    | apply keeps_ite
    | split
    | intro _)

theorem State.showMinCell_keeps (s : State) (k : Nat) (r : BatRec) : Keeps s (s.showMinCell k r) := by
  unfold State.showMinCell
  try dsimp only
  with_reducible repeat' (first
    | apply Keeps.refl
    | apply (State.setFld_keeps _ _ _ _).after
    | apply (keeps_foldl_fst _ _ ?_ _).after
    | apply (keeps_foldl_snd _ _ ?_ _).after
    | apply (keeps_foldl _ _ ?_ _).after
    | split
    | intro _)

theorem State.passString_keeps (s : State) (k : Nat) (r : BatRec) : Keeps s (s.passString k r) := by
  unfold State.passString
  try dsimp only
  with_reducible repeat' (first
    | simp only [keeps_other, keeps_sys]
    | apply Keeps.refl
    | apply (State.onString_keeps _ _ _).after
    | apply (State.filterCell_keeps _ _ _ _ _).after
    | apply (State.showSoc_keeps _ _ _).after
    | apply (State.passValid_keeps _ _ _).after
    | apply (State.restPoint_keeps _ _ _).after
    | apply (State.conflict_keeps _ _ _ _).after
    | apply (State.learnStep_keeps _ _ _ _).after
    | apply (State.writeBack_keeps _ _ _).after
    | apply (State.showMinCell_keeps _ _ _).after
    | apply keeps_ite
    | apply (keeps_foldl_fst _ _ ?_ _).after
    | apply (keeps_foldl_snd _ _ ?_ _).after
    | apply (keeps_foldl _ _ ?_ _).after
    | split
    | intro _)

theorem State.batteryPass_keeps (s : State) : Keeps s (s.batteryPass) := by
  unfold State.batteryPass
  try dsimp only
  with_reducible repeat' (first
    | simp only [keeps_other, keeps_sys]
    | apply Keeps.refl
    | apply (State.setFld_keeps _ _ _ _).after
    | apply (State.count_keeps _ _ _ _).after
    | apply (State.completed_keeps _ _).after
    | apply (State.onEst_keeps _ _).after
    | apply (State.cellLimit_keeps _ _ _).after
    | apply (State.headroom_keeps _).after
    | apply (State.passString_keeps _ _ _).after
    | apply keeps_ite
    | apply (State.each_keeps _ _ _ ?_).after
    | split
    | intro _)

theorem State.stringHeat_keeps (s : State) (k : Nat) (r : BatRec) : Keeps s (s.stringHeat k r) := by
  unfold State.stringHeat
  try dsimp only
  with_reducible repeat' (first
    | simp only [keeps_other, keeps_sys]
    | apply Keeps.refl
    | apply (State.setFld_keeps _ _ _ _).after
    | apply (State.onString_keeps _ _ _).after
    | apply (State.cellLimit_keeps _ _ _).after
    | apply keeps_ite
    | split
    | intro _)

theorem State.embHeat_keeps (s : State) : Keeps s (s.embHeat) := by
  unfold State.embHeat
  try dsimp only
  with_reducible repeat' (first
    | simp only [keeps_other, keeps_sys]
    | apply Keeps.refl
    | apply (State.setFld_keeps _ _ _ _).after
    | apply (State.onEst_keeps _ _).after
    | apply (State.headroom_keeps _).after
    | apply (State.stringHeat_keeps _ _ _).after
    | apply keeps_ite
    | apply (State.each_keeps _ _ _ ?_).after
    | split
    | intro _)

theorem State.batOverrun_keeps (s : State) : Keeps s (s.batOverrun) := by
  unfold State.batOverrun
  try dsimp only
  with_reducible repeat' (first
    | simp only [keeps_other, keeps_sys]
    | apply Keeps.refl
    | apply (State.setFld_keeps _ _ _ _).after
    | apply (State.onEst_keeps _ _).after
    | apply (State.embCode_keeps _ _ _).after
    | split
    | intro _)

theorem State.batStop_keeps (s : State) : Keeps s (s.batStop) := by
  unfold State.batStop
  try dsimp only
  with_reducible repeat' (first
    | simp only [keeps_other, keeps_sys]
    | apply Keeps.refl
    | apply (State.setFld_keeps _ _ _ _).after
    | apply (State.onEst_keeps _ _).after
    | apply (State.embCode_keeps _ _ _).after
    | split
    | intro _)

theorem State.estRestart_keeps (s : State) : Keeps s (s.estRestart) := by
  unfold State.estRestart
  try dsimp only
  with_reducible repeat' (first
    | simp only [keeps_other, keeps_sys]
    | apply Keeps.refl
    | apply (State.onEst_keeps _ _).after
    | apply keeps_ite
    | split
    | intro _)

theorem State.hibernateSave_keeps (s : State) : Keeps s (s.hibernateSave) := by
  unfold State.hibernateSave
  try dsimp only
  with_reducible repeat' (first
    | simp only [keeps_other, keeps_sys]
    | apply Keeps.refl
    | apply (State.setReg_keeps _ _ _ _).after
    | apply (State.onEst_keeps _ _).after
    | apply (State.onEmb_keeps _ _).after
    | apply (State.batteryPass_keeps _).after
    | apply keeps_ite
    | apply (State.each_keeps _ _ _ ?_).after
    | split
    | intro _)

theorem State.hibernate_keeps (s : State) : Keeps s (s.hibernate) := by
  unfold State.hibernate
  try dsimp only
  with_reducible repeat' (first
    | simp only [keeps_other, keeps_sys]
    | apply Keeps.refl
    | apply (State.send_keeps _ _ _ _).after
    | apply (State.onEst_keeps _ _).after
    | apply (State.embCode_keeps _ _ _).after
    | apply (State.hibernateSave_keeps _).after
    | apply keeps_ite
    | split
    | intro _)

theorem State.embCount_keeps (s : State) (k : Nat) (r : BatRec) (i : Rat) : Keeps s (s.embCount k r i) := by
  unfold State.embCount
  try dsimp only
  with_reducible repeat' (first
    | simp only [keeps_other, keeps_sys]
    | apply Keeps.refl
    | apply (State.setPair_keeps _ _ _ _ _).after
    | apply (State.onEmb_keeps _ _).after
    | apply keeps_ite
    | split
    | intro _)

theorem State.emberSample_keeps (s : State) (ch : Nat) (code : Int) : Keeps s (s.emberSample ch code) := by
  unfold State.emberSample
  try dsimp only
  with_reducible repeat' (first
    | simp only [keeps_other, keeps_sys]
    | apply Keeps.refl
    | apply (State.embCount_keeps _ _ _ _).after
    | apply keeps_ite
    | apply (State.each_keeps _ _ _ ?_).after
    | split
    | intro _)

theorem State.wakeUp_keeps (s : State) (src : Nat) : Keeps s (s.wakeUp src) := by
  unfold State.wakeUp
  try dsimp only
  with_reducible repeat' (first
    | simp only [keeps_other, keeps_sys]
    | apply Keeps.refl
    | apply (State.setFld_keeps _ _ _ _).after
    | apply (State.count_keeps _ _ _ _).after
    | apply (State.onEmb_keeps _ _).after
    | apply (State.embCode_keeps _ _ _).after
    | split
    | intro _)

theorem State.embBoot_keeps (s : State) (woken : Bool) : Keeps s (s.embBoot woken) := by
  unfold State.embBoot
  try dsimp only
  with_reducible repeat' (first
    | simp only [keeps_other, keeps_sys]
    | apply Keeps.refl
    | apply (State.setFld_keeps _ _ _ _).after
    | apply (State.onEmb_keeps _ _).after
    | apply (State.onString_keeps _ _ _).after
    | apply (State.loadCap_keeps _ _ _).after
    | apply keeps_ite
    | apply (State.each_keeps _ _ _ ?_).after
    | split
    | intro _)

end Sys2Proof.Machine
end

