-- ==== Sys2Proof/Laws/KeepsScribe.lean ====
section
/-! SUPPORT. What each operation of Machine/Scribe.lean keeps of the state. -/

namespace Sys2Proof.Machine

open Sys2Proof

theorem State.onScb_keeps (s : State) (f : Scb → Scb) : Keeps s (s.onScb f) := by
  unfold State.onScb
  try dsimp only
  with_reducible repeat' (first
    | simp only [keeps_other, keeps_sys]
    | apply Keeps.refl
    | split
    | intro _)

theorem State.zeroCounts_keeps (s : State) : Keeps s (s.zeroCounts) := by
  unfold State.zeroCounts
  try dsimp only
  with_reducible repeat' (first
    | simp only [keeps_other, keeps_sys]
    | apply Keeps.refl
    | apply (State.onScb_keeps _ _).after
    | split
    | intro _)

theorem State.scribeHeat_keeps (s : State) : Keeps s (s.scribeHeat) := by
  unfold State.scribeHeat
  try dsimp only
  with_reducible repeat' (first
    | simp only [keeps_other, keeps_sys]
    | apply Keeps.refl
    | apply (State.onScb_keeps _ _).after
    | split
    | intro _)

theorem State.closePeriod_keeps (s : State) : Keeps s (s.closePeriod) := by
  unfold State.closePeriod
  try dsimp only
  with_reducible repeat' (first
    | simp only [keeps_other, keeps_sys]
    | apply Keeps.refl
    | apply (State.setReg_keeps _ _ _ _).after
    | apply (State.onScb_keeps _ _).after
    | apply (State.each_keeps _ _ _ ?_).after
    | split
    | intro _)

theorem State.takeScbCfg_keeps (s : State) : Keeps s (s.takeScbCfg) := by
  unfold State.takeScbCfg
  try dsimp only
  with_reducible repeat' (first
    | simp only [keeps_other, keeps_sys]
    | apply Keeps.refl
    | apply (State.onScb_keeps _ _).after
    | split
    | intro _)

theorem State.latchSnap_keeps (s : State) : Keeps s (s.latchSnap) := by
  unfold State.latchSnap
  try dsimp only
  with_reducible repeat' (first
    | simp only [keeps_other, keeps_sys]
    | apply Keeps.refl
    | apply (State.onScb_keeps _ _).after
    | apply (State.closePeriod_keeps _).after
    | apply (State.takeScbCfg_keeps _).after
    | apply keeps_ite
    | split
    | intro _)

theorem State.scribeMarker_keeps (s : State) : Keeps s (s.scribeMarker) := by
  unfold State.scribeMarker
  try dsimp only
  with_reducible repeat' (first
    | apply Keeps.refl
    | apply (State.count_keeps _ _ _ _).after
    | apply (State.zeroCounts_keeps _).after
    | apply (State.latchSnap_keeps _).after
    | apply keeps_ite
    | split
    | intro _)

theorem State.writeSnap_keeps (s : State) (x : Snap) : Keeps s (s.writeSnap x) := by
  unfold State.writeSnap
  try dsimp only
  with_reducible repeat' (first
    | apply Keeps.refl
    | apply (State.bumpWrap_keeps _ _ _).after
    | apply (State.ringPush_keeps _ _ _).after
    | apply (State.each_keeps _ _ _ ?_).after
    | split
    | intro _)

theorem State.skipSnap_keeps (s : State) : Keeps s (s.skipSnap) := by
  unfold State.skipSnap
  try dsimp only
  with_reducible repeat' (first
    | simp only [keeps_other, keeps_sys]
    | apply Keeps.refl
    | apply (State.bumpSat_keeps _ _ _).after
    | apply (State.report_keeps _ _ _).after
    | apply (State.onScb_keeps _ _).after
    | apply keeps_ite
    | split
    | intro _)

theorem State.snapshot_keeps (s : State) : Keeps s (s.snapshot) := by
  unfold State.snapshot
  try dsimp only
  with_reducible repeat' (first
    | simp only [keeps_other, keeps_sys]
    | apply Keeps.refl
    | apply (State.onScb_keeps _ _).after
    | apply (State.writeSnap_keeps _ _).after
    | apply (State.skipSnap_keeps _).after
    | apply keeps_ite
    | split
    | intro _)

theorem State.scbClear_keeps (s : State) : Keeps s (s.scbClear) := by
  unfold State.scbClear
  try dsimp only
  with_reducible repeat' (first
    | simp only [keeps_other, keeps_sys]
    | apply Keeps.refl
    | apply (State.onScb_keeps _ _).after
    | split
    | intro _)

theorem State.scbCfg_keeps (s : State) (v : W32) : Keeps s (s.scbCfg v) := by
  unfold State.scbCfg
  try dsimp only
  with_reducible repeat' (first
    | simp only [keeps_other, keeps_sys]
    | apply Keeps.refl
    | apply (State.setReg_keeps _ _ _ _).after
    | apply (State.report_keeps _ _ _).after
    | apply (State.onScb_keeps _ _).after
    | apply (State.takeScbCfg_keeps _).after
    | apply keeps_ite
    | split
    | intro _)

theorem State.tagCfg_keeps (s : State) (v : W32) : Keeps s (s.tagCfg v) := by
  unfold State.tagCfg
  try dsimp only
  with_reducible repeat' (first
    | simp only [keeps_other, keeps_sys]
    | apply Keeps.refl
    | apply (State.setReg_keeps _ _ _ _).after
    | apply (State.report_keeps _ _ _).after
    | apply (State.onScb_keeps _ _).after
    | apply keeps_ite
    | split
    | intro _)

theorem State.tagDone_keeps (s : State) (x : Tag) (flags fetch exec retire mem stall : Nat) : Keeps s (s.tagDone x flags fetch exec retire mem stall) := by
  unfold State.tagDone
  try dsimp only
  with_reducible repeat' (first
    | simp only [keeps_other, keeps_sys]
    | apply Keeps.refl
    | apply (State.count_keeps _ _ _ _).after
    | apply (State.ringDeliver_keeps _ _ _).after
    | apply (State.fetch_keeps _ _ _ _).after
    | apply (State.onScb_keeps _ _).after
    | apply keeps_ite
    | refine keeps_of_snd (by assumption) ?_
    | split
    | intro _)

end Sys2Proof.Machine
end

