-- ==== Sys2Proof/Laws/KeepsLoader.lean ====
section
/-! SUPPORT. What each operation of Machine/Loader.lean keeps of the state. -/

namespace Sys2Proof.Machine

open Sys2Proof

theorem State.onJny_keeps (s : State) (f : Jny → Jny) : Keeps s (s.onJny f) := by
  unfold State.onJny
  try dsimp only
  with_reducible repeat' (first
    | simp only [keeps_other, keeps_sys]
    | apply Keeps.refl
    | split
    | intro _)

theorem State.jnyCode_keeps (s : State) (code : Nat) (sec unit : Nat) : Keeps s (s.jnyCode code sec unit) := by
  unfold State.jnyCode
  try dsimp only
  with_reducible repeat' (first
    | apply Keeps.refl
    | apply (State.setFld_keeps _ _ _ _).after
    | apply (State.report_keeps _ _ _).after
    | split
    | intro _)

theorem State.writeSelector_keeps (s : State) (b : Bool) : Keeps s (s.writeSelector b) := by
  unfold State.writeSelector
  try dsimp only
  with_reducible repeat' (first
    | simp only [keeps_other, keeps_sys]
    | apply Keeps.refl
    | apply (State.setFld_keeps _ _ _ _).after
    | apply (State.setBytes_keeps _ _ _).after
    | apply keeps_ite
    | split
    | intro _)

theorem State.loadSite_keeps (s : State) (m : Image) : Keeps s (s.loadSite m) := by
  unfold State.loadSite
  try dsimp only
  with_reducible repeat' (first
    | simp only [keeps_other, keeps_sys]
    | apply Keeps.refl
    | apply (State.setReg_keeps _ _ _ _).after
    | apply (State.setFld_keeps _ _ _ _).after
    | apply (State.setFlag_keeps _ _ _ _).after
    | apply (State.each_keeps _ _ _ ?_).after
    | split
    | intro _)

theorem State.loadAcq_keeps (s : State) (old m : Image) (all : Bool) : Keeps s (s.loadAcq old m all) := by
  unfold State.loadAcq
  try dsimp only
  with_reducible repeat' (first
    | apply Keeps.refl
    | apply (State.setReg_keeps _ _ _ _).after
    | apply (State.setFld_keeps _ _ _ _).after
    | apply (State.setFlag_keeps _ _ _ _).after
    | apply (State.completed_keeps _ _).after
    | apply keeps_ite
    | apply (State.each_keeps _ _ _ ?_).after
    | split
    | intro _)

theorem State.claimInputs_keeps (s : State) : Keeps s (s.claimInputs) := by
  unfold State.claimInputs
  try dsimp only
  with_reducible repeat' (first
    | apply Keeps.refl
    | apply (State.report_keeps _ _ _).after
    | apply (State.assayClaim_keeps _).after
    | apply keeps_ite
    | split
    | intro _)

theorem State.loadForgeRegs_keeps (s : State) (old m : Image) : Keeps s (s.loadForgeRegs old m) := by
  unfold State.loadForgeRegs
  try dsimp only
  with_reducible repeat' (first
    | simp only [keeps_other, keeps_sys]
    | apply Keeps.refl
    | apply (State.setReg_keeps _ _ _ _).after
    | apply (State.setFld_keeps _ _ _ _).after
    | apply (State.setFlag_keeps _ _ _ _).after
    | apply (State.onPhase_keeps _ _ _).after
    | apply (State.onBay_keeps _ _ _).after
    | apply (State.countBay_keeps _ _).after
    | apply keeps_ite
    | apply (State.each_keeps _ _ _ ?_).after
    | split
    | intro _)

theorem State.showMonitors_keeps (s : State) (m : Image) (e : Nat) : Keeps s (s.showMonitors m e) := by
  unfold State.showMonitors
  try dsimp only
  with_reducible repeat' (first
    | simp only [keeps_other, keeps_sys]
    | apply Keeps.refl
    | apply (State.setFld_keeps _ _ _ _).after
    | apply (State.each_keeps _ _ _ ?_).after
    | split
    | intro _)

theorem State.loadEngines_keeps (s : State) (old m : Image) : Keeps s (s.loadEngines old m) := by
  unfold State.loadEngines
  try dsimp only
  with_reducible repeat' (first
    | apply Keeps.refl
    | apply (State.setFld_keeps _ _ _ _).after
    | apply (State.completed_keeps _ _).after
    | apply (State.setStopped_keeps _ _ _).after
    | apply (State.freshEngine_keeps _ _ _).after
    | apply (State.showMonitors_keeps _ _ _).after
    | apply keeps_ite
    | apply (State.each_keeps _ _ _ ?_).after
    | split
    | intro _)

theorem State.loadAllEngines_keeps (s : State) (m : Image) : Keeps s (s.loadAllEngines m) := by
  unfold State.loadAllEngines
  try dsimp only
  with_reducible repeat' (first
    | apply Keeps.refl
    | apply (State.setFld_keeps _ _ _ _).after
    | apply (State.loadCode_keeps _ _ _ _).after
    | apply (State.freshEngine_keeps _ _ _).after
    | apply keeps_ite
    | apply (State.each_keeps _ _ _ ?_).after
    | split
    | intro _)

theorem State.loadPoints_keeps (s : State) (old m : Image) : Keeps s (s.loadPoints old m) := by
  unfold State.loadPoints
  try dsimp only
  with_reducible repeat' (first
    | simp only [keeps_other, keeps_sys]
    | apply Keeps.refl
    | split
    | intro _)

theorem State.renumberXps_keeps (s : State) (old m : Image) : Keeps s (s.renumberXps old m) := by
  unfold State.renumberXps
  try dsimp only
  with_reducible repeat' (first
    | simp only [keeps_other, keeps_sys]
    | apply Keeps.refl
    | apply (State.setReg_keeps _ _ _ _).after
    | apply (State.bind_keeps _ _ _ _).after
    | apply (State.onTrs_keeps _ _).after
    | apply keeps_ite
    | apply (State.each_keeps _ _ _ ?_).after
    | split
    | intro _)

theorem State.trussReload_keeps (s : State) : Keeps s (s.trussReload) := by
  unfold State.trussReload
  try dsimp only
  with_reducible repeat' (first
    | simp only [keeps_other, keeps_sys]
    | apply Keeps.refl
    | apply (State.setFld_keeps _ _ _ _).after
    | apply (State.onTrs_keeps _ _).after
    | apply (State.showWindow_keeps _).after
    | apply keeps_ite
    | split
    | intro _)

theorem State.portsOff_keeps (s : State) (m : Image) : Keeps s (s.portsOff m) := by
  unfold State.portsOff
  try dsimp only
  with_reducible repeat' (first
    | apply Keeps.refl
    | apply (State.setFld_keeps _ _ _ _).after
    | apply keeps_ite
    | apply (State.each_keeps _ _ _ ?_).after
    | split
    | intro _)

theorem State.activate_keeps (s : State) (m : Image) : Keeps s (s.activate m) := by
  unfold State.activate
  try dsimp only
  with_reducible repeat' (first
    | simp only [keeps_other, keeps_sys]
    | apply Keeps.refl
    | apply (State.setReg_keeps _ _ _ _).after
    | apply (State.setPair_keeps _ _ _ _ _).after
    | apply (State.netLoad_keeps _ _).after
    | apply (State.canLoad_keeps _ _).after
    | apply (State.canRings_keeps _).after
    | apply (State.fdlLoad_keeps _ _).after
    | apply (State.onJny_keeps _ _).after
    | apply (State.loadSite_keeps _ _).after
    | apply (State.portsOff_keeps _ _).after
    | split
    | intro _)

theorem State.commitTable_keeps (s : State) (m : Image) : Keeps s (s.commitTable m) := by
  unfold State.commitTable
  try dsimp only
  with_reducible repeat' (first
    | simp only [keeps_other, keeps_sys]
    | apply Keeps.refl
    | apply (State.bumpSat_keeps _ _ _).after
    | apply (State.onJny_keeps _ _).after
    | apply keeps_ite
    | split
    | intro _)

theorem State.loadStructure_keeps (s : State) (m : Image) : Keeps s (s.loadStructure m) := by
  unfold State.loadStructure
  try dsimp only
  with_reducible repeat' (first
    | simp only [keeps_other, keeps_sys]
    | apply Keeps.refl
    | apply (State.loadRings_keeps _ _ _).after
    | apply (State.cableStart_keeps _ _).after
    | apply (State.noCable_keeps _).after
    | apply (State.redeliver_keeps _).after
    | apply (State.mortiseCommit_keeps _ _).after
    | apply (State.showLoad_keeps _).after
    | apply (State.batCommit_keeps _ _).after
    | apply (State.loadAcq_keeps _ _ _ _).after
    | apply (State.claimInputs_keeps _).after
    | apply (State.loadForgeRegs_keeps _ _ _).after
    | apply (State.loadEngines_keeps _ _ _).after
    | apply (State.loadPoints_keeps _ _ _).after
    | apply (State.renumberXps_keeps _ _ _).after
    | apply (State.trussReload_keeps _).after
    | apply (State.activate_keeps _ _).after
    | apply keeps_ite
    | apply (State.each_keeps _ _ _ ?_).after
    | apply (State.when_keeps _ _ _ ?_).after
    | split
    | intro _)

theorem State.stage_keeps (s : State) : Keeps s (s.stage) := by
  unfold State.stage
  try dsimp only
  with_reducible repeat' (first
    | simp only [keeps_other, keeps_sys]
    | apply Keeps.refl
    | apply (State.setFld_keeps _ _ _ _).after
    | apply (State.onJny_keeps _ _).after
    | apply (State.jnyCode_keeps _ _ _ _).after
    | apply keeps_ite
    | split
    | intro _)

theorem State.cancel_keeps (s : State) : Keeps s (s.cancel) := by
  unfold State.cancel
  try dsimp only
  with_reducible repeat' (first
    | simp only [keeps_other, keeps_sys]
    | apply Keeps.refl
    | apply (State.setFld_keeps _ _ _ _).after
    | apply (State.onJny_keeps _ _).after
    | apply (State.jnyCode_keeps _ _ _ _).after
    | apply keeps_ite
    | split
    | intro _)

theorem State.raiseFloor_keeps (s : State) : Keeps s (s.raiseFloor) := by
  unfold State.raiseFloor
  try dsimp only
  with_reducible repeat' (first
    | apply Keeps.refl
    | apply (State.setLe_keeps _ _ _ _).after
    | apply (State.jnyCode_keeps _ _ _ _).after
    | apply keeps_ite
    | split
    | intro _)

theorem State.enterPending_keeps (s : State) (m : Image) : Keeps s (s.enterPending m) := by
  unfold State.enterPending
  try dsimp only
  with_reducible repeat' (first
    | simp only [keeps_other, keeps_sys]
    | apply Keeps.refl
    | apply (State.setFld_keeps _ _ _ _).after
    | apply (State.setBytes_keeps _ _ _).after
    | apply (State.loadCode_keeps _ _ _ _).after
    | apply (State.onJny_keeps _ _).after
    | apply (State.jnyCode_keeps _ _ _ _).after
    | apply keeps_ite
    | apply (State.each_keeps _ _ _ ?_).after
    | split
    | intro _)

theorem State.rejectImage_keeps (s : State) (e : JnyErr) : Keeps s (s.rejectImage e) := by
  unfold State.rejectImage
  try dsimp only
  with_reducible repeat' (first
    | simp only [keeps_other, keeps_sys]
    | apply Keeps.refl
    | apply (State.setFld_keeps _ _ _ _).after
    | apply (State.onJny_keeps _ _).after
    | apply (State.jnyCode_keeps _ _ _ _).after
    | split
    | intro _)

theorem State.imageCheckDone_keeps (s : State) : Keeps s (s.imageCheckDone) := by
  unfold State.imageCheckDone
  try dsimp only
  with_reducible repeat' (first
    | simp only [keeps_other, keeps_sys]
    | apply Keeps.refl
    | apply (State.enterPending_keeps _ _).after
    | apply (State.rejectImage_keeps _ _).after
    | apply keeps_ite
    | split
    | intro _)

theorem State.claimAll_keeps (s : State) : Keeps s (s.claimAll) := by
  unfold State.claimAll
  try dsimp only
  with_reducible repeat' (first
    | simp only [keeps_other, keeps_sys]
    | apply Keeps.refl
    | apply (State.onJny_keeps _ _).after
    | apply keeps_ite
    | split
    | intro _)

theorem State.jnyHeat_keeps (s : State) : Keeps s (s.jnyHeat) := by
  unfold State.jnyHeat
  try dsimp only
  with_reducible repeat' (first
    | simp only [keeps_other, keeps_sys]
    | apply Keeps.refl
    | apply (State.onJny_keeps _ _).after
    | apply (State.claimAll_keeps _).after
    | apply keeps_ite
    | split
    | intro _)

theorem State.commitTest_keeps (s : State) : Keeps s (s.commitTest) := by
  unfold State.commitTest
  try dsimp only
  with_reducible repeat' (first
    | simp only [keeps_other, keeps_sys]
    | apply Keeps.refl
    | apply (State.onJny_keeps _ _).after
    | split
    | intro _)

theorem State.busyTimeout_keeps (s : State) : Keeps s (s.busyTimeout) := by
  unfold State.busyTimeout
  try dsimp only
  with_reducible repeat' (first
    | simp only [keeps_other, keeps_sys]
    | apply Keeps.refl
    | apply (State.setFld_keeps _ _ _ _).after
    | apply (State.onJny_keeps _ _).after
    | apply (State.jnyCode_keeps _ _ _ _).after
    | apply keeps_ite
    | split
    | intro _)

theorem State.commitImage_keeps (s : State) : Keeps s (s.commitImage) := by
  unfold State.commitImage
  try dsimp only
  with_reducible repeat' (first
    | simp only [keeps_other, keeps_sys]
    | apply Keeps.refl
    | apply (State.setFld_keeps _ _ _ _).after
    | apply (State.onJny_keeps _ _).after
    | apply (State.jnyCode_keeps _ _ _ _).after
    | apply (State.writeSelector_keeps _ _).after
    | apply (State.commitTable_keeps _ _).after
    | apply (State.loadStructure_keeps _ _).after
    | split
    | intro _)

theorem State.commitIfDue_keeps (s : State) : Keeps s (s.commitIfDue) := by
  unfold State.commitIfDue
  try dsimp only
  with_reducible repeat' (first
    | apply Keeps.refl
    | apply (State.commitImage_keeps _).after
    | apply keeps_ite
    | split
    | intro _)

theorem State.copyFlash_keeps (s : State) (b : List Byte) : Keeps s (s.copyFlash b) := by
  unfold State.copyFlash
  try dsimp only
  with_reducible repeat' (first
    | apply Keeps.refl
    | apply (State.setBytes_keeps _ _ _).after
    | apply (State.writeSelector_keeps _ _).after
    | apply (State.commitTable_keeps _ _).after
    | split
    | intro _)

theorem State.selectStructure_keeps (s : State) : Keeps s ((s.selectStructure).1) := by
  unfold State.selectStructure
  try dsimp only
  with_reducible repeat' (first
    | simp only [keeps_other, keeps_sys]
    | apply Keeps.refl
    | apply (State.setFld_keeps _ _ _ _).after
    | apply (State.jnyCode_keeps _ _ _ _).after
    | apply (State.copyFlash_keeps _ _).after
    | split
    | intro _)

theorem State.bootStructure_keeps (s : State) : Keeps s (s.bootStructure) := by
  unfold State.bootStructure
  try dsimp only
  with_reducible repeat' (first
    | apply Keeps.refl
    | apply (State.loadRings_keeps _ _ _).after
    | apply (State.trussStart_keeps _).after
    | apply (State.cableStart_keeps _ _).after
    | apply (State.noCable_keeps _).after
    | apply (State.loadAcq_keeps _ _ _ _).after
    | apply (State.claimInputs_keeps _).after
    | apply (State.loadForgeRegs_keeps _ _ _).after
    | apply (State.loadAllEngines_keeps _ _).after
    | apply (State.activate_keeps _ _).after
    | apply (State.selectStructure_keeps _).after
    | apply (State.each_keeps _ _ _ ?_).after
    | split
    | intro _)

end Sys2Proof.Machine
end

