-- ==== Sys2Proof/Laws/KeepsPower.lean ====
section
/-! SUPPORT. What each operation of Machine/Power.lean keeps of the state. -/

namespace Sys2Proof.Machine

open Sys2Proof

theorem State.onPwr_keeps (s : State) (f : Pwr → Pwr) : Keeps s (s.onPwr f) := by
  unfold State.onPwr
  try dsimp only
  with_reducible repeat' (first
    | simp only [keeps_other, keeps_sys]
    | apply Keeps.refl
    | split
    | intro _)

theorem State.systemReset_keeps (s : State) : Keeps s (s.systemReset) := by
  unfold State.systemReset
  try dsimp only
  with_reducible repeat' (first
    | simp only [keeps_other, keeps_sys]
    | apply Keeps.refl
    | split
    | intro _)

theorem State.blocksReset_keeps (s : State) : Keeps s (s.blocksReset) := by
  unfold State.blocksReset
  try dsimp only
  with_reducible repeat' (first
    | simp only [keeps_other, keeps_sys]
    | apply Keeps.refl
    | split
    | intro _)

theorem State.emberReset_keeps (s : State) : Keeps s (s.emberReset) := by
  unfold State.emberReset
  try dsimp only
  with_reducible repeat' (first
    | simp only [keeps_other, keeps_sys]
    | apply Keeps.refl
    | apply (State.dropRegs_keeps _ _).after
    | split
    | intro _)

theorem State.dropVolatile_keeps (s : State) : Keeps s (s.dropVolatile) := by
  unfold State.dropVolatile
  try dsimp only
  with_reducible repeat' (first
    | apply Keeps.refl
    | apply (State.emptySlot_keeps _ _).after
    | apply (State.each_keeps _ _ _ ?_).after
    | split
    | intro _)

theorem State.deviceReset_keeps (s : State) (spare restart : Bool) : Keeps s (s.deviceReset spare restart) := by
  unfold State.deviceReset
  try dsimp only
  with_reducible repeat' (first
    | simp only [keeps_other, keeps_sys]
    | apply Keeps.refl
    | apply (State.dropRegs_keeps _ _).after
    | apply (State.redeliver_keeps _).after
    | apply (State.assayReset_keeps _ _).after
    | apply (State.onPwr_keeps _ _).after
    | apply (State.systemReset_keeps _).after
    | apply (State.blocksReset_keeps _).after
    | apply (State.emberReset_keeps _).after
    | apply (State.dropVolatile_keeps _).after
    | apply keeps_ite
    | split
    | intro _)

theorem State.assertReset_keeps (s : State) (src : Nat) (spare restart : Bool) : Keeps s (s.assertReset src spare restart) := by
  unfold State.assertReset
  try dsimp only
  with_reducible repeat' (first
    | simp only [keeps_other, keeps_sys]
    | apply Keeps.refl
    | apply (State.setFld_keeps _ _ _ _).after
    | apply (State.bumpSat_keeps _ _ _).after
    | apply (State.assayReset_keeps _ _).after
    | apply (State.onPwr_keeps _ _).after
    | apply (State.deviceReset_keeps _ _ _).after
    | apply keeps_ite
    | split
    | intro _)

theorem State.powerLost_keeps (s : State) : Keeps s s.powerLost := by
  unfold State.powerLost
  dsimp only
  refine ⟨⟨rfl, id, ?_, List.prefix_refl _, List.prefix_refl _, Nat.le_refl _, rfl, rfl⟩, rfl⟩
  exact Memory.wf_filter s.mem _

theorem State.readRail_keeps (s : State) (rail mv : Nat) : Keeps s (s.readRail rail mv) := by
  unfold State.readRail
  try dsimp only
  with_reducible repeat' (first
    | apply Keeps.refl
    | apply (State.setFld_keeps _ _ _ _).after
    | split
    | intro _)

theorem State.supplyWarn_keeps (s : State) (rail mv : Nat) : Keeps s (s.supplyWarn rail mv) := by
  unfold State.supplyWarn
  try dsimp only
  with_reducible repeat' (first
    | apply Keeps.refl
    | apply (State.setFld_keeps _ _ _ _).after
    | apply (State.report_keeps _ _ _).after
    | apply (State.readRail_keeps _ _ _).after
    | apply keeps_ite
    | split
    | intro _)

theorem State.supplyWarnEnd_keeps (s : State) (rail mv : Nat) : Keeps s (s.supplyWarnEnd rail mv) := by
  unfold State.supplyWarnEnd
  try dsimp only
  with_reducible repeat' (first
    | simp only [keeps_other, keeps_sys]
    | apply Keeps.refl
    | apply (State.setFld_keeps _ _ _ _).after
    | apply (State.onPwr_keeps _ _).after
    | apply (State.readRail_keeps _ _ _).after
    | apply keeps_ite
    | split
    | intro _)

theorem State.holdUp_keeps (s : State) (since : Nat) : Keeps s (s.holdUp since) := by
  unfold State.holdUp
  try dsimp only
  with_reducible repeat' (first
    | apply Keeps.refl
    | apply (State.setFld_keeps _ _ _ _).after
    | apply (State.setFlag_keeps _ _ _ _).after
    | apply keeps_ite
    | split
    | intro _)

theorem State.supplyReset_keeps (s : State) (rail mv since : Nat) : Keeps s (s.supplyReset rail mv since) := by
  unfold State.supplyReset
  try dsimp only
  with_reducible repeat' (first
    | apply Keeps.refl
    | apply (State.setFld_keeps _ _ _ _).after
    | apply (State.report_keeps _ _ _).after
    | apply (State.assertReset_keeps _ _ _ _).after
    | apply (State.readRail_keeps _ _ _).after
    | apply (State.holdUp_keeps _ _).after
    | apply keeps_ite
    | split
    | intro _)

theorem State.coldStart_keeps (s : State) (unitB : Bool) : Keeps (s.atStroke 0) (s.coldStart unitB) := by
  have h : Keeps s (((s.deviceReset false false).emberReset.dropRegs [.coldStart]).powerLost) :=
    (((s.deviceReset_keeps false false).trans (State.emberReset_keeps _)).trans (State.dropRegs_keeps _ _)).trans (State.powerLost_keeps _)
  unfold State.coldStart
  dsimp only
  generalize ((s.deviceReset false false).emberReset.dropRegs [.coldStart]).powerLost = u at h ⊢
  apply (State.onPeg_keeps _ _).after
  exact ⟨⟨h.pending, h.regs, h.mem, h.reports, h.sent, h.free, h.part, h.fitted⟩, rfl⟩

theorem State.corePowerUp_keeps (s : State) (elapsed : Nat) : Keeps (s.atStroke (if s.sys.booted then s.sys.stroke
    else s.sys.stroke + BitVec.ofNat 48 ((elapsed + s.period - 1) / s.period))) (s.corePowerUp elapsed) := by
  unfold State.corePowerUp
  by_cases b : s.sys.booted = true
  · rw [if_pos b, if_pos b]
    exact Keeps.refl s
  · rw [if_neg b, if_neg b]
    dsimp only
    with_reducible repeat' (first
      | apply Keeps.refl
      | apply (State.onPwr_keeps _ _).after
      | simp only [keeps_other]
      | apply (State.powerLost_keeps _).after
      | apply (State.assertReset_keeps _ _ _ _).after)
    exact Keeps.refl _

theorem State.emberIdle_keeps (s : State) : Keeps s (s.emberIdle) := by
  unfold State.emberIdle
  try dsimp only
  with_reducible repeat' (first
    | simp only [keeps_other, keeps_sys]
    | apply Keeps.refl
    | apply (State.setReg_keeps _ _ _ _).after
    | apply (State.wakeUp_keeps _ _).after
    | apply (State.onPwr_keeps _ _).after
    | apply (State.deviceReset_keeps _ _ _).after
    | apply keeps_ite
    | split
    | intro _)

theorem State.pfwFall_keeps (s : State) : Keeps s (s.pfwFall) := by
  unfold State.pfwFall
  try dsimp only
  with_reducible repeat' (first
    | simp only [keeps_other, keeps_sys]
    | apply Keeps.refl
    | apply (State.setReg_keeps _ _ _ _).after
    | apply (State.setFld_keeps _ _ _ _).after
    | apply (State.report_keeps _ _ _).after
    | apply (State.tick_keeps _).after
    | apply (State.pegRelease_keeps _ _).after
    | apply (State.onPwr_keeps _ _).after
    | apply keeps_ite
    | split
    | intro _)

theorem State.hostSaved_keeps (s : State) : Keeps s (s.hostSaved) := by
  unfold State.hostSaved
  try dsimp only
  with_reducible repeat' (first
    | simp only [keeps_other, keeps_sys]
    | apply Keeps.refl
    | apply (State.onPwr_keeps _ _).after
    | apply keeps_ite
    | split
    | intro _)

theorem State.powerFailReset_keeps (s : State) (pfwHigh railsGood : Bool) : Keeps s (s.powerFailReset pfwHigh railsGood) := by
  unfold State.powerFailReset
  try dsimp only
  with_reducible repeat' (first
    | apply Keeps.refl
    | apply (State.setFlag_keeps _ _ _ _).after
    | apply (State.report_keeps _ _ _).after
    | apply (State.assertReset_keeps _ _ _ _).after
    | apply keeps_ite
    | split
    | intro _)

theorem State.softReset_keeps (s : State) : Keeps s (s.softReset) := by
  unfold State.softReset
  try dsimp only
  with_reducible repeat' (first
    | apply Keeps.refl
    | apply (State.assertReset_keeps _ _ _ _).after
    | apply keeps_ite
    | split
    | intro _)

theorem State.fixedSlots_keeps (s : State) : Keeps s (s.fixedSlots) := by
  unfold State.fixedSlots
  try dsimp only
  with_reducible repeat' (first
    | apply Keeps.refl
    | apply (State.setReg_keeps _ _ _ _).after
    | apply (State.setFld_keeps _ _ _ _).after
    | apply (State.onSlot_keeps _ _ _).after
    | apply keeps_ite
    | apply (State.each_keeps _ _ _ ?_).after
    | split
    | intro _)

theorem State.cofferStart_keeps (s : State) (root : Nat) (corrupt : List Nat) : Keeps s (s.cofferStart root corrupt) := by
  unfold State.cofferStart
  try dsimp only
  with_reducible repeat' (first
    | apply Keeps.refl
    | apply (State.setFld_keeps _ _ _ _).after
    | apply (State.report_keeps _ _ _).after
    | apply (State.showPubKeys_keeps _).after
    | apply (State.newNonce_keeps _).after
    | apply (State.endDebug_keeps _).after
    | apply (State.eraseKeys_keeps _).after
    | apply (State.failIsland_keeps _ _).after
    | apply (State.fixedSlots_keeps _).after
    | apply keeps_ite
    | apply (State.each_keeps _ _ _ ?_).after
    | split
    | intro _)

theorem State.reportRestart_keeps (s : State) : Keeps s (s.reportRestart) := by
  unfold State.reportRestart
  try dsimp only
  with_reducible repeat' (first
    | apply Keeps.refl
    | apply (State.report_keeps _ _ _).after
    | apply keeps_ite
    | split
    | intro _)

theorem State.release_keeps (s : State) (root : Nat) (corrupt : List Nat) (selfTest : Bool) : Keeps s (s.release root corrupt selfTest) := by
  unfold State.release
  try dsimp only
  with_reducible repeat' (first
    | simp only [keeps_other, keeps_sys]
    | apply Keeps.refl
    | apply (State.setReg_keeps _ _ _ _).after
    | apply (State.setFlag_keeps _ _ _ _).after
    | apply (State.mortiseFault_keeps _).after
    | apply (State.mortiseStart_keeps _).after
    | apply (State.onFdl_keeps _ _).after
    | apply (State.embBoot_keeps _ _).after
    | apply (State.bootStructure_keeps _).after
    | apply (State.onPwr_keeps _ _).after
    | apply (State.cofferStart_keeps _ _ _).after
    | apply (State.reportRestart_keeps _).after
    | apply keeps_ite
    | split
    | intro _)

end Sys2Proof.Machine
end

