-- ==== Sys2Proof/Laws/KeepsStroke.lean ====
section
/-! SUPPORT. What each operation of Machine/Stroke.lean keeps of the state. -/

namespace Sys2Proof.Machine

open Sys2Proof

theorem State.onSys_keeps (s : State) (f : Sys → Sys) (h : (f s.sys).variant = s.sys.variant) (k : (f s.sys).lpddrSize = s.sys.lpddrSize)
    (c : (f s.sys).stroke = s.sys.stroke) : Keeps s (s.onSys f) :=
  ⟨⟨rfl, id, id, List.prefix_refl _, List.prefix_refl _, Nat.le_refl _, h, k⟩, c⟩

theorem State.showWarned_keeps (s : State) (k : Nat) : Keeps s (s.showWarned k) := by
  unfold State.showWarned
  try dsimp only
  with_reducible repeat' (first
    | apply Keeps.refl
    | apply (State.setFld_keeps _ _ _ _).after
    | split
    | intro _)

theorem State.regionWarn_keeps (s : State) (island peer : Nat) (q : Quantity) (v : Nat) : Keeps s (s.regionWarn island peer q v) := by
  unfold State.regionWarn
  try dsimp only
  with_reducible repeat' (first
    | simp only [keeps_other, keeps_sys]
    | apply Keeps.refl
    | apply (State.report_keeps _ _ _).after
    | apply (State.count_keeps _ _ _ _).after
    | apply (State.onSys_keeps _ _ rfl rfl rfl).after
    | apply (State.showWarned_keeps _ _).after
    | apply keeps_ite
    | split
    | intro _)

theorem State.regionWarnEnd_keeps (s : State) (island peer : Nat) (q : Quantity) (v : Nat) : Keeps s (s.regionWarnEnd island peer q v) := by
  unfold State.regionWarnEnd
  try dsimp only
  with_reducible repeat' (first
    | simp only [keeps_other, keeps_sys]
    | apply Keeps.refl
    | apply (State.onSys_keeps _ _ rfl rfl rfl).after
    | apply (State.showWarned_keeps _ _).after
    | apply keeps_ite
    | split
    | intro _)

theorem State.regionFault_keeps (s : State) (island peer : Nat) (q : Quantity) : Keeps s (s.regionFault island peer q) := by
  unfold State.regionFault
  try dsimp only
  with_reducible repeat' (first
    | apply Keeps.refl
    | apply (State.setFld_keeps _ _ _ _).after
    | apply (State.report_keeps _ _ _).after
    | apply (State.failIsland_keeps _ _).after
    | apply keeps_ite
    | split
    | intro _)

theorem State.regionMismatch_keeps (s : State) (a b : Nat) (m : Measured) : Keeps s (s.regionMismatch a b m) := by
  unfold State.regionMismatch
  try dsimp only
  with_reducible repeat' (first
    | simp only [keeps_other, keeps_sys]
    | apply Keeps.refl
    | apply (State.regionFault_keeps _ _ _ _).after
    | apply keeps_ite
    | split
    | intro _)

theorem State.skewOf_keeps (s : State) (k v : Nat) : Keeps s (s.skewOf k v) := by
  unfold State.skewOf
  try dsimp only
  with_reducible repeat' (first
    | simp only [keeps_other, keeps_sys]
    | apply Keeps.refl
    | apply (State.onSys_keeps _ _ rfl rfl rfl).after
    | apply (State.regionWarn_keeps _ _ _ _ _).after
    | apply (State.regionWarnEnd_keeps _ _ _ _ _).after
    | apply (State.regionFault_keeps _ _ _ _).after
    | apply keeps_ite
    | split
    | intro _)

theorem State.skewWatch_keeps (s : State) (echo : List Nat) : Keeps s (s.skewWatch echo) := by
  unfold State.skewWatch
  try dsimp only
  with_reducible repeat' (first
    | apply Keeps.refl
    | apply (State.skewOf_keeps _ _ _).after
    | apply (State.each_keeps _ _ _ ?_).after
    | split
    | intro _)

theorem State.countStroke_keeps (s : State) (echo : List Nat) : Keeps (s.atStroke (s.sys.stroke + 1)) (s.countStroke echo) := by
  have h : Keeps (s.atStroke (s.sys.stroke + 1)) (s.onSys fun y => { y with stroke := y.stroke + 1 }) := Keeps.refl _
  unfold State.countStroke
  dsimp only
  with_reducible repeat' (first
    | exact h
    | apply (State.setFld_keeps _ _ _ _).after
    | apply keeps_ite
    | apply (State.onSys_keeps _ _ rfl rfl rfl).after)

theorem State.acqDeadlines_keeps (s : State) : Keeps s (s.acqDeadlines) := by
  unfold State.acqDeadlines
  try dsimp only
  with_reducible repeat' (first
    | apply Keeps.refl
    | apply (State.runLate_keeps _ _).after
    | apply (State.seqStop_keeps _ _).after
    | apply keeps_ite
    | apply (State.each_keeps _ _ _ ?_).after
    | split
    | intro _)

theorem State.islandActions_keeps (s : State) : Keeps s (s.islandActions) := by
  unfold State.islandActions
  try dsimp only
  with_reducible repeat' (first
    | simp only [keeps_other, keeps_sys]
    | apply Keeps.refl
    | apply (State.setFld_keeps _ _ _ _).after
    | apply (State.faultBay_keeps _ _ _).after
    | apply (State.onSys_keeps _ _ rfl rfl rfl).after
    | apply keeps_ite
    | apply (State.each_keeps _ _ _ ?_).after
    | apply (keeps_foldl_fst _ _ ?_ _).after
    | apply (keeps_foldl_snd _ _ ?_ _).after
    | apply (keeps_foldl _ _ ?_ _).after
    | split
    | intro _)

theorem State.strokeFaults_keeps (s : State) : Keeps s (s.strokeFaults) := by
  unfold State.strokeFaults
  try dsimp only
  with_reducible repeat' (first
    | apply Keeps.refl
    | apply (State.forgeFaults_keeps _).after
    | apply (State.calfinEnd_keeps _).after
    | apply (State.acqDeadlines_keeps _).after
    | apply (State.islandActions_keeps _).after
    | apply keeps_ite
    | split
    | intro _)

theorem State.restartWork_keeps (s : State) (w : Work) : Keeps s (s.restartWork w) := by
  unfold State.restartWork
  try dsimp only
  with_reducible repeat' (first
    | simp only [keeps_other, keeps_sys]
    | apply Keeps.refl
    | apply (State.completed_keeps _ _).after
    | apply (State.onSys_keeps _ _ rfl rfl rfl).after
    | apply keeps_ite
    | split
    | intro _)

theorem State.publishInputs_keeps (s : State) (noise : List Nat) : Keeps s (s.publishInputs noise) := by
  unfold State.publishInputs
  try dsimp only
  with_reducible repeat' (first
    | apply Keeps.refl
    | apply (State.limitPublish_keeps _).after
    | apply (State.assayHeat_keeps _).after
    | apply (State.fdlHeat_keeps _ _).after
    | apply (State.embHeat_keeps _).after
    | apply (State.restartWork_keeps _ _).after
    | apply keeps_ite
    | split
    | intro _)

theorem State.heatCommit_keeps (s : State) (noise : List Nat) : Keeps s (s.heatCommit noise) := by
  unfold State.heatCommit
  try dsimp only
  with_reducible repeat' (first
    | apply Keeps.refl
    | apply (State.cofferHeat_keeps _).after
    | apply (State.trussCommit_keeps _).after
    | apply (State.pegHeat_keeps _).after
    | apply (State.jnyHeat_keeps _).after
    | apply (State.commitIfDue_keeps _).after
    | apply (State.publishInputs_keeps _ _).after
    | split
    | intro _)

theorem State.strokeUpdate_keeps (s : State) : Keeps s (s.strokeUpdate) := by
  unfold State.strokeUpdate
  try dsimp only
  with_reducible repeat' (first
    | apply Keeps.refl
    | apply (State.setFld_keeps _ _ _ _).after
    | apply (State.forgeMarker_keeps _).after
    | apply (State.acqMarker_keeps _).after
    | apply (State.calfinStart_keeps _).after
    | apply (State.restartWork_keeps _ _).after
    | apply keeps_ite
    | split
    | intro _)

theorem State.strokeCounts_keeps (s : State) (ptp : Nat) : Keeps s (s.strokeCounts ptp) := by
  unfold State.strokeCounts
  try dsimp only
  with_reducible repeat' (first
    | apply Keeps.refl
    | apply (State.trussStroke_keeps _).after
    | apply (State.bellowsStroke_keeps _).after
    | apply (State.netMarker_keeps _ _).after
    | apply (State.attachStroke_keeps _).after
    | apply (State.canMarker_keeps _).after
    | apply keeps_ite
    | split
    | intro _)

theorem State.heatFlags_keeps (s : State) : Keeps s (s.heatFlags) := by
  unfold State.heatFlags
  try dsimp only
  with_reducible repeat' (first
    | simp only [keeps_other, keeps_sys]
    | apply Keeps.refl
    | apply (State.onEng_keeps _ _ _).after
    | apply (State.netHeat_keeps _).after
    | apply (State.canHeat_keeps _).after
    | apply (State.scribeHeat_keeps _).after
    | apply (State.each_keeps _ _ _ ?_).after
    | split
    | intro _)

theorem State.heatWork_keeps (s : State) : Keeps s (s.heatWork) := by
  unfold State.heatWork
  try dsimp only
  with_reducible repeat' (first
    | apply Keeps.refl
    | apply (State.trussTail_keeps _).after
    | apply (State.bellowsHeat_keeps _).after
    | apply (State.pxSend_keeps _).after
    | apply (State.staleSweep_keeps _).after
    | apply (State.heatFlags_keeps _).after
    | apply keeps_ite
    | split
    | intro _)

theorem State.marker_keeps (s : State) (x : MarkerInput) : Keeps (s.atStroke (s.sys.stroke + 1)) (s.marker x) := by
  have h := s.countStroke_keeps x.echo
  unfold State.marker
  dsimp only
  with_reducible repeat' (first
    | exact h
    | apply (State.skewWatch_keeps _ _).after
    | apply (State.pegMarker_keeps _ _).after
    | apply (State.scribeMarker_keeps _).after
    | apply (State.commitTest_keeps _).after
    | apply (State.strokeFaults_keeps _).after
    | apply (State.heatCommit_keeps _ _).after
    | apply (State.strokeUpdate_keeps _).after
    | apply (State.strokeCounts_keeps _ _).after
    | apply (State.heatWork_keeps _).after
    | apply keeps_ite)

theorem State.workLate_keeps (s : State) (w : Work) (bit : Fld) (code k : Nat) : Keeps s (s.workLate w bit code k) := by
  unfold State.workLate
  try dsimp only
  with_reducible repeat' (first
    | simp only [keeps_other, keeps_sys]
    | apply Keeps.refl
    | apply (State.report_keeps _ _ _).after
    | apply (State.count_keeps _ _ _ _).after
    | apply (State.countOverrun_keeps _ _ _).after
    | apply (State.onSys_keeps _ _ rfl rfl rfl).after
    | apply keeps_ite
    | split
    | intro _)

theorem State.debugHalt_keeps (s : State) (core : Nat) : Keeps s (s.debugHalt core) := by
  unfold State.debugHalt
  try dsimp only
  with_reducible repeat' (first
    | simp only [keeps_other, keeps_sys]
    | apply Keeps.refl
    | apply (State.setFld_keeps _ _ _ _).after
    | apply (State.report_keeps _ _ _).after
    | apply (State.onSys_keeps _ _ rfl rfl rfl).after
    | apply keeps_ite
    | split
    | intro _)

theorem State.overrun_keeps (s : State) (w : Work) : Keeps s (s.overrun w) := by
  cases w <;> dsimp only [State.overrun] <;> with_reducible repeat' (first
    | apply Keeps.refl
    | apply (State.runLate_keeps _ _).after
    | apply (State.engineLate_keeps _ _).after
    | apply (State.workLate_keeps _ _ _ _ _).after
    | apply (State.forgeKeep_keeps _).after
    | apply (State.setFld_keeps _ _ _ _).after
    | apply (State.trussOverrun_keeps _).after
    | apply (State.bellowsOverrun_keeps _).after
    | apply (State.batOverrun_keeps _).after
    | apply (State.mortiseFault_keeps _).after
    | apply (State.count_keeps _ _ _ _).after
    | apply (State.report_keeps _ _ _).after
    | apply (State.countOverrun_keeps _ _ _).after
    | apply keeps_ite
    | split)

theorem State.faultAction_keeps (s : State) (w : Work) : Keeps s (s.faultAction w) := by
  cases w <;> dsimp only [State.faultAction] <;> with_reducible repeat' (first
    | apply Keeps.refl
    | apply (State.seqStop_keeps _ _).after
    | apply (State.engineLimit_keeps _ _).after
    | apply (State.forgeLimit_keeps _).after
    | apply (State.safeHold_keeps _).after
    | apply (State.bellowsLimit_keeps _).after
    | apply (State.batStop_keeps _).after
    | apply (State.mortiseFault_keeps _).after
    | apply (State.assayLimit_keeps _).after
    | apply keeps_ite
    | split)

end Sys2Proof.Machine
end

