-- ==== Sys2Proof/Laws/KeepsFabric.lean ====
section
/-! SUPPORT. What each operation of Machine/Fabric.lean keeps of the state. -/

namespace Sys2Proof.Machine

open Sys2Proof

theorem State.memoryRead_keeps (s : State) (w : Initiator) (r : Region) (a n : Nat) (ecc : Ecc) : Keeps s (s.memoryRead w r a n ecc) := by
  unfold State.memoryRead
  try dsimp only
  with_reducible repeat' (first
    | simp only [keeps_other, keeps_sys]
    | apply Keeps.refl
    | apply (State.report_keeps _ _ _).after
    | apply (State.count_keeps _ _ _ _).after
    | apply (State.busError_keeps _ _ _ _ _).after
    | apply keeps_ite
    | apply (State.when_keeps _ _ _ ?_).after
    | split
    | intro _)

theorem State.memoryWrite_keeps (s : State) (a : Nat) (b : List Byte) : Keeps s (s.memoryWrite a b) := by
  unfold State.memoryWrite
  try dsimp only
  with_reducible repeat' (first
    | simp only [keeps_other, keeps_sys]
    | apply Keeps.refl
    | apply (State.setBytes_keeps _ _ _).after
    | split
    | intro _)

theorem State.afterRead_keeps (s : State) (r : Reg) (i : Nat) : Keeps s (s.afterRead r i) := by
  unfold State.afterRead
  try dsimp only
  with_reducible repeat' (first
    | apply Keeps.refl
    | apply (State.setReg_keeps _ _ _ _).after
    | apply keeps_ite
    | split
    | intro _)

theorem State.answer_keeps (s : State) (v : W32) : Keeps s (s.answer v) := by
  unfold State.answer
  try dsimp only
  with_reducible repeat' (first
    | simp only [keeps_other, keeps_sys]
    | apply Keeps.refl
    | split
    | intro _)

theorem State.readLo_keeps (s : State) (w : Initiator) (lo hi : Reg) (i : Nat) : Keeps s (s.readLo w lo hi i) := by
  unfold State.readLo
  try dsimp only
  with_reducible repeat' (first
    | apply Keeps.refl
    | apply (State.setShadow_keeps _ _ _ _ _).after
    | apply (State.afterRead_keeps _ _ _).after
    | apply (State.answer_keeps _ _).after
    | split
    | intro _)

theorem State.readHi_keeps (s : State) (w : Initiator) (hi : Reg) (i : Nat) : Keeps s (s.readHi w hi i) := by
  unfold State.readHi
  try dsimp only
  with_reducible repeat' (first
    | simp only [keeps_other, keeps_sys]
    | apply Keeps.refl
    | apply (State.onSys_keeps _ _ rfl rfl rfl).after
    | apply (State.afterRead_keeps _ _ _).after
    | apply (State.answer_keeps _ _).after
    | split
    | intro _)

theorem State.readReg_keeps (s : State) (w : Initiator) (r : Reg) (i : Nat) : Keeps s (s.readReg w r i) := by
  unfold State.readReg
  try dsimp only
  with_reducible repeat' (first
    | simp only [keeps_other, keeps_sys]
    | apply Keeps.refl
    | apply (State.resultRead_keeps _ _ _ _ _).after
    | apply (State.afterRead_keeps _ _ _).after
    | apply (State.answer_keeps _ _).after
    | apply (State.readLo_keeps _ _ _ _ _).after
    | apply (State.readHi_keeps _ _ _ _).after
    | apply keeps_ite
    | split
    | intro _)

theorem State.readWord_keeps (s : State) (w : Initiator) (win off : Nat) : Keeps s (s.readWord w win off) := by
  unfold State.readWord
  try dsimp only
  with_reducible repeat' (first
    | simp only [keeps_other, keeps_sys]
    | apply Keeps.refl
    | apply (State.objectRead_keeps _ _ _ _ _ _).after
    | apply (State.answer_keeps _ _).after
    | apply (State.readReg_keeps _ _ _ _).after
    | split
    | intro _)

theorem State.readTwo_keeps (s : State) (w : Initiator) (win off : Nat) : Keeps s (s.readTwo w win off) := by
  unfold State.readTwo
  try dsimp only
  with_reducible repeat' (first
    | simp only [keeps_other, keeps_sys]
    | apply Keeps.refl
    | apply (State.readWord_keeps _ _ _ _).after
    | split
    | intro _)

theorem State.readDouble_keeps (s : State) (w : Initiator) (win off : Nat) : Keeps s (s.readDouble w win off) := by
  unfold State.readDouble
  try dsimp only
  with_reducible repeat' (first
    | simp only [keeps_other, keeps_sys]
    | apply Keeps.refl
    | apply (State.resultRead_keeps _ _ _ _ _).after
    | apply (State.objectRead_keeps _ _ _ _ _ _).after
    | apply (State.afterRead_keeps _ _ _).after
    | apply (State.readTwo_keeps _ _ _ _).after
    | apply keeps_ite
    | split
    | intro _)

theorem State.plainWrite_keeps (s : State) (r : Reg) (i : Nat) (v : W32) : Keeps s (s.plainWrite r i v) := by
  unfold State.plainWrite
  try dsimp only
  with_reducible repeat' (first
    | apply Keeps.refl
    | apply (State.setReg_keeps _ _ _ _).after
    | split
    | intro _)

theorem State.canCtlWrite_keeps (s : State) (n : Nat) (v : W32) (busy : Bool) : Keeps s (s.canCtlWrite n v busy) := by
  unfold State.canCtlWrite
  try dsimp only
  with_reducible repeat' (first
    | apply Keeps.refl
    | apply (State.setFlag_keeps _ _ _ _).after
    | apply (State.canDisable_keeps _ _ _ _).after
    | apply (State.canRecover_keeps _ _).after
    | apply keeps_ite
    | apply (State.when_keeps _ _ _ ?_).after
    | split
    | intro _)

theorem State.trsCtlWrite_keeps (s : State) (v : W32) : Keeps s (s.trsCtlWrite v) := by
  unfold State.trsCtlWrite
  try dsimp only
  with_reducible repeat' (first
    | apply Keeps.refl
    | apply (State.setFlag_keeps _ _ _ _).after
    | apply (State.invalidate_keeps _ _ _).after
    | apply (State.trussRestart_keeps _).after
    | apply (State.when_keeps _ _ _ ?_).after
    | split
    | intro _)

theorem State.pwrCtlWrite_keeps (s : State) (v : W32) : Keeps s (s.pwrCtlWrite v) := by
  unfold State.pwrCtlWrite
  try dsimp only
  with_reducible repeat' (first
    | apply Keeps.refl
    | apply (State.setFlag_keeps _ _ _ _).after
    | apply (State.hostSaved_keeps _).after
    | apply (State.softReset_keeps _).after
    | apply (State.when_keeps _ _ _ ?_).after
    | split
    | intro _)

theorem State.pegCmdWrite_keeps (s : State) (v : W32) : Keeps s (s.pegCmdWrite v) := by
  unfold State.pegCmdWrite
  try dsimp only
  with_reducible repeat' (first
    | simp only [keeps_other, keeps_sys]
    | apply Keeps.refl
    | apply (State.onPeg_keeps _ _).after
    | apply (State.handover_keeps _).after
    | apply (State.when_keeps _ _ _ ?_).after
    | split
    | intro _)

theorem State.jnyCmdWrite_keeps (s : State) (v : W32) : Keeps s (s.jnyCmdWrite v) := by
  unfold State.jnyCmdWrite
  try dsimp only
  with_reducible repeat' (first
    | simp only [keeps_other, keeps_sys]
    | apply Keeps.refl
    | apply (State.stage_keeps _).after
    | apply (State.cancel_keeps _).after
    | apply (State.raiseFloor_keeps _).after
    | split
    | intro _)

theorem State.phTempWrite_keeps (s : State) (p : Nat) (v : W32) : Keeps s (s.phTempWrite p v) := by
  unfold State.phTempWrite
  try dsimp only
  with_reducible repeat' (first
    | simp only [keeps_other, keeps_sys]
    | apply Keeps.refl
    | apply (State.onPhase_keeps _ _ _).after
    | apply (State.plainWrite_keeps _ _ _ _).after
    | split
    | intro _)

theorem State.busErrWrite_keeps (s : State) (v : W32) : Keeps s (s.busErrWrite v) := by
  unfold State.busErrWrite
  try dsimp only
  with_reducible repeat' (first
    | apply Keeps.refl
    | apply (State.setFld_keeps _ _ _ _).after
    | apply keeps_ite
    | split
    | intro _)

theorem State.writeReg_keeps (s : State) (w : Initiator) (r : Reg) (i : Nat) (v : W32) (ofs : Nat) (busy : Bool) : Keeps s (s.writeReg w r i v ofs busy) := by
  unfold State.writeReg
  try dsimp only
  with_reducible repeat' (first
    | simp only [keeps_other, keeps_sys]
    | apply Keeps.refl
    | apply (State.endDebug_keeps _).after
    | apply (State.channelGo_keeps _ _).after
    | apply (State.releaseBay_keeps _ _).after
    | apply (State.clearDrop_keeps _ _).after
    | apply (State.softTrig_keeps _ _ _).after
    | apply (State.seqRestart_keeps _ _).after
    | apply (State.lpWrite_keeps _ _ _).after
    | apply (State.checkClear_keeps _ _).after
    | apply (State.tripClear_keeps _ _ _).after
    | apply (State.engRestart_keeps _ _).after
    | apply (State.engHalt_keeps _ _).after
    | apply (State.gridFw_keeps _ _).after
    | apply (State.clearXp_keeps _ _).after
    | apply (State.bellowsRestart_keeps _).after
    | apply (State.mailGo_keeps _).after
    | apply (State.rwsWrite_keeps _ _ _).after
    | apply (State.brakeTest_keeps _ _).after
    | apply (State.ringCons__keeps _ _ _).after
    | apply (State.ringProd__keeps _ _ _).after
    | apply (State.roleWrite_keeps _ _).after
    | apply (State.pdoWrite_keeps _ _).after
    | apply (State.canCancel_keeps _ _ _ _).after
    | apply (State.estRestart_keeps _).after
    | apply (State.hibernate_keeps _).after
    | apply (State.scbClear_keeps _).after
    | apply (State.scbCfg_keeps _ _).after
    | apply (State.tagCfg_keeps _ _).after
    | apply (State.plainWrite_keeps _ _ _ _).after
    | apply (State.canCtlWrite_keeps _ _ _ _).after
    | apply (State.trsCtlWrite_keeps _ _).after
    | apply (State.pwrCtlWrite_keeps _ _).after
    | apply (State.pegCmdWrite_keeps _ _).after
    | apply (State.jnyCmdWrite_keeps _ _).after
    | apply (State.phTempWrite_keeps _ _ _).after
    | apply (State.busErrWrite_keeps _ _).after
    | apply keeps_ite
    | apply (State.each_keeps _ _ _ ?_).after
    | apply (State.when_keeps _ _ _ ?_).after
    | split
    | intro _)

theorem State.writePair_keeps (s : State) (w : Initiator) (lo hi : Reg) (i : Nat) (vl vh : W32) (ofs : Nat) : Keeps s (s.writePair w lo hi i vl vh ofs) := by
  unfold State.writePair
  try dsimp only
  with_reducible repeat' (first
    | apply Keeps.refl
    | apply (State.takeDemand_keeps _ _ _ _).after
    | apply (State.hostPoint_keeps _ _ _ _).after
    | apply (State.plainWrite_keeps _ _ _ _).after
    | apply keeps_ite
    | split
    | intro _)

theorem State.holdLo_keeps (s : State) (w : Initiator) (lo : Reg) (i : Nat) (v : W32) : Keeps s (s.holdLo w lo i v) := by
  unfold State.holdLo
  try dsimp only
  with_reducible repeat' (first
    | simp only [keeps_other, keeps_sys]
    | apply Keeps.refl
    | apply (State.onSys_keeps _ _ rfl rfl rfl).after
    | split
    | intro _)

theorem State.writeHi_keeps (s : State) (w : Initiator) (lo hi : Reg) (i : Nat) (v : W32) (ofs : Nat) : Keeps s (s.writeHi w lo hi i v ofs) := by
  unfold State.writeHi
  try dsimp only
  with_reducible repeat' (first
    | simp only [keeps_other, keeps_sys]
    | apply Keeps.refl
    | apply (State.onSys_keeps _ _ rfl rfl rfl).after
    | apply (State.writePair_keeps _ _ _ _ _ _ _ _).after
    | split
    | intro _)

theorem State.writeWord_keeps (s : State) (w : Initiator) (win off : Nat) (v : W32) (ofs : Nat) (busy : Bool) : Keeps s (s.writeWord w win off v ofs busy) := by
  unfold State.writeWord
  try dsimp only
  with_reducible repeat' (first
    | simp only [keeps_other, keeps_sys]
    | apply Keeps.refl
    | apply (State.writeReg_keeps _ _ _ _ _ _ _).after
    | apply (State.holdLo_keeps _ _ _ _ _).after
    | apply (State.writeHi_keeps _ _ _ _ _ _ _).after
    | apply keeps_ite
    | split
    | intro _)

theorem State.writeDouble_keeps (s : State) (w : Initiator) (win off : Nat) (vl vh : W32) (ofs : Nat) (busy : Bool) : Keeps s (s.writeDouble w win off vl vh ofs busy) := by
  unfold State.writeDouble
  try dsimp only
  with_reducible repeat' (first
    | simp only [keeps_other, keeps_sys]
    | apply Keeps.refl
    | apply (State.writePair_keeps _ _ _ _ _ _ _ _).after
    | apply (State.writeWord_keeps _ _ _ _ _ _ _).after
    | apply keeps_ite
    | split
    | intro _)

theorem State.serveAccess_keeps (s : State) (x : Access) (r : Region) : Keeps s (s.serveAccess x r) := by
  unfold State.serveAccess
  try dsimp only
  with_reducible repeat' (first
    | simp only [keeps_other, keeps_sys]
    | apply Keeps.refl
    | apply (State.memoryRead_keeps _ _ _ _ _ _).after
    | apply (State.memoryWrite_keeps _ _ _).after
    | apply (State.readWord_keeps _ _ _ _).after
    | apply (State.readDouble_keeps _ _ _ _).after
    | apply (State.writeWord_keeps _ _ _ _ _ _ _).after
    | apply (State.writeDouble_keeps _ _ _ _ _ _ _ _).after
    | apply keeps_ite
    | split
    | intro _)

theorem State.absentAnswer_keeps (s : State) (x : Access) : Keeps s (s.absentAnswer x) := by
  unfold State.absentAnswer
  try dsimp only
  with_reducible repeat' (first
    | simp only [keeps_other, keeps_sys]
    | apply Keeps.refl
    | apply (State.busError_keeps _ _ _ _ _).after
    | apply keeps_ite
    | split
    | intro _)

theorem State.countData_keeps (s : State) (x : Access) (target : Nat) : Keeps s (s.countData x target) := by
  unfold State.countData
  try dsimp only
  with_reducible repeat' (first
    | simp only [keeps_other, keeps_sys]
    | apply Keeps.refl
    | apply (State.onScb_keeps _ _).after
    | apply keeps_ite
    | split
    | intro _)

theorem State.granted_keeps (s : State) (w : Initiator) (target : Nat) : Keeps s (s.granted w target) := by
  unfold State.granted
  try dsimp only
  with_reducible repeat' (first
    | apply Keeps.refl
    | apply (State.count_keeps _ _ _ _).after
    | apply (State.when_keeps _ _ _ ?_).after
    | split
    | intro _)

theorem State.viaWindow_keeps (s : State) (x : Access) (win : Nat) (f : State → State) (h : ∀ t, Keeps t (f t)) : Keeps s (s.viaWindow x win f) := by
  unfold State.viaWindow
  dsimp only
  with_reducible repeat' (first
    | apply (State.busError_keeps _ _ _ _ _).after
    | apply (State.absentAnswer_keeps _ _).after
    | apply (h _).after
    | apply (State.countData_keeps _ _ _).after
    | apply (State.granted_keeps _ _ _).after
    | exact Keeps.refl _
    | apply keeps_ite)

theorem State.viaMemory_keeps (s : State) (x : Access) (r : Region) : Keeps s (s.viaMemory x r) := by
  unfold State.viaMemory
  try dsimp only
  with_reducible repeat' (first
    | simp only [keeps_other, keeps_sys]
    | apply Keeps.refl
    | apply (State.busError_keeps _ _ _ _ _).after
    | apply (State.serveAccess_keeps _ _ _).after
    | apply (State.absentAnswer_keeps _ _).after
    | apply (State.countData_keeps _ _ _).after
    | apply (State.granted_keeps _ _ _).after
    | apply keeps_ite
    | split
    | intro _)

theorem State.access_keeps (s : State) (x : Access) : Keeps s (s.access x) := by
  unfold State.access
  try dsimp only
  with_reducible repeat' (first
    | simp only [keeps_other, keeps_sys]
    | apply Keeps.refl
    | apply (State.busError_keeps _ _ _ _ _).after
    | apply (State.serveAccess_keeps _ _ _).after
    | apply (State.viaWindow_keeps _ _ _ _ ?_).after
    | apply (State.viaMemory_keeps _ _ _).after
    | apply keeps_ite
    | split
    | intro _)

theorem State.rowWrite_keeps (s : State) (who : Initiator) (win off : Nat) (f : State → State) (n : Nat) (h : ∀ t, Keeps t (f t)) :
    Keeps s (s.rowWrite who win off f n) := by
  unfold State.rowWrite
  exact keeps_ite (Keeps.refl s) (State.viaWindow_keeps _ _ _ _ fun t => (keeps_other t _ ..).2 (h t))

theorem State.rowRead_keeps (s : State) (who : Initiator) (win off n : Nat) (f : State → State) (h : ∀ t, Keeps t (f t)) :
    Keeps s (s.rowRead who win off n f) := by
  unfold State.rowRead
  exact keeps_ite (Keeps.refl s) (State.viaWindow_keeps _ _ _ _ h)

end Sys2Proof.Machine
end

