-- ==== Sys2Proof/Laws/KeepsExec1.lean ====
section
/-! SUPPORT. Every command of Machine/Coffer.lean, Machine/Forge.lean, Machine/Acquisition.lean, Machine/Calfin.lean, Machine/Truss.lean, Machine/Bellows.lean answers a next state, and what that state keeps. -/

namespace Sys2Proof.Machine

open Sys2Proof

theorem execGenerateKey_keeps (q : KeyReq) (s : State) : ∃ s₁, execGenerateKey q s = .next s₁ ∧ Keeps s s₁ := by
  refine ⟨_, rfl, ?_⟩
  try dsimp only
  with_reducible repeat' (first
    | apply Keeps.refl
    | apply (State.create_keeps _ _ _ _ _ _).after
    | apply (State.serve_keeps _ _ _ _ ?_).after
    | split
    | intro _)

theorem execDeriveKey_keeps (q : KeyReq) (s : State) : ∃ s₁, execDeriveKey q s = .next s₁ ∧ Keeps s s₁ := by
  refine ⟨_, rfl, ?_⟩
  try dsimp only
  with_reducible repeat' (first
    | apply Keeps.refl
    | apply (State.create_keeps _ _ _ _ _ _).after
    | apply (State.serve_keeps _ _ _ _ ?_).after
    | apply (State.slot_keeps _ _ _ _ ?_).after
    | split
    | intro _)

theorem execImportKey_keeps (q : KeyReq) (s : State) : ∃ s₁, execImportKey q s = .next s₁ ∧ Keeps s s₁ := by
  refine ⟨_, rfl, ?_⟩
  try dsimp only
  with_reducible repeat' (first
    | apply Keeps.refl
    | apply (State.create_keeps _ _ _ _ _ _).after
    | apply (State.serve_keeps _ _ _ _ ?_).after
    | apply (State.slot_keeps _ _ _ _ ?_).after
    | split
    | intro _)

theorem execExportKey_keeps (q : KeyReq) (s : State) : ∃ s₁, execExportKey q s = .next s₁ ∧ Keeps s s₁ := by
  refine ⟨_, rfl, ?_⟩
  try dsimp only
  with_reducible repeat' (first
    | apply Keeps.refl
    | apply (State.exportBlob_keeps _ _ _).after
    | apply (State.serve_keeps _ _ _ _ ?_).after
    | split
    | intro _)

theorem execDestroyKey_keeps (q : KeyReq) (s : State) : ∃ s₁, execDestroyKey q s = .next s₁ ∧ Keeps s s₁ := by
  refine ⟨_, rfl, ?_⟩
  try dsimp only
  with_reducible repeat' (first
    | apply Keeps.refl
    | apply (State.destroy_keeps _ _ _).after
    | apply (State.serve_keeps _ _ _ _ ?_).after
    | split
    | intro _)

theorem execGetPublic_keeps (q : KeyReq) (s : State) : ∃ s₁, execGetPublic q s = .next s₁ ∧ Keeps s s₁ := by
  refine ⟨_, rfl, ?_⟩
  try dsimp only
  with_reducible repeat' (first
    | apply Keeps.refl
    | apply (State.getPublic_keeps _ _).after
    | apply (State.serve_keeps _ _ _ _ ?_).after
    | split
    | intro _)

theorem execAttest_keeps (q : KeyReq) (s : State) : ∃ s₁, execAttest q s = .next s₁ ∧ Keeps s s₁ := by
  refine ⟨_, rfl, ?_⟩
  try dsimp only
  with_reducible repeat' (first
    | apply Keeps.refl
    | apply (State.attest_keeps _ _ _).after
    | apply (State.serve_keeps _ _ _ _ ?_).after
    | split
    | intro _)

theorem execGetCert_keeps (q : KeyReq) (s : State) : ∃ s₁, execGetCert q s = .next s₁ ∧ Keeps s s₁ := by
  refine ⟨_, rfl, ?_⟩
  try dsimp only
  with_reducible repeat' (first
    | apply Keeps.refl
    | apply (State.getCert_keeps _ _).after
    | apply (State.serve_keeps _ _ _ _ ?_).after
    | split
    | intro _)

theorem execSignMsg_keeps (q : KeyReq) (s : State) : ∃ s₁, execSignMsg q s = .next s₁ ∧ Keeps s s₁ := by
  refine ⟨_, rfl, ?_⟩
  try dsimp only
  with_reducible repeat' (first
    | apply Keeps.refl
    | apply (State.signFrame_keeps _ _ _).after
    | apply (State.serve_keeps _ _ _ _ ?_).after
    | split
    | intro _)

theorem execVerifySig_keeps (q : KeyReq) (s : State) : ∃ s₁, execVerifySig q s = .next s₁ ∧ Keeps s s₁ := by
  refine ⟨_, rfl, ?_⟩
  try dsimp only
  with_reducible repeat' (first
    | apply Keeps.refl
    | apply (State.verifyFrame_keeps _ _ _).after
    | apply (State.serve_keeps _ _ _ _ ?_).after
    | split
    | intro _)

theorem execSealAead_keeps (q : KeyReq) (s : State) : ∃ s₁, execSealAead q s = .next s₁ ∧ Keeps s s₁ := by
  refine ⟨_, rfl, ?_⟩
  try dsimp only
  with_reducible repeat' (first
    | apply Keeps.refl
    | apply (State.sealFrame_keeps _ _ _).after
    | apply (State.serve_keeps _ _ _ _ ?_).after
    | split
    | intro _)

theorem execOpenAead_keeps (q : KeyReq) (s : State) : ∃ s₁, execOpenAead q s = .next s₁ ∧ Keeps s s₁ := by
  refine ⟨_, rfl, ?_⟩
  try dsimp only
  with_reducible repeat' (first
    | apply Keeps.refl
    | apply (State.openFrame_keeps _ _ _).after
    | apply (State.serve_keeps _ _ _ _ ?_).after
    | split
    | intro _)

theorem execHashData_keeps (q : KeyReq) (s : State) : ∃ s₁, execHashData q s = .next s₁ ∧ Keeps s s₁ := by
  refine ⟨_, rfl, ?_⟩
  try dsimp only
  with_reducible repeat' (first
    | apply Keeps.refl
    | apply (State.hashFrame_keeps _ _).after
    | apply (State.serve_keeps _ _ _ _ ?_).after
    | split
    | intro _)

theorem execKeyStage_keeps (q : KeyReq) (s : State) : ∃ s₁, execKeyStage q s = .next s₁ ∧ Keeps s s₁ := by
  refine ⟨_, rfl, ?_⟩
  try dsimp only
  with_reducible repeat' (first
    | apply Keeps.refl
    | apply (State.stageFrame_keeps _ _ _).after
    | apply (State.serve_keeps _ _ _ _ ?_).after
    | split
    | intro _)

theorem execKeyCommit_keeps (q : KeyReq) (s : State) : ∃ s₁, execKeyCommit q s = .next s₁ ∧ Keeps s s₁ := by
  refine ⟨_, rfl, ?_⟩
  try dsimp only
  with_reducible repeat' (first
    | apply Keeps.refl
    | apply (State.commitFrame_keeps _ _).after
    | apply (State.serve_keeps _ _ _ _ ?_).after
    | split
    | intro _)

theorem execAbort_keeps (q : KeyReq) (s : State) : ∃ s₁, execAbort q s = .next s₁ ∧ Keeps s s₁ := by
  refine ⟨_, rfl, ?_⟩
  try dsimp only
  with_reducible repeat' (first
    | apply Keeps.refl
    | apply (State.abortFrame_keeps _ _).after
    | apply (State.serve_keeps _ _ _ _ ?_).after
    | split
    | intro _)

theorem execLcStep_keeps (q : KeyReq) (s : State) : ∃ s₁, execLcStep q s = .next s₁ ∧ Keeps s s₁ := by
  refine ⟨_, rfl, ?_⟩
  try dsimp only
  with_reducible repeat' (first
    | apply Keeps.refl
    | apply (State.lcStep_keeps _ _).after
    | apply (State.serve_keeps _ _ _ _ ?_).after
    | split
    | intro _)

theorem execRotRotate_keeps (q : KeyReq) (s : State) : ∃ s₁, execRotRotate q s = .next s₁ ∧ Keeps s s₁ := by
  refine ⟨_, rfl, ?_⟩
  try dsimp only
  with_reducible repeat' (first
    | apply Keeps.refl
    | apply (State.rotate_keeps _ _).after
    | apply (State.serve_keeps _ _ _ _ ?_).after
    | split
    | intro _)

theorem execDebugUnlock_keeps (q : KeyReq) (s : State) : ∃ s₁, execDebugUnlock q s = .next s₁ ∧ Keeps s s₁ := by
  refine ⟨_, rfl, ?_⟩
  try dsimp only
  with_reducible repeat' (first
    | apply Keeps.refl
    | apply (State.debugUnlock_keeps _ _).after
    | apply (State.serve_keeps _ _ _ _ ?_).after
    | split
    | intro _)

theorem execKeySwap_keeps (n : Nat) (s : State) : ∃ s₁, execKeySwap n s = .next s₁ ∧ Keeps s s₁ := by
  refine ⟨_, rfl, ?_⟩
  try dsimp only
  with_reducible repeat' (first
    | apply Keeps.refl
    | apply State.live_keeps _ (Keeps.refl _)
    | apply (State.swapKey_keeps _ _).after
    | split
    | intro _)

theorem execGraceEnd_keeps (n : Nat) (s : State) : ∃ s₁, execGraceEnd n s = .next s₁ ∧ Keeps s s₁ := by
  refine ⟨_, rfl, ?_⟩
  try dsimp only
  with_reducible repeat' (first
    | apply Keeps.refl
    | apply State.live_keeps _ (Keeps.refl _)
    | apply (State.endGrace_keeps _ _).after
    | apply keeps_ite
    | split
    | intro _)

theorem execOrphanSweep_keeps (s : State) : ∃ s₁, execOrphanSweep s = .next s₁ ∧ Keeps s s₁ := by
  refine ⟨_, rfl, ?_⟩
  try dsimp only
  with_reducible repeat' (first
    | apply Keeps.refl
    | apply State.live_keeps _ (Keeps.refl _)
    | apply (State.showPubKeys_keeps _).after
    | apply (State.emptySlot_keeps _ _).after
    | apply (State.each_keeps _ _ _ ?_).after
    | split
    | intro _)

theorem execDebugExpiry_keeps (s : State) : ∃ s₁, execDebugExpiry s = .next s₁ ∧ Keeps s s₁ := by
  refine ⟨_, rfl, ?_⟩
  try dsimp only
  with_reducible repeat' (first
    | apply Keeps.refl
    | apply State.live_keeps _ (Keeps.refl _)
    | apply (State.endDebug_keeps _).after
    | apply keeps_ite
    | split
    | intro _)

theorem execPeakTrip_keeps (p : Nat) (cs : Int) (t : Nat) (s : State) : ∃ s₁, execPeakTrip p cs t s = .next s₁ ∧ Keeps s s₁ := by
  refine ⟨_, rfl, ?_⟩
  try dsimp only
  with_reducible repeat' (first
    | simp only [keeps_other, keeps_sys]
    | apply Keeps.refl
    | apply (State.bumpSat_keeps _ _ _).after
    | apply (State.count_keeps _ _ _ _).after
    | apply State.live_keeps _ (Keeps.refl _)
    | apply (State.onPhase_keeps _ _ _).after
    | apply (State.seenTrip_keeps _ _ _).after
    | apply keeps_ite
    | split
    | intro _)

theorem execMaxOnTime_keeps (p steps : Nat) (s : State) : ∃ s₁, execMaxOnTime p steps s = .next s₁ ∧ Keeps s s₁ := by
  refine ⟨_, rfl, ?_⟩
  try dsimp only
  with_reducible repeat' (first
    | simp only [keeps_other, keeps_sys]
    | apply Keeps.refl
    | apply (State.bumpSat_keeps _ _ _).after
    | apply State.live_keeps _ (Keeps.refl _)
    | apply (State.onPhase_keeps _ _ _).after
    | apply (State.openTest_keeps _ _ _).after
    | apply keeps_ite
    | split
    | intro _)

theorem execLowSideOn_keeps (p : Nat) (s : State) : ∃ s₁, execLowSideOn p s = .next s₁ ∧ Keeps s s₁ := by
  refine ⟨_, rfl, ?_⟩
  try dsimp only
  with_reducible repeat' (first
    | simp only [keeps_other, keeps_sys]
    | apply Keeps.refl
    | apply State.live_keeps _ (Keeps.refl _)
    | apply (State.onPhase_keeps _ _ _).after
    | apply keeps_ite
    | split
    | intro _)

theorem execBaySaturated_keeps (b : Nat) (s : State) : ∃ s₁, execBaySaturated b s = .next s₁ ∧ Keeps s s₁ := by
  refine ⟨_, rfl, ?_⟩
  try dsimp only
  with_reducible repeat' (first
    | apply Keeps.refl
    | apply (State.report_keeps _ _ _).after
    | apply State.live_keeps _ (Keeps.refl _)
    | apply (State.faultBay_keeps _ _ _).after
    | apply keeps_ite
    | split
    | intro _)

theorem execTrimLimit_keeps (p : Nat) (s : State) : ∃ s₁, execTrimLimit p s = .next s₁ ∧ Keeps s s₁ := by
  refine ⟨_, rfl, ?_⟩
  try dsimp only
  with_reducible repeat' (first
    | simp only [keeps_other, keeps_sys]
    | apply Keeps.refl
    | apply (State.report_keeps _ _ _).after
    | apply State.live_keeps _ (Keeps.refl _)
    | apply (State.onPhase_keeps _ _ _).after
    | apply keeps_ite
    | split
    | intro _)

theorem execShedStepEnd_keeps (b : Nat) (s : State) : ∃ s₁, execShedStepEnd b s = .next s₁ ∧ Keeps s s₁ := by
  refine ⟨_, rfl, ?_⟩
  try dsimp only
  with_reducible repeat' (first
    | simp only [keeps_other, keeps_sys]
    | apply Keeps.refl
    | apply (State.setFld_keeps _ _ _ _).after
    | apply (State.setFlag_keeps _ _ _ _).after
    | apply State.live_keeps _ (Keeps.refl _)
    | apply (State.onPhase_keeps _ _ _).after
    | apply (State.onBay_keeps _ _ _).after
    | apply (State.respread_keeps _ _).after
    | apply keeps_ite
    | split
    | intro _)

theorem execShedHoldEnd_keeps (b : Nat) (s : State) : ∃ s₁, execShedHoldEnd b s = .next s₁ ∧ Keeps s s₁ := by
  refine ⟨_, rfl, ?_⟩
  try dsimp only
  with_reducible repeat' (first
    | apply Keeps.refl
    | apply (State.setFld_keeps _ _ _ _).after
    | apply State.live_keeps _ (Keeps.refl _)
    | apply keeps_ite
    | split
    | intro _)

theorem execOvershoot_keeps (b : Nat) (level : Int) (s : State) : ∃ s₁, execOvershoot b level s = .next s₁ ∧ Keeps s s₁ := by
  refine ⟨_, rfl, ?_⟩
  try dsimp only
  with_reducible repeat' (first
    | simp only [keeps_other, keeps_sys]
    | apply Keeps.refl
    | apply State.live_keeps _ (Keeps.refl _)
    | apply (State.onBay_keeps _ _ _).after
    | apply (State.truncate_keeps _ _).after
    | apply keeps_ite
    | split
    | intro _)

theorem execOvershootEnd_keeps (b : Nat) (level : Int) (s : State) : ∃ s₁, execOvershootEnd b level s = .next s₁ ∧ Keeps s s₁ := by
  refine ⟨_, rfl, ?_⟩
  try dsimp only
  with_reducible repeat' (first
    | simp only [keeps_other, keeps_sys]
    | apply Keeps.refl
    | apply State.live_keeps _ (Keeps.refl _)
    | apply (State.onBay_keeps _ _ _).after
    | split
    | intro _)

theorem execOvershootLimit_keeps (b : Nat) (s : State) : ∃ s₁, execOvershootLimit b s = .next s₁ ∧ Keeps s s₁ := by
  refine ⟨_, rfl, ?_⟩
  try dsimp only
  with_reducible repeat' (first
    | apply Keeps.refl
    | apply State.live_keeps _ (Keeps.refl _)
    | apply (State.faultBay_keeps _ _ _).after
    | apply keeps_ite
    | split
    | intro _)

theorem execFastLimit_keeps (m : Nat) (bits : List Bool) (s : State) : ∃ s₁, execFastLimit m bits s = .next s₁ ∧ Keeps s s₁ := by
  refine ⟨_, rfl, ?_⟩
  try dsimp only
  with_reducible repeat' (first
    | simp only [keeps_other, keeps_sys]
    | apply Keeps.refl
    | apply State.live_keeps _ (Keeps.refl _)
    | apply (State.onBay_keeps _ _ _).after
    | apply (State.faultBay_keeps _ _ _).after
    | apply (State.truncate_keeps _ _).after
    | apply (State.fastBits_keeps _ _ _).after
    | apply keeps_ite
    | split
    | intro _)

theorem execFastLimitEnd_keeps (m : Nat) (bits : List Bool) (s : State) : ∃ s₁, execFastLimitEnd m bits s = .next s₁ ∧ Keeps s s₁ := by
  refine ⟨_, rfl, ?_⟩
  try dsimp only
  with_reducible repeat' (first
    | simp only [keeps_other, keeps_sys]
    | apply Keeps.refl
    | apply State.live_keeps _ (Keeps.refl _)
    | apply (State.onBay_keeps _ _ _).after
    | apply (State.fastBits_keeps _ _ _).after
    | apply keeps_ite
    | split
    | intro _)

theorem execDriverFault_keeps (p : Nat) (low : Bool) (s : State) : ∃ s₁, execDriverFault p low s = .next s₁ ∧ Keeps s s₁ := by
  refine ⟨_, rfl, ?_⟩
  try dsimp only
  with_reducible repeat' (first
    | apply Keeps.refl
    | apply (State.setFlag_keeps _ _ _ _).after
    | apply State.live_keeps _ (Keeps.refl _)
    | apply (State.gatesOff_keeps _ _).after
    | apply (State.dropPhase_keeps _ _ _ _).after
    | apply keeps_ite
    | split
    | intro _)

theorem execSenseLoss_keeps (p : Nat) (cs : Int) (s : State) : ∃ s₁, execSenseLoss p cs s = .next s₁ ∧ Keeps s s₁ := by
  refine ⟨_, rfl, ?_⟩
  try dsimp only
  with_reducible repeat' (first
    | apply Keeps.refl
    | apply (State.setFlag_keeps _ _ _ _).after
    | apply State.live_keeps _ (Keeps.refl _)
    | apply (State.dropPhase_keeps _ _ _ _).after
    | apply keeps_ite
    | split
    | intro _)

theorem execAcqTrigger_keeps (n at_ : Nat) (s : State) : ∃ s₁, execAcqTrigger n at_ s = .next s₁ ∧ Keeps s s₁ := by
  refine ⟨_, rfl, ?_⟩
  try dsimp only
  with_reducible repeat' (first
    | simp only [keeps_other, keeps_sys]
    | apply Keeps.refl
    | apply State.live_keeps _ (Keeps.refl _)
    | apply (State.fireSeq_keeps _ _ _ _).after
    | apply (State.firePwm_keeps _ _ _ _).after
    | apply keeps_ite
    | split
    | intro _)

theorem execPwmPeriod_keeps (p at_ : Nat) (s : State) : ∃ s₁, execPwmPeriod p at_ s = .next s₁ ∧ Keeps s s₁ := by
  refine ⟨_, rfl, ?_⟩
  try dsimp only
  with_reducible repeat' (first
    | simp only [keeps_other, keeps_sys]
    | apply Keeps.refl
    | apply State.live_keeps _ (Keeps.refl _)
    | apply (State.onPhase_keeps _ _ _).after
    | apply (State.periodInstant_keeps _ _).after
    | apply (State.substitute_keeps _ _ _ _).after
    | apply (State.missedOn_keeps _ _).after
    | apply keeps_ite
    | split
    | intro _)

theorem execOnEdge_keeps (p : Nat) (s : State) : ∃ s₁, execOnEdge p s = .next s₁ ∧ Keeps s s₁ := by
  refine ⟨_, rfl, ?_⟩
  try dsimp only
  with_reducible repeat' (first
    | simp only [keeps_other, keeps_sys]
    | apply Keeps.refl
    | apply State.live_keeps _ (Keeps.refl _)
    | apply (State.onPhase_keeps _ _ _).after
    | apply (State.missedOn_keeps _ _).after
    | apply keeps_ite
    | split
    | intro _)

theorem execValley_keeps (p at_ : Nat) (s : State) : ∃ s₁, execValley p at_ s = .next s₁ ∧ Keeps s s₁ := by
  refine ⟨_, rfl, ?_⟩
  try dsimp only
  with_reducible repeat' (first
    | apply Keeps.refl
    | apply State.live_keeps _ (Keeps.refl _)
    | apply (State.substitute_keeps _ _ _ _).after
    | apply (State.missedOn_keeps _ _).after
    | apply keeps_ite
    | split
    | intro _)

theorem execRunStart_keeps (n at_ : Nat) (s : State) : ∃ s₁, execRunStart n at_ s = .next s₁ ∧ Keeps s s₁ := by
  refine ⟨_, rfl, ?_⟩
  try dsimp only
  with_reducible repeat' (first
    | simp only [keeps_other, keeps_sys]
    | apply Keeps.refl
    | apply State.live_keeps _ (Keeps.refl _)
    | apply (State.checkTry_keeps _ _ _).after
    | apply (State.checkAbort_keeps _ _).after
    | apply (State.takeRun_keeps _ _ _ _).after
    | apply (State.abortFor_keeps _ _ _ _ _).after
    | apply keeps_ite
    | split
    | intro _)

theorem execSlotRestart_keeps (n at_ : Nat) (s : State) : ∃ s₁, execSlotRestart n at_ s = .next s₁ ∧ Keeps s s₁ := by
  refine ⟨_, rfl, ?_⟩
  try dsimp only
  with_reducible repeat' (first
    | simp only [keeps_other, keeps_sys]
    | apply Keeps.refl
    | apply State.live_keeps _ (Keeps.refl _)
    | apply (State.onConv_keeps _ _ _).after
    | apply (State.beginSlot_keeps _ _ _ _).after
    | apply keeps_ite
    | split
    | intro _)

theorem execSlotResult_keeps (n : Nat) (codes : List Int) (at_ : Nat) (s : State) : ∃ s₁, execSlotResult n codes at_ s = .next s₁ ∧ Keeps s s₁ := by
  refine ⟨_, rfl, ?_⟩
  try dsimp only
  with_reducible repeat' (first
    | simp only [keeps_other, keeps_sys]
    | apply Keeps.refl
    | apply (State.bumpSat_keeps _ _ _).after
    | apply (State.report_keeps _ _ _).after
    | apply (State.count_keeps _ _ _ _).after
    | apply State.live_keeps _ (Keeps.refl _)
    | apply (State.onConv_keeps _ _ _).after
    | apply (State.deliver_keeps _ _ _ _ _).after
    | apply (State.nextSlot_keeps _ _ _ _).after
    | apply keeps_ite
    | split
    | intro _)

theorem execPairCheck_keeps (k at_ : Nat) (a b : List Int) (s : State) : ∃ s₁, execPairCheck k at_ a b s = .next s₁ ∧ Keeps s s₁ := by
  refine ⟨_, rfl, ?_⟩
  try dsimp only
  with_reducible repeat' (first
    | apply Keeps.refl
    | apply State.live_keeps _ (Keeps.refl _)
    | apply (State.onCheck_keeps _ _ _).after
    | apply (State.checkTry_keeps _ _ _).after
    | apply (State.checkResume_keeps _ _ _).after
    | apply (State.checkJudge_keeps _ _ _ _).after
    | apply keeps_ite
    | split
    | intro _)

theorem execAcqCheckFault_keeps (k : Nat) (s : State) : ∃ s₁, execAcqCheckFault k s = .next s₁ ∧ Keeps s s₁ := by
  refine ⟨_, rfl, ?_⟩
  try dsimp only
  with_reducible repeat' (first
    | apply Keeps.refl
    | apply (State.setFld_keeps _ _ _ _).after
    | apply (State.setFlag_keeps _ _ _ _).after
    | apply (State.report_keeps _ _ _).after
    | apply State.live_keeps _ (Keeps.refl _)
    | apply (State.orderFault_keeps _ _).after
    | apply keeps_ite
    | apply (State.each_keeps _ _ _ ?_).after
    | split
    | intro _)

theorem execDecimationOutput_keeps (m : Nat) (bits : List Bool) (s : State) : ∃ s₁, execDecimationOutput m bits s = .next s₁ ∧ Keeps s s₁ := by
  refine ⟨_, rfl, ?_⟩
  try dsimp only
  with_reducible repeat' (first
    | simp only [keeps_other, keeps_sys]
    | apply Keeps.refl
    | apply State.live_keeps _ (Keeps.refl _)
    | apply (State.modOutput_keeps _ _ _).after
    | apply keeps_ite
    | apply (keeps_foldl _ _ ?_ _).after
    | split
    | intro _)

theorem execModStuck_keeps (m : Nat) (bits : List Bool) (s : State) : ∃ s₁, execModStuck m bits s = .next s₁ ∧ Keeps s s₁ := by
  refine ⟨_, rfl, ?_⟩
  try dsimp only
  with_reducible repeat' (first
    | simp only [keeps_other, keeps_sys]
    | apply Keeps.refl
    | apply (State.setFlag_keeps _ _ _ _).after
    | apply (State.report_keeps _ _ _).after
    | apply State.live_keeps _ (Keeps.refl _)
    | apply keeps_ite
    | split
    | intro _)

theorem execModStuckEnd_keeps (m : Nat) (s : State) : ∃ s₁, execModStuckEnd m s = .next s₁ ∧ Keeps s s₁ := by
  refine ⟨_, rfl, ?_⟩
  try dsimp only
  with_reducible repeat' (first
    | apply Keeps.refl
    | apply (State.setFlag_keeps _ _ _ _).after
    | apply State.live_keeps _ (Keeps.refl _)
    | apply keeps_ite
    | split
    | intro _)

theorem execMacz_keeps (e : Nat) (b : Option Nat) (a : Bool) (ka kb : Nat) (s : State) : ∃ s₁, execMacz e b a ka kb s = .next s₁ ∧ Keeps s s₁ := by
  refine ⟨_, rfl, ?_⟩
  try dsimp only
  with_reducible repeat' (first
    | apply Keeps.refl
    | apply State.live_keeps _ (Keeps.refl _)
    | apply (State.slot_keeps _ _ _ _ ?_).after
    | apply (State.countMac_keeps _ _).after
    | apply (State.putAcc_keeps _ _ _ _ _).after
    | apply (State.putAccF_keeps _ _ _ _).after
    | apply keeps_ite
    | split
    | intro _)

theorem execMac_keeps (e : Nat) (b : Option Nat) (a : Bool) (ka kb : Nat) (s : State) : ∃ s₁, execMac e b a ka kb s = .next s₁ ∧ Keeps s s₁ := by
  refine ⟨_, rfl, ?_⟩
  try dsimp only
  with_reducible repeat' (first
    | apply Keeps.refl
    | apply State.live_keeps _ (Keeps.refl _)
    | apply (State.slot_keeps _ _ _ _ ?_).after
    | apply (State.countMac_keeps _ _).after
    | apply (State.putAccF_keeps _ _ _ _).after
    | apply (State.accAdd_keeps _ _ _ _ _).after
    | apply keeps_ite
    | split
    | intro _)

theorem execMsu_keeps (e : Nat) (b : Option Nat) (a : Bool) (ka kb : Nat) (s : State) : ∃ s₁, execMsu e b a ka kb s = .next s₁ ∧ Keeps s s₁ := by
  refine ⟨_, rfl, ?_⟩
  try dsimp only
  with_reducible repeat' (first
    | apply Keeps.refl
    | apply State.live_keeps _ (Keeps.refl _)
    | apply (State.slot_keeps _ _ _ _ ?_).after
    | apply (State.countMac_keeps _ _).after
    | apply (State.putAccF_keeps _ _ _ _).after
    | apply (State.accSub_keeps _ _ _ _ _).after
    | apply keeps_ite
    | split
    | intro _)

theorem execMova_keeps (e : Nat) (b : Option Nat) (a : Bool) (ka : Nat) (s : State) : ∃ s₁, execMova e b a ka s = .next s₁ ∧ Keeps s s₁ := by
  refine ⟨_, rfl, ?_⟩
  try dsimp only
  with_reducible repeat' (first
    | apply Keeps.refl
    | apply State.live_keeps _ (Keeps.refl _)
    | apply (State.slot_keeps _ _ _ _ ?_).after
    | apply (State.setK_keeps _ _ _ _).after
    | apply (State.putM_keeps _ _ _ _).after
    | apply (State.countMac_keeps _ _).after
    | apply keeps_ite
    | split
    | intro _)

theorem execAsh_keeps (e : Nat) (b : Option Nat) (a : Bool) (imm : Int) (s : State) : ∃ s₁, execAsh e b a imm s = .next s₁ ∧ Keeps s s₁ := by
  refine ⟨_, rfl, ?_⟩
  try dsimp only
  with_reducible repeat' (first
    | apply Keeps.refl
    | apply State.live_keeps _ (Keeps.refl _)
    | apply (State.slot_keeps _ _ _ _ ?_).after
    | apply (State.countMac_keeps _ _).after
    | apply (State.putAcc_keeps _ _ _ _ _).after
    | apply (State.putAccF_keeps _ _ _ _).after
    | apply keeps_ite
    | split
    | intro _)

theorem execAadd_keeps (e : Nat) (b : Option Nat) (a : Bool) (s : State) : ∃ s₁, execAadd e b a s = .next s₁ ∧ Keeps s s₁ := by
  refine ⟨_, rfl, ?_⟩
  try dsimp only
  with_reducible repeat' (first
    | apply Keeps.refl
    | apply State.live_keeps _ (Keeps.refl _)
    | apply (State.slot_keeps _ _ _ _ ?_).after
    | apply (State.countMac_keeps _ _).after
    | apply (State.putAccF_keeps _ _ _ _).after
    | apply (State.accAdd_keeps _ _ _ _ _).after
    | apply keeps_ite
    | split
    | intro _)

theorem execAdd_keeps (e : Nat) (b : Option Nat) (kd k1 k2 : Nat) (s : State) : ∃ s₁, execAdd e b kd k1 k2 s = .next s₁ ∧ Keeps s s₁ := by
  refine ⟨_, rfl, ?_⟩
  try dsimp only
  with_reducible repeat' (first
    | apply Keeps.refl
    | apply State.live_keeps _ (Keeps.refl _)
    | apply (State.slot_keeps _ _ _ _ ?_).after
    | apply (State.putF_keeps _ _ _ _).after
    | apply (State.countAlu_keeps _ _).after
    | apply (State.bf2_keeps _ _ _ _ _ _).after
    | apply keeps_ite
    | split
    | intro _)

theorem execSub_keeps (e : Nat) (b : Option Nat) (kd k1 k2 : Nat) (s : State) : ∃ s₁, execSub e b kd k1 k2 s = .next s₁ ∧ Keeps s s₁ := by
  refine ⟨_, rfl, ?_⟩
  try dsimp only
  with_reducible repeat' (first
    | apply Keeps.refl
    | apply State.live_keeps _ (Keeps.refl _)
    | apply (State.slot_keeps _ _ _ _ ?_).after
    | apply (State.putF_keeps _ _ _ _).after
    | apply (State.countAlu_keeps _ _).after
    | apply (State.bf2_keeps _ _ _ _ _ _).after
    | apply keeps_ite
    | split
    | intro _)

theorem execMin_keeps (e : Nat) (b : Option Nat) (kd k1 k2 : Nat) (s : State) : ∃ s₁, execMin e b kd k1 k2 s = .next s₁ ∧ Keeps s s₁ := by
  refine ⟨_, rfl, ?_⟩
  try dsimp only
  with_reducible repeat' (first
    | apply Keeps.refl
    | apply State.live_keeps _ (Keeps.refl _)
    | apply (State.slot_keeps _ _ _ _ ?_).after
    | apply (State.putF_keeps _ _ _ _).after
    | apply (State.countAlu_keeps _ _).after
    | apply (State.bf1_keeps _ _ _ _ _).after
    | apply keeps_ite
    | split
    | intro _)

theorem execMax_keeps (e : Nat) (b : Option Nat) (kd k1 k2 : Nat) (s : State) : ∃ s₁, execMax e b kd k1 k2 s = .next s₁ ∧ Keeps s s₁ := by
  refine ⟨_, rfl, ?_⟩
  try dsimp only
  with_reducible repeat' (first
    | apply Keeps.refl
    | apply State.live_keeps _ (Keeps.refl _)
    | apply (State.slot_keeps _ _ _ _ ?_).after
    | apply (State.putF_keeps _ _ _ _).after
    | apply (State.countAlu_keeps _ _).after
    | apply (State.bf1_keeps _ _ _ _ _).after
    | apply keeps_ite
    | split
    | intro _)

theorem execAbs_keeps (e : Nat) (b : Option Nat) (kd k1 : Nat) (s : State) : ∃ s₁, execAbs e b kd k1 s = .next s₁ ∧ Keeps s s₁ := by
  refine ⟨_, rfl, ?_⟩
  try dsimp only
  with_reducible repeat' (first
    | apply Keeps.refl
    | apply State.live_keeps _ (Keeps.refl _)
    | apply (State.slot_keeps _ _ _ _ ?_).after
    | apply (State.putF_keeps _ _ _ _).after
    | apply (State.countAlu_keeps _ _).after
    | apply (State.bf1_keeps _ _ _ _ _).after
    | apply keeps_ite
    | split
    | intro _)

theorem execNeg_keeps (e : Nat) (b : Option Nat) (kd k1 : Nat) (s : State) : ∃ s₁, execNeg e b kd k1 s = .next s₁ ∧ Keeps s s₁ := by
  refine ⟨_, rfl, ?_⟩
  try dsimp only
  with_reducible repeat' (first
    | apply Keeps.refl
    | apply State.live_keeps _ (Keeps.refl _)
    | apply (State.slot_keeps _ _ _ _ ?_).after
    | apply (State.putF_keeps _ _ _ _).after
    | apply (State.countAlu_keeps _ _).after
    | apply (State.bf1_keeps _ _ _ _ _).after
    | apply keeps_ite
    | split
    | intro _)

theorem execClmp_keeps (e : Nat) (b : Option Nat) (kd k1 k2 : Nat) (s : State) : ∃ s₁, execClmp e b kd k1 k2 s = .next s₁ ∧ Keeps s s₁ := by
  refine ⟨_, rfl, ?_⟩
  try dsimp only
  with_reducible repeat' (first
    | apply Keeps.refl
    | apply State.live_keeps _ (Keeps.refl _)
    | apply (State.slot_keeps _ _ _ _ ?_).after
    | apply (State.putF_keeps _ _ _ _).after
    | apply (State.countAlu_keeps _ _).after
    | apply (State.bf1_keeps _ _ _ _ _).after
    | apply keeps_ite
    | split
    | intro _)

theorem execSeln_keeps (e : Nat) (b : Option Nat) (kd k1 k2 : Nat) (s : State) : ∃ s₁, execSeln e b kd k1 k2 s = .next s₁ ∧ Keeps s s₁ := by
  refine ⟨_, rfl, ?_⟩
  try dsimp only
  with_reducible repeat' (first
    | simp only [keeps_other, keeps_sys]
    | apply Keeps.refl
    | apply State.live_keeps _ (Keeps.refl _)
    | apply (State.slot_keeps _ _ _ _ ?_).after
    | apply (State.setInv_keeps _ _ _).after
    | apply (State.putF_keeps _ _ _ _).after
    | apply (State.countAlu_keeps _ _).after
    | apply (State.bf1_keeps _ _ _ _ _).after
    | apply keeps_ite
    | split
    | intro _)

theorem execScl_keeps (e : Nat) (b : Option Nat) (kd : Nat) (n : Int) (s : State) : ∃ s₁, execScl e b kd n s = .next s₁ ∧ Keeps s s₁ := by
  refine ⟨_, rfl, ?_⟩
  try dsimp only
  with_reducible repeat' (first
    | apply Keeps.refl
    | apply State.live_keeps _ (Keeps.refl _)
    | apply (State.slot_keeps _ _ _ _ ?_).after
    | apply (State.putM_keeps _ _ _ _).after
    | apply (State.putF_keeps _ _ _ _).after
    | apply (State.countAlu_keeps _ _).after
    | apply keeps_ite
    | split
    | intro _)

theorem execNrm_keeps (e : Nat) (b : Option Nat) (st h : Nat) (s : State) : ∃ s₁, execNrm e b st h s = .next s₁ ∧ Keeps s s₁ := by
  refine ⟨_, rfl, ?_⟩
  try dsimp only
  with_reducible repeat' (first
    | apply Keeps.refl
    | apply State.live_keeps _ (Keeps.refl _)
    | apply (State.programStop_keeps _ _ _).after
    | apply (State.slot_keeps _ _ _ _ ?_).after
    | apply (State.countAlu_keeps _ _).after
    | apply (State.normalise_keeps _ _ _ _).after
    | apply keeps_ite
    | split
    | intro _)

theorem execSete_keeps (e : Nat) (b : Option Nat) (st : Nat) (v : Int) (s : State) : ∃ s₁, execSete e b st v s = .next s₁ ∧ Keeps s s₁ := by
  refine ⟨_, rfl, ?_⟩
  try dsimp only
  with_reducible repeat' (first
    | simp only [keeps_other, keeps_sys]
    | apply Keeps.refl
    | apply State.live_keeps _ (Keeps.refl _)
    | apply (State.onRegs_keeps _ _ _).after
    | apply (State.programStop_keeps _ _ _).after
    | apply (State.slot_keeps _ _ _ _ ?_).after
    | apply (State.countAlu_keeps _ _).after
    | apply keeps_ite
    | split
    | intro _)

theorem execLdi_keeps (e : Nat) (b : Option Nat) (kd : Nat) (imm : Int) (s : State) : ∃ s₁, execLdi e b kd imm s = .next s₁ ∧ Keeps s s₁ := by
  refine ⟨_, rfl, ?_⟩
  try dsimp only
  with_reducible repeat' (first
    | apply Keeps.refl
    | apply State.live_keeps _ (Keeps.refl _)
    | apply (State.slot_keeps _ _ _ _ ?_).after
    | apply (State.setK_keeps _ _ _ _).after
    | apply (State.countAlu_keeps _ _).after
    | split
    | intro _)

theorem execAddi_keeps (e : Nat) (b : Option Nat) (kd : Nat) (imm : Int) (s : State) : ∃ s₁, execAddi e b kd imm s = .next s₁ ∧ Keeps s s₁ := by
  refine ⟨_, rfl, ?_⟩
  try dsimp only
  with_reducible repeat' (first
    | apply Keeps.refl
    | apply State.live_keeps _ (Keeps.refl _)
    | apply (State.slot_keeps _ _ _ _ ?_).after
    | apply (State.setK_keeps _ _ _ _).after
    | apply (State.countAlu_keeps _ _).after
    | split
    | intro _)

theorem execMovk_keeps (e : Nat) (b : Option Nat) (kd k1 : Nat) (s : State) : ∃ s₁, execMovk e b kd k1 s = .next s₁ ∧ Keeps s s₁ := by
  refine ⟨_, rfl, ?_⟩
  try dsimp only
  with_reducible repeat' (first
    | apply Keeps.refl
    | apply State.live_keeps _ (Keeps.refl _)
    | apply (State.slot_keeps _ _ _ _ ?_).after
    | apply (State.setK_keeps _ _ _ _).after
    | apply (State.countAlu_keeps _ _).after
    | apply (State.bf1_keeps _ _ _ _ _).after
    | apply keeps_ite
    | split
    | intro _)

theorem execFec_keeps (e : Nat) (b : Option Nat) (k1 m : Nat) (s : State) : ∃ s₁, execFec e b k1 m s = .next s₁ ∧ Keeps s s₁ := by
  refine ⟨_, rfl, ?_⟩
  try dsimp only
  with_reducible repeat' (first
    | simp only [keeps_other, keeps_sys]
    | apply Keeps.refl
    | apply State.live_keeps _ (Keeps.refl _)
    | apply (State.onEng_keeps _ _ _).after
    | apply (State.slot_keeps _ _ _ _ ?_).after
    | apply (State.countAlu_keeps _ _).after
    | split
    | intro _)

theorem execBeqz_keeps (e : Nat) (b : Option Nat) (k1 : Nat) (ofs : Int) (s : State) : ∃ s₁, execBeqz e b k1 ofs s = .next s₁ ∧ Keeps s s₁ := by
  refine ⟨_, rfl, ?_⟩
  try dsimp only
  with_reducible repeat' (first
    | apply Keeps.refl
    | apply State.live_keeps _ (Keeps.refl _)
    | apply (State.slot_keeps _ _ _ _ ?_).after
    | apply (State.branch_keeps _ _ _ _).after
    | split
    | intro _)

theorem execBnez_keeps (e : Nat) (b : Option Nat) (k1 : Nat) (ofs : Int) (s : State) : ∃ s₁, execBnez e b k1 ofs s = .next s₁ ∧ Keeps s s₁ := by
  refine ⟨_, rfl, ?_⟩
  try dsimp only
  with_reducible repeat' (first
    | apply Keeps.refl
    | apply State.live_keeps _ (Keeps.refl _)
    | apply (State.slot_keeps _ _ _ _ ?_).after
    | apply (State.branch_keeps _ _ _ _).after
    | split
    | intro _)

theorem execBltz_keeps (e : Nat) (b : Option Nat) (k1 : Nat) (ofs : Int) (s : State) : ∃ s₁, execBltz e b k1 ofs s = .next s₁ ∧ Keeps s s₁ := by
  refine ⟨_, rfl, ?_⟩
  try dsimp only
  with_reducible repeat' (first
    | apply Keeps.refl
    | apply State.live_keeps _ (Keeps.refl _)
    | apply (State.slot_keeps _ _ _ _ ?_).after
    | apply (State.branch_keeps _ _ _ _).after
    | split
    | intro _)

theorem execBgez_keeps (e : Nat) (b : Option Nat) (k1 : Nat) (ofs : Int) (s : State) : ∃ s₁, execBgez e b k1 ofs s = .next s₁ ∧ Keeps s s₁ := by
  refine ⟨_, rfl, ?_⟩
  try dsimp only
  with_reducible repeat' (first
    | apply Keeps.refl
    | apply State.live_keeps _ (Keeps.refl _)
    | apply (State.slot_keeps _ _ _ _ ?_).after
    | apply (State.branch_keeps _ _ _ _).after
    | split
    | intro _)

theorem execBqs_keeps (e : Nat) (b : Option Nat) (ofs : Int) (s : State) : ∃ s₁, execBqs e b ofs s = .next s₁ ∧ Keeps s s₁ := by
  refine ⟨_, rfl, ?_⟩
  try dsimp only
  with_reducible repeat' (first
    | apply Keeps.refl
    | apply State.live_keeps _ (Keeps.refl _)
    | apply (State.slot_keeps _ _ _ _ ?_).after
    | apply (State.branch_keeps _ _ _ _).after
    | split
    | intro _)

theorem execBrun_keeps (e : Nat) (b : Option Nat) (ofs : Int) (s : State) : ∃ s₁, execBrun e b ofs s = .next s₁ ∧ Keeps s s₁ := by
  refine ⟨_, rfl, ?_⟩
  try dsimp only
  with_reducible repeat' (first
    | apply Keeps.refl
    | apply State.live_keeps _ (Keeps.refl _)
    | apply (State.slot_keeps _ _ _ _ ?_).after
    | apply (State.branch_keeps _ _ _ _).after
    | split
    | intro _)

theorem execJmp_keeps (e : Nat) (b : Option Nat) (target : Nat) (s : State) : ∃ s₁, execJmp e b target s = .next s₁ ∧ Keeps s s₁ := by
  refine ⟨_, rfl, ?_⟩
  try dsimp only
  with_reducible repeat' (first
    | apply Keeps.refl
    | apply State.live_keeps _ (Keeps.refl _)
    | apply (State.slot_keeps _ _ _ _ ?_).after
    | apply (State.countAlu_keeps _ _).after
    | apply (State.jump_keeps _ _ _).after
    | split
    | intro _)

theorem execWait_keeps (e : Nat) (b : Option Nat) (bit : Nat) (s : State) : ∃ s₁, execWait e b bit s = .next s₁ ∧ Keeps s s₁ := by
  refine ⟨_, rfl, ?_⟩
  try dsimp only
  with_reducible repeat' (first
    | apply Keeps.refl
    | apply State.live_keeps _ (Keeps.refl _)
    | apply (State.slot_keeps _ _ _ _ ?_).after
    | apply (State.countAlu_keeps _ _).after
    | apply keeps_ite
    | split
    | intro _)

theorem execPub_keeps (e : Nat) (b : Option Nat) (k1 r : Nat) (s : State) : ∃ s₁, execPub e b k1 r s = .next s₁ ∧ Keeps s s₁ := by
  refine ⟨_, rfl, ?_⟩
  try dsimp only
  with_reducible repeat' (first
    | simp only [keeps_other, keeps_sys]
    | apply Keeps.refl
    | apply State.live_keeps _ (Keeps.refl _)
    | apply (State.onEng_keeps _ _ _).after
    | apply (State.slot_keeps _ _ _ _ ?_).after
    | apply (State.countAlu_keeps _ _).after
    | split
    | intro _)

theorem execEndInst_keeps (e : Nat) (b : Option Nat) (cycles : Nat) (s : State) : ∃ s₁, execEndInst e b cycles s = .next s₁ ∧ Keeps s s₁ := by
  refine ⟨_, rfl, ?_⟩
  try dsimp only
  with_reducible repeat' (first
    | simp only [keeps_other, keeps_sys]
    | apply Keeps.refl
    | apply (State.setFld_keeps _ _ _ _).after
    | apply State.live_keeps _ (Keeps.refl _)
    | apply (State.completed_keeps _ _).after
    | apply (State.onEng_keeps _ _ _).after
    | apply (State.slot_keeps _ _ _ _ ?_).after
    | apply (State.countAlu_keeps _ _).after
    | apply (State.commitStores_keeps _ _).after
    | apply (State.publish_keeps _ _ _ _ _).after
    | apply (State.monitorEnd_keeps _ _ _ _ _).after
    | apply (State.flagsEnd_keeps _ _).after
    | apply (keeps_foldl _ _ ?_ _).after
    | split
    | intro _)

theorem execLd_keeps (e : Nat) (b : Option Nat) (kd addr : Nat) (s : State) : ∃ s₁, execLd e b kd addr s = .next s₁ ∧ Keeps s s₁ := by
  refine ⟨_, rfl, ?_⟩
  try dsimp only
  with_reducible repeat' (first
    | apply Keeps.refl
    | apply State.live_keeps _ (Keeps.refl _)
    | apply (State.slot_keeps _ _ _ _ ?_).after
    | apply (State.putWord_keeps _ _ _ _ _).after
    | apply (State.loadAt_keeps _ _ _ _ ?_).after
    | split
    | intro _)

theorem execSt_keeps (e : Nat) (b : Option Nat) (kd addr : Nat) (s : State) : ∃ s₁, execSt e b kd addr s = .next s₁ ∧ Keeps s s₁ := by
  refine ⟨_, rfl, ?_⟩
  try dsimp only
  with_reducible repeat' (first
    | apply Keeps.refl
    | apply State.live_keeps _ (Keeps.refl _)
    | apply (State.slot_keeps _ _ _ _ ?_).after
    | apply (State.storeAt_keeps _ _ _ _).after
    | split
    | intro _)

theorem execLdx_keeps (e : Nat) (b : Option Nat) (kd kb : Nat) (ofs : Int) (s : State) : ∃ s₁, execLdx e b kd kb ofs s = .next s₁ ∧ Keeps s s₁ := by
  refine ⟨_, rfl, ?_⟩
  try dsimp only
  with_reducible repeat' (first
    | simp only [keeps_other, keeps_sys]
    | apply Keeps.refl
    | apply State.live_keeps _ (Keeps.refl _)
    | apply (State.programStop_keeps _ _ _).after
    | apply (State.slot_keeps _ _ _ _ ?_).after
    | apply (State.putWord_keeps _ _ _ _ _).after
    | apply (State.loadAt_keeps _ _ _ _ ?_).after
    | split
    | intro _)

theorem execStx_keeps (e : Nat) (b : Option Nat) (kd kb : Nat) (ofs : Int) (s : State) : ∃ s₁, execStx e b kd kb ofs s = .next s₁ ∧ Keeps s s₁ := by
  refine ⟨_, rfl, ?_⟩
  try dsimp only
  with_reducible repeat' (first
    | simp only [keeps_other, keeps_sys]
    | apply Keeps.refl
    | apply State.live_keeps _ (Keeps.refl _)
    | apply (State.programStop_keeps _ _ _).after
    | apply (State.slot_keeps _ _ _ _ ?_).after
    | apply (State.storeAt_keeps _ _ _ _).after
    | split
    | intro _)

theorem execLdc_keeps (e : Nat) (b : Option Nat) (kd addr : Nat) (s : State) : ∃ s₁, execLdc e b kd addr s = .next s₁ ∧ Keeps s s₁ := by
  refine ⟨_, rfl, ?_⟩
  try dsimp only
  with_reducible repeat' (first
    | apply Keeps.refl
    | apply State.live_keeps _ (Keeps.refl _)
    | apply (State.slot_keeps _ _ _ _ ?_).after
    | apply (State.putWord_keeps _ _ _ _ _).after
    | apply (State.loadAt_keeps _ _ _ _ ?_).after
    | split
    | intro _)

theorem execLdq_keeps (e : Nat) (b : Option Nat) (kd addr : Nat) (s : State) : ∃ s₁, execLdq e b kd addr s = .next s₁ ∧ Keeps s s₁ := by
  refine ⟨_, rfl, ?_⟩
  try dsimp only
  with_reducible repeat' (first
    | apply Keeps.refl
    | apply State.live_keeps _ (Keeps.refl _)
    | apply (State.slot_keeps _ _ _ _ ?_).after
    | apply (State.loadAt_keeps _ _ _ _ ?_).after
    | apply (State.loadQ_keeps _ _ _ _ _ _).after
    | split
    | intro _)

theorem execLdw_keeps (e : Nat) (b : Option Nat) (kd addr : Nat) (s : State) : ∃ s₁, execLdw e b kd addr s = .next s₁ ∧ Keeps s s₁ := by
  refine ⟨_, rfl, ?_⟩
  try dsimp only
  with_reducible repeat' (first
    | apply Keeps.refl
    | apply State.live_keeps _ (Keeps.refl _)
    | apply (State.slot_keeps _ _ _ _ ?_).after
    | apply (State.setK_keeps _ _ _ _).after
    | apply (State.loadAt_keeps _ _ _ _ ?_).after
    | split
    | intro _)

theorem execStw_keeps (e : Nat) (b : Option Nat) (kd addr : Nat) (s : State) : ∃ s₁, execStw e b kd addr s = .next s₁ ∧ Keeps s s₁ := by
  refine ⟨_, rfl, ?_⟩
  try dsimp only
  with_reducible repeat' (first
    | apply Keeps.refl
    | apply State.live_keeps _ (Keeps.refl _)
    | apply (State.slot_keeps _ _ _ _ ?_).after
    | apply (State.storeAt_keeps _ _ _ _).after
    | split
    | intro _)

theorem execLdp_keeps (e : Nat) (b : Option Nat) (kd kb : Nat) (s : State) : ∃ s₁, execLdp e b kd kb s = .next s₁ ∧ Keeps s s₁ := by
  refine ⟨_, rfl, ?_⟩
  try dsimp only
  with_reducible repeat' (first
    | apply Keeps.refl
    | apply State.live_keeps _ (Keeps.refl _)
    | apply (State.slot_keeps _ _ _ _ ?_).after
    | apply (State.countLoad_keeps _ _).after
    | apply (State.loadP_keeps _ _ _ _ _).after
    | split
    | intro _)

theorem execFollowTrip_keeps (e m : Nat) (s : State) : ∃ s₁, execFollowTrip e m s = .next s₁ ∧ Keeps s s₁ := by
  refine ⟨_, rfl, ?_⟩
  try dsimp only
  with_reducible repeat' (first
    | simp only [keeps_other, keeps_sys]
    | apply Keeps.refl
    | apply (State.setFlag_keeps _ _ _ _).after
    | apply (State.report_keeps _ _ _).after
    | apply State.live_keeps _ (Keeps.refl _)
    | apply (State.onEng_keeps _ _ _).after
    | apply keeps_ite
    | split
    | intro _)

theorem execEntryRebuilt_keeps (s : State) : ∃ s₁, execEntryRebuilt s = .next s₁ ∧ Keeps s s₁ := by
  refine ⟨_, rfl, ?_⟩
  try dsimp only
  with_reducible repeat' (first
    | apply Keeps.refl
    | apply State.live_keeps _ (Keeps.refl _)
    | apply (State.rebuildStep_keeps _).after
    | apply keeps_ite
    | split
    | intro _)

theorem execBudgetInvalid_keeps (which : Input) (s : State) : ∃ s₁, execBudgetInvalid which s = .next s₁ ∧ Keeps s s₁ := by
  refine ⟨_, rfl, ?_⟩
  try dsimp only
  with_reducible repeat' (first
    | simp only [keeps_other, keeps_sys]
    | apply Keeps.refl
    | apply (State.report_keeps _ _ _).after
    | apply State.live_keeps _ (Keeps.refl _)
    | apply (State.onTrs_keeps _ _).after
    | apply keeps_ite
    | split
    | intro _)

theorem execPrechargeTimeout_keeps (b : Nat) (s : State) : ∃ s₁, execPrechargeTimeout b s = .next s₁ ∧ Keeps s s₁ := by
  refine ⟨_, rfl, ?_⟩
  try dsimp only
  with_reducible repeat' (first
    | simp only [keeps_other, keeps_sys]
    | apply Keeps.refl
    | apply (State.report_keeps _ _ _).after
    | apply State.live_keeps _ (Keeps.refl _)
    | apply (State.onTrs_keeps _ _).after
    | apply (State.trussRecord_keeps _ _ _ _ _).after
    | apply (State.replan_keeps _).after
    | apply keeps_ite
    | split
    | intro _)

theorem execContactorFeedback_keeps (x : Nat) (s : State) : ∃ s₁, execContactorFeedback x s = .next s₁ ∧ Keeps s s₁ := by
  refine ⟨_, rfl, ?_⟩
  try dsimp only
  with_reducible repeat' (first
    | simp only [keeps_other, keeps_sys]
    | apply Keeps.refl
    | apply (State.setFld_keeps _ _ _ _).after
    | apply State.live_keeps _ (Keeps.refl _)
    | apply (State.replan_keeps _).after
    | apply (State.contactorFault_keeps _ _ _ _).after
    | apply keeps_ite
    | split
    | intro _)

theorem execFailClose_keeps (x : Nat) (s : State) : ∃ s₁, execFailClose x s = .next s₁ ∧ Keeps s s₁ := by
  refine ⟨_, rfl, ?_⟩
  try dsimp only
  with_reducible repeat' (first
    | apply Keeps.refl
    | apply State.live_keeps _ (Keeps.refl _)
    | apply (State.contactorFault_keeps _ _ _ _).after
    | apply keeps_ite
    | split
    | intro _)

theorem execWelded_keeps (x : Nat) (s : State) : ∃ s₁, execWelded x s = .next s₁ ∧ Keeps s s₁ := by
  refine ⟨_, rfl, ?_⟩
  try dsimp only
  with_reducible repeat' (first
    | apply Keeps.refl
    | apply State.live_keeps _ (Keeps.refl _)
    | apply (State.contactorFault_keeps _ _ _ _).after
    | apply keeps_ite
    | split
    | intro _)

theorem execBayRelease_keeps (o : Nat) (s : State) : ∃ s₁, execBayRelease o s = .next s₁ ∧ Keeps s s₁ := by
  refine ⟨_, rfl, ?_⟩
  try dsimp only
  with_reducible repeat' (first
    | simp only [keeps_other, keeps_sys]
    | apply Keeps.refl
    | apply State.live_keeps _ (Keeps.refl _)
    | apply (State.onTrs_keeps _ _).after
    | apply (State.replan_keeps _).after
    | apply keeps_ite
    | split
    | intro _)

theorem execExchangeRecord_keeps (bytes : List Byte) (s : State) : ∃ s₁, execExchangeRecord bytes s = .next s₁ ∧ Keeps s s₁ := by
  refine ⟨_, rfl, ?_⟩
  try dsimp only
  with_reducible repeat' (first
    | apply Keeps.refl
    | apply (State.setFld_keeps _ _ _ _).after
    | apply (State.bumpSat_keeps _ _ _).after
    | apply State.live_keeps _ (Keeps.refl _)
    | apply (State.violation_keeps _ _ _ _ _ _ _ _ _).after
    | apply (State.keepRecord_keeps _ _).after
    | apply (State.loanCheck_keeps _ _).after
    | apply keeps_ite
    | split
    | intro _)

theorem execPeerFallback_keeps (s : State) : ∃ s₁, execPeerFallback s = .next s₁ ∧ Keeps s s₁ := by
  refine ⟨_, rfl, ?_⟩
  try dsimp only
  with_reducible repeat' (first
    | simp only [keeps_other, keeps_sys]
    | apply Keeps.refl
    | apply (State.setFld_keeps _ _ _ _).after
    | apply (State.report_keeps _ _ _).after
    | apply State.live_keeps _ (Keeps.refl _)
    | apply (State.onTrs_keeps _ _).after
    | apply (State.trussRecord_keeps _ _ _ _ _).after
    | apply (State.invalidate_keeps _ _ _).after
    | apply keeps_ite
    | split
    | intro _)

theorem execFallbackEnd_keeps (s : State) : ∃ s₁, execFallbackEnd s = .next s₁ ∧ Keeps s s₁ := by
  refine ⟨_, rfl, ?_⟩
  try dsimp only
  with_reducible repeat' (first
    | apply Keeps.refl
    | apply (State.setFld_keeps _ _ _ _).after
    | apply State.live_keeps _ (Keeps.refl _)
    | apply keeps_ite
    | split
    | intro _)

theorem execCableSample_keeps (c : Nat) (s : State) : ∃ s₁, execCableSample c s = .next s₁ ∧ Keeps s s₁ := by
  refine ⟨_, rfl, ?_⟩
  try dsimp only
  with_reducible repeat' (first
    | simp only [keeps_other, keeps_sys]
    | apply Keeps.refl
    | apply (State.setFld_keeps _ _ _ _).after
    | apply (State.setFlag_keeps _ _ _ _).after
    | apply (State.report_keeps _ _ _).after
    | apply State.live_keeps _ (Keeps.refl _)
    | apply (State.onCable_keeps _ _ _).after
    | apply keeps_ite
    | split
    | intro _)

theorem execSensorRecovered_keeps (c : Nat) (s : State) : ∃ s₁, execSensorRecovered c s = .next s₁ ∧ Keeps s s₁ := by
  refine ⟨_, rfl, ?_⟩
  try dsimp only
  with_reducible repeat' (first
    | apply Keeps.refl
    | apply (State.setFld_keeps _ _ _ _).after
    | apply (State.setFlag_keeps _ _ _ _).after
    | apply State.live_keeps _ (Keeps.refl _)
    | apply keeps_ite
    | split
    | intro _)

theorem execFastSamplingEnd_keeps (c : Nat) (s : State) : ∃ s₁, execFastSamplingEnd c s = .next s₁ ∧ Keeps s s₁ := by
  refine ⟨_, rfl, ?_⟩
  try dsimp only
  with_reducible repeat' (first
    | simp only [keeps_other, keeps_sys]
    | apply Keeps.refl
    | apply (State.setFlag_keeps _ _ _ _).after
    | apply State.live_keeps _ (Keeps.refl _)
    | apply keeps_ite
    | split
    | intro _)

theorem execHeatBalance_keeps (c : Nat) (s : State) : ∃ s₁, execHeatBalance c s = .next s₁ ∧ Keeps s s₁ := by
  refine ⟨_, rfl, ?_⟩
  try dsimp only
  with_reducible repeat' (first
    | simp only [keeps_other, keeps_sys]
    | apply Keeps.refl
    | apply (State.setFlag_keeps _ _ _ _).after
    | apply (State.report_keeps _ _ _).after
    | apply State.live_keeps _ (Keeps.refl _)
    | apply (State.onCable_keeps _ _ _).after
    | apply (State.cableStart_keeps _ _).after
    | apply (State.cableHeat_keeps _ _).after
    | apply keeps_ite
    | split
    | intro _)

theorem execCoolingUpdate_keeps (s : State) : ∃ s₁, execCoolingUpdate s = .next s₁ ∧ Keeps s s₁ := by
  refine ⟨_, rfl, ?_⟩
  try dsimp only
  with_reducible repeat' (first
    | apply Keeps.refl
    | apply State.live_keeps _ (Keeps.refl _)
    | apply (State.stepCables_keeps _).after
    | apply (State.coolLoop_keeps _ _).after
    | apply keeps_ite
    | apply (keeps_foldl _ _ ?_ _).after
    | split
    | intro _)

end Sys2Proof.Machine
end

