-- ==== Sys2Proof/Laws/KeepsExec2.lean ====
section
/-! SUPPORT. Every command of Machine/PegCore.lean, Machine/Assay.lean, Machine/AssayCmd.lean, Machine/Mortise.lean, Machine/Network.lean, Machine/Pair.lean answers a next state, and what that state keeps. -/

namespace Sys2Proof.Machine

open Sys2Proof

theorem execDieSample_keeps (t : List Int) (s : State) : ∃ s₁, execDieSample t s = .next s₁ ∧ Keeps s s₁ := by
  refine ⟨_, rfl, ?_⟩
  try dsimp only
  with_reducible repeat' (first
    | apply Keeps.refl
    | apply State.live_keeps _ (Keeps.refl _)
    | apply (State.dieSample_keeps _ _).after
    | split
    | intro _)

theorem execDieCriticalEnd_keeps (s : State) : ∃ s₁, execDieCriticalEnd s = .next s₁ ∧ Keeps s s₁ := by
  refine ⟨_, rfl, ?_⟩
  try dsimp only
  with_reducible repeat' (first
    | simp only [keeps_other, keeps_sys]
    | apply Keeps.refl
    | apply (State.setFld_keeps _ _ _ _).after
    | apply State.live_keeps _ (Keeps.refl _)
    | apply (State.onBlw_keeps _ _).after
    | apply keeps_ite
    | split
    | intro _)

theorem execThrottleUp_keeps (s : State) : ∃ s₁, execThrottleUp s = .next s₁ ∧ Keeps s s₁ := by
  refine ⟨_, rfl, ?_⟩
  try dsimp only
  with_reducible repeat' (first
    | simp only [keeps_other, keeps_sys]
    | apply Keeps.refl
    | apply State.live_keeps _ (Keeps.refl _)
    | apply (State.onBlw_keeps _ _).after
    | apply (State.throttle_keeps _ _).after
    | apply keeps_ite
    | split
    | intro _)

theorem execThrottleDown_keeps (s : State) : ∃ s₁, execThrottleDown s = .next s₁ ∧ Keeps s s₁ := by
  refine ⟨_, rfl, ?_⟩
  try dsimp only
  with_reducible repeat' (first
    | simp only [keeps_other, keeps_sys]
    | apply Keeps.refl
    | apply State.live_keeps _ (Keeps.refl _)
    | apply (State.onBlw_keeps _ _).after
    | apply (State.throttle_keeps _ _).after
    | apply keeps_ite
    | split
    | intro _)

theorem execAssaySample_keeps (x : MeterSample) (s : State) : ∃ s₁, execAssaySample x s = .next s₁ ∧ Keeps s s₁ := by
  refine ⟨_, rfl, ?_⟩
  try dsimp only
  with_reducible repeat' (first
    | apply Keeps.refl
    | apply State.live_keeps _ (Keeps.refl _)
    | apply (State.assaySample_keeps _ _).after
    | apply keeps_ite
    | split
    | intro _)

theorem execAssayCheckFaultEnd_keeps (s : State) : ∃ s₁, execAssayCheckFaultEnd s = .next s₁ ∧ Keeps s s₁ := by
  refine ⟨_, rfl, ?_⟩
  try dsimp only
  with_reducible repeat' (first
    | apply Keeps.refl
    | apply (State.setFld_keeps _ _ _ _).after
    | apply State.live_keeps _ (Keeps.refl _)
    | apply (State.closeAcGaps_keeps _).after
    | apply keeps_ite
    | split
    | intro _)

theorem execMeterFaultEnd_keeps (n : Nat) (s : State) : ∃ s₁, execMeterFaultEnd n s = .next s₁ ∧ Keeps s s₁ := by
  refine ⟨_, rfl, ?_⟩
  try dsimp only
  with_reducible repeat' (first
    | apply Keeps.refl
    | apply (State.setFld_keeps _ _ _ _).after
    | apply State.live_keeps _ (Keeps.refl _)
    | apply (State.closeGap_keeps _ _).after
    | apply (State.showMeter_keeps _).after
    | apply keeps_ite
    | split
    | intro _)

theorem execDcPlausibility_keeps (n : Nat) (s : State) : ∃ s₁, execDcPlausibility n s = .next s₁ ∧ Keeps s s₁ := by
  refine ⟨_, rfl, ?_⟩
  try dsimp only
  with_reducible repeat' (first
    | apply Keeps.refl
    | apply State.live_keeps _ (Keeps.refl _)
    | apply (State.plausible_keeps _ _).after
    | split
    | intro _)

theorem execEnergySave_keeps (s : State) : ∃ s₁, execEnergySave s = .next s₁ ∧ Keeps s s₁ := by
  refine ⟨_, rfl, ?_⟩
  try dsimp only
  with_reducible repeat' (first
    | apply Keeps.refl
    | apply State.live_keeps _ (Keeps.refl _)
    | apply (State.saveEnergy_keeps _ _ _).after
    | apply keeps_ite
    | split
    | intro _)

theorem execDrift_keeps (s : State) : ∃ s₁, execDrift s = .next s₁ ∧ Keeps s s₁ := by
  refine ⟨_, rfl, ?_⟩
  try dsimp only
  with_reducible repeat' (first
    | apply Keeps.refl
    | apply State.live_keeps _ (Keeps.refl _)
    | apply (State.driftWindow_keeps _).after
    | split
    | intro _)

theorem execTestPulseEnd_keeps (t : Nat) (s : State) : ∃ s₁, execTestPulseEnd t s = .next s₁ ∧ Keeps s s₁ := by
  refine ⟨_, rfl, ?_⟩
  try dsimp only
  with_reducible repeat' (first
    | simp only [keeps_other, keeps_sys]
    | apply Keeps.refl
    | apply State.live_keeps _ (Keeps.refl _)
    | apply (State.onAsy_keeps _ _).after
    | split
    | intro _)

theorem execPendingPulseStart_keeps (t : Nat) (s : State) : ∃ s₁, execPendingPulseStart t s = .next s₁ ∧ Keeps s s₁ := by
  refine ⟨_, rfl, ?_⟩
  try dsimp only
  with_reducible repeat' (first
    | apply Keeps.refl
    | apply (State.setFld_keeps _ _ _ _).after
    | apply State.live_keeps _ (Keeps.refl _)
    | apply (State.startPulse_keeps _ _ _).after
    | apply keeps_ite
    | split
    | intro _)

theorem execPqConfig_keeps (s : State) : ∃ s₁, execPqConfig s = .next s₁ ∧ Keeps s s₁ := by
  refine ⟨_, rfl, ?_⟩
  try dsimp only
  with_reducible repeat' (first
    | apply Keeps.refl
    | apply (State.setReg_keeps _ _ _ _).after
    | apply State.live_keeps _ (Keeps.refl _)
    | apply (State.mail_keeps _ _ _ ?_).after
    | apply (okMail_keeps _).after
    | apply (noMail_keeps _ _).after
    | apply keeps_ite
    | apply keeps_ite_snd
    | apply (State.each_keeps _ _ _ ?_).after
    | split
    | intro _)

theorem execNonlegalStage_keeps (s : State) : ∃ s₁, execNonlegalStage s = .next s₁ ∧ Keeps s s₁ := by
  refine ⟨_, rfl, ?_⟩
  try dsimp only
  with_reducible repeat' (first
    | simp only [keeps_other, keeps_sys]
    | apply Keeps.refl
    | apply State.live_keeps _ (Keeps.refl _)
    | apply (State.onAsy_keeps _ _).after
    | apply (State.mail_keeps _ _ _ ?_).after
    | apply (okMail_keeps _).after
    | apply (noMail_keeps _ _).after
    | split
    | intro _)

theorem execTxnStart_keeps (s : State) : ∃ s₁, execTxnStart s = .next s₁ ∧ Keeps s s₁ := by
  refine ⟨_, rfl, ?_⟩
  try dsimp only
  with_reducible repeat' (first
    | simp only [keeps_other, keeps_sys]
    | apply Keeps.refl
    | apply (State.setFld_keeps _ _ _ _).after
    | apply (State.setFlag_keeps _ _ _ _).after
    | apply State.live_keeps _ (Keeps.refl _)
    | apply (State.onAsy_keeps _ _).after
    | apply (State.onDisc_keeps _ _ _).after
    | apply (State.setCredit_keeps _ _ _).after
    | apply (State.writeRec_keeps _ _ _ _).after
    | apply (State.judgeCredit_keeps _ _).after
    | apply (State.discClose_keeps _ _).after
    | apply (State.mail_keeps _ _ _ ?_).after
    | apply (okMail_keeps _).after
    | apply (noMail_keeps _ _).after
    | apply keeps_ite
    | apply keeps_ite_snd
    | split
    | intro _)

theorem execTxnStop_keeps (s : State) : ∃ s₁, execTxnStop s = .next s₁ ∧ Keeps s s₁ := by
  refine ⟨_, rfl, ?_⟩
  try dsimp only
  with_reducible repeat' (first
    | apply Keeps.refl
    | apply State.live_keeps _ (Keeps.refl _)
    | apply (State.stopTxn_keeps _ _ _).after
    | apply (State.mail_keeps _ _ _ ?_).after
    | apply (okMail_keeps _).after
    | apply (noMail_keeps _ _).after
    | apply keeps_ite
    | apply keeps_ite_snd
    | split
    | intro _)

theorem execCreditAdd_keeps (s : State) : ∃ s₁, execCreditAdd s = .next s₁ ∧ Keeps s s₁ := by
  refine ⟨_, rfl, ?_⟩
  try dsimp only
  with_reducible repeat' (first
    | apply Keeps.refl
    | apply (State.setFld_keeps _ _ _ _).after
    | apply State.live_keeps _ (Keeps.refl _)
    | apply (State.setCredit_keeps _ _ _).after
    | apply (State.writeRec_keeps _ _ _ _).after
    | apply (State.mail_keeps _ _ _ ?_).after
    | apply (okMail_keeps _).after
    | apply (noMail_keeps _ _).after
    | apply keeps_ite
    | apply keeps_ite_snd
    | split
    | intro _)

theorem execTariffSchedule_keeps (s : State) : ∃ s₁, execTariffSchedule s = .next s₁ ∧ Keeps s s₁ := by
  refine ⟨_, rfl, ?_⟩
  try dsimp only
  with_reducible repeat' (first
    | simp only [keeps_other, keeps_sys]
    | apply Keeps.refl
    | apply State.live_keeps _ (Keeps.refl _)
    | apply (State.onAsy_keeps _ _).after
    | apply (State.showSwitches_keeps _).after
    | apply (State.mail_keeps _ _ _ ?_).after
    | apply (okMail_keeps _).after
    | apply (noMail_keeps _ _).after
    | apply keeps_ite
    | apply keeps_ite_snd
    | split
    | intro _)

theorem execTariffCancel_keeps (s : State) : ∃ s₁, execTariffCancel s = .next s₁ ∧ Keeps s s₁ := by
  refine ⟨_, rfl, ?_⟩
  try dsimp only
  with_reducible repeat' (first
    | simp only [keeps_other, keeps_sys]
    | apply Keeps.refl
    | apply State.live_keeps _ (Keeps.refl _)
    | apply (State.onAsy_keeps _ _).after
    | apply (State.showSwitches_keeps _).after
    | apply (State.mail_keeps _ _ _ ?_).after
    | apply (okMail_keeps _).after
    | apply (noMail_keeps _ _).after
    | apply keeps_ite
    | apply keeps_ite_snd
    | split
    | intro _)

theorem execIntervalSet_keeps (s : State) : ∃ s₁, execIntervalSet s = .next s₁ ∧ Keeps s s₁ := by
  refine ⟨_, rfl, ?_⟩
  try dsimp only
  with_reducible repeat' (first
    | simp only [keeps_other, keeps_sys]
    | apply Keeps.refl
    | apply State.live_keeps _ (Keeps.refl _)
    | apply (State.onAsy_keeps _ _).after
    | apply (State.mail_keeps _ _ _ ?_).after
    | apply (okMail_keeps _).after
    | apply (noMail_keeps _ _).after
    | apply keeps_ite
    | apply keeps_ite_snd
    | split
    | intro _)

theorem execWallSet_keeps (s : State) : ∃ s₁, execWallSet s = .next s₁ ∧ Keeps s s₁ := by
  refine ⟨_, rfl, ?_⟩
  try dsimp only
  with_reducible repeat' (first
    | simp only [keeps_other, keeps_sys]
    | apply Keeps.refl
    | apply State.live_keeps _ (Keeps.refl _)
    | apply (State.onAsy_keeps _ _).after
    | apply (State.showSync_keeps _).after
    | apply (State.writeRec_keeps _ _ _ _).after
    | apply (State.mail_keeps _ _ _ ?_).after
    | apply (okMail_keeps _).after
    | apply (noMail_keeps _ _).after
    | apply keeps_ite
    | apply keeps_ite_snd
    | split
    | intro _)

theorem execTariffSwitch_keeps (s : State) : ∃ s₁, execTariffSwitch s = .next s₁ ∧ Keeps s s₁ := by
  refine ⟨_, rfl, ?_⟩
  try dsimp only
  with_reducible repeat' (first
    | apply Keeps.refl
    | apply State.live_keeps _ (Keeps.refl _)
    | apply (State.boundaryRecord_keeps _ _).after
    | apply keeps_ite
    | split
    | intro _)

theorem execIntervalClose_keeps (s : State) : ∃ s₁, execIntervalClose s = .next s₁ ∧ Keeps s s₁ := by
  refine ⟨_, rfl, ?_⟩
  try dsimp only
  with_reducible repeat' (first
    | apply Keeps.refl
    | apply State.live_keeps _ (Keeps.refl _)
    | apply (State.boundaryRecord_keeps _ _).after
    | apply keeps_ite
    | split
    | intro _)

theorem execWallUnsync_keeps (s : State) : ∃ s₁, execWallUnsync s = .next s₁ ∧ Keeps s s₁ := by
  refine ⟨_, rfl, ?_⟩
  try dsimp only
  with_reducible repeat' (first
    | apply Keeps.refl
    | apply State.live_keeps _ (Keeps.refl _)
    | apply (State.showSync_keeps _).after
    | split
    | intro _)

theorem execConfig_keeps (s : State) : ∃ s₁, execConfig s = .next s₁ ∧ Keeps s s₁ := by
  refine ⟨_, rfl, ?_⟩
  try dsimp only
  with_reducible repeat' (first
    | simp only [keeps_other, keeps_sys]
    | apply Keeps.refl
    | apply State.live_keeps _ (Keeps.refl _)
    | apply (State.onAsy_keeps _ _).after
    | apply (State.onDisc_keeps _ _ _).after
    | apply (State.mail_keeps _ _ _ ?_).after
    | apply (okMail_keeps _).after
    | apply (noMail_keeps _ _).after
    | apply keeps_ite
    | apply keeps_ite_snd
    | apply (State.each_keeps _ _ _ ?_).after
    | split
    | intro _)

theorem execSealBreak_keeps (sw : Bool) (s : State) : ∃ s₁, execSealBreak sw s = .next s₁ ∧ Keeps s s₁ := by
  refine ⟨_, rfl, ?_⟩
  try dsimp only
  with_reducible repeat' (first
    | apply Keeps.refl
    | apply (State.setFld_keeps _ _ _ _).after
    | apply State.live_keeps _ (Keeps.refl _)
    | apply (State.stopTxn_keeps _ _ _).after
    | apply (State.mail_keeps _ _ _ ?_).after
    | apply (okMail_keeps _).after
    | apply (noMail_keeps _ _).after
    | apply (State.sealRecord_keeps _ _ _ _).after
    | apply keeps_ite
    | apply keeps_ite_snd
    | apply (State.each_keeps _ _ _ ?_).after
    | split
    | intro _)

theorem execSealClose_keeps (s : State) : ∃ s₁, execSealClose s = .next s₁ ∧ Keeps s s₁ := by
  refine ⟨_, rfl, ?_⟩
  try dsimp only
  with_reducible repeat' (first
    | apply Keeps.refl
    | apply (State.setReg_keeps _ _ _ _).after
    | apply (State.setFld_keeps _ _ _ _).after
    | apply State.live_keeps _ (Keeps.refl _)
    | apply (State.mail_keeps _ _ _ ?_).after
    | apply (okMail_keeps _).after
    | apply (noMail_keeps _ _).after
    | apply (State.sealRecord_keeps _ _ _ _).after
    | apply keeps_ite
    | apply keeps_ite_snd
    | split
    | intro _)

theorem execLegalStage_keeps (s : State) : ∃ s₁, execLegalStage s = .next s₁ ∧ Keeps s s₁ := by
  refine ⟨_, rfl, ?_⟩
  try dsimp only
  with_reducible repeat' (first
    | simp only [keeps_other, keeps_sys]
    | apply Keeps.refl
    | apply State.live_keeps _ (Keeps.refl _)
    | apply (State.fetch_keeps _ _ _ _).after
    | apply (State.bind_keeps _ _ _ _).after
    | apply (State.onAsy_keeps _ _).after
    | apply (State.mail_keeps _ _ _ ?_).after
    | apply (okMail_keeps _).after
    | apply (noMail_keeps _ _).after
    | apply keeps_ite
    | apply keeps_ite_snd
    | split
    | intro _)

theorem execSealedChange_keeps (s : State) : ∃ s₁, execSealedChange s = .next s₁ ∧ Keeps s s₁ := by
  refine ⟨_, rfl, ?_⟩
  try dsimp only
  with_reducible repeat' (first
    | simp only [keeps_other, keeps_sys]
    | apply Keeps.refl
    | apply State.live_keeps _ (Keeps.refl _)
    | apply (State.onAsy_keeps _ _).after
    | apply (State.showPfs_keeps _).after
    | apply (State.applyRws_keeps _ _ _ _).after
    | apply keeps_ite
    | apply (keeps_foldl _ _ ?_ _).after
    | split
    | intro _)

theorem execHallmarkSigned_keeps (s : State) : ∃ s₁, execHallmarkSigned s = .next s₁ ∧ Keeps s s₁ := by
  refine ⟨_, rfl, ?_⟩
  try dsimp only
  with_reducible repeat' (first
    | apply Keeps.refl
    | apply State.live_keeps _ (Keeps.refl _)
    | apply (State.signFront_keeps _).after
    | split
    | intro _)

theorem execDisconnectOpen_keeps (o : Nat) (s : State) : ∃ s₁, execDisconnectOpen o s = .next s₁ ∧ Keeps s s₁ := by
  refine ⟨_, rfl, ?_⟩
  try dsimp only
  with_reducible repeat' (first
    | apply Keeps.refl
    | apply State.live_keeps _ (Keeps.refl _)
    | apply (State.discOpen_keeps _ _ _).after
    | apply keeps_ite
    | split
    | intro _)

theorem execDiscWaitExpiry_keeps (o : Nat) (s : State) : ∃ s₁, execDiscWaitExpiry o s = .next s₁ ∧ Keeps s s₁ := by
  refine ⟨_, rfl, ?_⟩
  try dsimp only
  with_reducible repeat' (first
    | simp only [keeps_other, keeps_sys]
    | apply Keeps.refl
    | apply (State.report_keeps _ _ _).after
    | apply State.live_keeps _ (Keeps.refl _)
    | apply (State.discOpen_keeps _ _ _).after
    | apply keeps_ite
    | split
    | intro _)

theorem execDisconnectFeedbackTimeout_keeps (o : Nat) (s : State) : ∃ s₁, execDisconnectFeedbackTimeout o s = .next s₁ ∧ Keeps s s₁ := by
  refine ⟨_, rfl, ?_⟩
  try dsimp only
  with_reducible repeat' (first
    | simp only [keeps_other, keeps_sys]
    | apply Keeps.refl
    | apply State.live_keeps _ (Keeps.refl _)
    | apply (State.onDisc_keeps _ _ _).after
    | apply (State.discFault_keeps _ _ _).after
    | apply (State.discTake_keeps _ _).after
    | apply keeps_ite
    | split
    | intro _)

theorem execDisconnectDropout_keeps (o : Nat) (s : State) : ∃ s₁, execDisconnectDropout o s = .next s₁ ∧ Keeps s s₁ := by
  refine ⟨_, rfl, ?_⟩
  try dsimp only
  with_reducible repeat' (first
    | apply Keeps.refl
    | apply State.live_keeps _ (Keeps.refl _)
    | apply (State.discFault_keeps _ _ _).after
    | apply (State.discTake_keeps _ _).after
    | apply keeps_ite
    | split
    | intro _)

theorem execAssayRestart_keeps (s : State) : ∃ s₁, execAssayRestart s = .next s₁ ∧ Keeps s s₁ := by
  refine ⟨_, rfl, ?_⟩
  try dsimp only
  with_reducible repeat' (first
    | simp only [keeps_other, keeps_sys]
    | apply Keeps.refl
    | apply (State.setReg_keeps _ _ _ _).after
    | apply State.live_keeps _ (Keeps.refl _)
    | apply (State.onAsy_keeps _ _).after
    | apply (State.assayReset_keeps _ _).after
    | apply keeps_ite
    | split
    | intro _)

theorem execAssayStart_keeps (s : State) : ∃ s₁, execAssayStart s = .next s₁ ∧ Keeps s s₁ := by
  refine ⟨_, rfl, ?_⟩
  try dsimp only
  with_reducible repeat' (first
    | apply Keeps.refl
    | apply State.live_keeps _ (Keeps.refl _)
    | apply (State.assayStart_keeps _).after
    | apply keeps_ite
    | split
    | intro _)

theorem execInputChannelChange_keeps (n : Nat) (chB level : Bool) (s : State) : ∃ s₁, execInputChannelChange n chB level s = .next s₁ ∧ Keeps s s₁ := by
  refine ⟨_, rfl, ?_⟩
  try dsimp only
  with_reducible repeat' (first
    | apply Keeps.refl
    | apply State.live_keeps _ (Keeps.refl _)
    | apply (State.channelChange_keeps _ _ _ _).after
    | split
    | intro _)

theorem execDiscrepancy_keeps (n : Nat) (s : State) : ∃ s₁, execDiscrepancy n s = .next s₁ ∧ Keeps s s₁ := by
  refine ⟨_, rfl, ?_⟩
  try dsimp only
  with_reducible repeat' (first
    | simp only [keeps_other, keeps_sys]
    | apply Keeps.refl
    | apply State.live_keeps _ (Keeps.refl _)
    | apply (State.inFault_keeps _ _ _ _).after
    | apply keeps_ite
    | split
    | intro _)

theorem execSupplyPulse_keeps (j : Nat) (before low after : List Nat) (s : State) : ∃ s₁, execSupplyPulse j before low after s = .next s₁ ∧ Keeps s s₁ := by
  refine ⟨_, rfl, ?_⟩
  try dsimp only
  with_reducible repeat' (first
    | simp only [keeps_other, keeps_sys]
    | apply Keeps.refl
    | apply State.live_keeps _ (Keeps.refl _)
    | apply (State.slot_keeps _ _ _ _ ?_).after
    | apply (State.onMrt_keeps _ _).after
    | apply (State.supplyPulse_keeps _ _ _ _ _).after
    | apply keeps_ite
    | split
    | intro _)

theorem execReadbackCheck_keeps (k : Nat) (rb : Bool) (s : State) : ∃ s₁, execReadbackCheck k rb s = .next s₁ ∧ Keeps s s₁ := by
  refine ⟨_, rfl, ?_⟩
  try dsimp only
  with_reducible repeat' (first
    | apply Keeps.refl
    | apply State.live_keeps _ (Keeps.refl _)
    | apply (State.chanFault_keeps _ _).after
    | apply (State.seeReadback_keeps _ _ _).after
    | apply keeps_ite
    | split
    | intro _)

theorem execEnergiseCheckStep_keeps (k : Nat) (rb : Bool) (s : State) : ∃ s₁, execEnergiseCheckStep k rb s = .next s₁ ∧ Keeps s s₁ := by
  refine ⟨_, rfl, ?_⟩
  try dsimp only
  with_reducible repeat' (first
    | simp only [keeps_other, keeps_sys]
    | apply Keeps.refl
    | apply State.live_keeps _ (Keeps.refl _)
    | apply (State.onChan_keeps _ _ _).after
    | apply (State.setChanBit_keeps _ _ _ _).after
    | apply (State.chanFault_keeps _ _).after
    | apply (State.seeReadback_keeps _ _ _).after
    | apply (State.torqueOn_keeps _ _).after
    | apply keeps_ite
    | split
    | intro _)

theorem execDarkTestStart_keeps (k : Nat) (s : State) : ∃ s₁, execDarkTestStart k s = .next s₁ ∧ Keeps s s₁ := by
  refine ⟨_, rfl, ?_⟩
  try dsimp only
  with_reducible repeat' (first
    | apply Keeps.refl
    | apply (State.count_keeps _ _ _ _).after
    | apply State.live_keeps _ (Keeps.refl _)
    | apply (State.setChanBit_keeps _ _ _ _).after
    | apply keeps_ite
    | split
    | intro _)

theorem execDarkTestEnd_keeps (k : Nat) (rb : Bool) (s : State) : ∃ s₁, execDarkTestEnd k rb s = .next s₁ ∧ Keeps s s₁ := by
  refine ⟨_, rfl, ?_⟩
  try dsimp only
  with_reducible repeat' (first
    | simp only [keeps_other, keeps_sys]
    | apply Keeps.refl
    | apply State.live_keeps _ (Keeps.refl _)
    | apply (State.onChan_keeps _ _ _).after
    | apply (State.setChanBit_keeps _ _ _ _).after
    | apply (State.chanFault_keeps _ _).after
    | apply (State.seeReadback_keeps _ _ _).after
    | apply keeps_ite
    | split
    | intro _)

theorem execBrakeTestStep_keeps (k : Nat) (frames rb : Bool) (s : State) : ∃ s₁, execBrakeTestStep k frames rb s = .next s₁ ∧ Keeps s s₁ := by
  refine ⟨_, rfl, ?_⟩
  try dsimp only
  with_reducible repeat' (first
    | simp only [keeps_other, keeps_sys]
    | apply Keeps.refl
    | apply State.live_keeps _ (Keeps.refl _)
    | apply (State.testFail_keeps _ _).after
    | apply (State.judgeStep_keeps _ _ _ _ _).after
    | apply keeps_ite
    | split
    | intro _)

theorem execTestIntervalExpiry_keeps (k : Nat) (s : State) : ∃ s₁, execTestIntervalExpiry k s = .next s₁ ∧ Keeps s s₁ := by
  refine ⟨_, rfl, ?_⟩
  try dsimp only
  with_reducible repeat' (first
    | simp only [keeps_other, keeps_sys]
    | apply Keeps.refl
    | apply (State.setFld_keeps _ _ _ _).after
    | apply State.live_keeps _ (Keeps.refl _)
    | apply (State.onBrake_keeps _ _ _).after
    | apply keeps_ite
    | split
    | intro _)

theorem execBrakeApplyAfterExpiry_keeps (k : Nat) (s : State) : ∃ s₁, execBrakeApplyAfterExpiry k s = .next s₁ ∧ Keeps s s₁ := by
  refine ⟨_, rfl, ?_⟩
  try dsimp only
  with_reducible repeat' (first
    | simp only [keeps_other, keeps_sys]
    | apply Keeps.refl
    | apply State.live_keeps _ (Keeps.refl _)
    | apply (State.onBrake_keeps _ _ _).after
    | apply (State.mrtCode_keeps _ _ _).after
    | apply (State.chanOff_keeps _ _).after
    | apply keeps_ite
    | split
    | intro _)

theorem execCounterInputEdge_keeps (n : Nat) (a b : Bool) (s : State) : ∃ s₁, execCounterInputEdge n a b s = .next s₁ ∧ Keeps s s₁ := by
  refine ⟨_, rfl, ?_⟩
  try dsimp only
  with_reducible repeat' (first
    | apply Keeps.refl
    | apply State.live_keeps _ (Keeps.refl _)
    | apply (State.counterEdge_keeps _ _ _ _).after
    | apply keeps_ite
    | split
    | intro _)

theorem execTenonReceive_keeps (c : Nat) (frame : List Byte) (s : State) : ∃ s₁, execTenonReceive c frame s = .next s₁ ∧ Keeps s s₁ := by
  refine ⟨_, rfl, ?_⟩
  try dsimp only
  with_reducible repeat' (first
    | apply Keeps.refl
    | apply State.live_keeps _ (Keeps.refl _)
    | apply (State.tenonReceive_keeps _ _ _).after
    | apply keeps_ite
    | split
    | intro _)

theorem execTenonLost_keeps (c : Nat) (s : State) : ∃ s₁, execTenonLost c s = .next s₁ ∧ Keeps s s₁ := by
  refine ⟨_, rfl, ?_⟩
  try dsimp only
  with_reducible repeat' (first
    | apply Keeps.refl
    | apply State.live_keeps _ (Keeps.refl _)
    | apply (State.tenonLost_keeps _ _).after
    | apply keeps_ite
    | split
    | intro _)

theorem execSafetyCycle_keeps (fault : Bool) (p0 p1 : List Nat) (s : State) : ∃ s₁, execSafetyCycle fault p0 p1 s = .next s₁ ∧ Keeps s s₁ := by
  refine ⟨_, rfl, ?_⟩
  try dsimp only
  with_reducible repeat' (first
    | apply Keeps.refl
    | apply State.live_keeps _ (Keeps.refl _)
    | apply (State.safetyCycle_keeps _ _ _ _).after
    | apply keeps_ite
    | split
    | intro _)

theorem execPortLinkUp_keeps (port speed : Nat) (plca : Bool) (s : State) : ∃ s₁, execPortLinkUp port speed plca s = .next s₁ ∧ Keeps s s₁ := by
  refine ⟨_, rfl, ?_⟩
  try dsimp only
  with_reducible repeat' (first
    | apply Keeps.refl
    | apply (State.setFld_keeps _ _ _ _).after
    | apply (State.setFlag_keeps _ _ _ _).after
    | apply State.live_keeps _ (Keeps.refl _)
    | apply keeps_ite
    | split
    | intro _)

theorem execLinkDown_keeps (port : Nat) (s : State) : ∃ s₁, execLinkDown port s = .next s₁ ∧ Keeps s s₁ := by
  refine ⟨_, rfl, ?_⟩
  try dsimp only
  with_reducible repeat' (first
    | apply Keeps.refl
    | apply (State.setFld_keeps _ _ _ _).after
    | apply (State.report_keeps _ _ _).after
    | apply State.live_keeps _ (Keeps.refl _)
    | apply keeps_ite
    | split
    | intro _)

theorem execPtpGmChange_keeps (master synced : Bool) (offset : Int) (s : State) : ∃ s₁, execPtpGmChange master synced offset s = .next s₁ ∧ Keeps s s₁ := by
  refine ⟨_, rfl, ?_⟩
  try dsimp only
  with_reducible repeat' (first
    | apply Keeps.refl
    | apply (State.setFld_keeps _ _ _ _).after
    | apply (State.setFlag_keeps _ _ _ _).after
    | apply (State.report_keeps _ _ _).after
    | apply State.live_keeps _ (Keeps.refl _)
    | split
    | intro _)

theorem execAnnounce_keeps (port addr : Nat) (frame : List Byte) (s : State) : ∃ s₁, execAnnounce port addr frame s = .next s₁ ∧ Keeps s s₁ := by
  refine ⟨_, rfl, ?_⟩
  try dsimp only
  with_reducible repeat' (first
    | apply Keeps.refl
    | apply State.live_keeps _ (Keeps.refl _)
    | apply (State.announce_keeps _ _ _ _).after
    | split
    | intro _)

theorem execResponse_keeps (port addr : Nat) (frame : List Byte) (s : State) : ∃ s₁, execResponse port addr frame s = .next s₁ ∧ Keeps s s₁ := by
  refine ⟨_, rfl, ?_⟩
  try dsimp only
  with_reducible repeat' (first
    | apply Keeps.refl
    | apply State.live_keeps _ (Keeps.refl _)
    | apply (State.response_keeps _ _ _ _).after
    | split
    | intro _)

theorem execResponseTimeout_keeps (slot : Nat) (s : State) : ∃ s₁, execResponseTimeout slot s = .next s₁ ∧ Keeps s s₁ := by
  refine ⟨_, rfl, ?_⟩
  try dsimp only
  with_reducible repeat' (first
    | apply Keeps.refl
    | apply State.live_keeps _ (Keeps.refl _)
    | apply (State.slot_keeps _ _ _ _ ?_).after
    | apply (State.refusePartner_keeps _ _ _).after
    | apply keeps_ite
    | split
    | intro _)

theorem execPx_keeps (port ofs : Nat) (frame : List Byte) (s : State) : ∃ s₁, execPx port ofs frame s = .next s₁ ∧ Keeps s s₁ := by
  refine ⟨_, rfl, ?_⟩
  try dsimp only
  with_reducible repeat' (first
    | apply Keeps.refl
    | apply State.live_keeps _ (Keeps.refl _)
    | apply (State.pxReceive_keeps _ _ _ _).after
    | split
    | intro _)

theorem execLeave_keeps (port : Nat) (frame : List Byte) (s : State) : ∃ s₁, execLeave port frame s = .next s₁ ∧ Keeps s s₁ := by
  refine ⟨_, rfl, ?_⟩
  try dsimp only
  with_reducible repeat' (first
    | apply Keeps.refl
    | apply State.live_keeps _ (Keeps.refl _)
    | apply (State.leave_keeps _ _ _).after
    | split
    | intro _)

theorem execPartnerLost_keeps (slot : Nat) (s : State) : ∃ s₁, execPartnerLost slot s = .next s₁ ∧ Keeps s s₁ := by
  refine ⟨_, rfl, ?_⟩
  try dsimp only
  with_reducible repeat' (first
    | simp only [keeps_other, keeps_sys]
    | apply Keeps.refl
    | apply State.live_keeps _ (Keeps.refl _)
    | apply (State.slot_keeps _ _ _ _ ?_).after
    | apply (State.partnerLost_keeps _ _).after
    | apply keeps_ite
    | split
    | intro _)

theorem execStationAnnounce_keeps (s : State) : ∃ s₁, execStationAnnounce s = .next s₁ ∧ Keeps s s₁ := by
  refine ⟨_, rfl, ?_⟩
  try dsimp only
  with_reducible repeat' (first
    | simp only [keeps_other, keeps_sys]
    | apply Keeps.refl
    | apply State.live_keeps _ (Keeps.refl _)
    | apply (State.stationAnnounce_keeps _ _).after
    | apply keeps_ite
    | split
    | intro _)

theorem execAttachCleared_keeps (out : Nat) (s : State) : ∃ s₁, execAttachCleared out s = .next s₁ ∧ Keeps s s₁ := by
  refine ⟨_, rfl, ?_⟩
  try dsimp only
  with_reducible repeat' (first
    | apply Keeps.refl
    | apply (State.bumpSat_keeps _ _ _).after
    | apply (State.report_keeps _ _ _).after
    | apply State.live_keeps _ (Keeps.refl _)
    | apply (State.takeDemand_keeps _ _ _ _).after
    | apply keeps_ite
    | split
    | intro _)

theorem execExiJob_keeps (s : State) : ∃ s₁, execExiJob s = .next s₁ ∧ Keeps s s₁ := by
  refine ⟨_, rfl, ?_⟩
  try dsimp only
  with_reducible repeat' (first
    | simp only [keeps_other, keeps_sys]
    | apply Keeps.refl
    | apply State.live_keeps _ (Keeps.refl _)
    | apply (State.ringTake_keeps _ _).after
    | apply (State.onNet_keeps _ _).after
    | apply keeps_ite
    | refine keeps_of_snd (by assumption) ?_
    | split
    | intro _)

theorem execExiResult_keeps (s : State) : ∃ s₁, execExiResult s = .next s₁ ∧ Keeps s s₁ := by
  refine ⟨_, rfl, ?_⟩
  try dsimp only
  with_reducible repeat' (first
    | simp only [keeps_other, keeps_sys]
    | apply Keeps.refl
    | apply (State.bumpSat_keeps _ _ _).after
    | apply (State.count_keeps _ _ _ _).after
    | apply State.live_keeps _ (Keeps.refl _)
    | apply (State.onNet_keeps _ _).after
    | apply (State.exiRun_keeps _ _).after
    | split
    | intro _)

theorem execStartClaim_keeps (s : State) : ∃ s₁, execStartClaim s = .next s₁ ∧ Keeps s s₁ := by
  refine ⟨_, rfl, ?_⟩
  try dsimp only
  with_reducible repeat' (first
    | apply Keeps.refl
    | apply State.live_keeps _ (Keeps.refl _)
    | apply (State.startClaim_keeps _).after
    | split
    | intro _)

theorem execTakeover_keeps (s : State) : ∃ s₁, execTakeover s = .next s₁ ∧ Keeps s s₁ := by
  refine ⟨_, rfl, ?_⟩
  try dsimp only
  with_reducible repeat' (first
    | apply Keeps.refl
    | apply State.live_keeps _ (Keeps.refl _)
    | apply (State.takeOver_keeps _ _).after
    | apply keeps_ite
    | split
    | intro _)

theorem execKeeperTimeout_keeps (s : State) : ∃ s₁, execKeeperTimeout s = .next s₁ ∧ Keeps s s₁ := by
  refine ⟨_, rfl, ?_⟩
  try dsimp only
  with_reducible repeat' (first
    | simp only [keeps_other, keeps_sys]
    | apply Keeps.refl
    | apply State.live_keeps _ (Keeps.refl _)
    | apply (State.onPeg_keeps _ _).after
    | apply keeps_ite
    | split
    | intro _)

theorem execContention_keeps (low : Bool) (s : State) : ∃ s₁, execContention low s = .next s₁ ∧ Keeps s s₁ := by
  refine ⟨_, rfl, ?_⟩
  try dsimp only
  with_reducible repeat' (first
    | apply Keeps.refl
    | apply State.live_keeps _ (Keeps.refl _)
    | apply (State.contention_keeps _ _).after
    | split
    | intro _)

theorem execPegFault_keeps (stuckLow : Bool) (s : State) : ∃ s₁, execPegFault stuckLow s = .next s₁ ∧ Keeps s s₁ := by
  refine ⟨_, rfl, ?_⟩
  try dsimp only
  with_reducible repeat' (first
    | apply Keeps.refl
    | apply State.live_keeps _ (Keeps.refl _)
    | apply (State.pegFault_keeps _ _).after
    | split
    | intro _)

theorem execKeepaliveLoss_keeps (s : State) : ∃ s₁, execKeepaliveLoss s = .next s₁ ∧ Keeps s s₁ := by
  refine ⟨_, rfl, ?_⟩
  try dsimp only
  with_reducible repeat' (first
    | apply Keeps.refl
    | apply State.live_keeps _ (Keeps.refl _)
    | apply (State.pegRelease_keeps _ _).after
    | apply keeps_ite
    | split
    | intro _)

theorem execWdogRelease_keeps (s : State) : ∃ s₁, execWdogRelease s = .next s₁ ∧ Keeps s s₁ := by
  refine ⟨_, rfl, ?_⟩
  try dsimp only
  with_reducible repeat' (first
    | apply Keeps.refl
    | apply State.live_keeps _ (Keeps.refl _)
    | apply (State.pegCode_keeps _ _).after
    | apply (State.pegRelease_keeps _ _).after
    | apply keeps_ite
    | split
    | intro _)

theorem execPartNetStuck_keeps (s : State) : ∃ s₁, execPartNetStuck s = .next s₁ ∧ Keeps s s₁ := by
  refine ⟨_, rfl, ?_⟩
  try dsimp only
  with_reducible repeat' (first
    | apply Keeps.refl
    | apply (State.setFld_keeps _ _ _ _).after
    | apply State.live_keeps _ (Keeps.refl _)
    | apply (State.pegCode_keeps _ _).after
    | split
    | intro _)

theorem execPeerInReset_keeps (seen : Bool) (s : State) : ∃ s₁, execPeerInReset seen s = .next s₁ ∧ Keeps s s₁ := by
  refine ⟨_, rfl, ?_⟩
  try dsimp only
  with_reducible repeat' (first
    | apply Keeps.refl
    | apply (State.setFld_keeps _ _ _ _).after
    | apply State.live_keeps _ (Keeps.refl _)
    | apply (State.pegCode_keeps _ _).after
    | apply keeps_ite
    | split
    | intro _)

theorem execBindHandshake_keeps (feat0 feat1 : W32) (unitB pref : Bool) (image : Nat) (authentic holds : Bool) (latency : Nat) (s : State) : ∃ s₁, execBindHandshake feat0 feat1 unitB pref image authentic holds latency s = .next s₁ ∧ Keeps s s₁ := by
  refine ⟨_, rfl, ?_⟩
  try dsimp only
  with_reducible repeat' (first
    | apply Keeps.refl
    | apply State.live_keeps _ (Keeps.refl _)
    | apply (State.bindHandshake_keeps _ _ _ _ _ _ _ _ _).after
    | split
    | intro _)

theorem execBindRetry_keeps (s : State) : ∃ s₁, execBindRetry s = .next s₁ ∧ Keeps s s₁ := by
  refine ⟨_, rfl, ?_⟩
  try dsimp only
  with_reducible repeat' (first
    | simp only [keeps_other, keeps_sys]
    | apply Keeps.refl
    | apply (State.setFld_keeps _ _ _ _).after
    | apply State.live_keeps _ (Keeps.refl _)
    | apply (State.onPeg_keeps _ _).after
    | apply keeps_ite
    | split
    | intro _)

theorem execLockAchieved_keeps (s : State) : ∃ s₁, execLockAchieved s = .next s₁ ∧ Keeps s s₁ := by
  refine ⟨_, rfl, ?_⟩
  try dsimp only
  with_reducible repeat' (first
    | simp only [keeps_other, keeps_sys]
    | apply Keeps.refl
    | apply (State.setFld_keeps _ _ _ _).after
    | apply State.live_keeps _ (Keeps.refl _)
    | apply (State.onPeg_keeps _ _).after
    | apply keeps_ite
    | split
    | intro _)

theorem execCatchupComplete_keeps (s : State) : ∃ s₁, execCatchupComplete s = .next s₁ ∧ Keeps s s₁ := by
  refine ⟨_, rfl, ?_⟩
  try dsimp only
  with_reducible repeat' (first
    | apply Keeps.refl
    | apply State.live_keeps _ (Keeps.refl _)
    | apply (State.catchupComplete_keeps _).after
    | split
    | intro _)

theorem execSolleyLinkLost_keeps (lanes : Bool) (s : State) : ∃ s₁, execSolleyLinkLost lanes s = .next s₁ ∧ Keeps s s₁ := by
  refine ⟨_, rfl, ?_⟩
  try dsimp only
  with_reducible repeat' (first
    | apply Keeps.refl
    | apply State.live_keeps _ (Keeps.refl _)
    | apply (State.solleyLost_keeps _ _).after
    | split
    | intro _)

theorem execMirrorFrame_keeps (m : Mirror) (s : State) : ∃ s₁, execMirrorFrame m s = .next s₁ ∧ Keeps s s₁ := by
  refine ⟨_, rfl, ?_⟩
  try dsimp only
  with_reducible repeat' (first
    | apply Keeps.refl
    | apply State.live_keeps _ (Keeps.refl _)
    | apply (State.mirrorFrame_keeps _ _).after
    | split
    | intro _)

theorem execPdoEffective_keeps (s : State) : ∃ s₁, execPdoEffective s = .next s₁ ∧ Keeps s s₁ := by
  refine ⟨_, rfl, ?_⟩
  try dsimp only
  with_reducible repeat' (first
    | simp only [keeps_other, keeps_sys]
    | apply Keeps.refl
    | apply (State.setFld_keeps _ _ _ _).after
    | apply State.live_keeps _ (Keeps.refl _)
    | apply (State.onPeg_keeps _ _).after
    | apply keeps_ite
    | split
    | intro _)

theorem execRevertRequest_keeps (partnerOk : Bool) (s : State) : ∃ s₁, execRevertRequest partnerOk s = .next s₁ ∧ Keeps s s₁ := by
  refine ⟨_, rfl, ?_⟩
  try dsimp only
  with_reducible repeat' (first
    | apply Keeps.refl
    | apply State.live_keeps _ (Keeps.refl _)
    | apply (State.revertRequest_keeps _ _).after
    | split
    | intro _)

theorem execReturned_keeps (s : State) : ∃ s₁, execReturned s = .next s₁ ∧ Keeps s s₁ := by
  refine ⟨_, rfl, ?_⟩
  try dsimp only
  with_reducible repeat' (first
    | apply Keeps.refl
    | apply State.live_keeps _ (Keeps.refl _)
    | apply (State.returned_keeps _).after
    | split
    | intro _)

end Sys2Proof.Machine
end

