-- ==== Sys2Proof/Laws/KeepsExec3.lean ====
section
/-! SUPPORT. Every command of Machine/Can.lean, Machine/Feeder.lean, Machine/Ember.lean, Machine/Scribe.lean, Machine/Loader.lean, Machine/Power.lean answers a next state, and what that state keeps. -/

namespace Sys2Proof.Machine

open Sys2Proof

theorem execCanRxError_keeps (n lec : Nat) (eight : Bool) (s : State) : ∃ s₁, execCanRxError n lec eight s = .next s₁ ∧ Keeps s s₁ := by
  refine ⟨_, rfl, ?_⟩
  try dsimp only
  with_reducible repeat' (first
    | apply Keeps.refl
    | apply State.live_keeps _ (Keeps.refl _)
    | apply (State.canRxError_keeps _ _ _ _).after
    | split
    | intro _)

theorem execTtRefLost_keeps (n : Nat) (s : State) : ∃ s₁, execTtRefLost n s = .next s₁ ∧ Keeps s s₁ := by
  refine ⟨_, rfl, ?_⟩
  try dsimp only
  with_reducible repeat' (first
    | apply Keeps.refl
    | apply (State.setFld_keeps _ _ _ _).after
    | apply (State.report_keeps _ _ _).after
    | apply State.live_keeps _ (Keeps.refl _)
    | apply keeps_ite
    | split
    | intro _)

theorem execCanFrameReceived_keeps (n ofs : Nat) (frame : CanFrame) (s : State) : ∃ s₁, execCanFrameReceived n ofs frame s = .next s₁ ∧ Keeps s s₁ := by
  refine ⟨_, rfl, ?_⟩
  try dsimp only
  with_reducible repeat' (first
    | apply Keeps.refl
    | apply State.live_keeps _ (Keeps.refl _)
    | apply (State.canReceive_keeps _ _ _ _).after
    | split
    | intro _)

theorem execProtocolException_keeps (n : Nat) (idw : W32) (s : State) : ∃ s₁, execProtocolException n idw s = .next s₁ ∧ Keeps s s₁ := by
  refine ⟨_, rfl, ?_⟩
  try dsimp only
  with_reducible repeat' (first
    | apply Keeps.refl
    | apply State.live_keeps _ (Keeps.refl _)
    | apply (State.canException_keeps _ _ _).after
    | split
    | intro _)

theorem execCanTxAttempt_keeps (n ofs : Nat) (s : State) : ∃ s₁, execCanTxAttempt n ofs s = .next s₁ ∧ Keeps s s₁ := by
  refine ⟨_, rfl, ?_⟩
  try dsimp only
  with_reducible repeat' (first
    | apply Keeps.refl
    | apply State.live_keeps _ (Keeps.refl _)
    | apply (State.canAttempt_keeps _ _ _).after
    | split
    | intro _)

theorem execCanTxComplete_keeps (n : Nat) (r : CanEnd) (ofs : Nat) (s : State) : ∃ s₁, execCanTxComplete n r ofs s = .next s₁ ∧ Keeps s s₁ := by
  refine ⟨_, rfl, ?_⟩
  try dsimp only
  with_reducible repeat' (first
    | apply Keeps.refl
    | apply State.live_keeps _ (Keeps.refl _)
    | apply (State.canEnd_keeps _ _ _ _).after
    | split
    | intro _)

theorem execCanRejoin_keeps (n : Nat) (s : State) : ∃ s₁, execCanRejoin n s = .next s₁ ∧ Keeps s s₁ := by
  refine ⟨_, rfl, ?_⟩
  try dsimp only
  with_reducible repeat' (first
    | apply Keeps.refl
    | apply (State.setFld_keeps _ _ _ _).after
    | apply State.live_keeps _ (Keeps.refl _)
    | apply keeps_ite
    | split
    | intro _)

theorem execRecovered_keeps (n : Nat) (s : State) : ∃ s₁, execRecovered n s = .next s₁ ∧ Keeps s s₁ := by
  refine ⟨_, rfl, ?_⟩
  try dsimp only
  with_reducible repeat' (first
    | apply Keeps.refl
    | apply (State.setFld_keeps _ _ _ _).after
    | apply (State.report_keeps _ _ _).after
    | apply State.live_keeps _ (Keeps.refl _)
    | apply keeps_ite
    | split
    | intro _)

theorem execTtTrigger_keeps (n k : Nat) (busy : Bool) (ofs : Nat) (s : State) : ∃ s₁, execTtTrigger n k busy ofs s = .next s₁ ∧ Keeps s s₁ := by
  refine ⟨_, rfl, ?_⟩
  try dsimp only
  with_reducible repeat' (first
    | apply Keeps.refl
    | apply State.live_keeps _ (Keeps.refl _)
    | apply (State.canTrigger_keeps _ _ _ _ _).after
    | split
    | intro _)

theorem execExpectedFrameMissing_keeps (a : Nat) (s : State) : ∃ s₁, execExpectedFrameMissing a s = .next s₁ ∧ Keeps s s₁ := by
  refine ⟨_, rfl, ?_⟩
  try dsimp only
  with_reducible repeat' (first
    | apply Keeps.refl
    | apply State.live_keeps _ (Keeps.refl _)
    | apply (State.askRobust_keeps _ _).after
    | apply keeps_ite
    | split
    | intro _)

theorem execFdlFrameReceived_keeps (band ofs : Nat) (sym : List FdlSymbol) (s : State) : ∃ s₁, execFdlFrameReceived band ofs sym s = .next s₁ ∧ Keeps s s₁ := by
  refine ⟨_, rfl, ?_⟩
  try dsimp only
  with_reducible repeat' (first
    | apply Keeps.refl
    | apply State.live_keeps _ (Keeps.refl _)
    | apply (State.fdlReceive_keeps _ _ _ _).after
    | split
    | intro _)

theorem execFdlTxStart_keeps (band : Nat) (s : State) : ∃ s₁, execFdlTxStart band s = .next s₁ ∧ Keeps s s₁ := by
  refine ⟨_, rfl, ?_⟩
  try dsimp only
  with_reducible repeat' (first
    | apply Keeps.refl
    | apply State.live_keeps _ (Keeps.refl _)
    | apply (State.fdlStart_keeps _ _).after
    | split
    | intro _)

theorem execFdlTxEnd_keeps (s : State) : ∃ s₁, execFdlTxEnd s = .next s₁ ∧ Keeps s s₁ := by
  refine ⟨_, rfl, ?_⟩
  try dsimp only
  with_reducible repeat' (first
    | simp only [keeps_other, keeps_sys]
    | apply Keeps.refl
    | apply (State.setFld_keeps _ _ _ _).after
    | apply State.live_keeps _ (Keeps.refl _)
    | apply (State.onFdl_keeps _ _).after
    | apply keeps_ite
    | split
    | intro _)

theorem execAccessTimeout_keeps (band : Nat) (s : State) : ∃ s₁, execAccessTimeout band s = .next s₁ ∧ Keeps s s₁ := by
  refine ⟨_, rfl, ?_⟩
  try dsimp only
  with_reducible repeat' (first
    | simp only [keeps_other, keeps_sys]
    | apply Keeps.refl
    | apply State.live_keeps _ (Keeps.refl _)
    | apply (State.fdlCode_keeps _ _ _).after
    | apply (State.dropFrame_keeps _ _ _).after
    | apply keeps_ite
    | split
    | intro _)

theorem execNodeRefresh_keeps (a : Nat) (s : State) : ∃ s₁, execNodeRefresh a s = .next s₁ ∧ Keeps s s₁ := by
  refine ⟨_, rfl, ?_⟩
  try dsimp only
  with_reducible repeat' (first
    | simp only [keeps_other, keeps_sys]
    | apply Keeps.refl
    | apply State.live_keeps _ (Keeps.refl _)
    | apply (State.queueOutputs_keeps _ _).after
    | apply keeps_ite
    | split
    | intro _)

theorem execNodeLost_keeps (a : Nat) (s : State) : ∃ s₁, execNodeLost a s = .next s₁ ∧ Keeps s s₁ := by
  refine ⟨_, rfl, ?_⟩
  try dsimp only
  with_reducible repeat' (first
    | simp only [keeps_other, keeps_sys]
    | apply Keeps.refl
    | apply (State.setFld_keeps _ _ _ _).after
    | apply State.live_keeps _ (Keeps.refl _)
    | apply (State.markPoint_keeps _ _ _).after
    | apply (State.fdlCode_keeps _ _ _).after
    | apply keeps_ite
    | apply (State.each_keeps _ _ _ ?_).after
    | split
    | intro _)

theorem execBandASilent_keeps (s : State) : ∃ s₁, execBandASilent s = .next s₁ ∧ Keeps s s₁ := by
  refine ⟨_, rfl, ?_⟩
  try dsimp only
  with_reducible repeat' (first
    | apply Keeps.refl
    | apply (State.setFld_keeps _ _ _ _).after
    | apply State.live_keeps _ (Keeps.refl _)
    | apply (State.fdlCode_keeps _ _ _).after
    | apply keeps_ite
    | split
    | intro _)

theorem execCurtailExpiry_keeps (s : State) : ∃ s₁, execCurtailExpiry s = .next s₁ ∧ Keeps s s₁ := by
  refine ⟨_, rfl, ?_⟩
  try dsimp only
  with_reducible repeat' (first
    | simp only [keeps_other, keeps_sys]
    | apply Keeps.refl
    | apply State.live_keeps _ (Keeps.refl _)
    | apply (State.onFdl_keeps _ _).after
    | apply (State.setCurtail_keeps _ _ _).after
    | apply keeps_ite
    | split
    | intro _)

theorem execCurtailSave_keeps (s : State) : ∃ s₁, execCurtailSave s = .next s₁ ∧ Keeps s s₁ := by
  refine ⟨_, rfl, ?_⟩
  try dsimp only
  with_reducible repeat' (first
    | apply Keeps.refl
    | apply State.live_keeps _ (Keeps.refl _)
    | apply (State.saveCurtail_keeps _).after
    | apply keeps_ite
    | split
    | intro _)

theorem execBatteryPass_keeps (s : State) : ∃ s₁, execBatteryPass s = .next s₁ ∧ Keeps s s₁ := by
  refine ⟨_, rfl, ?_⟩
  try dsimp only
  with_reducible repeat' (first
    | apply Keeps.refl
    | apply State.live_keeps _ (Keeps.refl _)
    | apply (State.batteryPass_keeps _).after
    | split
    | intro _)

theorem execHibernateRequest_keeps (s : State) : ∃ s₁, execHibernateRequest s = .next s₁ ∧ Keeps s s₁ := by
  refine ⟨_, rfl, ?_⟩
  try dsimp only
  with_reducible repeat' (first
    | apply Keeps.refl
    | apply (State.send_keeps _ _ _ _).after
    | apply State.live_keeps _ (Keeps.refl _)
    | apply (State.hibernateSave_keeps _).after
    | apply keeps_ite
    | split
    | intro _)

theorem execHibernateReady_keeps (ready : Bool) (s : State) : ∃ s₁, execHibernateReady ready s = .next s₁ ∧ Keeps s s₁ := by
  refine ⟨_, rfl, ?_⟩
  try dsimp only
  with_reducible repeat' (first
    | simp only [keeps_other, keeps_sys]
    | apply Keeps.refl
    | apply State.live_keeps _ (Keeps.refl _)
    | apply (State.onEst_keeps _ _).after
    | apply (State.embCode_keeps _ _ _).after
    | apply (State.hibernateSave_keeps _).after
    | apply keeps_ite
    | split
    | intro _)

theorem execHibernateTimeout_keeps (s : State) : ∃ s₁, execHibernateTimeout s = .next s₁ ∧ Keeps s s₁ := by
  refine ⟨_, rfl, ?_⟩
  try dsimp only
  with_reducible repeat' (first
    | simp only [keeps_other, keeps_sys]
    | apply Keeps.refl
    | apply State.live_keeps _ (Keeps.refl _)
    | apply (State.onEst_keeps _ _).after
    | apply (State.embCode_keeps _ _ _).after
    | apply keeps_ite
    | split
    | intro _)

theorem execEmberSample_keeps (ch : Nat) (code : Int) (s : State) : ∃ s₁, execEmberSample ch code s = .next s₁ ∧ Keeps s s₁ := by
  refine ⟨_, rfl, ?_⟩
  try dsimp only
  with_reducible repeat' (first
    | apply Keeps.refl
    | apply State.live_keeps _ (Keeps.refl _)
    | apply (State.emberSample_keeps _ _ _).after
    | split
    | intro _)

theorem execWake_keeps (src : Nat) (s : State) : ∃ s₁, execWake src s = .next s₁ ∧ Keeps s s₁ := by
  refine ⟨_, rfl, ?_⟩
  try dsimp only
  with_reducible repeat' (first
    | simp only [keeps_other, keeps_sys]
    | apply Keeps.refl
    | apply State.live_keeps _ (Keeps.refl _)
    | apply (State.onEmb_keeps _ _).after
    | apply (State.wakeUp_keeps _ _).after
    | apply keeps_ite
    | split
    | intro _)

theorem execSnapshot_keeps (s : State) : ∃ s₁, execSnapshot s = .next s₁ ∧ Keeps s s₁ := by
  refine ⟨_, rfl, ?_⟩
  try dsimp only
  with_reducible repeat' (first
    | apply Keeps.refl
    | apply State.live_keeps _ (Keeps.refl _)
    | apply (State.snapshot_keeps _).after
    | split
    | intro _)

theorem execTagComplete_keeps (source stroke pc flags fetch exec retire mem stall : Nat) (s : State) : ∃ s₁, execTagComplete source stroke pc flags fetch exec retire mem stall s = .next s₁ ∧ Keeps s s₁ := by
  refine ⟨_, rfl, ?_⟩
  try dsimp only
  with_reducible repeat' (first
    | apply Keeps.refl
    | apply State.live_keeps _ (Keeps.refl _)
    | apply (State.fetch_keeps _ _ _ _).after
    | apply (State.tagDone_keeps _ _ _ _ _ _ _ _).after
    | split
    | intro _)

theorem execImageCheckDone_keeps (s : State) : ∃ s₁, execImageCheckDone s = .next s₁ ∧ Keeps s s₁ := by
  refine ⟨_, rfl, ?_⟩
  try dsimp only
  with_reducible repeat' (first
    | apply Keeps.refl
    | apply State.live_keeps _ (Keeps.refl _)
    | apply (State.imageCheckDone_keeps _).after
    | split
    | intro _)

theorem execResourceClaim_keeps (s : State) : ∃ s₁, execResourceClaim s = .next s₁ ∧ Keeps s s₁ := by
  refine ⟨_, rfl, ?_⟩
  try dsimp only
  with_reducible repeat' (first
    | apply Keeps.refl
    | apply State.live_keeps _ (Keeps.refl _)
    | apply (State.claimAll_keeps _).after
    | split
    | intro _)

theorem execBusyTimeout_keeps (s : State) : ∃ s₁, execBusyTimeout s = .next s₁ ∧ Keeps s s₁ := by
  refine ⟨_, rfl, ?_⟩
  try dsimp only
  with_reducible repeat' (first
    | apply Keeps.refl
    | apply State.live_keeps _ (Keeps.refl _)
    | apply (State.busyTimeout_keeps _).after
    | split
    | intro _)

theorem execSupplyWarn_keeps (rail mv : Nat) (s : State) : ∃ s₁, execSupplyWarn rail mv s = .next s₁ ∧ Keeps s s₁ := by
  refine ⟨_, rfl, ?_⟩
  try dsimp only
  with_reducible repeat' (first
    | apply Keeps.refl
    | apply (State.supplyWarn_keeps _ _ _).after
    | split
    | intro _)

theorem execSupplyWarnEnd_keeps (rail mv : Nat) (s : State) : ∃ s₁, execSupplyWarnEnd rail mv s = .next s₁ ∧ Keeps s s₁ := by
  refine ⟨_, rfl, ?_⟩
  try dsimp only
  with_reducible repeat' (first
    | apply Keeps.refl
    | apply (State.supplyWarnEnd_keeps _ _ _).after
    | split
    | intro _)

theorem execSupplyReset_keeps (rail mv since : Nat) (s : State) : ∃ s₁, execSupplyReset rail mv since s = .next s₁ ∧ Keeps s s₁ := by
  refine ⟨_, rfl, ?_⟩
  try dsimp only
  with_reducible repeat' (first
    | apply Keeps.refl
    | apply (State.supplyReset_keeps _ _ _ _).after
    | split
    | intro _)

theorem execColdStart_keeps (unitB : Bool) (s : State) :
    ∃ s₁, execColdStart unitB s = .next s₁ ∧ Keeps (s.atStroke s₁.sys.stroke) s₁ :=
  ⟨_, rfl, (s.coldStart_keeps unitB).own⟩

theorem execCorePowerUp_keeps (elapsed : Nat) (s : State) :
    ∃ s₁, execCorePowerUp elapsed s = .next s₁ ∧ Keeps (s.atStroke s₁.sys.stroke) s₁ :=
  ⟨_, rfl, (s.corePowerUp_keeps elapsed).own⟩

theorem execEmberIdleEntry_keeps (s : State) : ∃ s₁, execEmberIdleEntry s = .next s₁ ∧ Keeps s s₁ := by
  refine ⟨_, rfl, ?_⟩
  try dsimp only
  with_reducible repeat' (first
    | apply Keeps.refl
    | apply (State.emberIdle_keeps _).after
    | split
    | intro _)

theorem execPfwFall_keeps (s : State) : ∃ s₁, execPfwFall s = .next s₁ ∧ Keeps s s₁ := by
  refine ⟨_, rfl, ?_⟩
  try dsimp only
  with_reducible repeat' (first
    | apply Keeps.refl
    | apply (State.pfwFall_keeps _).after
    | split
    | intro _)

theorem execHostSaveLate_keeps (s : State) : ∃ s₁, execHostSaveLate s = .next s₁ ∧ Keeps s s₁ := by
  refine ⟨_, rfl, ?_⟩
  try dsimp only
  with_reducible repeat' (first
    | apply Keeps.refl
    | apply (State.setFld_keeps _ _ _ _).after
    | apply keeps_ite
    | split
    | intro _)

theorem execPowerFailReset_keeps (pfwHigh railsGood : Bool) (s : State) : ∃ s₁, execPowerFailReset pfwHigh railsGood s = .next s₁ ∧ Keeps s s₁ := by
  refine ⟨_, rfl, ?_⟩
  try dsimp only
  with_reducible repeat' (first
    | apply Keeps.refl
    | apply (State.powerFailReset_keeps _ _ _).after
    | split
    | intro _)

theorem execResetN_keeps (s : State) : ∃ s₁, execResetN s = .next s₁ ∧ Keeps s s₁ := by
  refine ⟨_, rfl, ?_⟩
  try dsimp only
  with_reducible repeat' (first
    | apply Keeps.refl
    | apply (State.assertReset_keeps _ _ _ _).after
    | apply keeps_ite
    | split
    | intro _)

theorem execOvertempTrip_keeps (s : State) : ∃ s₁, execOvertempTrip s = .next s₁ ∧ Keeps s s₁ := by
  refine ⟨_, rfl, ?_⟩
  try dsimp only
  with_reducible repeat' (first
    | apply Keeps.refl
    | apply (State.report_keeps _ _ _).after
    | apply (State.assertReset_keeps _ _ _ _).after
    | apply keeps_ite
    | split
    | intro _)

theorem execEraseDone_keeps (s : State) : ∃ s₁, execEraseDone s = .next s₁ ∧ Keeps s s₁ := by
  refine ⟨_, rfl, ?_⟩
  try dsimp only
  with_reducible repeat' (first
    | apply Keeps.refl
    | apply (State.eraseKeys_keeps _).after
    | apply (State.assertReset_keeps _ _ _ _).after
    | apply keeps_ite
    | split
    | intro _)

theorem execTrstN_keeps (low : Bool) (s : State) : ∃ s₁, execTrstN low s = .next s₁ ∧ Keeps s s₁ := by
  refine ⟨_, rfl, ?_⟩
  try dsimp only
  with_reducible repeat' (first
    | simp only [keeps_other, keeps_sys]
    | apply Keeps.refl
    | apply (State.onPwr_keeps _ _).after
    | split
    | intro _)

theorem execResetRelease_keeps (root : Nat) (corrupt : List Nat) (selfTest : Bool) (s : State) : ∃ s₁, execResetRelease root corrupt selfTest s = .next s₁ ∧ Keeps s s₁ := by
  refine ⟨_, rfl, ?_⟩
  try dsimp only
  with_reducible repeat' (first
    | apply Keeps.refl
    | apply (State.release_keeps _ _ _ _).after
    | split
    | intro _)

end Sys2Proof.Machine
end

