-- ==== Sys2Proof/Laws/KeepsExec4.lean ====
section
/-! SUPPORT. Every command of Machine/Stroke.lean, Machine/Fabric.lean, Machine/RegisterRows.lean answers a next state, and what that state keeps. -/

namespace Sys2Proof.Machine

open Sys2Proof

theorem execRegionWarn_keeps (island peer : Nat) (quantity : Quantity) (v : Nat) (s : State) : ∃ s₁, execRegionWarn island peer quantity v s = .next s₁ ∧ Keeps s s₁ := by
  refine ⟨_, rfl, ?_⟩
  try dsimp only
  with_reducible repeat' (first
    | apply Keeps.refl
    | apply State.live_keeps _ (Keeps.refl _)
    | apply (State.regionWarn_keeps _ _ _ _ _).after
    | apply keeps_ite
    | split
    | intro _)

theorem execRegionWarnEnd_keeps (island peer : Nat) (quantity : Quantity) (v : Nat) (s : State) : ∃ s₁, execRegionWarnEnd island peer quantity v s = .next s₁ ∧ Keeps s s₁ := by
  refine ⟨_, rfl, ?_⟩
  try dsimp only
  with_reducible repeat' (first
    | apply Keeps.refl
    | apply State.live_keeps _ (Keeps.refl _)
    | apply (State.regionWarnEnd_keeps _ _ _ _ _).after
    | apply keeps_ite
    | split
    | intro _)

theorem execRegionMismatch_keeps (a b : Nat) (m : Measured) (s : State) : ∃ s₁, execRegionMismatch a b m s = .next s₁ ∧ Keeps s s₁ := by
  refine ⟨_, rfl, ?_⟩
  try dsimp only
  with_reducible repeat' (first
    | apply Keeps.refl
    | apply State.live_keeps _ (Keeps.refl _)
    | apply (State.regionMismatch_keeps _ _ _ _).after
    | split
    | intro _)

theorem execStrokeMarker_keeps (x : MarkerInput) (s : State) :
    ∃ s₁, execStrokeMarker x s = .next s₁ ∧ Keeps (s.atStroke s₁.sys.stroke) s₁ := by
  refine ⟨_, rfl, ?_⟩
  split
  · exact (s.marker_keeps x).own
  · exact Keeps.refl s

theorem execJoineryCommit_keeps (x : MarkerInput) (s : State) :
    ∃ s₁, execJoineryCommit x s = .next s₁ ∧ Keeps (s.atStroke s₁.sys.stroke) s₁ := by
  refine ⟨_, rfl, ?_⟩
  split
  · exact (s.marker_keeps x).own
  · exact Keeps.refl s

theorem execAlignMarker_keeps (holder : Nat) (x : MarkerInput) (s : State) :
    ∃ s₁, execAlignMarker holder x s = .next s₁ ∧ Keeps (s.atStroke s₁.sys.stroke) s₁ := by
  refine ⟨_, rfl, ?_⟩
  split
  · exact ((s.marker_keeps x).trans (State.alignTo_keeps _ holder)).own
  · exact Keeps.refl s

theorem execOverrun_keeps (w : Work) (s : State) : ∃ s₁, execOverrun w s = .next s₁ ∧ Keeps s s₁ := by
  refine ⟨_, rfl, ?_⟩
  try dsimp only
  with_reducible repeat' (first
    | apply Keeps.refl
    | apply State.live_keeps _ (Keeps.refl _)
    | apply (State.overrun_keeps _ _).after
    | split
    | intro _)

theorem execOverrunLimit_keeps (w : Work) (s : State) : ∃ s₁, execOverrunLimit w s = .next s₁ ∧ Keeps s s₁ := by
  refine ⟨_, rfl, ?_⟩
  try dsimp only
  with_reducible repeat' (first
    | apply Keeps.refl
    | apply State.live_keeps _ (Keeps.refl _)
    | apply (State.faultAction_keeps _ _).after
    | apply keeps_ite
    | split
    | intro _)

theorem execDebugHalt_keeps (core : Nat) (s : State) : ∃ s₁, execDebugHalt core s = .next s₁ ∧ Keeps s s₁ := by
  refine ⟨_, rfl, ?_⟩
  try dsimp only
  with_reducible repeat' (first
    | apply Keeps.refl
    | apply State.live_keeps _ (Keeps.refl _)
    | apply (State.debugHalt_keeps _ _).after
    | split
    | intro _)

theorem execFabricAccess_keeps (x : Access) (s : State) : ∃ s₁, execFabricAccess x s = .next s₁ ∧ Keeps s s₁ := by
  refine ⟨_, rfl, ?_⟩
  try dsimp only
  with_reducible repeat' (first
    | apply Keeps.refl
    | apply (State.access_keeps _ _).after
    | split
    | intro _)

theorem execSplitReadLo_keeps (who : Initiator) (win off : Nat) (s : State) : ∃ s₁, execSplitReadLo who win off s = .next s₁ ∧ Keeps s s₁ := by
  refine ⟨_, rfl, ?_⟩
  try dsimp only
  with_reducible repeat' (first
    | apply Keeps.refl
    | apply (State.access_keeps _ _).after
    | split
    | intro _)

theorem execSplitReadHi_keeps (who : Initiator) (win off : Nat) (s : State) : ∃ s₁, execSplitReadHi who win off s = .next s₁ ∧ Keeps s s₁ := by
  refine ⟨_, rfl, ?_⟩
  try dsimp only
  with_reducible repeat' (first
    | apply Keeps.refl
    | apply (State.access_keeps _ _).after
    | split
    | intro _)

theorem execSplitWriteLo_keeps (who : Initiator) (win off : Nat) (v : W32) (s : State) : ∃ s₁, execSplitWriteLo who win off v s = .next s₁ ∧ Keeps s s₁ := by
  refine ⟨_, rfl, ?_⟩
  try dsimp only
  with_reducible repeat' (first
    | apply Keeps.refl
    | apply (State.access_keeps _ _).after
    | split
    | intro _)

theorem execSplitWriteHi_keeps (who : Initiator) (win off ofs : Nat) (v : W32) (s : State) : ∃ s₁, execSplitWriteHi who win off ofs v s = .next s₁ ∧ Keeps s s₁ := by
  refine ⟨_, rfl, ?_⟩
  try dsimp only
  with_reducible repeat' (first
    | apply Keeps.refl
    | apply (State.access_keeps _ _).after
    | split
    | intro _)

theorem execRegisterWrite_keeps (who : Initiator) (win off : Nat) (v : W32) (s : State) : ∃ s₁, execRegisterWrite who win off v s = .next s₁ ∧ Keeps s s₁ := by
  refine ⟨_, rfl, ?_⟩
  try dsimp only
  with_reducible repeat' (first
    | apply Keeps.refl
    | apply (State.access_keeps _ _).after
    | split
    | intro _)

theorem execStage_keeps (who : Initiator) (s : State) : ∃ s₁, execStage who s = .next s₁ ∧ Keeps s s₁ := by
  refine ⟨_, rfl, ?_⟩
  try dsimp only
  with_reducible repeat' (first
    | apply Keeps.refl
    | apply (State.stage_keeps _).after
    | apply (State.rowWrite_keeps _ _ _ _ _ _ ?_).after
    | split
    | intro _)

theorem execCancel_keeps (who : Initiator) (s : State) : ∃ s₁, execCancel who s = .next s₁ ∧ Keeps s s₁ := by
  refine ⟨_, rfl, ?_⟩
  try dsimp only
  with_reducible repeat' (first
    | apply Keeps.refl
    | apply (State.cancel_keeps _).after
    | apply (State.rowWrite_keeps _ _ _ _ _ _ ?_).after
    | split
    | intro _)

theorem execRaiseFloor_keeps (who : Initiator) (s : State) : ∃ s₁, execRaiseFloor who s = .next s₁ ∧ Keeps s s₁ := by
  refine ⟨_, rfl, ?_⟩
  try dsimp only
  with_reducible repeat' (first
    | apply Keeps.refl
    | apply (State.raiseFloor_keeps _).after
    | apply (State.rowWrite_keeps _ _ _ _ _ _ ?_).after
    | split
    | intro _)

theorem execAcqSoftTrig_keeps (who : Initiator) (n : Nat) (at_ : Nat) (s : State) : ∃ s₁, execAcqSoftTrig who n at_ s = .next s₁ ∧ Keeps s s₁ := by
  refine ⟨_, rfl, ?_⟩
  try dsimp only
  with_reducible repeat' (first
    | apply Keeps.refl
    | apply (State.softTrig_keeps _ _ _).after
    | apply (State.rowWrite_keeps _ _ _ _ _ _ ?_).after
    | split
    | intro _)

theorem execAcqSeqRestart_keeps (who : Initiator) (n : Nat) (s : State) : ∃ s₁, execAcqSeqRestart who n s = .next s₁ ∧ Keeps s s₁ := by
  refine ⟨_, rfl, ?_⟩
  try dsimp only
  with_reducible repeat' (first
    | apply Keeps.refl
    | apply (State.seqRestart_keeps _ _).after
    | apply (State.rowWrite_keeps _ _ _ _ _ _ ?_).after
    | split
    | intro _)

theorem execLpWrite_keeps (who : Initiator) (n : Nat) (lp : Bool) (s : State) : ∃ s₁, execLpWrite who n lp s = .next s₁ ∧ Keeps s s₁ := by
  refine ⟨_, rfl, ?_⟩
  try dsimp only
  with_reducible repeat' (first
    | apply Keeps.refl
    | apply (State.lpWrite_keeps _ _ _).after
    | apply (State.rowWrite_keeps _ _ _ _ _ _ ?_).after
    | split
    | intro _)

theorem execAcqCheckFaultClear_keeps (who : Initiator) (k : Nat) (s : State) : ∃ s₁, execAcqCheckFaultClear who k s = .next s₁ ∧ Keeps s s₁ := by
  refine ⟨_, rfl, ?_⟩
  try dsimp only
  with_reducible repeat' (first
    | apply Keeps.refl
    | apply (State.checkClear_keeps _ _).after
    | apply (State.rowWrite_keeps _ _ _ _ _ _ ?_).after
    | split
    | intro _)

theorem execRelease_keeps (who : Initiator) (b : Nat) (s : State) : ∃ s₁, execRelease who b s = .next s₁ ∧ Keeps s s₁ := by
  refine ⟨_, rfl, ?_⟩
  try dsimp only
  with_reducible repeat' (first
    | apply Keeps.refl
    | apply (State.releaseBay_keeps _ _).after
    | apply (State.rowWrite_keeps _ _ _ _ _ _ ?_).after
    | split
    | intro _)

theorem execDropClear_keeps (who : Initiator) (p : Nat) (s : State) : ∃ s₁, execDropClear who p s = .next s₁ ∧ Keeps s s₁ := by
  refine ⟨_, rfl, ?_⟩
  try dsimp only
  with_reducible repeat' (first
    | apply Keeps.refl
    | apply (State.clearDrop_keeps _ _).after
    | apply (State.rowWrite_keeps _ _ _ _ _ _ ?_).after
    | split
    | intro _)

theorem execTripClear_keeps (who : Initiator) (e : Nat) (m : Nat) (s : State) : ∃ s₁, execTripClear who e m s = .next s₁ ∧ Keeps s s₁ := by
  refine ⟨_, rfl, ?_⟩
  try dsimp only
  with_reducible repeat' (first
    | apply Keeps.refl
    | apply (State.tripClear_keeps _ _ _).after
    | apply (State.rowWrite_keeps _ _ _ _ _ _ ?_).after
    | split
    | intro _)

theorem execCalfinRestart_keeps (who : Initiator) (e : Nat) (s : State) : ∃ s₁, execCalfinRestart who e s = .next s₁ ∧ Keeps s s₁ := by
  refine ⟨_, rfl, ?_⟩
  try dsimp only
  with_reducible repeat' (first
    | apply Keeps.refl
    | apply (State.engRestart_keeps _ _).after
    | apply (State.rowWrite_keeps _ _ _ _ _ _ ?_).after
    | split
    | intro _)

theorem execHalt_keeps (who : Initiator) (e : Nat) (s : State) : ∃ s₁, execHalt who e s = .next s₁ ∧ Keeps s s₁ := by
  refine ⟨_, rfl, ?_⟩
  try dsimp only
  with_reducible repeat' (first
    | apply Keeps.refl
    | apply (State.engHalt_keeps _ _).after
    | apply (State.rowWrite_keeps _ _ _ _ _ _ ?_).after
    | split
    | intro _)

theorem execDemandWrite_keeps (who : Initiator) (o : Nat) (lo : W32) (hi : W32) (s : State) : ∃ s₁, execDemandWrite who o lo hi s = .next s₁ ∧ Keeps s s₁ := by
  refine ⟨_, rfl, ?_⟩
  try dsimp only
  with_reducible repeat' (first
    | apply Keeps.refl
    | apply (State.takeDemand_keeps _ _ _ _).after
    | apply (State.rowWrite_keeps _ _ _ _ _ _ ?_).after
    | split
    | intro _)

theorem execTrsRollback_keeps (who : Initiator) (s : State) : ∃ s₁, execTrsRollback who s = .next s₁ ∧ Keeps s s₁ := by
  refine ⟨_, rfl, ?_⟩
  try dsimp only
  with_reducible repeat' (first
    | apply Keeps.refl
    | apply (State.invalidate_keeps _ _ _).after
    | apply (State.rowWrite_keeps _ _ _ _ _ _ ?_).after
    | split
    | intro _)

theorem execTrsRestart_keeps (who : Initiator) (s : State) : ∃ s₁, execTrsRestart who s = .next s₁ ∧ Keeps s s₁ := by
  refine ⟨_, rfl, ?_⟩
  try dsimp only
  with_reducible repeat' (first
    | apply Keeps.refl
    | apply (State.trussRestart_keeps _).after
    | apply (State.rowWrite_keeps _ _ _ _ _ _ ?_).after
    | split
    | intro _)

theorem execGridFwWrite_keeps (who : Initiator) (limit : W32) (s : State) : ∃ s₁, execGridFwWrite who limit s = .next s₁ ∧ Keeps s s₁ := by
  refine ⟨_, rfl, ?_⟩
  try dsimp only
  with_reducible repeat' (first
    | apply Keeps.refl
    | apply (State.gridFw_keeps _ _).after
    | apply (State.rowWrite_keeps _ _ _ _ _ _ ?_).after
    | split
    | intro _)

theorem execXpFaultClear_keeps (who : Initiator) (x : Nat) (s : State) : ∃ s₁, execXpFaultClear who x s = .next s₁ ∧ Keeps s s₁ := by
  refine ⟨_, rfl, ?_⟩
  try dsimp only
  with_reducible repeat' (first
    | apply Keeps.refl
    | apply (State.clearXp_keeps _ _).after
    | apply (State.rowWrite_keeps _ _ _ _ _ _ ?_).after
    | split
    | intro _)

theorem execBellowsRestart_keeps (who : Initiator) (s : State) : ∃ s₁, execBellowsRestart who s = .next s₁ ∧ Keeps s s₁ := by
  refine ⟨_, rfl, ?_⟩
  try dsimp only
  with_reducible repeat' (first
    | apply Keeps.refl
    | apply (State.bellowsRestart_keeps _).after
    | apply (State.rowWrite_keeps _ _ _ _ _ _ ?_).after
    | split
    | intro _)

theorem execRwsWrite_keeps (who : Initiator) (ofs : Nat) (v : W32) (s : State) : ∃ s₁, execRwsWrite who ofs v s = .next s₁ ∧ Keeps s s₁ := by
  refine ⟨_, rfl, ?_⟩
  try dsimp only
  with_reducible repeat' (first
    | apply Keeps.refl
    | apply (State.rwsWrite_keeps _ _ _).after
    | apply (State.rowWrite_keeps _ _ _ _ _ _ ?_).after
    | split
    | intro _)

theorem execAsyMbxGo_keeps (who : Initiator) (s : State) : ∃ s₁, execAsyMbxGo who s = .next s₁ ∧ Keeps s s₁ := by
  refine ⟨_, rfl, ?_⟩
  try dsimp only
  with_reducible repeat' (first
    | apply Keeps.refl
    | apply (State.mailGo_keeps _).after
    | apply (State.rowWrite_keeps _ _ _ _ _ _ ?_).after
    | split
    | intro _)

theorem execBrakeTest_keeps (who : Initiator) (k : Nat) (s : State) : ∃ s₁, execBrakeTest who k s = .next s₁ ∧ Keeps s s₁ := by
  refine ⟨_, rfl, ?_⟩
  try dsimp only
  with_reducible repeat' (first
    | apply Keeps.refl
    | apply (State.brakeTest_keeps _ _).after
    | apply (State.rowWrite_keeps _ _ _ _ _ _ ?_).after
    | apply (State.when_keeps _ _ _ ?_).after
    | split
    | intro _)

theorem execPegRoleWrite_keeps (who : Initiator) (b : Bool) (s : State) : ∃ s₁, execPegRoleWrite who b s = .next s₁ ∧ Keeps s s₁ := by
  refine ⟨_, rfl, ?_⟩
  try dsimp only
  with_reducible repeat' (first
    | apply Keeps.refl
    | apply (State.roleWrite_keeps _ _).after
    | apply (State.rowWrite_keeps _ _ _ _ _ _ ?_).after
    | split
    | intro _)

theorem execKick_keeps (who : Initiator) (s : State) : ∃ s₁, execKick who s = .next s₁ ∧ Keeps s s₁ := by
  refine ⟨_, rfl, ?_⟩
  try dsimp only
  with_reducible repeat' (first
    | simp only [keeps_other, keeps_sys]
    | apply Keeps.refl
    | apply (State.onPeg_keeps _ _).after
    | apply (State.rowWrite_keeps _ _ _ _ _ _ ?_).after
    | split
    | intro _)

theorem execHandover_keeps (who : Initiator) (s : State) : ∃ s₁, execHandover who s = .next s₁ ∧ Keeps s s₁ := by
  refine ⟨_, rfl, ?_⟩
  try dsimp only
  with_reducible repeat' (first
    | apply Keeps.refl
    | apply (State.handover_keeps _).after
    | apply (State.rowWrite_keeps _ _ _ _ _ _ ?_).after
    | split
    | intro _)

theorem execPdoWrite_keeps (who : Initiator) (word : Nat) (s : State) : ∃ s₁, execPdoWrite who word s = .next s₁ ∧ Keeps s s₁ := by
  refine ⟨_, rfl, ?_⟩
  try dsimp only
  with_reducible repeat' (first
    | apply Keeps.refl
    | apply (State.pdoWrite_keeps _ _).after
    | apply (State.rowWrite_keeps _ _ _ _ _ _ ?_).after
    | split
    | intro _)

theorem execHostPointWrite_keeps (who : Initiator) (ofs : Nat) (lo : W32) (hi : W32) (s : State) : ∃ s₁, execHostPointWrite who ofs lo hi s = .next s₁ ∧ Keeps s s₁ := by
  refine ⟨_, rfl, ?_⟩
  try dsimp only
  with_reducible repeat' (first
    | apply Keeps.refl
    | apply (State.hostPoint_keeps _ _ _ _).after
    | apply (State.rowWrite_keeps _ _ _ _ _ _ ?_).after
    | split
    | intro _)

theorem execRingConsWrite_keeps (who : Initiator) (ring : Nat) (index : Nat) (s : State) : ∃ s₁, execRingConsWrite who ring index s = .next s₁ ∧ Keeps s s₁ := by
  refine ⟨_, rfl, ?_⟩
  try dsimp only
  with_reducible repeat' (first
    | apply Keeps.refl
    | apply (State.ringCons__keeps _ _ _).after
    | apply (State.rowWrite_keeps _ _ _ _ _ _ ?_).after
    | split
    | intro _)

theorem execRingProdWrite_keeps (who : Initiator) (ring : Nat) (index : Nat) (s : State) : ∃ s₁, execRingProdWrite who ring index s = .next s₁ ∧ Keeps s s₁ := by
  refine ⟨_, rfl, ?_⟩
  try dsimp only
  with_reducible repeat' (first
    | apply Keeps.refl
    | apply (State.ringProd__keeps _ _ _).after
    | apply (State.rowWrite_keeps _ _ _ _ _ _ ?_).after
    | split
    | intro _)

theorem execCanTxCancel_keeps (who : Initiator) (n : Nat) (index : Nat) (ofs : Nat) (s : State) : ∃ s₁, execCanTxCancel who n index ofs s = .next s₁ ∧ Keeps s s₁ := by
  refine ⟨_, rfl, ?_⟩
  try dsimp only
  with_reducible repeat' (first
    | apply Keeps.refl
    | apply (State.canCancel_keeps _ _ _ _).after
    | apply (State.rowWrite_keeps _ _ _ _ _ _ ?_).after
    | split
    | intro _)

theorem execCanDisable_keeps (who : Initiator) (n : Nat) (on : Bool) (receiving : Bool) (s : State) : ∃ s₁, execCanDisable who n on receiving s = .next s₁ ∧ Keeps s s₁ := by
  refine ⟨_, rfl, ?_⟩
  try dsimp only
  with_reducible repeat' (first
    | apply Keeps.refl
    | apply (State.canDisable_keeps _ _ _ _).after
    | apply (State.rowWrite_keeps _ _ _ _ _ _ ?_).after
    | split
    | intro _)

theorem execRecover_keeps (who : Initiator) (n : Nat) (s : State) : ∃ s₁, execRecover who n s = .next s₁ ∧ Keeps s s₁ := by
  refine ⟨_, rfl, ?_⟩
  try dsimp only
  with_reducible repeat' (first
    | apply Keeps.refl
    | apply (State.canRecover_keeps _ _).after
    | apply (State.rowWrite_keeps _ _ _ _ _ _ ?_).after
    | split
    | intro _)

theorem execHibernate_keeps (who : Initiator) (s : State) : ∃ s₁, execHibernate who s = .next s₁ ∧ Keeps s s₁ := by
  refine ⟨_, rfl, ?_⟩
  try dsimp only
  with_reducible repeat' (first
    | apply Keeps.refl
    | apply (State.hibernate_keeps _).after
    | apply (State.rowWrite_keeps _ _ _ _ _ _ ?_).after
    | split
    | intro _)

theorem execEstimatorRestart_keeps (who : Initiator) (s : State) : ∃ s₁, execEstimatorRestart who s = .next s₁ ∧ Keeps s s₁ := by
  refine ⟨_, rfl, ?_⟩
  try dsimp only
  with_reducible repeat' (first
    | apply Keeps.refl
    | apply (State.estRestart_keeps _).after
    | apply (State.rowWrite_keeps _ _ _ _ _ _ ?_).after
    | split
    | intro _)

theorem execDebugClose_keeps (who : Initiator) (s : State) : ∃ s₁, execDebugClose who s = .next s₁ ∧ Keeps s s₁ := by
  refine ⟨_, rfl, ?_⟩
  try dsimp only
  with_reducible repeat' (first
    | apply Keeps.refl
    | apply (State.endDebug_keeps _).after
    | apply (State.rowWrite_keeps _ _ _ _ _ _ ?_).after
    | split
    | intro _)

theorem execCfrChGo_keeps (who : Initiator) (c : Nat) (s : State) : ∃ s₁, execCfrChGo who c s = .next s₁ ∧ Keeps s s₁ := by
  refine ⟨_, rfl, ?_⟩
  try dsimp only
  with_reducible repeat' (first
    | apply Keeps.refl
    | apply (State.channelGo_keeps _ _).after
    | apply (State.rowWrite_keeps _ _ _ _ _ _ ?_).after
    | apply (State.when_keeps _ _ _ ?_).after
    | split
    | intro _)

theorem execClear_keeps (who : Initiator) (s : State) : ∃ s₁, execClear who s = .next s₁ ∧ Keeps s s₁ := by
  refine ⟨_, rfl, ?_⟩
  try dsimp only
  with_reducible repeat' (first
    | apply Keeps.refl
    | apply (State.scbClear_keeps _).after
    | apply (State.rowWrite_keeps _ _ _ _ _ _ ?_).after
    | split
    | intro _)

theorem execScbCfgWrite_keeps (who : Initiator) (v : W32) (s : State) : ∃ s₁, execScbCfgWrite who v s = .next s₁ ∧ Keeps s s₁ := by
  refine ⟨_, rfl, ?_⟩
  try dsimp only
  with_reducible repeat' (first
    | apply Keeps.refl
    | apply (State.scbCfg_keeps _ _).after
    | apply (State.rowWrite_keeps _ _ _ _ _ _ ?_).after
    | split
    | intro _)

theorem execTagCfgWrite_keeps (who : Initiator) (v : W32) (s : State) : ∃ s₁, execTagCfgWrite who v s = .next s₁ ∧ Keeps s s₁ := by
  refine ⟨_, rfl, ?_⟩
  try dsimp only
  with_reducible repeat' (first
    | apply Keeps.refl
    | apply (State.tagCfg_keeps _ _).after
    | apply (State.rowWrite_keeps _ _ _ _ _ _ ?_).after
    | split
    | intro _)

theorem execHostDone_keeps (who : Initiator) (s : State) : ∃ s₁, execHostDone who s = .next s₁ ∧ Keeps s s₁ := by
  refine ⟨_, rfl, ?_⟩
  try dsimp only
  with_reducible repeat' (first
    | apply Keeps.refl
    | apply (State.hostSaved_keeps _).after
    | apply (State.rowWrite_keeps _ _ _ _ _ _ ?_).after
    | split
    | intro _)

theorem execSwReset_keeps (who : Initiator) (s : State) : ∃ s₁, execSwReset who s = .next s₁ ∧ Keeps s s₁ := by
  refine ⟨_, rfl, ?_⟩
  try dsimp only
  with_reducible repeat' (first
    | apply Keeps.refl
    | apply (State.softReset_keeps _).after
    | apply (State.rowWrite_keeps _ _ _ _ _ _ ?_).after
    | split
    | intro _)

theorem execResultRead_keeps (who : Initiator) (e r : Nat) (half : Half) (s : State) : ∃ s₁, execResultRead who e r half s = .next s₁ ∧ Keeps s s₁ := by
  refine ⟨_, rfl, ?_⟩
  try dsimp only
  with_reducible repeat' (first
    | simp only [keeps_other, keeps_sys]
    | apply Keeps.refl
    | apply (State.resultRead_keeps _ _ _ _ _).after
    | apply (State.rowRead_keeps _ _ _ _ _ _ ?_).after
    | split
    | intro _)

theorem execObjectRead_keeps (who : Initiator) (n obj ofs len : Nat) (s : State) : ∃ s₁, execObjectRead who n obj ofs len s = .next s₁ ∧ Keeps s s₁ := by
  refine ⟨_, rfl, ?_⟩
  try dsimp only
  with_reducible repeat' (first
    | apply Keeps.refl
    | apply (State.objectRead_keeps _ _ _ _ _ _).after
    | apply (State.rowRead_keeps _ _ _ _ _ _ ?_).after
    | split
    | intro _)

end Sys2Proof.Machine
end

