-- ==== Sys2Proof/Laws/Units.lean ====
section
/-! SUPPORT. What a unit's read and write on the fabric come to (Machine/Memory.lean). -/

namespace Sys2Proof.Machine

open Sys2Proof

/-- A read that delivers bytes changes nothing, and they are the bytes of memory. -/
theorem State.fetch_some {s : State} {w : Initiator} {a n : Nat} {b : List Byte} (h : (s.fetch w a n).1 = some b) :
    s.fetch w a n = (some (s.bytes a n), s) ∧ b = s.bytes a n := by
  unfold State.fetch at h ⊢
  split at h <;> rename_i e
  · dsimp only at h
    split at h
    · rename_i k
      rw [if_pos k]
      exact ⟨rfl, (Option.some.inj h).symm⟩
    · cases h
  · cases h

/-- A unit's read without a bus error. -/
theorem State.fetch_ok {s : State} {w : Initiator} {a n : Nat} (h : s.unitFault w a n false = 0) :
    s.fetch w a n = (if s.inRam a n then some (s.bytes a n) else none, s) := by
  unfold State.fetch
  simp only [h]

/-- A unit's write without a bus error, of some bytes: memory takes them unless the range is an absent engine's, or no RAM. -/
theorem State.unitWrite_ok {s : State} {w : Initiator} {a : Nat} {b : List Byte} (n : b ≠ []) (h : s.unitFault w a b.length true = 0) :
    s.unitWrite w a b = (s.inRam a b.length, if s.inRam a b.length && !s.absentEngineAt a b.length then s.setBytes a b else s) := by
  unfold State.unitWrite
  simp only [if_neg n, h]

/-- A unit's write that a bus error ends is not taken, and the error is latched. -/
theorem State.unitWrite_fault {s : State} {w : Initiator} {a c : Nat} {b : List Byte} (n : b ≠ []) (h : s.unitFault w a b.length true = c + 1) :
    s.unitWrite w a b = (false, s.busError w a true (c + 1)) := by
  unfold State.unitWrite
  simp only [if_neg n, h]

end Sys2Proof.Machine
end

