-- ==== Sys2Proof/Tests/Slice0.lean ====
section
/-! SUPPORT. Our own tests: ill-formed terms, a witness for the hypotheses of each obligation, the bench examples of the ball map, and
a few single steps. -/

namespace Sys2Proof

set_option Elab.async false

open Machine

/-! ### States and structures for the tests -/

/-- A section body: zeros with bytes put at offsets. -/
def testBody (n : Nat) (l : List (Nat × List Byte)) : List Byte :=
  l.foldl (fun b x => b.take x.1 ++ x.2 ++ b.drop (x.1 + x.2.length)) (List.replicate n 0)

/-- A structure of given sections; the others have their green-timber content. -/
def testImage (l : List (Nat × List Byte)) : Image := ⟨1, 0, [], l.map fun x => ⟨x.1, 0, x.2⟩⟩

/-- The state right after reset with fields of registers set. -/
def testPut (s : State) (l : List (Fld × Nat × Nat)) : State := l.foldl (fun t x => t.setFld x.1 x.2.1 x.2.2) s

/-- The device runs, with fields set, under a structure of given sections. -/
def testRun (l : List (Fld × Nat × Nat)) (m : List (Nat × List Byte) := []) : State :=
  let s := testPut State.reset l
  { s with sys := { s.sys with booted := true }, pwr := { s.pwr with sources := [] }, jny := { s.jny with active := testImage m } }

/-- The same at a stroke count. -/
def testAt (n : Nat) (s : State) : State := { s with sys := { s.sys with stroke := BitVec.ofNat 48 n } }

/-- A state meets a condition. -/
def testHolds (s : State) (f : State → Bool) : Bool := f s

/-- A state in which every island runs meets a condition. -/
def testMeets (s : State) (f : State → Bool) : Bool := (List.range 9).all (fun k => s.runs k) && f s

/-- A write of core 0 to a register reaches it. -/
def testReach (s : State) (r : Reg) (i : Nat) : Bool :=
  let a := 0x40000000 + (Reg.row r).win * 0x100000 + Reg.at r i
  s.sys.booted && s.up (Initiator.island ⟨0, 0⟩) && decide ((Reg.row r).win < 18) && decide (Reg.at r i < 0x100000) && decide (Reg.at r i % 4 = 0)
    && s.up (windowIsland (Reg.row r).win) && !s.absentAt (.window (Reg.row r).win) a 4 && !s.firewall ⟨0, 0⟩ (.window (Reg.row r).win) a 4 true

theorem testReach_iff (s : State) (r : Reg) (i : Nat) : testReach s r i = true ↔ ReachesReg s ⟨0, 0⟩ r i := by
  simp [testReach, ReachesReg, Reaches, and_assoc]

/-- The command answers a next state that meets a condition. -/
def testNext (c : Instr) (s : State) (f : State → Bool) : Bool :=
  match exec c s with | .next t => f t | _ => false

/-- A slot of Coffer holds a key of 32 zero bytes that every island may use for the given usages. -/
def testKey (s : State) (n usage : Nat) : State :=
  (testPut s [(F.CFR_SLOT_STAT_STATE, n, 1), (F.CFR_SLOT_ATTR_LO_OWNER, n, 15), (F.CFR_SLOT_ATTR_LO_PARENT, n, 0x3FF),
    (F.CFR_SLOT_ATTR_LO_DEPTH, n, 1), (F.CFR_SLOT_ATTR_HI_USAGE, n, usage)]).onSlot n fun k => { k with active := some (List.replicate 32 0) }

/-- A point holds a value of good quality, written at the present stroke. -/
def testPoint (s : State) (p : Nat) (v : W64) : State :=
  { s with pnt := { s.pnt with table := s.pnt.table.set p ⟨v, 0, 0, 4, 0, s.now, 0⟩ } }

/-- The fields of a ring that is defined, at the start of the general SRAM: its number, its direction, the exponents of its entry size and number
of entries. -/
def testRing (n dir esize exp : Nat) : List (Fld × Nat × Nat) :=
  [(F.PNT_RING_CFG_DEFINED, n, 1), (F.PNT_RING_CFG_DIR, n, dir), (F.PNT_RING_CFG_ESIZE_EXP, n, esize), (F.PNT_RING_CFG_ENTRIES_EXP, n, exp),
    (F.PNT_RING_BASE_LO_BASE_LO, n, 0x11880000)]

/-- The key of every slot of the tests. -/
def testSecret : List Byte := List.replicate 32 0

/-! ### Well-formedness: one ill-formed term for each check, which the check refuses -/

/-- Ill-formed terms, one for each check, part 1. -/
theorem test_ill_formed_1 : ([
  .overrun (.sequence 128),
  .overrun (.program 48),
  .overrunLimit (.sequence 128),
  .overrunLimit (.program 48),
  .fabricAccess ⟨⟨16, 0⟩, 0, .read 4, 0, .clean, false⟩,
  .fabricAccess ⟨⟨0, 48⟩, 0, .read 4, 0, .clean, false⟩,
  .fabricAccess ⟨⟨0, 0⟩, 0, .read 0, 0, .clean, false⟩,
  .fabricAccess ⟨⟨0, 0⟩, 0, .read 129, 0, .clean, false⟩,
  .fabricAccess ⟨⟨0, 0⟩, 0, .write [], 0, .clean, false⟩,
  .fabricAccess ⟨⟨0, 0⟩, 0, .write (List.replicate 129 0), 0, .clean, false⟩,
  .fabricAccess ⟨⟨0, 0⟩, 0, .read 4, 65536, .clean, false⟩,
  .splitReadLo ⟨16, 0⟩ 0 0,
  .splitReadLo ⟨0, 48⟩ 0 0,
  .splitReadLo ⟨0, 0⟩ 18 0,
  .splitReadLo ⟨0, 0⟩ 0 1048576,
  .splitReadLo ⟨0, 0⟩ 0 4,
  .splitReadHi ⟨16, 0⟩ 0 4,
  .splitReadHi ⟨0, 48⟩ 0 4,
  .splitReadHi ⟨0, 0⟩ 18 4,
  .splitReadHi ⟨0, 0⟩ 0 1048576,
  .splitReadHi ⟨0, 0⟩ 0 0,
  .splitWriteLo ⟨16, 0⟩ 0 0 0,
  .splitWriteLo ⟨0, 48⟩ 0 0 0,
  .splitWriteLo ⟨0, 0⟩ 18 0 0,
  .splitWriteLo ⟨0, 0⟩ 0 1048576 0,
  .splitWriteLo ⟨0, 0⟩ 0 4 0,
  .splitWriteHi ⟨16, 0⟩ 0 4 0 0,
  .splitWriteHi ⟨0, 48⟩ 0 4 0 0,
  .splitWriteHi ⟨0, 0⟩ 18 4 0 0,
  .splitWriteHi ⟨0, 0⟩ 0 1048576 0 0,
  .splitWriteHi ⟨0, 0⟩ 0 4 65536 0,
  .splitWriteHi ⟨0, 0⟩ 0 0 0 0,
  .registerWrite ⟨16, 0⟩ 0 0 0,
  .registerWrite ⟨0, 48⟩ 0 0 0,
  .registerWrite ⟨0, 0⟩ 18 0 0,
  .registerWrite ⟨0, 0⟩ 0 1048576 0,
  .registerWrite ⟨0, 0⟩ 0 2 0,
  .regionWarn 9 1 .freq 0,
  .regionWarn 0 9 .freq 0,
  .regionWarn 0 0 .freq 0] : List Instr).all (fun i => !i.wf) = true := by decide +kernel

/-- Ill-formed terms, one for each check, part 2. -/
theorem test_ill_formed_2 : ([
  .regionMismatch 9 1 (.freq []),
  .regionMismatch 0 9 (.freq []),
  .regionMismatch 0 0 (.freq []),
  .stage ⟨16, 0⟩,
  .stage ⟨0, 48⟩,
  .cancel ⟨16, 0⟩,
  .cancel ⟨0, 48⟩,
  .raiseFloor ⟨16, 0⟩,
  .raiseFloor ⟨0, 48⟩,
  .acqTrigger 128 0,
  .acqSoftTrig ⟨16, 0⟩ 0 0,
  .acqSoftTrig ⟨0, 48⟩ 0 0,
  .acqSoftTrig ⟨0, 0⟩ 128 0,
  .runStart 16 0,
  .slotRestart 16 0,
  .slotResult 16 [] 0,
  .acqSeqRestart ⟨16, 0⟩ 0,
  .acqSeqRestart ⟨0, 48⟩ 0,
  .acqSeqRestart ⟨0, 0⟩ 128,
  .lpWrite ⟨16, 0⟩ 0 false,
  .lpWrite ⟨0, 48⟩ 0 false,
  .lpWrite ⟨0, 0⟩ 16 false,
  .pairCheck 8 0 (List.replicate 4 0) (List.replicate 4 0),
  .pairCheck 0 0 [] (List.replicate 4 0),
  .pairCheck 0 0 (List.replicate 4 0) [],
  .acqCheckFault 8,
  .acqCheckFaultClear ⟨16, 0⟩ 0,
  .acqCheckFaultClear ⟨0, 48⟩ 0,
  .acqCheckFaultClear ⟨0, 0⟩ 8,
  .decimationOutput 64 [],
  .modStuck 64 [],
  .modStuckEnd 64,
  .pwmPeriod 96 0,
  .onEdge 96,
  .valley 96 0,
  .peakTrip 96 0 0,
  .maxOnTime 96 0,
  .lowSideOn 96,
  .baySaturated 24,
  .trimLimit 96] : List Instr).all (fun i => !i.wf) = true := by decide +kernel

/-- Ill-formed terms, one for each check, part 3. -/
theorem test_ill_formed_3 : ([
  .shedStepEnd 24,
  .shedHoldEnd 24,
  .overshoot 24 0,
  .overshootEnd 24 0,
  .overshootLimit 24,
  .fastLimit 64 [],
  .driverFault 96 false,
  .senseLoss 96 0,
  .release ⟨16, 0⟩ 0,
  .release ⟨0, 48⟩ 0,
  .release ⟨0, 0⟩ 24,
  .dropClear ⟨16, 0⟩ 0,
  .dropClear ⟨0, 48⟩ 0,
  .dropClear ⟨0, 0⟩ 96,
  .macz 48 none false 0 0,
  .macz 0 none false 32 0,
  .macz 0 none false 0 32,
  .mac 48 none false 0 0,
  .mac 0 none false 32 0,
  .mac 0 none false 0 32,
  .msu 48 none false 0 0,
  .msu 0 none false 32 0,
  .msu 0 none false 0 32,
  .mova 48 none false 0,
  .mova 0 none false 32,
  .ash 48 none false 0,
  .ash 0 none false 16,
  .ash 0 none false (-17),
  .aadd 48 none false,
  .add 48 none 0 0 0,
  .add 0 none 32 0 0,
  .add 0 none 0 32 0,
  .add 0 none 0 0 32,
  .sub 48 none 0 0 0,
  .sub 0 none 32 0 0,
  .sub 0 none 0 32 0,
  .sub 0 none 0 0 32,
  .min 48 none 0 0 0,
  .min 0 none 32 0 0,
  .min 0 none 0 32 0] : List Instr).all (fun i => !i.wf) = true := by decide +kernel

/-- Ill-formed terms, one for each check, part 4. -/
theorem test_ill_formed_4 : ([
  .min 0 none 0 0 32,
  .max 48 none 0 0 0,
  .max 0 none 32 0 0,
  .max 0 none 0 32 0,
  .max 0 none 0 0 32,
  .abs 48 none 0 0,
  .abs 0 none 32 0,
  .abs 0 none 0 32,
  .neg 48 none 0 0,
  .neg 0 none 32 0,
  .neg 0 none 0 32,
  .clmp 48 none 0 0 0,
  .clmp 0 none 32 0 0,
  .clmp 0 none 0 32 0,
  .clmp 0 none 0 0 32,
  .seln 48 none 0 0 0,
  .seln 0 none 32 0 0,
  .seln 0 none 0 32 0,
  .seln 0 none 0 0 32,
  .scl 48 none 0 0,
  .scl 0 none 32 0,
  .scl 0 none 0 16,
  .scl 0 none 0 (-17),
  .nrm 48 none 0 0,
  .nrm 0 none 8 0,
  .nrm 0 none 0 8,
  .sete 48 none 0 0,
  .sete 0 none 8 0,
  .sete 0 none 0 128,
  .sete 0 none 0 (-129),
  .ldi 48 none 0 0,
  .ldi 0 none 32 0,
  .ldi 0 none 0 512,
  .ldi 0 none 0 (-513),
  .addi 48 none 0 0,
  .addi 0 none 32 0,
  .addi 0 none 0 512,
  .addi 0 none 0 (-513),
  .movk 48 none 0 0,
  .movk 0 none 32 0] : List Instr).all (fun i => !i.wf) = true := by decide +kernel

/-- Ill-formed terms, one for each check, part 5. -/
theorem test_ill_formed_5 : ([
  .movk 0 none 0 32,
  .fec 48 none 0 0,
  .fec 0 none 32 0,
  .fec 0 none 0 4,
  .beqz 48 none 0 0,
  .beqz 0 none 32 0,
  .beqz 0 none 0 512,
  .beqz 0 none 0 (-513),
  .bnez 48 none 0 0,
  .bnez 0 none 32 0,
  .bnez 0 none 0 512,
  .bnez 0 none 0 (-513),
  .bltz 48 none 0 0,
  .bltz 0 none 32 0,
  .bltz 0 none 0 512,
  .bltz 0 none 0 (-513),
  .bgez 48 none 0 0,
  .bgez 0 none 32 0,
  .bgez 0 none 0 512,
  .bgez 0 none 0 (-513),
  .bqs 48 none 0,
  .bqs 0 none 512,
  .bqs 0 none (-513),
  .brun 48 none 0,
  .brun 0 none 512,
  .brun 0 none (-513),
  .jmp 48 none 0,
  .jmp 0 none 32768,
  .wait 48 none 0,
  .wait 0 none 256,
  .pub 48 none 0 0,
  .pub 0 none 32 0,
  .pub 0 none 0 16,
  .endInst 48 none 0,
  .endInst 0 none 4194304,
  .ld 48 none 0 0,
  .ld 0 none 32 0,
  .ld 0 none 0 32768,
  .st 48 none 0 0,
  .st 0 none 32 0] : List Instr).all (fun i => !i.wf) = true := by decide +kernel

/-- Ill-formed terms, one for each check, part 6. -/
theorem test_ill_formed_6 : ([
  .st 0 none 0 32768,
  .ldx 48 none 0 0 0,
  .ldx 0 none 32 0 0,
  .ldx 0 none 0 32 0,
  .ldx 0 none 0 0 512,
  .ldx 0 none 0 0 (-513),
  .stx 48 none 0 0 0,
  .stx 0 none 32 0 0,
  .stx 0 none 0 32 0,
  .stx 0 none 0 0 512,
  .stx 0 none 0 0 (-513),
  .ldc 48 none 0 0,
  .ldc 0 none 32 0,
  .ldc 0 none 0 4096,
  .ldq 48 none 0 0,
  .ldq 0 none 32 0,
  .ldq 0 none 0 32768,
  .ldw 48 none 0 0,
  .ldw 0 none 32 0,
  .ldw 0 none 0 32768,
  .stw 48 none 0 0,
  .stw 0 none 32 0,
  .stw 0 none 0 32768,
  .ldp 48 none 0 0,
  .ldp 0 none 32 0,
  .ldp 0 none 0 32,
  .followTrip 48 0,
  .followTrip 0 4,
  .calfinRestart ⟨16, 0⟩ 0,
  .calfinRestart ⟨0, 48⟩ 0,
  .calfinRestart ⟨0, 0⟩ 48,
  .halt ⟨16, 0⟩ 0,
  .halt ⟨0, 48⟩ 0,
  .halt ⟨0, 0⟩ 48,
  .tripClear ⟨16, 0⟩ 0 0,
  .tripClear ⟨0, 48⟩ 0 0,
  .tripClear ⟨0, 0⟩ 48 0,
  .tripClear ⟨0, 0⟩ 0 4,
  .resultRead ⟨16, 0⟩ 0 0 .lo,
  .resultRead ⟨0, 48⟩ 0 0 .lo] : List Instr).all (fun i => !i.wf) = true := by decide +kernel

/-- Ill-formed terms, one for each check, part 7. -/
theorem test_ill_formed_7 : ([
  .resultRead ⟨0, 0⟩ 48 0 .lo,
  .resultRead ⟨0, 0⟩ 0 16 .lo,
  .demandWrite ⟨16, 0⟩ 0 0 0,
  .demandWrite ⟨0, 48⟩ 0 0 0,
  .demandWrite ⟨0, 0⟩ 32 0 0,
  .trsRollback ⟨16, 0⟩,
  .trsRollback ⟨0, 48⟩,
  .trsRestart ⟨16, 0⟩,
  .trsRestart ⟨0, 48⟩,
  .gridFwWrite ⟨16, 0⟩ 0,
  .gridFwWrite ⟨0, 48⟩ 0,
  .prechargeTimeout 288,
  .contactorFeedback 768,
  .failClose 768,
  .welded 768,
  .xpFaultClear ⟨16, 0⟩ 0,
  .xpFaultClear ⟨0, 48⟩ 0,
  .xpFaultClear ⟨0, 0⟩ 768,
  .bayRelease 32,
  .exchangeRecord [],
  .cableSample 32,
  .sensorRecovered 32,
  .fastSamplingEnd 32,
  .heatBalance 32,
  .bellowsRestart ⟨16, 0⟩,
  .bellowsRestart ⟨0, 48⟩,
  .dieSample [],
  .assaySample ⟨List.replicate 64 (2 ^ 21), [], List.replicate 16 0, List.replicate 16 0, 0, false⟩,
  .assaySample ⟨List.replicate 64 0, [64], List.replicate 16 0, List.replicate 16 0, 0, false⟩,
  .assaySample ⟨List.replicate 64 0, [], List.replicate 15 0, List.replicate 16 0, 0, false⟩,
  .assaySample ⟨List.replicate 64 0, [], List.replicate 16 0, List.replicate 16 0, (-(2 ^ 21) - 1), false⟩,
  .assaySample ⟨[], [], List.replicate 16 0, List.replicate 16 0, 0, false⟩,
  .assaySample ⟨List.replicate 64 0, [], List.replicate 16 0, [], 0, false⟩,
  .dcPlausibility 32,
  .meterFaultEnd 32,
  .testPulseEnd 4,
  .pendingPulseStart 4,
  .rwsWrite ⟨16, 0⟩ 0 0,
  .rwsWrite ⟨0, 48⟩ 0 0,
  .rwsWrite ⟨0, 0⟩ 65536 0] : List Instr).all (fun i => !i.wf) = true := by decide +kernel

/-- Ill-formed terms, one for each check, part 8. -/
theorem test_ill_formed_8 : ([
  .disconnectOpen 32,
  .discWaitExpiry 32,
  .disconnectFeedbackTimeout 32,
  .disconnectDropout 32,
  .safetyCycle false [32] [],
  .safetyCycle false [] [32],
  .inputChannelChange 32 false false,
  .supplyPulse 16 [] [] [],
  .discrepancy 32,
  .readbackCheck 20 false,
  .energiseCheckStep 20 false,
  .darkTestStart 20,
  .darkTestEnd 20 false,
  .brakeTest ⟨16, 0⟩ 0,
  .brakeTest ⟨0, 48⟩ 0,
  .brakeTest ⟨0, 0⟩ 4,
  .brakeTestStep 4 false false,
  .testIntervalExpiry 4,
  .brakeApplyAfterExpiry 4,
  .tenonReceive 32 [],
  .tenonLost 32,
  .pegRoleWrite ⟨16, 0⟩ false,
  .pegRoleWrite ⟨0, 48⟩ false,
  .kick ⟨16, 0⟩,
  .kick ⟨0, 48⟩,
  .handover ⟨16, 0⟩,
  .handover ⟨0, 48⟩,
  .pdoWrite ⟨16, 0⟩ 0,
  .pdoWrite ⟨0, 48⟩ 0,
  .pdoWrite ⟨0, 0⟩ 65536,
  .linkDown 10,
  .announce 6 0 [],
  .response 6 0 [],
  .responseTimeout 256,
  .px 6 0 [],
  .px 0 65536 [],
  .leave 6 [],
  .partnerLost 256,
  .attachCleared 32,
  .hostPointWrite ⟨16, 0⟩ 0 0 0] : List Instr).all (fun i => !i.wf) = true := by decide +kernel

/-- Ill-formed terms, one for each check, part 9. -/
theorem test_ill_formed_9 : ([
  .hostPointWrite ⟨0, 48⟩ 0 0 0,
  .hostPointWrite ⟨0, 0⟩ 65536 0 0,
  .ringConsWrite ⟨16, 0⟩ 0 0,
  .ringConsWrite ⟨0, 48⟩ 0 0,
  .ringConsWrite ⟨0, 0⟩ 64 0,
  .ringConsWrite ⟨0, 0⟩ 0 131072,
  .ringProdWrite ⟨16, 0⟩ 0 0,
  .ringProdWrite ⟨0, 48⟩ 0 0,
  .ringProdWrite ⟨0, 0⟩ 64 0,
  .ringProdWrite ⟨0, 0⟩ 0 131072,
  .canFrameReceived 8 0 ⟨0, false, false, false, false, false, []⟩,
  .canFrameReceived 0 65536 ⟨0, false, false, false, false, false, []⟩,
  .objectRead ⟨16, 0⟩ 0 0 0 0,
  .objectRead ⟨0, 48⟩ 0 0 0 0,
  .objectRead ⟨0, 0⟩ 8 0 0 0,
  .objectRead ⟨0, 0⟩ 0 256 0 0,
  .objectRead ⟨0, 0⟩ 0 0 0 129,
  .canTxAttempt 8 0,
  .canTxAttempt 0 65536,
  .canTxComplete 8 .sent 0,
  .canTxComplete 0 .sent 65536,
  .canTxCancel ⟨16, 0⟩ 0 0 0,
  .canTxCancel ⟨0, 48⟩ 0 0 0,
  .canTxCancel ⟨0, 0⟩ 8 0 0,
  .canTxCancel ⟨0, 0⟩ 0 131072 0,
  .canTxCancel ⟨0, 0⟩ 0 0 65536,
  .canDisable ⟨16, 0⟩ 0 false false,
  .canDisable ⟨0, 48⟩ 0 false false,
  .canDisable ⟨0, 0⟩ 8 false false,
  .canRejoin 8,
  .recover ⟨16, 0⟩ 0,
  .recover ⟨0, 48⟩ 0,
  .recover ⟨0, 0⟩ 8,
  .recovered 8,
  .ttTrigger 8 0 false 0,
  .ttTrigger 0 32 false 0,
  .ttTrigger 0 0 false 65536,
  .ttRefLost 8,
  .fdlFrameReceived 4 0 [],
  .fdlFrameReceived 0 65536 [],
  .fdlTxStart 4] : List Instr).all (fun i => !i.wf) = true := by decide +kernel

/-- Ill-formed terms, one for each check, part 10. -/
theorem test_ill_formed_10 : ([
  .fdlTxStart 0,
  .accessTimeout 4,
  .accessTimeout 0,
  .nodeLost 64,
  .nodeRefresh 64,
  .hibernate ⟨16, 0⟩,
  .hibernate ⟨0, 48⟩,
  .emberSample 16 0,
  .emberSample 0 32768,
  .emberSample 0 (-32769),
  .wake 4,
  .wake 0,
  .estimatorRestart ⟨16, 0⟩,
  .estimatorRestart ⟨0, 48⟩,
  .generateKey (.channel 13),
  .generateKey (.path 9 []),
  .deriveKey (.channel 13),
  .deriveKey (.path 9 []),
  .importKey (.channel 13),
  .importKey (.path 9 []),
  .exportKey (.channel 13),
  .exportKey (.path 9 []),
  .destroyKey (.channel 13),
  .destroyKey (.path 9 []),
  .getPublic (.channel 13),
  .getPublic (.path 9 []),
  .attest (.channel 13),
  .attest (.path 9 []),
  .getCert (.channel 13),
  .getCert (.path 9 []),
  .signMsg (.channel 13),
  .signMsg (.path 9 []),
  .verifySig (.channel 13),
  .verifySig (.path 9 []),
  .sealAead (.channel 13),
  .sealAead (.path 9 []),
  .openAead (.channel 13),
  .openAead (.path 9 []),
  .hashData (.channel 13),
  .hashData (.path 9 [])] : List Instr).all (fun i => !i.wf) = true := by decide +kernel

/-- Ill-formed terms, one for each check, part 11. -/
theorem test_ill_formed_11 : ([
  .keyStage (.channel 13),
  .keyStage (.path 9 []),
  .keyCommit (.channel 13),
  .keyCommit (.path 9 []),
  .abort (.channel 13),
  .abort (.path 9 []),
  .lcStep (.channel 13),
  .lcStep (.path 9 []),
  .rotRotate (.channel 13),
  .rotRotate (.path 9 []),
  .debugUnlock (.channel 13),
  .debugUnlock (.path 9 []),
  .keySwap 512,
  .graceEnd 512,
  .debugClose ⟨16, 0⟩,
  .debugClose ⟨0, 48⟩,
  .clear ⟨16, 0⟩,
  .clear ⟨0, 48⟩,
  .scbCfgWrite ⟨16, 0⟩ 0,
  .scbCfgWrite ⟨0, 48⟩ 0,
  .tagCfgWrite ⟨16, 0⟩ 0,
  .tagCfgWrite ⟨0, 48⟩ 0,
  .tagComplete 0 281474976710656 0 0 0 0 0 0 0,
  .tagComplete 0 0 0 16 0 0 0 0 0,
  .tagComplete 0 0 0 0 65536 0 0 0 0,
  .tagComplete 0 0 0 0 0 65536 0 0 0,
  .tagComplete 0 0 0 0 0 0 65536 0 0,
  .tagComplete 0 0 0 0 0 0 0 65536 0,
  .tagComplete 0 0 0 0 0 0 0 0 6,
  .tagComplete 8 0 0 0 0 0 0 0 0,
  .tagComplete 64 0 0 0 0 0 0 0 0,
  .hostDone ⟨16, 0⟩,
  .hostDone ⟨0, 48⟩,
  .supplyWarn 4 0,
  .supplyReset 3 0 0,
  .swReset ⟨16, 0⟩,
  .swReset ⟨0, 48⟩,
  .resetRelease 3 [] false,
  .regionWarnEnd 9 1 .freq 0,
  .regionWarnEnd 0 9 .freq 0] : List Instr).all (fun i => !i.wf) = true := by decide +kernel

/-- Ill-formed terms, one for each check, part 12. -/
theorem test_ill_formed_12 : ([
  .regionWarnEnd 0 0 .freq 0,
  .supplyWarnEnd 4 0,
  .fastLimitEnd 64 [],
  .asyMbxGo ⟨16, 0⟩,
  .asyMbxGo ⟨0, 48⟩,
  .cfrChGo ⟨16, 0⟩ 0,
  .cfrChGo ⟨0, 48⟩ 0,
  .cfrChGo ⟨0, 0⟩ 13,
  .counterInputEdge 32 false false,
  .portLinkUp 10 1 false,
  .portLinkUp 0 4 false,
  .portLinkUp 0 0 false,
  .canRxError 8 0 false,
  .canRxError 0 8 false,
  .protocolException 8 0,
  .expectedFrameMissing 64,
  .debugHalt 8] : List Instr).all (fun i => !i.wf) = true := by decide +kernel

/-- The same commands with every operand in its range are well formed, part 1. -/
theorem test_well_formed_1 : ([
  .overrun .truss,
  .overrunLimit .truss,
  .fabricAccess ⟨⟨0, 0⟩, 0, .read 4, 0, .clean, false⟩,
  .splitReadLo ⟨0, 0⟩ 0 0,
  .splitReadHi ⟨0, 0⟩ 0 4,
  .splitWriteLo ⟨0, 0⟩ 0 0 0,
  .splitWriteHi ⟨0, 0⟩ 0 4 0 0,
  .registerWrite ⟨0, 0⟩ 0 0 0,
  .regionWarn 0 1 .freq 0,
  .regionMismatch 0 1 (.freq []),
  .stage ⟨0, 0⟩,
  .cancel ⟨0, 0⟩,
  .raiseFloor ⟨0, 0⟩,
  .acqTrigger 0 0,
  .acqSoftTrig ⟨0, 0⟩ 0 0,
  .runStart 0 0,
  .slotRestart 0 0,
  .slotResult 0 [] 0,
  .acqSeqRestart ⟨0, 0⟩ 0,
  .lpWrite ⟨0, 0⟩ 0 false,
  .pairCheck 0 0 (List.replicate 4 0) (List.replicate 4 0),
  .acqCheckFault 0,
  .acqCheckFaultClear ⟨0, 0⟩ 0,
  .decimationOutput 0 [],
  .modStuck 0 [],
  .modStuckEnd 0,
  .pwmPeriod 0 0,
  .onEdge 0,
  .valley 0 0,
  .peakTrip 0 0 0,
  .maxOnTime 0 0,
  .lowSideOn 0,
  .baySaturated 0,
  .trimLimit 0,
  .shedStepEnd 0,
  .shedHoldEnd 0,
  .overshoot 0 0,
  .overshootEnd 0 0,
  .overshootLimit 0,
  .fastLimit 0 [],
  .driverFault 0 false,
  .senseLoss 0 0,
  .release ⟨0, 0⟩ 0,
  .dropClear ⟨0, 0⟩ 0,
  .macz 0 none false 0 0,
  .mac 0 none false 0 0,
  .msu 0 none false 0 0,
  .mova 0 none false 0,
  .ash 0 none false 0,
  .aadd 0 none false,
  .add 0 none 0 0 0,
  .sub 0 none 0 0 0,
  .min 0 none 0 0 0,
  .max 0 none 0 0 0,
  .abs 0 none 0 0,
  .neg 0 none 0 0,
  .clmp 0 none 0 0 0,
  .seln 0 none 0 0 0,
  .scl 0 none 0 0,
  .nrm 0 none 0 0] : List Instr).all Instr.wf = true := by decide +kernel

/-- The same commands with every operand in its range are well formed, part 2. -/
theorem test_well_formed_2 : ([
  .sete 0 none 0 0,
  .ldi 0 none 0 0,
  .addi 0 none 0 0,
  .movk 0 none 0 0,
  .fec 0 none 0 0,
  .beqz 0 none 0 0,
  .bnez 0 none 0 0,
  .bltz 0 none 0 0,
  .bgez 0 none 0 0,
  .bqs 0 none 0,
  .brun 0 none 0,
  .jmp 0 none 0,
  .wait 0 none 0,
  .pub 0 none 0 0,
  .endInst 0 none 0,
  .ld 0 none 0 0,
  .st 0 none 0 0,
  .ldx 0 none 0 0 0,
  .stx 0 none 0 0 0,
  .ldc 0 none 0 0,
  .ldq 0 none 0 0,
  .ldw 0 none 0 0,
  .stw 0 none 0 0,
  .ldp 0 none 0 0,
  .followTrip 0 0,
  .calfinRestart ⟨0, 0⟩ 0,
  .halt ⟨0, 0⟩ 0,
  .tripClear ⟨0, 0⟩ 0 0,
  .resultRead ⟨0, 0⟩ 0 0 .lo,
  .demandWrite ⟨0, 0⟩ 0 0 0,
  .trsRollback ⟨0, 0⟩,
  .trsRestart ⟨0, 0⟩,
  .gridFwWrite ⟨0, 0⟩ 0,
  .prechargeTimeout 0,
  .contactorFeedback 0,
  .failClose 0,
  .welded 0,
  .xpFaultClear ⟨0, 0⟩ 0,
  .bayRelease 0,
  .exchangeRecord (List.replicate 128 0),
  .cableSample 0,
  .sensorRecovered 0,
  .fastSamplingEnd 0,
  .heatBalance 0,
  .bellowsRestart ⟨0, 0⟩,
  .dieSample (List.replicate 16 0),
  .assaySample ⟨List.replicate 64 0, [], List.replicate 16 0, List.replicate 16 0, 0, false⟩,
  .dcPlausibility 0,
  .meterFaultEnd 0,
  .testPulseEnd 0,
  .pendingPulseStart 0,
  .rwsWrite ⟨0, 0⟩ 0 0,
  .disconnectOpen 0,
  .discWaitExpiry 0,
  .disconnectFeedbackTimeout 0,
  .disconnectDropout 0,
  .safetyCycle false [] [],
  .inputChannelChange 0 false false,
  .supplyPulse 0 [] [] [],
  .discrepancy 0] : List Instr).all Instr.wf = true := by decide +kernel

/-- The same commands with every operand in its range are well formed, part 3. -/
theorem test_well_formed_3 : ([
  .readbackCheck 0 false,
  .energiseCheckStep 0 false,
  .darkTestStart 0,
  .darkTestEnd 0 false,
  .brakeTest ⟨0, 0⟩ 0,
  .brakeTestStep 0 false false,
  .testIntervalExpiry 0,
  .brakeApplyAfterExpiry 0,
  .tenonReceive 0 [],
  .tenonLost 0,
  .pegRoleWrite ⟨0, 0⟩ false,
  .kick ⟨0, 0⟩,
  .handover ⟨0, 0⟩,
  .pdoWrite ⟨0, 0⟩ 0,
  .linkDown 0,
  .announce 0 0 [],
  .response 0 0 [],
  .responseTimeout 0,
  .px 0 0 [],
  .leave 0 [],
  .partnerLost 0,
  .attachCleared 0,
  .hostPointWrite ⟨0, 0⟩ 0 0 0,
  .ringConsWrite ⟨0, 0⟩ 0 0,
  .ringProdWrite ⟨0, 0⟩ 0 0,
  .canFrameReceived 0 0 ⟨0, false, false, false, false, false, []⟩,
  .objectRead ⟨0, 0⟩ 0 0 0 0,
  .canTxAttempt 0 0,
  .canTxComplete 0 .sent 0,
  .canTxCancel ⟨0, 0⟩ 0 0 0,
  .canDisable ⟨0, 0⟩ 0 false false,
  .canRejoin 0,
  .recover ⟨0, 0⟩ 0,
  .recovered 0,
  .ttTrigger 0 0 false 0,
  .ttRefLost 0,
  .fdlFrameReceived 0 0 [],
  .fdlTxStart 1,
  .accessTimeout 1,
  .nodeLost 0,
  .nodeRefresh 0,
  .hibernate ⟨0, 0⟩,
  .emberSample 0 0,
  .wake 1,
  .estimatorRestart ⟨0, 0⟩,
  .generateKey (.channel 0),
  .deriveKey (.channel 0),
  .importKey (.channel 0),
  .exportKey (.channel 0),
  .destroyKey (.channel 0),
  .getPublic (.channel 0),
  .attest (.channel 0),
  .getCert (.channel 0),
  .signMsg (.channel 0),
  .verifySig (.channel 0),
  .sealAead (.channel 0),
  .openAead (.channel 0),
  .hashData (.channel 0),
  .keyStage (.channel 0),
  .keyCommit (.channel 0)] : List Instr).all Instr.wf = true := by decide +kernel

/-- The same commands with every operand in its range are well formed, part 4. -/
theorem test_well_formed_4 : ([
  .abort (.channel 0),
  .lcStep (.channel 0),
  .rotRotate (.channel 0),
  .debugUnlock (.channel 0),
  .keySwap 0,
  .graceEnd 0,
  .debugClose ⟨0, 0⟩,
  .clear ⟨0, 0⟩,
  .scbCfgWrite ⟨0, 0⟩ 0,
  .tagCfgWrite ⟨0, 0⟩ 0,
  .tagComplete 0 0 0 0 0 0 0 0 0,
  .hostDone ⟨0, 0⟩,
  .supplyWarn 0 0,
  .supplyReset 0 0 0,
  .swReset ⟨0, 0⟩,
  .resetRelease 0 [] false,
  .regionWarnEnd 0 1 .freq 0,
  .supplyWarnEnd 0 0,
  .fastLimitEnd 0 [],
  .asyMbxGo ⟨0, 0⟩,
  .cfrChGo ⟨0, 0⟩ 0,
  .counterInputEdge 0 false false,
  .portLinkUp 0 1 false,
  .canRxError 0 0 false,
  .protocolException 0 0,
  .expectedFrameMissing 0,
  .debugHalt 0] : List Instr).all Instr.wf = true := by decide +kernel

/-! ### A witness for the hypotheses of each obligation, clause by clause -/

theorem witness_StepRunsTheFrontCommand : State.reset.pending = [] := by decide

theorem witness_EveryStepKeepsCanonicalForms : StateWf State.reset ∧ step State.reset = .next State.reset :=
  ⟨⟨by decide, by decide⟩, rfl⟩

/-- A running device issues markers; a joinery commit at the last stroke of a heat; a standby that waits for its holder's marker; a core
power-up of a device that does not run. The last clause: a cold start at stroke 5 changes the counter. -/
theorem witness_OnlyMarkersAndStartsMoveTheStrokeCounter :
    testMeets (testRun []) (fun s => s.ticks && !s.waitsForHolder)
    ∧ testMeets (testAt 99 { testRun [] with jny := { Jny.init with scheduled := true } })
      (fun s => s.ticks && !s.waitsForHolder && s.jny.scheduled && decide ((s.now + 1) % 100 = 0))
    ∧ testMeets (testRun [(F.PEG_STAT_STATE, 0, 2)]) (fun s => s.ticks && s.waitsForHolder && decide (1 % 100 = (s.now + 1) % 100))
    ∧ State.reset.sys.booted = false
    ∧ testNext (.coldStart false) (testAt 5 (testRun [])) (fun t => decide (t.sys.stroke ≠ 5)) := by decide +kernel

/-- The stroke counter's halves at 038h and 03Ch of the SYS window, read by core 0; then with a shadow held. -/
theorem witness_SplitReadsUseTheShadow :
    ((.SYS_STROKE_CNT_LO, .SYS_STROKE_CNT_HI) ∈ pairs ∧ regAt 0 0x38 = some (.SYS_STROKE_CNT_LO, 0)
      ∧ regAt 0 0x3C = some (.SYS_STROKE_CNT_HI, 0))
    ∧ Reaches (testRun []) ⟨0, 0⟩ 0 0x38 ∧ Reaches (testRun []) ⟨0, 0⟩ 0 0x3C
    ∧ heldFor [⟨⟨0, 0⟩, .SYS_STROKE_CNT_HI, 0, 7⟩] ⟨0, 0⟩ .SYS_STROKE_CNT_HI 0 = some 7
    ∧ heldFor (testRun []).sys.shadows ⟨0, 0⟩ .SYS_STROKE_CNT_HI 0 = none := by
  refine ⟨by decide +kernel, ?_, ?_, by decide +kernel, by decide +kernel⟩ <;> (unfold Reaches; decide +kernel)

/-- The staging address at 008h and 00Ch of the JNY window, written by core 0. -/
theorem witness_SplitWritesJoinBothHalves :
    ((.JNY_STAGE_ADDR_LO, .JNY_STAGE_ADDR_HI) ∈ pairs ∧ pairWritable .JNY_STAGE_ADDR_LO .JNY_STAGE_ADDR_HI = true
      ∧ regAt 1 0x8 = some (.JNY_STAGE_ADDR_LO, 0) ∧ regAt 1 0xC = some (.JNY_STAGE_ADDR_HI, 0))
    ∧ Reaches (testRun []) ⟨0, 0⟩ 1 0x8 ∧ Reaches (testRun []) ⟨0, 0⟩ 1 0xC
    ∧ heldFor [⟨⟨0, 0⟩, .JNY_STAGE_ADDR_LO, 0, 64⟩] ⟨0, 0⟩ .JNY_STAGE_ADDR_LO 0 = some 64
    ∧ heldFor (testRun []).sys.heldLo ⟨0, 0⟩ .JNY_STAGE_ADDR_LO 0 = none := by
  refine ⟨by decide +kernel, ?_, ?_, by decide +kernel, by decide +kernel⟩ <;> (unfold Reaches; decide +kernel)

/-- SYS_CTL at 020h, written by core 0. -/
theorem witness_RegisterWritesFollowTheAccessCodes :
    (regAt 0 0x20 = some (.SYS_CTL, 0) ∧ Reg.hiOf .SYS_CTL = none ∧ Reg.loOf .SYS_CTL = none ∧ Reg.SYS_CTL ∉ ownRows
      ∧ Reg.SYS_CTL.row.win ≠ 11)
    ∧ Reaches (testRun []) ⟨0, 0⟩ 0 0x20 :=
  ⟨by decide +kernel, by unfold Reaches; decide +kernel⟩

/-- One byte at the start and one at the end of the general SRAM, written and read by core 0. -/
theorem witness_MemoryAccessesReadAndWriteTheirBytes :
    ∀ a ∈ ([0x11880000, 0x13FFFFFF] : List Nat), testMeets (testRun []) fun s =>
      s.sys.booted && s.up (Initiator.island ⟨0, 0⟩) && decide (s.regionOf a 1 = some .sram) && s.up (regionIsland .sram a)
        && !s.absentAt .sram a 1 && !s.firewall ⟨0, 0⟩ .sram a 1 true && !s.firewall ⟨0, 0⟩ .sram a 1 false && !s.eccIn a 1 := by decide +kernel

/-- The byte below SRAM and the one above MRAM lie in no range; an access of one byte to SYS_FEAT0 has a bad width. -/
theorem witness_RefusedAccessesEndInABusError :
    testMeets (testRun []) (fun s => s.sys.booted && s.up (Initiator.island ⟨0, 0⟩) && decide (s.regionOf 0x0FFFFFFF 1 = none)
      && decide (s.regionOf 0x22000000 1 = none))
    ∧ testMeets (testRun []) (fun s => decide (s.regionOf 0x40000010 1 = some (.window 0)) && s.up (windowIsland 0)
      && !s.absentAt (.window 0) 0x40000010 1 && !s.firewall ⟨0, 0⟩ (.window 0) 0x40000010 1 false && !widthOk 0x40000010 1) := by decide +kernel

/-- Ten samples of 200 mV between the domains of islands 2 and 4 fail island 4, whose domain lies further from 0.9 V. -/
theorem witness_SupplyMismatchChoosesAnIsland :
    Measured.fault 2 4 (.supply (List.replicate 10 (900000, 700000))) = some (.supply, 4, 2) := by
  have h : Config.tripAbove 1 % 15000 < 15000 := Nat.mod_lt _ (by decide)
  have g : 90000 + Config.tripAbove 1 % 15000 < 200000 := by omega
  simp [Measured.fault, supplyFault, regionTrip, List.replicate, g]

/-- Two samples of 130 K between islands 2 and 4 fail island 2, the hotter one. -/
theorem witness_TemperatureMismatchChoosesAnIsland : Measured.fault 2 4 (.temp [(150000, 20000), (150000, 20000)]) = some (.temp, 2, 4) := by
  have h : Config.tripAbove 2 % 2000 < 2000 := Nat.mod_lt _ (by decide)
  have g : 15000 + Config.tripAbove 2 % 2000 < 130000 := by omega
  simp [Measured.fault, tempFault, regionTrip, g]

/-- Clocks of islands 5, 6 and 8 of 1000 ppm fail island 0 against island 5. -/
theorem witness_FrequencyMismatchChoosesAnIsland :
    Measured.fault 0 5 (.freq [0, 0, 0, 0, 1000000, 1000000, 0, 1000000]) = some (.freq, 0, 5) := by
  have h : Config.tripAbove 0 % 20000 < 20000 := Nat.mod_lt _ (by decide)
  have g : 200000 + Config.tripAbove 0 % 20000 < 1000000 := by omega
  have n : ¬ 1000000 ≤ 200000 + Config.tripAbove 0 % 20000 := by omega
  simp [Measured.fault, freqFault, clockOf, regionTrip, g, n]

/-- Islands 0 and 8, a first and a second excursion, the end of one; islands 0 and 8 are adjacent, with no fault held and with one; island 8 two strokes late. -/
theorem witness_RegionLimitsWarnAndFailIslands :
    testMeets (testRun []) (fun s => s.runs 0 && adjacent 8 0 && decide ((8, 0, Quantity.temp) ∉ s.sys.warned ∧ regionLevel .temp < 2 ^ 40))
    ∧ testMeets { testRun [] with sys := { (testRun []).sys with warned := [(8, 0, .temp), (8, 0, .freq)] } } (fun s =>
      s.runs 0 && decide ((8, 0, Quantity.temp) ∈ s.sys.warned ∧ ∃ c ∈ s.sys.warned, c ≠ (8, 0, .temp) ∧ c.1 = 8))
    ∧ testMeets (testRun []) (fun s => s.runs 0 && adjacent 2 4 && s.up 4 && s.up 2 && decide (s.fld F.SYS_REGION_FAULT_CODE = 0))
    ∧ testMeets (testRun [(F.SYS_REGION_FAULT_CODE, 0, 0x10)]) (fun s => s.runs 0 && s.up 2 && decide (s.fld F.SYS_REGION_FAULT_CODE ≠ 0))
    ∧ testMeets { testRun [] with sys := { (testRun []).sys with skewRun := Arr.set ⟨0, []⟩ 8 2 } } (fun s =>
      s.up 8 && decide (s.sys.skewRun.get 8 = 2)) := by
  decide +kernel

/-- A running program, and Forge, are stroke-bound work that runs. -/
theorem witness_OverrunsAreCountedAndReported :
    workRuns (testRun [(F.CLF_ENG_STAT_STATE, 47, 1)]) (.program 47) ∧ workRuns (testRun []) .forge := by
  constructor <;> (unfold workRuns; decide +kernel)

/-- Below the green-timber limit of 3 and at it, for a program of bay 1, for Forge with a live bay, and for the others. -/
theorem witness_OverrunLimitsTakeTheFaultAction :
    testMeets { testRun [] with sys := { (testRun []).sys with overruns := [(.truss, 2)] } } (fun s => decide (s.overruns .truss < s.limitOf .truss))
    ∧ testMeets { testRun [(F.CLF_ENG_STAT_STATE, 0, 1)] [(tyLOOP, testBody 64 [(0, [1]), (19, [1])])] with
        sys := { Sys.init with booted := true, overruns := [(.program 0, 3)] } }
      (fun s => s.runs 2 && decide (s.limitOf (.program 0) ≤ s.overruns (.program 0)) && s.hasForge && decide (s.engineBay 0 = some 1)
        && decide (s.fld F.CLF_ENG_STAT_STATE 0 ≠ 3))
    ∧ testMeets { testRun [(F.FRG_BAY_CFG_N, 23, 4), (F.FRG_BAY_CTL_RUN, 23, 1)] with sys := { (testRun []).sys with overruns := [(.forge, 3)] } }
      (fun s => s.runs 4 && decide (s.limitOf .forge ≤ s.overruns .forge) && s.hasForge && decide (23 ∈ s.bays) && s.bayLive 23)
    ∧ ∀ w ∈ ([.sequence 0, .truss, .bellows, .battery, .mortise, .assay] : List Work),
      testMeets { testRun [] with sys := { (testRun []).sys with overruns := [(w, 3)] } } (fun s =>
        s.runs (Work.island w) && decide (s.limitOf w ≤ s.overruns w)) := by decide +kernel

/-- A pending image after some heats. -/
def testPending (heats : Nat) : PendingImage := ⟨testImage [], [(0, .output 31)], false, heats⟩

/-- In IDLE and in PENDING; a check of a length of 0 bytes, of 64 bytes at the start of the general SRAM, whose zeros are no image, and of
64 bytes of which one word has an uncorrectable error. -/
theorem witness_LoaderCommandsFollowTheLoaderState :
    testMeets (testRun []) (fun s => testReach s .JNY_CMD 0 && decide (s.jnyState = 0))
    ∧ testMeets (testRun [(F.JNY_STAT_STATE, 0, 2)]) (fun s => testReach s .JNY_CMD 0 && decide (s.jnyState = 2))
    ∧ testMeets { testRun [] with jny := { Jny.init with checking := some (0x11880000, 0) } } (fun s =>
      decide (s.jny.checking = some (0x11880000, 0)) && !s.stageable_ 0x11880000 0)
    ∧ testMeets { testRun [] with jny := { Jny.init with checking := some (0x11880000, 64) } } (fun s =>
      decide (s.jny.checking = some (0x11880000, 64)) && s.stageable_ 0x11880000 64 && !s.eccIn 0x11880000 64
        && (s.imageErr (s.bytes 0x11880000 64) true).isSome)
    ∧ testMeets { testRun [] with ecc := [0x11880008] } (fun s => s.stageable_ 0x11880000 64 && s.eccIn 0x11880000 64) := by
  decide +kernel

/-- The image in PENDING entered it in this heat and one heat ago; after 5 and after 4 heats of a timeout of 5; scheduled at stroke 99. -/
theorem witness_PendingImagesAreClaimedCommittedOrAbandoned :
    testMeets { testRun [] with jny := { Jny.init with waiting := some (testPending 1) } } (fun s => decide (s.jny.waiting = some (testPending 1)))
    ∧ (testPending 0).heats = 0 ∧ 0 < (testPending 1).heats
    ∧ testMeets { testRun [(F.JNY_TIMEOUT_HEATS, 0, 5)] with jny := { Jny.init with waiting := some (testPending 5) } } (fun s =>
      decide (s.jny.waiting = some (testPending 5) ∧ max 1 (s.fld F.JNY_TIMEOUT_HEATS) ≤ (testPending 5).heats
        ∧ (testPending 4).heats < max 1 (s.fld F.JNY_TIMEOUT_HEATS)))
    ∧ testMeets (testAt 99 { testRun [] with jny := { Jny.init with waiting := some (testPending 1), scheduled := true } }) (fun s =>
      s.ticks && !s.waitsForHolder && s.jny.scheduled && decide ((s.now + 1) % 100 = 0)) := by decide +kernel

/-- An ACQ section of one sequence on converter 15 with one slot: its trigger source, its argument, its flags. -/
def testAcq (src arg flags : Nat) : Nat × List Byte :=
  (tyACQ, testBody 328 [(0, [1]), (304, [15, BitVec.ofNat 8 flags, BitVec.ofNat 8 src, 0] ++ leBytes 2 arg ++ leBytes 2 4095), (314, [1]),
    (320, [0, 0, 0, 0] ++ leBytes 4 0x2F0003FC)])

/-- The state with converter 15's queue and its run. -/
def testConv (s : State) (q : List Run) (cur susp : Option Run) : State :=
  s.onConv 15 fun c => { c with queue := q, cur := cur, susp := susp }

/-- Each trigger source; a sequence that is running; 8 and 7 runs of other sequences waiting. -/
theorem witness_TriggersQueueRunsOrAreCounted :
    testMeets (testRun [] [testAcq 0 1 0]) (fun s => match s.sequence 0 with
      | some q => decide (q.src = 0 ∧ s.now % max q.arg 1 = 0) && !s.flag F.ACQ_SEQ_STAT_STOPPED 0 && !s.busySeq q 0
          && decide ((s.conv q.cnv).queue.length < 8)
      | none => false)
    ∧ testMeets (testRun [] [testAcq 1 1 0]) (fun s => match s.sequence 0 with
      | some q => decide (q.src = 1 ∧ 0 ∉ s.acq.fired) | none => false)
    ∧ testMeets (testRun [] [testAcq 1 1 4]) (fun s => match s.sequence 0 with
      | some q => decide (q.src = 1) && q.every | none => false)
    ∧ testMeets (testRun [] [testAcq 2 100 0]) (fun s => match s.sequence 0 with
      | some q => decide (q.src = 2 ∧ 100 ≠ 0 ∧ 100 % max q.arg 1 = 0) | none => false)
    ∧ testMeets (testRun [] [testAcq 3 0 0]) (fun s => match s.sequence 0 with
      | some q => testReach s .ACQ_SOFT_TRIG 0 && decide (q.src = 3) && !s.flag F.ACQ_SEQ_STAT_STOPPED 0 | none => false)
    ∧ testMeets (testConv (testRun [] [testAcq 0 1 0]) [] (some ⟨0, 0, 0, false, 0, false, 0, (0, 0)⟩) none) (fun s => match s.sequence 0 with
      | some q => s.busySeq q 0 | none => false)
    ∧ testMeets (testConv (testRun [] [testAcq 0 1 0]) (List.replicate 8 ⟨5, 0, 0, false, 0, false, 0, (0, 0)⟩) none none) (fun s => match s.sequence 0 with
      | some q => !s.busySeq q 0 && decide (8 ≤ (s.conv q.cnv).queue.length) | none => false)
    ∧ testMeets (testConv (testRun [] [testAcq 0 1 0]) (List.replicate 7 ⟨5, 0, 0, false, 0, false, 0, (0, 0)⟩) none none) (fun s => match s.sequence 0 with
      | some q => !s.busySeq q 0 && decide ((s.conv q.cnv).queue.length < 8) | none => false) := by decide +kernel

/-- A run due at its very instant; an urgent run of sequence 0 beside a slot of sequence 5; an aborted run; a slot in progress, the last of its
sequence, whose destination is a Calfin word; the pair's check is not due. -/
theorem witness_RunsStartRestartAndDeliverResults :
    testMeets (testConv (testRun [] [testAcq 0 1 0]) [⟨0, 0, 7, false, 0, false, 0, (0, 0)⟩] none none) (fun s =>
      !(s.check 7).due && !(s.check 7).began
      && decide ((s.conv 15).cur = none ∧ (s.conv 15).susp = none ∧ (s.conv 15).wait = none
        ∧ (s.slotRec ⟨0, 0, 7, false, 0, false, 0, (0, 0)⟩).isSome
        ∧ s.firstRun ((s.conv 15).queue.filter fun r => decide (r.stroke < s.now ∨ (r.stroke = s.now ∧ r.at_ ≤ 7)))
          = some ⟨0, 0, 7, false, 0, false, 0, (0, 0)⟩))
    ∧ testMeets (testConv (testRun [(F.ACQ_SEQ_STAT_URGENT, 0, 1)] [testAcq 0 1 0]) [⟨0, 0, 7, false, 0, false, 0, (0, 0)⟩]
        (some ⟨5, 0, 0, false, 0, false, 0, (0, 7)⟩) none) (fun s => s.flag F.ACQ_SEQ_STAT_URGENT 0 && !s.flag F.ACQ_SEQ_STAT_URGENT 5
      && notBefore (0, 7) (0, 7) && (s.slotRec ⟨0, 0, 7, false, 0, false, 0, (0, 0)⟩).isSome
      && decide ((s.conv 15).cur = some ⟨5, 0, 0, false, 0, false, 0, (0, 7)⟩
        ∧ s.firstRun ((s.conv 15).queue.filter fun r => decide (r.stroke < s.now ∨ (r.stroke = s.now ∧ r.at_ ≤ 7)))
          = some ⟨0, 0, 7, false, 0, false, 0, (0, 0)⟩))
    ∧ testMeets (testConv (testRun [] [testAcq 0 1 0]) [] none (some ⟨0, 0, 7, false, 0, false, 0, (0, 0)⟩)) (fun s =>
      decide ((s.conv 15).cur = none ∧ (s.conv 15).susp.isSome ∧ (s.slotRec ⟨0, 0, 7, false, 0, false, 0, (0, 0)⟩).isSome))
    ∧ testMeets (testConv (testRun [] [testAcq 0 1 0]) [] (some ⟨0, 0, 7, false, 0, false, 0, (0, 0)⟩) none) (fun s =>
      match s.slotRec ⟨0, 0, 7, false, 0, false, 0, (0, 0)⟩, s.sequence 0 with
      | some x, some q => decide ((s.conv 15).cur.isSome ∧ x.typ = 0 ∧ x.input < 8 ∧ q.slots ≤ 0 + 1)
      | _, _ => false) := by decide +kernel

/-- A stopped sequence and one that runs; LP = 1 with and without LP_OK; a due check of an enabled pair at half a stroke and one that has
begun; one before half a stroke; CONSEC at its limit. -/
theorem witness_SequenceControlAndPairChecks :
    testMeets (testRun [(F.ACQ_SEQ_STAT_STOPPED, 127, 1)]) (fun s => testReach s .ACQ_SEQ_RESTART 0 && s.flag F.ACQ_SEQ_STAT_STOPPED 127
      && !s.flag F.ACQ_SEQ_STAT_STOPPED 0)
    ∧ testMeets (testRun [] [testAcq 0 1 0]) (fun s => testReach s .ACQ_CNV_CFG 15 &&
      decide (∃ k < acqSeqs (s.body tyACQ), (acqSeq (s.body tyACQ) k).cnv = 15 ∧ (acqSeq (s.body tyACQ) k).lpOk = false))
    ∧ testMeets (testRun [] [testAcq 0 1 2]) (fun s => testReach s .ACQ_CNV_CFG 15 &&
      decide (∀ k < acqSeqs (s.body tyACQ), (acqSeq (s.body tyACQ) k).cnv = 15 → (acqSeq (s.body tyACQ) k).lpOk = true))
    ∧ testMeets ((testRun [(F.ACQ_CHK_CFG_EN, 7, 1)]).onCheck 7 fun _ => ⟨true, false, false⟩) (fun s => (s.check 7).due
      && decide (s.fld F.ACQ_CHK_CFG_EN 7 ≠ 0 ∧ s.period ≤ 2 * 500 ∧ (s.conv 14).cur = none ∧ (s.conv 15).cur = none))
    ∧ testMeets ((testRun [(F.ACQ_CHK_CFG_EN, 7, 1)]).onCheck 7 fun _ => ⟨true, true, true⟩) (fun s => (s.check 7).began
      && decide (s.fld F.ACQ_CHK_CFG_EN 7 ≠ 0))
    ∧ testMeets ((testRun [(F.ACQ_CHK_CFG_EN, 7, 1)]).onCheck 7 fun _ => ⟨true, false, false⟩) (fun s => !(s.check 7).began
      && decide (2 * 499 < s.period))
    ∧ testMeets (testRun [(F.ACQ_CHK_CFG_EN, 7, 1), (F.ACQ_CHK_CFG_FAIL_LIMIT, 7, 3), (F.ACQ_CHK_STAT_CONSEC, 7, 3)]) (fun s =>
      decide (s.fld F.ACQ_CHK_CFG_EN 7 = 1 ∧ s.fld F.ACQ_CHK_STAT_FAULT 7 = 0
        ∧ s.fld F.ACQ_CHK_CFG_FAIL_LIMIT 7 ≤ s.fld F.ACQ_CHK_STAT_CONSEC 7))
    ∧ testMeets (testRun []) (fun s => testReach s .ACQ_CHK_STAT 7) := by decide +kernel

/-- The decimator of input 63 of the tests: its outputs with transitions, its clocks without one. -/
def testSinc (s : State) (moving still : Nat) : State :=
  { s with acq := { s.acq with sincs := ⟨⟨0, 0, 0, 0, 0, 0, false, 0, 0⟩, [(63, ⟨0, 0, 0, 0, 0, 0, false, moving, still⟩)]⟩ } }

/-- An owned input; one that is not stuck, with 63 quiet clocks before and one more and none more; one that is stuck; 16 and 15 outputs with
transitions. -/
theorem witness_ModulatorInputsDecimateAndShowStuck :
    testMeets (testRun [(F.ACQ_MOD_CFG_OWNER, 63, 1)]) (fun s =>
      decide (s.fld F.ACQ_MOD_CFG_OWNER 63 ≠ 0 ∧ s.fld F.ACQ_MOD_CFG_OWNER 63 ≠ 3 ∧ 63 ∉ s.acq.gap))
    ∧ testMeets (testSinc (testRun [(F.ACQ_MOD_CFG_OWNER, 63, 1)]) 0 63) (fun s => !s.flag F.ACQ_MOD_DATA_STUCK 63
      && decide (s.fld F.ACQ_MOD_CFG_OWNER 63 ≠ 3 ∧ 64 ≤ ((s.acq.sincs.get 63).quiet [false]).1 ∧ ((s.acq.sincs.get 63).quiet []).1 < 64))
    ∧ (testRun [(F.ACQ_MOD_DATA_STUCK, 63, 1)]).flag F.ACQ_MOD_DATA_STUCK 63 = true
    ∧ testMeets (testSinc (testRun []) 16 0) (fun s => decide (16 ≤ (s.acq.sincs.get 63).moving))
    ∧ testMeets (testSinc (testRun []) 15 0) (fun s => decide ((s.acq.sincs.get 63).moving < 16)) := by decide +kernel

/-- Bay 23 of phase 95 alone, with RUN = 1; more fields; the phase and the bay changed. -/
def testBay (l : List (Fld × Nat × Nat)) (f : Phase → Phase) (g : Bay → Bay := id) : State :=
  ((testRun ([(F.FRG_PH_CFG_IN_BAY, 95, 1), (F.FRG_PH_CFG_BAY, 95, 23), (F.FRG_BAY_CFG_N, 23, 1), (F.FRG_BAY_CTL_RUN, 23, 1)] ++ l)).onPhase 95 f).onBay 23 g

/-- Phase 95 running and, with the bay faulted, not; before its ON edge; on, at the end of the blanking, with the comparator at its level,
with and without the clamp's mark; on, at MAXD × P ÷ 256; and off again. -/
theorem witness_PhaseEdgesFollowThePwmSequence :
    testMeets (testBay [] id) (fun s => decide (s.phaseBay 95 = some 23) && s.isRunning 95)
    ∧ testMeets (testBay [(F.FRG_BAY_STAT_FAULT, 23, 1)] id) (fun s => decide (s.phaseBay 95 = some 23) && !s.isRunning 95)
    ∧ testMeets (testBay [(F.FRG_BAY_CTL_RUN, 23, 0)] fun y => { y with going := true }) (fun s => (s.phase 95).going && !(s.phase 95).skipped
      && !(s.phase 95).edged && s.mayPulse 95 && !s.isRunning 95 && !s.cutting 23 && decide (s.phaseBay 95 = some 23))
    ∧ testMeets (testBay [(F.FRG_PH_TIM_BLANK, 95, 20), (F.FRG_PH_DAC_CODE, 95, 1)] fun y => { y with high := true, mark := true }) (fun s =>
      (s.phase 95).high && (s.phase 95).mark && decide (s.fld F.FRG_PH_TIM_BLANK 95 * 5 ≤ 100 ∧ s.tripLevel 95 100 ≤ 293 * 40960))
    ∧ testMeets (testBay [] fun y => { y with high := true }) (fun s => (s.phase 95).high && !(s.phase 95).mark
      && decide (s.fld F.FRG_PH_TIM_BLANK 95 * 5 ≤ 0 ∧ s.tripLevel 95 0 ≤ 0))
    ∧ testMeets (testBay [(F.FRG_BAY_CFG_MAXD, 23, 230), (F.FRG_BAY_CFG_MK, 23, 1)] fun y => { y with high := true }) (fun s => (s.phase 95).high
      && decide (s.fld F.FRG_BAY_CFG_MAXD 23 * s.bayPeriod 23 ≤ 256 * s.bayPeriod 23))
    ∧ testMeets (testBay [] fun y => { y with going := true, edged := true }) (fun s => (s.phase 95).going && (s.phase 95).edged
      && !(s.phase 95).high && (s.phaseBay 95).isSome) := by decide +kernel

/-- The bits of MOD_DATA that put the fast limit's filter of 4 clock groups of 16 at one end of its range. -/
def testOnes : List Bool := List.replicate 64 true

/-- The 64th saturated period; an overshoot for exactly OVS_LIMIT markers; a fast limit of ACTION 1 whose filter sees nothing but ones above
HI = 100. -/
theorem witness_BayProtectionsFaultTheBay :
    testMeets (testBay [] fun y => { y with full := 64 }) (fun s => s.hasForge && !s.flag F.FRG_BAY_STAT_FAULT 23
      && decide (s.running 23 ≠ [] ∧ ∀ p ∈ s.running 23, 64 ≤ (s.phase p).full))
    ∧ testMeets (testBay [(F.FRG_BAY_AUX_OVS_LIMIT, 23, 5)] id fun x => { x with ovs := true, ovsFor := 5 }) (fun s => s.hasForge
      && !s.flag F.FRG_BAY_STAT_FAULT 23 && s.cutting 23 && decide (s.fld F.FRG_BAY_AUX_OVS_LIMIT 23 ≤ (s.bay 23).ovsFor))
    ∧ testMeets (testBay [(F.ACQ_MOD_CFG_OWNER, 63, 2), (F.FRG_FLD_EN, 63, 1), (F.FRG_FLD_ACTION, 63, 1), (F.FRG_FLD_BAY, 63, 23),
        (F.FRG_FLD_HI, 63, 100)] id) (fun s => s.fastFed 63 && s.flag F.FRG_FLD_EN 63 && decide (s.fld F.FRG_FLD_ACTION 63 ≠ 0)
      && (s.fastBits 63 testOnes).fastOut 63 && !s.flag F.FRG_BAY_STAT_FAULT (s.fld F.FRG_FLD_BAY 63)) := by decide +kernel

/-- An overshoot at the threshold and one below it; a fast limit of ACTION 0 above HI, and one inside; a shed step at the end of its ramp; a
hold at its end; 100 heats at TRIM_MAX. -/
theorem witness_TruncationSheddingAndTrim :
    testMeets (testBay [(F.FRG_BAY_AUX_OVS_THR, 23, 500)] id) (fun s => s.hasForge && !(s.bay 23).ovs
      && s.overThr 23 (2 ^ 40) 0 && !s.overThr 23 (-1) 0)
    ∧ testMeets (testBay [(F.ACQ_MOD_CFG_OWNER, 63, 2), (F.FRG_FLD_EN, 63, 1), (F.FRG_FLD_BAY, 63, 23), (F.FRG_FLD_HI, 63, 100)] id) (fun s =>
      s.fastFed 63 && s.flag F.FRG_FLD_EN 63 && decide (s.fld F.FRG_FLD_ACTION 63 = 0 ∧ 63 ∉ (s.bay (s.fld F.FRG_FLD_BAY 63)).fast)
      && (s.fastBits 63 testOnes).fastOut 63)
    ∧ testMeets (testBay [(F.ACQ_MOD_CFG_OWNER, 63, 2), (F.FRG_FLD_EN, 63, 1), (F.FRG_FLD_BAY, 63, 23), (F.FRG_FLD_HI, 63, 2047)] id) (fun s =>
      s.fastFed 63 && !(s.fastBits 63 testOnes).fastOut 63)
    ∧ testMeets (testBay [(F.FRG_BAY_SHED_SHED_RAMP, 23, 8)] id fun x => { x with step := some (95, 8, 1) }) (fun s =>
      decide ((s.bay 23).step = some (95, 8, 1) ∧ s.fld F.FRG_BAY_SHED_SHED_RAMP 23 ≤ 8))
    ∧ testMeets (testAt 2000 (testBay [(F.FRG_BAY_STAT_SHED, 23, 3), (F.FRG_BAY_SHED_HOLD, 23, 1)] id fun x => { x with holdFrom := 10 })) (fun s =>
      decide (s.fld F.FRG_BAY_STAT_SHED 23 = 3 ∧ (s.bay 23).holdFrom + s.fld F.FRG_BAY_SHED_HOLD 23 * 10 ≤ s.heat))
    ∧ testMeets (testBay [] fun y => { y with atMax := 100 }) (fun s => decide (100 ≤ (s.phase 95).atMax)) := by decide +kernel

/-- A phase of a bay that is not dropped, and a sense code one past each end of the window; RUN = 0 and 1; a faulted bay whose cause, an
overshoot, has ended, and has not. -/
theorem witness_DropsAndReleasesFollowTheirConditions :
    testMeets (testBay [] id) (fun s => decide (s.phaseBay 95 = some 23 ∧ s.fld F.FRG_BAY_CTL_RUN 23 ≠ 0 ∧ 95 < s.phaseCount)
      && !s.dropped 95 && !s.standby && testReach s .FRG_PH_STAT 95)
    ∧ ((-151 : Int) < -150 ∧ (1350 : Int) < 1351)
    ∧ testMeets (testBay [(F.FRG_BAY_CTL_RUN, 23, 0)] id) (fun s => testReach s .FRG_PH_STAT 95
      && decide (s.phaseBay 95 = some 23 ∧ s.fld F.FRG_BAY_CTL_RUN 23 = 0))
    ∧ testMeets (testBay [(F.FRG_BAY_STAT_FAULT, 23, 1), (F.FRG_BAY_STAT_CAUSE, 23, 1)] id) (fun s => testReach s .FRG_BAY_CTL 23
      && s.flag F.FRG_BAY_STAT_FAULT 23 && s.causeEnded 23)
    ∧ testMeets (testBay [(F.FRG_BAY_STAT_FAULT, 23, 1), (F.FRG_BAY_STAT_CAUSE, 23, 1)] id fun x => { x with ovs := true }) (fun s =>
      testReach s .FRG_BAY_CTL 23 && s.flag F.FRG_BAY_STAT_FAULT 23 && !s.causeEnded 23) := by decide +kernel

/-- A LOOP section of one program on engine 47: format, bay, 16,384 bundles of code, monitor 3 with ACTION and TIMER 4. -/
def testLoop (fmt bay action : Nat) : Nat × List Byte :=
  (tyLOOP, testBody 80 [(0, [1, 1]), (16, [47, BitVec.ofNat 8 fmt, 1, BitVec.ofNat 8 bay]), (36, leBytes 2 16384), (64, [47, 3, BitVec.ofNat 8 action]),
    (72, leBytes 2 4)])

/-- An instance of engine 47 runs, its next bundle the given one. -/
def testEng (fmt after : Nat) (f : Engine → Engine := id) : State :=
  (testRun [(F.CLF_ENG_STAT_STATE, 47, 1)] [testLoop fmt 23 1]).onEng 47 fun x => f { x with after := after, bundle := after - 1 }

/-- The same with byte 7 of its first bundle at 70h. -/
def testBadBundle (s : State) : State := s.setBytes (s.codeBase 47) [0, 0, 0, 0, 0, 0, 0, 0x70]

/-- Engine 47 issues the first and the last bundle of its code, and runs a further slot of it; block floating and binary32. -/
theorem witness_SlotRuns :
    (∃ g, SlotRuns (testEng 0 0) 47 (some 0) g ∧ g.fmt = 0) ∧ (∃ g, SlotRuns (testEng 0 16384) 47 none g ∧ g.fmt = 0)
    ∧ (∃ g, SlotRuns (testEng 1 16383) 47 (some 0) g ∧ g.fmt ≠ 0) := by
  refine ⟨⟨loopProgram (testLoop 0 23 1).2 0, ?_, by decide +kernel⟩, ⟨loopProgram (testLoop 0 23 1).2 0, ?_, by decide +kernel⟩,
    ⟨loopProgram (testLoop 1 23 1).2 0, ?_, by decide +kernel⟩⟩ <;> (unfold SlotRuns Fetches; decide +kernel)

/-- The states of witness_SlotRuns meet the hypotheses of the MAC and the ALU slot of both formats and of END. -/
theorem witness_BlockFloatingMacSlot : ∃ g, SlotRuns (testEng 0 0) 47 (some 0) g ∧ g.fmt = 0 := witness_SlotRuns.1
theorem witness_BlockFloatingAluSlot : ∃ g, SlotRuns (testEng 0 16384) 47 none g ∧ g.fmt = 0 := witness_SlotRuns.2.1
theorem witness_Binary32Slots : ∃ g, SlotRuns (testEng 1 16383) 47 (some 0) g ∧ g.fmt ≠ 0 := witness_SlotRuns.2.2
theorem witness_EndCommitsTheInstance : ∃ g, SlotRuns (testEng 0 0) 47 (some 0) g := witness_SlotRuns.1.imp fun _ h => h.1

/-- The first bundle of engine 47's code has the reserved opcode 7 in its MAC slot. -/
theorem witness_ReservedBundle : ∃ g, Fetches (testBadBundle (testEng 0 0)) 47 (some 0) g
    ∧ reservedBundle ((issued (testBadBundle (testEng 0 0)) 47 (some 0)).fetched 47) = true := by
  refine ⟨loopProgram (testLoop 0 23 1).2 0, ?_, by decide +kernel⟩
  unfold Fetches; decide +kernel

/-- Arrival bit 255 clear, and set. -/
theorem witness_BranchesWaitAndMarks :
    bitOf ((testEng 0 0).eng 47).arrival (255 % 256) = false
    ∧ bitOf ((testEng 0 0 fun x => { x with arrival := 2 ^ 255 }).eng 47).arrival (255 % 256) = true
    ∧ (∃ g, SlotRuns (testEng 0 0) 47 (some 0) g) := ⟨by decide +kernel, by decide +kernel, witness_SlotRuns.1.imp fun _ h => h.1⟩

/-- Words 0 and 32,767 without an ECC error, and with one; an index at both ends and one past each (k1 = 32,767); a point holding 1. -/
theorem witness_LoadsReadTheEngineMemory :
    testMeets (testEng 0 0) (fun s => !(issued s 47 (some 0)).eccAt (engineWord 47 0) && !(issued s 47 (some 0)).eccAt (engineWord 47 32767)
      && !(issued s 47 (some 0)).eccAt ((issued s 47 (some 0)).constBase 47 + 4 * (4095 % 4096)))
    ∧ testMeets { testEng 0 0 with ecc := [engineWord 47 32766] } (fun s =>
      (issued s 47 (some 0)).eccAt (engineWord 47 32767))
    ∧ testMeets (testEng 0 0 fun x => { x with now := { x.now with k := x.now.k.set 1 32767 } }) (fun s =>
      let i : Int := ((issued s 47 (some 0)).k 47 1).toInt
      decide (0 ≤ i ∧ i < 32768 ∧ i + -32768 < 0 ∧ 32768 ≤ i + 1))
    ∧ (∃ x, pointNum 4 (1 : W64) = some (.num x)) := by
  refine ⟨by decide +kernel, by decide +kernel, by decide +kernel, ?_⟩
  exact ⟨_, rfl⟩

/-- Words on both sides of each limit: 511 and 512, 4,607 and 4,608. An index that STX uses, from k1 = 32,767. -/
theorem witness_StoresAreHeldWrittenOrStop :
    ((511 : Nat) < 512 ∧ 512 ≤ 512 ∧ 4607 < 4608 ∧ 4608 ≤ 4608)
    ∧ testMeets (testEng 0 0 fun x => { x with now := { x.now with k := x.now.k.set 1 32767 } }) (fun s =>
      let i : Int := ((issued s 47 (some 0)).k 47 1).toInt
      decide (0 ≤ i ∧ i < 32768 ∧ i + -32768 < 0 ∧ 32768 ≤ i + 1))
    ∧ (∃ g, SlotRuns (testEng 0 0) 47 (some 0) g) := ⟨by decide, by decide +kernel, witness_SlotRuns.1.imp fun _ h => h.1⟩

/-- COUNT at TIMER of an untripped monitor, one below, and a tripped one; a stopped program and a running one with its bay off and on; an
engine without a program. -/
theorem witness_MonitorsProgramControlAndResultReads :
    testMeets (testRun [(F.CLF_FE_STAT_COUNT, 191, 4)] [testLoop 0 23 1]) (fun s => match s.monitor 47 3 with
      | some x => !s.flag F.CLF_FE_STAT_TRIP 191 && decide (x.timer ≤ s.fld F.CLF_FE_STAT_COUNT 191) | none => false)
    ∧ testMeets (testRun [(F.CLF_FE_STAT_COUNT, 191, 3)] [testLoop 0 23 1]) (fun s => match s.monitor 47 3 with
      | some x => decide (s.fld F.CLF_FE_STAT_COUNT 191 < x.timer) | none => false)
    ∧ (testRun [(F.CLF_FE_STAT_TRIP, 191, 1)]).flag F.CLF_FE_STAT_TRIP 191 = true
    ∧ testMeets (testRun []) (fun s => testReach s .CLF_FE_STAT 191 && testReach s .CLF_RES_LO 767 && testReach s .CLF_RES_HI 767)
    ∧ testMeets (testRun [(F.CLF_ENG_STAT_STATE, 47, 3)] [testLoop 0 23 1]) (fun s => testReach s .CLF_ENG_CTL 47 && testReach s .CLF_ENG_CTL 0 &&
      (s.program 47).isSome && decide (s.fld F.CLF_ENG_STAT_STATE 47 = 3 ∧ s.program 0 = none))
    ∧ testMeets (testEng 0 0) (fun s => testReach s .CLF_ENG_CTL 47 && (s.program 47).isSome && decide (s.fld F.CLF_ENG_STAT_STATE 47 ≠ 3 ∧ s.engineBay 47 = some 23)
      && !s.flag F.FRG_BAY_CTL_RUN 23)
    ∧ testMeets (testRun [(F.FRG_BAY_CTL_RUN, 23, 1)] [testLoop 0 23 1]) (fun s => testReach s .CLF_ENG_CTL 47
      && decide (s.engineBay 47 = some 23) && s.flag F.FRG_BAY_CTL_RUN 23) := by
  decide +kernel

/-- A demand write reaches its register, and Truss runs with a demand of output 31, at stroke 250; attached and detached; a rebuild under way; a
grant, and none in SAFE_HOLD and out of it; limits at the present one and below; inputs that were not good for exactly 1,000 strokes, one of
them bound by no point. -/
theorem witness_DemandsAndLimitsRollTheWindowBack :
    testMeets (testAt 250 (testRun [(F.TRS_STAT_STATE, 0, 1), (F.TRS_OUT_DEM_HI_VALID, 31, 1)])) (fun s => testReach s .TRS_OUT_DEM_LO 31 && s.trussRuns
      && !s.detached 31 && s.flag F.TRS_OUT_DEM_HI_VALID 31 && testReach s .TRS_CTL 0)
    ∧ testMeets (testRun [(F.NET_SESS_CFG_EN, 31, 1)]) (fun s => testReach s .TRS_OUT_DEM_LO 31 && s.detached 31)
    ∧ testMeets { testRun [(F.TRS_STAT_STATE, 0, 1)] with trs := { Trs.init with rebuild := some 1 } } (fun s => s.trussRuns && s.trs.rebuild.isSome)
    ∧ testMeets (testRun [(F.TRS_OUT_STAT_GRANT, 31, 1)]) (fun s => testReach s .TRS_CTL 0 && !s.trussRuns
      && decide (∃ o < (32 : Nat), s.fld F.TRS_OUT_STAT_GRANT o ≠ 0))
    ∧ testMeets (testRun [(F.TRS_STAT_STATE, 0, 2)]) (fun s => testReach s .TRS_CTL 0
      && decide ((∀ o < (32 : Nat), s.fld F.TRS_OUT_STAT_GRANT o = 0) ∧ s.fld F.TRS_STAT_STATE = 2))
    ∧ testMeets (testRun [(F.TRS_STAT_STATE, 0, 1)]) (fun s => testReach s .TRS_CTL 0
      && decide ((∀ o < (32 : Nat), s.fld F.TRS_OUT_STAT_GRANT o = 0) ∧ s.fld F.TRS_STAT_STATE ≠ 2))
    ∧ (∀ st ∈ ([0, 1] : List Nat), testMeets (testRun [(F.TRS_GRID_FW_LIMIT, 0, 500), (F.TRS_STAT_STATE, 0, st)]) (fun s => testReach s .TRS_GRID_FW 0 &&
      decide (s.fld F.TRS_GRID_FW_LIMIT ≤ (500 : W32).toNat ∧ (499 : W32).toNat < s.fld F.TRS_GRID_FW_LIMIT ∧ (s.trussRuns = true ↔ st = 1))))
    ∧ testMeets (testAt 1005 { testRun [] [(tyTOPO, testBody 196 [(0x18, leBytes 4 0x104)])] with
        trs := { Trs.init with budget := ⟨none, some 5, false⟩, curtail := ⟨none, some 5, false⟩, aux := ⟨none, some 5, false⟩ } })
      (fun s => s.inputBound .curtail && !(testRun [] [(tyTOPO, testBody 196 [(0x18, List.replicate 4 0xFF)])]).inputBound .curtail && s.inputBound .aux
        && decide (5 + 1000 ≤ s.now ∧ s.trs.budget.since = some 5 ∧ s.trs.budget.gone = false ∧ s.trs.curtail.since = some 5
        ∧ s.trs.curtail.gone = false ∧ s.trs.aux.since = some 5 ∧ s.trs.aux.gone = false)) := by decide +kernel

/-- A TOPO section of one crosspoint, whose feedback is point 100h, of contactor class 0 with T_CLOSE = 5 and T_OPEN = 6, of own device 1,
and of a second device 2 with FALLBACK 7 below a key slot 20; 10 heats of pre-charge, 3 of hold. -/
def testTopo : Nat × List Byte :=
  (tyTOPO, testBody 196 [(2, leBytes 2 1), (4, [1, 1, 2, 0, 0, 10]), (0x0E, leBytes 2 3), (0x2C, leBytes 2 20), (64, List.replicate 96 0xFF), (160, [5, 6]),
    (164, [0, 0, 0, 0] ++ leBytes 4 0x102 ++ leBytes 4 0x100), (180, [1]), (188, [2, 0, 7, 0])])

/-- The crosspoint in a state, with its feedback and its command. -/
def testXp (state timer : Nat) (fb : W64) (closed : Bool) : State :=
  let s := testPoint (testRun [(F.TRS_XP_STAT_STATE, 0, state), (F.TRS_XP_STAT_TIMER, 0, timer), (F.TRS_XP_STAT_FAULT, 0, 1)] [testTopo]) 0x100 fb
  { s with trs := { s.trs with xps := s.trs.xps.set 0 ⟨closed, 0⟩ } }

/-- Bay 0 in a mode, for output 0, since heat 1. -/
def testMode (mode : Nat) : State :=
  let s := testAt 1100 (testRun [] [testTopo])
  { s with trs := { s.trs with committed := { s.trs.committed with
      bays := s.trs.committed.bays.set 0 ⟨mode, some 0, 0, 0, 0, 1, 0, 0⟩, outs := s.trs.committed.outs.set 0 ⟨0, 0, 0, 0, 0, 0, 0, 0, 3⟩ } } }

/-- A pre-charge of exactly 10 heats; each state with the feedback that ends or refutes it; the timers at T_CLOSE and T_OPEN; a feedback
against the command and one with it; 3 heats at which one bay fewer would do. -/
theorem witness_CrosspointsFollowCommandAndFeedback :
    testMeets (testMode 1) (fun s => decide ((s.trs.committed.bays.get 0).mode = 1 ∧ (s.trs.committed.bays.get 0).since + u8 s.topo 9 ≤ s.heat
      ∧ s.xpState (s.trs.committed.bays.get 0).xp = 0 ∧ s.trs.match_.get 0 < 3))
    ∧ testMeets (testXp 1 0 1 true) (fun s => decide (s.feedback 0 = some true ∧ s.xpState 0 = 1))
    ∧ testMeets (testXp 3 0 0 false) (fun s => decide (s.feedback 0 = some false ∧ s.xpState 0 = 3))
    ∧ testMeets (testXp 5 0 0 false) (fun s => decide (s.feedback 0 = some false ∧ s.xpState 0 = 5))
    ∧ testMeets (testXp 0 0 1 false) (fun s => testReach s .TRS_XP_STAT 0 && decide (s.feedback 0 = some true ∧ s.xpState 0 = 0 ∧ s.feedback 0 ≠ some (s.trs.xps.get 0).closed))
    ∧ testMeets (testXp 2 0 0 true) (fun s => decide (s.feedback 0 = some false ∧ s.xpState 0 = 2))
    ∧ testMeets (testXp 1 5 0 true) (fun s => decide (s.xpState 0 = 1 ∧ (topoClass s.topo (topoXp s.topo 0).cls).1 ≤ s.fld F.TRS_XP_STAT_TIMER 0
      ∧ s.feedback 0 ≠ some true))
    ∧ testMeets (testXp 3 6 1 false) (fun s => decide (s.xpState 0 = 3 ∧ (topoClass s.topo (topoXp s.topo 0).cls).2 ≤ s.fld F.TRS_XP_STAT_TIMER 0
      ∧ s.feedback 0 ≠ some false))
    ∧ testMeets (testXp 4 0 0 false) (fun s => testReach s .TRS_XP_STAT 0 && decide (s.feedback 0 = some (s.trs.xps.get 0).closed) && s.flag F.TRS_XP_STAT_FAULT 0)
    ∧ testMeets (testMode 2) (fun s => decide (u16 s.topo 0x0E ≤ (s.trs.committed.outs.get 0).fewer
      ∧ (((s.trs.committed.baysOf 0).filter fun c => decide (c.2.mode ≠ 0) && !s.trs.leaving.contains c.1).getLast?).isSome)) := by decide +kernel

/-- The first 112 bytes of a record of a device for heat 0, and the record with its tag. -/
def testHead (dev : Byte) : List Byte := testBody 112 [(0, [dev, 0]), (2, leBytes 2 1), (10, leBytes 2 7), (0x30, List.replicate 64 0xFF)]
def testRecord (dev : Byte) : List Byte := testHead dev ++ gcmSeal (List.replicate 32 0) [] (testHead dev) []

/-- The site's device, with the site key in slot 20; at heat 100. -/
def testSite : State := testAt 10000 (testKey (testRun [] [testTopo]) 20 (2 ^ 12))

/-- The device that a record names, where TOPO lists it beside this one. -/
def testListed (s : State) (b : List Byte) : Option (Nat × Nat) := s.siteDevs.find? fun d => decide (d.1 = (readRecord b).dev ∧ (readRecord b).dev ≠ s.ownDev)

/-- Every island of the site's device runs; a valid record of device 2, one of device 9, which is not listed, and one that is too short; no agreed
heat outside FALLBACK; 10 current heats within it, and 9. -/
theorem witness_PeerRecordsAndFallback :
    (testAt 400 testSite).runs 3 = true
    ∧ (testListed (testAt 400 testSite) (testRecord 2) = some (2, 7)
      ∧ (testAt 400 testSite).recordFault (testRecord 2) ((testListed (testAt 400 testSite) (testRecord 2)).map Prod.snd) = 0)
    ∧ (testListed (testAt 400 testSite) (testRecord 9) = none ∧ (testAt 400 testSite).recordFault (testRecord 9) none = 0)
    ∧ (testSite.recordFault ((testHead 2).take 64) (some 7) ≠ 0 ∧ (readRecord ((testHead 2).take 64)).dev = 2)
    ∧ (testSite.runs 3 = true ∧ 1 < testSite.siteDevs.length ∧ (∀ h, testSite.agreed = some h → h + testSite.fld F.TRS_GRID_CFG_MISS_LIM < testSite.heat)
      ∧ testSite.flag F.TRS_STAT_FALLBACK = false)
    ∧ testMeets { testRun [(F.TRS_STAT_FALLBACK, 0, 1)] with trs := { Trs.init with current := 10 } } (fun s =>
      s.flag F.TRS_STAT_FALLBACK && decide (10 ≤ s.trs.current ∧ 9 < 10)) := by
  have ok (d : Byte) (h : d = 2 ∨ d = 9) : (testAt 400 testSite).recordOk (testRecord d) = true :=
    List.any_eq_true.2 ⟨List.replicate 32 0, by decide +kernel, decide_eq_true (by
      have hl : (testHead d).length = 112 := by rcases h with rfl | rfl <;> decide +kernel
      have h1 : (testRecord d).take 112 = testHead d := by rw [← hl]; exact List.take_left
      have h2 : (testRecord d).drop 112 = gcmSeal (List.replicate 32 0) [] (testHead d) [] := by rw [← hl]; exact List.drop_left
      rw [h1, h2, List.take_of_length_le (Nat.le_of_eq (by simp [gcmSeal, gcmText, leBytes]))])⟩
  have none : testSite.agreed = none := by decide +kernel
  refine ⟨by decide +kernel, ⟨by decide +kernel, ?_⟩, ⟨by decide +kernel, ?_⟩, ⟨?_, by decide +kernel⟩,
    ⟨by decide +kernel, by decide +kernel, ?_, by decide +kernel⟩, by decide +kernel⟩
  · unfold State.recordFault
    rw [ok 2 (.inl rfl)]
    decide +kernel
  · unfold State.recordFault
    rw [ok 9 (.inr rfl)]
    decide +kernel
  · unfold State.recordFault
    have short : ((testHead 2).take 64).length ≠ 128 := by decide +kernel
    rw [if_pos (Or.inl short)]
    decide
  · intro h e
    rw [none] at e
    cases e

/-- A THRM section of one cable, of output 31, with a model, 1.00 l/min as its least flow and a tolerance of 10 %, of inlet, outlet and flow
points 180h, 182h and 184h, and of one loop that PUMP_MIN keeps at 100 %. -/
def testTherm : Nat × List Byte :=
  (tyTHRM, testBody 96 [(0, [1, 1, 0, 0]), (16, [31, 1, 0, 0]), (34, leBytes 2 100), (46, [0, 10]), (48, List.replicate 4 0xFF ++ leBytes 4 0x180
    ++ leBytes 4 0x182 ++ leBytes 4 0x184 ++ List.replicate 4 0xFF), (80, [0, 100])])

/-- Fresh samples: 20 °C, 25 °C and 5 l/min; the cable as given. -/
def testCable (l : List (Fld × Nat × Nat)) (f : Cable → Cable) : State :=
  (testPoint (testPoint (testPoint (testRun l [testTherm]) 0x180 0x41A00000) 0x182 0x41C80000) 0x184 0x40A00000).onCable 31 f

/-- Plausible sensors and an inlet that is not sampled, with and without a broken sensor before; the tenth plausible sample; 1 s of calm; a
heat-balance window within its tolerance and one out of it, each run at its limit and below; a loop with a broken sensor; Bellows
stopped. -/
theorem witness_CableSensorsBalanceAndCooling :
    testMeets (testCable [] id) (fun s => match s.cable 31 with
      | some r => !s.flag F.BLW_CBL_STAT_SENSOR 31 && decide (brokenOf r (s.sampleOf 31 r.pIn none (-40) 150 true)
          (s.sampleOf 31 r.pOut none (-40) 150 true) (s.sampleOf 31 r.pFlow none 0 200 false) (s.sampleOf 31 r.pCbl none (-40) 150 true) = 0)
      | none => false)
    ∧ testMeets (testRun [(F.BLW_CBL_STAT_SENSOR, 31, 1)] [testTherm]) (fun s => match s.cable 31 with
      | some r => s.flag F.BLW_CBL_STAT_SENSOR 31 && decide (brokenOf r (s.sampleOf 31 r.pIn none (-40) 150 true)
          (s.sampleOf 31 r.pOut none (-40) 150 true) (s.sampleOf 31 r.pFlow none 0 200 false) (s.sampleOf 31 r.pCbl none (-40) 150 true) = 1)
      | none => false)
    ∧ testMeets (testCable [(F.BLW_CBL_STAT_SENSOR, 31, 1), (F.BLW_CBL_STAT_FAST, 31, 1)] fun x => { x with good := 10 }) (fun s =>
      s.flag F.BLW_CBL_STAT_SENSOR 31 && decide (10 ≤ (s.cbl 31).good) && s.flag F.BLW_CBL_STAT_FAST 31)
    ∧ testMeets (testAt 100000 (testCable [] fun x => { x with calm := some 0 })) (fun s =>
      decide ((s.cbl 31).calm = some 0 ∧ 0 + s.strokesIn 100000000 ≤ s.now) && !s.flag F.BLW_CBL_STAT_SENSOR 31)
    ∧ (∀ carry ∈ ([0, 950] : List Rat), testMeets (testCable [] fun x => { x with diss := 1000, carry := carry, heats := 1, flow := some 1, bad := 2, ok := 5 })
      fun s => match s.cable 31 with
      | some r => let x := (s.cableHeat 31).cbl 31
        let d := sub32 (div32 x.diss x.heats) (div32 x.carry x.heats)
        r.model && decide (r.fmin ≤ x.flow.getD 0 ∧ 500 < div32 x.diss x.heats ∧ x.heats ≠ 0 ∧ 2 ≤ x.bad ∧ 5 ≤ x.ok ∧ 1 < 2 ∧ 4 < 5
          ∧ (mul32 (div32 r.tol 100) (div32 x.diss x.heats) < (if d < 0 then -d else d) ↔ carry = 0)) && !s.flag F.BLW_CBL_STAT_SUSPECT 31
      | none => false)
    ∧ testMeets ((testRun [(F.BLW_CBL_STAT_SENSOR, 31, 1)] [testTherm]).onBlw fun b => { b with busy := true }) (fun s => match s.coolLoops, s.cable 31 with
      | [l], some r => !s.flag F.BLW_STAT_STOPPED && s.blw.busy && decide (l.pumpMin ≤ 100 ∧ r.loop = l.loop) && s.flag F.BLW_CBL_STAT_SENSOR 31
      | _, _ => false)
    ∧ testMeets (testRun [(F.BLW_STAT_STOPPED, 0, 1)]) (fun s => testReach s .BLW_CTL 0 && s.flag F.BLW_STAT_STOPPED)
    ∧ testMeets (testRun []) (fun s => testReach s .BLW_CTL 0 && !s.flag F.BLW_STAT_STOPPED && !s.blw.busy && decide (s.cable 31 = none)) := by decide +kernel

/-- A sensor one quarter kelvin outside each end of the range; all sensors agreeing at T_THROT − 10 K, just below T_CRIT and, for the second
time, at T_CRIT, where the holder's partner is in SYNC and where it is not; CRIT that ends, levels that rise and fall, and the trip. -/
theorem witness_DieTemperatureThrottlesAndTrips :
    ((-221 : Int) < -220 ∧ (640 : Int) < 641)
    ∧ (∀ m ∈ ([400, 479, 480] : List Int), (∀ k < (16 : Nat), -220 ≤ (List.replicate 16 m).getD k 0 ∧ (List.replicate 16 m).getD k 0 ≤ m
        ∧ m ≤ (List.replicate 16 m).getD k 0 + 100) ∧ m ≤ 640 ∧ (∃ k < (16 : Nat), (List.replicate 16 m).getD k 0 = m))
    ∧ testMeets { testRun [] with blw := { Blw.init with critSeen := Arr.set ⟨0, []⟩ 15 1 } } (fun s => decide (s.tThrot - 40 ≤ 400 ∧ (479 : Int) < s.tCrit ∧ s.tCrit ≤ 480
      ∧ 1 ≤ s.blw.critSeen.get 15 ∧ s.blw.critSeen.get 14 = 0) && !s.flag F.BLW_DIE_STAT_CRIT && !(s.holds && s.partnerSync))
    ∧ testMeets (testRun [(F.PEG_STAT_HOLD, 0, 1), (F.PEG_STAT_LINK, 0, 1), (F.PEG_STAT_PARTNER_SYNC, 0, 1)]) (fun s => s.holds && s.partnerSync)
    ∧ testMeets (testAt 100000 { testRun [(F.BLW_DIE_STAT_CRIT, 0, 1), (F.BLW_DIE_STAT_LEVEL, 0, 3)] with
        blw := { Blw.init with belowThrot := some 0, atThrot := some 99000, below5 := some 90000 } }) (fun s =>
      decide (0 + s.strokesIn 100000000 ≤ s.now ∧ 99000 + s.strokesIn 1000000 ≤ s.now ∧ 90000 + s.strokesIn 10000000 ≤ s.now
        ∧ s.fld F.BLW_DIE_STAT_LEVEL < 4 ∧ 0 < s.fld F.BLW_DIE_STAT_LEVEL ∧ s.pwr.coreOff = false) && s.flag F.BLW_DIE_STAT_CRIT) := by
  decide +kernel

/-- A running Assay with metering point 31 in use on modulator inputs 1 and 0, and START; the instant in half microseconds, of an
interval of 15 minutes. -/
def testAssay (start now : Nat) (l : List (Fld × Nat × Nat)) (f : Asy → Asy) : State :=
  (testRun ([(F.ASY_STAT_RUN, 0, 1), (F.ASY_PT_CFG_EN, 31, 1), (F.ASY_PT_CFG_I_MOD, 31, 1), (F.ASY_PT_START_START, 31, start), (F.ASY_INT_CFG_LEN, 0, 900)]
    ++ l)).onAsy fun a => f { a with metered := true, now := now }

/-- A sample of zeros below START = 10, and at START = 0, one half microsecond before the interval ends. -/
theorem witness_SamplesAreBooked :
    ∀ start ∈ ([0, 10] : List Nat), testMeets (testAssay start 1799999999 [] id) fun s => s.flag F.ASY_STAT_RUN && s.asy.metered
      && decide ((∀ w ∈ s.asy.switches, s.asy.now < 2 * w.at_) ∧ s.asy.now < 2 * s.boundary ∧ (∀ k < (34 : Nat), s.ptOn k = decide (k = 31)))
      && !s.flag F.ASY_PT_STAT_METER_FAULT 31 && !s.flag F.ASY_PT_CFG_MODE 31 && !s.flag F.ASY_PT_CFG_DIR 31 && !s.flag F.ASY_PT_CFG_CLC 31
      && decide (s.fld F.ASY_PT_CFG_I_MOD 31 = 1 ∧ s.fld F.ASY_PT_CFG_U_MOD 31 = 0 ∧ s.meterAcc 31 0 = 0 ∧ s.meterAcc 31 1 = 0
        ∧ s.treg 31 (s.tariff 31) 0 = 0 ∧ (s.scaled 1 0 = 0) ∧ s.scaled 0 0 * s.scaled 1 0 * 5 / 288 = 0
        ∧ 0 ≤ s.meterAcc 31 0 + quantum 0 ∧ s.meterAcc 31 0 + quantum 0 < 2 ^ 64
        ∧ ((0 : Rat) < (s.fld F.ASY_PT_START_START 31 : Rat) / 100 ↔ start = 10))
      && !atEnd 0 && decide ((1 : Nat) ∉ ([] : List Nat)) := by decide +kernel

/-- The 100th agreeing cycle; the 16th good output of a faulted meter; a second of 1 A beside 0 A after 9 and after 8 bad ones; a drift
window that is not over, and windows of too few strokes, of as many as fit, and of too many; a save that is due, at 100,000 µs; and a pulse that waits. -/
theorem witness_MeterSupervisionAndSaves :
    testMeets ((testRun [(F.ASY_STAT_CHECK_FAULT, 0, 1)]).onAsy fun a => { a with cross := { a.cross with agree := 100 } }) (fun s =>
      s.flag F.ASY_STAT_CHECK_FAULT && decide (100 ≤ s.asy.cross.agree))
    ∧ testMeets ((testRun [(F.ASY_PT_STAT_METER_FAULT, 31, 1)]).onAsy fun a => { a with meters := a.meters.set 31 { Meter.init with good := 16, gap := some 0 } })
      (fun s => s.flag F.ASY_PT_STAT_METER_FAULT 31 && decide (16 ≤ (s.asy.meters.get 31).good ∧ (s.asy.meters.get 31).gap.isSome))
    ∧ (∀ bad ∈ ([8, 9] : List Nat), testMeets ((testRun [(F.ASY_PT_CFG_DC_TOL, 31, 1)]).onAsy fun a =>
        { a with meters := a.meters.set 31 { Meter.init with bad := bad, own := some (1, 0), other := some (0, 0) } }) fun s =>
      decide ((s.fld F.ASY_PT_CFG_DC_TOL 31 : Rat) / 1000 * ((s.outMax (s.ptOut 31) : Rat) / 10) < 1) && !s.flag F.ASY_PT_STAT_PLAUS 31)
    ∧ testMeets (testRun []) (fun s => decide (s.asy.driftDone = none))
    ∧ (∀ n ∈ ([104800, 104857, 104862, 105000] : List Nat), testMeets ((testRun []).onAsy fun a => { a with driftPeriod := 1000, driftDone := some n, driftOk := 9 })
      fun s => let ppm : Rat := ((2 ^ 20 : Rat) - (n : Rat) * s.asy.driftPeriod / 100) / 2 ^ 20 * 1000000
        decide ((500 < |ppm| ↔ n = 104800 ∨ n = 105000) ∧ (|ppm| ≤ 400 ↔ n = 104857 ∨ n = 104862) ∧ 9 ≤ s.asy.driftOk))
    ∧ testMeets (testAssay 0 200000 [] id) (fun s => s.flag F.ASY_STAT_RUN && s.asy.metered && decide (s.asy.savedAt / 100000 < s.lmc / 100000))
    ∧ testMeets (testRun [(F.ASY_TPO_STAT_PENDING, 3, 1)]) (fun s => decide ((s.asy.tpos.get 3).high = false ∧ 0 < s.fld F.ASY_TPO_STAT_PENDING 3)) := by
  decide +kernel

/-- The attributes of a top-level key of an algorithm, owned by the Assay. -/
def testSignerAttr (alg : Nat) : W32 :=
  F.CFR_SLOT_ATTR_LO_ALG.put (F.CFR_SLOT_ATTR_LO_OWNER.put (F.CFR_SLOT_ATTR_LO_PARENT.put 0 0x3FF) 5) alg

/-- A mailbox that serves a frame of an opcode and a body, with fields set. -/
def testMail (opcode : Nat) (body : List Byte) (l : List (Fld × Nat × Nat) := []) : State :=
  (testRun ((F.ASY_MBX_STAT_BUSY, 0, 1) :: l)).onAsy fun a =>
    { a with frame := leBytes 2 opcode ++ leBytes 6 0 ++ leBytes 4 body.length ++ leBytes 4 0 ++ body }

/-- GO while BUSY and not; START of point 0 as a sealed register, with the seal open and closed, and its change one microsecond early and
due; SEAL_BREAK with the switch, at 15 and at 14; SEAL_CLOSE, LEGAL_STAGE of 0 bytes with the seal open and closed, PQ_CONFIG of 8 bytes, of
16 and of none, NONLEGAL_STAGE and CONFIG; a record to be signed. -/
theorem witness_SealedChangesAndTheMailbox :
    testMeets (testMail 0 []) (fun s => testReach s .ASY_MBX_CMD 0 && s.flag F.ASY_MBX_STAT_BUSY)
    ∧ testMeets (testRun []) (fun s => testReach s .ASY_MBX_CMD 0 && !s.flag F.ASY_MBX_STAT_BUSY && s.mailFrame.1.isNone)
    ∧ testMeets (testRun [(F.ASY_MBX_ADDR_LO_ADDR_LO, 0, 0x11880000), (F.ASY_MBX_LEN_LEN, 0, 24)]) (fun s => match s.mailFrame.1 with
      | some b => testReach s .ASY_MBX_CMD 0 && decide (s.mailCheck b ≠ 0) | none => false)
    ∧ (regAt 11 0xC00 = some (.ASY_PT_START, 0) ∧ Reg.ASY_PT_START.row.rw ≠ 0 ∧ Reg.ASY_PT_START.dom ≠ .device)
    ∧ testMeets (testRun [(F.ASY_SEAL_CNT_OPEN, 0, 1)]) (fun s => testReach s .ASY_PT_START 0 && s.flag F.ASY_SEAL_CNT_OPEN)
    ∧ testMeets (testRun []) (fun s => testReach s .ASY_PT_START 0 && !s.flag F.ASY_SEAL_CNT_OPEN)
    ∧ testMeets ((testRun []).onAsy fun a => { a with now := 1999998, rws := [(1000000, (.ASY_PT_START, 0), 5)] }) (fun s => decide (s.lmc < 1000000))
    ∧ testMeets ((testRun []).onAsy fun a => { a with now := 2000000, rws := [(1000000, (.ASY_PT_START, 0), 5)] }) (fun s => decide (1000000 ≤ s.lmc))
    ∧ Mailed (testMail 0x28 [] [(F.ASY_SEAL_CNT_COUNT, 0, 15)]) 0x28 [] ∧ (testMail 0x28 [] [(F.ASY_SEAL_CNT_COUNT, 0, 15)]).fld F.ASY_SEAL_CNT_COUNT = 15
    ∧ Mailed (testMail 0x28 [] [(F.ASY_SEAL_CNT_COUNT, 0, 14)]) 0x28 [] ∧ (testMail 0x28 [] [(F.ASY_SEAL_CNT_COUNT, 0, 14)]).fld F.ASY_SEAL_CNT_COUNT < 15
    ∧ Mailed (testMail 0x29 []) 0x29 []
    ∧ Mailed (testMail 0x2A (leBytes 16 0) [(F.ASY_SEAL_CNT_OPEN, 0, 1)]) 0x2A (leBytes 16 0)
    ∧ Mailed (testMail 0x2A (leBytes 16 0)) 0x2A (leBytes 16 0)
    ∧ Mailed (testMail 1 (leBytes 8 (63 * 2 ^ 32)) (testRing 63 0 5 10)) 1 (leBytes 8 (63 * 2 ^ 32))
    ∧ (testMail 1 (leBytes 8 (63 * 2 ^ 32)) (testRing 63 0 5 10)).ringFits (u32 (leBytes 8 (63 * 2 ^ 32)) 4 % 64) 0 32 = true
    ∧ Mailed (testMail 1 (leBytes 16 0) (testRing 0 0 5 10)) 1 (leBytes 16 0)
    ∧ (∀ a < 2, (testMail 1 (leBytes 16 0) (testRing 0 0 5 10)).ringFits (u32 (leBytes 16 0) (8 * a + 4) % 64) 0 32 = true)
    ∧ Mailed (testMail 1 []) 1 [] ∧ Mailed (testMail 2 []) 2 []
    ∧ Mailed (testMail 0x27 (leBytes 776 7) (testRing 7 0 13 10)) 0x27 (leBytes 776 7)
    ∧ (testMail 0x27 (leBytes 776 7) (testRing 7 0 13 10)).ringFits (u8 (leBytes 776 7) 0) 0 8192 = true
    ∧ (uN (leBytes 776 7) 1 7 = 0 ∧ ∀ o < 32, u32 (leBytes 776 7) (28 + 24 * o) = 0 ∧ isPtId (u32 (leBytes 776 7) (8 + 24 * o)) = true
      ∧ isPtId (u32 (leBytes 776 7) (12 + 24 * o)) = true)
    ∧ testMeets ((testRun []).onAsy fun a => { a with log := [⟨1, List.replicate 128 0, [], false, 0, []⟩] }) (fun s =>
      decide ((s.asy.log.find? fun r => decide (r.stage = 0) && s.asy.queue.all fun q => decide (r.rseq < q.rseq)) = some ⟨1, List.replicate 128 0, [], false, 0, []⟩)) := by
  repeat' apply And.intro
  all_goals decide +kernel

/-- Slot `n` holds a signing key of an algorithm that the Assay generated for itself (R238). -/
def testSigner (s : State) (n alg : Nat) : State :=
  (((s.setReg .CFR_SLOT_STAT n (BitVec.ofNat 32 (2 ^ F.CFR_SLOT_STAT_STATE.lo))).setReg .CFR_SLOT_ATTR_LO n (testSignerAttr alg)).setReg .CFR_SLOT_ATTR_HI n
    (BitVec.ofNat 32 (2 ^ (F.CFR_SLOT_ATTR_HI_USAGE.lo + 8)))).onSlot n fun k => { k with active := some testSecret }

/-- Its registers, and those of other slots. -/
theorem testSigner_reg (s : State) (n alg : Nat) (r : Reg) (j : Nat) : (testSigner s n alg).reg r j
    = (((s.setReg .CFR_SLOT_STAT n (BitVec.ofNat 32 (2 ^ F.CFR_SLOT_STAT_STATE.lo))).setReg .CFR_SLOT_ATTR_LO n (testSignerAttr alg)).setReg .CFR_SLOT_ATTR_HI n
      (BitVec.ofNat 32 (2 ^ (F.CFR_SLOT_ATTR_HI_USAGE.lo + 8)))).reg r j := rfl

theorem testSigner_own (s : State) (n alg : Nat) :
    (testSigner s n alg).reg .CFR_SLOT_STAT n = BitVec.ofNat 32 (2 ^ F.CFR_SLOT_STAT_STATE.lo) ∧ (testSigner s n alg).reg .CFR_SLOT_ATTR_LO n = testSignerAttr alg
      ∧ (testSigner s n alg).reg .CFR_SLOT_ATTR_HI n = BitVec.ofNat 32 (2 ^ (F.CFR_SLOT_ATTR_HI_USAGE.lo + 8))
      ∧ ((testSigner s n alg).keySlot n).active = some testSecret := by
  refine ⟨?_, ?_, ?_, ?_⟩
  · rw [testSigner_reg, State.reg_setReg_name _ _ _ (by decide), State.reg_setReg_name _ _ _ (by decide), State.reg_setReg_same]
  · rw [testSigner_reg, State.reg_setReg_name _ _ _ (by decide), State.reg_setReg_same]
  · rw [testSigner_reg, State.reg_setReg_same]
  · simp [testSigner, State.keySlot, State.onSlot]

theorem testSigner_other (s : State) (n alg : Nat) {j : Nat} (h : j ≠ n) (r : Reg) :
    (testSigner s n alg).reg r j = s.reg r j ∧ (testSigner s n alg).keySlot j = s.keySlot j := by
  refine ⟨?_, Arr.get_upd_ne _ h _⟩
  rw [testSigner_reg, State.reg_setReg_index _ _ _ h, State.reg_setReg_index _ _ _ h, State.reg_setReg_index _ _ _ h]

theorem testSigner_flag (s : State) (n alg : Nat) : (testSigner s n alg).flag F.CFR_STAT_ROOT_FAIL = s.flag F.CFR_STAT_ROOT_FAIL := by
  have e : (testSigner s n alg).reg .CFR_STAT 0 = s.reg .CFR_STAT 0 := by
    rw [testSigner_reg, State.reg_setReg_name _ _ _ (by decide), State.reg_setReg_name _ _ _ (by decide), State.reg_setReg_name _ _ _ (by decide)]
  unfold State.flag State.fld
  rw [show F.CFR_STAT_ROOT_FAIL.reg = .CFR_STAT from rfl, e]

/-- A slot with these registers signs records for the Assay. -/
theorem testSigner_key (s : State) (n alg : Nat) (c : s.flag F.CFR_STAT_ROOT_FAIL = false) (ns : n < 512) (r1 : s.reg .CFR_SLOT_STAT n = BitVec.ofNat 32 (2 ^ F.CFR_SLOT_STAT_STATE.lo))
    (r2 : s.reg .CFR_SLOT_ATTR_LO n = testSignerAttr alg) (r3 : s.reg .CFR_SLOT_ATTR_HI n = BitVec.ofNat 32 (2 ^ (F.CFR_SLOT_ATTR_HI_USAGE.lo + 8)))
    (r4 : (s.keySlot n).active = some testSecret) (ha : alg = 1 ∨ alg = 3) : s.recordKey n alg = some testSecret := by
  have e1 : s.slotState n = 1 := by unfold State.slotState State.fld; rw [show F.CFR_SLOT_STAT_STATE.reg = .CFR_SLOT_STAT from rfl, r1]; decide
  have e2 (f : Fld) (hf : f.reg = .CFR_SLOT_ATTR_LO) : s.fld f n = f.of (testSignerAttr alg) := by unfold State.fld; rw [hf, r2]
  have e3 : s.fld F.CFR_SLOT_ATTR_HI_USAGE n = 2 ^ 8 := by
    unfold State.fld; rw [show F.CFR_SLOT_ATTR_HI_USAGE.reg = .CFR_SLOT_ATTR_HI from rfl, r3]; decide
  have p : s.fld F.CFR_SLOT_ATTR_LO_PARENT n = 0x3FF := by rw [e2 _ rfl]; rcases ha with rfl | rfl <;> decide
  have w : s.fld F.CFR_SLOT_ATTR_LO_OWNER n = 5 := by rw [e2 _ rfl]; rcases ha with rfl | rfl <;> decide
  have g : s.fld F.CFR_SLOT_ATTR_LO_ALG n = alg := by rw [e2 _ rfl]; rcases ha with rfl | rfl <;> decide
  have q : s.fld F.CFR_SLOT_ATTR_LO_ORIGIN n = 0 := by rw [e2 _ rfl]; rcases ha with rfl | rfl <;> decide
  have x : s.fld F.CFR_SLOT_ATTR_LO_EXPORT n = 0 := by rw [e2 _ rfl]; rcases ha with rfl | rfl <;> decide
  have u : s.useCode n 5 8 = 0 := by
    simp [State.useCode, c, State.slotLive, ns, e1, r4, w, e3, State.chainOk, p, show bitOf 256 8 = true from by decide]
  simp [State.recordKey, State.slotAlg, g, w, q, x, State.slotKey, u, r4]

/-- A signing key for records in Hallmark's slot, and one for OCMF strings in its other slot. -/
theorem witness_RecordsAreSigned :
    (testSigner (testSigner (testRun []) Config.hallmarkSlot 1) Config.ocmfSlot 3).recordKey Config.hallmarkSlot 1 = some testSecret
    ∧ (testSigner (testSigner (testRun []) Config.hallmarkSlot 1) Config.ocmfSlot 3).recordKey Config.ocmfSlot 3 = some testSecret := by
  have hn : (Config.hallmarkSlot : Nat) ≠ Config.ocmfSlot := by
    have := Config.hallmarkSlot.isLt; have := Config.ocmfNext.isLt; unfold Config.ocmfSlot; omega
  have h1 : (Config.hallmarkSlot : Nat) < 512 := Config.hallmarkSlot.isLt
  have h2 : Config.ocmfSlot < 512 := Nat.mod_lt _ (by decide)
  generalize (Config.hallmarkSlot : Nat) = h at *
  generalize Config.ocmfSlot = o at *
  have z : (testSigner (testSigner (testRun []) h 1) o 3).flag F.CFR_STAT_ROOT_FAIL = false := by rw [testSigner_flag, testSigner_flag]; decide +kernel
  have a := testSigner_own (testRun []) h 1
  have b := testSigner_own (testSigner (testRun []) h 1) o 3
  have c := testSigner_other (testSigner (testRun []) h 1) o 3 hn
  exact ⟨testSigner_key _ h 1 z h1 ((c _).1.trans a.1) ((c _).1.trans a.2.1) ((c _).1.trans a.2.2.1) (by rw [(c .CFR_STAT).2]; exact a.2.2.2) (.inl rfl),
    testSigner_key _ o 3 z h2 b.1 b.2.1 b.2.2.1 b.2.2.2 (.inr rfl)⟩

/-- A body of TXN_START for point 31 of a prepaid transaction 9, and of TXN_STOP; 16 bytes of a point, an amount and so on. -/
def testStart : List Byte := [31, 1, 0, 0] ++ leBytes 4 9 ++ leBytes 8 1000 ++ List.replicate 32 7
def testStop (number : Nat) : List Byte := [31, 0, 0, 0] ++ leBytes 4 number
def testAmount (number : Nat) (amount : Int) : List Byte := [31, 0, 0, 0] ++ leBytes 4 number ++ leBytes 8 (unsignedOf 64 amount)

/-- Transaction 9 open at point 31. -/
def testTxn (s : State) : State := s.onAsy fun a => { a with txns := a.txns.set 31 (some ⟨9, true, [], 0, 0, 0⟩) }

/-- Each refusal of TXN_START in its order, and its conditions; TXN_STOP of another number and of the open one; an amount of 0, of 1 for
another and for the open transaction; a switch one second ahead with 32 and with 31 switches held; a cancel; intervals of 59, 60, 3,600 and
3,601 s; and a label. -/
theorem witness_BillingCommandsFollowTheirChecks :
    Mailed (testMail 0x20 []) 0x20 []
    ∧ (Mailed (testMail 0x20 testStart [(F.ASY_HMK_STAT_LOG_FREE, 0, 48)]) 0x20 testStart
      ∧ (testStart.length = 48 ∧ u8 testStart 0 ≤ 31 ∧ u8 testStart 1 ≤ 1 ∧ u16 testStart 2 = 0 ∧ u32 testStart 4 ≠ 0)
      ∧ testMeets (testMail 0x20 testStart [(F.ASY_HMK_STAT_LOG_FREE, 0, 48)]) fun s => decide (s.asy.txns.get 31 = none ∧ 48 ≤ s.fld F.ASY_HMK_STAT_LOG_FREE)
        && !s.flag F.ASY_PT_STAT_METER_FAULT 31 && !s.flag F.ASY_SEAL_CNT_OPEN)
    ∧ testMeets (testTxn (testMail 0x20 testStart)) (fun s => (s.asy.txns.get 31).isSome)
    ∧ testMeets (testMail 0x20 testStart [(F.ASY_PT_STAT_METER_FAULT, 31, 1)]) (fun s => s.flag F.ASY_PT_STAT_METER_FAULT 31)
    ∧ testMeets (testMail 0x20 testStart [(F.ASY_SEAL_CNT_OPEN, 0, 1)]) (fun s => s.flag F.ASY_SEAL_CNT_OPEN)
    ∧ testMeets (testMail 0x20 testStart [(F.ASY_HMK_STAT_LOG_FREE, 0, 47)]) (fun s => decide (s.fld F.ASY_HMK_STAT_LOG_FREE < 48))
    ∧ (∀ n ∈ ([8, 9] : List Nat), (testStop n).length = 8 ∧ u8 (testStop n) 0 ≤ 31 ∧ uN (testStop n) 1 3 = 0
      ∧ (testTxn (testMail 0x21 (testStop n))).txnIs 31 (u32 (testStop n) 4) = decide (n = 9))
    ∧ Mailed (testTxn (testMail 0x21 (testStop 9))) 0x21 (testStop 9)
    ∧ (∀ a ∈ ([0, 1] : List Int), (testAmount 9 a).length = 16 ∧ signed 64 (uN (testAmount 9 a) 8 8) = a)
    ∧ Mailed (testTxn (testMail 0x22 (testAmount 9 1))) 0x22 (testAmount 9 1)
    ∧ testMeets (testTxn (testMail 0x22 (testAmount 9 1))) (fun s => s.txnIs 31 9 && !s.txnIs 31 8
      && decide (-(2 ^ 63) ≤ s.credit (s.ptOut 31) + 1 ∧ s.credit (s.ptOut 31) + 1 < 2 ^ 63))
    ∧ Mailed (testMail 0x23 (leBytes 8 (2 ^ 34 - 1) ++ leBytes 8 15 ++ leBytes 8 1000000)) 0x23 (leBytes 8 (2 ^ 34 - 1) ++ leBytes 8 15 ++ leBytes 8 1000000)
    ∧ ((leBytes 8 (2 ^ 34 - 1) ++ leBytes 8 15 ++ leBytes 8 1000000).length = 24 ∧ (0 : Nat) + 1000000 ≤ 1000000
      ∧ 32 ≤ (dropSwitches (List.replicate 32 ⟨2000000, 1, 0⟩) (2 ^ 34 - 1) 1000000).length
      ∧ (dropSwitches (List.replicate 31 ⟨2000000, 1, 0⟩) (2 ^ 34 - 1) 1000000).length < 32)
    ∧ Mailed (testMail 0x24 (leBytes 16 0)) 0x24 (leBytes 16 0)
    ∧ (∀ l ∈ ([59, 60, 3600, 3601] : List Nat), let b := leBytes 8 l ++ leBytes 8 1000000
      b.length = 16 ∧ u32 b 0 = l ∧ u32 b 4 = 0 ∧ (testMail 0x25 b).lmc + 1000000 ≤ uN b 8 8)
    ∧ Mailed (testMail 0x25 (leBytes 8 60 ++ leBytes 8 1000000)) 0x25 (leBytes 8 60 ++ leBytes 8 1000000)
    ∧ Mailed (testMail 0x26 (leBytes 8 5 ++ leBytes 8 1)) 0x26 (leBytes 8 5 ++ leBytes 8 1) := by
  repeat' apply And.intro
  all_goals decide +kernel

/-- A switch and a boundary exactly due; the start of an island that does not run and of one that does; a staged legal image with the seal
closed and open; 160 samples at rest, the end of the wait; a feedback that is missing at its time limit, and one that changes by itself. -/
theorem witness_BoundariesStartsAndDisconnects :
    testMeets (testAssay 0 2000000 [] fun a => { a with switches := [⟨1000000, 1, 3⟩] }) (fun s => s.flag F.ASY_STAT_RUN
      && decide (0 < s.fld F.ASY_INT_CFG_LEN ∧ s.asy.held = [] ∧ (s.asy.ac.get 0).waiting = [] ∧ (s.asy.ac.get 1).waiting = []
        ∧ 2 * 1000000 ≤ s.asy.now ∧ s.nextSwitch = some 1000000 ∧ s.asy.now < 2 * s.boundary
        ∧ (∀ w ∈ s.asy.switches, w.at_ ≠ 1000000 → s.asy.now < 2 * w.at_)))
    ∧ testMeets (testAssay 0 1800000000 [] id) (fun s => decide (2 * 900000000 ≤ s.asy.now ∧ s.boundary = 900000000 ∧ s.asy.held = [] ∧ s.asy.newGrid = none
      ∧ s.asy.now < 2 * 900000000 + 2000000 ∧ (∀ w ∈ s.asy.switches, s.asy.now < 2 * w.at_) ∧ s.asy.queue.length < 64))
    ∧ ((testRun []).flag F.ASY_STAT_RUN = false ∧ (testAssay 0 0 [] id).flag F.ASY_STAT_RUN = true)
    ∧ testMeets ((testRun []).onAsy fun a => { a with legal := some [1] }) (fun s => s.asy.legal.isSome && !s.flag F.ASY_SEAL_CNT_OPEN)
    ∧ (testRun [(F.ASY_SEAL_CNT_OPEN, 0, 1)]).flag F.ASY_SEAL_CNT_OPEN = true
    ∧ testMeets ((testRun []).onAsy fun a => { a with now := 20000, disc := a.disc.set 31 ⟨none, some 0x100, 0, 1, 10, some 0, 0, 160, false, false⟩ }) (fun s =>
      (s.asy.disc.get 31).asked.isSome && decide (160 ≤ (s.asy.disc.get 31).still ∧ (s.asy.disc.get 31).asked = some 0
        ∧ 0 + 20000 * (s.asy.disc.get 31).wait ≤ s.asy.now))
    ∧ testMeets (((testRun [(F.ASY_PREPAY_STAT_DISC, 31, 1)]).onAsy fun a => { a with now := 20000, disc := a.disc.set 31 ⟨none, some 0x100, 0, 1, 10, none, 0, 0, false, false⟩ }))
      (fun s => (s.asy.disc.get 31).fbPt.isSome && decide ((s.asy.disc.get 31).cmdAt + 2000 * (s.asy.disc.get 31).tDisc ≤ s.asy.now
        ∧ s.fld F.ASY_PREPAY_STAT_DISC 31 = 1 ∧ s.discShows 31 ≠ some true))
    ∧ testMeets (testPoint ((testRun [(F.ASY_PREPAY_STAT_DISC, 31, 3)]).onAsy fun a => { a with now := 20000, disc := a.disc.set 31 ⟨none, some 0x100, 0, 1, 10, none, 0, 0, false, false⟩ }) 0x100 1)
      (fun s => decide (s.fld F.ASY_PREPAY_STAT_DISC 31 = 3 ∧ s.discShows 31 ≠ some false))
    ∧ testMeets (testPoint ((testRun [(F.ASY_PREPAY_STAT_DISC, 31, 2)]).onAsy fun a => { a with disc := a.disc.set 31 ⟨none, some 0x100, 0, 1, 10, none, 0, 0, false, false⟩ }) 0x100 0)
      (fun s => decide (s.fld F.ASY_PREPAY_STAT_DISC 31 = 2 ∧ s.discShows 31 = some false))
    ∧ testMeets (testPoint ((testRun [(F.ASY_PREPAY_STAT_DISC, 31, 0)]).onAsy fun a => { a with disc := a.disc.set 31 ⟨none, some 0x100, 0, 1, 10, none, 0, 0, false, false⟩ }) 0x100 1)
      (fun s => decide (s.fld F.ASY_PREPAY_STAT_DISC 31 = 0 ∧ s.discShows 31 = some true)) := by decide +kernel

/-- An MRT section: input 31 on supplies 0 and 1 with DISC = 10 ms, counter input 30, output 15 and brake 3 with dark tests, one function that
names output 15, and the consumer connection 31 of 4 bytes with WD = 2. -/
def testMrt : Nat × List Byte :=
  (tyMRT, testBody 512 [(0, [1, 1]), (16, [31, 1, 0, 1, 0, 1]), (24, [30, 3, 255, 255]), (272, [15, 1, 100]), (400, [3, 1, 30, 15, 31, 0, 2, 0, 5, 0, 1, 0]),
    (464, [1]), (476, leBytes 2 0x8000), (496, [31, 0, 0, 4] ++ leBytes 4 77 ++ leBytes 2 2)])

/-- Mortise runs under that table, and the device holds the peg. -/
def testSafe (l : List (Fld × Nat × Nat)) (f : State → State := id) : State :=
  f (testRun ([(F.MRT_STAT_RUN, 0, 1), (F.PEG_STAT_HOLD, 0, 1)] ++ l) [testMrt])

/-- Channel 62 is fed by supply 0 and 63 is not: each finding, and a pulse without one, on the holder and on its standby; a
disagreement of exactly 10 ms. -/
theorem witness_SafeInputsTakeLevelsAndFaults :
    testMeets (testSafe []) (fun s => s.mrtRuns && s.holds && s.pulseTurn 0 && !s.pulseTurn 1 && (s.inRec 31).pulsed && decide ((s.inRec 31).typ ≠ 0 ∧ (s.inRec 31).typ ≠ 3 ∧ (s.inRec 31).typ = 1 ∧ (s.inRec 30).typ = 3)
      && s.fed 0 62 && !s.fed 0 63)
    ∧ ((62 : Nat) ∈ [62] ∧ (62 : Nat) ∉ ([] : List Nat) ∧ (63 : Nat) ∈ [62, 63])
    ∧ testMeets (testSafe []) (fun s => decide ((∃ d < (64 : Nat), s.fed 0 d = true ∧ d ∈ [62]) ∧ ∀ d < (64 : Nat), s.fed 0 d = true → d ∈ [62] → d ∉ ([] : List Nat)))
    ∧ testMeets (testSafe []) (fun s => (List.range 64).all fun c => decide (c ∈ [62, 63] → (s.fed 0 c = true → c ∈ [62] ∧ c ∈ [62]) ∧ (s.fed 0 c = false → c ∉ ([] : List Nat))))
    ∧ testMeets (testRun [(F.MRT_STAT_RUN, 0, 1), (F.PEG_STAT_STATE, 0, 4)] [testMrt]) (fun s => s.mrtRuns && !s.holds && s.beside && s.pulseTurn 0)
    ∧ testMeets (testAt 1000 (testSafe [] fun s => s.onIn 31 fun x => { x with differ := some 0 })) (fun s =>
      decide ((s.mrt.ins.get 31).differ = some 0 ∧ 0 + s.ms (10 * (s.inRec 31).disc) ≤ s.now) && !s.flag F.MRT_IN_STAT_FAULT 31) := by
  decide +kernel

/-- Each step of the energise check; a dark test that may start on output 15, and one that runs; a brake test that may not start and one
that may; each of its steps within the tolerance, whose time has
passed and has not, and one count beyond; a valid test exactly at its interval, and an expiry 10 min ago. -/
theorem witness_SafeOutputsAndBrakesAreTested :
    (∀ step ∈ ([1, 2] : List Nat), testMeets (testSafe [] fun s => s.onChan 15 fun x => { x with step := step }) fun s =>
      decide ((s.mrt.chans.get 15).step = step ∧ (s.mrt.chans.get 15).step ≠ 0))
    ∧ testMeets (testSafe [] fun s => s.setChanBit 15 31 true) (fun s => s.holds && s.darkEn 15 && s.chanBit 15 31 && !s.chanBit 15 26)
    ∧ (testSafe [] fun s => s.setChanBit 15 26 true).chanBit 15 26 = true
    ∧ testMeets (testSafe [] fun s => s.setChanBit 19 31 true) (fun s => testReach s .MRT_CMD 0 && s.mrtRuns && (s.brakeRec 3).isSome && s.chanBit 19 31)
    ∧ testMeets (testRun [(F.MRT_STAT_RUN, 0, 1)]) (fun s => testReach s .MRT_CMD 0 && s.mrtRuns && decide (s.brakeRec 0 = none))
    ∧ testMeets (testSafe [(F.MRT_CONN_STAT_VALID, 31, 1)]) (fun s => match s.brakeRec 3 with
      | some r => testReach s .MRT_CMD 0 && s.mrtRuns && !s.chanBit 19 31 && !(s.fnForBrake 3 none).any s.fnDemand && s.flag F.MRT_CONN_STAT_VALID r.conn && decide (s.testStep 3 = 0)
      | none => false)
    ∧ (∀ step ∈ ([1, 2, 3, 4] : List Nat), testMeets (testAt 60000000 (testSafe [(F.MRT_BRK_STAT_STEP, 3, step), (F.MRT_IN_STAT_COUNT, 30, 2)] fun s =>
        s.onBrake 3 fun x => { x with began := some 0 })) fun s => match s.brakeRec 3 with
      | some r => s.stepOver 3 r && !(testAt 0 s).stepOver 3 r && decide (s.testStep 3 = step ∧ ¬ r.tol < moved (s.brakeCount r) (s.mrt.brakes.get 3).base ∧ r.sto < 16)
      | none => false)
    ∧ testMeets (testSafe [(F.MRT_BRK_STAT_STEP, 3, 1), (F.MRT_IN_STAT_COUNT, 30, 65533)]) (fun s => match s.brakeRec 3 with
      | some r => decide (1 ≤ s.testStep 3 ∧ r.tol < moved (s.brakeCount r) (s.mrt.brakes.get 3).base)
      | none => false)
    ∧ testMeets (testAt 6000000 (testSafe [] fun s => s.onBrake 3 fun x => { x with passAt := some 0, valid := true })) (fun s => match s.brakeRec 3 with
      | some r => decide ((s.mrt.brakes.get 3).passAt = some 0 ∧ (s.mrt.brakes.get 3).valid = true ∧ 0 + s.ms (60000 * r.interval) ≤ s.now)
      | none => false)
    ∧ testMeets (testAt 60000000 (testSafe [] fun s => s.onBrake 3 fun x => { x with expired := some 0, acd := true })) (fun s =>
      decide ((s.mrt.brakes.get 3).expired = some 0 ∧ 0 + s.ms 600000 ≤ s.now ∧ (s.mrt.brakes.get 3).acd = true)) := by decide +kernel

/-- A cycle after one that disagreed and after one that agreed; an evaluation that demands function 0, which names output 15; the bound
connection at SEQ 65,535 takes SEQ 1 as the next, and as a repeat 65,535 itself; SEQ 16 and 32,767 beyond; a frame without a check; a
BIND for its nonce; and its second idle cycle. -/
theorem witness_SafetyCycleAndTenonFrames :
    testMeets (testSafe [] fun s => s.onMrt fun m => { m with apart := 1 }) (fun s => s.mrtRuns
      && decide (1 ≤ s.mrt.apart ∧ ∃ f < s.fnCount, ([] : List Nat).contains f ≠ [0].contains f))
    ∧ testMeets (testSafe []) (fun s => s.mrtRuns && decide (s.mrt.apart = 0 ∧ (∃ f < s.fnCount, ([] : List Nat).contains f ≠ [0].contains f)
      ∧ ∀ f < s.fnCount, (s.mrt.fns.get f).st = (s.mrt.fns.get f).st1 ∧ (s.mrt.fns.get f).pressed = (s.mrt.fns.get f).pressed1))
    ∧ testMeets (testSafe [] fun s => s.onMrt fun m => { m with eval := [(0, 1, 1)] }) (fun s => s.mrtRuns && s.holds
      && decide (s.mrt.apart = 0 ∧ (s.mrt.eval.map Prod.fst).Nodup ∧ (0, 1, 1) ∈ s.mrt.eval ∧ 0 < s.fnCount ∧ s.fnNames 0 15 = true))
    ∧ testMeets (testSafe [(F.MRT_CONN_STAT_SEQ, 31, 65535)] fun s => s.onConn 31 fun x => { x with bound := true }) (fun s => match s.connRec 31 with
      | some r => !r.produces && decide (r.wd < 65536 ∧ (s.mrt.conns.get 31).bound = true ∧ ([1, 2, 3, 4] : List Byte).length = r.len ∧ 1 ≤ r.len ∧ r.len ≤ 32
          ∧ seqAhead (s.fld F.MRT_CONN_STAT_SEQ 31) 1 = 1 ∧ seqAhead (s.fld F.MRT_CONN_STAT_SEQ 31) 16 = 16
          ∧ seqAhead (s.fld F.MRT_CONN_STAT_SEQ 31) 65535 = 0 ∧ 32767 < seqAhead (s.fld F.MRT_CONN_STAT_SEQ 31) 32768
          ∧ u32 ([] : List Byte) (6 + u8 ([] : List Byte) 1) ≠ crcTenon (leBytes 4 r.ident ++ ([] : List Byte).take (6 + u8 ([] : List Byte) 1)))
      | none => false)
    ∧ testMeets (testSafe [] fun s => s.onConn 31 fun x => { x with nonce := some [1, 2, 3, 4] }) (fun s =>
      decide ((s.mrt.conns.get 31).nonce = some [1, 2, 3, 4] ∧ (s.mrt.conns.get 31).crcAt = none))
    ∧ testMeets (testSafe [] fun s => s.onConn 31 fun x => { x with bound := true, idle := 2 }) (fun s => match s.connRec 31 with
      | some r => s.mrtRuns && !r.produces && (s.mrt.conns.get 31).bound && decide (r.wd ≤ (s.mrt.conns.get 31).idle)
      | none => false) := by decide +kernel

/-- The pair in a state, with fields set and Peg's own state changed. -/
def testPair (state : Nat) (l : List (Fld × Nat × Nat)) (f : Peg → Peg := id) : State :=
  let s := testRun ((F.PEG_STAT_STATE, 0, state) :: l)
  { s with peg := f s.peg }

/-- A claim at once, and after the wait as unit A; a takeover; a device that drives its net, as unit A and unit B; a net that is low and
one that is high against it; the watchdog exactly at its time; a partner in SYNC and none; a return that unit A's partner may ask for,
and one on the standby; a handover due on the holder at the last stroke of a heat, and on the standby. -/
theorem witness_PegIsTakenAndReleased :
    testMeets (testPair 0 []) (fun s => s.sys.booted && decide (s.peg.driven = false ∧ s.peg.released = false ∧ s.fld F.PEG_STAT_STATE = 0))
    ∧ testMeets (testPair 1 []) (fun s => decide (s.fld F.PEG_STAT_STATE = 1 ∧ s.peg.driven = false ∧ s.peg.released = false) && !s.unitB && decide (s.peg.driven = !true))
    ∧ testMeets (testPair 4 []) (fun s => decide (s.fld F.PEG_STAT_STATE = 4) && testReach s .PEG_CMD 0)
    ∧ (∀ u ∈ ([0, 1] : List Nat), testMeets (testPair 0 [(F.PEG_STAT_UNIT, 0, u)] fun p => { p with driven := true }) fun s =>
      decide (s.peg.driven = true ∧ s.peg.driven = !false ∧ (s.unitB = true ↔ u = 1)))
    ∧ testMeets (testPair 0 [(F.PEG_CTL_WDOG_EN, 0, 1), (F.PEG_WDOG_HEATS, 0, 7)] fun p => { p with driven := true, kick := 7 }) (fun s =>
      decide (s.peg.driven = true ∧ s.fld F.PEG_WDOG_HEATS ≤ s.peg.kick) && s.flag F.PEG_CTL_WDOG_EN)
    ∧ testMeets (testPair 2 [(F.PEG_STAT_HOLD, 0, 1), (F.PEG_STAT_LINK, 0, 1), (F.PEG_STAT_PARTNER_SYNC, 0, 1), (F.PEG_CTL_REVERT_EN, 0, 1)]) (fun s =>
      testReach s .PEG_CMD 0 && (s.holds && s.partnerSync) && s.revertOk)
    ∧ testMeets (testRun []) (fun s => testReach s .PEG_CMD 0 && !(s.holds && s.partnerSync))
    ∧ testMeets (testPair 4 [(F.PEG_CTL_REVERT_EN, 0, 1), (F.PEG_SYNC_TIME_HEATS, 0, 60000), (F.PEG_ROLE_PREFERRED, 0, 0)]) (fun s => s.revertOk
      && decide (s.holds = false ∧ s.unitB = s.peg.pref ∧ 6000000000 ≤ s.fld F.PEG_SYNC_TIME_HEATS * (100 * s.period)
        ∧ s.blw.worst < s.tWarn))
    ∧ testMeets (testAt 99 (testPair 2 [(F.PEG_STAT_HOLD, 0, 1), (F.PEG_STAT_LINK, 0, 1), (F.PEG_STAT_PARTNER_SYNC, 0, 1)] fun p => { p with due := some 4 })) (fun s =>
      decide (s.peg.due = some 4) && s.holds && s.returnMarker && s.partnerSync)
    ∧ testMeets (testAt 99 (testPair 4 [] fun p => { p with due := some 5 })) (fun s =>
      decide (s.peg.due = some 5 ∧ s.holds = false ∧ s.fld F.PEG_STAT_STATE = 4 ∧ (s.now + 1) % 100 = 0)) := by
  decide +kernel

/-- The preferred role as it is, and changed with the counter at 31 and at 30; a handshake of another unit with a pair key, in each state that
binds; a refused one; 100 and 99 strokes in lock; a holder with a link; a standby with the partner's image after 100 strokes of frames; a
link that lost a lane and one without three frames; a peer in reset for the first time and again. -/
theorem witness_PairBindsAlignsAndLosesItsLink :
    testMeets (testRun [(F.PEG_ROLE_PREFERRED, 0, 1), (F.PEG_ROLE_CNT_COUNT, 0, 31)]) (fun s => testReach s .PEG_ROLE 0 && s.flag F.PEG_ROLE_PREFERRED
      && decide (s.fld F.PEG_ROLE_CNT_COUNT = 31))
    ∧ testMeets (testRun [(F.PEG_ROLE_CNT_COUNT, 0, 30)]) (fun s => testReach s .PEG_ROLE 0 && !s.flag F.PEG_ROLE_PREFERRED
      && decide (s.fld F.PEG_ROLE_CNT_COUNT < 31))
    ∧ (∀ st ∈ ([0, 1, 5] : List Nat), testMeets (testKey (testPair st []) 20 (2 ^ 10)) fun s =>
      decide (s.fld F.PEG_STAT_STATE = st ∧ s.peg.refused = false ∧ true ≠ s.unitB) && s.hasPairKey)
    ∧ testMeets (testPair 0 [] fun p => { p with refused := true }) (fun s => s.peg.refused)
    ∧ testMeets (testPair 2 [] fun p => { p with aligned := true, lockGood := 100 }) (fun s =>
      decide (s.fld F.PEG_STAT_STATE = 2 ∧ s.peg.aligned = true ∧ 100 ≤ s.peg.lockGood ∧ 99 < 100))
    ∧ testMeets (testPair 2 [(F.PEG_STAT_HOLD, 0, 1), (F.PEG_STAT_LINK, 0, 1)]) (fun s => s.holds && s.flag F.PEG_STAT_LINK)
    ∧ testMeets (testPair 3 [] fun p => { p with frames := 100 }) (fun s =>
      decide (s.holds = false ∧ s.fld F.PEG_STAT_STATE = 3 ∧ s.peg.partImage = s.jny.active.ident ∧ 100 ≤ s.peg.frames))
    ∧ testMeets (testPair 4 [(F.PEG_STAT_LINK, 0, 1)] fun p => { p with missing := 3 }) (fun s => s.flag F.PEG_STAT_LINK && decide (3 ≤ s.peg.missing))
    ∧ (testMeets (testRun []) (fun s => !s.holds && !s.flag F.PEG_STAT_PEER_RESET) ∧ (testRun [(F.PEG_STAT_PEER_RESET, 0, 1)]).flag F.PEG_STAT_PEER_RESET = true) := by decide +kernel

/-- A mirror frame with one point, one hot word of a state window and a backlog in strokes, in time or late. -/
def testMirror (ok late : Bool) (backlog : Nat := 101) : Mirror :=
  { crcOk := ok, late := late, sync := true, image := 1, joinery := none, hot := [(47, 512, 5)], cold := [], results := [], forge := none, pdo := some 3,
    points := [⟨0x1000, 1, 0, 1, 1, 0, 0, 0⟩], backlog := backlog, ring62 := [], truss := none, mortise := none, seqs := [], partners := [], counter := none,
    feeder := none }

/-- A frame that fails its check, and one without a link; on the holder; on a standby in CATCHUP and SYNC, in time and late; a PDO write on a
device that is alone, and on a standby; a PDO word at its stroke and one stroke before. -/
theorem witness_MirrorFramesAndPairedOutputs :
    ((testMirror false false).crcOk = false ∧ (testPair 0 []).flag F.PEG_STAT_LINK = false)
    ∧ testMeets (testPair 2 [(F.PEG_STAT_HOLD, 0, 1), (F.PEG_STAT_LINK, 0, 1)]) (fun s => (testMirror true false).crcOk && s.flag F.PEG_STAT_LINK && s.holds)
    ∧ (∀ st ∈ ([3, 4] : List Nat), testMeets (testPair st [(F.PEG_STAT_LINK, 0, 1)]) fun s => s.flag F.PEG_STAT_LINK
      && decide (s.holds = false ∧ s.fld F.PEG_STAT_STATE = st ∧ 2 ≤ s.fld F.PEG_STAT_STATE))
    ∧ (∀ late ∈ [false, true], ((testMirror true late).points.map fun x => x.id).Nodup ∧ (testMirror true late).late = late ∧ (testMirror true late).cold = []
      ∧ (testMirror true late).hot = [(47, 512, 5)] ∧ 47 < 48 ∧ wordState 512 = true ∧ 100 < (testMirror true late).backlog
      ∧ (testMirror true late 100).backlog ≤ 100 ∧ (testMirror true late 100).mortise = none)
    ∧ testMeets (testPair 1 []) (fun s => testReach s .PEG_PDO 0 && decide (s.fld F.PEG_STAT_STATE ≤ 1))
    ∧ testMeets (testPair 2 []) (fun s => testReach s .PEG_PDO 0 && decide (s.holds = false ∧ 2 ≤ s.fld F.PEG_STAT_STATE))
    ∧ testMeets (testAt 5 (testPair 4 [] fun p => { p with pdo := [(7, 5), (8, 6)] })) (fun s => decide (s.peg.pdo = (7, 5) :: [(8, 6)] ∧ 5 ≤ s.now ∧ s.now < 6 ∧ s.fld F.PEG_STAT_STATE = 4)) := by
  decide +kernel

/-- A NET section of one partner slot, 5, of KIND 1, for any identity, below key slots 20 and 21, with the site's group key in slot 22, of two
objects at point 2000h and LIVE_TO 3; ports 0 and 7 used; EXI submission ring 8 and result ring 9. The POINT section: 2000h is an input of the
slot, 2001h is the host's. -/
def testNetwork : List (Nat × List Byte) :=
  [(tyNET, testBody 560 [(0, leBytes 8 77), (8, leBytes 2 22), (0x12, leBytes 2 1), (0x15, [8, 9]), (65, [1]), (121, [2]),
    (528, [5, 1, 1, 0] ++ leBytes 2 20 ++ leBytes 2 21 ++ leBytes 8 0 ++ leBytes 2 0 ++ leBytes 2 2 ++ leBytes 4 0x2000 ++ leBytes 4 3)]),
   (tyPNT, testBody 48 [(0, leBytes 4 2), (16, leBytes 4 0x2000 ++ leBytes 4 1 ++ [2, 5] ++ leBytes 2 5),
    (32, leBytes 4 0x2001 ++ leBytes 4 1 ++ [2, 1] ++ leBytes 2 0)])]

/-- The station under it, at stroke 300,000, with its keys and with fields set. -/
def testStation (l : List (Fld × Nat × Nat)) : State :=
  let s := testAt 300000 (testRun ((F.PEG_STAT_HOLD, 0, 1) :: l) testNetwork)
  testKey (testKey s 21 (2 ^ 12)) 22 1

/-- The same with the partner of SENDER 9 in slot 5 in a state. -/
def testPartner (st : Nat) (f : Slot → Slot := id) : State :=
  (testStation [(F.NET_SLOT_STAT_STATE, 5, st)]).onPartner 5 fun x => f { x with sender := 9 }

/-- A lost link and one that is up, on a port that is off, and on two that are not; an enabled session at its clearing; a job in ring 8, and
a job that was taken. -/
theorem witness_PortsSessionsAndExiJobs :
    testMeets (testStation [(F.NET_PORT_STAT_LINK, 7, 1)]) (fun s => decide (netPortMode (s.body tyNET) 1 = 0 ∧ netPortMode (s.body tyNET) 0 ≠ 0
      ∧ netPortMode (s.body tyNET) 7 ≠ 0) && s.flag F.NET_PORT_STAT_LINK 7 && !s.flag F.NET_PORT_STAT_LINK 0)
    ∧ testMeets ((testStation [(F.NET_SESS_CFG_EN, 31, 1), (F.TRS_OUT_DEM_HI_VALID, 31, 1)]).onNet fun x => { x with attach := x.attach.set 31 2 })
      (fun s => s.flag F.NET_SESS_CFG_EN 31 && decide (2 ≤ s.net.attach.get 31) && s.flag F.TRS_OUT_DEM_HI_VALID 31)
    ∧ testMeets (testStation ((F.PNT_RING_PROD_INDEX, 8, 1) :: testRing 8 1 5 4)) (fun s => s.ringFits (u8 (s.body tyNET) 0x15) 1 32
      && decide (s.net.jobs.length < 2) && (s.ringTake (u8 (s.body tyNET) 0x15)).1.isSome)
    ∧ testMeets ((testStation []).onNet fun x => { x with jobs := [⟨1, 0, 7, 0, 4, 16, 64⟩] }) (fun s => decide (s.net.jobs = [⟨1, 0, 7, 0, 4, 16, 64⟩])
      && s.ringFits (u8 (s.body tyNET) 0x16) 0 16 == false) := by decide +kernel

/-- The header of a message of SENDER 9 with COUNTER 3. -/
def testRoll (typ len : Nat) : List Byte := [0x52, 0x43, 1, BitVec.ofNat 8 typ] ++ leBytes 2 len ++ leBytes 2 0 ++ leBytes 8 9 ++ leBytes 8 3

/-- An ANNOUNCE of KIND 1 and of KIND 2, and a RESPONSE without certificates. -/
def testAnnounce (kind : Byte) : List Byte := testRoll 1 8 ++ [kind, 0, 0, 0, 0, 0, 0, 0]
def testResponse : List Byte := testRoll 3 72 ++ List.replicate 72 0

/-- Its body and its sealed form as a PX frame and as a LEAVE frame. -/
def testNonce : List Byte := leBytes 4 1 ++ leBytes 8 3
def testSealed (typ : Nat) (plain : List Byte) : List Byte := testRoll typ plain.length ++ gcmSeal [] testNonce (testRoll typ plain.length) plain
def testSealedMsg (typ : Nat) (plain : List Byte) : RollMsg :=
  let h := testRoll typ plain.length
  ⟨typ, 9, 3, h, gcmText [] testNonce plain, leBytes 16 (Config.gcmTag [] testNonce h (gcmText [] testNonce plain)).toNat⟩

@[simp] theorem gcmText_length (key nonce t : List Byte) : (gcmText key nonce t).length = t.length := by simp [gcmText]

/-- The stream of the cipher is taken off as it was put on. -/
theorem gcmText_gcmText (key nonce t : List Byte) : gcmText key nonce (gcmText key nonce t) = t := by
  apply List.ext_getElem (by simp)
  intro i h1 h2
  simp [gcmText]

/-- What was sealed is opened. -/
theorem gcmOpen_gcmSeal (key nonce aad t : List Byte) : gcmOpen key nonce aad (gcmSeal key nonce aad t) = some t := by
  have hl : ∀ n v, (leBytes n v).length = n := by
    intro n
    induction n with
    | zero => intro v; rfl
    | succ n ih => intro v; simp [leBytes, ih]
  simp [gcmOpen, gcmSeal, hl, gcmText_gcmText]

/-- A message of a whole header is read as its header, its body and what follows. -/
theorem readRoll_append (h c t : List Byte) (hl : h.length = 24) (h0 : u8 h 0 = 0x52 ∧ u8 h 1 = 0x43 ∧ u8 h 2 = 1) (hc : u16 h 4 = c.length) :
    readRoll (h ++ (c ++ t)) = some ⟨u8 h 3, uN h 8 8, uN h 16 8, h, c, t⟩ := by
  have a : ∀ o n, o + n ≤ 24 → uN (h ++ (c ++ t)) o n = uN h o n := by
    intro o n ho
    unfold uN slice
    rw [List.drop_append_of_le_length (by omega), List.take_append_of_le_length (by rw [List.length_drop]; omega)]
  have b : ∀ o, o < 24 → u8 (h ++ (c ++ t)) o = u8 h o := by
    intro o ho
    unfold u8
    rw [List.getD_append _ _ _ _ (by omega)]
  have e : u16 (h ++ (c ++ t)) 4 = c.length := (a 4 2 (by omega)).trans hc
  have d24 : (h ++ (c ++ t)).drop 24 = c ++ t := List.drop_left' hl
  unfold readRoll
  simp only [b 0 (by omega), b 1 (by omega), b 2 (by omega), b 3 (by omega), a 8 8 (by omega), a 16 8 (by omega), e]
  rw [if_pos ⟨by simp [hl], h0.1, h0.2.1, h0.2.2, by simp [hl, ← Nat.add_assoc]⟩, List.take_left' hl, ← List.drop_drop, slice, d24, List.take_left,
    List.drop_left]

/-- Sealed frames of SENDER 9 are read as their messages. -/
theorem testSealed_read (plain : List Byte) (typ : Nat) (h : (typ, plain.length) ∈ ([(6, 28), (7, 8)] : List (Nat × Nat))) :
    readRoll (testSealed typ plain) = some (testSealedMsg typ plain) := by
  have key : ∀ x ∈ ([(6, 28), (7, 8)] : List (Nat × Nat)), (testRoll x.1 x.2).length = 24 ∧ (u8 (testRoll x.1 x.2) 0 = 0x52
      ∧ u8 (testRoll x.1 x.2) 1 = 0x43 ∧ u8 (testRoll x.1 x.2) 2 = 1) ∧ u16 (testRoll x.1 x.2) 4 = x.2
      ∧ u8 (testRoll x.1 x.2) 3 = x.1 ∧ uN (testRoll x.1 x.2) 8 8 = 9 ∧ uN (testRoll x.1 x.2) 16 8 = 3 := by decide +kernel
  obtain ⟨h1, h2, h3, h4, h5, h6⟩ := key _ h
  unfold testSealed gcmSeal testSealedMsg
  rw [readRoll_append _ _ _ h1 h2 (h3.trans (gcmText_length _ _ _).symm), h4, h5, h6]

/-- They are opened, as counters up to 3 are accepted. -/
theorem testSealed_opened (s : State) (plain : List Byte) (typ : Nat) (hk : (s.partner 5).key = []) (hi : (s.partner 5).inCtr ≤ 3)
    (hl : s.sessionLive 5 = true) :
    s.unseal 5 (testSealedMsg typ plain) = some plain := by
  unfold State.unseal testSealedMsg
  rw [if_neg (by simp [hi, hl]), hk]
  exact gcmOpen_gcmSeal _ _ _ _

/-- An ANNOUNCE that gets a slot and one that gets none; a RESPONSE; a challenge unanswered for exactly 1 s, the same in a rebind; a
station that did not announce itself, one that did exactly 10 s ago, and one stroke less; a partner
that sent no PX for exactly 300,000 strokes; its LEAVE; and a device that is not the station. -/
theorem witness_RollCallBindsPartners :
    (∀ kind ∈ ([1, 2] : List Byte), testMeets (testStation []) fun s => match readRoll (testAnnounce kind) with
      | some m => s.station && decide (m.typ = 1 ∧ m.body.length = 8 ∧ m.tail = [] ∧ s.ignoring m.sender = false ∧ s.slotOfSender m.sender = none
          ∧ ((s.chooseSlot m.sender (u8 m.body 0)).isSome ↔ kind = 1) ∧ s.partnerState 5 ≠ 2)
      | none => false)
    ∧ testMeets (testPartner 1) (fun s => match readRoll testResponse, s.slotDef 5 with
      | some m, some d => s.station && decide (m.typ = 3 ∧ 72 ≤ m.body.length ∧ s.slotOfSender m.sender = some 5 ∧ s.partnerState 5 = 1)
          && (s.slotKey d.key 0 12).isSome && (s.slotKey (u16 (s.body tyNET) 8) 0 0).isSome
      | _, _ => false)
    ∧ (∀ st ∈ ([1, 2] : List Nat), testMeets (testPartner st fun x => { x with asked := 200000, rebind := true }) fun s =>
      decide ((s.partner 5).asked + s.strokesIn 100000000 ≤ s.now ∧ s.partnerState 5 = st ∧ (s.partner 5).rebind = true))
    ∧ testMeets (testStation []) (fun s => s.station && s.net.announced.all fun a => decide (a + s.strokesIn 1000000000 ≤ s.now))
    ∧ (∀ a ∈ ([300000, 300001] : List Nat), testMeets (testAt 1300000 ((testStation []).onNet fun x => { x with announced := some a })) fun s => s.station
      && decide (s.net.announced = some a ∧ (a + s.strokesIn 1000000000 ≤ s.now ↔ a = 300000)))
    ∧ testMeets (testPartner 2 fun x => { x with last := 270000 }) (fun s => match s.slotDef 5 with
      | some d => decide (s.partnerState 5 = 2 ∧ (s.partner 5).last + s.strokesIn (10000000 * d.live) ≤ s.now)
      | none => false)
    ∧ (∃ body, RollCall (testPartner 2) (testSealed 7 body) 7 (testSealedMsg 7 body) ∧ (testSealedMsg 7 body).tail.length = 16
      ∧ (testSealedMsg 7 body).body.length = 8 ∧ (testPartner 2).slotOfSender (testSealedMsg 7 body).sender = some 5
      ∧ (testPartner 2).partnerState 5 = 2 ∧ (testPartner 2).unseal 5 (testSealedMsg 7 body) = some body)
    ∧ (testRun []).station = false := by
  refine ⟨by decide +kernel, by decide +kernel, by decide +kernel, by decide +kernel, by decide +kernel, by decide +kernel, ?_, by decide +kernel⟩
  exact ⟨List.replicate 8 0, ⟨by decide +kernel, by decide +kernel, testSealed_read _ 7 (by decide), rfl⟩, rfl, rfl, by decide +kernel, by decide +kernel,
    testSealed_opened _ _ _ (by decide +kernel) (by decide +kernel) (by decide +kernel)⟩

/-- One PX entry: object 0, TYPE 2, value 77. -/
def testPx : List Byte := testBody 28 [(0, [5, 0]), (2, leBytes 2 1), (16, [0, 0, 2, 0] ++ leBytes 8 77)]

/-- A PX frame whose COUNTER is behind, one that is the fifth of its heat, one that is the fourth; the host's point with QUAL 4 and 5, the
slot's, and an undefined one; indices of ring 0, of 16 entries, of which 5 wait, at 5 and at 6 taken, and of a ring of direction 1 at 11 and 12
given; of ring 62, where 3 wait, at 3 and at 4. -/
theorem witness_PointsAndRingIndices :
    (∀ f ∈ ([⟨4, 0⟩, ⟨0, 4⟩, ⟨3, 3⟩] : List (Nat × Nat)), testMeets (testPartner 2 fun x => { x with inCtr := f.1, frames := f.2 }) fun s =>
      s.station && decide (s.partnerState 5 = 2 ∧ s.slotOfSender 9 = some 5 ∧ (s.partner 5).key = [] ∧ (3 < (s.partner 5).inCtr ↔ f.1 = 4)
        ∧ (4 ≤ (s.partner 5).frames ↔ f.2 = 4)) && match s.slotDef 5 with
          | some d => let e := slice testPx 16 12
              let p := d.base + u16 e 0
              decide (d.base + u16 e 0 = p ∧ u16 e 0 < d.objs ∧ u8 e 2 = s.pointType p ∧ u8 e 3 ≤ 4 ∧ s.isInput d p = true)
          | none => false)
    ∧ (testPx.length = 28 ∧ u16 testPx 2 = 1 ∧ u8 testPx 0 = 5)
    ∧ readRoll (testSealed 6 testPx) = some (testSealedMsg 6 testPx) ∧ (testSealedMsg 6 testPx).tail.length = 16
    ∧ (testPartner 2 fun x => { x with inCtr := 4 }).unseal 5 (testSealedMsg 6 testPx) = none
    ∧ (∀ f ∈ ([3, 4] : List Nat), (testPartner 2 fun x => { x with inCtr := 3, frames := f }).unseal 5 (testSealedMsg 6 testPx) = some testPx)
    ∧ (∀ x ∈ ([(0x2001, 4), (0x2001, 5), (0x2000, 4), (0x2002, 0)] : List (Nat × Nat)),
      testMeets (testStation [(F.PNT_HOST_WR_ID_POINT, 0, x.1), (F.PNT_HOST_WR_ID_QUAL, 0, x.2)]) fun s =>
        let p := s.fld F.PNT_HOST_WR_ID_POINT
        testReach s .PNT_HOST_WR_LO 0 && decide (p = x.1 ∧ (s.pointType p = 0 ↔ x.1 = 0x2002) ∧ s.fld F.PNT_HOST_WR_ID_QUAL = x.2)
          && (match s.schema p with | some c => decide (c.writer = 1 ↔ x.1 = 0x2001) | none => decide (x.1 = 0x2002)))
    ∧ testMeets (testStation ((F.PNT_RING_PROD_INDEX, 0, 1) :: (F.PNT_RING_CONS_INDEX, 0, 28) :: testRing 0 0 5 4)) (fun s =>
      testReach s .PNT_RING_CONS 0 && testReach s .PNT_RING_PROD 0 && decide (s.asy.ring ≠ some 0 ∧ s.fld F.PNT_RING_CFG_DEFINED 0 = 1 ∧ s.fld F.PNT_RING_CFG_DIR 0 = 0 ∧ 2 * s.ringEntries 0 = 32 ∧ s.ringCount 0 = 5
        ∧ ringDist (s.ringCons 0) 1 (s.ringEntries 0) = 5 ∧ ringDist (s.ringCons 0) 2 (s.ringEntries 0) = 6))
    ∧ testMeets (testStation [(F.PNT_RING_STAT_PEER_IDX, 62, 3)]) (fun s =>
      testReach s .PNT_RING_CONS 62 && decide (ringDist s.pnt.peerCons (s.fld F.PNT_RING_STAT_PEER_IDX 62) 2048 = 3 ∧ ringDist s.pnt.peerCons 3 2048 = 3 ∧ ringDist s.pnt.peerCons 4 2048 = 4))
    ∧ testMeets (testStation ((F.PNT_RING_PROD_INDEX, 0, 1) :: (F.PNT_RING_CONS_INDEX, 0, 28) :: testRing 0 1 5 4)) (fun s =>
      testReach s .PNT_RING_CONS 0 && testReach s .PNT_RING_PROD 0 && decide (s.fld F.PNT_RING_CFG_DEFINED 0 = 1 ∧ s.fld F.PNT_RING_CFG_DIR 0 = 1 ∧ s.ringEntries 0 = 16 ∧ s.ringCount 0 = 5
        ∧ ringDist (s.ringProd 0) 12 (s.ringEntries 0) = 11 ∧ ringDist (s.ringProd 0) 13 (s.ringEntries 0) = 12)) := by
  refine ⟨by decide +kernel, by decide +kernel, testSealed_read _ 6 (by decide +kernel), rfl, ?_, ?_, by decide +kernel, by decide +kernel, by decide +kernel, by decide +kernel⟩
  · unfold State.unseal
    exact if_pos (by decide +kernel)
  · intro f hf
    have hf : f = 3 ∨ f = 4 := by simpa using hf
    rcases hf with rfl | rfl <;> exact testSealed_opened _ _ _ rfl (Nat.le_refl 3) (by decide +kernel)

/-- A CAN section: objects 255 and 254 of controller 7, of base identifiers 123h and 124h, with MIN = 4, the second with point 2000h; and five
triggers of its schedule: one of each TYPE in every cycle, and one of TYPE 4 in cycle 1 of 2. The POINT section gives the object its point. -/
def testCanBody : List (Nat × List Byte) :=
  [(tyCAN, testBody 248 [(0, leBytes 2 2), (3, [5]), (168, [7, 255, 0, 4] ++ leBytes 4 0x123 ++ leBytes 4 0xFFFFFFFF),
      (184, [7, 254, 0, 4] ++ leBytes 4 0x124 ++ leBytes 4 0x2000), (200, [7, 0, 0, 0, 1, 3, 0, 1]), (212, [7, 0, 0, 0, 2, 255, 0, 1]),
      (224, [7, 0, 0, 0, 3, 0, 0, 1]), (236, [7, 0, 0, 0, 4, 0, 0, 1])] ++ [7, 0, 0, 0, 4, 0, 1, 2, 0, 0, 0, 0]),
   (tyPNT, testBody 32 [(0, leBytes 4 1), (16, leBytes 4 0x2000 ++ leBytes 4 1 ++ [2, 6] ++ leBytes 2 (256 * 7 + 254))])]

/-- The holder's controller 7 on its bus, with transmit ring 10 of 16 entries, two of them waiting, and TT = 1. -/
def testCan (l : List (Fld × Nat × Nat)) (f : CanCtl → CanCtl := id) : State :=
  (testRun ([(F.PEG_STAT_HOLD, 0, 1), (F.CAN_CFG_EN, 7, 1), (F.CAN_STAT_DISABLED, 0, 0), (F.CAN_CFG_TX_RING, 7, 10), (F.CAN_CFG_RX_RING, 7, 63),
    (F.CAN_CFG_TT, 7, 1), (F.CAN_TT_CFG_REF_ID, 7, 0x10), (F.PNT_RING_PROD_INDEX, 10, 2)] ++ testRing 10 1 7 4 ++ l) testCanBody).onCan 7 f

/-- A frame of an identifier and a length. -/
def testFrame (ident len : Nat) : CanFrame := ⟨ident, false, false, false, false, false, List.replicate len 1⟩

/-- A controller off its bus and one in bus-off; frames for the two objects, of 4 and 3 bytes, to a read, an unread and a lost one; a frame
that nothing takes; a reference message; an object; and a listener. -/
theorem witness_CanFramesAreStoredAndErrorsCounted :
    ((testCan [(F.CAN_CFG_EN, 7, 0)]).canOff 7 = true ∧ (testCan [(F.CAN_ERR_STATE, 7, 2)]).canBusOff 7 = true)
    ∧ (∀ p ∈ ([0, 1] : List Nat), testMeets (testCan [] ) fun s => match (canObjs (s.body tyCAN)).find? fun r =>
        decide (r.ctrl = 7 ∧ r.ident = (testFrame (0x123 + p) 4).ident ∧ r.xtd = (testFrame (0x123 + p) 4).xtd ∧ (testFrame (0x123 + p) 4).rtr = false) with
      | some r => !s.canOff 7 && !s.canBusOff 7 && decide (s.canTenon 7 (testFrame (0x123 + p) 4) = none ∧ s.canTenon 7 (testFrame (0x123 + p) 3) = none
          ∧ r.min ≤ (testFrame (0x123 + p) 4).data.length ∧ (testFrame (0x123 + p) 3).data.length < r.min ∧ (r.point = 0xFFFFFFFF ↔ p = 0) ∧ s.holds = true)
          && (p == 0 || decide (r.point < 2 ^ 18) && match s.schema r.point with | some c => decide (c.writer = 6 ∧ c.ident = 256 * 7 + r.obj) | none => false)
      | none => false)
    ∧ testMeets (testCan []) (fun s => !s.canOff 7 && !s.canBusOff 7 && decide (s.canTenon 7 (testFrame 0x10 8) = none ∧ s.fld F.CAN_CFG_RX_RING 7 = 63
        ∧ s.fld F.CAN_CFG_TT 7 = 1) && ((canObjs (s.body tyCAN)).find? fun r => decide (r.ctrl = 7 ∧ r.ident = (testFrame 0x10 8).ident
          ∧ r.xtd = (testFrame 0x10 8).xtd ∧ (testFrame 0x10 8).rtr = false)).isNone && s.isReference 7 (testFrame 0x10 8)
        && (s.canObjRec 7 255).isSome && !s.canListens 7)
    ∧ (Reaches (testCan []) ⟨0, 0⟩ 9 (0x10000 + 0x8000 * 7 + 0x80 * 255) ∧ Reaches (testCan []) ⟨0, 0⟩ 9 (0x10000 + 0x8000 * 7 + 0x80 * 255 + 0x78))
    ∧ (testCan [(F.CAN_CTL_LISTEN, 7, 1)]).canListens 7 = true ∧ (testCan [(F.CAN_CFG_PXHD, 7, 1)]).flag F.CAN_CFG_PXHD 7 = true := by
  refine ⟨by decide +kernel, by decide +kernel, by decide +kernel, ?_, by decide +kernel, by decide +kernel⟩
  unfold Reaches; decide +kernel

/-- A state in which an entry of slot 3 stands first in the ring, with TT. -/
def testTt (l : List (Fld × Nat × Nat)) (f : CanCtl → CanCtl := id) : State := (testCan l f).setBytes 0x11880005 [0x32]

/-- A controller that may not send, one that may, one with an attempt; the end of an attempt of the entry at CONS; TEC at 247 and 248 at an
error; a cancel of the entries at 2 (not waiting), 1 (waiting) and 0 (in its attempt), and of one done; a controller that leaves, one that
is busy; bus-off, and recovery; each trigger in its cycle and one that is not; a reference message 2 × CYCLE_STROKES ago. -/
theorem witness_CanAttemptsFollowArbitrationAndErrors :
    ((testRun []).canSends 7 = false)
    ∧ testMeets (testCan []) (fun s => s.canSends 7 && decide ((s.canCtl 7).attempt = none ∧ (∀ i ∈ s.canWindow 7, s.canInvalid 7 (s.canTx 7 i) = false ∧ s.canUnread 7 i = 0)
        ∧ (s.canCandidates 7).length = 0))
    ∧ testMeets (testCan [] fun x => { x with window := true }) (fun s => s.canSends 7 && decide ((s.canCtl 7).attempt = none
        ∧ (∀ i ∈ s.canWindow 7, s.canInvalid 7 (s.canTx 7 i) = false ∧ s.canUnread 7 i = 0) ∧ (s.canCandidates 7).length = 2))
    ∧ testMeets (testCan [] fun x => { x with attempt := some (.entry 0 false) }) (fun s =>
      !s.canListens 7 && decide ((s.canCtl 7).attempt = some (.entry 0 false) ∧ (s.canCtl 7).cancel = [] ∧ (s.canCtl 7).done = [] ∧ s.ringCons (s.fld F.CAN_CFG_TX_RING 7) = 0
        ∧ s.ringCount (s.fld F.CAN_CFG_TX_RING 7) ≠ 0 ∧ s.ringFits (s.fld F.CAN_CFG_TX_RING 7) 1 128 = true ∧ (s.canTx 7 0).oneshot = false
        ∧ s.flag F.CAN_CFG_ONESHOT 7 = false ∧ (s.canCtl 7).retries = []))
    ∧ (∀ tec ∈ ([247, 248] : List Nat), testMeets (testCan [(F.CAN_ERR_TEC, 7, tec)] fun x => { x with attempt := some (.entry 0 false) }) fun s =>
      !s.canListens 7 && decide ((7 : Nat) < 8 ∧ (s.canCtl 7).attempt = some (.entry 0 false) ∧ (255 < s.fld F.CAN_ERR_TEC 7 + 8 ↔ tec = 248)))
    ∧ testMeets (testCan [] fun x => { x with done := [1], attempt := some (.entry 0 false) }) (fun s =>
      let q := s.fld F.CAN_CFG_TX_RING 7
      testReach s .CAN_TX_CANCEL 7 && !s.canListens 7 && decide (s.ringFits q 1 128 = true ∧ 2 < 2 * s.ringEntries q ∧ s.ringCount q ≤ ringDist (s.ringCons q) 2 (s.ringEntries q) ∧ 1 ∈ (s.canCtl 7).done
        ∧ ringDist (s.ringCons q) 0 (s.ringEntries q) < s.ringCount q ∧ 0 ∉ (s.canCtl 7).done ∧ (s.canCtl 7).attempt = some (.entry 0 false)))
    ∧ testMeets (testCan []) (fun s =>
      let q := s.fld F.CAN_CFG_TX_RING 7
      testReach s .CAN_TX_CANCEL 7 && decide (s.ringFits q 1 128 = true ∧ 1 < 2 * s.ringEntries q ∧ ringDist (s.ringCons q) 1 (s.ringEntries q) < s.ringCount q ∧ 1 ∉ (s.canCtl 7).done
        ∧ (s.canCtl 7).attempt = none ∧ (s.canCtl 7).done = [] ∧ 1 ≠ s.ringCons q))
    ∧ testMeets (testCan []) (fun s => testReach s .CAN_CTL 7 && decide ((s.canCtl 7).attempt = none ∧ (7 : Nat) < 8 ∧ s.flag F.CAN_CFG_EN 7 = true ∧ s.flag F.CAN_CTL_DISABLE 7 = false ∧ s.canBusOff 7 = false))
    ∧ testMeets (testCan [(F.CAN_ERR_STATE, 7, 2), (F.CAN_ERR_RECOVERING, 7, 1)]) (fun s => testReach s .CAN_CTL 7 && s.canBusOff 7 && s.flag F.CAN_ERR_RECOVERING 7)
    ∧ (∀ k < (5 : Nat), testMeets (testTt [(F.CAN_TT_STAT_SYNC, 7, 1)]) fun s => match (canTrigs (s.body tyCAN))[k]? with
      | some g => decide (g.ctrl = 7 ∧ s.fld F.CAN_CFG_TT 7 ≠ 0 ∧ s.flag F.CAN_TT_STAT_SYNC 7 = true ∧ s.canOff 7 = false
          ∧ (s.fld F.CAN_TT_STAT_CYCLE 7 % max g.rep 1 = g.base ↔ k ≠ 4) ∧ g.typ = min (k + 1) 4)
      | none => false)
    ∧ testMeets (testTt [(F.CAN_TT_STAT_SYNC, 7, 1)]) (fun s => s.canSends 7 && decide ((∀ j ∈ s.canWindow 7, s.canInvalid 7 (s.canTx 7 j) = false ∧ s.canUnread 7 j = 0)
        ∧ ((s.canWindow 7).find? fun i => (s.canTx 7 i).tt && decide ((s.canTx 7 i).slot = 3)) = some 0 ∧ (s.canCtl 7).attempt = none))
    ∧ testMeets (testAt 400 (testCan [(F.CAN_TT_STAT_SYNC, 7, 1), (F.CAN_TT_CYC_CYCLE_STROKES, 7, 200)])) (fun s =>
      decide (s.fld F.CAN_CFG_TT 7 = 1 ∧ s.flag F.CAN_TT_STAT_SYNC 7 = true ∧ (s.canCtl 7).refAt + 2 * s.fld F.CAN_TT_CYC_CYCLE_STROKES 7 ≤ s.now)) := by
  decide +kernel

/-- File 13: a bit error at TEC = 248 ends in bus-off with 0901h, and the entry stays in the window. -/
theorem test_can_bus_off_of_the_bench_example :
    testNext (.canTxComplete 7 (.error 5 true) 0) (testCan [(F.CAN_ERR_TEC, 7, 248), (F.CAN_ERR_WARN, 7, 1), (F.CAN_ERR_STATE, 7, 1)] fun x =>
      { x with attempt := some (.entry 1 false) }) (fun t => t.canBusOff 7
        && decide (t.reports = [⟨0x0901, 7⟩] ∧ t.fld F.CAN_ERR_LEC 7 = 5 ∧ t.canWindow 7 = [0, 1] ∧ (t.canCtl 7).attempt = none)) = true := by decide +kernel

/-- A Feeder section of one node, 0, of address 9 in band 1, of two points from 2000h, an input and an output, below key slot 20, with LIVE_TO 30
and REFRESH 60; and the curtailment key in slot 21, of group 5. -/
def testFeederBody : List (Nat × List Byte) :=
  [(tyFDL, testBody 48 [(0, [1, 5]), (2, leBytes 2 21), (32, [9, 1, 2, 0] ++ leBytes 4 0x2000 ++ leBytes 2 20 ++ leBytes 2 30 ++ leBytes 2 60)]),
   (tyPNT, testBody 48 [(0, leBytes 4 2), (16, leBytes 4 0x2000 ++ leBytes 4 1 ++ [2, 7]), (32, leBytes 4 0x2001 ++ leBytes 4 1 ++ [2, 1])])]

/-- The holder's link, enabled in bands 0 and 1, of address 4, at stroke 10,000,000; its node LIVE. -/
def testFeeder (l : List (Fld × Nat × Nat)) (f : Fdl → Fdl := id) : State :=
  let s := testAt 10000000 (testRun ([(F.PEG_STAT_HOLD, 0, 1), (F.FDL_CFG_EN, 0, 1), (F.FDL_CFG_ADDR, 0, 4), (F.FDL_CFG_BEACON, 0, 1), (F.FDL_CFG_ERASE_THR, 0, 6), (F.FDL_BAND_CFG_EN, 0, 1),
    (F.FDL_BAND_CFG_EN, 1, 1), (F.FDL_BAND_CFG_MAX_LEN, 1, 64), (F.FDL_NODE_STAT_STATE, 0, 1), (F.FDL_CURT_CTR_COUNTER, 0, 100)] ++ l) testFeederBody)
  (testKey (testKey s 20 (2 ^ 12)) 21 (2 ^ 11)).onFdl f

/-- An entry of object 0, TYPE 2, quality 4; a command of an operation, a COUNTER, 10 kW and 15 minutes to every group or to group 5. -/
def testEntry : List Byte := [0, 0, 2, 4] ++ leBytes 8 77
def testCommand (op : Byte) (group : Byte) (ctr minutes : Nat) : List Byte := [op, group, 0, 0] ++ leBytes 4 ctr ++ leBytes 4 100 ++ leBytes 2 minutes ++ leBytes 2 0

/-- What an input measures of a tone in symbol `n`: most of the energy in that tone, no two paths of the decoder alike; nothing in the guards. -/
def testTone (n k : Nat) : ToneInput :=
  let e (j : Nat) : Nat := if j = k then 1000000 else (n * 7919 + j * 104729 + n * n * 31 + j * n * 1237) % 9973
  ⟨e 0, e 1, e 2, e 3, 0, 0, false⟩

/-- The sync and body symbols of a frame in NORMAL mode, at input L1. -/
def testSymbols (body : List Byte) : List FdlSymbol :=
  ((fdlTones 0 body).drop 32).zipIdx.map fun x => ⟨testTone x.2 x.1, testTone 0 0, testTone 0 0⟩

/-- Bodies of six bytes: of a wrong LEN, of a wrong CHECK, a POINTS frame from the node, and a band A frame without a command. -/
def testShortBody : List Byte := [4, 9, 2, 3, 0, 0]
def testWrongBody : List Byte := [4, 9, 2, 0, 0, 0]
def testPointsBody : List Byte := fdlFrame 4 9 2 []
def testCurtailBody : List Byte := fdlFrame 255 1 3 []

/-- The receiver delivers the body that the transmitter's code and interleaver spell, no symbol erased (R371). -/
theorem test_FeederDecodes : (fdlDecode 6 [0] (testSymbols testPointsBody)) = ⟨testPointsBody, 0, 64⟩ := by decide +kernel
theorem test_FeederDecodesShort : (fdlDecode 6 [0] (testSymbols testShortBody)).body = testShortBody := by decide +kernel
theorem test_FeederDecodesWrong : (fdlDecode 6 [0] (testSymbols testWrongBody)).body = testWrongBody := by decide +kernel
theorem test_FeederDecodesCurtail : (fdlDecode 6 [0] (testSymbols testCurtailBody)).body = testCurtailBody := by decide +kernel

/-- A burst of M′/16 erased symbols, here four that clip, is recovered in NORMAL mode (R372), and counted. -/
theorem test_FeederBurst : fdlDecode 6 [0] ((testSymbols testPointsBody).zipIdx.map fun x =>
    if 36 ≤ x.2 ∧ x.2 < 40 then { x.1 with l1 := { x.1.l1 with clip := true } } else x.1) = ⟨testPointsBody, 4, 64⟩ := by decide +kernel

/-- A band A frame of an incomplete command of 0 bytes, a POINTS frame whose CHECK and LEN are right. -/
theorem testBodies : testPointsBody.length = 6 ∧ u8 testPointsBody 3 + 6 = 6 ∧ u8 testPointsBody 4 * 256 + u8 testPointsBody 5 = crc16 (testPointsBody.take 4)
    ∧ u8 testPointsBody 0 = 4 ∧ u8 testPointsBody 1 = 9 ∧ u8 testPointsBody 2 % 8 = 2 ∧ testCurtailBody.length = 6 ∧ u8 testCurtailBody 3 + 6 = 6
    ∧ u8 testCurtailBody 4 * 256 + u8 testCurtailBody 5 = crc16 (testCurtailBody.take 4) ∧ u8 testCurtailBody 0 = 255 ∧ u8 testCurtailBody 2 % 8 = 3 := by
  decide +kernel

/-- The link of the tests listens at L1 with a threshold of 6 dB. -/
theorem testFeeder_inputs : (testFeeder []).fdlInputs = [0] ∧ (testFeeder []).fld F.FDL_CFG_ERASE_THR = 6 := by decide +kernel

/-- A link that is off, a band that is off and one in which a frame is on air; no symbols at all, a frame of a wrong length and one of a wrong
CHECK from the node; a POINTS frame of the node and a command frame of band A without a command; payloads with COUNTER 8 after 7 and as the first;
commands at COUNTER 100 and 101, with and without a DURATION; the node silent for exactly 30 s and for one stroke less; band A silent for exactly
2 min; a limit with no heat left. -/
theorem witness_FeederFramesNodesAndCurtailment :
    (State.reset.fdlOn = false ∧ (testFeeder []).flag F.FDL_BAND_CFG_EN 2 = false
      ∧ (testFeeder [] fun x => { x with air := some (1, ⟨1, 9, 0, [1], 0⟩) }).fdl.air = some (1, ⟨1, 9, 0, [1], 0⟩)
      ∧ (testFeeder []).holds = true)
    ∧ testMeets (testFeeder []) (fun s => s.fdlOn && s.flag F.FDL_BAND_CFG_EN 1 && s.flag F.FDL_BAND_CFG_EN 0 && s.holds
      && decide (s.fdl.air = none ∧ s.nodeOf 1 9 = some 0 ∧ (s.node 0).isSome ∧ s.fld F.FDL_CFG_ADDR = 4 ∧ 1 ∉ s.fdl.badSaid))
    ∧ ((fdlDecode ((testFeeder []).fld F.FDL_CFG_ERASE_THR) (testFeeder []).fdlInputs []).body.length < 6
      ∧ (let b := (fdlDecode ((testFeeder []).fld F.FDL_CFG_ERASE_THR) (testFeeder []).fdlInputs (testSymbols testShortBody)).body
         6 ≤ b.length ∧ u8 b 3 + 6 ≠ b.length)
      ∧ (let b := (fdlDecode ((testFeeder []).fld F.FDL_CFG_ERASE_THR) (testFeeder []).fdlInputs (testSymbols testWrongBody)).body
         6 ≤ b.length ∧ u8 b 3 + 6 = b.length ∧ u8 b (b.length - 2) * 256 + u8 b (b.length - 1) ≠ crc16 (b.take (b.length - 2))))
    ∧ (let b := (fdlDecode ((testFeeder []).fld F.FDL_CFG_ERASE_THR) (testFeeder []).fdlInputs (testSymbols testPointsBody)).body
       6 ≤ b.length ∧ u8 b 3 + 6 = b.length ∧ u8 b (b.length - 2) * 256 + u8 b (b.length - 1) = crc16 (b.take (b.length - 2))
         ∧ (testFeeder []).nodeOf 1 (u8 b 1) = some 0 ∧ u8 b 0 = (testFeeder []).fld F.FDL_CFG_ADDR ∧ u8 b 0 ≠ 255 ∧ u8 b 2 % 8 = 2)
    ∧ (let b := (fdlDecode ((testFeeder []).fld F.FDL_CFG_ERASE_THR) (testFeeder []).fdlInputs (testSymbols testCurtailBody)).body
       6 ≤ b.length ∧ u8 b 3 + 6 = b.length ∧ u8 b (b.length - 2) * 256 + u8 b (b.length - 1) = crc16 (b.take (b.length - 2))
         ∧ u8 b 0 = 255 ∧ u8 b 2 % 8 = 3)
    ∧ (∀ c ∈ ([none, some 7] : List (Option Nat)), testMeets (testFeeder [] fun x => { x with nodes := x.nodes.set 0 ⟨c, 0, 0, 0, []⟩ }) fun s =>
      match s.node 0 with
      | some r => s.fdlOn && s.holds && decide (s.nodeOf 1 9 = some 0 ∧ testSecret ∈ s.slotKeys r.key 0 12 ∧ (s.fdl.nodes.get 0).inCtr = c
          ∧ testEntry.length = 12 ∧ u16 testEntry 0 < r.objs ∧ u8 testEntry 3 ≤ 4)
          && (match s.schema (r.base + u16 testEntry 0) with | some p => decide (p.writer = 7 ∧ u8 testEntry 2 = p.typ) | none => false)
      | none => false)
    ∧ (testFeeder [(F.FDL_NODE_STAT_STATE, 0, 2)]).fld F.FDL_NODE_STAT_STATE 0 = 2
    ∧ (∀ x ∈ ([(1, 0, 100, 15), (1, 5, 101, 15), (1, 0, 101, 0), (2, 5, 101, 0)] : List (Byte × Byte × Nat × Nat)), testMeets (testFeeder []) fun s =>
      let c := testCommand x.1 x.2.1 x.2.2.1 x.2.2.2
      s.fdlOn && s.holds && s.flag F.FDL_BAND_CFG_EN 0 && decide (s.fld F.FDL_CFG_ADDR = 4 ∧ (c ++ List.replicate 16 0).length = 32 ∧ (u8 c 1 = 0 ∨ u8 c 1 = u8 s.fdlBody 1)
        ∧ testSecret ∈ s.slotKeys (u16 s.fdlBody 2) 0 11 ∧ (u32 c 4 ≤ s.fld F.FDL_CURT_CTR_COUNTER ↔ x.2.2.1 = 100) ∧ u16 c 12 = x.2.2.2 ∧ (11 : Nat) % 8 = 3))
    ∧ (∀ last ∈ ([7000000, 7000001] : List Nat), testMeets (testFeeder [] fun x => { x with nodes := x.nodes.set 0 ⟨none, last, 0, 0, []⟩ }) fun s =>
      match s.node 0 with
      | some r => s.holds && decide (s.fld F.FDL_NODE_STAT_STATE 0 = 1 ∧ ((s.fdl.nodes.get 0).last + s.strokesIn (100000000 * r.live) ≤ s.now ↔ last = 7000000)
          ∧ 1 < r.objs) && (match s.schema (r.base + 0), s.schema (r.base + 1) with | some p, some q => decide (p.writer = 7 ∧ q.writer ≠ 7) | _, _ => false)
      | none => false)
    ∧ testMeets (testAt 12000000 (testFeeder [])) (fun s => s.fdlOn && !s.flag F.FDL_CURT_SILENT
      && decide (s.fdl.beaconAt + s.strokesIn (6000000000 * (2 * s.fld F.FDL_CFG_BEACON)) ≤ s.now))
    ∧ testMeets (testFeeder [(F.FDL_CURT_ACTIVE, 0, 1)] fun x => { x with left := some 0 }) (fun s => s.holds && s.flag F.FDL_CURT_ACTIVE
      && decide (s.fdl.left = some 0 ∧ s.fdl.cmdHeat ≠ s.heat ∧ 0 < s.heatsOfMin 1) && s.hasFeeder) := by
  rw [testFeeder_inputs.1, testFeeder_inputs.2, test_FeederDecodes, test_FeederDecodesShort, test_FeederDecodesWrong, test_FeederDecodesCurtail]
  refine ⟨by decide +kernel, by decide +kernel, by decide +kernel, by decide +kernel, by decide +kernel, by decide +kernel, by decide +kernel,
    by decide +kernel, by decide +kernel, by decide +kernel, by decide +kernel⟩

/-- Each reason not to start, a pause of one stroke among them; a TENON frame behind a POINTS frame, to the node and to an address of no node; a POINTS frame alone, as the
65,536th; a frame on air whose time is just over and not yet over; a frame that waited for exactly 5 s and for one stroke less; and a node due for its refresh. -/
theorem witness_FeederFramesAreSentInOrder :
    (State.reset.fdlOn = false ∧ State.reset.holds = false ∧ (testFeeder [] fun x => { x with ended := x.ended.set 1 (some 9999999) }).pausedSince 1 = false ∧ (testFeeder []).flag F.FDL_BAND_CFG_EN 2 = false ∧ (testFeeder []).fdl.queues.get 1 = []
      ∧ (testFeeder [] fun x => { x with air := some (1, ⟨1, 9, 0, [1], 0⟩) }).fdl.air ≠ none)
    ∧ (∀ dst ∈ ([9, 8] : List Nat), testMeets (testFeeder [] fun x => { x with queues := x.queues.set 1 [⟨2, 9, 0, testEntry, 0⟩, ⟨1, dst, 3, [1, 2, 3], 5⟩] })
      fun s => s.fdlOn && s.holds && s.flag F.FDL_BAND_CFG_EN 1 && s.pausedSince 1 && decide (s.fdl.air = none
        ∧ (s.fdl.queues.get 1).find? (fun f => decide (f.typ = 1)) = some ⟨1, dst, 3, [1, 2, 3], 5⟩ ∧ ([1, 2, 3] : List Byte) ≠ []
        ∧ s.nodeOf 1 dst = if dst = 9 then some 0 else none))
    ∧ testMeets (testFeeder [] fun x => { x with queues := x.queues.set 1 [⟨2, 9, 0, testEntry, 0⟩], counter := 65535 }) (fun s => match s.node 0 with
      | some r => s.fdlOn && s.holds && s.flag F.FDL_BAND_CFG_EN 1 && s.pausedSince 1 && decide (s.fdl.air = none ∧ s.fdl.queues.get 1 = [⟨2, 9, 0, testEntry, 0⟩]
          ∧ (∀ g ∈ ([⟨2, 9, 0, testEntry, 0⟩] : List FdlFrame), g.typ = 2) ∧ s.nodeOf 1 9 = some 0 ∧ s.slotKey r.key 0 12 = some testSecret
          ∧ (s.fdl.counter + 1) % 65536 = 0)
      | none => false)
    ∧ (∀ n ∈ ([10000000, 10000001] : List Nat), testMeets (testFeeder [(F.FDL_STAT_TX, 0, 1)] fun x => { x with air := some (1, ⟨1, 9, 0, [1], 0⟩), airEnd := n })
      fun s => decide (s.fdl.air = some (1, ⟨1, 9, 0, [1], 0⟩) ∧ (s.fdl.airEnd ≤ s.now ↔ n = 10000000)))
    ∧ (∀ since ∈ ([9500000, 9500001] : List Nat), testMeets (testFeeder [] fun x => { x with queues := x.queues.set 1 [⟨2, 9, 0, testEntry, since⟩] }) fun s =>
      decide (nextFrame (s.fdl.queues.get 1) = some ⟨2, 9, 0, testEntry, since⟩ ∧ (since + s.strokesIn 500000000 ≤ s.now ↔ since = 9500000)))
    ∧ testMeets (testFeeder []) (fun s => match s.node 0 with
      | some r => s.fdlOn && s.holds && decide ((s.fdl.nodes.get 0).sent + s.strokesIn (100000000 * r.refresh) ≤ s.now ∧ s.nodeOutputs r ≠ []
          ∧ 28 ≤ s.fld F.FDL_BAND_CFG_MAX_LEN r.band ∧ (s.nodeOutputs r).length + 16 ≤ s.fld F.FDL_BAND_CFG_MAX_LEN r.band
          ∧ (s.fdl.queues.get r.band).length < 16)
      | none => false) := by decide +kernel

/-- A BAT section of one string, 15, on measurement channel 3 with GAIN = 0.5, of no cells, which a current of 10 A wakes; WAKE_CAN = 7. -/
def testBattery : Nat × List Byte :=
  (tyBAT, testBody 80 [(0, [1]), (2, [7]), (16, [15, 1]), (20, leBytes 4 1000), (48, leBytes 2 100 ++ [3, 0] ++ leBytes 4 0x3F000000)])

/-- A device with a battery, with fields set. -/
def testBat (l : List (Fld × Nat × Nat)) : State := testRun l [testBattery]

/-- A pass due, one not due and a stopped estimator; each reason to refuse HIBERNATE; an unbound device and a bound holder that may; a standby
that may and may not; a holder that asked 100 ms ago and one stroke less; the register that the commands write; a save that is done, with and without a wake that waited; Ember at work on string 15; each wake
source, asleep and while the save runs. -/
theorem witness_PassesHibernationAndWake :
    testMeets ((testBat []).onEst fun e => { e with due := true }) (fun s => s.est.due && !s.flag F.EMB_STAT_STOPPED)
    ∧ ((testBat []).est.due = false ∧ (testBat [(F.EMB_STAT_STOPPED, 0, 1)]).flag F.EMB_STAT_STOPPED = true)
    ∧ ((testBat [(F.TRS_BAT_SP_SP, 0, 1)]).mayIdle = false ∧ (testBat [(F.TRS_OUT_STAT_GRANT, 31, 1)]).mayIdle = false
      ∧ bitOf ((testBat [(F.SYS_REGION_STAT_FAILED, 0, 256)]).fld F.SYS_REGION_STAT_FAILED) 8 = true)
    ∧ testMeets (testBat [(F.PEG_STAT_LINK, 0, 1), (F.PEG_STAT_HOLD, 0, 1)]) (fun s => s.flag F.PEG_STAT_LINK && !(s.holds && s.partnerSync))
    ∧ testMeets (testBat []) (fun s => s.mayIdle && !bitOf (s.fld F.SYS_REGION_STAT_FAILED) 8 && !s.flag F.PEG_STAT_LINK)
    ∧ testMeets (testBat [(F.PEG_STAT_LINK, 0, 1), (F.PEG_STAT_HOLD, 0, 1), (F.PEG_STAT_PARTNER_SYNC, 0, 1)]) (fun s => s.mayIdle
      && !bitOf (s.fld F.SYS_REGION_STAT_FAILED) 8 && s.flag F.PEG_STAT_LINK && s.holds && s.partnerSync)
    ∧ ((testBat []).standby = false ∧ (testBat [(F.PEG_STAT_STATE, 0, 4)]).standby = true ∧ (testBat [(F.PEG_STAT_STATE, 0, 4)]).mayIdle = true
      ∧ (testBat [(F.PEG_STAT_STATE, 0, 2), (F.JNY_STAT_STATE, 0, 1)]).standby = true ∧ (testBat [(F.PEG_STAT_STATE, 0, 2), (F.JNY_STAT_STATE, 0, 1)]).mayIdle = false)
    ∧ (∀ n ∈ ([1000, 1001] : List Nat), testMeets (testAt 11000 ((testBat []).onEst fun e => { e with asking := true, askedAt := n })) fun s =>
      s.est.asking && decide (s.est.askedAt + s.ms 100 ≤ s.now ↔ n = 1000))
    ∧ (testReach (testBat []) .EMB_CTL 0 = true ∧ testReach (testBat [(F.EMB_STAT_STOPPED, 0, 1)]) .EMB_CTL 0 = true
      ∧ testReach (testBat [(F.TRS_BAT_SP_SP, 0, 1)]) .EMB_CTL 0 = true
      ∧ testReach (testBat [(F.PEG_STAT_LINK, 0, 1), (F.PEG_STAT_HOLD, 0, 1)]) .EMB_CTL 0 = true
      ∧ testReach (testBat [(F.PEG_STAT_LINK, 0, 1), (F.PEG_STAT_HOLD, 0, 1), (F.PEG_STAT_PARTNER_SYNC, 0, 1)]) .EMB_CTL 0 = true)
    ∧ (∀ w ∈ ([none, some 3] : List (Option Nat)), testMeets (((testBat []).onEst fun e => { e with saving := true }).onEmb fun e => { e with wake := w })
      fun s => s.est.saving && decide (s.emb.wake = w ∧ s.emb.asleep = false) && s.mayWake 2 && s.mayWake 3)
    ∧ testMeets ((testBat []).onEmb fun e => { e with asleep := true, above := e.above.set 15 2 }) (fun s => match s.batRec 15 with
      | some r => s.emb.asleep && decide (r.ch = 3 ∧ fpRat? r.gain = some (1 / 2)) && s.mayWake 1 && s.mayWake 2 && s.mayWake 3
      | none => false)
    ∧ (testBat []).emb.asleep = false := by decide +kernel

/-- The header of a request, and a request. -/
def testHeader (op slot arg n outMax : Nat) : List Byte :=
  leBytes 2 op ++ leBytes 2 slot ++ leBytes 4 arg ++ leBytes 4 n ++ leBytes 4 outMax ++ leBytes 8 0x12001000 ++ leBytes 8 0
def testReq (op slot : Nat) (body : List Byte) (arg : Nat := 0) (outMax : Nat := 0) : List Byte := testHeader op slot arg body.length outMax ++ body

/-- A request of island 1 is asked of a state, and its frame meets a condition. -/
def testAsks (s : State) (b : List Byte) (op : Nat) (g : Frame → Bool) : Bool :=
  match readFrame b with | some f => s.runs 7 && s.runs 1 && !s.flag F.CFR_LC_STATE_ERASE_PEND && !s.flag F.CFR_STAT_ROOT_FAIL && decide (f.opcode = op) && g f | none => false

/-- A free slot, and a frame that needs no trailer. -/
def testFree (s : State) (n : Nat) : Bool :=
  decide (10 ≤ n ∧ n < 512 ∧ (s.slotState n = 0 ∨ s.slotState n = 3) ∧ s.flag F.CFR_STAT_ROOT_FAIL = false)
def testPlain (island : Nat) (f : Frame) (at_ : Nat) : Bool :=
  decide (f.rest = [] ∧ needsTrailer island (BitVec.ofNat 32 (u32 f.body at_)) (BitVec.ofNat 32 (u32 f.body (at_ + 4))) = false)

/-- Attributes of a key of algorithm 6 for every island. -/
def testAttr (usage : Nat) : List Byte :=
  leBytes 4 (F.CFR_SLOT_ATTR_LO_OWNER.put (F.CFR_SLOT_ATTR_LO_ALG.put 0 6) 15).toNat ++ leBytes 4 usage

/-- Coffer with keys in slots 20 and 21, each for every usage, and with fields set. -/
def testCoffer (l : List (Fld × Nat × Nat)) : State :=
  testPut (testKey (testKey (testRun [(F.CFR_SLOT_ATTR_LO_ALG, 20, 6)]) 20 0x1FFFF) 21 0x1FFFF) l

/-- A request of a whole header is read as its fields, whatever its body holds. -/
theorem readFrame_append (op slot arg n outMax : Nat) (c t : List Byte) (hc : c.length = n) (ht : 32 + n + t.length ≤ 0x4000) (hr : t = [] ∨ takesTrailer (u16 (testHeader op slot arg n outMax) 0) = true)
    (h : u32 (testHeader op slot arg n outMax) 8 = n ∧ uN (testHeader op slot arg n outMax) 24 8 = 0) :
    readFrame (testHeader op slot arg n outMax ++ (c ++ t)) = some ⟨testHeader op slot arg n outMax ++ (c ++ t), u16 (testHeader op slot arg n outMax) 0,
      u16 (testHeader op slot arg n outMax) 2, u32 (testHeader op slot arg n outMax) 4, u32 (testHeader op slot arg n outMax) 12,
      uN (testHeader op slot arg n outMax) 16 8, c, t⟩ := by
  have hl : (testHeader op slot arg n outMax).length = 32 := rfl
  generalize testHeader op slot arg n outMax = H at hl h hr ⊢
  have a : ∀ o n, o + n ≤ 32 → uN (H ++ (c ++ t)) o n = uN H o n := by
    intro o n ho
    unfold uN slice
    rw [List.drop_append_of_le_length (by omega), List.take_append_of_le_length (by rw [List.length_drop]; omega)]
  have e : u32 (H ++ (c ++ t)) 8 = n := (a 8 4 (by omega)).trans h.1
  have d32 : (H ++ (c ++ t)).drop 32 = c ++ t := List.drop_left' hl
  unfold readFrame
  simp only [e, a 24 8 (by omega), h.2, a 16 8 (by omega)]
  rw [show u16 (H ++ (c ++ t)) 0 = u16 H 0 from a 0 2 (by omega), show u16 (H ++ (c ++ t)) 2 = u16 H 2 from a 2 2 (by omega),
    show u32 (H ++ (c ++ t)) 4 = u32 H 4 from a 4 4 (by omega), show u32 (H ++ (c ++ t)) 12 = u32 H 12 from a 12 4 (by omega)]
  rw [if_pos ⟨by simp [hl], by simp [hl, hc]; omega, by simp [hl, hc, ← Nat.add_assoc], trivial, hr.imp_left fun (e : t = []) => by simp [e, hl, hc]⟩, ← List.drop_drop, slice, d32, ← hc, List.take_left,
    List.drop_left]

/-- The wrapped key of the tests, of 32 bytes: its blob's first 16 bytes, and its blob. -/
def testBlob : List Byte := testAttr 4 ++ leBytes 2 32 ++ leBytes 6 0
def testWrapped : List Byte :=
  leBytes 2 511 ++ leBytes 6 0 ++ testBlob ++ leBytes 12 9 ++ leBytes 4 0 ++ gcmSeal testSecret (leBytes 12 9) testBlob (List.replicate 32 7)
def testImport : List Byte := testHeader 3 20 0 88 0 ++ (testWrapped ++ [])

/-- A pending erasure; a part without a root secret; GENERATE into the last slot, with USAGE bit 2 and bit 6; DERIVE from depth 1 and from depth 6; IMPORT; EXPORT of a key
that may and may not be exported; DESTROY by its owner and by another island; and an orphan. -/
theorem witness_KeysAreCreatedMovedAndDestroyed :
    (testCoffer [(F.CFR_LC_STATE_ERASE_PEND, 0, 1)]).flag F.CFR_LC_STATE_ERASE_PEND = true
    ∧ testMeets (testCoffer [(F.CFR_STAT_ROOT_FAIL, 0, 1)]) (fun s => s.flag F.CFR_STAT_ROOT_FAIL && !s.flag F.CFR_LC_STATE_ERASE_PEND
      && (match readFrame (testReq 5 20 []) with | some f => decide (f.opcode = 5) | none => false))
    ∧ (∀ x ∈ ([(4, true), (64, false)] : List (Nat × Bool)), testAsks (testCoffer []) (testReq 1 511 (testAttr x.1)) 1 fun f =>
      let a := attrOf f.body 0 1 0x3FF
      testFree (testCoffer []) f.slot && decide (f.body.length = 8 ∧ f.rest = [] ∧ F.CFR_SLOT_ATTR_LO_ALG.of a.1 = 6 ∧ F.CFR_SLOT_ATTR_LO_PUB.of a.1 = 0
        ∧ testPlain 1 f 0 = x.2))
    ∧ (∀ d ∈ ([1, 6] : List Nat), testMeets (testCoffer [(F.CFR_SLOT_ATTR_LO_DEPTH, 20, d)]) fun s =>
      testAsks s (testReq 2 20 (leBytes 2 511 ++ leBytes 6 0 ++ testAttr 4 ++ [1])) 2 fun f =>
        testPlain 1 f 8 && testFree s 511 && decide (u16 f.body 0 = 511 ∧ f.body.length = 17 ∧ uN f.body 2 6 = 0 ∧ s.slotKey f.slot 1 3 = some testSecret
          ∧ s.pubKeys < 64 ∧ F.CFR_SLOT_ATTR_LO_ALG.of (attrOf (f.body.drop 8) 1 (d + 1) f.slot).1 = 6 ∧ s.fld F.CFR_SLOT_ATTR_LO_DEPTH f.slot = d))
    ∧ (∃ f, Asks (testCoffer []) 1 testImport 3 f ∧ f.rest = [] ∧ privileged (BitVec.ofNat 32 (u32 f.body 8)) (BitVec.ofNat 32 (u32 f.body 12)) = false
      ∧ f.slot = 20 ∧ f.body = testWrapped)
    ∧ (testBlob.length = 16 ∧ (leBytes 12 9).length = 12 ∧ u16 testBlob 8 = (List.replicate 32 (7 : Byte)).length ∧ uN testBlob 10 6 = 0
      ∧ u32 testBlob 0 / 2 ^ 28 = 6 ∧ testFree (testCoffer []) 511 = true ∧ (testCoffer []).pubKeys < 64
      ∧ (testCoffer []).slotKey 20 1 5 = some testSecret ∧ (testCoffer []).fld F.CFR_SLOT_ATTR_LO_DEPTH 20 < 6)
    ∧ (∀ x ∈ ([0, 1] : List Nat), testMeets (testCoffer [(F.CFR_SLOT_ATTR_LO_EXPORT, 20, x)]) fun s => testAsks s (testReq 4 20 (leBytes 8 21)) 4 fun f =>
      decide (f.body.length = 8 ∧ uN f.body 2 6 = 0 ∧ s.slotLive f.slot = true ∧ s.chainOk 5 f.slot = true ∧ s.fld F.CFR_SLOT_ATTR_LO_OWNER f.slot = 15
        ∧ s.slotKey (u16 f.body 0) 1 4 = some testSecret ∧ (s.keySlot f.slot).active = some testSecret ∧ s.fld F.CFR_SLOT_ATTR_LO_EXPORT f.slot = x))
    ∧ (∀ o ∈ ([15, 3] : List Nat), testMeets (testCoffer [(F.CFR_SLOT_ATTR_LO_OWNER, 20, o), (F.CFR_SLOT_ATTR_LO_PARENT, 21, 20)]) fun s =>
      testAsks s (testReq 5 20 []) 5 fun f =>
        decide (f.body = [] ∧ 10 ≤ f.slot ∧ f.slot < 512 ∧ s.slotState f.slot = 1 ∧ s.fld F.CFR_SLOT_ATTR_LO_OWNER f.slot = o ∧ 21 ∈ s.children f.slot))
    ∧ (testCoffer [(F.CFR_SLOT_STAT_STATE, 511, 2)]).slotState 511 = 2 := by
  refine ⟨by decide +kernel, by decide +kernel, by decide +kernel, by decide +kernel, ?_, by decide +kernel, by decide +kernel, by decide +kernel,
    by decide +kernel⟩
  have hw : testWrapped.length = 88 := by simp [testWrapped, gcmSeal, gcmText, testBlob, testAttr, leBytes]
  refine ⟨_, ⟨by decide +kernel, by decide +kernel, by decide +kernel, by decide +kernel, readFrame_append 3 20 0 88 0 _ _ hw (by decide) (.inl rfl) (by decide +kernel), by decide +kernel⟩, rfl, by decide +kernel, by decide +kernel, rfl⟩

/-- A frame that OPEN takes: 12 bytes of a nonce, 3 of associated data, and 5 bytes sealed under slot 20. -/
def testSealBody : List Byte := leBytes 12 9 ++ leBytes 4 3 ++ [1, 2, 3] ++ [4, 5, 6, 7, 8]
def testOpenBody : List Byte := leBytes 12 9 ++ leBytes 4 3 ++ [1, 2, 3] ++ gcmSeal testSecret (leBytes 12 9) [1, 2, 3] [4, 5, 6, 7, 8]

/-- Channel 0 holds a HASH frame at 1200_0000h. -/
def testChannel (outMax : Nat) (l : List (Fld × Nat × Nat)) (len : Nat := 36) : State :=
  ((testCoffer ((F.CFR_CH_LEN_LEN, 0, len) :: l)).setReg .CFR_CH_ADDR_LO 0 0x12000000).setBytes 0x12000000 (testReq 0x14 0 [1, 2, 3, 4] 0 outMax)

/-- A slot without a key; another island's key, and one without the usage; SIGN, VERIFY, SEAL, OPEN and HASH of each digest under a key; a
channel whose output just fits and one that misses a byte; GET_PUBLIC with and without VERIFY; ATTEST under identity 1 and GET_CERT of it; GO
of a busy channel, a good one and one without a frame. -/
theorem witness_KeysAreUsedByTheirAttributes :
    testAsks (testCoffer []) (testReq 0x10 511 []) 0x10 (fun f => decide ((testCoffer []).useCode f.slot 1 0 ≠ 0))
    ∧ (∀ x ∈ ([(15, 0x1FFFF), (3, 0x1FFFF), (15, 0x1FFFB)] : List (Nat × Nat)),
      testMeets (testCoffer [(F.CFR_SLOT_ATTR_LO_OWNER, 20, x.1), (F.CFR_SLOT_ATTR_HI_USAGE, 20, x.2)]) fun s =>
        !s.flag F.CFR_STAT_ROOT_FAIL && s.slotLive 20 && decide (s.fld F.CFR_SLOT_ATTR_LO_OWNER 20 = x.1
          ∧ (bitOf (s.fld F.CFR_SLOT_ATTR_HI_USAGE 20) 2 = false ↔ x.2 = 0x1FFFB)))
    ∧ testAsks (testCoffer []) (testReq 0x10 20 [1]) 0x10 (fun f => decide ((testCoffer []).slotKey f.slot 1 0 = some testSecret))
    ∧ testAsks (testCoffer []) (testReq 0x11 20 (leBytes 8 4 ++ [1, 2, 3, 4])) 0x11 (fun f =>
      decide ((testCoffer []).useCode f.slot 1 1 = 0 ∧ 8 + u16 f.body 0 ≤ f.body.length ∧ uN f.body 2 6 = 0))
    ∧ (testAsks (testCoffer []) (testReq 0x12 20 testSealBody) 0x12 fun f => decide ((testCoffer []).slotKey f.slot 1 2 = some testSecret
      ∧ f.body = leBytes 12 9 ++ leBytes 4 ([1, 2, 3] : List Byte).length ++ [1, 2, 3] ++ [4, 5, 6, 7, 8]))
    ∧ (∃ f, Asks (testCoffer []) 1 (testHeader 0x13 20 0 40 0 ++ (testOpenBody ++ [])) 0x13 f ∧ f.slot = 20 ∧ f.body = leBytes 12 9
      ++ leBytes 4 ([1, 2, 3] : List Byte).length ++ [1, 2, 3] ++ gcmSeal testSecret (leBytes 12 9) [1, 2, 3] [4, 5, 6, 7, 8])
    ∧ (∀ x ∈ ([0, 1] : List Nat), testAsks (testCoffer []) (testReq 0x14 0 [1] x) 0x14 fun f => decide (f.arg = x))
    ∧ (∀ x ∈ ([31, 32] : List Nat), testMeets (testChannel x []) fun s => match (s.channelFrame 0).1.bind readFrame with
      | some f => !s.flag F.CFR_LC_STATE_ERASE_PEND && decide (f.opcode = 0x14 ∧ f.arg = 0 ∧ f.outMax = x ∧ (s.unitWrite cofferPort f.out (List.replicate 32 0)).1 = true ∧ s.absentEngineAt f.out 32 = false)
      | none => false)
    ∧ (∀ x ∈ ([0x1FFFF, 0x1FFFD] : List Nat), testMeets (testCoffer [(F.CFR_SLOT_ATTR_HI_USAGE, 20, x)]) fun s => testAsks s (testReq 6 20 []) 6 fun f =>
      !s.flag F.CFR_STAT_ROOT_FAIL && decide (f.body = [] ∧ s.slotLive f.slot = true ∧ s.chainOk 5 f.slot = true
        ∧ (s.keySlot f.slot).active = some testSecret ∧ (bitOf (s.fld F.CFR_SLOT_ATTR_HI_USAGE f.slot) 1 = false ↔ x = 0x1FFFD)))
    ∧ testMeets (testKey (testCoffer []) 1 (2 ^ 16)) (fun s => testAsks s (testReq 7 20 (List.replicate 32 5 ++ [1, 0])) 7 fun f =>
      decide (f.body.length = 34 ∧ u8 f.body 32 = 1 ∧ u8 f.body 33 = 0 ∧ s.slotLive f.slot = true ∧ s.slotKey (u8 f.body 32) 1 16 = some testSecret))
    ∧ testAsks (testCoffer []) (testReq 8 0 [1]) 8 (fun f => decide (f.body.length = 1 ∧ u8 f.body 0 ≤ 1))
    ∧ (testCoffer [(F.CFR_CH_STAT_BUSY, 0, 1)]).flag F.CFR_CH_STAT_BUSY 0 = true
    ∧ testMeets (testChannel 32 []) (fun s => match (s.channelFrame 0).1.bind readFrame with
      | some f => !s.flag F.CFR_CH_STAT_BUSY 0 && opcodes.contains f.opcode && channelMay 0 f.opcode
      | none => false)
    ∧ ((testChannel 32 [] 31).channelFrame 0).1.bind readFrame = none
    ∧ testReach (testCoffer [(F.CFR_CH_STAT_BUSY, 0, 1)]) .CFR_CH_CMD 0 = true ∧ testReach (testChannel 32 []) .CFR_CH_CMD 0 = true
    ∧ testReach (testChannel 32 [] 31) .CFR_CH_CMD 12 = true ∧ (⟨0, 0⟩ : Initiator).port ≠ 14 := by
  refine ⟨by decide +kernel, by decide +kernel, by decide +kernel, by decide +kernel, by decide +kernel, ?_, by decide +kernel, by decide +kernel,
    by decide +kernel, by decide +kernel, by decide +kernel, by decide +kernel, by decide +kernel, by decide +kernel, by decide +kernel,
    by decide +kernel, by decide +kernel, by decide +kernel⟩
  have hw : testOpenBody.length = 40 := by simp [testOpenBody, gcmSeal, gcmText, leBytes]
  exact ⟨_, ⟨by decide +kernel, by decide +kernel, by decide +kernel, by decide +kernel, readFrame_append 0x13 20 0 40 0 _ _ hw (by decide) (.inl rfl) (by decide +kernel), by decide +kernel⟩, by decide +kernel, rfl⟩

/-- The device's serial number in 16 bytes; a body of LC_STEP into a state. -/
def testSerial : List Byte := (Config.serial ++ leBytes 16 0).take 16
def testStep (dst : Byte) : List Byte := List.replicate 32 0 ++ [dst] ++ List.replicate 15 0 ++ testSerial

/-- A staged key, and Coffer with it in slot 20. -/
def testSide : KeySide := ⟨1, 2, List.replicate 32 7⟩
def testStaged (at_ grace : Nat) : State := (testCoffer []).onSlot 20 fun k => { k with staged := some testSide, commit := some (at_, grace, true) }

/-- A body of ROT_ROTATE: a nonce, attributes of a public key, and the key. -/
def testRotate (key : List Byte) : List Byte := List.replicate 32 0 ++ leBytes 4 (F.CFR_SLOT_ATTR_LO_ALG.put (F.CFR_SLOT_ATTR_LO_PUB.put 0 1) 2).toNat ++ leBytes 4 2 ++ key

/-- STAGE with the attributes of the slot and with others; COMMIT with and without a verified key; ABORT; a swap that is due and one that is
not, with and without GRACE; a grace that is over; rotations to the same key, to another one after six and after seven; a step from
INTEGRATOR to FIELD and one to MAKER, after three and after four; a pending erasure; an unlock below a lock and at its end; a
session; and a halt in each state. -/
theorem witness_ReplacementsLifeCycleAndDebug :
    (∀ u ∈ ([4, 8] : List Nat), testMeets (testCoffer [(F.CFR_SLOT_ATTR_HI_USAGE, 20, 4)]) fun s => testAsks s (testReq 0x20 20 ([1, 0, 0, 0, 0, 0, 0, 0] ++ testAttr u)) 0x20 fun f =>
      let a := attrOf (f.body.drop 8) 0 1 0x3FF
      testPlain 1 f 8 && !s.flag F.CFR_STAT_ROOT_FAIL && decide (f.body.length = 16 ∧ u8 f.body 0 = 1 ∧ uN f.body 1 7 = 0 ∧ 10 ≤ f.slot
        ∧ s.slotLive f.slot = true ∧ F.CFR_SLOT_ATTR_LO_ALG.of a.1 = 6 ∧ F.CFR_SLOT_ATTR_LO_PUB.of a.1 = 0
        ∧ s.stageable f.slot ⟨a.1, a.2, 0, Config.makeKey 6 (s.fresh 256)⟩ = decide (u = 4)))
    ∧ (∀ v ∈ ([0, 1] : List Nat), testMeets (testCoffer [(F.CFR_SLOT_STAT_VERIFIED, 20, v)]) fun s =>
      testAsks s (testReq 0x21 20 (leBytes 8 5 ++ leBytes 2 3 ++ leBytes 6 0)) 0x21 fun f => decide (f.body.length = 16 ∧ uN f.body 10 6 = 0
        ∧ s.slotLive f.slot = true ∧ s.fld F.CFR_SLOT_ATTR_LO_OWNER f.slot = 15 ∧ (s.flag F.CFR_SLOT_STAT_VERIFIED f.slot = true ↔ v = 1)))
    ∧ testAsks (testStaged 0 0) (testReq 0x22 20 []) 0x22 (fun f => decide (f.body = [] ∧ ((testStaged 0 0).keySlot f.slot).staged = some testSide))
    ∧ (∀ x ∈ ([(5, 0), (4, 0), (4, 65535)] : List (Nat × Nat)), testMeets (testAt 499 (testStaged x.1 x.2)) fun s =>
      decide ((s.keySlot 20).staged = some testSide ∧ (s.keySlot 20).commit = some (x.1, x.2, true) ∧ x.2 < 2 ^ 16 ∧ (s.heat < x.1 ↔ x.1 = 5)))
    ∧ (∀ g ∈ ([0, 1] : List Nat), testMeets (testCoffer [(F.CFR_SLOT_STAT_PREV, 20, 1), (F.CFR_SLOT_STAT_GRACE, 20, g)]) fun s =>
      s.flag F.CFR_SLOT_STAT_PREV 20 && decide (s.fld F.CFR_SLOT_STAT_GRACE 20 = g))
    ∧ (∀ x ∈ ([(0, 0), (1, 6), (1, 7)] : List (Byte × Nat)), testMeets (testPut (testKey (testCoffer []) 8 0x1FFFF) [(F.CFR_ROT_CNT_COUNT, 0, x.2)]) fun s =>
      testAsks s (testReq 0x31 8 (testRotate (List.replicate 32 x.1))) 0x31 fun f => decide (41 ≤ f.body.length ∧ s.slotLive 8 = true ∧ s.pubKeys < 64
        ∧ rootKey (attrOf (f.body.drop 32) 3 1 0x3FF).1 = true ∧ ((s.keySlot 8).active = some (f.body.drop 40) ↔ x.1 = 0)
        ∧ s.fld F.CFR_ROT_CNT_COUNT = x.2))
    ∧ (∀ dst ∈ ([0, 2] : List Byte), ∀ steps ∈ ([3, 4] : List Nat), ∃ f, Asks (testCoffer [(F.CFR_LC_STATE_STATE, 0, 1), (F.CFR_LC_STATE_STEPS, 0, steps)]) 1
        (testHeader 0x30 0 0 64 0 ++ (testStep dst ++ [])) 0x30 f ∧ f.body.length = 64 ∧ uN f.body 33 15 = 0 ∧ u8 f.body 32 = dst.toNat
      ∧ slice f.body 48 16 = testSerial)
    ∧ (lcSigner 1 0 8 || lcSigner 1 0 2) = false
    ∧ testMeets (testCoffer [(F.CFR_LC_STATE_STATE, 0, 1), (F.CFR_LC_STATE_STEPS, 0, 3), (F.CFR_SLOT_STAT_STATE, 8, 1)]) (fun s =>
      (lcSigner (s.fld F.CFR_LC_STATE_STATE) 2 8 || lcSigner (s.fld F.CFR_LC_STATE_STATE) 2 2)
        && decide (s.fld F.CFR_LC_STATE_STEPS < 4 ∧ s.fld F.CFR_LC_STATE_STATE ≠ 4 ∧ s.slotState 8 = 1 ∧ (2 : Nat) < 3))
    ∧ testMeets (testCoffer [(F.CFR_LC_STATE_STATE, 0, 3), (F.CFR_LC_STATE_ERASE_PEND, 0, 1)]) (fun s => s.flag F.CFR_LC_STATE_ERASE_PEND && s.sys.booted
      && decide (20 ∈ s.erased ∧ s.slotState 20 ≠ 0))
    ∧ (∀ lock ∈ ([500, 501] : List Nat), testMeets (let s := testAt 500 (testCoffer []); { s with cof := { s.cof with lockUntil := lock } }) fun s =>
      testAsks s (testReq 0x40 0 (List.replicate 32 0 ++ [1, 0, 9, 0])) 0x40 fun f =>
        decide (f.body.length = 36 ∧ u8 f.body 33 = 0 ∧ (s.now < s.cof.lockUntil ↔ lock = 501)))
    ∧ testMeets (testCoffer [(F.CFR_DBG_STAT_OPEN, 0, 1), (F.CFR_DBG_STAT_REMAIN, 0, 0)]) (fun s =>
      s.flag F.CFR_DBG_STAT_OPEN && decide (s.fld F.CFR_DBG_STAT_REMAIN = 0))
    ∧ testReach (testCoffer [(F.CFR_DBG_STAT_OPEN, 0, 1)]) .CFR_DBG_CTL 0 = true
    ∧ (testCoffer [(F.CFR_LC_STATE_STATE, 0, 2), (F.CFR_DBG_STAT_OPEN, 0, 0)]).debugOpen = false
    ∧ (∀ h ∈ ([0, 1] : List Nat), testMeets (testCoffer [(F.CFR_DBG_STAT_OPEN, 0, 1), (F.CFR_DBG_STAT_LEVEL, 0, 1), (F.CFR_LC_STATE_STATE, 0, 2), (F.PEG_STAT_HOLD, 0, h)])
      fun s => s.debugOpen && decide (s.fld F.CFR_LC_STATE_STATE = 2 ∧ (s.holds = true ↔ h = 1))) := by
  refine ⟨by decide +kernel, by decide +kernel, by decide +kernel, by decide +kernel, by decide +kernel, by decide +kernel, ?_, by decide, by decide +kernel,
    by decide +kernel, by decide +kernel, by decide +kernel, by decide +kernel, by decide +kernel, by decide +kernel⟩
  have hs : testSerial.length = 16 := by simp [testSerial, leBytes]
  intro dst hd steps hp
  have hl : (testStep dst).length = 64 := by simp [testStep, hs]
  have hb : ∀ d ∈ ([0, 2] : List Byte), uN (List.replicate 32 0 ++ [d] ++ List.replicate 15 0) 33 15 = 0 := by decide +kernel
  have hu : ∀ d : Byte, u8 (List.replicate 32 0 ++ [d] ++ List.replicate 15 0) 32 = d.toNat := fun d => rfl
  have h48 : ∀ d : Byte, (List.replicate 32 (0 : Byte) ++ [d] ++ List.replicate 15 0).length = 48 := fun d => rfl
  refine ⟨_, ⟨?_, ?_, ?_, ?_, readFrame_append 0x30 0 0 64 0 _ _ hl (by decide) (.inl rfl) (by decide +kernel), rfl⟩, hl, ?_, ?_, ?_⟩
  · simp only [List.mem_cons, List.mem_nil_iff, or_false] at hp
    obtain rfl | rfl := hp <;> decide +kernel
  · simp only [List.mem_cons, List.mem_nil_iff, or_false] at hp
    obtain rfl | rfl := hp <;> decide +kernel
  · simp only [List.mem_cons, List.mem_nil_iff, or_false] at hp
    obtain rfl | rfl := hp <;> decide +kernel
  · simp only [List.mem_cons, List.mem_nil_iff, or_false] at hp
    obtain rfl | rfl := hp <;> decide +kernel
  · refine Eq.trans ?_ (hb dst hd)
    unfold uN slice testStep
    simp only
    rw [List.drop_append_of_le_length (by rw [h48]; omega), List.take_append_of_le_length (by rw [List.length_drop, h48])]
  · refine Eq.trans ?_ (hu dst)
    unfold u8 testStep
    simp only
    rw [List.getD_append _ _ _ _ (by rw [h48]; omega)]
  · unfold slice testStep
    simp only
    rw [List.drop_left' (h48 dst), List.take_of_length_le (Nat.le_of_eq hs)]

/-- Scribe with a snapshot due at PERIOD 10, of bank 15, with ring 63 of 16 entries of 1,024 bytes, `n` of them waiting. -/
def testScribe (n : Nat) : State :=
  let s := testRun ((F.PNT_RING_PROD_INDEX, 63, n) :: (F.SCB_CFG_PERIOD, 0, 20) :: (F.SCB_CFG_BANKS, 0, 1) :: testRing 63 0 10 4)
  { s with scb := { s.scb with due := some ⟨7, 10, [15], ⟨0, []⟩, ⟨0, []⟩, ⟨0, []⟩⟩, period := 10, banks := 0x8000, newCfg := true } }

/-- No snapshot due; one due with room and without; PERIOD 0, 1, 9 and 10, before and after a snapshot was set up; K of 3, 4, 20 and 21 with EN
and a ring; a tag that is not in flight, and one of an engine and of a host core, with room. -/
theorem witness_SnapshotsAndTagsGoToTheirRings :
    State.reset.scb.due = none
    ∧ (∀ n ∈ ([15, 16] : List Nat), testMeets (testScribe n) fun s => s.scb.newCfg && !s.scb.skipSaid
      && decide (s.scb.due = some ⟨7, 10, [15], ⟨0, []⟩, ⟨0, []⟩, ⟨0, []⟩⟩ ∧ s.snapBanks = [15] ∧ (s.ringRoom 63 1 = true ↔ n = 15) ∧ s.scb.period ≠ 0))
    ∧ (testReach (testScribe 0) .SCB_CTL 0 = true ∧ testReach (testScribe 0) .SCB_CFG 0 = true ∧ testReach (testRun []) .SCB_CFG 0 = true
      ∧ testReach (testRun (testRing 5 0 5 4)) .SCB_TAG_CFG 0 = true)
    ∧ (∀ n ∈ ([0, 1, 9, 10] : List Nat), F.SCB_CFG_PERIOD.of (F.SCB_CFG_PERIOD.put 0 n) = n) ∧ (testRun []).scb.period = 0
    ∧ testMeets (testRun (testRing 5 0 5 4)) (fun s => (List.range 22).all fun k => decide (k < 3) ||
      (let v := F.SCB_TAG_CFG_RING.put (F.SCB_TAG_CFG_EN.put (F.SCB_TAG_CFG_K.put 0 k) 1) 5
       decide ((F.SCB_TAG_CFG_K.of v < 4 ∨ 20 < F.SCB_TAG_CFG_K.of v ∨ (F.SCB_TAG_CFG_EN.of v = 1 ∧ s.ringFits (F.SCB_TAG_CFG_RING.of v) 0 32 = false))
        ↔ (k = 3 ∨ k = 21))))
    ∧ State.reset.tagInFlight ⟨0, 7, 8⟩ = none
    ∧ testMeets (testRun ((F.SCB_TAG_CFG_EN, 0, 1) :: (F.SCB_TAG_CFG_RING, 0, 5) :: testRing 5 0 5 4)) (fun s =>
      decide (s.tagInFlight ⟨15, 7, 8⟩ = some ⟨15, 7, 8⟩ ∧ s.tagInFlight ⟨16, 0, 0⟩ = none ∧ s.ringFits (s.fld F.SCB_TAG_CFG_RING) 0 32 = true
        ∧ s.ringRoom (s.fld F.SCB_TAG_CFG_RING) 1 = true))
    ∧ testMeets (let s := testRun ((F.SCB_TAG_CFG_EN, 0, 1) :: (F.SCB_TAG_CFG_RING, 0, 5) :: testRing 5 0 5 4); { s with scb := { s.scb with tags := [⟨16, 7, 8⟩] } })
      (fun s => decide (s.tagInFlight ⟨16, 0, 0⟩ = some ⟨16, 7, 8⟩)) := by decide +kernel

/-- Each rail at its limits; PFW_N with the core rails off, in a sequence and in normal operation; a sequence 5 ms and 6 ms old and one stroke
younger, with and without HOST_DONE; resets with the core rails on and off; a device that waits for its release. -/
theorem witness_SuppliesResetsAndRelease :
    (∀ rail < (4 : Nat), ∀ mv ∈ ([0, (railLimits rail).2.1, (railLimits rail).2.2, 65535] : List Nat), mv < 2 ^ 16
      ∧ (((railLimits rail).2.1 ≤ mv ∧ mv ≤ (railLimits rail).2.2) ↔ mv ≠ 0 ∧ mv ≠ 65535))
    ∧ testMeets (testRun []) (fun s => !s.pwr.coreOff && s.sys.booted && !s.flag F.PWR_STAT_PF_ACTIVE && testReach s .PWR_CTL 0)
    ∧ testMeets { testRun [] with pwr := { Pwr.init with coreOff := true } } (fun s => s.pwr.coreOff)
    ∧ testMeets (testRun [(F.PWR_STAT_PF_ACTIVE, 0, 1)]) (fun s => !s.pwr.coreOff && s.flag F.PWR_STAT_PF_ACTIVE && !s.pwr.hostDone && testReach s .PWR_CTL 0)
    ∧ (∀ n ∈ ([499, 500, 599, 600] : List Nat), testMeets (let s := testAt (99 + n) (testRun [(F.PWR_STAT_PF_ACTIVE, 0, 1)]); { s with pwr := { s.pwr with failAt := 100, sources := [] } }) fun s =>
      s.flag F.PWR_STAT_PF_ACTIVE && !s.pwr.hostDone && decide ((s.pwr.failAt + s.strokesIn 500000 ≤ s.now + 1 ↔ 500 ≤ n)
        ∧ (s.pwr.failAt + s.strokesIn 600000 ≤ s.now + 1 ↔ n = 600)))
    ∧ testMeets (let s := testRun [(F.PWR_STAT_PF_ACTIVE, 0, 1)]; { s with pwr := { s.pwr with hostDone := true, sources := [] } }) (fun s =>
      s.flag F.PWR_STAT_PF_ACTIVE && s.pwr.hostDone && decide (s.pwr.sources = []))
    ∧ (∀ off ∈ ([false, true] : List Bool), testHolds (let s := testRun []; { s with pwr := { s.pwr with sources := [8], coreOff := off } }) fun s =>
      decide (s.pwr.sources ≠ [] ∧ s.pwr.coreOff = off)) := by decide +kernel

/-! ### The spec's worked examples, and single steps -/

/-- File 19: CS_50 is ball F3, SOUT_A_3 AC43, SOUT_B_3 AC44, SORB_3 AC45 and AIN_5_2 BB35, in rows 6, 22 and 40. -/
theorem test_balls_lie_where_the_bench_example_says :
    csPlace 50 = (6, 3) ∧ rightPlace (soutAPosition 3) = (22, 43) ∧ rightPlace (soutBPosition 3) = (22, 44)
    ∧ rightPlace (sorbPosition 3) = (22, 45) ∧ analogPlace (ainPosition 5 2) = (40, 35) := by decide

/-- File 0: the part with SYS_FEAT0 = 07DA_1830h has 48 phases and 24 engines. -/
theorem test_feat0_of_the_bench_example :
    testHolds (let s := State.reset; { s with sys := { s.sys with variant := .gzM9480 } }) (fun s =>
      decide (s.feat0 = 0x07DA1830 ∧ s.phaseCount = 48)) := by decide +kernel

/-- File 5: 2,859.0 in a stage of exponent 12 is the word 5958_000Ch. -/
theorem test_bf32_word_of_the_bench_example : bfWord (2859 * 2 ^ 11) 12 = 0x5958000C ∧ bfM 0x5958000C = 5855232 ∧ bfE 0x5958000C = 12 := by decide +kernel

/-- File 5: a bundle split into its slots: MAC a0 k9 k13, ADD k10 k10 k14, LD k20 240h; a reserved MAC opcode has no operation. -/
theorem test_bundle_of_the_bench_example :
    bundleOps 0 0 0 0x225A00A94E1A0240 = some [.mac 0 (some 0) false 9 13, .add 0 none 10 10 14, .ld 0 none 20 0x240]
    ∧ reservedBundle 0x7000000000000000 = true := by decide

/-- File 14: a frame of LEN 18 in REP4 takes 880 symbols. -/
theorem test_feeder_frame_of_the_bench_example : (fdlTones 1 (fdlFrame 4 12 9 (List.replicate 18 7))).length = 880 := by decide +kernel

/-- File 1: core 3 reads the low half at 0002_FFFF_FFFEh, and three strokes later the high half of that instant; core 5 the live one. -/
theorem test_split_read_of_the_bench_example :
    testNext (.splitReadLo ⟨0, 3⟩ 0 0x38) (testAt 0x2FFFFFFFE (testRun [])) (fun t =>
      decide (t.resp = .data (leBytes 4 0xFFFFFFFE))
        && testNext (.splitReadHi ⟨0, 3⟩ 0 0x3C) (testAt 0x300000001 t) (fun u => decide (u.resp = .data (leBytes 4 2)))
        && testNext (.splitReadHi ⟨1, 5⟩ 0 0x3C) (testAt 0x300000001 t) (fun u => decide (u.resp = .data (leBytes 4 3)))) = true := by
  decide +kernel

/-- The queue: a step runs the command in front, and idles on an empty queue. -/
theorem test_step_takes_the_front :
    (match step { testRun [] with pending := [.clear ⟨0, 0⟩, .fdlTxEnd] } with
      | .next t => t.pending == [.fdlTxEnd] && t.scb.clear
      | _ => false) = true
    ∧ (match step State.reset with | .next t => decide (t.scb.clear = false) && decide (t.pending = []) | _ => false) = true := by decide +kernel

end Sys2Proof
end

section
/-! SUPPORT. The stroke counter (R25): what each command that moves it comes to, and that every other command keeps it. -/

namespace Sys2Proof.Machine

/-! ### The commands that move the counter -/

/-- The markers and the starts: the commands that R25 lets write the stroke counter. -/
def MovesStroke (c : Instr) : Prop :=
  (∃ x, c = .strokeMarker x) ∨ (∃ x, c = .joineryCommit x) ∨ (∃ h x, c = .alignMarker h x) ∨ (∃ n, c = .corePowerUp n)
    ∨ ∃ b, c = .coldStart b

theorem State.marker_stroke (s : State) (x : MarkerInput) : (s.marker x).sys.stroke = s.sys.stroke + 1 :=
  (s.marker_keeps x).clock

/-- Alignment on the holder's marker sets the heat offset, not the counter (R300). -/
theorem State.alignTo_stroke (s : State) (holder : Nat) : (s.alignTo holder).sys.stroke = s.sys.stroke :=
  (State.alignTo_keeps s holder).clock

theorem State.coldStart_stroke (s : State) (unitB : Bool) : (s.coldStart unitB).sys.stroke = 0 :=
  (s.coldStart_keeps unitB).clock

theorem State.corePowerUp_stroke {s : State} (off : s.sys.booted = false) (elapsed : Nat) :
    (s.corePowerUp elapsed).sys.stroke = s.sys.stroke + BitVec.ofNat 48 ((elapsed + s.period - 1) / s.period) := by
  have h := (s.corePowerUp_keeps elapsed).clock
  rwa [if_neg (by simp [off])] at h

theorem exec_strokeMarker {s : State} (ticks : s.ticks = true) (free : s.waitsForHolder = false) (x : MarkerInput) :
    exec (.strokeMarker x) s = .next (s.marker x) := by
  simp [exec, execStrokeMarker, ticks, free]

theorem exec_joineryCommit {s : State} (ticks : s.ticks = true) (free : s.waitsForHolder = false) (due : s.jny.scheduled = true)
    (heat : (s.now + 1) % 100 = 0) (x : MarkerInput) : exec (.joineryCommit x) s = .next (s.marker x) := by
  simp [exec, execJoineryCommit, ticks, free, due, heat]

theorem exec_alignMarker {s : State} {holder : Nat} (ticks : s.ticks = true) (waits : s.waitsForHolder = true)
    (agree : holder % 100 = (s.now + 1) % 100) (x : MarkerInput) :
    exec (.alignMarker holder x) s = .next ((s.marker x).alignTo holder) := by
  simp [exec, execAlignMarker, ticks, waits, agree]

/-! ### The other commands -/

/-- Every command is a marker or a start, or it answers a next state that keeps the stroke counter with the rest of `Keeps`. -/
theorem movesStroke_or_exec_keeps (c : Instr) (s : State) : MovesStroke c ∨ ∃ t, exec c s = .next t ∧ Keeps s t :=
  match c with
  | .strokeMarker x => .inl (.inl ⟨x, rfl⟩)
  | .overrun w => .inr (execOverrun_keeps w s)
  | .overrunLimit w => .inr (execOverrunLimit_keeps w s)
  | .fabricAccess x => .inr (execFabricAccess_keeps x s)
  | .splitReadLo who win off => .inr (execSplitReadLo_keeps who win off s)
  | .splitReadHi who win off => .inr (execSplitReadHi_keeps who win off s)
  | .splitWriteLo who win off v => .inr (execSplitWriteLo_keeps who win off v s)
  | .splitWriteHi who win off ofs v => .inr (execSplitWriteHi_keeps who win off ofs v s)
  | .registerWrite who win off v => .inr (execRegisterWrite_keeps who win off v s)
  | .regionWarn island peer quantity v => .inr (execRegionWarn_keeps island peer quantity v s)
  | .regionMismatch a b m => .inr (execRegionMismatch_keeps a b m s)
  | .stage who => .inr (execStage_keeps who s)
  | .cancel who => .inr (execCancel_keeps who s)
  | .raiseFloor who => .inr (execRaiseFloor_keeps who s)
  | .imageCheckDone => .inr (execImageCheckDone_keeps s)
  | .resourceClaim => .inr (execResourceClaim_keeps s)
  | .joineryCommit x => .inl (.inr (.inl ⟨x, rfl⟩))
  | .busyTimeout => .inr (execBusyTimeout_keeps s)
  | .acqTrigger n t => .inr (execAcqTrigger_keeps n t s)
  | .acqSoftTrig who n t => .inr (execAcqSoftTrig_keeps who n t s)
  | .runStart n t => .inr (execRunStart_keeps n t s)
  | .slotRestart n t => .inr (execSlotRestart_keeps n t s)
  | .slotResult n codes t => .inr (execSlotResult_keeps n codes t s)
  | .acqSeqRestart who n => .inr (execAcqSeqRestart_keeps who n s)
  | .lpWrite who n lp => .inr (execLpWrite_keeps who n lp s)
  | .pairCheck k t a b => .inr (execPairCheck_keeps k t a b s)
  | .acqCheckFault k => .inr (execAcqCheckFault_keeps k s)
  | .acqCheckFaultClear who k => .inr (execAcqCheckFaultClear_keeps who k s)
  | .decimationOutput m bits => .inr (execDecimationOutput_keeps m bits s)
  | .modStuck m bits => .inr (execModStuck_keeps m bits s)
  | .modStuckEnd m => .inr (execModStuckEnd_keeps m s)
  | .pwmPeriod p t => .inr (execPwmPeriod_keeps p t s)
  | .onEdge p => .inr (execOnEdge_keeps p s)
  | .valley p t => .inr (execValley_keeps p t s)
  | .peakTrip p cs t => .inr (execPeakTrip_keeps p cs t s)
  | .maxOnTime p steps => .inr (execMaxOnTime_keeps p steps s)
  | .lowSideOn p => .inr (execLowSideOn_keeps p s)
  | .baySaturated b => .inr (execBaySaturated_keeps b s)
  | .trimLimit p => .inr (execTrimLimit_keeps p s)
  | .shedStepEnd b => .inr (execShedStepEnd_keeps b s)
  | .shedHoldEnd b => .inr (execShedHoldEnd_keeps b s)
  | .overshoot b level => .inr (execOvershoot_keeps b level s)
  | .overshootEnd b level => .inr (execOvershootEnd_keeps b level s)
  | .overshootLimit b => .inr (execOvershootLimit_keeps b s)
  | .fastLimit m bits => .inr (execFastLimit_keeps m bits s)
  | .driverFault p low => .inr (execDriverFault_keeps p low s)
  | .senseLoss p cs => .inr (execSenseLoss_keeps p cs s)
  | .release who b => .inr (execRelease_keeps who b s)
  | .dropClear who p => .inr (execDropClear_keeps who p s)
  | .macz e b a ka kb => .inr (execMacz_keeps e b a ka kb s)
  | .mac e b a ka kb => .inr (execMac_keeps e b a ka kb s)
  | .msu e b a ka kb => .inr (execMsu_keeps e b a ka kb s)
  | .mova e b a ka => .inr (execMova_keeps e b a ka s)
  | .ash e b a imm => .inr (execAsh_keeps e b a imm s)
  | .aadd e b a => .inr (execAadd_keeps e b a s)
  | .add e b kd k1 k2 => .inr (execAdd_keeps e b kd k1 k2 s)
  | .sub e b kd k1 k2 => .inr (execSub_keeps e b kd k1 k2 s)
  | .min e b kd k1 k2 => .inr (execMin_keeps e b kd k1 k2 s)
  | .max e b kd k1 k2 => .inr (execMax_keeps e b kd k1 k2 s)
  | .abs e b kd k1 => .inr (execAbs_keeps e b kd k1 s)
  | .neg e b kd k1 => .inr (execNeg_keeps e b kd k1 s)
  | .clmp e b kd k1 k2 => .inr (execClmp_keeps e b kd k1 k2 s)
  | .seln e b kd k1 k2 => .inr (execSeln_keeps e b kd k1 k2 s)
  | .scl e b kd n => .inr (execScl_keeps e b kd n s)
  | .nrm e b stg h => .inr (execNrm_keeps e b stg h s)
  | .sete e b stg v => .inr (execSete_keeps e b stg v s)
  | .ldi e b kd imm => .inr (execLdi_keeps e b kd imm s)
  | .addi e b kd imm => .inr (execAddi_keeps e b kd imm s)
  | .movk e b kd k1 => .inr (execMovk_keeps e b kd k1 s)
  | .fec e b k1 m => .inr (execFec_keeps e b k1 m s)
  | .beqz e b k1 ofs => .inr (execBeqz_keeps e b k1 ofs s)
  | .bnez e b k1 ofs => .inr (execBnez_keeps e b k1 ofs s)
  | .bltz e b k1 ofs => .inr (execBltz_keeps e b k1 ofs s)
  | .bgez e b k1 ofs => .inr (execBgez_keeps e b k1 ofs s)
  | .bqs e b ofs => .inr (execBqs_keeps e b ofs s)
  | .brun e b ofs => .inr (execBrun_keeps e b ofs s)
  | .jmp e b target => .inr (execJmp_keeps e b target s)
  | .wait e b bit => .inr (execWait_keeps e b bit s)
  | .pub e b k1 r => .inr (execPub_keeps e b k1 r s)
  | .endInst e b cycles => .inr (execEndInst_keeps e b cycles s)
  | .ld e b kd addr => .inr (execLd_keeps e b kd addr s)
  | .st e b kd addr => .inr (execSt_keeps e b kd addr s)
  | .ldx e b kd kb ofs => .inr (execLdx_keeps e b kd kb ofs s)
  | .stx e b kd kb ofs => .inr (execStx_keeps e b kd kb ofs s)
  | .ldc e b kd addr => .inr (execLdc_keeps e b kd addr s)
  | .ldq e b kd addr => .inr (execLdq_keeps e b kd addr s)
  | .ldw e b kd addr => .inr (execLdw_keeps e b kd addr s)
  | .stw e b kd addr => .inr (execStw_keeps e b kd addr s)
  | .ldp e b kd kb => .inr (execLdp_keeps e b kd kb s)
  | .followTrip e m => .inr (execFollowTrip_keeps e m s)
  | .calfinRestart who e => .inr (execCalfinRestart_keeps who e s)
  | .halt who e => .inr (execHalt_keeps who e s)
  | .tripClear who e m => .inr (execTripClear_keeps who e m s)
  | .resultRead who e r half => .inr (execResultRead_keeps who e r half s)
  | .demandWrite who o lo hi => .inr (execDemandWrite_keeps who o lo hi s)
  | .entryRebuilt => .inr (execEntryRebuilt_keeps s)
  | .trsRollback who => .inr (execTrsRollback_keeps who s)
  | .trsRestart who => .inr (execTrsRestart_keeps who s)
  | .gridFwWrite who limit => .inr (execGridFwWrite_keeps who limit s)
  | .budgetInvalid which => .inr (execBudgetInvalid_keeps which s)
  | .prechargeTimeout b => .inr (execPrechargeTimeout_keeps b s)
  | .contactorFeedback x => .inr (execContactorFeedback_keeps x s)
  | .failClose x => .inr (execFailClose_keeps x s)
  | .welded x => .inr (execWelded_keeps x s)
  | .xpFaultClear who x => .inr (execXpFaultClear_keeps who x s)
  | .bayRelease o => .inr (execBayRelease_keeps o s)
  | .exchangeRecord bytes => .inr (execExchangeRecord_keeps bytes s)
  | .peerFallback => .inr (execPeerFallback_keeps s)
  | .fallbackEnd => .inr (execFallbackEnd_keeps s)
  | .cableSample c => .inr (execCableSample_keeps c s)
  | .sensorRecovered c => .inr (execSensorRecovered_keeps c s)
  | .fastSamplingEnd c => .inr (execFastSamplingEnd_keeps c s)
  | .heatBalance c => .inr (execHeatBalance_keeps c s)
  | .coolingUpdate => .inr (execCoolingUpdate_keeps s)
  | .bellowsRestart who => .inr (execBellowsRestart_keeps who s)
  | .dieSample t => .inr (execDieSample_keeps t s)
  | .dieCriticalEnd => .inr (execDieCriticalEnd_keeps s)
  | .throttleUp => .inr (execThrottleUp_keeps s)
  | .throttleDown => .inr (execThrottleDown_keeps s)
  | .overtempTrip => .inr (execOvertempTrip_keeps s)
  | .assaySample x => .inr (execAssaySample_keeps x s)
  | .assayCheckFaultEnd => .inr (execAssayCheckFaultEnd_keeps s)
  | .dcPlausibility n => .inr (execDcPlausibility_keeps n s)
  | .meterFaultEnd n => .inr (execMeterFaultEnd_keeps n s)
  | .energySave => .inr (execEnergySave_keeps s)
  | .drift => .inr (execDrift_keeps s)
  | .testPulseEnd t => .inr (execTestPulseEnd_keeps t s)
  | .pendingPulseStart t => .inr (execPendingPulseStart_keeps t s)
  | .rwsWrite who ofs v => .inr (execRwsWrite_keeps who ofs v s)
  | .sealedChange => .inr (execSealedChange_keeps s)
  | .pqConfig => .inr (execPqConfig_keeps s)
  | .nonlegalStage => .inr (execNonlegalStage_keeps s)
  | .txnStart => .inr (execTxnStart_keeps s)
  | .txnStop => .inr (execTxnStop_keeps s)
  | .creditAdd => .inr (execCreditAdd_keeps s)
  | .tariffSchedule => .inr (execTariffSchedule_keeps s)
  | .tariffCancel => .inr (execTariffCancel_keeps s)
  | .intervalSet => .inr (execIntervalSet_keeps s)
  | .wallSet => .inr (execWallSet_keeps s)
  | .config => .inr (execConfig_keeps s)
  | .sealBreak sw => .inr (execSealBreak_keeps sw s)
  | .sealClose => .inr (execSealClose_keeps s)
  | .legalStage => .inr (execLegalStage_keeps s)
  | .hallmarkSigned => .inr (execHallmarkSigned_keeps s)
  | .tariffSwitch => .inr (execTariffSwitch_keeps s)
  | .intervalClose => .inr (execIntervalClose_keeps s)
  | .assayStart => .inr (execAssayStart_keeps s)
  | .assayRestart => .inr (execAssayRestart_keeps s)
  | .disconnectOpen o => .inr (execDisconnectOpen_keeps o s)
  | .discWaitExpiry o => .inr (execDiscWaitExpiry_keeps o s)
  | .disconnectFeedbackTimeout o => .inr (execDisconnectFeedbackTimeout_keeps o s)
  | .disconnectDropout o => .inr (execDisconnectDropout_keeps o s)
  | .safetyCycle fault p0 p1 => .inr (execSafetyCycle_keeps fault p0 p1 s)
  | .inputChannelChange n chB level => .inr (execInputChannelChange_keeps n chB level s)
  | .supplyPulse j before low after => .inr (execSupplyPulse_keeps j before low after s)
  | .discrepancy n => .inr (execDiscrepancy_keeps n s)
  | .readbackCheck k rb => .inr (execReadbackCheck_keeps k rb s)
  | .energiseCheckStep k rb => .inr (execEnergiseCheckStep_keeps k rb s)
  | .darkTestStart k => .inr (execDarkTestStart_keeps k s)
  | .darkTestEnd k rb => .inr (execDarkTestEnd_keeps k rb s)
  | .brakeTest who k => .inr (execBrakeTest_keeps who k s)
  | .brakeTestStep k frames rb => .inr (execBrakeTestStep_keeps k frames rb s)
  | .testIntervalExpiry k => .inr (execTestIntervalExpiry_keeps k s)
  | .brakeApplyAfterExpiry k => .inr (execBrakeApplyAfterExpiry_keeps k s)
  | .tenonReceive c frame => .inr (execTenonReceive_keeps c frame s)
  | .tenonLost c => .inr (execTenonLost_keeps c s)
  | .pegRoleWrite who b => .inr (execPegRoleWrite_keeps who b s)
  | .startClaim => .inr (execStartClaim_keeps s)
  | .takeover => .inr (execTakeover_keeps s)
  | .contention low => .inr (execContention_keeps low s)
  | .pegFault stuckLow => .inr (execPegFault_keeps stuckLow s)
  | .keepaliveLoss => .inr (execKeepaliveLoss_keeps s)
  | .wdogRelease => .inr (execWdogRelease_keeps s)
  | .kick who => .inr (execKick_keeps who s)
  | .handover who => .inr (execHandover_keeps who s)
  | .bindHandshake feat0 feat1 unitB pref image authentic holds latency => .inr (execBindHandshake_keeps feat0 feat1 unitB pref image authentic holds latency s)
  | .bindRetry => .inr (execBindRetry_keeps s)
  | .alignMarker holder x => .inl (.inr (.inr (.inl ⟨holder, x, rfl⟩)))
  | .lockAchieved => .inr (execLockAchieved_keeps s)
  | .catchupComplete => .inr (execCatchupComplete_keeps s)
  | .mirrorFrame m => .inr (execMirrorFrame_keeps m s)
  | .keeperTimeout => .inr (execKeeperTimeout_keeps s)
  | .revertRequest partnerOk => .inr (execRevertRequest_keeps partnerOk s)
  | .returned => .inr (execReturned_keeps s)
  | .pdoWrite who word => .inr (execPdoWrite_keeps who word s)
  | .pdoEffective => .inr (execPdoEffective_keeps s)
  | .peerInReset seen => .inr (execPeerInReset_keeps seen s)
  | .partNetStuck => .inr (execPartNetStuck_keeps s)
  | .linkDown port => .inr (execLinkDown_keeps port s)
  | .ptpGmChange master synced offset => .inr (execPtpGmChange_keeps master synced offset s)
  | .announce port addr frame => .inr (execAnnounce_keeps port addr frame s)
  | .response port addr frame => .inr (execResponse_keeps port addr frame s)
  | .responseTimeout slot => .inr (execResponseTimeout_keeps slot s)
  | .px port ofs frame => .inr (execPx_keeps port ofs frame s)
  | .leave port frame => .inr (execLeave_keeps port frame s)
  | .partnerLost slot => .inr (execPartnerLost_keeps slot s)
  | .stationAnnounce => .inr (execStationAnnounce_keeps s)
  | .attachCleared out => .inr (execAttachCleared_keeps out s)
  | .exiJob => .inr (execExiJob_keeps s)
  | .exiResult => .inr (execExiResult_keeps s)
  | .hostPointWrite who ofs lo hi => .inr (execHostPointWrite_keeps who ofs lo hi s)
  | .ringConsWrite who ring index => .inr (execRingConsWrite_keeps who ring index s)
  | .ringProdWrite who ring index => .inr (execRingProdWrite_keeps who ring index s)
  | .canFrameReceived n ofs frame => .inr (execCanFrameReceived_keeps n ofs frame s)
  | .objectRead who n obj ofs len => .inr (execObjectRead_keeps who n obj ofs len s)
  | .canTxAttempt n ofs => .inr (execCanTxAttempt_keeps n ofs s)
  | .canTxComplete n r ofs => .inr (execCanTxComplete_keeps n r ofs s)
  | .canTxCancel who n index ofs => .inr (execCanTxCancel_keeps who n index ofs s)
  | .canDisable who n on receiving => .inr (execCanDisable_keeps who n on receiving s)
  | .canRejoin n => .inr (execCanRejoin_keeps n s)
  | .recover who n => .inr (execRecover_keeps who n s)
  | .recovered n => .inr (execRecovered_keeps n s)
  | .ttTrigger n k busy ofs => .inr (execTtTrigger_keeps n k busy ofs s)
  | .ttRefLost n => .inr (execTtRefLost_keeps n s)
  | .fdlFrameReceived band ofs sym => .inr (execFdlFrameReceived_keeps band ofs sym s)
  | .fdlTxStart band => .inr (execFdlTxStart_keeps band s)
  | .fdlTxEnd => .inr (execFdlTxEnd_keeps s)
  | .accessTimeout band => .inr (execAccessTimeout_keeps band s)
  | .bandASilent => .inr (execBandASilent_keeps s)
  | .curtailExpiry => .inr (execCurtailExpiry_keeps s)
  | .curtailSave => .inr (execCurtailSave_keeps s)
  | .nodeLost a => .inr (execNodeLost_keeps a s)
  | .nodeRefresh a => .inr (execNodeRefresh_keeps a s)
  | .batteryPass => .inr (execBatteryPass_keeps s)
  | .hibernate who => .inr (execHibernate_keeps who s)
  | .hibernateRequest => .inr (execHibernateRequest_keeps s)
  | .hibernateReady ready => .inr (execHibernateReady_keeps ready s)
  | .hibernateTimeout => .inr (execHibernateTimeout_keeps s)
  | .emberIdleEntry => .inr (execEmberIdleEntry_keeps s)
  | .emberSample ch code => .inr (execEmberSample_keeps ch code s)
  | .wake src => .inr (execWake_keeps src s)
  | .estimatorRestart who => .inr (execEstimatorRestart_keeps who s)
  | .generateKey q => .inr (execGenerateKey_keeps q s)
  | .deriveKey q => .inr (execDeriveKey_keeps q s)
  | .importKey q => .inr (execImportKey_keeps q s)
  | .exportKey q => .inr (execExportKey_keeps q s)
  | .destroyKey q => .inr (execDestroyKey_keeps q s)
  | .getPublic q => .inr (execGetPublic_keeps q s)
  | .attest q => .inr (execAttest_keeps q s)
  | .getCert q => .inr (execGetCert_keeps q s)
  | .signMsg q => .inr (execSignMsg_keeps q s)
  | .verifySig q => .inr (execVerifySig_keeps q s)
  | .sealAead q => .inr (execSealAead_keeps q s)
  | .openAead q => .inr (execOpenAead_keeps q s)
  | .hashData q => .inr (execHashData_keeps q s)
  | .keyStage q => .inr (execKeyStage_keeps q s)
  | .keyCommit q => .inr (execKeyCommit_keeps q s)
  | .abort q => .inr (execAbort_keeps q s)
  | .lcStep q => .inr (execLcStep_keeps q s)
  | .rotRotate q => .inr (execRotRotate_keeps q s)
  | .debugUnlock q => .inr (execDebugUnlock_keeps q s)
  | .keySwap n => .inr (execKeySwap_keeps n s)
  | .graceEnd n => .inr (execGraceEnd_keeps n s)
  | .orphanSweep => .inr (execOrphanSweep_keeps s)
  | .eraseDone => .inr (execEraseDone_keeps s)
  | .debugExpiry => .inr (execDebugExpiry_keeps s)
  | .debugClose who => .inr (execDebugClose_keeps who s)
  | .snapshot => .inr (execSnapshot_keeps s)
  | .clear who => .inr (execClear_keeps who s)
  | .scbCfgWrite who v => .inr (execScbCfgWrite_keeps who v s)
  | .tagCfgWrite who v => .inr (execTagCfgWrite_keeps who v s)
  | .tagComplete source stroke pc flags fetch exec retire mem stall => .inr (execTagComplete_keeps source stroke pc flags fetch exec retire mem stall s)
  | .pfwFall => .inr (execPfwFall_keeps s)
  | .hostDone who => .inr (execHostDone_keeps who s)
  | .hostSaveLate => .inr (execHostSaveLate_keeps s)
  | .powerFailReset pfwHigh railsGood => .inr (execPowerFailReset_keeps pfwHigh railsGood s)
  | .supplyWarn rail mv => .inr (execSupplyWarn_keeps rail mv s)
  | .supplyReset rail mv since => .inr (execSupplyReset_keeps rail mv since s)
  | .coldStart unitB => .inl (.inr (.inr (.inr (.inr ⟨unitB, rfl⟩))))
  | .corePowerUp elapsed => .inl (.inr (.inr (.inr (.inl ⟨elapsed, rfl⟩))))
  | .resetN => .inr (execResetN_keeps s)
  | .swReset who => .inr (execSwReset_keeps who s)
  | .trstN low => .inr (execTrstN_keeps low s)
  | .resetRelease root corrupt selfTest => .inr (execResetRelease_keeps root corrupt selfTest s)
  | .regionWarnEnd island peer quantity v => .inr (execRegionWarnEnd_keeps island peer quantity v s)
  | .supplyWarnEnd rail mv => .inr (execSupplyWarnEnd_keeps rail mv s)
  | .fastLimitEnd m bits => .inr (execFastLimitEnd_keeps m bits s)
  | .asyMbxGo who => .inr (execAsyMbxGo_keeps who s)
  | .cfrChGo who c => .inr (execCfrChGo_keeps who c s)
  | .wallUnsync => .inr (execWallUnsync_keeps s)
  | .counterInputEdge n a b => .inr (execCounterInputEdge_keeps n a b s)
  | .solleyLinkLost lanes => .inr (execSolleyLinkLost_keeps lanes s)
  | .portLinkUp port speed plca => .inr (execPortLinkUp_keeps port speed plca s)
  | .canRxError n lec eight => .inr (execCanRxError_keeps n lec eight s)
  | .protocolException n idw => .inr (execProtocolException_keeps n idw s)
  | .expectedFrameMissing a => .inr (execExpectedFrameMissing_keeps a s)
  | .debugHalt core => .inr (execDebugHalt_keeps core s)

theorem movesStroke_of_stroke_ne {c : Instr} {s t : State} (run : exec c s = .next t) (moved : t.sys.stroke ≠ s.sys.stroke) :
    MovesStroke c := by
  obtain moves | ⟨u, runU, kept⟩ := movesStroke_or_exec_keeps c s
  · exact moves
  · have same : u = t := Host.Outcome.next.inj (runU.symm.trans run)
    exact absurd (same ▸ kept.clock) moved

/-! ### The statement -/

/-- Settles O5: the markers and the starts by what their own work leaves in the counter, every other command by its `Keeps` lemma. -/
theorem onlyMarkersAndStartsMoveTheStrokeCounter : Obligations.OnlyMarkersAndStartsMoveTheStrokeCounter := by
  unfold Obligations.OnlyMarkersAndStartsMoveTheStrokeCounter
  refine ⟨?marker, ?commit, ?align, ?powerUp, ?cold, ?others⟩
  case marker => exact fun s x ticks free => ⟨_, exec_strokeMarker ticks free x, s.marker_stroke x⟩
  case commit => exact fun s x ticks free due heat => ⟨_, exec_joineryCommit ticks free due heat x, s.marker_stroke x⟩
  case align =>
    exact fun s h x ticks waits agree =>
      ⟨_, exec_alignMarker ticks waits agree x, (State.alignTo_stroke _ h).trans (s.marker_stroke x)⟩
  case powerUp => exact fun s n off => ⟨_, rfl, State.corePowerUp_stroke off n⟩
  case cold => exact fun s b => ⟨_, rfl, s.coldStart_stroke b⟩
  case others => exact fun c s t run moved => movesStroke_of_stroke_ne run moved

end Sys2Proof.Machine
end

section
/-! SUPPORT. The triggers of the acquisition sequences (R76, R79, R80): what a trigger that fires comes to, and the commands that fire it. -/

namespace Sys2Proof.Machine

/-! ### Counting fields, converters and the overruns of a sequence -/

/-- The largest value of a field fits its width, so a counting field is not cut. -/
theorem State.fld_bumpSat_same (s : State) (f : Fld) (i : Nat) (h : f.hi < 32 := by decide) (hl : f.lo ≤ f.hi := by decide) :
    (s.bumpSat f i).fld f i = min (s.fld f i + 1) (2 ^ f.width - 1) := by
  have fits : min (s.fld f i + 1) (2 ^ f.width - 1) < 2 ^ f.width :=
    (Nat.min_le_right _ _).trans_lt (Nat.sub_one_lt_of_lt (Nat.two_pow_pos _))
  exact (s.fld_setFld_same f i _ h hl).trans (Nat.mod_eq_of_lt fits)

theorem State.setFld_regsKept (s : State) (f : Fld) (i n : Nat) : RegsKept [f.reg] s (s.setFld f i n) :=
  fun _ j other => s.reg_setFld_name f i j n (List.ne_of_not_mem_cons other)

@[simp] theorem State.conv_onConv_same (s : State) (n : Nat) (f : Conv → Conv) : (s.onConv n f).conv n = f (s.conv n) :=
  Arr.get_upd_same s.acq.convs n f

theorem State.conv_onConv_ne (s : State) {n k : Nat} (h : k ≠ n) (f : Conv → Conv) : (s.onConv n f).conv k = s.conv k :=
  Arr.get_upd_ne s.acq.convs h f

@[simp] theorem State.overruns_countOverrun_same (s : State) (w : Work) (bit : Fld) :
    (s.countOverrun w bit).overruns w = s.overruns w + 1 := by
  have others : (s.sys.overruns.filter fun c => decide (c.1 ≠ w)).find? (fun c => decide (c.1 = w)) = none := by simp
  simp only [State.countOverrun, State.overruns, State.setFlag_sys, List.find?_append, others]
  simp

theorem State.seqOverrun_overruns (s : State) (n code : Nat) :
    (s.seqOverrun n code).overruns (.sequence n) = s.overruns (.sequence n) + 1 :=
  s.overruns_countOverrun_same (.sequence n) F.SYS_OVR_SUM_ACQ

@[simp] theorem State.seqOverrun_acq (s : State) (n code : Nat) : (s.seqOverrun n code).acq = s.acq := rfl

@[simp] theorem State.seqOverrun_byte (s : State) (n code x : Nat) : (s.seqOverrun n code).byte x = s.byte x := rfl

@[simp] theorem State.seqOverrun_reports (s : State) (n code : Nat) :
    (s.seqOverrun n code).reports = s.reports ++ [⟨0x0083, n⟩, ⟨code, n⟩] :=
  List.append_assoc s.reports [⟨0x0083, n⟩] [⟨code, n⟩]

/-- An overrun of a sequence writes its own status and the summary (R31). -/
theorem State.seqOverrun_fld_name (s : State) (n code : Nat) (g : Fld) (j : Nat) (seq : g.reg ≠ .ACQ_SEQ_STAT) (sum : g.reg ≠ .SYS_OVR_SUM) :
    (s.seqOverrun n code).fld g j = s.fld g j := by
  unfold State.seqOverrun
  dsimp only
  rw [State.report_fld, State.report_fld, State.fld_setFld_name _ _ _ _ _ _ seq, State.count_fld, State.bumpSat,
    State.fld_setFld_name _ _ _ _ _ _ seq, State.countOverrun, State.setFlag, State.fld_setFld_name _ _ _ _ _ _ sum]
  rfl

/-! ### What a trigger that fires comes to -/

/-- A trigger of a busy sequence is counted as a collision and reported, and the converters keep what they hold (R80). -/
def CollisionCounted (n : Nat) (s u : State) : Prop :=
  u.fld F.ACQ_SEQ_STAT_COLLISIONS n = min (s.fld F.ACQ_SEQ_STAT_COLLISIONS n + 1) (2 ^ F.ACQ_SEQ_STAT_COLLISIONS.width - 1)
    ∧ u.acq.convs = s.acq.convs ∧ u.reports = s.reports ++ [⟨0x0282, n⟩] ∧ RegsKept [.ACQ_SEQ_STAT] s u ∧ MemKept s u

/-- A trigger that finds the queue of its converter full is dropped as an overrun of its sequence (R79). -/
def TriggerDropped (q : Seq) (n : Nat) (s u : State) : Prop :=
  u.acq.convs = s.acq.convs ∧ u.overruns (.sequence n) = s.overruns (.sequence n) + 1
    ∧ u.fld F.ACQ_CNV_STAT_DROPPED q.cnv = min (s.fld F.ACQ_CNV_STAT_DROPPED q.cnv + 1) (2 ^ F.ACQ_CNV_STAT_DROPPED.width - 1)
    ∧ u.reports = s.reports ++ [⟨0x0083, n⟩, ⟨0x0203, n⟩] ∧ MemKept s u

/-- The run that a trigger at `t` queues: it starts DELAY later, on the sampling grid (R76). -/
def State.triggeredRun (s : State) (q : Seq) (n t : Nat) (subst : Bool) : Run :=
  let start := gridAt (s.conv q.cnv).slow (max s.period 1) (t + q.delay)
  ⟨n, s.now + start.1, start.2, subst, 0, false, 0, (0, 0)⟩

/-- The run of a trigger is queued last on its converter; the other converters keep what they hold (R76, R79). -/
def RunQueued (q : Seq) (n t : Nat) (subst : Bool) (s u : State) : Prop :=
  (u.conv q.cnv).queue = (s.conv q.cnv).queue ++ [s.triggeredRun q n t subst]
    ∧ (∀ k, k ≠ q.cnv → u.conv k = s.conv k) ∧ u.reports = s.reports ∧ RegsKept [.ACQ_CNV_STAT] s u ∧ MemKept s u

section Firing

variable {s : State} {n t : Nat} {subst : Bool} {q : Seq}

/-- One equation for each case of a trigger: a collision first, then a full queue, else a run. -/
theorem State.fireSeq_going (found : s.sequence n = some q) (going : s.flag F.ACQ_SEQ_STAT_STOPPED n = false) :
    s.fireSeq n t subst =
      if s.busySeq q n then (s.bumpSat F.ACQ_SEQ_STAT_COLLISIONS n).report 0x0282 n
      else if 8 ≤ (s.conv q.cnv).queue.length then (s.bumpSat F.ACQ_CNV_STAT_DROPPED q.cnv).seqOverrun n 0x0203
      else
        let u := s.onConv q.cnv fun c => { c with queue := c.queue ++ [s.triggeredRun q n t subst] }
        u.setFld F.ACQ_CNV_STAT_QUEUE_PEAK q.cnv (max (u.fld F.ACQ_CNV_STAT_QUEUE_PEAK q.cnv) (u.conv q.cnv).queue.length) := by
  simp only [State.fireSeq, found, going, Bool.false_eq_true, if_false]
  rfl

theorem State.fireSeq_collides (found : s.sequence n = some q) (going : s.flag F.ACQ_SEQ_STAT_STOPPED n = false)
    (busy : s.busySeq q n = true) : CollisionCounted n s (s.fireSeq n t subst) := by
  rw [State.fireSeq_going found going, if_pos busy]
  exact ⟨s.fld_bumpSat_same F.ACQ_SEQ_STAT_COLLISIONS n, rfl, rfl, s.setFld_regsKept F.ACQ_SEQ_STAT_COLLISIONS n _, fun _ => rfl⟩

theorem State.fireSeq_drops (found : s.sequence n = some q) (going : s.flag F.ACQ_SEQ_STAT_STOPPED n = false)
    (free : s.busySeq q n = false) (full : 8 ≤ (s.conv q.cnv).queue.length) : TriggerDropped q n s (s.fireSeq n t subst) := by
  rw [State.fireSeq_going found going, if_neg (by simp [free]), if_pos full]
  have counted := (s.bumpSat F.ACQ_CNV_STAT_DROPPED q.cnv).seqOverrun_fld_name n 0x0203 F.ACQ_CNV_STAT_DROPPED q.cnv (by decide) (by decide)
  exact ⟨rfl, State.seqOverrun_overruns _ n 0x0203, counted.trans (s.fld_bumpSat_same F.ACQ_CNV_STAT_DROPPED q.cnv),
    State.seqOverrun_reports _ n 0x0203, fun _ => rfl⟩

theorem State.fireSeq_queues (found : s.sequence n = some q) (going : s.flag F.ACQ_SEQ_STAT_STOPPED n = false)
    (free : s.busySeq q n = false) (room : (s.conv q.cnv).queue.length < 8) : RunQueued q n t subst s (s.fireSeq n t subst) := by
  rw [State.fireSeq_going found going, if_neg (by simp [free]), if_neg (by omega)]
  have last := s.conv_onConv_same q.cnv fun c => { c with queue := c.queue ++ [s.triggeredRun q n t subst] }
  exact ⟨congrArg Conv.queue last, fun _ other => s.conv_onConv_ne other _, rfl,
    State.setFld_regsKept (s.onConv q.cnv _) F.ACQ_CNV_STAT_QUEUE_PEAK q.cnv _, fun _ => rfl⟩

end Firing

/-! ### The commands that fire a trigger -/

/-- The state in which a trigger fires: the PWM occurrences since the marker (R76) and Scribe's counters (R427) stand as given. -/
def State.firing (s : State) (fired : List Nat) (scb : Scb) : State := { s with acq := { s.acq with fired := fired }, scb := scb }

/-- A PWM occurrence fires as the first one after the marker, or with EVERY (R76). -/
theorem State.firePwm_passes {s : State} {n t : Nat} {subst : Bool} {q : Seq} (found : s.sequence n = some q)
    (passes : n ∉ s.acq.fired ∨ q.every = true) :
    s.firePwm n t subst = (s.firing (n :: s.acq.fired) s.scb).fireSeq n t subst := by
  have unseen : (s.acq.fired.contains n && !q.every) = false := by simpa [imp_iff_not_or] using passes
  simp only [State.firePwm, found, unseen, Bool.false_eq_true, if_false]
  rfl

/-- Command `c` fires the trigger of sequence `n` at `t`: nothing else changes but the PWM occurrences, Scribe's counters and the answer. -/
def FiresAt (c : Instr) (n t : Nat) (s : State) : Prop :=
  ∃ fired scb resp, exec c s = .next { (s.firing fired scb).fireSeq n t false with resp := resp }

/-- A served write changes Scribe's counters alone. -/
theorem served_scb (s : State) (who : Initiator) (n : Nat) : ∃ c, served s who n = { s with scb := c } := by
  obtain ⟨c, granted⟩ := s.granted_scb who 27
  obtain ⟨d, counted⟩ := (s.granted who 27).countData_scb (wordAccess who 0 0 0 (.write (List.replicate n 0))) 27
  exact ⟨d, counted.trans (by rw [granted])⟩

section Commands

variable {s : State} {n : Nat} {q : Seq}

theorem firesAt_acqTrigger_stroke (at_ : Nat) (found : s.sequence n = some q) (runs : s.runs 4 = true) (src : q.src = 0)
    (due : s.now % max q.arg 1 = 0) : FiresAt (.acqTrigger n at_) n 0 s := by
  refine ⟨s.acq.fired, s.scb, (s.fireSeq n 0 false).resp, ?_⟩
  simp [exec, execAcqTrigger, State.live_runs runs, found, src, due, State.firing]

theorem firesAt_acqTrigger_pwm {at_ : Nat} (found : s.sequence n = some q) (runs : s.runs 4 = true) (src : q.src = 1)
    (fresh : n ∉ s.acq.fired ∨ q.every = true) : FiresAt (.acqTrigger n at_) n at_ s := by
  refine ⟨n :: s.acq.fired, s.scb, ((s.firing (n :: s.acq.fired) s.scb).fireSeq n at_ false).resp, ?_⟩
  simp only [exec, execAcqTrigger, State.live_runs runs, found, src, State.firePwm_passes found fresh]

theorem firesAt_acqTrigger_timer {at_ : Nat} (found : s.sequence n = some q) (runs : s.runs 4 = true) (src : q.src = 2)
    (later : at_ ≠ 0) (due : at_ % max q.arg 1 = 0) : FiresAt (.acqTrigger n at_) n at_ s := by
  refine ⟨s.acq.fired, s.scb, (s.fireSeq n at_ false).resp, ?_⟩
  simp [exec, execAcqTrigger, State.live_runs runs, found, src, later, due, State.firing]

theorem firesAt_acqSoftTrig {who : Initiator} {at_ : Nat} (found : s.sequence n = some q) (reaches : ReachesReg s who .ACQ_SOFT_TRIG 0)
    (src : q.src = 3) : FiresAt (.acqSoftTrig who n at_) n at_ s := by
  obtain ⟨c, scribe⟩ := served_scb s who 4
  have still : (State.sequence { s with scb := c } n) = some q := found
  refine ⟨s.acq.fired, c, .done, ?_⟩
  simp only [exec, execAcqSoftTrig]
  rw [rowWrite_reaches s who _ _ _ reaches, scribe]
  simp [State.softTrig, still, src, State.firing]

end Commands

/-! ### The statement -/

/-- Settles O16: each command fires the sequence (`FiresAt`), and the trigger comes to one of the three cases of `fireSeq`. -/
theorem triggersQueueRunsOrAreCounted : Obligations.TriggersQueueRunsOrAreCounted := by
  unfold Obligations.TriggersQueueRunsOrAreCounted
  intro s who n t₀ t q c found going command
  have fires : FiresAt c n t s := by
    rcases command with ⟨rfl, runs, ⟨src, due, rfl⟩ | ⟨src, fresh, rfl⟩ | ⟨src, later, due, rfl⟩⟩ | ⟨rfl, reaches, src, rfl⟩
    · exact firesAt_acqTrigger_stroke t₀ found runs src due
    · exact firesAt_acqTrigger_pwm found runs src fresh
    · exact firesAt_acqTrigger_timer found runs src later due
    · exact firesAt_acqSoftTrig found reaches src
  obtain ⟨fired, scb, resp, run⟩ := fires
  have found' : (s.firing fired scb).sequence n = some q := found
  refine ⟨fun busy => ?collision, fun free full => ?dropped, fun free room => ?queued⟩
  case collision => exact ⟨_, run, State.fireSeq_collides found' going busy⟩
  case dropped => exact ⟨_, run, State.fireSeq_drops found' going free full⟩
  case queued => exact ⟨_, run, State.fireSeq_queues found' going free room⟩

end Sys2Proof.Machine
end

section
/-! SUPPORT. The queue, the state right after reset, and the canonical forms: every command completes and keeps them. -/

namespace Sys2Proof.Machine

/-! ### Steps -/

theorem step_cons (c : Instr) (rest : List Instr) (s : State) :
    step { s with pending := c :: rest } = exec c { s with pending := rest } := rfl

theorem step_idle {s : State} (idle : s.pending = []) : step s = .next s := by
  unfold step
  rw [idle]

theorem step_front {s : State} {c : Instr} {rest : List Instr} (front : s.pending = c :: rest) :
    step s = exec c { s with pending := rest } := by
  unfold step
  rw [front]

/-- Settles O1: both clauses are the two branches of `step`. -/
theorem stepRunsTheFrontCommand : Obligations.StepRunsTheFrontCommand :=
  ⟨step_cons, fun _ idle => step_idle idle⟩

/-! ### Reset -/

/-- No register is listed right after reset, so each reads its reset value. -/
theorem State.reg_reset (r : Reg) (i : Nat) : State.reset.reg r i = r.resetVal := rfl

theorem stateWf_reset : StateWf State.reset := ⟨rfl, rfl⟩

/-- Settles O2: nothing is queued, no register and no byte is listed. -/
theorem resetStateIsCanonical : Obligations.ResetStateIsCanonical :=
  ⟨stateWf_reset, rfl, rfl, rfl, State.reg_reset⟩

/-! ### What every command keeps -/

/-- A marker or a start keeps all but the stroke counter. -/
theorem movesStroke_exec_keepsForms {c : Instr} (moves : MovesStroke c) (s : State) : ∃ t, exec c s = .next t ∧ KeepsForms s t := by
  rcases moves with ⟨x, rfl⟩ | ⟨x, rfl⟩ | ⟨h, x, rfl⟩ | ⟨n, rfl⟩ | ⟨b, rfl⟩
  · obtain ⟨t, run, kept⟩ := execStrokeMarker_keeps x s
    exact ⟨t, run, kept.forms_atStroke⟩
  · obtain ⟨t, run, kept⟩ := execJoineryCommit_keeps x s
    exact ⟨t, run, kept.forms_atStroke⟩
  · obtain ⟨t, run, kept⟩ := execAlignMarker_keeps h x s
    exact ⟨t, run, kept.forms_atStroke⟩
  · obtain ⟨t, run, kept⟩ := execCorePowerUp_keeps n s
    exact ⟨t, run, kept.forms_atStroke⟩
  · obtain ⟨t, run, kept⟩ := execColdStart_keeps b s
    exact ⟨t, run, kept.forms_atStroke⟩

/-- Settles O4: a command that moves the stroke counter keeps the forms, and every other command keeps them with the counter. -/
theorem everyCommandCompletesAndKeepsForms : Obligations.EveryCommandCompletesAndKeepsForms := by
  unfold Obligations.EveryCommandCompletesAndKeepsForms
  intro c s
  obtain moves | ⟨t, run, kept⟩ := movesStroke_or_exec_keeps c s
  · exact movesStroke_exec_keepsForms moves s
  · exact ⟨t, run, kept.toKeepsForms⟩

theorem StateWf.of_keepsForms {s t : State} (kept : KeepsForms s t) (wf : StateWf s) : StateWf t :=
  ⟨kept.regs wf.1, kept.mem wf.2⟩

/-- Settles O3: an idle step changes nothing, and the command of any other step keeps the forms of the state without its front. -/
theorem everyStepKeepsCanonicalForms : Obligations.EveryStepKeepsCanonicalForms := by
  unfold Obligations.EveryStepKeepsCanonicalForms
  intro s t wf run
  cases queue : s.pending with
  | nil =>
    rw [step_idle queue] at run
    cases run
    exact wf
  | cons c rest =>
    rw [step_front queue] at run
    obtain ⟨u, runU, kept⟩ := everyCommandCompletesAndKeepsForms c { s with pending := rest }
    have same : u = t := Host.Outcome.next.inj (runU.symm.trans run)
    exact same ▸ StateWf.of_keepsForms kept wf

end Sys2Proof.Machine
end

section
/-! SUPPORT. Frames: what the elementary updates leave of the registers and of memory, and which reports a change adds. -/

namespace Sys2Proof.Machine

variable {s u t : State} {ks ls : List RegKey} {rs qs : List Reg}

/-! ### The predicates -/

theorem CellsKept.refl (ks : List RegKey) (s : State) : CellsKept ks s s := fun _ _ _ => rfl

theorem CellsKept.trans (h : CellsKept ks s u) (k : CellsKept ks u t) : CellsKept ks s t :=
  fun r i other => (k r i other).trans (h r i other)

theorem CellsKept.mono (h : CellsKept ks s t) (sub : ks ⊆ ls) : CellsKept ls s t := fun r i other => h r i fun m => other (sub m)

theorem cellsKept_of_regs (h : t.regs = s.regs) : CellsKept ks s t := fun r i _ => by rw [State.reg, State.reg, h]

theorem RegsKept.refl (rs : List Reg) (s : State) : RegsKept rs s s := fun _ _ _ => rfl

theorem RegsKept.trans (h : RegsKept rs s u) (k : RegsKept rs u t) : RegsKept rs s t :=
  fun r i other => (k r i other).trans (h r i other)

theorem RegsKept.mono (h : RegsKept rs s t) (sub : rs ⊆ qs) : RegsKept qs s t := fun r i other => h r i fun m => other (sub m)

theorem regsKept_of_regs (h : t.regs = s.regs) : RegsKept rs s t := fun r i _ => by rw [State.reg, State.reg, h]

/-- Cells of listed registers are listed cells. -/
theorem CellsKept.regsKept (h : CellsKept ks s t) (sub : ∀ k ∈ ks, k.1 ∈ rs) : RegsKept rs s t :=
  fun r i other => h r i fun m => other (sub _ m)

theorem MemKept.refl (s : State) : MemKept s s := fun _ => rfl

theorem MemKept.trans (h : MemKept s u) (k : MemKept u t) : MemKept s t := fun a => (k a).trans (h a)

theorem memKept_of_mem (h : t.mem = s.mem) : MemKept s t := fun a => by rw [State.byte, State.byte, h]

/-- A field of a kept register. -/
theorem RegsKept.fld (h : RegsKept rs s t) {f : Fld} (other : f.reg ∉ rs) (i : Nat) : t.fld f i = s.fld f i := by
  rw [State.fld, State.fld, h f.reg i other]

theorem RegsKept.flag (h : RegsKept rs s t) {f : Fld} (other : f.reg ∉ rs) (i : Nat) : t.flag f i = s.flag f i := by
  rw [State.flag, State.flag, h.fld other]

theorem CellsKept.fld (h : CellsKept ks s t) {f : Fld} {i : Nat} (other : (f.reg, i) ∉ ks) : t.fld f i = s.fld f i := by
  rw [State.fld, State.fld, h f.reg i other]

theorem CellsKept.flag (h : CellsKept ks s t) {f : Fld} {i : Nat} (other : (f.reg, i) ∉ ks) : t.flag f i = s.flag f i := by
  rw [State.flag, State.flag, h.fld other]

/-! ### A write of a listed register -/

@[simp] theorem cellsKept_setReg {r : Reg} {i : Nat} {v : W32} (listed : (r, i) ∈ ks) :
    CellsKept ks s (u.setReg r i v) ↔ CellsKept ks s u := by
  refine forall_congr' fun q => forall_congr' fun j => imp_congr_right fun other => ?_
  rw [State.reg_setReg_ne u (ne_of_mem_of_not_mem listed other).symm]

@[simp] theorem cellsKept_setFld {f : Fld} {i n : Nat} (listed : (f.reg, i) ∈ ks) :
    CellsKept ks s (u.setFld f i n) ↔ CellsKept ks s u := cellsKept_setReg listed

@[simp] theorem cellsKept_setFlag {f : Fld} {i : Nat} {b : Bool} (listed : (f.reg, i) ∈ ks) :
    CellsKept ks s (u.setFlag f i b) ↔ CellsKept ks s u := cellsKept_setReg listed

@[simp] theorem cellsKept_bumpSat {f : Fld} {i : Nat} (listed : (f.reg, i) ∈ ks) :
    CellsKept ks s (u.bumpSat f i) ↔ CellsKept ks s u := cellsKept_setReg listed

@[simp] theorem cellsKept_bumpWrap {f : Fld} {i : Nat} (listed : (f.reg, i) ∈ ks) :
    CellsKept ks s (u.bumpWrap f i) ↔ CellsKept ks s u := cellsKept_setReg listed

@[simp] theorem cellsKept_setPair {lo hi : Reg} {i n : Nat} (listedLo : (lo, i) ∈ ks) (listedHi : (hi, i) ∈ ks) :
    CellsKept ks s (u.setPair lo hi i n) ↔ CellsKept ks s u := (cellsKept_setReg listedHi).trans (cellsKept_setReg listedLo)

@[simp] theorem regsKept_setReg {r : Reg} {i : Nat} {v : W32} (listed : r ∈ rs) : RegsKept rs s (u.setReg r i v) ↔ RegsKept rs s u := by
  refine forall_congr' fun q => forall_congr' fun j => imp_congr_right fun other => ?_
  rw [State.reg_setReg_name u i j (ne_of_mem_of_not_mem listed other).symm]

@[simp] theorem regsKept_setFld {f : Fld} {i n : Nat} (listed : f.reg ∈ rs) : RegsKept rs s (u.setFld f i n) ↔ RegsKept rs s u :=
  regsKept_setReg listed

@[simp] theorem regsKept_setFlag {f : Fld} {i : Nat} {b : Bool} (listed : f.reg ∈ rs) :
    RegsKept rs s (u.setFlag f i b) ↔ RegsKept rs s u := regsKept_setReg listed

@[simp] theorem regsKept_bumpSat {f : Fld} {i : Nat} (listed : f.reg ∈ rs) : RegsKept rs s (u.bumpSat f i) ↔ RegsKept rs s u :=
  regsKept_setReg listed

@[simp] theorem regsKept_bumpWrap {f : Fld} {i : Nat} (listed : f.reg ∈ rs) : RegsKept rs s (u.bumpWrap f i) ↔ RegsKept rs s u :=
  regsKept_setReg listed

@[simp] theorem regsKept_setPair {lo hi : Reg} {i n : Nat} (listedLo : lo ∈ rs) (listedHi : hi ∈ rs) :
    RegsKept rs s (u.setPair lo hi i n) ↔ RegsKept rs s u := (regsKept_setReg listedHi).trans (regsKept_setReg listedLo)

/-! ### A change of anything but the registers -/

@[simp] theorem cellsKept_mk (pending mem ecc reports resp sent freeCtr sys jny acq frg clf trs blw asy mrt peg pnt net can fdl est emb cof scb pwr) :
    CellsKept ks s (State.mk pending u.regs mem ecc reports resp sent freeCtr sys jny acq frg clf trs blw asy mrt peg pnt net can fdl est emb
      cof scb pwr) ↔ CellsKept ks s u := Iff.rfl

@[simp] theorem regsKept_mk (pending mem ecc reports resp sent freeCtr sys jny acq frg clf trs blw asy mrt peg pnt net can fdl est emb cof scb pwr) :
    RegsKept rs s (State.mk pending u.regs mem ecc reports resp sent freeCtr sys jny acq frg clf trs blw asy mrt peg pnt net can fdl est emb
      cof scb pwr) ↔ RegsKept rs s u := Iff.rfl

@[simp] theorem memKept_mk (pending regs ecc reports resp sent freeCtr sys jny acq frg clf trs blw asy mrt peg pnt net can fdl est emb cof scb pwr) :
    MemKept s (State.mk pending regs u.mem ecc reports resp sent freeCtr sys jny acq frg clf trs blw asy mrt peg pnt net can fdl est emb
      cof scb pwr) ↔ MemKept s u := Iff.rfl

@[simp] theorem cellsKept_report {c n : Nat} : CellsKept ks s (u.report c n) ↔ CellsKept ks s u := Iff.rfl
@[simp] theorem regsKept_report {c n : Nat} : RegsKept rs s (u.report c n) ↔ RegsKept rs s u := Iff.rfl
@[simp] theorem cellsKept_count {b k n : Nat} : CellsKept ks s (u.count b k n) ↔ CellsKept ks s u := Iff.rfl
@[simp] theorem regsKept_count {b k n : Nat} : RegsKept rs s (u.count b k n) ↔ RegsKept rs s u := Iff.rfl
@[simp] theorem cellsKept_send {c : Channel} {n : Nat} {b : List Byte} : CellsKept ks s (u.send c n b) ↔ CellsKept ks s u := Iff.rfl
@[simp] theorem regsKept_send {c : Channel} {n : Nat} {b : List Byte} : RegsKept rs s (u.send c n b) ↔ RegsKept rs s u := Iff.rfl
@[simp] theorem cellsKept_tick : CellsKept ks s u.tick ↔ CellsKept ks s u := Iff.rfl
@[simp] theorem regsKept_tick : RegsKept rs s u.tick ↔ RegsKept rs s u := Iff.rfl

@[simp] theorem cellsKept_self : CellsKept ks s s := CellsKept.refl ks s
@[simp] theorem regsKept_self : RegsKept rs s s := RegsKept.refl rs s
@[simp] theorem memKept_self : MemKept s s := MemKept.refl s

theorem cellsKept_ite {c : Prop} [Decidable c] (h : CellsKept ks s u) (k : CellsKept ks s t) : CellsKept ks s (if c then u else t) := by
  split <;> assumption

theorem regsKept_ite {c : Prop} [Decidable c] (h : RegsKept rs s u) (k : RegsKept rs s t) : RegsKept rs s (if c then u else t) := by
  split <;> assumption

theorem memKept_ite {c : Prop} [Decidable c] (h : MemKept s u) (k : MemKept s t) : MemKept s (if c then u else t) := by
  split <;> assumption

theorem memKept_when {c : Bool} {f : State → State} (h : MemKept s u) (k : MemKept u (f u)) : MemKept s (u.when c f) :=
  memKept_ite (h.trans k) h

/-! ### Flags -/

theorem State.flag_eq_true {s : State} {f : Fld} {i : Nat} : s.flag f i = true ↔ s.fld f i ≠ 0 := by simp [State.flag]

theorem State.flag_eq_false {s : State} {f : Fld} {i : Nat} : s.flag f i = false ↔ s.fld f i = 0 := by simp [State.flag]

theorem State.flag_congr {s t : State} {f g : Fld} {i j : Nat} (h : s.fld f i = t.fld g j) : s.flag f i = t.flag g j := by
  rw [State.flag, State.flag, h]

/-- A field is below the bound of its width. -/
theorem State.fld_lt (s : State) (f : Fld) (i : Nat) : s.fld f i < 2 ^ f.width := Nat.mod_lt _ (Nat.two_pow_pos _)

/-! ### What the writes of registers leave to be read

Two fields are apart when they stand in registers of different names, or in different bits. -/

section Apart

variable (s : State) {f g : Fld} {r q lo hi : Reg} {i j n : Nat} {v : W32} {b : Bool}

@[simp] theorem State.reg_setReg_other (other : q ≠ r) : (s.setReg r i v).reg q j = s.reg q j := s.reg_setReg_name i j other v
@[simp] theorem State.reg_setFld_other (other : q ≠ f.reg) : (s.setFld f i n).reg q j = s.reg q j := s.reg_setReg_name i j other _
@[simp] theorem State.reg_setFlag_other (other : q ≠ f.reg) : (s.setFlag f i b).reg q j = s.reg q j := s.reg_setReg_name i j other _
@[simp] theorem State.reg_bumpSat_other (other : q ≠ f.reg) : (s.bumpSat f i).reg q j = s.reg q j := s.reg_setReg_name i j other _
@[simp] theorem State.reg_bumpWrap_other (other : q ≠ f.reg) : (s.bumpWrap f i).reg q j = s.reg q j := s.reg_setReg_name i j other _

@[simp] theorem State.reg_setPair_other (otherLo : q ≠ lo) (otherHi : q ≠ hi) : (s.setPair lo hi i n).reg q j = s.reg q j := by
  simp [State.setPair, otherLo, otherHi]

@[simp] theorem State.fld_setReg_other (other : g.reg ≠ r) : (s.setReg r i v).fld g j = s.fld g j := s.fld_setReg_name g r i j v other

@[simp] theorem State.fld_setPair_other (otherLo : g.reg ≠ lo) (otherHi : g.reg ≠ hi) : (s.setPair lo hi i n).fld g j = s.fld g j := by
  simp [State.fld, otherLo, otherHi]

@[simp] theorem State.fld_setFld_apart (apart : g.reg ≠ f.reg ∨ g.hi < f.lo ∨ f.hi < g.lo) (h : f.hi < 32 ∧ f.lo ≤ f.hi ∧ g.lo ≤ g.hi) :
    (s.setFld f i n).fld g j = s.fld g j := by
  rcases apart with name | bits
  · exact s.fld_setFld_name f g i j n name
  · by_cases name : g.reg = f.reg
    · by_cases index : j = i
      · rw [index, s.fld_setFld_bits f g i n name bits h.1 h.2.1 h.2.2]
      · exact s.fld_setFld_index f g n index
    · exact s.fld_setFld_name f g i j n name

@[simp] theorem State.fld_setFlag_apart (apart : g.reg ≠ f.reg ∨ g.hi < f.lo ∨ f.hi < g.lo) (h : f.hi < 32 ∧ f.lo ≤ f.hi ∧ g.lo ≤ g.hi) :
    (s.setFlag f i b).fld g j = s.fld g j := s.fld_setFld_apart apart h

@[simp] theorem State.fld_bumpSat_apart (apart : g.reg ≠ f.reg ∨ g.hi < f.lo ∨ f.hi < g.lo) (h : f.hi < 32 ∧ f.lo ≤ f.hi ∧ g.lo ≤ g.hi) :
    (s.bumpSat f i).fld g j = s.fld g j := s.fld_setFld_apart apart h

@[simp] theorem State.fld_bumpWrap_apart (apart : g.reg ≠ f.reg ∨ g.hi < f.lo ∨ f.hi < g.lo) (h : f.hi < 32 ∧ f.lo ≤ f.hi ∧ g.lo ≤ g.hi) :
    (s.bumpWrap f i).fld g j = s.fld g j := s.fld_setFld_apart apart h

@[simp] theorem State.fld_setFld_self (h : f.hi < 32 ∧ f.lo ≤ f.hi) : (s.setFld f i n).fld f i = n % 2 ^ f.width :=
  s.fld_setFld_same f i n h.1 h.2

@[simp] theorem State.fld_bumpWrap_self (h : f.hi < 32 ∧ f.lo ≤ f.hi) : (s.bumpWrap f i).fld f i = (s.fld f i + 1) % 2 ^ f.width :=
  s.fld_setFld_same f i _ h.1 h.2

@[simp] theorem State.fld_bumpSat_self (h : f.hi < 32 ∧ f.lo ≤ f.hi) : (s.bumpSat f i).fld f i = min (s.fld f i + 1) (2 ^ f.width - 1) :=
  s.fld_bumpSat_same f i h.1 h.2

@[simp] theorem State.fld_setFlag_self (h : f.hi < 32 ∧ f.lo ≤ f.hi) : (s.setFlag f i b).fld f i = if b then 1 else 0 := by
  refine (s.fld_setFld_same f i _ h.1 h.2).trans (Nat.mod_eq_of_lt ?_)
  have one : 1 < 2 ^ f.width := Nat.one_lt_two_pow (Nat.succ_ne_zero _)
  split <;> omega

@[simp] theorem State.flag_setReg_other (other : g.reg ≠ r) : (s.setReg r i v).flag g j = s.flag g j := by simp [State.flag, other]

@[simp] theorem State.flag_setPair_other (otherLo : g.reg ≠ lo) (otherHi : g.reg ≠ hi) : (s.setPair lo hi i n).flag g j = s.flag g j := by
  simp [State.flag, otherLo, otherHi]

@[simp] theorem State.flag_setFld_apart (apart : g.reg ≠ f.reg ∨ g.hi < f.lo ∨ f.hi < g.lo) (h : f.hi < 32 ∧ f.lo ≤ f.hi ∧ g.lo ≤ g.hi) :
    (s.setFld f i n).flag g j = s.flag g j := State.flag_congr (s.fld_setFld_apart apart h)

@[simp] theorem State.flag_setFlag_apart (apart : g.reg ≠ f.reg ∨ g.hi < f.lo ∨ f.hi < g.lo) (h : f.hi < 32 ∧ f.lo ≤ f.hi ∧ g.lo ≤ g.hi) :
    (s.setFlag f i b).flag g j = s.flag g j := State.flag_congr (s.fld_setFlag_apart apart h)

@[simp] theorem State.flag_bumpSat_apart (apart : g.reg ≠ f.reg ∨ g.hi < f.lo ∨ f.hi < g.lo) (h : f.hi < 32 ∧ f.lo ≤ f.hi ∧ g.lo ≤ g.hi) :
    (s.bumpSat f i).flag g j = s.flag g j := State.flag_congr (s.fld_bumpSat_apart apart h)

@[simp] theorem State.flag_bumpWrap_apart (apart : g.reg ≠ f.reg ∨ g.hi < f.lo ∨ f.hi < g.lo) (h : f.hi < 32 ∧ f.lo ≤ f.hi ∧ g.lo ≤ g.hi) :
    (s.bumpWrap f i).flag g j = s.flag g j := State.flag_congr (s.fld_bumpWrap_apart apart h)

@[simp] theorem State.flag_setFlag_self (h : f.hi < 32 ∧ f.lo ≤ f.hi) : (s.setFlag f i b).flag f i = b := by
  cases b <;> simp [State.flag, State.fld_setFlag_self s h]

@[simp] theorem State.flag_setFld_self (h : f.hi < 32 ∧ f.lo ≤ f.hi) : (s.setFld f i n).flag f i = decide (n % 2 ^ f.width ≠ 0) := by
  rw [State.flag, State.fld_setFld_self s h]

/-- A field of the same name at another index. -/
theorem State.fld_setFlag_index (other : j ≠ i) : (s.setFlag f i b).fld g j = s.fld g j := s.fld_setFld_index f g _ other
theorem State.fld_bumpSat_index (other : j ≠ i) : (s.bumpSat f i).fld g j = s.fld g j := s.fld_setFld_index f g _ other
theorem State.flag_setFld_index (other : j ≠ i) : (s.setFld f i n).flag g j = s.flag g j := State.flag_congr (s.fld_setFld_index f g _ other)
theorem State.flag_setFlag_index (other : j ≠ i) : (s.setFlag f i b).flag g j = s.flag g j :=
  State.flag_congr (s.fld_setFld_index f g _ other)
theorem State.reg_setFld_index (other : j ≠ i) : (s.setFld f i n).reg q j = s.reg q j := s.reg_setReg_index f.reg q other _
theorem State.reg_setFlag_index (other : j ≠ i) : (s.setFlag f i b).reg q j = s.reg q j := s.reg_setReg_index f.reg q other _

@[simp] theorem State.pair_setFld_other (otherLo : lo ≠ f.reg) (otherHi : hi ≠ f.reg) : (s.setFld f i n).pair lo hi j = s.pair lo hi j := by
  simp [State.pair, otherLo, otherHi]

@[simp] theorem State.pair_setFlag_other (otherLo : lo ≠ f.reg) (otherHi : hi ≠ f.reg) : (s.setFlag f i b).pair lo hi j = s.pair lo hi j := by
  simp [State.pair, otherLo, otherHi]

@[simp] theorem State.pair_setReg_other (otherLo : lo ≠ r) (otherHi : hi ≠ r) : (s.setReg r i v).pair lo hi j = s.pair lo hi j := by
  simp [State.pair, otherLo, otherHi]

/-- A 64-bit pair reads the number written, cut to 64 bits. -/
theorem State.pair_setPair_same (other : lo ≠ hi) : (s.setPair lo hi i n).pair lo hi i = n % 2 ^ 64 := by
  simp only [State.pair, State.setPair, State.reg_setReg_same, State.reg_setReg_other _ other, BitVec.toNat_ofNat]
  omega

end Apart

/-! ### Reports -/

/-- A report stands among those that a change added. -/
theorem mem_reports_drop {r : Report} (before : s.reports <+: u.reports) (now : t.reports = u.reports ++ [r]) :
    r ∈ t.reports.drop s.reports.length := by
  obtain ⟨l, added⟩ := before
  rw [now, ← added, List.append_assoc, List.drop_left]
  simp

/-- A report that a change added is still there after another change. -/
theorem mem_reports_drop_of_prefix {r : Report} {n : Nat} (h : r ∈ u.reports.drop n) (after : u.reports <+: t.reports) :
    r ∈ t.reports.drop n := by
  obtain ⟨l, added⟩ := after
  rw [← added, List.drop_append]
  exact List.mem_append_left _ h

/-- The report of a change that keeps what was recorded. -/
theorem mem_drop_report (before : Keeps s u) (c n : Nat) : (⟨c, n⟩ : Report) ∈ (u.report c n).reports.drop s.reports.length :=
  mem_reports_drop before.reports rfl

/-! ### A served access -/

/-- What a served access does not count, it leaves. -/
theorem served_congr {α : Type} (f : State → α) (s : State) (who : Initiator) (n : Nat) (blind : ∀ c, f { s with scb := c } = f s) :
    f (served s who n) = f s := by
  obtain ⟨c, e⟩ := served_scb s who n
  rw [e, blind]

/-- A served read changes Scribe's counters alone. -/
theorem servedRead_scb (s : State) (who : Initiator) (n : Nat) : ∃ c, servedRead s who n = { s with scb := c } := by
  obtain ⟨c, granted⟩ := s.granted_scb who 27
  obtain ⟨d, counted⟩ := (s.granted who 27).countData_scb (wordAccess who 0 0 0 (.read n)) 27
  exact ⟨d, counted.trans (by rw [granted])⟩

theorem servedRead_congr {α : Type} (f : State → α) (s : State) (who : Initiator) (n : Nat) (blind : ∀ c, f { s with scb := c } = f s) :
    f (servedRead s who n) = f s := by
  obtain ⟨c, e⟩ := servedRead_scb s who n
  rw [e, blind]

section Served

variable (s : State) (who : Initiator) (n : Nat)

@[simp] theorem served_regs : (served s who n).regs = s.regs := served_congr State.regs s who n fun _ => rfl
@[simp] theorem served_mem : (served s who n).mem = s.mem := served_congr State.mem s who n fun _ => rfl
@[simp] theorem served_reports : (served s who n).reports = s.reports := served_congr State.reports s who n fun _ => rfl
@[simp] theorem served_sent : (served s who n).sent = s.sent := served_congr State.sent s who n fun _ => rfl
@[simp] theorem served_sys : (served s who n).sys = s.sys := served_congr State.sys s who n fun _ => rfl
@[simp] theorem served_jny : (served s who n).jny = s.jny := served_congr State.jny s who n fun _ => rfl
@[simp] theorem served_acq : (served s who n).acq = s.acq := served_congr State.acq s who n fun _ => rfl
@[simp] theorem served_frg : (served s who n).frg = s.frg := served_congr State.frg s who n fun _ => rfl
@[simp] theorem served_clf : (served s who n).clf = s.clf := served_congr State.clf s who n fun _ => rfl
@[simp] theorem served_trs : (served s who n).trs = s.trs := served_congr State.trs s who n fun _ => rfl
@[simp] theorem served_blw : (served s who n).blw = s.blw := served_congr State.blw s who n fun _ => rfl
@[simp] theorem served_asy : (served s who n).asy = s.asy := served_congr State.asy s who n fun _ => rfl
@[simp] theorem served_mrt : (served s who n).mrt = s.mrt := served_congr State.mrt s who n fun _ => rfl
@[simp] theorem served_peg : (served s who n).peg = s.peg := served_congr State.peg s who n fun _ => rfl
@[simp] theorem served_pnt : (served s who n).pnt = s.pnt := served_congr State.pnt s who n fun _ => rfl
@[simp] theorem served_net : (served s who n).net = s.net := served_congr State.net s who n fun _ => rfl
@[simp] theorem served_can : (served s who n).can = s.can := served_congr State.can s who n fun _ => rfl
@[simp] theorem served_fdl : (served s who n).fdl = s.fdl := served_congr State.fdl s who n fun _ => rfl
@[simp] theorem served_est : (served s who n).est = s.est := served_congr State.est s who n fun _ => rfl
@[simp] theorem served_emb : (served s who n).emb = s.emb := served_congr State.emb s who n fun _ => rfl
@[simp] theorem served_cof : (served s who n).cof = s.cof := served_congr State.cof s who n fun _ => rfl
@[simp] theorem served_pwr : (served s who n).pwr = s.pwr := served_congr State.pwr s who n fun _ => rfl
@[simp] theorem served_reg (r : Reg) (i : Nat) : (served s who n).reg r i = s.reg r i := served_congr (State.reg · r i) s who n fun _ => rfl
@[simp] theorem served_fld (f : Fld) (i : Nat) : (served s who n).fld f i = s.fld f i := served_congr (State.fld · f i) s who n fun _ => rfl
@[simp] theorem served_flag (f : Fld) (i : Nat) : (served s who n).flag f i = s.flag f i :=
  served_congr (State.flag · f i) s who n fun _ => rfl
@[simp] theorem served_byte (a : Nat) : (served s who n).byte a = s.byte a := served_congr (State.byte · a) s who n fun _ => rfl

@[simp] theorem cellsKept_served {r : State} : CellsKept ks r (served s who n) ↔ CellsKept ks r s := by
  simp only [CellsKept, served_reg]

@[simp] theorem regsKept_served {r : State} : RegsKept rs r (served s who n) ↔ RegsKept rs r s := by
  simp only [RegsKept, served_reg]

@[simp] theorem memKept_served {r : State} : MemKept r (served s who n) ↔ MemKept r s := by
  simp only [MemKept, served_byte]

end Served

end Sys2Proof.Machine
end

section
/-! SUPPORT. Accesses on the fabric that are no register access of a window: memory that the firewall lets pass (R16, R21), and the accesses that
end in a bus error (R15, R40). -/

namespace Sys2Proof.Machine

variable {s : State} {x : Access} {r : Region}

/-! ### What a grant and a data count leave -/

theorem State.granted_congr {α : Type} (f : State → α) (s : State) (w : Initiator) (p : Nat) (blind : ∀ c, f { s with scb := c } = f s) :
    f (s.granted w p) = f s := by
  obtain ⟨c, e⟩ := s.granted_scb w p
  rw [e, blind]

theorem State.countData_congr {α : Type} (f : State → α) (s : State) (x : Access) (p : Nat) (blind : ∀ c, f { s with scb := c } = f s) :
    f (s.countData x p) = f s := by
  obtain ⟨c, e⟩ := s.countData_scb x p
  rw [e, blind]

@[simp] theorem State.granted_up (s : State) (w : Initiator) (p k : Nat) : (s.granted w p).up k = s.up k :=
  s.granted_congr (State.up · k) w p fun _ => rfl

@[simp] theorem State.granted_absentAt (s : State) (w : Initiator) (p : Nat) (r : Region) (a n : Nat) :
    (s.granted w p).absentAt r a n = s.absentAt r a n :=
  s.granted_congr (State.absentAt · r a n) w p fun c => s.absentAt_scb c r a n

@[simp] theorem State.granted_firewall (s : State) (w v : Initiator) (p : Nat) (r : Region) (a n : Nat) (b : Bool) :
    (s.granted w p).firewall v r a n b = s.firewall v r a n b :=
  s.granted_congr (State.firewall · v r a n b) w p fun c => s.firewall_scb c v r a n b

@[simp] theorem State.granted_eccIn (s : State) (w : Initiator) (p a n : Nat) : (s.granted w p).eccIn a n = s.eccIn a n :=
  s.granted_congr (State.eccIn · a n) w p fun _ => rfl

@[simp] theorem State.granted_shownBytes (s : State) (w : Initiator) (p a n : Nat) : (s.granted w p).shownBytes a n = s.shownBytes a n :=
  s.granted_congr (State.shownBytes · a n) w p fun _ => rfl

@[simp] theorem State.granted_regs (s : State) (w : Initiator) (p : Nat) : (s.granted w p).regs = s.regs :=
  s.granted_congr State.regs w p fun _ => rfl

@[simp] theorem State.granted_mem (s : State) (w : Initiator) (p : Nat) : (s.granted w p).mem = s.mem :=
  s.granted_congr State.mem w p fun _ => rfl

@[simp] theorem State.countData_regs (s : State) (x : Access) (p : Nat) : (s.countData x p).regs = s.regs :=
  s.countData_congr State.regs x p fun _ => rfl

@[simp] theorem State.countData_mem (s : State) (x : Access) (p : Nat) : (s.countData x p).mem = s.mem :=
  s.countData_congr State.mem x p fun _ => rfl

@[simp] theorem State.countData_resp (s : State) (x : Access) (p : Nat) : (s.countData x p).resp = s.resp :=
  s.countData_congr State.resp x p fun _ => rfl

/-! ### Memory -/

@[simp] theorem State.setBytes_regs (s : State) (a : Nat) (b : List Byte) : (s.setBytes a b).regs = s.regs := by
  induction b generalizing s a with
  | nil => rfl
  | cons c t ih => exact ih (s.setByte a c) (a + 1)

/-- Writing the same bytes into the same memory. -/
theorem State.setBytes_mem_congr {s u : State} (same : u.mem = s.mem) (a : Nat) (b : List Byte) : (u.setBytes a b).mem = (s.setBytes a b).mem := by
  induction b generalizing s u a with
  | nil => exact same
  | cons c t ih => exact ih (congrArg (cellPut natLt 0 a c) same) (a + 1)

/-- An access that the map places in memory is judged there. -/
theorem State.access_memory (booted : s.sys.booted = true) (up : s.up (Initiator.island x.who) = true)
    (region : s.regionOf x.addr (xferLen x.xfer) = some r) (memory : ∀ w, r ≠ .window w) : s.access x = s.viaMemory x r := by
  unfold State.access State.sends
  rw [if_neg (by simp [booted, up]), region]
  cases r with
  | window w => exact absurd rfl (memory w)
  | _ => rfl

/-- An access to memory that passes is served, and its data are counted where no bus error ends it. -/
theorem State.viaMemory_passes (island : s.up (regionIsland r x.addr) = true) (present : s.absentAt r x.addr (xferLen x.xfer) = false)
    (passes : s.firewall x.who r x.addr (xferLen x.xfer) (xferWrites x.xfer) = false)
    (answered : ∀ c, ((s.granted x.who (Region.port r x.addr)).serveAccess x r).resp ≠ .busError c) :
    s.viaMemory x r = ((s.granted x.who (Region.port r x.addr)).serveAccess x r).countData x (Region.port r x.addr) := by
  unfold State.viaMemory
  dsimp only
  rw [if_neg (by simp [island]), if_neg (by simp [present]), if_neg (by simp [passes])]
  split
  · rename_i c e
    exact absurd e (answered c)
  · rfl

theorem State.serveAccess_write {b : List Byte} (write : x.xfer = .write b) (memory : ∀ w, r ≠ .window w) :
    s.serveAccess x r = s.memoryWrite x.addr b := by
  unfold State.serveAccess
  rw [write]
  cases r with
  | window w => exact absurd rfl (memory w)
  | _ => rfl

theorem State.serveAccess_read {n : Nat} (read : x.xfer = .read n) (memory : ∀ w, r ≠ .window w) :
    s.serveAccess x r = s.memoryRead x.who r x.addr n x.ecc := by
  unfold State.serveAccess
  rw [read]
  cases r with
  | window w => exact absurd rfl (memory w)
  | _ => rfl

/-- A clean read of words without an uncorrected error answers the bytes and changes nothing else (R21). -/
theorem State.memoryRead_clean {w : Initiator} {a n : Nat} (good : (r = .sram ∨ r = .mram) → s.eccIn a n = false) :
    s.memoryRead w r a n .clean = { s with resp := .data (s.shownBytes a n) } := by
  unfold State.memoryRead
  dsimp only
  rw [if_neg (by simpa using good), if_neg (by simp), if_neg (by simp)]

/-- A served write stores its bytes and leaves every other byte and every register (R16). -/
theorem State.viaMemory_write {b : List Byte} (write : x.xfer = .write b) (memory : ∀ w, r ≠ .window w)
    (island : s.up (regionIsland r x.addr) = true) (present : s.absentAt r x.addr (xferLen x.xfer) = false)
    (passes : s.firewall x.who r x.addr (xferLen x.xfer) (xferWrites x.xfer) = false) :
    (s.viaMemory x r).resp = .done ∧ (s.viaMemory x r).regs = s.regs ∧ ∀ a, (s.viaMemory x r).byte a = (s.setBytes x.addr b).byte a := by
  have serve (u : State) := State.serveAccess_write (s := u) write memory
  rw [State.viaMemory_passes island present passes (by simp [serve, State.memoryWrite]), serve]
  refine ⟨by simp [State.memoryWrite], by simp [State.memoryWrite], memKept_of_mem ?_⟩
  simp only [State.countData_mem, State.memoryWrite]
  exact State.setBytes_mem_congr (s.granted_mem _ _) x.addr b

/-- Settles O9: a write and a clean read of memory answer no bus error, so each is what `memoryWrite` and `memoryRead` leave, its grant
and its data counted. -/
theorem memoryAccessesReadAndWriteTheirBytes : Obligations.MemoryAccessesReadAndWriteTheirBytes := by
  unfold Obligations.MemoryAccessesReadAndWriteTheirBytes
  intro s x r booted up region memory island present passes
  have run : exec (.fabricAccess x) s = .next (s.viaMemory x r) :=
    congrArg Host.Outcome.next (State.access_memory booted up region memory)
  refine ⟨fun b write => ⟨_, run, ?_⟩, fun n read clean good => ⟨_, run, ?_⟩⟩
  · obtain ⟨done, regs, stored⟩ := State.viaMemory_write write memory island present passes
    refine ⟨done, fun k h => ?inside, fun a h => ?outside, cellsKept_of_regs regs⟩
    case inside => exact (stored _).trans (s.byte_setBytes_inside x.addr b k h)
    case outside => exact (stored a).trans (s.byte_setBytes_outside x.addr b a h)
  · have serve (p : Nat) : (s.granted x.who p).serveAccess x r = { s.granted x.who p with resp := .data (s.shownBytes x.addr n) } := by
      rw [State.serveAccess_read read memory, clean, State.memoryRead_clean (by simpa using good), State.granted_shownBytes]
    rw [State.viaMemory_passes island present passes (by simp [serve]), serve]
    exact ⟨by simp, cellsKept_of_regs (by simp), memKept_of_mem (by simp)⟩

/-! ### Bus errors -/

/-- The first bus error is latched (R40). -/
theorem State.busError_latched {s : State} (free : s.flag F.SYS_BUSERR_INFO_VALID = false) (w : Initiator) (a : Nat) (write : Bool) (code : Nat) :
    let t := s.busError w a write code
    t.flag F.SYS_BUSERR_INFO_VALID = true ∧ t.fld F.SYS_BUSERR_INFO_CODE = code % 2 ^ 16 ∧ t.fld F.SYS_BUSERR_INFO_PORT = w.port % 2 ^ 8
      ∧ t.flag F.SYS_BUSERR_INFO_WRITE = write ∧ t.pair .SYS_BUSERR_ADDR_LO .SYS_BUSERR_ADDR_HI = a % 2 ^ 64
      ∧ t.fld F.SYS_BUSERR_INFO_LOST = s.fld F.SYS_BUSERR_INFO_LOST := by
  have opened : (State.count { s with resp := .busError code } 0 (99 + code)).flag F.SYS_BUSERR_INFO_VALID = false := free
  unfold State.busError
  rw [if_neg (by simp [opened])]
  refine ⟨by simp [Fld.width], by simp [Fld.width], by simp [Fld.width], ?_, ?_, ?_⟩
  · cases write <;> simp [Fld.width]
  · simp [State.pair_setPair_same]
  · simp
    rfl

/-- What BUS_ERROR leaves (R40). -/
theorem State.busError_taken (s : State) (w : Initiator) (a : Nat) (write : Bool) (code : Nat) :
    BusErrorTaken w a write code s (s.busError w a write code) := by
  have kept : RegsKept [.SYS_BUSERR_ADDR_LO, .SYS_BUSERR_ADDR_HI, .SYS_BUSERR_INFO] s (s.busError w a write code) := by
    unfold State.busError
    exact regsKept_ite (by simp) (by simp)
  have mem : MemKept s (s.busError w a write code) := by
    unfold State.busError
    exact memKept_ite (memKept_of_mem rfl) (memKept_of_mem rfl)
  have resp : (s.busError w a write code).resp = .busError code := by
    unfold State.busError
    dsimp only
    split <;> rfl
  refine ⟨resp, kept, mem, fun free => State.busError_latched free w a write code, fun taken => ?_⟩
  have full : (State.count { s with resp := .busError code } 0 (99 + code)).flag F.SYS_BUSERR_INFO_VALID = true := taken
  unfold State.busError
  rw [if_pos full]
  exact ⟨by simp; rfl, by simp; rfl, State.reg_setReg_same ..⟩

/-- A bus error after a grant, from the state before it. -/
theorem BusErrorTaken.of_scb {w : Initiator} {a code : Nat} {write : Bool} {c : Scb} {t : State}
    (h : BusErrorTaken w a write code { s with scb := c } t) : BusErrorTaken w a write code s t := h

/-- Settles O10: no region is one bus error at once; a wrong width is one after the grant of an access that passes. -/
theorem refusedAccessesEndInABusError : Obligations.RefusedAccessesEndInABusError := by
  unfold Obligations.RefusedAccessesEndInABusError
  intro s x booted up
  have sends : ¬ (!s.sends x.who) = true := by simp [State.sends, booted, up]
  refine ⟨fun nowhere => ⟨_, rfl, ?_⟩, fun w window island present passes width => ⟨_, rfl, ?_⟩⟩
  · unfold State.access
    rw [if_neg sends, nowhere]
    exact s.busError_taken x.who x.addr _ 2
  · unfold State.access State.viaWindow
    rw [if_neg sends, window]
    dsimp only
    rw [if_neg (by simp [island]), if_neg (by simp [present]), if_neg (by simp [passes]), if_neg (by simp [width])]
    obtain ⟨c, granted⟩ := s.granted_scb x.who 27
    rw [granted]
    exact (State.busError_taken _ x.who x.addr _ 3).of_scb

end Sys2Proof.Machine
end

section
/-! SUPPORT. Register accesses of one word: split reads and writes of 64-bit registers (R33, R34), and writes by the access codes (R10). -/

namespace Sys2Proof.Machine

/-! ### Little-endian words -/

theorem length_leBytes (n v : Nat) : (leBytes n v).length = n := by
  induction n generalizing v with
  | zero => rfl
  | succ n ih => simp [leBytes, ih]

theorem leNat_leBytes (n v : Nat) : leNat (leBytes n v) = v % 2 ^ (8 * n) := by
  induction n generalizing v with
  | zero => simp [leBytes, leNat, Nat.mod_one]
  | succ n ih =>
    rw [leBytes, leNat, ih, BitVec.toNat_ofNat, show 8 * (n + 1) = 8 + 8 * n by omega, Nat.pow_add, Nat.mod_mul]

/-- A word written as its four bytes is the word. -/
theorem ofNat_leNat_leBytes (v : W32) : BitVec.ofNat 32 (leNat ((leBytes 4 v.toNat).take 4)) = v := by
  rw [List.take_of_length_le (length_leBytes 4 _).le, leNat_leBytes]
  exact BitVec.eq_of_toNat_eq (by simp [v.isLt])

/-! ### Halves that are held -/

theorem heldFor_dropHeld (l : List Held) (w : Initiator) (r : Reg) (i : Nat) : heldFor (dropHeld l w r i) w r i = none := by
  simp only [heldFor, dropHeld, Option.map_eq_none_iff, List.find?_eq_none, List.mem_filter]
  intro h ⟨_, other⟩ held
  simp [held] at other

theorem heldFor_append_none {l : List Held} {w : Initiator} {r : Reg} {i : Nat} (none : heldFor l w r i = none) (v : W32) :
    heldFor (l ++ [⟨w, r, i, v⟩]) w r i = some v := by
  have away : l.find? (fun h => decide (h.who = w ∧ h.reg = r ∧ h.idx = i)) = Option.none := by simpa [heldFor] using none
  rw [heldFor, List.find?_append, away]
  simp

theorem State.heldFor_setShadow (s : State) (w : Initiator) (r : Reg) (i : Nat) (v : W32) :
    heldFor (s.setShadow w r i v).sys.shadows w r i = some v := by
  refine heldFor_append_none ?_ v
  simp only [heldFor, Option.map_eq_none_iff, List.find?_eq_none, List.mem_filter, decide_eq_true_eq]
  intro h ⟨_, other⟩ ⟨whose, name, index⟩
  simp [whose, name, index] at other

/-! ### The access of one word -/

/-- The state in which an access of one word is served. -/
def State.wordServed (s : State) (who : Initiator) (win off ofs : Nat) (x : Transfer) : State :=
  (s.granted who 27).countData (wordAccess who win off ofs x) 27

theorem State.wordServed_scb (s : State) (who : Initiator) (win off ofs : Nat) (x : Transfer) :
    ∃ c, s.wordServed who win off ofs x = { s with scb := c } := by
  obtain ⟨c, granted⟩ := s.granted_scb who 27
  obtain ⟨d, counted⟩ := (s.granted who 27).countData_scb (wordAccess who win off ofs x) 27
  exact ⟨d, counted.trans (by rw [granted])⟩

/-- The data count is no counter that a register shows. -/
theorem State.wordServed_shown (s : State) (who : Initiator) (win off ofs : Nat) (x : Transfer) (r : Reg) (i : Nat) :
    (s.wordServed who win off ofs x).shown r i = (s.granted who 27).shown r i := by
  unfold State.wordServed State.countData
  dsimp only
  split
  · unfold State.shown
    split <;> rfl
  · unfold State.shown
    split <;> rfl

theorem windowOffset (win off : Nat) (small : off < 0x100000) : (0x40000000 + win * 0x100000 + off - 0x40000000) % 0x100000 = off := by
  omega

section Word

variable {s : State} {who : Initiator} {win off ofs : Nat}

/-- A read of one word that reaches its window. -/
theorem State.access_readWord (reaches : Reaches s who win off) :
    s.access (wordAccess who win off ofs (.read 4)) = (s.wordServed who win off ofs (.read 4)).readWord who win off := by
  rw [State.access_word s who win off ofs (.read 4) rfl reaches]
  obtain ⟨-, -, -, small, -⟩ := reaches
  simp only [State.serveAccess, wordAccess]
  rw [windowOffset win off small]
  rfl

/-- A write of one word that reaches its window. -/
theorem State.access_writeWord (reaches : Reaches s who win off) (v : W32) :
    s.access (wordAccess who win off ofs (.write (leBytes 4 v.toNat))) =
      { (s.wordServed who win off ofs (.write (leBytes 4 v.toNat))).writeWord who win off v ofs false with resp := .done } := by
  rw [State.access_word s who win off ofs (.write (leBytes 4 v.toNat)) (length_leBytes 4 _) reaches]
  obtain ⟨-, -, -, small, -⟩ := reaches
  simp only [State.serveAccess, wordAccess]
  rw [windowOffset win off small, ofNat_leNat_leBytes, length_leBytes]
  rfl

end Word

/-! ### Split reads -/

section Halves

variable {lo hi : Reg} {s : State} {who : Initiator} {win off i : Nat}

/-- Only the Calfin results have their own HI half. -/
theorem pairs_hi_ne : ∀ p ∈ pairs, p.1 ≠ .CLF_RES_LO → p.2 ≠ .CLF_RES_HI ∧ p.1 ≠ .CLF_RES_HI ∧ p.2 ≠ .CLF_RES_LO := by decide

theorem State.readWord_lo (pair : (lo, hi) ∈ pairs) (other : lo ≠ .CLF_RES_LO) (at_ : regAt win off = some (lo, i)) (s : State) :
    s.readWord who win off = s.readLo who lo hi i := by
  obtain ⟨notCan, -⟩ := pairs_not_can _ pair
  obtain ⟨hiOf, -⟩ := pairs_hiOf _ pair
  obtain ⟨-, notHi, -⟩ := pairs_hi_ne _ pair other
  have free : objectAt win off = none := objectAt_none off (regAt_win at_ ▸ notCan)
  simp only [State.readWord, free, at_, State.readReg, if_neg other, if_neg notHi, hiOf]

theorem State.readWord_hi (pair : (lo, hi) ∈ pairs) (other : lo ≠ .CLF_RES_LO) (at_ : regAt win off = some (hi, i)) (s : State) :
    s.readWord who win off = s.readHi who hi i := by
  obtain ⟨-, notCan⟩ := pairs_not_can _ pair
  obtain ⟨-, noHi, loOf, -⟩ := pairs_hiOf _ pair
  obtain ⟨notHi, -, notLo⟩ := pairs_hi_ne _ pair other
  have free : objectAt win off = none := objectAt_none off (regAt_win at_ ▸ notCan)
  simp [State.readWord, free, at_, State.readReg, if_neg notLo, if_neg notHi, noHi, loOf]

/-- A register after a read: its RC fields take their reset values. -/
theorem State.reg_afterRead_same (s : State) (r : Reg) (i : Nat) :
    (s.afterRead r i).reg r i = ((s.reg r i &&& ~~~r.row.rc) ||| (r.resetVal &&& r.row.rc)) := by
  unfold State.afterRead
  split
  · rename_i none
    rw [none]
    simp only [BitVec.ofNat_eq_ofNat, BitVec.not_zero, BitVec.and_allOnes, BitVec.and_zero, BitVec.or_zero]
  · exact s.reg_setReg_same r i _

@[simp] theorem State.reg_afterRead_other (s : State) {r q : Reg} {i j : Nat} (other : q ≠ r) : (s.afterRead r i).reg q j = s.reg q j := by
  unfold State.afterRead
  split
  · rfl
  · exact s.reg_setReg_other other

@[simp] theorem State.afterRead_sys (s : State) (r : Reg) (i : Nat) : (s.afterRead r i).sys = s.sys := by
  unfold State.afterRead
  split <;> rfl

@[simp] theorem State.afterRead_byte (s : State) (r : Reg) (i a : Nat) : (s.afterRead r i).byte a = s.byte a := by
  unfold State.afterRead
  split <;> rfl

@[simp] theorem cellsKept_afterRead {ks : List RegKey} {r u : State} {q : Reg} {j : Nat} (listed : (q, j) ∈ ks) :
    CellsKept ks r (u.afterRead q j) ↔ CellsKept ks r u := by
  unfold State.afterRead
  split
  · rfl
  · exact cellsKept_setReg listed

/-- What a read of a LO half leaves (R33). -/
theorem State.readLo_reads (s : State) (who : Initiator) (i : Nat) (halves : lo ≠ hi) :
    let t := s.readLo who lo hi i
    t.resp = .data (leBytes 4 (s.shown lo i).toNat) ∧ heldFor t.sys.shadows who hi i = some (s.shown hi i)
      ∧ t.reg lo i = ((s.reg lo i &&& ~~~lo.row.rc) ||| (lo.resetVal &&& lo.row.rc))
      ∧ t.reg hi i = ((s.reg hi i &&& ~~~hi.row.rc) ||| (hi.resetVal &&& hi.row.rc))
      ∧ CellsKept [(lo, i), (hi, i)] s t ∧ MemKept s t := by
  refine ⟨rfl, ?shadow, ?low, ?high, ?cells, fun a => ?mem⟩
  case shadow =>
    have shadows : (s.readLo who lo hi i).sys.shadows = (s.setShadow who hi i (s.shown hi i)).sys.shadows := by simp [State.readLo, State.answer]
    exact (congrArg (heldFor · who hi i) shadows).trans (s.heldFor_setShadow who hi i _)
  case low => exact (State.reg_afterRead_other _ halves).trans (State.reg_afterRead_same _ lo i)
  case high =>
    refine (State.reg_afterRead_same _ hi i).trans ?_
    rw [State.reg_afterRead_other _ halves.symm]
    rfl
  case cells =>
    have reads : CellsKept [(lo, i), (hi, i)] s (((s.setShadow who hi i (s.shown hi i)).afterRead lo i).afterRead hi i) := by
      rw [cellsKept_afterRead (by simp), cellsKept_afterRead (by simp)]
      exact cellsKept_of_regs rfl
    exact reads
  case mem => exact (State.afterRead_byte _ hi i a).trans (State.afterRead_byte _ lo i a)

/-- What a read of a HI half with a shadow leaves. -/
theorem State.readHi_shadow {who : Initiator} {v : W32} (held : heldFor s.sys.shadows who hi i = some v) :
    let t := s.readHi who hi i
    t.resp = .data (leBytes 4 v.toNat) ∧ heldFor t.sys.shadows who hi i = none ∧ CellsKept [] s t ∧ MemKept s t := by
  unfold State.readHi
  rw [held]
  exact ⟨rfl, heldFor_dropHeld _ who hi i, cellsKept_of_regs rfl, memKept_of_mem rfl⟩

/-- What a read of a HI half without a shadow leaves. -/
theorem State.readHi_live {who : Initiator} (free : heldFor s.sys.shadows who hi i = none) :
    let t := s.readHi who hi i
    t.resp = .data (leBytes 4 (s.shown hi i).toNat) ∧ t.reg hi i = ((s.reg hi i &&& ~~~hi.row.rc) ||| (hi.resetVal &&& hi.row.rc))
      ∧ CellsKept [(hi, i)] s t ∧ MemKept s t := by
  unfold State.readHi
  rw [free]
  exact ⟨rfl, State.reg_afterRead_same s hi i, (cellsKept_afterRead (by simp)).2 (CellsKept.refl _ s), State.afterRead_byte s hi i⟩

end Halves

/-- Settles O6: an access that reaches its window is a read of the LO or the HI half in the state that counts it. -/
theorem splitReadsUseTheShadow : Obligations.SplitReadsUseTheShadow := by
  unfold Obligations.SplitReadsUseTheShadow
  intro s who win off i lo hi pair other atLo atHi
  obtain ⟨-, -, -, halves⟩ := pairs_hiOf _ pair
  refine ⟨fun reaches => ?low, fun reaches => ⟨fun v held => ?shadow, fun free => ?live⟩⟩
  case low =>
    refine ⟨_, congrArg Host.Outcome.next (State.access_readWord reaches), ?_⟩
    obtain ⟨c, e⟩ := s.wordServed_scb who win off 0 (.read 4)
    rw [State.readWord_lo pair other atLo, ← s.wordServed_shown who win off 0 (.read 4), ← s.wordServed_shown who win off 0 (.read 4), e]
    exact State.readLo_reads { s with scb := c } who i halves
  case shadow =>
    refine ⟨_, congrArg Host.Outcome.next (State.access_readWord reaches), ?_⟩
    obtain ⟨c, e⟩ := s.wordServed_scb who win (off + 4) 0 (.read 4)
    rw [State.readWord_hi pair other atHi, e]
    exact State.readHi_shadow (s := { s with scb := c }) held
  case live =>
    refine ⟨_, congrArg Host.Outcome.next (State.access_readWord reaches), ?_⟩
    obtain ⟨c, e⟩ := s.wordServed_scb who win (off + 4) 0 (.read 4)
    rw [State.readWord_hi pair other atHi, ← s.wordServed_shown who win (off + 4) 0 (.read 4), e]
    exact State.readHi_live (s := { s with scb := c }) free

/-! ### Split writes -/

@[simp] theorem cellsKept_plainWrite {ks : List RegKey} {r u : State} {q : Reg} {j : Nat} {v : W32} (listed : (q, j) ∈ ks) :
    CellsKept ks r (u.plainWrite q j v) ↔ CellsKept ks r u := cellsKept_setReg listed

theorem State.reg_plainWrite_same (s : State) (r : Reg) (i : Nat) (v : W32) : (s.plainWrite r i v).reg r i = accessWord r (s.reg r i) v :=
  s.reg_setReg_same r i _

theorem State.reg_plainWrite_other (s : State) {r q : Reg} (i j : Nat) (v : W32) (other : q ≠ r) : (s.plainWrite r i v).reg q j = s.reg q j :=
  s.reg_setReg_name i j other _

section SplitWrites

variable {lo hi : Reg} {s : State} {who : Initiator} {win off i : Nat}

theorem State.writeWord_lo (pair : (lo, hi) ∈ pairs) (writable : pairWritable lo hi = true) (at_ : regAt win off = some (lo, i)) (s : State)
    (v : W32) (ofs : Nat) (busy : Bool) : s.writeWord who win off v ofs busy = s.holdLo who lo i v := by
  obtain ⟨hiOf, -⟩ := pairs_hiOf _ pair
  simp only [State.writeWord, at_, hiOf, writable, if_true]

theorem State.writeWord_hi (pair : (lo, hi) ∈ pairs) (writable : pairWritable lo hi = true) (at_ : regAt win off = some (hi, i)) (s : State)
    (v : W32) (ofs : Nat) (busy : Bool) : s.writeWord who win off v ofs busy = s.writeHi who lo hi i v ofs := by
  obtain ⟨-, noHi, loOf, -⟩ := pairs_hiOf _ pair
  simp only [State.writeWord, at_, noHi, loOf, writable, if_true]

/-- A pair that has no command of its own is written by its access codes. -/
theorem State.writePair_plain (demand : hi ≠ .TRS_OUT_DEM_HI) (point : hi ≠ .PNT_HOST_WR_HI) (channel : hi = .CFR_CH_ADDR_HI → i = 12 → who.port = 14)
    (s : State) (vl vh : W32) (ofs : Nat) : s.writePair who lo hi i vl vh ofs = (s.plainWrite lo i vl).plainWrite hi i vh := by
  unfold State.writePair
  rw [if_neg demand, if_neg point, if_neg fun ⟨h, k, port⟩ => port (channel h k)]

/-- Writing the word that a register without W1C bits holds changes nothing. -/
theorem accessWord_self {r : Reg} (noW1c : r.row.w1c = 0) (w : W32) : accessWord r w w = w := by
  unfold accessWord
  rw [noW1c]
  refine BitVec.eq_of_getLsbD_eq fun k h => ?_
  simp only [BitVec.getLsbD_and, BitVec.getLsbD_or, BitVec.getLsbD_not, h, decide_true, Bool.true_and, BitVec.ofNat_eq_ofNat, BitVec.getLsbD_zero,
    Bool.and_false, Bool.not_false, Bool.and_true]
  cases w.getLsbD k <;> cases r.row.rw.getLsbD k <;> rfl

/-- What a write of both halves leaves. -/
theorem State.plainWrite_both (s : State) (i : Nat) (vl v : W32) (halves : lo ≠ hi) :
    let t := (s.plainWrite lo i vl).plainWrite hi i v
    t.reg lo i = accessWord lo (s.reg lo i) vl ∧ t.reg hi i = accessWord hi (s.reg hi i) v ∧ CellsKept [(lo, i), (hi, i)] s t := by
  refine ⟨?_, ?_, ?_⟩
  · exact (State.reg_plainWrite_other _ i i v halves).trans (State.reg_plainWrite_same ..)
  · exact (State.reg_plainWrite_same ..).trans (congrArg (accessWord hi · v) (s.reg_plainWrite_other i i vl halves.symm))
  · rw [cellsKept_plainWrite (by simp), cellsKept_plainWrite (by simp)]
    exact CellsKept.refl _ s

/-- A held LO half is written with the HI half. -/
theorem State.writeHi_held {vl : W32} (held : heldFor s.sys.heldLo who lo i = some vl) (v : W32) (ofs : Nat) :
    s.writeHi who lo hi i v ofs =
      State.writePair (s.onSys fun y => { y with heldLo := dropHeld y.heldLo who lo i }) who lo hi i vl v ofs := by
  unfold State.writeHi
  rw [held]

/-- A HI half alone is written beside the word that the LO half holds. -/
theorem State.writeHi_free (free : heldFor s.sys.heldLo who lo i = none) (v : W32) (ofs : Nat) :
    s.writeHi who lo hi i v ofs = s.writePair who lo hi i (s.reg lo i) v ofs := by
  unfold State.writeHi
  rw [free]

/-- A write of the HI half beside its own LO half changes the HI half alone. -/
theorem State.plainWrite_high (s : State) (i : Nat) (v : W32) (halves : lo ≠ hi) (noW1c : lo.row.w1c = 0) :
    let t := (s.plainWrite lo i (s.reg lo i)).plainWrite hi i v
    t.reg hi i = accessWord hi (s.reg hi i) v ∧ CellsKept [(hi, i)] s t := by
  obtain ⟨low, high, kept⟩ := s.plainWrite_both i (s.reg lo i) v halves
  refine ⟨high, fun r j other => ?_⟩
  by_cases isLow : (r, j) = (lo, i)
  · obtain ⟨rfl, rfl⟩ := Prod.ext_iff.1 isLow
    exact low.trans (accessWord_self noW1c _)
  · exact kept r j (by simpa [isLow] using other)

end SplitWrites

/-- Settles O7: a LO half is held; a HI half is written with the held half, or with the word that the LO half holds, which keeps it. -/
theorem splitWritesJoinBothHalves : Obligations.SplitWritesJoinBothHalves := by
  unfold Obligations.SplitWritesJoinBothHalves
  intro s who win off i ofs lo hi v pair writable demand point channel atLo atHi
  obtain ⟨-, -, -, halves⟩ := pairs_hiOf _ pair
  obtain ⟨noW1c, -⟩ := pairs_w1c _ pair
  have write := State.writePair_plain (lo := lo) (who := who) (i := i) demand point channel
  refine ⟨fun reaches => ?low, fun reaches => ⟨fun vl held => ?both, fun free => ?high⟩⟩
  case low =>
    refine ⟨_, congrArg Host.Outcome.next (State.access_writeWord reaches v), rfl, ?_⟩
    obtain ⟨c, e⟩ := s.wordServed_scb who win off 0 (.write (leBytes 4 v.toNat))
    rw [State.writeWord_lo pair writable atLo, e]
    exact ⟨heldFor_append_none (heldFor_dropHeld _ who lo i) v, cellsKept_of_regs rfl, memKept_of_mem rfl⟩
  case both =>
    refine ⟨_, congrArg Host.Outcome.next (State.access_writeWord reaches v), rfl, ?_⟩
    obtain ⟨c, e⟩ := s.wordServed_scb who win (off + 4) ofs (.write (leBytes 4 v.toNat))
    rw [State.writeWord_hi pair writable atHi, e, State.writeHi_held (s := { s with scb := c }) held, write]
    obtain ⟨low, high, kept⟩ := State.plainWrite_both
      (State.onSys { s with scb := c } fun y => { y with heldLo := dropHeld y.heldLo who lo i }) i vl v halves
    exact ⟨low, high, heldFor_dropHeld _ who lo i, kept, memKept_of_mem rfl⟩
  case high =>
    refine ⟨_, congrArg Host.Outcome.next (State.access_writeWord reaches v), rfl, ?_⟩
    obtain ⟨c, e⟩ := s.wordServed_scb who win (off + 4) ofs (.write (leBytes 4 v.toNat))
    rw [State.writeWord_hi pair writable atHi, e, State.writeHi_free (s := { s with scb := c }) free, write]
    obtain ⟨high, kept⟩ := State.plainWrite_high { s with scb := c } i v halves noW1c
    exact ⟨high, kept, memKept_of_mem rfl⟩

/-! ### Writes by the access codes -/

/-- A register without a row of its own is written by its access codes. -/
theorem State.writeReg_plain {r : Reg} (plain : r ∉ ownRows) (legal : r.row.win = 11 → r.dom = .device) (s : State) (who : Initiator) (i : Nat) (v : W32)
    (ofs : Nat) (busy : Bool) : s.writeReg who r i v ofs busy = s.plainWrite r i v := by
  unfold State.writeReg
  split
  case h_33 => exact if_neg fun ⟨win, dom⟩ => dom (legal win)
  all_goals exact absurd (by decide) plain

/-- Settles O8: a register without a row of its own is written by `plainWrite`. -/
theorem registerWritesFollowTheAccessCodes : Obligations.RegisterWritesFollowTheAccessCodes := by
  unfold Obligations.RegisterWritesFollowTheAccessCodes
  intro s who win off i r v at_ noHi noLo plain legal reaches
  refine ⟨_, congrArg Host.Outcome.next (State.access_writeWord reaches v), rfl, ?_⟩
  obtain ⟨c, e⟩ := s.wordServed_scb who win off 0 (.write (leBytes 4 v.toNat))
  have word (u : State) : u.writeWord who win off v 0 false = u.plainWrite r i v := by
    simp only [State.writeWord, at_, noHi, noLo]
    exact u.writeReg_plain plain legal who i v 0 false
  rw [e, word]
  have kept : CellsKept [(r, i)] { s with scb := c } (State.plainWrite { s with scb := c } r i v) :=
    (cellsKept_plainWrite (by simp)).2 (CellsKept.refl _ _)
  exact ⟨State.reg_plainWrite_same { s with scb := c } r i v, kept, memKept_of_mem rfl⟩

end Sys2Proof.Machine
end

section
/-! SUPPORT. Repeated changes, bytes read back, and ring deliveries: what they leave. -/

namespace Sys2Proof.Machine

variable {s u : State} {l : List Nat} {f : Nat → State → State} {ks : List RegKey} {rs : List Reg}

/-! ### A change repeated for each number of a list -/

@[simp] theorem State.each_nil (s : State) (f : Nat → State → State) : s.each [] f = s := rfl

@[simp] theorem State.each_cons (s : State) (k : Nat) (l : List Nat) (f : Nat → State → State) : s.each (k :: l) f = (f k s).each l f := rfl

theorem State.each_append (s : State) (l m : List Nat) (f : Nat → State → State) : s.each (l ++ m) f = (s.each l f).each m f :=
  List.foldl_append

/-- What every change of the list keeps holds after all of them. -/
theorem State.each_induct {P : State → Prop} (start : P s) (next : ∀ k ∈ l, ∀ t, P t → P (f k t)) : P (s.each l f) := by
  induction l generalizing s with
  | nil => exact start
  | cons k l ih => exact ih (next k (by simp) s start) fun j m => next j (by simp [m])

/-- What no change of the list touches is what it was. -/
theorem State.each_congr {α : Type} (g : State → α) (blind : ∀ k ∈ l, ∀ t, g (f k t) = g t) : g (s.each l f) = g s :=
  State.each_induct (P := fun t => g t = g s) rfl fun k m t h => (blind k m t).trans h

theorem cellsKept_each (start : CellsKept ks s u) (next : ∀ k ∈ l, ∀ t, CellsKept ks t (f k t)) : CellsKept ks s (u.each l f) :=
  State.each_induct (P := CellsKept ks s) start fun k m t h => h.trans (next k m t)

theorem regsKept_each (start : RegsKept rs s u) (next : ∀ k ∈ l, ∀ t, RegsKept rs t (f k t)) : RegsKept rs s (u.each l f) :=
  State.each_induct (P := RegsKept rs s) start fun k m t h => h.trans (next k m t)

theorem memKept_each (start : MemKept s u) (next : ∀ k ∈ l, ∀ t, MemKept t (f k t)) : MemKept s (u.each l f) :=
  State.each_induct (P := MemKept s) start fun k m t h => h.trans (next k m t)

/-- What the change for one number brings about, and no other change of the list touches, holds after all of them. -/
theorem State.each_at {α : Type} {g : State → α} {k : Nat} {a : α} (listed : k ∈ l) (own : ∀ t, g (f k t) = a)
    (other : ∀ j ≠ k, ∀ t, g (f j t) = g t) : g (s.each l f) = a := by
  induction l generalizing s with
  | nil => simp at listed
  | cons j l ih =>
    by_cases later : k ∈ l
    · exact ih later
    · obtain rfl : k = j := by simpa [later] using listed
      exact (State.each_congr (l := l) (s := f k s) g fun i m t => other i (fun e => later (e ▸ m)) t).trans (own s)

/-! ### A state that differs in anything but its registers, or its memory -/

section Same

variable (pending : List Instr) (mem : List Host.Cell) (ecc : List Nat) (reports : List Report) (resp : Resp) (sent : List Sent) (freeCtr : Nat)
  (sys : Sys) (jny : Jny) (acq : Acq) (frg : Frg) (clf : Arr Engine) (trs : Trs) (blw : Blw) (asy : Asy) (mrt : Mrt) (peg : Peg) (pnt : Pnt)
  (net : Net) (can : Can) (fdl : Fdl) (est : Est) (emb : Emb) (cof : Cof) (scb : Scb) (pwr : Pwr) (regs : List (RegKey × W32))

@[simp] theorem State.reg_mk (r : Reg) (i : Nat) :
    State.reg ⟨pending, s.regs, mem, ecc, reports, resp, sent, freeCtr, sys, jny, acq, frg, clf, trs, blw, asy, mrt, peg, pnt, net, can, fdl, est,
      emb, cof, scb, pwr⟩ r i = s.reg r i := rfl

@[simp] theorem State.fld_mk (f : Fld) (i : Nat) :
    State.fld ⟨pending, s.regs, mem, ecc, reports, resp, sent, freeCtr, sys, jny, acq, frg, clf, trs, blw, asy, mrt, peg, pnt, net, can, fdl, est,
      emb, cof, scb, pwr⟩ f i = s.fld f i := rfl

@[simp] theorem State.flag_mk (f : Fld) (i : Nat) :
    State.flag ⟨pending, s.regs, mem, ecc, reports, resp, sent, freeCtr, sys, jny, acq, frg, clf, trs, blw, asy, mrt, peg, pnt, net, can, fdl, est,
      emb, cof, scb, pwr⟩ f i = s.flag f i := rfl

@[simp] theorem State.pair_mk (lo hi : Reg) (i : Nat) :
    State.pair ⟨pending, s.regs, mem, ecc, reports, resp, sent, freeCtr, sys, jny, acq, frg, clf, trs, blw, asy, mrt, peg, pnt, net, can, fdl, est,
      emb, cof, scb, pwr⟩ lo hi i = s.pair lo hi i := rfl

@[simp] theorem State.byte_mk (a : Nat) :
    State.byte ⟨pending, regs, s.mem, ecc, reports, resp, sent, freeCtr, sys, jny, acq, frg, clf, trs, blw, asy, mrt, peg, pnt, net, can, fdl, est,
      emb, cof, scb, pwr⟩ a = s.byte a := rfl

end Same

/-! ### Bytes -/

theorem State.bytes_congr {s t : State} {a n : Nat} (h : ∀ x, a ≤ x → x < a + n → t.byte x = s.byte x) : t.bytes a n = s.bytes a n := by
  induction n generalizing a with
  | zero => rfl
  | succ n ih =>
    rw [State.bytes, State.bytes, h a (Nat.le_refl a) (by omega), ih fun x _ _ => h x (by omega) (by omega)]

theorem State.bytes_of_memKept {s t : State} (h : MemKept s t) (a n : Nat) : t.bytes a n = s.bytes a n := State.bytes_congr fun x _ _ => h x

theorem State.bytes_of_mem {s t : State} (h : t.mem = s.mem) (a n : Nat) : t.bytes a n = s.bytes a n := State.bytes_of_memKept (memKept_of_mem h) a n

/-- Bytes read back where they were written. -/
theorem State.bytes_setBytes (s : State) (a : Nat) (b : List Byte) : (s.setBytes a b).bytes a b.length = b := by
  induction b generalizing s a with
  | nil => rfl
  | cons v b ih =>
    rw [List.length_cons, State.bytes, State.setBytes, ih, State.byte_setBytes_outside _ _ _ _ (by omega), State.byte_setByte_same]

theorem State.bytes_setBytes_of_length (s : State) (a : Nat) {b : List Byte} {n : Nat} (h : b.length = n) : (s.setBytes a b).bytes a n = b :=
  h ▸ s.bytes_setBytes a b

theorem State.setBytes_reports (s : State) (a : Nat) (b : List Byte) : (s.setBytes a b).reports = s.reports := by
  induction b generalizing s a with
  | nil => rfl
  | cons v b ih => exact ih (s.setByte a v) (a + 1)

/-- Writing bytes changes memory and its error marks alone. -/
theorem State.setBytes_eq (s : State) (a : Nat) (b : List Byte) :
    s.setBytes a b = { s with mem := (s.setBytes a b).mem, ecc := (s.setBytes a b).ecc } := by
  induction b generalizing s a with
  | nil => rfl
  | cons v b ih =>
    rw [State.setBytes]
    exact ih (s.setByte a v) (a + 1)

/-! ### Rings -/

section Rings

variable (s : State) (n : Nat) (entry : List Byte)

/-- An entry pushed: its bytes, and the registers of its ring. -/
theorem State.ringPush_regs : CellsKept [(.PNT_RING_PROD, n), (.PNT_RING_STAT, n)] s (s.ringPush n entry) := by
  simp [State.ringPush, State.ringIrq, cellsKept_of_regs]

theorem State.ringPush_prod : (s.ringPush n entry).ringProd n = (s.ringProd n + 1) % (2 * s.ringEntries n) % 2 ^ 17 := by
  simp [State.ringPush, State.ringIrq, State.ringProd, Fld.width]

theorem State.ringPush_mem :
    (s.ringPush n entry).mem = (s.setBytes (s.ringBase n + s.ringProd n % s.ringEntries n * s.ringEsize n) entry).mem := rfl

theorem State.ringPush_bytes {k : Nat} (length : entry.length = k) :
    (s.ringPush n entry).bytes (s.ringBase n + s.ringProd n % s.ringEntries n * s.ringEsize n) k = entry :=
  (State.bytes_of_memKept (memKept_of_mem (s.ringPush_mem n entry)) _ _).trans (s.bytes_setBytes_of_length _ length)

/-- A push changes registers, memory, and Scribe's counters. -/
theorem State.ringPush_eq :
    s.ringPush n entry = { s with regs := (s.ringPush n entry).regs, mem := (s.ringPush n entry).mem, ecc := (s.ringPush n entry).ecc,
                                  scb := (s.ringPush n entry).scb } := by
  unfold State.ringPush
  rw [State.setBytes_eq]
  rfl

theorem State.ringPush_reports : (s.ringPush n entry).reports = s.reports := by rw [State.ringPush_eq]

theorem State.ringPush_scb :
    (s.ringPush n entry).scb = { s.scb with counts := s.scb.counts.upd (12 * 128 + (7 + 2 * (n / 8))) fun c => c + BitVec.ofNat 48 1 } := by
  simp only [State.ringPush, State.ringIrq, State.count]
  rw [State.setBytes_eq]
  rfl

/-- A fitting entry is delivered where there is room. -/
theorem State.ringDeliver_push (fits : s.ringFits n 0 entry.length = true) (room : s.ringRoom n 1 = true) :
    s.ringDeliver n entry = s.ringPush n entry := by
  simp [State.ringDeliver, fits, room]

/-- Any delivery changes at most the ring's registers. -/
theorem State.ringLost_regs : CellsKept [(.PNT_RING_STAT, n)] s (s.ringLost n) := by
  unfold State.ringLost
  refine cellsKept_ite ?_ ?_ <;> simp

theorem State.ringDeliver_regs : CellsKept [(.PNT_RING_PROD, n), (.PNT_RING_STAT, n)] s (s.ringDeliver n entry) := by
  unfold State.ringDeliver
  refine cellsKept_ite (s.ringPush_regs n entry) ((s.ringLost_regs n).mono (by simp))

end Rings

end Sys2Proof.Machine
end

section
/-! SUPPORT. Scribe: snapshots, CLEAR, the writes of its settings, and completed tags. -/

namespace Sys2Proof.Machine

open Sys2Proof

/-! ### Snapshots -/

/-- Every entry of a snapshot is 1,024 bytes long (R429). -/
theorem State.length_snapEntry (s : State) (x : Snap) (b : Nat) : (s.snapEntry x b).length = 1024 := by
  have counts : (x.bankBytes b).length = 768 := by simp [Snap.bankBytes, length_leBytes, Function.comp_def]
  have band : x.bandBytes.length = 224 := by simp [Snap.bandBytes, length_leBytes, Function.comp_def]
  unfold State.snapEntry
  split <;> simp only [List.length_append, length_leBytes, counts, band, List.length_replicate]

/-- The pushes of a snapshot leave every register but those of ring 63. -/
theorem State.pushSnap_regs (s : State) (x : Snap) :
    RegsKept [.PNT_RING_PROD, .PNT_RING_STAT] s (s.each x.banks fun b t => t.ringPush 63 (s.snapEntry x b)) :=
  regsKept_each (.refl _ s) fun b _ t => (t.ringPush_regs 63 _).regsKept (by simp)

/-- A snapshot that is due is delivered or skipped. -/
theorem State.snapshot_due {s : State} {x : Snap} (due : s.scb.due = some x) :
    s.snapshot = (if s.ringRoom 63 x.banks.length then s.writeSnap x else s.skipSnap).onScb fun y => { y with due := none } := by
  unfold State.snapshot
  rw [due]

/-- What a skipped snapshot leaves (R429). -/
theorem State.skipSnap_spec (s : State) :
    s.skipSnap.fld F.SCB_STAT_SKIPPED = min (s.fld F.SCB_STAT_SKIPPED + 1) (2 ^ 16 - 1) ∧ MemKept s s.skipSnap
      ∧ s.skipSnap.scb.skipped = s.scb.skipped + 1 ∧ s.skipSnap.ringProd 63 = s.ringProd 63
      ∧ s.skipSnap.reports = if s.scb.skipSaid then s.reports else s.reports ++ [⟨0x0F81, 0⟩] := by
  have counted := s.fld_bumpSat_self (f := F.SCB_STAT_SKIPPED) (i := 0) (by decide)
  have index := s.fld_bumpSat_apart (f := F.SCB_STAT_SKIPPED) (g := F.PNT_RING_PROD_INDEX) (i := 0) (j := 63) (by decide) (by decide)
  by_cases said : s.scb.skipSaid
  · rw [if_pos said, show s.skipSnap = _ from if_pos said]
    exact ⟨counted, memKept_of_mem rfl, rfl, index, rfl⟩
  · rw [if_neg said, show s.skipSnap = _ from if_neg said]
    exact ⟨counted, memKept_of_mem rfl, rfl, index, rfl⟩

/-- What a delivered snapshot leaves in the registers. -/
theorem State.writeSnap_spec (s : State) (x : Snap) :
    (s.writeSnap x).fld F.SCB_STAT_SNAP = (s.fld F.SCB_STAT_SNAP + 1) % 2 ^ 16
      ∧ (s.writeSnap x).fld F.SCB_STAT_SKIPPED = s.fld F.SCB_STAT_SKIPPED ∧ (s.writeSnap x).reports = s.reports := by
  have kept := s.pushSnap_regs x
  refine ⟨?_, ?_, ?_⟩
  · rw [State.writeSnap, State.fld_bumpWrap_self _ (by decide), kept.fld (by decide)]
    rfl
  · rw [State.writeSnap, State.fld_bumpWrap_apart _ (by decide) (by decide), kept.fld (by decide)]
  · exact State.each_congr (s := s) State.reports fun b _ t => t.ringPush_reports 63 _

/-- A snapshot of one bank is one entry of ring 63. -/
theorem State.writeSnap_one (s : State) {x : Snap} {b : Nat} (one : x.banks = [b]) :
    (s.writeSnap x).ringProd 63 = (s.ringProd 63 + 1) % (2 * s.ringEntries 63) % 2 ^ 17
      ∧ (s.writeSnap x).bytes (s.ringBase 63 + s.ringProd 63 % s.ringEntries 63 * s.ringEsize 63) 1024 = s.snapEntry x b := by
  have push : s.writeSnap x = (s.ringPush 63 (s.snapEntry x b)).bumpWrap F.SCB_STAT_SNAP 0 := by rw [State.writeSnap, one]; rfl
  rw [push]
  refine ⟨?_, ?_⟩
  · exact ((s.ringPush 63 _).fld_bumpWrap_apart (by decide) (by decide)).trans (s.ringPush_prod 63 _)
  · rw [State.bytes_of_mem (State.bumpWrap_mem ..)]
    exact s.ringPush_bytes 63 _ (s.length_snapEntry x b)

/-- The figures of a port are shown. -/
def State.showBand (s : State) (p : Nat) (t : State) : State :=
  (t.setReg .SCB_BW_LO p (BitVec.ofNat 32 (s.scb.reads.get p))).setReg .SCB_BW_HI p (BitVec.ofNat 32 (s.scb.writes.get p))

theorem State.closePeriod_eq (s : State) :
    s.closePeriod = (s.each (List.range 28) s.showBand).onScb fun x => { x with reads := ⟨0, []⟩, writes := ⟨0, []⟩ } := rfl

theorem State.reg_showBand_other (s t : State) {p j : Nat} (h : p ≠ j) (r : Reg) : (s.showBand j t).reg r p = t.reg r p := by
  rw [State.showBand, State.reg_setReg_index _ _ _ h, State.reg_setReg_index _ _ _ h]

/-- The closing period shows the figures of every port. -/
theorem State.closePeriod_shows (s : State) {p : Nat} (port : p < 28) :
    s.closePeriod.reg .SCB_BW_LO p = BitVec.ofNat 32 (s.scb.reads.get p) ∧ s.closePeriod.reg .SCB_BW_HI p = BitVec.ofNat 32 (s.scb.writes.get p) := by
  rw [s.closePeriod_eq, State.onScb_reg, State.onScb_reg]
  refine ⟨?_, ?_⟩
  · exact State.each_at (g := fun t => t.reg .SCB_BW_LO p) (List.mem_range.2 port)
      (fun t => by rw [State.showBand, State.reg_setReg_other _ (by decide), State.reg_setReg_same]) fun j ne t => s.reg_showBand_other t ne.symm _
  · exact State.each_at (g := fun t => t.reg .SCB_BW_HI p) (List.mem_range.2 port)
      (fun t => by rw [State.showBand, State.reg_setReg_same]) fun j ne t => s.reg_showBand_other t ne.symm _

theorem State.closePeriod_regs (s : State) : RegsKept [.SCB_BW_LO, .SCB_BW_HI] s s.closePeriod := by
  rw [s.closePeriod_eq]
  exact (regsKept_each (.refl _ s) fun p _ t => by simp [State.showBand]).trans (regsKept_of_regs rfl)

theorem State.closePeriod_scb (s : State) : s.closePeriod.scb = { s.scb with reads := ⟨0, []⟩, writes := ⟨0, []⟩ } :=
  congrArg (fun x : Scb => { x with reads := ⟨0, []⟩, writes := ⟨0, []⟩ })
    (State.each_congr (s := s) (l := List.range 28) (f := s.showBand) State.scb fun _ _ _ => rfl)

/-- The snapshot record that falls due at the marker. -/
def State.dueSnap (s : State) : Snap := ⟨s.now, s.scb.period, s.snapBanks, s.scb.counts, s.scb.reads, s.scb.writes⟩

/-- A written SCB_CFG comes into force with the snapshot that falls due. -/
theorem State.latchSnap_eq (s : State) :
    s.latchSnap = if s.scb.newCfg then (s.closePeriod.onScb fun x => { x with due := some s.dueSnap }).takeScbCfg
      else s.closePeriod.onScb fun x => { x with due := some s.dueSnap } := by
  have new : s.closePeriod.scb.newCfg = s.scb.newCfg := by rw [s.closePeriod_scb]
  rw [← new]
  rfl

/-- A latched snapshot changes, of the registers, what the closing period shows. -/
theorem State.latchSnap_regs (s : State) : s.latchSnap.regs = s.closePeriod.regs := by
  rw [s.latchSnap_eq]
  generalize s.closePeriod = u
  split <;> rfl

/-- What a latched snapshot leaves in Scribe's record. -/
theorem State.latchSnap_scb (s : State) :
    s.latchSnap.scb.due = some s.dueSnap ∧ s.latchSnap.scb.reads = ⟨0, []⟩ ∧ s.latchSnap.scb.writes = ⟨0, []⟩
      ∧ (s.scb.newCfg = true → s.latchSnap.scb.period = s.fld F.SCB_CFG_PERIOD ∧ s.latchSnap.scb.banks = s.fld F.SCB_CFG_BANKS
        ∧ s.latchSnap.scb.newCfg = false) := by
  have period : s.closePeriod.fld F.SCB_CFG_PERIOD = s.fld F.SCB_CFG_PERIOD := s.closePeriod_regs.fld (by decide) 0
  have banks : s.closePeriod.fld F.SCB_CFG_BANKS = s.fld F.SCB_CFG_BANKS := s.closePeriod_regs.fld (by decide) 0
  rw [s.latchSnap_eq]
  by_cases new : s.scb.newCfg = true
  · rw [if_pos new]
    exact ⟨rfl, rfl, rfl, fun _ => ⟨period, banks, rfl⟩⟩
  · rw [if_neg new]
    exact ⟨rfl, rfl, rfl, fun h => absurd h new⟩

/-! ### Writes of Scribe's settings -/

/-- A served access counts in Scribe's counters and in the period's figures of its ports (R427, R430). -/
theorem served_counts (s : State) (who : Initiator) (n : Nat) :
    ∃ counts reads writes, (served s who n).scb = { s.scb with counts := counts, reads := reads, writes := writes } := by
  unfold served State.countData State.granted State.when State.count
  dsimp only
  split <;> split <;> exact ⟨_, _, _, rfl⟩

/-- A mask that covers a field leaves its value. -/
theorem Fld.of_and {f : Fld} {m : W32} (v : W32) (whole : ∀ k < f.width, m.getLsbD (f.lo + k) = true) : f.of (v &&& m) = f.of v := by
  refine Nat.eq_of_testBit_eq fun k => ?_
  rw [Fld.of_testBit, Fld.of_testBit, BitVec.getLsbD_and]
  by_cases inside : k < f.width
  · rw [whole k inside, Bool.and_true]
  · simp [inside]

/-- A written SCB_CFG with a PERIOD of 1 to 9 is refused (R428). -/
theorem State.scbCfg_refused (s : State) {v : W32} (low : 1 ≤ F.SCB_CFG_PERIOD.of v) (high : F.SCB_CFG_PERIOD.of v ≤ 9) :
    s.scbCfg v = s.report 0x0F01 := if_pos ⟨by omega, by omega⟩

/-- Another is taken, at once where no snapshots ran. -/
theorem State.scbCfg_taken (s : State) {v : W32} (good : F.SCB_CFG_PERIOD.of v = 0 ∨ 10 ≤ F.SCB_CFG_PERIOD.of v) :
    (s.scbCfg v).regs = (s.setReg .SCB_CFG 0 v).regs ∧ (s.scbCfg v).reports = s.reports
      ∧ (s.scb.period = 0 → (s.scbCfg v).scb = { s.scb with period := F.SCB_CFG_PERIOD.of v, banks := F.SCB_CFG_BANKS.of v, newCfg := false,
                                                            reads := ⟨0, []⟩, writes := ⟨0, []⟩ })
      ∧ (s.scb.period ≠ 0 → (s.scbCfg v).scb = { s.scb with newCfg := true }) := by
  have period := s.fld_setReg_same F.SCB_CFG_PERIOD 0 v
  have banks := s.fld_setReg_same F.SCB_CFG_BANKS 0 v
  unfold State.scbCfg
  simp only
  rw [if_neg (by omega)]
  by_cases idle : s.scb.period = 0
  · rw [if_pos idle]
    refine ⟨rfl, rfl, fun _ => ?_, fun h => absurd idle h⟩
    exact congrArg₂ (fun p b => { s.scb with period := p, banks := b, newCfg := false, reads := ⟨0, []⟩, writes := ⟨0, []⟩ }) period banks
  · rw [if_neg idle]
    exact ⟨rfl, rfl, fun h => absurd h idle, fun _ => rfl⟩

/-- The fields that a written SCB_TAG_CFG sets lie in its writable bits. -/
theorem tagCfg_field {f : Fld} (listed : f ∈ [F.SCB_TAG_CFG_K, F.SCB_TAG_CFG_EN, F.SCB_TAG_CFG_RING, F.SCB_TAG_CFG_SRC]) (v : W32) :
    f.of (v &&& 0xFF3FFFFF#32) = f.of v :=
  Fld.of_and v (by revert f; decide)

theorem served_ringFits (s : State) (who : Initiator) (k n dir size : Nat) : (served s who k).ringFits n dir size = s.ringFits n dir size :=
  served_congr (fun u => u.ringFits n dir size) s who k fun _ => rfl

/-- A bad written SCB_TAG_CFG is refused (R434). -/
theorem State.tagCfg_refused {s : State} {v : W32} (bad : F.SCB_TAG_CFG_K.of v < 4 ∨ 20 < F.SCB_TAG_CFG_K.of v
    ∨ (F.SCB_TAG_CFG_EN.of v = 1 ∧ s.ringFits (F.SCB_TAG_CFG_RING.of v) 0 32 = false)) : s.tagCfg v = s.report 0x0F01 := if_pos bad

theorem State.tagCfg_taken {s : State} {v : W32} (good : ¬ (F.SCB_TAG_CFG_K.of v < 4 ∨ 20 < F.SCB_TAG_CFG_K.of v
    ∨ (F.SCB_TAG_CFG_EN.of v = 1 ∧ s.ringFits (F.SCB_TAG_CFG_RING.of v) 0 32 = false))) :
    s.tagCfg v = (s.setReg .SCB_TAG_CFG 0 (v &&& 0xFF3FFFFF#32)).onScb fun x => { x with issues := ⟨0, []⟩ } := if_neg good

/-! ### Completed tags -/

/-- Every record of a tag is 32 bytes long (R433). -/
theorem length_tagRecord (t : Tag) (flags fetch exec retire mem stall : Nat) : (tagRecord t flags fetch exec retire mem stall).length = 32 := by
  simp [tagRecord, length_leBytes]

/-- A completion is counted (R433). -/
def State.tagCounted (s : State) (source : Nat) : State := if source < 16 then (s.count 15 0).count 15 1 else s.count 15 4

theorem State.tagCounted_scb (s : State) (source : Nat) : ∃ c, s.tagCounted source = { s with scb := c } := by
  unfold State.tagCounted State.count
  split
  · exact ⟨_, rfl⟩
  · exact ⟨_, rfl⟩

/-- The state in which a completed tag's record is delivered: the completion is counted, and the source has no tag in flight any more. -/
def State.tagClosed (s : State) (source : Nat) : State :=
  (s.tagCounted source).onScb fun y => { y with tags := y.tags.filter fun z => decide (z.source ≠ source) }

theorem State.tagDone_some {s : State} {x t : Tag} (flight : s.tagInFlight x = some t) (flags fetch exec retire mem stall : Nat) :
    s.tagDone x flags fetch exec retire mem stall
      = (s.tagClosed x.source).ringDeliver (s.fld F.SCB_TAG_CFG_RING) (tagRecord t flags fetch exec retire mem stall) := by
  unfold State.tagDone
  rw [flight]
  rfl

/-- Closing a tag changes Scribe's record alone, and leaves no tag of the source in flight. -/
theorem State.tagClosed_scb (s : State) (source : Nat) : ∃ c : Scb, s.tagClosed source = s.onScb (fun _ => c) ∧ ∀ y ∈ c.tags, y.source ≠ source := by
  obtain ⟨c, e⟩ := s.tagCounted_scb source
  refine ⟨{ c with tags := c.tags.filter fun z => decide (z.source ≠ source) }, ?_, fun y m => of_decide_eq_true (List.mem_filter.1 m).2⟩
  rw [State.tagClosed, e]
  rfl

/-- Settles O59: one branch of `snapshot`, `latchSnap`, `scbCfg`, `tagCfg` and `tagDone` for each clause. -/
theorem snapshotsAndTagsGoToTheirRings : Obligations.SnapshotsAndTagsGoToTheirRings := by
  unfold Obligations.SnapshotsAndTagsGoToTheirRings
  refine ⟨fun s => ⟨fun none => ?idle, fun x runs due => ?due⟩, fun s => ?latch, fun s who reaches => ?clear,
    fun s who v reaches => ⟨fun low high => ?bad, fun good => ?cfg⟩, fun s who v reaches => ⟨fun bad => ?badTag, fun good => ?tagCfg⟩,
    fun s source stroke pc flags fetch exec' retire mem stall => ⟨fun none => ?noTag, fun x runs flight fits room => ?tag⟩⟩
  case idle =>
    have same : s.snapshot = s := by rw [State.snapshot, none]
    refine congrArg Host.Outcome.next ?_
    rw [same, State.live, ite_self]
  case due =>
    refine ⟨_, congrArg Host.Outcome.next (s.live_runs runs), ?_⟩
    rw [State.snapshot_due due]
    refine ⟨rfl, fun full => ?_, fun room => ?_⟩
    · rw [full]
      exact s.skipSnap_spec
    · rw [room]
      obtain ⟨snap, skipped, reports⟩ := s.writeSnap_spec x
      refine ⟨snap, skipped, reports, fun b one => ⟨(s.writeSnap_one one).1, ?_⟩⟩
      rw [if_pos rfl, State.bytes_of_mem (State.onScb_mem ..)]
      exact (s.writeSnap_one one).2
  case latch =>
    have regs : ∀ r i, s.latchSnap.reg r i = s.closePeriod.reg r i := fun r i => by rw [State.reg, State.reg, s.latchSnap_regs]
    obtain ⟨due, reads, writes, cfg⟩ := s.latchSnap_scb
    refine ⟨due, fun p port => ?_, cfg, s.closePeriod_regs.trans (regsKept_of_regs s.latchSnap_regs)⟩
    obtain ⟨low, high⟩ := s.closePeriod_shows port
    rw [regs, regs, reads, writes]
    exact ⟨low, high, rfl, rfl⟩
  case clear => exact congrArg Host.Outcome.next (rowWrite_reaches s who _ _ _ reaches)
  case bad =>
    refine congrArg Host.Outcome.next ((rowWrite_reaches s who _ _ _ reaches).trans ?_)
    rw [State.scbCfg_refused _ low high]
  case cfg =>
    refine ⟨_, congrArg Host.Outcome.next (rowWrite_reaches s who _ _ _ reaches), rfl, ?_⟩
    obtain ⟨c, e⟩ := served_scb s who 4
    obtain ⟨regs, reports, idle, running⟩ := (served s who).scbCfg_taken good
    have cfg : ((served s who).scbCfg v).reg .SCB_CFG 0 = v := by
      rw [State.reg, regs]
      exact State.reg_setReg_same (served s who) .SCB_CFG 0 v
    refine ⟨cfg, ?_, reports.trans (served_reports s who 4), fun stopped => ?_, fun runs => ?_⟩
    · refine CellsKept.trans ((cellsKept_setReg (by simp)).2 ((cellsKept_served s who 4).2 (.refl _ s))) (cellsKept_of_regs regs)
    · obtain ⟨counts, reads, writes, eq⟩ := served_counts s who 4
      rw [eq] at idle
      have taken := idle stopped
      rw [taken]
      exact ⟨rfl, rfl, rfl⟩
    · refine running ?_
      obtain ⟨counts, reads, writes, eq⟩ := served_counts s who 4
      rw [eq]
      exact runs
  case badTag =>
    refine congrArg Host.Outcome.next ((rowWrite_reaches s who _ _ _ reaches).trans ?_)
    rw [State.tagCfg_refused (by rwa [served_ringFits])]
  case tagCfg =>
    have own {f : Fld} (listed : f ∈ [F.SCB_TAG_CFG_K, F.SCB_TAG_CFG_EN, F.SCB_TAG_CFG_RING, F.SCB_TAG_CFG_SRC]) (at_ : f.reg = .SCB_TAG_CFG) :
        f.of (((served s who).setReg .SCB_TAG_CFG 0 (v &&& 0xFF3FFFFF#32)).reg f.reg 0) = f.of v := by
      rw [at_, State.reg_setReg_same, tagCfg_field listed]
    refine ⟨_, congrArg Host.Outcome.next (rowWrite_reaches s who _ _ _ reaches), rfl, ?_⟩
    rw [State.tagCfg_taken (by rwa [served_ringFits])]
    refine ⟨own (by simp) rfl, own (by simp) rfl, own (by simp) rfl, own (by simp) rfl, fun _ => rfl, ?_⟩
    exact (cellsKept_setReg (by simp)).2 ((cellsKept_served s who 4).2 (.refl _ s))
  case noTag =>
    have same : s.tagDone ⟨source, stroke, pc⟩ flags fetch exec' retire mem stall = s := by rw [State.tagDone, none]
    refine congrArg Host.Outcome.next ?_
    rw [same, State.live, ite_self]
  case tag =>
    refine ⟨_, congrArg Host.Outcome.next (s.live_runs runs), ?_⟩
    obtain ⟨c, e, gone⟩ := s.tagClosed_scb source
    have length := length_tagRecord x flags fetch exec' retire mem stall
    rw [State.tagDone_some flight, e, State.ringDeliver_push (s.onScb fun _ => c) _ _ (by rw [length]; exact fits) room]
    obtain ⟨-, -, -, size⟩ := of_decide_eq_true fits
    refine ⟨?_, State.ringPush_prod .., ?_, State.ringPush_regs (s.onScb fun _ => c) _ _, State.ringPush_reports ..⟩
    · have bytes := State.ringPush_bytes (s.onScb fun _ => c) (s.fld F.SCB_TAG_CFG_RING) _ length
      rwa [show (s.onScb fun _ => c).ringEsize (s.fld F.SCB_TAG_CFG_RING) = 32 from size] at bytes
    · rw [State.ringPush_scb]
      exact gone

end Sys2Proof.Machine
end

section
/-! SUPPORT. Byte strings: fields of joined strings, and what the ciphers do and undo. -/

namespace Sys2Proof.Machine

open Sys2Proof

variable {a b : List Byte} {o n : Nat}

/-! ### Fields of joined strings -/

theorem slice_append_left (h : o + n ≤ a.length) : slice (a ++ b) o n = slice a o n := by
  unfold slice
  rw [List.drop_append_of_le_length (by omega), List.take_append_of_le_length (by simp; omega)]

theorem slice_append_right (h : a.length ≤ o) : slice (a ++ b) o n = slice b (o - a.length) n := by
  unfold slice
  rw [List.drop_append, List.drop_eq_nil_of_le h, List.nil_append]

theorem slice_whole (h : b.length = n) : slice b 0 n = b := by
  rw [slice, List.drop_zero, ← h, List.take_length]

theorem slice_front (h : a.length = n) : slice (a ++ b) 0 n = a := by
  rw [slice_append_left (by omega), slice_whole h]

theorem uN_append_left (h : o + n ≤ a.length) : uN (a ++ b) o n = uN a o n := by rw [uN, slice_append_left h, uN]

theorem uN_append_right (h : a.length ≤ o) : uN (a ++ b) o n = uN b (o - a.length) n := by rw [uN, slice_append_right h, uN]

theorem u16_append_left (h : o + 2 ≤ a.length) : u16 (a ++ b) o = u16 a o := uN_append_left h

theorem u16_append_right (h : a.length ≤ o) : u16 (a ++ b) o = u16 b (o - a.length) := uN_append_right h

theorem u32_append_left (h : o + 4 ≤ a.length) : u32 (a ++ b) o = u32 a o := uN_append_left h

theorem u32_append_right (h : a.length ≤ o) : u32 (a ++ b) o = u32 b (o - a.length) := uN_append_right h

theorem uN_leBytes (n v : Nat) : uN (leBytes n v) 0 n = v % 2 ^ (8 * n) := by rw [uN, slice_whole (length_leBytes n v), leNat_leBytes]

theorem leNat_lt (b : List Byte) : leNat b < 2 ^ (8 * b.length) := by
  induction b with
  | nil => simp [leNat]
  | cons x t ih =>
    have byte := x.isLt
    rw [leNat, List.length_cons, show 8 * (t.length + 1) = 8 * t.length + 8 from rfl, Nat.pow_add]
    omega

theorem uN_lt (b : List Byte) (o n : Nat) : uN b o n < 2 ^ (8 * n) := by
  refine Nat.lt_of_lt_of_le (leNat_lt _) (Nat.pow_le_pow_right (by decide) ?_)
  have le : (slice b o n).length ≤ n := by simp [slice]
  omega

theorem u16_lt (b : List Byte) (o : Nat) : u16 b o < 2 ^ 16 := uN_lt b o 2

theorem u32_lt (b : List Byte) (o : Nat) : u32 b o < 2 ^ 32 := uN_lt b o 4

theorem u8_lt (b : List Byte) (o : Nat) : u8 b o < 256 := BitVec.isLt _

/-! ### AES-256-GCM (log entry 5) -/

theorem length_gcmText (key nonce text : List Byte) : (gcmText key nonce text).length = text.length := by simp [gcmText]

/-- The key stream applied twice gives the text back. -/
theorem gcmText_gcmText (key nonce text : List Byte) : gcmText key nonce (gcmText key nonce text) = text := by
  refine List.ext_getElem (by simp [gcmText]) fun i h k => ?_
  simp [gcmText]

theorem length_gcmSeal (key nonce aad text : List Byte) : (gcmSeal key nonce aad text).length = text.length + 16 := by
  simp [gcmSeal, length_gcmText, length_leBytes]

/-- What was sealed opens under the same key, nonce and associated data. -/
theorem gcmOpen_gcmSeal (key nonce aad text : List Byte) : gcmOpen key nonce aad (gcmSeal key nonce aad text) = some text := by
  have cut : (gcmSeal key nonce aad text).length - 16 = (gcmText key nonce text).length := by rw [length_gcmSeal, length_gcmText]; omega
  unfold gcmOpen
  simp only [cut]
  unfold gcmSeal
  simp only [List.take_left, List.drop_left, gcmText_gcmText]
  rw [if_pos ⟨by simp [length_leBytes], trivial⟩]

end Sys2Proof.Machine
end

section
/-! SUPPORT. Coffer: slots and what their changes leave, and a command on a private path. -/

namespace Sys2Proof.Machine

open Sys2Proof

/-! ### Changes of a number's cell, each made once -/

/-- Of changes made once for each number, the one for `k` brings about `Q`, which the others keep. -/
theorem State.each_once {s : State} {l : List Nat} {f : Nat → State → State} {P Q : State → Prop} {k : Nat} (once : l.Nodup) (listed : k ∈ l)
    (start : P s) (keepP : ∀ j ≠ k, ∀ t, P t → P (f j t)) (own : ∀ t, P t → Q (f k t)) (keepQ : ∀ j ≠ k, ∀ t, Q t → Q (f j t)) :
    Q (s.each l f) := by
  induction l generalizing s with
  | nil => simp at listed
  | cons j l ih =>
    obtain ⟨fresh, once⟩ := List.nodup_cons.1 once
    by_cases e : j = k
    · subst e
      exact State.each_induct (s := f j s) (own s start) fun i m t => keepQ i (fun e => fresh (e ▸ m)) t
    · exact ih once (by simpa [Ne.symm e] using listed) (keepP j e s start)

/-! ### Slots -/

section Slots

variable (s : State) (n : Nat) (g : KeySlot → KeySlot)

@[simp] theorem cellsKept_onSlot {ks : List RegKey} {r : State} : CellsKept ks r (s.onSlot n g) ↔ CellsKept ks r s := Iff.rfl

@[simp] theorem State.keySlot_onSlot_same : (s.onSlot n g).keySlot n = g (s.keySlot n) := Arr.get_upd_same ..

theorem State.keySlot_onSlot_ne {j : Nat} (other : j ≠ n) : (s.onSlot n g).keySlot j = s.keySlot j := Arr.get_upd_ne _ other _

theorem State.keySlot_congr {s t : State} (h : t.cof.slots = s.cof.slots) (n : Nat) : t.keySlot n = s.keySlot n := by
  rw [State.keySlot, State.keySlot, h]

@[simp] theorem State.keySlot_setReg (r : Reg) (i : Nat) (v : W32) : (s.setReg r i v).keySlot n = s.keySlot n := rfl
@[simp] theorem State.keySlot_setFld (f : Fld) (i v : Nat) : (s.setFld f i v).keySlot n = s.keySlot n := rfl
@[simp] theorem State.keySlot_setFlag (f : Fld) (i : Nat) (b : Bool) : (s.setFlag f i b).keySlot n = s.keySlot n := rfl
@[simp] theorem State.keySlot_report (c i : Nat) : (s.report c i).keySlot n = s.keySlot n := rfl
@[simp] theorem State.keySlot_tick : s.tick.keySlot n = s.keySlot n := rfl
@[simp] theorem State.keySlot_showPubKeys : s.showPubKeys.keySlot n = s.keySlot n := rfl

/-- PUBKEYS is shown in CFR_STAT. -/
@[simp] theorem cellsKept_showPubKeys {ks : List RegKey} {r : State} (listed : (.CFR_STAT, 0) ∈ ks) :
    CellsKept ks r s.showPubKeys ↔ CellsKept ks r s := cellsKept_setFld listed

@[simp] theorem State.showPubKeys_reg {r : Reg} (other : r ≠ .CFR_STAT) (i : Nat) : s.showPubKeys.reg r i = s.reg r i :=
  s.reg_setFld_other other

@[simp] theorem State.showPubKeys_fld {f : Fld} (other : f.reg ≠ .CFR_STAT) (i : Nat) : s.showPubKeys.fld f i = s.fld f i := by
  rw [State.fld, State.fld, s.showPubKeys_reg other]

@[simp] theorem State.showPubKeys_flag {f : Fld} (other : f.reg ≠ .CFR_STAT) (i : Nat) : s.showPubKeys.flag f i = s.flag f i :=
  State.flag_congr (s.showPubKeys_fld other i)

@[simp] theorem State.showPubKeys_reports : s.showPubKeys.reports = s.reports := rfl
@[simp] theorem State.showPubKeys_mem : s.showPubKeys.mem = s.mem := rfl
@[simp] theorem State.showPubKeys_slots : s.showPubKeys.cof = s.cof := rfl

/-! ### An emptied slot -/

/-- The registers of an emptied slot. -/
theorem State.emptySlot_regs : CellsKept [(.CFR_SLOT_ATTR_LO, n), (.CFR_SLOT_ATTR_HI, n), (.CFR_SLOT_PGEN, n), (.CFR_SLOT_GEN, n), (.CFR_SLOT_STAT, n)]
    s (s.emptySlot n) := by
  simp [State.emptySlot]

theorem State.keySlot_emptySlot_ne {j : Nat} (other : j ≠ n) : (s.emptySlot n).keySlot j = s.keySlot j := by
  simp [State.emptySlot, State.keySlot_onSlot_ne _ _ _ other]

/-- Another slot's registers stay. -/
theorem State.emptySlot_reg_ne {j : Nat} (other : j ≠ n) (r : Reg) : (s.emptySlot n).reg r j = s.reg r j :=
  s.emptySlot_regs n r j (by simp [other])

theorem State.emptySlot_fld_ne {j : Nat} (other : j ≠ n) (f : Fld) : (s.emptySlot n).fld f j = s.fld f j := by
  rw [State.fld, State.fld, s.emptySlot_reg_ne n other]

/-- A slot emptied: its keys are gone, GEN advanced, and STATE is EMPTY, or FIXED where GEN is used up (R413, R414). -/
theorem State.emptySlot_emptied : SlotEmptied n s (s.emptySlot n) := by
  refine ⟨?_, ?_, ?_⟩
  · simp [State.emptySlot]
  · simp [State.emptySlot, Fld.width]
  · simp [State.emptySlot, State.slotState, Fld.width]
    split <;> decide

@[simp] theorem State.emptySlot_reports : (s.emptySlot n).reports = s.reports := rfl

end Slots

/-- What is shown of an emptied slot depends on that slot alone. -/
theorem SlotEmptied.congr {n : Nat} {s s' t t' : State} (h : SlotEmptied n s t) (before : s'.fld F.CFR_SLOT_GEN_GEN n = s.fld F.CFR_SLOT_GEN_GEN n)
    (slot : t'.keySlot n = t.keySlot n) (gen : t'.fld F.CFR_SLOT_GEN_GEN n = t.fld F.CFR_SLOT_GEN_GEN n) (state : t'.slotState n = t.slotState n) :
    SlotEmptied n s' t' := by
  obtain ⟨empty, advanced, shown⟩ := h
  exact ⟨slot.trans empty, by rw [gen, advanced, before], by rw [state, shown, before]⟩

/-! ### A command on a private path -/

/-- The state that shows an answer; `c`: Scribe's counters. -/
def KeyAns.shown (r : KeyAns) (c : Scb) : State :=
  ({ r.st with scb := c, cof := { r.st.cof with answer := (r.code, r.out) } }).setFld F.CFR_STAT_CODE 0 r.code

section Shown

variable (r : KeyAns) (c : Scb)

@[simp] theorem KeyAns.shown_answer : (r.shown c).cof.answer = (r.code, r.out) := rfl
@[simp] theorem KeyAns.shown_slots : (r.shown c).cof.slots = r.st.cof.slots := rfl
@[simp] theorem KeyAns.shown_lockUntil : (r.shown c).cof.lockUntil = r.st.cof.lockUntil := rfl
@[simp] theorem KeyAns.shown_keySlot (n : Nat) : (r.shown c).keySlot n = r.st.keySlot n := rfl
@[simp] theorem KeyAns.shown_reports : (r.shown c).reports = r.st.reports := rfl
@[simp] theorem KeyAns.shown_mem : (r.shown c).mem = r.st.mem := rfl

@[simp] theorem KeyAns.shown_reg {q : Reg} (other : q ≠ .CFR_STAT) (i : Nat) : (r.shown c).reg q i = r.st.reg q i :=
  State.reg_setFld_other _ other

@[simp] theorem KeyAns.shown_fld {f : Fld} (other : f.reg ≠ .CFR_STAT) (i : Nat) : (r.shown c).fld f i = r.st.fld f i := by
  rw [State.fld, State.fld, r.shown_reg c other]

@[simp] theorem KeyAns.shown_flag {f : Fld} (other : f.reg ≠ .CFR_STAT) (i : Nat) : (r.shown c).flag f i = r.st.flag f i :=
  State.flag_congr (r.shown_fld c other i)

@[simp] theorem cellsKept_shown {ks : List RegKey} {s : State} (listed : (.CFR_STAT, 0) ∈ ks) : CellsKept ks s (r.shown c) ↔ CellsKept ks s r.st :=
  cellsKept_setFld listed

/-- An answer's code stands in the answer and in CFR_STAT. -/
theorem KeyAns.shown_replied (small : r.code < 2 ^ 16) : Replied r.code r.out (r.shown c) :=
  ⟨rfl, (State.fld_setFld_self _ (by decide)).trans (Nat.mod_eq_of_lt small)⟩

theorem KeyAns.shown_refused (s : State) {code : Nat} (small : code < 2 ^ 16) : KeyRefused code s ((refuse s code).shown c) :=
  ⟨(refuse s code).shown_replied c small, rfl, by simp [refuse]⟩

end Shown

section Asks

variable {s : State} {island opcode : Nat} {b : List Byte} {f : Frame}

/-- Counting an operation changes Scribe's counters alone. -/
theorem KeyAns.counted_scb (r : KeyAns) (alg : Nat) : ∃ c, r.counted alg = { r with st := { r.st with scb := c } } := by
  unfold KeyAns.counted State.count
  split
  · exact ⟨_, rfl⟩
  · exact ⟨_, rfl⟩

/-- A frame of the opcode on the path of an island that runs is served, if Coffer answers it. -/
theorem State.serve_path (op : Nat → Frame → KeyAns) (answers : s.cofferAnswers opcode = true) (runs : s.runs island = true)
    (idle : s.flag F.CFR_LC_STATE_ERASE_PEND = false) (frame : readFrame b = some f) (own : f.opcode = opcode) :
    ∃ c, s.serve (.path island b) opcode op = (s.rooted opcode (op island f)).shown c := by
  obtain ⟨c, counted⟩ := (s.rooted opcode (op island f)).counted_scb (s.slotAlg f.slot)
  refine ⟨c, ?_⟩
  unfold State.serve
  rw [idle, answers]
  simp only [Bool.not_true, Bool.or_self, Bool.false_eq_true, if_false]
  rw [s.live_runs runs, frame, State.servePath, if_neg (not_not_intro own)]
  simp only [counted]
  rfl

/-- Without a root secret a key command is refused (R406). -/
theorem State.serve_rootless (op : Nat → Frame → KeyAns) (key : keyCommand opcode = true) (booted : s.sys.booted = true) (runs : s.runs island = true)
    (idle : s.flag F.CFR_LC_STATE_ERASE_PEND = false) (fail : s.flag F.CFR_STAT_ROOT_FAIL = true) (frame : readFrame b = some f)
    (own : f.opcode = opcode) : ∃ t, (.next (s.serve (.path island b) opcode op) : Host.Outcome State Fault Refusal) = .next t
      ∧ KeyRefused 0x0E0F s t := by
  obtain ⟨c, e⟩ := State.serve_path op (by simp [State.cofferAnswers, booted, fail, key]) runs idle frame own
  refine ⟨_, congrArg Host.Outcome.next e, ?_⟩
  rw [State.rooted, if_pos (by simp [fail, key])]
  exact KeyAns.shown_refused c s (by decide)

/-- What Coffer does not answer is not served. -/
theorem State.serve_unanswered (silent : s.cofferAnswers opcode = false) (q : KeyReq) (op : Nat → Frame → KeyAns) : s.serve q opcode op = s := by
  unfold State.serve
  rw [silent]
  simp

/-- While an erasure is pending nothing is served (R423). -/
theorem State.serve_erasing (pending : s.flag F.CFR_LC_STATE_ERASE_PEND = true) (q : KeyReq) (opcode : Nat) (op : Nat → Frame → KeyAns) :
    s.serve q opcode op = s := by
  unfold State.serve
  rw [pending]
  rfl

/-- A request that Coffer serves is answered with its operation's answer. -/
theorem Asks.serves (asks : Asks s island b opcode f) (op : Nat → Frame → KeyAns) :
    ∃ c, s.serve (.path island b) opcode op = (op island f).shown c := by
  obtain ⟨coffer, runs, idle, root, frame, own⟩ := asks
  obtain ⟨c, e⟩ := State.serve_path op (by simp [State.cofferAnswers, coffer]) runs idle frame own
  refine ⟨c, e.trans ?_⟩
  rw [State.rooted, if_neg (by simp [root])]

/-- An operation that refuses a request changes no slot. -/
theorem Asks.refuses (asks : Asks s island b opcode f) (op : Nat → Frame → KeyAns) {code : Nat} (h : op island f = refuse s code) (small : code < 2 ^ 16) :
    ∃ t, (.next (s.serve (.path island b) opcode op) : Host.Outcome State Fault Refusal) = .next t ∧ KeyRefused code s t := by
  obtain ⟨c, e⟩ := asks.serves op
  refine ⟨_, congrArg Host.Outcome.next e, ?_⟩
  rw [h]
  exact KeyAns.shown_refused c s small

/-- An operation that accepts a request is answered with 0E00h and its output. -/
theorem Asks.accepts (asks : Asks s island b opcode f) (op : Nat → Frame → KeyAns) {u : State} {out : List Byte} (h : op island f = accept u out) :
    ∃ c, s.serve (.path island b) opcode op = (accept u out).shown c ∧ Replied 0x0E00 out ((accept u out).shown c) := by
  obtain ⟨c, e⟩ := asks.serves op
  exact ⟨c, by rw [e, h], (accept u out).shown_replied c (by decide : (0x0E00 : Nat) < 2 ^ 16)⟩

end Asks

end Sys2Proof.Machine
end

section
/-! SUPPORT. Key commands without a root secret: an island that runs while the device is held in reset gets no answer. -/

namespace Sys2Proof.Machine

open Sys2Proof

/-- A device held in reset, whose root secret is lost; Ember runs all the same (R443). -/
def rootlessReset : State := State.reset.setFld F.CFR_STAT_ROOT_FAIL 0 1

/-- A GENERATE frame without a body. -/
def bareGenerate : List Byte := leBytes 2 1 ++ leBytes 30 0

theorem readFrame_bareGenerate : readFrame bareGenerate = some ⟨bareGenerate, 1, 0, 0, 0, 0, [], []⟩ := by decide

/-- Coffer does not run in reset, and answers no key command there, root secret or not. -/
theorem rootlessReset_silent : rootlessReset.cofferAnswers 1 = false := by decide

/-- Refutes O56: an island may run while the device is held in reset (island 8, and a spared island 5), and Coffer, which is held in reset,
gives its key command no answer at all: no 0E0Fh is shown, though the root secret is lost. -/
theorem not_keysAreCreatedMovedAndDestroyed : ¬ Obligations.KeysAreCreatedMovedAndDestroyed := by
  unfold Obligations.KeysAreCreatedMovedAndDestroyed
  rintro ⟨-, rootless, -⟩
  obtain ⟨t, answered, ⟨answer, -⟩, -⟩ := rootless rootlessReset 8 bareGenerate _ (1, .generateKey (.path 8 bareGenerate)) (by decide) (by decide) (by decide)
    readFrame_bareGenerate rfl (by simp)
  have unanswered : exec (.generateKey (.path 8 bareGenerate)) rootlessReset = .next rootlessReset :=
    congrArg Host.Outcome.next (State.serve_unanswered rootlessReset_silent _ _)
  obtain rfl : rootlessReset = t := Host.Outcome.next.inj (unanswered.symm.trans answered)
  exact absurd answer (by decide)

end Sys2Proof.Machine
end

section
/-! SUPPORT. Reads and writes of units, and what the operations under a key answer. -/

namespace Sys2Proof.Machine

open Sys2Proof

/-! ### Reads and writes of units -/

section Units

variable {s : State} {w : Initiator} {a n : Nat} {b : List Byte}

/-- The registers of a bus error (R40). -/
def busErrorRegs : List Reg := [.SYS_BUSERR_ADDR_LO, .SYS_BUSERR_ADDR_HI, .SYS_BUSERR_INFO]

theorem State.busError_kept (s : State) (w : Initiator) (a : Nat) (write : Bool) (code : Nat) :
    RegsKept busErrorRegs s (s.busError w a write code) ∧ MemKept s (s.busError w a write code) := by
  obtain ⟨-, regs, mem, -⟩ := s.busError_taken w a write code
  exact ⟨regs, mem⟩

/-- A unit's read changes nothing but what a bus error latches. -/
theorem State.fetch_kept (s : State) (w : Initiator) (a n : Nat) : RegsKept busErrorRegs s (s.fetch w a n).2 ∧ MemKept s (s.fetch w a n).2 := by
  unfold State.fetch
  split
  · exact ⟨.refl _ s, .refl s⟩
  · exact s.busError_kept w a false _

/-- Scribe's counters have no part in what a unit reads. -/
theorem State.fetch_fst_scb (s : State) (c : Scb) (w : Initiator) (a n : Nat) : (State.fetch { s with scb := c } w a n).1 = (s.fetch w a n).1 := by
  have fault : State.unitFault { s with scb := c } w a n false = s.unitFault w a n false := rfl
  unfold State.fetch
  rw [fault]
  split
  · exact congrArg (fun b => if s.inRam a n then some b else none) (State.bytes_of_mem (s := s) (t := { s with scb := c }) rfl a n)
  · rfl

/-- A write is taken in RAM where no bus error ends it. -/
theorem State.unitWrite_taken (some : b ≠ []) (taken : (s.unitWrite w a b).1 = true) : s.unitFault w a b.length true = 0 ∧ s.inRam a b.length = true := by
  cases fault : s.unitFault w a b.length true with
  | zero =>
    rw [State.unitWrite_ok some fault] at taken
    exact ⟨rfl, taken⟩
  | succ c =>
    rw [State.unitWrite_fault some fault] at taken
    cases taken

/-- A taken write stores its bytes, but in an absent engine's memory. -/
theorem State.unitWrite_stores (some : b ≠ []) (taken : (s.unitWrite w a b).1 = true) :
    s.unitWrite w a b = (true, if s.absentEngineAt a b.length then s else s.setBytes a b) := by
  obtain ⟨fault, ram⟩ := State.unitWrite_taken some taken
  rw [State.unitWrite_ok some fault, ram]
  cases s.absentEngineAt a b.length <;> rfl

/-- A write that is not taken stores nothing. -/
theorem State.unitWrite_lost (some : b ≠ []) (lost : (s.unitWrite w a b).1 = false) :
    RegsKept busErrorRegs s (s.unitWrite w a b).2 ∧ MemKept s (s.unitWrite w a b).2 := by
  cases fault : s.unitFault w a b.length true with
  | zero =>
    rw [State.unitWrite_ok some fault] at lost ⊢
    have lost : s.inRam a b.length = false := lost
    simp only [lost, Bool.false_and, Bool.false_eq_true, if_false]
    exact ⟨.refl _ s, .refl s⟩
  | succ c =>
    rw [State.unitWrite_fault some fault]
    exact s.busError_kept w a true _

theorem State.unitWrite_fst_scb (s : State) (c : Scb) (w : Initiator) (a : Nat) (b : List Byte) :
    (State.unitWrite { s with scb := c } w a b).1 = (s.unitWrite w a b).1 := by
  have fault : State.unitFault { s with scb := c } w a b.length true = s.unitFault w a b.length true := rfl
  unfold State.unitWrite
  rw [fault]
  split
  · rfl
  · split <;> rfl

/-- What a taken write leaves: memory as without the change of the counters, and every register. -/
theorem State.unitWrite_taken_scb (some : b ≠ []) (taken : (s.unitWrite w a b).1 = true) (c : Scb) :
    (State.unitWrite { s with scb := c } w a b).2.mem = (s.unitWrite w a b).2.mem ∧ (State.unitWrite { s with scb := c } w a b).2.regs = s.regs := by
  have absent : State.absentEngineAt { s with scb := c } a b.length = s.absentEngineAt a b.length := rfl
  rw [State.unitWrite_stores some taken, State.unitWrite_stores some ((s.unitWrite_fst_scb c w a b).trans taken), absent]
  cases s.absentEngineAt a b.length
  · exact ⟨State.setBytes_mem_congr (s := s) (u := { s with scb := c }) rfl a b, State.setBytes_regs _ a b⟩
  · exact ⟨rfl, rfl⟩

end Units

/-! ### The use of a slot -/

section Use

variable {s : State} {n island usage : Nat} {k : List Byte}

theorem State.useCode_small (s : State) (n island usage : Nat) : s.useCode n island usage < 2 ^ 16 := by
  unfold State.useCode
  split
  · decide
  split
  · decide
  split
  · decide
  split
  · decide
  split <;> decide

/-- Only its owner uses a slot that is not shared (R410). -/
theorem State.useCode_owner (root : s.flag F.CFR_STAT_ROOT_FAIL = false) (live : s.slotLive n = true) (owned : s.fld F.CFR_SLOT_ATTR_LO_OWNER n ≠ 15)
    (other : s.fld F.CFR_SLOT_ATTR_LO_OWNER n ≠ island) : s.useCode n island usage = 0x0E04 := by
  unfold State.useCode
  rw [root, live, if_neg (by simp), if_neg (by simp), if_pos (And.intro owned other)]

/-- A usage that the attributes do not name is refused (R409). -/
theorem State.useCode_usage (root : s.flag F.CFR_STAT_ROOT_FAIL = false) (live : s.slotLive n = true)
    (owner : s.fld F.CFR_SLOT_ATTR_LO_OWNER n = 15 ∨ s.fld F.CFR_SLOT_ATTR_LO_OWNER n = island)
    (deaf : bitOf (s.fld F.CFR_SLOT_ATTR_HI_USAGE n) usage = false) : s.useCode n island usage = 0x0E05 := by
  unfold State.useCode
  rw [root, live, if_neg (by simp), if_neg (by simp), if_neg (fun h => owner.elim h.1 h.2), deaf]
  rfl

/-- A key is used where its attributes allow it. -/
theorem State.slotKey_eq_some : s.slotKey n island usage = some k ↔ s.useCode n island usage = 0 ∧ (s.keySlot n).active = some k := by
  unfold State.slotKey
  split
  case isTrue allowed => simp [allowed]
  case isFalse refused => simp [refused]

theorem State.slotKey_eq_none (refused : s.useCode n island usage ≠ 0) : s.slotKey n island usage = none := if_neg refused

/-- The active key is the first that OPEN and VERIFY try. -/
theorem State.slotKeys_cons (key : s.slotKey n island usage = some k) :
    s.slotKeys n island usage = k :: ((s.keySlot n).prev.toList ++ (s.stagedKey n).toList) := by
  obtain ⟨allowed, active⟩ := State.slotKey_eq_some.1 key
  unfold State.slotKeys
  rw [if_pos allowed, active]
  rfl

end Use

/-! ### What the operations answer -/

section Answers

variable {s : State} {island : Nat} {f : Frame} {k : List Byte}

theorem State.signFrame_refuses (refused : s.useCode f.slot island 0 ≠ 0) : s.signFrame island f = refuse s (s.useCode f.slot island 0) := by
  rw [State.signFrame, State.slotKey_eq_none refused]

theorem State.signFrame_signs (key : s.slotKey f.slot island 0 = some k) :
    s.signFrame island f = accept s.tick (Config.sign (s.slotAlg f.slot) k f.body (f.arg.testBit 0) (s.fresh 256)) := by
  rw [State.signFrame, key]

/-- VERIFY passes where some key of the slot verifies the signature (R416). -/
theorem State.verifyFrame_answers (allowed : s.useCode f.slot island 1 = 0) (fits : 8 + u16 f.body 0 ≤ f.body.length) (zero : uN f.body 2 6 = 0) :
    s.verifyFrame island f = KeyAns.mk (if ∃ k ∈ s.slotKeys f.slot island 1, Config.sigVerify (s.slotAlg f.slot) k (f.body.drop (8 + u16 f.body 0))
      (slice f.body 8 (u16 f.body 0)) (f.arg.testBit 0) = true then 0x0E00 else 0x0E02) [] s := by
  unfold State.verifyFrame
  dsimp only
  rw [if_neg (by omega), if_neg (not_not_intro allowed)]
  simp only [← List.any_eq_true]
  split <;> rfl

/-- The parts of the body of SEAL and OPEN: nonce, length of the associated data, associated data, text. -/
theorem sealBody_parts {nonce aad text : List Byte} (nonce12 : nonce.length = 12) (small : aad.length < 2 ^ 32)
    (body : f.body = nonce ++ leBytes 4 aad.length ++ aad ++ text) :
    u32 f.body 12 = aad.length ∧ 16 + aad.length ≤ f.body.length ∧ f.body.take 12 = nonce ∧ slice f.body 16 aad.length = aad
      ∧ f.body.drop (16 + aad.length) = text := by
  have head : (nonce ++ leBytes 4 aad.length).length = 16 := by simp [nonce12, length_leBytes]
  rw [body]
  refine ⟨?_, ?_, ?_, ?_, ?_⟩
  · rw [List.append_assoc, u32_append_left (by omega), u32_append_right (by omega), nonce12]
    exact (uN_leBytes 4 _).trans (Nat.mod_eq_of_lt small)
  · simp only [List.length_append, head] at *
    omega
  · rw [List.append_assoc, List.append_assoc]
    exact nonce12 ▸ List.take_left
  · rw [List.append_assoc, slice_append_right (by omega), head]
    exact slice_front rfl
  · have front : (nonce ++ leBytes 4 aad.length ++ aad).length = 16 + aad.length := by rw [List.length_append, head]
    exact front ▸ List.drop_left

theorem State.sealFrame_seals {nonce aad text : List Byte} (key : s.slotKey f.slot island 2 = some k) (nonce12 : nonce.length = 12)
    (small : aad.length < 2 ^ 32) (body : f.body = nonce ++ leBytes 4 aad.length ++ aad ++ text) :
    s.sealFrame island f = accept s (gcmSeal k nonce aad text) := by
  obtain ⟨length, fits, nonceAt, aadAt, textAt⟩ := sealBody_parts nonce12 small body
  unfold State.sealFrame
  rw [length, if_neg (by omega), key, nonceAt, aadAt, textAt]

theorem State.openFrame_opens {nonce aad text : List Byte} (key : s.slotKey f.slot island 2 = some k) (nonce12 : nonce.length = 12)
    (small : aad.length < 2 ^ 32) (body : f.body = nonce ++ leBytes 4 aad.length ++ aad ++ gcmSeal k nonce aad text) :
    s.openFrame island f = accept s text := by
  obtain ⟨length, fits, nonceAt, aadAt, textAt⟩ := sealBody_parts nonce12 small body
  unfold State.openFrame
  rw [length, if_neg (by omega), if_neg (not_not_intro (State.slotKey_eq_some.1 key).1), nonceAt, aadAt, textAt, State.slotKeys_cons key,
    List.findSome?_cons_of_isSome (by rw [gcmOpen_gcmSeal]; rfl), gcmOpen_gcmSeal]

theorem State.hashFrame_answers (valid : f.arg ≤ 1) : s.hashFrame f = accept s (if f.arg = 0 then sha256 f.body else sha384 f.body) := by
  unfold State.hashFrame
  by_cases zero : f.arg = 0
  · rw [if_pos zero, if_pos zero]
  · rw [if_neg zero, if_pos (by omega), if_neg zero]

theorem State.getPublic_answers (empty : f.body = []) (root : s.flag F.CFR_STAT_ROOT_FAIL = false) (live : s.slotLive f.slot = true)
    (chain : s.chainOk 5 f.slot = true) (active : (s.keySlot f.slot).active = some k) :
    s.getPublic f = if bitOf (s.fld F.CFR_SLOT_ATTR_HI_USAGE f.slot) 1 then
        accept s (if s.flag F.CFR_SLOT_ATTR_LO_PUB f.slot then k else Config.publicOf (s.slotAlg f.slot) k)
      else refuse s 0x0E05 := by
  unfold State.getPublic
  rw [if_neg (not_not_intro empty), root, live, chain, active]
  cases bitOf (s.fld F.CFR_SLOT_ATTR_HI_USAGE f.slot) 1 <;> rfl

theorem State.attest_answers (size : f.body.length = 34) (ident : u8 f.body 32 ≤ 1) (side : u8 f.body 33 = 0) (live : s.slotLive f.slot = true)
    (key : s.slotKey (u8 f.body 32) island 16 = some k) :
    s.attest island f = accept s.tick (s.statement f.slot (u8 f.body 32) false (f.body.take 32)
      ++ Config.sign (u8 f.body 32 + 1) k (s.statement f.slot (u8 f.body 32) false (f.body.take 32)) false (s.fresh 256)) := by
  have active : decide (u8 f.body 33 = 1) = false := by simp [side]
  unfold State.attest
  dsimp only
  rw [if_neg (by omega), active, live, key]
  rfl

theorem State.getCert_answers (size : f.body.length = 1) (ident : u8 f.body 0 ≤ 1) : s.getCert f = accept s (Config.makerCert (u8 f.body 0)) :=
  if_neg (by omega)

end Answers

/-! ### A request at a channel -/

section Channels

variable {s : State} {c : Nat} {f : Frame}

/-- The state after a served frame at a channel, of which the state with its output is `u`. -/
def State.channelShows (u : State) (c len code : Nat) : State :=
  (((u.setFld F.CFR_CH_STAT_BUSY c 0).setFld F.CFR_CH_STAT_OUT_LEN c len).setFld F.CFR_CH_STAT_CODE c code).setFld F.CFR_STAT_CODE 0 code

theorem State.channelShows_busy (u : State) (c len code : Nat) : (u.channelShows c len code).flag F.CFR_CH_STAT_BUSY c = false := by
  simp [State.channelShows]

theorem State.channelShows_code (u : State) (c len : Nat) {code : Nat} (small : code < 2 ^ 16) :
    (u.channelShows c len code).fld F.CFR_CH_STAT_CODE c = code := by
  simpa [State.channelShows, Fld.width] using small

theorem State.channelShows_len (u : State) (c : Nat) {len : Nat} (code : Nat) (small : len < 2 ^ 15) :
    (u.channelShows c len code).fld F.CFR_CH_STAT_OUT_LEN c = len := by
  simpa [State.channelShows, Fld.width] using small

theorem State.channelShows_regs (u : State) (c len code : Nat) : CellsKept [(.CFR_CH_STAT, c), (.CFR_STAT, 0)] u (u.channelShows c len code) := by
  simp [State.channelShows]

theorem State.channelFrame_aligned (aligned : s.pair .CFR_CH_ADDR_LO .CFR_CH_ADDR_HI c % 8 = 0) :
    s.channelFrame c = s.fetch cofferPort (s.pair .CFR_CH_ADDR_LO .CFR_CH_ADDR_HI c) (s.fld F.CFR_CH_LEN_LEN c) := if_pos aligned

theorem State.channelFrame_unaligned (aligned : ¬ s.pair .CFR_CH_ADDR_LO .CFR_CH_ADDR_HI c % 8 = 0) : s.channelFrame c = (none, s) := if_neg aligned

/-- A frame that a channel could read is the frame of the state itself. -/
theorem State.channelFrame_some (frame : (s.channelFrame c).1.bind readFrame = some f) : (s.channelFrame c).2 = s := by
  by_cases aligned : s.pair .CFR_CH_ADDR_LO .CFR_CH_ADDR_HI c % 8 = 0
  · rw [State.channelFrame_aligned aligned] at frame ⊢
    obtain ⟨b, read, -⟩ := Option.bind_eq_some_iff.1 frame
    rw [(State.fetch_some read).1]
  · rw [State.channelFrame_unaligned aligned]

/-- Reading a channel's frame changes nothing but what a bus error latches. -/
theorem State.channelFrame_kept (s : State) (c : Nat) : RegsKept busErrorRegs s (s.channelFrame c).2 ∧ MemKept s (s.channelFrame c).2 := by
  by_cases aligned : s.pair .CFR_CH_ADDR_LO .CFR_CH_ADDR_HI c % 8 = 0
  · rw [State.channelFrame_aligned aligned]
    exact s.fetch_kept _ _ _
  · rw [State.channelFrame_unaligned aligned]
    exact ⟨.refl _ s, .refl s⟩

theorem served_channelFrame (s : State) (who : Initiator) (c : Nat) : ((served s who).channelFrame c).1 = (s.channelFrame c).1 := by
  obtain ⟨x, e⟩ := served_scb s who 4
  rw [e]
  by_cases aligned : s.pair .CFR_CH_ADDR_LO .CFR_CH_ADDR_HI c % 8 = 0
  · rw [State.channelFrame_aligned (s := { s with scb := x }) aligned, State.channelFrame_aligned aligned]
    exact s.fetch_fst_scb x cofferPort _ _
  · rw [State.channelFrame_unaligned (s := { s with scb := x }) aligned, State.channelFrame_unaligned aligned]

/-- A digest that a unit wrote, shown at its channel. -/
theorem State.channelShows_digest {u : State} {a : Nat} {d : List Byte} (length : d.length = 32) (taken : (s.unitWrite cofferPort a d).1 = true)
    (mem : u.mem = (s.unitWrite cofferPort a d).2.mem) (regs : u.regs = s.regs) :
    let t := u.channelShows c 8 0x0E00
    t.mem = (s.unitWrite cofferPort a d).2.mem ∧ t.fld F.CFR_CH_STAT_CODE c = 0x0E00 ∧ t.fld F.CFR_CH_STAT_OUT_LEN c = 8
      ∧ (s.absentEngineAt a 32 = false → t.bytes a 32 = d ∧ ∀ x, x < a ∨ a + 32 ≤ x → t.byte x = s.byte x)
      ∧ CellsKept [(.CFR_CH_STAT, c), (.CFR_STAT, 0)] s t := by
  have some : d ≠ [] := List.ne_nil_of_length_pos (by rw [length]; decide)
  refine ⟨mem, u.channelShows_code _ _ (by decide), u.channelShows_len _ _ (by decide), fun present => ?_,
    (cellsKept_of_regs regs).trans (u.channelShows_regs _ _ _)⟩
  have memory : (u.channelShows c 8 0x0E00).mem = (s.setBytes a d).mem := by
    refine Eq.trans mem ?_
    rw [State.unitWrite_stores some taken, length, present]
    rfl
  refine ⟨(State.bytes_of_mem memory a 32).trans (s.bytes_setBytes_of_length a length), fun x outside => ?_⟩
  exact (memKept_of_mem memory x).trans (s.byte_setBytes_outside a d x (by omega))

theorem length_sha256 (data : List Byte) : (sha256 data).length = 32 := length_leBytes 32 _

theorem sha256_ne_nil (data : List Byte) : sha256 data ≠ [] := List.ne_nil_of_length_pos (by rw [length_sha256]; decide)

/-- An answer whose output does not fit is not written. -/
theorem State.channelAnswer_long {r : KeyAns} (long : f.outMax < r.out.length) : s.channelAnswer c f r = s.channelShows c 0 0x0E01 := by
  have not_le : ¬ r.out.length ≤ f.outMax := by omega
  unfold State.channelAnswer State.channelShows
  simp only [not_le, decide_false, Bool.false_and, Bool.false_eq_true, if_false]

/-- An answer whose output is not taken is not written. -/
theorem State.channelAnswer_lost {r : KeyAns} (fits : r.out.length ≤ f.outMax) (lost : (r.st.unitWrite cofferPort f.out r.out).1 = false) :
    s.channelAnswer c f r = (s.unitWrite cofferPort f.out r.out).2.channelShows c 0 0x0E01 := by
  unfold State.channelAnswer State.channelShows
  simp only [lost, fits, decide_true, Bool.and_false, Bool.false_eq_true, if_false, if_true]

/-- An answer whose output is taken shows its code and length. -/
theorem State.channelAnswer_taken {r : KeyAns} (fits : r.out.length ≤ f.outMax) (taken : (r.st.unitWrite cofferPort f.out r.out).1 = true) :
    s.channelAnswer c f r = (r.st.unitWrite cofferPort f.out r.out).2.channelShows c ((r.out.length + 3) / 4) r.code := by
  unfold State.channelAnswer State.channelShows
  simp only [taken, fits, decide_true, Bool.and_self, if_true]

/-- A HASH frame at a channel is answered with the digest of its body. -/
theorem State.serve_hash (runs : s.runs 7 = true) (idle : s.flag F.CFR_LC_STATE_ERASE_PEND = false)
    (frame : (s.channelFrame c).1.bind readFrame = some f) (own : f.opcode = 0x14) (plain : c ≠ 12) (sha : f.arg = 0) :
    ∃ x, s.serve (.channel c) 0x14 (fun _ f => s.hashFrame f) = s.channelAnswer c f (accept { s with scb := x } (sha256 f.body)) := by
  obtain ⟨x, counted⟩ := (s.hashFrame f).counted_scb (s.slotAlg f.slot)
  rw [State.hashFrame_answers (by omega), if_pos sha] at counted
  refine ⟨x, ?_⟩
  unfold State.serve
  rw [idle, show s.cofferAnswers 0x14 = true by simp [State.cofferAnswers, runs]]
  simp only [Bool.not_true, Bool.or_self, Bool.false_eq_true, if_false]
  rw [frame, State.channelFrame_some frame, State.serveChannel, if_neg (not_not_intro own), if_pos (by simp [channelMay, plain]),
    State.rooted, if_neg (by simp [keyCommand]), State.hashFrame_answers (by omega), if_pos sha, counted]
  rfl

/-- GO of a readable frame that the channel may ask for waits for its engine. -/
theorem State.channelGo_asked (free : s.flag F.CFR_CH_STAT_BUSY c = false) (frame : (s.channelFrame c).1.bind readFrame = some f)
    (listed : f.opcode ∈ opcodes) (may : channelMay c f.opcode = true) : s.channelGo c = s.setFld F.CFR_CH_STAT_BUSY c 1 := by
  unfold State.channelGo
  dsimp only
  rw [free, frame, if_neg Bool.false_ne_true]
  exact if_pos (by simp [listed, may])

/-- GO of a malformed frame is refused (R418). -/
theorem State.channelGo_malformed (free : s.flag F.CFR_CH_STAT_BUSY c = false) (frame : (s.channelFrame c).1.bind readFrame = none) :
    s.channelGo c = ((s.channelFrame c).2.setFld F.CFR_CH_STAT_CODE c 0x0E01).setFld F.CFR_STAT_CODE 0 0x0E01 := by
  unfold State.channelGo
  dsimp only
  rw [free, frame]
  rfl

/-- What a refused GO leaves: its code, and what a bus error of the read latched. -/
theorem State.channelRefused_spec {u : State} (regs : RegsKept busErrorRegs s u) (mem : MemKept s u) (free : s.flag F.CFR_CH_STAT_BUSY c = false) :
    let t := { (u.setFld F.CFR_CH_STAT_CODE c 0x0E01).setFld F.CFR_STAT_CODE 0 0x0E01 with resp := .done }
    t.fld F.CFR_CH_STAT_CODE c = 0x0E01 ∧ t.flag F.CFR_CH_STAT_BUSY c = false ∧ MemKept s t ∧ t.resp = .done
      ∧ RegsKept [.CFR_CH_STAT, .CFR_STAT, .SYS_BUSERR_ADDR_LO, .SYS_BUSERR_ADDR_HI, .SYS_BUSERR_INFO] s t := by
  have busy : u.flag F.CFR_CH_STAT_BUSY c = false := (regs.flag (by decide) c).trans free
  have kept := regs.mono (qs := .CFR_CH_STAT :: .CFR_STAT :: busErrorRegs) (by simp)
  refine ⟨by simp [Fld.width], by simpa using busy, mem.trans (memKept_of_mem rfl), rfl, by simpa [busErrorRegs] using kept⟩

end Channels

end Sys2Proof.Machine
end

section
/-! SUPPORT. Keys are used by their attributes: the clauses on private paths and on channels. -/

namespace Sys2Proof.Machine

open Sys2Proof

section Hash

variable {s : State} {c : Nat} {f : Frame}

/-- The digest of a HASH frame at a channel is written where it fits. -/
theorem exec_hash_channel (runs : s.runs 7 = true) (idle : s.flag F.CFR_LC_STATE_ERASE_PEND = false)
    (frame : (s.channelFrame c).1.bind readFrame = some f) (own : f.opcode = 0x14) (plain : c ≠ 12) (sha : f.arg = 0) :
    let w := s.unitWrite cofferPort f.out (sha256 f.body)
    ∃ t, exec (.hashData (.channel c)) s = .next t ∧ t.flag F.CFR_CH_STAT_BUSY c = false
      ∧ (32 ≤ f.outMax → w.1 = true → t.mem = w.2.mem ∧ t.fld F.CFR_CH_STAT_CODE c = 0x0E00 ∧ t.fld F.CFR_CH_STAT_OUT_LEN c = 8
        ∧ (s.absentEngineAt f.out 32 = false → t.bytes f.out 32 = sha256 f.body ∧ ∀ a, a < f.out ∨ f.out + 32 ≤ a → t.byte a = s.byte a))
      ∧ (f.outMax < 32 ∨ w.1 = false → t.fld F.CFR_CH_STAT_CODE c = 0x0E01 ∧ MemKept s t)
      ∧ (f.outMax < 32 ∨ w.1 = true → CellsKept [(.CFR_CH_STAT, c), (.CFR_STAT, 0)] s t) := by
  intro w
  obtain ⟨x, e⟩ := State.serve_hash runs idle frame own plain sha
  have length : (accept { s with scb := x } (sha256 f.body)).out.length = 32 := length_sha256 f.body
  have same : ((accept { s with scb := x } (sha256 f.body)).st.unitWrite cofferPort f.out (sha256 f.body)).1 = w.1 :=
    s.unitWrite_fst_scb x cofferPort f.out (sha256 f.body)
  refine ⟨_, congrArg Host.Outcome.next e, ?_⟩
  by_cases long : f.outMax < 32
  · rw [State.channelAnswer_long (length ▸ long)]
    exact ⟨State.channelShows_busy .., fun fits => absurd long (by omega), fun _ => ⟨State.channelShows_code _ _ _ (by decide), memKept_of_mem rfl⟩,
      fun _ => s.channelShows_regs _ _ _⟩
  have fits : (accept { s with scb := x } (sha256 f.body)).out.length ≤ f.outMax := by omega
  cases taken : w.1 with
  | false =>
    rw [State.channelAnswer_lost fits (same.trans taken)]
    obtain ⟨regs, mem⟩ := State.unitWrite_lost (sha256_ne_nil f.body) taken
    refine ⟨State.channelShows_busy .., fun _ h => absurd h (by decide), fun _ => ⟨State.channelShows_code _ _ _ (by decide), mem.trans (memKept_of_mem rfl)⟩,
      fun h => absurd h (by simp [long])⟩
  | true =>
    rw [State.channelAnswer_taken fits (same.trans taken), length]
    obtain ⟨mem, regs⟩ := State.unitWrite_taken_scb (sha256_ne_nil f.body) taken x
    obtain ⟨memory, code, len, stored, kept⟩ := State.channelShows_digest (c := c) (length_sha256 f.body) taken mem regs
    exact ⟨State.channelShows_busy _ _ _ _, fun _ _ => ⟨memory, code, len, stored⟩, fun h => absurd h (by simp [long]), fun _ => kept⟩

end Hash

/-- Settles O57: the clauses of each operation are its answer, shown on its path or at its channel. -/
theorem keysAreUsedByTheirAttributes : Obligations.KeysAreUsedByTheirAttributes := by
  unfold Obligations.KeysAreUsedByTheirAttributes
  refine ⟨fun s island b f refused asks => ?noSign, fun s n island usage root live => ?codes, fun s island b k f key asks => ?sign,
    fun s island b f allowed asks fits zero => ?verify, fun s island b k nonce aad text f key nonce12 small => ⟨fun asks body => ?seals, fun asks body => ?opens⟩,
    fun s island b f asks valid => ?hash, fun s c f runs idle frame own plain sha => exec_hash_channel runs idle frame own plain sha,
    fun s island b key f asks empty root live chain active => ⟨fun deaf => ?noPublic, fun use => ?pub⟩,
    fun s island b k f asks size ident side live key => ?attest, fun s island b f asks size ident => ?cert, fun s who c reaches => ?go⟩
  case noSign => exact asks.refuses _ (State.signFrame_refuses refused) (s.useCode_small ..)
  case codes => exact ⟨State.useCode_owner root live, State.useCode_usage root live⟩
  case sign =>
    obtain ⟨c, e, replied⟩ := asks.accepts (fun i f => s.signFrame i f) (State.signFrame_signs key)
    exact ⟨_, congrArg Host.Outcome.next e, rfl, replied⟩
  case verify =>
    obtain ⟨c, e⟩ := asks.serves (fun i f => s.verifyFrame i f)
    refine ⟨_, congrArg Host.Outcome.next e, ?_⟩
    rw [State.verifyFrame_answers allowed fits zero]
    refine ⟨rfl, KeyAns.shown_replied _ c ?_⟩
    dsimp only
    split <;> decide
  case seals =>
    obtain ⟨c, e, replied⟩ := asks.accepts (fun i f => s.sealFrame i f) (State.sealFrame_seals key nonce12 small body)
    exact ⟨_, congrArg Host.Outcome.next e, rfl, replied⟩
  case opens =>
    obtain ⟨c, e, replied⟩ := asks.accepts (fun i f => s.openFrame i f) (State.openFrame_opens key nonce12 small body)
    exact ⟨_, congrArg Host.Outcome.next e, rfl, replied⟩
  case hash =>
    obtain ⟨c, e, replied⟩ := asks.accepts (fun _ f => s.hashFrame f) (State.hashFrame_answers valid)
    exact ⟨_, congrArg Host.Outcome.next e, replied, rfl, by simp [accept]⟩
  case noPublic =>
    exact asks.refuses (fun _ f => s.getPublic f) ((State.getPublic_answers empty root live chain active).trans (by rw [deaf]; rfl)) (by decide)
  case pub =>
    obtain ⟨c, e, replied⟩ := asks.accepts (fun _ f => s.getPublic f) ((State.getPublic_answers empty root live chain active).trans (if_pos use))
    exact ⟨_, congrArg Host.Outcome.next e, rfl, replied⟩
  case attest =>
    obtain ⟨c, e, replied⟩ := asks.accepts (fun i f => s.attest i f) (State.attest_answers size ident side live key)
    exact ⟨_, congrArg Host.Outcome.next e, replied, rfl, by simp [accept]⟩
  case cert =>
    obtain ⟨c, e, replied⟩ := asks.accepts (fun _ f => s.getCert f) (State.getCert_answers size ident)
    exact ⟨_, congrArg Host.Outcome.next e, replied, by simp [accept]⟩
  case go =>
    have write : exec (.cfrChGo who c) s = .next { (served s who).when (decide (c ≠ 12 ∨ who.port = 14)) (fun u => u.channelGo c) with resp := .done } :=
      congrArg Host.Outcome.next (rowWrite_reaches s who _ _ _ reaches)
    refine ⟨fun ⟨jtag, other⟩ => ?shut, fun may => ⟨fun busy => ?busy, fun free => ⟨fun f frame listed ask => ?taken, fun none => ?bad⟩⟩⟩
    case shut => rw [write, State.when, if_neg (by simp [jtag, other])]
    all_goals rw [write, State.when, if_pos (by simpa using may)]
    case busy =>
      rw [State.channelGo, if_pos (by simpa using busy)]
    case taken => rw [State.channelGo_asked (by simpa using free) (by rw [served_channelFrame, frame]) listed ask]
    case bad =>
      obtain ⟨regs, mem⟩ := (served s who).channelFrame_kept c
      rw [State.channelGo_malformed (by simpa using free) (by rw [served_channelFrame, none])]
      exact ⟨_, rfl, State.channelRefused_spec (((regsKept_served s who 4).2 (.refl _ s)).trans regs) (((memKept_served s who 4).2 (.refl s)).trans mem) free⟩

end Sys2Proof.Machine
end

section
/-! SUPPORT. Resets: which registers and keys they leave. -/

namespace Sys2Proof.Machine

open Sys2Proof

variable (s : State)

/-! ### Registers dropped to their reset values -/

theorem cellGet?_filter_key {κ α : Type} [DecidableEq κ] {p : κ → Bool} {k : κ} (l : List (κ × α)) :
    cellGet? k (l.filter fun c => p c.1) = if p k then cellGet? k l else none := by
  induction l with
  | nil => simp [cellGet?]
  | cons c t ih =>
    by_cases own : c.1 = k
    · subst own
      by_cases kept : p c.1 <;> simp [kept, cellGet?, ih]
    · by_cases kept : p c.1 <;> simp [kept, cellGet?, own, ih]

theorem State.reg_dropRegs (ds : List Dom) (r : Reg) (i : Nat) : (s.dropRegs ds).reg r i = if r.dom ∈ ds then r.resetVal else s.reg r i := by
  unfold State.reg State.dropRegs
  dsimp only
  rw [cellGet?_filter_key (p := fun k : RegKey => !ds.contains k.1.dom)]
  by_cases dropped : r.dom ∈ ds <;> simp [dropped]

/-- A register of another domain keeps its word. -/
theorem State.reg_dropRegs_kept {ds : List Dom} {r : Reg} (kept : r.dom ∉ ds) (i : Nat) : (s.dropRegs ds).reg r i = s.reg r i := by
  rw [s.reg_dropRegs, if_neg kept]

/-! ### A reset of island 5 -/

/-- The registers that a held boundary, undone, gives back, and the sealed word that a reset spares. -/
def undoneRegs : List Reg := [.ASY_TARIFF, .ASY_INT_CFG, .ASY_INT_ANCHOR_LO, .ASY_INT_ANCHOR_HI, .ASY_CHK]

/-- Registers and Assay's record change, of the registers only the listed ones. -/
def AssayOnly (s t : State) : Prop := RegsKept undoneRegs s t ∧ t.cof = s.cof ∧ t.reports = s.reports

theorem AssayOnly.refl : AssayOnly s s := ⟨.refl _ s, rfl, rfl⟩

theorem AssayOnly.trans {s t u : State} (h : AssayOnly s t) (k : AssayOnly t u) : AssayOnly s u :=
  ⟨h.1.trans k.1, k.2.1.trans h.2.1, k.2.2.trans h.2.2⟩

theorem State.undo_assayOnly (h : Held_) : AssayOnly s (h.undo s) := by
  have start : AssayOnly s ((s.onAsy fun a => { a with switches := a.switches ++ h.taken }).setGrid h.was) :=
    ⟨by simp [State.setGrid, State.onAsy, undoneRegs], rfl, rfl⟩
  refine List.foldlRecOn (motive := AssayOnly s) h.pts _ start fun t before p _ => before.trans ⟨?_, rfl, rfl⟩
  exact RegsKept.trans ((regsKept_setFld (by simp [undoneRegs])).2 (.refl _ t)) (regsKept_of_regs rfl)

theorem State.undoHeld_assayOnly : AssayOnly s s.undoHeld := by
  have undone : AssayOnly s (s.asy.held.foldr Held_.undo (s.onAsy fun a => { a with held := [] })) :=
    List.foldrRecOn (motive := AssayOnly s) s.asy.held _ ⟨regsKept_of_regs rfl, rfl, rfl⟩ fun t before h _ => before.trans (t.undo_assayOnly h)
  refine undone.trans (State.each_induct (P := AssayOnly _) (.refl _) fun n _ t before => before.trans ⟨?_, rfl, rfl⟩)
  exact (regsKept_setFld (by simp [undoneRegs])).2 (.refl _ t)

theorem State.assayReset_reg (restart : Bool) {r : Reg} (dom : r.dom ≠ .assay) (other : r ∉ undoneRegs) (i : Nat) :
    (s.assayReset restart).reg r i = s.reg r i := by
  have sealed : r ≠ F.ASY_CHK_CHK_TOL.reg := fun e => other (by simp [undoneRegs, e])
  unfold State.assayReset State.keepingSeal
  rw [State.onAsy_reg, State.reg_setFld_other _ sealed, State.reg_dropRegs_kept _ (by simpa using dom)]
  exact s.undoHeld_assayOnly.1 r i other

theorem State.assayReset_cof (restart : Bool) : (s.assayReset restart).cof = s.cof := by
  unfold State.assayReset State.keepingSeal
  rw [State.onAsy_cof, State.setFld_cof, State.dropRegs_cof]
  exact s.undoHeld_assayOnly.2.1

/-! ### A device reset -/

/-- The registers of an emptied slot. -/
def slotRegs : List Reg := [.CFR_SLOT_ATTR_LO, .CFR_SLOT_ATTR_HI, .CFR_SLOT_PGEN, .CFR_SLOT_GEN, .CFR_SLOT_STAT]

/-- A slot without keys. -/
def KeySlot.blank : KeySlot := ⟨none, none, none, none⟩

theorem State.keySlot_emptySlot_same (n : Nat) : (s.emptySlot n).keySlot n = KeySlot.blank := (s.emptySlot_emptied n).1

/-- An emptied slot stays empty whichever slot is emptied. -/
theorem State.emptySlot_keeps_blank {n j : Nat} (h : s.keySlot n = KeySlot.blank) : (s.emptySlot j).keySlot n = KeySlot.blank := by
  by_cases same : n = j
  · rw [same]
    exact s.keySlot_emptySlot_same j
  · rw [s.keySlot_emptySlot_ne j same, h]

theorem State.emptySlots_regs (l : List Nat) : RegsKept slotRegs s (s.each l fun n t => t.emptySlot n) :=
  regsKept_each (.refl _ s) fun n _ t => (t.emptySlot_regs n).regsKept (by simp [slotRegs])

theorem State.emptySlots_keeps_blank {n : Nat} (l : List Nat) (h : s.keySlot n = KeySlot.blank) :
    (s.each l fun n t => t.emptySlot n).keySlot n = KeySlot.blank :=
  State.each_induct (P := fun t => t.keySlot n = KeySlot.blank) h fun _ _ t k => t.emptySlot_keeps_blank k

/-- Every slot of the list is emptied. -/
theorem State.emptySlots_blank {n : Nat} {l : List Nat} (listed : n ∈ l) : (s.each l fun n t => t.emptySlot n).keySlot n = KeySlot.blank :=
  State.each_at (g := fun t => t.keySlot n) listed (fun t => t.keySlot_emptySlot_same n) fun j other t => t.keySlot_emptySlot_ne j other.symm

/-- The domains that a device reset may reset. -/
def resetDoms : List Dom := [.device, .image, .nonce, .assay, .ember]

/-- A device reset after island 5 and before the rest: island 8 only where it failed. -/
def State.resetStart (s : State) (spare restart : Bool) : State :=
  let t := if spare then s else s.assayReset restart
  (if bitOf (s.fld F.SYS_REGION_STAT_FAILED) 8 then t.emberReset else t).redeliver

theorem State.deviceReset_eq (spare restart : Bool) :
    s.deviceReset spare restart = (((s.resetStart spare restart).dropVolatile.dropRegs [.device, .image, .nonce]).systemReset.blocksReset.onPwr
      fun p => { p with irq := false, hostDone := false }) := rfl

theorem State.resetStart_reg (spare restart : Bool) {r : Reg} (dom : r.dom ∉ resetDoms) (other : r ∉ undoneRegs) (i : Nat) :
    (s.resetStart spare restart).reg r i = s.reg r i := by
  have assay : (if spare then s else s.assayReset restart).reg r i = s.reg r i := by
    split
    · rfl
    · exact s.assayReset_reg restart (fun e => dom (by simp [resetDoms, e])) other i
  unfold State.resetStart
  dsimp only
  generalize (if spare then s else s.assayReset restart) = t at assay ⊢
  split
  · exact (State.reg_dropRegs_kept t (fun e => dom (by simpa [resetDoms] using .inr (.inr (.inr (.inr (by simpa using e)))))) i).trans assay
  · exact assay

theorem State.resetStart_cof (spare restart : Bool) : (s.resetStart spare restart).cof = s.cof := by
  have assay : (if spare then s else s.assayReset restart).cof = s.cof := by
    split
    · rfl
    · exact s.assayReset_cof restart
  unfold State.resetStart
  dsimp only
  generalize (if spare then s else s.assayReset restart) = t at assay ⊢
  split <;> exact assay

theorem State.dropVolatile_regs : RegsKept slotRegs s s.dropVolatile := s.emptySlots_regs _

theorem State.dropVolatile_keeps_blank {n : Nat} (h : s.keySlot n = KeySlot.blank) : s.dropVolatile.keySlot n = KeySlot.blank :=
  s.emptySlots_keeps_blank _ h

/-- A register that no reset domain holds stays through a device reset. -/
theorem State.deviceReset_reg (spare restart : Bool) {r : Reg} (dom : r.dom ∉ resetDoms) (other : r ∉ undoneRegs) (slot : r ∉ slotRegs) (i : Nat) :
    (s.deviceReset spare restart).reg r i = s.reg r i := by
  have kept : r.dom ∉ [Dom.device, .image, .nonce] := fun e => dom (List.mem_append_left [Dom.assay, Dom.ember] e :)
  have start := s.resetStart_reg spare restart dom other i
  rw [s.deviceReset_eq]
  have dropped := ((s.resetStart spare restart).dropVolatile_regs r i slot).trans start
  generalize (s.resetStart spare restart).dropVolatile = t at dropped
  exact (t.reg_dropRegs_kept kept i).trans dropped

theorem State.deviceReset_keeps_blank (spare restart : Bool) {n : Nat} (h : s.keySlot n = KeySlot.blank) :
    (s.deviceReset spare restart).keySlot n = KeySlot.blank := by
  have start : (s.resetStart spare restart).keySlot n = KeySlot.blank := by rw [State.keySlot, s.resetStart_cof]; exact h
  rw [s.deviceReset_eq]
  have dropped := (s.resetStart spare restart).dropVolatile_keeps_blank start
  generalize (s.resetStart spare restart).dropVolatile = t at dropped
  exact dropped

/-! ### An asserted reset source -/

/-- PWR_RST_CAUSE with a source recorded. -/
def State.causeSet (s : State) (src : Nat) : State :=
  (s.setFld F.PWR_RST_CAUSE_LAST 0 src).setFld F.PWR_RST_CAUSE_SEEN 0 (withBit (s.fld F.PWR_RST_CAUSE_SEEN) (src - 1) true)

theorem State.reg_causeSet (src : Nat) {r : Reg} (other : r ≠ .PWR_RST_CAUSE) (i : Nat) : (s.causeSet src).reg r i = s.reg r i := by
  simp [State.causeSet, other]

theorem State.keySlot_causeSet (src n : Nat) : (s.causeSet src).keySlot n = s.keySlot n := rfl

/-- What a source does beside the record of its cause: it resets the device, or in a reset that spared it island 5. -/
def State.sourceActs (s : State) (spare restart : Bool) : State :=
  if s.pwr.sources ≠ [] then (if s.pwr.spared && !spare then s.assayReset restart else s)
  else (s.bumpSat F.PWR_RST_CNT_RESETS 0).deviceReset spare restart

theorem State.assertReset_eq (src : Nat) (spare restart : Bool) :
    s.assertReset src spare restart = ((s.causeSet src).sourceActs spare restart).onPwr fun p => { p with
      sources := if p.sources.contains src then p.sources else p.sources ++ [src]
      spared := if s.pwr.sources ≠ [] then p.spared && spare else spare } := by
  unfold State.assertReset State.sourceActs State.causeSet
  by_cases again : s.pwr.sources = [] <;>
    simp only [State.setFld_pwr, again, ne_eq, not_true_eq_false, not_false_eq_true, decide_true, decide_false, Bool.false_eq_true, if_true, if_false]

/-- A register that no reset domain holds stays through a reset, but the count of resets. -/
theorem State.sourceActs_reg (spare restart : Bool) {r : Reg} (dom : r.dom ∉ resetDoms) (other : r ∉ undoneRegs) (slot : r ∉ slotRegs)
    (count : r ≠ .PWR_RST_CNT) (i : Nat) : (s.sourceActs spare restart).reg r i = s.reg r i := by
  unfold State.sourceActs
  split
  · split
    · exact s.assayReset_reg restart (fun e => dom (by simp [resetDoms, e])) other i
    · rfl
  · rw [State.deviceReset_reg _ _ _ dom other slot]
    exact s.reg_bumpSat_other count

theorem State.sourceActs_keeps_blank (spare restart : Bool) {n : Nat} (h : s.keySlot n = KeySlot.blank) :
    (s.sourceActs spare restart).keySlot n = KeySlot.blank := by
  unfold State.sourceActs
  split
  · split
    · rw [State.keySlot, s.assayReset_cof]
      exact h
    · exact h
  · exact State.deviceReset_keeps_blank _ spare restart h

/-- The cause of a reset reads the last source. -/
theorem State.assertReset_last (src : Nat) (spare restart : Bool) : (s.assertReset src spare restart).fld F.PWR_RST_CAUSE_LAST = src % 16 := by
  rw [s.assertReset_eq, State.onPwr_fld, State.fld, State.sourceActs_reg _ _ _ (by decide) (by decide) (by decide) (by decide)]
  show (s.causeSet src).fld F.PWR_RST_CAUSE_LAST = _
  simp [State.causeSet, Fld.width]

/-- Another register that no reset domain holds stays through an asserted reset. -/
theorem State.assertReset_reg (src : Nat) (spare restart : Bool) {r : Reg} (dom : r.dom ∉ resetDoms) (other : r ∉ undoneRegs) (slot : r ∉ slotRegs)
    (count : r ≠ .PWR_RST_CNT) (cause : r ≠ .PWR_RST_CAUSE) (i : Nat) : (s.assertReset src spare restart).reg r i = s.reg r i := by
  rw [s.assertReset_eq, State.onPwr_reg, State.sourceActs_reg _ _ _ dom other slot count, s.reg_causeSet src cause]

theorem State.assertReset_keeps_blank (src : Nat) (spare restart : Bool) {n : Nat} (h : s.keySlot n = KeySlot.blank) :
    (s.assertReset src spare restart).keySlot n = KeySlot.blank := by
  rw [s.assertReset_eq]
  exact State.sourceActs_keeps_blank (s.causeSet src) spare restart h

end Sys2Proof.Machine
end

section
/-! SUPPORT. Coffer: staged keys and their swap, the life cycle, and debug access. -/

namespace Sys2Proof.Machine

open Sys2Proof

variable {s : State} {island n : Nat} {f : Frame}

/-! ### A new nonce -/

theorem State.newNonce_regs (s : State) : RegsKept [.CFR_NONCE] s s.newNonce :=
  regsKept_each (.refl _ s) fun w _ t => by simp

theorem State.newNonce_cof (s : State) : s.newNonce.cof = s.cof := State.each_congr (s := s) State.cof fun _ _ _ => rfl

theorem State.newNonce_reports (s : State) : s.newNonce.reports = s.reports := State.each_congr (s := s) State.reports fun _ _ _ => rfl

theorem State.newNonce_keySlot (s : State) (n : Nat) : s.newNonce.keySlot n = s.keySlot n := by rw [State.keySlot, s.newNonce_cof, State.keySlot]

theorem State.newNonce_fld (s : State) {g : Fld} (other : g.reg ≠ .CFR_NONCE) (i : Nat) : s.newNonce.fld g i = s.fld g i :=
  s.newNonce_regs.fld (by simpa using other) i

theorem State.newNonce_flag (s : State) {g : Fld} (other : g.reg ≠ .CFR_NONCE) (i : Nat) : s.newNonce.flag g i = s.flag g i :=
  State.flag_congr (s.newNonce_fld other i)

/-! ### Staged keys -/

/-- A key staged and verified. -/
def State.staged (s : State) (n : Nat) (k : NewKey) : State :=
  (((s.onSlot n fun x => { x with staged := some ⟨k.lo, k.hi, k.key⟩, commit := none }).tick.setFld F.CFR_SLOT_STAT_STAGED n 1).setFld
    F.CFR_SLOT_STAT_VERIFIED n 1).showPubKeys

/-- No staged key. -/
def State.unstaged (s : State) (n : Nat) : State :=
  ((s.onSlot n fun x => { x with staged := none, commit := none }).setFld F.CFR_SLOT_STAT_STAGED n 0).setFld F.CFR_SLOT_STAT_VERIFIED n 0

theorem State.staged_spec (s : State) (n : Nat) (k : NewKey) :
    (s.staged n k).keySlot n = { s.keySlot n with staged := some ⟨k.lo, k.hi, k.key⟩, commit := none }
      ∧ (s.staged n k).flag F.CFR_SLOT_STAT_STAGED n = true ∧ (s.staged n k).flag F.CFR_SLOT_STAT_VERIFIED n = true
      ∧ CellsKept [(.CFR_SLOT_STAT, n), (.CFR_STAT, 0)] s (s.staged n k) := by
  refine ⟨?_, ?_, ?_, ?_⟩ <;> simp [State.staged, Fld.width]

theorem State.unstaged_spec (s : State) (n : Nat) :
    (s.unstaged n).keySlot n = { s.keySlot n with staged := none, commit := none }
      ∧ (s.unstaged n).flag F.CFR_SLOT_STAT_STAGED n = false ∧ (s.unstaged n).flag F.CFR_SLOT_STAT_VERIFIED n = false
      ∧ CellsKept [(.CFR_SLOT_STAT, n)] s (s.unstaged n) := by
  refine ⟨?_, ?_, ?_, ?_⟩ <;> simp [State.unstaged, Fld.width]

/-- A key is staged where it passes its checks (R415). -/
theorem State.stageKey_staged {k : NewKey} {rotate : Bool} (live : s.slotLive n = true) (slot : rotate = true ∨ 10 ≤ n)
    (room : ¬ (pubEntry k.lo = true ∧ 64 ≤ s.pubKeys)) (same : (rotate || s.stageable n k) = true)
    (pairs : 5 ≤ F.CFR_SLOT_ATTR_LO_ALG.of k.lo ∨ F.CFR_SLOT_ATTR_LO_PUB.of k.lo = 1) : s.stageKey n k rotate = accept (s.staged n k) := by
  have pass : (decide (5 ≤ F.CFR_SLOT_ATTR_LO_ALG.of k.lo) || decide (F.CFR_SLOT_ATTR_LO_PUB.of k.lo = 1)
      || Config.pairTest (F.CFR_SLOT_ATTR_LO_ALG.of k.lo) k.key) = true := by rcases pairs with h | h <;> simp [h]
  unfold State.stageKey
  dsimp only
  rw [if_neg (by rcases slot with h | h <;> simp [live, h]), if_neg room, same, pass]
  rfl

/-- A key whose attributes differ is zeroised. -/
theorem State.stageKey_zeroised {k : NewKey} (live : s.slotLive n = true) (slot : 10 ≤ n)
    (room : ¬ (pubEntry k.lo = true ∧ 64 ≤ s.pubKeys)) (differs : s.stageable n k = false) :
    s.stageKey n k false = ⟨0x0E0D, [], (s.tick.unstaged n).showPubKeys⟩ := by
  unfold State.stageKey
  dsimp only
  rw [if_neg (by simp [live, slot]), if_neg room, differs]
  rfl

/-- A creating command that needs no trailer is taken with its body as it is. -/
theorem State.creation_plain {target at_ : Nat} (plain : NeedsNoTrailer island f at_) (general : target ≠ 8) :
    s.creation island f target at_ = (0, f.body) := by
  obtain ⟨rest, trailer⟩ := plain
  unfold State.creation
  dsimp only
  rw [if_neg fun h => general h.2.1, if_pos rest]
  exact congrArg (·, f.body) (if_neg (by simp [trailer]))

/-- GENERATE makes a secret key of its algorithm. -/
theorem State.newGenerated_makes {b : List Byte} (size : b.length = 8) (low : 1 ≤ F.CFR_SLOT_ATTR_LO_ALG.of (attrOf b 0 1 0x3FF).1)
    (high : F.CFR_SLOT_ATTR_LO_ALG.of (attrOf b 0 1 0x3FF).1 ≤ 6) (secret : F.CFR_SLOT_ATTR_LO_PUB.of (attrOf b 0 1 0x3FF).1 = 0) :
    s.newGenerated b = (0, ⟨(attrOf b 0 1 0x3FF).1, (attrOf b 0 1 0x3FF).2, 0,
      Config.makeKey (F.CFR_SLOT_ATTR_LO_ALG.of (attrOf b 0 1 0x3FF).1) (s.fresh 256)⟩) := by
  unfold State.newGenerated
  exact if_neg (by omega)

/-- STAGE of a generated key: the answer is the staging of the key that GENERATE makes. -/
theorem State.stageFrame_generated {k : NewKey} (source : u8 f.body 0 = 1) (zero : uN f.body 1 7 = 0) (plain : NeedsNoTrailer island f 8)
    (root : s.flag F.CFR_STAT_ROOT_FAIL = false) (general : f.slot ≠ 8) (made : s.newGenerated (f.body.drop 8) = (0, k)) :
    s.stageFrame island f = s.stageKey f.slot k false := by
  have rest := plain.1
  unfold State.stageFrame
  simp only [rest, source, if_true, State.creation_plain plain general, made, root, zero, ne_eq, not_true_eq_false, if_false, Bool.false_eq_true, false_and]

theorem State.commitFrame_answers (size : f.body.length = 16) (zero : uN f.body 10 6 = 0) (live : s.slotLive f.slot = true) :
    s.commitFrame f = if s.flag F.CFR_SLOT_STAT_VERIFIED f.slot then
        accept (s.onSlot f.slot fun x => { x with commit := some (max (uN f.body 0 8) (s.heat + 1), u16 f.body 8, false) })
      else refuse s 0x0E0D := by
  unfold State.commitFrame
  dsimp only
  rw [if_neg (by omega), live]
  cases s.flag F.CFR_SLOT_STAT_VERIFIED f.slot <;> rfl

theorem State.abortFrame_drops {k : KeySide} (empty : f.body = []) (staged : (s.keySlot f.slot).staged = some k) :
    s.abortFrame f = accept (s.unstaged f.slot).showPubKeys := by
  unfold State.abortFrame
  dsimp only
  rw [if_neg (not_not_intro empty), staged]
  rfl

/-! ### The swap -/

/-- The rotation to another key is counted. -/
def State.rotated (s : State) (counts : Bool) : State := if counts then s.bumpSat F.CFR_ROT_CNT_COUNT 0 else s

/-- The sides of a slot swapped. -/
def State.swapped (s : State) (n grace : Nat) (counts : Bool) (k : KeySide) : State :=
  let t := s.onSlot n fun _ => ⟨some k.key, none, if grace = 0 then none else (s.keySlot n).active, none⟩
  let t := (t.setReg .CFR_SLOT_ATTR_LO n k.lo).setReg .CFR_SLOT_ATTR_HI n k.hi
  let t := (t.setFld F.CFR_SLOT_STAT_STAGED n 0).setFld F.CFR_SLOT_STAT_VERIFIED n 0
  let t := (t.setFlag F.CFR_SLOT_STAT_PREV n (decide (grace ≠ 0))).setFld F.CFR_SLOT_STAT_GRACE n grace
  (t.rotated counts).showPubKeys.report 0x0E82 n

theorem State.swapKey_eq {at_ grace : Nat} {rot : Bool} {k : KeySide} (staged : (s.keySlot n).staged = some k)
    (commit : (s.keySlot n).commit = some (at_, grace, rot)) :
    s.swapKey n = if at_ ≤ s.heat then s.swapped n grace (rot && decide ((s.keySlot n).active ≠ some k.key)) k else s := by
  unfold State.swapKey
  simp only [staged, commit]
  rfl

theorem State.rotated_reg (s : State) (counts : Bool) {r : Reg} (other : r ≠ .CFR_ROT_CNT) (i : Nat) : (s.rotated counts).reg r i = s.reg r i := by
  cases counts
  · rfl
  · exact s.reg_bumpSat_other other

theorem State.rotated_fld (s : State) (counts : Bool) {g : Fld} (other : g.reg ≠ .CFR_ROT_CNT) (i : Nat) :
    (s.rotated counts).fld g i = s.fld g i := by rw [State.fld, s.rotated_reg counts other, State.fld]

theorem State.rotated_keySlot (s : State) (counts : Bool) (n : Nat) : (s.rotated counts).keySlot n = s.keySlot n := by cases counts <;> rfl

theorem State.rotated_reports (s : State) (counts : Bool) : (s.rotated counts).reports = s.reports := by cases counts <;> rfl

theorem State.rotated_count (s : State) (counts : Bool) :
    (s.rotated counts).fld F.CFR_ROT_CNT_COUNT = if counts then min (s.fld F.CFR_ROT_CNT_COUNT + 1) 7 else s.fld F.CFR_ROT_CNT_COUNT := by
  cases counts
  · rfl
  · exact s.fld_bumpSat_self (by decide)

theorem State.swapped_spec (s : State) {n grace : Nat} (counts : Bool) (k : KeySide) (small : grace < 2 ^ 16) :
    let t := s.swapped n grace counts k
    t.keySlot n = ⟨some k.key, none, if grace = 0 then none else (s.keySlot n).active, none⟩
      ∧ t.reg .CFR_SLOT_ATTR_LO n = k.lo ∧ t.reg .CFR_SLOT_ATTR_HI n = k.hi ∧ t.fld F.CFR_SLOT_STAT_GRACE n = grace
      ∧ t.flag F.CFR_SLOT_STAT_PREV n = decide (grace ≠ 0) ∧ t.flag F.CFR_SLOT_STAT_VERIFIED n = false ∧ t.reports = s.reports ++ [⟨0x0E82, n⟩]
      ∧ t.fld F.CFR_ROT_CNT_COUNT = (if counts then min (s.fld F.CFR_ROT_CNT_COUNT + 1) 7 else s.fld F.CFR_ROT_CNT_COUNT)
      ∧ t.reg .CFR_SLOT_GEN n = s.reg .CFR_SLOT_GEN n := by
  refine ⟨?_, ?_, ?_, ?_, ?_, ?_, ?_, ?_, ?_⟩
  · simp [State.swapped, State.rotated_keySlot]
  · simp [State.swapped, State.rotated_reg]
  · simp [State.swapped, State.rotated_reg]
  · simpa [State.swapped, State.rotated_fld, Fld.width] using small
  · simp [State.swapped, State.flag, State.rotated_fld]
  · simp [State.swapped, State.flag, State.rotated_fld]
  · exact congrArg (· ++ [⟨0x0E82, n⟩]) (State.rotated_reports _ counts)
  · simp [State.swapped, State.rotated_count]
  · simp [State.swapped, State.rotated_reg]

end Sys2Proof.Machine
end

section
/-! SUPPORT. Coffer: the root of trust, the life cycle and debug access, and the statement on replacements. -/

namespace Sys2Proof.Machine

open Sys2Proof

variable {s : State} {island : Nat} {f : Frame}

/-! ### Rotation of slot 8 -/

theorem State.signedCode_small (s : State) (f : Frame) (ok : Nat → Bool) : s.signedCode f ok < 2 ^ 16 := by
  unfold State.signedCode
  split
  · decide
  split <;> decide

/-- What slot 8 may hold is a public key. -/
theorem rootKey_public {lo : W32} (root : rootKey lo = true) : F.CFR_SLOT_ATTR_LO_PUB.of lo = 1 := (of_decide_eq_true root).1

section Rotate

variable {a : W32 × W32} {key : List Byte} (size : 41 ≤ f.body.length) (attr : attrOf (f.body.drop 32) 3 1 0x3FF = a) (root : rootKey a.1 = true)

include size attr root

theorem State.rotate_unsigned (bad : s.signedCode f (fun n => decide (n = 8)) ≠ 0) : s.rotate f = refuse s (s.signedCode f fun n => decide (n = 8)) := by
  unfold State.rotate
  dsimp only
  rw [if_neg (by rw [attr, root]; simp; omega), if_pos bad]

theorem State.rotate_same (signed : s.signedCode f (fun n => decide (n = 8)) = 0) (same : (s.keySlot 8).active = some (f.body.drop 40)) :
    s.rotate f = accept s.newNonce := by
  unfold State.rotate
  dsimp only
  rw [if_neg (by rw [attr, root]; simp; omega), if_neg (not_not_intro signed), if_pos same]

theorem State.rotate_used (signed : s.signedCode f (fun n => decide (n = 8)) = 0) (other : (s.keySlot 8).active ≠ some (f.body.drop 40))
    (used : s.fld F.CFR_ROT_CNT_COUNT = 7) : s.rotate f = refuse s 0x0E0A := by
  unfold State.rotate
  dsimp only
  rw [if_neg (by rw [attr, root]; simp; omega), if_neg (not_not_intro signed), if_neg other, if_pos used]

/-- Another key is staged for the next heat (R419). -/
theorem State.rotate_stages (signed : s.signedCode f (fun n => decide (n = 8)) = 0) (other : (s.keySlot 8).active ≠ some (f.body.drop 40))
    (left : s.fld F.CFR_ROT_CNT_COUNT < 7) (live : s.slotLive 8 = true) (room : s.pubKeys < 64) :
    s.rotate f = accept ((s.staged 8 ⟨a.1, a.2, 0, f.body.drop 40⟩).onSlot 8 fun x => { x with commit := some (s.heat + 1, 0, true) }).newNonce := by
  unfold State.rotate
  dsimp only
  rw [if_neg (by rw [attr, root]; simp; omega), if_neg (not_not_intro signed), if_neg other, if_neg (by omega), attr,
    State.stageKey_staged (k := ⟨a.1, a.2, 0, f.body.drop 40⟩) (rotate := true) live (.inl rfl) (fun h => absurd h.2 (by omega)) (Bool.true_or _)
      (.inr (rootKey_public root))]
  exact if_pos rfl

end Rotate

/-! ### Life-cycle steps -/

/-- The transitions that have a signer: one step on, and to the scrap state (R422). -/
theorem lcSigner_states {src dst n : Nat} (signer : lcSigner src dst n = true) : 1 ≤ dst ∧ dst ≤ 4 := by
  unfold lcSigner at signer
  split at signer
  case h_6 => exact absurd signer (by decide)
  all_goals decide

/-- A debug session ends; MAKER stays open (R425). -/
theorem State.endDebug_open (s : State) : s.endDebug.flag F.CFR_DBG_STAT_OPEN = decide (s.fld F.CFR_LC_STATE_STATE = 0) := by
  unfold State.endDebug
  split
  · rename_i maker
    simp [maker, Fld.width]
  · rename_i other
    rw [decide_eq_false other, State.flag_eq_false]
    exact State.fld_setReg_same s F.CFR_DBG_STAT_OPEN 0 0

theorem State.endDebug_regs (s : State) : CellsKept [(.CFR_DBG_STAT, 0)] s s.endDebug := by
  unfold State.endDebug
  refine cellsKept_ite ?_ ?_ <;> simp

theorem State.endDebug_cof (s : State) : s.endDebug.cof = s.cof := by
  unfold State.endDebug
  split <;> rfl

/-- The state of a taken life-cycle step before its nonce. -/
def State.stepped (s : State) (dst : Nat) : State :=
  (((s.setFld F.CFR_LC_STATE_STATE 0 dst).setFld F.CFR_LC_STATE_STEPS 0 (s.fld F.CFR_LC_STATE_STEPS + 1)).setFld F.CFR_LC_STATE_ERASE_PEND 0 1).endDebug

theorem State.stepped_spec (s : State) {dst : Nat} (left : s.fld F.CFR_LC_STATE_STEPS < 4) :
    (s.stepped dst).fld F.CFR_LC_STATE_STATE = dst % 8 ∧ (s.stepped dst).fld F.CFR_LC_STATE_STEPS = s.fld F.CFR_LC_STATE_STEPS + 1
      ∧ (s.stepped dst).flag F.CFR_LC_STATE_ERASE_PEND = true ∧ (s.stepped dst).cof = s.cof
      ∧ (s.stepped dst).flag F.CFR_DBG_STAT_OPEN = decide (dst % 8 = 0) := by
  have kept := ((s.setFld F.CFR_LC_STATE_STATE 0 dst).setFld F.CFR_LC_STATE_STEPS 0 (s.fld F.CFR_LC_STATE_STEPS + 1)).setFld F.CFR_LC_STATE_ERASE_PEND 0 1
    |>.endDebug_regs
  refine ⟨?_, ?_, ?_, State.endDebug_cof _, ?_⟩
  · rw [State.stepped, kept.fld (by decide)]
    simp [Fld.width]
  · rw [State.stepped, kept.fld (by decide)]
    simp [Fld.width]
    omega
  · rw [State.stepped, kept.flag (by decide)]
    simp [Fld.width]
  · rw [State.stepped, State.endDebug_open]
    simp [Fld.width]

section Steps

variable {dst : Nat} (size : f.body.length = 64) (zero : uN f.body 33 15 = 0) (asked : u8 f.body 32 = dst)

include size zero asked

/-- A step that does not exist is refused, and one from a part whose steps are used up (R422). -/
theorem State.lcStep_none (bad : (lcSigner (s.fld F.CFR_LC_STATE_STATE) dst 8 || lcSigner (s.fld F.CFR_LC_STATE_STATE) dst 2) = false
    ∨ 4 ≤ s.fld F.CFR_LC_STATE_STEPS ∨ s.fld F.CFR_LC_STATE_STATE = 4) : s.lcStep f = refuse s 0x0E09 := by
  unfold State.lcStep
  dsimp only
  rw [asked, if_neg (by omega), if_pos (by rcases bad with h | h | h <;> simp [h])]

/-- A step that exists is taken where its signature passes. -/
theorem State.lcStep_answers (signer : (lcSigner (s.fld F.CFR_LC_STATE_STATE) dst 8 || lcSigner (s.fld F.CFR_LC_STATE_STATE) dst 2) = true)
    (left : s.fld F.CFR_LC_STATE_STEPS < 4) (alive : s.fld F.CFR_LC_STATE_STATE ≠ 4)
    (serial : slice f.body 48 16 = (Config.serial ++ leBytes 16 0).take 16) (root : dst ≠ 2 ∨ s.slotState 8 = 1) (idle : dst < 3 ∨ s.allIdle = true) :
    s.lcStep f = if s.signedCode f (lcSigner (s.fld F.CFR_LC_STATE_STATE) dst) ≠ 0 then
        refuse s (s.signedCode f (lcSigner (s.fld F.CFR_LC_STATE_STATE) dst))
      else accept (s.stepped dst).newNonce := by
  unfold State.lcStep
  dsimp only
  rw [asked, if_neg (by omega), if_neg (by simp [signer, alive]; omega)]
  by_cases bad : s.signedCode f (lcSigner (s.fld F.CFR_LC_STATE_STATE) dst) ≠ 0
  · rw [if_pos bad, if_pos bad]
  · rw [if_neg bad, if_neg bad, if_neg (not_not_intro serial), if_neg fun h => root.elim (· h.1) h.2,
      if_neg fun h => idle.elim (fun low => by omega) (fun all => by rw [all] at h; exact absurd h.2 (by decide))]
    rfl

end Steps

/-! ### Erasing -/

/-- The erasure of the slots of a step. -/
def State.erasing (s : State) : State :=
  s.each (s.erased.filter fun n => s.slotState n ≠ 0 || (s.keySlot n).active.isSome) fun n t => t.emptySlot n

theorem State.eraseKeys_eq (s : State) :
    s.eraseKeys = (((if s.fld F.CFR_LC_STATE_STATE = 4 then s.erasing.setFld F.CFR_STAT_ROOT_FAIL 0 1 else s.erasing).showPubKeys).setFld
      F.CFR_LC_STATE_ERASE_PEND 0 0).report 0x0E84 := rfl

theorem State.eraseKeys_idle (s : State) : s.eraseKeys.flag F.CFR_LC_STATE_ERASE_PEND = false := by
  rw [s.eraseKeys_eq]
  simp [Fld.width]

theorem State.eraseKeys_reports (s : State) : (⟨0x0E84, 0⟩ : Report) ∈ s.eraseKeys.reports.drop s.reports.length := by
  have before : Keeps s (if s.fld F.CFR_LC_STATE_STATE = 4 then s.erasing.setFld F.CFR_STAT_ROOT_FAIL 0 1 else s.erasing) := by
    have erasing := s.each_keeps (s.erased.filter fun n => s.slotState n ≠ 0 || (s.keySlot n).active.isSome) _ fun n t => t.emptySlot_keeps n
    exact keeps_ite (erasing.trans (State.setFld_keeps _ _ _ _)) erasing
  rw [s.eraseKeys_eq]
  exact mem_reports_drop before.reports rfl

theorem State.eraseKeys_blank {n : Nat} (listed : n ∈ s.erased) (used : s.slotState n ≠ 0) : s.eraseKeys.keySlot n = KeySlot.blank := by
  have gone : s.erasing.keySlot n = KeySlot.blank := State.emptySlots_blank s (List.mem_filter.2 ⟨listed, by simp [used]⟩)
  rw [s.eraseKeys_eq]
  split <;> exact gone

theorem State.eraseKeys_spec (s : State) :
    s.eraseKeys.flag F.CFR_LC_STATE_ERASE_PEND = false ∧ (⟨0x0E84, 0⟩ : Report) ∈ s.eraseKeys.reports.drop s.reports.length
      ∧ ∀ n ∈ s.erased, s.slotState n ≠ 0 → s.eraseKeys.keySlot n = KeySlot.blank :=
  ⟨s.eraseKeys_idle, s.eraseKeys_reports, fun _ listed used => s.eraseKeys_blank listed used⟩

/-- A reset leaves the life cycle, which stands in fuses. -/
theorem State.assertReset_erasePend (s : State) (src : Nat) (spare restart : Bool) :
    (s.assertReset src spare restart).flag F.CFR_LC_STATE_ERASE_PEND = s.flag F.CFR_LC_STATE_ERASE_PEND := by
  refine State.flag_congr ?_
  rw [State.fld, State.fld, State.assertReset_reg _ _ _ _ (by decide) (by decide) (by decide) (by decide) (by decide)]

/-! ### Debug access -/

section Unlock

variable (size : f.body.length = 36) (zero : u8 f.body 33 = 0)

include size zero

theorem State.debugUnlock_locked (locked : s.now < s.cof.lockUntil) : s.debugUnlock f = refuse s 0x0E11 := by
  unfold State.debugUnlock
  dsimp only
  rw [if_neg (by omega), if_pos locked]

theorem State.debugUnlock_fails (free : s.cof.lockUntil ≤ s.now) (bad : s.signedCode f (s.debugAllowed (u8 f.body 32)) ≠ 0) :
    s.debugUnlock f = ⟨0x0E11, [], { s with cof := { s.cof with lockUntil := s.now + s.strokesIn 1000000000 } }.report 0x0E11⟩ := by
  unfold State.debugUnlock
  dsimp only
  rw [if_neg (by omega), if_neg (by omega), if_pos bad]

/-- A session opened (R424). -/
def State.unlocked (s : State) (level heats : Nat) : State :=
  ((s.setFld F.CFR_DBG_STAT_OPEN 0 1).setFld F.CFR_DBG_STAT_LEVEL 0 level).setFld F.CFR_DBG_STAT_REMAIN 0 heats

theorem State.debugUnlock_opens (free : s.cof.lockUntil ≤ s.now) (signed : s.signedCode f (s.debugAllowed (u8 f.body 32)) = 0) :
    s.debugUnlock f = accept ((s.unlocked (u8 f.body 32) (u16 f.body 34)).newNonce.report 0x0E83) := by
  unfold State.debugUnlock
  dsimp only
  rw [if_neg (by omega), if_neg (by omega), if_neg (not_not_intro signed)]
  rfl

omit size zero

theorem State.unlocked_spec (s : State) (level : Nat) {heats : Nat} (small : heats < 2 ^ 16) :
    let t := (s.unlocked level heats).newNonce.report 0x0E83
    t.flag F.CFR_DBG_STAT_OPEN = true ∧ t.fld F.CFR_DBG_STAT_LEVEL = level % 4 ∧ t.fld F.CFR_DBG_STAT_REMAIN = heats
      ∧ t.reports = s.reports ++ [⟨0x0E83, 0⟩] := by
  refine ⟨?_, ?_, ?_, congrArg (fun l => l ++ [(⟨0x0E83, 0⟩ : Report)]) (State.newNonce_reports (s.unlocked level heats))⟩
  · exact (State.newNonce_flag (s.unlocked level heats) (by decide) 0).trans (by simp [State.unlocked, Fld.width])
  · exact (State.newNonce_fld (s.unlocked level heats) (by decide) 0).trans (by simp [State.unlocked, Fld.width])
  · exact (State.newNonce_fld (s.unlocked level heats) (by decide) 0).trans (by simpa [State.unlocked, Fld.width] using small)

end Unlock

theorem State.debugHalt_shut (shut : s.debugOpen = false) (core : Nat) : s.debugHalt core = s := by
  unfold State.debugHalt
  rw [shut]
  rfl

theorem State.debugHalt_held (opened : s.debugOpen = true) (field : s.fld F.CFR_LC_STATE_STATE = 2) (holds : s.holds = true) (core : Nat) :
    s.debugHalt core = (s.setFld F.CFR_STAT_CODE 0 0x0E11).report 0x0E11 core := by
  unfold State.debugHalt
  rw [opened, if_neg (by decide), if_pos (And.intro field holds)]

theorem State.debugHalt_halts (opened : s.debugOpen = true) (free : s.fld F.CFR_LC_STATE_STATE ≠ 2 ∨ s.holds = false) (core : Nat) :
    s.debugHalt core = s.onSys fun y => { y with halted := if y.halted.contains core then y.halted else y.halted ++ [core] } := by
  unfold State.debugHalt
  rw [opened, if_neg (by decide), if_neg fun h => free.elim (· h.1) fun no => by rw [no] at h; exact absurd h.2 (by decide)]

/-- A halted core is among the halted. -/
theorem mem_halted (l : List Nat) (core : Nat) : core ∈ (if l.contains core then l else l ++ [core]) := by
  split
  · rename_i listed
    simpa using listed
  · simp

/-! ### The statement -/

/-- Settles O58: each clause is the answer of its frame, or the operation of its command. -/
theorem replacementsLifeCycleAndDebug : Obligations.ReplacementsLifeCycleAndDebug := by
  unfold Obligations.ReplacementsLifeCycleAndDebug
  refine ⟨?stage, ?commit, ?abort, ?swap, ?grace, ?rotate, ?step, ?erase, ?unlock, ?close, ?expire, ?halt⟩
  case stage =>
    intro s island b f asks size source zero plain root general live a alg k low high secret
    have made : s.newGenerated (f.body.drop 8) = (0, k) := State.newGenerated_makes (by simp [size]) (Nat.le_trans (by decide) low) high secret
    have slot := State.stageFrame_generated source zero plain root (by omega) made
    have room : ¬ (pubEntry k.lo = true ∧ 64 ≤ s.pubKeys) := fun h => absurd (of_decide_eq_true h.1).2 (by show ¬ _ = 1; rw [secret]; decide)
    refine ⟨fun same => ?_, fun differs => ?_⟩
    · obtain ⟨slots, stagedFlag, verified, kept⟩ := s.staged_spec f.slot k
      obtain ⟨c, e, replied⟩ := asks.accepts (fun i f => s.stageFrame i f) (slot.trans (State.stageKey_staged live (.inr general) room same (.inl low)))
      exact ⟨_, congrArg Host.Outcome.next e, replied, slots, by simpa [accept] using stagedFlag, by simpa [accept] using verified, by simpa [accept] using kept⟩
    · obtain ⟨c, e⟩ := asks.serves (fun i f => s.stageFrame i f)
      obtain ⟨slots, -⟩ := s.tick.unstaged_spec f.slot
      refine ⟨_, congrArg Host.Outcome.next e, ?_⟩
      rw [slot, State.stageKey_zeroised live general room differs]
      refine ⟨KeyAns.shown_replied _ c (by decide : (0x0E0D : Nat) < 2 ^ 16), ?_, ?_⟩
      · rw [KeyAns.shown_keySlot, State.keySlot_showPubKeys, slots]
      · rw [KeyAns.shown_keySlot, State.keySlot_showPubKeys, slots]
        rfl
  case commit =>
    intro s island b f asks size zero live
    refine ⟨fun unverified => ?_, fun verified => ?_⟩
    · exact asks.refuses (fun _ f => s.commitFrame f) ((State.commitFrame_answers size zero live).trans (by rw [unverified]; rfl)) (by decide)
    obtain ⟨c, e, replied⟩ := asks.accepts (fun _ f => s.commitFrame f) ((State.commitFrame_answers size zero live).trans (if_pos verified))
    exact ⟨_, congrArg Host.Outcome.next e, replied, State.keySlot_onSlot_same .., by simp [accept]⟩
  case abort =>
    intro s island b f k asks empty staged
    obtain ⟨slots, stagedFlag, verified, kept⟩ := s.unstaged_spec f.slot
    obtain ⟨c, e, replied⟩ := asks.accepts (fun _ f => s.abortFrame f) (State.abortFrame_drops empty staged)
    refine ⟨_, congrArg Host.Outcome.next e, replied, slots, by simpa [accept] using stagedFlag, by simpa [accept] using verified, ?_⟩
    simpa [accept] using kept.mono (ls := [(.CFR_SLOT_STAT, f.slot), (.CFR_STAT, 0)]) (by simp)
  case swap =>
    intro s n at_ grace rot k runs staged commit small
    refine ⟨fun early => ?early, fun due => ?due⟩
    case early =>
      refine congrArg Host.Outcome.next ((s.live_runs runs).trans ?_)
      rw [State.swapKey_eq staged commit, if_neg (by omega)]
    case due =>
      refine ⟨_, congrArg Host.Outcome.next (s.live_runs runs), ?_⟩
      rw [State.swapKey_eq staged commit, if_pos due]
      have spec := s.swapped_spec (rot && decide ((s.keySlot n).active ≠ some k.key)) k small (n := n)
      simpa only [Bool.and_eq_true, decide_eq_true_eq] using spec
  case grace =>
    intro s n runs prev
    refine ⟨fun left => ?_, fun spent => ⟨_, congrArg Host.Outcome.next (s.live_runs runs), ?_⟩⟩
    · refine congrArg Host.Outcome.next ((s.live_runs runs).trans ?_)
      rw [if_neg fun h => left h.2]
    · rw [if_pos (And.intro prev spent)]
      refine ⟨?_, ?_, ?_⟩ <;> simp [State.endGrace, Fld.width]
  case rotate =>
    intro s island b f asks size live room a key c root
    obtain ⟨x, e⟩ := asks.serves (fun _ f => s.rotate f)
    refine ⟨_, congrArg Host.Outcome.next e, fun bad => ?_, fun signed same => ?_, fun signed other used => ?_, fun signed other left => ?_⟩
    · rw [State.rotate_unsigned size rfl root bad]
      exact KeyAns.shown_refused x s (s.signedCode_small ..)
    · rw [State.rotate_same size rfl root signed same]
      exact ⟨rfl, (KeyAns.shown_slots _ x).trans (congrArg Cof.slots s.newNonce_cof)⟩
    · rw [State.rotate_used size rfl root signed other used]
      exact KeyAns.shown_refused x s (by decide)
    · rw [State.rotate_stages size rfl root signed other left live room]
      obtain ⟨slots, -, -, kept⟩ := s.staged_spec 8 ⟨a.1, a.2, 0, key⟩
      refine ⟨rfl, ?_, ?_⟩
      · rw [KeyAns.shown_keySlot]
        exact (State.newNonce_keySlot _ 8).trans ((State.keySlot_onSlot_same ..).trans (by rw [slots]))
      · rw [KeyAns.shown_fld _ _ (by decide)]
        exact (State.newNonce_fld _ (by decide) 0).trans (kept.fld (by simp))
  case step =>
    intro s island dst b f asks size zero asked serial src c
    refine ⟨fun bad => asks.refuses (fun _ f => s.lcStep f) (State.lcStep_none size zero asked bad) (by decide), fun signer left alive rootKey idle => ?_⟩
    obtain ⟨x, e⟩ := asks.serves (fun _ f => s.lcStep f)
    refine ⟨_, congrArg Host.Outcome.next e, fun bad => ?_, fun signed => ?_⟩
    · rw [State.lcStep_answers size zero asked signer left alive serial rootKey idle, if_pos bad]
      exact KeyAns.shown_refused x s (s.signedCode_small ..)
    · rw [State.lcStep_answers size zero asked signer left alive serial rootKey idle, if_neg (not_not_intro signed)]
      obtain ⟨state, steps, pending, cof, dbg⟩ := s.stepped_spec (dst := dst) left
      have exists_ : 1 ≤ dst ∧ dst ≤ 4 := (Bool.or_eq_true_iff.1 signer).elim lcSigner_states lcSigner_states
      refine ⟨rfl, ?_, ?_, ?_, ?_, fun _ => ?_⟩
      · exact (KeyAns.shown_fld _ _ (by decide) 0).trans ((State.newNonce_fld _ (by decide) 0).trans state)
      · exact (KeyAns.shown_fld _ _ (by decide) 0).trans ((State.newNonce_fld _ (by decide) 0).trans steps)
      · exact (KeyAns.shown_flag _ _ (by decide) 0).trans ((State.newNonce_flag _ (by decide) 0).trans pending)
      · exact (KeyAns.shown_slots _ x).trans (congrArg Cof.slots ((State.newNonce_cof _).trans cof))
      · refine (KeyAns.shown_flag _ _ (by decide) 0).trans ((State.newNonce_flag _ (by decide) 0).trans (dbg.trans ?_))
        exact decide_eq_false (by omega)
  case erase =>
    intro s pending booted
    have erases : exec .eraseDone s = .next (s.eraseKeys.assertReset 9 false true) := congrArg Host.Outcome.next (if_pos (by rw [pending, booted]; rfl))
    obtain ⟨idle, reported, blank⟩ := s.eraseKeys_spec
    refine ⟨_, erases, ?_⟩
    generalize s.eraseKeys = u at idle reported blank
    exact ⟨(u.assertReset_erasePend 9 false true).trans idle, mem_reports_drop_of_prefix reported (u.assertReset_keeps _ _ _).reports,
      u.assertReset_last 9 false true, fun n listed used => u.assertReset_keeps_blank _ _ _ (blank n listed used)⟩
  case unlock =>
    intro s island b f asks size zero c
    refine ⟨fun locked => asks.refuses (fun _ f => s.debugUnlock f) (State.debugUnlock_locked size zero locked) (by decide), fun free => ?_⟩
    obtain ⟨x, e⟩ := asks.serves (fun _ f => s.debugUnlock f)
    refine ⟨_, congrArg Host.Outcome.next e, fun bad => ?_, fun signed => ?_⟩
    · rw [State.debugUnlock_fails size zero free bad]
      refine ⟨KeyAns.shown_replied _ x (by decide : (0x0E11 : Nat) < 2 ^ 16), rfl, rfl, ?_⟩
      rw [KeyAns.shown_reg _ _ (by decide)]
      rfl
    · rw [State.debugUnlock_opens size zero free signed]
      obtain ⟨opened, level, heats, reports⟩ := s.unlocked_spec (u8 f.body 32) (u16_lt f.body 34)
      generalize (s.unlocked (u8 f.body 32) (u16 f.body 34)).newNonce.report 0x0E83 = u at opened level heats reports
      exact ⟨KeyAns.shown_replied _ x (by decide : (0x0E00 : Nat) < 2 ^ 16), (KeyAns.shown_flag _ x (by decide) 0).trans opened,
        (KeyAns.shown_fld _ x (by decide) 0).trans level, (KeyAns.shown_fld _ x (by decide) 0).trans heats, reports⟩
  case close =>
    intro s who reaches
    refine ⟨_, congrArg Host.Outcome.next (rowWrite_reaches s who _ _ _ reaches), rfl, ?_, ?_⟩
    · have open_ := (served s who).endDebug_open
      simpa using open_
    · have kept := ((cellsKept_served s who 4).2 (.refl _ s)).trans (served s who).endDebug_regs
      simpa using kept
  case expire =>
    intro s
    refine ⟨fun runs opened spent => ⟨_, congrArg Host.Outcome.next (s.live_runs runs), ?_⟩, fun left => congrArg Host.Outcome.next ?_⟩
    · rw [if_pos (And.intro opened spent)]
      exact ⟨s.endDebug_open, s.endDebug_regs⟩
    · rw [if_neg fun h => left h.2, State.live, ite_self]
  case halt =>
    intro s core
    refine ⟨fun shut => congrArg Host.Outcome.next ?_, fun runs opened field holds => ⟨_, congrArg Host.Outcome.next (s.live_runs runs), ?_⟩,
      fun runs opened free => ⟨_, congrArg Host.Outcome.next (s.live_runs runs), ?_⟩⟩
    · rw [State.debugHalt_shut shut, State.live, ite_self]
    · rw [State.debugHalt_held opened field holds]
      exact ⟨rfl, rfl⟩
    · rw [State.debugHalt_halts opened free]
      exact ⟨mem_halted _ core, regsKept_of_regs rfl, memKept_of_mem rfl, rfl⟩

end Sys2Proof.Machine
end

section
/-! SUPPORT. A power-fail reset that spares island 5: the records in the delivery ring are delivered again. -/

namespace Sys2Proof.Machine

open Sys2Proof

/-- What a reset that spares island 5 does to Assay: the records that stood in the ring wait to be delivered again. -/
theorem State.deviceReset_spared_asy (s : State) (restart : Bool) : (s.deviceReset true restart).asy = s.redeliver.asy := by
  have start : (s.resetStart true restart).asy = s.redeliver.asy := by
    unfold State.resetStart
    dsimp only
    split <;> rfl
  have volatile (u : State) : u.dropVolatile.asy = u.asy := State.each_congr (s := u) State.asy fun _ _ _ => rfl
  have dropped := (volatile (s.resetStart true restart)).trans start
  rw [s.deviceReset_eq]
  generalize (s.resetStart true restart).dropVolatile = u at dropped
  exact dropped

theorem State.assertReset_spared_asy {s : State} (first : s.pwr.sources = []) (src : Nat) (restart : Bool) :
    (s.assertReset src true restart).asy = s.redeliver.asy := by
  have acts : ((s.causeSet src).sourceActs true restart).asy = s.redeliver.asy := by
    rw [State.sourceActs, if_neg (not_not_intro (show (s.causeSet src).pwr.sources = [] from first))]
    exact State.deviceReset_spared_asy _ _
  rw [s.assertReset_eq, State.onPwr_asy, acts]

/-- What the power-fail reset answers has the same record of Assay. -/
theorem State.powerFail_spared_asy {s : State} (first : s.pwr.sources = []) :
    (((s.assertReset 7 true false).setFlag F.PWR_STAT_PFW 0 false).report 0x1182).asy = s.redeliver.asy := by
  rw [← State.assertReset_spared_asy first 7 false]
  generalize s.assertReset 7 true false = u
  rfl

/-- A record that stands in the delivery ring. -/
def ringRecord : HmkRec := { rseq := 0, bytes := [], trailer := [], reserved := false, stage := 2, idTag := [] }

/-- The power-fail sequence ran for 6 ms while a record stood in the delivery ring. -/
def failingWithRecord : State :=
  let s := State.reset.setFld F.PWR_STAT_PF_ACTIVE 0 1
  { s with pwr := { s.pwr with sources := [] }, sys := { s.sys with stroke := 1000 }, asy := { s.asy with log := [ringRecord] } }

/-- Refutes O60: a power-fail reset that spares island 5 (R440) does not leave Assay's record as it was: a record that stands in the delivery
ring, whose memory a reset may lose, goes back to the records that wait for delivery. -/
theorem not_suppliesResetsAndRelease : ¬ Obligations.SuppliesResetsAndRelease := by
  unfold Obligations.SuppliesResetsAndRelease
  rintro ⟨-, -, -, power, -⟩
  obtain ⟨-, -, resets⟩ := power failingWithRecord (by decide)
  obtain ⟨t, answered, -, spares, -⟩ := (resets true true).1 (by decide)
  obtain ⟨kept, -⟩ := spares rfl rfl
  have reset : exec (.powerFailReset true true) failingWithRecord
      = .next (((failingWithRecord.assertReset 7 true false).setFlag F.PWR_STAT_PFW 0 false).report 0x1182) :=
    congrArg Host.Outcome.next (if_pos (by decide))
  obtain rfl := Host.Outcome.next.inj (reset.symm.trans answered)
  have log : failingWithRecord.redeliver.asy = failingWithRecord.asy := (State.powerFail_spared_asy rfl).symm.trans kept
  exact absurd (congrArg Asy.log log) (by decide)

end Sys2Proof.Machine
end

section
/-! SUPPORT. One bit of a number, the controllers' own state, and what the operations on a CAN controller change. -/

namespace Sys2Proof.Machine

open Sys2Proof

/-! ### One bit of a number -/

theorem two_pow_le_of_testBit {n k : Nat} (h : n.testBit k = true) : 2 ^ k ≤ n := Nat.ge_two_pow_of_testBit h

/-- A number with a bit cleared, and the number that has it. -/
theorem testBit_add_two_pow (x k : Nat) : (x + 2 ^ k).testBit k = !x.testBit k := by
  rw [Nat.add_comm, Nat.testBit_two_pow_add_eq]

theorem withBit_cases (n k : Nat) (b : Bool) :
    withBit n k b = n ∧ n.testBit k = b ∨ withBit n k b = n + 2 ^ k ∧ n.testBit k = false ∧ b = true
      ∨ n = withBit n k b + 2 ^ k ∧ n.testBit k = true ∧ b = false := by
  unfold withBit
  split
  case isTrue h => exact .inl ⟨rfl, h⟩
  case isFalse h =>
    cases b
    · have set : n.testBit k = true := by simpa using h
      have le := two_pow_le_of_testBit set
      exact .inr (.inr ⟨by simp only [Bool.false_eq_true, if_false]; omega, set, rfl⟩)
    · exact .inr (.inl ⟨if_pos rfl, by simpa using h, rfl⟩)

@[simp] theorem bitOf_withBit_same (n k : Nat) (b : Bool) : bitOf (withBit n k b) k = b := by
  unfold bitOf
  rcases withBit_cases n k b with ⟨e, h⟩ | ⟨e, h, rfl⟩ | ⟨e, h, rfl⟩
  · rw [e, h]
  · rw [e, testBit_add_two_pow, h, Bool.not_false]
  · rw [e, testBit_add_two_pow] at h
    exact Bool.not_eq_true' _ ▸ h

/-- A set bit that was clear carries into no other bit. -/
theorem testBit_add_two_pow_ne {x k j : Nat} (clear : x.testBit k = false) (other : j ≠ k) : (x + 2 ^ k).testBit j = x.testBit j := by
  rcases Nat.lt_or_gt_of_ne other with low | high
  · rw [Nat.add_comm, Nat.testBit_two_pow_add_gt low]
  · obtain ⟨i, rfl⟩ : ∃ i, j = k + 1 + i := ⟨j - (k + 1), by omega⟩
    have shift (y : Nat) : y.testBit (k + 1 + i) = (y / 2 ^ (k + 1)).testBit i := by rw [Nat.testBit_div_two_pow, Nat.add_comm]
    rw [shift, shift]
    congr 1
    have even : x / 2 ^ k % 2 = 0 := by simpa [Nat.testBit_eq_decide_div_mod_eq] using clear
    rw [Nat.pow_succ, ← Nat.div_div_eq_div_mul, ← Nat.div_div_eq_div_mul, Nat.add_div_right _ (Nat.two_pow_pos k)]
    omega

theorem bitOf_withBit_other (n : Nat) {k j : Nat} (b : Bool) (other : j ≠ k) : bitOf (withBit n k b) j = bitOf n j := by
  unfold bitOf
  rcases withBit_cases n k b with ⟨e, -⟩ | ⟨e, h, -⟩ | ⟨e, h, -⟩
  · rw [e]
  · rw [e, testBit_add_two_pow_ne h other]
  · have clear : (withBit n k b).testBit k = false := by
      rw [e, testBit_add_two_pow] at h
      exact Bool.not_eq_true' _ ▸ h
    exact ((testBit_add_two_pow_ne clear other).symm.trans (congrArg (Nat.testBit · j) e.symm))

theorem withBit_lt {n k w : Nat} (b : Bool) (h : n < 2 ^ w) (hk : k < w) : withBit n k b < 2 ^ w := by
  rcases withBit_cases n k b with ⟨e, -⟩ | ⟨e, clear, -⟩ | ⟨e, -⟩
  · rwa [e]
  · refine e ▸ Nat.lt_pow_two_of_testBit _ fun i le => ?_
    rw [testBit_add_two_pow_ne clear (by omega)]
    exact Nat.testBit_lt_two_pow (h.trans_le (Nat.pow_le_pow_right (by decide) le))
  · exact (Nat.le_add_right _ (2 ^ k)).trans_lt (e ▸ h)

/-- A bit of a field is read as it was written. -/
theorem State.bitOf_fld_withBit (s : State) (f : Fld) (i : Nat) {k : Nat} (b : Bool) (bit : k < f.width) :
    bitOf (withBit (s.fld f i) k b % 2 ^ f.width) k = b := by
  rw [Nat.mod_eq_of_lt (withBit_lt b (s.fld_lt f i) bit), bitOf_withBit_same]

end Sys2Proof.Machine
end

section
/-! SUPPORT. The CAN controllers: error counters, completed entries, and the start and the end of an attempt. -/

namespace Sys2Proof.Machine

open Sys2Proof

variable {s t u : State} {n : Nat}

/-! ### A controller's own state -/

@[simp] theorem State.canCtl_onCan (s : State) (n : Nat) (f : CanCtl → CanCtl) : (s.onCan n f).canCtl n = f (s.canCtl n) :=
  Arr.get_upd_same s.can.ctls n f

theorem State.canCtl_of_can (same : t.can = s.can) : t.canCtl n = s.canCtl n := by rw [State.canCtl, State.canCtl, same]

/-! ### What depends on registers alone -/

theorem State.ringFits_congr {q d e : Nat} (cfg : t.reg .PNT_RING_CFG q = s.reg .PNT_RING_CFG q) : t.ringFits q d e = s.ringFits q d e := by
  unfold State.ringFits State.ringEsize State.fld
  rw [cfg]

theorem State.ringEntries_congr {q : Nat} (cfg : t.reg .PNT_RING_CFG q = s.reg .PNT_RING_CFG q) : t.ringEntries q = s.ringEntries q := by
  simp only [State.ringEntries, State.fld, cfg]

theorem State.ringCount_congr {q : Nat} (cfg : t.reg .PNT_RING_CFG q = s.reg .PNT_RING_CFG q) (prod : t.ringProd q = s.ringProd q)
    (cons : t.ringCons q = s.ringCons q) : t.ringCount q = s.ringCount q := by
  rw [State.ringCount, State.ringCount, prod, cons, State.ringEntries_congr cfg]

/-- A delivery leaves the producer index of a ring of the other direction. -/
theorem State.ringProd_ringDeliver (s : State) (r : Nat) (entry : List Byte) {q size : Nat} (submission : s.ringFits q 1 size = true) :
    (s.ringDeliver r entry).ringProd q = s.ringProd q := by
  by_cases same : q = r
  · have closed : s.ringFits q 0 entry.length = false := by
      simp only [State.ringFits, decide_eq_true_eq] at submission
      simp [State.ringFits, submission.2.2.1]
    rw [State.ringDeliver, ← same, closed]
    exact (s.ringLost_regs q).fld (by simp)
  · exact (s.ringDeliver_regs r entry).fld (by simp [same])

/-- A delivery changes registers, memory, Scribe's counters, reports, and what is said of lost entries. -/
theorem State.ringDeliver_eq (s : State) (r : Nat) (entry : List Byte) :
    s.ringDeliver r entry = { s with regs := (s.ringDeliver r entry).regs, mem := (s.ringDeliver r entry).mem, ecc := (s.ringDeliver r entry).ecc,
                                      scb := (s.ringDeliver r entry).scb, reports := (s.ringDeliver r entry).reports, pnt := (s.ringDeliver r entry).pnt } := by
  unfold State.ringDeliver
  split
  · exact (s.ringPush_eq r entry).trans (by rw [s.ringPush_eq r entry])
  · unfold State.ringLost
    dsimp only
    split <;> rfl

theorem State.ringDeliver_sent (s : State) (r : Nat) (entry : List Byte) : (s.ringDeliver r entry).sent = s.sent :=
  (congrArg State.sent (s.ringDeliver_eq r entry)).trans rfl

theorem State.ringDeliver_can (s : State) (r : Nat) (entry : List Byte) : (s.ringDeliver r entry).can = s.can :=
  (congrArg State.can (s.ringDeliver_eq r entry)).trans rfl

/-! ### Leaving the bus -/

theorem State.canLeave_regs (s : State) (n : Nat) : CellsKept [(.CAN_STAT, 0)] s (s.canLeave n) := by
  unfold State.canLeave
  refine cellsKept_ite ?_ ?_ <;> simp

theorem State.canLeave_eq (s : State) (n : Nat) : s.canLeave n = { s with regs := (s.canLeave n).regs } := by
  unfold State.canLeave
  split <;> rfl

theorem State.canLeave_busOff (s : State) (n : Nat) : (s.canLeave n).fld F.CAN_STAT_BUS_OFF = s.fld F.CAN_STAT_BUS_OFF := by
  unfold State.canLeave
  split <;> simp

/-! ### Error counters (R357) -/

section Counters

variable (s : State) (n tec rec_ : Nat)

theorem State.canToBusOff_regs : CellsKept [(.CAN_ERR, n), (.CAN_STAT, 0), (.CAN_TT_STAT, n)] s (s.canToBusOff n) := by
  simp [State.canToBusOff, State.onCan]

theorem State.canToBusOff_fields : (s.canToBusOff n).fld F.CAN_ERR_STATE n = 2 ∧ (s.canToBusOff n).fld F.CAN_ERR_TEC n = s.fld F.CAN_ERR_TEC n
    ∧ (s.canToBusOff n).fld F.CAN_ERR_LEC n = s.fld F.CAN_ERR_LEC n := by
  simp [State.canToBusOff, State.onCan, Fld.width]

theorem State.canToBusOff_shown (small : n < 8) : bitOf ((s.canToBusOff n).fld F.CAN_STAT_BUS_OFF) n = true := by
  have bits := s.bitOf_fld_withBit F.CAN_STAT_BUS_OFF 0 true (show n < F.CAN_STAT_BUS_OFF.width from small)
  simpa [State.canToBusOff, State.onCan] using bits

theorem State.canToBusOff_eq : s.canToBusOff n = { s with regs := (s.canToBusOff n).regs, can := (s.canToBusOff n).can,
                                                          reports := s.reports ++ [⟨0x0901, n⟩] } := rfl

theorem State.canToBusOff_attempt : ((s.canToBusOff n).canCtl n).attempt = (s.canCtl n).attempt := by
  simp [State.canToBusOff, State.canCtl, State.onCan]

/-- The counters below bus-off: WARN at 96, error passive at 128. -/
theorem State.canCounters_calm (below : tec ≤ 255) :
    CellsKept [(.CAN_ERR, n), (.CAN_STAT, 0)] s (s.canCounters n tec rec_) ∧ (s.canCounters n tec rec_).fld F.CAN_ERR_TEC n = tec
      ∧ (s.canCounters n tec rec_).fld F.CAN_ERR_REC n = min rec_ 255 ∧ (s.canCounters n tec rec_).fld F.CAN_ERR_LEC n = s.fld F.CAN_ERR_LEC n
      ∧ (s.canCounters n tec rec_).flag F.CAN_ERR_WARN n = decide (96 ≤ tec ∨ 96 ≤ rec_)
      ∧ (s.canCounters n tec rec_).fld F.CAN_ERR_STATE n = (if 128 ≤ tec ∨ 128 ≤ rec_ then 1 else 0) := by
  have tecFits : min tec 255 % 256 = tec := by omega
  have recFits : min rec_ 255 % 256 = min rec_ 255 := by omega
  unfold State.canCounters
  dsimp only
  rw [if_neg (by omega)]
  split <;> split <;> simp [Fld.width, tecFits, recFits] <;> split <;> decide

/-- Below bus-off the counters change registers and reports alone. -/
theorem State.canCounters_calm_eq (below : tec ≤ 255) :
    s.canCounters n tec rec_ = { s with regs := (s.canCounters n tec rec_).regs, reports := (s.canCounters n tec rec_).reports } := by
  unfold State.canCounters
  dsimp only
  rw [if_neg (by omega)]
  split <;> split <;> rfl

/-- Above 255 the controller goes into bus-off with 0901h. -/
theorem State.canCounters_high (above : 255 < tec) :
    CellsKept [(.CAN_ERR, n), (.CAN_STAT, 0), (.CAN_TT_STAT, n)] s (s.canCounters n tec rec_)
      ∧ (s.canCounters n tec rec_).fld F.CAN_ERR_TEC n = 255 ∧ (s.canCounters n tec rec_).fld F.CAN_ERR_LEC n = s.fld F.CAN_ERR_LEC n
      ∧ (s.canCounters n tec rec_).fld F.CAN_ERR_STATE n = 2
      ∧ (n < 8 → bitOf ((s.canCounters n tec rec_).fld F.CAN_STAT_BUS_OFF) n = true)
      ∧ (⟨0x0901, n⟩ : Report) ∈ (s.canCounters n tec rec_).reports.drop s.reports.length := by
  have tecFits : min tec 255 % 256 = 255 := by omega
  obtain ⟨u, over_⟩ : ∃ u, u = ((s.setFld F.CAN_ERR_TEC n (min tec 255)).setFld F.CAN_ERR_REC n (min rec_ 255)).setFlag F.CAN_ERR_WARN n
      (decide (96 ≤ tec ∨ 96 ≤ rec_)) := ⟨_, rfl⟩
  have fields : CellsKept [(.CAN_ERR, n), (.CAN_STAT, 0), (.CAN_TT_STAT, n)] s u ∧ u.fld F.CAN_ERR_TEC n = 255
      ∧ u.fld F.CAN_ERR_LEC n = s.fld F.CAN_ERR_LEC n ∧ u.reports = s.reports := by
    rw [over_]
    simp [Fld.width, tecFits]
  obtain ⟨v, said⟩ : ∃ v, v = if (decide (96 ≤ tec ∨ 96 ≤ rec_) && !s.flag F.CAN_ERR_WARN n) = true then u.report 0x0982 n else u := ⟨_, rfl⟩
  have warned : CellsKept [(.CAN_ERR, n), (.CAN_STAT, 0), (.CAN_TT_STAT, n)] s v ∧ v.fld F.CAN_ERR_TEC n = 255
      ∧ v.fld F.CAN_ERR_LEC n = s.fld F.CAN_ERR_LEC n ∧ s.reports <+: v.reports := by
    obtain ⟨kept, tecs, lec, reports⟩ := fields
    rw [said]
    split
    · exact ⟨kept, tecs, lec, reports ▸ List.prefix_append _ _⟩
    · exact ⟨kept, tecs, lec, reports ▸ List.prefix_rfl⟩
  have off : s.canCounters n tec rec_ = v.canToBusOff n := by
    rw [said, over_]
    exact if_pos above
  obtain ⟨kept, tecs, lec, reports⟩ := warned
  obtain ⟨state, tecKept, lecKept⟩ := v.canToBusOff_fields n
  rw [off]
  exact ⟨kept.trans (v.canToBusOff_regs n), tecKept.trans tecs, lecKept.trans lec, state, v.canToBusOff_shown n,
    mem_reports_drop reports rfl⟩

/-- The counters change registers, reports, and a due reference message. -/
theorem State.canCounters_sent : (s.canCounters n tec rec_).sent = s.sent
    ∧ ((s.canCounters n tec rec_).canCtl n).attempt = (s.canCtl n).attempt := by
  by_cases above : 255 < tec
  · unfold State.canCounters
    dsimp only
    rw [if_pos above]
    split <;> exact ⟨rfl, State.canToBusOff_attempt _ n⟩
  · rw [s.canCounters_calm_eq n tec rec_ (by omega)]
    exact ⟨rfl, rfl⟩

end Counters

/-! ### Completed entries (R354) -/

/-- The device advances CONS of a ring alone. -/
theorem State.ringPop_regs (s : State) (r : Nat) : CellsKept [(.PNT_RING_CONS, r)] s (s.ringPop r) := by simp [State.ringPop]

theorem State.canAdvance_regs (s : State) (n k : Nat) : RegsKept [.PNT_RING_CONS] s (s.canAdvance n k) := by
  induction k generalizing s with
  | zero => exact RegsKept.refl _ s
  | succ k ih =>
    unfold State.canAdvance
    dsimp only
    split
    · exact RegsKept.trans (by simp [State.ringPop, State.onCan]) (ih _)
    · exact RegsKept.refl _ s

theorem State.canAdvance_sent (s : State) (n k : Nat) : (s.canAdvance n k).sent = s.sent
    ∧ ((s.canAdvance n k).canCtl n).attempt = (s.canCtl n).attempt := by
  induction k generalizing s with
  | zero => exact ⟨rfl, rfl⟩
  | succ k ih =>
    unfold State.canAdvance
    dsimp only
    split
    · obtain ⟨sent, attempt⟩ := ih ((s.onCan n fun x => { x with done := x.done.filter (· ≠ s.ringCons (s.fld F.CAN_CFG_TX_RING n)) }).ringPop
        (s.fld F.CAN_CFG_TX_RING n))
      exact ⟨sent, attempt.trans (by simp [State.ringPop, State.canCtl, State.onCan])⟩
    · exact ⟨rfl, rfl⟩

/-- CONS stays while the entry at the head is not complete. -/
theorem State.canAdvance_stays (head : s.ringCons (s.fld F.CAN_CFG_TX_RING n) ∉ (s.canCtl n).done) (k : Nat) : s.canAdvance n k = s := by
  cases k with
  | zero => rfl
  | succ k => exact if_neg fun h => head (List.contains_iff_mem.mp h.1)

/-- CONS passes the head when it is the one completed entry. -/
theorem State.canAdvance_head {q : Nat} (ring : s.fld F.CAN_CFG_TX_RING n = q) (only : (s.canCtl n).done = [s.ringCons q]) (some_ : s.ringCount q ≠ 0)
    (k : Nat) : (s.canAdvance n (k + 1)).ringCons q = (s.ringCons q + 1) % (2 * s.ringEntries q) % 2 ^ 17
      ∧ ((s.canAdvance n (k + 1)).canCtl n).done = [] := by
  subst ring
  have pops : s.canAdvance n (k + 1) = ((s.onCan n fun x => { x with done := x.done.filter (· ≠ s.ringCons (s.fld F.CAN_CFG_TX_RING n)) }).ringPop
      (s.fld F.CAN_CFG_TX_RING n)).canAdvance n k := if_pos ⟨by rw [only]; simp, some_⟩
  have empty : (((s.onCan n fun x => { x with done := x.done.filter (· ≠ s.ringCons (s.fld F.CAN_CFG_TX_RING n)) }).ringPop
      (s.fld F.CAN_CFG_TX_RING n)).canCtl n).done = [] := by
    refine (congrArg CanCtl.done (s.canCtl_onCan n _)).trans ?_
    rw [only]
    simp
  rw [pops, State.canAdvance_stays (by rw [empty]; exact List.not_mem_nil)]
  refine ⟨?_, empty⟩
  simp [State.ringPop, State.ringCons, State.onCan, State.ringEntries, Fld.width]

/-- What a controller records of a completed entry. -/
def CanCtl.completed (x : CanCtl) (owned : Bool) (index : Nat) : CanCtl :=
  { x with
    done := if owned then x.done ++ [index] else x.done
    cancel := x.cancel.filter (· ≠ index), retries := x.retries.filter fun c => decide (c.index ≠ index) }

/-- The completion record of an entry (R354). -/
def State.canRecord (s : State) (n index status ofs : Nat) (tried : Bool) : List Byte :=
  let last := (s.canCtl n).retries.find? fun c => decide (c.index = index)
  let retries := match last with | some c => min (if tried then c.fails else c.fails - 1) 255 | none => 0
  let end_ := match (if tried then none else last) with | some c => (c.at_, c.ofs) | none => (s.now, ofs)
  leBytes 2 (s.canTx n index).tag ++ leBytes 1 status ++ leBytes 1 retries ++ leBytes 2 index ++ leBytes 2 0 ++ leBytes 6 end_.1 ++ leBytes 2 end_.2

/-- A completed entry is recorded, before CONS advances. -/
def State.canRecorded (s : State) (n index status ofs : Nat) (tried : Bool) : State :=
  let t := s.onCan n fun x => x.completed (s.canOwned n index) index
  let r := t.fld F.CAN_CFG_TXC_RING n
  if r = 63 then t else t.ringDeliver r (s.canRecord n index status ofs tried)

section Complete

variable (s : State) (n index status ofs : Nat) (tried : Bool)

theorem State.canComplete_eq : s.canComplete n index status ofs tried = (s.canRecorded n index status ofs tried).canAdvance n 32 := rfl

theorem State.canRecorded_regs : RegsKept [.PNT_RING_PROD, .PNT_RING_STAT] s (s.canRecorded n index status ofs tried) := by
  unfold State.canRecorded
  dsimp only
  split
  · exact regsKept_of_regs rfl
  · refine RegsKept.trans ?_ ((State.ringDeliver_regs _ _ _).regsKept (by simp))
    exact regsKept_of_regs rfl

/-- A completed entry changes nothing of the rest of the controller's state. -/
theorem State.canRecorded_ctl : (s.canRecorded n index status ofs tried).sent = s.sent
    ∧ (s.canRecorded n index status ofs tried).canCtl n = (s.canCtl n).completed (s.canOwned n index) index := by
  unfold State.canRecorded
  dsimp only
  split
  · exact ⟨rfl, s.canCtl_onCan n _⟩
  · exact ⟨State.ringDeliver_sent _ _ _, (State.canCtl_of_can (State.ringDeliver_can _ _ _)).trans (s.canCtl_onCan n _)⟩

theorem State.canRecorded_prod {q size : Nat} (submission : s.ringFits q 1 size = true) :
    (s.canRecorded n index status ofs tried).ringProd q = s.ringProd q := by
  unfold State.canRecorded
  dsimp only
  split
  · rfl
  · rw [State.ringProd_ringDeliver (size := size)]
    · rfl
    · rw [← submission]
      exact State.ringFits_congr rfl

theorem State.canComplete_regs : RegsKept [.PNT_RING_PROD, .PNT_RING_STAT, .PNT_RING_CONS] s (s.canComplete n index status ofs tried) :=
  ((s.canRecorded_regs n index status ofs tried).mono (by simp)).trans ((State.canAdvance_regs _ n 32).mono (by simp))

theorem State.canComplete_sent : (s.canComplete n index status ofs tried).sent = s.sent
    ∧ ((s.canComplete n index status ofs tried).canCtl n).attempt = (s.canCtl n).attempt := by
  obtain ⟨sent, ctl⟩ := s.canRecorded_ctl n index status ofs tried
  obtain ⟨sentOn, attemptOn⟩ := (s.canRecorded n index status ofs tried).canAdvance_sent n 32
  exact ⟨sentOn.trans sent, attemptOn.trans (by rw [ctl]; rfl)⟩

end Complete

end Sys2Proof.Machine
end

section
/-! SUPPORT. The CAN controllers: the statement on attempts, arbitration and errors. -/

namespace Sys2Proof.Machine

open Sys2Proof

variable {s : State} {n ofs : Nat}

/-! ### Arbitration (R353) -/

theorem bestRank_none {l : List (Nat × CanSrc)} : bestRank l = none ↔ l = [] := by
  constructor
  · intro h
    cases l with
    | nil => rfl
    | cons c t =>
      rw [bestRank] at h
      split at h
      · split at h <;> exact absurd h (by simp)
      · exact absurd h (by simp)
  · rintro rfl
    rfl

/-- The lowest rank wins, the first of equals. -/
theorem bestRank_eq_find? (l : List (Nat × CanSrc)) : bestRank l = l.find? fun c => l.all fun d => decide (c.1 ≤ d.1) := by
  induction l with
  | nil => rfl
  | cons c t ih =>
    rw [bestRank, List.find?_cons]
    cases best : bestRank t with
    | none =>
      simp [bestRank_none.mp best]
    | some d =>
      rw [best] at ih
      have listed : d ∈ t := List.mem_of_find?_eq_some ih.symm
      have least : ∀ x ∈ t, d.1 ≤ x.1 := by simpa using List.find?_some ih.symm
      by_cases below : d.1 < c.1
      · have fails : ((c :: t).all fun x => decide (c.1 ≤ x.1)) = false := by
          rw [List.all_eq_false]
          exact ⟨d, List.mem_cons_of_mem _ listed, by simpa using below⟩
        simp only [fails, if_pos below]
        refine ih.trans (List.find?_congr fun x mem => ?_)
        rw [List.all_cons, Bool.eq_iff_iff, Bool.and_eq_true, decide_eq_true_eq, List.all_eq_true]
        exact ⟨fun all => ⟨(of_decide_eq_true (all d listed)).trans below.le, all⟩, And.right⟩
      · have wins : ((c :: t).all fun x => decide (c.1 ≤ x.1)) = true := by
          simp only [List.all_eq_true, decide_eq_true_eq, List.mem_cons, forall_eq_or_imp]
          exact ⟨Nat.le_refl _, fun x mem => (Nat.le_of_not_lt below).trans (least x mem)⟩
        simp only [wins, if_neg below]

/-! ### The start of an attempt -/

/-- A window without an invalid entry is left as it is. -/
theorem State.canReject_none (valid : ∀ i ∈ s.canWindow n, s.canInvalid n (s.canTx n i) = false ∧ s.canUnread n i = 0) : s.canReject n ofs = s := by
  have none_ : ((s.canWindow n).filter fun i => s.canInvalid n (s.canTx n i) || decide (s.canUnread n i ≠ 0)) = [] := by
    rw [List.filter_eq_nil_iff]
    intro i mem
    obtain ⟨fine, read⟩ := valid i mem
    simp [fine, read]
  rw [State.canReject, none_]
  rfl

theorem State.canAttempt_idle (idle : s.canSends n = false ∨ (s.canCtl n).attempt ≠ none) : s.canAttempt n ofs = s :=
  if_pos (by rcases idle with h | h <;> simp [h])

theorem State.canAttempt_starts (sends : s.canSends n = true) (idle : (s.canCtl n).attempt = none)
    (valid : ∀ i ∈ s.canWindow n, s.canInvalid n (s.canTx n i) = false ∧ s.canUnread n i = 0) :
    s.canAttempt n ofs = (bestRank (s.canCandidates n)).elim s fun c => s.canStart n c.2 := by
  unfold State.canAttempt
  rw [if_neg (by simp [sends, idle]), State.canReject_none valid]
  dsimp only
  cases bestRank (s.canCandidates n) <;> rfl

/-- An attempt that starts. -/
theorem State.canStart_spec (s : State) (n : Nat) (x : CanSrc) : CellsKept [(.CAN_TX_STAT, n)] s (s.canStart n x)
    ∧ ((s.canStart n x).canCtl n).attempt = some x ∧ (s.canStart n x).flag F.CAN_TX_STAT_ACTIVE n = true
    ∧ ∀ i e, x = .entry i e → (s.canStart n x).fld F.CAN_TX_STAT_CAND n = i % 2 ^ 17 := by
  cases x <;> simp [State.canStart, State.onCan, State.canCtl, Fld.width]

/-! ### The end of an attempt -/

/-- The controller has no attempt any more. -/
def State.canEnded (s : State) (n : Nat) : State := (s.onCan n fun y => { y with attempt := none }).setFld F.CAN_TX_STAT_ACTIVE n 0

theorem State.canEnd_none (idle : (s.canCtl n).attempt = none) (r : CanEnd) : s.canEnd n r ofs = s := by
  unfold State.canEnd
  rw [idle]

section Ends

variable {x : CanSrc} (running : (s.canCtl n).attempt = some x) (sends : s.canListens n = false)

include running sends

theorem State.canEnd_sent : s.canEnd n .sent ofs = ((s.canEnded n).canSent n ofs x).canLeave n := by
  unfold State.canEnd
  rw [running]
  dsimp only
  rw [if_neg (by simp [sends])]
  rfl

theorem State.canEnd_lostArb : s.canEnd n .lostArb ofs = ((s.canEnded n).canFailed n ofs 4 x).canLeave n := by
  unfold State.canEnd
  rw [running]
  dsimp only
  rw [if_neg (by simp [sends])]
  rfl

theorem State.canEnd_error (lec : Nat) : s.canEnd n (.error lec true) ofs
    = ((((s.canEnded n).setFld F.CAN_ERR_LEC n lec).canCounters n (((s.canEnded n).setFld F.CAN_ERR_LEC n lec).fld F.CAN_ERR_TEC n + 8)
        (((s.canEnded n).setFld F.CAN_ERR_LEC n lec).fld F.CAN_ERR_REC n)).canFailed n ofs 5 x).canLeave n := by
  unfold State.canEnd
  rw [running]
  dsimp only
  rw [if_neg (by simp [sends])]
  rfl

end Ends

theorem State.canEnded_regs (s : State) (n : Nat) : CellsKept [(.CAN_TX_STAT, n)] s (s.canEnded n) := by simp [State.canEnded, State.onCan]

theorem State.canEnded_active (s : State) (n : Nat) : (s.canEnded n).flag F.CAN_TX_STAT_ACTIVE n = false := by simp [State.canEnded]

theorem State.canEnded_ctl (s : State) (n : Nat) : (s.canEnded n).canCtl n = { s.canCtl n with attempt := none } := s.canCtl_onCan n _

/-- An entry reads the same while its ring and memory stay. -/
theorem State.canTx_congr {t : State} {rs : List Reg} (kept : RegsKept rs s t) (cfg : .CAN_CFG ∉ rs) (ring : .PNT_RING_CFG ∉ rs)
    (lo : .PNT_RING_BASE_LO ∉ rs) (hi : .PNT_RING_BASE_HI ∉ rs) (mem : t.mem = s.mem) (i : Nat) : t.canTx n i = s.canTx n i := by
  have base (q : Nat) : t.ringBase q = s.ringBase q := by simp only [State.ringBase, State.pair, kept _ _ lo, kept _ _ hi]
  have entries (q : Nat) : t.ringEntries q = s.ringEntries q := State.ringEntries_congr (kept _ _ ring)
  have queue : t.fld F.CAN_CFG_TX_RING n = s.fld F.CAN_CFG_TX_RING n := kept.fld cfg n
  simp only [State.canTx, queue, base, entries, State.bytes_of_mem mem]

theorem State.canEnded_frame (s : State) (n i : Nat) (excl : Bool) : (s.canEnded n).canFrameOut n (.entry i excl) = s.canFrameOut n (.entry i excl) := by
  have same : (s.canEnded n).canTx n i = s.canTx n i :=
    State.canTx_congr ((s.canEnded_regs n).regsKept (rs := [.CAN_TX_STAT]) (by simp)) (by simp) (by simp) (by simp) (by simp) rfl i
  simp only [State.canFrameOut, same]

/-- A sent entry: the frame goes out, the transmit error counter falls, and the entry completes. -/
def State.canWent (s : State) (n : Nat) (x : CanSrc) : State :=
  let t := ((s.canEnded n).send .can n ((s.canEnded n).canFrameOut n x)).count 12 (24 + 2 * n)
  t.canCounters n (t.fld F.CAN_ERR_TEC n - 1) (t.fld F.CAN_ERR_REC n)

theorem State.canWent_spec (s : State) (n i : Nat) (excl : Bool) :
    CellsKept [(.CAN_TX_STAT, n), (.CAN_ERR, n), (.CAN_STAT, 0)] s (s.canWent n (.entry i excl))
      ∧ (s.canWent n (.entry i excl)).flag F.CAN_TX_STAT_ACTIVE n = false
      ∧ (s.canWent n (.entry i excl)).canCtl n = { s.canCtl n with attempt := none }
      ∧ (s.canWent n (.entry i excl)).sent = s.sent ++ [⟨.can, n, s.canFrameOut n (.entry i excl)⟩]
      ∧ (s.canWent n (.entry i excl)).fld F.CAN_ERR_TEC n = s.fld F.CAN_ERR_TEC n - 1 := by
  obtain ⟨t, sent⟩ : ∃ t, t = ((s.canEnded n).send .can n ((s.canEnded n).canFrameOut n (.entry i excl))).count 12 (24 + 2 * n) := ⟨_, rfl⟩
  have same : t.regs = (s.canEnded n).regs ∧ t.can = (s.canEnded n).can ∧ t.sent = s.sent ++ [⟨.can, n, s.canFrameOut n (.entry i excl)⟩] := by
    rw [sent, s.canEnded_frame n i excl]
    exact ⟨rfl, rfl, rfl⟩
  obtain ⟨regs, can, out⟩ := same
  have kept : CellsKept [(.CAN_TX_STAT, n)] s t := (s.canEnded_regs n).trans (cellsKept_of_regs regs)
  have tec : t.fld F.CAN_ERR_TEC n = s.fld F.CAN_ERR_TEC n := kept.fld (by simp)
  have small := t.fld_lt F.CAN_ERR_TEC n
  have below : t.fld F.CAN_ERR_TEC n - 1 ≤ 255 := by
    simp only [Fld.width] at small
    omega
  obtain ⟨counted, value, -⟩ := t.canCounters_calm n _ (t.fld F.CAN_ERR_REC n) below
  have went : s.canWent n (.entry i excl) = t.canCounters n (t.fld F.CAN_ERR_TEC n - 1) (t.fld F.CAN_ERR_REC n) := by
    rw [sent]
    rfl
  have can' : (s.canWent n (.entry i excl)).can = t.can := by
    rw [went, t.canCounters_calm_eq n _ _ below]
  refine ⟨?_, ?_, ?_, ?_, ?_⟩
  · rw [went]
    exact (kept.mono (by simp)).trans (counted.mono (by simp))
  · rw [went, counted.flag (by simp)]
    refine Eq.trans ?_ (s.canEnded_active n)
    exact CellsKept.flag (ks := []) (cellsKept_of_regs regs) (by simp)
  · rw [State.canCtl_of_can (can'.trans can), s.canEnded_ctl n]
  · rw [went, (t.canCounters_sent n _ _).1, out]
  · rw [went, value, tec]

theorem State.canSent_entry {i : Nat} {excl : Bool} (kept : (s.canCtl n).cancel = []) :
    (s.canEnded n).canSent n ofs (.entry i excl) = (s.canWent n (.entry i excl)).canComplete n i 1 ofs true := by
  have ctl := (s.canWent_spec n i excl).2.2.1
  exact if_neg (by
    refine (show ((s.canWent n (.entry i excl)).canCtl n).cancel.contains i ≠ true from ?_)
    rw [ctl, kept]
    simp)

section Sent

variable {i : Nat} {excl : Bool} (running : (s.canCtl n).attempt = some (.entry i excl)) (kept : (s.canCtl n).cancel = [])
  (sends : s.canListens n = false)

include running kept sends

theorem State.canEnd_sent_spec (fresh : (s.canCtl n).done = []) (head : s.ringCons (s.fld F.CAN_CFG_TX_RING n) = i)
    (waits : s.ringCount (s.fld F.CAN_CFG_TX_RING n) ≠ 0) (fits : s.ringFits (s.fld F.CAN_CFG_TX_RING n) 1 128 = true) :
    ((s.canEnd n .sent ofs).canCtl n).attempt = none ∧ (s.canEnd n .sent ofs).flag F.CAN_TX_STAT_ACTIVE n = false
      ∧ (s.canEnd n .sent ofs).sent = s.sent ++ [⟨.can, n, s.canFrameOut n (.entry i excl)⟩]
      ∧ (s.canEnd n .sent ofs).ringCons (s.fld F.CAN_CFG_TX_RING n)
          = (i + 1) % (2 * s.ringEntries (s.fld F.CAN_CFG_TX_RING n)) % 2 ^ 17
      ∧ (s.canEnd n .sent ofs).fld F.CAN_ERR_TEC n = s.fld F.CAN_ERR_TEC n - 1 := by
  rw [State.canEnd_sent running sends, State.canSent_entry kept]
  obtain ⟨went, active, ctl, sent, tec⟩ := s.canWent_spec n i excl
  generalize s.canWent n (.entry i excl) = v at went active ctl sent tec
  obtain ⟨q, queue⟩ : ∃ q, q = s.fld F.CAN_CFG_TX_RING n := ⟨_, rfl⟩
  rw [← queue] at head waits fits ⊢
  have wentRegs : RegsKept [.CAN_TX_STAT, .CAN_ERR, .CAN_STAT] s v := went.regsKept (by simp)
  have cfg : v.reg .PNT_RING_CFG q = s.reg .PNT_RING_CFG q := wentRegs _ _ (by simp)
  have fitsV : v.ringFits q 1 128 = true := (State.ringFits_congr cfg).trans fits
  have recorded := v.canRecorded_regs n i 1 ofs true
  have cfgU : (v.canRecorded n i 1 ofs true).reg .PNT_RING_CFG q = s.reg .PNT_RING_CFG q := (recorded _ _ (by simp)).trans cfg
  have cons : v.ringCons q = i := (wentRegs.fld (by simp) q).trans head
  have consU : (v.canRecorded n i 1 ofs true).ringCons q = i := (recorded.fld (by simp) q).trans cons
  have prodU : (v.canRecorded n i 1 ofs true).ringProd q = s.ringProd q :=
    (v.canRecorded_prod n i 1 ofs true fitsV).trans (wentRegs.fld (by simp) q)
  have waitsU : (v.canRecorded n i 1 ofs true).ringCount q ≠ 0 := by rwa [State.ringCount_congr cfgU prodU (consU.trans head.symm)]
  have owned : v.canOwned n i = true := by
    have ring : v.fld F.CAN_CFG_TX_RING n = q := (wentRegs.fld (by simp) n).trans queue.symm
    have count : v.ringCount q ≠ 0 := by rwa [State.ringCount_congr cfg (wentRegs.fld (by simp) q) (cons.trans head.symm)]
    simp only [State.canOwned, ring, cons, ringDist, decide_eq_true_eq]
    rw [Nat.add_sub_cancel_left, Nat.mod_self]
    omega
  have only : ((v.canRecorded n i 1 ofs true).canCtl n).done = [(v.canRecorded n i 1 ofs true).ringCons q] := by
    rw [(v.canRecorded_ctl n i 1 ofs true).2, ctl, consU]
    simp [CanCtl.completed, owned, fresh]
  have ringU : (v.canRecorded n i 1 ofs true).fld F.CAN_CFG_TX_RING n = q :=
    (recorded.fld (by simp) n).trans ((wentRegs.fld (by simp) n).trans queue.symm)
  have passed := (State.canAdvance_head ringU only waitsU 31).1
  rw [consU, State.ringEntries_congr cfgU, ← State.canComplete_eq] at passed
  obtain ⟨sentOn, attempt⟩ := v.canComplete_sent n i 1 ofs true
  have done := v.canComplete_regs n i 1 ofs true
  generalize v.canComplete n i 1 ofs true = w at *
  have left := w.canLeave_regs n
  refine ⟨?_, ?_, ?_, ?_, ?_⟩
  · rw [w.canLeave_eq n]
    exact attempt.trans (by rw [ctl])
  · rw [left.flag (by simp), done.flag (by simp), active]
  · rw [w.canLeave_eq n]
    exact sentOn.trans sent
  · exact (left.fld (by simp)).trans passed
  · rw [left.fld (by simp), done.fld (by simp), tec]

/-- An entry that lost arbitration stays, and its attempt is remembered. -/
theorem State.canEnd_lostArb_spec (own : excl = false) (oneshot : (s.canTx n i).oneshot = false) (all : s.flag F.CAN_CFG_ONESHOT n = false)
    (first : (s.canCtl n).retries = []) :
    (s.canEnd n .lostArb ofs).canCtl n = { s.canCtl n with attempt := none, retries := [⟨i, 1, s.now, ofs⟩] }
      ∧ CellsKept [(.CAN_TX_STAT, n), (.CAN_STAT, 0)] s (s.canEnd n .lostArb ofs) ∧ (s.canEnd n .lostArb ofs).sent = s.sent := by
  have ended := s.canEnded_regs n
  have tx : (s.canEnded n).canTx n i = s.canTx n i :=
    State.canTx_congr (ended.regsKept (rs := [.CAN_TX_STAT]) (by simp)) (by simp) (by simp) (by simp) (by simp) rfl i
  have once : (s.canEnded n).flag F.CAN_CFG_ONESHOT n = false := (ended.flag (by simp)).trans all
  have fails : (s.canEnded n).canFailed n ofs 4 (.entry i excl)
      = (s.canEnded n).onCan n fun y => { y with retries := (y.retries.filter fun c => decide (c.index ≠ i)) ++ [⟨i, 1, s.now, ofs⟩] } := by
    have cancel : ((s.canEnded n).canCtl n).cancel = [] := (congrArg CanCtl.cancel (s.canEnded_ctl n)).trans kept
    have retries : ((s.canEnded n).canCtl n).retries = [] := (congrArg CanCtl.retries (s.canEnded_ctl n)).trans first
    subst own
    simp only [State.canFailed, tx, oneshot, once, Bool.false_eq_true, if_false, Bool.or_false, cancel, retries, List.contains_nil, List.find?_nil]
    rfl
  rw [State.canEnd_lostArb running sends, fails]
  generalize over_ : (s.canEnded n).onCan n (fun y => { y with retries := (y.retries.filter fun c => decide (c.index ≠ i)) ++ [⟨i, 1, s.now, ofs⟩] }) = u
  have ctl : u.canCtl n = { s.canCtl n with attempt := none, retries := [⟨i, 1, s.now, ofs⟩] } := by
    rw [← over_, State.canCtl_onCan, s.canEnded_ctl n, first]
    rfl
  have same : u.regs = (s.canEnded n).regs ∧ u.sent = s.sent := by
    rw [← over_]
    exact ⟨rfl, rfl⟩
  refine ⟨?_, ?_, ?_⟩
  · rw [u.canLeave_eq n]
    exact ctl
  · exact ((ended.trans (cellsKept_of_regs same.1)).mono (by simp)).trans ((u.canLeave_regs n).mono (by simp))
  · rw [u.canLeave_eq n]
    exact same.2

end Sent

/-! ### Errors (R357) -/

theorem State.canFailed_frame (s : State) (n ofs status : Nat) (x : CanSrc) :
    RegsKept [.PNT_RING_PROD, .PNT_RING_STAT, .PNT_RING_CONS, .CAN_TT_STAT] s (s.canFailed n ofs status x)
      ∧ (s.canFailed n ofs status x).sent = s.sent ∧ ((s.canFailed n ofs status x).canCtl n).attempt = (s.canCtl n).attempt := by
  cases x with
  | ref c => exact ⟨RegsKept.refl _ s, rfl, rfl⟩
  | tenon c b => exact ⟨RegsKept.refl _ s, rfl, rfl⟩
  | entry i excl =>
    have counted : RegsKept [.CAN_TT_STAT] s (if excl = true then s.bumpSat F.CAN_TT_STAT_TX_FAIL n else s)
        ∧ (if excl = true then s.bumpSat F.CAN_TT_STAT_TX_FAIL n else s).sent = s.sent
        ∧ (if excl = true then s.bumpSat F.CAN_TT_STAT_TX_FAIL n else s).canCtl n = s.canCtl n := by
      cases excl
      · exact ⟨RegsKept.refl _ s, rfl, rfl⟩
      · exact ⟨(regsKept_bumpSat (by simp)).mpr (RegsKept.refl _ s), rfl, rfl⟩
    unfold State.canFailed
    dsimp only
    generalize (if excl = true then s.bumpSat F.CAN_TT_STAT_TX_FAIL n else s) = u at counted
    obtain ⟨regs, sent, ctl⟩ := counted
    have completes (status : Nat) : RegsKept [.PNT_RING_PROD, .PNT_RING_STAT, .PNT_RING_CONS, .CAN_TT_STAT] s (u.canComplete n i status ofs true)
        ∧ (u.canComplete n i status ofs true).sent = s.sent
        ∧ ((u.canComplete n i status ofs true).canCtl n).attempt = (s.canCtl n).attempt := by
      obtain ⟨sentOn, attempt⟩ := u.canComplete_sent n i status ofs true
      exact ⟨(regs.mono (by simp)).trans ((u.canComplete_regs n i status ofs true).mono (by simp)), sentOn.trans sent,
        attempt.trans (by rw [ctl])⟩
    split
    · exact completes 3
    split
    · exact completes status
    · exact ⟨regs.mono (by simp), sent, by rw [State.canCtl_onCan, ctl]⟩

/-- An error on a frame that the controller sends. -/
theorem State.canEnd_error_spec {x : CanSrc} (running : (s.canCtl n).attempt = some x) (sends : s.canListens n = false) (small : n < 8) (lec : Nat) :
    ((s.canEnd n (.error lec true) ofs).canCtl n).attempt = none ∧ (s.canEnd n (.error lec true) ofs).fld F.CAN_ERR_LEC n = lec % 16
      ∧ (s.canEnd n (.error lec true) ofs).fld F.CAN_ERR_TEC n = min (s.fld F.CAN_ERR_TEC n + 8) 255
      ∧ (s.canEnd n (.error lec true) ofs).sent = s.sent
      ∧ (255 < s.fld F.CAN_ERR_TEC n + 8 → (s.canEnd n (.error lec true) ofs).fld F.CAN_ERR_STATE n = 2
        ∧ bitOf ((s.canEnd n (.error lec true) ofs).fld F.CAN_STAT_BUS_OFF) n = true
        ∧ (⟨0x0901, n⟩ : Report) ∈ (s.canEnd n (.error lec true) ofs).reports.drop s.reports.length) := by
  rw [State.canEnd_error running sends]
  obtain ⟨u, named⟩ : ∃ u, u = (s.canEnded n).setFld F.CAN_ERR_LEC n lec := ⟨_, rfl⟩
  have start : u.fld F.CAN_ERR_LEC n = lec % 16 ∧ u.fld F.CAN_ERR_TEC n = s.fld F.CAN_ERR_TEC n ∧ u.sent = s.sent ∧ u.reports = s.reports
      ∧ (u.canCtl n).attempt = none := by
    rw [named]
    refine ⟨by simp [Fld.width], ?_, rfl, rfl, congrArg CanCtl.attempt (s.canEnded_ctl n)⟩
    exact (State.fld_setFld_apart _ (by simp) (by simp)).trans ((s.canEnded_regs n).fld (by simp))
  rw [← named]
  clear named
  obtain ⟨lecU, tecU, sentU, reportsU, attemptU⟩ := start
  rw [tecU]
  obtain ⟨sentV, attemptV⟩ := u.canCounters_sent n (s.fld F.CAN_ERR_TEC n + 8) (u.fld F.CAN_ERR_REC n)
  have counted : (u.canCounters n (s.fld F.CAN_ERR_TEC n + 8) (u.fld F.CAN_ERR_REC n)).fld F.CAN_ERR_TEC n = min (s.fld F.CAN_ERR_TEC n + 8) 255
      ∧ (u.canCounters n (s.fld F.CAN_ERR_TEC n + 8) (u.fld F.CAN_ERR_REC n)).fld F.CAN_ERR_LEC n = lec % 16
      ∧ (255 < s.fld F.CAN_ERR_TEC n + 8 → (u.canCounters n (s.fld F.CAN_ERR_TEC n + 8) (u.fld F.CAN_ERR_REC n)).fld F.CAN_ERR_STATE n = 2
        ∧ bitOf ((u.canCounters n (s.fld F.CAN_ERR_TEC n + 8) (u.fld F.CAN_ERR_REC n)).fld F.CAN_STAT_BUS_OFF) n = true
        ∧ (⟨0x0901, n⟩ : Report) ∈ (u.canCounters n (s.fld F.CAN_ERR_TEC n + 8) (u.fld F.CAN_ERR_REC n)).reports.drop s.reports.length) := by
    by_cases above : 255 < s.fld F.CAN_ERR_TEC n + 8
    · obtain ⟨-, tec, lec', state, shown, said⟩ := u.canCounters_high n _ (u.fld F.CAN_ERR_REC n) above
      exact ⟨tec.trans (by omega), lec'.trans lecU, fun _ => ⟨state, shown small, reportsU ▸ said⟩⟩
    · obtain ⟨-, tec, -, lec', -⟩ := u.canCounters_calm n _ (u.fld F.CAN_ERR_REC n) (by omega : s.fld F.CAN_ERR_TEC n + 8 ≤ 255)
      exact ⟨tec.trans (by omega), lec'.trans lecU, fun h => absurd h above⟩
  generalize u.canCounters n (s.fld F.CAN_ERR_TEC n + 8) (u.fld F.CAN_ERR_REC n) = v at *
  obtain ⟨tec, lec', high⟩ := counted
  obtain ⟨failed, sentW, attemptW⟩ := v.canFailed_frame n ofs 5 x
  have grown := (v.canFailed_keeps n ofs 5 x).reports
  generalize v.canFailed n ofs 5 x = w at *
  have left := w.canLeave_regs n
  refine ⟨?_, ?_, ?_, ?_, fun above => ?_⟩
  · rw [w.canLeave_eq n]
    exact attemptW.trans (attemptV.trans attemptU)
  · rw [left.fld (by simp), failed.fld (by simp), lec']
  · rw [left.fld (by simp), failed.fld (by simp), tec]
  · rw [w.canLeave_eq n]
    exact sentW.trans (sentV.trans sentU)
  · obtain ⟨state, shown, said⟩ := high above
    refine ⟨?_, ?_, ?_⟩
    · rw [left.fld (by simp), failed.fld (by simp), state]
    · rw [w.canLeave_busOff, failed.fld (by simp), shown]
    · rw [w.canLeave_eq n]
      exact mem_reports_drop_of_prefix said grown

/-! ### Cancelling (R356) -/

section Cancel

variable {i : Nat}

theorem State.canCancel_refused (bad : s.ringFits (s.fld F.CAN_CFG_TX_RING n) 1 128 = false ∨ 2 * s.ringEntries (s.fld F.CAN_CFG_TX_RING n) ≤ i
      ∨ s.ringCount (s.fld F.CAN_CFG_TX_RING n) ≤ ringDist (s.ringCons (s.fld F.CAN_CFG_TX_RING n)) i (s.ringEntries (s.fld F.CAN_CFG_TX_RING n))
      ∨ i ∈ (s.canCtl n).done) : s.canCancel n i ofs = s.report 0x0904 n := by
  refine if_pos ?_
  rcases bad with h | h | h | h
  · exact .inl h
  · exact .inr (.inl h)
  · exact .inr (.inr (.inl (by simp [State.canOwned]; omega)))
  · exact .inr (.inr (.inr (List.contains_iff_mem.mpr h)))

variable (fits : s.ringFits (s.fld F.CAN_CFG_TX_RING n) 1 128 = true) (inRange : i < 2 * s.ringEntries (s.fld F.CAN_CFG_TX_RING n))
  (waits : ringDist (s.ringCons (s.fld F.CAN_CFG_TX_RING n)) i (s.ringEntries (s.fld F.CAN_CFG_TX_RING n)) < s.ringCount (s.fld F.CAN_CFG_TX_RING n))
  (pending : i ∉ (s.canCtl n).done)

include waits in
theorem State.canOwned_of_waits : s.canOwned n i = true := by simpa [State.canOwned] using waits

include fits inRange waits pending

theorem State.canCancel_taken : ¬(s.ringFits (s.fld F.CAN_CFG_TX_RING n) 1 128 = false ∨ 2 * s.ringEntries (s.fld F.CAN_CFG_TX_RING n) ≤ i
      ∨ s.canOwned n i = false ∨ (s.canCtl n).done.contains i = true) := by
  rw [fits, State.canOwned_of_waits waits, List.contains_iff_mem]
  rintro (h | h | h | h)
  · exact Bool.noConfusion h
  · omega
  · exact Bool.noConfusion h
  · exact pending h

/-- An entry is marked during its attempt. -/
theorem State.canCancel_running {e : Bool} (running : (s.canCtl n).attempt = some (.entry i e)) (sends : s.canListens n = false) :
    s.canCancel n i ofs = s.onCan n fun x => { x with cancel := i :: x.cancel.filter (· ≠ i) } := by
  unfold State.canCancel
  dsimp only
  rw [if_neg (State.canCancel_taken fits inRange waits pending), running]
  exact if_pos ⟨rfl, sends⟩

/-- A waiting entry behind the head completes, and CONS stays. -/
theorem State.canCancel_waiting (idle : (s.canCtl n).attempt = none) (none_ : (s.canCtl n).done = [])
    (behind : i ≠ s.ringCons (s.fld F.CAN_CFG_TX_RING n)) :
    ((s.canCancel n i ofs).canCtl n).done = [i] ∧ i ∉ (s.canCancel n i ofs).canWindow n
      ∧ (s.canCancel n i ofs).ringCons (s.fld F.CAN_CFG_TX_RING n) = s.ringCons (s.fld F.CAN_CFG_TX_RING n) := by
  have completes : s.canCancel n i ofs = s.canComplete n i 3 ofs false := by
    unfold State.canCancel
    dsimp only
    rw [if_neg (State.canCancel_taken fits inRange waits pending), idle]
  have recorded := s.canRecorded_regs n i 3 ofs false
  have done : ((s.canRecorded n i 3 ofs false).canCtl n).done = [i] := by
    rw [(s.canRecorded_ctl n i 3 ofs false).2]
    simp [CanCtl.completed, State.canOwned_of_waits waits, none_]
  have cons (q : Nat) : (s.canRecorded n i 3 ofs false).ringCons q = s.ringCons q := recorded.fld (by simp) q
  have queue : (s.canRecorded n i 3 ofs false).fld F.CAN_CFG_TX_RING n = s.fld F.CAN_CFG_TX_RING n := recorded.fld (by simp) n
  have stays : s.canComplete n i 3 ofs false = s.canRecorded n i 3 ofs false := by
    rw [State.canComplete_eq, State.canAdvance_stays]
    rw [done, queue, cons, List.mem_singleton]
    exact behind.symm
  rw [completes, stays]
  refine ⟨done, fun mem => ?_, cons _⟩
  unfold State.canWindow at mem
  dsimp only at mem
  split at mem
  · rw [List.mem_filter, done] at mem
    simp at mem
  · exact List.not_mem_nil mem

end Cancel

theorem canTxCancel_spec (who : Initiator) (n i ofs : Nat) (reaches : ReachesReg s who .CAN_TX_CANCEL n) :
    exec (.canTxCancel who n i ofs) s = .next { (served s who).canCancel n i ofs with resp := .done } :=
  congrArg Host.Outcome.next (rowWrite_reaches s who _ _ _ reaches)

/-! ### Leaving and rejoining the bus -/

theorem State.canDisable_spec (s : State) {n : Nat} (on receiving : Bool) (small : n < 8) :
    (s.canDisable n on receiving).flag F.CAN_CTL_DISABLE n = on
      ∧ (on = true → receiving = false → (s.canCtl n).attempt = none → bitOf ((s.canDisable n on receiving).fld F.CAN_STAT_DISABLED) n = true)
      ∧ (on = false ∨ receiving = true ∨ (s.canCtl n).attempt ≠ none → (s.canDisable n on receiving).reg .CAN_STAT 0 = s.reg .CAN_STAT 0)
      ∧ s.canDisable n on receiving = { s with regs := (s.canDisable n on receiving).regs }
      ∧ CellsKept [(.CAN_CTL, n), (.CAN_STAT, 0)] s (s.canDisable n on receiving) := by
  have bit := s.bitOf_fld_withBit F.CAN_STAT_DISABLED 0 true (show n < F.CAN_STAT_DISABLED.width from small)
  unfold State.canDisable State.canLeave
  dsimp only
  split
  case isFalse calm =>
    refine ⟨by simp, fun h r _ => absurd (by rw [h, r]; rfl) calm, fun _ => by simp, rfl, by simp⟩
  case isTrue now =>
    obtain ⟨rfl, rfl⟩ : on = true ∧ receiving = false := by simpa using now
    split
    case isTrue leaves =>
      refine ⟨by simp, fun _ _ _ => by simpa using bit, fun h => ?_, rfl, by simp⟩
      rcases h with h | h | h
      · exact Bool.noConfusion h
      · exact Bool.noConfusion h
      · exact absurd leaves.2 h
    case isFalse runs =>
      exact ⟨by simp, fun _ _ idle => absurd ⟨by simp, idle⟩ runs, fun _ => by simp, rfl, by simp⟩

theorem canRejoin_spec (runs : s.runs 0 = true) (small : n < 8) (enabled : s.flag F.CAN_CFG_EN n = true) (free : s.flag F.CAN_CTL_DISABLE n = false) :
    ∃ t, exec (.canRejoin n) s = .next t ∧ bitOf (t.fld F.CAN_STAT_DISABLED) n = false ∧ CellsKept [(.CAN_STAT, 0)] s t := by
  have bit := s.bitOf_fld_withBit F.CAN_STAT_DISABLED 0 false (show n < F.CAN_STAT_DISABLED.width from small)
  exact ⟨_, congrArg Host.Outcome.next ((State.live_runs runs).trans (if_pos ⟨enabled, free⟩)), by simpa using bit, by simp⟩

/-! ### Recovery (R357) -/

theorem State.canRecover_starts (off : s.canBusOff n = true) :
    (s.canRecover n).flag F.CAN_ERR_RECOVERING n = true ∧ CellsKept [(.CAN_ERR, n)] s (s.canRecover n) := by
  rw [State.canRecover, if_pos off]
  simp [Fld.width]

theorem recovered_spec (runs : s.runs 0 = true) (small : n < 8) (off : s.canBusOff n = true) (asked : s.flag F.CAN_ERR_RECOVERING n = true) :
    ∃ t, exec (.recovered n) s = .next t ∧ t.fld F.CAN_ERR_STATE n = 0 ∧ t.fld F.CAN_ERR_TEC n = 0 ∧ t.fld F.CAN_ERR_REC n = 0
      ∧ bitOf (t.fld F.CAN_STAT_BUS_OFF) n = false ∧ t.reports = s.reports ++ [⟨0x0983, n⟩] ∧ CellsKept [(.CAN_ERR, n), (.CAN_STAT, 0)] s t := by
  have bit := s.bitOf_fld_withBit F.CAN_STAT_BUS_OFF 0 false (show n < F.CAN_STAT_BUS_OFF.width from small)
  refine ⟨_, congrArg Host.Outcome.next ((State.live_runs runs).trans (if_pos (by rw [off, asked]; rfl))), ?_, ?_, ?_, ?_, rfl, ?_⟩
  case refine_4 => simpa using bit
  all_goals simp

/-! ### Triggers (R359) -/

section Trigger

variable {k : Nat} {g : CanTrig} {busy : Bool} (record : (canTrigs (s.body tyCAN))[k]? = some g)

include record in
theorem State.canTrigger_rests (other : s.fld F.CAN_TT_STAT_CYCLE n % max g.rep 1 ≠ g.base) : s.canTrigger n k busy ofs = s := by
  unfold State.canTrigger
  rw [record]
  exact if_pos (.inr (.inr (.inr (.inr other))))

variable (own : g.ctrl = n) (timed : s.fld F.CAN_CFG_TT n ≠ 0) (sync : s.flag F.CAN_TT_STAT_SYNC n = true) (joined : s.canOff n = false)
  (acts : s.fld F.CAN_TT_STAT_CYCLE n % max g.rep 1 = g.base)

include own timed sync joined acts

theorem State.canTrigger_acts : ¬(g.ctrl ≠ n ∨ s.fld F.CAN_CFG_TT n = 0 ∨ s.flag F.CAN_TT_STAT_SYNC n = false ∨ s.canOff n = true
    ∨ s.fld F.CAN_TT_STAT_CYCLE n % max g.rep 1 ≠ g.base) := by
  simp [own, timed, sync, joined, acts]

include record

/-- A reception check (type 2). -/
theorem State.canTrigger_check (check : g.typ = 2) : k ∉ ((s.canTrigger n k busy ofs).canCtl n).seen
    ∧ (s.canTrigger n k busy ofs).fld F.CAN_TT_STAT_MISSED n
      = if k ∈ (s.canCtl n).seen then s.fld F.CAN_TT_STAT_MISSED n else min (s.fld F.CAN_TT_STAT_MISSED n + 1) 255 := by
  have acted : s.canTrigger n k busy ofs = if (s.canCtl n).seen.contains k then s.onCan n fun x => { x with seen := x.seen.filter (· ≠ k) }
      else s.bumpSat F.CAN_TT_STAT_MISSED n := by
    unfold State.canTrigger
    rw [record]
    dsimp only
    rw [if_neg (State.canTrigger_acts own timed sync joined acts), check]
    rfl
  rw [acted]
  by_cases seen : k ∈ (s.canCtl n).seen
  · rw [if_pos (List.contains_iff_mem.mpr seen), if_pos seen]
    exact ⟨by simp, rfl⟩
  · rw [if_neg (fun h => seen (List.contains_iff_mem.mp h)), if_neg seen]
    exact ⟨seen, by simp [Fld.width]⟩

/-- An arbitrating window opens (type 3) or closes (type 4). -/
theorem State.canTrigger_window (window : g.typ = 3 ∨ g.typ = 4) :
    s.canTrigger n k busy ofs = s.onCan n fun x => { x with window := decide (g.typ = 3) } := by
  unfold State.canTrigger
  rw [record]
  dsimp only
  rw [if_neg (State.canTrigger_acts own timed sync joined acts)]
  rcases window with h | h <;> rw [h] <;> rfl

/-- An exclusive window (type 1). -/
theorem State.canTrigger_exclusive (exclusive : g.typ = 1) : s.canTrigger n k busy ofs = s.canExclusive n g.ref ofs busy := by
  unfold State.canTrigger
  rw [record]
  dsimp only
  rw [if_neg (State.canTrigger_acts own timed sync joined acts), exclusive]
  rfl

end Trigger

theorem State.canExclusive_found {slot i : Nat} {busy : Bool} (sends : s.canSends n = true)
    (valid : ∀ j ∈ s.canWindow n, s.canInvalid n (s.canTx n j) = false ∧ s.canUnread n j = 0)
    (found : ((s.canWindow n).find? fun i => (s.canTx n i).tt && decide ((s.canTx n i).slot = slot)) = some i) :
    s.canExclusive n slot ofs busy = if busy || decide ((s.canCtl n).attempt ≠ none) then (s.bumpSat F.CAN_TT_STAT_TX_FAIL n).canComplete n i 5 ofs false
      else s.canStart n (.entry i true) := by
  unfold State.canExclusive
  dsimp only
  rw [State.canReject_none valid, found, if_neg (by simp [sends])]

/-- Settles O52, clause by clause: an attempt, its ends, cancelling, leaving the bus, recovery, and triggers. -/
theorem canAttemptsFollowArbitrationAndErrors : Obligations.CanAttemptsFollowArbitrationAndErrors := by
  unfold Obligations.CanAttemptsFollowArbitrationAndErrors
  refine ⟨?attempt, ?ended, ?sent, ?error, ?cancel, ?disable, ?rejoin, ?recover, ?recovered, ?trigger, ?lost⟩
  case attempt =>
    intro s n ofs
    refine ⟨fun idle => ?_, fun runs sends idle valid => ⟨_, congrArg Host.Outcome.next (State.live_runs runs), ?_⟩⟩
    · refine congrArg Host.Outcome.next ?_
      rw [State.canAttempt_idle idle, State.live, ite_self]
    · rw [State.canAttempt_starts sends idle valid, ← bestRank_eq_find?]
      cases best : bestRank (s.canCandidates n) with
      | none =>
        have empty := bestRank_none.mp best
        simp [idle, empty]
      | some c =>
        obtain ⟨kept, attempt, active, cand⟩ := s.canStart_spec n c.2
        have some_ : s.canCandidates n ≠ [] := fun h => by simp [h, bestRank] at best
        refine ⟨kept, attempt, active.trans (by simp [some_]), fun i e h => cand i e (Option.some.inj (attempt.symm.trans h))⟩
  case ended =>
    intro s n ofs r idle
    refine congrArg Host.Outcome.next ?_
    rw [State.canEnd_none idle, State.live, ite_self]
  case sent =>
    intro s n i ofs excl runs running kept sends
    refine ⟨fun fresh head waits fits => ?_, fun own oneshot all first => ?_⟩
    · exact ⟨_, congrArg Host.Outcome.next (State.live_runs runs), State.canEnd_sent_spec running kept sends fresh head waits fits⟩
    · exact ⟨_, congrArg Host.Outcome.next (State.live_runs runs), State.canEnd_lostArb_spec running kept sends own oneshot all first⟩
  case error =>
    intro s n lec ofs x runs small sends running
    exact ⟨_, congrArg Host.Outcome.next (State.live_runs runs), State.canEnd_error_spec running sends small lec⟩
  case cancel =>
    intro s who n i ofs reaches
    rw [canTxCancel_spec who n i ofs reaches]
    obtain ⟨c, counted⟩ := served_scb s who 4
    rw [counted]
    refine ⟨fun bad => ?_, fun fits inRange waits pending => ⟨fun e running sends => ?_, fun idle none_ behind => ?_⟩⟩
    · rw [State.canCancel_refused (s := { s with scb := c }) bad]
    · rw [State.canCancel_running (s := { s with scb := c }) fits inRange waits pending running sends]
    · obtain ⟨done, out, cons⟩ := State.canCancel_waiting (s := { s with scb := c }) (ofs := ofs) fits inRange waits pending idle none_ behind
      exact ⟨_, rfl, rfl, done, out, cons⟩
  case disable =>
    intro s who n on receiving reaches small
    refine ⟨_, congrArg Host.Outcome.next (rowWrite_reaches s who _ _ _ reaches), ?_⟩
    obtain ⟨c, counted⟩ := served_scb s who 4
    rw [counted]
    obtain ⟨disable, leaves, stays, same, kept⟩ := State.canDisable_spec { s with scb := c } on receiving small
    exact ⟨disable, leaves, stays, congrArg (fun t : State => { t with resp := .done }) same, kept⟩
  case rejoin =>
    intro s n runs small enabled free
    exact canRejoin_spec runs small enabled free
  case recover =>
    intro s who n reaches
    obtain ⟨c, counted⟩ := served_scb s who 4
    have exec_ : exec (.recover who n) s = .next { (served s who).canRecover n with resp := .done } :=
      congrArg Host.Outcome.next (rowWrite_reaches s who _ _ _ reaches)
    rw [exec_, counted]
    refine ⟨fun on => ?_, fun off => ⟨_, rfl, ?_⟩⟩
    · rw [State.canRecover, if_neg (by rw [show State.canBusOff { s with scb := c } n = s.canBusOff n from rfl, on]; decide)]
    · obtain ⟨recovering, kept⟩ := State.canRecover_starts (s := { s with scb := c }) off
      exact ⟨recovering, rfl, kept⟩
  case recovered =>
    intro s n runs small off asked
    exact recovered_spec runs small off asked
  case trigger =>
    intro s n k ofs busy g runs record own timed sync joined
    have acted : exec (.ttTrigger n k busy ofs) s = .next (s.canTrigger n k busy ofs) := congrArg Host.Outcome.next (State.live_runs runs)
    rw [acted]
    refine ⟨fun other => by rw [State.canTrigger_rests record other], fun acts => ⟨fun check => ?_, fun window => ?_, fun i exclusive sends valid found => ?_⟩⟩
    · exact ⟨_, rfl, State.canTrigger_check record own timed sync joined acts check⟩
    · rw [State.canTrigger_window record own timed sync joined acts window]
    · rw [State.canTrigger_exclusive record own timed sync joined acts exclusive, State.canExclusive_found sends valid found]
      refine ⟨fun free idle => ?_, fun occupied => ?_⟩
      · rw [if_neg (by simp [free, idle])]
        obtain ⟨kept, attempt, -, cand⟩ := s.canStart_spec n (.entry i true)
        exact ⟨_, rfl, attempt, cand i true rfl, kept⟩
      · rw [if_pos (by simp [occupied])]
        refine ⟨_, rfl, ?_⟩
        rw [(State.canComplete_regs _ n i 5 ofs false).fld (by simp)]
        simp [Fld.width]
  case lost =>
    intro s n runs follows sync late
    exact ⟨_, congrArg Host.Outcome.next ((State.live_runs runs).trans (if_pos ⟨.inl follows, sync, late⟩)), by simp, rfl, by simp⟩

end Sys2Proof.Machine
end

section
/-! SUPPORT. Records of violations; the channels of Mortise, and what its operations leave unchanged. -/

namespace Sys2Proof.Machine

open Sys2Proof

variable {s t u : State}

/-! ### Violations (R341) -/

section Violation

variable (s : State) (group code : Nat) (port : Option Nat) (slot : Nat) (sender : Option Nat) (msg : List Byte) (detail : Option Nat) (key : Nat)

/-- A violation before its record. -/
def State.violationCounted (s : State) : State := (s.bumpSat F.NET_VIOL_CNT_COUNT 0).count 11 38

theorem State.ringDeliver_table (s : State) (r : Nat) (entry : List Byte) : (s.ringDeliver r entry).pnt.table = s.pnt.table := by
  unfold State.ringDeliver
  split
  · rw [State.ringPush_eq]
  · unfold State.ringLost
    dsimp only
    split <;> rfl

/-- A violation is counted; its record goes to ring 61. -/
theorem State.violation_regs : CellsKept [(.PNT_RING_PROD, 61), (.PNT_RING_STAT, 61)] s.violationCounted
    (s.violation group code port slot sender msg detail key) := by
  unfold State.violation
  dsimp only
  split
  · exact CellsKept.trans (cellsKept_of_regs rfl) (State.ringDeliver_regs _ 61 _)
  · split
    · exact cellsKept_of_regs rfl
    · exact CellsKept.trans (cellsKept_of_regs rfl) (State.ringDeliver_regs _ 61 _)

theorem State.violation_kept : CellsKept [(.NET_VIOL_CNT, 0), (.PNT_RING_PROD, 61), (.PNT_RING_STAT, 61)] s
    (s.violation group code port slot sender msg detail key) :=
  CellsKept.trans (by simp [State.violationCounted]) ((s.violation_regs group code port slot sender msg detail key).mono (by simp))

theorem State.violation_count : (s.violation group code port slot sender msg detail key).fld F.NET_VIOL_CNT_COUNT
    = min (s.fld F.NET_VIOL_CNT_COUNT + 1) (2 ^ 32 - 1) := by
  rw [(s.violation_regs group code port slot sender msg detail key).fld (by simp)]
  simp [State.violationCounted, Fld.width]

/-- What a violation leaves of the blocks' own state. -/
theorem State.violation_eq : ∃ regs mem ecc scb reports pnt net freeCtr, pnt.table = s.pnt.table
    ∧ s.violation group code port slot sender msg detail key
      = { s with regs := regs, mem := mem, ecc := ecc, scb := scb, reports := reports, pnt := pnt, net := net, freeCtr := freeCtr } := by
  have delivered (v : State) (entry : List Byte) (same : ∃ net freeCtr, v = { s.violationCounted with net := net, freeCtr := freeCtr }) :
      ∃ regs mem ecc scb reports pnt net freeCtr, pnt.table = s.pnt.table ∧ (v.ringDeliver 61 entry).report 0x0783 slot
        = { s with regs := regs, mem := mem, ecc := ecc, scb := scb, reports := reports, pnt := pnt, net := net, freeCtr := freeCtr } := by
    obtain ⟨net, freeCtr, rfl⟩ := same
    refine ⟨_, _, _, _, _, _, net, freeCtr, ?_, by rw [State.ringDeliver_eq]; rfl⟩
    exact State.ringDeliver_table _ _ _
  unfold State.violation
  dsimp only
  split
  · exact delivered _ _ ⟨_, _, rfl⟩
  · split
    · exact ⟨_, _, _, _, _, _, _, _, rfl, rfl⟩
    · exact delivered _ _ ⟨_, _, rfl⟩

end Violation

/-- A violation of a Tenon connection (R281) is one of the site network. -/
theorem State.tenonViolation_kept (s : State) (c code : Nat) (msg : List Byte) :
    CellsKept [(.NET_VIOL_CNT, 0), (.PNT_RING_PROD, 61), (.PNT_RING_STAT, 61)] s (s.tenonViolation c code msg) := by
  unfold State.tenonViolation
  split <;> exact State.violation_kept _ _ _ _ _ _ _ _ _

theorem State.tenonViolation_eq (s : State) (c code : Nat) (msg : List Byte) : ∃ regs mem ecc scb reports pnt net freeCtr,
    pnt.table = s.pnt.table ∧ s.tenonViolation c code msg
      = { s with regs := regs, mem := mem, ecc := ecc, scb := scb, reports := reports, pnt := pnt, net := net, freeCtr := freeCtr } := by
  unfold State.tenonViolation
  split <;> exact State.violation_eq ..

/-! ### The bits of a channel -/

theorem chanFld_reg_ne {k : Nat} {r : Reg} (out : r ≠ .MRT_OUT_STAT) (brake : r ≠ .MRT_BRK_STAT) (hi lo : Nat) : (chanFld k hi lo).reg ≠ r := by
  unfold chanFld
  split
  · exact out.symm
  · exact brake.symm

theorem chanFld_hi (k hi lo : Nat) : (chanFld k hi lo).hi = hi := by
  unfold chanFld
  split <;> rfl

theorem chanFld_lo (k hi lo : Nat) : (chanFld k hi lo).lo = lo := by
  unfold chanFld
  split <;> rfl

/-- The cell of a channel's status. -/
def chanCell (k : Nat) : RegKey := if k < 16 then (.MRT_OUT_STAT, k) else (.MRT_BRK_STAT, k - 16)

theorem chanCell_eq (k hi lo : Nat) : ((chanFld k hi lo).reg, chanIdx k) = chanCell k := by
  unfold chanFld chanIdx chanCell
  split <;> rfl

theorem chanCell_inj {k j : Nat} (h : chanCell k = chanCell j) : k = j := by
  unfold chanCell at h
  split at h <;> split at h <;> simp only [Prod.mk.injEq, reduceCtorEq, false_and] at h <;> omega

/-- A bit of a channel reads the same while its cell stays. -/
theorem State.chanBit_of_cell {k : Nat} (kept : t.reg (chanCell k).1 (chanCell k).2 = s.reg (chanCell k).1 (chanCell k).2) (b : Nat) :
    t.chanBit k b = s.chanBit k b := by
  rw [← chanCell_eq k b b] at kept
  exact State.flag_congr (by rw [State.fld, State.fld, kept])

theorem State.chanBit_of_cells {ks : List RegKey} (kept : CellsKept ks s t) {k : Nat} (other : chanCell k ∉ ks) (b : Nat) :
    t.chanBit k b = s.chanBit k b := State.chanBit_of_cell (kept _ _ other) b

theorem State.chanBit_of_regs {rs : List Reg} (kept : RegsKept rs s t) (out : .MRT_OUT_STAT ∉ rs) (brake : .MRT_BRK_STAT ∉ rs) (k b : Nat) :
    t.chanBit k b = s.chanBit k b := by
  refine State.chanBit_of_cell (kept _ _ ?_) b
  unfold chanCell
  split <;> assumption

@[simp] theorem State.chanBit_onMrt (s : State) (f : Mrt → Mrt) (k b : Nat) : (s.onMrt f).chanBit k b = s.chanBit k b := rfl
@[simp] theorem State.chanBit_onChan (s : State) (j : Nat) (f : SafeChan → SafeChan) (k b : Nat) : (s.onChan j f).chanBit k b = s.chanBit k b := rfl
@[simp] theorem State.chanBit_onBrake (s : State) (j : Nat) (f : Brake → Brake) (k b : Nat) : (s.onBrake j f).chanBit k b = s.chanBit k b := rfl
@[simp] theorem State.chanBit_onConn (s : State) (c : Nat) (f : Conn → Conn) (k b : Nat) : (s.onConn c f).chanBit k b = s.chanBit k b := rfl
@[simp] theorem State.chanBit_onFn (s : State) (n : Nat) (f : SafeFn → SafeFn) (k b : Nat) : (s.onFn n f).chanBit k b = s.chanBit k b := rfl
@[simp] theorem State.chanBit_onIn (s : State) (n : Nat) (f : SafeIn → SafeIn) (k b : Nat) : (s.onIn n f).chanBit k b = s.chanBit k b := rfl

section Bit

variable (s : State) {k j b c : Nat} (v : Bool)

theorem State.setChanBit_cell : CellsKept [chanCell k] s (s.setChanBit k b v) :=
  (cellsKept_setFlag (by rw [chanCell_eq]; exact List.mem_singleton_self _)).mpr (CellsKept.refl _ s)

theorem State.chanBit_setChanBit_same (fits : b < 32 := by decide) : (s.setChanBit k b v).chanBit k b = v :=
  State.flag_setFlag_self s ⟨by rwa [chanFld_hi], by rw [chanFld_hi, chanFld_lo]⟩

theorem State.chanBit_setChanBit_bit (other : c ≠ b := by decide) (fits : b < 32 := by decide) : (s.setChanBit k b v).chanBit k c = s.chanBit k c := by
  refine State.flag_setFlag_apart s (.inr ?_) ⟨by rwa [chanFld_hi], by rw [chanFld_hi, chanFld_lo], by rw [chanFld_hi, chanFld_lo]⟩
  simp only [chanFld_hi, chanFld_lo]
  omega

theorem State.chanBit_setChanBit_other (other : k ≠ j) : (s.setChanBit j b v).chanBit k c = s.chanBit k c :=
  State.chanBit_of_cells (s.setChanBit_cell v) (by simpa using fun h => other (chanCell_inj h)) c

end Bit

/-! ### A channel off, or half off -/

/-- The count of discarded tests stands below the bits of a channel. -/
theorem State.discarded_cell (s : State) (k : Nat) : CellsKept [chanCell k] s (s.bumpSat (chanFld k 15 8) (chanIdx k)) :=
  (cellsKept_bumpSat (by rw [chanCell_eq]; exact List.mem_singleton_self _)).mpr (CellsKept.refl _ s)

theorem State.discarded_bit (s : State) (k : Nat) {b : Nat} (high : 16 ≤ b) : (s.bumpSat (chanFld k 15 8) (chanIdx k)).chanBit k b = s.chanBit k b := by
  refine State.flag_bumpSat_apart s (.inr (.inr ?_)) ⟨by simp [chanFld_hi], by simp [chanFld_hi, chanFld_lo], by rw [chanFld_hi, chanFld_lo]⟩
  simp only [chanFld_hi, chanFld_lo]
  omega

/-- A status code of Mortise changes no channel. -/
theorem State.mrtCode_cell (s : State) (code n : Nat) : CellsKept [(.MRT_STAT, 0)] s (s.mrtCode code n) := by simp [State.mrtCode]

theorem chanCell_ne_stat (k : Nat) : chanCell k ∉ [(.MRT_STAT, 0)] := by
  unfold chanCell
  split <;> simp

@[simp] theorem State.chanBit_mrtCode (s : State) (code n k b : Nat) : (s.mrtCode code n).chanBit k b = s.chanBit k b :=
  State.chanBit_of_cells (s.mrtCode_cell code n) (chanCell_ne_stat k) b

theorem State.chanOff_cells (s : State) (k : Nat) : CellsKept [chanCell k, (.MRT_STAT, 0)] s (s.chanOff k) := by
  have off : CellsKept [chanCell k] s ((((s.setChanBit k 31 false).setChanBit k 30 false).setChanBit k 29 false).setChanBit k 26 false) :=
    (((s.setChanBit_cell false).trans (State.setChanBit_cell _ false)).trans (State.setChanBit_cell _ false)).trans (State.setChanBit_cell _ false)
  unfold State.chanOff
  dsimp only
  generalize (((s.setChanBit k 31 false).setChanBit k 30 false).setChanBit k 29 false).setChanBit k 26 false = u at off ⊢
  split
  · exact (((off.mono (by simp)).trans (cellsKept_of_regs rfl)).trans ((State.discarded_cell _ k).mono (by simp))).trans
      ((State.mrtCode_cell _ _ _).mono (by simp))
  · exact (off.mono (by simp)).trans (cellsKept_of_regs rfl)

/-- Both switches and the channel are off; its readback and its fault stand. -/
theorem State.chanOff_bits (s : State) (k : Nat) : ChannelOff k (s.chanOff k) ∧ (s.chanOff k).chanBit k 27 = s.chanBit k 27 := by
  have off : ∀ u : State, u = (((s.setChanBit k 31 false).setChanBit k 30 false).setChanBit k 29 false).setChanBit k 26 false →
      ChannelOff k u ∧ u.chanBit k 27 = s.chanBit k 27 := by
    rintro u rfl
    simp [ChannelOff, State.chanBit_setChanBit_same, State.chanBit_setChanBit_bit]
  unfold State.chanOff
  dsimp only
  generalize named : (((s.setChanBit k 31 false).setChanBit k 30 false).setChanBit k 29 false).setChanBit k 26 false = u
  have bits := off u named.symm
  split
  · simpa [ChannelOff, State.discarded_bit] using bits
  · exact bits

end Sys2Proof.Machine
end

section
/-! SUPPORT. What the operations of a safety cycle leave unchanged. -/

namespace Sys2Proof.Machine

open Sys2Proof

variable {s t u : State} {ks ls : List Nat}

/-! ### The frame of a safety cycle -/

/-- What a safety cycle counts and decides: its number, the cycles apart, the evaluation, and the functions. -/
def Mrt.core (m : Mrt) : Nat × Nat × List (Nat × Nat × Nat) × Arr SafeFn := (m.cycle, m.apart, m.eval, m.fns)

/-- The registers that the operations on channels, brakes, connections and inputs may write. -/
def calmRegs : List Reg :=
  [.MRT_STAT, .MRT_OUT_STAT, .MRT_BRK_STAT, .MRT_CONN_STAT, .MRT_CONN_ERR, .MRT_IN_STAT, .NET_VIOL_CNT, .PNT_RING_PROD, .PNT_RING_STAT]

/-- An operation on channels, brakes, connections and inputs: the rest stays, and a switch that was off is off still, but for the channels
listed. -/
structure Calm (ks : List Nat) (s t : State) : Prop where
  regs : RegsKept calmRegs s t
  drive : t.flag F.MRT_STAT_DRIVE = s.flag F.MRT_STAT_DRIVE
  jny : t.jny = s.jny
  core : t.mrt.core = s.mrt.core
  off : ∀ k b, k ∉ ks → 29 ≤ b → s.chanBit k b = false → t.chanBit k b = false

theorem Calm.refl (ks : List Nat) (s : State) : Calm ks s s := ⟨RegsKept.refl _ s, rfl, rfl, rfl, fun _ _ _ _ h => h⟩

theorem Calm.trans (h : Calm ks s u) (k : Calm ks u t) : Calm ks s t :=
  ⟨h.regs.trans k.regs, k.drive.trans h.drive, k.jny.trans h.jny, k.core.trans h.core, fun j b other high off => k.off j b other high (h.off j b other high off)⟩

theorem Calm.mono (h : Calm ks s t) (sub : ks ⊆ ls) : Calm ls s t := { h with off := fun j b other => h.off j b fun m => other (sub m) }

theorem Calm.of_nil (h : Calm [] s t) : Calm ks s t := h.mono (List.nil_subset ks)

theorem calm_ite {c : Prop} [Decidable c] (h : Calm ks s u) (k : Calm ks s t) : Calm ks s (if c then u else t) := by
  split <;> assumption

theorem calm_when {c : Bool} {f : State → State} (h : Calm ks u (f u)) : Calm ks u (u.when c f) := calm_ite h (Calm.refl ks u)

theorem calm_each {l : List Nat} {f : Nat → State → State} (next : ∀ k ∈ l, ∀ t, Calm ks t (f k t)) : Calm ks s (s.each l f) :=
  State.each_induct (P := Calm ks s) (Calm.refl ks s) fun k m t h => h.trans (next k m t)

/-! ### Single changes -/

/-- A change of cells that are no channel's, outside MRT_STAT. -/
theorem calm_of_cells {cs : List RegKey} (kept : CellsKept cs s t) (listed : ∀ c ∈ cs, c.1 ∈ calmRegs) (stat : (.MRT_STAT, 0) ∉ cs)
    (chans : ∀ k, chanCell k ∉ cs) (jny : t.jny = s.jny) (core : t.mrt.core = s.mrt.core) : Calm ks s t :=
  ⟨kept.regsKept listed, kept.flag stat, jny, core, fun k b _ _ off => (State.chanBit_of_cells kept (chans k) b).trans off⟩

theorem calm_of_regs (regs : t.regs = s.regs) (jny : t.jny = s.jny) (core : t.mrt.core = s.mrt.core) : Calm ks s t :=
  calm_of_cells (cs := []) (cellsKept_of_regs regs) (by simp) (by simp) (by simp) jny core

theorem chanCell_reg (k : Nat) : (chanCell k).1 = .MRT_OUT_STAT ∨ (chanCell k).1 = .MRT_BRK_STAT := by
  unfold chanCell
  split
  · exact .inl rfl
  · exact .inr rfl

theorem chanCell_not_mem {k : Nat} {cs : List RegKey} (others : ∀ c ∈ cs, c.1 ≠ .MRT_OUT_STAT ∧ c.1 ≠ .MRT_BRK_STAT) : chanCell k ∉ cs :=
  fun mem => (chanCell_reg k).elim (others _ mem).1 (others _ mem).2

theorem stat_not_chanCell (k : Nat) : (.MRT_STAT, 0) ∉ [chanCell k] := fun mem =>
  chanCell_ne_stat k (by rw [← List.mem_singleton.mp mem]; exact List.mem_singleton_self _)

theorem chanCell_calm (k : Nat) : ∀ c ∈ [chanCell k], c.1 ∈ calmRegs := by
  intro c mem
  rw [List.mem_singleton.mp mem]
  rcases chanCell_reg k with h | h <;> rw [h] <;> decide

/-- A field of a connection, an input or a counter is written. -/
theorem calm_setFld {f : Fld} (i n : Nat) (listed : f.reg ∈ calmRegs) (stat : f.reg ≠ .MRT_STAT) (out : f.reg ≠ .MRT_OUT_STAT)
    (brake : f.reg ≠ .MRT_BRK_STAT) : Calm ks s (s.setFld f i n) :=
  calm_of_cells (cs := [(f.reg, i)]) ((cellsKept_setFld (by simp)).mpr (CellsKept.refl _ s)) (by simpa using listed) (by simp [stat.symm])
    (fun k => chanCell_not_mem (by simpa using ⟨out, brake⟩)) rfl rfl

/-- A field of a brake below its switches. -/
theorem calm_brakeFld (s : State) {f : Fld} (i n : Nat) (own : f.reg = .MRT_BRK_STAT) (low : f.hi < 29) (order : f.lo ≤ f.hi) : Calm ks s (s.setFld f i n) := by
  refine ⟨(regsKept_setFld (by rw [own]; decide)).mpr (RegsKept.refl _ s), State.flag_setFld_apart s (.inl (by rw [own]; decide)) ⟨by omega, order, by decide⟩,
    rfl, rfl, fun k b _ high off => ?_⟩
  refine (State.flag_setFld_apart s (.inr (.inr ?_)) ⟨by omega, order, by rw [chanFld_hi, chanFld_lo]⟩).trans off
  rw [chanFld_lo]
  omega

theorem calm_mrtCode (s : State) (code n : Nat) : Calm ks s (s.mrtCode code n) :=
  ⟨(s.mrtCode_cell code n).regsKept (by simp [calmRegs]), by simp [State.mrtCode], rfl, rfl, fun k b _ _ off => (s.chanBit_mrtCode code n k b).trans off⟩

theorem calm_onChan (s : State) (k : Nat) (f : SafeChan → SafeChan) : Calm ks s (s.onChan k f) := calm_of_regs rfl rfl rfl
theorem calm_onBrake (s : State) (k : Nat) (f : Brake → Brake) : Calm ks s (s.onBrake k f) := calm_of_regs rfl rfl rfl
theorem calm_onConn (s : State) (c : Nat) (f : Conn → Conn) : Calm ks s (s.onConn c f) := calm_of_regs rfl rfl rfl
theorem calm_onIn (s : State) (n : Nat) (f : SafeIn → SafeIn) : Calm ks s (s.onIn n f) := calm_of_regs rfl rfl rfl

theorem calm_setChanBit (s : State) (k b : Nat) (v : Bool) (listed : v = true → k ∈ ks) (fits : b < 32 := by decide) : Calm ks s (s.setChanBit k b v) := by
  refine ⟨(s.setChanBit_cell v).regsKept (chanCell_calm k), ?_, rfl, rfl, fun j c other high off => ?_⟩
  · exact (s.setChanBit_cell v).flag (stat_not_chanCell k)
  · by_cases same : j = k
    · subst same
      have down : v = false := by simpa using fun h => other (listed h)
      by_cases bit : c = b
      · rw [bit, State.chanBit_setChanBit_same s v fits, down]
      · rw [State.chanBit_setChanBit_bit s v bit fits, off]
    · rw [State.chanBit_setChanBit_other s v same, off]

theorem calm_discarded (s : State) (k : Nat) : Calm ks s (s.bumpSat (chanFld k 15 8) (chanIdx k)) := by
  refine ⟨(s.discarded_cell k).regsKept (chanCell_calm k), (s.discarded_cell k).flag (stat_not_chanCell k), rfl, rfl, fun j b _ high off => ?_⟩
  by_cases same : j = k
  · rw [same, s.discarded_bit k (by omega), ← same, off]
  · rw [State.chanBit_of_cells (s.discarded_cell k) (by simpa using fun h => same (chanCell_inj h)), off]

/-- A discarded test is counted. -/
theorem calm_discard (s : State) (k : Nat) (test : Bool) :
    Calm ks s (if test = true then (s.bumpSat (chanFld k 15 8) (chanIdx k)).mrtCode 0x0C83 k else s) :=
  calm_ite ((calm_discarded s k).trans (calm_mrtCode _ _ _)) (Calm.refl ks s)

theorem calm_chanOff (s : State) (k : Nat) : Calm ks s (s.chanOff k) := by
  have off : Calm ks s ((((s.setChanBit k 31 false).setChanBit k 30 false).setChanBit k 29 false).setChanBit k 26 false) :=
    (((calm_setChanBit s k 31 false (by simp)).trans (calm_setChanBit _ k 30 false (by simp))).trans (calm_setChanBit _ k 29 false (by simp))).trans
      (calm_setChanBit _ k 26 false (by simp))
  unfold State.chanOff
  dsimp only
  generalize (((s.setChanBit k 31 false).setChanBit k 30 false).setChanBit k 29 false).setChanBit k 26 false = u at off ⊢
  exact (off.trans (calm_onChan u k _)).trans (calm_discard _ k _)

theorem calm_chanHalf (s : State) (k b : Nat) (fits : b < 32) : Calm ks s (s.chanHalf k b) := by
  unfold State.chanHalf
  dsimp only
  exact (((calm_setChanBit s k 31 false (by simp)).trans (calm_setChanBit _ k b false (by simp) fits)).trans (calm_setChanBit _ k 26 false (by simp))).trans
    (calm_discard _ k _)

theorem calm_chanTo (s : State) (k : Nat) (a b : Bool) : Calm [k] s (s.chanTo k a b) := by
  unfold State.chanTo
  split
  · exact calm_ite (Calm.refl _ s) (((calm_setChanBit s k 30 true (by simp)).trans (calm_setChanBit _ k 29 false (by simp))).trans (calm_onChan _ k _))
  · refine calm_ite (Calm.refl _ s) (calm_ite (calm_chanOff s k) (calm_chanHalf s k _ ?_))
    split <;> decide

/-! ### Brakes -/

theorem calm_endTest (s : State) (k : Nat) : Calm ks s (s.endTest k) := by
  have ended : Calm ks s ((s.setFld F.MRT_BRK_STAT_STEP k 0).onBrake k fun b => { b with began := none }) :=
    (calm_brakeFld s k 0 rfl (by decide) (by decide)).trans (calm_onBrake _ k _)
  unfold State.endTest
  dsimp only
  split
  · exact calm_ite (ended.trans (calm_chanOff _ _)) ended
  · exact ended

theorem calm_testAbort (s : State) (k : Nat) : Calm ks s (s.testAbort k) := (calm_endTest s k).trans (calm_mrtCode _ _ _)

theorem calm_torqueLost (s : State) (c : Nat) : Calm ks s (s.torqueLost c) :=
  calm_each fun k _ t => by
    split
    · exact calm_when (calm_testAbort t k)
    · exact Calm.refl ks t

theorem calm_brakeTo (s : State) (k : Nat) : Calm [16 + k] s (s.brakeTo k) := by
  unfold State.brakeTo
  dsimp only
  generalize aged : s.setFld F.MRT_BRK_STAT_AGE k (min _ 255) = u
  have start : Calm [16 + k] s u := aged ▸ calm_brakeFld s k _ rfl (by decide) (by decide)
  have due (v : State) : Calm [16 + k] v (v.setFld F.MRT_BRK_STAT_TEST_DUE k 1) := calm_brakeFld v k _ rfl (by decide) (by decide)
  split
  · have expired := calm_ite (c := (s.mrt.brakes.get k).acd = true) (start.trans ((due u).trans (calm_onBrake _ k fun b => { b with valid := false }))) start
    exact (expired.trans (calm_onBrake _ k _)).trans (calm_chanTo _ _ _ _)
  · have tested := calm_ite (c := u.testStep k ≠ 0) (start.trans (calm_testAbort u k)) start
    generalize (if u.testStep k ≠ 0 then u.testAbort k else u) = v at tested ⊢
    split
    · exact (tested.trans (calm_onBrake v k _)).trans (calm_chanTo _ _ _ _)
    · have refused := calm_ite (c := ((s.mrt.brakes.get k).said || (s.mrt.brakes.get k).acd) = true) tested
        (tested.trans (((due v).trans (calm_onBrake _ k fun b => { b with said := true })).trans (calm_mrtCode _ 0x0C08 k)))
      exact refused.trans (calm_chanTo _ _ _ _)

/-! ### Connections and inputs -/

theorem calm_tenonViolation (s : State) (c code : Nat) (msg : List Byte) : Calm ks s (s.tenonViolation c code msg) := by
  have kept := s.tenonViolation_kept c code msg
  obtain ⟨_, _, _, _, _, _, _, _, -, same⟩ := s.tenonViolation_eq c code msg
  exact calm_of_cells kept (by simp [calmRegs]) (by simp) (fun k => chanCell_not_mem (by simp)) (by rw [same]) (by rw [same])

theorem calm_press (s : State) (c : Nat) : Calm ks s (s.onMrt fun m => { m with press := m.press.set (64 + c) none }) := calm_of_regs rfl rfl rfl

theorem calm_tenonLost (s : State) (c : Nat) : Calm ks s (s.tenonLost c) := by
  have unbound : Calm ks s (((s.setFld F.MRT_CONN_STAT_VALID c 0).setFld F.MRT_CONN_STAT_LOST c 1).onConn c fun x =>
      { x with bound := false, good := 0, data := [] }) :=
    ((calm_setFld c 0 (by simp [calmRegs]) (by simp) (by simp) (by simp)).trans
      (calm_setFld c 1 (by simp [calmRegs]) (by simp) (by simp) (by simp))).trans (calm_onConn _ c _)
  unfold State.tenonLost
  split
  · refine calm_ite ?_ (Calm.refl ks s)
    exact (((unbound.trans (calm_press _ c)).trans (calm_mrtCode _ _ _)).trans (calm_tenonViolation _ _ _ _)).trans (calm_torqueLost _ _)
  · exact Calm.refl ks s

theorem calm_startupStep (s : State) (n : Nat) : Calm ks s (s.startupStep n) := by
  unfold State.startupStep
  refine calm_ite (Calm.refl ks s) (calm_ite (calm_onIn s n _) (calm_ite ?_ (Calm.refl ks s)))
  exact ((calm_setFld n 0 (by simp [calmRegs]) (by simp) (by simp) (by simp)).trans (calm_onIn _ n _)).trans (calm_mrtCode _ _ _)

theorem calm_tenonOut (s : State) (c : Nat) (r : ConnRec) (b : List Byte) : Calm ks s (s.tenonOut c r b) := by
  unfold State.tenonOut
  split
  · exact calm_of_regs rfl rfl rfl
  split
  · exact calm_ite (calm_of_regs rfl rfl rfl) (Calm.refl ks s)
  · exact calm_of_regs rfl rfl rfl

theorem calm_tenonSend (s : State) : Calm ks s s.tenonSend :=
  calm_each fun c _ t => by
    split
    · refine calm_ite (Calm.refl ks t) (calm_ite ((calm_tenonOut t c _ _).trans (calm_onConn _ c _)) ?_)
      exact ((calm_tenonOut t c _ _).trans (calm_setFld c _ (by simp [calmRegs]) (by simp) (by simp) (by simp))).trans (calm_onConn _ c _)
    · exact Calm.refl ks t

end Sys2Proof.Machine
end

section
/-! SUPPORT. The peg: its release, the end of SYNC, and a failed island. -/

namespace Sys2Proof.Machine

open Sys2Proof

variable {s t u : State}

/-! ### The gate of the paired discrete outputs (R309) -/

theorem State.pdoGate_regs (s : State) : CellsKept [(.PEG_PDO, 0)] s s.pdoGate := by
  unfold State.pdoGate
  refine cellsKept_ite ?_ ?_ <;> simp [State.onPeg]

theorem State.pdoGate_eq (s : State) : ∃ regs pdo, s.pdoGate = { s with regs := regs, peg := { s.peg with pdo := pdo } } := by
  unfold State.pdoGate
  split
  · exact ⟨s.regs, s.peg.pdo, rfl⟩
  · exact ⟨_, [], rfl⟩

/-! ### The end of tests (R308) -/

/-- The registers of channels and brakes. -/
def testRegs : List Reg := [.MRT_OUT_STAT, .MRT_BRK_STAT, .MRT_STAT]

theorem chanCell_test (k : Nat) : ∀ c ∈ [chanCell k], c.1 ∈ testRegs := by
  intro c mem
  rw [List.mem_singleton.mp mem]
  rcases chanCell_reg k with h | h <;> rw [h] <;> decide

theorem State.mrtCode_test (s : State) (code n : Nat) : RegsKept testRegs s (s.mrtCode code n) := (s.mrtCode_cell code n).regsKept (by simp [testRegs])

theorem State.setChanBit_test (s : State) (k b : Nat) (v : Bool) : RegsKept testRegs s (s.setChanBit k b v) := (s.setChanBit_cell v).regsKept (chanCell_test k)

theorem State.chanOff_test (s : State) (k : Nat) : RegsKept testRegs s (s.chanOff k) :=
  (s.chanOff_cells k).regsKept (by
    intro c mem
    rcases List.mem_cons.mp mem with rfl | mem
    · exact chanCell_test k _ (List.mem_singleton_self _)
    · rw [List.mem_singleton.mp mem]
      decide)

/-- Operations that change registers, Mortise's own state, and reports. -/
def TestsOnly (s t : State) : Prop :=
  RegsKept testRegs s t ∧ t = { s with regs := t.regs, mrt := t.mrt, reports := t.reports } ∧ t.mrt.core = s.mrt.core ∧ t.mrt.conns = s.mrt.conns

theorem TestsOnly.refl (s : State) : TestsOnly s s := ⟨RegsKept.refl _ s, rfl, rfl, rfl⟩

theorem TestsOnly.trans (h : TestsOnly s u) (k : TestsOnly u t) : TestsOnly s t := by
  obtain ⟨regs, same, core, conns⟩ := h
  obtain ⟨regs', same', core', conns'⟩ := k
  exact ⟨regs.trans regs', same'.trans (by rw [same]), core'.trans core, conns'.trans conns⟩

theorem testsOnly_ite {c : Prop} [Decidable c] (h : TestsOnly s u) (k : TestsOnly s t) : TestsOnly s (if c then u else t) := by
  split <;> assumption

theorem testsOnly_each {l : List Nat} {f : Nat → State → State} (next : ∀ k ∈ l, ∀ t, TestsOnly t (f k t)) : TestsOnly s (s.each l f) :=
  State.each_induct (P := TestsOnly s) (TestsOnly.refl s) fun k m t h => h.trans (next k m t)

theorem testsOnly_mrtCode (s : State) (code n : Nat) : TestsOnly s (s.mrtCode code n) := ⟨s.mrtCode_test code n, rfl, rfl, rfl⟩
theorem testsOnly_setChanBit (s : State) (k b : Nat) (v : Bool) : TestsOnly s (s.setChanBit k b v) := ⟨s.setChanBit_test k b v, rfl, rfl, rfl⟩
theorem testsOnly_discarded (s : State) (k : Nat) : TestsOnly s (s.bumpSat (chanFld k 15 8) (chanIdx k)) :=
  ⟨(s.discarded_cell k).regsKept (chanCell_test k), rfl, rfl, rfl⟩

theorem testsOnly_setFld (s : State) {f : Fld} (i n : Nat) (listed : f.reg ∈ testRegs) : TestsOnly s (s.setFld f i n) :=
  ⟨(regsKept_setFld listed).mpr (RegsKept.refl _ s), rfl, rfl, rfl⟩
theorem testsOnly_onChan (s : State) (k : Nat) (f : SafeChan → SafeChan) : TestsOnly s (s.onChan k f) := ⟨regsKept_of_regs rfl, rfl, rfl, rfl⟩
theorem testsOnly_onBrake (s : State) (k : Nat) (f : Brake → Brake) : TestsOnly s (s.onBrake k f) := ⟨regsKept_of_regs rfl, rfl, rfl, rfl⟩

theorem testsOnly_chanOff (s : State) (k : Nat) : TestsOnly s (s.chanOff k) := by
  unfold State.chanOff
  dsimp only
  have off := (((testsOnly_setChanBit s k 31 false).trans (testsOnly_setChanBit _ k 30 false)).trans (testsOnly_setChanBit _ k 29 false)).trans
    (testsOnly_setChanBit _ k 26 false)
  generalize (((s.setChanBit k 31 false).setChanBit k 30 false).setChanBit k 29 false).setChanBit k 26 false = u at off ⊢
  have turned := off.trans (testsOnly_onChan u k fun x => { x with step := 0, offAt := if s.chanBit k 31 || decide (x.step ≠ 0) then none else x.offAt })
  exact testsOnly_ite (turned.trans ((testsOnly_discarded _ k).trans (testsOnly_mrtCode _ _ _))) turned

theorem testsOnly_endTest (s : State) (k : Nat) : TestsOnly s (s.endTest k) := by
  have ended := (testsOnly_setFld s (f := F.MRT_BRK_STAT_STEP) k 0 (by decide)).trans (testsOnly_onBrake _ k fun b => { b with began := none })
  unfold State.endTest
  dsimp only
  split
  · exact testsOnly_ite (ended.trans (testsOnly_chanOff _ _)) ended
  · exact ended

theorem testsOnly_testAbort (s : State) (k : Nat) : TestsOnly s (s.testAbort k) := (testsOnly_endTest s k).trans (testsOnly_mrtCode _ _ _)

theorem testsOnly_endTests (s : State) : TestsOnly s s.endTests := by
  unfold State.endTests
  refine TestsOnly.trans (testsOnly_each fun k _ t => ?_) (testsOnly_each fun k _ t => ?_)
  · refine testsOnly_ite ?_ (TestsOnly.refl t)
    exact (((testsOnly_setChanBit t k 30 true).trans (testsOnly_setChanBit _ k 29 true)).trans (testsOnly_setChanBit _ k 26 false)).trans
      ((testsOnly_discarded _ k).trans (testsOnly_mrtCode _ _ _))
  · exact testsOnly_ite (testsOnly_testAbort t k) (TestsOnly.refl t)

/-! ### The peg is released (R296) -/

theorem State.pegCode_regs (s : State) (code : Nat) : CellsKept [(.PEG_STAT, 0)] s (s.pegCode code) := by simp [State.pegCode]

theorem State.pegEvent_regs (s : State) (cause : Nat) (took : Bool) : CellsKept [(.PEG_EVENT, 0)] s (s.pegEvent cause took) := by simp [State.pegEvent]

/-- The registers that a release of the peg may write. -/
def releaseRegs : List Reg := [.PEG_STAT, .PEG_EVENT, .PEG_PDO, .TRS_STAT, .FDL_STAT, .MRT_OUT_STAT, .MRT_BRK_STAT, .MRT_STAT]

/-- The net is released: the device holds no more, and waits for its partner. -/
def State.netReleased (s : State) : State :=
  let t := (s.setFld F.PEG_STAT_HOLD 0 0).setFld F.PEG_STAT_OWN_NET 0 1
  (t.setFld F.PEG_STAT_STATE 0 (if t.flag F.PEG_STAT_LINK then 2 else 0)).onPeg fun p =>
    { p with driven := false, released := true, keepers := false, due := none, aligned := false, lockGood := 0 }

/-- What goes with the peg besides: Truss follows, a frame on air is cut off, and the gate of the paired outputs closes. -/
def State.outputsReleased (s : State) : State :=
  let t := if s.fld F.TRS_STAT_STATE = 1 ∧ s.standby then s.setFld F.TRS_STAT_STATE 0 3 else s
  { t.setFld F.FDL_STAT_TX 0 0 with fdl := { t.fdl with air := none } }.pdoGate

theorem State.pegRelease_holder {s : State} (cause : Nat) (holder : (s.peg.driven || s.holds) = true) :
    s.pegRelease cause = ((s.netReleased.outputsReleased.endTests.modGap.pegEvent cause false).pegCode 0x0D82) := if_pos holder

theorem State.pegRelease_other {s : State} (cause : Nat) (other : (s.peg.driven || s.holds) = false) :
    s.pegRelease cause = s.onPeg fun p => { p with released := true } := if_neg (by simp [other])

theorem State.netReleased_spec (s : State) : CellsKept [(.PEG_STAT, 0)] s s.netReleased ∧ s.netReleased.holds = false
    ∧ s.netReleased.fld F.PEG_STAT_STATE = (if s.flag F.PEG_STAT_LINK then 2 else 0) ∧ s.netReleased.peg.driven = false
    ∧ s.netReleased.peg.released = true ∧ s.netReleased.peg.keepers = false := by
  refine ⟨by simp [State.netReleased, State.onPeg], ?_, ?_, rfl, rfl, rfl⟩
  · simp [State.netReleased, State.onPeg, State.holds]
  · by_cases link : s.flag F.PEG_STAT_LINK = true <;> simp [State.netReleased, State.onPeg, Fld.width, link]

theorem State.outputsReleased_regs (s : State) : CellsKept [(.TRS_STAT, 0), (.FDL_STAT, 0), (.PEG_PDO, 0)] s s.outputsReleased := by
  unfold State.outputsReleased
  dsimp only
  refine CellsKept.trans ?_ ((State.pdoGate_regs _).mono (by simp))
  rw [cellsKept_mk, cellsKept_setFld (by simp)]
  exact cellsKept_ite (by simp) (by simp)

/-- The own state of the pair after the outputs' release, but for the decided PDO words. -/
theorem State.outputsReleased_eq (s : State) : ∃ regs fdl pdo,
    s.outputsReleased = { s with regs := regs, fdl := fdl, peg := { s.peg with pdo := pdo } } := by
  unfold State.outputsReleased
  dsimp only
  obtain ⟨regs, pdo, gated⟩ := State.pdoGate_eq
    { (if s.fld F.TRS_STAT_STATE = 1 ∧ s.standby then s.setFld F.TRS_STAT_STATE 0 3 else s).setFld F.FDL_STAT_TX 0 0 with
      fdl := { (if s.fld F.TRS_STAT_STATE = 1 ∧ s.standby then s.setFld F.TRS_STAT_STATE 0 3 else s).fdl with air := none } }
  rw [gated]
  split <;> exact ⟨_, _, _, rfl⟩

theorem State.endTests_peg (s : State) : s.endTests.peg = s.peg := by
  rw [(testsOnly_endTests s).2.1]

/-- The device released the peg it held. -/
theorem State.pegRelease_released (s : State) (cause : Nat) (holder : (s.peg.driven || s.holds) = true) (small : cause < 16) :
    PegReleased cause s (s.pegRelease cause) := by
  obtain ⟨net, holds, state, driven, released, -⟩ := s.netReleased_spec
  have outputs := s.netReleased.outputsReleased_regs
  obtain ⟨regs, fdl, pdo, same⟩ := s.netReleased.outputsReleased_eq
  have tests := (testsOnly_endTests s.netReleased.outputsReleased).1
  have grown : s.reports <+: s.netReleased.outputsReleased.endTests.reports := by
    refine List.IsPrefix.trans ?_ (State.endTests_keeps _).reports
    rw [same]
    exact List.prefix_rfl
  have now : s.netReleased.outputsReleased.endTests.now = s.now := by
    rw [State.now, (testsOnly_endTests _).2.1, same]
    rfl
  have peg : s.netReleased.outputsReleased.endTests.peg = { s.netReleased.peg with pdo := pdo } := by
    rw [State.endTests_peg, same]
  have stat (f : Fld) (own : f.reg = .PEG_STAT) : s.netReleased.outputsReleased.endTests.fld f 0 = s.netReleased.fld f 0 :=
    (tests.fld (by rw [own]; decide) 0).trans (outputs.fld (by simp [own]))
  rw [s.pegRelease_holder cause holder]
  generalize s.netReleased.outputsReleased.endTests = u at *
  refine ⟨?_, ?_, ?_, ?_, ?_, ?_, ?_, ?_⟩
  · have held : u.holds = false := (State.flag_congr (stat F.PEG_STAT_HOLD rfl)).trans holds
    simpa [State.pegCode, State.pegEvent, State.modGap, State.holds] using held
  · exact (congrArg Peg.driven peg).trans driven
  · exact (congrArg Peg.released peg).trans released
  · rw [← state, ← stat F.PEG_STAT_STATE rfl]
    simp [State.pegCode, State.pegEvent, State.modGap]
  · simp [State.pegCode, State.pegEvent, State.modGap, Fld.width]
    omega
  · simp [State.pegCode, State.pegEvent, State.modGap]
  · have below : s.now % 100 % 128 = s.now % 100 := Nat.mod_eq_of_lt (by omega)
    simp [State.pegCode, State.pegEvent, State.modGap, Fld.width]
    rw [show State.now { u with acq := { u.acq with gap := List.range 64 } } = s.now from now]
    exact below
  · exact mem_reports_drop grown rfl

theorem State.pegRelease_regs (s : State) (cause : Nat) : RegsKept releaseRegs s (s.pegRelease cause) := by
  by_cases holder : (s.peg.driven || s.holds) = true
  · rw [s.pegRelease_holder cause holder]
    have net : RegsKept releaseRegs s s.netReleased := s.netReleased_spec.1.regsKept (by simp [releaseRegs])
    have outputs : RegsKept releaseRegs s.netReleased s.netReleased.outputsReleased := (State.outputsReleased_regs _).regsKept (by simp [releaseRegs])
    have tests : RegsKept releaseRegs _ s.netReleased.outputsReleased.endTests := (testsOnly_endTests _).1.mono (by simp [releaseRegs, testRegs])
    refine ((net.trans outputs).trans tests).trans ?_
    generalize s.netReleased.outputsReleased.endTests = u
    exact RegsKept.trans (RegsKept.trans (regsKept_of_regs rfl) ((State.pegEvent_regs u.modGap cause false).regsKept (by simp [releaseRegs])))
      ((State.pegCode_regs _ _).regsKept (by simp [releaseRegs]))
  · rw [s.pegRelease_other cause (by simpa using holder)]
    exact regsKept_of_regs rfl

/-- After a release the device does not hold, whether it held before or not. -/
theorem State.pegRelease_gate (s : State) (cause : Nat) (small : cause < 16) : (s.pegRelease cause).holds = false
    ∧ (s.pegRelease cause).peg.driven = false ∧ (s.pegRelease cause).peg.released = true := by
  by_cases holder : (s.peg.driven || s.holds) = true
  · obtain ⟨holds, driven, released, -⟩ := s.pegRelease_released cause holder small
    exact ⟨holds, driven, released⟩
  · obtain ⟨driven, holds⟩ : s.peg.driven = false ∧ s.holds = false := by simpa using holder
    rw [s.pegRelease_other cause (by simp [driven, holds])]
    exact ⟨holds, driven, rfl⟩

/-! ### SYNC ends (R304, R305) -/

theorem State.syncLost_other {s : State} {n : Nat} (other : s.fld F.PEG_STAT_STATE ≠ 4) : s.syncLost n = s := if_neg other

theorem State.syncLost_regs (s : State) (n : Nat) : RegsKept [.PEG_STAT, .PEG_SYNC_TIME, .PEG_PDO] s (s.syncLost n) := by
  unfold State.syncLost
  refine regsKept_ite ?_ (RegsKept.refl _ s)
  refine RegsKept.trans ?_ ((State.pegCode_regs _ _).regsKept (by simp))
  refine RegsKept.trans ?_ ((State.pdoGate_regs _).regsKept (by simp))
  simp [State.onPeg]

/-- The net and the gate stay as they are. -/
theorem State.syncLost_gate (s : State) (n : Nat) : (s.syncLost n).holds = s.holds ∧ (s.syncLost n).peg.driven = s.peg.driven
    ∧ (s.syncLost n).peg.released = s.peg.released := by
  unfold State.syncLost
  split
  · generalize named : ((s.setFld F.PEG_STAT_STATE 0 n).setFld F.PEG_SYNC_TIME_HEATS 0 0).onPeg _ = u
    have holds : u.holds = s.holds := by
      rw [← named]
      simp [State.onPeg, State.holds]
    have peg : u.peg.driven = s.peg.driven ∧ u.peg.released = s.peg.released := by
      rw [← named]
      exact ⟨rfl, rfl⟩
    have gate : u.pdoGate.holds = u.holds := (u.pdoGate_regs).flag (by simp)
    obtain ⟨regs, pdo, same⟩ := u.pdoGate_eq
    refine ⟨?_, ?_, ?_⟩
    · rw [← holds, ← gate]
      simp [State.pegCode, State.holds]
    · exact (congrArg (fun v : State => v.peg.driven) same).trans peg.1
    · exact (congrArg (fun v : State => v.peg.released) same).trans peg.2
  · exact ⟨rfl, rfl, rfl⟩

/-! ### Every safe output off (R39) -/

/-- One channel of the shut-off. -/
def State.chanShut (s : State) (k : Nat) : State :=
  ((((s.setChanBit k 31 false).setChanBit k 30 false).setChanBit k 29 false).setChanBit k 26 false).onChan k fun x => { x with step := 0 }

theorem State.safeOff_eq (s : State) : s.safeOff = s.each (List.range 20) fun k t => t.chanShut k := by
  unfold State.safeOff
  dsimp only
  congr 1
  funext k t
  unfold State.chanShut State.setChanBit chanFld chanIdx
  split <;> rfl

theorem testsOnly_chanShut (s : State) (k : Nat) : TestsOnly s (s.chanShut k) :=
  ((((testsOnly_setChanBit s k 31 false).trans (testsOnly_setChanBit _ k 30 false)).trans (testsOnly_setChanBit _ k 29 false)).trans
    (testsOnly_setChanBit _ k 26 false)).trans (testsOnly_onChan _ k _)

theorem State.chanShut_off (s : State) (k : Nat) : ChannelOff k (s.chanShut k) := by
  simp [ChannelOff, State.chanShut, State.chanBit_setChanBit_same, State.chanBit_setChanBit_bit]

theorem State.chanShut_other (s : State) {k j : Nat} (other : k ≠ j) (b : Nat) : (s.chanShut j).chanBit k b = s.chanBit k b := by
  simp [State.chanShut, State.chanBit_setChanBit_other _ _ other]

theorem testsOnly_safeOff (s : State) : TestsOnly s s.safeOff := by
  rw [s.safeOff_eq]
  exact testsOnly_each fun k _ t => testsOnly_chanShut t k

theorem State.safeOff_off (s : State) {k : Nat} (small : k < 20) : ChannelOff k s.safeOff := by
  rw [s.safeOff_eq]
  refine State.each_once (P := fun _ => True) (Q := ChannelOff k) List.nodup_range (List.mem_range.mpr small) trivial (fun _ _ _ _ => trivial)
    (fun t _ => t.chanShut_off k) fun j other t off => ?_
  obtain ⟨a, b, c⟩ := off
  exact ⟨(t.chanShut_other other.symm 31).trans a, (t.chanShut_other other.symm 30).trans b, (t.chanShut_other other.symm 29).trans c⟩

/-! ### A failed island (R38, R39) -/

/-- The island is marked, the peg is released, and SYNC ends. -/
def State.islandDown (s : State) (k : Nat) : State :=
  let t := s.setFld F.SYS_REGION_STAT_FAILED 0 (withBit (s.fld F.SYS_REGION_STAT_FAILED) k true)
  if k < 8 then (t.pegRelease 1).syncLost 3 else t

/-- The registers that a failing island may write before its own actions. -/
def downRegs : List Reg := .SYS_REGION_STAT :: .PEG_SYNC_TIME :: releaseRegs

theorem State.islandDown_regs (s : State) (k : Nat) : RegsKept downRegs s (s.islandDown k) := by
  have marked : RegsKept downRegs s (s.setFld F.SYS_REGION_STAT_FAILED 0 (withBit (s.fld F.SYS_REGION_STAT_FAILED) k true)) := by simp [downRegs]
  unfold State.islandDown
  dsimp only
  refine regsKept_ite ?_ marked
  exact (marked.trans ((State.pegRelease_regs _ 1).mono (by simp [downRegs]))).trans ((State.syncLost_regs _ 3).mono (by simp [downRegs, releaseRegs]))

theorem State.islandDown_failed (s : State) {k : Nat} (small : k < 9) : bitOf ((s.islandDown k).fld F.SYS_REGION_STAT_FAILED) k = true := by
  have bit := s.bitOf_fld_withBit F.SYS_REGION_STAT_FAILED 0 true (show k < F.SYS_REGION_STAT_FAILED.width from small)
  unfold State.islandDown
  dsimp only
  split
  · rw [(State.syncLost_regs _ 3).fld (by simp), (State.pegRelease_regs _ 1).fld (by simp [releaseRegs])]
    simpa using bit
  · simpa using bit

theorem State.islandDown_gate (s : State) {k : Nat} (low : k < 8) : (s.islandDown k).holds = false := by
  unfold State.islandDown
  dsimp only
  rw [if_pos low]
  exact (State.syncLost_gate _ 3).1.trans (State.pegRelease_gate _ 1 (by decide)).1

/-- Island 6 fails: every safe output and brake is off (R260). -/
theorem State.failIsland_six {s : State} (runs : bitOf (s.fld F.SYS_REGION_STAT_FAILED) 6 = false) : s.failIsland 6 = (s.islandDown 6).safeOff := by
  unfold State.failIsland
  rw [if_neg (by simp [runs])]
  rfl

theorem State.failIsland_six_spec {s : State} (runs : bitOf (s.fld F.SYS_REGION_STAT_FAILED) 6 = false) :
    bitOf ((s.failIsland 6).fld F.SYS_REGION_STAT_FAILED) 6 = true ∧ (s.failIsland 6).holds = false ∧ ∀ k < 20, ChannelOff k (s.failIsland 6) := by
  rw [State.failIsland_six runs]
  have shut := (testsOnly_safeOff (s.islandDown 6)).1
  refine ⟨?_, ?_, fun k small => State.safeOff_off _ small⟩
  · rw [shut.fld (by decide), s.islandDown_failed (by decide)]
  · exact (shut.flag (by decide) 0).trans (s.islandDown_gate (by decide))

end Sys2Proof.Machine
end

section
/-! SUPPORT. Mortise: the safety cycle. -/

namespace Sys2Proof.Machine

open Sys2Proof

variable {s t u : State}

/-! ### The functions show their states (R262) -/

/-- The state that a function shows, and what each pair applies of it. -/
def FnShown (f st0 st1 : Nat) (t : State) : Prop :=
  t.flag F.MRT_SF_STAT_DEMAND f = decide (st0 = 1 ∨ st1 = 1)
    ∧ t.flag F.MRT_SF_STAT_RESET_WAIT f = (!decide (st0 = 1 ∨ st1 = 1) && decide (st0 = 2 ∨ st1 = 2))
    ∧ (t.mrt.fns.get f).on0 = st0 ∧ (t.mrt.fns.get f).on1 = st1

/-- What the pairs judge a function by. -/
def SafeFn.judged (x : SafeFn) : Nat × Nat × Bool × Bool := (x.st, x.st1, x.pressed, x.pressed1)

/-- What showing the functions' states leaves. -/
structure ShowOnly (s t : State) : Prop where
  regs : RegsKept [.MRT_SF_STAT, .MRT_STAT] s t
  drive : t.flag F.MRT_STAT_DRIVE = s.flag F.MRT_STAT_DRIVE
  jny : t.jny = s.jny
  counts : t.mrt.cycle = s.mrt.cycle ∧ t.mrt.apart = s.mrt.apart ∧ t.mrt.eval = s.mrt.eval
  judged : ∀ f, (t.mrt.fns.get f).judged = (s.mrt.fns.get f).judged

theorem ShowOnly.refl (s : State) : ShowOnly s s := ⟨RegsKept.refl _ s, rfl, rfl, ⟨rfl, rfl, rfl⟩, fun _ => rfl⟩

theorem ShowOnly.trans (h : ShowOnly s u) (k : ShowOnly u t) : ShowOnly s t :=
  ⟨h.regs.trans k.regs, k.drive.trans h.drive, k.jny.trans h.jny, ⟨k.counts.1.trans h.counts.1, k.counts.2.1.trans h.counts.2.1,
    k.counts.2.2.trans h.counts.2.2⟩, fun f => (k.judged f).trans (h.judged f)⟩

/-- A function's state in its register and for the pairs, before a demand is counted. -/
def State.fnSet (s : State) (f st0 st1 : Nat) : State :=
  ((s.setFlag F.MRT_SF_STAT_DEMAND f (decide (st0 = 1 ∨ st1 = 1))).setFlag F.MRT_SF_STAT_RESET_WAIT f
    (!decide (st0 = 1 ∨ st1 = 1) && decide (st0 = 2 ∨ st1 = 2))).onFn f fun x => { x with on0 := st0, on1 := st1 }

theorem State.showFn_cases (s : State) (f st0 st1 : Nat) :
    s.showFn f st0 st1 = s.fnSet f st0 st1
      ∨ s.showFn f st0 st1 = (((s.fnSet f st0 st1).bumpSat F.MRT_SF_STAT_DEMANDS f).count 13 3).mrtCode 0x0C81 f := by
  unfold State.showFn State.fnSet
  dsimp only
  split
  · exact .inr rfl
  · exact .inl rfl

theorem State.fnSet_shown (s : State) (f st0 st1 : Nat) : FnShown f st0 st1 (s.fnSet f st0 st1) := by
  refine ⟨?_, ?_, ?_, ?_⟩
  · simp [State.fnSet, State.onFn, State.onMrt]
  · simp [State.fnSet, State.onFn, State.onMrt]
  · exact congrArg SafeFn.on0 (Arr.get_upd_same _ _ _)
  · exact congrArg SafeFn.on1 (Arr.get_upd_same _ _ _)

theorem State.fnSet_fns (s : State) (f st0 st1 : Nat) : (s.fnSet f st0 st1).mrt = { s.mrt with fns := s.mrt.fns.upd f fun x => { x with on0 := st0, on1 := st1 } } := rfl

theorem State.fnSet_only (s : State) (f st0 st1 : Nat) : ShowOnly s (s.fnSet f st0 st1) := by
  refine ⟨by simp [State.fnSet, State.onFn, State.onMrt], by simp [State.fnSet, State.onFn, State.onMrt], rfl, ⟨rfl, rfl, rfl⟩, fun g => ?_⟩
  rw [s.fnSet_fns]
  by_cases same : g = f
  · rw [same]
    exact (congrArg SafeFn.judged (Arr.get_upd_same s.mrt.fns f _)).trans rfl
  · exact congrArg SafeFn.judged (Arr.get_upd_ne _ same _)

theorem State.fnCounted_only (s : State) (f : Nat) : ShowOnly s (((s.bumpSat F.MRT_SF_STAT_DEMANDS f).count 13 3).mrtCode 0x0C81 f) :=
  ⟨by simp [State.mrtCode], by simp [State.mrtCode], rfl, ⟨rfl, rfl, rfl⟩, fun _ => rfl⟩

theorem State.showFn_only (s : State) (f st0 st1 : Nat) : ShowOnly s (s.showFn f st0 st1) := by
  rcases s.showFn_cases f st0 st1 with h | h
  · exact h ▸ s.fnSet_only f st0 st1
  · exact h ▸ (s.fnSet_only f st0 st1).trans (State.fnCounted_only _ f)

theorem State.showFn_shown (s : State) (f st0 st1 : Nat) : FnShown f st0 st1 (s.showFn f st0 st1) := by
  rcases s.showFn_cases f st0 st1 with h | h
  · exact h ▸ s.fnSet_shown f st0 st1
  · obtain ⟨demand, wait, on0, on1⟩ := s.fnSet_shown f st0 st1
    rw [h]
    refine ⟨?_, ?_, on0, on1⟩
    · rw [← demand]
      simp [State.mrtCode]
    · rw [← wait]
      simp [State.mrtCode]

/-- Another function's state stands. -/
theorem FnShown.keep {f st0 st1 : Nat} (shown : FnShown f st0 st1 s) {g : Nat} (other : f ≠ g) (x y : Nat) : FnShown f st0 st1 (s.showFn g x y) := by
  obtain ⟨demand, wait, on0, on1⟩ := shown
  have cells : CellsKept [(.MRT_SF_STAT, g), (.MRT_STAT, 0)] s (s.showFn g x y) := by
    rcases s.showFn_cases g x y with h | h <;> rw [h] <;> simp [State.fnSet, State.onFn, State.onMrt, State.mrtCode]
  have fns : (s.showFn g x y).mrt.fns.get f = s.mrt.fns.get f := by
    rcases s.showFn_cases g x y with h | h <;> rw [h] <;> exact Arr.get_upd_ne _ other _
  exact ⟨(cells.flag (by simp [other])).trans demand, (cells.flag (by simp [other])).trans wait, by rw [fns, on0], by rw [fns, on1]⟩

/-- The states that a cycle applies. -/
def State.applyFns (s : State) (l : List (Nat × Nat × Nat)) : State := l.foldl (fun t c => t.showFn c.1 c.2.1 c.2.2) s

theorem State.applyFns_only (s : State) (l : List (Nat × Nat × Nat)) : ShowOnly s (s.applyFns l) := by
  induction l generalizing s with
  | nil => exact ShowOnly.refl s
  | cons c l ih => exact (s.showFn_only c.1 c.2.1 c.2.2).trans (ih _)

theorem State.applyFns_keep {l : List (Nat × Nat × Nat)} {f st0 st1 : Nat} (shown : FnShown f st0 st1 s) (others : f ∉ l.map Prod.fst) :
    FnShown f st0 st1 (s.applyFns l) := by
  induction l generalizing s with
  | nil => exact shown
  | cons c l ih =>
    simp only [List.map_cons, List.mem_cons, not_or] at others
    exact ih (shown.keep others.1 _ _) others.2

theorem State.applyFns_at {l : List (Nat × Nat × Nat)} {f st0 st1 : Nat} (once : (l.map Prod.fst).Nodup) (listed : (f, st0, st1) ∈ l) (s : State) :
    FnShown f st0 st1 (s.applyFns l) := by
  induction l generalizing s with
  | nil => exact absurd listed List.not_mem_nil
  | cons c l ih =>
    rw [List.map_cons, List.nodup_cons] at once
    rcases List.mem_cons.mp listed with rfl | later
    · exact State.applyFns_keep (s := s.showFn f st0 st1) (s.showFn_shown f st0 st1) once.1
    · exact ih once.2 later _

/-! ### The channels follow the functions (R262, R263) -/

/-- A channel that both pairs, or one, withdraw. -/
theorem State.chanTo_off (s : State) (k : Nat) (a b : Bool) :
    (a = false → (s.chanTo k a b).chanBit k 30 = false) ∧ (b = false → (s.chanTo k a b).chanBit k 29 = false)
      ∧ (a = false → b = false → ChannelOff k (s.chanTo k a b)) := by
  have half (c : Nat) (fits : c = 29 ∨ c = 30) : (s.chanHalf k c).chanBit k c = false := by
    unfold State.chanHalf
    dsimp only
    rcases fits with rfl | rfl <;> split <;> simp [State.discarded_bit, State.chanBit_setChanBit_same, State.chanBit_setChanBit_bit]
  obtain ⟨allOff, -⟩ := s.chanOff_bits k
  cases a <;> cases b
  case true.true => exact ⟨fun h => Bool.noConfusion h, fun h => Bool.noConfusion h, fun h => Bool.noConfusion h⟩
  all_goals
    unfold State.chanTo
    rw [if_neg (by decide)]
    split
    case isTrue dark =>
      have bits : s.chanBit k 31 = false ∧ s.chanBit k 30 = false ∧ s.chanBit k 29 = false := by simpa [and_assoc] using dark
      exact ⟨fun _ => bits.2.1, fun _ => bits.2.2, fun _ _ => bits⟩
    split
    case isTrue => exact ⟨fun _ => allOff.2.1, fun _ => allOff.2.2, fun _ _ => allOff⟩
  case false.false.isFalse h => exact absurd h (by simp)
  case false.true.isFalse => exact ⟨fun _ => half 30 (.inr rfl), fun h => Bool.noConfusion h, fun _ h => Bool.noConfusion h⟩
  case true.false.isFalse => exact ⟨fun h => Bool.noConfusion h, fun _ => half 29 (.inl rfl), fun h => Bool.noConfusion h⟩

/-- The switches of a channel that a function out of RUN names. -/
def SwitchedOff (st0 st1 k : Nat) (t : State) : Prop :=
  (st0 ≠ 0 → t.chanBit k 30 = false) ∧ (st1 ≠ 0 → t.chanBit k 29 = false) ∧ (st0 ≠ 0 → st1 ≠ 0 → ChannelOff k t)

theorem SwitchedOff.calm {st0 st1 k : Nat} {ks : List Nat} (off : SwitchedOff st0 st1 k s) (calm : Calm ks s t) (other : k ∉ ks) :
    SwitchedOff st0 st1 k t := by
  obtain ⟨a, b, both⟩ := off
  refine ⟨fun h => calm.off k 30 other (by decide) (a h), fun h => calm.off k 29 other (by decide) (b h), fun h h' => ?_⟩
  obtain ⟨on, swA, swB⟩ := both h h'
  exact ⟨calm.off k 31 other (by decide) on, calm.off k 30 other (by decide) swA, calm.off k 29 other (by decide) swB⟩

/-- A function that a pair does not find in RUN holds off the channels that it names. -/
theorem State.chanFree_false {f st k : Nat} {p1 : Bool} (listed : f < s.fnCount) (names : s.fnNames f k = true)
    (on : (if p1 then (s.mrt.fns.get f).on1 else (s.mrt.fns.get f).on0) = st) (out : st ≠ 0) : s.chanFree k p1 = false := by
  unfold State.chanFree
  rw [List.all_eq_false]
  exact ⟨f, List.mem_filter.mpr ⟨List.mem_range.mpr listed, names⟩, by simpa [on] using out⟩

/-- A function applied as the pairs found it, under the same structure. -/
def FnApplied (s : State) (f st0 st1 : Nat) (t : State) : Prop := t.jny = s.jny ∧ (t.mrt.fns.get f).on0 = st0 ∧ (t.mrt.fns.get f).on1 = st1

theorem FnApplied.calm {f st0 st1 : Nat} {ks : List Nat} (applied : FnApplied s f st0 st1 u) (calm : Calm ks u t) : FnApplied s f st0 st1 t := by
  obtain ⟨jny, on0, on1⟩ := applied
  have fns : t.mrt.fns = u.mrt.fns := congrArg (fun c => c.2.2.2) calm.core
  exact ⟨calm.jny.trans jny, by rw [fns, on0], by rw [fns, on1]⟩

theorem fnNames_congr (jny : t.jny = s.jny) (f k : Nat) : t.fnNames f k = s.fnNames f k := by
  unfold State.fnNames State.fnRec State.brakeRec State.mrtBody State.body
  rw [jny]

theorem fnCount_congr (jny : t.jny = s.jny) : t.fnCount = s.fnCount := by
  simp only [State.fnCount, State.mrtBody, State.body, jny]

section Named

variable {f st0 st1 k : Nat} (listed : f < s.fnCount) (names : s.fnNames f k = true)

include listed names

theorem FnApplied.chanFree (applied : FnApplied s f st0 st1 t) (p1 : Bool) (out : (if p1 then st1 else st0) ≠ 0) : t.chanFree k p1 = false := by
  obtain ⟨jny, on0, on1⟩ := applied
  refine State.chanFree_false (f := f) (by rwa [fnCount_congr jny]) (by rwa [fnNames_congr jny]) ?_ out
  cases p1
  · exact on0
  · exact on1

/-- An output follows. -/
theorem FnApplied.output (applied : FnApplied s f st0 st1 t) : SwitchedOff st0 st1 k (t.chanTo k (t.outCmd k false) (t.outCmd k true)) := by
  have cmd (p1 : Bool) (out : (if p1 then st1 else st0) ≠ 0) : t.outCmd k p1 = false := by
    rw [State.outCmd, applied.chanFree listed names p1 out]
    rfl
  obtain ⟨a, b, both⟩ := t.chanTo_off k (t.outCmd k false) (t.outCmd k true)
  exact ⟨fun h => a (cmd false h), fun h => b (cmd true h), fun h h' => both (cmd false h) (cmd true h')⟩

end Named

theorem State.chanFree_calm {ks : List Nat} (calm : Calm ks s t) (k : Nat) (p1 : Bool) : t.chanFree k p1 = s.chanFree k p1 := by
  have fns : t.mrt.fns = s.mrt.fns := congrArg (fun c => c.2.2.2) calm.core
  have list : t.fnList = s.fnList := by rw [State.fnList, State.fnList, fnCount_congr calm.jny]
  simp only [State.chanFree, list, fns, fnNames_congr calm.jny]

/-- A brake follows: what becomes of it is a command of its two switches, each withdrawn where a function holds it off. -/
theorem State.brakeTo_cases (s : State) (k : Nat) : ∃ u a b, Calm [] s u ∧ s.brakeTo k = u.chanTo (16 + k) a b
    ∧ (s.chanFree (16 + k) false = false → a = false) ∧ (s.chanFree (16 + k) true = false → b = false) := by
  unfold State.brakeTo
  dsimp only
  generalize aged : s.setFld F.MRT_BRK_STAT_AGE k (min _ 255) = u
  have start : Calm [] s u := aged ▸ calm_brakeFld s k _ rfl (by decide) (by decide)
  have due (v : State) : Calm [] v (v.setFld F.MRT_BRK_STAT_TEST_DUE k 1) := calm_brakeFld v k _ rfl (by decide) (by decide)
  split
  · have expired := calm_ite (c := (s.mrt.brakes.get k).acd = true) (start.trans ((due u).trans (calm_onBrake _ k fun b => { b with valid := false }))) start
    exact ⟨_, false, false, expired.trans (calm_onBrake _ k _), rfl, fun _ => rfl, fun _ => rfl⟩
  · have tested := calm_ite (c := u.testStep k ≠ 0) (start.trans (calm_testAbort u k)) start
    generalize (if u.testStep k ≠ 0 then u.testAbort k else u) = v at tested ⊢
    have free (p1 : Bool) : v.chanFree (16 + k) p1 = s.chanFree (16 + k) p1 := State.chanFree_calm tested _ p1
    split
    case isTrue both =>
      rw [free false, free true] at both
      refine ⟨_, true, true, tested.trans (calm_onBrake v k _), rfl, fun h => ?_, fun h => ?_⟩ <;> simp [h] at both
    case isFalse =>
      have refused := calm_ite (c := ((s.mrt.brakes.get k).said || (s.mrt.brakes.get k).acd) = true) tested
        (tested.trans (((due v).trans (calm_onBrake _ k fun b => { b with said := true })).trans (calm_mrtCode _ 0x0C08 k)))
      refine ⟨_, _, _, refused, rfl, fun h => ?_, fun h => ?_⟩
      · rw [free false, h, Bool.and_false]
        rfl
      · rw [free true, h, Bool.and_false]
        rfl

theorem FnApplied.brake {f st0 st1 k : Nat} (listed : f < s.fnCount) (names : s.fnNames f (16 + k) = true) (applied : FnApplied s f st0 st1 t) :
    SwitchedOff st0 st1 (16 + k) (t.brakeTo k) := by
  obtain ⟨u, a, b, -, turned, offA, offB⟩ := t.brakeTo_cases k
  obtain ⟨swA, swB, both⟩ := u.chanTo_off (16 + k) a b
  have a0 (h : st0 ≠ 0) : a = false := offA (applied.chanFree listed names false h)
  have b0 (h : st1 ≠ 0) : b = false := offB (applied.chanFree listed names true h)
  rw [turned]
  exact ⟨fun h => swA (a0 h), fun h => swB (b0 h), fun h h' => both (a0 h) (b0 h')⟩

/-! ### What the last cycle evaluated is applied (R259) -/

/-- The brake tests that the functions' demands end. -/
def State.testsCut (s : State) : State :=
  s.each (List.range 4) fun k t =>
    match t.brakeRec k with
    | some r => t.when (decide (t.testStep k ≠ 0) && ((t.fnForBrake k (some r.sto)).any t.fnDemand || !t.flag F.MRT_CONN_STAT_VALID r.conn))
        fun u => u.testAbort k
    | none => t

/-- The commands of every channel. -/
def State.commanded (s : State) : State :=
  (s.each (List.range 16) fun k t => t.chanTo k (t.outCmd k false) (t.outCmd k true)).each (List.range 4) fun k t => t.brakeTo k

theorem State.applyCycle_eq (s : State) : s.applyCycle = if (!(s.applyFns s.mrt.eval).testsCut.holds && !(s.applyFns s.mrt.eval).testsCut.beside) = true
    then (s.applyFns s.mrt.eval).testsCut else (s.applyFns s.mrt.eval).testsCut.commanded := rfl

theorem calm_testsCut (s : State) : Calm [] s s.testsCut :=
  calm_each fun k _ t => by
    split
    · exact calm_when (calm_testAbort t k)
    · exact Calm.refl [] t

/-- Every channel. -/
def allChans : List Nat := List.range 20

theorem calm_commanded (s : State) : Calm allChans s s.commanded := by
  refine Calm.trans (calm_each fun k m t => (calm_chanTo t k _ _).mono ?_) (calm_each fun k m t => (calm_brakeTo t k).mono ?_)
  · rintro j (_ | ⟨_, ⟨⟩⟩)
    exact List.mem_range.mpr (by have := List.mem_range.mp m; omega)
  · rintro j (_ | ⟨_, ⟨⟩⟩)
    exact List.mem_range.mpr (by have := List.mem_range.mp m; omega)

/-- A function out of RUN for a pair turns off that pair's switch of every channel that it names. -/
theorem FnApplied.commanded {f st0 st1 k : Nat} (listed : f < s.fnCount) (small : k < 20) (names : s.fnNames f k = true)
    (applied : FnApplied s f st0 st1 t) : SwitchedOff st0 st1 k t.commanded := by
  unfold State.commanded
  by_cases output : k < 16
  · have outputs : SwitchedOff st0 st1 k (t.each (List.range 16) fun k t => t.chanTo k (t.outCmd k false) (t.outCmd k true)) :=
      State.each_once (P := FnApplied s f st0 st1) List.nodup_range (List.mem_range.mpr output) applied
        (fun j _ u h => h.calm (calm_chanTo u j _ _)) (fun u h => h.output listed names)
        (fun j other u h => h.calm (calm_chanTo u j _ _) (by simpa using other.symm))
    exact State.each_induct (P := SwitchedOff st0 st1 k) outputs fun j _ u h => h.calm (calm_brakeTo u j) (by simp; omega)
  · obtain ⟨i, rfl⟩ : ∃ i, k = 16 + i := ⟨k - 16, by omega⟩
    have before : FnApplied s f st0 st1 (t.each (List.range 16) fun k t => t.chanTo k (t.outCmd k false) (t.outCmd k true)) :=
      State.each_induct (P := FnApplied s f st0 st1) applied fun j _ u h => h.calm (calm_chanTo u j _ _)
    exact State.each_once (P := FnApplied s f st0 st1) (k := i) List.nodup_range (List.mem_range.mpr (by omega)) before
      (fun j _ u h => h.calm (calm_brakeTo u j)) (fun u h => h.brake listed names)
      (fun j other u h => h.calm (calm_brakeTo u j) (by simp; omega))

end Sys2Proof.Machine
end

section
/-! SUPPORT. Mortise: the evaluation and the exchange that end a safety cycle, and its faults. -/

namespace Sys2Proof.Machine

open Sys2Proof

variable {s t u : State}

/-! ### The cycle up to its evaluation -/

/-- What a safety cycle leaves up to its evaluation. -/
structure Cycled (s t : State) : Prop where
  regs : RegsKept (.MRT_SF_STAT :: calmRegs) s t
  drive : t.flag F.MRT_STAT_DRIVE = s.flag F.MRT_STAT_DRIVE
  jny : t.jny = s.jny
  cycle : t.mrt.cycle = s.mrt.cycle
  apart : t.mrt.apart = s.mrt.apart
  judged : ∀ f, (t.mrt.fns.get f).judged = (s.mrt.fns.get f).judged

theorem Cycled.trans (h : Cycled s u) (k : Cycled u t) : Cycled s t :=
  ⟨h.regs.trans k.regs, k.drive.trans h.drive, k.jny.trans h.jny, k.cycle.trans h.cycle, k.apart.trans h.apart, fun f => (k.judged f).trans (h.judged f)⟩

theorem ShowOnly.cycled (h : ShowOnly s t) : Cycled s t :=
  ⟨h.regs.mono (by simp [calmRegs]), h.drive, h.jny, h.counts.1, h.counts.2.1, h.judged⟩

theorem Calm.cycled {ks : List Nat} (h : Calm ks s t) : Cycled s t := by
  have core := h.core
  simp only [Mrt.core, Prod.mk.injEq] at core
  obtain ⟨cycle, apart, -, fns⟩ := core
  exact ⟨h.regs.mono (List.subset_cons_self _ _), h.drive, h.jny, cycle, apart, fun f => by rw [fns]⟩

theorem State.applyCycle_cycled (s : State) : Cycled s s.applyCycle := by
  have before := (s.applyFns_only s.mrt.eval).cycled.trans (calm_testsCut _).cycled
  rw [s.applyCycle_eq]
  split
  · exact before
  · exact before.trans (calm_commanded _).cycled

/-- Connections and inputs are looked at. -/
def State.monitored (s : State) : State :=
  (s.each (List.range 32) fun c t => (t.onConn c fun x => { x with idle := x.idle + 1 }).tenonLost c).each (List.range 32) fun n t => t.startupStep n

theorem calm_monitored (s : State) : Calm [] s s.monitored :=
  (calm_each fun c _ t => (calm_onConn t c _).trans (calm_tenonLost _ c)).trans (calm_each fun n _ t => calm_startupStep t n)

/-- A cycle begins. -/
def State.cycleBegun (s : State) : State :=
  let t := (s.onMrt fun m => { m with cycle := m.cycle + 1 }).count 13 2
  t.setFlag F.MRT_STAT_DRIVE 0 t.holds

theorem State.safetyCycle_sound (s : State) (p0 p1 : List Nat) :
    s.safetyCycle false p0 p1 = (s.cycleBegun.applyCycle.monitored.evaluate p0 p1).exchange p0 p1 := rfl

theorem State.cycleBegun_spec (s : State) : CellsKept [(.MRT_STAT, 0)] s s.cycleBegun ∧ s.cycleBegun.flag F.MRT_STAT_DRIVE = s.holds
    ∧ s.cycleBegun.jny = s.jny ∧ s.cycleBegun.mrt = { s.mrt with cycle := s.mrt.cycle + 1 } :=
  ⟨by simp [State.cycleBegun, State.onMrt], State.flag_setFlag_self _ (by decide), rfl, rfl⟩

/-- What a cycle finds when it evaluates. -/
theorem State.cycle_evaluates (s : State) : ∃ u, u = s.cycleBegun.applyCycle.monitored ∧ RegsKept (.MRT_SF_STAT :: calmRegs) s u
    ∧ u.flag F.MRT_STAT_DRIVE = s.holds ∧ u.jny = s.jny ∧ u.mrt.cycle = s.mrt.cycle + 1 ∧ u.mrt.apart = s.mrt.apart
    ∧ ∀ f, (u.mrt.fns.get f).judged = (s.mrt.fns.get f).judged := by
  obtain ⟨begun, drive, jny, mrt⟩ := s.cycleBegun_spec
  have cycled := s.cycleBegun.applyCycle_cycled.trans (calm_monitored _).cycled
  refine ⟨_, rfl, (begun.regsKept (by simp [calmRegs])).trans cycled.regs, cycled.drive.trans drive, cycled.jny.trans jny, ?_, ?_, fun f => ?_⟩
  · rw [cycled.cycle, mrt]
  · rw [cycled.apart, mrt]
  · rw [cycled.judged, mrt]

/-! ### The evaluation (R258, R259) -/

/-- The state of a function as each pair evaluates it. -/
def State.fnJudge (s : State) (p0 p1 : List Nat) (f : Nat) : Nat × Nat × Nat :=
  let x := s.mrt.fns.get f
  (f, s.fnNext f x.st x.pressed (s.fnDemands f || p0.contains f), s.fnNext f x.st1 x.pressed1 (s.fnDemands f || p1.contains f))

theorem foldl_onFn_eq {α : Type} (l : List α) (g : α → Nat) (f : α → SafeFn → SafeFn) (s : State) :
    ∃ fns, l.foldl (fun t c => t.onFn (g c) (f c)) s = { s with mrt := { s.mrt with fns := fns } } := by
  induction l generalizing s with
  | nil => exact ⟨s.mrt.fns, rfl⟩
  | cons c l ih =>
    obtain ⟨fns, same⟩ := ih (s.onFn (g c) (f c))
    exact ⟨fns, same.trans rfl⟩

/-- An evaluation records the functions' states, and changes nothing but the functions. -/
theorem State.evaluate_eq (s : State) (p0 p1 : List Nat) :
    ∃ fns, s.evaluate p0 p1 = { s with mrt := { s.mrt with fns := fns, eval := s.fnList.map (s.fnJudge p0 p1) } } := by
  unfold State.evaluate
  dsimp only
  obtain ⟨fns, same⟩ := foldl_onFn_eq (s.fnList.map (s.fnJudge p0 p1)) (fun c => c.1) (fun c x => { x with
    st := c.2.1, st1 := c.2.2, pressed := false, pressed1 := false, hot := decide ((s.fnRec c.1).sf = 6) && s.fnDemands c.1
    below := if ((s.fnRec c.1).inList.drop 1).any s.inDemand || (s.fnRec c.1).sig.any s.sigDemand then none else some (x.below.getD s.now) }) s
  exact ⟨fns, congrArg (fun v : State => v.onMrt fun m => { m with eval := s.fnList.map (s.fnJudge p0 p1) }) same⟩

theorem State.fnJudge_fst (s : State) (p0 p1 : List Nat) : (s.fnList.map (s.fnJudge p0 p1)).map Prod.fst = s.fnList := by
  rw [List.map_map]
  exact List.map_id _

/-- The pairs differ on a function that one of them alone finds in demand. -/
theorem State.evaluate_differ {p0 p1 : List Nat} {f : Nat} (listed : f < s.fnCount) (differ : p0.contains f ≠ p1.contains f) :
    (s.evaluate p0 p1).pairsDiffer p0 p1 = true := by
  obtain ⟨fns, same⟩ := s.evaluate_eq p0 p1
  rw [State.pairsDiffer, same, List.any_eq_true]
  exact ⟨s.fnJudge p0 p1 f, List.mem_map_of_mem (List.mem_range.mpr listed), (Bool.or_eq_true _ _).mpr (.inr (bne_iff_ne.mpr differ))⟩

/-- Pairs that saw and held the same agree. -/
theorem State.evaluate_agree {p0 p1 : List Nat} (alike : ∀ f < s.fnCount, p0.contains f = p1.contains f
    ∧ (s.mrt.fns.get f).st = (s.mrt.fns.get f).st1 ∧ (s.mrt.fns.get f).pressed = (s.mrt.fns.get f).pressed1) :
    (s.evaluate p0 p1).pairsDiffer p0 p1 = false := by
  obtain ⟨fns, same⟩ := s.evaluate_eq p0 p1
  rw [State.pairsDiffer, same, List.any_eq_false]
  rintro _ mem
  obtain ⟨f, listed, rfl⟩ := List.mem_map.mp mem
  obtain ⟨view, st, pressed⟩ := alike f (List.mem_range.mp listed)
  simp only [State.fnJudge, view, st, pressed]
  simp

/-! ### The exchange (R260) -/

theorem State.exchange_fault {p0 p1 : List Nat} (before : 1 ≤ s.mrt.apart) (differ : s.pairsDiffer p0 p1 = true) :
    s.exchange p0 p1 = (s.onMrt fun m => { m with apart := s.mrt.apart + 1 }).mortiseFault := by
  unfold State.exchange
  dsimp only
  rw [if_pos differ, if_pos (by omega)]

/-- The producers send where the pairs did not disagree twice. -/
theorem State.exchange_sends {p0 p1 : List Nat} (first : s.mrt.apart = 0 ∨ s.pairsDiffer p0 p1 = false) :
    s.exchange p0 p1 = (s.onMrt fun m => { m with apart := if s.pairsDiffer p0 p1 then 1 else 0 }).tenonSend := by
  unfold State.exchange
  dsimp only
  rcases first with h | h
  · rw [h]
    exact if_neg (by split <;> omega)
  · rw [h]
    exact if_neg (by simp)

/-! ### Faults (R260) -/

theorem State.mortiseFault_spec {s : State} (runs : bitOf (s.fld F.SYS_REGION_STAT_FAILED) 6 = false) :
    bitOf (s.mortiseFault.fld F.SYS_REGION_STAT_FAILED) 6 = true ∧ s.mortiseFault.holds = false ∧ (∀ k < 20, ChannelOff k s.mortiseFault)
      ∧ (⟨0x0C07, 0⟩ : Report) ∈ s.mortiseFault.reports.drop s.reports.length := by
  have runs' : bitOf ((s.mrtCode 0x0C07).fld F.SYS_REGION_STAT_FAILED) 6 = false := by
    rw [(s.mrtCode_cell 0x0C07 0).fld (by simp), runs]
  obtain ⟨failed, holds, off⟩ := State.failIsland_six_spec runs'
  refine ⟨failed, holds, off, mem_reports_drop_of_prefix (u := s.mrtCode 0x0C07) ?_ (State.failIsland_keeps _ 6).reports⟩
  exact mem_reports_drop List.prefix_rfl rfl

/-- A lockstep fault, or the second cycle in a row in which the pairs disagree, is a fault. -/
theorem State.safetyCycle_faults {fault : Bool} {p0 p1 : List Nat} (runs : bitOf (s.fld F.SYS_REGION_STAT_FAILED) 6 = false)
    (cause : fault = true ∨ (1 ≤ s.mrt.apart ∧ ∃ f < s.fnCount, p0.contains f ≠ p1.contains f)) :
    ∃ u : State, s.safetyCycle fault p0 p1 = u.mortiseFault ∧ bitOf (u.fld F.SYS_REGION_STAT_FAILED) 6 = false ∧ s.reports <+: u.reports := by
  cases fault
  case true => exact ⟨(s.onMrt fun m => { m with cycle := m.cycle + 1 }).count 13 2, rfl, runs, List.prefix_rfl⟩
  case false =>
    obtain ⟨before, f, listed, differ⟩ := cause.resolve_left (by decide)
    obtain ⟨u, named, regs, -, jny, -, apart, -⟩ := s.cycle_evaluates
    have grown : s.reports <+: u.reports := by
      rw [named]
      have monitors (v : State) : Keeps v v.monitored :=
        (State.each_keeps _ _ _ fun n t => t.startupStep_keeps n).after (State.each_keeps _ _ _ fun c t => (State.tenonLost_keeps _ c).after (State.onConn_keeps t c _))
      exact ((monitors _).after (State.applyCycle_keeps s.cycleBegun)).reports
    have fault := State.evaluate_differ (s := u) (p0 := p0) (p1 := p1) (by rwa [fnCount_congr jny]) differ
    obtain ⟨fns, same⟩ := u.evaluate_eq p0 p1
    have again : 1 ≤ (u.evaluate p0 p1).mrt.apart := by
      rw [same]
      exact apart ▸ before
    rw [s.safetyCycle_sound, ← named, State.exchange_fault again fault]
    refine ⟨_, rfl, ?_, ?_⟩
    · rw [same]
      exact (congrArg (bitOf · 6) (regs.fld (by simp [calmRegs]) 0)).trans runs
    · rw [same]
      exact grown

/-! ### A cycle without a fault (R259) -/

/-- The end of a cycle whose pairs did not disagree twice: the evaluation, and the count of cycles apart. -/
theorem State.exchange_ends {p0 p1 : List Nat} (first : s.mrt.apart = 0 ∨ (s.evaluate p0 p1).pairsDiffer p0 p1 = false) :
    ∃ u, Calm [] u ((s.evaluate p0 p1).exchange p0 p1) ∧ u.regs = s.regs ∧ u.mrt.cycle = s.mrt.cycle
      ∧ u.mrt.eval = s.fnList.map (s.fnJudge p0 p1) ∧ u.mrt.apart = if (s.evaluate p0 p1).pairsDiffer p0 p1 then 1 else 0 := by
  obtain ⟨fns, same⟩ := s.evaluate_eq p0 p1
  have before : (s.evaluate p0 p1).mrt.apart = s.mrt.apart := by rw [same]
  rw [State.exchange_sends (before.symm ▸ first)]
  refine ⟨(s.evaluate p0 p1).onMrt fun m => { m with apart := if (s.evaluate p0 p1).pairsDiffer p0 p1 then 1 else 0 }, calm_tenonSend _, ?_, ?_, ?_, rfl⟩
  all_goals rw [same]; rfl

theorem State.gate_congr (stat : t.reg .PEG_STAT 0 = s.reg .PEG_STAT 0) : t.holds = s.holds ∧ t.beside = s.beside := by
  unfold State.holds State.beside State.flag State.fld
  rw [stat]
  exact ⟨rfl, rfl⟩

/-- A switch that a function out of RUN holds off is off before the evaluation. -/
theorem State.cycle_switches {f st0 st1 k : Nat} (gate : (s.holds || s.beside) = true) (once : (s.mrt.eval.map Prod.fst).Nodup)
    (listed : (f, st0, st1) ∈ s.mrt.eval) (defined : f < s.fnCount) (small : k < 20) (names : s.fnNames f k = true) :
    SwitchedOff st0 st1 k s.cycleBegun.applyCycle.monitored := by
  obtain ⟨begun, -, jny, mrt⟩ := s.cycleBegun_spec
  have eval : s.cycleBegun.mrt.eval = s.mrt.eval := by rw [mrt]
  have shows := s.cycleBegun.applyFns_only s.cycleBegun.mrt.eval
  have shown : FnShown f st0 st1 (s.cycleBegun.applyFns s.cycleBegun.mrt.eval) := by
    rw [eval]
    exact State.applyFns_at once listed _
  have cut := calm_testsCut (s.cycleBegun.applyFns s.cycleBegun.mrt.eval)
  have applied : FnApplied s f st0 st1 (s.cycleBegun.applyFns s.cycleBegun.mrt.eval).testsCut :=
    FnApplied.calm (u := s.cycleBegun.applyFns s.cycleBegun.mrt.eval) ⟨shows.jny.trans jny, shown.2.2.1, shown.2.2.2⟩ cut
  have stat : (s.cycleBegun.applyFns s.cycleBegun.mrt.eval).testsCut.reg .PEG_STAT 0 = s.reg .PEG_STAT 0 :=
    (cut.regs _ _ (by simp [calmRegs])).trans ((shows.regs _ _ (by simp)).trans (begun _ _ (by simp)))
  have open_ : (!(s.cycleBegun.applyFns s.cycleBegun.mrt.eval).testsCut.holds && !(s.cycleBegun.applyFns s.cycleBegun.mrt.eval).testsCut.beside) = false := by
    rw [(State.gate_congr stat).1, (State.gate_congr stat).2, ← Bool.not_or, gate]
    rfl
  have off : SwitchedOff st0 st1 k s.cycleBegun.applyCycle := by
    rw [State.applyCycle_eq, open_]
    exact applied.commanded defined small names
  exact off.calm (calm_monitored _) List.not_mem_nil

/-- The functions' registers stand from their showing to the end of the cycle. -/
theorem State.cycle_shows {f st0 st1 : Nat} (once : (s.mrt.eval.map Prod.fst).Nodup) (listed : (f, st0, st1) ∈ s.mrt.eval) :
    s.cycleBegun.applyCycle.monitored.flag F.MRT_SF_STAT_DEMAND f = decide (st0 = 1 ∨ st1 = 1)
      ∧ s.cycleBegun.applyCycle.monitored.flag F.MRT_SF_STAT_RESET_WAIT f = (!decide (st0 = 1 ∨ st1 = 1) && decide (st0 = 2 ∨ st1 = 2)) := by
  have eval : s.cycleBegun.mrt.eval = s.mrt.eval := by rw [s.cycleBegun_spec.2.2.2]
  obtain ⟨demand, wait, -⟩ : FnShown f st0 st1 (s.cycleBegun.applyFns s.cycleBegun.mrt.eval) := by
    rw [eval]
    exact State.applyFns_at once listed _
  have rest : Calm allChans (s.cycleBegun.applyFns s.cycleBegun.mrt.eval) s.cycleBegun.applyCycle.monitored := by
    refine Calm.trans ?_ (calm_monitored _).of_nil
    rw [State.applyCycle_eq]
    exact calm_ite (calm_testsCut _).of_nil ((calm_testsCut _).of_nil.trans (calm_commanded _))
  exact ⟨(rest.regs.flag (by simp [calmRegs]) f).trans demand, (rest.regs.flag (by simp [calmRegs]) f).trans wait⟩

end Sys2Proof.Machine
end

section
/-! SUPPORT. Mortise: Tenon frames, and the statement on safety cycles and frames. -/

namespace Sys2Proof.Machine

open Sys2Proof

variable {s t u : State} {c : Nat} {r : ConnRec}

/-! ### The check of a frame (R280) -/

theorem crcBit_lt {poly n : Nat} (poly32 : poly < 2 ^ 32) (small : n < 2 ^ 32) : crcBit poly n < 2 ^ 32 := by
  unfold crcBit
  have half : n / 2 < 2 ^ 32 := by omega
  split
  · exact Nat.xor_lt_two_pow half poly32
  · exact half

theorem crcByte_lt {poly n : Nat} (poly32 : poly < 2 ^ 32) (small : n < 2 ^ 32) (b : Byte) : crcByte poly n b < 2 ^ 32 := by
  have start : n ^^^ b.toNat < 2 ^ 32 := Nat.xor_lt_two_pow small (b.isLt.trans (by decide))
  unfold crcByte
  exact crcBit_lt poly32 (crcBit_lt poly32 (crcBit_lt poly32 (crcBit_lt poly32 (crcBit_lt poly32 (crcBit_lt poly32 (crcBit_lt poly32
    (crcBit_lt poly32 start)))))))

theorem crc32_lt {poly : Nat} (poly32 : poly < 2 ^ 32) (b : List Byte) : crc32 poly b < 2 ^ 32 := by
  have fold (n : Nat) (small : n < 2 ^ 32) : b.foldl (crcByte poly) n < 2 ^ 32 := by
    induction b generalizing n with
    | nil => exact small
    | cons x b ih => exact ih _ (crcByte_lt poly32 small x)
  exact Nat.xor_lt_two_pow (fold _ (by decide)) (by decide)

theorem crcTenon_lt (b : List Byte) : crcTenon b < 2 ^ 32 := crc32_lt (by decide) b

/-! ### The parts of a frame (R279) -/

/-- What stands in front of a frame's check. -/
def tenonHead (r : ConnRec) (typ seq : Nat) (data : List Byte) : List Byte :=
  leBytes 1 (16 + typ) ++ leBytes 1 data.length ++ leBytes 2 seq ++ leBytes 2 r.wd ++ data

theorem tenonBytes_eq (r : ConnRec) (typ seq : Nat) (data : List Byte) :
    tenonBytes r typ seq data = tenonHead r typ seq data ++ leBytes 4 (crcTenon (leBytes 4 r.ident ++ tenonHead r typ seq data)) := rfl

theorem length_tenonHead (r : ConnRec) (typ seq : Nat) (data : List Byte) : (tenonHead r typ seq data).length = 6 + data.length := by
  simp only [tenonHead, List.length_append, length_leBytes]

theorem length_tenonBytes (r : ConnRec) (typ seq : Nat) (data : List Byte) : (tenonBytes r typ seq data).length = 10 + data.length := by
  rw [tenonBytes_eq, List.length_append, length_tenonHead, length_leBytes]
  omega

section Parts

variable (r : ConnRec) {typ seq : Nat} {data : List Byte}

/-- The bytes of a frame: six of its head, its data, and its check. -/
theorem tenonBytes_cons : tenonBytes r typ seq data
    = BitVec.ofNat 8 (16 + typ) :: BitVec.ofNat 8 data.length :: BitVec.ofNat 8 seq :: BitVec.ofNat 8 (seq / 256) :: BitVec.ofNat 8 r.wd
      :: BitVec.ofNat 8 (r.wd / 256) :: (data ++ leBytes 4 (crcTenon (leBytes 4 r.ident ++ tenonHead r typ seq data))) := rfl

theorem tenonBytes_typ (small : typ < 16) : u8 (tenonBytes r typ seq data) 0 = 16 + typ := by
  rw [tenonBytes_cons]
  simp [u8]
  omega

theorem tenonBytes_n (short : data.length ≤ 32) : u8 (tenonBytes r typ seq data) 1 = data.length := by
  rw [tenonBytes_cons]
  simp [u8]
  omega

theorem tenonBytes_seq (small : seq < 65536) : u16 (tenonBytes r typ seq data) 2 = seq := by
  rw [tenonBytes_cons]
  simp [u16, uN, slice, leNat]
  omega

theorem tenonBytes_wd (small : r.wd < 65536) : u16 (tenonBytes r typ seq data) 4 = r.wd := by
  rw [tenonBytes_cons]
  simp [u16, uN, slice, leNat]
  omega

theorem tenonBytes_data : slice (tenonBytes r typ seq data) 6 data.length = data := by
  rw [tenonBytes_cons]
  simp [slice]

theorem tenonBytes_head : (tenonBytes r typ seq data).take (6 + data.length) = tenonHead r typ seq data := by
  rw [tenonBytes_eq, List.take_left' (length_tenonHead r typ seq data)]

theorem tenonBytes_check : u32 (tenonBytes r typ seq data) (6 + data.length) = crcTenon (leBytes 4 r.ident ++ tenonHead r typ seq data) := by
  rw [tenonBytes_eq, u32_append_right (length_tenonHead r typ seq data).le, length_tenonHead, Nat.sub_self]
  exact (uN_leBytes 4 _).trans (Nat.mod_eq_of_lt (crcTenon_lt _))

end Parts

/-! ### A received frame (R282) -/

/-- A frame whose check, length and WD fit its connection. -/
def tenonWhole (r : ConnRec) (b : List Byte) : Bool :=
  decide (b.length = 10 + u8 b 1 ∧ 1 ≤ u8 b 1 ∧ u8 b 1 ≤ 32) && decide (u32 b (6 + u8 b 1) = crcTenon (leBytes 4 r.ident ++ b.take (6 + u8 b 1)))
    && decide (u8 b 0 / 16 = 1 ∧ u16 b 4 = r.wd)

theorem tenonWhole_tenonBytes {typ seq : Nat} {data : List Byte} (small : typ < 16) (wd : r.wd < 65536) (some_ : 1 ≤ data.length)
    (short : data.length ≤ 32) : tenonWhole r (tenonBytes r typ seq data) = true := by
  rw [tenonWhole, tenonBytes_n r short, length_tenonBytes, tenonBytes_check, tenonBytes_head, tenonBytes_typ r small, tenonBytes_wd r wd]
  simp [some_, short]
  omega

section Receive

variable (record : s.connRec c = some r) (consumes : r.produces = false)

include record consumes

/-- A frame that fails its check is a check failure. -/
theorem State.tenonReceive_fails {b : List Byte} (bad : tenonWhole r b = false) : s.tenonReceive c b = s.tenonFail c b := by
  unfold tenonWhole at bad
  unfold State.tenonReceive
  rw [record]
  dsimp only
  rw [if_neg (by simp [consumes]), bad]
  simp only [Bool.false_and, Bool.false_eq_true, if_false]

/-- A sound BIND frame of the session binds the connection. -/
theorem State.tenonReceive_binds {n : List Byte} (four : n.length = 4) (wd : r.wd < 65536) (nonce : (s.mrt.conns.get c).nonce = some n)
    (clear : (s.mrt.conns.get c).crcAt = none) : s.tenonReceive c (tenonBytes r 2 0 n)
    = ((((s.setFld F.MRT_CONN_STAT_SEQ c 0).setFld F.MRT_CONN_STAT_CRC_FAULT c 0).setFld F.MRT_CONN_STAT_VALID c 0).setFld F.MRT_CONN_STAT_LOST c 0).onConn c
      fun y => { y with bound := true, good := 0, idle := 0, fails := [], crcAt := none, data := [] } := by
  have whole := tenonWhole_tenonBytes (r := r) (typ := 2) (seq := 0) (data := n) (by decide) wd (by omega) (by omega)
  unfold tenonWhole at whole
  have named : slice (tenonBytes r 2 0 n) 6 4 = n := four ▸ tenonBytes_data r
  unfold State.tenonReceive
  rw [record]
  dsimp only
  rw [if_neg (by simp [consumes]), whole, tenonBytes_typ r (by decide), tenonBytes_seq r (by decide), tenonBytes_n r (by omega), four, named, nonce, clear,
    if_pos (by simp), if_pos (by simp)]

/-- A sound DATA frame of a bound connection is judged by its SEQ. -/
theorem State.tenonReceive_data {seq : Nat} {data : List Byte} (bound : (s.mrt.conns.get c).bound = true) (length : data.length = r.len)
    (some_ : 1 ≤ r.len) (short : r.len ≤ 32) (first : 1 ≤ seq) (small : seq < 65536) (wd : r.wd < 65536) :
    s.tenonReceive c (tenonBytes r 1 seq data) =
      if 1 ≤ seqAhead (s.fld F.MRT_CONN_STAT_SEQ c) seq ∧ seqAhead (s.fld F.MRT_CONN_STAT_SEQ c) seq ≤ 16 then s.tenonAccept c seq data
      else if seqAhead (s.fld F.MRT_CONN_STAT_SEQ c) seq = 0 ∨ 32767 < seqAhead (s.fld F.MRT_CONN_STAT_SEQ c) seq then
        (s.bumpSat F.MRT_CONN_ERR_REPEAT c).tenonViolation c 2 (tenonBytes r 1 seq data)
      else s.tenonFail c (tenonBytes r 1 seq data) := by
  have whole := tenonWhole_tenonBytes (r := r) (typ := 1) (seq := seq) (data := data) (by decide) wd (by omega) (by omega)
  unfold tenonWhole at whole
  have named : slice (tenonBytes r 1 seq data) 6 r.len = data := length ▸ tenonBytes_data r
  unfold State.tenonReceive
  rw [record]
  dsimp only
  rw [if_neg (by simp [consumes]), whole, tenonBytes_typ r (by decide), tenonBytes_seq r small, tenonBytes_n r (by omega), length, named, bound,
    if_neg (by simp), if_neg (by simp), if_pos (by simp), if_neg (by omega)]

end Receive

/-! ### A reset by a connection (R263) -/

/-- What a reset leaves: the connections, and every register but those of inputs and channels. -/
def ResetOnly (s t : State) : Prop := RegsKept [.MRT_IN_STAT, .MRT_OUT_STAT, .MRT_BRK_STAT] s t ∧ t.mrt.conns = s.mrt.conns

theorem ResetOnly.refl (s : State) : ResetOnly s s := ⟨RegsKept.refl _ s, rfl⟩

theorem ResetOnly.trans (h : ResetOnly s u) (k : ResetOnly u t) : ResetOnly s t := ⟨h.1.trans k.1, k.2.trans h.2⟩

theorem resetOnly_foldl {α : Type} {l : List α} {f : State → α → State} (next : ∀ t a, ResetOnly t (f t a)) : ResetOnly s (l.foldl f s) :=
  List.foldlRecOn l f (ResetOnly.refl s) fun t h a _ => h.trans (next t a)

theorem resetOnly_tryClearIn (s : State) (n : Nat) : ResetOnly s (s.tryClearIn n) := by
  unfold State.tryClearIn
  dsimp only
  split
  · exact ⟨by simp [State.onIn, State.onMrt], rfl⟩
  · exact ResetOnly.refl s

theorem resetOnly_setChanBit (s : State) (k b : Nat) (v : Bool) : ResetOnly s (s.setChanBit k b v) := by
  refine ⟨(s.setChanBit_cell v).regsKept fun c mem => ?_, rfl⟩
  rw [List.mem_singleton.mp mem]
  rcases chanCell_reg k with h | h <;> rw [h] <;> decide

theorem resetOnly_functionReset (s : State) (src : Nat) : ResetOnly s (s.functionReset src) := by
  refine resetOnly_foldl fun t f => ?_
  have pressed : ResetOnly t (t.onFn f fun x => { x with pressed := decide (x.st = 2), pressed1 := decide (x.st1 = 2) }) := ⟨regsKept_of_regs rfl, rfl⟩
  refine pressed.trans (ResetOnly.trans (resetOnly_foldl fun u n => ?_) (resetOnly_foldl fun u k => ?_))
  · split
    · exact ResetOnly.trans ⟨regsKept_of_regs rfl, rfl⟩ (resetOnly_tryClearIn (u.onIn n fun x => { x with resets := f :: x.resets }) n)
    · exact ResetOnly.refl u
  · split
    · split
      · exact resetOnly_setChanBit u k 27 false
      · exact ResetOnly.refl u
    · exact ResetOnly.refl u

theorem resetOnly_resetLevel (s : State) (src key : Nat) (down : Bool) : ResetOnly s (s.resetLevel src key down) := by
  unfold State.resetLevel
  split
  · exact ⟨regsKept_of_regs rfl, rfl⟩
  · rename_i t _ _
    have released : ResetOnly s (s.onMrt fun m => { m with press := m.press.set key none }) := ⟨regsKept_of_regs rfl, rfl⟩
    dsimp only
    split
    · exact released.trans (resetOnly_functionReset _ src)
    · exact released
  · exact ResetOnly.refl s

/-! ### What becomes of a frame (R282, R283) -/

/-- The connection takes an accepted frame. -/
def State.connTakes (s : State) (c seq : Nat) (data : List Byte) : State :=
  ((s.setFld F.MRT_CONN_STAT_SEQ c seq).count 13 5).onConn c fun x => { x with data := data, good := x.good + 1, idle := 0 }

theorem State.connTakes_conn (s : State) (c seq : Nat) (data : List Byte) :
    (s.connTakes c seq data).mrt.conns.get c = { s.mrt.conns.get c with data := data, good := (s.mrt.conns.get c).good + 1, idle := 0 }
      ∧ ∀ e, e ≠ c → (s.connTakes c seq data).mrt.conns.get e = s.mrt.conns.get e :=
  ⟨Arr.get_upd_same _ _ _, fun _ other => Arr.get_upd_ne _ other _⟩

/-- The connection with the frame is VALID from the second frame on. -/
def State.connShows (s : State) (c : Nat) : State := if 2 ≤ (s.mrt.conns.get c).good then s.setFld F.MRT_CONN_STAT_VALID c 1 else s

theorem State.tenonAccept_eq (s : State) (c seq : Nat) (data : List Byte) : s.tenonAccept c seq data
    = ((s.connTakes c seq data).connShows c).resetLevel (0x40 + c) (64 + c) (((s.connTakes c seq data).connShows c).connBit c 0) := rfl

theorem State.tenonAccept_spec (s : State) (c : Nat) {seq : Nat} (data : List Byte) (small : seq < 65536) :
    (s.tenonAccept c seq data).fld F.MRT_CONN_STAT_SEQ c = seq
      ∧ (s.tenonAccept c seq data).mrt.conns.get c = { s.mrt.conns.get c with data := data, good := (s.mrt.conns.get c).good + 1, idle := 0 }
      ∧ (1 ≤ (s.mrt.conns.get c).good → (s.tenonAccept c seq data).flag F.MRT_CONN_STAT_VALID c = true)
      ∧ ∀ e, e ≠ c → (s.tenonAccept c seq data).mrt.conns.get e = s.mrt.conns.get e := by
  obtain ⟨own, others⟩ := s.connTakes_conn c seq data
  have shows : ((s.connTakes c seq data).connShows c).mrt = (s.connTakes c seq data).mrt := by
    unfold State.connShows
    split <;> rfl
  have seqs : ((s.connTakes c seq data).connShows c).fld F.MRT_CONN_STAT_SEQ c = seq := by
    have below : seq % 65536 = seq := Nat.mod_eq_of_lt small
    unfold State.connShows
    split <;> simp [State.connTakes, State.onConn, State.onMrt, Fld.width, below]
  obtain ⟨regs, conns⟩ := resetOnly_resetLevel ((s.connTakes c seq data).connShows c) (0x40 + c) (64 + c)
    (((s.connTakes c seq data).connShows c).connBit c 0)
  rw [s.tenonAccept_eq c seq data]
  refine ⟨(regs.fld (by simp) c).trans seqs, by rw [conns, shows, own], fun second => (regs.flag (by simp) c).trans ?_, fun e other => ?_⟩
  · rw [State.connShows, if_pos (by rw [own]; exact Nat.succ_le_succ second)]
    simp [Fld.width]
  · rw [conns, shows, others e other]

/-- A check failure (R282): counted and reported, whether it loses the connection or not. -/
theorem State.tenonFail_spec (s : State) (c : Nat) (b : List Byte) :
    (s.tenonFail c b).fld F.MRT_CONN_ERR_CHECK c = min (s.fld F.MRT_CONN_ERR_CHECK c + 1) 65535
      ∧ (s.tenonFail c b).fld F.MRT_CONN_STAT_SEQ c = s.fld F.MRT_CONN_STAT_SEQ c
      ∧ (⟨0x0C86, c⟩ : Report) ∈ (s.tenonFail c b).reports.drop s.reports.length := by
  have counted : CellsKept [(.MRT_STAT, 0)] (s.bumpSat F.MRT_CONN_ERR_CHECK c) ((s.bumpSat F.MRT_CONN_ERR_CHECK c).mrtCode 0x0C86 c) :=
    State.mrtCode_cell _ _ _
  have said : (⟨0x0C86, c⟩ : Report) ∈ ((s.bumpSat F.MRT_CONN_ERR_CHECK c).mrtCode 0x0C86 c).reports.drop s.reports.length :=
    mem_reports_drop (u := s.bumpSat F.MRT_CONN_ERR_CHECK c) List.prefix_rfl rfl
  have violated := ((s.bumpSat F.MRT_CONN_ERR_CHECK c).mrtCode 0x0C86 c).tenonViolation_kept c 1 b
  have grown := (State.tenonViolation_keeps ((s.bumpSat F.MRT_CONN_ERR_CHECK c).mrtCode 0x0C86 c) c 1 b).reports
  unfold State.tenonFail
  dsimp only
  generalize ((s.bumpSat F.MRT_CONN_ERR_CHECK c).mrtCode 0x0C86 c).tenonViolation c 1 b = u at violated grown
  have check : u.fld F.MRT_CONN_ERR_CHECK c = min (s.fld F.MRT_CONN_ERR_CHECK c + 1) 65535 := by
    rw [violated.fld (by simp), counted.fld (by simp)]
    simp [Fld.width]
  have seq : u.fld F.MRT_CONN_STAT_SEQ c = s.fld F.MRT_CONN_STAT_SEQ c := by
    rw [violated.fld (by simp), counted.fld (by simp)]
    simp
  have reported := mem_reports_drop_of_prefix said grown
  split
  · refine ⟨?_, ?_, ?_⟩
    · rw [← check]
      simp [State.mrtCode, State.onConn, State.onMrt]
    · rw [← seq]
      simp [State.mrtCode, State.onConn, State.onMrt]
    · exact mem_reports_drop_of_prefix reported (List.prefix_append _ _)
  · exact ⟨check, seq, reported⟩

/-! ### A lost connection (R283) -/

theorem State.tenonLost_unbound (unbound : (s.mrt.conns.get c).bound = false) : s.tenonLost c = s := by
  unfold State.tenonLost
  split
  · exact if_neg (by simp [unbound])
  · rfl

/-- The connection is LOST: its register, its data, and the press of its reset. -/
def State.connLost (s : State) (c : Nat) : State :=
  (((s.setFld F.MRT_CONN_STAT_VALID c 0).setFld F.MRT_CONN_STAT_LOST c 1).onConn c fun x => { x with bound := false, good := 0, data := [] }).onMrt
    fun m => { m with press := m.press.set (64 + c) none }

theorem State.tenonLost_spec (record : s.connRec c = some r) (consumes : r.produces = false) (bound : (s.mrt.conns.get c).bound = true)
    (late : r.wd ≤ (s.mrt.conns.get c).idle) : (s.tenonLost c).flag F.MRT_CONN_STAT_VALID c = false ∧ (s.tenonLost c).flag F.MRT_CONN_STAT_LOST c = true
      ∧ (s.tenonLost c).connData c = [] ∧ ((s.tenonLost c).mrt.conns.get c).bound = false
      ∧ (⟨0x0C05, c⟩ : Report) ∈ (s.tenonLost c).reports.drop s.reports.length := by
  have lost : s.tenonLost c = (((s.connLost c).mrtCode 0x0C05 c).tenonViolation c 3 []).torqueLost c := by
    unfold State.tenonLost
    rw [record]
    exact if_pos (by simp [bound, late, consumes])
  have start : (s.connLost c).flag F.MRT_CONN_STAT_VALID c = false ∧ (s.connLost c).flag F.MRT_CONN_STAT_LOST c = true
      ∧ ((s.connLost c).mrt.conns.get c).bound = false :=
    ⟨by simp [State.connLost, State.onConn, State.onMrt], by simp [State.connLost, State.onConn, State.onMrt, Fld.width],
      congrArg Conn.bound (Arr.get_upd_same _ _ _)⟩
  have coded : CellsKept [(.MRT_STAT, 0)] (s.connLost c) ((s.connLost c).mrtCode 0x0C05 c) := State.mrtCode_cell _ _ _
  have said : (⟨0x0C05, c⟩ : Report) ∈ ((s.connLost c).mrtCode 0x0C05 c).reports.drop s.reports.length :=
    mem_reports_drop (u := s.connLost c) List.prefix_rfl rfl
  have violated := State.tenonViolation_kept ((s.connLost c).mrtCode 0x0C05 c) c 3 []
  have grown := (State.tenonViolation_keeps ((s.connLost c).mrtCode 0x0C05 c) c 3 []).reports
  have conns : (((s.connLost c).mrtCode 0x0C05 c).tenonViolation c 3 []).mrt = (s.connLost c).mrt := by
    obtain ⟨_, _, _, _, _, _, _, _, -, same⟩ := State.tenonViolation_eq ((s.connLost c).mrtCode 0x0C05 c) c 3 []
    rw [same]
    rfl
  obtain ⟨valid, lostFlag, unbound⟩ := start
  rw [lost]
  generalize ((s.connLost c).mrtCode 0x0C05 c).tenonViolation c 3 [] = u at *
  have aborts : TestsOnly u (u.torqueLost c) := testsOnly_each fun k _ t => by
    split
    · exact testsOnly_ite (testsOnly_testAbort t k) (TestsOnly.refl t)
    · exact TestsOnly.refl t
  have stat (f : Fld) (own : f.reg = .MRT_CONN_STAT) : (u.torqueLost c).fld f c = (s.connLost c).fld f c :=
    (aborts.1.fld (by rw [own]; decide) c).trans ((violated.fld (by simp [own])).trans (coded.fld (by simp [own])))
  have notValid : (u.torqueLost c).flag F.MRT_CONN_STAT_VALID c = false := (State.flag_congr (stat F.MRT_CONN_STAT_VALID rfl)).trans valid
  refine ⟨notValid, (State.flag_congr (stat F.MRT_CONN_STAT_LOST rfl)).trans lostFlag, ?_, ?_, ?_⟩
  · rw [State.connData, if_neg (by simp [notValid])]
  · rw [aborts.2.2.2, conns, unbound]
  · exact mem_reports_drop_of_prefix (mem_reports_drop_of_prefix said grown) (State.torqueLost_keeps u c).reports

/-! ### The statement -/

theorem tenonReceive_exec (runs : s.runs 6 = true) (mortise : s.mrtRuns = true) (b : List Byte) :
    exec (.tenonReceive c b) s = .next (s.tenonReceive c b) :=
  congrArg Host.Outcome.next ((State.live_runs runs).trans (if_pos mortise))

theorem State.mrtRuns_up (mortise : s.mrtRuns = true) : bitOf (s.fld F.SYS_REGION_STAT_FAILED) 6 = false := by
  simp only [State.mrtRuns, Bool.and_eq_true, Bool.not_eq_true'] at mortise
  exact mortise.2

theorem SwitchedOff.of_regs {st0 st1 k : Nat} (off : SwitchedOff st0 st1 k s) (regs : t.regs = s.regs) : SwitchedOff st0 st1 k t := by
  have bit (b : Nat) : t.chanBit k b = s.chanBit k b := State.chanBit_of_cells (ks := []) (cellsKept_of_regs regs) List.not_mem_nil b
  simpa only [SwitchedOff, ChannelOff, bit] using off

/-- The functions that the pairs saw and held alike. -/
def PairsAlike (s : State) (p0 p1 : List Nat) : Prop :=
  ∀ f < s.fnCount, p0.contains f = p1.contains f ∧ (s.mrt.fns.get f).st = (s.mrt.fns.get f).st1
    ∧ (s.mrt.fns.get f).pressed = (s.mrt.fns.get f).pressed1

theorem PairsAlike.cycled {p0 p1 : List Nat} (alike : PairsAlike s p0 p1) (jny : u.jny = s.jny)
    (judged : ∀ f, (u.mrt.fns.get f).judged = (s.mrt.fns.get f).judged) : PairsAlike u p0 p1 := by
  intro f listed
  rw [fnCount_congr jny] at listed
  obtain ⟨view, st, pressed⟩ := alike f listed
  have same := judged f
  simp only [SafeFn.judged, Prod.mk.injEq] at same
  obtain ⟨a, b, c, d⟩ := same
  exact ⟨view, by rw [a, b, st], by rw [c, d, pressed]⟩

/-- A cycle without a fault, in which the pairs did not disagree before or agree now. -/
theorem State.safetyCycle_sound_spec {p0 p1 : List Nat} (first : s.mrt.apart = 0 ∨ PairsAlike s p0 p1) :
    (s.safetyCycle false p0 p1).mrt.cycle = s.mrt.cycle + 1 ∧ (PairsAlike s p0 p1 → (s.safetyCycle false p0 p1).mrt.apart = 0)
      ∧ ((∃ f < s.fnCount, p0.contains f ≠ p1.contains f) → (s.safetyCycle false p0 p1).mrt.apart = 1)
      ∧ (s.safetyCycle false p0 p1).flag F.MRT_STAT_DRIVE = s.holds ∧ (s.safetyCycle false p0 p1).mrt.eval.map Prod.fst = s.fnList
      ∧ ((s.mrt.eval.map Prod.fst).Nodup → ∀ f st0 st1, (f, st0, st1) ∈ s.mrt.eval →
        (s.safetyCycle false p0 p1).flag F.MRT_SF_STAT_DEMAND f = decide (st0 = 1 ∨ st1 = 1)
        ∧ (s.safetyCycle false p0 p1).flag F.MRT_SF_STAT_RESET_WAIT f = (!decide (st0 = 1 ∨ st1 = 1) && decide (st0 = 2 ∨ st1 = 2))
        ∧ ((s.holds || s.beside) = true → f < s.fnCount → ∀ k < 20, s.fnNames f k = true → SwitchedOff st0 st1 k (s.safetyCycle false p0 p1))) := by
  obtain ⟨u, named, -, drive, jny, cycle, apart, judged⟩ := s.cycle_evaluates
  have agree (alike : PairsAlike s p0 p1) : (u.evaluate p0 p1).pairsDiffer p0 p1 = false := State.evaluate_agree (alike.cycled jny judged)
  obtain ⟨v, calm, regs, cycleV, evalV, apartV⟩ := State.exchange_ends (s := u) (p0 := p0) (p1 := p1) (first.imp (fun h => apart.trans h) agree)
  have core := calm.core
  simp only [Mrt.core, Prod.mk.injEq] at core
  obtain ⟨cycleT, apartT, evalT, -⟩ := core
  rw [s.safetyCycle_sound, ← named]
  refine ⟨cycleT.trans (cycleV.trans cycle), fun alike => ?_, fun ⟨f, listed, differ⟩ => ?_, ?_, ?_, fun once f st0 st1 listed => ?_⟩
  · rw [apartT, apartV, agree alike]
    rfl
  · rw [apartT, apartV, State.evaluate_differ (by rwa [fnCount_congr jny]) differ]
    rfl
  · rw [calm.drive, ← drive]
    exact State.flag_congr (by rw [State.fld, State.fld, State.reg, State.reg, regs])
  · rw [evalT, evalV, State.fnJudge_fst, State.fnList, State.fnList, fnCount_congr jny]
  · have same (f : Fld) (i : Nat) : v.flag f i = u.flag f i := State.flag_congr (by rw [State.fld, State.fld, State.reg, State.reg, regs])
    obtain ⟨demand, wait⟩ := State.cycle_shows once listed
    rw [← named] at demand wait
    refine ⟨?_, ?_, fun gate defined k small names => ?_⟩
    · rw [calm.regs.flag (by simp [calmRegs]), same, demand]
    · rw [calm.regs.flag (by simp [calmRegs]), same, wait]
    · have off := State.cycle_switches gate once listed defined small names
      rw [← named] at off
      exact (off.of_regs regs).calm calm List.not_mem_nil

/-- Settles O44, clause by clause: a cycle that fails, a cycle that does not, a received frame, and a lost connection. -/
theorem safetyCycleAndTenonFrames : Obligations.SafetyCycleAndTenonFrames := by
  unfold Obligations.SafetyCycleAndTenonFrames
  refine ⟨?fault, ?cycle, ?receive, ?lost, ?unbound⟩
  case fault =>
    intro s fault p0 p1 runs mortise cause
    obtain ⟨u, faults, up, grown⟩ := State.safetyCycle_faults (State.mrtRuns_up mortise) cause
    obtain ⟨failed, holds, off, said⟩ := State.mortiseFault_spec up
    refine ⟨_, congrArg Host.Outcome.next ((State.live_runs runs).trans (if_pos mortise)), ?_⟩
    rw [faults]
    obtain ⟨l, added⟩ := grown
    refine ⟨failed, holds, off, ?_⟩
    rw [← added, List.length_append] at said
    exact List.mem_of_mem_drop (List.drop_drop ▸ said)
  case cycle =>
    intro s p0 p1 runs mortise
    refine fun first => ⟨_, congrArg Host.Outcome.next ((State.live_runs runs).trans (if_pos mortise)), ?_⟩
    exact State.safetyCycle_sound_spec first
  case receive =>
    intro s c r runs mortise record consumes wd
    refine ⟨?data, ?bad, ?bind⟩
    case data =>
      intro seq data bound length some_ short first small
      have judged := State.tenonReceive_data record consumes bound length some_ short first small wd
      refine ⟨fun low high => ⟨_, tenonReceive_exec runs mortise _, ?_⟩, fun old => ⟨_, tenonReceive_exec runs mortise _, ?_⟩,
        fun low high => ⟨_, tenonReceive_exec runs mortise _, ?_⟩⟩
      · rw [judged, if_pos ⟨low, high⟩]
        obtain ⟨taken, conn, valid, others⟩ := s.tenonAccept_spec c data small
        refine ⟨taken, by rw [conn], by rw [conn], by rw [conn], fun good => ⟨valid good, ?_⟩, others⟩
        rw [State.connData, if_pos (valid good), conn]
      · rw [judged, if_neg (by omega), if_pos old]
        have violated := State.tenonViolation_kept (s.bumpSat F.MRT_CONN_ERR_REPEAT c) c 2 (tenonBytes r 1 seq data)
        obtain ⟨_, _, _, _, _, _, _, _, -, same⟩ := State.tenonViolation_eq (s.bumpSat F.MRT_CONN_ERR_REPEAT c) c 2 (tenonBytes r 1 seq data)
        refine ⟨by rw [same]; rfl, ?_, ?_⟩
        · rw [violated.fld (by simp)]
          simp [Fld.width]
        · rw [violated _ _ (by simp)]
          simp
      · rw [judged, if_neg (by omega), if_neg (by omega)]
        obtain ⟨check, seqs, -⟩ := s.tenonFail_spec c (tenonBytes r 1 seq data)
        exact ⟨check, seqs⟩
    case bad =>
      intro b wrong
      refine ⟨_, tenonReceive_exec runs mortise b, ?_⟩
      rw [State.tenonReceive_fails record consumes (by simp [tenonWhole, wrong])]
      exact s.tenonFail_spec c b
    case bind =>
      intro n four nonce clear
      refine ⟨_, tenonReceive_exec runs mortise _, ?_⟩
      rw [State.tenonReceive_binds record consumes four wd nonce clear]
      refine ⟨congrArg Conn.bound (Arr.get_upd_same _ _ _), congrArg Conn.good (Arr.get_upd_same _ _ _), ?_, ?_, ?_⟩ <;>
        simp [State.onConn, State.onMrt]
  case lost =>
    intro s c r runs mortise record consumes bound late
    exact ⟨_, congrArg Host.Outcome.next ((State.live_runs runs).trans (if_pos mortise)), State.tenonLost_spec record consumes bound late⟩
  case unbound =>
    intro s c unbound
    refine congrArg Host.Outcome.next ?_
    rw [State.tenonLost_unbound unbound, ite_self, State.live, ite_self]

end Sys2Proof.Machine
end

section
/-! SUPPORT. The CAN controllers: reception, message objects, and the statement on them. -/

namespace Sys2Proof.Machine

open Sys2Proof

variable {s t u : State} {n : Nat}

/-! ### A frame of a Tenon connection -/

theorem State.tenonFail_regs (s : State) (c : Nat) (b : List Byte) : RegsKept calmRegs s (s.tenonFail c b) := by
  have violated : RegsKept calmRegs s (((s.bumpSat F.MRT_CONN_ERR_CHECK c).mrtCode 0x0C86 c).tenonViolation c 1 b) :=
    RegsKept.trans (by simp [State.mrtCode, calmRegs]) ((State.tenonViolation_kept _ c 1 b).regsKept (by simp [calmRegs]))
  unfold State.tenonFail
  dsimp only
  generalize ((s.bumpSat F.MRT_CONN_ERR_CHECK c).mrtCode 0x0C86 c).tenonViolation c 1 b = u at violated ⊢
  refine regsKept_ite (violated.trans ?_) (violated.trans (regsKept_of_regs rfl))
  simp [State.mrtCode, State.onConn, State.onMrt, calmRegs]

theorem State.tenonAccept_regs (s : State) (c seq : Nat) (data : List Byte) : RegsKept calmRegs s (s.tenonAccept c seq data) := by
  rw [s.tenonAccept_eq c seq data]
  refine RegsKept.trans ?_ ((resetOnly_resetLevel _ _ _ _).1.mono (by simp [calmRegs]))
  unfold State.connShows
  refine regsKept_ite ?_ ?_ <;> simp [State.connTakes, State.onConn, State.onMrt, calmRegs]

/-- A received Tenon frame changes registers of Mortise and of the record of violations alone. -/
theorem State.tenonReceive_regs (s : State) (c : Nat) (b : List Byte) : RegsKept calmRegs s (s.tenonReceive c b) := by
  have repeats : RegsKept calmRegs s ((s.bumpSat F.MRT_CONN_ERR_REPEAT c).tenonViolation c 2 b) :=
    RegsKept.trans (by simp [calmRegs]) ((State.tenonViolation_kept _ c 2 b).regsKept (by simp [calmRegs]))
  have fails := s.tenonFail_regs c b
  unfold State.tenonReceive
  split
  · exact RegsKept.refl _ s
  · refine regsKept_ite (RegsKept.refl _ s) (regsKept_ite (regsKept_ite ?_ fails) (regsKept_ite (RegsKept.refl _ s)
      (regsKept_ite (regsKept_ite fails (regsKept_ite (s.tenonAccept_regs c _ _) (regsKept_ite repeats fails))) fails)))
    simp [State.onConn, State.onMrt, calmRegs]

/-! ### A frame without error (R357, R359) -/

/-- What a controller changes before it routes a frame: its error counters, and its cycle. -/
structure CanHeard (n : Nat) (s t : State) : Prop where
  regs : CellsKept [(.CAN_ERR, n), (.CAN_STAT, 0), (.CAN_TT_STAT, n), (.NET_VIOL_CNT, 0), (.PNT_RING_PROD, 61), (.PNT_RING_STAT, 61)] s t
  objs : t.can.objs = s.can.objs
  table : t.pnt.table = s.pnt.table
  jny : t.jny = s.jny
  sys : t.sys = s.sys

theorem CanHeard.trans (h : CanHeard n s u) (k : CanHeard n u t) : CanHeard n s t :=
  ⟨h.regs.trans k.regs, k.objs.trans h.objs, k.table.trans h.table, k.jny.trans h.jny, k.sys.trans h.sys⟩

theorem State.rec_le (s : State) (n : Nat) : s.fld F.CAN_ERR_TEC n ≤ 255 := by
  have := s.fld_lt F.CAN_ERR_TEC n
  simp only [Fld.width] at this
  omega

theorem State.canRxGood_heard (s : State) (n : Nat) : CanHeard n s (s.canRxGood n) := by
  have counted (k : Nat) : CanHeard n s (s.canCounters n (s.fld F.CAN_ERR_TEC n) k) := by
    obtain ⟨regs, -⟩ := s.canCounters_calm n _ k (s.rec_le n)
    have same := s.canCounters_calm_eq n _ k (s.rec_le n)
    exact ⟨regs.mono (by simp), by rw [same], by rw [same], by rw [same], by rw [same]⟩
  unfold State.canRxGood
  dsimp only
  split
  · exact ⟨CellsKept.refl _ s, rfl, rfl, rfl, rfl⟩
  split
  · obtain ⟨regs, objs, table, jny, sys⟩ := counted (119 + (s.fresh 8).toNat % 9)
    exact ⟨cellsKept_tick.mpr regs, objs, table, jny, sys⟩
  · exact counted _

/-- A reference message that a follower takes. -/
def State.referenceTaken (s : State) (n c : Nat) : State :=
  ((s.setFld F.CAN_TT_STAT_CYCLE n c).setFld F.CAN_TT_STAT_SYNC n 1).onCan n fun y => { y with refAt := s.now }

theorem State.referenceTaken_heard (s : State) (n c : Nat) : CanHeard n s (s.referenceTaken n c) :=
  ⟨by simp [State.referenceTaken, State.onCan], rfl, rfl, rfl, rfl⟩

theorem State.violation_heard (s : State) (group code : Nat) (port : Option Nat) (slot : Nat) (sender : Option Nat) (msg : List Byte)
    (detail : Option Nat) (key : Nat) : CanHeard n s (s.violation group code port slot sender msg detail key) := by
  obtain ⟨_, _, _, _, _, _, _, _, table, same⟩ := s.violation_eq group code port slot sender msg detail key
  exact ⟨(s.violation_kept group code port slot sender msg detail key).mono (by simp), by rw [same], by rw [same]; exact table, by rw [same], by rw [same]⟩

theorem State.takeReference_heard (s : State) (n : Nat) (x : CanFrame) : CanHeard n s (s.takeReference n x) := by
  unfold State.takeReference
  dsimp only
  split
  · exact ⟨CellsKept.refl _ s, rfl, rfl, rfl, rfl⟩
  split
  · exact (s.referenceTaken_heard n _).trans (State.violation_heard _ 8 4 (some n) 255 (some 0) x.data (some (canIdw x)) n)
  · exact s.referenceTaken_heard n _

/-- A follower takes the cycle of its reference message. -/
theorem State.takeReference_taken {x : CanFrame} (follows : s.fld F.CAN_CFG_TT n = 1) (reference : s.isReference n x = true) :
    (s.takeReference n x).fld F.CAN_TT_STAT_CYCLE n = u8 x.data 0 % 64 ∧ (s.takeReference n x).flag F.CAN_TT_STAT_SYNC n = true := by
  have taken : (s.referenceTaken n (u8 x.data 0 % 64)).fld F.CAN_TT_STAT_CYCLE n = u8 x.data 0 % 64
      ∧ (s.referenceTaken n (u8 x.data 0 % 64)).flag F.CAN_TT_STAT_SYNC n = true := by
    simp [State.referenceTaken, State.onCan, Fld.width]
  unfold State.takeReference
  dsimp only
  rw [if_neg (by simp [reference, follows])]
  split
  · have kept := State.violation_kept (s.referenceTaken n (u8 x.data 0 % 64)) 8 4 (some n) 255 (some 0) x.data (some (canIdw x)) n
    exact ⟨(kept.fld (by simp)).trans taken.1, (kept.flag (by simp)).trans taken.2⟩
  · exact taken

/-- The state in which a frame is routed. -/
def State.canHears (s : State) (n : Nat) (x : CanFrame) : State := ((s.canRxGood n).count 12 (23 + 2 * n)).takeReference n x

theorem State.canHears_heard (s : State) (n : Nat) (x : CanFrame) : CanHeard n s (s.canHears n x) := by
  have counted (v : State) : CanHeard n v (v.count 12 (23 + 2 * n)) := ⟨cellsKept_of_regs rfl, rfl, rfl, rfl, rfl⟩
  exact ((s.canRxGood_heard n).trans (counted _)).trans (State.takeReference_heard _ n x)

theorem State.canReceive_on {ofs : Nat} {x : CanFrame} (joined : s.canOff n = false) (active : s.canBusOff n = false) :
    s.canReceive n ofs x = ((s.canHears n x).canRoute n ofs x).canLeave n := by
  unfold State.canReceive
  exact if_neg (by simp [joined, active])

theorem CanHeard.canTenon (h : CanHeard n s t) (x : CanFrame) : t.canTenon n x = s.canTenon n x := by
  unfold State.canTenon State.connRec State.mrtBody State.body
  rw [h.jny]

theorem CanHeard.body (h : CanHeard n s t) (k : Nat) : t.body k = s.body k := by rw [State.body, State.body, h.jny]

/-! ### Message objects (R348 to R350) -/

/-- The object that a frame leaves. -/
def State.objStored (s : State) (n ofs : Nat) (r : CanObjRec) (x : CanFrame) : CanObj :=
  ⟨canIdw x, x.esi, true, (s.canObj n r.obj).new || (s.canObj n r.obj).lost, ((s.canObj n r.obj).count + 1) % 65536, s.now, ofs, x.data⟩

/-- The write of the object's point (R350). -/
def State.objPoint (s : State) (n ofs : Nat) (r : CanObjRec) (x : CanFrame) : PointWrite :=
  { id := r.point % 2 ^ 18, cls := 6, ident := 256 * n + r.obj, value := BitVec.ofNat 64 (leNat ((x.data.drop r.ptOfs).take 8)), qual := 0,
    time := s.now, ofs := ofs }

/-- The object is replaced, and an unread frame is counted as lost. -/
def State.objReplaced (s : State) (n ofs : Nat) (r : CanObjRec) (x : CanFrame) : State :=
  let t := { s with can := { s.can with objs := s.can.objs.set (256 * n + r.obj) (s.objStored n ofs r x) } }
  if (s.canObj n r.obj).new then
    let u := t.bumpSat F.CAN_CNT_OBJ_LOST n
    if (u.canCtl n).lostSaid then u else (u.onCan n fun y => { y with lostSaid := true }).report 0x0984 n
  else t

/-- The object is stored, and the reception checks see it. -/
def State.objSeen (s : State) (n ofs : Nat) (r : CanObjRec) (x : CanFrame) : State :=
  let t := s.objReplaced n ofs r x
  let mine := (List.range 32).filter fun k =>
    match (canTrigs (t.body tyCAN))[k]? with | some g => decide (g.ctrl = n ∧ g.typ = 2 ∧ g.ref = r.obj) | none => false
  t.onCan n fun y => { y with seen := mine ++ y.seen.filter fun k => !mine.contains k }

theorem State.canStore_eq (s : State) (n ofs : Nat) (r : CanObjRec) (x : CanFrame) : s.canStore n ofs r x =
    if r.point = 0xFFFFFFFF ∨ (s.objSeen n ofs r x).holds = false then s.objSeen n ofs r x
    else (s.objSeen n ofs r x).writePoint ((s.objSeen n ofs r x).objPoint n ofs r x) := rfl

section Stored

variable (s : State) (n ofs : Nat) (r : CanObjRec) (x : CanFrame)

theorem State.objReplaced_spec : CellsKept [(.CAN_CNT, n)] s (s.objReplaced n ofs r x)
    ∧ (s.objReplaced n ofs r x).fld F.CAN_CNT_RX_DROP n = s.fld F.CAN_CNT_RX_DROP n
    ∧ (s.objReplaced n ofs r x).fld F.CAN_CNT_OBJ_LOST n
      = (if (s.canObj n r.obj).new then min (s.fld F.CAN_CNT_OBJ_LOST n + 1) 255 else s.fld F.CAN_CNT_OBJ_LOST n)
    ∧ (s.objReplaced n ofs r x).can.objs = s.can.objs.set (256 * n + r.obj) (s.objStored n ofs r x)
    ∧ (s.objReplaced n ofs r x).pnt = s.pnt ∧ (s.objReplaced n ofs r x).jny = s.jny ∧ (s.objReplaced n ofs r x).sys = s.sys := by
  unfold State.objReplaced
  dsimp only
  split
  · split
    · exact ⟨by simp, by simp, by simp [Fld.width], rfl, rfl, rfl, rfl⟩
    · exact ⟨by simp [State.onCan], by simp [State.onCan], by simp [State.onCan, Fld.width], rfl, rfl, rfl, rfl⟩
  · exact ⟨by simp, rfl, rfl, rfl, rfl, rfl, rfl⟩

/-- Seeing the object changes nothing but the controller's own state. -/
theorem State.objSeen_same : (s.objSeen n ofs r x).regs = (s.objReplaced n ofs r x).regs
    ∧ (s.objSeen n ofs r x).can.objs = (s.objReplaced n ofs r x).can.objs ∧ (s.objSeen n ofs r x).pnt = (s.objReplaced n ofs r x).pnt
    ∧ (s.objSeen n ofs r x).jny = (s.objReplaced n ofs r x).jny ∧ (s.objSeen n ofs r x).sys = (s.objReplaced n ofs r x).sys := by
  unfold State.objSeen
  dsimp only
  generalize s.objReplaced n ofs r x = u
  exact ⟨rfl, rfl, rfl, rfl, rfl⟩

end Stored

/-- A write of a point changes registers of the points, the points themselves, Scribe's counters, and reports. -/
theorem State.writePoint_regs (s : State) (w : PointWrite) : CellsKept [(.PNT_STAT, 0)] s (s.writePoint w) := by
  have refused : CellsKept [(.PNT_STAT, 0)] s (s.writerErr w.id) := by
    unfold State.writerErr
    dsimp only
    refine cellsKept_ite ?_ ?_ <;> simp
  unfold State.writePoint
  split
  · exact cellsKept_ite (cellsKept_of_regs rfl) refused
  · exact refused

theorem State.writePoint_can (s : State) (w : PointWrite) : (s.writePoint w).can = s.can := by
  have refused : (s.writerErr w.id).can = s.can := by
    unfold State.writerErr
    dsimp only
    split <;> rfl
  unfold State.writePoint
  split
  · split
    · rfl
    · exact refused
  · exact refused

/-- The point's writer stores its fields. -/
theorem State.writePoint_stores {w : PointWrite} {c : Schema} (schema : s.schema w.id = some c) (writer : writerOk c w.cls w.ident = true) :
    s.writePoint w = s.storePoint w := by
  unfold State.writePoint
  rw [schema]
  exact if_pos writer

theorem State.storePoint_point (s : State) (w : PointWrite) : ((s.storePoint w).point w.id).value = w.value
    ∧ ((s.storePoint w).point w.id).qual = w.qual ∧ ∀ p, p ≠ w.id → (s.storePoint w).point p = s.point p :=
  ⟨congrArg Point.value (Arr.get_upd_same _ _ _), congrArg Point.qual (Arr.get_upd_same _ _ _), fun _ other => Arr.get_upd_ne _ other _⟩

theorem State.canStore_spec (s : State) (n ofs : Nat) (r : CanObjRec) (x : CanFrame) :
    CellsKept [(.CAN_CNT, n), (.PNT_STAT, 0)] s (s.canStore n ofs r x)
      ∧ (s.canStore n ofs r x).fld F.CAN_CNT_RX_DROP n = s.fld F.CAN_CNT_RX_DROP n
      ∧ (s.canStore n ofs r x).fld F.CAN_CNT_OBJ_LOST n
        = (if (s.canObj n r.obj).new then min (s.fld F.CAN_CNT_OBJ_LOST n + 1) 255 else s.fld F.CAN_CNT_OBJ_LOST n)
      ∧ (s.canStore n ofs r x).can.objs = s.can.objs.set (256 * n + r.obj) (s.objStored n ofs r x)
      ∧ (r.point = 0xFFFFFFFF ∨ s.holds = false → (s.canStore n ofs r x).pnt.table = s.pnt.table)
      ∧ (∀ c, r.point < 2 ^ 18 → s.holds = true → s.schema r.point = some c → c.writer = 6 → c.ident = 256 * n + r.obj →
        ((s.canStore n ofs r x).point r.point).value = BitVec.ofNat 64 (leNat ((x.data.drop r.ptOfs).take 8))
          ∧ ((s.canStore n ofs r x).point r.point).qual = 0 ∧ ∀ p, p ≠ r.point → (s.canStore n ofs r x).point p = s.point p) := by
  obtain ⟨regs, drop, lost, objs, pnt, jny, -⟩ := s.objReplaced_spec n ofs r x
  obtain ⟨regs', objs', pnt', jny', -⟩ := s.objSeen_same n ofs r x
  rw [s.canStore_eq n ofs r x]
  generalize s.objSeen n ofs r x = u at *
  have kept : CellsKept [(.CAN_CNT, n)] s u := regs.trans (cellsKept_of_regs regs')
  have seen (f : Fld) : u.fld f n = (s.objReplaced n ofs r x).fld f n := CellsKept.fld (ks := []) (cellsKept_of_regs regs') List.not_mem_nil
  have holds : u.holds = s.holds := kept.flag (by simp)
  have written : CellsKept [(.PNT_STAT, 0)] u (if r.point = 0xFFFFFFFF ∨ u.holds = false then u else u.writePoint (u.objPoint n ofs r x)) :=
    cellsKept_ite (CellsKept.refl _ u) (u.writePoint_regs _)
  have can : (if r.point = 0xFFFFFFFF ∨ u.holds = false then u else u.writePoint (u.objPoint n ofs r x)).can = u.can := by
    split
    · rfl
    · exact u.writePoint_can _
  refine ⟨(kept.mono (by simp)).trans (written.mono (by simp)), ?_, ?_, ?_, fun none_ => ?_, fun c small gate schema writer ident => ?_⟩
  · rw [written.fld (by simp), seen, drop]
  · rw [written.fld (by simp), seen, lost]
  · rw [can, objs', objs]
  · rw [if_pos (by rwa [holds]), pnt', pnt]
  · have id : (u.objPoint n ofs r x).id = r.point := Nat.mod_eq_of_lt small
    have schemaU : u.schema (u.objPoint n ofs r x).id = some c := by rw [id, State.schema, jny', jny, ← schema, State.schema]
    have ok : writerOk c (u.objPoint n ofs r x).cls (u.objPoint n ofs r x).ident = true := by simp [writerOk, State.objPoint, writer, ident]
    obtain ⟨value, qual, others⟩ := u.storePoint_point (u.objPoint n ofs r x)
    rw [if_neg (by rw [holds, gate]; simp; omega), State.writePoint_stores schemaU ok]
    rw [id] at value qual others
    refine ⟨value, qual, fun p other => (others p other).trans ?_⟩
    rw [State.point, State.point, pnt', pnt]

/-! ### Routes (R347) -/

section Route

variable {ofs : Nat} {x : CanFrame} (none_ : s.canTenon n x = none)

include none_

theorem State.canRoute_object {r : CanObjRec}
    (found : ((canObjs (s.body tyCAN)).find? fun r => decide (r.ctrl = n ∧ r.ident = x.ident ∧ r.xtd = x.xtd ∧ x.rtr = false)) = some r)
    (long : r.min ≤ x.data.length) : s.canRoute n ofs x = s.canStore n ofs r x := by
  unfold State.canRoute
  rw [none_, found]
  exact if_neg (by omega)

theorem State.canRoute_short {r : CanObjRec}
    (found : ((canObjs (s.body tyCAN)).find? fun r => decide (r.ctrl = n ∧ r.ident = x.ident ∧ r.xtd = x.xtd ∧ x.rtr = false)) = some r)
    (short : x.data.length < r.min) : s.canRoute n ofs x = (s.canDrop n).violation 8 1 (some n) 255 (some 0) x.data (some (canIdw x)) n := by
  unfold State.canRoute
  rw [none_, found]
  exact if_pos short

theorem State.canRoute_dropped
    (free : ((canObjs (s.body tyCAN)).find? fun r => decide (r.ctrl = n ∧ r.ident = x.ident ∧ r.xtd = x.xtd ∧ x.rtr = false)) = none)
    (none' : s.fld F.CAN_CFG_RX_RING n = 63 ∨ canPasses (s.body tyCAN) n x = false) : s.canRoute n ofs x = s.canDrop n := by
  unfold State.canRoute
  rw [none_, free]
  exact if_pos none'

end Route

/-- A route leaves the controller's cycle. -/
theorem State.canRoute_cycle (s : State) (n ofs : Nat) (x : CanFrame) : RegsKept (.CAN_CNT :: .PNT_STAT :: calmRegs) s (s.canRoute n ofs x) := by
  have dropped (v : State) : RegsKept (.CAN_CNT :: .PNT_STAT :: calmRegs) v (v.canDrop n) := by simp [State.canDrop]
  have violates (v : State) (code : Nat) : RegsKept (.CAN_CNT :: .PNT_STAT :: calmRegs) v (v.violation 8 code (some n) 255 (some 0) x.data (some (canIdw x)) n) :=
    (State.violation_kept _ _ _ _ _ _ _ _ _).regsKept (by simp [calmRegs])
  unfold State.canRoute
  split
  · refine regsKept_ite ((dropped s).trans (violates _ 2)) (regsKept_ite ?_ (RegsKept.refl _ s))
    exact (s.tenonReceive_regs _ _).mono (by simp)
  · split
    · refine regsKept_ite ((dropped s).trans (violates _ 1)) ?_
      exact (s.canStore_spec n ofs _ x).1.regsKept (by simp)
    · unfold State.canToRing
      dsimp only
      refine regsKept_ite (dropped s) ?_
      have delivered (e : List Byte) : RegsKept (.CAN_CNT :: .PNT_STAT :: calmRegs) s (s.tick.ringDeliver (s.fld F.CAN_CFG_RX_RING n) e) :=
        RegsKept.trans (regsKept_tick.mpr (RegsKept.refl _ s)) ((State.ringDeliver_regs _ _ _).regsKept (by simp [calmRegs]))
      exact regsKept_ite (delivered _) ((delivered _).trans (dropped _))

/-! ### A receiver's error (R357, R358) -/

theorem State.canRxError_off {lec : Nat} {eight : Bool} (off : s.canOff n = true ∨ s.canBusOff n = true) : s.canRxError n lec eight = s :=
  if_pos (by rcases off with h | h <;> simp [h])

theorem State.canListens_congr (cfg : t.reg .CAN_CFG n = s.reg .CAN_CFG n) (ctl : t.reg .CAN_CTL n = s.reg .CAN_CTL n)
    (stat : t.reg .CAN_STAT 0 = s.reg .CAN_STAT 0) (peg : t.reg .PEG_STAT 0 = s.reg .PEG_STAT 0) : t.canListens n = s.canListens n := by
  unfold State.canListens State.canOff State.holds State.flag State.fld
  rw [cfg, ctl, stat, peg]

theorem State.canRxError_spec {eight : Bool} (lec : Nat) (joined : s.canOff n = false) (active : s.canBusOff n = false) :
    (s.canRxError n lec eight).fld F.CAN_ERR_LEC n = lec % 16 ∧ (s.canRxError n lec eight).fld F.CAN_ERR_TEC n = s.fld F.CAN_ERR_TEC n
      ∧ CellsKept [(.CAN_ERR, n), (.CAN_STAT, 0)] s (s.canRxError n lec eight)
      ∧ (s.canListens n = true → (s.canRxError n lec eight).fld F.CAN_ERR_REC n = s.fld F.CAN_ERR_REC n ∧ (s.canRxError n lec eight).reports = s.reports)
      ∧ (s.canListens n = false → (s.canRxError n lec eight).fld F.CAN_ERR_REC n = min (s.fld F.CAN_ERR_REC n + if eight then 8 else 1) 255
        ∧ (s.canRxError n lec eight).flag F.CAN_ERR_WARN n
          = decide (96 ≤ (s.canRxError n lec eight).fld F.CAN_ERR_TEC n ∨ 96 ≤ (s.canRxError n lec eight).fld F.CAN_ERR_REC n)
        ∧ (s.canRxError n lec eight).fld F.CAN_ERR_STATE n
          = (if 128 ≤ (s.canRxError n lec eight).fld F.CAN_ERR_TEC n ∨ 128 ≤ (s.canRxError n lec eight).fld F.CAN_ERR_REC n then 1 else 0)) := by
  obtain ⟨u, named⟩ : ∃ u, u = s.setFld F.CAN_ERR_LEC n lec := ⟨_, rfl⟩
  have start : CellsKept [(.CAN_ERR, n), (.CAN_STAT, 0)] s u ∧ u.fld F.CAN_ERR_LEC n = lec % 16 ∧ u.fld F.CAN_ERR_TEC n = s.fld F.CAN_ERR_TEC n
      ∧ u.fld F.CAN_ERR_REC n = s.fld F.CAN_ERR_REC n ∧ u.reports = s.reports ∧ u.canListens n = s.canListens n := by
    rw [named]
    exact ⟨by simp, by simp [Fld.width], by simp, by simp, rfl, State.canListens_congr (by simp) (by simp) (by simp) (by simp)⟩
  have error : s.canRxError n lec eight
      = (if u.canListens n then u else u.canCounters n (u.fld F.CAN_ERR_TEC n) (u.fld F.CAN_ERR_REC n + if eight then 8 else 1)).canLeave n := by
    rw [named]
    exact if_neg (by simp [joined, active])
  obtain ⟨kept, lecU, tec, rec', reports, listens⟩ := start
  rw [error, listens]
  cases listening : s.canListens n
  case true =>
    have left := u.canLeave_regs n
    rw [if_pos rfl]
    refine ⟨?_, ?_, kept.trans (left.mono (by simp)), fun _ => ⟨?_, ?_⟩, fun h => Bool.noConfusion h⟩
    · rw [left.fld (by simp), lecU]
    · rw [left.fld (by simp), tec]
    · rw [left.fld (by simp), rec']
    · rw [u.canLeave_eq n]
      exact reports
  case false =>
    rw [if_neg Bool.false_ne_true]
    obtain ⟨counted, tecV, recV, lecV, warn, state⟩ := u.canCounters_calm n _ (u.fld F.CAN_ERR_REC n + if eight then 8 else 1) (u.rec_le n)
    generalize u.canCounters n (u.fld F.CAN_ERR_TEC n) (u.fld F.CAN_ERR_REC n + if eight then 8 else 1) = v at *
    have left := v.canLeave_regs n
    rw [rec'] at recV warn state
    refine ⟨?_, ?_, (kept.trans counted).trans (left.mono (by simp)), fun h => Bool.noConfusion h, fun _ => ⟨?_, ?_, ?_⟩⟩
    · rw [left.fld (by simp), lecV, lecU]
    · rw [left.fld (by simp), tecV, tec]
    · rw [left.fld (by simp), recV]
    · rw [left.flag (by simp), left.fld (by simp), left.fld (by simp), warn, tecV, recV]
      congr 1
      simp only [eq_iff_iff]
      omega
    · rw [left.fld (by simp), left.fld (by simp), left.fld (by simp), state, tecV, recV]
      congr 1
      simp only [eq_iff_iff]
      omega

/-! ### A protocol exception (R362) -/

/-- The exception is counted and recorded. -/
def State.exceptionCounted (s : State) (n : Nat) (idw : W32) : State :=
  (s.bumpSat F.CAN_CNT_PXE n).violation 8 3 (some n) 255 (some 0) [] (some idw.toNat) n

theorem State.canException_on {idw : W32} (joined : s.canOff n = false) (active : s.canBusOff n = false) :
    s.canException n idw = if (s.exceptionCounted n idw).flag F.CAN_CFG_PXHD n then (s.exceptionCounted n idw).canRxError n 2 false
      else s.exceptionCounted n idw := by
  unfold State.canException
  exact if_neg (by simp [joined, active])

theorem State.exceptionCounted_spec (s : State) (n : Nat) (idw : W32) :
    CellsKept [(.CAN_CNT, n), (.NET_VIOL_CNT, 0), (.PNT_RING_PROD, 61), (.PNT_RING_STAT, 61)] s (s.exceptionCounted n idw)
      ∧ (s.exceptionCounted n idw).fld F.CAN_CNT_PXE n = min (s.fld F.CAN_CNT_PXE n + 1) 255
      ∧ (s.exceptionCounted n idw).fld F.NET_VIOL_CNT_COUNT = min (s.fld F.NET_VIOL_CNT_COUNT + 1) (2 ^ 32 - 1) := by
  have kept := State.violation_kept (s.bumpSat F.CAN_CNT_PXE n) 8 3 (some n) 255 (some 0) [] (some idw.toNat) n
  refine ⟨CellsKept.trans (by simp) (kept.mono (by simp)), (kept.fld (by simp)).trans (by simp [Fld.width]), ?_⟩
  exact (State.violation_count _ 8 3 (some n) 255 (some 0) [] (some idw.toNat) n).trans (by simp)

theorem State.canOff_congr (cfg : t.reg .CAN_CFG n = s.reg .CAN_CFG n) (stat : t.reg .CAN_STAT 0 = s.reg .CAN_STAT 0) : t.canOff n = s.canOff n := by
  unfold State.canOff State.flag State.fld
  rw [cfg, stat]

theorem State.canException_spec {idw : W32} (joined : s.canOff n = false) (active : s.canBusOff n = false) :
    (s.canException n idw).fld F.CAN_CNT_PXE n = min (s.fld F.CAN_CNT_PXE n + 1) 255
      ∧ (s.canException n idw).fld F.NET_VIOL_CNT_COUNT = min (s.fld F.NET_VIOL_CNT_COUNT + 1) (2 ^ 32 - 1)
      ∧ (s.flag F.CAN_CFG_PXHD n = false → (s.canException n idw).reg .CAN_ERR n = s.reg .CAN_ERR n)
      ∧ (s.flag F.CAN_CFG_PXHD n = true → (s.canException n idw).fld F.CAN_ERR_LEC n = 2) := by
  obtain ⟨kept, pxe, viol⟩ := s.exceptionCounted_spec n idw
  have pxhd : (s.exceptionCounted n idw).flag F.CAN_CFG_PXHD n = s.flag F.CAN_CFG_PXHD n := kept.flag (by simp)
  have off : (s.exceptionCounted n idw).canOff n = false := (State.canOff_congr (kept _ _ (by simp)) (kept _ _ (by simp))).trans joined
  have busOff : (s.exceptionCounted n idw).canBusOff n = false := by
    rw [← active, State.canBusOff, State.canBusOff, kept.fld (by simp)]
  rw [State.canException_on joined active, pxhd]
  cases s.flag F.CAN_CFG_PXHD n
  case false => exact ⟨pxe, viol, fun _ => kept _ _ (by simp), fun h => Bool.noConfusion h⟩
  case true =>
    obtain ⟨lec, -, error, -⟩ := State.canRxError_spec (s := s.exceptionCounted n idw) (eight := false) 2 off busOff
    exact ⟨(error.fld (by simp)).trans pxe, (error.fld (by simp)).trans viol, fun h => Bool.noConfusion h, fun _ => lec⟩

/-! ### Reads of objects (R349) -/

/-- A read from the first byte takes a shadow and clears NEW and LOST. -/
theorem State.objectRead_first (s : State) (who : Initiator) {n j len : Nat} (defined : s.canObjRec n j ≠ none) (some_ : 0 < len) :
    (s.objectRead who n j 0 len).resp = .data ((s.canObj n j).bytes.take len)
      ∧ (s.objectRead who n j 0 len).canObj n j = { s.canObj n j with new := false, lost := false }
      ∧ (∀ k, k ≠ 256 * n + j → (s.objectRead who n j 0 len).can.objs.get k = s.can.objs.get k)
      ∧ s.objectRead who n j 0 len = { s with can := (s.objectRead who n j 0 len).can, resp := (s.objectRead who n j 0 len).resp }
      ∧ ((s.objectRead who n j 0 len).can.shadows.find? fun c => decide (c.1 = who ∧ c.2.1 = 256 * n + j))
        = some (who, 256 * n + j, (s.canObj n j).bytes) := by
  have live : (if (s.canObjRec n j).isSome then (s.canObj n j).bytes else leBytes 128 0) = (s.canObj n j).bytes :=
    if_pos (Option.isSome_iff_ne_none.mpr defined)
  unfold State.objectRead
  dsimp only
  rw [if_pos ⟨rfl, some_⟩, live]
  refine ⟨rfl, Arr.get_upd_same _ _ _, fun k other => Arr.get_upd_ne _ other _, rfl, ?_⟩
  rw [List.find?_append, List.find?_eq_none.mpr]
  · simp
  · intro c mem
    have apart := of_decide_eq_true (List.mem_filter.mp mem).2
    simp only [decide_eq_true_eq, not_and]
    exact fun same => apart.resolve_left (not_not_intro same)

/-- A later read returns the shadow. -/
theorem State.objectRead_later {who : Initiator} {n j ofs len : Nat} (later : 0 < ofs) {c : Initiator × Nat × List Byte}
    (shadow : (s.can.shadows.find? fun c => decide (c.1 = who ∧ c.2.1 = 256 * n + j)) = some c) :
    s.objectRead who n j ofs len = { s with resp := .data (slice c.2.2 ofs len) } := by
  unfold State.objectRead
  dsimp only
  rw [if_neg (by omega), shadow]

/-! ### The statement -/

theorem canFrameReceived_exec (runs : s.runs 0 = true) {ofs : Nat} {x : CanFrame} (joined : s.canOff n = false) (active : s.canBusOff n = false) :
    exec (.canFrameReceived n ofs x) s = .next (((s.canHears n x).canRoute n ofs x).canLeave n) :=
  congrArg Host.Outcome.next ((State.live_runs runs).trans (State.canReceive_on joined active))

/-- Settles O51, clause by clause: a controller off its bus, the routes of a frame, a reference message, an object's reads, and errors. -/
theorem canFramesAreStoredAndErrorsCounted : Obligations.CanFramesAreStoredAndErrorsCounted := by
  unfold Obligations.CanFramesAreStoredAndErrorsCounted
  refine ⟨?off, ?object, ?dropped, ?reference, ?reads, ?error, ?exception⟩
  case off =>
    intro s n ofs lec x eight idw off
    have rests : (s.canOff n || s.canBusOff n) = true := by rcases off with h | h <;> simp [h]
    refine ⟨congrArg Host.Outcome.next ?_, congrArg Host.Outcome.next ?_, congrArg Host.Outcome.next ?_⟩
    · rw [State.canReceive, if_pos rests, State.live, ite_self]
    · rw [State.canRxError_off off, State.live, ite_self]
    · rw [State.canException, if_pos rests, State.live, ite_self]
  case object =>
    intro s n ofs x r runs joined active none_ found
    have heard := s.canHears_heard n x
    have none' : (s.canHears n x).canTenon n x = none := (heard.canTenon x).trans none_
    have found' := found
    rw [← heard.body] at found'
    refine ⟨fun long => ⟨_, canFrameReceived_exec runs joined active, ?_⟩, fun short => ⟨_, canFrameReceived_exec runs joined active, ?_⟩⟩
    · rw [State.canRoute_object none' found' long]
      obtain ⟨-, drop, lost, objs, table, point⟩ := (s.canHears n x).canStore_spec n ofs r x
      have obj : (s.canHears n x).canObj n r.obj = s.canObj n r.obj := congrArg (Arr.get · _) heard.objs
      have stored : (s.canHears n x).objStored n ofs r x = s.objStored n ofs r x := by
        rw [State.objStored, State.objStored, obj, State.now, State.now, heard.sys]
      have holds : (s.canHears n x).holds = s.holds := heard.regs.flag (by simp)
      rw [heard.objs, stored] at objs
      rw [obj, heard.regs.fld (by simp)] at lost
      rw [heard.regs.fld (by simp)] at drop
      rw [holds, heard.table] at table
      rw [holds] at point
      generalize (s.canHears n x).canStore n ofs r x = v at *
      have left := v.canLeave_regs n
      have same := v.canLeave_eq n
      refine ⟨?_, fun k other => ?_, (left.fld (by simp)).trans drop, (left.fld (by simp)).trans lost, fun none_ => ?_, fun c small gate schema writer ident => ?_⟩
      · rw [same]
        exact (congrArg (Arr.get · _) objs).trans (Arr.get_set_same _ _ _)
      · rw [same]
        exact (congrArg (Arr.get · k) objs).trans (Arr.get_set_ne _ other _)
      · rw [same]
        exact table none_
      · obtain ⟨value, qual, others⟩ := point c small gate (by rw [← schema, State.schema, State.schema, heard.jny]) writer ident
        rw [same]
        exact ⟨value, qual, fun p other => (others p other).trans (congrArg (Arr.get · p) heard.table)⟩
    · rw [State.canRoute_short none' found' short]
      have kept := State.violation_kept ((s.canHears n x).canDrop n) 8 1 (some n) 255 (some 0) x.data (some (canIdw x)) n
      obtain ⟨_, _, _, _, _, _, _, _, -, same⟩ := State.violation_eq ((s.canHears n x).canDrop n) 8 1 (some n) 255 (some 0) x.data (some (canIdw x)) n
      have left := State.canLeave_regs (((s.canHears n x).canDrop n).violation 8 1 (some n) 255 (some 0) x.data (some (canIdw x)) n) n
      refine ⟨?_, ?_⟩
      · rw [State.canLeave_eq, same]
        exact heard.objs
      · rw [left.fld (by simp), kept.fld (by simp)]
        simp [State.canDrop, Fld.width, heard.regs.fld (f := F.CAN_CNT_RX_DROP) (i := n) (by simp)]
  case dropped =>
    intro s n ofs x runs joined active none_ free closed
    have heard := s.canHears_heard n x
    refine ⟨_, canFrameReceived_exec runs joined active, ?_⟩
    rw [State.canRoute_dropped ((heard.canTenon x).trans none_) (by rw [heard.body]; exact free) (by rw [heard.body, heard.regs.fld (by simp)]; exact closed)]
    refine ⟨?_, ?_⟩
    · rw [State.canLeave_eq]
      exact heard.objs
    · rw [(State.canLeave_regs _ n).fld (by simp)]
      simp [State.canDrop, Fld.width, heard.regs.fld (f := F.CAN_CNT_RX_DROP) (i := n) (by simp)]
  case reference =>
    intro s n ofs x runs joined active follows reference
    refine ⟨_, canFrameReceived_exec runs joined active, ?_⟩
    have good := s.canRxGood_heard n
    obtain ⟨v, counted⟩ : ∃ v, v = (s.canRxGood n).count 12 (23 + 2 * n) := ⟨_, rfl⟩
    have kept : CellsKept [(.CAN_ERR, n), (.CAN_STAT, 0), (.CAN_TT_STAT, n), (.NET_VIOL_CNT, 0), (.PNT_RING_PROD, 61), (.PNT_RING_STAT, 61)] s v := by
      rw [counted]
      exact cellsKept_count.mpr good.regs
    have mine : v.isReference n x = true := by
      rw [← reference]
      simp only [State.isReference, kept.fld (f := F.CAN_TT_CFG_REF_ID) (i := n) (by simp), kept.flag (f := F.CAN_TT_CFG_XTD) (i := n) (by simp)]
    obtain ⟨cycle, sync⟩ := State.takeReference_taken (s := v) ((kept.fld (by simp)).trans follows) mine
    have hears : s.canHears n x = v.takeReference n x := by rw [counted, State.canHears]
    have routed := (s.canHears n x).canRoute_cycle n ofs x
    have left := State.canLeave_regs ((s.canHears n x).canRoute n ofs x) n
    rw [left.fld (by simp), left.flag (by simp), routed.fld (by simp [calmRegs]), routed.flag (by simp [calmRegs]), hears]
    exact ⟨cycle, sync⟩
  case reads =>
    intro s who n j len reaches defined width
    have aligned : len = 4 ∨ (len = 8 ∧ (0x10000 + 0x8000 * n + 0x80 * j) % 8 = 0) := width.imp_right fun h => ⟨h, by omega⟩
    have first : exec (.objectRead who n j 0 len) s = .next ((servedRead s who len).objectRead who n j 0 len) :=
      congrArg Host.Outcome.next (rowRead_reaches s who 9 _ len _ reaches aligned)
    refine ⟨_, first, ?_⟩
    obtain ⟨c, counted⟩ := servedRead_scb s who len
    rw [counted]
    obtain ⟨resp, obj, others, same, shadow⟩ := State.objectRead_first { s with scb := c } who (n := n) (j := j) (len := len) defined (by omega)
    refine ⟨resp, obj, others, same, fun ofs more later wide fits reaches' => ?_⟩
    have aligned' : more = 4 ∨ (more = 8 ∧ (0x10000 + 0x8000 * n + 0x80 * j + ofs) % 8 = 0) := wide.imp_right fun h => ⟨h, by rw [h] at fits; omega⟩
    have second : exec (.objectRead who n j ofs more) _ = .next _ := congrArg Host.Outcome.next (rowRead_reaches (State.objectRead { s with scb := c } who n j 0 len) who 9 _ more
      (fun t => t.objectRead who n j ofs more) reaches' aligned')
    refine ⟨_, second, ?_⟩
    obtain ⟨d, counted'⟩ := servedRead_scb (State.objectRead { s with scb := c } who n j 0 len) who more
    rw [counted', State.objectRead_later (s := { State.objectRead { s with scb := c } who n j 0 len with scb := d }) later shadow]
    exact ⟨rfl, rfl⟩
  case error =>
    intro s n lec eight runs joined active
    exact ⟨_, congrArg Host.Outcome.next (State.live_runs runs), State.canRxError_spec lec joined active⟩
  case exception =>
    intro s n idw runs joined active
    exact ⟨_, congrArg Host.Outcome.next (State.live_runs runs), State.canException_spec joined active⟩

end Sys2Proof.Machine
end

section
/-! SUPPORT. The Feeder link: what its operations change, and the statement on its frames, nodes and curtailment. -/

namespace Sys2Proof.Machine

open Sys2Proof

variable {s t u : State} {a band ofs : Nat}

/-! ### Changes of the link alone -/

@[simp] theorem cellsKept_onFdl {ks : List RegKey} {f : Fdl → Fdl} : CellsKept ks s (u.onFdl f) ↔ CellsKept ks s u := Iff.rfl
@[simp] theorem regsKept_onFdl {rs : List Reg} {f : Fdl → Fdl} : RegsKept rs s (u.onFdl f) ↔ RegsKept rs s u := Iff.rfl

/-- The registers of the Feeder link that its operations change. -/
def fdlRegs : List Reg := [.FDL_BAND_STAT, .FDL_STAT, .FDL_NODE_STAT, .FDL_CURT, .FDL_CURT_LIMIT, .FDL_CURT_CTR]

/-- An operation of the Feeder link: beside its own registers and bookkeeping only counters and reports change. -/
structure LinkOnly (s t : State) : Prop where
  regs : RegsKept fdlRegs s t
  jny : t.jny = s.jny
  sys : t.sys = s.sys
  cof : t.cof = s.cof
  pnt : t.pnt = s.pnt

theorem LinkOnly.refl (s : State) : LinkOnly s s := ⟨RegsKept.refl _ s, rfl, rfl, rfl, rfl⟩

theorem LinkOnly.trans (h : LinkOnly s u) (k : LinkOnly u t) : LinkOnly s t :=
  ⟨h.regs.trans k.regs, k.jny.trans h.jny, k.sys.trans h.sys, k.cof.trans h.cof, k.pnt.trans h.pnt⟩

theorem linkOnly_setFld (s : State) {f : Fld} {i n : Nat} (listed : f.reg ∈ fdlRegs) : LinkOnly s (s.setFld f i n) :=
  ⟨(regsKept_setFld listed).mpr (RegsKept.refl _ s), rfl, rfl, rfl, rfl⟩

theorem linkOnly_onFdl (s : State) (f : Fdl → Fdl) : LinkOnly s (s.onFdl f) := ⟨regsKept_of_regs rfl, rfl, rfl, rfl, rfl⟩

theorem linkOnly_count (s : State) (b k : Nat) : LinkOnly s (s.count b k) := ⟨regsKept_of_regs rfl, rfl, rfl, rfl, rfl⟩

theorem linkOnly_fdlCode (s : State) (code subject : Nat) : LinkOnly s (s.fdlCode code subject) :=
  (linkOnly_setFld s (f := F.FDL_STAT_CODE) (i := 0) (n := code) (by simp [fdlRegs])).trans ⟨regsKept_of_regs rfl, rfl, rfl, rfl, rfl⟩

section Same

variable (h : LinkOnly s t)

include h

theorem LinkOnly.now : t.now = s.now := by rw [State.now, State.now, h.sys]

theorem LinkOnly.holds : t.holds = s.holds := h.regs.flag (f := F.PEG_STAT_HOLD) (by simp [fdlRegs]) 0

theorem LinkOnly.fdlBody : t.fdlBody = s.fdlBody := by rw [State.fdlBody, State.fdlBody, State.body, State.body, h.jny]

theorem LinkOnly.node : t.node = s.node := funext fun a => by rw [State.node, State.node, h.fdlBody]

theorem LinkOnly.nodeOf (band addr : Nat) : t.nodeOf band addr = s.nodeOf band addr := by
  unfold State.nodeOf
  rw [h.node]

theorem LinkOnly.schema (p : Nat) : t.schema p = s.schema p := by rw [State.schema, State.schema, h.jny]

theorem LinkOnly.strokesIn (n : Nat) : t.strokesIn n = s.strokesIn n := by
  unfold State.strokesIn State.period
  rw [h.regs.fld (by simp [fdlRegs])]

theorem LinkOnly.boundMode (band m : Nat) : t.boundMode band m = s.boundMode band m := by
  unfold State.boundMode
  rw [h.regs.fld (by simp [fdlRegs]), h.regs.fld (by simp [fdlRegs])]

theorem LinkOnly.keySlot (n : Nat) : t.keySlot n = s.keySlot n := by rw [State.keySlot, State.keySlot, h.cof]

theorem LinkOnly.slotLive (n : Nat) : t.slotLive n = s.slotLive n := by
  unfold State.slotLive State.slotState
  rw [h.keySlot, h.regs.fld (by simp [fdlRegs])]

theorem LinkOnly.chainOk (k n : Nat) : t.chainOk k n = s.chainOk k n := by
  induction k generalizing n with
  | zero => rw [State.chainOk, State.chainOk, h.regs.fld (by simp [fdlRegs])]
  | succ k ih =>
    unfold State.chainOk
    rw [h.regs.fld (f := F.CFR_SLOT_ATTR_LO_PARENT) (by simp [fdlRegs]), h.regs.fld (f := F.CFR_SLOT_PGEN_PGEN) (by simp [fdlRegs])]
    dsimp only
    rw [h.regs.fld (f := F.CFR_SLOT_GEN_GEN) (by simp [fdlRegs]), h.slotLive, ih]

theorem LinkOnly.useCode (n island usage : Nat) : t.useCode n island usage = s.useCode n island usage := by
  unfold State.useCode
  rw [h.slotLive, h.chainOk, h.regs.flag (by simp [fdlRegs]), h.regs.fld (f := F.CFR_SLOT_ATTR_LO_OWNER) (by simp [fdlRegs]),
    h.regs.fld (f := F.CFR_SLOT_ATTR_HI_USAGE) (by simp [fdlRegs])]

theorem LinkOnly.slotKeys (n island usage : Nat) : t.slotKeys n island usage = s.slotKeys n island usage := by
  unfold State.slotKeys State.stagedKey
  rw [h.useCode, h.keySlot, h.regs.flag (by simp [fdlRegs])]

theorem LinkOnly.slotKey (n island usage : Nat) : t.slotKey n island usage = s.slotKey n island usage := by
  unfold State.slotKey
  rw [h.useCode, h.keySlot]

end Same

/-! ### Modes (R373) -/

/-- A change of the mode that a node is asked for, and of nothing that a frame of the node shows. -/
structure ModeAsked (a : Nat) (s t : State) : Prop where
  link : LinkOnly s t
  cells : CellsKept [(.FDL_NODE_STAT, a)] s t
  reports : t.reports = s.reports
  erased : t.fld F.FDL_NODE_STAT_ERASED a = s.fld F.FDL_NODE_STAT_ERASED a
  tx : t.fld F.FDL_NODE_STAT_TX_MODE a = s.fld F.FDL_NODE_STAT_TX_MODE a
  state : t.fld F.FDL_NODE_STAT_STATE a = s.fld F.FDL_NODE_STAT_STATE a
  counter : (t.fdl.nodes.get a).inCtr = (s.fdl.nodes.get a).inCtr

theorem modeAsked_clean (s : State) (a : Nat) (f : FdlNode → FdlNode) (counter : ∀ x, (f x).inCtr = x.inCtr) : ModeAsked a s (s.onNode a f) where
  link := linkOnly_onFdl s _
  cells := cellsKept_of_regs rfl
  reports := rfl
  erased := rfl
  tx := rfl
  state := rfl
  counter := (congrArg FdlNode.inCtr (Arr.get_upd_same _ _ _)).trans (counter _)

theorem modeAsked_mode (s : State) (a n : Nat) : ModeAsked a s (s.setFld F.FDL_NODE_STAT_RX_MODE a n) where
  link := linkOnly_setFld s (by simp [fdlRegs])
  cells := by simp
  reports := rfl
  erased := by simp
  tx := by simp
  state := by simp
  counter := rfl

theorem ModeAsked.trans (h : ModeAsked a s u) (k : ModeAsked a u t) : ModeAsked a s t where
  link := h.link.trans k.link
  cells := h.cells.trans k.cells
  reports := k.reports.trans h.reports
  erased := k.erased.trans h.erased
  tx := k.tx.trans h.tx
  state := k.state.trans h.state
  counter := k.counter.trans h.counter

theorem State.askRobust_asked (s : State) (a : Nat) : ModeAsked a s (s.askRobust a) :=
  (modeAsked_mode s a _).trans (modeAsked_clean _ a _ fun _ => rfl)

theorem State.askLess_asked (s : State) (a : Nat) : ModeAsked a s (s.askLess a) :=
  (modeAsked_mode s a _).trans (modeAsked_clean _ a _ fun _ => rfl)

theorem State.askRobust_mode (s : State) (a : Nat) :
    (s.askRobust a).fld F.FDL_NODE_STAT_RX_MODE a = min 2 (s.fld F.FDL_NODE_STAT_RX_MODE a + 1) := by
  simp [State.askRobust, State.onNode, Fld.width]

/-- A judged frame shows its share of erased symbols; beside it only the mode to ask for may change. -/
theorem State.judgeErased_asked (s : State) (a : Nat) (d : Decoded) :
    ModeAsked a (s.setFld F.FDL_NODE_STAT_ERASED a (100 * d.erased / max d.total 1)) (s.judgeErased a d) := by
  unfold State.judgeErased
  dsimp only
  generalize s.setFld F.FDL_NODE_STAT_ERASED a (100 * d.erased / max d.total 1) = u
  have counted := modeAsked_clean u a (fun x => { x with clean := x.clean + 1 }) fun _ => rfl
  split
  · exact u.askRobust_asked a
  · split
    · split
      · exact counted.trans (State.askLess_asked _ a)
      · exact counted
    · exact modeAsked_clean u a (fun x => { x with clean := 0 }) fun _ => rfl

/-- A node that asks for a mode is sent to in it, within the band's bounds. -/
theorem State.takeMode_spec (s : State) (a band m : Nat) : LinkOnly s (s.takeMode a band m)
    ∧ RegsKept [.FDL_NODE_STAT, .FDL_STAT] s (s.takeMode a band m) ∧ (s.takeMode a band m).fdl = s.fdl
    ∧ (s.takeMode a band m).fld F.FDL_NODE_STAT_TX_MODE a = s.boundMode band m % 4
    ∧ (s.takeMode a band m).fld F.FDL_NODE_STAT_ERASED a = s.fld F.FDL_NODE_STAT_ERASED a
    ∧ (s.takeMode a band m).fld F.FDL_NODE_STAT_STATE a = s.fld F.FDL_NODE_STAT_STATE a := by
  unfold State.takeMode
  dsimp only
  split
  · next same => exact ⟨LinkOnly.refl s, RegsKept.refl _ s, rfl, by rw [← same]; exact (Nat.mod_eq_of_lt (s.fld_lt F.FDL_NODE_STAT_TX_MODE a)).symm, rfl, rfl⟩
  · exact ⟨(linkOnly_setFld s (by simp [fdlRegs])).trans (linkOnly_fdlCode _ _ _), by simp [State.fdlCode], rfl, by simp [State.fdlCode, Fld.width],
      by simp [State.fdlCode], by simp [State.fdlCode]⟩

/-! ### A received frame (R368) -/

/-- The check of a decoded body: its length, its LEN and its CHECK fit. -/
def BodyOk (b : List Byte) : Prop :=
  6 ≤ b.length ∧ u8 b 3 + 6 = b.length ∧ u8 b (b.length - 2) * 256 + u8 b (b.length - 1) = crc16 (b.take (b.length - 2))

theorem fdlHears_true (on : s.fdlOn = true) (enabled : s.flag F.FDL_BAND_CFG_EN band = true) (silent : ∀ f, s.fdl.air ≠ some (band, f)) :
    s.fdlHears band = true := by
  unfold State.fdlHears
  rw [on, enabled]
  match air : s.fdl.air with
  | none => simp
  | some (k, f) =>
    have other : k ≠ band := fun e => silent f (e ▸ air)
    simp [other]

theorem fdlHears_false (h : s.fdlOn = false ∨ s.flag F.FDL_BAND_CFG_EN band = false ∨ (s.holds = true ∧ ∃ f, s.fdl.air = some (band, f))) :
    s.fdlHears band = false := by
  unfold State.fdlHears
  obtain off | off | ⟨gate, f, air⟩ := h
  · rw [off]; rfl
  · simp [off]
  · simp [gate, air]

theorem State.fdlReceive_deaf {d : Decoded} (deaf : s.fdlHears band = false) : s.fdlReceive band ofs d = s := if_pos (by rw [deaf]; rfl)

theorem State.fdlReceive_bad {d : Decoded} (hears : s.fdlHears band = true) (bad : ¬ BodyOk d.body) :
    s.fdlReceive band ofs d = s.fdlBad band d.body := by
  unfold State.fdlReceive
  rw [if_neg (by simp [hears])]
  refine if_pos ?_
  unfold BodyOk at bad
  by_contra sound
  obtain ⟨long, length, check⟩ : ¬ d.body.length < 6 ∧ ¬ u8 d.body 3 + 6 ≠ d.body.length ∧ _ := not_or.mp sound |>.imp id not_or.mp
  have last : d.body.length - 2 + 1 = d.body.length - 1 := by omega
  exact bad ⟨by omega, by omega, by rw [← last]; exact not_not.mp check⟩

/-- A good frame of a band, counted and judged. -/
def State.fdlGood (s : State) (band : Nat) (d : Decoded) : State :=
  let s := (s.bumpSat F.FDL_BAND_STAT_FRAMES_OK band).count 12 (39 + band)
  match s.nodeOf band (u8 d.body 1) with | some a => s.judgeErased a d | none => s

theorem State.fdlReceive_good {d : Decoded} (hears : s.fdlHears band = true) (ok : BodyOk d.body) :
    s.fdlReceive band ofs d =
      (let b := d.body
      let node := ((s.bumpSat F.FDL_BAND_STAT_FRAMES_OK band).count 12 (39 + band)).nodeOf band (u8 b 1)
      let s := s.fdlGood band d
      if u8 b 0 ≠ s.fld F.FDL_CFG_ADDR ∧ u8 b 0 ≠ 255 then s
      else if band = 0 then (if u8 b 2 % 8 = 3 then s.curtailCommand (b.take 4) (slice b 4 (u8 b 3)) else s)
      else
        let s := match node with | some a => if u8 b 0 = 255 then s else s.takeMode a band (u8 b 2 / 8 % 4) | none => s
        if u8 b 2 % 8 = 1 then s.fdlTenon band (slice b 4 (u8 b 3))
        else if u8 b 2 % 8 = 2 then
          match node with
          | some a => match s.node a with | some r => s.fdlPoints a r ofs (b.take 4) (slice b 4 (u8 b 3)) | none => s
          | none => s
        else s) := by
  obtain ⟨long, length, check⟩ := ok
  have last : d.body.length - 2 + 1 = d.body.length - 1 := by omega
  unfold State.fdlReceive
  rw [if_neg (by simp [hears])]
  refine (if_neg ?_).trans rfl
  rw [last]
  omega

theorem State.fdlGood_link (s : State) (band : Nat) (d : Decoded) : LinkOnly s (s.fdlGood band d) := by
  have counted : LinkOnly s ((s.bumpSat F.FDL_BAND_STAT_FRAMES_OK band).count 12 (39 + band)) :=
    (linkOnly_setFld s (f := F.FDL_BAND_STAT_FRAMES_OK) (by simp [fdlRegs])).trans (linkOnly_count _ _ _)
  unfold State.fdlGood
  dsimp only
  split
  · exact counted.trans ((linkOnly_setFld _ (by simp [fdlRegs])).trans (State.judgeErased_asked _ _ d).link)
  · exact counted

theorem State.fdlGood_seen (s : State) (band : Nat) (d : Decoded) : RegsKept [.FDL_BAND_STAT, .FDL_NODE_STAT] s (s.fdlGood band d)
    ∧ (s.fdlGood band d).fld F.FDL_BAND_STAT_FRAMES_OK band = min (s.fld F.FDL_BAND_STAT_FRAMES_OK band + 1) 65535
    ∧ (s.fdlGood band d).reports = s.reports := by
  have counted : RegsKept [.FDL_BAND_STAT, .FDL_NODE_STAT] s ((s.bumpSat F.FDL_BAND_STAT_FRAMES_OK band).count 12 (39 + band)) := by simp
  have frames : ((s.bumpSat F.FDL_BAND_STAT_FRAMES_OK band).count 12 (39 + band)).fld F.FDL_BAND_STAT_FRAMES_OK band
      = min (s.fld F.FDL_BAND_STAT_FRAMES_OK band + 1) 65535 := by simp [Fld.width]
  have reports : ((s.bumpSat F.FDL_BAND_STAT_FRAMES_OK band).count 12 (39 + band)).reports = s.reports := rfl
  unfold State.fdlGood
  dsimp only
  generalize (s.bumpSat F.FDL_BAND_STAT_FRAMES_OK band).count 12 (39 + band) = u at counted frames reports ⊢
  split
  · next a _ =>
    have asked := u.judgeErased_asked a d
    have judged : RegsKept [.FDL_NODE_STAT] u (u.judgeErased a d) := RegsKept.trans (by simp) (asked.cells.regsKept (by simp))
    exact ⟨counted.trans (judged.mono (by simp)), (judged.fld (by simp) band).trans frames, asked.reports.trans reports⟩
  · exact ⟨counted, frames, reports⟩

/-- A good frame of a node shows its erased symbols. -/
theorem State.fdlGood_node {d : Decoded} (node : s.nodeOf band (u8 d.body 1) = some a) :
    (s.fdlGood band d).fld F.FDL_NODE_STAT_ERASED a = 100 * d.erased / max d.total 1 % 256
      ∧ (s.fdlGood band d).fld F.FDL_NODE_STAT_STATE a = s.fld F.FDL_NODE_STAT_STATE a
      ∧ ((s.fdlGood band d).fdl.nodes.get a).inCtr = (s.fdl.nodes.get a).inCtr := by
  have counted : LinkOnly s ((s.bumpSat F.FDL_BAND_STAT_FRAMES_OK band).count 12 (39 + band)) :=
    (linkOnly_setFld s (f := F.FDL_BAND_STAT_FRAMES_OK) (by simp [fdlRegs])).trans (linkOnly_count _ _ _)
  have state : ((s.bumpSat F.FDL_BAND_STAT_FRAMES_OK band).count 12 (39 + band)).fld F.FDL_NODE_STAT_STATE a = s.fld F.FDL_NODE_STAT_STATE a := by simp
  have counter : ((s.bumpSat F.FDL_BAND_STAT_FRAMES_OK band).count 12 (39 + band)).fdl = s.fdl := rfl
  unfold State.fdlGood
  dsimp only
  rw [counted.nodeOf, node]
  generalize (s.bumpSat F.FDL_BAND_STAT_FRAMES_OK band).count 12 (39 + band) = u at state counter ⊢
  have asked := u.judgeErased_asked a d
  exact ⟨asked.erased.trans (by simp [Fld.width]), asked.state.trans (by simp [state]), asked.counter.trans (by rw [← counter]; rfl)⟩

/-! ### A frame that fails its check (R368, R373) -/

/-- The failed frame counted, and said once per heat. -/
def State.badCounted (s : State) (band : Nat) : State :=
  let s := s.bumpSat F.FDL_BAND_STAT_FRAMES_BAD band
  if s.fdl.badSaid.contains band then s else (s.onFdl fun x => { x with badSaid := band :: x.badSaid }).fdlCode 0x0A83 band

theorem State.badCounted_spec (s : State) (band : Nat) : LinkOnly s (s.badCounted band) ∧ RegsKept [.FDL_BAND_STAT, .FDL_STAT] s (s.badCounted band)
    ∧ (s.badCounted band).fld F.FDL_BAND_STAT_FRAMES_BAD band = min (s.fld F.FDL_BAND_STAT_FRAMES_BAD band + 1) 255
    ∧ (s.badCounted band).reports = (if band ∈ s.fdl.badSaid then s.reports else s.reports ++ [⟨0x0A83, band⟩]) := by
  have counted : LinkOnly s (s.bumpSat F.FDL_BAND_STAT_FRAMES_BAD band) := linkOnly_setFld s (f := F.FDL_BAND_STAT_FRAMES_BAD) (by simp [fdlRegs])
  by_cases said : band ∈ s.fdl.badSaid
  · have same : s.badCounted band = s.bumpSat F.FDL_BAND_STAT_FRAMES_BAD band := if_pos (List.contains_iff_mem.mpr said)
    rw [same, if_pos said]
    exact ⟨counted, by simp, by simp [Fld.width], rfl⟩
  · have reported : s.badCounted band = ((s.bumpSat F.FDL_BAND_STAT_FRAMES_BAD band).onFdl fun x => { x with badSaid := band :: x.badSaid }).fdlCode 0x0A83 band :=
      if_neg fun h => said (List.contains_iff_mem.mp h)
    rw [reported, if_neg said]
    exact ⟨counted.trans ((linkOnly_onFdl _ _).trans (linkOnly_fdlCode _ _ _)), by simp [State.fdlCode], by simp [State.fdlCode, Fld.width], rfl⟩

theorem State.fdlBad_cases (s : State) (band : Nat) (b : List Byte) :
    s.nodeOf band (u8 b 1) = none ∧ s.fdlBad band b = s.badCounted band
      ∨ ∃ a, s.nodeOf band (u8 b 1) = some a ∧ s.fdlBad band b = (s.badCounted band).askRobust a := by
  have node := (s.badCounted_spec band).1.nodeOf band (u8 b 1)
  rw [← node]
  unfold State.fdlBad
  dsimp only
  change _ = none ∧ (match (s.badCounted band).nodeOf band (u8 b 1) with | some a => (s.badCounted band).askRobust a | none => s.badCounted band) = _
    ∨ ∃ a, _ ∧ (match (s.badCounted band).nodeOf band (u8 b 1) with | some a => (s.badCounted band).askRobust a | none => s.badCounted band) = _
  cases (s.badCounted band).nodeOf band (u8 b 1) with
  | none => exact .inl ⟨rfl, rfl⟩
  | some a => exact .inr ⟨a, rfl, rfl⟩

theorem State.fdlBad_spec (s : State) (band : Nat) (b : List Byte) :
    (s.fdlBad band b).fld F.FDL_BAND_STAT_FRAMES_BAD band = min (s.fld F.FDL_BAND_STAT_FRAMES_BAD band + 1) 255
      ∧ (s.fdlBad band b).reports = (if band ∈ s.fdl.badSaid then s.reports else s.reports ++ [⟨0x0A83, band⟩])
      ∧ (∀ a, s.nodeOf band (u8 b 1) = some a → (s.fdlBad band b).fld F.FDL_NODE_STAT_RX_MODE a = min 2 (s.fld F.FDL_NODE_STAT_RX_MODE a + 1))
      ∧ RegsKept [.FDL_BAND_STAT, .FDL_STAT, .FDL_NODE_STAT] s (s.fdlBad band b) := by
  obtain ⟨link, regs, frames, reports⟩ := s.badCounted_spec band
  obtain ⟨none_, whole⟩ | ⟨a, node, whole⟩ := s.fdlBad_cases band b
  · rw [whole, none_]
    exact ⟨frames, reports, fun _ h => (nomatch h), regs.mono (by simp)⟩
  · have asked := (s.badCounted band).askRobust_asked a
    rw [whole, node]
    refine ⟨(asked.cells.fld (by simp)).trans frames, asked.reports.trans reports, fun c same => ?_, (regs.mono (by simp)).trans (asked.cells.regsKept (by simp))⟩
    obtain rfl := Option.some.inj same
    exact ((s.badCounted band).askRobust_mode a).trans (by rw [regs.fld (by simp)])

end Sys2Proof.Machine
end

section
/-! SUPPORT. The Feeder link: POINTS frames, band A commands, and the statement on frames, nodes and curtailment. -/

namespace Sys2Proof.Machine

open Sys2Proof

variable {s t u : State} {a band ofs : Nat}

/-! ### POINTS frames (R377) -/

/-- A POINTS frame is accepted: its lengths fit, its COUNTER is new and its tag passes. -/
def State.PointsFit (s : State) (a : Nat) (r : NodeRec) (head p : List Byte) : Prop :=
  p.length = 8 + 8 + 12 * u8 p 4 ∧ 16 ≤ p.length ∧ (∀ old, (s.fdl.nodes.get a).inCtr = some old → old < u32 p 0)
    ∧ ∃ k ∈ s.slotKeys r.key 0 12, (gcmSeal k (pointsNonce 1 r.addr (u32 p 0)) (head ++ p.take (p.length - 8)) []).take 8 = p.drop (p.length - 8)

/-- The node of an accepted POINTS frame: its COUNTER and its stroke noted, its age 0, LIVE again. -/
def State.nodeHeard (s : State) (a ctr : Nat) : State :=
  let t := (s.onNode a fun x => { x with inCtr := some ctr, last := s.now }).setFld F.FDL_NODE_STAT_AGE a 0
  if s.fld F.FDL_NODE_STAT_STATE a = 2 then (t.setFld F.FDL_NODE_STAT_STATE a 1).fdlCode 0x0A84 a else t

theorem newer_iff (c : Option Nat) (n : Nat) : (match c with | some c => decide (c < n) | none => true) = true ↔ ∀ old, c = some old → old < n := by
  cases c <;> simp

theorem State.fdlPoints_accepts {r : NodeRec} {head p : List Byte} (gate : s.holds = true) (fits : s.PointsFit a r head p) :
    s.fdlPoints a r ofs head p = (s.nodeHeard a (u32 p 0)).each (List.range (u8 p 4)) fun k t => t.nodeEntry r ofs (slice p (8 + 12 * k) 12) := by
  obtain ⟨length, long, newer, k, listed, tag⟩ := fits
  have newer' := (newer_iff _ _).mpr newer
  have tagOk : ((s.slotKeys r.key 0 12).any fun k =>
      decide ((gcmSeal k (pointsNonce 1 r.addr (u32 p 0)) (head ++ p.take (p.length - 8)) []).take 8 = p.drop (p.length - 8))) = true :=
    List.any_eq_true.mpr ⟨k, listed, decide_eq_true tag⟩
  have shape : decide (16 ≤ p.length ∧ p.length - 8 = 8 + 12 * u8 p 4) = true := decide_eq_true ⟨long, by omega⟩
  unfold State.fdlPoints
  dsimp only
  rw [if_neg (by
    rw [gate, tagOk, shape, Bool.true_and, Bool.true_and, Bool.and_true]
    exact fun h => Bool.false_ne_true (((Bool.not_eq_true' _).mp h).symm.trans newer'))]
  unfold State.nodeHeard
  simp [State.onNode]

theorem State.fdlPoints_discards {r : NodeRec} {head p : List Byte} (unfit : ¬ s.PointsFit a r head p) :
    s.fdlPoints a r ofs head p = s := by
  refine if_pos ?_
  rw [Bool.not_eq_true', ← Bool.not_eq_true]
  intro all
  rw [Bool.and_eq_true, Bool.and_eq_true, Bool.and_eq_true, decide_eq_true_eq, List.any_eq_true] at all
  obtain ⟨⟨⟨-, k, listed, tag⟩, newer⟩, long, length⟩ := all
  exact unfit ⟨by omega, long, (newer_iff _ _).mp newer, k, listed, of_decide_eq_true tag⟩

theorem LinkOnly.pointsFit (h : LinkOnly s t) (counter : (t.fdl.nodes.get a).inCtr = (s.fdl.nodes.get a).inCtr) (r : NodeRec) (head p : List Byte) :
    t.PointsFit a r head p ↔ s.PointsFit a r head p := by
  unfold State.PointsFit
  rw [h.slotKeys, counter]

theorem State.nodeHeard_spec (s : State) (a ctr : Nat) : LinkOnly s (s.nodeHeard a ctr) ∧ RegsKept [.FDL_NODE_STAT, .FDL_STAT] s (s.nodeHeard a ctr)
    ∧ (s.nodeHeard a ctr).fdl.nodes = s.fdl.nodes.upd a (fun x => { x with inCtr := some ctr, last := s.now })
    ∧ (s.nodeHeard a ctr).fld F.FDL_NODE_STAT_AGE a = 0
    ∧ (s.nodeHeard a ctr).fld F.FDL_NODE_STAT_ERASED a = s.fld F.FDL_NODE_STAT_ERASED a
    ∧ (s.nodeHeard a ctr).fld F.FDL_NODE_STAT_TX_MODE a = s.fld F.FDL_NODE_STAT_TX_MODE a
    ∧ (s.fld F.FDL_NODE_STAT_STATE a = 2 → (s.nodeHeard a ctr).fld F.FDL_NODE_STAT_STATE a = 1
      ∧ (s.nodeHeard a ctr).reports = s.reports ++ [⟨0x0A84, a⟩]) := by
  have aged : LinkOnly s ((s.onNode a fun x => { x with inCtr := some ctr, last := s.now }).setFld F.FDL_NODE_STAT_AGE a 0) :=
    (linkOnly_onFdl s _).trans (linkOnly_setFld _ (by simp [fdlRegs]))
  unfold State.nodeHeard
  dsimp only
  split
  · exact ⟨aged.trans ((linkOnly_setFld _ (by simp [fdlRegs])).trans (linkOnly_fdlCode _ _ _)), by simp [State.fdlCode, State.onNode], rfl,
      by simp [State.fdlCode], by simp [State.fdlCode, State.onNode], by simp [State.fdlCode, State.onNode],
      fun _ => ⟨by simp [State.fdlCode, Fld.width], rfl⟩⟩
  · next live =>
    exact ⟨aged, by simp [State.onNode], rfl, by simp, by simp [State.onNode], by simp [State.onNode], fun lost => absurd lost live⟩

theorem State.nodeEntry_spec (s : State) (r : NodeRec) (ofs : Nat) (e : List Byte) :
    RegsKept [.PNT_STAT] s (s.nodeEntry r ofs e) ∧ (s.nodeEntry r ofs e).fdl = s.fdl := by
  have refused (v : State) (p : Nat) : (v.writerErr p).fdl = v.fdl := by
    unfold State.writerErr
    dsimp only
    split <;> rfl
  have written (v : State) (w : PointWrite) : (v.writePoint w).fdl = v.fdl := by
    unfold State.writePoint
    split
    · split
      · rfl
      · exact refused v _
    · exact refused v _
  unfold State.nodeEntry
  dsimp only
  split
  · exact ⟨RegsKept.refl _ s, rfl⟩
  · exact ⟨(s.writePoint_regs _).regsKept (by simp), written s _⟩

/-- The write that a good entry of a node's frame asks for. -/
def State.entryWrite (s : State) (r : NodeRec) (ofs : Nat) (e : List Byte) : PointWrite :=
  { id := r.base + u16 e 0, cls := 7, ident := 0, value := BitVec.ofNat 64 (uN e 4 8), qual := u8 e 3, time := s.now, ofs := ofs }

/-- An entry of a node's frame is the point that it names. -/
theorem State.nodeEntry_writes {r : NodeRec} {e : List Byte} {w : Schema} (named : u16 e 0 < r.objs) (schema : s.schema (r.base + u16 e 0) = some w)
    (writer : w.writer = 7) (typ : u8 e 2 = w.typ) (qual : u8 e 3 ≤ 4) :
    ((s.nodeEntry r ofs e).point (r.base + u16 e 0)).value = BitVec.ofNat 64 (uN e 4 8)
      ∧ ((s.nodeEntry r ofs e).point (r.base + u16 e 0)).qual = u8 e 3
      ∧ ((s.nodeEntry r ofs e).point (r.base + u16 e 0)).time = s.now ∧ ((s.nodeEntry r ofs e).point (r.base + u16 e 0)).ofs = ofs := by
  have good : decide (u8 e 2 ≠ s.pointType (r.base + u16 e 0) ∨ 4 < u8 e 3) = false := by
    rw [State.pointType, schema]
    simp [typ]
    exact qual
  have stores : s.nodeEntry r ofs e = s.storePoint (s.entryWrite r ofs e) := by
    unfold State.nodeEntry
    rw [if_neg (by omega)]
    dsimp only
    rw [good]
    exact State.writePoint_stores (w := s.entryWrite r ofs e) schema (by simp [State.entryWrite, writerOk, writer])
  obtain ⟨value, quality, -⟩ := s.storePoint_point (s.entryWrite r ofs e)
  rw [stores]
  exact ⟨value, quality, congrArg Point.time (Arr.get_upd_same _ _ _), congrArg Point.ofs (Arr.get_upd_same _ _ _)⟩

/-! ### Band A commands (R379, R380) -/

/-- The tag of a band A command passes. -/
def State.CommandTag (s : State) (head c : List Byte) : Prop :=
  ∃ k ∈ s.slotKeys (u16 s.fdlBody 2) 0 11,
    (gcmSeal k (leBytes 4 0 ++ leBytes 4 (u32 c 4) ++ leBytes 4 0) (head ++ c.take 16) []).take 16 = c.drop 16

/-- What an accepted command brings. -/
def State.commandTaken (s : State) (c : List Byte) : State :=
  let s := (s.setFld F.FDL_CURT_CTR_COUNTER 0 (u32 c 4)).onFdl fun x => { x with beaconAt := s.now, heard := true }
  match u8 c 0 with
  | 1 => s.setCurtail (some (u32 c 8)) (if u16 c 12 = 0 then none else some (s.heatsOfMin (u16 c 12)))
  | 2 => s.setCurtail none none
  | _ => s

section Command

variable {head c : List Byte}

theorem State.curtailCommand_foreign (other : c.length ≠ 32 ∨ (u8 c 1 ≠ 0 ∧ u8 c 1 ≠ u8 s.fdlBody 1)) : s.curtailCommand head c = s := if_pos other

theorem commandTag_iff : ((s.slotKeys (u16 s.fdlBody 2) 0 11).any fun k =>
    decide ((gcmSeal k (leBytes 4 0 ++ leBytes 4 (u32 c 4) ++ leBytes 4 0) (head ++ c.take 16) []).take 16 = c.drop 16)) = true
      ↔ s.CommandTag head c := by
  rw [List.any_eq_true]
  exact exists_congr fun k => and_congr_right fun _ => decide_eq_true_iff

theorem State.curtailCommand_refuses (own : ¬ (c.length ≠ 32 ∨ (u8 c 1 ≠ 0 ∧ u8 c 1 ≠ u8 s.fdlBody 1))) (gate : s.holds = true)
    (stale : u32 c 4 ≤ s.fld F.FDL_CURT_CTR_COUNTER ∨ ¬ s.CommandTag head c) : s.curtailCommand head c = s.fdlCode 0x0A01 := by
  unfold State.curtailCommand
  dsimp only
  rw [if_neg own, if_neg (by simp [gate])]
  refine if_pos ?_
  rw [Bool.or_eq_true, decide_eq_true_eq, Bool.not_eq_true', ← Bool.not_eq_true, commandTag_iff]
  exact stale.symm

theorem State.curtailCommand_accepts (own : ¬ (c.length ≠ 32 ∨ (u8 c 1 ≠ 0 ∧ u8 c 1 ≠ u8 s.fdlBody 1))) (gate : s.holds = true)
    (fresh : ¬ (u32 c 4 ≤ s.fld F.FDL_CURT_CTR_COUNTER ∨ ¬ s.CommandTag head c)) : s.curtailCommand head c = (s.commandTaken c).fdlCode 0x0A81 := by
  unfold State.curtailCommand
  dsimp only
  rw [if_neg own, if_neg (by simp [gate])]
  refine (if_neg ?_).trans rfl
  rw [Bool.or_eq_true, decide_eq_true_eq, Bool.not_eq_true', ← Bool.not_eq_true, commandTag_iff]
  exact fun h => fresh h.symm

end Command

theorem LinkOnly.commandTag (h : LinkOnly s t) (head c : List Byte) : t.CommandTag head c ↔ s.CommandTag head c := by
  unfold State.CommandTag
  rw [h.slotKeys, h.fdlBody]

theorem LinkOnly.heatsOfMin (h : LinkOnly s t) (n : Nat) : t.heatsOfMin n = s.heatsOfMin n := by rw [State.heatsOfMin, State.heatsOfMin, h.strokesIn]

theorem State.saveCurtail_spec (s : State) : CellsKept [(.FDL_CURT, 0)] s s.saveCurtail ∧ s.saveCurtail.flag F.FDL_CURT_ACTIVE = s.flag F.FDL_CURT_ACTIVE
    ∧ s.saveCurtail.fdl = { s.fdl with leftSaved := s.fdl.left } ∧ s.saveCurtail.reports = s.reports := by
  unfold State.saveCurtail
  dsimp only
  exact ⟨by simp, by simp, rfl, rfl⟩

theorem State.saveCurtail_minutes {h : Nat} (left : s.fdl.left = some h) (minute : 0 < s.heatsOfMin 1) :
    h ≤ s.saveCurtail.fld F.FDL_CURT_REMAIN * s.heatsOfMin 1 ∨ s.saveCurtail.fld F.FDL_CURT_REMAIN = 0x3FFF := by
  have shown : s.saveCurtail.fld F.FDL_CURT_REMAIN = min ((h + s.heatsOfMin 1 - 1) / max (s.heatsOfMin 1) 1) 0x3FFF := by
    simp only [State.saveCurtail, left]
    simp [Fld.width]
  rw [shown, max_eq_left (by omega)]
  generalize s.heatsOfMin 1 = m at minute
  by_cases small : (h + m - 1) / m ≤ 0x3FFF
  · rw [min_eq_left small]
    have := Nat.lt_div_mul_add (a := h + m - 1) minute
    exact .inl (by omega)
  · exact .inr (min_eq_right (by omega))

theorem State.setCurtail_spec (s : State) (limit left : Option Nat) : CellsKept [(.FDL_CURT, 0), (.FDL_CURT_LIMIT, 0)] s (s.setCurtail limit left)
    ∧ (s.setCurtail limit left).flag F.FDL_CURT_ACTIVE = limit.isSome
    ∧ (s.setCurtail limit left).fld F.FDL_CURT_LIMIT_LIMIT = limit.getD 0x7FFFFFFF % 2 ^ 32
    ∧ (s.setCurtail limit left).fdl = { s.fdl with left := left, cmdHeat := s.heat, leftSaved := left }
    ∧ (s.setCurtail limit left).reports = s.reports := by
  let t := (s.setFlag F.FDL_CURT_ACTIVE 0 limit.isSome).setFld F.FDL_CURT_LIMIT_LIMIT 0 (limit.getD 0x7FFFFFFF)
  obtain ⟨cells, active, fdl, reports⟩ := (t.onFdl fun x => { x with left := left, cmdHeat := s.heat }).saveCurtail_spec
  have whole : s.setCurtail limit left = (t.onFdl fun x => { x with left := left, cmdHeat := s.heat }).saveCurtail := rfl
  rw [whole]
  refine ⟨CellsKept.trans (by simp [t]) (cells.mono (by simp)), active.trans (by simp [t]), (cells.fld (by simp)).trans (by simp [t, Fld.width]), fdl.trans rfl, reports.trans rfl⟩

/-- An accepted command: its COUNTER, the beacon, and the limit that it sets or releases. -/
theorem State.commandTaken_spec (s : State) (c : List Byte) : (s.commandTaken c).reports = s.reports
    ∧ (s.commandTaken c).fld F.FDL_CURT_CTR_COUNTER = u32 c 4 ∧ (s.commandTaken c).fdl.beaconAt = s.now ∧ (s.commandTaken c).fdl.heard = true
    ∧ (u8 c 0 = 1 → (s.commandTaken c).flag F.FDL_CURT_ACTIVE = true ∧ (s.commandTaken c).fld F.FDL_CURT_LIMIT_LIMIT = u32 c 8
      ∧ (s.commandTaken c).fdl.left = (if u16 c 12 = 0 then none else some (s.heatsOfMin (u16 c 12))))
    ∧ (u8 c 0 = 2 → (s.commandTaken c).flag F.FDL_CURT_ACTIVE = false ∧ (s.commandTaken c).fld F.FDL_CURT_LIMIT_LIMIT = 0x7FFFFFFF
      ∧ (s.commandTaken c).fdl.left = none) := by
  obtain ⟨u, heard⟩ : ∃ u, u = (s.setFld F.FDL_CURT_CTR_COUNTER 0 (u32 c 4)).onFdl fun x => { x with beaconAt := s.now, heard := true } := ⟨_, rfl⟩
  have counter : u.fld F.FDL_CURT_CTR_COUNTER = u32 c 4 := by
    rw [heard]
    simp [Fld.width]
    exact u32_lt c 4
  have beacon : u.fdl.beaconAt = s.now ∧ u.fdl.heard = true ∧ u.reports = s.reports := by rw [heard]; exact ⟨rfl, rfl, rfl⟩
  have heats : u.heatsOfMin (u16 c 12) = s.heatsOfMin (u16 c 12) := by
    rw [heard]
    exact LinkOnly.heatsOfMin ((linkOnly_setFld s (by simp [fdlRegs])).trans (linkOnly_onFdl _ _)) _
  obtain ⟨at_, said, same⟩ := beacon
  unfold State.commandTaken
  dsimp only
  rw [← heard]
  have curtailed (limit left : Option Nat) : (u.setCurtail limit left).reports = s.reports ∧ (u.setCurtail limit left).fld F.FDL_CURT_CTR_COUNTER = u32 c 4
      ∧ (u.setCurtail limit left).fdl.beaconAt = s.now ∧ (u.setCurtail limit left).fdl.heard = true := by
    obtain ⟨cells, -, -, fdl, reports⟩ := u.setCurtail_spec limit left
    rw [fdl, reports, cells.fld (by simp)]
    exact ⟨same, counter, at_, said⟩
  split
  · next one =>
    obtain ⟨-, active, limit, fdl, -⟩ := u.setCurtail_spec (some (u32 c 8)) (if u16 c 12 = 0 then none else some (u.heatsOfMin (u16 c 12)))
    obtain ⟨reports, counter, at_, said⟩ := curtailed (some (u32 c 8)) (if u16 c 12 = 0 then none else some (u.heatsOfMin (u16 c 12)))
    exact ⟨reports, counter, at_, said, fun _ => ⟨active, limit.trans (Nat.mod_eq_of_lt (u32_lt c 8)), by rw [fdl, heats]⟩, fun two => by omega⟩
  · next two =>
    obtain ⟨-, active, limit, fdl, -⟩ := u.setCurtail_spec none none
    obtain ⟨reports, counter, at_, said⟩ := curtailed none none
    exact ⟨reports, counter, at_, said, fun one => by omega, fun _ => ⟨active, limit, by rw [fdl]⟩⟩
  · next notOne notTwo =>
    exact ⟨same, counter, at_, said, fun one => absurd one notOne, fun two => absurd two notTwo⟩

end Sys2Proof.Machine
end

section
/-! SUPPORT. The Feeder link: lost nodes, and the statement on its frames, nodes and curtailment. -/

namespace Sys2Proof.Machine

open Sys2Proof

variable {s t u : State} {a band ofs : Nat}

/-! ### Lost nodes (R378) -/

/-- A point that its writer no longer keeps good. -/
def Point.marked (p : Point) (q : Nat) : Point := { p with qual := q }

theorem State.markPoint_point (s : State) (p q : Nat) : (s.markPoint p q).point p = (s.point p).marked q := Arr.get_upd_same _ _ _

theorem State.markPoint_other {p q j : Nat} (other : j ≠ p) : (s.markPoint p q).point j = s.point j := Arr.get_upd_ne _ other _

/-- A mark takes one value, so it may be set again. -/
theorem State.eachMark_point {l : List Nat} {base q : Nat} (k : Nat) :
    (s.each l fun k u => u.markPoint (base + k) q).point (base + k) = if k ∈ l then (s.point (base + k)).marked q else s.point (base + k) := by
  induction l generalizing s with
  | nil => rfl
  | cons j l ih =>
    rw [State.each_cons, ih]
    by_cases same : k = j
    · rw [← same, State.markPoint_point, if_pos (List.mem_cons_self ..)]
      exact ite_self _
    · rw [State.markPoint_other (by omega)]
      simp [same]

/-- The objects of a node that the node writes. -/
def State.nodeInputs (s : State) (r : NodeRec) : List Nat :=
  (List.range r.objs).filter fun k => match s.schema (r.base + k) with | some c => decide (c.writer = 7) | none => false

theorem State.nodeInputs_mem {r : NodeRec} {k : Nat} {c : Schema} (in_ : k < r.objs) (schema : s.schema (r.base + k) = some c) (writer : c.writer = 7) :
    k ∈ s.nodeInputs r := by
  unfold State.nodeInputs
  rw [List.mem_filter, schema]
  exact ⟨List.mem_range.mpr in_, decide_eq_true writer⟩

theorem LinkOnly.nodeInputs (h : LinkOnly s t) (r : NodeRec) : t.nodeInputs r = s.nodeInputs r := by
  have same : t.schema = s.schema := funext h.schema
  unfold State.nodeInputs
  rw [same]

/-- A node is lost: LOST, reported, its inputs COMM_LOST. -/
def State.loseNode (s : State) (a : Nat) (r : NodeRec) : State :=
  let t := (s.setFld F.FDL_NODE_STAT_STATE a 2).fdlCode 0x0A04 a
  t.each (t.nodeInputs r) fun k u => u.markPoint (r.base + k) 6

theorem State.loseNode_spec (s : State) (a : Nat) (r : NodeRec) : (s.loseNode a r).fld F.FDL_NODE_STAT_STATE a = 2
    ∧ (s.loseNode a r).reports = s.reports ++ [⟨0x0A04, a⟩] ∧ CellsKept [(.FDL_NODE_STAT, a), (.FDL_STAT, 0)] s (s.loseNode a r)
    ∧ ∀ k c, k < r.objs → s.schema (r.base + k) = some c → c.writer = 7 → (s.loseNode a r).point (r.base + k) = (s.point (r.base + k)).marked 6 := by
  have lost : LinkOnly s ((s.setFld F.FDL_NODE_STAT_STATE a 2).fdlCode 0x0A04 a) := (linkOnly_setFld s (by simp [fdlRegs])).trans (linkOnly_fdlCode _ _ _)
  have state : ((s.setFld F.FDL_NODE_STAT_STATE a 2).fdlCode 0x0A04 a).fld F.FDL_NODE_STAT_STATE a = 2 := by simp [State.fdlCode, Fld.width]
  have cells : CellsKept [(.FDL_NODE_STAT, a), (.FDL_STAT, 0)] s ((s.setFld F.FDL_NODE_STAT_STATE a 2).fdlCode 0x0A04 a) := by simp [State.fdlCode]
  have reports : ((s.setFld F.FDL_NODE_STAT_STATE a 2).fdlCode 0x0A04 a).reports = s.reports ++ [⟨0x0A04, a⟩] := rfl
  unfold State.loseNode
  dsimp only
  rw [lost.nodeInputs]
  have points : ((s.setFld F.FDL_NODE_STAT_STATE a 2).fdlCode 0x0A04 a).point = s.point := rfl
  generalize (s.setFld F.FDL_NODE_STAT_STATE a 2).fdlCode 0x0A04 a = u at *
  have marks : CellsKept [] u (u.each (s.nodeInputs r) fun k u => u.markPoint (r.base + k) 6) :=
    cellsKept_each (CellsKept.refl _ u) fun _ _ _ => cellsKept_of_regs rfl
  have said : (u.each (s.nodeInputs r) fun k u => u.markPoint (r.base + k) 6).reports = u.reports := State.each_congr State.reports fun _ _ _ => rfl
  refine ⟨(marks.fld List.not_mem_nil).trans state, said.trans reports,
    cells.trans (marks.mono (List.nil_subset _)), fun k c in_ schema writer => ?_⟩
  rw [State.eachMark_point, if_pos (State.nodeInputs_mem in_ schema writer), points]

/-! ### A good frame, taken by its band and TYPE (R368, R377, R379) -/

section Good

variable {d : Decoded} {r : NodeRec} {head p c : List Byte}

theorem State.fdlReceive_points (hears : s.fdlHears band = true) (ok : BodyOk d.body) (notA : 1 ≤ band) (own : u8 d.body 0 = s.fld F.FDL_CFG_ADDR)
    (one : u8 d.body 0 ≠ 255) (typ : u8 d.body 2 % 8 = 2) (node : s.nodeOf band (u8 d.body 1) = some a) (rec : s.node a = some r) :
    s.fdlReceive band ofs d = ((s.fdlGood band d).takeMode a band (u8 d.body 2 / 8 % 4)).fdlPoints a r ofs (d.body.take 4) (slice d.body 4 (u8 d.body 3)) := by
  have addr : (s.fdlGood band d).fld F.FDL_CFG_ADDR = s.fld F.FDL_CFG_ADDR := (s.fdlGood_link band d).regs.fld (by simp [fdlRegs]) 0
  have counted : LinkOnly s ((s.bumpSat F.FDL_BAND_STAT_FRAMES_OK band).count 12 (39 + band)) :=
    (linkOnly_setFld s (f := F.FDL_BAND_STAT_FRAMES_OK) (by simp [fdlRegs])).trans (linkOnly_count _ _ _)
  have link := (s.fdlGood_link band d).trans ((s.fdlGood band d).takeMode_spec a band (u8 d.body 2 / 8 % 4)).1
  have record := (congrFun link.node a).trans rec
  rw [State.fdlReceive_good hears ok]
  dsimp only
  rw [counted.nodeOf, node, if_neg (by rw [addr]; exact fun h => h.1 own), if_neg (by omega)]
  dsimp only
  rw [if_neg one, if_neg (by omega), if_pos typ, record]

theorem State.fdlReceive_command (hears : s.fdlHears 0 = true) (ok : BodyOk d.body) (own : u8 d.body 0 = s.fld F.FDL_CFG_ADDR ∨ u8 d.body 0 = 255)
    (typ : u8 d.body 2 % 8 = 3) : s.fdlReceive 0 ofs d = (s.fdlGood 0 d).curtailCommand (d.body.take 4) (slice d.body 4 (u8 d.body 3)) := by
  have addr : (s.fdlGood 0 d).fld F.FDL_CFG_ADDR = s.fld F.FDL_CFG_ADDR := (s.fdlGood_link 0 d).regs.fld (by simp [fdlRegs]) 0
  rw [State.fdlReceive_good hears ok]
  dsimp only
  rw [if_neg (by rw [addr]; omega), if_pos rfl, if_pos typ]

/-- An accepted POINTS frame. -/
theorem State.fdlPoints_spec (gate : s.holds = true) (fits : s.PointsFit a r head p) :
    RegsKept [.FDL_NODE_STAT, .FDL_STAT, .PNT_STAT] s (s.fdlPoints a r ofs head p)
      ∧ (s.fdlPoints a r ofs head p).fld F.FDL_NODE_STAT_ERASED a = s.fld F.FDL_NODE_STAT_ERASED a
      ∧ (s.fdlPoints a r ofs head p).fld F.FDL_NODE_STAT_TX_MODE a = s.fld F.FDL_NODE_STAT_TX_MODE a
      ∧ ((s.fdlPoints a r ofs head p).fdl.nodes.get a).inCtr = some (u32 p 0) ∧ ((s.fdlPoints a r ofs head p).fdl.nodes.get a).last = s.now
      ∧ (s.fdlPoints a r ofs head p).fld F.FDL_NODE_STAT_AGE a = 0
      ∧ (s.fld F.FDL_NODE_STAT_STATE a = 2 → (s.fdlPoints a r ofs head p).fld F.FDL_NODE_STAT_STATE a = 1
        ∧ s.reports ++ [⟨0x0A84, a⟩] <+: (s.fdlPoints a r ofs head p).reports)
      ∧ (∀ w, u8 p 4 = 1 → u16 (slice p 8 12) 0 < r.objs → s.schema (r.base + u16 (slice p 8 12) 0) = some w → w.writer = 7 →
        u8 (slice p 8 12) 2 = w.typ → u8 (slice p 8 12) 3 ≤ 4 →
        ((s.fdlPoints a r ofs head p).point (r.base + u16 (slice p 8 12) 0)).value = BitVec.ofNat 64 (uN (slice p 8 12) 4 8)
          ∧ ((s.fdlPoints a r ofs head p).point (r.base + u16 (slice p 8 12) 0)).qual = u8 (slice p 8 12) 3
          ∧ ((s.fdlPoints a r ofs head p).point (r.base + u16 (slice p 8 12) 0)).time = s.now
          ∧ ((s.fdlPoints a r ofs head p).point (r.base + u16 (slice p 8 12) 0)).ofs = ofs) := by
  obtain ⟨link, regs, nodes, age, erased, tx, live⟩ := s.nodeHeard_spec a (u32 p 0)
  rw [State.fdlPoints_accepts gate fits]
  generalize s.nodeHeard a (u32 p 0) = u at *
  obtain ⟨t, entries⟩ : ∃ t, t = u.each (List.range (u8 p 4)) fun k t => t.nodeEntry r ofs (slice p (8 + 12 * k) 12) := ⟨_, rfl⟩
  have rest : RegsKept [.PNT_STAT] u t := entries ▸ regsKept_each (RegsKept.refl _ u) fun k _ v => (v.nodeEntry_spec r ofs _).1
  have fdl : t.fdl = u.fdl := entries ▸ State.each_congr State.fdl fun k _ v => (v.nodeEntry_spec r ofs _).2
  have reports : u.reports <+: t.reports :=
    entries ▸ State.each_induct (P := fun v => u.reports <+: v.reports) List.prefix_rfl fun k _ v before => before.trans (v.nodeEntry_keeps r ofs _).reports
  have own : (t.fdl.nodes.get a) = { s.fdl.nodes.get a with inCtr := some (u32 p 0), last := s.now } := by
    rw [fdl, nodes]
    exact Arr.get_upd_same _ _ _
  rw [← entries]
  refine ⟨(regs.mono (by simp)).trans (rest.mono (by simp)), (rest.fld (by simp) a).trans erased, (rest.fld (by simp) a).trans tx, by rw [own], by rw [own],
    (rest.fld (by simp) a).trans age, fun lost => ?_, fun w one named schema writer typ qual => ?_⟩
  · obtain ⟨state, said⟩ := live lost
    exact ⟨(rest.fld (by simp) a).trans state, said ▸ reports⟩
  · rw [entries, one]
    have := State.nodeEntry_writes (s := u) (ofs := ofs) named ((link.schema _).trans schema) writer typ qual
    rwa [link.now] at this

/-- A POINTS frame of a node: its counts and modes, and what it does where it is accepted. -/
theorem State.fdlReceive_points_spec (hears : s.fdlHears band = true) (ok : BodyOk d.body) (gate : s.holds = true) (notA : 1 ≤ band)
    (own : u8 d.body 0 = s.fld F.FDL_CFG_ADDR) (one : u8 d.body 0 ≠ 255) (typ : u8 d.body 2 % 8 = 2)
    (node : s.nodeOf band (u8 d.body 1) = some a) (rec : s.node a = some r) :
    let p := slice d.body 4 (u8 d.body 3)
    let e := slice p 8 12
    let c := r.base + u16 e 0
    let t := s.fdlReceive band ofs d
    t.fld F.FDL_BAND_STAT_FRAMES_OK band = min (s.fld F.FDL_BAND_STAT_FRAMES_OK band + 1) 65535
      ∧ t.fld F.FDL_NODE_STAT_ERASED a = 100 * d.erased / max d.total 1 % 256 ∧ t.fld F.FDL_NODE_STAT_TX_MODE a = s.boundMode band (u8 d.body 2 / 8 % 4) % 4
      ∧ (s.PointsFit a r (d.body.take 4) p →
          (t.fdl.nodes.get a).inCtr = some (u32 p 0) ∧ (t.fdl.nodes.get a).last = s.now ∧ t.fld F.FDL_NODE_STAT_AGE a = 0
            ∧ (s.fld F.FDL_NODE_STAT_STATE a = 2 → t.fld F.FDL_NODE_STAT_STATE a = 1 ∧ (⟨0x0A84, a⟩ : Report) ∈ t.reports.drop s.reports.length)
            ∧ (∀ w, u8 p 4 = 1 → u16 e 0 < r.objs → s.schema c = some w → w.writer = 7 → u8 e 2 = w.typ → u8 e 3 ≤ 4 →
              (t.point c).value = BitVec.ofNat 64 (uN e 4 8) ∧ (t.point c).qual = u8 e 3 ∧ (t.point c).time = s.now ∧ (t.point c).ofs = ofs))
      ∧ (¬ s.PointsFit a r (d.body.take 4) p →
          (t.fdl.nodes.get a).inCtr = (s.fdl.nodes.get a).inCtr ∧ t.pnt = s.pnt ∧ t.fld F.FDL_NODE_STAT_STATE a = s.fld F.FDL_NODE_STAT_STATE a) := by
  intro p e c t
  have good := s.fdlGood_link band d
  obtain ⟨-, frames, same⟩ := s.fdlGood_seen band d
  obtain ⟨erased, state, counter⟩ := State.fdlGood_node node
  obtain ⟨asked, modes, fdl, tx, erased', state'⟩ := (s.fdlGood band d).takeMode_spec a band (u8 d.body 2 / 8 % 4)
  have before : s.reports <+: ((s.fdlGood band d).takeMode a band (u8 d.body 2 / 8 % 4)).reports := same ▸ (State.takeMode_keeps _ a band _).reports
  have whole : t = ((s.fdlGood band d).takeMode a band (u8 d.body 2 / 8 % 4)).fdlPoints a r ofs (d.body.take 4) p :=
    State.fdlReceive_points hears ok notA own one typ node rec
  have frames' := (modes.fld (f := F.FDL_BAND_STAT_FRAMES_OK) (by simp) band).trans frames
  rw [erased] at erased'
  rw [good.boundMode] at tx
  rw [state] at state'
  rw [← fdl] at counter
  have link := good.trans asked
  clear_value t
  rw [whole]
  clear_value p
  generalize (s.fdlGood band d).takeMode a band (u8 d.body 2 / 8 % 4) = u at *
  have fit := link.pointsFit counter r (d.body.take 4) p
  by_cases fits : s.PointsFit a r (d.body.take 4) p
  · obtain ⟨regs, erased, tx', ctr, last, age, live, point⟩ := State.fdlPoints_spec (ofs := ofs) (link.holds.trans gate) (fit.mpr fits)
    refine ⟨(regs.fld (by simp) band).trans frames', erased.trans erased', tx'.trans tx, fun _ => ⟨ctr, last.trans link.now, age, fun lost => ?_,
      fun w one' named schema => ?_⟩, fun unfit => absurd fits unfit⟩
    · obtain ⟨alive, said⟩ := live (state'.trans lost)
      exact ⟨alive, mem_reports_drop_of_prefix (mem_reports_drop (t := u.report 0x0A84 a) before rfl) said⟩
    · rw [← link.now]
      exact point w one' named ((link.schema _).trans schema)
  · rw [State.fdlPoints_discards (fit.not.mpr fits)]
    exact ⟨frames', erased', tx, fun fit => absurd fit fits, fun _ => ⟨counter, link.pnt, state'⟩⟩

/-- A band A command after its frame was counted. -/
theorem State.fdlGood_command (s : State) (gate : s.holds = true) (head c : List Byte) :
    let t := (s.fdlGood 0 d).curtailCommand head c
    (c.length ≠ 32 ∨ (u8 c 1 ≠ 0 ∧ u8 c 1 ≠ u8 s.fdlBody 1) → t.reports = s.reports ∧ RegsKept [.FDL_BAND_STAT, .FDL_NODE_STAT] s t)
      ∧ (¬ (c.length ≠ 32 ∨ (u8 c 1 ≠ 0 ∧ u8 c 1 ≠ u8 s.fdlBody 1)) →
        (u32 c 4 ≤ s.fld F.FDL_CURT_CTR_COUNTER ∨ ¬ s.CommandTag head c →
          t.reports = s.reports ++ [⟨0x0A01, 0⟩] ∧ t.fld F.FDL_STAT_CODE = 0x0A01 ∧ RegsKept [.FDL_BAND_STAT, .FDL_STAT, .FDL_NODE_STAT] s t)
        ∧ (¬ (u32 c 4 ≤ s.fld F.FDL_CURT_CTR_COUNTER ∨ ¬ s.CommandTag head c) →
          t.reports = s.reports ++ [⟨0x0A81, 0⟩] ∧ t.fld F.FDL_CURT_CTR_COUNTER = u32 c 4 ∧ t.fdl.beaconAt = s.now ∧ t.fdl.heard = true
            ∧ (u8 c 0 = 1 → t.flag F.FDL_CURT_ACTIVE = true ∧ t.fld F.FDL_CURT_LIMIT_LIMIT = u32 c 8
              ∧ t.fdl.left = (if u16 c 12 = 0 then none else some (s.heatsOfMin (u16 c 12))))
            ∧ (u8 c 0 = 2 → t.flag F.FDL_CURT_ACTIVE = false ∧ t.fld F.FDL_CURT_LIMIT_LIMIT = 0x7FFFFFFF ∧ t.fdl.left = none))) := by
  intro t
  have link := s.fdlGood_link 0 d
  obtain ⟨seen, -, same⟩ := s.fdlGood_seen 0 d
  have limit := seen.fld (f := F.FDL_CURT_CTR_COUNTER) (by simp) 0
  have whole : t = (s.fdlGood 0 d).curtailCommand head c := rfl
  clear_value t
  rw [whole]
  generalize s.fdlGood 0 d = u at *
  have body := link.fdlBody
  have tag := link.commandTag head c
  refine ⟨fun other => ?_, fun mine => ⟨fun stale => ?_, fun fresh => ?_⟩⟩
  · rw [State.curtailCommand_foreign (by rwa [body])]
    exact ⟨same, seen⟩
  · rw [State.curtailCommand_refuses (by rwa [body]) (link.holds.trans gate) (by rwa [limit, tag])]
    exact ⟨congrArg (· ++ _) same, by simp [State.fdlCode, Fld.width], (seen.mono (by simp)).trans (by simp [State.fdlCode])⟩
  · obtain ⟨reports, counter, at_, heard, sets, releases⟩ := u.commandTaken_spec c
    rw [State.curtailCommand_accepts (by rwa [body]) (link.holds.trans gate) (by rwa [limit, tag]), ← same, ← link.now, ← link.heatsOfMin]
    exact ⟨congrArg (· ++ _) reports, by simp [State.fdlCode, counter], at_, heard, fun one => by simpa [State.fdlCode] using sets one,
      fun two => by simpa [State.fdlCode] using releases two⟩

end Good

/-! ### The statement -/

/-- Settles O53: a frame by the receiver's cases, its node and points, the commands of band A, silence and the end of a limit. -/
theorem feederFramesNodesAndCurtailment : Obligations.FeederFramesNodesAndCurtailment := by
  unfold Obligations.FeederFramesNodesAndCurtailment
  refine ⟨?deaf, ?bad, ?points, ?command, ?missing, ?lost, ?silent, ?expiry, ?save⟩
  case deaf =>
    intro s band ofs sym deaf
    rw [exec, execFdlFrameReceived, State.fdlReceive_deaf (fdlHears_false deaf), State.live, ite_self]
  case bad =>
    intro s band ofs sym runs on enabled silent b bad
    refine ⟨_, congrArg Host.Outcome.next (State.live_runs runs), ?_⟩
    rw [State.fdlReceive_bad (fdlHears_true on enabled silent) fun ok => ?_]
    · exact s.fdlBad_spec band b
    · obtain ⟨long, length, check⟩ := ok
      exact bad.elim (fun short => absurd short (not_lt.mpr long)) fun h => h.elim (fun h => h length) fun h => h check
  case points =>
    intro s band ofs a sym r runs on gate enabled silent notA d b long length check node rec own one typ p e c
    refine ⟨_, congrArg Host.Outcome.next (State.live_runs runs), ?_⟩
    obtain ⟨frames, erased, tx, accepted, discarded⟩ :=
      State.fdlReceive_points_spec (ofs := ofs) (fdlHears_true on enabled silent) ⟨long, length, check⟩ gate notA own one typ node rec
    refine ⟨frames, erased, tx, ?_⟩
    split
    · next fits => exact accepted fits
    · next unfit => exact discarded unfit
  case command =>
    intro s ofs sym runs on gate enabled silent b long length check own typ c
    refine ⟨_, congrArg Host.Outcome.next (State.live_runs runs), ?_⟩
    have taken : s.fdlReceive 0 ofs _ = (s.fdlGood 0 _).curtailCommand (b.take 4) c :=
      State.fdlReceive_command (fdlHears_true on enabled silent) ⟨long, length, check⟩ own typ
    rw [taken]
    obtain ⟨foreign, mine⟩ := State.fdlGood_command (d := fdlDecode (s.fld F.FDL_CFG_ERASE_THR) s.fdlInputs sym) s gate (b.take 4) c
    split
    · next other => exact foreign other
    · next own =>
      split
      · next stale => exact (mine own).1 stale
      · next fresh => exact (mine own).2 fresh
  case missing =>
    intro s a
    refine ⟨fun runs on node => ⟨_, congrArg Host.Outcome.next (State.live_runs runs), ?_⟩, fun off => ?_⟩
    · rw [if_pos (by rw [on, Option.isSome_iff_ne_none.mpr node]; rfl)]
      exact ⟨s.askRobust_mode a, (s.askRobust_asked a).cells⟩
    · rw [exec, execExpectedFrameMissing, if_neg ?_, State.live, ite_self]
      rw [Bool.and_eq_true, Option.isSome_iff_ne_none]
      exact fun ⟨on, node⟩ => off.elim (fun h => by simp [h] at on) node
  case lost =>
    intro s a r runs node gate live
    refine ⟨fun late => ⟨s.loseNode a r, (congrArg Host.Outcome.next (State.live_runs runs)).trans ?_, s.loseNode_spec a r⟩, fun early => ?_⟩
    · rw [node]
      exact congrArg Host.Outcome.next (if_pos ⟨gate, live, late⟩)
    · rw [exec, execNodeLost, node]
      dsimp only
      rw [if_neg (fun h => by omega), State.live, ite_self]
  case silent =>
    intro s runs on heard
    refine ⟨fun late => ⟨_, (congrArg Host.Outcome.next (State.live_runs runs)).trans (congrArg Host.Outcome.next (if_pos ⟨on, heard, late⟩)), ?_⟩, fun early => ?_⟩
    · exact ⟨by simp [State.fdlCode, Fld.width], by simp [State.fdlCode], rfl, by simp [State.fdlCode]⟩
    · rw [exec, execBandASilent, if_neg (fun h => by omega), State.live, ite_self]
  case expiry =>
    intro s runs gate active
    refine ⟨fun over_ other => ⟨_, (congrArg Host.Outcome.next (State.live_runs runs)).trans (congrArg Host.Outcome.next (if_pos ⟨gate, active, over_, other⟩)), ?_⟩,
      fun lasts => ?_⟩
    · obtain ⟨cells, off, limit, fdl, -⟩ := s.setCurtail_spec none none
      exact ⟨off, limit, by rw [State.onFdl, fdl], cells⟩
    · rw [exec, execCurtailExpiry, if_neg (fun h => lasts.elim (fun k => k h.2.2.1) h.2.2.2), State.live, ite_self]
  case save =>
    intro s
    refine ⟨fun runs fitted => ⟨s.saveCurtail, (congrArg Host.Outcome.next (State.live_runs runs)).trans (congrArg Host.Outcome.next (if_pos fitted)), ?_⟩, fun absent => ?_⟩
    · obtain ⟨cells, -, fdl, -⟩ := s.saveCurtail_spec
      exact ⟨by rw [fdl], cells, fun h left minute => State.saveCurtail_minutes left minute⟩
    · rw [exec, execCurtailSave, if_neg (by simp [absent]), State.live, ite_self]

end Sys2Proof.Machine
end

section
/-! SUPPORT. The Feeder link: the frames that it sends, and the statement on them. -/

namespace Sys2Proof.Machine

open Sys2Proof

variable {s t u : State} {a band : Nat} {f : FdlFrame}

/-! ### The frame that goes next (R374) -/

theorem nextFrame_tenon {q : List FdlFrame} (first : q.find? (fun f => decide (f.typ = 1)) = some f) : nextFrame q = some f := by
  rw [nextFrame, first, Option.some_or]

theorem nextFrame_points {rest : List FdlFrame} (points : ∀ g ∈ f :: rest, g.typ = 2) : nextFrame (f :: rest) = some f := by
  have none_ : (f :: rest).find? (fun f => decide (f.typ = 1)) = none :=
    List.find?_eq_none.mpr fun g m => by rw [points g m]; decide
  rw [nextFrame, none_, Option.none_or, List.head?_cons]

/-- The holder may start a frame in a band. -/
def State.mayStart (s : State) (band : Nat) : Bool :=
  s.fdlOn && s.holds && s.flag F.FDL_BAND_CFG_EN band && s.fdl.air.isNone && decide (band ≠ 0) && s.pausedSince band

/-- The mode in which a frame goes, and its CONTROL. -/
def State.sendMode (s : State) (band : Nat) (f : FdlFrame) : Nat :=
  match s.nodeOf band f.dst with | some a => s.boundMode band (s.fld F.FDL_NODE_STAT_TX_MODE a) | none => s.fld F.FDL_BAND_CFG_MODE_MAX band
def State.sendCtl (s : State) (band : Nat) (f : FdlFrame) : Nat :=
  f.typ + 8 * match s.nodeOf band f.dst with | some a => s.fld F.FDL_NODE_STAT_RX_MODE a | none => 0

/-- The device goes on air with tones. -/
def State.onAir (s : State) (band : Nat) (f : FdlFrame) (tones : List Nat) : State :=
  (((s.setFld F.FDL_STAT_TX 0 1).setFld F.FDL_STAT_TX_BAND 0 band).onFdl fun x => { x with
    air := some (band, f), airEnd := s.now + s.airTime tones.length }).send .feeder band (tones.map fun t => BitVec.ofNat 8 t)

/-- The frame on air has ended. -/
def State.offAir (s : State) (band : Nat) : State :=
  (s.setFld F.FDL_STAT_TX 0 0).onFdl fun x => { x with air := none, ended := x.ended.set band (some s.now) }

theorem State.mayStart_true (on : s.fdlOn = true) (gate : s.holds = true) (enabled : s.flag F.FDL_BAND_CFG_EN band = true) (idle : s.fdl.air = none)
    (notA : band ≠ 0) (paused : s.pausedSince band = true) : s.mayStart band = true := by
  unfold State.mayStart
  rw [on, gate, enabled, idle, paused]
  simp [notA]

theorem State.fdlStart_idle (h : s.mayStart band = false ∨ s.fdl.queues.get band = []) : s.fdlStart band = s := by
  unfold State.fdlStart
  obtain barred | empty := h
  · refine if_pos ?_
    rw [State.mayStart, ← Bool.not_eq_true] at barred
    simp only [Bool.or_eq_true, Bool.and_eq_true, Bool.not_eq_true', decide_eq_true_eq, Option.isNone_iff_eq_none, Option.isSome_iff_ne_none] at barred ⊢
    simp only [← Bool.not_eq_true]
    tauto
  · rw [empty]
    exact ite_self _

theorem State.not_barred (may : s.mayStart band = true) :
    ¬ (!s.fdlOn || !s.holds || !s.flag F.FDL_BAND_CFG_EN band || s.fdl.air.isSome || decide (band = 0) || !s.pausedSince band) = true := by
  rw [State.mayStart] at may
  simp only [Bool.and_eq_true, decide_eq_true_eq, Option.isNone_iff_eq_none] at may
  obtain ⟨⟨⟨⟨⟨on, gate⟩, enabled⟩, idle⟩, notA⟩, paused⟩ := may
  simp [on, gate, enabled, idle, notA, paused]

/-- A TENON frame goes on air as it waits. -/
theorem State.fdlStart_tenon (may : s.mayStart band = true) (next_ : nextFrame (s.fdl.queues.get band) = some f) (typ : f.typ = 1) (data : f.data ≠ []) :
    s.fdlStart band = (s.dropFrame band f).onAir band f (fdlTones (s.sendMode band f) (fdlFrame f.dst (s.fld F.FDL_CFG_ADDR) (s.sendCtl band f) f.data)) := by
  unfold State.fdlStart
  rw [if_neg (State.not_barred may), next_]
  dsimp only
  have other : ¬ f.typ = 2 := by omega
  rw [if_neg other, if_neg other, if_neg data]
  rfl

/-- A POINTS frame takes the next COUNTER and its tag. -/
theorem State.fdlStart_points {r : NodeRec} (may : s.mayStart band = true) (next_ : nextFrame (s.fdl.queues.get band) = some f) (typ : f.typ = 2)
    (node : s.nodeOf band f.dst = some a) (rec : s.node a = some r)
    (payload : (s.dropFrame band f).fdlCounted.pointsOut r f.dst (s.sendCtl band f) f.data ≠ []) :
    s.fdlStart band = (s.dropFrame band f).fdlCounted.onAir band f (fdlTones (s.sendMode band f)
      (fdlFrame f.dst (s.fld F.FDL_CFG_ADDR) (s.sendCtl band f) ((s.dropFrame band f).fdlCounted.pointsOut r f.dst (s.sendCtl band f) f.data))) := by
  have record : (s.nodeOf band f.dst).bind (s.dropFrame band f).fdlCounted.node = some r := by rw [node]; exact rec
  unfold State.fdlStart
  rw [if_neg (State.not_barred may), next_]
  dsimp only
  rw [if_pos typ, if_pos typ, record]
  exact if_neg payload

theorem State.onAir_spec (s : State) (band : Nat) (f : FdlFrame) (tones : List Nat) :
    (s.onAir band f tones).fdl = { s.fdl with air := some (band, f), airEnd := s.now + s.airTime tones.length }
      ∧ (s.onAir band f tones).flag F.FDL_STAT_TX = true ∧ (s.onAir band f tones).fld F.FDL_STAT_TX_BAND = band % 4
      ∧ (s.onAir band f tones).sent = s.sent ++ [⟨.feeder, band, tones.map fun x => BitVec.ofNat 8 x⟩]
      ∧ CellsKept [(.FDL_STAT, 0)] s (s.onAir band f tones) := by
  unfold State.onAir
  exact ⟨rfl, by simp [State.send, Fld.width], by simp [State.send, Fld.width], rfl, by simp⟩

/-- The payload of a POINTS frame under its node's key is not empty. -/
theorem State.pointsOut_ne_nil {r : NodeRec} {dst ctl : Nat} {data k : List Byte} (key : s.slotKey r.key 0 12 = some k) : s.pointsOut r dst ctl data ≠ [] := by
  unfold State.pointsOut
  rw [key]
  exact List.ne_nil_of_length_pos (by simp [length_leBytes])

/-! ### Outputs of a node (R377) -/

theorem length_flatMap_twelve {l : List Nat} {g : Nat → List Byte} (each : ∀ k, (g k).length = 12) : (l.flatMap g).length = 12 * l.length := by
  induction l with
  | nil => rfl
  | cons k l ih => rw [List.flatMap_cons, List.length_append, ih, each, List.length_cons]; omega

theorem State.nodeOutputs_length (s : State) (r : NodeRec) : 12 ∣ (s.nodeOutputs r).length := by
  unfold State.nodeOutputs
  rw [length_flatMap_twelve fun k => by simp [length_leBytes]]
  exact Nat.dvd_mul_right ..

/-- Outputs that fit one frame are one part. -/
theorem onePart {len per : Nat} (some_ : 0 < len) (fits : len ≤ per) : (len + per - 1) / per = 1 :=
  Nat.div_eq_of_lt_le (by omega) (by omega)

/-- A frame enters the queue of its band while that has room. -/
def State.enqueue (s : State) (band : Nat) (f : FdlFrame) : State :=
  s.onFdl fun x => if (x.queues.get band).length < 16 then { x with queues := x.queues.set band ((x.queues.get band) ++ [f]) } else x

theorem State.queueOutputs_eq {r : NodeRec} (rec : s.node a = some r) :
    s.queueOutputs a =
      (let all := s.nodeOutputs r
      let per := max ((s.fld F.FDL_BAND_CFG_MAX_LEN r.band - 16) / 12) 1 * 12
      let parts := (List.range ((all.length + per - 1) / per)).map fun k => slice all (k * per) per
      let t := parts.foldl (fun t e => t.enqueue r.band ⟨2, r.addr, 0, e, s.now⟩) s
      t.onNode a fun x => { x with sent := t.now, shown := all }) := by
  unfold State.queueOutputs
  rw [rec]
  rfl

theorem enqueue_same (l : List (List Byte)) (s : State) (mk : List Byte → FdlFrame) :
    (l.foldl (fun t e => t.enqueue band (mk e)) s).regs = s.regs ∧ (l.foldl (fun t e => t.enqueue band (mk e)) s).now = s.now := by
  induction l generalizing s with
  | nil => exact ⟨rfl, rfl⟩
  | cons e l ih => exact ih (s.enqueue band (mk e))

theorem State.queueOutputs_spec {r : NodeRec} (rec : s.node a = some r) : ((s.queueOutputs a).fdl.nodes.get a).sent = s.now
    ∧ ((s.queueOutputs a).fdl.nodes.get a).shown = s.nodeOutputs r ∧ RegsKept [] s (s.queueOutputs a)
    ∧ (s.nodeOutputs r ≠ [] → 28 ≤ s.fld F.FDL_BAND_CFG_MAX_LEN r.band → (s.nodeOutputs r).length + 16 ≤ s.fld F.FDL_BAND_CFG_MAX_LEN r.band →
      (s.fdl.queues.get r.band).length < 16 →
      (s.queueOutputs a).fdl.queues.get r.band = s.fdl.queues.get r.band ++ [⟨2, r.addr, 0, s.nodeOutputs r, s.now⟩]) := by
  rw [State.queueOutputs_eq rec]
  refine ⟨(congrArg FdlNode.sent (Arr.get_upd_same _ _ _)).trans (enqueue_same _ s _).2, congrArg FdlNode.shown (Arr.get_upd_same _ _ _),
    regsKept_of_regs (enqueue_same _ s _).1, fun some_ frame fits room => ?_⟩
  obtain ⟨n, length⟩ := s.nodeOutputs_length r
  have positive : 0 < (s.nodeOutputs r).length := List.length_pos_iff.mpr some_
  have within : (s.nodeOutputs r).length ≤ max ((s.fld F.FDL_BAND_CFG_MAX_LEN r.band - 16) / 12) 1 * 12 := by
    rw [max_eq_left (by omega)]
    omega
  have part : slice (s.nodeOutputs r) (0 * (max ((s.fld F.FDL_BAND_CFG_MAX_LEN r.band - 16) / 12) 1 * 12))
      (max ((s.fld F.FDL_BAND_CFG_MAX_LEN r.band - 16) / 12) 1 * 12) = s.nodeOutputs r := by
    rw [slice, Nat.zero_mul, List.drop_zero, List.take_of_length_le within]
  dsimp only
  rw [onePart positive within, List.range_one, List.map_singleton, part]
  change ((if (s.fdl.queues.get r.band).length < 16 then
    { s.fdl with queues := s.fdl.queues.set r.band (s.fdl.queues.get r.band ++ [⟨2, r.addr, 0, s.nodeOutputs r, s.now⟩]) } else s.fdl).queues.get r.band) = _
  rw [if_pos room]
  exact Arr.get_set_same _ _ _

/-! ### The statement -/

/-- Settles O54: a start by the conditions that bar it and by the TYPE of the frame that goes next, its end, a frame that waited too long, and a
refresh that fits one frame. -/
theorem feederFramesAreSentInOrder : Obligations.FeederFramesAreSentInOrder := by
  unfold Obligations.FeederFramesAreSentInOrder
  refine ⟨?barred, ?tenon, ?points, ?ends, ?idle, ?timeout, ?refresh⟩
  case barred =>
    intro s band barred
    have none_ : s.fdlStart band = s := by
      refine State.fdlStart_idle ?_
      rw [State.mayStart, ← Bool.not_eq_true]
      simp only [Bool.and_eq_true, decide_eq_true_eq, Option.isNone_iff_eq_none]
      simp only [← Bool.not_eq_true] at barred
      tauto
    rw [exec, execFdlTxStart, none_, State.live, ite_self]
  case tenon =>
    intro s band f runs on gate enabled idle notA paused first data node tones
    have typ : f.typ = 1 := by simpa using List.find?_some first
    have may := State.mayStart_true on gate enabled idle notA paused
    refine ⟨_, congrArg Host.Outcome.next (State.live_runs runs), ?_⟩
    rw [State.fdlStart_tenon may (nextFrame_tenon first) typ data]
    have mine : tones = fdlTones (s.sendMode band f) (fdlFrame f.dst (s.fld F.FDL_CFG_ADDR) (s.sendCtl band f) f.data) := by
      rw [State.sendCtl, typ]
      rfl
    rw [← mine]
    obtain ⟨fdl, tx, txBand, sent, cells⟩ := (s.dropFrame band f).onAir_spec band f tones
    exact ⟨fdl, tx, txBand, sent, cells⟩
  case points =>
    intro s band a f rest r k runs on gate enabled idle notA paused queue points node rec key
    have may := State.mayStart_true on gate enabled idle notA paused
    have next_ : nextFrame (s.fdl.queues.get band) = some f := by rw [queue]; exact nextFrame_points points
    have counted : LinkOnly s (s.dropFrame band f).fdlCounted := (linkOnly_onFdl s _).trans (linkOnly_onFdl _ _)
    refine ⟨_, congrArg Host.Outcome.next (State.live_runs runs), ?_⟩
    rw [State.fdlStart_points may next_ (points f (List.mem_cons_self ..)) node rec (State.pointsOut_ne_nil ((counted.slotKey _ _ _).trans key))]
    obtain ⟨fdl, tx, -, sent, -⟩ := (s.dropFrame band f).fdlCounted.onAir_spec band f (fdlTones (s.sendMode band f)
      (fdlFrame f.dst (s.fld F.FDL_CFG_ADDR) (s.sendCtl band f) ((s.dropFrame band f).fdlCounted.pointsOut r f.dst (s.sendCtl band f) f.data)))
    refine ⟨congrArg Fdl.counter fdl, (congrArg (fun x => x.queues.get band) fdl).trans ?_, congrArg Fdl.air fdl, tx, by rw [sent]; exact List.length_append,
      congrArg Fdl.saved fdl⟩
    refine (Arr.get_set_same _ _ _).trans ?_
    rw [queue, List.erase_cons_head]
  case ends =>
    intro s band f runs air
    refine ⟨fun late => ⟨s.offAir band, (congrArg Host.Outcome.next (State.live_runs runs)).trans ?_, by simp [State.offAir], rfl, by simp [State.offAir]⟩,
      fun early => ?_⟩
    · rw [air]
      exact congrArg Host.Outcome.next (if_pos late)
    · rw [exec, execFdlTxEnd, air]
      dsimp only
      rw [if_neg (by omega), State.live, ite_self]
  case idle =>
    intro s idle
    rw [exec, execFdlTxEnd, idle]
    exact congrArg Host.Outcome.next (ite_self _)
  case timeout =>
    intro s band f runs next_
    refine ⟨fun early => ?_, fun late => ⟨(s.dropFrame band f).fdlCode 0x0A03 band, (congrArg Host.Outcome.next (State.live_runs runs)).trans ?_, rfl, rfl,
      by simp [State.fdlCode, State.dropFrame]⟩⟩
    · rw [exec, execAccessTimeout, next_]
      dsimp only
      rw [if_neg (by omega), State.live, ite_self]
    · rw [next_]
      exact congrArg Host.Outcome.next (if_pos late)
  case refresh =>
    intro s a r runs on gate rec
    refine ⟨fun due => ⟨s.queueOutputs a,
      (congrArg Host.Outcome.next (State.live_runs runs)).trans (by rw [rec]; exact congrArg Host.Outcome.next (if_pos ⟨on, gate, due⟩)),
      State.queueOutputs_spec rec⟩, fun early => ?_⟩
    rw [exec, execNodeRefresh, rec]
    dsimp only
    rw [if_neg (fun h => by omega), State.live, ite_self]

end Sys2Proof.Machine
end

section
/-! SUPPORT. Failed islands, region limits, and the statement on them. -/

namespace Sys2Proof.Machine

open Sys2Proof

variable {s t u : State} {k p v : Nat} {q : Quantity}

/-! ### A failed island (R38, R39) -/

theorem State.up_eq_true : s.up k = true ↔ bitOf (s.fld F.SYS_REGION_STAT_FAILED) k = false := by simp [State.up]

theorem State.up_eq_false : s.up k = false ↔ bitOf (s.fld F.SYS_REGION_STAT_FAILED) k = true := by simp [State.up]

theorem State.up_congr (h : t.fld F.SYS_REGION_STAT_FAILED = s.fld F.SYS_REGION_STAT_FAILED) (k : Nat) : t.up k = s.up k := by
  rw [State.up, State.up, h]

theorem State.gatesAllOff_regs (s : State) : s.gatesAllOff.regs = s.regs := State.each_congr State.regs fun _ _ _ => rfl

/-- The registers that the own actions of a failing island write. -/
def actRegs : List Reg := .ASY_STAT :: testRegs

/-- A failing island takes its own actions after the device is marked and has let go of the peg. -/
theorem State.failIsland_acts (runs : s.up k = true) : RegsKept actRegs (s.islandDown k) (s.failIsland k) := by
  have off (u : State) : RegsKept actRegs u u.safeOff := (testsOnly_safeOff u).1.mono (by simp [actRegs])
  have down : (let t := s.setFld F.SYS_REGION_STAT_FAILED 0 (withBit (s.fld F.SYS_REGION_STAT_FAILED) k true)
      let t := if k < 8 then t.pegRelease 1 else t
      if k < 8 then t.syncLost 3 else t) = s.islandDown k := by
    unfold State.islandDown
    dsimp only
    split <;> rfl
  unfold State.failIsland
  rw [if_neg (by simp [State.up_eq_true.mp runs])]
  dsimp only at down ⊢
  rw [down]
  generalize s.islandDown k = u
  split
  · exact (regsKept_of_regs u.gatesAllOff_regs).trans (off _)
  · exact regsKept_of_regs rfl
  · exact regsKept_of_regs rfl
  · exact (regsKept_of_regs u.gatesAllOff_regs).trans (off _)
  · simp [actRegs]
  · exact off u
  · exact RegsKept.refl _ u

theorem State.failIsland_regs (s : State) (k : Nat) : RegsKept (downRegs ++ actRegs) s (s.failIsland k) := by
  cases runs : s.up k with
  | true => exact ((s.islandDown_regs k).mono (by simp)).trans ((State.failIsland_acts runs).mono (by simp))
  | false =>
    have same : s.failIsland k = s := if_pos (State.up_eq_false.mp runs)
    rw [same]
    exact RegsKept.refl _ s

theorem State.failIsland_fails (s : State) (small : k < 9) : (s.failIsland k).up k = false := by
  cases runs : s.up k with
  | true =>
    rw [State.up_eq_false, (State.failIsland_acts runs).fld (by decide)]
    exact s.islandDown_failed small
  | false =>
    have same : s.failIsland k = s := if_pos (State.up_eq_false.mp runs)
    rw [same, runs]

/-! ### A mismatch (R37, R38) -/

/-- The first fault is held. -/
def State.faultNoted (s : State) (k p : Nat) (q : Quantity) : State :=
  if s.fld F.SYS_REGION_FAULT_CODE = 0 then
    ((s.setFld F.SYS_REGION_FAULT_CODE 0 (codeOf q)).setFld F.SYS_REGION_FAULT_ISLAND 0 k).setFld F.SYS_REGION_FAULT_PEER 0 p
  else s

theorem State.regionFault_eq (runs : s.up k = true) : s.regionFault k p q = ((s.faultNoted k p q).report (codeOf q) k).failIsland k :=
  if_neg (by simp [runs])

theorem codeOf_lt (q : Quantity) : codeOf q < 2 ^ 16 := by cases q <;> decide

theorem State.regionFault_spec (runs : s.up k = true) (small : k < 9) (peer : p < 9) : (s.regionFault k p q).up k = false
    ∧ (s.fld F.SYS_REGION_FAULT_CODE = 0 → (s.regionFault k p q).fld F.SYS_REGION_FAULT_CODE = codeOf q
      ∧ (s.regionFault k p q).fld F.SYS_REGION_FAULT_ISLAND = k ∧ (s.regionFault k p q).fld F.SYS_REGION_FAULT_PEER = p)
    ∧ (s.fld F.SYS_REGION_FAULT_CODE ≠ 0 → (s.regionFault k p q).reg .SYS_REGION_FAULT = s.reg .SYS_REGION_FAULT) := by
  have kept := ((s.faultNoted k p q).report (codeOf q) k).failIsland_regs k
  have held (f : Fld) (fault : f.reg = .SYS_REGION_FAULT) : (s.regionFault k p q).fld f = (s.faultNoted k p q).fld f := by
    rw [State.regionFault_eq runs]
    exact kept.fld (by rw [fault]; decide) 0
  refine ⟨by rw [State.regionFault_eq runs]; exact State.failIsland_fails _ small, fun first => ?_, fun later => ?_⟩
  · have noted : s.faultNoted k p q = _ := if_pos first
    rw [held _ rfl, held _ rfl, held _ rfl, noted]
    have code := codeOf_lt q
    simp [Fld.width]
    omega
  · have same : s.faultNoted k p q = s := if_neg later
    rw [State.regionFault_eq runs, kept _ _ (by decide), same]
    rfl

/-- The island that a fault chooses and its peer are the two that were compared. -/
theorem freqFault_pair {a b : Nat} {dev : List Int} (found : freqFault a b dev = some (k, p)) : (k, p) = (a, b) ∨ (k, p) = (b, a) := by
  unfold freqFault at found
  dsimp only at found
  split at found
  · cases found
  · split at found
    · next zero =>
      have chosen := Option.some.inj found
      by_cases first : a = 0
      · rw [if_pos first] at chosen
        split at chosen
        · exact .inl (by rw [← chosen, first])
        · exact .inr (by rw [← chosen, first])
      · have second : b = 0 := zero.resolve_left first
        rw [if_neg first] at chosen
        split at chosen
        · exact .inr (by rw [← chosen, second])
        · exact .inl (by rw [← chosen, second])
    · have chosen := Option.some.inj found
      split at chosen
      · exact .inl chosen.symm
      · exact .inr chosen.symm

theorem supplyFault_pair {a b : Nat} {volts : List (Nat × Nat)} (found : supplyFault a b volts = some (k, p)) : (k, p) = (a, b) ∨ (k, p) = (b, a) := by
  unfold supplyFault at found
  dsimp only at found
  split at found
  · split at found
    · have chosen := Option.some.inj found
      split at chosen
      · exact .inl chosen.symm
      · exact .inr chosen.symm
    · cases found
  · cases found

theorem tempFault_pair {a b : Nat} {kelvin : List (Int × Int)} (found : tempFault a b kelvin = some (k, p)) : (k, p) = (a, b) ∨ (k, p) = (b, a) := by
  unfold tempFault at found
  split at found
  · split at found
    · have chosen := Option.some.inj found
      split at chosen
      · exact .inl chosen.symm
      · exact .inr chosen.symm
    · cases found
  · cases found

theorem Measured.fault_pair {a b : Nat} {m : Measured} (found : Measured.fault a b m = some (q, k, p)) : (k, p) = (a, b) ∨ (k, p) = (b, a) := by
  cases m <;> obtain ⟨c, found, chosen⟩ := Option.map_eq_some_iff.mp found <;> cases chosen
  · exact freqFault_pair found
  · exact supplyFault_pair found
  · exact tempFault_pair found

theorem adjacent_lt {a b : Nat} (near : adjacent a b = true) : a < 9 ∧ b < 9 := by
  have := of_decide_eq_true near
  omega

theorem Measured.fault_lt {a b : Nat} {m : Measured} (near : adjacent a b = true) (found : Measured.fault a b m = some (q, k, p)) : k < 9 ∧ p < 9 := by
  have small := adjacent_lt near
  obtain pair | pair := Measured.fault_pair found <;> cases pair <;> omega

/-! ### Warnings (R36) -/

theorem State.showWarned_spec (s : State) (small : k < 9) : bitOf ((s.showWarned k).fld F.SYS_REGION_STAT_WARN) k = s.sys.warned.any (fun c => decide (c.1 = k))
    ∧ (s.showWarned k).fld F.SYS_REGION_STAT_FAILED = s.fld F.SYS_REGION_STAT_FAILED ∧ RegsKept [.SYS_REGION_STAT] s (s.showWarned k) := by
  unfold State.showWarned
  refine ⟨?_, by simp, by simp⟩
  simpa using s.bitOf_fld_withBit F.SYS_REGION_STAT_WARN 0 _ small

theorem State.regionWarn_none (h : adjacent k p = false ∨ v ≤ regionLevel q ∨ (k, p, q) ∈ s.sys.warned) : s.regionWarn k p q v = s := if_pos h

theorem State.regionWarnEnd_none (h : 9 * regionLevel q < 10 * v ∨ (k, p, q) ∉ s.sys.warned) : s.regionWarnEnd k p q v = s := if_pos h

theorem State.regionWarn_spec (near : adjacent k p = true) (high : regionLevel q < v) (fresh : (k, p, q) ∉ s.sys.warned) :
    bitOf ((s.regionWarn k p q v).fld F.SYS_REGION_STAT_WARN) k = true ∧ (k, p, q) ∈ (s.regionWarn k p q v).sys.warned
      ∧ (s.regionWarn k p q v).reports = s.reports ++ [⟨0x0082, k⟩] ∧ RegsKept [.SYS_REGION_STAT] s (s.regionWarn k p q v)
      ∧ MemKept s (s.regionWarn k p q v) := by
  have warns : s.regionWarn k p q v
      = (((s.onSys fun y => { y with warned := y.warned ++ [(k, p, q)] }).showWarned k).report 0x0082 k).count 0 115 :=
    if_neg (by rw [near]; simp only [Bool.true_eq_false, false_or]; exact not_or.mpr ⟨by omega, fresh⟩)
  obtain ⟨bit, -, regs⟩ := (s.onSys fun y => { y with warned := y.warned ++ [(k, p, q)] }).showWarned_spec (adjacent_lt near).1
  rw [warns]
  exact ⟨bit.trans (List.any_eq_true.mpr ⟨(k, p, q), List.mem_append_right _ (List.mem_singleton_self _), decide_eq_true rfl⟩),
    List.mem_append_right _ (List.mem_singleton_self _), rfl, regs, memKept_of_mem rfl⟩

theorem State.regionWarnEnd_spec (small : k < 9) (low : 10 * v ≤ 9 * regionLevel q) (warned : (k, p, q) ∈ s.sys.warned) :
    (bitOf ((s.regionWarnEnd k p q v).fld F.SYS_REGION_STAT_WARN) k = true ↔ ∃ c ∈ s.sys.warned, c ≠ (k, p, q) ∧ c.1 = k)
      ∧ (k, p, q) ∉ (s.regionWarnEnd k p q v).sys.warned ∧ (s.regionWarnEnd k p q v).reports = s.reports
      ∧ RegsKept [.SYS_REGION_STAT] s (s.regionWarnEnd k p q v) ∧ MemKept s (s.regionWarnEnd k p q v) := by
  have ends : s.regionWarnEnd k p q v = (s.onSys fun y => { y with warned := y.warned.filter fun c => decide (c ≠ (k, p, q)) }).showWarned k :=
    if_neg (not_or.mpr ⟨by omega, not_not_intro warned⟩)
  obtain ⟨bit, -, regs⟩ := (s.onSys fun y => { y with warned := y.warned.filter fun c => decide (c ≠ (k, p, q)) }).showWarned_spec small
  rw [ends]
  refine ⟨?_, fun still => ?_, rfl, regs, memKept_of_mem rfl⟩
  · rw [bit, List.any_eq_true]
    simp [State.onSys, and_assoc]
  · exact of_decide_eq_true (List.mem_filter.mp still).2 rfl

/-- A warning and its end leave the failed islands and the skews in a row. -/
theorem State.regionWarn_seen (s : State) (small : k < 9) : (s.regionWarn k p q v).fld F.SYS_REGION_STAT_FAILED = s.fld F.SYS_REGION_STAT_FAILED
    ∧ (s.regionWarn k p q v).sys.skewRun = s.sys.skewRun := by
  unfold State.regionWarn
  split
  · exact ⟨rfl, rfl⟩
  · exact ⟨(State.showWarned_spec _ small).2.1, rfl⟩

theorem State.regionWarnEnd_seen (s : State) (small : k < 9) :
    (s.regionWarnEnd k p q v).fld F.SYS_REGION_STAT_FAILED = s.fld F.SYS_REGION_STAT_FAILED
      ∧ (s.regionWarnEnd k p q v).sys.skewRun = s.sys.skewRun := by
  unfold State.regionWarnEnd
  split
  · exact ⟨rfl, rfl⟩
  · exact ⟨(State.showWarned_spec _ small).2.1, rfl⟩

/-! ### The skew (R36, R37) -/

/-- The strokes in a row over the trip threshold after a marker. -/
def State.skewCounted (s : State) (k v : Nat) : State :=
  let s := (s.regionWarn k 0 .skew (1000 * v)).regionWarnEnd k 0 .skew (1000 * v)
  s.onSys fun y => { y with skewRun := y.skewRun.set k (if regionTrip .skew < 1000 * v then s.sys.skewRun.get k + 1 else 0) }

theorem State.skewCounted_spec (s : State) (small : k < 9) (v : Nat) : (s.skewCounted k v).up k = s.up k
    ∧ (s.skewCounted k v).sys.skewRun.get k = if 40 < v then s.sys.skewRun.get k + 1 else 0 := by
  obtain ⟨failed, run⟩ := s.regionWarn_seen (p := 0) (q := .skew) (v := 1000 * v) small
  obtain ⟨failed', run'⟩ := (s.regionWarn k 0 .skew (1000 * v)).regionWarnEnd_seen (p := 0) (q := .skew) (v := 1000 * v) small
  refine ⟨State.up_congr (failed'.trans failed) k, (Arr.get_set_same _ _ _).trans ?_⟩
  rw [run', run]
  exact if_congr (show 40000 < 1000 * v ↔ 40 < v by omega) rfl rfl

theorem State.skewOf_eq (s : State) (k v : Nat) : s.skewOf k v
    = if (s.skewCounted k v).sys.skewRun.get k = 3 then (s.skewCounted k v).regionFault k 0 .skew else s.skewCounted k v := by
  have counted : (s.skewCounted k v).sys.skewRun.get k = _ := Arr.get_set_same _ _ _
  rw [counted]
  rfl

/-! ### The statement -/

/-- Settles O11: a warning and its end by their conditions, a mismatch by the islands that the measured values choose, and the skew by the count
of strokes in a row. -/
theorem regionLimitsWarnAndFailIslands : Obligations.RegionLimitsWarnAndFailIslands := by
  unfold Obligations.RegionLimitsWarnAndFailIslands
  refine ⟨?warn, ?quiet, ?ends, ?high, ?mismatch, ?skew⟩
  case warn =>
    intro s k p q v runs near notSkew high fresh
    exact ⟨_, congrArg Host.Outcome.next ((State.live_runs runs).trans (if_neg notSkew)), State.regionWarn_spec near high fresh⟩
  case quiet =>
    intro s k p q v quiet
    rw [exec, execRegionWarn, State.regionWarn_none (.inr quiet.symm), ite_self, State.live, ite_self]
  case ends =>
    intro s k p q v runs small notSkew low warned
    exact ⟨_, congrArg Host.Outcome.next ((State.live_runs runs).trans (if_neg notSkew)), State.regionWarnEnd_spec small low warned⟩
  case high =>
    intro s k p q v high
    rw [exec, execRegionWarnEnd, State.regionWarnEnd_none (.inl high), ite_self, State.live, ite_self]
  case mismatch =>
    intro s a b k p m q runs near found up
    obtain ⟨small, peer⟩ := Measured.fault_lt near found
    have faults : s.regionMismatch a b m = s.regionFault k p q := by
      unfold State.regionMismatch
      rw [found]
      exact if_pos near
    refine ⟨_, congrArg Host.Outcome.next ((State.live_runs runs).trans faults), State.regionFault_spec up small peer⟩
  case skew =>
    intro s k v some_ small up
    obtain ⟨same, run⟩ := s.skewCounted_spec small v
    rw [s.skewOf_eq k v]
    refine ⟨fun two late => ?_, fun early => ?_⟩
    · rw [if_pos late] at run
      rw [if_pos (by rw [run, two])]
      exact (State.regionFault_spec (same.trans up) small (by decide)).1
    · rw [if_neg (by omega)] at run
      rw [if_neg (by omega)]
      exact ⟨same.trans up, run⟩

end Sys2Proof.Machine
end

section
/-! SUPPORT. Overruns of work, and the statement on their count. -/

namespace Sys2Proof.Machine

open Sys2Proof

variable {s t u : State} {w : Work}

/-! ### What leaves the counts of overruns -/

/-- A change that leaves the counts of overruns and their summary. -/
structure SumKept (s t : State) : Prop where
  overruns : t.sys.overruns = s.sys.overruns
  sum : t.reg .SYS_OVR_SUM = s.reg .SYS_OVR_SUM

theorem SumKept.refl (s : State) : SumKept s s := ⟨rfl, rfl⟩

theorem SumKept.trans (h : SumKept s u) (k : SumKept u t) : SumKept s t := ⟨k.overruns.trans h.overruns, k.sum.trans h.sum⟩

theorem sumKept_of_regs {rs : List Reg} (sys : t.sys = s.sys) (regs : RegsKept rs s t) (other : .SYS_OVR_SUM ∉ rs) : SumKept s t :=
  ⟨by rw [sys], regs _ _ other⟩

theorem sumKept_same (sys : t.sys = s.sys) (regs : t.regs = s.regs) : SumKept s t := ⟨by rw [sys], by rw [State.reg, State.reg, regs]⟩

@[simp] theorem sumKept_self : SumKept s s := SumKept.refl s

@[simp] theorem sumKept_setFld {f : Fld} {i n : Nat} (other : .SYS_OVR_SUM ≠ f.reg) : SumKept s (u.setFld f i n) ↔ SumKept s u :=
  ⟨fun h => ⟨h.overruns, (u.reg_setReg_name i 0 other _).symm.trans h.sum⟩, fun h => ⟨h.overruns, (u.reg_setReg_name i 0 other _).trans h.sum⟩⟩

@[simp] theorem sumKept_setFlag {f : Fld} {i : Nat} {b : Bool} (other : .SYS_OVR_SUM ≠ f.reg) : SumKept s (u.setFlag f i b) ↔ SumKept s u :=
  sumKept_setFld other

@[simp] theorem sumKept_bumpSat {f : Fld} {i : Nat} (other : .SYS_OVR_SUM ≠ f.reg) : SumKept s (u.bumpSat f i) ↔ SumKept s u := sumKept_setFld other

@[simp] theorem sumKept_mk (pending mem ecc reports resp sent freeCtr jny acq frg clf trs blw asy mrt peg pnt net can fdl est emb cof scb pwr) :
    SumKept s ⟨pending, u.regs, mem, ecc, reports, resp, sent, freeCtr, u.sys, jny, acq, frg, clf, trs, blw, asy, mrt, peg, pnt, net, can, fdl, est, emb,
      cof, scb, pwr⟩ ↔ SumKept s u := ⟨fun h => ⟨h.overruns, h.sum⟩, fun h => ⟨h.overruns, h.sum⟩⟩

@[simp] theorem sumKept_report {c n : Nat} : SumKept s (u.report c n) ↔ SumKept s u :=
  ⟨fun h => ⟨h.overruns, h.sum⟩, fun h => ⟨h.overruns, h.sum⟩⟩

@[simp] theorem sumKept_count {b k n : Nat} : SumKept s (u.count b k n) ↔ SumKept s u :=
  ⟨fun h => ⟨h.overruns, h.sum⟩, fun h => ⟨h.overruns, h.sum⟩⟩

theorem sumKept_ite {c : Prop} [Decidable c] (h : SumKept s u) (k : SumKept s t) : SumKept s (if c then u else t) := by split <;> assumption

theorem sumKept_each {l : List Nat} {f : Nat → State → State} (next : ∀ k ∈ l, ∀ t, SumKept t (f k t)) : SumKept s (s.each l f) :=
  State.each_induct (P := SumKept s) (SumKept.refl s) fun k m t h => h.trans (next k m t)

theorem State.countBay_sum (s : State) (b : Nat) : SumKept s (s.countBay b) := by simp [State.countBay]

theorem State.bayBack_sum (s : State) (b : Nat) : SumKept s (s.bayBack b) := by
  unfold State.bayBack
  dsimp only
  refine SumKept.trans ?_ (State.countBay_sum _ b)
  simp only [State.onBay, sumKept_setFld (f := F.FRG_BAY_STAT_SHED) (by decide), sumKept_mk]
  exact sumKept_each fun p _ t => by simp [State.onPhase]

theorem State.forgeKeep_sum (s : State) : SumKept s s.forgeKeep := sumKept_each fun b _ t => t.bayBack_sum b

theorem State.tagLost_sum (s : State) (source : Nat) : SumKept s (s.tagLost source) := by
  unfold State.tagLost
  dsimp only
  exact sumKept_ite (by simp) (by simp)

theorem State.tagDiscard_sum (s : State) (source : Nat) : SumKept s (s.tagDiscard source) := by
  unfold State.tagDiscard
  refine sumKept_ite ?_ (SumKept.refl s)
  exact SumKept.trans (by simp) (State.tagLost_sum _ source)

theorem State.flagsSeen_sum (s : State) (e : Nat) : SumKept s (s.flagsSeen e) := by
  have counts (u : State) (c : Bool) (b k : Nat) : SumKept u (if c then u.count b k else u) := sumKept_ite (by simp) (SumKept.refl u)
  have reported (u : State) (c : Bool) (f : Engine → Engine) (code : Nat) : SumKept u (if c then (u.onEng e f).report code e else u) :=
    sumKept_ite (by simp [State.onEng]) (SumKept.refl u)
  have any : SumKept s (s.setFld F.CLF_ENG_FLAGS_ANY e (s.fld F.CLF_ENG_FLAGS_ANY e ||| (s.eng e).flags)) := by simp
  exact ((((any.trans (reported _ _ _ _)).trans (reported _ _ _ _)).trans (counts _ _ _ _)).trans (counts _ _ _ _)).trans (counts _ _ _ _)

theorem State.discard_sum (s : State) (e : Nat) : SumKept s (s.discard e) := by
  unfold State.discard
  dsimp only
  refine ((s.flagsSeen_sum e).trans ?_).trans (State.tagDiscard_sum _ _)
  exact SumKept.trans (by simp [State.onEng]) (sumKept_each fun r _ t => by simp)

theorem State.cableUndo_sum (s : State) (c : Nat) : SumKept s (s.cableUndo c) := by
  unfold State.cableUndo State.showTc
  split <;> simp [State.onCable, State.onBlw]

theorem State.bellowsDrop_sum (s : State) : SumKept s s.bellowsDrop := by
  unfold State.bellowsDrop
  simp only [State.onBlw, sumKept_mk]
  exact sumKept_each fun c _ t => t.cableUndo_sum c

theorem State.batOverrun_sum (s : State) : SumKept s s.batOverrun := by simp [State.batOverrun, State.embCode, State.onEst]

/-! ### A failing island keeps the counts -/

theorem State.pdoGate_sum (s : State) : SumKept s s.pdoGate := by
  obtain ⟨regs, pdo, same⟩ := s.pdoGate_eq
  exact sumKept_of_regs (by rw [same]) (s.pdoGate_regs.regsKept (rs := [.PEG_PDO]) (by simp)) (by decide)

theorem State.pegRelease_sum (s : State) (cause : Nat) : SumKept s (s.pegRelease cause) := by
  refine sumKept_of_regs ?_ (s.pegRelease_regs cause) (by decide)
  by_cases holder : (s.peg.driven || s.holds) = true
  · obtain ⟨regs, fdl, pdo, same⟩ := s.netReleased.outputsReleased_eq
    have tests : s.netReleased.outputsReleased.endTests.sys = s.sys := by rw [(testsOnly_endTests _).2.1, same]; rfl
    rw [s.pegRelease_holder cause holder]
    exact tests
  · rw [s.pegRelease_other cause (by simpa using holder)]
    rfl

theorem State.syncLost_sum (s : State) (n : Nat) : SumKept s (s.syncLost n) := by
  have cleared (f : Peg → Peg) : SumKept s (((s.setFld F.PEG_STAT_STATE 0 n).setFld F.PEG_SYNC_TIME_HEATS 0 0).onPeg f) := by
    have first : SumKept s ((s.setFld F.PEG_STAT_STATE 0 n).setFld F.PEG_SYNC_TIME_HEATS 0 0) := by simp
    exact ⟨first.overruns, first.sum⟩
  have coded (u : State) : SumKept u (u.pegCode 0x0D04) := by simp [State.pegCode]
  exact sumKept_ite (((cleared _).trans (State.pdoGate_sum _)).trans (coded _)) (SumKept.refl s)

theorem State.islandDown_sum (s : State) (k : Nat) : SumKept s (s.islandDown k) := by
  have marked : SumKept s (s.setFld F.SYS_REGION_STAT_FAILED 0 (withBit (s.fld F.SYS_REGION_STAT_FAILED) k true)) := by simp
  exact sumKept_ite ((marked.trans (State.pegRelease_sum _ 1)).trans (State.syncLost_sum _ 3)) marked

theorem State.mortiseFault_sum (runs : s.up 6 = true) : SumKept s s.mortiseFault := by
  have coded := testsOnly_mrtCode s 0x0C07 0
  have first : SumKept s (s.mrtCode 0x0C07) := sumKept_of_regs (by rw [coded.2.1]) coded.1 (by decide)
  have still : bitOf ((s.mrtCode 0x0C07).fld F.SYS_REGION_STAT_FAILED) 6 = false := by
    rw [coded.1.fld (by decide)]
    exact State.up_eq_true.mp runs
  unfold State.mortiseFault
  rw [State.failIsland_six still]
  have off := testsOnly_safeOff ((s.mrtCode 0x0C07).islandDown 6)
  exact (first.trans (State.islandDown_sum _ 6)).trans (sumKept_of_regs (by rw [off.2.1]) off.1 (by decide))

/-! ### One overrun counted (R31) -/

/-- The work's run of overruns is one longer, and its flag is set. -/
structure Counted (w : Work) (s t : State) : Prop where
  overruns : t.overruns w = s.overruns w + 1
  sum : t.flag (sumBitOf w) = true

theorem SumKept.overruns_eq (h : SumKept s t) (w : Work) : t.overruns w = s.overruns w := by rw [State.overruns, State.overruns, h.overruns]

theorem sumBitOf_reg (w : Work) : (sumBitOf w).reg = .SYS_OVR_SUM ∧ (sumBitOf w).hi < 32 ∧ (sumBitOf w).lo ≤ (sumBitOf w).hi := by cases w <;> simp [sumBitOf]

theorem Counted.then (h : Counted w s u) (k : SumKept u t) : Counted w s t where
  overruns := (k.overruns_eq w).trans h.overruns
  sum := by
    have same : t.flag (sumBitOf w) = u.flag (sumBitOf w) := by
      unfold State.flag State.fld
      rw [(sumBitOf_reg w).1, k.sum]
    exact same.trans h.sum

theorem counted_countOverrun (h : SumKept s u) (w : Work) : Counted w s (u.countOverrun w (sumBitOf w)) where
  overruns := by
    have none_ : (u.sys.overruns.filter fun (c : Work × Nat) => decide (c.1 ≠ w)).find? (fun c => decide (c.1 = w)) = none := by
      rw [List.find?_eq_none]
      intro c mem
      have other := of_decide_eq_true (List.mem_filter.mp mem).2
      simpa using other
    have found : ((u.sys.overruns.filter fun (c : Work × Nat) => decide (c.1 ≠ w)) ++ [(w, u.overruns w + 1)]).find? (fun c => decide (c.1 = w))
        = some (w, u.overruns w + 1) := by
      rw [List.find?_append, none_, Option.none_or]
      exact List.find?_cons_of_pos (decide_eq_true rfl)
    have next_ : (u.countOverrun w (sumBitOf w)).overruns w = u.overruns w + 1 :=
      congrArg (fun c : Option (Work × Nat) => (c.map Prod.snd).getD 0) found
    rw [next_, h.overruns_eq w]
  sum := by
    obtain ⟨-, top, bottom⟩ := sumBitOf_reg w
    exact State.flag_setFlag_self _ ⟨top, bottom⟩

/-- An overrun: counted, and 0083h among the reports it adds. -/
def Overran (w : Work) (s t : State) : Prop :=
  t.overruns w = s.overruns w + 1 ∧ t.flag (sumBitOf w) = true ∧ ∃ u, (⟨0x0083, u⟩ : Report) ∈ t.reports.drop s.reports.length

/-- The count, the report of 0083h, and what follows. -/
theorem overran_of {n : Nat} (counted : Counted w s u) (before : s.reports <+: u.reports) (kept : SumKept u t)
    (said : u.reports ++ [⟨0x0083, n⟩] <+: t.reports) : Overran w s t :=
  ⟨(counted.then kept).overruns, (counted.then kept).sum, n, mem_reports_drop_of_prefix (mem_reports_drop (t := u.report 0x0083 n) before rfl) said⟩

/-- Work without a count in its own block is counted. -/
theorem State.workLate_overran (pre : SumKept s u) (before : s.reports <+: u.reports) (w : Work) (code k : Nat) :
    Overran w s (u.workLate w (sumBitOf w) code k) := by
  have counted := counted_countOverrun pre w
  unfold State.workLate
  dsimp only
  split
  · exact overran_of (n := 0) counted before (SumKept.mk rfl rfl) List.prefix_rfl
  · exact overran_of (n := 0) counted before (SumKept.mk rfl rfl) (List.prefix_append _ _)

theorem Overran.then (h : Overran w s u) (k : SumKept u t) (grown : u.reports <+: t.reports) : Overran w s t := by
  obtain ⟨count, sum, n, said⟩ := h
  have counted : Counted w s t := Counted.then ⟨count, sum⟩ k
  exact ⟨counted.overruns, counted.sum, n, mem_reports_drop_of_prefix said grown⟩

/-! ### Each kind of work -/

theorem State.sequence_of_lateRuns {n : Nat} (late : n ∈ s.lateRuns) : ∃ q, s.sequence n = some q := by
  unfold State.lateRuns at late
  obtain ⟨c, -, mem⟩ := List.mem_flatMap.mp (List.mem_eraseDups.mp late)
  obtain ⟨r, -, found⟩ := List.mem_filterMap.mp mem
  split at found
  · next q named =>
    split at found
    · exact ⟨q, Option.some.inj found ▸ named⟩
    · cases found
  · cases found

theorem State.seqOverrun_overran {n code : Nat} (pre : SumKept s u) (before : s.reports <+: u.reports) : Overran (.sequence n) s (u.seqOverrun n code) :=
  overran_of (n := n) (counted_countOverrun pre (.sequence n)) before (by simp [State.seqOverrun, sumBitOf]) (List.prefix_append _ _)

theorem State.runLate_overran {n : Nat} {q : Seq} (named : s.sequence n = some q) : Overran (.sequence n) s (s.runLate n) := by
  unfold State.runLate
  rw [named]
  exact State.seqOverrun_overran (by simp [State.onConv]) List.prefix_rfl

theorem State.engineLate_overran (s : State) (e : Nat) : Overran (.program e) s (s.engineLate e) :=
  overran_of (n := e) (counted_countOverrun (s.discard_sum e) (.program e)) (s.discard_keeps e).reports (by simp [State.engineLate, sumBitOf])
    (List.prefix_append _ _)

theorem State.trussMissed_overran (pre : SumKept s u) (before : s.reports <+: u.reports) : Overran .truss s u.trussMissed :=
  overran_of (n := 0) (counted_countOverrun pre .truss) before (by simp [State.trussMissed, sumBitOf]) (List.prefix_append _ _)

theorem State.trussOverrun_overran (fresh : Work.truss ∉ s.sys.late) : Overran .truss s s.trussOverrun := by
  unfold State.trussOverrun
  rw [if_neg fun h => fresh (List.contains_iff_mem.mp h)]
  dsimp only
  generalize named : State.showWindow _ = v
  have pre : SumKept s v := by
    rw [← named]
    simp [State.showWindow, State.onTrs]
  have before : v.reports = s.reports := by
    rw [← named]
    rfl
  exact Overran.then (State.trussMissed_overran pre (before ▸ List.prefix_rfl)) ⟨rfl, rfl⟩ List.prefix_rfl

theorem State.bellowsOverrun_overran (s : State) : Overran .bellows s s.bellowsOverrun := by
  have first : Counted .bellows s (((s.countOverrun .bellows F.SYS_OVR_SUM_BLW).bumpSat F.BLW_STAT_OVERRUNS 0).count 0 111) :=
    (counted_countOverrun (SumKept.refl s) .bellows).then (by simp [sumBitOf])
  have before : s.reports <+: (((s.countOverrun .bellows F.SYS_OVR_SUM_BLW).bumpSat F.BLW_STAT_OVERRUNS 0).count 0 111).bellowsDrop.reports :=
    (State.bellowsDrop_keeps (((s.countOverrun .bellows F.SYS_OVR_SUM_BLW).bumpSat F.BLW_STAT_OVERRUNS 0).count 0 111)).reports
  exact overran_of (n := 0) (first.then (State.bellowsDrop_sum _)) before (by simp [State.bellowsOverrun]) (List.prefix_append _ _)

theorem State.battery_overran (s : State) :
    Overran .battery s (((s.countOverrun .battery F.SYS_OVR_SUM_EMB).report 0x0083 |>.count 0 114).batOverrun) :=
  Overran.then (u := (s.countOverrun .battery F.SYS_OVR_SUM_EMB).report 0x0083 |>.count 0 114)
    (overran_of (n := 0) (counted_countOverrun (SumKept.refl s) .battery) List.prefix_rfl (by simp [sumBitOf]) List.prefix_rfl)
    (State.batOverrun_sum _) (State.batOverrun_keeps _).reports

theorem State.mortise_overran (runs : s.up 6 = true) : Overran .mortise s (s.workLate .mortise F.SYS_OVR_SUM_MRT 0 113).mortiseFault := by
  have late := State.workLate_overran (SumKept.refl s) List.prefix_rfl .mortise 0 113
  have up : (s.workLate .mortise F.SYS_OVR_SUM_MRT 0 113).up 6 = true := by
    rw [← runs]
    exact State.up_congr (by simp [State.workLate, State.countOverrun, State.onSys]) 6
  exact late.then (State.mortiseFault_sum up) (State.mortiseFault_keeps _).reports

/-! ### The statement -/

/-- Settles O12: each kind of work is counted by its own block's rule. -/
theorem overrunsAreCountedAndReported : Obligations.OverrunsAreCountedAndReported := by
  unfold Obligations.OverrunsAreCountedAndReported
  intro s w ⟨runs, cond⟩
  refine ⟨_, congrArg Host.Outcome.next (State.live_runs runs), ?_⟩
  change Overran w s (s.overrun w)
  cases w with
  | sequence n =>
    have listed : n ∈ s.lateRuns ++ (List.range 128).filter fun k => match s.sequence k with | some q => s.busySeq q k | none => false := by
      obtain late | ⟨q, named, small, busy⟩ := cond
      · exact List.mem_append_left _ late
      · refine List.mem_append_right _ (List.mem_filter.mpr ⟨List.mem_range.mpr small, ?_⟩)
        rw [named]
        exact busy
    obtain ⟨q, named⟩ : ∃ q, s.sequence n = some q := cond.elim State.sequence_of_lateRuns fun ⟨q, named, _⟩ => ⟨q, named⟩
    have late : s.overrun (.sequence n) = s.runLate n := if_pos (List.contains_iff_mem.mpr listed)
    exact late ▸ State.runLate_overran named
  | program e =>
    have late : s.overrun (.program e) = s.engineLate e := if_pos cond
    exact late ▸ s.engineLate_overran e
  | forge =>
    have late : s.overrun .forge = _ := if_pos cond
    rw [late]
    exact (State.workLate_overran s.forgeKeep_sum s.forgeKeep_keeps.reports .forge 0x0306 108).then (by simp [sumBitOf]) List.prefix_rfl
  | truss =>
    have late : s.overrun .truss = s.trussOverrun := if_pos cond.1
    exact late ▸ State.trussOverrun_overran cond.2
  | bellows =>
    have late : s.overrun .bellows = s.bellowsOverrun := if_neg (by simp [show s.flag F.BLW_STAT_STOPPED = false from cond])
    exact late ▸ s.bellowsOverrun_overran
  | battery =>
    obtain ⟨on, strings⟩ := cond
    have late : s.overrun .battery = _ := if_neg (by simp [on, strings])
    rw [late]
    exact s.battery_overran
  | mortise =>
    have late : s.overrun .mortise = _ := if_pos cond
    obtain ⟨-, up⟩ : s.flag F.MRT_STAT_RUN = true ∧ (!bitOf (s.fld F.SYS_REGION_STAT_FAILED) 6) = true := Bool.and_eq_true_iff.mp cond
    rw [late]
    exact State.mortise_overran up
  | assay =>
    have late : s.overrun .assay = _ := if_pos cond
    rw [late]
    exact State.workLate_overran (SumKept.refl s) List.prefix_rfl .assay 0x0B88 112

end Sys2Proof.Machine
end

section
/-! SUPPORT. Forge: phases and bays, the fault of a bay, a dropped phase, and the statement on the protections. -/

namespace Sys2Proof.Machine

open Sys2Proof

variable {s t u : State} {b p q : Nat}

/-! ### Phases and bays, read after a change -/

@[simp] theorem State.phase_onPhase_same (s : State) (p : Nat) (f : Phase → Phase) : (s.onPhase p f).phase p = f (s.phase p) := Arr.get_upd_same _ _ _

@[simp] theorem State.phase_onPhase_other (s : State) (f : Phase → Phase) (other : q ≠ p) : (s.onPhase p f).phase q = s.phase q :=
  Arr.get_upd_ne _ other _

@[simp] theorem State.bay_onBay_same (s : State) (b : Nat) (f : Bay → Bay) : (s.onBay b f).bay b = f (s.bay b) := Arr.get_upd_same _ _ _

@[simp] theorem State.phase_onBay (s : State) (b p : Nat) (f : Bay → Bay) : (s.onBay b f).phase p = s.phase p := rfl
@[simp] theorem State.bay_onPhase (s : State) (b p : Nat) (f : Phase → Phase) : (s.onPhase p f).bay b = s.bay b := rfl
@[simp] theorem State.phase_setFld (s : State) (p i n : Nat) (f : Fld) : (s.setFld f i n).phase p = s.phase p := rfl
@[simp] theorem State.bay_setFld (s : State) (b i n : Nat) (f : Fld) : (s.setFld f i n).bay b = s.bay b := rfl
@[simp] theorem State.phase_setFlag (s : State) (p i : Nat) (f : Fld) (c : Bool) : (s.setFlag f i c).phase p = s.phase p := rfl
@[simp] theorem State.bay_setFlag (s : State) (b i : Nat) (f : Fld) (c : Bool) : (s.setFlag f i c).bay b = s.bay b := rfl
@[simp] theorem State.phase_bumpSat (s : State) (p i : Nat) (f : Fld) : (s.bumpSat f i).phase p = s.phase p := rfl
@[simp] theorem State.bay_bumpSat (s : State) (b i : Nat) (f : Fld) : (s.bumpSat f i).bay b = s.bay b := rfl
@[simp] theorem State.phase_report (s : State) (p c n : Nat) : (s.report c n).phase p = s.phase p := rfl
@[simp] theorem State.bay_report (s : State) (b c n : Nat) : (s.report c n).bay b = s.bay b := rfl
@[simp] theorem State.phase_count (s : State) (p i k : Nat) : (s.count i k).phase p = s.phase p := rfl
@[simp] theorem State.bay_count (s : State) (b i k : Nat) : (s.count i k).bay b = s.bay b := rfl
@[simp] theorem State.phase_countBay (s : State) (b p : Nat) : (s.countBay b).phase p = s.phase p := rfl
@[simp] theorem State.bay_countBay (s : State) (b c : Nat) : (s.countBay b).bay c = s.bay c := rfl

@[simp] theorem cellsKept_onPhase {ks : List RegKey} {f : Phase → Phase} : CellsKept ks s (u.onPhase p f) ↔ CellsKept ks s u := Iff.rfl
@[simp] theorem regsKept_onPhase {rs : List Reg} {f : Phase → Phase} : RegsKept rs s (u.onPhase p f) ↔ RegsKept rs s u := Iff.rfl
@[simp] theorem cellsKept_onBay {ks : List RegKey} {f : Bay → Bay} : CellsKept ks s (u.onBay b f) ↔ CellsKept ks s u := Iff.rfl
@[simp] theorem regsKept_onBay {rs : List Reg} {f : Bay → Bay} : RegsKept rs s (u.onBay b f) ↔ RegsKept rs s u := Iff.rfl

/-- The place of a phase follows from its configuration. -/
theorem phaseBay_congr (sys : t.sys = s.sys) (cfg : t.reg .FRG_PH_CFG p = s.reg .FRG_PH_CFG p) : t.phaseBay p = s.phaseBay p := by
  unfold State.phaseBay State.phaseCount State.fld
  rw [sys, cfg]

theorem bayPhases_congr (sys : t.sys = s.sys) (cfg : ∀ p, t.reg .FRG_PH_CFG p = s.reg .FRG_PH_CFG p) (b : Nat) : t.bayPhases b = s.bayPhases b := by
  have same : t.phaseBay = s.phaseBay := funext fun p => phaseBay_congr sys (cfg p)
  unfold State.bayPhases State.phaseCount
  rw [same, sys]

theorem mem_bayPhases : p ∈ s.bayPhases b ↔ s.phaseBay p = some b := by
  unfold State.bayPhases
  rw [List.mem_filter, decide_eq_true_eq, List.mem_range, and_iff_right_iff_imp]
  intro placed
  unfold State.phaseBay at placed
  split at placed
  · next h => exact h.1
  · cases placed

/-! ### Gates off -/

/-- Both gates of a phase are off. -/
def GatesOff (s : State) (p : Nat) : Prop := (s.phase p).high = false ∧ (s.phase p).low = false

theorem State.gatesOff_same (s : State) (p : Nat) : GatesOff (s.gatesOff p) p := by
  unfold State.gatesOff GatesOff
  rw [State.phase_onPhase_same]
  exact ⟨rfl, rfl⟩

theorem gatesOff_iff : GatesOff s p ↔ ((s.phase p).high, (s.phase p).low) = (false, false) := by
  rw [Prod.mk.injEq, GatesOff]

/-- Gates that are off stay off when gates are turned off. -/
theorem GatesOff.stay (off : GatesOff s p) (q : Nat) : GatesOff (s.gatesOff q) p := by
  by_cases same : p = q
  · exact same ▸ s.gatesOff_same q
  · have kept : (s.gatesOff q).phase p = s.phase p := State.phase_onPhase_other _ _ same
    rwa [GatesOff, kept]

theorem State.eachGatesOff {l : List Nat} (listed : p ∈ l) : GatesOff (s.each l fun p t => t.gatesOff p) p := by
  rw [gatesOff_iff]
  refine State.each_at (g := fun t => ((t.phase p).high, (t.phase p).low)) listed (fun t => gatesOff_iff.mp (t.gatesOff_same p)) fun j other t => ?_
  have kept : (t.gatesOff j).phase p = t.phase p := State.phase_onPhase_other _ _ other.symm
  simp only [kept]

theorem State.eachGatesOff_stay {l : List Nat} (off : GatesOff s p) : GatesOff (s.each l fun p t => t.gatesOff p) p :=
  State.each_induct (P := fun t => GatesOff t p) off fun q _ _ h => h.stay q

theorem State.eachGatesOff_eq (l : List Nat) (s : State) : ∃ ph, (s.each l fun p t => t.gatesOff p) = { s with frg := { s.frg with phases := ph } } :=
  State.each_induct (P := fun t => ∃ ph, t = { s with frg := { s.frg with phases := ph } }) ⟨s.frg.phases, rfl⟩
    fun p _ t h => by
      obtain ⟨ph, same⟩ := h
      rw [same]
      exact ⟨_, rfl⟩

/-! ### A bay fault (R120) -/

theorem State.running_idle (s : State) (fault : s.flag F.FRG_BAY_STAT_FAULT b = true) : s.running b = [] := by
  unfold State.running State.bayLive
  rw [fault]
  simp

theorem State.countBay_regs (s : State) (b : Nat) : CellsKept [(.FRG_BAY_STAT, b)] s (s.countBay b) := by simp [State.countBay]

theorem State.countBay_idle (s : State) (fault : s.flag F.FRG_BAY_STAT_FAULT b = true) : (s.countBay b).fld F.FRG_BAY_STAT_RUNNING b = 0
    ∧ (s.countBay b).fld F.FRG_BAY_STAT_AVAIL b = 0 := by
  unfold State.countBay
  rw [s.running_idle fault]
  simp [fault]

/-- The bay after its gates went off: FAULT and CAUSE. -/
def State.faultMarked (s : State) (b cause : Nat) : State :=
  let t := ((s.each (s.bayPhases b) fun p t => t.gatesOff p).setFld F.FRG_BAY_STAT_FAULT b 1).setFld F.FRG_BAY_STAT_CAUSE b cause
  (t.setFld F.FRG_STAT_BAY_FAULT 0 (withBit (t.fld F.FRG_STAT_BAY_FAULT) b true)).onBay b fun x => { x with ordered := false, step := none }

theorem State.faultBay_eq (fresh : s.flag F.FRG_BAY_STAT_FAULT b = false) (forge : s.hasForge = true) (cause : Nat) :
    s.faultBay b cause = ((s.faultMarked b cause).countBay b).report 0x0301 b := if_neg (by simp [fresh, forge])

theorem State.faultBay_none (h : s.flag F.FRG_BAY_STAT_FAULT b = true ∨ s.hasForge = false) (cause : Nat) : s.faultBay b cause = s :=
  if_pos (by simpa using h)

theorem State.faultMarked_spec (s : State) (b : Nat) {cause : Nat} (small : cause < 16) : (s.faultMarked b cause).flag F.FRG_BAY_STAT_FAULT b = true
    ∧ (s.faultMarked b cause).fld F.FRG_BAY_STAT_CAUSE b = cause ∧ CellsKept [(.FRG_BAY_STAT, b), (.FRG_STAT, 0)] s (s.faultMarked b cause)
    ∧ (∀ p ∈ s.bayPhases b, GatesOff (s.faultMarked b cause) p) ∧ (∀ p, GatesOff s p → GatesOff (s.faultMarked b cause) p)
    ∧ s.faultMarked b cause = { s with regs := (s.faultMarked b cause).regs, frg := (s.faultMarked b cause).frg }
    ∧ (∀ c, ((s.faultMarked b cause).bay c).fast = (s.bay c).fast) := by
  have phases (p : Nat) (off : GatesOff (s.each (s.bayPhases b) fun p t => t.gatesOff p) p) : GatesOff (s.faultMarked b cause) p := off
  obtain ⟨ph, gates⟩ := State.eachGatesOff_eq (s.bayPhases b) s
  refine ⟨?_, ?_, ?_, fun p listed => phases p (State.eachGatesOff listed), fun p off => phases p (State.eachGatesOff_stay off), ?_, fun c => ?_⟩ <;>
    unfold State.faultMarked <;> dsimp only <;> rw [gates]
  · simp [Fld.width]
  · simp [Fld.width]
    omega
  · simp
  · rfl
  · by_cases same : c = b
    · rw [same, State.bay_onBay_same]
      rfl
    · exact congrArg Bay.fast (Arr.get_upd_ne _ same _)

theorem State.faultBay_spec (fresh : s.flag F.FRG_BAY_STAT_FAULT b = false) (forge : s.hasForge = true) {cause : Nat} (small : cause < 16) :
    BayFaulted b cause s (s.faultBay b cause) := by
  obtain ⟨fault, shown_, cells, gates, -, same, -⟩ := s.faultMarked_spec b small
  obtain ⟨running, avail⟩ := (s.faultMarked b cause).countBay_idle fault
  rw [State.faultBay_eq fresh forge]
  have counted := (s.faultMarked b cause).countBay_regs b
  have reports : (s.faultMarked b cause).reports = s.reports := by rw [same]
  refine ⟨?_, ?_, running, avail, gates, mem_reports_drop (u := (s.faultMarked b cause).countBay b) (reports ▸ List.prefix_rfl) rfl,
    (cells.trans (counted.mono (by simp))).regsKept (by simp), ?_⟩
  · simpa [State.countBay] using fault
  · simpa [State.countBay] using shown_
  · rw [same]
    rfl

/-- A bay fault keeps the gates that are off, and the faults that stand. -/
theorem State.faultBay_kept (s : State) (b : Nat) {cause : Nat} (small : cause < 16) : CellsKept [(.FRG_BAY_STAT, b), (.FRG_STAT, 0)] s (s.faultBay b cause)
    ∧ (∀ p, GatesOff s p → GatesOff (s.faultBay b cause) p) ∧ (s.hasForge = true → (s.faultBay b cause).flag F.FRG_BAY_STAT_FAULT b = true)
    ∧ s.faultBay b cause = { s with regs := (s.faultBay b cause).regs, frg := (s.faultBay b cause).frg, reports := (s.faultBay b cause).reports }
    ∧ (∀ c, ((s.faultBay b cause).bay c).fast = (s.bay c).fast) := by
  by_cases acts : s.flag F.FRG_BAY_STAT_FAULT b = false ∧ s.hasForge = true
  · obtain ⟨fresh, forge⟩ := acts
    obtain ⟨fault, -, -, -, -, -, -, same⟩ := State.faultBay_spec fresh forge small
    obtain ⟨-, -, cells, -, gates, -, fast⟩ := s.faultMarked_spec b small
    refine ⟨?_, ?_, fun _ => fault, same, ?_⟩ <;> rw [State.faultBay_eq fresh forge]
    · exact cells.trans (((s.faultMarked b cause).countBay_regs b).mono (by simp))
    · exact gates
    · exact fast
  · have none_ : s.faultBay b cause = s := State.faultBay_none (by simpa [or_iff_not_imp_left] using acts) cause
    rw [none_]
    refine ⟨CellsKept.refl _ s, fun _ h => h, fun forge => ?_, rfl, fun _ => rfl⟩
    by_contra off
    exact acts ⟨by simpa using off, forge⟩

/-! ### Protections of a bay -/

theorem BayFaulted.report {cause c n : Nat} (h : BayFaulted b cause s t) : BayFaulted b cause s (t.report c n) := by
  obtain ⟨fault, shown_, running, avail, gates, said, regs, same⟩ := h
  exact ⟨fault, shown_, running, avail, gates, mem_reports_drop_of_prefix said (List.prefix_append _ _), regs, by rw [same]; rfl⟩

/-- The detector of an input stands outside its limits. -/
def State.detected (s : State) (m : Nat) (bits : List Bool) : State :=
  (s.fastBits m bits).onBay (s.fld F.FRG_FLD_BAY m) fun x => { x with fast := m :: x.fast.filter fun k => decide (k ≠ m) }

theorem fastLimit_detects {m : Nat} {bits : List Bool} (runs : s.runs 4 = true) (fed : s.fastFed m = true) (enabled : s.flag F.FRG_FLD_EN m = true)
    (outside : (s.fastBits m bits).fastOut m = true) : exec (.fastLimit m bits) s
      = .next (if s.fld F.FRG_FLD_ACTION m = 0 then
          (if (s.bay (s.fld F.FRG_FLD_BAY m)).fast.contains m then s.detected m bits else (s.detected m bits).truncate (s.fld F.FRG_FLD_BAY m))
        else (s.detected m bits).faultBay (s.fld F.FRG_FLD_BAY m) 3) := by
  refine congrArg Host.Outcome.next ((State.live_runs runs).trans ((if_pos fed).trans (if_pos ?_)))
  rw [outside, Bool.and_true]
  exact enabled

theorem State.detected_eq (s : State) (m : Nat) (bits : List Bool) : s.detected m bits = { s with frg := (s.detected m bits).frg } := rfl

theorem State.detected_fast (s : State) (m : Nat) (bits : List Bool) : m ∈ ((s.detected m bits).bay (s.fld F.FRG_FLD_BAY m)).fast := by
  rw [State.detected, State.bay_onBay_same]
  exact List.mem_cons_self ..

/-- Settles O21: each protection by its condition, and the fault that it brings. -/
theorem bayProtectionsFaultTheBay : Obligations.BayProtectionsFaultTheBay := by
  unfold Obligations.BayProtectionsFaultTheBay
  refine ⟨?saturated, ?overshoot, ?fast⟩
  case saturated =>
    intro s b runs forge fresh some_ full
    refine ⟨_, congrArg Host.Outcome.next ((State.live_runs runs).trans (if_pos ⟨some_, List.all_eq_true.mpr fun p m => decide_eq_true (full p m)⟩)), ?_⟩
    exact (State.faultBay_spec fresh forge (by decide)).report
  case overshoot =>
    intro s b runs forge fresh cuts lasts
    exact ⟨_, congrArg Host.Outcome.next ((State.live_runs runs).trans (if_pos ⟨cuts, lasts⟩)), State.faultBay_spec fresh forge (by decide)⟩
  case fast =>
    intro s m bits runs fed enabled outside acts fresh
    have forge : s.hasForge = true := (Bool.and_eq_true_iff.mp fed).1
    have faulted : BayFaulted (s.fld F.FRG_FLD_BAY m) 3 (s.detected m bits) _ := State.faultBay_spec (s := s.detected m bits) fresh forge (by decide)
    refine ⟨_, (fastLimit_detects runs fed enabled outside).trans (congrArg Host.Outcome.next (if_neg acts)), ?_, ?_⟩
    · obtain ⟨fault, cause, running, avail, gates, said, regs, same⟩ := faulted
      exact ⟨fault, cause, running, avail, gates, said, regs, same.trans rfl⟩
    · rw [((s.detected m bits).faultBay_kept _ (by decide)).2.2.2.2]
      exact s.detected_fast m bits

end Sys2Proof.Machine
end

section
/-! SUPPORT. The fault actions of work at its overrun limit, and the statement on them. -/

namespace Sys2Proof.Machine

open Sys2Proof

variable {s t u : State}

/-! ### Each fault action (R32) -/

/-- A stopped sequence keeps its mark (R85). -/
theorem State.seqStop_stopped (s : State) (n : Nat) : (s.seqStop n).flag F.ACQ_SEQ_STAT_STOPPED n = true := by
  by_cases stopped : s.flag F.ACQ_SEQ_STAT_STOPPED n = true
  · have same : s.seqStop n = s := if_pos stopped
    rw [same, stopped]
  · have stops : s.seqStop n = _ := if_neg stopped
    rw [stops]
    have marked : (s.setFlag F.ACQ_SEQ_STAT_STOPPED n true).flag F.ACQ_SEQ_STAT_STOPPED n = true := by simp
    generalize s.setFlag F.ACQ_SEQ_STAT_STOPPED n true = t at marked ⊢
    have regs : (t.each (t.consumers n) fun b t => t.orderFault b).regs = t.regs := State.each_congr State.regs fun _ _ _ => rfl
    have ordered : (t.each (t.consumers n) fun b t => t.orderFault b).flag F.ACQ_SEQ_STAT_STOPPED n = true :=
      ((regsKept_of_regs (rs := []) regs).flag List.not_mem_nil n).trans marked
    dsimp only
    generalize (t.each (t.consumers n) fun b t => t.orderFault b) = u at ordered ⊢
    have invalid : RegsKept [.PNT_STAT] u (u.invalidPoints n) :=
      regsKept_each (RegsKept.refl _ u) fun p _ v => (v.writePoint_regs _).regsKept (by simp)
    exact (invalid.flag (by simp) n).trans ordered

theorem State.stopProgram_spec (s : State) (e : Nat) {cause : Nat} (small : cause < 8) : (s.stopProgram e cause).fld F.CLF_ENG_STAT_STATE e = 3
    ∧ (s.stopProgram e cause).fld F.CLF_ENG_STAT_STOP_CAUSE e = cause
    ∧ CellsKept [(.CLF_ENG_STAT, e), (.CLF_STOP0, 0), (.CLF_STOP1, 0)] s (s.stopProgram e cause) := by
  unfold State.stopProgram State.setStopped
  split <;> refine ⟨by simp [Fld.width], ?_, by simp⟩ <;> simp [Fld.width] <;> omega

/-- A program at its limit is STOPPED with cause 1, and its bay is faulted (R155). -/
theorem State.engineLimit_spec (s : State) (e : Nat) : (s.engineLimit e).fld F.CLF_ENG_STAT_STATE e = 3
    ∧ (s.engineLimit e).fld F.CLF_ENG_STAT_STOP_CAUSE e = 1
    ∧ ∀ b, s.hasForge = true → s.engineBay e = some b → (s.engineLimit e).flag F.FRG_BAY_STAT_FAULT b = true := by
  obtain ⟨state, cause, -⟩ := s.stopProgram_spec e (cause := 1) (by decide)
  have sys : ((s.stopProgram e 1).report 0x0401 e).sys = s.sys := by
    unfold State.stopProgram State.setStopped
    split <;> rfl
  have jny : ((s.stopProgram e 1).report 0x0401 e).jny = s.jny := by
    unfold State.stopProgram State.setStopped
    split <;> rfl
  have bay : ((s.stopProgram e 1).report 0x0401 e).engineBay e = s.engineBay e := by
    rw [State.engineBay, State.engineBay, State.program, State.program, jny]
  have whole : s.engineLimit e = match ((s.stopProgram e 1).report 0x0401 e).engineBay e with
    | some b => ((s.stopProgram e 1).report 0x0401 e).faultBay b 5 | none => (s.stopProgram e 1).report 0x0401 e := rfl
  rw [whole, bay]
  have state' : ((s.stopProgram e 1).report 0x0401 e).fld F.CLF_ENG_STAT_STATE e = 3 := state
  have cause' : ((s.stopProgram e 1).report 0x0401 e).fld F.CLF_ENG_STAT_STOP_CAUSE e = 1 := cause
  generalize (s.stopProgram e 1).report 0x0401 e = u at *
  cases s.engineBay e with
  | none => exact ⟨state', cause', fun _ _ h => nomatch h⟩
  | some b =>
    obtain ⟨cells, -, fault, -⟩ := u.faultBay_kept b (cause := 5) (by decide)
    refine ⟨(cells.fld (by simp)).trans state', (cells.fld (by simp)).trans cause', fun c forge same => ?_⟩
    obtain rfl := Option.some.inj same
    exact fault (by rw [State.hasForge, sys]; exact forge)

/-- What the change for a listed number brings about, and no change of the list undoes, holds after all of them. -/
theorem State.each_reaches {P Q : State → Prop} {l : List Nat} {f : Nat → State → State} {k : Nat} (listed : k ∈ l) (start : P s)
    (keeps : ∀ j t, P t → P (f j t)) (own : ∀ t, P t → Q (f k t)) (stays : ∀ j t, P t → Q t → Q (f j t)) : Q (s.each l f) := by
  induction l generalizing s with
  | nil => cases listed
  | cons j l ih =>
    rw [State.each_cons]
    by_cases later : k ∈ l
    · exact ih later (keeps j s start)
    · obtain rfl : k = j := by simpa [later] using listed
      exact (State.each_induct (P := fun t => P t ∧ Q t) ⟨keeps k s start, own s start⟩ fun i _ t h => ⟨keeps i t h.1, stays i t h.1 h.2⟩).2

/-- Every bay that ran is faulted (R107). -/
theorem State.forgeLimit_faults (forge : s.hasForge = true) {b : Nat} (listed : b ∈ s.bays) (live : s.bayLive b = true) :
    s.forgeLimit.flag F.FRG_BAY_STAT_FAULT b = true := by
  refine State.each_reaches (P := fun t => t.hasForge = true) (Q := fun t => t.flag F.FRG_BAY_STAT_FAULT b = true)
    (List.mem_filter.mpr ⟨listed, live⟩) forge (fun c t forge => ?_) (fun t forge => ?_) fun c t forge fault => ?_
  · rw [(t.faultBay_kept c (by decide)).2.2.2.1]
    exact forge
  · exact (t.faultBay_kept b (by decide)).2.2.1 forge
  · by_cases own : b = c
    · subst own
      rwa [State.faultBay_none (.inl fault)]
    · rw [(t.faultBay_kept c (by decide)).1.flag (by simp [own])]
      exact fault

theorem State.trussRecord_regs (s : State) (typ flags cause unit : Nat) :
    RegsKept [.PNT_RING_PROD, .PNT_RING_STAT] s (s.trussRecord typ flags cause unit) := (s.ringDeliver_regs _ _).regsKept (by simp)

/-- The outputs are held: the window is empty, and STATE shows it. -/
def State.holdBegun (s : State) : State :=
  let s := s.onTrs fun t => { t with window := [], rebuild := none, holdFrom := s.heat }
  (s.setFld F.TRS_STAT_STATE 0 2).showWindow.report 0x0501

theorem State.holdBegun_state (s : State) : s.holdBegun.fld F.TRS_STAT_STATE = 2 := by
  have held (u : State) : ((u.setFld F.TRS_STAT_STATE 0 2).showWindow.report 0x0501).fld F.TRS_STAT_STATE = 2 := by simp [State.showWindow, Fld.width]
  exact held _

theorem State.safeHold_holds (s : State) : s.safeHold.fld F.TRS_STAT_STATE = 2 := by
  by_cases holds : s.fld F.TRS_STAT_STATE = 2
  · have same : s.safeHold = s := if_pos holds
    rw [same, holds]
  · have begins : s.safeHold = s.holdBegun.trussRecord 5 0 0x0501 0 := if_neg holds
    have state := s.holdBegun_state
    rw [begins]
    generalize s.holdBegun = u at state ⊢
    exact ((u.trussRecord_regs 5 0 0x0501 0).fld (by simp) 0).trans state

theorem State.publishOutputs_asy (s : State) : s.publishOutputs.asy = s.asy := by
  refine State.each_congr State.asy fun o _ t => ?_
  dsimp only
  split <;> rfl

theorem State.assayLimit_stopped (s : State) : s.assayLimit.asy.stopped = true := congrArg Asy.stopped (State.publishOutputs_asy _)

/-! ### The statement -/

/-- Settles O13: the action of each kind of work. -/
theorem overrunLimitsTakeTheFaultAction : Obligations.OverrunLimitsTakeTheFaultAction := by
  unfold Obligations.OverrunLimitsTakeTheFaultAction
  refine ⟨fun s w below => ?_, fun s w runs reached => ⟨_, congrArg Host.Outcome.next ((State.live_runs runs).trans (if_pos reached)), ?_⟩⟩
  · rw [exec, execOverrunLimit, if_neg (by omega), State.live, ite_self]
  refine ⟨?_, ?_, ?_, ?_, ?_, ?_, ?_, ?_⟩
  · rintro n rfl
    exact s.seqStop_stopped n
  · rintro e rfl
    by_cases stopped : s.fld F.CLF_ENG_STAT_STATE e = 3
    · have same : s.faultAction (.program e) = s := if_pos stopped
      rw [same]
      exact ⟨stopped, fun h => absurd stopped h⟩
    · have stops : s.faultAction (.program e) = s.engineLimit e := if_neg stopped
      obtain ⟨state, cause, bay⟩ := s.engineLimit_spec e
      rw [stops]
      exact ⟨state, fun _ => ⟨cause, bay⟩⟩
  · rintro rfl forge b listed live
    exact State.forgeLimit_faults forge listed live
  · rintro rfl
    exact s.safeHold_holds
  · rintro rfl
    exact ⟨rfl, rfl⟩
  · rintro rfl
    by_cases stopped : s.flag F.EMB_STAT_STOPPED = true
    · have same : s.faultAction .battery = s := if_pos stopped
      rw [same, stopped]
    · have stops : s.faultAction .battery = s.batStop := if_neg stopped
      rw [stops]
      simp [State.batStop, State.embCode, State.onEst, Fld.width]
  · rintro rfl
    exact State.failIsland_fails _ (by decide)
  · rintro rfl
    exact s.assayLimit_stopped

end Sys2Proof.Machine
end

section
/-! SUPPORT. Forge: truncation, shedding and dropped phases, and the statements on them. -/

namespace Sys2Proof.Machine

open Sys2Proof

variable {s t u : State} {b p q : Nat}

/-! ### Truncation (R113) -/

/-- A rising crossing ends the pulse of one phase, or skips its period. -/
def State.pulseEnd (t : State) (b p : Nat) : State :=
  if (t.phase p).high then (t.onPhase p fun y => { y with high := false, full := 0, opens := 0 }).countCut b
  else if (t.phase p).going && !(t.phase p).edged && !(t.phase p).skipped then
    (t.onPhase p fun y => { y with skipped := true, low := t.skipLow b, full := 0, opens := 0 }).countCut b
  else t

theorem State.truncate_eq (s : State) (b : Nat) : s.truncate b = s.each (s.members b) fun p t => t.pulseEnd b p := rfl

theorem State.countCut_spec (s : State) (b : Nat) : CellsKept [(.FRG_BAY_STAT, b)] s (s.countCut b) ∧ (s.countCut b).mem = s.mem
    ∧ (∀ p, (s.countCut b).phase p = s.phase p) ∧ ∀ c, ((s.countCut b).bay c).ovs = (s.bay c).ovs ∧ ((s.countCut b).bay c).fast = (s.bay c).fast := by
  refine ⟨by simp [State.countCut], rfl, fun _ => rfl, fun c => ?_⟩
  unfold State.countCut
  by_cases same : c = b
  · subst same
    rw [State.bay_onBay_same]
    exact ⟨rfl, rfl⟩
  · exact ⟨congrArg Bay.ovs (Arr.get_upd_ne _ same _), congrArg Bay.fast (Arr.get_upd_ne _ same _)⟩

/-- What ending pulses leaves. -/
structure CutOnly (b : Nat) (s t : State) : Prop where
  cells : CellsKept [(.FRG_BAY_STAT, b)] s t
  mem : t.mem = s.mem
  ovs : ∀ c, (t.bay c).ovs = (s.bay c).ovs
  fast : ∀ c, (t.bay c).fast = (s.bay c).fast

theorem CutOnly.refl (b : Nat) (s : State) : CutOnly b s s := ⟨CellsKept.refl _ s, rfl, fun _ => rfl, fun _ => rfl⟩

theorem CutOnly.trans (h : CutOnly b s u) (k : CutOnly b u t) : CutOnly b s t :=
  ⟨h.cells.trans k.cells, k.mem.trans h.mem, fun c => (k.ovs c).trans (h.ovs c), fun c => (k.fast c).trans (h.fast c)⟩

theorem cutOnly_countCut (s : State) (b p : Nat) (f : Phase → Phase) : CutOnly b s ((s.onPhase p f).countCut b) := by
  obtain ⟨cells, mem, -, bays⟩ := (s.onPhase p f).countCut_spec b
  exact ⟨cells, mem, fun c => (bays c).1, fun c => (bays c).2⟩

theorem State.pulseEnd_spec (s : State) (b p : Nat) : CutOnly b s (s.pulseEnd b p) ∧ ((s.pulseEnd b p).phase p).high = false
    ∧ ∀ q, q ≠ p → (s.pulseEnd b p).phase q = s.phase q := by
  have phases (f : Phase → Phase) (q : Nat) : ((s.onPhase p f).countCut b).phase q = (s.onPhase p f).phase q := ((s.onPhase p f).countCut_spec b).2.2.1 q
  unfold State.pulseEnd
  split
  · refine ⟨cutOnly_countCut s b p _, ?_, fun q other => ?_⟩
    · rw [phases, State.phase_onPhase_same]
    · rw [phases, State.phase_onPhase_other _ _ other]
  · next low =>
    split
    · refine ⟨cutOnly_countCut s b p _, ?_, fun q other => ?_⟩
      · rw [phases, State.phase_onPhase_same]
        simpa using low
      · rw [phases, State.phase_onPhase_other _ _ other]
    · exact ⟨CutOnly.refl b s, by simpa using low, fun _ _ => rfl⟩

theorem State.truncate_spec (s : State) (b : Nat) : CutOnly b s (s.truncate b) ∧ ∀ p ∈ s.members b, ((s.truncate b).phase p).high = false := by
  rw [s.truncate_eq b]
  refine ⟨State.each_induct (P := CutOnly b s) (CutOnly.refl b s) fun p _ t h => h.trans (t.pulseEnd_spec b p).1, fun p listed => ?_⟩
  refine State.each_reaches (P := fun _ => True) (Q := fun t => (t.phase p).high = false) listed trivial (fun _ _ _ => trivial)
    (fun t _ => (t.pulseEnd_spec b p).2.1) fun j t _ low => ?_
  by_cases same : p = j
  · exact same ▸ (t.pulseEnd_spec b p).2.1
  · rw [(t.pulseEnd_spec b j).2.2 p same]
    exact low

/-! ### The end of a shed step (R110) -/

/-- A change of the offsets of phases alone. -/
structure OffsetsOnly (s t : State) : Prop where
  regs : t.regs = s.regs
  mem : t.mem = s.mem
  bays : t.frg.bays = s.frg.bays
  gates : ∀ q, (t.phase q).high = (s.phase q).high ∧ (t.phase q).low = (s.phase q).low ∧ (t.phase q).shed = (s.phase q).shed

theorem OffsetsOnly.trans (h : OffsetsOnly s u) (k : OffsetsOnly u t) : OffsetsOnly s t where
  regs := k.regs.trans h.regs
  mem := k.mem.trans h.mem
  bays := k.bays.trans h.bays
  gates q := ⟨(k.gates q).1.trans (h.gates q).1, (k.gates q).2.1.trans (h.gates q).2.1, (k.gates q).2.2.trans (h.gates q).2.2⟩

theorem offsetsOnly_onPhase (s : State) (p : Nat) {f : Phase → Phase} (keeps : ∀ y, (f y).high = y.high ∧ (f y).low = y.low ∧ (f y).shed = y.shed) :
    OffsetsOnly s (s.onPhase p f) where
  regs := rfl
  mem := rfl
  bays := rfl
  gates q := by
    by_cases same : q = p
    · subst same
      rw [State.phase_onPhase_same]
      exact keeps _
    · rw [State.phase_onPhase_other _ _ same]
      exact ⟨rfl, rfl, rfl⟩

theorem offsetsOnly_foldl {α : Type} {g : State → α → State} (next : ∀ t a, OffsetsOnly t (g t a)) (l : List α) (s : State) : OffsetsOnly s (l.foldl g s) := by
  induction l generalizing s with
  | nil => exact ⟨rfl, rfl, rfl, fun _ => ⟨rfl, rfl, rfl⟩⟩
  | cons a l ih => exact (next s a).trans (ih (g s a))

/-- The offsets of a bay spread again: gates, shed marks and the step stay. -/
theorem State.respread_spec (s : State) (b : Nat) : CellsKept [(.FRG_BAY_STAT, b)] s (s.respread b) ∧ (s.respread b).mem = s.mem
    ∧ (s.respread b).fld F.FRG_BAY_STAT_SHED b = s.fld F.FRG_BAY_STAT_SHED b ∧ ((s.respread b).bay b).step = (s.bay b).step
    ∧ ∀ q, ((s.respread b).phase q).high = (s.phase q).high ∧ ((s.respread b).phase q).low = (s.phase q).low
      ∧ ((s.respread b).phase q).shed = (s.phase q).shed := by
  unfold State.respread
  dsimp only
  generalize named : (List.foldl _ s _) = u
  have spread : OffsetsOnly s u := by
    rw [← named]
    refine offsetsOnly_foldl (fun t a => ?_) _ s
    exact offsetsOnly_onPhase t a.1 fun y => ⟨rfl, rfl, rfl⟩
  obtain ⟨regs, mem, bays, gates⟩ := spread
  have kept : CellsKept [(.FRG_BAY_STAT, b)] s u := cellsKept_of_regs regs
  have shed : u.fld F.FRG_BAY_STAT_SHED b = s.fld F.FRG_BAY_STAT_SHED b := (regsKept_of_regs (rs := []) regs).fld List.not_mem_nil b
  have step : (u.bay b).step = (s.bay b).step := by rw [State.bay, State.bay, bays]
  refine ⟨?_, mem, ?_, ?_, gates⟩
  · exact kept.trans (CellsKept.trans (by simp) ((u.onBay b _).countBay_regs b))
  · simp [State.countBay, shed]
  · rw [State.bay_countBay, State.bay_onBay_same]
    exact step

/-- The victim of a shed step goes off. -/
def State.shedOff (s : State) (b v : Nat) : State :=
  let t := (s.onPhase v fun y => { y with shed := true, high := false, low := false, going := false }).setFlag F.FRG_PH_STAT_SHED v true
  (t.onBay b fun x => { x with step := none }).setFld F.FRG_BAY_STAT_SHED b 2

theorem State.shedOff_spec (s : State) (b v : Nat) : ((s.shedOff b v).phase v).shed = true ∧ ((s.shedOff b v).phase v).high = false
    ∧ ((s.shedOff b v).phase v).low = false ∧ ((s.shedOff b v).bay b).step = none ∧ (s.shedOff b v).fld F.FRG_BAY_STAT_SHED b = 2
    ∧ (s.shedOff b v).flag F.FRG_PH_STAT_SHED v = true ∧ (s.shedOff b v).mem = s.mem := by
  unfold State.shedOff
  refine ⟨by simp, by simp, by simp, by simp, by simp [Fld.width], by simp, rfl⟩

/-! ### The statement on truncation and shedding -/

/-- Settles O22: the crossings of a level, the detectors, and the ends of a step, of a hold and of a trim at its limit. -/
theorem truncationSheddingAndTrim : Obligations.TruncationSheddingAndTrim := by
  unfold Obligations.TruncationSheddingAndTrim
  refine ⟨?over_, ?below, ?ends, ?fast, ?fastEnds, ?step, ?hold, ?trim⟩
  case over_ =>
    intro s b v runs forge over_ fresh
    obtain ⟨cut, low⟩ := (s.onBay b fun x => { x with ovs := true, ovsNow := true }).truncate_spec b
    have raised : ((s.onBay b fun x => { x with ovs := true, ovsNow := true }).bay b).ovs = true := by rw [State.bay_onBay_same]
    refine ⟨_, congrArg Host.Outcome.next ((State.live_runs runs).trans ((if_pos (by rw [forge, over_]; rfl)).trans (if_neg (by simp [fresh])))), ?_⟩
    have ovs := (cut.ovs b).trans raised
    exact ⟨by rw [State.cutting, ovs]; rfl, ovs, low, cut.cells, memKept_of_mem cut.mem⟩
  case below =>
    intro s b v below
    rw [exec, execOvershoot, if_neg (by simp [below]), State.live, ite_self]
  case ends =>
    intro s b v runs
    refine ⟨_, congrArg Host.Outcome.next (State.live_runs runs), ?_, rfl, rfl⟩
    rw [State.bay_onBay_same]
  case fast =>
    intro s m bits runs fed enabled outside acts fresh
    obtain ⟨cut, low⟩ := (s.detected m bits).truncate_spec (s.fld F.FRG_FLD_BAY m)
    have taken := (fastLimit_detects runs fed enabled outside).trans (congrArg Host.Outcome.next ((if_pos acts).trans
      (if_neg (mt List.contains_iff_mem.mp fresh))))
    refine ⟨_, taken, ?_, low, cut.cells, memKept_of_mem cut.mem⟩
    have detected := s.detected_fast m bits
    rw [← cut.fast] at detected
    rw [State.cutting, Bool.or_eq_true, decide_eq_true_eq]
    exact .inr (List.ne_nil_of_mem detected)
  case fastEnds =>
    intro s m bits runs fed inside
    refine ⟨_, congrArg Host.Outcome.next ((State.live_runs runs).trans ((if_pos fed).trans (if_neg (by rw [inside]; decide)))), ?_, rfl, rfl⟩
    intro still
    have listed : m ∈ ((s.fastBits m bits).bay (s.fld F.FRG_FLD_BAY m)).fast.filter fun k => decide (k ≠ m) := by
      have own : ((s.fastBits m bits).fld F.FRG_FLD_BAY m) = s.fld F.FRG_FLD_BAY m := by simp [State.fastBits]
      rw [← own, State.bay_onBay_same] at still
      rw [← own]
      exact still
    exact of_decide_eq_true (List.mem_filter.mp listed).2 rfl
  case step =>
    intro s b v k a runs step done
    refine ⟨(s.shedOff b v).respread b, ?_, ?_⟩
    · rw [exec, execShedStepEnd, step]
      exact congrArg Host.Outcome.next ((State.live_runs runs).trans (if_pos done))
    · obtain ⟨shed, high, low, noStep, shown_, flag, mem⟩ := s.shedOff_spec b v
      obtain ⟨cells, mem', shown', step', gates⟩ := (s.shedOff b v).respread_spec b
      obtain ⟨high', low', shed'⟩ := gates v
      exact ⟨shed'.trans shed, high'.trans high, low'.trans low, step'.trans noStep, shown'.trans shown_, (cells.flag (by simp)).trans flag,
        memKept_of_mem (mem'.trans mem)⟩
  case hold =>
    intro s b runs held done
    exact congrArg Host.Outcome.next ((State.live_runs runs).trans (if_pos ⟨held, done⟩))
  case trim =>
    intro s p runs limit
    exact congrArg Host.Outcome.next ((State.live_runs runs).trans (if_pos limit))

/-! ### A dropped phase (R118) -/

/-- The registers that mark a dropped phase. -/
theorem State.setDrop_spec (s : State) (p : Nat) (d : Bool) : CellsKept [(.FRG_PH_STAT, p), (.FRG_PH_DROP0, 0), (.FRG_PH_DROP1, 0), (.FRG_PH_DROP2, 0)] s (s.setDrop p d)
    ∧ (s.setDrop p d).dropped p = d ∧ (s.setDrop p d).flag F.FRG_PH_STAT_GDF p = s.flag F.FRG_PH_STAT_GDF p
    ∧ (s.setDrop p d).flag F.FRG_PH_STAT_WIN p = s.flag F.FRG_PH_STAT_WIN p
    ∧ (s.setDrop p d).fld F.FRG_PH_STAT_MAXD_CNT p = s.fld F.FRG_PH_STAT_MAXD_CNT p
    ∧ s.setDrop p d = { s with regs := (s.setDrop p d).regs } := by
  unfold State.setDrop State.dropped
  dsimp only
  split
  · exact ⟨by simp, by simp, by simp, by simp, by simp, rfl⟩
  · split
    · exact ⟨by simp, by simp, by simp, by simp, by simp, rfl⟩
    · exact ⟨by simp, by simp, by simp, by simp, by simp, rfl⟩

/-- The phase is marked and its gates go off. -/
def State.dropMarked (s : State) (p cause : Nat) : State := ((s.setDrop p true).setFld F.FRG_PH_STAT_CAUSE p cause).gatesOff p

/-- What a drop shows of its phase. -/
structure Dropped (p cause : Nat) (s t : State) : Prop where
  dropped : t.dropped p = true
  cause : t.fld F.FRG_PH_STAT_CAUSE p = cause
  gdf : t.flag F.FRG_PH_STAT_GDF p = s.flag F.FRG_PH_STAT_GDF p
  win : t.flag F.FRG_PH_STAT_WIN p = s.flag F.FRG_PH_STAT_WIN p
  maxd : t.fld F.FRG_PH_STAT_MAXD_CNT p = s.fld F.FRG_PH_STAT_MAXD_CNT p
  gates : GatesOff t p
  mem : t.mem = s.mem

theorem State.dropMarked_spec (s : State) (p : Nat) {cause : Nat} (small : cause < 8) : Dropped p cause s (s.dropMarked p cause)
    ∧ (s.dropMarked p cause).reports = s.reports := by
  obtain ⟨-, dropped, gdf, win, maxd, same⟩ := s.setDrop_spec p true
  unfold State.dropMarked
  generalize s.setDrop p true = u at *
  have gates := (u.setFld F.FRG_PH_STAT_CAUSE p cause).gatesOff_same p
  refine ⟨⟨?_, ?_, ?_, ?_, ?_, gates, ?_⟩, ?_⟩
  · simpa [State.gatesOff, State.dropped] using dropped
  · simp [State.gatesOff, Fld.width]
    omega
  · simpa [State.gatesOff] using gdf
  · simpa [State.gatesOff] using win
  · simpa [State.gatesOff] using maxd
  · exact (congrArg State.mem same).trans rfl
  · exact (congrArg State.reports same).trans rfl

/-- A change of bays and their registers alone. -/
theorem Dropped.bays {c : Nat} (h : Dropped p c s u) (cells : CellsKept [(.FRG_BAY_STAT, b), (.FRG_STAT, 0)] u t) (gates : GatesOff u p → GatesOff t p)
    (mem : t.mem = u.mem) : Dropped p c s t where
  dropped := (cells.flag (by simp)).trans h.dropped
  cause := (cells.fld (by simp)).trans h.cause
  gdf := (cells.flag (by simp)).trans h.gdf
  win := (cells.flag (by simp)).trans h.win
  maxd := (cells.fld (by simp)).trans h.maxd
  gates := gates h.gates
  mem := mem.trans h.mem

/-- The bay after one of its phases was dropped: its step ends or is re-based, and it is counted again. -/
def State.dropStep (t : State) (b p : Nat) : State :=
  let anyShed := (t.bayPhases b).any fun q => (t.phase q).shed && !t.dropped q
  match (t.bay b).step with
  | some (v, k, a) =>
    if v = p then
      (t.onBay b fun x => { x with step := none, spread := true }).setFld F.FRG_BAY_STAT_SHED b (if anyShed then 2 else 0)
    else t.onBay b fun x => { x with step := some (v, k, if (t.phase p).shed then a else a - 1), spread := true }
  | none => t.onBay b fun x => { x with spread := true }

theorem State.dropStep_spec (s : State) (b p : Nat) : CellsKept [(.FRG_BAY_STAT, b)] s (s.dropStep b p) ∧ (s.dropStep b p).frg.phases = s.frg.phases
    ∧ (s.dropStep b p).mem = s.mem ∧ (s.dropStep b p).reports = s.reports := by
  unfold State.dropStep
  dsimp only
  split
  · split <;> exact ⟨by simp, rfl, rfl, rfl⟩
  · exact ⟨by simp, rfl, rfl, rfl⟩

theorem State.dropPhase_eq {code cause : Nat} (placed : s.phaseBay p = some b) (fresh : s.dropped p = false) :
    s.dropPhase p cause code =
      (let t := (((s.dropMarked p cause).dropStep b p).countBay b).report code p
      if (t.bayPhases b).all (fun q => t.dropped q) then t.faultBay b 4 else t) := by
  unfold State.dropPhase
  rw [placed]
  exact if_neg (by simp [fresh])

theorem State.dropPhase_spec {code cause : Nat} (placed : s.phaseBay p = some b) (fresh : s.dropped p = false) (small : cause < 8) :
    Dropped p cause s (s.dropPhase p cause code) ∧ s.reports ++ [⟨code, p⟩] <+: (s.dropPhase p cause code).reports := by
  obtain ⟨marked, reports⟩ := s.dropMarked_spec p small
  rw [State.dropPhase_eq placed fresh]
  obtain ⟨cells, phases, mem, reports'⟩ := (s.dropMarked p cause).dropStep_spec b p
  have said : ((((s.dropMarked p cause).dropStep b p).countBay b).report code p).reports = s.reports ++ [⟨code, p⟩] :=
    congrArg (· ++ [(⟨code, p⟩ : Report)]) (reports'.trans reports)
  have stepped : Dropped p cause s ((((s.dropMarked p cause).dropStep b p).countBay b).report code p) := by
    refine marked.bays (b := b) ((cells.trans (((s.dropMarked p cause).dropStep b p).countBay_regs b)).mono (by simp)) (fun off => ?_) mem
    have same : ((s.dropMarked p cause).dropStep b p).phase p = (s.dropMarked p cause).phase p := by rw [State.phase, State.phase, phases]
    rw [GatesOff, State.phase_report, State.phase_countBay, same]
    exact off
  generalize (((s.dropMarked p cause).dropStep b p).countBay b).report code p = u at *
  dsimp only
  split
  · obtain ⟨cells, gates, -, same, -⟩ := u.faultBay_kept b (cause := 4) (by decide)
    exact ⟨stepped.bays cells (gates p) ((congrArg State.mem same).trans rfl), said ▸ (u.faultBay_keeps b 4).reports⟩
  · exact ⟨stepped, said ▸ List.prefix_rfl⟩

theorem lt_phaseCount (placed : s.phaseBay p = some b) : p < s.phaseCount := by
  unfold State.phaseBay at placed
  split at placed
  · next h => exact h.1
  · cases placed

theorem State.phaseBay_setFlag_stat (s : State) {f : Fld} (stat : f.reg = .FRG_PH_STAT) (i : Nat) (c : Bool) (p : Nat) :
    (s.setFlag f i c).phaseBay p = s.phaseBay p := phaseBay_congr rfl (State.reg_setFlag_other _ (by rw [stat]; decide))

/-! ### The statement on drops and releases -/

/-- Settles O23: a driver fault and a sense loss by their inputs, a clear by RUN, and a release by the cause of the fault. -/
theorem dropsAndReleasesFollowTheirConditions : Obligations.DropsAndReleasesFollowTheirConditions := by
  unfold Obligations.DropsAndReleasesFollowTheirConditions
  refine ⟨?driver, ?driverEnds, ?sense, ?senseEnds, ?clears, ?refused, ?release, ?noRelease⟩
  case driver =>
    intro s p b runs placed fresh
    obtain ⟨u, named⟩ : ∃ u, u = (s.setFlag F.FRG_PH_STAT_GDF p true).gatesOff p := ⟨_, rfl⟩
    have placedU : u.phaseBay p = some b := by
      rw [named]
      exact (s.phaseBay_setFlag_stat rfl p true p).trans placed
    have freshU : u.dropped p = false := by rw [named]; simpa [State.gatesOff, State.dropped] using fresh
    have drops : exec (.driverFault p true) s = .next (u.dropPhase p 3 0x0304) := by
      refine congrArg Host.Outcome.next ((State.live_runs runs).trans ((if_pos (lt_phaseCount placed)).trans ?_))
      rw [named]
      have there : (s.phaseBay p).isSome = true := by rw [placed]; rfl
      exact if_pos (by rw [there]; rfl)
    obtain ⟨drop, said⟩ := State.dropPhase_spec (code := 0x0304) placedU freshU (show 3 < 8 by decide)
    have reports : u.reports = s.reports := by rw [named]; rfl
    refine ⟨_, drops, drop.dropped, drop.cause, drop.gdf.trans ?_, drop.gates.1, drop.gates.2, ?_, memKept_of_mem (drop.mem.trans (by rw [named]; rfl))⟩
    · rw [named]
      simp [State.gatesOff]
    · exact mem_reports_drop_of_prefix (mem_reports_drop (t := u.report 0x0304 p) (reports ▸ List.prefix_rfl) rfl) said
  case driverEnds =>
    intro s p runs present
    exact congrArg Host.Outcome.next ((State.live_runs runs).trans (if_pos present))
  case sense =>
    intro s p b cs runs active placed fresh outside
    have there : (s.phaseBay p).isSome = true := by rw [placed]; rfl
    obtain ⟨u, named⟩ : ∃ u, u = s.setFlag F.FRG_PH_STAT_WIN p true := ⟨_, rfl⟩
    have placedU : u.phaseBay p = some b := by
      rw [named]
      exact (s.phaseBay_setFlag_stat rfl p true p).trans placed
    have freshU : u.dropped p = false := by rw [named]; simpa [State.dropped] using fresh
    have drops : exec (.senseLoss p cs) s = .next (u.dropPhase p 1 0x0302) := by
      refine congrArg Host.Outcome.next ((State.live_runs runs).trans ((if_pos (by rw [there, active]; rfl)).trans ?_))
      dsimp only
      rw [decide_eq_true outside, named]
      exact if_pos rfl
    obtain ⟨drop, said⟩ := State.dropPhase_spec (code := 0x0302) placedU freshU (show 1 < 8 by decide)
    have reports : u.reports = s.reports := by rw [named]; rfl
    refine ⟨_, drops, drop.dropped, drop.cause, drop.win.trans ?_, drop.gates.1, drop.gates.2, ?_, memKept_of_mem (drop.mem.trans (by rw [named]; rfl))⟩
    · rw [named]
      simp
    · exact mem_reports_drop_of_prefix (mem_reports_drop (t := u.report 0x0302 p) (reports ▸ List.prefix_rfl) rfl) said
  case senseEnds =>
    intro s p b cs runs active placed low high
    have there : (s.phaseBay p).isSome = true := by rw [placed]; rfl
    refine congrArg Host.Outcome.next ((State.live_runs runs).trans ((if_pos (by rw [there, active]; rfl)).trans ?_))
    dsimp only
    rw [decide_eq_false (by omega)]
    exact if_neg (by decide)
  case clears =>
    intro s who p b reaches placed off
    refine ⟨_, congrArg Host.Outcome.next (rowWrite_reaches s who _ _ _ reaches), ?_⟩
    obtain ⟨c, counted⟩ := served_scb s who 4
    rw [counted]
    have clears : State.clearDrop { s with scb := c } p = if State.dropped { s with scb := c } p then
        (((State.setDrop { s with scb := c } p false).setFld F.FRG_PH_STAT_CAUSE p 0).onBay b fun x => { x with spread := true }).countBay b
      else { s with scb := c } := by
      unfold State.clearDrop
      rw [show State.phaseBay { s with scb := c } p = some b from placed]
      exact if_pos off
    obtain ⟨-, dropped, gdf, win, -, same⟩ := State.setDrop_spec { s with scb := c } p false
    rw [clears]
    split
    · generalize State.setDrop { s with scb := c } p false = u at *
      have counted' := ((u.setFld F.FRG_PH_STAT_CAUSE p 0).onBay b fun x => { x with spread := true }).countBay_regs b
      have seen (f : Fld) (stat : f.reg = .FRG_PH_STAT) : (((u.setFld F.FRG_PH_STAT_CAUSE p 0).onBay b fun x => { x with spread := true }).countBay b).flag f p
          = (u.setFld F.FRG_PH_STAT_CAUSE p 0).flag f p := counted'.flag (by rw [stat]; simp)
      refine ⟨(seen _ rfl).trans ?_, (seen _ rfl).trans ?_, (seen _ rfl).trans ?_, (congrArg State.reports same).trans rfl,
        memKept_of_mem ((congrArg State.mem same).trans rfl)⟩
      · simpa [State.dropped] using dropped
      · simpa using gdf
      · simpa using win
    · next clear => exact ⟨Bool.eq_false_iff.mpr clear, rfl, rfl, rfl, memKept_of_mem rfl⟩
  case refused =>
    intro s who p b reaches placed on
    refine ⟨_, congrArg Host.Outcome.next (rowWrite_reaches s who _ _ _ reaches), ?_⟩
    obtain ⟨c, counted⟩ := served_scb s who 4
    have refuses : State.clearDrop { s with scb := c } p = State.report { s with scb := c } 0x0307 p := by
      unfold State.clearDrop
      rw [show State.phaseBay { s with scb := c } p = some b from placed]
      exact if_neg on
    rw [counted, refuses]
    exact ⟨rfl, rfl, rfl⟩
  case release =>
    intro s who b reaches fault ended
    refine congrArg Host.Outcome.next ((rowWrite_reaches s who _ _ _ reaches).trans ?_)
    obtain ⟨c, counted⟩ := served_scb s who 4
    rw [counted]
    have acts : State.releaseBay { s with scb := c } b = State.onBay { s with scb := c } b fun x => { x with release := true } :=
      if_pos (Bool.and_eq_true_iff.mpr ⟨fault, ended⟩)
    rw [acts]
  case noRelease =>
    intro s who b reaches held
    refine congrArg Host.Outcome.next ((rowWrite_reaches s who _ _ _ reaches).trans ?_)
    obtain ⟨c, counted⟩ := served_scb s who 4
    rw [counted]
    have refuses : State.releaseBay { s with scb := c } b = State.report { s with scb := c } 0x0307 b := by
      refine if_neg fun both => ?_
      obtain ⟨fault, ended⟩ := Bool.and_eq_true_iff.mp both
      exact held.elim (fun h => by rw [show s.flag F.FRG_BAY_STAT_FAULT b = true from fault] at h; cases h)
        fun h => by rw [show s.causeEnded b = true from ended] at h; cases h
    rw [refuses]

end Sys2Proof.Machine
end

section
/-! SUPPORT. Forge: the edges of a phase, with the triggers that they substitute, and the statement on the PWM sequence. -/

namespace Sys2Proof.Machine

open Sys2Proof

variable {s t u : State} {b p q n at_ : Nat}

/-! ### Substituted triggers (R77) -/

/-- The registers of the acquisition that a trigger may change. -/
def fireRegs : List Reg := [.ACQ_SEQ_STAT, .ACQ_CNV_STAT, .SYS_OVR_SUM]

/-- What a trigger leaves: Forge, memory, the variant and the registers of other blocks. -/
structure FireOnly (s t : State) : Prop where
  regs : RegsKept fireRegs s t
  mem : t.mem = s.mem
  frg : t.frg = s.frg
  variant : t.sys.variant = s.sys.variant

theorem FireOnly.refl (s : State) : FireOnly s s := ⟨RegsKept.refl _ s, rfl, rfl, rfl⟩

theorem FireOnly.trans (h : FireOnly s u) (k : FireOnly u t) : FireOnly s t :=
  ⟨h.regs.trans k.regs, k.mem.trans h.mem, k.frg.trans h.frg, k.variant.trans h.variant⟩

theorem State.seqOverrun_fire (s : State) (n code : Nat) : FireOnly s (s.seqOverrun n code) :=
  ⟨by simp [State.seqOverrun, State.countOverrun, fireRegs], rfl, rfl, rfl⟩

theorem State.fireSeq_fire (s : State) (n at_ : Nat) (subst : Bool) : FireOnly s (s.fireSeq n at_ subst) := by
  unfold State.fireSeq
  split
  · exact FireOnly.refl s
  · next seq _ =>
    split
    · exact FireOnly.refl s
    · split
      · exact ⟨by simp [fireRegs], rfl, rfl, rfl⟩
      · split
        · have dropped : FireOnly s (s.bumpSat F.ACQ_CNV_STAT_DROPPED seq.cnv) := ⟨by simp [fireRegs], rfl, rfl, rfl⟩
          exact dropped.trans (State.seqOverrun_fire _ n 0x0203)
        · exact ⟨by simp [fireRegs, State.onConv], rfl, rfl, rfl⟩

theorem State.firePwm_fire (s : State) (n at_ : Nat) (subst : Bool) : FireOnly s (s.firePwm n at_ subst) := by
  unfold State.firePwm
  split
  · exact FireOnly.refl s
  · split
    · exact FireOnly.refl s
    · have fired : FireOnly s { s with acq := { s.acq with fired := n :: s.acq.fired } } := ⟨by simp, rfl, rfl, rfl⟩
      exact fired.trans (State.fireSeq_fire _ n at_ subst)

theorem State.substitute_fire (s : State) (p sel at_ : Nat) : FireOnly s (s.substitute p sel at_) :=
  State.each_induct (P := FireOnly s) (FireOnly.refl s) fun k _ t h => h.trans (t.firePwm_fire k at_ true)

/-! ### A missed ON edge -/

/-- What a missed ON edge of a phase leaves: everything of the bays, and of the phases all but the mark of the edge itself. -/
structure MissedOnly (p : Nat) (s t : State) : Prop where
  regs : RegsKept fireRegs s t
  mem : t.mem = s.mem
  bays : t.frg.bays = s.frg.bays
  variant : t.sys.variant = s.sys.variant
  others : ∀ q, q ≠ p → t.phase q = s.phase q
  own : t.phase p = { s.phase p with want := (t.phase p).want }

theorem MissedOnly.refl (p : Nat) (s : State) : MissedOnly p s s := ⟨RegsKept.refl _ s, rfl, rfl, rfl, fun _ _ => rfl, rfl⟩

theorem FireOnly.phase (h : FireOnly s t) (q : Nat) : t.phase q = s.phase q := congrArg (fun f => f.phases.get q) h.frg

theorem MissedOnly.fire (h : MissedOnly p s u) (k : FireOnly u t) : MissedOnly p s t where
  regs := h.regs.trans k.regs
  mem := k.mem.trans h.mem
  bays := (congrArg Frg.bays k.frg).trans h.bays
  variant := k.variant.trans h.variant
  others q other := (k.phase q).trans (h.others q other)
  own := by
    rw [k.phase]
    exact h.own

theorem State.missedOn_spec (s : State) (p : Nat) : MissedOnly p s (s.missedOn p) := by
  unfold State.missedOn
  dsimp only
  split
  · refine MissedOnly.fire (u := s.onPhase p fun y => { y with want := false }) ?_ (State.substitute_fire _ p 2 _)
    exact ⟨by simp, rfl, rfl, rfl, fun q other => State.phase_onPhase_other _ _ other, by simp⟩
  · exact MissedOnly.refl p s

section Missed

variable (h : MissedOnly p s t)

include h

theorem MissedOnly.bay (b : Nat) : t.bay b = s.bay b := congrArg (fun f => f.get b) h.bays

theorem MissedOnly.phaseBay (q : Nat) : t.phaseBay q = s.phaseBay q := by
  unfold State.phaseBay State.phaseCount
  rw [h.variant, h.regs.fld (by simp [fireRegs]), h.regs.fld (by simp [fireRegs])]

theorem MissedOnly.isRunning : t.isRunning p = s.isRunning p := by
  have live (b : Nat) : t.bayLive b = s.bayLive b := by
    unfold State.bayLive
    rw [h.regs.flag (by simp [fireRegs]), h.regs.flag (by simp [fireRegs]), h.bay]
  have dropped : t.dropped p = s.dropped p := h.regs.flag (by simp [fireRegs]) p
  unfold State.isRunning
  rw [h.phaseBay, dropped, h.own]
  simp only [live]

theorem MissedOnly.cutting (b : Nat) : t.cutting b = s.cutting b := by
  unfold State.cutting
  rw [h.bay]

theorem MissedOnly.skipLow (b : Nat) : t.skipLow b = s.skipLow b := by
  unfold State.skipLow
  rw [h.regs.fld (by simp [fireRegs])]

theorem MissedOnly.gates (q : Nat) : (t.phase q).high = (s.phase q).high ∧ (t.phase q).low = (s.phase q).low := by
  by_cases same : q = p
  · subst same
    rw [h.own]
    exact ⟨rfl, rfl⟩
  · rw [h.others q same]
    exact ⟨rfl, rfl⟩

end Missed

/-! ### The PERIOD instant (R103) -/

/-- A running phase starts its period. -/
def State.periodBegun (s : State) (b p : Nat) : State :=
  let t := (s.setFld F.FRG_PH_DAC_CODE p (s.phase p).shadow).onPhase p fun y => { y with
    full := if s.cutting b then 0 else y.full, opens := if s.cutting b then 0 else y.opens
    going := true, stretch := 0, mark := (s.phase p).shadowMark, high := false, edged := false, peer := false, skipped := s.cutting b,
    low := s.cutting b && s.skipLow b }
  if s.cutting b then t.countCut b else t

theorem State.periodInstant_running (placed : s.phaseBay p = some b) (runs : s.isRunning p = true) : s.periodInstant p = s.periodBegun b p := by
  have low : (s.setFld F.FRG_PH_DAC_CODE p (s.phase p).shadow).skipLow b = s.skipLow b := by simp [State.skipLow]
  unfold State.periodInstant State.periodBegun
  rw [placed]
  refine (if_pos runs).trans ?_
  dsimp only
  rw [low]
  rfl

theorem State.periodInstant_idle (placed : s.phaseBay p = some b) (idle : s.isRunning p = false) : s.periodInstant p
    = s.onPhase p fun y => { y with high := false, low := false, going := false, edged := false, stretch := 0 } := by
  unfold State.periodInstant
  rw [placed]
  exact if_neg (by simp [idle])

/-- What a running phase shows at its PERIOD instant. -/
structure PeriodBegun (b p : Nat) (s t : State) : Prop where
  mem : t.mem = s.mem
  others : ∀ q, q ≠ p → t.phase q = s.phase q
  high : (t.phase p).high = false
  going : (t.phase p).going = true
  skipped : (t.phase p).skipped = s.cutting b
  low : (t.phase p).low = (s.cutting b && s.skipLow b)
  code : t.fld F.FRG_PH_DAC_CODE p = (s.phase p).shadow % 2 ^ F.FRG_PH_DAC_CODE.width

theorem State.periodBegun_spec (s : State) (b p : Nat) : PeriodBegun b p s (s.periodBegun b p) := by
  unfold State.periodBegun
  dsimp only
  generalize named : State.onPhase _ p _ = u
  have started : PeriodBegun b p s u := by
    rw [← named]
    exact ⟨rfl, fun q other => by simp [other], by simp, by simp, by simp, by simp, by simp⟩
  split
  · obtain ⟨cells, mem, phases, -⟩ := u.countCut_spec b
    exact ⟨mem.trans started.mem, fun q other => (phases q).trans (started.others q other), by rw [phases, started.high],
      by rw [phases, started.going], by rw [phases, started.skipped], by rw [phases, started.low], (cells.fld (by simp)).trans started.code⟩
  · exact started

/-- After the PERIOD instant: a phase that waits for its ON edge, or substituted ON triggers. -/
def State.periodNext (t : State) (p at_ : Nat) : State :=
  if (t.phase p).going && !(t.phase p).skipped then t.onPhase p fun y => { y with want := true, perAt := (t.now, at_) }
  else t.substitute p 2 at_

theorem State.periodNext_spec (s : State) (p at_ : Nat) : RegsKept fireRegs s (s.periodNext p at_) ∧ (s.periodNext p at_).mem = s.mem
    ∧ (∀ q, q ≠ p → (s.periodNext p at_).phase q = s.phase q)
    ∧ (s.periodNext p at_).phase p = { s.phase p with want := ((s.periodNext p at_).phase p).want, perAt := ((s.periodNext p at_).phase p).perAt } := by
  unfold State.periodNext
  split
  · exact ⟨by simp, rfl, fun q other => State.phase_onPhase_other _ _ other, by simp⟩
  · have fire := s.substitute_fire p 2 at_
    exact ⟨fire.regs, fire.mem, fun q _ => fire.phase q, by rw [fire.phase p]⟩

theorem exec_pwmPeriod (runs : s.runs 4 = true) (p at_ : Nat) : exec (.pwmPeriod p at_) s = .next (((s.missedOn p).periodInstant p).periodNext p at_) :=
  congrArg Host.Outcome.next (State.live_runs runs)

/-! ### The end of a pulse (R105, R117) -/

theorem State.seenTrip_spec (s : State) (b p : Nat) : (s.seenTrip b p).regs = s.regs ∧ (s.seenTrip b p).mem = s.mem
    ∧ (s.seenTrip b p).phase p = s.phase p := by
  refine State.each_induct (P := fun t : State => t.regs = s.regs ∧ t.mem = s.mem ∧ t.phase p = s.phase p) ⟨rfl, rfl, rfl⟩ fun q listed t h => ?_
  obtain ⟨regs, mem, own⟩ := h
  have other : p ≠ q := by
    have seen := (List.mem_filter.mp listed).2
    rw [Bool.and_eq_true, decide_eq_true_eq] at seen
    exact seen.1.symm
  exact ⟨regs, mem, (State.phase_onPhase_other _ _ other).trans own⟩

theorem State.openTest_spec (s : State) (placed : s.phaseBay p = some b) (low : (s.phase p).high = false) : ((s.openTest b p).phase p).high = false
    ∧ (s.openTest b p).fld F.FRG_PH_STAT_MAXD_CNT p = s.fld F.FRG_PH_STAT_MAXD_CNT p ∧ (s.openTest b p).mem = s.mem := by
  unfold State.openTest
  dsimp only
  generalize named : State.onPhase s p _ = u
  have tested : (u.phase p).high = false ∧ u.regs = s.regs ∧ u.sys = s.sys ∧ u.mem = s.mem := by
    rw [← named]
    exact ⟨by simpa using low, rfl, rfl, rfl⟩
  obtain ⟨low', regs, sys, mem⟩ := tested
  have kept : RegsKept [] s u := regsKept_of_regs regs
  have count := kept.fld (f := F.FRG_PH_STAT_MAXD_CNT) List.not_mem_nil p
  split
  · by_cases fresh : u.dropped p = false
    · have placedU : u.phaseBay p = some b := (phaseBay_congr sys (by rw [State.reg, State.reg, regs])).trans placed
      obtain ⟨drop, -⟩ := State.dropPhase_spec (code := 0x0303) placedU fresh (show 2 < 8 by decide)
      exact ⟨drop.gates.1, drop.maxd.trans count, drop.mem.trans mem⟩
    · have stays : u.dropPhase p 2 0x0303 = u := by
        have placedU : u.phaseBay p = some b := (phaseBay_congr sys (by rw [State.reg, State.reg, regs])).trans placed
        unfold State.dropPhase
        rw [placedU]
        exact if_pos (by simpa using fresh)
      rw [stays]
      exact ⟨low', count, mem⟩
  · exact ⟨low', count, mem⟩

/-! ### The statement -/

/-- Settles O20: each edge of a phase by its condition; substituted triggers change neither gates nor bays. -/
theorem phaseEdgesFollowThePwmSequence : Obligations.PhaseEdgesFollowThePwmSequence := by
  unfold Obligations.PhaseEdgesFollowThePwmSequence
  refine ⟨?period, ?on, ?trip, ?maxOn, ?lowSide, ?valley⟩
  case period =>
    intro s p at_ b runs placed
    have missed := s.missedOn_spec p
    refine ⟨_, exec_pwmPeriod runs p at_, ?_⟩
    have placedM : (s.missedOn p).phaseBay p = some b := (missed.phaseBay p).trans placed
    cases running : s.isRunning p with
    | true =>
      rw [State.periodInstant_running placedM (missed.isRunning.trans running)]
      have begun := (s.missedOn p).periodBegun_spec b p
      obtain ⟨regs, mem, others, own⟩ := ((s.missedOn p).periodBegun b p).periodNext_spec p at_
      refine ⟨by rw [own]; exact begun.high, fun q other => (others q other).trans ((begun.others q other).trans (missed.others q other)),
        memKept_of_mem (mem.trans (begun.mem.trans missed.mem)), fun _ => ⟨by rw [own]; exact begun.going, ?_, ?_, ?_⟩, (fun h => nomatch h)⟩
      · rw [own, ← missed.cutting]
        exact begun.skipped
      · rw [own, ← missed.cutting, ← missed.skipLow]
        exact begun.low
      · have shadow : (s.phase p).shadow = ((s.missedOn p).phase p).shadow := by rw [missed.own]
        rw [shadow]
        exact (regs.fld (by simp [fireRegs]) p).trans begun.code
    | false =>
      rw [State.periodInstant_idle placedM (missed.isRunning.trans running)]
      generalize named : State.onPhase (s.missedOn p) p _ = u
      obtain ⟨regs, mem, others, own⟩ := u.periodNext_spec p at_
      have off : (u.phase p).high = false ∧ (u.phase p).low = false ∧ (u.phase p).going = false ∧ u.regs = (s.missedOn p).regs
          ∧ u.mem = (s.missedOn p).mem ∧ ∀ q, q ≠ p → u.phase q = (s.missedOn p).phase q := by
        rw [← named]
        exact ⟨by simp, by simp, by simp, rfl, rfl, fun q other => State.phase_onPhase_other _ _ other⟩
      obtain ⟨high, low, going, regs', mem', others'⟩ := off
      refine ⟨by rw [own]; exact high, fun q other => (others q other).trans ((others' q other).trans (missed.others q other)),
        memKept_of_mem (mem.trans (mem'.trans missed.mem)), (fun h => nomatch h),
        fun _ => ⟨by rw [own]; exact low, by rw [own]; exact going, ?_⟩⟩
      have kept : RegsKept fireRegs (s.missedOn p) u := regsKept_of_regs regs'
      exact (missed.regs.trans (kept.trans regs)) .FRG_PH_DAC p (by simp [fireRegs])
  case on =>
    intro s p b runs placed going skipped edged may cut
    refine congrArg Host.Outcome.next ((State.live_runs runs).trans ?_)
    rw [placed]
    exact (if_neg (by simp [edged])).trans (if_pos (by rw [going, skipped, may, cut]; rfl))
  case trip =>
    intro s p at_ b cs runs placed high blanked level
    have taken : exec (.peakTrip p cs at_) s = .next (if (s.phase p).mark then
          (s.onPhase p fun y => { y with high := false, full := y.full + 1, opens := 0 }).bumpSat F.FRG_PH_STAT_LIMIT_CNT p
        else ((if p < 48 then s.count 9 (80 + p) else s.count 14 (5 + (p - 48))).onPhase p
          fun y => { y with high := false, full := 0, opens := 0 }).seenTrip b p) := by
      refine congrArg Host.Outcome.next ((State.live_runs runs).trans ?_)
      rw [placed]
      exact if_pos (by simp [high, blanked, level])
    refine ⟨_, taken, ?_⟩
    split
    · next mark => exact ⟨by simp, fun _ => by simp, (fun h => by simp [mark] at h), by simp, memKept_of_mem rfl⟩
    · next mark =>
      generalize named : State.onPhase _ p _ = u
      have ended : (u.phase p).high = false ∧ u.regs = s.regs ∧ u.mem = s.mem := by
        rw [← named]
        exact ⟨by simp, by split <;> rfl, by split <;> rfl⟩
      obtain ⟨low, regs, mem⟩ := ended
      obtain ⟨regs', mem', own⟩ := u.seenTrip_spec b p
      exact ⟨by rw [own, low], (fun h => absurd h mark), fun _ => regsKept_of_regs (regs'.trans regs), cellsKept_of_regs (regs'.trans regs),
        memKept_of_mem (mem'.trans mem)⟩
  case maxOn =>
    intro s p b steps runs placed high late
    have taken : exec (.maxOnTime p steps) s = .next
        (((s.onPhase p fun y => { y with high := false, full := y.full + 1 }).bumpSat F.FRG_PH_STAT_MAXD_CNT p).openTest b p) := by
      refine congrArg Host.Outcome.next ((State.live_runs runs).trans ?_)
      rw [placed]
      exact if_pos (by simp [high, late])
    refine ⟨_, taken, ?_⟩
    generalize named : State.bumpSat _ _ p = u
    have counted : (u.phase p).high = false ∧ u.phaseBay p = some b
        ∧ u.fld F.FRG_PH_STAT_MAXD_CNT p = min (s.fld F.FRG_PH_STAT_MAXD_CNT p + 1) (2 ^ F.FRG_PH_STAT_MAXD_CNT.width - 1) ∧ u.mem = s.mem := by
      rw [← named]
      refine ⟨by simp, Eq.trans ?_ placed, by simp, rfl⟩
      refine phaseBay_congr rfl ?_
      exact State.reg_setFld_other _ (by decide)
    obtain ⟨low, placedU, count, mem⟩ := counted
    obtain ⟨low', count', mem'⟩ := u.openTest_spec placedU low
    exact ⟨low', count'.trans count, memKept_of_mem (mem'.trans mem)⟩
  case lowSide =>
    intro s p runs going edged low there
    exact congrArg Host.Outcome.next ((State.live_runs runs).trans (if_pos (by rw [going, edged, low, there]; rfl)))
  case valley =>
    intro s p at_ runs
    have taken : exec (.valley p at_) s = .next (if (s.phase p).edged then s else (s.missedOn p).substitute p 3 at_) :=
      congrArg Host.Outcome.next (State.live_runs runs)
    refine ⟨_, taken, ?_⟩
    split
    · exact ⟨rfl, fun _ => ⟨rfl, rfl⟩, fun _ => rfl, RegsKept.refl _ s, memKept_of_mem rfl⟩
    · next open_ =>
      have missed := (s.missedOn_spec p).fire (State.substitute_fire _ p 3 at_)
      exact ⟨missed.bays, missed.gates, fun h => absurd h open_, missed.regs, memKept_of_mem missed.mem⟩

end Sys2Proof.Machine
end

section
/-! SUPPORT. The Joinery loader: its commands, the check of an image, and the statement on them. -/

namespace Sys2Proof.Machine

open Sys2Proof

variable {s t u : State} {who : Initiator} {c : Option (Nat × Nat)}

/-! ### The status code of the loader -/

theorem State.jnyCode_regs (s : State) (code sec unit : Nat) : RegsKept [.JNY_ERR] s (s.jnyCode code sec unit) := by simp [State.jnyCode]

theorem State.jnyCode_code (s : State) (code sec unit : Nat) : (s.jnyCode code sec unit).fld F.JNY_ERR_CODE = code % 2 ^ 16 := by
  simp [State.jnyCode, Fld.width]

theorem State.jnyCode_state (s : State) (code sec unit : Nat) : (s.jnyCode code sec unit).jnyState = s.jnyState :=
  (s.jnyCode_regs code sec unit).fld (by decide) 0

theorem State.jnyCode_eq (s : State) (code sec unit : Nat) : s.jnyCode code sec unit
    = { s with regs := (s.jnyCode code sec unit).regs, reports := (s.jnyCode code sec unit).reports } := rfl

/-- The loader's STATE after it was set. -/
theorem State.jnyState_set (s : State) (n : Nat) : (s.setFld F.JNY_STAT_STATE 0 n).jnyState = n % 2 ^ F.JNY_STAT_STATE.width := by simp [State.jnyState]

/-! ### Commands (R58, R65) -/

/-- What a refused command shows: 0109h and nothing else. -/
structure LoaderRefused (who : Initiator) (s t : State) : Prop where
  code : t.fld F.JNY_ERR_CODE = 0x0109
  same : t = { served s who with regs := t.regs, reports := t.reports, resp := .done }
  regs : RegsKept [.JNY_ERR] s t

theorem loaderRefused_jnyCode (s : State) (who : Initiator) : LoaderRefused who s { (served s who).jnyCode 0x0109 with resp := .done } := by
  obtain ⟨c, counted⟩ := served_scb s who 4
  refine ⟨((served s who).jnyCode_code 0x0109 0 0), rfl, ?_⟩
  rw [counted]
  exact State.jnyCode_regs { s with scb := c } 0x0109 0 0

/-- What an accepted STAGE does. -/
theorem State.stage_spec (idle : s.jnyState = 0) : s.stage.jnyState = 1
    ∧ s.stage.jny = { s.jny with checking := some (s.pair .JNY_STAGE_ADDR_LO .JNY_STAGE_ADDR_HI, s.fld F.JNY_STAGE_LEN_LEN) }
    ∧ RegsKept [.JNY_STAT, .JNY_ERR] s s.stage ∧ s.stage.mem = s.mem := by
  have accepts : s.stage = ((s.setFld F.JNY_STAT_STATE 0 1).onJny fun j => { j with
      checking := some (s.pair .JNY_STAGE_ADDR_LO .JNY_STAGE_ADDR_HI, s.fld F.JNY_STAGE_LEN_LEN) }).jnyCode 0x0100 := if_neg (by simp [idle])
  rw [accepts]
  refine ⟨(State.jnyCode_state _ 0x0100 0 0).trans (s.jnyState_set 1), rfl, ?_, rfl⟩
  refine RegsKept.trans (u := s.setFld F.JNY_STAT_STATE 0 1) (by simp) ?_
  exact (State.jnyCode_regs (s.setFld F.JNY_STAT_STATE 0 1) 0x0100 0 0).mono (by simp)

/-- What an accepted CANCEL does. -/
theorem State.cancel_spec (pending : s.jnyState = 2) : s.cancel.jnyState = 0
    ∧ s.cancel.jny = { s.jny with waiting := none, scheduled := false, dropClaims := true } ∧ RegsKept [.JNY_STAT] s s.cancel ∧ s.cancel.mem = s.mem := by
  have accepts : s.cancel = (s.setFld F.JNY_STAT_STATE 0 0).onJny fun j => { j with waiting := none, scheduled := false, dropClaims := true } :=
    if_pos pending
  rw [accepts]
  exact ⟨s.jnyState_set 0, rfl, by simp [State.onJny], rfl⟩

/-- A number written little-endian reads back. -/
theorem State.le_setLe (s : State) (a n v : Nat) : (s.setLe a n v).le a n = v % 2 ^ (8 * n) := by
  rw [State.le, State.setLe, State.bytes_setBytes_of_length s a (length_leBytes n v), leNat_leBytes]

theorem State.floor_lt (s : State) : s.floor < 2 ^ 32 := by
  have small := leNat_lt (s.bytes 0x21D00008 4)
  exact small

theorem State.floor_setLe (s : State) {v : Nat} (small : v < 2 ^ 32) : (s.setLe 0x21D00008 4 v).floor = v := by
  unfold State.floor
  rw [State.le_setLe]
  exact Nat.mod_eq_of_lt small

theorem State.setLe_eq (s : State) (a n v : Nat) : s.setLe a n v = { s with mem := (s.setLe a n v).mem, ecc := (s.setLe a n v).ecc } := s.setBytes_eq a _

theorem State.byte_setLe_outside (s : State) {a n x : Nat} (v : Nat) (apart : x < a ∨ a + n ≤ x) : (s.setLe a n v).byte x = s.byte x :=
  s.byte_setBytes_outside a (leBytes n v) x (by rwa [length_leBytes])

/-- RAISE_FLOOR in IDLE: the floor is only ever raised. -/
theorem State.raiseFloor_spec (idle : s.jnyState = 0) : s.raiseFloor.floor = max s.floor (s.reg .JNY_ACTIVE_SERIAL).toNat
    ∧ (∀ a, a < 0x21D00008 ∨ 0x21D0000C ≤ a → s.raiseFloor.byte a = s.byte a)
    ∧ s.raiseFloor = { s with mem := s.raiseFloor.mem, ecc := s.raiseFloor.ecc } := by
  have raises : s.raiseFloor = s.setLe 0x21D00008 4 (max s.floor (s.reg .JNY_ACTIVE_SERIAL).toNat) := if_pos idle
  rw [raises]
  exact ⟨s.floor_setLe (max_lt s.floor_lt (s.reg .JNY_ACTIVE_SERIAL).isLt), fun a apart => s.byte_setLe_outside _ apart, s.setLe_eq _ _ _⟩

/-! ### The check of a staged image (R58, R59) -/

theorem State.setBytes_jny (s : State) (a : Nat) (b : List Byte) : (s.setBytes a b).jny = s.jny := by rw [s.setBytes_eq a b]

theorem State.loadCode_kept (s : State) (m : Image) (e : Nat) (bankB : Bool) : (s.loadCode m e bankB).jny = s.jny ∧ (s.loadCode m e bankB).regs = s.regs := by
  unfold State.loadCode
  split
  · exact ⟨rfl, rfl⟩
  · exact ⟨by rw [State.setBytes_jny, State.setBytes_jny], by rw [State.setBytes_regs, State.setBytes_regs]⟩

/-- The image in the inactive bank, and the changed programs in the inactive banks of their engines. -/
def State.imageStored (s : State) (m : Image) : State :=
  (s.setBytes (bankBase !s.bankB) m.bytes).each (List.range s.engineCount) fun e t =>
    if engChanged s.jny.active m e then t.loadCode m e (!t.flag F.CLF_ENG_STAT_BANK e) else t

theorem State.imageStored_jny (s : State) (m : Image) : (s.imageStored m).jny = s.jny :=
  State.each_induct (P := fun t : State => t.jny = s.jny) (s.setBytes_jny _ _) fun e _ t h => by
    split
    · exact ((t.loadCode_kept m e _).1).trans h
    · exact h

theorem State.enterPending_eq (s : State) (m : Image) : s.enterPending m = (((s.imageStored m).setFld F.JNY_STAT_STATE 0 2).onJny fun j => { j with
    checking := none, dropClaims := false, scheduled := false
    waiting := some { image := m, claims := imageDiff s.jny.active m, newTable := s.newTable m, heats := 0 } }).jnyCode 0x0181 := by
  have count : (s.setBytes (bankBase !s.bankB) m.bytes).engineCount = s.engineCount := by rw [s.setBytes_eq]; rfl
  unfold State.enterPending State.imageStored
  rw [← count]

theorem State.enterPending_spec (s : State) (m : Image) : (s.enterPending m).jnyState = 2 ∧ (s.enterPending m).fld F.JNY_ERR_CODE = 0x0181
    ∧ (s.enterPending m).jny.checking = none ∧ (s.enterPending m).jny.active = s.jny.active
    ∧ (s.enterPending m).jny.waiting = some ⟨m, imageDiff s.jny.active m, s.newTable m, 0⟩ := by
  rw [State.enterPending_eq]
  have jny := s.imageStored_jny m
  generalize s.imageStored m = u at *
  refine ⟨(State.jnyCode_state _ 0x0181 0 0).trans (u.jnyState_set 2), State.jnyCode_code _ 0x0181 0 0, rfl, ?_, rfl⟩
  rw [← jny]
  rfl

theorem State.rejectImage_spec (s : State) (e : JnyErr) : (s.rejectImage e).jnyState = 0 ∧ (s.rejectImage e).fld F.JNY_ERR_CODE = e.1 % 2 ^ 16
    ∧ (s.rejectImage e).jny = { s.jny with checking := none } :=
  ⟨(State.jnyCode_state _ _ _ _).trans (s.jnyState_set 0), State.jnyCode_code _ _ _ _, rfl⟩

/-- The verdict on a staged image. -/
def State.imageJudged (s : State) (a n : Nat) : State :=
  if !s.stageable_ a n || s.eccIn a n then s.rejectImage (0x0101, 0, 0)
  else
    match s.imageErr (s.bytes a n) true with
    | some e => s.rejectImage e
    | none => s.enterPending (readImage (s.bytes a n))

theorem State.imageCheckDone_eq {a n : Nat} (staged : s.jny.checking = some (a, n)) : s.imageCheckDone = s.imageJudged a n := by
  unfold State.imageCheckDone
  rw [staged]
  rfl

theorem State.imageJudged_unreadable {a n : Nat} (bad : s.stageable_ a n = false ∨ s.eccIn a n = true) :
    s.imageJudged a n = s.rejectImage (0x0101, 0, 0) :=
  if_pos (by rcases bad with h | h <;> simp [h])

theorem State.imageJudged_fails {a n : Nat} {e : JnyErr} (stageable : s.stageable_ a n = true) (readable : s.eccIn a n = false)
    (fails : s.imageErr (s.bytes a n) true = some e) : s.imageJudged a n = s.rejectImage e := by
  refine (if_neg (by simp [stageable, readable])).trans ?_
  rw [fails]

theorem State.imageJudged_passes {a n : Nat} (stageable : s.stageable_ a n = true) (readable : s.eccIn a n = false)
    (passes : s.imageErr (s.bytes a n) true = none) : s.imageJudged a n = s.enterPending (readImage (s.bytes a n)) := by
  refine (if_neg (by simp [stageable, readable])).trans ?_
  rw [passes]

theorem State.imageJudged_kept (s : State) (a n : Nat) : (s.imageJudged a n).jny.checking = none ∧ (s.imageJudged a n).jny.active = s.jny.active := by
  have rejects (e : JnyErr) : (s.rejectImage e).jny.checking = none ∧ (s.rejectImage e).jny.active = s.jny.active := ⟨rfl, rfl⟩
  unfold State.imageJudged
  split
  · exact rejects _
  · split
    · exact rejects _
    · obtain ⟨-, -, checking, active, -⟩ := s.enterPending_spec (readImage (s.bytes a n))
      exact ⟨checking, active⟩

/-! ### The statement -/

/-- Settles O14: each command in its state and outside it, and the verdict on the staged image. -/
theorem loaderCommandsFollowTheLoaderState : Obligations.LoaderCommandsFollowTheLoaderState := by
  unfold Obligations.LoaderCommandsFollowTheLoaderState
  refine ⟨?stage, ?cancel, ?raise, ?refused, ?check⟩
  case stage =>
    intro s who reaches idle
    refine ⟨_, congrArg Host.Outcome.next (rowWrite_reaches s who _ _ _ reaches), ?_⟩
    obtain ⟨c, counted⟩ := served_scb s who 4
    rw [counted]
    obtain ⟨state, jny, regs, mem⟩ := State.stage_spec (s := { s with scb := c }) idle
    exact ⟨state, rfl, jny, regs, memKept_of_mem mem⟩
  case cancel =>
    intro s who reaches pending
    refine ⟨_, congrArg Host.Outcome.next (rowWrite_reaches s who _ _ _ reaches), ?_⟩
    obtain ⟨c, counted⟩ := served_scb s who 4
    rw [counted]
    obtain ⟨state, jny, regs, mem⟩ := State.cancel_spec (s := { s with scb := c }) pending
    exact ⟨state, rfl, jny, regs, memKept_of_mem mem⟩
  case raise =>
    intro s who reaches idle
    refine ⟨_, congrArg Host.Outcome.next (rowWrite_reaches s who _ _ _ reaches), ?_⟩
    obtain ⟨c, counted⟩ := served_scb s who 4
    rw [counted]
    obtain ⟨floor, bytes, same⟩ := State.raiseFloor_spec (s := { s with scb := c }) idle
    refine ⟨floor, bytes, ?_⟩
    exact congrArg (fun t : State => { t with resp := .done }) same
  case refused =>
    intro c s who reaches outside
    have shows (f : State → State) (taken : exec c s = .next (s.rowWrite who (Reg.row .JNY_CMD).win (Reg.at .JNY_CMD 0) f))
        (refuses : f (served s who) = (served s who).jnyCode 0x0109) : ∃ t, exec c s = .next t ∧ LoaderRefused who s t := by
      refine ⟨_, taken.trans (congrArg Host.Outcome.next (rowWrite_reaches s who _ _ _ reaches)), ?_⟩
      rw [refuses]
      exact loaderRefused_jnyCode s who
    obtain ⟨n, counted⟩ := served_scb s who 4
    have state : (served s who).jnyState = s.jnyState := by rw [counted]; rfl
    have refused : ∃ t, exec c s = .next t ∧ LoaderRefused who s t := by
      rcases outside with ⟨rfl, busy⟩ | ⟨rfl, other⟩ | ⟨rfl, busy⟩
      · exact shows (fun t => t.stage) rfl (if_pos (by rwa [state]))
      · exact shows (fun t => t.cancel) rfl (if_neg (by rwa [state]))
      · exact shows (fun t => t.raiseFloor) rfl (if_neg (by rwa [state]))
    obtain ⟨t, taken, code, same, regs⟩ := refused
    exact ⟨t, taken, code, same, regs⟩
  case check =>
    intro s a n runs staged
    have taken : exec .imageCheckDone s = .next (s.imageJudged a n) := by
      rw [← State.imageCheckDone_eq staged]
      exact congrArg Host.Outcome.next (State.live_runs runs)
    obtain ⟨checking, active⟩ := s.imageJudged_kept a n
    refine ⟨_, taken, checking, active, fun bad => ?_, fun stageable readable => ⟨fun e fails => ?_, fun passes => ?_⟩⟩
    · rw [State.imageJudged_unreadable bad]
      obtain ⟨state, code, jny⟩ := s.rejectImage_spec (0x0101, 0, 0)
      exact ⟨state, code, by rw [jny]⟩
    · rw [State.imageJudged_fails stageable readable fails]
      obtain ⟨state, code, -⟩ := s.rejectImage_spec e
      exact ⟨state, code⟩
    · rw [State.imageJudged_passes stageable readable passes]
      obtain ⟨state, code, -, -, waiting⟩ := s.enterPending_spec (readImage (s.bytes a n))
      exact ⟨state, code, waiting⟩

end Sys2Proof.Machine
end

section
/-! SUPPORT. The commit of an image: what each part of it leaves of the loader, and the statement on a pending image. -/

namespace Sys2Proof.Machine

open Sys2Proof

variable {s t u : State}

/-! ### Changes outside the loader -/

/-- A register keeps its words at every index. -/
def RegSame (r : Reg) (s t : State) : Prop := ∀ i, t.reg r i = s.reg r i

variable {r : Reg}

theorem RegSame.refl (r : Reg) (s : State) : RegSame r s s := fun _ => rfl

theorem RegSame.trans (h : RegSame r s u) (k : RegSame r u t) : RegSame r s t := fun i => (k i).trans (h i)

theorem RegsKept.same {rs : List Reg} (h : RegsKept rs s t) (other : r ∉ rs) : RegSame r s t := fun i => h r i other

@[simp] theorem regSame_self : RegSame r s s := RegSame.refl r s

@[simp] theorem regSame_setReg {q : Reg} {i : Nat} {w : W32} (other : r ≠ q) : RegSame r s (u.setReg q i w) ↔ RegSame r s u :=
  forall_congr' fun j => by rw [u.reg_setReg_name i j other w]

@[simp] theorem regSame_setFld {f : Fld} {i n : Nat} (other : r ≠ f.reg) : RegSame r s (u.setFld f i n) ↔ RegSame r s u := regSame_setReg other

@[simp] theorem regSame_setFlag {f : Fld} {i : Nat} {b : Bool} (other : r ≠ f.reg) : RegSame r s (u.setFlag f i b) ↔ RegSame r s u :=
  regSame_setReg other

@[simp] theorem regSame_bumpSat {f : Fld} {i : Nat} (other : r ≠ f.reg) : RegSame r s (u.bumpSat f i) ↔ RegSame r s u := regSame_setReg other

@[simp] theorem regSame_setPair {lo hi : Reg} {i n : Nat} (otherLo : r ≠ lo) (otherHi : r ≠ hi) : RegSame r s (u.setPair lo hi i n) ↔ RegSame r s u :=
  (regSame_setReg otherHi).trans (regSame_setReg otherLo)

@[simp] theorem regSame_mk (pending mem ecc reports resp sent freeCtr sys jny acq frg clf trs blw asy mrt peg pnt net can fdl est emb cof scb pwr) :
    RegSame r s ⟨pending, u.regs, mem, ecc, reports, resp, sent, freeCtr, sys, jny, acq, frg, clf, trs, blw, asy, mrt, peg, pnt, net, can, fdl, est, emb,
      cof, scb, pwr⟩ ↔ RegSame r s u := Iff.rfl

@[simp] theorem regSame_report {c n : Nat} : RegSame r s (u.report c n) ↔ RegSame r s u := Iff.rfl

/-- A change that leaves the loader's record and JNY_BANK. -/
structure JnyKept (s t : State) : Prop where
  jny : t.jny = s.jny
  bank : RegSame .JNY_BANK s t

theorem JnyKept.refl (s : State) : JnyKept s s := ⟨rfl, RegSame.refl _ s⟩

theorem JnyKept.trans (h : JnyKept s u) (k : JnyKept u t) : JnyKept s t := ⟨k.jny.trans h.jny, h.bank.trans k.bank⟩

theorem JnyKept.report (h : JnyKept s u) (c n : Nat) : JnyKept s (u.report c n) := ⟨h.jny, h.bank⟩

theorem jnyKept_ite {c : Prop} [Decidable c] (h : JnyKept s u) (k : JnyKept s t) : JnyKept s (if c then u else t) := by split <;> assumption

theorem jnyKept_each {l : List Nat} {f : Nat → State → State} (next : ∀ k t, JnyKept t (f k t)) : JnyKept s (s.each l f) :=
  State.each_induct (P := JnyKept s) (JnyKept.refl s) fun k _ t h => h.trans (next k t)

theorem jnyKept_foldl {α : Type} {f : State → α → State} (next : ∀ t a, JnyKept t (f t a)) (l : List α) (s : State) : JnyKept s (l.foldl f s) := by
  induction l generalizing s with
  | nil => exact JnyKept.refl s
  | cons a l ih => exact (next s a).trans (ih (f s a))

theorem State.setBytes_loader (s : State) (a : Nat) (b : List Byte) : JnyKept s (s.setBytes a b) :=
  ⟨s.setBytes_jny a b, fun i => by rw [State.reg, State.reg, s.setBytes_regs]⟩

/-! ### The registers that an image sets -/

/-- The registers of the system island and of Truss that an image sets. -/
def State.siteRegs (s : State) (period depth cutoff ramp tol eta grace fall miss : Nat) : State :=
  let s := s.setFld F.SYS_STROKE_CFG_STROKE_PERIOD 0 period
  let s := (((s.setFld F.TRS_CFG_DEPTH 0 depth).setFld F.TRS_CFG_CUTOFF 0 cutoff).setFld F.TRS_CFG_RAMP_STD 0 ramp).setFld F.TRS_CFG_DEM_TOL 0 tol
  (((s.setFld F.TRS_GRID_CFG_ETA 0 eta).setFld F.TRS_GRID_CFG_GRACE 0 grace).setFld F.TRS_GRID_CFG_FALLBACK 0 fall).setFld F.TRS_GRID_CFG_MISS_LIM 0 miss

theorem State.siteRegs_loader (s : State) (a b c d e f g h i : Nat) : JnyKept s (s.siteRegs a b c d e f g h i) :=
  ⟨rfl, by simp [State.siteRegs]⟩

theorem State.loadSite_loader (s : State) (m : Image) : JnyKept s (s.loadSite m) := by
  have listed (u : State) (f : Nat → Bool) (w : W32) :
      JnyKept u ((u.each (List.range 8) fun d t => t.setFlag F.TRS_PEER_STAT_LISTED d (f d)).setReg .BLW_DIE_CFG 0 w) :=
    JnyKept.trans (jnyKept_each (f := fun d t => t.setFlag F.TRS_PEER_STAT_LISTED d (f d)) fun d t => ⟨rfl, by simp⟩) ⟨rfl, by simp⟩
  exact (s.siteRegs_loader _ _ _ _ _ _ _ _ _).trans (listed _ _ _)

theorem State.loadAcq_loader (s : State) (old m : Image) (all : Bool) : JnyKept s (s.loadAcq old m all) := by
  unfold State.loadAcq
  dsimp only
  refine JnyKept.trans ?_ (jnyKept_each fun n t => by split <;> exact ⟨rfl, by simp [State.completed]⟩)
  refine JnyKept.trans ?_ (jnyKept_each fun k t => ⟨rfl, by simp⟩)
  exact jnyKept_each fun k t => ⟨rfl, by simp⟩

theorem State.modOwners_loader (s : State) : JnyKept s s.modOwners :=
  jnyKept_each fun m t => by split <;> exact ⟨rfl, by simp⟩

theorem State.assayClaim_loader (s : State) : JnyKept s s.assayClaim := by
  unfold State.assayClaim
  dsimp only
  refine JnyKept.trans ?_ (State.modOwners_loader _)
  refine JnyKept.trans ?_ (jnyKept_each fun m t => ⟨rfl, by simp⟩)
  refine jnyKept_foldl (fun t m => ?_) _ s
  exact ⟨rfl, by simp⟩

theorem State.claimInputs_loader (s : State) : JnyKept s s.claimInputs := by
  unfold State.claimInputs
  dsimp only
  refine JnyKept.trans ?_ (State.assayClaim_loader _)
  split <;> exact ⟨rfl, by simp⟩

theorem State.countBay_loader (s : State) (b : Nat) : JnyKept s (s.countBay b) := ⟨rfl, by simp [State.countBay]⟩

theorem State.loadForgeRegs_loader (s : State) (old m : Image) : JnyKept s (s.loadForgeRegs old m) := by
  unfold State.loadForgeRegs
  dsimp only
  refine JnyKept.trans ?_ (jnyKept_ite (jnyKept_each fun k t => t.countBay_loader k) (JnyKept.refl _))
  refine JnyKept.trans ?_ (jnyKept_each fun k t => by split <;> exact ⟨rfl, by simp⟩)
  refine JnyKept.trans ?_ (jnyKept_each fun p t => ?_)
  · refine JnyKept.trans (u := s.setReg .FRG_BAL_CFG 0 _) ⟨rfl, by simp⟩ (jnyKept_each fun k t => ?_)
    split <;> exact ⟨rfl, by simp [State.onBay]⟩
  · have cleared (v : State) (c : Prop) [Decidable c] : JnyKept v (if c then v else v.onPhase p fun _ => Phase.init) :=
      jnyKept_ite (JnyKept.refl v) ⟨rfl, by simp [State.onPhase]⟩
    have placed (a b : W32) : JnyKept t ((t.setReg .FRG_PH_CFG p a).setReg .FRG_PH_TIM p b) := ⟨rfl, by simp⟩
    have untrimmed (v : State) (f : Phase → Phase) : JnyKept v (if v.fld F.FRG_PH_CFG_TSRC p = 0 then
        ((v.onPhase p f).setFld F.FRG_PH_TRIM_TRIM p 0).setFlag F.FRG_PH_STAT_TSTALE p false else v) := by
      split <;> exact ⟨rfl, by simp [State.onPhase]⟩
    exact (placed _ _).trans ((cleared _ _).trans (untrimmed _ _))

theorem State.showMonitors_loader (s : State) (m : Image) (e : Nat) : JnyKept s (s.showMonitors m e) :=
  jnyKept_each fun k t => by split <;> exact ⟨rfl, by simp⟩

theorem State.setStopped_loader (s : State) (e : Nat) (on : Bool) : JnyKept s (s.setStopped e on) := by
  unfold State.setStopped
  split <;> exact ⟨rfl, by simp⟩

theorem State.loadWindow_loader (s : State) (m : Image) (e : Nat) : JnyKept s (s.loadWindow m e) := by
  unfold State.loadWindow
  split
  · exact JnyKept.refl s
  · exact s.setBytes_loader _ _

theorem State.freshEngine_loader (s : State) (m : Image) (e : Nat) : JnyKept s (s.freshEngine m e) := by
  have results (u : State) : JnyKept u (u.each (List.range 16) fun r t => (t.setReg .CLF_RES_LO (e * 16 + r) 0).setReg .CLF_RES_HI (e * 16 + r) 0) :=
    jnyKept_each fun k t => ⟨rfl, by simp⟩
  unfold State.freshEngine
  dsimp only
  refine JnyKept.trans ?_ (State.loadWindow_loader _ m e)
  have stopped (u : State) (v : State) (h : JnyKept u v) (n : Nat) (f : Engine → Engine) : JnyKept u (State.onEng (((((v.setStopped e false).setFld F.CLF_ENG_STAT_STATE e 0
      ).setFld F.CLF_ENG_STAT_STOP_CAUSE e 0).setFld F.CLF_ENG_STAT_OVR_CONSEC e 0).completed (.program e) |>.setFld F.CLF_ENG_STAT_FMT e n) e f) := by
    refine h.trans ((v.setStopped_loader e false).trans ?_)
    exact ⟨rfl, by simp [State.onEng, State.completed]⟩
  refine stopped _ _ ((results s).trans (jnyKept_each fun k t => ?_)) _ _
  split <;> exact ⟨rfl, by simp⟩

theorem State.loadEngines_loader (s : State) (old m : Image) : JnyKept s (s.loadEngines old m) :=
  jnyKept_each fun e t => by
    have switched (u : State) : JnyKept u (if engChanged old m e then u.setFld F.CLF_ENG_STAT_BANK e (1 - u.fld F.CLF_ENG_STAT_BANK e) else u) := by
      split <;> exact ⟨rfl, by simp⟩
    refine (switched t).trans ?_
    generalize (if engChanged old m e then t.setFld F.CLF_ENG_STAT_BANK e (1 - t.fld F.CLF_ENG_STAT_BANK e) else t) = u
    dsimp only
    split
    · exact u.freshEngine_loader m e
    · refine (u.showMonitors_loader m e).trans ?_
      generalize u.showMonitors m e = v
      split
      · exact (v.setStopped_loader e false).trans ⟨rfl, by simp [State.completed]⟩
      · exact JnyKept.refl v

/-! ### Points, rings, crosspoints, the networks -/

theorem State.loadRings_loader (s : State) (m : Image) (all : Bool) : JnyKept s (s.loadRings m all) :=
  jnyKept_each fun n t => by
    dsimp only
    split <;> split <;> exact ⟨rfl, by simp⟩

theorem State.loadPoints_loader (s : State) (old m : Image) : JnyKept s (s.loadPoints old m) := ⟨rfl, by simp [State.loadPoints]⟩

theorem State.renumberXps_loader (s : State) (old m : Image) : JnyKept s (s.renumberXps old m) := by
  unfold State.renumberXps
  dsimp only
  split
  · exact JnyKept.refl s
  · have record (u v : State) (h : JnyKept u v) (f : Trs → Trs) : JnyKept u (v.onTrs f) := ⟨h.jny, h.bank⟩
    refine record _ _ (jnyKept_each fun x t => ?_) _
    split <;> exact ⟨rfl, by simp [State.onTrs]⟩

theorem State.netLoad_loader (s : State) (m : Image) : JnyKept s (s.netLoad m) := by
  unfold State.netLoad
  dsimp only
  refine JnyKept.trans ?_ (jnyKept_each fun n t => by split <;> exact ⟨rfl, by simp [State.onPartner, State.onNet]⟩)
  exact jnyKept_each fun o t => ⟨rfl, by simp⟩

theorem State.canLoad_loader (s : State) (m : Image) : JnyKept s (s.canLoad m) :=
  jnyKept_each fun n t => by
    have synced (u : State) (c : Prop) [Decidable c] : JnyKept u (if c then u else ((u.setFld F.CAN_TT_STAT_SYNC n 0).setFld F.CAN_TT_STAT_MASTER n 0).onCan n
        fun x => { x with ref := none, window := false }) := by
      split <;> exact ⟨rfl, by simp [State.onCan]⟩
    have words (u : State) (a b c d e : W32) : JnyKept u (((((u.setReg .CAN_CFG n a).setReg .CAN_NBT n b).setReg .CAN_DBT n c).setReg .CAN_TT_CFG n d).setReg
        .CAN_TT_CYC n e) := ⟨rfl, by simp⟩
    have ringed (u : State) (c : Prop) [Decidable c] : JnyKept u (if c then u else u.onCan n fun x => { x with done := [], retries := [], cancel := [] }) := by
      split <;> exact ⟨rfl, by simp [State.onCan]⟩
    have shown_ (u : State) : JnyKept u (if u.flag F.CAN_CFG_EN n then u
        else u.setFld F.CAN_STAT_DISABLED 0 (withBit (u.fld F.CAN_STAT_DISABLED) n true)) := by
      split <;> exact ⟨rfl, by simp⟩
    exact (synced _ _).trans ((words _ _ _ _ _ _).trans ((ringed _ _).trans (shown_ _)))

theorem State.canRings_loader (s : State) : JnyKept s s.canRings :=
  jnyKept_each fun n t => by split <;> exact ⟨rfl, by simp [State.onCan]⟩

theorem State.fdlLoad_loader (s : State) (m : Image) : JnyKept s (s.fdlLoad m) := by
  unfold State.fdlLoad
  dsimp only
  refine JnyKept.trans ?_ (jnyKept_each fun a t => ?_)
  · have bands (u : State) (f : Nat → W32) (n : Nat) :
        JnyKept u ((u.each (List.range 4) fun k t => t.setReg .FDL_BAND_CFG k (f k)).setFld F.FDL_CURT_GROUP 0 n) :=
      JnyKept.trans (jnyKept_each (f := fun k t => t.setReg .FDL_BAND_CFG k (f k)) fun k t => ⟨rfl, by simp⟩) ⟨rfl, by simp⟩
    exact JnyKept.trans (u := s.setReg .FDL_CFG 0 _) ⟨rfl, by simp⟩ (bands _ _ _)
  · split
    · split <;> exact ⟨rfl, by simp [State.onNode, State.onFdl]⟩
    · exact ⟨rfl, by simp [State.onNode, State.onFdl]⟩

theorem State.portsOff_loader (s : State) (m : Image) : JnyKept s (s.portsOff m) :=
  jnyKept_each fun n t => by split <;> exact ⟨rfl, by simp⟩

/-! ### Safety, the battery, the cables, Truss -/

theorem State.chanOff_loader (s : State) (k : Nat) : JnyKept s (s.chanOff k) := by
  refine ⟨?_, (s.chanOff_test k).same (by simp [testRegs])⟩
  unfold State.chanOff
  dsimp only
  split <;> rfl

theorem State.mortiseTable_loader (s : State) (fresh : Nat → Bool) : JnyKept s (s.mortiseTable fresh) := by
  unfold State.mortiseTable
  dsimp only
  refine JnyKept.trans ?_ (jnyKept_each fun c t => by split <;> exact ⟨rfl, by simp⟩)
  refine JnyKept.trans ?_ (jnyKept_each fun n t => by split <;> exact ⟨rfl, by simp [State.onIn, State.onMrt]⟩)
  refine JnyKept.trans ?_ (jnyKept_each fun f t => by split <;> exact ⟨rfl, by simp⟩)
  exact ⟨rfl, by simp⟩

theorem State.mortiseCommit_loader (s : State) (old : List Byte) : JnyKept s (s.mortiseCommit old) := by
  unfold State.mortiseCommit
  dsimp only
  refine JnyKept.trans ?_ (State.mortiseTable_loader _ _)
  refine JnyKept.trans ?_ (jnyKept_each fun c t => ⟨rfl, by simp⟩)
  have record (u v : State) (h : JnyKept u v) (f : Mrt → Mrt) : JnyKept u (v.onMrt f) := ⟨h.jny, h.bank⟩
  exact record _ _ (jnyKept_each fun k t => t.chanOff_loader k) _

theorem State.writeCopy_loader (s : State) (k q learns : Nat) : JnyKept s (s.writeCopy k q learns) := s.setBytes_loader _ _

theorem State.batCommit_loader (s : State) (old : List Nat) : JnyKept s (s.batCommit old) :=
  jnyKept_each fun k t => by
    dsimp only
    split
    · split <;> exact ⟨rfl, by simp [State.onString, State.onEst]⟩
    · split
      · exact JnyKept.refl t
      · next r _ _ =>
        have enabled (u : State) : JnyKept u (((u.setFld F.EMB_STR_STAT_EN k 1).setFld F.EMB_STR_CAP_Q k r.rated).setFld F.EMB_STR_LEARN_LEARNS k 0) :=
          ⟨rfl, by simp⟩
        have record (u v : State) (h : JnyKept u v) (f : BatString → BatString) : JnyKept u (v.onString k f) := ⟨h.jny, h.bank⟩
        exact record _ _ ((enabled t).trans ((State.writeCopy_loader _ k _ _).trans (State.writeCopy_loader _ k _ _))) _

theorem State.cableStart_loader (s : State) (c : Nat) : JnyKept s (s.cableStart c) := by
  unfold State.cableStart
  split <;> exact ⟨rfl, by simp [State.onCable, State.onBlw]⟩

theorem State.publishLimit_loader (s : State) (x : Nat × Nat × List Nat) : JnyKept s (s.publishLimit x) := by
  unfold State.publishLimit
  dsimp only
  refine JnyKept.trans (u := s.setFld F.BLW_OUT_LIM_LIMIT x.1 _) ⟨rfl, by simp⟩ (jnyKept_foldl (fun t c => ?_) _ _)
  exact ⟨rfl, by simp⟩

theorem State.noCable_loader (s : State) : JnyKept s s.noCable :=
  jnyKept_foldl (fun t o => (t.publishLimit_loader (o, 0, List.replicate 16 0)).report 0x0607 o) _ s

theorem State.trussReload_loader (s : State) : JnyKept s s.trussReload := by
  have state (u : State) (c d : Prop) [Decidable c] [Decidable d] (n : Nat) :
      JnyKept u (if c then u.setFld F.TRS_STAT_STATE 0 0 else if d then u.setFld F.TRS_STAT_STATE 0 n else u) := by
    split
    · exact ⟨rfl, by simp⟩
    · split <;> exact ⟨rfl, by simp⟩
  have window (u : State) (f : Trs → Trs) : JnyKept u (u.onTrs f).showWindow := ⟨rfl, by simp [State.showWindow, State.onTrs]⟩
  unfold State.trussReload
  dsimp only
  refine JnyKept.trans ?_ (window _ _)
  exact state s _ _ _

/-! ### The whole structure (R61, R62) -/

/-- The image is the active structure and JNY_BANK is as before. -/
structure Activated (m : Image) (s t : State) : Prop where
  active : t.jny.active = m
  bank : RegSame .JNY_BANK s t

theorem Activated.then {m : Image} (h : Activated m s u) (k : JnyKept u t) : Activated m s t := ⟨k.jny ▸ h.active, h.bank.trans k.bank⟩

theorem State.activate_spec (s : State) (m : Image) : Activated m s (s.activate m) := by
  have taken : Activated m s (((s.onJny fun j => { j with active := m }).setReg .JNY_ACTIVE_SERIAL 0 (BitVec.ofNat 32 m.serial)).setPair
      .JNY_ACTIVE_ID_LO .JNY_ACTIVE_ID_HI 0 m.ident) := ⟨rfl, by simp [State.onJny]⟩
  exact taken.then ((State.loadSite_loader _ m).trans ((State.netLoad_loader _ m).trans ((State.canLoad_loader _ m).trans ((State.canRings_loader _).trans
    ((State.portsOff_loader _ m).trans (State.fdlLoad_loader _ m))))))

theorem State.loadStructure_spec (s : State) (m : Image) : Activated m s (s.loadStructure m) := by
  have moved (u : State) (c : Bool) : JnyKept u (u.when c State.redeliver) := by
    cases c with
    | true => exact ⟨rfl, RegSame.refl _ u⟩
    | false => exact JnyKept.refl u
  have safety (u : State) (c : Prop) [Decidable c] (old : List Byte) : JnyKept u (if c then u.mortiseCommit old else u) := by
    split
    · exact u.mortiseCommit_loader old
    · exact JnyKept.refl u
  have cables (u : State) (l : List Nat) (c : Nat → Bool) : JnyKept u (u.each l fun k t => if c k then t else t.cableStart k) :=
    jnyKept_each fun k t => by
      split
      · exact JnyKept.refl t
      · exact t.cableStart_loader k
  have load (u : State) (c : Bool) : JnyKept u (if c then u.showLoad else u) := by
    split <;> exact ⟨rfl, by simp [State.showLoad]⟩
  have active (c : Bool) : Activated m s (((((s.loadRings m false).when c State.redeliver).loadPoints s.jny.active m).renumberXps s.jny.active m
      ).activate m) := by
    have before : JnyKept s ((((s.loadRings m false).when c State.redeliver).loadPoints s.jny.active m).renumberXps s.jny.active m) :=
      (s.loadRings_loader m false).trans ((moved _ c).trans ((State.loadPoints_loader _ s.jny.active m).trans (State.renumberXps_loader _ s.jny.active m)))
    obtain ⟨active, bank⟩ := State.activate_spec ((((s.loadRings m false).when c State.redeliver).loadPoints s.jny.active m).renumberXps s.jny.active m) m
    exact ⟨active, before.bank.trans bank⟩
  unfold State.loadStructure
  dsimp only
  refine Activated.then ?_ (load _ _)
  refine Activated.then ?_ ((State.noCable_loader _).trans (State.trussReload_loader _))
  refine Activated.then ?_ (cables _ _ _)
  refine Activated.then ?_ (State.batCommit_loader _ _)
  refine Activated.then ?_ (safety _ _ _)
  refine Activated.then ?_ (State.loadEngines_loader _ _ m)
  refine Activated.then ?_ ((State.claimInputs_loader _).trans (State.loadForgeRegs_loader _ _ m))
  exact (active _).then (State.loadAcq_loader _ _ m false)

/-! ### The commit -/

theorem State.commitTable_loader (s : State) (m : Image) : RegSame .JNY_BANK s (s.commitTable m) := by
  unfold State.commitTable
  split
  · simp [State.onJny]
  · exact RegSame.refl _ s

/-- The selector word names a bank, and so does JNY_BANK. -/
theorem State.writeSelector_bank (s : State) (b : Bool) : (s.writeSelector b).bankB = b := by
  cases b <;> simp [State.writeSelector, State.bankB, Fld.width, bitOf]

theorem bankB_of_same (bank : RegSame .JNY_BANK s t) : t.bankB = s.bankB := by
  unfold State.bankB State.fld
  rw [show t.reg (F.JNY_BANK_ACTIVE).reg 0 = s.reg (F.JNY_BANK_ACTIVE).reg 0 from bank 0]

/-- The loader after the commit: idle, with its claims released. -/
def State.loaderIdle (t : State) : State :=
  (((t.setFld F.JNY_STAT_STATE 0 0).setFld F.JNY_STAT_SOURCE 0 0).onJny fun j => { j with
    waiting := none, scheduled := false, claimed := [], dropClaims := false }).jnyCode 0x0100

/-- What the loader shows after a commit. -/
structure LoaderIdle (t u : State) : Prop where
  active : u.jny.active = t.jny.active
  waiting : u.jny.waiting = none
  claimed : u.jny.claimed = []
  state : u.jnyState = 0
  source : u.fld F.JNY_STAT_SOURCE = 0
  bank : RegSame .JNY_BANK t u

theorem State.loaderIdle_spec (t : State) : LoaderIdle t t.loaderIdle := by
  have kept (u : State) : RegsKept [.JNY_ERR] u (u.jnyCode 0x0100) := u.jnyCode_regs _ _ _
  refine ⟨rfl, rfl, rfl, ((kept _).fld (by decide) 0).trans ?_, ((kept _).fld (by decide) 0).trans ?_, RegSame.trans ?_ ((kept _).same (by decide))⟩
  · simp [State.onJny]
  · simp [State.onJny]
  · simp [State.onJny]

theorem State.commitIfDue_eq {p : PendingImage} (waiting : s.jny.waiting = some p) (due : s.jny.scheduled = true) :
    s.commitIfDue = (((s.commitTable p.image).writeSelector !s.bankB).loadStructure p.image).loaderIdle := by
  refine (if_pos due).trans ?_
  unfold State.commitImage
  rw [waiting]
  rfl

/-! ### The statement -/

/-- Settles O15: claims and the time-out by the heats that the image waits, the commit at its marker and what it makes. -/
theorem pendingImagesAreClaimedCommittedOrAbandoned : Obligations.PendingImagesAreClaimedCommittedOrAbandoned := by
  unfold Obligations.PendingImagesAreClaimedCommittedOrAbandoned
  refine ⟨?claims, ?fresh, ?abandons, ?waits, ?marker, ?commits⟩
  case claims =>
    intro s p runs waiting heats
    have taken : s.claimAll = s.onJny fun j => { j with claimed := p.claims.map fun c => c.2 } := by
      unfold State.claimAll
      rw [waiting]
      exact if_pos heats
    exact congrArg Host.Outcome.next ((State.live_runs runs).trans taken)
  case fresh =>
    intro s p waiting heats
    have none_ : s.claimAll = s := by
      unfold State.claimAll
      rw [waiting]
      exact if_neg (by omega)
    rw [exec, execResourceClaim, none_, State.live, ite_self]
  case abandons =>
    intro s p runs waiting late
    have taken : ∃ sec unit, s.busyTimeout = ((s.setFld F.JNY_STAT_STATE 0 0).onJny fun j => { j with
        waiting := none, scheduled := false, dropClaims := true }).jnyCode 0x0106 sec unit := by
      unfold State.busyTimeout
      rw [waiting]
      dsimp only
      rw [if_neg (by omega)]
      split
      · exact ⟨_, _, rfl⟩
      · exact ⟨0, 0, rfl⟩
    obtain ⟨sec, unit, taken⟩ := taken
    refine ⟨_, congrArg Host.Outcome.next ((State.live_runs runs).trans taken), ?_, State.jnyCode_code _ 0x0106 sec unit, rfl, ?_, memKept_of_mem rfl⟩
    · exact (State.jnyCode_state _ 0x0106 sec unit).trans (s.jnyState_set 0)
    · exact RegsKept.trans (u := s.setFld F.JNY_STAT_STATE 0 0) (by simp) ((State.jnyCode_regs (s.setFld F.JNY_STAT_STATE 0 0) 0x0106 sec unit).mono (by simp))
  case waits =>
    intro s p waiting early
    have none_ : s.busyTimeout = s := by
      unfold State.busyTimeout
      rw [waiting]
      exact if_pos early
    rw [exec, execBusyTimeout, none_, State.live, ite_self]
  case marker =>
    intro s x ticks free scheduled heat
    exact congrArg Host.Outcome.next (if_pos (by rw [ticks, free, scheduled, heat]; rfl))
  case commits =>
    intro s p waiting due
    rw [State.commitIfDue_eq waiting due]
    have bank := (s.commitTable p.image).writeSelector_bank (!s.bankB)
    generalize (s.commitTable p.image).writeSelector (!s.bankB) = u at *
    obtain ⟨active, same⟩ := u.loadStructure_spec p.image
    obtain ⟨active', waiting', claimed, state, source, same'⟩ := (u.loadStructure p.image).loaderIdle_spec
    exact ⟨active'.trans active, waiting', claimed, state, source, (bankB_of_same (same.trans same')).trans bank⟩

end Sys2Proof.Machine
end

section
/-! SUPPORT. Acquisition: the slots of a run, the delivery of a result, and the statement on runs. -/

namespace Sys2Proof.Machine

open Sys2Proof

variable {s t u : State} {n at_ : Nat} {r : Run} {x : SlotRec} {q : Seq}

/-! ### The start of a slot (R71, R72) -/

/-- The instant of the first sample that a slot keeps. -/
def State.firstSample (s : State) (n : Nat) (x : SlotRec) (at_ : Nat) : Nat :=
  gridUp (s.conv n).slow at_ + if x.input < 8 ∧ (s.conv n).input ≠ some x.input then (if (s.conv n).slow then 5 else 1) else 0

/-- The run at the start of a slot. -/
def State.slotBegun (s : State) (n : Nat) (r : Run) (x : SlotRec) (at_ : Nat) : Run :=
  { r with sample := s.firstSample n x at_, began := (s.now, gridUp (s.conv n).slow at_) }

theorem State.beginSlot_eq (slot : s.slotRec r = some x) (n at_ : Nat) : s.beginSlot n r at_ = s.onConv n fun c => { c with
    cur := some (s.slotBegun n r x at_), input := if x.input < 8 then some x.input else c.input } := by
  have settles : (if (decide (x.input < 8) && decide ((s.conv n).input ≠ some x.input)) = true then (if (s.conv n).slow then 5 else 1) else 0)
      = if x.input < 8 ∧ (s.conv n).input ≠ some x.input then (if (s.conv n).slow then 5 else 1) else 0 := by
    simp only [Bool.and_eq_true, decide_eq_true_eq]
  unfold State.beginSlot State.slotBegun State.firstSample
  rw [slot, ← settles]

theorem State.slotRec_congr (jny : t.jny = s.jny) (r : Run) : t.slotRec r = s.slotRec r := by
  unfold State.slotRec State.sequence State.body
  rw [jny]

/-- A run that leaves the queue begins its slot. -/
theorem State.takeRun_eq (slot : s.slotRec r = some x) (n at_ : Nat) : ∃ c, s.takeRun n r at_ = { s with acq := { s.acq with convs := c } }
    ∧ c.get n = { s.conv n with
      queue := (s.conv n).queue.filter fun y => decide (y ≠ r), cur := some (s.slotBegun n r x at_), input := if x.input < 8 then some x.input else (s.conv n).input }
    ∧ ∀ k, k ≠ n → c.get k = s.conv k := by
  have left : (s.onConv n fun c => { c with queue := c.queue.filter fun x => decide (x ≠ r) }).slotRec r = some x := slot
  have begun : (s.onConv n fun c => { c with queue := c.queue.filter fun x => decide (x ≠ r) }).slotBegun n r x at_ = s.slotBegun n r x at_ := by
    simp only [State.slotBegun, State.firstSample, State.conv_onConv_same]
    rfl
  refine ⟨(s.takeRun n r at_).acq.convs, ?_, ?_, fun k other => ?_⟩
  · rw [State.takeRun, State.beginSlot_eq left]
    rfl
  · change (s.takeRun n r at_).conv n = _
    rw [State.takeRun, State.beginSlot_eq left, State.conv_onConv_same, State.conv_onConv_same, begun]
  · change (s.takeRun n r at_).conv k = _
    rw [State.takeRun, State.beginSlot_eq left, State.conv_onConv_ne _ other, State.conv_onConv_ne _ other]

/-! ### A pair without a check (R86) -/

/-- No check of the pair is due or in progress. -/
structure NoCheck (s : State) (k : Nat) : Prop where
  due : (s.check k).due = false
  began : (s.check k).began = false

theorem NoCheck.tries (h : NoCheck s n) (at_ : Nat) : s.checkTry n at_ = s := if_neg (by simp [h.due])

theorem NoCheck.aborts (h : NoCheck s n) : s.checkAbort n = s := if_neg (by simp [h.began])

theorem NoCheck.free (h : NoCheck s (n / 2)) (at_ : Nat) : s.checkHolds n at_ = false := by
  unfold State.checkHolds
  simp [h.due, h.began]

theorem NoCheck.congr (h : NoCheck s n) (checks : t.acq.checks = s.acq.checks) : NoCheck t n := by
  obtain ⟨due, began⟩ := h
  have same : t.check n = s.check n := by rw [State.check, State.check, checks]
  exact ⟨same ▸ due, same ▸ began⟩

/-! ### The delivery of a result (R84) -/

theorem State.overruns_completed (s : State) (w : Work) : (s.completed w).overruns w = 0 := by
  unfold State.completed State.overruns
  have none_ : ((s.sys.overruns.filter fun c => decide (c.1 ≠ w)).find? fun c => decide (c.1 = w)) = none :=
    List.find?_eq_none.mpr fun c listed => by simpa using (List.mem_filter.mp listed).2
  dsimp only
  rw [none_]
  rfl

theorem State.writePoint_kept (s : State) (w : PointWrite) : (s.writePoint w).acq = s.acq ∧ (s.writePoint w).jny = s.jny := by
  have refused : (s.writerErr w.id).acq = s.acq ∧ (s.writerErr w.id).jny = s.jny := by
    unfold State.writerErr
    dsimp only
    split <;> exact ⟨rfl, rfl⟩
  unfold State.writePoint
  split
  · split
    · exact ⟨rfl, rfl⟩
    · exact refused
  · exact refused

theorem State.ringDeliver_kept (s : State) (n : Nat) (entry : List Byte) : (s.ringDeliver n entry).acq = s.acq ∧ (s.ringDeliver n entry).jny = s.jny := by
  unfold State.ringDeliver
  split
  · rw [State.ringPush_eq]
    exact ⟨rfl, rfl⟩
  · unfold State.ringLost
    dsimp only
    split <;> exact ⟨rfl, rfl⟩

theorem State.inputWord_kept (s : State) (e ofs : Nat) (w : W32) : (s.inputWord e ofs w).acq = s.acq ∧ (s.inputWord e ofs w).jny = s.jny := by
  unfold State.inputWord
  rw [State.setLe_eq]
  exact ⟨rfl, rfl⟩

/-- A delivery leaves the acquisition and the structure. -/
theorem State.deliver_kept (s : State) (x : SlotRec) (r : Run) (qual : Nat) (value : Int) :
    (s.deliver x r qual value).acq = s.acq ∧ (s.deliver x r qual value).jny = s.jny := by
  unfold State.deliver
  dsimp only
  split
  · exact s.inputWord_kept _ _ _
  · exact s.writePoint_kept _
  · exact s.ringDeliver_kept _ _
  · split <;> exact ⟨rfl, rfl⟩
  · exact ⟨rfl, rfl⟩

/-- A word in the input table of an engine, with its arrival bit; no other byte changes. -/
theorem State.inputWord_spec (s : State) (e ofs : Nat) (w : W32) : (s.inputWord e ofs w).le (engineBase e + ofs) 4 = w.toNat
    ∧ bitOf ((s.inputWord e ofs w).eng e).arrival (ofs / 4) = true
    ∧ ∀ a, a < engineBase e + ofs ∨ engineBase e + ofs + 4 ≤ a → (s.inputWord e ofs w).byte a = s.byte a := by
  refine ⟨?_, ?_, fun a apart => s.byte_setLe_outside _ apart⟩
  · exact (s.le_setLe (engineBase e + ofs) 4 w.toNat).trans (Nat.mod_eq_of_lt w.isLt)
  · unfold State.inputWord
    rw [State.eng, Arr.get_upd_same]
    exact bitOf_withBit_same _ _ _

/-! ### The next slot -/

/-- The next slot leaves memory and the engines, and goes on or ends the run. -/
theorem State.nextSlot_spec (found : s.sequence r.seq = some q) (free : NoCheck s (n / 2)) (at_ : Nat) :
    (s.nextSlot n r at_).mem = s.mem ∧ (s.nextSlot n r at_).clf = s.clf
    ∧ (r.slot + 1 < q.slots → ∃ y, ((s.nextSlot n r at_).conv n).cur = some y ∧ y.seq = r.seq ∧ y.slot = r.slot + 1 ∧ y.again = false)
    ∧ (q.slots ≤ r.slot + 1 → ((s.nextSlot n r at_).conv n).cur = none ∧ (s.nextSlot n r at_).overruns (.sequence r.seq) = 0) := by
  unfold State.nextSlot
  rw [found]
  dsimp only
  split
  · next more =>
    have slot : s.slotRec { r with slot := r.slot + 1, again := false } = some (acqSlot (s.body tyACQ) (q.first + (r.slot + 1))) := by
      unfold State.slotRec
      rw [found]
      rfl
    rw [free.free at_, if_neg (by simp), State.beginSlot_eq slot]
    exact ⟨rfl, rfl, fun _ => ⟨_, congrArg Conv.cur (s.conv_onConv_same n _), rfl, rfl, rfl⟩, fun last => absurd more (by omega)⟩
  · next last =>
    have ended : NoCheck (((s.onConv n fun c => { c with cur := none }).completed (.sequence r.seq)).setFld F.ACQ_SEQ_STAT_OVR_CONSEC r.seq 0) (n / 2) :=
      free.congr rfl
    rw [ended.tries at_]
    refine ⟨rfl, rfl, fun more => absurd more last, fun _ => ⟨?_, ?_⟩⟩
    · exact congrArg Conv.cur (s.conv_onConv_same n fun c => { c with cur := none })
    · exact s.overruns_completed (.sequence r.seq)

/-! ### A result (R83) -/

/-- The converter after a result: a word over the range is counted, and reported once. -/
def State.resultCounted (s : State) (n : Nat) (codes : List Int) (x : SlotRec) (qual : Nat) : State :=
  let t := if qual = 4 then
      let u := s.bumpSat F.ACQ_CNV_STAT_OVERRANGE n
      if (u.conv n).overSaid then u else (u.onConv n fun c => { c with overSaid := true }).report 0x0284 n
    else s
  if x.input < 8 then t.count 9 n codes.length else t

theorem State.resultCounted_kept (s : State) (n : Nat) (codes : List Int) (x : SlotRec) (qual : Nat) :
    (s.resultCounted n codes x qual).acq.checks = s.acq.checks ∧ (s.resultCounted n codes x qual).jny = s.jny
    ∧ (s.resultCounted n codes x qual).mem = s.mem := by
  unfold State.resultCounted
  dsimp only
  by_cases range : qual = 4 <;> by_cases input : x.input < 8
  · rw [if_pos range, if_pos input]
    split <;> exact ⟨rfl, rfl, rfl⟩
  · rw [if_pos range, if_neg input]
    split <;> exact ⟨rfl, rfl, rfl⟩
  · rw [if_neg range, if_pos input]
    exact ⟨rfl, rfl, rfl⟩
  · rw [if_neg range, if_neg input]
    exact ⟨rfl, rfl, rfl⟩

/-- QUAL of the result of a slot. -/
def State.slotQual (s : State) (n : Nat) (r : Run) (x : SlotRec) (codes : List Int) : Nat :=
  if x.input < 8 then s.convQual n r codes else s.modQual (x.input % 64) r

theorem exec_slotResult (runs : s.runs 4 = true) (cur : (s.conv n).cur = some r) (slot : s.slotRec r = some x) (codes : List Int) (at_ : Nat) :
    exec (.slotResult n codes at_) s = .next (((s.resultCounted n codes x (s.slotQual n r x codes)).deliver x r (s.slotQual n r x codes)
      (s.slotValue x codes)).nextSlot n r at_) := by
  refine congrArg Host.Outcome.next ((State.live_runs runs).trans ?_)
  rw [cur]
  dsimp only
  rw [slot]
  rfl

/-! ### The statement -/

/-- Settles O17: a run starts on a free converter, aborts a slot that is not urgent, a suspended slot restarts, and a result is delivered
before the next slot begins. -/
theorem runsStartRestartAndDeliverResults : Obligations.RunsStartRestartAndDeliverResults := by
  unfold Obligations.RunsStartRestartAndDeliverResults
  intro s n at_ r x runs due began slot
  have free : NoCheck s (n / 2) := ⟨due, began⟩
  refine ⟨fun idle unsuspended unwaited first => ?start, fun y busy first urgent calm after => ?abort, fun idle suspended => ?restart,
    fun codes q cur found => ?result⟩
  case start =>
    have taken : exec (.runStart n at_) s = .next (s.takeRun n r at_) := by
      refine congrArg Host.Outcome.next ((State.live_runs runs).trans ?_)
      rw [free.tries at_]
      dsimp only
      rw [show s.firstRun ((s.conv n).queue.filter fun r => notBefore (s.now, at_) (r.stroke, r.at_)) = some r from first]
      dsimp only
      rw [idle, free.aborts, free.free at_, unsuspended, unwaited]
      simp
    obtain ⟨c, same, own, others⟩ := State.takeRun_eq slot n at_
    refine ⟨_, taken, ?_⟩
    rw [same]
    refine ⟨congrArg Conv.queue own, congrArg Conv.cur own, rfl, others⟩
  case abort =>
    have taken : exec (.runStart n at_) s = .next (s.abortFor n y r at_) := by
      refine congrArg Host.Outcome.next ((State.live_runs runs).trans ?_)
      rw [free.tries at_]
      dsimp only
      rw [show s.firstRun ((s.conv n).queue.filter fun r => notBefore (s.now, at_) (r.stroke, r.at_)) = some r from first]
      dsimp only
      rw [busy]
      exact if_pos (by rw [urgent, calm, after]; rfl)
    obtain ⟨u, named⟩ : ∃ u, u = ((s.onConv n fun c => { c with susp := some y }).bumpSat F.ACQ_CNV_STAT_ABORTS n).count 9 (16 + n) := ⟨_, rfl⟩
    have slotU : u.slotRec r = some x := by rw [named]; exact slot
    have convU : u.conv n = { s.conv n with susp := some y } := by rw [named]; exact s.conv_onConv_same n _
    have begunU : u.slotBegun n r x at_ = s.slotBegun n r x at_ := by
      unfold State.slotBegun State.firstSample
      rw [convU, show u.now = s.now from by rw [named]; rfl]
    have cells : CellsKept [(.ACQ_CNV_STAT, n)] s u ∧ u.mem = s.mem
        ∧ u.fld F.ACQ_CNV_STAT_ABORTS n = min (s.fld F.ACQ_CNV_STAT_ABORTS n + 1) (2 ^ F.ACQ_CNV_STAT_ABORTS.width - 1) := by
      rw [named]
      exact ⟨by simp [State.onConv], rfl, by simp [State.onConv]⟩
    obtain ⟨c, same, own, -⟩ := State.takeRun_eq slotU n at_
    refine ⟨u.takeRun n r at_, taken.trans (by rw [named]; rfl), ?_⟩
    rw [same]
    refine ⟨(congrArg Conv.susp own).trans (by rw [convU]), (congrArg Conv.cur own).trans (by rw [begunU]; rfl), cells.2.2, cells.1,
      memKept_of_mem cells.2.1⟩
  case restart =>
    have slot' : (s.onConv n fun c => { c with susp := none }).slotRec { r with again := true } = some x := slot
    have taken : exec (.slotRestart n at_) s = .next ((s.onConv n fun c => { c with susp := none }).beginSlot n { r with again := true } at_) := by
      refine congrArg Host.Outcome.next ((State.live_runs runs).trans ?_)
      rw [idle, suspended]
      exact if_neg (by simp [free.free at_])
    refine ⟨_, taken, ?_⟩
    rw [State.beginSlot_eq slot']
    refine ⟨by simp, ?_, rfl, fun k other => (State.conv_onConv_ne _ other _).trans (s.conv_onConv_ne other _)⟩
    rw [State.conv_onConv_same]
    simp only [State.slotBegun, State.firstSample, State.conv_onConv_same]
    rfl
  case result =>
    refine ⟨_, exec_slotResult runs cur slot codes at_, ?_⟩
    obtain ⟨checks, jny, mem⟩ := s.resultCounted_kept n codes x (s.slotQual n r x codes)
    generalize s.resultCounted n codes x (s.slotQual n r x codes) = u at *
    obtain ⟨acq, jny'⟩ := u.deliver_kept x r (s.slotQual n r x codes) (s.slotValue x codes)
    have found' : (u.deliver x r (s.slotQual n r x codes) (s.slotValue x codes)).sequence r.seq = some q := by
      unfold State.sequence State.body
      rw [jny'.trans jny]
      exact found
    have free' := free.congr (t := u.deliver x r (s.slotQual n r x codes) (s.slotValue x codes)) (by rw [acq, checks])
    obtain ⟨mem', clf, more, last⟩ := State.nextSlot_spec found' free' at_
    refine ⟨more, last, fun engine => ?_⟩
    have delivered : u.deliver x r (s.slotQual n r x codes) (s.slotValue x codes) = u.inputWord (x.dest / 2 ^ 24 % 64) (x.dest % 2 ^ 18)
        (resultWord (s.slotQual n r x codes) r.stroke (s.slotValue x codes)) := by
      unfold State.deliver
      rw [engine]
      rfl
    obtain ⟨word, arrived, bytes⟩ := u.inputWord_spec (x.dest / 2 ^ 24 % 64) (x.dest % 2 ^ 18)
      (resultWord (s.slotQual n r x codes) r.stroke (s.slotValue x codes))
    rw [← delivered] at word arrived bytes
    generalize u.deliver x r (s.slotQual n r x codes) (s.slotValue x codes) = v at *
    have same := memKept_of_mem mem'
    refine ⟨⟨_, ?_, rfl⟩, ?_, fun a apart => (same a).trans ((bytes a apart).trans (memKept_of_mem mem a))⟩
    · exact (congrArg leNat (State.bytes_of_memKept same _ 4)).trans word
    · rw [State.eng, clf]
      exact arrived

end Sys2Proof.Machine
end

section
/-! SUPPORT. Acquisition: sequence control, the checks of a pair, the modulator inputs, and the statements on them. -/

namespace Sys2Proof.Machine

open Sys2Proof

variable {s t u : State} {who : Initiator} {n k at_ : Nat}

/-! ### LP (R73) -/

/-- A sequence bound to a converter lacks LP_OK. -/
def State.lacksLp (s : State) (n : Nat) : Bool :=
  (List.range (acqSeqs (s.body tyACQ))).any fun k => decide ((acqSeq (s.body tyACQ) k).cnv = n) && !(acqSeq (s.body tyACQ) k).lpOk

theorem State.lacksLp_iff : s.lacksLp n = true ↔ ∃ k < acqSeqs (s.body tyACQ), (acqSeq (s.body tyACQ) k).cnv = n ∧ (acqSeq (s.body tyACQ) k).lpOk = false := by
  simp [State.lacksLp]

/-- What a write of LP shows. -/
theorem State.lpWrite_spec (s : State) (n : Nat) (lp : Bool) : CellsKept [(.ACQ_CNV_CFG, n)] s (s.lpWrite n lp)
    ∧ s.lpWrite n lp = { s with regs := (s.lpWrite n lp).regs, reports := (s.lpWrite n lp).reports }
    ∧ ((lp && s.lacksLp n) = true → (s.lpWrite n lp).flag F.ACQ_CNV_CFG_LP n = false ∧ (s.lpWrite n lp).reports = s.reports ++ [⟨0x0204, n⟩])
    ∧ ((lp && s.lacksLp n) = false → (s.lpWrite n lp).flag F.ACQ_CNV_CFG_LP n = lp ∧ (s.lpWrite n lp).reports = s.reports) := by
  have eq : s.lpWrite n lp = if lp && s.lacksLp n then (s.setFlag F.ACQ_CNV_CFG_LP n false).report 0x0204 n else s.setFlag F.ACQ_CNV_CFG_LP n lp := rfl
  rw [eq]
  cases lp && s.lacksLp n with
  | true => exact ⟨by simp, rfl, fun _ => ⟨by simp, rfl⟩, (fun h => nomatch h)⟩
  | false => exact ⟨by simp, rfl, (fun h => nomatch h), fun _ => ⟨by simp, rfl⟩⟩

/-! ### The check of a pair (R86 to R89) -/

/-- What the judgement of a check shows. -/
structure CheckJudged (k : Nat) (bad : Bool) (s t : State) : Prop where
  turn : t.acq.turn.get k = (s.acq.turn.get k + 1) % 6
  checks : t.acq.checks = s.acq.checks
  cells : CellsKept [(.ACQ_CHK_STAT, k)] s t
  mem : t.mem = s.mem
  fails : bad = true → t.fld F.ACQ_CHK_STAT_CONSEC k = min (s.fld F.ACQ_CHK_STAT_CONSEC k + 1) (2 ^ F.ACQ_CHK_STAT_CONSEC.width - 1)
    ∧ t.fld F.ACQ_CHK_STAT_MISSES k = min (s.fld F.ACQ_CHK_STAT_MISSES k + 1) (2 ^ F.ACQ_CHK_STAT_MISSES.width - 1)
    ∧ t.reports = s.reports ++ [⟨0x0283, k⟩]
  passes : bad = false → t.fld F.ACQ_CHK_STAT_CONSEC k = 0 ∧ t.reports = s.reports

/-- What every check leaves of the counts. -/
theorem State.checkDone_spec (s : State) (k : Nat) (diff : Int) : (s.checkDone k diff).acq.turn.get k = (s.acq.turn.get k + 1) % 6
    ∧ (s.checkDone k diff).acq.checks = s.acq.checks ∧ CellsKept [(.ACQ_CHK_STAT, k)] s (s.checkDone k diff) ∧ (s.checkDone k diff).mem = s.mem
    ∧ (s.checkDone k diff).reports = s.reports
    ∧ (s.checkDone k diff).fld F.ACQ_CHK_STAT_CONSEC k = s.fld F.ACQ_CHK_STAT_CONSEC k
    ∧ (s.checkDone k diff).fld F.ACQ_CHK_STAT_MISSES k = s.fld F.ACQ_CHK_STAT_MISSES k := by
  unfold State.checkDone
  refine ⟨?_, rfl, ?_, rfl, rfl, ?_, ?_⟩
  · exact Arr.get_upd_same _ _ _
  · simp [State.onConv]
  · simp [State.onConv]
  · simp [State.onConv]

theorem State.checkMiss_spec (s : State) (k : Nat) (badA badB : Bool) : CellsKept [(.ACQ_CHK_STAT, k)] s (s.checkMiss k badA badB)
    ∧ (s.checkMiss k badA badB).acq = s.acq ∧ (s.checkMiss k badA badB).mem = s.mem
    ∧ (s.checkMiss k badA badB).fld F.ACQ_CHK_STAT_CONSEC k = min (s.fld F.ACQ_CHK_STAT_CONSEC k + 1) (2 ^ F.ACQ_CHK_STAT_CONSEC.width - 1)
    ∧ (s.checkMiss k badA badB).fld F.ACQ_CHK_STAT_MISSES k = min (s.fld F.ACQ_CHK_STAT_MISSES k + 1) (2 ^ F.ACQ_CHK_STAT_MISSES.width - 1)
    ∧ (s.checkMiss k badA badB).reports = s.reports ++ [⟨0x0283, k⟩] := by
  unfold State.checkMiss
  cases badA <;> cases badB <;> exact ⟨by simp [State.when], rfl, rfl, by simp [State.when], by simp [State.when], rfl⟩

theorem State.checkJudge_spec (s : State) (k : Nat) (a b : List Int) :
    CheckJudged k ((s.checkFails k a b).1 || (s.checkFails k a b).2) s (s.checkJudge k a b) := by
  have eq : s.checkJudge k a b = if (s.checkFails k a b).1 || (s.checkFails k a b).2 then
      (s.checkDone k (roundDiv (a.sum - b.sum) 4)).checkMiss k (s.checkFails k a b).1 (s.checkFails k a b).2
    else (s.checkDone k (roundDiv (a.sum - b.sum) 4)).checkPass k := rfl
  obtain ⟨turn, checks, cells, mem, reports, consec, misses⟩ := s.checkDone_spec k (roundDiv (a.sum - b.sum) 4)
  rw [eq]
  generalize s.checkDone k (roundDiv (a.sum - b.sum) 4) = u at *
  cases bad : (s.checkFails k a b).1 || (s.checkFails k a b).2 with
  | true =>
    obtain ⟨cells', acq, mem', consec', misses', reports'⟩ := u.checkMiss_spec k (s.checkFails k a b).1 (s.checkFails k a b).2
    rw [if_pos rfl]
    exact ⟨by rw [acq, turn], by rw [acq, checks], cells.trans cells', mem'.trans mem,
      fun _ => ⟨by rw [consec', consec], by rw [misses', misses], by rw [reports', reports]⟩, (fun h => nomatch h)⟩
  | false =>
    rw [if_neg (by decide)]
    exact ⟨turn, checks, by simpa [State.checkPass] using cells, mem, (fun h => nomatch h), fun _ => ⟨by simp [State.checkPass], reports⟩⟩

/-- The runs that a check held back go on: converters alone change. -/
theorem State.checkResume_spec (s : State) (k at_ : Nat) : ∃ c, s.checkResume k at_ = { s with acq := { s.acq with convs := c } } := by
  refine State.each_induct (P := fun t => ∃ c, t = { s with acq := { s.acq with convs := c } }) ⟨s.acq.convs, rfl⟩ fun n _ t h => ?_
  obtain ⟨c, rfl⟩ := h
  have began (u : State) (r : Run) (i : Nat) : ∃ d, u.beginSlot n r i = { u with acq := { u.acq with convs := d } } := by
    unfold State.beginSlot
    split <;> exact ⟨_, rfl⟩
  dsimp only
  split
  · split
    · exact ⟨c, rfl⟩
    · obtain ⟨d, same⟩ := began (State.onConv { s with acq := { s.acq with convs := c } } n fun c => { c with wait := none }) _ _
      exact ⟨d, same⟩
  · exact ⟨c, rfl⟩

/-! ### The fault of a pair (R88) -/

theorem State.eachOrderFault_eq (s : State) (l : List Nat) : ∃ f, (s.each l fun b t => t.orderFault b) = { s with frg := f } := by
  refine State.each_induct (P := fun t => ∃ f, t = { s with frg := f }) ⟨s.frg, rfl⟩ fun b _ t h => ?_
  obtain ⟨f, rfl⟩ := h
  exact ⟨_, rfl⟩

/-- FAULT of the pair, with its bit of ACQ_STAT. -/
def State.checkFaulted (s : State) (k : Nat) : State :=
  let t := (s.setFlag F.ACQ_CHK_STAT_FAULT k true).report 0x0201 k
  t.setFld F.ACQ_STAT_CHK_FAULT 0 (withBit (t.fld F.ACQ_STAT_CHK_FAULT) k true)

theorem State.checkFaulted_spec (s : State) {k : Nat} (small : k < 8) : (s.checkFaulted k).flag F.ACQ_CHK_STAT_FAULT k = true
    ∧ bitOf ((s.checkFaulted k).fld F.ACQ_STAT_CHK_FAULT) k = true ∧ RegsKept [.ACQ_CHK_STAT, .ACQ_STAT] s (s.checkFaulted k) := by
  unfold State.checkFaulted
  refine ⟨by simp, ?_, by simp⟩
  have bit (u : State) : bitOf ((u.setFld F.ACQ_STAT_CHK_FAULT 0 (withBit (u.fld F.ACQ_STAT_CHK_FAULT) k true)).fld F.ACQ_STAT_CHK_FAULT) k = true := by
    rw [u.fld_setFld_same F.ACQ_STAT_CHK_FAULT 0 _ (by decide) (by decide)]
    exact u.bitOf_fld_withBit F.ACQ_STAT_CHK_FAULT 0 true small
  exact bit _

/-- A fault of a pair, and the faults that it orders. -/
theorem exec_acqCheckFault (runs : s.runs 4 = true) (enabled : s.fld F.ACQ_CHK_CFG_EN k = 1) (clear : s.fld F.ACQ_CHK_STAT_FAULT k = 0)
    (limit : s.fld F.ACQ_CHK_CFG_FAIL_LIMIT k ≤ s.fld F.ACQ_CHK_STAT_CONSEC k) :
    ∃ f, exec (.acqCheckFault k) s = .next { s.checkFaulted k with frg := f } := by
  have taken : exec (.acqCheckFault k) s = .next (if (s.checkFaulted k).flag F.ACQ_CHK_CFG_ACTION k then
      (s.checkFaulted k).each ((if (s.checkFaulted k).flag F.ACQ_CHK_STAT_SUSPECT_A k then (s.checkFaulted k).cnvConsumers (2 * k) else [])
        ++ (if (s.checkFaulted k).flag F.ACQ_CHK_STAT_SUSPECT_B k then (s.checkFaulted k).cnvConsumers (2 * k + 1) else [])) fun b t => t.orderFault b
      else s.checkFaulted k) :=
    congrArg Host.Outcome.next ((State.live_runs runs).trans (if_pos ⟨enabled, clear, limit⟩))
  rw [taken]
  split
  · obtain ⟨f, same⟩ := (s.checkFaulted k).eachOrderFault_eq _
    exact ⟨f, congrArg Host.Outcome.next same⟩
  · exact ⟨(s.checkFaulted k).frg, rfl⟩

/-! ### The statement on sequences and pairs -/

/-- A check in progress, or one whose time has come and which finds both converters between slots. -/
def State.checkBegun (s : State) (k at_ : Nat) : Prop :=
  (s.check k).began = true ∨ ((s.check k).due = true ∧ s.period ≤ 2 * at_ ∧ (s.conv (2 * k)).cur = none ∧ (s.conv (2 * k + 1)).cur = none)

/-- The start of a check changes the record of its pair alone. -/
theorem State.checkTry_eq (s : State) (k at_ : Nat) : ∃ c, s.checkTry k at_ = { s with acq := { s.acq with checks := c } } := by
  unfold State.checkTry
  dsimp only
  split
  · exact ⟨_, rfl⟩
  · exact ⟨s.acq.checks, rfl⟩

/-- The states of a pair check: begun, judged, and its converters free again. -/
theorem exec_pairCheck (runs : s.runs 4 = true) (enabled : s.fld F.ACQ_CHK_CFG_EN k ≠ 0) (begun : s.checkBegun k at_) (a b : List Int) :
    exec (.pairCheck k at_ a b) s = .next ((((s.checkTry k at_).onCheck k fun _ => ⟨false, false, false⟩).checkJudge k a b).checkResume k at_) := by
  have started : ((s.checkTry k at_).check k).began = true := by
    unfold State.checkTry
    dsimp only
    split
    · exact congrArg PairChk.began (Arr.get_upd_same _ _ _)
    · next none_ =>
      rcases begun with h | ⟨due, half, curA, curB⟩
      · exact h
      · by_contra unstarted
        exact none_ (by simp [due, half, curA, curB, Bool.eq_false_iff.mpr unstarted])
  refine congrArg Host.Outcome.next ((State.live_runs runs).trans (if_neg ?_))
  rw [started]
  simp [enabled]

/-- Settles O18: the writes by their value, a check by its codes, a fault by the consecutive misses. -/
theorem sequenceControlAndPairChecks : Obligations.SequenceControlAndPairChecks := by
  unfold Obligations.SequenceControlAndPairChecks
  refine ⟨?restart, ?running, ?lp, ?check, ?noCheck, ?fault, ?clear⟩
  case restart =>
    intro s who n reaches stopped
    obtain ⟨c, counted⟩ := served_scb s who 4
    refine congrArg Host.Outcome.next ((rowWrite_reaches s who _ _ _ reaches).trans ?_)
    rw [counted, show State.seqRestart { s with scb := c } n = _ from if_pos stopped]
  case running =>
    intro s who n reaches running
    obtain ⟨c, counted⟩ := served_scb s who 4
    refine congrArg Host.Outcome.next ((rowWrite_reaches s who _ _ _ reaches).trans ?_)
    rw [counted, show State.seqRestart { s with scb := c } n = { s with scb := c } from if_neg (by rw [show State.flag { s with scb := c } _ n = _ from running]; decide)]
  case lp =>
    intro s who n lp reaches
    refine ⟨_, congrArg Host.Outcome.next (rowWrite_reaches s who _ _ _ reaches), ?_⟩
    obtain ⟨c, counted⟩ := served_scb s who 4
    rw [counted]
    have lacks : State.lacksLp { s with scb := c } n = s.lacksLp n := rfl
    obtain ⟨cells, same, refused, taken⟩ := State.lpWrite_spec { s with scb := c } n lp
    refine ⟨?_, cells, fun on lacking => ?_, fun fits => ?_⟩
    · exact congrArg (fun t : State => { t with resp := .done }) same
    · exact refused (by rw [on, lacks, State.lacksLp_iff.mpr lacking]; rfl)
    · refine taken ?_
      rw [lacks, Bool.and_eq_false_iff]
      refine fits.imp_right fun all => Bool.eq_false_iff.mpr fun lacking => ?_
      obtain ⟨k, inside, bound, without⟩ := State.lacksLp_iff.mp lacking
      exact Bool.false_ne_true (without.symm.trans (all k inside bound))
  case check =>
    intro s k at_ a b runs enabled begun
    refine ⟨_, exec_pairCheck runs enabled begun a b, ?_⟩
    obtain ⟨c, tried⟩ := s.checkTry_eq k at_
    obtain ⟨u, named⟩ : ∃ u, u = (s.checkTry k at_).onCheck k fun _ => ⟨false, false, false⟩ := ⟨_, rfl⟩
    have cleared : u.check k = ⟨false, false, false⟩ := by rw [named]; exact Arr.get_upd_same _ _ _
    have same : ∃ d, u = { s with acq := { s.acq with checks := d } } := by rw [named, tried]; exact ⟨_, rfl⟩
    obtain ⟨d, same⟩ := same
    rw [← named]
    obtain ⟨turn, checks, cells, mem, fails, passes⟩ := u.checkJudge_spec k a b
    obtain ⟨e, resumed⟩ := (u.checkJudge k a b).checkResume_spec k at_
    have verdict : u.checkFails k a b = s.checkFails k a b := by rw [same]; rfl
    rw [resumed]
    rw [verdict] at fails passes
    refine ⟨?_, ?_, ?_, memKept_of_mem (mem.trans (by rw [same])), fun bad => ?_, fun good => ?_⟩
    · exact (congrArg (fun x => x.get k) checks).trans cleared
    · exact turn.trans (by rw [same])
    · exact CellsKept.trans (cellsKept_of_regs (by rw [same])) cells
    · obtain ⟨consec, misses, reports⟩ := fails bad
      rw [same] at consec misses reports
      rw [same]
      exact ⟨consec, misses, reports⟩
    · obtain ⟨consec, reports⟩ := passes good
      exact ⟨consec, reports.trans (by rw [same])⟩
  case noCheck =>
    intro s k at_ a b free early
    have tried : s.checkTry k at_ = s := by
      refine if_neg ?_
      rcases early with h | h
      · simp [h]
      · simp [show ¬ s.period ≤ 2 * at_ by omega]
    rw [exec, execPairCheck, tried]
    dsimp only
    rw [if_pos (by simp [free]), State.live, ite_self]
  case fault =>
    intro s k runs small enabled clear limit
    obtain ⟨f, taken⟩ := exec_acqCheckFault runs enabled clear limit
    obtain ⟨flag, bit, regs⟩ := s.checkFaulted_spec small
    exact ⟨_, taken, flag, bit, rfl, rfl, regs⟩
  case clear =>
    intro s who k reaches
    obtain ⟨c, counted⟩ := served_scb s who 4
    refine congrArg Host.Outcome.next ((rowWrite_reaches s who _ _ _ reaches).trans ?_)
    rw [counted]
    rfl

/-! ### Modulator inputs (R90 to R93) -/

theorem unsignedOf_lt (w : Nat) (z : Int) : unsignedOf w z < 2 ^ w := by
  unfold unsignedOf
  have pos : (0 : Int) < 2 ^ w := by positivity
  have := Int.emod_lt_of_pos z pos
  have := Int.emod_nonneg z pos.ne'
  zify
  omega

/-- The output of an owned input without a gap. -/
theorem State.modOutput_spec (noGap : n ∉ s.acq.gap) (v : Int) : (s.modOutput n v).flag F.ACQ_MOD_DATA_NEW n = true
    ∧ (s.modOutput n v).fld F.ACQ_MOD_DATA_VALUE n = unsignedOf 24 v ∧ s.modOutput n v = { s with regs := (s.modOutput n v).regs, acq := (s.modOutput n v).acq }
    ∧ CellsKept [(.ACQ_MOD_DATA, n)] s (s.modOutput n v) := by
  have shows : s.modOutput n v = (({ s with acq := { s.acq with held := s.acq.held.filter (· ≠ n) } } : State).setFld F.ACQ_MOD_DATA_VALUE n
      (unsignedOf 24 v)).setFlag F.ACQ_MOD_DATA_NEW n true := if_neg (by simpa using noGap)
  rw [shows]
  exact ⟨by simp, by simpa [Fld.width] using unsignedOf_lt 24 v, rfl, by simp⟩

/-- Settles O19: the output of a decimation, and a stuck input by the clocks without a transition. -/
theorem modulatorInputsDecimateAndShowStuck : Obligations.ModulatorInputsDecimateAndShowStuck := by
  unfold Obligations.ModulatorInputsDecimateAndShowStuck
  refine ⟨?output, ?stuck, ?moving, ?ends, ?stays⟩
  case output =>
    intro s m bits runs owned unclaimed noGap
    obtain ⟨y, taken⟩ : ∃ y, exec (.decimationOutput m bits) s = .next (State.modOutput { s with acq := { s.acq with sincs := s.acq.sincs.set m y } } m
        (clampInt (-(2 ^ 23 - 1)) (2 ^ 23 - 1)
          (roundDiv (((bits.foldl Sinc3.push (s.acq.sincs.get m)).take).1 * (2 ^ 23 - 1)) ((2 ^ s.fld F.ACQ_MOD_CFG_OSR_EXP m) ^ 3)))) :=
      ⟨_, congrArg Host.Outcome.next ((State.live_runs runs).trans (if_neg (not_or.mpr ⟨owned, unclaimed⟩)))⟩
    obtain ⟨new, value, same, cells⟩ := State.modOutput_spec (s := { s with acq := { s.acq with sincs := s.acq.sincs.set m y } }) noGap
      (clampInt (-(2 ^ 23 - 1)) (2 ^ 23 - 1)
        (roundDiv (((bits.foldl Sinc3.push (s.acq.sincs.get m)).take).1 * (2 ^ 23 - 1)) ((2 ^ s.fld F.ACQ_MOD_CFG_OSR_EXP m) ^ 3)))
    exact ⟨_, taken, new, value, same, cells⟩
  case stuck =>
    intro s m bits runs clear unclaimed still
    refine ⟨_, congrArg Host.Outcome.next ((State.live_runs runs).trans (if_neg ?_)), ?_, ?_, rfl, ?_, memKept_of_mem rfl⟩
    · simp [clear, unclaimed, still]
    · simp
    · exact congrArg Sinc3.moving (Arr.get_upd_same _ _ _)
    · simp
  case moving =>
    intro s m bits stays
    have idle : (s.flag F.ACQ_MOD_DATA_STUCK m || decide (s.fld F.ACQ_MOD_CFG_OWNER m = 3 ∨ ((s.acq.sincs.get m).quiet bits).1 < 64)) = true := by
      simpa using stays
    rw [exec, execModStuck, if_pos idle, State.live, ite_self]
  case ends =>
    intro s m runs moving
    exact congrArg Host.Outcome.next ((State.live_runs runs).trans (if_pos moving))
  case stays =>
    intro s m still
    rw [exec, execModStuckEnd, if_neg (by omega), State.live, ite_self]

end Sys2Proof.Machine
end

section
/-! SUPPORT. Bellows: the samples of a cable, its heat balance, the cooling of a loop, and the statement on them. -/

namespace Sys2Proof.Machine

open Sys2Proof

variable {s t u : State} {c : Nat} {r : CableRec}

/-! ### Cables, read after a change -/

@[simp] theorem State.cbl_onCable_same (s : State) (c : Nat) (f : Cable → Cable) : (s.onCable c f).cbl c = f (s.cbl c) := Arr.get_upd_same _ _ _

theorem State.cbl_onCable_other (s : State) {d : Nat} (f : Cable → Cable) (other : d ≠ c) : (s.onCable c f).cbl d = s.cbl d := Arr.get_upd_ne _ other _

@[simp] theorem State.cbl_setFlag (s : State) (c i : Nat) (f : Fld) (b : Bool) : (s.setFlag f i b).cbl c = s.cbl c := rfl
@[simp] theorem State.cbl_setFld (s : State) (c i n : Nat) (f : Fld) : (s.setFld f i n).cbl c = s.cbl c := rfl
@[simp] theorem State.cbl_report (s : State) (c i n : Nat) : (s.report i n).cbl c = s.cbl c := rfl
@[simp] theorem cellsKept_onCable {ks : List RegKey} {f : Cable → Cable} : CellsKept ks s (u.onCable c f) ↔ CellsKept ks s u := Iff.rfl
@[simp] theorem State.fld_onCable (s : State) (c i : Nat) (f : Cable → Cable) (g : Fld) : (s.onCable c f).fld g i = s.fld g i := rfl
@[simp] theorem State.flag_onCable (s : State) (c i : Nat) (f : Cable → Cable) (g : Fld) : (s.onCable c f).flag g i = s.flag g i := rfl

/-- A change of one cable and its status. -/
structure CableOnly (c : Nat) (s t : State) : Prop where
  cells : CellsKept [(.BLW_CBL_STAT, c)] s t
  mem : t.mem = s.mem
  jny : t.jny = s.jny
  others : ∀ d, d ≠ c → t.cbl d = s.cbl d

theorem CableOnly.refl (c : Nat) (s : State) : CableOnly c s s := ⟨CellsKept.refl _ s, rfl, rfl, fun _ _ => rfl⟩

theorem CableOnly.trans (h : CableOnly c s u) (k : CableOnly c u t) : CableOnly c s t :=
  ⟨h.cells.trans k.cells, k.mem.trans h.mem, k.jny.trans h.jny, fun d other => (k.others d other).trans (h.others d other)⟩

theorem cableOnly_onCable (s : State) (c : Nat) (f : Cable → Cable) : CableOnly c s (s.onCable c f) :=
  ⟨CellsKept.refl _ s, rfl, rfl, fun _ other => s.cbl_onCable_other f other⟩

/-- A change of the status of a cable. -/
theorem cableOnly_regs (cells : CellsKept [(.BLW_CBL_STAT, c)] s t) (same : t = { s with regs := t.regs, reports := t.reports }) : CableOnly c s t :=
  ⟨cells, by rw [same], by rw [same], fun d _ => by rw [same]; rfl⟩

/-! ### A sample (R190, R191) -/

/-- The first broken sensor by the samples of a cable's points. -/
def State.brokenNow (s : State) (c : Nat) (r : CableRec) : Nat :=
  brokenOf r (s.sampleOf c r.pIn (s.cbl c).tin (-40) 150 true) (s.sampleOf c r.pOut (s.cbl c).tout (-40) 150 true)
    (s.sampleOf c r.pFlow (s.cbl c).flow 0 200 false) (s.sampleOf c r.pCbl (s.cbl c).tcbl (-40) 150 true)

theorem brokenOf_lt (r : CableRec) (a b f t : Option Rat × Bool) : brokenOf r a b f t < 8 := by
  unfold brokenOf
  dsimp only
  split_ifs <;> decide

/-- A new reading of a sensor, or the last one. -/
def pickReading (new old : Option Rat) : Option Rat := match new with | some v => some (r32 v) | none => old

/-- A cable with the readings of a sample. -/
def State.cableRead (s : State) (c : Nat) (r : CableRec) : State :=
  let t := s.onCable c fun y => { y with
    tin := pickReading (s.sampleOf c r.pIn (s.cbl c).tin (-40) 150 true).1 y.tin
    tout := pickReading (s.sampleOf c r.pOut (s.cbl c).tout (-40) 150 true).1 y.tout
    flow := pickReading (s.sampleOf c r.pFlow (s.cbl c).flow 0 200 false).1 y.flow
    tcbl := pickReading (s.sampleOf c r.pCbl (s.cbl c).tcbl (-40) 150 true).1 y.tcbl
    good := if s.brokenNow c r = 0 then y.good + 1 else 0 }
  t.setFlag F.BLW_CBL_STAT_FLOW_LOW c (decide ((t.cbl c).flow.getD 0 < r.fmin))

/-- The status after a broken sensor was found. -/
def State.sensorBroken (t : State) (c n : Nat) (was : Bool) : State :=
  (if was then t else (t.setFld F.BLW_CBL_STAT_BROKEN c n).report 0x0601 c).setFlag F.BLW_CBL_STAT_SENSOR c true

theorem exec_cableSample (runs : s.runs 3 = true) (found : s.cable c = some r) : exec (.cableSample c) s
    = .next (if s.brokenNow c r = 0 then s.cableRead c r else (s.cableRead c r).sensorBroken c (s.brokenNow c r) (s.flag F.BLW_CBL_STAT_SENSOR c)) := by
  refine congrArg Host.Outcome.next ((State.live_runs runs).trans ?_)
  rw [found]
  rfl

theorem State.cableRead_spec (s : State) (c : Nat) (r : CableRec) : CableOnly c s (s.cableRead c r)
    ∧ (s.cableRead c r).flag F.BLW_CBL_STAT_FLOW_LOW c = decide (((s.cableRead c r).cbl c).flow.getD 0 < r.fmin)
    ∧ ((s.cableRead c r).cbl c).good = (if s.brokenNow c r = 0 then (s.cbl c).good + 1 else 0)
    ∧ (s.cableRead c r).flag F.BLW_CBL_STAT_SENSOR c = s.flag F.BLW_CBL_STAT_SENSOR c
    ∧ (s.cableRead c r).fld F.BLW_CBL_STAT_BROKEN c = s.fld F.BLW_CBL_STAT_BROKEN c ∧ (s.cableRead c r).reports = s.reports := by
  unfold State.cableRead
  dsimp only
  generalize named : s.onCable c _ = u
  have read : CableOnly c s u ∧ (u.cbl c).good = (if s.brokenNow c r = 0 then (s.cbl c).good + 1 else 0) ∧ u.regs = s.regs ∧ u.reports = s.reports := by
    rw [← named]
    exact ⟨cableOnly_onCable s c _, by rw [State.cbl_onCable_same], rfl, rfl⟩
  obtain ⟨only, good, regs, reports⟩ := read
  have kept : RegsKept [] s u := regsKept_of_regs regs
  refine ⟨only.trans (cableOnly_regs (by simp) rfl), u.flag_setFlag_self (by decide), by simpa using good, ?_, ?_, reports⟩
  · simpa using kept.flag List.not_mem_nil c
  · simpa using kept.fld List.not_mem_nil c

theorem State.sensorBroken_spec (s : State) (c : Nat) {n : Nat} (was : Bool) (small : n < 8) : CableOnly c s (s.sensorBroken c n was)
    ∧ (s.sensorBroken c n was).cbl c = s.cbl c
    ∧ (s.sensorBroken c n was).flag F.BLW_CBL_STAT_FLOW_LOW c = s.flag F.BLW_CBL_STAT_FLOW_LOW c
    ∧ (s.sensorBroken c n was).flag F.BLW_CBL_STAT_SENSOR c = true
    ∧ (was = true → (s.sensorBroken c n was).reports = s.reports ∧ (s.sensorBroken c n was).fld F.BLW_CBL_STAT_BROKEN c = s.fld F.BLW_CBL_STAT_BROKEN c)
    ∧ (was = false → (s.sensorBroken c n was).reports = s.reports ++ [⟨0x0601, c⟩] ∧ (s.sensorBroken c n was).fld F.BLW_CBL_STAT_BROKEN c = n) := by
  unfold State.sensorBroken
  cases was with
  | true => exact ⟨cableOnly_regs (by simp) rfl, rfl, by simp, by simp, fun _ => ⟨rfl, by simp⟩, (fun h => nomatch h)⟩
  | false => exact ⟨cableOnly_regs (by simp) rfl, rfl, by simp, by simp, (fun h => nomatch h), fun _ => ⟨rfl, by simpa [Fld.width] using small⟩⟩

/-! ### The model step of a heat (R192) -/

/-- The status of a cable after its model step: the flow, the sampling rate and the temperature. -/
def State.heatShown (t : State) (c : Nat) (flowLow say fast : Bool) : State :=
  let t := t.setFlag F.BLW_CBL_STAT_FLOW_LOW c flowLow
  let t := if say then t.report 0x0683 c else t
  (if fast then (t.setFlag F.BLW_CBL_STAT_FAST c true).report 0x0681 c else t).showTc c

theorem State.heatShown_spec (s : State) (c : Nat) (flowLow say fast : Bool) : CableOnly c s (s.heatShown c flowLow say fast)
    ∧ (s.heatShown c flowLow say fast).cbl c = s.cbl c
    ∧ (s.heatShown c flowLow say fast).flag F.BLW_CBL_STAT_SENSOR c = s.flag F.BLW_CBL_STAT_SENSOR c
    ∧ (s.heatShown c flowLow say fast).flag F.BLW_CBL_STAT_SUSPECT c = s.flag F.BLW_CBL_STAT_SUSPECT c := by
  unfold State.heatShown State.showTc
  cases say <;> cases fast <;> exact ⟨cableOnly_regs (by simp) rfl, rfl, by simp, by simp⟩

/-- What the model step of a cable leaves. -/
structure CableStepped (c : Nat) (s t : State) : Prop where
  only : CableOnly c s t
  sensor : t.flag F.BLW_CBL_STAT_SENSOR c = s.flag F.BLW_CBL_STAT_SENSOR c
  suspect : t.flag F.BLW_CBL_STAT_SUSPECT c = s.flag F.BLW_CBL_STAT_SUSPECT c
  mean : (t.cbl c).mean = none

theorem State.cableHeat_spec (found : s.cable c = some r) : CableStepped c s (s.cableHeat c) := by
  unfold State.cableHeat
  rw [found]
  split
  · obtain ⟨only, cbl, sensor, suspect⟩ := State.heatShown_spec (s.onCable c _) c _ _ _
    exact ⟨(cableOnly_onCable s c _).trans only, sensor, suspect, (congrArg Cable.mean cbl).trans (congrArg Cable.mean (s.cbl_onCable_same c _))⟩
  · next none_ =>
    refine ⟨CableOnly.refl c s, rfl, rfl, ?_⟩
    cases mean : (s.cbl c).mean with
    | none => rfl
    | some i => exact absurd mean (none_ r i rfl)

/-- The model steps of every cable leave the flags that rule the cooling. -/
theorem State.stepCables_spec (s : State) : s.stepCables.jny = s.jny
    ∧ ∀ c, s.stepCables.flag F.BLW_CBL_STAT_SENSOR c = s.flag F.BLW_CBL_STAT_SENSOR c
      ∧ s.stepCables.flag F.BLW_CBL_STAT_SUSPECT c = s.flag F.BLW_CBL_STAT_SUSPECT c := by
  refine State.each_induct (P := fun t : State => t.jny = s.jny ∧ ∀ c, t.flag F.BLW_CBL_STAT_SENSOR c = s.flag F.BLW_CBL_STAT_SENSOR c
      ∧ t.flag F.BLW_CBL_STAT_SUSPECT c = s.flag F.BLW_CBL_STAT_SUSPECT c) ⟨rfl, fun _ => ⟨rfl, rfl⟩⟩ fun d listed t h => ?_
  obtain ⟨jny, flags⟩ := h
  obtain ⟨r, found⟩ := Option.isSome_iff_exists.mp (of_decide_eq_true (decide_eq_true (List.mem_filter.mp listed).2))
  have foundT : t.cable d = some r := by
    rw [State.cable, jny]
    exact found
  obtain ⟨only, sensor, suspect, -⟩ := State.cableHeat_spec foundT
  refine ⟨only.jny.trans jny, fun c => ?_⟩
  by_cases same : c = d
  · subst same
    exact ⟨sensor.trans (flags c).1, suspect.trans (flags c).2⟩
  · exact ⟨(only.cells.flag (by simp [same])).trans (flags c).1, (only.cells.flag (by simp [same])).trans (flags c).2⟩

/-! ### The heat balance (R193) -/

/-- The end of a window: its sums start afresh. -/
def State.windowEnded (u : State) (c : Nat) : State :=
  u.onCable c fun y => { y with diss := 0, carry := 0, heats := 0, prior := y.prior.map fun p => (p.1, 0, 0, 0) }

/-- The mean loss of a window, and the mean heat that the coolant carried. -/
def Cable.meanDiss (x : Cable) : Rat := if x.heats = 0 then 0 else div32 x.diss (x.heats : Rat)
def Cable.meanCarry (x : Cable) : Rat := if x.heats = 0 then 0 else div32 x.carry (x.heats : Rat)

/-- The window's balance is off by more than TOL. -/
def balanceOff (r : CableRec) (diss carry : Rat) : Bool :=
  decide (mul32 (div32 r.tol 100) diss < (if sub32 diss carry < 0 then -sub32 diss carry else sub32 diss carry))

/-- A window that counts: the runs of bad and of good windows. -/
def State.balanceCounted (v : State) (c : Nat) (out : Bool) : State :=
  v.onCable c fun y => { y with bad := if out then y.bad + 1 else 0, ok := if out then 0 else y.ok + 1 }

/-- SUSPECT by the runs of bad and of good windows. -/
def State.balanceJudged (v : State) (c : Nat) (out : Bool) : State :=
  if out ∧ 3 ≤ (v.cbl c).bad ∧ v.flag F.BLW_CBL_STAT_SUSPECT c = false then
    ((v.setFlag F.BLW_CBL_STAT_SUSPECT c true).cableStart c).report 0x0602 c
  else if v.flag F.BLW_CBL_STAT_SUSPECT c ∧ 6 ≤ (v.cbl c).ok then v.setFlag F.BLW_CBL_STAT_SUSPECT c false
  else v

/-- The window judged after the model step of its last heat. -/
def State.windowJudged (u : State) (c : Nat) (r : CableRec) : State :=
  let x := u.cbl c
  if ¬ (r.model = true ∧ r.fmin ≤ x.flow.getD 0 ∧ 500 < x.meanDiss) then u.windowEnded c
  else ((u.windowEnded c).balanceCounted c (balanceOff r x.meanDiss x.meanCarry)).balanceJudged c (balanceOff r x.meanDiss x.meanCarry)

theorem exec_heatBalance (runs : s.runs 3 = true) (found : s.cable c = some r) : exec (.heatBalance c) s = .next ((s.cableHeat c).windowJudged c r) := by
  refine congrArg Host.Outcome.next ((State.live_runs runs).trans ?_)
  rw [found]
  rfl

/-- The sums and the mean current of a cable are cleared. -/
def Cable.Cleared (x : Cable) : Prop := x.heats = 0 ∧ x.diss = 0 ∧ x.carry = 0 ∧ x.mean = none

theorem State.cableStart_spec (s : State) (c : Nat) : CableOnly c s (s.cableStart c) ∧ (s.cableStart c).regs = s.regs
    ∧ (s.cableStart c).reports = s.reports ∧ ((s.cbl c).Cleared → ((s.cableStart c).cbl c).Cleared) := by
  unfold State.cableStart
  split
  · refine ⟨cableOnly_onCable s c _, rfl, rfl, fun cleared => ?_⟩
    rw [State.cbl_onCable_same]
    exact ⟨rfl, rfl, rfl, cleared.2.2.2⟩
  · exact ⟨CableOnly.refl c s, rfl, rfl, id⟩

/-- What the end of a window shows. -/
structure WindowEnded (c : Nat) (s t : State) : Prop where
  only : CableOnly c s t
  cleared : (t.cbl c).Cleared

/-- A window that does not count. -/
theorem State.windowEnded_spec (mean : (s.cbl c).mean = none) : WindowEnded c s (s.windowEnded c) ∧ (s.windowEnded c).regs = s.regs
    ∧ (s.windowEnded c).reports = s.reports ∧ ((s.windowEnded c).cbl c).bad = (s.cbl c).bad ∧ ((s.windowEnded c).cbl c).ok = (s.cbl c).ok := by
  unfold State.windowEnded
  refine ⟨⟨cableOnly_onCable s c _, ?_⟩, rfl, rfl, ?_, ?_⟩ <;> rw [State.cbl_onCable_same]
  exact ⟨rfl, rfl, rfl, mean⟩

/-- What the judgement of a counted window shows. -/
structure BalanceJudged (c : Nat) (out : Bool) (s t : State) : Prop where
  ended : WindowEnded c s t
  third : out = true → 3 ≤ (s.cbl c).bad → s.flag F.BLW_CBL_STAT_SUSPECT c = false →
    t.flag F.BLW_CBL_STAT_SUSPECT c = true ∧ t.reports = s.reports ++ [⟨0x0602, c⟩]
  early : out = true → (s.cbl c).bad < 3 → (s.cbl c).ok = 0 → t.flag F.BLW_CBL_STAT_SUSPECT c = s.flag F.BLW_CBL_STAT_SUSPECT c
    ∧ (t.cbl c).bad = (s.cbl c).bad
  sixth : out = false → 6 ≤ (s.cbl c).ok → t.flag F.BLW_CBL_STAT_SUSPECT c = false
  good : out = false → (s.cbl c).ok < 6 → t.flag F.BLW_CBL_STAT_SUSPECT c = s.flag F.BLW_CBL_STAT_SUSPECT c ∧ (t.cbl c).ok = (s.cbl c).ok

theorem State.balanceJudged_spec (cleared : (s.cbl c).Cleared) (out : Bool) : BalanceJudged c out s (s.balanceJudged c out) := by
  unfold State.balanceJudged
  split
  · next suspect =>
    obtain ⟨bad, third, clear⟩ := suspect
    subst bad
    obtain ⟨only, regs, reports, stays⟩ := (s.setFlag F.BLW_CBL_STAT_SUSPECT c true).cableStart_spec c
    generalize (s.setFlag F.BLW_CBL_STAT_SUSPECT c true).cableStart c = u at *
    have kept : RegsKept [] (s.setFlag F.BLW_CBL_STAT_SUSPECT c true) u := regsKept_of_regs regs
    have set_ : u.flag F.BLW_CBL_STAT_SUSPECT c = true := (kept.flag List.not_mem_nil c).trans (s.flag_setFlag_self (by decide))
    have marked : CableOnly c s (s.setFlag F.BLW_CBL_STAT_SUSPECT c true) := cableOnly_regs (by simp) rfl
    exact ⟨⟨(marked.trans only).trans (cableOnly_regs (by simp) rfl), stays cleared⟩, fun _ _ _ => ⟨set_, congrArg (· ++ [_]) reports⟩,
      fun _ early _ => absurd third (by omega), (fun h => nomatch h), (fun h => nomatch h)⟩
  · next noSuspect =>
    have notThird (bad : out = true) (third : 3 ≤ (s.cbl c).bad) (clear : s.flag F.BLW_CBL_STAT_SUSPECT c = false) : False :=
      noSuspect ⟨bad, third, clear⟩
    split
    · next ends =>
      exact ⟨⟨cableOnly_regs (by simp) rfl, cleared⟩, fun bad third clear => (notThird bad third clear).elim,
        fun _ _ none_ => absurd ends.2 (by omega), fun _ _ => s.flag_setFlag_self (by decide), fun _ few => absurd ends.2 (by omega)⟩
    · next stays =>
      refine ⟨⟨CableOnly.refl c s, cleared⟩, fun bad third clear => (notThird bad third clear).elim, fun _ _ _ => ⟨rfl, rfl⟩, fun _ six => ?_,
        fun _ _ => ⟨rfl, rfl⟩⟩
      exact Bool.eq_false_iff.mpr fun suspect => stays ⟨suspect, six⟩

theorem State.balanceCounted_spec (s : State) (c : Nat) (out : Bool) : CableOnly c s (s.balanceCounted c out) ∧ (s.balanceCounted c out).regs = s.regs
    ∧ (s.balanceCounted c out).reports = s.reports ∧ ((s.cbl c).Cleared → ((s.balanceCounted c out).cbl c).Cleared)
    ∧ ((s.balanceCounted c out).cbl c).bad = (if out then (s.cbl c).bad + 1 else 0)
    ∧ ((s.balanceCounted c out).cbl c).ok = (if out then 0 else (s.cbl c).ok + 1) := by
  unfold State.balanceCounted
  refine ⟨cableOnly_onCable s c _, rfl, rfl, ?_, ?_, ?_⟩ <;> rw [State.cbl_onCable_same]
  exact id

/-- What a heat balance shows: the window ends, and a counted one is judged by its runs. -/
structure HeatBalanced (c : Nat) (r : CableRec) (s t : State) : Prop where
  ended : WindowEnded c s t
  judged : r.model = true → r.fmin ≤ (s.cbl c).flow.getD 0 → 500 < (s.cbl c).meanDiss →
    ∃ v, v.regs = s.regs ∧ v.reports = s.reports
      ∧ (v.cbl c).bad = (if balanceOff r (s.cbl c).meanDiss (s.cbl c).meanCarry then (s.cbl c).bad + 1 else 0)
      ∧ (v.cbl c).ok = (if balanceOff r (s.cbl c).meanDiss (s.cbl c).meanCarry then 0 else (s.cbl c).ok + 1)
      ∧ BalanceJudged c (balanceOff r (s.cbl c).meanDiss (s.cbl c).meanCarry) v t

theorem State.windowJudged_spec (mean : (s.cbl c).mean = none) (r : CableRec) : HeatBalanced c r s (s.windowJudged c r) := by
  obtain ⟨⟨only, cleared⟩, regs, reports, bad, ok⟩ := State.windowEnded_spec mean
  unfold State.windowJudged
  dsimp only
  split
  · next untested => exact ⟨⟨only, cleared⟩, fun model flow diss => absurd ⟨model, flow, diss⟩ untested⟩
  · obtain ⟨only', regs', reports', stays, bad', ok'⟩ :=
      (s.windowEnded c).balanceCounted_spec c (balanceOff r (s.cbl c).meanDiss (s.cbl c).meanCarry)
    rw [bad] at bad'
    rw [ok] at ok'
    generalize (s.windowEnded c).balanceCounted c (balanceOff r (s.cbl c).meanDiss (s.cbl c).meanCarry) = v at *
    have judged := State.balanceJudged_spec (stays cleared) (balanceOff r (s.cbl c).meanDiss (s.cbl c).meanCarry)
    exact ⟨⟨(only.trans only').trans judged.ended.only, judged.ended.cleared⟩,
      fun _ _ _ => ⟨v, regs'.trans regs, reports'.trans reports, bad', ok', judged⟩⟩

/-! ### The cooling of a loop (R198) -/

/-- The cables of a loop. -/
def State.loopCables (s : State) (l : LoopRec) : List Nat :=
  s.cables.filter fun c => match s.cable c with | some r => decide (r.loop = l.loop) | none => false

/-- A cable of the loop asks for full cooling. -/
def State.coolFull (s : State) (l : LoopRec) : Bool :=
  (s.loopCables l).any fun c => s.flag F.BLW_CBL_STAT_SENSOR c || s.flag F.BLW_CBL_STAT_SUSPECT c || (s.flag F.BLW_CBL_STAT_FLOW_LOW c && s.conducting c)

theorem clamp_bounds {lo x : Rat} (h : lo ≤ 100) : lo ≤ min 100 (max lo x) ∧ min 100 (max lo x) ≤ 100 :=
  ⟨le_min h (le_max_left lo x), min_le_left _ _⟩

theorem State.coolLoop_eq (s : State) (l : LoopRec) (pump : l.pumpMin ≤ 100) : ∃ i p f : Rat, s.coolLoop l = (s.onBlw fun b => { b with
      fans := b.fans.set l.loop i, cool := (b.cool.filter fun c => decide (c.1 ≠ l.loop)) ++ [(l.loop, p, f)] })
    ∧ (l.pumpMin : Rat) ≤ p ∧ p ≤ 100 ∧ 0 ≤ f ∧ f ≤ 100 ∧ (s.coolFull l = true → p = 100 ∧ f = 100) := by
  have lo : (l.pumpMin : Rat) ≤ 100 := by exact_mod_cast pump
  obtain ⟨i, pre, x, fan, eq⟩ : ∃ i pre x fan : Rat, s.coolLoop l = (s.onBlw fun b => { b with
      fans := b.fans.set l.loop i, cool := (b.cool.filter fun c => decide (c.1 ≠ l.loop))
        ++ [if s.coolFull l then (l.loop, 100, 100) else (l.loop, min 100 (max (l.pumpMin : Rat) (max pre x)), max 0 (min 100 fan))] }) :=
    ⟨_, _, _, _, rfl⟩
  rw [eq]
  cases s.coolFull l with
  | true => exact ⟨i, 100, 100, rfl, lo, le_rfl, by norm_num, le_rfl, fun _ => ⟨rfl, rfl⟩⟩
  | false =>
    obtain ⟨least, most⟩ := clamp_bounds (x := max pre x) lo
    exact ⟨i, _, _, rfl, least, most, le_max_left _ _, max_le (by norm_num) (min_le_left _ _), (fun h => nomatch h)⟩

/-! ### The statement -/

/-- Settles O35: a sample by its sensors, the windows by their balance, the cooling between its bounds. -/
theorem cableSensorsBalanceAndCooling : Obligations.CableSensorsBalanceAndCooling := by
  unfold Obligations.CableSensorsBalanceAndCooling
  refine ⟨?sample, ?noCable, ?recovered, ?slow, ?balance, ?cooling, ?stopped, ?restart⟩
  case sample =>
    intro s c r runs found
    obtain ⟨only, low, good, sensor, broken, reports⟩ := s.cableRead_spec c r
    refine ⟨_, exec_cableSample runs found, ?_⟩
    have small := brokenOf_lt r (s.sampleOf c r.pIn (s.cbl c).tin (-40) 150 true) (s.sampleOf c r.pOut (s.cbl c).tout (-40) 150 true)
      (s.sampleOf c r.pFlow (s.cbl c).flow 0 200 false) (s.sampleOf c r.pCbl (s.cbl c).tcbl (-40) 150 true)
    change s.brokenNow c r < 8 at small
    change _ ∧ _ ∧ _ ∧ _ ∧ (s.brokenNow c r = 0 → _) ∧ (s.brokenNow c r ≠ 0 → _)
    split
    · next sound =>
      rw [if_pos sound] at good
      exact ⟨only.cells, memKept_of_mem only.mem, only.others, low, fun _ => ⟨good, sensor, reports⟩, fun bad => absurd sound bad⟩
    · next bad =>
      rw [if_neg bad] at good
      generalize s.cableRead c r = u at *
      obtain ⟨only', cbl, low', set_, again, first⟩ := u.sensorBroken_spec c (s.flag F.BLW_CBL_STAT_SENSOR c) small
      have whole := only.trans only'
      refine ⟨whole.cells, memKept_of_mem whole.mem, whole.others, ?_, fun sound => absurd sound bad, fun _ => ⟨?_, set_, fun was => ?_, fun was => ?_⟩⟩
      · rw [low', low, cbl]
      · rw [cbl, good]
      · obtain ⟨same, number⟩ := again was
        exact ⟨same.trans reports, number.trans broken⟩
      · obtain ⟨said, number⟩ := first was
        exact ⟨said.trans (by rw [reports]), number⟩
  case noCable =>
    intro s c none_
    constructor
    · rw [exec, execCableSample, none_, State.live, ite_self]
    · rw [exec, execHeatBalance, none_, State.live, ite_self]
  case recovered =>
    intro s c runs sensor good fast
    exact congrArg Host.Outcome.next ((State.live_runs runs).trans (if_pos ⟨sensor, good, fast⟩))
  case slow =>
    intro s c h runs calm late sensor
    refine congrArg Host.Outcome.next ((State.live_runs runs).trans ?_)
    rw [calm]
    exact if_pos ⟨late, sensor⟩
  case balance =>
    intro s c r runs found
    have stepped := State.cableHeat_spec found
    refine ⟨_, exec_heatBalance runs found, ?_⟩
    generalize s.cableHeat c = u at *
    obtain ⟨⟨only, heats, diss, carry, mean⟩, judged⟩ := State.windowJudged_spec stepped.mean r
    have whole := stepped.only.trans only
    have loss (heated : (u.cbl c).heats ≠ 0) : (u.cbl c).meanDiss = div32 (u.cbl c).diss (u.cbl c).heats := if_neg heated
    have gain (heated : (u.cbl c).heats ≠ 0) : (u.cbl c).meanCarry = div32 (u.cbl c).carry (u.cbl c).heats := if_neg heated
    have verdict (tests : r.model = true ∧ r.fmin ≤ (u.cbl c).flow.getD 0 ∧ 500 < div32 (u.cbl c).diss (u.cbl c).heats ∧ (u.cbl c).heats ≠ 0) :
        ∃ v, v.flag F.BLW_CBL_STAT_SUSPECT c = s.flag F.BLW_CBL_STAT_SUSPECT c ∧ v.reports = u.reports
          ∧ (v.cbl c).bad = (if balanceOff r (div32 (u.cbl c).diss (u.cbl c).heats) (div32 (u.cbl c).carry (u.cbl c).heats) then (u.cbl c).bad + 1 else 0)
          ∧ (v.cbl c).ok = (if balanceOff r (div32 (u.cbl c).diss (u.cbl c).heats) (div32 (u.cbl c).carry (u.cbl c).heats) then 0 else (u.cbl c).ok + 1)
          ∧ BalanceJudged c (balanceOff r (div32 (u.cbl c).diss (u.cbl c).heats) (div32 (u.cbl c).carry (u.cbl c).heats)) v (u.windowJudged c r) := by
      obtain ⟨model, flow, warm, heated⟩ := tests
      rw [← loss heated, ← gain heated]
      obtain ⟨v, regs, reports, bad, ok, verdict⟩ := judged model flow (by rw [loss heated]; exact warm)
      exact ⟨v, ((regsKept_of_regs (rs := []) regs).flag List.not_mem_nil c).trans stepped.suspect, reports, bad, ok, verdict⟩
    refine ⟨heats, diss, carry, mean, whole.cells, whole.others, fun tests off twice clear => ?_, fun tests off early => ?_, fun tests good six => ?_,
      fun tests good few => ?_⟩
    · obtain ⟨v, suspect, reports, bad, -, judged⟩ := verdict tests
      rw [show balanceOff r _ _ = true from decide_eq_true off] at bad judged
      obtain ⟨set_, said⟩ := judged.third rfl (by rw [bad, if_pos rfl]; omega) (suspect.trans clear)
      exact ⟨set_, said.trans (by rw [reports])⟩
    · obtain ⟨v, suspect, -, bad, ok, judged⟩ := verdict tests
      rw [show balanceOff r _ _ = true from decide_eq_true off, if_pos rfl] at bad ok
      rw [show balanceOff r _ _ = true from decide_eq_true off] at judged
      obtain ⟨same, run⟩ := judged.early rfl (by rw [bad]; omega) ok
      exact ⟨same.trans suspect, run.trans bad⟩
    · obtain ⟨v, -, -, -, ok, judged⟩ := verdict tests
      rw [show balanceOff r _ _ = false from decide_eq_false good, if_neg (by decide)] at ok
      rw [show balanceOff r _ _ = false from decide_eq_false good] at judged
      exact judged.sixth rfl (by rw [ok]; omega)
    · obtain ⟨v, suspect, -, -, ok, judged⟩ := verdict tests
      rw [show balanceOff r _ _ = false from decide_eq_false good, if_neg (by decide)] at ok
      rw [show balanceOff r _ _ = false from decide_eq_false good] at judged
      obtain ⟨same, run⟩ := judged.good rfl (by rw [ok]; omega)
      exact ⟨same.trans suspect, run.trans ok⟩
  case cooling =>
    intro s l runs running busy loops pump
    obtain ⟨jny, flags⟩ := s.stepCables_spec
    have loops' : s.stepCables.coolLoops = [l] := by
      rw [← loops, State.coolLoops, State.coolLoops, State.body, State.body, jny]
    obtain ⟨i, p, f, eq, least, most, bottom, top, full⟩ := s.stepCables.coolLoop_eq l pump
    have taken : exec .coolingUpdate s = .next (s.stepCables.coolLoops.foldl (fun t l => t.coolLoop l) s.stepCables) :=
      congrArg Host.Outcome.next ((State.live_runs runs).trans (if_neg (by simp [running, busy])))
    refine ⟨i, p, f, ?_, least, most, bottom, top, fun asked => full ?_⟩
    · rw [taken, loops', ← eq]
      rfl
    · obtain ⟨c, small, r, found, own, asks⟩ := asked
      have found' : s.stepCables.cable c = some r := by
        rw [State.cable, jny]
        exact found
      obtain ⟨sensor, suspect⟩ := flags c
      refine List.any_eq_true.mpr ⟨c, List.mem_filter.mpr ⟨List.mem_filter.mpr ⟨List.mem_range.mpr small, by rw [found']; rfl⟩, ?_⟩, ?_⟩
      · rw [found']
        exact decide_eq_true own
      · rw [sensor, suspect]
        rcases asks with h | h <;> simp [h]
  case stopped =>
    intro s idle
    have none_ : (s.flag F.BLW_STAT_STOPPED || !s.blw.busy) = true := by simpa using idle
    rw [exec, execCoolingUpdate, if_pos none_, State.live, ite_self]
  case restart =>
    intro s who reaches
    obtain ⟨c, counted⟩ := served_scb s who 4
    constructor
    · intro stopped
      refine congrArg Host.Outcome.next ((rowWrite_reaches s who _ _ _ reaches).trans ?_)
      rw [counted, show State.bellowsRestart { s with scb := c } = _ from if_pos stopped]
    · intro running
      refine congrArg Host.Outcome.next ((rowWrite_reaches s who _ _ _ reaches).trans ?_)
      have off : State.flag { s with scb := c } F.BLW_STAT_STOPPED = false := running
      rw [counted, show State.bellowsRestart { s with scb := c } = { s with scb := c } from if_neg (by simp [off])]

end Sys2Proof.Machine
end

section
/-! SUPPORT. The die: the test of its sensors, the reading that the thresholds see, and the statement on throttling. -/

namespace Sys2Proof.Machine

open Sys2Proof

variable {s t u : State} {k : Nat} {l : List Int}

/-! ### The test of a sensor (R202) -/

/-- A sensor out of its range, or off its die for the third time. -/
def State.sensorBad (s : State) (l : List Int) (k : Nat) (off : Bool) : Bool :=
  decide (l.getD k 0 < -220 ∨ 640 < l.getD k 0) || decide (3 ≤ if off then s.blw.off.get k + 1 else 0)

/-- What the test of a sensor leaves and shows. -/
structure DieTested (l : List Int) (k : Nat) (bad : Bool) (s t : State) : Prop where
  regs : RegsKept [.BLW_DIE_STAT, .BLW_DIE_TEMP] s t
  same : t = { s with regs := t.regs, blw := { s.blw with off := t.blw.off }, reports := t.reports }
  temp : t.fld F.BLW_DIE_TEMP_TEMP k = unsignedOf 11 (l.getD k 0)
  temps : ∀ j, j ≠ k → t.fld F.BLW_DIE_TEMP_TEMP j = s.fld F.BLW_DIE_TEMP_TEMP j
  broken : k < 16 → bitOf (t.fld F.BLW_DIE_STAT_BROKEN) k = bad
  others : ∀ j < 16, j ≠ k → bitOf (t.fld F.BLW_DIE_STAT_BROKEN) j = bitOf (s.fld F.BLW_DIE_STAT_BROKEN) j
  crit : t.flag F.BLW_DIE_STAT_CRIT = s.flag F.BLW_DIE_STAT_CRIT
  level : t.fld F.BLW_DIE_STAT_LEVEL = s.fld F.BLW_DIE_STAT_LEVEL
/-- The sensor's reading and its mark, before the report. -/
def State.dieMarked (s : State) (l : List Int) (k : Nat) (off : Bool) : State :=
  ((s.onBlw fun b => { b with off := b.off.set k (if off then s.blw.off.get k + 1 else 0) }).setFld F.BLW_DIE_TEMP_TEMP k
    (unsignedOf 11 (l.getD k 0))).setFld F.BLW_DIE_STAT_BROKEN 0 (withBit (s.fld F.BLW_DIE_STAT_BROKEN) k (s.sensorBad l k off))

theorem State.dieTest_eq (s : State) (l : List Int) (k : Nat) (off : Bool) : s.dieTest l k off =
    if s.sensorBad l k off && !bitOf (s.fld F.BLW_DIE_STAT_BROKEN) k then (s.dieMarked l k off).report 0x0606 k else s.dieMarked l k off := rfl

theorem State.dieMarked_broken (s : State) (l : List Int) (k : Nat) (off : Bool) {j : Nat} (small : j < 16) :
    bitOf ((s.dieMarked l k off).fld F.BLW_DIE_STAT_BROKEN) j = bitOf (withBit (s.fld F.BLW_DIE_STAT_BROKEN) k (s.sensorBad l k off)) j := by
  have whole : (s.dieMarked l k off).fld F.BLW_DIE_STAT_BROKEN = withBit (s.fld F.BLW_DIE_STAT_BROKEN) k (s.sensorBad l k off) % 2 ^ 16 :=
    State.fld_setFld_same _ F.BLW_DIE_STAT_BROKEN 0 _
  rw [whole, bitOf, bitOf, Nat.testBit_mod_two_pow, decide_eq_true small, Bool.true_and]

theorem State.dieMarked_spec (s : State) (l : List Int) (k : Nat) (off : Bool) :
    DieTested l k (s.sensorBad l k off) s (s.dieMarked l k off) ∧ (s.dieMarked l k off).reports = s.reports := by
  refine ⟨⟨?_, rfl, ?_, fun j other => ?_, fun small => ?_, fun j small other => ?_, ?_, ?_⟩, rfl⟩
  · simp [State.dieMarked, State.onBlw]
  · simpa [State.dieMarked, State.onBlw, Fld.width] using unsignedOf_lt 11 (l.getD k 0)
  · have apart (u : State) (n m : Nat) : ((u.setFld F.BLW_DIE_TEMP_TEMP k n).setFld F.BLW_DIE_STAT_BROKEN 0 m).fld F.BLW_DIE_TEMP_TEMP j
        = u.fld F.BLW_DIE_TEMP_TEMP j := by
      refine (State.fld_setFld_apart _ (by decide) (by decide)).trans ?_
      exact u.fld_setFld_index _ _ n other
    exact apart _ _ _
  · rw [s.dieMarked_broken l k off small, bitOf_withBit_same]
  · rw [s.dieMarked_broken l k off small, bitOf_withBit_other _ _ other]
  · simp [State.dieMarked, State.onBlw]
  · simp [State.dieMarked, State.onBlw]

/-- A report more changes nothing of a test. -/
theorem DieTested.report {bad : Bool} (h : DieTested l k bad s t) (c n : Nat) : DieTested l k bad s (t.report c n) :=
  ⟨h.regs, by rw [h.same]; rfl, h.temp, h.temps, h.broken, h.others, h.crit, h.level⟩

theorem State.dieTest_spec (s : State) (l : List Int) (k : Nat) (off : Bool) : DieTested l k (s.sensorBad l k off) s (s.dieTest l k off)
    ∧ ((s.sensorBad l k off && !bitOf (s.fld F.BLW_DIE_STAT_BROKEN) k) = true → (s.dieTest l k off).reports = s.reports ++ [⟨0x0606, k⟩])
    ∧ (s.sensorBad l k off = false → (s.dieTest l k off).reports = s.reports) := by
  obtain ⟨marked, reports⟩ := s.dieMarked_spec l k off
  rw [State.dieTest_eq]
  split
  · next bad =>
    refine ⟨marked.report _ _, fun _ => congrArg (· ++ [_]) reports, fun good => ?_⟩
    rw [good] at bad
    cases bad
  · next fine => exact ⟨marked, fun bad => absurd bad fine, fun _ => reports⟩

/-! ### The tests of a sample -/

/-- Every sensor is tested. -/
def State.dieTests (s : State) (l : List Int) : State := s.each (List.range 16) fun k u => u.dieTest l k (s.dieOff l k)

/-- What the tests of a sample leave. -/
structure DieOnly (s t : State) : Prop where
  regs : RegsKept [.BLW_DIE_STAT, .BLW_DIE_TEMP] s t
  same : t = { s with regs := t.regs, blw := { s.blw with off := t.blw.off }, reports := t.reports }
  crit : t.flag F.BLW_DIE_STAT_CRIT = s.flag F.BLW_DIE_STAT_CRIT
  level : t.fld F.BLW_DIE_STAT_LEVEL = s.fld F.BLW_DIE_STAT_LEVEL
  reports : s.reports <+: t.reports

theorem DieOnly.step {bad : Bool} (h : DieOnly s u) (k' : DieTested l k bad u t) (grown : u.reports <+: t.reports) : DieOnly s t where
  regs := h.regs.trans k'.regs
  same := k'.same.trans (by rw [h.same])
  crit := k'.crit.trans h.crit
  level := k'.level.trans h.level
  reports := h.reports.trans grown

theorem State.dieTests_only (s : State) (l : List Int) : DieOnly s (s.dieTests l) :=
  State.each_induct (P := DieOnly s) ⟨RegsKept.refl _ s, rfl, rfl, rfl, List.prefix_rfl⟩ fun k _ t h =>
    h.step (t.dieTest_spec l k (s.dieOff l k)).1 (t.dieTest_keeps l k (s.dieOff l k)).reports

/-- The reading of each sensor shows. -/
theorem State.dieTests_temp (s : State) (l : List Int) (small : k < 16) : (s.dieTests l).fld F.BLW_DIE_TEMP_TEMP k = unsignedOf 11 (l.getD k 0) :=
  State.each_at (g := fun t => t.fld F.BLW_DIE_TEMP_TEMP k) (List.mem_range.mpr small) (fun t => (t.dieTest_spec l k (s.dieOff l k)).1.temp)
    fun j other t => (t.dieTest_spec l j (s.dieOff l j)).1.temps k other.symm

/-- A sensor outside its range is broken, and reported where it was not broken before. -/
theorem State.dieTests_range (s : State) (l : List Int) (small : k < 16) (outside : l.getD k 0 < -220 ∨ 640 < l.getD k 0) :
    bitOf ((s.dieTests l).fld F.BLW_DIE_STAT_BROKEN) k = true
    ∧ (bitOf (s.fld F.BLW_DIE_STAT_BROKEN) k = false → (⟨0x0606, k⟩ : Report) ∈ (s.dieTests l).reports.drop s.reports.length) := by
  have bad (t : State) : t.sensorBad l k (s.dieOff l k) = true := by rw [State.sensorBad, decide_eq_true outside, Bool.true_or]
  refine State.each_once (P := fun t => bitOf (t.fld F.BLW_DIE_STAT_BROKEN) k = bitOf (s.fld F.BLW_DIE_STAT_BROKEN) k ∧ s.reports <+: t.reports)
    (Q := fun t => bitOf (t.fld F.BLW_DIE_STAT_BROKEN) k = true
      ∧ (bitOf (s.fld F.BLW_DIE_STAT_BROKEN) k = false → (⟨0x0606, k⟩ : Report) ∈ t.reports.drop s.reports.length))
    List.nodup_range (List.mem_range.mpr small) ⟨rfl, List.prefix_rfl⟩ (fun j other t h => ?_) (fun t h => ?_) fun j other t h => ?_
  · obtain ⟨bit, grown⟩ := h
    exact ⟨((t.dieTest_spec l j (s.dieOff l j)).1.others k small other.symm).trans bit, grown.trans (t.dieTest_keeps l j _).reports⟩
  · obtain ⟨bit, grown⟩ := h
    obtain ⟨tested, reported, -⟩ := t.dieTest_spec l k (s.dieOff l k)
    rw [bad] at tested reported
    refine ⟨tested.broken small, fun sound => mem_reports_drop grown (reported ?_)⟩
    rw [bit, sound]
    rfl
  · obtain ⟨bit, reported⟩ := h
    have tested := (t.dieTest_spec l j (s.dieOff l j)).1
    exact ⟨(tested.others k small other.symm).trans bit, fun sound => mem_reports_drop_of_prefix (reported sound) (t.dieTest_keeps l j _).reports⟩

/-! ### A sample of agreeing sensors -/

/-- Every reading lies in the range and within 25 K of the highest, which one sensor shows. -/
structure Agreeing (l : List Int) (m : Int) : Prop where
  low : ∀ k < 16, -220 ≤ l.getD k 0
  high : ∀ k < 16, l.getD k 0 ≤ m
  near : ∀ k < 16, m ≤ l.getD k 0 + 100
  top : m ≤ 640
  shown : ∃ k < 16, l.getD k 0 = m

theorem meanRat_bounds {x : List Rat} {lo hi : Rat} (some_ : x ≠ []) (above : ∀ a ∈ x, lo ≤ a) (below : ∀ a ∈ x, a ≤ hi) :
    lo ≤ meanRat x ∧ meanRat x ≤ hi := by
  have pos : (0 : Rat) < x.length := by exact_mod_cast List.length_pos_iff.mpr some_
  have least := List.card_nsmul_le_sum x lo above
  have most := List.sum_le_card_nsmul x hi below
  rw [nsmul_eq_mul] at least most
  unfold meanRat
  rw [if_neg some_, le_div_iff₀ pos, div_le_iff₀ pos]
  constructor <;> linarith

/-- Agreeing sensors differ from none of their die. -/
theorem Agreeing.dieOff {m : Int} (h : Agreeing l m) (s : State) (small : k < 16) : s.dieOff l k = false := by
  unfold State.dieOff
  split
  · next mean found =>
    unfold State.dieMean at found
    dsimp only at found
    split at found
    · cases found
    · next some_ =>
      rw [← Option.some.inj found]
      have reading (a : Rat) (listed : a ∈ ((List.range 16).filter fun j =>
          decide (j ≠ k ∧ dieOf j = dieOf k) && !bitOf (s.fld F.BLW_DIE_STAT_BROKEN) j).map fun j => ((l.getD j 0 : Int) : Rat)) :
          (m : Rat) - 100 ≤ a ∧ a ≤ m := by
        obtain ⟨j, inside, rfl⟩ := List.mem_map.mp listed
        have small := List.mem_range.mp (List.mem_filter.mp inside).1
        have high : ((l.getD j 0 : Int) : Rat) ≤ m := by exact_mod_cast h.high j small
        have near : (m : Rat) ≤ ((l.getD j 0 : Int) : Rat) + 100 := by exact_mod_cast h.near j small
        exact ⟨by linarith, high⟩
      obtain ⟨least, most⟩ := meanRat_bounds (by simpa using some_) (fun a listed => (reading a listed).1) fun a listed => (reading a listed).2
      have high : ((l.getD k 0 : Int) : Rat) ≤ m := by exact_mod_cast h.high k small
      have near : (m : Rat) ≤ ((l.getD k 0 : Int) : Rat) + 100 := by exact_mod_cast h.near k small
      exact decide_eq_false (by rintro (above | below) <;> linarith)
  · rfl

theorem Agreeing.good {m : Int} (h : Agreeing l m) (s t : State) (small : k < 16) : t.sensorBad l k (s.dieOff l k) = false := by
  rw [State.sensorBad, h.dieOff s small, Bool.or_eq_false_iff]
  have low := h.low k small
  have high := h.high k small
  have top := h.top
  exact ⟨decide_eq_false (by omega), rfl⟩

/-- After a sample of agreeing sensors none is broken, and nothing is reported. -/
theorem Agreeing.tests {m : Int} (h : Agreeing l m) (s : State) : (s.dieTests l).fld F.BLW_DIE_STAT_BROKEN = 0 ∧ (s.dieTests l).reports = s.reports := by
  constructor
  · refine Nat.eq_of_testBit_eq fun k => ?_
    rw [Nat.zero_testBit]
    by_cases small : k < 16
    · refine State.each_once (P := fun _ => True) (Q := fun t => bitOf (t.fld F.BLW_DIE_STAT_BROKEN) k = false) List.nodup_range (List.mem_range.mpr small)
        trivial (fun _ _ _ _ => trivial) (fun t _ => ?_) fun j other t clear => ?_
      · have tested := (t.dieTest_spec l k (s.dieOff l k)).1
        rw [h.good s t small] at tested
        exact tested.broken small
      · exact ((t.dieTest_spec l j (s.dieOff l j)).1.others k small other.symm).trans clear
    · exact Nat.testBit_lt_two_pow (((s.dieTests l).fld_lt F.BLW_DIE_STAT_BROKEN 0).trans_le (Nat.pow_le_pow_right (by decide) (by simpa [Fld.width] using small)))
  · refine State.each_induct (P := fun t : State => t.reports = s.reports) rfl fun k listed t same => ?_
    exact ((t.dieTest_spec l k (s.dieOff l k)).2.2 (h.good s t (List.mem_range.mp listed))).trans same

/-- The largest of a list of integers. -/
theorem foldl_max_eq {x : List Int} {a m : Int} (below : ∀ b ∈ x, b ≤ m) (start : a ≤ m) (listed : m ∈ x ∨ a = m) : x.foldl max a = m := by
  induction x generalizing a with
  | nil => simpa using listed
  | cons b x ih =>
    refine ih (fun c inside => below c (List.mem_cons_of_mem b inside)) (max_le start (below b List.mem_cons_self)) ?_
    rcases listed with inside | same
    · rcases List.mem_cons.mp inside with rfl | inside
      · exact .inr (max_eq_right start)
      · exact .inl inside
    · exact .inr (by rw [same]; exact max_eq_left (below b List.mem_cons_self))

/-- With no broken sensor the thresholds see the highest reading. -/
theorem Agreeing.hottest {m : Int} (h : Agreeing l m) (sound : u.fld F.BLW_DIE_STAT_BROKEN = 0) : u.hottest l = (m, m) := by
  have all : ((List.range 16).filter fun k => !bitOf (u.fld F.BLW_DIE_STAT_BROKEN) k) = List.range 16 := by
    rw [sound]
    decide
  have top : (((List.range 16).map fun k => l.getD k 0).foldl max (((List.range 16).map fun k => l.getD k 0).headD (-220))) = m := by
    refine foldl_max_eq (fun b listed => ?_) (h.high 0 (by decide)) (.inl ?_)
    · obtain ⟨k, inside, rfl⟩ := List.mem_map.mp listed
      exact h.high k (List.mem_range.mp inside)
    · obtain ⟨k, small, same⟩ := h.shown
      exact List.mem_map.mpr ⟨k, List.mem_range.mpr small, same⟩
  unfold State.hottest
  rw [all]
  dsimp only
  rw [top]
  simp

theorem State.critAt_sound (sound : u.fld F.BLW_DIE_STAT_BROKEN = 0) (l : List Int) (k : Nat) :
    u.critAt l k = decide (u.tCrit ≤ l.getD k 0) := by
  have none_ (j : Nat) : bitOf (u.fld F.BLW_DIE_STAT_BROKEN) j = false := by rw [sound]; exact Nat.zero_testBit j
  unfold State.critAt
  dsimp only
  rw [none_ k]
  simp [none_]

/-! ### The reading that the thresholds see -/

/-- How often in a row each sensor stood at T_CRIT. -/
def State.critRuns (u : State) (l : List Int) : Arr Nat :=
  (List.range 16).foldl (fun a k => a.set k (if u.critAt l k then a.get k + 1 else 0)) u.blw.critSeen

/-- Since when the thresholds have been passed. -/
def State.dieTimed (u : State) (l : List Int) : State :=
  let h := u.hottest l
  let v := u.setFld F.BLW_DIE_STAT_HOTTEST 0 (unsignedOf 11 h.1)
  v.onBlw fun b => { b with
    belowThrot := since b.belowThrot (decide (h.2 < v.tThrot)) u.now
    below5 := since b.below5 (decide (h.2 < v.tThrot - 20)) u.now
    below12 := since b.below12 (decide (h.2 < v.tThrot - 48)) u.now
    atThrot := since b.atThrot (decide (v.tThrot ≤ h.2)) u.now
    critSeen := v.critRuns l
    worst := h.2 }

/-- Cells that are each changed once. -/
theorem foldl_set_get {α : Type} [DecidableEq α] (g : Nat → α → α) {x : List Nat} (once : x.Nodup) (a : Arr α) (k : Nat) :
    (x.foldl (fun a j => a.set j (g j (a.get j))) a).get k = if k ∈ x then g k (a.get k) else a.get k := by
  induction x generalizing a with
  | nil => rfl
  | cons j x ih =>
    obtain ⟨fresh, once⟩ := List.nodup_cons.mp once
    rw [List.foldl_cons, ih once]
    by_cases own : k = j
    · subst own
      rw [if_neg fresh, if_pos List.mem_cons_self, Arr.get_set_same]
    · rw [Arr.get_set_ne _ own]
      simp [own]

/-- The runs of a sample of sound sensors. -/
theorem State.critRuns_sound (sound : u.fld F.BLW_DIE_STAT_BROKEN = 0) (l : List Int) {k : Nat} (small : k < 16) :
    (u.critRuns l).get k = if u.tCrit ≤ l.getD k 0 then u.blw.critSeen.get k + 1 else 0 := by
  unfold State.critRuns
  rw [foldl_set_get (fun j n => if u.critAt l j then n + 1 else 0) List.nodup_range, if_pos (List.mem_range.mpr small), State.critAt_sound sound]
  simp

/-- The sampling rate after a reading. -/
def State.diePaced (v : State) (h : Int) : State :=
  if v.tThrot - 40 ≤ h then v.setFld F.BLW_DIE_STAT_FAST 0 1
  else match v.blw.below12 with
    | some x => if x + v.strokesIn 10000000 ≤ v.now then v.setFld F.BLW_DIE_STAT_FAST 0 0 else v
    | none => v

theorem State.diePaced_spec (s : State) (h : Int) : RegsKept [.BLW_DIE_STAT] s (s.diePaced h) ∧ s.diePaced h = { s with regs := (s.diePaced h).regs }
    ∧ (s.tThrot - 40 ≤ h → (s.diePaced h).flag F.BLW_DIE_STAT_FAST = true)
    ∧ (s.diePaced h).flag F.BLW_DIE_STAT_CRIT = s.flag F.BLW_DIE_STAT_CRIT ∧ (s.diePaced h).fld F.BLW_DIE_STAT_LEVEL = s.fld F.BLW_DIE_STAT_LEVEL
    ∧ (s.diePaced h).fld F.BLW_DIE_STAT_BROKEN = s.fld F.BLW_DIE_STAT_BROKEN
    ∧ (s.diePaced h).fld F.BLW_DIE_STAT_HOTTEST = s.fld F.BLW_DIE_STAT_HOTTEST := by
  unfold State.diePaced
  split
  · exact ⟨by simp, rfl, fun _ => by simp [State.flag, Fld.width], by simp, by simp, by simp, by simp⟩
  · next cool =>
    split
    · split
      · exact ⟨by simp, rfl, fun hot => absurd hot cool, by simp, by simp, by simp, by simp⟩
      · exact ⟨RegsKept.refl _ s, rfl, fun hot => absurd hot cool, rfl, rfl, rfl, rfl⟩
    · exact ⟨RegsKept.refl _ s, rfl, fun hot => absurd hot cool, rfl, rfl, rfl, rfl⟩

/-- What the thresholds make of a tested sample. -/
structure DieJudged (l : List Int) (s t : State) : Prop where
  regs : RegsKept [.BLW_DIE_STAT] s t
  same : t = { s with regs := t.regs, blw := t.blw }
  crit : t.flag F.BLW_DIE_STAT_CRIT = s.flag F.BLW_DIE_STAT_CRIT
  level : t.fld F.BLW_DIE_STAT_LEVEL = s.fld F.BLW_DIE_STAT_LEVEL
  broken : t.fld F.BLW_DIE_STAT_BROKEN = s.fld F.BLW_DIE_STAT_BROKEN
  hottest : t.fld F.BLW_DIE_STAT_HOTTEST = unsignedOf 11 (s.hottest l).1
  fast : s.tThrot - 40 ≤ (s.hottest l).2 → t.flag F.BLW_DIE_STAT_FAST = true
  runs : s.fld F.BLW_DIE_STAT_BROKEN = 0 → ∀ k < 16, t.blw.critSeen.get k = if s.tCrit ≤ l.getD k 0 then s.blw.critSeen.get k + 1 else 0

/-- A tested sample judged by the thresholds. -/
def State.dieJudged (u : State) (l : List Int) : State := (u.dieTimed l).diePaced (u.hottest l).2

theorem State.dieJudged_spec (s : State) (l : List Int) : DieJudged l s (s.dieJudged l) := by
  have timed : RegsKept [.BLW_DIE_STAT] s (s.dieTimed l) ∧ s.dieTimed l = { s with regs := (s.dieTimed l).regs, blw := (s.dieTimed l).blw }
      ∧ (s.dieTimed l).tThrot = s.tThrot ∧ (s.dieTimed l).flag F.BLW_DIE_STAT_CRIT = s.flag F.BLW_DIE_STAT_CRIT
      ∧ (s.dieTimed l).fld F.BLW_DIE_STAT_LEVEL = s.fld F.BLW_DIE_STAT_LEVEL ∧ (s.dieTimed l).fld F.BLW_DIE_STAT_BROKEN = s.fld F.BLW_DIE_STAT_BROKEN
      ∧ (s.dieTimed l).fld F.BLW_DIE_STAT_HOTTEST = unsignedOf 11 (s.hottest l).1
      ∧ (s.dieTimed l).blw.critSeen = (s.setFld F.BLW_DIE_STAT_HOTTEST 0 (unsignedOf 11 (s.hottest l).1)).critRuns l := by
    unfold State.dieTimed
    refine ⟨by simp [State.onBlw], rfl, by simp [State.onBlw, State.tThrot], by simp [State.onBlw], by simp [State.onBlw], by simp [State.onBlw], ?_, rfl⟩
    simpa [State.onBlw, Fld.width] using unsignedOf_lt 11 (s.hottest l).1
  obtain ⟨regs, same, throt, crit, level, broken, hottest, runs⟩ := timed
  unfold State.dieJudged
  generalize s.dieTimed l = u at *
  obtain ⟨regs', same', fast, crit', level', broken', hottest'⟩ := u.diePaced_spec (s.hottest l).2
  refine ⟨regs.trans regs', same'.trans ?_, crit'.trans crit, level'.trans level, broken'.trans broken, hottest'.trans hottest, fun hot => fast ?_, ?_⟩
  · have blw : (u.diePaced (s.hottest l).2).blw = u.blw := by rw [same']
    rw [blw, same]
  · rw [throt]
    exact hot
  · intro sound k small
    have soundV : (s.setFld F.BLW_DIE_STAT_HOTTEST 0 (unsignedOf 11 (s.hottest l).1)).fld F.BLW_DIE_STAT_BROKEN = 0 := by simpa using sound
    have crit : (s.setFld F.BLW_DIE_STAT_HOTTEST 0 (unsignedOf 11 (s.hottest l).1)).tCrit = s.tCrit := by simp [State.tCrit]
    have blw : (u.diePaced (s.hottest l).2).blw = u.blw := by rw [same']
    rw [blw, runs, State.critRuns_sound soundV l small, crit]
    rfl

theorem State.dieSample_eq (s : State) (l : List Int) : s.dieSample l =
    (let v := (s.dieTests l).dieJudged l
    if (List.range 16).any (fun k => decide (2 ≤ v.blw.critSeen.get k)) ∧ v.flag F.BLW_DIE_STAT_CRIT = false then v.dieCritical else v) := by
  unfold State.dieSample
  rfl

/-! ### A critical die (R205) -/

theorem State.pegRelease_blw (s : State) (cause : Nat) : (s.pegRelease cause).blw = s.blw := by
  by_cases holder : (s.peg.driven || s.holds) = true
  · obtain ⟨regs, fdl, pdo, same⟩ := s.netReleased.outputsReleased_eq
    have tests : s.netReleased.outputsReleased.endTests.blw = s.blw := by rw [(testsOnly_endTests _).2.1, same]; rfl
    rw [s.pegRelease_holder cause holder]
    exact tests
  · rw [s.pegRelease_other cause (by simpa using holder)]
    rfl

/-- CRIT is set, and the level is 4. -/
def State.critMarked (s : State) : State := (s.setFld F.BLW_DIE_STAT_CRIT 0 1).throttle 4

/-- What a critical die leaves of the sample. -/
structure CritShown (s t : State) : Prop where
  crit : t.flag F.BLW_DIE_STAT_CRIT = true
  level : t.fld F.BLW_DIE_STAT_LEVEL = 4
  fast : t.flag F.BLW_DIE_STAT_FAST = s.flag F.BLW_DIE_STAT_FAST
  broken : t.fld F.BLW_DIE_STAT_BROKEN = s.fld F.BLW_DIE_STAT_BROKEN
  hottest : t.fld F.BLW_DIE_STAT_HOTTEST = s.fld F.BLW_DIE_STAT_HOTTEST
  temps : ∀ k, t.fld F.BLW_DIE_TEMP_TEMP k = s.fld F.BLW_DIE_TEMP_TEMP k
  runs : t.blw.critSeen = s.blw.critSeen
  reports : s.reports <+: t.reports

theorem State.throttle_spec (s : State) {n : Nat} (small : n < 8) : RegsKept [.BLW_DIE_STAT] s (s.throttle n)
    ∧ s.throttle n = { s with regs := (s.throttle n).regs, reports := (s.throttle n).reports } ∧ (s.throttle n).fld F.BLW_DIE_STAT_LEVEL = n
    ∧ (s.throttle n).flag F.BLW_DIE_STAT_CRIT = s.flag F.BLW_DIE_STAT_CRIT ∧ (s.throttle n).flag F.BLW_DIE_STAT_FAST = s.flag F.BLW_DIE_STAT_FAST
    ∧ (s.throttle n).fld F.BLW_DIE_STAT_BROKEN = s.fld F.BLW_DIE_STAT_BROKEN
    ∧ (s.throttle n).fld F.BLW_DIE_STAT_HOTTEST = s.fld F.BLW_DIE_STAT_HOTTEST ∧ s.reports <+: (s.throttle n).reports := by
  unfold State.throttle
  split
  · next same => exact ⟨RegsKept.refl _ s, rfl, same, rfl, rfl, rfl, rfl, List.prefix_rfl⟩
  · exact ⟨by simp, rfl, by simpa [Fld.width] using small, by simp, by simp, by simp, by simp, List.prefix_append _ _⟩

theorem State.critMarked_spec (s : State) : CritShown s s.critMarked ∧ RegsKept [.BLW_DIE_STAT] s s.critMarked
    ∧ s.critMarked = { s with regs := s.critMarked.regs, reports := s.critMarked.reports } := by
  obtain ⟨u, named⟩ : ∃ u, u = s.setFld F.BLW_DIE_STAT_CRIT 0 1 := ⟨_, rfl⟩
  have marked : RegsKept [.BLW_DIE_STAT] s u ∧ u = { s with regs := u.regs } ∧ u.flag F.BLW_DIE_STAT_CRIT = true
      ∧ u.flag F.BLW_DIE_STAT_FAST = s.flag F.BLW_DIE_STAT_FAST ∧ u.fld F.BLW_DIE_STAT_BROKEN = s.fld F.BLW_DIE_STAT_BROKEN
      ∧ u.fld F.BLW_DIE_STAT_HOTTEST = s.fld F.BLW_DIE_STAT_HOTTEST := by
    rw [named]
    exact ⟨by simp, rfl, by simp [State.flag, Fld.width], by simp, by simp, by simp⟩
  obtain ⟨regs, same, crit, fast, broken, hottest⟩ := marked
  obtain ⟨regs', same', level, crit', fast', broken', hottest', reports⟩ := u.throttle_spec (show 4 < 8 by decide)
  have eq : s.critMarked = u.throttle 4 := by rw [named]; rfl
  rw [eq]
  have whole : RegsKept [.BLW_DIE_STAT] s (u.throttle 4) := regs.trans regs'
  refine ⟨⟨crit'.trans crit, level, fast'.trans fast, broken'.trans broken, hottest'.trans hottest, fun k => whole.fld (by decide) k, ?_, ?_⟩, whole, ?_⟩
  · rw [same', same]
  · exact List.IsPrefix.trans (by rw [same]) reports
  · rw [same', same]

theorem State.dieCritical_peg (synced : (s.critMarked.holds && s.critMarked.partnerSync) = true) : s.dieCritical = (s.critMarked.pegRelease 2).report 0x0603 :=
  if_pos synced

theorem State.dieCritical_alone (alone : (s.critMarked.holds && s.critMarked.partnerSync) = false) : s.dieCritical
    = (s.critMarked.onBlw fun b => { b with ramp := some (s.critMarked.outs.map fun o => (o, s.critMarked.fld F.TRS_OUT_STAT_GRANT o)) }).report 0x0604 :=
  if_neg (Bool.eq_false_iff.mp alone)

/-- What a critical die does besides: the peg goes to a partner in SYNC, else the limits ramp down. -/
theorem State.dieCritical_spec (s : State) : CritShown s s.dieCritical
    ∧ ((s.holds && s.partnerSync) = true → s.dieCritical.holds = false ∧ (⟨0x0603, 0⟩ : Report) ∈ s.dieCritical.reports.drop s.reports.length)
    ∧ ((s.holds && s.partnerSync) = false → s.dieCritical.holds = s.holds
      ∧ s.dieCritical.blw.ramp = some (s.outs.map fun o => (o, s.fld F.TRS_OUT_STAT_GRANT o))
      ∧ (⟨0x0604, 0⟩ : Report) ∈ s.dieCritical.reports.drop s.reports.length) := by
  obtain ⟨shown_, regs, same⟩ := s.critMarked_spec
  have holds : s.critMarked.holds = s.holds := regs.flag (by decide) 0
  have partner : s.critMarked.partnerSync = s.partnerSync := by
    unfold State.partnerSync
    rw [regs.flag (by decide), regs.flag (by decide)]
  have grants (o : Nat) : s.critMarked.fld F.TRS_OUT_STAT_GRANT o = s.fld F.TRS_OUT_STAT_GRANT o := regs.fld (by decide) o
  have outs : s.critMarked.outs = s.outs := by rw [same]; rfl
  have choice : (s.critMarked.holds && s.critMarked.partnerSync) = (s.holds && s.partnerSync) := by rw [holds, partner]
  cases synced : s.holds && s.partnerSync with
  | true =>
    rw [State.dieCritical_peg (choice.trans synced)]
    generalize s.critMarked = u at *
    have gate := (u.pegRelease_gate 2 (by decide)).1
    have kept := u.pegRelease_regs 2
    have blw := u.pegRelease_blw 2
    have grown := (u.pegRelease_keeps 2).reports
    refine ⟨⟨(kept.flag (by decide) 0).trans shown_.crit, (kept.fld (by decide) 0).trans shown_.level, (kept.flag (by decide) 0).trans shown_.fast,
      (kept.fld (by decide) 0).trans shown_.broken, (kept.fld (by decide) 0).trans shown_.hottest,
      fun k => (kept.fld (by decide) k).trans (shown_.temps k), ?_, ?_⟩, fun _ => ⟨gate, mem_reports_drop (shown_.reports.trans grown) rfl⟩, (fun h => nomatch h)⟩
    · exact (congrArg Blw.critSeen blw).trans shown_.runs
    · exact (shown_.reports.trans grown).trans (List.prefix_append _ _)
  | false =>
    rw [State.dieCritical_alone (choice.trans synced)]
    have ramp : (s.critMarked.outs.map fun o => (o, s.critMarked.fld F.TRS_OUT_STAT_GRANT o)) = s.outs.map fun o => (o, s.fld F.TRS_OUT_STAT_GRANT o) := by
      simp only [outs, grants]
    rw [ramp]
    generalize s.critMarked = u at *
    refine ⟨⟨shown_.crit, shown_.level, shown_.fast, shown_.broken, shown_.hottest, shown_.temps, shown_.runs, ?_⟩, (fun h => nomatch h),
      fun _ => ⟨holds, rfl, mem_reports_drop shown_.reports rfl⟩⟩
    exact shown_.reports.trans (List.prefix_append _ _)

/-! ### The statement -/

theorem exec_dieSample (runs : s.runs 3 = true) (l : List Int) : exec (.dieSample l) s = .next (s.dieSample l) :=
  congrArg Host.Outcome.next (State.live_runs runs)

/-- A sample leaves the readings and the marks of its tests. -/
theorem State.dieSample_tests (s : State) (l : List Int) : (∀ k, (s.dieSample l).fld F.BLW_DIE_TEMP_TEMP k = (s.dieTests l).fld F.BLW_DIE_TEMP_TEMP k)
    ∧ (s.dieSample l).fld F.BLW_DIE_STAT_BROKEN = (s.dieTests l).fld F.BLW_DIE_STAT_BROKEN ∧ (s.dieTests l).reports <+: (s.dieSample l).reports := by
  rw [State.dieSample_eq]
  have judged := (s.dieTests l).dieJudged_spec l
  have temps (k : Nat) : ((s.dieTests l).dieJudged l).fld F.BLW_DIE_TEMP_TEMP k = (s.dieTests l).fld F.BLW_DIE_TEMP_TEMP k := judged.regs.fld (by decide) k
  have reports : ((s.dieTests l).dieJudged l).reports = (s.dieTests l).reports := by rw [judged.same]
  generalize (s.dieTests l).dieJudged l = v at *
  dsimp only
  split
  · obtain ⟨shown_, -⟩ := v.dieCritical_spec
    exact ⟨fun k => (shown_.temps k).trans (temps k), shown_.broken.trans judged.broken, reports ▸ shown_.reports⟩
  · exact ⟨temps, judged.broken, reports ▸ List.prefix_rfl⟩

/-- Settles O36: a sample sensor by sensor, a sample of agreeing sensors by its highest reading, the levels by the time at their threshold. -/
theorem dieTemperatureThrottlesAndTrips : Obligations.DieTemperatureThrottlesAndTrips := by
  unfold Obligations.DieTemperatureThrottlesAndTrips
  refine ⟨?sample, ?agreeing, ?critEnds, ?up, ?down, ?trip⟩
  case sample =>
    intro s l runs
    obtain ⟨temps, broken, grown⟩ := s.dieSample_tests l
    refine ⟨_, exec_dieSample runs l, fun k small => (temps k).trans (s.dieTests_temp l small), fun k small outside => ?_⟩
    obtain ⟨bit, reported⟩ := s.dieTests_range l small outside
    exact ⟨by rw [broken]; exact bit, fun sound => mem_reports_drop_of_prefix (reported sound) grown⟩
  case agreeing =>
    intro s l m runs near top shown_
    have agree : Agreeing l m := ⟨fun k small => (near k small).1, fun k small => (near k small).2.1, fun k small => (near k small).2.2, top, shown_⟩
    obtain ⟨sound, quiet⟩ := agree.tests s
    have only := s.dieTests_only l
    have judged := (s.dieTests l).dieJudged_spec l
    have hottest := agree.hottest sound
    have throt : (s.dieTests l).tThrot = s.tThrot := by
      unfold State.tThrot
      rw [only.regs.fld (by decide)]
    have crit : (s.dieTests l).tCrit = s.tCrit := by
      unfold State.tCrit
      rw [only.regs.fld (by decide)]
    have seen : (s.dieTests l).blw.critSeen = s.blw.critSeen := by rw [only.same]
    have counts (k : Nat) (small : k < 16) : ((s.dieTests l).dieJudged l).blw.critSeen.get k = if s.tCrit ≤ l.getD k 0 then s.blw.critSeen.get k + 1 else 0 := by
      rw [judged.runs sound k small, crit, seen]
    refine ⟨_, exec_dieSample runs l, ?_⟩
    rw [State.dieSample_eq]
    have regs := only.regs.trans (judged.regs.mono (by simp))
    have broken := judged.broken.trans sound
    have shows : ((s.dieTests l).dieJudged l).fld F.BLW_DIE_STAT_HOTTEST = unsignedOf 11 m := judged.hottest.trans (by rw [hottest])
    have fast (hot : s.tThrot - 40 ≤ m) : ((s.dieTests l).dieJudged l).flag F.BLW_DIE_STAT_FAST = true := judged.fast (by rw [hottest, throt]; exact hot)
    have clear := judged.crit.trans only.crit
    have level := judged.level.trans only.level
    have reports : ((s.dieTests l).dieJudged l).reports = s.reports := by rw [judged.same]; exact quiet
    have holds : ((s.dieTests l).dieJudged l).holds = s.holds := regs.flag (by decide) 0
    have partner : ((s.dieTests l).dieJudged l).partnerSync = s.partnerSync := by
      unfold State.partnerSync
      rw [regs.flag (by decide), regs.flag (by decide)]
    have grants (o : Nat) : ((s.dieTests l).dieJudged l).fld F.TRS_OUT_STAT_GRANT o = s.fld F.TRS_OUT_STAT_GRANT o := regs.fld (by decide) o
    have outs : ((s.dieTests l).dieJudged l).outs = s.outs := by rw [judged.same, only.same]; rfl
    generalize (s.dieTests l).dieJudged l = v at *
    dsimp only
    split
    · next critical =>
      obtain ⟨twice, open_⟩ := critical
      obtain ⟨shown_, peg, alone⟩ := v.dieCritical_spec
      rw [holds, partner] at peg alone
      simp only [outs, grants, reports] at peg alone
      refine ⟨shown_.broken.trans broken, shown_.hottest.trans shows, fun hot => shown_.fast.trans (fast hot), fun k small => ?_, fun fresh => ?_, fun _ _ => ?_⟩
      · rw [shown_.runs]
        exact counts k small
      · obtain ⟨k, listed, two⟩ := List.any_eq_true.mp twice
        have small := List.mem_range.mp listed
        have two := of_decide_eq_true two
        rw [counts k small] at two
        split at two
        · next hot =>
          rw [fresh k small hot] at two
          omega
        · omega
      · exact ⟨shown_.crit, shown_.level, peg, alone⟩
    · next calm =>
      refine ⟨broken, shows, fast, counts, fun _ => ⟨clear, level, reports, regs⟩, fun critical open_ => ?_⟩
      obtain ⟨k, small, hot, again⟩ := critical
      refine absurd ⟨List.any_eq_true.mpr ⟨k, List.mem_range.mpr small, decide_eq_true ?_⟩, clear.trans open_⟩ calm
      rw [counts k small, if_pos hot]
      omega
  case critEnds =>
    intro s x runs below late crit
    refine congrArg Host.Outcome.next ((State.live_runs runs).trans ?_)
    rw [below]
    exact if_pos ⟨crit, late⟩
  case up =>
    intro s x runs hot late room
    have taken : exec .throttleUp s = .next ((s.throttle (s.fld F.BLW_DIE_STAT_LEVEL + 1)).onBlw fun b => { b with atThrot := some s.now }) := by
      refine congrArg Host.Outcome.next ((State.live_runs runs).trans ?_)
      rw [hot]
      exact if_pos ⟨late, room⟩
    obtain ⟨regs, same, level, -⟩ := s.throttle_spec (n := s.fld F.BLW_DIE_STAT_LEVEL + 1) (by omega)
    exact ⟨_, taken, level, rfl, regs, memKept_of_mem (by rw [same]; rfl)⟩
  case down =>
    intro s x runs cool late some_
    have taken : exec .throttleDown s = .next ((s.throttle (s.fld F.BLW_DIE_STAT_LEVEL - 1)).onBlw fun b => { b with below5 := some s.now }) := by
      refine congrArg Host.Outcome.next ((State.live_runs runs).trans ?_)
      rw [cool]
      exact if_pos ⟨late, some_⟩
    have small : s.fld F.BLW_DIE_STAT_LEVEL < 8 := s.fld_lt F.BLW_DIE_STAT_LEVEL 0
    obtain ⟨regs, same, level, -⟩ := s.throttle_spec (n := s.fld F.BLW_DIE_STAT_LEVEL - 1) (by omega)
    exact ⟨_, taken, level, rfl, regs, memKept_of_mem (by rw [same]; rfl)⟩
  case trip =>
    intro s on
    exact congrArg Host.Outcome.next (if_neg (by simp [on]))

end Sys2Proof.Machine
end

section
/-! SUPPORT. Truss: the rollback of the window, and the plans and records that leave the rest alone. -/

namespace Sys2Proof.Machine

open Sys2Proof

variable {s t u : State} {cause unit : Nat}

/-! ### What an event may change -/

/-- Truss's state after a change of the window alone. -/
structure WindowOnly (a b : Trs) : Prop where
  committed : b.committed = a.committed
  xps : b.xps = a.xps
  records : b.records = a.records
  current : b.current = a.current
  leaving : b.leaving = a.leaving

theorem WindowOnly.refl (a : Trs) : WindowOnly a a := ⟨rfl, rfl, rfl, rfl, rfl⟩

theorem WindowOnly.trans {a b c : Trs} (h : WindowOnly a b) (k : WindowOnly b c) : WindowOnly a c :=
  ⟨k.committed.trans h.committed, k.xps.trans h.xps, k.records.trans h.records, k.current.trans h.current, k.leaving.trans h.leaving⟩

/-- A record of Truss changes its ring alone. -/
theorem State.trussRecord_sys (s : State) (typ flags cause unit : Nat) :
    (s.trussRecord typ flags cause unit).trs = s.trs ∧ (s.trussRecord typ flags cause unit).sys = s.sys
    ∧ (s.trussRecord typ flags cause unit).jny = s.jny := by
  unfold State.trussRecord
  dsimp only
  rw [State.ringDeliver_eq]
  exact ⟨rfl, rfl, rfl⟩

/-! ### The rollback (R175 to R177) -/

/-- The entries that a rollback keeps. -/
def State.heldBack (s : State) : List Entry := s.trs.window.filter fun e => s.pastCutoff && decide (e.heat = s.heat + 1)

/-- Truss's state after a rollback. -/
def State.rolledTrs (s : State) (cause : Nat) : Trs :=
  { s.trs with
    window := s.heldBack
    rebuild := some (if s.heldBack.isEmpty then s.heat + 1 else s.heat + 2)
    rolled := some s.heat
    grace := if cause = 6 ∨ cause = 9 then some (s.heat, s.trs.committed.imp) else s.trs.grace }

/-- The event shown in TRS_LAST_EVENT. -/
def State.showEvent (s : State) (cause unit stroke : Nat) : State :=
  ((s.setFld F.TRS_LAST_EVENT_CAUSE 0 cause).setFld F.TRS_LAST_EVENT_UNIT 0 unit).setFld F.TRS_LAST_EVENT_STROKE 0 stroke

/-- A rollback before it is counted and reported. -/
def State.rolledWindow (s : State) (cause unit : Nat) : State :=
  let t := ({ s with trs := s.rolledTrs cause }).showEvent cause unit (s.now % 100)
  (if s.pastCutoff then t.bumpSat F.TRS_RB_CNT_LATE 0 else t).showWindow

/-- The rollback counted and recorded. -/
def State.rollCounted (s : State) (late : Bool) (cause unit : Nat) : State :=
  (((s.bumpSat F.TRS_RB_CNT_ROLLBACKS 0).count 10 1).trussRecord 2 (if late then 4 else 0) cause unit).report 0x0581 cause

theorem State.invalidate_idle (idle : s.trussRuns = false) (cause unit : Nat) : s.invalidate cause unit = s :=
  if_pos (by rw [idle]; rfl)

theorem State.invalidate_eq (runs : s.trussRuns = true) (cause unit : Nat) : s.invalidate cause unit
    = if s.trs.rolled ≠ some s.heat then (s.rolledWindow cause unit).rollCounted s.pastCutoff cause unit else s.rolledWindow cause unit := by
  have active : ¬(!s.trussRuns) = true := by rw [runs]; decide
  refine (if_neg active).trans ?_
  by_cases once : s.trs.rolled ≠ some s.heat
  · rw [if_pos once]
    exact if_pos (decide_eq_true once)
  · rw [if_neg once]
    exact if_neg fun h => once (of_decide_eq_true h)

/-- The registers and the state of Truss after the count. -/
theorem State.rollCounted_spec (s : State) (late : Bool) (cause unit : Nat) :
    (s.rollCounted late cause unit).trs = s.trs ∧ (s.rollCounted late cause unit).sys = s.sys
    ∧ RegsKept [.PNT_RING_PROD, .PNT_RING_STAT] (s.bumpSat F.TRS_RB_CNT_ROLLBACKS 0) (s.rollCounted late cause unit) := by
  have recorded (u : State) : ((u.trussRecord 2 (if late then 4 else 0) cause unit).report 0x0581 cause).trs = u.trs
      ∧ ((u.trussRecord 2 (if late then 4 else 0) cause unit).report 0x0581 cause).sys = u.sys
      ∧ RegsKept [.PNT_RING_PROD, .PNT_RING_STAT] u ((u.trussRecord 2 (if late then 4 else 0) cause unit).report 0x0581 cause) :=
    ⟨(u.trussRecord_sys _ _ _ _).1, (u.trussRecord_sys _ _ _ _).2.1, u.trussRecord_regs _ _ _ _⟩
  exact recorded ((s.bumpSat F.TRS_RB_CNT_ROLLBACKS 0).count 10 1)

/-- What the registers of a rollback show before it is counted. -/
theorem State.rolledWindow_shows (s : State) (cause unit : Nat) :
    (s.rolledWindow cause unit).fld F.TRS_LAST_EVENT_CAUSE = cause % 16 ∧ (s.rolledWindow cause unit).fld F.TRS_LAST_EVENT_UNIT = unit % 2 ^ 11
    ∧ (s.rolledWindow cause unit).fld F.TRS_LAST_EVENT_STROKE = s.now % 100
    ∧ (s.rolledWindow cause unit).fld F.TRS_RB_CNT_ROLLBACKS = s.fld F.TRS_RB_CNT_ROLLBACKS
    ∧ (s.rolledWindow cause unit).fld F.TRS_RB_CNT_LATE
      = (if s.pastCutoff then min (s.fld F.TRS_RB_CNT_LATE + 1) 255 else s.fld F.TRS_RB_CNT_LATE)
    ∧ RegsKept [.TRS_LAST_EVENT, .TRS_RB_CNT, .TRS_STAT] s (s.rolledWindow cause unit) := by
  have short : s.now % 100 < 128 := by omega
  unfold State.rolledWindow State.showEvent State.showWindow
  dsimp only
  split <;> simp [Fld.width, short]

theorem State.rolledWindow_trs (s : State) (cause unit : Nat) :
    (s.rolledWindow cause unit).trs = s.rolledTrs cause ∧ (s.rolledWindow cause unit).sys = s.sys := by
  unfold State.rolledWindow
  dsimp only
  split <;> exact ⟨rfl, rfl⟩

theorem State.rolledTrs_window (s : State) (cause : Nat) : WindowOnly s.trs (s.rolledTrs cause) := ⟨rfl, rfl, rfl, rfl, rfl⟩

/-- An event rolls the window back. -/
theorem State.invalidate_rolled (runs : s.trussRuns = true) (cause unit : Nat) : RolledBack cause unit s (s.invalidate cause unit) := by
  obtain ⟨showsCause, showsUnit, showsStroke, sameCount, showsLate, kept⟩ := s.rolledWindow_shows cause unit
  obtain ⟨trs, -⟩ := s.rolledWindow_trs cause unit
  have held : (if s.heldBack.isEmpty then s.heat + 1 else s.heat + 2) = if s.heldBack = [] then s.heat + 1 else s.heat + 2 := by
    simp only [List.isEmpty_iff]
  rw [State.invalidate_eq runs]
  by_cases once : s.trs.rolled = some s.heat
  · rw [if_neg (not_not.mpr once)]
    rw [RolledBack, trs, showsCause, showsUnit, showsStroke, sameCount, if_pos once, showsLate]
    exact ⟨rfl, congrArg some held, rfl, rfl, rfl, rfl, rfl, rfl, kept.mono (by simp)⟩
  · rw [if_pos once]
    obtain ⟨trs', -, counted⟩ := (s.rolledWindow cause unit).rollCounted_spec s.pastCutoff cause unit
    rw [RolledBack, trs', trs, counted.fld (by simp), counted.fld (by simp), counted.fld (by simp), counted.fld (by simp), counted.fld (by simp)]
    refine ⟨rfl, congrArg some held, rfl, ?_, ?_, ?_, ?_, ?_, ?_⟩
    · exact (State.fld_bumpSat_apart _ (by simp) (by decide)).trans showsCause
    · exact (State.fld_bumpSat_apart _ (by simp) (by decide)).trans showsUnit
    · exact (State.fld_bumpSat_apart _ (by simp) (by decide)).trans showsStroke
    · rw [if_neg once, ← sameCount]
      exact State.fld_bumpSat_self _ (by decide)
    · exact (State.fld_bumpSat_apart _ (by simp) (by decide)).trans showsLate
    · refine RegsKept.trans ?_ (counted.mono (by simp))
      exact (regsKept_bumpSat (by simp)).mpr (kept.mono (by simp))

/-- What an event leaves, whether Truss runs or not. -/
theorem State.invalidate_spec (s : State) (cause unit : Nat) : WindowOnly s.trs (s.invalidate cause unit).trs
    ∧ (s.invalidate cause unit).sys = s.sys
    ∧ RegsKept [.TRS_LAST_EVENT, .TRS_RB_CNT, .TRS_STAT, .PNT_RING_PROD, .PNT_RING_STAT] s (s.invalidate cause unit) := by
  cases runs : s.trussRuns
  · rw [State.invalidate_idle runs]
    exact ⟨WindowOnly.refl _, rfl, RegsKept.refl _ s⟩
  · obtain ⟨-, -, -, -, -, -, -, -, kept⟩ := State.invalidate_rolled runs cause unit
    obtain ⟨trs, sys⟩ := s.rolledWindow_trs cause unit
    obtain ⟨trs', sys', -⟩ := (s.rolledWindow cause unit).rollCounted_spec s.pastCutoff cause unit
    refine ⟨?_, ?_, kept⟩ <;> rw [State.invalidate_eq runs] <;> split
    · rw [trs', trs]
      exact s.rolledTrs_window cause
    · rw [trs]
      exact s.rolledTrs_window cause
    · exact sys'.trans sys
    · exact sys

/-- A rollback does not tell states apart that differ in neither the window nor the registers. -/
theorem RolledBack.congr (h : RolledBack cause unit u t) (regs : s.regs = u.regs) (sys : s.sys = u.sys) (window : s.trs.window = u.trs.window)
    (committed : s.trs.committed = u.trs.committed) (rolled : s.trs.rolled = u.trs.rolled) : RolledBack cause unit s t := by
  have fld (f : Fld) : s.fld f = u.fld f := by rw [State.fld, State.fld, State.reg, State.reg, regs]
  have now : s.now = u.now := by rw [State.now, State.now, sys]
  have heat : s.heat = u.heat := by rw [State.heat, State.heat, now]
  have kept (rs : List Reg) (k : RegsKept rs u t) : RegsKept rs s t := (regsKept_of_regs regs.symm).trans k
  rw [RolledBack] at h ⊢
  rw [fld, fld, fld, now, heat, window, committed, rolled]
  obtain ⟨a, b, c, d, e, f, g, i, regs⟩ := h
  exact ⟨a, b, c, d, e, f, g, i, kept _ regs⟩

/-! ### Planning again -/

theorem State.showWindow_regs (s : State) : RegsKept [.TRS_STAT] s s.showWindow := by simp [State.showWindow]

/-- Planning changes the window and its length in TRS_STAT. -/
structure Planned (s t : State) : Prop where
  same : t = { s with regs := t.regs, trs := t.trs }
  trs : WindowOnly s.trs t.trs
  regs : RegsKept [.TRS_STAT] s t

theorem Planned.trans (h : Planned s u) (k : Planned u t) : Planned s t :=
  ⟨by rw [k.same, h.same], h.trs.trans k.trs, h.regs.trans k.regs⟩

theorem planned_refl (s : State) : Planned s s := ⟨rfl, WindowOnly.refl _, RegsKept.refl _ s⟩

theorem planned_window (s : State) (f : Trs → Trs) (only : ∀ a, WindowOnly a (f a)) : Planned s (s.onTrs f) := ⟨rfl, only _, RegsKept.refl _ s⟩

theorem planned_show (s : State) : Planned s s.showWindow := ⟨rfl, WindowOnly.refl _, s.showWindow_regs⟩

theorem State.buildEntry_planned (s : State) (h : Nat) : Planned s (s.buildEntry h) :=
  (planned_window s (fun t => { t with window := t.window ++ [s.planEntry s.lastEntry h] }) fun _ => ⟨rfl, rfl, rfl, rfl, rfl⟩).trans (planned_show _)

theorem State.buildEntries_planned (hs : List Nat) (s : State) : Planned s (hs.foldl (fun (t : State) h => t.buildEntry h) s) := by
  induction hs generalizing s with
  | nil => exact planned_refl s
  | cons h hs ih => exact (s.buildEntry_planned h).trans (ih _)

theorem State.replan_planned (s : State) : Planned s s.replan := by
  unfold State.replan
  dsimp only
  refine Planned.trans (Planned.trans ?_ (State.buildEntries_planned _ _)) (planned_show _)
  exact planned_window s _ fun _ => ⟨rfl, rfl, rfl, rfl, rfl⟩

end Sys2Proof.Machine
end

section
/-! SUPPORT. Truss: demands, the rebuild, a restart and the limits, and the statement on the window. -/

namespace Sys2Proof.Machine

open Sys2Proof

variable {s t u : State} {o : Nat}

/-! ### A demand (R161, R175) -/

/-- The word of TRS_OUT_DEM_HI that Truss takes. -/
def State.demandHi (s : State) (o : Nat) (hi : W32) : W32 :=
  (if s.detached o then F.TRS_OUT_DEM_HI_VALID.put hi 0 else hi) &&& Reg.TRS_OUT_DEM_HI.row.rw

/-- The demand of an output stored. -/
def State.demandStored (s : State) (o : Nat) (lo hi : W32) : State := (s.setReg .TRS_OUT_DEM_LO o lo).setReg .TRS_OUT_DEM_HI o hi

/-- The plan of a held entry lies outside DEM_TOL of the demand. -/
def State.demandAway (s : State) (o : Nat) : Bool :=
  s.trs.window.any fun e => s.leaves (s.askAt o e.heat) (e.outs.get o).ask || s.leaves (s.fld F.TRS_OUT_DEM_LO_V_REQ o) (e.outs.get o).vreq

/-- What a stored demand does to the window, by whether VALID stood and by the SEQ before. -/
def State.demandEvent (s : State) (o : Nat) (was : Bool) (seq : Nat) : State :=
  if was && !s.flag F.TRS_OUT_DEM_HI_VALID o then s.invalidate 1 o
  else if s.flag F.TRS_OUT_DEM_HI_VALID o && (decide (s.fld F.TRS_OUT_DEM_HI_SEQ o ≠ seq) || !was || s.demandAway o) then s.invalidate 2 o
  else s

theorem State.takeDemand_eq (s : State) (o : Nat) (lo hi : W32) : s.takeDemand o lo hi
    = (s.demandStored o lo (s.demandHi o hi)).demandEvent o (s.flag F.TRS_OUT_DEM_HI_VALID o) (s.fld F.TRS_OUT_DEM_HI_SEQ o) := rfl

theorem State.demandEvent_regs (s : State) (o : Nat) (was : Bool) (seq : Nat) :
    RegsKept [.TRS_LAST_EVENT, .TRS_RB_CNT, .TRS_STAT, .PNT_RING_PROD, .PNT_RING_STAT] s (s.demandEvent o was seq) := by
  unfold State.demandEvent
  split_ifs
  · exact (s.invalidate_spec _ _).2.2
  · exact (s.invalidate_spec _ _).2.2
  · exact RegsKept.refl _ s

theorem State.demandEvent_withdrawn (gone : s.flag F.TRS_OUT_DEM_HI_VALID o = false) (seq : Nat) :
    s.demandEvent o true seq = s.invalidate 1 o ∧ s.demandEvent o false seq = s := by
  unfold State.demandEvent
  rw [gone]
  exact ⟨rfl, rfl⟩

theorem State.demandEvent_renewed {was : Bool} {seq : Nat} (valid : s.flag F.TRS_OUT_DEM_HI_VALID o = true)
    (new : was = false ∨ seq ≠ s.fld F.TRS_OUT_DEM_HI_SEQ o) : s.demandEvent o was seq = s.invalidate 2 o := by
  have stands : ¬(was && !true) = true := by rw [Bool.not_true, Bool.and_false]; decide
  have renewed : (decide (s.fld F.TRS_OUT_DEM_HI_SEQ o ≠ seq) || !was || s.demandAway o) = true := by
    rcases new with old | other
    · rw [old, Bool.not_false, Bool.or_true, Bool.true_or]
    · rw [decide_eq_true other.symm, Bool.true_or, Bool.true_or]
  unfold State.demandEvent
  rw [valid, if_neg stands, renewed]
  rfl

/-- A demand that an output with nothing attached asks for is not VALID. -/
theorem State.demandHi_detached (gone : s.detached o = true) (hi : W32) : F.TRS_OUT_DEM_HI_VALID.of (s.demandHi o hi) = 0 := by
  unfold State.demandHi
  rw [if_pos gone, Fld.of_and _ (by decide), Fld.of_put _ _ _ (by decide) (by decide), Nat.zero_mod]

theorem State.demandHi_attached (there : s.detached o = false) (hi : W32) : s.demandHi o hi = hi &&& Reg.TRS_OUT_DEM_HI.row.rw := by
  unfold State.demandHi
  rw [there]
  rfl

/-! ### The rebuild (R176) -/

theorem exec_entryRebuilt {k : Nat} (up : s.runs 3 = true) (runs : s.trussRuns = true) (next : s.trs.rebuild = some k) :
    exec .entryRebuilt s = .next ((s.buildEntry (max k (s.heat + 1))).onTrs fun x =>
      { x with rebuild := if max k (s.heat + 1) + 1 ≤ s.heat + s.fld F.TRS_CFG_DEPTH then some (max k (s.heat + 1) + 1) else none }) := by
  refine congrArg Host.Outcome.next ((State.live_runs up).trans ((if_pos runs).trans ?_))
  unfold State.rebuildStep
  rw [next]

/-! ### A restart (R180) -/

theorem State.trussRestart_refused (grants : ∃ o < 32, s.fld F.TRS_OUT_STAT_GRANT o ≠ 0) : s.trussRestart = s.report 0x0508 := by
  obtain ⟨o, small, some_⟩ := grants
  exact if_pos (List.any_eq_true.mpr ⟨o, List.mem_range.mpr small, decide_eq_true some_⟩)

theorem no_grant (none_ : ∀ o < 32, s.fld F.TRS_OUT_STAT_GRANT o = 0) :
    ¬((List.range 32).any fun o => decide (s.fld F.TRS_OUT_STAT_GRANT o ≠ 0)) = true := by
  intro some_
  obtain ⟨o, listed, grant⟩ := List.any_eq_true.mp some_
  exact of_decide_eq_true grant (none_ o (List.mem_range.mp listed))

/-- Truss restarted: RUN, without overruns. -/
def State.trussBegun (s : State) : State := ((s.setFld F.TRS_STAT_STATE 0 1).setFld F.TRS_STAT_OVR_CONSEC 0 0).completed .truss

theorem State.trussBegun_shows (s : State) : s.trussBegun.fld F.TRS_STAT_STATE = 1 ∧ s.trussBegun.fld F.TRS_STAT_OVR_CONSEC = 0
    ∧ RegsKept [.TRS_STAT] s s.trussBegun := by
  have held (u : State) : ((u.setFld F.TRS_STAT_STATE 0 1).setFld F.TRS_STAT_OVR_CONSEC 0 0).fld F.TRS_STAT_STATE = 1
      ∧ ((u.setFld F.TRS_STAT_STATE 0 1).setFld F.TRS_STAT_OVR_CONSEC 0 0).fld F.TRS_STAT_OVR_CONSEC = 0
      ∧ RegsKept [.TRS_STAT] u ((u.setFld F.TRS_STAT_STATE 0 1).setFld F.TRS_STAT_OVR_CONSEC 0 0) := by simp [Fld.width]
  exact held s

theorem State.trussRestart_eq (none_ : ∀ o < 32, s.fld F.TRS_OUT_STAT_GRANT o = 0) (holds : s.fld F.TRS_STAT_STATE = 2) :
    s.trussRestart = s.trussBegun.onTrs fun t => { t with window := [], rebuild := some (s.heat + 1) } :=
  (if_neg (no_grant none_)).trans (if_pos holds)

/-! ### The statement -/

/-- The offset of the demand of an output. -/
theorem demand_offset (o : Nat) : Reg.at .TRS_OUT_DEM_LO o % 8 = 0 := by
  change (0x100 + o * 8) % 8 = 0
  omega

theorem served_heat (s : State) (who : Initiator) (n : Nat) : (served s who n).heat = s.heat := served_congr State.heat s who n fun _ => rfl

theorem exec_demandWrite {who : Initiator} (reaches : ReachesReg s who .TRS_OUT_DEM_LO o) (lo hi : W32) :
    exec (.demandWrite who o lo hi) s = .next { (served s who 8).takeDemand o lo hi with resp := .done } :=
  congrArg Host.Outcome.next (rowWrite_reaches8 s who _ _ _ reaches (demand_offset o))

/-- A demand taken by Truss, from the state `u` in which it is stored. -/
structure DemandTaken (o : Nat) (lo hi : W32) (s u t : State) : Prop where
  low : t.reg .TRS_OUT_DEM_LO o = lo
  high : t.reg .TRS_OUT_DEM_HI o = hi
  regs : RegsKept [.TRS_LAST_EVENT, .TRS_RB_CNT, .TRS_STAT, .PNT_RING_PROD, .PNT_RING_STAT] u t
  withdrawn : s.trussRuns = true → s.flag F.TRS_OUT_DEM_HI_VALID o = true → t.flag F.TRS_OUT_DEM_HI_VALID o = false →
    RolledBack 1 o u t
  renewed : s.trussRuns = true → t.flag F.TRS_OUT_DEM_HI_VALID o = true →
    s.flag F.TRS_OUT_DEM_HI_VALID o = false ∨ s.fld F.TRS_OUT_DEM_HI_SEQ o ≠ t.fld F.TRS_OUT_DEM_HI_SEQ o →
    RolledBack 2 o u t
  stays : s.flag F.TRS_OUT_DEM_HI_VALID o = false → t.flag F.TRS_OUT_DEM_HI_VALID o = false → t.trs = s.trs ∧ t.reports = s.reports

theorem State.takeDemand_spec (s : State) (o : Nat) (lo hi : W32) : 
    DemandTaken o lo (s.demandHi o hi) s (s.demandStored o lo (s.demandHi o hi)) (s.takeDemand o lo hi) := by
  rw [State.takeDemand_eq]
  have runs : (s.demandStored o lo (s.demandHi o hi)).trussRuns = s.trussRuns := by simp [State.demandStored, State.trussRuns]
  have low : (s.demandStored o lo (s.demandHi o hi)).reg .TRS_OUT_DEM_LO o = lo := by simp [State.demandStored]
  have high : (s.demandStored o lo (s.demandHi o hi)).reg .TRS_OUT_DEM_HI o = s.demandHi o hi := by simp [State.demandStored]
  have same : (s.demandStored o lo (s.demandHi o hi)).trs = s.trs ∧ (s.demandStored o lo (s.demandHi o hi)).reports = s.reports := ⟨rfl, rfl⟩
  generalize s.demandStored o lo (s.demandHi o hi) = u at *
  have regs := u.demandEvent_regs o (s.flag F.TRS_OUT_DEM_HI_VALID o) (s.fld F.TRS_OUT_DEM_HI_SEQ o)
  have valid := regs.flag (f := F.TRS_OUT_DEM_HI_VALID) (by decide) o
  have seq := regs.fld (f := F.TRS_OUT_DEM_HI_SEQ) (by decide) o
  refine ⟨(regs _ _ (by decide)).trans low, (regs _ _ (by decide)).trans high, regs, fun active was gone => ?_, fun active now new => ?_,
    fun was gone => ?_⟩
  · rw [valid] at gone
    rw [was, (State.demandEvent_withdrawn gone _).1]
    exact State.invalidate_rolled (runs.trans active) 1 o
  · rw [valid] at now
    rw [seq] at new
    rw [State.demandEvent_renewed now new]
    exact State.invalidate_rolled (runs.trans active) 2 o
  · rw [valid] at gone
    rw [was, (State.demandEvent_withdrawn gone _).2]
    exact same

theorem served_detached (s : State) (who : Initiator) (n o : Nat) : (served s who n).detached o = s.detached o :=
  served_congr (State.detached · o) s who n fun _ => rfl

/-- The demand stored in a served state, and in the state before. -/
theorem RolledBack.ofServed {who : Initiator} {n cause : Nat} {lo hi : W32}
    (h : RolledBack cause o ((served s who n).demandStored o lo hi) t) : RolledBack cause o (s.demandStored o lo hi) t := by
  obtain ⟨c, scb⟩ := served_scb s who n
  rw [scb] at h
  exact h.congr rfl rfl rfl rfl rfl

theorem GoodValue.lose_eq {g : GoodValue} {h now : Nat} (since : g.since = some h) (late : h + 1000 ≤ now) : g.lose now = { g with gone := true } := by
  unfold GoodValue.lose
  rw [since]
  exact if_pos late

theorem GoodValue.lost_ne {g : GoodValue} (there : g.gone = false) : { g with gone := true } ≠ g := by
  intro same
  have gone := congrArg GoodValue.gone same
  rw [there] at gone
  exact Bool.noConfusion gone

/-- Settles O32. -/
theorem demandsAndLimitsRollTheWindowBack : Obligations.DemandsAndLimitsRollTheWindowBack := by
  unfold Obligations.DemandsAndLimitsRollTheWindowBack
  refine ⟨?demand, ?rebuilt, ?control, ?firmware, ?lost, ?unbound⟩
  case demand =>
    intro s who o lo hi reaches
    obtain ⟨low, high, regs, withdrawn, renewed, stays⟩ := (served s who 8).takeDemand_spec o lo hi
    have taken : (served s who 8).demandHi o hi = s.demandHi o hi := by rw [State.demandHi, State.demandHi, served_detached]
    have runs : (served s who 8).trussRuns = s.trussRuns := served_congr State.trussRuns s who 8 fun _ => rfl
    rw [taken] at high regs withdrawn renewed
    rw [runs] at withdrawn renewed
    rw [served_flag] at withdrawn renewed stays
    rw [served_fld] at renewed
    refine ⟨_, exec_demandWrite reaches lo hi, rfl, low, fun there => ?_, fun gone => ?_, fun p other => ?_, ?_, fun active was now => ?_,
      fun active now new => ?_, fun was now => ?_⟩
    · exact high.trans (State.demandHi_attached there hi)
    · refine State.flag_eq_false.mpr ((congrArg F.TRS_OUT_DEM_HI_VALID.of high).trans (State.demandHi_detached gone hi))
    · have apart (r : Reg) (only : r ∉ [Reg.TRS_LAST_EVENT, .TRS_RB_CNT, .TRS_STAT, .PNT_RING_PROD, .PNT_RING_STAT]) :
          ((served s who 8).takeDemand o lo hi).reg r p = s.reg r p := by
        rw [regs r p only, State.demandStored, State.reg_setReg_index _ _ _ other, State.reg_setReg_index _ _ _ other, served_reg]
      exact ⟨apart _ (by decide), apart _ (by decide)⟩
    · refine RegsKept.trans ?_ (regs.mono (by simp))
      simp [State.demandStored]
    · refine RolledBack.ofServed (who := who) (n := 8) ?_
      rw [State.reg_mk, high]
      exact withdrawn active was now
    · refine RolledBack.ofServed (who := who) (n := 8) ?_
      rw [State.reg_mk, high]
      exact renewed active now new
    · obtain ⟨trs, reports⟩ := stays was now
      exact ⟨trs.trans (served_trs s who 8), reports.trans (served_reports s who 8)⟩
  case rebuilt =>
    intro s k up runs next
    have built := s.buildEntry_planned (max k (s.heat + 1))
    refine ⟨_, exec_entryRebuilt up runs next, rfl, rfl, rfl, rfl, ?_⟩
    exact built.regs
  case control =>
    intro s who reaches
    have runs : (served s who).trussRuns = s.trussRuns := served_congr State.trussRuns s who 4 fun _ => rfl
    have restarted : exec (.trsRestart who) s = .next { (served s who).trussRestart with resp := .done } :=
      congrArg Host.Outcome.next (rowWrite_reaches s who _ _ _ reaches)
    have grants (o : Nat) : (served s who).fld F.TRS_OUT_STAT_GRANT o = s.fld F.TRS_OUT_STAT_GRANT o := served_fld s who 4 _ o
    refine ⟨fun active => ?_, fun idle => ?_, fun some_ => ?_, fun none_ other => ?_, fun none_ holds => ?_⟩
    · refine ⟨_, congrArg Host.Outcome.next (rowWrite_reaches s who _ _ _ reaches), rfl, ?_⟩
      exact (State.invalidate_rolled (runs.trans active) 10 0).congr (served_regs s who 4).symm (served_sys s who 4).symm
        (by rw [served_trs]) (by rw [served_trs]) (by rw [served_trs])
    · refine congrArg Host.Outcome.next ((rowWrite_reaches s who _ _ _ reaches).trans ?_)
      rw [State.invalidate_idle (runs.trans idle)]
    · rw [restarted, State.trussRestart_refused (by simpa only [grants] using some_)]
    · rw [restarted]
      refine congrArg Host.Outcome.next ?_
      have stays : (served s who).trussRestart = served s who :=
        (if_neg (no_grant (by simpa only [grants] using none_))).trans (if_neg (by rwa [served_fld]))
      rw [stays]
    · refine ⟨_, restarted, rfl, ?_⟩
      rw [State.trussRestart_eq (by simpa only [grants] using none_) ((served_fld s who 4 _ 0).trans holds)]
      obtain ⟨state, consec, regs⟩ := (served s who).trussBegun_shows
      refine ⟨state, consec, ?_, State.overruns_completed _ _, (regsKept_served s who 4).mpr (RegsKept.refl _ s) |>.trans regs, ?_, ?_⟩
      · rw [← served_trs s who 4, ← served_heat s who 4]
        rfl
      · exact memKept_of_mem (served_mem s who 4)
      · exact served_reports s who 4
  case firmware =>
    intro s who v reaches
    have written : exec (.gridFwWrite who v) s = .next { (served s who).gridFw v with resp := .done } :=
      congrArg Host.Outcome.next (rowWrite_reaches s who _ _ _ reaches)
    refine ⟨fun rises => ?_, fun falls => ?_⟩
    · rw [written]
      refine congrArg Host.Outcome.next ?_
      have stays : (served s who).gridFw v = (served s who).setReg .TRS_GRID_FW 0 v := if_neg (by rw [served_fld]; omega)
      rw [stays]
    · refine ⟨_, written, rfl, ?_⟩
      have event : (served s who).gridFw v = (((served s who).setReg .TRS_GRID_FW 0 v).onTrs fun x =>
          { x with seen := { x.seen with limit := ((served s who).setReg .TRS_GRID_FW 0 v).gridLimit.1 } }).invalidate 6 0 :=
        if_pos (by rwa [served_fld])
      rw [event]
      obtain ⟨c, scb⟩ := served_scb s who 4
      have seen (w : State) (f : Trs → Trs) (only : ∀ a, ∃ l, f a = { a with seen := l }) :
          ((w.setReg .TRS_GRID_FW 0 v).onTrs f |>.invalidate 6 0).reg .TRS_GRID_FW 0 = v
          ∧ (w.trussRuns = true → RolledBack 6 0 (w.setReg .TRS_GRID_FW 0 v) ((w.setReg .TRS_GRID_FW 0 v).onTrs f |>.invalidate 6 0))
          ∧ (w.trussRuns = false → ((w.setReg .TRS_GRID_FW 0 v).onTrs f |>.invalidate 6 0) = (w.setReg .TRS_GRID_FW 0 v).onTrs f) := by
        obtain ⟨l, seen⟩ := only (w.setReg .TRS_GRID_FW 0 v).trs
        have runs : ((w.setReg .TRS_GRID_FW 0 v).onTrs f).trussRuns = w.trussRuns := by simp [State.trussRuns, State.onTrs]
        have trs : ((w.setReg .TRS_GRID_FW 0 v).onTrs f).trs = { w.trs with seen := l } := seen
        refine ⟨?_, fun active => ?_, fun idle => State.invalidate_idle (runs.trans idle) 6 0⟩
        · rw [(State.invalidate_spec _ _ _).2.2 _ _ (by decide)]
          exact State.reg_setReg_same w _ _ _
        · exact (State.invalidate_rolled (runs.trans active) 6 0).congr rfl rfl (by rw [trs]; rfl) (by rw [trs]; rfl) (by rw [trs]; rfl)
      rw [scb]
      obtain ⟨reg, rolled, idles⟩ := seen { s with scb := c } (fun x =>
        { x with seen := { x.seen with limit := (({ s with scb := c } : State).setReg .TRS_GRID_FW 0 v).gridLimit.1 } }) fun a => ⟨_, rfl⟩
      refine ⟨reg, fun active => (rolled active).congr rfl rfl rfl rfl rfl, fun idle => ?_⟩
      rw [idles idle]
      exact ⟨rfl, (regsKept_setReg (s := s) (u := { s with scb := c }) (by simp)).mpr (RegsKept.refl _ s)⟩
  case lost =>
    intro s h up late
    refine ⟨fun since there => ?_, fun since there bound => ?_, fun since there bound => ?_⟩
    all_goals
      refine congrArg Host.Outcome.next ((State.live_runs up).trans ?_)
      have taken := GoodValue.lose_eq since late
      have other := GoodValue.lost_ne there
      dsimp only [State.onTrs]
      rw [taken]
      refine if_neg ?_
    · rintro (same | unbound)
      · exact other (congrArg Trs.budget same)
      · exact Bool.noConfusion unbound
    · rintro (same | unbound)
      · exact other (congrArg Trs.curtail same)
      · exact absurd (bound.symm.trans unbound) (by decide)
    · rintro (same | unbound)
      · exact other (congrArg Trs.aux same)
      · exact absurd (bound.symm.trans unbound) (by decide)
  case unbound =>
    intro s which unbound
    refine congrArg Host.Outcome.next ?_
    by_cases up : s.runs 3 = true
    · exact (State.live_runs up).trans (if_pos (Or.inr unbound))
    · exact if_neg up

end Sys2Proof.Machine
end

section
/-! SUPPORT. Truss: the crosspoints, and the statement on them. -/

namespace Sys2Proof.Machine

open Sys2Proof

variable {s t u : State} {x b o : Nat}

/-! ### A faulted crosspoint (R173) -/

/-- The entry in force after a fault of a crosspoint: its bay is OFF. -/
def State.faultedEntry (s : State) (x st : Nat) : Entry :=
  let b := (topoXp s.topo x).key
  if ((s.trs.committed.bays.get b).xp = x ∨ st = 6) ∧ (s.trs.committed.bays.get b).mode ≠ 0 then
    s.trs.committed.setBay b (offPlan (s.trs.committed.bays.get b) s.heat) else s.trs.committed

theorem State.faultedEntry_off {st : Nat} (bound : (s.trs.committed.bays.get (topoXp s.topo x).key).xp = x ∨ st = 6) :
    ((s.faultedEntry x st).bays.get (topoXp s.topo x).key).mode = 0 := by
  unfold State.faultedEntry
  dsimp only
  split
  · rw [Entry.setBay, Arr.get_set_same]
    rfl
  · next off =>
    by_contra on
    exact off ⟨bound, on⟩

/-- The fault of a crosspoint shown in its status. -/
def State.xpFaulted (s : State) (x st : Nat) : State :=
  let t := (s.setFld F.TRS_XP_STAT_FAULT x 1).setFld F.TRS_XP_STAT_STATE x st
  { t with trs := { s.trs with
      due := if st = 5 then s.trs.due else s.trs.due ++ [(x, false)]
      committed := s.faultedEntry x st } }

theorem State.xpFaulted_shows (s : State) (x : Nat) {st : Nat} (small : st < 8) : (s.xpFaulted x st).flag F.TRS_XP_STAT_FAULT x = true
    ∧ (s.xpFaulted x st).xpState x = st ∧ ∀ y, y ≠ x → (s.xpFaulted x st).reg .TRS_XP_STAT y = s.reg .TRS_XP_STAT y := by
  have held (u : State) : ((u.setFld F.TRS_XP_STAT_FAULT x 1).setFld F.TRS_XP_STAT_STATE x st).flag F.TRS_XP_STAT_FAULT x = true
      ∧ ((u.setFld F.TRS_XP_STAT_FAULT x 1).setFld F.TRS_XP_STAT_STATE x st).fld F.TRS_XP_STAT_STATE x = st
      ∧ ∀ y, y ≠ x → ((u.setFld F.TRS_XP_STAT_FAULT x 1).setFld F.TRS_XP_STAT_STATE x st).reg .TRS_XP_STAT y = u.reg .TRS_XP_STAT y := by
    refine ⟨by simp [Fld.width], ?_, fun y other => ?_⟩
    · rw [State.fld_setFld_self _ (by decide)]
      exact Nat.mod_eq_of_lt small
    · rw [State.reg_setFld_index _ other, State.reg_setFld_index _ other]
  exact held s

theorem State.contactorFault_eq (s : State) (x st code : Nat) :
    s.contactorFault x st code = (((s.xpFaulted x st).report code x).trussRecord 3 0 code x).invalidate 5 x := rfl

theorem State.contactorFault_spec (s : State) (x code : Nat) {st : Nat} (small : st < 8) :
    CrosspointFaulted x st code s (s.contactorFault x st code) := by
  obtain ⟨fault, state, others⟩ := s.xpFaulted_shows x small
  have said : (⟨code, x⟩ : Report) ∈ ((s.xpFaulted x st).report code x).reports.drop s.reports.length :=
    mem_reports_drop (s := s) (u := s.xpFaulted x st) (List.prefix_refl _) rfl
  have entry : ((s.xpFaulted x st).report code x).trs.committed = s.faultedEntry x st := rfl
  have same : ∀ r i, ((s.xpFaulted x st).report code x).reg r i = (s.xpFaulted x st).reg r i := fun _ _ => rfl
  rw [State.contactorFault_eq]
  generalize (s.xpFaulted x st).report code x = u at said entry same ⊢
  obtain ⟨trs, -, -⟩ := u.trussRecord_sys 3 0 code x
  have recorded := u.trussRecord_regs 3 0 code x
  have reports := (u.trussRecord_keeps 3 0 code x).reports
  generalize u.trussRecord 3 0 code x = v at trs recorded reports ⊢
  obtain ⟨only, -, regs⟩ := v.invalidate_spec 5 x
  have cell (i : Nat) : (v.invalidate 5 x).reg .TRS_XP_STAT i = (s.xpFaulted x st).reg .TRS_XP_STAT i := by
    rw [regs _ _ (by decide), recorded _ _ (by decide), same]
  refine ⟨?_, ?_, ?_, fun bound => ?_, fun y other => (cell y).trans (others y other)⟩
  · rw [← fault, State.flag, State.flag, State.fld, State.fld, cell]
  · rw [← state, State.xpState, State.xpState, State.fld, State.fld, cell]
  · exact mem_reports_drop_of_prefix said (reports.trans (v.invalidate_keeps 5 x).reports)
  · rw [only.committed, trs, entry]
    exact State.faultedEntry_off bound

/-! ### Feedback (R173) -/

/-- A contactor reached the state that its command asked for. -/
def State.xpReached (s : State) (x n : Nat) : State := (s.setFld F.TRS_XP_STAT_STATE x n).replan

theorem exec_contactorFeedback_closed (up : s.runs 3 = true) (back : s.feedback x = some true) : exec (.contactorFeedback x) s
    = .next (if s.xpState x = 1 then s.xpReached x 2 else if s.xpState x = 0 then s.contactorFault x 6 0x0504 else s) := by
  refine congrArg Host.Outcome.next ((State.live_runs up).trans ?_)
  dsimp only
  rw [back]
  rfl

theorem exec_contactorFeedback_open (up : s.runs 3 = true) (back : s.feedback x = some false) : exec (.contactorFeedback x) s
    = .next (if s.xpState x = 3 ∨ s.xpState x = 5 then s.xpReached x 0 else if s.xpState x = 2 then s.contactorFault x 6 0x0504 else s) := by
  refine congrArg Host.Outcome.next ((State.live_runs up).trans ?_)
  dsimp only
  rw [back]
  rfl

theorem exec_contactorFeedback_bad (back : s.feedback x = none) : exec (.contactorFeedback x) s = .next s := by
  refine congrArg Host.Outcome.next ?_
  unfold State.live
  dsimp only
  rw [back]
  exact ite_self s

/-- A contactor that reached its state, and the plans made again. -/
structure Reached (x n : Nat) (s t : State) : Prop where
  state : t.xpState x = n
  committed : t.trs.committed = s.trs.committed
  same : t = { s with regs := t.regs, trs := t.trs }
  regs : RegsKept [.TRS_XP_STAT, .TRS_STAT] s t
  others : ∀ y, y ≠ x → t.reg .TRS_XP_STAT y = s.reg .TRS_XP_STAT y

theorem State.xpReached_spec (s : State) (x : Nat) {n : Nat} (small : n < 8) : Reached x n s (s.xpReached x n) := by
  obtain ⟨same, trs, regs⟩ := (s.setFld F.TRS_XP_STAT_STATE x n).replan_planned
  refine ⟨?_, trs.committed, same, RegsKept.trans (by simp) (regs.mono (by simp)), fun y other => ?_⟩
  · refine (regs.fld (by decide) x).trans ((State.fld_setFld_self s (by decide)).trans ?_)
    exact Nat.mod_eq_of_lt small
  · exact (regs _ _ (by decide)).trans (State.reg_setFld_index s other)

/-! ### A pre-charge that timed out (R171) -/

/-- The bay OFF, and its crosspoint unusable for 100 heats. -/
def State.prechargeEnded (s : State) (b : Nat) : State :=
  let p := s.trs.committed.bays.get b
  s.onTrs fun x => { x with
    xps := x.xps.upd p.xp fun y => { y with until_ := s.heat + 100 }
    committed := x.committed.setBay b (offPlan p s.heat) }

theorem State.prechargeEnded_trs (s : State) (b : Nat) : ((s.prechargeEnded b).trs.committed.bays.get b).mode = 0
    ∧ (∀ c, c ≠ b → (s.prechargeEnded b).trs.committed.bays.get c = s.trs.committed.bays.get c)
    ∧ ((s.prechargeEnded b).trs.xps.get (s.trs.committed.bays.get b).xp).until_ = s.heat + 100 := by
  refine ⟨?_, fun c other => Arr.get_set_ne _ other _, ?_⟩
  · change ((s.trs.committed.bays.set b _).get b).mode = 0
    rw [Arr.get_set_same]
    rfl
  · change ((s.trs.xps.upd _ _).get _).until_ = _
    rw [Arr.get_upd_same]

/-! ### The statement -/

/-- Settles O33. -/
theorem crosspointsFollowCommandAndFeedback : Obligations.CrosspointsFollowCommandAndFeedback := by
  unfold Obligations.CrosspointsFollowCommandAndFeedback
  refine ⟨?precharge, ?reached, ?unexpected, ?agrees, ?failClose, ?welded, ?clear, ?release⟩
  case precharge =>
    intro s b up mode late standing mismatch
    have taken : exec (.prechargeTimeout b) s = .next (((s.prechargeEnded b).report 0x0505 (s.trs.committed.bays.get b).xp).trussRecord 3 0 0x0505
        (s.trs.committed.bays.get b).xp).replan := congrArg Host.Outcome.next ((State.live_runs up).trans (if_pos ⟨mode, late, standing, mismatch⟩))
    refine ⟨_, taken, ?_⟩
    obtain ⟨off, others, until_⟩ := s.prechargeEnded_trs b
    have said : (⟨0x0505, (s.trs.committed.bays.get b).xp⟩ : Report) ∈
        ((s.prechargeEnded b).report 0x0505 (s.trs.committed.bays.get b).xp).reports.drop s.reports.length :=
      mem_reports_drop (s := s) (u := s.prechargeEnded b) (List.prefix_refl _) rfl
    have trs : ((s.prechargeEnded b).report 0x0505 (s.trs.committed.bays.get b).xp).trs = (s.prechargeEnded b).trs := rfl
    have regs : ((s.prechargeEnded b).report 0x0505 (s.trs.committed.bays.get b).xp).regs = s.regs := rfl
    generalize (s.prechargeEnded b).report 0x0505 (s.trs.committed.bays.get b).xp = u at said trs regs ⊢
    obtain ⟨recorded, -, -⟩ := u.trussRecord_sys 3 0 0x0505 (s.trs.committed.bays.get b).xp
    have kept := u.trussRecord_regs 3 0 0x0505 (s.trs.committed.bays.get b).xp
    have reports := (u.trussRecord_keeps 3 0 0x0505 (s.trs.committed.bays.get b).xp).reports
    generalize u.trussRecord 3 0 0x0505 (s.trs.committed.bays.get b).xp = v at recorded kept reports ⊢
    have planned := v.replan_planned
    have committed : v.replan.trs.committed = (s.prechargeEnded b).trs.committed := by rw [planned.trs.committed, recorded, trs]
    have xps : v.replan.trs.xps = (s.prechargeEnded b).trs.xps := by rw [planned.trs.xps, recorded, trs]
    refine ⟨committed ▸ off, committed ▸ others, xps ▸ until_, ?_, ?_⟩
    · exact mem_reports_drop_of_prefix said (reports.trans v.replan_keeps.reports)
    · exact (regsKept_of_regs regs).trans ((kept.mono (by simp)).trans (planned.regs.mono (by simp)))
  case reached =>
    intro s x n c up back which
    have spec : exec (.contactorFeedback x) s = .next (s.xpReached x n) ∧ n < 8 := by
      rcases which with ⟨rfl, state, rfl⟩ | ⟨rfl, state, rfl⟩ | ⟨rfl, state, rfl⟩
      · exact ⟨(exec_contactorFeedback_closed up back).trans (congrArg _ (if_pos state)), by decide⟩
      · exact ⟨(exec_contactorFeedback_open up back).trans (congrArg _ (if_pos (.inl state))), by decide⟩
      · exact ⟨(exec_contactorFeedback_open up back).trans (congrArg _ (if_pos (.inr state))), by decide⟩
    obtain ⟨state, committed, same, regs, others⟩ := s.xpReached_spec x spec.2
    exact ⟨_, spec.1, state, committed, same, regs, others⟩
  case unexpected =>
    intro s x c up back which
    refine ⟨_, ?_, s.contactorFault_spec x 0x0504 (st := 6) (by decide)⟩
    rcases which with ⟨rfl, state⟩ | ⟨rfl, state⟩
    · rw [exec_contactorFeedback_closed up back, if_neg (by omega), if_pos state]
    · rw [exec_contactorFeedback_open up back, if_neg (by omega), if_pos state]
  case agrees =>
    intro s x which
    by_cases up : s.runs 3 = true
    · rcases which with back | ⟨back, other0, other1⟩ | ⟨back, other2, other3, other5⟩
      · exact exec_contactorFeedback_bad back
      · rw [exec_contactorFeedback_closed up back, if_neg other1, if_neg other0]
      · rw [exec_contactorFeedback_open up back, if_neg (by omega), if_neg other2]
    · exact congrArg Host.Outcome.next (if_neg up)
  case failClose =>
    intro s x up state late open_
    exact ⟨_, congrArg Host.Outcome.next ((State.live_runs up).trans (if_pos ⟨state, late, open_⟩)), s.contactorFault_spec x 0x0502 (by decide)⟩
  case welded =>
    intro s x up state late closed
    exact ⟨_, congrArg Host.Outcome.next ((State.live_runs up).trans (if_pos ⟨state, late, closed⟩)), s.contactorFault_spec x 0x0503 (by decide)⟩
  case clear =>
    intro s who x reaches
    have written : exec (.xpFaultClear who x) s = .next { (served s who).clearXp x with resp := .done } :=
      congrArg Host.Outcome.next (rowWrite_reaches s who _ _ _ reaches)
    have back : (served s who).feedback x = s.feedback x := served_congr (State.feedback · x) s who 4 fun _ => rfl
    rw [written]
    refine ⟨fun differs => ?_, fun agrees sound => ?_, fun agrees fault => ?_⟩ <;> unfold State.clearXp <;> rw [back, served_trs]
    · rw [if_neg differs]
    · rw [if_pos agrees, served_flag, sound]
      rfl
    · rw [if_pos agrees, served_flag, fault, if_pos rfl]
  case release =>
    intro s o c up held top
    have taken : exec (.bayRelease o) s = .next (s.onTrs fun t => { t with
        leaving := t.leaving ++ [c.1], committed := t.committed.setOut o { t.committed.outs.get o with fewer := 0 } }).replan := by
      refine congrArg Host.Outcome.next ((State.live_runs up).trans ((if_pos held).trans ?_))
      rw [top]
    obtain ⟨same, trs, regs⟩ := (s.onTrs fun t => { t with
        leaving := t.leaving ++ [c.1], committed := t.committed.setOut o { t.committed.outs.get o with fewer := 0 } }).replan_planned
    refine ⟨_, taken, trs.leaving, ?_, ?_, same, regs⟩
    · rw [trs.committed]
      change (((s.trs.committed.outs.set o _).get o).fewer) = 0
      rw [Arr.get_set_same]
    · rw [trs.committed]
      rfl

end Sys2Proof.Machine
end

section
/-! SUPPORT. Truss: the exchange records of the peers and the fallback, and the statement on them. -/

namespace Sys2Proof.Machine

open Sys2Proof

variable {s t u : State} {r : PeerRecord}

/-! ### A record kept (R183) -/

/-- The loans of a peer leave the records and the peers' status. -/
structure PeersKept (s t : State) : Prop where
  records : t.trs.records = s.trs.records
  regs : RegsKept [.TRS_LAST_EVENT, .TRS_RB_CNT, .TRS_STAT, .PNT_RING_PROD, .PNT_RING_STAT] s t

theorem PeersKept.refl (s : State) : PeersKept s s := ⟨rfl, RegsKept.refl _ s⟩

theorem PeersKept.trans (h : PeersKept s u) (k : PeersKept u t) : PeersKept s t := ⟨k.records.trans h.records, h.regs.trans k.regs⟩

/-- A loan that ended. -/
def State.loanEnded (s : State) (b : Nat) : State :=
  let t := s.onTrs fun x => { x with committed := x.committed.setBay b (offPlan (s.trs.committed.bays.get b) s.heat) }
  ((t.report 0x0584 b).trussRecord 4 0 0x0584 (b % 32)).invalidate 3 b

theorem State.loanEnded_kept (s : State) (b : Nat) : PeersKept s (s.loanEnded b) := by
  have step (u : State) : PeersKept u ((u.trussRecord 4 0 0x0584 (b % 32)).invalidate 3 b) := by
    obtain ⟨only, -, regs⟩ := (u.trussRecord 4 0 0x0584 (b % 32)).invalidate_spec 3 b
    refine ⟨?_, RegsKept.trans ((u.trussRecord_regs _ _ _ _).mono (by simp)) regs⟩
    rw [only.records, (u.trussRecord_sys _ _ _ _).1]
  have off (f : Trs → Trs) (same : (f s.trs).records = s.trs.records) : PeersKept s ((s.onTrs f).report 0x0584 b) := ⟨same, RegsKept.refl _ s⟩
  exact (off (fun x => { x with committed := x.committed.setBay b (offPlan (s.trs.committed.bays.get b) s.heat) }) rfl).trans (step _)

theorem State.loanCheck_kept (s : State) (r : PeerRecord) : PeersKept s (s.loanCheck r) := by
  refine State.each_induct (P := PeersKept s) (.refl s) fun b _ t before => before.trans ?_
  dsimp only
  split
  · exact t.loanEnded_kept b
  · exact .refl t

/-- A record from a listed peer is kept, and its age starts again. -/
def State.recordTaken (s : State) (r : PeerRecord) : State := (s.keepRecord r).setFld F.TRS_PEER_STAT_AGE r.dev 0

theorem State.recordTaken_spec (s : State) (r : PeerRecord) :
    r ∈ (s.recordTaken r).trs.records ∧ (s.recordTaken r).fld F.TRS_PEER_STAT_AGE r.dev = 0 := by
  refine ⟨List.mem_append_right _ (List.mem_singleton.mpr rfl), ?_⟩
  exact (State.fld_setFld_self (s.keepRecord r) (by decide)).trans (Nat.zero_mod _)

/-! ### A record that fails (R183, R341) -/

/-- The failed record counted under its device index. -/
def State.peerBad (s : State) (dev : Nat) : State := if dev < 8 then s.bumpSat F.TRS_PEER_STAT_BAD dev else s

theorem State.peerBad_spec (s : State) (dev : Nat) : (s.peerBad dev).trs = s.trs
    ∧ (dev < 8 → (s.peerBad dev).fld F.TRS_PEER_STAT_BAD dev = min (s.fld F.TRS_PEER_STAT_BAD dev + 1) 255)
    ∧ RegsKept [.TRS_PEER_STAT] s (s.peerBad dev) := by
  unfold State.peerBad
  split
  · exact ⟨rfl, fun _ => State.fld_bumpSat_self s (by decide), by simp⟩
  · next outside => exact ⟨rfl, fun inside => absurd inside outside, RegsKept.refl _ s⟩

/-! ### The fallback (R184) -/

/-- An event leaves FALLBACK. -/
theorem State.invalidate_fallback (s : State) (cause unit : Nat) : (s.invalidate cause unit).flag F.TRS_STAT_FALLBACK = s.flag F.TRS_STAT_FALLBACK := by
  have window : (s.rolledWindow cause unit).flag F.TRS_STAT_FALLBACK = s.flag F.TRS_STAT_FALLBACK := by
    unfold State.rolledWindow State.showEvent State.showWindow
    dsimp only
    split <;> simp
  cases runs : s.trussRuns
  · rw [State.invalidate_idle runs]
  · rw [State.invalidate_eq runs]
    split
    · obtain ⟨-, -, counted⟩ := (s.rolledWindow cause unit).rollCounted_spec s.pastCutoff cause unit
      refine (counted.flag (by simp) 0).trans (Eq.trans ?_ window)
      exact State.flag_bumpSat_apart _ (.inl (by decide)) (by decide)
    · exact window

/-- FALLBACK shown, reported and recorded. -/
def State.fallbackShown (s : State) : State := ((s.setFld F.TRS_STAT_FALLBACK 0 1).report 0x0506).trussRecord 4 0 0x0506 s.ownDev

theorem State.fallbackShown_spec (s : State) : s.fallbackShown.flag F.TRS_STAT_FALLBACK = true
    ∧ s.fallbackShown.fld F.TRS_STAT_STATE = s.fld F.TRS_STAT_STATE
    ∧ (⟨0x0506, 0⟩ : Report) ∈ s.fallbackShown.reports.drop s.reports.length
    ∧ RegsKept [.TRS_STAT, .PNT_RING_PROD, .PNT_RING_STAT] s s.fallbackShown := by
  have set : (s.setFld F.TRS_STAT_FALLBACK 0 1).flag F.TRS_STAT_FALLBACK = true
      ∧ (s.setFld F.TRS_STAT_FALLBACK 0 1).fld F.TRS_STAT_STATE = s.fld F.TRS_STAT_STATE := by simp [Fld.width]
  have said : (⟨0x0506, 0⟩ : Report) ∈ ((s.setFld F.TRS_STAT_FALLBACK 0 1).report 0x0506).reports.drop s.reports.length :=
    mem_reports_drop (s := s) (u := s.setFld F.TRS_STAT_FALLBACK 0 1) (List.prefix_refl _) rfl
  have kept := ((s.setFld F.TRS_STAT_FALLBACK 0 1).report 0x0506).trussRecord_regs 4 0 0x0506 s.ownDev
  refine ⟨(kept.flag (by decide) 0).trans set.1, (kept.fld (by decide) 0).trans set.2, ?_, ?_⟩
  · exact mem_reports_drop_of_prefix said (State.trussRecord_keeps _ _ _ _ _).reports
  · refine RegsKept.trans ?_ (kept.mono (by simp))
    exact (regsKept_report (s := s)).mpr (by simp)

/-- No heat near enough is agreed. -/
theorem behind_of_agreed {m : Nat} (far : ∀ h, s.agreed = some h → h + m < s.heat) :
    (match s.agreed with | some h => decide (h + m < s.heat) | none => true) = true := by
  cases found : s.agreed with
  | none => rfl
  | some h => exact decide_eq_true (far h found)

/-- Truss's state with the limit that it sees in a fallback. -/
def State.fallbackTrs (s : State) (limit : Nat) : Trs := { s.trs with current := 0, seen := { s.trs.seen with limit := limit } }

theorem exec_peerFallback (up : s.runs 3 = true) (peers : 1 < s.siteDevs.length)
    (far : ∀ h, s.agreed = some h → h + s.fld F.TRS_GRID_CFG_MISS_LIM < s.heat) (open_ : s.flag F.TRS_STAT_FALLBACK = false) :
    ∃ l, exec .peerFallback s = .next (({ s.fallbackShown with trs := s.fallbackShown.fallbackTrs l }).invalidate 9 s.ownDev) :=
  ⟨_, congrArg Host.Outcome.next ((State.live_runs up).trans (if_pos ⟨peers, behind_of_agreed far, open_⟩))⟩

/-! ### The statement -/

/-- The table entry of the device that sent a record. -/
def State.listedFor (s : State) (r : PeerRecord) : Option (Nat × Nat) := s.siteDevs.find? fun d => decide (d.1 = r.dev ∧ r.dev ≠ s.ownDev)

theorem exec_exchangeRecord (up : s.runs 3 = true) (bytes : List Byte) : exec (.exchangeRecord bytes) s = .next
    (if s.recordFault bytes ((s.listedFor (readRecord bytes)).map Prod.snd) ≠ 0 then
      (s.peerBad (readRecord bytes).dev).violation 4 (s.recordFault bytes ((s.listedFor (readRecord bytes)).map Prod.snd)) none 255 none bytes
        (key := (readRecord bytes).dev)
    else if (s.listedFor (readRecord bytes)).isSome then (s.recordTaken (readRecord bytes)).loanCheck (readRecord bytes) else s) :=
  congrArg Host.Outcome.next ((State.live_runs up).trans rfl)

/-- Settles O34. -/
theorem peerRecordsAndFallback : Obligations.PeerRecordsAndFallback := by
  unfold Obligations.PeerRecordsAndFallback
  refine ⟨?record, ?falls, ?ends, ?stays⟩
  case record =>
    intro s bytes up
    have run := exec_exchangeRecord up bytes
    change (_ → s.recordFault bytes ((s.listedFor (readRecord bytes)).map Prod.snd) = 0 → _)
      ∧ (s.listedFor (readRecord bytes) = none → _) ∧ (s.recordFault bytes ((s.listedFor (readRecord bytes)).map Prod.snd) ≠ 0 → _)
    refine ⟨fun listed sound => ?_, fun alone sound => ?_, fun fails => ?_⟩
    · change (s.listedFor (readRecord bytes)).isSome = true at listed
      rw [if_neg (not_not.mpr sound), if_pos listed] at run
      obtain ⟨records, regs⟩ := (s.recordTaken (readRecord bytes)).loanCheck_kept (readRecord bytes)
      obtain ⟨kept, age⟩ := s.recordTaken_spec (readRecord bytes)
      exact ⟨_, run, records ▸ kept, (regs.fld (by decide) _).trans age⟩
    · rw [alone, Option.map_none, if_neg (not_not.mpr sound)] at run
      exact run
    · rw [if_pos fails] at run
      refine ⟨_, run, ?_⟩
      obtain ⟨trs, bad, regs⟩ := s.peerBad_spec (readRecord bytes).dev
      generalize s.peerBad (readRecord bytes).dev = u at trs bad regs ⊢
      generalize s.recordFault bytes _ = code
      have kept := (u.violation_kept 4 code none 255 none bytes none (readRecord bytes).dev).regsKept
        (rs := [.NET_VIOL_CNT, .PNT_RING_PROD, .PNT_RING_STAT]) (by simp)
      have count := u.violation_count 4 code none 255 none bytes none (readRecord bytes).dev
      obtain ⟨_, _, _, _, _, _, _, _, -, same⟩ := u.violation_eq 4 code none 255 none bytes none (readRecord bytes).dev
      refine ⟨?_, fun inside => (kept.fld (by decide) _).trans (bad inside), ?_, (regs.mono (by simp)).trans (kept.mono (by simp))⟩
      · rw [same]
        exact trs
      · rw [count, regs.fld (by decide)]
        rfl
  case falls =>
    intro s up peers far open_
    obtain ⟨l, run⟩ := exec_peerFallback up peers far open_
    refine ⟨_, run, ?_⟩
    obtain ⟨shown, state, said, kept⟩ := s.fallbackShown_spec
    have active (runs : s.trussRuns = true) : State.trussRuns { s.fallbackShown with trs := s.fallbackShown.fallbackTrs l } = true := by
      rw [← runs, State.trussRuns, State.trussRuns, ← state]
      rfl
    have begun : ∃ u : State, u = { s.fallbackShown with trs := s.fallbackShown.fallbackTrs l } ∧ u.trs.current = 0 ∧ u.regs = s.fallbackShown.regs
        ∧ u.reports = s.fallbackShown.reports := ⟨_, rfl, rfl, rfl, rfl⟩
    obtain ⟨u, named, current, sameRegs, sameReports⟩ := begun
    rw [← named] at active ⊢
    obtain ⟨only, -, regs⟩ := u.invalidate_spec 9 s.ownDev
    refine ⟨(u.invalidate_fallback 9 s.ownDev).trans ?_, only.current.trans current, ?_, fun runs => ?_, ?_⟩
    · rw [← shown, State.flag, State.flag, State.fld, State.fld, State.reg, State.reg, sameRegs]
    · exact mem_reports_drop_of_prefix said (sameReports ▸ (u.invalidate_keeps 9 s.ownDev).reports)
    · obtain ⟨-, rebuild, -, event, -⟩ := State.invalidate_rolled (active runs) 9 s.ownDev
      exact ⟨event, by rw [rebuild]; rfl⟩
    · exact (kept.mono (by simp)).trans ((regsKept_of_regs sameRegs).trans (regs.mono (by simp)))
  case ends =>
    intro s up falls late
    exact congrArg Host.Outcome.next ((State.live_runs up).trans (if_pos ⟨falls, late⟩))
  case stays =>
    intro s early
    refine congrArg Host.Outcome.next ?_
    by_cases up : s.runs 3 = true
    · exact (State.live_runs up).trans (if_neg fun h => absurd h.2 (by omega))
    · exact if_neg up

end Sys2Proof.Machine
end

section
/-! SUPPORT. Hallmark: the log, the records, the energy gaps and the end of a transaction. -/

namespace Sys2Proof.Machine

open Sys2Proof

variable {s t u : State}

/-! ### A record (R235, R239) -/

/-- What the log's figures touch. -/
theorem State.showLog_regs (s : State) : CellsKept [(.ASY_HMK_STAT, 0)] s s.showLog ∧ s.showLog = { s with regs := s.showLog.regs } := by
  refine ⟨?_, rfl⟩
  unfold State.showLog
  simp

/-- A change of the log and of its figures. -/
structure LogOnly (s t : State) : Prop where
  regs : CellsKept [(.ASY_HMK_STAT, 0)] s t
  same : ∃ l q, t = { s with regs := t.regs, asy := { s.asy with log := l, queue := q } }

theorem LogOnly.trans (h : LogOnly s u) (k : LogOnly u t) : LogOnly s t := by
  obtain ⟨regs, l, q, same⟩ := h
  obtain ⟨regs', l', q', same'⟩ := k
  exact ⟨regs.trans regs', l', q', by rw [same', same]⟩

theorem State.showLog_only (s : State) : LogOnly s s.showLog := ⟨s.showLog_regs.1, s.asy.log, s.asy.queue, s.showLog_regs.2⟩

theorem logOnly_asy (s : State) (l q : List HmkRec) : LogOnly s { s with asy := { s.asy with log := l, queue := q } } :=
  ⟨CellsKept.refl _ s, l, q, rfl⟩

theorem State.fillLog_only (s : State) : LogOnly s s.fillLog := by
  have shown_ (l q : List HmkRec) : LogOnly s (State.showLog { s with asy := { s.asy with log := l, queue := q } }) :=
    (logOnly_asy s l q).trans (State.showLog_only _)
  exact shown_ ((s.asy.queue.take (254 - s.logUsed)).foldl (fun l r => insertRec r l) s.asy.log) (s.asy.queue.drop (254 - s.logUsed))

theorem State.logRec_only (s : State) (r : HmkRec) : LogOnly s (s.logRec r) := by
  unfold State.logRec
  split
  · exact (logOnly_asy s (insertRec r s.asy.log) s.asy.queue).trans (State.showLog_only { s with asy := { s.asy with log := insertRec r s.asy.log } })
  · exact (logOnly_asy s s.asy.log (s.asy.queue ++ [{ r with reserved := false }])).trans
      (State.fillLog_only { s with asy := { s.asy with queue := s.asy.queue ++ [{ r with reserved := false }] } })

/-- A record written: it took the next RSEQ, and beside the log and the counters nothing else changed. -/
structure Recorded (s t : State) : Prop where
  regs : RegsKept [.ASY_RSEQ_LO, .ASY_RSEQ_HI, .ASY_HMK_STAT] s t
  written : RecordWritten s t
  same : ∃ l q, t = { s with regs := t.regs, scb := t.scb, asy := { s.asy with log := l, queue := q } }

theorem State.writeRec_recorded (s : State) (h : RecHead) (body : List Byte) (k : RecKind) : Recorded s (s.writeRec h body k) := by
  obtain ⟨r, seq⟩ : ∃ r, r = s.pair .ASY_RSEQ_LO .ASY_RSEQ_HI := ⟨_, rfl⟩
  have logged (x : HmkRec) : Recorded s (((s.setPair .ASY_RSEQ_LO .ASY_RSEQ_HI 0 (r + 1)).count 13 0).logRec x) := by
    obtain ⟨regs, l, q, same⟩ := ((s.setPair .ASY_RSEQ_LO .ASY_RSEQ_HI 0 (r + 1)).count 13 0).logRec_only x
    refine ⟨?_, ?_, l, q, ?_⟩
    · refine RegsKept.trans ?_ (regs.regsKept (by simp))
      simp
    · have next : ((s.setPair .ASY_RSEQ_LO .ASY_RSEQ_HI 0 (r + 1)).count 13 0).pair .ASY_RSEQ_LO .ASY_RSEQ_HI = (r + 1) % 2 ^ 64 :=
        State.pair_setPair_same s (by decide)
      rw [RecordWritten, ← seq, ← next, State.pair, State.pair, regs _ _ (by decide), regs _ _ (by decide)]
    · rw [same]
      rfl
  unfold State.writeRec
  dsimp only
  rw [← seq]
  exact logged _

namespace Recorded

theorem asy (h : Recorded s t) : ∃ l q, t.asy = { s.asy with log := l, queue := q } := by
  obtain ⟨-, -, l, q, same⟩ := h
  exact ⟨l, q, by rw [same]⟩

theorem reports (h : Recorded s t) : t.reports = s.reports := by
  obtain ⟨-, -, l, q, same⟩ := h
  rw [same]

end Recorded

/-- A record counted from a state with the same RSEQ. -/
theorem RecordWritten.of (h : RecordWritten u t) (regs : RegsKept rs s u) (low : .ASY_RSEQ_LO ∉ rs) (high : .ASY_RSEQ_HI ∉ rs) : RecordWritten s t := by
  rw [RecordWritten] at h ⊢
  rw [h, State.pair, State.pair, regs _ _ low, regs _ _ high]

/-- A record counted, and kept by what follows. -/
theorem RecordWritten.kept (h : RecordWritten s u) (regs : RegsKept rs u t) (low : .ASY_RSEQ_LO ∉ rs) (high : .ASY_RSEQ_HI ∉ rs) : RecordWritten s t := by
  rw [RecordWritten] at h ⊢
  rw [← h, State.pair, State.pair, regs _ _ low, regs _ _ high]

/-! ### Gaps (R249) -/

/-- Assay's state after the bounds of a gap: the points are marked, and open transactions stay open. -/
structure GapMarked (a b : Asy) : Prop where
  same : ∃ m x l q, b = { a with meters := m, txns := x, log := l, queue := q }
  gap : ∀ n, (b.meters.get n).gap = (a.meters.get n).gap
  txns : ∀ n, (b.txns.get n).isSome = (a.txns.get n).isSome

theorem GapMarked.refl (a : Asy) : GapMarked a a := ⟨⟨a.meters, a.txns, a.log, a.queue, rfl⟩, fun _ => rfl, fun _ => rfl⟩

theorem GapMarked.trans {a b c : Asy} (h : GapMarked a b) (k : GapMarked b c) : GapMarked a c := by
  obtain ⟨⟨m, x, l, q, same⟩, gap, txns⟩ := h
  obtain ⟨⟨m', x', l', q', same'⟩, gap', txns'⟩ := k
  exact ⟨⟨m', x', l', q', by rw [same', same]⟩, fun n => (gap' n).trans (gap n), fun n => (txns' n).trans (txns n)⟩

/-- A point's part in a gap. -/
def State.gapPoint (s : State) (bound : Nat → Nat) (n : Nat) : State :=
  (s.onMeter n fun m => { m with gapped := true }).onAsy fun a =>
    { a with txns := a.txns.upd n (Option.map fun y => { y with bound := y.bound + bound n }) }

theorem State.gapPoint_marks (s : State) (bound : Nat → Nat) (n : Nat) :
    s.gapPoint bound n = { s with asy := (s.gapPoint bound n).asy } ∧ GapMarked s.asy (s.gapPoint bound n).asy := by
  refine ⟨rfl, ⟨_, _, _, _, rfl⟩, fun k => ?_, fun k => ?_⟩
  · change ((s.asy.meters.upd n _).get k).gap = _
    by_cases own : k = n
    · subst own
      rw [Arr.get_upd_same]
    · rw [Arr.get_upd_ne _ own]
  · change ((s.asy.txns.upd n _).get k).isSome = _
    by_cases own : k = n
    · subst own
      rw [Arr.get_upd_same, Option.isSome_map]
    · rw [Arr.get_upd_ne _ own]

theorem State.gapPoints_marks (bound : Nat → Nat) (pts : List Nat) (s : State) :
    pts.foldl (fun t n => t.gapPoint bound n) s = { s with asy := (pts.foldl (fun t n => t.gapPoint bound n) s).asy }
    ∧ GapMarked s.asy (pts.foldl (fun t n => t.gapPoint bound n) s).asy := by
  induction pts generalizing s with
  | nil => exact ⟨rfl, GapMarked.refl _⟩
  | cons n pts ih =>
    obtain ⟨same, marks⟩ := s.gapPoint_marks bound n
    obtain ⟨same', marks'⟩ := ih (s.gapPoint bound n)
    refine ⟨?_, marks.trans marks'⟩
    rw [List.foldl_cons, same', same]

/-- A gap's record: 0BA3h, and the marks of its points. -/
structure GapRecorded (s t : State) : Prop where
  regs : RegsKept [.ASY_RSEQ_LO, .ASY_RSEQ_HI, .ASY_HMK_STAT] s t
  written : RecordWritten s t
  marks : GapMarked s.asy t.asy
  reports : t.reports = s.reports ++ [⟨0x0BA3, 0⟩]
  same : t = { s with regs := t.regs, scb := t.scb, asy := t.asy, reports := t.reports }

theorem State.gapRecord_spec (s : State) (pts : List Nat) (start span cause flags : Nat) (k : RecKind) :
    GapRecorded s (s.gapRecord pts start span cause flags k) := by
  have marked (bound : Nat → Nat) (w : State) (h : Recorded s w) : GapRecorded s ((pts.foldl (fun t n => t.gapPoint bound n) w).report 0x0BA3) := by
    obtain ⟨same, marks⟩ := State.gapPoints_marks bound pts w
    obtain ⟨l, q, asy⟩ := h.asy
    have log : GapMarked s.asy w.asy := asy ▸ ⟨⟨_, _, l, q, rfl⟩, fun _ => rfl, fun _ => rfl⟩
    generalize pts.foldl (fun t n => t.gapPoint bound n) w = v at same marks ⊢
    have regs : v.regs = w.regs := by rw [same]
    refine ⟨h.regs.trans (regsKept_of_regs regs), h.written.kept (rs := []) (regsKept_of_regs regs) (by simp) (by simp), log.trans marks, ?_, ?_⟩
    · change v.reports ++ _ = _
      rw [same, ← h.reports]
    · obtain ⟨l, q, other⟩ := h.same
      rw [same, other]
      rfl
  exact marked _ _ (s.writeRec_recorded _ _ k)

/-- A gap closed at a point, if one was open. -/
structure GapClosed (n : Nat) (s t : State) : Prop where
  regs : RegsKept [.ASY_RSEQ_LO, .ASY_RSEQ_HI, .ASY_HMK_STAT] s t
  closed : (t.asy.meters.get n).gap = none
  others : ∀ k, k ≠ n → (t.asy.meters.get k).gap = (s.asy.meters.get k).gap
  asy : ∃ m x l q, t.asy = { s.asy with meters := m, txns := x, log := l, queue := q }
  txns : ∀ k, (t.asy.txns.get k).isSome = (s.asy.txns.get k).isSome
  recorded : (s.asy.meters.get n).gap.isSome = true → RecordWritten s t ∧ t.reports = s.reports ++ [⟨0x0BA3, 0⟩]
  same : t = { s with regs := t.regs, scb := t.scb, asy := t.asy, reports := t.reports }

theorem State.closeGapAt_closes (s : State) (n end_ : Nat) (k : RecKind) : GapClosed n s (s.closeGapAt n end_ k) := by
  cases found : (s.asy.meters.get n).gap with
  | none =>
    have stays : s.closeGapAt n end_ k = s := by
      unfold State.closeGapAt
      rw [found]
    rw [stays]
    exact ⟨RegsKept.refl _ s, found, fun _ _ => rfl, ⟨_, _, _, _, rfl⟩, fun _ => rfl, fun some_ => by rw [found] at some_; exact Bool.noConfusion some_, rfl⟩
  | some st =>
    have eq : s.closeGapAt n end_ k = (s.onMeter n fun m => { m with gap := none }).gapRecord [n] st (end_ - st) (if n < 32 then 4 else 3) 16 k := by
      unfold State.closeGapAt
      rw [found]
    rw [eq]
    obtain ⟨regs, written, marks, reports, same⟩ :=
      (s.onMeter n fun m => { m with gap := none }).gapRecord_spec [n] st (end_ - st) (if n < 32 then 4 else 3) 16 k
    refine ⟨regs, (marks.gap n).trans ?_, fun j other => (marks.gap j).trans ?_, ?_, fun j => marks.txns j, fun _ => ⟨written, reports⟩, same⟩
    · change ((s.asy.meters.upd n _).get n).gap = none
      rw [Arr.get_upd_same]
    · change ((s.asy.meters.upd n _).get j).gap = _
      rw [Arr.get_upd_ne _ other]
    · obtain ⟨m, x, l, q, asy⟩ := marks.same
      exact ⟨m, x, l, q, asy⟩

/-! ### The contactor's records (R254) -/

theorem State.discRecord_recorded (s : State) (o event : Nat) : Recorded s (s.discRecord o event) := by
  unfold State.discRecord
  split <;> exact s.writeRec_recorded _ _ _

theorem State.writePoint_asy (s : State) (w : PointWrite) : (s.writePoint w).asy = s.asy := by
  have refused : (s.writerErr w.id).asy = s.asy := by
    unfold State.writerErr
    dsimp only
    split <;> rfl
  unfold State.writePoint
  split
  · split
    · rfl
    · exact refused
  · exact refused

/-- The command of a contactor leaves the registers of Assay and its state. -/
theorem State.discWrite_kept (s : State) (o v : Nat) : RegsKept [.PNT_STAT] s (s.discWrite o v) ∧ (s.discWrite o v).asy = s.asy := by
  unfold State.discWrite
  split
  · split
    · exact ⟨(s.writePoint_regs _).regsKept (by simp), s.writePoint_asy _⟩
    · exact ⟨RegsKept.refl _ s, rfl⟩
  · exact ⟨RegsKept.refl _ s, rfl⟩

end Sys2Proof.Machine
end

section
/-! SUPPORT. The end of a transaction, the mailbox, and the statement on the seal. -/

namespace Sys2Proof.Machine

open Sys2Proof

variable {s t u : State} {n o : Nat}

/-! ### The end of a transaction (R237, R254) -/

/-- What the end of a transaction leaves of Assay's state. -/
structure TxnOver (n : Nat) (a b : Asy) : Prop where
  same : ∃ m x l q d, b = { a with meters := m, txns := x, log := l, queue := q, disc := d }
  none_ : b.txns.get n = none
  closed : ∀ k, a.txns.get k = none → b.txns.get k = none

/-- A transaction ended after its record. -/
def State.txnEnded (s : State) (n o : Nat) : State :=
  let t := ((s.onAsy fun a => { a with txns := a.txns.set n none }).onDisc o fun d => { d with spent := false }).reopenGap n
  let disc := t.fld F.ASY_PREPAY_STAT_DISC o
  ((t.setReg .ASY_PREPAY_STAT o 0).setFld F.ASY_PREPAY_STAT_DISC o disc).discAsk o

theorem State.reopenGap_asy (s : State) (n : Nat) : (s.reopenGap n).regs = s.regs ∧ ∃ m, (s.reopenGap n).asy = { s.asy with meters := m } := by
  unfold State.reopenGap State.when
  split
  · exact ⟨rfl, _, rfl⟩
  · exact ⟨rfl, _, rfl⟩

theorem State.discAsk_asy (s : State) (o : Nat) : (s.discAsk o).regs = s.regs ∧ ∃ d, (s.discAsk o).asy = { s.asy with disc := d } := by
  unfold State.discAsk
  split
  · exact ⟨rfl, _, rfl⟩
  · exact ⟨rfl, _, rfl⟩

theorem State.txnEnded_spec (s : State) (n o : Nat) : TxnOver n s.asy (s.txnEnded n o).asy ∧ RegsKept [.ASY_PREPAY_STAT] s (s.txnEnded n o)
    ∧ (s.txnEnded n o).flag F.ASY_PREPAY_STAT_TXN o = false ∧ (s.txnEnded n o).flag F.ASY_PREPAY_STAT_EXHAUSTED o = false := by
  have ended (u : State) : (u.setReg .ASY_PREPAY_STAT o 0 |>.setFld F.ASY_PREPAY_STAT_DISC o (u.fld F.ASY_PREPAY_STAT_DISC o)).flag F.ASY_PREPAY_STAT_TXN o
        = false
      ∧ (u.setReg .ASY_PREPAY_STAT o 0 |>.setFld F.ASY_PREPAY_STAT_DISC o (u.fld F.ASY_PREPAY_STAT_DISC o)).flag F.ASY_PREPAY_STAT_EXHAUSTED o = false
      ∧ RegsKept [.ASY_PREPAY_STAT] u (u.setReg .ASY_PREPAY_STAT o 0 |>.setFld F.ASY_PREPAY_STAT_DISC o (u.fld F.ASY_PREPAY_STAT_DISC o)) := by
    refine ⟨?_, ?_, by simp⟩ <;> rw [State.flag_setFld_apart _ (.inr (by decide)) (by decide), State.flag, State.fld, State.reg_setReg_same] <;> rfl
  unfold State.txnEnded
  dsimp only
  obtain ⟨regs, m, asy⟩ := ((s.onAsy fun a => { a with txns := a.txns.set n none }).onDisc o fun d => { d with spent := false }).reopenGap_asy n
  generalize ((s.onAsy fun a => { a with txns := a.txns.set n none }).onDisc o fun d => { d with spent := false }).reopenGap n = u at regs asy ⊢
  obtain ⟨txn, exhausted, kept⟩ := ended u
  obtain ⟨regs', d, asy'⟩ := (u.setReg .ASY_PREPAY_STAT o 0 |>.setFld F.ASY_PREPAY_STAT_DISC o (u.fld F.ASY_PREPAY_STAT_DISC o)).discAsk_asy o
  refine ⟨?_, (regsKept_of_regs regs).trans (kept.trans (regsKept_of_regs regs')), ?_, ?_⟩
  · rw [asy']
    change TxnOver n s.asy { u.asy with disc := d }
    rw [asy]
    refine ⟨⟨m, _, _, _, d, rfl⟩, Arr.get_set_same _ _ _, fun k none_ => ?_⟩
    change (s.asy.txns.set n none).get k = none
    by_cases own : k = n
    · subst own
      exact Arr.get_set_same _ _ _
    · rw [Arr.get_set_ne _ own]
      exact none_
  · exact ((regsKept_of_regs (rs := []) regs').flag (by simp) o).trans txn
  · exact ((regsKept_of_regs (rs := []) regs').flag (by simp) o).trans exhausted

/-- A transaction stopped: none is open at its point. -/
structure TxnStopped (n : Nat) (s t : State) : Prop where
  asy : TxnOver n s.asy t.asy
  regs : RegsKept [.ASY_RSEQ_LO, .ASY_RSEQ_HI, .ASY_HMK_STAT, .ASY_PREPAY_STAT] s t
  flags : (s.asy.txns.get n).isSome = true →
    t.flag F.ASY_PREPAY_STAT_TXN (s.ptOut n) = false ∧ t.flag F.ASY_PREPAY_STAT_EXHAUSTED (s.ptOut n) = false

theorem State.stopTxn_eq {x : Txn} (found : (s.closeGap n).asy.txns.get n = some x) (reason : Nat) : ∃ h body,
    s.stopTxn n reason = ((s.closeGap n).writeRec h body ⟨false, false⟩).txnEnded n ((s.closeGap n).ptOut n) := by
  unfold State.stopTxn
  rw [found]
  exact ⟨_, _, rfl⟩

theorem State.stopTxn_spec (s : State) (n reason : Nat) : TxnStopped n s (s.stopTxn n reason) := by
  have closed := s.closeGapAt_closes n s.asy.now ⟨false, false⟩
  change GapClosed n s (s.closeGap n) at closed
  cases found : (s.closeGap n).asy.txns.get n with
  | none =>
    have stays : s.stopTxn n reason = s := by
      unfold State.stopTxn
      rw [found]
    have none_ : s.asy.txns.get n = none := by
      have gone := closed.txns n
      rw [found] at gone
      exact Option.isNone_iff_eq_none.mp (by rw [← Option.not_isSome, ← gone]; rfl)
    rw [stays]
    exact ⟨⟨⟨_, _, _, _, _, rfl⟩, none_, fun _ h => h⟩, RegsKept.refl _ s, fun some_ => by rw [none_] at some_; exact Bool.noConfusion some_⟩
  | some x =>
    obtain ⟨h, body, eq⟩ := State.stopTxn_eq found reason
    have out : (s.closeGap n).ptOut n = s.ptOut n := closed.regs.fld (by decide) n
    rw [eq, out]
    have recorded := (s.closeGap n).writeRec_recorded h body ⟨false, false⟩
    obtain ⟨m, y, l, q, gapAsy⟩ := closed.asy
    have txns := closed.txns
    have gapRegs := closed.regs
    generalize (s.closeGap n).writeRec h body ⟨false, false⟩ = v at recorded ⊢
    obtain ⟨l', q', asy⟩ := recorded.asy
    obtain ⟨ended, regs, txn, exhausted⟩ := v.txnEnded_spec n (s.ptOut n)
    refine ⟨⟨?_, ended.none_, fun k none_ => ended.closed k ?_⟩, ?_, fun _ => ⟨txn, exhausted⟩⟩
    · obtain ⟨m', x', l'', q'', d, same⟩ := ended.same
      exact ⟨m', x', l'', q'', d, by rw [same, asy, gapAsy]⟩
    · rw [asy]
      have gone := txns k
      rw [none_] at gone
      exact Option.isNone_iff_eq_none.mp (by rw [← Option.not_isSome, gone]; rfl)
    · exact (gapRegs.mono (by simp)).trans ((recorded.regs.mono (by simp)).trans (regs.mono (by simp)))

/-- Transactions stopped at some points. -/
structure TxnsStopped (l : List Nat) (s t : State) : Prop where
  asy : ∃ m x k q d, t.asy = { s.asy with meters := m, txns := x, log := k, queue := q, disc := d }
  regs : RegsKept [.ASY_RSEQ_LO, .ASY_RSEQ_HI, .ASY_HMK_STAT, .ASY_PREPAY_STAT] s t
  none_ : ∀ n ∈ l, t.asy.txns.get n = none
  closed : ∀ n, s.asy.txns.get n = none → t.asy.txns.get n = none

theorem State.stopTxns_spec (reason : Nat) (l : List Nat) (s : State) : TxnsStopped l s (s.each l fun n t => t.stopTxn n reason) := by
  induction l generalizing s with
  | nil => exact ⟨⟨_, _, _, _, _, rfl⟩, RegsKept.refl _ s, (fun _ h => nomatch h), fun _ h => h⟩
  | cons n l ih =>
    rw [State.each_cons]
    obtain ⟨⟨same, none_, closed⟩, regs, -⟩ := s.stopTxn_spec n reason
    obtain ⟨same', regs', none', closed'⟩ := ih (s.stopTxn n reason)
    refine ⟨?_, regs.trans regs', fun k listed => ?_, fun k h => closed' k (closed k h)⟩
    · obtain ⟨m, x, k, q, d, same⟩ := same
      obtain ⟨m', x', k', q', d', same'⟩ := same'
      exact ⟨m', x', k', q', d', by rw [same', same]⟩
    · rcases List.mem_cons.mp listed with rfl | later
      · exact closed' k none_
      · exact none' k later

/-! ### The mailbox (R210) -/

/-- What a finished frame leaves. -/
theorem State.mailDone_spec (s : State) (code : Nat) : Answered (code % 2 ^ 16) (s.mailDone code) ∧ CellsKept [(.ASY_MBX_STAT, 0)] s (s.mailDone code)
    ∧ (s.mailDone code).asy = { s.asy with frame := [] } ∧ (s.mailDone code).mem = s.mem := by
  have done (u : State) : ((u.setFld F.ASY_MBX_STAT_BUSY 0 0).setFld F.ASY_MBX_STAT_CODE 0 code).flag F.ASY_MBX_STAT_BUSY = false
      ∧ ((u.setFld F.ASY_MBX_STAT_BUSY 0 0).setFld F.ASY_MBX_STAT_CODE 0 code).fld F.ASY_MBX_STAT_CODE = code % 2 ^ 16
      ∧ CellsKept [(.ASY_MBX_STAT, 0)] u ((u.setFld F.ASY_MBX_STAT_BUSY 0 0).setFld F.ASY_MBX_STAT_CODE 0 code) := by simp [Fld.width]
  obtain ⟨busy, shows, cells⟩ := done s
  unfold State.mailDone
  dsimp only
  split <;> exact ⟨⟨busy, shows, rfl⟩, cells, rfl, rfl⟩

/-- The state that a served frame leaves. -/
def mailAnswer (r : Nat × State) : State := r.2.mailDone r.1

/-- The frame in progress is served. -/
theorem State.mail_eq {op : Nat} {b : List Byte} (mailed : Mailed s op b) (f : List Byte → Nat × State) :
    s.live 5 (s.mail op f) = mailAnswer (f b) := by
  obtain ⟨up, busy, opcode, rfl⟩ := mailed
  refine (State.live_runs up).trans ?_
  unfold State.mail
  rw [busy, opcode, decide_eq_true rfl]
  rfl

/-- An accepted frame answers 0B00h. -/
theorem State.mailDone_ok (s : State) : Answered 0x0B00 (s.mailDone 0x0B00) ∧ RegsKept [.ASY_MBX_STAT] s (s.mailDone 0x0B00)
    ∧ (s.mailDone 0x0B00).asy = { s.asy with frame := [] } := by
  obtain ⟨answered, cells, asy, -⟩ := s.mailDone_spec 0x0B00
  exact ⟨answered, cells.regsKept (by simp), asy⟩

end Sys2Proof.Machine
end

section
/-! SUPPORT. Sealed changes, the seal, the signing of the log, and the statement on them. -/

namespace Sys2Proof.Machine

open Sys2Proof

variable {s t u : State} {b : List Byte}

/-! ### GO (R210) -/

theorem State.fetch_reads {w : Initiator} {a n : Nat} (read : (s.fetch w a n).1 = some b) : (s.fetch w a n).2 = s := by
  unfold State.fetch at read ⊢
  cases fault : s.unitFault w a n false with
  | zero => rfl
  | succ c =>
    rw [fault] at read
    exact nomatch read

/-- A frame that was read left the state alone. -/
theorem State.mailFrame_reads (read : s.mailFrame.1 = some b) : s.mailFrame.2 = s := by
  have eq : s.mailFrame = if s.pair .ASY_MBX_ADDR_LO .ASY_MBX_ADDR_HI % 8 = 0 then
      s.fetch assayPort (s.pair .ASY_MBX_ADDR_LO .ASY_MBX_ADDR_HI) (s.fld F.ASY_MBX_LEN_LEN) else (none, s) := rfl
  rw [eq] at read ⊢
  by_cases aligned : s.pair .ASY_MBX_ADDR_LO .ASY_MBX_ADDR_HI % 8 = 0
  · rw [if_pos aligned] at read ⊢
    exact State.fetch_reads read
  · rw [if_neg aligned]

/-- A frame taken. -/
theorem State.frameTaken_spec (s : State) (b : List Byte) :
    ((s.setFld F.ASY_MBX_STAT_BUSY 0 1).onAsy fun a => { a with frame := b, seq := u32 b 4 }).flag F.ASY_MBX_STAT_BUSY = true
    ∧ CellsKept [(.ASY_MBX_STAT, 0)] s ((s.setFld F.ASY_MBX_STAT_BUSY 0 1).onAsy fun a => { a with frame := b, seq := u32 b 4 }) := by
  have set : (s.setFld F.ASY_MBX_STAT_BUSY 0 1).flag F.ASY_MBX_STAT_BUSY = true
      ∧ CellsKept [(.ASY_MBX_STAT, 0)] s (s.setFld F.ASY_MBX_STAT_BUSY 0 1) := by simp [Fld.width]
  exact set

/-! ### A sealed change (R229) -/

/-- A sealed register is none of those that a record or a change of a point's figures writes. -/
theorem sealed_apart {r : Reg} (writable : r.row.rw ≠ 0) :
    r ∉ [Reg.ASY_PT_PFS, .ASY_RSEQ_LO, .ASY_RSEQ_HI, .ASY_HMK_STAT, .ASY_TPO_STAT] := by
  intro listed
  simp only [List.mem_cons, List.not_mem_nil, or_false] at listed
  rcases listed with rfl | rfl | rfl | rfl | rfl <;> exact writable rfl

/-- A sealed register took its bits. -/
structure SealedTaken (r : Reg) (k : Nat) (v : W32) (s t : State) : Prop where
  taken : t.reg r k = (s.reg r k &&& ~~~r.row.rw) ||| (v &&& r.row.rw)
  written : RecordWritten s t
  others : ∀ q i, (q, i) ≠ (r, k) → q ∉ [Reg.ASY_PT_PFS, .ASY_RSEQ_LO, .ASY_RSEQ_HI, .ASY_HMK_STAT, .ASY_TPO_STAT] → t.reg q i = s.reg q i
  rws : t.asy.rws = s.asy.rws

theorem SealedTaken.kept {r : Reg} {k : Nat} {v : W32} {rs : List Reg} (h : SealedTaken r k v s u) (writable : r.row.rw ≠ 0) (regs : RegsKept rs u t)
    (sub : rs ⊆ [Reg.ASY_PT_PFS, .ASY_TPO_STAT]) (rws : t.asy.rws = u.asy.rws) : SealedTaken r k v s t := by
  have wide : rs ⊆ [Reg.ASY_PT_PFS, .ASY_RSEQ_LO, .ASY_RSEQ_HI, .ASY_HMK_STAT, .ASY_TPO_STAT] := fun q listed => by
    have narrow := sub listed
    simp only [List.mem_cons, List.not_mem_nil, or_false] at narrow ⊢
    rcases narrow with rfl | rfl <;> simp
  have apart (q : Reg) (other : q ∉ [Reg.ASY_PT_PFS, .ASY_TPO_STAT]) : q ∉ rs := fun listed => other (sub listed)
  refine ⟨(regs _ _ fun listed => sealed_apart writable (wide listed)).trans h.taken, ?_, fun q i other outside => ?_, rws.trans h.rws⟩
  · exact h.written.kept regs (apart _ (by decide)) (apart _ (by decide))
  · exact (regs _ _ fun listed => outside (wide listed)).trans (h.others q i other outside)

/-- A test output starts afresh. -/
def State.tpoAfresh (s : State) (k : Nat) : State :=
  (s.setFld F.ASY_TPO_STAT_PENDING k 0).onAsy fun a => { a with tpos := a.tpos.upd k fun x => { x with acc := 0, start := none } }

theorem SealedTaken.afresh {r : Reg} {k : Nat} {v : W32} (h : SealedTaken r k v s u) (writable : r.row.rw ≠ 0) :
    SealedTaken r k v s (u.tpoAfresh k) := by
  have waits : RegsKept [.ASY_TPO_STAT] u (u.setFld F.ASY_TPO_STAT_PENDING k 0) := by simp
  exact h.kept writable (waits.trans (regsKept_of_regs (t := u.tpoAfresh k) rfl)) (by simp) rfl

theorem State.applyRws_eq (s : State) (r : Reg) (k : Nat) (v : W32) : ∃ head body, s.applyRws r k v =
    if r = .ASY_TPO_CFG ∧ s.reg r k ≠ (s.sealedPut r k v).reg r k then ((s.sealedPut r k v).writeRec head body ⟨false, false⟩).tpoAfresh k
    else (s.sealedPut r k v).writeRec head body ⟨false, false⟩ := ⟨_, _, rfl⟩

theorem State.applyRws_spec (s : State) (r : Reg) (k : Nat) (v : W32) (writable : r.row.rw ≠ 0) : SealedTaken r k v s (s.applyRws r k v) := by
  have same : (s.sealedPut r k v).reg r k = (s.reg r k &&& ~~~r.row.rw) ||| (v &&& r.row.rw) := s.reg_setReg_same r k _
  have other (q : Reg) (i : Nat) (apart : (q, i) ≠ (r, k)) : (s.sealedPut r k v).reg q i = s.reg q i := s.reg_setReg_ne apart _
  have outside := sealed_apart writable
  simp only [List.mem_cons, List.not_mem_nil, or_false, not_or] at outside
  obtain ⟨-, low, high, stat, -⟩ := outside
  have recorded (h : RecHead) (body : List Byte) : SealedTaken r k v s ((s.sealedPut r k v).writeRec h body ⟨false, false⟩) := by
    have rec_ := (s.sealedPut r k v).writeRec_recorded h body ⟨false, false⟩
    obtain ⟨l, q, asy⟩ := rec_.asy
    generalize (s.sealedPut r k v).writeRec h body ⟨false, false⟩ = w at rec_ asy ⊢
    refine ⟨(rec_.regs _ _ (by simp [low, high, stat])).trans same, ?_, fun q i apart inside => ?_, by rw [asy]; rfl⟩
    · have written := rec_.written
      rw [RecordWritten] at written ⊢
      rw [written, State.pair, State.pair, other _ _ fun h => low (congrArg Prod.fst h).symm, other _ _ fun h => high (congrArg Prod.fst h).symm]
    · refine (rec_.regs _ _ fun listed => inside ?_).trans (other q i apart)
      simp only [List.mem_cons, List.not_mem_nil, or_false] at listed ⊢
      rcases listed with rfl | rfl | rfl <;> simp
  obtain ⟨head, body, eq⟩ := s.applyRws_eq r k v
  rw [eq]
  split
  · exact (recorded head body).afresh writable
  · exact recorded head body

theorem State.showPfs_spec (s : State) : RegsKept [.ASY_PT_PFS] s s.showPfs ∧ s.showPfs.asy = s.asy := by
  refine ⟨regsKept_each (RegsKept.refl _ s) fun n _ t => ?_, State.each_congr State.asy fun n _ t => rfl⟩
  exact (regsKept_setReg (by simp)).mpr (RegsKept.refl _ t)

/-! ### Signing (R238) -/

/-- Records that moved on: their bytes stay, and what was signed stays signed. -/
def Staged (l m : List HmkRec) : Prop :=
  ∀ y ∈ m, ∃ x ∈ l, y.rseq = x.rseq ∧ y.bytes = x.bytes ∧ y.trailer = x.trailer ∧ (x.stage ≠ 0 → y.stage ≠ 0)

theorem Staged.refl (l : List HmkRec) : Staged l l := fun y listed => ⟨y, listed, rfl, rfl, rfl, id⟩

theorem Staged.trans {l m k : List HmkRec} (h : Staged l m) (h' : Staged m k) : Staged l k := by
  intro z listed
  obtain ⟨y, inM, seq, bytes, trailer, stage⟩ := h' z listed
  obtain ⟨x, inL, seq', bytes', trailer', stage'⟩ := h y inM
  exact ⟨x, inL, seq.trans seq', bytes.trans bytes', trailer.trans trailer', fun signed => stage (stage' signed)⟩

theorem staged_mark (l : List HmkRec) (r : Nat) {k : Nat} (some_ : k ≠ 0) : Staged l (l.map fun x => if x.rseq = r then { x with stage := k } else x) := by
  intro y listed
  obtain ⟨x, inL, rfl⟩ := List.mem_map.mp listed
  refine ⟨x, inL, ?_⟩
  split <;> simp [some_]

/-- A delivery moves records of the log on. -/
structure DeliveredOnly (s t : State) : Prop where
  log : Staged s.asy.log t.asy.log
  asy : ∃ l, t.asy = { s.asy with log := l }

theorem DeliveredOnly.refl (s : State) : DeliveredOnly s s := ⟨Staged.refl _, s.asy.log, rfl⟩

theorem DeliveredOnly.trans (h : DeliveredOnly s u) (k : DeliveredOnly u t) : DeliveredOnly s t := by
  obtain ⟨log, l, asy⟩ := h
  obtain ⟨log', l', asy'⟩ := k
  exact ⟨log.trans log', l', by rw [asy', asy]⟩

theorem deliveredOnly_same (same : t.asy = s.asy) : DeliveredOnly s t := ⟨same ▸ Staged.refl _, s.asy.log, same⟩

theorem State.ringPush_asy (s : State) (n : Nat) (entry : List Byte) : (s.ringPush n entry).asy = s.asy := by rw [State.ringPush_eq]

theorem State.ringLost_asy (s : State) (n : Nat) : (s.ringLost n).asy = s.asy := by
  unfold State.ringLost
  dsimp only
  split <;> rfl

theorem State.markStage_only (s : State) (r : Nat) {k : Nat} (some_ : k ≠ 0) :
    DeliveredOnly s (s.onAsy fun a => { a with log := a.log.map fun x => if x.rseq = r then { x with stage := k } else x }) :=
  ⟨staged_mark _ r some_, _, rfl⟩

theorem State.deliverFrom_only (l : List HmkRec) (s : State) : DeliveredOnly s (s.deliverFrom l) := by
  induction l generalizing s with
  | nil => exact .refl s
  | cons r l ih =>
    have said (w : State) (h : DeliveredOnly s w) : DeliveredOnly s ((w.report 0x0BA0).deliverFrom l) :=
      h.trans ((deliveredOnly_same (s := w) (t := w.report 0x0BA0) rfl).trans (ih _))
    unfold State.deliverFrom
    split_ifs
    · exact ih s
    · exact .refl s
    · split
      · exact .refl s
      · dsimp only
        split_ifs
        · exact said _ ((deliveredOnly_same (State.ringPush_asy s _ _)).trans (State.markStage_only _ _ (k := 2) (by decide)))
        · exact .refl s
        · exact ((deliveredOnly_same (State.ringLost_asy s _)).trans (State.markStage_only _ _ (k := 3) (by decide))).trans (ih _)

/-- An OCMF string joins the list; nothing else of Assay changes. -/
theorem State.encodeOcmf_asy (s : State) (r : HmkRec) : ∃ o, (s.encodeOcmf r).asy = { s.asy with ocmf := o }
    ∧ (¬(u16 r.bytes 4 = 1 ∨ u16 r.bytes 4 = 2) → o = s.asy.ocmf)
    ∧ ∀ k, (u16 r.bytes 4 = 1 ∨ u16 r.bytes 4 = 2) → s.recordKey Config.ocmfSlot 3 = some k → ∃ nonce : BitVec 256,
      o = s.asy.ocmf ++ [ocmfString (ocmfData s.sys.variant (s.reg .ASY_LEGAL_VER).toNat r)
        (Config.sign 3 k (ocmfData s.sys.variant (s.reg .ASY_LEGAL_VER).toNat r) false nonce)] := by
  unfold State.encodeOcmf
  split
  · next legal =>
    cases key : s.recordKey Config.ocmfSlot 3 with
    | none => exact ⟨_, rfl, fun _ => rfl, fun k _ found => nomatch found⟩
    | some k =>
      refine ⟨_, rfl, fun other => absurd legal other, fun k' _ found => ?_⟩
      obtain rfl := Option.some.inj found
      exact ⟨s.fresh 256, rfl⟩
  · next other => exact ⟨_, rfl, fun _ => rfl, fun k legal => absurd legal other⟩

/-- The oldest record with its signature. -/
def State.signedLog (s : State) (r : HmkRec) (b tr : List Byte) : State :=
  (s.onAsy fun a => { a with
    lastHash := sha256 (b ++ tr)
    log := a.log.map fun x => if x.rseq = r.rseq then { x with bytes := b, trailer := tr, stage := 1 } else x }).tick

/-- The trailer of a record under the Hallmark key. -/
def State.hallmark (s : State) (key b : List Byte) : List Byte :=
  let sig := Config.sign 1 key b false (s.fresh 256)
  [1, 0] ++ leBytes 2 Config.hallmarkSlot ++ leBytes 2 sig.length ++ leBytes 2 0 ++ sig

theorem State.signedLog_log (s : State) (r : HmkRec) (b tr : List Byte) :
    ∀ x ∈ (s.signedLog r b tr).asy.log, x.rseq = r.rseq → x.bytes = b ∧ x.trailer = tr ∧ x.stage ≠ 0 := by
  intro x listed seq
  obtain ⟨y, -, rfl⟩ := List.mem_map.mp listed
  by_cases own : y.rseq = r.rseq
  · rw [if_pos own]
    exact ⟨rfl, rfl, Nat.one_ne_zero⟩
  · rw [if_neg own] at seq
    exact absurd seq own

theorem State.signFront_eq {r : HmkRec} {key : List Byte}
    (found : (s.asy.log.find? fun r => decide (r.stage = 0) && s.asy.queue.all fun q => decide (r.rseq < q.rseq)) = some r)
    (keyed : s.recordKey Config.hallmarkSlot 1 = some key) :
    s.signFront = (((s.signedLog r (r.bytes.take 0x28 ++ s.asy.lastHash ++ r.bytes.drop 0x48)
      (s.hallmark key (r.bytes.take 0x28 ++ s.asy.lastHash ++ r.bytes.drop 0x48))).encodeOcmf
        { r with bytes := r.bytes.take 0x28 ++ s.asy.lastHash ++ r.bytes.drop 0x48 }).showLog).deliverLog := by
  unfold State.signFront
  rw [found]
  dsimp only
  rw [keyed]
  rfl

theorem State.signedLog_key (s : State) (r : HmkRec) (b tr : List Byte) (slot alg : Nat) : (s.signedLog r b tr).recordKey slot alg = s.recordKey slot alg :=
  rfl

end Sys2Proof.Machine
end

section
/-! SUPPORT. The mailbox commands of the seal, and the statement on sealed changes. -/

namespace Sys2Proof.Machine

open Sys2Proof

variable {s t u : State} {b : List Byte}

/-- A command that fails its check answers its code. -/
theorem mailAnswer_no (s : State) (code : Nat) : mailAnswer (noMail s code) = s.mailDone code := rfl

/-- A command that was accepted. -/
theorem mailAnswer_ok (s : State) : mailAnswer (okMail s) = s.mailDone 0x0B00 := rfl

theorem State.mailGo_unread (free : s.flag F.ASY_MBX_STAT_BUSY = false) (none_ : s.mailFrame.1 = none) :
    s.mailGo = s.mailFrame.2.mailDone 0x0B01 := by
  unfold State.mailGo
  refine (if_neg (Bool.eq_false_iff.mp free)).trans ?_
  generalize s.mailFrame = r at none_ ⊢
  obtain ⟨f, w⟩ := r
  cases none_
  rfl

theorem State.mailGo_read (free : s.flag F.ASY_MBX_STAT_BUSY = false) (read : s.mailFrame.1 = some b) :
    s.mailGo = if s.mailCheck b ≠ 0 then s.mailDone (s.mailCheck b)
      else (s.setFld F.ASY_MBX_STAT_BUSY 0 1).onAsy fun a => { a with frame := b, seq := u32 b 4 } := by
  have stays := State.mailFrame_reads read
  unfold State.mailGo
  refine (if_neg (Bool.eq_false_iff.mp free)).trans ?_
  generalize s.mailFrame = r at read stays ⊢
  obtain ⟨f, w⟩ := r
  cases read
  cases stays
  rfl

/-! ### PQ_CONFIG (R210) -/

/-- The limits of one AC point. -/
def State.pqTaken (s : State) (b : List Byte) (a : Nat) : State :=
  (s.setReg .ASY_PQ_CFG_LO a (BitVec.ofNat 32 (u32 b (8 * a)))).setReg .ASY_PQ_CFG_HI a (BitVec.ofNat 32 (u32 b (8 * a + 4)) &&& 0xFFC0003F)

theorem State.pqTaken_all (s : State) (b : List Byte) (n : Nat) :
    (∀ a < n, (s.each (List.range n) fun a t => t.pqTaken b a).reg .ASY_PQ_CFG_LO a = BitVec.ofNat 32 (u32 b (8 * a))
      ∧ (s.each (List.range n) fun a t => t.pqTaken b a).reg .ASY_PQ_CFG_HI a = BitVec.ofNat 32 (u32 b (8 * a + 4)) &&& 0xFFC0003F)
    ∧ RegsKept [.ASY_PQ_CFG_LO, .ASY_PQ_CFG_HI] s (s.each (List.range n) fun a t => t.pqTaken b a) := by
  refine ⟨fun a small => ⟨?_, ?_⟩, regsKept_each (RegsKept.refl _ s) fun a _ t => by simp [State.pqTaken]⟩
  · refine State.each_at (g := fun t => t.reg .ASY_PQ_CFG_LO a) (List.mem_range.mpr small) (fun t => ?_) fun j other t => ?_
    · simp [State.pqTaken]
    · change (State.setReg _ _ _ _).reg _ _ = _
      rw [State.reg_setReg_index _ _ _ other.symm, State.reg_setReg_index _ _ _ other.symm]
  · refine State.each_at (g := fun t => t.reg .ASY_PQ_CFG_HI a) (List.mem_range.mpr small) (fun t => ?_) fun j other t => ?_
    · simp [State.pqTaken]
    · change (State.setReg _ _ _ _).reg _ _ = _
      rw [State.reg_setReg_index _ _ _ other.symm, State.reg_setReg_index _ _ _ other.symm]

/-! ### CONFIG (R241) -/

/-- The contactor of an output as CONFIG gives it. -/
def Disc.configured (d : Disc) (b : List Byte) (o : Nat) : Disc :=
  { d with cmdPt := ptOf (u32 b (8 + 24 * o)), fbPt := ptOf (u32 b (8 + 24 * o + 4)), low := uN b (8 + 24 * o + 8) 8, wait := u16 b (8 + 24 * o + 16),
           tDisc := u16 b (8 + 24 * o + 18) }

theorem State.configured_all (s : State) (b : List Byte) : (s.each (List.range 32) fun o t => t.onDisc o fun d => d.configured b o).regs = s.regs
    ∧ (s.each (List.range 32) fun o t => t.onDisc o fun d => d.configured b o).asy.ring = s.asy.ring
    ∧ ∀ o < 32, ∃ d : Disc, (s.each (List.range 32) fun o t => t.onDisc o fun d => d.configured b o).asy.disc.get o = d.configured b o := by
  refine ⟨State.each_congr State.regs fun _ _ _ => rfl, State.each_congr (fun t => t.asy.ring) fun _ _ _ => rfl, fun o small => ?_⟩
  refine State.each_once (P := fun _ => True) (Q := fun t => ∃ d : Disc, t.asy.disc.get o = d.configured b o) List.nodup_range
    (List.mem_range.mpr small) trivial (fun _ _ _ _ => trivial) (fun t _ => ⟨t.asy.disc.get o, ?_⟩) fun j other t ⟨d, set⟩ => ⟨d, ?_⟩
  · exact Arr.get_upd_same _ _ _
  · exact (Arr.get_upd_ne _ other.symm _).trans set

/-! ### SEAL_BREAK and SEAL_CLOSE (R255, R256) -/

theorem State.sealRecord_recorded (s : State) (event : Nat) (ver crc : W32) : Recorded s (s.sealRecord event ver crc) := s.writeRec_recorded _ _ _

/-- The seal opened after the transactions ended. -/
def State.sealOpened (s : State) : State :=
  ((s.each (List.range 32) fun n t => t.stopTxn n 3).setFld F.ASY_SEAL_CNT_COUNT 0 (s.fld F.ASY_SEAL_CNT_COUNT + 1)).setFld F.ASY_SEAL_CNT_OPEN 0 1

theorem State.sealOpened_spec (s : State) (room : s.fld F.ASY_SEAL_CNT_COUNT < 15) : s.sealOpened.flag F.ASY_SEAL_CNT_OPEN = true
    ∧ s.sealOpened.fld F.ASY_SEAL_CNT_COUNT = s.fld F.ASY_SEAL_CNT_COUNT + 1 ∧ ∀ n < 32, s.sealOpened.asy.txns.get n = none := by
  have opened (w : State) {c : Nat} (small : c < 16) : ((w.setFld F.ASY_SEAL_CNT_COUNT 0 c).setFld F.ASY_SEAL_CNT_OPEN 0 1).flag F.ASY_SEAL_CNT_OPEN = true
      ∧ ((w.setFld F.ASY_SEAL_CNT_COUNT 0 c).setFld F.ASY_SEAL_CNT_OPEN 0 1).fld F.ASY_SEAL_CNT_COUNT = c
      ∧ ((w.setFld F.ASY_SEAL_CNT_COUNT 0 c).setFld F.ASY_SEAL_CNT_OPEN 0 1).asy = w.asy := by
    refine ⟨by simp [Fld.width], ?_, rfl⟩
    rw [State.fld_setFld_apart _ (.inr (by decide)) (by decide), State.fld_setFld_self _ (by decide)]
    exact Nat.mod_eq_of_lt small
  obtain ⟨-, -, none_, -⟩ := State.stopTxns_spec 3 (List.range 32) s
  obtain ⟨open_, count, asy⟩ := opened (s.each (List.range 32) fun n t => t.stopTxn n 3) (c := s.fld F.ASY_SEAL_CNT_COUNT + 1) (by omega)
  exact ⟨open_, count, fun n small => (congrArg (fun a : Asy => a.txns.get n) asy).trans (none_ n (List.mem_range.mpr small))⟩

/-- The seal closed, with its record. -/
def State.sealClosed (s : State) : State :=
  (s.setFld F.ASY_SEAL_CNT_OPEN 0 0).sealRecord 2 (s.legalShown s.asy.legal).1 (s.legalShown s.asy.legal).2

theorem State.sealClosed_spec (s : State) : s.sealClosed.flag F.ASY_SEAL_CNT_OPEN = false
    ∧ s.sealClosed.fld F.ASY_SEAL_CNT_COUNT = s.fld F.ASY_SEAL_CNT_COUNT ∧ RecordWritten s s.sealClosed
    ∧ RegsKept [.ASY_SEAL_CNT, .ASY_RSEQ_LO, .ASY_RSEQ_HI, .ASY_HMK_STAT] s s.sealClosed := by
  have shut : (s.setFld F.ASY_SEAL_CNT_OPEN 0 0).flag F.ASY_SEAL_CNT_OPEN = false
      ∧ (s.setFld F.ASY_SEAL_CNT_OPEN 0 0).fld F.ASY_SEAL_CNT_COUNT = s.fld F.ASY_SEAL_CNT_COUNT
      ∧ RegsKept [.ASY_SEAL_CNT] s (s.setFld F.ASY_SEAL_CNT_OPEN 0 0) := by simp [Fld.width]
  obtain ⟨open_, count, kept⟩ := shut
  have recorded := (s.setFld F.ASY_SEAL_CNT_OPEN 0 0).sealRecord_recorded 2 (s.legalShown s.asy.legal).1 (s.legalShown s.asy.legal).2
  unfold State.sealClosed
  exact ⟨(recorded.regs.flag (by decide) 0).trans open_, (recorded.regs.fld (by decide) 0).trans count,
    recorded.written.of kept (by simp) (by simp), (kept.mono (by simp)).trans (recorded.regs.mono (by simp))⟩

theorem State.legalShown_crc (s : State) (none_ : s.asy.legal = none) : (s.legalShown s.asy.legal).2 = Config.legalCrc s.asy.firm s.sealedBytes := by
  rw [none_]
  rfl

/-! ### The statement -/

/-- Settles O39. -/
theorem sealedChangesAndTheMailbox : Obligations.SealedChangesAndTheMailbox := by
  unfold Obligations.SealedChangesAndTheMailbox
  refine ⟨?done, ?go, ?rws, ?change, ?breaks, ?closes, ?legal, ?pq, ?nonlegal, ?config, ?signed⟩
  case done =>
    intro s code
    obtain ⟨answered, cells, -, mem⟩ := s.mailDone_spec code
    exact ⟨answered, cells, memKept_of_mem mem⟩
  case go =>
    intro s who reaches
    have sent : exec (.asyMbxGo who) s = .next { (served s who).mailGo with resp := .done } :=
      congrArg Host.Outcome.next (rowWrite_reaches s who _ _ _ reaches)
    have check (b : List Byte) : (served s who).mailCheck b = s.mailCheck b := served_congr (State.mailCheck · b) s who 4 fun _ => rfl
    rw [sent]
    refine ⟨fun busy => ?_, fun free => ?_⟩
    · have refused : (served s who).mailGo = (served s who).report 0x0B09 := if_pos ((served_flag s who 4 _ 0).trans busy)
      rw [refused]
    · have open_ : (served s who).flag F.ASY_MBX_STAT_BUSY = false := (served_flag s who 4 _ 0).trans free
      refine ⟨_, rfl, rfl, fun none_ => ?_, fun b read => ⟨fun bad => ?_, fun good => ?_⟩⟩
      · rw [State.mailGo_unread open_ none_]
      · rw [State.mailGo_read open_ read, check, if_pos bad]
      · rw [State.mailGo_read open_ read, check, if_neg (not_not.mpr good)]
        obtain ⟨busy, cells⟩ := (served s who).frameTaken_spec b
        refine ⟨busy, ?_, (cellsKept_served s who 4).mpr (CellsKept.refl _ s) |>.trans cells, memKept_of_mem (served_mem s who 4)⟩
        rw [← served_asy s who 4]
        rfl
  case rws =>
    intro s who ofs k r v reaches named
    have written : exec (.rwsWrite who ofs v) s = .next { (served s who).rwsWrite ofs v with resp := .done } :=
      congrArg Host.Outcome.next (rowWrite_reaches s who 11 ofs (fun t => t.rwsWrite ofs v) reaches)
    have eq (w : State) : w.rwsWrite ofs v = if r.row.rw = 0 ∨ r.dom = .device then w
        else if w.flag F.ASY_SEAL_CNT_OPEN = false then w.report 0x0B05 ofs
        else w.onAsy fun a => { a with rws := a.rws ++ [((w.lmc / 1000000 + 1) * 1000000, (r, k), v)] } := by
      unfold State.rwsWrite
      rw [named]
    rw [written, eq]
    refine ⟨fun fixed => ?_, fun some_ dom shut => ?_, fun some_ dom opened => ?_⟩
    · rw [if_pos fixed]
    · rw [if_neg (not_or.mpr ⟨some_, dom⟩), if_pos ((served_flag s who 4 _ 0).trans shut)]
    · have stands : ¬(served s who).flag F.ASY_SEAL_CNT_OPEN = false := by
        rw [served_flag, opened]
        decide
      have lmc : (served s who).lmc = s.lmc := served_congr State.lmc s who 4 fun _ => rfl
      rw [if_neg (not_or.mpr ⟨some_, dom⟩), if_neg stands, lmc, ← served_asy s who 4]
      rfl
  case change =>
    intro s at_ k r v up waits writable
    refine ⟨fun early => ?_, fun due => ?_⟩
    · refine congrArg Host.Outcome.next ((State.live_runs up).trans (if_pos ?_))
      rw [waits]
      exact List.filter_eq_nil_iff.mpr fun w listed late => by
        obtain rfl := List.mem_singleton.mp listed
        have := of_decide_eq_true late
        dsimp only at this
        omega
    · have all : (s.asy.rws.filter fun w => decide (w.1 ≤ s.lmc)) = [(at_, (r, k), v)] := by
        rw [waits, List.filter_cons_of_pos (by simpa using due)]
        rfl
      have none_ : (s.asy.rws.filter fun w => decide (s.lmc < w.1)) = [] := by
        rw [waits, List.filter_cons_of_neg (by simpa using due)]
        rfl
      have cleared : (s.onAsy fun a => { a with rws := a.rws.filter fun w => decide (s.lmc < w.1) }) = s.onAsy fun a => { a with rws := [] } := by
        unfold State.onAsy
        dsimp only
        rw [none_]
      have taken : exec .sealedChange s = .next (((s.onAsy fun a => { a with rws := [] }).applyRws r k v).showPfs) := by
        refine congrArg Host.Outcome.next ((State.live_runs up).trans ?_)
        dsimp only
        rw [all, if_neg (by simp)]
        rw [cleared]
        rfl
      refine ⟨_, taken, ?_⟩
      have applied := (s.onAsy fun a => { a with rws := [] }).applyRws_spec r k v writable
      obtain ⟨regs, asy⟩ := ((s.onAsy fun a => { a with rws := [] }).applyRws r k v).showPfs_spec
      obtain ⟨put, written, others, rws⟩ := applied.kept writable regs (by simp) (congrArg Asy.rws asy)
      exact ⟨put, rws, written, others⟩
  case breaks =>
    intro s sw b mailed
    have served_ : exec (.sealBreak sw) s = .next (mailAnswer _) := congrArg Host.Outcome.next (State.mail_eq mailed _)
    refine ⟨fun long => ?_, fun empty_ held => ?_, fun empty_ free full => ?_, fun empty_ free room => ?_⟩
    · exact served_.trans (congrArg (Host.Outcome.next ∘ mailAnswer) (if_pos long))
    · exact served_.trans (congrArg (Host.Outcome.next ∘ mailAnswer) ((if_neg (not_not.mpr empty_)).trans (if_pos held)))
    · refine served_.trans (congrArg (Host.Outcome.next ∘ mailAnswer) ((if_neg (not_not.mpr empty_)).trans ((if_neg ?_).trans (if_pos (by omega)))))
      rw [free]
      decide
    · have taken : exec (.sealBreak sw) s = .next (mailAnswer (okMail (s.sealOpened.sealRecord 1 (s.sealOpened.reg .ASY_LEGAL_VER)
          (s.sealOpened.reg .ASY_LEGAL_CRC)))) := by
        refine served_.trans (congrArg (Host.Outcome.next ∘ mailAnswer) ((if_neg (not_not.mpr empty_)).trans ((if_neg ?_).trans (if_neg (by omega)))))
        rw [free]
        decide
      refine ⟨_, taken, ?_⟩
      obtain ⟨open_, count, none_⟩ := s.sealOpened_spec room
      rw [mailAnswer_ok]
      generalize s.sealOpened = w at open_ count none_ ⊢
      have recorded := w.sealRecord_recorded 1 (w.reg .ASY_LEGAL_VER) (w.reg .ASY_LEGAL_CRC)
      generalize w.sealRecord 1 (w.reg .ASY_LEGAL_VER) (w.reg .ASY_LEGAL_CRC) = x at recorded ⊢
      obtain ⟨l, q, logged⟩ := recorded.asy
      obtain ⟨answered, regs, asy⟩ := x.mailDone_ok
      refine ⟨answered, (regs.flag (by decide) 0).trans ((recorded.regs.flag (by decide) 0).trans open_),
        (regs.fld (by decide) 0).trans ((recorded.regs.fld (by decide) 0).trans count), fun n small => ?_⟩
      rw [asy, logged]
      exact none_ n small
  case closes =>
    intro s b mailed
    have served_ : exec .sealClose s = .next (mailAnswer _) := congrArg Host.Outcome.next (State.mail_eq mailed _)
    refine ⟨fun long => served_.trans (congrArg (Host.Outcome.next ∘ mailAnswer) (if_pos long)), fun empty_ => ?_⟩
    have taken : exec .sealClose s = .next (mailAnswer (okMail (if s.asy.legal.isSome then s.sealClosed
        else s.sealClosed.setReg .ASY_LEGAL_CRC 0 (s.legalShown s.asy.legal).2))) :=
      served_.trans (congrArg (Host.Outcome.next ∘ mailAnswer) (if_neg (not_not.mpr empty_)))
    refine ⟨_, taken, ?_⟩
    rw [mailAnswer_ok]
    obtain ⟨open_, count, written, kept⟩ := s.sealClosed_spec
    have crc : s.sealClosed.reg .ASY_LEGAL_CRC = s.reg .ASY_LEGAL_CRC := kept _ _ (by decide)
    have shown_ := s.legalShown_crc
    generalize s.sealClosed = w at open_ count written kept crc ⊢
    have set : RegsKept [.ASY_LEGAL_CRC] w (if s.asy.legal.isSome then w else w.setReg .ASY_LEGAL_CRC 0 (s.legalShown s.asy.legal).2) := by
      split <;> simp
    have reads : (if s.asy.legal.isSome then w else w.setReg .ASY_LEGAL_CRC 0 (s.legalShown s.asy.legal).2).reg .ASY_LEGAL_CRC
        = if s.asy.legal.isSome then s.reg .ASY_LEGAL_CRC else Config.legalCrc s.asy.firm s.sealedBytes := by
      split
      · exact crc
      · next none_ =>
        rw [State.reg_setReg_same]
        exact shown_ (by simpa using none_)
    generalize (if s.asy.legal.isSome then w else w.setReg .ASY_LEGAL_CRC 0 (s.legalShown s.asy.legal).2) = x at set reads ⊢
    obtain ⟨answered, regs, -⟩ := x.mailDone_ok
    refine ⟨answered, (regs.flag (by decide) 0).trans ((set.flag (by decide) 0).trans open_),
      (regs.fld (by decide) 0).trans ((set.fld (by decide) 0).trans count), ?_, (regs _ _ (by decide)).trans reads, ?_⟩
    · exact (written.kept set (by simp) (by simp)).kept regs (by simp) (by simp)
    · exact (kept.mono (by simp)).trans ((set.mono (by simp)).trans (regs.mono (by simp)))
  case legal =>
    intro s b mailed
    have served_ : exec .legalStage s = .next (mailAnswer _) := congrArg Host.Outcome.next (State.mail_eq mailed _)
    dsimp only
    refine ⟨fun bad => ?_, fun good shut => ?_, fun good opened none_ => ?_, fun im good opened some_ => ?_⟩
    · refine served_.trans (congrArg (Host.Outcome.next ∘ mailAnswer) (if_pos ?_))
      by_contra good
      exact bad ⟨by omega, by omega, by omega⟩
    all_goals
      obtain ⟨len, size, zero⟩ := good
      have fits : ¬(b.length ≠ 16 ∨ 0xC0000 < u32 b 8 ∨ u32 b 12 ≠ 0) := by omega
    · exact served_.trans (congrArg (Host.Outcome.next ∘ mailAnswer) ((if_neg fits).trans (if_pos shut)))
    · have refused : exec .legalStage s = .next (mailAnswer (noMail (s.fetch assayPort (uN b 0 8) (u32 b 8)).2 0x0B27)) := by
        refine served_.trans (congrArg (Host.Outcome.next ∘ mailAnswer) ((if_neg fits).trans ((if_neg (by rw [opened]; decide)).trans ?_)))
        rw [none_]
      exact refused
    · have taken : exec .legalStage s = .next (mailAnswer (okMail (s.onAsy fun a => { a with legal := some im }))) := by
        refine served_.trans (congrArg (Host.Outcome.next ∘ mailAnswer) ((if_neg fits).trans ((if_neg (by rw [opened]; decide)).trans ?_)))
        rw [some_]
      obtain ⟨answered, cells, asy, -⟩ := (s.onAsy fun a => { a with legal := some im }).mailDone_spec 0x0B00
      exact ⟨_, taken, answered, asy, cells⟩
  case pq =>
    intro s b mailed
    have served_ : exec .pqConfig s = .next (mailAnswer _) := congrArg Host.Outcome.next (State.mail_eq mailed _)
    dsimp only
    have unfit : ((List.range (b.length / 8)).any fun a => !s.ringFits (u32 b (8 * a + 4) % 64) 0 32) = true
        ↔ ¬∀ a < b.length / 8, s.ringFits (u32 b (8 * a + 4) % 64) 0 32 = true := by simp
    refine ⟨fun length fit => ?_, fun bad => ?_⟩
    · have taken : exec .pqConfig s = .next (mailAnswer (okMail (s.each (List.range (b.length / 8)) fun a t => t.pqTaken b a))) := by
        refine served_.trans (congrArg (Host.Outcome.next ∘ mailAnswer) (if_neg ?_))
        rintro (short | outside)
        · omega
        · exact unfit.mp outside fit
      obtain ⟨figures, kept⟩ := s.pqTaken_all b (b.length / 8)
      refine ⟨_, taken, ?_⟩
      rw [mailAnswer_ok]
      generalize s.each (List.range (b.length / 8)) (fun a t => t.pqTaken b a) = w at figures kept ⊢
      obtain ⟨answered, regs, -⟩ := w.mailDone_ok
      refine ⟨answered, fun a small => ⟨(regs _ _ (by decide)).trans (figures a small).1, (regs _ _ (by decide)).trans (figures a small).2⟩, ?_⟩
      exact (kept.mono (by simp)).trans (regs.mono (by simp))
    · exact served_.trans (congrArg (Host.Outcome.next ∘ mailAnswer) (if_pos (bad.imp id unfit.mpr)))
  case nonlegal =>
    intro s b mailed
    have served_ : exec .nonlegalStage s = .next (mailAnswer _) := congrArg Host.Outcome.next (State.mail_eq mailed _)
    refine ⟨fun none_ => ?_, fun im some_ => ?_⟩
    · rw [served_, none_, mailAnswer_no]
    · have taken : exec .nonlegalStage s = .next (mailAnswer (okMail (s.onAsy fun a => { a with staged := some im }))) := by
        rw [served_, some_]
      obtain ⟨answered, cells, asy, -⟩ := (s.onAsy fun a => { a with staged := some im }).mailDone_spec 0x0B00
      exact ⟨_, taken, answered, asy, cells⟩
  case config =>
    intro s b mailed
    have served_ : exec .config s = .next (mailAnswer _) := congrArg Host.Outcome.next (State.mail_eq mailed _)
    dsimp only
    have unfit : ((List.range 32).any fun o => decide (u32 b (28 + 24 * o) ≠ 0) || !isPtId (u32 b (8 + 24 * o)) || !isPtId (u32 b (12 + 24 * o))) = true
        ↔ ¬∀ o < 32, u32 b (28 + 24 * o) = 0 ∧ isPtId (u32 b (8 + 24 * o)) = true ∧ isPtId (u32 b (12 + 24 * o)) = true := by
      rw [List.any_eq_true]
      push Not
      refine exists_congr fun o => ?_
      rw [List.mem_range, Bool.or_eq_true, Bool.or_eq_true, decide_eq_true_eq, Bool.not_eq_true', Bool.not_eq_true', Bool.eq_false_iff, Bool.eq_false_iff]
      refine and_congr_right fun _ => ?_
      tauto
    have refused : (b.length ≠ 776 ∨ uN b 1 7 ≠ 0 ∨ s.ringFits (u8 b 0) 0 8192 = false ∨ ((List.range 32).any fun o =>
        decide (u32 b (28 + 24 * o) ≠ 0) || !isPtId (u32 b (8 + 24 * o)) || !isPtId (u32 b (12 + 24 * o))) = true)
        ↔ ¬(b.length = 776 ∧ uN b 1 7 = 0 ∧ s.ringFits (u8 b 0) 0 8192 = true
          ∧ ∀ o < 32, u32 b (28 + 24 * o) = 0 ∧ isPtId (u32 b (8 + 24 * o)) = true ∧ isPtId (u32 b (12 + 24 * o)) = true) := by
      rw [unfit, ← Bool.not_eq_true]
      tauto
    refine ⟨fun bad => served_.trans (congrArg (Host.Outcome.next ∘ mailAnswer) (if_pos (refused.mpr bad))), fun good => ?_⟩
    have taken : exec .config s = .next (mailAnswer (okMail ((s.onAsy fun a => { a with ring := some (u8 b 0) }).each (List.range 32) fun o t =>
        t.onDisc o fun d => d.configured b o))) :=
      served_.trans (congrArg (Host.Outcome.next ∘ mailAnswer) (if_neg fun bad => refused.mp bad good))
    refine ⟨_, taken, ?_⟩
    rw [mailAnswer_ok]
    obtain ⟨regs, ring, discs⟩ := (s.onAsy fun a => { a with ring := some (u8 b 0) }).configured_all b
    generalize State.each _ _ _ = w at regs ring discs ⊢
    obtain ⟨answered, cells, asy, -⟩ := w.mailDone_spec 0x0B00
    refine ⟨answered, ?_, fun o small => ?_, (cellsKept_of_regs regs).trans cells⟩
    · rw [asy]
      exact ring
    · obtain ⟨d, set⟩ := discs o small
      rw [asy]
      dsimp only
      rw [set]
      have plus (k : Nat) : 8 + 24 * o + k = 8 + k + 24 * o := by omega
      unfold Disc.configured
      dsimp only
      rw [plus, plus, plus, plus]
      exact ⟨rfl, rfl, rfl, rfl, rfl⟩
  case signed =>
    intro s r up found
    refine ⟨fun none_ => ?_, fun key keyed => ?_⟩
    · refine congrArg Host.Outcome.next ((State.live_runs up).trans ?_)
      unfold State.signFront
      rw [found]
      dsimp only
      rw [none_]
    · have run : exec .hallmarkSigned s = .next s.signFront := congrArg Host.Outcome.next (State.live_runs up)
      rw [State.signFront_eq found keyed] at run
      refine ⟨_, run, ?_⟩
      change _ ∧ (∀ x : HmkRec, x ∈ _ → _ → _ ∧ x.trailer = s.hallmark key (r.bytes.take 0x28 ++ s.asy.lastHash ++ r.bytes.drop 0x48) ∧ _) ∧ _
      generalize r.bytes.take 0x28 ++ s.asy.lastHash ++ r.bytes.drop 0x48 = b
      have log := s.signedLog_log r b (s.hallmark key b)
      have hash : (s.signedLog r b (s.hallmark key b)).asy.lastHash = sha256 (b ++ s.hallmark key b) := rfl
      have ocmf : (s.signedLog r b (s.hallmark key b)).asy.ocmf = s.asy.ocmf := rfl
      have keys := s.signedLog_key r b (s.hallmark key b) Config.ocmfSlot 3
      have variant : (s.signedLog r b (s.hallmark key b)).sys.variant = s.sys.variant := rfl
      have version : (s.signedLog r b (s.hallmark key b)).reg .ASY_LEGAL_VER = s.reg .ASY_LEGAL_VER := rfl
      generalize s.signedLog r b (s.hallmark key b) = w at log hash ocmf keys variant version ⊢
      obtain ⟨o, asy, other, legal⟩ := w.encodeOcmf_asy { r with bytes := b }
      rw [keys, variant, version, ocmf] at legal
      rw [ocmf] at other
      generalize w.encodeOcmf { r with bytes := b } = x at asy ⊢
      have shown_ : x.showLog.asy = x.asy := rfl
      generalize x.showLog = y at shown_ ⊢
      obtain ⟨staged, l, only⟩ := State.deliverFrom_only y.asy.log y
      change Staged y.asy.log y.deliverLog.asy.log at staged
      change y.deliverLog.asy = _ at only
      have sameLog : y.asy.log = w.asy.log := by rw [shown_, asy]
      have sameOcmf : y.deliverLog.asy.ocmf = o := by rw [only, shown_, asy]
      rw [sameOcmf]
      refine ⟨?_, fun z listed seq => ?_, other, fun k ok found => ?_⟩
      · rw [only, shown_, asy]
        exact hash
      · obtain ⟨v, before, seq', bytes, trailer, stage⟩ := staged z listed
        obtain ⟨bytes', trailer', stage'⟩ := log v (sameLog ▸ before) (seq' ▸ seq)
        exact ⟨bytes.trans bytes', trailer.trans trailer', stage stage'⟩
      · exact legal k ok found

end Sys2Proof.Machine
end

section
/-! SUPPORT. Amounts of energy and credit, and the switches and labels of the bill. -/

namespace Sys2Proof.Machine

open Sys2Proof

variable {s t u : State} {n o : Nat}

/-! ### Amounts (R218): multiples of 2^-32 -/

/-- A multiple of 2^-32. -/
def Grained (q : Rat) : Prop := ∃ z : Int, q * 4294967296 = z

theorem Grained.add {p q : Rat} (h : Grained p) (k : Grained q) : Grained (p + q) := by
  obtain ⟨x, hx⟩ := h
  obtain ⟨y, hy⟩ := k
  exact ⟨x + y, by push_cast; rw [add_mul, hx, hy]⟩

theorem grained_int (z : Int) : Grained z := ⟨z * 4294967296, by push_cast; ring⟩

theorem grained_part (z : Int) : Grained ((z : Rat) / 4294967296) := ⟨z, by field_simp⟩

theorem grained_quantum (e : Rat) : Grained (quantum e) := grained_part _

theorem grained_zero : Grained 0 := grained_int 0

/-- The residue of a multiple of 2^-32 is its fraction. -/
theorem residue_exact {q : Rat} (h : Grained q) : (q.floor : Rat) + (residue q : Rat) / 4294967296 = q := by
  obtain ⟨z, hz⟩ := h
  have low : (q.floor : Rat) ≤ q := Int.floor_le q
  have part : (q - q.floor) * 4294967296 = ((z - q.floor * 4294967296 : Int) : Rat) := by
    push_cast
    rw [sub_mul, hz]
  have nonneg : 0 ≤ z - q.floor * 4294967296 := by
    have : (0 : Rat) ≤ ((z - q.floor * 4294967296 : Int) : Rat) := by
      rw [← part]
      linarith
    exact_mod_cast this
  have floors : ((q - q.floor) * 4294967296).floor = z - q.floor * 4294967296 := by
    rw [part]
    exact Int.floor_intCast (R := Rat) _
  have cast : ((residue q : Nat) : Rat) = (q - q.floor) * 4294967296 := by
    rw [part, residue, floors, ← Int.cast_natCast, Int.toNat_of_nonneg nonneg]
  rw [cast]
  field_simp
  ring

theorem grained_floor_nonneg {q : Rat} (nonneg : 0 ≤ q) : 0 ≤ q.floor := Int.floor_nonneg.mpr nonneg

theorem floor_lt_of_lt {q : Rat} {b : Int} (h : q < b) : q.floor < b := Int.floor_lt.mpr h

theorem le_floor_of_le {q : Rat} {b : Int} (h : (b : Rat) ≤ q) : b ≤ q.floor := Int.le_floor.mpr h

/-! ### A pair that holds an amount -/

theorem State.grained_amount (s : State) (lo hi : Reg) (i key : Nat) : Grained (s.amount lo hi i key) :=
  (grained_int (s.pair lo hi i)).add (grained_part (s.asy.frac.get key))

/-- A change of an amount alone. -/
structure AmountOnly (lo hi : Reg) (i key : Nat) (s t : State) : Prop where
  regs : CellsKept [(lo, i), (hi, i)] s t
  asy : ∃ f, t.asy = { s.asy with frac := f } ∧ ∀ k, k ≠ key → f.get k = s.asy.frac.get k

theorem State.setAmount_only (s : State) (lo hi : Reg) (i key : Nat) (q : Rat) :
    AmountOnly lo hi i key s (s.setAmount lo hi i key q) := by
  refine ⟨?_, _, rfl, fun k other => Arr.get_set_ne _ other _⟩
  have set : CellsKept [(lo, i), (hi, i)] s (s.setPair lo hi i (unsignedOf 64 q.floor)) := by simp
  exact set.trans (cellsKept_of_regs rfl)

theorem State.setAmount_holds (s : State) {lo hi : Reg} (apart : lo ≠ hi) (i key : Nat) (q : Rat) :
    (s.setAmount lo hi i key q).pair lo hi i = unsignedOf 64 q.floor ∧ (s.setAmount lo hi i key q).asy.frac.get key = residue q := by
  refine ⟨?_, Arr.get_set_same _ _ _⟩
  exact (State.pair_setPair_same s apart).trans (Nat.mod_eq_of_lt (unsignedOf_lt 64 q.floor))

/-- An unsigned amount reads what was set. -/
theorem State.amount_setAmount (s : State) {lo hi : Reg} (apart : lo ≠ hi) (i key : Nat) {q : Rat} (grained : Grained q) (nonneg : 0 ≤ q) (fits : q < 2 ^ 64) :
    (s.setAmount lo hi i key q).amount lo hi i key = q := by
  obtain ⟨whole, rest⟩ := s.setAmount_holds apart i key q
  have low := grained_floor_nonneg nonneg
  have high : q.floor < 2 ^ 64 := floor_lt_of_lt (by exact_mod_cast fits)
  have same : ((unsignedOf 64 q.floor : Nat) : Rat) = q.floor := by
    rw [unsignedOf, Int.emod_eq_of_lt low high, ← Int.cast_natCast, Int.toNat_of_nonneg low]
  rw [State.amount, whole, rest, same]
  exact residue_exact grained

theorem signed_unsignedOf {z : Int} (low : -(2 ^ 63) ≤ z) (high : z < 2 ^ 63) : signed 64 (unsignedOf 64 z) = z := by
  unfold signed unsignedOf
  split <;> omega

theorem signed_bounds (n : Nat) : -(2 ^ 63) ≤ signed 64 n ∧ signed 64 n < 2 ^ 63 := by
  unfold signed
  split <;> omega

/-! ### Credit (R253) -/

theorem State.setCredit_only (s : State) (o : Nat) (q : Rat) : AmountOnly .ASY_CREDIT_LO .ASY_CREDIT_HI o (3000 + o) s (s.setCredit o q) :=
  s.setAmount_only _ _ o (3000 + o) q

theorem State.creditInt_setCredit (s : State) (o : Nat) {q : Rat} (low : -(2 ^ 63) ≤ q) (high : q < 2 ^ 63) :
    (s.setCredit o q).creditInt o = q.floor := by
  obtain ⟨whole, -⟩ := s.setAmount_holds (lo := .ASY_CREDIT_LO) (hi := .ASY_CREDIT_HI) (by decide) o (3000 + o) q
  rw [State.creditInt]
  change signed 64 (State.pair (s.setAmount _ _ _ _ _) _ _ _) = _
  rw [whole]
  exact signed_unsignedOf (le_floor_of_le (by exact_mod_cast low)) (floor_lt_of_lt (by exact_mod_cast high))

theorem State.credit_setCredit (s : State) (o : Nat) {q : Rat} (grained : Grained q) (low : -(2 ^ 63) ≤ q) (high : q < 2 ^ 63) :
    (s.setCredit o q).credit o = q := by
  obtain ⟨-, rest⟩ := s.setAmount_holds (lo := .ASY_CREDIT_LO) (hi := .ASY_CREDIT_HI) (by decide) o (3000 + o) q
  have int := s.creditInt_setCredit o low high
  rw [State.credit, int]
  change (q.floor : Rat) + (((s.setAmount _ _ _ _ _).asy.frac.get _ : Nat) : Rat) / 4294967296 = q
  rw [rest]
  exact residue_exact grained

theorem State.grained_credit (s : State) (o : Nat) : Grained (s.credit o) := (grained_int _).add (grained_part _)

/-- The credit reads the same where its pair and its residue do. -/
theorem State.credit_congr (low : t.reg .ASY_CREDIT_LO o = s.reg .ASY_CREDIT_LO o) (high : t.reg .ASY_CREDIT_HI o = s.reg .ASY_CREDIT_HI o)
    (frac : t.asy.frac = s.asy.frac) : t.creditInt o = s.creditInt o ∧ t.credit o = s.credit o := by
  have int : t.creditInt o = s.creditInt o := by rw [State.creditInt, State.creditInt, State.pair, State.pair, low, high]
  exact ⟨int, by rw [State.credit, State.credit, int, frac]⟩

/-! ### The contactor and the credit of an output (R253, R254) -/

/-- What a change of an output's contactor leaves. -/
structure OutputOnly (s t : State) : Prop where
  regs : RegsKept [.PNT_STAT, .ASY_PREPAY_STAT] s t
  asy : ∃ d, t.asy = { s.asy with disc := d }

theorem State.discClose_spec (s : State) (o : Nat) : OutputOnly s (s.discClose o)
    ∧ ((s.asy.disc.get o).cmdPt.isSome = true → (s.discClose o).fld F.ASY_PREPAY_STAT_DISC o = 1) := by
  unfold State.discClose
  split
  · next none_ =>
    refine ⟨⟨RegsKept.refl _ s, s.asy.disc, rfl⟩, fun some_ => ?_⟩
    rw [Option.isNone_iff_eq_none.mp none_] at some_
    exact Bool.noConfusion some_
  · obtain ⟨regs, asy⟩ := s.discWrite_kept o 1
    generalize s.discWrite o 1 = u at regs asy ⊢
    have closing : (u.setFld F.ASY_PREPAY_STAT_DISC o 1).fld F.ASY_PREPAY_STAT_DISC o = 1 ∧ RegsKept [.ASY_PREPAY_STAT] u (u.setFld F.ASY_PREPAY_STAT_DISC o 1) := by
      simp [Fld.width]
    refine ⟨⟨(regs.mono (by simp)).trans ((closing.2.trans (regsKept_of_regs rfl)).mono (by simp)), ?_⟩, fun _ => closing.1⟩
    rw [← asy]
    exact ⟨_, rfl⟩

/-- A change of an output's status that leaves the session's bits and the contactor's. -/
structure SessionKept (o : Nat) (s t : State) : Prop extends OutputOnly s t where
  txn : t.flag F.ASY_PREPAY_STAT_TXN o = s.flag F.ASY_PREPAY_STAT_TXN o
  prepay : t.flag F.ASY_PREPAY_STAT_PREPAY o = s.flag F.ASY_PREPAY_STAT_PREPAY o
  contactor : t.fld F.ASY_PREPAY_STAT_DISC o = s.fld F.ASY_PREPAY_STAT_DISC o

theorem SessionKept.refl (o : Nat) (s : State) : SessionKept o s s := ⟨⟨RegsKept.refl _ s, s.asy.disc, rfl⟩, rfl, rfl, rfl⟩

theorem SessionKept.trans (h : SessionKept o s u) (k : SessionKept o u t) : SessionKept o s t := by
  obtain ⟨⟨regs, d, asy⟩, txn, prepay, contactor⟩ := h
  obtain ⟨⟨regs', d', asy'⟩, txn', prepay', contactor'⟩ := k
  exact ⟨⟨regs.trans regs', d', by rw [asy', asy]⟩, txn'.trans txn, prepay'.trans prepay, contactor'.trans contactor⟩

/-- A low credit shown. -/
def State.creditLow (s : State) (o : Nat) : State :=
  if decide (s.credit o ≤ ((s.asy.disc.get o).low : Rat)) && !s.flag F.ASY_PREPAY_STAT_LOW o then (s.setFld F.ASY_PREPAY_STAT_LOW o 1).report 0x0BA1 o else s

/-- A credit spent, at an instant. -/
def State.creditSpent (s : State) (o now : Nat) : State :=
  ((s.setFld F.ASY_PREPAY_STAT_EXHAUSTED o 1).report 0x0BA2 o).onDisc o fun d =>
    { d with spent := true, asked := if d.cmdPt.isSome then some (d.asked.getD now) else none }

theorem State.creditLow_session (s : State) (o : Nat) : SessionKept o s (s.creditLow o) := by
  have low : RegsKept [.ASY_PREPAY_STAT] s (s.setFld F.ASY_PREPAY_STAT_LOW o 1)
      ∧ (s.setFld F.ASY_PREPAY_STAT_LOW o 1).flag F.ASY_PREPAY_STAT_TXN o = s.flag F.ASY_PREPAY_STAT_TXN o
      ∧ (s.setFld F.ASY_PREPAY_STAT_LOW o 1).flag F.ASY_PREPAY_STAT_PREPAY o = s.flag F.ASY_PREPAY_STAT_PREPAY o
      ∧ (s.setFld F.ASY_PREPAY_STAT_LOW o 1).fld F.ASY_PREPAY_STAT_DISC o = s.fld F.ASY_PREPAY_STAT_DISC o := by simp
  obtain ⟨regs, txn, prepay, contactor⟩ := low
  unfold State.creditLow
  split
  · exact ⟨⟨regs.mono (by simp), _, rfl⟩, txn, prepay, contactor⟩
  · exact .refl o s

theorem State.creditSpent_session (s : State) (o now : Nat) : SessionKept o s (s.creditSpent o now) := by
  have spent : RegsKept [.ASY_PREPAY_STAT] s (s.setFld F.ASY_PREPAY_STAT_EXHAUSTED o 1)
      ∧ (s.setFld F.ASY_PREPAY_STAT_EXHAUSTED o 1).flag F.ASY_PREPAY_STAT_TXN o = s.flag F.ASY_PREPAY_STAT_TXN o
      ∧ (s.setFld F.ASY_PREPAY_STAT_EXHAUSTED o 1).flag F.ASY_PREPAY_STAT_PREPAY o = s.flag F.ASY_PREPAY_STAT_PREPAY o
      ∧ (s.setFld F.ASY_PREPAY_STAT_EXHAUSTED o 1).fld F.ASY_PREPAY_STAT_DISC o = s.fld F.ASY_PREPAY_STAT_DISC o := by simp
  obtain ⟨regs, txn, prepay, contactor⟩ := spent
  exact ⟨⟨(regs.trans (regsKept_of_regs (t := s.creditSpent o now) rfl)).mono (by simp), _, rfl⟩, txn, prepay, contactor⟩

/-- The judgement of a credit leaves the session's bits and the contactor's. -/
theorem State.judgeCredit_session (s : State) (o : Nat) : SessionKept o s (s.judgeCredit o) := by
  have eq : s.judgeCredit o = if s.credit o ≤ 0 ∧ (s.asy.disc.get o).spent = false then (s.creditLow o).creditSpent o s.asy.now else s.creditLow o := rfl
  rw [eq]
  split
  · exact (s.creditLow_session o).trans ((s.creditLow o).creditSpent_session o s.asy.now)
  · exact s.creditLow_session o

/-! ### Switches and the label (R244, R246) -/

/-- The waiting switches shown: no tariff changes. -/
theorem State.showSwitches_spec (s : State) : s.showSwitches.asy = s.asy ∧ RegsKept [.ASY_TARIFF] s s.showSwitches ∧ ∀ n, s.showSwitches.tariff n = s.tariff n := by
  refine ⟨State.each_congr State.asy fun _ _ _ => rfl, regsKept_each (RegsKept.refl _ s) fun _ _ t => by simp, fun n => ?_⟩
  exact State.each_congr (fun t => t.tariff n) fun k _ t => by simp [State.tariff]

/-- The label's state shown. -/
theorem State.showSync_spec (s : State) : s.showSync.asy = s.asy ∧ CellsKept [(.ASY_HMK_STAT, 0)] s s.showSync
    ∧ s.showSync.flag F.ASY_HMK_STAT_WALL_UNSYNC = s.unsync
    ∧ s.showSync.reports = (if s.unsync && !s.flag F.ASY_HMK_STAT_WALL_UNSYNC then s.reports ++ [⟨0x0BA4, 0⟩] else s.reports) := by
  have set (b : Bool) : CellsKept [(.ASY_HMK_STAT, 0)] s (s.setFlag F.ASY_HMK_STAT_WALL_UNSYNC 0 b)
      ∧ (s.setFlag F.ASY_HMK_STAT_WALL_UNSYNC 0 b).flag F.ASY_HMK_STAT_WALL_UNSYNC = b := by simp
  unfold State.showSync
  dsimp only
  split <;> exact ⟨rfl, (set s.unsync).1, (set s.unsync).2, rfl⟩

end Sys2Proof.Machine
end

section
/-! SUPPORT. The billing commands, and the statement on them. -/

namespace Sys2Proof.Machine

open Sys2Proof

variable {s t u : State} {n o : Nat} {b : List Byte}

/-! ### TXN_START (R242) -/

/-- A transaction begun: it is open, with its credit, and the session's bits stand. -/
def State.txnBegun (s : State) (n o : Nat) (x : Txn) (credit : Int) : State :=
  let t := ((s.onAsy fun a => { a with txns := a.txns.set n (some x) }).onDisc o fun d => { d with spent := false }).setCredit o credit
  (t.setFld F.ASY_PREPAY_STAT_TXN o 1).setFlag F.ASY_PREPAY_STAT_PREPAY o x.prepay

/-- A change that leaves the session, the credit and the transactions. -/
structure BillKept (o : Nat) (s t : State) : Prop where
  txn : t.flag F.ASY_PREPAY_STAT_TXN o = s.flag F.ASY_PREPAY_STAT_TXN o
  prepay : t.flag F.ASY_PREPAY_STAT_PREPAY o = s.flag F.ASY_PREPAY_STAT_PREPAY o
  contactor : t.fld F.ASY_PREPAY_STAT_DISC o = s.fld F.ASY_PREPAY_STAT_DISC o
  credit : t.creditInt o = s.creditInt o
  txns : t.asy.txns = s.asy.txns

theorem BillKept.trans (h : BillKept o s u) (k : BillKept o u t) : BillKept o s t :=
  ⟨k.txn.trans h.txn, k.prepay.trans h.prepay, k.contactor.trans h.contactor, k.credit.trans h.credit, k.txns.trans h.txns⟩

theorem billKept_refl (o : Nat) (s : State) : BillKept o s s := ⟨rfl, rfl, rfl, rfl, rfl⟩

theorem SessionKept.bill (h : SessionKept o s t) : BillKept o s t := by
  obtain ⟨⟨regs, d, asy⟩, txn, prepay, contactor⟩ := h
  exact ⟨txn, prepay, contactor, (State.credit_congr (regs _ _ (by decide)) (regs _ _ (by decide)) (by rw [asy])).1, by rw [asy]⟩

theorem Recorded.bill (h : Recorded s t) (o : Nat) : BillKept o s t := by
  obtain ⟨l, q, asy⟩ := h.asy
  exact ⟨h.regs.flag (by decide) o, h.regs.flag (by decide) o, h.regs.fld (by decide) o,
    (State.credit_congr (h.regs _ _ (by decide)) (h.regs _ _ (by decide)) (by rw [asy])).1, by rw [asy]⟩

theorem State.mailDone_bill (s : State) (code o : Nat) : BillKept o s (s.mailDone code) := by
  obtain ⟨-, cells, asy, -⟩ := s.mailDone_spec code
  exact ⟨cells.flag (by simp), cells.flag (by simp), cells.fld (by simp),
    (State.credit_congr (cells _ _ (by simp)) (cells _ _ (by simp)) (by rw [asy])).1, by rw [asy]⟩

/-- What a transaction that began shows. -/
structure TxnBegun (n o : Nat) (x : Txn) (credit : Int) (s t : State) : Prop where
  opened : t.asy.txns.get n = some x
  others : ∀ k, k ≠ n → t.asy.txns.get k = s.asy.txns.get k
  credit : t.creditInt o = credit
  txn : t.flag F.ASY_PREPAY_STAT_TXN o = true
  prepay : t.flag F.ASY_PREPAY_STAT_PREPAY o = x.prepay
  contactor : t.fld F.ASY_PREPAY_STAT_DISC o = s.fld F.ASY_PREPAY_STAT_DISC o

theorem TxnBegun.later {x : Txn} {credit : Int} (h : TxnBegun n o x credit s u) (kept : BillKept o u t) : TxnBegun n o x credit s t :=
  ⟨by rw [kept.txns, h.opened], fun k other => by rw [kept.txns, h.others k other], kept.credit.trans h.credit, kept.txn.trans h.txn,
    kept.prepay.trans h.prepay, kept.contactor.trans h.contactor⟩

theorem State.txnBegun_spec (s : State) (n o : Nat) (x : Txn) {credit : Int} (low : -(2 ^ 63) ≤ credit) (high : credit < 2 ^ 63) :
    TxnBegun n o x credit s (s.txnBegun n o x credit)
    ∧ RegsKept [.ASY_CREDIT_LO, .ASY_CREDIT_HI, .ASY_PREPAY_STAT] s (s.txnBegun n o x credit) := by
  have shown_ (u : State) : ((u.setFld F.ASY_PREPAY_STAT_TXN o 1).setFlag F.ASY_PREPAY_STAT_PREPAY o x.prepay).flag F.ASY_PREPAY_STAT_TXN o = true
      ∧ ((u.setFld F.ASY_PREPAY_STAT_TXN o 1).setFlag F.ASY_PREPAY_STAT_PREPAY o x.prepay).flag F.ASY_PREPAY_STAT_PREPAY o = x.prepay
      ∧ ((u.setFld F.ASY_PREPAY_STAT_TXN o 1).setFlag F.ASY_PREPAY_STAT_PREPAY o x.prepay).fld F.ASY_PREPAY_STAT_DISC o = u.fld F.ASY_PREPAY_STAT_DISC o
      ∧ RegsKept [.ASY_PREPAY_STAT] u ((u.setFld F.ASY_PREPAY_STAT_TXN o 1).setFlag F.ASY_PREPAY_STAT_PREPAY o x.prepay)
      ∧ ((u.setFld F.ASY_PREPAY_STAT_TXN o 1).setFlag F.ASY_PREPAY_STAT_PREPAY o x.prepay).asy = u.asy :=
    ⟨by simp [Fld.width], by simp, by simp, by simp, rfl⟩
  unfold State.txnBegun
  dsimp only
  obtain ⟨w, named⟩ : ∃ w, w = (s.onAsy fun a => { a with txns := a.txns.set n (some x) }).onDisc o fun d => { d with spent := false } := ⟨_, rfl⟩
  have wRegs : w.regs = s.regs := by rw [named]; rfl
  have wTxns : w.asy.txns = s.asy.txns.set n (some x) := by rw [named]; rfl
  rw [← named]
  obtain ⟨cells, f, asy, -⟩ := w.setCredit_only o credit
  have whole := w.creditInt_setCredit o (q := credit) (by exact_mod_cast low) (by exact_mod_cast high)
  generalize w.setCredit o credit = v at cells asy whole ⊢
  have regs := cells.regsKept (rs := [.ASY_CREDIT_LO, .ASY_CREDIT_HI]) (by simp)
  obtain ⟨txn, prepay, contactor, kept, same⟩ := shown_ v
  generalize (v.setFld F.ASY_PREPAY_STAT_TXN o 1).setFlag F.ASY_PREPAY_STAT_PREPAY o x.prepay = t at txn prepay contactor kept same ⊢
  have txns : t.asy.txns = s.asy.txns.set n (some x) := by rw [same, asy, ← wTxns]
  refine ⟨⟨by rw [txns, Arr.get_set_same], fun k other => by rw [txns, Arr.get_set_ne _ other], ?_, txn, prepay, ?_⟩, ?_⟩
  · rw [(State.credit_congr (kept _ _ (by decide)) (kept _ _ (by decide)) (congrArg Asy.frac same)).1, whole]
    exact Int.floor_intCast (R := Rat) _
  · rw [contactor, regs.fld (by decide)]
    exact (regsKept_of_regs (rs := []) wRegs).fld (by simp) o
  · exact (regsKept_of_regs wRegs).trans ((regs.mono (by simp)).trans (kept.mono (by simp)))

/-- The transaction that a TXN_START orders. -/
def State.txnOf (s : State) (b : List Byte) : Txn :=
  ⟨u32 b 4, decide (u8 b 1 = 1), slice b 16 32, (s.meterAcc (u8 b 0) 0).floor.toNat, (s.meterAcc (u8 b 0) 1).floor.toNat, 0⟩

/-- The transaction begun and recorded. -/
def State.txnStarted (s : State) (b : List Byte) : State :=
  let t := (s.discClose (s.ptOut (u8 b 0))).txnBegun (u8 b 0) (s.ptOut (u8 b 0)) (s.txnOf b) (signed 64 (uN b 8 8))
  t.writeRec ⟨1, 0, u8 b 0, u32 b 4, s.lmc⟩ (s.reading (u8 b 0) ++ slice b 16 32 ++ slice b 8 8)

/-- The first check of a TXN_START. -/
def TxnSound (b : List Byte) : Prop := b.length = 48 ∧ u8 b 0 ≤ 31 ∧ u8 b 1 ≤ 1 ∧ u16 b 2 = 0 ∧ u32 b 4 ≠ 0

/-- What TXN_START answers. -/
theorem exec_txnStart (mailed : Mailed s 0x20 b) : exec .txnStart s = .next (mailAnswer
    (if b.length ≠ 48 ∨ 31 < u8 b 0 ∨ 1 < u8 b 1 ∨ u16 b 2 ≠ 0 ∨ u32 b 4 = 0 then noMail s 0x0B28
    else if (s.asy.txns.get (u8 b 0)).isSome then noMail s 0x0B20
    else if s.flag F.ASY_PT_STAT_METER_FAULT (u8 b 0) then noMail s 0x0B29
    else if s.flag F.ASY_SEAL_CNT_OPEN then noMail s 0x0B21
    else if s.fld F.ASY_HMK_STAT_LOG_FREE < 48 then noMail s 0x0B24
    else okMail (if (s.txnOf b).prepay then (s.txnStarted b).judgeCredit (s.ptOut (u8 b 0)) else s.txnStarted b))) :=
  congrArg Host.Outcome.next (State.mail_eq mailed _)

/-- A transaction begun, recorded, and its credit judged where it is prepaid. -/
theorem State.txnStarted_spec (s : State) (b : List Byte) :
    ∃ u, TxnBegun (u8 b 0) (s.ptOut (u8 b 0)) (s.txnOf b) (signed 64 (uN b 8 8)) u
        (if (s.txnOf b).prepay then (s.txnStarted b).judgeCredit (s.ptOut (u8 b 0)) else s.txnStarted b)
      ∧ u.asy.txns = s.asy.txns
      ∧ ((s.asy.disc.get (s.ptOut (u8 b 0))).cmdPt.isSome = true → u.fld F.ASY_PREPAY_STAT_DISC (s.ptOut (u8 b 0)) = 1)
      ∧ RecordWritten s (if (s.txnOf b).prepay then (s.txnStarted b).judgeCredit (s.ptOut (u8 b 0)) else s.txnStarted b) := by
  obtain ⟨⟨closeRegs, d, closeAsy⟩, closes⟩ := s.discClose_spec (s.ptOut (u8 b 0))
  have started (h : RecHead) (body : List Byte) := ((s.discClose (s.ptOut (u8 b 0))).txnBegun (u8 b 0) (s.ptOut (u8 b 0)) (s.txnOf b)
    (signed 64 (uN b 8 8))).writeRec_recorded h body ⟨false, false⟩
  have bounds := signed_bounds (uN b 8 8)
  obtain ⟨begun, regs⟩ := (s.discClose (s.ptOut (u8 b 0))).txnBegun_spec (u8 b 0) (s.ptOut (u8 b 0)) (s.txnOf b) bounds.1 bounds.2
  have recorded : Recorded _ (s.txnStarted b) := started _ _
  generalize s.txnStarted b = v at recorded ⊢
  have written : RecordWritten s v := (recorded.written.of regs (by simp) (by simp)).of closeRegs (by simp) (by simp)
  refine ⟨_, ?_, by rw [closeAsy], closes, ?_⟩
  · have kept := begun.later (recorded.bill (s.ptOut (u8 b 0)))
    split
    · exact kept.later (v.judgeCredit_session _).bill
    · exact kept
  · split
    · exact written.kept (v.judgeCredit_session _).regs (by simp) (by simp)
    · exact written

/-! ### CREDIT_ADD (R253) -/

/-- A credit grown by an amount. -/
def State.creditAdded (s : State) (o : Nat) (amount : Int) : State :=
  let t := s.setCredit o (s.credit o + amount)
  if ((s.asy.disc.get o).low : Rat) < t.credit o then t.setFld F.ASY_PREPAY_STAT_LOW o 0 else t

theorem State.creditAdded_spec (s : State) (o : Nat) (amount : Int) :
    (s.creditAdded o amount).flag F.ASY_PREPAY_STAT_EXHAUSTED o = s.flag F.ASY_PREPAY_STAT_EXHAUSTED o
    ∧ RegsKept [.ASY_CREDIT_LO, .ASY_CREDIT_HI, .ASY_PREPAY_STAT] s (s.creditAdded o amount)
    ∧ (-(2 ^ 63) ≤ s.credit o + amount → s.credit o + amount < 2 ^ 63 → (s.creditAdded o amount).credit o = s.credit o + amount) := by
  obtain ⟨cells, -⟩ := s.setCredit_only o (s.credit o + amount)
  have sum := s.credit_setCredit o (q := s.credit o + amount) ((s.grained_credit o).add (grained_int amount))
  have exhausted : (s.setCredit o (s.credit o + amount)).flag F.ASY_PREPAY_STAT_EXHAUSTED o = s.flag F.ASY_PREPAY_STAT_EXHAUSTED o := cells.flag (by simp)
  have regs := cells.regsKept (rs := [.ASY_CREDIT_LO, .ASY_CREDIT_HI, .ASY_PREPAY_STAT]) (by simp)
  unfold State.creditAdded
  dsimp only
  generalize s.setCredit o (s.credit o + amount) = u at sum exhausted regs ⊢
  have lifted : (u.setFld F.ASY_PREPAY_STAT_LOW o 0).flag F.ASY_PREPAY_STAT_EXHAUSTED o = u.flag F.ASY_PREPAY_STAT_EXHAUSTED o
      ∧ RegsKept [.ASY_PREPAY_STAT] u (u.setFld F.ASY_PREPAY_STAT_LOW o 0) := by simp
  split
  · refine ⟨lifted.1.trans exhausted, regs.trans (lifted.2.mono (by simp)), fun low high => ?_⟩
    exact ((State.credit_congr (lifted.2 _ _ (by simp)) (lifted.2 _ _ (by simp)) rfl).2).trans (sum low high)
  · exact ⟨exhausted, regs, sum⟩

/-- A credit added, with its record. -/
def State.creditRecorded (s : State) (b : List Byte) : State :=
  let t := s.creditAdded (s.ptOut (u8 b 0)) (signed 64 (uN b 8 8))
  t.writeRec ⟨13, 0, u8 b 0, u32 b 4, s.lmc⟩ (leBytes 8 (uN b 8 8) ++ leBytes 8 (unsignedOf 64 (t.creditInt (s.ptOut (u8 b 0)))))

theorem exec_creditAdd (mailed : Mailed s 0x22 b) : exec .creditAdd s = .next (mailAnswer
    (if b.length ≠ 16 ∨ 31 < u8 b 0 ∨ uN b 1 3 ≠ 0 ∨ signed 64 (uN b 8 8) ≤ 0 then noMail s 0x0B28
    else if !s.txnIs (u8 b 0) (u32 b 4) then noMail s 0x0B20
    else okMail (s.creditRecorded b))) :=
  congrArg Host.Outcome.next (State.mail_eq mailed _)

/-! ### The statement -/

theorem exec_wallSet (mailed : Mailed s 0x26 b) : ∃ h body, exec .wallSet s = .next (mailAnswer
    (if b.length ≠ 16 ∨ 1 < u8 b 8 ∨ uN b 9 7 ≠ 0 then noMail s 0x0B28
    else okMail ((s.onAsy fun a => { a with wall := some (uN b 0 8, s.lmc, decide (u8 b 8 = 1)) }).showSync.writeRec h body ⟨false, false⟩))) :=
  ⟨_, _, congrArg Host.Outcome.next (State.mail_eq mailed _)⟩

/-- Settles O40. -/
theorem billingCommandsFollowTheirChecks : Obligations.BillingCommandsFollowTheirChecks := by
  unfold Obligations.BillingCommandsFollowTheirChecks
  refine ⟨?start, ?stop, ?add, ?schedule, ?cancel, ?interval, ?wall⟩
  case start =>
    intro s b mailed
    have run := exec_txnStart mailed
    dsimp only
    refine ⟨fun bad => ?_, fun good busy => ?_, fun good free fault => ?_, fun good free sound sealed_ => ?_, fun good free sound shut full => ?_,
      fun good free sound shut room => ?_⟩
    · rw [if_pos (by omega)] at run
      exact run
    all_goals rw [if_neg (by omega)] at run
    · rw [if_pos busy] at run
      exact run
    all_goals rw [free, if_neg (by decide)] at run
    · rw [if_pos fault] at run
      exact run
    all_goals rw [if_neg (Bool.eq_false_iff.mp sound)] at run
    · rw [if_pos sealed_] at run
      exact run
    all_goals rw [if_neg (Bool.eq_false_iff.mp shut)] at run
    · rw [if_pos full] at run
      exact run
    rw [if_neg (by omega)] at run
    refine ⟨_, run, ?_⟩
    rw [mailAnswer_ok]
    obtain ⟨u, begun, txns, closing, written⟩ := s.txnStarted_spec b
    generalize (if (s.txnOf b).prepay = true then (s.txnStarted b).judgeCredit (s.ptOut (u8 b 0)) else s.txnStarted b) = v at begun written ⊢
    obtain ⟨answered, regs, -⟩ := v.mailDone_ok
    obtain ⟨opened, others, credit, txn, prepay, contactor⟩ := begun.later (v.mailDone_bill 0x0B00 _)
    refine ⟨answered, written.kept regs (by simp) (by simp), ⟨_, opened, rfl, rfl, rfl, rfl⟩, fun k other => ?_, credit, txn, prepay, fun some_ => ?_⟩
    · rw [others k other, txns]
    · exact contactor.trans (closing some_)
  case stop =>
    intro s b mailed
    have run : exec .txnStop s = .next (mailAnswer _) := congrArg Host.Outcome.next (State.mail_eq mailed _)
    dsimp only at run ⊢
    refine ⟨fun bad => ?_, fun good other => ?_, fun good open_ => ?_⟩
    · rw [if_pos (by omega)] at run
      exact run
    all_goals rw [if_neg (by omega)] at run
    · rw [other, if_pos (by decide)] at run
      exact run
    · rw [open_, if_neg (by decide)] at run
      refine ⟨_, run, ?_⟩
      rw [mailAnswer_ok]
      have some_ : (s.asy.txns.get (u8 b 0)).isSome = true := by
        unfold State.txnIs at open_
        cases found : s.asy.txns.get (u8 b 0) with
        | none =>
          rw [found] at open_
          exact Bool.noConfusion open_
        | some x => rfl
      obtain ⟨⟨-, none_, -⟩, -, flags⟩ := s.stopTxn_spec (u8 b 0) 1
      obtain ⟨txn, exhausted⟩ := flags some_
      generalize s.stopTxn (u8 b 0) 1 = v at none_ txn exhausted ⊢
      obtain ⟨answered, regs, asy⟩ := v.mailDone_ok
      exact ⟨answered, by rw [asy]; exact none_, (regs.flag (by decide) _).trans txn, (regs.flag (by decide) _).trans exhausted⟩
  case add =>
    intro s b mailed
    have run := exec_creditAdd mailed
    dsimp only
    refine ⟨fun bad => ?_, fun good other => ?_, fun good open_ => ?_⟩
    · rw [if_pos (by omega)] at run
      exact run
    all_goals rw [if_neg (by omega)] at run
    · rw [other, if_pos (by decide)] at run
      exact run
    · rw [open_, if_neg (by decide)] at run
      refine ⟨_, run, ?_⟩
      rw [mailAnswer_ok]
      obtain ⟨exhausted, regs, sum⟩ := s.creditAdded_spec (s.ptOut (u8 b 0)) (signed 64 (uN b 8 8))
      have recorded : Recorded (s.creditAdded (s.ptOut (u8 b 0)) (signed 64 (uN b 8 8))) (s.creditRecorded b) := State.writeRec_recorded _ _ _ _
      generalize s.creditAdded (s.ptOut (u8 b 0)) (signed 64 (uN b 8 8)) = u at exhausted regs sum recorded
      generalize s.creditRecorded b = v at recorded ⊢
      obtain ⟨l, q, logged⟩ := recorded.asy
      obtain ⟨answered, mailRegs, asy⟩ := v.mailDone_ok
      refine ⟨answered, (recorded.written.of regs (by simp) (by simp)).kept mailRegs (by simp) (by simp), ?_, fun low high => ?_⟩
      · exact (mailRegs.flag (by decide) _).trans ((recorded.regs.flag (by decide) _).trans exhausted)
      · rw [← sum low high]
        exact (State.credit_congr (mailRegs _ _ (by decide)) (mailRegs _ _ (by decide)) (by rw [asy])).2.trans
          (State.credit_congr (recorded.regs _ _ (by decide)) (recorded.regs _ _ (by decide)) (by rw [logged])).2
  case schedule =>
    intro s b mailed
    have run : exec .tariffSchedule s = .next (mailAnswer _) := congrArg Host.Outcome.next (State.mail_eq mailed _)
    dsimp only at run ⊢
    generalize (if uN b 16 8 = 0 then (s.lmc / 1000000 + 1) * 1000000 else uN b 16 8) = at_ at run ⊢
    refine ⟨fun bad => ?_, fun good full => ?_, fun good room => ?_⟩
    · rw [if_pos (by omega)] at run
      exact run
    all_goals rw [if_neg (by omega)] at run
    · rw [if_pos full] at run
      exact run
    · rw [if_neg (by omega)] at run
      generalize (if uN b 0 8 = 0 then dropSwitches s.asy.switches (uN b 0 8) at_
        else dropSwitches s.asy.switches (uN b 0 8) at_ ++ [⟨at_, uN b 0 8, u8 b 8⟩]) = l at run ⊢
      refine ⟨_, run, ?_⟩
      rw [mailAnswer_ok]
      obtain ⟨same, regs, tariff⟩ := (s.onAsy fun a => { a with switches := l }).showSwitches_spec
      generalize State.showSwitches _ = v at same regs tariff ⊢
      obtain ⟨answered, mailRegs, asy⟩ := v.mailDone_ok
      refine ⟨answered, ?_, ?_, fun n => (mailRegs.fld (by decide) n).trans (tariff n)⟩
      · rw [asy, same]
        rfl
      · exact (regs.mono (by simp)).trans (mailRegs.mono (by simp))
  case cancel =>
    intro s b mailed
    have run : exec .tariffCancel s = .next (mailAnswer _) := congrArg Host.Outcome.next (State.mail_eq mailed _)
    refine ⟨fun bad => ?_, fun length mask => ?_⟩
    · rw [if_pos bad] at run
      exact run
    · rw [if_neg (by omega)] at run
      refine ⟨_, run, ?_⟩
      rw [mailAnswer_ok]
      obtain ⟨same, regs, tariff⟩ := (s.onAsy fun a => { a with switches := dropSwitches a.switches (uN b 0 8) (uN b 8 8) }).showSwitches_spec
      generalize State.showSwitches _ = v at same regs tariff ⊢
      obtain ⟨answered, mailRegs, asy⟩ := v.mailDone_ok
      refine ⟨answered, ?_, ?_, fun n => (mailRegs.fld (by decide) n).trans (tariff n)⟩
      · rw [asy, same]
        rfl
      · exact (regs.mono (by simp)).trans (mailRegs.mono (by simp))
  case interval =>
    intro s b mailed
    have run : exec .intervalSet s = .next (mailAnswer _) := congrArg Host.Outcome.next (State.mail_eq mailed _)
    dsimp only at run ⊢
    refine ⟨fun good => ?_, fun bad => ?_⟩
    · rw [if_neg (by omega)] at run
      obtain ⟨answered, cells, asy, -⟩ := (s.onAsy fun a => { a with newGrid := some (u32 b 0, uN b 8 8) }).mailDone_spec 0x0B00
      exact ⟨_, run, answered, asy, cells⟩
    · rw [if_pos (by omega)] at run
      exact run
  case wall =>
    intro s b mailed
    obtain ⟨head, body, run⟩ := exec_wallSet mailed
    dsimp only
    refine ⟨fun good => ?_, fun bad => ?_⟩
    · rw [if_neg (by omega)] at run
      refine ⟨_, run, ?_⟩
      rw [mailAnswer_ok]
      obtain ⟨same, cells, -⟩ := (s.onAsy fun a => { a with wall := some (uN b 0 8, s.lmc, decide (u8 b 8 = 1)) }).showSync_spec
      have regs : RegsKept [.ASY_HMK_STAT] s _ := cells.regsKept (by simp)
      generalize (s.onAsy fun a => { a with wall := some (uN b 0 8, s.lmc, decide (u8 b 8 = 1)) }).showSync = u at same regs ⊢
      have recorded := u.writeRec_recorded head body ⟨false, false⟩
      generalize u.writeRec head body ⟨false, false⟩ = v at recorded ⊢
      obtain ⟨l, q, logged⟩ := recorded.asy
      obtain ⟨answered, mailRegs, asy⟩ := v.mailDone_ok
      have wall : (v.mailDone 0x0B00).asy.wall = some (uN b 0 8, s.lmc, decide (u8 b 8 = 1)) := by rw [asy, logged, same]; rfl
      have now : (v.mailDone 0x0B00).lmc = s.lmc := by rw [State.lmc, asy, logged, same]; rfl
      refine ⟨answered, wall, ?_, (recorded.written.of regs (by simp) (by simp)).kept mailRegs (by simp) (by simp), ?_⟩
      · rw [State.wallAt, wall, now]
        dsimp only
        rw [Nat.sub_self, Nat.zero_div, Nat.add_zero]
      · exact (regs.mono (by simp)).trans ((recorded.regs.mono (by simp)).trans (mailRegs.mono (by simp)))
    · rw [if_pos (by omega)] at run
      exact run

end Sys2Proof.Machine
end

section
/-! SUPPORT. The supervision of the meter and its energy saves, and the statement on them. -/

namespace Sys2Proof.Machine

open Sys2Proof

variable {s t u : State} {n k : Nat}

/-! ### Parts of a written string -/

theorem State.setBytes_append (s : State) (a : Nat) (x y : List Byte) : s.setBytes a (x ++ y) = (s.setBytes a x).setBytes (a + x.length) y := by
  induction x generalizing s a with
  | nil => rfl
  | cons b x ih =>
    rw [List.cons_append, State.setBytes, ih, State.setBytes, List.length_cons, Nat.add_assoc, Nat.add_comm 1]

/-- A part of a written string reads back at its place. -/
theorem State.bytes_setBytes_part (s : State) (a : Nat) (x y z : List Byte) :
    (s.setBytes a (x ++ (y ++ z))).bytes (a + x.length) y.length = y := by
  rw [State.setBytes_append, State.setBytes_append]
  refine Eq.trans (State.bytes_congr fun i _ high => ?_) (((s.setBytes a x)).bytes_setBytes (a + x.length) y)
  exact State.byte_setBytes_outside _ _ _ _ (.inl (by omega))

/-- The front of a written string reads back. -/
theorem State.bytes_setBytes_front (s : State) (a : Nat) {m : Nat} {y : List Byte} (length : y.length = m) (z : List Byte) :
    (s.setBytes a (y ++ z)).bytes a m = y := by
  have read := s.bytes_setBytes_part a [] y z
  rwa [List.nil_append, List.length_nil, Nat.add_zero, length] at read

/-- A number in a written string reads back at its place. -/
theorem State.le_setBytes_part (s : State) (a m v : Nat) (x z : List Byte) :
    (s.setBytes a (x ++ (leBytes m v ++ z))).le (a + x.length) m = v % 2 ^ (8 * m) := by
  have read := s.bytes_setBytes_part a x (leBytes m v) z
  rw [length_leBytes] at read
  rw [State.le, read, leNat_leBytes]

/-- A written word holds no uncorrected error (R21). -/
theorem State.ecc_setBytes (s : State) (a : Nat) (b : List Byte) {w : Nat} (h : w ∈ (s.setBytes a b).ecc) :
    w ∈ s.ecc ∧ ∀ i < b.length, w ≠ (a + i) / 8 * 8 := by
  induction b generalizing s a with
  | nil => exact ⟨h, fun i small => absurd small (Nat.not_lt_zero i)⟩
  | cons v b ih =>
    obtain ⟨kept, later⟩ := ih (s.setByte a v) (a + 1) h
    obtain ⟨listed, first⟩ := List.mem_filter.mp kept
    refine ⟨listed, fun i small => ?_⟩
    cases i with
    | zero => exact of_decide_eq_true first
    | succ i =>
      have next := later i (by simpa using small)
      rwa [Nat.add_assoc, Nat.add_comm 1] at next

theorem State.eccIn_setBytes (s : State) {a n : Nat} {b : List Byte} (aligned : a % 8 = 0) (inside : n ≤ b.length) :
    (s.setBytes a b).eccIn a n = false := by
  have clear (w : Nat) (touched : w ∈ wordsOf a n) : w ∉ (s.setBytes a b).ecc := by
    obtain ⟨j, small, rfl⟩ := List.mem_map.mp touched
    rw [List.mem_range] at small
    intro marked
    exact (s.ecc_setBytes a b marked).2 (8 * j) (by omega) (by omega)
  refine List.any_eq_false.mpr fun w touched => ?_
  rw [List.contains_iff_mem]
  exact clear w touched

/-! ### The energy save (R450) -/

/-- The head of a save slot: magic, SEQ and the instant. -/
def saveHead (seq us : Nat) : List Byte := [0x53, 0x56, 0x52, 0x47] ++ (leBytes 4 seq ++ leBytes 8 us)

/-- What follows the head of a save slot. -/
def State.saveRest (s : State) (final : Bool) : List Byte :=
  leBytes 8 (s.pair .ASY_RSEQ_LO .ASY_RSEQ_HI) ++ (leBytes 2 ((if final then 1 else 0) + (if s.flag F.ASY_SEAL_CNT_OPEN then 2 else 0)) ++ (leBytes 2 34
    ++ (leBytes 4 0 ++ (List.range 34).flatMap s.saveEntry)))

theorem State.length_saveEntry (s : State) (n : Nat) : (s.saveEntry n).length = 96 := by
  simp [State.saveEntry, length_leBytes]

theorem State.length_saveEntries (s : State) (l : List Nat) : (l.flatMap s.saveEntry).length = 96 * l.length := by
  induction l with
  | nil => rfl
  | cons n l ih => rw [List.flatMap_cons, List.length_append, ih, s.length_saveEntry, List.length_cons]; omega

theorem State.length_saveRest (s : State) (final : Bool) : (s.saveRest final).length = 3280 := by
  rw [State.saveRest]
  simp only [List.length_append, length_leBytes, s.length_saveEntries, List.length_range]

/-- The slot as its head, what follows, and its check word. -/
theorem State.saveEnergy_eq (s : State) (us : Nat) (final : Bool) :
    s.saveEnergy us final = (s.setBytes (saveAddr s.asy.saveSeq) (saveHead s.asy.saveSeq us ++ s.saveRest final
      ++ leBytes 4 (crc32c (saveHead s.asy.saveSeq us ++ s.saveRest final)) ++ leBytes 796 0)).onAsy
      fun a => { a with saveSeq := s.asy.saveSeq + 1, savedAt := us } := by
  unfold State.saveEnergy saveHead State.saveRest
  dsimp only
  simp only [List.append_assoc]

theorem saveAddr_aligned (k : Nat) : saveAddr k % 8 = 0 := by
  unfold saveAddr
  omega

/-- A slot's validity and its numbers look at memory alone. -/
theorem State.saved_onAsy (s : State) (f : Asy → Asy) : (∀ k, (s.onAsy f).saveValid k = s.saveValid k) ∧ ∀ a m, (s.onAsy f).le a m = s.le a m := by
  have bytes (a m : Nat) : (s.onAsy f).bytes a m = s.bytes a m := State.bytes_of_mem (s := s) (t := s.onAsy f) rfl a m
  have marks (a m : Nat) : (s.onAsy f).eccIn a m = s.eccIn a m := rfl
  have numbers (a m : Nat) : (s.onAsy f).le a m = s.le a m := by rw [State.le, State.le, bytes]
  exact ⟨fun k => by rw [State.saveValid, State.saveValid, bytes, bytes, marks, numbers], numbers⟩

theorem crc32c_lt (b : List Byte) : crc32c b < 2 ^ 32 := crc32_lt (by decide) b

/-- What a save leaves in its slot. -/
theorem State.saveEnergy_spec (s : State) (us : Nat) (final : Bool) :
    (s.saveEnergy us final).saveValid s.asy.saveSeq = true
    ∧ (s.saveEnergy us final).le (saveAddr s.asy.saveSeq + 4) 4 = s.asy.saveSeq % 2 ^ 32
    ∧ (s.saveEnergy us final).le (saveAddr s.asy.saveSeq + 8) 8 = us % 2 ^ 64
    ∧ (s.saveEnergy us final).asy = { s.asy with saveSeq := s.asy.saveSeq + 1, savedAt := us }
    ∧ (∀ a, a < saveAddr s.asy.saveSeq ∨ saveAddr s.asy.saveSeq + 4096 ≤ a → (s.saveEnergy us final).byte a = s.byte a)
    ∧ s.saveEnergy us final = { s with mem := (s.saveEnergy us final).mem, ecc := (s.saveEnergy us final).ecc, asy := (s.saveEnergy us final).asy } := by
  rw [s.saveEnergy_eq us final]
  have restLength := s.length_saveRest final
  generalize s.saveRest final = rest at restLength ⊢
  have padLength := length_leBytes 796 0
  generalize leBytes 796 0 = pad at padLength ⊢
  generalize s.asy.saveSeq = seq
  obtain ⟨a, base⟩ : ∃ a, a = saveAddr seq := ⟨_, rfl⟩
  have aligned := saveAddr_aligned seq
  rw [← base] at aligned ⊢
  obtain ⟨b, body⟩ : ∃ b, b = saveHead seq us ++ rest := ⟨_, rfl⟩
  have length : b.length = 0xCE0 := by rw [body, saveHead]; simp [length_leBytes, restLength]
  rw [← body]
  obtain ⟨w, whole⟩ : ∃ w, w = b ++ leBytes 4 (crc32c b) ++ pad := ⟨_, rfl⟩
  have wholeLength : w.length = 4096 := by rw [whole]; simp [length_leBytes, length, padLength]
  rw [← whole]
  have magic : (s.setBytes a w).bytes a 4 = [0x53, 0x56, 0x52, 0x47] := by
    rw [whole, body, saveHead, List.append_assoc, List.append_assoc, List.append_assoc]
    exact s.bytes_setBytes_front a rfl _
  have named : (s.setBytes a w).le (a + 4) 4 = seq % 2 ^ 32 := by
    rw [whole, body, saveHead, List.append_assoc, List.append_assoc, List.append_assoc, List.append_assoc]
    exact s.le_setBytes_part a 4 seq [0x53, 0x56, 0x52, 0x47] _
  have instant : (s.setBytes a w).le (a + 8) 8 = us % 2 ^ 64 := by
    rw [whole, body, saveHead, ← List.append_assoc, List.append_assoc, List.append_assoc, List.append_assoc]
    exact s.le_setBytes_part a 8 us ([0x53, 0x56, 0x52, 0x47] ++ leBytes 4 seq) _
  have written : (s.setBytes a w).bytes a 0xCE0 = b := by
    rw [whole, List.append_assoc]
    exact s.bytes_setBytes_front a length _
  have check : (s.setBytes a w).le (a + 0xCE0) 4 = crc32c b := by
    rw [whole, List.append_assoc, ← length, s.le_setBytes_part a 4 _ b]
    exact Nat.mod_eq_of_lt (crc32c_lt b)
  have clear : (s.setBytes a w).eccIn a 0xCE4 = false := s.eccIn_setBytes aligned (by omega)
  have outside (x : Nat) (far : x < a ∨ a + 4096 ≤ x) : (s.setBytes a w).byte x = s.byte x :=
    State.byte_setBytes_outside s a w x (by omega)
  have only := s.setBytes_eq a w
  generalize s.setBytes a w = v at magic named instant written check clear outside only ⊢
  have same : v.asy = s.asy := by rw [only]
  obtain ⟨valid, numbers⟩ := v.saved_onAsy fun a => { a with saveSeq := seq + 1, savedAt := us }
  refine ⟨(valid seq).trans ?_, (numbers _ _).trans named, (numbers _ _).trans instant, ?_, outside, ?_⟩
  · rw [State.saveValid, ← base, clear, magic, check, written]
    simp
  · change { v.asy with saveSeq := seq + 1, savedAt := us } = _
    rw [same]
  · rw [only]
    rfl

/-! ### Gaps of the AC points (R221) -/

/-- Gaps dropped at some points. -/
theorem State.each_unGap (s : State) (l : List Nat) : s.each l (fun n t => t.onMeter n fun m => { m with gap := none })
    = { s with asy := { s.asy with meters := (s.each l fun n t => t.onMeter n fun m => { m with gap := none }).asy.meters } } := by
  induction l generalizing s with
  | nil => rfl
  | cons n l ih => exact ih (s.onMeter n fun m => { m with gap := none })

theorem State.gap_each_unGap (s : State) {l : List Nat} (k : Nat) :
    ((s.each l fun n t => t.onMeter n fun m => { m with gap := none }).asy.meters.get k).gap = if k ∈ l then none else (s.asy.meters.get k).gap := by
  have at_ (n : Nat) (t : State) : ((t.onMeter n fun m => { m with gap := none }).asy.meters.get k).gap = if k = n then none else (t.asy.meters.get k).gap := by
    change ((t.asy.meters.upd n _).get k).gap = _
    by_cases own : k = n
    · subst own
      rw [Arr.get_upd_same, if_pos rfl]
    · rw [Arr.get_upd_ne _ own, if_neg own]
  split
  · next listed =>
    exact State.each_at (g := fun t => (t.asy.meters.get k).gap) listed (fun t => (at_ k t).trans (if_pos rfl))
      fun j other t => (at_ j t).trans (if_neg (Ne.symm other))
  · next absent =>
    exact State.each_congr (fun t => (t.asy.meters.get k).gap) fun j listed t => (at_ j t).trans (if_neg fun same : k = j => absent (same ▸ listed))

/-- The gaps of the AC points closed. -/
structure AcGapsClosed (s t : State) : Prop where
  regs : RegsKept [.ASY_RSEQ_LO, .ASY_RSEQ_HI, .ASY_HMK_STAT] s t
  closed : (t.asy.meters.get 32).gap = none ∧ (t.asy.meters.get 33).gap = none
  asy : ∃ m x l q, t.asy = { s.asy with meters := m, txns := x, log := l, queue := q }
  txns : ∀ k, (t.asy.txns.get k).isSome = (s.asy.txns.get k).isSome
  same : t = { s with regs := t.regs, scb := t.scb, asy := t.asy, reports := t.reports }

/-- The AC points with an open gap. -/
def State.acGaps (s : State) : List Nat := [32, 33].filter fun n => (s.asy.meters.get n).gap.isSome

theorem State.mem_acGaps (s : State) (n : Nat) : n ∈ s.acGaps ↔ (n = 32 ∨ n = 33) ∧ (s.asy.meters.get n).gap.isSome = true := by
  rw [State.acGaps, List.mem_filter]
  simp

theorem State.closeAcGapsAt_closes (s : State) (end_ : Nat) (k : RecKind) : AcGapsClosed s (s.closeAcGapsAt end_ k) := by
  have gaps := s.mem_acGaps
  have idle (none_ : s.acGaps = []) : s.closeAcGapsAt end_ k = s := by
    have listed : ([32, 33].filter fun n => (s.asy.meters.get n).gap.isSome) = s.acGaps := rfl
    unfold State.closeAcGapsAt
    dsimp only
    rw [listed, none_]
  have eq {p : Nat} {l : List Nat} (some_ : s.acGaps = p :: l) : s.closeAcGapsAt end_ k =
      (s.each (p :: l) fun n t => t.onMeter n fun m => { m with gap := none }).gapRecord (p :: l) (((s.asy.meters.get p).gap).getD end_)
        (end_ - ((s.asy.meters.get p).gap).getD end_) 3 16 k := by
    have listed : ([32, 33].filter fun n => (s.asy.meters.get n).gap.isSome) = s.acGaps := rfl
    unfold State.closeAcGapsAt
    dsimp only
    rw [listed, some_]
  generalize s.acGaps = g at gaps idle eq
  have none_ {n : Nat} (ac : n = 32 ∨ n = 33) (absent : n ∉ g) : (s.asy.meters.get n).gap = none := by
    by_contra some_
    exact absent ((gaps n).mpr ⟨ac, Option.isSome_iff_ne_none.mpr some_⟩)
  cases g with
  | nil =>
    rw [idle rfl]
    exact ⟨RegsKept.refl _ s, ⟨none_ (.inl rfl) (by simp), none_ (.inr rfl) (by simp)⟩, ⟨_, _, _, _, rfl⟩, fun _ => rfl, rfl⟩
  | cons p l =>
    rw [eq rfl]
    generalize ((s.asy.meters.get p).gap).getD end_ = st
    have dropped := s.each_unGap (p :: l)
    have gapAt (n : Nat) := s.gap_each_unGap (l := p :: l) n
    generalize s.each (p :: l) (fun n t => t.onMeter n fun m => { m with gap := none }) = v at dropped gapAt ⊢
    obtain ⟨regs, -, marks, -, same⟩ := v.gapRecord_spec (p :: l) st (end_ - st) 3 16 k
    generalize v.gapRecord (p :: l) st (end_ - st) 3 16 k = w at regs marks same ⊢
    have cells : v.regs = s.regs := by rw [dropped]
    have shut {n : Nat} (ac : n = 32 ∨ n = 33) : (w.asy.meters.get n).gap = none := by
      rw [marks.gap n, gapAt n]
      split
      · rfl
      · next absent => exact none_ ac absent
    refine ⟨((regsKept_of_regs (rs := []) cells).mono (by simp)).trans regs, ⟨shut (.inl rfl), shut (.inr rfl)⟩, ?_, fun n => ?_, ?_⟩
    · obtain ⟨m, x, l, q, asy⟩ := marks.same
      exact ⟨m, x, l, q, by rw [asy, dropped]⟩
    · rw [marks.txns n, dropped]
    · rw [same, dropped]

/-! ### Faults of the meter (R221, R223) -/

/-- METER_FAULT of Assay shows whether a DC point has its own. -/
theorem State.showMeter_spec (s : State) : CellsKept [(.ASY_STAT, 0)] s s.showMeter ∧ s.showMeter.asy = s.asy ∧ s.showMeter.reports = s.reports
    ∧ (s.showMeter.flag F.ASY_STAT_METER_FAULT = true ↔ ∃ k < 32, s.showMeter.flag F.ASY_PT_STAT_METER_FAULT k = true) := by
  have set (b : Bool) : CellsKept [(.ASY_STAT, 0)] s (s.setFlag F.ASY_STAT_METER_FAULT 0 b)
      ∧ (s.setFlag F.ASY_STAT_METER_FAULT 0 b).flag F.ASY_STAT_METER_FAULT = b := by simp
  obtain ⟨regs, shown⟩ := set ((List.range 32).any fun n => s.flag F.ASY_PT_STAT_METER_FAULT n)
  refine ⟨regs, rfl, rfl, ?_⟩
  rw [State.showMeter, shown, List.any_eq_true]
  simp only [List.mem_range]
  refine exists_congr fun n => and_congr_right fun _ => ?_
  rw [(regs.regsKept (rs := [.ASY_STAT]) (by simp)).flag (f := F.ASY_PT_STAT_METER_FAULT) (by decide) n]

theorem checkFaultEnds (up : s.runs 5 = true) (fault : s.flag F.ASY_STAT_CHECK_FAULT = true) (agree : 100 ≤ s.asy.cross.agree) :
    ∃ t, exec .assayCheckFaultEnd s = .next t
      ∧ t.flag F.ASY_STAT_CHECK_FAULT = false ∧ t.flag F.ASY_PT_STAT_METER_FAULT 32 = false ∧ t.flag F.ASY_PT_STAT_METER_FAULT 33 = false
      ∧ (t.asy.meters.get 32).gap = none ∧ (t.asy.meters.get 33).gap = none
      ∧ RegsKept [.ASY_STAT, .ASY_PT_STAT, .ASY_RSEQ_LO, .ASY_RSEQ_HI, .ASY_HMK_STAT] s t := by
  have run : exec .assayCheckFaultEnd s = .next
      (((s.setFld F.ASY_STAT_CHECK_FAULT 0 0).setFld F.ASY_PT_STAT_METER_FAULT 32 0).setFld F.ASY_PT_STAT_METER_FAULT 33 0).closeAcGaps :=
    congrArg Host.Outcome.next ((State.live_runs up).trans (if_pos ⟨fault, agree⟩))
  have cleared (u : State) : let v := ((u.setFld F.ASY_STAT_CHECK_FAULT 0 0).setFld F.ASY_PT_STAT_METER_FAULT 32 0).setFld F.ASY_PT_STAT_METER_FAULT 33 0
      v.flag F.ASY_STAT_CHECK_FAULT = false ∧ v.flag F.ASY_PT_STAT_METER_FAULT 32 = false ∧ v.flag F.ASY_PT_STAT_METER_FAULT 33 = false
        ∧ RegsKept [.ASY_STAT, .ASY_PT_STAT] u v := by
    refine ⟨by simp, ?_, by simp, by simp⟩
    exact (State.flag_setFld_index _ (by decide)).trans (by simp)
  obtain ⟨check, first, second, regs⟩ := cleared s
  refine ⟨_, run, ?_⟩
  generalize ((s.setFld F.ASY_STAT_CHECK_FAULT 0 0).setFld F.ASY_PT_STAT_METER_FAULT 32 0).setFld F.ASY_PT_STAT_METER_FAULT 33 0 = v
    at check first second regs ⊢
  obtain ⟨kept, ⟨gap, gap'⟩, -, -, -⟩ := v.closeAcGapsAt_closes v.asy.now ⟨false, false⟩
  exact ⟨(kept.flag (by decide) 0).trans check, (kept.flag (by decide) 32).trans first, (kept.flag (by decide) 33).trans second, gap, gap',
    (regs.mono (by simp)).trans (kept.mono (by simp))⟩

theorem meterFaultEnds (up : s.runs 5 = true) (fault : s.flag F.ASY_PT_STAT_METER_FAULT n = true) (good : 16 ≤ (s.asy.meters.get n).good) :
    ∃ t, exec (.meterFaultEnd n) s = .next t
      ∧ t.flag F.ASY_PT_STAT_METER_FAULT n = false ∧ (t.asy.meters.get n).gap = none
      ∧ ((s.asy.meters.get n).gap.isSome = true → RecordWritten s t ∧ (⟨0x0BA3, 0⟩ : Report) ∈ t.reports.drop s.reports.length)
      ∧ (t.flag F.ASY_STAT_METER_FAULT = true ↔ ∃ k < 32, t.flag F.ASY_PT_STAT_METER_FAULT k = true) := by
  have run : exec (.meterFaultEnd n) s = .next ((s.setFld F.ASY_PT_STAT_METER_FAULT n 0).closeGap n).showMeter :=
    congrArg Host.Outcome.next ((State.live_runs up).trans (if_pos ⟨fault, good⟩))
  have cleared (u : State) : (u.setFld F.ASY_PT_STAT_METER_FAULT n 0).flag F.ASY_PT_STAT_METER_FAULT n = false
      ∧ RegsKept [.ASY_PT_STAT] u (u.setFld F.ASY_PT_STAT_METER_FAULT n 0) := by simp
  obtain ⟨off, regs⟩ := cleared s
  have asy : (s.setFld F.ASY_PT_STAT_METER_FAULT n 0).asy = s.asy := rfl
  have reports : (s.setFld F.ASY_PT_STAT_METER_FAULT n 0).reports = s.reports := rfl
  refine ⟨_, run, ?_⟩
  generalize s.setFld F.ASY_PT_STAT_METER_FAULT n 0 = v at off regs asy reports ⊢
  obtain ⟨kept, closed, -, -, -, recorded, -⟩ := v.closeGapAt_closes n v.asy.now ⟨false, false⟩
  have folded : v.closeGap n = v.closeGapAt n v.asy.now ⟨false, false⟩ := rfl
  rw [← folded] at kept closed recorded
  generalize v.closeGap n = w at kept closed recorded ⊢
  obtain ⟨shownRegs, shownAsy, shownReports, shown⟩ := w.showMeter_spec
  have rest : RegsKept [.ASY_STAT] w w.showMeter := shownRegs.regsKept (by simp)
  refine ⟨((rest.flag (by decide) n).trans (kept.flag (by decide) n)).trans off, by rw [shownAsy]; exact closed, fun some_ => ?_, shown⟩
  rw [← asy] at some_
  obtain ⟨written, reported⟩ := recorded some_
  refine ⟨(written.of regs (by simp) (by simp)).kept rest (by simp) (by simp), ?_⟩
  rw [shownReports, reported, reports]
  simp

/-! ### Plausibility of a DC point (R222) -/

/-- The two measurements of a second are apart. -/
def State.apart (s : State) (n : Nat) (i u pi pu : Rat) : Prop :=
  (s.fld F.ASY_PT_CFG_DC_TOL n : Rat) / 1000 * ((s.outMax (s.ptOut n) : Rat) / 10) < |i - pi|
    ∨ (s.fld F.ASY_PT_CFG_DC_TOL n : Rat) / 1000 * Config.voltRating (s.ptOut n) < |u - pu|

/-- The seconds counted at a point. -/
def State.judged (s : State) (n bad ok : Nat) : State := s.onMeter n fun m => { m with bad := bad, ok := ok, own := none, other := none }

theorem State.judged_counts (s : State) (n bad ok : Nat) : ((s.judged n bad ok).asy.meters.get n).bad = bad ∧ ((s.judged n bad ok).asy.meters.get n).ok = ok := by
  have at_ : (s.judged n bad ok).asy.meters.get n = { s.asy.meters.get n with bad := bad, ok := ok, own := none, other := none } := Arr.get_upd_same _ _ _
  exact ⟨by rw [at_], by rw [at_]⟩

theorem State.plausible_off (s : State) {i u pi pu : Rat} (own : (s.asy.meters.get n).own = some (i, u))
    (other : (s.asy.meters.get n).other = some (pi, pu)) (off : s.apart n i u pi pu) :
    s.plausible n = if 10 ≤ (s.asy.meters.get n).bad + 1 ∧ s.flag F.ASY_PT_STAT_PLAUS n = false then
        ((s.judged n ((s.asy.meters.get n).bad + 1) 0).setFld F.ASY_PT_STAT_PLAUS n 1).report 0x0B85 n
      else s.judged n ((s.asy.meters.get n).bad + 1) 0 := by
  rw [State.apart] at off
  unfold State.plausible
  dsimp only
  rw [own, other]
  dsimp only
  rw [decide_eq_true off]
  rfl

theorem State.plausible_near (s : State) {i u pi pu : Rat} (own : (s.asy.meters.get n).own = some (i, u))
    (other : (s.asy.meters.get n).other = some (pi, pu)) (near : ¬ s.apart n i u pi pu) :
    s.plausible n = if 10 ≤ (s.asy.meters.get n).ok + 1 then (s.judged n 0 ((s.asy.meters.get n).ok + 1)).setFld F.ASY_PT_STAT_PLAUS n 0
      else s.judged n 0 ((s.asy.meters.get n).ok + 1) := by
  rw [State.apart] at near
  unfold State.plausible
  dsimp only
  rw [own, other]
  dsimp only
  rw [decide_eq_false near]
  exact if_neg fun long => absurd long.1 (Nat.not_succ_le_zero 9)

theorem plausibilityJudges (up : s.runs 5 = true) {i u pi pu : Rat} (own : (s.asy.meters.get n).own = some (i, u))
    (other : (s.asy.meters.get n).other = some (pi, pu)) :
    ∃ t, exec (.dcPlausibility n) s = .next t ∧ CellsKept [(.ASY_PT_STAT, n)] s t ∧ MemKept s t
      ∧ (s.apart n i u pi pu → 9 ≤ (s.asy.meters.get n).bad → s.flag F.ASY_PT_STAT_PLAUS n = false →
        t.flag F.ASY_PT_STAT_PLAUS n = true ∧ t.reports = s.reports ++ [⟨0x0B85, n⟩])
      ∧ (s.apart n i u pi pu → (s.asy.meters.get n).bad < 9 →
        t.flag F.ASY_PT_STAT_PLAUS n = s.flag F.ASY_PT_STAT_PLAUS n ∧ (t.asy.meters.get n).bad = (s.asy.meters.get n).bad + 1)
      ∧ (¬ s.apart n i u pi pu → 9 ≤ (s.asy.meters.get n).ok → t.flag F.ASY_PT_STAT_PLAUS n = false)
      ∧ (¬ s.apart n i u pi pu → (s.asy.meters.get n).ok < 9 →
        t.flag F.ASY_PT_STAT_PLAUS n = s.flag F.ASY_PT_STAT_PLAUS n ∧ (t.asy.meters.get n).ok = (s.asy.meters.get n).ok + 1) := by
  have run : exec (.dcPlausibility n) s = .next (s.plausible n) := congrArg Host.Outcome.next (State.live_runs up)
  have set (v : Nat) (w : State) : CellsKept [(.ASY_PT_STAT, n)] w (w.setFld F.ASY_PT_STAT_PLAUS n v)
      ∧ (w.setFld F.ASY_PT_STAT_PLAUS n v).flag F.ASY_PT_STAT_PLAUS n = decide (v % 2 ^ 1 ≠ 0) := by simp [Fld.width]
  have judged (bad ok : Nat) : CellsKept [(.ASY_PT_STAT, n)] s (s.judged n bad ok) := cellsKept_of_regs rfl
  refine ⟨_, run, ?_⟩
  by_cases off : s.apart n i u pi pu
  · rw [s.plausible_off own other off]
    obtain ⟨counted, -⟩ := s.judged_counts n ((s.asy.meters.get n).bad + 1) 0
    have kept := judged ((s.asy.meters.get n).bad + 1) 0
    obtain ⟨regs, set_⟩ := set 1 (s.judged n ((s.asy.meters.get n).bad + 1) 0)
    split
    · refine ⟨(kept.trans regs).trans (cellsKept_of_regs rfl), memKept_of_mem rfl, fun _ _ _ => ⟨set_, rfl⟩, fun _ few => ?_, fun near => absurd off near,
        fun near => absurd off near⟩
      omega
    · next waits =>
      refine ⟨kept, memKept_of_mem rfl, fun _ many clear => absurd ⟨by omega, clear⟩ waits, fun _ _ => ⟨rfl, counted⟩, fun near => absurd off near,
        fun near => absurd off near⟩
  · rw [s.plausible_near own other off]
    obtain ⟨-, counted⟩ := s.judged_counts n 0 ((s.asy.meters.get n).ok + 1)
    have kept := judged 0 ((s.asy.meters.get n).ok + 1)
    obtain ⟨regs, clear⟩ := set 0 (s.judged n 0 ((s.asy.meters.get n).ok + 1))
    split
    · refine ⟨kept.trans regs, memKept_of_mem rfl, fun far => absurd far off, fun far => absurd far off, fun _ _ => clear, fun _ few => ?_⟩
      omega
    · refine ⟨kept, memKept_of_mem rfl, fun far => absurd far off, fun far => absurd far off, fun _ many => ?_, fun _ _ => ⟨rfl, counted⟩⟩
      omega

/-! ### The drift window (R225) -/

/-- A finished window shown, before DRIFT is judged. -/
def State.driftShown (s : State) (ppm : Rat) (ok : Nat) : State :=
  (s.setFld F.ASY_DRIFT_PPM 0 (unsignedOf 16 (clampInt (-32768) 32767 (roundDiv ppm.num ppm.den)))).onAsy fun a => { a with driftOk := ok, driftDone := none }

theorem State.driftShown_spec (s : State) (ppm : Rat) (ok : Nat) : CellsKept [(.ASY_DRIFT, 0)] s (s.driftShown ppm ok)
    ∧ (s.driftShown ppm ok).fld F.ASY_DRIFT_PPM = unsignedOf 16 (clampInt (-32768) 32767 (roundDiv ppm.num ppm.den))
    ∧ (s.driftShown ppm ok).asy.driftDone = none ∧ (s.driftShown ppm ok).reports = s.reports := by
  have small := unsignedOf_lt 16 (clampInt (-32768) 32767 (roundDiv ppm.num ppm.den))
  unfold State.driftShown
  generalize unsignedOf 16 (clampInt (-32768) 32767 (roundDiv ppm.num ppm.den)) = v at small ⊢
  have set : CellsKept [(.ASY_DRIFT, 0)] s (s.setFld F.ASY_DRIFT_PPM 0 v) ∧ (s.setFld F.ASY_DRIFT_PPM 0 v).fld F.ASY_DRIFT_PPM = v := by
    refine ⟨by simp, ?_⟩
    rw [State.fld_setFld_self s (by decide)]
    exact Nat.mod_eq_of_lt small
  exact ⟨set.1.trans (cellsKept_of_regs rfl), set.2, rfl, rfl⟩

/-- DRIFT set or cleared, and the label shown. -/
theorem State.driftJudged (s : State) (v : Nat) (rs : List Report) :
    let w := ({ s.setFld F.ASY_STAT_DRIFT 0 v with reports := rs }).showSync
    CellsKept [(.ASY_STAT, 0), (.ASY_HMK_STAT, 0)] s w ∧ w.asy = s.asy ∧ w.flag F.ASY_STAT_DRIFT = decide (v % 2 ^ 1 ≠ 0)
      ∧ w.fld F.ASY_DRIFT_PPM = s.fld F.ASY_DRIFT_PPM ∧ ∃ more, w.reports = rs ++ more := by
  have set : CellsKept [(.ASY_STAT, 0)] s (s.setFld F.ASY_STAT_DRIFT 0 v)
      ∧ (s.setFld F.ASY_STAT_DRIFT 0 v).flag F.ASY_STAT_DRIFT = decide (v % 2 ^ 1 ≠ 0) := by simp [Fld.width]
  obtain ⟨regs, drift⟩ := set
  have regs' : CellsKept [(.ASY_STAT, 0)] s { s.setFld F.ASY_STAT_DRIFT 0 v with reports := rs } := regs.trans (cellsKept_of_regs rfl)
  have drift' : ({ s.setFld F.ASY_STAT_DRIFT 0 v with reports := rs } : State).flag F.ASY_STAT_DRIFT = decide (v % 2 ^ 1 ≠ 0) := drift
  have asy' : ({ s.setFld F.ASY_STAT_DRIFT 0 v with reports := rs } : State).asy = s.asy := rfl
  have reports' : ({ s.setFld F.ASY_STAT_DRIFT 0 v with reports := rs } : State).reports = rs := rfl
  generalize ({ s.setFld F.ASY_STAT_DRIFT 0 v with reports := rs } : State) = x at regs' drift' asy' reports' ⊢
  obtain ⟨asy, cells, -, reports⟩ := x.showSync_spec
  have all := (regs'.mono (ls := [(.ASY_STAT, 0), (.ASY_HMK_STAT, 0)]) (by simp)).trans (cells.mono (by simp))
  dsimp only
  refine ⟨all, asy.trans asy', (cells.flag (by simp)).trans drift', all.fld (by simp), ?_⟩
  rw [reports, reports']
  split
  · exact ⟨_, rfl⟩
  · exact ⟨[], (List.append_nil _).symm⟩

/-- A finished window is judged by its difference. -/
theorem State.driftWindow_some (s : State) (done : s.asy.driftDone = some n) :
    s.driftWindow = (let t := s.driftShown (s.driftPpm n) (if |s.driftPpm n| ≤ 400 then s.asy.driftOk + 1 else 0)
      if 500 < |s.driftPpm n| ∧ s.flag F.ASY_STAT_DRIFT = false then
        ({ t.setFld F.ASY_STAT_DRIFT 0 1 with reports := t.reports ++ [(⟨0x0B81, 0⟩ : Report)] } : State).showSync
      else if 10 ≤ (if |s.driftPpm n| ≤ 400 then s.asy.driftOk + 1 else 0) then ({ t.setFld F.ASY_STAT_DRIFT 0 0 with reports := t.reports }).showSync
      else t) := by
  unfold State.driftWindow
  rw [done]
  rfl

theorem driftJudges (up : s.runs 5 = true) (done : s.asy.driftDone = some n) :
    ∃ t, exec .drift s = .next t ∧ RegsKept [.ASY_DRIFT, .ASY_STAT, .ASY_HMK_STAT] s t ∧ t.asy.driftDone = none
      ∧ t.fld F.ASY_DRIFT_PPM = unsignedOf 16 (clampInt (-32768) 32767 (roundDiv (s.driftPpm n).num (s.driftPpm n).den))
      ∧ (500 < |s.driftPpm n| → t.flag F.ASY_STAT_DRIFT = true
        ∧ (s.flag F.ASY_STAT_DRIFT = false → (⟨0x0B81, 0⟩ : Report) ∈ t.reports.drop s.reports.length))
      ∧ (|s.driftPpm n| ≤ 400 → 9 ≤ s.asy.driftOk → t.flag F.ASY_STAT_DRIFT = false)
      ∧ (|s.driftPpm n| ≤ 500 → s.asy.driftOk < 9 ∨ 400 < |s.driftPpm n| → t.flag F.ASY_STAT_DRIFT = s.flag F.ASY_STAT_DRIFT) := by
  have run : exec .drift s = .next s.driftWindow := congrArg Host.Outcome.next (State.live_runs up)
  refine ⟨_, run, ?_⟩
  rw [s.driftWindow_some done]
  generalize s.driftPpm n = ppm
  obtain ⟨ok, counts⟩ : ∃ ok, ok = if |ppm| ≤ 400 then s.asy.driftOk + 1 else 0 := ⟨_, rfl⟩
  rw [← counts]
  obtain ⟨cells, shown, idle, reports⟩ := s.driftShown_spec ppm ok
  have before : (s.driftShown ppm ok).flag F.ASY_STAT_DRIFT = s.flag F.ASY_STAT_DRIFT := cells.flag (by simp)
  dsimp only
  generalize s.driftShown ppm ok = w at cells shown idle reports before ⊢
  have judged {v : State} (kept : CellsKept [(.ASY_STAT, 0), (.ASY_HMK_STAT, 0)] w v) : RegsKept [.ASY_DRIFT, .ASY_STAT, .ASY_HMK_STAT] s v :=
    (cells.regsKept (by simp)).trans (kept.regsKept (by simp))
  split
  · next far =>
    obtain ⟨kept, asy, set, ppm_, more, grown⟩ := w.driftJudged 1 (w.reports ++ [⟨0x0B81, 0⟩])
    generalize ({ w.setFld F.ASY_STAT_DRIFT 0 1 with reports := w.reports ++ [(⟨0x0B81, 0⟩ : Report)] } : State).showSync = v at kept asy set ppm_ grown ⊢
    refine ⟨judged kept, by rw [asy, idle], ppm_.trans shown, fun _ => ⟨set, fun _ => ?_⟩, fun near => ?_, fun near => ?_⟩
    · rw [grown, reports]
      simp
    · exact absurd (far.1.trans_le near) (by norm_num)
    · exact absurd (far.1.trans_le near) (lt_irrefl _)
  · next kept_ =>
    split
    · next many =>
      obtain ⟨kept, asy, set, ppm_, more, grown⟩ := w.driftJudged 0 w.reports
      generalize ({ w.setFld F.ASY_STAT_DRIFT 0 0 with reports := w.reports } : State).showSync = v at kept asy set ppm_ grown ⊢
      have near : |ppm| ≤ 400 := by
        by_contra far
        rw [counts, if_neg far] at many
        exact absurd many (by decide)
      refine ⟨judged kept, by rw [asy, idle], ppm_.trans shown, fun far => ?_, fun _ _ => set, fun _ few => ?_⟩
      · exact absurd (far.trans_le near) (by norm_num)
      · rw [counts, if_pos near] at many
        rcases few with few | far
        · omega
        · exact absurd (far.trans_le near) (lt_irrefl _)
    · next few =>
      refine ⟨cells.regsKept (by simp), idle, shown, fun far => ?_, fun near many => ?_, fun _ _ => before⟩
      · have set : s.flag F.ASY_STAT_DRIFT = true := by
          by_contra clear
          exact kept_ ⟨far, Bool.eq_false_iff.mpr clear⟩
        exact ⟨before.trans set, fun clear => absurd (set.symm.trans clear) (by decide)⟩
      · rw [counts, if_pos near] at few
        omega

/-! ### Test pulses (R226) -/

theorem pendingStarts (up : s.runs 5 = true) (low : (s.asy.tpos.get k).high = false) (waits : 0 < s.fld F.ASY_TPO_STAT_PENDING k) :
    ∃ t, exec (.pendingPulseStart k) s = .next t
      ∧ t.fld F.ASY_TPO_STAT_PENDING k = s.fld F.ASY_TPO_STAT_PENDING k - 1 ∧ (t.asy.tpos.get k).high = true
      ∧ (t.asy.tpos.get k).start = some ((s.asy.tpos.get k).fall + 10) ∧ CellsKept [(.ASY_TPO_STAT, k)] s t ∧ MemKept s t := by
  have run : exec (.pendingPulseStart k) s = .next ((s.setFld F.ASY_TPO_STAT_PENDING k (s.fld F.ASY_TPO_STAT_PENDING k - 1)).startPulse k
      ((s.asy.tpos.get k).fall + 10)) := congrArg Host.Outcome.next ((State.live_runs up).trans (if_pos ⟨low, waits⟩))
  have small := s.fld_lt F.ASY_TPO_STAT_PENDING k
  generalize s.fld F.ASY_TPO_STAT_PENDING k = n at run waits small ⊢
  have set : (s.setFld F.ASY_TPO_STAT_PENDING k (n - 1)).fld F.ASY_TPO_STAT_PENDING k = n - 1
      ∧ CellsKept [(.ASY_TPO_STAT, k)] s (s.setFld F.ASY_TPO_STAT_PENDING k (n - 1)) := by
    refine ⟨?_, by simp⟩
    rw [State.fld_setFld_self s (by decide)]
    exact Nat.mod_eq_of_lt (by omega)
  have memory : MemKept s (s.setFld F.ASY_TPO_STAT_PENDING k (n - 1)) := memKept_of_mem rfl
  refine ⟨_, run, ?_⟩
  generalize s.setFld F.ASY_TPO_STAT_PENDING k (n - 1) = w at set memory ⊢
  have started (at_ : Nat) : (((w.startPulse k at_).asy.tpos.get k).high = true) ∧ ((w.startPulse k at_).asy.tpos.get k).start = some at_
      ∧ (w.startPulse k at_).regs = w.regs ∧ (w.startPulse k at_).mem = w.mem := by
    unfold State.startPulse
    dsimp only
    refine ⟨?_, ?_, rfl, rfl⟩
    · exact congrArg Tpo.high (Arr.get_set_same _ _ _)
    · exact congrArg Tpo.start (Arr.get_set_same _ _ _)
  obtain ⟨high, start, regs, mem⟩ := started ((s.asy.tpos.get k).fall + 10)
  exact ⟨((regsKept_of_regs (rs := []) regs).fld (by simp) k).trans set.1, high, start, set.2.trans (cellsKept_of_regs regs), memory.trans (memKept_of_mem mem)⟩

/-- Settles O38: a fault of the meter ends with its gaps, the two measurements and the drift window are judged by their cases, and a save's
string is read back part by part. -/
theorem meterSupervisionAndSaves : Obligations.MeterSupervisionAndSaves := by
  unfold Obligations.MeterSupervisionAndSaves
  refine ⟨fun s up fault agree => checkFaultEnds up fault agree, fun s n up fault good => meterFaultEnds up fault good,
    fun s n i u pi pu up own other => plausibilityJudges up own other, fun s done => ?_, fun s n up done => driftJudges up done,
    fun s up run_ metered due => ?_, fun s k up => congrArg Host.Outcome.next (State.live_runs up), fun s k up low waits => pendingStarts up low waits⟩
  · have still : s.driftWindow = s := by
      unfold State.driftWindow
      rw [done]
    refine congrArg Host.Outcome.next ?_
    rw [still, State.live]
    split <;> rfl
  · have run : exec .energySave s = .next (s.saveEnergy (s.lmc / 100000 * 100000) false) :=
      congrArg Host.Outcome.next ((State.live_runs up).trans (if_pos ⟨run_, metered, due⟩))
    obtain ⟨valid, named, instant, asy, outside, same⟩ := s.saveEnergy_spec (s.lmc / 100000 * 100000) false
    exact ⟨_, run, same, valid, named, instant, asy, outside⟩

end Sys2Proof.Machine
end

section
/-! SUPPORT. Boundaries and switches of Assay: what is taken, and the record that it leaves (R243 to R245, R252). -/

namespace Sys2Proof.Machine

open Sys2Proof

variable {s t u : State} {d extra : Nat}

/-! ### The parts of a taken boundary -/

/-- The flags of a boundary's record. -/
def State.dueFlags (s : State) (d extra : Nat) : Nat :=
  extra + (if decide (s.boundary = d) && decide (nextGrid s.grid.anchor s.grid.len s.grid.from_ ≠ d) then 0x200 else 0)
    + (if decide (s.boundary = d) && s.grid.merged.isSome && !decide (64 ≤ s.asy.queue.length) then 0x100 else 0)

/-- What a boundary at an instant holds for its record. -/
def State.heldAt (s : State) (d extra : Nat) : Held_ :=
  ⟨d, if decide (s.boundary = d) && !decide (64 ≤ s.asy.queue.length) then some (s.grid.merged.getD s.grid.from_) else none,
    decide ((s.asy.switches.filter fun w => decide (w.at_ = d)) ≠ []), s.dueFlags d extra, s.ptsOn.map (s.heldPt d extra),
    s.asy.switches.filter fun w => decide (w.at_ = d), s.grid⟩

/-- The boundary held, and its switches no longer waiting. -/
def State.heldTaken (s : State) (d extra : Nat) : State :=
  s.onAsy fun a => { a with
    held := if (s.heldAt d extra).closes.isSome || (s.heldAt d extra).switches then a.held ++ [s.heldAt d extra] else a.held
    switches := a.switches.filter fun w => decide (w.at_ ≠ d) }

/-- A point's tariff moved on, from its old number to its new one. -/
def State.tariffTo (t : State) (old new : Nat → Nat) (n : Nat) : State :=
  if new n = old n then t else (t.setFld F.ASY_TARIFF_ACTIVE n (new n)).onAsy fun a => { a with prevT := a.prevT.set n (old n) }

/-- The interval's first accumulators at a point. -/
def State.intervalFrom (t : State) (acc : Nat → Rat × Rat) (n : Nat) : State :=
  (t.onMeter n fun m => { m with gapped := m.gap.isSome }).onAsy fun a => { a with fromAcc := a.fromAcc.set n (acc n) }

/-- The switches made and shown. -/
def State.switched (t : State) (old new : Nat → Nat) : State := (t.each (List.range 34) fun n t => t.tariffTo old new n).showSwitches

theorem State.takeAt_eq (s : State) (d extra : Nat) : s.takeAt d extra =
    let t := (s.heldTaken d extra).switched s.tariff (s.tariffAt d)
    if !decide (s.boundary = d) then t
    else if decide (64 ≤ s.asy.queue.length) then t.setGrid (s.grid.close d (decide (64 ≤ s.asy.queue.length)))
    else (t.setGrid (s.grid.close d (decide (64 ≤ s.asy.queue.length)))).each s.ptsOn fun n t =>
      t.intervalFrom (fun n => (s.meterAcc n 0, s.meterAcc n 1)) n := rfl

/-- What a taken boundary touches. -/
structure BoundaryTaken (s t : State) : Prop where
  regs : RegsKept [.ASY_TARIFF, .ASY_INT_CFG, .ASY_INT_ANCHOR_LO, .ASY_INT_ANCHOR_HI] s t
  asy : ∃ h w p f g n m c, t.asy = { s.asy with held := h, switches := w, prevT := p, from_ := f, merged := g, newGrid := n, meters := m, fromAcc := c }

theorem BoundaryTaken.refl (s : State) : BoundaryTaken s s := ⟨RegsKept.refl _ s, _, _, _, _, _, _, _, _, rfl⟩

theorem BoundaryTaken.trans (h : BoundaryTaken s u) (k : BoundaryTaken u t) : BoundaryTaken s t := by
  obtain ⟨regs, _, _, _, _, _, _, _, _, asy⟩ := h
  obtain ⟨regs', a, b, c, d, e, f, g, h, asy'⟩ := k
  exact ⟨regs.trans regs', a, b, c, d, e, f, g, h, by rw [asy', asy]⟩

theorem boundaryTaken_each {l : List Nat} {f : Nat → State → State} (next : ∀ n ∈ l, ∀ t, BoundaryTaken t (f n t)) (s : State) :
    BoundaryTaken s (s.each l f) :=
  State.each_induct (P := BoundaryTaken s) (.refl s) fun n listed t h => h.trans (next n listed t)

theorem State.heldTaken_taken (s : State) (d extra : Nat) : BoundaryTaken s (s.heldTaken d extra) :=
  ⟨regsKept_of_regs rfl, _, _, _, _, _, _, _, _, rfl⟩

theorem State.tariffTo_taken (t : State) (old new : Nat → Nat) (n : Nat) : BoundaryTaken t (t.tariffTo old new n) := by
  have set : RegsKept [.ASY_TARIFF] t (t.setFld F.ASY_TARIFF_ACTIVE n (new n)) := by simp
  unfold State.tariffTo
  split
  · exact .refl t
  · exact ⟨(set.mono (by simp)).trans (regsKept_of_regs rfl), _, _, _, _, _, _, _, _, rfl⟩

theorem State.switched_taken (t : State) (old new : Nat → Nat) : BoundaryTaken t (t.switched old new) := by
  have made := boundaryTaken_each (fun n _ t => t.tariffTo_taken old new n) t (l := List.range 34)
  unfold State.switched
  generalize t.each (List.range 34) (fun n t => t.tariffTo old new n) = u at made ⊢
  obtain ⟨asy, regs, -⟩ := u.showSwitches_spec
  exact made.trans ⟨regs.mono (by simp), _, _, _, _, _, _, _, _, asy⟩

theorem State.setGrid_taken (t : State) (g : Grid) : BoundaryTaken t (t.setGrid g) := by
  have set : RegsKept [.ASY_TARIFF, .ASY_INT_CFG, .ASY_INT_ANCHOR_LO, .ASY_INT_ANCHOR_HI] t
      ((t.setFld F.ASY_INT_CFG_LEN 0 g.len).setPair .ASY_INT_ANCHOR_LO .ASY_INT_ANCHOR_HI 0 g.anchor) := by simp
  exact ⟨set.trans (regsKept_of_regs rfl), _, _, _, _, _, _, _, _, rfl⟩

theorem State.intervalFrom_taken (t : State) (acc : Nat → Rat × Rat) (n : Nat) : BoundaryTaken t (t.intervalFrom acc n) :=
  ⟨regsKept_of_regs rfl, _, _, _, _, _, _, _, _, rfl⟩

theorem State.takeAt_taken (s : State) (d extra : Nat) : BoundaryTaken s (s.takeAt d extra) := by
  have made := (s.heldTaken_taken d extra).trans ((s.heldTaken d extra).switched_taken s.tariff (s.tariffAt d))
  rw [s.takeAt_eq]
  dsimp only
  split
  · exact made
  · split
    · exact made.trans (State.setGrid_taken _ _)
    · exact (made.trans (State.setGrid_taken _ _)).trans (boundaryTaken_each (fun n _ t => t.intervalFrom_taken _ n) _)

/-! ### What is due -/

/-- Nothing is due at an instant. -/
def State.NothingDue (s : State) (at_ : Nat) : Prop := (∀ w ∈ s.asy.switches, at_ < 2 * w.at_) ∧ at_ < 2 * s.boundary

theorem State.nextSwitch_none (none_ : s.nextSwitch = none) : s.asy.switches = [] := by
  have empty := List.min?_eq_none_iff.mp none_
  exact List.map_eq_nil_iff.mp empty

theorem State.nextSwitch_some (some_ : s.nextSwitch = some d) : ∃ w ∈ s.asy.switches, w.at_ = d :=
  List.mem_map.mp (List.min?_mem some_)

/-- The instant that is due first. -/
theorem State.takeDue_some (s : State) (at_ extra : Nat) (next : s.nextSwitch = some d) :
    s.takeDue at_ extra = if 2 * min d s.boundary ≤ at_ ∧ 0 < s.fld F.ASY_INT_CFG_LEN then s.takeAt (min d s.boundary) extra else s := by
  unfold State.takeDue
  rw [next]

theorem State.takeDue_none (s : State) (at_ extra : Nat) (next : s.nextSwitch = none) :
    s.takeDue at_ extra = if 2 * s.boundary ≤ at_ ∧ 0 < s.fld F.ASY_INT_CFG_LEN then s.takeAt s.boundary extra else s := by
  unfold State.takeDue
  rw [next]

theorem State.takeDue_taken (s : State) (at_ extra : Nat) : BoundaryTaken s (s.takeDue at_ extra) := by
  cases next : s.nextSwitch with
  | none =>
    rw [s.takeDue_none at_ extra next]
    split
    · exact s.takeAt_taken _ extra
    · exact .refl s
  | some d =>
    rw [s.takeDue_some at_ extra next]
    split
    · exact s.takeAt_taken _ extra
    · exact .refl s

theorem State.takeAll_taken (s : State) (at_ extra : Nat) : BoundaryTaken s (s.takeAll at_ extra) :=
  boundaryTaken_each (fun _ _ t => t.takeDue_taken at_ extra) s

theorem State.takeDue_idle {at_ : Nat} (idle : s.NothingDue at_) (extra : Nat) : s.takeDue at_ extra = s := by
  obtain ⟨switches, boundary⟩ := idle
  cases next : s.nextSwitch with
  | none =>
    rw [s.takeDue_none at_ extra next]
    exact if_neg fun due => absurd due.1 (by omega)
  | some d =>
    obtain ⟨w, listed, rfl⟩ := State.nextSwitch_some next
    have later := switches w listed
    rw [s.takeDue_some at_ extra next]
    exact if_neg fun due => absurd due.1 (by omega)

theorem State.takeDue_idle_each {at_ : Nat} (idle : s.NothingDue at_) (extra : Nat) (l : List Nat) : s.each l (fun _ u => u.takeDue at_ extra) = s := by
  induction l with
  | nil => rfl
  | cons k l ih => rw [State.each_cons, s.takeDue_idle idle extra, ih]

theorem State.takeAll_idle {at_ : Nat} (idle : s.NothingDue at_) (extra : Nat) : s.takeAll at_ extra = s := s.takeDue_idle_each idle extra _

/-- One thing is due, and nothing after it. -/
theorem State.takeAll_one {at_ : Nat} (first : s.takeDue at_ extra = t) (idle : t.NothingDue at_) : s.takeAll at_ extra = t := by
  unfold State.takeAll
  rw [List.range_succ_eq_map, State.each_cons, first]
  exact t.takeDue_idle_each idle extra _

/-! ### The grid (R245) -/

/-- The next instant after a grid instant is one length on. -/
theorem nextGrid_nextGrid (anchor len after : Nat) :
    nextGrid anchor len (nextGrid anchor len after) = nextGrid anchor len after + max len 1 * 1000000 := by
  have positive : 0 < max len 1 * 1000000 := Nat.mul_pos (by omega) (by decide)
  unfold nextGrid
  dsimp only
  generalize max len 1 * 1000000 = l at positive ⊢
  by_cases before : after < anchor
  · rw [if_pos before]
    have inside : (anchor - after - 1) / l * l ≤ anchor - after - 1 := Nat.div_mul_le_self _ l
    generalize (anchor - after - 1) / l = k at inside ⊢
    cases k with
    | zero => rw [if_neg (by omega), Nat.zero_mul, Nat.sub_zero, Nat.sub_self, Nat.zero_div, Nat.zero_add, Nat.one_mul]
    | succ k =>
      rw [Nat.succ_mul] at inside ⊢
      have back : anchor - (anchor - (k * l + l)) - 1 = l - 1 + k * l := by omega
      rw [if_pos (by omega), back, Nat.add_mul_div_right _ _ positive, Nat.div_eq_of_lt (by omega), Nat.zero_add]
      omega
  · rw [if_neg before]
    generalize (after - anchor) / l = k
    rw [if_neg (by omega), Nat.add_sub_cancel_left, Nat.mul_div_cancel _ positive, Nat.succ_mul (k + 1)]
    omega

/-- The next boundary depends on the grid alone. -/
theorem State.boundary_congr {rs : List Reg} (regs : RegsKept rs s t) (cfg : .ASY_INT_CFG ∉ rs) (low : .ASY_INT_ANCHOR_LO ∉ rs)
    (high : .ASY_INT_ANCHOR_HI ∉ rs) (from_ : t.asy.from_ = s.asy.from_) (new : t.asy.newGrid = s.asy.newGrid) : t.boundary = s.boundary := by
  unfold State.boundary
  rw [regs.fld (f := F.ASY_INT_CFG_LEN) cfg, State.pair, State.pair, regs _ _ low, regs _ _ high, from_, new]

/-! ### Switches made (R244) -/

theorem State.tariffTo_own (t : State) {old new : Nat → Nat} {n : Nat} (same : t.tariff n = old n) : (t.tariffTo old new n).tariff n = new n % 16 := by
  have small := t.fld_lt F.ASY_TARIFF_ACTIVE n
  have set : (t.setFld F.ASY_TARIFF_ACTIVE n (new n)).fld F.ASY_TARIFF_ACTIVE n = new n % 16 := t.fld_setFld_self (by decide)
  unfold State.tariffTo
  split
  · next stays =>
    rw [stays, ← same]
    exact (Nat.mod_eq_of_lt small).symm
  · exact set

theorem State.tariffTo_other (t : State) (old new : Nat → Nat) {k n : Nat} (other : n ≠ k) : (t.tariffTo old new k).tariff n = t.tariff n := by
  have set : (t.setFld F.ASY_TARIFF_ACTIVE k (new k)).fld F.ASY_TARIFF_ACTIVE n = t.fld F.ASY_TARIFF_ACTIVE n := State.fld_setFld_index _ _ _ _ other
  unfold State.tariffTo
  split
  · rfl
  · exact set

theorem State.tariffTo_each (old new : Nat → Nat) {l : List Nat} (once : l.Nodup) (t : State) (same : ∀ n ∈ l, t.tariff n = old n) (n : Nat) :
    (t.each l fun n t => t.tariffTo old new n).tariff n = if n ∈ l then new n % 16 else t.tariff n := by
  induction l generalizing t with
  | nil => rfl
  | cons k l ih =>
    obtain ⟨absent, once⟩ := List.nodup_cons.mp once
    have later (j : Nat) (listed : j ∈ l) : (t.tariffTo old new k).tariff j = old j :=
      (t.tariffTo_other old new fun e : j = k => absent (e ▸ listed)).trans (same j (List.mem_cons_of_mem k listed))
    rw [State.each_cons, ih once _ later]
    by_cases own : n = k
    · subst own
      rw [if_neg absent, if_pos (List.mem_cons_self), t.tariffTo_own (same n List.mem_cons_self)]
    · rw [t.tariffTo_other old new own]
      simp [own]

/-- The tariffs after the switches. -/
theorem State.switched_spec (t : State) (new : Nat → Nat) {old : Nat → Nat} (same : ∀ n, t.tariff n = old n) :
    (∀ n < 34, (t.switched old new).tariff n = new n % 16) ∧ (∀ n, 34 ≤ n → (t.switched old new).tariff n = old n)
    ∧ RegsKept [.ASY_TARIFF] t (t.switched old new) ∧ ∃ p, (t.switched old new).asy = { t.asy with prevT := p } := by
  have each_ := State.tariffTo_each old new (List.nodup_range (n := 34)) t fun n _ => same n
  have step (n : Nat) (v : State) : RegsKept [.ASY_TARIFF] v (v.tariffTo old new n) ∧ ∃ p, (v.tariffTo old new n).asy = { v.asy with prevT := p } := by
    have set : RegsKept [.ASY_TARIFF] v (v.setFld F.ASY_TARIFF_ACTIVE n (new n)) := by simp
    unfold State.tariffTo
    split
    · exact ⟨RegsKept.refl _ v, _, rfl⟩
    · exact ⟨set.trans (regsKept_of_regs rfl), _, rfl⟩
  have all : RegsKept [.ASY_TARIFF] t (t.each (List.range 34) fun n t => t.tariffTo old new n)
      ∧ ∃ p, (t.each (List.range 34) fun n t => t.tariffTo old new n).asy = { t.asy with prevT := p } := by
    refine State.each_induct (P := fun v => RegsKept [.ASY_TARIFF] t v ∧ ∃ p, v.asy = { t.asy with prevT := p }) ⟨RegsKept.refl _ t, _, rfl⟩ fun n _ v h => ?_
    obtain ⟨regs, p, asy⟩ := h
    obtain ⟨regs', p', asy'⟩ := step n v
    exact ⟨regs.trans regs', p', by rw [asy', asy]⟩
  unfold State.switched
  generalize t.each (List.range 34) (fun n t => t.tariffTo old new n) = u at each_ all ⊢
  obtain ⟨asy, regs, tariffs⟩ := u.showSwitches_spec
  obtain ⟨regs', p, asy'⟩ := all
  refine ⟨fun n small => ?_, fun n large => ?_, regs'.trans regs, p, asy.trans asy'⟩
  · rw [tariffs, each_, if_pos (List.mem_range.mpr small)]
  · rw [tariffs, each_, if_neg (by simpa using large), same]

/-! ### The record of a boundary (R252) -/

/-- What a written boundary touches. -/
structure BoundaryWritten (s t : State) : Prop where
  regs : RegsKept [.ASY_RSEQ_LO, .ASY_RSEQ_HI, .ASY_HMK_STAT] s t
  asy : ∃ h l q, t.asy = { s.asy with held := h, log := l, queue := q }

theorem State.commitHeld_written (s : State) : BoundaryWritten s s.commitHeld := by
  have recorded (rest : List Held_) (h : RecHead) (b : List Byte) :
      BoundaryWritten s ((s.onAsy fun a => { a with held := rest }).writeRec h b ⟨false, false⟩) := by
    have rec_ := (s.onAsy fun a => { a with held := rest }).writeRec_recorded h b ⟨false, false⟩
    obtain ⟨l, q, asy⟩ := rec_.asy
    exact ⟨(regsKept_of_regs (t := s.onAsy fun a => { a with held := rest }) rfl).trans rec_.regs, rest, l, q, asy⟩
  unfold State.commitHeld
  split
  · exact ⟨RegsKept.refl _ s, _, _, _, rfl⟩
  · dsimp only
    split
    · exact ⟨regsKept_of_regs rfl, _, _, _, rfl⟩
    · exact recorded _ _ _
    · exact recorded _ _ _

/-- One boundary held, with one part: it is written and nothing is held any more. -/
theorem State.commitHeld_one {h : Held_} {p : Nat × List Byte} (held : s.asy.held = [h]) (part : h.parts = [p]) :
    s.commitHeld.asy.held = [] ∧ RecordWritten s s.commitHeld := by
  have eq : s.commitHeld = (s.onAsy fun a => { a with held := [] }).writeRec ⟨p.1, h.flags, 0xFFFF, 0, h.at_⟩ p.2 ⟨false, false⟩ := by
    unfold State.commitHeld
    rw [held]
    dsimp only
    rw [part]
  rw [eq]
  have rec_ := (s.onAsy fun a => { a with held := [] }).writeRec_recorded ⟨p.1, h.flags, 0xFFFF, 0, h.at_⟩ p.2 ⟨false, false⟩
  obtain ⟨l, q, asy⟩ := rec_.asy
  exact ⟨by rw [asy]; rfl, rec_.written⟩

/-- One boundary taken that is wanted and does not wait is written. -/
theorem State.boundaryRecord_one {want : Held_ → Bool} {h : Held_} (taken : s.takeAll s.asy.now 0 = t) (held : t.asy.held = [h]) (wanted : want h = true)
    (first : (t.asy.ac.get 0).waiting = []) (second : (t.asy.ac.get 1).waiting = []) : s.boundaryRecord want = t.commitHeld := by
  unfold State.boundaryRecord State.boundaryPassed
  rw [taken]
  dsimp only
  rw [held]
  dsimp only
  rw [wanted]
  simp [first, second]

/-! ### The grid after a boundary (R245) -/

theorem Grid.close_open {g : Grid} (none_ : g.newGrid = none) (d : Nat) : g.close d false = ⟨d, none, none, g.len, g.anchor⟩ := by
  obtain ⟨from_, merged, new, len, anchor⟩ := g
  cases none_
  rfl

theorem State.setGrid_spec (t : State) (g : Grid) : (t.setGrid g).fld F.ASY_INT_CFG_LEN = g.len % 2 ^ F.ASY_INT_CFG_LEN.width
    ∧ (t.setGrid g).pair .ASY_INT_ANCHOR_LO .ASY_INT_ANCHOR_HI = g.anchor % 2 ^ 64
    ∧ (t.setGrid g).asy = { t.asy with from_ := g.from_, merged := g.merged, newGrid := g.newGrid }
    ∧ RegsKept [.ASY_INT_CFG, .ASY_INT_ANCHOR_LO, .ASY_INT_ANCHOR_HI] t (t.setGrid g) := by
  have len : ((t.setFld F.ASY_INT_CFG_LEN 0 g.len).setPair .ASY_INT_ANCHOR_LO .ASY_INT_ANCHOR_HI 0 g.anchor).fld F.ASY_INT_CFG_LEN
        = g.len % 2 ^ F.ASY_INT_CFG_LEN.width
      ∧ RegsKept [.ASY_INT_CFG, .ASY_INT_ANCHOR_LO, .ASY_INT_ANCHOR_HI] t
          ((t.setFld F.ASY_INT_CFG_LEN 0 g.len).setPair .ASY_INT_ANCHOR_LO .ASY_INT_ANCHOR_HI 0 g.anchor) := by simp
  have anchor := (t.setFld F.ASY_INT_CFG_LEN 0 g.len).pair_setPair_same (lo := .ASY_INT_ANCHOR_LO) (hi := .ASY_INT_ANCHOR_HI) (i := 0) (n := g.anchor)
    (by decide)
  exact ⟨len.1, anchor, rfl, len.2.trans (regsKept_of_regs (t := t.setGrid g) rfl)⟩

theorem State.intervalFrom_each (t : State) (acc : Nat → Rat × Rat) (l : List Nat) :
    (t.each l fun n t => t.intervalFrom acc n).regs = t.regs
    ∧ (∃ m c, (t.each l fun n t => t.intervalFrom acc n).asy = { t.asy with meters := m, fromAcc := c })
    ∧ ∀ n ∈ l, (t.each l fun n t => t.intervalFrom acc n).asy.fromAcc.get n = acc n := by
  have step (n : Nat) (v : State) : ∃ m c, (v.intervalFrom acc n).asy = { v.asy with meters := m, fromAcc := c } := ⟨_, _, rfl⟩
  refine ⟨State.each_congr State.regs fun _ _ _ => rfl, ?_, fun n listed => ?_⟩
  · refine State.each_induct (P := fun v => ∃ m c, v.asy = { t.asy with meters := m, fromAcc := c }) ⟨_, _, rfl⟩ fun n _ v h => ?_
    obtain ⟨m, c, asy⟩ := h
    obtain ⟨m', c', asy'⟩ := step n v
    exact ⟨m', c', by rw [asy', asy]⟩
  · refine State.each_at (g := fun v => v.asy.fromAcc.get n) listed (fun v => ?_) fun j other v => ?_
    · exact Arr.get_set_same _ _ _
    · exact Arr.get_set_ne _ (Ne.symm other) _

/-! ### A switch, and an interval's end -/

section Due

variable (up : s.runs 5 = true) (run_ : s.flag F.ASY_STAT_RUN = true) (grid : 0 < s.fld F.ASY_INT_CFG_LEN) (empty : s.asy.held = [])
  (first : (s.asy.ac.get 0).waiting = []) (second : (s.asy.ac.get 1).waiting = []) (due : 2 * d ≤ s.asy.now)

include up run_ grid empty first second due

theorem switchMade (next : s.nextSwitch = some d) (before : s.asy.now < 2 * s.boundary)
    (others : ∀ w ∈ s.asy.switches, w.at_ ≠ d → s.asy.now < 2 * w.at_) :
    ∃ t, exec .tariffSwitch s = .next t ∧ t.asy.held = [] ∧ RecordWritten s t ∧ (∀ n < 34, t.tariff n = s.tariffAt d n % 16)
      ∧ (∀ n, 34 ≤ n → t.tariff n = s.tariff n) ∧ t.asy.switches = s.asy.switches.filter fun w => decide (w.at_ ≠ d) := by
  have open_ : decide (s.boundary = d) = false := decide_eq_false (by omega)
  obtain ⟨w, listed, named⟩ := State.nextSwitch_some next
  have switches : (s.heldAt d 0).switches = true :=
    decide_eq_true (List.ne_nil_of_mem (List.mem_filter.mpr ⟨listed, decide_eq_true named⟩))
  have closes : (s.heldAt d 0).closes = none := by
    unfold State.heldAt
    rw [open_]
    rfl
  have part : (s.heldAt d 0).parts = [(4, (s.heldAt d 0).switchBody)] := by
    unfold Held_.parts
    rw [closes, switches]
    rfl
  have heldNow : (s.heldTaken d 0).asy.held = [s.heldAt d 0] := by
    change (if _ then s.asy.held ++ [s.heldAt d 0] else s.asy.held) = _
    rw [closes, switches, empty]
    rfl
  have regs0 : RegsKept [.ASY_TARIFF] s (s.heldTaken d 0) := regsKept_of_regs rfl
  have asy0 : ∃ h, (s.heldTaken d 0).asy = { s.asy with held := h, switches := s.asy.switches.filter fun w => decide (w.at_ ≠ d) } := ⟨_, rfl⟩
  have at_ : s.takeAt d 0 = (s.heldTaken d 0).switched s.tariff (s.tariffAt d) := by
    rw [s.takeAt_eq, open_]
    rfl
  have same (n : Nat) : (s.heldTaken d 0).tariff n = s.tariff n := rfl
  obtain ⟨listedTariffs, otherTariffs, regs, p, asy⟩ := (s.heldTaken d 0).switched_spec (s.tariffAt d) same
  rw [← at_] at listedTariffs otherTariffs regs asy
  have firstTake : s.takeDue s.asy.now 0 = s.takeAt d 0 := by
    rw [s.takeDue_some _ _ next, Nat.min_eq_left (by omega)]
    exact if_pos ⟨due, grid⟩
  generalize s.takeAt d 0 = v at listedTariffs otherTariffs regs asy firstTake
  generalize s.heldTaken d 0 = u at heldNow regs0 asy0 regs asy
  obtain ⟨h, asy0⟩ := asy0
  have regsAll := regs0.trans regs
  have boundary : v.boundary = s.boundary :=
    State.boundary_congr regsAll (by decide) (by decide) (by decide) (by rw [asy, asy0]) (by rw [asy, asy0])
  have switchesAfter : v.asy.switches = s.asy.switches.filter fun w => decide (w.at_ ≠ d) := by rw [asy, asy0]
  have heldAfter : v.asy.held = [s.heldAt d 0] := by rw [asy]; exact heldNow
  have idle : v.NothingDue s.asy.now := by
    refine ⟨fun w inside => ?_, by omega⟩
    rw [switchesAfter] at inside
    obtain ⟨listed, apart⟩ := List.mem_filter.mp inside
    exact others w listed (of_decide_eq_true apart)
  have run : exec .tariffSwitch s = .next v.commitHeld := by
    refine congrArg Host.Outcome.next ((State.live_runs up).trans ((if_pos run_).trans ?_))
    exact State.boundaryRecord_one (State.takeAll_one firstTake idle) heldAfter switches (by rw [asy, asy0]; exact first) (by rw [asy, asy0]; exact second)
  obtain ⟨gone, written⟩ := State.commitHeld_one heldAfter part
  obtain ⟨kept, h', l, q, asy'⟩ := v.commitHeld_written
  refine ⟨_, run, gone, written.of regsAll (by decide) (by decide), fun n small => ?_, fun n large => ?_, by rw [asy']; exact switchesAfter⟩
  · exact (kept.fld (by decide) n).trans (listedTariffs n small)
  · exact (kept.fld (by decide) n).trans (otherTariffs n large)

theorem intervalClosed (boundary : s.boundary = d) (grid' : s.asy.newGrid = none) (near : s.asy.now < 2 * d + 2000000)
    (none_ : ∀ w ∈ s.asy.switches, s.asy.now < 2 * w.at_) (room : s.asy.queue.length < 64) :
    ∃ t, exec .intervalClose s = .next t ∧ t.asy.held = [] ∧ RecordWritten s t ∧ t.asy.from_ = d
      ∧ (∀ n ∈ s.ptsOn, t.asy.fromAcc.get n = (s.meterAcc n 0, s.meterAcc n 1)) ∧ ∀ n, t.tariff n = s.tariff n := by
  have open_ : decide (s.boundary = d) = true := decide_eq_true boundary
  have full : decide (64 ≤ s.asy.queue.length) = false := decide_eq_false (by omega)
  have noneDue : (s.asy.switches.filter fun w => decide (w.at_ = d)) = [] :=
    List.filter_eq_nil_iff.mpr fun w listed => by
      have later := none_ w listed
      rw [decide_eq_true_eq]
      omega
  have switches : (s.heldAt d 0).switches = false := by
    unfold State.heldAt
    rw [noneDue]
    rfl
  have closes : ∃ st, (s.heldAt d 0).closes = some st := by
    unfold State.heldAt
    rw [open_, full]
    exact ⟨_, rfl⟩
  obtain ⟨st, closes⟩ := closes
  have part : (s.heldAt d 0).parts = [(3, (s.heldAt d 0).intervalBody st)] := by
    unfold Held_.parts
    rw [closes, switches]
    rfl
  have tariffs (n : Nat) : s.tariffAt d n = s.tariff n := by
    have none' : (s.asy.switches.filter fun w => decide (w.at_ = d) && w.mask.testBit n) = [] :=
      List.filter_eq_nil_iff.mpr fun w listed both => by
        have later := none_ w listed
        have same := of_decide_eq_true (Bool.and_eq_true_iff.mp both).1
        omega
    unfold State.tariffAt
    rw [none']
    rfl
  have heldNow : (s.heldTaken d 0).asy.held = [s.heldAt d 0] := by
    change (if _ then s.asy.held ++ [s.heldAt d 0] else s.asy.held) = _
    rw [closes, empty]
    rfl
  have kept0 : (s.asy.switches.filter fun w => decide (w.at_ ≠ d)) = s.asy.switches :=
    List.filter_eq_self.mpr fun w listed => by
      have later := none_ w listed
      rw [decide_eq_true_eq]
      omega
  have regs0 : RegsKept [.ASY_TARIFF] s (s.heldTaken d 0) := regsKept_of_regs rfl
  have asy0 : ∃ h, (s.heldTaken d 0).asy = { s.asy with held := h } := ⟨_, by rw [State.heldTaken, State.onAsy, kept0]⟩
  have same (n : Nat) : (s.heldTaken d 0).tariff n = s.tariff n := rfl
  have firstTake : s.takeDue s.asy.now 0 = s.takeAt d 0 := by
    cases next : s.nextSwitch with
    | none =>
      rw [s.takeDue_none _ _ next, boundary]
      exact if_pos ⟨due, grid⟩
    | some k =>
      obtain ⟨w, listed, named⟩ := State.nextSwitch_some next
      have later := none_ w listed
      rw [s.takeDue_some _ _ next, boundary, Nat.min_eq_right (by omega)]
      exact if_pos ⟨due, grid⟩
  have at_ : s.takeAt d 0 = (((s.heldTaken d 0).switched s.tariff (s.tariffAt d)).setGrid (s.grid.close d false)).each s.ptsOn fun n t =>
      t.intervalFrom (fun n => (s.meterAcc n 0, s.meterAcc n 1)) n := by
    rw [s.takeAt_eq, open_, full]
    rfl
  obtain ⟨listedTariffs, otherTariffs, regs, p, asy⟩ := (s.heldTaken d 0).switched_spec (s.tariffAt d) same
  rw [Grid.close_open grid'] at at_
  generalize (s.heldTaken d 0).switched s.tariff (s.tariffAt d) = v at at_ listedTariffs otherTariffs regs asy
  generalize s.heldTaken d 0 = u at heldNow regs0 asy0 regs asy
  obtain ⟨h, asy0⟩ := asy0
  have regsV := regs0.trans regs
  obtain ⟨len, anchor, asyG, regsG⟩ := v.setGrid_spec ⟨d, none, none, s.grid.len, s.grid.anchor⟩
  generalize v.setGrid ⟨d, none, none, s.grid.len, s.grid.anchor⟩ = g at at_ len anchor asyG regsG
  obtain ⟨cells, ⟨m, c, asyE⟩, accs⟩ := g.intervalFrom_each (fun n => (s.meterAcc n 0, s.meterAcc n 1)) s.ptsOn
  rw [← at_] at cells asyE accs
  generalize s.takeAt d 0 = w at firstTake cells asyE accs
  have regsAll : RegsKept [.ASY_TARIFF, .ASY_INT_CFG, .ASY_INT_ANCHOR_LO, .ASY_INT_ANCHOR_HI] s w :=
    (regsV.mono (by simp)).trans ((regsG.mono (by simp)).trans (regsKept_of_regs cells))
  have asyAll : ∃ p, w.asy = { s.asy with held := [s.heldAt d 0], prevT := p, from_ := d, merged := none, newGrid := none, meters := m, fromAcc := c } := by
    refine ⟨p, ?_⟩
    have held : v.asy.held = [s.heldAt d 0] := by rw [asy]; exact heldNow
    rw [asyE, asyG, ← held, asy, asy0]
  have tariffsAll (n : Nat) : w.tariff n = s.tariff n := by
    refine ((regsG.trans (regsKept_of_regs cells)).fld (f := F.ASY_TARIFF_ACTIVE) (by decide) n).trans ?_
    by_cases small : n < 34
    · refine (listedTariffs n small).trans ?_
      rw [tariffs]
      exact Nat.mod_eq_of_lt (s.fld_lt F.ASY_TARIFF_ACTIVE n)
    · exact otherTariffs n (by omega)
  obtain ⟨p', asyAll⟩ := asyAll
  have boundaryAfter : w.boundary = nextGrid s.grid.anchor s.grid.len d := by
    have len' : w.fld F.ASY_INT_CFG_LEN = s.grid.len := by
      rw [(regsKept_of_regs (rs := []) cells).fld (by simp) 0, len]
      exact Nat.mod_eq_of_lt (s.fld_lt F.ASY_INT_CFG_LEN 0)
    have anchor' : w.pair .ASY_INT_ANCHOR_LO .ASY_INT_ANCHOR_HI = s.grid.anchor := by
      have small : s.grid.anchor < 2 ^ 64 := by
        change s.pair _ _ < _
        unfold State.pair
        omega
      rw [State.pair, State.reg, State.reg, cells, ← State.reg, ← State.reg, ← State.pair, anchor]
      exact Nat.mod_eq_of_lt small
    unfold State.boundary
    rw [len', anchor', asyAll]
  have before : s.boundary = nextGrid s.grid.anchor s.grid.len s.asy.from_ := by
    unfold State.boundary
    rw [grid']
    rfl
  have later : 2 * d + 2000000 ≤ 2 * w.boundary := by
    rw [boundaryAfter, ← boundary, before, nextGrid_nextGrid]
    omega
  have idle : w.NothingDue s.asy.now := by
    refine ⟨fun x inside => none_ x ?_, by omega⟩
    rwa [asyAll] at inside
  have heldAfter : w.asy.held = [s.heldAt d 0] := by rw [asyAll]
  have run : exec .intervalClose s = .next w.commitHeld := by
    refine congrArg Host.Outcome.next ((State.live_runs up).trans ((if_pos run_).trans ?_))
    exact State.boundaryRecord_one (State.takeAll_one firstTake idle) heldAfter (by rw [closes]; rfl) (by rw [asyAll]; exact first) (by rw [asyAll]; exact second)
  obtain ⟨gone, written⟩ := State.commitHeld_one heldAfter part
  obtain ⟨kept, h', l, q, asy'⟩ := w.commitHeld_written
  refine ⟨_, run, gone, written.of regsAll (by decide) (by decide), by rw [asy', asyAll], fun n on => ?_, fun n => ?_⟩
  · rw [asy']
    exact accs n on
  · exact (kept.fld (by decide) n).trans (tariffsAll n)

end Due

end Sys2Proof.Machine
end

section
/-! SUPPORT. The contactor, the installation of a legal image and the start of Assay, and the statement on them. -/

namespace Sys2Proof.Machine

open Sys2Proof

variable {s t u : State} {o : Nat}

/-! ### The contactor's feedback (R254) -/

theorem State.goodRat_congr (jny : t.jny = s.jny) (pnt : t.pnt = s.pnt) (p : Nat) : t.goodRat p = s.goodRat p := by
  have schema : t.schema p = s.schema p := by rw [State.schema, State.schema, jny]
  have point : t.point p = s.point p := by rw [State.point, State.point, pnt]
  unfold State.goodRat State.pointGood State.pointDy State.pointType
  rw [schema, point]

theorem State.discShows_congr (jny : t.jny = s.jny) (pnt : t.pnt = s.pnt) (fb : (t.asy.disc.get o).fbPt = (s.asy.disc.get o).fbPt) :
    t.discShows o = s.discShows o := by
  unfold State.discShows
  rw [fb]
  split
  · rw [State.goodRat_congr jny pnt]
  · rfl

theorem Recorded.discShows (h : Recorded s t) (o : Nat) : t.discShows o = s.discShows o := by
  obtain ⟨-, -, l, q, same⟩ := h
  exact State.discShows_congr (by rw [same]) (by rw [same]) (by rw [same])

/-- What the opening of a contactor leaves. -/
theorem State.discOpen_spec (s : State) (o event : Nat) : (s.discOpen o event).fld F.ASY_PREPAY_STAT_DISC o = 3
    ∧ ((s.discOpen o event).asy.disc.get o).asked = none ∧ ((s.discOpen o event).asy.disc.get o).cmdAt = s.asy.now
    ∧ RecordWritten s (s.discOpen o event) := by
  obtain ⟨regs, asy⟩ := s.discWrite_kept o 0
  unfold State.discOpen
  generalize s.discWrite o 0 = u at regs asy ⊢
  have set : (u.setFld F.ASY_PREPAY_STAT_DISC o 3).fld F.ASY_PREPAY_STAT_DISC o = 3
      ∧ RegsKept [.ASY_PREPAY_STAT] u (u.setFld F.ASY_PREPAY_STAT_DISC o 3) := by simp [Fld.width]
  obtain ⟨opening, kept⟩ := set
  have disc : ((u.setFld F.ASY_PREPAY_STAT_DISC o 3).onDisc o fun d => { d with asked := none, cmdAt := s.asy.now }).asy.disc.get o
      = { u.asy.disc.get o with asked := none, cmdAt := s.asy.now } := Arr.get_upd_same _ _ _
  have opening' : ((u.setFld F.ASY_PREPAY_STAT_DISC o 3).onDisc o fun d => { d with asked := none, cmdAt := s.asy.now }).fld F.ASY_PREPAY_STAT_DISC o = 3 :=
    opening
  have kept' : RegsKept [.ASY_PREPAY_STAT] u ((u.setFld F.ASY_PREPAY_STAT_DISC o 3).onDisc o fun d => { d with asked := none, cmdAt := s.asy.now }) :=
    kept.trans (regsKept_of_regs rfl)
  generalize (u.setFld F.ASY_PREPAY_STAT_DISC o 3).onDisc o (fun d => { d with asked := none, cmdAt := s.asy.now }) = v at disc opening' kept' ⊢
  have recorded := v.discRecord_recorded o event
  obtain ⟨l, q, asy'⟩ := recorded.asy
  refine ⟨(recorded.regs.fld (by decide) o).trans opening', ?_, ?_, ?_⟩
  · rw [asy']
    change (v.asy.disc.get o).asked = none
    rw [disc]
  · rw [asy']
    change (v.asy.disc.get o).cmdAt = _
    rw [disc]
  · exact (recorded.written.of kept' (by decide) (by decide)).of regs (by decide) (by decide)

/-- A fault of the contactor, and the state that its feedback shows. -/
theorem State.discFault_spec (s : State) (o event : Nat) :
    let t := (s.discFault o event).discTake o
    t.flag F.ASY_PREPAY_STAT_FAULT o = true ∧ t.flag F.ASY_PREPAY_STAT_EXHAUSTED o = true ∧ RecordWritten s t
      ∧ t.reports = s.reports ++ [⟨0x0B26, o⟩]
      ∧ (s.discShows o = none → t.fld F.ASY_PREPAY_STAT_DISC o = s.fld F.ASY_PREPAY_STAT_DISC o)
      ∧ ∀ b, s.discShows o = some b → t.fld F.ASY_PREPAY_STAT_DISC o = if b then 2 else 0 := by
  have recorded := s.discRecord_recorded o event
  have shows_ := recorded.discShows o
  have fault : s.discFault o event = (((s.discRecord o event).setFld F.ASY_PREPAY_STAT_FAULT o 1).setFld F.ASY_PREPAY_STAT_EXHAUSTED o 1).report 0x0B26 o := rfl
  dsimp only
  rw [fault]
  generalize s.discRecord o event = u at recorded shows_
  have set (w : State) : let v := ((w.setFld F.ASY_PREPAY_STAT_FAULT o 1).setFld F.ASY_PREPAY_STAT_EXHAUSTED o 1).report 0x0B26 o
      v.flag F.ASY_PREPAY_STAT_FAULT o = true ∧ v.flag F.ASY_PREPAY_STAT_EXHAUSTED o = true
        ∧ v.fld F.ASY_PREPAY_STAT_DISC o = w.fld F.ASY_PREPAY_STAT_DISC o ∧ RegsKept [.ASY_PREPAY_STAT] w v := by
    simp [Fld.width]
  obtain ⟨bad, exhausted, disc, regs⟩ := set u
  have shows' : (((u.setFld F.ASY_PREPAY_STAT_FAULT o 1).setFld F.ASY_PREPAY_STAT_EXHAUSTED o 1).report 0x0B26 o).discShows o = s.discShows o :=
    (State.discShows_congr rfl rfl rfl).trans shows_
  have reports : (((u.setFld F.ASY_PREPAY_STAT_FAULT o 1).setFld F.ASY_PREPAY_STAT_EXHAUSTED o 1).report 0x0B26 o).reports = u.reports ++ [⟨0x0B26, o⟩] := rfl
  generalize ((u.setFld F.ASY_PREPAY_STAT_FAULT o 1).setFld F.ASY_PREPAY_STAT_EXHAUSTED o 1).report 0x0B26 o = v at bad exhausted disc regs shows' reports ⊢
  have written : RecordWritten s v := recorded.written.kept regs (by decide) (by decide)
  have before : u.fld F.ASY_PREPAY_STAT_DISC o = s.fld F.ASY_PREPAY_STAT_DISC o := recorded.regs.fld (by decide) o
  rw [recorded.reports] at reports
  cases found : s.discShows o with
  | none =>
    have stays : v.discTake o = v := by
      unfold State.discTake
      rw [shows', found]
    rw [stays]
    exact ⟨bad, exhausted, written, reports, fun _ => disc.trans before, fun b some_ => nomatch some_⟩
  | some b =>
    have takes : v.discTake o = v.setFld F.ASY_PREPAY_STAT_DISC o (if b then 2 else 0) := by
      unfold State.discTake
      rw [shows', found]
    have taken (n : Nat) : (v.setFld F.ASY_PREPAY_STAT_DISC o n).flag F.ASY_PREPAY_STAT_FAULT o = v.flag F.ASY_PREPAY_STAT_FAULT o
        ∧ (v.setFld F.ASY_PREPAY_STAT_DISC o n).flag F.ASY_PREPAY_STAT_EXHAUSTED o = v.flag F.ASY_PREPAY_STAT_EXHAUSTED o
        ∧ RegsKept [.ASY_PREPAY_STAT] v (v.setFld F.ASY_PREPAY_STAT_DISC o n)
        ∧ (v.setFld F.ASY_PREPAY_STAT_DISC o n).fld F.ASY_PREPAY_STAT_DISC o = n % 4 := by simp [Fld.width]
    obtain ⟨fault', exhausted', regs', disc'⟩ := taken (if b then 2 else 0)
    rw [takes]
    refine ⟨fault'.trans bad, exhausted'.trans exhausted, written.kept regs' (by decide) (by decide), reports, (fun none_ => nomatch none_), fun c same => ?_⟩
    cases same
    rw [disc']
    cases b <;> rfl

theorem contactorOpens (up : s.runs 5 = true) {c : Instr}
    (case_ : (c = .disconnectOpen o ∧ (s.asy.disc.get o).asked.isSome = true ∧ 160 ≤ (s.asy.disc.get o).still)
      ∨ (c = .discWaitExpiry o ∧ ∃ h, (s.asy.disc.get o).asked = some h ∧ h + 20000 * (s.asy.disc.get o).wait ≤ s.asy.now)) :
    ∃ t, exec c s = .next t ∧ t.fld F.ASY_PREPAY_STAT_DISC o = 3 ∧ (t.asy.disc.get o).asked = none ∧ (t.asy.disc.get o).cmdAt = s.asy.now
      ∧ RecordWritten s t ∧ (c = .discWaitExpiry o → (⟨0x0BA6, o⟩ : Report) ∈ t.reports.drop s.reports.length) := by
  rcases case_ with ⟨rfl, asked, still⟩ | ⟨rfl, h, asked, waited⟩
  · have run : exec (.disconnectOpen o) s = .next (s.discOpen o 1) := congrArg Host.Outcome.next ((State.live_runs up).trans (if_pos ⟨asked, still⟩))
    obtain ⟨opening, none_, at_, written⟩ := s.discOpen_spec o 1
    exact ⟨_, run, opening, none_, at_, written, fun other => nomatch other⟩
  · have run : exec (.discWaitExpiry o) s = .next ((s.discOpen o 2).report 0x0BA6 o) := by
      refine congrArg Host.Outcome.next ((State.live_runs up).trans ?_)
      dsimp only
      rw [asked]
      exact if_pos waited
    obtain ⟨opening, none_, at_, written⟩ := s.discOpen_spec o 2
    refine ⟨_, run, opening, none_, at_, written, fun _ => ?_⟩
    exact mem_drop_report (s.discOpen_keeps o 2) _ _

theorem contactorFaults (up : s.runs 5 = true) {c : Instr}
    (case_ : (c = .disconnectFeedbackTimeout o ∧ (s.asy.disc.get o).fbPt.isSome = true ∧ (s.asy.disc.get o).blind = false
      ∧ ((s.asy.disc.get o).cmdAt + 2000 * (s.asy.disc.get o).tDisc ≤ s.asy.now
          ∧ ((s.fld F.ASY_PREPAY_STAT_DISC o = 1 ∧ s.discShows o ≠ some true) ∨ (s.fld F.ASY_PREPAY_STAT_DISC o = 3 ∧ s.discShows o ≠ some false))
        ∨ (s.fld F.ASY_PREPAY_STAT_DISC o = 0 ∨ s.fld F.ASY_PREPAY_STAT_DISC o = 2) ∧ s.discShows o = none))
      ∨ (c = .disconnectDropout o ∧ ((s.fld F.ASY_PREPAY_STAT_DISC o = 2 ∧ s.discShows o = some false)
        ∨ (s.fld F.ASY_PREPAY_STAT_DISC o = 0 ∧ s.discShows o = some true)))) :
    ∃ v event, exec c s = .next ((State.discFault v o event).discTake o) ∧ v.regs = s.regs ∧ v.reports = s.reports ∧ v.discShows o = s.discShows o := by
  rcases case_ with ⟨rfl, fb, seen, bad⟩ | ⟨rfl, changed⟩
  · have blindEq : s.discBlind o = (s.discShows o).isNone := by rw [State.discBlind, fb, Bool.true_and]
    have fbSame (b : Bool) : (s.onDisc o fun d => { d with blind := b }).discShows o = s.discShows o := by
      refine State.discShows_congr rfl rfl ?_
      have at_ : (s.onDisc o fun d => { d with blind := b }).asy.disc.get o = { s.asy.disc.get o with blind := b } := Arr.get_upd_same _ _ _
      rw [at_]
    have judged (hit : ((s.asy.disc.get o).fbPt.isSome && (if decide (s.fld F.ASY_PREPAY_STAT_DISC o = 1 ∨ s.fld F.ASY_PREPAY_STAT_DISC o = 3) then
          decide ((s.asy.disc.get o).cmdAt + 2000 * (s.asy.disc.get o).tDisc ≤ s.asy.now)
            && decide (s.discShows o ≠ some (decide (s.fld F.ASY_PREPAY_STAT_DISC o = 1))) else s.discBlind o)) = true) :
        ∃ b, exec (.disconnectFeedbackTimeout o) s = .next (((s.onDisc o fun d => { d with blind := b }).discFault o 3).discTake o) := by
      refine ⟨_, congrArg Host.Outcome.next ((State.live_runs up).trans (if_pos ?_))⟩
      rw [hit, seen, Bool.and_false]
      rfl
    obtain ⟨b, run⟩ := judged (by
      rw [fb, Bool.true_and]
      rcases bad with ⟨late, ⟨closing, hidden⟩ | ⟨opening, hidden⟩⟩ | ⟨still, blind⟩
      · simp [closing, late, hidden]
      · simp [opening, late, hidden]
      · have rest : ¬ (s.fld F.ASY_PREPAY_STAT_DISC o = 1 ∨ s.fld F.ASY_PREPAY_STAT_DISC o = 3) := by omega
        rw [if_neg (by simpa using rest), blindEq, blind]
        rfl)
    exact ⟨_, 3, run, rfl, rfl, fbSame b⟩
  · exact ⟨s, 4, congrArg Host.Outcome.next ((State.live_runs up).trans (if_pos changed)), rfl, rfl, rfl⟩

/-! ### The installation of a legal image (R256) -/

/-- A held boundary undone, and all of them: what of the register file that touches. -/
theorem Held_.undo_regs (h : Held_) (s : State) : RegsKept [.ASY_INT_CFG, .ASY_INT_ANCHOR_LO, .ASY_INT_ANCHOR_HI, .ASY_TARIFF] s (h.undo s) := by
  have points (l : List HeldPt) (t : State) (start : RegsKept [.ASY_INT_CFG, .ASY_INT_ANCHOR_LO, .ASY_INT_ANCHOR_HI, .ASY_TARIFF] s t) :
      RegsKept [.ASY_INT_CFG, .ASY_INT_ANCHOR_LO, .ASY_INT_ANCHOR_HI, .ASY_TARIFF] s
        (l.foldl (fun t p => (t.setFld F.ASY_TARIFF_ACTIVE p.pt p.old).onAsy fun a => { a with fromAcc := a.fromAcc.set p.pt p.from_ }) t) := by
    induction l generalizing t with
    | nil => exact start
    | cons p l ih =>
      have set : RegsKept [.ASY_TARIFF] t (t.setFld F.ASY_TARIFF_ACTIVE p.pt p.old) := by simp
      exact ih _ (start.trans ((set.mono (by simp)).trans (regsKept_of_regs rfl)))
  obtain ⟨-, -, -, grid⟩ := (s.onAsy fun a => { a with switches := a.switches ++ h.taken }).setGrid_spec h.was
  exact points h.pts _ (RegsKept.trans (regsKept_of_regs rfl) (grid.mono (by simp)))

theorem Held_.undo_asy (h : Held_) (s : State) : ∃ w f m g c, (h.undo s).asy = { s.asy with switches := w, from_ := f, merged := m, newGrid := g, fromAcc := c } := by
  have points (l : List HeldPt) (t : State) (start : ∃ w f m g c, t.asy = { s.asy with switches := w, from_ := f, merged := m, newGrid := g, fromAcc := c }) :
      ∃ w f m g c, (l.foldl (fun t p => (t.setFld F.ASY_TARIFF_ACTIVE p.pt p.old).onAsy fun a => { a with fromAcc := a.fromAcc.set p.pt p.from_ }) t).asy
        = { s.asy with switches := w, from_ := f, merged := m, newGrid := g, fromAcc := c } := by
    induction l generalizing t with
    | nil => exact start
    | cons p l ih =>
      obtain ⟨w, f, m, g, c, asy⟩ := start
      exact ih _ ⟨w, f, m, g, t.asy.fromAcc.set p.pt p.from_, congrArg (fun a : Asy => { a with fromAcc := t.asy.fromAcc.set p.pt p.from_ }) asy⟩
  exact points h.pts _ ⟨_, _, _, _, _, rfl⟩

theorem State.undoHeld_spec (s : State) : RegsKept [.ASY_INT_CFG, .ASY_INT_ANCHOR_LO, .ASY_INT_ANCHOR_HI, .ASY_TARIFF] s s.undoHeld
    ∧ s.undoHeld.asy.legal = s.asy.legal ∧ s.undoHeld.asy.firm = s.asy.firm := by
  have undone (l : List Held_) (t : State) : RegsKept [.ASY_INT_CFG, .ASY_INT_ANCHOR_LO, .ASY_INT_ANCHOR_HI, .ASY_TARIFF] t (l.foldr Held_.undo t)
      ∧ (l.foldr Held_.undo t).asy.legal = t.asy.legal ∧ (l.foldr Held_.undo t).asy.firm = t.asy.firm := by
    induction l with
    | nil => exact ⟨RegsKept.refl _ t, rfl, rfl⟩
    | cons h l ih =>
      obtain ⟨regs, legal, firm⟩ := ih
      rw [List.foldr_cons]
      generalize l.foldr Held_.undo t = v at regs legal firm ⊢
      obtain ⟨_, _, _, _, _, asy⟩ := h.undo_asy v
      exact ⟨regs.trans (h.undo_regs v), by rw [asy]; exact legal, by rw [asy]; exact firm⟩
  obtain ⟨regs, legal, firm⟩ := undone s.asy.held (s.onAsy fun a => { a with held := [] })
  unfold State.undoHeld
  generalize s.asy.held.foldr Held_.undo (s.onAsy fun a => { a with held := [] }) = v at regs legal firm ⊢
  obtain ⟨asy, regs', -⟩ := v.showSwitches_spec
  refine ⟨?_, by rw [asy]; exact legal, by rw [asy]; exact firm⟩
  exact (regsKept_of_regs (t := s.onAsy fun a => { a with held := [] }) rfl).trans (regs.trans (regs'.mono (by simp)))

/-- Assay's state after a reset of the island. -/
def State.asyReset (s : State) (restart : Bool) (a : Asy) : Asy := { a with
  metered := false, meters := (List.range 34).foldl (fun m n => m.set n (Meter.afterReset (s.asy.meters.get n))) ⟨Meter.init, []⟩
  ac := ⟨AcPoint.init, []⟩, integ := ⟨(0, 0), []⟩, last := ⟨0, []⟩
  cross := ⟨0, none, 0, 0, 0, 0⟩, tpos := ⟨⟨0, false, none, 0⟩, []⟩, wall := none, driftOk := 0, driftDone := none
  stopped := false, restart := restart
  nonlegal := match a.staged with | some x => x | none => a.nonlegal
  staged := none }

theorem State.asyReset_legal (s : State) (restart : Bool) (a : Asy) : (s.asyReset restart a).metered = false ∧ (s.asyReset restart a).legal = a.legal
    ∧ (s.asyReset restart a).firm = a.firm := ⟨rfl, rfl, rfl⟩

theorem State.assayReset_eq (s : State) (restart : Bool) :
    s.assayReset restart = (s.keepingSeal (s.undoHeld.dropRegs [.assay])).onAsy (s.asyReset restart) := rfl

/-- A reset of island 5: what it leaves of the register file and of the legal part. -/
theorem State.assayReset_spec (s : State) (restart : Bool) :
    (s.assayReset restart).flag F.ASY_STAT_RUN = false ∧ (s.assayReset restart).asy.metered = false
    ∧ (s.assayReset restart).asy.legal = s.asy.legal ∧ (s.assayReset restart).asy.firm = s.asy.firm
    ∧ ∀ r i, r ∉ [.ASY_INT_CFG, .ASY_INT_ANCHOR_LO, .ASY_INT_ANCHOR_HI, .ASY_TARIFF] → r.dom ≠ .assay → (s.assayReset restart).reg r i = s.reg r i := by
  obtain ⟨regs, legal, firm⟩ := s.undoHeld_spec
  rw [s.assayReset_eq restart]
  generalize s.undoHeld = u at regs legal firm ⊢
  have sealed : RegsKept [.ASY_CHK] (u.dropRegs [.assay]) (s.keepingSeal (u.dropRegs [.assay])) := by simp [State.keepingSeal]
  have asy : (s.keepingSeal (u.dropRegs [.assay])).asy = u.asy := by
    rw [State.keepingSeal, State.setFld_asy, State.dropRegs_asy]
  generalize s.keepingSeal (u.dropRegs [.assay]) = v at sealed asy ⊢
  obtain ⟨metered, legal', firm'⟩ := s.asyReset_legal restart v.asy
  rw [asy] at legal' firm'
  have kept : RegsKept [.ASY_CHK] (u.dropRegs [.assay]) (v.onAsy (s.asyReset restart)) := sealed.trans (regsKept_of_regs rfl)
  have result : (v.onAsy (s.asyReset restart)).asy = s.asyReset restart v.asy := rfl
  generalize v.onAsy (s.asyReset restart) = w at kept result ⊢
  rw [result, asy]
  rw [asy] at metered
  refine ⟨?_, metered, legal'.trans legal, firm'.trans firm, fun r i outside dom => ?_⟩
  · rw [kept.flag (by decide) 0, State.flag, State.fld, State.reg_dropRegs]
    rfl
  · have apart : r ∉ [Reg.ASY_CHK] := fun listed => dom (by rw [List.mem_singleton.mp listed]; rfl)
    rw [kept r i apart, u.reg_dropRegs_kept (by simpa using dom) i, regs r i outside]

theorem legalInstalled (up : s.runs 5 = true) {im : List Byte} (staged : s.asy.legal = some im) (shut : s.flag F.ASY_SEAL_CNT_OPEN = false) :
    ∃ t, exec .assayRestart s = .next t
      ∧ t.reg .ASY_LEGAL_VER = Config.legalVersion im ∧ t.reg .ASY_LEGAL_CRC = Config.legalCrc im s.sealedBytes ∧ t.asy.legal = none
      ∧ t.asy.firm = im ∧ t.flag F.ASY_STAT_RUN = false ∧ t.asy.metered = false
      ∧ ∀ r i, r ∉ [.ASY_LEGAL_VER, .ASY_LEGAL_CRC, .ASY_INT_CFG, .ASY_INT_ANCHOR_LO, .ASY_INT_ANCHOR_HI, .ASY_TARIFF] → r.dom ≠ .assay →
        t.reg r i = s.reg r i := by
  have run : exec .assayRestart s = .next ((((s.setReg .ASY_LEGAL_VER 0 (Config.legalVersion im)).setReg .ASY_LEGAL_CRC 0
      (Config.legalCrc im s.sealedBytes)).onAsy fun a => { a with legal := none, firm := im }).assayReset true) := by
    refine congrArg Host.Outcome.next ((State.live_runs up).trans ?_)
    rw [staged]
    exact if_neg (Bool.eq_false_iff.mp shut)
  refine ⟨_, run, ?_⟩
  generalize Config.legalVersion im = ver
  generalize Config.legalCrc im s.sealedBytes = crc
  have shown_ : ((s.setReg .ASY_LEGAL_VER 0 ver).setReg .ASY_LEGAL_CRC 0 crc).reg .ASY_LEGAL_VER = ver
      ∧ ((s.setReg .ASY_LEGAL_VER 0 ver).setReg .ASY_LEGAL_CRC 0 crc).reg .ASY_LEGAL_CRC = crc
      ∧ RegsKept [.ASY_LEGAL_VER, .ASY_LEGAL_CRC] s ((s.setReg .ASY_LEGAL_VER 0 ver).setReg .ASY_LEGAL_CRC 0 crc) := by simp
  obtain ⟨version, check, regs⟩ := shown_
  obtain ⟨stopped, metered, legal, firm, cells⟩ :=
    (((s.setReg .ASY_LEGAL_VER 0 ver).setReg .ASY_LEGAL_CRC 0 crc).onAsy fun a => { a with legal := none, firm := im }).assayReset_spec true
  refine ⟨(cells _ _ (by decide) (by decide)).trans version, (cells _ _ (by decide) (by decide)).trans check, legal, firm, stopped, metered,
    fun r i outside dom => ?_⟩
  simp only [List.mem_cons, List.not_mem_nil, or_false, not_or] at outside
  obtain ⟨ver_, crc_, cfg, low, high, tariff⟩ := outside
  exact (cells r i (by simp [cfg, low, high, tariff]) dom).trans (regs r i (by simp [ver_, crc_]))

/-! ### The claim of the modulator inputs (R213) -/

/-- Inputs claimed one by one. -/
theorem State.owners_claimed (l : List Nat) (s : State) (m : Nat) :
    (l.foldl (fun t m => t.setReg .ACQ_MOD_CFG m (F.ACQ_MOD_CFG_OWNER.put 0 3)) s).fld F.ACQ_MOD_CFG_OWNER m = if m ∈ l then 3 else s.fld F.ACQ_MOD_CFG_OWNER m := by
  have set (t : State) (k : Nat) : (t.setReg .ACQ_MOD_CFG k (F.ACQ_MOD_CFG_OWNER.put 0 3)).fld F.ACQ_MOD_CFG_OWNER m
      = if m = k then 3 else t.fld F.ACQ_MOD_CFG_OWNER m := by
    split
    · next own =>
      subst own
      rw [State.fld]
      change F.ACQ_MOD_CFG_OWNER.of ((t.setReg .ACQ_MOD_CFG m (F.ACQ_MOD_CFG_OWNER.put 0 3)).reg .ACQ_MOD_CFG m) = 3
      rw [State.reg_setReg_same]
      decide
    · next other => rw [State.fld, State.reg_setReg_index _ _ _ other, State.fld]
  induction l generalizing s with
  | nil => rfl
  | cons k l ih =>
    rw [List.foldl_cons, ih, set]
    by_cases own : m = k
    · simp [own]
    · simp [own]

theorem State.modOwners_regs (s : State) : RegsKept [.ACQ_MOD_DATA] s s.modOwners := by
  refine regsKept_each (RegsKept.refl _ s) fun m _ t => ?_
  have freed : RegsKept [.ACQ_MOD_DATA] t ((t.setFld F.ACQ_MOD_DATA_VALUE m 0).setFlag F.ACQ_MOD_DATA_NEW m false) := by simp
  have taken : RegsKept [.ACQ_MOD_DATA] t (t.setReg .ACQ_MOD_DATA m 0) := by simp
  split
  · exact freed
  · exact taken
  · exact RegsKept.refl _ t

/-- The inputs of the DC points in use. -/
def State.inputs (s : State) : List Nat := ((List.range 32).filter s.ptOn).flatMap fun n => [s.fld F.ASY_PT_CFG_I_MOD n, s.fld F.ASY_PT_CFG_U_MOD n]

theorem State.assayClaim_owner (s : State) {m : Nat} (mine : m ∈ s.inputs) : s.assayClaim.fld F.ACQ_MOD_CFG_OWNER m = 3 := by
  have divided (l : List Nat) (d : Nat → Nat) (t : State) : (t.each l fun k t => t.setFld F.ACQ_MOD_CFG_DIV k (d k)).fld F.ACQ_MOD_CFG_OWNER m
      = t.fld F.ACQ_MOD_CFG_OWNER m := State.each_congr (fun t => t.fld F.ACQ_MOD_CFG_OWNER m) fun k _ t => by simp
  have claimed := (s.owners_claimed s.inputs m).trans (if_pos mine)
  change (State.modOwners ((s.inputs.foldl (fun t m => t.setReg .ACQ_MOD_CFG m (F.ACQ_MOD_CFG_OWNER.put 0 3)) s).each _ _)).fld _ _ = 3
  rw [(State.modOwners_regs _).fld (by decide) m]
  exact (divided _ _ _).trans claimed

theorem State.mem_inputs (s : State) {n : Nat} (small : n < 32) (on : s.ptOn n = true) :
    s.fld F.ASY_PT_CFG_I_MOD n ∈ s.inputs ∧ s.fld F.ASY_PT_CFG_U_MOD n ∈ s.inputs := by
  have listed : n ∈ (List.range 32).filter s.ptOn := List.mem_filter.mpr ⟨List.mem_range.mpr small, on⟩
  exact ⟨List.mem_flatMap.mpr ⟨n, listed, by simp⟩, List.mem_flatMap.mpr ⟨n, listed, by simp⟩⟩

/-! ### The steps of a start (R224, R251) -/

/-- The registers that the steps of a start write. -/
def startRegs : List Reg := [.ASY_HMK_STAT, .PNT_RING_PROD, .PNT_RING_STAT, .ASY_ACC_LO, .ASY_ACC_HI, .ASY_TREG_LO, .ASY_TREG_HI, .ASY_TARIFF, .ASY_CREDIT_LO,
  .ASY_CREDIT_HI, .ASY_INT_CFG, .ASY_INT_ANCHOR_LO, .ASY_INT_ANCHOR_HI, .ASY_PT_PFS, .ASY_RSEQ_LO, .ASY_RSEQ_HI, .ASY_PREPAY_STAT]

/-- What every step of a start keeps, once metering resumed: ended transactions stay ended. -/
structure Begun (s t : State) : Prop where
  regs : RegsKept startRegs s t
  metered : t.asy.metered = s.asy.metered
  ended : ∀ n, s.asy.txns.get n = none → t.asy.txns.get n = none

namespace Begun

theorem refl (s : State) : Begun s s := ⟨RegsKept.refl _ s, rfl, fun _ h => h⟩

theorem trans (h : Begun s u) (k : Begun u t) : Begun s t :=
  ⟨h.regs.trans k.regs, k.metered.trans h.metered, fun n none_ => k.ended n (h.ended n none_)⟩

theorem same (regs : t.regs = s.regs) (asy : t.asy = s.asy) : Begun s t := ⟨regsKept_of_regs regs, by rw [asy], fun n none_ => by rw [asy]; exact none_⟩

theorem onAsy (s : State) {f : Asy → Asy} (metered : ∀ a, (f a).metered = a.metered) (txns : ∀ a, (f a).txns = a.txns) : Begun s (s.onAsy f) :=
  ⟨regsKept_of_regs (s.onAsy_regs f), metered s.asy, fun n none_ => (congrArg (fun x => x.get n) (txns s.asy)).trans none_⟩

theorem each {l : List Nat} {f : Nat → State → State} (next : ∀ n ∈ l, ∀ t, Begun t (f n t)) (s : State) : Begun s (s.each l f) :=
  State.each_induct (P := Begun s) (.refl s) fun n listed t h => h.trans (next n listed t)

theorem record (s : State) (h : RecHead) (b : List Byte) (k : RecKind) : Begun s (s.writeRec h b k) := by
  have rec_ := s.writeRec_recorded h b k
  obtain ⟨l, q, asy⟩ := rec_.asy
  exact ⟨rec_.regs.mono (by decide), by rw [asy], fun n none_ => by rw [asy]; exact none_⟩

theorem ended_of_isSome {a b : Asy} (same : ∀ n, (b.txns.get n).isSome = (a.txns.get n).isSome) (n : Nat) (none_ : a.txns.get n = none) : b.txns.get n = none := by
  have gone := same n
  rw [none_] at gone
  exact Option.isNone_iff_eq_none.mp (by rw [← Option.not_isSome, gone]; rfl)

theorem gap (s : State) (pts : List Nat) (start span cause flags : Nat) (k : RecKind) : Begun s (s.gapRecord pts start span cause flags k) := by
  obtain ⟨regs, -, marks, -, -⟩ := s.gapRecord_spec pts start span cause flags k
  refine ⟨regs.mono (by decide), ?_, fun n => ended_of_isSome marks.txns n⟩
  obtain ⟨m, x, l, q, asy⟩ := marks.same
  rw [asy]

theorem gaps (s : State) (end_ : Nat) (k : RecKind) : Begun s (s.closeGaps end_ k) := by
  have point (n : Nat) (t : State) : Begun t (t.closeGapAt n end_ k) := by
    obtain ⟨regs, -, -, ⟨m, x, l, q, asy⟩, txns, -, -⟩ := t.closeGapAt_closes n end_ k
    exact ⟨regs.mono (by decide), by rw [asy], fun n => ended_of_isSome txns n⟩
  have ac (t : State) : Begun t (t.closeAcGapsAt end_ k) := by
    obtain ⟨regs, -, ⟨m, x, l, q, asy⟩, txns, -⟩ := t.closeAcGapsAt_closes end_ k
    exact ⟨regs.mono (by decide), by rw [asy], fun n => ended_of_isSome txns n⟩
  exact (Begun.each (fun n _ t => point n t) s).trans (ac _)

theorem due (s : State) (at_ extra : Nat) : Begun s (s.takeAll at_ extra) := by
  obtain ⟨regs, _, _, _, _, _, _, _, _, asy⟩ := s.takeAll_taken at_ extra
  exact ⟨regs.mono (by decide), by rw [asy], fun n none_ => by rw [asy]; exact none_⟩

theorem commit (s : State) : Begun s s.commitHeld := by
  obtain ⟨regs, h, l, q, asy⟩ := s.commitHeld_written
  exact ⟨regs.mono (by decide), by rw [asy], fun n none_ => by rw [asy]; exact none_⟩

theorem fill (s : State) : Begun s s.fillLog := by
  obtain ⟨regs, l, q, same⟩ := s.fillLog_only
  exact ⟨(regs.regsKept (rs := [.ASY_HMK_STAT]) (by simp)).mono (by decide), by rw [same], fun n none_ => by rw [same]; exact none_⟩

theorem sync (s : State) : Begun s s.showSync := by
  obtain ⟨asy, regs, -⟩ := s.showSync_spec
  exact ⟨(regs.regsKept (rs := [.ASY_HMK_STAT]) (by simp)).mono (by decide), by rw [asy], fun n none_ => by rw [asy]; exact none_⟩

theorem span (s : State) (found final : Bool) (us : Nat) : Begun s (s.spanBefore found final us) := by
  have lost : Begun s (s.recovered us) := by
    have body (u v : State) (h : Begun s u) (k : Begun u v) : Begun s ((v.gapRecord v.ptsOn (2 * us) 200000 1 24 ⟨true, false⟩).report 0x0BA5) :=
      (h.trans (k.trans (Begun.gap v v.ptsOn (2 * us) 200000 1 24 ⟨true, false⟩))).trans (.same rfl rfl)
    have taken := Begun.due s s.asy.now 24
    unfold State.recovered State.boundaryPassed
    generalize s.takeAll s.asy.now 24 = u at taken ⊢
    dsimp only
    split
    · exact body u _ taken (.record u _ _ _)
    · exact body u _ taken ((⟨regsKept_of_regs rfl, rfl, fun _ h => h⟩ : Begun u (u.onAsy fun a => { a with held := [] })).trans (.record _ _ _ _))
  unfold State.spanBefore
  split
  · exact .refl s
  · split
    · exact .gap s _ _ _ _ _ _
    · split
      · exact .refl s
      · exact lost

end Begun

/-! ### The signing and the save before the start -/

theorem State.deliverFrom_regs (l : List HmkRec) (s : State) : RegsKept [.PNT_RING_PROD, .PNT_RING_STAT] s (s.deliverFrom l) := by
  induction l generalizing s with
  | nil => exact .refl _ s
  | cons r l ih =>
    have goes (w v : State) (h : RegsKept [.PNT_RING_PROD, .PNT_RING_STAT] s w) (same : v.regs = w.regs) :
        RegsKept [.PNT_RING_PROD, .PNT_RING_STAT] s (v.deliverFrom l) := (h.trans (regsKept_of_regs same)).trans (ih v)
    unfold State.deliverFrom
    split_ifs
    · exact ih s
    · exact .refl _ s
    · split
      · exact .refl _ s
      · next n _ =>
        dsimp only
        split_ifs
        · exact goes _ _ ((s.ringPush_regs n _).regsKept (by simp)) rfl
        · exact .refl _ s
        · exact goes _ _ ((s.ringLost_regs n).regsKept (by simp)) rfl

theorem State.signFront_regs (s : State) : RegsKept [.ASY_HMK_STAT, .PNT_RING_PROD, .PNT_RING_STAT] s s.signFront := by
  cases found : s.asy.log.find? fun r => decide (r.stage = 0) && s.asy.queue.all fun q => decide (r.rseq < q.rseq) with
  | none =>
    have stays : s.signFront = s := by
      unfold State.signFront
      rw [found]
    rw [stays]
    exact .refl _ s
  | some r =>
    cases keyed : s.recordKey Config.hallmarkSlot 1 with
    | none =>
      have stays : s.signFront = s := by
        unfold State.signFront
        rw [found]
        dsimp only
        rw [keyed]
      rw [stays]
      exact .refl _ s
    | some key =>
      rw [State.signFront_eq found keyed]
      generalize r.bytes.take 0x28 ++ s.asy.lastHash ++ r.bytes.drop 0x48 = b
      have signed : (s.signedLog r b (s.hallmark key b)).regs = s.regs := rfl
      generalize s.signedLog r b (s.hallmark key b) = u at signed ⊢
      have encoded : (u.encodeOcmf { r with bytes := b }).regs = u.regs := by
        unfold State.encodeOcmf
        split
        · split <;> rfl
        · rfl
      generalize u.encodeOcmf { r with bytes := b } = v at encoded ⊢
      have shown_ : RegsKept [.ASY_HMK_STAT] v v.showLog := v.showLog_regs.1.regsKept (by simp)
      exact (regsKept_of_regs (encoded.trans signed)).trans ((shown_.mono (by simp)).trans ((State.deliverFrom_regs _ _).mono (by simp)))

theorem State.signProvisional_regs (s : State) : RegsKept startRegs s s.signProvisional := by
  unfold State.signProvisional
  split
  · exact regsKept_each (.refl _ s) fun _ _ t => t.signFront_regs.mono (by decide)
  · exact .refl _ s

theorem State.loadEntry_regs (s : State) (a n : Nat) : RegsKept startRegs s (s.loadEntry a n) := by
  have put (t : State) (lo hi : Reg) (i key : Nat) (q : Rat) (low : lo ∈ startRegs) (high : hi ∈ startRegs) :
      RegsKept startRegs t (t.setAmount lo hi i key q) :=
    (t.setAmount_only lo hi i key q).regs.regsKept (by simp [low, high])
  have active (t : State) (v : Nat) : RegsKept startRegs t (t.setFld F.ASY_TARIFF_ACTIVE n v) := by
    have set : RegsKept [.ASY_TARIFF] t (t.setFld F.ASY_TARIFF_ACTIVE n v) := by simp
    exact set.mono (by decide)
  unfold State.loadEntry
  dsimp only
  split
  · refine RegsKept.trans ?_ (put _ _ _ _ _ _ (by decide) (by decide))
    refine RegsKept.trans (RegsKept.trans ?_ (active _ _)) (regsKept_of_regs rfl)
    exact (((((((put _ _ _ _ _ _ (by decide) (by decide)).trans (put _ _ _ _ _ _ (by decide) (by decide))).trans
      (put _ _ _ _ _ _ (by decide) (by decide))).trans (put _ _ _ _ _ _ (by decide) (by decide))).trans (put _ _ _ _ _ _ (by decide) (by decide))).trans
      (put _ _ _ _ _ _ (by decide) (by decide))).trans (put _ _ _ _ _ _ (by decide) (by decide)))
  · refine RegsKept.trans (RegsKept.trans ?_ (active _ _)) (regsKept_of_regs rfl)
    exact (((((((put _ _ _ _ _ _ (by decide) (by decide)).trans (put _ _ _ _ _ _ (by decide) (by decide))).trans
      (put _ _ _ _ _ _ (by decide) (by decide))).trans (put _ _ _ _ _ _ (by decide) (by decide))).trans (put _ _ _ _ _ _ (by decide) (by decide))).trans
      (put _ _ _ _ _ _ (by decide) (by decide))).trans (put _ _ _ _ _ _ (by decide) (by decide)))

theorem State.resumeSave_regs (s : State) : RegsKept startRegs s s.resumeSave.1 := by
  have loaded (a : Nat) (l : List Nat) (t : State) : RegsKept startRegs t (l.foldl (fun t n => t.loadEntry a n) t) := by
    induction l generalizing t with
    | nil => exact .refl _ t
    | cons n l ih => exact (t.loadEntry_regs a n).trans (ih _)
  unfold State.resumeSave
  split
  · exact regsKept_of_regs (s.onAsy_regs _)
  · next a _ =>
    dsimp only
    have entries := loaded a (List.range 34) s
    generalize (List.range 34).foldl (fun t n => t.loadEntry a n) s = v at entries ⊢
    have counted (f : Asy → Asy) : RegsKept startRegs s (v.onAsy f) := entries.trans (regsKept_of_regs (v.onAsy_regs f))
    split
    · exact regsKept_each (counted _) fun _ _ t => regsKept_of_regs (t.onAsy_regs _)
    · exact counted _

/-- Every transaction of a DC point ended. -/
theorem State.stopTxns_begun (s : State) : Begun s (s.each (List.range 32) fun n t => t.stopTxn n 2)
    ∧ ∀ n < 32, (s.each (List.range 32) fun n t => t.stopTxn n 2).asy.txns.get n = none := by
  obtain ⟨⟨m, x, k, q, d, asy⟩, regs, none_, closed⟩ := s.stopTxns_spec 2 (List.range 32)
  exact ⟨⟨regs.mono (by decide), by rw [asy], closed⟩, fun n small => none_ n (List.mem_range.mpr small)⟩

/-- The grid of a first start. -/
def State.firstGrid (s : State) : State :=
  if decide (s.fld F.ASY_INT_CFG_LEN = 0) then (s.setFld F.ASY_INT_CFG_LEN 0 900).onAsy fun a => { a with from_ := s.lmc } else s

theorem State.firstGrid_regs (s : State) : RegsKept startRegs s s.firstGrid := by
  have set : RegsKept [.ASY_INT_CFG] s (s.setFld F.ASY_INT_CFG_LEN 0 900) := by simp
  unfold State.firstGrid
  split
  · exact (set.mono (by decide)).trans (regsKept_of_regs rfl)
  · exact .refl _ s

/-- Metering resumed: RUN is set. -/
theorem State.meteringOn_spec (s : State) {f : Asy → Asy} (on : ∀ a, (f a).metered = true) :
    (((s.setFld F.ASY_STAT_RUN 0 1).showPfs).onAsy f).flag F.ASY_STAT_RUN = true ∧ (((s.setFld F.ASY_STAT_RUN 0 1).showPfs).onAsy f).asy.metered = true
    ∧ RegsKept [.ASY_STAT, .ASY_PT_PFS] s (((s.setFld F.ASY_STAT_RUN 0 1).showPfs).onAsy f) := by
  have set : (s.setFld F.ASY_STAT_RUN 0 1).flag F.ASY_STAT_RUN = true ∧ RegsKept [.ASY_STAT] s (s.setFld F.ASY_STAT_RUN 0 1) := by simp [Fld.width]
  obtain ⟨run_, regs⟩ := set
  generalize s.setFld F.ASY_STAT_RUN 0 1 = u at run_ regs ⊢
  obtain ⟨shown_, -⟩ := u.showPfs_spec
  generalize u.showPfs = v at shown_ ⊢
  have kept : RegsKept [] v (v.onAsy f) := regsKept_of_regs (v.onAsy_regs f)
  exact ⟨(kept.flag (by simp) 0).trans ((shown_.flag (by decide) 0).trans run_), on v.asy,
    (regs.mono (by simp)).trans ((shown_.mono (by simp)).trans (kept.mono (by simp)))⟩

theorem startMeters (up : s.runs 5 = true) (off : s.flag F.ASY_STAT_RUN = false) : ∃ t, exec .assayStart s = .next t ∧ t.flag F.ASY_STAT_RUN = true
    ∧ t.asy.metered = true ∧ (∀ n < 32, t.asy.txns.get n = none)
    ∧ (∀ n < 32, s.ptOn n = true → t.fld F.ACQ_MOD_CFG_OWNER (s.fld F.ASY_PT_CFG_I_MOD n) = 3 ∧ t.fld F.ACQ_MOD_CFG_OWNER (s.fld F.ASY_PT_CFG_U_MOD n) = 3) := by
  have run : exec .assayStart s = .next s.assayStart := congrArg Host.Outcome.next ((State.live_runs up).trans (if_neg (Bool.eq_false_iff.mp off)))
  refine ⟨_, run, ?_⟩
  unfold State.assayStart
  extract_lets c r a first b v w x rec_ due done
  have claimed : RegsKept startRegs s.assayClaim c := State.signProvisional_regs _
  have resumed : RegsKept startRegs c a := c.resumeSave_regs
  have grid : RegsKept startRegs a b := a.firstGrid_regs
  obtain ⟨f, named, on⟩ : ∃ f : Asy → Asy, v = ((b.setFld F.ASY_STAT_RUN 0 1).showPfs).onAsy f ∧ ∀ a, (f a).metered = true := by
    refine ⟨_, rfl, ?_⟩
    exact fun _ => rfl
  obtain ⟨run_, metered, regs⟩ := b.meteringOn_spec on
  rw [← named] at run_ metered regs
  have spanned : Begun v w := (Begun.span v _ _ _).trans (.gaps _ _ _)
  have stops : x = w.each (List.range 32) fun n t => t.stopTxn n 2 := rfl
  obtain ⟨stopped, none_⟩ := w.stopTxns_begun
  rw [← stops] at stopped none_
  have written : Begun x rec_ := .record _ _ _ _
  have taken : Begun rec_ due := .due _ _ _
  have committed : Begun due done := .each (fun _ _ t => .commit t) _
  have restarted : Begun done (done.onAsy fun a => { a with restart := false }) := Begun.onAsy done (fun _ => rfl) fun _ => rfl
  generalize done.onAsy (fun a => { a with restart := false }) = y at restarted ⊢
  have recorded : Begun x y.showSync.fillLog := written.trans (taken.trans (committed.trans (restarted.trans ((Begun.sync y).trans (.fill _)))))
  generalize y.showSync.fillLog = t at recorded ⊢
  have begun : Begun v t := spanned.trans (stopped.trans recorded)
  have owned {m : Nat} (mine : m ∈ s.inputs) : t.fld F.ACQ_MOD_CFG_OWNER m = 3 :=
    (begun.regs.fld (by decide) m).trans ((regs.fld (by decide) m).trans (((claimed.trans (resumed.trans grid)).fld (by decide) m).trans
      (s.assayClaim_owner mine)))
  refine ⟨(begun.regs.flag (by decide) 0).trans run_, begun.metered.trans metered, fun n small => recorded.ended n (none_ n small), fun n small on => ?_⟩
  obtain ⟨current, voltage⟩ := s.mem_inputs small on
  exact ⟨owned current, owned voltage⟩

/-- Settles O41: what is due is taken once and written; a start, an installation and the contactor follow their steps. -/
theorem boundariesStartsAndDisconnects : Obligations.BoundariesStartsAndDisconnects := by
  unfold Obligations.BoundariesStartsAndDisconnects
  refine ⟨fun s d up run_ grid empty first second due => ⟨?_, ?_⟩, fun s up => ?_, fun s up off => startMeters up off, fun s run_ => ?_,
    fun s im up staged shut => legalInstalled up staged shut, fun s none_ => ?_, fun s o c up case_ => contactorOpens up case_, fun s o c up case_ => ?_⟩
  · exact switchMade up run_ grid empty first second due
  · exact intervalClosed up run_ grid empty first second due
  · obtain ⟨-, regs, shown_, reports⟩ := s.showSync_spec
    refine ⟨_, congrArg Host.Outcome.next (State.live_runs up), shown_, regs, fun late clear => ?_⟩
    rw [reports, late, clear]
    rfl
  · refine congrArg Host.Outcome.next ?_
    rw [if_pos run_, State.live]
    split <;> rfl
  · refine congrArg Host.Outcome.next ?_
    have idle (u : State) (same : u = s) : s.live 5 u = s := by
      rw [same, State.live]
      split <;> rfl
    refine idle _ ?_
    rcases none_ with none_ | open_
    · rw [none_]
    · cases s.asy.legal with
      | none => rfl
      | some im => exact if_pos open_
  · obtain ⟨v, event, run, regs, reports, shows_⟩ := contactorFaults up case_
    obtain ⟨fault, exhausted, written, reported, blind, seen⟩ := v.discFault_spec o event
    refine ⟨_, run, fault, exhausted, written.of (regsKept_of_regs (rs := []) regs) (by simp) (by simp), ?_, ?_⟩
    · rw [reported, reports]
      simp
    · cases found : s.discShows o with
      | none => exact (blind (shows_.trans found)).trans ((regsKept_of_regs (rs := []) regs).fld (by simp) o)
      | some b => exact (seen b (shows_.trans found)).trans (by cases b <;> rfl)

end Sys2Proof.Machine
end

section
/-! SUPPORT. The AC points of Assay: what a sample of them leaves (R214, R216, R221, R227, R228). -/

namespace Sys2Proof.Machine

open Sys2Proof

variable {s t u : State} {a : Nat}

/-! ### What the AC points leave -/

/-- The registers that belong to the AC points, beside the status of the points themselves. -/
def acRegs : List Reg := [.ASY_STAT, .ASY_CHK, .ASY_CH_RMS, .ASY_PQ_STAT, .PNT_RING_PROD, .PNT_RING_STAT]

/-- A change that leaves the DC points, the accumulators and the counter. -/
structure AcKept (s t : State) : Prop where
  regs : ∀ r i, r ∉ acRegs → (r = .ASY_PT_STAT → i < 32) → t.reg r i = s.reg r i
  asy : ∃ m a i l c e, t.asy = { s.asy with meters := m, ac := a, integ := i, last := l, cross := c, events := e }

namespace AcKept

theorem refl (s : State) : AcKept s s := ⟨fun _ _ _ _ => rfl, _, _, _, _, _, _, rfl⟩

theorem trans (h : AcKept s u) (k : AcKept u t) : AcKept s t := by
  obtain ⟨regs, _, _, _, _, _, _, asy⟩ := h
  obtain ⟨regs', m, a, i, l, c, e, asy'⟩ := k
  exact ⟨fun r j outside dc => (regs' r j outside dc).trans (regs r j outside dc), m, a, i, l, c, e, by rw [asy', asy]⟩

theorem ofRegs {rs : List Reg} (regs : RegsKept rs s t) (sub : rs ⊆ acRegs) (asy : t.asy = s.asy) : AcKept s t :=
  ⟨fun r i outside _ => regs r i fun listed => outside (sub listed), _, _, _, _, _, _, asy⟩

theorem ofPoint {n : Nat} (regs : CellsKept [(.ASY_PT_STAT, n)] s t) (ac : 32 ≤ n) (asy : t.asy = s.asy) : AcKept s t := by
  refine ⟨fun r i _ dc => regs r i fun listed => ?_, _, _, _, _, _, _, asy⟩
  obtain ⟨rfl, rfl⟩ := Prod.mk.injEq .. ▸ List.mem_singleton.mp listed
  have small := dc rfl
  omega

theorem same (regs : t.regs = s.regs) (asy : t.asy = s.asy) : AcKept s t := ofRegs (rs := []) (regsKept_of_regs regs) (by simp) asy

theorem onAsy (s : State) {f : Asy → Asy} (shape : ∃ m a i l c e, f s.asy = { s.asy with meters := m, ac := a, integ := i, last := l, cross := c, events := e }) :
    AcKept s (s.onAsy f) := ⟨fun _ _ _ _ => rfl, shape⟩

theorem onAc (s : State) (a : Nat) (f : AcPoint → AcPoint) : AcKept s (s.onAc a f) := .onAsy s ⟨_, _, _, _, _, _, rfl⟩

theorem onMeter (s : State) (n : Nat) (f : Meter → Meter) : AcKept s (s.onMeter n f) := .onAsy s ⟨_, _, _, _, _, _, rfl⟩

theorem onCross (s : State) (f : Asy → Cross) : AcKept s (s.onAsy fun y => { y with cross := f y }) := .onAsy s ⟨_, _, _, _, _, _, rfl⟩

theorem each {l : List Nat} {f : Nat → State → State} (next : ∀ n ∈ l, ∀ t, AcKept t (f n t)) (s : State) : AcKept s (s.each l f) :=
  State.each_induct (P := AcKept s) (.refl s) fun n listed t h => h.trans (next n listed t)

theorem ite {c : Prop} [Decidable c] (yes : AcKept s t) (no : AcKept s u) : AcKept s (if c then t else u) := by
  split
  · exact yes
  · exact no

end AcKept

/-! ### The votes of the converters (R221) -/

theorem State.voteOut_ac (s : State) (k : Nat) : AcKept s (s.voteOut k) := by
  have set (v : Nat) : RegsKept [.ASY_CHK] s (s.setFld F.ASY_CHK_OUT 0 v)
      ∧ RegsKept [.ASY_CHK] s ((s.setFld F.ASY_CHK_OUT 0 v).setFld F.ASY_CHK_SOURCE 0 1) := by simp
  unfold State.voteOut
  dsimp only
  split
  · exact (AcKept.ofRegs (set _).2 (by decide) rfl).trans (.same rfl rfl)
  · exact (AcKept.ofRegs (set _).1 (by decide) rfl).trans (.same rfl rfl)

theorem State.checkFault_ac (s : State) (from_ : Nat) : AcKept s (s.checkFault from_) := by
  have stat : RegsKept [.ASY_STAT] s (s.setFld F.ASY_STAT_CHECK_FAULT 0 1) := by simp
  have point (w : State) (n : Nat) : CellsKept [(.ASY_PT_STAT, n)] w (w.setFld F.ASY_PT_STAT_METER_FAULT n 1) := by simp
  have marked : AcKept s (((s.setFld F.ASY_STAT_CHECK_FAULT 0 1).setFld F.ASY_PT_STAT_METER_FAULT 32 1).setFld F.ASY_PT_STAT_METER_FAULT 33 1) :=
    (AcKept.ofRegs stat (by decide) rfl).trans ((AcKept.ofPoint (point _ 32) (by decide) rfl).trans (.ofPoint (point _ 33) (by decide) rfl))
  unfold State.checkFault
  extract_lets t waiting opened
  have dropped : AcKept t waiting := .each (fun a _ t => .onAc t a _) t
  have gaps : AcKept waiting opened := .each (fun n _ t => .onMeter t n _) waiting
  have settled : AcKept opened (opened.onAsy fun y => { y with cross := { y.cross with dispute := none, agree := 0 } }) := .onCross opened _
  exact marked.trans (dropped.trans (gaps.trans (settled.trans (.same rfl rfl))))

theorem State.restartC_ac (s : State) (step : Nat) (dispute : Option (Nat × Nat)) : AcKept s (s.restartC step dispute) := .onCross s _

theorem State.checkReference_ac (s : State) (mine : Bool) : AcKept s (s.checkReference mine) := .ite (s.voteOut_ac 2) (.refl s)

theorem State.verdict_ac (s : State) (a : Nat) (p : AcPoint) (ch from_ : Nat) : AcKept s (s.verdict a p ch from_) := by
  have resumed : AcKept s (s.restartC 0 none) := s.restartC_ac 0 none
  unfold State.verdict
  dsimp only
  split_ifs
  · exact resumed.trans (.same rfl rfl)
  · exact resumed.trans (State.checkFault_ac _ _)
  · exact resumed.trans (.same rfl rfl)
  · exact resumed.trans (State.voteOut_ac _ _)
  · exact (resumed.trans (State.voteOut_ac _ _)).trans (.each (fun b _ t => .onAc t b _) _)
  · exact resumed.trans (State.checkFault_ac _ _)

theorem State.converterVote_ac (s : State) (a : Nat) (p : AcPoint) : AcKept s (s.converterVote a p) := by
  have counted (v : Nat) : RegsKept [.ASY_CHK] s (s.setFld F.ASY_CHK_DISPUTES 0 v) := by simp
  have first (v : Nat) (mine : Bool) : AcKept s ((s.setFld F.ASY_CHK_DISPUTES 0 v).checkReference mine) :=
    (AcKept.ofRegs (counted v) (by decide) rfl).trans (State.checkReference_ac _ mine)
  unfold State.converterVote
  extract_lets both diff c own mine left leftBad t fine t'
  have base : AcKept s t := first _ _
  refine .ite ?_ ?_
  · have agreed : AcKept s t' := base.trans (.onCross t _)
    exact .ite (agreed.trans (t'.restartC_ac 1 none)) agreed
  · split
    · exact .ite (base.trans (t.verdict_ac _ _ _ _)) base
    · refine .ite (base.trans (t.checkFault_ac _)) ?_
      clear t' fine
      clear_value t diff
      cases diff
      · exact .ite (base.trans (t.restartC_ac _ _)) base
      · exact base.trans (t.restartC_ac _ _)

/-! ### Power quality (R227, R228) -/

theorem State.ringDeliver_asy (s : State) (n : Nat) (entry : List Byte) : (s.ringDeliver n entry).asy = s.asy :=
  (congrArg State.asy (s.ringDeliver_eq n entry)).trans rfl

theorem State.pqRecord_ac (s : State) (a typ : Nat) (e : PqEvent) : AcKept s (s.pqRecord a typ e) := by
  have logged (f : Asy → List (List Byte)) : AcKept s (s.onAsy fun y => { y with events := f y }) := .onAsy s ⟨_, _, _, _, _, _, rfl⟩
  have delivered (w : State) (n : Nat) (b : List Byte) : AcKept w (w.ringDeliver n b) :=
    .ofRegs ((w.ringDeliver_regs n b).regsKept (rs := [.PNT_RING_PROD, .PNT_RING_STAT]) (by simp)) (by decide) (w.ringDeliver_asy n b)
  exact (logged _).trans (delivered _ _ _)

theorem State.pqStep_ac (s : State) (a typ : Nat) {flag : Fld} (shown : flag.reg = .ASY_PQ_STAT) (code : Nat) (now : Option PqEvent) (starts ends : Bool)
    (phases : Nat) (worst : Rat) (worse : Rat → Rat → Rat) : AcKept s (s.pqStep a typ flag code now starts ends phases worst worse).1 := by
  have set (w : State) (b : Bool) : AcKept w (w.setFlag flag a b) :=
    .ofRegs (rs := [.ASY_PQ_STAT]) (by simp [shown]) (by decide) rfl
  unfold State.pqStep
  dsimp only
  split
  · split
    · exact (State.pqRecord_ac _ _ _ _).trans (set _ _)
    · exact .refl s
  · split
    · exact (set _ _).trans (.same rfl rfl)
    · exact .refl s

theorem State.pqRefresh_ac (s : State) (a : Nat) : AcKept s (s.pqRefresh a) := by
  have set (w : State) (v : Nat) : RegsKept [.ASY_PQ_STAT] w (w.setFld F.ASY_PQ_STAT_REF a v) := by simp
  unfold State.pqRefresh
  extract_lets p n sq u lim sag swell int mask low high s1 r1 r2 r3 t ref
  have started : AcKept s s1 := .onAc s a _
  have first : AcKept s1 r1.1 := State.pqStep_ac s1 a 1 (flag := F.ASY_PQ_STAT_SAG) rfl _ _ _ _ _ _ _
  have second : AcKept r1.1 r2.1 := State.pqStep_ac r1.1 a 2 (flag := F.ASY_PQ_STAT_SWELL) rfl _ _ _ _ _ _ _
  have third : AcKept r2.1 r3.1 := State.pqStep_ac r2.1 a 3 (flag := F.ASY_PQ_STAT_INT) rfl _ _ _ _ _ _ _
  have kept : AcKept s t := started.trans (first.trans (second.trans (third.trans (.onAc _ a _))))
  exact .ite kept (kept.trans ((AcKept.ofRegs (set t ref) (by decide) rfl).trans (.onAc _ a _)))

/-! ### A cycle (R216) -/

/-- The end of a cycle before the cycle that waited longest is booked. -/
theorem State.cycleEnd_ac (s : State) (a : Nat) : ∃ u, AcKept s u
    ∧ (s.cycleEnd a = u ∨ ∃ w c, AcKept s w ∧ s.cycleEnd a = w.bookCycle a c) := by
  have rms (w : State) (i : Nat) (v : W32) : RegsKept [.ASY_CH_RMS] w (w.setReg .ASY_CH_RMS i v) := by simp
  have shows_ (w : State) (v : Nat) : RegsKept [.ASY_PQ_STAT] w (w.setFld F.ASY_PQ_STAT_FREQ a v) := by simp
  have freq (w : State) (v : Nat) : AcKept w (w.setFld F.ASY_PQ_STAT_FREQ a v) := .ofRegs (shows_ w v) (by decide) rfl
  have free (w : State) (v : Nat) : AcKept w (w.setFld F.ASY_PQ_STAT_FREQ a v).tick := (freq w v).trans (.same rfl rfl)
  unfold State.cycleEnd
  extract_lets n p src sq s1 f s2 start below cyc z s3 s4
  have first : AcKept s s1 := .each (fun k _ t => .ofRegs (rms t _ _) (by decide) rfl) s
  have second : AcKept s1 s2 := .ite (freq _ _) (free _ _)
  have third : AcKept s2 s3 := .onAc s2 a _
  have kept : AcKept s s4 := first.trans (second.trans (third.trans (s3.converterVote_ac a p)))
  refine ⟨s4, kept, ?_⟩
  generalize (s4.asy.ac.get a).waiting = l
  clear_value s4
  clear third s3 cyc z
  rcases l with _ | ⟨c, _ | ⟨c2, _ | ⟨c3, rest⟩⟩⟩
  · exact .inl rfl
  · exact .inl rfl
  · exact .inl rfl
  · exact .inr ⟨_, c, kept.trans (.onAc s4 a _), rfl⟩

theorem State.acValue_ac (s : State) (conv c : Nat) (rogowski : Bool) (code : Int) : AcKept s (s.acValue conv c rogowski code).2 := by
  unfold State.acValue
  exact ⟨fun _ _ _ _ => rfl, _, _, _, _, _, _, rfl⟩

theorem State.acValues_ac (s : State) (conv a : Nat) (codes : List Int) : AcKept s (s.acValues conv a codes).2 := by
  have all (rog : Bool) (l : List Nat) (r : List Rat × State) : AcKept r.2 (l.foldl (fun r k =>
      let v := r.2.acValue conv (64 + 8 * a + k) (rog && decide (3 ≤ k ∧ k ≤ 6)) (codes.getD (8 * a + k) 0)
      (r.1 ++ [v.1], v.2)) r).2 := by
    induction l generalizing r with
    | nil => exact .refl _
    | cons k l ih =>
      rw [List.foldl_cons]
      have value := State.acValue_ac r.2 conv (64 + 8 * a + k) (rog && decide (3 ≤ k ∧ k ≤ 6)) (codes.getD (8 * a + k) 0)
      exact value.trans (ih (r.1 ++ [_], _))
  exact all (decide (s.fld F.ASY_PT_CFG_SENSOR (32 + a) = 2)) (List.range 8) ([], s)

/-- A sample of an AC point: the sums of its cycle, the end of the cycle, and the refresh. -/
theorem State.acSample_ac (s : State) (x : MeterSample) (a : Nat) : ∃ u, AcKept s u
    ∧ ∃ v, (v = u ∨ v = u.cycleEnd a) ∧ (s.acSample x a = v ∨ s.acSample x a = v.pqRefresh a) := by
  unfold State.acSample
  extract_lets n va vb s1 sign power src v codes ends sqr ref p recent avg up down hz turn len ended halved s2 s3 s4
  have first : AcKept s s1 := (s.acValues_ac 0 a x.a).trans (va.2.acValues_ac 1 a x.b)
  have kept : AcKept s s3 := first.trans ((AcKept.onAc s1 a _).trans (.onMeter s2 n _))
  refine ⟨s3, kept, s4, ?_, ?_⟩
  · by_cases e : ended = true
    · exact .inr (if_pos e)
    · exact .inl (if_neg e)
  · by_cases h : halved = true
    · exact .inr (if_pos h)
    · exact .inl (if_neg h)

/-- A point that is not in use books nothing. -/
theorem State.bookCycle_off (off : s.ptOn (32 + a) = false) (c : AcCycle) : s.bookCycle a c = s := by
  unfold State.bookCycle
  dsimp only
  rw [off]
  rfl

/-- A sample of an AC point that is not in use. -/
theorem State.acSample_off (off : s.ptOn (32 + a) = false) (x : MeterSample) : AcKept s (s.acSample x a) := by
  have kept_ {w : State} (h : AcKept s w) : w.ptOn (32 + a) = false := by
    have same : w.reg .ASY_PT_CFG (32 + a) = s.reg .ASY_PT_CFG (32 + a) := h.regs _ _ (by decide) (by simp)
    rw [State.ptOn, State.flag, State.fld] at off ⊢
    change decide (F.ASY_PT_CFG_EN.of (w.reg .ASY_PT_CFG (32 + a)) ≠ 0) = false
    rw [same]
    exact off
  obtain ⟨u, kept, v, mid, last⟩ := s.acSample_ac x a
  have ended : AcKept u (u.cycleEnd a) := by
    obtain ⟨w, h, eq | ⟨y, c, h', eq⟩⟩ := u.cycleEnd_ac a
    · rw [eq]
      exact h
    · rw [eq, State.bookCycle_off (kept_ (kept.trans h'))]
      exact h'
  have through : AcKept s v := by
    rcases mid with rfl | rfl
    · exact kept
    · exact kept.trans ended
  rcases last with eq | eq
  · rw [eq]
    exact through
  · rw [eq]
    exact through.trans (v.pqRefresh_ac a)

end Sys2Proof.Machine
end

section
/-! SUPPORT. The sample of Assay: its counter, and the booking of a DC point (R217, R218, R220, R225, R243). -/

namespace Sys2Proof.Machine

open Sys2Proof

variable {s t u : State} {n : Nat}

/-! ### The counter and the drift window -/

/-- A change that leaves the counter and the drift window. -/
structure ClockKept (s t : State) : Prop where
  now : t.asy.now = s.asy.now
  drift : t.asy.driftAt = s.asy.driftAt

namespace ClockKept

theorem refl (s : State) : ClockKept s s := ⟨rfl, rfl⟩

theorem trans (h : ClockKept s u) (k : ClockKept u t) : ClockKept s t := ⟨k.now.trans h.now, k.drift.trans h.drift⟩

theorem same (asy : t.asy = s.asy) : ClockKept s t := ⟨by rw [asy], by rw [asy]⟩

theorem onAsy (s : State) {f : Asy → Asy} (now : ∀ a, (f a).now = a.now) (drift : ∀ a, (f a).driftAt = a.driftAt) : ClockKept s (s.onAsy f) :=
  ⟨now s.asy, drift s.asy⟩

theorem onMeter (s : State) (n : Nat) (f : Meter → Meter) : ClockKept s (s.onMeter n f) := ⟨rfl, rfl⟩

theorem onDisc (s : State) (o : Nat) (f : Disc → Disc) : ClockKept s (s.onDisc o f) := ⟨rfl, rfl⟩

theorem each {l : List Nat} {f : Nat → State → State} (next : ∀ n ∈ l, ∀ t, ClockKept t (f n t)) (s : State) : ClockKept s (s.each l f) :=
  State.each_induct (P := ClockKept s) (.refl s) fun n listed t h => h.trans (next n listed t)

theorem ite {c : Prop} [Decidable c] (yes : ClockKept s t) (no : ClockKept s u) : ClockKept s (if c then t else u) := by
  split
  · exact yes
  · exact no

theorem ofAc (h : AcKept s t) : ClockKept s t := by
  obtain ⟨-, m, a, i, l, c, e, asy⟩ := h
  exact ⟨by rw [asy], by rw [asy]⟩

theorem ofTaken (h : BoundaryTaken s t) : ClockKept s t := by
  obtain ⟨-, _, _, _, _, _, _, _, _, asy⟩ := h
  exact ⟨by rw [asy], by rw [asy]⟩

theorem record (s : State) (h : RecHead) (b : List Byte) (k : RecKind) : ClockKept s (s.writeRec h b k) := by
  obtain ⟨l, q, asy⟩ := (s.writeRec_recorded h b k).asy
  exact ⟨by rw [asy], by rw [asy]⟩

theorem gap (s : State) (pts : List Nat) (start span cause flags : Nat) (k : RecKind) : ClockKept s (s.gapRecord pts start span cause flags k) := by
  obtain ⟨-, -, ⟨⟨m, x, l, q, asy⟩, -, -⟩, -, -⟩ := s.gapRecord_spec pts start span cause flags k
  exact ⟨by rw [asy], by rw [asy]⟩

theorem gaps (s : State) (end_ : Nat) (k : RecKind) : ClockKept s (s.closeGaps end_ k) := by
  have point (n : Nat) (t : State) : ClockKept t (t.closeGapAt n end_ k) := by
    obtain ⟨-, -, -, ⟨m, x, l, q, asy⟩, -, -, -⟩ := t.closeGapAt_closes n end_ k
    exact ⟨by rw [asy], by rw [asy]⟩
  have ac (t : State) : ClockKept t (t.closeAcGapsAt end_ k) := by
    obtain ⟨-, -, ⟨m, x, l, q, asy⟩, -, -⟩ := t.closeAcGapsAt_closes end_ k
    exact ⟨by rw [asy], by rw [asy]⟩
  exact (ClockKept.each (fun n _ t => point n t) s).trans (ac _)

theorem amount (s : State) (lo hi : Reg) (i key : Nat) (q : Rat) : ClockKept s (s.setAmount lo hi i key q) := by
  obtain ⟨-, f, asy, -⟩ := s.setAmount_only lo hi i key q
  exact ⟨by rw [asy], by rw [asy]⟩

theorem judged (s : State) (o : Nat) : ClockKept s (s.judgeCredit o) := by
  obtain ⟨⟨-, d, asy⟩, -, -, -⟩ := s.judgeCredit_session o
  exact ⟨by rw [asy], by rw [asy]⟩

end ClockKept

/-! ### Test pulses (R226) -/

/-- A change of the test outputs alone. -/
structure PulsesOnly (s t : State) : Prop where
  regs : RegsKept [.ASY_TPO_STAT] s t
  asy : ∃ p, t.asy = { s.asy with tpos := p }

theorem PulsesOnly.refl (s : State) : PulsesOnly s s := ⟨.refl _ s, _, rfl⟩

theorem PulsesOnly.trans (h : PulsesOnly s u) (k : PulsesOnly u t) : PulsesOnly s t := by
  obtain ⟨regs, p, asy⟩ := h
  obtain ⟨regs', p', asy'⟩ := k
  exact ⟨regs.trans regs', p', by rw [asy', asy]⟩

theorem pulsesOnly_each {l : List Nat} {f : Nat → State → State} (next : ∀ n ∈ l, ∀ t, PulsesOnly t (f n t)) (s : State) : PulsesOnly s (s.each l f) :=
  State.each_induct (P := PulsesOnly s) (.refl s) fun n listed t h => h.trans (next n listed t)

theorem State.pulseDue_only (s : State) (k : Nat) : PulsesOnly s (s.pulseDue k) := by
  have set (f : Fld) (here : f.reg = .ASY_TPO_STAT) (v : Nat) : PulsesOnly s (s.setFld f k v) := ⟨by simp [here], _, rfl⟩
  have started (at_ : Nat) : PulsesOnly s (s.startPulse k at_) := ⟨regsKept_of_regs rfl, _, rfl⟩
  unfold State.pulseDue
  dsimp only
  split_ifs
  · exact started _
  · exact set F.ASY_TPO_STAT_OVF rfl 1
  · exact set F.ASY_TPO_STAT_PENDING rfl _

theorem State.feedTpo_only (s : State) (k : Nat) (imp exp_ : Rat) : PulsesOnly s (s.feedTpo k imp exp_) := by
  have fed (f : Tpo → Tpo) : PulsesOnly s (s.onAsy fun a => { a with tpos := a.tpos.upd k f }) := ⟨regsKept_of_regs (s.onAsy_regs _), _, rfl⟩
  unfold State.feedTpo
  extract_lets q step sum due u
  have first : PulsesOnly s u := fed _
  split
  · exact .refl s
  · exact first.trans (pulsesOnly_each (fun _ _ t => t.pulseDue_only k) u)

/-! ### A booking (R218) -/

/-- The amounts of a booking. -/
def State.bookAmounts (s : State) (n tariff : Nat) (imp exp_ : Rat) : State :=
  let t := ((s.addAcc n 0 imp).addAcc n 1 exp_).addAcc n 2 (imp - exp_)
  (t.setTreg n tariff 0 (s.treg n tariff 0 + imp)).setTreg n tariff 1 (s.treg n tariff 1 + exp_)

/-- The credit of a booking. -/
def State.bookCredit (t s : State) (n : Nat) (imp : Rat) : State :=
  if n < 32 ∧ s.flag F.ASY_PREPAY_STAT_PREPAY (s.ptOut n) ∧ (s.asy.txns.get n).isSome then
    (t.setCredit (s.ptOut n) (s.credit (s.ptOut n) - imp)).judgeCredit (s.ptOut n)
  else t

/-- The test pulses of a booking. -/
def State.bookPulses (t s : State) (n : Nat) (imp exp_ : Rat) : State :=
  t.each ((List.range 4).filter fun k => s.flag F.ASY_TPO_CFG_EN k && decide (s.fld F.ASY_TPO_CFG_POINT k = n)) fun k u => u.feedTpo k imp exp_

/-- Import and export of an energy. -/
def State.imported (s : State) (n : Nat) (e : Rat) : Rat := if s.flag F.ASY_PT_CFG_MODE n || decide (0 ≤ e) then quantum |e| else 0
def State.exported (s : State) (n : Nat) (e : Rat) : Rat := if s.flag F.ASY_PT_CFG_MODE n || decide (0 ≤ e) then 0 else quantum |e|

theorem State.book_none (s : State) (n : Nat) (e : Rat) (tariff : Nat) : s.book n e tariff none =
    ((s.bookAmounts n tariff (s.imported n e) (s.exported n e)).bookCredit s n (s.imported n e)).bookPulses s n (s.imported n e) (s.exported n e) := rfl

theorem State.book_some (s : State) (n : Nat) (e : Rat) (tariff end_ : Nat) : s.book n e tariff (some end_) =
    (((s.bookAmounts n tariff (s.imported n e) (s.exported n e)).bookLate n (s.imported n e) (s.exported n e) (s.imported n e - s.exported n e) tariff
      end_).bookCredit s n (s.imported n e)).bookPulses s n (s.imported n e) (s.exported n e) := rfl

theorem State.bookAmounts_clock (s : State) (n tariff : Nat) (imp exp_ : Rat) : ClockKept s (s.bookAmounts n tariff imp exp_) :=
  ((((ClockKept.amount s _ _ _ _ _).trans (.amount _ _ _ _ _ _)).trans (.amount _ _ _ _ _ _)).trans (.amount _ _ _ _ _ _)).trans (.amount _ _ _ _ _ _)

theorem State.bookCredit_clock (t s : State) (n : Nat) (imp : Rat) : ClockKept t (t.bookCredit s n imp) :=
  .ite ((ClockKept.amount t _ _ _ _ _).trans (.judged _ _)) (.refl t)

theorem State.bookPulses_clock (t s : State) (n : Nat) (imp exp_ : Rat) : ClockKept t (t.bookPulses s n imp exp_) := by
  obtain ⟨-, p, asy⟩ := pulsesOnly_each (l := (List.range 4).filter fun k => s.flag F.ASY_TPO_CFG_EN k && decide (s.fld F.ASY_TPO_CFG_POINT k = n))
    (fun k _ u => u.feedTpo_only k imp exp_) t
  exact ⟨(congrArg Asy.now asy).trans rfl, (congrArg Asy.driftAt asy).trans rfl⟩

theorem State.bookLate_clock (s : State) (n : Nat) (imp exp_ net : Rat) (tariff end_ : Nat) : ClockKept s (s.bookLate n imp exp_ net tariff end_) :=
  ⟨rfl, rfl⟩

theorem State.book_clock (s : State) (n : Nat) (e : Rat) (tariff : Nat) (end_ : Option Nat) : ClockKept s (s.book n e tariff end_) := by
  have amounts := s.bookAmounts_clock n tariff (s.imported n e) (s.exported n e)
  cases end_ with
  | none => exact (s.book_none n e tariff) ▸ (amounts.trans (State.bookCredit_clock _ _ _ _)).trans (State.bookPulses_clock _ _ _ _ _)
  | some end_ =>
    exact (s.book_some n e tariff end_) ▸ ((amounts.trans (State.bookLate_clock _ _ _ _ _ _ _)).trans (State.bookCredit_clock _ _ _ _)).trans
      (State.bookPulses_clock _ _ _ _ _)

/-! ### The steps of a sample -/

theorem State.overrange_clock (s : State) (n : Nat) (v : Bool) : ClockKept s (s.overrange n v) := by
  have set : ClockKept s (s.setFlag F.ASY_PT_STAT_OVERRANGE n v) := .same rfl
  unfold State.overrange
  extract_lets t said
  exact .ite ((set.trans (.onMeter t n _)).trans (.same rfl)) set

theorem State.meterFault_clock (s : State) (n : Nat) : ClockKept s (s.meterFault n) := by
  have set : ClockKept s (s.setFld F.ASY_PT_STAT_METER_FAULT n 1) := .same rfl
  unfold State.meterFault
  extract_lets t t'
  have first : ClockKept s t := (set.trans (.onMeter _ n _)).trans (.onMeter _ n _)
  have second : ClockKept t t' := .ite (.same rfl) (.refl t)
  exact (first.trans second).trans (.same rfl)

theorem State.dcSample_clock (s : State) (x : MeterSample) (n : Nat) : ClockKept s (s.dcSample x n) := by
  unfold State.dcSample
  extract_lets ci cu vi vu stuck i u p0 p t1 t2 m bad t3 low t4
  have first : ClockKept s t2 := (ClockKept.onMeter s n _).trans (.onDisc t1 _ _)
  have second : ClockKept s t3 := .ite (first.trans (t2.meterFault_clock n)) first
  have third : ClockKept s t4 := second.trans (.same rfl)
  exact .ite second (.ite third ((third.trans (t4.overrange_clock n _)).trans (State.book_clock _ _ _ _ _)))

theorem State.bookCycle_clock (s : State) (a : Nat) (c : AcCycle) : ClockKept s (s.bookCycle a c) := by
  unfold State.bookCycle
  extract_lets n low t
  have set : ClockKept s t := .same rfl
  exact .ite (.refl s) (.ite set ((set.trans (t.overrange_clock n _)).trans (State.book_clock _ _ _ _ _)))

theorem State.acSample_clock (s : State) (x : MeterSample) (a : Nat) : ClockKept s (s.acSample x a) := by
  obtain ⟨u, kept, v, mid, last⟩ := s.acSample_ac x a
  have ended : ClockKept u (u.cycleEnd a) := by
    obtain ⟨w, h, eq | ⟨y, c, h', eq⟩⟩ := u.cycleEnd_ac a
    · exact eq ▸ .ofAc h
    · exact eq ▸ (ClockKept.ofAc h').trans (y.bookCycle_clock a c)
  have through : ClockKept s v := by
    rcases mid with rfl | rfl
    · exact .ofAc kept
    · exact (ClockKept.ofAc kept).trans ended
  rcases last with eq | eq
  · exact eq ▸ through
  · exact eq ▸ through.trans (.ofAc (v.pqRefresh_ac a))

theorem State.discPoll_clock (s : State) (o : Nat) : ClockKept s (s.discPoll o) := by
  have recorded (w : State) (event : Nat) : ClockKept w (w.discRecord o event) := by
    obtain ⟨l, q, asy⟩ := (w.discRecord_recorded o event).asy
    exact ⟨by rw [asy], by rw [asy]⟩
  have set (v : Nat) : ClockKept s (s.setFld F.ASY_PREPAY_STAT_DISC o v) := .same rfl
  exact .ite ((set 2).trans (recorded _ 5)) (.ite (set 0) (.refl s))

theorem State.flushAc_clock (s : State) : ClockKept s s.flushAc := by
  have booked (a : Nat) (l : List AcCycle) (t : State) : ClockKept t (l.foldl (fun t c => t.bookCycle a c) t) := by
    induction l generalizing t with
    | nil => exact .refl t
    | cons c l ih => exact (t.bookCycle_clock a c).trans (ih _)
  exact .each (fun a _ t => (ClockKept.ofAc (.onAc t a _)).trans (booked a _ _)) s

theorem State.powerFail_clock (s : State) : ClockKept s s.powerFail := by
  unfold State.powerFail
  extract_lets a b parts flags c
  have first : ClockKept s b := s.flushAc_clock.trans (.gaps _ _ _)
  have dropped : ClockKept b (b.onAsy fun a => { a with held := [] }) := .onAsy b (fun _ => rfl) fun _ => rfl
  have alone : ClockKept b (b.writeRec ⟨5, 0, 0xFFFF, 0, b.lmc⟩ b.ptBody ⟨true, true⟩) := .record b _ _ _
  have joined (body : List Byte) : ClockKept b ((b.onAsy fun a => { a with held := [] }).writeRec ⟨8, flags, 0xFFFF, 0, b.lmc⟩ body ⟨true, true⟩) :=
    dropped.trans (.record _ _ _ _)
  have second : ClockKept s c := first.trans (.ite alone (joined _))
  obtain ⟨-, -, -, asy, -, -⟩ := c.saveEnergy_spec c.lmc true
  generalize c.saveEnergy c.lmc true = d at asy ⊢
  have third : ClockKept c d := ⟨by rw [asy], by rw [asy]⟩
  have last : ClockKept d (d.onAsy fun a => { a with metered := false, endAt := a.now }) := .onAsy d (fun _ => rfl) fun _ => rfl
  exact (second.trans third).trans last

theorem State.powerUp_clock (s : State) : ClockKept s s.powerUp := by
  have opened (t : State) (n : Nat) : ClockKept t (t.when (t.ptOn n) fun u => u.reopenGap n) := by
    have gap (u : State) : ClockKept u (u.reopenGap n) := by
      obtain ⟨-, m, asy⟩ := u.reopenGap_asy n
      exact ⟨by rw [asy], by rw [asy]⟩
    exact .ite (gap t) (.refl t)
  unfold State.powerUp
  extract_lets t t'
  have first : ClockKept s t := .record s _ _ _
  have second : ClockKept t t' := .gap t _ _ _ _ _ _
  have third : ClockKept t' (t'.onAsy fun a => { a with metered := true }) := .onAsy t' (fun _ => rfl) fun _ => rfl
  generalize t'.onAsy (fun a => { a with metered := true }) = w at third ⊢
  exact (first.trans (second.trans third)).trans (.each (fun n _ t => opened t n) w)

/-- The drift window at a sample. -/
theorem State.driftStep_clock (s : State) : s.driftStep.regs = s.regs ∧ s.driftStep.asy.now = s.asy.now
    ∧ s.driftStep.asy.driftAt = if s.asy.now < 2 * (s.asy.driftAt + 2 ^ 20) then s.asy.driftAt else s.asy.driftAt + 2 ^ 20 := by
  unfold State.driftStep
  extract_lets a mixed b t c
  by_cases within : a.now < 2 * b
  · rw [if_pos within, if_pos within]
    exact ⟨rfl, rfl, rfl⟩
  · rw [if_neg within, if_neg within]
    exact ⟨rfl, rfl, rfl⟩

theorem State.sampleC_clock (s : State) (code : Int) : ClockKept s (s.sampleC code) := ⟨rfl, rfl⟩

/-- A sample before its counter moves on. -/
theorem State.assaySample_clock (s : State) (x : MeterSample) : (s.assaySample x).asy.now = s.asy.now + 125
    ∧ (s.assaySample x).asy.driftAt = if s.asy.now < 2 * (s.asy.driftAt + 2 ^ 20) then s.asy.driftAt else s.asy.driftAt + 2 ^ 20 := by
  obtain ⟨-, now, drift⟩ := s.driftStep_clock
  unfold State.assaySample
  extract_lets a ended b c d e f
  have taken : ClockKept s.driftStep a := .ofTaken (State.takeAll_taken _ _ _)
  have code : ClockKept a b := a.sampleC_clock x.c
  have dc : ClockKept b c := .each (fun n _ t => t.dcSample_clock x n) b
  have ac : ClockKept c d := .each (fun n _ t => t.acSample_clock x n) c
  have polled : ClockKept d e := .each (fun o _ t => .ite (t.discPoll_clock o) (.refl t)) d
  have power : ClockKept e f := .ite e.powerFail_clock (.ite e.powerUp_clock (.refl e))
  obtain ⟨now', drift'⟩ := taken.trans (code.trans (dc.trans (ac.trans (polled.trans power))))
  have moved (w : State) : (w.onAsy fun a => { a with now := a.now + 125 }).asy.now = w.asy.now + 125
      ∧ (w.onAsy fun a => { a with now := a.now + 125 }).asy.driftAt = w.asy.driftAt := ⟨rfl, rfl⟩
  exact ⟨(moved f).1.trans (congrArg (· + 125) (now'.trans now)), (moved f).2.trans (drift'.trans drift)⟩

end Sys2Proof.Machine
end

section
/-! SUPPORT. The energies of a booked sample, and the statement on samples (R218, R220, R243). -/

namespace Sys2Proof.Machine

open Sys2Proof

variable {s t u : State} {n : Nat}

/-! ### The amounts that a change leaves -/

/-- A change that leaves the accumulators, the tariff registers and their residues. -/
structure EnergyKept (s t : State) : Prop where
  regs : ∀ r ∈ [Reg.ASY_PT_CFG, .ASY_ACC_LO, .ASY_ACC_HI, .ASY_TREG_LO, .ASY_TREG_HI], ∀ i, t.reg r i = s.reg r i
  frac : ∀ k < 3000, t.asy.frac.get k = s.asy.frac.get k

namespace EnergyKept

theorem refl (s : State) : EnergyKept s s := ⟨fun _ _ _ => rfl, fun _ _ => rfl⟩

theorem trans (h : EnergyKept s u) (k : EnergyKept u t) : EnergyKept s t :=
  ⟨fun r listed i => (k.regs r listed i).trans (h.regs r listed i), fun j small => (k.frac j small).trans (h.frac j small)⟩

theorem ofRegs {rs : List Reg} (regs : RegsKept rs s t) (apart : ∀ r ∈ [Reg.ASY_PT_CFG, .ASY_ACC_LO, .ASY_ACC_HI, .ASY_TREG_LO, .ASY_TREG_HI], r ∉ rs)
    (frac : t.asy.frac = s.asy.frac) : EnergyKept s t :=
  ⟨fun r listed i => regs r i (apart r listed), fun k _ => by rw [frac]⟩

theorem onAsy (s : State) {f : Asy → Asy} (frac : ∀ a, (f a).frac = a.frac) : EnergyKept s (s.onAsy f) :=
  ofRegs (rs := []) (regsKept_of_regs (s.onAsy_regs f)) (by simp) (frac s.asy)

theorem ofAc (h : AcKept s t) : EnergyKept s t := by
  obtain ⟨regs, m, a, i, l, c, e, asy⟩ := h
  have apart : ∀ r ∈ [Reg.ASY_PT_CFG, .ASY_ACC_LO, .ASY_ACC_HI, .ASY_TREG_LO, .ASY_TREG_HI], r ∉ acRegs ∧ r ≠ .ASY_PT_STAT := by decide
  exact ⟨fun r listed j => regs r j (apart r listed).1 fun same => absurd same (apart r listed).2, fun k _ => by rw [asy]⟩

theorem each {l : List Nat} {f : Nat → State → State} (next : ∀ n ∈ l, ∀ t, EnergyKept t (f n t)) (s : State) : EnergyKept s (s.each l f) :=
  State.each_induct (P := EnergyKept s) (.refl s) fun n listed t h => h.trans (next n listed t)

theorem meterAcc (h : EnergyKept s t) (small : n < 32) {q : Nat} (quantity : q < 3) : t.meterAcc n q = s.meterAcc n q := by
  have low := h.regs .ASY_ACC_LO (by decide) (3 * n + q)
  have high := h.regs .ASY_ACC_HI (by decide) (3 * n + q)
  have rest := h.frac (3 * n + q) (by omega)
  unfold State.meterAcc State.amount State.pair
  rw [low, high, rest]

theorem treg (h : EnergyKept s t) (small : n < 32) {tariff q : Nat} (tariffs : tariff < 16) (quantity : q < 2) : t.treg n tariff q = s.treg n tariff q := by
  have low := h.regs .ASY_TREG_LO (by decide) (2 * (16 * n + tariff) + q)
  have high := h.regs .ASY_TREG_HI (by decide) (2 * (16 * n + tariff) + q)
  have rest := h.frac (1000 + 2 * (16 * n + tariff) + q) (by omega)
  unfold State.treg State.amount State.pair
  rw [low, high, rest]

end EnergyKept

/-! ### Another amount set -/

theorem AmountOnly.amount {lo hi lo' hi' : Reg} {i i' key key' : Nat} (h : AmountOnly lo' hi' i' key' s t) (low : (lo, i) ∉ [(lo', i'), (hi', i')])
    (high : (hi, i) ∉ [(lo', i'), (hi', i')]) (apart : key ≠ key') : t.amount lo hi i key = s.amount lo hi i key := by
  obtain ⟨regs, f, asy, frac⟩ := h
  unfold State.amount State.pair
  rw [regs _ _ low, regs _ _ high, asy, frac key apart]

theorem State.addAcc_own (s : State) (n q : Nat) {e : Rat} (grained : Grained e) (nonneg : 0 ≤ s.meterAcc n q + e) (fits : s.meterAcc n q + e < 2 ^ 64) :
    (s.addAcc n q e).meterAcc n q = s.meterAcc n q + e :=
  s.amount_setAmount (by decide) _ _ ((s.grained_amount _ _ _ _).add grained) nonneg fits

theorem State.addAcc_other (s : State) {n q p : Nat} (other : p ≠ q) (e : Rat) : (s.addAcc n q e).meterAcc n p = s.meterAcc n p :=
  (s.setAmount_only .ASY_ACC_LO .ASY_ACC_HI (3 * n + q) (3 * n + q) (s.meterAcc n q + e)).amount (by simp; omega) (by simp; omega) (by omega)

theorem State.addAcc_treg (s : State) {n q p tariff : Nat} (small : n < 32) (quantity : q < 3) (e : Rat) :
    (s.addAcc n q e).treg n tariff p = s.treg n tariff p :=
  (s.setAmount_only .ASY_ACC_LO .ASY_ACC_HI (3 * n + q) (3 * n + q) (s.meterAcc n q + e)).amount (by simp) (by simp) (by omega)

theorem State.setTreg_own (s : State) (n tariff q : Nat) {e : Rat} (grained : Grained e) (nonneg : 0 ≤ e) (fits : e < 2 ^ 64) :
    (s.setTreg n tariff q e).treg n tariff q = e :=
  s.amount_setAmount (by decide) _ _ grained nonneg fits

theorem State.setTreg_other (s : State) {n tariff q p : Nat} (other : p ≠ q) (e : Rat) : (s.setTreg n tariff q e).treg n tariff p = s.treg n tariff p :=
  (s.setAmount_only .ASY_TREG_LO .ASY_TREG_HI (2 * (16 * n + tariff) + q) (1000 + 2 * (16 * n + tariff) + q) e).amount (by simp; omega) (by simp; omega)
    (by omega)

theorem State.setTreg_acc (s : State) {n tariff q p : Nat} (small : n < 32) (quantity : p < 3) (e : Rat) :
    (s.setTreg n tariff q e).meterAcc n p = s.meterAcc n p :=
  (s.setAmount_only .ASY_TREG_LO .ASY_TREG_HI (2 * (16 * n + tariff) + q) (1000 + 2 * (16 * n + tariff) + q) e).amount (by simp) (by simp) (by omega)

theorem State.setAmount_apart (s : State) {lo hi r : Reg} (i key : Nat) (q : Rat) (low : lo ≠ r) (high : hi ≠ r) (k : Nat) :
    (s.setAmount lo hi i key q).reg r k = s.reg r k :=
  (s.setAmount_only lo hi i key q).regs _ _ (by simp [low.symm, high.symm])

/-- The amounts after a booking. -/
structure Booked (n tariff : Nat) (imp exp_ : Rat) (s t : State) : Prop where
  import_ : t.meterAcc n 0 = s.meterAcc n 0 + imp
  export_ : t.meterAcc n 1 = s.meterAcc n 1 + exp_
  tariffImport : t.treg n tariff 0 = s.treg n tariff 0 + imp
  tariffExport : t.treg n tariff 1 = s.treg n tariff 1 + exp_
  status : ∀ k < 32, t.reg .ASY_PT_STAT k = s.reg .ASY_PT_STAT k

/-- An amount that 64 bits hold. -/
def Fits (q : Rat) : Prop := 0 ≤ q ∧ q < 2 ^ 64

/-- A register that holds no amount, after a booking. -/
theorem State.bookAmounts_apart (s : State) (n tariff : Nat) (imp exp_ : Rat) {r : Reg}
    (apart : r ∉ [.ASY_ACC_LO, .ASY_ACC_HI, .ASY_TREG_LO, .ASY_TREG_HI]) (k : Nat) : (s.bookAmounts n tariff imp exp_).reg r k = s.reg r k := by
  simp only [List.mem_cons, List.not_mem_nil, or_false, not_or] at apart
  obtain ⟨accLow, accHigh, tregLow, tregHigh⟩ := apart
  have treg (t : State) (i key : Nat) (q : Rat) := t.setAmount_apart i key q (Ne.symm tregLow) (Ne.symm tregHigh) k
  have acc (t : State) (i key : Nat) (q : Rat) := t.setAmount_apart i key q (Ne.symm accLow) (Ne.symm accHigh) k
  exact (treg _ _ _ _).trans ((treg _ _ _ _).trans ((acc _ _ _ _).trans ((acc _ _ _ _).trans (acc _ _ _ _))))

theorem State.bookAmounts_booked (s : State) {tariff : Nat} {imp exp_ : Rat} (small : n < 32) (grained : Grained imp) (grained' : Grained exp_)
    (a : Fits (s.meterAcc n 0 + imp)) (b : Fits (s.meterAcc n 1 + exp_)) (c : Fits (s.treg n tariff 0 + imp)) (d : Fits (s.treg n tariff 1 + exp_)) :
    Booked n tariff imp exp_ s (s.bookAmounts n tariff imp exp_) := by
  have status (k : Nat) (_ : k < 32) := s.bookAmounts_apart n tariff imp exp_ (r := .ASY_PT_STAT) (by decide) k
  unfold State.bookAmounts at status ⊢
  have second : (s.addAcc n 0 imp).meterAcc n 1 = s.meterAcc n 1 := s.addAcc_other (by decide) imp
  have importAcc : (((s.addAcc n 0 imp).addAcc n 1 exp_).addAcc n 2 (imp - exp_)).meterAcc n 0 = s.meterAcc n 0 + imp := by
    rw [State.addAcc_other _ (by decide), State.addAcc_other _ (by decide)]
    exact s.addAcc_own n 0 grained a.1 a.2
  have exportAcc : (((s.addAcc n 0 imp).addAcc n 1 exp_).addAcc n 2 (imp - exp_)).meterAcc n 1 = s.meterAcc n 1 + exp_ := by
    rw [State.addAcc_other _ (by decide), State.addAcc_own _ n 1 grained' (second.symm ▸ b.1) (second.symm ▸ b.2), second]
  dsimp only at status ⊢
  generalize ((s.addAcc n 0 imp).addAcc n 1 exp_).addAcc n 2 (imp - exp_) = v at importAcc exportAcc status ⊢
  refine ⟨?_, ?_, ?_, ?_, status⟩
  · rw [State.setTreg_acc _ small (by decide), State.setTreg_acc _ small (by decide), importAcc]
  · rw [State.setTreg_acc _ small (by decide), State.setTreg_acc _ small (by decide), exportAcc]
  · rw [State.setTreg_other _ (by decide)]
    exact v.setTreg_own n tariff 0 ((s.grained_amount _ _ _ _).add grained) c.1 c.2
  · exact State.setTreg_own _ n tariff 1 ((s.grained_amount _ _ _ _).add grained') d.1 d.2

/-! ### The steps that leave a point's amounts and status -/

/-- A change that leaves the amounts, and the status of the DC points. -/
structure PointKept (s t : State) : Prop extends EnergyKept s t where
  status : ∀ k < 32, t.reg .ASY_PT_STAT k = s.reg .ASY_PT_STAT k

namespace PointKept

theorem refl (s : State) : PointKept s s := ⟨.refl s, fun _ _ => rfl⟩

theorem trans (h : PointKept s u) (k : PointKept u t) : PointKept s t :=
  ⟨h.toEnergyKept.trans k.toEnergyKept, fun j small => (k.status j small).trans (h.status j small)⟩

theorem ofRegs {rs : List Reg} (regs : RegsKept rs s t)
    (apart : ∀ r ∈ [Reg.ASY_PT_CFG, .ASY_ACC_LO, .ASY_ACC_HI, .ASY_TREG_LO, .ASY_TREG_HI, .ASY_PT_STAT], r ∉ rs) (frac : t.asy.frac = s.asy.frac) : PointKept s t :=
  ⟨.ofRegs regs (fun r listed => apart r (by simp only [List.mem_cons, List.not_mem_nil, or_false] at listed ⊢; tauto)) frac, fun k _ => regs _ k (apart _ (by simp))⟩

theorem ofAc (h : AcKept s t) : PointKept s t := ⟨.ofAc h, fun k small => h.regs _ k (by decide) fun _ => small⟩

theorem each {l : List Nat} {f : Nat → State → State} (next : ∀ n ∈ l, ∀ t, PointKept t (f n t)) (s : State) : PointKept s (s.each l f) :=
  State.each_induct (P := PointKept s) (.refl s) fun n listed t h => h.trans (next n listed t)

end PointKept

theorem State.bookCredit_point (t s : State) (n : Nat) (imp : Rat) : PointKept t (t.bookCredit s n imp) := by
  have credited (o : Nat) (q : Rat) : PointKept t (t.setCredit o q) := by
    obtain ⟨regs, f, asy, frac⟩ := t.setCredit_only o q
    have kept : RegsKept [.ASY_CREDIT_LO, .ASY_CREDIT_HI] t (t.setCredit o q) := regs.regsKept (by simp)
    refine ⟨⟨fun r listed i => kept r i ?_, fun k small => by rw [asy]; exact frac k (by omega)⟩, fun k _ => kept _ k (by decide)⟩
    revert r
    decide
  have judged (w : State) (o : Nat) : PointKept w (w.judgeCredit o) := by
    obtain ⟨⟨regs, d, asy⟩, -, -, -⟩ := w.judgeCredit_session o
    exact .ofRegs regs (by decide) (by rw [asy])
  unfold State.bookCredit
  split
  · exact (credited _ _).trans (judged _ _)
  · exact .refl t

theorem State.bookPulses_point (t s : State) (n : Nat) (imp exp_ : Rat) : PointKept t (t.bookPulses s n imp exp_) := by
  refine .each (fun k _ u => ?_) t
  obtain ⟨regs, p, asy⟩ := u.feedTpo_only k imp exp_
  exact .ofRegs regs (by decide) (by rw [asy])

theorem State.discPoll_point (s : State) (o : Nat) : PointKept s (s.discPoll o) := by
  have recorded (w : State) (event : Nat) : PointKept w (w.discRecord o event) := by
    have rec_ := w.discRecord_recorded o event
    obtain ⟨l, q, asy⟩ := rec_.asy
    exact .ofRegs rec_.regs (by decide) (by rw [asy])
  have set (v : Nat) : PointKept s (s.setFld F.ASY_PREPAY_STAT_DISC o v) := by
    have regs : RegsKept [.ASY_PREPAY_STAT] s (s.setFld F.ASY_PREPAY_STAT_DISC o v) := by simp
    exact .ofRegs regs (by decide) rfl
  unfold State.discPoll
  extract_lets d sees
  split
  · exact (set 2).trans (recorded _ 5)
  · split
    · exact set 0
    · exact .refl s

/-! ### A DC sample that is booked -/

/-- The measurements of a DC point taken, before its booking. -/
structure DcTaken (s t : State) : Prop where
  regs : t.regs = s.regs
  asy : ∃ m d, t.asy = { s.asy with meters := m, disc := d }

/-- The sample of a DC point with good inputs, without a fault, in metered time. -/
theorem State.dcSample_good {x : MeterSample} (metered : s.asy.metered = true) (fault : s.flag F.ASY_PT_STAT_METER_FAULT n = false)
    (dir : s.flag F.ASY_PT_CFG_DIR n = false) (clc : s.flag F.ASY_PT_CFG_CLC n = false)
    (freeI : s.fld F.ASY_PT_CFG_I_MOD n ∉ x.stuck) (freeU : s.fld F.ASY_PT_CFG_U_MOD n ∉ x.stuck)
    (inI : atEnd (x.mods.getD (s.fld F.ASY_PT_CFG_I_MOD n) 0) = false) (inU : atEnd (x.mods.getD (s.fld F.ASY_PT_CFG_U_MOD n) 0) = false) :
    ∃ u, DcTaken s u ∧ s.dcSample x n =
      (let i := s.scaled (s.fld F.ASY_PT_CFG_I_MOD n) (x.mods.getD (s.fld F.ASY_PT_CFG_I_MOD n) 0)
      let p := s.scaled (s.fld F.ASY_PT_CFG_U_MOD n) (x.mods.getD (s.fld F.ASY_PT_CFG_U_MOD n) 0) * i
      let low := decide (|i| < (s.fld F.ASY_PT_START_START n : Rat) / 100)
      let t := u.setFlag F.ASY_PT_STAT_BELOW_START n low
      if low then t else (t.overrange n false).book n (p * 5 / 288) (s.tariff n) none) := by
  unfold State.dcSample
  extract_lets ci cu vi vu stuck i u p0 p t1 t2 m bad t3 low t4 low' t5
  have notStuck : stuck = false := by
    have first : x.stuck.contains ci = false := by
      rw [Bool.eq_false_iff, Ne, List.contains_iff_mem]
      exact freeI
    have second : x.stuck.contains cu = false := by
      rw [Bool.eq_false_iff, Ne, List.contains_iff_mem]
      exact freeU
    change (x.stuck.contains ci || x.stuck.contains cu) = false
    rw [first, second]
    rfl
  have taken : DcTaken s t2 := ⟨rfl, _, _, rfl⟩
  have point : ∃ y, m = { Meter.feed y i u p with
      endI := if atEnd vi then y.endI + 1 else 0, endU := if atEnd vu then y.endU + 1 else 0, good := if stuck || atEnd vi || atEnd vu then 0 else y.good + 1 } :=
    ⟨_, Arr.get_upd_same _ _ _⟩
  have ends : m.endI = 0 ∧ m.endU = 0 := by
    obtain ⟨y, point⟩ := point
    rw [point]
    exact ⟨if_neg (Bool.eq_false_iff.mp inI), if_neg (Bool.eq_false_iff.mp inU)⟩
  have fine : bad = false := by
    change (stuck || decide (16000 ≤ m.endI ∨ 16000 ≤ m.endU)) = false
    rw [notStuck, ends.1, ends.2]
    rfl
  have kept : t3 = t2 := if_neg (by rw [fine]; exact Bool.noConfusion)
  have power : p = u * i := by
    have plain : p0 = u * i := by
      change u * i - (if s.flag F.ASY_PT_CFG_CLC n then i * i * s.rCbl n else 0) = u * i
      rw [if_neg (Bool.eq_false_iff.mp clc), sub_zero]
    exact (if_neg (Bool.eq_false_iff.mp dir)).trans plain
  have healthy : (t3.flag F.ASY_PT_STAT_METER_FAULT n || !s.asy.metered) = false := by
    rw [kept, (regsKept_of_regs (rs := []) taken.regs).flag (by simp) n, fault, metered]
    rfl
  have range_ : (atEnd vi || atEnd vu) = false := by rw [inI, inU]; rfl
  refine ⟨t2, taken, ?_⟩
  rw [if_neg (Bool.eq_false_iff.mp healthy), range_, ← kept, power]

/-- BELOW_START at a point, and its other status. -/
theorem State.belowStart_set (s : State) (n : Nat) (low : Bool) : (s.setFlag F.ASY_PT_STAT_BELOW_START n low).flag F.ASY_PT_STAT_BELOW_START n = low
    ∧ RegsKept [.ASY_PT_STAT] s (s.setFlag F.ASY_PT_STAT_BELOW_START n low) := by simp

/-- A booking in range leaves BELOW_START. -/
theorem State.overrange_false (s : State) (n : Nat) : (s.overrange n false).flag F.ASY_PT_STAT_BELOW_START n = s.flag F.ASY_PT_STAT_BELOW_START n
    ∧ RegsKept [.ASY_PT_STAT] s (s.overrange n false) ∧ (s.overrange n false).asy = s.asy := by
  have set : (s.setFlag F.ASY_PT_STAT_OVERRANGE n false).flag F.ASY_PT_STAT_BELOW_START n = s.flag F.ASY_PT_STAT_BELOW_START n
      ∧ RegsKept [.ASY_PT_STAT] s (s.setFlag F.ASY_PT_STAT_OVERRANGE n false) := by simp
  exact ⟨set.1, set.2, rfl⟩

theorem State.belowStart_congr (same : t.reg .ASY_PT_STAT n = s.reg .ASY_PT_STAT n) :
    t.flag F.ASY_PT_STAT_BELOW_START n = s.flag F.ASY_PT_STAT_BELOW_START n := by
  rw [State.flag, State.flag, State.fld, State.fld]
  change decide (F.ASY_PT_STAT_BELOW_START.of (t.reg .ASY_PT_STAT n) ≠ 0) = _
  rw [same]

theorem PointKept.belowStart (h : PointKept s t) (small : n < 32) : t.flag F.ASY_PT_STAT_BELOW_START n = s.flag F.ASY_PT_STAT_BELOW_START n :=
  State.belowStart_congr (h.status n small)

/-- Import and export of a point that meters both directions. -/
theorem State.imported_signed (mode : s.flag F.ASY_PT_CFG_MODE n = false) (e : Rat) : s.imported n e = if 0 ≤ e then quantum e else 0 := by
  unfold State.imported
  rw [mode, Bool.false_or]
  by_cases sign : 0 ≤ e
  · rw [if_pos (decide_eq_true sign), if_pos sign, abs_of_nonneg sign]
  · rw [if_neg (by simpa using sign), if_neg sign]

theorem State.exported_signed (mode : s.flag F.ASY_PT_CFG_MODE n = false) (e : Rat) : s.exported n e = if 0 ≤ e then 0 else quantum (-e) := by
  unfold State.exported
  rw [mode, Bool.false_or]
  by_cases sign : 0 ≤ e
  · rw [if_pos (decide_eq_true sign), if_pos sign]
  · rw [if_neg (by simpa using sign), if_neg sign, abs_of_neg (lt_of_not_ge sign)]

theorem grained_ite {p : Prop} [Decidable p] {x y : Rat} (yes : Grained x) (no : Grained y) : Grained (if p then x else y) := by
  split
  · exact yes
  · exact no

/-- A booking at the present instant of a point that meters both directions. -/
theorem State.book_booked (s : State) {e : Rat} {tariff : Nat} (small : n < 32) (tariffs : tariff < 16) (mode : s.flag F.ASY_PT_CFG_MODE n = false)
    (a : Fits (s.meterAcc n 0 + if 0 ≤ e then quantum e else 0)) (b : Fits (s.meterAcc n 1 + if 0 ≤ e then 0 else quantum (-e)))
    (c : Fits (s.treg n tariff 0 + if 0 ≤ e then quantum e else 0)) (d : Fits (s.treg n tariff 1 + if 0 ≤ e then 0 else quantum (-e))) :
    Booked n tariff (if 0 ≤ e then quantum e else 0) (if 0 ≤ e then 0 else quantum (-e)) s (s.book n e tariff none)
    ∧ (s.book n e tariff none).flag F.ASY_PT_STAT_BELOW_START n = s.flag F.ASY_PT_STAT_BELOW_START n := by
  rw [s.book_none, State.imported_signed mode, State.exported_signed mode]
  obtain ⟨import_, export_, tariffImport, tariffExport, status⟩ :=
    s.bookAmounts_booked small (grained_ite (grained_quantum e) grained_zero) (grained_ite grained_zero (grained_quantum (-e))) a b c d
  generalize (if 0 ≤ e then quantum e else 0) = imp at import_ export_ tariffImport tariffExport status ⊢
  generalize (if 0 ≤ e then 0 else quantum (-e)) = exp_ at import_ export_ tariffImport tariffExport status ⊢
  generalize s.bookAmounts n tariff imp exp_ = v at import_ export_ tariffImport tariffExport status ⊢
  have rest := (v.bookCredit_point s n imp).trans (State.bookPulses_point _ s n imp exp_)
  generalize (v.bookCredit s n imp).bookPulses s n imp exp_ = w at rest ⊢
  have energy := rest.toEnergyKept
  have below : v.flag F.ASY_PT_STAT_BELOW_START n = s.flag F.ASY_PT_STAT_BELOW_START n := State.belowStart_congr (status n small)
  exact ⟨⟨(energy.meterAcc small (by decide)).trans import_, (energy.meterAcc small (by decide)).trans export_,
    (energy.treg small tariffs (by decide)).trans tariffImport, (energy.treg small tariffs (by decide)).trans tariffExport,
    fun k within => (rest.status k within).trans (status k within)⟩, (rest.belowStart small).trans below⟩

/-! ### The sample of the one point in use (R220) -/

theorem State.scaled_congr (regs : t.regs = s.regs) (c : Nat) (code : Int) : t.scaled c code = s.scaled c code := by
  unfold State.scaled State.gain State.fld State.reg
  rw [regs]

theorem energyKept_same (regs : t.regs = s.regs) (frac : t.asy.frac = s.asy.frac) : EnergyKept s t :=
  .ofRegs (rs := []) (regsKept_of_regs regs) (by simp) frac

/-- The outcome of a sample for its point. -/
structure SampleBooked (n : Nat) (i e : Rat) (s t : State) : Prop where
  low : |i| < (s.fld F.ASY_PT_START_START n : Rat) / 100 → t.flag F.ASY_PT_STAT_BELOW_START n = true
    ∧ t.meterAcc n 0 = s.meterAcc n 0 ∧ t.meterAcc n 1 = s.meterAcc n 1
  booked : (s.fld F.ASY_PT_START_START n : Rat) / 100 ≤ |i| →
    Fits (s.meterAcc n 0 + if 0 ≤ e then quantum e else 0) → Fits (s.meterAcc n 1 + if 0 ≤ e then 0 else quantum (-e)) →
    Fits (s.treg n (s.tariff n) 0 + if 0 ≤ e then quantum e else 0) → Fits (s.treg n (s.tariff n) 1 + if 0 ≤ e then 0 else quantum (-e)) →
      t.flag F.ASY_PT_STAT_BELOW_START n = false ∧ t.meterAcc n 0 = s.meterAcc n 0 + (if 0 ≤ e then quantum e else 0)
      ∧ t.meterAcc n 1 = s.meterAcc n 1 + (if 0 ≤ e then 0 else quantum (-e))
      ∧ t.treg n (s.tariff n) 0 = s.treg n (s.tariff n) 0 + (if 0 ≤ e then quantum e else 0)
      ∧ t.treg n (s.tariff n) 1 = s.treg n (s.tariff n) 1 + (if 0 ≤ e then 0 else quantum (-e))

theorem SampleBooked.kept {i e : Rat} (h : SampleBooked n i e s u) (k : PointKept u t) (small : n < 32) : SampleBooked n i e s t := by
  have energy := k.toEnergyKept
  have tariffs : s.tariff n < 16 := s.fld_lt F.ASY_TARIFF_ACTIVE n
  have below := k.belowStart small
  refine ⟨fun low => ?_, fun high a b c d => ?_⟩
  · obtain ⟨set, first, second⟩ := h.low low
    exact ⟨below.trans set, (energy.meterAcc small (by decide)).trans first, (energy.meterAcc small (by decide)).trans second⟩
  · obtain ⟨clear, first, second, third, fourth⟩ := h.booked high a b c d
    exact ⟨below.trans clear, (energy.meterAcc small (by decide)).trans first, (energy.meterAcc small (by decide)).trans second,
      (energy.treg small tariffs (by decide)).trans third, (energy.treg small tariffs (by decide)).trans fourth⟩

theorem dcSample_booked {x : MeterSample} (small : n < 32) (metered : s.asy.metered = true) (fault : s.flag F.ASY_PT_STAT_METER_FAULT n = false)
    (mode : s.flag F.ASY_PT_CFG_MODE n = false) (dir : s.flag F.ASY_PT_CFG_DIR n = false) (clc : s.flag F.ASY_PT_CFG_CLC n = false)
    (freeI : s.fld F.ASY_PT_CFG_I_MOD n ∉ x.stuck) (freeU : s.fld F.ASY_PT_CFG_U_MOD n ∉ x.stuck)
    (inI : atEnd (x.mods.getD (s.fld F.ASY_PT_CFG_I_MOD n) 0) = false) (inU : atEnd (x.mods.getD (s.fld F.ASY_PT_CFG_U_MOD n) 0) = false) :
    SampleBooked n (s.scaled (s.fld F.ASY_PT_CFG_I_MOD n) (x.mods.getD (s.fld F.ASY_PT_CFG_I_MOD n) 0))
      (s.scaled (s.fld F.ASY_PT_CFG_U_MOD n) (x.mods.getD (s.fld F.ASY_PT_CFG_U_MOD n) 0)
        * s.scaled (s.fld F.ASY_PT_CFG_I_MOD n) (x.mods.getD (s.fld F.ASY_PT_CFG_I_MOD n) 0) * 5 / 288) s (s.dcSample x n) := by
  obtain ⟨u, ⟨regs, m, d, asy⟩, eq⟩ := s.dcSample_good metered fault dir clc freeI freeU inI inU
  rw [eq]
  dsimp only
  generalize s.scaled (s.fld F.ASY_PT_CFG_I_MOD n) (x.mods.getD (s.fld F.ASY_PT_CFG_I_MOD n) 0) = i
  generalize s.scaled (s.fld F.ASY_PT_CFG_U_MOD n) (x.mods.getD (s.fld F.ASY_PT_CFG_U_MOD n) 0) * i * 5 / 288 = e
  have tariffs : s.tariff n < 16 := s.fld_lt F.ASY_TARIFF_ACTIVE n
  have first : EnergyKept s u := energyKept_same regs (by rw [asy])
  by_cases low : |i| < (s.fld F.ASY_PT_START_START n : Rat) / 100
  · rw [decide_eq_true low, if_pos rfl]
    obtain ⟨set, kept⟩ := u.belowStart_set n true
    have energy := first.trans (.ofRegs (t := u.setFlag F.ASY_PT_STAT_BELOW_START n true) kept (by decide) rfl)
    exact ⟨fun _ => ⟨set, energy.meterAcc small (by decide), energy.meterAcc small (by decide)⟩, fun high => absurd low (not_lt.mpr high)⟩
  · rw [decide_eq_false low, if_neg Bool.noConfusion]
    obtain ⟨set, kept⟩ := u.belowStart_set n false
    have second := first.trans (.ofRegs (t := u.setFlag F.ASY_PT_STAT_BELOW_START n false) kept (by decide) rfl)
    have plain : (u.setFlag F.ASY_PT_STAT_BELOW_START n false).flag F.ASY_PT_CFG_MODE n = false :=
      (kept.flag (by decide) n).trans (((regsKept_of_regs (rs := []) regs).flag (by simp) n).trans mode)
    generalize u.setFlag F.ASY_PT_STAT_BELOW_START n false = v at set second plain ⊢
    obtain ⟨below, range_, same⟩ := v.overrange_false n
    have third := second.trans (.ofRegs range_ (by decide) (by rw [same]))
    have plain' : (v.overrange n false).flag F.ASY_PT_CFG_MODE n = false := (range_.flag (by decide) n).trans plain
    generalize v.overrange n false = w at below third plain' ⊢
    have acc0 := third.meterAcc small (q := 0) (by decide)
    have acc1 := third.meterAcc small (q := 1) (by decide)
    have treg0 := third.treg small tariffs (q := 0) (by decide)
    have treg1 := third.treg small tariffs (q := 1) (by decide)
    refine ⟨fun short => absurd short low, fun _ a b c d => ?_⟩
    rw [← acc0] at a
    rw [← acc1] at b
    rw [← treg0] at c
    rw [← treg1] at d
    obtain ⟨⟨import_, export_, tariffImport, tariffExport, -⟩, status⟩ := w.book_booked small tariffs plain' a b c d
    exact ⟨status.trans (below.trans set), import_.trans (by rw [acc0]), export_.trans (by rw [acc1]), tariffImport.trans (by rw [treg0]),
      tariffExport.trans (by rw [treg1])⟩

theorem State.nextSample_point (s : State) : PointKept s (s.onAsy fun a => { a with now := a.now + 125 }) :=
  .ofRegs (rs := []) (regsKept_of_regs (s.onAsy_regs _)) (by simp) rfl

theorem State.sampleC_only (s : State) (code : Int) : (s.sampleC code).regs = s.regs ∧ (s.sampleC code).asy.frac = s.asy.frac
    ∧ (s.sampleC code).asy.metered = s.asy.metered := ⟨rfl, rfl, rfl⟩

theorem State.driftStep_only (s : State) : ∃ a b c d e f, s.driftStep.asy =
    { s.asy with driftAt := a, driftStroke := b, driftPeriod := c, driftSeen := d, driftMixed := e, driftDone := f } := by
  unfold State.driftStep
  extract_lets a mixed b t c
  split
  · exact ⟨_, _, _, _, _, _, rfl⟩
  · exact ⟨_, _, _, _, _, _, rfl⟩

theorem State.filter_ptOn (s : State) (small : n < 32) (one : ∀ k < 34, s.ptOn k = decide (k = n)) : (List.range 32).filter s.ptOn = [n] := by
  have same : (List.range 32).filter s.ptOn = (List.range 32).filter (· == n) :=
    List.filter_congr fun k listed => by rw [one k (by have := List.mem_range.mp listed; omega)]; rfl
  rw [same, List.filter_beq, List.count_eq_one_of_mem List.nodup_range (List.mem_range.mpr small)]
  rfl


/-- A booking leaves the configuration of the points. -/
theorem State.booking_config (u : State) (n : Nat) (low : Bool) (e : Rat) (tariff k : Nat) :
    (if low then u.setFlag F.ASY_PT_STAT_BELOW_START n low else ((u.setFlag F.ASY_PT_STAT_BELOW_START n low).overrange n false).book n e tariff none).reg
      .ASY_PT_CFG k = u.reg .ASY_PT_CFG k := by
  obtain ⟨-, kept⟩ := u.belowStart_set n low
  have first := kept .ASY_PT_CFG k (by decide)
  generalize u.setFlag F.ASY_PT_STAT_BELOW_START n low = v at first ⊢
  split
  · exact first
  · obtain ⟨-, range_, -⟩ := v.overrange_false n
    have second := (range_ .ASY_PT_CFG k (by decide)).trans first
    generalize v.overrange n false = w at second ⊢
    rw [w.book_none]
    have rest := ((State.bookCredit_point (w.bookAmounts n tariff (w.imported n e) (w.exported n e)) w n (w.imported n e)).trans
      (State.bookPulses_point _ w n (w.imported n e) (w.exported n e))).toEnergyKept
    exact (rest.regs _ (by decide) k).trans ((w.bookAmounts_apart n _ _ _ (by decide) k).trans second)

theorem dcSample_config {x : MeterSample} (metered : s.asy.metered = true) (fault : s.flag F.ASY_PT_STAT_METER_FAULT n = false)
    (dir : s.flag F.ASY_PT_CFG_DIR n = false) (clc : s.flag F.ASY_PT_CFG_CLC n = false)
    (freeI : s.fld F.ASY_PT_CFG_I_MOD n ∉ x.stuck) (freeU : s.fld F.ASY_PT_CFG_U_MOD n ∉ x.stuck)
    (inI : atEnd (x.mods.getD (s.fld F.ASY_PT_CFG_I_MOD n) 0) = false) (inU : atEnd (x.mods.getD (s.fld F.ASY_PT_CFG_U_MOD n) 0) = false) (k : Nat) :
    (s.dcSample x n).reg .ASY_PT_CFG k = s.reg .ASY_PT_CFG k := by
  obtain ⟨u, ⟨regs, m, d, asy⟩, eq⟩ := s.dcSample_good metered fault dir clc freeI freeU inI inU
  rw [eq]
  have first : u.reg .ASY_PT_CFG k = s.reg .ASY_PT_CFG k := by rw [State.reg, State.reg, regs]
  exact (u.booking_config n _ _ _ k).trans first

/-- A sample's outcome seen from a state with the same registers and residues. -/
theorem SampleBooked.before {i e : Rat} (h : SampleBooked n i e u t) (regs : u.regs = s.regs) (frac : u.asy.frac = s.asy.frac) : SampleBooked n i e s t := by
  have amounts (lo hi : Reg) (i key : Nat) : u.amount lo hi i key = s.amount lo hi i key := by
    unfold State.amount State.pair State.reg
    rw [regs, frac]
  have acc (q : Nat) : u.meterAcc n q = s.meterAcc n q := amounts _ _ _ _
  have treg (k q : Nat) : u.treg n k q = s.treg n k q := amounts _ _ _ _
  have flds (f : Fld) (i : Nat) : u.fld f i = s.fld f i := (regsKept_of_regs (rs := []) regs).fld (by simp) i
  have tariff : u.tariff n = s.tariff n := flds _ _
  obtain ⟨low, booked⟩ := h
  simp only [acc, treg, flds, tariff] at low booked
  exact ⟨low, booked⟩

theorem assaySample_booked {x : MeterSample} (metered : s.asy.metered = true) (pfw : x.pfw = false)
    (switches : ∀ w ∈ s.asy.switches, s.asy.now < 2 * w.at_) (boundary : s.asy.now < 2 * s.boundary) (small : n < 32) (one : ∀ k < 34, s.ptOn k = decide (k = n))
    (fault : s.flag F.ASY_PT_STAT_METER_FAULT n = false) (mode : s.flag F.ASY_PT_CFG_MODE n = false) (dir : s.flag F.ASY_PT_CFG_DIR n = false)
    (clc : s.flag F.ASY_PT_CFG_CLC n = false) (freeI : s.fld F.ASY_PT_CFG_I_MOD n ∉ x.stuck) (freeU : s.fld F.ASY_PT_CFG_U_MOD n ∉ x.stuck)
    (inI : atEnd (x.mods.getD (s.fld F.ASY_PT_CFG_I_MOD n) 0) = false) (inU : atEnd (x.mods.getD (s.fld F.ASY_PT_CFG_U_MOD n) 0) = false) :
    SampleBooked n (s.scaled (s.fld F.ASY_PT_CFG_I_MOD n) (x.mods.getD (s.fld F.ASY_PT_CFG_I_MOD n) 0))
      (s.scaled (s.fld F.ASY_PT_CFG_U_MOD n) (x.mods.getD (s.fld F.ASY_PT_CFG_U_MOD n) 0)
        * s.scaled (s.fld F.ASY_PT_CFG_I_MOD n) (x.mods.getD (s.fld F.ASY_PT_CFG_I_MOD n) 0) * 5 / 288) s (s.assaySample x) := by
  unfold State.assaySample
  extract_lets a ended b c d e f
  obtain ⟨regs0, now0, -⟩ := s.driftStep_clock
  obtain ⟨_, _, _, _, _, _, asy0⟩ := s.driftStep_only
  have idle : s.driftStep.NothingDue s.driftStep.asy.now := by
    have same : s.driftStep.boundary = s.boundary :=
      State.boundary_congr (regsKept_of_regs (rs := []) regs0) (by simp) (by simp) (by simp) (by rw [asy0]) (by rw [asy0])
    rw [now0]
    refine ⟨fun w listed => switches w ?_, same.symm ▸ boundary⟩
    rwa [asy0] at listed
  have taken : a = s.driftStep := State.takeAll_idle idle 0
  have metered' : a.asy.metered = true := by
    rw [taken, asy0]
    exact metered
  have notEnded : ended = false := by
    change (!a.asy.metered && !x.pfw) = false
    rw [metered']
    rfl
  obtain ⟨regs1, frac1, metered1⟩ : b.regs = a.regs ∧ b.asy.frac = a.asy.frac ∧ b.asy.metered = a.asy.metered := a.sampleC_only x.c
  have regs : b.regs = s.regs := by rw [regs1, taken, regs0]
  have frac : b.asy.frac = s.asy.frac := by rw [frac1, taken, asy0]
  have running : b.asy.metered = true := metered1.trans metered'
  have flds (f : Fld) (i : Nat) : b.fld f i = s.fld f i := (regsKept_of_regs (rs := []) regs).fld (by simp) i
  have flags (f : Fld) (i : Nat) : b.flag f i = s.flag f i := (regsKept_of_regs (rs := []) regs).flag (by simp) i
  have scaled (k : Nat) (v : Int) : b.scaled k v = s.scaled k v := State.scaled_congr regs k v
  have one' : c = b.dcSample x n := by
    have listed : (List.range 32).filter b.ptOn = [n] := b.filter_ptOn small fun k within => (flags _ _).trans (one k within)
    change b.each ((List.range 32).filter b.ptOn) _ = _
    rw [listed, State.each_cons, State.each_nil]
  simp only [← flds, ← flags] at fault mode dir clc freeI freeU inI inU
  have booked : SampleBooked n _ _ b c := one' ▸ dcSample_booked small running fault mode dir clc freeI freeU inI inU
  have off (k : Nat) (ac : k = 32 ∨ k = 33) : c.ptOn k = false := by
    have config := dcSample_config running fault dir clc freeI freeU inI inU k
    rw [← one'] at config
    have before : b.ptOn k = false := (flags _ _).trans ((one k (by omega)).trans (decide_eq_false (by omega)))
    rw [State.ptOn, State.flag, State.fld] at before ⊢
    change decide (F.ASY_PT_CFG_EN.of (c.reg .ASY_PT_CFG k) ≠ 0) = false
    rw [config]
    exact before
  have ac : PointKept c d := by
    have first := State.acSample_off (a := 0) (off 32 (.inl rfl)) x
    have still : (c.acSample x 0).ptOn 33 = false := by
      have same : (c.acSample x 0).reg .ASY_PT_CFG 33 = c.reg .ASY_PT_CFG 33 := first.regs _ _ (by decide) (by simp)
      have before := off 33 (.inr rfl)
      rw [State.ptOn, State.flag, State.fld] at before ⊢
      change decide (F.ASY_PT_CFG_EN.of ((c.acSample x 0).reg .ASY_PT_CFG 33) ≠ 0) = false
      rw [same]
      exact before
    have both : d = (c.acSample x 0).acSample x 1 := by
      change c.each [0, 1] _ = _
      rw [State.each_cons, State.each_cons, State.each_nil]
    rw [both]
    exact .ofAc (first.trans (State.acSample_off (a := 1) still x))
  have polled : PointKept d e := .each (fun o _ t => by
    split
    · exact t.discPoll_point o
    · exact .refl t) d
  have power : f = e := by
    change (if (e.asy.metered && x.pfw) = true then _ else if ended = true then _ else e) = e
    rw [pfw, notEnded, Bool.and_false, if_neg Bool.noConfusion, if_neg Bool.noConfusion]
  have moved : PointKept f (f.onAsy fun a => { a with now := a.now + 125 }) := f.nextSample_point
  rw [power] at moved ⊢
  have result := (booked.kept (ac.trans (polled.trans moved)) small).before regs frac
  simp only [flds, scaled] at result
  exact result

/-- Settles O37: the steps of a sample leave the counter, and the amounts of its one point are followed through its booking. -/
theorem samplesAreBooked : Obligations.SamplesAreBooked := by
  unfold Obligations.SamplesAreBooked
  refine ⟨fun s x up run_ => ?_, fun s x off => ?_, fun s x n up run_ metered pfw switches boundary small one fault mode dir clc => ?_⟩
  · have run : exec (.assaySample x) s = .next (s.assaySample x) := congrArg Host.Outcome.next ((State.live_runs up).trans (if_pos run_))
    exact ⟨_, run, s.assaySample_clock x⟩
  · have idle (u : State) (same : u = s) : s.live 5 u = s := by
      rw [same, State.live]
      split <;> rfl
    exact congrArg Host.Outcome.next (idle _ (if_neg (Bool.eq_false_iff.mp off)))
  · dsimp only
    intro freeI freeU inI inU
    have run : exec (.assaySample x) s = .next (s.assaySample x) := congrArg Host.Outcome.next ((State.live_runs up).trans (if_pos run_))
    obtain ⟨low, booked⟩ := assaySample_booked metered pfw switches boundary small one fault mode dir clc freeI freeU inI inU
    exact ⟨_, run, low, booked⟩

end Sys2Proof.Machine
end

section
/-! SUPPORT. The engine layer (file 05): when a slot runs, and what the model's writes to registers, accumulators and flags of an engine
are; each is a change of that engine alone, beside Scribe's counters. -/

namespace Sys2Proof.Machine

open Sys2Proof

variable {s t u : State} {e : Nat} {b : Option Nat} {g : Program} {f h : Engine → Engine}

/-! ### Engines -/

@[simp] theorem State.eng_onEng_same (s : State) (e : Nat) (f : Engine → Engine) : (s.onEng e f).eng e = f (s.eng e) := Arr.get_upd_same s.clf e f

theorem State.eng_onEng_other (s : State) {e i : Nat} (other : i ≠ e) (f : Engine → Engine) : (s.onEng e f).eng i = s.eng i :=
  Arr.get_upd_ne s.clf other f

/-! ### A change of one engine -/

theorem engineBecomes_on (s : State) (e : Nat) (f : Engine → Engine) : EngineBecomes s (s.onEng e f) e f :=
  ⟨s.eng_onEng_same e f, fun _ other => s.eng_onEng_other other f, rfl⟩

theorem engineBecomes_id (s : State) (e : Nat) : EngineBecomes s s e id := ⟨rfl, fun _ _ => rfl, rfl⟩

theorem EngineBecomes.trans (first : EngineBecomes s t e f) (second : EngineBecomes t u e h) : EngineBecomes s u e (fun x => h (f x)) := by
  obtain ⟨own, others, frame⟩ := first
  obtain ⟨own', others', frame'⟩ := second
  refine ⟨own'.trans (congrArg h own), fun i other => (others' i other).trans (others i other), ?_⟩
  rw [frame', frame]

/-- The same change in other words. -/
theorem EngineBecomes.as (becomes : EngineBecomes s t e f) (same : ∀ x, f x = h x) : EngineBecomes s t e h :=
  (funext same : f = h) ▸ becomes

theorem EngineBecomes.on (becomes : EngineBecomes s t e f) (h : Engine → Engine) : EngineBecomes s (t.onEng e h) e (fun x => h (f x)) :=
  becomes.trans (engineBecomes_on t e h)

theorem EngineBecomes.counted (becomes : EngineBecomes s t e f) (bank k n : Nat) : EngineBecomes s (t.count bank k n) e f :=
  becomes.trans (h := id) ⟨rfl, fun _ _ => rfl, rfl⟩

/-! ### Writes -/

theorem State.setK_becomes (s : State) (e r : Nat) (w : W32) : EngineBecomes s (s.setK e r w) e (wordTo r w) := by
  unfold State.setK
  split
  case isTrue zero => exact (engineBecomes_id s e).as fun x => by simp [wordTo, putReg, zero]
  case isFalse other => exact (engineBecomes_on s e _).as fun x => by simp [wordTo, putReg, other]

theorem EngineBecomes.ovf (becomes : EngineBecomes s t e f) (c : Bool) :
    EngineBecomes s (t.setOvf e c) e (fun x => { f x with ovf := (f x).ovf || c }) := becomes.on _

/-- R131, R132. -/
theorem State.putM_becomes (s : State) (e kd : Nat) (m : Int) : EngineBecomes s (s.putM e kd m) e (mantissaTo kd m false) :=
  ((s.setK_becomes e kd _).ovf _).as fun x => by rw [mantissaTo, Bool.or_false]; rfl

theorem State.putM_ovf_becomes (s : State) (e kd : Nat) (m : Int) (o : Bool) :
    EngineBecomes s ((s.putM e kd m).setOvf e o) e (mantissaTo kd m o) :=
  ((s.putM_becomes e kd m).ovf o).as fun x => by simp [mantissaTo]

/-- R133. -/
theorem State.putAcc_becomes (s : State) (e : Nat) (a : Bool) (v ea : Int) : EngineBecomes s (s.putAcc e a v ea) e (accTo a v ea false) :=
  (((engineBecomes_on s e _).on _).on _).as fun x => by rw [accTo, Bool.or_false]; cases a <;> rfl

theorem State.putAcc_ovf_becomes (s : State) (e : Nat) (a : Bool) (v ea : Int) (o : Bool) :
    EngineBecomes s ((s.putAcc e a v ea).setOvf e o) e (accTo a v ea o) :=
  ((s.putAcc_becomes e a v ea).ovf o).as fun x => by simp [accTo]

/-- R136. -/
theorem State.putF_becomes (s : State) (e kd : Nat) (r : FpRes) : EngineBecomes s (s.putF e kd r) e (floatTo kd r) :=
  (((s.setK_becomes e kd r.w).on _).on _).as fun _ => rfl

theorem State.putAccF_becomes (s : State) (e : Nat) (a : Bool) (r : FpRes) : EngineBecomes s (s.putAccF e a r) e (floatAccTo a r) :=
  (((engineBecomes_on s e _).on _).on _).as fun _ => rfl

theorem State.bf2_becomes (s : State) (e kd r1 r2 : Nat) (f : Int → Int → Int) : EngineBecomes s (s.bf2 e kd r1 r2 f) e
    (mantissaTo kd (f (s.aligned e r1 kd).1 (s.aligned e r2 kd).1) ((s.aligned e r1 kd).2 || (s.aligned e r2 kd).2)) :=
  (s.putM_ovf_becomes e kd _ _).counted _ _ _

theorem State.bf1_becomes (s : State) (e kd r : Nat) (f : Int → Int) : EngineBecomes s (s.bf1 e kd r f) e
    (mantissaTo kd (f (s.aligned e r kd).1) (s.aligned e r kd).2) :=
  (s.putM_ovf_becomes e kd _ _).counted _ _ _

/-! ### Slots -/

theorem fetches_slot (fetches : Fetches s e b g) (f : Program → State → State) : s.live 2 (s.slot e b f) =
    if reservedBundle ((issued s e b).fetched e) then (issued s e b).programStop e 2 else f g (issued s e b) := by
  obtain ⟨alive, found, running, inside, sound⟩ := fetches
  rw [State.live_runs alive]
  have issue : s.slot e b f = if g.codeLen ≤ ((issued s e b).eng e).bundle
      || (issued s e b).eccAt ((issued s e b).codeBase e + 8 * ((issued s e b).eng e).bundle) then (issued s e b).programStop e 3
      else if reservedBundle ((issued s e b).fetched e) then (issued s e b).programStop e 2 else f g (issued s e b) := by
    unfold State.slot
    rw [found]
    dsimp only
    rw [if_neg (not_not.mpr running)]
    cases b <;> rfl
  rw [issue, if_neg (by simp [sound]; exact inside)]

theorem slotRuns_slot (runs : SlotRuns s e b g) (f : Program → State → State) : s.live 2 (s.slot e b f) = f g (issued s e b) := by
  rw [fetches_slot runs.1, if_neg (by simp [runs.2])]

/-- What a slot's operation does with its engine, its command does. -/
theorem SlotRuns.becomes (runs : SlotRuns s e b g) {c : Instr} {f : Program → State → State} (spelt : exec c s = .next (s.live 2 (s.slot e b f)))
    {h : Engine → Engine} (becomes : EngineBecomes (issued s e b) (f g (issued s e b)) e h) :
    ∃ t, exec c s = .next t ∧ EngineBecomes (issued s e b) t e h :=
  ⟨_, spelt.trans (congrArg Host.Outcome.next (slotRuns_slot runs f)), becomes⟩

/-- A slot's operation that branches on the format, in a block-floating program. -/
theorem SlotRuns.fixed (runs : SlotRuns s e b g) (fmt : g.fmt = 0) {c : Instr} {p q : Program → State → State}
    (spelt : exec c s = .next (s.live 2 (s.slot e b fun g t => if g.fmt = 0 then p g t else q g t)))
    {h : Engine → Engine} (becomes : EngineBecomes (issued s e b) (p g (issued s e b)) e h) :
    ∃ t, exec c s = .next t ∧ EngineBecomes (issued s e b) t e h :=
  runs.becomes spelt (by rw [if_pos fmt]; exact becomes)

/-- The same in a binary32 program. -/
theorem SlotRuns.float (runs : SlotRuns s e b g) (fmt : g.fmt ≠ 0) {c : Instr} {p q : Program → State → State}
    (spelt : exec c s = .next (s.live 2 (s.slot e b fun g t => if g.fmt = 0 then p g t else q g t)))
    {h : Engine → Engine} (becomes : EngineBecomes (issued s e b) (q g (issued s e b)) e h) :
    ∃ t, exec c s = .next t ∧ EngineBecomes (issued s e b) t e h :=
  runs.becomes spelt (by rw [if_neg fmt]; exact becomes)

/-- An operation of the MAC slot, which is counted, in a block-floating program. -/
theorem SlotRuns.macFixed (runs : SlotRuns s e b g) (fmt : g.fmt = 0) {c : Instr} {p q : Program → State → State}
    (spelt : exec c s = .next (s.live 2 (s.slot e b fun g t => (if g.fmt = 0 then p g t else q g t).countMac e)))
    {h : Engine → Engine} (becomes : EngineBecomes (issued s e b) (p g (issued s e b)) e h) :
    ∃ t, exec c s = .next t ∧ EngineBecomes (issued s e b) t e h :=
  runs.becomes spelt (by rw [if_pos fmt]; exact becomes.counted _ _ _)

/-- The same in a binary32 program. -/
theorem SlotRuns.macFloat (runs : SlotRuns s e b g) (fmt : g.fmt ≠ 0) {c : Instr} {p q : Program → State → State}
    (spelt : exec c s = .next (s.live 2 (s.slot e b fun g t => (if g.fmt = 0 then p g t else q g t).countMac e)))
    {h : Engine → Engine} (becomes : EngineBecomes (issued s e b) (q g (issued s e b)) e h) :
    ∃ t, exec c s = .next t ∧ EngineBecomes (issued s e b) t e h :=
  runs.becomes spelt (by rw [if_neg fmt]; exact becomes.counted _ _ _)

/-- Settles O24: each operation of the MAC slot is one write of an accumulator, or of a register, of what the slot reads. -/
theorem blockFloatingMacSlot : Obligations.BlockFloatingMacSlot := by
  unfold Obligations.BlockFloatingMacSlot
  intro s e b g a ka kb imm runs fmt u p x
  refine ⟨runs.macFixed fmt rfl ?_, runs.macFixed fmt rfl ?_, runs.macFixed fmt rfl ?_, runs.macFixed fmt rfl ?_, runs.macFixed fmt rfl ?_,
    runs.macFixed fmt rfl ?_⟩
  case refine_6 =>
    have shift : u.accE e a - 46 - u.ke e ka + 23 = u.accE e a - 23 - u.ke e ka := by omega
    rw [shift]
    exact u.putM_becomes e ka _
  case refine_1 | refine_5 => exact u.putAcc_becomes e a _ _
  all_goals exact u.putAcc_ovf_becomes e a _ _ _

end Sys2Proof.Machine
end

section
/-! SUPPORT. The ALU slot (R132, R134, R139): NRM rewrites the registers of a stage one after another. -/

namespace Sys2Proof.Machine

open Sys2Proof

variable {s : State} {e : Nat}

/-- Registers of a list, each taking the word that it is given. -/
def wordsTo (l : List Nat) (w : Nat → W32) (x : Engine) : Engine := l.foldl (fun x r => wordTo r (w r) x) x

theorem State.setKs_becomes (s : State) (e : Nat) (l : List Nat) (w : Nat → W32) :
    EngineBecomes s (l.foldl (fun t r => t.setK e r (w r)) s) e (wordsTo l w) := by
  induction l generalizing s with
  | nil => exact engineBecomes_id s e
  | cons r l ih => exact (s.setK_becomes e r (w r)).trans (ih _)

theorem wordTo_ex (r : Nat) (w : W32) (x : Engine) : (wordTo r w x).now.ex = x.now.ex := by
  unfold wordTo putReg
  split <;> rfl

theorem wordTo_get (r j : Nat) (w : W32) (x : Engine) (notZero : j ≠ 0) :
    (wordTo r w x).now.k.get j = if j = r then w else x.now.k.get j := by
  unfold wordTo putReg
  by_cases same : j = r
  · subst same
    rw [if_neg notZero, if_pos rfl]
    exact Arr.get_set_same _ _ _
  · rw [if_neg same]
    split
    · rfl
    · exact Arr.get_set_ne _ same _

theorem wordsTo_ex (l : List Nat) (w : Nat → W32) (x : Engine) : (wordsTo l w x).now.ex = x.now.ex := by
  induction l generalizing x with
  | nil => rfl
  | cons r l ih => exact (ih _).trans (wordTo_ex r _ x)

theorem wordsTo_get (l : List Nat) (w : Nat → W32) (x : Engine) {j : Nat} (notZero : j ≠ 0) :
    (wordsTo l w x).now.k.get j = if j ∈ l then w j else x.now.k.get j := by
  induction l generalizing x with
  | nil => simp [wordsTo]
  | cons r l ih =>
    have step : (wordsTo (r :: l) w x).now.k.get j = if j ∈ l then w j else (wordTo r (w r) x).now.k.get j := ih _
    rw [step, wordTo_get r j _ x notZero]
    by_cases later : j ∈ l
    · simp [later]
    · by_cases same : j = r <;> simp [later, same]

/-! ### NRM (R134) -/

/-- The registers of a stage. -/
def stageRegs (st : Nat) : List Nat := (List.range 4).map fun j => 4 * st + j

theorem mem_stageRegs {st r : Nat} : r ∈ stageRegs st ↔ 4 * st ≤ r ∧ r < 4 * st + 4 := by
  simp only [stageRegs, List.mem_map, List.mem_range]
  constructor
  · rintro ⟨j, small, rfl⟩
    omega
  · exact fun ⟨low, high⟩ => ⟨r - 4 * st, by omega, by omega⟩

/-- The non-zero mantissas of a stage. -/
def State.stageMantissas (s : State) (e st : Nat) : List Int :=
  (((stageRegs st).filter fun r => decide (r ≠ 0)).map fun r => s.km e r).filter fun m => decide (m ≠ 0)

@[simp] theorem State.km_zero (s : State) (e : Nat) : s.km e 0 = 0 := by
  have zero : s.k e 0 = 0 := if_pos rfl
  rw [State.km, zero]
  decide

theorem State.stageMantissas_eq_nil {st : Nat} : s.stageMantissas e st = [] ↔ ∀ r, 4 * st ≤ r → r < 4 * st + 4 → s.km e r = 0 := by
  have all : s.stageMantissas e st = [] ↔ ∀ r ∈ stageRegs st, r ≠ 0 → s.km e r = 0 := by
    simp only [State.stageMantissas, List.filter_eq_nil_iff, List.mem_map, List.mem_filter, decide_eq_true_eq, not_not]
    exact ⟨fun zeros r listed notZero => zeros _ ⟨r, ⟨listed, notZero⟩, rfl⟩,
      fun zeros m ⟨r, ⟨listed, notZero⟩, same⟩ => same ▸ zeros r listed notZero⟩
  rw [all]
  constructor
  · intro zeros r low high
    by_cases zero : r = 0
    · rw [zero, s.km_zero]
    · exact zeros r (mem_stageRegs.mpr ⟨low, high⟩) zero
  · intro zeros r listed _
    obtain ⟨low, high⟩ := mem_stageRegs.mp listed
    exact zeros r low high

/-- The word that NRM writes to a register of its stage. -/
def normWord (s : State) (e st h r : Nat) : W32 := bfWord (scaleRound (s.km e r) (normShift s e st h)) 0

/-- An engine takes an exponent of a stage, and EXP where the shift was cut short. -/
def stageTo (st : Nat) (x : Int) (c : Bool) (y : Engine) : Engine :=
  { y with now := { y.now with ex := y.now.ex.set st x }, exp := y.exp || c }

theorem stageTo_k (st : Nat) (x : Int) (c : Bool) (y : Engine) : (stageTo st x c y).now.k = y.now.k := rfl

theorem stageTo_ex (st : Nat) (x : Int) (c : Bool) (y : Engine) : (stageTo st x c y).now.ex.get st = x := Arr.get_set_same _ _ _

theorem State.stageTo_becomes (s : State) (e st : Nat) (x : Int) (c : Bool) :
    EngineBecomes s ((s.onRegs e fun y => { y with ex := y.ex.set st x }).setExp e c) e (stageTo st x c) :=
  (engineBecomes_on s e _).on _

/-- What NRM makes of an engine whose stage has a non-zero mantissa. -/
def normTo (s : State) (e st h : Nat) (c : Bool) (x : Engine) : Engine :=
  stageTo st ((s.eng e).seen.ex.get st - normShift s e st h) c (wordsTo (stageRegs st) (normWord s e st h) x)

theorem normTo_ex (s : State) (e st h : Nat) (c : Bool) (x : Engine) :
    (normTo s e st h c x).now.ex.get st = (s.eng e).seen.ex.get st - normShift s e st h := by
  rw [normTo, stageTo_ex]

theorem normTo_get (s : State) (e st h : Nat) (c : Bool) (x : Engine) {r : Nat} (notZero : r ≠ 0) :
    (normTo s e st h c x).now.k.get r = if 4 * st ≤ r ∧ r < 4 * st + 4 then normWord s e st h r else x.now.k.get r := by
  rw [normTo, stageTo_k, wordsTo_get (stageRegs st) _ x notZero]
  simp only [mem_stageRegs]

theorem State.normalise_zero {st : Nat} (h : Nat) (zeros : ∀ r, 4 * st ≤ r → r < 4 * st + 4 → s.km e r = 0) : s.normalise e st h = s :=
  if_pos (State.stageMantissas_eq_nil.mpr zeros)

/-- The left shift of NRM before the exponent stops it. -/
def State.stageRoom (s : State) (e st h : Nat) : Int := (s.stageMantissas e st).foldl (fun x m => min x (signBits m)) 23 - (h : Int)

theorem State.normalise_some {st : Nat} (h : Nat) (listed : s.stageMantissas e st ≠ []) : s.normalise e st h =
    (((stageRegs st).foldl (fun t r => t.setK e r (normWord s e st h r)) s).onRegs e fun x =>
      { x with ex := x.ex.set st ((s.eng e).seen.ex.get st - normShift s e st h) }).setExp e
      (decide (s.stageRoom e st h < 0 ∧ normShift s e st h ≠ s.stageRoom e st h)) := if_neg listed

theorem State.normalise_becomes {st : Nat} (h : Nat) (some : ∃ r, 4 * st ≤ r ∧ r < 4 * st + 4 ∧ s.km e r ≠ 0) :
    ∃ c, EngineBecomes s (s.normalise e st h) e (normTo s e st h c) := by
  obtain ⟨r, low, high, notZero⟩ := some
  have listed : s.stageMantissas e st ≠ [] := fun none => notZero (State.stageMantissas_eq_nil.mp none r low high)
  rw [State.normalise_some h listed]
  exact ⟨_, (s.setKs_becomes e (stageRegs st) _).trans (State.stageTo_becomes _ e st _ _)⟩

/-- What O25 says of NRM. -/
structure Normalised (u t : State) (e st h : Nat) : Prop where
  frame : t = { u with clf := t.clf, scb := t.scb }
  others : ∀ i, i ≠ e → t.eng i = u.eng i
  zero : (∀ r, 4 * st ≤ r → r < 4 * st + 4 → u.km e r = 0) → t.eng e = u.eng e
  shifted : (∃ r, 4 * st ≤ r ∧ r < 4 * st + 4 ∧ u.km e r ≠ 0) →
    (∀ r, r ≠ 0 → (t.eng e).now.k.get r = if 4 * st ≤ r ∧ r < 4 * st + 4 then bfWord (scaleRound (u.km e r) (normShift u e st h)) 0
      else (u.eng e).now.k.get r)
    ∧ (t.eng e).now.ex.get st = (u.eng e).seen.ex.get st - normShift u e st h

theorem State.normalise_spec (u : State) (e st h : Nat) : Normalised u ((u.normalise e st h).countAlu e) e st h := by
  by_cases zeros : ∀ r, 4 * st ≤ r → r < 4 * st + 4 → u.km e r = 0
  · rw [State.normalise_zero h zeros]
    obtain ⟨own, others, frame⟩ := (engineBecomes_id u e).counted (3 + e / 8) (e % 8 * 16 + 6) 1
    exact ⟨frame, others, fun _ => own, fun ⟨r, low, high, notZero⟩ => absurd (zeros r low high) notZero⟩
  · have some : ∃ r, 4 * st ≤ r ∧ r < 4 * st + 4 ∧ u.km e r ≠ 0 := by
      push Not at zeros
      exact zeros
    obtain ⟨c, becomes⟩ := State.normalise_becomes (s := u) (e := e) h some
    obtain ⟨own, others, frame⟩ := becomes.counted (3 + e / 8) (e % 8 * 16 + 6) 1
    exact ⟨frame, others, fun all => absurd all zeros, fun _ => ⟨fun r notZero => own ▸ normTo_get u e st h c _ notZero,
      own ▸ normTo_ex u e st h c _⟩⟩

theorem State.pickK_lower (s : State) (e p q : Nat) : s.pickK true e p q = if (s.kval e q).lt (s.kval e p) then q else p := if_pos rfl

theorem State.pickK_upper (s : State) (e p q : Nat) : s.pickK false e p q = if (s.kval e p).lt (s.kval e q) then q else p :=
  if_neg Bool.false_ne_true

/-- Settles O25: each operation of the ALU slot is one write of what the slot reads; NRM writes the registers of its stage. -/
theorem blockFloatingAluSlot : Obligations.BlockFloatingAluSlot := by
  unfold Obligations.BlockFloatingAluSlot
  intro s e b g kd k1 k2 st h n runs fmt u x y pick lesser greater
  refine ⟨runs.fixed fmt rfl ?_, runs.fixed fmt rfl ?_, runs.fixed fmt rfl ?_, runs.fixed fmt rfl ?_, runs.fixed fmt rfl ?_,
    runs.fixed fmt rfl ?_, runs.fixed fmt rfl ?_, runs.fixed fmt rfl ?_, runs.fixed fmt rfl ?_, runs.fixed fmt rfl ?_,
    runs.fixed fmt rfl ?_, ?_, runs.becomes rfl ?_, runs.becomes rfl ?_⟩
  case refine_1 | refine_2 => exact u.bf2_becomes e kd k1 k2 _
  case refine_3 | refine_4 | refine_7 | refine_8 | refine_9 => exact u.bf1_becomes e kd _ _
  case refine_5 =>
    have picked : lesser (greater kd k1) k2 = u.pickK true e (u.pickK false e kd k1) k2 := by
      rw [State.pickK_lower, State.pickK_upper]
    show EngineBecomes u _ e (pick _)
    rw [picked]
    exact u.bf1_becomes e kd _ _
  case refine_6 =>
    by_cases negative : u.km e k2 < 0
    · rw [if_pos negative, if_pos negative]
      exact u.bf1_becomes e kd k1 _
    · rw [if_neg negative, if_neg negative]
      exact (engineBecomes_id u e).counted _ _ _
  case refine_10 => exact (u.putM_becomes e kd _).counted _ _ _
  case refine_11 => exact (engineBecomes_on u e _).counted _ _ _
  case refine_13 | refine_14 => exact (u.setK_becomes e kd _).counted _ _ _
  case refine_12 =>
    have ran : exec (.nrm e b st h) s = .next ((u.normalise e st h).countAlu e) :=
      congrArg Host.Outcome.next ((slotRuns_slot runs _).trans (if_pos fmt))
    obtain ⟨frame, others, zero, shifted⟩ := u.normalise_spec e st h
    exact ⟨_, ran, frame, others, zero, shifted⟩

end Sys2Proof.Machine
end

section
/-! SUPPORT. A stopped program (R142), and the slots of binary32 programs (R136). -/

namespace Sys2Proof.Machine

open Sys2Proof

variable {s : State} {e : Nat} {b : Option Nat} {g : Program}

/-! ### A stopped program -/

theorem State.tagLost_clf (s : State) (source : Nat) : (s.tagLost source).clf = s.clf := by
  unfold State.tagLost
  generalize (if source < 16 then 2 else 5) = k
  dsimp only
  generalize counted : s.count 15 k = t
  have same : t.clf = s.clf := counted ▸ rfl
  rw [← same]
  split <;> rfl

theorem State.tagDiscard_clf (s : State) (source : Nat) : (s.tagDiscard source).clf = s.clf := by
  unfold State.tagDiscard
  split
  · exact State.tagLost_clf _ source
  · rfl

/-- R142, R152, R155. -/
theorem State.discard_empties (s : State) (e : Nat) : ((s.discard e).eng e).held = [] ∧ ((s.discard e).eng e).pubs = [] := by
  have own : (s.discard e).eng e = ((s.flagsSeen e).onEng e fun g =>
      { g with held := [], pubs := [], fecs := [], ready := [], tripped := false }).eng e := by
    refine congrArg (Arr.get · e) ((State.tagDiscard_clf _ _).trans ?_)
    exact State.each_congr State.clf fun _ _ _ => rfl
  rw [own, State.eng_onEng_same]
  exact ⟨rfl, rfl⟩

theorem State.programStop_eq (s : State) (e cause : Nat) : ∃ frg, s.programStop e cause =
    { ((((s.discard e).stopProgram e cause).setFld F.CLF_ENG_PC_PC e (s.eng e).bundle).report 0x0402 e) with frg := frg } := by
  unfold State.programStop
  dsimp only
  generalize ((((s.discard e).stopProgram e cause).setFld F.CLF_ENG_PC_PC e (s.eng e).bundle).report 0x0402 e) = t
  by_cases fault : cause = 3
  · rw [if_pos fault]
    cases t.engineBay e with
    | none => exact ⟨_, rfl⟩
    | some b => exact ⟨(t.orderFault b).frg, rfl⟩
  · exact ⟨t.frg, if_neg fault⟩

theorem State.stopProgram_clf (s : State) (e cause : Nat) : (s.stopProgram e cause).clf = s.clf := by
  unfold State.stopProgram State.setStopped
  split <;> rfl

/-- R142: a program that an illegal operation or a memory fault stops. -/
theorem State.programStop_stopped (s : State) (e : Nat) {cause : Nat} (small : cause < 8) : ProgramStopped e cause (s.programStop e cause) := by
  obtain ⟨frg, whole⟩ := s.programStop_eq e cause
  obtain ⟨state, why, -⟩ := (s.discard e).stopProgram_spec e small
  obtain ⟨held, pubs⟩ := s.discard_empties e
  have clf := (s.discard e).stopProgram_clf e cause
  rw [whole]
  generalize (s.discard e).stopProgram e cause = t at *
  have kept : RegsKept [.CLF_ENG_PC] t { ((t.setFld F.CLF_ENG_PC_PC e (s.eng e).bundle).report 0x0402 e) with frg := frg } := by simp
  have own : ({ ((t.setFld F.CLF_ENG_PC_PC e (s.eng e).bundle).report 0x0402 e) with frg := frg } : State).eng e = (s.discard e).eng e :=
    congrArg (Arr.get · e) clf
  refine ⟨(kept.fld (by simp) e).trans state, (kept.fld (by simp) e).trans why, ?_, ?_, ?_⟩
  · rw [own, held]
  · rw [own, pubs]
  · exact List.mem_append_right _ (List.mem_singleton_self _)

/-- A slot's operation that stops the program does so as its command. -/
theorem SlotRuns.stops (runs : SlotRuns s e b g) {cause : Nat} (small : cause < 8) {c : Instr} {f : Program → State → State}
    (spelt : exec c s = .next (s.live 2 (s.slot e b f))) (stop : f g (issued s e b) = (issued s e b).programStop e cause) :
    ∃ t, exec c s = .next t ∧ ProgramStopped e cause t :=
  ⟨_, spelt.trans (congrArg Host.Outcome.next ((slotRuns_slot runs f).trans stop)), State.programStop_stopped _ e small⟩

/-! ### SELN (R136) -/

theorem seln_float_spelt (s : State) (e : Nat) (b : Option Nat) (kd k1 k2 : Nat) : ∃ q : Program → State → State,
    exec (.seln e b kd k1 k2) s = .next (s.live 2 (s.slot e b fun g t =>
      if g.fmt = 0 then (if t.km e k2 < 0 then t.bf1 e kd k1 (fun x => x) else t.countAlu e) else q g t))
    ∧ (∀ g t, fpOf true (t.k e k2) = .nan → q g t = (t.setInv e true).countAlu e)
    ∧ ∀ g t, fpOf true (t.k e k2) ≠ .nan → q g t = if fpLt (fpOf true (t.k e k2)) (.zero false) then
        (t.putF e kd (if fpOf true (t.k e k1) = .nan then .bad else ⟨fpFlush (t.k e k1), false, false⟩)).countAlu e
      else t.countAlu e := by
  refine ⟨_, rfl, fun g t nan => ?_, fun g t number => ?_⟩
  · rw [nan]
  · generalize fpOf true (t.k e k1) = z
    generalize fpOf true (t.k e k2) = y at number ⊢
    cases y with
    | nan => exact absurd rfl number
    | inf n => cases z <;> simp
    | zero n => cases z <;> simp
    | fin n m x => cases z <;> simp

/-- Settles O26: each operation is one write of the binary32 result of what the slot reads; NRM and SETE are illegal. -/
theorem binary32Slots : Obligations.Binary32Slots := by
  unfold Obligations.Binary32Slots
  intro s e b g a ka kb kd k1 k2 st h n runs fmt u
  obtain ⟨q, spelt, nan, number⟩ := seln_float_spelt s e b kd k1 k2
  refine ⟨runs.macFloat fmt rfl ?_, runs.macFloat fmt rfl ?_, runs.macFloat fmt rfl ?_, runs.macFloat fmt rfl ?_, runs.macFloat fmt rfl ?_,
    runs.macFloat fmt rfl ?_, runs.float fmt rfl ?_, runs.float fmt rfl ?_, runs.float fmt rfl ?_, runs.float fmt rfl ?_,
    runs.float fmt rfl ?_, runs.float fmt rfl ?_, runs.float fmt rfl ?_, fun invalid => runs.float fmt spelt ?_,
    fun valid => runs.float fmt spelt ?_, runs.becomes rfl ?_, runs.becomes rfl ?_, runs.float fmt rfl ?_, runs.float fmt rfl ?_,
    runs.stops (by decide) rfl (if_neg fmt), runs.stops (by decide) rfl (if_neg fmt)⟩
  case refine_1 | refine_2 | refine_3 | refine_4 | refine_5 => exact u.putAccF_becomes e a _
  case refine_6 => exact u.setK_becomes e ka _
  case refine_7 | refine_8 | refine_9 | refine_10 | refine_11 | refine_12 | refine_13 | refine_18 =>
    exact (u.putF_becomes e kd _).counted _ _ _
  case refine_16 | refine_17 | refine_19 => exact (u.setK_becomes e kd _).counted _ _ _
  case refine_14 =>
    rw [nan g _ invalid]
    exact ((engineBecomes_on u e _).counted _ _ _).as fun x => by rw [Bool.or_true]
  case refine_15 =>
    rw [number g _ valid]
    split
    · exact (u.putF_becomes e kd _).counted _ _ _
    · exact (engineBecomes_id u e).counted _ _ _

end Sys2Proof.Machine
end

section
/-! SUPPORT. The issue of a bundle, branches, WAIT and the marks for END (R125, R129, R137, R139). -/

namespace Sys2Proof.Machine

open Sys2Proof

variable {s : State} {e : Nat} {b : Option Nat} {g : Program}

/-! ### The issue (R125, R432) -/

/-- Scribe's records and the reported codes may change, nothing else. -/
def ScribeOnly (s t : State) : Prop := t = { s with scb := t.scb, reports := t.reports }

theorem ScribeOnly.refl (s : State) : ScribeOnly s s := rfl

theorem ScribeOnly.trans {s t u : State} (first : ScribeOnly s t) (second : ScribeOnly t u) : ScribeOnly s u := by
  unfold ScribeOnly at first second ⊢
  rw [second, first]

theorem State.tagLost_scribe (s : State) (source : Nat) : ScribeOnly s (s.tagLost source) := by
  unfold State.tagLost
  generalize (if source < 16 then 2 else 5) = k
  dsimp only
  have counted : ScribeOnly s (s.count 15 k) := rfl
  generalize s.count 15 k = t at counted ⊢
  refine counted.trans ?_
  split <;> rfl

theorem State.tagIssue_scribe (s : State) (source stroke pc : Nat) : ScribeOnly s (s.tagIssue source stroke pc) := by
  unfold State.tagIssue
  extract_lets src on n scb t seed
  have selected : ScribeOnly s t := rfl
  split
  · exact ScribeOnly.refl s
  · split
    · split
      · exact selected.trans (State.tagLost_scribe t source)
      · exact selected.trans rfl
    · exact selected

theorem ScribeOnly.clf {s t : State} (only : ScribeOnly s t) : t.clf = s.clf := by rw [only]
theorem ScribeOnly.regs {s t : State} (only : ScribeOnly s t) : t.regs = s.regs := by rw [only]
theorem ScribeOnly.mem {s t : State} (only : ScribeOnly s t) : t.mem = s.mem := by rw [only]
theorem ScribeOnly.ecc {s t : State} (only : ScribeOnly s t) : t.ecc = s.ecc := by rw [only]
theorem ScribeOnly.sys {s t : State} (only : ScribeOnly s t) : t.sys = s.sys := by rw [only]

/-- The engine with its next bundle issued, `k` all-zero bundles after the last. -/
def issueTo (k : Nat) (x : Engine) : Engine := { x with seen := x.now, bundle := x.after + k, after := x.after + k + 1 }

theorem State.newBundle_scribe (s : State) (e k : Nat) : ScribeOnly (s.onEng e (issueTo k)) (s.newBundle e k) :=
  ScribeOnly.trans (t := (s.onEng e (issueTo k)).count (3 + e / 8) (e % 8 * 16 + 1) (k + 1)) rfl (State.tagIssue_scribe _ _ _ _)

theorem State.newBundle_eng (s : State) (e k : Nat) : (s.newBundle e k).eng e = issueTo k (s.eng e) :=
  (congrArg (Arr.get · e) (s.newBundle_scribe e k).clf).trans (s.eng_onEng_same e _)

theorem State.newBundle_regs (s : State) (e k : Nat) : (s.newBundle e k).regs = s.regs := (s.newBundle_scribe e k).regs
theorem State.newBundle_mem (s : State) (e k : Nat) : (s.newBundle e k).mem = s.mem := (s.newBundle_scribe e k).mem
theorem State.newBundle_ecc (s : State) (e k : Nat) : (s.newBundle e k).ecc = s.ecc := (s.newBundle_scribe e k).ecc

/-! ### Branches -/

theorem State.jump_becomes (s : State) (e : Nat) (target : Int) : EngineBecomes s (s.jump e target) e (jumpTo true target) :=
  ((engineBecomes_on s e _).counted _ _ _).as fun _ => rfl

theorem State.branch_becomes (s : State) (e : Nat) (c : Bool) (ofs : Int) :
    EngineBecomes s (s.branch e c ofs) e (jumpTo c ((s.eng e).bundle + ofs)) := by
  unfold State.branch
  cases c with
  | true => exact (s.jump_becomes e _).counted _ _ _
  | false => exact (engineBecomes_id s e).counted _ _ _

/-- A slot's operation of a bundle with a reserved opcode stops the program (R142). -/
theorem Fetches.stops (fetches : Fetches s e b g) (reserved : reservedBundle ((issued s e b).fetched e) = true) {c : Instr}
    {f : Program → State → State} (spelt : exec c s = .next (s.live 2 (s.slot e b f))) : ∃ t, exec c s = .next t ∧ ProgramStopped e 2 t :=
  ⟨_, spelt.trans (congrArg Host.Outcome.next ((fetches_slot fetches f).trans (if_pos reserved))), State.programStop_stopped _ e (by decide)⟩

theorem wait_stalls {bit : Nat} (clear : bitOf (s.eng e).arrival (bit % 256) = false) : exec (.wait e b bit) s = .next s := by
  have idle : s.live 2 s = s := by
    unfold State.live
    split <;> rfl
  refine congrArg Host.Outcome.next ((congrArg (s.live 2) (if_neg ?_)).trans idle)
  rw [clear]
  exact Bool.false_ne_true

/-- Settles O27: an operation that does not write a register moves the next bundle or adds a mark. -/
theorem branchesWaitAndMarks : Obligations.BranchesWaitAndMarks := by
  unfold Obligations.BranchesWaitAndMarks
  refine ⟨fun s e k => ?_, rfl, by decide, fun s e b g c kd k1 k2 fetches reserved spells => ?_, fun s e b bit clear => wait_stalls clear,
    fun s e b g k1 r bit target ofs runs => ?_⟩
  · have own : (issued s e (some k)).eng e = issueTo k (s.eng e) := s.newBundle_eng e k
    rw [own]
    exact ⟨rfl, rfl, rfl, rfl, regsKept_of_regs (s.newBundle_regs e k), memKept_of_mem (s.newBundle_mem e k)⟩
  · obtain rfl | rfl | rfl := spells <;> exact fetches.stops reserved rfl
  · intro u i
    refine ⟨runs.becomes rfl ?_, runs.becomes rfl ?_, runs.becomes rfl ?_, runs.becomes rfl ?_, runs.becomes rfl ?_, runs.becomes rfl ?_,
      runs.becomes rfl ?_, fun arrived => ?_, runs.becomes rfl ?_, runs.becomes rfl ?_⟩
    case refine_1 | refine_2 | refine_3 | refine_4 | refine_5 | refine_6 => exact u.branch_becomes e _ ofs
    case refine_7 => exact (u.jump_becomes e _).counted _ _ _
    case refine_8 =>
      have spelt : exec (.wait e b bit) s = .next (s.live 2 (s.slot e b fun _ t => t.countAlu e)) :=
        congrArg (fun t => Host.Outcome.next (s.live 2 t)) (if_pos arrived)
      exact runs.becomes spelt ((engineBecomes_id u e).counted _ _ _)
    case refine_9 | refine_10 => exact (engineBecomes_on u e _).counted _ _ _

end Sys2Proof.Machine
end

section
/-! SUPPORT. The load/store slot (R128, R135, R140). -/

namespace Sys2Proof.Machine

open Sys2Proof

variable {s : State} {e : Nat} {b : Option Nat} {g : Program}

/-! ### A stop leaves memory -/

theorem State.flagsSeen_memKept (s : State) (e : Nat) : MemKept s (s.flagsSeen e) := by
  have counts (u : State) (c : Bool) (b k : Nat) : MemKept u (if c then u.count b k else u) := memKept_ite (memKept_of_mem rfl) (MemKept.refl u)
  have reported (u : State) (c : Bool) (f : Engine → Engine) (code : Nat) : MemKept u (if c then (u.onEng e f).report code e else u) :=
    memKept_ite (memKept_of_mem rfl) (MemKept.refl u)
  have any : MemKept s (s.setFld F.CLF_ENG_FLAGS_ANY e (s.fld F.CLF_ENG_FLAGS_ANY e ||| (s.eng e).flags)) := memKept_of_mem rfl
  exact ((((any.trans (reported _ _ _ _)).trans (reported _ _ _ _)).trans (counts _ _ _ _)).trans (counts _ _ _ _)).trans (counts _ _ _ _)

theorem State.tagDiscard_memKept (s : State) (source : Nat) : MemKept s (s.tagDiscard source) := by
  unfold State.tagDiscard
  refine memKept_ite (memKept_of_mem ?_) (MemKept.refl s)
  exact (State.tagLost_scribe _ source).mem

theorem State.discard_memKept (s : State) (e : Nat) : MemKept s (s.discard e) := by
  unfold State.discard
  dsimp only
  refine ((s.flagsSeen_memKept e).trans ?_).trans (State.tagDiscard_memKept _ _)
  exact MemKept.trans (memKept_of_mem rfl) (memKept_each (MemKept.refl _) fun r _ t => memKept_of_mem rfl)

theorem State.programStop_memKept (s : State) (e cause : Nat) : MemKept s (s.programStop e cause) := by
  obtain ⟨frg, whole⟩ := s.programStop_eq e cause
  rw [whole]
  refine (s.discard_memKept e).trans (memKept_of_mem ?_)
  unfold State.stopProgram State.setStopped
  split <;> rfl

/-! ### Stores -/

theorem State.storeAt_fixed {w : Nat} (small : w < 512) (v : W32) : s.storeAt e w v = s.programStop e 3 := if_pos (decide_eq_true small)

theorem State.storeAt_state {w : Nat} (above : 512 ≤ w) (below : w < 4608) (v : W32) :
    EngineBecomes s (s.storeAt e w v) e (fun x => { x with held := x.held.filter (fun c => decide (c.1 ≠ w)) ++ [(w, v)] }) := by
  have notFixed : ¬ wordFixed w = true := by simp [wordFixed, above]
  have state : wordState w = true := by simp [wordState, above, below]
  rw [State.storeAt, if_neg notFixed, if_pos state]
  exact (engineBecomes_on s e _).counted _ _ _

theorem State.storeAt_scratch {w : Nat} (above : 4608 ≤ w) (v : W32) : s.storeAt e w v = (s.setLe (engineWord e w) 4 v.toNat).countStore e := by
  have notFixed : ¬ wordFixed w = true := by
    simp [wordFixed]
    omega
  have notState : ¬ wordState w = true := by
    simp [wordState]
    omega
  rw [State.storeAt, if_neg notFixed, if_neg notState]

/-- What O29 says of a store to the scratch memory. -/
theorem State.scratchWritten (s : State) (e w : Nat) (v : W32) :
    (s.setLe (engineWord e w) 4 v.toNat).countStore e = { s with
      mem := ((s.setLe (engineWord e w) 4 v.toNat).countStore e).mem, ecc := ((s.setLe (engineWord e w) 4 v.toNat).countStore e).ecc,
      scb := ((s.setLe (engineWord e w) 4 v.toNat).countStore e).scb }
    ∧ ((s.setLe (engineWord e w) 4 v.toNat).countStore e).le (engineWord e w) 4 = v.toNat
    ∧ ∀ a, a < engineWord e w ∨ engineWord e w + 4 ≤ a → ((s.setLe (engineWord e w) 4 v.toNat).countStore e).byte a = s.byte a := by
  have frame := s.setLe_eq (engineWord e w) 4 v.toNat
  have bytes (t : State) (a : Nat) : (t.countStore e).byte a = t.byte a := rfl
  have words (t : State) (a n : Nat) : (t.countStore e).le a n = t.le a n :=
    congrArg leNat (bytes_of_mem (s := t) (t := t.countStore e) rfl a n)
  refine ⟨?_, ?_, fun a apart => (bytes _ a).trans (s.byte_setLe_outside _ apart)⟩
  · generalize s.setLe (engineWord e w) 4 v.toNat = t at frame ⊢
    rw [frame]
    rfl
  · exact (words _ _ _).trans ((s.le_setLe _ 4 _).trans (Nat.mod_eq_of_lt v.isLt))

theorem State.index_inside {kb : Nat} {ofs : Int} (low : 0 ≤ (s.k e kb).toInt + ofs) (high : (s.k e kb).toInt + ofs < 32768) :
    s.index e kb ofs = some ((s.k e kb).toInt + ofs).toNat := if_pos ⟨low, high⟩

theorem State.index_outside {kb : Nat} {ofs : Int} (out : (s.k e kb).toInt + ofs < 0 ∨ 32768 ≤ (s.k e kb).toInt + ofs) :
    s.index e kb ofs = none := if_neg fun ⟨low, high⟩ => by omega

theorem stx_spelt (s : State) (e : Nat) (b : Option Nat) (kd kb : Nat) (ofs : Int) : ∃ f : Program → State → State,
    exec (.stx e b kd kb ofs) s = .next (s.live 2 (s.slot e b f))
    ∧ (∀ g t w, t.index e kb ofs = some w → f g t = t.storeAt e w (t.word g e kd))
    ∧ ∀ g t, t.index e kb ofs = none → f g t = t.programStop e 3 :=
  ⟨_, rfl, fun g t w found => by rw [found], fun g t none => by rw [none]⟩

/-- A store as its command. -/
theorem SlotRuns.store (runs : SlotRuns s e b g) {c : Instr} {f : Program → State → State} (spelt : exec c s = .next (s.live 2 (s.slot e b f)))
    {w : Nat} {v : W32} (stores : f g (issued s e b) = (issued s e b).storeAt e w v) :
    exec c s = .next ((issued s e b).storeAt e w v) :=
  spelt.trans (congrArg Host.Outcome.next ((slotRuns_slot runs f).trans stores))

/-- Settles O29: what a store does depends on the range of its word. -/
theorem storesAreHeldWrittenOrStop : Obligations.StoresAreHeldWrittenOrStop := by
  unfold Obligations.StoresAreHeldWrittenOrStop
  intro s e b g kd kb addr ofs runs u i c w v command
  obtain ⟨f, spelt, inside, outside⟩ := stx_spelt s e b kd kb ofs
  have ran : exec c s = .next (u.storeAt e w v) := by
    obtain ⟨rfl, rfl, rfl⟩ | ⟨rfl, rfl, rfl⟩ | ⟨rfl, low, high, rfl, rfl⟩ := command
    · exact runs.store rfl rfl
    · exact runs.store rfl rfl
    · exact runs.store spelt (inside g u _ (State.index_inside low high))
  refine ⟨fun small => ⟨_, ran, ?_, ?_⟩, fun above below => ⟨_, ran, State.storeAt_state above below v⟩, fun above => ?_,
    fun out => runs.stops (by decide) spelt (outside g u (State.index_outside out))⟩
  · rw [State.storeAt_fixed small]
    exact State.programStop_stopped u e (by decide)
  · rw [State.storeAt_fixed small]
    exact u.programStop_memKept e 3
  · rw [State.storeAt_scratch above] at ran
    exact ⟨_, ran, u.scratchWritten e w v⟩

end Sys2Proof.Machine
end

section
/-! SUPPORT. Loads: a word of the engine's memory, an acquisition word or a point into a register (R135, R140, R319). -/

namespace Sys2Proof.Machine

open Sys2Proof

variable {s : State} {e : Nat} {b : Option Nat} {g : Program}

/-! ### Mantissas in range -/

theorem sat24_range (m : Int) : -(2 ^ 23) ≤ (sat24 m).1 ∧ (sat24 m).1 ≤ 2 ^ 23 - 1 := by
  show -(2 ^ 23) ≤ clampInt (-(2 ^ 23)) (2 ^ 23 - 1) m ∧ clampInt (-(2 ^ 23)) (2 ^ 23 - 1) m ≤ 2 ^ 23 - 1
  unfold clampInt
  split
  · omega
  · split <;> omega

theorem clampInt_inside {lo hi z : Int} (low : lo ≤ z) (high : z ≤ hi) : clampInt lo hi z = z := by
  rw [clampInt, if_neg (by omega), if_neg (by omega)]

/-- A mantissa in range is written as it is. -/
theorem mantissaTo_inside {m : Int} (low : -(2 ^ 23) ≤ m) (high : m ≤ 2 ^ 23 - 1) (kd : Nat) (o : Bool) (x : Engine) :
    mantissaTo kd m o x = { wordTo kd (bfWord m 0) x with ovf := x.ovf || o } := by
  have fits : decide (m < -(2 ^ 23) ∨ 2 ^ 23 - 1 < m) = false := decide_eq_false (by omega)
  rw [mantissaTo, clampInt_inside low high, fits, Bool.or_false]
  rfl

theorem alignBy_zero (cut : Nat) (x y : Int) : alignBy cut 0 x y = 0 := by
  unfold alignBy scaleRound
  split
  · rfl
  · split
    · exact Int.zero_mul _
    · have positive : 0 < (2 ^ (-(x - y)).toNat : Nat) := Nat.two_pow_pos _
      generalize (2 ^ (-(x - y)).toNat : Nat) = d at positive ⊢
      unfold roundDiv
      rw [Int.zero_emod, if_pos (by omega), Int.zero_ediv]

theorem align24_zero (x y : Int) : (align24 0 x y).2 = false := by
  rw [align24, alignBy_zero]
  decide

/-! ### Loads -/

theorem State.putWord_becomes (s : State) (g : Program) (e kd : Nat) (w : W32) : EngineBecomes s (s.putWord g e kd w) e
    (if g.fmt = 0 then mantissaTo kd (align24 (bfM w) (bfE w) (s.ke e kd)).1 (align24 (bfM w) (bfE w) (s.ke e kd)).2 else wordTo kd w) := by
  unfold State.putWord
  split
  · obtain ⟨low, high⟩ := sat24_range (alignBy 24 (bfM w) (bfE w) (s.ke e kd))
    exact ((s.setK_becomes e kd _).ovf _).as fun x => (mantissaTo_inside low high kd _ x).symm
  · exact s.setK_becomes e kd w

theorem State.loadAt_sound {a : Nat} (sound : s.eccAt a = false) (f : State → W32 → State) :
    s.loadAt e a f = (f s (BitVec.ofNat 32 (s.le a 4))).countLoad e := by
  rw [State.loadAt, sound]
  exact if_neg Bool.false_ne_true

theorem State.loadAt_faulty {a : Nat} (faulty : s.eccAt a = true) (f : State → W32 → State) : s.loadAt e a f = s.programStop e 3 :=
  if_pos faulty

theorem EngineBecomes.doubt {s t : State} {f : Engine → Engine} (becomes : EngineBecomes s t e f) (c : Bool) :
    EngineBecomes s (t.setQf e c) e (fun x => { f x with qf := (f x).qf || c }) := becomes.on _

theorem State.loadQ_becomes (s : State) (g : Program) (e kd addr : Nat) (w : W32) : EngineBecomes s (s.loadQ g e kd addr w) e
    (fun x => let y := (if g.fmt = 0 then mantissaTo kd (scaleRound (signed 18 w.toNat) (19 - s.ke e kd)) false
        else wordTo kd (fpOfDy true false ⟨signed 18 w.toNat, -4⟩).1) x
      { y with qf := y.qf || (decide (g.qthr ≤ w.toNat / 2 ^ 29) || (decide (addr < 256) && !bitOf (s.eng e).arrival addr)) }) := by
  unfold State.loadQ
  dsimp only
  refine EngineBecomes.doubt ?_ _
  split
  · exact s.putM_becomes e kd _
  · exact s.setK_becomes e kd _

/-! ### LDP (R140, R319) -/

/-- An exact number into a register, from a point. -/
def State.putNum (s : State) (g : Program) (e kd : Nat) (x : Dy) : State :=
  if g.fmt = 0 then (s.putWord g e kd (toBf x).1).setOvf e (toBf x).2 else (s.setK e kd (fpOfDy true false x).1).setOvf e (fpOfDy true false x).2

/-- The limit of a sign into a register, from a point. -/
def State.putTop (s : State) (g : Program) (e kd : Nat) (neg : Bool) : State :=
  if g.fmt = 0 then (s.putWord g e kd (bfWord (if neg then bfMin else bfMax) 127)).setOvf e true
  else s.setK e kd (if neg then 0xFF7FFFFF#32 else 0x7F7FFFFF#32)

theorem State.loadP_num {p : Nat} {x : Dy} (found : pointNum (s.pointType p) (s.point p).value = some (.num x)) (g : Program) (e kd : Nat) :
    s.loadP g e kd p = (s.putNum g e kd x).setQf e (s.pointDoubt g p) := by
  unfold State.loadP
  rw [found]
  rfl

theorem State.loadP_none {p : Nat} (found : pointNum (s.pointType p) (s.point p).value = none) (g : Program) (e kd : Nat) :
    s.loadP g e kd p = ((s.putNum g e kd ⟨0, 0⟩).setQf e true).setQf e (s.pointDoubt g p) := by
  unfold State.loadP
  rw [found]
  rfl

theorem State.loadP_inf {p : Nat} {n : Bool} (found : pointNum (s.pointType p) (s.point p).value = some (.inf n)) (g : Program) (e kd : Nat) :
    s.loadP g e kd p = ((s.putTop g e kd n).setQf e true).setQf e (s.pointDoubt g p) := by
  unfold State.loadP
  rw [found]
  rfl

theorem State.loadP_nan {p : Nat} (found : pointNum (s.pointType p) (s.point p).value = some .nan) (g : Program) (e kd : Nat) :
    s.loadP g e kd p = (((s.putTop g e kd (decide (s.fresh 1 = 1))).tick).setQf e true).setQf e (s.pointDoubt g p) := by
  unfold State.loadP
  rw [found]
  rfl

/-- What an engine takes from a number of a point. -/
def numTo (g : Program) (ed : Int) (kd : Nat) (x : Dy) : Engine → Engine :=
  if g.fmt = 0 then fun y => mantissaTo kd (align24 (bfM (toBf x).1) (bfE (toBf x).1) ed).1
      ((align24 (bfM (toBf x).1) (bfE (toBf x).1) ed).2 || (toBf x).2) y
    else fun y => { wordTo kd (fpOfDy true false x).1 y with ovf := y.ovf || (fpOfDy true false x).2 }

theorem State.putNum_becomes (s : State) (g : Program) (e kd : Nat) (x : Dy) :
    EngineBecomes s (s.putNum g e kd x) e (numTo g (s.ke e kd) kd x) := by
  unfold State.putNum numTo
  by_cases fmt : g.fmt = 0
  · rw [if_pos fmt, if_pos fmt]
    refine ((s.putWord_becomes g e kd _).ovf _).as fun y => ?_
    rw [if_pos fmt, mantissaTo, mantissaTo, ← Bool.or_assoc]
  · rw [if_neg fmt, if_neg fmt]
    exact (s.setK_becomes e kd _).ovf _

/-- A point without a number gives 0. -/
theorem numTo_zero (g : Program) (ed : Int) (kd : Nat) : numTo g ed kd ⟨0, 0⟩ =
    if g.fmt = 0 then mantissaTo kd (align24 (bfM (toBf ⟨0, 0⟩).1) (bfE (toBf ⟨0, 0⟩).1) ed).1 false else wordTo kd 0 := by
  have zero : bfM (toBf ⟨0, 0⟩).1 = 0 := by decide
  have whole : (toBf ⟨0, 0⟩).2 = false := rfl
  have word : fpOfDy true false ⟨0, 0⟩ = (0, false) := rfl
  unfold numTo
  rw [zero, align24_zero, whole, word, Bool.or_false]
  split
  · rfl
  · funext y
    rw [Bool.or_false]
    rfl

/-- What an engine takes from an infinity or a NaN of a point. -/
def topTo (g : Program) (ed : Int) (kd : Nat) (neg : Bool) : Engine → Engine :=
  if g.fmt = 0 then fun z =>
    let w := bfWord (if neg then bfMin else bfMax) 127
    { (if g.fmt = 0 then mantissaTo kd (align24 (bfM w) (bfE w) ed).1 (align24 (bfM w) (bfE w) ed).2 else wordTo kd w) z with ovf := true }
  else wordTo kd (if neg then 0xFF7FFFFF#32 else 0x7F7FFFFF#32)

theorem State.putTop_becomes (s : State) (g : Program) (e kd : Nat) (neg : Bool) :
    EngineBecomes s (s.putTop g e kd neg) e (topTo g (s.ke e kd) kd neg) := by
  unfold State.putTop topTo
  by_cases fmt : g.fmt = 0
  · rw [if_pos fmt, if_pos fmt]
    exact ((s.putWord_becomes g e kd _).ovf true).as fun y => by rw [Bool.or_true]
  · rw [if_neg fmt, if_neg fmt]
    exact s.setK_becomes e kd _

/-- QF that is set whatever else the point says. -/
theorem EngineBecomes.doubted {s t : State} {f : Engine → Engine} (becomes : EngineBecomes s t e f) (c : Bool) :
    EngineBecomes s ((t.setQf e true).setQf e c) e (fun x => { f x with qf := (f x).qf || true }) :=
  ((becomes.doubt true).doubt c).as fun x => by simp

theorem EngineBecomes.free {s t : State} {f : Engine → Engine} (becomes : EngineBecomes s t e f) :
    t = { s with clf := t.clf, scb := t.scb, freeCtr := t.freeCtr } := by
  obtain ⟨-, -, frame⟩ := becomes
  rw [frame]

/-- A free value taken between two changes of an engine. -/
theorem EngineBecomes.ticked {s t u : State} {f h : Engine → Engine} (first : EngineBecomes s t e f) (second : EngineBecomes t.tick u e h) :
    u.eng e = h (f (s.eng e)) ∧ (∀ i, i ≠ e → u.eng i = s.eng i) ∧ u = { s with clf := u.clf, scb := u.scb, freeCtr := u.freeCtr } := by
  obtain ⟨own, others, frame⟩ := first
  obtain ⟨own', others', frame'⟩ := second
  refine ⟨own'.trans (congrArg h own), fun i other => (others' i other).trans (others i other), ?_⟩
  rw [frame', frame]
  rfl

theorem ldx_spelt (s : State) (e : Nat) (b : Option Nat) (kd kb : Nat) (ofs : Int) : ∃ f : Program → State → State,
    exec (.ldx e b kd kb ofs) s = .next (s.live 2 (s.slot e b f))
    ∧ (∀ g t w, t.index e kb ofs = some w → f g t = t.loadAt e (engineWord e w) fun t v => t.putWord g e kd v)
    ∧ ∀ g t, t.index e kb ofs = none → f g t = t.programStop e 3 :=
  ⟨_, rfl, fun g t w found => by rw [found], fun g t none => by rw [none]⟩

/-- A load of a sound word, as its command. -/
theorem SlotRuns.loads (runs : SlotRuns s e b g) {c : Instr} {f : Program → State → State} (spelt : exec c s = .next (s.live 2 (s.slot e b f)))
    {a : Nat} {l : State → W32 → State} (load : f g (issued s e b) = (issued s e b).loadAt e a l) (sound : (issued s e b).eccAt a = false)
    {h : Engine → Engine} (becomes : EngineBecomes (issued s e b) (l (issued s e b) (BitVec.ofNat 32 ((issued s e b).le a 4))) e h) :
    ∃ t, exec c s = .next t ∧ EngineBecomes (issued s e b) t e h := by
  refine runs.becomes spelt ?_
  rw [load, State.loadAt_sound sound]
  exact becomes.counted _ _ _

/-- Settles O28: a load writes one register from what it finds, and QF; an illegal index and a faulty word stop the program. -/
theorem loadsReadTheEngineMemory : Obligations.LoadsReadTheEngineMemory := by
  unfold Obligations.LoadsReadTheEngineMemory
  intro s e b g kd kb addr ofs runs u at_ bf i q
  obtain ⟨f, spelt, inside, outside⟩ := ldx_spelt s e b kd kb ofs
  refine ⟨fun sound => ⟨runs.loads rfl rfl sound ?_, runs.loads rfl rfl sound ?_, runs.loads rfl rfl sound ?_⟩,
    fun faulty => ⟨runs.stops (by decide) rfl (State.loadAt_faulty faulty _), runs.stops (by decide) rfl (State.loadAt_faulty faulty _),
      runs.stops (by decide) rfl (State.loadAt_faulty faulty _)⟩,
    fun sound => runs.loads rfl rfl sound ?_, fun low high sound => runs.loads spelt (inside g u _ (State.index_inside low high)) sound ?_,
    fun out => runs.stops (by decide) spelt (outside g u (State.index_outside out)),
    fun x found => runs.becomes rfl ?_, fun found => runs.becomes rfl ?_, fun y found notNum => ?_⟩
  case refine_1 | refine_4 | refine_5 => exact u.putWord_becomes g e kd _
  case refine_2 => exact u.setK_becomes e kd _
  case refine_3 => exact u.loadQ_becomes g e kd addr _
  case refine_6 =>
    rw [State.loadP_num found]
    exact ((u.putNum_becomes g e kd x).doubt _).counted _ _ _
  case refine_7 =>
    rw [State.loadP_none found, ← numTo_zero]
    exact ((u.putNum_becomes g e kd ⟨0, 0⟩).doubted _).counted _ _ _
  case refine_8 =>
    have ran : exec (.ldp e b kd kb) s = .next ((u.loadP g e kd ((u.k e kb).toNat % 2 ^ 18)).countLoad e) :=
      congrArg Host.Outcome.next (slotRuns_slot runs _)
    cases y with
    | num x => exact absurd rfl (notNum x)
    | inf n =>
      have becomes := (((u.putTop_becomes g e kd n).doubted (u.pointDoubt g ((u.k e kb).toNat % 2 ^ 18))).counted
        (3 + e / 8) (e % 8 * 16 + 7) 1)
      have free := becomes.free
      obtain ⟨own, others, -⟩ := becomes
      rw [State.loadP_inf found] at ran
      exact ⟨_, n, ran, fun m same => PointNum.inf.inj same, others, own, free⟩
    | nan =>
      obtain ⟨own, others, frame⟩ := (u.putTop_becomes g e kd (decide (u.fresh 1 = 1))).ticked
        (((engineBecomes_id _ e).doubted (u.pointDoubt g ((u.k e kb).toNat % 2 ^ 18))).counted (3 + e / 8) (e % 8 * 16 + 7) 1)
      rw [State.loadP_nan found] at ran
      exact ⟨_, decide (u.fresh 1 = 1), ran, fun m same => PointNum.noConfusion same, others, own, frame⟩

end Sys2Proof.Machine
end

section
/-! SUPPORT. END: the stages of a completed instance (R142, R150, R152, R160). -/

namespace Sys2Proof.Machine

open Sys2Proof

variable {s t u : State} {e : Nat} {b : Option Nat} {g : Program}

/-- Memory, and what the instance of an engine holds for its END, stay. -/
structure HeldKept (e : Nat) (s t : State) : Prop where
  mem : t.mem = s.mem
  held : (t.eng e).held = (s.eng e).held
  pubs : (t.eng e).pubs = (s.eng e).pubs
  fecs : (t.eng e).fecs = (s.eng e).fecs

theorem HeldKept.refl (e : Nat) (s : State) : HeldKept e s s := ⟨rfl, rfl, rfl, rfl⟩

theorem HeldKept.trans (first : HeldKept e s t) (second : HeldKept e t u) : HeldKept e s u :=
  ⟨second.mem.trans first.mem, second.held.trans first.held, second.pubs.trans first.pubs, second.fecs.trans first.fecs⟩

theorem heldKept_of (mem : t.mem = s.mem) (clf : t.clf = s.clf) : HeldKept e s t := by
  have eng : t.eng e = s.eng e := congrArg (Arr.get · e) clf
  exact ⟨mem, by rw [eng], by rw [eng], by rw [eng]⟩

theorem heldKept_on (s : State) (e : Nat) {f : Engine → Engine} (held : ∀ x, (f x).held = x.held := by exact fun _ => rfl)
    (pubs : ∀ x, (f x).pubs = x.pubs := by exact fun _ => rfl) (fecs : ∀ x, (f x).fecs = x.fecs := by exact fun _ => rfl) : HeldKept e s (s.onEng e f) :=
  ⟨rfl, by rw [State.eng_onEng_same, held], by rw [State.eng_onEng_same, pubs], by rw [State.eng_onEng_same, fecs]⟩

theorem HeldKept.on (kept : HeldKept e s t) {f : Engine → Engine} (held : ∀ x, (f x).held = x.held) (pubs : ∀ x, (f x).pubs = x.pubs)
    (fecs : ∀ x, (f x).fecs = x.fecs) : HeldKept e s (t.onEng e f) := kept.trans (heldKept_on t e held pubs fecs)

theorem heldKept_said (s : State) (e : Nat) (c : Bool) (f : Engine → Engine) (code : Nat) (on : HeldKept e s (s.onEng e f)) :
    HeldKept e s (if c then (s.onEng e f).report code e else s) := by
  cases c with
  | true => exact on.trans (heldKept_of rfl rfl)
  | false => exact HeldKept.refl e s

theorem heldKept_ite {c : Prop} [Decidable c] (yes : HeldKept e s t) (no : HeldKept e s u) : HeldKept e s (if c then t else u) := by
  split <;> assumption

/-! ### The held stores (R128) -/

theorem State.setLes_eq (l : List (Nat × W32)) (s : State) : ∃ mem ecc,
    l.foldl (fun t c => t.setLe (engineWord e c.1) 4 c.2.toNat) s = { s with mem := mem, ecc := ecc } := by
  induction l generalizing s with
  | nil => exact ⟨s.mem, s.ecc, rfl⟩
  | cons c l ih =>
    obtain ⟨mem, ecc, rest⟩ := ih (s.setLe (engineWord e c.1) 4 c.2.toNat)
    refine ⟨mem, ecc, rest.trans ?_⟩
    rw [State.setLe_eq]

theorem State.commitStores_spec (s : State) (e : Nat) : (s.commitStores e).regs = s.regs
    ∧ (s.commitStores e).mem = ((s.eng e).held.foldl (fun t c => t.setLe (engineWord e c.1) 4 c.2.toNat) s).mem
    ∧ (s.commitStores e).eng e = { s.eng e with held := [] } := by
  obtain ⟨mem, ecc, whole⟩ := State.setLes_eq (e := e) (s.eng e).held s
  refine ⟨?_, rfl, ?_⟩
  · unfold State.commitStores
    rw [whole]
    rfl
  · unfold State.commitStores
    rw [State.eng_onEng_same, whole]
    rfl

/-! ### Published results (R152) -/

theorem State.publish_heldKept (s : State) (g : Program) (e r : Nat) (v : W32) : HeldKept e s (s.publish g e r v) := by
  unfold State.publish
  dsimp only
  refine HeldKept.on ?_ (fun _ => rfl) (fun _ => rfl) fun _ => rfl
  exact heldKept_of rfl rfl

theorem State.publish_spec (s : State) (g : Program) (e r : Nat) (v : W32) :
    (s.publish g e r v).reg .CLF_RES_LO (e * 16 + r) = v ∧ (s.publish g e r v).fld F.CLF_RES_HI_READY (e * 16 + r) = 1
    ∧ (s.publish g e r v).fld F.CLF_RES_HI_HELD (e * 16 + r) = 0
    ∧ CellsKept [(.CLF_RES_LO, e * 16 + r), (.CLF_RES_HI, e * 16 + r)] s (s.publish g e r v) := by
  unfold State.publish
  dsimp only
  refine ⟨by simp [State.onEng], by simp [State.onEng, Fld.width], by simp [State.onEng, Fld.width], by simp [State.onEng]⟩

theorem publishAll_heldKept (g : Program) (e : Nat) (l : List (Nat × W32)) (s : State) :
    HeldKept e s (l.foldl (fun t c => t.publish g e c.1 c.2) s) := by
  induction l generalizing s with
  | nil => exact HeldKept.refl e s
  | cons c l ih => exact (s.publish_heldKept g e c.1 c.2).trans (ih _)

/-- A result that is not published keeps its registers. -/
theorem publishAll_other (g : Program) (e : Nat) (l : List (Nat × W32)) (s : State) {j : Nat} (other : ∀ c ∈ l, j ≠ e * 16 + c.1) :
    (l.foldl (fun t c => t.publish g e c.1 c.2) s).reg .CLF_RES_LO j = s.reg .CLF_RES_LO j
    ∧ (l.foldl (fun t c => t.publish g e c.1 c.2) s).reg .CLF_RES_HI j = s.reg .CLF_RES_HI j := by
  induction l generalizing s with
  | nil => exact ⟨rfl, rfl⟩
  | cons c l ih =>
    obtain ⟨-, -, -, kept⟩ := s.publish_spec g e c.1 c.2
    obtain ⟨low, high⟩ := ih (s.publish g e c.1 c.2) fun d listed => other d (List.mem_cons_of_mem c listed)
    have apart : j ≠ e * 16 + c.1 := other c List.mem_cons_self
    exact ⟨low.trans (kept _ _ (by simp [apart])), high.trans (kept _ _ (by simp [apart]))⟩

theorem publishAll_regs (g : Program) (e : Nat) (l : List (Nat × W32)) (s : State) :
    RegsKept [.CLF_RES_LO, .CLF_RES_HI] s (l.foldl (fun t c => t.publish g e c.1 c.2) s) := by
  induction l generalizing s with
  | nil => exact RegsKept.refl _ s
  | cons c l ih =>
    obtain ⟨-, -, -, kept⟩ := s.publish_spec g e c.1 c.2
    exact (kept.regsKept (by simp)).trans (ih _)

/-- A published result stands in its registers. -/
theorem publishAll_own (g : Program) (e : Nat) (l : List (Nat × W32)) (s : State) (distinct : (l.map Prod.fst).Nodup) {r : Nat} {v : W32}
    (listed : (r, v) ∈ l) :
    (l.foldl (fun t c => t.publish g e c.1 c.2) s).reg .CLF_RES_LO (e * 16 + r) = v
    ∧ (l.foldl (fun t c => t.publish g e c.1 c.2) s).fld F.CLF_RES_HI_READY (e * 16 + r) = 1
    ∧ (l.foldl (fun t c => t.publish g e c.1 c.2) s).fld F.CLF_RES_HI_HELD (e * 16 + r) = 0 := by
  induction l generalizing s with
  | nil => cases listed
  | cons c l ih =>
    obtain ⟨fresh, rest⟩ := List.nodup_cons.mp distinct
    obtain same | later := List.mem_cons.mp listed
    · subst same
      obtain ⟨value, ready, held, -⟩ := s.publish_spec g e r v
      obtain ⟨low, high⟩ := publishAll_other g e l (s.publish g e r v) (j := e * 16 + r) fun d listed same =>
        fresh (List.mem_map.mpr ⟨d, listed, by omega⟩)
      exact ⟨low.trans value, (congrArg F.CLF_RES_HI_READY.of high).trans ready, (congrArg F.CLF_RES_HI_HELD.of high).trans held⟩
    · exact ih _ rest later

/-! ### Monitors and flags (R150, R160) -/

theorem State.monitorEnd_regs (s : State) (g : Program) (e m : Nat) (err : W32) : RegsKept [.CLF_FE_STAT] s (s.monitorEnd g e m err)
    ∧ HeldKept e s (s.monitorEnd g e m err) := by
  unfold State.monitorEnd
  cases s.monitor e m with
  | none => exact ⟨RegsKept.refl _ s, HeldKept.refl e s⟩
  | some x =>
    dsimp only
    split
    · exact ⟨RegsKept.refl _ s, HeldKept.refl e s⟩
    · split <;> exact ⟨by simp, heldKept_of rfl rfl⟩

theorem monitorEnds_regs (g : Program) (e : Nat) (l : List (Nat × W32)) (s : State) :
    RegsKept [.CLF_FE_STAT] s (l.foldl (fun t c => t.monitorEnd g e c.1 c.2) s)
    ∧ HeldKept e s (l.foldl (fun t c => t.monitorEnd g e c.1 c.2) s) := by
  induction l generalizing s with
  | nil => exact ⟨RegsKept.refl _ s, HeldKept.refl e s⟩
  | cons c l ih =>
    obtain ⟨regs, held⟩ := s.monitorEnd_regs g e c.1 c.2
    obtain ⟨regs', held'⟩ := ih (s.monitorEnd g e c.1 c.2)
    exact ⟨regs.trans regs', held.trans held'⟩

theorem State.flagsSeen_held (s : State) (e : Nat) : RegsKept [.CLF_ENG_FLAGS] s (s.flagsSeen e) ∧ HeldKept e s (s.flagsSeen e) := by
  have any : HeldKept e s (s.setFld F.CLF_ENG_FLAGS_ANY e (s.fld F.CLF_ENG_FLAGS_ANY e ||| (s.eng e).flags)) := heldKept_of rfl rfl
  have counts (u : State) (c : Bool) (b k : Nat) : HeldKept e u (if c then u.count b k else u) :=
    heldKept_ite (heldKept_of rfl rfl) (HeldKept.refl e u)
  have said {u v : State} (kept : HeldKept e u v) (c : Bool) :
      HeldKept e u (if c then (v.onEng e fun x => { x with satSaid := true }).report 0x0482 e else v) :=
    kept.trans (heldKept_said v e c _ _ (heldKept_on v e))
  have qual {u v : State} (kept : HeldKept e u v) (c : Bool) :
      HeldKept e u (if c then (v.onEng e fun x => { x with qualSaid := true }).report 0x0483 e else v) :=
    kept.trans (heldKept_said v e c _ _ (heldKept_on v e))
  have anyRegs : RegsKept [.CLF_ENG_FLAGS] s (s.setFld F.CLF_ENG_FLAGS_ANY e (s.fld F.CLF_ENG_FLAGS_ANY e ||| (s.eng e).flags)) := by simp
  have countRegs (u : State) (c : Bool) (b k : Nat) : RegsKept [.CLF_ENG_FLAGS] u (if c then u.count b k else u) :=
    regsKept_ite (regsKept_of_regs rfl) (RegsKept.refl _ u)
  have saidRegs (u : State) (c : Bool) (f : Engine → Engine) (code : Nat) :
      RegsKept [.CLF_ENG_FLAGS] u (if c then (u.onEng e f).report code e else u) := regsKept_ite (regsKept_of_regs rfl) (RegsKept.refl _ u)
  exact ⟨((((anyRegs.trans (saidRegs _ _ _ _)).trans (saidRegs _ _ _ _)).trans (countRegs _ _ _ _)).trans (countRegs _ _ _ _)).trans
      (countRegs _ _ _ _), (((qual (said any _) _).trans (counts _ _ _ _)).trans (counts _ _ _ _)).trans (counts _ _ _ _)⟩

theorem State.flagsEnd_held (s : State) (e : Nat) : RegsKept [.CLF_ENG_FLAGS] s (s.flagsEnd e) ∧ HeldKept e s (s.flagsEnd e) := by
  obtain ⟨regs, held⟩ := (s.setFld F.CLF_ENG_FLAGS_LAST e (s.eng e).flags).flagsSeen_held e
  have last : RegsKept [.CLF_ENG_FLAGS] s (s.setFld F.CLF_ENG_FLAGS_LAST e (s.eng e).flags) := by simp
  exact ⟨last.trans regs, HeldKept.trans (t := s.setFld F.CLF_ENG_FLAGS_LAST e (s.eng e).flags) (heldKept_of rfl rfl) held⟩

/-! ### The completed instance -/

/-- The registers of a completed instance: its cycles, DONE, and no consecutive overrun. -/
def State.instDone (s : State) (e cycles : Nat) : State :=
  ((((s.setFld F.CLF_ENG_CYC_LAST e cycles).setFld F.CLF_ENG_PEAK_PEAK e
    (max (s.fld F.CLF_ENG_PEAK_PEAK e) cycles)).setFld F.CLF_ENG_STAT_STATE e 2).setFld
    F.CLF_ENG_STAT_OVR_CONSEC e 0).completed (.program e)

theorem State.instDone_spec (s : State) (e cycles : Nat) : (s.instDone e cycles).fld F.CLF_ENG_STAT_STATE e = 2
    ∧ (s.instDone e cycles).fld F.CLF_ENG_STAT_OVR_CONSEC e = 0 ∧ (s.instDone e cycles).overruns (.program e) = 0
    ∧ RegsKept [.CLF_ENG_CYC, .CLF_ENG_PEAK, .CLF_ENG_STAT] s (s.instDone e cycles) ∧ HeldKept e s (s.instDone e cycles) := by
  unfold State.instDone
  refine ⟨by simp [State.completed, Fld.width], by simp [State.completed, Fld.width], State.overruns_completed _ _, by simp [State.completed],
    heldKept_of rfl rfl⟩

/-- END after the issue of its bundle. -/
def State.endWhole (s : State) (g : Program) (e cycles : Nat) : State :=
  let t := s.commitStores e
  let t := (t.eng e).pubs.foldl (fun t c => t.publish g e c.1 c.2) t
  let t := (t.eng e).fecs.foldl (fun t c => t.monitorEnd g e c.1 c.2) t
  (((t.flagsEnd e).instDone e cycles).onEng e fun x => { x with pubs := [], fecs := [] }).countAlu e

theorem endInst_spelt (s : State) (e : Nat) (b : Option Nat) (n : Nat) :
    exec (.endInst e b n) s = .next (s.live 2 (s.slot e b fun g t => t.endWhole g e n)) := rfl

/-- Settles O30: the stores are committed, the results published, and what follows leaves both. -/
theorem endCommitsTheInstance : Obligations.EndCommitsTheInstance := by
  unfold Obligations.EndCommitsTheInstance
  intro s e b g n runs
  have ran : exec (.endInst e b n) s = .next (State.endWhole (issued s e b) g e n) :=
    (endInst_spelt s e b n).trans (congrArg Host.Outcome.next (slotRuns_slot runs _))
  have issuedRegs : (issued s e b).regs = s.regs := by
    cases b with
    | none => rfl
    | some k => exact s.newBundle_regs e k
  generalize issued s e b = u at ran issuedRegs ⊢
  obtain ⟨regs, mem, eng⟩ := u.commitStores_spec e
  refine ⟨_, ran, ?_⟩
  unfold State.endWhole
  dsimp only
  generalize u.commitStores e = v at regs mem eng ⊢
  have held : (v.eng e).held = [] := by rw [eng]
  have pubs : (v.eng e).pubs = (u.eng e).pubs := by rw [eng]
  rw [pubs]
  have published := publishAll_regs g e (u.eng e).pubs v
  have others := fun j => publishAll_other g e (u.eng e).pubs v (j := j)
  have own := fun distinct r w => publishAll_own g e (u.eng e).pubs v distinct (r := r) (v := w)
  have onPublish := publishAll_heldKept g e (u.eng e).pubs v
  generalize (u.eng e).pubs.foldl (fun t c => t.publish g e c.1 c.2) v = w at published others own onPublish ⊢
  obtain ⟨monitors, onMonitors⟩ := monitorEnds_regs g e (w.eng e).fecs w
  generalize (w.eng e).fecs.foldl (fun t c => t.monitorEnd g e c.1 c.2) w = x at monitors onMonitors ⊢
  obtain ⟨flags, onFlags⟩ := x.flagsEnd_held e
  generalize x.flagsEnd e = y at flags onFlags ⊢
  obtain ⟨state, consec, overruns, done, onDone⟩ := y.instDone_spec e n
  generalize y.instDone e n = z at state consec overruns done onDone ⊢
  have later : RegsKept [.CLF_FE_STAT, .CLF_ENG_FLAGS, .CLF_ENG_CYC, .CLF_ENG_PEAK, .CLF_ENG_STAT] w z :=
    ((monitors.mono (by simp)).trans (flags.mono (by simp))).trans (done.mono (by simp))
  have all := ((onPublish.trans onMonitors).trans onFlags).trans onDone
  have eng' : ((z.onEng e fun x => { x with pubs := [], fecs := [] }).countAlu e).eng e = { z.eng e with pubs := [], fecs := [] } :=
    z.eng_onEng_same e _
  refine ⟨state, consec, overruns, ?_, by rw [eng'], by rw [eng'], all.mem.trans mem, fun r value distinct listed => ?_, fun j other => ?_⟩
  · rw [eng']
    exact all.held.trans held
  · obtain ⟨low, ready, off⟩ := own distinct r value listed
    exact ⟨(later .CLF_RES_LO _ (by simp)).trans low, (later.fld (by simp) _).trans ready, (later.fld (by simp) _).trans off⟩
  · obtain ⟨low, high⟩ := others j fun c listed => other c.1 c.2 listed
    have start (r : Reg) : v.reg r j = s.reg r j := by rw [State.reg, State.reg, regs, issuedRegs]
    exact ⟨((later .CLF_RES_LO _ (by simp)).trans low).trans (start _), ((later .CLF_RES_HI _ (by simp)).trans high).trans (start _)⟩

end Sys2Proof.Machine
end

section
/-! SUPPORT. Monitors, RESTART and HALT, and reads of the result registers (R33, R150, R153, R156). -/

namespace Sys2Proof.Machine

open Sys2Proof

variable {s : State} {e m r : Nat}

/-! ### FOLLOW_TRIP -/

theorem followTrip_spelt (s : State) (e m : Nat) {x : Monitor} (found : s.monitor e m = some x) : exec (.followTrip e m) s =
    .next (s.live 2 (if s.flag F.CLF_FE_STAT_TRIP (e * 4 + m) || decide (s.fld F.CLF_FE_STAT_COUNT (e * 4 + m) < x.timer) then s
      else if x.action = 0 then (s.setFlag F.CLF_FE_STAT_TRIP (e * 4 + m) true).report 0x0481 (e * 4 + m)
      else ((s.setFlag F.CLF_FE_STAT_TRIP (e * 4 + m) true).onEng e fun y => { y with tripped := true }).report 0x0403 (e * 4 + m))) := by
  show execFollowTrip e m s = _
  unfold execFollowTrip
  rw [found]

theorem live_idle (s : State) (k : Nat) : s.live k s = s := by
  unfold State.live
  split <;> rfl

theorem followTrip_idle {x : Monitor} (found : s.monitor e m = some x)
    (quiet : s.flag F.CLF_FE_STAT_TRIP (e * 4 + m) = true ∨ s.fld F.CLF_FE_STAT_COUNT (e * 4 + m) < x.timer) :
    exec (.followTrip e m) s = .next s := by
  rw [followTrip_spelt s e m found, if_pos (by simpa using quiet), live_idle]

theorem followTrip_trips {x : Monitor} (alive : s.runs 2 = true) (found : s.monitor e m = some x)
    (untripped : s.flag F.CLF_FE_STAT_TRIP (e * 4 + m) = false) (reached : x.timer ≤ s.fld F.CLF_FE_STAT_COUNT (e * 4 + m)) :
    exec (.followTrip e m) s =
    .next (if x.action = 0 then (s.setFlag F.CLF_FE_STAT_TRIP (e * 4 + m) true).report 0x0481 (e * 4 + m)
      else ((s.setFlag F.CLF_FE_STAT_TRIP (e * 4 + m) true).onEng e fun y => { y with tripped := true }).report 0x0403 (e * 4 + m)) := by
  rw [followTrip_spelt s e m found, if_neg (by simp [untripped, reached]), State.live_runs alive]

/-! ### RESTART and HALT (R156) -/

theorem State.engRestart_accepted (present : (s.program e).isSome = true) (stopped : s.fld F.CLF_ENG_STAT_STATE e = 3) :
    s.engRestart e = s.onEng e fun x => { x with restart := true } := by
  rw [State.engRestart, if_pos (by simp [present, stopped])]

theorem State.engRestart_refused (unfit : s.program e = none ∨ s.fld F.CLF_ENG_STAT_STATE e ≠ 3) : s.engRestart e = s.report 0x0404 e := by
  rw [State.engRestart, if_neg]
  obtain none | running := unfit
  · simp [none]
  · simp [running]

theorem State.engHalt_none (absent : s.engineBay e = none) : s.engHalt e =
    if (s.program e).isSome && decide (s.fld F.CLF_ENG_STAT_STATE e ≠ 3) then s.onEng e fun x => { x with halt := true }
    else s.report 0x0404 e := by
  unfold State.engHalt
  rw [absent]
  dsimp only
  rw [Bool.and_true]

theorem State.engHalt_some {b : Nat} (bay : s.engineBay e = some b) : s.engHalt e =
    if (s.program e).isSome && decide (s.fld F.CLF_ENG_STAT_STATE e ≠ 3) && !s.flag F.FRG_BAY_CTL_RUN b then
      s.onEng e fun x => { x with halt := true }
    else s.report 0x0404 e := by
  unfold State.engHalt
  rw [bay]

theorem State.engHalt_accepted (present : (s.program e).isSome = true) (running : s.fld F.CLF_ENG_STAT_STATE e ≠ 3)
    (off : ∀ b, s.engineBay e = some b → s.flag F.FRG_BAY_CTL_RUN b = false) :
    s.engHalt e = s.onEng e fun x => { x with halt := true } := by
  cases bay : s.engineBay e with
  | none => rw [State.engHalt_none bay, if_pos (by simp [present, running])]
  | some b => rw [State.engHalt_some bay, if_pos (by simp [present, running, off b bay])]

theorem State.engHalt_refused (unfit : s.program e = none ∨ s.fld F.CLF_ENG_STAT_STATE e = 3
    ∨ ∃ b, s.engineBay e = some b ∧ s.flag F.FRG_BAY_CTL_RUN b = true) : s.engHalt e = s.report 0x0404 e := by
  cases bay : s.engineBay e with
  | none =>
    rw [State.engHalt_none bay, if_neg]
    obtain none | stopped | ⟨b, found, -⟩ := unfit
    · simp [none]
    · simp [stopped]
    · rw [bay] at found
      cases found
  | some b =>
    rw [State.engHalt_some bay, if_neg]
    obtain none | stopped | ⟨c, found, on⟩ := unfit
    · simp [none]
    · simp [stopped]
    · obtain rfl := Option.some.inj (bay.symm.trans found)
      simp [on]

/-! ### Result registers (R153) -/

theorem State.resultHi_stale (s : State) (w : Initiator) (e r : Nat) : F.CLF_RES_HI_STALE.of (s.resultHi w e r) =
    if s.fld F.CLF_RES_HI_READY (e * 16 + r) = 0 then 1 else 0 := by
  refine (Fld.of_put_ne _ _ _ _ (by decide) (by decide) (by decide) (by decide)).trans ((Fld.of_put _ _ _ (by decide) (by decide)).trans ?_)
  show (if s.fld F.CLF_RES_HI_READY (e * 16 + r) = 0 then 1 else 0) % 2 = _
  split <;> rfl

theorem State.resultHi_readBefore (s : State) (w : Initiator) (e r : Nat) : F.CLF_RES_HI_READ_BEFORE.of (s.resultHi w e r) =
    if (readerOf w, r) ∈ (s.eng e).marks then 1 else 0 := by
  refine (Fld.of_put _ _ _ (by decide) (by decide)).trans ?_
  show (if (s.eng e).marks.contains (readerOf w, r) then 1 else 0) % 2 = _
  by_cases listed : (readerOf w, r) ∈ (s.eng e).marks
  · rw [if_pos (List.contains_iff_mem.mpr listed), if_pos listed]
  · rw [if_neg fun found => listed (List.contains_iff_mem.mp found), if_neg listed]

theorem State.markRead_marks (s : State) (w : Initiator) (e r : Nat) : (readerOf w, r) ∈ ((s.markRead w e r).eng e).marks := by
  unfold State.markRead
  rw [State.eng_onEng_same]
  dsimp only
  split
  case isTrue listed => exact List.contains_iff_mem.mp listed
  case isFalse => exact List.mem_append_right _ (List.mem_singleton_self _)

/-- A read of the HI half answers the shadow, or the live half (R33). -/
theorem State.resultRead_high (s : State) (w : Initiator) (e r : Nat) : ∃ sys, s.resultRead w e r .hi =
    { s with sys := sys, resp := .data (leBytes 4 ((heldFor s.sys.shadows w .CLF_RES_HI (e * 16 + r)).getD (s.resultHi w e r)).toNat) } := by
  have found : heldFor s.sys.shadows w .CLF_RES_HI (e * 16 + r) =
      (s.sys.shadows.find? fun h => decide (h.who = w) && decide (h.reg = .CLF_RES_HI) && decide (h.idx = e * 16 + r)).map fun h => h.val := by
    unfold heldFor
    simp only [Bool.decide_and, Bool.and_assoc]
  rw [found]
  unfold State.resultRead
  dsimp only
  cases s.sys.shadows.find? fun h => decide (h.who = w) && decide (h.reg = .CLF_RES_HI) && decide (h.idx = e * 16 + r) with
  | none => exact ⟨s.sys, rfl⟩
  | some h => exact ⟨_, rfl⟩

/-- The state in which a read is served is the same but for Scribe's counters. -/
theorem State.resultRead_low (s : State) (w : Initiator) (e r : Nat) :
    (s.resultRead w e r .lo).resp = .data (leBytes 4 (s.reg .CLF_RES_LO (e * 16 + r)).toNat)
    ∧ heldFor (s.resultRead w e r .lo).sys.shadows w .CLF_RES_HI (e * 16 + r) = some (s.resultHi w e r)
    ∧ (readerOf w, r) ∈ ((s.resultRead w e r .lo).eng e).marks
    ∧ s.resultRead w e r .lo = { s with clf := (s.resultRead w e r .lo).clf, sys := (s.resultRead w e r .lo).sys, resp := (s.resultRead w e r .lo).resp } :=
  ⟨rfl, s.heldFor_setShadow w .CLF_RES_HI (e * 16 + r) _, State.markRead_marks _ w e r, rfl⟩

theorem State.resultRead_both (s : State) (w : Initiator) (e r : Nat) :
    (s.resultRead w e r .whole).resp = .data (leBytes 4 (s.reg .CLF_RES_LO (e * 16 + r)).toNat ++ leBytes 4 (s.resultHi w e r).toNat)
    ∧ (readerOf w, r) ∈ ((s.resultRead w e r .whole).eng e).marks
    ∧ s.resultRead w e r .whole = { s with clf := (s.resultRead w e r .whole).clf, resp := (s.resultRead w e r .whole).resp } :=
  ⟨rfl, s.markRead_marks w e r, rfl⟩

theorem at_resHi (j : Nat) : Reg.at .CLF_RES_HI j = Reg.at .CLF_RES_LO j + 4 := by
  show 0x1104 + j / 16 * 0x200 + j % 16 * 8 = 0x1100 + j / 16 * 0x200 + j % 16 * 8 + 4
  omega

theorem at_resLo (j : Nat) : Reg.at .CLF_RES_LO j % 8 = 0 := by
  show (0x1100 + j / 16 * 0x200 + j % 16 * 8) % 8 = 0
  omega

/-- Settles O31. -/
theorem monitorsProgramControlAndResultReads : Obligations.MonitorsProgramControlAndResultReads := by
  unfold Obligations.MonitorsProgramControlAndResultReads
  refine ⟨fun s e m x alive found untripped reached => ?_, fun s e m x found quiet => followTrip_idle found quiet, fun s who e m reaches => ?_,
    fun s who e reaches => ?_, fun s w e r reaches => ?_, fun s w e r reaches => ?_⟩
  · have trips := followTrip_trips alive found untripped reached
    by_cases report : x.action = 0
    · rw [if_pos report] at trips
      exact ⟨_, trips, by simp, fun _ => ⟨rfl, rfl⟩, fun fault => absurd report fault, by simp, memKept_of_mem rfl⟩
    · rw [if_neg report] at trips
      refine ⟨_, trips, by simp [State.onEng], fun calm => absurd calm report, fun _ => ⟨rfl, ?_⟩, by simp [State.onEng], memKept_of_mem rfl⟩
      exact congrArg Engine.tripped (State.eng_onEng_same _ e _)
  · have ran : exec (.tripClear who e m) s = .next { (served s who).tripClear e m with resp := .done } :=
      congrArg Host.Outcome.next (rowWrite_reaches s who _ _ _ reaches)
    exact ⟨_, ran, by simp [State.tripClear], by simp [State.tripClear, Fld.width], by simp [State.tripClear], rfl⟩
  · have restart : exec (.calfinRestart who e) s = .next { (served s who).engRestart e with resp := .done } :=
      congrArg Host.Outcome.next (rowWrite_reaches s who _ _ _ reaches)
    have halt : exec (.halt who e) s = .next { (served s who).engHalt e with resp := .done } :=
      congrArg Host.Outcome.next (rowWrite_reaches s who _ _ _ reaches)
    have state := served_fld (s := s) (who := who) (n := 4) F.CLF_ENG_STAT_STATE e
    have program : (served s who).program e = s.program e := served_congr (State.program · e) s who 4 fun _ => rfl
    have bay : (served s who).engineBay e = s.engineBay e := served_congr (State.engineBay · e) s who 4 fun _ => rfl
    have run (b : Nat) := served_flag (s := s) (who := who) (n := 4) F.FRG_BAY_CTL_RUN b
    rw [← state, ← program, ← bay]
    simp only [← run]
    generalize served s who = t at *
    exact ⟨fun present stopped => State.engRestart_accepted present stopped ▸ restart, fun unfit => State.engRestart_refused unfit ▸ restart,
      fun present running off => State.engHalt_accepted present running off ▸ halt, fun unfit => State.engHalt_refused unfit ▸ halt⟩
  · have both : exec (.resultRead w e r .whole) s = .next ((servedRead s w 8).resultRead w e r .whole) :=
      congrArg Host.Outcome.next (rowRead_reaches s w _ _ 8 _ reaches (.inr ⟨rfl, at_resLo _⟩))
    have low : exec (.resultRead w e r .lo) s = .next ((servedRead s w 4).resultRead w e r .lo) :=
      congrArg Host.Outcome.next (rowRead_reaches s w _ _ 4 _ reaches (.inl rfl))
    have value (n : Nat) : (servedRead s w n).reg .CLF_RES_LO (e * 16 + r) = s.reg .CLF_RES_LO (e * 16 + r) :=
      servedRead_congr (State.reg · .CLF_RES_LO (e * 16 + r)) s w n fun _ => rfl
    have high (n : Nat) : (servedRead s w n).resultHi w e r = s.resultHi w e r :=
      servedRead_congr (State.resultHi · w e r) s w n fun _ => rfl
    refine ⟨s.resultHi_stale w e r, s.resultHi_readBefore w e r, ⟨_, both, ?_⟩, ⟨_, low, ?_⟩⟩
    · rw [← value 8, ← high 8]
      exact State.resultRead_both _ w e r
    · rw [← value 4, ← high 4]
      exact State.resultRead_low _ w e r
  · have reaches' : Reaches s w (Reg.row .CLF_RES_LO).win (Reg.at .CLF_RES_LO (e * 16 + r) + 4) := at_resHi (e * 16 + r) ▸ reaches
    have ran : exec (.resultRead w e r .hi) s = .next ((servedRead s w 4).resultRead w e r .hi) :=
      congrArg Host.Outcome.next (rowRead_reaches s w _ _ 4 _ reaches' (.inl rfl))
    have high : (servedRead s w 4).resultHi w e r = s.resultHi w e r := servedRead_congr (State.resultHi · w e r) s w 4 fun _ => rfl
    have sys : (servedRead s w 4).sys = s.sys := servedRead_congr State.sys s w 4 fun _ => rfl
    obtain ⟨sys', whole⟩ := (servedRead s w 4).resultRead_high w e r
    rw [high, sys] at whole
    rw [whole] at ran
    exact ⟨_, ran, rfl, rfl⟩

end Sys2Proof.Machine
end

section
/-! SUPPORT. Safe outputs: readback, energising and dark tests (R272 to R275). -/

namespace Sys2Proof.Machine

open Sys2Proof

variable {s t u : State} {k j : Nat}

/-! ### Fields beside the bits of a channel -/

theorem State.fld_setChanBit (s : State) (k : Nat) {b : Nat} (v : Bool) {f : Fld} (below : f.hi < b) (fits : b < 32) (order : f.lo ≤ f.hi) (i : Nat) :
    (s.setChanBit k b v).fld f i = s.fld f i := by
  refine State.fld_setFlag_apart s (.inr (.inl ?_)) ⟨by rwa [chanFld_hi], by rw [chanFld_hi, chanFld_lo], order⟩
  rwa [chanFld_lo]

theorem State.fld_discarded (s : State) (k : Nat) {f : Fld} (above : 15 < f.lo) (order : f.lo ≤ f.hi) (i : Nat) :
    (s.bumpSat (chanFld k 15 8) (chanIdx k)).fld f i = s.fld f i := by
  refine State.fld_bumpSat_apart s (.inr (.inr ?_)) ⟨by simp [chanFld_hi], by simp [chanFld_hi, chanFld_lo], order⟩
  rwa [chanFld_hi]

theorem State.fld_mrtCode (s : State) (code n : Nat) {f : Fld} (other : f.reg ≠ .MRT_STAT) (i : Nat) : (s.mrtCode code n).fld f i = s.fld f i :=
  (s.mrtCode_cell code n).fld (by simp [other])

/-- A channel that is switched off keeps the fields of a brake's test. -/
theorem State.fld_chanOff (s : State) (k : Nat) {f : Fld} (above : 15 < f.lo) (below : f.hi < 26) (order : f.lo ≤ f.hi) (other : f.reg ≠ .MRT_STAT)
    (i : Nat) : (s.chanOff k).fld f i = s.fld f i := by
  have off : ((((s.setChanBit k 31 false).setChanBit k 30 false).setChanBit k 29 false).setChanBit k 26 false).fld f i = s.fld f i := by
    rw [State.fld_setChanBit _ k _ below (by decide) order, State.fld_setChanBit _ k _ (by omega) (by decide) order,
      State.fld_setChanBit _ k _ (by omega) (by decide) order, State.fld_setChanBit _ k _ (by omega) (by decide) order]
  unfold State.chanOff
  dsimp only
  generalize (((s.setChanBit k 31 false).setChanBit k 30 false).setChanBit k 29 false).setChanBit k 26 false = u at off ⊢
  split
  · exact (State.fld_mrtCode _ _ _ other i).trans ((State.fld_discarded _ k above order i).trans off)
  · exact off

theorem State.chanOff_readback (s : State) (k : Nat) : (s.chanOff k).chanBit k 28 = s.chanBit k 28 ∧ (s.chanOff k).chanBit k 26 = false := by
  have off : ∀ u : State, u = (((s.setChanBit k 31 false).setChanBit k 30 false).setChanBit k 29 false).setChanBit k 26 false →
      u.chanBit k 28 = s.chanBit k 28 ∧ u.chanBit k 26 = false := by
    rintro u rfl
    simp [State.chanBit_setChanBit_same, State.chanBit_setChanBit_bit]
  unfold State.chanOff
  dsimp only
  generalize named : (((s.setChanBit k 31 false).setChanBit k 30 false).setChanBit k 29 false).setChanBit k 26 false = u
  have bits := off u named.symm
  split
  · simpa [State.discarded_bit] using bits
  · exact bits

/-! ### A channel's fault (R272) -/

theorem TestsOnly.memKept (only : TestsOnly s t) : MemKept s t := by
  obtain ⟨-, same, -, -⟩ := only
  exact memKept_of_mem (by rw [same])

theorem testsOnly_seeReadback (s : State) (k : Nat) (rb : Bool) : TestsOnly s (s.seeReadback k rb) :=
  (testsOnly_setChanBit s k 28 rb).trans (testsOnly_onChan _ k _)

theorem testsOnly_chanFault (s : State) (k : Nat) : TestsOnly s (s.chanFault k) :=
  ((testsOnly_chanOff s k).trans (testsOnly_setChanBit _ k 27 true)).trans (testsOnly_mrtCode _ _ _)

/-- A channel that faults after some changes is faulted; its readback stands and its dark test has ended. -/
theorem State.chanFault_faulted (before : Keeps s u) (only : TestsOnly s u) (k : Nat) : ChannelFaulted k s (u.chanFault k)
    ∧ (u.chanFault k).chanBit k 28 = u.chanBit k 28 ∧ (u.chanFault k).chanBit k 26 = false := by
  obtain ⟨⟨on, swA, swB⟩, -⟩ := u.chanOff_bits k
  obtain ⟨rb, test⟩ := u.chanOff_readback k
  have whole := only.trans (testsOnly_chanFault u k)
  have off : Keeps s ((u.chanOff k).setChanBit k 27 true) := before.trans ((State.chanOff_keeps u k).trans (State.setChanBit_keeps _ k 27 true))
  refine ⟨⟨⟨?_, ?_, ?_⟩, ?_, mem_reports_drop off.reports rfl, whole.1, whole.memKept⟩, ?_, ?_⟩ <;>
    simp [State.chanFault, State.chanBit_setChanBit_bit, State.chanBit_setChanBit_same, on, swA, swB, rb, test]

theorem State.seeReadback_bits (s : State) (k : Nat) (rb : Bool) : (s.seeReadback k rb).chanBit k 28 = rb
    ∧ (∀ b, b ≠ 28 → (s.seeReadback k rb).chanBit k b = s.chanBit k b) ∧ CellsKept [chanCell k] s (s.seeReadback k rb) :=
  ⟨State.chanBit_setChanBit_same (k := k) (b := 28) s rb, fun _ other => State.chanBit_setChanBit_bit s rb other,
    (s.setChanBit_cell rb).trans (cellsKept_of_regs rfl)⟩

theorem readbackCheck_agrees {rb : Bool} (alive : s.runs 6 = true) (agrees : rb = (s.chanBit k 30 && s.chanBit k 29)) :
    exec (.readbackCheck k rb) s = .next (s.seeReadback k rb) :=
  congrArg Host.Outcome.next ((State.live_runs alive).trans (if_pos agrees))

theorem readbackCheck_differs {rb : Bool} (alive : s.runs 6 = true) (differs : rb ≠ (s.chanBit k 30 && s.chanBit k 29)) :
    exec (.readbackCheck k rb) s = .next ((s.seeReadback k rb).chanFault k) :=
  congrArg Host.Outcome.next ((State.live_runs alive).trans (if_neg differs))

/-! ### Energising (R273) -/

theorem energiseCheckStep_spelt (s : State) (k : Nat) (rb : Bool) : exec (.energiseCheckStep k rb) s = .next (s.live 6 (
    if (s.mrt.chans.get k).step = 0 then s
    else if rb then (s.seeReadback k rb).chanFault k
    else if (s.mrt.chans.get k).step = 1 then
      (((s.setChanBit k 30 false).setChanBit k 29 true).setChanBit k 28 false).onChan k fun x => { x with step := 2 }
    else ((((s.setChanBit k 30 true).setChanBit k 29 true).setChanBit k 31 true).onChan k fun x => { x with step := 0, offAt := none }).torqueOn k)) := rfl

/-- The instant at which a brake test's torque is on is noted at the brake alone. -/
theorem State.torqueOn_eq (s : State) (k : Nat) : ∃ brakes, s.torqueOn k = { s with mrt := { s.mrt with brakes := brakes } } := by
  refine State.each_induct (P := fun t => ∃ brakes, t = { s with mrt := { s.mrt with brakes := brakes } }) ⟨s.mrt.brakes, rfl⟩ ?_
  rintro j - t ⟨brakes, rfl⟩
  generalize named : ({ s with mrt := { s.mrt with brakes := brakes } } : State) = v
  cases v.brakeRec j with
  | none => exact ⟨brakes, named.symm⟩
  | some r =>
    subst named
    dsimp only
    unfold State.when
    split
    · exact ⟨_, rfl⟩
    · exact ⟨brakes, rfl⟩

theorem chans_onChan (s : State) (k : Nat) (f : SafeChan → SafeChan) : (s.onChan k f).mrt.chans.get k = f (s.mrt.chans.get k) :=
  Arr.get_upd_same _ k f

end Sys2Proof.Machine
end

section
/-! SUPPORT. The brake test (R276 to R278), and the statement of outputs and brakes. -/

namespace Sys2Proof.Machine

open Sys2Proof

variable {s t u : State} {k : Nat} {r : BrakeRec}

/-! ### Brakes -/

@[simp] theorem brakes_onBrake (s : State) (k : Nat) (f : Brake → Brake) : (s.onBrake k f).mrt.brakes.get k = f (s.mrt.brakes.get k) :=
  Arr.get_upd_same _ k f

@[simp] theorem State.testStep_onBrake (s : State) (j k : Nat) (f : Brake → Brake) : (s.onBrake j f).testStep k = s.testStep k := rfl
@[simp] theorem State.testStep_onChan (s : State) (j k : Nat) (f : SafeChan → SafeChan) : (s.onChan j f).testStep k = s.testStep k := rfl

theorem State.testStep_setChanBit (s : State) (j : Nat) {b : Nat} (v : Bool) (high : 19 < b) (fits : b < 32) (k : Nat) :
    (s.setChanBit j b v).testStep k = s.testStep k := State.fld_setChanBit s j v high fits (by decide) k

theorem State.testStep_chanOff (s : State) (j k : Nat) : (s.chanOff j).testStep k = s.testStep k :=
  State.fld_chanOff s j (by decide) (by decide) (by decide) (by decide) k

theorem State.chanOff_brakes (s : State) (k : Nat) : (s.chanOff k).mrt.brakes = s.mrt.brakes := by
  unfold State.chanOff
  dsimp only
  split <;> rfl

/-- Energising both switches starts the check of R273, and leaves the test of a brake. -/
theorem State.chanTo_both (s : State) (j : Nat) : (∀ k, (s.chanTo j true true).testStep k = s.testStep k)
    ∧ (s.chanTo j true true).mrt.brakes = s.mrt.brakes ∧ (s.chanTo j true true).reports = s.reports := by
  have whole : s.chanTo j true true = if s.chanBit j 31 || decide ((s.mrt.chans.get j).step ≠ 0) || s.chanBit j 27 then s
      else ((s.setChanBit j 30 true).setChanBit j 29 false).onChan j fun x => { x with step := 1, offAt := none } := rfl
  rw [whole]
  split
  · exact ⟨fun _ => rfl, rfl, rfl⟩
  · refine ⟨fun k => ?_, rfl, rfl⟩
    rw [State.testStep_onChan, State.testStep_setChanBit _ j _ (by decide) (by decide), State.testStep_setChanBit _ j _ (by decide) (by decide)]

/-! ### The end of a test -/

theorem State.testStep_setStep (s : State) (k : Nat) {n : Nat} (small : n < 16) : (s.setFld F.MRT_BRK_STAT_STEP k n).testStep k = n :=
  (State.fld_setFld_self s ⟨by decide, by decide⟩).trans (Nat.mod_eq_of_lt small)

theorem State.endTest_spec (s : State) (k : Nat) : (s.endTest k).testStep k = 0
    ∧ ∀ r, s.brakeRec k = some r → r.sto < 16 → ChannelOff r.sto (s.endTest k) := by
  have none_ (absent : s.brakeRec k = none) : s.endTest k = (s.setFld F.MRT_BRK_STAT_STEP k 0).onBrake k fun b => { b with began := none } := by
    unfold State.endTest
    dsimp only
    rw [absent]
  have some_ {r : BrakeRec} (found : s.brakeRec k = some r) : s.endTest k =
      if r.sto < 16 then ((s.setFld F.MRT_BRK_STAT_STEP k 0).onBrake k fun b => { b with began := none }).chanOff r.sto
      else (s.setFld F.MRT_BRK_STAT_STEP k 0).onBrake k fun b => { b with began := none } := by
    unfold State.endTest
    dsimp only
    rw [found]
  have zero : ((s.setFld F.MRT_BRK_STAT_STEP k 0).onBrake k fun b => { b with began := none }).testStep k = 0 := s.testStep_setStep k (by decide)
  cases found : s.brakeRec k with
  | none => exact ⟨none_ found ▸ zero, fun r absurd => nomatch absurd⟩
  | some r =>
    rw [some_ found]
    refine ⟨?_, fun q same small => ?_⟩
    · split
      · exact (State.testStep_chanOff _ _ k).trans zero
      · exact zero
    · obtain rfl := Option.some.inj same
      rw [if_pos small]
      exact (State.chanOff_bits _ _).1

/-- A test fails (R277). -/
theorem State.testFail_spec (s : State) (k : Nat) : (s.testFail k).testStep k = 0 ∧ (s.testFail k).flag F.MRT_BRK_STAT_TEST_FAIL k = true
    ∧ (∀ r, s.brakeRec k = some r → r.sto < 16 → ChannelOff r.sto (s.testFail k))
    ∧ (⟨0x0C04, k⟩ : Report) ∈ (s.testFail k).reports.drop s.reports.length := by
  obtain ⟨step, off⟩ := s.endTest_spec k
  have before : Keeps s ((s.endTest k).setFld F.MRT_BRK_STAT_TEST_FAIL k 1) := (State.endTest_keeps s k).trans (State.setFld_keeps _ _ _ _)
  have bits (j b : Nat) (high : 25 < b) (fits : b < 32) : (s.testFail k).chanBit j b = (s.endTest k).chanBit j b := by
    refine (State.chanBit_mrtCode _ _ _ _ _).trans (State.flag_setFld_apart _ (.inr (.inr ?_)) ⟨by decide, by decide, ?_⟩)
    · rw [chanFld_lo]
      exact high
    · rw [chanFld_hi, chanFld_lo]
  refine ⟨?_, ?_, fun r found small => ?_, mem_reports_drop before.reports rfl⟩
  · exact (State.fld_mrtCode _ _ _ (by decide) k).trans ((State.fld_setFld_apart _ (.inr (.inl (by decide))) (by decide)).trans step)
  · exact (State.flag_congr (State.fld_mrtCode _ _ _ (by decide) k)).trans (by simp [Fld.width])
  · obtain ⟨on, swA, swB⟩ := off r found small
    exact ⟨(bits _ 31 (by decide) (by decide)).trans on, (bits _ 30 (by decide) (by decide)).trans swA, (bits _ 29 (by decide) (by decide)).trans swB⟩

/-- A test passes (R277). -/
theorem State.testPass_spec (s : State) (k : Nat) : (s.testPass k).testStep k = 0 ∧ (s.testPass k).flag F.MRT_BRK_STAT_TEST_FAIL k = false
    ∧ (s.testPass k).flag F.MRT_BRK_STAT_TEST_DUE k = false ∧ (s.testPass k).fld F.MRT_BRK_STAT_AGE k = 0
    ∧ ((s.testPass k).mrt.brakes.get k).valid = true ∧ ((s.testPass k).mrt.brakes.get k).passAt = some s.now
    ∧ (s.testPass k).reports = s.reports ++ [⟨0x0C84, k⟩] := by
  unfold State.testPass
  dsimp only
  refine ⟨?_, ?_, ?_, ?_, ?_, ?_, rfl⟩
  case refine_1 =>
    refine (State.fld_mrtCode _ _ _ (by decide) k).trans ?_
    simp [Fld.width, State.onBrake, State.onMrt]
  case refine_2 | refine_3 =>
    refine (State.flag_congr (State.fld_mrtCode _ _ _ (by decide) k)).trans ?_
    simp [State.onBrake, State.onMrt, State.flag, Fld.width]
  case refine_4 =>
    refine (State.fld_mrtCode _ _ _ (by decide) k).trans ?_
    simp [State.onBrake, State.onMrt, Fld.width]
  case refine_5 => exact congrArg Brake.valid (brakes_onBrake _ k _)
  case refine_6 => exact congrArg Brake.passAt (brakes_onBrake _ k _)

end Sys2Proof.Machine
end

section
/-! SUPPORT. Safe outputs and brakes: what each command does, and the statement. -/

namespace Sys2Proof.Machine

open Sys2Proof

variable {s t u : State} {k : Nat} {r : BrakeRec}

/-! ### Energising (R273) -/

theorem State.torqueOn_spec (s : State) (k : Nat) : (∀ j b, (s.torqueOn k).chanBit j b = s.chanBit j b)
    ∧ (s.torqueOn k).mrt.chans = s.mrt.chans ∧ (s.torqueOn k).reports = s.reports := by
  obtain ⟨brakes, whole⟩ := s.torqueOn_eq k
  rw [whole]
  exact ⟨fun _ _ => rfl, rfl, rfl⟩

/-- A channel with both switches on, whose check has ended. -/
def State.bothOn (s : State) (k : Nat) : State :=
  (((s.setChanBit k 30 true).setChanBit k 29 true).setChanBit k 31 true).onChan k fun x => { x with step := 0, offAt := none }

theorem State.bothOn_step (s : State) (k : Nat) : ((s.bothOn k).mrt.chans.get k).step = 0 := by
  unfold State.bothOn
  rw [chans_onChan]

theorem State.energised (s : State) (k : Nat) : ((s.bothOn k).torqueOn k).chanBit k 30 = true ∧ ((s.bothOn k).torqueOn k).chanBit k 29 = true
    ∧ ((s.bothOn k).torqueOn k).chanBit k 31 = true ∧ (((s.bothOn k).torqueOn k).mrt.chans.get k).step = 0
    ∧ ((s.bothOn k).torqueOn k).reports = s.reports := by
  obtain ⟨bits, chans, reports⟩ := (s.bothOn k).torqueOn_spec k
  rw [bits, bits, bits, chans, reports]
  exact ⟨by simp [State.bothOn, State.chanBit_setChanBit_same, State.chanBit_setChanBit_bit],
    by simp [State.bothOn, State.chanBit_setChanBit_same, State.chanBit_setChanBit_bit],
    by simp [State.bothOn, State.chanBit_setChanBit_same], s.bothOn_step k, rfl⟩

/-! ### Dark tests (R274) -/

/-- The switch that a channel's next dark test turns off, and the other one. -/
def State.darkBit (s : State) (k : Nat) : Nat := if (s.mrt.chans.get k).nextB then 29 else 30
def State.litBit (s : State) (k : Nat) : Nat := if (s.mrt.chans.get k).nextB then 30 else 29

theorem State.darkBit_cases (s : State) (k : Nat) : (s.darkBit k = 29 ∧ s.litBit k = 30) ∨ (s.darkBit k = 30 ∧ s.litBit k = 29) := by
  unfold State.darkBit State.litBit
  cases (s.mrt.chans.get k).nextB <;> simp

theorem darkTestStart_starts (alive : s.runs 6 = true) (holds : s.holds = true) (enabled : s.darkEn k = true) (on : s.chanBit k 31 = true)
    (idle : s.chanBit k 26 = false) :
    exec (.darkTestStart k) s = .next (((s.setChanBit k (s.darkBit k) false).setChanBit k 26 true).count 13 4) :=
  congrArg Host.Outcome.next ((State.live_runs alive).trans (if_pos (by simp [holds, enabled, on, idle])))

theorem State.darkStarted (s : State) (k : Nat) (on : s.chanBit k 31 = true) :
    let t := ((s.setChanBit k (s.darkBit k) false).setChanBit k 26 true).count 13 4
    t.chanBit k 26 = true ∧ t.chanBit k (s.darkBit k) = false ∧ t.chanBit k (s.litBit k) = s.chanBit k (s.litBit k) ∧ t.chanBit k 31 = true
      ∧ t.mrt = s.mrt := by
  intro t
  have bits (b : Nat) : t.chanBit k b = ((s.setChanBit k (s.darkBit k) false).setChanBit k 26 true).chanBit k b := rfl
  rw [bits, bits, bits, bits]
  obtain ⟨dark, lit⟩ | ⟨dark, lit⟩ := s.darkBit_cases k <;> rw [dark, lit] <;>
    exact ⟨State.chanBit_setChanBit_same _ _, by simp [State.chanBit_setChanBit_same, State.chanBit_setChanBit_bit],
      by simp [State.chanBit_setChanBit_bit], by simp [State.chanBit_setChanBit_bit, on], rfl⟩

/-- A dark test that showed off has ended: the switch is on again, and the other one is next. -/
def State.darkOver (s : State) (k : Nat) : State :=
  ((s.setChanBit k (s.darkBit k) true).setChanBit k 26 false).onChan k fun x => { x with nextB := !x.nextB }

theorem State.darkEnded (s : State) (k : Nat) : (s.darkOver k).chanBit k 26 = false ∧ (s.darkOver k).chanBit k (s.darkBit k) = true
    ∧ ((s.darkOver k).mrt.chans.get k).nextB = !(s.mrt.chans.get k).nextB ∧ (s.darkOver k).reports = s.reports := by
  unfold State.darkOver
  rw [State.chanBit_onChan, State.chanBit_onChan, State.chanBit_setChanBit_same, chans_onChan]
  refine ⟨rfl, ?_, rfl, rfl⟩
  obtain ⟨dark, -⟩ | ⟨dark, -⟩ := s.darkBit_cases k <;> rw [dark] <;> simp [State.chanBit_setChanBit_same, State.chanBit_setChanBit_bit]

theorem darkTestEnd_spelt (rb : Bool) (alive : s.runs 6 = true) (testing : s.chanBit k 26 = true) : exec (.darkTestEnd k rb) s = .next (
    if rb then ((s.setChanBit k 26 false).seeReadback k rb).chanFault k
    else s.darkOver k) :=
  congrArg Host.Outcome.next ((State.live_runs alive).trans (if_pos testing))

/-! ### BRAKE_TEST (R277) -/

theorem brakeTest_served (who : Initiator) (reaches : ReachesReg s who .MRT_CMD 0) (running : s.mrtRuns = true) :
    exec (.brakeTest who k) s = .next { (served s who).brakeTest k with resp := .done } := by
  have runs : (served s who).mrtRuns = true := (served_congr State.mrtRuns s who 4 fun _ => rfl).trans running
  have ran : exec (.brakeTest who k) s = .next { ((served s who).when (served s who).mrtRuns fun u => u.brakeTest k) with resp := .done } :=
    congrArg Host.Outcome.next (rowWrite_reaches s who _ _ _ reaches)
  rw [ran, State.when, if_pos runs]

theorem State.brakeTest_none (absent : s.brakeRec k = none) : s.brakeTest k = s.mrtCode 0x0C08 k := by
  unfold State.brakeTest
  rw [absent]

theorem State.brakeTest_some (found : s.brakeRec k = some r) : s.brakeTest k =
    if s.chanBit (16 + k) 31 || (s.fnForBrake k none).any s.fnDemand || !s.flag F.MRT_CONN_STAT_VALID r.conn then s.mrtCode 0x0C08 k
    else if s.testStep k ≠ 0 then s
    else (s.setFld F.MRT_BRK_STAT_STEP k 1).onBrake k fun b => { b with base := s.brakeCount r, began := some s.now } := by
  unfold State.brakeTest
  rw [found]

/-! ### BRAKE_TEST_STEP (R277) -/

theorem brakeTestStep_some (frames rb : Bool) (alive : s.runs 6 = true) (found : s.brakeRec k = some r) (testing : s.testStep k ≠ 0) :
    exec (.brakeTestStep k frames rb) s = .next (
      if r.tol < moved (s.brakeCount r) (s.mrt.brakes.get k).base then s.testFail k
      else if s.stepOver k r then s.judgeStep k r frames rb
      else s) := by
  refine congrArg Host.Outcome.next ((State.live_runs alive).trans ?_)
  rw [found]
  exact if_neg testing

theorem State.judgeStep_one (frames rb : Bool) (step : s.testStep k = 1) : s.judgeStep k r frames rb =
    ((s.toStep k 2).onBrake k fun b => { b with base := s.brakeCount r }).chanTo r.sto true true := by
  simp only [State.judgeStep, step]

theorem State.judgeStep_two (frames rb : Bool) (step : s.testStep k = 2) : s.judgeStep k r frames rb =
    if frames then (s.toStep k 3).chanOff r.sto else s.testFail k := by
  simp only [State.judgeStep, step]

theorem State.judgeStep_three (frames rb : Bool) (step : s.testStep k = 3) : s.judgeStep k r frames rb =
    if rb then s.testFail k else s.toStep k 4 := by
  simp only [State.judgeStep, step]

theorem State.judgeStep_four (frames rb : Bool) (step : s.testStep k = 4) : s.judgeStep k r frames rb = s.testPass k := by
  simp only [State.judgeStep, step]

theorem State.testStep_toStep (s : State) (k : Nat) {n : Nat} (small : n < 16) : (s.toStep k n).testStep k = n := s.testStep_setStep k small

/-! ### Expiry (R276) -/

theorem testIntervalExpiry_expires {h : Nat} (alive : s.runs 6 = true) (found : s.brakeRec k = some r) (passed : (s.mrt.brakes.get k).passAt = some h)
    (valid : (s.mrt.brakes.get k).valid = true) (over_ : h + s.ms (60000 * r.interval) ≤ s.now) :
    exec (.testIntervalExpiry k) s = .next ((s.setFld F.MRT_BRK_STAT_TEST_DUE k 1).onBrake k fun b =>
      { b with valid := false, expired := if b.acd then some s.now else none }) := by
  refine congrArg Host.Outcome.next ((State.live_runs alive).trans ?_)
  rw [found, passed]
  exact if_pos ⟨valid, over_⟩

theorem brakeApplyAfterExpiry_applies {h : Nat} (alive : s.runs 6 = true) (expired : (s.mrt.brakes.get k).expired = some h)
    (over_ : h + s.ms 600000 ≤ s.now) (cycle : (s.mrt.brakes.get k).acd = true) : exec (.brakeApplyAfterExpiry k) s =
    .next (((s.chanOff (16 + k)).onBrake k fun b => { b with acd := false, expired := none, said := true }).mrtCode 0x0C08 k) := by
  refine congrArg Host.Outcome.next ((State.live_runs alive).trans ?_)
  rw [expired]
  exact if_pos ⟨over_, cycle⟩

/-! ### The statement's parts -/

theorem brakeTest_clauses (s : State) (who : Initiator) (k : Nat) (r : BrakeRec) (reaches : ReachesReg s who .MRT_CMD 0) (running : s.mrtRuns = true)
    (found : s.brakeRec k = some r) :
    (s.chanBit (16 + k) 31 = true ∨ (s.fnForBrake k none).any s.fnDemand = true ∨ s.flag F.MRT_CONN_STAT_VALID r.conn = false →
      exec (.brakeTest who k) s = .next { (served s who).mrtCode 0x0C08 k with resp := .done })
    ∧ (s.chanBit (16 + k) 31 = false → (s.fnForBrake k none).any s.fnDemand = false → s.flag F.MRT_CONN_STAT_VALID r.conn = true →
      (s.testStep k ≠ 0 → exec (.brakeTest who k) s = .next { served s who with resp := .done })
      ∧ (s.testStep k = 0 → ∃ t, exec (.brakeTest who k) s = .next t ∧ t.testStep k = 1 ∧ (t.mrt.brakes.get k).base = s.brakeCount r
        ∧ (t.mrt.brakes.get k).began = some s.now ∧ CellsKept [(.MRT_BRK_STAT, k)] s t ∧ t.reports = s.reports)) := by
  have ran := brakeTest_served (k := k) who reaches running
  have same : (served s who).brakeRec k = some r := (served_congr (State.brakeRec · k) s who 4 fun _ => rfl).trans found
  have on : (served s who).chanBit (16 + k) 31 = s.chanBit (16 + k) 31 := served_congr (State.chanBit · (16 + k) 31) s who 4 fun _ => rfl
  have demand : ((served s who).fnForBrake k none).any (served s who).fnDemand = (s.fnForBrake k none).any s.fnDemand :=
    served_congr (fun s => (s.fnForBrake k none).any s.fnDemand) s who 4 fun _ => rfl
  have valid := served_flag (s := s) (who := who) (n := 4) F.MRT_CONN_STAT_VALID r.conn
  have step : (served s who).testStep k = s.testStep k := served_congr (State.testStep · k) s who 4 fun _ => rfl
  have count : (served s who).brakeCount r = s.brakeCount r := served_congr (State.brakeCount · r) s who 4 fun _ => rfl
  have now : (served s who).now = s.now := served_congr State.now s who 4 fun _ => rfl
  rw [State.brakeTest_some same, on, demand, valid, step, count, now] at ran
  refine ⟨fun unfit => ?_, fun off calm bound => ⟨fun testing => ?_, fun idle => ?_⟩⟩
  · rw [if_pos (by simpa [or_assoc] using unfit)] at ran
    exact ran
  · rw [if_neg (by simp [off, calm, bound]), if_pos testing] at ran
    exact ran
  · rw [if_neg (by simp [off, calm, bound]), if_neg (not_not.mpr idle)] at ran
    refine ⟨_, ran, State.testStep_setStep _ k (by decide), congrArg Brake.base (brakes_onBrake _ k _),
      congrArg Brake.began (brakes_onBrake _ k _), ?_, served_reports s who 4⟩
    simp [State.onBrake, State.onMrt]

theorem brakeTestStep_clauses (s : State) (k : Nat) (r : BrakeRec) (frames rb : Bool) (alive : s.runs 6 = true) (found : s.brakeRec k = some r)
    (testing : s.testStep k ≠ 0) :
    let far := r.tol < moved (s.brakeCount r) (s.mrt.brakes.get k).base
    (¬ far → s.stepOver k r = false → exec (.brakeTestStep k frames rb) s = .next s)
    ∧ (far ∨ s.stepOver k r = true ∧ (s.testStep k = 2 ∧ frames = false ∨ s.testStep k = 3 ∧ rb = true) →
      ∃ t, exec (.brakeTestStep k frames rb) s = .next t
      ∧ t.testStep k = 0 ∧ t.flag F.MRT_BRK_STAT_TEST_FAIL k = true ∧ (r.sto < 16 → ChannelOff r.sto t)
      ∧ (⟨0x0C04, k⟩ : Report) ∈ t.reports.drop s.reports.length)
    ∧ (¬ far → s.stepOver k r = true → s.testStep k = 1 → ∃ t, exec (.brakeTestStep k frames rb) s = .next t ∧ t.testStep k = 2
      ∧ (t.mrt.brakes.get k).base = s.brakeCount r ∧ t.reports = s.reports)
    ∧ (¬ far → s.stepOver k r = true → s.testStep k = 2 → frames = true → ∃ t, exec (.brakeTestStep k frames rb) s = .next t
      ∧ t.testStep k = 3 ∧ ChannelOff r.sto t)
    ∧ (¬ far → s.stepOver k r = true → s.testStep k = 3 → rb = false → exec (.brakeTestStep k frames rb) s = .next (s.toStep k 4))
    ∧ (¬ far → s.stepOver k r = true → s.testStep k = 4 → ∃ t, exec (.brakeTestStep k frames rb) s = .next t ∧ t.testStep k = 0
      ∧ t.flag F.MRT_BRK_STAT_TEST_FAIL k = false ∧ t.flag F.MRT_BRK_STAT_TEST_DUE k = false ∧ t.fld F.MRT_BRK_STAT_AGE k = 0
      ∧ (t.mrt.brakes.get k).valid = true ∧ (t.mrt.brakes.get k).passAt = some s.now ∧ t.reports = s.reports ++ [⟨0x0C84, k⟩]) := by
  intro far
  have ran := brakeTestStep_some frames rb alive found testing
  have judged (near : ¬ far) (over_ : s.stepOver k r = true) : exec (.brakeTestStep k frames rb) s = .next (s.judgeStep k r frames rb) := by
    rw [ran, if_neg near, if_pos over_]
  have fails (ran : exec (.brakeTestStep k frames rb) s = .next (s.testFail k)) : ∃ t, exec (.brakeTestStep k frames rb) s = .next t
      ∧ t.testStep k = 0 ∧ t.flag F.MRT_BRK_STAT_TEST_FAIL k = true ∧ (r.sto < 16 → ChannelOff r.sto t)
      ∧ (⟨0x0C04, k⟩ : Report) ∈ t.reports.drop s.reports.length := by
    obtain ⟨step, flag, off, reported⟩ := s.testFail_spec k
    exact ⟨_, ran, step, flag, off r found, reported⟩
  refine ⟨fun near waits => ?_, fun failed => fails ?_, fun near over_ step => ?_, fun near over_ step arrive => ?_,
    fun near over_ step off => ?_, fun near over_ step => ?_⟩
  · rw [ran, if_neg near, if_neg (by simp [waits])]
  · by_cases near : far
    · rw [ran, if_pos near]
    · obtain ⟨over_, ⟨step, missing⟩ | ⟨step, on⟩⟩ := failed.resolve_left near
      · rw [judged near over_, State.judgeStep_two _ _ step, missing]
        rfl
      · rw [judged near over_, State.judgeStep_three _ _ step, on]
        rfl
  · have ran' := judged near over_
    rw [State.judgeStep_one _ _ step] at ran'
    obtain ⟨steps, brakes, reports⟩ := State.chanTo_both ((s.toStep k 2).onBrake k fun b => { b with base := s.brakeCount r }) r.sto
    refine ⟨_, ran', (steps k).trans (s.testStep_toStep k (by decide)), ?_, reports⟩
    rw [brakes]
    exact congrArg Brake.base (brakes_onBrake _ k _)
  · have ran' := judged near over_
    rw [State.judgeStep_two _ _ step, if_pos arrive] at ran'
    exact ⟨_, ran', (State.testStep_chanOff _ _ k).trans (s.testStep_toStep k (by decide)), (State.chanOff_bits _ _).1⟩
  · rw [judged near over_, State.judgeStep_three _ _ step, off]
    rfl
  · have ran' := judged near over_
    rw [State.judgeStep_four _ _ step] at ran'
    exact ⟨_, ran', s.testPass_spec k⟩

/-- Settles O43. -/
theorem safeOutputsAndBrakesAreTested : Obligations.SafeOutputsAndBrakesAreTested := by
  unfold Obligations.SafeOutputsAndBrakesAreTested
  refine ⟨fun s k rb alive agrees => ?_, fun s k rb alive differs => ?_, fun s k alive stepping => ?_, fun s k alive first => ?_,
    fun s k alive second => ?_, fun s k rb idle => ?_, fun s k alive holds enabled on idle => ?_, fun s k alive testing => ⟨?_, ?_⟩,
    brakeTest_clauses, fun s who k reaches running absent => ?_, brakeTestStep_clauses,
    fun s k h r alive found passed valid over_ => testIntervalExpiry_expires alive found passed valid over_,
    fun s k h alive expired over_ cycle => ?_⟩
  · obtain ⟨shown, others, cells⟩ := s.seeReadback_bits k rb
    exact ⟨_, readbackCheck_agrees alive agrees, shown, fun b other _ => others b other, rfl, cells, (testsOnly_seeReadback s k rb).memKept⟩
  · obtain ⟨faulted, readback, -⟩ := State.chanFault_faulted (s.seeReadback_keeps k rb) (testsOnly_seeReadback s k rb) k
    exact ⟨_, readbackCheck_differs alive differs, faulted, readback.trans (s.seeReadback_bits k rb).1⟩
  · have ran := energiseCheckStep_spelt s k true
    rw [State.live_runs alive, if_neg stepping, if_pos rfl] at ran
    exact ⟨_, ran, (State.chanFault_faulted (s.seeReadback_keeps k true) (testsOnly_seeReadback s k true) k).1⟩
  · have ran := energiseCheckStep_spelt s k false
    rw [State.live_runs alive, if_neg (by omega), if_neg Bool.false_ne_true, if_pos first] at ran
    refine ⟨_, ran, ?_, ?_, ?_, congrArg SafeChan.step (chans_onChan _ k _), rfl⟩ <;>
      simp [State.chanBit_setChanBit_same, State.chanBit_setChanBit_bit]
  · have ran : exec (.energiseCheckStep k false) s = .next ((s.bothOn k).torqueOn k) := by
      rw [energiseCheckStep_spelt, State.live_runs alive, if_neg (by omega), if_neg Bool.false_ne_true, if_neg (by omega), State.bothOn]
    exact ⟨_, ran, s.energised k⟩
  · rw [energiseCheckStep_spelt, if_pos idle, live_idle]
  · exact ⟨_, darkTestStart_starts alive holds enabled on idle, s.darkStarted k on⟩
  · have ran := darkTestEnd_spelt false alive testing
    rw [if_neg Bool.false_ne_true] at ran
    exact ⟨_, ran, s.darkEnded k⟩
  · have ran := darkTestEnd_spelt true alive testing
    rw [if_pos rfl] at ran
    obtain ⟨faulted, -, ended⟩ := State.chanFault_faulted ((s.setChanBit_keeps k 26 false).trans (State.seeReadback_keeps _ k true))
      ((testsOnly_setChanBit s k 26 false).trans (testsOnly_seeReadback _ k true)) k
    exact ⟨_, ran, faulted, ended⟩
  · rw [brakeTest_served who reaches running, State.brakeTest_none ((served_congr (State.brakeRec · k) s who 4 fun _ => rfl).trans absent)]
  · refine ⟨_, brakeApplyAfterExpiry_applies alive expired over_ cycle, ?_, congrArg Brake.acd (brakes_onBrake _ k _),
      congrArg Brake.expired (brakes_onBrake _ k _), mem_reports_drop (State.chanOff_keeps s (16 + k)).reports rfl⟩
    obtain ⟨on, swA, swB⟩ := (s.chanOff_bits (16 + k)).1
    exact ⟨(State.chanBit_mrtCode _ _ _ _ _).trans on, (State.chanBit_mrtCode _ _ _ _ _).trans swA, (State.chanBit_mrtCode _ _ _ _ _).trans swB⟩

end Sys2Proof.Machine
end

section
/-! SUPPORT. Safe inputs: levels, faults and supply pulses (R267 to R271, R286). -/

namespace Sys2Proof.Machine

open Sys2Proof

variable {s t u : State}

/-! ### What the judgement of an input leaves (R267, R271) -/

/-- The registers of inputs, channels and brakes. -/
def inputRegs : List Reg := [.MRT_IN_STAT, .MRT_OUT_STAT, .MRT_BRK_STAT, .MRT_STAT]

/-- The levels and the disagreements of the inputs stay, and every register beside Mortise's. -/
structure LevelsKept (s t : State) : Prop where
  chA : ∀ n, t.inA n = s.inA n
  chB : ∀ n, t.inB n = s.inB n
  run : ∀ n, t.flag F.MRT_IN_STAT_RUN n = s.flag F.MRT_IN_STAT_RUN n
  differ : ∀ n, (t.mrt.ins.get n).differ = (s.mrt.ins.get n).differ
  regs : RegsKept inputRegs s t
  mem : t.mem = s.mem

theorem LevelsKept.refl (s : State) : LevelsKept s s := ⟨fun _ => rfl, fun _ => rfl, fun _ => rfl, fun _ => rfl, RegsKept.refl _ s, rfl⟩

theorem LevelsKept.trans (first : LevelsKept s t) (second : LevelsKept t u) : LevelsKept s u :=
  ⟨fun n => (second.chA n).trans (first.chA n), fun n => (second.chB n).trans (first.chB n), fun n => (second.run n).trans (first.run n),
    fun n => (second.differ n).trans (first.differ n), first.regs.trans second.regs, second.mem.trans first.mem⟩

theorem levelsKept_ite {c : Prop} [Decidable c] (yes : LevelsKept s t) (no : LevelsKept s u) : LevelsKept s (if c then t else u) := by
  split <;> assumption

theorem levelsKept_foldl (l : List Nat) (f : State → Nat → State) (next : ∀ t n, LevelsKept t (f t n)) (s : State) : LevelsKept s (l.foldl f s) := by
  induction l generalizing s with
  | nil => exact LevelsKept.refl s
  | cons n l ih => exact (next s n).trans (ih _)

theorem levelsKept_of (regs : t.regs = s.regs) (differ : ∀ n, (t.mrt.ins.get n).differ = (s.mrt.ins.get n).differ) (mem : t.mem = s.mem) :
    LevelsKept s t := by
  have same : RegsKept [] s t := regsKept_of_regs regs
  exact ⟨fun n => same.flag (by simp) n, fun n => same.flag (by simp) n, fun n => same.flag (by simp) n, differ, same.mono (by simp), mem⟩

theorem levelsKept_mrt (s : State) (f : Mrt → Mrt) (ins : (f s.mrt).ins = s.mrt.ins) : LevelsKept s (s.onMrt f) :=
  levelsKept_of rfl (fun n => congrArg (fun a : Arr SafeIn => (a.get n).differ) ins) rfl

theorem levelsKept_onIn (s : State) (n : Nat) {f : SafeIn → SafeIn} (differ : ∀ x, (f x).differ = x.differ) : LevelsKept s (s.onIn n f) := by
  refine levelsKept_of rfl (fun m => ?_) rfl
  show ((s.mrt.ins.upd n f).get m).differ = _
  by_cases same : m = n
  · rw [same, Arr.get_upd_same, differ]
  · rw [Arr.get_upd_ne _ same]

/-- A field of the inputs' status below the levels. -/
theorem levelsKept_setFld (s : State) {f : Fld} (n v : Nat) (own : f.reg = .MRT_IN_STAT) (below : f.hi < 29) (order : f.lo ≤ f.hi) :
    LevelsKept s (s.setFld f n v) := by
  have kept {g : Fld} (above : 29 ≤ g.lo) (ordered : g.lo ≤ g.hi) (m : Nat) : (s.setFld f n v).flag g m = s.flag g m :=
    State.flag_setFld_apart s (.inr (.inr (by omega))) ⟨by omega, order, ordered⟩
  exact ⟨fun m => kept (by decide) (by decide) m, fun m => kept (by decide) (by decide) m, fun m => kept (by decide) (by decide) m, fun _ => rfl,
    (regsKept_setFld (by rw [own]; decide)).mpr (RegsKept.refl _ s), rfl⟩

/-- A change of registers that are not the inputs' own. -/
theorem levelsKept_tests (only : RegsKept testRegs s t) (ins : t.mrt.ins = s.mrt.ins) (mem : t.mem = s.mem) : LevelsKept s t :=
  ⟨fun n => only.flag (by decide) n, fun n => only.flag (by decide) n, fun n => only.flag (by decide) n,
    fun n => congrArg (fun a : Arr SafeIn => (a.get n).differ) ins, only.mono (by decide), mem⟩

theorem levelsKept_mrtCode (s : State) (code n : Nat) : LevelsKept s (s.mrtCode code n) := levelsKept_tests (s.mrtCode_test code n) rfl rfl

theorem levelsKept_startupStep (s : State) (n : Nat) : LevelsKept s (s.startupStep n) := by
  unfold State.startupStep
  refine levelsKept_ite (LevelsKept.refl s) (levelsKept_ite (levelsKept_onIn s n fun _ => rfl) (levelsKept_ite ?_ (LevelsKept.refl s)))
  refine LevelsKept.trans (LevelsKept.trans (levelsKept_setFld s (f := F.MRT_IN_STAT_STARTUP_PEND) n 0 rfl (by decide) (by decide))
    (levelsKept_onIn _ n ?_)) (levelsKept_mrtCode _ _ _)
  exact fun _ => rfl

theorem levelsKept_tryClearIn (s : State) (n : Nat) : LevelsKept s (s.tryClearIn n) := by
  unfold State.tryClearIn
  refine levelsKept_ite ?_ (LevelsKept.refl s)
  exact ((((levelsKept_setFld s n 0 rfl (by decide) (by decide)).trans (levelsKept_setFld _ n 0 rfl (by decide) (by decide))).trans
    (levelsKept_setFld _ n 0 rfl (by decide) (by decide))).trans (levelsKept_setFld _ (f := F.MRT_IN_STAT_STARTUP_PEND) n _ rfl (by decide) (by decide))).trans
    (levelsKept_onIn _ n fun _ => rfl)

theorem levelsKept_functionReset (s : State) (src : Nat) : LevelsKept s (s.functionReset src) := by
  unfold State.functionReset
  refine levelsKept_foldl _ _ (fun t f => ?_) s
  refine ((levelsKept_mrt t _ rfl).trans (levelsKept_foldl _ _ (fun t n => ?_) _)).trans (levelsKept_foldl _ _ (fun t k => ?_) _)
  · refine levelsKept_ite (LevelsKept.trans (levelsKept_onIn t n ?_) (levelsKept_tryClearIn _ n)) (LevelsKept.refl t)
    exact fun _ => rfl
  · cases (t.mrt.chans.get k).offAt with
    | none => exact LevelsKept.refl t
    | some o => exact levelsKept_ite (levelsKept_tests (t.setChanBit_test k 27 false) rfl rfl) (LevelsKept.refl t)

theorem levelsKept_resetLevel (s : State) (src key : Nat) (down : Bool) : LevelsKept s (s.resetLevel src key down) := by
  unfold State.resetLevel
  split
  · exact levelsKept_mrt s _ rfl
  · exact levelsKept_ite ((levelsKept_mrt s _ rfl).trans (levelsKept_functionReset _ src)) (levelsKept_mrt s _ rfl)
  · exact LevelsKept.refl s

/-! ### INPUT_CHANNEL_CHANGE (R267) -/

/-- A channel's new level, before the input is judged. -/
def State.levelTaken (s : State) (n : Nat) (chB run : Bool) : State :=
  let t := if chB then s.setFlag F.MRT_IN_STAT_CH_B n run else s.setFlag F.MRT_IN_STAT_CH_A n run
  let t := t.onIn n fun x => if chB then { x with sinceB := s.now } else { x with sinceA := s.now }
  let t := t.onIn n fun x => { x with differ := if t.inA n != t.inB n then some (x.differ.getD s.now) else none }
  t.setFlag F.MRT_IN_STAT_RUN n (t.inA n && t.inB n)

theorem State.levelTaken_spec (s : State) (n : Nat) (chB run : Bool) :
    (s.levelTaken n chB run).inA n = (if chB then s.inA n else run)
    ∧ (s.levelTaken n chB run).inB n = (if chB then run else s.inB n)
    ∧ (s.levelTaken n chB run).flag F.MRT_IN_STAT_RUN n = ((s.levelTaken n chB run).inA n && (s.levelTaken n chB run).inB n)
    ∧ ((s.levelTaken n chB run).mrt.ins.get n).differ =
      (if (s.levelTaken n chB run).inA n = (s.levelTaken n chB run).inB n then none else some ((s.mrt.ins.get n).differ.getD s.now))
    ∧ RegsKept [.MRT_IN_STAT] s (s.levelTaken n chB run) ∧ (s.levelTaken n chB run).mem = s.mem := by
  cases chB <;> refine ⟨by simp [State.levelTaken, State.inA, State.inB, State.onIn, State.onMrt],
    by simp [State.levelTaken, State.inA, State.inB, State.onIn, State.onMrt], by simp [State.levelTaken, State.inA, State.inB, State.onIn, State.onMrt],
    ?_, by simp [State.levelTaken, State.onIn, State.onMrt], rfl⟩ <;>
    simp [State.levelTaken, State.inA, State.inB, State.onIn, State.onMrt]

/-- The level as channel B of an antivalent input shows it. -/
def State.runLevel (s : State) (n : Nat) (chB level : Bool) : Bool := if (s.inRec n).typ = 2 ∧ chB = true then !level else level

theorem State.channelChange_eq (s : State) {n : Nat} (chB level : Bool) (used : ¬ ((s.inRec n).typ = 0 ∨ (s.inRec n).typ = 3)) :
    s.channelChange n chB level = if (s.inRec n).typ = 4 then (s.levelTaken n chB (s.runLevel n chB level)).resetLevel n n
        ((s.levelTaken n chB (s.runLevel n chB level)).inA n && (s.levelTaken n chB (s.runLevel n chB level)).inB n)
      else (s.levelTaken n chB (s.runLevel n chB level)).startupStep n := by
  rw [State.channelChange, if_neg used]
  rfl

theorem State.channelChange_unused (s : State) {n : Nat} (chB level : Bool) (unused : (s.inRec n).typ = 0 ∨ (s.inRec n).typ = 3) :
    s.channelChange n chB level = s := if_pos unused

theorem inputChannelChange_clause (s : State) (n : Nat) (chB level : Bool) (alive : s.runs 6 = true) (used : (s.inRec n).typ ≠ 0)
    (counts : (s.inRec n).typ ≠ 3) : ∃ t, exec (.inputChannelChange n chB level) s = .next t
    ∧ t.inA n = (if chB then s.inA n else level)
    ∧ t.inB n = (if chB then (if (s.inRec n).typ = 2 then !level else level) else s.inB n)
    ∧ t.flag F.MRT_IN_STAT_RUN n = (t.inA n && t.inB n)
    ∧ (t.mrt.ins.get n).differ = (if t.inA n = t.inB n then none else some ((s.mrt.ins.get n).differ.getD s.now))
    ∧ RegsKept [.MRT_IN_STAT, .MRT_OUT_STAT, .MRT_BRK_STAT, .MRT_STAT] s t ∧ MemKept s t := by
  have ran : exec (.inputChannelChange n chB level) s = .next (s.channelChange n chB level) := congrArg Host.Outcome.next (State.live_runs alive)
  obtain ⟨chA, chB', run, differ, regs, mem⟩ := s.levelTaken_spec n chB (s.runLevel n chB level)
  have kept : LevelsKept (s.levelTaken n chB (s.runLevel n chB level)) (s.channelChange n chB level) := by
    rw [s.channelChange_eq chB level (not_or.mpr ⟨used, counts⟩)]
    exact levelsKept_ite (levelsKept_resetLevel _ n n _) (levelsKept_startupStep _ n)
  refine ⟨_, ran, ?_, ?_, ?_, ?_, (regs.mono (by simp)).trans kept.regs, memKept_of_mem (kept.mem.trans mem)⟩
  · rw [kept.chA, chA]
    cases chB <;> simp [State.runLevel]
  · rw [kept.chB, chB']
    cases chB <;> simp [State.runLevel]
  · rw [kept.run, kept.chA, kept.chB, run]
  · rw [kept.differ, kept.chA, kept.chB, differ]

end Sys2Proof.Machine
end

section
/-! SUPPORT. Supply pulses, discrepancies and counter inputs (R268 to R271). -/

namespace Sys2Proof.Machine

open Sys2Proof

variable {s t u : State} {n : Nat}

/-! ### Faults of inputs (R269) -/

theorem State.inFault_again (faulted : s.flag F.MRT_IN_STAT_FAULT n = true) (cause supply : Nat) :
    s.inFault n cause supply = s.onIn n fun x => { x with resets := [], fineA := 0, fineB := 0 } := if_pos faulted

theorem State.inFault_first (sound : s.flag F.MRT_IN_STAT_FAULT n = false) (cause supply : Nat) : s.inFault n cause supply =
    ((((s.setFld F.MRT_IN_STAT_FAULT n 1).setFld F.MRT_IN_STAT_CAUSE n cause).setFld F.MRT_IN_STAT_SUPPLY n (if cause = 3 then supply else 0)).onIn n
      fun x => { x with resets := [], fineA := 0, fineB := 0 }).mrtCode 0x0C01 n := if_neg (Bool.eq_false_iff.mp sound)

/-- The cells that a judgement of one input changes, and memory. -/
structure OneInput (n : Nat) (s t : State) : Prop where
  keeps : Keeps s t
  cells : CellsKept [(.MRT_IN_STAT, n), (.MRT_STAT, 0)] s t
  mem : t.mem = s.mem

theorem OneInput.refl (n : Nat) (s : State) : OneInput n s s := ⟨Keeps.refl s, CellsKept.refl _ s, rfl⟩

theorem OneInput.trans (first : OneInput n s t) (second : OneInput n t u) : OneInput n s u :=
  ⟨first.keeps.trans second.keeps, first.cells.trans second.cells, second.mem.trans first.mem⟩

theorem oneInput_ite {c : Prop} [Decidable c] (yes : OneInput n s t) (no : OneInput n s u) : OneInput n s (if c then t else u) := by
  split <;> assumption

theorem oneInput_setFld (s : State) {f : Fld} (v : Nat) (own : f.reg = .MRT_IN_STAT) : OneInput n s (s.setFld f n v) :=
  ⟨State.setFld_keeps s f n v, (cellsKept_setFld (by rw [own]; simp)).mpr (CellsKept.refl _ s), rfl⟩

theorem oneInput_onIn (s : State) (n : Nat) (f : SafeIn → SafeIn) : OneInput n s (s.onIn n f) :=
  ⟨State.onIn_keeps s n f, cellsKept_of_regs rfl, rfl⟩

theorem oneInput_mrtCode (s : State) (code k : Nat) : OneInput n s (s.mrtCode code k) :=
  ⟨State.mrtCode_keeps s code k, (s.mrtCode_cell code k).mono (by simp), rfl⟩

theorem State.inFault_one (s : State) (n cause supply : Nat) : OneInput n s (s.inFault n cause supply) := by
  unfold State.inFault
  refine oneInput_ite (oneInput_onIn s n _) ?_
  exact ((((oneInput_setFld s 1 rfl).trans (oneInput_setFld _ cause rfl)).trans (oneInput_setFld _ _ rfl)).trans (oneInput_onIn _ n _)).trans
    (oneInput_mrtCode _ _ _)

theorem State.tryClearIn_one (s : State) (n : Nat) : OneInput n s (s.tryClearIn n) := by
  unfold State.tryClearIn
  refine oneInput_ite ?_ (OneInput.refl n s)
  exact ((((oneInput_setFld s 0 rfl).trans (oneInput_setFld _ 0 rfl)).trans (oneInput_setFld _ 0 rfl)).trans
    (oneInput_setFld _ (f := F.MRT_IN_STAT_STARTUP_PEND) _ rfl)).trans (oneInput_onIn _ n _)

/-- A faulted input shows FAULT, and a new fault is reported. -/
theorem State.inFault_spec (s : State) (n : Nat) (cause supply : Nat) : (s.inFault n cause supply).flag F.MRT_IN_STAT_FAULT n = true
    ∧ (s.flag F.MRT_IN_STAT_FAULT n = false → (⟨0x0C01, n⟩ : Report) ∈ (s.inFault n cause supply).reports.drop s.reports.length) := by
  by_cases faulted : s.flag F.MRT_IN_STAT_FAULT n = true
  · rw [State.inFault_again faulted]
    exact ⟨faulted, fun sound => absurd (faulted.symm.trans sound) Bool.true_eq_false.mp⟩
  · rw [State.inFault_first (Bool.eq_false_iff.mpr faulted)]
    refine ⟨?_, fun _ => mem_reports_drop List.prefix_rfl rfl⟩
    refine (State.flag_congr (State.fld_mrtCode _ _ _ (by decide) n)).trans ?_
    simp [State.onIn, State.onMrt, Fld.width]

/-- A judgement that finds nothing faults no input. -/
theorem State.tryClearIn_fault (s : State) (n m : Nat) (faulted : (s.tryClearIn n).flag F.MRT_IN_STAT_FAULT m = true) :
    s.flag F.MRT_IN_STAT_FAULT m = true := by
  by_cases other : m = n
  · subst other
    unfold State.tryClearIn at faulted
    dsimp only at faulted
    split at faulted
    case isFalse => exact faulted
    case isTrue held =>
      simp only [Bool.and_eq_true] at held
      exact held.1.1
  · rw [← faulted]
    exact ((s.tryClearIn_one n).cells.flag (by simp [other])).symm

/-! ### SUPPLY_PULSE (R268, R269) -/

/-- The pulse finds its supply failed: it feeds a channel that was high, and none of those is high again. -/
def State.supplyFailed (s : State) (j : Nat) (before after : List Nat) : Bool :=
  decide (((List.range 64).filter fun c => s.fed j c && before.contains c) ≠ [])
    && ((List.range 64).filter fun c => s.fed j c && before.contains c).all fun c => !after.contains c

/-- The cause that the pulse finds at a channel; 0 for none. -/
def State.pulseCause (s : State) (j : Nat) (before low after : List Nat) (c : Nat) : Nat :=
  if s.fed j c then (if s.supplyFailed j before after then 4 else if before.contains c && !low.contains c then 2 else 0)
  else if before.contains c && low.contains c && after.contains c then 3 else 0

/-- The cause that the pulse finds at an input. -/
def State.pulseFound (s : State) (j : Nat) (before low after : List Nat) (n : Nat) : Nat :=
  if s.pulseCause j before low after (2 * n) ≠ 0 then s.pulseCause j before low after (2 * n) else s.pulseCause j before low after (2 * n + 1)

/-- The judgement of one input after a pulse. -/
def State.pulseStep (s : State) (j : Nat) (before low after : List Nat) (n : Nat) (t : State) : State :=
  if s.pulseFound j before low after n ≠ 0 then t.inFault n (s.pulseFound j before low after n) j
  else if s.manualFor n = [] then (t.finePulse j n before).tryClearIn n else t.finePulse j n before

theorem State.supplyPulse_eq (s : State) (j : Nat) (before low after : List Nat) : s.supplyPulse j before low after =
    s.each ((List.range 32).filter fun n => (s.inRec n).pulsed) (s.pulseStep j before low after) := rfl

section Pulse

variable {j : Nat} {before low after : List Nat}

theorem State.pulseStep_one (s : State) (n : Nat) (t : State) : OneInput n t (s.pulseStep j before low after n t) := by
  unfold State.pulseStep
  have fine : OneInput n t (t.finePulse j n before) := oneInput_onIn t n _
  exact oneInput_ite (t.inFault_one n _ j) (oneInput_ite (fine.trans (State.tryClearIn_one _ n)) fine)

theorem State.supplyFailed_of (fed : ∃ d < 64, s.fed j d = true ∧ d ∈ before) (none : ∀ d < 64, s.fed j d = true → d ∈ before → d ∉ after) :
    s.supplyFailed j before after = true := by
  obtain ⟨d, small, feeds, high⟩ := fed
  have listed : d ∈ (List.range 64).filter fun c => s.fed j c && before.contains c := by simp [small, feeds, high]
  simp only [State.supplyFailed, Bool.and_eq_true, decide_eq_true_eq, List.all_eq_true]
  refine ⟨List.ne_nil_of_mem listed, fun c mem => ?_⟩
  simp only [List.mem_filter, List.mem_range, Bool.and_eq_true, List.contains_iff_mem] at mem
  simpa using none c mem.1 mem.2.1 mem.2.2

theorem State.supplyFailed_not (back : ∀ c < 64, c ∈ before → s.fed j c = true → c ∈ after) : s.supplyFailed j before after = false := by
  by_contra failed
  simp only [Bool.not_eq_false, State.supplyFailed, Bool.and_eq_true, decide_eq_true_eq, List.all_eq_true] at failed
  obtain ⟨some, none⟩ := failed
  obtain ⟨c, mem⟩ := List.exists_mem_of_ne_nil _ some
  have out := none c mem
  simp only [List.mem_filter, List.mem_range, Bool.and_eq_true, List.contains_iff_mem] at mem
  simp [back c mem.1 mem.2.2 mem.2.1] at out

theorem State.pulseCause_found {c : Nat} (finding : (s.fed j c = true ∧ c ∈ before ∧ c ∉ low ∧ c ∈ after)
    ∨ (s.fed j c = false ∧ c ∈ before ∧ c ∈ low ∧ c ∈ after)
    ∨ (s.fed j c = true ∧ (∃ d < 64, s.fed j d = true ∧ d ∈ before) ∧ ∀ d < 64, s.fed j d = true → d ∈ before → d ∉ after)) :
    s.pulseCause j before low after c ≠ 0 := by
  unfold State.pulseCause
  obtain ⟨fed, high, stuck, -⟩ | ⟨other, high, pulled, back⟩ | ⟨fed, some, none⟩ := finding
  · rw [if_pos fed]
    split
    · decide
    · simp [high, stuck]
  · simp [other, high, pulled, back]
  · rw [if_pos fed, if_pos (State.supplyFailed_of some none)]
    decide

theorem State.pulseFound_found {c : Nat} (finding : s.pulseCause j before low after c ≠ 0) : s.pulseFound j before low after (c / 2) ≠ 0 := by
  have halves : c = 2 * (c / 2) ∨ c = 2 * (c / 2) + 1 := by omega
  unfold State.pulseFound
  split
  case isTrue found => exact found
  case isFalse first =>
    obtain even | odd := halves
    · exact absurd (even ▸ finding) first
    · exact odd ▸ finding

theorem State.pulseFound_none (calm : ∀ c < 64, c ∈ before → (s.fed j c = true → c ∈ low ∧ c ∈ after) ∧ (s.fed j c = false → c ∉ low))
    (small : n < 32) : s.pulseFound j before low after n = 0 := by
  have fine (c : Nat) (inside : c < 64) : s.pulseCause j before low after c = 0 := by
    have works := State.supplyFailed_not (s := s) (j := j) (before := before) (after := after) fun c small high fed => ((calm c small high).1 fed).2
    unfold State.pulseCause
    by_cases fed : s.fed j c = true
    · rw [if_pos fed, works, if_neg Bool.false_ne_true, if_neg]
      intro stuck
      simp only [Bool.and_eq_true, List.contains_iff_mem, Bool.not_eq_true'] at stuck
      have pulled : c ∈ low := ((calm c inside stuck.1).1 fed).1
      simp [pulled] at stuck
    · rw [if_neg fed, if_neg]
      simp only [Bool.and_eq_true, List.contains_iff_mem]
      exact fun ⟨⟨high, pulled⟩, _⟩ => (calm c inside high).2 (Bool.eq_false_iff.mpr fed) pulled
  unfold State.pulseFound
  rw [fine (2 * n) (by omega), fine (2 * n + 1) (by omega)]
  rfl

theorem State.supplyPulse_kept (s : State) (j : Nat) (before low after : List Nat) : RegsKept [.MRT_IN_STAT, .MRT_STAT] s (s.supplyPulse j before low after)
    ∧ (s.supplyPulse j before low after).mem = s.mem := by
  rw [State.supplyPulse_eq]
  refine ⟨regsKept_each (RegsKept.refl _ s) fun n _ t => (s.pulseStep_one n t).cells.regsKept (by simp), ?_⟩
  exact State.each_congr State.mem fun n _ t => (s.pulseStep_one n t).mem

/-- An input with a finding is faulted, which is reported where it was not. -/
theorem State.supplyPulse_faults (small : n < 32) (pulsed : (s.inRec n).pulsed = true) (found : s.pulseFound j before low after n ≠ 0) :
    (s.supplyPulse j before low after).flag F.MRT_IN_STAT_FAULT n = true
    ∧ (s.flag F.MRT_IN_STAT_FAULT n = false → (⟨0x0C01, n⟩ : Report) ∈ (s.supplyPulse j before low after).reports.drop s.reports.length) := by
  rw [State.supplyPulse_eq]
  have apart {m : Nat} (other : m ≠ n) (t : State) : (s.pulseStep j before low after m t).flag F.MRT_IN_STAT_FAULT n = t.flag F.MRT_IN_STAT_FAULT n :=
    (s.pulseStep_one m t).cells.flag (by simp [other.symm])
  refine State.each_once (k := n) (P := fun t => Keeps s t ∧ t.flag F.MRT_IN_STAT_FAULT n = s.flag F.MRT_IN_STAT_FAULT n)
    (Q := fun t => t.flag F.MRT_IN_STAT_FAULT n = true
      ∧ (s.flag F.MRT_IN_STAT_FAULT n = false → (⟨0x0C01, n⟩ : Report) ∈ t.reports.drop s.reports.length))
    (List.nodup_range.filter _) (by simp [small, pulsed]) ⟨Keeps.refl s, rfl⟩ ?_ ?_ ?_
  · exact fun m other t ⟨keeps, same⟩ => ⟨keeps.trans (s.pulseStep_one m t).keeps, (apart other t).trans same⟩
  · rintro t ⟨keeps, same⟩
    rw [State.pulseStep, if_pos found]
    obtain ⟨faulted, reported⟩ := t.inFault_spec n (s.pulseFound j before low after n) j
    refine ⟨faulted, fun sound => ?_⟩
    obtain ⟨l, grown⟩ := keeps.reports
    have mem := reported (same.trans sound)
    obtain ⟨k, more⟩ := (t.inFault_one n (s.pulseFound j before low after n) j).keeps.reports
    rw [← more, List.drop_left] at mem
    rw [← more, ← grown, List.append_assoc, List.drop_left]
    exact List.mem_append_right l mem
  · rintro m other t ⟨faulted, reported⟩
    exact ⟨(apart other t).trans faulted, fun sound => mem_reports_drop_of_prefix (reported sound) (s.pulseStep_one m t).keeps.reports⟩

/-- A pulse without a finding faults no input. -/
theorem State.supplyPulse_calm (calm : ∀ c < 64, c ∈ before → (s.fed j c = true → c ∈ low ∧ c ∈ after) ∧ (s.fed j c = false → c ∉ low)) (m : Nat)
    (faulted : (s.supplyPulse j before low after).flag F.MRT_IN_STAT_FAULT m = true) : s.flag F.MRT_IN_STAT_FAULT m = true := by
  rw [State.supplyPulse_eq] at faulted
  refine State.each_induct (P := fun t => t.flag F.MRT_IN_STAT_FAULT m = true → s.flag F.MRT_IN_STAT_FAULT m = true) id
    (fun n listed t earlier later => earlier ?_) faulted
  have small : n < 32 := List.mem_range.mp (List.mem_filter.mp listed).1
  rw [State.pulseStep, if_neg (not_not.mpr (State.pulseFound_none calm small))] at later
  split at later
  · exact State.tryClearIn_fault (t.finePulse j n before) n m later
  · exact later

end Pulse

theorem State.inDemand_faulted (faulted : s.flag F.MRT_IN_STAT_FAULT n = true) : s.inDemand n = true := by
  simp [State.inDemand, faulted]

theorem supplyPulse_turn (j : Nat) (before low after : List Nat) (alive : s.runs 6 = true) (running : s.mrtRuns = true)
    (drives : (s.holds || s.beside) = true) (turn : s.pulseTurn j = true) : exec (.supplyPulse j before low after) s =
    .next ((s.supplyPulse j before low after).onMrt fun m => { m with pulse := some (j, s.now), slot := (j + 1) % 16 }) :=
  congrArg Host.Outcome.next ((State.live_runs alive).trans (if_pos (by simp [running, drives, turn])))

theorem supplyPulse_idle (j : Nat) (before low after : List Nat) (unfit : (s.holds || s.beside) = false ∨ s.pulseTurn j = false) :
    exec (.supplyPulse j before low after) s = .next s := by
  refine congrArg Host.Outcome.next ((congrArg (s.live 6) (if_neg ?_)).trans (live_idle s 6))
  obtain none | other := unfit
  · simp [none]
  · simp [other]

/-! ### DISCREPANCY (R270) -/

theorem discrepancy_faults {h : Nat} (alive : s.runs 6 = true) (differ : (s.mrt.ins.get n).differ = some h)
    (lasted : h + s.ms (10 * (s.inRec n).disc) ≤ s.now) : exec (.discrepancy n) s = .next (s.inFault n 1 0) := by
  refine congrArg Host.Outcome.next ((State.live_runs alive).trans ?_)
  rw [differ]
  exact if_pos lasted

theorem discrepancy_idle (agree : (s.mrt.ins.get n).differ = none) : exec (.discrepancy n) s = .next s := by
  refine congrArg Host.Outcome.next (Eq.trans (congrArg (s.live 6) ?_) (live_idle s 6))
  rw [agree]

/-! ### COUNTER_INPUT_EDGE (R271) -/

theorem State.chanOff_ins (s : State) (k : Nat) : (s.chanOff k).mrt.ins = s.mrt.ins := by
  unfold State.chanOff
  dsimp only
  split <;> rfl

theorem State.testFail_ins (s : State) (k : Nat) : (s.testFail k).mrt.ins = s.mrt.ins := by
  show (s.endTest k).mrt.ins = s.mrt.ins
  unfold State.endTest
  dsimp only
  split
  · split
    · exact State.chanOff_ins _ _
    · rfl
  · rfl

theorem testsOnly_testFail (s : State) (k : Nat) : TestsOnly s (s.testFail k) :=
  ((testsOnly_endTest s k).trans (testsOnly_setFld _ k 1 (by decide))).trans (testsOnly_mrtCode _ _ _)

/-- The place of a counter input's levels in the quadrature cycle, and the steps from one to another. -/
def quadPlace (p q : Bool) : Nat := if p then (if q then 2 else 1) else (if q then 3 else 0)
def quadSteps (x : SafeIn) (a b : Bool) : Nat := (quadPlace a b + 4 - quadPlace x.a x.b) % 4

/-- A counter input that took its edge, before the tests of its brakes. -/
def State.edgeTaken (s : State) (n : Nat) (a b : Bool) : State :=
  (s.onIn n fun y => { y with a := a, b := b }).setFld F.MRT_IN_STAT_COUNT n (
    if quadSteps (s.mrt.ins.get n) a b = 1 then s.fld F.MRT_IN_STAT_COUNT n + 1
    else if quadSteps (s.mrt.ins.get n) a b = 3 then s.fld F.MRT_IN_STAT_COUNT n + 65535 else s.fld F.MRT_IN_STAT_COUNT n)

/-- After its edge, the tests of the brakes that the input counts for go on or fail. -/
theorem State.counterEdge_eq (s : State) (n : Nat) (a b : Bool) : ∃ f : Nat → State → State,
    s.counterEdge n a b = (s.edgeTaken n a b).each (List.range 4) f ∧ ∀ k t, f k t = t ∨ f k t = t.testFail k := by
  refine ⟨_, rfl, fun k t => ?_⟩
  cases t.brakeRec k with
  | none => exact .inl rfl
  | some r =>
    dsimp only
    split
    · exact .inr rfl
    · exact .inl rfl

theorem State.counterEdge_kept (s : State) (n : Nat) (a b : Bool) : RegsKept testRegs (s.edgeTaken n a b) (s.counterEdge n a b)
    ∧ (s.counterEdge n a b).mrt.ins = (s.edgeTaken n a b).mrt.ins := by
  obtain ⟨f, whole, step⟩ := s.counterEdge_eq n a b
  rw [whole]
  generalize s.edgeTaken n a b = u
  refine State.each_induct (P := fun t => RegsKept testRegs u t ∧ t.mrt.ins = u.mrt.ins) ⟨RegsKept.refl _ _, rfl⟩ ?_
  rintro k - t ⟨regs, ins⟩
  obtain same | failed := step k t
  · rw [same]
    exact ⟨regs, ins⟩
  · rw [failed]
    exact ⟨regs.trans (testsOnly_testFail t k).1, (t.testFail_ins k).trans ins⟩

theorem State.edgeTaken_ins (s : State) (n : Nat) (a b : Bool) : (s.edgeTaken n a b).mrt.ins.get n = { s.mrt.ins.get n with a := a, b := b } :=
  Arr.get_upd_same s.mrt.ins n _

theorem State.edgeTaken_count (s : State) (n : Nat) (a b : Bool) : (s.edgeTaken n a b).fld F.MRT_IN_STAT_COUNT n =
    (s.fld F.MRT_IN_STAT_COUNT n + (if quadSteps (s.mrt.ins.get n) a b = 1 then 1 else if quadSteps (s.mrt.ins.get n) a b = 3 then 65535 else 0))
      % 65536 := by
  have width : 2 ^ Fld.width F.MRT_IN_STAT_COUNT = 65536 := by decide
  rw [State.edgeTaken, State.fld_setFld_self _ ⟨by decide, by decide⟩, width]
  generalize quadSteps (s.mrt.ins.get n) a b = d
  split
  · rfl
  · split
    · rfl
    · rw [Nat.add_zero]

theorem counterInputEdge_clause (s : State) (n : Nat) (a b : Bool) (alive : s.runs 6 = true) (counts : (s.inRec n).typ = 3) :
    ∃ t, exec (.counterInputEdge n a b) s = .next t
      ∧ t.fld F.MRT_IN_STAT_COUNT n = (s.fld F.MRT_IN_STAT_COUNT n
        + (if quadSteps (s.mrt.ins.get n) a b = 1 then 1 else if quadSteps (s.mrt.ins.get n) a b = 3 then 65535 else 0)) % 65536
      ∧ (t.mrt.ins.get n).a = a ∧ (t.mrt.ins.get n).b = b ∧ (∀ m, m ≠ n → t.reg .MRT_IN_STAT m = s.reg .MRT_IN_STAT m)
      ∧ RegsKept [.MRT_IN_STAT, .MRT_OUT_STAT, .MRT_BRK_STAT, .MRT_STAT] s t := by
  have ran : exec (.counterInputEdge n a b) s = .next (s.counterEdge n a b) :=
    congrArg Host.Outcome.next ((State.live_runs alive).trans (if_pos counts))
  obtain ⟨regs, ins⟩ := s.counterEdge_kept n a b
  have taken : CellsKept [(.MRT_IN_STAT, n)] s (s.edgeTaken n a b) := (cellsKept_setFld (by simp)).mpr (cellsKept_of_regs rfl)
  refine ⟨_, ran, (regs.fld (by decide) n).trans (s.edgeTaken_count n a b), ?_, ?_, fun m other => ?_,
    (taken.regsKept (by simp)).trans (regs.mono (by decide))⟩
  · rw [ins, State.edgeTaken_ins]
  · rw [ins, State.edgeTaken_ins]
  · exact (regs .MRT_IN_STAT m (by decide)).trans (taken .MRT_IN_STAT m (by simp [other]))

/-- Settles O42. -/
theorem safeInputsTakeLevelsAndFaults : Obligations.SafeInputsTakeLevelsAndFaults := by
  unfold Obligations.SafeInputsTakeLevelsAndFaults
  refine ⟨inputChannelChange_clause, fun s n chB level unused => ?_, fun s j before low after alive running drives turn => ?_,
    fun s j before low after unfit => supplyPulse_idle j before low after unfit, fun s n h alive differ lasted sound => ?_,
    fun s n agree => discrepancy_idle agree, counterInputEdge_clause⟩
  · exact congrArg Host.Outcome.next ((congrArg (s.live 6) (s.channelChange_unused chB level unused)).trans (live_idle s 6))
  · obtain ⟨regs, mem⟩ := s.supplyPulse_kept j before low after
    refine ⟨_, supplyPulse_turn j before low after alive running drives turn, rfl, rfl, fun c small pulsed finding => ?_,
      fun calm n faulted => State.supplyPulse_calm calm n faulted, regs, memKept_of_mem mem⟩
    obtain ⟨faulted, reported⟩ := State.supplyPulse_faults (by omega) pulsed (State.pulseFound_found (State.pulseCause_found finding))
    exact ⟨faulted, State.inDemand_faulted faulted, reported⟩
  · rw [discrepancy_faults alive differ lasted]
    have first := State.inFault_first sound 1 0
    refine ⟨_, rfl, (s.inFault_spec n 1 0).1, ?_, by rw [first]; rfl, (s.inFault_one n 1 0).cells, memKept_of_mem (s.inFault_one n 1 0).mem⟩
    rw [first]
    refine (State.fld_mrtCode _ _ _ (by decide) n).trans ?_
    simp [State.onIn, State.onMrt, Fld.width]

end Sys2Proof.Machine
end

section
/-! SUPPORT. The counterexample to O47. -/

namespace Sys2Proof.Machine

/-- A booted device with a bound partner that holds the peg while PEG_STAT.STATE names a standby in CATCHUP: every write of the pair's state
avoids it, but O47 takes any state whose HOLD is set. -/
def holdingStandby : State :=
  let s := ((State.reset.setFld F.PEG_STAT_HOLD 0 1).setFld F.PEG_STAT_LINK 0 1).setFld F.PEG_STAT_STATE 0 3
  { s with sys := { s.sys with booted := true } }

/-- A frame of the partner whose Joinery row names a heat to commit at. -/
def joineryFrame : Mirror where
  crcOk := true
  late := false
  sync := true
  image := 0
  joinery := some ⟨0, none, 100, false⟩
  hot := []
  cold := []
  results := []
  forge := none
  pdo := none
  points := []
  backlog := 0
  ring62 := []
  truss := none
  mortise := none
  seqs := []
  partners := []
  counter := none
  feeder := none

/-- Such a device takes the partner's JNY_APPLY_HEAT as a standby does. -/
theorem mirrorFrame_holdingStandby : (holdingStandby.mirrorFrame joineryFrame).reg .JNY_APPLY_HEAT_LO 0 ≠ holdingStandby.reg .JNY_APPLY_HEAT_LO 0 := by
  decide

/-- Refutes O47: a frame on a device with HOLD = 1 changes more than PEG_STAT. A device whose STATE is 2 to 4 is a standby to `mirrorJoinery`
whatever its HOLD is, and it takes the JNY_APPLY_HEAT of a frame's Joinery row. -/
theorem not_mirrorFramesAndPairedOutputs : ¬ Obligations.MirrorFramesAndPairedOutputs := by
  unfold Obligations.MirrorFramesAndPairedOutputs
  rintro ⟨-, holder, -⟩
  obtain ⟨t, answered, -, -, kept, -⟩ := holder holdingStandby joineryFrame (by decide) rfl (by decide) (by decide)
  have framed : exec (.mirrorFrame joineryFrame) holdingStandby = .next (holdingStandby.mirrorFrame joineryFrame) :=
    congrArg Host.Outcome.next (State.live_runs (by decide))
  obtain rfl : holdingStandby.mirrorFrame joineryFrame = t := Host.Outcome.next.inj (framed.symm.trans answered)
  exact mirrorFrame_holdingStandby (kept .JNY_APPLY_HEAT_LO 0 (by decide))

end Sys2Proof.Machine
end

section
/-! SUPPORT. The pair's role, binding and alignment, and the proof of O46. -/

namespace Sys2Proof.Machine

variable {s t u : State}

/-! ### Shared reads of the pair's state -/

@[simp] theorem State.fld_onPeg (s : State) (f : Peg → Peg) (g : Fld) (i : Nat) : (s.onPeg f).fld g i = s.fld g i := rfl
@[simp] theorem State.flag_onPeg (s : State) (f : Peg → Peg) (g : Fld) (i : Nat) : (s.onPeg f).flag g i = s.flag g i := rfl

/-- A code of the pair changes no field but PEG_STAT.CODE. -/
@[simp] theorem State.fld_pegCode (s : State) (code : Nat) {g : Fld} (other : g.reg ≠ .PEG_STAT ∨ 15 < g.lo) (form : g.lo ≤ g.hi) (i : Nat) :
    (s.pegCode code).fld g i = s.fld g i :=
  State.fld_setFld_apart s (other.imp id .inr) ⟨by decide, by decide, form⟩

@[simp] theorem State.flag_pegCode (s : State) (code : Nat) {g : Fld} (other : g.reg ≠ .PEG_STAT ∨ 15 < g.lo) (form : g.lo ≤ g.hi) (i : Nat) :
    (s.pegCode code).flag g i = s.flag g i := State.flag_congr (s.fld_pegCode code other form i)

theorem State.code_pegCode (s : State) (code : Nat) : (s.pegCode code).fld F.PEG_STAT_CODE = code % 2 ^ 16 :=
  s.fld_setFld_self (f := F.PEG_STAT_CODE) (by decide)

theorem State.pegCode_reports (s : State) (code : Nat) : (s.pegCode code).reports = s.reports ++ [⟨code, 0⟩] := rfl

theorem State.pegCode_peg (s : State) (code : Nat) : (s.pegCode code).peg = s.peg := rfl

/-- Closing the paired discrete outputs writes PEG_PDO alone. -/
theorem State.fld_pdoGate (s : State) {g : Fld} (other : g.reg ≠ .PEG_PDO) (i : Nat) : s.pdoGate.fld g i = s.fld g i :=
  s.pdoGate_regs.fld (by simp [other])

theorem State.flag_pdoGate (s : State) {g : Fld} (other : g.reg ≠ .PEG_PDO) (i : Nat) : s.pdoGate.flag g i = s.flag g i :=
  State.flag_congr (s.fld_pdoGate other i)

/-! ### BIND_HANDSHAKE (R299) -/

/-- The link of an accepted handshake: it is up, and a role that does not fit the partner's is told once. -/
def State.linkUp (s : State) (off : Bool) : State :=
  let t := ((s.setFld F.PEG_STAT_LINK 0 1).setFlag F.PEG_STAT_ROLE_MISMATCH 0 off).showLoad
  if off && !t.peg.roleSaid then (t.onPeg fun p => { p with roleSaid := true }).pegCode 0x0D01 else t

/-- What the pair keeps of its partner. -/
def Peg.seen (p : Peg) (pref : Bool) (image latency : Nat) : Peg :=
  { p with pref := pref, partImage := image, latency := latency, missing := 0, frames := 0, aligned := false, lockGood := 0 }

/-- The part that a bound device takes: the holder's, the standby's of a partner that holds, or neither. -/
def State.bindAs (s : State) (holds : Bool) : State :=
  if s.holds then s
  else if holds then
    let t := (s.setFld F.PEG_STAT_PART_NET 0 0).setFld F.PEG_STAT_STATE 0 2
    (if t.fld F.TRS_STAT_STATE = 1 then t.setFld F.TRS_STAT_STATE 0 3 else t).pdoGate
  else s.setFld F.PEG_STAT_STATE 0 1

/-- The partner of a handshake fits this device: its feature words, its unit, its authentication, and a pair key to bind by. -/
def State.handshakeFits (s : State) (f0 f1 : W32) (ub auth : Bool) : Prop :=
  f0 = s.feat0 ∧ f1.toNat % 2 ^ 24 = s.feat1.toNat % 2 ^ 24 ∧ ub ≠ s.unitB ∧ auth = true ∧ s.hasPairKey = true

theorem State.handshakeFits_iff_not (s : State) (f0 f1 : W32) (ub auth : Bool) : s.handshakeFits f0 f1 ub auth ↔
    ¬ (f0 ≠ s.feat0 ∨ f1.toNat % 2 ^ 24 ≠ s.feat1.toNat % 2 ^ 24 ∨ ub = s.unitB ∨ auth = false ∨ s.hasPairKey = false) := by
  simp only [State.handshakeFits, not_or, ne_eq, not_not, Bool.not_eq_false]

section Handshake

variable {f0 f1 : W32} {ub pref auth holds : Bool} {image lat : Nat}
  (state : s.fld F.PEG_STAT_STATE = 0 ∨ s.fld F.PEG_STAT_STATE = 1 ∨ s.fld F.PEG_STAT_STATE = 5) (fresh : s.peg.refused = false)

include state fresh

theorem State.bindHandshake_unfit (unfit : ¬ s.handshakeFits f0 f1 ub auth) : s.bindHandshake f0 f1 ub pref image auth holds lat =
    (s.onPeg fun p => { p with refused := true }).pegCode 0x0D01 := by
  rw [State.handshakeFits_iff_not, not_not] at unfit
  exact (if_neg (by simp [state, fresh])).trans (if_pos unfit)

theorem State.bindHandshake_fit (fit : s.handshakeFits f0 f1 ub auth) : s.bindHandshake f0 f1 ub pref image auth holds lat =
    (((s.linkUp (decide (pref ≠ s.flag F.PEG_ROLE_PREFERRED))).onPeg fun p => p.seen
      ((s.linkUp (decide (pref ≠ s.flag F.PEG_ROLE_PREFERRED))).flag F.PEG_ROLE_PREFERRED) image lat).bindAs holds) :=
  (if_neg (by simp [state, fresh])).trans (if_neg ((s.handshakeFits_iff_not f0 f1 ub auth).mp fit))

end Handshake

theorem State.linkUp_regs (s : State) (off : Bool) : CellsKept [(.PEG_STAT, 0), (.PEG_MIRROR, 0)] s (s.linkUp off) := by
  unfold State.linkUp
  refine cellsKept_ite ?_ ?_ <;> simp [State.showLoad, State.onPeg, State.pegCode]

theorem State.linkUp_stat (s : State) (off : Bool) : (s.linkUp off).flag F.PEG_STAT_LINK = true ∧ (s.linkUp off).flag F.PEG_STAT_ROLE_MISMATCH = off
    ∧ (s.linkUp off).fld F.PEG_STAT_STATE = s.fld F.PEG_STAT_STATE ∧ (s.linkUp off).holds = s.holds := by
  unfold State.linkUp State.holds
  dsimp only
  split <;> simp [State.showLoad, Fld.width]

/-- What the part that a bound device takes leaves of PEG_STAT. -/
theorem State.bindAs_spec (s : State) (holds : Bool) : RegsKept [.PEG_STAT, .PEG_PDO, .TRS_STAT] s (s.bindAs holds)
    ∧ (s.bindAs holds).flag F.PEG_STAT_LINK = s.flag F.PEG_STAT_LINK
    ∧ (s.bindAs holds).flag F.PEG_STAT_ROLE_MISMATCH = s.flag F.PEG_STAT_ROLE_MISMATCH
    ∧ (s.bindAs holds).fld F.PEG_STAT_STATE = (if s.holds then s.fld F.PEG_STAT_STATE else if holds then 2 else 1)
    ∧ (s.bindAs holds).holds = s.holds ∧ ∃ pdo, (s.bindAs holds).peg = { s.peg with pdo := pdo } := by
  unfold State.bindAs
  by_cases own : s.holds = true
  · rw [if_pos own, if_pos own]
    exact ⟨RegsKept.refl _ s, rfl, rfl, rfl, rfl, s.peg.pdo, rfl⟩
  rw [if_neg own, if_neg own]
  cases holds
  · exact ⟨by simp, by simp, by simp, by simp [Fld.width], by simp [State.holds], s.peg.pdo, rfl⟩
  · dsimp only
    rw [if_pos rfl, if_pos rfl]
    generalize named : (s.setFld F.PEG_STAT_PART_NET 0 0).setFld F.PEG_STAT_STATE 0 2 = t
    generalize seen : (if t.fld F.TRS_STAT_STATE = 1 then t.setFld F.TRS_STAT_STATE 0 3 else t) = u
    have stat : RegsKept [.TRS_STAT] t u := seen ▸ regsKept_ite (by simp) (RegsKept.refl _ t)
    have same : u.peg = s.peg := by
      rw [← seen, ← named]
      split <;> rfl
    obtain ⟨regs, pdo, gated⟩ := u.pdoGate_eq
    refine ⟨?_, ?_, ?_, ?_, ?_, pdo, ?_⟩
    · refine RegsKept.trans ?_ (u.pdoGate_regs.regsKept (by simp))
      exact RegsKept.trans (by rw [← named]; simp) (stat.mono (by simp))
    · rw [u.flag_pdoGate (by decide), stat.flag (by decide), ← named]
      simp
    · rw [u.flag_pdoGate (by decide), stat.flag (by decide), ← named]
      simp
    · rw [u.fld_pdoGate (by decide), stat.fld (by decide), ← named]
      simp [Fld.width]
    · rw [State.holds, u.flag_pdoGate (by decide), stat.flag (by decide), ← named]
      simp [State.holds]
    · rw [gated, ← same]

/-- An accepted handshake. -/
theorem State.bindHandshake_bound (s : State) (off pref holds : Bool) (image lat : Nat) :
    let t := ((s.linkUp off).onPeg fun p => p.seen pref image lat).bindAs holds
    t.flag F.PEG_STAT_LINK = true ∧ t.flag F.PEG_STAT_ROLE_MISMATCH = off ∧ t.peg.partImage = image ∧ t.peg.latency = lat
      ∧ t.fld F.PEG_STAT_STATE = (if s.holds then s.fld F.PEG_STAT_STATE else if holds then 2 else 1) ∧ t.holds = s.holds
      ∧ RegsKept [.PEG_STAT, .PEG_MIRROR, .PEG_PDO, .TRS_STAT] s t := by
  obtain ⟨link, mismatch, state, gate⟩ := s.linkUp_stat off
  have up := (s.linkUp_regs off).regsKept (rs := [.PEG_STAT, .PEG_MIRROR, .PEG_PDO, .TRS_STAT]) (by simp)
  generalize s.linkUp off = w at link mismatch state gate up
  obtain ⟨regs, link', mismatch', state', gate', pdo, peg⟩ := (w.onPeg fun p => p.seen pref image lat).bindAs_spec holds
  generalize (w.onPeg fun p => p.seen pref image lat).bindAs holds = t at regs link' mismatch' state' gate' peg
  refine ⟨link'.trans link, mismatch'.trans mismatch, by rw [peg]; rfl, by rw [peg]; rfl, ?_, gate'.trans gate, ?_⟩
  · rw [← state, ← gate]
    exact state'
  · exact up.trans (RegsKept.trans (regsKept_of_regs rfl) (regs.mono (by simp)))

/-! ### SOLLEY_LINK_LOST (R304) -/

/-- A standby that goes back to BINDING still drives no output that it did not: PEG_PDO stays. -/
theorem State.syncLost_unbound_regs (s : State) : RegsKept [.PEG_STAT, .PEG_SYNC_TIME] s (s.syncLost 1) := by
  unfold State.syncLost
  refine regsKept_ite ?_ (RegsKept.refl _ s)
  generalize named : ((s.setFld F.PEG_STAT_STATE 0 1).setFld F.PEG_SYNC_TIME_HEATS 0 0).onPeg _ = u
  have drives : u.pdoDrives = true := by
    rw [← named]
    simp [State.pdoDrives, Fld.width]
  rw [State.pdoGate, if_pos drives]
  refine RegsKept.trans ?_ ((State.pegCode_regs _ _).regsKept (by simp))
  rw [← named]
  simp [State.onPeg]

/-- The link is down: its bits, and the standby's state. -/
def State.linkDownStat (s : State) (state : Nat) : State :=
  ((s.setFld F.PEG_STAT_LINK 0 0).setFld F.PEG_STAT_PARTNER_SYNC 0 0).setFld F.PEG_STAT_STATE 0 state

/-- What the pair forgets with its link. -/
def Peg.unlinked (p : Peg) : Peg := { p with due := none, aligned := false, frames := 0, missing := 0, results := [], forge := none }

theorem State.solleyLost_lost {lanes : Bool} (link : s.flag F.PEG_STAT_LINK = true) (lost : lanes = true ∨ 3 ≤ s.peg.missing) :
    s.solleyLost lanes = (((s.syncLost 1).linkDownStat
      (if 2 ≤ s.fld F.PEG_STAT_STATE ∧ s.fld F.PEG_STAT_STATE ≤ 4 then 1 else s.fld F.PEG_STAT_STATE)).onPeg Peg.unlinked).pegCode 0x0D05 := by
  refine if_neg ?_
  rintro (down | ⟨kept, few⟩)
  · rw [link] at down
    exact Bool.noConfusion down
  · rcases lost with lost | lost
    · rw [kept] at lost
      exact Bool.noConfusion lost
    · omega

theorem State.linkDownStat_spec (s : State) {state : Nat} (small : state < 8) : CellsKept [(.PEG_STAT, 0)] s (s.linkDownStat state)
    ∧ (s.linkDownStat state).flag F.PEG_STAT_LINK = false ∧ (s.linkDownStat state).flag F.PEG_STAT_PARTNER_SYNC = false
    ∧ (s.linkDownStat state).holds = s.holds ∧ (s.linkDownStat state).fld F.PEG_STAT_STATE = state := by
  refine ⟨by simp [State.linkDownStat], by simp [State.linkDownStat, Fld.width], by simp [State.linkDownStat, Fld.width],
    by simp [State.linkDownStat, State.holds], ?_⟩
  simpa [State.linkDownStat, Fld.width] using Nat.mod_eq_of_lt small

/-- A standby's state after its link is lost fits its field. -/
theorem State.unboundState_lt (s : State) :
    (if 2 ≤ s.fld F.PEG_STAT_STATE ∧ s.fld F.PEG_STAT_STATE ≤ 4 then 1 else s.fld F.PEG_STAT_STATE) < 8 := by
  have bound := s.fld_lt F.PEG_STAT_STATE 0
  split
  · decide
  · exact bound

theorem State.solleyLost_spec {lanes : Bool} (link : s.flag F.PEG_STAT_LINK = true) (lost : lanes = true ∨ 3 ≤ s.peg.missing) :
    let t := s.solleyLost lanes
    t.flag F.PEG_STAT_LINK = false ∧ t.flag F.PEG_STAT_PARTNER_SYNC = false ∧ t.holds = s.holds ∧ t.peg.driven = s.peg.driven
      ∧ t.fld F.PEG_STAT_STATE = (if 2 ≤ s.fld F.PEG_STAT_STATE ∧ s.fld F.PEG_STAT_STATE ≤ 4 then 1 else s.fld F.PEG_STAT_STATE)
      ∧ (⟨0x0D05, 0⟩ : Report) ∈ t.reports.drop s.reports.length ∧ RegsKept [.PEG_STAT, .PEG_SYNC_TIME] s t := by
  have small := s.unboundState_lt
  rw [State.solleyLost_lost link lost]
  generalize (if 2 ≤ s.fld F.PEG_STAT_STATE ∧ s.fld F.PEG_STAT_STATE ≤ 4 then 1 else s.fld F.PEG_STAT_STATE) = state at small
  obtain ⟨gate, driven, -⟩ := s.syncLost_gate 1
  have regs := s.syncLost_unbound_regs
  have earlier : s.reports <+: (s.syncLost 1).reports := (s.syncLost_keeps 1).reports
  generalize s.syncLost 1 = u at gate driven regs earlier
  obtain ⟨cells, down, sync, held, shown⟩ := u.linkDownStat_spec small
  have stays : (u.linkDownStat state).peg.driven = u.peg.driven ∧ (u.linkDownStat state).reports = u.reports := ⟨rfl, rfl⟩
  generalize u.linkDownStat state = v at cells down sync held shown stays
  obtain ⟨drives, told⟩ := stays
  refine ⟨?_, ?_, ?_, drives.trans driven, ?_, ?_, ?_⟩
  · simpa using down
  · simpa using sync
  · have now : v.holds = s.holds := held.trans gate
    simpa [State.holds] using now
  · simpa using shown
  · exact mem_reports_drop (told ▸ earlier) rfl
  · refine RegsKept.trans (regs.trans (cells.regsKept (by simp))) ?_
    exact RegsKept.trans (regsKept_of_regs rfl) ((State.pegCode_regs _ _).regsKept (by simp))

/-! ### PEG_ROLE_WRITE (R290) -/

theorem pegRoleWrite_served (who : Initiator) (b : Bool) (reaches : ReachesReg s who .PEG_ROLE 0) :
    exec (.pegRoleWrite who b) s = .next { (served s who).roleWrite b with resp := .done } :=
  congrArg Host.Outcome.next (rowWrite_reaches s who _ _ _ reaches)

theorem State.roleWrite_same {b : Bool} (same : s.flag F.PEG_ROLE_PREFERRED = b) : s.roleWrite b = s := if_pos same

theorem State.roleWrite_full {b : Bool} (other : s.flag F.PEG_ROLE_PREFERRED ≠ b) (full : s.fld F.PEG_ROLE_CNT_COUNT = 31) :
    s.roleWrite b = s.pegCode 0x0D06 := (if_neg other).trans (if_pos full)

theorem State.roleWrite_changes {b : Bool} (other : s.flag F.PEG_ROLE_PREFERRED ≠ b) (room : s.fld F.PEG_ROLE_CNT_COUNT < 31) :
    s.roleWrite b = (s.bumpSat F.PEG_ROLE_CNT_COUNT 0).setFlag F.PEG_ROLE_PREFERRED 0 b := (if_neg other).trans (if_neg room.ne)

/-! ### CATCHUP_COMPLETE (R301) -/

/-- The standby is in SYNC. -/
def State.inSync (s : State) : State :=
  (((s.setFld F.PEG_STAT_STATE 0 4).setFld F.PEG_SYNC_TIME_HEATS 0 0).onPeg fun p => { p with
    keepers := true, released := false, mismatch := 0, lateRun := 0, lockBad := 0 }).pegCode 0x0D83

theorem State.catchupComplete_standby (idle : s.holds = false) (state : s.fld F.PEG_STAT_STATE = 3) (images : s.peg.partImage = s.jny.active.ident)
    (frames : 100 ≤ s.peg.frames) : s.catchupComplete = s.inSync := by
  unfold State.catchupComplete
  rw [if_neg (by simp [idle]), if_pos ⟨state, images, frames⟩]
  rfl

theorem State.inSync_spec (s : State) : s.inSync.fld F.PEG_STAT_STATE = 4 ∧ s.inSync.fld F.PEG_SYNC_TIME_HEATS = 0 ∧ s.inSync.peg.keepers = true
    ∧ s.inSync.peg.released = false ∧ s.inSync.reports = s.reports ++ [⟨0x0D83, 0⟩] ∧ RegsKept [.PEG_STAT, .PEG_SYNC_TIME] s s.inSync
    ∧ MemKept s s.inSync :=
  ⟨by simp [State.inSync, Fld.width], by simp [State.inSync, Fld.width], rfl, rfl, rfl, by simp [State.inSync, State.onPeg, State.pegCode],
    memKept_of_mem rfl⟩

/-! ### PART_NET_STUCK (R313) -/

/-- The partner's net is stuck low. -/
def State.netStuck (s : State) : State := ((s.setFld F.PEG_STAT_PART_NET 0 0).setFld F.PEG_STAT_PART_NET_STUCK 0 1).pegCode 0x0D03

theorem State.netStuck_spec (s : State) : s.netStuck.flag F.PEG_STAT_PART_NET_STUCK = true ∧ s.netStuck.flag F.PEG_STAT_PART_NET = false
    ∧ s.netStuck.fld F.PEG_STAT_CODE = 0x0D03 ∧ s.netStuck.reports = s.reports ++ [⟨0x0D03, 0⟩] ∧ CellsKept [(.PEG_STAT, 0)] s s.netStuck
    ∧ MemKept s s.netStuck :=
  ⟨by simp [State.netStuck, Fld.width], by simp [State.netStuck, Fld.width], State.code_pegCode _ _, rfl, by simp [State.netStuck, State.pegCode],
    memKept_of_mem rfl⟩

/-- Settles O46: each command of the pair is one of the equations above, whose PEG_STAT, frame and reports are read off. -/
theorem pairBindsAlignsAndLosesItsLink : Obligations.PairBindsAlignsAndLosesItsLink := by
  unfold Obligations.PairBindsAlignsAndLosesItsLink
  refine ⟨?role, ?bind, ?retry, ?noRetry, ?lock, ?noLock, ?holder, ?standby, ?lost, ?kept, ?keepers, ?held, ?beacon, ?stuck⟩
  case role =>
    intro s who b reaches
    have preferred : (served s who).flag F.PEG_ROLE_PREFERRED = s.flag F.PEG_ROLE_PREFERRED := by simp
    have count : (served s who).fld F.PEG_ROLE_CNT_COUNT = s.fld F.PEG_ROLE_CNT_COUNT := by simp
    rw [pegRoleWrite_served who b reaches, ← preferred, ← count]
    refine ⟨fun same => ?_, fun other full => ?_, fun other room => ⟨_, rfl, rfl, ?_⟩⟩
    · rw [State.roleWrite_same same]
    · rw [State.roleWrite_full other full]
    · rw [State.roleWrite_changes other room]
      refine ⟨by simp, ?_, by simp, served_reports s who 4⟩
      have bound : min ((served s who).fld F.PEG_ROLE_CNT_COUNT + 1) 31 = (served s who).fld F.PEG_ROLE_CNT_COUNT + 1 := by omega
      simpa [Fld.width] using bound
  case bind =>
    intro s f0 f1 ub pref image auth holds lat runs state fresh
    have ran : exec (.bindHandshake f0 f1 ub pref image auth holds lat) s = .next (s.bindHandshake f0 f1 ub pref image auth holds lat) :=
      congrArg Host.Outcome.next (State.live_runs runs)
    rw [ran]
    refine ⟨fun unfit => ⟨_, rfl, ?_⟩, fun feat0 feat1 unit authentic key => ⟨_, rfl, ?_⟩⟩
    · rw [State.bindHandshake_unfit state fresh fun fit => (s.handshakeFits_iff_not f0 f1 ub auth).mp fit unfit]
      exact ⟨rfl, State.code_pegCode _ _, rfl, by simp⟩
    · rw [State.bindHandshake_fit state fresh ⟨feat0, feat1, unit, authentic, key⟩]
      exact s.bindHandshake_bound _ _ _ _ _
  case retry =>
    intro s runs refused
    refine ⟨_, congrArg Host.Outcome.next ((State.live_runs runs).trans (if_pos refused)), ?_⟩
    by_cases apart : s.fld F.PEG_STAT_STATE = 0
    · rw [if_pos apart, if_pos apart]
      exact ⟨rfl, by simp [Fld.width], by simp [State.onPeg]⟩
    · rw [if_neg apart, if_neg apart]
      exact ⟨rfl, rfl, by simp [State.onPeg]⟩
  case noRetry =>
    intro s fresh
    have idle : (if s.peg.refused then (if s.fld F.PEG_STAT_STATE = 0 then s.setFld F.PEG_STAT_STATE 0 1 else s).onPeg fun p => { p with refused := false }
      else s) = s := if_neg (by simp [fresh])
    exact congrArg Host.Outcome.next ((congrArg (s.live 0) idle).trans (live_idle s 0))
  case lock =>
    intro s runs state aligned good
    refine ⟨_, congrArg Host.Outcome.next ((State.live_runs runs).trans (if_pos ⟨state, aligned, good⟩)), ?_, rfl, ?_⟩
    · simp [Fld.width]
    · simp [State.onPeg]
  case noLock =>
    intro s few
    refine congrArg Host.Outcome.next (Eq.trans (congrArg (s.live 0) (if_neg ?_)) (live_idle s 0))
    rintro ⟨-, -, good⟩
    omega
  case holder =>
    intro s runs holds link
    refine congrArg Host.Outcome.next ((State.live_runs runs).trans ?_)
    exact if_pos (by simp [holds, link])
  case standby =>
    intro s runs idle state images frames
    refine ⟨_, congrArg Host.Outcome.next ((State.live_runs runs).trans (State.catchupComplete_standby idle state images frames)), ?_⟩
    exact s.inSync_spec
  case lost =>
    intro s lanes runs link lost
    exact ⟨_, congrArg Host.Outcome.next (State.live_runs runs), State.solleyLost_spec link lost⟩
  case kept =>
    intro s lanes kept
    exact congrArg Host.Outcome.next (Eq.trans (congrArg (s.live 0) (if_pos kept)) (live_idle s 0))
  case keepers =>
    intro s runs idle
    exact congrArg Host.Outcome.next ((State.live_runs runs).trans (if_neg (by simp [idle])))
  case held =>
    intro s holds
    exact congrArg Host.Outcome.next (Eq.trans (congrArg (s.live 0) (if_pos holds)) (live_idle s 0))
  case beacon =>
    intro s runs
    refine ⟨fun unseen => ?_, fun seen => ?_, congrArg Host.Outcome.next (State.live_runs runs)⟩
    · exact congrArg Host.Outcome.next ((State.live_runs runs).trans (if_pos (by simp [unseen])))
    · exact congrArg Host.Outcome.next ((State.live_runs runs).trans ((if_neg (by simp [seen])).trans (if_pos rfl)))
  case stuck =>
    intro s runs
    exact ⟨_, congrArg Host.Outcome.next (State.live_runs runs), s.netStuck_spec⟩

end Sys2Proof.Machine
end

section
/-! SUPPORT. Claims and takeovers of the peg. -/

namespace Sys2Proof.Machine

variable {s t u : State}

/-! ### What stands after the peg changed hands -/

/-- A later change that leaves the pair's registers, its state and the reports keeps what a take of the peg states. -/
theorem PegTaken.later {c : Nat} {rs : List Reg} (taken : PegTaken c s u) (regs : RegsKept rs u t) (stat : .PEG_STAT ∉ rs) (event : .PEG_EVENT ∉ rs)
    (peg : t.peg = u.peg) (reports : u.reports <+: t.reports) : PegTaken c s t := by
  obtain ⟨holds, state, driven, released, keepers, cause, took, stroke, told⟩ := taken
  refine ⟨?_, (regs.fld stat 0).trans state, ?_, ?_, ?_, (regs.fld event 0).trans cause, (regs.flag event 0).trans took,
    (regs.fld event 0).trans stroke, mem_reports_drop_of_prefix told reports⟩
  · exact (regs.flag stat 0).trans holds
  · rw [peg, driven]
  · rw [peg, released]
  · rw [peg, keepers]

/-- What follows an earlier change that leaves the clock. -/
theorem PegTaken.earlier {c : Nat} (taken : PegTaken c u t) (now : u.now = s.now) (reports : s.reports <+: u.reports) : PegTaken c s t := by
  obtain ⟨holds, state, driven, released, keepers, cause, took, stroke, told⟩ := taken
  exact ⟨holds, state, driven, released, keepers, cause, took, now ▸ stroke, List.drop_subset_drop_left _ reports.length_le told⟩

theorem PegReleased.earlier {c : Nat} (released : PegReleased c u t) (link : u.flag F.PEG_STAT_LINK = s.flag F.PEG_STAT_LINK) (now : u.now = s.now)
    (reports : s.reports <+: u.reports) : PegReleased c s t := by
  obtain ⟨holds, driven, open_, state, cause, took, stroke, told⟩ := released
  exact ⟨holds, driven, open_, link ▸ state, cause, took, now ▸ stroke, List.drop_subset_drop_left _ reports.length_le told⟩

/-- A later code of the pair keeps what a release states. -/
theorem PegReleased.coded {c : Nat} (released : PegReleased c s t) (code : Nat) : PegReleased c s (t.pegCode code) := by
  obtain ⟨holds, driven, open_, state, cause, took, stroke, told⟩ := released
  refine ⟨?_, driven, open_, ?_, ?_, ?_, ?_, mem_reports_drop_of_prefix told (t.pegCode_keeps code).reports⟩
  · simpa [State.holds] using holds
  · simpa using state
  · simpa using cause
  · simpa using took
  · simpa using stroke

theorem PegTaken.coded {c : Nat} (taken : PegTaken c s t) (code : Nat) : PegTaken c s (t.pegCode code) := by
  obtain ⟨holds, state, driven, released, keepers, cause, took, stroke, told⟩ := taken
  refine ⟨?_, ?_, driven, released, keepers, ?_, ?_, ?_, mem_reports_drop_of_prefix told (t.pegCode_keeps code).reports⟩
  · simpa [State.holds] using holds
  · simpa using state
  · simpa using cause
  · simpa using took
  · simpa using stroke

theorem State.pegCode_told (s t : State) (code : Nat) (reports : s.reports <+: t.reports) :
    (⟨code, 0⟩ : Report) ∈ (t.pegCode code).reports.drop s.reports.length := mem_reports_drop reports rfl

/-! ### Taking the peg (R293) -/

/-- The registers that taking the peg may write. -/
def takeRegs : List Reg := [.PEG_STAT, .PEG_SYNC_TIME, .PEG_EVENT]

/-- The device drives its net, and its gate is open. -/
def State.netTaken (s : State) : State :=
  let t := (((s.setFld F.PEG_STAT_HOLD 0 1).setFld F.PEG_STAT_OWN_NET 0 0).setFld F.PEG_STAT_PART_NET 0 1).setFld F.PEG_STAT_STATE 0 5
  let t := (t.onPeg fun p => { p with
    driven := true, released := false, keepers := false, kick := 0, due := none, results := [], forge := none }).modGap
  (t.setFld F.PEG_SYNC_TIME_HEATS 0 0).when (decide (s.fld F.CFR_LC_STATE_STATE = 2)) fun t => { t with sys := { t.sys with halted := [] } }

theorem State.netTaken_spec (s : State) : RegsKept takeRegs s s.netTaken ∧ s.netTaken.holds = true ∧ s.netTaken.fld F.PEG_STAT_STATE = 5
    ∧ s.netTaken.peg.driven = true ∧ s.netTaken.peg.released = false ∧ s.netTaken.peg.keepers = false ∧ s.netTaken.now = s.now
    ∧ s.netTaken.reports = s.reports ∧ s.netTaken.trs = s.trs ∧ s.netTaken.fdl = s.fdl := by
  unfold State.netTaken State.when State.holds
  dsimp only
  split <;>
    exact ⟨by simp [takeRegs, State.modGap, State.onPeg], by simp [State.modGap, Fld.width], by simp [State.modGap, Fld.width],
      rfl, rfl, rfl, rfl, rfl, rfl, rfl⟩

theorem State.takePeg_eq (s : State) (cause : Nat) : s.takePeg cause = (s.netTaken.pegEvent cause true).pegCode 0x0D81 := by
  have life : ((((s.setFld F.PEG_STAT_HOLD 0 1).setFld F.PEG_STAT_OWN_NET 0 0).setFld F.PEG_STAT_PART_NET 0 1).setFld F.PEG_STAT_STATE 0 5).fld
      F.CFR_LC_STATE_STATE 0 = s.fld F.CFR_LC_STATE_STATE := by simp
  rw [State.netTaken, ← life]
  rfl

theorem State.takePeg_regs (s : State) (cause : Nat) : RegsKept takeRegs s (s.takePeg cause) := by
  rw [s.takePeg_eq cause]
  refine s.netTaken_spec.1.trans (RegsKept.trans ((State.pegEvent_regs s.netTaken cause true).regsKept (by simp [takeRegs])) ?_)
  exact (State.pegCode_regs _ _).regsKept (by simp [takeRegs])

/-- Taking the peg leaves Truss and the Feeder link. -/
theorem State.takePeg_others (s : State) (cause : Nat) : (s.takePeg cause).trs = s.trs ∧ (s.takePeg cause).fdl = s.fdl
    ∧ (s.takePeg cause).now = s.now := by
  obtain ⟨-, -, -, -, -, -, now, -, trs, fdl⟩ := s.netTaken_spec
  rw [s.takePeg_eq cause]
  exact ⟨trs, fdl, now⟩

theorem State.takePeg_taken (s : State) {cause : Nat} (small : cause < 16) : PegTaken cause s (s.takePeg cause) := by
  obtain ⟨-, holds, state, driven, released, keepers, now, reports, -⟩ := s.netTaken_spec
  rw [s.takePeg_eq cause]
  generalize s.netTaken = u at holds state driven released keepers now reports
  refine ⟨?_, ?_, driven, released, keepers, ?_, ?_, ?_, ?_⟩
  · simpa [State.pegCode, State.pegEvent, State.holds] using holds
  · simpa [State.pegCode, State.pegEvent] using state
  · simpa [State.pegCode, State.pegEvent, Fld.width] using Nat.mod_eq_of_lt small
  · simp [State.pegCode, State.pegEvent]
  · have below : u.now % 100 % 128 = s.now % 100 := by rw [now]; omega
    simpa [State.pegCode, State.pegEvent, Fld.width] using below
  · exact s.pegCode_told (u.pegEvent cause true) 0x0D81 (reports ▸ List.prefix_rfl)

/-! ### START_CLAIM (R295) -/

/-- Clearing RUN of a bay. -/
theorem State.setRun_false (s : State) (b : Nat) : s.setRun b false =
    if s.flag F.FRG_BAY_CTL_RUN b then ((s.setFlag F.FRG_BAY_CTL_RUN b false).onBay b fun x => { x with step := none }).countBay b
    else s.setFlag F.FRG_BAY_CTL_RUN b false := by
  unfold State.setRun
  simp

theorem State.flag_countBay_run (s : State) (b c : Nat) : (s.countBay b).flag F.FRG_BAY_CTL_RUN c = s.flag F.FRG_BAY_CTL_RUN c := by
  simp [State.countBay]

theorem State.setRun_false_run (s : State) (b : Nat) : (s.setRun b false).flag F.FRG_BAY_CTL_RUN b = false := by
  rw [s.setRun_false b]
  split
  · rw [State.flag_countBay_run]
    exact State.flag_setFlag_self s (by decide)
  · exact State.flag_setFlag_self s (by decide)

theorem State.setRun_false_other (s : State) {b c : Nat} (other : b ≠ c) :
    (s.setRun b false).flag F.FRG_BAY_CTL_RUN c = s.flag F.FRG_BAY_CTL_RUN c := by
  rw [s.setRun_false b]
  split
  · rw [State.flag_countBay_run]
    exact State.flag_setFlag_index s other.symm
  · exact State.flag_setFlag_index s other.symm

theorem State.setRun_false_now (s : State) (b : Nat) : (s.setRun b false).now = s.now := by
  rw [s.setRun_false b]
  split <;> rfl

/-- Every bay's RUN is cleared. -/
def State.baysStopped (s : State) : State := s.each s.bays fun b t => t.setRun b false

theorem State.baysStopped_run (s : State) {b : Nat} (bay : b ∈ s.bays) : s.baysStopped.flag F.FRG_BAY_CTL_RUN b = false :=
  State.each_at (g := fun t => t.flag F.FRG_BAY_CTL_RUN b) bay (fun t => t.setRun_false_run b) fun _ other t => t.setRun_false_other other

theorem State.baysStopped_now (s : State) : s.baysStopped.now = s.now := State.each_congr State.now fun b _ t => t.setRun_false_now b

theorem State.baysStopped_keeps (s : State) : Keeps s s.baysStopped :=
  State.each_induct (P := Keeps s) (Keeps.refl s) fun b _ t kept => kept.trans (t.setRun_keeps b false)

/-- A lone device's committed entry is empty, and its safe outputs are off. -/
def State.outputsShut (s : State) (e : Entry) : State := (s.onTrs fun x => { x with committed := e }).safeOff

/-- No paired discrete output is effective. -/
def State.pdoShut (s : State) : State := (s.setFld F.PEG_PDO_EFF 0 0).onPeg fun p => { p with pdo := [] }

theorem State.startClaim_claims (booted : s.sys.booted = true) (driven : s.peg.driven = false) (released : s.peg.released = false)
    (state : s.fld F.PEG_STAT_STATE = 0 ∨ (s.fld F.PEG_STAT_STATE = 1 ∧ s.unitB = false)) :
    s.startClaim = ((s.baysStopped.outputsShut (Entry.empty s.baysStopped.heat)).pdoShut.takePeg 9).trussStart := if_neg (by
  rcases state with state | ⟨state, unit⟩
  · simp [booted, driven, released, state]
  · simp [booted, driven, released, state, unit])

theorem State.startClaim_idle (gone : s.peg.driven = true ∨ s.peg.released = true) : s.startClaim = s := if_pos (by
  rcases gone with gone | gone <;> simp [gone])

theorem State.outputsShut_spec (s : State) (e : Entry) : RegsKept testRegs s (s.outputsShut e) ∧ (∀ k < 20, ChannelOff k (s.outputsShut e))
    ∧ (s.outputsShut e).trs.committed = e ∧ (s.outputsShut e).now = s.now ∧ s.reports <+: (s.outputsShut e).reports := by
  have entered : RegsKept testRegs s (s.onTrs fun x => { x with committed := e }) ∧ (s.onTrs fun x => { x with committed := e }).trs.committed = e
      ∧ (s.onTrs fun x => { x with committed := e }).now = s.now ∧ (s.onTrs fun x => { x with committed := e }).reports = s.reports :=
    ⟨regsKept_of_regs rfl, rfl, rfl, rfl⟩
  unfold State.outputsShut
  generalize (s.onTrs fun x => { x with committed := e }) = u at entered
  obtain ⟨kept, committed, now, told⟩ := entered
  obtain ⟨regs, same, -, -⟩ := testsOnly_safeOff u
  refine ⟨kept.trans regs, fun k small => u.safeOff_off small, ?_, ?_, told ▸ u.safeOff_keeps.reports⟩
  · rw [same]
    exact committed
  · rw [State.now, same]
    exact now

theorem State.pdoShut_spec (s : State) : CellsKept [(.PEG_PDO, 0)] s s.pdoShut ∧ s.pdoShut.fld F.PEG_PDO_EFF = 0 ∧ s.pdoShut.trs = s.trs
    ∧ s.pdoShut.now = s.now ∧ s.pdoShut.reports = s.reports :=
  ⟨by simp [State.pdoShut, State.onPeg], by simp [State.pdoShut, Fld.width], rfl, rfl, rfl⟩

/-- Channels that are off stay off under a change of other registers. -/
theorem ChannelOff.later {k : Nat} {rs : List Reg} (off : ChannelOff k s) (kept : RegsKept rs s t) (out : .MRT_OUT_STAT ∉ rs)
    (brake : .MRT_BRK_STAT ∉ rs) : ChannelOff k t := by
  obtain ⟨relay, a, b⟩ := off
  have bit (n : Nat) := State.chanBit_of_regs kept out brake k n
  exact ⟨(bit 31).trans relay, (bit 30).trans a, (bit 29).trans b⟩

theorem State.trussStart_spec (s : State) : RegsKept [.TRS_STAT] s s.trussStart ∧ s.trussStart.peg = s.peg ∧ s.trussStart.reports = s.reports
    ∧ s.trussStart.trs.committed = s.trs.committed := by
  unfold State.trussStart
  exact ⟨by simp [State.showWindow, State.see, State.onTrs], rfl, rfl, rfl⟩

theorem State.startClaim_spec (booted : s.sys.booted = true) (driven : s.peg.driven = false) (released : s.peg.released = false)
    (state : s.fld F.PEG_STAT_STATE = 0 ∨ (s.fld F.PEG_STAT_STATE = 1 ∧ s.unitB = false)) : PegTaken 9 s s.startClaim
    ∧ (∀ b ∈ s.bays, s.startClaim.flag F.FRG_BAY_CTL_RUN b = false) ∧ (∀ k < 20, ChannelOff k s.startClaim)
    ∧ s.startClaim.fld F.PEG_PDO_EFF = 0 ∧ s.startClaim.trs.committed = Entry.empty s.heat := by
  have heat : s.baysStopped.heat = s.heat := by rw [State.heat, s.baysStopped_now, State.heat]
  have runs (b : Nat) (bay : b ∈ s.bays) := s.baysStopped_run bay
  have clock := s.baysStopped_now
  have grown := s.baysStopped_keeps.reports
  rw [State.startClaim_claims booted driven released state, heat]
  generalize s.baysStopped = w at runs clock grown
  obtain ⟨shut, off, committed, still, more⟩ := w.outputsShut_spec (Entry.empty s.heat)
  generalize w.outputsShut (Entry.empty s.heat) = v at shut off committed still more
  obtain ⟨gate, eff, trs, halts, told⟩ := v.pdoShut_spec
  generalize v.pdoShut = u at gate eff trs halts told
  have taken := (u.takePeg_taken (cause := 9) (by decide)).earlier (halts.trans (still.trans clock)) (told ▸ grown.trans more)
  have took := u.takePeg_regs 9
  obtain ⟨kept, -⟩ := u.takePeg_others 9
  generalize u.takePeg 9 = x at taken took kept
  obtain ⟨start, peg, said, stays⟩ := x.trussStart_spec
  generalize x.trussStart = y at start peg said stays
  have last : RegsKept (.TRS_STAT :: takeRegs) u y := (took.mono (by simp)).trans (start.mono (by simp))
  have late : RegsKept (.PEG_PDO :: .TRS_STAT :: takeRegs) v y := (gate.regsKept (by simp)).trans (last.mono (by simp))
  refine ⟨taken.later start (by decide) (by decide) peg (said ▸ List.prefix_rfl), fun b bay => ?_, fun k small => ?_, ?_, ?_⟩
  · exact (late.flag (by decide) b).trans ((shut.flag (by decide) b).trans (runs b bay))
  · exact (off k small).later late (by decide) (by decide)
  · exact (last.fld (by decide) 0).trans eff
  · rw [stays, kept, trs, committed]

/-! ### TAKEOVER (R306, R307) -/

/-- A change of the network's own state, its free values, its frames and Scribe's counts. -/
def NetOnly (s t : State) : Prop :=
  ∃ net sent ctr scb, t = { s with net := net, sent := sent, freeCtr := ctr, scb := scb }

theorem NetOnly.refl (s : State) : NetOnly s s := ⟨s.net, s.sent, s.freeCtr, s.scb, rfl⟩

theorem NetOnly.trans (h : NetOnly s u) (k : NetOnly u t) : NetOnly s t := by
  obtain ⟨_, _, _, _, rfl⟩ := h
  obtain ⟨net, sent, ctr, scb, rfl⟩ := k
  exact ⟨net, sent, ctr, scb, rfl⟩

theorem netOnly_onNet (s : State) (f : Net → Net) : NetOnly s (s.onNet f) := ⟨f s.net, s.sent, s.freeCtr, s.scb, rfl⟩
theorem netOnly_send (s : State) (via : Channel) (dest : Nat) (b : List Byte) : NetOnly s (s.send via dest b) := ⟨s.net, _, s.freeCtr, s.scb, rfl⟩
theorem netOnly_tick (s : State) : NetOnly s s.tick := ⟨s.net, s.sent, _, s.scb, rfl⟩
theorem netOnly_count (s : State) (a b : Nat) : NetOnly s (s.count a b) := ⟨s.net, s.sent, s.freeCtr, _, rfl⟩

theorem netOnly_sendPlain (s : State) (typ addr : Nat) (body : List Byte) : NetOnly s (s.sendPlain typ addr body) :=
  ((netOnly_onNet s _).trans (netOnly_count _ 11 (30 + typ))).trans (netOnly_send _ _ _ _)

theorem State.adoptPartners_net (s : State) : NetOnly s s.adoptPartners := by
  unfold State.adoptPartners
  refine List.foldlRecOn (motive := NetOnly s) _ _ (netOnly_onNet s _) fun t kept d _ => ?_
  split
  · exact kept
  · exact kept.trans (netOnly_onNet t _)

theorem State.stationAnnounce_net (s : State) (role : Nat) : NetOnly s (s.stationAnnounce role) :=
  ((netOnly_sendPlain s 1 0 _).trans (netOnly_tick _)).trans (netOnly_onNet _ _)

theorem State.announceTakeover_net (s : State) : NetOnly s s.announceTakeover := by
  have neighbour := (s.stationAnnounce_net 4).trans (netOnly_send _ .neighbour 0 (slice (s.body tyNET) 0x18 16))
  unfold State.announceTakeover
  dsimp only
  split
  · exact neighbour.trans (netOnly_send _ _ _ _)
  · exact neighbour

/-- Truss and the Feeder link of the new holder. -/
def State.holderStarts (s : State) : State :=
  let t := if s.fld F.TRS_STAT_STATE = 3 then s.setFld F.TRS_STAT_STATE 0 1 else s
  (t.onTrs fun x => { x with tookOver := true }).onFdl fun x => { x with queues := ⟨[], []⟩, air := none, counter := x.counter + 2 ^ 32 }

/-- A live node of the Feeder link was heard at the takeover. -/
def State.hearNode (s : State) (a : Nat) : State :=
  if s.fld F.FDL_NODE_STAT_STATE a = 1 then s.onNode a fun x => { x with last := s.now } else s

theorem State.takeOver_eq (s : State) (cause : Nat) : s.takeOver cause =
    ((s.endTests.takePeg cause).adoptPartners.announceTakeover.holderStarts.each (List.range 64) fun a t => t.hearNode a) := rfl

theorem State.holderStarts_spec (s : State) : RegsKept [.TRS_STAT] s s.holderStarts ∧ s.holderStarts.peg = s.peg
    ∧ s.holderStarts.reports = s.reports ∧ s.holderStarts.trs = { s.trs with tookOver := true }
    ∧ s.holderStarts.fdl.counter = s.fdl.counter + 2 ^ 32 := by
  unfold State.holderStarts
  dsimp only
  split
  · exact ⟨by simp [State.onTrs, State.onFdl], rfl, rfl, rfl, rfl⟩
  · exact ⟨by simp [State.onTrs, State.onFdl], rfl, rfl, rfl, rfl⟩

/-- Hearing the nodes changes when they were last heard. -/
theorem State.nodesHeard_spec (s : State) (l : List Nat) : ∃ nodes, (s.each l fun a t => t.hearNode a) = { s with fdl := { s.fdl with nodes := nodes } } :=
  State.each_induct (P := fun t => ∃ nodes, t = { s with fdl := { s.fdl with nodes := nodes } }) ⟨s.fdl.nodes, rfl⟩ fun a _ t kept => by
    obtain ⟨nodes, same⟩ := kept
    unfold State.hearNode
    split
    · exact ⟨_, by rw [same]; rfl⟩
    · exact ⟨nodes, same⟩

theorem State.takeOver_spec (s : State) {cause : Nat} (small : cause < 16) : PegTaken cause s (s.takeOver cause)
    ∧ (s.takeOver cause).trs = { s.trs with tookOver := true } ∧ (s.takeOver cause).fdl.counter = s.fdl.counter + 2 ^ 32 := by
  obtain ⟨-, tests, -, -⟩ := testsOnly_endTests s
  have ended := s.endTests_keeps.reports
  rw [s.takeOver_eq cause]
  generalize s.endTests = a at tests ended
  have clock : a.now = s.now := by rw [State.now, tests, State.now]
  have truss : a.trs = s.trs := by rw [tests]
  have feeder : a.fdl = s.fdl := by rw [tests]
  have taken := (a.takePeg_taken small).earlier clock ended
  obtain ⟨trs, fdl, -⟩ := a.takePeg_others cause
  generalize a.takePeg cause = b at taken trs fdl
  obtain ⟨_, _, _, _, net⟩ := b.adoptPartners_net.trans b.adoptPartners.announceTakeover_net
  generalize b.adoptPartners.announceTakeover = c at net
  obtain ⟨regs, peg, told, took, counter⟩ := c.holderStarts_spec
  generalize c.holderStarts = d at regs peg told took counter
  obtain ⟨nodes, heard⟩ := d.nodesHeard_spec (List.range 64)
  rw [heard]
  rw [net] at regs peg told took counter
  refine ⟨?_, took.trans (by rw [trs, truss]), counter.trans (by rw [fdl, feeder])⟩
  exact taken.later (RegsKept.trans (regsKept_of_regs rfl) (regs.trans (regsKept_of_regs rfl))) (by decide) (by decide) peg
    (told ▸ List.prefix_rfl)

end Sys2Proof.Machine
end

section
/-! SUPPORT. Contention, faults and releases of the net, returns and handovers, and the proof of O45. -/

namespace Sys2Proof.Machine

variable {s t u : State}

/-! ### CONTENTION (R294) -/

/-- Both nets are low: the gate closes. -/
def State.contended (s : State) : State := ((s.setFld F.PEG_STAT_PART_NET 0 0).setFld F.PEG_STAT_HOLD 0 0).pegCode 0x0D02

/-- The partner's net is high again: the gate opens. -/
def State.uncontended (s : State) : State := (s.setFld F.PEG_STAT_PART_NET 0 1).setFld F.PEG_STAT_HOLD 0 1

theorem State.contention_low (driven : s.peg.driven = true) :
    s.contention true = if s.contended.unitB then s.contended.pegRelease 6 else s.contended :=
  (if_neg (by simp [driven])).trans (if_pos rfl)

theorem State.contention_high (driven : s.peg.driven = true) : s.contention false = s.uncontended :=
  (if_neg (by simp [driven])).trans (if_neg Bool.false_ne_true)

theorem State.contended_spec (s : State) : s.contended.holds = false ∧ s.contended.peg = s.peg ∧ s.contended.unitB = s.unitB
    ∧ s.contended.flag F.PEG_STAT_LINK = s.flag F.PEG_STAT_LINK ∧ s.contended.now = s.now
    ∧ s.contended.reports = s.reports ++ [⟨0x0D02, 0⟩] :=
  ⟨by simp [State.contended, State.holds, Fld.width], rfl, by simp [State.contended, State.unitB], by simp [State.contended], rfl, rfl⟩

theorem State.uncontended_spec (s : State) : s.uncontended.holds = true ∧ s.uncontended.flag F.PEG_STAT_PART_NET = true
    ∧ CellsKept [(.PEG_STAT, 0)] s s.uncontended :=
  ⟨by simp [State.uncontended, State.holds, Fld.width], by simp [State.uncontended, Fld.width], by simp [State.uncontended]⟩

theorem State.contention_low_spec (driven : s.peg.driven = true) : (s.contention true).holds = false
    ∧ (⟨0x0D02, 0⟩ : Report) ∈ (s.contention true).reports.drop s.reports.length
    ∧ (s.unitB = true → PegReleased 6 s (s.contention true)) ∧ (s.unitB = false → (s.contention true).peg = s.peg) := by
  obtain ⟨shut, peg, unit, link, now, told⟩ := s.contended_spec
  rw [State.contention_low driven, unit]
  have holder : (s.contended.peg.driven || s.contended.holds) = true := by rw [peg, driven]; rfl
  generalize s.contended = v at shut peg link now told holder
  have said : (⟨0x0D02, 0⟩ : Report) ∈ v.reports.drop s.reports.length := mem_reports_drop List.prefix_rfl told
  cases s.unitB with
  | false => exact ⟨shut, said, nofun, fun _ => peg⟩
  | true =>
    have released := v.pegRelease_released 6 holder (by decide)
    have later : v.reports <+: (v.pegRelease 6).reports := (v.pegRelease_keeps 6).reports
    rw [if_pos rfl]
    generalize v.pegRelease 6 = w at released later
    obtain ⟨gate, -⟩ := id released
    exact ⟨gate, mem_reports_drop_of_prefix said later, fun _ => released.earlier link now (told ▸ List.prefix_append _ _), nofun⟩

/-! ### PEG_FAULT (R294) -/

/-- A net that is not as it is driven: the device is in its fault state. -/
def State.netFaulty (s : State) (low : Bool) : State :=
  ((s.setFlag F.PEG_STAT_OWN_NET 0 (!low)).setFld F.PEG_STAT_STATE 0 6).onPeg fun p => { p with keepers := false }

theorem State.pegFault_faulty {low : Bool} (driven : s.peg.driven = !low) :
    s.pegFault low = ((if low then s.syncLost 3 else s.pegRelease 7).netFaulty low).pdoGate.pegCode 0x0D03 := by
  refine if_neg ?_
  rw [driven]
  cases low <;> decide

theorem State.pegFault_same (s : State) : s.pegFault s.peg.driven = s := if_pos (by simp)

theorem State.netFaulty_spec (s : State) (low : Bool) : CellsKept [(.PEG_STAT, 0)] s (s.netFaulty low) ∧ (s.netFaulty low).fld F.PEG_STAT_STATE = 6
    ∧ (s.netFaulty low).flag F.PEG_STAT_OWN_NET = !low ∧ (s.netFaulty low).holds = s.holds
    ∧ (s.netFaulty low).peg = { s.peg with keepers := false } ∧ (s.netFaulty low).reports = s.reports := by
  refine ⟨by simp [State.netFaulty, State.onPeg], ?_, ?_, ?_, rfl, rfl⟩
  · simp [State.netFaulty, Fld.width]
  · simp [State.netFaulty]
  · simp [State.netFaulty, State.holds]

/-- What the fault state shows, whatever ended before it. -/
theorem State.netFaulty_shown (s : State) (low : Bool) : ∃ t, (s.netFaulty low).pdoGate.pegCode 0x0D03 = t ∧ t.fld F.PEG_STAT_STATE = 6
    ∧ t.flag F.PEG_STAT_OWN_NET = (!low) ∧ t.peg.driven = s.peg.driven ∧ t.peg.keepers = false ∧ t.holds = s.holds
    ∧ t.fld F.PEG_EVENT_CAUSE = s.fld F.PEG_EVENT_CAUSE ∧ t.reports = s.reports ++ [⟨0x0D03, 0⟩] := by
  obtain ⟨cells, state, net, gate, peg, told⟩ := s.netFaulty_spec low
  generalize s.netFaulty low = u at cells state net gate peg told
  obtain ⟨regs, pdo, gated⟩ := u.pdoGate_eq
  have driven : u.pdoGate.peg.driven = u.peg.driven ∧ u.pdoGate.peg.keepers = u.peg.keepers ∧ u.pdoGate.reports = u.reports := by
    rw [gated]
    exact ⟨rfl, rfl, rfl⟩
  have stat := u.pdoGate_regs
  generalize u.pdoGate = v at driven stat
  obtain ⟨drives, keepers, said⟩ := driven
  refine ⟨_, rfl, ?_, ?_, ?_, ?_, ?_, ?_, ?_⟩
  · rw [State.fld_pegCode v _ (.inr (by decide)) (by decide), stat.fld (by simp), state]
  · rw [State.flag_pegCode v _ (.inr (by decide)) (by decide), stat.flag (by simp), net]
  · rw [State.pegCode_peg, drives, peg]
  · rw [State.pegCode_peg, keepers, peg]
  · rw [State.holds, State.flag_pegCode v _ (.inr (by decide)) (by decide), stat.flag (by simp)]
    exact gate
  · rw [State.fld_pegCode v _ (.inl (by decide)) (by decide), stat.fld (by simp), cells.fld (by simp)]
  · rw [State.pegCode_reports, said, told]

theorem State.pegFault_spec {low : Bool} (driven : s.peg.driven = !low) : (s.pegFault low).fld F.PEG_STAT_STATE = 6
    ∧ (s.pegFault low).flag F.PEG_STAT_OWN_NET = (!low) ∧ (s.pegFault low).peg.driven = false ∧ (s.pegFault low).peg.keepers = false
    ∧ (⟨0x0D03, 0⟩ : Report) ∈ (s.pegFault low).reports.drop s.reports.length
    ∧ (low = false → (s.pegFault low).holds = false ∧ (s.pegFault low).fld F.PEG_EVENT_CAUSE = 7) := by
  rw [State.pegFault_faulty driven]
  cases low with
  | true =>
    have gate := (s.syncLost_gate 3).2.1
    have grown := (s.syncLost_keeps 3).reports
    rw [if_pos rfl]
    generalize s.syncLost 3 = u at gate grown
    obtain ⟨t, same, state, net, drives, keepers, -, -, told⟩ := u.netFaulty_shown true
    rw [same]
    exact ⟨state, net, drives.trans (gate.trans driven), keepers, mem_reports_drop grown told, nofun⟩
  | false =>
    have released := s.pegRelease_released 7 (by rw [driven]; rfl) (by decide)
    have grown := (s.pegRelease_keeps 7).reports
    rw [if_neg Bool.false_ne_true]
    generalize s.pegRelease 7 = u at released grown
    obtain ⟨shut, free, -, -, cause, -⟩ := released
    obtain ⟨t, same, state, net, drives, keepers, gate, event, told⟩ := u.netFaulty_shown false
    rw [same]
    exact ⟨state, net, drives.trans free, keepers, mem_reports_drop grown told, fun _ => ⟨gate.trans shut, event.trans cause⟩⟩

/-! ### RETURNED (R310, R311) -/

/-- The holder's part of a return for cause 5 tells 0D84h. -/
def State.returnTold (s : State) (c : Nat) : State := if c = 5 then s.pegCode 0x0D84 else s

theorem State.returned_holder {c : Nat} (holds : s.holds = true) (due : s.peg.due = some c) (marker : s.returnMarker = true)
    (sync : s.partnerSync = true) : s.returned = ((s.pegRelease c).setFld F.PEG_STAT_PART_NET 0 0).returnTold c := by
  unfold State.returned
  rw [if_pos holds, due]
  exact if_pos (by simp [marker, sync])

theorem State.returned_standby {c : Nat} (idle : s.holds = false) (due : s.peg.due = some c) (state : s.fld F.PEG_STAT_STATE = 4)
    (heat : (s.now + 1) % 100 = 0) : s.returned = (s.takeOver c).returnTold c := by
  unfold State.returned
  rw [if_neg (by simp [idle]), if_pos ⟨state, heat⟩, due]
  rfl

theorem State.returned_early (early : (s.now + 1) % 100 ≠ 0) : s.returned = s := by
  have marker : s.returnMarker = false := by simp [State.returnMarker, early]
  unfold State.returned
  split
  · split
    · exact if_neg (by simp [marker])
    · rfl
  · exact if_neg fun h => early h.2

theorem State.returnTold_released {c : Nat} (released : PegReleased c s t) : PegReleased c s (t.returnTold c) := by
  unfold State.returnTold
  split
  · exact released.coded _
  · exact released

theorem State.returnTold_taken {c : Nat} (taken : PegTaken c s t) : PegTaken c s (t.returnTold c) := by
  unfold State.returnTold
  split
  · exact taken.coded _
  · exact taken

theorem State.returnTold_flag (s : State) (c : Nat) : (s.returnTold c).flag F.PEG_STAT_PART_NET = s.flag F.PEG_STAT_PART_NET := by
  unfold State.returnTold
  split
  · simp
  · rfl

theorem State.returnTold_told {c : Nat} (five : c = 5) (grown : s.reports <+: t.reports) :
    (⟨0x0D84, 0⟩ : Report) ∈ (t.returnTold c).reports.drop s.reports.length := by
  rw [State.returnTold, if_pos five]
  exact s.pegCode_told t _ grown

theorem PegReleased.netLow {c : Nat} (released : PegReleased c s t) : PegReleased c s (t.setFld F.PEG_STAT_PART_NET 0 0) := by
  obtain ⟨holds, driven, free, state, cause, took, stroke, told⟩ := released
  refine ⟨?_, driven, free, ?_, ?_, ?_, ?_, told⟩
  · simpa [State.holds] using holds
  · simpa using state
  · simpa using cause
  · simpa using took
  · simpa using stroke

theorem State.returned_holder_spec {c : Nat} (cause : c = 4 ∨ c = 5) (holds : s.holds = true) (due : s.peg.due = some c)
    (marker : s.returnMarker = true) (sync : s.partnerSync = true) : PegReleased c s s.returned ∧ s.returned.flag F.PEG_STAT_PART_NET = false
    ∧ (c = 5 → (⟨0x0D84, 0⟩ : Report) ∈ s.returned.reports.drop s.reports.length) := by
  have released := s.pegRelease_released c (by simp [holds]) (by omega)
  have grown := (s.pegRelease_keeps c).reports
  rw [State.returned_holder holds due marker sync]
  generalize s.pegRelease c = u at released grown
  refine ⟨State.returnTold_released released.netLow, ?_, fun five => State.returnTold_told five (by simpa using grown)⟩
  rw [State.returnTold_flag]
  simp [Fld.width]

theorem State.returned_standby_spec {c : Nat} (cause : c = 4 ∨ c = 5) (idle : s.holds = false) (due : s.peg.due = some c)
    (state : s.fld F.PEG_STAT_STATE = 4) (heat : (s.now + 1) % 100 = 0) : PegTaken c s s.returned
    ∧ (c = 5 → (⟨0x0D84, 0⟩ : Report) ∈ s.returned.reports.drop s.reports.length) := by
  have taken := (s.takeOver_spec (cause := c) (by omega)).1
  have grown := (s.takeOver_keeps c).reports
  rw [State.returned_standby idle due state heat]
  generalize s.takeOver c = u at taken grown
  exact ⟨State.returnTold_taken taken, fun five => State.returnTold_told five grown⟩

/-! ### REVERT_REQUEST (R310) -/

theorem State.revertRequest_refused {ok : Bool} (no : (s.revertOk && ok) = false) : s.revertRequest ok = s := if_pos (by
  rcases (Bool.and_eq_false_iff).mp no with h | h <;> simp [h])

theorem State.revertRequest_holder (ok : s.revertOk = true) (ready : (s.holds && s.partnerSync) = true) :
    s.revertRequest true = s.onPeg fun p => { p with due := some 5 } := (if_neg (by simp [ok])).trans (if_pos ready)

theorem State.revertRequest_standby (ok : s.revertOk = true) (idle : s.holds = false) (state : s.fld F.PEG_STAT_STATE = 4)
    (unit : s.unitB = s.peg.pref) (time : 6000000000 ≤ s.fld F.PEG_SYNC_TIME_HEATS * (100 * s.period)) (cool : s.blw.worst < s.tWarn) :
    s.revertRequest true = (s.onPeg fun p => { p with due := some 5 }).send .solley 0 [] :=
  (if_neg (by simp [ok])).trans ((if_neg (by simp [idle])).trans (if_pos ⟨state, unit, time, cool⟩))

/-! ### KICK and HANDOVER (R296, R311) -/

theorem kick_served (who : Initiator) (reaches : ReachesReg s who .PEG_CMD 0) : exec (.kick who) s =
    .next { (served s who).onPeg fun p => { p with kick := 0 } with resp := .done } :=
  congrArg Host.Outcome.next (rowWrite_reaches s who _ _ _ reaches)

theorem handover_served (who : Initiator) (reaches : ReachesReg s who .PEG_CMD 0) : exec (.handover who) s =
    .next { (served s who).handover with resp := .done } :=
  congrArg Host.Outcome.next (rowWrite_reaches s who _ _ _ reaches)

/-- Settles O45: a claim, a takeover and a return end in a take of the peg (`PegTaken`), and contention, a fault, a lost keepalive, the watchdog and
a return in its release (`PegReleased`), each by the equation of its command above. -/
theorem pegIsTakenAndReleased : Obligations.PegIsTakenAndReleased := by
  unfold Obligations.PegIsTakenAndReleased
  refine ⟨?claim, ?gone, ?takeover, ?noTakeover, ?contention, ?fault, ?noFault, ?keepalive, ?watchdog, ?commands, ?revert, ?noRevert, ?returns,
    ?early⟩
  case claim =>
    intro s runs driven released state
    have booted : s.sys.booted = true := by simpa [State.runs] using (Bool.and_eq_true_iff.mp runs).2
    exact ⟨_, congrArg Host.Outcome.next (State.live_runs runs), State.startClaim_spec booted driven released state⟩
  case gone =>
    intro s gone
    exact congrArg Host.Outcome.next (Eq.trans (congrArg (s.live 0) (State.startClaim_idle gone)) (live_idle s 0))
  case takeover =>
    intro s runs state
    refine ⟨s.takeOver 8, congrArg Host.Outcome.next ((State.live_runs runs).trans (if_pos state)), ?_⟩
    obtain ⟨taken, truss, counter⟩ := s.takeOver_spec (cause := 8) (by decide)
    exact ⟨taken, by rw [truss], counter, by rw [truss], by rw [truss]⟩
  case noTakeover =>
    intro s state
    exact congrArg Host.Outcome.next (Eq.trans (congrArg (s.live 0) (if_neg state)) (live_idle s 0))
  case contention =>
    intro s runs driven
    refine ⟨⟨_, congrArg Host.Outcome.next (State.live_runs runs), State.contention_low_spec driven⟩, s.uncontended, ?_, s.uncontended_spec⟩
    exact congrArg Host.Outcome.next ((State.live_runs runs).trans (State.contention_high driven))
  case fault =>
    intro s low runs driven
    exact ⟨_, congrArg Host.Outcome.next (State.live_runs runs), State.pegFault_spec driven⟩
  case noFault =>
    intro s
    exact congrArg Host.Outcome.next (Eq.trans (congrArg (s.live 0) s.pegFault_same) (live_idle s 0))
  case keepalive =>
    intro s runs driven
    refine ⟨_, congrArg Host.Outcome.next ((State.live_runs runs).trans (if_pos driven)), ?_⟩
    exact s.pegRelease_released 1 (by simp [driven]) (by decide)
  case watchdog =>
    intro s runs driven enabled late
    refine ⟨_, congrArg Host.Outcome.next ((State.live_runs runs).trans (if_pos ⟨driven, enabled, late⟩)), ?_, ?_⟩
    · exact (s.pegRelease_released 3 (by simp [driven]) (by decide)).coded _
    · exact s.pegCode_told _ _ (s.pegRelease_keeps 3).reports
  case commands =>
    intro s who reaches
    have ready : ((served s who).holds && (served s who).partnerSync) = (s.holds && s.partnerSync) :=
      served_congr (fun u => u.holds && u.partnerSync) s who 4 fun _ => rfl
    refine ⟨?_, fun due => ?_, fun no => ?_⟩
    · rw [kick_served who reaches, State.onPeg, served_peg]
    · rw [handover_served who reaches, State.handover, if_pos (ready.trans due), State.onPeg, served_peg]
    · rw [handover_served who reaches, State.handover, if_neg (by rw [ready, no]; decide)]
  case revert =>
    intro s runs ok
    refine ⟨fun ready => ?_, fun idle state unit time cool => ?_⟩
    · exact congrArg Host.Outcome.next ((State.live_runs runs).trans (State.revertRequest_holder ok ready))
    · refine ⟨_, congrArg Host.Outcome.next ((State.live_runs runs).trans (State.revertRequest_standby ok idle state unit time cool)), rfl, rfl, ?_⟩
      exact List.length_append
  case noRevert =>
    intro s ok no
    exact congrArg Host.Outcome.next (Eq.trans (congrArg (s.live 0) (State.revertRequest_refused no)) (live_idle s 0))
  case returns =>
    intro s c runs due cause
    refine ⟨fun holds marker sync => ?_, fun idle state heat => ?_⟩
    · exact ⟨_, congrArg Host.Outcome.next (State.live_runs runs), State.returned_holder_spec cause holds due marker sync⟩
    · exact ⟨_, congrArg Host.Outcome.next (State.live_runs runs), State.returned_standby_spec cause idle due state heat⟩
  case early =>
    intro s early
    exact congrArg Host.Outcome.next (Eq.trans (congrArg (s.live 0) (State.returned_early early)) (live_idle s 0))

end Sys2Proof.Machine
end

section
/-! SUPPORT. Ports, attach points and the EXI engines, and the proof of O48. -/

namespace Sys2Proof.Machine

variable {s t u : State}

/-! ### Violations and the network's own state -/

/-- A violation leaves of the network everything but the list of those seen. -/
theorem State.violation_net (s : State) (group code : Nat) (port : Option Nat) (slot : Nat) (sender : Option Nat) (msg : List Byte)
    (detail : Option Nat) (key : Nat) : ∃ seen, (s.violation group code port slot sender msg detail key).net = { s.net with violated := seen } := by
  have delivered (v : State) (entry : List Byte) : ((v.ringDeliver 61 entry).report 0x0783 slot).net = v.net := by
    rw [v.ringDeliver_eq]
    rfl
  unfold State.violation
  dsimp only
  split
  · exact ⟨_, delivered _ _⟩
  · split
    · exact ⟨_, rfl⟩
    · exact ⟨_, delivered _ _⟩

/-! ### Ports (R315, R343) -/

/-- A port whose link is up. -/
def State.portUp (s : State) (p speed : Nat) (plca : Bool) : State :=
  ((s.setFld F.NET_PORT_STAT_LINK p 1).setFld F.NET_PORT_STAT_SPEED p speed).setFlag F.NET_PORT_STAT_PLCA p plca

theorem State.portUp_spec (s : State) (p speed : Nat) (plca : Bool) : (s.portUp p speed plca).flag F.NET_PORT_STAT_LINK p = true
    ∧ (s.portUp p speed plca).fld F.NET_PORT_STAT_SPEED p = speed % 8 ∧ (s.portUp p speed plca).flag F.NET_PORT_STAT_PLCA p = plca
    ∧ s.portUp p speed plca = { s with regs := (s.portUp p speed plca).regs } ∧ CellsKept [(.NET_PORT_STAT, p)] s (s.portUp p speed plca) :=
  ⟨by simp [State.portUp, Fld.width], by simp [State.portUp, Fld.width], by simp [State.portUp], rfl, by simp [State.portUp]⟩

/-- A port whose link is lost. -/
def State.portDown (s : State) (p : Nat) : State :=
  (((s.setFld F.NET_PORT_STAT_LINK p 0).setFld F.NET_PORT_STAT_SPEED p 0).setFld F.NET_PORT_STAT_PLCA p 0).report 0x0701 p

theorem State.portDown_spec (s : State) (p : Nat) : (s.portDown p).flag F.NET_PORT_STAT_LINK p = false ∧ (s.portDown p).fld F.NET_PORT_STAT_SPEED p = 0
    ∧ (s.portDown p).flag F.NET_PORT_STAT_PLCA p = false ∧ (s.portDown p).reports = s.reports ++ [⟨0x0701, p⟩]
    ∧ CellsKept [(.NET_PORT_STAT, p)] s (s.portDown p) :=
  ⟨by simp [State.portDown, Fld.width], by simp [State.portDown, Fld.width], by simp [State.portDown, Fld.width], rfl, by simp [State.portDown]⟩

/-! ### PTP_GM_CHANGE (R317) -/

/-- The grandmaster and the offset that the device shows. -/
def State.gmShown (s : State) (master synced : Bool) (ofs : Int) : State :=
  ((((s.setFlag F.NET_PTP_STAT_GM 0 master).setFlag F.NET_PTP_STAT_SYNCED 0 synced).setFld F.NET_PTP_STAT_OFFSET 0
    (unsignedOf 16 (clampInt (-32768) 32767 ofs))).report 0x0784)

theorem State.gmShown_spec (s : State) (master synced : Bool) (ofs : Int) : (s.gmShown master synced ofs).flag F.NET_PTP_STAT_GM = master
    ∧ (s.gmShown master synced ofs).flag F.NET_PTP_STAT_SYNCED = synced
    ∧ (s.gmShown master synced ofs).fld F.NET_PTP_STAT_OFFSET = unsignedOf 16 (clampInt (-32768) 32767 ofs)
    ∧ (s.gmShown master synced ofs).reports = s.reports ++ [⟨0x0784, 0⟩]
    ∧ s.gmShown master synced ofs = { s with regs := (s.gmShown master synced ofs).regs, reports := (s.gmShown master synced ofs).reports }
    ∧ CellsKept [(.NET_PTP_STAT, 0)] s (s.gmShown master synced ofs) := by
  refine ⟨by simp [State.gmShown], by simp [State.gmShown], ?_, rfl, rfl, by simp [State.gmShown]⟩
  have small : unsignedOf 16 (clampInt (-32768) 32767 ofs) < 2 ^ 16 := unsignedOf_lt _ _
  unfold State.gmShown
  generalize unsignedOf 16 (clampInt (-32768) 32767 ofs) = n at small
  simpa [Fld.width] using Nat.mod_eq_of_lt small

/-! ### ATTACH_CLEARED (R340) -/

/-- The demand of an output with VALID cleared. -/
def State.demandCleared (s : State) (o : Nat) : State :=
  s.takeDemand o (s.reg .TRS_OUT_DEM_LO o) (F.TRS_OUT_DEM_HI_VALID.put (s.reg .TRS_OUT_DEM_HI o) 0)

theorem State.demandHi_cleared (s : State) (o : Nat) (hi : W32) :
    F.TRS_OUT_DEM_HI_VALID.of (s.demandHi o (F.TRS_OUT_DEM_HI_VALID.put hi 0)) = 0 := by
  cases there : s.detached o with
  | true => exact State.demandHi_detached there _
  | false => rw [State.demandHi_attached there, Fld.of_and _ (by decide), Fld.of_put _ _ _ (by decide) (by decide), Nat.zero_mod]

theorem State.demandCleared_spec (s : State) (o : Nat) : (s.demandCleared o).flag F.TRS_OUT_DEM_HI_VALID o = false
    ∧ (s.demandCleared o).reg .TRS_OUT_DEM_LO o = s.reg .TRS_OUT_DEM_LO o
    ∧ (s.demandCleared o).fld F.NET_SESS_STAT_CLEARS o = s.fld F.NET_SESS_STAT_CLEARS o := by
  obtain ⟨low, high, regs, -⟩ := s.takeDemand_spec o (s.reg .TRS_OUT_DEM_LO o) (F.TRS_OUT_DEM_HI_VALID.put (s.reg .TRS_OUT_DEM_HI o) 0)
  have clear := s.demandHi_cleared o (s.reg .TRS_OUT_DEM_HI o)
  unfold State.demandCleared
  generalize s.takeDemand o (s.reg .TRS_OUT_DEM_LO o) (F.TRS_OUT_DEM_HI_VALID.put (s.reg .TRS_OUT_DEM_HI o) 0) = t at low high regs
  refine ⟨?_, low, (regs.fld (by decide) o).trans (by simp [State.demandStored])⟩
  rw [State.flag_eq_false, State.fld, high]
  exact clear

/-- An attach point that reads 0 clears VALID of its output. -/
def State.attachGone (s : State) (o : Nat) : State := ((s.demandCleared o).bumpSat F.NET_SESS_STAT_CLEARS o).report 0x0785 o

theorem State.attachGone_spec (s : State) (o : Nat) : (s.attachGone o).flag F.TRS_OUT_DEM_HI_VALID o = false
    ∧ (s.attachGone o).reg .TRS_OUT_DEM_LO o = s.reg .TRS_OUT_DEM_LO o
    ∧ (s.attachGone o).fld F.NET_SESS_STAT_CLEARS o = min (s.fld F.NET_SESS_STAT_CLEARS o + 1) 255
    ∧ (⟨0x0785, o⟩ : Report) ∈ (s.attachGone o).reports.drop s.reports.length := by
  obtain ⟨valid, low, clears⟩ := s.demandCleared_spec o
  have grown : s.reports <+: (s.demandCleared o).reports := (s.takeDemand_keeps _ _ _).reports
  unfold State.attachGone
  generalize s.demandCleared o = v at valid low clears grown
  refine ⟨?_, ?_, ?_, mem_reports_drop (u := v.bumpSat F.NET_SESS_STAT_CLEARS o) grown rfl⟩
  · simpa using valid
  · simpa using low
  · rw [← clears]
    simp [Fld.width]

/-! ### EXI_JOB (R338) -/

/-- An entry taken from a submission ring passes CONS and changes nothing else. -/
theorem State.ringTake_empty {r : Nat} (empty : s.ringCount r = 0) : (s.ringTake r).1 = none := by
  unfold State.ringTake
  rw [if_pos empty]

theorem State.ringTake_waits {r : Nat} (waits : s.ringCount r ≠ 0) : ∃ a, s.ringTake r =
    ((s.fetch ⟨12, 0⟩ a (s.ringEsize r)).1, (s.fetch ⟨12, 0⟩ a (s.ringEsize r)).2.ringPop r) := ⟨_, if_neg waits⟩

/-- A pair whose first part was read, and whose second is the state that the read leaves. -/
theorem State.ringTake_read {e : List Byte} {r : Nat} {f : Option (List Byte) × State} (take : s.ringTake r = (f.1, f.2.ringPop r))
    (reads : f.1 = some e → f.2 = s) (taken : (s.ringTake r).1 = some e) : s.ringTake r = (some e, s.ringPop r) := by
  rw [take] at taken ⊢
  rw [reads taken]
  exact congrArg (·, s.ringPop r) taken

theorem State.ringTake_some {e : List Byte} {r : Nat} (taken : (s.ringTake r).1 = some e) : s.ringTake r = (some e, s.ringPop r) := by
  have waits : s.ringCount r ≠ 0 := fun empty => Option.some_ne_none e (taken.symm.trans (State.ringTake_empty empty))
  obtain ⟨a, take⟩ := State.ringTake_waits waits
  exact State.ringTake_read take State.fetch_reads taken

/-- A job of a submission entry. -/
def exiJobOf (e : List Byte) : ExiJob := ⟨u8 e 0, u8 e 1, u32 e 4, uN e 8 8, u32 e 16, u32 e 20, uN e 24 8⟩

theorem exiJob_takes {e : List Byte} (runs : s.runs 0 = true) (fits : s.ringFits (u8 (s.body tyNET) 0x15) 1 32 = true)
    (free : s.net.jobs.length < 2) (taken : (s.ringTake (u8 (s.body tyNET) 0x15)).1 = some e) :
    exec .exiJob s = .next ((s.ringPop (u8 (s.body tyNET) 0x15)).onNet fun x => { x with jobs := x.jobs ++ [exiJobOf e] }) := by
  refine congrArg Host.Outcome.next ((State.live_runs runs).trans ((if_neg ?_).trans ?_))
  · simp only [fits, Bool.true_eq_false, false_or]
    omega
  · rw [State.ringTake_some taken]
    rfl

theorem State.ringPop_spec (s : State) (r : Nat) : (s.ringPop r).ringCons r = (s.ringCons r + 1) % (2 * s.ringEntries r) % 2 ^ 17
    ∧ CellsKept [(.PNT_RING_CONS, r)] s (s.ringPop r) :=
  ⟨by simp [State.ringPop, State.ringCons, Fld.width], by simp [State.ringPop]⟩

/-! ### EXI_RESULT (R338) -/

/-- The oldest job has left its engine and is counted. -/
def State.jobEnded (s : State) (rest : List ExiJob) : State :=
  ((s.onNet fun x => { x with jobs := rest }).bumpSat F.NET_EXI_STAT_JOBS 0).count 11 30

theorem exiResult_ends {j : ExiJob} {rest : List ExiJob} (runs : s.runs 0 = true) (jobs : s.net.jobs = j :: rest) :
    exec .exiResult s = .next ((s.jobEnded rest).exiRun j) := by
  refine congrArg Host.Outcome.next ((State.live_runs runs).trans ?_)
  rw [jobs]
  rfl

section Ended

variable (s : State) (rest : List ExiJob) (w : Initiator) (a n : Nat)

theorem State.jobEnded_cells : CellsKept [(.NET_EXI_STAT, 0)] s (s.jobEnded rest) := by simp [State.jobEnded, State.onNet]

theorem State.jobEnded_spec : (s.jobEnded rest).net.jobs = rest ∧ (s.jobEnded rest).fld F.NET_EXI_STAT_JOBS = min (s.fld F.NET_EXI_STAT_JOBS + 1) 65535
    ∧ (s.jobEnded rest).fld F.NET_EXI_STAT_ERRORS = s.fld F.NET_EXI_STAT_ERRORS ∧ (s.jobEnded rest).reports = s.reports := by
  refine ⟨rfl, ?_, ?_, rfl⟩
  · exact State.fld_bumpSat_self (s.onNet fun x => { x with jobs := rest }) (f := F.NET_EXI_STAT_JOBS) (by decide)
  · exact State.fld_bumpSat_apart (s.onNet fun x => { x with jobs := rest }) (f := F.NET_EXI_STAT_JOBS) (.inr (.inr (by decide))) (by decide)

/-- What a unit may reach does not turn on the counts of the EXI engines. -/
theorem State.unitFault_jobEnded (write : Bool) : (s.jobEnded rest).unitFault w a n write = s.unitFault w a n write := by
  have cells := s.jobEnded_cells rest
  have trap : (s.jobEnded rest).flag F.SYS_CTL_ABSENT_TRAP = s.flag F.SYS_CTL_ABSENT_TRAP := cells.flag (by simp)
  have engines (e : Nat) : (s.jobEnded rest).fld F.CLF_ENG_STAT_STATE e = s.fld F.CLF_ENG_STAT_STATE e := cells.fld (by simp)
  have locally (b : Nat) : (s.jobEnded rest).localWritable b = s.localWritable b := by
    unfold State.localWritable
    simp only [engines]
  have fenced (r : Region) : (s.jobEnded rest).fenced w r a n write = s.fenced w r a n write := by
    unfold State.fenced
    simp only [locally]
  have region : (s.jobEnded rest).regionOf a n = s.regionOf a n := rfl
  have absent : (s.jobEnded rest).absentEngineAt a n = s.absentEngineAt a n := rfl
  have ecc : (s.jobEnded rest).eccIn a n = s.eccIn a n := rfl
  unfold State.unitFault
  simp only [trap, fenced, region, absent, ecc]

theorem State.fetch_jobEnded : ((s.jobEnded rest).fetch w a n).1 = (s.fetch w a n).1 := by
  have bytes : (s.jobEnded rest).bytes a n = s.bytes a n := State.bytes_of_mem (s := s) (t := s.jobEnded rest) rfl a n
  have ram : (s.jobEnded rest).inRam a n = s.inRam a n := rfl
  unfold State.fetch
  rw [s.unitFault_jobEnded rest w a n false, bytes, ram]
  split <;> rfl

/-- A unit's write that is not taken leaves memory. -/
theorem State.busError_mem (s : State) (w : Initiator) (a : Nat) (write : Bool) (code : Nat) : (s.busError w a write code).mem = s.mem := by
  unfold State.busError
  dsimp only
  split <;> rfl

theorem State.unitWrite_jobEnded (b : List Byte) : ((s.jobEnded rest).unitWrite w a b).1 = (s.unitWrite w a b).1
    ∧ ((s.jobEnded rest).unitWrite w a b).2.mem = (s.unitWrite w a b).2.mem := by
  have mem : (s.jobEnded rest).mem = s.mem := rfl
  by_cases empty : b = []
  · have none_ (u : State) : u.unitWrite w a b = (true, u) := if_pos empty
    rw [none_, none_]
    exact ⟨rfl, mem⟩
  have same := s.unitFault_jobEnded rest w a b.length true
  cases fault : s.unitFault w a b.length true with
  | zero =>
    have ram : (s.jobEnded rest).inRam a b.length = s.inRam a b.length := rfl
    have absent : (s.jobEnded rest).absentEngineAt a b.length = s.absentEngineAt a b.length := rfl
    rw [State.unitWrite_ok empty fault, State.unitWrite_ok empty (same.trans fault), ram, absent]
    refine ⟨rfl, ?_⟩
    cases s.inRam a b.length && !s.absentEngineAt a b.length
    · exact mem
    · exact State.setBytes_mem_congr (s := s) (u := s.jobEnded rest) rfl a b
  | succ c =>
    rw [State.unitWrite_fault empty fault, State.unitWrite_fault empty (same.trans fault)]
    exact ⟨rfl, ((s.jobEnded rest).busError_mem w a true _).trans (mem.trans (s.busError_mem w a true _).symm)⟩

end Ended

end Sys2Proof.Machine
end

section
/-! SUPPORT. The results of the EXI engines, and the proof of O48. -/

namespace Sys2Proof.Machine

variable {s t u : State} {j : ExiJob}

/-! ### Results (R338) -/

theorem State.exiDone_spec (s : State) (j : ExiJob) (len : Option Nat) (pos : Nat) :
    RegsKept [.PNT_RING_PROD, .PNT_RING_STAT] s (s.exiDone j len pos) ∧ (s.exiDone j len pos).net = s.net
      ∧ s.reports <+: (s.exiDone j len pos).reports := by
  unfold State.exiDone
  refine ⟨(State.ringDeliver_regs _ _ _).regsKept (by simp), ?_, (State.ringDeliver_keeps _ _ _).reports⟩
  rw [State.ringDeliver_eq]

theorem State.ringLost_mem (s : State) (n : Nat) : (s.ringLost n).mem = s.mem := by
  unfold State.ringLost
  dsimp only
  split <;> rfl

/-- A result that no ring takes leaves memory. -/
theorem State.exiDone_mem (closed : s.ringFits (u8 (s.body tyNET) 0x16) 0 16 = false) (j : ExiJob) (len : Option Nat) (pos : Nat) :
    (s.exiDone j len pos).mem = s.mem := by
  unfold State.exiDone
  generalize entry : leBytes 4 j.tag ++ leBytes 2 (if len.isSome then 0x0700 else 0x0704) ++ leBytes 2 0 ++ leBytes 4 (len.getD 0)
    ++ leBytes 4 pos = b
  have length : b.length = 16 := by rw [← entry]; simp only [List.length_append, length_leBytes]
  rw [State.ringDeliver, length, closed, if_neg (by simp)]
  exact s.ringLost_mem _

/-- A failed job is counted and reported. -/
def State.exiFailed (s : State) (j : ExiJob) : State := (s.bumpSat F.NET_EXI_STAT_ERRORS 0).report 0x0704 j.tag

theorem State.exiFail_eq (s : State) (j : ExiJob) (msg : List Byte) (pos : Nat) : s.exiFail j msg pos =
    (if j.op = 1 then (s.exiFailed j).violation 7 1 none 255 none msg else s.exiFailed j).exiDone j none pos := rfl

/-- What has ended with a job: the jobs, the counts, and the reports of a failure. -/
structure JobCounted (failed : Bool) (j : ExiJob) (s t : State) : Prop where
  jobs : t.net.jobs = s.net.jobs
  count : t.fld F.NET_EXI_STAT_JOBS = s.fld F.NET_EXI_STAT_JOBS
  kept : failed = false → t.fld F.NET_EXI_STAT_ERRORS = s.fld F.NET_EXI_STAT_ERRORS
  errors : failed = true → t.fld F.NET_EXI_STAT_ERRORS = min (s.fld F.NET_EXI_STAT_ERRORS + 1) 65535
  told : failed = true → (⟨0x0704, j.tag⟩ : Report) ∈ t.reports.drop s.reports.length

theorem State.exiFail_counted (s : State) (j : ExiJob) (msg : List Byte) (pos : Nat) : JobCounted true j s (s.exiFail j msg pos) := by
  rw [s.exiFail_eq j msg pos]
  have failed : (s.exiFailed j).net = s.net ∧ (s.exiFailed j).fld F.NET_EXI_STAT_JOBS = s.fld F.NET_EXI_STAT_JOBS
      ∧ (s.exiFailed j).fld F.NET_EXI_STAT_ERRORS = min (s.fld F.NET_EXI_STAT_ERRORS + 1) 65535
      ∧ (s.exiFailed j).reports = s.reports ++ [⟨0x0704, j.tag⟩] :=
    ⟨rfl, by simp [State.exiFailed], by simp [State.exiFailed, Fld.width], rfl⟩
  generalize s.exiFailed j = v at failed
  obtain ⟨net, jobs, errors, reports⟩ := failed
  have seen : RegsKept [.NET_VIOL_CNT, .PNT_RING_PROD, .PNT_RING_STAT] v (if j.op = 1 then v.violation 7 1 none 255 none msg else v)
      ∧ (if j.op = 1 then v.violation 7 1 none 255 none msg else v).net.jobs = v.net.jobs
      ∧ v.reports <+: (if j.op = 1 then v.violation 7 1 none 255 none msg else v).reports := by
    split
    · obtain ⟨list, same⟩ := v.violation_net 7 1 none 255 none msg none 0
      exact ⟨(v.violation_kept 7 1 none 255 none msg none 0).regsKept (by simp), by rw [same], (State.violation_keeps ..).reports⟩
    · exact ⟨RegsKept.refl _ v, rfl, List.prefix_rfl⟩
  generalize (if j.op = 1 then v.violation 7 1 none 255 none msg else v) = w at seen
  obtain ⟨regs, listed, grown⟩ := seen
  obtain ⟨done, same, more⟩ := w.exiDone_spec j none pos
  generalize w.exiDone j none pos = x at done same more
  have cells (f : Fld) (own : f.reg = .NET_EXI_STAT) : x.fld f = v.fld f :=
    (done.fld (by rw [own]; decide) 0).trans (regs.fld (by rw [own]; decide) 0)
  exact ⟨by rw [same, listed, net], (cells _ rfl).trans jobs, nofun, fun _ => (cells _ rfl).trans errors,
    fun _ => mem_reports_drop_of_prefix (mem_reports_drop List.prefix_rfl reports) (grown.trans more)⟩

theorem State.exiDone_counted (s : State) (j : ExiJob) (len : Option Nat) (pos : Nat) : JobCounted false j s (s.exiDone j len pos) := by
  obtain ⟨done, same, -⟩ := s.exiDone_spec j len pos
  exact ⟨by rw [same], done.fld (by decide) 0, fun _ => done.fld (by decide) 0, nofun, nofun⟩

/-- What was read or written before a job was counted leaves the counts. -/
theorem JobCounted.after {failed : Bool} (counted : JobCounted failed j u t) (regs : RegsKept busErrorRegs s u) (net : u.net = s.net)
    (reports : s.reports <+: u.reports) : JobCounted failed j s t where
  jobs := counted.jobs.trans (by rw [net])
  count := counted.count.trans (regs.fld (by decide) 0)
  kept := fun h => (counted.kept h).trans (regs.fld (by decide) 0)
  errors := fun h => (counted.errors h).trans (by rw [regs.fld (by decide) 0])
  told := fun h => List.drop_subset_drop_left _ reports.length_le (counted.told h)

/-! ### A job's run, by what its reads and writes come to -/

theorem State.exiRun_unread (unread : (s.fetch ⟨12, 0⟩ j.src j.srcLen).1 = none) :
    s.exiRun j = (s.fetch ⟨12, 0⟩ j.src j.srcLen).2.exiFail j [] 0 := by
  unfold State.exiRun
  generalize s.fetch ⟨12, 0⟩ j.src j.srcLen = f at unread
  obtain ⟨m, v⟩ := f
  obtain rfl : m = none := unread
  rfl

theorem State.exiRun_failed {msg : List Byte} (read : (s.fetch ⟨12, 0⟩ j.src j.srcLen).1 = some msg) (failed : (j.run msg).1 = none) :
    s.exiRun j = s.exiFail j msg (j.run msg).2 := by
  have same := State.fetch_reads read
  unfold State.exiRun
  generalize s.fetch ⟨12, 0⟩ j.src j.srcLen = f at read same
  obtain ⟨m, v⟩ := f
  obtain rfl : m = some msg := read
  obtain rfl : v = s := same
  dsimp only
  generalize j.run msg = r at failed
  obtain ⟨out, pos⟩ := r
  obtain rfl : out = none := failed
  rfl

/-- A job whose message was read and coded. -/
theorem State.exiRun_coded {msg out : List Byte} (read : (s.fetch ⟨12, 0⟩ j.src j.srcLen).1 = some msg) (coded : (j.run msg).1 = some out) :
    s.exiRun j = if (s.unitWrite ⟨12, 0⟩ j.out out).1 then (s.unitWrite ⟨12, 0⟩ j.out out).2.exiDone j (some out.length) (j.run msg).2
      else (s.unitWrite ⟨12, 0⟩ j.out out).2.exiFail j [] 0 := by
  have same := State.fetch_reads read
  unfold State.exiRun
  generalize s.fetch ⟨12, 0⟩ j.src j.srcLen = f at read same
  obtain ⟨m, v⟩ := f
  obtain rfl : m = some msg := read
  obtain rfl : v = s := same
  dsimp only
  generalize j.run msg = r at coded
  obtain ⟨made, pos⟩ := r
  obtain rfl : made = some out := coded
  dsimp only
  generalize v.unitWrite ⟨12, 0⟩ j.out out = x
  obtain ⟨taken, w⟩ := x
  cases taken <;> rfl

theorem State.busError_net (s : State) (w : Initiator) (a : Nat) (write : Bool) (code : Nat) : (s.busError w a write code).net = s.net := by
  unfold State.busError
  dsimp only
  split <;> rfl

theorem State.busError_jny (s : State) (w : Initiator) (a : Nat) (write : Bool) (code : Nat) : (s.busError w a write code).jny = s.jny := by
  unfold State.busError
  dsimp only
  split <;> rfl

theorem State.fetch_net (s : State) (w : Initiator) (a n : Nat) : (s.fetch w a n).2.net = s.net := by
  unfold State.fetch
  split
  · rfl
  · exact s.busError_net w a false _

/-- A unit's write leaves the registers but those of a bus error, and the network. -/
theorem State.unitWrite_spec (s : State) (w : Initiator) (a : Nat) (b : List Byte) : RegsKept busErrorRegs s (s.unitWrite w a b).2
    ∧ (s.unitWrite w a b).2.net = s.net ∧ (s.unitWrite w a b).2.jny = s.jny := by
  by_cases empty : b = []
  · have none_ : s.unitWrite w a b = (true, s) := if_pos empty
    rw [none_]
    exact ⟨RegsKept.refl _ s, rfl, rfl⟩
  cases fault : s.unitFault w a b.length true with
  | zero =>
    rw [State.unitWrite_ok empty fault]
    cases s.inRam a b.length && !s.absentEngineAt a b.length
    · exact ⟨RegsKept.refl _ s, rfl, rfl⟩
    · have stored : (s.setBytes a b).net = s.net ∧ (s.setBytes a b).jny = s.jny := by
        rw [s.setBytes_eq a b]
        exact ⟨rfl, rfl⟩
      exact ⟨regsKept_of_regs (s.setBytes_regs a b), stored⟩
  | succ c =>
    rw [State.unitWrite_fault empty fault]
    exact ⟨(s.busError_kept w a true _).1, s.busError_net w a true _, s.busError_jny w a true _⟩

/-- The output of a job's message, where it was read and coded. -/
def State.exiOut (s : State) (j : ExiJob) : Option (List Byte) := (s.fetch ⟨12, 0⟩ j.src j.srcLen).1.bind fun m => (j.run m).1

/-- The output of a job is taken by memory. -/
def State.exiOk (s : State) (j : ExiJob) : Bool := (s.exiOut j).any fun out => (s.unitWrite ⟨12, 0⟩ j.out out).1

theorem State.exiRun_spec (s : State) (j : ExiJob) : JobCounted (!s.exiOk j) j s (s.exiRun j)
    ∧ ∀ out, s.exiOut j = some out → s.exiOk j = true → s.ringFits (u8 (s.body tyNET) 0x16) 0 16 = false →
      (s.exiRun j).mem = (s.unitWrite ⟨12, 0⟩ j.out out).2.mem := by
  unfold State.exiOk State.exiOut
  cases read : (s.fetch ⟨12, 0⟩ j.src j.srcLen).1 with
  | none =>
    rw [State.exiRun_unread read]
    refine ⟨?_, nofun⟩
    exact (State.exiFail_counted _ j [] 0).after (s.fetch_kept _ _ _).1 (s.fetch_net _ _ _) (s.fetch_keeps _ _ _).reports
  | some msg =>
    rw [Option.bind_some]
    cases coded : (j.run msg).1 with
    | none =>
      rw [State.exiRun_failed read coded]
      exact ⟨s.exiFail_counted j msg _, nofun⟩
    | some out =>
      obtain ⟨regs, net, image⟩ := s.unitWrite_spec ⟨12, 0⟩ j.out out
      have grown := (s.unitWrite_keeps ⟨12, 0⟩ j.out out).reports
      have shut : s.ringFits (u8 (s.body tyNET) 0x16) 0 16 = false →
          (s.unitWrite ⟨12, 0⟩ j.out out).2.ringFits (u8 ((s.unitWrite ⟨12, 0⟩ j.out out).2.body tyNET) 0x16) 0 16 = false := by
        have body : (s.unitWrite ⟨12, 0⟩ j.out out).2.body tyNET = s.body tyNET := congrArg (fun y : Jny => y.active.body tyNET) image
        rw [body, State.ringFits_congr (regs _ _ (by decide))]
        exact id
      rw [State.exiRun_coded read coded, Option.any_some]
      refine ⟨?_, fun b same ok closed => ?_⟩
      · generalize s.unitWrite ⟨12, 0⟩ j.out out = x at regs net grown
        obtain ⟨taken, w⟩ := x
        cases taken with
        | false => exact (w.exiFail_counted j [] 0).after regs net grown
        | true => exact (w.exiDone_counted j _ _).after regs net grown
      · obtain rfl := Option.some.inj same
        rw [if_pos ok]
        exact State.exiDone_mem (shut closed) j _ _

/-- Settles O48: each command is one of the operations above, whose fields, frame and reports are read off; a job's run is judged after its job has
left its engine, which changes nothing that a unit's accesses turn on. -/
theorem portsSessionsAndExiJobs : Obligations.PortsSessionsAndExiJobs := by
  unfold Obligations.PortsSessionsAndExiJobs
  refine ⟨?up, ?down, ?gm, ?attach, ?noAttach, ?job, ?noJob, ?result, ?noResult⟩
  case up =>
    intro s p sp plca
    refine ⟨fun off => ?_, fun runs on => ?_⟩
    · exact congrArg Host.Outcome.next (Eq.trans (congrArg (s.live 0) (if_pos off)) (live_idle s 0))
    · exact ⟨_, congrArg Host.Outcome.next ((State.live_runs runs).trans (if_neg on)), s.portUp_spec p _ _⟩
  case down =>
    intro s p
    refine ⟨fun off => ?_, fun runs on => ?_⟩
    · exact congrArg Host.Outcome.next (Eq.trans (congrArg (s.live 0) (if_neg (by simp [off]))) (live_idle s 0))
    · exact ⟨_, congrArg Host.Outcome.next ((State.live_runs runs).trans (if_pos on)), s.portDown_spec p⟩
  case gm =>
    intro s master synced ofs runs
    exact ⟨_, congrArg Host.Outcome.next (State.live_runs runs), s.gmShown_spec master synced ofs⟩
  case attach =>
    intro s o runs enabled gone valid
    exact ⟨_, congrArg Host.Outcome.next ((State.live_runs runs).trans (if_pos ⟨enabled, gone, valid⟩)), s.attachGone_spec o⟩
  case noAttach =>
    intro s o few
    refine congrArg Host.Outcome.next (Eq.trans (congrArg (s.live 0) (if_neg ?_)) (live_idle s 0))
    rintro ⟨-, gone, -⟩
    omega
  case job =>
    intro s e r runs fits free taken
    refine ⟨_, exiJob_takes runs fits free taken, rfl, (s.ringPop_spec r).1, rfl, ?_⟩
    exact (s.ringPop_spec r).2.trans (cellsKept_of_regs rfl)
  case noJob =>
    intro s busy
    exact congrArg Host.Outcome.next (Eq.trans (congrArg (s.live 0) (if_pos (.inr busy))) (live_idle s 0))
  case result =>
    intro s j rest runs jobs got ok
    obtain ⟨listed, count, errors, reports⟩ := s.jobEnded_spec rest
    obtain ⟨counted, stored⟩ := (s.jobEnded rest).exiRun_spec j
    have out : (s.jobEnded rest).exiOut j = got := by rw [State.exiOut, s.fetch_jobEnded]
    have taken (b : List Byte) := s.unitWrite_jobEnded rest ⟨12, 0⟩ j.out b
    have good : (s.jobEnded rest).exiOk j = ok := by
      rw [State.exiOk, out]
      exact congrArg (Option.any · got) (funext fun b => (taken b).1)
    have closed : (s.jobEnded rest).ringFits (u8 ((s.jobEnded rest).body tyNET) 0x16) 0 16 = s.ringFits (u8 (s.body tyNET) 0x16) 0 16 := by
      have body : (s.jobEnded rest).body tyNET = s.body tyNET := rfl
      rw [body]
      exact State.ringFits_congr (s.jobEnded_cells rest _ _ (by simp))
    rw [out, good, closed] at stored
    rw [good] at counted
    refine ⟨_, exiResult_ends runs jobs, counted.jobs.trans listed, counted.count.trans count, fun h => ?_, fun h => ⟨?_, ?_⟩, fun b h k no => ?_⟩
    · exact (counted.kept (by rw [h]; rfl)).trans errors
    · exact (counted.errors (by rw [h]; rfl)).trans (by rw [errors])
    · exact reports ▸ counted.told (by rw [h]; rfl)
    · exact (stored b h k no).trans (taken b).2
  case noResult =>
    intro s none_
    refine congrArg Host.Outcome.next (Eq.trans (congrArg (s.live 0) ?_) (live_idle s 0))
    rw [none_]

end Sys2Proof.Machine
end

section
/-! SUPPORT. Partner slots: what a slot's events leave, the loss of a partner, and the received messages. -/

namespace Sys2Proof.Machine

variable {s t u : State} {n : Nat} {d : SlotDef}

/-! ### Slots -/

@[simp] theorem State.partner_onPartner (s : State) (n : Nat) (f : Slot → Slot) : (s.onPartner n f).partner n = f (s.partner n) :=
  Arr.get_upd_same s.net.slots n f

theorem State.partner_of_slots (same : t.net.slots = s.net.slots) (n : Nat) : t.partner n = s.partner n := by
  rw [State.partner, State.partner, same]

theorem State.fld_onPartner (s : State) (n : Nat) (g : Slot → Slot) (f : Fld) (i : Nat) : (s.onPartner n g).fld f i = s.fld f i := rfl

theorem State.slotDef_slot (found : s.slotDef n = some d) : d.slot = n := by
  have named := List.find?_some found
  exact of_decide_eq_true named

/-- What the radio of a violation leaves of the slots. -/
theorem State.violation_slots (s : State) (group code : Nat) (port : Option Nat) (slot : Nat) (sender : Option Nat) (msg : List Byte) :
    (s.violation group code port slot sender msg).net.slots = s.net.slots
      ∧ (s.violation group code port slot sender msg).net.ignored = s.net.ignored := by
  obtain ⟨seen, same⟩ := s.violation_net group code port slot sender msg none 0
  rw [same]
  exact ⟨rfl, rfl⟩

/-! ### Events of a slot (R332) -/

theorem State.slotEvent_spec (s : State) (n event reason : Nat) : RegsKept [.PNT_RING_PROD, .PNT_RING_STAT] s (s.slotEvent n event reason)
    ∧ (s.slotEvent n event reason).net = s.net ∧ (s.slotEvent n event reason).sent = s.sent
    ∧ (s.slotEvent n event reason).pnt.table = s.pnt.table ∧ s.reports <+: (s.slotEvent n event reason).reports := by
  unfold State.slotEvent
  refine ⟨(State.ringDeliver_regs _ _ _).regsKept (by simp), ?_, State.ringDeliver_sent _ _ _, State.ringDeliver_table _ _ _,
    (State.ringDeliver_keeps _ _ _).reports⟩
  rw [State.ringDeliver_eq]

/-- The producing connections of a slot: only MRT_CONN_STAT is written. -/
theorem State.producersLost_spec (s : State) (n : Nat) : RegsKept [.MRT_CONN_STAT] s (s.producersLost n)
    ∧ s.producersLost n = { s with regs := (s.producersLost n).regs } := by
  unfold State.producersLost
  split
  · refine State.each_induct (P := fun t => RegsKept [.MRT_CONN_STAT] s t ∧ t = { s with regs := t.regs }) ⟨RegsKept.refl _ s, rfl⟩ fun c _ t kept => ?_
    obtain ⟨regs, same⟩ := kept
    have cleared (clears : Bool) : RegsKept [.MRT_CONN_STAT] s (t.when clears fun u => u.setFld F.MRT_CONN_STAT_VALID c 0)
        ∧ (t.when clears fun u => u.setFld F.MRT_CONN_STAT_VALID c 0)
          = { s with regs := (t.when clears fun u => u.setFld F.MRT_CONN_STAT_VALID c 0).regs } := by
      cases clears with
      | false => exact ⟨regs, same⟩
      | true => exact ⟨regs.trans (u := t) (by simp [State.when]), by rw [same]; rfl⟩
    exact cleared _
  · exact ⟨RegsKept.refl _ s, rfl⟩

/-- Marking the points of a list. -/
theorem State.marked_points (s : State) (l : List Nat) (q : Nat) : (∃ table, s.each l (fun p t => t.markPoint p q) = { s with pnt := { s.pnt with table := table } })
    ∧ ∀ p, (s.each l fun p t => t.markPoint p q).point p = if p ∈ l then { s.point p with qual := q } else s.point p := by
  induction l generalizing s with
  | nil => exact ⟨⟨s.pnt.table, rfl⟩, fun p => by simp⟩
  | cons k l ih =>
    obtain ⟨⟨table, same⟩, points⟩ := ih (s.markPoint k q)
    refine ⟨⟨table, same⟩, fun p => (points p).trans ?_⟩
    by_cases own : p = k
    · have marked : (s.markPoint k q).point p = { s.point p with qual := q } := by
        rw [own]
        exact Arr.get_upd_same s.pnt.table k _
      rw [marked, if_pos (List.mem_cons.mpr (.inl own))]
      split <;> rfl
    · have other : (s.markPoint k q).point p = s.point p := Arr.get_upd_ne s.pnt.table own _
      rw [other]
      simp only [List.mem_cons, own, false_or]

theorem State.inputsLost_none (absent : s.slotDef n = none) : s.inputsLost n = s := by
  unfold State.inputsLost
  rw [absent]

theorem State.inputsLost_some (found : s.slotDef n = some d) : s.inputsLost n = s.each (s.slotInputs d) fun p t => t.markPoint p 6 := by
  unfold State.inputsLost
  rw [found]

theorem State.inputsLost_eq (s : State) (n : Nat) : ∃ table, s.inputsLost n = { s with pnt := { s.pnt with table := table } } := by
  cases found : s.slotDef n with
  | none => exact ⟨s.pnt.table, State.inputsLost_none found⟩
  | some d =>
    rw [State.inputsLost_some found]
    exact (s.marked_points _ 6).1

/-- The registers that the end of a slot's session may write. -/
def partnerRegs : List Reg := [.NET_SLOT_STAT, .MRT_CONN_STAT, .PNT_RING_PROD, .PNT_RING_STAT]

/-- A slot's session has ended: its connections, its state, its inputs. -/
def State.sessionEnded (s : State) (n state : Nat) : State := ((s.producersLost n).setFld F.NET_SLOT_STAT_STATE n state).inputsLost n

theorem State.sessionEnded_spec (s : State) (n : Nat) {state : Nat} (small : state < 8) : RegsKept partnerRegs s (s.sessionEnded n state)
    ∧ (s.sessionEnded n state).partnerState n = state ∧ (s.sessionEnded n state).fld F.NET_SLOT_STAT_BAD n = s.fld F.NET_SLOT_STAT_BAD n
    ∧ (s.sessionEnded n state).net = s.net ∧ (s.sessionEnded n state).reports = s.reports
    ∧ ∀ d, s.slotDef n = some d →
      ∀ p, (s.sessionEnded n state).point p = if p ∈ s.slotInputs d then { s.point p with qual := 6 } else s.point p := by
  obtain ⟨regs, same⟩ := s.producersLost_spec n
  have points (d : SlotDef) (found : s.slotDef n = some d) (p : Nat) : (s.sessionEnded n state).point p =
      if p ∈ s.slotInputs d then { s.point p with qual := 6 } else s.point p := by
    have found' : ((s.producersLost n).setFld F.NET_SLOT_STAT_STATE n state).slotDef n = some d := by
      rw [same]
      exact found
    have inputs : ((s.producersLost n).setFld F.NET_SLOT_STAT_STATE n state).slotInputs d = s.slotInputs d := by
      rw [same]
      rfl
    have before : ((s.producersLost n).setFld F.NET_SLOT_STAT_STATE n state).point p = s.point p := by
      rw [same]
      rfl
    rw [State.sessionEnded, State.inputsLost_some found', (State.marked_points _ _ 6).2, inputs, before]
  have bad : (s.producersLost n).fld F.NET_SLOT_STAT_BAD n = s.fld F.NET_SLOT_STAT_BAD n := regs.fld (by decide) n
  have rest : (s.producersLost n).net = s.net ∧ (s.producersLost n).reports = s.reports := by
    rw [same]
    exact ⟨rfl, rfl⟩
  unfold State.sessionEnded at points ⊢
  generalize s.producersLost n = v at regs bad rest points
  obtain ⟨net, reports⟩ := rest
  obtain ⟨table, lost⟩ := (v.setFld F.NET_SLOT_STAT_STATE n state).inputsLost_eq n
  rw [lost] at points ⊢
  have set : RegsKept partnerRegs v (v.setFld F.NET_SLOT_STAT_STATE n state) := by simp [partnerRegs]
  have shows : (v.setFld F.NET_SLOT_STAT_STATE n state).partnerState n = state := by
    simpa [State.partnerState, Fld.width] using Nat.mod_eq_of_lt small
  have stays : (v.setFld F.NET_SLOT_STAT_STATE n state).fld F.NET_SLOT_STAT_BAD n = s.fld F.NET_SLOT_STAT_BAD n := by
    rw [← bad]
    simp
  exact ⟨(regs.mono (by simp [partnerRegs])).trans (set.trans (regsKept_of_regs rfl)), shows, stays, net, reports, points⟩

theorem State.partnerLost_eq (s : State) (n : Nat) : s.partnerLost n = ((s.sessionEnded n 3).slotEvent n 2 0).report 0x0703 n := rfl

/-- A partner lost (R334). -/
theorem State.partnerLost_spec (s : State) (n : Nat) : RegsKept partnerRegs s (s.partnerLost n) ∧ (s.partnerLost n).partnerState n = 3
    ∧ (s.partnerLost n).fld F.NET_SLOT_STAT_BAD n = s.fld F.NET_SLOT_STAT_BAD n ∧ (s.partnerLost n).net = s.net
    ∧ (⟨0x0703, n⟩ : Report) ∈ (s.partnerLost n).reports.drop s.reports.length
    ∧ ∀ d, s.slotDef n = some d →
      ∀ p, (s.partnerLost n).point p = if p ∈ s.slotInputs d then { s.point p with qual := 6 } else s.point p := by
  obtain ⟨regs, state, bad, net, reports, points⟩ := s.sessionEnded_spec n (state := 3) (by decide)
  rw [s.partnerLost_eq n]
  generalize s.sessionEnded n 3 = v at regs state bad net reports points
  obtain ⟨ring, same, -, table, grown⟩ := v.slotEvent_spec n 2 0
  generalize v.slotEvent n 2 0 = w at ring same table grown
  refine ⟨?_, (ring.fld (by decide) n).trans state, (ring.fld (by decide) n).trans bad, same.trans net, ?_, fun d found p => ?_⟩
  · exact regs.trans ((ring.mono (by simp [partnerRegs])).trans (regsKept_of_regs rfl))
  · exact mem_reports_drop (reports ▸ grown) rfl
  · rw [← points d found p]
    exact congrArg (Arr.get · p) table

/-! ### Sealed messages (R341) -/

/-- A message that fails is counted, and is a violation. -/
def State.sealCounted (s : State) (port n sender code group : Nat) (b : List Byte) : State :=
  (s.bumpSat F.NET_SLOT_STAT_BAD n).violation group code (some port) n (some sender) b

theorem State.sealCounted_spec (s : State) (port n sender code group : Nat) (b : List Byte) :
    (s.sealCounted port n sender code group b).fld F.NET_SLOT_STAT_BAD n = min (s.fld F.NET_SLOT_STAT_BAD n + 1) 255
    ∧ (s.sealCounted port n sender code group b).fld F.NET_VIOL_CNT_COUNT = min (s.fld F.NET_VIOL_CNT_COUNT + 1) (2 ^ 32 - 1)
    ∧ (s.sealCounted port n sender code group b).net.slots = s.net.slots
    ∧ (s.sealCounted port n sender code group b).pnt.table = s.pnt.table := by
  have counted : (s.bumpSat F.NET_SLOT_STAT_BAD n).fld F.NET_SLOT_STAT_BAD n = min (s.fld F.NET_SLOT_STAT_BAD n + 1) 255
      ∧ (s.bumpSat F.NET_SLOT_STAT_BAD n).fld F.NET_VIOL_CNT_COUNT = s.fld F.NET_VIOL_CNT_COUNT := by simp [Fld.width]
  obtain ⟨bad, viol⟩ := counted
  unfold State.sealCounted
  refine ⟨?_, ?_, (State.violation_slots _ _ _ _ _ _ _).1, ?_⟩
  · rw [(State.violation_kept _ _ _ _ _ _ _ _ _).fld (by simp), bad]
  · rw [State.violation_count, viol]
  · obtain ⟨_, _, _, _, _, pnt, _, _, table, same⟩ :=
      (s.bumpSat F.NET_SLOT_STAT_BAD n).violation_eq group code (some port) n (some sender) b none 0
    rw [same]
    exact table

/-- The heats of the failures that count, with this one. -/
def State.failures (s : State) (n : Nat) : List Nat := s.heat :: (s.partner n).badAt.filter fun h => decide (s.heat < h + 100)

theorem State.sealFail_eq (s : State) (port n sender : Nat) (b : List Byte) : s.sealFail port n sender b =
    if 3 ≤ ((s.sealCounted port n sender 1 2 b).failures n).length ∧ (s.sealCounted port n sender 1 2 b).partnerState n = 2 then
      ((s.sealCounted port n sender 1 2 b).onPartner n fun x => { x with badAt := [] }).partnerLost n
    else (s.sealCounted port n sender 1 2 b).onPartner n fun x => { x with badAt := (s.sealCounted port n sender 1 2 b).failures n } := rfl

theorem State.sealFail_spec (s : State) (port n sender : Nat) (b : List Byte) :
    (s.sealFail port n sender b).fld F.NET_SLOT_STAT_BAD n = min (s.fld F.NET_SLOT_STAT_BAD n + 1) 255
    ∧ (s.sealFail port n sender b).fld F.NET_VIOL_CNT_COUNT = min (s.fld F.NET_VIOL_CNT_COUNT + 1) (2 ^ 32 - 1)
    ∧ ((s.sealFail port n sender b).partner n).inCtr = (s.partner n).inCtr := by
  obtain ⟨bad, viol, slots, -⟩ := s.sealCounted_spec port n sender 1 2 b
  rw [s.sealFail_eq port n sender b]
  generalize s.sealCounted port n sender 1 2 b = v at bad viol slots
  have inCtr : (v.partner n).inCtr = (s.partner n).inCtr := by rw [State.partner_of_slots slots]
  split
  · have kept : ((v.onPartner n fun x => { x with badAt := [] }).partner n).inCtr = (v.partner n).inCtr := by rw [State.partner_onPartner]
    have same : (v.onPartner n fun x => { x with badAt := [] }).regs = v.regs := rfl
    generalize (v.onPartner n fun x => { x with badAt := [] }) = w at kept same
    have stays : RegsKept [] v w := regsKept_of_regs same
    obtain ⟨regs, -, ended, net, -⟩ := w.partnerLost_spec n
    refine ⟨?_, ?_, ?_⟩
    · rw [ended, stays.fld (by simp), bad]
    · rw [regs.fld (by decide), stays.fld (by simp), viol]
    · rw [State.partner_of_slots (congrArg Net.slots net), kept, inCtr]
  · refine ⟨bad, viol, ?_⟩
    rw [State.partner_onPartner]
    exact inCtr

end Sys2Proof.Machine
end

section
/-! SUPPORT. PX frames, host point writes and ring indices. -/

namespace Sys2Proof.Machine

variable {s t u : State} {n : Nat} {d : SlotDef} {m : RollMsg} {b : List Byte}

/-! ### PX (R333) -/

/-- A slot whose PX frame was opened: its COUNTER is taken. -/
def State.pxOpened (s : State) (n counter : Nat) : State := (s.count 11 36).onPartner n fun x => { x with inCtr := counter + 1 }

/-- A slot after a PX frame was taken. -/
def State.pxTaken (s : State) (n : Nat) : State :=
  (s.onPartner n fun x => { x with frames := x.frames + 1, last := s.now }).setFld F.NET_SLOT_STAT_AGE n 0

theorem State.pxOpened_spec (s : State) (n counter : Nat) : (s.pxOpened n counter).partner n = { s.partner n with inCtr := counter + 1 }
    ∧ (s.pxOpened n counter).regs = s.regs ∧ (s.pxOpened n counter).reports = s.reports ∧ (s.pxOpened n counter).mem = s.mem
    ∧ (s.pxOpened n counter).pnt = s.pnt ∧ (s.pxOpened n counter).sys = s.sys ∧ (s.pxOpened n counter).jny = s.jny := by
  refine ⟨?_, rfl, rfl, rfl, rfl, rfl, rfl⟩
  rw [State.pxOpened, State.partner_onPartner]
  rfl

theorem State.pxTaken_spec (s : State) (n : Nat) : (s.pxTaken n).partner n = { s.partner n with frames := (s.partner n).frames + 1, last := s.now }
    ∧ (s.pxTaken n).fld F.NET_SLOT_STAT_AGE n = 0 ∧ CellsKept [(.NET_SLOT_STAT, n)] s (s.pxTaken n) ∧ (s.pxTaken n).reports = s.reports
    ∧ (s.pxTaken n).mem = s.mem ∧ (s.pxTaken n).pnt = s.pnt ∧ (s.pxTaken n).sys = s.sys ∧ (s.pxTaken n).jny = s.jny := by
  unfold State.pxTaken
  have heard : (s.onPartner n fun x => { x with frames := x.frames + 1, last := s.now }).partner n
      = { s.partner n with frames := (s.partner n).frames + 1, last := s.now } := State.partner_onPartner s n _
  have same : ∃ net, (s.onPartner n fun x => { x with frames := x.frames + 1, last := s.now }) = { s with net := net } := ⟨_, rfl⟩
  generalize (s.onPartner n fun x => { x with frames := x.frames + 1, last := s.now }) = v at heard same
  have kept : CellsKept [(.NET_SLOT_STAT, n)] v (v.setFld F.NET_SLOT_STAT_AGE n 0) := by simp
  obtain ⟨net, rfl⟩ := same
  exact ⟨heard, by simp [Fld.width], CellsKept.trans (cellsKept_of_regs rfl) kept, rfl, rfl, rfl, rfl, rfl⟩

/-- A PX frame of a bound slot: its tag fails, or it is opened. -/
theorem State.pxReceive_bound (port ofs : Nat) (station : s.station = true) (read : readRoll b = some m) (typ : m.typ = 6)
    (tail : m.tail.length = 16) (sender : s.slotOfSender m.sender = some n) (found : s.slotDef n = some d) (bound : s.partnerState n = 2) :
    (s.unseal n m = none → s.pxReceive port ofs b = (s.count 11 36).sealFail port n m.sender b)
    ∧ ∀ body, s.unseal n m = some body → s.pxReceive port ofs b =
      if 4 ≤ ((s.pxOpened n m.counter).partner n).frames then (s.pxOpened n m.counter).sealCounted port n m.sender 2 2 b
      else if body.length ≠ 16 + 12 * u16 body 2 ∨ u16 body 2 = 0 ∨ 116 < u16 body 2 ∨ u8 body 0 ≠ n then
        (s.pxOpened n m.counter).sealCounted port n m.sender 1 1 b
      else ((s.pxOpened n m.counter).pxTaken n).each (List.range (u16 body 2)) fun k u =>
        u.pxEntry d port ofs m.sender b (slice body (16 + 12 * k) 12) := by
  have counted : (s.count 11 36).slotOfSender m.sender = some n ∧ (s.count 11 36).slotDef n = some d ∧ (s.count 11 36).partnerState n = 2
      ∧ (s.count 11 36).unseal n m = s.unseal n m := ⟨sender, found, bound, rfl⟩
  unfold State.pxOpened
  unfold State.pxReceive
  rw [if_neg (by simp [station]), read]
  dsimp only
  generalize s.count 11 36 = u at counted
  obtain ⟨sender', found', bound', same⟩ := counted
  rw [if_neg (by simp [typ, tail]), sender']
  dsimp only
  rw [found']
  dsimp only
  rw [if_neg (by simp [bound']), same]
  refine ⟨fun shut => ?_, fun body opened => ?_⟩
  · rw [shut]
  · rw [opened]
    rfl

/-- An entry of a PX frame that fits its point. -/
def pxWrite (s : State) (d : SlotDef) (ofs : Nat) (e : List Byte) : PointWrite :=
  { id := d.base + u16 e 0, cls := 5, ident := d.slot, value := BitVec.ofNat 64 (uN e 4 8), qual := u8 e 3, time := s.now, ofs := ofs }

/-- An input of a slot has a schema whose writer is the slot. -/
theorem State.isInput_schema {p : Nat} (input : s.isInput d p = true) : ∃ c, s.schema p = some c ∧ writerOk c 5 d.slot = true := by
  unfold State.isInput at input
  cases found : s.schema p with
  | none =>
    rw [found] at input
    exact Bool.noConfusion input
  | some c =>
    rw [found] at input
    obtain ⟨writer, ident⟩ := of_decide_eq_true input
    exact ⟨c, rfl, by simp [writerOk, writer, ident]⟩

theorem State.writePoint_ok {w : PointWrite} {c : Schema} (found : s.schema w.id = some c) (ok : writerOk c w.cls w.ident = true) :
    s.writePoint w = s.storePoint w := by
  unfold State.writePoint
  rw [found]
  exact if_pos ok

theorem State.writePoint_refused {w : PointWrite} {c : Schema} (found : s.schema w.id = some c) (other : writerOk c w.cls w.ident = false) :
    s.writePoint w = s.writerErr w.id := by
  unfold State.writePoint
  rw [found]
  exact if_neg (by simp [other])

theorem State.pxEntry_fits {e : List Byte} (port ofs sender : Nat) (obj : u16 e 0 < d.objs) (typ : u8 e 2 = s.pointType (d.base + u16 e 0))
    (qual : u8 e 3 ≤ 4) (input : s.isInput d (d.base + u16 e 0) = true) : s.pxEntry d port ofs sender b e = s.storePoint (pxWrite s d ofs e) := by
  obtain ⟨c, found, ok⟩ := State.isInput_schema input
  have fits : (decide (d.objs ≤ u16 e 0) || decide (u8 e 2 ≠ s.pointType (d.base + u16 e 0) ∨ 4 < u8 e 3)) = false := by
    simp only [Bool.or_eq_false_iff, decide_eq_false_iff_not]
    exact ⟨by omega, fun h => h.elim (· typ) (by omega)⟩
  have stored : s.writePoint (pxWrite s d ofs e) = s.storePoint (pxWrite s d ofs e) := State.writePoint_ok found ok
  unfold State.pxEntry
  dsimp only
  rw [fits, input]
  rw [← stored]
  exact if_neg (by omega)

/-- A point after a write. -/
def PointWrite.stored (w : PointWrite) (p : Point) : Point :=
  { value := w.value, qual := w.qual, seq := (p.seq + 1) % 65536, cls := w.cls,
    ident := if w.cls = 5 ∨ w.cls = 6 then w.ident else (Config.writerIdent w.cls w.id (p.seq + 1)).toNat, time := w.time, ofs := w.ofs }

theorem State.storePoint_table (s : State) (w : PointWrite) : (s.storePoint w).pnt.table = s.pnt.table.upd w.id w.stored := rfl

/-- What a stored write leaves: its point. -/
theorem State.storePoint_spec (s : State) (w : PointWrite) : (s.storePoint w).point w.id = w.stored (s.point w.id)
    ∧ (∀ q, q ≠ w.id → (s.storePoint w).point q = s.point q) ∧ (s.storePoint w).regs = s.regs ∧ (s.storePoint w).net = s.net
    ∧ (s.storePoint w).reports = s.reports ∧ (s.storePoint w).mem = s.mem := by
  refine ⟨?_, fun q other => ?_, rfl, rfl, rfl, rfl⟩
  · rw [State.point, s.storePoint_table w, Arr.get_upd_same, State.point]
  · rw [State.point, s.storePoint_table w, Arr.get_upd_ne _ other, State.point]

/-! ### HOST_POINT_WRITE (R321) -/

/-- The write that the host asks for. -/
def hostWrite (s : State) (ofs : Nat) (lo hi : W32) : PointWrite :=
  { id := s.fld F.PNT_HOST_WR_ID_POINT, cls := 1, ident := 0, value := BitVec.ofNat 64 (lo.toNat + hi.toNat * 2 ^ 32),
    qual := s.fld F.PNT_HOST_WR_ID_QUAL, time := s.now, ofs := ofs }

/-- The host's value stands in its registers. -/
def State.hostValue (s : State) (lo hi : W32) : State := (s.setReg .PNT_HOST_WR_LO 0 lo).setReg .PNT_HOST_WR_HI 0 hi

theorem State.hostValue_spec (s : State) (lo hi : W32) : RegsKept [.PNT_HOST_WR_LO, .PNT_HOST_WR_HI] s (s.hostValue lo hi) := by
  simp [State.hostValue]

theorem State.hostPoint_eq (s : State) (ofs : Nat) (lo hi : W32) : s.hostPoint ofs lo hi =
    if s.pointType (s.fld F.PNT_HOST_WR_ID_POINT) = 0 then (s.hostValue lo hi).report 0x0802 (s.fld F.PNT_HOST_WR_ID_POINT)
    else if 5 ≤ s.fld F.PNT_HOST_WR_ID_QUAL then (s.hostValue lo hi).report 0x0804 (s.fld F.PNT_HOST_WR_ID_POINT)
    else (s.hostValue lo hi).writePoint (hostWrite s ofs lo hi) := by
  have ident (f : Fld) (own : f.reg = .PNT_HOST_WR_ID) : (s.hostValue lo hi).fld f = s.fld f := (s.hostValue_spec lo hi).fld (by rw [own]; decide) 0
  have typ (p : Nat) : (s.hostValue lo hi).pointType p = s.pointType p := rfl
  rw [hostWrite, ← ident F.PNT_HOST_WR_ID_POINT rfl, ← ident F.PNT_HOST_WR_ID_QUAL rfl, ← typ]
  rfl

theorem State.pointType_pos {p : Nat} {c : Schema} (found : s.schema p = some c) : s.pointType p ≠ 0 := by
  have typed : s.pointType p = c.typ := by
    unfold State.pointType
    rw [found]
  rw [typed]
  unfold State.schema Image.pointSchema at found
  generalize (if p < 0x1000 then systemSchema p else if p < 0x40000 then s.jny.active.schema p else none) = r at found
  cases r with
  | none => exact nomatch found
  | some x =>
    dsimp only at found
    split at found
    · exact nomatch found
    · obtain rfl := Option.some.inj found
      assumption

/-- A discarded write is counted; the table stays. -/
theorem State.writerErr_spec (s : State) (p : Nat) : (s.writerErr p).pnt.table = s.pnt.table
    ∧ (s.writerErr p).fld F.PNT_STAT_WRITER_ERR = min (s.fld F.PNT_STAT_WRITER_ERR + 1) 65535 := by
  have counted : (s.bumpSat F.PNT_STAT_WRITER_ERR 0).fld F.PNT_STAT_WRITER_ERR = min (s.fld F.PNT_STAT_WRITER_ERR + 1) 65535 := by simp [Fld.width]
  unfold State.writerErr
  dsimp only
  split
  · exact ⟨rfl, counted⟩
  · exact ⟨rfl, counted⟩

theorem hostPointWrite_served (who : Initiator) (ofs : Nat) (lo hi : W32) (reaches : ReachesReg s who .PNT_HOST_WR_LO 0) :
    exec (.hostPointWrite who ofs lo hi) s = .next { (served s who 8).hostPoint ofs lo hi with resp := .done } :=
  congrArg Host.Outcome.next (rowWrite_reaches8 s who _ _ _ reaches (by decide))

/-! ### Ring indices (R325) -/

theorem ringConsWrite_served (who : Initiator) (n i : Nat) (reaches : ReachesReg s who .PNT_RING_CONS n) :
    exec (.ringConsWrite who n i) s = .next { (served s who).ringCons_ n i with resp := .done } :=
  congrArg Host.Outcome.next (rowWrite_reaches s who _ _ _ reaches)

theorem ringProdWrite_served (who : Initiator) (n i : Nat) (reaches : ReachesReg s who .PNT_RING_PROD n) :
    exec (.ringProdWrite who n i) s = .next { (served s who).ringProd_ n i with resp := .done } :=
  congrArg Host.Outcome.next (rowWrite_reaches s who _ _ _ reaches)

/-- The figures of a ring in a served state are those before. -/
theorem served_ring (s : State) (who : Initiator) (n : Nat) : (served s who).fld F.PNT_RING_CFG_DEFINED n = s.fld F.PNT_RING_CFG_DEFINED n
    ∧ (served s who).fld F.PNT_RING_CFG_DIR n = s.fld F.PNT_RING_CFG_DIR n ∧ (served s who).ringEntries n = s.ringEntries n
    ∧ (served s who).ringCount n = s.ringCount n ∧ (served s who).ringCons n = s.ringCons n ∧ (served s who).ringProd n = s.ringProd n :=
  ⟨served_congr (State.fld · F.PNT_RING_CFG_DEFINED n) s who 4 fun _ => rfl, served_congr (State.fld · F.PNT_RING_CFG_DIR n) s who 4 fun _ => rfl,
    served_congr (State.ringEntries · n) s who 4 fun _ => rfl, served_congr (State.ringCount · n) s who 4 fun _ => rfl,
    served_congr (State.ringCons · n) s who 4 fun _ => rfl, served_congr (State.ringProd · n) s who 4 fun _ => rfl⟩

section Cons

variable {i : Nat} (other : n ≠ 62)

include other

theorem State.ringCons_idle (off : s.fld F.PNT_RING_CFG_DEFINED n = 0 ∨ s.fld F.PNT_RING_CFG_DIR n = 1) : s.ringCons_ n i = s :=
  (if_neg other).trans (if_pos off)

variable (defined : s.fld F.PNT_RING_CFG_DEFINED n = 1) (delivers : s.fld F.PNT_RING_CFG_DIR n = 0)

include defined delivers

theorem State.ringCons_beyond (beyond : 2 * s.ringEntries n ≤ i ∨ s.ringCount n < ringDist (s.ringCons n) i (s.ringEntries n)) :
    s.ringCons_ n i = s.report 0x0803 n :=
  (if_neg other).trans ((if_neg (by rw [defined, delivers]; decide)).trans (if_pos beyond))

theorem State.ringCons_taken (within_ : i < 2 * s.ringEntries n) (waits : ringDist (s.ringCons n) i (s.ringEntries n) ≤ s.ringCount n) :
    s.ringCons_ n i = ((s.setFld F.PNT_RING_CONS_INDEX n i).ringIrq n).hallmarkAck n (ringDist (s.ringCons n) i (s.ringEntries n)) :=
  (if_neg other).trans ((if_neg (by rw [defined, delivers]; decide)).trans (if_neg (by omega)))

end Cons

/-- The consumer index of a delivery ring, taken. -/
def State.consTaken (s : State) (n i : Nat) : State := (s.setFld F.PNT_RING_CONS_INDEX n i).ringIrq n

theorem State.consTaken_spec (s : State) (n i : Nat) : (s.consTaken n i).ringCons n = i % 2 ^ 17
    ∧ RegsKept [.PNT_RING_CONS, .PNT_RING_STAT] s (s.consTaken n i) ∧ (s.consTaken n i).asy = s.asy ∧ (s.consTaken n i).mem = s.mem := by
  refine ⟨?_, ?_, rfl, rfl⟩
  · simp [State.consTaken, State.ringIrq, State.ringCons, Fld.width]
  · simp [State.consTaken, State.ringIrq]

theorem State.hallmarkAck_other (other : s.asy.ring ≠ some n) (k : Nat) : s.hallmarkAck n k = s := if_neg other

/-- Acknowledging records of the Hallmark ring leaves the index just taken. -/
theorem State.hallmarkAck_cons (s : State) (n k : Nat) : (s.hallmarkAck n k).ringCons n = s.ringCons n := by
  have acked (a : Asy) : RegsKept [.ASY_HMK_STAT, .PNT_RING_PROD, .PNT_RING_STAT] s (State.fillLog { s with asy := a }).deliverLog := by
    refine RegsKept.trans (regsKept_of_regs (t := { s with asy := a }) rfl) ?_
    refine RegsKept.trans ((State.fillLog_only _).regs.regsKept (by simp)) ?_
    exact (State.deliverFrom_regs _ _).mono (by simp)
  unfold State.hallmarkAck
  split
  · exact (acked _).fld (by decide) n
  · rfl

/-- The peer's half of ring 62 acknowledged. -/
def State.peerAcked (s : State) (i : Nat) : State :=
  ({ s with pnt := { s.pnt with peerCons := i } }).setFlag F.PNT_RING_STAT_IRQ 62 (decide (i ≠ s.fld F.PNT_RING_STAT_PEER_IDX 62))

theorem State.ringCons_peer_beyond {i : Nat} (beyond : 4096 ≤ i
    ∨ ringDist s.pnt.peerCons (s.fld F.PNT_RING_STAT_PEER_IDX 62) 2048 < ringDist s.pnt.peerCons i 2048) : s.ringCons_ 62 i = s.report 0x0803 62 :=
  (if_pos rfl).trans (if_pos beyond)

theorem State.ringCons_peer_taken {i : Nat} (within_ : i < 4096)
    (waits : ringDist s.pnt.peerCons i 2048 ≤ ringDist s.pnt.peerCons (s.fld F.PNT_RING_STAT_PEER_IDX 62) 2048) : s.ringCons_ 62 i = s.peerAcked i :=
  (if_pos rfl).trans (if_neg (by omega))

theorem State.peerAcked_spec (s : State) (i : Nat) : (s.peerAcked i).pnt = { s.pnt with peerCons := i }
    ∧ (s.peerAcked i).flag F.PNT_RING_STAT_IRQ 62 = decide (i ≠ s.fld F.PNT_RING_STAT_PEER_IDX 62)
    ∧ CellsKept [(.PNT_RING_STAT, 62)] s (s.peerAcked i) :=
  ⟨rfl, State.flag_setFlag_self _ (by decide), CellsKept.trans (cellsKept_of_regs rfl) ((cellsKept_setFlag (by simp)).mpr (CellsKept.refl _ _))⟩

section Prod

variable {i : Nat}

theorem State.ringProd_idle (off : s.fld F.PNT_RING_CFG_DEFINED n = 0 ∨ s.fld F.PNT_RING_CFG_DIR n = 0) : s.ringProd_ n i = s := if_pos off

variable (defined : s.fld F.PNT_RING_CFG_DEFINED n = 1) (submits : s.fld F.PNT_RING_CFG_DIR n = 1)

include defined submits

theorem State.ringProd_beyond
    (beyond : 2 * s.ringEntries n ≤ i ∨ s.ringEntries n < s.ringCount n + ringDist (s.ringProd n) i (s.ringEntries n)) :
    s.ringProd_ n i = s.report 0x0803 n := (if_neg (by rw [defined, submits]; decide)).trans (if_pos beyond)

theorem State.ringProd_taken (within_ : i < 2 * s.ringEntries n)
    (room : s.ringCount n + ringDist (s.ringProd n) i (s.ringEntries n) ≤ s.ringEntries n) :
    s.ringProd_ n i = s.setFld F.PNT_RING_PROD_INDEX n i := (if_neg (by rw [defined, submits]; decide)).trans (if_neg (by omega))

end Prod

end Sys2Proof.Machine
end

section
/-! SUPPORT. The proof of O50. -/

namespace Sys2Proof.Machine

variable {s t u : State} {n : Nat} {d : SlotDef} {m : RollMsg} {b : List Byte}

theorem px_ran (port ofs : Nat) (call : RollCall s b 6 m) : exec (.px port ofs b) s = .next (s.pxReceive port ofs b) := by
  obtain ⟨runs, -⟩ := call
  exact congrArg Host.Outcome.next (State.live_runs runs)

/-- A frame whose tag fails (R341). -/
theorem State.px_shut (port sender : Nat) : ((s.count 11 36).sealFail port n sender b).fld F.NET_SLOT_STAT_BAD n = min (s.fld F.NET_SLOT_STAT_BAD n + 1) 255
    ∧ ((s.count 11 36).sealFail port n sender b).fld F.NET_VIOL_CNT_COUNT = min (s.fld F.NET_VIOL_CNT_COUNT + 1) (2 ^ 32 - 1)
    ∧ (((s.count 11 36).sealFail port n sender b).partner n).inCtr = (s.partner n).inCtr := by
  have counted : (s.count 11 36).regs = s.regs ∧ (s.count 11 36).net = s.net := ⟨rfl, rfl⟩
  generalize s.count 11 36 = v at counted
  obtain ⟨regs, net⟩ := counted
  have kept : RegsKept [] s v := regsKept_of_regs regs
  rw [← kept.fld (f := F.NET_SLOT_STAT_BAD) (by simp) n, ← kept.fld (f := F.NET_VIOL_CNT_COUNT) (by simp) 0,
    ← State.partner_of_slots (congrArg Net.slots net) n]
  exact v.sealFail_spec port n sender b

/-- A fifth frame of a heat (R333). -/
theorem State.px_fifth (s : State) (n counter port sender : Nat) (b : List Byte) :
    ((s.pxOpened n counter).sealCounted port n sender 2 2 b).pnt.table = s.pnt.table
    ∧ ((s.pxOpened n counter).sealCounted port n sender 2 2 b).fld F.NET_SLOT_STAT_BAD n = min (s.fld F.NET_SLOT_STAT_BAD n + 1) 255
    ∧ (((s.pxOpened n counter).sealCounted port n sender 2 2 b).partner n).inCtr = counter + 1 := by
  obtain ⟨partner, regs, -, -, pnt, -, -⟩ := s.pxOpened_spec n counter
  generalize s.pxOpened n counter = v at partner regs pnt
  obtain ⟨bad, -, slots, table⟩ := v.sealCounted_spec port n sender 2 2 b
  have kept : RegsKept [] s v := regsKept_of_regs regs
  refine ⟨table.trans (by rw [pnt]), bad.trans (by rw [kept.fld (by simp)]), ?_⟩
  rw [State.partner_of_slots slots, partner]

theorem State.pxTaken_now (s : State) (n counter : Nat) : ((s.pxOpened n counter).pxTaken n).now = s.now := by
  obtain ⟨-, -, -, -, -, sys, -⟩ := s.pxOpened_spec n counter
  obtain ⟨-, -, -, -, -, -, sys', -⟩ := (s.pxOpened n counter).pxTaken_spec n
  rw [State.now, sys', sys, State.now]

/-- One entry that fits its point is stored (R333). -/
theorem State.px_entry (s : State) (n counter : Nat) {w : PointWrite} (five : w.cls = 5) : 
    ∃ t, ((s.pxOpened n counter).pxTaken n).storePoint w = t
    ∧ t.point w.id = ⟨w.value, w.qual, ((s.point w.id).seq + 1) % 65536, 5, w.ident, w.time, w.ofs⟩
    ∧ (∀ q, q ≠ w.id → t.point q = s.point q) ∧ (t.partner n).inCtr = counter + 1 ∧ (t.partner n).frames = (s.partner n).frames + 1
    ∧ t.fld F.NET_SLOT_STAT_AGE n = 0 ∧ t.reports = s.reports ∧ CellsKept [(.NET_SLOT_STAT, n)] s t ∧ MemKept s t := by
  obtain ⟨partner, regs, reports, mem, pnt, -⟩ := s.pxOpened_spec n counter
  obtain ⟨partner', age, cells, reports', mem', pnt', -⟩ := (s.pxOpened n counter).pxTaken_spec n
  have frames : (((s.pxOpened n counter).pxTaken n).partner n).frames = (s.partner n).frames + 1
      ∧ (((s.pxOpened n counter).pxTaken n).partner n).inCtr = counter + 1 := by
    rw [partner', partner]
    exact ⟨rfl, rfl⟩
  have point (p : Nat) : ((s.pxOpened n counter).pxTaken n).point p = s.point p := by rw [State.point, pnt', pnt, State.point]
  have told := reports'.trans reports
  have bytes := mem'.trans mem
  have kept := CellsKept.trans (cellsKept_of_regs regs) cells
  generalize (s.pxOpened n counter).pxTaken n = v at frames age point told bytes kept
  obtain ⟨own, others, stays, net, told', bytes'⟩ := v.storePoint_spec w
  have slot : (v.storePoint w).partner n = v.partner n := State.partner_of_slots (congrArg Net.slots net) n
  have same : RegsKept [] v (v.storePoint w) := regsKept_of_regs stays
  refine ⟨_, rfl, ?_, fun q other => (others q other).trans (point q), ?_, ?_, ?_, told'.trans told, kept.trans (cellsKept_of_regs stays),
    memKept_of_mem (bytes'.trans bytes)⟩
  · rw [own, point, PointWrite.stored, if_pos (.inl five), five]
  · rw [slot, frames.2]
  · rw [slot, frames.1]
  · rw [same.fld (by simp), age]

theorem State.pxReceive_entry (s : State) (n counter port ofs sender : Nat) {body : List Byte} (length : body.length = 28) (one : u16 body 2 = 1)
    (slot : u8 body 0 = n) (few : (s.partner n).frames < 4) (obj : u16 (slice body 16 12) 0 < d.objs)
    (typ : u8 (slice body 16 12) 2 = s.pointType (d.base + u16 (slice body 16 12) 0)) (qual : u8 (slice body 16 12) 3 ≤ 4)
    (input : s.isInput d (d.base + u16 (slice body 16 12) 0) = true) :
    (if 4 ≤ ((s.pxOpened n counter).partner n).frames then (s.pxOpened n counter).sealCounted port n sender 2 2 b
      else if body.length ≠ 16 + 12 * u16 body 2 ∨ u16 body 2 = 0 ∨ 116 < u16 body 2 ∨ u8 body 0 ≠ n then
        (s.pxOpened n counter).sealCounted port n sender 1 1 b
      else ((s.pxOpened n counter).pxTaken n).each (List.range (u16 body 2)) fun k u =>
        u.pxEntry d port ofs sender b (slice body (16 + 12 * k) 12))
      = ((s.pxOpened n counter).pxTaken n).storePoint (pxWrite s d ofs (slice body 16 12)) := by
  obtain ⟨partner, -, -, -, -, -, image⟩ := s.pxOpened_spec n counter
  obtain ⟨-, -, -, -, -, -, -, image'⟩ := (s.pxOpened n counter).pxTaken_spec n
  have jny : ((s.pxOpened n counter).pxTaken n).jny = s.jny := image'.trans image
  have frames : ((s.pxOpened n counter).partner n).frames = (s.partner n).frames := by rw [partner]
  have now := s.pxTaken_now n counter
  rw [frames, if_neg (by omega), if_neg (by rw [length, one, slot]; omega), one, pxWrite, ← now]
  generalize (s.pxOpened n counter).pxTaken n = v at jny
  have schema (p : Nat) : v.schema p = s.schema p := by rw [State.schema, jny, State.schema]
  have typed (p : Nat) : v.pointType p = s.pointType p := by rw [State.pointType, schema, State.pointType]
  have input' : v.isInput d (d.base + u16 (slice body 16 12) 0) = true := by
    rw [State.isInput, schema]
    exact input
  exact State.pxEntry_fits port ofs sender obj (typ.trans (typed _).symm) qual input'

theorem State.hostPoint_spec (s : State) (ofs : Nat) (lo hi : W32) {c : Schema} {p : Nat} (named : s.fld F.PNT_HOST_WR_ID_POINT = p)
    (found : s.schema p = some c) (qual : s.fld F.PNT_HOST_WR_ID_QUAL ≤ 4) :
    (c.writer = 1 → (s.hostPoint ofs lo hi).point p = ⟨BitVec.ofNat 64 (lo.toNat + hi.toNat * 2 ^ 32), s.fld F.PNT_HOST_WR_ID_QUAL,
        ((s.point p).seq + 1) % 65536, 1, (Config.writerIdent 1 p ((s.point p).seq + 1)).toNat, s.now, ofs⟩
      ∧ (∀ q, q ≠ p → (s.hostPoint ofs lo hi).point q = s.point q) ∧ RegsKept [.PNT_HOST_WR_LO, .PNT_HOST_WR_HI] s (s.hostPoint ofs lo hi))
    ∧ (c.writer ≠ 1 → (s.hostPoint ofs lo hi).pnt.table = s.pnt.table
      ∧ (s.hostPoint ofs lo hi).fld F.PNT_STAT_WRITER_ERR = min (s.fld F.PNT_STAT_WRITER_ERR + 1) 65535) := by
  subst named
  rw [s.hostPoint_eq ofs lo hi, if_neg (State.pointType_pos found), if_neg (by omega)]
  have kept := s.hostValue_spec lo hi
  have table : (s.hostValue lo hi).pnt = s.pnt := rfl
  have found' : (s.hostValue lo hi).schema (hostWrite s ofs lo hi).id = some c := found
  generalize s.hostValue lo hi = v at kept table found'
  refine ⟨fun host => ?_, fun other => ?_⟩
  · rw [State.writePoint_ok found' (by simp [writerOk, host, hostWrite])]
    obtain ⟨own, others, regs, -⟩ := v.storePoint_spec (hostWrite s ofs lo hi)
    have point (q : Nat) : v.point q = s.point q := by rw [State.point, table, State.point]
    refine ⟨own.trans ?_, fun q other => (others q other).trans (point q), kept.trans (regsKept_of_regs regs)⟩
    rw [point]
    rfl
  · rw [State.writePoint_refused found' (by simp [writerOk, hostWrite, other])]
    obtain ⟨same, errors⟩ := v.writerErr_spec (hostWrite s ofs lo hi).id
    exact ⟨same.trans (by rw [table]), errors.trans (by rw [kept.fld (by decide)])⟩

theorem served_hostPoint (who : Initiator) : (served s who 8).fld F.PNT_HOST_WR_ID_POINT = s.fld F.PNT_HOST_WR_ID_POINT
    ∧ (served s who 8).fld F.PNT_HOST_WR_ID_QUAL = s.fld F.PNT_HOST_WR_ID_QUAL
    ∧ (∀ p, (served s who 8).schema p = s.schema p ∧ (served s who 8).pointType p = s.pointType p ∧ (served s who 8).point p = s.point p)
    ∧ (served s who 8).now = s.now ∧ (served s who 8).pnt = s.pnt
    ∧ (served s who 8).fld F.PNT_STAT_WRITER_ERR = s.fld F.PNT_STAT_WRITER_ERR :=
  ⟨served_congr (State.fld · F.PNT_HOST_WR_ID_POINT) s who 8 fun _ => rfl, served_congr (State.fld · F.PNT_HOST_WR_ID_QUAL) s who 8 fun _ => rfl,
    fun p => ⟨served_congr (State.schema · p) s who 8 fun _ => rfl, served_congr (State.pointType · p) s who 8 fun _ => rfl,
      served_congr (State.point · p) s who 8 fun _ => rfl⟩,
    served_congr State.now s who 8 fun _ => rfl, served_congr State.pnt s who 8 fun _ => rfl,
    served_congr (State.fld · F.PNT_STAT_WRITER_ERR) s who 8 fun _ => rfl⟩

/-- Settles O50: a PX frame fails its tag, is the fifth of its heat, or stores its entry; a host write and a ring index follow their guards. -/
theorem pointsAndRingIndices : Obligations.PointsAndRingIndices := by
  unfold Obligations.PointsAndRingIndices
  refine ⟨?px, ?host, ?cons, ?peer, ?prod⟩
  case px =>
    intro s port ofs n b m d call tail slot bound
    obtain ⟨-, station, read, typ⟩ := id call
    obtain ⟨sender, found⟩ := slot
    obtain ⟨shut, opened⟩ := State.pxReceive_bound port ofs station read typ tail sender found bound
    rw [px_ran port ofs call]
    refine ⟨fun closed => ⟨_, congrArg Host.Outcome.next (shut closed), State.px_shut port m.sender⟩, fun body open_ many => ?_, ?_⟩
    · refine ⟨_, congrArg Host.Outcome.next ((opened body open_).trans (if_pos ?_)), s.px_fifth n m.counter port m.sender b⟩
      rw [(s.pxOpened_spec n m.counter).1]
      exact many
    · intro body open_ few length one own e p obj typed qual input
      obtain ⟨t, stored, spec⟩ := s.px_entry n m.counter (w := pxWrite s d ofs e) rfl
      refine ⟨t, congrArg Host.Outcome.next ((opened body open_).trans (Eq.trans ?_ stored)), spec⟩
      exact s.pxReceive_entry n m.counter port ofs m.sender length one own few obj typed qual input
  case host =>
    intro s who ofs lo hi reaches p u
    obtain ⟨point, quality, same, now, pnt, errors⟩ := served_hostPoint (s := s) who
    have ran := hostPointWrite_served who ofs lo hi reaches
    refine ⟨fun none_ => ?_, fun some_ bad => ?_, fun c found fits => ⟨_, ran, rfl, ?_⟩⟩
    · rw [ran, State.hostPoint_eq, point, (same p).2.1, if_pos none_]
      rfl
    · rw [ran, State.hostPoint_eq, point, (same p).2.1, if_neg some_, quality, if_pos bad]
      rfl
    · have spec := (served s who 8).hostPoint_spec ofs lo hi (c := c) point ((same p).1.trans found) (quality.trans_le fits)
      rw [quality, (same p).2.2, now, pnt, errors] at spec
      obtain ⟨host, other⟩ := spec
      refine ⟨fun w => ?_, other⟩
      obtain ⟨own, others, regs⟩ := host w
      exact ⟨own, fun q ne => (others q ne).trans (same q).2.2, RegsKept.trans (regsKept_of_regs (served_regs s who 8)) regs⟩
  case cons =>
    intro s who n i reaches other
    obtain ⟨defined, dir, entries, count, cons, -⟩ := served_ring s who n
    have ran := ringConsWrite_served who n i reaches
    refine ⟨fun off => ?_, fun is delivers => ⟨fun beyond => ?_, fun within_ waits => ⟨_, ran, rfl, ?_⟩⟩⟩
    · rw [ran, State.ringCons_idle other (by rw [defined, dir]; exact off)]
    · rw [ran, State.ringCons_beyond other (defined.trans is) (dir.trans delivers) (by rw [entries, count, cons]; exact beyond)]
    · rw [State.ringCons_taken other (defined.trans is) (dir.trans delivers) (by rw [entries]; exact within_) (by rw [entries, count, cons]; exact waits)]
      obtain ⟨taken, regs, asy, mem⟩ := (served s who).consTaken_spec n i
      refine ⟨(State.hallmarkAck_cons _ n _).trans taken, fun free => ?_⟩
      have ring : ((served s who).consTaken n i).asy.ring ≠ some n := by
        rw [asy, served_asy]
        exact free
      rw [State.consTaken] at ring
      rw [State.hallmarkAck_other ring]
      exact ⟨RegsKept.trans (regsKept_of_regs (served_regs s who 4)) regs, memKept_of_mem (mem.trans (served_mem s who 4))⟩
  case peer =>
    intro s who i reaches acked waits
    have ran := ringConsWrite_served who 62 i reaches
    have idx : (served s who).fld F.PNT_RING_STAT_PEER_IDX 62 = s.fld F.PNT_RING_STAT_PEER_IDX 62 :=
      served_congr (State.fld · F.PNT_RING_STAT_PEER_IDX 62) s who 4 fun _ => rfl
    refine ⟨fun beyond => ?_, fun within_ fits => ⟨_, ran, ?_⟩⟩
    · rw [ran, State.ringCons_peer_beyond (by rw [idx, served_pnt]; exact beyond)]
    · rw [State.ringCons_peer_taken within_ (by rw [idx, served_pnt]; exact fits)]
      obtain ⟨pnt, irq, cells⟩ := (served s who).peerAcked_spec i
      exact ⟨pnt.trans (by rw [served_pnt]), rfl, irq.trans (by rw [idx]), CellsKept.trans (cellsKept_of_regs (served_regs s who 4)) cells⟩
  case prod =>
    intro s who n i reaches dist
    obtain ⟨defined, dir, entries, count, -, prod⟩ := served_ring s who n
    have ran := ringProdWrite_served who n i reaches
    refine ⟨fun off => ?_, fun is submits => ⟨fun beyond => ?_, fun within_ room => ?_⟩⟩
    · rw [ran, State.ringProd_idle (by rw [defined, dir]; exact off)]
    · rw [ran, State.ringProd_beyond (defined.trans is) (dir.trans submits) (by rw [entries, count, prod]; exact beyond)]
    · rw [ran, State.ringProd_taken (defined.trans is) (dir.trans submits) (by rw [entries]; exact within_) (by rw [entries, count, prod]; exact room)]

end Sys2Proof.Machine
end

section
/-! SUPPORT. Roll call: what is sent, challenged, refused and accepted. -/

namespace Sys2Proof.Machine

variable {s t u : State} {n : Nat} {d : SlotDef} {m : RollMsg} {b : List Byte}

/-! ### Messages of the station (R329, R330) -/

/-- A message with no protection changes the station's COUNTER and what was sent. -/
theorem State.sendPlain_spec (s : State) (typ addr : Nat) (body : List Byte) :
    (s.sendPlain typ addr body).net = { s.net with counter := (s.net.counter + 1) % 2 ^ 64 }
    ∧ (s.sendPlain typ addr body).sent.length = s.sent.length + 1 ∧ (s.sendPlain typ addr body).regs = s.regs
    ∧ (s.sendPlain typ addr body).reports = s.reports ∧ (s.sendPlain typ addr body).mem = s.mem ∧ (s.sendPlain typ addr body).sys = s.sys :=
  ⟨rfl, List.length_append, rfl, rfl, rfl, rfl⟩

theorem State.reject_spec (s : State) (addr reason : Nat) : (s.reject addr reason).net = { s.net with counter := (s.net.counter + 1) % 2 ^ 64 }
    ∧ (s.reject addr reason).sent.length = s.sent.length + 1 ∧ (s.reject addr reason).regs = s.regs
    ∧ (s.reject addr reason).reports = s.reports ++ [⟨0x0702, reason⟩] ∧ (s.reject addr reason).sys = s.sys := by
  obtain ⟨net, sent, regs, reports, -, sys⟩ := s.sendPlain_spec 5 addr (leBytes 1 reason ++ leBytes 7 0)
  exact ⟨net, sent, regs, congrArg (· ++ [(⟨0x0702, reason⟩ : Report)]) reports, sys⟩

/-! ### ANNOUNCE (R331) -/

section Announce

variable (port addr : Nat) (call : RollCall s b 1 m) (body : m.body.length = 8) (tail : m.tail = []) (heard : s.ignoring m.sender = false)
  (stranger : s.slotOfSender m.sender = none)

include call body tail heard stranger

theorem announce_some (choice : s.chooseSlot m.sender (u8 m.body 0) = some d) :
    exec (.announce port addr b) s = .next ((s.count 11 31).challenge d.slot m.sender addr) := by
  obtain ⟨runs, station, read, typ⟩ := call
  have counted : (s.count 11 31).ignoring m.sender = false ∧ (s.count 11 31).slotOfSender m.sender = none
      ∧ (s.count 11 31).chooseSlot m.sender (u8 m.body 0) = some d := ⟨heard, stranger, choice⟩
  refine congrArg Host.Outcome.next ((State.live_runs runs).trans ?_)
  unfold State.announce
  rw [if_neg (by simp [station]), read]
  dsimp only
  generalize s.count 11 31 = u at counted
  obtain ⟨heard', stranger', choice'⟩ := counted
  rw [if_neg (by simp [typ, body, tail]), if_neg (by simp [heard']), stranger', choice']

theorem announce_none (choice : s.chooseSlot m.sender (u8 m.body 0) = none) :
    exec (.announce port addr b) s = .next ((s.count 11 31).reject addr 1) := by
  obtain ⟨runs, station, read, typ⟩ := call
  have counted : (s.count 11 31).ignoring m.sender = false ∧ (s.count 11 31).slotOfSender m.sender = none
      ∧ (s.count 11 31).chooseSlot m.sender (u8 m.body 0) = none := ⟨heard, stranger, choice⟩
  refine congrArg Host.Outcome.next ((State.live_runs runs).trans ?_)
  unfold State.announce
  rw [if_neg (by simp [station]), read]
  dsimp only
  generalize s.count 11 31 = u at counted
  obtain ⟨heard', stranger', choice'⟩ := counted
  rw [if_neg (by simp [typ, body, tail]), if_neg (by simp [heard']), stranger', choice']

end Announce

/-- The record of a challenged slot. -/
def Slot.challenged (sender addr now : Nat) (nonce : List Byte) : Slot := { Slot.free with sender := sender, addr := addr, nonceD := nonce, asked := now }

theorem State.challenge_free (free : s.partnerState n ≠ 2) (sender addr : Nat) : s.challenge n sender addr =
    ((s.tick.setFld F.NET_SLOT_STAT_STATE n 1).onPartner n fun _ => Slot.challenged sender addr s.now s.random32).sendPlain 2 addr s.random32 := by
  unfold State.challenge
  simp only [decide_eq_false free, Bool.false_eq_true, if_false]
  rfl

theorem State.challenge_spec (free : s.partnerState n ≠ 2) (sender addr : Nat) : (s.challenge n sender addr).partnerState n = 1
    ∧ (s.challenge n sender addr).partner n = Slot.challenged sender addr s.now s.random32
    ∧ (s.challenge n sender addr).sent.length = s.sent.length + 1 ∧ (s.challenge n sender addr).reports = s.reports
    ∧ CellsKept [(.NET_SLOT_STAT, n)] s (s.challenge n sender addr) := by
  have marked : CellsKept [(.NET_SLOT_STAT, n)] s (s.tick.setFld F.NET_SLOT_STAT_STATE n 1) := by simp
  have shows : (s.tick.setFld F.NET_SLOT_STAT_STATE n 1).partnerState n = 1 := by simp [State.partnerState, Fld.width]
  have rest : (s.tick.setFld F.NET_SLOT_STAT_STATE n 1).sent = s.sent ∧ (s.tick.setFld F.NET_SLOT_STAT_STATE n 1).reports = s.reports := ⟨rfl, rfl⟩
  rw [State.challenge_free free]
  generalize s.tick.setFld F.NET_SLOT_STAT_STATE n 1 = v at marked shows rest
  generalize s.random32 = nonce
  obtain ⟨sent, reports⟩ := rest
  obtain ⟨net, sent', regs, reports', -⟩ := (v.onPartner n fun _ => Slot.challenged sender addr s.now nonce).sendPlain_spec 2 addr nonce
  have slot : (v.onPartner n fun _ => Slot.challenged sender addr s.now nonce).partner n = Slot.challenged sender addr s.now nonce :=
    State.partner_onPartner v n _
  have same : RegsKept [] v ((v.onPartner n fun _ => Slot.challenged sender addr s.now nonce).sendPlain 2 addr nonce) := regsKept_of_regs regs
  refine ⟨(same.fld (by simp) n).trans shows, ?_, sent'.trans (by rw [← sent]; rfl), reports'.trans reports, ?_⟩
  · rw [State.partner_of_slots (s := v.onPartner n fun _ => Slot.challenged sender addr s.now nonce) (by rw [net]), slot]
  · exact marked.trans (cellsKept_of_regs regs)

/-! ### A refused partner (R331) -/

theorem State.refusePartner_challenged (challenged : s.partnerState n = 1) (reason : Nat) : s.refusePartner n reason =
    (((s.reject (s.partner n).addr reason).setFld F.NET_SLOT_STAT_STATE n 0).slotEvent n 4 reason).onPartner n fun _ => Slot.free := if_pos challenged

theorem State.refusePartner_bound (bound : s.partnerState n = 2) (reason : Nat) : s.refusePartner n reason =
    (s.reject (s.partner n).addr reason).onPartner n fun x => { x with rebind := false } := by
  have other : ¬ s.partnerState n = 1 := by omega
  exact if_neg other

/-- A challenged slot is free again, and the partner was told why not. -/
theorem State.refusePartner_frees (challenged : s.partnerState n = 1) (reason : Nat) : (s.refusePartner n reason).partnerState n = 0
    ∧ (s.refusePartner n reason).partner n = Slot.free ∧ (⟨0x0702, reason⟩ : Report) ∈ (s.refusePartner n reason).reports.drop s.reports.length := by
  obtain ⟨-, -, -, reports, -⟩ := s.reject_spec (s.partner n).addr reason
  rw [State.refusePartner_challenged challenged reason]
  generalize s.reject (s.partner n).addr reason = v at reports
  have shows : (v.setFld F.NET_SLOT_STAT_STATE n 0).partnerState n = 0 := by simp [State.partnerState, Fld.width]
  have told : (v.setFld F.NET_SLOT_STAT_STATE n 0).reports = v.reports := rfl
  generalize v.setFld F.NET_SLOT_STAT_STATE n 0 = w at shows told
  obtain ⟨ring, -, -, -, grown⟩ := w.slotEvent_spec n 4 reason
  generalize w.slotEvent n 4 reason = x at ring grown
  refine ⟨(ring.fld (by decide) n).trans shows, State.partner_onPartner x n _, ?_⟩
  exact mem_reports_drop_of_prefix (mem_reports_drop List.prefix_rfl reports) (told ▸ grown)

theorem State.refusePartner_keeps_bound (bound : s.partnerState n = 2) (reason : Nat) : (s.refusePartner n reason).partnerState n = 2
    ∧ (s.refusePartner n reason).partner n = { s.partner n with rebind := false } := by
  obtain ⟨net, -, regs, -⟩ := s.reject_spec (s.partner n).addr reason
  rw [State.refusePartner_bound bound reason]
  generalize s.reject (s.partner n).addr reason = v at net regs
  have same : RegsKept [] s v := regsKept_of_regs regs
  refine ⟨(same.fld (by simp) n).trans bound, ?_⟩
  rw [State.partner_onPartner, State.partner_of_slots (s := s) (by rw [net])]

/-- A sender that is ignored from now on. -/
theorem State.ignoreSender_spec (s : State) (sender : Nat) : (s.ignoreSender sender).net.slots = s.net.slots
    ∧ (∃ g ∈ (s.ignoreSender sender).net.ignored, g.sender = sender) ∧ (s.ignoreSender sender).regs = s.regs
    ∧ (s.ignoreSender sender).reports = s.reports := by
  refine ⟨rfl, ?_, rfl, rfl⟩
  unfold State.ignoreSender
  exact ⟨_, List.mem_append_right _ (List.mem_singleton_self _), rfl⟩

/-! ### The connections of an accepted partner -/

/-- The registers that a binding of connections may write. -/
def bindRegs : List Reg := .MRT_CONN_STAT :: testRegs

/-- A change of Mortise's own state, of `bindRegs`, and of the reports. -/
def BindsOnly (s t : State) : Prop := RegsKept bindRegs s t ∧ t = { s with regs := t.regs, mrt := t.mrt, reports := t.reports }

theorem BindsOnly.refl (s : State) : BindsOnly s s := ⟨RegsKept.refl _ s, rfl⟩

theorem BindsOnly.trans (h : BindsOnly s u) (k : BindsOnly u t) : BindsOnly s t := by
  obtain ⟨regs, same⟩ := h
  obtain ⟨regs', same'⟩ := k
  exact ⟨regs.trans regs', same'.trans (by rw [same])⟩

theorem TestsOnly.binds (h : TestsOnly s t) : BindsOnly s t := by
  obtain ⟨regs, same, -⟩ := h
  exact ⟨regs.mono (by simp [bindRegs]), same⟩

theorem State.torqueLost_tests (s : State) (c : Nat) : TestsOnly s (s.torqueLost c) := by
  unfold State.torqueLost
  refine testsOnly_each fun k _ t => ?_
  have aborted (ends : Bool) : TestsOnly t (t.when ends fun u => u.testAbort k) := testsOnly_ite (testsOnly_testAbort t k) (TestsOnly.refl t)
  cases t.brakeRec k with
  | none => exact TestsOnly.refl t
  | some r => exact aborted _

theorem bindsOnly_setFlag (s : State) (c : Nat) (v : Bool) : BindsOnly s (s.setFlag F.MRT_CONN_STAT_VALID c v) := ⟨by simp [bindRegs], rfl⟩
theorem bindsOnly_onMrt (s : State) (f : Mrt → Mrt) : BindsOnly s (s.onMrt f) := ⟨regsKept_of_regs rfl, rfl⟩

theorem State.bindConns_binds (s : State) (d : SlotDef) : BindsOnly s (s.bindConns d) := by
  unfold State.bindConns
  refine State.each_induct (P := BindsOnly s) (BindsOnly.refl s) fun c _ t kept => kept.trans ?_
  dsimp only
  cases t.connRec c with
  | none => exact BindsOnly.refl t
  | some r =>
    exact (((t.torqueLost_tests c).binds.trans (bindsOnly_setFlag _ c _)).trans (bindsOnly_onMrt _ _)).trans (bindsOnly_onMrt _ _)

/-! ### RESPONSE (R331) -/

theorem exec_response (port addr : Nat) (call : RollCall s b 3 m) (long : 72 ≤ m.body.length) (slot : FromSlot s m n d)
    (challenged : s.partnerState n = 1) :
    (s.responseFault d m = 5 → exec (.response port addr b) s = .next ((s.count 11 33).refusePartner n 5))
    ∧ (s.responseFault d m ≠ 5 → s.responseFault d m ≠ 0 → exec (.response port addr b) s = .next
      ((((s.count 11 33).refusePartner n (s.responseFault d m)).ignoreSender m.sender).violation 1 2 (some port) n (some m.sender) b))
    ∧ ∀ k g, s.slotKey d.key 0 12 = some k → s.slotKey (u16 (s.body tyNET) 8) 0 0 = some g → s.responseFault d m = 0 →
      exec (.response port addr b) s = .next ((s.count 11 33).acceptPartner d k g m) := by
  obtain ⟨runs, station, read, typ⟩ := call
  obtain ⟨sender, found⟩ := slot
  have counted : (s.count 11 33).slotOfSender m.sender = some n ∧ (s.count 11 33).slotDef n = some d ∧ (s.count 11 33).partnerState n = 1
      ∧ (s.count 11 33).responseFault d m = s.responseFault d m ∧ (s.count 11 33).slotKey d.key 0 12 = s.slotKey d.key 0 12
      ∧ (s.count 11 33).slotKey (u16 ((s.count 11 33).body tyNET) 8) 0 0 = s.slotKey (u16 (s.body tyNET) 8) 0 0 :=
    ⟨sender, found, challenged, rfl, rfl, rfl⟩
  have ran (w : State) (same : s.response port addr b = w) : exec (.response port addr b) s = .next w :=
    congrArg Host.Outcome.next ((State.live_runs runs).trans same)
  unfold State.response at ran
  rw [if_neg (by simp [station]), read] at ran
  dsimp only at ran
  generalize s.count 11 33 = u at counted ran
  obtain ⟨sender', found', state', fault, key, signing⟩ := counted
  rw [if_neg (by simp [typ]; omega), sender'] at ran
  dsimp only at ran
  rw [found'] at ran
  dsimp only at ran
  rw [if_neg (by omega), if_neg (by omega), fault, key, signing] at ran
  refine ⟨fun late => ran _ (if_pos late), fun other bad => ran _ ((if_neg other).trans (if_pos bad)), fun k g site sign good => ran _ ?_⟩
  rw [if_neg (by omega), if_neg (by omega), site, sign]

/-- The record of a bound slot. -/
def Slot.bound (x : Slot) (nonceP key : List Byte) (gen now : Nat) : Slot :=
  { x with nonceP := nonceP, key := key, gen := gen, inCtr := 0, rebind := false, frames := 0, badAt := [], last := now }

/-- The key of a new session (R331). -/
def State.newKey (s : State) (n : Nat) (site : List Byte) (m : RollMsg) : List Byte :=
  Config.sessionKey site ((s.partner n).nonceD ++ slice m.body 32 32)
    ([0x72, 0x6F, 0x6C, 0x6C, 0x20, 0x63, 0x61, 0x6C, 0x6C] ++ leBytes 8 m.sender ++ (s.body tyNET).take 8)

/-- ACCEPT is sent, and the slot's record is the new session's. -/
def State.accepting (s : State) (d : SlotDef) (site : List Byte) (m : RollMsg) (bytes : List Byte) : State :=
  ((s.tick.send .rollCall (s.partner d.slot).addr bytes).counted 4).onPartner d.slot fun x =>
    x.bound (slice m.body 32 32) (s.newKey d.slot site m) (s.fld F.CFR_SLOT_GEN_GEN d.key) s.now

theorem State.acceptPartner_fresh (challenged : s.partnerState d.slot = 1) (site signing : List Byte) (m : RollMsg) : ∃ bytes,
    s.acceptPartner d site signing m =
      (((((s.accepting d site m bytes).setFld F.NET_SLOT_STAT_STATE d.slot 2).setFld F.NET_SLOT_STAT_AGE d.slot 0).bindConns d).slotEvent d.slot 1 0).report
        0x0781 d.slot := by
  have other : ¬ s.partnerState d.slot = 2 := by omega
  unfold State.acceptPartner
  simp only [decide_eq_false other, Bool.false_eq_true, if_false]
  exact ⟨_, rfl⟩

theorem State.accepting_spec (s : State) (d : SlotDef) (site : List Byte) (m : RollMsg) (bytes : List Byte) :
    (s.accepting d site m bytes).partner d.slot = (s.partner d.slot).bound (slice m.body 32 32) (s.newKey d.slot site m)
      (s.fld F.CFR_SLOT_GEN_GEN d.key) s.now
    ∧ (s.accepting d site m bytes).sent.length = s.sent.length + 1 ∧ (s.accepting d site m bytes).reports = s.reports := by
  refine ⟨?_, List.length_append, rfl⟩
  rw [State.accepting, State.partner_onPartner]
  rfl

theorem State.acceptPartner_spec (challenged : s.partnerState d.slot = 1) (site signing : List Byte) (m : RollMsg) : ∃ t,
    s.acceptPartner d site signing m = t ∧ t.partnerState d.slot = 2 ∧ t.fld F.NET_SLOT_STAT_AGE d.slot = 0
      ∧ t.partner d.slot = (s.partner d.slot).bound (slice m.body 32 32) (s.newKey d.slot site m) (s.fld F.CFR_SLOT_GEN_GEN d.key) s.now
      ∧ t.sent.length = s.sent.length + 1 ∧ (⟨0x0781, d.slot⟩ : Report) ∈ t.reports.drop s.reports.length := by
  obtain ⟨bytes, accepted⟩ := State.acceptPartner_fresh challenged site signing m
  obtain ⟨slot, sent, reports⟩ := s.accepting_spec d site m bytes
  refine ⟨_, accepted, ?_⟩
  generalize s.accepting d site m bytes = v at slot sent reports
  have shows : ((v.setFld F.NET_SLOT_STAT_STATE d.slot 2).setFld F.NET_SLOT_STAT_AGE d.slot 0).partnerState d.slot = 2
      ∧ ((v.setFld F.NET_SLOT_STAT_STATE d.slot 2).setFld F.NET_SLOT_STAT_AGE d.slot 0).fld F.NET_SLOT_STAT_AGE d.slot = 0 := by
    simp [State.partnerState, Fld.width]
  have rest : ∃ regs, (v.setFld F.NET_SLOT_STAT_STATE d.slot 2).setFld F.NET_SLOT_STAT_AGE d.slot 0 = { v with regs := regs } := ⟨_, rfl⟩
  generalize (v.setFld F.NET_SLOT_STAT_STATE d.slot 2).setFld F.NET_SLOT_STAT_AGE d.slot 0 = w at shows rest
  obtain ⟨regs, same⟩ := rest
  obtain ⟨binds, other⟩ := w.bindConns_binds d
  have grown := (w.bindConns_keeps d).reports
  generalize w.bindConns d = x at binds other grown
  obtain ⟨ring, net, sent', -, more⟩ := x.slotEvent_spec d.slot 1 0
  generalize x.slotEvent d.slot 1 0 = y at ring net sent' more
  have slots : y.net = v.net := by rw [net, other, same]
  have stat (f : Fld) (own : f.reg = .NET_SLOT_STAT) : y.fld f d.slot = w.fld f d.slot :=
    (ring.fld (by rw [own]; decide) _).trans (binds.fld (by rw [own]; decide) _)
  refine ⟨(stat _ rfl).trans shows.1, (stat _ rfl).trans shows.2, ?_, ?_, ?_⟩
  · exact (State.partner_of_slots (t := y.report 0x0781 d.slot) (s := v) (congrArg Net.slots slots) d.slot).trans slot
  · rw [← sent]
    exact congrArg List.length (sent'.trans (by rw [other, same]))
  · refine mem_reports_drop (u := y) ?_ rfl
    rw [← reports, ← show w.reports = v.reports by rw [same]]
    exact grown.trans more

end Sys2Proof.Machine
end

section
/-! SUPPORT. The station's own announcements, losses and leaves, and the proof of O49. -/

namespace Sys2Proof.Machine

variable {s t u : State} {n : Nat} {d : SlotDef} {m : RollMsg} {b : List Byte}

/-! ### A RESPONSE that fails (R331) -/

/-- What a refused and ignored partner leaves: a free slot, the reason told, and the sender's announcements ignored. -/
theorem State.refused_spec (challenged : s.partnerState n = 1) (reason port sender : Nat) (b : List Byte) :
    ∃ t, ((s.refusePartner n reason).ignoreSender sender).violation 1 2 (some port) n (some sender) b = t ∧ t.partnerState n = 0
      ∧ t.partner n = Slot.free ∧ (⟨0x0702, reason⟩ : Report) ∈ t.reports.drop s.reports.length ∧ ∃ g ∈ t.net.ignored, g.sender = sender := by
  obtain ⟨state, slot, told⟩ := State.refusePartner_frees challenged reason
  refine ⟨_, rfl, ?_⟩
  generalize s.refusePartner n reason = v at state slot told
  obtain ⟨slots, ignored, regs, reports⟩ := v.ignoreSender_spec sender
  generalize v.ignoreSender sender = w at slots ignored regs reports
  have same : RegsKept [] v w := regsKept_of_regs regs
  obtain ⟨slots', ignored'⟩ := w.violation_slots 1 2 (some port) n (some sender) b
  have kept := w.violation_kept 1 2 (some port) n (some sender) b none 0
  refine ⟨?_, ?_, ?_, ?_⟩
  · rw [State.partnerState, kept.fld (by simp), same.fld (by simp)]
    exact state
  · rw [State.partner_of_slots (slots'.trans slots), slot]
  · exact mem_reports_drop_of_prefix told (reports ▸ (State.violation_keeps ..).reports)
  · rw [ignored']
    exact ignored

/-! ### RESPONSE_TIMEOUT (R331) -/

theorem exec_responseTimeout (runs : s.runs 0 = true) (late : (s.partner n).asked + s.strokesIn 100000000 ≤ s.now)
    (waits : s.partnerState n = 1 ∨ (s.partner n).rebind = true) : exec (.responseTimeout n) s = .next (s.refusePartner n 5) :=
  congrArg Host.Outcome.next ((State.live_runs runs).trans (if_pos ⟨waits, late⟩))

/-! ### STATION_ANNOUNCE (R335) -/

theorem State.stationAnnounce_spec (s : State) (role : Nat) :
    (s.stationAnnounce role).net = { s.net with counter := (s.net.counter + 1) % 2 ^ 64, announced := some s.now }
    ∧ (s.stationAnnounce role).sent.length = s.sent.length + 1 ∧ (s.stationAnnounce role).regs = s.regs
    ∧ (s.stationAnnounce role).mem = s.mem ∧ (s.stationAnnounce role).reports = s.reports := by
  unfold State.stationAnnounce
  obtain ⟨net, sent, regs, reports, mem, -⟩ := s.sendPlain_spec 1 0 ([s.fresh 8, BitVec.ofNat 8 role] ++ leBytes 6 0)
  generalize s.sendPlain 1 0 ([s.fresh 8, BitVec.ofNat 8 role] ++ leBytes 6 0) = v at net sent regs reports mem
  have announced : (v.tick.onNet fun x => { x with announced := some s.now }).net = { v.net with announced := some s.now } := rfl
  refine ⟨?_, sent, regs, mem, reports⟩
  rw [announced, net]

theorem exec_stationAnnounce (runs : s.runs 0 = true) (station : s.station = true)
    (due : (s.net.announced.all fun a => decide (a + s.strokesIn 1000000000 ≤ s.now)) = true) :
    exec .stationAnnounce s = .next (s.stationAnnounce (if s.jny.active.serial = 0 then 3 else 1)) := by
  refine congrArg Host.Outcome.next ((State.live_runs runs).trans (if_pos ?_))
  rw [station, Bool.true_and]
  cases announced : s.net.announced with
  | none => rfl
  | some a =>
    rw [announced] at due
    exact due

/-! ### PARTNER_LOST (R334) -/

theorem exec_partnerLost (runs : s.runs 0 = true) (found : s.slotDef n = some d) (bound : s.partnerState n = 2)
    (late : (s.partner n).last + s.strokesIn (10000000 * d.live) ≤ s.now) : exec (.partnerLost n) s = .next (s.partnerLost n) := by
  refine congrArg Host.Outcome.next ((State.live_runs runs).trans ?_)
  rw [found]
  exact if_pos ⟨bound, late⟩

theorem exec_partnerLost_early (found : s.slotDef n = some d) (early : s.now < (s.partner n).last + s.strokesIn (10000000 * d.live)) :
    exec (.partnerLost n) s = .next s := by
  refine congrArg Host.Outcome.next (Eq.trans (congrArg (s.live 0) ?_) (live_idle s 0))
  rw [found]
  refine if_neg ?_
  rintro ⟨-, late⟩
  omega

/-! ### LEAVE (R334) -/

theorem exec_leave (port : Nat) (call : RollCall s b 7 m) (tail : m.tail.length = 16) (length : m.body.length = 8)
    (sender : s.slotOfSender m.sender = some n) (bound : s.partnerState n = 2) {body : List Byte} (opened : s.unseal n m = some body) :
    exec (.leave port b) s =
      .next (((((s.count 11 37).sessionEnded n 0).slotEvent n 3 (u8 body 0)).report 0x0782 n).onPartner n fun _ => Slot.free) := by
  obtain ⟨runs, station, read, typ⟩ := call
  have counted : (s.count 11 37).slotOfSender m.sender = some n ∧ (s.count 11 37).partnerState n = 2 ∧ (s.count 11 37).unseal n m = some body :=
    ⟨sender, bound, opened⟩
  refine congrArg Host.Outcome.next ((State.live_runs runs).trans ?_)
  unfold State.leave
  rw [if_neg (by simp [station]), read]
  dsimp only
  generalize s.count 11 37 = u at counted
  obtain ⟨sender', bound', opened'⟩ := counted
  rw [if_neg (by simp [typ, tail, length]), sender']
  dsimp only
  rw [if_neg (by simp [bound']), opened']
  rfl

theorem State.left_spec (s : State) (n reason : Nat) : ∃ t, (((s.sessionEnded n 0).slotEvent n 3 reason).report 0x0782 n).onPartner n (fun _ => Slot.free) = t
    ∧ t.partnerState n = 0 ∧ t.partner n = Slot.free ∧ (⟨0x0782, n⟩ : Report) ∈ t.reports.drop s.reports.length := by
  obtain ⟨-, state, -, -, reports, -⟩ := s.sessionEnded_spec n (state := 0) (by decide)
  refine ⟨_, rfl, ?_⟩
  generalize s.sessionEnded n 0 = v at state reports
  obtain ⟨ring, -, -, -, grown⟩ := v.slotEvent_spec n 3 reason
  generalize v.slotEvent n 3 reason = w at ring grown
  refine ⟨(ring.fld (by decide) n).trans state, State.partner_onPartner (w.report 0x0782 n) n _, ?_⟩
  have told : (⟨0x0782, n⟩ : Report) ∈ (w.report 0x0782 n).reports.drop s.reports.length := mem_reports_drop (u := w) (reports ▸ grown) rfl
  exact told

/-! ### A device that is not the station (R328) -/

theorem exec_notStation {c : Instr} {port addr ofs : Nat} (other : s.station = false)
    (is : c = .announce port addr b ∨ c = .response port addr b ∨ c = .px port ofs b ∨ c = .leave port b ∨ c = .stationAnnounce) :
    exec c s = .next s := by
  have idle (w : State) (same : w = s) : (.next (s.live 0 w) : Host.Outcome State Fault Refusal) = .next s :=
    congrArg Host.Outcome.next ((congrArg (s.live 0) same).trans (live_idle s 0))
  have deaf : (!s.station) = true := by rw [other]; rfl
  rcases is with rfl | rfl | rfl | rfl | rfl
  · exact idle _ (if_pos deaf)
  · exact idle _ (if_pos deaf)
  · exact idle _ (if_pos deaf)
  · exact idle _ (if_pos deaf)
  · exact idle _ (if_neg (by simp [other]))

/-- Settles O49: each message of the roll call ends in one of the operations above, whose slot, answer and report are read off. -/
theorem rollCallBindsPartners : Obligations.RollCallBindsPartners := by
  unfold Obligations.RollCallBindsPartners
  refine ⟨?announce, ?response, ?timeout, ?noTimeout, ?station, ?noStation, ?lost, ?leave, ?other⟩
  case announce =>
    intro s port addr b m call body tail heard stranger
    refine ⟨fun d choice free => ?_, fun choice => ?_⟩
    · obtain ⟨state, slot, sent, reports, cells⟩ := State.challenge_spec (s := s.count 11 31) (n := d.slot) free m.sender addr
      refine ⟨_, announce_some port addr call body tail heard stranger choice, state, ?_, ?_, ?_, ?_, sent, reports,
        CellsKept.trans (cellsKept_of_regs rfl) cells⟩ <;> rw [slot] <;> rfl
    · obtain ⟨net, sent, regs, reports, -⟩ := (s.count 11 31).reject_spec addr 1
      exact ⟨_, announce_none port addr call body tail heard stranger choice, by rw [net]; rfl, sent, reports, regsKept_of_regs regs⟩
  case response =>
    intro s port addr n b m d call long slot challenged k g site signing
    obtain ⟨late, bad, good⟩ := exec_response port addr call long slot challenged
    have waits : (s.count 11 33).partnerState n = 1 := challenged
    have named := State.slotDef_slot slot.2
    by_cases fault : s.responseFault d m = 0
    · obtain ⟨t, accepted, state, age, record, sent, told⟩ :=
        State.acceptPartner_spec (s := s.count 11 33) (d := d) (named.symm ▸ waits) k g m
      rw [named] at state age record told
      refine ⟨t, (good k g site signing fault).trans (congrArg Host.Outcome.next accepted),
        fun _ => ⟨state, age, ?_, ?_, ?_, sent, told⟩, fun h => absurd fault h⟩ <;> rw [record] <;> rfl
    · by_cases five : s.responseFault d m = 5
      · obtain ⟨state, free, told⟩ := State.refusePartner_frees waits 5
        rw [five]
        exact ⟨_, late five, fun h => absurd h (by decide), fun _ => ⟨state, free, told, fun h => absurd rfl h⟩⟩
      · obtain ⟨t, refused, state, free, told, ignored⟩ := State.refused_spec waits (s.responseFault d m) port m.sender b
        exact ⟨t, (bad five fault).trans (congrArg Host.Outcome.next refused), fun h => absurd h fault, fun _ => ⟨state, free, told, fun _ => ignored⟩⟩
  case timeout =>
    intro s n runs late
    refine ⟨fun challenged => ⟨_, exec_responseTimeout runs late (.inl challenged), State.refusePartner_frees challenged 5⟩,
      fun bound rebind => ⟨_, exec_responseTimeout runs late (.inr rebind), State.refusePartner_keeps_bound bound 5⟩⟩
  case noTimeout =>
    intro s n early
    refine congrArg Host.Outcome.next (Eq.trans (congrArg (s.live 0) (if_neg ?_)) (live_idle s 0))
    rintro ⟨-, late⟩
    omega
  case station =>
    intro s runs station due
    obtain ⟨net, sent, regs, mem, reports⟩ := s.stationAnnounce_spec (if s.jny.active.serial = 0 then 3 else 1)
    exact ⟨_, exec_stationAnnounce runs station due, net, sent, regsKept_of_regs regs, memKept_of_mem mem, reports⟩
  case noStation =>
    intro s a announced early
    refine congrArg Host.Outcome.next (Eq.trans (congrArg (s.live 0) (if_neg ?_)) (live_idle s 0))
    rw [announced]
    simp only [Bool.and_eq_true, decide_eq_true_eq]
    rintro ⟨-, due⟩
    omega
  case lost =>
    intro s n d runs found bound
    refine ⟨fun late => ⟨_, exec_partnerLost runs found bound late, ?_⟩, exec_partnerLost_early found⟩
    obtain ⟨regs, state, -, -, told, points⟩ := s.partnerLost_spec n
    exact ⟨state, told, points d found, regs⟩
  case leave =>
    intro s port n b body m call tail length sender bound opened
    obtain ⟨t, left_, spec⟩ := (s.count 11 37).left_spec n (u8 body 0)
    exact ⟨t, (exec_leave port call tail length sender bound opened).trans (congrArg Host.Outcome.next left_), spec⟩
  case other =>
    intro c s port addr ofs b other is
    exact exec_notStation other is

end Sys2Proof.Machine
end

section
/-! SUPPORT. What a pass of the battery estimator changes (R387 to R398). -/

namespace Sys2Proof.Machine

variable {s t u : State} {k : Nat} {r : BatRec}

/-! ### The frame of a pass -/

/-- The registers of the strings that a pass writes. -/
def stringRegs : List Reg := [.EMB_STR_STAT, .EMB_STR_SOC, .EMB_STR_CAP, .EMB_STR_LEARN]

/-- The work of a pass on a string: the registers of the strings, Ember's last code, the capacity copies and the records of the strings. -/
structure PassOnly (s t : State) : Prop where
  regs : RegsKept (.EMB_STAT :: stringRegs) s t
  mem : ∀ a, a < 0x21800000 ∨ 0x21800200 ≤ a → t.byte a = s.byte a
  stat : ∀ f : Fld, f ∈ [F.EMB_STAT_STOPPED, F.EMB_STAT_VALID, F.EMB_STAT_OVR_CONSEC] → t.fld f = s.fld f
  due : t.est.due = s.est.due
  sys : t.sys = s.sys
  sent : t.sent = s.sent

theorem PassOnly.refl (s : State) : PassOnly s s := ⟨.refl _ s, fun _ _ => rfl, fun _ _ => rfl, rfl, rfl, rfl⟩

theorem PassOnly.trans (h : PassOnly s t) (k : PassOnly t u) : PassOnly s u where
  regs := h.regs.trans k.regs
  mem a out := (k.mem a out).trans (h.mem a out)
  stat f shown := (k.stat f shown).trans (h.stat f shown)
  due := k.due.trans h.due
  sys := k.sys.trans h.sys
  sent := k.sent.trans h.sent

theorem passOnly_onString (s : State) (k : Nat) (f : BatString → BatString) : PassOnly s (s.onString k f) :=
  ⟨regsKept_of_regs rfl, fun _ _ => rfl, fun _ _ => rfl, rfl, rfl, rfl⟩

theorem passOnly_onEmb (s : State) (f : Emb → Emb) : PassOnly s (s.onEmb f) :=
  ⟨regsKept_of_regs rfl, fun _ _ => rfl, fun _ _ => rfl, rfl, rfl, rfl⟩

/-- A field of a string's registers is not one of the estimator's marks. -/
theorem passOnly_setFld (s : State) {f : Fld} (own : f.reg ∈ stringRegs) (k n : Nat) : PassOnly s (s.setFld f k n) where
  regs := (regsKept_setFld (List.mem_cons_of_mem _ own)).2 (.refl _ s)
  mem _ _ := rfl
  stat g shown := by
    have mark : g.reg = .EMB_STAT := by
      simp only [List.mem_cons, List.not_mem_nil, or_false] at shown
      obtain rfl | rfl | rfl := shown <;> rfl
    refine s.fld_setFld_name f g k 0 n fun same => ?_
    rw [mark] at same
    rw [← same] at own
    exact absurd own (by decide)
  due := rfl
  sys := rfl
  sent := rfl

theorem passOnly_embCode (s : State) (code k : Nat) : PassOnly s (s.embCode code k) where
  regs := by simp [State.embCode, stringRegs]
  mem _ _ := rfl
  stat f shown := by
    simp only [List.mem_cons, List.not_mem_nil, or_false] at shown
    obtain rfl | rfl | rfl := shown <;> simp [State.embCode]
  due := rfl
  sys := rfl
  sent := rfl

theorem passOnly_ite {c : Prop} [Decidable c] (h : PassOnly s t) (k : PassOnly s u) : PassOnly s (if c then t else u) := by
  split <;> assumption

theorem passOnly_fst_ite {α : Type} {c : Prop} [Decidable c] {x y : State × α} (h : PassOnly s x.1) (k : PassOnly s y.1) :
    PassOnly s (if c then x else y).1 := by
  split <;> assumption

/-- A field of a string is set, and its code reported. -/
theorem passOnly_told (s : State) {f : Fld} (own : f.reg ∈ stringRegs) (k n code : Nat) : PassOnly s ((s.setFld f k n).embCode code k) :=
  (passOnly_setFld s own k n).trans (passOnly_embCode _ code k)

theorem passOnly_foldl (l : List Nat) (f : State → Nat → State) (next : ∀ t c, PassOnly t (f t c)) (s : State) : PassOnly s (l.foldl f s) :=
  List.foldlRecOn (motive := PassOnly s) l f (.refl s) fun t before c _ => before.trans (next t c)

theorem passOnly_each (l : List Nat) (f : Nat → State → State) (next : ∀ k ∈ l, ∀ t, PassOnly t (f k t)) (s : State) : PassOnly s (s.each l f) :=
  State.each_induct (P := PassOnly s) (.refl s) fun k listed t before => before.trans (next k listed t)

/-! ### The steps of a pass -/

theorem State.suspectString_pass (s : State) (k : Nat) : PassOnly s (s.suspectString k) :=
  (passOnly_onString s k _).trans (passOnly_ite (.refl _) (passOnly_told _ (by decide) k 1 0x1081))

theorem State.passValid_pass (s : State) (k : Nat) (r : BatRec) : PassOnly s (s.passValid k r) :=
  (passOnly_onString s k _).trans (passOnly_ite (passOnly_ite (passOnly_setFld _ (by decide) k 0) (.refl _))
    (passOnly_ite (passOnly_told _ (by decide) k 1 0x1005) (.refl _)))

theorem State.filterCell_pass (k : Nat) (r : BatRec) (i : Rat) (s : State) (c : Nat) : PassOnly s (State.filterCell k r i s c) :=
  passOnly_onString s k _

theorem State.restPoint_pass (s : State) (k : Nat) (r : BatRec) : PassOnly s (s.restPoint k r) :=
  ((passOnly_foldl _ (State.restCell k r) (fun t _ => passOnly_onString t k _) s).trans (passOnly_onString _ k _)).trans
    (passOnly_ite (.refl _) (passOnly_told _ (by decide) k 1 0x1082))

theorem State.conflict_pass (s : State) (k : Nat) (r : BatRec) (old : Option Rat) : PassOnly s (s.conflict k r old) := by
  cases old with
  | some z => exact (passOnly_onString s k _).trans (passOnly_ite (State.suspectString_pass _ k) (passOnly_setFld _ (by decide) k 0))
  | none => exact (passOnly_onString s k _).trans (passOnly_ite (State.suspectString_pass _ k) (.refl _))

theorem State.learnQ_pass (s : State) (k : Nat) (r : BatRec) (fresh : Rat) : PassOnly s (s.learnQ k r fresh).1 := by
  unfold State.learnQ
  split
  · exact passOnly_told s (by decide) k _ 0x1084
  · exact (passOnly_setFld s (by decide) k _).trans (passOnly_told _ (by decide) k _ 0x1083)

theorem State.learnStep_pass (s : State) (k : Nat) (r : BatRec) (rested : Bool) : PassOnly s (s.learnStep k r rested).1 := by
  unfold State.learnStep
  dsimp only
  split
  · exact .refl s
  · split
    · exact passOnly_onString s k _
    · exact passOnly_fst_ite (passOnly_onString s k _) (passOnly_fst_ite (.refl s) ((s.learnQ_pass k r _).trans (passOnly_onString _ k _)))

/-- Bytes written among the capacity copies. -/
theorem passOnly_setBytes (s : State) {a : Nat} {b : List Byte} (low : 0x21800000 ≤ a) (high : a + b.length ≤ 0x21800200) :
    PassOnly s (s.setBytes a b) := by
  have outside : ∀ x, x < 0x21800000 ∨ 0x21800200 ≤ x → (s.setBytes a b).byte x = s.byte x :=
    fun x out => s.byte_setBytes_outside a b x (by omega)
  have same := s.setBytes_eq a b
  generalize s.setBytes a b = t at same outside
  have regs : t.regs = s.regs := by rw [same]
  refine ⟨regsKept_of_regs regs, outside, fun f _ => ?_, by rw [same], by rw [same], by rw [same]⟩
  rw [State.fld, State.reg, regs, State.fld, State.reg]

/-- A capacity copy of one of the 16 strings stands in the range of R449. -/
theorem State.writeCopy_pass (s : State) (small : k < 16) (q learns : Nat) : PassOnly s (s.writeCopy k q learns) := by
  refine passOnly_setBytes s ?_ ?_
  · unfold copyAt
    omega
  · simp only [List.length_append, length_leBytes]
    unfold copyAt
    split
    · omega
    · omega
    · split <;> omega

theorem State.writeBack_pass (s : State) (small : k < 16) (new : Option (Nat × Nat)) : PassOnly s (s.writeBack k new) := by
  unfold State.writeBack
  split
  · exact .refl s
  · exact passOnly_ite (((s.writeCopy_pass small _ _).trans (passOnly_onEmb _ _)).trans (passOnly_setFld _ (by decide) k 0))
      ((passOnly_onEmb s _).trans (passOnly_ite (.refl _) (passOnly_told _ (by decide) k 1 0x1085)))

theorem State.showSoc_pass (s : State) (k : Nat) (r : BatRec) : PassOnly s (s.showSoc k r) :=
  ((passOnly_setFld s (by decide) k _).trans (passOnly_setFld _ (by decide) k _)).trans (passOnly_setFld _ (by decide) k _)

/-- Steps 1 and 2 of a pass: the points are judged, and every cell is filtered. -/
theorem State.passFiltered_pass (s : State) (k : Nat) (r : BatRec) (i : Rat) (f : BatString → BatString) :
    PassOnly s ((List.range r.cells).foldl (State.filterCell k r i) ((s.onString k f).passValid k r)) :=
  ((passOnly_onString s k f).trans (State.passValid_pass _ k r)).trans (passOnly_foldl _ _ (State.filterCell_pass k r i) _)

theorem State.passString_pass (s : State) (small : k < 16) (r : BatRec) : PassOnly s (s.passString k r) :=
  let rest := (s.passFiltered_pass k r _ _).trans (passOnly_ite (State.restPoint_pass _ k r) (.refl _))
  let aged := (rest.trans (State.conflict_pass _ k r _)).trans (passOnly_ite (passOnly_onString _ k _) (.refl _))
  let learned := (aged.trans (State.learnStep_pass _ k r _)).trans (State.writeBack_pass _ small _)
  (learned.trans (State.showSoc_pass _ k r)).trans (passOnly_setFld _ (by decide) k _)

/-- A hard limit shows in the string's registers (R390). -/
theorem State.cellLimit_pass (s : State) (k : Nat) (r : BatRec) : PassOnly s (s.cellLimit k r) :=
  ((passOnly_ite (passOnly_embCode s 0x1088 k) (.refl s)).trans (passOnly_setFld _ (by decide) k _)).trans
    (passOnly_ite (State.suspectString_pass _ k) (.refl _))

/-! ### BATTERY_PASS (R387, R391, R392) -/

theorem State.batteryPass_idle (idle : s.est.due = false ∨ s.flag F.EMB_STAT_STOPPED = true) : s.batteryPass = s :=
  if_pos (by obtain h | h := idle <;> simp [h])

theorem State.mem_strings (listed : k ∈ s.strings) : k < 16 := List.mem_range.1 (List.mem_filter.1 listed).1

/-- A pass of every string is complete: its overruns end, and the headroom is valid. -/
def State.passDone (s : State) : State :=
  ((((s.completed .battery).setFld F.EMB_STAT_OVR_CONSEC 0 0).onEst fun e => { e with due := false }).setFld F.EMB_STAT_VALID 0 1).count 10 6

theorem State.passDone_spec (s : State) :
    s.passDone.est.due = false ∧ s.passDone.flag F.EMB_STAT_VALID = true ∧ s.passDone.fld F.EMB_STAT_OVR_CONSEC = 0
      ∧ s.passDone.fld F.EMB_STAT_STOPPED = s.fld F.EMB_STAT_STOPPED ∧ RegsKept [.EMB_STAT] s s.passDone ∧ s.passDone.mem = s.mem
      ∧ s.passDone.now = s.now ∧ s.passDone.stringCount = s.stringCount ∧ s.passDone.sent = s.sent := by
  refine ⟨rfl, ?_, ?_, ?_, ?_, rfl, rfl, rfl, rfl⟩ <;> simp [State.passDone, State.completed, State.onEst, Fld.width]

/-- A due pass: every string's steps, the completion, the hard limits, and the headroom. -/
theorem State.batteryPass_steps (due : s.est.due = true) (going : s.flag F.EMB_STAT_STOPPED = false) :
    ∃ u v, PassOnly s u ∧ PassOnly u.passDone v ∧ s.batteryPass = v.headroom := by
  unfold State.batteryPass
  rw [if_neg (by simp [due, going])]
  dsimp only
  refine ⟨?passed, _, ?strings, ?limits, rfl⟩
  case limits =>
    refine passOnly_each _ _ (fun k _ t => ?_) _
    split
    · exact t.cellLimit_pass k _
    · exact .refl t
  case strings =>
    refine passOnly_each _ _ (fun k listed t => ?_) s
    split
    · exact t.passString_pass (State.mem_strings listed) _
    · exact .refl t

/-- The headrooms computed are the sums over the strings (R391). -/
theorem State.headroom_sums (valid : s.flag F.EMB_STAT_VALID = true) (going : s.flag F.EMB_STAT_STOPPED = false) :
    s.headroom.est.nextDis = inHeadUnits ((s.strings.filterMap fun k => (s.batRec k).map (s.stringHead k)).map Prod.fst).sum
    ∧ s.headroom.est.nextChg = inHeadUnits ((s.strings.filterMap fun k => (s.batRec k).map (s.stringHead k)).map Prod.snd).sum := by
  unfold State.headroom
  simp only [valid, going, Bool.not_false, Bool.and_true, if_true, State.onEst, List.map_filterMap, Option.map_map]
  exact ⟨rfl, rfl⟩

end Sys2Proof.Machine
end

section
/-! SUPPORT. The hibernation's save, Ember's samples and the idle entry (R400 to R403, R448). -/

namespace Sys2Proof.Machine

variable {s t : State} {ch j k : Nat} {code : Int} {r : BatRec}

/-! ### The save of a hibernation (R400) -/

/-- A pass, due or not, leaves the time, the strings of the part and the frames sent. -/
theorem State.batteryPass_kept (s : State) :
    s.batteryPass.now = s.now ∧ s.batteryPass.stringCount = s.stringCount ∧ s.batteryPass.sent = s.sent := by
  by_cases idle : s.est.due = false ∨ s.flag F.EMB_STAT_STOPPED = true
  · rw [State.batteryPass_idle idle]
    exact ⟨rfl, rfl, rfl⟩
  · obtain ⟨due, going⟩ := not_or.1 idle
    obtain ⟨u, v, strings, limits, whole⟩ := State.batteryPass_steps (by simpa using due) (by simpa using going)
    obtain ⟨-, -, -, -, -, -, now, count, sent⟩ := u.passDone_spec
    rw [whole]
    refine ⟨?_, ?_, limits.sent.trans (sent.trans strings.sent)⟩
    · show v.now = s.now
      rw [State.now, limits.sys, ← State.now, now, State.now, strings.sys, State.now]
    · show v.stringCount = s.stringCount
      rw [State.stringCount, limits.sys, ← State.stringCount, count, State.stringCount, strings.sys, State.stringCount]

/-- The counts that software reads start from 0. -/
theorem State.countsZeroed_spec (s : State) :
    ∃ t, s.each (List.range s.stringCount) (fun k t => (t.setReg .EMB_Q_LO k 0).setReg .EMB_Q_HI k 0) = t
      ∧ t.emb = s.emb ∧ t.sent = s.sent ∧ ∀ k < s.stringCount, t.pair .EMB_Q_LO .EMB_Q_HI k = 0 := by
  refine ⟨_, rfl, State.each_congr State.emb fun _ _ _ => rfl, State.each_congr State.sent fun _ _ _ => rfl, fun k listed => ?_⟩
  refine State.each_at (g := fun t => t.pair .EMB_Q_LO .EMB_Q_HI k) (List.mem_range.2 listed) (fun t => ?_) fun j other t => ?_
  · simp [State.pair]
  · simp only [State.pair, State.reg_setReg_index _ _ _ other.symm]

theorem State.hibernateSave_spec (s : State) : HibernationSaved s s.hibernateSave ∧ s.hibernateSave.sent = s.sent := by
  obtain ⟨now, count, sent⟩ := s.batteryPass_kept
  unfold State.hibernateSave
  generalize s.batteryPass = p at now count sent
  dsimp only
  obtain ⟨c, zeroed, emb, sent', pairs⟩ := State.countsZeroed_spec (p.onEmb _)
  rw [zeroed]
  refine ⟨⟨rfl, rfl, ?_, fun k => ?_, fun k small => pairs k (count ▸ small)⟩, sent'.trans sent⟩
  · rw [State.onEst_emb, emb, ← now]
    exact ⟨_, rfl⟩
  · rw [State.onEst_emb, emb]
    exact ⟨rfl, rfl⟩

/-! ### A sample of Ember (R401) -/

/-- A sample's part on string `k`. -/
def State.sampleString (ch : Nat) (code : Int) (k : Nat) (t : State) : State :=
  (t.batRec k).elim t fun r => if r.ch = ch then t.embCount k r (code * ((fpRat? r.gain).getD (Config.numberOf r.gain))) else t

theorem State.emberSample_eq (asleep : s.emb.asleep = true) (ch : Nat) (code : Int) :
    s.emberSample ch code = s.each (List.range 16) (State.sampleString ch code) := by
  unfold State.emberSample
  rw [if_neg (by simp [asleep])]
  refine congrArg (s.each (List.range 16)) (funext fun k => funext fun t => ?_)
  unfold State.sampleString
  cases t.batRec k <;> rfl

theorem State.sampleString_own (found : t.batRec k = some r) (own : r.ch = ch) :
    State.sampleString ch code k t = t.embCount k r (code * ((fpRat? r.gain).getD (Config.numberOf r.gain))) := by
  rw [State.sampleString, found]
  exact if_pos own

theorem State.sampleString_idle (other : ∀ r, t.batRec k = some r → r.ch ≠ ch) : State.sampleString ch code k t = t := by
  unfold State.sampleString
  cases found : t.batRec k with
  | none => rfl
  | some r => exact if_neg (other r found)

/-- A string that another channel measures does not count. -/
theorem State.sampleString_cases (ch : Nat) (code : Int) (k : Nat) (t : State) :
    State.sampleString ch code k t = t ∨ ∃ r i, t.batRec k = some r ∧ r.ch = ch ∧ State.sampleString ch code k t = t.embCount k r i := by
  by_cases own : ∃ r, t.batRec k = some r ∧ r.ch = ch
  · obtain ⟨r, found, own⟩ := own
    exact .inr ⟨r, _, found, own, State.sampleString_own found own⟩
  · exact .inl (State.sampleString_idle fun r found same => own ⟨r, found, same⟩)

/-- A string's count changes its own charge and its own pair of registers. -/
theorem State.embCount_spec (t : State) (k : Nat) (r : BatRec) (i : Rat) :
    (t.embCount k r i).batRec = t.batRec ∧ RegsKept [.EMB_Q_LO, .EMB_Q_HI] t (t.embCount k r i)
      ∧ (t.embCount k r i).emb.charge.get k = t.emb.charge.get k + 16 * i
      ∧ (t.embCount k r i).pair .EMB_Q_LO .EMB_Q_HI k = unsignedOf 64 (t.emb.charge.get k + 16 * i).floor
      ∧ ∀ j ≠ k, (t.embCount k r i).emb.charge.get j = t.emb.charge.get j
        ∧ (t.embCount k r i).pair .EMB_Q_LO .EMB_Q_HI j = t.pair .EMB_Q_LO .EMB_Q_HI j := by
  have charge : (t.embCount k r i).emb.charge = t.emb.charge.upd k fun q => q + 16 * i := rfl
  refine ⟨rfl, ?_, ?_, ?_, fun j other => ⟨?_, ?_⟩⟩
  · simp [State.embCount, State.onEmb]
  · rw [charge, Arr.get_upd_same]
  · unfold State.embCount
    dsimp only
    rw [State.pair_setPair_same _ (by decide), Nat.mod_eq_of_lt (unsignedOf_lt 64 _)]
    exact congrArg (fun q : Rat => unsignedOf 64 q.floor) (Arr.get_upd_same ..)
  · rw [charge, Arr.get_upd_ne _ other]
  · simp only [State.embCount, State.pair, State.setPair, State.reg_setReg_index _ _ _ other, State.onEmb_reg]

theorem State.sampleString_kept (ch : Nat) (code : Int) (k : Nat) (t : State) :
    (State.sampleString ch code k t).batRec = t.batRec ∧ RegsKept [.EMB_Q_LO, .EMB_Q_HI] t (State.sampleString ch code k t)
      ∧ ∀ j ≠ k, (State.sampleString ch code k t).emb.charge.get j = t.emb.charge.get j
        ∧ (State.sampleString ch code k t).pair .EMB_Q_LO .EMB_Q_HI j = t.pair .EMB_Q_LO .EMB_Q_HI j := by
  obtain same | ⟨r, i, -, -, counted⟩ := State.sampleString_cases ch code k t
  · rw [same]
    exact ⟨rfl, .refl _ t, fun _ _ => ⟨rfl, rfl⟩⟩
  · rw [counted]
    obtain ⟨strings, regs, -, -, other⟩ := t.embCount_spec k r i
    exact ⟨strings, regs, other⟩

/-- A sample counts 16 ms of the current of the string on its channel, once. -/
theorem State.emberSample_counts (asleep : s.emb.asleep = true) (small : k < 16) (found : s.batRec k = some r) (own : r.ch = ch)
    (i : Rat) (current : i = code * ((fpRat? r.gain).getD (Config.numberOf r.gain))) :
    (s.emberSample ch code).emb.charge.get k = s.emb.charge.get k + 16 * i
    ∧ (s.emberSample ch code).pair .EMB_Q_LO .EMB_Q_HI k = unsignedOf 64 (s.emb.charge.get k + 16 * i).floor := by
  rw [State.emberSample_eq asleep]
  refine State.each_once (P := fun t => t.batRec = s.batRec ∧ t.emb.charge.get k = s.emb.charge.get k)
    (Q := fun t => t.emb.charge.get k = s.emb.charge.get k + 16 * i
      ∧ t.pair .EMB_Q_LO .EMB_Q_HI k = unsignedOf 64 (s.emb.charge.get k + 16 * i).floor)
    List.nodup_range (List.mem_range.2 small) ⟨rfl, rfl⟩ ?_ ?_ ?_
  · rintro j other t ⟨strings, charge⟩
    obtain ⟨strings', -, others⟩ := State.sampleString_kept ch code j t
    exact ⟨strings'.trans strings, (others k other.symm).1.trans charge⟩
  · rintro t ⟨strings, charge⟩
    rw [State.sampleString_own (by rw [strings, found]) own, ← current, ← charge]
    obtain ⟨-, -, counted, shown, -⟩ := t.embCount_spec k r i
    exact ⟨counted, shown⟩
  · rintro j other t ⟨charge, shown⟩
    obtain ⟨-, -, others⟩ := State.sampleString_kept ch code j t
    exact ⟨(others k other.symm).1.trans charge, (others k other.symm).2.trans shown⟩

/-- A sample writes the counts of the strings on its channel alone. -/
theorem State.emberSample_kept (asleep : s.emb.asleep = true) (ch : Nat) (code : Int) :
    RegsKept [.EMB_Q_LO, .EMB_Q_HI] s (s.emberSample ch code)
    ∧ ∀ j q, s.batRec j = some q → q.ch ≠ ch → (s.emberSample ch code).emb.charge.get j = s.emb.charge.get j := by
  rw [State.emberSample_eq asleep]
  refine ⟨regsKept_each (.refl _ s) fun k _ t => (State.sampleString_kept ch code k t).2.1, fun j q found apart => ?_⟩
  refine (State.each_induct (P := fun t => t.batRec = s.batRec ∧ t.emb.charge.get j = s.emb.charge.get j) ⟨rfl, rfl⟩ ?_).2
  rintro k - t ⟨strings, charge⟩
  obtain ⟨strings', -, others⟩ := State.sampleString_kept ch code k t
  refine ⟨strings'.trans strings, Eq.trans ?_ charge⟩
  by_cases same : j = k
  · subst same
    rw [State.sampleString_idle fun r here => ?_]
    rw [strings, found] at here
    exact Option.some.inj here ▸ apart
  · exact (others j same).1

/-! ### A wake-up (R402) -/

theorem State.wakeUp_spec (s : State) (src : Nat) :
    (s.wakeUp src).emb = { s.emb with asleep := false, wake := none, woken := true } ∧ (s.wakeUp src).fld F.EMB_STAT_WAKE_SRC = src % 8
      ∧ (s.wakeUp src).reports = s.reports ++ [⟨0x1086, 0⟩] ∧ CellsKept [(.EMB_STAT, 0)] s (s.wakeUp src)
      ∧ (s.wakeUp src).pwr = s.pwr ∧ (s.wakeUp src).sys = s.sys := by
  refine ⟨rfl, ?_, rfl, ?_, rfl, rfl⟩ <;> simp [State.wakeUp, State.embCode, State.onEmb, Fld.width]

/-! ### The idle entry (R400, R448) -/

theorem State.undo_emb (s : State) (h : Held_) : (h.undo s).emb = s.emb := by
  refine List.foldlRecOn (motive := fun u : State => u.emb = s.emb) h.pts _ rfl fun u same p _ => ?_
  rw [State.onAsy_emb, State.setFld_emb]
  exact same

theorem State.showSwitches_emb (s : State) : s.showSwitches.emb = s.emb := State.each_congr State.emb fun _ _ _ => rfl

theorem State.undoHeld_emb (s : State) : s.undoHeld.emb = s.emb := by
  unfold State.undoHeld
  rw [State.showSwitches_emb]
  exact List.foldrRecOn (motive := fun t : State => t.emb = s.emb) s.asy.held _ rfl fun t before h _ => (t.undo_emb h).trans before

theorem State.assayReset_emb (s : State) (restart : Bool) : (s.assayReset restart).emb = s.emb := by
  unfold State.assayReset State.keepingSeal
  rw [State.onAsy_emb, State.setFld_emb, State.dropRegs_emb]
  exact s.undoHeld_emb

/-- What MRAM keeps of the estimator stays through a reset of the device. -/
theorem State.resetStart_saved (s : State) (spare restart : Bool) : (s.resetStart spare restart).emb.saved = s.emb.saved := by
  have assay : (if spare then s else s.assayReset restart).emb = s.emb := by
    split
    · rfl
    · exact s.assayReset_emb restart
  unfold State.resetStart
  dsimp only
  generalize (if spare then s else s.assayReset restart) = t at assay ⊢
  have same : t.emb.saved = s.emb.saved := by rw [assay]
  split <;> exact same

theorem State.deviceReset_saved (s : State) (spare restart : Bool) :
    (s.deviceReset spare restart).emb.saved = s.emb.saved ∧ (s.deviceReset spare restart).sys.booted = false := by
  have dropped : (s.resetStart spare restart).dropVolatile.emb = (s.resetStart spare restart).emb :=
    State.each_congr State.emb fun _ _ _ => rfl
  have start := s.resetStart_saved spare restart
  rw [s.deviceReset_eq]
  generalize s.resetStart spare restart = t at dropped start
  generalize t.dropVolatile = u at dropped
  exact ⟨(congrArg Emb.saved dropped).trans start, rfl⟩

/-- The rails go off: the device is reset, PWR_STAT shows Ember alone, and Ember counts. -/
def State.railsOff (s : State) : State :=
  (((s.deviceReset false false).onPwr fun p => { p with coreOff := true }).setReg .PWR_STAT 0 8).onEmb fun e => { e with asleep := true }

theorem State.railsOff_spec (s : State) :
    s.railsOff.pwr.coreOff = true ∧ s.railsOff.sys.booted = false ∧ s.railsOff.reg .PWR_STAT = 8 ∧ s.railsOff.emb.saved = s.emb.saved
      ∧ s.railsOff.emb.asleep = true := by
  obtain ⟨saved, booted⟩ := s.deviceReset_saved false false
  unfold State.railsOff
  generalize s.deviceReset false false = t at saved booted
  exact ⟨rfl, booted, (State.onEmb_reg ..).trans (State.reg_setReg_same ..), saved, rfl⟩

theorem State.emberIdle_idle (idle : s.est.saving = false) : s.emberIdle = s := if_neg (by simp [idle])

theorem State.emberIdle_none (saving : s.est.saving = true) (quiet : s.emb.wake = none) : s.emberIdle = s.railsOff := by
  unfold State.emberIdle
  rw [if_pos saving, quiet]
  rfl

theorem State.emberIdle_some {src : Nat} (saving : s.est.saving = true) (waits : s.emb.wake = some src) :
    s.emberIdle = s.railsOff.wakeUp src := by
  unfold State.emberIdle
  rw [if_pos saving, waits]
  rfl

end Sys2Proof.Machine
end

section
/-! SUPPORT. The hibernation's commands, and the proof of O55. -/

namespace Sys2Proof.Machine

variable {s t : State} {src : Nat}

/-! ### BATTERY_PASS (R387, R391, R392) -/

theorem exec_batteryPass_idle (idle : s.est.due = false ∨ s.flag F.EMB_STAT_STOPPED = true) : exec .batteryPass s = .next s :=
  congrArg Host.Outcome.next ((congrArg (s.live 3) (State.batteryPass_idle idle)).trans (live_idle s 3))

/-- A complete pass: the headroom of the next heat, and what it leaves. -/
theorem State.batteryPass_spec (due : s.est.due = true) (going : s.flag F.EMB_STAT_STOPPED = false) :
    ∃ t, s.batteryPass = t ∧ t.est.due = false ∧ t.flag F.EMB_STAT_VALID = true ∧ t.fld F.EMB_STAT_OVR_CONSEC = 0
      ∧ t.est.nextDis = inHeadUnits ((t.strings.filterMap fun k => (t.batRec k).map (t.stringHead k)).map Prod.fst).sum
      ∧ t.est.nextChg = inHeadUnits ((t.strings.filterMap fun k => (t.batRec k).map (t.stringHead k)).map Prod.snd).sum
      ∧ RegsKept [.EMB_STAT, .EMB_STR_STAT, .EMB_STR_SOC, .EMB_STR_CAP, .EMB_STR_LEARN] s t
      ∧ ∀ a, a < 0x21800000 ∨ 0x21800200 ≤ a → t.byte a = s.byte a := by
  obtain ⟨u, v, strings, limits, whole⟩ := State.batteryPass_steps due going
  obtain ⟨done, valid, overruns, stopped, regs, mem, -⟩ := u.passDone_spec
  generalize u.passDone = w at limits done valid overruns stopped regs mem
  have valid' : v.flag F.EMB_STAT_VALID = true := (State.flag_congr (limits.stat _ (by decide))).trans valid
  have going' : v.flag F.EMB_STAT_STOPPED = false :=
    (State.flag_congr (((limits.stat _ (by decide)).trans stopped).trans (strings.stat _ (by decide)))).trans going
  obtain ⟨dis, chg⟩ := State.headroom_sums valid' going'
  refine ⟨v.headroom, whole, limits.due.trans done, valid', (limits.stat _ (by decide)).trans overruns, dis, chg, ?_, fun a out => ?_⟩
  · exact (strings.regs.trans ((regs.mono (by decide)).trans limits.regs)).trans (regsKept_of_regs rfl)
  · exact (limits.mem a out).trans ((memKept_of_mem mem a).trans (strings.mem a out))

/-! ### HIBERNATE and its answers (R400) -/

theorem State.hibernate_refused
    (refused : s.mayIdle = false ∨ bitOf (s.fld F.SYS_REGION_STAT_FAILED) 8 = true
      ∨ (s.flag F.PEG_STAT_LINK = true ∧ (s.holds && s.partnerSync) = false)) : s.hibernate = s.embCode 0x1002 := by
  refine if_pos ?_
  obtain held | failed | ⟨bound, apart⟩ := refused
  · simp [held]
  · simp [State.mayIdle, State.up, failed]
  · simp [bound, apart]

theorem State.hibernate_unbound (may : s.mayIdle = true) (unbound : s.flag F.PEG_STAT_LINK = false) : s.hibernate = s.hibernateSave :=
  (if_neg (by simp [may, unbound])).trans (if_neg (by simp [unbound]))

/-- The holder asks its standby. -/
theorem State.hibernate_asks (may : s.mayIdle = true) (bound : s.flag F.PEG_STAT_LINK = true) (holds : s.holds = true)
    (sync : s.partnerSync = true) : s.hibernate = (s.onEst fun e => { e with asking := true, askedAt := s.now }).send .solley 1 [] :=
  (if_neg (by simp [may, holds, sync])).trans (if_pos bound)

/-- What HIBERNATE judges, a served access leaves. -/
theorem served_hibernates (s : State) (who : Initiator) :
    (served s who).mayIdle = s.mayIdle ∧ (served s who).flag F.PEG_STAT_LINK = s.flag F.PEG_STAT_LINK ∧ (served s who).holds = s.holds
      ∧ (served s who).partnerSync = s.partnerSync ∧ (served s who).fld F.SYS_REGION_STAT_FAILED = s.fld F.SYS_REGION_STAT_FAILED :=
  ⟨served_congr State.mayIdle s who 4 fun _ => rfl, served_congr (fun t => t.flag F.PEG_STAT_LINK) s who 4 fun _ => rfl,
    served_congr State.holds s who 4 fun _ => rfl, served_congr State.partnerSync s who 4 fun _ => rfl,
    served_congr (fun t => t.fld F.SYS_REGION_STAT_FAILED) s who 4 fun _ => rfl⟩

/-- A save reads as one of any state of the same time and part. -/
theorem HibernationSaved.of_same {u : State} (saved : HibernationSaved u t) (now : u.now = s.now) (count : u.stringCount = s.stringCount) :
    HibernationSaved s t := by
  obtain ⟨saving, asking, ⟨x, slot⟩, counts, pairs⟩ := saved
  exact ⟨saving, asking, ⟨x, now ▸ slot⟩, counts, fun k small => pairs k (count.symm ▸ small)⟩

theorem exec_hibernate (who : Initiator) (reaches : ReachesReg s who .EMB_CTL 0) :
    exec (.hibernate who) s = .next { (served s who).hibernate with resp := .done } :=
  congrArg Host.Outcome.next (rowWrite_reaches s who _ _ _ reaches)

theorem exec_estimatorRestart (who : Initiator) (reaches : ReachesReg s who .EMB_CTL 0) :
    exec (.estimatorRestart who) s = .next { (served s who).estRestart with resp := .done } :=
  congrArg Host.Outcome.next (rowWrite_reaches s who _ _ _ reaches)

theorem exec_hibernate_unbound (who : Initiator) (reaches : ReachesReg s who .EMB_CTL 0) (may : s.mayIdle = true)
    (unbound : s.flag F.PEG_STAT_LINK = false) : ∃ t, exec (.hibernate who) s = .next t ∧ HibernationSaved s t ∧ t.resp = .done := by
  obtain ⟨may', link, -⟩ := served_hibernates s who
  have now : (served s who).now = s.now := served_congr State.now s who 4 fun _ => rfl
  have count : (served s who).stringCount = s.stringCount := served_congr State.stringCount s who 4 fun _ => rfl
  rw [exec_hibernate who reaches, State.hibernate_unbound (may'.trans may) (link.trans unbound)]
  obtain ⟨saved, -⟩ := (served s who).hibernateSave_spec
  generalize (served s who).hibernateSave = u at saved
  exact ⟨_, rfl, saved.of_same now count, rfl⟩

theorem exec_hibernate_asks (who : Initiator) (reaches : ReachesReg s who .EMB_CTL 0) (may : s.mayIdle = true)
    (bound : s.flag F.PEG_STAT_LINK = true) (holds : s.holds = true) (sync : s.partnerSync = true) :
    ∃ t, exec (.hibernate who) s = .next t ∧ t.resp = .done ∧ t.est = { s.est with asking := true, askedAt := s.now }
      ∧ t.sent = s.sent ++ [⟨.solley, 1, []⟩] ∧ RegsKept [] s t ∧ MemKept s t := by
  obtain ⟨may', link, holds', sync', -⟩ := served_hibernates s who
  rw [exec_hibernate who reaches, State.hibernate_asks (may'.trans may) (link.trans bound) (holds'.trans holds) (sync'.trans sync)]
  obtain ⟨c, counted⟩ := served_scb s who 4
  rw [counted]
  exact ⟨_, rfl, rfl, rfl, rfl, regsKept_of_regs rfl, fun _ => rfl⟩

theorem exec_hibernateRequest_other (other : s.standby = false) : exec .hibernateRequest s = .next s :=
  congrArg Host.Outcome.next ((congrArg (s.live 3) (if_pos (by simp [other]))).trans (live_idle s 3))

theorem exec_hibernateRequest_refused (runs : s.runs 3 = true) (standby : s.standby = true) (held : s.mayIdle = false) :
    exec .hibernateRequest s = .next (s.send .solley 2 [0]) :=
  congrArg Host.Outcome.next ((State.live_runs runs).trans ((if_neg (by simp [standby])).trans (if_neg (by simp [held]))))

theorem exec_hibernateRequest_saves (runs : s.runs 3 = true) (standby : s.standby = true) (may : s.mayIdle = true) :
    ∃ t, exec .hibernateRequest s = .next t ∧ HibernationSaved s t ∧ t.sent = s.sent ++ [⟨.solley, 2, [1]⟩] := by
  refine ⟨_, congrArg Host.Outcome.next ((State.live_runs runs).trans ((if_neg (by simp [standby])).trans (if_pos may))), ?_⟩
  obtain ⟨saved, sent⟩ := s.hibernateSave_spec
  generalize s.hibernateSave = u at saved sent
  exact ⟨saved, by rw [State.send, sent]⟩

theorem exec_hibernateReady_idle (ready : Bool) (quiet : s.est.asking = false) : exec (.hibernateReady ready) s = .next s :=
  congrArg Host.Outcome.next ((congrArg (s.live 3) (if_pos (by simp [quiet]))).trans (live_idle s 3))

theorem exec_hibernateReady_true (runs : s.runs 3 = true) (asks : s.est.asking = true) :
    exec (.hibernateReady true) s = .next s.hibernateSave :=
  congrArg Host.Outcome.next ((State.live_runs runs).trans ((if_neg (by simp [asks])).trans (if_pos rfl)))

theorem exec_hibernateReady_false (runs : s.runs 3 = true) (asks : s.est.asking = true) :
    exec (.hibernateReady false) s = .next ((s.onEst fun e => { e with asking := false }).embCode 0x1002) :=
  congrArg Host.Outcome.next ((State.live_runs runs).trans ((if_neg (by simp [asks])).trans (if_neg (by decide))))

theorem exec_hibernateTimeout_idle (idle : s.est.asking = false ∨ s.now < s.est.askedAt + s.ms 100) : exec .hibernateTimeout s = .next s := by
  refine congrArg Host.Outcome.next ((congrArg (s.live 3) (if_neg ?_)).trans (live_idle s 3))
  obtain quiet | early := idle
  · simp [quiet]
  · simp [Nat.not_le.2 early]

theorem exec_hibernateTimeout_late (runs : s.runs 3 = true) (asks : s.est.asking = true) (late : s.est.askedAt + s.ms 100 ≤ s.now) :
    exec .hibernateTimeout s = .next ((s.onEst fun e => { e with asking := false }).embCode 0x1002) :=
  congrArg Host.Outcome.next ((State.live_runs runs).trans (if_pos (by simp [asks, late])))

/-! ### EMBER_IDLE_ENTRY, EMBER_SAMPLE and WAKE (R400 to R402, R448) -/

theorem State.emberIdle_spec (saving : s.est.saving = true) :
    s.emberIdle.pwr.coreOff = true ∧ s.emberIdle.sys.booted = false ∧ s.emberIdle.reg .PWR_STAT = 8 ∧ s.emberIdle.emb.saved = s.emb.saved
      ∧ (s.emb.wake = none → s.emberIdle.emb.asleep = true)
      ∧ ∀ src, s.emb.wake = some src → s.emberIdle.emb.asleep = false ∧ s.emberIdle.emb.woken = true
        ∧ s.emberIdle.fld F.EMB_STAT_WAKE_SRC = src % 8 := by
  obtain ⟨off, halted, stat, saved, asleep⟩ := s.railsOff_spec
  cases wake : s.emb.wake with
  | none =>
    rw [State.emberIdle_none saving wake]
    exact ⟨off, halted, stat, saved, fun _ => asleep, fun src waits => absurd waits (by simp)⟩
  | some src =>
    rw [State.emberIdle_some saving wake]
    generalize s.railsOff = u at off halted stat saved
    obtain ⟨emb, source, -, regs, pwr, sys⟩ := u.wakeUp_spec src
    generalize u.wakeUp src = v at emb source regs pwr sys
    refine ⟨by rw [pwr, off], by rw [sys, halted], (regs _ _ (by simp)).trans stat, by rw [emb]; exact saved, fun none => absurd none (by simp),
      fun src' waits => ?_⟩
    obtain rfl := Option.some.inj waits
    exact ⟨by rw [emb], by rw [emb], source⟩

theorem exec_emberSample_awake (awake : s.emb.asleep = false) (ch : Nat) (code : Int) : exec (.emberSample ch code) s = .next s :=
  congrArg Host.Outcome.next ((congrArg (s.live 8) (if_pos (by simp [awake]))).trans (live_idle s 8))

theorem exec_emberSample (runs : s.runs 8 = true) (ch : Nat) (code : Int) : exec (.emberSample ch code) s = .next (s.emberSample ch code) :=
  congrArg Host.Outcome.next (State.live_runs runs)

theorem exec_wake_refused (refused : s.mayWake src = false) : exec (.wake src) s = .next s := by
  refine congrArg Host.Outcome.next ((congrArg (s.live 8) ?_).trans (live_idle s 8))
  split <;> simp [refused]

theorem exec_wake_asleep (runs : s.runs 8 = true) (may : s.mayWake src = true) (asleep : s.emb.asleep = true) :
    exec (.wake src) s = .next (s.wakeUp src) :=
  congrArg Host.Outcome.next ((State.live_runs runs).trans ((if_pos asleep).trans (if_pos may)))

/-- A wake source waits for the save. -/
theorem exec_wake_waits (runs : s.runs 8 = true) (may : s.mayWake src = true) (awake : s.emb.asleep = false) (saving : s.est.saving = true)
    (first : s.emb.wake = none) (source : 2 ≤ src) : exec (.wake src) s = .next { s with emb := { s.emb with wake := some src } } :=
  congrArg Host.Outcome.next ((State.live_runs runs).trans ((if_neg (by simp [awake])).trans (if_pos ⟨saving, first, source, may⟩)))

/-- Settles O55: a pass is framed step by step (`PassOnly`), the save by what a pass leaves, and each command by its branch of the model. -/
theorem passesHibernationAndWake : Obligations.PassesHibernationAndWake := by
  refine ⟨fun s => ⟨exec_batteryPass_idle, fun runs due going => ?pass⟩, fun s who reaches => ⟨fun refused => ?refused, fun may =>
      ⟨exec_hibernate_unbound who reaches may, exec_hibernate_asks who reaches may⟩⟩,
    fun s => ⟨exec_hibernateRequest_other, exec_hibernateRequest_refused, exec_hibernateRequest_saves⟩,
    fun s runs asks => ⟨⟨_, exec_hibernateReady_true runs asks, s.hibernateSave_spec.1⟩, exec_hibernateReady_false runs asks,
      exec_hibernateTimeout_late runs asks, fun early => exec_hibernateTimeout_idle (.inr early)⟩,
    fun s ready quiet => ⟨exec_hibernateReady_idle ready quiet, exec_hibernateTimeout_idle (.inl quiet)⟩,
    fun s => ⟨fun idle => congrArg Host.Outcome.next (State.emberIdle_idle idle), fun saving => ⟨s.emberIdle, rfl, State.emberIdle_spec saving⟩⟩,
    fun s ch k code r g => ⟨fun awake => exec_emberSample_awake awake ch code, ?sample⟩,
    fun s src runs may => ⟨fun asleep => ?wake, exec_wake_waits runs may⟩, fun s src => exec_wake_refused,
    fun s who reaches => ⟨fun going => ?going, fun stopped => ?stopped⟩⟩
  case pass =>
    obtain ⟨t, whole, spec⟩ := State.batteryPass_spec due going
    exact ⟨t, congrArg Host.Outcome.next ((State.live_runs runs).trans whole), spec⟩
  case refused =>
    obtain ⟨may, link, holds, sync, failed⟩ := served_hibernates s who
    rw [exec_hibernate who reaches, State.hibernate_refused (by rw [may, link, holds, sync, failed]; exact refused)]
  case sample =>
    intro runs asleep small found own gain
    obtain ⟨counted, shown⟩ := State.emberSample_counts (code := code) asleep small found own (code * g) (by rw [gain]; rfl)
    obtain ⟨regs, others⟩ := State.emberSample_kept asleep ch code
    exact ⟨s.emberSample ch code, exec_emberSample runs ch code, counted, by rw [shown, counted], others, regs⟩
  case wake =>
    obtain ⟨emb, source, reports, regs, -⟩ := s.wakeUp_spec src
    exact ⟨s.wakeUp src, exec_wake_asleep runs may asleep, by rw [emb], by rw [emb], source, reports, regs⟩
  case going =>
    have stopped : (served s who).flag F.EMB_STAT_STOPPED = false :=
      (served_congr (fun t => t.flag F.EMB_STAT_STOPPED) s who 4 fun _ => rfl).trans going
    have same : (served s who).estRestart = served s who := if_neg (by simp [stopped])
    rw [exec_estimatorRestart who reaches, same]
  case stopped =>
    have marked : (served s who).estRestart = (served s who).onEst fun e => { e with restart := true } :=
      if_pos ((served_congr (fun t => t.flag F.EMB_STAT_STOPPED) s who 4 fun _ => rfl).trans stopped)
    rw [exec_estimatorRestart who reaches, marked]
    obtain ⟨c, counted⟩ := served_scb s who 4
    rw [counted]
    rfl

end Sys2Proof.Machine
end
